-- ==== Sys2Proof/Word.lean ====
section
/-! DEFINITION. The register word and the byte of the WVX1620 (R481, R9), and their plainest arithmetic. -/

namespace Sys2Proof

/-- One 32-bit register word (R481). -/
abbrev Word := BitVec 32

/-- One byte of a structure in the Store or the NVM (R9). -/
abbrev Byte := BitVec 8

/-- A counter that stops at its largest value (Table 16-3, "saturates"). -/
def satInc {w : Nat} (x : BitVec w) : BitVec w :=
  if x = BitVec.allOnes w then x else x + 1

end Sys2Proof
end

