-- ==== Sys2Proof/Syntax.lean ====
section
/-! DEFINITION. The commands of the block: one constructor of Instr per row of spec/opcode_table.json, with the
operands the row's rule needs. An operand that is no register value is what the part finds in the outside world
(a level, a measured figure, the outcome of a check word of an array): the command carries it. -/

namespace Sys2Proof

/-- The two sides of the part (00, "The part and where it sits"). -/
inductive Side where
  | A | B
  deriving DecidableEq, Repr

/-- The two directions: AB is received on side A and sent on side B. -/
inductive Dir where
  | AB | BA
  deriving DecidableEq, Repr

/-- A lane position on one side, 0 to 17. -/
abbrev Pos := Fin 18
/-- A link, L0 to L7. -/
abbrev LinkNo := Fin 8
/-- A logical lane within its link. -/
abbrev LLane := Fin 16
/-- A requester context, C0 to C3 (R273). -/
abbrev Ctx := Fin 4
/-- A context with stored Window entries: 0, 1, 2 stand for C1, C2, C3 (R320). -/
abbrev WinCtx := Fin 3
abbrev MoverNo := Fin 4
abbrev WqNo := Fin 32
abbrev CqNo := Fin 8
abbrev SlotNo := Fin 8
abbrev SeqNo := Fin 2
abbrev SpareNo := Fin 2
/-- A side PLL: 0 to 3 are A0, A1, B0, B1. -/
abbrev SidePll := Fin 4
/-- A PLL: 0 to 3 as SidePll, 4 the core PLL (Table 17-1, PLL_LOSS). -/
abbrev PllNo := Fin 5

/-- The supply rails, in the order of FAULTSRC.RAIL (Table 17-7). -/
inductive Rail where
  | vdd | vdda | vtxa | vtxb | vddpll | vio | vnvm | vddsw
  deriving DecidableEq, Repr

/-- The causes that close the Welt (Table 2-1). -/
inductive WeltCause where
  | vddsw | reset | bypN | devAside | thermal | testEn | standby
  | unnamed | bypassMode | linkAside | notJoined
  deriving DecidableEq, Repr

/-- What the straps and TEST_EN show at reset release (R25, R28), and whether REFCLK lets the core PLL lock (R518). -/
structure Straps where
  addr    : BitVec 2
  bootsel : Bool
  testEn  : Bool
  refclk  : Bool
  deriving DecidableEq, Repr

/-- How one controller-mode transfer from the EEPROM ends (R284, R287). -/
inductive EepromResult where
  | bytes (data : List Byte)
  | nack
  | timeout
  deriving DecidableEq, Repr

/-- What boot phase 0x3 measures: REXT in tenths of an ohm, the RX and TX termination codes of the 36 lanes in the order of
Table 9-2 (R258), and the sensors T0, T1, T2 in 1/8 °C (R257). -/
structure CalMeas where
  rext  : Nat
  terms : Vector (BitVec 5 × BitVec 5) 36
  t0    : BitVec 16
  t1    : BitVec 16
  t2    : BitVec 16
  deriving DecidableEq, Repr

/-- What can trigger a join (R54). -/
inductive JoinTrig where
  | trainingSet (d : Dir)
  | idle (d : Dir)
  | noSignal
  deriving DecidableEq, Repr

/-- The four sensors as the thermal comparators find them, in signed 1/8 °C (R471). -/
structure Temps where
  t0 : BitVec 16
  t1 : BitVec 16
  t2 : BitVec 16
  t3 : BitVec 16
  deriving DecidableEq, Repr

/-- What the SECDED code of a Store word, or the code of an NVM unit, finds there (R310, R312, R423, R424). -/
inductive Ecc where
  | clean | corrected | uncorrectable
  deriving DecidableEq, Repr

/-- An array word whose code finds something from now on: a 64-bit word of the Store, or a 16-byte unit of the NVM's main
array or of its OTP area. -/
inductive Upset where
  | store (word : BitVec 20) (found : Ecc)
  | nvm (unit : BitVec 16) (found : Ecc)
  | otp (unit : BitVec 7) (found : Ecc)
  deriving DecidableEq, Repr

/-- The supported line rates (LNSTAT.RATE 0x1 to 0x6). -/
inductive Rate where
  | r2p5 | r5 | r10 | r12p5 | r16 | r20
  deriving DecidableEq, Repr

/-- A skip set as it enters the buffer (R140): its number of SKP; whether its COM leaves the aligner in line with
the link's other lanes (R179, R198); whether the comparison of a swap's duplicate passed over it (R209). -/
structure SkipSet where
  skp    : BitVec 4
  inLine : Bool
  same   : Bool
  deriving DecidableEq, Repr

/-- One rate-limited step of an analogue setting (Table 9-4). A loop or a correction names its direction; a
setting with a register target moves toward that target. -/
inductive TrimStep where
  | ctle (up : Bool) | vga (up : Bool) | dfe (k : Fin 12) (up : Bool)
  | ofsD (up : Bool) | ofsE (up : Bool) | ofsO (up : Bool)
  | rxterm (up : Bool) | txterm (up : Bool) | txgain (up : Bool)
  | pre | post | swing | ctleSet
  deriving DecidableEq, Repr

/-- A training set: the content bytes of positions 2 to 14 (Tables 6-2, 6-3), and the skew in symbols that the
aligner measures over the direction's trained lanes at this set (R179). -/
structure Tos where
  pos  : Vector Byte 13
  skew : Nat
  deriving DecidableEq, Repr

/-- A management ordered set: the bytes of positions 2 to 12 and the CRC of positions 13, 14 (Table 10-3). -/
structure Mos where
  pos : Vector Byte 11
  crc : BitVec 16
  deriving DecidableEq, Repr

/-- The payload of SPARE and SPARE_RSP (Table 7-3): arg is CAUSE in a SPARE and STATUS in a SPARE_RSP. -/
structure SpareMsg where
  op   : Byte
  dir  : Byte
  lane : Byte
  spare : Byte
  arg  : Byte
  id   : Byte
  deriving DecidableEq, Repr

/-- The mismatches that the first pass of a sweep counts (R237, R239): at the data sampling point, then outward from it, to
higher and to lower h, as far as it steps. -/
structure SweepRow where
  origin : Nat
  right  : List Nat
  left   : List Nat
  deriving DecidableEq, Repr

/-- The mismatches that the second pass counts, from the data sampling point to higher and to lower v. -/
structure SweepColumn where
  up   : List Nat
  down : List Nat
  deriving DecidableEq, Repr

/-- The events of a preset search (R181). -/
inductive SearchEvent where
  | ack | reject | timeout | dwellEnd
  deriving DecidableEq, Repr

/-- The low-power states that MOS name (R219). -/
inductive LpState where
  | sleepAB | sleepBA | deep
  deriving DecidableEq, Repr

/-- A bus condition of the two-wire bus (R281). -/
inductive BusEdge where
  | start | stop
  deriving DecidableEq, Repr

/-- The kind of unit a Job needs (Table 13-1). -/
inductive UnitReq where
  | mover | nvm | cap (sd : Side) | lane (sd : Side) (p : Pos) | inband
  deriving DecidableEq, Repr

/-- One unit (R369, R420). -/
inductive UnitId where
  | mover (m : MoverNo) | nvm | cap (sd : Side) | lane (sd : Side) (p : Pos) | inband
  deriving DecidableEq, Repr

/-- What a running erase is suspended for (R428). -/
inductive SuspendFor where
  | urgentJob | windowRead | logWrite | awl
  deriving DecidableEq, Repr

/-- The boundary register (R300): one cell per lane RX and TX pin (side A's positions lowest, then side B's) and for
REFCLK by IEEE 1149.6, one per management ball but the TAP's own and TEST_EN by IEEE 1149.1. The spec gives no order of
the cells: each is held by its ball's name (log entry 41). -/
structure Boundary where
  rx      : BitVec 36
  tx      : BitVec 36
  refclk  : Bool
  resetN  : Bool
  bypN    : Bool
  addr    : BitVec 2
  bootsel : Bool
  sync    : Bool
  scl     : Bool
  sda     : Bool
  attnN   : Bool
  faultN  : Bool
  deriving DecidableEq, Repr

/-- The commands: the rows of spec/opcode_table.json, in its order. -/
inductive Instr where
  /-- WELT_CAUSE_ARISES (R40): the cause's source (pump, RESET_N, BYP_N level; the others are computed from state) arises; settle: TX off, switches closed, device-wide cause forces every link, tests end. -/
  | weltCauseArises (c : WeltCause)
  /-- WELT_CAUSE_CLEARS (R41): the source clears; settle: FORCED links leave, positions without cause get their switches commanded open. -/
  | weltCauseClears (c : WeltCause)
  /-- WELT_OPEN_CONFIRMED (R41): both pairs of p sensed open: TX of p enabled; a JOINING link whose positions are all open becomes JOINED and starts training / retiming. -/
  | weltOpenConfirmed (p : Pos)
  /-- CHARGE_PUMP_READY (R42): WELT_PUMP_OK := 1 when VDDSW valid; settle. -/
  | chargePumpReady
  /-- RAIL_VALID (R46): rail valid; VIO starts at 1.8 V level. -/
  | railValid (r : Rail)
  /-- RAIL_INVALID (R47): rail invalid; VDDSW closes the Welt only; another enters power-on reset. -/
  | railInvalid (r : Rail)
  /-- SUPPLY_OUT_OF_WINDOW (R469): FAULTSRC.SUPPLY, RAIL bit, SUPPLY_WINDOW event. -/
  | supplyOutOfWindow (r : Rail)
  /-- RESET_N_PULSE (R511): enter reset (R48). -/
  | resetNPulse
  /-- BYP_N_PULSE (R511): BYP_N low: device-wide cause. -/
  | bypNPulse
  /-- RESET_RELEASE (R25): sample straps; boot phase 0: PLL lock, tags cleared; header restore (R431); DTIME 0. -/
  | resetRelease (st : Straps)
  /-- TEST_EN_HIGH (R28): test mode: Bypass, FAULT_N low, two-wire silent until reset. -/
  | testEnHigh
  /-- LAST_SELECTION (R92): phase 1: the chain of R92; LASTBOOT, LAST_CANDIDATE events, LAST_SRC, fallback. -/
  | lastSelection
  /-- EEPROM_TRANSFER (R284): header or body transfer of the EEPROM image. -/
  | eepromTransfer (r : EepromResult)
  /-- ARBITRATION_LOST (R286): ARB_LOST step; eighth ends with READ_FAIL. -/
  | arbitrationLost
  /-- GLOBAL_APPLY (R49): phase 2: apply MGMT WINDOWS QUEUES TELEM HEEL THRESH; ATTN. -/
  | globalApply
  /-- BOOT_CALIBRATION (R253): phase 3: record check, boot or full calibration, lane registers loaded. -/
  | bootCalibration (m : CalMeas)
  /-- BOOT_DONE (R49): phase 4: BOOT_DONE, link bring-up. -/
  | bootDone
  /-- CALREC_WRITE (R260): erase, program, verify the unused copy. -/
  | calrecWrite (ok : Bool)
  /-- JOIN_TRIGGER (R55): WAIT_TRAIN to JOINING when k is a trigger for the link's mode. -/
  | joinTrigger (l : LinkNo) (k : JoinTrig)
  /-- JOIN_TIMEOUT (R53): WAIT_TRAIN to JOINING, log JOIN_TIMEOUT. -/
  | joinTimeout (l : LinkNo)
  /-- LNKCTL_JOIN (R56): LNKCTL write with JOIN=1. -/
  | lnkctlJoin (c : Ctx) (l : LinkNo) (v : Word)
  /-- LNKCTL_ASIDE (R53): LNKCTL write, ASIDE as bit 30 of v. -/
  | lnkctlAside (c : Ctx) (l : LinkNo) (v : Word)
  /-- DEVCTL_ASIDE (R63): DEVCTL write, ASIDE as bit 2 of v. -/
  | devctlAside (c : Ctx) (v : Word)
  /-- DEVCTL_STANDBY (R58): DEVCTL write with STANDBY=1. -/
  | devctlStandby (c : Ctx) (v : Word)
  /-- STANDBY_ENTERED (R59): requested Standby is entered; Store, Windows, queues, training lost. -/
  | standbyEntered
  /-- DEVCTL_WAKE (R60): DEVCTL write with WAKE=1. -/
  | devctlWake (c : Ctx) (v : Word)
  /-- STANDBY_EXIT_DONE (R60): BOOT_DONE, links at JOIN_AT start. -/
  | standbyExitDone
  /-- DEVCTL_THERM_REARM (R61): DEVCTL write with THERM_REARM=1. -/
  | devctlThermRearm (c : Ctx) (v : Word)
  /-- THERMAL_SAMPLE (R471): comparators: two samples beyond a threshold cross it. -/
  | thermalSample (t : Temps)
  /-- LAST_STAGE (R384): next block of the LAST_STAGE Job on Mover m; at its end check and compare. -/
  | lastStage (m : MoverNo) (e : List Upset)
  /-- COMMIT (R108): LASTCMD write with COMMIT=1. -/
  | commit (c : Ctx) (v : Word)
  /-- DISCARD (R107): LASTCMD write with DISCARD=1. -/
  | discard (c : Ctx) (v : Word)
  /-- LINK_SWITCH_INSTANT (R109): a pending H link switches, epoch steps. -/
  | linkSwitchInstant (l : LinkNo)
  /-- SKIP_ABSENT (R109): as above, logging SKIP_ABSENT. -/
  | skipAbsent (l : LinkNo)
  /-- IDLE_PERIOD_END (R112): 4 us idle ends: lanes resume. -/
  | idlePeriodEnd (l : LinkNo)
  /-- COMMIT_ROLLBACK (R113): 100 ms without ACTIVE: old settings, epoch, MIXED. -/
  | commitRollback (l : LinkNo)
  /-- PAD_SET_PASSES (R297): fill the pad set with the waiting MOS of highest priority. -/
  | padSetPasses (l : LinkNo) (d : Dir)
  /-- EPOCH_UNSENT (R120): marker dropped and logged. -/
  | epochUnsent (l : LinkNo) (d : Dir)
  /-- RATE_DETECTED (R132): LNSTAT.RATE; link rate taken up. -/
  | rateDetected (sd : Side) (p : Pos) (r : Rate)
  /-- CDR_LOCK_GAINED (R131): CDR_LOCK set; restoration. -/
  | cdrLockGained (sd : Side) (p : Pos)
  /-- CDR_LOCK_LOST (R131): CDR_LOCK, SYM_LOCK clear; loss decision; loop holdover; scan aborted. -/
  | cdrLockLost (sd : Side) (p : Pos)
  /-- COMMA_RECEIVED (R133): symbol boundary and SYM_LOCK. -/
  | commaReceived (sd : Side) (p : Pos) (ph : Fin 10)
  /-- RX_CODE_GROUP (R137): decode check, substitution, counting, capture, EB; reads is how many symbols the transmit
  clock takes from the buffer in this symbol time. -/
  | rxCodeGroup (sd : Side) (p : Pos) (g : BitVec 10) (reads : Fin 3)
  /-- LNCTL_RECENTRE (R144): LNCTL write with RECENTRE=1. -/
  | lnctlRecentre (c : Ctx) (sd : Side) (p : Pos) (v : Word)
  /-- LNCTL_BITSLIP (R135): LNCTL write with BITSLIP=1. -/
  | lnctlBitslip (c : Ctx) (sd : Side) (p : Pos) (v : Word)
  /-- SKIP_SET_ARRIVES (R141): skip edit, deskew watch, restoration, receive switch. -/
  | skipSetArrives (sd : Side) (p : Pos) (k : SkipSet)
  /-- SKIP_RATE_WINDOW (R145): window ends, counts restart. -/
  | skipRateWindow
  /-- LOOP_MASTER_MOVED (R149): mastership to the lowest locked lane. -/
  | loopMasterMoved (l : LinkNo) (d : Dir)
  /-- SWING_LIMIT (R154): SWING_ACT lowered to deliverable code c. -/
  | swingLimit (sd : Side) (p : Pos) (c : BitVec 5)
  /-- SWING_RAISE (R154): SWING_ACT up by one code. -/
  | swingRaise (sd : Side) (p : Pos) (room : Bool)
  /-- LNTXDRV_WRITE (R155): new transmitter targets. -/
  | lntxdrvWrite (c : Ctx) (sd : Side) (p : Pos) (v : Word)
  /-- TRIM_RAMP_STEP (R262): one code toward target. -/
  | trimRampStep (sd : Side) (p : Pos) (t : TrimStep)
  /-- LNSNAP_TAKE (R162): LNSNAP write with TAKE=1. -/
  | lnsnapTake (c : Ctx) (sd : Side) (p : Pos) (v : Word)
  /-- LNSNAP_RELEASE (R163): LNSNAP write with RELEASE=1. -/
  | lnsnapRelease (c : Ctx) (sd : Side) (p : Pos) (v : Word)
  /-- SNAPSHOT_EXPIRY (R163): HELD := 0. -/
  | snapshotExpiry (sd : Side) (p : Pos)
  /-- SIDE_PLL_LOSS (R469): lanes lost, PLL_LOSS. -/
  | sidePllLoss (q : SidePll)
  /-- CORE_PLL_LOSS (R469): DEVCTL.ASIDE, FREE. -/
  | corePllLoss
  /-- PLL_RELOCK_ATTEMPT (R469): unlock bit clears on success. -/
  | pllRelockAttempt (q : PllNo) (ok : Bool)
  /-- RECEIVER_DETECT (R178): DETW. -/
  | receiverDetect (l : LinkNo) (sd : Side) (mask : BitVec 16)
  /-- TRAINING_SET_RECEIVED (R171): training FSM. -/
  | trainingSetReceived (l : LinkNo) (sd : Side) (k : LLane) (t : Tos)
  /-- RATE_DISCARD (R177): rate taken up discarded. -/
  | rateDiscard (l : LinkNo)
  /-- TRAIN_TIMEOUT (R177): to DETECT, LAST_FAIL, FAIL_RUN. -/
  | trainTimeout (l : LinkNo)
  /-- PRESET_SEARCH_STEP (R181): one step of R181's search. -/
  | presetSearchStep (sd : Side) (p : Pos) (o : SearchEvent)
  /-- LNKCTL_RETRAIN (R186): LNKCTL write with RETRAIN=1. -/
  | lnkctlRetrain (c : Ctx) (l : LinkNo) (v : Word)
  /-- FORCED_IDLE_RETRAIN (R186): enter RETRAIN, idle. -/
  | forcedIdleRetrain (l : LinkNo)
  /-- ELECTRICAL_IDLE_DETECTED (R187): SIG_DET 0; LOOPBACK exit; DISABLED entry. -/
  | electricalIdleDetected (sd : Side) (p : Pos)
  /-- LNKCTL_DISABLE (R188): LNKCTL write, DISABLE as bit 1 of v. -/
  | lnkctlDisable (c : Ctx) (l : LinkNo) (v : Word)
  /-- LNKCTL_CLR_RETRAINS (R192): LNKCTL write with CLR_RETRAINS=1. -/
  | lnkctlClrRetrains (c : Ctx) (l : LinkNo) (v : Word)
  /-- IDLE_ENTRY_SET_RECEIVED (R185): sleep, DEEP or RETRAIN. -/
  | idleEntrySetReceived (l : LinkNo) (d : Dir)
  /-- SLEEP_WAKE (R222): wake starts. -/
  | sleepWake (l : LinkNo) (sd : Side)
  /-- WAKE_FAIL (R221): retrain request, log. -/
  | wakeFail (l : LinkNo)
  /-- DEEP_ENTRY_TIMEOUT (R221): stay asleep or retrain request. -/
  | deepEntryTimeout (l : LinkNo)
  /-- LP_GRANT_SEEN (R219): negotiated state. -/
  | lpGrantSeen (l : LinkNo) (st : LpState)
  /-- LP_REQ_IDLE (R220): LP_REQ queued. -/
  | lpReqIdle (l : LinkNo) (st : LpState)
  /-- UNRECOVERED_TIMEOUT (R203): UNRECOVERED on a SAFETY link. -/
  | unrecoveredTimeout (l : LinkNo) (d : Dir) (k : LLane)
  /-- SPARE_LOCK_TIMER (R204): WARM or FAILED. -/
  | spareLockTimer (l : LinkNo) (n : SpareNo) (d : Dir) (locked : Bool)
  /-- SPARE_RSP_RECEIVED (R209): swap advances or fails. -/
  | spareRspReceived (l : LinkNo) (sd : Side) (r : SpareMsg)
  /-- SPARE_MOS_FORWARDED (R208): FORWARD / WARM. -/
  | spareMosForwarded (l : LinkNo) (r : SpareMsg)
  /-- SWAP_TIMEOUT (R210): swap fails TIMEOUT. -/
  | swapTimeout (l : LinkNo)
  /-- SPARE_RETRY (R298): SPARE queued again, at most twice. -/
  | spareRetry (l : LinkNo)
  /-- PREDICTIVE_EVALUATION (R215): Heel's evaluation of every trained lane. -/
  | predictiveEvaluation
  /-- LNKSPCMD_SWAP (R218): LNKSPCMD write with OP SWAP. -/
  | lnkspcmdSwap (c : Ctx) (l : LinkNo) (v : Word)
  /-- LNKSPCMD_BACK (R218): LNKSPCMD write with OP BACK. -/
  | lnkspcmdBack (c : Ctx) (l : LinkNo) (v : Word)
  /-- LNKLOSS_UNCAP (R201): LNKLOSS write with UNCAP=1. -/
  | lnklossUncap (c : Ctx) (l : LinkNo) (v : Word)
  /-- PRBS_GEN_ENABLE (R242): LNPRBS write, GEN_EN as bit 4 of v. -/
  | prbsGenEnable (c : Ctx) (sd : Side) (p : Pos) (v : Word)
  /-- PRBS_CHK_ENABLE (R226): LNPRBS write, CHK_EN as bit 5 of v. -/
  | prbsChkEnable (c : Ctx) (sd : Side) (p : Pos) (v : Word)
  /-- PRBS_INJECT (R230): LNPRBS write with INJECT=1. -/
  | prbsInject (c : Ctx) (sd : Side) (p : Pos) (v : Word)
  /-- PRBS_CHECKER_LOCK (R231): CHK_LOCK. -/
  | prbsCheckerLock (sd : Side) (p : Pos)
  /-- PRBS_LOCK_LOST (R231): CHK_LOCK cleared, LOCK_LOST, event. -/
  | prbsLockLost (sd : Side) (p : Pos)
  /-- COUNTER_CLR (R227): LNSYMCNT_HI write with CLR=1. -/
  | counterClr (c : Ctx) (sd : Side) (p : Pos) (v : Word)
  /-- LNSCAN_START (R235): LNSCAN write with START=1. -/
  | lnscanStart (c : Ctx) (sd : Side) (p : Pos) (v : Word)
  /-- SCAN_POINT_DONE (R235): LNSCANCNT, DONE. -/
  | scanPointDone (sd : Side) (p : Pos) (n : Word)
  /-- EYE_SWEEP_END (R237): LNEYE VALID, alarm, recal check. -/
  | eyeSweepEnd (sd : Side) (p : Pos) (w : SweepRow) (h : SweepColumn)
  /-- TRAINING_SWEEP_END (R239): LNEYE TRAINING. -/
  | trainingSweepEnd (sd : Side) (p : Pos) (w : SweepRow) (h : SweepColumn)
  /-- LOOP_NEAR_SERIAL (R244): LNLOOP write MODE=1. -/
  | loopNearSerial (c : Ctx) (sd : Side) (p : Pos) (v : Word)
  /-- LOOP_NEAR_PARALLEL (R245): LNLOOP write MODE=2. -/
  | loopNearParallel (c : Ctx) (sd : Side) (p : Pos) (v : Word)
  /-- LOOP_FAR_END (R246): LNLOOP write MODE=3. -/
  | loopFarEnd (c : Ctx) (sd : Side) (p : Pos) (v : Word)
  /-- LOOP_OFF (R248): LNLOOP write MODE=0. -/
  | loopOff (c : Ctx) (sd : Side) (p : Pos) (v : Word)
  /-- CALCMD_GO (R264): CALCMD write with GO=1. -/
  | calcmdGo (c : Ctx) (v : Word)
  /-- CALCMD_SAVE (R261): CALCMD write with SAVE=1. -/
  | calcmdSave (c : Ctx) (v : Word)
  /-- RECAL_EVALUATION (R264): due units; next recalibration starts. -/
  | recalEvaluation
  /-- RECAL_STEP (R265): a step of the running recalibration. -/
  | recalStep (last : Bool)
  /-- RECAL_ABORTED (R268): trims restored. -/
  | recalAborted
  /-- ADC_SELF_CAL (R269): ADC_CAL, STALE. -/
  | adcSelfCal
  /-- ADC_SELF_CAL_END (R270): ADC_CAL ends, decimator restarts. -/
  | adcSelfCalEnd
  /-- TWB_ADDRESS (R275): ack or not. -/
  | twbAddress (a : BitVec 7) (rd : Bool)
  /-- TWB_WRITE_WORD (R276): first word: pointer; later words: register writes. -/
  | twbWriteWord (v : Word) (e : List Upset)
  /-- TWB_READ_WORD (R278): register read at the pointer. -/
  | twbReadWord (e : List Upset)
  /-- TWB_START_STOP (R281): framing restarts. -/
  | twbStartStop (k : BusEdge) (extra : Fin 4)
  /-- TWB_LATE (R280): 0xFFFF_FFFF sent, LATE. -/
  | twbLate
  /-- TWB_WAKE (R282): NACK and wake. -/
  | twbWake (a : BitVec 7)
  /-- TWB_SLEEP (R282): AWAKE 0. -/
  | twbSleep
  /-- TWB_SCL_LOW (R283): timeout. -/
  | twbSclLow (extra : Fin 4)
  /-- TWB_SDA_LOW (R283): timeout. -/
  | twbSdaLow (extra : Fin 4)
  /-- MOS_RECEIVED (R292): Table 10-5. -/
  | mosReceived (l : LinkNo) (sd : Side) (m : Mos) (e : List Upset)
  /-- MOS_RD (R291): RD served. -/
  | mosRd (l : LinkNo) (sd : Side) (seq : BitVec 12) (a : Word) (two : Bool) (e : List Upset)
  /-- MOS_WR (R291): WR served. -/
  | mosWr (l : LinkNo) (sd : Side) (seq : BitVec 12) (a : Word) (v : Word) (e : List Upset)
  /-- NOTIFY_REPEAT (R299): NOTIFY queued again. -/
  | notifyRepeat
  /-- JTAG_EXTEST (R301): IR, boundary drives open-Welt TX. -/
  | jtagExtest
  /-- JTAG_IDCODE (R300): IR, DR := DEVID. -/
  | jtagIdcode
  /-- JTAG_SAMPLE_PRELOAD (R300): IR; the cells are captured, and loaded. -/
  | jtagSamplePreload
  /-- JTAG_EXTEST_PULSE (R301): IR. -/
  | jtagExtestPulse
  /-- JTAG_EXTEST_TRAIN (R301): IR. -/
  | jtagExtestTrain
  /-- JTAG_HIGHZ (R301): IR, outputs off. -/
  | jtagHighz
  /-- JTAG_CLAMP (R301): IR. -/
  | jtagClamp
  /-- JTAG_BYPASS (R300): IR. -/
  | jtagBypass (op : BitVec 8)
  /-- JTAG_TAP_RESET (R300): IR := IDCODE; TRST_N is high from then on (reset by TMS, or by a low pulse). -/
  | jtagTapReset
  /-- STORE_READ (R326): translate, check, read. -/
  | storeRead (c : Ctx) (a : BitVec 24) (e : List Upset)
  /-- STORE_WRITE (R307): translate, check, write. -/
  | storeWrite (c : Ctx) (a : BitVec 24) (v : Word) (e : List Upset)
  /-- WINDOW_ENTRY_WRITE (R321): entry write. -/
  | windowEntryWrite (c : Ctx) (t : WinCtx) (pg : BitVec 12) (v : Word)
  /-- WINCTL_SYNC (R325): WINCTL write with SYNC=1. -/
  | winctlSync (c : Ctx) (v : Word)
  /-- SYNC_BARRIER_DONE (R325): SYNC_BUSY 0. -/
  | syncBarrierDone (c : Ctx)
  /-- SCRUB_LINE (R315): next line. -/
  | scrubLine (e : List Upset)
  /-- CE_RATE_HOUR (R311): hour ends. -/
  | ceRateHour
  /-- STORE_CE_CLR (R332): STORESTAT write with CE_CLR=1. -/
  | storeCeClr (c : Ctx) (v : Word)
  /-- WQ_ENABLE (R338): WQCTL write with ENABLE=1. -/
  | wqEnable (c : Ctx) (q : WqNo) (v : Word)
  /-- WQ_DISABLE (R339): WQCTL write with ENABLE=0. -/
  | wqDisable (c : Ctx) (q : WqNo) (v : Word)
  /-- WQ_RESET (R339): WQCTL write with RESET=1. -/
  | wqReset (c : Ctx) (q : WqNo) (v : Word)
  /-- WQ_DOORBELL (R340): WQDB write. -/
  | wqDoorbell (c : Ctx) (q : WqNo) (v : Word)
  /-- ENTRY_PREFETCH (R343): read and check the next entry. -/
  | entryPrefetch (q : WqNo) (e : List Upset)
  /-- HEADER_WRITE (R336): header bytes 8-15. -/
  | headerWrite (q : WqNo)
  /-- JOB_START (R352): scheduler. -/
  | jobStart (u : UnitReq) (heel : Bool)
  /-- PREEMPT_FLUSH_DONE (R400): victim saved, URGENT Job starts. -/
  | preemptFlushDone (m : MoverNo) (e : List Upset)
  /-- JOB_END (R351): finished Job leaves its unit. -/
  | jobEnd (u : UnitId)
  /-- COMPLETION_WRITE (R356): oldest due record. -/
  | completionWrite (q : CqNo)
  /-- DRAIN_COMPLETE (R337): DRAINING to DISABLED. -/
  | drainComplete (q : WqNo)
  /-- CQ_ENABLE (R358): CQCTL write with ENABLE=1. -/
  | cqEnable (c : Ctx) (q : CqNo) (v : Word)
  /-- CQ_DISABLE (R360): CQCTL write with ENABLE=0. -/
  | cqDisable (c : Ctx) (q : CqNo) (v : Word)
  /-- CQHEAD_WRITE (R359): CQHEAD write. -/
  | cqheadWrite (c : Ctx) (q : CqNo) (v : Word)
  /-- NOP (R371): next entry NOP ends. -/
  | nop (q : WqNo)
  /-- FENCE (R372): next entry FENCE starts, ends when it may. -/
  | fence (q : WqNo)
  /-- MOVE (R374): next block. -/
  | move (m : MoverNo) (e : List Upset)
  /-- CAPTURE (R390): checks and arming. -/
  | capture (sd : Side)
  /-- CAPTURE_TRIGGER (R392): trigger row. -/
  | captureTrigger (sd : Side) (ln : BitVec 8)
  /-- CAPTURE_STOP (R392): header written. -/
  | captureStop (sd : Side)
  /-- CAPTURE_TIMEOUT (R393): CAP_TIMEOUT. -/
  | captureTimeout (sd : Side)
  /-- CAPTURE_LOST_PAGE (R393): CAP_LOST_PAGE. -/
  | captureLostPage (sd : Side)
  /-- EYESCAN (R377): the next counts of the map's row in hand, at most to its end, or its header. -/
  | eyescan (sd : Side) (p : Pos) (row : List Word)
  /-- EYESCAN_LOCK_TIMEOUT (R377): EYE_INCOMPLETE. -/
  | eyescanLockTimeout (sd : Side) (p : Pos)
  /-- PRBS_JOB (R380): test set up. -/
  | prbsJob (sd : Side) (p : Pos)
  /-- PRBS_JOB_INJECT (R380): one error injected. -/
  | prbsJobInject (sd : Side) (p : Pos)
  /-- PRBS_JOB_DURATION_END (R380): result written. -/
  | prbsJobDurationEnd (sd : Side) (p : Pos)
  /-- NVM_READ (R381): next unit. -/
  | nvmRead (e : List Upset)
  /-- NVM_PROGRAM (R382): source read, protection and erasure checked. -/
  | nvmProgram (e : List Upset)
  /-- NVM_UNIT_PROGRAMMED (R427): unit programmed and verified. -/
  | nvmUnitProgrammed (ok : Bool)
  /-- NVM_ERASE (R383): protection checked, first sector begins. -/
  | nvmErase
  /-- NVM_SECTOR_ERASED (R430): sector done. -/
  | nvmSectorErased (ok : Bool)
  /-- ERASE_SUSPEND (R428): erase suspended. -/
  | eraseSuspend (w : SuspendFor)
  /-- ERASE_RESUME (R428): erase resumes. -/
  | eraseResume
  /-- TELEMETRY (R386): snapshot. -/
  | telemetry (m : MoverNo)
  /-- IMC_SEND (R387): MOS queued. -/
  | imcSend
  /-- IMC_NO_SLOT (R387): IMC_NO_SLOT. -/
  | imcNoSlot
  /-- WQ_RESUME (R407): WQCTL write with RESUME=1. -/
  | wqResume (c : Ctx) (q : WqNo) (v : Word)
  /-- AWL_QUEUE (R412): AWLCMD KIND 1. -/
  | awlQueue (c : Ctx) (q : WqNo)
  /-- AWL_JOB (R412): AWLCMD KIND 2. -/
  | awlJob (c : Ctx) (q : WqNo) (tag : BitVec 16)
  /-- AWL_UNIT (R414): AWLCMD KIND 3. -/
  | awlUnit (c : Ctx) (sel : BitVec 8)
  /-- AWL_LANE (R414): AWLCMD KIND 4. -/
  | awlLane (c : Ctx) (sel : BitVec 8)
  /-- AWL_ALL (R412): AWLCMD KIND 5. -/
  | awlAll (c : Ctx)
  /-- AWL_DONE (R413): DONE, outcome. -/
  | awlDone
  /-- NVM_WINDOW_READ (R425): NVM read window. -/
  | nvmWindowRead (c : Ctx) (off : BitVec 20) (e : List Upset)
  /-- NVM_LOG_WRITE (R436): waiting record to the log. -/
  | nvmLogWrite (ok : Bool)
  /-- LOG_TOKEN_TICK (R435): token. -/
  | logTokenTick
  /-- NVMCTL_CE_CLR (R442): NVMCTL write with CE_CLR=1. -/
  | nvmctlCeClr (c : Ctx) (v : Word)
  /-- SEQUENCER_TIMER_TRIGGER (R448): timer trigger. -/
  | sequencerTimerTrigger (n : SeqNo)
  /-- DECIMATOR_OUTPUT (R445): decimator output. -/
  | decimatorOutput (v : BitVec 16)
  /-- SYNC_EDGE (R450): SYNC edge. -/
  | syncEdge
  /-- TMSEQCTL_RESTART (R448): TMSEQCTL write with RESTART=1. -/
  | tmseqctlRestart (c : Ctx) (n : SeqNo) (v : Word)
  /-- DTIME_LOAD_NOW (R456): SYNCCTL write with LOAD_NOW=1. -/
  | dtimeLoadNow (c : Ctx) (v : Word)
  /-- DTIME_LO_READ (R455): read of DTIME_LO. -/
  | dtimeLoRead (c : Ctx)
  /-- DTRATE_WRITE (R453): DTRATE write. -/
  | dtrateWrite (c : Ctx) (v : Word)
  /-- HEEL_WATCHDOG_TRIP (R470): Heel restarted. -/
  | heelWatchdogTrip
  /-- WELT_MISMATCH (R469): safety fault. -/
  | weltMismatch (p : Pos) (stuckOpen : Bool)
  /-- REG_READ_CLEAR (R11): register read. -/
  | regReadClear (c : Ctx) (a : Word) (e : List Upset)
  /-- REG_WRITE (R484): register write. -/
  | regWrite (c : Ctx) (a : Word) (v : Word) (e : List Upset)
  /-- SIGNAL_DETECTED (R188): SIG_DET; DISABLED exit. -/
  | signalDetected (sd : Side) (p : Pos)
  /-- VIO_SPLIT_THRESHOLD (R32): VIO_3V3. -/
  | vioSplitThreshold
  /-- SUPPLY_IN_WINDOW (R469): RAIL bit clears. -/
  | supplyInWindow (r : Rail)
  deriving DecidableEq, Repr

end Sys2Proof
end

