-- ==== Sys2Proof/Machine/Code8b.lean ====
section
/-! DEFINITION. The 8b/10b code (R136, R168): the two disparity columns, decoding in a column, encoding, and how a group
moves the running disparity. PRESUMED: the spec names the code and its symbols and prints no table (log entry 9). -/

namespace Sys2Proof.Machine

/-- A symbol: special (K) or data (D), and its byte. -/
structure Sym where
  k : Bool
  b : Byte
  deriving DecidableEq, Repr

/-- K28.y, for y = 0 to 7, and the other specials the part knows. -/
def k28 (y : Nat) : Sym := ⟨true, BitVec.ofNat 8 (32 * y + 28)⟩
def symSkp : Sym := k28 0
def symFault : Sym := k28 2
def symMarker : Sym := k28 4
def symCom : Sym := k28 5
def symError : Sym := ⟨true, 0xFE⟩
def symPad : Sym := ⟨true, 0xFB⟩
def symOpen : Sym := ⟨true, 0xF7⟩
def symClose : Sym := ⟨true, 0xFD⟩
def dataSym (b : Byte) : Sym := ⟨false, b⟩

/-- The six-bit halves of D0 to D31 in the negative column, a first. -/
def six : List (BitVec 6) := [
  0b100111, 0b011101, 0b101101, 0b110001, 0b110101, 0b101001, 0b011001, 0b111000,
  0b111001, 0b100101, 0b010101, 0b110100, 0b001101, 0b101100, 0b011100, 0b010111,
  0b011011, 0b100011, 0b010011, 0b110010, 0b001011, 0b101010, 0b011010, 0b111010,
  0b110011, 0b100110, 0b010110, 0b110110, 0b001110, 0b101110, 0b011110, 0b101011]

/-- The six-bit half of every K28 in the negative column. -/
def sixK28 : BitVec 6 := 0b001111

/-- The four-bit halves of D.x.0 to D.x.7 in the negative column, f first; and those of K28 after a positive half. -/
def four : List (BitVec 4) := [0b1011, 0b1001, 0b0101, 0b1100, 0b1101, 0b1010, 0b0110, 0b1110]
def fourK28 : List (BitVec 4) := [0b0100, 0b1001, 0b0101, 0b0011, 0b0010, 0b1010, 0b0110, 0b1000]

/-- The number of ones. -/
def ones {n : Nat} (x : BitVec n) : Nat := ((List.range n).filter fun i => x.getLsbD i).length

/-- A half in the column of a running disparity (true for positive), from the one in the negative column. -/
def col6 (x : BitVec 6) (rd : Bool) : BitVec 6 := if rd && (ones x != 3 || x == 0b111000) then ~~~x else x
def col4 (x : BitVec 4) (rd : Bool) : BitVec 4 := if rd && (ones x != 2 || x == 0b1100) then ~~~x else x

/-- Bits first to last as the group numbers them: a is bit 0, j is bit 9. -/
def groupOf (x : BitVec 6) (y : BitVec 4) : BitVec 10 := y.reverse ++ x.reverse

def sixOf (g : BitVec 10) : BitVec 6 := (g.extractLsb' 0 6).reverse
def fourOf (g : BitVec 10) : BitVec 4 := (g.extractLsb' 6 4).reverse

/-- D.x.7 takes its second form at a running disparity. -/
def altSeven (x : Nat) (rd : Bool) : Bool := if rd then [11, 13, 14].contains x else [17, 18, 20].contains x

/-- K23.7, K27.7, K29.7, K30.7 share their first half with data. -/
def kSeven (x : Nat) : Bool := [23, 27, 29, 30].contains x

/-- The running disparity after a half of weight w out of 2 h. -/
def afterHalf (rd : Bool) (w h : Nat) : Bool := if w = h then rd else !rd

/-- A group's effect on the running disparity. -/
def flips (g : BitVec 10) : Bool := ones g != 5

/-- The group of a symbol in the column of a running disparity. -/
def encodeSym (y : Sym) (rd : Bool) : BitVec 10 :=
  let x := y.b.toNat % 32
  let z := y.b.toNat / 32
  if y.k && x == 28 then
    let h := col6 sixK28 rd
    let f := fourK28.getD z 0
    groupOf h (if rd then ~~~f else f)
  else
    let h := col6 (six.getD x 0) rd
    let mid := afterHalf rd (ones h) 3
    let f := if z = 7 ∧ (y.k ∨ altSeven x mid) then (if mid then 0b1000 else 0b0111) else col4 (four.getD z 0) mid
    groupOf h f

/-- The symbol that a group spells in the column of a running disparity, if it stands there. -/
def decodeSym (g : BitVec 10) (rd : Bool) : Option Sym :=
  let h := sixOf g
  let f := fourOf g
  let mid := afterHalf rd (ones h) 3
  if h = col6 sixK28 rd then
    let n := fourK28.findIdx (· == (if rd then ~~~f else f))
    if n < 8 then some (k28 n) else none
  else
    let x := six.findIdx fun v => col6 v rd == h
    if 32 ≤ x then none
    else if f = (if mid then 0b1000 else 0b0111) then
      if kSeven x then some ⟨true, BitVec.ofNat 8 (224 + x)⟩
      else if altSeven x mid then some (dataSym (BitVec.ofNat 8 (224 + x)))
      else none
    else
      let z := four.findIdx fun v => col4 v mid == f
      if 8 ≤ z ∨ (z = 7 ∧ altSeven x mid) then none else some (dataSym (BitVec.ofNat 8 (32 * z + x)))

/-- How a received group is classified (R136): invalid, a disparity error, and the running disparity after it. -/
structure GroupClass where
  invalid : Bool
  disp    : Bool
  after   : Option Bool
  sym     : Option Sym
  deriving DecidableEq, Repr

def classify (rd : Option Bool) (g : BitVec 10) : GroupClass :=
  let n := decodeSym g false
  let p := decodeSym g true
  match rd with
  | some r =>
    if (if r then p else n).isSome then ⟨false, false, some (r ^^ flips g), if r then p else n⟩
    else if (if r then n else p).isSome then ⟨false, true, some ((!r) ^^ flips g), if r then n else p⟩
    else ⟨true, false, none, none⟩
  | none =>
    match n, p with
    | none, none => ⟨true, false, none, none⟩
    | some y, none => ⟨false, false, some (flips g), some y⟩
    | none, some y => ⟨false, false, some (!(flips g)), some y⟩
    | some y, some _ => ⟨false, false, none, some y⟩

end Sys2Proof.Machine
end

