-- ==== Sys2Proof/Config.lean ====
section
/-! DEFINITION. The values the spec leaves open after an action that goes on: constants without a body, each applied
to the counter State.free that the action reads and advances. Nothing can be proved of their values. -/

namespace Sys2Proof.Config

/-- How an indeterminate NVM unit reads this time (R439): 0 erased, 1 as data, 2 uncorrectable. -/
opaque tornKind : Nat → Fin 3

/-- The unit that is in progress as a reset cuts a run of programs, counted round the run (R439). -/
opaque cutAt : Nat → Nat

/-- The unit of a log record that fails its verify is the first. -/
opaque tearsFirst : Nat → Bool

/-- The data an indeterminate NVM unit reads as (R439), and whether a correction was made. -/
opaque tornData : Nat → BitVec 128
opaque tornFixed : Nat → Bool

/-- A reserved unit of the OTP area (R438): factory data, or none where it reads as erased. -/
opaque otpUnit : Nat → Option (BitVec 128)

/-- The code that a calibration measures for one trim (Table 9-1). -/
opaque measured : Nat → BitVec 10

/-- The VCO band that a side PLL chooses as it locks (Table 9-1). -/
opaque vcoBand : Nat → Nat

/-- How far boot calibration refines one sampler offset: 0 to 4 for −2 to +2 (R255). -/
opaque refine : Nat → Fin 5

/-- Whether a Heel patch that is not erased passes its own header and check word, whose form the spec leaves to Lienrik. -/
opaque patchGood : Nat → Bool

/-- Where in its sequence a generator starts (R229 states none). -/
opaque genSeed : Nat → BitVec 31

/-- The SWAP_ID that the part chooses (Table 7-3). -/
opaque swapId : Nat → BitVec 8

/-- The SEQ of a MOS that the part originates (R289 states none). -/
opaque mosSeq : Nat → BitVec 12

/-- A VALUE that the spec gives no rule for: the side temperature stored where no sensor value is at hand. -/
opaque sensed : Nat → BitVec 8

/-- A register value that the spec leaves unstated for a case (AWLOUT3 where a read was stopped). -/
opaque unstated : Nat → BitVec 32

/-- The levels on the balls that the part's state does not fix, as the boundary register captures them (R300): bits 0 to 35
of the lane RX pins, 36 to 71 of the lane TX pins, then REFCLK, SCL and SDA. -/
opaque pinLevels : Nat → BitVec 75

/-- What the board shifts into the boundary cells (R300): bits 0 to 35 for the lane RX pins, 36 to 71 for the lane TX pins,
then one bit each for REFCLK, RESET_N, BYP_N, ADDR0, ADDR1, BOOTSEL, SYNC, SCL, SDA, ATTN_N and FAULT_N. -/
opaque preloaded : Nat → BitVec 83

end Sys2Proof.Config
end

