-- ==== Sys2Proof/Machine/Bits.lean ====
section
/-! DEFINITION. Bit fields of a register word (R10), little-endian bytes (R9), the CRC-32 of R73 and the CRC-16 of
R290, and the sparse tables in which memories are held. -/

namespace Sys2Proof.Machine

/-- The field of n bits whose lowest bit is lo (R10). -/
abbrev fld (v : Word) (lo n : Nat) : BitVec n := v.extractLsb' lo n

/-- One bit of a word. -/
abbrev bitAt (v : Word) (i : Nat) : Bool := v.getLsbD i

/-- A field put in its place in a word. -/
def at_ {n : Nat} (x : BitVec n) (lo : Nat) : Word := x.setWidth 32 <<< lo

/-- A one-bit field put in its place in a word. -/
def bitOn (b : Bool) (i : Nat) : Word := at_ (BitVec.ofBool b) i

/-- A word from its fields. -/
def wordOf (fs : List Word) : Word := fs.foldl (· ||| ·) 0

/-- One bit of v forced to b. -/
def setBit (v : Word) (i : Nat) (b : Bool) : Word := (v &&& ~~~(bitOn true i)) ||| bitOn b i

/-- A field of v forced to x. -/
def setFld {n : Nat} (v : Word) (lo : Nat) (x : BitVec n) : Word :=
  (v &&& ~~~(at_ (BitVec.allOnes n) lo)) ||| at_ x lo

/-- The n bytes of v, least significant first (R9). -/
def bytesLE : Nat → Nat → List Byte
  | 0, _ => []
  | n + 1, v => BitVec.ofNat 8 v :: bytesLE n (v / 256)

/-- The number that bytes spell, least significant first (R9). -/
def natLE : List Byte → Nat
  | [] => 0
  | b :: r => b.toNat + 256 * natLE r

/-- The bytes of l from offset o, n of them, with zero past the end. -/
def bytesAt (l : List Byte) (o n : Nat) : List Byte :=
  (List.range n).map fun i => l.getD (o + i) 0

/-- The little-endian number of n bytes at offset o. -/
def leAt (l : List Byte) (o n : Nat) : Nat := natLE (bytesAt l o n)

/-- The n bytes of zero. -/
def zeros (n : Nat) : List Byte := List.replicate n 0

/-- l cut or filled with zero to exactly n bytes. -/
def padTo (n : Nat) (l : List Byte) : List Byte := l.take n ++ zeros (n - l.length)

/-- One bit of the CRC-32 of R73. -/
def crc32Bit (c : BitVec 32) : BitVec 32 :=
  if c.getLsbD 0 then (c >>> 1) ^^^ 0xEDB88320 else c >>> 1

/-- One byte of the CRC-32 of R73. -/
def crc32Byte (c : BitVec 32) (b : Byte) : BitVec 32 :=
  (List.range 8).foldl (fun x _ => crc32Bit x) (c ^^^ b.setWidth 32)

/-- The CRC-32 of R73. -/
def crc32 (l : List Byte) : BitVec 32 := l.foldl crc32Byte 0xFFFFFFFF ^^^ 0xFFFFFFFF

/-- One bit of the CRC-16 of R290. -/
def crc16Bit (c : BitVec 16) : BitVec 16 :=
  if c.getLsbD 15 then (c <<< 1) ^^^ 0x1021 else c <<< 1

/-- One byte of the CRC-16 of R290. -/
def crc16Byte (c : BitVec 16) (b : Byte) : BitVec 16 :=
  let hi : BitVec 16 := b ++ (0 : BitVec 8)
  (List.range 8).foldl (fun x _ => crc16Bit x) (c ^^^ hi)

/-- The CRC-16 of R290. -/
def crc16 (l : List Byte) : BitVec 16 := l.foldl crc16Byte 0xFFFF

/-- A sparse table read at key k, with d where nothing is listed. -/
def tabGet {α : Type} (d : α) (k : Nat) : List (Nat × α) → α
  | [] => d
  | (j, w) :: r => if k = j then w else tabGet d k r

/-- A sparse table written at key k: keys stay rising, and the value d is never listed. -/
def tabSet {α : Type} [DecidableEq α] (d : α) (k : Nat) (v : α) : List (Nat × α) → List (Nat × α)
  | [] => if v = d then [] else [(k, v)]
  | (j, w) :: r =>
    if k < j then (if v = d then (j, w) :: r else (k, v) :: (j, w) :: r)
    else if k = j then (if v = d then r else (k, v) :: r)
    else (j, w) :: tabSet d k v r

/-- Every key of the table is above lo, keys rise strictly, and no value is d. -/
def tabWf {α : Type} [DecidableEq α] (d : α) : Option Nat → List (Nat × α) → Bool
  | _, [] => true
  | lo, (j, w) :: r =>
    (match lo with | none => true | some m => decide (m < j)) && decide (w ≠ d) && tabWf d (some j) r

/-- A rising list of numbers with k put in. -/
def numSet (k : Nat) : List Nat → List Nat
  | [] => [k]
  | j :: r => if k < j then k :: j :: r else if k = j then j :: r else j :: numSet k r

/-- A rising list of numbers with k taken out. -/
def numClear (k : Nat) : List Nat → List Nat
  | [] => []
  | j :: r => if k = j then r else j :: numClear k r

/-- The numbers rise strictly, all above lo. -/
def numWf : Option Nat → List Nat → Bool
  | _, [] => true
  | lo, j :: r => (match lo with | none => true | some m => decide (m < j)) && numWf (some j) r

/-- The indices below n that satisfy p, ascending. -/
def idxs (n : Nat) (p : Fin n → Bool) : List (Fin n) := (List.finRange n).filter p

end Sys2Proof.Machine
end

