-- ==== Sys2Proof/Machine/LastTypes.lean ====
section
/-! DEFINITION. The Last as typed data: one structure per record of Tables 3-4 to 3-15 (03). -/

namespace Sys2Proof.Machine

/-! ### The Last (03) -/

/-- LINK MODE (Table 3-5). -/
inductive Mode where
  | bypass | transparent | participating
  deriving DecidableEq, Repr

/-- LINK JOIN (Table 3-5). -/
inductive JoinPol where
  | immediate | nextTrain | host
  deriving DecidableEq, Repr

/-- LINK LOSS_POL[1:0] (Table 3-5). -/
inductive LossPol where
  | spare | degrade | hold | down
  deriving DecidableEq, Repr

/-- LINK SPARE_POL[1:0] (Table 3-5). -/
inductive SparePol where
  | cold | warmIdle | warmPrbs
  deriving DecidableEq, Repr

/-- LANEMAP PLLFAM (Table 3-4). -/
inductive PllFam where
  | off | f10 | f8 | f12p5
  deriving DecidableEq, Repr

/-- One LINK record (Table 3-5). -/
structure LinkRec where
  mode      : Mode
  first     : Nat
  width     : Nat
  rates     : BitVec 7
  loopTimed : Bool
  pllA      : BitVec 2
  pllB      : BitVec 2
  spare0    : Option Pos
  spare1    : Option Pos
  sparePol  : SparePol
  predict   : Bool
  recalUse  : Bool
  lossPol   : LossPol
  safety    : Bool
  mgmtLane  : Option LLane
  join      : JoinPol
  decode    : Bool
  comma     : Bool
  markers   : Bool
  deskew    : Nat
  master    : LLane
  deriving DecidableEq, Repr

/-- One EQ entry (Table 3-6). -/
structure EqRec where
  ctleMin   : Nat
  ctleMax   : Nat
  ctleStart : Nat
  dfeLimit  : Nat
  vgaStart  : Nat
  ctleAdapt : Bool
  dfeAdapt  : Bool
  deriving DecidableEq, Repr

/-- One TXDRV entry (Table 3-7); preset none is custom. -/
structure TxRec where
  swing     : BitVec 5
  preset    : Option (BitVec 4)
  pre       : BitVec 4
  post      : BitVec 5
  acceptReq : Bool
  deriving DecidableEq, Repr

/-- One POWER entry (Table 3-8). -/
structure PowerRec where
  permit    : BitVec 3
  sleepIdle : BitVec 16
  deepIdle  : BitVec 16
  deriving DecidableEq, Repr

/-- One WELT entry (Table 3-9). -/
structure WeltRec where
  asideFail : Bool
  asideWarn : Bool
  failLimit : Byte
  deriving DecidableEq, Repr

/-- The MGMT payload (Table 3-11); masks of contexts C1, C2, C3. -/
structure MgmtRec where
  twbEn : Bool
  imcA  : Bool
  imcB  : Bool
  rd    : Vector (BitVec 14) 3
  wr    : Vector (BitVec 14) 3
  deriving DecidableEq, Repr

/-- One WINDOWS entry (Table 3-12). -/
structure WinRec where
  ctx   : WinCtx
  vpage : Nat
  ppage : BitVec 11
  wfl   : BitVec 4
  deriving DecidableEq, Repr

/-- One work queue of the QUEUES record (Table 3-13); weight and burst count from 1. -/
structure WqRec where
  owner : Option WinCtx
  urgent : Bool
  weight : Nat
  burst : Nat
  cq    : CqNo
  allowUninit : Bool
  deriving DecidableEq, Repr

/-- One TELEM entry (Table 3-14). -/
structure TelemRec where
  on     : Bool
  slots  : Nat
  trig   : BitVec 2
  policy : Bool
  period : Nat
  chan   : Vector Byte 16
  deriving DecidableEq, Repr

/-- The HEEL payload (Table 3-14). -/
structure HeelRec where
  scrubS   : Nat
  bwPct    : Nat
  recalMin : Nat
  recalDt  : Nat
  patchEn  : Bool
  predictEn : Bool
  deriving DecidableEq, Repr

/-- One THRESH entry (Table 3-15). -/
structure ThreshRec where
  enable : Bool
  value  : Nat
  deriving DecidableEq, Repr

/-- A Last that passed its checks, with every Default in place (R72, R85). Entry g of an array is global lane g;
lane entries run over side A positions 0 to 17, then side B. Without ASYM the BA arrays repeat those of AB. -/
structure LastImg where
  seq        : Word
  noBoot     : Bool
  asym       : Bool
  weltIgnore : Bool
  pllfam     : Vector PllFam 4
  aAB        : Vector (Option Pos) 18
  bAB        : Vector (Option Pos) 18
  aBA        : Vector (Option Pos) 18
  bBA        : Vector (Option Pos) 18
  links      : Vector (Option LinkRec) 8
  eq         : Vector EqRec 36
  txdrv      : Vector TxRec 36
  power      : Vector PowerRec 8
  welt       : Vector WeltRec 8
  mgmt       : MgmtRec
  windows    : List WinRec
  wqs        : Vector WqRec 32
  cqs        : Vector (Option WinCtx) 8
  telem      : Vector TelemRec 2
  heel       : HeelRec
  thresh     : Vector ThreshRec 7
  deriving DecidableEq, Repr

end Sys2Proof.Machine
end

