-- ==== Sys2Proof/Machine/LastFormat.lean ====
section
/-! DEFINITION. The Last: its defaults, its parser and the checks of Table 3-16 (03). -/

namespace Sys2Proof.Machine

/-! ### Defaults (R72) -/

def EqRec.default : EqRec := ⟨0, 15, 8, 63, 16, true, true⟩
def TxRec.default : TxRec := ⟨16, some 4, 0, 0, true⟩
def PowerRec.default : PowerRec := ⟨0, 0, 0⟩
def WeltRec.default : WeltRec := ⟨false, false, 3⟩
def WqRec.default : WqRec := ⟨none, false, 1, 1, 0, false⟩
def HeelRec.default : HeelRec := ⟨8, 3, 0, 15, false, true⟩

/-- The Default channels of S0: the twelve channels in order (Table 3-14). -/
def telemS0 : TelemRec :=
  ⟨true, 12, 0, false, 1000000, #v[0, 1, 2, 3, 4, 5, 6, 7, 8, 9, 10, 11, 0xFF, 0xFF, 0xFF, 0xFF]⟩

/-- S1 is off by Default (Table 3-14). -/
def telemS1 : TelemRec := ⟨false, 1, 0, false, 0, Vector.replicate 16 0xFF⟩

/-- The Default thresholds of Table 3-15, IDs 0x0001 to 0x0007. -/
def threshDefaults : Vector ThreshRec 7 :=
  #v[⟨true, 20⟩, ⟨true, 30⟩, ⟨true, 100⟩, ⟨true, 14⟩, ⟨true, 21⟩, ⟨true, 64⟩, ⟨false, 10000⟩]

/-- The identity LANEMAP array. -/
def idMap : Vector (Option Pos) 18 := Vector.ofFn fun g => some g

/-- An image with every item at its Default and no link. -/
def LastImg.default : LastImg where
  seq := 0
  noBoot := false
  asym := false
  weltIgnore := false
  pllfam := Vector.replicate 4 .off
  aAB := idMap
  bAB := idMap
  aBA := idMap
  bBA := idMap
  links := Vector.replicate 8 none
  eq := Vector.replicate 36 EqRec.default
  txdrv := Vector.replicate 36 TxRec.default
  power := Vector.replicate 8 PowerRec.default
  welt := Vector.replicate 8 WeltRec.default
  mgmt := ⟨false, false, false, Vector.replicate 3 0, Vector.replicate 3 0⟩
  windows := []
  wqs := Vector.replicate 32 WqRec.default
  cqs := Vector.replicate 8 none
  telem := #v[telemS0, telemS1]
  heel := HeelRec.default
  thresh := threshDefaults

/-- L0 of the factory defaults (Table 3-19). -/
def factoryL0 : LinkRec where
  mode := .transparent
  first := 0
  width := 16
  rates := 0x7F
  loopTimed := true
  pllA := 0
  pllB := 0
  spare0 := none
  spare1 := none
  sparePol := .cold
  predict := false
  recalUse := false
  lossPol := .hold
  safety := false
  mgmtLane := none
  join := .immediate
  decode := false
  comma := true
  markers := false
  deskew := 64
  master := 0

/-- The ROM factory defaults (Table 3-19): C1 reads and cannot write. -/
def romDefaults : LastImg :=
  { LastImg.default with
    links := (Vector.replicate 8 none).set 0 (some factoryL0)
    mgmt := ⟨true, false, false, #v[0x37FF, 0, 0], Vector.replicate 3 0⟩ }

/-- The factory image of Last slot 0 (R97, Table 3-19): a LANEMAP, the LINK of L0 and the MGMT record, in that order,
BUILD zero. DESIGN CHOICE: Table 3-19 gives the items and not their bytes (log entry 3). -/
def factoryImage : List Byte := [
  0x57, 0x4C, 0x53, 0x54, 0x00, 0x01, 0x20, 0x16, 0xAC, 0x00, 0x00, 0x00, 0x00, 0x00, 0x00, 0x00,
  0x03, 0x00, 0x00, 0x00, 0xCF, 0x70, 0x49, 0x1C, 0x00, 0x00, 0x00, 0x00, 0x00, 0x00, 0x00, 0x00,
  0x00, 0x00, 0x00, 0x00, 0x00, 0x00, 0x00, 0x00, 0x00, 0x00, 0x00, 0x00, 0x00, 0x00, 0x00, 0x00,
  0x00, 0x00, 0x00, 0x00, 0x00, 0x00, 0x00, 0x00, 0x00, 0x00, 0x00, 0x00, 0x00, 0x00, 0x00, 0x00,
  0x01, 0x00, 0x2C, 0x00, 0x00, 0x00, 0x00, 0x00, 0x00, 0x00, 0x00, 0x00, 0x00, 0x01, 0x02, 0x03,
  0x04, 0x05, 0x06, 0x07, 0x08, 0x09, 0x0A, 0x0B, 0x0C, 0x0D, 0x0E, 0x0F, 0x10, 0x11, 0x00, 0x01,
  0x02, 0x03, 0x04, 0x05, 0x06, 0x07, 0x08, 0x09, 0x0A, 0x0B, 0x0C, 0x0D, 0x0E, 0x0F, 0x10, 0x11,
  0x02, 0x00, 0x18, 0x00, 0x00, 0x01, 0x00, 0x10, 0x7F, 0x01, 0x00, 0x00, 0xFF, 0xFF, 0x00, 0x02,
  0xFF, 0x00, 0x02, 0x00, 0x40, 0x00, 0x00, 0x00, 0x00, 0x00, 0x00, 0x00, 0x07, 0x00, 0x1C, 0x00,
  0x01, 0x00, 0x00, 0x00, 0xFF, 0x37, 0x00, 0x00, 0xFF, 0x37, 0x00, 0x00, 0x00, 0x00, 0x00, 0x00,
  0x00, 0x00, 0x00, 0x00, 0x00, 0x00, 0x00, 0x00, 0x00, 0x00, 0x00, 0x00]

/-! ### Header and framing -/

/-- The result codes of Table 3-16 that name no failed check. -/
abbrev codeAccepted : Byte := 0x01
abbrev codeEmpty : Byte := 0x02
abbrev codeReadFail : Byte := 0x03
abbrev codeNoBoot : Byte := 0x2A
abbrev codeSeqTie : Byte := 0x81

/-- A result counts as accepted (R93). -/
def accepted (c : Byte) : Bool := c == codeAccepted || 0x80#8 ≤ c

/-- The checks of MAGIC, PART, VERSION and LENGTH, for a source of at most room bytes: the failing code. -/
def checkHeader (h : List Byte) (room : Nat) : Option Byte :=
  let len := leAt h 0x08 4
  if bytesAt h 0 4 ≠ [0x57, 0x4C, 0x53, 0x54] then some 0x10
  else if leAt h 0x06 2 ≠ 0x1620 then some 0x11
  else if h.getD 5 0 ≠ 0x01 then some 0x12
  else if len < 64 ∨ 65536 < len ∨ room < len ∨ len % 4 ≠ 0 then some 0x13
  else none

/-- The CRC of an image with its CHECK bytes taken as zero (R73). -/
def imageCheck (img : List Byte) : Word := crc32 (img.take 0x14 ++ zeros 4 ++ img.drop 0x18)

/-- A record as it stands in the image: its TYPE and payload. -/
abbrev RawRec := Nat × List Byte

/-- The records of the bytes after the header, back to back (R70); none where the framing breaks. -/
def frameRecs : Nat → List Byte → Option (List RawRec)
  | 0, l => if l.isEmpty then some [] else none
  | fuel + 1, l =>
    if l.isEmpty then some []
    else if l.length < 4 then none
    else
      let len := leAt l 2 2
      if len % 4 ≠ 0 ∨ l.length < 4 + len then none
      else (frameRecs fuel (l.drop (4 + len))).map fun r => (leAt l 0 2, (l.drop 4).take len) :: r

/-- The type of a record that this part knows. -/
def knownType (t : Nat) : Bool := 1 ≤ t && t ≤ 0x0C

/-- Every LEN that Table 3-2 allows the type. -/
def lenLegal (r : RawRec) : Bool :=
  let n := r.2.length
  match r.1 with
  | 0x01 => if (r.2.getD 0 0).getLsbD 0 then n == 80 else n == 44
  | 0x02 => n == 24
  | 0x06 => n % 4 == 0
  | 0x07 => n == 28
  | 0x0A => n % 24 == 0
  | 0x0B => n == 8
  | _ => n % 8 == 0

/-- RECORD_TYPE (R71): an unknown TYPE with bit 15 clear, or a known record of an illegal LEN. -/
def typesOk (rs : List RawRec) : Bool :=
  rs.all fun r => if knownType r.1 then lenLegal r else 0x8000 ≤ r.1

/-- The payloads of one type. -/
def payloads (rs : List RawRec) (t : Nat) : List (List Byte) :=
  (rs.filter fun r => r.1 == t).map Prod.snd

/-- RECORD_COUNT: the occurrences of Table 3-2. -/
def countsOk (rs : List RawRec) : Bool :=
  let n := fun t => (payloads rs t).length
  n 1 == 1 && n 7 == 1 && n 2 ≤ 8 && [3, 4, 5, 6, 8, 9, 0x0A, 0x0B, 0x0C].all (fun t => n t ≤ 1) &&
    ((payloads rs 2).map fun p => p.getD 0 0).Nodup

/-- A payload cut into entries of k bytes. -/
def entriesOf (k : Nat) : Nat → List Byte → List (List Byte)
  | 0, _ => []
  | n + 1, l => l.take k :: entriesOf k n (l.drop k)

/-- The entries of the one record of type t, each of k bytes. -/
def recEntries (rs : List RawRec) (t k : Nat) : List (List Byte) :=
  match payloads rs t with
  | p :: _ => entriesOf k (p.length / k) p
  | [] => []

/-! ### Field ranges (R75, Tables 3-4 to 3-15) -/

/-- The byte at offset o as a number. -/
abbrev bn (l : List Byte) (o : Nat) : Nat := (l.getD o 0).toNat

/-- A position, a lane or a number with 0xFF for none. -/
def orNone (n lim : Nat) : Bool := n < lim || n == 0xFF

def laneIdOk (n : Nat) : Bool := n % 0x80 < 18

def rangeLanemap (p : List Byte) : Bool :=
  bn p 0 < 4 && bn p 1 == 0 && [2, 3, 4, 5].all (fun o => bn p o < 4) && bn p 6 == 0 && bn p 7 == 0 &&
    (p.drop 8).all fun b => orNone b.toNat 18

def rangeLink (p : List Byte) : Bool :=
  let w := bn p 3
  bn p 0 < 8 && bn p 1 < 3 && bn p 2 < 18 && [1, 2, 4, 8, 16].contains w && bn p 4 < 0x80 && bn p 4 != 0 &&
    bn p 5 < 2 && bn p 6 < 4 && bn p 7 < 4 && orNone (bn p 8) 18 && orNone (bn p 9) 18 &&
    bn p 0x0A < 0x10 && bn p 0x0A % 4 != 3 && [0, 1].contains (bn p 0x0B / 0x10) && bn p 0x0B % 0x10 < 4 &&
    orNone (bn p 0x0C) w && bn p 0x0D < 3 && bn p 0x0E < 8 && bn p 0x0F == 0 &&
    1 ≤ leAt p 0x10 2 && leAt p 0x10 2 ≤ 64 && bn p 0x12 < w && (p.drop 0x13).all (· == 0)

def rangeEq (e : List Byte) : Bool :=
  laneIdOk (bn e 0) && bn e 1 < 16 && bn e 1 ≤ bn e 2 && bn e 2 < 16 && bn e 1 ≤ bn e 3 && bn e 3 ≤ bn e 2 &&
    bn e 4 < 64 && bn e 5 < 32 && bn e 6 < 4 && bn e 7 == 0

def rangeTxdrv (e : List Byte) : Bool :=
  laneIdOk (bn e 0) && bn e 1 < 32 && orNone (bn e 2) 16 && bn e 3 < 16 && bn e 4 < 32 && bn e 5 < 2 &&
    bn e 6 == 0 && bn e 7 == 0

def rangePower (e : List Byte) : Bool := bn e 0 < 8 && bn e 1 < 8 && bn e 6 == 0 && bn e 7 == 0

def rangeWelt (e : List Byte) : Bool := bn e 0 < 8 && bn e 1 < 4 && bn e 2 != 0 && bn e 3 == 0

def rangeMgmt (p : List Byte) : Bool :=
  leAt p 0 4 < 8 && [4, 8, 12, 16, 20, 24].all fun o => leAt p o 4 < 0x4000

def rangeWindow (e : List Byte) : Bool :=
  1 ≤ bn e 0 && bn e 0 < 4 && bn e 1 == 0 && leAt e 2 2 < 4096 && leAt e 4 2 < 2048 && leAt e 6 2 < 16

def rangeQueue (e : List Byte) : Bool :=
  1 ≤ bn e 1 && bn e 1 < 4 && bn e 7 == 0 &&
    if bn e 0 < 0x20 then
      bn e 2 < 2 && 1 ≤ bn e 3 && bn e 3 ≤ 16 && 1 ≤ bn e 4 && bn e 4 ≤ 16 && bn e 5 < 8 && bn e 6 < 2
    else 0x80 ≤ bn e 0 && bn e 0 < 0x88 && (e.drop 2).all (· == 0)

def rangeTelem (e : List Byte) : Bool :=
  bn e 0 < 2 && 1 ≤ bn e 1 && bn e 1 ≤ 16 && bn e 2 < 3 && bn e 3 < 2 &&
    (if bn e 2 = 0 then 1000 ≤ leAt e 4 4 && leAt e 4 4 ≤ 60000000 else leAt e 4 4 == 0) &&
    (e.drop 8).all fun b => orNone b.toNat 12

def rangeHeel (p : List Byte) : Bool :=
  1 ≤ bn p 0 && bn p 0 ≤ 64 && 1 ≤ bn p 1 && bn p 1 < 4 && 5 ≤ bn p 4 && bn p 4 ≤ 30 && bn p 5 < 4 &&
    bn p 6 == 0 && bn p 7 == 0

/-- The range of a THRESH VALUE by its identifier (Table 3-15). -/
def threshRange (id : Nat) : Nat × Nat :=
  match id with
  | 1 => (1, 63)
  | 2 => (3, 381)
  | 3 => (1, 1000000)
  | 4 => (1, 63)
  | 5 => (3, 381)
  | 6 => (1, 65535)
  | _ => (1, 1000000)

def rangeThresh (e : List Byte) : Bool :=
  let id := leAt e 0 2
  let v := leAt e 4 4
  1 ≤ id && id ≤ 7 && leAt e 2 2 < 2 && (threshRange id).1 ≤ v && v ≤ (threshRange id).2

/-- FIELD_RANGE: every field of every known record lies within its legal values. -/
def rangesOk (rs : List RawRec) : Bool :=
  (payloads rs 1).all rangeLanemap && (payloads rs 2).all rangeLink &&
    (recEntries rs 3 8).all rangeEq && (recEntries rs 4 8).all rangeTxdrv &&
    (recEntries rs 5 8).all rangePower && (recEntries rs 6 4).all rangeWelt &&
    (payloads rs 7).all rangeMgmt && (recEntries rs 8 8).all rangeWindow &&
    (recEntries rs 9 8).all rangeQueue && (recEntries rs 0x0A 24).all rangeTelem &&
    (payloads rs 0x0B).all rangeHeel && (recEntries rs 0x0C 8).all rangeThresh

/-- DUP_ENTRY: no two entries of one record name the same item. -/
def distinctOk (rs : List RawRec) : Bool :=
  [3, 4, 5, 9].all (fun t => ((recEntries rs t 8).map fun e => bn e 0).Nodup) &&
    ((recEntries rs 6 4).map fun e => bn e 0).Nodup &&
    ((recEntries rs 8 8).map fun e => (bn e 0, leAt e 2 2)).Nodup &&
    ((recEntries rs 0x0A 24).map fun e => bn e 0).Nodup &&
    ((recEntries rs 0x0C 8).map fun e => leAt e 0 2).Nodup

/-! ### The typed image -/

/-- A position byte; 0xFF and any number past 17 is none. -/
def posOf (n : Nat) : Option Pos := if h : n < 18 then some ⟨n, h⟩ else none

def posArray (p : List Byte) (o : Nat) : Vector (Option Pos) 18 := Vector.ofFn fun g => posOf (bn p (o + g.val))

def pllFamOf : Nat → PllFam
  | 1 => .f10
  | 2 => .f8
  | 3 => .f12p5
  | _ => .off

def laneOf (n : Nat) : Option LLane := if h : n < 16 then some ⟨n, h⟩ else none

def linkOf (p : List Byte) : LinkRec where
  mode := match bn p 1 with | 0 => .bypass | 1 => .transparent | _ => .participating
  first := bn p 2
  width := bn p 3
  rates := BitVec.ofNat 7 (bn p 4)
  loopTimed := bn p 5 == 1
  pllA := BitVec.ofNat 2 (bn p 6)
  pllB := BitVec.ofNat 2 (bn p 7)
  spare0 := posOf (bn p 8)
  spare1 := posOf (bn p 9)
  sparePol := match bn p 0x0A % 4 with | 0 => .cold | 1 => .warmIdle | _ => .warmPrbs
  predict := (p.getD 0x0A 0).getLsbD 2
  recalUse := (p.getD 0x0A 0).getLsbD 3
  lossPol := match bn p 0x0B % 4 with | 0 => .spare | 1 => .degrade | 2 => .hold | _ => .down
  safety := (p.getD 0x0B 0).getLsbD 4
  mgmtLane := laneOf (bn p 0x0C)
  join := match bn p 0x0D with | 0 => .immediate | 1 => .nextTrain | _ => .host
  decode := (p.getD 0x0E 0).getLsbD 0
  comma := (p.getD 0x0E 0).getLsbD 1
  markers := (p.getD 0x0E 0).getLsbD 2
  deskew := leAt p 0x10 2
  master := Fin.ofNat 16 (bn p 0x12)

def eqOf (e : List Byte) : EqRec :=
  ⟨bn e 1, bn e 2, bn e 3, bn e 4, bn e 5, (e.getD 6 0).getLsbD 0, (e.getD 6 0).getLsbD 1⟩

def txOf (e : List Byte) : TxRec :=
  ⟨BitVec.ofNat 5 (bn e 1), if bn e 2 = 0xFF then none else some (BitVec.ofNat 4 (bn e 2)),
    BitVec.ofNat 4 (bn e 3), BitVec.ofNat 5 (bn e 4), (e.getD 5 0).getLsbD 0⟩

def powerOf (e : List Byte) : PowerRec :=
  ⟨BitVec.ofNat 3 (bn e 1), BitVec.ofNat 16 (leAt e 2 2), BitVec.ofNat 16 (leAt e 4 2)⟩

def weltOf (e : List Byte) : WeltRec := ⟨(e.getD 1 0).getLsbD 0, (e.getD 1 0).getLsbD 1, e.getD 2 0⟩

def maskOf (p : List Byte) (o : Nat) : BitVec 14 := BitVec.ofNat 14 (leAt p o 4)

def mgmtOf (p : List Byte) : MgmtRec :=
  ⟨(p.getD 0 0).getLsbD 0, (p.getD 0 0).getLsbD 1, (p.getD 0 0).getLsbD 2,
    #v[maskOf p 4, maskOf p 12, maskOf p 20], #v[maskOf p 8, maskOf p 16, maskOf p 24]⟩

def windowOf (e : List Byte) : WinRec :=
  ⟨Fin.ofNat 3 (bn e 0 - 1), leAt e 2 2, BitVec.ofNat 11 (leAt e 4 2), BitVec.ofNat 4 (leAt e 6 2)⟩

def wqOf (e : List Byte) : WqRec :=
  ⟨some (Fin.ofNat 3 (bn e 1 - 1)), bn e 2 == 1, bn e 3, bn e 4, Fin.ofNat 8 (bn e 5), (e.getD 6 0).getLsbD 0⟩

def telemOf (e : List Byte) : TelemRec :=
  ⟨true, bn e 1, BitVec.ofNat 2 (bn e 2), bn e 3 == 1, leAt e 4 4, Vector.ofFn fun k => e.getD (8 + k.val) 0xFF⟩

def heelOf (p : List Byte) : HeelRec :=
  ⟨bn p 0, bn p 1, leAt p 2 2, bn p 4, (p.getD 5 0).getLsbD 0, (p.getD 5 0).getLsbD 1⟩

/-- A lane identifier byte as an index over side A 0 to 17, then side B (Table 3-6). -/
def laneIdx (n : Nat) : Nat := if n < 0x80 then n else 18 + (n - 0x80)

/-- The entry whose key is k, read by f; the default where no entry names k (R72). -/
def pick {α : Type} (es : List (List Byte)) (key : List Byte → Nat) (k : Nat) (f : List Byte → α) (d : α) : α :=
  match es.find? fun e => key e == k with
  | some e => f e
  | none => d

/-- The image that records spell, with the defaults of R72. -/
def typedImage (hdr : List Byte) (rs : List RawRec) : LastImg :=
  let lm := (payloads rs 1).headD []
  let asym := (lm.getD 0 0).getLsbD 0
  let key0 := fun e : List Byte => bn e 0
  { seq := BitVec.ofNat 32 (leAt hdr 0x0C 4)
    noBoot := (hdr.getD 0x12 0).getLsbD 0
    asym := asym
    weltIgnore := (lm.getD 0 0).getLsbD 1
    pllfam := Vector.ofFn fun i => pllFamOf (bn lm (2 + i.val))
    aAB := posArray lm 0x08
    bAB := posArray lm 0x1A
    aBA := posArray lm (if asym then 0x2C else 0x08)
    bBA := posArray lm (if asym then 0x3E else 0x1A)
    links := Vector.ofFn fun n => ((payloads rs 2).find? fun p => bn p 0 == n.val).map linkOf
    eq := Vector.ofFn fun i => pick (recEntries rs 3 8) (fun e => laneIdx (bn e 0)) i.val eqOf EqRec.default
    txdrv := Vector.ofFn fun i => pick (recEntries rs 4 8) (fun e => laneIdx (bn e 0)) i.val txOf TxRec.default
    power := Vector.ofFn fun n => pick (recEntries rs 5 8) key0 n.val powerOf PowerRec.default
    welt := Vector.ofFn fun n => pick (recEntries rs 6 4) key0 n.val weltOf WeltRec.default
    mgmt := mgmtOf ((payloads rs 7).headD [])
    windows := (recEntries rs 8 8).map windowOf
    wqs := Vector.ofFn fun n => pick (recEntries rs 9 8) key0 n.val wqOf WqRec.default
    cqs := Vector.ofFn fun n =>
      pick (recEntries rs 9 8) key0 (0x80 + n.val) (fun e => some (Fin.ofNat 3 (bn e 1 - 1))) none
    telem := #v[pick (recEntries rs 0x0A 24) key0 0 telemOf telemS0, pick (recEntries rs 0x0A 24) key0 1 telemOf telemS1]
    heel := match payloads rs 0x0B with | p :: _ => heelOf p | [] => HeelRec.default
    thresh := Vector.ofFn fun i =>
      pick (recEntries rs 0x0C 8) (fun e => leAt e 0 2) (i.val + 1)
        (fun e => ⟨(e.getD 2 0).getLsbD 0, leAt e 4 4⟩) threshDefaults[i] }

/-! ### Cross-field checks -/

/-- Entry g of an array, none past 17. -/
def mapAt (m : Vector (Option Pos) 18) (g : Nat) : Option Pos := m.toList.getD g none

/-- The global lanes of a link, in logical order. -/
def laneList (r : LinkRec) : List Nat := (List.range r.width).map (r.first + ·)

/-- The spares of a link, as global lanes. -/
def spareList (r : LinkRec) : List Nat :=
  r.spare0.toList.map (fun p => p.val) ++ r.spare1.toList.map (fun p => p.val)

/-- The links that exist. -/
def linksOf (m : LastImg) : List LinkRec := m.links.toList.filterMap id

/-- The arrays in force: AB, and with ASYM set BA too. -/
def arraysOf (m : LastImg) : List (Vector (Option Pos) 18) :=
  if m.asym then [m.aAB, m.bAB, m.aBA, m.bBA] else [m.aAB, m.bAB]

/-- LANEMAP (0x20). -/
def checkLanemap (m : LastImg) : Bool :=
  (arraysOf m).all (fun a => (a.toList.filterMap id).Nodup) &&
    (linksOf m).all fun r => (laneList r ++ spareList r).all fun g =>
      18 ≤ g || (arraysOf m).all fun a => (mapAt a g).isSome

/-- WELT_MAP (0x21). -/
def checkWeltMap (m : LastImg) : Bool :=
  m.weltIgnore || (linksOf m).all fun r => (laneList r ++ spareList r).all fun g =>
    mapAt m.aAB g == mapAt m.bAB g && mapAt m.aBA g == mapAt m.bBA g

/-- LINK_LANES (0x22). -/
def checkLinkLanes (m : LastImg) : Bool :=
  (linksOf m).all (fun r => r.first + r.width ≤ 18) && ((linksOf m).flatMap laneList).Nodup &&
    (linksOf m).all fun r => (laneList r).all fun g => (arraysOf m).all fun a =>
      match mapAt a g with | some p => p.val < 16 | none => true

/-- SPARE (0x23). -/
def checkSpare (m : LastImg) : Bool :=
  let spares := (linksOf m).flatMap spareList
  spares.all (fun g => (arraysOf m).all fun a => match mapAt a g with | some p => 16 ≤ p.val | none => false) &&
    spares.all (fun g => !((linksOf m).flatMap laneList).contains g) && spares.Nodup

/-- The rate bits of LINK RATES that a family contains (Table 3-4). -/
def famRates : PllFam → BitVec 6
  | .off => 0
  | .f10 => 0b100111
  | .f8 => 0b010000
  | .f12p5 => 0b001000

/-- The families of the PLLs that a link names on one side, with their mask bits. -/
def linkPlls (m : LastImg) (r : LinkRec) : List (Side × PllFam) :=
  (if r.pllA.getLsbD 0 then [(.A, m.pllfam[0])] else []) ++ (if r.pllA.getLsbD 1 then [(.A, m.pllfam[1])] else []) ++
    (if r.pllB.getLsbD 0 then [(.B, m.pllfam[2])] else []) ++ (if r.pllB.getLsbD 1 then [(.B, m.pllfam[3])] else [])

/-- PLL (0x24): R86, for the links that are not in Bypass (R79). -/
def checkPll (m : LastImg) : Bool :=
  (linksOf m).all fun r => r.mode == .bypass ||
    (let rates : BitVec 6 := r.rates.setWidth 6
     (linkPlls m r).all (fun q => q.2 != .off) &&
     (linkPlls m r).all (fun q => (famRates q.2 &&& rates) != 0) &&
     (r.loopTimed || [Side.A, Side.B].all fun sd => (List.range 6).all fun i =>
        !rates.getLsbD i || (linkPlls m r).any fun q => q.1 == sd && (famRates q.2).getLsbD i))

/-- The number of rate bits set, AUTO aside. -/
def rateCount (r : LinkRec) : Nat := ((List.range 6).filter fun i => r.rates.getLsbD i).length

/-- MODE (0x25): R87, for the links that are not in Bypass (R79). -/
def checkMode (m : LastImg) : Bool :=
  (List.finRange 8).all fun n => match m.links[n] with
    | none => true
    | some r => r.mode == .bypass ||
      ((!r.rates.getLsbD 6 || (r.mode == .transparent && r.loopTimed)) &&
       (r.mode != .transparent || ((r.lossPol == .hold || r.lossPol == .down) && r.sparePol == .cold && !r.predict &&
         !r.recalUse && (spareList r).isEmpty && r.mgmtLane.isNone && m.power[n].permit == 0)) &&
       (!r.loopTimed || (r.pllA == 0 && r.pllB == 0)) &&
       (r.mode != .participating || !r.loopTimed || rateCount r == 1))

/-- MGMT (0x26). -/
def checkMgmt (m : LastImg) : Bool :=
  m.mgmt.rd.toList.all (fun x => !x.getLsbD 11) && m.mgmt.wr.toList.all (fun x => !x.getLsbD 11) &&
    (m.mgmt.twbEn || m.mgmt.imcA || m.mgmt.imcB)

/-- QUEUES (0x28): each named WQ names a CQ of its owner. -/
def checkQueues (m : LastImg) : Bool :=
  m.wqs.toList.all fun q => match q.owner with | none => true | some o => m.cqs[q.cq] == some o

/-- TELEM (0x29): codes within SLOTS are channels, codes beyond it are 0xFF. -/
def checkTelem (m : LastImg) : Bool :=
  m.telem.toList.all fun t => !t.on ||
    (List.finRange 16).all fun k => (t.chan[k] == 0xFF) == decide (t.slots ≤ k.val)

/-- NO_WELT_RATE (0x80). -/
def warnWeltRate (m : LastImg) : Bool :=
  (linksOf m).any fun r => r.mode != .bypass && !r.rates.getLsbD 6 && (r.rates &&& 0x07) == 0

/-- NO_IMC (0x85). -/
def warnNoImc (m : LastImg) : Bool :=
  (List.finRange 8).any fun n => match m.links[n] with
    | none => false
    | some r => r.mode == .participating && r.mgmtLane.isNone &&
      (!(spareList r).isEmpty || r.lossPol == .spare || m.power[n].permit != 0)

/-- The checks of an image that has passed its header and its check word, in the order of Table 3-16: the result
code and, where it counts as accepted, the image. -/
def checkRecords (img : List Byte) : Byte × Option LastImg :=
  match frameRecs (img.length / 4) (img.drop 0x40) with
  | none => (0x15, none)
  | some rs =>
    let m := typedImage (img.take 0x40) rs
    if rs.length ≠ leAt img 0x10 2 then (0x15, none)
    else if !typesOk rs then (0x16, none)
    else if !countsOk rs then (0x17, none)
    else if leAt img 0x12 2 / 2 ≠ 0 ∨ (bytesAt img 0x20 32).any (· != 0) then (0x18, none)
    else if !rangesOk rs then (0x19, none)
    else if !distinctOk rs then (0x1A, none)
    else if !checkLanemap m then (0x20, none)
    else if !checkWeltMap m then (0x21, none)
    else if !checkLinkLanes m then (0x22, none)
    else if !checkSpare m then (0x23, none)
    else if !checkPll m then (0x24, none)
    else if !checkMode m then (0x25, none)
    else if !checkMgmt m then (0x26, none)
    else if !checkQueues m then (0x28, none)
    else if !checkTelem m then (0x29, none)
    else if warnWeltRate m then (0x80, some m)
    else if warnNoImc m then (0x85, some m)
    else (codeAccepted, some m)

/-- The checks of a staged image of at most room bytes (R85, R88). -/
def checkImage (img : List Byte) (room : Nat) : Byte × Option LastImg :=
  match checkHeader img room with
  | some c => (c, none)
  | none =>
    let body := img.take (leAt img 0x08 4)
    if imageCheck body ≠ BitVec.ofNat 32 (leAt img 0x14 4) then (0x14, none) else checkRecords body

/-- The checks of a boot candidate: NO_BOOT comes after every failing check of R85. -/
def bootResult (r : Byte × Option LastImg) : Byte × Option LastImg :=
  match r.2 with
  | some m => if m.noBoot then (codeNoBoot, none) else r
  | none => r

end Sys2Proof.Machine
end

