-- ==== Sys2Proof/Machine/State.lean ====
section
/-! DEFINITION. The state of the WVX1620: plain data, every piece of state the spec names, and the queue of the
commands that wait; and the state right after reset. -/

namespace Sys2Proof.Machine

/-! ### Pins, rails, boot, device (01, 02) -/

/-- The level of each input ball, and whether SYNC was last seen high (R22, R23). -/
structure Pins where
  resetN  : Bool
  bypN    : Bool
  testEn  : Bool
  sync    : Bool
  addr    : BitVec 2
  bootsel : Bool
  trstN   : Bool
  refclk  : Bool
  deriving DecidableEq, Repr

/-- The rails in the order of Rail: valid (R46), out of their range (FAULTSRC.RAIL), detected as out of it since reset
release and not back since (R468); the VIO level (R32), the charge pump (R42), the PLLs A0, A1, B0, B1 and core out of lock
(FAULTSRC), and the VCO band that each side PLL has chosen (Table 9-1), 0 before it has locked (DESIGN CHOICE, log entry
79). -/
structure Power where
  valid     : Vector Bool 8
  outside   : Vector Bool 8
  told      : Vector Bool 8
  vio33     : Bool
  pumpReady : Bool
  unlock    : Vector Bool 5
  band      : Vector Nat 4
  deriving DecidableEq, Repr

/-- The read of the external image in boot controller mode (R284 to R287): its bytes so far and its result. -/
structure EepromSt where
  data   : List Byte
  result : Option Byte
  deriving DecidableEq, Repr

/-- Boot: DEVSTAT.BOOT_PHASE and BOOT_DONE, the straps as sampled, reset in force, test mode (R28), the EEPROM read,
the events of the chain, and the two reset-cleared results of LASTBOOT's neighbours in DEVSTAT. -/
structure Boot where
  inReset  : Bool
  phase    : BitVec 4
  done     : Bool
  addr     : BitVec 2
  bootsel  : Bool
  testMode : Bool
  eeprom   : EepromSt
  arbLost  : BitVec 4
  fallback : Bool
  src      : BitVec 3
  applied  : Bool
  calDone  : Bool
  calInvalid : Bool
  deriving DecidableEq, Repr

/-- Standby, DEVCTL.ASIDE, DEVSTAT.STBY_REFUSED (R58 to R64). -/
structure Dev where
  standby    : Bool
  entering   : Bool
  waking     : Bool
  aside      : Bool
  stbyRefused : Bool
  deriving DecidableEq, Repr

/-- The Welt of each position (R39 to R41): switches commanded open, sensed closed; a safety detection of the
position that has not ended (R469); a transmitter held off by it. -/
structure WeltSt where
  cmdOpen  : Vector Bool 18
  closed   : Vector Bool 18
  mismatch : Vector Bool 18
  held     : Vector Bool 18
  deriving DecidableEq, Repr

/-- The thermal comparators (R471): last TJ sample in 1/8 °C, samples since reset release up to two, and what each
of the thresholds 115, 120, 125 and 135 °C holds TJ to be: true for above; the warning and the shutdown. -/
structure Thermal where
  last     : Option (BitVec 16)
  samples  : Nat
  above    : Vector Bool 4
  warn     : Bool
  shutdown : Bool
  deriving DecidableEq, Repr

/-! ### Events (17) -/

/-- One event record before its CHECK (Table 15-4). -/
structure EvRec where
  seq   : Word
  code  : BitVec 16
  ctx   : Ctx
  dtime : BitVec 64
  data  : List Byte
  deriving DecidableEq, Repr

/-- The registers of Tables 17-6 and 17-7 and the Standby FIFO (R464). -/
structure EvtSt where
  next      : BitVec 11
  wrapped   : Bool
  lastCode  : BitVec 16
  maskGroups : BitVec 11
  maskCq    : BitVec 8
  minClass  : BitVec 2
  attn      : BitVec 12
  overwrites : Word
  seq       : Word
  fifo      : List EvRec
  heelUe    : Bool
  weltBad   : Bool
  pllLoss   : Bool
  supply    : Bool
  heelWdog  : Bool
  deriving DecidableEq, Repr

/-- The Heel: watchdog trips since boot, when the last one was, whether it runs without its patch (R470), and
whether a restart is due (R469). -/
structure HeelSt where
  trips    : Byte
  lastTrip : Option Nat
  noPatch  : Bool
  restartDue : Bool
  deriving DecidableEq, Repr

/-! ### Lanes (05, 08, 09): one block per side and position -/

/-- A symbol in an elastic buffer: the code group, the received running disparity before it (none where that is not
known, or where the group is invalid or carries a disparity error) and after it, how it was classified, and whether a
skip edit has added it. In a set that the part sends in another's place (R138, R170): its position, and the symbol put
there, if it is not forwarded as received. A K30.7 that the buffer inserts has no entry. -/
structure EbEntry where
  g       : BitVec 10
  before  : Option Bool
  after   : Option Bool
  invalid : Bool
  disp    : Bool
  added   : Bool
  place   : Option (Fin 16)
  put     : Option Sym
  deriving DecidableEq, Repr

/-- How a lane of a Participating link stands to the deciding lane's skip sets (R142): in step with it; a set of its own has
been told of before the deciding lane's, and its first K28.0 has yet to enter, or has entered; or the deciding lane's has
come and its own is yet to be told of. -/
inductive SkipTurn where
  | level | told | entered | decided
  deriving DecidableEq, Repr

/-- LNCTL, LNSTAT's receive fields and the receiver's own state: the elastic buffer, oldest first (its length is
LNSTAT.EB_FILL), a skip edit that falls on the next K28.0 to enter (true adds), its turn in the skip sets, received running disparity (none while
unknown, R137), the commas that have fallen on the boundary since it was set (aligned; none: it is still to be set) and the
run of commas on one other boundary (R133), the run of bad groups (R193), the symbols for which an invalid group
still counts (LOCK of Table 6-5), the cause of its loss, K30.7 still owed after a
recentre (R144), what is put in the places of the set whose groups enter now, first to last (R138; log entry 58), a
recentre that waits for the end of a substituted set, with its flag or without (R164), the SKP edits of the current
window (R145). -/
structure LaneRx where
  ctleHold : Bool
  dfeHold  : Bool
  vgaHold  : Bool
  sigDet   : Bool
  cdrLock  : Bool
  symLock  : Bool
  rate     : BitVec 3
  wordPhase : Fin 10
  buf      : List (Option EbEntry)
  edit     : Option Bool
  turn     : SkipTurn
  holdover : Bool
  ebOvf    : Bool
  ebUnf    : Bool
  codeErr  : Bool
  dispErr  : Bool
  skpRate  : Bool
  rd       : Option Bool
  aligned  : Option Nat
  commaAt  : Option (Fin 10)
  commas   : Nat
  badRun   : Nat
  dirty    : Nat
  lostCause : BitVec 4
  owed     : Nat
  plan     : List (Option Sym)
  recentre : Option Bool
  alignRun : Nat
  driftRun : Nat
  skpWin   : Nat
  skpHit   : Bool
  skpAdd   : Word
  skpDel   : Word
  deriving DecidableEq, Repr

/-- LNEQ and LNDFE0 to LNDFE11, with the entry's targets still to be ramped to (R166). -/
structure LaneEq where
  ctle      : BitVec 4
  vga       : BitVec 5
  ctleSet   : BitVec 4
  ctleForce : Bool
  dfe       : Vector (BitVec 7) 12
  ctleGoal  : Option (BitVec 4)
  vgaGoal   : Option (BitVec 5)
  deriving DecidableEq, Repr

/-- The transmitter: LNSTAT.TX_ON and SWING_LIMITED; LNTXDRV; the PRE and POST that the ramp has reached, the swing
code that it commands now (swingNow) and the one achieved (swingAct, LNTXDRV.SWING_ACT, R154, R262), the output running disparity (true for positive), the last group sent, the place
in the set that fill or warm traffic is sending, symbols still to be sent ahead of its next set (a skip set, an idle-entry
set, an own MOS: R194, R195, R205, R209), the symbols of fill or warm traffic since its last skip set or MOS, and the answer
to a preset request (ACK in bit 0, REJECT in bit 1). -/
structure LaneTx where
  on       : Bool
  limited  : Bool
  swing    : BitVec 5
  pre      : BitVec 4
  post     : BitVec 5
  swingAct : BitVec 5
  preAct   : BitVec 4
  postAct  : BitVec 5
  swingNow : BitVec 5
  preset   : Option (BitVec 4)
  rd       : Bool
  last     : Option (BitVec 10)
  fillPos  : Fin 16
  fillSet  : List Sym
  fillRun  : Nat
  answer   : BitVec 2
  deriving DecidableEq, Repr

/-- LNSNAP and the copy (R162): LNSTAT, LNEQ, LNTXDRV, LNSKPADD, LNSKPDEL, LNERRCNT, LNSYMCNT_LO, LNSYMCNT_HI, LNEYE,
then LNDFE0 to LNDFE11. -/
structure LaneSnap where
  held    : Bool
  owner   : Ctx
  refused : Bool
  copy    : Vector Word 21
  deriving DecidableEq, Repr

/-- The preset search of one receiver (R181): the preset it has asked for, whether the answer has come, and the best
figure so far; done when the receiver has finished. -/
structure Search where
  running : Bool
  preset  : BitVec 4
  acked   : Bool
  final   : Bool
  best    : Option (BitVec 4 × BitVec 15)
  done    : Bool
  deriving DecidableEq, Repr

/-- The measurement registers of a lane (08). hist is the checker's predictor, the newest bit lowest; matched counts the
bits in a row that match, those it seeded from among them; userAt is the next bit of LNPRBSUSR that it expects; winBits and
winMiss are the bits compared while it is locked in the window in hand, and the mismatches among them (R231). ptDwell is DWELL
of the point of LNSCAN that is being measured (R235). gen is the generator's shift register, the newest bit lowest, genAt its place
in LNPRBSUSR, inject a bit of its output still to be inverted (R229, R230). testFree: a test was started on the position as
Free under DISABLED (R248). -/
structure LaneMeas where
  lastEye   : Option (BitVec 6 × BitVec 9)
  eyeW      : BitVec 6
  eyeH      : BitVec 9
  conf      : BitVec 2
  alarm     : Bool
  phase     : BitVec 6
  voff      : BitVec 7
  dwell     : BitVec 3
  ptDwell   : BitVec 3
  scanBusy  : Bool
  scanDone  : Bool
  scanAborted : Bool
  scanRefused : Bool
  scanReason : BitVec 3
  scanCnt   : Word
  pattern   : BitVec 3
  invert    : Bool
  genEn     : Bool
  chkEn     : Bool
  force     : Bool
  chkLock   : Bool
  lockLost  : Bool
  prbsRefused : Bool
  partHeld  : Bool
  prbsReason : BitVec 3
  user      : BitVec 20
  loopMode  : BitVec 2
  loopForce : Bool
  loopActive : Bool
  loopPbl   : Bool
  loopRefused : Bool
  loopReason : BitVec 3
  errCnt    : Word
  symCnt    : BitVec 48
  symWrap   : Bool
  errSat    : Bool
  symSrc    : Bool
  heelErr   : Nat
  heelSym   : Nat
  lowRun    : Nat
  hist      : BitVec 31
  matched   : Nat
  winBits   : Nat
  winMiss   : Nat
  userAt    : Fin 20
  gen       : BitVec 31
  genAt     : Fin 20
  inject    : Bool
  testFree  : Bool
  deriving DecidableEq, Repr

/-- The trims of a receiver, and of a transmitter, that Table 9-4 ramps. -/
structure RxTrims where
  term : BitVec 5
  ofsD : BitVec 7
  ofsE : BitVec 7
  ofsO : BitVec 7
  deriving DecidableEq, Repr

structure TxTrims where
  term : BitVec 5
  gain : BitVec 6
  deriving DecidableEq, Repr

/-- The calibration trims and figures of a position (09); recalAt and schedAt are the times from which AGE and the
schedule of the unit that receives here count; heldRx and heldTx are the temperature triggers of that unit that a reverted
recalibration has answered; homeRx and homeTx hold the trims that a reverted or stopped in-place recalibration is ramping
back to (R267, R268), leftRx and leftTx those that the last kept background recalibration has left, with CTLE_TRIM
(R261). -/
structure LaneCal where
  rxTerm   : BitVec 5
  txTerm   : BitVec 5
  txGain   : BitVec 6
  ofsD     : BitVec 7
  ofsE     : BitVec 7
  ofsO     : BitVec 7
  ctleTrim : BitVec 4
  rampRx   : Bool
  rampTx   : Bool
  worse    : Bool
  tRx      : BitVec 8
  tTx      : BitVec 8
  recalAt  : Nat
  schedAt  : Nat
  heldRx   : Bool
  heldTx   : Bool
  homeRx   : Option RxTrims
  homeTx   : Option TxTrims
  leftRx   : Option (RxTrims × BitVec 4)
  leftTx   : Option TxTrims
  deriving DecidableEq, Repr

structure Lane where
  rx     : LaneRx
  eq     : LaneEq
  tx     : LaneTx
  snap   : LaneSnap
  search : Search
  meas   : LaneMeas
  cal    : LaneCal
  deriving DecidableEq, Repr

/-! ### Links (02, 04, 06, 07, 10) -/

/-- LNKSTAT.JOIN_STATE (Table 2-5). -/
inductive JoinState where
  | cfgBypass | forced | waitTrain | waitHost | joining | joined | aside
  deriving DecidableEq, Repr

/-- LNKSTAT.STATE (Table 6-10). -/
inductive TrainState where
  | detect | align | eq1 | eq2 | lock | exchange | active | retrain
  | sleepAB | sleepBA | deep | loopback | disabled | notTraining
  deriving DecidableEq, Repr

/-- The state of a spare in one direction (Table 7-2). -/
inductive SpareCode where
  | none | cold | warm | aligning | carrying | forward | standin | failed
  deriving DecidableEq, Repr

/-- A spare in one direction: its state, the lane that it serves; the lane with whose skip sets its own now leave the aligner
(R208, R209); in FORWARD, whether the lane travels on it alone now, whether RELEASE_SPARE has passed, and whether its receiver
has been declared lost (R193, R206, R208). -/
structure SpareSt where
  code    : SpareCode
  lane    : LLane
  ref     : Option LLane
  moved   : Bool
  leaving : Bool
  lost    : Bool
  deriving DecidableEq, Repr

/-- A spare in a state, serving lane k if any, as it enters it. -/
def spareAs (c : SpareCode) (k : LLane) : SpareSt := ⟨c, k, none, false, false, false⟩

/-- Where a swap that the part began stands (R209): DUP sent; DUP answered and the spare aligning; the
comparison passed and the receive switch due at the end of the next skip set; MOVE sent; RELEASE sent. -/
inductive SwapStep where
  | dup | aligning | ready | move | release
  deriving DecidableEq, Repr

/-- A swap in progress; asking while no SPARE_RSP has answered the SPARE last sent for it. -/
structure Swap where
  dir    : Dir
  lane   : LLane
  spare  : SpareNo
  cause  : Byte
  id     : Byte
  seq    : BitVec 12
  step   : SwapStep
  asking : Bool
  back   : Bool
  misses : Nat
  sends  : Nat
  failed : Option (BitVec 4)
  deriving DecidableEq, Repr

/-- What the part follows of training on one side (Table 6-5): runs of training sets received from that side, and
the fields last read there; lpbkLeft counts the sets of a LOOPBACK request that have yet to leave the part (R187); lastB is the last TOS-B of logical lane 0, sent the last set that the part sent in its
place. -/
structure SideTrain where
  seen     : Bool
  rate     : BitVec 3
  alignRun : Nat
  lockRun  : Nat
  capRun   : Nat
  lpbkRun  : Nat
  lpbkLeft : Nat
  disRun   : Nat
  eqSkip   : Bool
  eqPhase  : BitVec 2
  width    : Byte
  cap      : Byte
  mlane    : Byte
  capped   : Bool
  exchDone : Bool
  laneOk   : BitVec 16
  skewOk   : Bool
  active   : Bool
  lastB    : List Byte
  sent     : Option Tos
  deriving DecidableEq, Repr

/-- One MOS that waits for a pad set; prio orders it by R297; job: an IMC_SEND Job has queued it (R387). -/
structure OutMos where
  prio    : Nat
  dst     : BitVec 2
  typ     : BitVec 4
  seq     : BitVec 12
  payload : List Byte
  job     : Bool
  deriving DecidableEq, Repr

/-- What was sent in the last pad-set place of a direction. -/
inductive SentSet where
  | pad
  | marker (node : BitVec 2) (epoch : BitVec 16) (link : LinkNo)
  | mos (m : Mos)
  | forwarded (m : Mos)
  deriving DecidableEq, Repr

/-- The sequence state of one link and one of C2, C3 (R293, R294): L, the acceptance of L to L − 7, and the
responses kept for replay. -/
structure SeqSt where
  valid : Bool
  last  : BitVec 12
  acc   : BitVec 8
  resps : List OutMos
  deriving DecidableEq, Repr

/-- A commit that has not given a link its result: class H at its boundary, class T asked to retrain, class T
switched and not yet ACTIVE. -/
inductive PendKind where
  | none | hitless | retrain | switched
  deriving DecidableEq, Repr

/-- A link: LNKCTL's fields, join and training states, LNKSTAT, LNKTRN, LNKCAP, LNKLOSS, LNKSPARE, and what the part follows of
it. disA, disB: eight DISABLE sets have been forwarded from that side (R188); lpbkDue: those of a LOOPBACK request from a side
have left the part (R187); epochOk: both partners read epoch markers (R119); release: the RELEASE_SPARE of a swap that has been
given up waits for its answer, with how often it has been sent (R298). -/
structure Link where
  aside    : Bool
  disable  : Bool
  eqFixed  : Bool
  join     : JoinState
  joinSeen : Bool
  st       : TrainState
  partnerDis : Bool
  disA     : Bool
  disB     : Bool
  lpbkDue  : Option Side
  lpbkSide : Side
  rate     : BitVec 3
  width    : Nat
  detA     : BitVec 16
  detB     : BitVec 16
  detwA    : BitVec 5
  detwB    : BitVec 5
  index    : BitVec 2
  total    : BitVec 2
  lastFail : BitVec 4
  failRun  : Byte
  retrains : BitVec 16
  capAB    : Byte
  capBA    : Byte
  capLink  : Byte
  epochOk  : Bool
  mlane    : BitVec 4
  mlaneOk  : Bool
  rateBad  : Bool
  rateOld  : Bool
  trainA   : SideTrain
  trainB   : SideTrain
  spares   : Vector SpareSt 4
  spareNext : Vector (Option (Option Pos)) 2
  lastResult : BitVec 4
  lostAB   : BitVec 16
  lostBA   : BitVec 16
  lostSeen : Bool
  unrecovered : Bool
  downTaken : Bool
  cap      : Nat
  lossCause : BitVec 4
  lossLane : LLane
  lossDir  : Dir
  losses   : BitVec 16
  editAB   : Option LLane
  editBA   : Option LLane
  masterAB : Option LLane
  masterBA : Option LLane
  swap     : Option Swap
  release  : Option (OutMos × Nat)
  waitLoss : List (Dir × LLane × Byte)
  grants   : Vector (Option Nat) 3
  asked    : Vector Bool 3
  waking   : Option Side
  deepWake : Bool
  deepFirst : Bool
  retrainAsked : Bool
  idleOut  : Bool
  idleDown : Bool
  exitRetrain : Bool
  epoch    : BitVec 16
  markAB   : Bool
  markBA   : Bool
  frameAB  : Bool
  frameBA  : Bool
  pend     : PendKind
  outAB    : List OutMos
  outBA    : List OutMos
  sentAB   : Option SentSet
  sentBA   : Option SentSet
  seqC2    : SeqSt
  seqC3    : SeqSt
  txSeq    : BitVec 12
  deriving DecidableEq, Repr

/-! ### The Last in the part (03, 04) -/

/-- LASTSTAT.SHADOW (Table 4-7). -/
inductive Shadow where
  | empty | staging | staged | rejected | committing
  deriving DecidableEq, Repr

/-- The working Last, the shadow bank and the registers of Tables 3-18 and 4-7 (R124, R125). -/
structure LastSt where
  working  : LastImg
  old      : LastImg
  staged   : Option LastImg
  bank     : List Byte
  shadow   : Shadow
  mixed    : Bool
  bootDiff : Bool
  globalDiff : Bool
  result   : Byte
  refuse   : BitVec 4
  stager   : Ctx
  done     : Bool
  diff     : Vector (BitVec 4) 8
  outcome  : Vector (BitVec 4) 8
  eeprom   : Byte
  slot1    : Byte
  slot2    : Byte
  slot0    : Byte
  deriving DecidableEq, Repr

/-! ### The Store and its Windows (11) -/

/-- The Store: bytes listed where they are not zero, written tags and poisoned lines by line number, rising; the 64-bit
words in whose array bits an error stands that no read has found yet; and the Store registers. -/
structure StoreSt where
  cells   : List Host.Cell
  tags    : List Nat
  poison  : List Nat
  upsets  : List (Nat × Ecc)
  scrubLine : BitVec 17
  scrubOn : Bool
  ceRate  : Bool
  ce      : Word
  ueAddr  : BitVec 23
  ueSeen  : Bool
  ueCount : Byte
  passes  : Word
  hourCe  : Nat
  hourLogged : Bool
  hourOn  : Bool
  deriving DecidableEq, Repr

/-- WINCTL, WINERR and WINERRVA of one context. -/
structure WinRegs where
  busy    : Bool
  latched : Bool
  cause   : BitVec 3
  path    : Bool
  write   : Bool
  more    : Bool
  refused : Bool
  va      : BitVec 24
  deriving DecidableEq, Repr

/-- The Windows: registers of C0 to C3, and the entries of C1 to C3 by page, listed where they are not zero. -/
structure WinSt where
  regs    : Vector WinRegs 4
  entries : Vector (List (Nat × BitVec 20)) 3
  deriving DecidableEq, Repr

/-! ### Management paths (10) -/

/-- TWBCTL, TWBSTAT and the framing of the two-wire target (R276 to R283): none while no transaction addresses the
part; the pointer; whether the register address has been loaded; data bytes of the transaction; the words it last
put on the bus; its last acknowledgement; whether SCL, and SDA, is still found low since it was reported stuck (R283). -/
structure TwbSt where
  toutDis  : Bool
  stretchDis : Bool
  idleMs   : Byte
  awake    : Bool
  sclLow   : Bool
  sdaLow   : Bool
  denied   : Bool
  partl    : Bool
  addrShort : Bool
  late     : Bool
  overrun  : Bool
  reading  : Option Bool
  ptr      : Word
  loaded   : Bool
  bytes    : Nat
  out      : Word
  ack      : Bool
  sclDown  : Bool
  sdaDown  : Bool
  deriving DecidableEq, Repr

/-- IMCCTL, IMCSTAT, IMCCNT_A and IMCCNT_B; whether ATTN_N was asserted when last looked at (R299). -/
structure ImcSt where
  notifyA  : Bool
  notifyB  : Bool
  notifyMs : Byte
  lastNak  : BitVec 3
  lastNakB : Bool
  crcErr   : Vector Byte 2
  dropped  : Vector Byte 2
  stale    : Vector Byte 2
  bad      : Vector Byte 2
  attnWas  : Bool
  deriving DecidableEq, Repr

/-- The TAP (R300): instruction register, the data register that DEVID was captured in, the BYPASS register, what the
boundary cells last captured and what they hold to drive, and the bits that the last scan shifted out on TDO, first to
last. TDO is high-impedance outside a scan (Table 1-6). -/
structure JtagSt where
  ir       : BitVec 8
  dr       : Word
  bypass   : Bool
  captured : Boundary
  held     : Boundary
  out      : List Bool
  deriving DecidableEq, Repr

/-- What an access of each context last returned (C0 to C3), and the upper half of DTIME that its read of DTIME_LO
latched (R455). -/
structure AccSt where
  rdata  : Vector Word 4
  hiHeld : Vector (Option Word) 4
  deriving DecidableEq, Repr

/-! ### Queues, Jobs, Slots, Awl (12, 13, 14) -/

/-- A consumed entry: the index of its first slot, its bytes, whether its source reads may meet clear tags (R309), the batch it
belongs to (R355), and its place in the order of consumption of all queues (Table 14-7). -/
structure QEntry where
  idx    : BitVec 16
  bytes  : List Byte
  uninit : Bool
  batch  : Nat
  age    : Nat
  deriving DecidableEq, Repr

/-- A batch that has not given its record: entries consumed, ended, ended in error; its CB entry once consumed. -/
structure Batch where
  id    : Nat
  count : Nat
  ended : Nat
  errs  : Nat
  cb    : Option QEntry
  deriving DecidableEq, Repr

/-- What a Job keeps besides BYTES_DONE, by opcode. NVM_READ: erased units, the first of them, corrected bits, the unit that
could not be corrected, what of the block in hand has been read. NVM_PROGRAM: its source. NVM_ERASE: whether a sector's erase
has begun, and how often it was suspended. EYESCAN: the header so far, MFL, the counts of the row in hand, DTIME at the last
point. PRBS: the start (TimeSt.elapsed and DTIME), the first lock, whether a lock was lost, losses, errors injected, and the ms
run where the part ended the test. CAPTURE: the link, DTIME at arming, rows recorded, the word of each lane, the trigger's row,
lane and DTIME, and the rows of the block in hand. TELEMETRY: the sequence ends it waits for, and SLOTS. -/
inductive Prog where
  | plain
  | nvmRead (erased : Nat) (first : Option Nat) (fixed : Nat) (bad : Option Nat) (buf : List Byte)
  | nvmBuf (data : List Byte)
  | nvmErase (running : Bool) (suspends : Nat)
  | eye (head : List Byte) (mfl : BitVec 3) (row : List Word) (at' : BitVec 64)
  | prbs (start : Nat × BitVec 64) (locked : Option Nat) (lost : Bool) (losses injected : Nat) (ended : Option Nat)
  | cap (link : LinkNo) (arm : BitVec 64) (rows : Nat) (now : Vector (BitVec 16) 4) (trig : Option (Nat × Byte × BitVec 64))
      (buf : List Byte)
  | tele (ends : Option Nat) (slots : Nat)
  deriving DecidableEq, Repr

/-- A Job: none in wq is the Heel's. hold is data ready and not yet written, with its virtual address; sent: an
IMC_SEND has queued its MOS; result is the
status and RESULT with which it has finished (a finished Job leaves its unit at JOB_END). -/
structure Job where
  wq      : Option WqNo
  ctx     : Ctx
  urgent  : Bool
  entry   : QEntry
  uid     : Nat
  done    : Nat
  hold    : Option (Nat × List Byte)
  prog    : Prog
  resumes : Nat
  sent    : Bool
  result  : Option (Byte × Word)
  deriving DecidableEq, Repr

/-- CTXSLOT.STATE (Table 14-1). -/
inductive SlotCode where
  | free | preempted | faulted | ready
  deriving DecidableEq, Repr

/-- One context Slot: the Job it holds, its fault record, and when it entered its state (for R403). -/
structure Slot where
  code   : SlotCode
  job    : Option Job
  record : Vector Word 4
  lane   : Bool
  unitNo : Byte
  resumes : BitVec 4
  order  : Nat
  deriving DecidableEq, Repr

/-- WQSTAT.STATE (Table 12-2). -/
inductive WqCode where
  | disabled | active | draining | error
  deriving DecidableEq, Repr

/-- A FENCE that has started: its entry and number, and the started entries that it waits for (R372). -/
structure FenceSt where
  entry : QEntry
  uid   : Nat
  waits : List Nat
  deriving DecidableEq, Repr

/-- A work queue (12): WQCTL's mirror, WQSTAT, WQERR, WQHELD, WQHDR, its ring, its consumed entries and batches, its FENCE,
and the set that a FENCE of SCOPE 0x01 took as it became next, with its index (R372). -/
structure Wq where
  cfg      : WqRec
  code     : WqCode
  blocked  : Bool
  dbIgnored : Bool
  enFail   : BitVec 3
  head     : BitVec 16
  tail     : BitVec 16
  errIdx   : BitVec 16
  cause    : BitVec 4
  sub      : BitVec 3
  held     : Option (List Byte)
  lost     : Byte
  hdr      : BitVec 18
  clearAtOff : Bool
  ringVa   : Nat
  sizeLog2 : Nat
  waiting  : List QEntry
  batches  : List Batch
  nextBatch : Nat
  fence    : Option FenceSt
  fenceDue : Option (BitVec 16 × List Nat)
  hdrDue   : Bool
  hdrOff   : Bool
  deriving DecidableEq, Repr

/-- CQSTAT.STATE (Table 12-11). -/
inductive CqCode where
  | disabled | active | error
  deriving DecidableEq, Repr

/-- A record that is due (R355): its queue and its bytes with PHASE 0. -/
structure DueRec where
  wq    : WqNo
  bytes : List Byte
  deriving DecidableEq, Repr

structure Cq where
  owner    : Option WinCtx
  code     : CqCode
  sizeLog2 : BitVec 4
  tail     : BitVec 16
  phase    : Bool
  head     : BitVec 16
  err      : BitVec 2
  wcause   : BitVec 3
  irq      : Bool
  refused  : Bool
  base     : BitVec 18
  due      : List DueRec
  deriving DecidableEq, Repr

/-- The units (R369) and what each runs; held is a suspended erase while an URGENT Job has its engine (R402). -/
structure Units where
  movers : Vector (Option Job) 4
  nvm    : Option Job
  held   : Option Job
  cap    : Vector (Option Job) 2
  lane   : Vector (Option Job) 36
  inband : Option Job
  deriving DecidableEq, Repr

/-- The weighted rounds of R352: the credit left to each queue (33 entries: WQ0 to WQ31, then the Heel), the queue
last visited in each class, what is left of its burst, and the number given to the next Job. -/
structure Sched where
  credit  : Vector Nat 33
  lastUrg : Nat
  lastNor : Nat
  burstUrg : Nat
  burstNor : Nat
  nextUid : Nat
  order   : Nat
  resRefused : Bool
  resReason  : BitVec 2
  deriving DecidableEq, Repr

/-- AWLSTAT, AWLOUT0 to AWLOUT3, and the command in progress: when it was accepted (TimeSt.elapsed) and its outcome so
far (Tables 14-9, 14-10). -/
structure AwlSt where
  busy    : Bool
  done    : Bool
  refused : Bool
  reason  : BitVec 2
  jobs    : Byte
  elapsed : Byte
  out     : Vector Word 4
  cmd     : Word
  since   : Nat
  running : Nat
  preempted : Nat
  parked  : Nat
  waiting : Nat
  nvmAct  : BitVec 4
  capHdr  : Bool
  capLost : Bool
  tests   : Bool
  faultSeen : Bool
  freed   : Byte
  heel    : Bool
  nvmOff  : Word
  deriving DecidableEq, Repr

/-! ### NVM (15) -/

/-- One 16-byte unit: erased, holding data, or indeterminate after a power loss (R439). -/
inductive NvmCell where
  | erased
  | data (bytes : List Byte)
  | torn
  deriving DecidableEq, Repr

/-- The header unit of a sector (Table 15-2); good is false where it reads erased or fails its CHECK. -/
structure SecHdr where
  count   : Nat
  retired : Bool
  good    : Bool
  deriving DecidableEq, Repr

/-- A program of the part's own: a unit of the main array, or the header unit of a sector. -/
inductive OwnProg where
  | unit (u : Nat)
  | head (sec : Nat)
  deriving DecidableEq, Repr

/-- The NVM: units and header units listed where they differ from erased and from a new header, the dirty and
restored sectors, the OTP bytes, the units in which the code finds an error, of the main array and of OTP, the registers of
Tables 15-9 and 15-10, and the log's place. forJob: the suspension in force is for an URGENT Job that has yet to take the engine
(R402); eraseDue: the log has moved on and its oldest sector is still to be erased, marks: the dirty sectors still to be marked
there (R434); own: the programs of the part's own that go on, the one in progress first (R439). -/
structure NvmSt where
  cells    : List (Nat × NvmCell)
  heads    : List (Nat × SecHdr)
  dirty    : List Nat
  restored : List Nat
  otp      : List Byte
  upsets   : List (Nat × Ecc)
  otpUpsets : List (Nat × Ecc)
  wp       : BitVec 4
  lock     : Bool
  suspended : Bool
  forJob   : Bool
  logErase : Option Nat
  eraseDue : Bool
  marks    : List Nat
  own      : List OwnProg
  rdErased : Bool
  rdUe     : Bool
  ce       : BitVec 16
  addr     : BitVec 20
  addrOk   : Bool
  wsel     : Byte
  dropped  : BitVec 16
  tokens   : Nat
  logSeq   : Word
  logSector : Nat
  logSlot  : Nat
  logWait  : List EvRec
  deriving DecidableEq, Repr

/-! ### Telemetry and time (16) -/

/-- One sequencer: the program of the working Last, the one its running sequence converts, and its slot. -/
structure SeqrSt where
  prog    : TelemRec
  cur     : TelemRec
  running : Bool
  slot    : Nat
  pend    : Bool
  hold    : Bool
  deriving DecidableEq, Repr

structure TmCh where
  value  : BitVec 16
  stale  : Bool
  hi     : Bool
  lo     : Bool
  sample : Byte
  lim    : BitVec 16 × BitVec 16
  deriving DecidableEq, Repr

structure TmSt where
  seqrs   : Vector SeqrSt 2
  conv    : Option SeqNo
  lastConv : Option SeqNo
  outs    : Nat
  decReset : Bool
  syncSeen : Bool
  alarm   : BitVec 12
  miss    : Vector (BitVec 16) 2
  ch      : Vector TmCh 12
  deriving DecidableEq, Repr

/-- DTIME with its fraction (R453), the registers of Table 16-6, and the time counted since reset release in units of
50 ps, by which the model knows how long ago something was (R219, R261, R470), the instants of the last LOAD_NOW and of the
last load by a SYNC edge among it (R458). -/
structure TimeSt where
  dtime   : BitVec 64
  frac    : BitVec 32
  loadArm : Bool
  syncDis : Bool
  loaded  : Bool
  edges   : Byte
  trim    : BitVec 16
  load    : BitVec 64
  sync    : BitVec 64
  elapsed : Nat
  nowAt   : Option Nat
  edgeAt  : Option Nat
  deriving DecidableEq, Repr

/-! ### Calibration (09) -/

/-- Where a recalibration stands: a stand-in's swap, the trimming, the wait for a VALID figure (R267), a stand-in's swap
back with the trims kept or not. -/
inductive RecalStage where
  | swapping | trimming | checking
  | back (kept : Bool)
  deriving DecidableEq, Repr

/-- What a recalibration restores if it is stopped (R268), the figure recorded before it (R267), and where it stands. -/
structure RecalSt where
  mode   : BitVec 2
  rx     : LaneCal
  tx     : LaneCal
  eye    : Option (BitVec 6 × BitVec 9)
  stage  : RecalStage
  deriving DecidableEq, Repr

/-- CALSTAT (Table 9-8), the held host request, the recalibration that runs, the global block of the record; inUse is the
copy of the record in use (true for B), dueList the due units in the order of R265. -/
structure CalSt where
  aOk      : Bool
  bOk      : Bool
  inUse    : Option Bool
  rextBad  : Bool
  rext     : Nat
  pending  : Bool
  save     : Bool
  fail     : Bool
  busy     : Bool
  curPos   : Pos
  curDir   : Dir
  adcCal   : Bool
  adcT0    : BitVec 16
  refused  : Bool
  host     : Option (Pos × Dir)
  recal    : Option RecalSt
  biasMain : BitVec 10
  biasPll  : BitVec 10
  tjCal    : BitVec 16
  lastSave : Nat
  dueList  : List (Pos × Dir)
  deriving DecidableEq, Repr

/-! ### The whole machine -/

structure State where
  pins  : Pins
  power : Power
  boot  : Boot
  dev   : Dev
  welt  : WeltSt
  therm : Thermal
  evt   : EvtSt
  heel  : HeelSt
  lanes : Vector Lane 36
  links : Vector Link 8
  last  : LastSt
  store : StoreSt
  win   : WinSt
  twb   : TwbSt
  imc   : ImcSt
  jtag  : JtagSt
  acc   : AccSt
  wqs   : Vector Wq 32
  cqs   : Vector Cq 8
  units : Units
  slots : Vector Slot 8
  sched : Sched
  awl   : AwlSt
  nvm   : NvmSt
  tm    : TmSt
  time  : TimeSt
  cal   : CalSt
  free  : Nat
  pending : List Instr
  deriving DecidableEq, Repr

/-- No meaning of this model ends in a fault; the constructor stands for a stop that the spec would have to give.
Raised by nobody; safe. -/
inductive Fault where
  | noStopInSpec
  deriving DecidableEq, Repr

/-- Why a command has no outcome. notModelled is raised by an arm of exec that has no meaning yet; safe. -/
inductive Refusal where
  | notModelled (mnemonic : String)
  deriving DecidableEq, Repr

/-! ### The machine right after reset: power-on, every rail below its threshold, RESET_N at its pull -/

namespace Reset

def rx : LaneRx :=
  { ctleHold := false, dfeHold := false, vgaHold := false, sigDet := false, cdrLock := false, symLock := false
    rate := 0, wordPhase := 0, buf := List.replicate 16 none, edit := none, turn := .level, holdover := false, ebOvf := false, ebUnf := false
    codeErr := false, dispErr := false, skpRate := false, rd := none, aligned := none, commaAt := none, commas := 0, badRun := 0
    dirty := 0, lostCause := 0, owed := 0, plan := [], recentre := none, alignRun := 0, driftRun := 0, skpWin := 0, skpHit := false, skpAdd := 0, skpDel := 0 }

def eq : LaneEq := ⟨8, 0x10, 8, false, Vector.replicate 12 0, none, none⟩

def tx : LaneTx :=
  { on := false, limited := false, swing := 0x10, pre := 0, post := 0x10, swingAct := 0x10, preAct := 0
    postAct := 0x10, swingNow := 0x10, preset := some 4, rd := false, last := none, fillPos := 0, fillSet := [], fillRun := 0
    answer := 0 }

def search : Search := ⟨false, 0, false, false, none, false⟩

def meas : LaneMeas :=
  { lastEye := none, eyeW := 0, eyeH := 0, conf := 0, alarm := false, phase := 0, voff := 0, dwell := 0, ptDwell := 0
    scanBusy := false
    scanDone := false, scanAborted := false, scanRefused := false, scanReason := 0, scanCnt := 0, pattern := 4
    invert := false, genEn := false, chkEn := false, force := false, chkLock := false, lockLost := false
    prbsRefused := false, partHeld := false, prbsReason := 0, user := 0x55555, loopMode := 0
    loopForce := false, loopActive := false, loopPbl := false, loopRefused := false, loopReason := 0, errCnt := 0
    symCnt := 0, symWrap := false, errSat := false, symSrc := false, heelErr := 0, heelSym := 0, lowRun := 0, hist := 0
    matched := 0, winBits := 0, winMiss := 0, userAt := 0, gen := 1, genAt := 0, inject := false, testFree := false }

def cal : LaneCal :=
  { rxTerm := 0x10, txTerm := 0x10, txGain := 0x20, ofsD := 0, ofsE := 0, ofsO := 0, ctleTrim := 0, rampRx := false
    rampTx := false, worse := false, tRx := 0, tTx := 0, recalAt := 0, schedAt := 0, heldRx := false, heldTx := false
    homeRx := none, homeTx := none, leftRx := none, leftTx := none }

def lane : Lane := ⟨rx, eq, tx, ⟨false, 0, false, Vector.replicate 21 0⟩, search, meas, cal⟩

def sideTrain : SideTrain :=
  { seen := false, rate := 0, alignRun := 0, lockRun := 0, capRun := 0, lpbkRun := 0, lpbkLeft := 0, disRun := 0, eqSkip := false
    eqPhase := 0, width := 0, cap := 0, mlane := 0, capped := false, exchDone := false, laneOk := 0, skewOk := false
    active := false, lastB := [], sent := none }

def seqSt : SeqSt := ⟨false, 0, 0, []⟩

def link : Link :=
  { aside := false, disable := false, eqFixed := false, join := .forced, joinSeen := false, st := .notTraining
    partnerDis := false, disA := false, disB := false, lpbkDue := none, lpbkSide := .A, rate := 0, width := 0, detA := 0, detB := 0, detwA := 0, detwB := 0, index := 0
    total := 0, lastFail := 0, failRun := 0, retrains := 0, capAB := 0, capBA := 0, capLink := 0, epochOk := false, mlane := 0
    mlaneOk := false, rateBad := false, rateOld := false, trainA := sideTrain, trainB := sideTrain
    spares := Vector.replicate 4 (spareAs .none 0), spareNext := Vector.replicate 2 none, lastResult := 0, lostAB := 0, lostBA := 0, lostSeen := false
    unrecovered := false, downTaken := false, cap := 0, lossCause := 0, lossLane := 0, lossDir := .AB, losses := 0
    editAB := none, editBA := none, masterAB := none, masterBA := none, swap := none, release := none, waitLoss := []
    grants := Vector.replicate 3 none, asked := Vector.replicate 3 false, waking := none, deepWake := false
    deepFirst := false, retrainAsked := false, idleOut := false, idleDown := false, exitRetrain := false, epoch := 0, markAB := false
    markBA := false, frameAB := false, frameBA := false, pend := .none, outAB := [], outBA := [], sentAB := none, sentBA := none, seqC2 := seqSt
    seqC3 := seqSt, txSeq := 0 }

def wq : Wq :=
  { cfg := WqRec.default, code := .disabled, blocked := false, dbIgnored := false, enFail := 0, head := 0, tail := 0
    errIdx := 0, cause := 0, sub := 0, held := none, lost := 0, hdr := 0, clearAtOff := false, ringVa := 0
    sizeLog2 := 4, waiting := [], batches := [], nextBatch := 0, fence := none, fenceDue := none, hdrDue := false, hdrOff := false }

def cq : Cq :=
  { owner := none, code := .disabled, sizeLog2 := 4, tail := 0, phase := true, head := 0, err := 0, wcause := 0
    irq := false, refused := false, base := 0, due := [] }

def awl : AwlSt :=
  { busy := false, done := false, refused := false, reason := 0, jobs := 0, elapsed := 0, out := Vector.replicate 4 0
    cmd := 0, since := 0, running := 0, preempted := 0, parked := 0, waiting := 0, nvmAct := 0, capHdr := false, capLost := false
    tests := false, faultSeen := false, freed := 0, heel := false, nvmOff := 0 }

def sched : Sched :=
  { credit := Vector.replicate 33 0, lastUrg := 31, lastNor := 32, burstUrg := 0, burstNor := 0, nextUid := 0
    order := 0, resRefused := false, resReason := 0 }

def units : Units := ⟨Vector.replicate 4 none, none, none, Vector.replicate 2 none, Vector.replicate 36 none, none⟩

def slot : Slot := ⟨.free, none, Vector.replicate 4 0, false, 0, 0, 0⟩

def store : StoreSt :=
  { cells := [], tags := [], poison := [], upsets := [], scrubLine := 0, scrubOn := false, ceRate := false, ce := 0, ueAddr := 0
    ueSeen := false, ueCount := 0, passes := 0, hourCe := 0, hourLogged := false, hourOn := false }

def win : WinSt := ⟨Vector.replicate 4 ⟨false, false, 0, false, false, false, false, 0⟩, Vector.replicate 3 []⟩

def tmCh : TmCh := ⟨0, true, false, false, 0, (0x8000, 0x7FFF)⟩

def seqr : SeqrSt := ⟨⟨false, 1, 0, false, 0, Vector.replicate 16 0xFF⟩, ⟨false, 1, 0, false, 0, Vector.replicate 16 0xFF⟩,
  false, 0, false, false⟩

def tm : TmSt := ⟨Vector.replicate 2 seqr, none, none, 0, false, false, 0, Vector.replicate 2 0, Vector.replicate 12 tmCh⟩

/-- The units of Last slot 0 that hold the factory image (R97); the last is filled with 0xFF. -/
def imageCells : List (Nat × NvmCell) :=
  (List.range 11).map fun u =>
    (u, .data (((factoryImage.drop (16 * u)).take 16 ++ List.replicate 16 0xFF).take 16))

/-- The OTP identity (Table 15-6): SERIAL zero, LOT ASCII zeros. DESIGN CHOICE: the spec states no serial (log 4). -/
def otp : List Byte :=
  [0x57, 0x4F, 0x54, 0x50, 0x20, 0x16, 0xB0, 0x02, 0x00, 0x00, 0x00, 0x00, 0x00, 0x00, 0x00, 0x00,
   0x30, 0x30, 0x30, 0x30, 0x30, 0x30, 0x00, 0x00, 0x00, 0x00, 0x00, 0x00, 0x80, 0x64, 0x8B, 0x28]

def nvm : NvmSt :=
  { cells := imageCells, heads := [], dirty := [], restored := [], otp := otp, upsets := [], otpUpsets := [], wp := 0, lock := false
    suspended := false, forJob := false, logErase := none, eraseDue := false, marks := [], own := [], rdErased := false, rdUe := false, ce := 0, addr := 0, addrOk := false
    wsel := 0, dropped := 0, tokens := 128, logSeq := 0, logSector := 50, logSlot := 0, logWait := [] }

def evt : EvtSt :=
  { next := 0, wrapped := false, lastCode := 0, maskGroups := 0x7FF, maskCq := 0xFF, minClass := 1, attn := 0
    overwrites := 0, seq := 0, fifo := [], heelUe := false, weltBad := false, pllLoss := false, supply := false
    heelWdog := false }

def twb : TwbSt :=
  { toutDis := false, stretchDis := false, idleMs := 0x64, awake := true, sclLow := false, sdaLow := false
    denied := false, partl := false, addrShort := false, late := false, overrun := false, reading := none, ptr := 0
    loaded := false, bytes := 0, out := 0, ack := false, sclDown := false, sdaDown := false }

def boundary : Boundary := ⟨0, 0, false, false, false, 0, false, false, false, false, false, false⟩

/-- The TAP in Test-Logic-Reset: IDCODE is in the instruction register (R300). -/
def jtag : JtagSt := ⟨0x01, 0, false, boundary, boundary, []⟩

def imc : ImcSt :=
  ⟨false, false, 0x0A, 0, false, Vector.replicate 2 0, Vector.replicate 2 0, Vector.replicate 2 0, Vector.replicate 2 0,
    false⟩

def last : LastSt :=
  { working := LastImg.default, old := LastImg.default, staged := none, bank := [], shadow := .empty, mixed := false
    bootDiff := false, globalDiff := false, result := 0, refuse := 0, stager := 0, done := false
    diff := Vector.replicate 8 0, outcome := Vector.replicate 8 0, eeprom := 0, slot1 := 0, slot2 := 0, slot0 := 0 }

def boot : Boot :=
  { inReset := true, phase := 0, done := false, addr := 0, bootsel := false, testMode := false, eeprom := ⟨[], none⟩
    arbLost := 0, fallback := false, src := 0, applied := false, calDone := false, calInvalid := false }

def calSt : CalSt :=
  { aOk := false, bOk := false, inUse := none, rextBad := false, rext := 0, pending := false, save := false
    fail := false, busy := false, curPos := 0, curDir := .AB, adcCal := false, adcT0 := 0, refused := false, host := none
    recal := none, biasMain := 0, biasPll := 0, tjCal := 0, lastSave := 0, dueList := [] }

def time : TimeSt := ⟨0, 0, false, false, false, 0, 0, 0, 0, 0, none, none⟩

end Reset

/-- The machine right after reset (R11, R48, Tables 18-3 to 18-6). -/
def State.reset : State where
  pins := ⟨false, true, false, false, 0, false, false, true⟩
  power := ⟨Vector.replicate 8 false, Vector.replicate 8 false, Vector.replicate 8 false, false, false, Vector.replicate 5 false,
    Vector.replicate 4 0⟩
  boot := Reset.boot
  dev := ⟨false, false, false, false, false⟩
  welt := ⟨Vector.replicate 18 false, Vector.replicate 18 true, Vector.replicate 18 false, Vector.replicate 18 false⟩
  therm := ⟨none, 0, Vector.replicate 4 false, false, false⟩
  evt := Reset.evt
  heel := ⟨0, none, false, false⟩
  lanes := Vector.replicate 36 Reset.lane
  links := Vector.replicate 8 Reset.link
  last := Reset.last
  store := Reset.store
  win := Reset.win
  twb := Reset.twb
  imc := Reset.imc
  jtag := Reset.jtag
  acc := ⟨Vector.replicate 4 0, Vector.replicate 4 none⟩
  wqs := Vector.replicate 32 Reset.wq
  cqs := Vector.replicate 8 Reset.cq
  units := Reset.units
  slots := Vector.replicate 8 Reset.slot
  sched := Reset.sched
  awl := Reset.awl
  nvm := Reset.nvm
  tm := Reset.tm
  time := Reset.time
  cal := Reset.calSt
  free := 0
  pending := []

end Sys2Proof.Machine
end

