-- ==== Sys2Proof/Machine/Ops.lean ====
section
/-! DEFINITION. The named reads and updates that every meaning uses: lanes, links, the geometry of the working Last. -/

namespace Sys2Proof

def Side.other : Side → Side
  | .A => .B
  | .B => .A

/-- The direction in which a side receives. -/
def Side.rxDir : Side → Dir
  | .A => .AB
  | .B => .BA

/-- The side on which a direction is received, and the one on which it is sent. -/
def Dir.rxSide : Dir → Side
  | .AB => .A
  | .BA => .B
def Dir.txSide : Dir → Side
  | .AB => .B
  | .BA => .A
def Dir.other : Dir → Dir
  | .AB => .BA
  | .BA => .AB
def Dir.bit : Dir → Bool
  | .AB => false
  | .BA => true
def Dir.num : Dir → Byte
  | .AB => 0
  | .BA => 1

/-- The partner of a side: node 0 on side A, node 3 on side B (Table 0-3). -/
def Side.node : Side → BitVec 2
  | .A => 0
  | .B => 3

/-- The node that sends into a direction, and the one that it reaches. -/
def Dir.upNode (d : Dir) : BitVec 2 := d.rxSide.node
def Dir.downNode (d : Dir) : BitVec 2 := d.txSide.node

end Sys2Proof

namespace Sys2Proof.Machine

/-- A fixed table with entry i replaced. -/
def vput {α : Type} {n : Nat} (v : Vector α n) (i : Fin n) (x : α) : Vector α n := v.set i.val x i.isLt

/-- A fixed table with entry i changed by f. -/
def vmod {α : Type} {n : Nat} (v : Vector α n) (i : Fin n) (f : α → α) : Vector α n := vput v i (f v[i])

/-- Where the lane block of a side's position stands. -/
def laneIx : Side → Pos → Fin 36
  | .A, p => ⟨p.val, by omega⟩
  | .B, p => ⟨18 + p.val, by omega⟩

def getLane (s : State) (sd : Side) (p : Pos) : Lane := s.lanes[laneIx sd p]
def modLane (s : State) (sd : Side) (p : Pos) (f : Lane → Lane) : State := { s with lanes := vmod s.lanes (laneIx sd p) f }
def modRx (s : State) (sd : Side) (p : Pos) (f : LaneRx → LaneRx) : State := modLane s sd p fun n => { n with rx := f n.rx }
def modTx (s : State) (sd : Side) (p : Pos) (f : LaneTx → LaneTx) : State := modLane s sd p fun n => { n with tx := f n.tx }
def modEq (s : State) (sd : Side) (p : Pos) (f : LaneEq → LaneEq) : State := modLane s sd p fun n => { n with eq := f n.eq }
def modMeas (s : State) (sd : Side) (p : Pos) (f : LaneMeas → LaneMeas) : State :=
  modLane s sd p fun n => { n with meas := f n.meas }
def modCal (s : State) (sd : Side) (p : Pos) (f : LaneCal → LaneCal) : State :=
  modLane s sd p fun n => { n with cal := f n.cal }

def getLink (s : State) (l : LinkNo) : Link := s.links[l]
def modLink (s : State) (l : LinkNo) (f : Link → Link) : State := { s with links := vmod s.links l f }

/-- What a unit runs (R369). -/
def getUnit (s : State) : UnitId → Option Job
  | .mover m => s.units.movers[m]
  | .nvm => s.units.nvm
  | .cap sd => s.units.cap[(if sd = .A then 0 else 1 : Fin 2)]
  | .lane sd p => s.units.lane[laneIx sd p]
  | .inband => s.units.inband

def setUnit (s : State) (u : UnitId) (j : Option Job) : State :=
  { s with units := match u with
    | .mover m => { s.units with movers := vput s.units.movers m j }
    | .nvm => { s.units with nvm := j }
    | .cap sd => { s.units with cap := vput s.units.cap (if sd = .A then 0 else 1) j }
    | .lane sd p => { s.units with lane := vput s.units.lane (laneIx sd p) j }
    | .inband => { s.units with inband := j } }

def modJob (s : State) (u : UnitId) (f : Job → Job) : State := setUnit s u ((getUnit s u).map f)

/-- A byte, two bytes and four bytes of an entry's operands. -/
def QEntry.u8 (e : QEntry) (o : Nat) : Nat := leAt e.bytes o 1
def QEntry.u16 (e : QEntry) (o : Nat) : Nat := leAt e.bytes o 2
def QEntry.u32 (e : QEntry) (o : Nat) : Nat := leAt e.bytes o 4

/-- The positions that a CAPTURE lists. -/
def capPositions (e : QEntry) : List Nat := (List.range (e.u8 0x0D)).map fun i => e.u8 (0x10 + i)

/-- A CAPTURE watches the TX point; the direction that its point carries (R392). -/
def capTx (e : QEntry) : Bool := e.u8 0x0C / 2 % 2 == 1
def capDir (sd : Side) (e : QEntry) : Dir := if capTx e then sd.rxDir.other else sd.rxDir

/-- The list index of the lowest lane that a CAPTURE watches for which f holds (R392). -/
def lowestWatched (e : QEntry) (f : Nat → Bool) : Option Byte :=
  ((List.range (min 4 (e.u8 0x0D))).find? fun i => (e.u8 0x15).testBit i && f i).map (BitVec.ofNat 8)

/-- The armed capture of a side whose TRIG is kind triggers in the row that it is writing, on the lane that f gives; only the
first condition counts (R392). -/
def capTrigger (s : State) (sd : Side) (kind : Nat) (f : QEntry → Option Byte) : State :=
  modJob s (.cap sd) fun j => match j.prog with
    | .cap l arm rows now none buf =>
      match if j.entry.u8 0x14 = kind ∧ j.result = none then f j.entry else none with
      | some i => { j with prog := .cap l arm rows now (some (rows, i, s.time.dtime)) buf }
      | none => j
    | _ => j

/-- The next free value's number, and the state that has used it. -/
def useFree (s : State) : Nat × State := (s.free, { s with free := s.free + 1 })

/-- Side PLLs lock: each chooses its VCO band (Table 9-1). -/
def lockPlls (s : State) (qs : List SidePll) : State :=
  qs.foldl (fun t q =>
    { (useFree t).2 with power := { t.power with band := vput t.power.band q (Config.vcoBand t.free) } }) s

/-- The side PLLs whose family an image has changed lock anew. -/
def relockPlls (s : State) (old : LastImg) : State :=
  lockPlls s ((List.finRange 4).filter fun q =>
    s.last.working.pllfam[q] != old.pllfam[q] && s.last.working.pllfam[q] != .off)

def allLinks : List LinkNo := List.finRange 8
def allPos : List Pos := List.finRange 18
def bothSides : List Side := [.A, .B]
def bothDirs : List Dir := [.AB, .BA]
def bothSpares : List SpareNo := [0, 1]

/-- The direction whose pad sets travel toward a node. -/
def towardNode (n : BitVec 2) : Dir := if n = 0 then .BA else .AB

/-! ### The working Last -/

def linkRec (s : State) (l : LinkNo) : Option LinkRec := s.last.working.links[l]

/-- A property of the link's record, false where no record names the link. -/
def recIs (s : State) (l : LinkNo) (f : LinkRec → Bool) : Bool :=
  match linkRec s l with
  | some r => f r
  | none => false

def isPart (s : State) (l : LinkNo) : Bool := recIs s l (·.mode == .participating)
def isTrans (s : State) (l : LinkNo) : Bool := recIs s l (·.mode == .transparent)
def isLoopTimed (s : State) (l : LinkNo) : Bool := recIs s l (·.loopTimed)

/-- The array of a direction on its receiving side, and on its sending side (Table 3-4). -/
def rxMap (m : LastImg) : Dir → Vector (Option Pos) 18
  | .AB => m.aAB
  | .BA => m.bBA
def txMap (m : LastImg) : Dir → Vector (Option Pos) 18
  | .AB => m.bAB
  | .BA => m.aBA

/-- The global lane of a logical lane. -/
def globalOf (r : LinkRec) (k : LLane) : Nat := r.first + k.val

/-- The home positions of a logical lane. -/
def homeRx (m : LastImg) (r : LinkRec) (d : Dir) (k : LLane) : Option Pos := mapAt (rxMap m d) (globalOf r k)
def homeTx (m : LastImg) (r : LinkRec) (d : Dir) (k : LLane) : Option Pos := mapAt (txMap m d) (globalOf r k)

/-- The global lane of a spare of the link. -/
def spareOf (r : LinkRec) (n : SpareNo) : Option Pos := if n = 0 then r.spare0 else r.spare1

def spareRx (m : LastImg) (r : LinkRec) (d : Dir) (n : SpareNo) : Option Pos :=
  (spareOf r n).bind fun g => mapAt (rxMap m d) g.val
def spareTx (m : LastImg) (r : LinkRec) (d : Dir) (n : SpareNo) : Option Pos :=
  (spareOf r n).bind fun g => mapAt (txMap m d) g.val

/-- The logical lanes of a link, lane 0 first. -/
def lanesOf (r : LinkRec) : List LLane := idxs 16 fun k => k.val < r.width

/-- The logical lanes below the trained width; all of the link's before it has one, or in a Transparent link. -/
def trainedLanes (s : State) (l : LinkNo) : List LLane :=
  match linkRec s l with
  | none => []
  | some r => (lanesOf r).filter fun k => r.mode != .participating || k.val < (getLink s l).width

/-- What carries a position on one side: a logical lane or a spare of a link. -/
inductive Carried where
  | lane (l : LinkNo) (k : LLane)
  | spare (l : LinkNo) (n : SpareNo)
  deriving DecidableEq, Repr

def Carried.link : Carried → LinkNo
  | .lane l _ => l
  | .spare l _ => l

/-- The lane or spare of an image whose entry in a map is position p. -/
def whoAt (m : LastImg) (map : Vector (Option Pos) 18) (p : Pos) : Option Carried :=
  allLinks.findSome? fun l => match m.links[l] with
    | none => none
    | some r =>
      match (lanesOf r).find? fun k => mapAt map (globalOf r k) == some p with
      | some k => some (.lane l k)
      | none => (bothSpares.find? fun n => ((spareOf r n).bind fun g => mapAt map g.val) == some p).map (.spare l ·)

/-- What the receiver, and the transmitter, of a side's position serves. -/
def whoRx (s : State) (sd : Side) (p : Pos) : Option Carried := whoAt s.last.working (rxMap s.last.working sd.rxDir) p
def whoTx (s : State) (sd : Side) (p : Pos) : Option Carried :=
  whoAt s.last.working (txMap s.last.working sd.rxDir.other) p

/-- The link whose lane or spare a side's receiver, and its transmitter, serves. -/
def rxLink (s : State) (sd : Side) (p : Pos) : Option LinkNo := (whoRx s sd p).map Carried.link
def txLink (s : State) (sd : Side) (p : Pos) : Option LinkNo := (whoTx s sd p).map Carried.link

/-- The positions that a link names as lanes and spares, on either side. -/
def namesPos (m : LastImg) (l : LinkNo) (p : Pos) : Bool :=
  match m.links[l] with
  | none => false
  | some r => (laneList r ++ spareList r).any fun g =>
      mapAt m.aAB g == some p || mapAt m.bAB g == some p || mapAt m.aBA g == some p || mapAt m.bBA g == some p

/-- The first link that names a position, on either side. -/
def posLink (m : LastImg) (p : Pos) : Option LinkNo := allLinks.find? fun l => namesPos m l p

/-- Every link that names a position: more than one only where WELT_IGNORE lets the two sides differ. -/
def linksAt (m : LastImg) (p : Pos) : List LinkNo := allLinks.filter fun l => namesPos m l p

def linkPoss (m : LastImg) (l : LinkNo) : List Pos := allPos.filter (namesPos m l)

/-! ### Spares -/

/-- Where a spare's state in a direction stands in Link.spares. -/
def spareIx (n : SpareNo) (d : Dir) : Fin 4 := Fin.ofNat 4 (2 * n.val + if d = .BA then 1 else 0)

def getSpare (s : State) (l : LinkNo) (n : SpareNo) (d : Dir) : SpareSt := (getLink s l).spares[spareIx n d]

def setSpare (s : State) (l : LinkNo) (n : SpareNo) (d : Dir) (x : SpareSt) : State :=
  modLink s l fun k => { k with spares := vput k.spares (spareIx n d) x }

/-- The spare serves as a lane of the link (R206). -/
def SpareCode.serves : SpareCode → Bool
  | .aligning | .carrying | .forward | .standin => true
  | _ => false

/-- The spare from which a lane is taken: it carries or stands in for it, another node's swap has moved the lane to it
(R206, R208), or its receive switch has been made. -/
def takenFrom (s : State) (l : LinkNo) (d : Dir) (k : LLane) : Option SpareNo :=
  let carried := bothSpares.find? fun n =>
    let x := getSpare s l n d
    (x.code == .carrying || x.code == .standin || (x.code == .forward && x.moved)) && x.lane == k
  match (getLink s l).swap with
  | some w =>
    if w.dir = d ∧ w.lane = k ∧ (w.step = .move ∨ w.step = .release) then (if w.back then none else some w.spare)
    else carried
  | none => carried

/-- The position on which a lane is received now. -/
def laneRx (s : State) (l : LinkNo) (d : Dir) (k : LLane) : Option Pos :=
  (linkRec s l).bind fun r => match takenFrom s l d k with
    | some n => spareRx s.last.working r d n
    | none => homeRx s.last.working r d k

/-- The position on which a lane is sent. -/
def laneTx (s : State) (l : LinkNo) (d : Dir) (k : LLane) : Option Pos :=
  (linkRec s l).bind fun r => match takenFrom s l d k with
    | some n => spareTx s.last.working r d n
    | none => homeTx s.last.working r d k

/-- The lane that a receive position feeds now, spares in service counted. -/
def feeds (s : State) (sd : Side) (p : Pos) : Option (LinkNo × LLane) :=
  match whoRx s sd p with
  | some (.lane l k) => if takenFrom s l sd.rxDir k = none then some (l, k) else none
  | some (.spare l n) =>
    let x := getSpare s l n sd.rxDir
    if takenFrom s l sd.rxDir x.lane = some n then some (l, x.lane) else none
  | none => none

def lostOf (k : Link) : Dir → BitVec 16
  | .AB => k.lostAB
  | .BA => k.lostBA

def isLost (s : State) (l : LinkNo) (d : Dir) (k : LLane) : Bool := (lostOf (getLink s l) d).getLsbD k.val

def bit16 (k : LLane) : BitVec 16 := 1#16 <<< k.val

def setLost (s : State) (l : LinkNo) (d : Dir) (k : LLane) (on : Bool) : State :=
  modLink s l fun x =>
    let f := fun v : BitVec 16 => if on then v ||| bit16 k else v &&& ~~~(bit16 k)
    match d with
    | .AB => { x with lostAB := f x.lostAB }
    | .BA => { x with lostBA := f x.lostBA }

/-- Every trained lane of the direction is lost. -/
def allLost (s : State) (l : LinkNo) (d : Dir) : Bool :=
  !(trainedLanes s l).isEmpty && (trainedLanes s l).all fun k => isLost s l d k

/-! ### Taps, islands -/

/-- The position's Welt is sensed closed. -/
def closedAt (s : State) (p : Pos) : Bool := s.welt.closed[p]

/-- A listening tap: the Welt of the position is closed while the part is powered (R228). -/
def isTap (s : State) (p : Pos) : Bool := closedAt s p

/-- The register islands (Tables 5-6, 18-1). -/
inductive Island where
  | management | core | store | nvm | telemetry
  | aligner (l : LinkNo)
  | lane (sd : Side) (p : Pos)
  deriving DecidableEq, Repr

/-- The working Last keeps the receive island of a side's position powered (Table 5-6): a link names the position as a
lane or spare on that side, or a Bypass link has a tap there. -/
def poweredAt (m : LastImg) (sd : Side) (p : Pos) : Bool :=
  (whoAt m (rxMap m sd.rxDir) p).isSome || (whoAt m (txMap m sd.rxDir.other) p).isSome ||
    allLinks.any fun l => namesPos m l p && (match m.links[l] with
      | some r => r.mode == .bypass
      | none => false)

/-- The island is powered down (R51, R160). -/
def islandOff (s : State) : Island → Bool
  | .management => false
  | .core | .store | .nvm | .telemetry => s.dev.standby
  | .aligner l => s.dev.standby || !(isPart s l || isTrans s l)
  | .lane sd p => s.dev.standby || s.boot.phase.toNat < 4 || !poweredAt s.last.working sd p

/-! ### Link quantities -/

/-- The side's view of training. -/
def sideTr (k : Link) : Side → SideTrain
  | .A => k.trainA
  | .B => k.trainB

def modTr (s : State) (l : LinkNo) (sd : Side) (f : SideTrain → SideTrain) : State :=
  modLink s l fun k => match sd with
    | .A => { k with trainA := f k.trainA }
    | .B => { k with trainB := f k.trainB }

/-- LNKSTAT.IMC_ON (R184). DESIGN CHOICE (log entry 71): DEEP, which Table 7-6 lists beside the two sleeps, is none of the
sleep states in which it reads 1. -/
def imcOn (k : Link) : Bool :=
  (k.st == .active || k.st == .sleepAB || k.st == .sleepBA) && k.capLink.getLsbD 4 && k.mlaneOk

/-- LNKEPOCH.MARKERS_ON (R119): the record asks for markers, and both partners can read them. -/
def markersOn (s : State) (l : LinkNo) : Bool :=
  recIs s l (fun r => r.markers && r.mode == .participating && r.mgmtLane.isSome) && (getLink s l).epochOk

/-- A commit is in progress. -/
def committing (s : State) : Bool := s.last.shadow == .committing

end Sys2Proof.Machine
end

