-- ==== Sys2Proof/Machine/Memory.lean ====
section
/-! DEFINITION. The Store as an array (R304 to R314): lines, bytes, tags, poison. A byte that nothing lists reads zero:
a read of a line whose tag is clear returns zero, and a first write fills its line with zero (R307, R308). -/

namespace Sys2Proof.Machine

/-- The line of a physical address. -/
def lineOf (pa : Nat) : Nat := pa / 64

/-- The line lies within the Heel structures (R305). -/
def heelLine (n : Nat) : Bool := 0x7E0 * 64 ≤ n

def StoreSt.tagged (m : StoreSt) (n : Nat) : Bool := m.tags.contains n
def StoreSt.poisoned (m : StoreSt) (n : Nat) : Bool := m.poison.contains n

/-- One stored byte. -/
def StoreSt.byteAt (m : StoreSt) (pa : Nat) : Byte := tabGet 0 pa m.cells

def StoreSt.bytesAt (m : StoreSt) (pa n : Nat) : List Byte := (List.range n).map fun i => m.byteAt (pa + i)

/-- Bytes put at consecutive addresses, with no care for lines. -/
def putBytes (cells : List Host.Cell) : Nat → List Byte → List Host.Cell
  | _, [] => cells
  | pa, b :: r => putBytes (tabSet 0 pa b cells) (pa + 1) r

/-- All 64 bytes of a line zero. -/
def zeroLine (cells : List Host.Cell) (n : Nat) : List Host.Cell := putBytes cells (n * 64) (zeros 64)

/-- A write within one line (R307, R314): a poisoned line is zeroed and freed first, the tag is set. The words that are
stored anew are sound. -/
def StoreSt.writeLine (m : StoreSt) (pa : Nat) (bs : List Byte) : StoreSt :=
  let n := lineOf pa
  let cells := if m.poisoned n || !m.tagged n then zeroLine m.cells n else m.cells
  let whole := m.poisoned n || !m.tagged n
  { m with
    cells := putBytes cells pa bs, tags := numSet n m.tags, poison := numClear n m.poison
    upsets := m.upsets.filter fun u =>
      !(if whole then u.1 / 8 == n else pa / 8 ≤ u.1 && u.1 ≤ (pa + bs.length - 1) / 8) }

/-- Bytes cut at the ends of lines: the pieces of a range, in ascending order. -/
def pieces : Nat → Nat → List Byte → List (Nat × List Byte)
  | 0, _, _ => []
  | fuel + 1, pa, bs =>
    if bs.isEmpty then []
    else
      let k := 64 - pa % 64
      (pa, bs.take k) :: pieces fuel (pa + k) (bs.drop k)

/-- The Store with its contents lost and its tags clear (R59, R306); the poison marks go with the contents. -/
def StoreSt.lose (m : StoreSt) : StoreSt := { m with cells := [], tags := [], poison := [], upsets := [] }

end Sys2Proof.Machine
end

