-- ==== Sys2Proof/Machine/Events.lean ====
section
/-! DEFINITION. Event records, the event ring, ATTN_N, FAULT_N and the safety sources (17). -/

namespace Sys2Proof.Machine

/-- The bytes of a record: those of Table 15-4 with its CHECK. -/
def EvRec.bytes (r : EvRec) : List Byte :=
  let b := bytesLE 4 r.seq.toNat ++ bytesLE 2 r.code.toNat ++ [BitVec.ofNat 8 r.ctx.val, 0] ++
    bytesLE 8 r.dtime.toNat ++ padTo 12 r.data
  b ++ bytesLE 4 (crc32 b).toNat

/-- The class of an event: 0 INFO, 1 WARN, 2 ERROR, 3 SAFETY (Table 17-1). -/
def evClass (code : BitVec 16) (data : List Byte) : Nat :=
  if code = 0x0101 then (if data.getD 1 0 = 0x01 ∨ data.getD 1 0 = 0x02 then 0 else 1)
  else if code.toNat / 256 = 0x0C then 3
  else if [0x0203, 0x0402, 0x0406, 0x040A, 0x0501, 0x0503, 0x0604, 0x0605, 0x0804, 0x0903, 0x0B02].contains code.toNat
    then 0
  else if [0x0301, 0x0302, 0x0405, 0x0407, 0x0408, 0x040B, 0x0601, 0x0602, 0x0703, 0x0704, 0x0802, 0x0803, 0x0901,
      0x0902, 0x0A01].contains code.toNat then 2
  else 1

/-- The event ring starts at physical 0x7E_0000 (R462). -/
def ringBase : Nat := 0x7E0000

/-- One record put in the ring at EVTSTAT.NEXT (R462); the line it lay in is freed of poison. -/
def ringPut (s : State) (r : EvRec) : State :=
  let e := s.evt
  let wasFull := e.wrapped
  { s with
    store := s.store.writeLine (ringBase + 32 * e.next.toNat) r.bytes
    evt := { e with
      next := e.next + 1
      wrapped := e.wrapped || e.next == 2047
      overwrites := if wasFull then satInc e.overwrites else e.overwrites } }

/-- One record to the ring, or in Standby to the FIFO of 16, which drops its oldest (R464). -/
def recordPut (s : State) (r : EvRec) : State :=
  if s.dev.standby then
    let e := s.evt
    if e.fifo.length < 16 then { s with evt := { e with fifo := e.fifo ++ [r] } }
    else { s with evt := { e with fifo := e.fifo.drop 1 ++ [r], overwrites := satInc e.overwrites } }
  else ringPut s r

/-- The next record: SEQ steps, the NVM log is offered it (R461, R463). -/
def emit (s : State) (code : BitVec 16) (ctx : Ctx) (dtime : BitVec 64) (data : List Byte) : State :=
  let r : EvRec := ⟨s.evt.seq, code, ctx, dtime, padTo 12 data⟩
  let s := { s with evt := { s.evt with seq := s.evt.seq + 1 }, nvm := { s.nvm with logWait := s.nvm.logWait ++ [r] } }
  recordPut s r

/-- One event: its record, a CONT record where its data exceeds 12 bytes, LAST_CODE and ATTNSRC (R461, R466). -/
def emitEvent (s : State) (code : BitVec 16) (ctx : Ctx) (data : List Byte) : State :=
  let s := emit s code ctx s.time.dtime (data.take 12)
  let s := if 12 < data.length then emit s 0x0001 ctx s.time.dtime (data.drop 12) else s
  let bit : BitVec 12 := 1#12 <<< (code.toNat / 256 - 1)
  let attn := if s.evt.minClass.toNat ≤ evClass code data || code == 0x0102 then s.evt.attn ||| bit else s.evt.attn
  { s with evt := { s.evt with lastCode := code, attn := attn } }

/-- A-type data: the address used, the physical address, the cause. -/
def aData (addr pa cause : Nat) : List Byte := bytesLE 4 addr ++ bytesLE 4 pa ++ [BitVec.ofNat 8 cause]

/-- The poisoned ring lines, by their addresses, that the event's record and its CONT record meet. -/
def ringPoisoned (s : State) (data : List Byte) : List Nat :=
  let lines := [s.evt.next, if 12 < data.length then s.evt.next + 1 else s.evt.next].map fun i =>
    lineOf (ringBase + 32 * i.toNat)
  if s.dev.standby then [] else (lines.eraseDups.filter s.store.poisoned).map (64 * ·)

/-- An event, and a POISON_CLEARED for each poisoned ring line that its records meet (R314, Table 17-4). -/
def logFuel : Nat → State → BitVec 16 → Ctx → List Byte → State
  | 0, s, code, ctx, data => emitEvent s code ctx data
  | n + 1, s, code, ctx, data =>
    (ringPoisoned s data).foldl (fun t pa => logFuel n t 0x0804 0 (aData 0 pa 0)) (emitEvent s code ctx data)

/-- The part logs an event. -/
def logEvent (s : State) (code : BitVec 16) (ctx : Ctx) (data : List Byte) : State :=
  logFuel (s.store.poison.length + 1) s code ctx data

/-- The lane identifier of Table 3-6. -/
def laneId (sd : Side) (p : Pos) : Byte :=
  match sd with
  | .A => BitVec.ofNat 8 p.val
  | .B => BitVec.ofNat 8 (0x80 + p.val)

/-- L-type data: lane identifier, link or 0xFF, logical lane, direction, then more. -/
def lData (s : State) (sd : Side) (p : Pos) (more : List Byte) : List Byte :=
  let who := match feeds s sd p with
    | some (l, k) => [BitVec.ofNat 8 l.val, BitVec.ofNat 8 k.val]
    | none => match whoRx s sd p with
      | some (.lane l k) => [BitVec.ofNat 8 l.val, BitVec.ofNat 8 k.val]
      | some (.spare l _) => [BitVec.ofNat 8 l.val, 0]
      | none => [0xFF, 0]
  laneId sd p :: who ++ sd.rxDir.num :: more

def logL (s : State) (code : BitVec 16) (sd : Side) (p : Pos) (more : List Byte) : State :=
  logEvent s code 0 (lData s sd p more)

/-- L-type data of a transmitter: the lane that it sends, in the direction in which it sends (Table 17-1). -/
def txData (s : State) (sd : Side) (p : Pos) (more : List Byte) : List Byte :=
  let d := sd.rxDir.other
  let who := match whoTx s sd p with
    | some (.lane l k) => [BitVec.ofNat 8 l.val, BitVec.ofNat 8 k.val]
    | some (.spare l n) =>
      let k := (getSpare s l n d).lane
      [BitVec.ofNat 8 l.val, if takenFrom s l d k = some n then BitVec.ofNat 8 k.val else 0]
    | none => [0xFF, 0]
  laneId sd p :: who ++ d.num :: more

def logTx (s : State) (code : BitVec 16) (sd : Side) (p : Pos) (more : List Byte) : State :=
  logEvent s code 0 (txData s sd p more)

/-- K-type data: the link, then more. -/
def logK (s : State) (code : BitVec 16) (l : LinkNo) (more : List Byte) : State :=
  logEvent s code 0 (BitVec.ofNat 8 l.val :: more)

/-- L-type data for a logical lane, by its home position. -/
def logLane (s : State) (code : BitVec 16) (l : LinkNo) (d : Dir) (k : LLane) (more : List Byte) : State :=
  let id := match (linkRec s l).bind fun r => homeRx s.last.working r d k with
    | some p => laneId d.rxSide p
    | none => 0
  logEvent s code 0 ([id, BitVec.ofNat 8 l.val, BitVec.ofNat 8 k.val, d.num] ++ more)

/-! ### FAULTSRC, ATTNSRC and the two balls -/

/-- FAULTSRC.LINK_UNREC (Table 17-7). -/
def linkUnrec (s : State) : BitVec 8 := BitVec.ofBoolListLE ((List.ofFn fun l : Fin 8 => s.links[l].unrecovered))

/-- A rail is out of its range now: found so, or, once the part runs, not even valid (VDDSW alone may be absent, R34). -/
def railOut (s : State) (r : Fin 8) : Bool := s.power.outside[r] || (!s.boot.inReset && !s.power.valid[r])

/-- The rail bits of FAULTSRC. -/
def railBits (s : State) : BitVec 8 := BitVec.ofBoolListLE (List.ofFn fun r : Fin 8 => railOut s r)

/-- FAULTSRC (Table 17-7). -/
def faultSrc (s : State) : Word :=
  wordOf [bitOn s.evt.heelUe 0, bitOn (linkUnrec s != 0) 1, bitOn s.evt.weltBad 2, bitOn s.evt.pllLoss 3,
    bitOn s.therm.shutdown 4, bitOn s.evt.supply 5, bitOn s.evt.heelWdog 6, at_ (linkUnrec s) 8,
    bitOn s.therm.warn 16, bitOn s.power.unlock[0] 17, bitOn s.power.unlock[1] 18, bitOn s.power.unlock[2] 19,
    bitOn s.power.unlock[3] 20, bitOn s.power.unlock[4] 21, at_ (railBits s) 22]

/-- The IRQ_PEND bits of CQ0 to CQ7. -/
def cqBits (s : State) : BitVec 8 := BitVec.ofBoolListLE (List.ofFn fun q : Fin 8 => s.cqs[q].irq)

/-- ATTNSRC (Table 17-6). -/
def attnSrc (s : State) : Word := wordOf [at_ s.evt.attn 0, at_ (cqBits s) 16]

/-- EVTMASK (Table 17-6): BOOT always reads 1. -/
def evtMask (s : State) : Word :=
  wordOf [1, at_ s.evt.maskGroups 1, at_ s.evt.maskCq 16, at_ s.evt.minClass 24]

/-- ATTN_N is driven low (R467): from the end of boot phase 0x2, unless HIGHZ turns the outputs off (R301). -/
def attnLow (s : State) : Bool :=
  !s.boot.inReset && s.jtag.ir != 0x05 && 3 ≤ s.boot.phase.toNat && (attnSrc s &&& evtMask s &&& 0x00FFFFFF) != 0

/-- FAULT_N is driven low (R24, R28, R468). -/
def faultLow (s : State) : Bool :=
  s.power.valid[5] && s.jtag.ir != 0x05 && (s.boot.inReset || s.boot.phase != 4 || s.boot.testMode || (faultSrc s &&& 0x7F) != 0)

/-- The boundary cells have the balls that have 1149.1 cells, and drive them (R300): EXTEST, EXTEST_PULSE, EXTEST_TRAIN,
CLAMP. -/
def cellsDrive (s : State) : Bool := [0x00, 0x03, 0x04, 0x06].contains s.jtag.ir.toNat

/-- ATTN_N and FAULT_N as they stand on their balls. -/
def attnPinLow (s : State) : Bool := if cellsDrive s then !s.jtag.held.attnN else attnLow s
def faultPinLow (s : State) : Bool := if cellsDrive s then s.power.valid[5] && !s.jtag.held.faultN else faultLow s

/-- Clear the safety class bits that a W1C write names, where the condition has ended (Tables 17-2, 17-4). -/
def clearFaults (s : State) (v : Word) : State :=
  { s with evt := { s.evt with
      heelUe := s.evt.heelUe && !bitAt v 0
      weltBad := s.evt.weltBad && !(bitAt v 2 && (List.finRange 18).all fun p =>
        s.welt.closed[p] == !s.welt.cmdOpen[p])
      pllLoss := s.evt.pllLoss && !(bitAt v 3 && (List.finRange 5).all fun q => !s.power.unlock[q])
      supply := s.evt.supply && !(bitAt v 5 && (List.finRange 8).all fun r => !railOut s r)
      heelWdog := s.evt.heelWdog && !bitAt v 6 } }

end Sys2Proof.Machine
end

