-- ==== Sys2Proof/Machine/StoreOps.lean ====
section
/-! DEFINITION. Reads and writes of the Store on the register path and on the Job path, and the Windows (11). -/

namespace Sys2Proof.Machine

/-- The causes of Table 11-2. -/
abbrev Cause := BitVec 3
abbrev causeNotValid : Cause := 1
abbrev causeNoRead : Cause := 2
abbrev causeNoWrite : Cause := 3
abbrev causePoison : Cause := 4
abbrev causeUninit : Cause := 5

/-- The Window entries' place of a context; none for C0, whose Window is fixed (R318). -/
def winCtx (c : Ctx) : Option WinCtx := if h : c.val = 0 then none else some ⟨c.val - 1, by omega⟩

/-- The context of a table of entries. -/
def ctxOfWin (t : WinCtx) : Ctx := ⟨t.val + 1, by omega⟩

/-- An entry as it is stored (Table 11-1): PPAGE in [10:0], VALID, READ, WRITE, LOCK in [16] to [19]. -/
def winEntry (s : State) (t : WinCtx) (page : Nat) : BitVec 20 := tabGet 0 page s.win.entries[t]

def setWinEntry (s : State) (t : WinCtx) (page : Nat) (e : BitVec 20) : State :=
  { s with win := { s.win with entries := vmod s.win.entries t (tabSet 0 page e) } }

/-- The fields of a written word as an entry stores them: WRITE is 0 while PPAGE names a reserved page (R319, R321). -/
def storedEntry (v : Word) : BitVec 20 :=
  let e := v.setWidth 20 &&& 0xF07FF
  if 0x7E0 ≤ (e &&& 0x7FF).toNat then e &&& ~~~(0x40000 : BitVec 20) else e

/-- The physical address of a virtual address, or the first failing check of the entry (R317, R326). -/
def translate (s : State) (c : Ctx) (va : Nat) (write : Bool) : Except Cause Nat :=
  match winCtx c with
  | none => if va < 0x800000 then .ok va else .error causeNotValid
  | some t =>
    let e := winEntry s t (va / 0x1000)
    if !e.getLsbD 16 then .error causeNotValid
    else if !write && !e.getLsbD 17 then .error causeNoRead
    else if write && !e.getLsbD 18 then .error causeNoWrite
    else .ok ((e &&& 0x7FF).toNat * 0x1000 + va % 0x1000)

/-- A failed check latched in WINERR of the context (R329). -/
def latchErr (s : State) (c : Ctx) (cause : Cause) (path write : Bool) (addr : Nat) : State :=
  { s with win := { s.win with regs := vmod s.win.regs c fun w =>
      if w.latched then { w with more := true }
      else { w with latched := true, cause := cause, path := path, write := write, va := BitVec.ofNat 24 addr } } }

/-- One correction counted (R310, R311): STORECE, and the hour's count against THRESH 0x0006. -/
def countCe (s : State) : State :=
  let m := { s.store with ce := satInc s.store.ce }
  let t := s.last.working.thresh[5]
  if m.hourOn && t.enable then
    let m := { m with hourCe := m.hourCe + 1 }
    if t.value < m.hourCe && !m.hourLogged then
      logEvent { s with store := { m with ceRate := true, hourLogged := true } } 0x0807 0 (bytesLE 4 m.hourCe)
    else { s with store := m }
  else { s with store := m }

/-- A line that cannot be corrected is poisoned (R312); in a Heel structure it is a safety source, and the Heel
restarts (R469). -/
def poisonLine (s : State) (n : Nat) : State :=
  let m := s.store
  let s := { s with store := { m with
    poison := numSet n m.poison, ueAddr := BitVec.ofNat 23 (n * 64), ueSeen := true, ueCount := satInc m.ueCount } }
  let s := logEvent s 0x0802 0 (aData 0 (n * 64) 0)
  if heelLine n then
    logEvent { s with evt := { s.evt with heelUe := true }, heel := { s.heel with restartDue := true } } 0x0C01 0
      (aData 0 (n * 64) 0)
  else s

/-- An upset of a word of the Store or of a unit of the NVM; a read that meets it finds it (R310, R312, R423, R424). -/
def upsetWord (s : State) : Upset → State
  | .store w f => { s with store := { s.store with upsets := tabSet .clean w.toNat f s.store.upsets } }
  | .nvm u f => { s with nvm := { s.nvm with upsets := tabSet .clean u.toNat f s.nvm.upsets } }
  | .otp u f => { s with nvm := { s.nvm with otpUpsets := tabSet .clean u.toNat f s.nvm.otpUpsets } }

/-- The upsets that have come about by the time of a command. -/
def upset (s : State) (e : List Upset) : State := e.foldl upsetWord s

/-- A read of n bytes within one line: each word of them with a single-bit error is corrected, written back and counted; one
that cannot be corrected poisons the line. On a line whose tag is clear or that is poisoned nothing is checked (R308). -/
def eccRead (s : State) (pa n : Nat) : State :=
  if !s.store.tagged (lineOf pa) || s.store.poisoned (lineOf pa) then s
  else
    let found := s.store.upsets.filter fun u => pa / 8 ≤ u.1 && u.1 < (pa + n + 7) / 8
    let fixed := found.filter (·.2 == .corrected)
    let s := { s with store := { s.store with upsets := s.store.upsets.filter fun u => !fixed.contains u } }
    let s := fixed.foldl (fun t _ => countCe t) s
    if found.any (·.2 == .uncorrectable) then poisonLine s (lineOf pa) else s

/-- The read step of a merge: the words of a write's ends that it covers in part (R310). -/
def mergeRead (s : State) (pa n : Nat) : State :=
  let s := if pa % 8 = 0 then s else eccRead s pa 1
  if (pa + n) % 8 = 0 then s else eccRead s (pa + n - 1) 1

/-- A write within one line, with the read of its merge (R310, R312, R314). -/
def storeWriteLine (s : State) (pa : Nat) (bs : List Byte) : State :=
  let s := mergeRead s pa bs.length
  let was := s.store.poisoned (lineOf pa)
  let s := { s with store := s.store.writeLine pa bs }
  if was then logEvent s 0x0804 0 (aData 0 (lineOf pa * 64) 0) else s

/-- A write of bytes at a physical address, line by line. -/
def storeWrite (s : State) (pa : Nat) (bs : List Byte) : State :=
  (pieces (bs.length + 1) pa bs).foldl (fun t q => storeWriteLine t q.1 q.2) s

/-! ### Register path (R327) -/

/-- A register-path access that fails a check of its entry. -/
def winFault (s : State) (c : Ctx) (addr va : Nat) (cause : Cause) (write : Bool) : State :=
  latchErr (logEvent s 0x0806 c (aData addr 0 cause.toNat)) c cause false write va

/-- A word read at a physical address on the register path (R308, R313); errVa is what WINERRVA would show. -/
def storeReadPa (s : State) (c : Ctx) (addr pa errVa : Nat) : Word × State :=
  let n := lineOf pa
  let s := eccRead s pa 4
  if s.store.poisoned n then
    (0xFFFFFFFF, latchErr (logEvent s 0x0803 c (aData addr pa causePoison.toNat)) c causePoison false false errVa)
  else if !s.store.tagged n then
    (0, latchErr (logEvent s 0x0801 c (aData addr pa causeUninit.toNat)) c causeUninit false false errVa)
  else (BitVec.ofNat 32 (natLE (s.store.bytesAt pa 4)), s)

/-- A register-path read through the context's virtual window. -/
def storeReadVa (s : State) (c : Ctx) (va : Nat) : Word × State :=
  match translate s c va false with
  | .error cause => (0xFFFFFFFF, winFault s c (0x02000000 + va) va cause false)
  | .ok pa => storeReadPa s c (0x02000000 + va) pa (if c = 0 then pa else va)

/-- A register-path write through the context's virtual window. -/
def storeWriteVa (s : State) (c : Ctx) (va : Nat) (v : Word) : State :=
  match translate s c va true with
  | .error cause => winFault s c (0x02000000 + va) va cause true
  | .ok pa => storeWrite s pa (bytesLE 4 v.toNat)

/-! ### Job path (R328) -/

/-- A range of addresses cut at the multiples of a size. -/
def cuts (size : Nat) : Nat → Nat → Nat → List (Nat × Nat)
  | 0, _, _ => []
  | fuel + 1, a, n =>
    if n = 0 then []
    else
      let k := min n (size - a % size)
      (a, k) :: cuts size fuel (a + k) (n - k)

/-- A range of virtual addresses cut at the ends of pages, and one of physical addresses cut at the ends of lines. -/
def pageCuts (va n : Nat) : List (Nat × Nat) := cuts 0x1000 (n / 0x1000 + 2) va n
def lineCuts (pa n : Nat) : List (Nat × Nat) := cuts 64 (n / 64 + 2) pa n

/-- The lines of n bytes at a physical address. -/
def linesOf (pa n : Nat) : List Nat :=
  if n = 0 then [] else (List.range (lineOf (pa + n - 1) - lineOf pa + 1)).map (lineOf pa + ·)

/-- What a Job-path access answers: the bytes, or the cause and the first virtual address of the faulting access. -/
abbrev JobRead := Except (Cause × Nat) (List Byte)

/-- One page of a Job-path read: entry checks, then POISON, then UNINIT unless it is allowed (R309, R313). -/
def readPage (s : State) (c : Ctx) (va n : Nat) (uninit : Bool) : JobRead × State :=
  match translate s c va false with
  | .error cause => (.error (cause, va), s)
  | .ok pa =>
    let s := (lineCuts pa n).foldl (fun t q => eccRead t q.1 q.2) s
    if (linesOf pa n).any s.store.poisoned then (.error (causePoison, va), s)
    else if !uninit && !(linesOf pa n).all s.store.tagged then (.error (causeUninit, va), s)
    else (.ok (s.store.bytesAt pa n), s)

/-- A Job-path read, page by page. -/
def readCuts (c : Ctx) (uninit : Bool) : State → List (Nat × Nat) → JobRead × State
  | s, [] => (.ok [], s)
  | s, (va, n) :: r =>
    match readPage s c va n uninit with
    | (.error f, s) => (.error f, s)
    | (.ok b, s) =>
      match readCuts c uninit s r with
      | (.error f, s) => (.error f, s)
      | (.ok b', s) => (.ok (b ++ b'), s)

def jobRead (s : State) (c : Ctx) (va n : Nat) (uninit : Bool) : JobRead × State :=
  readCuts c uninit s (pageCuts va n)

/-- A Job-path write, page by page: the bytes written before a page that fails, and that page's cause and address. -/
def writeCuts (c : Ctx) : State → Nat → List Byte → List (Nat × Nat) → Option (Cause × Nat) × Nat × State
  | s, w, _, [] => (none, w, s)
  | s, w, bs, (va, n) :: r =>
    match translate s c va true with
    | .error cause => (some (cause, va), w, s)
    | .ok pa => writeCuts c (storeWrite s pa (bs.take n)) (w + n) (bs.drop n) r

def jobWrite (s : State) (c : Ctx) (va : Nat) (bs : List Byte) : Option (Cause × Nat) × Nat × State :=
  writeCuts c s 0 bs (pageCuts va bs.length)

/-- The page of a range whose entry an access would fail on, if any, with nothing accessed (R324, R390, R393). -/
def blocked (s : State) (c : Ctx) (va n : Nat) (write : Bool) : Option (Cause × Nat) :=
  (pageCuts va n).findSome? fun q =>
    match translate s c q.1 write with
    | .error cause => some (cause, q.1)
    | .ok _ => none

def writeBlocked (s : State) (c : Ctx) (va n : Nat) : Option (Cause × Nat) := blocked s c va n true

/-- LOCK cleared in the entry through which a faulting access was translated (R322). -/
def unlockEntry (s : State) (c : Ctx) (va : Nat) : State :=
  match winCtx c with
  | none => s
  | some t => setWinEntry s t (va / 0x1000) (winEntry s t (va / 0x1000) &&& 0x7FFFF)

end Sys2Proof.Machine
end

