-- ==== Sys2Proof/Machine/LastCommit.lean ====
section
/-! DEFINITION. How a staged Last compares with the working Last (Tables 4-1, 4-2), and how its items are taken up,
link by link (R108 to R115). -/

namespace Sys2Proof.Machine

/-- PRE and POST of preset TXP0 to TXP15 (Table 5-3). -/
def presetTable : Vector (BitVec 4 × BitVec 5) 16 :=
  #v[(0, 0), (0, 4), (0, 8), (0, 12), (0, 16), (0, 20), (0, 24), (0, 31), (4, 0), (4, 8), (4, 16), (4, 24), (8, 8),
    (8, 16), (8, 24), (15, 31)]

def presetTaps (p : BitVec 4) : BitVec 4 × BitVec 5 := presetTable[p.toFin]

/-- PRE and POST that a TXDRV entry asks for. -/
def TxRec.taps (t : TxRec) : BitVec 4 × BitVec 5 :=
  match t.preset with
  | some p => presetTaps p
  | none => (t.pre, t.post)

/-! ### Scopes -/

/-- Global lane g is a lane or spare of link l. -/
def holds (m : LastImg) (l : LinkNo) (g : Nat) : Bool :=
  match m.links[l] with
  | some r => (laneList r ++ spareList r).contains g
  | none => false

/-- The link holds the side's position as a lane or spare under the image's LANEMAP. -/
def holdsPos (m : LastImg) (l : LinkNo) (sd : Side) (p : Pos) : Bool :=
  (List.range 18).any fun g => holds m l g && (match sd with
    | .A => mapAt m.aAB g == some p || mapAt m.aBA g == some p
    | .B => mapAt m.bAB g == some p || mapAt m.bBA g == some p)

/-- PLL i (A0, A1, B0, B1) is named by the link. -/
def namesPll (m : LastImg) (l : LinkNo) (i : Fin 4) : Bool :=
  match m.links[l] with
  | none => false
  | some r => match i with
    | 0 => r.pllA.getLsbD 0
    | 1 => r.pllA.getLsbD 1
    | 2 => r.pllB.getLsbD 0
    | 3 => r.pllB.getLsbD 1

/-- Global lane g has different positions in the two images. -/
def mapDiffers (a b : LastImg) (g : Nat) : Bool :=
  mapAt a.aAB g != mapAt b.aAB g || mapAt a.bAB g != mapAt b.bAB g || mapAt a.aBA g != mapAt b.aBA g ||
    mapAt a.bBA g != mapAt b.bBA g

/-- Every lane block: side A 0 to 17, then side B. -/
def allLanes : List (Side × Pos) := (allPos.map fun p => (Side.A, p)) ++ allPos.map fun p => (Side.B, p)

def eqAt (m : LastImg) (sd : Side) (p : Pos) : EqRec := m.eq[laneIx sd p]
def txAt (m : LastImg) (sd : Side) (p : Pos) : TxRec := m.txdrv[laneIx sd p]

/-- The class D fields of a link's scope differ. -/
def diffD (a b : LastImg) (l : LinkNo) : Bool :=
  let here := a.links[l].isSome || b.links[l].isSome
  (here && (a.asym != b.asym || a.weltIgnore != b.weltIgnore)) ||
    (List.finRange 4).any (fun i => a.pllfam[i] != b.pllfam[i] && (namesPll a l i || namesPll b l i)) ||
    (List.range 18).any (fun g => mapDiffers a b g && (holds a l g || holds b l g)) ||
    match a.links[l], b.links[l] with
    | some x, some y => x.mode != y.mode || x.first != y.first || x.width != y.width
    | none, none => false
    | _, _ => true

/-- The class T fields of a link's scope differ. -/
def diffT (a b : LastImg) (l : LinkNo) : Bool :=
  (match a.links[l], b.links[l] with
    | some x, some y => x.rates != y.rates || x.loopTimed != y.loopTimed || x.pllA != y.pllA || x.pllB != y.pllB ||
        x.mgmtLane != y.mgmtLane || x.comma != y.comma || x.deskew != y.deskew || x.master != y.master
    | _, _ => false) ||
    a.power[l].permit != b.power[l].permit ||
    allLanes.any fun q => holdsPos b l q.1 q.2 && (txAt a q.1 q.2).acceptReq != (txAt b q.1 q.2).acceptReq

/-- The class H part of a TXDRV entry. -/
def txHot (t : TxRec) : BitVec 5 × Option (BitVec 4) × BitVec 4 × BitVec 5 := (t.swing, t.preset, t.pre, t.post)

/-- The class H fields of a link's scope differ. -/
def diffH (a b : LastImg) (l : LinkNo) : Bool :=
  (match a.links[l], b.links[l] with
    | some x, some y => x.spare0 != y.spare0 || x.spare1 != y.spare1 || x.sparePol != y.sparePol ||
        x.predict != y.predict || x.recalUse != y.recalUse || x.lossPol != y.lossPol || x.safety != y.safety ||
        x.join != y.join || x.decode != y.decode || x.markers != y.markers
    | _, _ => false) ||
    a.power[l].sleepIdle != b.power[l].sleepIdle || a.power[l].deepIdle != b.power[l].deepIdle ||
    a.welt[l] != b.welt[l] ||
    allLanes.any fun q => holdsPos b l q.1 q.2 &&
      (eqAt a q.1 q.2 != eqAt b q.1 q.2 || txHot (txAt a q.1 q.2) != txHot (txAt b q.1 q.2))

/-- The link's LASTDIFF entry (R103, R124). -/
def linkDiff (a b : LastImg) (l : LinkNo) : BitVec 4 :=
  if diffD a b l then 3 else if diffT a b l then 2 else if diffH a b l then 1 else 0

/-- No link holds the position. -/
def unheldPos (m : LastImg) (q : Side × Pos) : Bool := allLinks.all fun l => !holdsPos m l q.1 q.2

/-- Global fields of class H differ (Table 4-1, LASTSTAT.GLOBAL_DIFF). -/
def globalDiffers (a b : LastImg) : Bool :=
  a.mgmt.imcA != b.mgmt.imcA || a.mgmt.imcB != b.mgmt.imcB || a.mgmt.rd != b.mgmt.rd || a.mgmt.wr != b.mgmt.wr ||
    a.telem != b.telem || { a.heel with patchEn := b.heel.patchEn } != b.heel || a.thresh != b.thresh ||
    allLanes.any fun q => unheldPos b q &&
      (eqAt a q.1 q.2 != eqAt b q.1 q.2 || txHot (txAt a q.1 q.2) != txHot (txAt b q.1 q.2))

/-- Class B fields differ (R115). -/
def bootDiffers (a b : LastImg) : Bool :=
  a.mgmt.twbEn != b.mgmt.twbEn || a.heel.patchEn != b.heel.patchEn || a.wqs != b.wqs || a.cqs != b.cqs ||
    !(a.windows.all b.windows.contains && b.windows.all a.windows.contains)

/-- Some field of class H, T or D differs, whatever its scope. -/
def anyHTD (a b : LastImg) : Bool :=
  globalDiffers a b || a.txdrv != b.txdrv || allLinks.any (fun l => linkDiff a b l != 0) || a.asym != b.asym || a.weltIgnore != b.weltIgnore ||
    a.pllfam != b.pllfam || (List.range 18).any (mapDiffers a b)

/-- The lowest of the image's own warning and the warnings of Table 4-2 (R104). -/
def stageResult (a b : LastImg) (own : Byte) (stager : Ctx) : Byte :=
  if own == 0x80 then 0x80
  else if bootDiffers a b then 0x82
  else if (match winCtx stager with
      | some t => a.mgmt.wr[t].getLsbD 2 && !b.mgmt.wr[t].getLsbD 2
      | none => false) then 0x83
  else if !anyHTD a b then 0x84
  else own

/-! ### Taking up -/

/-- An array with the entries of the global lanes that satisfy f taken from another. -/
def takeMap (f : Nat → Bool) (a b : Vector (Option Pos) 18) : Vector (Option Pos) 18 :=
  Vector.ofFn fun g => if f g.val then b[g] else a[g]

/-- The two images' items of the scopes that f, q and i pick, taken from the second. -/
def takeScope (a b : LastImg) (f : Nat → Bool) (q : Side → Pos → Bool) (i : Fin 4 → Bool) : LastImg :=
  { a with
    aAB := takeMap f a.aAB b.aAB
    bAB := takeMap f a.bAB b.bAB
    aBA := takeMap f a.aBA b.aBA
    bBA := takeMap f a.bBA b.bBA
    pllfam := Vector.ofFn fun k => if i k then b.pllfam[k] else a.pllfam[k]
    eq := Vector.ofFn fun k =>
      if (if h : k.val < 18 then q .A ⟨k.val, h⟩ else q .B ⟨k.val - 18, by omega⟩) then b.eq[k] else a.eq[k]
    txdrv := Vector.ofFn fun k =>
      if (if h : k.val < 18 then q .A ⟨k.val, h⟩ else q .B ⟨k.val - 18, by omega⟩) then b.txdrv[k] else a.txdrv[k] }

/-- Link l's settings taken from another image (R110): its records, the lanes, positions and PLLs of its scope. DESIGN
CHOICE (log entry 59): an EQ or TXDRV difference on a position that the link holds in the old image, and that no link holds
in the new LANEMAP, is taken up here, at the link's switch, although Table 4-1 makes it global. -/
def mergeLink (a b : LastImg) (l : LinkNo) : LastImg :=
  { takeScope a b (fun g => holds a l g || holds b l g) (fun sd p => holdsPos b l sd p || holdsPos a l sd p)
      (fun i => namesPll a l i || namesPll b l i) with
    links := vput a.links l b.links[l]
    power := vput a.power l b.power[l]
    welt := vput a.welt l b.welt[l]
    asym := b.asym
    weltIgnore := b.weltIgnore }

/-- The image has no LINK record. -/
def noLinks (m : LastImg) : Bool := allLinks.all fun l => m.links[l].isNone

/-- The global differences taken up at acceptance (R108); class B fields keep their old values (R115). DESIGN CHOICE (log
entry 59): so is what has no scope in Table 4-1: a PLLFAM that no link names, the positions of a global lane that no link
holds in either image, and the FLAGS of LANEMAP where neither image has a LINK record. -/
def mergeGlobal (a b : LastImg) : LastImg :=
  { takeScope a b (fun g => allLinks.all fun l => !holds a l g && !holds b l g)
      (fun sd p => unheldPos b (sd, p) && unheldPos a (sd, p))
      (fun i => allLinks.all fun l => !namesPll a l i && !namesPll b l i) with
    mgmt := { b.mgmt with twbEn := a.mgmt.twbEn }
    telem := b.telem
    heel := { b.heel with patchEn := a.heel.patchEn }
    thresh := b.thresh
    asym := if noLinks a && noLinks b then b.asym else a.asym
    weltIgnore := if noLinks a && noLinks b then b.weltIgnore else a.weltIgnore }

/-! ### Lane registers from their entries (R166) -/

/-- A DFE tap within ±DFE_LIMIT (R128). -/
def clampTap (e : EqRec) (x : BitVec 7) : BitVec 7 := BitVec.ofInt 7 (max (-(e.dfeLimit : Int)) (min e.dfeLimit x.toInt))

/-- A position's LNEQ and LNTXDRV loaded from its entries. -/
def loadLane (m : LastImg) (sd : Side) (p : Pos) (n : Lane) : Lane :=
  let e := eqAt m sd p
  let t := txAt m sd p
  { n with
    eq := { n.eq with
      ctle := BitVec.ofNat 4 e.ctleStart, vga := BitVec.ofNat 5 e.vgaStart, dfe := n.eq.dfe.map (clampTap e)
      ctleGoal := none, vgaGoal := none }
    tx := { n.tx with
      swing := t.swing, pre := t.taps.1, post := t.taps.2, swingAct := t.swing, preAct := t.taps.1
      postAct := t.taps.2, swingNow := t.swing, preset := t.preset, limited := false } }

/-- New transmitter targets (R155). -/
def setTxTarget (t : TxRec) (n : LaneTx) : LaneTx :=
  { n with swing := t.swing, pre := t.taps.1, post := t.taps.2, preset := t.preset }

/-- New equaliser targets (R166); no tap stays beyond a lower DFE_LIMIT (R128). DESIGN CHOICE (log entry 90): a tap beyond it is
clamped at once, not ramped. -/
def setEqTarget (e : EqRec) (n : LaneEq) : LaneEq :=
  { n with
    ctleGoal := some (BitVec.ofNat 4 e.ctleStart), vgaGoal := some (BitVec.ofNat 5 e.vgaStart), dfe := n.dfe.map (clampTap e) }

/-- A powered lane block after its entries have changed: the values of a changed entry are its targets (R166). DESIGN CHOICE (log
entry 90): a TXDRV entry of which ACCEPT_REQ alone has changed makes no targets anew. -/
def aimLane (old new : LastImg) (sd : Side) (p : Pos) (n : Lane) : Lane :=
  { n with
    eq := if eqAt old sd p = eqAt new sd p then n.eq else setEqTarget (eqAt new sd p) n.eq
    tx := if txHot (txAt old sd p) = txHot (txAt new sd p) then n.tx else setTxTarget (txAt new sd p) n.tx }

/-- The lane registers after the working Last has changed: a position that has been powered up is loaded from its
entries, one whose entries changed takes their values as targets. -/
def retarget (old : LastImg) (s : State) : State :=
  let new := s.last.working
  allLanes.foldl (fun t q =>
    if !poweredAt new q.1 q.2 then t
    else if !poweredAt old q.1 q.2 then modLane t q.1 q.2 (loadLane new q.1 q.2)
    else modLane t q.1 q.2 (aimLane old new q.1 q.2)) s

end Sys2Proof.Machine
end

