-- ==== Sys2Proof/Machine/CalOps.lean ====
section
/-! DEFINITION. Trims, and the recalibration that is running (R262, R265, R268). -/

namespace Sys2Proof.Machine

/-- The trims of Table 9-4 that a position's receiver, and its transmitter, hold. -/
def LaneCal.rxTrims (c : LaneCal) : RxTrims := ⟨c.rxTerm, c.ofsD, c.ofsE, c.ofsO⟩
def LaneCal.txTrims (c : LaneCal) : TxTrims := ⟨c.txTerm, c.txGain⟩

def LaneCal.withRx (c : LaneCal) (t : RxTrims) : LaneCal :=
  { c with rxTerm := t.term, ofsD := t.ofsD, ofsE := t.ofsE, ofsO := t.ofsO }
def LaneCal.withTx (c : LaneCal) (t : TxTrims) : LaneCal := { c with txTerm := t.term, txGain := t.gain }

/-- The ramps of a receiver's, or a transmitter's, trims stand still. -/
def LaneCal.stillRx (c : LaneCal) : LaneCal := { c with homeRx := none, rampRx := false }
def LaneCal.stillTx (c : LaneCal) : LaneCal := { c with homeTx := none, rampTx := false }

/-- The trims of an earlier moment restored at once. -/
def LaneCal.restoreRx (now was : LaneCal) : LaneCal := { (now.withRx was.rxTrims).stillRx with ctleTrim := was.ctleTrim }
def LaneCal.restoreTx (now was : LaneCal) : LaneCal := (now.withTx was.txTrims).stillTx

/-- The trims of an earlier moment become what the ramps move back to. -/
def LaneCal.rampBackRx (now was : LaneCal) : LaneCal :=
  if now.rxTrims = was.rxTrims then now.stillRx else { now with homeRx := some was.rxTrims, rampRx := true }
def LaneCal.rampBackTx (now was : LaneCal) : LaneCal :=
  if now.txTrims = was.txTrims then now.stillTx else { now with homeTx := some was.txTrims, rampTx := true }

/-- No recalibration runs any more. -/
def endRecal (s : State) : State := { s with cal := { s.cal with busy := false, recal := none } }

/-- The unit's trims put back: at once, or by ramps. -/
def revertUnit (s : State) (r : RecalSt) (ramped : Bool) : State :=
  let p := s.cal.curPos
  let d := s.cal.curDir
  let s := modCal s d.rxSide p fun c => if ramped then c.rampBackRx r.rx else c.restoreRx r.rx
  modCal s d.txSide p fun c => if ramped then c.rampBackTx r.tx else c.restoreTx r.tx

/-- The running recalibration is stopped (R268): in-place trims ramp back unless they are restored at once; the event
names the unit's receiver. -/
def stopRecal (s : State) (code : BitVec 16) (atOnce : Bool) : State :=
  match s.cal.recal with
  | none => s
  | some r =>
    let s := revertUnit s r (r.mode == 2 && !atOnce)
    logL (endRecal s) code s.cal.curDir.rxSide s.cal.curPos []

/-- RECAL_ABORTED. -/
def abortRecal (s : State) : State := stopRecal s 0x0604 false

/-- A recalibration in stand-in mode runs on a position of the link. -/
def standinOn (s : State) (l : LinkNo) : Bool :=
  match s.cal.recal with
  | some r => r.mode == 1 && namesPos s.last.working l s.cal.curPos
  | none => false

/-- The unit that is being trimmed in place receives on this side's position, or sends on it. -/
def trimmedInPlace (s : State) (sd : Side) (p : Pos) : Bool :=
  match s.cal.recal with
  | some r => r.mode == 2 && s.cal.curPos == p && s.cal.curDir.rxSide == sd
  | none => false

end Sys2Proof.Machine
end

