-- ==== Sys2Proof/Machine/ImcOps.lean ====
section
/-! DEFINITION. The part's own MOS and their queues (R288 to R299). -/

namespace Sys2Proof.Machine

/-- The balance symbols of R139: the neutral one, and the one that changes the disparity. -/
def balNeutral : Sym := dataSym 0xB5
def balChange : Sym := dataSym 0x20

/-- The sixteen symbols of a set that the part originates: COM, the symbol that names it, its content from position 2 on,
D0.0 in each reserved position, and a balance symbol (R139, R170). -/
def orderedSet (id : Sym) (body : List Byte) : List Sym :=
  symCom :: id :: (padTo 13 body).map dataSym ++ [balNeutral]

def padSet : List Sym := orderedSet symPad []
def idleEntrySet : List Sym := orderedSet (k28 3) []

/-- The types of Table 10-4 that the part sends. -/
abbrev mosRdData : BitVec 4 := 0x3
abbrev mosAck : BitVec 4 := 0x4
abbrev mosNak : BitVec 4 := 0x5
abbrev mosNotify : BitVec 4 := 0x6
abbrev mosRetrainReq : BitVec 4 := 0x7
abbrev mosSpare : BitVec 4 := 0x8
abbrev mosSpareRsp : BitVec 4 := 0x9
abbrev mosLpReq : BitVec 4 := 0xA
abbrev mosLpGrant : BitVec 4 := 0xB

/-- The place of a type in the order of R297, epoch markers before it. -/
def mosPrio (typ : BitVec 4) : Nat :=
  if typ = mosSpare ∨ typ = mosSpareRsp then 1
  else if typ = mosRetrainReq then 2
  else if typ = mosLpReq then 3
  else if typ = mosNotify then 5
  else 4

def outOf (k : Link) : Dir → List OutMos
  | .AB => k.outAB
  | .BA => k.outBA

def setOut (k : Link) (d : Dir) (q : List OutMos) : Link :=
  match d with
  | .AB => { k with outAB := q }
  | .BA => { k with outBA := q }

/-- A MOS joins those that wait in the direction toward its destination. -/
def joinOut (s : State) (l : LinkNo) (m : OutMos) : State :=
  let d := towardNode m.dst
  modLink s l fun k => setOut k d (outOf k d ++ [m])

/-- A MOS of the part's own joins those that wait. -/
def queueMos (s : State) (l : LinkNo) (dst : BitVec 2) (typ : BitVec 4) (seq : BitVec 12) (payload : List Byte) : State :=
  joinOut s l ⟨mosPrio typ, dst, typ, seq, payload, false⟩

/-- The MOS of some types no longer wait, but for what an IMC_SEND Job has queued. -/
def dropMos (s : State) (l : LinkNo) (typs : List (BitVec 4)) : State :=
  modLink s l fun k =>
    let f := fun q : List OutMos => q.filter fun m => m.job || !typs.contains m.typ
    { k with outAB := f k.outAB, outBA := f k.outBA }

/-- The SEQ of a MOS that the part originates: the spec gives no rule for it (log entry 5). -/
def freshSeq (s : State) : BitVec 12 × State := (Config.mosSeq s.free, (useFree s).2)

/-- A MOS of the part's own toward a partner. -/
def sendOwn (s : State) (l : LinkNo) (dst : BitVec 2) (typ : BitVec 4) (payload : List Byte) : State :=
  let q := freshSeq s
  queueMos q.2 l dst typ q.1 payload

/-- The MFLAGS bit of a side. -/
def imcFlag (s : State) : Side → Bool
  | .A => s.last.working.mgmt.imcA
  | .B => s.last.working.mgmt.imcB

/-- The part consumes MOS on the link (R288). -/
def consumes (s : State) (l : LinkNo) : Bool :=
  let k := getLink s l
  isPart s l && imcOn k && (k.index == 1 || k.index == 2)

/-- The link's channel serves the context of a side's partner. -/
def channelOn (s : State) (sd : Side) (l : LinkNo) : Bool := consumes s l && imcFlag s sd

/-- IMCCTL.NOTIFY_A, NOTIFY_B. -/
def notifyOn (s : State) : Side → Bool
  | .A => s.imc.notifyA
  | .B => s.imc.notifyB

/-- NOTIFY toward the partner of a side, where it is enabled, in place of one that still waits (R299). -/
def queueNotify (s : State) (sd : Side) : State :=
  match if notifyOn s sd then allLinks.find? (channelOn s sd) else none with
  | none => s
  | some l =>
    let d := towardNode sd.node
    let s := allLinks.foldl (fun t j => modLink t j fun k => setOut k d ((outOf k d).filter (·.typ != mosNotify))) s
    sendOwn s l sd.node mosNotify []

/-- The bytes of positions 2 to 12 and the CRC of a MOS that the part sends (Table 10-3). -/
def mosOf (node : BitVec 2) (m : OutMos) : Mos :=
  let len := m.payload.length
  let route : Byte := (m.typ ++ node ++ m.dst : BitVec 8)
  let bytes := route :: BitVec.ofNat 8 m.seq.toNat :: BitVec.ofNat 8 (m.seq.toNat / 256 + 16 * len) :: padTo 8 m.payload
  ⟨Vector.ofFn fun i => bytes.getD i.val 0, crc16 (bytes.take 11)⟩

/-- The MOS that goes next in a direction: the first of the lowest order (R297). -/
def nextMos (q : List OutMos) : Option OutMos :=
  q.foldl (fun b m => match b with
    | none => some m
    | some x => if m.prio < x.prio then some m else some x) none

end Sys2Proof.Machine
end

