-- ==== Sys2Proof/Machine/LinkOps.lean ====
section
/-! DEFINITION. What happens to a link at its turning points: tests that end, spares and swaps, a commit's switch
instant and result, the entries to DETECT, RETRAIN and ACTIVE, standing aside (02, 04, 06, 07, 08). -/

namespace Sys2Proof.Machine

/-! ### Tests (R242, R248) -/

/-- A test holds the position on this side (R242, R245). -/
def LaneMeas.holdsTest (m : LaneMeas) : Bool :=
  (m.genEn && m.loopMode != 2) || (!m.loopPbl && (m.loopMode == 1 || m.loopMode == 3))

def heldByTest (s : State) (sd : Side) (p : Pos) : Bool := (getLane s sd p).meas.holdsTest

/-- The receiver has no symbol boundary yet, and no SYM_LOCK (R133, R135). -/
def LaneRx.unaligned (n : LaneRx) : LaneRx :=
  { n with symLock := false, aligned := none, commaAt := none, commas := 0, rd := none, edit := none, turn := .level }

/-- The receiver has no eye figure (Table 8-4). -/
def LaneMeas.noEye (m : LaneMeas) : LaneMeas := { m with conf := 0, eyeW := 0, eyeH := 0 }

/-- A point of LNSCAN that is being measured is discarded (R235). -/
def LaneMeas.abortPoint (m : LaneMeas) : LaneMeas :=
  if m.scanBusy then { m with scanBusy := false, scanDone := true, scanAborted := true } else m

/-- A receiver without CDR_LOCK: SYM_LOCK goes with it; a point of LNSCAN is discarded, and so is the eye figure unless a
Job's scan holds the sampler (R131, R133, R235, R238). -/
def Lane.noClock (held : Bool) (n : Lane) : Lane :=
  let m := if held then n.meas else n.meas.noEye
  { n with rx := { n.rx.unaligned with cdrLock := false, alignRun := 0 }, meas := m.abortPoint }

/-- A Job's scan holds the offset sampler of a receiver. -/
def scanJobHolds (s : State) (sd : Side) (p : Pos) : Bool :=
  match s.units.lane[laneIx sd p] with
  | some j => j.result.isNone && (match j.prog with
      | .eye .. => true
      | _ => false)
  | none => false

/-- A loopback mode taken away, with the generator that near-end parallel alone permits (R245). -/
def LaneMeas.noLoop (m : LaneMeas) : LaneMeas :=
  { m with loopMode := 0, loopActive := false, loopPbl := false, loopForce := false
           genEn := m.genEn && m.loopMode != 2 }

/-! ### The PRBS Job's hold on a position (R380) -/

/-- MODE of a PRBS entry: what it turns on. -/
def prbsGen (e : QEntry) : Bool := (e.bytes.getD 5 0).getLsbD 0
def prbsChk (e : QEntry) : Bool := (e.bytes.getD 5 0).getLsbD 1
def prbsLoop (e : QEntry) : BitVec 2 := (e.bytes.getD 5 0).extractLsb' 2 2

/-- LNSYMCNT, LNERRCNT, WRAP and SAT cleared. -/
def clearCounts (m : LaneMeas) : LaneMeas := { m with errCnt := 0, symCnt := 0, symWrap := false, errSat := false }

/-- The checker seeds again (R231). -/
def LaneMeas.reseed (m : LaneMeas) : LaneMeas := { m with chkLock := false, matched := 0, winBits := 0, winMiss := 0 }

/-- The counting source changes: both counters, WRAP and SAT clear (R227). -/
def setSource (m : LaneMeas) (prbs : Bool) : LaneMeas :=
  if m.chkEn = prbs then m else { (clearCounts m).reseed with chkEn := prbs, symSrc := prbs }

/-- The generator starts anew; where in its sequence is a free value. -/
def seedGen (s : State) (sd : Side) (p : Pos) : State :=
  let f := s.free
  modMeas (useFree s).2 sd p fun m => { m with gen := Config.genSeed f ||| 1, genAt := 0, inject := false }

/-- A PRBS Job turns off what it turned on; a PBL LOOPBACK is none of that (R415). -/
def prbsOff (s : State) (sd : Side) (p : Pos) (e : QEntry) : State :=
  modMeas s sd p fun m =>
    let m := if prbsLoop e != 0 && !m.loopPbl then m.noLoop else m
    let m := if prbsGen e then { m with genEn := false } else m
    let m := if prbsChk e then setSource m false else m
    { m with partHeld := false }

/-- The result of a PRBS Job at this instant (Table 13-5). -/
def prbsResult (s : State) (sd : Side) (p : Pos) (e : QEntry) (start : Nat × BitVec 64) (locked : Option Nat) (lost : Bool)
    (losses injected : Nat) (ended : Bool) : List Byte :=
  let m := (getLane s sd p).meas
  let pfl := (if locked.isSome then 1 else 0) + (if lost then 2 else 0) + (if m.errSat then 4 else 0) + if ended then 8 else 0
  let us := match locked with
    | some t => (t - start.1) / 20000
    | none => 0xFFFFFFFF
  bytesLE 2 1 ++ [e.bytes.getD 4 0, BitVec.ofNat 8 pfl] ++ bytesLE 4 m.errCnt.toNat ++ bytesLE 8 m.symCnt.toNat ++
    bytesLE 4 us ++ bytesLE 2 (min losses 0xFFFF) ++ bytesLE 2 injected ++ bytesLE 8 start.2.toNat

/-- The test of a PRBS Job is over: its result is taken, what it turned on goes off; early where the part ends it. -/
def stopPrbs (s : State) (sd : Side) (p : Pos) (early : Bool) : State :=
  match s.units.lane[laneIx sd p] with
  | none => s
  | some j =>
    match j.prog with
    | .prbs start locked lost losses injected _ =>
      if j.hold.isSome || j.result.isSome then s
      else
        let data := prbsResult s sd p j.entry start locked lost losses injected early
        let ended := if early then some ((s.time.elapsed - start.1) / 20000000) else none
        let j := { j with
          hold := some (leAt j.entry.bytes 0x10 4, data), prog := .prbs start locked lost losses injected ended }
        let s := { s with units := { s.units with lane := vput s.units.lane (laneIx sd p) (some j) } }
        prbsOff s sd p j.entry
    | _ => s

/-- The part ends the test of a PRBS Job that sends or loops (R248, R380). -/
def endTestJob (s : State) (sd : Side) (p : Pos) : State :=
  match s.units.lane[laneIx sd p] with
  | some j => if prbsGen j.entry || prbsLoop j.entry != 0 then stopPrbs s sd p true else s
  | none => s

/-- The part ends the tests that hold the position on this side (R248); near-end parallel loopback ends with them,
without an event (log entry 6). -/
def endTests (s : State) (sd : Side) (p : Pos) : State :=
  let m := (getLane s sd p).meas
  let s := modMeas (endTestJob s sd p) sd p fun m => { m.noLoop with genEn := false, testFree := false }
  if m.holdsTest then logL s 0x0503 sd p [] else s

/-! ### The Welt of one position (R40) -/

/-- A position's Welt closes: transmitters off, switches closed, tests ended, no eye figure on a tap, a point of LNSCAN
discarded. -/
def closePos (s : State) (p : Pos) : State :=
  let s := bothSides.foldl (fun t sd => modTx t sd p fun x => { x with on := false, last := none }) s
  let s := { s with welt := { s.welt with
    cmdOpen := vput s.welt.cmdOpen p false, closed := vput s.welt.closed p true, mismatch := vput s.welt.mismatch p false } }
  bothSides.foldl (fun t sd => modMeas (endTests t sd p) sd p fun m => m.noEye.abortPoint) s

/-- BYP_N is seen low: driven low, or with no VIO to hold it up. -/
def bypLow (s : State) : Bool := !s.pins.bypN || !s.power.valid[5]

/-- A device-wide cause of Table 2-1 is present. -/
def devCause (s : State) : Bool :=
  !s.power.valid[7] || !s.power.pumpReady || s.boot.inReset || bypLow s || s.dev.aside || s.therm.shutdown ||
    s.boot.testMode || s.dev.standby

/-- A cause of Table 2-1 for the positions of one link is present. -/
def linkCause (s : State) (l : LinkNo) : Bool :=
  let k := getLink s l
  recIs s l (·.mode == .bypass) || k.aside || !(k.join == .joining || k.join == .joined)

/-- A cause of Table 2-1 for one position is present: no link names it, or one that does has a cause. -/
def posCause (s : State) (p : Pos) : Bool :=
  (linksAt s.last.working p).isEmpty || (linksAt s.last.working p).any (linkCause s)

/-- A position's switches are commanded open, and await their confirmation (R41); a position found stuck open is then as
it is commanded (R468). -/
def openPos (s : State) (p : Pos) : State :=
  { s with welt := { s.welt with
    cmdOpen := vput s.welt.cmdOpen p true, mismatch := vput s.welt.mismatch p (s.welt.mismatch[p] && s.welt.closed[p]) } }

/-- Positions with a cause close; positions without one are commanded open (R39 to R41). -/
def settlePos (s : State) (p : Pos) : State :=
  if devCause s || posCause s p then (if s.welt.cmdOpen[p] then closePos s p else s)
  else if s.welt.cmdOpen[p] then s
  else openPos s p

/-- Every position's switches follow its causes. -/
def settleAll (s : State) : State := allPos.foldl settlePos s

/-! ### Spares (R204, R206) -/

/-- The state to which a spare of the link returns; a Bypass link's policy is not acted on (R79), and its spares are COLD. -/
def restCode (s : State) (l : LinkNo) : SpareCode :=
  if recIs s l (fun r => r.sparePol == .cold || r.mode == .bypass) then .cold else .warm

/-- The link's policy keeps its idle spares cold (Table 7-2). -/
def coldPolicy (s : State) (l : LinkNo) : Bool := recIs s l fun r => r.sparePol == .cold && r.mode != .bypass

/-- A spare that a commit has removed leaves once it serves in neither direction (R223): its position closes (R40), and one
that takes its place is loaded (R166). -/
def leaveSpare (s : State) (l : LinkNo) (n : SpareNo) : State :=
  match (getLink s l).spareNext[n], linkRec s l with
  | some next, some r =>
    if bothDirs.any fun d => (getSpare s l n d).code.serves then s
    else
      let r' := if n = 0 then { r with spare0 := next } else { r with spare1 := next }
      let code : SpareCode := if next.isNone then .none else .cold
      let old := s.last.working
      let s := retarget old { s with last := { s.last with working := { old with links := vput old.links l (some r') } } }
      let s := bothDirs.foldl (fun t d => setSpare t l n d (spareAs code 0)) s
      settleAll (modLink s l fun k => { k with spareNext := vput k.spareNext n none })
  | _, _ => s

/-- A Job's scan on the receiver notes that lock was lost (Table 8-3 MFL[0]). -/
def scanLost (s : State) (sd : Side) (p : Pos) : State :=
  modJob s (.lane sd p) fun j => match j.prog with
    | .eye h f n t => { j with prog := .eye h (f ||| 1) n t }
    | _ => j

/-- The receiver clears CDR_LOCK (R131); a Job's scan there notes it. -/
def dropCdr (s : State) (sd : Side) (p : Pos) : State :=
  modLane (if (getLane s sd p).rx.cdrLock then scanLost s sd p else s) sd p (Lane.noClock (scanJobHolds s sd p))

/-- A COLD spare under a cold policy keeps signal detect only (Table 7-2), unless its position is a tap (R228) or a test holds
it. -/
def coolRx (s : State) (l : LinkNo) (n : SpareNo) (d : Dir) : State :=
  match if coldPolicy s l then (linkRec s l).bind fun r => spareRx s.last.working r d n else none with
  | some p => if isTap s p || heldByTest s d.rxSide p then s else dropCdr s d.rxSide p
  | none => s

/-- A spare returns to WARM or COLD. -/
def restSpare (s : State) (l : LinkNo) (n : SpareNo) (d : Dir) : State :=
  leaveSpare (coolRx (setSpare s l n d (spareAs (restCode s l) 0)) l n d) l n

/-- The swap in progress ends with a result. -/
def dropSwap (s : State) (l : LinkNo) (result : BitVec 4) : State :=
  modLink s l fun k => if k.swap.isSome then { k with swap := none, lastResult := result } else k

/-- A test holds a position of the spare on either side: one on which it is received or sent (R243). -/
def spareHeld (s : State) (l : LinkNo) (n : SpareNo) : Bool :=
  match linkRec s l with
  | none => false
  | some r => bothDirs.any fun d =>
      (spareRx s.last.working r d n).any (heldByTest s d.rxSide) || (spareTx s.last.working r d n).any (heldByTest s d.txSide)

/-- Every swap of the link ends, and every named spare that no test holds returns to WARM or COLD (R206). -/
def endSwaps (s : State) (l : LinkNo) : State :=
  let s := dropSwap s l 8
  let s := modLink s l fun k => { k with waitLoss := [] }
  let s := bothSpares.foldl (fun t n => bothDirs.foldl (fun u d =>
    if (getSpare u l n d).code == .none || (spareHeld u l n && !(getSpare u l n d).code.serves) then u
    else restSpare u l n d) t) s
  if standinOn s l then abortRecal s else s

/-- The swap in progress is abandoned at an entry to RETRAIN (R223): before the receive switch the lane stays where it
was, from then on it stays where it is (log entry 7). -/
def abandonSwap (s : State) (l : LinkNo) : State :=
  match (getLink s l).swap with
  | none => s
  | some w =>
    let s := dropSwap s l 8
    let switched := w.step == .move || w.step == .release
    if switched == w.back then restSpare s l w.spare w.dir
    else
      let was := (getSpare s l w.spare w.dir).code
      let code : SpareCode := if was == .standin || w.cause == 2 then .standin else .carrying
      if switched || w.back then setSpare s l w.spare w.dir (spareAs code w.lane) else s

/-! ### Epochs and the switch instant (R110, R118) -/

/-- The link's epoch steps; a marker is due in each direction while markers are sent. -/
def stepEpoch (s : State) (l : LinkNo) : State :=
  let on := markersOn s l
  modLink s l fun k => { k with epoch := k.epoch + 1, markAB := on, markBA := on }

/-- The spares after the link's record has changed: a new one is COLD until it has held lock, one that is no longer
named has no state, one that serves keeps its role and its place in the record (R223). -/
def refreshSpare (old : LastImg) (s : State) (l : LinkNo) (n : SpareNo) : State :=
  let was := (old.links[l]).bind fun r => spareOf r n
  match linkRec s l with
  | none => bothDirs.foldl (fun t d => setSpare t l n d (spareAs .none 0)) s
  | some r =>
    let now := spareOf r n
    if was != now && bothDirs.any fun d => (getSpare s l n d).code.serves then
      let r' := if n = 0 then { r with spare0 := was } else { r with spare1 := was }
      let s := { s with last := { s.last with working := { s.last.working with links := vput s.last.working.links l (some r') } } }
      modLink s l fun k => { k with spareNext := vput k.spareNext n (some now) }
    else bothDirs.foldl (fun t d =>
      let x := getSpare t l n d
      if now.isNone then setSpare t l n d (spareAs .none 0)
      else if was != now || x.code == .none || (coldPolicy t l && (x.code == .warm || x.code == .failed)) then
        coolRx (setSpare t l n d (spareAs .cold 0)) l n d
      else t) s

/-! ### The loop master (R148, R149) -/

/-- The master of a loop-timed link's direction: the record's MASTER lane, or the one to which mastership has moved. -/
def loopMasterOf (s : State) (l : LinkNo) (d : Dir) : LLane :=
  match (match d with | .AB => (getLink s l).masterAB | .BA => (getLink s l).masterBA) with
  | some k => k
  | none => match linkRec s l with
    | some r => r.master
    | none => 0

/-- Where the master of a loop-timed Participating link's direction is received. -/
def masterRx (s : State) (l : LinkNo) (d : Dir) : Option Pos :=
  if isLoopTimed s l && isPart s l then laneRx s l d (loopMasterOf s l d) else none

/-- The master of a direction is no longer received where it was: the loop holds, where the new one has no clock; nothing
holds on the old one. -/
def moveHold (before : Option Pos) (l : LinkNo) (d : Dir) (s : State) : State :=
  match before, masterRx s l d with
  | some p, after =>
    if after = some p then s
    else
      let s := modRx s d.rxSide p fun n => { n with holdover := false }
      match after with
      | some q => modRx s d.rxSide q fun n => { n with holdover := !n.cdrLock }
      | none => s
  | none, _ => s

/-- Masterships that have moved return to the record's MASTER as f acts on the link. -/
def withMasters (s : State) (l : LinkNo) (f : State → State) : State :=
  let ab := masterRx s l .AB
  let ba := masterRx s l .BA
  let s := f (modLink s l fun k => { k with masterAB := none, masterBA := none })
  moveHold ba l .BA (moveHold ab l .AB s)

/-- No lane holds over that is no longer one of a loop-timed link that does (R149). -/
def dropHolds (s : State) (l : LinkNo) (old : LastImg) : State :=
  (linkPoss old l).foldl (fun t p => bothSides.foldl (fun u sd =>
    let holds := match feeds u sd p with
      | some (j, k) => isLoopTimed u j && (isTrans u j || loopMasterOf u j sd.rxDir = k)
      | none => false
    if holds then u else modRx u sd p fun n => { n with holdover := false }) t) s

/-- Link l's settings become those of an image: its switch instant. A spare position that is named anew opens, one that is
no longer named closes (R40, R41). DESIGN CHOICE (log entry 72): a loop mastership that has moved returns to the record's
MASTER here, whatever the class of the change. -/
def takeUp (s : State) (l : LinkNo) (img : LastImg) : State :=
  let old := s.last.working
  let s := withMasters s l fun t => { t with last := { t.last with working := mergeLink old img l } }
  let s := bothSpares.foldl (fun t n => refreshSpare old t l n) (dropHolds s l old)
  settleAll (stepEpoch (relockPlls (retarget old s) old) l)

/-- The link switches to the staged image. -/
def switchLink (s : State) (l : LinkNo) : State :=
  match s.last.staged with
  | some img => takeUp s l img
  | none => s

/-- LASTLINK (R125). -/
def lastLink (s : State) : Word := wordOf (allLinks.map fun l => at_ s.last.outcome[l] (4 * l.val))

/-- The commit is done when every link has a final result (R116). -/
def checkDone (s : State) : State :=
  if committing s && allLinks.all fun l => s.last.outcome[l] != 1 then
    let s := { s with last := { s.last with shadow := .empty, staged := none, bank := [], done := true } }
    logEvent s 0x0201 0 (bytesLE 4 (lastLink s).toNat ++ [if s.last.mixed then 1 else 0])
  else s

/-- A link has its result. -/
def setResult (s : State) (l : LinkNo) (r : BitVec 4) : State :=
  let s := { s with last := { s.last with outcome := vput s.last.outcome l r } }
  checkDone (modLink s l fun k => { k with pend := .none })

abbrev resApplied : BitVec 4 := 2
abbrev resRetrained : BitVec 4 := 3
abbrev resRestarted : BitVec 4 := 4
abbrev resRolledBack : BitVec 4 := 5

/-- A pending switch made at once, result APPLIED (R121). -/
def switchNow (s : State) (l : LinkNo) : State :=
  let p := (getLink s l).pend
  if p == .hitless || p == .retrain then setResult (switchLink s l) l resApplied else s

/-! ### Leaving and entering training states -/

/-- What an entry to RETRAIN or TRAIN.ALIGN keeps of a side's training sets: the runs of requests that go on (R187, R188). -/
def SideTrain.fresh (t : SideTrain) : SideTrain :=
  { Reset.sideTrain with lpbkRun := t.lpbkRun, lpbkLeft := t.lpbkLeft, disRun := t.disRun }

def allReset (s : State) (l : LinkNo) : State :=
  modLink s l fun k => { k with trainA := Reset.sideTrain, trainB := Reset.sideTrain }

/-- LNLOOP of the lanes that PBL LOOPBACK looped is cleared (R247). -/
def endPbl (s : State) (l : LinkNo) : State :=
  (linkPoss s.last.working l).foldl (fun t p => bothSides.foldl (fun u sd =>
    if (getLane u sd p).meas.loopPbl then modMeas u sd p LaneMeas.noLoop else u) t) s

/-- The link is in TRAIN.EQ1 or TRAIN.EQ2. -/
def equalises (st : TrainState) : Bool := st == .eq1 || st == .eq2

/-- Tests held as Free under DISABLED end as the link leaves it (R248). -/
def leaveDisabled (s : State) (l : LinkNo) : State :=
  if (getLink s l).st == .disabled then
    (linkPoss s.last.working l).foldl (fun t p => bothSides.foldl (fun u sd =>
      if (getLane u sd p).meas.testFree && heldByTest u sd p then endTests u sd p else u) t) s
  else s

/-- The preset requests and answers of a link end outside TRAIN.EQ1 and TRAIN.EQ2 (R173); as it leaves one of them a scan that
holds a sampler goes on where a training sweep had taken it (R249). -/
def endSearches (s : State) (l : LinkNo) : State :=
  let eq := equalises (getLink s l).st
  (linkPoss s.last.working l).foldl (fun t p => bothSides.foldl (fun u sd =>
    let scan := scanJobHolds u sd p
    modLane u sd p fun n =>
      { n with
        search := { n.search with running := false, acked := false }
        tx := { n.tx with answer := 0 }
        meas := if eq && (n.meas.scanBusy || scan) then { n.meas with conf := 3 } else n.meas }) t) s

/-- What ends as a link leaves a training state for DETECT or for no training at all: LOOPBACK, DISABLED, swaps,
losses, the DEGRADE cap, negotiations, the sequence state with its responses (R193, R201, R206, R223, R293). DESIGN CHOICE
(log entry 72): so does a loop mastership that has moved. -/
def dropLink (s : State) (l : LinkNo) : State :=
  let s := endSwaps (endSearches (leaveDisabled (endPbl s l) l) l) l
  let s := withMasters s l (fun t => t)
  let s := dropMos s l [mosRdData, mosAck, mosNak, mosSpare, mosRetrainReq]
  modLink (allReset s l) l fun k =>
    { k with
      width := 0, lostAB := 0, lostBA := 0, cap := 0, editAB := none, editBA := none
      grants := Vector.replicate 3 none, waking := none, deepWake := false, retrainAsked := false, idleOut := false
      idleDown := false, exitRetrain := false, partnerDis := false, disA := false, disB := false, lpbkDue := none
      release := none, seqC2 := Reset.seqSt
      seqC3 := Reset.seqSt, rate := 0, rateBad := false, rateOld := false }

/-- LNKCTL.ASIDE stands a link aside (Table 2-5): a pending switch is made at once (R121). -/
def standAside (s : State) (l : LinkNo) : State :=
  let j := (getLink s l).join
  if j == .forced || j == .cfgBypass || j == .aside then s
  else
    let s := dropLink (switchNow s l) l
    settleAll (modLink s l fun k => { k with join := .aside, joinSeen := false, st := .notTraining })

/-- The part sets LNKCTL.ASIDE of a link and logs why: 1 DOWN, 2 FAIL_LIMIT, 3 thermal warning (R80). -/
def partAside (s : State) (l : LinkNo) (why : Byte) : State :=
  settleAll (standAside (logK (modLink s l fun k => { k with aside := true }) 0x040D l [why]) l)

/-- UNRECOVERED ends with the last lost lane of a link in ACTIVE, or of a Transparent link (R203). -/
def checkRecovered (s : State) (l : LinkNo) : State :=
  modLink s l fun k =>
    if k.lostAB = 0 ∧ k.lostBA = 0 ∧ (k.st = .active ∨ (k.join = .joined ∧ isTrans s l)) then
      { k with unrecovered := false }
    else k

/-- The code of a link's rate where its record allows one alone (R87, R174). DESIGN CHOICE (log entry 74): 0 where it allows
more, so that a local-timed Transparent link with several rates and without AUTO has no current rate. -/
def singleRate (s : State) (l : LinkNo) : BitVec 3 :=
  match linkRec s l with
  | none => 0
  | some r =>
    match (List.range 6).filter fun i => r.rates.getLsbD i with
    | [i] => if r.rates.getLsbD 6 then 0 else BitVec.ofNat 3 (i + 1)
    | _ => 0

/-- A link that was to switch on entry to RETRAIN goes to DETECT or to DISABLED instead. DESIGN CHOICE (log entry 73): it
switches at once, with the result APPLIED; Table 4-5 has no row for it. A class H switch waits for its boundary or for the 20 µs
of R109. -/
def switchWaiting (s : State) (l : LinkNo) : State := if (getLink s l).pend == .retrain then switchNow s l else s

/-- Entry to DISABLED (R188). -/
def enterDisabled (s : State) (l : LinkNo) : State :=
  let k := getLink s l
  let s := dropLink (switchWaiting s l) l
  modLink s l fun x => { x with st := .disabled, partnerDis := k.partnerDis, disA := k.disA, disB := k.disB }

/-- Entry to DETECT. From any state but DETECT and ACTIVE it is a failed attempt, with its cause (Table 6-5); a link
that LNKCTL.DISABLE names goes on to DISABLED. -/
def enterDetect (s : State) (l : LinkNo) (cause : BitVec 4) : State :=
  let was := (getLink s l).st
  let failed := was != .detect && was != .active && was != .notTraining
  let s := dropLink (switchWaiting s l) l
  let s := modLink s l fun k =>
    { k with
      st := .detect
      rate := if isLoopTimed s l then singleRate s l else 0
      lastFail := if failed then cause else k.lastFail
      failRun := if failed then satInc k.failRun else k.failRun }
  let w := s.last.working.welt[l]
  if failed && w.asideFail && w.failLimit ≤ (getLink s l).failRun then partAside s l 2
  else if (getLink s l).disable then enterDisabled s l
  else s

/-- Entry to RETRAIN (R185): it is counted, a swap in progress is abandoned, skip decisions return to MASTER, the rate may be
detected again (R174), and a commit that waits for it switches the link (R112, R121). DESIGN CHOICE (log entry 61): WIDTH
keeps the width of the training before until TRAIN.ALIGN. -/
def enterRetrain (s : State) (l : LinkNo) : State :=
  let s := dropMos (abandonSwap (endPbl s l) l) l [mosSpare, mosRetrainReq]
  let s := modLink s l fun k =>
    { k with
      trainA := k.trainA.fresh, trainB := k.trainB.fresh
      st := .retrain, retrains := satInc k.retrains, editAB := none, editBA := none, waitLoss := [], release := none
      grants := Vector.replicate 3 none, waking := none, deepWake := false, retrainAsked := false
      exitRetrain := false, rateBad := false, rateOld := !isLoopTimed s l }
  match (getLink s l).pend with
  | .hitless => setResult (switchLink s l) l resApplied
  | .retrain => modLink (switchLink s l) l fun k => { k with pend := .switched }
  | _ => s

/-- Entry to ACTIVE: FAIL_RUN clears, every trained lane has its lock (Table 6-5; log entry 8), a switched link has its
result (R113). -/
def enterActive (s : State) (l : LinkNo) : State :=
  let s := modLink s l fun k =>
    { k with
      st := .active, failRun := 0, lostAB := 0, lostBA := 0, waking := none, deepWake := false, exitRetrain := false
      idleOut := false }
  let s := checkRecovered s l
  if (getLink s l).pend == .switched then setResult s l resRetrained else s

/-- A retrain request (R186): RETRAIN_REQ to both partners while IMC_ON is 1, else RETRAIN at once with 4 µs of idle. -/
def requestRetrain (s : State) (l : LinkNo) : State :=
  if imcOn (getLink s l) then
    let s := sendOwn (sendOwn s l 0 mosRetrainReq []) l 3 mosRetrainReq []
    modLink s l fun k => { k with retrainAsked := true }
  else modLink (enterRetrain s l) l fun k => { k with idleOut := true }

/-! ### Swaps that the part begins (R209 to R212) -/

/-- The lane identifier's position for a lane's events: its home receiver. -/
def logSwap (s : State) (code : BitVec 16) (l : LinkNo) (w : Swap) (more : List Byte) : State :=
  logLane s code l w.dir w.lane ([BitVec.ofNat 8 w.spare.val, w.id] ++ more)

/-- A SPARE of the swap toward a partner. -/
def sendSpare (s : State) (l : LinkNo) (w : Swap) (op : Byte) (dst : BitVec 2) : State :=
  let q := freshSeq s
  let s := modLink q.2 l fun k => { k with swap := k.swap.map fun x => { x with seq := q.1, sends := 1, asking := true } }
  queueMos s l dst mosSpare q.1
    [op, w.dir.num, BitVec.ofNat 8 w.lane.val, BitVec.ofNat 8 w.spare.val, w.cause, w.id, 0, 0]

/-- The OP of each step: onto a spare, or back home (Table 7-3, R211). -/
def Swap.op (w : Swap) (onto back : Byte) : Byte := if w.back then back else onto

/-- The OP whose answer a swap waits for, and the node that gives it. -/
def Swap.awaits (w : Swap) : Byte × BitVec 2 :=
  match w.step with
  | .dup | .aligning | .ready => (w.op 1 4, w.dir.upNode)
  | .move => (w.op 2 5, w.dir.downNode)
  | .release => (w.op 3 6, w.dir.upNode)

/-- The transmitter that lane k of a swap has left sends an idle-entry set ahead of its warm traffic (R209 step 4, R211). -/
def vacate (s : State) (l : LinkNo) (w : Swap) : State :=
  match (linkRec s l).bind fun r =>
      if w.back then spareTx s.last.working r w.dir w.spare else homeTx s.last.working r w.dir w.lane with
  | some p => modTx s w.dir.txSide p fun x => { x with fillSet := idleEntrySet, fillPos := 0 }
  | none => s

/-- The part begins a swap: of lane k onto spare n, or back home from it (R209 step 1, R211). -/
def beginSwap (s : State) (l : LinkNo) (d : Dir) (k : LLane) (n : SpareNo) (cause : Byte) (back : Bool) : State :=
  let id := Config.swapId s.free
  let s := (useFree s).2
  let w : Swap := { dir := d, lane := k, spare := n, cause := cause, id := id, seq := 0, step := .dup, asking := false, back := back
                    misses := 0, sends := 0, failed := none }
  let s := if back then s else setSpare s l n d (spareAs .aligning k)
  sendSpare (modLink s l fun x => { x with swap := some w }) l w (w.op 1 4) d.upNode

/-- A swap on the link is possible that a good lane is to make (R214). -/
def plannedOk (s : State) (l : LinkNo) : Bool :=
  let k := getLink s l
  k.capLink.getLsbD 0 && k.capLink.getLsbD 6 && k.st == .active && k.swap.isNone && !committing s

/-- The lowest-numbered spare of a direction in a state. -/
def spareIn (s : State) (l : LinkNo) (d : Dir) (c : SpareCode) : Option SpareNo :=
  bothSpares.find? fun n => (getSpare s l n d).code == c

/-! ### Loss policies (R199 to R203) -/

/-- UNRECOVERED detected on a SAFETY link: why is 1 for 50 ms, 2 for a DOWN action. -/
def setUnrecovered (s : State) (l : LinkNo) (why : Byte) : State :=
  if recIs s l (·.safety) && !(getLink s l).unrecovered then
    logK (modLink s l fun k => { k with unrecovered := true }) 0x0C02 l [why]
  else s

/-- The DOWN action (R199): 4 µs of idle on every transmitter, and what follows from it. -/
def lossDown (s : State) (l : LinkNo) : State :=
  let s := modLink s l fun k => { k with idleOut := true, idleDown := true, downTaken := true }
  let s := setUnrecovered (logK s 0x0407 l []) l 2
  if s.last.working.welt[l].asideFail then partAside s l 1 else s

/-- The DEGRADE action (R199, R201). -/
def lossDegrade (s : State) (l : LinkNo) : State :=
  let w := (getLink s l).width
  if !isPart s l then s
  else if w ≤ 1 then lossDown s l
  else requestRetrain (modLink s l fun k => { k with cap := w / 2 }) l

/-- SPARE falls back to DEGRADE (R200). -/
def spareFallback (s : State) (l : LinkNo) (d : Dir) (k : LLane) : State :=
  lossDegrade (logLane s 0x0408 l d k [(getLink s l).lastResult.setWidth 8]) l

def setSwapResult (s : State) (l : LinkNo) (r : BitVec 4) : State := modLink s l fun k => { k with lastResult := r }

/-- A lost-lane swap: by a WARM spare, or after a stand-in has yielded (R217), or not at all. -/
def lossSpare (s : State) (l : LinkNo) (d : Dir) (k : LLane) : State :=
  if !(getLink s l).capLink.getLsbD 0 then spareFallback (setSwapResult s l 3) l d k
  else match spareIn s l d .warm with
    | some n => beginSwap s l d k n 1 false
    | none =>
      match spareIn s l d .standin with
      | some n =>
        let held := (getSpare s l n d).lane
        let s := if standinOn s l then stopRecal s 0x0605 true else s
        beginSwap (modLink s l fun x => { x with waitLoss := x.waitLoss ++ [(d, k, 1)] }) l d held n 2 true
      | none => spareFallback (setSwapResult s l 2) l d k

/-- The RELEASE of a swap that is given up before its receive switch: the part repeats it as any SPARE while it has no answer
(R210, R298). -/
def giveUp (s : State) (l : LinkNo) (w : Swap) : State :=
  let q := freshSeq s
  let m : OutMos := ⟨mosPrio mosSpare, w.dir.upNode, mosSpare, q.1,
    [w.op 6 3, w.dir.num, BitVec.ofNat 8 w.lane.val, BitVec.ofNat 8 w.spare.val, w.cause, w.id, 0, 0], false⟩
  modLink (joinOut q.2 l m) l fun k => { k with release := some (m, 1) }

/-- A planned swap before its receive switch is abandoned (R223). -/
def abandonPlanned (s : State) (l : LinkNo) (w : Swap) : State :=
  let s := giveUp s l w
  let s := dropSwap s l 8
  if w.back then s else restSpare s l w.spare w.dir

/-- The swap has not made its receive switch. -/
def Swap.early (w : Swap) : Bool := w.step == .dup || w.step == .aligning || w.step == .ready

/-- A lane is lost while its own swap is before the receive switch: it goes on as a lost-lane swap, from step 2 (R223). -/
def turnSwap (s : State) (l : LinkNo) (d : Dir) (k : LLane) : State :=
  match (getLink s l).swap with
  | none => s
  | some w =>
    if w.early ∧ w.dir = d ∧ w.lane = k then
      let step : SwapStep := if w.step = .ready then .aligning else w.step
      modLink s l fun x => { x with swap := some { w with cause := 1, step := step, misses := 0 } }
    else s

/-- The SPARE policy beside a swap in progress (R223): the lost lane's own swap serves it, a planned swap of another lane
that is early gives way, any other is waited for. -/
def policySpare (s : State) (l : LinkNo) (d : Dir) (k : LLane) : State :=
  match (getLink s l).swap with
  | none => lossSpare s l d k
  | some w =>
    if w.early ∧ w.dir = d ∧ w.lane = k then s
    else if w.cause != 1 && w.early then lossSpare (abandonPlanned s l w) l d k
    else modLink s l fun x => { x with waitLoss := x.waitLoss ++ [(d, k, 1)] }

/-- The next loss that has waited for a swap to end (R223). -/
def serveWaiting (s : State) (l : LinkNo) : State :=
  match (getLink s l).waitLoss with
  | [] => s
  | (d, k, _) :: r =>
    let s := modLink s l fun x => { x with waitLoss := r }
    if (getLink s l).swap.isNone && isLost s l d k then lossSpare s l d k else s

/-- A swap has failed (R210): before the receive switch the spare is freed; from then on the lane stays on it and the
steps go on; a swap that has failed already says so once. -/
def failSwap (s : State) (l : LinkNo) (w : Swap) (reason : BitVec 4) (lostSpare : Bool) : State :=
  let s := if w.failed.isSome then s else logSwap (setSwapResult s l reason) 0x040B l w [reason.setWidth 8]
  match w.step with
  | .move =>
    let w' := { w with step := .release, failed := some reason }
    sendSpare (vacate (modLink s l fun x => { x with swap := some w' }) l w) l w' (w.op 3 6) w.dir.upNode
  | .release =>
    let code : SpareCode := if w.cause == 2 then .standin else .carrying
    let s := modLink s l fun x => { x with swap := none }
    serveWaiting (if w.back then restSpare s l w.spare w.dir else setSpare s l w.spare w.dir (spareAs code w.lane)) l
  | _ =>
    let s := modLink (giveUp s l w) l fun x => { x with swap := none }
    let s := if w.back then s
      else if lostSpare then leaveSpare (setSpare s l w.spare w.dir (spareAs .failed 0)) l w.spare
      else restSpare s l w.spare w.dir
    let s := match s.cal.recal with
      | some r => if w.cause == 2 && !w.back && r.mode == 1 then
          { s with cal := { s.cal with recal := some { r with mode := 2, stage := .trimming } } } else s
      | none => s
    serveWaiting (if w.cause == 1 && isLost s l w.dir w.lane then spareFallback s l w.dir w.lane else s) l

/-- The policy of a link acts on a lost lane (Table 7-1). -/
def lossPolicy (s : State) (l : LinkNo) (d : Dir) (k : LLane) : State :=
  match linkRec s l with
  | none => s
  | some r => match r.lossPol with
    | .spare => policySpare s l d k
    | .degrade => lossDegrade s l
    | .hold => s
    | .down => lossDown s l

/-- Loss decisions are made in a direction of the link now (R193). -/
def decidesLoss (s : State) (l : LinkNo) (d : Dir) : Bool :=
  let k := getLink s l
  if isTrans s l then k.join == .joined
  else k.st == .active || (k.st == .sleepAB && d == .BA) || (k.st == .sleepBA && d == .AB)

/-- The lane whose fill decides skip edits of a direction (R142, R197); in a loop-timed link the loop master (R149). -/
def editLane (s : State) (l : LinkNo) (d : Dir) : Option LLane :=
  match (match d with | .AB => (getLink s l).editAB | .BA => (getLink s l).editBA) with
  | some k => some k
  | none => (linkRec s l).map fun r => if r.loopTimed then loopMasterOf s l d else r.master

/-- A lost decision lane of a local-timed Participating link yields to the lowest lane that is not lost (R197). -/
def moveEditLane (s : State) (l : LinkNo) (d : Dir) : State :=
  if !isPart s l || isLoopTimed s l then s
  else match editLane s l d with
    | none => s
    | some m =>
      if !isLost s l d m then s
      else match (trainedLanes s l).find? fun k => !isLost s l d k with
        | none => s
        | some k =>
          let s := modLink s l fun x => match d with
            | .AB => { x with editAB := some k }
            | .BA => { x with editBA := some k }
          logLane s 0x0409 l d k []

/-- SYM_LOCK of a lane's present receiver. -/
def laneSym (s : State) (l : LinkNo) (d : Dir) (k : LLane) : Bool :=
  match laneRx s l d k with
  | some p => (getLane s d.rxSide p).rx.symLock
  | none => false

def laneCdr (s : State) (l : LinkNo) (d : Dir) (k : LLane) : Bool :=
  match laneRx s l d k with
  | some p => (getLane s d.rxSide p).rx.cdrLock
  | none => false

/-- Every trained lane of a direction has lost SYM_LOCK (R185). -/
def symGone (s : State) (l : LinkNo) (d : Dir) : Bool :=
  !(trainedLanes s l).isEmpty && (trainedLanes s l).all fun k => !laneSym s l d k

/-- What follows from a loss decision: the policy, or where every trained lane of the direction is lost R185, or a
retrain request where that does not apply (R202). -/
def afterLoss (s : State) (l : LinkNo) (d : Dir) (k : LLane) : State :=
  if allLost s l d && isPart s l then
    if symGone s l d && (getLink s l).st == .active then enterRetrain s l else requestRetrain s l
  else if allLost s l d then s
  else lossPolicy (turnSwap s l d k) l d k

/-- A lane in far-end loopback, and the lane that it displaces, make no loss declarations (R246). -/
def looped (s : State) (l : LinkNo) (d : Dir) (k : LLane) : Bool :=
  match laneRx s l d k with
  | some p => bothSides.any fun sd => (getLane s sd p).meas.loopMode == 3
  | none => false

/-- A loss decision may be made for a lane now (R193). -/
def mayLose (s : State) (l : LinkNo) (d : Dir) (k : LLane) : Bool :=
  decidesLoss s l d && !isLost s l d k && (trainedLanes s l).contains k && !looped s l d k

/-- The positions on which a lane, or the spare n that serves it, passes a capture point of a side. -/
def pointsOf (s : State) (l : LinkNo) (d : Dir) (k : LLane) (n : Option SpareNo) (tx : Bool) : List Pos :=
  match linkRec s l, n with
  | none, _ => []
  | some r, some n => (if tx then spareTx s.last.working r d n else spareRx s.last.working r d n).toList
  | some r, none =>
    if tx then (homeTx s.last.working r d k).toList ++ (laneTx s l d k).toList
    else (homeRx s.last.working r d k).toList ++ (laneRx s l d k).toList

/-- A loss decision triggers the captures that watch the lane in the direction that their point carries (R392). -/
def capLoss (s : State) (l : LinkNo) (d : Dir) (k : LLane) (n : Option SpareNo) : State :=
  bothSides.foldl (fun t sd => capTrigger t sd 2 fun e =>
    if capDir sd e = d then
      lowestWatched e fun i => (pointsOf s l d k n (capTx e)).any fun p => p.val == e.u8 (0x10 + i)
    else none) s

/-- What a loss declaration records: LNKLOSS and LANE_LOST, with its cause (R193): 1 CDR unlock, 2 64 invalid symbols,
3 transmit clock lost. n is the spare that is declared lost, none for a lane. -/
def noteLoss (s : State) (l : LinkNo) (d : Dir) (k : LLane) (n : Option SpareNo) (cause : BitVec 4) : State :=
  let s := capLoss s l d k n
  let s := modLink s l fun x =>
    { x with lostSeen := true, lossCause := cause, lossLane := k, lossDir := d, losses := satInc x.losses }
  logLane s 0x0405 l d k [cause.setWidth 8]

/-- The loss decision for a lane, without what follows from it. A switch that is pending on the link is made first (R121). -/
def markLost (s : State) (l : LinkNo) (d : Dir) (k : LLane) (cause : BitVec 4) : State :=
  let s := match (getLink s l).pend with
    | .hitless => setResult (switchLink s l) l resApplied
    | .retrain => modLink (switchLink s l) l fun x => { x with pend := .switched }
    | _ => s
  let s := noteLoss (setLost s l d k true) l d k none cause
  match laneRx s l d k with
  | some p =>
    let s := modRx s d.rxSide p fun x => { x with lostCause := cause, alignRun := 0 }
    if trimmedInPlace s d.rxSide p then stopRecal s 0x0604 true else s
  | none => s

/-- What follows from the loss decisions made for lanes ks at one instant: with every trained lane of the direction lost no
policy acts for any of them (R202). -/
def afterLosses (s : State) (l : LinkNo) (d : Dir) (ks : List LLane) : State :=
  match ks with
  | [] => s
  | k :: _ =>
    let s := moveEditLane s l d
    if allLost s l d then afterLoss s l d k
    else ks.foldl (fun t j => if decidesLoss t l d && isLost t l d j then afterLoss t l d j else t) s

/-- The loss decision for a lane (R193). -/
def declareLost (s : State) (l : LinkNo) (d : Dir) (k : LLane) (cause : BitVec 4) : State :=
  if mayLose s l d k then afterLosses (markLost s l d k cause) l d [k] else s

/-- A lost lane is restored in place (R198). -/
def restoreLane (s : State) (l : LinkNo) (d : Dir) (k : LLane) : State :=
  checkRecovered (logLane (setLost s l d k false) 0x0406 l d k []) l

/-! ### The rate a receiver shows (R132) -/

/-- The link lets each of its lanes take up a detected rate (R77). -/
def isAuto (s : State) (l : LinkNo) : Bool := recIs s l fun r => r.rates.getLsbD 6

/-- LNSTAT.RATE: what a tap or a lane with AUTO has detected (R132); any other lane or spare of a link shows the rate
that the link has taken up, and until then what its receiver has detected. -/
def shownRate (s : State) (sd : Side) (p : Pos) : BitVec 3 :=
  let seen := (getLane s sd p).rx.rate
  match whoRx s sd p with
  | some (.lane l _) | some (.spare l _) =>
    if isTap s p || isAuto s l || (getLink s l).rate == 0 then seen else (getLink s l).rate
  | none => seen

end Sys2Proof.Machine
end

