-- ==== Sys2Proof/Machine/WeltOps.lean ====
section
/-! DEFINITION. The causes of Table 2-1, the join states of Table 2-5, and what a change of causes does. -/

namespace Sys2Proof.Machine

/-- A device-wide cause sends a link to FORCED; a commit's switch that is pending on it is made, one that has been made
stays (R121). -/
def forceLink (s : State) (l : LinkNo) : State :=
  if (getLink s l).join == .forced then s
  else
    let s := if (getLink s l).pend == .switched then setResult s l resRetrained else switchNow s l
    modLink (dropLink s l) l fun k => { k with join := .forced, joinSeen := false, st := .notTraining }

/-- No signal on any of the link's lanes on either side (R54). -/
def noSignal (s : State) (l : LinkNo) : Bool :=
  match linkRec s l with
  | none => true
  | some r => (lanesOf r).all fun k => bothDirs.all fun d =>
      match homeRx s.last.working r d k with
      | some p => !(getLane s d.rxSide p).rx.sigDet
      | none => true

/-- The start state that JOIN_AT calls for (Table 2-5); with no signal at all WAIT_TRAIN is left at once (R54). -/
def startState (s : State) (l : LinkNo) : State :=
  let go := fun j => modLink s l fun k => { k with join := j, joinSeen := false, st := .notTraining }
  match linkRec s l with
  | none => go .cfgBypass
  | some r =>
    if r.mode == .bypass then go .cfgBypass
    else match r.join with
      | .immediate => go .joining
      | .nextTrain => if noSignal s l then go .joining else go .waitTrain
      | .host => go .waitHost

/-- The state in which a link leaves FORCED, or in which a class D commit restarts it (Table 2-5, R114). -/
def restartLink (s : State) (l : LinkNo) : State :=
  if !recIs s l (·.mode != .bypass) then modLink s l fun k => { k with join := .cfgBypass, joinSeen := false, st := .notTraining }
  else if (getLink s l).aside then modLink s l fun k => { k with join := .aside, joinSeen := false, st := .notTraining }
  else startState s l

/-- A recalibration in stand-in mode does not outlive a device-wide cause (R271). -/
def settle (s : State) : State :=
  let s := if devCause s then allLinks.foldl forceLink s
    else if s.boot.done then
      allLinks.foldl (fun t l => if (getLink t l).join == .forced then restartLink t l else t) s
    else s
  settleAll s

/-- Entry to JOINED: a Participating link begins at DETECT, a Transparent link retimes (Table 2-5). -/
def joinLink (s : State) (l : LinkNo) : State :=
  let s := modLink s l fun k => { k with join := .joined, joinSeen := false }
  if isPart s l then enterDetect s l 0
  else checkRecovered (modLink s l fun k => { k with rate := singleRate s l }) l

/-- A link in JOINING whose positions are all sensed open is JOINED. -/
def joinIfOpen (s : State) (l : LinkNo) : State :=
  if (getLink s l).join == .joining && (linkPoss s.last.working l).all fun p => !s.welt.closed[p] then joinLink s l else s

/-- Both switch pairs of a position are sensed open (R41): its transmitters come on; a detection that held them off has
ended, sensing and command agree (R469). -/
def openConfirmed (s : State) (p : Pos) : State :=
  if !s.welt.cmdOpen[p] then s
  else
    let s := { s with welt := { s.welt with
      closed := vput s.welt.closed p false, mismatch := vput s.welt.mismatch p false, held := vput s.welt.held p false } }
    let s := bothSides.foldl (fun t sd => modTx t sd p fun x => { x with on := true }) s
    (linksAt s.last.working p).foldl joinIfOpen s

/-- The link enters JOINING if it waits in one of the two waiting states (R55, R56). -/
def startJoin (s : State) (l : LinkNo) : State :=
  let j := (getLink s l).join
  if j == .waitTrain || j == .waitHost then
    settle (modLink s l fun k => { k with join := .joining, joinSeen := true })
  else s

/-- The class of a position on a side, for a test (R241). -/
inductive PosClass where
  | tap | free | forceable | inService
  deriving DecidableEq, Repr

/-- A spare is COLD, WARM or FAILED in both directions. -/
def idleSpare (s : State) (l : LinkNo) (n : SpareNo) : Bool :=
  bothDirs.all fun d =>
    let c := (getSpare s l n d).code
    c == .cold || c == .warm || c == .failed

/-- The class that a lane or spare gives its position. -/
def carriedClass (s : State) : Carried → PosClass
  | .spare l n => if idleSpare s l n || (getLink s l).st == .disabled then .free else .inService
  | .lane l _ =>
    if (getLink s l).st == .disabled then .free
    else if isTrans s l && (getLink s l).join == .joined then .forceable
    else .inService

/-- What the receiver and the transmitter of a side's position serve. -/
def servedAt (s : State) (sd : Side) (p : Pos) : List Carried := (whoRx s sd p).toList ++ (whoTx s sd p).toList

def posClass (s : State) (sd : Side) (p : Pos) : PosClass :=
  let cs := (servedAt s sd p).map (carriedClass s)
  if closedAt s p then .tap
  else if cs.isEmpty || cs.contains .inService then .inService
  else if cs.contains .forceable then .forceable
  else .free

/-- A test on the position would hold it as Free under DISABLED, and not as an idle spare (R241, R248). -/
def freeByDisabled (s : State) (sd : Side) (p : Pos) : Bool :=
  posClass s sd p == .free && (servedAt s sd p).any fun c => match c with
    | .spare l n => !idleSpare s l n
    | .lane _ _ => true

end Sys2Proof.Machine
end

