-- ==== Sys2Proof/Machine/QueueOps.lean ====
section
/-! DEFINITION. Queue entries and their checks, completion records and completion queues, batches (12, 13). -/

namespace Sys2Proof.Machine

/-! ### Entries (R346, R367, R368) -/

abbrev opNop : Nat := 0x01
abbrev opFence : Nat := 0x02
abbrev opMove : Nat := 0x10
abbrev opCapture : Nat := 0x20
abbrev opEyescan : Nat := 0x30
abbrev opPrbs : Nat := 0x31
abbrev opNvmRead : Nat := 0x40
abbrev opNvmProgram : Nat := 0x41
abbrev opNvmErase : Nat := 0x42
abbrev opLastStage : Nat := 0x50
abbrev opTelemetry : Nat := 0x60
abbrev opImcSend : Nat := 0x70

def QEntry.opcode (e : QEntry) : Nat := leAt e.bytes 0 1
def QEntry.tag (e : QEntry) : Nat := leAt e.bytes 2 2
def QEntry.flag (e : QEntry) (bit : Nat) : Bool := (leAt e.bytes 0 4).testBit bit
def QEntry.cb (e : QEntry) : Bool := e.flag 12
def QEntry.fence (e : QEntry) : Bool := e.flag 13
def QEntry.irq (e : QEntry) : Bool := e.flag 14

/-- The LEN of each opcode (Table 13-1); none for a value that is no opcode. -/
def opLen (op : Nat) : Option Nat :=
  if op = opNop ∨ op = opFence ∨ op = opNvmErase ∨ op = opLastStage ∨ op = opTelemetry ∨ op = opImcSend then some 1
  else if op = opMove ∨ op = opEyescan ∨ op = opPrbs ∨ op = opNvmRead ∨ op = opNvmProgram then some 2
  else if op = opCapture then some 3
  else none

/-- Bytes from lo up to hi that must be zero. -/
def span (lo hi : Nat) : List (Nat × Nat) := (List.range (hi - lo)).map fun i => (lo + i, 0xFF)

/-- The reserved bits of each opcode's layout: byte offset and mask (R368). -/
def reservedOf (op : Nat) : List (Nat × Nat) :=
  if op = opNop then span 4 16
  else if op = opFence then span 5 16
  else if op = opMove then span 7 8 ++ span 0x0B 0x0C ++ [(0x10, 0xFE)] ++ span 0x11 0x14 ++ span 0x18 0x20
  else if op = opCapture then span 7 8 ++ [(0x0C, 0xF8)] ++ span 0x0E 0x10 ++ [(0x15, 0xF0)] ++ span 0x20 0x30
  else if op = opEyescan then span 0x0A 0x0C ++ span 0x0F 0x20
  else if op = opPrbs then [(5, 0xE0), (6, 0xF0)] ++ span 7 8 ++ [(0x0E, 0xF0)] ++ span 0x0F 0x10 ++ span 0x13 0x14 ++
    span 0x16 0x20
  else if op = opNvmRead then span 0x0F 0x10 ++ [(0x10, 0xFC)] ++ span 0x11 0x14 ++ span 0x18 0x20
  else if op = opNvmProgram then span 0x0F 0x20
  else if op = opNvmErase then span 8 16
  else if op = opLastStage then span 7 8 ++ span 0x0C 0x10
  else if op = opTelemetry then span 7 8 ++ span 9 16
  else if op = opImcSend then span 8 16
  else []

/-- No reserved bit within the slots the entry holds is set. -/
def reservedClear (bytes : List Byte) : Bool :=
  (reservedOf (leAt bytes 0 1)).all fun q => bytes.length ≤ q.1 || leAt bytes q.1 1 &&& q.2 == 0

/-- A range of the virtual space (R368). -/
def inSpace (va n : Nat) : Bool := va + n ≤ 0x1000000

/-- A byte read as a signed number. -/
def signed8 (n : Nat) : Int := if n < 128 then n else (n : Int) - 256

/-- A lane identifier with its reserved bits clear. -/
def laneByteOk (n : Nat) : Bool := (n &&& 0x60) == 0 && (n &&& 0x1F) < 18

def captureRowBytes (n : Nat) : Nat := if n ≤ 1 then 2 else if n = 2 then 4 else 8

/-- The link of the working Last that holds every listed position. -/
def capLink (m : LastImg) (e : QEntry) : Option LinkNo :=
  allLinks.find? fun l => (capPositions e).all fun n => if h : n < 18 then namesPos m l ⟨n, h⟩ else false

/-- The operands of a CAPTURE are legal (Table 13-8). -/
def captureOk (m : LastImg) (e : QEntry) : Bool :=
  let n := e.u8 0x0D
  let rows := e.u32 8 / captureRowBytes n
  let trig := e.u8 0x14
  let tl := e.u8 0x15
  let watched := trig == 1 || trig == 2 || trig == 3
  e.u32 4 % 64 == 0 && e.u32 8 % 64 == 0 && 64 ≤ e.u32 8 && inSpace (e.u32 4 + 0x40) (e.u32 8) && 1 ≤ n && n ≤ 4 &&
    (capPositions e).all (· < 18) && (capPositions e).Nodup && ((List.range 4).drop n).all (fun i => e.u8 (0x10 + i) == 0xFF) &&
    (capLink m e).isSome && trig ≤ 4 && (if watched then tl != 0 && tl < 2 ^ n else tl == 0) &&
    (if trig == 1 then e.u16 0x1A != 0 else e.u16 0x18 == 0 && e.u16 0x1A == 0) && e.u32 0x1C < rows &&
    (trig != 0 || e.u32 0x1C == 0)

/-- The operands of an entry are legal (13): what BAD_OPERAND tests. -/
def operandsOk (m : LastImg) (e : QEntry) : Bool :=
  let op := e.opcode
  opLen op == some (e.bytes.length / 16) &&
    (if op = opFence then e.u8 4 ≤ 1
    else if op = opMove then
      let fill := e.u8 0x10 % 2 == 1
      1 ≤ e.u32 0x0C && inSpace (e.u32 8) (e.u32 0x0C) &&
        (if fill then e.u32 4 == 0 else inSpace (e.u32 4) (e.u32 0x0C) && e.u32 0x14 == 0)
    else if op = opCapture then captureOk m e
    else if op = opEyescan then
      let h := signed8 (e.u8 6)
      let v := signed8 (e.u8 8)
      let hc := e.u8 7
      let vc := e.u8 9
      laneByteOk (e.u8 4) && e.u8 5 ≤ 7 && -32 ≤ h && h ≤ 31 && 1 ≤ hc && hc ≤ 64 && h + hc - 1 ≤ 31 && -64 ≤ v &&
        v ≤ 63 && 1 ≤ vc && vc ≤ 128 && -64 ≤ v - vc + 1 && e.u32 0x0C % 64 == 0 && inSpace (e.u32 0x0C) (32 + 2 * hc * vc)
    else if op = opPrbs then
      let mode := e.u8 5
      let loop := mode / 4 % 4
      laneByteOk (e.u8 4) && mode % 4 != 0 && (if loop = 1 ∨ loop = 2 then mode % 4 == 3 else true) &&
        (if loop = 3 then mode % 4 == 2 else true) && e.u8 6 % 8 ≤ 5 && 1 ≤ e.u32 8 && e.u32 8 ≤ 3600000 &&
        (e.u8 6 % 8 == 5 || e.u32 0x0C == 0) && e.u32 0x10 % 32 == 0 && inSpace (e.u32 0x10) 32
    else if op = opNvmRead then
      let lim := if e.u8 0x10 % 2 == 1 then 0x800 else 0x100000
      e.u32 4 % 16 == 0 && e.u32 4 < lim && 16 ≤ e.u32 8 && e.u32 8 % 16 == 0 && e.u32 4 + e.u32 8 ≤ lim &&
        inSpace (e.u32 0x0C) (e.u32 8) &&
        (if e.u8 0x10 / 2 % 2 == 1 then e.u32 0x14 % 16 == 0 && inSpace (e.u32 0x14) 16 else e.u32 0x14 == 0)
    else if op = opNvmProgram then
      e.u32 4 % 16 == 0 && e.u32 4 < 0x100000 && 16 ≤ e.u32 8 && e.u32 8 ≤ 4096 && e.u32 8 % 16 == 0 &&
        e.u32 4 % 4096 + e.u32 8 ≤ 4096 && inSpace (e.u32 0x0C) (e.u32 8)
    else if op = opNvmErase then e.u16 4 ≤ 255 && 1 ≤ e.u16 6 && e.u16 6 ≤ 16 && e.u16 4 + e.u16 6 ≤ 256
    else if op = opLastStage then
      e.u32 4 % 4 == 0 && 64 ≤ e.u32 8 && e.u32 8 ≤ 65536 && e.u32 8 % 4 == 0 && inSpace (e.u32 4) (e.u32 8)
    else if op = opTelemetry then e.u32 4 % 64 == 0 && inSpace (e.u32 4) 64 && e.u8 8 ≤ 2
    else if op = opImcSend then
      e.u8 4 ≤ 7 && (e.u8 5 == 0 || e.u8 5 == 3) &&
        (if e.u8 6 = 7 then e.u8 7 == 0 else e.u8 6 == 0x0A && 1 ≤ e.u8 7 && e.u8 7 ≤ 3)
    else true)

/-! ### Queues: reads and updates -/

def getWq (s : State) (q : WqNo) : Wq := s.wqs[q]
def modWq (s : State) (q : WqNo) (f : Wq → Wq) : State := { s with wqs := vmod s.wqs q f }
def getCq (s : State) (m : CqNo) : Cq := s.cqs[m]
def modCq (s : State) (m : CqNo) (f : Cq → Cq) : State := { s with cqs := vmod s.cqs m f }

def allWqs : List WqNo := List.finRange 32

/-- The context that owns a work queue. -/
def wqCtx (s : State) (q : WqNo) : Ctx := match (getWq s q).cfg.owner with
  | some t => ctxOfWin t
  | none => 0

def cqCtx (s : State) (m : CqNo) : Ctx := match (getCq s m).owner with
  | some t => ctxOfWin t
  | none => 0

/-- A failed check of the Job path or of a queue structure latched in WINERR (R328, R362). -/
def latchJob (s : State) (c : Ctx) (cause : Cause) (write : Bool) (va : Nat) : State := latchErr s c cause true write va

/-! ### Completion records (R353 to R361) -/

abbrev stOk : Byte := 0x00
abbrev stBatchErr : Byte := 0x01
abbrev stFaulted : Byte := 0x02
abbrev stNoSlot : Byte := 0x03
abbrev stAborted : Byte := 0x04
abbrev stMalformed : Byte := 0x05
abbrev stMalformedDb : Byte := 0x06
abbrev stRingFault : Byte := 0x07
abbrev stHdrFault : Byte := 0x08

/-- A record with PHASE 0, its DTIME that of this moment (Table 12-5). -/
def record (s : State) (q : WqNo) (tag : Nat) (batch irq : Bool) (status : Byte) (count index result : Nat) : List Byte :=
  let qfl := q.val + (if batch then 32 else 0) + (if irq then 64 else 0)
  bytesLE 2 tag ++ [BitVec.ofNat 8 qfl, status] ++ bytesLE 2 count ++ bytesLE 2 index ++ bytesLE 4 result ++
    bytesLE 4 s.time.dtime.toNat

/-- A record that cannot be written: the first is held, later ones are counted (R361). -/
def holdRecord (s : State) (r : DueRec) : State :=
  modWq s r.wq fun w =>
    match w.held with
    | none => { w with blocked := true, held := some r.bytes }
    | some _ => { w with blocked := true, lost := satInc w.lost }

/-- Every queue that names a completion queue is blocked (R361). -/
def blockCq (s : State) (m : CqNo) : State :=
  allWqs.foldl (fun t q => if (getWq t q).cfg.owner.isSome && (getWq t q).cfg.cq == m then
    modWq t q fun w => { w with blocked := true } else t) s

/-- A completion queue enters ERROR: every queue that names it is blocked, what is due is held (R361). -/
def cqError (s : State) (m : CqNo) (err : BitVec 2) (wcause : Cause) : State :=
  let due := (getCq s m).due
  let s := modCq s m fun c => { c with code := .error, err := err, wcause := wcause, due := [] }
  let s := logEvent s 0x0902 0 [BitVec.ofNat 8 m.val, err.setWidth 8, wcause.setWidth 8]
  due.foldl holdRecord (blockCq s m)

def cqSize (c : Cq) : Nat := 2 ^ c.sizeLog2.toNat

/-- A record written to the ring (R358); a write that faults is an error of the queue. True when it is written. -/
def ringWrite (s : State) (m : CqNo) (r : DueRec) : Bool × State :=
  let c := getCq s m
  let va := c.base.toNat * 64 + 16 * (c.tail.toNat % cqSize c)
  match translate s (cqCtx s m) va true with
  | .error cause =>
    (false, cqError (latchJob (modCq s m fun c => { c with due := r :: c.due }) (cqCtx s m) cause true va) m 2 cause)
  | .ok pa =>
    let qfl := r.bytes.getD 2 0 ||| (if c.phase then 0x80 else 0)
    let s := storeWrite s pa (r.bytes.set 2 qfl)
    (true, modCq s m fun c =>
      let t := c.tail + 1
      { c with tail := t, phase := if t.toNat % cqSize c = 0 then !c.phase else c.phase
               irq := c.irq || qfl.getLsbD 6 })

/-- The records that are due written now, oldest first. -/
def flushDue : Nat → State → CqNo → State
  | 0, s, _ => s
  | n + 1, s, m =>
    match (getCq s m).due with
    | [] => s
    | r :: rest =>
      match ringWrite (modCq s m fun c => { c with due := rest }) m r with
      | (true, s) => flushDue n s m
      | (false, s) => s

/-- A record becomes due (R355, R361). -/
def pushDue (s : State) (q : WqNo) (bytes : List Byte) : State :=
  let m := (getWq s q).cfg.cq
  let c := getCq s m
  let r : DueRec := ⟨q, bytes⟩
  if c.code != .active then holdRecord (blockCq s m) r
  else if ((c.tail - c.head).toNat + c.due.length) % 65536 = cqSize c then
    let s := flushDue (c.due.length + 1) s m
    if (getCq s m).code != .active then holdRecord s r else holdRecord (cqError s m 1 0) r
  else modCq s m fun c => { c with due := c.due ++ [r] }

/-! ### Batches and the ends of entries (R351, R355) -/

/-- A consumed entry joins the open batch of its queue, or opens one; the entry with its batch. -/
def joinBatch (w : Wq) (e : QEntry) : QEntry × Wq :=
  match w.batches.reverse with
  | b :: r =>
    if b.cb.isNone then
      let e := { e with batch := b.id }
      (e, { w with batches := r.reverse ++ [{ b with count := b.count + 1, cb := if e.cb then some e else none }] })
    else
      let e := { e with batch := w.nextBatch }
      (e, { w with nextBatch := w.nextBatch + 1
                   batches := w.batches ++ [⟨e.batch, 1, 0, 0, if e.cb then some e else none⟩] })
  | [] =>
    let e := { e with batch := w.nextBatch }
    (e, { w with nextBatch := w.nextBatch + 1, batches := [⟨e.batch, 1, 0, 0, if e.cb then some e else none⟩] })

/-- A batch whose entries have all ended gives its record. -/
def closeBatch (s : State) (q : WqNo) (id : Nat) : State :=
  match (getWq s q).batches.find? (·.id == id) with
  | none => s
  | some b =>
    match b.cb with
    | none => s
    | some e =>
      if b.ended < b.count then s
      else
        let s := modWq s q fun w => { w with batches := w.batches.filter (·.id != id) }
        pushDue s q (record s q e.tag true (e.irq || b.errs != 0) (if b.errs = 0 then stOk else stBatchErr) b.count
          e.idx.toNat b.errs)

/-- An entry ends with a status and a RESULT: its own record where the status is an error, and its batch's. -/
def endEntry (s : State) (q : WqNo) (e : QEntry) (status : Byte) (result : Nat) : State :=
  let err := status != stOk
  let s := if err then pushDue s q (record s q e.tag false true status 1 e.idx.toNat result) else s
  let s := modWq s q fun w => { w with batches := w.batches.map fun b =>
    if b.id == e.batch then { b with ended := b.ended + 1, errs := b.errs + if err then 1 else 0 } else b }
  closeBatch s q e.batch

/-- A queue error's record (R340, R349, R362, R363). -/
def queueErrorRecord (s : State) (q : WqNo) (tag : Nat) (status : Byte) (count result : Nat) : State :=
  pushDue s q (record s q tag false true status count (getWq s q).errIdx.toNat result)

/-- A queue enters ERROR with its cause (Table 12-2). -/
def wqError (s : State) (q : WqNo) (cause : BitVec 4) (idx : BitVec 16) (sub : BitVec 3) : State :=
  modWq s q fun w => { w with code := .error, cause := cause, errIdx := idx, sub := sub, hdrDue := true }

/-- Consumed entries that have not started are discarded, with the batches they belong to; HEAD goes back to the first
of them (Table 12-2). -/
def discardWaiting (w : Wq) : Wq :=
  match w.waiting with
  | [] => w
  | e :: _ =>
    { w with head := e.idx, waiting := [], fenceDue := none
             batches := w.batches.filter fun b => w.waiting.all fun x => x.batch != b.id }

/-- A queue enters DRAINING. -/
def drainWq (s : State) (q : WqNo) : State :=
  modWq s q fun w => { discardWaiting w with code := .draining, hdrDue := true }

end Sys2Proof.Machine
end

