-- ==== Sys2Proof/Machine/JobOps.lean ====
section
/-! DEFINITION. Units, Jobs that finish, park, resume and are pre-empted, and the order in which units are served
(R350 to R352, R369, R396 to R410). -/

namespace Sys2Proof.Machine

/-! ### Units -/

def allMovers : List MoverNo := List.finRange 4
def allSlots : List SlotNo := List.finRange 8

/-- Every unit. -/
def allUnits : List UnitId :=
  allMovers.map .mover ++ [.nvm, .cap .A, .cap .B, .inband] ++ allLanes.map fun q => .lane q.1 q.2

/-- The lane that a lane identifier names. -/
def laneOfByte (n : Nat) : Option (Side × Pos) :=
  if h : n < 18 then some (.A, ⟨n, h⟩)
  else if h : 0x80 ≤ n ∧ n - 0x80 < 18 then some (.B, ⟨n - 0x80, h.2⟩)
  else none

/-- CTXSLOT.LANE and UNIT of a unit (R420). -/
def unitCode : UnitId → Bool × Byte
  | .mover m => (false, BitVec.ofNat 8 m.val)
  | .nvm => (false, 4)
  | .cap .A => (false, 5)
  | .cap .B => (false, 6)
  | .inband => (false, 7)
  | .lane sd p => (true, laneId sd p)

/-- The kind of unit that an entry needs; none for NOP and FENCE (Table 13-1). -/
def QEntry.unitReq (e : QEntry) : Option UnitReq :=
  let op := e.opcode
  if op = opMove ∨ op = opLastStage ∨ op = opTelemetry then some .mover
  else if op = opNvmRead ∨ op = opNvmProgram ∨ op = opNvmErase then some .nvm
  else if op = opCapture then some (.cap (if e.u8 0x0C % 2 = 1 then .B else .A))
  else if op = opEyescan ∨ op = opPrbs then (laneOfByte (e.u8 4)).map fun q => .lane q.1 q.2
  else if op = opImcSend then some .inband
  else none

/-- The unit on which a Job of a kind runs, other than a Mover. -/
def UnitReq.unit : UnitReq → UnitId
  | .mover => .mover 0
  | .nvm => .nvm
  | .cap sd => .cap sd
  | .lane sd p => .lane sd p
  | .inband => .inband

/-- The Job's queue Jobs that are running, finished ones that have not left their unit among them. -/
def unitJobs (s : State) : List Job := allUnits.filterMap (getUnit s) ++ s.units.held.toList

/-- Jobs that hold a Slot. -/
def slotJobs (s : State) : List Job := allSlots.filterMap fun k => if s.slots[k].code == .free then none else s.slots[k].job

/-- Jobs of a queue that have started and not ended. -/
def jobsOf (s : State) (q : WqNo) : List Job := (unitJobs s ++ slotJobs s).filter fun j => j.wq == some q

/-- WQSTAT.INFLIGHT before saturation. -/
def inflight (s : State) (q : WqNo) : Nat := (jobsOf s q).length + if (getWq s q).fence.isSome then 1 else 0

/-- The started entries of a queue that have not ended, by number. -/
def startedOf (s : State) (q : WqNo) : List Nat :=
  (jobsOf s q).map (·.uid) ++ ((getWq s q).fence.map (·.uid)).toList

/-- The queues of one owner. -/
def ownedWith (s : State) (q : WqNo) : List WqNo := allWqs.filter fun r => (getWq s r).cfg.owner == (getWq s q).cfg.owner

/-- Where a FENCE has become next in its queue, it takes the entries of its owner's queues that have started (R372). -/
def noteFence (s : State) (q : WqNo) : State :=
  match (getWq s q).waiting with
  | e :: _ =>
    if e.opcode = opFence ∧ (getWq s q).fenceDue.all (·.1 != e.idx) then
      modWq s q fun w => { w with fenceDue := some (e.idx, (ownedWith s q).flatMap (startedOf s)) }
    else s
  | [] => s

/-! ### Finishing and parking -/

/-- A Job has finished with a status and a RESULT; it leaves its unit at JOB_END. -/
def finishJob (s : State) (u : UnitId) (status : Byte) (result : Nat) : State :=
  modJob s u fun j => { j with result := some (status, BitVec.ofNat 32 result), hold := none }

def freeSlots (s : State) : List SlotNo := allSlots.filter fun k => s.slots[k].code == .free

/-- The fault record of a Job (Table 14-2); the Slot is none for NOSLOT. -/
def faultRecord (s : State) (j : Job) (slot : Option SlotNo) (cause : Cause) (va : Nat) (write save : Bool) : List Byte :=
  let ffl := j.ctx.val + (if write then 4 else 0) + 8 * cause.toNat + (if save then 64 else 0) +
    if slot.isNone then 128 else 0
  let w := va + 0x1000000 * (j.wq.map (·.val)).getD 0 + 0x20000000 * (slot.map (·.val)).getD 0
  bytesLE 2 j.entry.tag ++ [BitVec.ofNat 8 j.entry.opcode, BitVec.ofNat 8 ffl] ++ bytesLE 4 w ++ bytesLE 4 j.done ++
    bytesLE 4 s.time.dtime.toNat

/-- The words of CTXFLT0 to CTXFLT3. -/
def recordWords (r : List Byte) : Vector Word 4 := Vector.ofFn fun k => BitVec.ofNat 32 (leAt r (4 * k.val) 4)

/-- A Job put into a Slot. -/
def takeSlot (s : State) (k : SlotNo) (code : SlotCode) (u : UnitId) (j : Job) (r : List Byte) : State :=
  let c := unitCode u
  { s with
    slots := vput s.slots k ⟨code, some j, recordWords r, c.1, c.2, BitVec.ofNat 4 (min j.resumes 15), s.sched.order⟩
    sched := { s.sched with order := s.sched.order + 1 } }

/-- The Slot is free again; its registers keep their values (R396). -/
def freeSlot (s : State) (k : SlotNo) : State :=
  { s with slots := vmod s.slots k fun x => { x with code := .free, job := none } }

/-- A LAST_STAGE that ends without a check leaves SHADOW EMPTY (R384). -/
def dropStaging (s : State) (j : Job) : State :=
  if j.entry.opcode = opLastStage ∧ s.last.shadow = .staging then
    { s with last := { s.last with shadow := .empty, bank := [] } }
  else s

/-- A faulted Job is parked in a Slot that is given, or in the lowest free one, or ends with FAULT_NOSLOT
(R405, R406, R410). -/
def parkIn (s : State) (slot : Option SlotNo) (u : UnitId) (j : Job) (cause : Cause) (va : Nat) (write save : Bool) : State :=
  let r := faultRecord s j slot cause va write save
  let s := match slot with
    | some k => takeSlot s k .faulted u j r
    | none => dropStaging s j
  let s := latchJob (unlockEntry s j.ctx va) j.ctx cause write va
  let s := match j.wq, slot with
    | some q, some k =>
      let result := k.val + 8 * cause.toNat + (if write then 64 else 0) + (if save then 128 else 0) + 256 * (va / 0x1000)
      pushDue s q (record s q j.entry.tag false true stFaulted 1 j.entry.idx.toNat result)
    | some q, none => endEntry s q j.entry stNoSlot j.done
    | none, _ => s
  logEvent s 0x0901 j.ctx (r.take 12)

/-- The Job of a unit faults: it is parked and releases its unit (R404, R405). -/
def faultJob (s : State) (u : UnitId) (j : Job) (cause : Cause) (va : Nat) (write : Bool) : State :=
  parkIn (setUnit s u none) (freeSlots s).head? u j cause va write false

/-! ### Which Job a unit takes (R350, R352, R403) -/

/-- An entry lies before the error limit of its queue (R350). -/
def beforeLimit (w : Wq) (e : QEntry) : Bool :=
  let lim := if w.cause = 2 then w.tail else w.errIdx
  let d := (lim - e.idx).toNat
  1 ≤ d && d ≤ 2 ^ w.sizeLog2

/-- The entry that a queue may start next on a unit of this kind, or without a unit. -/
def readyEntry (s : State) (q : WqNo) (u : Option UnitReq) : Option QEntry :=
  let w := getWq s q
  match w.waiting with
  | [] => none
  | e :: _ =>
    if !w.blocked && w.fence.isNone && e.unitReq == u && (w.code == .active || (w.code == .error && beforeLimit w e)) &&
        (!(e.fence && e.opcode != opFence) || (jobsOf s q).isEmpty) then some e
    else none

/-- The Slot whose Job entered its state earliest, of the class and the states given, for a unit of this kind. -/
def slotFor (s : State) (u : UnitReq) (urgent : Bool) : Option SlotNo :=
  let ok := fun k : SlotNo =>
    let x := s.slots[k]
    match x.job with
    | none => false
    | some j => j.urgent == urgent && j.entry.unitReq == some u && (x.code == .ready || (!urgent && x.code == .preempted))
  (allSlots.filter ok).foldl (fun b k => match b with
    | none => some k
    | some x => if s.slots[k].order < s.slots[x].order then some k else some x) none

/-- The members of a class's round: its queues, and for NORMAL the Heel after WQ31. -/
def inClass (s : State) (urgent : Bool) (i : Nat) : Bool :=
  if h : i < 32 then (getWq s ⟨i, h⟩).cfg.urgent == urgent else !urgent

/-- Member i is ready for the unit. -/
def memberReady (s : State) (u : UnitReq) (heel : Bool) (i : Nat) : Bool :=
  if h : i < 32 then (readyEntry s ⟨i, h⟩ (some u)).isSome
  else heel && u == .mover && allMovers.all fun m => match getUnit s (.mover m) with
    | some j => j.wq.isSome
    | none => true

def memberWeight (s : State) (i : Nat) : Nat := if h : i < 32 then (getWq s ⟨i, h⟩).cfg.weight else 1
def memberBurst (s : State) (i : Nat) : Nat := if h : i < 32 then (getWq s ⟨i, h⟩).cfg.burst else 1

/-- The members in visiting order from the one after last. -/
def visitOrder (last : Nat) : List Nat := (List.range 33).map fun i => (last + 1 + i) % 33

def creditOf (s : State) (i : Nat) : Nat := s.sched.credit.toList.getD i 0

/-- A new round of a class: every member has its weight as credit. -/
def newRound (s : State) (urgent : Bool) : State :=
  let credit := Vector.ofFn fun i : Fin 33 =>
    if inClass s urgent i.val then memberWeight s i.val else s.sched.credit[i]
  { s with sched := { s.sched with credit := credit } }

/-- The member that the round serves now, with the state of the round after one start (R352). -/
def serveRound (s : State) (u : UnitReq) (urgent heel : Bool) : Option (Nat × State) :=
  let last := if urgent then s.sched.lastUrg else s.sched.lastNor
  let burst := if urgent then s.sched.burstUrg else s.sched.burstNor
  let can := fun t i => inClass t urgent i && memberReady t u heel i && 0 < creditOf t i
  let take := fun (t : State) (i b : Nat) =>
    let credit := Vector.ofFn fun k : Fin 33 => if k.val = i then t.sched.credit[k] - 1 else t.sched.credit[k]
    let sc := { t.sched with credit := credit }
    (i, { t with sched := if urgent then { sc with lastUrg := i, burstUrg := b } else { sc with lastNor := i, burstNor := b } })
  if 0 < burst && can s last then some (take s last (burst - 1))
  else match (visitOrder last).find? (can s) with
    | some i => some (take s i (min (memberBurst s i) (creditOf s i) - 1))
    | none =>
      let t := newRound s urgent
      ((visitOrder last).find? (can t)).map fun i => take t i (min (memberBurst t i) (creditOf t i) - 1)

/-- A member's place in the order of consumption, of its next entry. -/
def memberAge (s : State) (i : Nat) : Nat :=
  if h : i < 32 then ((getWq s ⟨i, h⟩).waiting.head?.map (·.age)).getD 0 else 0

/-- The URGENT member whose entry is oldest, with the round after its start (Table 14-7). DEDUCED (log entry 86): the older of
two Jobs that are due is the one whose entry was consumed first. -/
def oldestUrgent (s : State) (u : UnitReq) : Option (Nat × State) :=
  let due := (List.range 32).filter fun i => inClass s true i && memberReady s u false i
  (due.foldl (fun b i => match b with
    | none => some i
    | some x => if memberAge s i < memberAge s x then some i else some x) none).map fun i =>
      let t := if creditOf s i = 0 then newRound s true else s
      let credit := Vector.ofFn fun k : Fin 33 => if k.val = i then t.sched.credit[k] - 1 else t.sched.credit[k]
      (i, { t with sched := { t.sched with
        credit := credit, lastUrg := i, burstUrg := min (memberBurst t i) (creditOf t i) - 1 } })

/-- What a unit is to run next: a Slot's Job, or a queue's next entry, or the Heel's Job. -/
inductive Candidate where
  | slot (k : SlotNo)
  | member (i : Nat) (s : State)

/-- The candidate of the URGENT steps of R403, and of the NORMAL steps. -/
def urgentCandidate (s : State) (u : UnitReq) : Option Candidate :=
  match slotFor s u true with
  | some k => some (.slot k)
  | none => (serveRound s u true false).map fun r => .member r.1 r.2

def normalCandidate (s : State) (u : UnitReq) (heel : Bool) : Option Candidate :=
  match slotFor s u false with
  | some k => some (.slot k)
  | none => (serveRound s u false heel).map fun r => .member r.1 r.2

/-- A new Job for an entry of a queue; or the Heel's. -/
def newJob (s : State) (q : Option WqNo) (e : QEntry) : Job :=
  { wq := q, ctx := (q.map (wqCtx s)).getD 0, urgent := (q.map fun q => (getWq s q).cfg.urgent).getD false, entry := e
    uid := s.sched.nextUid, done := 0, hold := none, prog := .plain, resumes := 0, sent := false, result := none }

/-- The write grant of a context for a permission bit (R82, R83); C0 has every grant. -/
def writeGrant (s : State) (c : Ctx) (bit : Nat) : Bool :=
  match winCtx c with
  | none => true
  | some t => s.last.working.mgmt.wr[t].getLsbD bit

def readGrant (s : State) (c : Ctx) (bit : Nat) : Bool :=
  match winCtx c with
  | none => true
  | some t => s.last.working.mgmt.rd[t].getLsbD bit || s.last.working.mgmt.wr[t].getLsbD bit

/-- The reason for which an EYESCAN is refused as it starts (R376). -/
def scanRefused (s : State) (sd : Side) (p : Pos) : Option (BitVec 3) :=
  let n := getLane s sd p
  if isTap s p then some 2 else if !n.rx.cdrLock then some 5 else if n.meas.scanBusy then some 3 else none

/-- The header of Table 8-3 as far as it is known when a scan starts, 32 bytes. -/
def mapHeader (s : State) (e : QEntry) (sd : Side) (p : Pos) : List Byte :=
  let n := getLane s sd p
  let eye : Word := wordOf [at_ n.meas.eyeW 0, at_ n.meas.eyeH 7, at_ n.meas.conf 16, bitOn n.meas.alarm 18]
  bytesLE 2 1 ++ [laneId sd p, (shownRate s sd p).setWidth 8] ++ (e.bytes.drop 5).take 5 ++
    [n.eq.ctle.setWidth 8, n.eq.vga.setWidth 8, 0] ++ bytesLE 4 s.time.dtime.toNat ++ zeros 4 ++ bytesLE 4 eye.toNat ++ zeros 8

/-- What happens as a Job starts for the first time: the checks of LAST_STAGE (R384) and EYESCAN (R376). -/
def startChecks (s : State) (u : UnitId) (j : Job) : State :=
  if j.entry.opcode = opLastStage then
    if !writeGrant s j.ctx 2 then finishJob s u 0x40 0
    else if s.last.shadow = .staging ∨ s.last.shadow = .committing then finishJob s u 0x41 0
    else { s with last := { s.last with shadow := .staging, staged := none, bank := [] } }
  else if j.entry.opcode = opEyescan then
    match u with
    | .lane sd p =>
      match scanRefused s sd p with
      | some r => finishJob s u 0x50 r.toNat
      | none =>
        let head := mapHeader s j.entry sd p
        modMeas (modJob s u fun j => { j with prog := .eye head 0 [] s.time.dtime }) sd p fun m => { m with conf := 3 }
    | _ => s
  else s

/-- The next entry of a queue starts on a unit. -/
def startEntry (s : State) (u : UnitId) (q : WqNo) : State :=
  match (getWq s q).waiting with
  | [] => s
  | e :: r =>
    let j := newJob s (some q) e
    let s := modWq s q fun w => { w with waiting := r }
    startChecks (noteFence (setUnit { s with sched := { s.sched with nextUid := s.sched.nextUid + 1 } } u (some j)) q) u j

/-- A Slot's Job takes its unit; an EYESCAN takes its sampler again (Table 14-3), but for one on a tap (Table 8-4). -/
def resumeSlot (s : State) (u : UnitId) (k : SlotNo) : State :=
  match s.slots[k].job with
  | none => s
  | some j =>
    let j := if s.slots[k].code == .ready then { j with resumes := j.resumes + 1 } else j
    let s := setUnit (freeSlot s k) u (some j)
    match u with
    | .lane sd p => if j.entry.opcode = opEyescan ∧ !isTap s p then modMeas s sd p fun m => { m with conf := 3 } else s
    | _ => s

/-- A unit takes a candidate. -/
def runCandidate (s : State) (u : UnitId) : Candidate → State
  | .slot k => resumeSlot s u k
  | .member i t =>
    if h : i < 32 then startEntry t u ⟨i, h⟩
    else setUnit { t with sched := { t.sched with nextUid := t.sched.nextUid + 1 } } u
      (some (newJob t none ⟨0, [], false, 0, 0⟩))

/-! ### Pre-emption (R398 to R401) -/

/-- The victim's Job may be pre-empted: the Heel's always, MOVE and LAST_STAGE with more than 256 bytes left. -/
def mayPreempt (j : Job) : Bool :=
  match j.wq with
  | none => true
  | some _ =>
    let op := j.entry.opcode
    let total := if op = opMove then j.entry.u32 0x0C else j.entry.u32 8
    !j.urgent && j.result.isNone && (op = opMove || op = opLastStage) && j.done + 256 < total

/-- The Mover whose Job an URGENT Job takes (R399). -/
def victim (s : State) : Option MoverNo :=
  match allMovers.find? fun m => match getUnit s (.mover m) with
      | some j => j.wq.isNone
      | none => false with
  | some m => some m
  | none => allMovers.find? fun m => match getUnit s (.mover m) with
      | some j => mayPreempt j
      | none => false

/-- CTXSTAT.PRE_WAIT: an URGENT Job waits for a second FREE Slot (R399). -/
def preWait (s : State) : Bool :=
  (urgentCandidate s .mover).isSome && allMovers.all (fun m => (getUnit s (.mover m)).isSome) &&
    (match victim s with
      | some m => (getUnit s (.mover m)).any (fun j => j.wq.isSome)
      | none => false) && (freeSlots s).length < 2

/-- The free Mover of the lowest number. -/
def freeMover (s : State) : Option MoverNo := allMovers.find? fun m => (getUnit s (.mover m)).isNone

/-! ### Ends of Jobs (R351) -/

/-- A finished Job leaves its unit, and its entry ends. -/
def retireJob (s : State) (u : UnitId) (j : Job) : State :=
  let s := setUnit s u none
  match j.wq, j.result with
  | some q, some (st, r) => endEntry s q j.entry st r.toNat
  | _, _ => s

end Sys2Proof.Machine
end

