-- ==== Sys2Proof/Machine/CaptureOps.lean ====
section
/-! DEFINITION. The capture engines (R389 to R393): symbol words, rows, and the header. -/

namespace Sys2Proof.Machine

def capUnit (sd : Side) : UnitId := .cap sd

/-- The rows of the buffer of a CAPTURE. -/
def capRows (e : QEntry) : Nat := e.u32 8 / captureRowBytes (e.u8 0x0D)

/-- A symbol word (Table 13-9) of a group that spells y; raw is FMT. -/
def symbolWord (raw : Bool) (g : BitVec 10) (y : Option Sym) (invalid disp sub fill : Bool) : BitVec 16 :=
  let low : BitVec 16 := if raw then (g.reverse).setWidth 16
    else match y with
      | some y => if invalid then 0 else y.b.setWidth 16 ||| (if y.k then 0x100 else 0)
      | none => 0
  low ||| (if invalid then 0x400 else 0) ||| (if disp then 0x800 else 0) ||| (if sub then 0x1000 else 0) |||
    (if fill then 0x2000 else 0)

/-- The word of no symbol. -/
def eiWord : BitVec 16 := 0x8000

/-- RATE of a capture (Table 13-10), as LNSTAT.RATE of its first listed lane: at the TX point, of the receiver that the lane
comes from. DESIGN CHOICE (log entry 93): the first listed lane paces the rows, and stands for all. -/
def capRate (s : State) (e : QEntry) (link : LinkNo) : BitVec 3 :=
  let sd : Side := if e.u8 0x0C % 2 = 0 then .A else .B
  let gone := (getLink s link).rate
  match allPos.find? fun p => p.val == e.u8 0x10 with
  | none => gone
  | some p =>
    if !namesPos s.last.working link p then gone
    else if !capTx e then shownRate s sd p
    else
      let d := sd.rxDir.other
      match (match whoTx s sd p with
        | some (.lane l k) => laneRx s l d k
        | some (.spare l n) => (linkRec s l).bind fun r => spareRx s.last.working r d n
        | none => none) with
      | some q => shownRate s sd.other q
      | none => gone

/-- The header of a capture that ends (Table 13-10); flags are the CFL bits above WRAPPED. -/
def capHeader (s : State) (e : QEntry) (link : LinkNo) (arm : BitVec 64) (rows : Nat)
    (trig : Option (Nat × Byte × BitVec 64)) (flags : Nat) : List Byte :=
  let cap := capRows e
  let cfl := (if trig.isSome then 1 else 0) + (if cap < rows then 2 else 0) + flags
  bytesLE 2 1 ++ [e.bytes.getD 0x0C 0, e.bytes.getD 0x0D 0] ++ bytesAt e.bytes 0x10 4 ++
    [BitVec.ofNat 8 link.val, (capRate s e link).setWidth 8, BitVec.ofNat 8 cfl, e.bytes.getD 0x14 0] ++
    bytesLE 4 cap ++ bytesLE 4 (min rows cap) ++ bytesLE 4 (if cap < rows then rows % cap else 0) ++
    bytesLE 4 (match trig with | some t => t.1 % cap | none => 0xFFFFFFFF) ++
    (match trig with | some t => t.2.1 | none => (0xFF : Byte)) :: zeros 3 ++
    bytesLE 8 (match trig with | some t => t.2.2.toNat | none => 0) ++ bytesLE 8 arm.toNat ++ bytesLE 8 rows ++ zeros 8

/-- The rows after which a triggered capture stops: the trigger row's number with the rows that follow it (R392). -/
def capLimit (e : QEntry) (row : Nat) : Nat := row + 1 + if e.u8 0x14 = 0 then capRows e - 1 else e.u32 0x1C

/-- The capture has written its last row. -/
def capFull (e : QEntry) (rows : Nat) : Option (Nat × Byte × BitVec 64) → Bool
  | some t => capLimit e t.1 ≤ rows
  | none => false

/-- The Job of an engine ends with a status, its header written if the header's page still translates. True when it
was written. -/
def endCapture (s : State) (sd : Side) (j : Job) (status : Byte) (result flags : Nat) : Bool × State :=
  match j.prog with
  | .cap link arm rows _ trig _ =>
    let va := j.entry.u32 4
    match writeBlocked s j.ctx va 64 with
    | some _ => (false, finishJob s (capUnit sd) status result)
    | none =>
      let (_, _, s) := jobWrite s j.ctx va (capHeader s j.entry link arm rows trig flags)
      (true, finishJob s (capUnit sd) status result)
  | _ => (false, s)

/-- A later block has lost its page (R393): the fault is latched, LOCK cleared and the fault logged as one that takes no
Slot (R322, R328, R397; DEDUCED, log entry 78); the engine stops, RESULT names the page and whether a header exists: a header
page that is lost too is a further failed check (R329). -/
def lostPage (s : State) (sd : Side) (j : Job) (cause : Cause) (va : Nat) : State :=
  let r := faultRecord s j none cause va true false
  let s := latchJob (unlockEntry s j.ctx va) j.ctx cause true va
  let s := logEvent s 0x0901 j.ctx (r.take 12)
  let r := endCapture s sd j 0x59 (va / 0x1000 * 0x1000) 8
  if r.1 then r.2
  else
    let s := match if va = j.entry.u32 4 then none else writeBlocked s j.ctx (j.entry.u32 4) 64 with
      | some (cause, head) => latchJob r.2 j.ctx cause true head
      | none => r.2
    finishJob s (capUnit sd) 0x59 (va / 0x1000 * 0x1000 + 1)

/-- The rows of the block in hand written, under one translation (R324): the Job as it goes on, or the fault, with the rows
counted that stand in the Store. -/
def capFlush (s : State) (j : Job) : Option (Cause × Nat) × Job × State :=
  match j.prog with
  | .cap link arm rows now trig buf =>
    if buf.isEmpty then (none, j, s)
    else
      let rb := captureRowBytes (j.entry.u8 0x0D)
      let first := rows - buf.length / rb
      match jobWrite s j.ctx (j.entry.u32 4 + 0x40 + first % capRows j.entry * rb) buf with
      | (some f, w, s) => (some f, { j with prog := .cap link arm (first + w / rb) now trig [] }, s)
      | (none, _, s) =>
        (none, { j with prog := .cap link arm rows now trig [], done := min rows (capRows j.entry) * rb }, s)
  | _ => (none, j, s)

/-- The block in hand is whole: it ends at a multiple of 256 bytes of the buffer or with it, or the last row is recorded. -/
def capWhole (e : QEntry) (rows : Nat) (trig : Option (Nat × Byte × BitVec 64)) : Bool :=
  rows % capRows e * captureRowBytes (e.u8 0x0D) % 256 == 0 || capFull e rows trig

/-- The condition of MATCH or of ERROR is met by the words of a row: the lowest watched lane that meets it (R392). -/
def wordTrigger (e : QEntry) (now : Vector (BitVec 16) 4) : Option Byte :=
  let w := fun i : Nat => now.toList.getD i 0
  if e.u8 0x14 = 1 then lowestWatched e fun i => w i &&& BitVec.ofNat 16 (e.u16 0x1A) == BitVec.ofNat 16 (e.u16 0x18)
  else if e.u8 0x14 = 3 then lowestWatched e fun i => w i &&& 0xC00 != 0
  else none

/-- The trigger of a capture at the row that it writes: the first one met (R392). -/
def rowTrigger (s : State) (e : QEntry) (now : Vector (BitVec 16) 4) (rows : Nat) (trig : Option (Nat × Byte × BitVec 64)) :
    Option (Nat × Byte × BitVec 64) :=
  trig.or ((wordTrigger e now).map fun i => (rows, i, s.time.dtime))

/-- One row recorded (R391); a block that it completes is written. -/
def capRow (s : State) (sd : Side) (j : Job) : State :=
  match j.prog with
  | .cap link arm rows now trig buf =>
    if capFull j.entry rows trig || j.result.isSome then s
    else
      let n := j.entry.u8 0x0D
      let rb := captureRowBytes n
      let trig := rowTrigger s j.entry now rows trig
      let mark : BitVec 16 := match trig with
        | some t => if t.1 = rows then 0x4000 else 0
        | none => 0
      let words := (List.range (rb / 2)).flatMap fun i => bytesLE 2 (if i < n then (now.toList.getD i 0 ||| mark).toNat else 0)
      let j := { j with prog := .cap link arm (rows + 1) now trig (buf ++ words) }
      if !capWhole j.entry (rows + 1) trig then setUnit s (capUnit sd) (some j)
      else match capFlush s j with
        | (some (cause, va), j, s) => lostPage (setUnit s (capUnit sd) (some j)) sd j cause va
        | (none, j, s) => setUnit s (capUnit sd) (some j)
  | _ => s

/-- A symbol passes a capture point: the engines that watch it take its word, and the first listed lane paces the rows. A lane
that a commit has taken from the link carries EI (R395). -/
def capFeed (s : State) (sd : Side) (tx : Bool) (p : Pos) (word : Bool → BitVec 16) : State :=
  match getUnit s (capUnit sd) with
  | none => s
  | some j =>
    if capTx j.entry != tx then s
    else match j.prog, (capPositions j.entry).findIdx? (· == p.val) with
      | .cap link arm rows now trig buf, some i =>
        let w := if namesPos s.last.working link p then word (j.entry.u8 0x0C / 4 % 2 == 1) else eiWord
        let now := if h : i < 4 then vput now ⟨i, h⟩ w else now
        let j := { j with prog := .cap link arm rows now trig buf }
        let s := setUnit s (capUnit sd) (some j)
        if i = 0 then capRow s sd j else s
      | _, _ => s

end Sys2Proof.Machine
end

