-- ==== Sys2Proof/Machine/LaneOps.lean ====
section
/-! DEFINITION. The lane datapath (05): clocks, classification, counting, elastic buffer, substitution, fill, and what
happens as a lane loses or regains its lock. -/

namespace Sys2Proof.Machine

/-! ### Rates and PLLs (R147, R174) -/

/-- The rate bit of RATES for a code of LNSTAT.RATE. -/
def rateBit (c : BitVec 3) : Nat := c.toNat - 1

/-- A rate code is among those a record allows; AUTO with no rate bit allows all six (R77). -/
def rateAllowed (r : LinkRec) (c : BitVec 3) : Bool :=
  c != 0 && c != 7 && (r.rates.getLsbD (rateBit c) || (r.rates.getLsbD 6 && r.rates.extractLsb' 0 6 == 0))

def rateCode : Rate → BitVec 3
  | .r2p5 => 1
  | .r5 => 2
  | .r10 => 3
  | .r12p5 => 4
  | .r16 => 5
  | .r20 => 6

/-- The PLLs of a side that a record names, lower number first: 0, 1 on side A and 2, 3 on side B. -/
def sidePlls (r : LinkRec) : Side → List (Fin 4)
  | .A => (if r.pllA.getLsbD 0 then [0] else []) ++ if r.pllA.getLsbD 1 then [1] else []
  | .B => (if r.pllB.getLsbD 0 then [2] else []) ++ if r.pllB.getLsbD 1 then [3] else []

/-- The PLL that clocks a local-timed link's transmitters on a side at a rate (R147). -/
def clockPll (m : LastImg) (r : LinkRec) (sd : Side) (c : BitVec 3) : Option (Fin 4) :=
  (sidePlls r sd).find? fun i => c != 0 && (famRates m.pllfam[i]).getLsbD (rateBit c)

/-- The link can run at a rate (R174). -/
def rateServed (m : LastImg) (r : LinkRec) (c : BitVec 3) : Bool :=
  rateAllowed r c && (r.loopTimed || bothSides.all fun sd => (clockPll m r sd c).isSome)

/-! ### Which lanes carry what -/

/-- Decode checking is on (R136): OPTIONS[0] is acted on in a Transparent link alone (R79). -/
def decodeOn (s : State) (l : LinkNo) : Bool := isPart s l || (isTrans s l && recIs s l (·.decode))

/-- Comma alignment is on for a receiver (R134, R232): while no test holds the position on that side. A tap always
aligns (R228). -/
def commaOn (s : State) (sd : Side) (p : Pos) : Bool :=
  if isTap s p then true
  else match rxLink s sd p with
    | none => false
    | some l => recIs s l (·.comma) && !heldByTest s sd p

/-- LNSTAT.SYM_LOCK: with comma alignment off it reads 0 (R135). -/
def symShown (s : State) (sd : Side) (p : Pos) : Bool := (getLane s sd p).rx.symLock && commaOn s sd p

/-- The receiver may work: the part is powered, and its island too. -/
def rxPowered (s : State) (sd : Side) (p : Pos) : Bool := !s.boot.inReset && !islandOff s (.lane sd p)

/-- A side PLL is powered down (Table 7-6): links in DEEP use it, and no other JOINED link does. -/
def pllDown (s : State) (q : SidePll) : Bool :=
  let uses := allLinks.filter fun l =>
    (getLink s l).join == .joined && (linkRec s l).any fun r =>
      !r.loopTimed && clockPll s.last.working r (if q.val < 2 then .A else .B) (getLink s l).rate == some q
  !uses.isEmpty && uses.all fun l => (getLink s l).st == .deep && (getLink s l).waking.isNone

/-- Signal detect works: also in boot phase 0x3 and while the part powers up on its way out of Standby, where the links have yet
to choose their start states (R54, R60). DEDUCED (log entry 83): the receivers that calibration has powered detect signal before
their registers can be reached (R51). -/
def detectsSignal (s : State) (sd : Side) (p : Pos) : Bool :=
  rxPowered s sd p ||
    (!s.boot.inReset && poweredAt s.last.working sd p && (s.boot.phase == 3 || (s.dev.waking && 4 ≤ s.boot.phase.toNat)))

/-- The transmitters of a direction forward what its receivers take in. -/
def dirForwards (s : State) (l : LinkNo) (d : Dir) : Bool :=
  let k := getLink s l
  k.join == .joined && !k.idleOut &&
    (isTrans s l ||
      match k.st with
      | .align | .eq1 | .eq2 | .lock | .exchange | .active | .retrain => true
      | .sleepAB => d == .BA || k.waking == some .A
      | .sleepBA => d == .AB || k.waking == some .B
      | .deep => k.waking.isSome
      | _ => false)

/-- The positions on which a lane's symbols are sent: home, the spare that has taken it, or both from the receive switch
of a swap to the downstream partner's answer (R209, R211). -/
def laneTxs (s : State) (l : LinkNo) (d : Dir) (k : LLane) : List Pos :=
  match linkRec s l with
  | none => []
  | some r =>
    let home := (homeTx s.last.working r d k).toList
    let spare := fun n => (spareTx s.last.working r d n).toList
    match (getLink s l).swap with
    | some w =>
      if w.dir = d ∧ w.lane = k then
        match w.step with
        | .move => home ++ spare w.spare
        | .release => if w.back then home else spare w.spare
        | _ => if w.back then spare w.spare else home
      else (laneTx s l d k).toList
    | none => (laneTx s l d k).toList

/-- The transmitters that take the symbols of a receiver's buffer. -/
def rxDests (s : State) (sd : Side) (p : Pos) : List Pos :=
  match whoRx s sd p with
  | some (.spare l n) =>
    if (getSpare s l n sd.rxDir).code == .forward then
      ((linkRec s l).bind fun r => spareTx s.last.working r sd.rxDir n).toList
    else match feeds s sd p with
      | some (l, k) => laneTxs s l sd.rxDir k
      | none => []
  | some (.lane l k) => if (feeds s sd p).isSome then laneTxs s l sd.rxDir k else []
  | none => []

/-- A JTAG instruction takes the lane TX pins from the datapath: EXTEST, EXTEST_PULSE, EXTEST_TRAIN, CLAMP, HIGHZ (R301). -/
def jtagTakes (s : State) : Bool := [0x00, 0x03, 0x04, 0x05, 0x06].contains s.jtag.ir.toNat

/-- A transmitter is on, and its pins are not the boundary cells'. -/
def txUsable (s : State) (sd : Side) (p : Pos) : Bool := (getLane s sd p).tx.on && !jtagTakes s

/-- A loopback takes the lane's symbols from the balls: near-end serial and far-end (Table 8-6). -/
def LaneMeas.loops (m : LaneMeas) : Bool := m.loopMode == 1 || m.loopMode == 3

/-! ### Elastic buffer (R141 to R144) -/

def fillOf (n : LaneRx) : Nat := n.buf.length

/-- A symbol enters; a full buffer takes no more. -/
def ebPush (n : LaneRx) (x : Option EbEntry) : LaneRx := if 31 ≤ n.buf.length then n else { n with buf := n.buf ++ [x] }

/-- n symbols dropped at the read end, and K30.7 due in place of the next 8 that are read. -/
def ebDrop (k : Nat) (n : LaneRx) : LaneRx := { n with buf := n.buf.drop k, owed := 8 }

/-- n K30.7 inserted at the read end. -/
def ebInsert (k : Nat) (n : LaneRx) : LaneRx := { n with buf := List.replicate k none ++ n.buf }

/-- The lanes and spares in service of a direction, as receivers, each once. -/
def dirReceivers (s : State) (l : LinkNo) (d : Dir) : List Pos :=
  match linkRec s l with
  | none => []
  | some r =>
    (trainedLanes s l).filterMap (laneRx s l d) ++ bothSpares.filterMap fun n =>
      let x := getSpare s l n d
      if (x.code == .forward || x.code == .aligning) && takenFrom s l d x.lane != some n then
        spareRx s.last.working r d n
      else none

/-- The receivers that share the decisions of the one on position p: all of the direction in a Participating link, p
alone otherwise (R142); none for a receiver that makes no decision. -/
def sharers (s : State) (sd : Side) (p : Pos) : List Pos :=
  match feeds s sd p with
  | none => [p]
  | some (l, k) =>
    if !isPart s l then [p]
    else if editLane s l sd.rxDir = some k then dirReceivers s l sd.rxDir else []

/-- Each receiver of a list changed by f. -/
def modRxs (s : State) (sd : Side) (ps : List Pos) (f : LaneRx → LaneRx) : State := ps.foldl (fun t p => modRx t sd p f) s

/-- The next symbol to be read lies within a set that the part sends in another's place (R164). -/
def midSet (n : LaneRx) : Bool :=
  match n.buf with
  | some e :: _ => e.put.isSome && e.place.any fun i => i.val != 0
  | _ => false

/-- The part of a set in a buffer: nothing is edited there, or the last K28.0 that has entered goes, or another follows it
(R141). True where there was one to edit. -/
def editBuffered (add : Bool) (n : LaneRx) : Bool × LaneRx :=
  let skp := fun x : Option EbEntry => x.any fun e => !e.invalid && (e.g == encodeSym symSkp true || e.g == encodeSym symSkp false)
  match n.buf.reverse.findIdx? skp with
  | none => (false, n)
  | some i =>
    let k := n.buf.length - i
    let more : List (Option EbEntry) := if add then (n.buf.getD (k - 1) none).toList.map fun e => some { e with added := true } else []
    (true, { n with buf := n.buf.take (if add then k else k - 1) ++ more ++ n.buf.drop k })

/-- A recentre of receivers by the fill of the deciding one (R144): the fill comes to 16; at a limit with the flag and the
event. -/
def recentreNow (s : State) (sd : Side) (ps : List Pos) (fill : Nat) (flag : Bool) : State :=
  if fill = 16 then modRxs s sd ps fun n => { n with recentre := none }
  else
    let above := decide (16 < fill)
    let s := modRxs s sd ps fun n =>
      let n := if above then ebDrop (fill - 16) n else ebInsert (16 - fill) n
      { n with
        edit := none, recentre := none, ebOvf := n.ebOvf || (flag && above), ebUnf := n.ebUnf || (flag && !above) }
    if flag then ps.foldl (fun t q => logL t (if above then 0x0301 else 0x0302) sd q []) s else s

/-- A recentre that is due by the deciding receiver on position p: its fill has reached a limit, or one waits. Within a
substituted set it waits for the end of the set (R164). -/
def ebLimits (s : State) (sd : Side) (p : Pos) : State :=
  let ps := sharers s sd p
  let n := (getLane s sd p).rx
  if ps.isEmpty then s
  else match if 25 ≤ fillOf n || fillOf n ≤ 7 then some true else n.recentre with
    | none => s
    | some flag =>
      if ps.any fun q => midSet (getLane s sd q).rx then modRx s sd p fun n => { n with recentre := some flag }
      else recentreNow s sd ps (fillOf n) flag

/-- The receiver whose fill decides for the one on position p (R142). -/
def decider (s : State) (sd : Side) (p : Pos) : Pos :=
  match feeds s sd p with
  | some (l, _) =>
    if isPart s l then ((editLane s l sd.rxDir).bind (laneRx s l sd.rxDir)).getD p else p
  | none => p

/-- LNCTL.RECENTRE: the fill brought to 16, on whichever side of it it lies, without a flag; on any lane of a Participating
link it is the aligner's, by the deciding lane (R142). DESIGN CHOICE (log entry 60): it logs no event either. -/
def recentre (s : State) (sd : Side) (p : Pos) : State :=
  let q := decider s sd p
  ebLimits (modRx s sd q fun n => { n with recentre := some (n.recentre.getD false) }) sd q

/-! ### Substitution (R137, R139, R194) -/

/-- A link has an open frame in a direction. -/
def frameOpen (k : Link) : Dir → Bool
  | .AB => k.frameAB
  | .BA => k.frameBA

/-- A MOS as it is sent: positions 2 to 12, then CRC_LO and CRC_HI (Table 10-3). -/
def mosSet (m : Mos) : List Sym := orderedSet (k28 1) (m.pos.toList ++ bytesLE 2 m.crc.toNat)

/-- An epoch marker (Table 6-4). -/
def markerSet (node : BitVec 2) (epoch : BitVec 16) (link : LinkNo) : List Sym :=
  orderedSet symMarker (node.setWidth 8 :: bytesLE 2 epoch.toNat ++ [BitVec.ofNat 8 link.val])

/-- The symbols of a lane-fault set (Table 6-4), with the neutral balance symbol: what is received is not known. -/
def faultSet (node : BitVec 2) (k : LLane) (cause : BitVec 4) : List Sym :=
  orderedSet symFault [node.setWidth 8, BitVec.ofNat 8 k.val, cause.setWidth 8]

/-- What the part puts in the places of the set whose COM enters a receiver's buffer next: a whole set of its own, or
the positions that it rewrites (R138, R170). DESIGN CHOICE (log entry 58): the command that tells of a set comes before its
code groups. -/
def planSet (s : State) (sd : Side) (p : Pos) (l : List (Option Sym)) : State := modRx s sd p fun n => { n with plan := l }

/-- The place in the planned set of a group that enters: a planned set begins at a COM. -/
def planPlace (n : LaneRx) (y : Option Sym) : Option (Fin 16) :=
  let left := n.plan.length
  if left = 0 ∨ (16 ≤ left ∧ y ≠ some symCom) then none else some (Fin.ofNat 16 (16 - left))

/-- One symbol put on the balls of a transmitter, and seen at the TX capture point. The output running disparity follows
the column of what is sent (R139). -/
def putSymbol (s : State) (sd : Side) (p : Pos) (g : BitVec 10) (sub fill : Bool) : State :=
  let rd := (getLane s sd p).tx.rd
  let c := classify (some rd) g
  let s := modTx s sd p fun x => { x with last := some g, rd := c.after.getD rd }
  capFeed s sd true p fun raw => symbolWord raw g c.sym c.invalid c.disp sub fill

/-- A symbol of the part's own, encoded in the column of the output running disparity (R138). -/
def putOwn (s : State) (sd : Side) (p : Pos) (y : Sym) (fill : Bool) : State :=
  putSymbol s sd p (encodeSym y (getLane s sd p).tx.rd) true fill

/-- A transmitter in electrical idle. -/
def putIdle (s : State) (sd : Side) (p : Pos) : State :=
  capFeed (modTx s sd p fun x => { x with last := none, fillPos := 0, fillSet := [] }) sd true p fun _ => eiWord

/-- The next symbol of those that go ahead of fill or warm traffic. -/
def putAhead (s : State) (sd : Side) (p : Pos) (y : Sym) (r : List Sym) (fill : Bool) : State :=
  putOwn (modTx s sd p fun x => { x with fillSet := r, fillPos := 0, fillRun := x.fillRun + 1 }) sd p y fill

/-- The fill of a lost lane in a transmitter: K30.7 in a frame and on a Transparent link, lane-fault sets else, with the
skip sets of the decision lane and the part's own MOS (R194 to R196). -/
def putFill (s : State) (l : LinkNo) (d : Dir) (k : LLane) (cause : BitVec 4) (p : Pos) : State :=
  let sd := d.txSide
  let x := (getLane s sd p).tx
  if !isPart s l then putOwn s sd p symError true
  else match x.fillSet with
    | y :: r => putAhead s sd p y r true
    | [] =>
      if frameOpen (getLink s l) d then
        putOwn (modTx s sd p fun x => { x with fillPos := 0, fillRun := x.fillRun + 1 }) sd p symError true
      else
        let y := (faultSet (getLink s l).index k cause).getD x.fillPos.val (dataSym 0)
        putOwn (modTx s sd p fun x => { x with fillPos := x.fillPos + 1, fillRun := x.fillRun + 1 }) sd p y true

/-- The balance symbol of a set that the part sends in place of a received one (R139). -/
def balanceFor (after : Option Bool) (rd : Bool) : Sym :=
  if after = none ∨ after = some rd then balNeutral else balChange

/-- One symbol of a buffer forwarded by a transmitter, what is put in its place, or K30.7 (R137 to R139). -/
def putForward (s : State) (l : LinkNo) (sd : Side) (p : Pos) (x : Option EbEntry) : State :=
  let rd := (getLane s sd p).tx.rd
  match x with
  | none => putOwn s sd p symError false
  | some e =>
    match e.put with
    | some y => putOwn s sd p (if e.place = some 15 then balanceFor e.after rd else y) false
    | none =>
      if e.added then putOwn s sd p symSkp false
      else if decodeOn s l && e.before != some rd then putOwn s sd p symError false
      else putSymbol s sd p e.g false false

/-! ### Generators and checkers (R229 to R231) -/

/-- The taps of a pattern. -/
def prbsTaps (pattern : BitVec 3) : Nat × Nat :=
  match pattern.toNat with
  | 0 => (6, 7)
  | 1 => (5, 9)
  | 2 => (14, 15)
  | 3 => (18, 23)
  | _ => (28, 31)

/-- LNPRBS.PATTERN selects USER. -/
def LaneMeas.userPattern (m : LaneMeas) : Bool := m.pattern == 5

/-- The stream is inverted as it is sent (Table 8-1, LNPRBS.INVERT). -/
def prbsInverted (m : LaneMeas) : Bool := (m.pattern == 2 || m.pattern == 3 || m.pattern == 4) ^^ m.invert

/-- The bit that a shift register feeds back; bit 0 is the newest. -/
def prbsFeed (pattern : BitVec 3) (h : BitVec 31) : Bool :=
  h.getLsbD ((prbsTaps pattern).1 - 1) ^^ h.getLsbD ((prbsTaps pattern).2 - 1)

def shiftIn (h : BitVec 31) (b : Bool) : BitVec 31 := (h <<< 1) ||| (BitVec.ofBool b).setWidth 31

/-- One bit of LNPRBSUSR. -/
def LaneMeas.userBit (m : LaneMeas) (i : Fin 20) : Bool := m.user.getLsbD i.val

/-- The next bit of the generator's output, and the generator after it (R229, R230). -/
def genBit (m : LaneMeas) : Bool × LaneMeas :=
  let q := if m.userPattern then m.userBit m.genAt else prbsFeed m.pattern m.gen
  (q ^^ prbsInverted m ^^ m.inject, { m with gen := shiftIn m.gen q, genAt := m.genAt + 1, inject := false })

/-- The next ten bits of the generator's output, the first of them bit 0. -/
def genWord (m : LaneMeas) : BitVec 10 × LaneMeas :=
  (List.range 10).foldl (fun (w, m) i =>
    let b := genBit m
    (w ||| (BitVec.ofBool b.1).setWidth 10 <<< i, b.2)) (0, m)

/-- The engines of a lane as warm traffic uses them: PRBS31 (R205). -/
def LaneMeas.asWarm (m : LaneMeas) : LaneMeas := { m with pattern := 4, invert := false }

/-- PRBS31 from a lane's generator, as warm traffic (R205). -/
def warmWord (m : LaneMeas) : BitVec 10 × LaneMeas :=
  let w := genWord m.asWarm
  (w.1, { w.2 with pattern := m.pattern, invert := m.invert })

/-- The bit that the checker expects next. -/
def prbsNext (m : LaneMeas) : Bool :=
  (if m.userPattern then m.userBit m.userAt else prbsFeed m.pattern m.hist) ^^ prbsInverted m

/-- How many received bits seed the checker's predictor (R231): none for USER, whose rotations are tried. -/
def seedLen (m : LaneMeas) : Nat := if m.userPattern then 0 else (prbsTaps m.pattern).2

/-- One bit compared while the checker is locked: counted in the window in hand. DESIGN CHOICE (log entry 92): windows of 1,024
bits follow one another from the lock on; one with 64 mismatches stands until the checker has lost its lock. -/
def LaneMeas.windowBit (m : LaneMeas) (miss : Bool) : LaneMeas :=
  if 64 ≤ m.winMiss then m
  else
    let n := m.winMiss + if miss then 1 else 0
    if 1023 ≤ m.winBits && n < 64 then { m with winBits := 0, winMiss := 0 } else { m with winBits := m.winBits + 1, winMiss := n }

/-- One received bit in the checker: whether it mismatches, and the checker after it. While it is unlocked the history
holds what was received, while it is locked what was predicted; a mismatch seeds again, or moves to the next rotation. -/
def checkBit (m : LaneMeas) (b : Bool) : Bool × LaneMeas :=
  let want := prbsNext m
  let seeding := !m.chkLock && decide (m.matched < seedLen m)
  let miss := !seeding && want != b
  let n := { m with
    hist := shiftIn m.hist (if m.chkLock then want else b)
    matched := if miss && !m.chkLock then 0 else min (m.matched + 1) (seedLen m + 256)
    userAt := if miss && !m.chkLock then m.userAt + 2 else m.userAt + 1 }
  (miss, if m.chkLock then n.windowBit miss else n)

/-- The unlocked checker has seen 256 bits in a row that match its prediction, after those it was seeded from (R231). -/
def LaneMeas.mayLock (m : LaneMeas) : Bool := !m.chkLock && decide (seedLen m + 256 ≤ m.matched)

/-- Ten received bits in the checker: the mismatches, and the checker after them. -/
def checkWord (m : LaneMeas) (g : BitVec 10) : Nat × LaneMeas :=
  (List.range 10).foldl (fun (e, m) i =>
    let c := checkBit m (g.getLsbD i)
    (if c.1 then e + 1 else e, c.2)) (0, m)

/-- A transmitter sends the next word of its generator. -/
def putGen (s : State) (sd : Side) (p : Pos) : State :=
  let w := genWord (getLane s sd p).meas
  putSymbol (modMeas s sd p fun _ => w.2) sd p w.1 false false

/-! ### What each transmitter sends in a symbol time -/

/-- The transmitters of a direction of a link have their clock: the PLL that serves them is locked (R147, R193). -/
def txClocked (s : State) (l : LinkNo) (d : Dir) : Bool :=
  match linkRec s l with
  | none => true
  | some r =>
    r.loopTimed ||
      match clockPll s.last.working r d.txSide (getLink s l).rate with
      | some q => !s.power.unlock[q.castSucc]
      | none => false

/-- Logical lane k of a Participating link may be sent in its present state: below the trained width from TRAIN.EQ1 on
(R176), and while the link trains only where a far receiver has been detected (R178). DEDUCED (log entry 95): the width of the
training before it binds RETRAIN too. -/
def laneSent (s : State) (l : LinkNo) (d : Dir) (k : LLane) : Bool :=
  let x := getLink s l
  let far := (match d.txSide with | .A => x.detA | .B => x.detB).getLsbD k.val
  let below := decide (k.val < x.width)
  match x.st with
  | .align => far
  | .eq1 | .eq2 | .lock | .exchange | .retrain => far && below
  | _ => below

/-- The lane that a receive position carries to the transmitters, and whether it is lost (R193, R208). -/
def carriedLane (s : State) (sd : Side) (p : Pos) : Option (LinkNo × LLane × Bool) :=
  match feeds s sd p with
  | some (l, k) => some (l, k, isLost s l sd.rxDir k)
  | none => match whoRx s sd p with
    | some (.spare l n) =>
      let x := getSpare s l n sd.rxDir
      if x.code == .forward then some (l, x.lane, x.lost) else none
    | _ => none

/-- The lane that a receive position carries is lost. -/
def carriesLost (s : State) (sd : Side) (p : Pos) : Bool := (carriedLane s sd p).any (·.2.2)

/-- A receiver's symbols may go on: in a Participating link it has SYM_LOCK at the link rate (R175), in a Transparent one
with AUTO an allowed rate (R132). DESIGN CHOICE (log entry 84): where SYM_LOCK goes again without a loss decision the transmitter
is idle until it is back. -/
def mayForward (s : State) (l : LinkNo) (k : LLane) (sd : Side) (p : Pos) : Bool :=
  let n := (getLane s sd p).rx
  let x := getLink s l
  dirForwards s l sd.rxDir && txClocked s l sd.rxDir &&
    if isPart s l then
      n.symLock && x.rate != 0 && !x.rateBad && (n.rate == 0 || n.rate == x.rate) && laneSent s l sd.rxDir k
    else !isAuto s l || recIs s l (rateAllowed · n.rate)

/-- A lost lane's transmitters send fill while loss decisions are made in its direction (R194, R196). -/
def mayFill (s : State) (l : LinkNo) (d : Dir) : Bool := dirForwards s l d && decidesLoss s l d && txClocked s l d

/-- A transmitter that is off, or whose pins the boundary cells have, carries nothing at its capture point (Table 13-9). -/
def txDark (s : State) (sd : Side) (p : Pos) : State := capFeed s sd true p fun _ => eiWord

/-- The clock of a test's transmitter is there: that of the link that it serves (R147). DESIGN CHOICE (log entry 74): with no
link, or before the link has a rate, the generator has one. -/
def testClocked (s : State) (sd : Side) (p : Pos) : Bool :=
  match txLink s sd p with
  | none => true
  | some l => (getLink s l).rate == 0 || txClocked s l sd.rxDir.other

/-- The generator of a test in a symbol time: nothing valid goes out without the transmitter's clock (R164). -/
def putTest (s : State) (sd : Side) (p : Pos) : State := if testClocked s sd p then putGen s sd p else putIdle s sd p

/-- One symbol time of a transmitter q that takes the symbols of the receiver on position p: x is what was read, none
where nothing was. A test on either position has its own source (Table 8-6); with nothing to send it is idle (R150). -/
def carriedOut (s : State) (sd : Side) (p : Pos) (x : Option (Option EbEntry)) (q : Pos) : State :=
  let m := (getLane s sd.other q).meas
  if !txUsable s sd.other q then txDark s sd.other q
  else if m.loops then s
  else if m.genEn && m.loopMode != 2 then putTest s sd.other q
  else if (getLane s sd p).meas.loops then putIdle s sd.other q
  else match carriedLane s sd p with
    | none => putIdle s sd.other q
    | some (l, k, lost) =>
      if lost && mayFill s l sd.rxDir then putFill s l sd.rxDir k (getLane s sd p).rx.lostCause q
      else match if !lost && mayForward s l k sd p then x else none with
        | some e => putForward s l sd.other q e
        | none => putIdle s sd.other q

/-- The transmitter that the crossbar pairs with a receive position (R150). -/
def pairedTx (s : State) (sd : Side) (p : Pos) : Option Pos :=
  match whoRx s sd p with
  | some (.lane l k) => (linkRec s l).bind fun r => homeTx s.last.working r sd.rxDir k
  | some (.spare l n) => (linkRec s l).bind fun r => spareTx s.last.working r sd.rxDir n
  | none => none

/-- The paired transmitter takes the symbols of no receiver. -/
def txVacant (s : State) (sd : Side) (p : Pos) (q : Pos) : Bool :=
  match whoRx s sd p with
  | some (.lane l k) => !(laneTxs s l sd.rxDir k).contains q
  | some (.spare l n) =>
    let x := getSpare s l n sd.rxDir
    x.code != .forward && !(x.code.serves && (laneTxs s l sd.rxDir x.lane).contains q)
  | none => true

/-- A position has warm traffic to send: a spare by Table 7-2, a home position that its lane has left (R209), or a spare that
its lane has left on its way back (R211). DEDUCED
(log entry 96): a spare under a warm policy sends it also before it has first held lock. -/
def sendsWarm (s : State) (sd : Side) (p : Pos) : Bool :=
  match whoRx s sd p with
  | some (.lane l k) => (takenFrom s l sd.rxDir k).isSome
  | some (.spare l n) =>
    let x := getSpare s l n sd.rxDir
    let c := x.code
    c == .warm || c == .aligning || c == .failed || (c == .cold && restCode s l == .warm && !spareHeld s l n) ||
      ((c == .carrying || c == .standin) && takenFrom s l sd.rxDir x.lane != some n)
  | none => false

/-- The link sends warm traffic in a direction: it has a rate, and neither DISABLED nor the direction's sleep keeps the
transmitters idle (R221, R222). -/
def warmLink (s : State) (l : LinkNo) (d : Dir) : Bool :=
  let x := getLink s l
  isPart s l && x.join == .joined && x.rate != 0 && !x.idleOut && txClocked s l d &&
    !(x.st == .detect || x.st == .disabled || x.st == .notTraining || x.st == .deep || (x.st == .sleepAB && d == .AB) ||
      (x.st == .sleepBA && d == .BA))

/-- One symbol time of warm traffic: pad sets, with a skip set of 3 SKP each time 1,400 symbols have passed since the last,
or PRBS31 (R205). DESIGN CHOICE (log entry 62): the skip set goes at the first end of a pad set from 1,400 symbols on. -/
def putWarm (s : State) (l : LinkNo) (sd : Side) (p : Pos) : State :=
  let x := (getLane s sd p).tx
  match x.fillSet with
  | y :: r => putAhead s sd p y r false
  | [] =>
    if recIs s l (·.sparePol == .warmPrbs) then
      let w := warmWord (getLane s sd p).meas
      putSymbol (modMeas s sd p fun _ => w.2) sd p w.1 false false
    else if x.fillPos = 0 ∧ 1400 ≤ x.fillRun then
      putOwn (modTx s sd p fun x => { x with fillSet := List.replicate 3 symSkp, fillRun := 1 }) sd p symCom false
    else
      let y := padSet.getD x.fillPos.val (dataSym 0)
      putOwn (modTx s sd p fun x => { x with fillPos := x.fillPos + 1, fillRun := x.fillRun + 1 }) sd p y false

/-- One symbol time of a transmitter that no receiver feeds. -/
def vacantOut (s : State) (sd : Side) (p : Pos) (q : Pos) : State :=
  let m := (getLane s sd.other q).meas
  if !txUsable s sd.other q then txDark s sd.other q
  else if m.loops then s
  else if m.genEn && m.loopMode != 2 then putTest s sd.other q
  else match rxLink s sd p with
    | some l =>
      if sendsWarm s sd p && warmLink s l sd.rxDir then putWarm s l sd.other q else putIdle s sd.other q
    | none => putIdle s sd.other q

/-- One symbol time of the transmitters that the receiver on position p serves: those that take its symbols, and the one
paired with it where that takes nobody's. Where no link names the position on either side, the one opposite passes the time
with it. -/
def sendOne (s : State) (sd : Side) (p : Pos) (x : Option (Option EbEntry)) : State :=
  let s := (rxDests s sd p).foldl (fun t q => carriedOut t sd p x q) s
  match pairedTx s sd p with
  | some q => if txVacant s sd p q then vacantOut s sd p q else s
  | none => if (whoTx s sd.other p).isNone then txDark s sd.other p else s

/-- A set of a LOOPBACK request has left the part on logical lane 0; with the last of them the link is due to loop (R187). -/
def passRequest (s : State) (sd : Side) (p : Pos) (x : Option EbEntry) : State :=
  match if x.any (·.place == some 15) then feeds s sd p else none with
  | some (l, k) =>
    let n := (sideTr (getLink s l) sd).lpbkLeft
    if k.val ≠ 0 || n = 0 then s
    else
      let s := modTr s l sd fun t => { t with lpbkLeft := n - 1 }
      if n = 1 then modLink s l fun y => { y with lpbkDue := some (if y.lpbkDue = some .A then .A else sd) } else s
  | none => s

/-- One symbol time at the read end of a receiver's buffer: a symbol is taken while the receiver has its clock, and sent. -/
def readOne (s : State) (sd : Side) (p : Pos) : State :=
  let n := (getLane s sd p).rx
  match if n.cdrLock then n.buf else [] with
  | [] => sendOne (capFeed s sd false p fun _ => eiWord) sd p none
  | x :: rest =>
    let x := if n.owed != 0 then none else x
    let whole := n.buf.head?.join
    let gone := whole.any fun e => !e.added && (e.g == encodeSym symSkp true || e.g == encodeSym symSkp false)
    let s := modRx s sd p fun n =>
      { n with buf := rest, owed := n.owed - 1, turn := if gone && n.turn == .entered then .level else n.turn }
    let lost := carriesLost s sd p
    let s := capFeed s sd false p fun raw => match x with
      | none => symbolWord raw (encodeSym symError false) (some symError) false false true lost
      | some e =>
        if !n.symLock then eiWord
        else symbolWord raw e.g ((decodeSym e.g (e.before.getD false)).or (decodeSym e.g true)) e.invalid e.disp e.added lost
    ebLimits (passRequest (sendOne s sd p (some x)) sd p whole) sd p

def readMany : Nat → State → Side → Pos → State
  | 0, s, _, _ => s
  | n + 1, s, sd, p => readMany n (readOne s sd p) sd p

/-! ### Counting (R225 to R227) -/

/-- n errors counted in LNERRCNT, which stops at its end. -/
def addErrs (m : LaneMeas) (n : Nat) : LaneMeas :=
  if 0xFFFFFFFF ≤ m.errCnt.toNat + n then
    { m with errCnt := 0xFFFFFFFF, errSat := m.errSat || 0 < n }
  else { m with errCnt := m.errCnt + BitVec.ofNat 32 n }

/-- One symbol or word counted in LNSYMCNT, which wraps. -/
def stepSym (m : LaneMeas) : LaneMeas := { m with symCnt := m.symCnt + 1, symWrap := m.symWrap || m.symCnt == 0xFFFFFFFFFFFF }

/-- The counting of one received group; the checker, where it is enabled, takes the word `bits`. The Heel's own count is
of symbols, whatever the source (R227). -/
def countGroup (m : LaneMeas) (lock bad : Bool) (bits : Option (BitVec 10)) : LaneMeas :=
  let m := if lock then { m with heelErr := m.heelErr + (if bad then 1 else 0), heelSym := m.heelSym + 1 } else m
  if m.chkEn then
    match bits with
    | none => m
    | some g =>
      let w := checkWord m g
      if m.chkLock then stepSym (addErrs w.2 w.1) else w.2
  else if lock then stepSym (addErrs m (if bad then 1 else 0))
  else m

/-- A checker that LNPRBS leaves off takes the words of warm traffic by PRBS where its spare receives that (R205), and counts
nothing; where it has no use it holds nothing. -/
def idleChecker (m : LaneMeas) (warm : Bool) (g : BitVec 10) : LaneMeas :=
  if m.chkEn then m
  else if warm then { (checkWord m.asWarm g).2 with pattern := m.pattern, invert := m.invert }
  else m.reseed

/-- Warm traffic runs in a direction of the link: it has a rate, and neither DISABLED nor a sleep of that direction
stops it (R205, R222). -/
def warmRuns (s : State) (l : LinkNo) (d : Dir) : Bool :=
  let k := getLink s l
  k.join == .joined && k.rate != 0 && k.st != .detect && k.st != .disabled && k.st != .deep &&
    k.st != (if d = .AB then .sleepAB else .sleepBA)

/-- A spare of a link under warm traffic by PRBS receives or sends it in a direction: it serves no lane and no test holds it. -/
def warmIdlePrbs (s : State) (w : Option Carried) (d : Dir) : Bool :=
  match w with
  | some (.spare l n) =>
    let c := (getSpare s l n d).code
    recIs s l (·.sparePol == .warmPrbs) && warmRuns s l d && !spareHeld s l n && (c == .cold || c == .warm || c == .failed)
  | _ => false

/-- The spare of a link whose warm traffic by PRBS uses the generator or the checker of a position (R205, R242): it
serves no lane and no test holds it, or its transmitter still sends warm traffic before the receive switch. -/
def warmPrbs (s : State) (sd : Side) (p : Pos) : Bool :=
  let dup := match whoTx s sd p with
    | some (.spare l n) => recIs s l (·.sparePol == .warmPrbs) && (match (getLink s l).swap with
        | some w => w.spare == n && w.dir == sd.rxDir.other && !w.back && w.early
        | none => false)
    | _ => false
  warmIdlePrbs s (whoRx s sd p) sd.rxDir || warmIdlePrbs s (whoTx s sd p) sd.rxDir.other || dup

/-! ### Skip edits as they are made (R143, R145) -/

/-- THRESH 0x0007 (R145): the count that a window may not exceed; none while it is disabled. -/
def skipLimit (s : State) : Option Nat :=
  let t := s.last.working.thresh[(6 : Fin 7)]
  if t.enable then some t.value else none

/-- One SKP added or removed on a receiver (R143); windows are counted while the threshold is enabled (R145). -/
def countEdit (s : State) (sd : Side) (add : Bool) (p : Pos) : State :=
  let windows := (skipLimit s).isSome
  modRx s sd p fun n =>
    { n with
      skpWin := if windows then n.skpWin + 1 else n.skpWin
      skpAdd := if add then n.skpAdd + 1 else n.skpAdd
      skpDel := if add then n.skpDel else n.skpDel + 1 }

/-- The sharers of a decision whose lane is not lost: a lost lane sends fill, and nothing is counted there (R164). -/
def editSharers (s : State) (sd : Side) (p : Pos) : List Pos := (sharers s sd p).filter fun q => !carriesLost s sd q

/-- The window's count of the deciding lane has first exceeded the limit: SKP_RATE on every lane that shares its
decisions, one event (R145). -/
def checkSkipRate (s : State) (sd : Side) (p : Pos) (ps : List Pos) : State :=
  match skipLimit s with
  | none => s
  | some limit =>
    let n := (getLane s sd p).rx
    if n.skpWin ≤ limit || n.skpHit then s
    else
      let s := modRxs s sd ps fun n => { n with skpRate := true, skpHit := true }
      logL s 0x0305 sd p (bytesLE 4 n.skpWin)

/-- A skip edit falls on the K28.0 that enters: it is counted, and the count watched. -/
def editMade (s : State) (sd : Side) (p : Pos) (add : Bool) : State :=
  let s := countEdit s sd add p
  let ps := editSharers s sd p
  if ps.contains p then checkSkipRate s sd p ps else s

/-! ### Loss -/

/-- A spare that is ALIGNING is declared lost: its swap fails (R193, R210). DESIGN CHOICE (log entry 63): the declaration names
the lane that it is to serve, which is not lost by it. -/
def aligningLost (s : State) (l : LinkNo) (n : SpareNo) (d : Dir) (cause : BitVec 4) : State :=
  match (getLink s l).swap with
  | some w =>
    if w.early ∧ w.spare = n ∧ w.dir = d ∧ !w.back ∧ decidesLoss s l d then failSwap (noteLoss s l d w.lane (some n) cause) l w 6 true
    else s
  | none => s

/-- A spare in FORWARD that carries a lane beside its home is declared lost (R193): it sends fill, and LNKERR shows the bit of
the lane that it serves. DESIGN CHOICE (log entry 63): that lane is not lost at home, so no policy acts. -/
def forwardLost (s : State) (l : LinkNo) (n : SpareNo) (d : Dir) (cause : BitVec 4) : State :=
  let x := getSpare s l n d
  if x.lost || !decidesLoss s l d then s
  else
    let s := noteLoss (setSpare s l n d { x with lost := true }) l d x.lane (some n) cause
    match (linkRec s l).bind fun r => spareRx s.last.working r d n with
    | some p => modRx s d.rxSide p fun y => { y with lostCause := cause, alignRun := 0 }
    | none => s

/-- The receiver on a position has come to where its lane counts as lost (R193). -/
def rxLost (s : State) (sd : Side) (p : Pos) (cause : BitVec 4) : State :=
  match feeds s sd p with
  | some (l, k) => declareLost s l sd.rxDir k cause
  | none => match whoRx s sd p with
    | some (.spare l n) =>
      if (getSpare s l n sd.rxDir).code == .forward then forwardLost s l n sd.rxDir cause else aligningLost s l n sd.rxDir cause
    | _ => s

/-- A spare in FORWARD that RELEASE_SPARE has released stops carrying the lane's traffic: it rests (R208). DESIGN CHOICE (log
entry 75): it stops where an idle-entry set comes on it, or its clock goes. -/
def releaseForward (s : State) (sd : Side) (p : Pos) : State :=
  match whoRx s sd p with
  | some (.spare l n) =>
    let x := getSpare s l n sd.rxDir
    if x.code == .forward && x.leaving then restSpare s l n sd.rxDir else s
  | _ => s

/-- K23.7 and K29.7 on a trained lane that is not lost open and close a frame; K23.7 ends an idle period (R194, R220). -/
def trackFrame (s : State) (sd : Side) (p : Pos) (y : Option Sym) : State :=
  match feeds s sd p with
  | none => s
  | some (l, k) =>
    let d := sd.rxDir
    if isLost s l d k || !(trainedLanes s l).contains k then s
    else if y = some symOpen then
      modLink s l fun x =>
        let x := match d with
          | .AB => { x with frameAB := true }
          | .BA => { x with frameBA := true }
        { x with asked := vput (vput x.asked (if d = .AB then 0 else 1) false) 2 false }
    else if y = some symClose then
      modLink s l fun x => match d with
        | .AB => { x with frameAB := false }
        | .BA => { x with frameBA := false }
    else s

/-- In EXCHANGE, a symbol outside training sets, received on a side, makes that direction active once EXCH_DONE has
arrived in it; with both the link is ACTIVE (Table 6-5). -/
def linkSymbol (s : State) (l : LinkNo) (sd : Side) : State :=
  if (getLink s l).st != .exchange || !(sideTr (getLink s l) sd).exchDone then s
  else
    let s := modTr s l sd fun t => { t with active := true }
    if (getLink s l).trainA.active && (getLink s l).trainB.active then enterActive s l else s

/-- The same for a symbol of a lane, where it is not one of a set that a command has told of. -/
def symbolAfterExchange (s : State) (sd : Side) (p : Pos) : State :=
  match feeds s sd p with
  | none => s
  | some (l, _) => linkSymbol s l sd

/-- The word that the checker takes from a received group: in near-end parallel loopback it takes the generator's (R245). -/
def LaneMeas.checked (m : LaneMeas) (g : BitVec 10) : Option (BitVec 10) := if m.loopMode == 2 then none else some g

/-- One symbol time of near-end parallel loopback: the checker takes the generator's output (R244, R245). -/
def parallelWord (m : LaneMeas) : LaneMeas :=
  if m.loopMode == 2 && m.genEn then
    let w := genWord m
    if m.chkEn then countGroup w.2 false false (some w.1) else w.2
  else m

/-- A received group joins the elastic buffer, with the edit that falls on it (R141, R143); on a lane that is lost none does
(R164). -/
def bufferGroup (s : State) (sd : Side) (p : Pos) (e : EbEntry) (edit : Option Bool) : State :=
  match if carriesLost s sd p then none else edit with
  | some false => editMade s sd p false
  | some true => editMade (modRx s sd p fun x => ebPush (ebPush x (some e)) (some { e with added := true })) sd p true
  | none => modRx s sd p fun x => ebPush x (some e)

/-- One code group received (R136, R137, R225): classified, counted, put into the buffer with what the part puts in its
place. -/
def receiveGroup (s : State) (sd : Side) (p : Pos) (g : BitVec 10) : State :=
  let n := getLane s sd p
  let lock := symShown s sd p
  let c := classify n.rx.rd g
  let bad := c.invalid || c.disp
  let on := match rxLink s sd p with
    | some l => decodeOn s l
    | none => false
  let place := planPlace n.rx c.sym
  let e : EbEntry :=
    { g := g, before := if bad then none else n.rx.rd, after := c.after, invalid := c.invalid, disp := c.disp, added := false
      place := place, put := if place.isSome then n.rx.plan.head?.join else none }
  let skp := c.sym == some symSkp && !c.invalid
  let warm := warmIdlePrbs s (whoRx s sd p) sd.rxDir
  let s := modMeas s sd p fun m => idleChecker (countGroup m lock bad (m.checked g)) warm g
  let s := modRx s sd p fun x =>
    { x with
      rd := c.after
      codeErr := x.codeErr || (on && c.invalid)
      dispErr := x.dispErr || (on && c.disp)
      badRun := if on && bad then x.badRun + 1 else 0
      dirty := if c.invalid then 4096 else x.dirty - 1
      plan := if place.isSome then x.plan.drop 1 else x.plan
      edit := if skp then none else x.edit
      turn := if skp && x.turn == .told then .entered else x.turn }
  let s := if bad then s else trackFrame s sd p c.sym
  let s := if c.sym == some (k28 3) && !bad then releaseForward s sd p else s
  if isTap s p then
    capFeed s sd false p fun raw => if lock then symbolWord raw g c.sym c.invalid c.disp false false else eiWord
  else
    let s := ebLimits (bufferGroup s sd p e (if skp then n.rx.edit else none)) sd p
    let s := if place.isSome then s else symbolAfterExchange s sd p
    if 64 ≤ (getLane s sd p).rx.badRun then rxLost s sd p 2 else s

/-- Far-end loopback sends each received group back on its own side, bit for bit (R246). -/
def loopGroup (s : State) (sd : Side) (p : Pos) (g : BitVec 10) : State :=
  if (getLane s sd p).meas.loopMode == 3 && txUsable s sd p then putSymbol s sd p g false false else s

/-- The group that reaches the receiver in a symbol time: that of the balls, or in near-end serial loopback what its own
transmitter sends, the generator's output (Table 8-6). -/
def padGroup (s : State) (sd : Side) (p : Pos) (g : BitVec 10) : Option (BitVec 10) × State :=
  let m := (getLane s sd p).meas
  if m.loopMode != 1 then (some g, s)
  else
    let s := if m.genEn && txUsable s sd p then putTest s sd p else putIdle s sd p
    ((getLane s sd p).tx.last, s)

/-! ### Lock (R131 to R133, R149, R198) -/

/-- The lane's lock suffices where no deskew is asked for: a Transparent link (R198). -/
def restoreTransparent (s : State) (sd : Side) (p : Pos) : State :=
  match feeds s sd p with
  | some (l, k) =>
    let n := (getLane s sd p).rx
    if isTrans s l && isLost s l sd.rxDir k && n.cdrLock && (n.symLock || !commaOn s sd p) && txClocked s l sd.rxDir then
      restoreLane s l sd.rxDir k
    else s
  | none => s

/-- The master of a loop-timed link has lost CDR_LOCK: the loop holds (R149); a Transparent lane holds over alone. -/
def holdLoop (s : State) (sd : Side) (p : Pos) : State :=
  match feeds s sd p with
  | some (l, k) =>
    if isLoopTimed s l && (isTrans s l || loopMasterOf s l sd.rxDir = k) then
      modRx s sd p fun n => { n with holdover := true }
    else s
  | none => s

/-- SYM_LOCK has been lost on every trained lane of a direction: RETRAIN from ACTIVE (R185). -/
def symLossRetrain (s : State) (l : LinkNo) (d : Dir) : State :=
  if isPart s l && (getLink s l).st == .active && symGone s l d then enterRetrain s l else s

/-- LNSTAT.LOOP_MASTER: every lane of a JOINED loop-timed Transparent link, the master of a Participating one. -/
def isLoopMaster (s : State) (sd : Side) (p : Pos) : Bool :=
  match feeds s sd p with
  | some (l, k) => isLoopTimed s l && (getLink s l).join == .joined && (isTrans s l || loopMasterOf s l sd.rxDir = k)
  | none => false

/-- The transmitters of a direction of a link have lost their clock: each trained lane is lost, then what follows from the
losses is done once (R164, R193, R202); a spare in FORWARD loses its transmitter too. -/
def clockLost (s : State) (l : LinkNo) (d : Dir) : State :=
  let ks := (trainedLanes s l).filter (mayLose s l d)
  let s := ks.foldl (fun t k => markLost t l d k 3) s
  let s := bothSpares.foldl (fun t n => if (getSpare t l n d).code == .forward then forwardLost t l n d 3 else t) s
  afterLosses s l d ks

/-- A side PLL no longer clocks the transmitters that it served (R164, R193). -/
def pllLost (s : State) (q : SidePll) : State :=
  let sd : Side := if q.val < 2 then .A else .B
  allLinks.foldl (fun t l =>
    match linkRec t l with
    | none => t
    | some r =>
      if r.loopTimed || clockPll t.last.working r sd (getLink t l).rate != some q then t
      else clockLost t l sd.rxDir.other) s

end Sys2Proof.Machine
end

