-- ==== Sys2Proof/Machine/TrainOps.lean ====
section
/-! DEFINITION. Link training (06) and low power (07): the states, the fields of training sets, capabilities, presets. -/

namespace Sys2Proof.Machine

/-! ### Widths (R176, R178) -/

/-- DETW of a side. -/
def detwOf (k : Link) : Side → Nat
  | .A => k.detwA.toNat
  | .B => k.detwB.toNat

/-- Logical lane k of a direction meets what the usable width asks for. -/
def laneUsable (s : State) (l : LinkNo) (d : Dir) (k : LLane) : Bool :=
  k.val < detwOf (getLink s l) d.txSide && laneSym s l d k && (sideTr (getLink s l) d.rxSide).laneOk.getLsbD k.val

/-- The largest of 16, 8, 4, 2 and 1 within a limit whose lanes all satisfy f; 0 where none does. -/
def widthBy (limit : Nat) (f : LLane → Bool) : Nat :=
  match [16, 8, 4, 2, 1].find? fun w => w ≤ limit && (idxs 16 fun k => k.val < w).all f with
  | some w => w
  | none => 0

/-- The usable width of a direction, within WIDTH and the DEGRADE cap (R176, R201). -/
def usableWidth (s : State) (l : LinkNo) (d : Dir) : Nat :=
  match linkRec s l with
  | none => 0
  | some r =>
    let cap := (getLink s l).cap
    widthBy (if cap = 0 then r.width else min r.width cap) (laneUsable s l d)

/-- The trained width: the lowest of the two usable widths and the two WIDTH values received. -/
def trainWidth (s : State) (l : LinkNo) : Nat :=
  min (min (usableWidth s l .AB) (usableWidth s l .BA))
    (min (getLink s l).trainA.width.toNat (getLink s l).trainB.width.toNat)

/-! ### The part's own values (R171, R183, R184) -/

/-- Own ALIGNED: both directions locked, ordered and deskewed, and no overcount. -/
def ownAligned (s : State) (l : LinkNo) : Bool :=
  let k := getLink s l
  k.st == .align && 1 ≤ trainWidth s l && k.trainA.skewOk && k.trainB.skewOk && k.index != 3

/-- A lane of a direction satisfies what own LOCKED asks for. -/
def laneClean (s : State) (l : LinkNo) (d : Dir) (k : LLane) : Bool :=
  match laneRx s l d k with
  | some p => let n := (getLane s d.rxSide p).rx; n.cdrLock && n.symLock && n.dirty == 0
  | none => false

def ownLocked (s : State) (l : LinkNo) : Bool :=
  let k := getLink s l
  (k.st == .lock || k.st == .exchange) && k.trainA.skewOk && k.trainB.skewOk &&
    bothDirs.all fun d => (trainedLanes s l).all (laneClean s l d)

/-- Every receiver of the direction being equalised has finished its search. -/
def ownEqDone (s : State) (l : LinkNo) : Bool :=
  let d : Option Dir := match (getLink s l).st with
    | .eq1 => some .AB
    | .eq2 => some .BA
    | _ => none
  match d with
  | none => false
  | some d => (trainedLanes s l).all fun k => match laneRx s l d k with
    | some p => (getLane s d.rxSide p).search.done
    | none => false

def ownExchDone (k : Link) : Bool := k.st == .exchange && k.trainA.capped && k.trainB.capped

/-- The part's own capabilities (Table 6-6), those that need a channel cleared while MLANE_OK is 0. -/
def ownCaps (s : State) (l : LinkNo) : Byte :=
  match linkRec s l with
  | none => 0
  | some r =>
    let spare := r.spare0.isSome || r.spare1.isSome
    let permit := s.last.working.power[l].permit
    let bits : Byte := BitVec.ofBoolListLE [spare, permit.getLsbD 0 || permit.getLsbD 1, permit.getLsbD 2, r.markers, true,
      true, r.predict && spare, false]
    if r.mgmtLane.isSome && (getLink s l).mlaneOk then bits else bits &&& 0x20

/-- The MLANE bytes received from both sides are VALID and name the record's management lane (R184). -/
def mlaneAgrees (s : State) (l : LinkNo) : Bool :=
  let k := getLink s l
  match (linkRec s l).bind (·.mgmtLane) with
  | none => false
  | some m => [k.trainA.mlane, k.trainB.mlane].all fun b => b.getLsbD 4 && (b &&& 0x0F).toNat == m.val

/-! ### Entries to the training states (Table 6-5) -/

/-- Entry to TRAIN.ALIGN. The deskew watch begins anew (R179). -/
def enterAlign (s : State) (l : LinkNo) : State :=
  let s := bothSides.foldl (fun t sd => modRxs t sd (linkPoss t.last.working l) fun n => { n with driftRun := 0 }) s
  modLink s l fun k => { k with st := .align, width := 0, trainA := k.trainA.fresh, trainB := k.trainB.fresh }

/-- The searches of the receivers of a direction begin, or count as done (R181). -/
def startSearches (s : State) (l : LinkNo) (d : Dir) : State :=
  let fixed := (getLink s l).eqFixed
  (trainedLanes s l).foldl (fun t k => match laneRx t l d k with
    | some p => modLane t d.rxSide p fun n =>
        { n with search := { Reset.search with running := !fixed, done := fixed } }
    | none => t) s

/-- The link's transmitters, on both sides. -/
def linkTxs (s : State) (l : LinkNo) : List (Side × Pos) :=
  match linkRec s l with
  | none => []
  | some r => bothDirs.flatMap fun d =>
      ((lanesOf r).filterMap (homeTx s.last.working r d) ++ bothSpares.filterMap (spareTx s.last.working r d)).map
        fun p => (d.txSide, p)

/-- PRE and POST stay where their ramp has come (R271). -/
def LaneTx.abandonRamp (x : LaneTx) : LaneTx :=
  if x.pre = x.preAct ∧ x.post = x.postAct then x else { x with pre := x.preAct, post := x.postAct, preset := none }

def abandonRamps (s : State) (l : LinkNo) : State := (linkTxs s l).foldl (fun t q => modTx t q.1 q.2 LaneTx.abandonRamp) s

def enterEq1 (s : State) (l : LinkNo) : State :=
  let w := trainWidth s l
  startSearches (abandonRamps (modLink s l fun k => { k with st := .eq1, width := w }) l) l .AB

def enterEq2 (s : State) (l : LinkNo) : State :=
  startSearches (abandonRamps (modLink (endSearches s l) l fun k => { k with st := .eq2 }) l) l .BA

def enterLock (s : State) (l : LinkNo) : State :=
  let w := if (getLink s l).st == .align then trainWidth s l else (getLink s l).width
  modLink (endSearches s l) l fun k =>
    { k with
      st := .lock, width := w
      trainA := { k.trainA with lockRun := 0 }
      trainB := { k.trainB with lockRun := 0 } }

/-- Entry to EXCHANGE: the capabilities are recorded anew. -/
def enterExchange (s : State) (l : LinkNo) : State :=
  let fresh := fun t : SideTrain => { t with capRun := 0, capped := false, exchDone := false, active := false, lastB := [] }
  let s := modLink s l fun k =>
    { k with
      st := .exchange, capAB := 0, capBA := 0, capLink := 0, epochOk := false, trainA := fresh k.trainA, trainB := fresh k.trainB }
  modLink s l fun k => { k with mlaneOk := mlaneAgrees s l }

/-- LOOPBACK: the trained lanes of the requesting side go into far-end loopback (R187, R247). -/
def enterLoopback (s : State) (l : LinkNo) (sd : Side) : State :=
  let w := if (getLink s l).width = 0 then trainWidth s l else (getLink s l).width
  let s := modLink (endSearches s l) l fun k => { k with st := .loopback, lpbkSide := sd, width := w, lpbkDue := none }
  let s := (trainedLanes s l).foldl (fun t k => match laneRx t l sd.rxDir k with
    | some p => modMeas t sd p fun m => { m.noLoop with loopMode := 3, loopActive := true, loopPbl := true }
    | none => t) s
  (trainedLanes s l).foldl (fun t k => match laneTx t l sd.rxDir k with
    | some p => modTx t sd.other p fun x => { x with last := none }
    | none => t) s

/-- The receivers of a side request presets in a state (chapter 06, "Equalisation on both segments"). -/
def requests (st : TrainState) (sd : Side) : Bool := (st == .eq1 && sd == .A) || (st == .eq2 && sd == .B)

/-! ### Receiving a training set -/

def tosAt (t : Tos) (i : Nat) : Byte := t.pos.toList.getD (i - 2) 0
def tosPut (t : Tos) (i : Nat) (b : Byte) : Tos := { t with pos := if h : i - 2 < 13 then vput t.pos ⟨i - 2, h⟩ b else t.pos }

def isTosA (t : Tos) : Bool := tosAt t 2 == 0x4A
def isTosB (t : Tos) : Bool := tosAt t 2 == 0x4B

def runIf (b : Bool) (n : Nat) : Nat := if b then n + 1 else 0

/-- The index that COUNT gives the part (R172). -/
def indexOf (count : BitVec 2) : BitVec 2 := if count.toNat < 2 then count + 1 else 3

/-- In TRAIN.ALIGN, a TOS-A of direction AB counts the part in, one of BA tells TOTAL (R172). -/
def takeHops (s : State) (l : LinkNo) (d : Dir) (hops : Byte) : State :=
  match d with
  | .AB =>
    let old := (getLink s l).index
    let new := indexOf (hops.extractLsb' 0 2)
    let s := modLink s l fun k => { k with index := new }
    if old = new then s else logK s 0x0402 l [old.setWidth 8, new.setWidth 8]
  | .BA => modLink s l fun k => { k with total := hops.extractLsb' 2 2 }

/-- The sets that arrive on a lane go on in the direction: the lane is locked at the link's rate, and its transmitters may
send (R175, R178). -/
def setForwards (s : State) (l : LinkNo) (sd : Side) (k : LLane) : Bool :=
  match laneRx s l sd.rxDir k with
  | some p => mayForward s l k sd p
  | none => false

/-- The told-of sets of a lane whose last symbol stands in its buffer. -/
def setsWithin (s : State) (l : LinkNo) (sd : Side) (k : LLane) : Nat :=
  match laneRx s l sd.rxDir k with
  | some p => ((getLane s sd p).rx.buf.filter fun x => x.any (·.place == some 15)).length
  | none => 0

/-- The fields that a TOS-A brings; runs are counted on logical lane 0. The sets that ask for LOOPBACK or DISABLED count as
they are forwarded (R187, R188); of the eighth LOOPBACK set and those before it the last is still to leave the part. DEDUCED
(log entry 69): a part that has not been counted in has no node of its own. -/
def readTosA (s : State) (l : LinkNo) (sd : Side) (k : LLane) (t : Tos) : State :=
  let flags := tosAt t 7
  let index := (getLink s l).index
  let on := setForwards s l sd k
  let deskew := match linkRec s l with | some r => r.deskew | none => 0
  let s := modTr s l sd fun x =>
    { x with
      laneOk := if tosAt t 3 == BitVec.ofNat 8 k.val then x.laneOk ||| bit16 k else x.laneOk &&& ~~~(bit16 k)
      width := tosAt t 4
      skewOk := decide (t.skew ≤ deskew) }
  if k.val ≠ 0 then s
  else
    let s := modTr s l sd fun x =>
      { x with
        seen := true
        eqSkip := flags.getLsbD 3
        alignRun := if flags.getLsbD 0 then min 8 (x.alignRun + 1) else x.alignRun
        lpbkRun := runIf (on && flags.getLsbD 1 && (tosAt t 8).extractLsb' 0 2 == index && index != 0) x.lpbkRun
        disRun := runIf (on && flags.getLsbD 2) x.disRun }
    let s := modTr s l sd fun x =>
      { x with lpbkLeft := if x.lpbkRun = 8 then setsWithin s l sd k + 1 else if x.lpbkRun < 8 then 0 else x.lpbkLeft }
    let on := decide (8 ≤ (sideTr (getLink s l) sd).disRun)
    modLink s l fun x => match sd with
      | .A => { x with disA := on }
      | .B => { x with disB := on }

/-- The fields that a TOS-B brings; its reserved positions 10 to 14 are ignored (R170). -/
def readTosB (s : State) (l : LinkNo) (sd : Side) (k : LLane) (t : Tos) : State :=
  let s := modTr s l sd fun x => { x with eqPhase := (tosAt t 4).extractLsb' 0 2, mlane := tosAt t 8 }
  if k.val ≠ 0 then s
  else
    let named := t.pos.toList.take 8
    let same := fun x : SideTrain => x.lastB == named
    modTr s l sd fun x =>
      { x with
        lockRun := if (tosAt t 9).getLsbD 0 then min 8 (x.lockRun + 1) else x.lockRun
        capRun := if same x then x.capRun + 1 else 1
        cap := tosAt t 7
        exchDone := x.exchDone || (tosAt t 9).getLsbD 1
        lastB := named }

/-- A preset request for the transmitter of a lane on a side (R180, R182): applied and acknowledged, rejected, or
ignored outside its phase. -/
def answerRequest (s : State) (l : LinkNo) (sd : Side) (k : LLane) (req : Byte) : State :=
  let phase := ((getLink s l).st == .eq1 && sd == .B) || ((getLink s l).st == .eq2 && sd == .A)
  match laneTx s l sd.rxDir.other k with
  | none => s
  | some p =>
    if !phase || !req.getLsbD 4 then modTx s sd p fun x => { x with answer := 0 }
    else if (txAt s.last.working sd p).acceptReq then
      let preset : BitVec 4 := req.extractLsb' 0 4
      let taps := presetTaps preset
      modTx s sd p fun x =>
        { x with pre := taps.1, post := taps.2, preAct := taps.1, postAct := taps.2, preset := some preset, answer := 1 }
    else modTx s sd p fun x => { x with answer := 2 }

/-! ### Preset search (R181) -/

/-- The search moves on to the next preset, or to its last request, or ends. -/
def searchNext (n : Search) : Search :=
  if n.preset != 15 then { n with preset := n.preset + 1, acked := false }
  else match n.best with
    | none => { n with running := false, done := true }
    | some b => { n with preset := b.1, final := true, acked := false }

/-- The best figure so far with that of the preset just tried; a tie leaves the lower preset. -/
def searchScore (n : Search) (fig : BitVec 15) : Search :=
  match n.best with
  | none => { n with best := some (n.preset, fig) }
  | some b => if b.2.toNat < fig.toNat then { n with best := some (n.preset, fig) } else n

def searchStep (n : Search) (fig : BitVec 15) : SearchEvent → Search
  | .ack => if n.final then { n with running := false, done := true, acked := true } else { n with acked := true }
  | .reject => if n.final then n else searchNext n
  | .timeout => if n.final then { n with running := false, done := true } else searchNext n
  | .dwellEnd => if n.acked then searchNext (searchScore n fig) else n

/-- The figure that R181 compares: width first, then height. -/
def eyeFigure (m : LaneMeas) : BitVec 15 := m.eyeW ++ m.eyeH

/-- A receiver's search goes on by an event. -/
def searchEvent (s : State) (sd : Side) (p : Pos) (o : SearchEvent) : State :=
  if (getLane s sd p).search.running then modLane s sd p fun n => { n with search := searchStep n.search (eyeFigure n.meas) o }
  else s

/-- The receiver is one that requests presets now, of a trained lane: its sweeps are training sweeps (R239), unless EQ_FIXED is
1. -/
def trainsSweep (s : State) (sd : Side) (p : Pos) : Bool :=
  match feeds s sd p with
  | some (l, k) =>
    isPart s l && requests (getLink s l).st sd && !(getLink s l).eqFixed && (trainedLanes s l).contains k
  | none => false

/-- The bits that a scan point compares (R234). -/
def scanBits (dwell : Nat) : Nat := 2 ^ (12 + 2 * dwell)

/-- PRE_STAT of a neighbour (R173): the answer to the request of the part's receiver of a lane, in the phase in which it asks.
DEDUCED (log entry 65): an ACK answers the request where it names the preset asked for; a REJECT answers whatever is asked. -/
def takeAnswer (s : State) (l : LinkNo) (sd : Side) (k : LLane) (sta : Byte) : State :=
  match if requests (getLink s l).st sd then laneRx s l sd.rxDir k else none with
  | none => s
  | some p =>
    let n := (getLane s sd p).search
    if n.acked then s
    else if sta.getLsbD 4 && sta.extractLsb' 0 4 == n.preset then searchEvent s sd p .ack
    else if sta.getLsbD 5 then searchEvent s sd p .reject
    else s

/-- Capabilities recorded in EXCHANGE (R184). -/
def recordCaps (s : State) (l : LinkNo) (sd : Side) : State :=
  let ok := mlaneAgrees s l
  let s := modLink s l fun k => { k with mlaneOk := ok, mlane := k.trainA.mlane.extractLsb' 0 4 }
  let t := sideTr (getLink s l) sd
  let s := if 8 ≤ t.capRun then
      modTr (modLink s l fun k => match sd with
        | .A => { k with capAB := t.cap }
        | .B => { k with capBA := t.cap }) l sd fun t => { t with capped := true }
    else s
  let s := modLink s l fun k => { k with epochOk := k.capAB.getLsbD 3 && k.capBA.getLsbD 3 }
  let k := getLink s l
  if k.trainA.capped && k.trainB.capped then
    modLink s l fun k => { k with capLink := k.capAB &&& k.capBA &&& ownCaps s l }
  else s

/-! ### What the part sends in its place (R170 to R176) -/

/-- The request that a receiver of the part makes of its neighbour. -/
def requestByte (n : Lane) : Byte :=
  if n.search.running then 0x10 ||| n.search.preset.setWidth 8 else 0

/-- The status of a transmitter of the part. -/
def statusByte (n : Lane) : Byte :=
  (match n.tx.preset with | some p => p.setWidth 8 | none => 0x40) ||| (n.tx.answer.setWidth 8 <<< 4)

/-- The set sent on lane k of a direction in place of t. -/
def rewriteTos (s : State) (l : LinkNo) (d : Dir) (k : LLane) (t : Tos) : Tos :=
  let out := d.txSide
  let x := getLink s l
  if isTosA t then
    let rates : Byte := match linkRec s l with | some r => (r.rates &&& 0x3F).setWidth 8 | none => 0
    let t := tosPut t 4 (BitVec.ofNat 8 (min (tosAt t 4).toNat (usableWidth s l d)))
    let t := tosPut t 5 (tosAt t 5 &&& rates)
    let t := if d = .AB then tosPut t 6 ((tosAt t 6 &&& 0xFC) ||| (indexOf ((tosAt t 6).extractLsb' 0 2)).setWidth 8) else t
    if ownAligned s l then t else tosPut t 7 (tosAt t 7 &&& 0xFE)
  else
    let t := if ownEqDone s l then t else tosPut t 4 (tosAt t 4 &&& 0xFB)
    let phase := x.st == .eq1 || x.st == .eq2
    let req := match laneRx s l d.other k with
      | some p => requestByte (getLane s out p)
      | none => 0
    let sta := match laneTx s l d k with
      | some p => statusByte (getLane s out p)
      | none => 0
    let t := tosPut t 5 (if phase then req else 0)
    let t := tosPut t 6 (if phase then sta else sta &&& 0x4F)
    let t := tosPut t 7 (tosAt t 7 &&& ownCaps s l)
    let t := if ownLocked s l then t else tosPut t 9 (tosAt t 9 &&& 0xFE)
    if ownExchDone x then t else tosPut t 9 (tosAt t 9 &&& 0xFD)

/-- What the part puts in the places of a set that it sends as `out` where it received t: nothing where it rewrites no field,
the whole set otherwise, with every other position as received and a balance symbol of its own (R170). -/
def tosPlan (t out : Tos) : List (Option Sym) :=
  if out = t then List.replicate 16 none else (orderedSet (k28 6) out.pos.toList).map some

/-- The set that goes on in the direction, with what the part rewrites in it. -/
def putSet (s : State) (l : LinkNo) (sd : Side) (k : LLane) (t out : Tos) : State :=
  let s := modTr s l sd fun x => { x with sent := some out }
  match laneRx s l sd.rxDir k with
  | some p => planSet s sd p (tosPlan t out)
  | none => s

def sendTos (s : State) (l : LinkNo) (sd : Side) (k : LLane) (t : Tos) : State :=
  if setForwards s l sd k then putSet s l sd k t (rewriteTos s l sd.rxDir k t) else s

/-! ### The states follow -/

/-- Both sides have shown training sets at the link rate on logical lane 0 (DETECT, RETRAIN). -/
def bothSeen (s : State) (l : LinkNo) : Bool :=
  let k := getLink s l
  k.rate != 0 && k.trainA.seen && k.trainB.seen

/-- The receiver of a lane on a side holds the link's rate, as far as it shows one. -/
def atLinkRate (s : State) (l : LinkNo) (sd : Side) (k : LLane) : Bool :=
  match laneRx s l sd.rxDir k with
  | some p => let c := (getLane s sd p).rx.rate; (getLink s l).rate != 0 && (c == 0 || c == (getLink s l).rate)
  | none => false

/-- A training set on logical lane 0 in DETECT or RETRAIN. -/
def seenTos (s : State) (l : LinkNo) (sd : Side) (k : LLane) : State :=
  if k.val ≠ 0 then s
  else
    let s := modTr (modLink s l fun x => { x with rateOld := false }) l sd fun x => { x with seen := true }
    let ready := bothSeen s l && ((getLink s l).st == .retrain || (1 ≤ (getLink s l).detwA.toNat && 1 ≤ (getLink s l).detwB.toNat))
    if ready then enterAlign s l else s

/-- The moves of Table 6-5 that a TOS-B makes. DESIGN CHOICE (log entry 70): the move from TRAIN.ALIGN to LOCK by EQ_SKIP asks
for no number of sets with ALIGNED = 1. -/
def advance06 (s : State) (l : LinkNo) : State :=
  let k := getLink s l
  let both := fun p : BitVec 2 => k.trainA.eqPhase == p && k.trainB.eqPhase == p
  match k.st with
  | .align =>
    if k.trainA.eqSkip && k.trainB.eqSkip && both 3 then enterLock s l
    else if 8 ≤ k.trainA.alignRun && 8 ≤ k.trainB.alignRun && both 1 then enterEq1 s l
    else s
  | .eq1 => if both 2 then enterEq2 s l else s
  | .eq2 => if both 3 then enterLock s l else s
  | .lock => if 8 ≤ k.trainA.lockRun && 8 ≤ k.trainB.lockRun then enterExchange s l else s
  | _ => s

/-- LOOPBACK is due: the sets of a request have left the part (R187). Where both sides have asked by then it is side A's (R190;
log entry 68). -/
def loopbackDue (s : State) (l : LinkNo) : Option Side :=
  let k := getLink s l
  if k.lpbkDue.isSome && 8 ≤ k.trainA.lpbkRun then some .A else k.lpbkDue

/-- A link in a training state whose LOOPBACK is due enters it. -/
def requestLoops (s : State) (l : LinkNo) : State :=
  match loopbackDue s l with
  | none => s
  | some sd =>
    if isPart s l && !([TrainState.loopback, .disabled, .notTraining, .detect].contains (getLink s l).st) then enterLoopback s l sd
    else modLink s l fun k => { k with lpbkDue := none }

/-- A TOS-A received in a training state of a Participating link. -/
def tosAIn (s : State) (l : LinkNo) (sd : Side) (k : LLane) (t : Tos) : State :=
  let st := (getLink s l).st
  let s := if st == .detect || st == .retrain then seenTos s l sd k else s
  let s := if (getLink s l).st == .align then takeHops s l sd.rxDir (tosAt t 6) else s
  sendTos (readTosA s l sd k t) l sd k t

/-- A TOS-B received in a training state of a Participating link. -/
def tosBIn (s : State) (l : LinkNo) (sd : Side) (k : LLane) (t : Tos) : State :=
  let st := (getLink s l).st
  let s := if st == .detect || st == .retrain then seenTos s l sd k else s
  let s := readTosB s l sd k t
  let s := takeAnswer (answerRequest s l sd k (tosAt t 5)) l sd k (tosAt t 6)
  let s := if (getLink s l).st == .exchange then recordCaps s l sd else s
  advance06 (sendTos s l sd k t) l

/-- The places of a set that goes no further are those of a set still: its symbols are no traffic (Table 6-5). -/
def holdSet (s : State) (l : LinkNo) (sd : Side) (k : LLane) : State :=
  match laneRx s l sd.rxDir k with
  | some p => planSet s sd p (List.replicate 16 none)
  | none => s

/-- TRAINING_SET_RECEIVED (R168, R171, R185): a set on a lane with SYM_LOCK, at the link's rate (R190), of a Participating link
that is JOINED. One of another TYPE goes on as received. -/
def trainingSet (s : State) (l : LinkNo) (sd : Side) (k : LLane) (t : Tos) : State :=
  if !isPart s l || (getLink s l).join != .joined || !laneSym s l sd.rxDir k || !atLinkRate s l sd k then s
  else
    let s := holdSet s l sd k
    if !(isTosA t || isTosB t) then (if setForwards s l sd k then putSet s l sd k t t else s)
    else match (getLink s l).st with
    | .active =>
      if isTosA t && (trainedLanes s l).contains k then tosAIn (enterRetrain s l) l sd k t else s
    | .sleepAB | .sleepBA | .deep => if isTosA t then tosAIn (enterRetrain s l) l sd k t else s
    | .loopback | .disabled | .notTraining => s
    | _ => if isTosA t then tosAIn s l sd k t else tosBIn s l sd k t

/-- The LAST_FAIL of a state that times out (Tables 6-5, 6-11); none for a state without a timeout. -/
def timeoutCause (s : State) (l : LinkNo) : Option (BitVec 4) :=
  let k := getLink s l
  let ts := [k.trainA, k.trainB]
  match k.st with
  | .align =>
    if k.index == 3 then some 9
    else if ts.any fun t => t.seen && !t.laneOk.getLsbD 0 then some 3
    else if ts.any fun t => t.seen && !t.skewOk then some 2
    else some 1
  | .eq1 => some 4
  | .eq2 => some 5
  | .lock => some 6
  | .exchange => some 7
  | .retrain => some (if k.rateBad then 0xA else 8)
  | _ => none

/-! ### Rate (R132, R174) -/

/-- A rate detected on logical lane 0 of a Participating link in DETECT or RETRAIN (R174): the first that is detected there, and
in RETRAIN in place of the rate kept from before, as long as no training set has come at that. -/
def takeLinkRate (s : State) (l : LinkNo) (c : BitVec 3) : State :=
  match linkRec s l with
  | none => s
  | some r =>
    if (getLink s l).rate != 0 && !(getLink s l).rateOld then s
    else if rateServed s.last.working r c then modLink s l fun k => { k with rate := c, rateBad := false, rateOld := false }
    else logK (modLink s l fun k => { k with rateBad := true }) 0x0403 l [c.setWidth 8]

/-- A receiver shows a detected rate; the link takes it up where it may. -/
def rateSeen (s : State) (sd : Side) (p : Pos) (c : BitVec 3) : State :=
  let s := modRx s sd p fun n => { n with rate := c }
  match whoRx s sd p with
  | some (.lane l k) =>
    if isPart s l then
      if k.val = 0 && (getLink s l).join == .joined && ((getLink s l).st == .detect || (getLink s l).st == .retrain) then
        takeLinkRate s l c
      else s
    else if isAuto s l && k.val = 0 && recIs s l (rateAllowed · c) then modLink s l fun x => { x with rate := c }
    else s
  | _ => s

/-! ### Low power (R219 to R222) -/

def lpIx : LpState → Fin 3
  | .sleepAB => 0
  | .sleepBA => 1
  | .deep => 2

/-- A low-power state is negotiated (R219): a grant within 1 ms, the capability, no swap. -/
def negotiated (s : State) (l : LinkNo) (x : LpState) : Bool :=
  let k := getLink s l
  k.swap.isNone && k.capLink.getLsbD (if x = .deep then 2 else 1) &&
    match k.grants[lpIx x] with
    | some t => decide (s.time.elapsed - t ≤ 20000000)
    | none => false

/-- The receivers of a direction, its spares among them, stop following their input: signal detect alone, adaptation kept
(Table 7-6). -/
def sleepDir (s : State) (l : LinkNo) (d : Dir) : State :=
  match linkRec s l with
  | none => s
  | some r =>
    ((lanesOf r).filterMap (homeRx s.last.working r d) ++ bothSpares.filterMap (spareRx s.last.working r d)).foldl
      (fun t p => dropCdr t d.rxSide p) s

def sleepState : Dir → TrainState
  | .AB => .sleepAB
  | .BA => .sleepBA

def sleepOf : Dir → LpState
  | .AB => .sleepAB
  | .BA => .sleepBA

/-- A direction of the link sleeps and has not begun to wake (R221, R222). -/
def sleepsNow (k : Link) (d : Dir) : Bool :=
  match k.st with
  | .sleepAB => d == .AB && k.waking != some .A
  | .sleepBA => d == .BA && k.waking != some .B
  | .deep => k.waking.isNone
  | _ => false

/-- Every trained lane of a direction that is not lost has SYM_LOCK: only there is an ordered set recognised (R168). -/
def setsSeen (s : State) (l : LinkNo) (d : Dir) : Bool :=
  (trainedLanes s l).all fun k => isLost s l d k || laneSym s l d k

/-- An idle-entry set and electrical idle on every trained lane of a direction (R185, R221). -/
def idleEntry (s : State) (l : LinkNo) (d : Dir) : State :=
  let k := getLink s l
  let deep := negotiated s l .deep
  if k.st == .active then
    if deep || negotiated s l (sleepOf d) then sleepDir (modLink s l fun x => { x with st := sleepState d, deepFirst := true }) l d
    else
      let s := enterRetrain s l
      if isLoopTimed s l then s else modLink s l fun x => { x with rate := 0 }
  else if k.st == sleepState d.other then
    if deep && k.deepFirst then sleepDir (modLink s l fun x => { x with st := .deep, deepFirst := false }) l d
    else
      let s := enterRetrain s l
      if isLoopTimed s l then s else modLink s l fun x => { x with rate := 0 }
  else s

/-- A waking link is ACTIVE once every lane of the waking directions that is not lost has SYM_LOCK; after a class T commit in
DEEP a retrain request takes the place of that entry (R121, R222). -/
def wakeDone (s : State) (l : LinkNo) : State :=
  let k := getLink s l
  let up := setsSeen s l
  let go :=
    match k.st with
    | .sleepAB => k.waking == some .A && up .AB
    | .sleepBA => k.waking == some .B && up .BA
    | .deep => k.waking.isSome && up .AB && up .BA
    | _ => false
  if !go then s
  else
    let s := modLink s l fun x => { x with waking := none, deepWake := false, exitRetrain := false }
    if k.exitRetrain then requestRetrain s l
    else
      let s := checkRecovered (modLink s l fun x => { x with st := .active }) l
      if (getLink s l).pend == .switched then setResult s l resRetrained else s

end Sys2Proof.Machine
end

