-- ==== Sys2Proof/Machine/NvmOps.lean ====
section
/-! DEFINITION. The NVM (15): units, headers, erases, the log, and what a cut leaves behind. -/

namespace Sys2Proof.Machine

/-! ### Units and headers -/

def NvmSt.cell (n : NvmSt) (u : Nat) : NvmCell := tabGet .erased u n.cells
/-- A unit written anew: its code is sound again. -/
def NvmSt.setCell (n : NvmSt) (u : Nat) (c : NvmCell) : NvmSt :=
  { n with cells := tabSet .erased u c n.cells, upsets := tabSet .clean u .clean n.upsets }

def freshHead : SecHdr := ⟨0, false, true⟩
def NvmSt.head (n : NvmSt) (sec : Nat) : SecHdr := tabGet freshHead sec n.heads
def NvmSt.setHead (n : NvmSt) (sec : Nat) (h : SecHdr) : NvmSt := { n with heads := tabSet freshHead sec h n.heads }

/-- The unit and the sector of an offset. -/
def unitNo (off : Nat) : Nat := off / 16
def sectorNo (off : Nat) : Nat := off / 4096

/-- NVMSTAT.RETIRED, and the log sectors still in the ring. -/
def NvmSt.retired (n : NvmSt) : List Nat := (n.heads.filter fun h => h.2.retired).map Prod.fst
def inLog (sec : Nat) : Bool := 50 ≤ sec && sec < 114
def NvmSt.live (n : NvmSt) : Nat := 64 - (n.retired.filter inLog).length

/-- Sixteen bytes of all ones are an erased unit. -/
def cellOf (bs : List Byte) : NvmCell := if bs.all (· == 0xFF) then .erased else .data bs

/-! ### Reads (R423, R424, R439) -/

/-- What a unit reads as. -/
inductive UnitRead where
  | erased
  | data (bytes : List Byte)
  | bad
  deriving DecidableEq, Repr

def UnitRead.bytes : UnitRead → List Byte
  | .data b => b
  | _ => List.replicate 16 0xFF

def stepCe (s : State) : State := { s with nvm := { s.nvm with ce := satInc s.nvm.ce } }

/-- One unit of the main array read: what it reads as, whether a bit was corrected, and the state with the correction
counted and an uncorrectable unit's offset kept. A torn unit reads as the free values say this time (R439). -/
def readUnit (s : State) (u : Nat) : UnitRead × Bool × State :=
  let bad := fun t : State => { t with nvm := { t.nvm with addr := BitVec.ofNat 20 (16 * u), addrOk := true } }
  match s.nvm.cell u with
  | .torn =>
    let f := s.free
    let s := (useFree s).2
    let fixed := Config.tornFixed f
    if Config.tornKind f = 2 then (.bad, false, bad s)
    else
      let r := if Config.tornKind f = 0 then UnitRead.erased else .data (bytesLE 16 (Config.tornData f).toNat)
      (r, fixed, if fixed then stepCe s else s)
  | c =>
    let r := match c with
      | .data b => UnitRead.data b
      | _ => .erased
    match tabGet .clean u s.nvm.upsets with
    | .clean => (r, false, s)
    | .corrected => (r, true, stepCe s)
    | .uncorrectable => (.bad, false, bad s)

/-- One unit of the OTP area (R438): the identity; past it factory data that the spec does not state, or erased. -/
def readOtp (s : State) (u : Nat) : UnitRead × Bool × State :=
  let r : UnitRead := if u < 2 then .data (bytesAt s.nvm.otp (16 * u) 16)
    else match Config.otpUnit u with
      | some v => .data (bytesLE 16 v.toNat)
      | none => .erased
  match tabGet .clean u s.nvm.otpUpsets with
  | .clean => (r, false, s)
  | .corrected => (r, true, stepCe s)
  | .uncorrectable => (.bad, false, { s with nvm := { s.nvm with addr := BitVec.ofNat 20 (16 * u), addrOk := true } })

/-- The bytes of n units from a unit on; none where one of them cannot be corrected. -/
def readUnits : Nat → State → Nat → Option (List Byte) × State
  | 0, s, _ => (some [], s)
  | n + 1, s, u =>
    match readUnit s u with
    | (.bad, _, s) => (none, s)
    | (r, _, s) =>
      match readUnits n s (u + 1) with
      | (some b, s) => (some (r.bytes ++ b), s)
      | (none, s) => (none, s)

/-- The units of a list read one after another, each with what it reads as. -/
def readAll : List Nat → State → List (Nat × UnitRead) × State
  | [], s => ([], s)
  | u :: us, s =>
    let r := readUnit s u
    let q := readAll us r.2.2
    ((u, r.1) :: q.1, q.2)

/-- The units of the sectors that f picks that may hold something: every other one is erased, with its code sound. -/
def usedUnits (n : NvmSt) (f : Nat → Bool) : List Nat :=
  ((n.cells.map (·.1) ++ n.upsets.map (·.1)).filter fun u => f (u / 256)).eraseDups

/-! ### Protection (R437) -/

/-- A Job may not erase or program the sector. -/
def protectedSec (s : State) (sec : Nat) : Bool :=
  let wp := s.nvm.wp
  if sec < 16 then true
  else if sec < 32 then wp.getLsbD 0
  else if sec < 48 then wp.getLsbD 1
  else if sec < 114 then true
  else if sec < 146 then wp.getLsbD 2
  else wp.getLsbD 3

/-! ### The log (R432 to R436) -/

/-- The first unit of the log's place. -/
def logUnit (n : NvmSt) : Nat := n.logSector * 256 + n.logSlot * 2

/-- The programs of the part's own have ended. DESIGN CHOICE (log entry 87): they go on until NVM_UNIT_PROGRAMMED ends them, or
the engine's next command finds them ended. -/
def ownDone (s : State) : State := { s with nvm := { s.nvm with own := [] } }

/-- One record programmed at the log's place, both units, and the place moved on. DESIGN CHOICE (log entry 87): in a full sector,
where the ring has no erased one to move to, a wear record finds no place and is lost. -/
def logPut (s : State) (code : BitVec 16) (ctx : Ctx) (dtime : BitVec 64) (data : List Byte) : State :=
  let n := s.nvm
  if 128 ≤ n.logSlot then s
  else
    let b := (EvRec.mk n.logSeq code ctx dtime (padTo 12 data)).bytes
    let u := logUnit n
    let n := (n.setCell u (cellOf (b.take 16))).setCell (u + 1) (cellOf (b.drop 16))
    { s with nvm := { n with logSeq := n.logSeq + 1, logSlot := n.logSlot + 1, own := n.own ++ [.unit u, .unit (u + 1)] } }

/-- A wear record with its sector and count. -/
def wearData (sec : Nat) (result : Byte) (count : Nat) : List Byte := bytesLE 2 sec ++ [result, 0] ++ bytesLE 4 count

/-- The log sectors in the order of the ring, from the one after sec on. -/
def logRing (sec : Nat) : List Nat := (List.range 64).map fun i => 50 + (sec - 50 + 1 + i) % 64

/-- The next log sector of the ring that is not retired. -/
def nextLog (n : NvmSt) (sec : Nat) : Nat := ((logRing sec).find? fun t => !(n.head t).retired).getD sec

/-- Every unit of a sector is erased, and no erase of it is unfinished. -/
def sectorErased (n : NvmSt) (sec : Nat) : Bool := !n.dirty.contains sec && n.cells.all fun c => c.1 / 256 != sec

/-- The erased sector that follows in the ring (R434). -/
def nextErased (n : NvmSt) (sec : Nat) : Option Nat :=
  (logRing sec).find? fun t => t != sec && !(n.head t).retired && sectorErased n t

/-- Every unit of a sector indeterminate: an erase of it has begun and has not both completed and verified. The spec
states no content there (log entry 12). -/
def tearSector (n : NvmSt) (sec : Nat) : NvmSt := (List.range 256).foldl (fun n i => n.setCell (256 * sec + i) .torn) n

/-- The erase of a sector begins: the sector is dirty (R429). -/
def markBegun (s : State) (sec : Nat) : State :=
  let n := tearSector s.nvm sec
  { s with nvm := { n with dirty := numSet sec n.dirty, suspended := false, forJob := false, own := [] } }

/-- Up to n of the dirty sectors that are still to be marked have their DIRTY_MARK. -/
def writeMarks : Nat → State → State
  | 0, s => s
  | n + 1, s =>
    match s.nvm.marks with
    | [] => s
    | sec :: r => writeMarks n (logPut { s with nvm := { s.nvm with marks := r } } 0xFF03 0 s.time.dtime (wearData sec 0 0))

/-- The full log sector gives way (R434): the log moves to the erased one and marks the dirty sectors, and the erase of the
oldest is due. DESIGN CHOICE (log entry 81): of more than 64 dirty sectors the others are marked by later NVM_LOG_WRITEs. -/
def rotateLog (s : State) : State :=
  let s := { s with nvm := { s.nvm with eraseDue := true } }
  match nextErased s.nvm s.nvm.logSector with
  | none => s
  | some next =>
    writeMarks 64 { s with nvm := { s.nvm with
      logSector := next, logSlot := 0, marks := if s.nvm.marks.isEmpty then s.nvm.dirty else s.nvm.marks } }

/-- A record written to the log; a sector that it fills gives way. -/
def writeLog (s : State) (code : BitVec 16) (ctx : Ctx) (dtime : BitVec 64) (data : List Byte) : State :=
  let s := logPut s code ctx dtime data
  if 128 ≤ s.nvm.logSlot then rotateLog s else s

/-- The engine has no Job and no erase. -/
def engineIdle (s : State) : Bool := s.units.nvm.isNone && s.units.held.isNone && s.nvm.logErase.isNone

/-- The erase of the oldest log sector begins (R434). -/
def beginLogErase (s : State) : State :=
  let old := nextLog s.nvm s.nvm.logSector
  let s := { s with nvm := { s.nvm with eraseDue := false } }
  if old = s.nvm.logSector then s
  else
    let s := markBegun (logPut s 0xFF01 0 s.time.dtime (wearData old 0 (s.nvm.head old).count)) old
    { s with nvm := { s.nvm with logErase := some old } }

/-- The part keeps a log sector erased (R434): its erase begins where it is due, or where the sector that follows is not erased,
while the engine has no Job (R436). DEDUCED (log entry 97): so it is erased again after a verify that fails, after a reset that
has cut its erase, and where a retired one is skipped. -/
def tendLog (s : State) : State :=
  let next := nextLog s.nvm s.nvm.logSector
  if engineIdle s && (s.nvm.eraseDue || !sectorErased s.nvm next) then beginLogErase s else s

/-! ### Erases (R429, R430) -/

/-- The erase of a sector begins, with its ERASE_BEGIN. -/
def beginErase (s : State) (sec : Nat) : State :=
  markBegun (writeLog s 0xFF01 0 s.time.dtime (wearData sec 0 (s.nvm.head sec).count)) sec

/-- All units of a sector erased. -/
def clearSector (n : NvmSt) (sec : Nat) : NvmSt :=
  { n with
    cells := n.cells.filter fun c => c.1 / 256 != sec
    upsets := n.upsets.filter fun u => u.1 / 256 != sec }

/-- The erase of a sector ends, with its ERASE_END, then its header; a verify that fails leaves it dirty. -/
def endErase (s : State) (sec : Nat) (ok : Bool) : State :=
  let count := (s.nvm.head sec).count + 1
  let was := (s.nvm.head sec).retired
  let s := if ok then { s with nvm := { clearSector s.nvm sec with dirty := numClear sec s.nvm.dirty } } else s
  let s := writeLog s 0xFF02 0 s.time.dtime (wearData sec (if ok then 0 else 1) count)
  let gone := 100000 ≤ count
  let s := { s with nvm := { s.nvm.setHead sec ⟨count, gone, true⟩ with own := s.nvm.own ++ [.head sec] } }
  if gone && !was then logEvent s 0x0A02 0 (bytesLE 2 sec) else s

/-! ### The engine -/

/-- The part may use the engine for the log: it has no Job, or the erase that has it is suspended (R436). -/
def logMayWrite (s : State) : Bool :=
  match s.units.nvm with
  | none => s.nvm.logErase.isNone || s.nvm.suspended
  | some j => s.nvm.suspended && (match j.prog with | .nvmErase true _ => true | _ => false)

/-- An erase is under way: a Job's that has begun a sector, or the log's. -/
def eraseRuns (s : State) : Bool :=
  s.nvm.logErase.isSome || (match s.units.nvm with
    | some j => (match j.prog with | .nvmErase true _ => true | _ => false)
    | none => false)

/-- NVMSTAT.BUSY and OP: a program of the part's own, and an erase of the log that runs, has the engine, whatever Job waits for it
(R436). -/
def nvmOp (s : State) : BitVec 2 :=
  if !s.nvm.own.isEmpty then 2
  else if s.nvm.logErase.isSome && !s.nvm.suspended then 3
  else match s.units.nvm with
  | some j =>
    if j.result.isSome then 0
    else if j.entry.opcode = opNvmRead then 1
    else if j.entry.opcode = opNvmProgram then 2
    else if s.nvm.suspended then 0 else 3
  | none => 0

/-! ### Cuts and boot (R431, R433, R439) -/

/-- What the operation in progress leaves behind as power or RESET_N cuts it: the unit in progress torn; the sector in
progress dirty, its header good or not as a free value says. -/
def cutNvm (s : State) : State :=
  let s := cutOwn s
  let s := match s.nvm.logErase with
    | some sec => cutSector s sec
    | none => s
  match s.units.nvm, s.units.held with
  | some j, h =>
    let s := match j.prog with
      | .nvmBuf data =>
        if j.result.isSome || data.length < j.entry.u32 8 || cellOf ((data.drop j.done).take 16) == .erased then s
        else { s with nvm := s.nvm.setCell (unitNo (j.entry.u32 4 + j.done)) .torn }
      | .nvmErase true _ => cutSector s (j.entry.u16 4 + j.done)
      | _ => s
    match h with
    | some h => cutSector s (h.entry.u16 4 + h.done)
    | none => s
  | none, some h => cutSector s (h.entry.u16 4 + h.done)
  | none, none => s
where
  /-- Of the part's own programs those before the one in progress have ended, it is cut, and those after it have not begun. -/
  cutOwn (s : State) : State :=
    let ps := s.nvm.own
    let k := Config.cutAt s.free % ps.length
    if ps.isEmpty then s
    else ps.zipIdx.foldl (fun t q => if q.2 < k then t else cutProg t q.1 (q.2 == k)) (useFree s).2
  cutProg (s : State) (p : OwnProg) (now : Bool) : State :=
    match p with
    | .unit u => { s with nvm := s.nvm.setCell u (if now then .torn else .erased) }
    | .head sec =>
      let h := s.nvm.head sec
      if now then { (useFree s).2 with nvm := s.nvm.setHead sec { h with good := Config.tornKind s.free != 2 } }
      else { s with nvm := s.nvm.setHead sec { h with good := false } }
  cutSector (s : State) (sec : Nat) : State :=
    let f := s.free
    let s := (useFree s).2
    let h := s.nvm.head sec
    { s with nvm := { s.nvm.setHead sec { h with good := Config.tornKind f != 2 } with dirty := numSet sec s.nvm.dirty } }

/-- A record of the log: the unit that it begins at, and its bytes. -/
abbrev LogRec := Nat × List Byte

/-- The records among units as they were read: both units hold data, and the CHECK passes (R432). -/
def recordsOf (rs : List (Nat × UnitRead)) : List LogRec :=
  rs.filterMap fun q => match q.2, (rs.find? fun r => r.1 == q.1 + 1).map (·.2) with
    | .data a, some (.data b) =>
      if q.1 % 2 = 0 ∧ leAt (a ++ b) 0x1C 4 = (crc32 ((a ++ b).take 28)).toNat then some (q.1, a ++ b) else none
    | _, _ => none

/-- The log read at boot (R432, R433): the records that pass their CHECK. -/
def readLog (s : State) : List LogRec × State :=
  let r := readAll (usedUnits s.nvm inLog) s
  (recordsOf r.1, r.2)

/-- The record of the highest SEQ. -/
def newestRec (rs : List LogRec) : Option LogRec :=
  rs.foldl (fun m r => match m with
    | some x => if leAt x.2 0 4 < leAt r.2 0 4 then some r else some x
    | none => some r) none

/-- A record is an ERASE_BEGIN of a sector (Table 15-5). -/
def isBegin (sec : Nat) (r : LogRec) : Bool := leAt r.2 4 2 == 0xFF01 && leAt r.2 0x10 2 == sec

/-- The newest ERASE_BEGIN of a sector, or the highest COUNT of any valid header, gives a lost header's COUNT (R431). -/
def restoredCount (n : NvmSt) (rs : List LogRec) (sec : Nat) : Nat :=
  match newestRec (rs.filter (isBegin sec)) with
  | some r => leAt r.2 0x14 4 + 1
  | none => (n.heads.filter fun h => h.2.good).foldl (fun m h => max m h.2.count) 0

/-- Every header that is erased or fails its CHECK is restored. -/
def restoreHeads (s : State) (rs : List LogRec) : State :=
  ((s.nvm.heads.filter fun h => !h.2.good).map Prod.fst).foldl (fun t sec =>
    let count := restoredCount t.nvm rs sec
    let n := t.nvm.setHead sec ⟨count, decide (100000 ≤ count), true⟩
    let t := { t with nvm := { n with
      dirty := numSet sec n.dirty, restored := numSet sec n.restored, own := n.own ++ [.head sec] } }
    logEvent t 0x0A03 0 (bytesLE 2 sec ++ [0, 0] ++ bytesLE 4 count)) s

/-- The first slot of a sector from slot k on whose units are both erased; 128 where there is none. -/
def erasedSlot (n : NvmSt) (sec k : Nat) : Nat :=
  (((List.range 128).drop k).find? fun i =>
    n.cell (sec * 256 + 2 * i) == .erased && n.cell (sec * 256 + 2 * i + 1) == .erased).getD 128

/-- Where the log goes on (R433): one above the highest SEQ of a record that passes its CHECK, in the first erased slot after it.
DESIGN CHOICE (log entry 51): with no such record it begins with SEQ 0, in the first erased slot of sector 50. -/
def placeLog (s : State) (rs : List LogRec) : State :=
  let n := s.nvm
  let s := match newestRec rs with
    | some r =>
      let sec := r.1 / 256
      { s with nvm := { n with
        logSeq := BitVec.ofNat 32 (leAt r.2 0 4 + 1), logSector := sec, logSlot := erasedSlot n sec (r.1 % 256 / 2 + 1) } }
    | none => { s with nvm := { n with logSeq := 0, logSector := 50, logSlot := erasedSlot n 50 0 } }
  if 128 ≤ s.nvm.logSlot then rotateLog s else s

/-- What the part does with its NVM at boot: it reads the log, restores headers, and goes on with the log (R431 to R434). -/
def bootNvm (s : State) : State :=
  let r := readLog s
  tendLog (placeLog (restoreHeads r.2 r.1) r.1)

end Sys2Proof.Machine
end

