-- ==== Sys2Proof/Machine/CalRecord.lean ====
section
/-! DEFINITION. The calibration record: its layout, when a copy is valid, and when a write of it is due (R257 to R261). -/

namespace Sys2Proof.Machine

/-! ### The calibration record (R257, R258) -/

/-- The first unit of a copy: sector 48 for A, 49 for B. -/
def recordUnit (copyB : Bool) : Nat := if copyB then 49 * 256 else 48 * 256

def recordCheck (b : List Byte) : Word := crc32 (b.take 0x1C ++ zeros 4 ++ b.drop 0x20)

/-- The bytes of a position entry. -/
def recordEntry (q : Side × Pos) (c : LaneCal) : List Byte :=
  [laneId q.1 q.2, c.rxTerm.setWidth 8, c.txTerm.setWidth 8, c.txGain.setWidth 8, c.ofsD.signExtend 8,
    c.ofsE.signExtend 8, c.ofsO.signExtend 8, c.ctleTrim.setWidth 8, c.tRx, c.tTx] ++ zeros 6

/-- A copy as the part would write it now, with a sequence number. -/
def recordBytes (s : State) (seq : Nat) : List Byte :=
  let head := [0x57, 0x43, 0x41, 0x4C] ++ bytesLE 2 1 ++ bytesLE 2 0x1620 ++ bytesLE 4 seq ++ bytesLE 4 0x270 ++
    bytesAt s.nvm.otp 8 8 ++ bytesLE 2 s.cal.tjCal.toNat ++ bytesLE 2 (s.cal.rext - 19000)
  let body := bytesLE 2 s.cal.biasMain.toNat ++ bytesLE 2 s.cal.biasPll.toNat ++ zeros 12 ++
    allLanes.flatMap fun q => recordEntry q (getLane s q.1 q.2).cal
  let all := head ++ zeros 4 ++ body
  head ++ bytesLE 4 (recordCheck all).toNat ++ body

/-- Entry i of a copy. -/
def entryAt (b : List Byte) (i : Nat) : List Byte := bytesAt b (0x30 + 16 * i) 16

/-- A sampler offset within −63 to +63. -/
def offsetOk (b : Byte) : Bool := decide (-63 ≤ b.toInt) && decide (b.toInt ≤ 63)

/-- The fields of an entry are within their ranges. -/
def entryOk (q : Side × Pos) (e : List Byte) : Bool :=
  e.getD 0 0 == laneId q.1 q.2 && (e.getD 1 0).toNat < 32 && (e.getD 2 0).toNat < 32 && (e.getD 3 0).toNat < 64 &&
    offsetOk (e.getD 4 0) && offsetOk (e.getD 5 0) && offsetOk (e.getD 6 0) && (e.getD 7 0).toNat < 16

/-- The measured REXT lies within ±0.5 % of a stored one, both in tenths of an ohm. -/
def rextNear (measured stored : Nat) : Bool :=
  let d := if measured < stored then stored - measured else measured - stored
  decide (200 * d ≤ stored)

/-- Two codes that differ by one at most. -/
def within1 (x y : Nat) : Bool := decide (x ≤ y + 1) && decide (y ≤ x + 1)

/-- Every measured termination code lies within ±1 of the stored one. -/
def termsNear (m : CalMeas) (b : List Byte) : Bool :=
  m.terms.toList.zipIdx.all fun q =>
    within1 q.1.1.toNat ((entryAt b q.2).getD 1 0).toNat && within1 q.1.2.toNat ((entryAt b q.2).getD 2 0).toNat

/-- A copy is valid (R258). -/
def recordOk (s : State) (b : List Byte) (m : CalMeas) (bad : Bool) : Bool :=
  bytesAt b 0 4 == [0x57, 0x43, 0x41, 0x4C] && leAt b 4 2 == 1 && leAt b 6 2 == 0x1620 && leAt b 0xC 4 == 0x270 &&
    BitVec.ofNat 32 (leAt b 0x1C 4) == recordCheck b && bytesAt b 0x10 8 == bytesAt s.nvm.otp 8 8 &&
    leAt b 0x1A 2 ≤ 2000 && leAt b 0x20 2 ≤ 1023 && leAt b 0x22 2 ≤ 1023 &&
    (allLanes.zipIdx.all fun q => entryOk q.1 (entryAt b q.2)) &&
    (bad || (rextNear m.rext (19000 + leAt b 0x1A 2) && termsNear m b))

/-- A copy read from the NVM; none where a unit of it cannot be read. -/
def readRecord (s : State) (copyB : Bool) : Option (List Byte) × State := readUnits 39 s (recordUnit copyB)

/-- Trims from an entry. -/
def entryCal (e : List Byte) (c : LaneCal) : LaneCal :=
  { c with
    rxTerm := (e.getD 1 0).setWidth 5, txTerm := (e.getD 2 0).setWidth 5, txGain := (e.getD 3 0).setWidth 6
    ofsD := (e.getD 4 0).setWidth 7, ofsE := (e.getD 5 0).setWidth 7, ofsO := (e.getD 6 0).setWidth 7
    ctleTrim := (e.getD 7 0).setWidth 4, tRx := e.getD 8 0, tTx := e.getD 9 0 }

/-! ### When a write is due (R261) -/

/-- Two numbers at least two apart. -/
def apart (x y : Int) : Bool := decide (2 ≤ (x - y).natAbs)

/-- A background recalibration has left some trim at least two codes from its value in a copy. -/
def trimLeft (s : State) (b : List Byte) : Bool :=
  allLanes.zipIdx.any fun q =>
    let c := (getLane s q.1.1 q.1.2).cal
    let e := entryCal (entryAt b q.2) c
    (c.leftRx.any fun x =>
      apart x.1.term.toNat e.rxTerm.toNat || apart x.1.ofsD.toInt e.ofsD.toInt || apart x.1.ofsE.toInt e.ofsE.toInt ||
        apart x.1.ofsO.toInt e.ofsO.toInt || apart x.2.toNat e.ctleTrim.toNat) ||
      c.leftTx.any fun x => apart x.term.toNat e.txTerm.toNat || apart x.gain.toNat e.txGain.toNat

/-- Twenty-four hours of powered time, in units of 50 ps. -/
def dayUnits : Nat := 1728000000000000

/-- The bytes of the copy in use. -/
def copyInUse (s : State) : List Byte :=
  match s.cal.inUse with
  | some c => ((readRecord s c).1).getD []
  | none => []

/-- CALSTAT.REC_PENDING: a record write is due by itself (R261, Table 9-8). DESIGN CHOICE (log entry 91): a write of the 24 h rule
that fails leaves it due, and with no copy in use the trims left are compared with zeros. -/
def recPending (s : State) : Bool :=
  s.cal.pending || s.cal.save ||
    (s.boot.done && !s.cal.rextBad && decide (dayUnits ≤ s.time.elapsed - s.cal.lastSave) && trimLeft s (copyInUse s))

end Sys2Proof.Machine
end

