-- ==== Sys2Proof/Machine/TmOps.lean ====
section
/-! DEFINITION. Telemetry and time (16): sequencers, the ADC, channels and their alarms, loads of DTIME. -/

namespace Sys2Proof.Machine

/-! ### Sequencers (R446 to R449) -/

def modSeqr (s : State) (n : SeqNo) (f : SeqrSt → SeqrSt) : State :=
  { s with tm := { s.tm with seqrs := vmod s.tm.seqrs n f } }

/-- What becomes of a trigger. -/
inductive Triggered where
  | ignored | dropped | held | started
  deriving DecidableEq, Repr

/-- A sequence of the sequencer's program begins; an idle ADC takes its first slot at once. -/
def startSeq (s : State) (n : SeqNo) : State :=
  let s := modSeqr s n fun q => { q with cur := q.prog, running := true, slot := 0 }
  if s.tm.conv.isNone then { s with tm := { s.tm with conv := some n, outs := 0 } } else s

/-- A trigger that is dropped steps TMMISS. -/
def missTrigger (s : State) (n : SeqNo) : State :=
  { s with tm := { s.tm with miss := vmod s.tm.miss n satInc } }

/-- One trigger of a sequencer (R446, R448, Table 16-2). -/
def trigger (s : State) (n : SeqNo) : Triggered × State :=
  let q := s.tm.seqrs[n]
  if !q.prog.on then (.ignored, s)
  else if q.hold then (.dropped, missTrigger s n)
  else if !q.running then (.started, startSeq s n)
  else if q.prog.policy && !q.pend then (.held, modSeqr s n fun q => { q with pend := true })
  else (.dropped, missTrigger s n)

/-- TELEMETRY Jobs that wait for a sequence of the sequencer see one end, and take its SLOTS. -/
def noteSeqEnd (s : State) (n : SeqNo) : State :=
  allMovers.foldl (fun t m => modJob t (.mover m) fun j =>
    match j.prog with
    | .tele (some k) _ =>
      if j.entry.u8 8 = n.val + 1 then { j with prog := .tele (some (k - 1)) s.tm.seqrs[n].cur.slots } else j
    | _ => j) s

/-- A slot of a sequencer has ended: the next of its sequence, or the end of it, with a held trigger's sequence. -/
def slotEnd (s : State) (n : SeqNo) : State :=
  let q := s.tm.seqrs[n]
  if q.slot + 1 < q.cur.slots then modSeqr s n fun q => { q with slot := q.slot + 1 }
  else
    let s := noteSeqEnd (modSeqr s n fun q => { q with running := false, slot := 0, pend := false }) n
    if q.pend then startSeq s n else s

/-- The sequencer that converts the slot after one of sequencer n (R447). -/
def nextConv (s : State) (n : SeqNo) : Option SeqNo :=
  let o : SeqNo := if n = 0 then 1 else 0
  if s.tm.seqrs[o].running then some o else if s.tm.seqrs[n].running then some n else none

/-! ### Channels (R445, R451, R452) -/

/-- A channel after a valid output, and which of its flags has just been set. -/
def channelOut (c : TmCh) (v : BitVec 16) : TmCh × Bool × Bool :=
  let x := v.toInt
  let hi := c.lim.2.toInt
  let lo := c.lim.1.toInt
  let up := decide (hi < x)
  let down := decide (x < lo)
  ({ c with
      value := v
      stale := false
      sample := c.sample + 1
      hi := up || (c.hi && decide (hi - 8 < x))
      lo := down || (c.lo && decide (x < lo + 8)) }, up && !c.hi, down && !c.lo)

/-- A valid output for channel k. -/
def channelValid (s : State) (k : Fin 12) (v : BitVec 16) : State :=
  let r := channelOut s.tm.ch[k] v
  let alarm := decide (r.1.lim.2.toInt < v.toInt) || decide (v.toInt < r.1.lim.1.toInt)
  let s := { s with tm := { s.tm with
    ch := vput s.tm.ch k r.1
    alarm := if alarm then s.tm.alarm ||| (1#12 <<< k.val) else s.tm.alarm } }
  let data := fun which : Byte => [BitVec.ofNat 8 k.val, 0] ++ bytesLE 2 v.toNat ++ [which]
  let s := if r.2.1 then logEvent s 0x0B01 0 (data 1) else s
  if r.2.2 then logEvent s 0x0B01 0 (data 2) else s

/-- Every channel is stale. -/
def staleAll (s : State) : State :=
  { s with tm := { s.tm with ch := s.tm.ch.map fun c => { c with stale := true } } }

/-- The decimator restarts: its first two outputs are not settled (R444, R450, R270). -/
def resetDecimator (s : State) : State := { s with tm := { s.tm with outs := 0, decReset := true } }

/-- A self-calibration of the ADC begins: every output holds its value and is STALE; T0 is noted (R269, R270). -/
def startAdcCal (s : State) : State := staleAll { s with cal := { s.cal with adcCal := true, adcT0 := s.tm.ch[0].value } }

/-- T0 has moved by 10 °C or more since the last self-calibration (R269). -/
def adcDrifted (s : State) : Bool :=
  !s.cal.adcCal && !s.tm.ch[0].stale && decide (80 ≤ (s.tm.ch[0].value.toInt - s.cal.adcT0.toInt).natAbs)

/-- The slot in hand ends with its sample; while the ADC calibrates itself a slot that falls due passes without one
(R270). -/
def endSlot (s : State) (n : SeqNo) (v : BitVec 16) : State :=
  let q := s.tm.seqrs[n]
  let code := (q.cur.chan.toList.getD q.slot 0xFF).toNat
  let s := if h : code < 12 ∧ !s.cal.adcCal then channelValid s ⟨code, h.1⟩ v else s
  let s := slotEnd s n
  let s := { s with tm := { s.tm with lastConv := some n, conv := nextConv s n } }
  if adcDrifted s then startAdcCal s else s

/-- One output of the decimator (R444, R445). -/
def decimated (s : State) (v : BitVec 16) : State :=
  if s.dev.standby || s.boot.inReset then s
  else if s.tm.outs < 2 then { s with tm := { s.tm with outs := s.tm.outs + 1 } }
  else
    let s := { s with tm := { s.tm with outs := 0, decReset := s.tm.decReset && s.cal.adcCal } }
    match s.tm.conv with
    | none => s
    | some n => endSlot s n v

/-- The programs of the working Last loaded into the sequencers. -/
def loadPrograms (s : State) : State :=
  { s with tm := { s.tm with seqrs := Vector.ofFn fun n => { s.tm.seqrs[n] with prog := s.last.working.telem[n] } } }

/-! ### DTIME (R450, R455, R456) -/

/-- A load of DTIME. -/
def loadTime (s : State) : State :=
  let old := s.time.dtime
  let new := s.time.load
  let s := { s with time := { s.time with dtime := new, frac := 0, loaded := true } }
  logEvent s 0x0B02 0 (bytesLE 8 old.toNat ++ zeros 4 ++ bytesLE 8 new.toNat)

/-- A LOAD_NOW: none is made where a SYNC edge has loaded in this instant, which clears LOAD_ARM too (Table 16-4). -/
def loadNow (s : State) : State :=
  if s.time.edgeAt = some s.time.elapsed then { s with time := { s.time with loadArm := false } }
  else
    let t := loadTime s
    { t with time := { t.time with nowAt := some t.time.elapsed } }

/-- The load of a SYNC edge while LOAD_ARM is 1: none is made where LOAD_NOW has loaded in this instant (Table 16-4). -/
def edgeLoad (s : State) : State :=
  let s := { s with time := { s.time with loadArm := false } }
  if s.time.nowAt = some s.time.elapsed then s
  else
    let t := loadTime s
    { t with time := { t.time with edgeAt := some t.time.elapsed } }

/-- A rising edge of SYNC (R450); it triggers the captures that wait for one (R392). -/
def syncSeen (s : State) : State :=
  if s.time.syncDis || s.boot.inReset then s
  else
    let s := if s.time.loadArm then edgeLoad s else s
    let s := { s with time := { s.time with sync := s.time.dtime, edges := s.time.edges + 1 } }
    if s.dev.standby then s
    else
      let s := bothSides.foldl (fun t sd => capTrigger t sd 4 fun _ => some 0xFF) s
      let s := { s with tm := { s.tm with syncSeen := true } }
      let s := if s.cal.adcCal then s else resetDecimator s
      let s := staleAll s
      [(0 : SeqNo), 1].foldl (fun t n => if t.tm.seqrs[n].prog.trig = 1 then (trigger t n).2 else t) s

end Sys2Proof.Machine
end

