-- ==== Sys2Proof/Machine/Finish.lean ====
section
/-! DEFINITION. What follows from every command alike: a restart of the Heel that the command has made due (R469, R470), the
engine's return to a suspended erase (R402), and the NOTIFY that an asserted ATTN_N queues (R299). -/

namespace Sys2Proof.Machine

/-- A restart of the Heel (R470): its own Mover Job and recalibration end, its evaluations start anew. -/
def restartHeel (s : State) : State :=
  let s := allMovers.foldl (fun t m => match getUnit t (.mover m) with
    | some j => if j.wq.isNone then setUnit t (.mover m) none else t
    | none => t) s
  let s := abortRecal s
  let s := allLanes.foldl (fun t q => modMeas t q.1 q.2 fun m => { m with lowRun := 0 }) s
  { s with heel := { s.heel with restartDue := false }, cal := { s.cal with dueList := [] } }

/-- ATTN_N as it stands now; where it has become asserted, a NOTIFY is queued toward each partner that a context serves. -/
def watchAttn (s : State) : State :=
  let low := attnLow s
  let s := if low && !s.imc.attnWas then queueNotify (queueNotify s .A) .B else s
  { s with imc := { s.imc with attnWas := low } }

/-- A suspended erase has its engine back once the URGENT Job that took it has left (R402). -/
def unholdErase (s : State) : State :=
  if s.units.nvm.isNone && s.units.held.isSome then { s with units := { s.units with nvm := s.units.held, held := none } } else s

def fin (s : State) : State := watchAttn (unholdErase (if s.heel.restartDue then restartHeel s else s))

/-- The outcome of a command that has its effect. -/
def done (s : State) : Host.Outcome State Fault Refusal := .next (fin s)

end Sys2Proof.Machine
end

