-- ==== Sys2Proof/Machine/AwlOps.lean ====
section
/-! DEFINITION. What the Awl does to each Job (R411 to R417), a lane's test Jobs, and the end of DRAINING (R337). -/

namespace Sys2Proof.Machine

/-! ### Queues that have drained -/

/-- WQERR cleared and the held completion discarded (R339). -/
def clearWqErr (w : Wq) : Wq := { w with errIdx := 0, cause := 0, sub := 0, held := none, lost := 0 }

/-- A DRAINING queue of which no Job is running, pre-empted or parked is DISABLED. -/
def drainEnd (s : State) (q : WqNo) : State :=
  let w := getWq s q
  if w.code == .draining && inflight s q == 0 then
    modWq s q fun w =>
      let w := if w.clearAtOff then clearWqErr w else w
      { w with code := .disabled, clearAtOff := false, hdrDue := true }
  else s

/-! ### Register tests -/

/-- The register tests of a position end, and a point of LNSCAN (Table 14-6). True where there was a test. -/
def endRegTests (s : State) (sd : Side) (p : Pos) : Bool × State :=
  let m := (getLane s sd p).meas
  let any := m.genEn || m.chkEn || (m.loopMode != 0 && !m.loopPbl) || m.scanBusy
  if !any then (false, s)
  else
    let s := modMeas s sd p fun m =>
      let m := if m.loopPbl then { m with genEn := false } else { m.noLoop with genEn := false }
      let m := setSource m false
      m.abortPoint
    (true, logL s 0x0503 sd p [])

/-! ### One Job stopped -/

/-- The record of an entry that the Awl ends (R416): was is WAS, bytes the BYTES_DONE kept. -/
def abortEntry (s : State) (q : Option WqNo) (e : QEntry) (was bytes : Nat) : State :=
  match q with
  | some q => endEntry s q e stAborted (was + 256 * bytes)
  | none => s

def modAwl (s : State) (f : AwlSt → AwlSt) : State := { s with awl := f s.awl }

/-- What stopping the NVM engine leaves: the Job with its progress, NVM_ACTION and the offset it names. An erase is suspended, and
stays so (R428, Table 14-7). -/
def stopNvm (s : State) (j : Job) : Job × State :=
  if j.entry.opcode = opNvmProgram then
    match j.prog with
    | .nvmBuf data =>
      if j.entry.u32 8 ≤ j.done ∨ data.length < j.entry.u32 8 then (j, s)
      else
        let off := j.entry.u32 4 + j.done
        let s := { s with nvm := s.nvm.setCell (unitNo off) (cellOf ((data.drop j.done).take 16)) }
        ({ j with done := j.done + 16 }, modAwl s fun a => { a with nvmAct := 1, nvmOff := BitVec.ofNat 32 off })
    | _ => (j, s)
  else if j.entry.opcode = opNvmErase then
    match j.prog with
    | .nvmErase true _ =>
      let sec := j.entry.u16 4 + j.done
      let s := { s with nvm := { s.nvm with suspended := true } }
      (j, modAwl s fun a => { a with nvmAct := 2, nvmOff := BitVec.ofNat 32 (4096 * sec) })
    | _ => (j, s)
  else
    let f := s.free
    (j, modAwl (useFree s).2 fun a => { a with nvmAct := 3, nvmOff := Config.unstated f })

/-- A write of a Job's own that faults after the Awl has reached it: LOCK cleared, the fault latched, nothing parked (R416);
for a CAPTURE's header this is DEDUCED (log entry 78). -/
def faultSeen (s : State) (j : Job) (va : Nat) : State :=
  match writeBlocked s j.ctx va 64 with
  | some (cause, va) =>
    modAwl (latchJob (unlockEntry s j.ctx va) j.ctx cause true va) fun a => { a with faultSeen := true }
  | none => s

/-- The Job of a unit stopped under Table 14-6, before its record. -/
def stopUnit (s : State) (u : UnitId) (j : Job) : Job × State :=
  match u with
  | .mover _ => (j, dropStaging s j)
  | .nvm => stopNvm s j
  | .cap sd =>
    match j.prog with
    | .cap link arm rows now trig buf =>
      let kept := rows - buf.length / captureRowBytes (j.entry.u8 0x0D)
      let r := endCapture s sd { j with prog := .cap link arm kept now trig [] } 0 0 16
      let s := modAwl r.2 fun a => { a with capHdr := a.capHdr || r.1, capLost := a.capLost || !r.1 }
      (j, if r.1 then s else faultSeen s j (j.entry.u32 4))
    | _ => (j, s)
  | .lane sd p =>
    match j.prog with
    | .prbs _ _ _ _ _ _ => (j, if j.hold.isSome then s else prbsOff s sd p j.entry)
    | _ => (j, s)
  | .inband => (j, s)

/-- The IMC_SEND's MOS that has not begun no longer waits. -/
def dropSend (s : State) (j : Job) : State :=
  let seq : BitVec 12 := BitVec.ofNat 12 j.entry.tag
  let typ : BitVec 4 := BitVec.ofNat 4 (j.entry.u8 6)
  if h : j.entry.u8 4 < 8 then
    modLink s ⟨j.entry.u8 4, h⟩ fun k =>
      let f := fun q : List OutMos => q.filter fun m => !(m.job && m.typ == typ && m.seq == seq)
      { k with outAB := f k.outAB, outBA := f k.outBA }
  else s

/-- The Awl ends the Job of a unit. One that has finished ends as it has finished. -/
def awlUnitJob (s : State) (u : UnitId) (j : Job) : State :=
  match j.result with
  | some _ => retireJob s u j
  | none =>
    let r := stopUnit s u j
    let s := setUnit (if u = .inband then dropSend r.2 j else r.2) u none
    let s := modAwl s fun a => { a with running := a.running + 1, heel := a.heel || j.wq.isNone }
    abortEntry s j.wq j.entry 1 r.1.done

/-- The Awl ends an erase that an URGENT Job has suspended. -/
def awlHeld (s : State) (j : Job) : State :=
  let r := stopNvm s j
  let s := { r.2 with units := { r.2.units with held := none } }
  abortEntry (modAwl s fun a => { a with running := a.running + 1 }) j.wq j.entry 1 r.1.done

/-- The Awl frees a Slot. -/
def awlSlot (s : State) (k : SlotNo) (j : Job) : State :=
  let pre := s.slots[k].code == .preempted
  let s := dropStaging (freeSlot s k) j
  let s := modAwl s fun a =>
    { a with
      preempted := a.preempted + if pre then 1 else 0
      parked := a.parked + if pre then 0 else 1
      freed := a.freed ||| (1#8 <<< k.val) }
  abortEntry s j.wq j.entry (if pre then 2 else 3) j.done

/-- The Awl discards consumed entries that have not started, and a FENCE that has. -/
def awlWaiting (s : State) (q : WqNo) (f : QEntry → Bool) : State :=
  let gone := (getWq s q).waiting.filter f
  let s := noteFence (modWq s q fun w => { w with waiting := w.waiting.filter fun e => !f e }) q
  let s := gone.foldl (fun t e => abortEntry (modAwl t fun a => { a with waiting := a.waiting + 1 }) (some q) e 4 0) s
  match (getWq s q).fence with
  | some x =>
    if f x.entry then
      abortEntry (modAwl (modWq s q fun w => { w with fence := none }) fun a => { a with running := a.running + 1 })
        (some q) x.entry 1 0
    else s
  | none => s

/-- The Awl ends every named Job: those of running units, suspended erases and Slots that f picks, and the waiting
entries that g picks by queue. -/
def awlEnd (s : State) (f : Job → Bool) (g : WqNo → QEntry → Bool) : State :=
  let s := allUnits.foldl (fun t u => match getUnit t u with
    | some j => if f j then awlUnitJob t u j else t
    | none => t) s
  let s := match s.units.held with
    | some j => if f j then awlHeld s j else s
    | none => s
  let s := allSlots.foldl (fun t k =>
    if t.slots[k].code == .free then t
    else match t.slots[k].job with
      | some j => if f j then awlSlot t k j else t
      | none => t) s
  allWqs.foldl (fun t q => awlWaiting t q (g q)) s

/-- A command is accepted: BUSY, and its counts begin (R411). -/
def awlAccept (s : State) (cmd : Word) : State :=
  modAwl s fun a =>
    { a with
      busy := true, done := false, refused := false, reason := 0, cmd := cmd, since := s.time.elapsed, running := 0, preempted := 0, parked := 0
      waiting := 0, nvmAct := 0, capHdr := false, capLost := false, tests := false, faultSeen := false, freed := 0
      heel := false, nvmOff := 0xFFFFFFFF }

/-- A write of AWLCMD (R411): ignored with KIND 0, refused while BUSY or with a target that does not exist, else acted on. -/
def awlCommand (s : State) (v : Word) : State :=
  let kind := (fld v 0 3).toNat
  let sel := (fld v 24 8).toNat
  let q : WqNo := (fld v 3 5).toFin
  let refuse := fun why : BitVec 2 => modAwl s fun a => { a with refused := true, reason := why }
  if kind = 0 then s
  else if s.awl.busy then refuse 1
  else if 5 < kind ∨ (kind = 3 ∧ 8 ≤ sel) ∨ (kind = 4 ∧ (laneOfByte sel).isNone) then refuse 2
  else
    let s := awlAccept s v
    let drain := fun (t : State) (q : WqNo) =>
      let c := (getWq t q).code
      if c == .active || c == .error then modWq t q fun w => { w with code := .draining, hdrDue := true } else t
    match kind with
    | 1 => drain (awlEnd s (fun j => j.wq == some q) fun r _ => r == q) q
    | 2 =>
      let tag := (fld v 8 16).toNat
      awlEnd s (fun j => j.wq == some q && j.entry.tag == tag) fun r e => r == q && e.tag == tag
    | 3 =>
      let u : UnitId := match sel with
        | 4 => .nvm
        | 5 => .cap .A
        | 6 => .cap .B
        | 7 => .inband
        | n => .mover (Fin.ofNat 4 n)
      match getUnit s u with
      | some j => awlUnitJob s u j
      | none => s
    | 4 =>
      match laneOfByte sel with
      | none => s
      | some (sd, p) =>
        let s := match getUnit s (.lane sd p) with
          | some j => awlUnitJob s (.lane sd p) j
          | none => s
        let r := endRegTests s sd p
        modAwl r.2 fun a => { a with tests := a.tests || r.1 }
    | _ => awlEnd s (fun _ => true) fun _ _ => true

/-- A count saturated into eight bits. -/
def sat8 (n : Nat) : Byte := BitVec.ofNat 8 (min n 255)

/-- Whole microseconds since a moment of TimeSt.elapsed. -/
def microsFrom (s : State) (t : Nat) : Nat := (s.time.elapsed - t) / 20000

/-- AWLOUT2 as the command's actions left it. -/
def awlOut2 (a : AwlSt) : Word :=
  wordOf [at_ a.nvmAct 0, bitOn a.capHdr 4, bitOn a.capLost 5, bitOn a.tests 6, bitOn a.faultSeen 7, at_ a.freed 8,
    bitOn a.heel 16]

/-- A record of R416 is due and not yet written. -/
def abortDue (s : State) : Bool := s.cqs.toList.any fun c => c.due.any fun r => r.bytes.getD 3 0 == stAborted

/-- The command is done (R413, R417), once no record of R416 is due: its queues are DISABLED, its outcome stands in AWLOUT0 to AWLOUT3 and is logged. -/
def awlFinish (s : State) : State :=
  if !s.awl.busy || abortDue s then s
  else
    let kind := (fld s.awl.cmd 0 3).toNat
    let s := if kind = 1 then drainEnd s (fld s.awl.cmd 3 5).toFin
      else if kind = 5 then allWqs.foldl drainEnd s
      else s
    let s := modAwl s fun a =>
      { a with
        busy := false, done := true, elapsed := sat8 (microsFrom s a.since)
        jobs := sat8 (a.running + a.preempted + a.parked + a.waiting)
        out := #v[a.cmd, wordOf [at_ (sat8 a.running) 0, at_ (sat8 a.preempted) 8, at_ (sat8 a.parked) 16, at_ (sat8 a.waiting) 24],
          awlOut2 a, a.nvmOff] }
    logEvent s 0x0903 0 (s.awl.out.toList.flatMap fun w => bytesLE 4 w.toNat)

end Sys2Proof.Machine
end

