-- ==== Sys2Proof/Machine/DevOps.lean ====
section
/-! DEFINITION. What the registers of the device and of the links' joins do (02, 04, 06): standing aside, Standby, the
commit and its per-link application, retrain requests, DISABLED. -/

namespace Sys2Proof.Machine

/-! ### Standing aside and joining (R56, R63, R65) -/

/-- LNKCTL.ASIDE written. -/
def writeAside (s : State) (l : LinkNo) (on : Bool) : State :=
  let was := (getLink s l).aside
  let s := modLink s l fun k => { k with aside := on }
  if on && !was then settle (standAside s l)
  else if !on && (getLink s l).join == .aside then settle (startState s l)
  else s

/-- LNKCTL.DISABLE written (R188). -/
def writeDisable (s : State) (l : LinkNo) (on : Bool) : State :=
  let was := (getLink s l).disable
  let s := modLink s l fun k => { k with disable := on }
  let st := (getLink s l).st
  if on && !was && st != .notTraining && st != .disabled then enterDisabled s l
  else if !on && st == .disabled then
    let seen := bothSides.any fun sd => match laneRx s l sd.rxDir 0 with
      | some p => (getLane s sd p).rx.sigDet
      | none => false
    if (getLink s l).partnerDis && !seen then s else enterDetect s l 0
  else s

/-- EQ_FIXED in a phase: no more requests are sent (R181). DESIGN CHOICE (log entry 66): the receivers that still search count
as done. -/
def fixSearches (s : State) (l : LinkNo) : State :=
  if (getLink s l).eqFixed && equalises (getLink s l).st then
    (linkPoss s.last.working l).foldl (fun t p => bothSides.foldl (fun u sd => modLane u sd p fun n =>
      if n.search.running then { n with search := { n.search with running := false, done := true } } else n) t) s
  else s

/-- A write of LNKCTL (R56, R186, R188, R192, R488): its RW fields, then the WO fields as the state before the write
lets them act. -/
def writeLnkctl (s : State) (l : LinkNo) (v : Word) : State :=
  let aside := bitAt v 30
  let dis := bitAt v 1
  let fixed := bitAt v 2
  if s.dev.standby then modLink s l fun k => { k with aside := aside, disable := dis, eqFixed := fixed }
  else
    let j := (getLink s l).join
    let act := (getLink s l).st == .active
    let s := fixSearches (modLink s l fun k => { k with eqFixed := fixed }) l
    let s := if bitAt v 3 then modLink s l fun k => { k with retrains := 0 } else s
    let s := writeDisable (writeAside s l aside) l dis
    let s := if bitAt v 31 && (j == .waitTrain || j == .waitHost) then startJoin s l else s
    if bitAt v 0 && act && (getLink s l).st == .active then requestRetrain s l else s

/-! ### Standby (R58 to R60) -/

/-- A Job is running, or pre-empted, faulted or ready in a Slot (Table 14-7), the NVM engine is busy, a link is JOINING,
or a commit is in progress (R58). -/
def standbyBlocked (s : State) : Bool :=
  (unitJobs s).any (·.result.isNone) || s.slots.toList.any (·.code != .free) || nvmOp s != 0 || eraseRuns s ||
    allLinks.any (fun l => (getLink s l).join == .joining) || committing s

/-- A request for Standby; a recalibration that runs is stopped (R268). -/
def requestStandby (s : State) : State :=
  if standbyBlocked s then { s with dev := { s.dev with stbyRefused := true } }
  else
    let s := stopRecal s 0x0604 true
    { s with dev := { s.dev with stbyRefused := false, entering := !s.dev.standby } }

/-- A write of DEVCTL (R63): WAKE outside Standby and THERM_REARM while TJ is not found below its threshold do nothing. -/
def writeDevctl (s : State) (v : Word) : State :=
  let rearm := bitAt v 3 && s.therm.samples == 2 && !s.therm.above[2]
  let s := if bitAt v 0 then requestStandby s else s
  let s := { s with
    dev := { s.dev with aside := bitAt v 2, waking := s.dev.waking || (bitAt v 1 && s.dev.standby) }
    therm := { s.therm with shutdown := s.therm.shutdown && !rearm } }
  settle (if s.dev.waking then { s with boot := { s.boot with done := false } } else s)

/-- What a lane block keeps through Standby: trims and adaptation state (R59, R488). -/
def standbyLane (n : Lane) : Lane :=
  { Reset.lane with
    eq := { Reset.eq with ctle := n.eq.ctle, vga := n.eq.vga, dfe := n.eq.dfe }
    cal := { n.cal.stillRx.stillTx with worse := false } }

/-- What a link block keeps through Standby: the management island's registers (R488). -/
def standbyLink (k : Link) : Link :=
  { Reset.link with aside := k.aside, disable := k.disable, eqFixed := k.eqFixed, epoch := k.epoch
                    epochOk := k.epochOk }

/-- The queue registers with the mirrored fields of QUEUES. -/
def loadQueues (s : State) : State :=
  { s with
    wqs := Vector.ofFn fun q => { Reset.wq with cfg := s.last.working.wqs[q] }
    cqs := Vector.ofFn fun m => { Reset.cq with owner := s.last.working.cqs[m] } }

/-- Every spare that a record names is COLD, any other has no state. -/
def loadSpares (s : State) : State :=
  allLinks.foldl (fun t l => bothSpares.foldl (fun u n => bothDirs.foldl (fun w d =>
    let named := match linkRec w l with
      | some r => (spareOf r n).isSome
      | none => false
    setSpare w l n d (spareAs (if named then .cold else .none) 0)) u) t) s

/-- The part is in Standby: the powered-down islands lose their state (R59, R488), the shadow bank with what is staged in
it among them (R99); a self-calibration of the ADC ends (R458). The two-wire interface falls asleep later (R282). -/
def enterStandby (s : State) : State :=
  if !s.dev.entering then s
  else
    let s := settle { s with dev := { s.dev with standby := true, entering := false } }
    let s := { s with
      lanes := s.lanes.map standbyLane
      links := s.links.map standbyLink
      store := Reset.store
      win := Reset.win
      units := Reset.units
      slots := Vector.replicate 8 Reset.slot
      sched := Reset.sched
      last := { s.last with shadow := .empty, staged := none, bank := [] }
      nvm := { s.nvm with
        wp := 0, lock := false, rdErased := false, rdUe := false, ce := 0, addr := 0, addrOk := false, wsel := 0
        dropped := 0, tokens := 128 }
      tm := Reset.tm
      cal := { s.cal with adcCal := false } }
    loadPrograms (loadSpares (loadQueues s))

/-- The exit from Standby ends: LNTXDRV is loaded, the held events go to the ring from record 0 on, the links leave
FORCED (R60, R166, R464). -/
def exitStandby (s : State) : State :=
  if !s.dev.waking then s
  else
    let held := s.evt.fifo
    let s := { s with
      dev := { s.dev with standby := false, waking := false }
      boot := { s.boot with done := true }
      evt := { s.evt with next := 0, wrapped := false, fifo := [] }
      store := { s.store with hourOn := true }
      twb := { s.twb with awake := true } }
    let s := held.foldl ringPut s
    let s := allLanes.foldl (fun t q =>
      if poweredAt t.last.working q.1 q.2 then
        modLane t q.1 q.2 fun n =>
          let e := n.eq
          { loadLane t.last.working q.1 q.2 n with eq := e }
      else t) s
    settle (lockPlls s ((List.finRange 4).filter fun q => s.last.working.pllfam[q] != .off))

/-! ### Commit (R105 to R116) -/

def modLast (s : State) (f : LastSt → LastSt) : State := { s with last := f s.last }

/-- A link is in a sparing swap. -/
def swapping (k : Link) : Bool := k.swap.isSome || k.spares.toList.any fun x => x.code == .aligning

/-- A link keeps a commit from being accepted (Table 4-3). -/
def linkBusy (k : Link) : Bool :=
  swapping k || k.join == .joining || k.st == .align || k.st == .eq1 || k.st == .eq2 || k.st == .lock ||
    k.st == .exchange || k.st == .retrain

/-- The first case of Table 4-3 that applies; 0 for none. -/
def commitRefusal (s : State) (c : Ctx) (v : Word) : BitVec 4 :=
  if s.last.shadow == .empty || s.last.shadow == .rejected then 1
  else if s.last.shadow == .staging || s.last.shadow == .committing then 3
  else if c != s.last.stager then 2
  else if allLinks.any fun l => linkBusy (getLink s l) then 4
  else if (allLinks.any fun l => s.last.diff[l] == 3) && !bitAt v 1 then 5
  else if bitAt v 2 then 6
  else 0

/-- The link carries no traffic (Table 4-4). -/
def noTraffic (k : Link) : Bool := k.join != .joined || k.st == .detect || k.st == .disabled || k.st == .deep

/-- A lane restart of a Transparent link (R112): idle on every transmitter, and every lane gains its lock afresh. -/
def laneRestart (s : State) (l : LinkNo) : State :=
  let s := (linkPoss s.last.working l).foldl (fun t p => bothSides.foldl (fun u sd =>
    if isTap u p then u else modRx (dropCdr u sd p) sd p fun n => { n with rate := 0 }) t) s
  checkRecovered (modLink s l fun k => { k with idleOut := true, lostAB := 0, lostBA := 0, rate := singleRate s l }) l

/-- Step 1 of R114: the transmitters of the link's positions, in both images, idle. -/
def idleLink (s : State) (old new : LastImg) (l : LinkNo) : State :=
  (allPos.filter fun p => namesPos old l p || namesPos new l p).foldl (fun t p => bothSides.foldl (fun u sd =>
    modTx u sd p fun x => { x with on := false, last := none }) t) s

/-- A class D link is taken down and restarted (R114); under a device-wide cause it stays FORCED. -/
def restartD (s : State) (old img : LastImg) (l : LinkNo) : State :=
  let s := takeUp (dropLink (idleLink s old img l) l) l img
  if (getLink s l).join == .forced then s else restartLink s l

/-- One link's part of an accepted commit (Table 4-4). -/
def applyLink (s : State) (old img : LastImg) (l : LinkNo) : State :=
  let k := getLink s l
  let put := fun (t : State) (r : BitVec 4) => modLast t fun x => { x with outcome := vput x.outcome l r }
  match s.last.diff[l].toNat with
  | 0 => put s 0
  | 1 =>
    if noTraffic k || isTrans s l then put (takeUp s l img) resApplied
    else put (modLink s l fun k => { k with pend := .hitless }) 1
  | 2 =>
    if noTraffic k then
      put (modLink (takeUp s l img) l fun x => { x with exitRetrain := x.exitRetrain || x.st == .deep }) resApplied
    else if isTrans s l then
      put (modLink (laneRestart (takeUp s l img) l) l fun x => { x with pend := .switched }) 1
    else requestRetrain (put (modLink s l fun k => { k with pend := .retrain }) 1) l
  | _ => put (restartD s old img l) (if noTraffic k then resApplied else resRestarted)

/-- A commit is accepted (R108): the global differences at once, then each link. -/
def acceptCommit (s : State) (img : LastImg) : State :=
  let old := s.last.working
  let s := modLast s fun x =>
    { x with
      shadow := .committing, done := false, mixed := false, refuse := 0, old := old, working := mergeGlobal old img }
  let s := loadPrograms (relockPlls (retarget old s) old)
  checkDone (settle (allLinks.foldl (fun t l => applyLink t old img l) s))

/-- A write of LASTCMD (R105 to R108, R122). DESIGN CHOICE (log entry 88): a DISCARD for which more than one case of Table 4-3
holds draws the first of them in the table's order, as COMMIT does. -/
def writeLastcmd (s : State) (c : Ctx) (v : Word) : State :=
  let refuse := fun r : BitVec 4 => modLast s fun x => { x with refuse := r }
  if bitAt v 0 then
    let r := commitRefusal s c v
    if r != 0 then refuse r
    else match s.last.staged with
      | some img => acceptCommit s img
      | none => s
  else if bitAt v 2 then
    if s.last.shadow == .empty then refuse 1
    else if s.last.shadow == .staging || s.last.shadow == .committing then refuse 3
    else if c != s.last.stager then refuse 2
    else modLast s fun x => { x with shadow := .empty, staged := none, bank := [], refuse := 0 }
  else s

/-- A Transparent link that a commit has restarted is up (R113). -/
def transparentUp (s : State) (l : LinkNo) : State :=
  if isTrans s l && (getLink s l).pend == .switched && bothDirs.all fun d => (trainedLanes s l).all fun k =>
      match laneRx s l d k with
      | some p => (getLane s d.rxSide p).rx.cdrLock && (!commaOn s d.rxSide p || (getLane s d.rxSide p).rx.symLock)
      | none => false
  then setResult s l resRetrained else s

/-- R113: a link that has switched and is not ACTIVE in time goes back to the old image. DESIGN CHOICE (log entry 73): one that
LNKCTL.DISABLE, a partner's DISABLE sets or ASIDE holds out of training makes no retrain request. -/
def rollback (s : State) (l : LinkNo) : State :=
  if (getLink s l).pend != .switched then s
  else
    let s := takeUp s l s.last.old
    let s := modLast s fun x => { x with mixed := true }
    let s := setResult s l resRolledBack
    let st := (getLink s l).st
    if isTrans s l then laneRestart s l
    else if st == .disabled || st == .notTraining then s
    else requestRetrain s l

end Sys2Proof.Machine
end

