-- ==== Sys2Proof/Machine/LaneRegs.lean ====
section
/-! DEFINITION. The registers of a lane block (05, 08, 09): what each shows, and what a write of each does. -/

namespace Sys2Proof.Machine

/-! ### Values -/

def lnctlWord (n : Lane) : Word := wordOf [bitOn n.rx.ctleHold 0, bitOn n.rx.dfeHold 1, bitOn n.rx.vgaHold 2]

/-- LNSTAT (Table 5-10). -/
def lnstatWord (s : State) (sd : Side) (p : Pos) : Word :=
  let n := getLane s sd p
  wordOf [bitOn n.rx.sigDet 0, bitOn n.rx.cdrLock 1, bitOn (n.rx.symLock && commaOn s sd p) 2, at_ (shownRate s sd p) 3,
    at_ (BitVec.ofNat 4 n.rx.wordPhase.val) 6, at_ (BitVec.ofNat 5 (fillOf n.rx)) 10, bitOn n.tx.on 15,
    bitOn n.tx.limited 16, bitOn (isLoopMaster s sd p) 17, bitOn n.rx.holdover 18, bitOn n.rx.ebOvf 19,
    bitOn n.rx.ebUnf 20, bitOn n.rx.codeErr 21, bitOn n.rx.dispErr 22, bitOn n.rx.skpRate 23]

def lnsnapWord (n : LaneSnap) : Word := wordOf [bitOn n.held 2, at_ (BitVec.ofNat 2 n.owner.val) 3, bitOn n.refused 5]

def lneqWord (n : LaneEq) : Word := wordOf [at_ n.ctle 0, at_ n.vga 4, at_ n.ctleSet 16, bitOn n.ctleForce 20]

def lntxdrvWord (n : LaneTx) : Word := wordOf [at_ n.swing 0, at_ n.pre 8, at_ n.post 16, at_ n.swingAct 24]

def lneyeWord (m : LaneMeas) : Word := wordOf [at_ m.eyeW 0, at_ m.eyeH 7, at_ m.conf 16, bitOn m.alarm 18]

def lnscanWord (m : LaneMeas) : Word :=
  wordOf [at_ m.phase 0, at_ m.voff 7, at_ m.dwell 14, bitOn m.scanBusy 18, bitOn m.scanDone 19, bitOn m.scanAborted 20,
    bitOn m.scanRefused 21, at_ m.scanReason 22]

/-- LNPRBS.PART_HELD. -/
def partHolds (s : State) (sd : Side) (p : Pos) : Bool := (getLane s sd p).meas.partHeld || warmPrbs s sd p

def lnprbsWord (s : State) (sd : Side) (p : Pos) : Word :=
  let m := (getLane s sd p).meas
  wordOf [at_ m.pattern 0, bitOn m.invert 3, bitOn m.genEn 4, bitOn m.chkEn 5, bitOn m.chkLock 8, bitOn m.lockLost 9,
    bitOn m.prbsRefused 10, bitOn (partHolds s sd p) 11, at_ m.prbsReason 12]

def lnloopWord (m : LaneMeas) : Word :=
  wordOf [at_ m.loopMode 0, bitOn m.loopActive 3, bitOn m.loopPbl 4, bitOn m.loopRefused 5, at_ m.loopReason 6]

def lnsymcntHiWord (m : LaneMeas) : Word :=
  wordOf [at_ (m.symCnt.extractLsb' 32 16) 0, bitOn m.symWrap 16, bitOn m.errSat 17, bitOn m.symSrc 18]

def lncalWord (n : LaneCal) : Word :=
  wordOf [at_ n.rxTerm 0, at_ n.txTerm 5, at_ n.txGain 10, bitOn (n.rampRx || n.rampTx) 16, bitOn n.worse 17]

/-- LNCALT (Table 9-10): AGE in whole minutes of elapsed time. -/
def lncaltWord (s : State) (n : LaneCal) : Word :=
  wordOf [at_ n.tRx 0, at_ n.tTx 8, at_ (BitVec.ofNat 16 (min ((s.time.elapsed - n.recalAt) / 1200000000000) 65535)) 16]

/-- The registers that LNSNAP copies, in the order of the copy (R162). -/
def liveSnap (s : State) (sd : Side) (p : Pos) : Vector Word 21 :=
  let n := getLane s sd p
  let head : List Word := [lnstatWord s sd p, lneqWord n.eq, lntxdrvWord n.tx, n.rx.skpAdd, n.rx.skpDel, n.meas.errCnt,
    n.meas.symCnt.extractLsb' 0 32, lnsymcntHiWord n.meas, lneyeWord n.meas]
  let all := head ++ n.eq.dfe.toList.map fun d => at_ d 0
  Vector.ofFn fun i => all.getD i.val 0

/-- A copied register as a context reads it: the owner of a held snapshot reads the copy. -/
def snapWord (s : State) (c : Ctx) (sd : Side) (p : Pos) (i : Fin 21) : Word :=
  let n := (getLane s sd p).snap
  if n.held && n.owner == c then n.copy[i] else (liveSnap s sd p)[i]

/-! ### LNCTL, LNSTAT, LNEQ, LNSNAP -/

/-- LNCTL.BITSLIP (R135): one bit later, while comma alignment is off. -/
def bitslip (s : State) (sd : Side) (p : Pos) : State :=
  if commaOn s sd p then s
  else modRx s sd p fun n => { n with wordPhase := n.wordPhase + 1, rd := none }

def writeLnctl (s : State) (sd : Side) (p : Pos) (v : Word) : State :=
  let s := modRx s sd p fun n => { n with ctleHold := bitAt v 0, dfeHold := bitAt v 1, vgaHold := bitAt v 2 }
  let s := if bitAt v 3 then bitslip s sd p else s
  if bitAt v 4 then recentre s sd p else s

def writeLnstat (s : State) (sd : Side) (p : Pos) (v : Word) : State :=
  modRx s sd p fun n =>
    { n with
      ebOvf := n.ebOvf && !bitAt v 19
      ebUnf := n.ebUnf && !bitAt v 20
      codeErr := n.codeErr && !bitAt v 21
      dispErr := n.dispErr && !bitAt v 22
      skpRate := n.skpRate && !bitAt v 23 }

def writeLneq (s : State) (sd : Side) (p : Pos) (v : Word) : State :=
  modEq s sd p fun n => { n with ctleSet := fld v 16 4, ctleForce := bitAt v 20 }

def modSnap (s : State) (sd : Side) (p : Pos) (f : LaneSnap → LaneSnap) : State :=
  modLane s sd p fun n => { n with snap := f n.snap }

/-- LNSNAP written (R162, R163): RELEASE first, then TAKE. -/
def writeLnsnap (s : State) (c : Ctx) (sd : Side) (p : Pos) (v : Word) : State :=
  let n := (getLane s sd p).snap
  let s := if bitAt v 1 && n.owner == c then modSnap s sd p fun n => { n with held := false } else s
  if bitAt v 0 then
    if (getLane s sd p).snap.held && n.owner != c then modSnap s sd p fun n => { n with refused := true }
    else
      let copy := liveSnap s sd p
      modSnap s sd p fun _ => ⟨true, c, false, copy⟩
  else s

/-! ### LNTXDRV (R154, R155) -/

/-- New swing, PRE and POST targets. DESIGN CHOICE (log entry 89): while the swing is limited the code that VTX can deliver is the
present SWING_ACT. -/
def writeLntxdrv (s : State) (sd : Side) (p : Pos) (v : Word) : State :=
  let frozen : Bool := match txLink s sd p with
    | some l => equalises (getLink s l).st && isPart s l && (txAt s.last.working sd p).acceptReq
    | none => false
  modTx s sd p fun n =>
    let c := fld v 0 5
    let n := { n with swing := c }
    let n := if n.limited then
        let a := if c.toNat < n.swingAct.toNat then c else n.swingAct
        { n with swingNow := c, swingAct := a, limited := a != c }
      else n
    if frozen then n else { n with pre := fld v 8 4, post := fld v 16 5, preset := none }

/-! ### Measurement (R227 to R245) -/

abbrev whyNotFree : BitVec 3 := 1
abbrev whyClosed : BitVec 3 := 2
abbrev whyBusy : BitVec 3 := 3
abbrev whyPattern : BitVec 3 := 4
abbrev whyUnlocked : BitVec 3 := 5

/-- The spares, in each direction, of the links that name a position. -/
def sparesAt (s : State) (p : Pos) : List (LinkNo × SpareNo × Dir) :=
  (linksAt s.last.working p).flatMap fun l => bothSpares.flatMap fun n => bothDirs.map fun d => (l, n, d)

/-- A spare one of whose positions a test holds reads COLD in both directions (R243). -/
def coolSpare (s : State) (p : Pos) : State :=
  (sparesAt s p).foldl (fun t (l, n, d) =>
    let c := (getSpare t l n d).code
    if spareHeld t l n && (c == .warm || c == .failed) then setSpare t l n d (spareAs .cold 0) else t) s

/-- A test comes to hold the position on a side: comma alignment goes off there (R134, R232), a spare there cools; as Free
under DISABLED it will end with that (R248). -/
def holdStarts (s : State) (sd : Side) (p : Pos) : State :=
  let free := freeByDisabled s sd p
  coolSpare (modMeas (modRx s sd p LaneRx.unaligned) sd p fun m => { m with testFree := free }) p

/-- A COLD spare whose hold has ended keeps signal detect only again, under a cold policy (Table 7-2, R243). -/
def coolIdle (s : State) (p : Pos) : State :=
  (sparesAt s p).foldl (fun t (l, n, d) =>
    if (getSpare t l n d).code == .cold && !spareHeld t l n then coolRx t l n d else t) s

/-- The reason for which a test that holds the position may not start (R242); 0 for none. -/
def holdRefusal (s : State) (sd : Side) (p : Pos) (force : Bool) : BitVec 3 :=
  match posClass s sd p with
  | .tap => whyClosed
  | .free => 0
  | .forceable => if force then 0 else whyNotFree
  | .inService => whyNotFree

/-- The reason for which the generator may not be turned on by a write of LNPRBS (R242, R245); 0 for none. -/
def genRefusal (s : State) (sd : Side) (p : Pos) (v : Word) : BitVec 3 :=
  let m := (getLane s sd p).meas
  if !bitAt v 4 || m.genEn then 0
  else if m.loopMode == 2 then (if closedAt s p then whyClosed else 0)
  else holdRefusal s sd p (bitAt v 6)

/-- The reason for which the checker may not be turned on (R242): warm traffic by PRBS has it, where it is asked for alone. -/
def chkRefusal (s : State) (sd : Side) (p : Pos) (v : Word) : BitVec 3 :=
  if bitAt v 5 && !(getLane s sd p).meas.chkEn && !bitAt v 4 && warmPrbs s sd p then whyBusy else 0

/-- The fields of LNPRBS after a write whose starts are refused for the given reasons, or not (R11, R229, R251): what is
refused stays off, the rest of the write holds. -/
def prbsFields (m : LaneMeas) (v : Word) (gen chk : BitVec 3) : LaneMeas :=
  let starts := (bitAt v 4 && !m.genEn) || (bitAt v 5 && !m.chkEn)
  let why := if gen != 0 then gen else chk
  let moved := m.pattern != fld v 0 3 || m.invert != bitAt v 3
  let m := setSource m (bitAt v 5 && chk == 0)
  let m := if moved then m.reseed else m
  let on := bitAt v 4 && gen == 0
  { m with
    pattern := fld v 0 3
    invert := bitAt v 3
    genEn := on
    force := bitAt v 6 && on
    inject := (m.inject || bitAt v 7) && on
    lockLost := m.lockLost && !bitAt v 9
    prbsRefused := if starts then why != 0 else m.prbsRefused
    prbsReason := if starts then why else m.prbsReason }

/-- LNPRBS written. While a PRBS Job holds the position it is refused (R395), with a reserved pattern it is left unchanged
(R229). A generator that is turned on, or given another pattern, starts its sequence anew. -/
def writeLnprbs (s : State) (sd : Side) (p : Pos) (v : Word) : State :=
  let m := (getLane s sd p).meas
  if m.partHeld then modMeas s sd p fun m => { m with prbsRefused := true, prbsReason := whyBusy }
  else if 6 ≤ (fld v 0 3 : BitVec 3).toNat then modMeas s sd p fun m => { m with prbsRefused := true, prbsReason := whyPattern }
  else
    let gen := genRefusal s sd p v
    let chk := chkRefusal s sd p v
    let s := if bitAt v 4 && gen == 0 && (!m.genEn || m.pattern != fld v 0 3) then seedGen s sd p else s
    let s := modMeas s sd p fun m => prbsFields m v gen chk
    if heldByTest s sd p && !m.holdsTest then holdStarts s sd p else coolIdle s p

/-- The paths of Table 8-6 that a loopback silences. -/
def silenceLoop (s : State) (sd : Side) (p : Pos) : State := modTx s sd.other p fun x => { x with last := none }

/-- LNLOOP written (R242 to R247): the mode in force ends, the new one is checked and started. REFUSED tells of the last write
of MODE (Table 8-12). While a PRBS Job holds the position it is refused (R395). -/
def writeLnloop (s : State) (sd : Side) (p : Pos) (v : Word) : State :=
  let m := (getLane s sd p).meas
  let mode := fld v 0 2
  let refuse := fun (t : State) (why : BitVec 3) => modMeas t sd p fun m => { m with loopRefused := true, loopReason := why }
  if m.partHeld then refuse s whyBusy
  else if m.loopPbl then refuse s whyNotFree
  else
    let s := modMeas s sd p fun m => { m with loopRefused := false }
    if mode == m.loopMode then s
    else
      let s := modMeas s sd p LaneMeas.noLoop
      if mode == 0 then coolIdle s p
      else
        let why := if mode == 2 then (if closedAt s p then whyClosed else if partHolds s sd p then whyBusy else 0)
          else holdRefusal s sd p (bitAt v 2)
        if why != 0 then refuse s why
        else
          let s := modMeas s sd p fun m =>
            { m with loopMode := mode, loopActive := true, loopForce := bitAt v 2, loopReason := 0 }
          if mode == 2 then s else holdStarts (silenceLoop s sd p) sd p

/-- LNSCAN written (R235). -/
def writeLnscan (s : State) (sd : Side) (p : Pos) (v : Word) : State :=
  let s := modMeas s sd p fun m => { m with phase := fld v 0 6, voff := fld v 7 7, dwell := fld v 14 3 }
  if !bitAt v 17 then s
  else
    let n := getLane s sd p
    let why := if n.meas.scanBusy || scanJobHolds s sd p then whyBusy
      else if !n.rx.cdrLock then whyUnlocked
      else if isTap s p then whyClosed
      else 0
    modMeas s sd p fun m =>
      if why != 0 then { m with scanRefused := true, scanReason := why }
      else
        { m with
          ptDwell := m.dwell, scanBusy := true, scanDone := false, scanAborted := false, scanRefused := false, scanReason := 0, conf := 3 }

/-- LNSYMCNT_HI written (R227). -/
def writeLnsymcntHi (s : State) (sd : Side) (p : Pos) (v : Word) : State :=
  modMeas s sd p fun m =>
    if bitAt v 31 then clearCounts m
    else { m with symWrap := m.symWrap && !bitAt v 16, errSat := m.errSat && !(bitAt v 17 && m.errCnt != 0xFFFFFFFF) }

def writeLncal (s : State) (sd : Side) (p : Pos) (v : Word) : State :=
  modCal s sd p fun n => { n with worse := n.worse && !bitAt v 17 }

end Sys2Proof.Machine
end

