-- ==== Sys2Proof/Machine/QueueRegs.lean ====
section
/-! DEFINITION. The registers of the queue block (12, 14): what each shows, and what a write of each does. -/

namespace Sys2Proof.Machine

def WqCode.num : WqCode → BitVec 3
  | .disabled => 0
  | .active => 1
  | .draining => 2
  | .error => 3

def CqCode.num : CqCode → BitVec 2
  | .disabled => 0
  | .active => 1
  | .error => 2

def SlotCode.num : SlotCode → BitVec 3
  | .free => 0
  | .preempted => 1
  | .faulted => 2
  | .ready => 3

/-- The context number of an owner, 0 where there is none. -/
def ownerNum (o : Option WinCtx) : BitVec 2 :=
  match o with
  | some t => BitVec.ofNat 2 (t.val + 1)
  | none => 0

/-! ### Values (Tables 12-9 to 12-11, 14-9) -/

def wqctlWord (w : Wq) : Word :=
  wordOf [bitOn (w.code == .active || w.code == .error) 0, bitOn w.cfg.urgent 16,
    at_ (BitVec.ofNat 4 (w.cfg.weight - 1)) 17, at_ (BitVec.ofNat 4 (w.cfg.burst - 1)) 21,
    at_ (BitVec.ofNat 3 w.cfg.cq.val) 25, bitOn w.cfg.allowUninit 28, at_ (ownerNum w.cfg.owner) 29]

def wqstatWord (s : State) (q : WqNo) : Word :=
  let w := getWq s q
  wordOf [at_ w.code.num 0, bitOn w.blocked 3, bitOn w.dbIgnored 4, at_ w.enFail 5,
    at_ (BitVec.ofNat 8 (min (inflight s q) 255)) 8, at_ w.head 16]

def wqerrWord (w : Wq) : Word :=
  wordOf [at_ w.errIdx 0, at_ w.cause 16, at_ w.sub 20, bitOn w.held.isSome 23, at_ w.lost 24]

/-- WQHELDk: the bytes of the held record. -/
def wqheldWord (w : Wq) (k : Fin 4) : Word :=
  match w.held with
  | some r => BitVec.ofNat 32 (leAt r (4 * k.val) 4)
  | none => 0

def cqctlWord (c : Cq) : Word :=
  wordOf [bitOn (c.code != .disabled) 0, at_ c.sizeLog2 4, at_ (ownerNum c.owner) 8]

def cqstatWord (c : Cq) : Word :=
  wordOf [at_ c.tail 0, bitOn c.phase 16, at_ c.code.num 17, at_ c.err 19, at_ c.wcause 21, bitOn c.irq 24, bitOn c.refused 25]

def ctxslotWord (x : Slot) : Word := wordOf [at_ x.code.num 0, bitOn x.lane 3, at_ x.resumes 4, at_ x.unitNo 8]

def slotBits (s : State) (c : SlotCode) : BitVec 8 := BitVec.ofBoolListLE (List.ofFn fun k : Fin 8 => s.slots[k].code == c)

def ctxstatWord (s : State) : Word :=
  wordOf [at_ (slotBits s .free) 0, at_ (slotBits s .faulted) 8, bitOn s.sched.resRefused 16, at_ s.sched.resReason 17,
    bitOn (preWait s) 19]

/-! ### Work queues (R338 to R342, R407) -/

/-- The checks of R338 on a header: SIZE_LOG2 and RING_VA, or the code that they fail with. -/
def headerCheck (h : List Byte) : Except (BitVec 3) (Nat × Nat) :=
  let va := leAt h 0 4
  let size := leAt h 4 1
  if size < 4 ∨ 12 < size then .error 4
  else if va % 64 ≠ 0 ∨ 0x1000000 ≤ va ∨ 0x1000000 < va + 16 * 2 ^ size then .error 5
  else .ok (size, va)

/-- A write of ENABLE = 1 (R338). -/
def enableWq (s : State) (q : WqNo) : State :=
  let w := getWq s q
  let fail := fun (t : State) (code : BitVec 3) => modWq t q fun w => { w with enFail := code }
  if w.code != .disabled then s
  else if w.cfg.owner.isNone then fail s 1
  else if (getCq s w.cfg.cq).code != .active then fail s 2
  else
    let va := w.hdr.toNat * 64
    match jobRead s (wqCtx s q) va 8 false with
    | (.error (cause, at'), s) => fail (latchJob s (wqCtx s q) cause false at') 3
    | (.ok h, s) =>
      match headerCheck h with
      | .error code => fail s code
      | .ok (size, ring) =>
        modWq s q fun w =>
          { w with
            code := .active, enFail := 0, head := 0, tail := 0, errIdx := 0, cause := 0, sub := 0, held := none, lost := 0
            ringVa := ring, sizeLog2 := size, waiting := [], batches := [], fence := none, hdrDue := true, hdrOff := false
            clearAtOff := false }

/-- A write of ENABLE = 0 (R339). -/
def disableWq (s : State) (q : WqNo) : State :=
  let c := (getWq s q).code
  if c == .active || c == .error then drainWq s q else s

/-- A write of RESET = 1 (R339). -/
def resetWq (s : State) (q : WqNo) : State :=
  match (getWq s q).code with
  | .disabled => modWq s q clearWqErr
  | .draining => modWq s q fun w => { w with clearAtOff := true }
  | _ => modWq (drainWq s q) q fun w => { w with clearAtOff := true }

/-- A write of RESUME = 1 with RSLOT (R407). -/
def resumeWq (s : State) (q : WqNo) (k : SlotNo) : State :=
  let x := s.slots[k]
  let refuse := fun why : BitVec 2 => { s with sched := { s.sched with resRefused := true, resReason := why } }
  if x.code != .faulted then refuse 1
  else if !(x.job.any fun j => j.wq == some q) || (getWq s q).code == .disabled then refuse 2
  else
    { s with
      slots := vput s.slots k { x with code := .ready, order := s.sched.order }
      sched := { s.sched with order := s.sched.order + 1 } }

/-- WQCTL written: RESET, then ENABLE, and RESUME. -/
def writeWqctl (s : State) (q : WqNo) (v : Word) : State :=
  let was := (getWq s q).code
  let s := if bitAt v 1 then resetWq s q else s
  let s := if bitAt v 0 then (if was == .disabled then enableWq s q else s)
    else if bitAt v 1 then s else disableWq s q
  if bitAt v 8 then resumeWq s q (fld v 9 3).toFin else s

/-- WQDB written: a doorbell (R340, R342). -/
def doorbell (s : State) (q : WqNo) (v : Word) : State :=
  let w := getWq s q
  if w.code != .active then modWq s q fun w => { w with dbIgnored := true }
  else
    let t := fld v 0 16
    let d := (t - w.head).toNat
    if fld v 16 16 != 0 || 2 ^ w.sizeLog2 < d || d < (w.tail - w.head).toNat then
      queueErrorRecord (wqError s q 2 t 0) q 0 stMalformedDb 0 v.toNat
    else if t == w.tail then s
    else modWq s q fun w => { w with tail := t, hdrDue := true }

def writeWqstat (s : State) (q : WqNo) (v : Word) : State :=
  modWq s q fun w => { w with dbIgnored := w.dbIgnored && !bitAt v 4 }

def writeWqhdr (s : State) (q : WqNo) (v : Word) : State :=
  modWq s q fun w => if w.code == .disabled then { w with hdr := fld v 6 18 } else w

/-! ### Completion queues (R358 to R361) -/

def namesCq (s : State) (m : CqNo) (q : WqNo) : Bool := (getWq s q).cfg.owner.isSome && (getWq s q).cfg.cq == m

/-- The held records of an enabled queue written, in ascending order of their work queues. -/
def writeHeld (s : State) (m : CqNo) : State :=
  let s := allWqs.foldl (fun t q =>
    if !namesCq t m q || (getCq t m).code != .active then t
    else match (getWq t q).held with
      | some r => (ringWrite (modWq t q fun w => { w with held := none }) m ⟨q, r⟩).2
      | none => t) s
  if (getCq s m).code == .active then
    allWqs.foldl (fun t q => if namesCq t m q then modWq t q fun w => { w with blocked := false } else t) s
  else s

/-- A write of ENABLE = 1 (R358, R360). -/
def enableCq (s : State) (m : CqNo) : State :=
  let c := getCq s m
  if c.code != .disabled then s
  else if c.owner.isNone || c.sizeLog2.toNat < 4 || 12 < c.sizeLog2.toNat ||
      0x1000000 < c.base.toNat * 64 + 16 * cqSize c then
    modCq s m fun c => { c with refused := true }
  else
    writeHeld (modCq s m fun c =>
      { c with code := .active, tail := 0, head := 0, phase := true, err := 0, wcause := 0, due := [] }) m

/-- A write of ENABLE = 0 (R360). -/
def disableCq (s : State) (m : CqNo) : State :=
  let c := getCq s m
  match c.code with
  | .disabled => s
  | .error => modCq s m fun c => { c with code := .disabled }
  | .active =>
    if allWqs.any fun q => namesCq s m q && (getWq s q).code != .disabled then modCq s m fun c => { c with refused := true }
    else
      let s := flushDue (c.due.length + 1) s m
      modCq s m fun c => { c with code := .disabled }

/-- CQCTL written: SIZE_LOG2 while the queue is DISABLED, then ENABLE. -/
def writeCqctl (s : State) (m : CqNo) (v : Word) : State :=
  let s := modCq s m fun c => if c.code == .disabled then { c with sizeLog2 := fld v 4 4 } else c
  if bitAt v 0 then enableCq s m else disableCq s m

def writeCqstat (s : State) (m : CqNo) (v : Word) : State :=
  modCq s m fun c => { c with irq := c.irq && !bitAt v 24, refused := c.refused && !bitAt v 25 }

/-- CQHEAD written (R359). -/
def writeCqhead (s : State) (m : CqNo) (v : Word) : State :=
  let c := getCq s m
  if c.code != .active then s
  else
    let new := fld v 0 16
    if (c.tail - new).toNat ≤ (c.tail - c.head).toNat then modCq s m fun c => { c with head := new } else cqError s m 3 0

def writeCqbase (s : State) (m : CqNo) (v : Word) : State :=
  modCq s m fun c => if c.code == .disabled then { c with base := fld v 6 18 } else c

def writeCtxstat (s : State) (v : Word) : State :=
  { s with sched := { s.sched with resRefused := s.sched.resRefused && !bitAt v 16 } }

end Sys2Proof.Machine
end

