-- ==== Sys2Proof/Machine/Tick.lean ====
section
/-! DEFINITION. One cycle of the clock that DTIME counts (R453). -/

namespace Sys2Proof.Machine

/-- DTIME counts from the management oscillator: the core PLL is not locked, or Standby, or reset (SYNCCTL.FREE). -/
def freeRuns (s : State) : Bool := s.boot.inReset || s.dev.standby || s.power.unlock[4]

/-- The step of one REFCLK cycle in units of 2⁻³² ns: 6.4 × (1 + TRIM × 10⁻⁸) ns, rounded to the nearest unit, a half
rounded up (R453). -/
def cycleStep (trim : BitVec 16) : Nat :=
  let exact : Int := 64 * 4294967296 * (100000000 + trim.toInt)
  ((exact * 2 + 1000000000) / 2000000000).toNat

/-- 31.25 ns in units of 2⁻³² ns (R453). -/
def oscStep : Nat := 134217728000

/-- DTIME and its fraction advanced by n units of 2⁻³² ns. -/
def advance (t : TimeSt) (n : Nat) : TimeSt :=
  let all := t.dtime.toNat * 4294967296 + t.frac.toNat + n
  { t with dtime := BitVec.ofNat 64 (all / 4294967296), frac := BitVec.ofNat 32 all }

/-- One cycle, of REFCLK (6.4 ns) or of the management oscillator (31.25 ns). In reset DTIME stands at 0 (R453: it is 0 at reset release). -/
def tick (s : State) : State :=
  if s.boot.inReset then s
  else
    let t := advance s.time (if freeRuns s then oscStep else cycleStep s.time.trim)
    { s with time := { t with elapsed := t.elapsed + if freeRuns s then 625 else 128 } }

end Sys2Proof.Machine
end

