-- ==== Sys2Proof/Machine/MiscRegs.lean ====
section
/-! DEFINITION. The registers of the global, link, Window, NVM, telemetry and management blocks (02, 04, 06, 07, 09, 10,
11, 14 to 17): what each shows, and what a write of each does. -/

namespace Sys2Proof.Machine

/-! ### Global block -/

/-- DEVSTAT (Table 2-10): zero while the part is held in reset (R477); the choice of the Last shows from phase 0x2 on
(R49). -/
def devstatWord (s : State) : Word :=
  let b := s.boot
  if b.inReset then 0
  else wordOf [at_ b.phase 0, bitOn b.done 4, bitOn (b.applied && b.fallback) 5, at_ (if b.applied then b.src else 0) 6, bitOn b.calInvalid 9, bitOn b.bootsel 10,
    at_ b.addr 11, bitOn s.power.valid[7] 13, bitOn s.power.pumpReady 14, bitOn (bypLow s) 15, bitOn (devCause s) 16,
    bitOn s.therm.shutdown 17, bitOn s.dev.stbyRefused 18, bitOn s.power.vio33 19,
    bitOn (s.therm.samples == 2 && !s.therm.above[2]) 20]

def evtstatWord (e : EvtSt) : Word := wordOf [at_ e.next 0, bitOn e.wrapped 11, at_ e.lastCode 16]

def writeEvtmask (s : State) (v : Word) : State :=
  { s with evt := { s.evt with maskGroups := fld v 1 11, maskCq := fld v 16 8, minClass := fld v 24 2 } }

def writeAttnsrc (s : State) (v : Word) : State := { s with evt := { s.evt with attn := s.evt.attn &&& ~~~(fld v 0 12) } }

def awlstatWord (a : AwlSt) : Word :=
  wordOf [bitOn a.busy 0, bitOn a.done 1, bitOn a.refused 2, at_ a.reason 3, at_ a.jobs 16, at_ a.elapsed 24]

def Shadow.num : Shadow → BitVec 3
  | .empty => 0
  | .staging => 1
  | .staged => 2
  | .rejected => 3
  | .committing => 4

def laststatWord (x : LastSt) : Word :=
  wordOf [at_ x.shadow.num 0, bitOn x.mixed 3, bitOn x.bootDiff 4, bitOn x.globalDiff 5, at_ x.result 8, at_ x.refuse 16,
    at_ (BitVec.ofNat 2 x.stager.val) 20, bitOn x.done 22]

def lastdiffWord (x : LastSt) : Word := wordOf (allLinks.map fun l => at_ x.diff[l] (4 * l.val))

def lastbootWord (x : LastSt) : Word := wordOf [at_ x.eeprom 0, at_ x.slot1 8, at_ x.slot2 16, at_ x.slot0 24]

def recalMode (c : CalSt) : BitVec 2 :=
  match c.recal with
  | some r => r.mode
  | none => 0

def calstatWord (s : State) : Word :=
  let c := s.cal
  wordOf [bitOn c.aOk 0, bitOn c.bOk 1, bitOn (c.inUse == some true) 2, bitOn c.rextBad 3, bitOn (recPending s) 4, bitOn c.fail 5, bitOn c.busy 6,
    at_ (BitVec.ofNat 5 c.curPos.val) 7, bitOn c.curDir.bit 12, at_ (recalMode c) 13, bitOn c.adcCal 15, bitOn c.refused 16]

/-- The Heel evaluates the unit (R264): both ends powered, neither of them a tap. -/
def evaluated (s : State) (p : Pos) : Bool :=
  !islandOff s (.lane .A p) && !islandOff s (.lane .B p) && !closedAt s p

/-- The unit is due or running. -/
def unitDue (s : State) (p : Pos) (d : Dir) : Bool :=
  s.cal.dueList.contains (p, d) || s.cal.host == some (p, d) || (s.cal.busy && s.cal.curPos == p && s.cal.curDir == d)

/-- CALCMD.GO (R264, Table 9-6): whether it is refused, and the state. -/
def calGo (s : State) (pos : Nat) (d : Dir) : Bool × State :=
  if h : pos < 18 then
    let p : Pos := ⟨pos, h⟩
    if !evaluated s p then (true, s)
    else if unitDue s p d then (false, s)
    else if s.cal.host.isSome then (true, s)
    else (false, { s with cal := { s.cal with host := some (p, d) } })
  else (true, s)

/-- CALCMD.SAVE (R261). -/
def calSave (s : State) : Bool × State :=
  if s.cal.rextBad then (true, s) else (false, { s with cal := { s.cal with save := true, pending := true } })

/-- CALCMD written. -/
def writeCalcmd (s : State) (v : Word) : State :=
  let go := bitAt v 6
  let save := bitAt v 7
  let a := if go then calGo s (fld v 0 5).toNat (if bitAt v 5 then .BA else .AB) else (false, s)
  let b := if save then calSave a.2 else (false, a.2)
  if go || save then { b.2 with cal := { b.2.cal with refused := a.1 || b.1 } } else s

def writeCalstat (s : State) (v : Word) : State := { s with cal := { s.cal with fail := s.cal.fail && !bitAt v 5 } }

def syncctlWord (s : State) : Word :=
  wordOf [bitOn s.time.loadArm 0, bitOn s.time.syncDis 2, bitOn (freeRuns s) 3, bitOn s.time.loaded 4, at_ s.time.edges 8]

/-- SYNCCTL written (R456). -/
def writeSyncctl (s : State) (v : Word) : State :=
  let s := { s with time := { s.time with
    loadArm := bitAt v 0, syncDis := bitAt v 2, loaded := s.time.loaded && !bitAt v 4 } }
  if bitAt v 1 then loadNow s else s

def writeDtrate (s : State) (v : Word) : State := { s with time := { s.time with trim := fld v 0 16 } }

/-- A half of DTLOAD written. -/
def writeDtload (s : State) (hi : Bool) (v : Word) : State :=
  let old := s.time.load
  let load : BitVec 64 := if hi then v ++ old.extractLsb' 0 32 else old.extractLsb' 32 32 ++ v
  { s with time := { s.time with load := load } }

/-! ### Link blocks -/

def JoinState.num : JoinState → BitVec 3
  | .cfgBypass => 0
  | .forced => 1
  | .waitTrain => 2
  | .waitHost => 3
  | .joining => 4
  | .joined => 5
  | .aside => 6

def TrainState.num : TrainState → BitVec 4
  | .detect => 0
  | .align => 1
  | .eq1 => 2
  | .eq2 => 3
  | .lock => 4
  | .exchange => 5
  | .active => 6
  | .retrain => 7
  | .sleepAB => 8
  | .sleepBA => 9
  | .deep => 0xA
  | .loopback => 0xB
  | .disabled => 0xC
  | .notTraining => 0xD

def SpareCode.num : SpareCode → BitVec 3
  | .none => 0
  | .cold => 1
  | .warm => 2
  | .aligning => 3
  | .carrying => 4
  | .forward => 5
  | .standin => 6
  | .failed => 7

def lnkctlWord (k : Link) : Word := wordOf [bitOn k.disable 1, bitOn k.eqFixed 2, bitOn k.aside 30]

/-- LNKSTAT (Tables 2-12, 6-10). -/
def lnkstatWord (s : State) (l : LinkNo) : Word :=
  let k := getLink s l
  let closed := (linkPoss s.last.working l).all (closedAt s)
  wordOf [at_ k.st.num 0, at_ k.rate 4, at_ (BitVec.ofNat 5 k.width) 7, bitOn (imcOn k) 12, at_ k.detwA 13, at_ k.detwB 18,
    bitOn closed 28, at_ k.join.num 29]

def lnktrnWord (k : Link) : Word :=
  wordOf [at_ k.index 0, at_ k.total 2, at_ k.lastFail 4, at_ k.failRun 8, at_ k.retrains 16]

def lnkcapWord (k : Link) : Word :=
  wordOf [at_ k.capAB 0, at_ k.capBA 8, at_ k.capLink 16, at_ k.mlane 24, bitOn k.mlaneOk 28]

def laneNum (k : LLane) : BitVec 4 := BitVec.ofNat 4 k.val

def lnkspareWord (k : Link) : Word :=
  let f := fun (i : Fin 4) (lo : Nat) => [at_ k.spares[i].code.num lo, at_ (laneNum k.spares[i].lane) (lo + 3)]
  wordOf (f 0 0 ++ f 1 7 ++ f 2 14 ++ f 3 21 ++ [at_ k.lastResult 28])

/-- The lanes of a direction for which a spare in FORWARD has been declared lost (R193). -/
def forwardErr (k : Link) (d : Dir) : BitVec 16 :=
  bothSpares.foldl (fun v n =>
    let x := k.spares[spareIx n d]
    if x.code == .forward && x.lost then v ||| bit16 x.lane else v) 0

def lnkerrWord (k : Link) : Word := wordOf [at_ (k.lostAB ||| forwardErr k .AB) 0, at_ (k.lostBA ||| forwardErr k .BA) 16]

def lnkepochWord (s : State) (l : LinkNo) : Word := wordOf [at_ (getLink s l).epoch 0, bitOn (markersOn s l) 16]

def lnklossWord (k : Link) : Word :=
  wordOf [bitOn k.lostSeen 0, bitOn k.unrecovered 1, bitOn (k.cap != 0) 2, bitOn k.downTaken 3, at_ k.lossCause 4,
    at_ (laneNum k.lossLane) 8, bitOn k.lossDir.bit 12, at_ k.losses 16]

/-- LNKSPCMD written (R218): the checks, then the swap. -/
def writeLnkspcmd (s : State) (l : LinkNo) (v : Word) : State :=
  let op := (fld v 0 2).toNat
  let k : LLane := (fld v 2 4).toFin
  let n : SpareNo := if bitAt v 6 then 1 else 0
  let d : Dir := if bitAt v 7 then .BA else .AB
  if op = 0 ∨ op = 3 then s
  else
    let x := getSpare s l n d
    let cap := (getLink s l).capLink
    let ready := if op = 1 then x.code == .warm else x.code == .carrying && x.lane == k
    if !(cap.getLsbD 0 && cap.getLsbD 6) then setSwapResult s l 3
    else if !ready then setSwapResult s l 2
    else if !plannedOk s l || !(trainedLanes s l).contains k then setSwapResult s l 7
    else beginSwap s l d k n 3 (op = 2)

/-- LNKLOSS written (R201). -/
def writeLnkloss (s : State) (l : LinkNo) (v : Word) : State :=
  modLink s l fun k =>
    { k with
      lostSeen := k.lostSeen && !bitAt v 0
      downTaken := k.downTaken && !bitAt v 3
      cap := if bitAt v 13 then 0 else k.cap }

/-! ### Windows and the Store -/

def winctlWord (w : WinRegs) : Word := bitOn w.busy 1

def winerrWord (w : WinRegs) : Word :=
  wordOf [bitOn w.latched 0, at_ w.cause 1, bitOn w.path 4, bitOn w.write 5, bitOn w.more 6, bitOn w.refused 7]

def modWin (s : State) (c : Ctx) (f : WinRegs → WinRegs) : State := { s with win := { s.win with regs := vmod s.win.regs c f } }

def writeWinctl (s : State) (c : Ctx) (v : Word) : State :=
  if bitAt v 0 then modWin s c fun w => { w with busy := true } else s

def writeWinerr (s : State) (c : Ctx) (v : Word) : State :=
  modWin s c fun w =>
    { w with
      latched := w.latched && !bitAt v 0
      more := w.more && !bitAt v 6
      refused := w.refused && !bitAt v 7 }

/-- A Window entry written (R321). -/
def writeEntry (s : State) (c : Ctx) (addr : Nat) (t : WinCtx) (pg : Nat) (v : Word) : State :=
  let old := winEntry s t pg
  let new := storedEntry v
  if old.getLsbD 19 && new != (old &&& 0x7FFFF) then
    modWin (logEvent s 0x0805 c (aData addr 0 0)) c fun w => { w with refused := true }
  else setWinEntry s t pg new

def storestatWord (m : StoreSt) : Word := wordOf [at_ m.scrubLine 0, bitOn m.scrubOn 17, bitOn m.ceRate 18]

def storeueaWord (m : StoreSt) : Word := wordOf [at_ m.ueAddr 0, bitOn m.ueSeen 23, at_ m.ueCount 24]

def writeStorestat (s : State) (v : Word) : State :=
  { s with store := { s.store with
    ceRate := s.store.ceRate && !bitAt v 18, ce := if bitAt v 31 then 0 else s.store.ce } }

/-! ### NVM -/

def nvmctlWord (n : NvmSt) : Word := wordOf [at_ n.wp 0, bitOn n.lock 8]

def nvmstatWord (s : State) : Word :=
  let n := s.nvm
  wordOf [bitOn (nvmOp s != 0) 0, at_ (nvmOp s) 1, bitOn n.suspended 3, bitOn n.rdErased 4, bitOn n.rdUe 5,
    bitOn (!n.dirty.isEmpty) 6, at_ (BitVec.ofNat 8 (min n.retired.length 255)) 8, at_ n.ce 16]

def nvmwearWord (n : NvmSt) : Word :=
  let sec := n.wsel.toNat
  let h := n.head sec
  wordOf [at_ (BitVec.ofNat 17 h.count) 0, bitOn h.retired 17, bitOn (n.dirty.contains sec) 18,
    bitOn (n.restored.contains sec) 19]

def nvmlogWord (n : NvmSt) : Word :=
  wordOf [at_ n.dropped 0, at_ (BitVec.ofNat 8 n.tokens) 16, at_ (BitVec.ofNat 7 n.live) 24]

/-- NVMCTL written (R437). -/
def writeNvmctl (s : State) (v : Word) : State :=
  let n := s.nvm
  { s with nvm := { n with
    wp := if n.lock then n.wp else fld v 0 4
    lock := n.lock || bitAt v 8
    ce := if bitAt v 9 then 0 else n.ce } }

def writeNvmstat (s : State) (v : Word) : State := { s with nvm := { s.nvm with rdUe := s.nvm.rdUe && !bitAt v 5 } }

/-- A word read through the NVM read window (R423, R424, R439). -/
def nvmWindow (s : State) (off : Nat) : Word × State :=
  let u := unitNo off
  match readUnit s u with
  | (.bad, _, s) =>
    let s := { s with nvm := { s.nvm with rdUe := true, rdErased := false } }
    (0xFFFFFFFF, logEvent s 0x0A01 0 (bytesLE 4 (16 * u)))
  | (r, _, s) =>
    let s := { s with nvm := { s.nvm with rdErased := r == .erased } }
    (BitVec.ofNat 32 (leAt r.bytes (off % 16 / 4 * 4) 4), s)

/-! ### Telemetry -/

def tmseqctlWord (q : SeqrSt) : Word :=
  wordOf [bitOn q.prog.on 0, at_ (BitVec.ofNat 4 (q.prog.slots - 1)) 1, at_ q.prog.trig 5, bitOn q.prog.policy 7, bitOn q.hold 9]

def tmstatWord (t : TmSt) : Word :=
  wordOf [bitOn t.seqrs[0].running 0, bitOn t.seqrs[1].running 1, bitOn t.seqrs[0].pend 2, bitOn t.seqrs[1].pend 3,
    bitOn t.decReset 4, bitOn t.syncSeen 5, at_ t.alarm 16]

def tmmissWord (t : TmSt) : Word := wordOf [at_ t.miss[0] 0, at_ t.miss[1] 16]

def tmchWord (c : TmCh) : Word := wordOf [at_ c.value 0, bitOn c.stale 16, bitOn c.hi 17, bitOn c.lo 18, at_ c.sample 24]

def tmthreshWord (c : TmCh) : Word := wordOf [at_ c.lim.1 0, at_ c.lim.2 16]

/-- TMSEQCTL written; RESTART moves an origin in time that only the timer's own triggers show (log 11). -/
def writeTmseqctl (s : State) (n : SeqNo) (v : Word) : State := modSeqr s n fun q => { q with hold := bitAt v 9 }

def writeTmstat (s : State) (v : Word) : State :=
  { s with tm := { s.tm with syncSeen := s.tm.syncSeen && !bitAt v 5, alarm := s.tm.alarm &&& ~~~(fld v 16 12) } }

def writeTmthresh (s : State) (k : Fin 12) (v : Word) : State :=
  { s with tm := { s.tm with ch := vmod s.tm.ch k fun c => { c with lim := (fld v 0 16, fld v 16 16) } } }

/-! ### Two-wire and in-band -/

def twbctlWord (t : TwbSt) : Word := wordOf [bitOn t.toutDis 0, bitOn t.stretchDis 1, at_ t.idleMs 8]

def twbstatWord (s : State) : Word :=
  let t := s.twb
  wordOf [bitOn t.awake 0, bitOn t.sclLow 1, bitOn t.sdaLow 2, bitOn t.denied 3, bitOn t.partl 4, bitOn t.addrShort 5,
    bitOn t.late 6, bitOn t.overrun 7, at_ s.boot.arbLost 8]

def writeTwbctl (s : State) (v : Word) : State :=
  { s with twb := { s.twb with toutDis := bitAt v 0, stretchDis := bitAt v 1, idleMs := fld v 8 8 } }

def writeTwbstat (s : State) (v : Word) : State :=
  let t := s.twb
  { s with twb := { t with
    sclLow := t.sclLow && !(bitAt v 1 && !t.sclDown)
    sdaLow := t.sdaLow && !(bitAt v 2 && !t.sdaDown)
    denied := t.denied && !bitAt v 3
    partl := t.partl && !bitAt v 4
    addrShort := t.addrShort && !bitAt v 5
    late := t.late && !bitAt v 6
    overrun := t.overrun && !bitAt v 7 } }

def imcctlWord (m : ImcSt) : Word := wordOf [bitOn m.notifyA 0, bitOn m.notifyB 1, at_ m.notifyMs 8]

def imcstatWord (s : State) : Word :=
  wordOf [bitOn (allLinks.any (channelOn s .A)) 0, bitOn (allLinks.any (channelOn s .B)) 1, at_ s.imc.lastNak 4,
    bitOn s.imc.lastNakB 7]

def writeImcctl (s : State) (v : Word) : State :=
  { s with imc := { s.imc with notifyA := bitAt v 0, notifyB := bitAt v 1, notifyMs := fld v 8 8 } }

def sideIx : Side → Fin 2
  | .A => 0
  | .B => 1

def imccntWord (s : State) (sd : Side) : Word :=
  let i := sideIx sd
  wordOf [at_ s.imc.crcErr[i] 0, at_ s.imc.dropped[i] 8, at_ s.imc.stale[i] 16, at_ s.imc.bad[i] 24]

/-- IMCCNT cleared by its read. -/
def clearImccnt (s : State) (sd : Side) : State :=
  let i := sideIx sd
  { s with imc := { s.imc with
    crcErr := vput s.imc.crcErr i 0, dropped := vput s.imc.dropped i 0, stale := vput s.imc.stale i 0
    bad := vput s.imc.bad i 0 } }

end Sys2Proof.Machine
end

