-- ==== Sys2Proof/Machine/Regs.lean ====
section
/-! DEFINITION. The address map and the order of checks on each word (18): every register by name, its address, its
island and permission bit, its read and its write. -/

namespace Sys2Proof.Machine

/-- Every register of Tables 18-3 to 18-6. -/
inductive Reg where
  | devid | devctl | devstat | evtstat | evtmask | attnsrc | faultsrc | evtcnt | evtseq | awlcmd | awlstat | lastcmd
  | laststat | lastdiff | lastlink | lastboot | calcmd | calstat
  | awlout (k : Fin 4)
  | dtimeLo | dtimeHi | syncctl | dtrate | dtloadLo | dtloadHi | dtsyncLo | dtsyncHi
  | lnkctl (l : LinkNo) | lnkstat (l : LinkNo) | lnktrn (l : LinkNo) | lnkcap (l : LinkNo) | lnkspare (l : LinkNo)
  | lnkerr (l : LinkNo) | lnkepoch (l : LinkNo) | lnkspcmd (l : LinkNo) | lnkloss (l : LinkNo)
  | lnctl (sd : Side) (p : Pos) | lnstat (sd : Side) (p : Pos) | lnsnap (sd : Side) (p : Pos) | lneq (sd : Side) (p : Pos)
  | lntxdrv (sd : Side) (p : Pos) | lnskpadd (sd : Side) (p : Pos) | lnskpdel (sd : Side) (p : Pos)
  | lndfe (sd : Side) (p : Pos) (k : Fin 12) | lneye (sd : Side) (p : Pos) | lnscan (sd : Side) (p : Pos)
  | lnscancnt (sd : Side) (p : Pos) | lnprbs (sd : Side) (p : Pos) | lnprbsusr (sd : Side) (p : Pos)
  | lnloop (sd : Side) (p : Pos) | lnerrcnt (sd : Side) (p : Pos) | lnsymcntLo (sd : Side) (p : Pos)
  | lnsymcntHi (sd : Side) (p : Pos) | lncal (sd : Side) (p : Pos) | lncalt (sd : Side) (p : Pos)
  | wqctl (q : WqNo) | wqstat (q : WqNo) | wqdb (q : WqNo) | wqerr (q : WqNo) | wqhdr (q : WqNo)
  | wqheld (q : WqNo) (k : Fin 4)
  | cqctl (m : CqNo) | cqstat (m : CqNo) | cqhead (m : CqNo) | cqbase (m : CqNo)
  | ctxslot (k : SlotNo) | ctxflt (k : SlotNo) (i : Fin 4) | ctxstat
  | winctl (c : Ctx) | winerr (c : Ctx) | winerrva (c : Ctx) | storestat | storece | storeuea | storescrub
  | winentry (t : WinCtx) (pg : Fin 4096)
  | nvmctl | nvmstat | nvmaddr | nvmwsel | nvmwear | nvmlog
  | tmseqctl (n : SeqNo) | tmstat | tmmiss | tmch (k : Fin 12) | tmthresh (k : Fin 12)
  | twbctl | twbstat | imcctl | imcstat | imccnt (sd : Side)
  deriving DecidableEq, Repr

/-! ### Addresses -/

/-- The base of a side's lane block (R479). -/
def laneBase : Side → Pos → Nat
  | .A, p => 0x20000 + 0x1000 * p.val
  | .B, p => 0x40000 + 0x1000 * p.val

def linkBase (l : LinkNo) : Nat := 0x10000 + 0x2000 * l.val

/-- The address of each register (Tables 18-3 to 18-6). -/
def regAddrNat : Reg → Nat
  | .devid => 0x00
  | .devctl => 0x04
  | .devstat => 0x08
  | .evtstat => 0x10
  | .evtmask => 0x14
  | .attnsrc => 0x18
  | .faultsrc => 0x1C
  | .evtcnt => 0x20
  | .evtseq => 0x24
  | .awlcmd => 0x40
  | .awlstat => 0x44
  | .lastcmd => 0x50
  | .laststat => 0x54
  | .lastdiff => 0x58
  | .lastlink => 0x5C
  | .lastboot => 0x60
  | .calcmd => 0x68
  | .calstat => 0x6C
  | .awlout k => 0x80 + 4 * k.val
  | .dtimeLo => 0xA0
  | .dtimeHi => 0xA4
  | .syncctl => 0xA8
  | .dtrate => 0xAC
  | .dtloadLo => 0xB0
  | .dtloadHi => 0xB4
  | .dtsyncLo => 0xB8
  | .dtsyncHi => 0xBC
  | .lnkctl l => linkBase l
  | .lnkstat l => linkBase l + 0x04
  | .lnktrn l => linkBase l + 0x08
  | .lnkcap l => linkBase l + 0x0C
  | .lnkspare l => linkBase l + 0x10
  | .lnkerr l => linkBase l + 0x14
  | .lnkepoch l => linkBase l + 0x18
  | .lnkspcmd l => linkBase l + 0x1C
  | .lnkloss l => linkBase l + 0x20
  | .lnctl sd p => laneBase sd p
  | .lnstat sd p => laneBase sd p + 0x04
  | .lnsnap sd p => laneBase sd p + 0x08
  | .lneq sd p => laneBase sd p + 0x0C
  | .lntxdrv sd p => laneBase sd p + 0x10
  | .lnskpadd sd p => laneBase sd p + 0x14
  | .lnskpdel sd p => laneBase sd p + 0x18
  | .lndfe sd p k => laneBase sd p + 0x20 + 4 * k.val
  | .lneye sd p => laneBase sd p + 0x50
  | .lnscan sd p => laneBase sd p + 0x54
  | .lnscancnt sd p => laneBase sd p + 0x58
  | .lnprbs sd p => laneBase sd p + 0x5C
  | .lnprbsusr sd p => laneBase sd p + 0x60
  | .lnloop sd p => laneBase sd p + 0x64
  | .lnerrcnt sd p => laneBase sd p + 0x68
  | .lnsymcntLo sd p => laneBase sd p + 0x6C
  | .lnsymcntHi sd p => laneBase sd p + 0x70
  | .lncal sd p => laneBase sd p + 0x80
  | .lncalt sd p => laneBase sd p + 0x84
  | .wqctl q => 0x60000 + 0x40 * q.val
  | .wqstat q => 0x60004 + 0x40 * q.val
  | .wqdb q => 0x60008 + 0x40 * q.val
  | .wqerr q => 0x6000C + 0x40 * q.val
  | .wqhdr q => 0x60010 + 0x40 * q.val
  | .wqheld q k => 0x60020 + 0x40 * q.val + 4 * k.val
  | .cqctl m => 0x61000 + 0x20 * m.val
  | .cqstat m => 0x61004 + 0x20 * m.val
  | .cqhead m => 0x61008 + 0x20 * m.val
  | .cqbase m => 0x6100C + 0x20 * m.val
  | .ctxslot k => 0x61800 + 0x20 * k.val
  | .ctxflt k i => 0x61810 + 0x20 * k.val + 4 * i.val
  | .ctxstat => 0x61900
  | .winctl c => 0x70000 + 0x100 * c.val
  | .winerr c => 0x70004 + 0x100 * c.val
  | .winerrva c => 0x70008 + 0x100 * c.val
  | .storestat => 0x70800
  | .storece => 0x70804
  | .storeuea => 0x70808
  | .storescrub => 0x7080C
  | .winentry t pg => 0x74000 + 0x4000 * t.val + 4 * pg.val
  | .nvmctl => 0x80000
  | .nvmstat => 0x80004
  | .nvmaddr => 0x80008
  | .nvmwsel => 0x8000C
  | .nvmwear => 0x80010
  | .nvmlog => 0x80014
  | .tmseqctl n => 0x90000 + 4 * n.val
  | .tmstat => 0x90008
  | .tmmiss => 0x9000C
  | .tmch k => 0x90040 + 4 * k.val
  | .tmthresh k => 0x90080 + 4 * k.val
  | .twbctl => 0xA0000
  | .twbstat => 0xA0004
  | .imcctl => 0xA0010
  | .imcstat => 0xA0014
  | .imccnt .A => 0xA0018
  | .imccnt .B => 0xA001C

def regAddr (r : Reg) : Word := BitVec.ofNat 32 (regAddrNat r)

/-- The registers of the global block by offset (Table 18-3). -/
def globalReg (o : Nat) : Option Reg :=
  match o with
  | 0x00 => some .devid
  | 0x04 => some .devctl
  | 0x08 => some .devstat
  | 0x10 => some .evtstat
  | 0x14 => some .evtmask
  | 0x18 => some .attnsrc
  | 0x1C => some .faultsrc
  | 0x20 => some .evtcnt
  | 0x24 => some .evtseq
  | 0x40 => some .awlcmd
  | 0x44 => some .awlstat
  | 0x50 => some .lastcmd
  | 0x54 => some .laststat
  | 0x58 => some .lastdiff
  | 0x5C => some .lastlink
  | 0x60 => some .lastboot
  | 0x68 => some .calcmd
  | 0x6C => some .calstat
  | 0x80 => some (.awlout 0)
  | 0x84 => some (.awlout 1)
  | 0x88 => some (.awlout 2)
  | 0x8C => some (.awlout 3)
  | 0xA0 => some .dtimeLo
  | 0xA4 => some .dtimeHi
  | 0xA8 => some .syncctl
  | 0xAC => some .dtrate
  | 0xB0 => some .dtloadLo
  | 0xB4 => some .dtloadHi
  | 0xB8 => some .dtsyncLo
  | 0xBC => some .dtsyncHi
  | _ => none

/-- The registers of a link block (Table 18-4). -/
def linkReg (l : LinkNo) (o : Nat) : Option Reg :=
  match o with
  | 0x00 => some (.lnkctl l)
  | 0x04 => some (.lnkstat l)
  | 0x08 => some (.lnktrn l)
  | 0x0C => some (.lnkcap l)
  | 0x10 => some (.lnkspare l)
  | 0x14 => some (.lnkerr l)
  | 0x18 => some (.lnkepoch l)
  | 0x1C => some (.lnkspcmd l)
  | 0x20 => some (.lnkloss l)
  | _ => none

/-- The registers of a lane block (Table 18-5). -/
def laneReg (sd : Side) (p : Pos) (o : Nat) : Option Reg :=
  match o with
  | 0x00 => some (.lnctl sd p)
  | 0x04 => some (.lnstat sd p)
  | 0x08 => some (.lnsnap sd p)
  | 0x0C => some (.lneq sd p)
  | 0x10 => some (.lntxdrv sd p)
  | 0x14 => some (.lnskpadd sd p)
  | 0x18 => some (.lnskpdel sd p)
  | 0x50 => some (.lneye sd p)
  | 0x54 => some (.lnscan sd p)
  | 0x58 => some (.lnscancnt sd p)
  | 0x5C => some (.lnprbs sd p)
  | 0x60 => some (.lnprbsusr sd p)
  | 0x64 => some (.lnloop sd p)
  | 0x68 => some (.lnerrcnt sd p)
  | 0x6C => some (.lnsymcntLo sd p)
  | 0x70 => some (.lnsymcntHi sd p)
  | 0x80 => some (.lncal sd p)
  | 0x84 => some (.lncalt sd p)
  | _ => if 0x20 ≤ o ∧ o < 0x50 then some (.lndfe sd p (Fin.ofNat 12 ((o - 0x20) / 4))) else none

/-- The registers of the queue block (Table 18-6). -/
def queueReg (o : Nat) : Option Reg :=
  if o < 0x800 then
    let q : WqNo := Fin.ofNat 32 (o / 0x40)
    match o % 0x40 with
    | 0x00 => some (.wqctl q)
    | 0x04 => some (.wqstat q)
    | 0x08 => some (.wqdb q)
    | 0x0C => some (.wqerr q)
    | 0x10 => some (.wqhdr q)
    | 0x20 => some (.wqheld q 0)
    | 0x24 => some (.wqheld q 1)
    | 0x28 => some (.wqheld q 2)
    | 0x2C => some (.wqheld q 3)
    | _ => none
  else if 0x1000 ≤ o ∧ o < 0x1100 then
    let m : CqNo := Fin.ofNat 8 ((o - 0x1000) / 0x20)
    match o % 0x20 with
    | 0x00 => some (.cqctl m)
    | 0x04 => some (.cqstat m)
    | 0x08 => some (.cqhead m)
    | 0x0C => some (.cqbase m)
    | _ => none
  else if 0x1800 ≤ o ∧ o < 0x1900 then
    let k : SlotNo := Fin.ofNat 8 ((o - 0x1800) / 0x20)
    match o % 0x20 with
    | 0x00 => some (.ctxslot k)
    | 0x10 => some (.ctxflt k 0)
    | 0x14 => some (.ctxflt k 1)
    | 0x18 => some (.ctxflt k 2)
    | 0x1C => some (.ctxflt k 3)
    | _ => none
  else if o = 0x1900 then some .ctxstat
  else none

/-- The registers of the Window block (Table 18-6). -/
def windowReg (o : Nat) : Option Reg :=
  if 0x4000 ≤ o then some (.winentry (Fin.ofNat 3 ((o - 0x4000) / 0x4000)) (Fin.ofNat 4096 (o % 0x4000 / 4)))
  else if o < 0x400 then
    let c : Ctx := Fin.ofNat 4 (o / 0x100)
    match o % 0x100 with
    | 0x00 => some (.winctl c)
    | 0x04 => some (.winerr c)
    | 0x08 => some (.winerrva c)
    | _ => none
  else match o with
    | 0x800 => some .storestat
    | 0x804 => some .storece
    | 0x808 => some .storeuea
    | 0x80C => some .storescrub
    | _ => none

def nvmReg (o : Nat) : Option Reg :=
  match o with
  | 0x00 => some .nvmctl
  | 0x04 => some .nvmstat
  | 0x08 => some .nvmaddr
  | 0x0C => some .nvmwsel
  | 0x10 => some .nvmwear
  | 0x14 => some .nvmlog
  | _ => none

def telemReg (o : Nat) : Option Reg :=
  match o with
  | 0x00 => some (.tmseqctl 0)
  | 0x04 => some (.tmseqctl 1)
  | 0x08 => some .tmstat
  | 0x0C => some .tmmiss
  | _ =>
    if 0x40 ≤ o ∧ o < 0x70 then some (.tmch (Fin.ofNat 12 ((o - 0x40) / 4)))
    else if 0x80 ≤ o ∧ o < 0xB0 then some (.tmthresh (Fin.ofNat 12 ((o - 0x80) / 4)))
    else none

def busReg (o : Nat) : Option Reg :=
  match o with
  | 0x00 => some .twbctl
  | 0x04 => some .twbstat
  | 0x10 => some .imcctl
  | 0x14 => some .imcstat
  | 0x18 => some (.imccnt .A)
  | 0x1C => some (.imccnt .B)
  | _ => none

/-- The island that holds each register (Tables 18-1, 18-4, 18-6). -/
def regIsland : Reg → Island
  | .lnktrn l | .lnkcap l | .lnkspare l | .lnkerr l | .lnkspcmd l | .lnkloss l => .aligner l
  | .lnctl sd p | .lnstat sd p | .lnsnap sd p | .lneq sd p | .lntxdrv sd p | .lnskpadd sd p | .lnskpdel sd p
  | .lndfe sd p _ | .lneye sd p | .lnscan sd p | .lnscancnt sd p | .lnprbs sd p | .lnprbsusr sd p | .lnloop sd p
  | .lnerrcnt sd p | .lnsymcntLo sd p | .lnsymcntHi sd p | .lncal sd p | .lncalt sd p => .lane sd p
  | .wqctl _ | .wqstat _ | .wqdb _ | .wqerr _ | .wqhdr _ | .wqheld _ _ | .cqctl _ | .cqstat _ | .cqhead _ | .cqbase _
  | .ctxslot _ | .ctxflt _ _ | .ctxstat | .winctl _ | .winerr _ | .winerrva _ | .winentry _ _ => .core
  | .storestat | .storece | .storeuea | .storescrub => .store
  | .nvmctl | .nvmstat | .nvmaddr | .nvmwsel | .nvmwear | .nvmlog => .nvm
  | .tmseqctl _ | .tmstat | .tmmiss | .tmch _ | .tmthresh _ => .telemetry
  | _ => .management

/-- The permission bit of a register of the global block (Table 18-3). -/
def globalBit : Reg → Nat
  | .awlcmd | .awlstat => 1
  | .lastcmd | .laststat | .lastboot => 2
  | _ => 0

/-- What an address names (Table 18-1): nothing; a reserved offset with its permission bit and island; a register with
its permission bit; a byte of the Store, physical or virtual; a byte of the NVM. -/
inductive Target where
  | none
  | reserved (bit : Nat) (island : Island)
  | reg (r : Reg) (bit : Nat)
  | physical (pa : Nat)
  | virtual_ (va : Nat)
  | nvm (off : Nat)
  deriving DecidableEq, Repr

def regOr (r : Option Reg) (bit : Nat) (island : Island) : Target :=
  match r with
  | some r => .reg r bit
  | none => .reserved bit island

/-- The address decoded, its bits [1:0] taken as zero (R475, R482). -/
def decodeAddr (a : Word) : Target :=
  let n := a.toNat / 4 * 4
  if n < 0x10000 then
    match globalReg n with
    | some r => .reg r (globalBit r)
    | none => .reserved 0 .management
  else if n < 0x20000 then
    let l : LinkNo := Fin.ofNat 8 ((n - 0x10000) / 0x2000)
    regOr (linkReg l (n % 0x2000)) 3 (.aligner l)
  else if n < 0x32000 then
    let p : Pos := Fin.ofNat 18 ((n - 0x20000) / 0x1000)
    regOr (laneReg .A p (n % 0x1000)) 4 (.lane .A p)
  else if n < 0x40000 then .none
  else if n < 0x52000 then
    let p : Pos := Fin.ofNat 18 ((n - 0x40000) / 0x1000)
    regOr (laneReg .B p (n % 0x1000)) 5 (.lane .B p)
  else if n < 0x60000 then .none
  else if n < 0x62000 then regOr (queueReg (n - 0x60000)) 6 .core
  else if n < 0x70000 then .none
  else if n < 0x80000 then regOr (windowReg (n - 0x70000)) 7 .core
  else if n < 0x90000 then regOr (nvmReg (n - 0x80000)) 8 .nvm
  else if n < 0xA0000 then regOr (telemReg (n - 0x90000)) 9 .telemetry
  else if n < 0xB0000 then regOr (busReg (n - 0xA0000)) 10 .management
  else if n < 0x1000000 then .none
  else if n < 0x1800000 then .physical (n - 0x1000000)
  else if n < 0x2000000 then .none
  else if n < 0x3000000 then .virtual_ (n - 0x2000000)
  else if n < 0x4000000 then .none
  else if n < 0x4100000 then .nvm (n - 0x4000000)
  else .none

/-! ### Reads -/

/-- What a register shows to a context. -/
def regValue (s : State) (c : Ctx) : Reg → Word
  | .devid => 0x1162056B
  | .devctl => bitOn s.dev.aside 2
  | .devstat => devstatWord s
  | .evtstat => evtstatWord s.evt
  | .evtmask => evtMask s
  | .attnsrc => attnSrc s
  | .faultsrc => faultSrc s
  | .evtcnt => s.evt.overwrites
  | .evtseq => s.evt.seq
  | .awlcmd => 0
  | .awlstat => awlstatWord s.awl
  | .lastcmd => 0
  | .laststat => laststatWord s.last
  | .lastdiff => lastdiffWord s.last
  | .lastlink => lastLink s
  | .lastboot => lastbootWord s.last
  | .calcmd => 0
  | .calstat => calstatWord s
  | .awlout k => s.awl.out[k]
  | .dtimeLo => s.time.dtime.extractLsb' 0 32
  | .dtimeHi => match s.acc.hiHeld[c] with
    | some w => w
    | none => s.time.dtime.extractLsb' 32 32
  | .syncctl => syncctlWord s
  | .dtrate => at_ s.time.trim 0
  | .dtloadLo => s.time.load.extractLsb' 0 32
  | .dtloadHi => s.time.load.extractLsb' 32 32
  | .dtsyncLo => s.time.sync.extractLsb' 0 32
  | .dtsyncHi => s.time.sync.extractLsb' 32 32
  | .lnkctl l => lnkctlWord (getLink s l)
  | .lnkstat l => lnkstatWord s l
  | .lnktrn l => lnktrnWord (getLink s l)
  | .lnkcap l => lnkcapWord (getLink s l)
  | .lnkspare l => lnkspareWord (getLink s l)
  | .lnkerr l => lnkerrWord (getLink s l)
  | .lnkepoch l => lnkepochWord s l
  | .lnkspcmd _ => 0
  | .lnkloss l => lnklossWord (getLink s l)
  | .lnctl sd p => lnctlWord (getLane s sd p)
  | .lnstat sd p => snapWord s c sd p 0
  | .lnsnap sd p => lnsnapWord (getLane s sd p).snap
  | .lneq sd p => snapWord s c sd p 1
  | .lntxdrv sd p => snapWord s c sd p 2
  | .lnskpadd sd p => snapWord s c sd p 3
  | .lnskpdel sd p => snapWord s c sd p 4
  | .lndfe sd p k => snapWord s c sd p (Fin.ofNat 21 (9 + k.val))
  | .lneye sd p => snapWord s c sd p 8
  | .lnscan sd p => lnscanWord (getLane s sd p).meas
  | .lnscancnt sd p => (getLane s sd p).meas.scanCnt
  | .lnprbs sd p => lnprbsWord s sd p
  | .lnprbsusr sd p => at_ (getLane s sd p).meas.user 0
  | .lnloop sd p => lnloopWord (getLane s sd p).meas
  | .lnerrcnt sd p => snapWord s c sd p 5
  | .lnsymcntLo sd p => snapWord s c sd p 6
  | .lnsymcntHi sd p => snapWord s c sd p 7
  | .lncal sd p => lncalWord (getLane s sd p).cal
  | .lncalt sd p => lncaltWord s (getLane s sd p).cal
  | .wqctl q => wqctlWord (getWq s q)
  | .wqstat q => wqstatWord s q
  | .wqdb q => at_ (getWq s q).tail 0
  | .wqerr q => wqerrWord (getWq s q)
  | .wqhdr q => at_ (getWq s q).hdr 6
  | .wqheld q k => wqheldWord (getWq s q) k
  | .cqctl m => cqctlWord (getCq s m)
  | .cqstat m => cqstatWord (getCq s m)
  | .cqhead m => at_ (getCq s m).head 0
  | .cqbase m => at_ (getCq s m).base 6
  | .ctxslot k => ctxslotWord s.slots[k]
  | .ctxflt k i => s.slots[k].record[i]
  | .ctxstat => ctxstatWord s
  | .winctl c => winctlWord s.win.regs[c]
  | .winerr c => winerrWord s.win.regs[c]
  | .winerrva c => at_ s.win.regs[c].va 0
  | .storestat => storestatWord s.store
  | .storece => s.store.ce
  | .storeuea => storeueaWord s.store
  | .storescrub => s.store.passes
  | .winentry t pg => at_ (winEntry s t pg.val) 0
  | .nvmctl => nvmctlWord s.nvm
  | .nvmstat => nvmstatWord s
  | .nvmaddr => wordOf [at_ s.nvm.addr 0, bitOn s.nvm.addrOk 31]
  | .nvmwsel => at_ s.nvm.wsel 0
  | .nvmwear => nvmwearWord s.nvm
  | .nvmlog => nvmlogWord s.nvm
  | .tmseqctl n => tmseqctlWord s.tm.seqrs[n]
  | .tmstat => tmstatWord s.tm
  | .tmmiss => tmmissWord s.tm
  | .tmch k => tmchWord s.tm.ch[k]
  | .tmthresh k => tmthreshWord s.tm.ch[k]
  | .twbctl => twbctlWord s.twb
  | .twbstat => twbstatWord s
  | .imcctl => imcctlWord s.imc
  | .imcstat => imcstatWord s
  | .imccnt sd => imccntWord s sd

/-- What a read does to the RC fields of a register (R11). -/
def readEffect (s : State) : Reg → State
  | .tmmiss => { s with tm := { s.tm with miss := Vector.replicate 2 0 } }
  | .imccnt sd => clearImccnt s sd
  | _ => s

/-- DTIME_LO latches the upper half for the reading context; any other register read ends that (R455). -/
def latchTime (s : State) (c : Ctx) (r : Reg) : State :=
  let w := if r = .dtimeLo then some (s.time.dtime.extractLsb' 32 32) else none
  { s with acc := { s.acc with hiHeld := vput s.acc.hiHeld c w } }

def readReg (s : State) (c : Ctx) (r : Reg) : Word × State := (regValue s c r, latchTime (readEffect s r) c r)

/-! ### Writes -/

/-- A write of a register by a context that may write it. -/
def writeReg (s : State) (c : Ctx) (r : Reg) (v : Word) : State :=
  match r with
  | .devctl => writeDevctl s v
  | .evtmask => writeEvtmask s v
  | .attnsrc => writeAttnsrc s v
  | .faultsrc => clearFaults s v
  | .awlcmd => awlCommand s v
  | .lastcmd => writeLastcmd s c v
  | .calcmd => writeCalcmd s v
  | .calstat => writeCalstat s v
  | .syncctl => writeSyncctl s v
  | .dtrate => writeDtrate s v
  | .dtloadLo => writeDtload s false v
  | .dtloadHi => writeDtload s true v
  | .lnkctl l => writeLnkctl s l v
  | .lnkspcmd l => writeLnkspcmd s l v
  | .lnkloss l => writeLnkloss s l v
  | .lnctl sd p => writeLnctl s sd p v
  | .lnstat sd p => writeLnstat s sd p v
  | .lnsnap sd p => writeLnsnap s c sd p v
  | .lneq sd p => writeLneq s sd p v
  | .lntxdrv sd p => writeLntxdrv s sd p v
  | .lnscan sd p => writeLnscan s sd p v
  | .lnprbs sd p => writeLnprbs s sd p v
  | .lnprbsusr sd p => modMeas s sd p fun m => { m with user := fld v 0 20 }
  | .lnloop sd p => writeLnloop s sd p v
  | .lnsymcntHi sd p => writeLnsymcntHi s sd p v
  | .lncal sd p => writeLncal s sd p v
  | .wqctl q => writeWqctl s q v
  | .wqstat q => writeWqstat s q v
  | .wqdb q => doorbell s q v
  | .wqhdr q => writeWqhdr s q v
  | .cqctl m => writeCqctl s m v
  | .cqstat m => writeCqstat s m v
  | .cqhead m => writeCqhead s m v
  | .cqbase m => writeCqbase s m v
  | .ctxstat => writeCtxstat s v
  | .winctl w => writeWinctl s w v
  | .winerr w => writeWinerr s w v
  | .storestat => writeStorestat s v
  | .winentry t pg => writeEntry s c (regAddrNat r) t pg.val v
  | .nvmctl => writeNvmctl s v
  | .nvmstat => writeNvmstat s v
  | .nvmwsel => { s with nvm := { s.nvm with wsel := fld v 0 8 } }
  | .tmseqctl n => writeTmseqctl s n v
  | .tmstat => writeTmstat s v
  | .tmthresh k => writeTmthresh s k v
  | .twbctl => writeTwbctl s v
  | .twbstat => writeTwbstat s v
  | .imcctl => writeImcctl s v
  | .devid | .devstat | .evtstat | .evtcnt | .evtseq | .awlstat | .laststat | .lastdiff | .lastlink | .lastboot | .awlout _
  | .dtimeLo | .dtimeHi | .dtsyncLo | .dtsyncHi | .lnkstat _ | .lnktrn _ | .lnkcap _ | .lnkspare _ | .lnkerr _
  | .lnkepoch _ | .lnskpadd _ _ | .lnskpdel _ _ | .lndfe _ _ _ | .lneye _ _ | .lnscancnt _ _ | .lnerrcnt _ _
  | .lnsymcntLo _ _ | .lncalt _ _ | .wqerr _ | .wqheld _ _ | .ctxslot _ | .ctxflt _ _ | .winerrva _ | .storece | .storeuea
  | .storescrub | .nvmaddr | .nvmwear | .nvmlog | .tmmiss | .tmch _ | .imcstat | .imccnt _ => s

/-! ### The order of checks (R484) -/

/-- The permission bit of what an address names; none for an address in no block. -/
def Target.bit : Target → Option Nat
  | .none => Option.none
  | .reserved b _ => some b
  | .reg _ b => some b
  | .physical _ => some 11
  | .virtual_ _ => some 12
  | .nvm _ => some 13

def Target.island : Target → Island
  | .none => .management
  | .reserved _ i => i
  | .reg r _ => regIsland r
  | .physical _ => .store
  | .virtual_ _ => .store
  | .nvm _ => .nvm

/-- Beside the grant, a context may write only its own Window registers and entries, and its own queues' registers
(R320, R331, R333). -/
def ownRegister (s : State) (c : Ctx) : Target → Bool
  | .reg (.winctl w) _ | .reg (.winerr w) _ | .reg (.winerrva w) _ => w == c
  | .reg (.winentry t _) _ => winCtx c == some t
  | .reg (.wqctl q) _ | .reg (.wqstat q) _ | .reg (.wqdb q) _ | .reg (.wqerr q) _ | .reg (.wqhdr q) _
  | .reg (.wqheld q _) _ => (getWq s q).cfg.owner.isSome && winCtx c == (getWq s q).cfg.owner
  | .reg (.cqctl m) _ | .reg (.cqstat m) _ | .reg (.cqhead m) _ | .reg (.cqbase m) _ =>
    (getCq s m).owner.isSome && winCtx c == (getCq s m).owner
  | _ => true

/-- The Store physical window is C0's alone (R304). -/
def physicalOk (c : Ctx) : Target → Bool
  | .physical _ => c == 0
  | _ => true

/-- Step 2 of Table 18-7 lets the word through, for a read and for a write. -/
def mayRead (s : State) (c : Ctx) (a : Word) : Bool :=
  let t := decodeAddr a
  match t.bit with
  | none => true
  | some b => readGrant s c b && physicalOk c t

def mayWrite (s : State) (c : Ctx) (a : Word) : Bool :=
  let t := decodeAddr a
  match t.bit with
  | none => true
  | some b => writeGrant s c b && physicalOk c t && ownRegister s c t

/-- The register address that an access uses, as its events name it (R482). -/
def alignedAddr (a : Word) : Nat := a.toNat / 4 * 4

/-- A denied access (R274): its event; of the two-wire host's, TWBSTAT.DENIED. -/
def logDenied (s : State) (c : Ctx) (a : Word) : State :=
  let s := if c = 1 then { s with twb := { s.twb with denied := true } } else s
  logEvent s 0x0702 c (aData (alignedAddr a) 0 0)

def logIslandOff (s : State) (c : Ctx) (a : Word) : State := logEvent s 0x0701 c (aData (alignedAddr a) 0 0)

/-- Steps 3 to 5 for a read. -/
def readOpen (s : State) (c : Ctx) (a : Word) : Word × State :=
  let t := decodeAddr a
  if t = .none then (0, s)
  else if islandOff s t.island then (0xFFFFFFFF, logIslandOff s c a)
  else match t with
    | .none | .reserved _ _ => (0, s)
    | .reg r _ => readReg s c r
    | .physical pa => storeReadPa s c (alignedAddr a) pa pa
    | .virtual_ va => storeReadVa s c va
    | .nvm off => nvmWindow s off

/-- Steps 3 to 5 for a write. -/
def writeOpen (s : State) (c : Ctx) (a : Word) (v : Word) : State :=
  let t := decodeAddr a
  if t = .none then s
  else if islandOff s t.island then logIslandOff s c a
  else match t with
    | .none | .reserved _ _ | .nvm _ => s
    | .reg r _ => writeReg s c r v
    | .physical pa => storeWrite s pa (bytesLE 4 v.toNat)
    | .virtual_ va => storeWriteVa s c va v

/-- A read of one word; a denied one returns all ones. -/
def accessRead (s : State) (c : Ctx) (a : Word) : Word × State :=
  if mayRead s c a then readOpen s c a else (0xFFFFFFFF, logDenied s c a)

/-- A write of one word; a denied one is dropped. -/
def accessWrite (s : State) (c : Ctx) (a : Word) (v : Word) : State :=
  if mayWrite s c a then writeOpen s c a v else logDenied s c a

/-- A word read becomes what the context's access last returned. -/
def keepRead (c : Ctx) (r : Word × State) : State :=
  { r.2 with acc := { r.2.acc with rdata := vput r.2.acc.rdata c r.1 } }

/-- A context's accesses are served: not in reset; the two-wire host's from boot phase 0x2 on, while MFLAGS[0] is 1
and not in test mode (R28, R48, R51, R275). -/
def served (s : State) (c : Ctx) : Bool :=
  !s.boot.inReset && (c != 1 || (!s.boot.testMode && 2 ≤ s.boot.phase.toNat && s.last.working.mgmt.twbEn))

/-- The target drives nothing on SDA: every output is off under HIGHZ (R301), and boundary cells have the ball under EXTEST,
EXTEST_PULSE, EXTEST_TRAIN and CLAMP (R300). -/
def sdaOff (s : State) : Bool := s.jtag.ir == 0x05 || cellsDrive s

/-- A read command of a context. -/
def busRead (s : State) (c : Ctx) (a : Word) : State := if served s c then keepRead c (accessRead s c a) else s

/-- A write command of a context. -/
def busWrite (s : State) (c : Ctx) (a : Word) (v : Word) : State :=
  if served s c then accessWrite s c a v else s

/-- A write of a named register, as a command spells it. -/
def writeTo (s : State) (c : Ctx) (r : Reg) (v : Word) : State := busWrite s c (regAddr r) v

end Sys2Proof.Machine
end

