-- ==== Sys2Proof/Machine/AwlCmds.lean ====
section
/-! DEFINITION. The commands of the Awl (14): writes of AWLCMD, and DONE. -/

namespace Sys2Proof.Machine

/-- R411, R412: AWLCMD written with KIND QUEUE. -/
def execAwlQueue (c : Ctx) (q : WqNo) (s : State) : Host.Outcome State Fault Refusal :=
  done (writeTo s c .awlcmd (wordOf [1, at_ (BitVec.ofNat 5 q.val) 3]))

/-- R411, R412: AWLCMD written with KIND JOB. -/
def execAwlJob (c : Ctx) (q : WqNo) (tag : BitVec 16) (s : State) : Host.Outcome State Fault Refusal :=
  done (writeTo s c .awlcmd (wordOf [2, at_ (BitVec.ofNat 5 q.val) 3, at_ tag 8]))

/-- R411, R414: AWLCMD written with KIND UNIT. -/
def execAwlUnit (c : Ctx) (sel : BitVec 8) (s : State) : Host.Outcome State Fault Refusal :=
  done (writeTo s c .awlcmd (wordOf [3, at_ sel 24]))

/-- R411, R414: AWLCMD written with KIND LANE. -/
def execAwlLane (c : Ctx) (sel : BitVec 8) (s : State) : Host.Outcome State Fault Refusal :=
  done (writeTo s c .awlcmd (wordOf [4, at_ sel 24]))

/-- R411, R412: AWLCMD written with KIND ALL. -/
def execAwlAll (c : Ctx) (s : State) : Host.Outcome State Fault Refusal := done (writeTo s c .awlcmd 5)

/-- R413, R417: the command is done. -/
def execAwlDone (s : State) : Host.Outcome State Fault Refusal := done (awlFinish s)

end Sys2Proof.Machine
end

