-- ==== Sys2Proof/Machine/BootOps.lean ====
section
/-! DEFINITION. Reset, the choice of the Last, and the calibration at boot (02, 03, 09). -/

namespace Sys2Proof.Machine

/-! ### Reset (R25, R48) -/

/-- Every rail whose loss means power-on reset is valid (R34). -/
def railsValid (s : State) : Bool := (List.finRange 8).all fun r => r.val = 7 || s.power.valid[r]

/-- Internal power-on reset, or RESET_N low (R48): every register returns to its reset value. Balls, rails, the TAP, the
NVM array and what waits to be commanded stay; an NVM operation leaves behind what R439 says. -/
def enterReset (s : State) : State :=
  let n := (cutNvm s).nvm
  { State.reset with
    pins := s.pins
    power := { s.power with unlock := Vector.replicate 5 false, band := Vector.replicate 4 0, told := Vector.replicate 8 false }
    nvm := { Reset.nvm with
      cells := n.cells, heads := n.heads, dirty := n.dirty, otp := n.otp, upsets := n.upsets
      otpUpsets := n.otpUpsets }
    jtag := s.jtag
    free := (cutNvm s).free
    pending := s.pending }

/-- Reset release with the straps as sampled: boot phase 0x0 (R25, R49, R431). -/
def releaseReset (s : State) (st : Straps) : State :=
  let s := { s with
    pins := { s.pins with resetN := true, testEn := st.testEn, addr := st.addr, bootsel := st.bootsel, refclk := st.refclk }
    power := { s.power with unlock := (Vector.replicate 5 false).set 4 (!st.refclk) }
    boot := { Reset.boot with inReset := false, addr := st.addr, bootsel := st.bootsel, testMode := st.testEn } }
  bootNvm s

/-! ### The selection chain (R91 to R95) -/

/-- A boot phase may go on: out of reset, with the core PLL locked (R518). -/
def booting (s : State) : Bool := !s.boot.inReset && !s.power.unlock[4] && !s.boot.done

/-- The Last has been chosen: LASTBOOT holds a result. -/
def chosen (s : State) : Bool := s.last.slot1 != 0 || accepted s.last.eeprom

/-- The external image is being read (R284). -/
def readsEeprom (s : State) : Bool :=
  booting s && s.boot.phase.toNat ≤ 1 && !chosen s && s.boot.bootsel && s.boot.eeprom.result.isNone

def endEeprom (s : State) (code : Byte) : State :=
  { s with boot := { s.boot with eeprom := { s.boot.eeprom with result := some code } } }

/-- The image as read so far is complete: its check (R85), or more transfers. -/
def eepromGrown (s : State) (data : List Byte) : State :=
  let len := leAt data 0x08 4
  let s := { s with boot := { s.boot with eeprom := { s.boot.eeprom with data := data.take len } } }
  if data.length < len then s else endEeprom s (bootResult (checkImage (data.take len) 65536)).1

/-- Sixteen bytes that read as erased. -/
def allOnes16 (b : List Byte) : Bool := (b.take 16).all (· == 0xFF)

/-- One transfer (R284, R287): the header first, then the body. -/
def eepromTransfer (s : State) (r : EepromResult) : State :=
  let s := { s with boot := { s.boot with phase := 1 } }
  let data := s.boot.eeprom.data
  match r with
  | .nack => endEeprom s (if data.isEmpty then codeEmpty else codeReadFail)
  | .timeout => endEeprom s codeReadFail
  | .bytes b =>
    if data.isEmpty then
      let h := (b ++ List.replicate 64 0xFF).take 64
      if allOnes16 h then endEeprom s codeEmpty
      else match checkHeader h 65536 with
        | some c => endEeprom s c
        | none => eepromGrown s h
    else eepromGrown s (data ++ b.take 256)

/-- The body of a slot read and checked, behind its header. -/
def checkBody (s : State) (u : Nat) (h : List Byte) : (Byte × Option LastImg) × State :=
  match checkHeader h 65536 with
  | some c => ((c, none), s)
  | none =>
    match readUnits ((leAt h 0x08 4 - 64 + 15) / 16) s (u + 4) with
    | (none, s) => ((codeReadFail, none), s)
    | (some b, s) => (bootResult (checkImage (h ++ b) 65536), s)

/-- A Last slot checked as a boot source, in the order of R85: its first 16 bytes tell whether it is empty. -/
def checkSlot (s : State) (slot : Nat) : (Byte × Option LastImg) × State :=
  let u := slot * 4096
  match readUnits 1 s u with
  | (none, s) => ((codeReadFail, none), s)
  | (some first, s) =>
    if allOnes16 first then ((codeEmpty, none), s)
    else
      match readUnits 3 s (u + 1) with
      | (none, s) => ((codeReadFail, none), s)
      | (some rest, s) => checkBody s u (first ++ rest)

/-- LAST_CANDIDATE with its source as DEVSTAT.LAST_SRC codes it, and its result. -/
def logCandidate (s : State) (src : Byte) (result : Byte) : State := logEvent s 0x0101 0 [src, result]

/-- The image of a source becomes the working Last. -/
def useLast (s : State) (src : BitVec 3) (m : LastImg) (fallback : Bool) : State :=
  settleAll { s with
    last := { s.last with working := m, old := m }
    boot := { s.boot with src := src, fallback := fallback } }

/-- A user slot's result makes the boot a fallback (R93). -/
def slotBad (c : Byte) : Bool := !accepted c && c != codeEmpty

/-- The end of the chain: slot 0, or the ROM defaults. -/
def selectLow (s : State) (fallback : Bool) : State :=
  let r := checkSlot s 0
  let s := { r.2 with last := { r.2.last with slot0 := r.1.1 } }
  let s := logCandidate s 1 r.1.1
  match r.1.2 with
  | some m => useLast s 1 m fallback
  | none => useLast s 0 romDefaults true

/-- The user slots and what follows them. -/
def selectNvm (s : State) (fallback : Bool) : State :=
  let r1 := checkSlot s 1
  let s := logCandidate r1.2 2 r1.1.1
  let r2 := checkSlot s 2
  let s := logCandidate r2.2 3 r2.1.1
  let s := { s with last := { s.last with slot1 := r1.1.1, slot2 := r2.1.1 } }
  let fb := fallback || slotBad r1.1.1 || slotBad r2.1.1
  match r1.1.2, r2.1.2 with
  | some a, some b =>
    if a.seq.toNat < b.seq.toNat then useLast s 3 b fb
    else if a.seq = b.seq then
      let s := { s with last := { s.last with slot1 := codeSeqTie } }
      useLast (logCandidate s 2 codeSeqTie) 2 a fb
    else useLast s 2 a fb
  | some a, none => useLast s 2 a fb
  | none, some b => useLast s 3 b fb
  | none, none => selectLow s fb

/-- Boot phase 0x1 (R92). -/
def selectLast (s : State) : State :=
  let s := { s with boot := { s.boot with phase := 1 } }
  if s.boot.bootsel then
    let data := s.boot.eeprom.data
    let code := match s.boot.eeprom.result with
      | some c => c
      | none => codeReadFail
    let s := logCandidate { s with last := { s.last with eeprom := code } } 4 code
    match (bootResult (checkImage data 65536)).2 with
    | some m => if accepted code then useLast s 4 m false else selectNvm s true
    | none => selectNvm s true
  else selectNvm s false

/-! ### Global apply (R49, R52) -/

/-- The Window entries of the WINDOWS record. -/
def loadWindows (s : State) : State :=
  s.last.working.windows.foldl (fun t w =>
    setWinEntry t w.ctx w.vpage (storedEntry (wordOf [at_ w.ppage 0, at_ w.wfl 16]))) { s with win := Reset.win }

/-- A unit of the Heel patch partition: sectors 114 to 145. -/
def inPatch (sec : Nat) : Bool := 114 ≤ sec && sec < 146

/-- PATCH_EN: the patch is read, and runs where it passes its own checks (R422): one that begins with an erased unit, or of which a
unit cannot be corrected, does not; any other does as a free value says. -/
def loadPatch (s : State) : State :=
  if !s.last.working.heel.patchEn then { s with heel := { s.heel with noPatch := true } }
  else
    let erased := s.nvm.cell (114 * 256) == .erased
    let r := readAll (usedUnits s.nvm inPatch) s
    let bad := erased || r.1.any fun q => q.2 == .bad
    let s := r.2
    let f := s.free
    let s := if bad then s else (useFree s).2
    if !bad && Config.patchGood f then { s with heel := { s.heel with noPatch := false } }
    else logEvent { s with heel := { s.heel with noPatch := true } } 0x0103 0 []

/-- Boot phase 0x2. -/
def applyGlobal (s : State) : State :=
  let s := { s with
    boot := { s.boot with phase := 2, applied := true }
    store := { s.store with hourOn := true } }
  let s := loadPatch (loadWindows (loadSpares (loadQueues (loadPrograms s))))
  if s.boot.fallback then logEvent s 0x0102 0 [s.boot.src.setWidth 8] else s

/-! ### Boot phase 0x3 (R253 to R256) -/

/-- A sampler offset moved by n codes, kept within −63 to +63. -/
def moveOffset (v : BitVec 7) (n : Int) : BitVec 7 := BitVec.ofInt 7 (max (-63) (min 63 (v.toInt + n)))

/-- Boot calibration refines an offset by at most two codes. -/
def refineOffset (v : BitVec 7) (f : Nat) : BitVec 7 := moveOffset v ((Config.refine f).val - 2 : Int)

/-- A measured sampler offset. -/
def measuredOffset (f : Nat) : BitVec 7 := moveOffset 0 (((Config.measured f).toNat % 127 : Nat) - 63 : Int)

/-- The whole degrees of a sensor value in 1/8 °C. -/
def degrees (t : BitVec 16) : Byte := t.extractLsb' 3 8

/-- The sensor of a side: T1 on A, T2 on B (R264). -/
def sideTemp (m : CalMeas) (sd : Side) : BitVec 16 := if sd = .A then m.t1 else m.t2

/-- Boot calibration of one lane block from its entry; f numbers its free values. -/
def bootLane (b : List Byte) (i f : Nat) (c : LaneCal) : LaneCal :=
  let c := entryCal (entryAt b i) c
  { c with ofsD := refineOffset c.ofsD f, ofsE := refineOffset c.ofsE (f + 1), ofsO := refineOffset c.ofsO (f + 2) }

/-- Full calibration of one lane block with its measured termination codes; with a bad REXT the items traced to it stand at
mid-scale (R254). -/
def fullLane (t : BitVec 16) (terms : BitVec 5 × BitVec 5) (bad : Bool) (f : Nat) (c : LaneCal) : LaneCal :=
  { c with
    rxTerm := if bad then 0x10 else terms.1
    txTerm := if bad then 0x10 else terms.2
    txGain := if bad then 0x20 else (Config.measured (f + 2)).setWidth 6
    ofsD := measuredOffset (f + 3), ofsE := measuredOffset (f + 4), ofsO := measuredOffset (f + 5)
    ctleTrim := if bad then 0x8 else (Config.measured (f + 6)).setWidth 4
    tRx := degrees t, tTx := degrees t }

/-- Boot calibration from a record, or full calibration without one. DESIGN CHOICE (log entry 79): the master bias stands at
what boot calibration measures anew (R255); a bad REXT leaves it at the record's value (R254). DESIGN CHOICE (log entry 91): after
a boot from a valid record the REXT and TJ_CAL of a later write are that record's (R257). -/
def calibrateLanes (s : State) (copy : Option (List Byte)) (m : CalMeas) (bad : Bool) : State :=
  let f := s.free
  let s := allLanes.zipIdx.foldl (fun t q =>
    modCal t q.1.1 q.1.2 fun c =>
      let c := match copy with
        | some b => bootLane b q.2 (f + 8 * q.2) c
        | none => fullLane (sideTemp m q.1.1) (m.terms.toList.getD q.2 (0, 0)) bad (f + 8 * q.2) c
      { c with recalAt := s.time.elapsed, schedAt := s.time.elapsed }) s
  let g := f + 8 * 36
  let c := s.cal
  let cal := match copy with
    | some b =>
      { c with biasMain := if bad then BitVec.ofNat 10 (leAt b 0x20 2) else Config.measured g
               biasPll := if bad then BitVec.ofNat 10 (leAt b 0x22 2) else Config.measured (g + 1)
               tjCal := BitVec.ofNat 16 (leAt b 0x18 2), rext := 19000 + leAt b 0x1A 2 }
    | none =>
      { c with biasMain := if bad then 0x200 else Config.measured g, biasPll := if bad then 0x200 else Config.measured (g + 1)
               tjCal := m.t0, rext := m.rext, pending := true }
  { s with cal := cal, free := g + 2 }

/-- Boot phase 0x3: the record pair is checked, every lane block calibrated, the named ones loaded from their entries. -/
def calibrate (s : State) (m : CalMeas) : State :=
  let bad := decide (m.rext < 19000) || decide (21000 < m.rext)
  let s := { s with boot := { s.boot with phase := 3 }, cal := { s.cal with rextBad := bad } }
  let s := if bad then logEvent s 0x0601 0 (bytesLE 2 (min (m.rext / 10) 0xFFFF)) else s
  let a := readRecord s false
  let b := readRecord a.2 true
  let s := b.2
  let aOk := match a.1 with | some x => recordOk s x m bad | none => false
  let bOk := match b.1 with | some x => recordOk s x m bad | none => false
  let seq : Option (List Byte) → Nat := fun x => leAt (x.getD []) 8 4
  let inUse : Option Bool := if aOk && bOk then some (decide (seq a.1 < seq b.1)) else if aOk then some false
    else if bOk then some true else none
  let copy := match inUse with
    | some true => b.1
    | some false => a.1
    | none => none
  let s := { s with
    cal := { s.cal with aOk := aOk, bOk := bOk, inUse := inUse, lastSave := s.time.elapsed }
    boot := { s.boot with calInvalid := inUse.isNone } }
  let s := calibrateLanes s copy m bad
  let s := staleAll { s with boot := { s.boot with calDone := true }, cal := { s.cal with adcCal := true, adcT0 := m.t0 } }
  let s := lockPlls s ((List.finRange 4).filter fun q => s.last.working.pllfam[q] != .off)
  allLanes.foldl (fun t q => if poweredAt t.last.working q.1 q.2 then
    modLane t q.1 q.2 (loadLane t.last.working q.1 q.2) else t) s

/-! ### Writing the record (R260, R261) -/

/-- A record write is due (R261). -/
def recordDue (s : State) : Bool :=
  s.boot.done && !s.dev.standby && !s.cal.rextBad && recPending s

/-- A copy programmed into its erased sector; where the verify fails its first unit is indeterminate. -/
def programCopy (s : State) (u : Nat) (b : List Byte) (ok : Bool) : State :=
  let n := (List.range 39).foldl (fun (n : NvmSt) i => n.setCell (u + i) (cellOf ((b.drop (16 * i)).take 16))) s.nvm
  let n := if ok then n else n.setCell u .torn
  { s with nvm := { n with own := n.own ++ (List.range 39).map fun i => .unit (u + i) } }

/-- The four steps of R260 on the copy that is not in use. -/
def writeRecord (s : State) (ok : Bool) : State :=
  let copyB := s.cal.inUse == some false
  let sec := if copyB then 49 else 48
  let seq := match s.cal.inUse with
    | some _ => leAt (copyInUse s) 8 4 + 1
    | none => 1
  let fails := !ok || (s.nvm.head sec).retired
  let s := if (s.nvm.head sec).retired then s
    else programCopy (endErase (beginErase s sec) sec true) (recordUnit copyB) (recordBytes s seq) ok
  let c := s.cal
  if fails then
    logEvent { s with cal := { c with pending := false, save := false, fail := true } } 0x0602 0 [if copyB then 1 else 0]
  else { s with cal := { c with pending := false, save := false, inUse := some copyB, lastSave := s.time.elapsed } }

end Sys2Proof.Machine
end

