-- ==== Sys2Proof/Machine/Boot.lean ====
section
/-! DEFINITION. The commands of boot (02, 03, 09, 10). -/

namespace Sys2Proof.Machine

/-- R284, R287. -/
def execEepromTransfer (r : EepromResult) (s : State) : Host.Outcome State Fault Refusal :=
  done (if readsEeprom s then eepromTransfer s r else s)

/-- R286: TWBSTAT.ARB_LOST steps; the eighth loss ends the read with READ_FAIL. -/
def execArbitrationLost (s : State) : Host.Outcome State Fault Refusal :=
  if readsEeprom s then
    let s := { s with boot := { s.boot with phase := 1, arbLost := s.boot.arbLost + 1 } }
    done (if s.boot.arbLost = 8 then endEeprom s codeReadFail else s)
  else done s

/-- R92: the external image, where BOOTSEL is high, has its result by then. -/
def execLastSelection (s : State) : Host.Outcome State Fault Refusal :=
  done (if booting s && s.boot.phase.toNat ≤ 1 && !chosen s && !readsEeprom s then selectLast s else s)

/-- R49, boot phase 0x2. -/
def execGlobalApply (s : State) : Host.Outcome State Fault Refusal :=
  done (if booting s && s.boot.phase == 1 && chosen s then applyGlobal s else s)

/-- R253 to R256, boot phase 0x3; the ADC calibrates itself at boot (R269). -/
def execBootCalibration (m : CalMeas) (s : State) : Host.Outcome State Fault Refusal :=
  done (if booting s && s.boot.phase == 2 then calibrate s m else s)

/-- R49, boot phase 0x4: links start under JOIN_AT. -/
def execBootDone (s : State) : Host.Outcome State Fault Refusal :=
  done (if booting s && s.boot.phase == 3 then settle { s with boot := { s.boot with phase := 4, done := true } } else s)

/-- R260: the Heel writes a record that is due while the NVM engine is free; ok is the check of what it reads back. -/
def execCalrecWrite (ok : Bool) (s : State) : Host.Outcome State Fault Refusal :=
  done (if recordDue s && engineIdle s then writeRecord (ownDone s) ok else s)

end Sys2Proof.Machine
end

