-- ==== Sys2Proof/Machine/RecalOps.lean ====
section
/-! DEFINITION. Background recalibration (R264 to R268): which units are due, how each is recalibrated, and its end. -/

namespace Sys2Proof.Machine

/-! ### Due units (R264) -/

/-- The sensor of a side: TMCH1 on A, TMCH2 on B. -/
def sideSensor (s : State) : Side → TmCh
  | .A => s.tm.ch[1]
  | .B => s.tm.ch[2]

/-- A side sensor that is not STALE differs from a stored temperature by at least HEEL RECAL_DT. -/
def driftedFrom (s : State) (sd : Side) (t : Byte) : Bool :=
  let c := sideSensor s sd
  !c.stale && decide (8 * s.last.working.heel.recalDt ≤ (c.value.toInt - 8 * t.toInt).natAbs)

/-- The two temperature triggers of a unit: its receiver's, and its transmitter's. -/
def driftRx (s : State) (p : Pos) (d : Dir) : Bool := driftedFrom s d.rxSide (getLane s d.rxSide p).cal.tRx
def driftTx (s : State) (p : Pos) (d : Dir) : Bool := driftedFrom s d.txSide (getLane s d.txSide p).cal.tTx

/-- A temperature trigger of the unit that no reverted recalibration has answered (R267). -/
def tempDue (s : State) (p : Pos) (d : Dir) : Bool :=
  let c := (getLane s d.rxSide p).cal
  (driftRx s p d && !c.heldRx) || (driftTx s p d && !c.heldTx)

/-- One minute in units of 50 ps. -/
def minuteUnits : Nat := 1200000000000

/-- The schedule trigger of a unit. -/
def schedDue (s : State) (p : Pos) (d : Dir) : Bool :=
  let m := s.last.working.heel.recalMin
  m != 0 && decide (m * minuteUnits ≤ s.time.elapsed - (getLane s d.rxSide p).cal.schedAt)

/-- A unit that the Heel evaluates and that is not being recalibrated. -/
def mayBeDue (s : State) (u : Pos × Dir) : Bool :=
  evaluated s u.1 && !(s.cal.busy && s.cal.curPos == u.1 && s.cal.curDir == u.2)

/-- A unit is due (R264). -/
def dueNow (s : State) (u : Pos × Dir) : Bool :=
  mayBeDue s u && (tempDue s u.1 u.2 || schedDue s u.1 u.2 || s.cal.host == some u)

/-- A unit that was due stays so: a STALE sensor gives the Heel nothing to judge it by anew (R264, R265). -/
def stillDue (s : State) (u : Pos × Dir) : Bool :=
  dueNow s u || (mayBeDue s u && ((sideSensor s .A).stale || (sideSensor s .B).stale))

/-- A temperature trigger that a reverted recalibration has answered counts again once it has passed. -/
def passTriggers (s : State) (u : Pos × Dir) : State :=
  let rx := driftRx s u.1 u.2 || (sideSensor s u.2.rxSide).stale
  let tx := driftTx s u.1 u.2 || (sideSensor s u.2.txSide).stale
  modCal s u.2.rxSide u.1 fun c => { c with heldRx := c.heldRx && rx, heldTx := c.heldTx && tx }

/-- Every unit, the lower position first, AB before BA. -/
def calUnits : List (Pos × Dir) := allPos.flatMap fun p => [(p, .AB), (p, .BA)]

/-- One evaluation: the units that are still due keep their places, new ones follow. -/
def evaluateUnits (s : State) : State :=
  let s := calUnits.foldl passTriggers s
  let old := s.cal.dueList.filter (stillDue s)
  { s with cal := { s.cal with dueList := old ++ (calUnits.filter fun u => dueNow s u && !old.contains u) } }

/-! ### Modes (Table 9-5) -/

/-- What serves a position carries no link traffic in a direction. -/
def carriesNone (s : State) (d : Dir) : Option Carried → Bool
  | none => true
  | some (.spare l n) => (getSpare s l n d).code == .cold || (getSpare s l n d).code == .failed
  | some (.lane l k) =>
    let x := getLink s l
    x.join != .joined || x.st == .detect || x.st == .disabled || (x.width != 0 && x.width ≤ k.val)

/-- Neither end of the unit carries link traffic. -/
def idleUnit (s : State) (p : Pos) (d : Dir) : Bool :=
  carriesNone s d (whoRx s d.rxSide p) && carriesNone s d (whoTx s d.txSide p)

/-- The lane at home on the unit that a stand-in could relieve, with the spare. -/
def standinFor (s : State) (p : Pos) (d : Dir) : Option (LinkNo × LLane × SpareNo) :=
  match whoRx s d.rxSide p with
  | some (.lane l k) =>
    if recIs s l (·.recalUse) && takenFrom s l d k == none && (trainedLanes s l).contains k then
      (spareIn s l d .warm).map fun n => (l, k, n)
    else none
  | _ => none

/-- The conditions of R214 hold but for a commit in progress. -/
def plannedBut (s : State) (l : LinkNo) : Bool :=
  let k := getLink s l
  k.capLink.getLsbD 0 && k.capLink.getLsbD 6 && k.st == .active && k.swap.isNone

/-- A stand-in of the unit waits for a commit to be done (Table 9-6). -/
def standinWaits (s : State) (u : Pos × Dir) : Bool :=
  !idleUnit s u.1 u.2 && committing s && (standinFor s u.1 u.2).any fun x => plannedBut s x.1

/-- What a recalibration of the unit restores, and the last VALID figure before it. Trims that were ramping back count as
where they were going. -/
def recalFor (s : State) (p : Pos) (d : Dir) (mode : BitVec 2) (stage : RecalStage) : RecalSt :=
  let rx := (getLane s d.rxSide p).cal
  let tx := (getLane s d.txSide p).cal
  { mode := mode, rx := rx.withRx (rx.homeRx.getD rx.rxTrims), tx := tx.withTx (tx.homeTx.getD tx.txTrims)
    eye := (getLane s d.rxSide p).meas.lastEye, stage := stage }

/-- No trim of the unit ramps any more. -/
def stillUnit (s : State) (p : Pos) (d : Dir) : State :=
  modCal (modCal s d.rxSide p LaneCal.stillRx) d.txSide p LaneCal.stillTx

/-- The unit's recalibration begins in the first mode of Table 9-5 whose condition holds. -/
def startRecal (s : State) (u : Pos × Dir) : State :=
  let p := u.1
  let d := u.2
  let begin_ := fun mode stage => { stillUnit s p d with cal := { s.cal with
    busy := true, curPos := p, curDir := d, recal := some (recalFor s p d mode stage)
    dueList := s.cal.dueList.filter (· != u), host := if s.cal.host == some u then none else s.cal.host } }
  if idleUnit s p d then begin_ 3 .trimming
  else match standinFor s p d with
    | some (l, k, n) => if plannedOk s l then beginSwap (begin_ 1 .swapping) l d k n 2 false else begin_ 2 .trimming
    | none => begin_ 2 .trimming

/-- The next due unit, if nothing is being recalibrated. -/
def nextRecal (s : State) : State :=
  if s.cal.busy || !s.boot.done || s.dev.standby then s
  else match s.cal.dueList.find? fun u => !standinWaits s u with
    | some u => startRecal s u
    | none => s

/-! ### Its end (R266, R267) -/

/-- The temperature that is stored for a side; a STALE sensor leaves it open. -/
def storedTemp (s : State) (sd : Side) (f : Nat) : Byte :=
  let c := sideSensor s sd
  if c.stale then Config.sensed f else degrees c.value

/-- A recalibration that is kept: T_RX, T_TX and the schedule count (R266), and the trims that it leaves (R261). -/
def keepUnit (s : State) : State :=
  let p := s.cal.curPos
  let d := s.cal.curDir
  let f := s.free
  let now := s.time.elapsed
  let a := storedTemp s d.rxSide f
  let b := storedTemp s d.txSide (f + 1)
  let s := modCal s d.rxSide p fun c =>
    { c.stillRx with
      tRx := a, recalAt := now, schedAt := now, heldRx := false, heldTx := false, leftRx := some (c.rxTrims, c.ctleTrim) }
  let s := modCal s d.txSide p fun c => { c.stillTx with tTx := b, leftTx := some c.txTrims }
  { s with free := f + 2 }

/-- A figure below a threshold that is enabled. -/
def belowThresh (t : ThreshRec) (n : Nat) : Bool := t.enable && decide (n < t.value)

/-- The figure is worse than the one recorded before (R267). -/
def figureWorse (was : Option (BitVec 6 × BitVec 9)) (w : BitVec 6) (h : BitVec 9) : Bool :=
  match was with
  | some (w0, h0) => decide (w.toNat + 2 < w0.toNat) || decide (h.toNat + 6 < h0.toNat)
  | none => false

/-- The unit goes back to its previous trims; the triggers that stand now have been answered, and a STALE sensor shows no new
one (R267). -/
def revertWorse (s : State) (r : RecalSt) : State :=
  let p := s.cal.curPos
  let sd := s.cal.curDir.rxSide
  let now := s.time.elapsed
  let rx := driftRx s p s.cal.curDir || (sideSensor s sd).stale
  let tx := driftTx s p s.cal.curDir || (sideSensor s sd.other).stale
  let s := revertUnit s r (r.mode == 2)
  let s := modCal s sd p fun c => { c with worse := true, heldRx := rx, heldTx := tx, schedAt := now }
  logL s 0x0603 sd p []

/-- The spare that stands in for the unit's lane. -/
def standinSpare (s : State) : Option (LinkNo × LLane × SpareNo) :=
  match whoRx s s.cal.curDir.rxSide s.cal.curPos with
  | some (.lane l k) =>
    (bothSpares.find? fun n =>
      let x := getSpare s l n s.cal.curDir
      x.code == .standin && x.lane == k).map fun n => (l, k, n)
  | _ => none

/-- A swap is in progress on the unit's link. -/
def unitSwapping (s : State) : Bool :=
  match whoRx s s.cal.curDir.rxSide s.cal.curPos with
  | some x => (getLink s x.link).swap.isSome
  | none => false

def setStage (s : State) (r : RecalSt) (mode : BitVec 2) (stage : RecalStage) : State :=
  { s with cal := { s.cal with recal := some { r with mode := mode, stage := stage } } }

/-- The swaps of a stand-in have moved on: onto the spare trimming begins, without one it goes on in place (R216); back
home the recalibration has ended. -/
def followStandin (s : State) : State :=
  match s.cal.recal with
  | none => s
  | some r =>
    if r.mode ≠ 1 then s
    else match r.stage with
      | .swapping =>
        if (standinSpare s).isSome then setStage s r 1 .trimming
        else if unitSwapping s then s
        else setStage s r 2 .trimming
      | .back kept =>
        match standinSpare s with
        | some (l, k, n) => if !unitSwapping s && plannedOk s l then beginSwap s l s.cal.curDir k n 2 true else s
        | none => if unitSwapping s then s else nextRecal (endRecal (if kept then keepUnit s else s))
      | _ => s

/-- Spares that still stand in after their recalibration was stopped give their lanes back. -/
def homeStandins (s : State) : State :=
  allLinks.foldl (fun t l =>
    if standinOn t l || !plannedOk t l then t
    else match bothDirs.findSome? fun d => (spareIn t l d .standin).map fun n => (d, n) with
      | some (d, n) => beginSwap t l d (getSpare t l n d).lane n 2 true
      | none => t) s

/-- The trims that a full calibration of the unit measures; with a bad REXT the items traced to it keep their codes. -/
def fullUnit (s : State) : State :=
  let p := s.cal.curPos
  let d := s.cal.curDir
  let f := s.free
  let bad := s.cal.rextBad
  let s := modCal s d.rxSide p fun c =>
    { c with
      rxTerm := if bad then c.rxTerm else (Config.measured f).setWidth 5
      ctleTrim := (Config.measured (f + 1)).setWidth 4
      ofsD := measuredOffset (f + 2), ofsE := measuredOffset (f + 3), ofsO := measuredOffset (f + 4) }
  let s := modCal s d.txSide p fun c =>
    { c with
      txTerm := if bad then c.txTerm else (Config.measured (f + 5)).setWidth 5
      txGain := if bad then c.txGain else (Config.measured (f + 6)).setWidth 6 }
  { s with free := f + 7 }

/-- A step of the running recalibration; the last one ends its trimming. -/
def recalStep (s : State) (last : Bool) : State :=
  match s.cal.recal with
  | none => s
  | some r =>
    if r.stage ≠ .trimming then followStandin s
    else if !last then s
    else if r.mode = 3 then nextRecal (endRecal (keepUnit (fullUnit s)))
    else setStage (if r.mode = 1 then fullUnit s else stillUnit s s.cal.curPos s.cal.curDir) r r.mode .checking

/-- The first VALID figure of the unit's receiver after the trimming (R267). -/
def qualityCheck (s : State) (sd : Side) (p : Pos) (w : BitVec 6) (h : BitVec 9) : State :=
  match s.cal.recal with
  | none => s
  | some r =>
    if r.stage ≠ .checking ∨ s.cal.curDir.rxSide ≠ sd ∨ s.cal.curPos ≠ p then s
    else
      let worse := figureWorse r.eye w h
      let s := if worse then revertWorse s r else s
      if r.mode = 1 then followStandin (setStage s r 1 (.back (!worse)))
      else nextRecal (endRecal (if worse then s else keepUnit s))

end Sys2Proof.Machine
end

