-- ==== Sys2Proof/Machine/Calibrate.lean ====
section
/-! DEFINITION. The commands of calibration (09). -/

namespace Sys2Proof.Machine

/-- R264, R272: CALCMD written with GO. -/
def execCalcmdGo (c : Ctx) (v : Word) (s : State) : Host.Outcome State Fault Refusal :=
  done (writeTo s c .calcmd (setBit v 6 true))

/-- R261, R272: CALCMD written with SAVE. -/
def execCalcmdSave (c : Ctx) (v : Word) (s : State) : Host.Outcome State Fault Refusal :=
  done (writeTo s c .calcmd (setBit v 7 true))

/-- R264, R265: the Heel's evaluation, once per second; spares that a stopped recalibration has left standing in give
their lanes back, and the next recalibration starts. -/
def execRecalEvaluation (s : State) : Host.Outcome State Fault Refusal :=
  if !s.boot.done || s.dev.standby then done s
  else done (nextRecal (homeStandins (followStandin (evaluateUnits s))))

/-- R265, R266: a step of the recalibration that runs. -/
def execRecalStep (last : Bool) (s : State) : Host.Outcome State Fault Refusal := done (recalStep s last)

/-- R268: the recalibration that runs is stopped. -/
def execRecalAborted (s : State) : Host.Outcome State Fault Refusal := done (homeStandins (abortRecal s))

/-- R269, R270: the ADC calibrates itself; every channel is stale. -/
def execAdcSelfCal (s : State) : Host.Outcome State Fault Refusal :=
  if s.boot.inReset || s.dev.standby then done s
  else done (startAdcCal s)

/-- R270: it ends; the decimator restarts. -/
def execAdcSelfCalEnd (s : State) : Host.Outcome State Fault Refusal :=
  if s.cal.adcCal then done (resetDecimator { s with cal := { s.cal with adcCal := false } }) else done s

end Sys2Proof.Machine
end

