-- ==== Sys2Proof/Machine/Device.lean ====
section
/-! DEFINITION. The commands by which links join and stand aside, and the part enters and leaves Standby (02). -/

namespace Sys2Proof.Machine

/-- The lane whose tap is watched for a join trigger (R54): the management lane, or logical lane 0. -/
def watchedLane (s : State) (l : LinkNo) : LLane := ((linkRec s l).bind (·.mgmtLane)).getD 0

/-- The receiver of a lane at home in a direction. -/
def homeLane (s : State) (l : LinkNo) (d : Dir) (k : LLane) : Option Lane :=
  ((linkRec s l).bind fun r => homeRx s.last.working r d k).map (getLane s d.rxSide)

/-- What is seen is a join trigger for the link's mode (R54). -/
def isTrigger (s : State) (l : LinkNo) : JoinTrig → Bool
  | .trainingSet d => isPart s l && (homeLane s l d (watchedLane s l)).any (·.rx.symLock)
  | .idle d =>
    if isPart s l then (homeLane s l d (watchedLane s l)).any fun n => !n.rx.sigDet
    else (trainedLanes s l).all fun k => (homeLane s l d k).any fun n => !n.rx.sigDet
  | .noSignal => noSignal s l

/-- R55; under a device-wide cause the link is FORCED and nothing is remembered (R62). -/
def execJoinTrigger (l : LinkNo) (k : JoinTrig) (s : State) : Host.Outcome State Fault Refusal :=
  done (if (getLink s l).join == .waitTrain && isTrigger s l k then startJoin s l else s)

/-- R53: 100 ms in WAIT_TRAIN. A link that a trigger has taken to JOINING already logs nothing (R62). -/
def execJoinTimeout (l : LinkNo) (s : State) : Host.Outcome State Fault Refusal :=
  done (if (getLink s l).join == .waitTrain then startJoin (logK s 0x0401 l []) l else s)

/-- R56. -/
def execLnkctlJoin (c : Ctx) (l : LinkNo) (v : Word) (s : State) : Host.Outcome State Fault Refusal :=
  done (writeTo s c (.lnkctl l) (setBit v 31 true))

/-- R65, Table 2-5: LNKCTL.ASIDE as bit 30 of v. -/
def execLnkctlAside (c : Ctx) (l : LinkNo) (v : Word) (s : State) : Host.Outcome State Fault Refusal :=
  done (writeTo s c (.lnkctl l) v)

/-- R63: DEVCTL.ASIDE as bit 2 of v. -/
def execDevctlAside (c : Ctx) (v : Word) (s : State) : Host.Outcome State Fault Refusal := done (writeTo s c .devctl v)

/-- R58. -/
def execDevctlStandby (c : Ctx) (v : Word) (s : State) : Host.Outcome State Fault Refusal :=
  done (writeTo s c .devctl (setBit v 0 true))

/-- R58, R59: a request that was not refused takes effect. -/
def execStandbyEntered (s : State) : Host.Outcome State Fault Refusal := done (enterStandby s)

/-- R60. -/
def execDevctlWake (c : Ctx) (v : Word) (s : State) : Host.Outcome State Fault Refusal :=
  done (writeTo s c .devctl (setBit v 1 true))

/-- R60: BOOT_DONE, and every link at its JOIN_AT start state. -/
def execStandbyExitDone (s : State) : Host.Outcome State Fault Refusal := done (exitStandby s)

/-- R61. -/
def execDevctlThermRearm (c : Ctx) (v : Word) (s : State) : Host.Outcome State Fault Refusal :=
  done (writeTo s c .devctl (setBit v 3 true))

end Sys2Proof.Machine
end

