-- ==== Sys2Proof/Machine/SwapOps.lean ====
section
/-! DEFINITION. The answers that move a swap on, and the swaps of other nodes that pass through (R207 to R211). -/

namespace Sys2Proof.Machine

/-- A SPARE_RSP answers the SPARE that a swap waits on, from the node that the step asks (R209). -/
def answersSwap (w : Swap) (sd : Side) (r : SpareMsg) : Bool :=
  r.op == w.awaits.1 && sd.node == w.awaits.2 && r.dir == w.dir.num && r.lane.toNat == w.lane.val &&
    r.spare.toNat == w.spare.val && r.id == w.id

/-- A spare that has carried a lane before its other spare took it over rests. -/
def restOthers (s : State) (l : LinkNo) (w : Swap) : State :=
  bothSpares.foldl (fun t n =>
    let x := getSpare t l n w.dir
    if n ≠ w.spare ∧ (x.code = .carrying ∨ x.code = .standin) ∧ x.lane = w.lane then restSpare t l n w.dir else t) s

/-- Step 5 of R209, or the end of a swap back: result, event, what has waited for it. -/
def swapDone (s : State) (l : LinkNo) (w : Swap) : State :=
  let code : SpareCode := if w.cause = 2 then .standin else .carrying
  let s := modLink s l fun k => { k with swap := none }
  let s := if w.back then restSpare s l w.spare w.dir else restOthers (setSpare s l w.spare w.dir { getSpare s l w.spare w.dir with code := code, lane := w.lane }) l w
  let s := if w.failed.isSome then s else logSwap (setSwapResult s l 1) 0x040A l w []
  serveWaiting s l

/-- The step that an ACK leads to. -/
def swapAck (s : State) (l : LinkNo) (w : Swap) : State :=
  match w.step with
  | .dup => modLink s l fun k => { k with swap := some { w with step := .aligning, misses := 0, asking := false } }
  | .aligning | .ready => modLink s l fun k => { k with swap := some { w with asking := false } }
  | .move =>
    let w := { w with step := .release }
    sendSpare (vacate (modLink s l fun k => { k with swap := some w }) l w) l w (w.op 3 6) w.dir.upNode
  | .release => swapDone s l w

/-- A SPARE_RSP answers the RELEASE of a swap that has been given up. -/
def answersRelease (m : OutMos) (sd : Side) (r : SpareMsg) : Bool :=
  sd.node == m.dst && m.payload.take 4 == [r.op, r.dir, r.lane, r.spare] && m.payload[5]? == some r.id

/-- A SPARE_RSP addressed to the part handed to the swap in progress, or to the RELEASE of one that has been given up; none
where it answers neither. -/
def takeSpareRsp (s : State) (l : LinkNo) (sd : Side) (r : SpareMsg) : Option State :=
  match (getLink s l).swap.filter fun w => answersSwap w sd r with
  | some w => some (followStandin (if r.arg = 0 then swapAck s l w else failSwap s l w 4 false))
  | none =>
    if (getLink s l).release.any fun m => answersRelease m.1 sd r then some (modLink s l fun k => { k with release := none })
    else none

/-- A SPARE of the part's own no longer waits under a SEQ: it is about to wait again. -/
def dropSpare (s : State) (l : LinkNo) (seq : BitVec 12) : State :=
  modLink s l fun k =>
    let f := fun q : List OutMos => q.filter fun m => m.job || m.typ != mosSpare || m.seq != seq
    { k with outAB := f k.outAB, outBA := f k.outBA }

/-- The RELEASE of a swap that has been given up queued again (R298). -/
def resendRelease (s : State) (l : LinkNo) (m : OutMos) (sends : Nat) : State :=
  joinOut (modLink (dropSpare s l m.seq) l fun k => { k with release := some (m, sends + 1) }) l m

/-- The SPARE that a swap waits on queued again with its SEQ and SWAP_ID (R298). -/
def resendSpare (s : State) (l : LinkNo) (w : Swap) : State :=
  let s := dropSpare s l w.seq
  let s := modLink s l fun k => { k with swap := some { w with sends := w.sends + 1 } }
  queueMos s l w.awaits.2 mosSpare w.seq
    [w.awaits.1, w.dir.num, BitVec.ofNat 8 w.lane.val, BitVec.ofNat 8 w.spare.val, w.cause, w.id, 0, 0]

/-- The spare and the direction that a SPARE names, where they exist. -/
def SpareMsg.place (r : SpareMsg) : Option (SpareNo × Dir × LLane) :=
  if r.spare.toNat < 2 ∧ r.dir.toNat < 2 ∧ r.lane.toNat < 16 then
    some (Fin.ofNat 2 r.spare.toNat, if r.dir = 0 then .AB else .BA, Fin.ofNat 16 r.lane.toNat)
  else none

/-- A spare in FORWARD comes to carry its lane alone, or no longer does (R206). One that has been declared lost loses the
lane with it. -/
def moveForward (s : State) (l : LinkNo) (n : SpareNo) (d : Dir) (on : Bool) : State :=
  let x := getSpare s l n d
  let s := setSpare s l n d { x with moved := on, lost := x.lost && !on }
  match if on && x.lost then laneRx s l d x.lane else none with
  | some p => declareLost s l d x.lane (getLane s d.rxSide p).rx.lostCause
  | none => s

/-- A SPARE of another node's swap passes (R208): DUP and MOVE put the spare into FORWARD, RELEASE_SPARE lets it rest once it
stops carrying the lane. A spare that a test holds serves no swap (R243). DEDUCED (log entry 75): RELEASE tells that the lane
travels on the spare alone from then on, DUP_HOME and MOVE_HOME that it is at home again. -/
def passSpare (s : State) (l : LinkNo) (r : SpareMsg) : State :=
  match SpareMsg.place r with
  | none => s
  | some (n, d, k) =>
    let x := getSpare s l n d
    let c := x.code
    if (r.op = 1 ∨ r.op = 2) ∧ !spareHeld s l n ∧ (c = .cold ∨ c = .warm ∨ c = .failed) then setSpare s l n d (spareAs .forward k)
    else if c ≠ .forward then s
    else if r.op = 1 ∨ r.op = 2 then
      setSpare s l n d (if x.lane = k then { x with leaving := false } else spareAs .forward k)
    else if x.lane ≠ k then s
    else if r.op = 3 then moveForward s l n d true
    else if r.op = 4 ∨ r.op = 5 then moveForward s l n d false
    else if r.op = 6 then
      let s := setSpare s l n d { x with moved := false, leaving := true }
      match (linkRec s l).bind fun r => spareRx s.last.working r d n with
      | some p => if (getLane s d.rxSide p).rx.cdrLock then s else restSpare s l n d
      | none => restSpare s l n d
    else s

end Sys2Proof.Machine
end

