-- ==== Sys2Proof/Machine/MosOps.lean ====
section
/-! DEFINITION. MOS that arrive (R288 to R294): what Table 10-5 does with each, the sequence check, the requests served. -/

namespace Sys2Proof.Machine

/-! ### Fields (Table 10-3) -/

def Mos.route (m : Mos) : Byte := m.pos[0]
def Mos.dst (m : Mos) : BitVec 2 := (Mos.route m).extractLsb' 0 2
def Mos.src (m : Mos) : BitVec 2 := (Mos.route m).extractLsb' 2 2
def Mos.typ (m : Mos) : BitVec 4 := (Mos.route m).extractLsb' 4 4
def Mos.seq (m : Mos) : BitVec 12 := (m.pos[2]).extractLsb' 0 4 ++ m.pos[1]
def Mos.len (m : Mos) : Nat := ((m.pos[2]).extractLsb' 4 4).toNat
def Mos.payload (m : Mos) : List Byte := m.pos.toList.drop 3
def Mos.addr (m : Mos) : Word := BitVec.ofNat 32 (leAt (Mos.payload m) 0 4)
def Mos.crcOk (m : Mos) : Bool := crc16 m.pos.toList == m.crc

/-- The bytes beyond LEN are not all zero. -/
def Mos.tail (m : Mos) : Bool := ((Mos.payload m).drop (Mos.len m)).any (· != 0)

/-! ### Counters (Table 10-12) -/

def badMos (s : State) (sd : Side) : State := { s with imc := { s.imc with bad := vmod s.imc.bad (sideIx sd) satInc } }
def crcMos (s : State) (sd : Side) : State := { s with imc := { s.imc with crcErr := vmod s.imc.crcErr (sideIx sd) satInc } }
def staleMos (s : State) (sd : Side) : State := { s with imc := { s.imc with stale := vmod s.imc.stale (sideIx sd) satInc } }
def dropped (s : State) (sd : Side) : State := { s with imc := { s.imc with dropped := vmod s.imc.dropped (sideIx sd) satInc } }

/-! ### Responses -/

abbrev nakDenied : Byte := 1
abbrev nakDisabled : Byte := 2
abbrev nakMalformed : Byte := 3
abbrev nakUnsupported : Byte := 4

/-- A NAK of a request (Table 10-4). -/
def nakFor (m : Mos) (status : Byte) (addr : Word) : OutMos :=
  ⟨mosPrio mosNak, Mos.src m, mosNak, Mos.seq m, status :: bytesLE 4 addr.toNat, false⟩

/-- A response joins those that wait toward the requester. -/
def queueResponse (s : State) (l : LinkNo) (r : OutMos) : State := queueMos s l r.dst r.typ r.seq r.payload

/-- A response of a register access: its type. -/
def isResponse (m : OutMos) : Bool := m.typ == mosRdData || m.typ == mosAck || m.typ == mosNak

/-- The responses of a side's context that wait on a link. -/
def waitingResponses (s : State) (l : LinkNo) (sd : Side) : List OutMos :=
  (outOf (getLink s l) (towardNode sd.node)).filter fun m => isResponse m && m.dst == sd.node

/-! ### The sequence check (R293) -/

def seqOf (k : Link) : Side → SeqSt
  | .A => k.seqC2
  | .B => k.seqC3

def modSeq (s : State) (l : LinkNo) (sd : Side) (f : SeqSt → SeqSt) : State :=
  modLink s l fun k => match sd with
    | .A => { k with seqC2 := f k.seqC2 }
    | .B => { k with seqC3 := f k.seqC3 }

inductive SeqClass where
  | new | late | duplicate | stale
  deriving DecidableEq, Repr

/-- The class of a sequence number; the first after a clear is new. -/
def seqClass (q : SeqSt) (n : BitVec 12) : SeqClass :=
  let ahead := (n - q.last).toNat
  let behind := (q.last - n).toNat
  if !q.valid then .new
  else if 1 ≤ ahead ∧ ahead ≤ 2047 then .new
  else if behind ≤ 7 then (if q.acc.getLsbD behind then .duplicate else .late)
  else .stale

/-- The state after a request is accepted: L, the record of what has been accepted, the responses still kept. -/
def seqAccept (q : SeqSt) (n : BitVec 12) : SeqSt :=
  match seqClass q n with
  | .new =>
    let acc := if q.valid then q.acc <<< (n - q.last).toNat else 0
    { valid := true, last := n, acc := acc ||| 1, resps := q.resps.filter fun r => (n - r.seq).toNat ≤ 7 }
  | _ => { q with acc := q.acc ||| (1#8 <<< (q.last - n).toNat) }

/-! ### Requests served (R274, R294) -/

/-- The context of a side's partner (R273). -/
def sideCtx : Side → Ctx
  | .A => 2
  | .B => 3

/-- A WR: written and acknowledged, or denied. -/
def serveWr (s : State) (sd : Side) (m : Mos) : OutMos × State :=
  let c := sideCtx sd
  let a := Mos.addr m
  if mayWrite s c a then
    (⟨mosPrio mosAck, Mos.src m, mosAck, Mos.seq m, [], false⟩, writeOpen s c a (BitVec.ofNat 32 (leAt (Mos.payload m) 4 4)))
  else (nakFor m nakDenied a, logDenied s c a)

/-- A RD: both words are checked before either is read. -/
def serveRd (s : State) (sd : Side) (m : Mos) : OutMos × State :=
  let c := sideCtx sd
  let a := Mos.addr m
  let b := BitVec.ofNat 32 (alignedAddr a + 4)
  let two := (Mos.payload m).getD 4 0 == 2
  if !mayRead s c a then (nakFor m nakDenied a, logDenied s c a)
  else if two && !mayRead s c b then (nakFor m nakDenied b, logDenied s c b)
  else
    let r := readOpen s c a
    let s := keepRead c r
    if two then
      let q := readOpen s c b
      (⟨mosPrio mosRdData, Mos.src m, mosRdData, Mos.seq m, bytesLE 4 r.1.toNat ++ bytesLE 4 q.1.toNat, false⟩, keepRead c q)
    else (⟨mosPrio mosRdData, Mos.src m, mosRdData, Mos.seq m, bytesLE 4 r.1.toNat, false⟩, s)

abbrev mosRd : BitVec 4 := 0x1
abbrev mosWr : BitVec 4 := 0x2

/-- An accepted request is executed; its response waits, and is kept for replay, unless what it did has cleared the link's
sequence state. -/
def execute (s : State) (l : LinkNo) (sd : Side) (m : Mos) : State :=
  let s := modSeq s l sd (seqAccept · (Mos.seq m))
  let r := if Mos.typ m = mosRd then serveRd s sd m else serveWr s sd m
  if (seqOf (getLink r.2 l) sd).valid then
    modSeq (queueResponse r.2 l r.1) l sd fun q => { q with resps := q.resps ++ [r.1] }
  else r.2

/-- The response of a duplicate sent again, unless it still waits. -/
def replay (s : State) (l : LinkNo) (sd : Side) (n : BitVec 12) : State :=
  match (seqOf (getLink s l) sd).resps.find? fun r => r.seq == n with
  | some r => if (waitingResponses s l sd).contains r then s else queueResponse s l r
  | none => s

/-- R293, R294: a well-formed RD or WR. -/
def request (s : State) (l : LinkNo) (sd : Side) (m : Mos) : State :=
  match seqClass (seqOf (getLink s l) sd) (Mos.seq m) with
  | .stale => staleMos s sd
  | .duplicate => replay s l sd (Mos.seq m)
  | .new | .late => if 8 ≤ (waitingResponses s l sd).length then dropped s sd else execute s l sd m

/-- The request is malformed (Table 10-5). -/
def malformed (m : Mos) : Bool :=
  8 < Mos.len m || Mos.tail m ||
    (if Mos.typ m = mosRd then
      Mos.len m != 5 || !((Mos.payload m).getD 4 0 == 1 || (Mos.payload m).getD 4 0 == 2)
    else Mos.len m != 8)

/-! ### Table 10-5 -/

/-- LP_GRANT forwarded or received (R219). -/
def grantSeen (s : State) (l : LinkNo) (x : LpState) : State :=
  if isPart s l then modLink s l fun k => { k with grants := vput k.grants (lpIx x) (some s.time.elapsed) } else s

/-- The low-power state that byte 0 names (R219). -/
def lpOf (b : Byte) : Option LpState :=
  if b = 1 then some .sleepAB else if b = 2 then some .sleepBA else if b = 3 then some .deep else none

/-- What stands in the place of the MOS as it goes on. -/
def setSent (s : State) (l : LinkNo) (d : Dir) (x : SentSet) : State :=
  modLink s l fun k => match d with
    | .AB => { k with sentAB := some x }
    | .BA => { k with sentBA := some x }

/-- The payload of a SPARE or SPARE_RSP (Table 7-3). -/
def spareMsg (m : Mos) : SpareMsg :=
  let b := fun i => (Mos.payload m).getD i 0
  ⟨b 0, b 1, b 2, b 3, b 4, b 5⟩

/-- What the part notes of a MOS that it sees: a SPARE of another node (R208) and an LP_GRANT (R219). -/
def noteMos (s : State) (l : LinkNo) (m : Mos) : State :=
  if Mos.typ m = mosSpare then passSpare s l (spareMsg m)
  else if Mos.typ m = mosLpGrant then
    match lpOf ((Mos.payload m).getD 0 0) with
    | some x => grantSeen s l x
    | none => s
  else s

/-- A MOS addressed to the part: the rows of Table 10-5 from the third on. -/
def consumeMos (s : State) (l : LinkNo) (sd : Side) (m : Mos) : State :=
  let t := Mos.typ m
  let addr : Word := if t = mosRd ∨ t = mosWr then Mos.addr m else 0
  if Mos.src m ≠ sd.node then badMos s sd
  else if !imcFlag s sd then queueResponse s l (nakFor m nakDisabled addr)
  else if t = mosSpare then
    queueMos s l (Mos.src m) mosSpareRsp (Mos.seq m)
      ((Mos.payload m).take 4 ++ [3, (Mos.payload m).getD 5 0, 0, 0])
  else if t = mosSpareRsp then (takeSpareRsp s l sd (spareMsg m)).getD (badMos s sd)
  else if t = mosRdData ∨ t = mosAck ∨ t = mosNak ∨ t = mosNotify ∨ t = mosRetrainReq ∨ t = mosLpReq then badMos s sd
  else if t = mosLpGrant then badMos (noteMos s l m) sd
  else if t ≠ mosRd ∧ t ≠ mosWr then queueResponse s l (nakFor m nakUnsupported 0)
  else if malformed m then queueResponse s l (nakFor m nakMalformed addr)
  else request s l sd m

/-- The management lane of a link as it arrives on a side has SYM_LOCK; it is lost. -/
def mgmtSym (s : State) (l : LinkNo) (sd : Side) : Bool :=
  match (linkRec s l).bind (·.mgmtLane) with
  | some k => laneSym s l sd.rxDir k
  | none => false

def mgmtLost (s : State) (l : LinkNo) (sd : Side) : Bool :=
  match (linkRec s l).bind (·.mgmtLane) with
  | some k => isLost s l sd.rxDir k
  | none => false

/-- Where the management lane of a link is received. -/
def mgmtRx (s : State) (l : LinkNo) (d : Dir) : Option Pos := ((linkRec s l).bind (·.mgmtLane)).bind (laneRx s l d)

/-- A set of the part's own in the place of the one that enters next. -/
def planOwn (s : State) (sd : Side) (p : Pos) (y : List Sym) : State := planSet s sd p (y.map some)

/-- A pad set goes on in the place of a MOS that the part consumes. -/
def padInstead (s : State) (l : LinkNo) (sd : Side) : State :=
  let s := setSent s l sd.rxDir .pad
  match mgmtRx s l sd.rxDir with
  | some p => planOwn s sd p padSet
  | none => s

/-- One MOS on the management lane from a side (R288, R292): forwarded as it came, or consumed with a pad set in its
place. On a lost lane it arrives as fill and fails its CRC; what goes on there is fill (R194, Table 10-7). -/
def mosIn (s : State) (l : LinkNo) (sd : Side) (m : Mos) : State :=
  let forward := fun t : State => setSent t l sd.rxDir (.forwarded m)
  if !isPart s l || (getLink s l).join != .joined || !mgmtSym s l sd then s
  else if !consumes s l then (if dirForwards s l sd.rxDir then forward s else s)
  else if mgmtLost s l sd then crcMos s sd
  else if !Mos.crcOk m then forward (crcMos s sd)
  else if Mos.dst m ≠ (getLink s l).index then forward (noteMos s l m)
  else consumeMos (padInstead s l sd) l sd m

/-- The MOS of a request from a side's partner to the part. -/
def requestMos (s : State) (l : LinkNo) (sd : Side) (typ : BitVec 4) (seq : BitVec 12) (payload : List Byte) : Mos :=
  mosOf sd.node ⟨0, (getLink s l).index, typ, seq, payload, false⟩

end Sys2Proof.Machine
end

