-- ==== Sys2Proof/WellFormed.lean ====
section
/-! DEFINITION. The operands that the types of Syntax do not bound already: which commands can be sent. -/

namespace Sys2Proof

/-- An EEPROM transfer returns at most 256 bytes (R284). -/
def EepromResult.ok : EepromResult → Bool
  | .bytes d => 1 ≤ d.length && d.length ≤ 256
  | .nack => true
  | .timeout => true

/-- A sweep steps no farther than the range of R234, and compares a number of bits at each point. -/
def sweepOk (w : SweepRow) (h : SweepColumn) (bits : Nat) : Bool :=
  w.right.length ≤ 31 && w.left.length ≤ 32 && h.up.length ≤ 63 && h.down.length ≤ 64 &&
    (w.origin :: w.right ++ w.left ++ h.up ++ h.down).all (· ≤ bits)

/-- The opcodes that Table 10-6 names, BYPASS aside. -/
def jtagNamed (op : BitVec 8) : Bool := op < 7

/-- The command's operands lie within what the spec lets them be. -/
def Instr.wellFormed : Instr → Bool
  | .eepromTransfer r => r.ok
  | .scanPointDone _ _ n => n ≤ 67108864#32
  | .eyeSweepEnd _ _ w h => sweepOk w h 1048576
  | .trainingSweepEnd _ _ w h => sweepOk w h 256
  | .eyescan _ _ row => row.length ≤ 64
  | .captureTrigger _ ln => ln < 4#8 || ln == 0xFF#8
  | .jtagBypass op => !jtagNamed op
  | .receiverDetect _ _ _ => true
  | _ => true

end Sys2Proof
end

