-- ==== Sys2Proof/Machine/Inband.lean ====
section
/-! DEFINITION. The commands of the in-band channel and of the TAP (10). -/

namespace Sys2Proof.Machine

/-- R288, R292. -/
def execMosReceived (l : LinkNo) (sd : Side) (m : Mos) (e : List Upset) (s : State) : Host.Outcome State Fault Refusal :=
  done (mosIn (upset s e) l sd m)

/-- R291: a RD of one or two words from a side's partner. -/
def execMosRd (l : LinkNo) (sd : Side) (seq : BitVec 12) (a : Word) (two : Bool) (e : List Upset) (s : State) :
    Host.Outcome State Fault Refusal :=
  let s := upset s e
  done (mosIn s l sd (requestMos s l sd mosRd seq (bytesLE 4 a.toNat ++ [if two then 2 else 1])))

/-- R291: a WR from a side's partner. -/
def execMosWr (l : LinkNo) (sd : Side) (seq : BitVec 12) (a : Word) (v : Word) (e : List Upset) (s : State) :
    Host.Outcome State Fault Refusal :=
  let s := upset s e
  done (mosIn s l sd (requestMos s l sd mosWr seq (bytesLE 4 a.toNat ++ bytesLE 4 v.toNat)))

/-- R299: NOTIFY_MS after the last, while ATTN_N stays asserted. -/
def execNotifyRepeat (s : State) : Host.Outcome State Fault Refusal :=
  done (if attnLow s && s.imc.notifyMs != 0 then queueNotify (queueNotify s .A) .B else s)

/-! ### TAP (R300, R301) -/

/-- The TAP takes instructions: VIO supplies it and TRST_N does not hold it in reset (Table 1-6). -/
def tapRuns (s : State) : Bool := s.power.valid[5] && s.pins.trstN

def modJtag (s : State) (f : JtagSt → JtagSt) : State := { s with jtag := f s.jtag }

/-- What follows from an instruction in the instruction register (R301): one that takes the lane TX pins from the datapath
stops what it drives; one that takes SDA from the two-wire target ends its answers to a transaction in progress. -/
def jtagPins (s : State) : State :=
  let s := if jtagTakes s then { s with lanes := s.lanes.map fun n => { n with tx := { n.tx with last := none } } } else s
  if sdaOff s then { s with twb := { s.twb with reading := none, ack := false } } else s

/-- An instruction in the instruction register. The scan shifts out what the register captures: 1 in its lowest bit, 0
above (PRESUMED for bits 2 to 7, log entry 41). -/
def jtagLoad (s : State) (op : BitVec 8) : State :=
  if tapRuns s then
    jtagPins (modJtag s fun j => { j with ir := op, out := true :: List.replicate 7 false })
  else s

/-- The levels on the balls with boundary cells: those of the lane pins and REFCLK, and of the two-wire lines, are the
board's and the datapath's, a free value; a two-wire line that a cell holds low is low. -/
def pinLevels (s : State) (f : Nat) : Boundary :=
  let v := Config.pinLevels f
  let c := s.jtag.held
  { rx := v.extractLsb' 0 36, tx := v.extractLsb' 36 36, refclk := v.getLsbD 72, resetN := s.pins.resetN
    bypN := s.pins.bypN, addr := s.pins.addr, bootsel := s.pins.bootsel, sync := s.pins.sync, 
    scl := v.getLsbD 73 && (c.scl || !cellsDrive s), sda := v.getLsbD 74 && (c.sda || !cellsDrive s)
    attnN := !attnPinLow s, faultN := !faultPinLow s }

/-- A capture of the levels in the boundary register, while the instruction register selects it. -/
def captureCells (s : State) : State :=
  let u := useFree s
  modJtag u.2 fun j => { j with captured := pinLevels u.2 u.1 }

/-- IDCODE captures DEVID, and shifts it out. -/
def execJtagIdcode (s : State) : Host.Outcome State Fault Refusal :=
  let s := jtagLoad s 0x01
  let id := regValue s 0 .devid
  done (if tapRuns s then modJtag s fun j => { j with dr := id, out := List.ofFn fun i : Fin 32 => id.getLsbD i.val } else s)

/-- What the board shifts into the cells; the command does not carry it, so it is a free value (log entry 41). -/
def preloadCells (f : Nat) : Boundary :=
  let v := Config.preloaded f
  { rx := v.extractLsb' 0 36, tx := v.extractLsb' 36 36, refclk := v.getLsbD 72, resetN := v.getLsbD 73, bypN := v.getLsbD 74
    addr := v.extractLsb' 75 2, bootsel := v.getLsbD 77, sync := v.getLsbD 78, scl := v.getLsbD 79, sda := v.getLsbD 80
    attnN := v.getLsbD 81, faultN := v.getLsbD 82 }

/-- An instruction that selects the boundary register: its scan captures the levels on the balls and loads the cells (R300). -/
def scanCells (s : State) (op : BitVec 8) : State :=
  let s := jtagLoad s op
  if tapRuns s then
    let u := useFree (captureCells s)
    modJtag u.2 fun j => { j with held := preloadCells u.1, out := [] }
  else s

/-- SAMPLE/PRELOAD. -/
def execJtagSamplePreload (s : State) : Host.Outcome State Fault Refusal := done (scanCells s 0x02)

/-- EXTEST, and its two kinds for the AC-coupled balls. -/
def execJtagExtest (s : State) : Host.Outcome State Fault Refusal := done (scanCells s 0x00)
def execJtagExtestPulse (s : State) : Host.Outcome State Fault Refusal := done (scanCells s 0x03)
def execJtagExtestTrain (s : State) : Host.Outcome State Fault Refusal := done (scanCells s 0x04)
def execJtagHighz (s : State) : Host.Outcome State Fault Refusal := done (jtagLoad s 0x05)
def execJtagClamp (s : State) : Host.Outcome State Fault Refusal := done (jtagLoad s 0x06)

/-- 0xFF, and every opcode that Table 10-6 does not name, acts as BYPASS: its one-bit register captures 0. -/
def execJtagBypass (op : BitVec 8) (s : State) : Host.Outcome State Fault Refusal :=
  if jtagNamed op then done s
  else
    let s := jtagLoad s op
    done (if tapRuns s then modJtag s fun j => { j with bypass := false, out := [false] } else s)

/-- Test-Logic-Reset, and a low pulse on TRST_N, load IDCODE. TRST_N, which its pull holds low until then, is high from then
on (log entry 41). -/
def execJtagTapReset (s : State) : Host.Outcome State Fault Refusal :=
  done { s with pins := { s.pins with trstN := true }, jtag := { s.jtag with ir := 0x01, out := [] } }

/-- The level that the boundary cells give a lane's TX pair: they drive it where its Welt is open (R301). -/
def cellDrives (s : State) (sd : Side) (p : Pos) : Option Bool :=
  if cellsDrive s && !closedAt s p then
    some (s.jtag.held.tx.getLsbD (laneIx sd p).val)
  else none

end Sys2Proof.Machine
end

