-- ==== Sys2Proof/Machine/MoverOps.lean ====
section
/-! DEFINITION. One block of a MOVE or LAST_STAGE Job on a Mover (13, 14), and the check of a staged Last (03, 04). -/

namespace Sys2Proof.Machine

/-- What a block does to its Job. -/
inductive BlockOut where
  | ran (j : Job)
  | faulted (j : Job) (cause : Cause) (va : Nat) (write : Bool)

/-- The bytes of the block in hand: from the Job's progress to the end of the block or of the transfer (R374). -/
def blockBytes (j : Job) (total : Nat) : Nat := min (256 - j.done % 256) (total - j.done)

/-- A Job that has finished with a status and a RESULT. -/
def Job.finished (j : Job) (status : Byte) (result : Nat) : Job :=
  { j with result := some (status, BitVec.ofNat 32 result), hold := none }

/-! ### MOVE (R373, R374) -/

/-- The bytes of a fill: byte i of the destination is byte i mod 4 of PATTERN. -/
def fillBytes (e : QEntry) (off n : Nat) : List Byte := (List.range n).map fun i => e.bytes.getD (0x14 + (off + i) % 4) 0

/-- Data read where the destination lies less than a block above the source: the first bytes repeat (R374). -/
def repeatTo (n : Nat) (b : List Byte) : List Byte := (List.range n).map fun i => b.getD (i % b.length) 0

/-- The data of a block written from the Job's progress on; what a failing page keeps unwritten is held. -/
def moveWrite (s : State) (j : Job) (data : List Byte) : BlockOut × State :=
  let at' := j.entry.u32 8 + j.done
  match jobWrite s j.ctx at' data with
  | (none, w, s) =>
    let j := { j with done := j.done + w, hold := none }
    (.ran (if j.entry.u32 0x0C ≤ j.done then j.finished stOk 0 else j), s)
  | (some (cause, va), w, s) =>
    let j := { j with done := j.done + w, hold := some (at' + w, data.drop w) }
    (.faulted j cause va true, s)

def moveBlock (s : State) (j : Job) : BlockOut × State :=
  match j.hold with
  | some (_, data) => moveWrite s j data
  | none =>
    let n := blockBytes j (j.entry.u32 0x0C)
    if j.entry.u8 0x10 % 2 = 1 then moveWrite s j (fillBytes j.entry j.done n)
    else
      let src := j.entry.u32 4
      let dst := j.entry.u32 8
      let rd := if src < dst ∧ dst - src < n then dst - src else n
      match jobRead s j.ctx (src + j.done) rd j.entry.uninit with
      | (.error (cause, va), s) => (.faulted j cause va false, s)
      | (.ok b, s) =>
        match blocked s j.ctx (src + j.done) n false with
        | some (cause, va) => (.faulted j cause va false, s)
        | none => moveWrite s j (repeatTo n b)

/-! ### LAST_STAGE (R88, R102, R384) -/

/-- The checks of a staged image of n bytes: a LENGTH that differs from BYTES fails LENGTH. -/
def checkStaged (img : List Byte) (n : Nat) : Byte × Option LastImg :=
  match checkHeader img n with
  | some c => (c, none)
  | none => if leAt img 0x08 4 ≠ n then (0x13, none) else checkImage img n

/-- SHADOW STAGED, with the comparison, or REJECTED. -/
def stageImage (s : State) (c : Ctx) (n : Nat) : Byte × State :=
  let r := checkStaged s.last.bank n
  match r.2 with
  | some m =>
    let old := s.last.working
    let code := stageResult old m r.1 c
    (code, modLast s fun x =>
      { x with
        shadow := .staged, staged := some m, stager := c, result := code
        diff := Vector.ofFn fun l => linkDiff old m l
        bootDiff := bootDiffers old m, globalDiff := globalDiffers old m })
  | none => (r.1, modLast s fun x => { x with shadow := .rejected, staged := none, result := r.1 })

/-- The end of the copy: OK where the image is staged, STAGE_REJECTED with the failing code. -/
def stageEnd (s : State) (j : Job) : BlockOut × State :=
  let r := stageImage s j.ctx (j.entry.u32 8)
  if r.2.last.shadow == .staged then (.ran (j.finished stOk 0), r.2) else (.ran (j.finished 0x42 r.1.toNat), r.2)

def stageBlock (s : State) (j : Job) : BlockOut × State :=
  let n := blockBytes j (j.entry.u32 8)
  match jobRead s j.ctx (j.entry.u32 4 + j.done) n j.entry.uninit with
  | (.error (cause, va), s) => (.faulted j cause va false, s)
  | (.ok b, s) =>
    let s := modLast s fun x => { x with bank := x.bank ++ b }
    let j := { j with done := j.done + n }
    if j.entry.u32 8 ≤ j.done then stageEnd s j else (.ran j, s)

/-- One block of whichever of the two the Job is. -/
def moverBlock (s : State) (j : Job) : BlockOut × State :=
  if j.entry.opcode = opMove then moveBlock s j else stageBlock s j

/-- A running Job of an opcode on a unit: it has not finished. -/
def runningJob (s : State) (u : UnitId) (op : Nat) : Option Job :=
  match getUnit s u with
  | some j => if j.wq.isSome && j.entry.opcode == op && j.result.isNone then some j else none
  | none => none

/-- A Mover does the next block of its Job; a fault parks it (R405). -/
def runBlock (s : State) (m : MoverNo) (op : Nat) : State :=
  match runningJob s (.mover m) op with
  | none => s
  | some j =>
    match moverBlock s j with
    | (.ran j, s) => setUnit s (.mover m) (some j)
    | (.faulted j cause va write, s) => faultJob s (.mover m) j cause va write

end Sys2Proof.Machine
end

