-- ==== Sys2Proof/Machine/UnitOps.lean ====
section
/-! DEFINITION. How a Job on a unit other than a Mover puts its data into the Store (R328, R370, Table 14-3). -/

namespace Sys2Proof.Machine

/-- Data that a Job of a unit has ready is written at a virtual address: the Job goes on with nothing held; or it is parked,
holding what a failing page keeps back (none). BYTES_DONE counts the bytes where counted is true. -/
def putData (s : State) (u : UnitId) (j : Job) (va : Nat) (data : List Byte) (counted : Bool) : Option Job × State :=
  match jobWrite s j.ctx va data with
  | (none, w, s) => (some { j with hold := none, done := if counted then j.done + w else j.done }, s)
  | (some (cause, at'), w, s) =>
    let j := { j with hold := some (va + w, data.drop w), done := if counted then j.done + w else j.done }
    (none, faultJob s u j cause at' true)

/-- The Job of a unit as it goes on. -/
def keepJob (s : State) (u : UnitId) (j : Job) : State := setUnit s u (some j)

/-- The Job of a unit that finishes with a status and a RESULT. -/
def finishWith (s : State) (u : UnitId) (j : Job) (status : Byte) (result : Nat) : State :=
  setUnit s u (some (j.finished status result))

end Sys2Proof.Machine
end

