-- ==== Sys2Proof/Machine/Jobs.lean ====
section
/-! DEFINITION. The commands of MOVE, CAPTURE, TELEMETRY and IMC_SEND Jobs (13). -/

namespace Sys2Proof.Machine

/-- R374: the Mover's next block. -/
def execMove (m : MoverNo) (e : List Upset) (s : State) : Host.Outcome State Fault Refusal :=
  done (runBlock (upset s e) m opMove)

/-! ### CAPTURE (R390 to R393) -/

/-- The link is in Bypass by its record. -/
def inBypass (s : State) (l : LinkNo) : Bool := (getLink s l).join == .cfgBypass

/-- Checks 1 and 2 of R390: the link, or the status that the Job ends with. -/
def captureLink (s : State) (e : QEntry) : Except Byte LinkNo :=
  match capLink s.last.working e with
  | none => .error 0x5A
  | some l =>
    if (getLink s l).join != .joined && !inBypass s l then .error 0x5A
    else
      if (1 < e.u8 0x0D && (inBypass s l || (isTrans s l && isLoopTimed s l))) || (capTx e && inBypass s l) then .error 0x5B
      else .ok l

/-- The engine arms (R390); IMMEDIATE triggers as it does (R392). -/
def armCapture (s : State) (sd : Side) (j : Job) : State :=
  match captureLink s j.entry with
  | .error st => finishWith s (capUnit sd) j st 0
  | .ok l =>
    match writeBlocked s j.ctx (j.entry.u32 4) (0x40 + j.entry.u32 8) with
    | some (cause, va) => faultJob s (capUnit sd) j cause va true
    | none =>
      let t := s.time.dtime
      let trig := if j.entry.u8 0x14 = 0 then some (0, (0xFF : Byte), t) else none
      keepJob s (capUnit sd) { j with prog := .cap l t 0 (Vector.replicate 4 eiWord) trig [] }

/-- R390. -/
def execCapture (sd : Side) (s : State) : Host.Outcome State Fault Refusal :=
  match runningJob s (capUnit sd) opCapture with
  | some j => if j.prog = .plain then done (armCapture s sd j) else done s
  | none => done s

/-- R392: the condition is met in the row that is being written; only the first counts. DESIGN CHOICE (log entry 93): a row, a
loss decision and a SYNC edge trigger by themselves, so the command acts only where the words in hand meet MATCH or ERROR. -/
def execCaptureTrigger (sd : Side) (ln : BitVec 8) (s : State) : Host.Outcome State Fault Refusal :=
  match runningJob s (capUnit sd) opCapture with
  | none => done s
  | some j =>
    match j.prog with
    | .cap l arm rows now none buf =>
      if wordTrigger j.entry now = some ln then
        done (keepJob s (capUnit sd) { j with prog := .cap l arm rows now (some (rows, ln, s.time.dtime)) buf })
      else done s
    | _ => done s

/-- The engine stops: the rows in hand and the header are written; a page that no longer translates ends with CAP_LOST_PAGE
(R393). -/
def stopCapture (s : State) (sd : Side) (j : Job) (status : Byte) (result flags : Nat) : State :=
  match capFlush s j with
  | (some (cause, va), j, s) => lostPage s sd j cause va
  | (none, j, s) =>
    match writeBlocked s j.ctx (j.entry.u32 4) 64 with
    | some (cause, va) => lostPage s sd j cause va
    | none => (endCapture s sd j status result flags).2

/-- R392: the last row has been written. -/
def execCaptureStop (sd : Side) (s : State) : Host.Outcome State Fault Refusal :=
  match runningJob s (capUnit sd) opCapture with
  | none => done s
  | some j =>
    match j.prog with
    | .cap _ _ rows _ trig _ => if capFull j.entry rows trig then done (stopCapture s sd j stOk 0 0) else done s
    | _ => done s

/-- R393: TIMEOUT ms without a trigger. -/
def execCaptureTimeout (sd : Side) (s : State) : Host.Outcome State Fault Refusal :=
  match runningJob s (capUnit sd) opCapture with
  | none => done s
  | some j =>
    match j.prog with
    | .cap _ _ rows _ none _ =>
      if j.entry.u16 0x16 = 0 then done s else done (stopCapture s sd j 0x58 (min rows (capRows j.entry)) 4)
    | _ => done s

/-- R393: a page of the block in hand, to the row that is being recorded, no longer translates. -/
def execCaptureLostPage (sd : Side) (s : State) : Host.Outcome State Fault Refusal :=
  match runningJob s (capUnit sd) opCapture with
  | none => done s
  | some j =>
    match j.prog with
    | .cap l arm rows now trig buf =>
      let rb := captureRowBytes (j.entry.u8 0x0D)
      let first := rows - buf.length / rb
      match writeBlocked s j.ctx (j.entry.u32 4 + 0x40 + first % capRows j.entry * rb) (buf.length + rb) with
      | some (cause, va) => done (lostPage s sd { j with prog := .cap l arm first now trig [] } cause va)
      | none => done s
    | _ => done s

/-! ### TELEMETRY (R385, R386) -/

/-- The snapshot of this instant (Table 13-7). -/
def snapshotBytes (s : State) (e : QEntry) (slots : Nat) : List Byte :=
  bytesLE 2 1 ++ [e.bytes.getD 8 0, BitVec.ofNat 8 slots] ++ zeros 4 ++ bytesLE 8 s.time.dtime.toNat ++
    s.tm.ch.toList.flatMap fun c => bytesLE 4 (tmchWord c).toNat

/-- A record written, and the Job's end. -/
def putSnapshot (s : State) (m : MoverNo) (j : Job) (data : List Byte) : State :=
  match putData s (.mover m) j (j.entry.u32 4) data true with
  | (some j, s) => finishWith s (.mover m) j stOk 0
  | (none, s) => s

/-- The Job's trigger of its sequencer: it waits for one sequence's end, or for two where the trigger is held. -/
def teleStart (s : State) (m : MoverNo) (j : Job) (n : SeqNo) : State :=
  let q := s.tm.seqrs[n]
  if q.prog.trig != 2 then finishWith s (.mover m) j 0x60 0
  else
    let wait := fun (t : State) (k : Nat) => keepJob t (.mover m) { j with prog := .tele (some k) q.prog.slots }
    match trigger s n with
    | (.started, s) => wait s 1
    | (.held, s) => wait s 2
    | (.dropped, s) => finishWith s (.mover m) j 0x61 0
    | (.ignored, s) => finishWith s (.mover m) j 0x61 0

/-- What a TELEMETRY Job does next: its trigger, the wait, the snapshot, or the record held since a fault. -/
def teleStep (s : State) (m : MoverNo) (j : Job) : State :=
  match j.hold, j.prog with
  | some (_, data), _ => putSnapshot s m j data
  | none, .tele (some 0) slots => putSnapshot s m j (snapshotBytes s j.entry slots)
  | none, .tele _ _ => s
  | none, _ =>
    if j.entry.u8 8 = 0 then putSnapshot s m j (snapshotBytes s j.entry 12)
    else teleStart s m j (if j.entry.u8 8 = 1 then 0 else 1)

/-- R385, R386. -/
def execTelemetry (m : MoverNo) (s : State) : Host.Outcome State Fault Refusal :=
  match runningJob s (.mover m) opTelemetry with
  | some j => done (teleStep s m j)
  | none => done s

/-! ### IMC_SEND (R387) -/

/-- The checks, then the MOS queued with SEQ from TAG. -/
def sendStart (s : State) (j : Job) : State :=
  let e := j.entry
  let l : LinkNo := Fin.ofNat 8 (e.u8 4)
  let lp := e.u8 6 = 0x0A
  if !imcOn (getLink s l) then finishWith s .inband j 0x68 0
  else if lp && !(getLink s l).capLink.getLsbD (if e.u8 7 = 3 then 2 else 1) then finishWith s .inband j 0x69 0
  else
    let s := keepJob s .inband { j with sent := true }
    let typ := BitVec.ofNat 4 (e.u8 6)
    joinOut s l ⟨mosPrio typ, BitVec.ofNat 2 (e.u8 5), typ, BitVec.ofNat 12 e.tag, if lp then [BitVec.ofNat 8 (e.u8 7)] else [], true⟩

/-- R387. -/
def execImcSend (s : State) : Host.Outcome State Fault Refusal :=
  match runningJob s .inband opImcSend with
  | some j => if j.sent then done s else done (sendStart s j)
  | none => done s

/-- R387: 1 ms without a pad set that takes the MOS. -/
def execImcNoSlot (s : State) : Host.Outcome State Fault Refusal :=
  match runningJob s .inband opImcSend with
  | some j => if j.sent then done (finishWith (dropSend s j) .inband j 0x6A 0) else done s
  | none => done s

end Sys2Proof.Machine
end

