-- ==== Sys2Proof/Machine/PadOps.lean ====
section
/-! DEFINITION. The places in which the part sends its epoch markers and its own MOS: the pad sets of the management lane
(R120, R297), and its fill while it is lost (R195). -/

namespace Sys2Proof.Machine

/-- An epoch marker is due in a direction. -/
def markDue (k : Link) : Dir → Bool
  | .AB => k.markAB
  | .BA => k.markBA

def clearMark (s : State) (l : LinkNo) (d : Dir) : State :=
  modLink s l fun k => match d with
    | .AB => { k with markAB := false }
    | .BA => { k with markBA := false }

/-- NOTIFY carries ATTNSRC and DTIME_LO as they are at sending. -/
def atSending (s : State) (m : OutMos) : OutMos :=
  if m.typ = mosNotify then
    { m with payload := bytesLE 4 (attnSrc s).toNat ++ bytesLE 4 (s.time.dtime.extractLsb' 0 32).toNat }
  else m

/-- The MOS of the IMC_SEND Job has been sent: the Job ends OK (R387). -/
def sendDone (s : State) (l : LinkNo) (m : OutMos) : State :=
  match if m.job then runningJob s .inband opImcSend else none with
  | none => s
  | some j =>
    let e := j.entry
    if e.u8 4 = l.val ∧ e.u8 6 = m.typ.toNat ∧ e.u8 5 = m.dst.toNat ∧ e.tag % 4096 = m.seq.toNat then
      finishJob s .inband stOk 0
    else s

/-- IMCSTAT.LAST_NAK and LAST_NAK_B of a NAK that is sent (Table 10-11). -/
def noteNak (s : State) (m : OutMos) : State :=
  if m.typ = mosNak then
    { s with imc := { s.imc with lastNak := (m.payload.getD 0 0).setWidth 3, lastNakB := m.dst == 3 } }
  else s

/-- The MOS of a direction that goes next leaves its queue and is sent (R297); none waits, or the channel is off. -/
def sendNext (s : State) (l : LinkNo) (d : Dir) : Option Mos × State :=
  match if imcOn (getLink s l) then nextMos (outOf (getLink s l) d) else none with
  | none => (none, s)
  | some m =>
    let x := mosOf (getLink s l).index (atSending s m)
    let s := modLink s l fun k => setOut k d ((outOf k d).erase m)
    (some x, sendDone (noteNak (setSent s l d (.mos x)) m) l m)

/-- The pad set of a direction on the management lane, received on position p: a marker, or the MOS that goes first, or as
it came. -/
def fillPad (s : State) (l : LinkNo) (d : Dir) (p : Pos) : State :=
  let k := getLink s l
  if markDue k d && markersOn s l then
    planOwn (setSent (clearMark s l d) l d (.marker k.index k.epoch l)) d.rxSide p (markerSet k.index k.epoch l)
  else match sendNext s l d with
    | (none, s) => setSent s l d .pad
    | (some m, s) => planOwn s d.rxSide p (mosSet m)

/-- On a lost management lane the part's own MOS goes in the place of a lane-fault set, outside frames, one per 64 symbols
(R195). -/
def fillMos (s : State) (l : LinkNo) (d : Dir) : State :=
  match (linkRec s l).bind (·.mgmtLane) with
  | none => s
  | some k =>
    if !isPart s l || !isLost s l d k || frameOpen (getLink s l) d || !mayFill s l d then s
    else match laneTxs s l d k with
      | [] => s
      | q :: r =>
        let x := (getLane s d.txSide q).tx
        if x.fillPos != 0 || !x.fillSet.isEmpty || x.fillRun < 64 then s
        else match sendNext s l d with
          | (none, s) => s
          | (some m, s) => (q :: r).foldl (fun t q => modTx t d.txSide q fun x => { x with fillSet := mosSet m, fillRun := 0 }) s

end Sys2Proof.Machine
end

