-- ==== Sys2Proof/Machine/Lane.lean ====
section
/-! DEFINITION. The commands of the lane datapath (05): rate, lock, commas, code groups, skip sets, loop mastership, swing,
ramps, snapshots, PLLs. -/

namespace Sys2Proof.Machine

/-- R132, R174: the rate that a receiver has detected. -/
def execRateDetected (sd : Side) (p : Pos) (r : Rate) (s : State) : Host.Outcome State Fault Refusal :=
  done (if rxPowered s sd p then rateSeen s sd p (rateCode r) else s)

/-! ### Lock (R131, R133) -/

/-- The link that a receiver's lane belongs to wakes, or is up, where its lanes now have their locks. -/
def lockFollows (s : State) (sd : Side) (p : Pos) : State :=
  match feeds s sd p with
  | some (l, _) => transparentUp (wakeDone (restoreTransparent s sd p) l) l
  | none => s

/-- A COLD spare under a cold policy that no test holds keeps signal detect only (Table 7-2). -/
def coldRx (s : State) (sd : Side) (p : Pos) : Bool :=
  match whoRx s sd p with
  | some (.spare l n) => (getSpare s l n sd.rxDir).code == .cold && coldPolicy s l && !isTap s p && !spareHeld s l n
  | _ => false

/-- A receiver of a direction that sleeps, and has not begun to wake, keeps signal detect only (Table 7-6). -/
def sleepingRx (s : State) (sd : Side) (p : Pos) : Bool :=
  match rxLink s sd p with
  | some l => sleepsNow (getLink s l) sd.rxDir
  | none => false

/-- R131: a Transparent loop-timed lane no longer holds over alone (R149). -/
def execCdrLockGained (sd : Side) (p : Pos) (s : State) : Host.Outcome State Fault Refusal :=
  if !rxPowered s sd p || coldRx s sd p || sleepingRx s sd p then done s
  else
    let alone := match feeds s sd p with
      | some (l, _) => isTrans s l
      | none => false
    let s := modRx s sd p fun n => { n with cdrLock := true, holdover := n.holdover && !alone }
    done (lockFollows s sd p)

/-- R131, R149, R185, R193, R235: everything that rests on the recovered clock ends. -/
def execCdrLockLost (sd : Side) (p : Pos) (s : State) : Host.Outcome State Fault Refusal :=
  if !(getLane s sd p).rx.cdrLock then done s
  else
    let s := dropCdr (holdLoop s sd p) sd p
    let s := releaseForward (rxLost s sd p 1) sd p
    done <| match feeds s sd p with
      | some (l, _) => symLossRetrain s l sd.rxDir
      | none => s

/-- A comma at boundary ph (R133): the first sets the boundary, two further ones on it give SYM_LOCK, four in a row on
one other boundary clear SYM_LOCK and move it. -/
def takeComma (n : LaneRx) (ph : Fin 10) : LaneRx :=
  match n.aligned with
  | none => { n with wordPhase := ph, aligned := some 0, commaAt := none, commas := 0, rd := none }
  | some k =>
    if ph = n.wordPhase then
      { n with aligned := some (min 2 (k + 1)), symLock := n.symLock || 1 ≤ k, commaAt := none, commas := 0 }
    else
      let run := if n.commaAt = some ph then n.commas + 1 else 1
      if 4 ≤ run then
        { n with wordPhase := ph, aligned := some 0, symLock := false, commaAt := none, commas := 0, rd := none }
      else { n with commaAt := some ph, commas := run }

/-- R133, R185. -/
def execCommaReceived (sd : Side) (p : Pos) (ph : Fin 10) (s : State) : Host.Outcome State Fault Refusal :=
  if !rxPowered s sd p || !commaOn s sd p || !(getLane s sd p).rx.cdrLock then done s
  else
    let was := (getLane s sd p).rx.symLock
    let s := modRx s sd p (takeComma · ph)
    let now := (getLane s sd p).rx.symLock
    done <|
      if now && !was then lockFollows s sd p
      else if was && !now then
        match feeds s sd p with
        | some (l, _) => symLossRetrain s l sd.rxDir
        | none => s
      else s

/-! ### Symbols (R136 to R145) -/

/-- R136, R137, R194, R225: one group received; `reads` symbols leave the buffer in its symbol time. Without CDR_LOCK the
receiver takes no group, and the symbol times pass for what its transmitters send; at a position without power they pass for
what is captured there (R391). -/
def execRxCodeGroup (sd : Side) (p : Pos) (g : BitVec 10) (reads : Fin 3) (s : State) : Host.Outcome State Fault Refusal :=
  if !rxPowered s sd p then done (sendOne (capFeed s sd false p fun _ => eiWord) sd p none)
  else
    let x := padGroup s sd p g
    let s := match if (getLane s sd p).rx.cdrLock then x.1 else none with
      | some g => loopGroup (receiveGroup x.2 sd p g) sd p g
      | none => if isTap s p then capFeed x.2 sd false p fun _ => eiWord else x.2
    let s := modMeas s sd p parallelWord
    done <|
      if isTap s p then sendOne s sd p none
      else
        let s := readMany reads.val s sd p
        match rxLink s sd p with
        | some l => requestLoops (fillMos s l sd.rxDir) l
        | none => s

/-- R144: LNCTL written with RECENTRE. -/
def execLnctlRecentre (c : Ctx) (sd : Side) (p : Pos) (v : Word) (s : State) : Host.Outcome State Fault Refusal :=
  done (writeTo s c (.lnctl sd p) (setBit v 4 true))

/-- R135: LNCTL written with BITSLIP. -/
def execLnctlBitslip (c : Ctx) (sd : Side) (p : Pos) (v : Word) (s : State) : Host.Outcome State Fault Refusal :=
  done (writeTo s c (.lnctl sd p) (setBit v 3 true))

/-- The SKP edit that a skip set asks for at a fill (R141): true adds, false removes. -/
def skipEdit (fill skp : Nat) : Option Bool :=
  if 17 < fill && (skp == 3 || skp == 4) then some false
  else if fill < 15 && (skp == 2 || skp == 3) then some true
  else none

/-- The receiver's fill decides the skip edits of its lane: its own in a Transparent link, the decision lane's in a
Participating one (R142, R197); none where the link is loop-timed (R148), the lane is lost (R164) or the position is in far-end loopback
(R246). -/
def decidesSkip (s : State) (sd : Side) (p : Pos) : Bool :=
  match feeds s sd p with
  | none => false
  | some (l, k) =>
    (getLink s l).join == .joined && !isLoopTimed s l && !isLost s l sd.rxDir k && !looped s l sd.rxDir k &&
      (isTrans s l || editLane s l sd.rxDir == some k)

/-- The decision for a skip set reaches a lane (R142): it falls on the next K28.0 to enter there, or where the lane's copy of the
set has begun to enter, on what of it stands in the buffer. -/
def takeDecision (s : State) (sd : Side) (q : Pos) (e : Option Bool) : State :=
  match (getLane s sd q).rx.turn, e with
  | .entered, some add =>
    let r := editBuffered add (getLane s sd q).rx
    let s := modRx s sd q fun _ => { r.2 with turn := .level }
    if r.1 then countEdit s sd add q else s
  | .entered, none => modRx s sd q fun n => { n with turn := .level }
  | .told, _ => modRx s sd q fun n => { n with edit := e, turn := .level }
  | .level, _ | .decided, _ => modRx s sd q fun n => { n with edit := e, turn := .decided }

/-- A lane that another decides for has its own copy of a set told of. -/
def noteCopy (s : State) (sd : Side) (p : Pos) : State :=
  modRx s sd p fun n => { n with turn := if n.turn == .decided then .level else .told }

/-- R141, R142: the edit that a skip set is due, and its number of SKP as it is sent. -/
def editSet (s : State) (sd : Side) (p : Pos) (skp : Nat) : Nat × State :=
  if !decidesSkip s sd p then (skp, noteCopy s sd p)
  else
    let e := skipEdit (fillOf (getLane s sd p).rx) skp
    let s := modRx s sd p fun n => { n with edit := e }
    (match e with
      | none => skp
      | some add => if add then skp + 1 else skp - 1,
     ((editSharers s sd p).filter (· != p)).foldl (fun t q => takeDecision t sd q e) s)

/-- A skip set of the decision lane of a Participating link goes into the fill of the lost lanes (R194). -/
def fillSkip (s : State) (sd : Side) (p : Pos) (skp : Nat) : State :=
  match feeds s sd p with
  | none => s
  | some (l, k) =>
    let d := sd.rxDir
    if !isPart s l || editLane s l d != some k then s
    else ((trainedLanes s l).filter (isLost s l d)).foldl (fun t j =>
      (laneTxs t l d j).foldl (fun u q => modTx u d.txSide q fun x =>
        { x with fillSet := x.fillSet ++ symCom :: List.replicate skp symSkp }) t) s

/-- No swap and no retrain has been started for a lost lane (R198). -/
def inPlace (k : Link) (d : Dir) (j : LLane) : Bool :=
  !k.retrainAsked && !(match k.swap with
    | some w => w.dir == d && w.lane == j
    | none => false)

/-- A lost lane on a receiver counts a skip set that leaves the aligner: four in line, and the next restores it (R198). Gives
the receiver after it, and whether it is restored. -/
def countInLine (n : LaneRx) (inLine : Bool) : Bool × LaneRx :=
  if !inLine then (false, { n with alignRun := 0 })
  else if n.alignRun < 4 then (false, { n with alignRun := n.alignRun + 1 })
  else (true, { n with alignRun := 0 })

/-- The lane with whose skip sets a spare in FORWARD is to leave the aligner: its own, or the decision lane where that is lost
(R208). -/
def forwardRef (s : State) (l : LinkNo) (d : Dir) (k : LLane) : Option LLane :=
  if isLost s l d k then editLane s l d else some k

/-- R208: a skip set on a spare in FORWARD sets its delay; a lost one is restored as a lane is. -/
def watchForward (s : State) (sd : Side) (p : Pos) (inLine : Bool) : State :=
  match whoRx s sd p with
  | some (.spare l n) =>
    let d := sd.rxDir
    let x := getSpare s l n d
    if x.code != .forward then s
    else
      let s := setSpare s l n d { x with ref := forwardRef s l d x.lane }
      if !x.lost then s
      else
        let y := (getLane s sd p).rx
        let c := countInLine y (inLine && y.cdrLock && y.symLock && txClocked s l d)
        let s := modRx s sd p fun _ => c.2
        if c.1 then logLane (setSpare s l n d { getSpare s l n d with lost := false }) 0x0406 l d x.lane [] else s
  | _ => s

/-- R179, R198: a skip set leaves the aligner in line, or not. A lost lane counts four in line and is restored at the next;
on any other lane each four in a row out of line make a retrain request in ACTIVE. -/
def watchSkew (s : State) (sd : Side) (p : Pos) (inLine : Bool) : State :=
  match feeds s sd p with
  | none => watchForward s sd p inLine
  | some (l, k) =>
    let d := sd.rxDir
    let n := (getLane s sd p).rx
    if !isPart s l || !decidesLoss s l d || !(trainedLanes s l).contains k then s
    else if isLost s l d k then
      let c := countInLine n (inLine && n.cdrLock && n.symLock && inPlace (getLink s l) d k && txClocked s l d)
      let s := modRx s sd p fun _ => c.2
      if c.1 then restoreLane s l d k else s
    else
      let due := !inLine && n.driftRun == 3
      let s := modRx s sd p fun x => { x with driftRun := if inLine || due then 0 else x.driftRun + 1 }
      if due && (getLink s l).st == .active then requestRetrain (logL s 0x0404 sd p []) l else s

/-- The receiver on which a swap's lane is to be taken: the spare's, or at home on the way back (R209, R211). -/
def swapSource (s : State) (l : LinkNo) (w : Swap) : Option Pos :=
  (linkRec s l).bind fun r =>
    if w.back then homeRx s.last.working r w.dir w.lane else spareRx s.last.working r w.dir w.spare

/-- Step 3 of R209: the lane is taken from its new source, which ends its loss and a hold of the loop on the old one (R149), and
MOVE is sent downstream. -/
def receiveSwitch (s : State) (l : LinkNo) (w : Swap) : State :=
  let before := masterRx s l w.dir
  let w := { w with step := .move, misses := 0 }
  let s := modLink s l fun k => { k with swap := some w }
  let s := moveHold before l w.dir (checkRecovered (setLost s l w.dir w.lane false) l)
  sendSpare s l w (w.op 2 5) w.dir.downNode

/-- Steps 2 and 3 of R209 as a skip set arrives on the new source: the spare's delay is set, to its lane or in a lost-lane
swap to the decision lane; a comparison that passes, one that fails, and the receive switch at the end of the set after it. A
lost-lane swap makes no comparison. DEDUCED (log entry 64): the steps run on from the duplicate's arrival, whether or not DUP
has been answered by then. -/
def swapSkip (s : State) (sd : Side) (p : Pos) (same : Bool) : State :=
  match rxLink s sd p with
  | none => s
  | some l =>
    match (getLink s l).swap with
    | none => s
    | some w =>
      let put := fun w : Swap => modLink s l fun k => { k with swap := some w }
      if w.dir ≠ sd.rxDir ∨ swapSource s l w ≠ some p then s
      else match w.step with
        | .ready => receiveSwitch s l w
        | .dup | .aligning =>
          if w.cause = 1 ∨ same then
            let t := put { w with step := .ready, misses := 0 }
            if w.back then t
            else setSpare t l w.spare w.dir
              { getSpare t l w.spare w.dir with ref := if w.cause = 1 then editLane t l w.dir else some w.lane }
          else if w.misses < 3 then put { w with misses := w.misses + 1 }
          else failSwap s l w 6 false
        | .move | .release => s

/-- R141, R179, R194, R198, R209: a skip set enters the buffer of a receiver that has SYM_LOCK. -/
def execSkipSetArrives (sd : Side) (p : Pos) (k : SkipSet) (s : State) : Host.Outcome State Fault Refusal :=
  if !rxPowered s sd p || isTap s p || !symShown s sd p then done s
  else
    let s := symbolAfterExchange s sd p
    let r := editSet s sd p k.skp.toNat
    let s := fillSkip r.2 sd p r.1
    done (swapSkip (watchSkew s sd p k.inLine) sd p k.same)

/-- R145: a window of one second of DTIME ends. -/
def execSkipRateWindow (s : State) : Host.Outcome State Fault Refusal :=
  done { s with lanes := s.lanes.map fun n => { n with rx := { n.rx with skpWin := 0, skpHit := false } } }

/-! ### Loop timing (R148, R149) -/

/-- The lowest-numbered logical lane of a direction that has CDR_LOCK. -/
def newMaster (s : State) (l : LinkNo) (d : Dir) : Option LLane := (trainedLanes s l).find? (laneCdr s l d)

/-- R149: mastership of a holding loop moves; with no lane locked it holds on. -/
def execLoopMasterMoved (l : LinkNo) (d : Dir) (s : State) : Host.Outcome State Fault Refusal :=
  let held := match laneRx s l d (loopMasterOf s l d) with
    | some p => (getLane s d.rxSide p).rx.holdover
    | none => false
  if !isPart s l || !isLoopTimed s l || !held then done s
  else match newMaster s l d with
    | none => done s
    | some k =>
      let s := (trainedLanes s l).foldl (fun t j => match laneRx t l d j with
        | some p => modRx t d.rxSide p fun n => { n with holdover := false }
        | none => t) s
      let s := modLink s l fun x => match d with
        | .AB => { x with masterAB := some k }
        | .BA => { x with masterBA := some k }
      done (logLane s 0x0304 l d k [])

/-! ### Swing and ramps (R153 to R155, R262) -/

/-- R154: the comparators find that the driver delivers code c at most. -/
def execSwingLimit (sd : Side) (p : Pos) (c : BitVec 5) (s : State) : Host.Outcome State Fault Refusal :=
  let x := (getLane s sd p).tx
  if !rxPowered s sd p || x.swingAct.toNat ≤ c.toNat then done s
  else
    let s := modTx s sd p fun x => { x with swingAct := c, limited := true }
    done (if x.limited then s else logTx s 0x0303 sd p [c.setWidth 8])

/-- R154: one code up, where there is room for it; SWING_LIMITED clears at the commanded code. -/
def execSwingRaise (sd : Side) (p : Pos) (room : Bool) (s : State) : Host.Outcome State Fault Refusal :=
  let x := (getLane s sd p).tx
  if !rxPowered s sd p || !x.limited || !room || x.swingNow.toNat ≤ x.swingAct.toNat then done s
  else done (modTx s sd p fun x => { x with swingAct := x.swingAct + 1, limited := x.swingAct + 1 != x.swingNow })

/-- R155, R166. -/
def execLntxdrvWrite (c : Ctx) (sd : Side) (p : Pos) (v : Word) (s : State) : Host.Outcome State Fault Refusal :=
  done (writeTo s c (.lntxdrv sd p) v)

/-- One step of a code toward a target. -/
def toward {n : Nat} (now target : BitVec n) : BitVec n :=
  if now.toNat < target.toNat then now + 1 else if target.toNat < now.toNat then now - 1 else now

/-- One step of a code up or down, within its limits. -/
def nudge {n : Nat} (now : BitVec n) (up : Bool) (lo hi : Nat) : BitVec n :=
  if up then (if now.toNat < hi then now + 1 else now) else if lo < now.toNat then now - 1 else now

/-- One step of a signed code up or down, within ± limit. -/
def nudgeSigned {n : Nat} (now : BitVec n) (up : Bool) (limit : Int) : BitVec n :=
  if up then (if now.toInt < limit then now + 1 else now) else if -limit < now.toInt then now - 1 else now

/-- One step of a signed code toward a target. -/
def towardSigned {n : Nat} (now target : BitVec n) : BitVec n :=
  if now.toInt < target.toInt then now + 1 else if target.toInt < now.toInt then now - 1 else now

/-- The commanded swing moves; the achieved code follows it, or keeps to what can be delivered (R154). -/
def swingStep (x : LaneTx) : LaneTx :=
  let c := toward x.swingNow x.swing
  if x.limited then
    let a := if c.toNat < x.swingAct.toNat then c else x.swingAct
    { x with swingNow := c, swingAct := a, limited := a != c }
  else { x with swingNow := c, swingAct := c }

/-- A CTLE_SET in force: clamped to the entry's range in its effect (Table 5-12). -/
def ctleTarget (e : EqRec) (set : BitVec 4) : BitVec 4 :=
  BitVec.ofNat 4 (max e.ctleMin (min e.ctleMax set.toNat))

/-- Ramps back to what the trims were end where they arrive (R267, R268). -/
def settleRx (n : LaneCal) : LaneCal := if n.homeRx = some n.rxTrims then n.stillRx else n
def settleTx (n : LaneCal) : LaneCal := if n.homeTx = some n.txTrims then n.stillTx else n

/-- A trim's step: toward the value to which it ramps back, or the way that the calibration moves it (R262). -/
def trimCode {k : Nat} (home : Option (BitVec k)) (now : BitVec k) (up : Bool) (lo hi : Nat) : BitVec k :=
  match home with
  | some t => toward now t
  | none => nudge now up lo hi

def trimSigned (home : Option (BitVec 7)) (now : BitVec 7) (up : Bool) : BitVec 7 :=
  match home with
  | some t => towardSigned now t
  | none => nudgeSigned now up 63

/-- The trims of a receiver or a transmitter move only while its unit is trimmed in place, or while they ramp back (R262,
R268). -/
def trimsMove (s : State) (sd : Side) (p : Pos) (receive : Bool) : Bool :=
  let c := (getLane s sd p).cal
  (if receive then c.homeRx.isSome else c.homeTx.isSome) ||
    match s.cal.recal with
    | some r => r.mode == 2 && r.stage == .trimming && s.cal.curPos == p &&
        (if receive then s.cal.curDir.rxSide else s.cal.curDir.txSide) == sd
    | none => false

/-- The equaliser loops run on a receiver that follows its input. -/
def follows (s : State) (sd : Side) (p : Pos) : Bool := (getLane s sd p).rx.cdrLock

/-- R130: a loop adapts while its ADAPT bit is set and its hold bit is not; CTLE_FORCE holds the CTLE's (Table 5-12). -/
def ctleAdapts (s : State) (sd : Side) (p : Pos) : Bool :=
  let n := getLane s sd p
  follows s sd p && (eqAt s.last.working sd p).ctleAdapt && !n.rx.ctleHold && !n.eq.ctleForce

def dfeAdapts (s : State) (sd : Side) (p : Pos) : Bool :=
  follows s sd p && (eqAt s.last.working sd p).dfeAdapt && !(getLane s sd p).rx.dfeHold

/-- DESIGN CHOICE (log entry 76): the EQ entry has no ADAPT bit for the VGA, so LNCTL's hold bit alone decides. -/
def vgaAdapts (s : State) (sd : Side) (p : Pos) : Bool := follows s sd p && !(getLane s sd p).rx.vgaHold

/-- One trim step put into effect: RAMPING while the trims still move. -/
def moveTrim (s : State) (sd : Side) (p : Pos) (receive : Bool) (f : LaneCal → LaneCal) : State :=
  if !trimsMove s sd p receive then s
  else modCal s sd p fun n =>
    if receive then settleRx { f n with rampRx := true } else settleTx { f n with rampTx := true }

/-- The PRE and POST ramp of a lane is abandoned while its link equalises and answers presets (R155, R271). -/
def rampFrozen (s : State) (sd : Side) (p : Pos) : Bool :=
  match txLink s sd p with
  | some l => equalises (getLink s l).st && isPart s l && (txAt s.last.working sd p).acceptReq
  | none => false

/-- CTLE or VGA moves; a Job's scan on the receiver notes a change (MFL[1], Table 8-3). -/
def moveEq (s : State) (sd : Side) (p : Pos) (f : LaneEq → LaneEq) : State :=
  let n := (getLane s sd p).eq
  let m := f n
  let s := modEq s sd p fun _ => m
  if m.ctle = n.ctle ∧ m.vga = n.vga then s
  else modJob s (.lane sd p) fun j => match j.prog with
    | .eye h g r t => { j with prog := .eye h (g ||| 2) r t }
    | _ => j

/-- One step of one setting (R128 to R130, R155, R262). New CTLE and VGA targets of a changed EQ entry are reached before the
loops adapt (R166). DESIGN CHOICE (log entry 85): a hold bit does not keep the code from them. -/
def trimStep (s : State) (sd : Side) (p : Pos) (t : TrimStep) : State :=
  let e := eqAt s.last.working sd p
  match t with
  | .ctle up => moveEq s sd p fun n => match n.ctleGoal with
      | some g => if n.ctleForce then n else
          let c := toward n.ctle g
          { n with ctle := c, ctleGoal := if c = g then none else some g }
      | none => if ctleAdapts s sd p then { n with ctle := nudge n.ctle up e.ctleMin e.ctleMax } else n
  | .vga up => moveEq s sd p fun n => match n.vgaGoal with
      | some g =>
        let c := toward n.vga g
        { n with vga := c, vgaGoal := if c = g then none else some g }
      | none => if vgaAdapts s sd p then { n with vga := nudge n.vga up 0 31 } else n
  | .dfe k up =>
    if dfeAdapts s sd p then
      modEq s sd p fun n => { n with dfe := vmod n.dfe k fun x => nudgeSigned x up e.dfeLimit }
    else s
  | .ofsD up => moveTrim s sd p true fun n => { n with ofsD := trimSigned (n.homeRx.map (·.ofsD)) n.ofsD up }
  | .ofsE up => moveTrim s sd p true fun n => { n with ofsE := trimSigned (n.homeRx.map (·.ofsE)) n.ofsE up }
  | .ofsO up => moveTrim s sd p true fun n => { n with ofsO := trimSigned (n.homeRx.map (·.ofsO)) n.ofsO up }
  | .rxterm up => moveTrim s sd p true fun n => { n with rxTerm := trimCode (n.homeRx.map (·.term)) n.rxTerm up 0 31 }
  | .txterm up => moveTrim s sd p false fun n => { n with txTerm := trimCode (n.homeTx.map (·.term)) n.txTerm up 0 31 }
  | .txgain up => moveTrim s sd p false fun n => { n with txGain := trimCode (n.homeTx.map (·.gain)) n.txGain up 0 63 }
  | .pre => if rampFrozen s sd p then s else modTx s sd p fun n => { n with preAct := toward n.preAct n.pre }
  | .post => if rampFrozen s sd p then s else modTx s sd p fun n => { n with postAct := toward n.postAct n.post }
  | .swing => modTx s sd p swingStep
  | .ctleSet =>
    moveEq s sd p fun n => if n.ctleForce then { n with ctle := toward n.ctle (ctleTarget e n.ctleSet) } else n

/-- R262: one step of one setting of Table 9-4. -/
def execTrimRampStep (sd : Side) (p : Pos) (t : TrimStep) (s : State) : Host.Outcome State Fault Refusal :=
  done (if rxPowered s sd p then trimStep s sd p t else s)

/-! ### Snapshots (R162, R163) -/

/-- R162. -/
def execLnsnapTake (c : Ctx) (sd : Side) (p : Pos) (v : Word) (s : State) : Host.Outcome State Fault Refusal :=
  done (writeTo s c (.lnsnap sd p) (setBit v 0 true))

/-- R163. -/
def execLnsnapRelease (c : Ctx) (sd : Side) (p : Pos) (v : Word) (s : State) : Host.Outcome State Fault Refusal :=
  done (writeTo s c (.lnsnap sd p) (setBit v 1 true))

/-- R163: 100 ms after it was taken; OWNER keeps the last owner. -/
def execSnapshotExpiry (sd : Side) (p : Pos) (s : State) : Host.Outcome State Fault Refusal :=
  done (modSnap s sd p fun n => { n with held := false })

/-! ### PLLs (R164, Table 17-2) -/

/-- PLL_LOSS of PLL q: its unlock bit, the safety source and the event. -/
def pllUnlocked (s : State) (q : PllNo) : State :=
  let s := { s with
    power := { s.power with unlock := vput s.power.unlock q true }
    evt := { s.evt with pllLoss := true } }
  logEvent s 0x0C04 0 [BitVec.ofNat 8 q.val]

/-- R164, R193, R469: a side PLL that was in lock, and that a family and the links keep powered (R146, Table 7-6). -/
def execSidePllLoss (q : SidePll) (s : State) : Host.Outcome State Fault Refusal :=
  if s.boot.inReset || s.dev.standby || s.last.working.pllfam[q] == .off || s.power.unlock[q.castSucc] || pllDown s q then
    done s
  else done (pllLost (pllUnlocked s q.castSucc) q)

/-- R469: the core PLL's loss stands the device aside; DTIME free-runs. -/
def execCorePllLoss (s : State) : Host.Outcome State Fault Refusal :=
  if s.boot.inReset || s.dev.standby || s.power.unlock[4] then done s
  else
    let s := pllUnlocked s 4
    done (settle { s with dev := { s.dev with aside := true } })

/-- Table 17-2: a relock attempt; on success the PLL is in lock again, with its VCO band chosen anew, and the Transparent lanes that it clocks are restored
where nothing else is missing (R198). -/
def execPllRelockAttempt (q : PllNo) (ok : Bool) (s : State) : Host.Outcome State Fault Refusal :=
  if !ok || !s.power.unlock[q] then done s
  else
    let s := { s with power := { s.power with unlock := vput s.power.unlock q false } }
    let s := if h : q.val < 4 then lockPlls s [⟨q.val, h⟩] else s
    done (allLanes.foldl (fun t n => restoreTransparent t n.1 n.2) s)

/-! ### Signal detect (R187, R188) -/

/-- Eight DISABLE sets have been forwarded from a side (R188). -/
def disabledFrom (k : Link) : Side → Bool
  | .A => k.disA
  | .B => k.disB

/-- Idle on logical lane 0 of a link: it ends LOOPBACK on the looped side, and disables a link whose partner has asked for it
on that side; in RETRAIN the rate is to be detected again (Table 6-5). -/
def laneZeroIdle (s : State) (l : LinkNo) (sd : Side) : State :=
  let k := getLink s l
  if k.st == .loopback then (if k.lpbkSide == sd then enterDetect s l 0 else s)
  else if disabledFrom k sd && k.st != .disabled && k.st != .notTraining then
    enterDisabled (modLink s l fun x => { x with partnerDis := true }) l
  else if k.st == .retrain then modLink s l fun x => { x with rateOld := !isLoopTimed s l }
  else s

/-- R187, R188: electrical idle for at least 1 µs. -/
def execElectricalIdleDetected (sd : Side) (p : Pos) (s : State) : Host.Outcome State Fault Refusal :=
  if !detectsSignal s sd p then done s
  else
    let s := modRx s sd p fun n => { n with sigDet := false }
    done <| match feeds s sd p with
      | some (l, k) => if k.val = 0 && isPart s l then laneZeroIdle s l sd else s
      | none => s

/-- R188: signal on logical lane 0 ends DISABLED where the partner disabled the link and LNKCTL.DISABLE is 0. -/
def execSignalDetected (sd : Side) (p : Pos) (s : State) : Host.Outcome State Fault Refusal :=
  if !detectsSignal s sd p then done s
  else
    let s := modRx s sd p fun n => { n with sigDet := true }
    done <| match feeds s sd p with
      | some (l, k) =>
        let x := getLink s l
        if k.val = 0 && x.st == .disabled && !x.disable && x.partnerDis then enterDetect s l 0 else s
      | none => s

end Sys2Proof.Machine
end

