-- ==== Sys2Proof/Machine/LaneJobs.lean ====
section
/-! DEFINITION. The commands of the lane service engines: EYESCAN and PRBS Jobs (13). -/

namespace Sys2Proof.Machine

/-! ### EYESCAN (R236, R377) -/

/-- The points of a map, and those of one row. -/
def mapPoints (e : QEntry) : Nat := e.u8 7 * e.u8 9
def mapVa (e : QEntry) : Nat := e.u32 0x0C

/-- The counts of a row: each capped at 0xFFFE (R236). -/
def rowBytes (row : List Word) : List Byte := row.flatMap fun c => bytesLE 2 (min c.toNat 0xFFFE)

/-- The header of a map that ends: MFL, T_END and DONE_PTS in their places (Table 8-3). -/
def mapEnd (head : List Byte) (mfl : BitVec 3) (last : BitVec 64) (pts : Nat) : List Byte :=
  head.take 0x0B ++ [mfl.setWidth 8] ++ bytesAt head 0x0C 4 ++ bytesLE 4 last.toNat ++ bytesAt head 0x14 4 ++
    bytesLE 4 pts ++ zeros 4

/-- The Job ends: OK, or EYE_INCOMPLETE with the points measured. -/
def endScan (s : State) (u : UnitId) (j : Job) (mfl : BitVec 3) : State :=
  if mfl.getLsbD 2 then finishWith s u j 0x51 j.done else finishWith s u j stOk 0

/-- The header is written, and the Job ends. -/
def closeScan (s : State) (u : UnitId) (j : Job) : State :=
  match j.prog with
  | .eye head mfl _ last =>
    match putData s u j (mapVa j.entry) (mapEnd head mfl last j.done) false with
    | (some j, s) => endScan s u j mfl
    | (none, s) => s
  | _ => s

/-- After data of the map has been written: the header where nothing more is measured, or the next row waits. -/
def scanGoesOn (s : State) (u : UnitId) (j : Job) (mfl : BitVec 3) : State :=
  if mfl.getLsbD 2 || mapPoints j.entry ≤ j.done then closeScan s u j else keepJob s u j

/-- Data held since a fault is written (Table 14-3): the header ends the Job. -/
def writeHeldScan (s : State) (u : UnitId) (j : Job) (mfl : BitVec 3) (va : Nat) (data : List Byte) : State :=
  match putData s u j va data false with
  | (some j, s) => if va < mapVa j.entry + 32 then endScan s u j mfl else scanGoesOn s u j mfl
  | (none, s) => s

/-- MFL, with EQ_MOVED where CTLE or VGA stand elsewhere than as the scan began. -/
def withMoved (s : State) (sd : Side) (p : Pos) (head : List Byte) (mfl : BitVec 3) : BitVec 3 :=
  let n := (getLane s sd p).eq
  if head.getD 9 0 != n.ctle.setWidth 8 || head.getD 10 0 != n.vga.setWidth 8 then mfl ||| 2 else mfl

/-- The next counts of an EYESCAN: a row is written once it is whole. Nothing is measured without CDR_LOCK, on a tap (R228), nor
while training sweeps have the sampler (R249). -/
def scanRow (s : State) (sd : Side) (p : Pos) (j : Job) (counts : List Word) : State :=
  let u : UnitId := .lane sd p
  match j.prog with
  | .eye head mfl row _ =>
    match j.hold with
    | some (va, data) => writeHeldScan s u j mfl va data
    | none =>
      if !(getLane s sd p).rx.cdrLock || isTap s p || trainsSweep s sd p then s
      else
        let mfl := withMoved s sd p head mfl
        let k := j.entry.u8 7
        let most := scanBits (j.entry.u8 5)
        let row := (row ++ counts.map fun c => if c.toNat ≤ most then c else BitVec.ofNat 32 most).take k
        let t := s.time.dtime
        if row.length < k then keepJob s u { j with prog := .eye head mfl row t }
        else
          let va := mapVa j.entry + 32 + 2 * j.done
          let j := { j with done := j.done + k, prog := .eye head mfl [] t }
          match putData s u j va (rowBytes row) false with
          | (some j, s) => scanGoesOn s u j mfl
          | (none, s) => s
  | _ => s

/-- R236, R377: points have been measured, or held data is written. -/
def execEyescan (sd : Side) (p : Pos) (row : List Word) (s : State) : Host.Outcome State Fault Refusal :=
  match runningJob s (.lane sd p) opEyescan with
  | some j => done (scanRow s sd p j row)
  | none => done s

/-- R377: CDR_LOCK has not returned: the row in hand as far as it goes, or the one that is held since a fault, 0xFFFF for every
point not measured, then the header. With every point measured the Job has nothing left to wait for. -/
def scanTimeout (s : State) (sd : Side) (p : Pos) (j : Job) : State :=
  let u : UnitId := .lane sd p
  match j.prog with
  | .eye head mfl row last =>
    let more := withMoved s sd p head mfl ||| 5
    let at' := mapVa j.entry + 32 + 2 * j.done
    let left := mapPoints j.entry - j.done - row.length
    let blank : List Byte := List.replicate (2 * left) 0xFF
    match j.hold with
    | some (va, data) =>
      if left = 0 then writeHeldScan s u j mfl va data
      else
        let j := { j with prog := .eye head more [] last }
        writeHeldScan s u j more va (data ++ blank)
    | none =>
      let j := { j with done := j.done + row.length, prog := .eye head more [] last }
      match putData s u j at' (rowBytes row ++ blank) false with
      | (some j, s) => closeScan s u j
      | (none, s) => s
  | _ => s

/-- R377. -/
def execEyescanLockTimeout (sd : Side) (p : Pos) (s : State) : Host.Outcome State Fault Refusal :=
  match runningJob s (.lane sd p) opEyescan with
  | some j => if (getLane s sd p).rx.cdrLock then done s else done (scanTimeout s sd p j)
  | none => done s

/-! ### PRBS (R379, R380) -/

def prbsForce (e : QEntry) : Bool := (e.bytes.getD 5 0).getLsbD 4

/-- The reason for which a PRBS Job may not start (R379); 0 for none. -/
def prbsJobRefusal (s : State) (sd : Side) (p : Pos) (e : QEntry) : BitVec 3 :=
  let m := (getLane s sd p).meas
  let loop := prbsLoop e
  let holds := (prbsGen e && loop != 2) || loop == 1 || loop == 3
  let hold := if holds then holdRefusal s sd p (prbsForce e) else if loop == 2 && closedAt s p then whyClosed else 0
  if hold != 0 then hold
  else if (prbsGen e && m.genEn) || (prbsChk e && m.chkEn) || (loop != 0 && m.loopMode != 0) ||
      warmPrbs s sd p then whyBusy
  else 0

/-- Steps 1 and 2 of R380. -/
def prbsSetUp (s : State) (sd : Side) (p : Pos) (j : Job) : State :=
  let e := j.entry
  let why := prbsJobRefusal s sd p e
  if why != 0 then finishWith s (.lane sd p) j 0x50 why.toNat
  else
    let loop := prbsLoop e
    let pat := e.bytes.getD 6 0
    let j := { j with prog := .prbs (s.time.elapsed, s.time.dtime) none false 0 0 none }
    let held := heldByTest s sd p
    let s := keepJob s (.lane sd p) j
    let s := modMeas (if prbsGen e then seedGen s sd p else s) sd p fun m =>
      let m := if prbsChk e then setSource m true else m
      let user := if pat.extractLsb' 0 3 = 5 then BitVec.ofNat 20 (e.u32 0x0C) else m.user
      let m := { m with
        partHeld := true, pattern := pat.extractLsb' 0 3, invert := pat.getLsbD 3, user := user
        genEn := m.genEn || prbsGen e }
      if loop != 0 then { m with loopMode := loop, loopActive := true, loopForce := prbsForce e } else m
    let s := if loop == 1 || loop == 3 then silenceLoop s sd p else s
    if heldByTest s sd p && !held then holdStarts s sd p else s

/-- R379, R380. -/
def execPrbsJob (sd : Side) (p : Pos) (s : State) : Host.Outcome State Fault Refusal :=
  match runningJob s (.lane sd p) opPrbs with
  | some j => if j.prog = .plain then done (prbsSetUp s sd p j) else done s
  | none => done s

/-- Step 3 of R380: one more error, from the first lock on, while the generator runs. -/
def injectOne (s : State) (sd : Side) (p : Pos) (j : Job) : State :=
  match j.prog with
  | .prbs start (some t) lost losses n ended =>
    if n < j.entry.u16 0x14 && prbsGen j.entry && j.hold.isNone then
      modMeas (keepJob s (.lane sd p) { j with prog := .prbs start (some t) lost losses (n + 1) ended }) sd p fun m =>
        { m with inject := true }
    else s
  | _ => s

/-- R380. -/
def execPrbsJobInject (sd : Side) (p : Pos) (s : State) : Host.Outcome State Fault Refusal :=
  match runningJob s (.lane sd p) opPrbs with
  | some j => done (injectOne s sd p j)
  | none => done s

/-- The status and RESULT of a PRBS Job whose result is written (R380). -/
def prbsStatus (e : QEntry) (locked ended : Option Nat) : Byte × Nat :=
  if prbsChk e && locked.isNone then (0x52, 0)
  else match ended with
    | some ms => (0x53, ms)
    | none => (stOk, 0)

/-- The result that is held is written, and the Job ends. -/
def writePrbs (s : State) (sd : Side) (p : Pos) : State :=
  match runningJob s (.lane sd p) opPrbs with
  | none => s
  | some j =>
    match j.prog, j.hold with
    | .prbs _ locked _ _ _ ended, some (va, data) =>
      match putData s (.lane sd p) j va data false with
      | (some j, s) =>
        let r := prbsStatus j.entry locked ended
        finishWith s (.lane sd p) j r.1 r.2
      | (none, s) => s
    | _, _ => s

/-- Step 4 of R380: DURATION is over, or the part has ended the test; a result held since a fault is written. -/
def execPrbsJobDurationEnd (sd : Side) (p : Pos) (s : State) : Host.Outcome State Fault Refusal :=
  match runningJob s (.lane sd p) opPrbs with
  | some _ => done (writePrbs (coolIdle (stopPrbs s sd p false) p) sd p)
  | none => done s

end Sys2Proof.Machine
end

