-- ==== Sys2Proof/Machine/Last.lean ====
section
/-! DEFINITION. The commands that stage, commit and discard a Last, and those of a commit in progress (04, 10). -/

namespace Sys2Proof.Machine

/-- R384: the next block of the LAST_STAGE Job on Mover m; after the last one the image is checked and compared. -/
def execLastStage (m : MoverNo) (e : List Upset) (s : State) : Host.Outcome State Fault Refusal :=
  done (runBlock (upset s e) m opLastStage)

/-- R105, R106, R108. -/
def execCommit (c : Ctx) (v : Word) (s : State) : Host.Outcome State Fault Refusal :=
  done (writeTo s c .lastcmd (setBit v 0 true))

/-- R107. -/
def execDiscard (c : Ctx) (v : Word) (s : State) : Host.Outcome State Fault Refusal :=
  done (writeTo s c .lastcmd (setBit v 2 true))

/-- R109: the reference boundary of a link whose class H switch is pending. -/
def execLinkSwitchInstant (l : LinkNo) (s : State) : Host.Outcome State Fault Refusal :=
  done (if (getLink s l).pend == .hitless then setResult (switchLink s l) l resApplied else s)

/-- R109: no skip set in 20 µs. -/
def execSkipAbsent (l : LinkNo) (s : State) : Host.Outcome State Fault Refusal :=
  done (if (getLink s l).pend == .hitless then setResult (switchLink (logK s 0x0202 l []) l) l resApplied else s)

/-- R112, R186, R199: the 4 µs of electrical idle end; after a DOWN action a Participating link goes to DETECT. -/
def execIdlePeriodEnd (l : LinkNo) (s : State) : Host.Outcome State Fault Refusal :=
  let k := getLink s l
  if !k.idleOut then done s
  else
    let s := modLink s l fun k => { k with idleOut := false, idleDown := false }
    done (if k.idleDown && isPart s l && k.join == .joined then enterDetect s l 0 else s)

/-- R113. -/
def execCommitRollback (l : LinkNo) (s : State) : Host.Outcome State Fault Refusal := done (rollback s l)

/-! ### Pad sets (R120, R297) -/

/-- R297. Pad sets pass where the direction's symbols are forwarded, on a management lane that is locked (R168) and whose
stream is not fill (R194). -/
def execPadSetPasses (l : LinkNo) (d : Dir) (s : State) : Host.Outcome State Fault Refusal :=
  match mgmtRx s l d with
  | none => done s
  | some p =>
    if !isPart s l || !symShown s d.rxSide p then done s
    else
      let s := linkSymbol s l d.rxSide
      done (if dirForwards s l d && !mgmtLost s l d.rxSide then fillPad s l d p else s)

/-- R120: 1 ms without a pad set. -/
def execEpochUnsent (l : LinkNo) (d : Dir) (s : State) : Host.Outcome State Fault Refusal :=
  done (if markDue (getLink s l) d then logK (clearMark s l d) 0x0203 l [d.num] else s)

end Sys2Proof.Machine
end

