-- ==== Sys2Proof/Machine/Measure.lean ====
section
/-! DEFINITION. The commands of measurement (08): generators and checkers, counters, eye scan and eye figure,
loopbacks. -/

namespace Sys2Proof.Machine

/-! ### Generators and checkers (R229 to R232) -/

/-- R229, R242: LNPRBS written, GEN_EN as the write has it. -/
def execPrbsGenEnable (c : Ctx) (sd : Side) (p : Pos) (v : Word) (s : State) : Host.Outcome State Fault Refusal :=
  done (writeTo s c (.lnprbs sd p) v)

/-- R226, R227, R232: LNPRBS written, CHK_EN as the write has it. -/
def execPrbsChkEnable (c : Ctx) (sd : Side) (p : Pos) (v : Word) (s : State) : Host.Outcome State Fault Refusal :=
  done (writeTo s c (.lnprbs sd p) v)

/-- R230: LNPRBS written with INJECT. -/
def execPrbsInject (c : Ctx) (sd : Side) (p : Pos) (v : Word) (s : State) : Host.Outcome State Fault Refusal :=
  done (writeTo s c (.lnprbs sd p) (setBit v 7 true))

/-- The checker of a position works: LNPRBS has it on, or warm traffic by PRBS uses it (R205). -/
def checkerOn (s : State) (sd : Side) (p : Pos) : Bool := (getLane s sd p).meas.chkEn || warmPrbs s sd p

/-- The PRBS Job of the position has it changed by f. -/
def modPrbsJob (s : State) (sd : Side) (p : Pos)
    (f : Nat × BitVec 64 → Option Nat → Bool → Nat → Nat → Option Nat → Prog) : State :=
  modJob s (.lane sd p) fun j => match j.prog with
    | .prbs a b c d e g => { j with prog := f a b c d e g }
    | _ => j

/-- The checker's figures for the pattern that it expects: LNPRBS's, or warm traffic's where LNPRBS leaves it off. -/
def LaneMeas.expects (m : LaneMeas) : LaneMeas := if m.chkEn then m else m.asWarm

/-- R231: 256 consecutive bits match. A Job notes its first lock (R380). -/
def execPrbsCheckerLock (sd : Side) (p : Pos) (s : State) : Host.Outcome State Fault Refusal :=
  let m := (getLane s sd p).meas
  if !rxPowered s sd p || !checkerOn s sd p || !m.expects.mayLock then done s
  else
    let now := s.time.elapsed
    let s := modMeas s sd p fun m => { m with chkLock := true }
    done (modPrbsJob s sd p fun a b c d e g => .prbs a (b.or (some now)) c d e g)

/-- R231: 64 or more of 1,024 bits mismatch; the checker seeds again. -/
def execPrbsLockLost (sd : Side) (p : Pos) (s : State) : Host.Outcome State Fault Refusal :=
  let m := (getLane s sd p).meas
  if !m.chkLock || m.winMiss < 64 then done s
  else
    let s := modMeas s sd p fun m => { m.reseed with lockLost := true }
    let s := modPrbsJob s sd p fun a b _ d e g => .prbs a b true (d + 1) e g
    done (logL s 0x0501 sd p [])

/-- R227: LNSYMCNT_HI written with CLR. -/
def execCounterClr (c : Ctx) (sd : Side) (p : Pos) (v : Word) (s : State) : Host.Outcome State Fault Refusal :=
  done (writeTo s c (.lnsymcntHi sd p) (setBit v 31 true))

/-! ### Scan points (R235) -/

/-- R235: LNSCAN written with START. -/
def execLnscanStart (c : Ctx) (sd : Side) (p : Pos) (v : Word) (s : State) : Host.Outcome State Fault Refusal :=
  done (writeTo s c (.lnscan sd p) (setBit v 17 true))

/-- R234, R235: the point of LNSCAN ends with n mismatches, of the bits that DWELL had it compare at START. One that training sweeps
have taken the sampler from is measured again (R249). -/
def execScanPointDone (sd : Side) (p : Pos) (n : Word) (s : State) : Host.Outcome State Fault Refusal :=
  if trainsSweep s sd p then done s
  else done (modMeas s sd p fun m =>
    if m.scanBusy then
      { m with scanCnt := BitVec.ofNat 32 (min n.toNat (scanBits m.ptDwell.toNat)), scanBusy := false, scanDone := true }
    else m)

/-! ### The eye figure (R237 to R240) -/

/-- A figure at least a threshold and a margin, where the threshold is enabled. -/
def overLimit (t : ThreshRec) (n margin : Nat) : Bool := !t.enable || decide (t.value + margin ≤ n)

/-- R240: the alarm at a VALID update; the event where it is first set. -/
def eyeAlarm (s : State) (sd : Side) (p : Pos) : State :=
  let m := (getLane s sd p).meas
  let tw := s.last.working.thresh[(3 : Fin 7)]
  let th := s.last.working.thresh[(4 : Fin 7)]
  let w := m.eyeW.toNat
  let h := m.eyeH.toNat
  if belowThresh tw w || belowThresh th h then
    if m.alarm then s
    else
      let s := modMeas s sd p fun m => { m with alarm := true }
      logL s 0x0502 sd p (bytesLE 4 (lneyeWord (getLane s sd p).meas).toNat)
  else if overLimit tw w 2 && overLimit th h 6 then modMeas s sd p fun m => { m with alarm := false }
  else s

/-- How many of the points outward from the middle are open, one after the other: each with at most a number of mismatches. -/
def openRun (most : Nat) (l : List Nat) : Nat := (l.takeWhile (· ≤ most)).length

/-- WIDTH and HEIGHT of a sweep (R237): the outermost open points of the runs that hold the middle. -/
def sweepFigure (w : SweepRow) (h : SweepColumn) (most : Nat) : BitVec 6 × BitVec 9 :=
  if most < w.origin then (0, 0)
  else
    (BitVec.ofNat 6 (openRun most (w.right.take 31) + openRun most (w.left.take 32)),
      BitVec.ofNat 9 (3 * (openRun most (h.up.take 63) + openRun most (h.down.take 64))))

/-- The receiver can have a figure: powered, no tap, with CDR_LOCK. -/
def sweeps (s : State) (sd : Side) (p : Pos) : Bool := rxPowered s sd p && !isTap s p && (getLane s sd p).rx.cdrLock

/-- R237: a background sweep ends, open points with at most 1 mismatch; the figure, the alarm, and the check of a recalibration
that waits for it (R267). -/
def execEyeSweepEnd (sd : Side) (p : Pos) (w : SweepRow) (h : SweepColumn) (s : State) : Host.Outcome State Fault Refusal :=
  if !sweeps s sd p || (getLane s sd p).meas.scanBusy || scanJobHolds s sd p || trainsSweep s sd p then done s
  else
    let x := sweepFigure w h 1
    let s := modMeas s sd p fun m => { m with eyeW := x.1, eyeH := x.2, conf := 2, lastEye := some x }
    done (qualityCheck (eyeAlarm s sd p) sd p x.1 x.2)

/-- R239: the training sweep that an ACK has started ends, open points with no mismatch. -/
def execTrainingSweepEnd (sd : Side) (p : Pos) (w : SweepRow) (h : SweepColumn) (s : State) : Host.Outcome State Fault Refusal :=
  let x := sweepFigure w h 0
  done (if sweeps s sd p && trainsSweep s sd p && (getLane s sd p).search.acked then
    modMeas s sd p fun m => { m with eyeW := x.1, eyeH := x.2, conf := 1 } else s)

/-! ### Loopbacks (R244 to R246) -/

/-- R244: LNLOOP written with MODE near-end serial. -/
def execLoopNearSerial (c : Ctx) (sd : Side) (p : Pos) (v : Word) (s : State) : Host.Outcome State Fault Refusal :=
  done (writeTo s c (.lnloop sd p) (setFld v 0 (1 : BitVec 2)))

/-- R245: LNLOOP written with MODE near-end parallel. -/
def execLoopNearParallel (c : Ctx) (sd : Side) (p : Pos) (v : Word) (s : State) : Host.Outcome State Fault Refusal :=
  done (writeTo s c (.lnloop sd p) (setFld v 0 (2 : BitVec 2)))

/-- R246: LNLOOP written with MODE far-end. -/
def execLoopFarEnd (c : Ctx) (sd : Side) (p : Pos) (v : Word) (s : State) : Host.Outcome State Fault Refusal :=
  done (writeTo s c (.lnloop sd p) (setFld v 0 (3 : BitVec 2)))

/-- R248: LNLOOP written with MODE none. -/
def execLoopOff (c : Ctx) (sd : Side) (p : Pos) (v : Word) (s : State) : Host.Outcome State Fault Refusal :=
  done (writeTo s c (.lnloop sd p) (setFld v 0 (0 : BitVec 2)))

end Sys2Proof.Machine
end

