-- ==== Sys2Proof/Machine/NvmCmds.lean ====
section
/-! DEFINITION. The commands of the NVM (13, 15): its Jobs, its erases, the log, the read window. -/

namespace Sys2Proof.Machine

/-- The engine serves its Job: no erase of the log has it (R436). -/
def engineServes (s : State) : Bool := s.nvm.logErase.isNone || s.nvm.suspended

/-! ### NVM_READ (R381) -/

/-- The read result of a Job: erased units, the first of them, corrected bits, zero. -/
def readResult (erased : Nat) (first : Option Nat) (fixed : Nat) : List Byte :=
  bytesLE 4 erased ++ bytesLE 4 (first.getD 0xFFFFFFFF) ++ bytesLE 4 fixed ++ zeros 4

/-- An NVM_READ ends: OK, or NVM_UE with the unit that could not be corrected. -/
def endRead (s : State) (j : Job) (bad : Option Nat) : State :=
  match bad with
  | some off => finishWith s .nvm j 0x4A off
  | none => finishWith s .nvm j stOk 0

/-- All data is written: the read result where it is asked for, then the end. -/
def closeRead (s : State) (j : Job) : State :=
  match j.prog with
  | .nvmRead erased first fixed bad _ =>
    if j.entry.u8 0x10 / 2 % 2 = 0 then endRead s j bad
    else match putData s .nvm j (j.entry.u32 0x14) (readResult erased first fixed) false with
      | (some j, s) => endRead s j bad
      | (none, s) => s
  | _ => s

/-- The data of a block written, as it is ready (R324); the last closes the Job. -/
def putBlock (s : State) (j : Job) (va : Nat) (data : List Byte) : State :=
  match putData s .nvm j va data true with
  | (some j, s) => if j.entry.u32 8 ≤ j.done then closeRead s j else keepJob s .nvm j
  | (none, s) => s

/-- A unit read joins the block in hand: the 256 bytes of the transfer in which it lies, written once they are whole. -/
def joinBlock (s : State) (j : Job) (erased : Nat) (first : Option Nat) (fixed : Nat) (block : List Byte) : State :=
  let at' := j.done + block.length
  if at' % 256 = 0 ∨ j.entry.u32 8 ≤ at' then
    putBlock s { j with prog := .nvmRead erased first fixed none [] } (j.entry.u32 0x0C + j.done) block
  else keepJob s .nvm { j with prog := .nvmRead erased first fixed none block }

/-- A unit that cannot be corrected ends the Job, once the units read before it have been written. -/
def stopAtBad (s : State) (j : Job) (erased : Nat) (first : Option Nat) (fixed : Nat) (block : List Byte) (off : Nat) : State :=
  let j := { j with prog := .nvmRead erased first fixed none [] }
  let close := fun (t : State) (j : Job) => closeRead t { j with prog := .nvmRead erased first fixed (some off) [] }
  if block.isEmpty then close s j
  else match putData s .nvm j (j.entry.u32 0x0C + j.done) block true with
    | (some j, s) => close s j
    | (none, s) => s

/-- What is left of an NVM_READ: held data, a held read result, or the next unit. -/
def nvmReadStep (s : State) (j : Job) : State :=
  let prog := match j.prog with
    | .nvmRead a b c d e => (a, b, c, d, e)
    | _ => (0, none, 0, none, [])
  let (erased, first, fixed, bad, block) := prog
  let j := { j with prog := .nvmRead erased first fixed bad block }
  match j.hold with
  | some (va, data) =>
    if bad.isSome || j.entry.u32 8 ≤ j.done then
      match putData s .nvm j va data false with
      | (some j, s) => endRead s j bad
      | (none, s) => s
    else putBlock s j va data
  | none =>
    let off := j.entry.u32 4 + j.done + block.length
    let r := if j.entry.u8 0x10 % 2 = 1 then readOtp s (unitNo off) else readUnit s (unitNo off)
    let fixed := if r.2.1 then fixed + 1 else fixed
    match r.1 with
    | .bad => stopAtBad r.2.2 j erased first fixed block off
    | .erased => joinBlock r.2.2 j (erased + 1) (first.or (some off)) fixed (block ++ List.replicate 16 0xFF)
    | .data b => joinBlock r.2.2 j erased first fixed (block ++ b)

/-- R381: the next unit of the Job. -/
def execNvmRead (e : List Upset) (s : State) : Host.Outcome State Fault Refusal :=
  let s := upset s e
  match if engineServes s then runningJob s .nvm opNvmRead else none with
  | some j => done (nvmReadStep (ownDone s) j)
  | none => done s

/-! ### NVM_PROGRAM (R382, R426, R427) -/

/-- A unit refuses a program: it is not erased, or a bit of its code is upset; an indeterminate one as a free value says
(R426, R439). -/
def refusesProgram (s : State) (u : Nat) : Bool × State :=
  match s.nvm.cell u with
  | .erased => (tabGet .clean u s.nvm.upsets != .clean, s)
  | .data _ => (true, s)
  | .torn => (Config.tornKind s.free != 0, (useFree s).2)

/-- The first of n units that refuses a program. -/
def firstRefusing : Nat → Nat → State → Option Nat × State
  | 0, _, s => (none, s)
  | n + 1, u, s =>
    match refusesProgram s u with
    | (true, s) => (some u, s)
    | (false, s) => firstRefusing n (u + 1) s

/-- Steps 2 and 3 of R382, with the source in the engine's buffer. -/
def programChecks (s : State) (j : Job) (data : List Byte) : State :=
  let off := j.entry.u32 4
  if protectedSec s (sectorNo off) then finishWith s .nvm j 0x48 off
  else if s.nvm.dirty.contains (sectorNo off) then finishWith s .nvm j 0x49 (sectorNo off * 4096)
  else match firstRefusing (j.entry.u32 8 / 16) (unitNo off) s with
    | (some u, s) => finishWith s .nvm j 0x49 (16 * u)
    | (none, s) => keepJob s .nvm { j with prog := .nvmBuf data }

/-- Step 1 of R382 for the next 256-byte block of the source (R324), with what the buffer holds so far; then steps 2 and 3. A fault
keeps nothing (Table 14-3). -/
def programBlock (s : State) (j : Job) (data : List Byte) : State :=
  let n := j.entry.u32 8
  match jobRead s j.ctx (j.entry.u32 0x0C + data.length) (min 256 (n - data.length)) j.entry.uninit with
  | (.error (cause, va), s) => faultJob s .nvm { j with prog := .plain } cause va false
  | (.ok b, s) =>
    let data := data ++ b
    if n ≤ data.length then programChecks s j data else keepJob s .nvm { j with prog := .nvmBuf data }

/-- R382: the source read block by block, protection and erasure checked. -/
def execNvmProgram (e : List Upset) (s : State) : Host.Outcome State Fault Refusal :=
  let s := upset s e
  match if engineServes s then runningJob s .nvm opNvmProgram else none with
  | some j =>
    match j.prog with
    | .plain => done (programBlock (ownDone s) j [])
    | .nvmBuf data => if data.length < j.entry.u32 8 then done (programBlock (ownDone s) j data) else done s
    | _ => done s
  | none => done s

/-- Step 4 of R382 for one unit: data of all ones leaves it untouched; one that fails its verify is indeterminate. -/
def programUnit (s : State) (j : Job) (data : List Byte) (ok : Bool) : State :=
  let off := j.entry.u32 4 + j.done
  let cell := cellOf ((data.drop j.done).take 16)
  if !ok && cell != .erased then
    finishWith { s with nvm := s.nvm.setCell (unitNo off) .torn } .nvm j 0x4B off
  else
    let s := if cell == .erased then s else { s with nvm := s.nvm.setCell (unitNo off) cell }
    let j := { j with done := j.done + 16 }
    if j.entry.u32 8 ≤ j.done then finishWith s .nvm j stOk 0 else keepJob s .nvm j

/-- The program of the part's own that is in progress ends; one that fails its verify leaves its unit indeterminate. -/
def ownUnit (s : State) (p : OwnProg) (rest : List OwnProg) (ok : Bool) : State :=
  let s := { s with nvm := { s.nvm with own := rest } }
  if ok then s
  else match p with
    | .unit u => { s with nvm := s.nvm.setCell u .torn }
    | .head sec => { s with nvm := s.nvm.setHead sec { s.nvm.head sec with good := false } }

/-- R427: the unit in progress has been programmed and verified: one of the part's own, or the next of the Job. -/
def execNvmUnitProgrammed (ok : Bool) (s : State) : Host.Outcome State Fault Refusal :=
  match s.nvm.own with
  | p :: rest => done (ownUnit s p rest ok)
  | [] =>
    match runningJob s .nvm opNvmProgram with
    | some j =>
      match j.prog with
      | .nvmBuf data => if data.length < j.entry.u32 8 then done s else done (programUnit s j data ok)
      | _ => done s
    | none => done s

/-! ### NVM_ERASE (R383, R402, R428 to R430) -/

/-- A sector that an erase may not touch: protected, or retired. -/
def eraseBarred (s : State) (sec : Nat) : Bool := protectedSec s sec || (s.nvm.head sec).retired

/-- The check of every named sector, then the first one's erase. -/
def eraseSetUp (s : State) (j : Job) : State :=
  let sec := j.entry.u16 4
  match ((List.range (j.entry.u16 6)).map (sec + ·)).find? (eraseBarred s) with
  | some x => finishWith s .nvm j 0x48 x
  | none => keepJob (beginErase s sec) .nvm { j with prog := .nvmErase true 0 }

/-- R383: protection checked, the first sector begun. -/
def execNvmErase (s : State) : Host.Outcome State Fault Refusal :=
  match if s.nvm.logErase.isNone then runningJob s .nvm opNvmErase else none with
  | some j => if j.prog = .plain then done (eraseSetUp (ownDone s) j) else done s
  | none => done s

/-- The sector of the running erase is done: the log's, or the Job's with the next one begun. -/
def sectorDone (s : State) (ok : Bool) : State :=
  match s.nvm.logErase with
  | some sec => tendLog (endErase { s with nvm := { s.nvm with logErase := none } } sec ok)
  | none =>
    match runningJob s .nvm opNvmErase with
    | none => s
    | some j =>
      match j.prog with
      | .nvmErase true n =>
        let sec := j.entry.u16 4 + j.done
        let s := endErase s sec ok
        if !ok then finishWith s .nvm { j with prog := .nvmErase false n } 0x4B sec
        else
          let j := { j with done := j.done + 1 }
          if j.entry.u16 6 ≤ j.done then finishWith s .nvm { j with prog := .nvmErase false n } stOk 0
          else keepJob (beginErase s (sec + 1)) .nvm j
      | _ => s

/-- R429, R430. -/
def execNvmSectorErased (ok : Bool) (s : State) : Host.Outcome State Fault Refusal :=
  if s.nvm.suspended then done s else done (sectorDone (ownDone s) ok)

/-- An URGENT NVM_READ or NVM_PROGRAM waits for the engine. -/
def urgentNvmDue (s : State) : Bool :=
  match urgentCandidate s .nvm with
  | some (.slot k) => s.slots[k].job.any fun j => j.entry.opcode != opNvmErase
  | some (.member i t) =>
    if h : i < 32 then (getWq t ⟨i, h⟩).waiting.head?.any fun e => e.opcode != opNvmErase else false
  | none => false

def setSuspended (s : State) (on : Bool) : State := { s with nvm := { s.nvm with suspended := on } }

/-- The running erase is suspended for an URGENT Job: a Job's at most 16 times (R402, R428). -/
def suspendForJob (s : State) : State :=
  if s.nvm.logErase.isSome then (if urgentNvmDue s then setSuspended s true else s)
  else
    match runningJob s .nvm opNvmErase with
    | none => s
    | some j =>
      match j.prog with
      | .nvmErase true n =>
        if j.urgent || 16 ≤ n || !urgentNvmDue s then s
        else
          let s := { s with nvm := { s.nvm with suspended := true, forJob := true } }
          keepJob s .nvm { j with prog := .nvmErase true (n + 1) }
      | _ => s

/-- R428: the erase that runs is suspended; an Awl command has stopped its erase itself. -/
def execEraseSuspend (w : SuspendFor) (s : State) : Host.Outcome State Fault Refusal :=
  if !eraseRuns s || s.nvm.suspended then done s
  else
    match w with
    | .urgentJob => done (suspendForJob (ownDone s))
    | .windowRead | .logWrite => done (setSuspended (ownDone s) true)
    | .awl => done s

/-- The work that a suspension serves is done: an erase is under way, and no URGENT Job has its engine. One that the Awl has
suspended is under way no more (R428). -/
def mayResume (s : State) : Bool :=
  eraseRuns s && s.units.held.isNone && s.units.nvm.all fun j => j.entry.opcode == opNvmErase

/-- R428. -/
def execEraseResume (s : State) : Host.Outcome State Fault Refusal :=
  done (if s.nvm.suspended && mayResume s then
    { s with nvm := { s.nvm with suspended := false, forJob := false, own := [] } } else s)

/-! ### The window, the log, the counter (R424, R425, R435, R436, R442) -/

/-- R424, R425: a word of the NVM read window. -/
def execNvmWindowRead (c : Ctx) (off : BitVec 20) (e : List Upset) (s : State) : Host.Outcome State Fault Refusal :=
  done (busRead (upset s e) c (0x04000000 + off.setWidth 32))

/-- The program of a record fails its verify at one of its units: the slot is skipped (R433). -/
def logTorn (s : State) (r : EvRec) : State :=
  let n := s.nvm
  let u := logUnit n
  let b := (EvRec.mk n.logSeq r.code r.ctx r.dtime (padTo 12 r.data)).bytes
  let n := if Config.tearsFirst s.free then n.setCell u .torn else (n.setCell u (cellOf (b.take 16))).setCell (u + 1) .torn
  let s : State := { (useFree s).2 with nvm := { n with logSlot := n.logSlot + 1 } }
  if 128 ≤ s.nvm.logSlot then rotateLog s else s

/-- The record that has waited longest is written, with a token, or dropped without one; where its program fails it waits on
(R433, R435). -/
def logOne (s : State) (r : EvRec) (rest : List EvRec) (ok : Bool) : State :=
  if s.nvm.tokens = 0 then { s with nvm := { s.nvm with logWait := rest, dropped := satInc s.nvm.dropped } }
  else if ok then
    writeLog { s with nvm := { s.nvm with logWait := rest, tokens := s.nvm.tokens - 1 } } r.code r.ctx r.dtime r.data
  else logTorn s r

/-- The slots of the current sector that the log fills by itself: while the next sector is still to be erased the last ones are
kept for the wear records of the erases until then (log entry 87). -/
def logRoom (n : NvmSt) : Nat := if n.eraseDue then 92 else if n.logErase.isSome then 126 else 128

/-- The log uses the engine: an erase that is due begins, a dirty sector is marked, or the record that has waited longest is
written (R434 to R436). -/
def logWork (s : State) (ok : Bool) : State :=
  if s.nvm.eraseDue && engineIdle s then tendLog s
  else if logRoom s.nvm ≤ s.nvm.logSlot then s
  else if !s.nvm.marks.isEmpty then writeMarks 1 s
  else match s.nvm.logWait with
    | r :: rest => tendLog (logOne s r rest ok)
    | [] => s

/-- R434 to R436. -/
def execNvmLogWrite (ok : Bool) (s : State) : Host.Outcome State Fault Refusal :=
  if s.boot.inReset || s.dev.standby || !logMayWrite s then done s else done (logWork (ownDone s) ok)

/-- R435: one token per second, up to 128. -/
def execLogTokenTick (s : State) : Host.Outcome State Fault Refusal :=
  done (if s.boot.inReset || s.dev.standby then s else { s with nvm := { s.nvm with tokens := min 128 (s.nvm.tokens + 1) } })

/-- R442: NVMCTL written with CE_CLR. -/
def execNvmctlCeClr (c : Ctx) (v : Word) (s : State) : Host.Outcome State Fault Refusal :=
  done (writeTo s c .nvmctl (setBit v 9 true))

end Sys2Proof.Machine
end

