-- ==== Sys2Proof/Machine/Power.lean ====
section
/-! DEFINITION. The commands of the rails, the balls, the Welt and the thermal comparators (01, 02, 17). -/

namespace Sys2Proof.Machine

/-- The place of a rail in FAULTSRC.RAIL. -/
def railIx : Rail → Fin 8
  | .vdd => 0
  | .vdda => 1
  | .vtxa => 2
  | .vtxb => 3
  | .vddpll => 4
  | .vio => 5
  | .vnvm => 6
  | .vddsw => 7

def modPower (s : State) (f : Power → Power) : State := { s with power := f s.power }
def modPins (s : State) (f : Pins → Pins) : State := { s with pins := f s.pins }

/-- R39, R40: a source goes bad. What the other causes of Table 2-1 rest on is state that their own commands change; R40
is then carried out on what has a cause. -/
def execWeltCauseArises (c : WeltCause) (s : State) : Host.Outcome State Fault Refusal :=
  done <| match c with
    | .vddsw => settle (modPower s fun p => { p with pumpReady := false })
    | .reset => enterReset (modPins s fun p => { p with resetN := false })
    | .bypN => settle (modPins s fun p => { p with bypN := false })
    | .devAside | .thermal | .testEn | .standby | .unnamed | .bypassMode | .linkAside | .notJoined => settle s

/-- R41: a source is good again; TEST_EN low ends nothing before a reset (R28), RESET_N high awaits RESET_RELEASE. -/
def execWeltCauseClears (c : WeltCause) (s : State) : Host.Outcome State Fault Refusal :=
  done <| match c with
    | .vddsw => settle (modPower s fun p => { p with pumpReady := p.valid[7] })
    | .reset => modPins s fun p => { p with resetN := true }
    | .bypN => settle (modPins s fun p => { p with bypN := true })
    | .testEn => modPins s fun p => { p with testEn := false }
    | .devAside | .thermal | .standby | .unnamed | .bypassMode | .linkAside | .notJoined => settle s

/-- R41. -/
def execWeltOpenConfirmed (p : Pos) (s : State) : Host.Outcome State Fault Refusal := done (openConfirmed s p)

/-- R42: the pump becomes ready while VDDSW is valid. -/
def execChargePumpReady (s : State) : Host.Outcome State Fault Refusal :=
  done (settle (modPower s fun p => { p with pumpReady := p.valid[7] }))

/-- R46, R32: VIO starts at the 1.8 V level each time it becomes valid. -/
def execRailValid (r : Rail) (s : State) : Host.Outcome State Fault Refusal :=
  done (settle (modPower s fun p =>
    { p with valid := vput p.valid (railIx r) true, vio33 := p.vio33 && (r != .vio || p.valid[5]) }))

/-- A rail is out of its range (R468, R469): out of reset it is detected, once until it has been back in its range. In
reset FAULTSRC.RAIL alone shows it. DESIGN CHOICE (log entry 56): a rail that is out of its range already when reset is
released is not detected by the release; the next SUPPLY_OUT_OF_WINDOW detects it. -/
def railOutside (s : State) (r : Rail) : State :=
  let s := modPower s fun p => { p with outside := vput p.outside (railIx r) true }
  if s.boot.inReset || s.power.told[railIx r] then s
  else
    let s := modPower s fun p => { p with told := vput p.told (railIx r) true }
    let s := { s with evt := { s.evt with supply := true } }
    logEvent s 0x0C06 0 [railBits s]

/-- R47: VDDSW closes the Welt alone, and is out of its range (Table 17-4); any other rail means power-on reset; with VIO
the TAP loses its instruction. -/
def execRailInvalid (r : Rail) (s : State) : Host.Outcome State Fault Refusal :=
  let s := modPower s fun p => { p with valid := vput p.valid (railIx r) false, outside := vput p.outside (railIx r) true }
  done <| match r with
    | .vddsw => settle (modPower (railOutside s .vddsw) fun p => { p with pumpReady := false })
    | .vio => { enterReset (modPower s fun p => { p with vio33 := false }) with jtag := Reset.jtag }
    | .vdd | .vdda | .vtxa | .vtxb | .vddpll | .vnvm => enterReset s

/-- R47, R469, R512: a rail outside its range is reported; nothing else happens. -/
def execSupplyOutOfWindow (r : Rail) (s : State) : Host.Outcome State Fault Refusal := done (railOutside s r)

/-- R469, Table 17-7: the rail is in its range again. -/
def execSupplyInWindow (r : Rail) (s : State) : Host.Outcome State Fault Refusal :=
  done (modPower s fun p =>
    { p with outside := vput p.outside (railIx r) false, told := vput p.told (railIx r) false })

/-- R32. -/
def execVioSplitThreshold (s : State) : Host.Outcome State Fault Refusal :=
  done (modPower s fun p => { p with vio33 := p.vio33 || p.valid[5] })

/-- R511: a low pulse on RESET_N that is acted on. -/
def execResetNPulse (s : State) : Host.Outcome State Fault Refusal :=
  done (enterReset (modPins s fun p => { p with resetN := true }))

/-- R511: a low pulse on BYP_N that is acted on; its cause stays until WELT_CAUSE_CLEARS. -/
def execBypNPulse (s : State) : Host.Outcome State Fault Refusal :=
  done (settle (modPins s fun p => { p with bypN := false }))

/-- R25: reset ends while every rail that power-on reset watches is valid. -/
def execResetRelease (st : Straps) (s : State) : Host.Outcome State Fault Refusal :=
  done (if s.boot.inReset && railsValid s then settle (releaseReset s st) else s)

/-- R28: TEST_EN high at any time after reset release; the two-wire target answers nothing from then on, a transaction
in progress among it. -/
def execTestEnHigh (s : State) : Host.Outcome State Fault Refusal :=
  let s := modPins s fun p => { p with testEn := true }
  done (if s.boot.inReset then s
    else settle { s with boot := { s.boot with testMode := true }, twb := { s.twb with reading := none, ack := false } })

/-! ### Thermal comparators (R61, R471) -/

/-- The thresholds 115, 120, 125 and 135 °C in 1/8 °C. -/
def thermLimits : Vector Int 4 := #v[920, 960, 1000, 1080]

/-- TJ: the highest of the four sensors. -/
def hottest (t : Temps) : BitVec 16 :=
  let top := fun a b : BitVec 16 => if a.toInt < b.toInt then b else a
  top (top t.t0 t.t1) (top t.t2 t.t3)

/-- A threshold is held crossed where two samples in a row lie on one side of it. -/
def heldAbove (was : Bool) (last : Option (BitVec 16)) (now : BitVec 16) (limit : Int) : Bool :=
  let up := decide (limit ≤ now.toInt)
  match last with
  | none => was
  | some x => if decide (limit ≤ x.toInt) = up then up else was

/-- One sample taken. -/
def thermalHold (t : Thermal) (tj : BitVec 16) : Thermal :=
  { t with
    last := some tj
    samples := min 2 (t.samples + 1)
    above := Vector.ofFn fun i => heldAbove t.above[i] t.last tj thermLimits[i] }

/-- The warning raised: THERM_WARN, and the links that ASIDE_ON_WARN stands aside (R80). -/
def raiseWarn (s : State) (tj : BitVec 16) : State :=
  let s := logEvent { s with therm := { s.therm with warn := true } } 0x0B03 0 (bytesLE 2 tj.toNat)
  settle (allLinks.foldl (fun t l => if t.last.working.welt[l].asideWarn then partAside t l 3 else t) s)

/-- Thermal shutdown entered. -/
def enterShutdown (s : State) (tj : BitVec 16) : State :=
  settle (logEvent { s with therm := { s.therm with shutdown := true } } 0x0C05 0 (bytesLE 2 tj.toNat))

/-- R471. -/
def execThermalSample (t : Temps) (s : State) : Host.Outcome State Fault Refusal :=
  if s.boot.inReset then done s
  else
    let tj := hottest t
    let was := s.therm.above
    let s := { s with therm := thermalHold s.therm tj }
    let now := s.therm.above
    let s := if now[1] && !was[1] && !s.therm.warn then raiseWarn s tj else s
    let s := if !now[0] && was[0] then { s with therm := { s.therm with warn := false } } else s
    done (if now[3] && !was[3] && !s.therm.shutdown then enterShutdown s tj else s)

/-! ### Safety reactions (R469, R470) -/

/-- One second in units of 50 ps. -/
def secondUnits : Nat := 20000000000

/-- R470: the Heel is restarted; a second trip within one second leaves it without its patch. -/
def execHeelWatchdogTrip (s : State) : Host.Outcome State Fault Refusal :=
  if s.boot.inReset || s.dev.standby then done s
  else
    let h := s.heel
    let again := match h.lastTrip with
      | some t => decide (s.time.elapsed - t < secondUnits)
      | none => false
    let s := { s with
      heel := { h with
        trips := satInc h.trips, lastTrip := some s.time.elapsed, noPatch := h.noPatch || again, restartDue := true }
      evt := { s.evt with heelWdog := true } }
    done (logEvent s 0x0C07 0 [s.heel.trips])

/-- R469: the sensed state of a position differs from the commanded one. Stuck closed stands its link aside, stuck open
holds its transmitters off. A mismatch that persists is not detected again (R468). -/
def execWeltMismatch (p : Pos) (stuckOpen : Bool) (s : State) : Host.Outcome State Fault Refusal :=
  if s.boot.inReset || s.welt.mismatch[p] || s.welt.cmdOpen[p] == stuckOpen then done s
  else
    let s := { s with
      welt := { s.welt with
        mismatch := vput s.welt.mismatch p true, closed := vput s.welt.closed p (!stuckOpen)
        held := vput s.welt.held p (stuckOpen || s.welt.held[p]) }
      evt := { s.evt with weltBad := true } }
    let s := logEvent s 0x0C03 0 [BitVec.ofNat 8 p.val, if stuckOpen then 2 else 1]
    done (if stuckOpen then s else (linksAt s.last.working p).foldl (fun t l => writeAside t l true) s)

end Sys2Proof.Machine
end

