-- ==== Sys2Proof/Machine/Queues.lean ====
section
/-! DEFINITION. The commands of the queues (12): their registers, prefetch, header, scheduling, completions; NOP and FENCE
(13); pre-emption and resumption (14). -/

namespace Sys2Proof.Machine

/-! ### Work queue registers -/

/-- R338: WQCTL written with ENABLE = 1. -/
def execWqEnable (c : Ctx) (q : WqNo) (v : Word) (s : State) : Host.Outcome State Fault Refusal :=
  done (writeTo s c (.wqctl q) (setBit v 0 true))

/-- R339: WQCTL written with ENABLE = 0. -/
def execWqDisable (c : Ctx) (q : WqNo) (v : Word) (s : State) : Host.Outcome State Fault Refusal :=
  done (writeTo s c (.wqctl q) (setBit v 0 false))

/-- R339: WQCTL written with RESET = 1. -/
def execWqReset (c : Ctx) (q : WqNo) (v : Word) (s : State) : Host.Outcome State Fault Refusal :=
  done (writeTo s c (.wqctl q) (setBit v 1 true))

/-- R340, R342: WQDB written. -/
def execWqDoorbell (c : Ctx) (q : WqNo) (v : Word) (s : State) : Host.Outcome State Fault Refusal :=
  done (writeTo s c (.wqdb q) v)

/-- R407: WQCTL written with RESUME = 1. -/
def execWqResume (c : Ctx) (q : WqNo) (v : Word) (s : State) : Host.Outcome State Fault Refusal :=
  done (writeTo s c (.wqctl q) (setBit v 8 true))

/-! ### Prefetch (R343, R344, R347 to R349, R362) -/

/-- Slots that the part holds of a queue: read, not started. -/
def heldSlots (w : Wq) : Nat := w.waiting.foldl (fun n e => n + e.bytes.length / 16) 0

/-- Slots of the ring read one by one; the error names the first that could not be read. -/
def readSlots (c : Ctx) (w : Wq) : Nat → Nat → State → Except (Cause × Nat × Nat) (List Byte) × State
  | 0, _, s => (.ok [], s)
  | n + 1, i, s =>
    let va := w.ringVa + 16 * (i % 2 ^ w.sizeLog2)
    match jobRead s c va 16 false with
    | (.error (cause, _), s) => (.error (cause, i, va), s)
    | (.ok b, s) =>
      match readSlots c w n (i + 1) s with
      | (.error f, s) => (.error f, s)
      | (.ok r, s) => (.ok (b ++ r), s)

/-- A ring read that fails (R362); TAG is the entry's where its first slot has been read (R353). -/
def ringFault (s : State) (q : WqNo) (tag : Nat) (cause : Cause) (i va : Nat) : State :=
  let s := wqError (latchJob s (wqCtx s q) cause false va) q 3 (BitVec.ofNat 16 i) cause
  queueErrorRecord s q tag stRingFault 0 cause.toNat

/-- A malformed entry at the head (R349). -/
def malformedEntry (s : State) (q : WqNo) (tag : Nat) (sub : BitVec 3) : State :=
  queueErrorRecord (wqError s q 1 (getWq s q).head sub) q tag stMalformed 1 sub.toNat

/-- The head moves past n slots (R344). -/
def advanceHead (s : State) (q : WqNo) (n : Nat) : State :=
  modWq s q fun w => { w with head := w.head + BitVec.ofNat 16 n, hdrDue := true }

/-- The slots that LEN of word 0 gives. -/
def slotsOf (w0 : Nat) : Nat := if w0 / 256 % 16 = 0 then 16 else w0 / 256 % 16

/-- A whole entry that Table 12-4 has found nothing wrong with so far: its reserved bits, its operands; then it is consumed. -/
def consume (s : State) (q : WqNo) (bytes : List Byte) : State :=
  let w := getWq s q
  let e : QEntry := ⟨w.head, bytes, (leAt bytes 0 4).testBit 15 || w.cfg.allowUninit, 0, s.sched.order⟩
  if !reservedClear bytes then malformedEntry s q e.tag 4
  else if !operandsOk s.last.working e then malformedEntry s q e.tag 5
  else
    let s := modWq s q fun w =>
      let r := joinBatch w e
      { r.2 with waiting := r.2.waiting ++ [r.1] }
    noteFence (advanceHead { s with sched := { s.sched with order := s.sched.order + 1 } } q (bytes.length / 16)) q

/-- The next entry of a queue's ring read, checked in the order of Table 12-4, and consumed. -/
def prefetch (s : State) (q : WqNo) : State :=
  let w := getWq s q
  let avail := (w.tail - w.head).toNat
  if w.code != .active || avail = 0 || 32 ≤ heldSlots w then s
  else
    let i := w.head.toNat
    let left := 2 ^ w.sizeLog2 - i % 2 ^ w.sizeLog2
    match readSlots (wqCtx s q) w 1 i s with
    | (.error (cause, i, va), s) => ringFault s q 0 cause i va
    | (.ok b, s) =>
      let w0 := leAt b 0 4
      let tag := leAt b 2 2
      let n := slotsOf w0
      if w0 % 256 = 0xFF then
        if avail < left then malformedEntry s q tag 3
        else if w0 ≠ 0xFF then malformedEntry s q tag 4
        else advanceHead s q left
      else if (opLen (w0 % 256)).isNone then malformedEntry s q tag 1
      else if left < n then malformedEntry s q tag 2
      else if avail < n then malformedEntry s q tag 3
      else if 32 < heldSlots w + n then s
      else
        match readSlots (wqCtx s q) w (n - 1) (i + 1) s with
        | (.error (cause, i, va), s) => ringFault s q tag cause i va
        | (.ok r, s) => consume s q (b ++ r)

/-- R343, R344, R347 to R349, R362. -/
def execEntryPrefetch (q : WqNo) (e : List Upset) (s : State) : Host.Outcome State Fault Refusal :=
  done (prefetch (upset s e) q)

/-! ### The header (R336, R363) -/

/-- Header bytes 0x08 to 0x0F. -/
def headerBytes (w : Wq) : List Byte :=
  bytesLE 2 w.head.toNat ++ bytesLE 2 w.tail.toNat ++ [w.code.num.setWidth 8, 0, 0, 0]

/-- A header write that fails (R363). -/
def headerFault (s : State) (q : WqNo) (cause : Cause) (va : Nat) : State :=
  let s := latchJob s (wqCtx s q) cause true va
  let w := getWq s q
  let s := if w.code == .active then wqError s q 4 w.head cause
    else if w.cause == 0 then modWq s q fun w => { w with cause := 4, errIdx := w.head, sub := cause }
    else s
  let s := modWq s q fun w => { w with hdrDue := false, hdrOff := true }
  queueErrorRecord s q 0 stHdrFault 0 cause.toNat

/-- R336, R344, R363. -/
def execHeaderWrite (q : WqNo) (s : State) : Host.Outcome State Fault Refusal :=
  let w := getWq s q
  if !w.hdrDue || w.hdrOff then done s
  else
    match jobWrite s (wqCtx s q) (w.hdr.toNat * 64 + 8) (headerBytes w) with
    | (some (cause, va), _, s) => done (headerFault s q cause va)
    | (none, _, s) => done (modWq s q fun w => { w with hdrDue := false })

/-! ### Scheduling (R350 to R352, R402, R403) -/

/-- An erase that is suspended gives up the engine to an URGENT NVM_READ or NVM_PROGRAM (R402): the log's, or that of a NORMAL Job,
which has given it up fewer than 16 times. The suspension that was made for an URGENT Job has been counted. -/
def lendEngine (s : State) : Option State :=
  match s.units.nvm with
  | none => if s.nvm.logErase.isSome && s.nvm.suspended then some s else none
  | some j => match j.prog with
    | .nvmErase true n =>
      if !s.nvm.suspended || s.units.held.isSome || j.urgent || j.result.isSome || (!s.nvm.forJob && 16 ≤ n) then none
      else
        let j := if s.nvm.forJob then j else { j with prog := .nvmErase true (n + 1) }
        some { s with units := { s.units with held := some j, nvm := none }, nvm := { s.nvm with forJob := false } }
    | _ => none

/-- What an URGENT candidate would run on the engine: an erase does not interrupt one. -/
def erases (s : State) : Candidate → Bool
  | .slot k => s.slots[k].job.any fun j => j.entry.opcode == opNvmErase
  | .member i t => if h : i < 32 then (getWq t ⟨i, h⟩).waiting.head?.any fun e => e.opcode == opNvmErase else false

/-- A free unit takes its next candidate in the order of R403. -/
def serve (s : State) (u : UnitReq) (heel : Bool) (unit : UnitId) : State :=
  match (urgentCandidate s u).or (normalCandidate s u heel) with
  | some c => runCandidate s unit c
  | none => s

/-- The NVM engine accepts a Job: free, it takes its next candidate, but for an erase of the log that is due (R434, R436);
with an erase suspended, an URGENT Job that is none (R402). -/
def startNvm (s : State) : State :=
  if s.units.nvm.isNone && s.nvm.logErase.isNone then
    if s.nvm.eraseDue then tendLog s else serve s .nvm false .nvm
  else match urgentCandidate s .nvm with
    | none => s
    | some c =>
      if erases s c then s
      else match c with
        | .slot k => match lendEngine s with
          | some t => runCandidate t .nvm (.slot k)
          | none => s
        | .member i t => match lendEngine t with
          | some t => runCandidate t .nvm (.member i t)
          | none => s

/-- A unit of a kind accepts a Job, if one waits. -/
def startJob (s : State) (u : UnitReq) (heel : Bool) : State :=
  if u = .mover then
    match freeMover s with
    | some m => serve s u heel (.mover m)
    | none => s
  else if u = .nvm then startNvm (ownDone s)
  else if (getUnit s (UnitReq.unit u)).isNone then serve s u false (UnitReq.unit u)
  else s

/-- R352, R369, R403: the Heel's background Job is a candidate where it has one. -/
def execJobStart (u : UnitReq) (heel : Bool) (s : State) : Host.Outcome State Fault Refusal := done (startJob s u heel)

/-! ### Pre-emption (R398 to R401, R410) -/

/-- A Job pre-empted into a Slot: its record carries no fault (R397). -/
def parkPreempted (s : State) (k : SlotNo) (m : MoverNo) (j : Job) : State :=
  takeSlot s k .preempted (.mover m) j (faultRecord s j (some k) 0 0 false false)

/-- The URGENT Job that is due takes the Mover, the oldest where more are (R403, Table 14-7). -/
def startUrgent (s : State) (m : MoverNo) : State :=
  match slotFor s .mover true with
  | some k => runCandidate s (.mover m) (.slot k)
  | none => match oldestUrgent s .mover with
    | some r => runCandidate s (.mover m) (.member r.1 r.2)
    | none => s

/-- The victim's flush and save, then the URGENT Job's start. -/
def preempt (s : State) (m : MoverNo) (j : Job) : State :=
  match j.wq, freeSlots s with
  | none, _ => startUrgent (setUnit s (.mover m) none) m
  | some _, k :: _ :: _ =>
    match moverBlock s j with
    | (.ran j, s) => startUrgent (parkPreempted (setUnit s (.mover m) none) k m j) m
    | (.faulted j cause va write, s) =>
      startUrgent (parkIn (setUnit s (.mover m) none) (some k) (.mover m) j cause va write true) m
  | some _, _ => s

/-- R399 to R401, R410. -/
def execPreemptFlushDone (m : MoverNo) (e : List Upset) (s : State) : Host.Outcome State Fault Refusal :=
  let s := upset s e
  if (freeMover s).isSome || (urgentCandidate s .mover).isNone || victim s != some m then done s
  else
    match getUnit s (.mover m) with
    | some j => done (preempt s m j)
    | none => done s

/-! ### Ends (R337, R351, R355, R356) -/

/-- R351: a Job that has finished leaves its unit; the Heel's ends when it ends. -/
def execJobEnd (u : UnitId) (s : State) : Host.Outcome State Fault Refusal :=
  match getUnit s u with
  | some j => if j.wq.isNone || j.result.isSome then done (retireJob (if u = .nvm then ownDone s else s) u j)
    else done s
  | none => done s

/-- R356, R358: the oldest record that is due. -/
def execCompletionWrite (q : CqNo) (s : State) : Host.Outcome State Fault Refusal :=
  if (getCq s q).code == .active then done (flushDue 1 s q) else done s

/-- R337: no Job of a DRAINING queue is left. -/
def execDrainComplete (q : WqNo) (s : State) : Host.Outcome State Fault Refusal := done (drainEnd s q)

/-! ### Completion queue registers -/

/-- R358, R360: CQCTL written with ENABLE = 1. -/
def execCqEnable (c : Ctx) (q : CqNo) (v : Word) (s : State) : Host.Outcome State Fault Refusal :=
  done (writeTo s c (.cqctl q) (setBit v 0 true))

/-- R360: CQCTL written with ENABLE = 0. -/
def execCqDisable (c : Ctx) (q : CqNo) (v : Word) (s : State) : Host.Outcome State Fault Refusal :=
  done (writeTo s c (.cqctl q) (setBit v 0 false))

/-- R359: CQHEAD written. -/
def execCqheadWrite (c : Ctx) (q : CqNo) (v : Word) (s : State) : Host.Outcome State Fault Refusal :=
  done (writeTo s c (.cqhead q) v)

/-! ### NOP and FENCE (R371, R372) -/

/-- The queue's next entry, if it is of an opcode that needs no unit and may start. -/
def nextPlain (s : State) (q : WqNo) (op : Nat) : Option QEntry := (readyEntry s q none).filter fun e => e.opcode == op

/-- R371. -/
def execNop (q : WqNo) (s : State) : Host.Outcome State Fault Refusal :=
  match nextPlain s q opNop with
  | some e => done (endEntry (noteFence (modWq s q fun w => { w with waiting := w.waiting.drop 1 }) q) q e stOk 0)
  | none => done s

/-- The queue's next entry is a FENCE, and starts; SCOPE 0x01 waits for the set that it took as it became next (R372). -/
def beginFence (s : State) (q : WqNo) : State :=
  match nextPlain s q opFence with
  | some e =>
    let waits := if e.u8 4 = 1 then ((getWq s q).fenceDue.map (·.2)).getD [] else []
    let s := modWq s q fun w =>
      { w with waiting := w.waiting.drop 1, fence := some ⟨e, s.sched.nextUid, waits⟩, fenceDue := none }
    noteFence { s with sched := { s.sched with nextUid := s.sched.nextUid + 1 } } q
  | none => s

/-- A FENCE that has started ends once what it waits for has ended. -/
def endFence (s : State) (q : WqNo) : State :=
  match (getWq s q).fence with
  | none => s
  | some f =>
    let live := (ownedWith s q).flatMap (startedOf s)
    if (jobsOf s q).isEmpty && f.waits.all (fun n => !live.contains n) then
      endEntry (modWq s q fun w => { w with fence := none }) q f.entry stOk 0
    else s

/-- R372. -/
def execFence (q : WqNo) (s : State) : Host.Outcome State Fault Refusal := done (endFence (beginFence s q) q)

end Sys2Proof.Machine
end

