-- ==== Sys2Proof/Machine/Spare.lean ====
section
/-! DEFINITION. The commands of sleep, sparing and loss timers (07). -/

namespace Sys2Proof.Machine

/-! ### Sleep and DEEP (R219 to R222) -/

/-- R185, R221. -/
def execIdleEntrySetReceived (l : LinkNo) (d : Dir) (s : State) : Host.Outcome State Fault Refusal :=
  done (if isPart s l && setsSeen s l d then idleEntry s l d else s)

/-- Signal on logical lane 0 of a side wakes the link. -/
def wakesOn (k : Link) (sd : Side) : Bool :=
  k.waking.isNone && (match k.st with
    | .sleepAB => sd == .A
    | .sleepBA => sd == .B
    | .deep => true
    | _ => false)

/-- R221: the wake starts; side PLLs that DEEP had powered down lock anew. -/
def execSleepWake (l : LinkNo) (sd : Side) (s : State) : Host.Outcome State Fault Refusal :=
  if !wakesOn (getLink s l) sd then done s
  else
    let deep := (getLink s l).st == .deep
    let s := match laneRx s l sd.rxDir 0 with
      | some p => modRx s sd p fun n => { n with sigDet := true }
      | none => s
    let down := (List.finRange 4).filter (pllDown s)
    let s := modLink s l fun k => { k with waking := some sd, deepWake := deep, deepFirst := false }
    done (lockPlls s (down.filter fun q => !pllDown s q))

/-- R221: the wake is not complete in time. -/
def execWakeFail (l : LinkNo) (s : State) : Host.Outcome State Fault Refusal :=
  let k := getLink s l
  if k.waking.isNone || k.retrainAsked then done s else done (requestRetrain (logK s 0x040C l []) l)

/-- R221: the second idle entry of a DEEP entry has not come within 1 ms. -/
def execDeepEntryTimeout (l : LinkNo) (s : State) : Host.Outcome State Fault Refusal :=
  let k := getLink s l
  if !k.deepFirst then done s
  else
    let s := modLink s l fun k => { k with deepFirst := false }
    done (if k.capLink.getLsbD 1 then s else requestRetrain s l)

/-- A MOS of the link may have been seen: on one of its sides the management lane has SYM_LOCK (R168). -/
def mosSeen (s : State) (l : LinkNo) : Bool := bothSides.any (mgmtSym s l)

/-- R219: LP_GRANT forwarded or received. -/
def execLpGrantSeen (l : LinkNo) (st : LpState) (s : State) : Host.Outcome State Fault Refusal :=
  done (if mosSeen s l then grantSeen s l st else s)

/-- The byte that names a low-power state (R219). -/
def lpByte : LpState → Byte
  | .sleepAB => 1
  | .sleepBA => 2
  | .deep => 3

/-- The partners that an LP_REQ goes to: the one that transmits the direction, or both (R220). -/
def lpNodes : LpState → List (BitVec 2)
  | .sleepAB => [0]
  | .sleepBA => [3]
  | .deep => [0, 3]

/-- The part may ask for a state: its idle time is set, the channel is on, the state is in force, nothing has been asked
since the last K23.7. -/
def mayAsk (s : State) (l : LinkNo) (x : LpState) : Bool :=
  let k := getLink s l
  let r := s.last.working.power[l]
  isPart s l && imcOn k && !k.asked[lpIx x] && k.capLink.getLsbD (if x = .deep then 2 else 1) &&
    (if x = .deep then r.deepIdle != 0 else r.sleepIdle != 0)

/-- R220. -/
def execLpReqIdle (l : LinkNo) (st : LpState) (s : State) : Host.Outcome State Fault Refusal :=
  if !mayAsk s l st then done s
  else
    let s := modLink s l fun k => { k with asked := vput k.asked (lpIx st) true }
    done ((lpNodes st).foldl (fun t n => sendOwn t l n mosLpReq [lpByte st]) s)

/-! ### Loss and spares -/

/-- R203: a lane has stayed lost for 50 ms. -/
def execUnrecoveredTimeout (l : LinkNo) (d : Dir) (k : LLane) (s : State) : Host.Outcome State Fault Refusal :=
  done (if isLost s l d k then setUnrecovered s l 1 else s)

/-- The receiver of a spare counts as locked: SYM_LOCK, or its checker's lock where the warm traffic is PRBS (R205). -/
def spareLocked (s : State) (l : LinkNo) (n : SpareNo) (d : Dir) : Bool :=
  match (linkRec s l).bind fun r => spareRx s.last.working r d n with
  | none => false
  | some p =>
    let x := getLane s d.rxSide p
    if recIs s l (·.sparePol == .warmPrbs) then x.meas.chkLock else x.rx.symLock

/-- A direction of a link sleeps: the states of its spares are kept (R222). -/
def asleep (st : TrainState) (d : Dir) : Bool := st == .deep || st == sleepState d

/-- R204, R222: a spare's receiver has held lock, or has been without it, for 1 ms. -/
def execSpareLockTimer (l : LinkNo) (n : SpareNo) (d : Dir) (locked : Bool) (s : State) : Host.Outcome State Fault Refusal :=
  let c := (getSpare s l n d).code
  done <|
    if asleep (getLink s l).st d then s
    else if locked then
      if (c = .cold ∨ c = .failed) ∧ restCode s l = .warm ∧ spareLocked s l n d ∧ !spareHeld s l n then
        setSpare s l n d (spareAs .warm 0)
      else s
    else if c = .warm ∧ !spareLocked s l n d then setSpare s l n d (spareAs .failed 0)
    else s

/-- R209, R210: a SPARE_RSP for the part; one that answers no swap of its own steps BAD (Table 10-5). -/
def execSpareRspReceived (l : LinkNo) (sd : Side) (r : SpareMsg) (s : State) : Host.Outcome State Fault Refusal :=
  done <|
    if !mgmtSym s l sd then s
    else match takeSpareRsp s l sd r with
    | some t => t
    | none => if consumes s l then badMos s sd else s

/-- R208. -/
def execSpareMosForwarded (l : LinkNo) (r : SpareMsg) (s : State) : Host.Outcome State Fault Refusal :=
  done (if consumes s l && mosSeen s l then passSpare s l r else s)

/-- R210: no SPARE_RSP within 100 µs. -/
def execSwapTimeout (l : LinkNo) (s : State) : Host.Outcome State Fault Refusal :=
  done <| match (getLink s l).swap with
    | some w => if w.asking then followStandin (failSwap s l w 5 false) else s
    | none => s

/-- The swap's own SPARE is due again where it has no answer. -/
def retrySwap (s : State) (l : LinkNo) : State :=
  match (getLink s l).swap with
  | some w => if w.asking && decide (w.sends < 3) then resendSpare s l w else s
  | none => s

/-- R298: no SPARE_RSP within 30 µs; at most twice. DESIGN CHOICE (log entry 94): the command names no SPARE; while the RELEASE of
a swap that has been given up may still be repeated, it is that one. -/
def execSpareRetry (l : LinkNo) (s : State) : Host.Outcome State Fault Refusal :=
  done <| match (getLink s l).release.filter fun r => r.2 < 3 with
    | some (m, n) => resendRelease s l m n
    | none => retrySwap s l

/-! ### Predictive swaps (R214, R215) -/

/-- One second's evaluation of a lane's figures: the run of low ones, and whether it decides a swap. -/
def predictLane (th : Vector ThreshRec 7) (m : LaneMeas) : Bool × LaneMeas :=
  if m.conf ≠ 2 then (false, { m with lowRun := 0 })
  else
    let low := belowThresh th[0] m.eyeW.toNat || belowThresh th[1] m.eyeH.toNat
    let m := { m with lowRun := if low then min 3 (m.lowRun + 1) else 0 }
    let rate := !m.chkEn && th[2].enable && decide (th[2].value < 10 * m.heelErr)
    (3 ≤ m.lowRun || rate, m)

/-- The window of 10¹¹ symbols starts anew where it has ended. -/
def nextWindow (m : LaneMeas) : LaneMeas := if 100000000000 ≤ m.heelSym then { m with heelErr := 0, heelSym := 0 } else m

/-- The evaluation of one trained lane. -/
def predictOne (s : State) (l : LinkNo) (d : Dir) (k : LLane) : State :=
  match laneRx s l d k with
  | none => s
  | some p =>
    let sd := d.rxSide
    let r := predictLane s.last.working.thresh (getLane s sd p).meas
    let s := modMeas s sd p fun _ => r.2
    if !r.1 then modMeas s sd p nextWindow
    else match if plannedOk s l && takenFrom s l d k == none && !isLost s l d k then spareIn s l d .warm else none with
      | none => s
      | some n =>
        let s := modMeas s sd p fun m => { nextWindow m with lowRun := 0 }
        beginSwap s l d k n 0 false

/-- R215: the Heel's evaluation, once per second. -/
def execPredictiveEvaluation (s : State) : Host.Outcome State Fault Refusal :=
  if !s.boot.done || s.dev.standby || !s.last.working.heel.predictEn then done s
  else done (allLinks.foldl (fun t l =>
    if !(isPart t l && recIs t l (·.predict)) then t
    else bothDirs.foldl (fun u d => (trainedLanes u l).foldl (fun v k => predictOne v l d k) u) t) s)

/-- R218: OP SWAP. -/
def execLnkspcmdSwap (c : Ctx) (l : LinkNo) (v : Word) (s : State) : Host.Outcome State Fault Refusal :=
  done (writeTo s c (.lnkspcmd l) (setFld v 0 (1 : BitVec 2)))

/-- R218: OP BACK. -/
def execLnkspcmdBack (c : Ctx) (l : LinkNo) (v : Word) (s : State) : Host.Outcome State Fault Refusal :=
  done (writeTo s c (.lnkspcmd l) (setFld v 0 (2 : BitVec 2)))

/-- R201: LNKLOSS written with UNCAP. -/
def execLnklossUncap (c : Ctx) (l : LinkNo) (v : Word) (s : State) : Host.Outcome State Fault Refusal :=
  done (writeTo s c (.lnkloss l) (setBit v 13 true))

end Sys2Proof.Machine
end

