-- ==== Sys2Proof/Machine/StoreCmds.lean ====
section
/-! DEFINITION. The commands of the Store and its Windows (11). -/

namespace Sys2Proof.Machine

/-- The register address at which a context reaches a virtual address (R317). -/
def virtualAt (a : BitVec 24) : Word := 0x02000000 + a.setWidth 32

/-- R307 to R313, R317: a register-path read through the context's Window. -/
def execStoreRead (c : Ctx) (a : BitVec 24) (e : List Upset) (s : State) : Host.Outcome State Fault Refusal :=
  done (busRead (upset s e) c (virtualAt a))

/-- R307, R314, R317: a register-path write through the context's Window. -/
def execStoreWrite (c : Ctx) (a : BitVec 24) (v : Word) (e : List Upset) (s : State) : Host.Outcome State Fault Refusal :=
  done (busWrite (upset s e) c (virtualAt a) v)

/-- R319 to R321: a Window entry written. -/
def execWindowEntryWrite (c : Ctx) (t : WinCtx) (pg : BitVec 12) (v : Word) (s : State) :
    Host.Outcome State Fault Refusal :=
  done (writeTo s c (.winentry t pg.toFin) v)

/-- R325: the context's WINCTL written with SYNC. -/
def execWinctlSync (c : Ctx) (v : Word) (s : State) : Host.Outcome State Fault Refusal :=
  done (writeTo s c (.winctl c) (setBit v 0 true))

/-- R325: every access translated before the SYNC has completed. -/
def execSyncBarrierDone (c : Ctx) (s : State) : Host.Outcome State Fault Refusal :=
  done (modWin s c fun w => { w with busy := false })

/-- The scrubber visits its next line (R315); after the last one the pass is counted and the next begins. -/
def visitLine (s : State) : State :=
  let s := eccRead s (64 * s.store.scrubLine.toNat) 64
  let end_ := s.store.scrubLine == 0x1FFFF
  { s with store := { s.store with
      scrubOn := true, scrubLine := s.store.scrubLine + 1
      passes := if end_ then s.store.passes + 1 else s.store.passes } }

/-- R315. -/
def execScrubLine (e : List Upset) (s : State) : Host.Outcome State Fault Refusal :=
  let s := upset s e
  if s.boot.inReset || s.dev.standby then done s else done (visitLine s)

/-- R311: an hour ends and the next begins. -/
def execCeRateHour (s : State) : Host.Outcome State Fault Refusal :=
  if s.store.hourOn then done { s with store := { s.store with hourCe := 0, hourLogged := false } } else done s

/-- R332: STORESTAT written with CE_CLR. -/
def execStoreCeClr (c : Ctx) (v : Word) (s : State) : Host.Outcome State Fault Refusal :=
  done (writeTo s c .storestat (setBit v 31 true))

end Sys2Proof.Machine
end

