-- ==== Sys2Proof/Machine/Telemetry.lean ====
section
/-! DEFINITION. The commands of telemetry and time (16), and the register accesses that no other command names (18). -/

namespace Sys2Proof.Machine

/-- R448: a timer trigger of a sequencer whose TRIG is timer. -/
def execSequencerTimerTrigger (n : SeqNo) (s : State) : Host.Outcome State Fault Refusal :=
  if s.boot.inReset || s.dev.standby || s.tm.seqrs[n].prog.trig != 0 then done s else done (trigger s n).2

/-- R444, R445, R452: an output of the decimator. -/
def execDecimatorOutput (v : BitVec 16) (s : State) : Host.Outcome State Fault Refusal := done (decimated s v)

/-- R450: a rising edge of SYNC. -/
def execSyncEdge (s : State) : Host.Outcome State Fault Refusal := done (syncSeen s)

/-- R448: TMSEQCTL written with RESTART. -/
def execTmseqctlRestart (c : Ctx) (n : SeqNo) (v : Word) (s : State) : Host.Outcome State Fault Refusal :=
  done (writeTo s c (.tmseqctl n) (setBit v 8 true))

/-- R456: SYNCCTL written with LOAD_NOW. -/
def execDtimeLoadNow (c : Ctx) (v : Word) (s : State) : Host.Outcome State Fault Refusal :=
  done (writeTo s c .syncctl (setBit v 1 true))

/-- R455: DTIME_LO read. -/
def execDtimeLoRead (c : Ctx) (s : State) : Host.Outcome State Fault Refusal := done (busRead s c (regAddr .dtimeLo))

/-- R453: DTRATE written. -/
def execDtrateWrite (c : Ctx) (v : Word) (s : State) : Host.Outcome State Fault Refusal := done (writeTo s c .dtrate v)

/-- R11, R484: a read on the register path. -/
def execRegReadClear (c : Ctx) (a : Word) (e : List Upset) (s : State) : Host.Outcome State Fault Refusal :=
  done (busRead (upset s e) c a)

/-- R484: a write on the register path. -/
def execRegWrite (c : Ctx) (a v : Word) (e : List Upset) (s : State) : Host.Outcome State Fault Refusal :=
  done (busWrite (upset s e) c a v)

end Sys2Proof.Machine
end

