-- ==== Sys2Proof/Machine/Train.lean ====
section
/-! DEFINITION. The commands of link training (06). -/

namespace Sys2Proof.Machine

/-- Consecutive logical lanes from lane 0 whose bit is set, as far as the record's width goes. -/
def runFromZero (mask : BitVec 16) (width : Nat) : Nat := ((List.range width).takeWhile fun i => mask.getLsbD i).length

/-- R178: a receiver detect in DETECT; bit k of mask tells that lane k has a far receiver. -/
def execReceiverDetect (l : LinkNo) (sd : Side) (mask : BitVec 16) (s : State) : Host.Outcome State Fault Refusal :=
  done <| match linkRec s l with
    | none => s
    | some r =>
      if (getLink s l).st != .detect then s
      else
        let n := BitVec.ofNat 5 (runFromZero mask r.width)
        modLink s l fun k => match sd with
          | .A => { k with detA := mask, detwA := n }
          | .B => { k with detB := mask, detwB := n }

/-- R168 to R185: a training set on logical lane k from a side. -/
def execTrainingSetReceived (l : LinkNo) (sd : Side) (k : LLane) (t : Tos) (s : State) : Host.Outcome State Fault Refusal :=
  done (trainingSet s l sd k t)

/-- Table 6-5: 24 ms after a rate was taken up in DETECT the other side does not match; detection begins again. -/
def execRateDiscard (l : LinkNo) (s : State) : Host.Outcome State Fault Refusal :=
  let k := getLink s l
  if k.st != .detect || isLoopTimed s l || k.rate == 0 then done s
  else done (modLink s l fun k =>
    { k with rate := 0, trainA := { k.trainA with seen := false }, trainB := { k.trainB with seen := false } })

/-- R177: a state that has a timeout ends in DETECT. -/
def execTrainTimeout (l : LinkNo) (s : State) : Host.Outcome State Fault Refusal :=
  done <| match timeoutCause s l with
    | some c => enterDetect s l c
    | none => s

/-- R181: what a search waits for, as the part finds it; the answers of the neighbour come in TOS-B too (R173). -/
def execPresetSearchStep (sd : Side) (p : Pos) (o : SearchEvent) (s : State) : Host.Outcome State Fault Refusal :=
  done (searchEvent s sd p o)

/-- R186, R192: LNKCTL written with RETRAIN. -/
def execLnkctlRetrain (c : Ctx) (l : LinkNo) (v : Word) (s : State) : Host.Outcome State Fault Refusal :=
  done (writeTo s c (.lnkctl l) (setBit v 0 true))

/-- R186: 1 ms after a retrain request no TOS-A has come. -/
def execForcedIdleRetrain (l : LinkNo) (s : State) : Host.Outcome State Fault Refusal :=
  done (if (getLink s l).retrainAsked then modLink (enterRetrain s l) l fun k => { k with idleOut := true } else s)

/-- R188: LNKCTL written, DISABLE as bit 1 of v. -/
def execLnkctlDisable (c : Ctx) (l : LinkNo) (v : Word) (s : State) : Host.Outcome State Fault Refusal :=
  done (writeTo s c (.lnkctl l) v)

/-- R192: LNKCTL written with CLR_RETRAINS. -/
def execLnkctlClrRetrains (c : Ctx) (l : LinkNo) (v : Word) (s : State) : Host.Outcome State Fault Refusal :=
  done (writeTo s c (.lnkctl l) (setBit v 3 true))

end Sys2Proof.Machine
end

