-- ==== Sys2Proof/Machine/TwoWire.lean ====
section
/-! DEFINITION. The commands of the two-wire target (10). -/

namespace Sys2Proof.Machine

def modTwb (s : State) (f : TwbSt → TwbSt) : State := { s with twb := f s.twb }

/-- The part's own target address (R26). -/
def ownTwb (s : State) : BitVec 7 := 0x58#7 ||| s.boot.addr.setWidth 7

/-- What ends with a START or a STOP (R276): a short register address, or a partial word of extra bytes. -/
def frameEnd (extra : Nat) (t : TwbSt) : TwbSt :=
  let write := t.reading == some false
  { t with
    addrShort := t.addrShort || (write && !t.loaded)
    partl := t.partl || (write && t.loaded && extra != 0 && t.bytes < 256)
    reading := none, loaded := false, bytes := 0 }

/-- The interface sleeps in Standby (R282). -/
def twbAsleep (s : State) : Bool := s.dev.standby && !s.twb.awake

/-- A bus command that needs both lines to move shows that neither is stuck any more (R283). -/
def linesMove (t : TwbSt) : TwbSt := { t with sclDown := false, sdaDown := false }

/-- An address byte with its own START (R26, R275, R281): acknowledged where the part is addressed and answers; an
interface that sleeps does not acknowledge, and wakes (R282). -/
def addressByte (s : State) (a : BitVec 7) (rd : Bool) : State :=
  let s := modTwb s fun t => linesMove (frameEnd 0 t)
  if a != ownTwb s || !served s 1 || sdaOff s then modTwb s fun t => { t with ack := false }
  else if twbAsleep s then modTwb s fun t => { t with ack := false, awake := true }
  else modTwb s fun t => { t with ack := true, reading := some rd }

/-- R26, R275. -/
def execTwbAddress (a : BitVec 7) (rd : Bool) (s : State) : Host.Outcome State Fault Refusal := done (addressByte s a rd)

/-- R282: an address byte that meets the interface asleep; one that does not changes nothing here. -/
def execTwbWake (a : BitVec 7) (s : State) : Host.Outcome State Fault Refusal :=
  done (if twbAsleep s then addressByte s a false else s)

/-- R276, R277, R482: four bytes of a write: the register address first (its bits [1:0] cleared), then words, of which the 65th is not acknowledged. -/
def execTwbWriteWord (v : Word) (e : List Upset) (s : State) : Host.Outcome State Fault Refusal :=
  let s := modTwb (upset s e) linesMove
  if s.twb.reading != some false then done s
  else if !s.twb.loaded then done (modTwb s fun t => { t with ptr := v &&& 0xFFFFFFFC, loaded := true, ack := true })
  else if 256 ≤ s.twb.bytes then done (modTwb s fun t => { t with ack := false })
  else
    let a := s.twb.ptr
    let s := modTwb s fun t => { t with ptr := t.ptr + 4, bytes := t.bytes + 4, ack := true }
    done (busWrite s 1 a v)

/-- The word at the pointer is not ready in time: its register is not read, the pointer moves on (R280). -/
def lateWord (t : TwbSt) : TwbSt :=
  { t with out := 0xFFFFFFFF, late := true, ptr := t.ptr + 4, bytes := t.bytes + 4 }

/-- The word at an address is ready without stretching: the management island holds it (R280), or answers without asking
another island. DEDUCED (log entry 57): the checks of Table 18-7 before the access are the management island's. -/
def readyAtOnce (s : State) (a : Word) : Bool :=
  let t := decodeAddr a
  !mayRead s 1 a || t == .none || islandOff s t.island || t.island == .management

/-- R277, R278, R280: the part is to send a word: the register at the pointer, or all ones past the 64th word. -/
def execTwbReadWord (e : List Upset) (s : State) : Host.Outcome State Fault Refusal :=
  let s := modTwb (upset s e) linesMove
  if s.twb.reading != some true then done s
  else if 256 ≤ s.twb.bytes then done (modTwb s fun t => { t with out := 0xFFFFFFFF, overrun := true })
  else if s.twb.stretchDis && !readyAtOnce s s.twb.ptr then done (modTwb s lateWord)
  else
    let a := s.twb.ptr
    let s := modTwb s fun t => { t with ptr := t.ptr + 4, bytes := t.bytes + 4 }
    let s := busRead s 1 a
    let w := s.acc.rdata[(1 : Ctx)]
    done (modTwb s fun t => { t with out := w })

/-- R276, R281: a START or a STOP, extra bytes after the last whole word; either ends what was going on, and after either
nobody is addressed until an address byte follows. -/
def execTwbStartStop (_k : BusEdge) (extra : Fin 4) (s : State) : Host.Outcome State Fault Refusal :=
  done (modTwb s fun t => linesMove (frameEnd extra.val t))

/-- R280: the word that is to be read is not ready in time. Its register is not read; the pointer moves on. -/
def execTwbLate (s : State) : Host.Outcome State Fault Refusal :=
  let s := modTwb s linesMove
  if s.twb.reading != some true || 256 ≤ s.twb.bytes then done s else done (modTwb s lateWord)

/-- R282: STBY_IDLE has passed with no transaction. -/
def execTwbSleep (s : State) : Host.Outcome State Fault Refusal :=
  if s.dev.standby && s.twb.reading == none then done (modTwb s fun t => { t with awake := false }) else done s

/-- The part watches for stuck lines (R283). -/
def watchesLines (s : State) : Bool := !s.boot.inReset && !s.twb.toutDis

/-- R283, R287: SCL has stayed low; a read of the EEPROM fails. -/
def execTwbSclLow (extra : Fin 4) (s : State) : Host.Outcome State Fault Refusal :=
  if !watchesLines s then done s
  else
    let s := logEvent (modTwb s fun t => { t with sclLow := true, sclDown := true }) 0x0703 0 []
    let s := modTwb s (frameEnd extra.val)
    done (if readsEeprom s then endEeprom s codeReadFail else s)

/-- R283: SDA has stayed low while SCL was high. -/
def execTwbSdaLow (extra : Fin 4) (s : State) : Host.Outcome State Fault Refusal :=
  if !watchesLines s then done s
  else
    let s := logEvent (modTwb s fun t => { t with sdaLow := true, sdaDown := true }) 0x0704 0 []
    done (modTwb s (frameEnd extra.val))

end Sys2Proof.Machine
end

