-- ==== Sys2Proof/Machine/Dispatch.lean ====
section
/-! DEFINITION. The commands and their meanings. -/

namespace Sys2Proof.Machine

def exec (i : Instr) (s : State) : Host.Outcome State Fault Refusal :=
  match i with
  | .weltCauseArises c => Sys2Proof.Machine.execWeltCauseArises c s
  | .weltCauseClears c => Sys2Proof.Machine.execWeltCauseClears c s
  | .weltOpenConfirmed p => Sys2Proof.Machine.execWeltOpenConfirmed p s
  | .chargePumpReady => Sys2Proof.Machine.execChargePumpReady s
  | .railValid r => Sys2Proof.Machine.execRailValid r s
  | .railInvalid r => Sys2Proof.Machine.execRailInvalid r s
  | .supplyOutOfWindow r => Sys2Proof.Machine.execSupplyOutOfWindow r s
  | .resetNPulse => Sys2Proof.Machine.execResetNPulse s
  | .bypNPulse => Sys2Proof.Machine.execBypNPulse s
  | .resetRelease st => Sys2Proof.Machine.execResetRelease st s
  | .testEnHigh => Sys2Proof.Machine.execTestEnHigh s
  | .lastSelection => Sys2Proof.Machine.execLastSelection s
  | .eepromTransfer r => Sys2Proof.Machine.execEepromTransfer r s
  | .arbitrationLost => Sys2Proof.Machine.execArbitrationLost s
  | .globalApply => Sys2Proof.Machine.execGlobalApply s
  | .bootCalibration m => Sys2Proof.Machine.execBootCalibration m s
  | .bootDone => Sys2Proof.Machine.execBootDone s
  | .calrecWrite ok => Sys2Proof.Machine.execCalrecWrite ok s
  | .joinTrigger l k => Sys2Proof.Machine.execJoinTrigger l k s
  | .joinTimeout l => Sys2Proof.Machine.execJoinTimeout l s
  | .lnkctlJoin c l v => Sys2Proof.Machine.execLnkctlJoin c l v s
  | .lnkctlAside c l v => Sys2Proof.Machine.execLnkctlAside c l v s
  | .devctlAside c v => Sys2Proof.Machine.execDevctlAside c v s
  | .devctlStandby c v => Sys2Proof.Machine.execDevctlStandby c v s
  | .standbyEntered => Sys2Proof.Machine.execStandbyEntered s
  | .devctlWake c v => Sys2Proof.Machine.execDevctlWake c v s
  | .standbyExitDone => Sys2Proof.Machine.execStandbyExitDone s
  | .devctlThermRearm c v => Sys2Proof.Machine.execDevctlThermRearm c v s
  | .thermalSample t => Sys2Proof.Machine.execThermalSample t s
  | .lastStage m e => Sys2Proof.Machine.execLastStage m e s
  | .commit c v => Sys2Proof.Machine.execCommit c v s
  | .discard c v => Sys2Proof.Machine.execDiscard c v s
  | .linkSwitchInstant l => Sys2Proof.Machine.execLinkSwitchInstant l s
  | .skipAbsent l => Sys2Proof.Machine.execSkipAbsent l s
  | .idlePeriodEnd l => Sys2Proof.Machine.execIdlePeriodEnd l s
  | .commitRollback l => Sys2Proof.Machine.execCommitRollback l s
  | .padSetPasses l d => Sys2Proof.Machine.execPadSetPasses l d s
  | .epochUnsent l d => Sys2Proof.Machine.execEpochUnsent l d s
  | .rateDetected sd p r => Sys2Proof.Machine.execRateDetected sd p r s
  | .cdrLockGained sd p => Sys2Proof.Machine.execCdrLockGained sd p s
  | .cdrLockLost sd p => Sys2Proof.Machine.execCdrLockLost sd p s
  | .commaReceived sd p ph => Sys2Proof.Machine.execCommaReceived sd p ph s
  | .rxCodeGroup sd p g reads => Sys2Proof.Machine.execRxCodeGroup sd p g reads s
  | .lnctlRecentre c sd p v => Sys2Proof.Machine.execLnctlRecentre c sd p v s
  | .lnctlBitslip c sd p v => Sys2Proof.Machine.execLnctlBitslip c sd p v s
  | .skipSetArrives sd p k => Sys2Proof.Machine.execSkipSetArrives sd p k s
  | .skipRateWindow => Sys2Proof.Machine.execSkipRateWindow s
  | .loopMasterMoved l d => Sys2Proof.Machine.execLoopMasterMoved l d s
  | .swingLimit sd p c => Sys2Proof.Machine.execSwingLimit sd p c s
  | .swingRaise sd p room => Sys2Proof.Machine.execSwingRaise sd p room s
  | .lntxdrvWrite c sd p v => Sys2Proof.Machine.execLntxdrvWrite c sd p v s
  | .trimRampStep sd p t => Sys2Proof.Machine.execTrimRampStep sd p t s
  | .lnsnapTake c sd p v => Sys2Proof.Machine.execLnsnapTake c sd p v s
  | .lnsnapRelease c sd p v => Sys2Proof.Machine.execLnsnapRelease c sd p v s
  | .snapshotExpiry sd p => Sys2Proof.Machine.execSnapshotExpiry sd p s
  | .sidePllLoss q => Sys2Proof.Machine.execSidePllLoss q s
  | .corePllLoss => Sys2Proof.Machine.execCorePllLoss s
  | .pllRelockAttempt q ok => Sys2Proof.Machine.execPllRelockAttempt q ok s
  | .receiverDetect l sd mask => Sys2Proof.Machine.execReceiverDetect l sd mask s
  | .trainingSetReceived l sd k t => Sys2Proof.Machine.execTrainingSetReceived l sd k t s
  | .rateDiscard l => Sys2Proof.Machine.execRateDiscard l s
  | .trainTimeout l => Sys2Proof.Machine.execTrainTimeout l s
  | .presetSearchStep sd p o => Sys2Proof.Machine.execPresetSearchStep sd p o s
  | .lnkctlRetrain c l v => Sys2Proof.Machine.execLnkctlRetrain c l v s
  | .forcedIdleRetrain l => Sys2Proof.Machine.execForcedIdleRetrain l s
  | .electricalIdleDetected sd p => Sys2Proof.Machine.execElectricalIdleDetected sd p s
  | .lnkctlDisable c l v => Sys2Proof.Machine.execLnkctlDisable c l v s
  | .lnkctlClrRetrains c l v => Sys2Proof.Machine.execLnkctlClrRetrains c l v s
  | .idleEntrySetReceived l d => Sys2Proof.Machine.execIdleEntrySetReceived l d s
  | .sleepWake l sd => Sys2Proof.Machine.execSleepWake l sd s
  | .wakeFail l => Sys2Proof.Machine.execWakeFail l s
  | .deepEntryTimeout l => Sys2Proof.Machine.execDeepEntryTimeout l s
  | .lpGrantSeen l st => Sys2Proof.Machine.execLpGrantSeen l st s
  | .lpReqIdle l st => Sys2Proof.Machine.execLpReqIdle l st s
  | .unrecoveredTimeout l d k => Sys2Proof.Machine.execUnrecoveredTimeout l d k s
  | .spareLockTimer l n d locked => Sys2Proof.Machine.execSpareLockTimer l n d locked s
  | .spareRspReceived l sd r => Sys2Proof.Machine.execSpareRspReceived l sd r s
  | .spareMosForwarded l r => Sys2Proof.Machine.execSpareMosForwarded l r s
  | .swapTimeout l => Sys2Proof.Machine.execSwapTimeout l s
  | .spareRetry l => Sys2Proof.Machine.execSpareRetry l s
  | .predictiveEvaluation => Sys2Proof.Machine.execPredictiveEvaluation s
  | .lnkspcmdSwap c l v => Sys2Proof.Machine.execLnkspcmdSwap c l v s
  | .lnkspcmdBack c l v => Sys2Proof.Machine.execLnkspcmdBack c l v s
  | .lnklossUncap c l v => Sys2Proof.Machine.execLnklossUncap c l v s
  | .prbsGenEnable c sd p v => Sys2Proof.Machine.execPrbsGenEnable c sd p v s
  | .prbsChkEnable c sd p v => Sys2Proof.Machine.execPrbsChkEnable c sd p v s
  | .prbsInject c sd p v => Sys2Proof.Machine.execPrbsInject c sd p v s
  | .prbsCheckerLock sd p => Sys2Proof.Machine.execPrbsCheckerLock sd p s
  | .prbsLockLost sd p => Sys2Proof.Machine.execPrbsLockLost sd p s
  | .counterClr c sd p v => Sys2Proof.Machine.execCounterClr c sd p v s
  | .lnscanStart c sd p v => Sys2Proof.Machine.execLnscanStart c sd p v s
  | .scanPointDone sd p n => Sys2Proof.Machine.execScanPointDone sd p n s
  | .eyeSweepEnd sd p w h => Sys2Proof.Machine.execEyeSweepEnd sd p w h s
  | .trainingSweepEnd sd p w h => Sys2Proof.Machine.execTrainingSweepEnd sd p w h s
  | .loopNearSerial c sd p v => Sys2Proof.Machine.execLoopNearSerial c sd p v s
  | .loopNearParallel c sd p v => Sys2Proof.Machine.execLoopNearParallel c sd p v s
  | .loopFarEnd c sd p v => Sys2Proof.Machine.execLoopFarEnd c sd p v s
  | .loopOff c sd p v => Sys2Proof.Machine.execLoopOff c sd p v s
  | .calcmdGo c v => Sys2Proof.Machine.execCalcmdGo c v s
  | .calcmdSave c v => Sys2Proof.Machine.execCalcmdSave c v s
  | .recalEvaluation => Sys2Proof.Machine.execRecalEvaluation s
  | .recalStep last => Sys2Proof.Machine.execRecalStep last s
  | .recalAborted => Sys2Proof.Machine.execRecalAborted s
  | .adcSelfCal => Sys2Proof.Machine.execAdcSelfCal s
  | .adcSelfCalEnd => Sys2Proof.Machine.execAdcSelfCalEnd s
  | .twbAddress a rd => Sys2Proof.Machine.execTwbAddress a rd s
  | .twbWriteWord v e => Sys2Proof.Machine.execTwbWriteWord v e s
  | .twbReadWord e => Sys2Proof.Machine.execTwbReadWord e s
  | .twbStartStop k extra => Sys2Proof.Machine.execTwbStartStop k extra s
  | .twbLate => Sys2Proof.Machine.execTwbLate s
  | .twbWake a => Sys2Proof.Machine.execTwbWake a s
  | .twbSleep => Sys2Proof.Machine.execTwbSleep s
  | .twbSclLow extra => Sys2Proof.Machine.execTwbSclLow extra s
  | .twbSdaLow extra => Sys2Proof.Machine.execTwbSdaLow extra s
  | .mosReceived l sd m e => Sys2Proof.Machine.execMosReceived l sd m e s
  | .mosRd l sd seq a two e => Sys2Proof.Machine.execMosRd l sd seq a two e s
  | .mosWr l sd seq a v e => Sys2Proof.Machine.execMosWr l sd seq a v e s
  | .notifyRepeat => Sys2Proof.Machine.execNotifyRepeat s
  | .jtagExtest => Sys2Proof.Machine.execJtagExtest s
  | .jtagIdcode => Sys2Proof.Machine.execJtagIdcode s
  | .jtagSamplePreload => Sys2Proof.Machine.execJtagSamplePreload s
  | .jtagExtestPulse => Sys2Proof.Machine.execJtagExtestPulse s
  | .jtagExtestTrain => Sys2Proof.Machine.execJtagExtestTrain s
  | .jtagHighz => Sys2Proof.Machine.execJtagHighz s
  | .jtagClamp => Sys2Proof.Machine.execJtagClamp s
  | .jtagBypass op => Sys2Proof.Machine.execJtagBypass op s
  | .jtagTapReset => Sys2Proof.Machine.execJtagTapReset s
  | .storeRead c a e => Sys2Proof.Machine.execStoreRead c a e s
  | .storeWrite c a v e => Sys2Proof.Machine.execStoreWrite c a v e s
  | .windowEntryWrite c t pg v => Sys2Proof.Machine.execWindowEntryWrite c t pg v s
  | .winctlSync c v => Sys2Proof.Machine.execWinctlSync c v s
  | .syncBarrierDone c => Sys2Proof.Machine.execSyncBarrierDone c s
  | .scrubLine e => Sys2Proof.Machine.execScrubLine e s
  | .ceRateHour => Sys2Proof.Machine.execCeRateHour s
  | .storeCeClr c v => Sys2Proof.Machine.execStoreCeClr c v s
  | .wqEnable c q v => Sys2Proof.Machine.execWqEnable c q v s
  | .wqDisable c q v => Sys2Proof.Machine.execWqDisable c q v s
  | .wqReset c q v => Sys2Proof.Machine.execWqReset c q v s
  | .wqDoorbell c q v => Sys2Proof.Machine.execWqDoorbell c q v s
  | .entryPrefetch q e => Sys2Proof.Machine.execEntryPrefetch q e s
  | .headerWrite q => Sys2Proof.Machine.execHeaderWrite q s
  | .jobStart u heel => Sys2Proof.Machine.execJobStart u heel s
  | .preemptFlushDone m e => Sys2Proof.Machine.execPreemptFlushDone m e s
  | .jobEnd u => Sys2Proof.Machine.execJobEnd u s
  | .completionWrite q => Sys2Proof.Machine.execCompletionWrite q s
  | .drainComplete q => Sys2Proof.Machine.execDrainComplete q s
  | .cqEnable c q v => Sys2Proof.Machine.execCqEnable c q v s
  | .cqDisable c q v => Sys2Proof.Machine.execCqDisable c q v s
  | .cqheadWrite c q v => Sys2Proof.Machine.execCqheadWrite c q v s
  | .nop q => Sys2Proof.Machine.execNop q s
  | .fence q => Sys2Proof.Machine.execFence q s
  | .move m e => Sys2Proof.Machine.execMove m e s
  | .capture sd => Sys2Proof.Machine.execCapture sd s
  | .captureTrigger sd ln => Sys2Proof.Machine.execCaptureTrigger sd ln s
  | .captureStop sd => Sys2Proof.Machine.execCaptureStop sd s
  | .captureTimeout sd => Sys2Proof.Machine.execCaptureTimeout sd s
  | .captureLostPage sd => Sys2Proof.Machine.execCaptureLostPage sd s
  | .eyescan sd p row => Sys2Proof.Machine.execEyescan sd p row s
  | .eyescanLockTimeout sd p => Sys2Proof.Machine.execEyescanLockTimeout sd p s
  | .prbsJob sd p => Sys2Proof.Machine.execPrbsJob sd p s
  | .prbsJobInject sd p => Sys2Proof.Machine.execPrbsJobInject sd p s
  | .prbsJobDurationEnd sd p => Sys2Proof.Machine.execPrbsJobDurationEnd sd p s
  | .nvmRead e => Sys2Proof.Machine.execNvmRead e s
  | .nvmProgram e => Sys2Proof.Machine.execNvmProgram e s
  | .nvmUnitProgrammed ok => Sys2Proof.Machine.execNvmUnitProgrammed ok s
  | .nvmErase => Sys2Proof.Machine.execNvmErase s
  | .nvmSectorErased ok => Sys2Proof.Machine.execNvmSectorErased ok s
  | .eraseSuspend w => Sys2Proof.Machine.execEraseSuspend w s
  | .eraseResume => Sys2Proof.Machine.execEraseResume s
  | .telemetry m => Sys2Proof.Machine.execTelemetry m s
  | .imcSend => Sys2Proof.Machine.execImcSend s
  | .imcNoSlot => Sys2Proof.Machine.execImcNoSlot s
  | .wqResume c q v => Sys2Proof.Machine.execWqResume c q v s
  | .awlQueue c q => Sys2Proof.Machine.execAwlQueue c q s
  | .awlJob c q tag => Sys2Proof.Machine.execAwlJob c q tag s
  | .awlUnit c sel => Sys2Proof.Machine.execAwlUnit c sel s
  | .awlLane c sel => Sys2Proof.Machine.execAwlLane c sel s
  | .awlAll c => Sys2Proof.Machine.execAwlAll c s
  | .awlDone => Sys2Proof.Machine.execAwlDone s
  | .nvmWindowRead c off e => Sys2Proof.Machine.execNvmWindowRead c off e s
  | .nvmLogWrite ok => Sys2Proof.Machine.execNvmLogWrite ok s
  | .logTokenTick => Sys2Proof.Machine.execLogTokenTick s
  | .nvmctlCeClr c v => Sys2Proof.Machine.execNvmctlCeClr c v s
  | .sequencerTimerTrigger n => Sys2Proof.Machine.execSequencerTimerTrigger n s
  | .decimatorOutput v => Sys2Proof.Machine.execDecimatorOutput v s
  | .syncEdge => Sys2Proof.Machine.execSyncEdge s
  | .tmseqctlRestart c n v => Sys2Proof.Machine.execTmseqctlRestart c n v s
  | .dtimeLoadNow c v => Sys2Proof.Machine.execDtimeLoadNow c v s
  | .dtimeLoRead c => Sys2Proof.Machine.execDtimeLoRead c s
  | .dtrateWrite c v => Sys2Proof.Machine.execDtrateWrite c v s
  | .heelWatchdogTrip => Sys2Proof.Machine.execHeelWatchdogTrip s
  | .weltMismatch p stuckOpen => Sys2Proof.Machine.execWeltMismatch p stuckOpen s
  | .regReadClear c a e => Sys2Proof.Machine.execRegReadClear c a e s
  | .regWrite c a v e => Sys2Proof.Machine.execRegWrite c a v e s
  | .signalDetected sd p => Sys2Proof.Machine.execSignalDetected sd p s
  | .vioSplitThreshold => Sys2Proof.Machine.execVioSplitThreshold s
  | .supplyInWindow r => Sys2Proof.Machine.execSupplyInWindow r s

end Sys2Proof.Machine
end

