-- ==== Sys2Proof/Permission.lean ====
section
/-! DEFINITION. The permission bit of every register, as the statements name it (Tables 18-1 and 18-3). -/

namespace Sys2Proof.Machine

/-- The permission bit of a register (Tables 18-1, 18-3). -/
def regBit (r : Reg) : Nat :=
  match regIsland r with
  | .aligner _ => 3
  | .lane .A _ => 4
  | .lane .B _ => 5
  | .nvm => 8
  | .telemetry => 9
  | .store => 7
  | .core =>
    match r with
    | .winctl _ | .winerr _ | .winerrva _ | .winentry _ _ => 7
    | _ => 6
  | .management =>
    match r with
    | .lnkctl _ | .lnkstat _ | .lnkepoch _ => 3
    | .twbctl | .twbstat | .imcctl | .imcstat | .imccnt _ => 10
    | r => globalBit r

end Sys2Proof.Machine
end

