-- ==== Sys2Proof/Safety.lean ====
section
/-! DEFINITION. What a safe state of the part is, in the terms claims use: the sparse tables keep their form, no stored
Window lets a context write the Heel structures; and the components of State by name, for claims about what a command
leaves as it was. -/

namespace Sys2Proof.Machine

/-- The form in which the Store is held: bytes, upset words, written tags and poisoned lines listed in rising order, no
listed byte equal to what an unlisted one reads as. -/
def Memory.wf (m : StoreSt) : Bool :=
  tabWf (0 : Byte) none m.cells && tabWf Ecc.clean none m.upsets && numWf none m.tags && numWf none m.poison

/-- The form in which the NVM is held: units, headers and upset units listed where they differ from the default, dirty and
restored sectors rising. -/
def NvmSt.wf (n : NvmSt) : Bool :=
  tabWf NvmCell.erased none n.cells && tabWf freshHead none n.heads && tabWf Ecc.clean none n.upsets &&
    tabWf Ecc.clean none n.otpUpsets && numWf none n.dirty && numWf none n.restored

/-- The form in which the stored Windows are held. -/
def WinSt.wf (w : WinSt) : Bool := w.entries.toList.all (tabWf (0 : BitVec 20) none)

/-- Every sparse table of the state is in its one form, so that equal contents are equal data. -/
def State.canon (s : State) : Bool := Memory.wf s.store && s.nvm.wf && s.win.wf

/-- An entry whose PPAGE names a reserved page has WRITE 0 (R305, R319, R321). -/
def entryGuarded (e : BitVec 20) : Bool := (e &&& 0x7FF).toNat < 0x7E0 || !e.getLsbD 18

/-- No stored Window of C1, C2 or C3 lets a write reach the Heel structures. -/
def State.guarded (s : State) : Bool := s.win.entries.toList.all fun t => t.all fun p => entryGuarded p.2

/-- Nothing that follows from a command is left over: no restart of the Heel is due (R469), no suspended erase waits for
a free engine (R402), and NOTIFY has followed ATTN_N (R299). -/
def State.settled (s : State) : Bool :=
  !s.heel.restartDue && !(s.units.nvm.isNone && s.units.held.isSome) && s.imc.attnWas == attnLow s

/-- The components of State. -/
inductive Comp where
  | pins | power | boot | dev | welt | therm | evt | heel | lanes | links | last | store | win | twb | imc
  | jtag | acc | wqs | cqs | units | slots | sched | awl | nvm | tm | time | cal | free | pending
  deriving DecidableEq, Repr

/-- Two states agree in a component. -/
def Comp.same : Comp → State → State → Prop
  | .pins, s, t => t.pins = s.pins
  | .power, s, t => t.power = s.power
  | .boot, s, t => t.boot = s.boot
  | .dev, s, t => t.dev = s.dev
  | .welt, s, t => t.welt = s.welt
  | .therm, s, t => t.therm = s.therm
  | .evt, s, t => t.evt = s.evt
  | .heel, s, t => t.heel = s.heel
  | .lanes, s, t => t.lanes = s.lanes
  | .links, s, t => t.links = s.links
  | .last, s, t => t.last = s.last
  | .store, s, t => t.store = s.store
  | .win, s, t => t.win = s.win
  | .twb, s, t => t.twb = s.twb
  | .imc, s, t => t.imc = s.imc
  | .jtag, s, t => t.jtag = s.jtag
  | .acc, s, t => t.acc = s.acc
  | .wqs, s, t => t.wqs = s.wqs
  | .cqs, s, t => t.cqs = s.cqs
  | .units, s, t => t.units = s.units
  | .slots, s, t => t.slots = s.slots
  | .sched, s, t => t.sched = s.sched
  | .awl, s, t => t.awl = s.awl
  | .nvm, s, t => t.nvm = s.nvm
  | .tm, s, t => t.tm = s.tm
  | .time, s, t => t.time = s.time
  | .cal, s, t => t.cal = s.cal
  | .free, s, t => t.free = s.free
  | .pending, s, t => t.pending = s.pending

/-- The rails, their levels and the PLLs' locks after a command, but for the VCO bands: a PLL that locks chooses its band. -/
def unbanded (s t : State) : Power := { t.power with band := s.power.band }

/-- Two states agree in every component that is not listed. -/
def sameBut (touched : List Comp) (s t : State) : Prop := ∀ k, k ∉ touched → k.same s t

/-- A written word reaches the register: the part serves the context, which may write it, and its island has power
(R484). -/
def opens (s : State) (c : Ctx) (r : Reg) : Prop :=
  served s c = true ∧ mayWrite s c (regAddr r) = true ∧ islandOff s (regIsland r) = false

/-- A read reaches the register in the same way. -/
def shows (s : State) (c : Ctx) (r : Reg) : Prop :=
  served s c = true ∧ mayRead s c (regAddr r) = true ∧ islandOff s (regIsland r) = false

/-- A position with a cause of Table 2-1 is not commanded open (R39). -/
def causesClose (s : State) : Prop := ∀ p : Pos, (devCause s || posCause s p) = true → s.welt.cmdOpen[p] = false

/-- A position that is not commanded open has no transmitter on (R3, R41). -/
def closedDark (s : State) : Prop := ∀ p : Pos, s.welt.cmdOpen[p] = false → ∀ sd : Side, (getLane s sd p).tx.on = false

/-- The promise of the Welt: where there is a cause the switches are commanded closed, and where they are the transmitters
are off. -/
def weltSafe (s : State) : Prop := causesClose s ∧ closedDark s

/-- Every position's switches are commanded as its causes ask: open exactly where it has none (R39 to R41). -/
def weltFollows (s : State) : Prop := ∀ p : Pos, s.welt.cmdOpen[p] = !(devCause s || posCause s p)

/-- Two links agree in all but the MOS that wait on them. -/
def Link.sameButOut (k j : Link) : Prop := { j with outAB := k.outAB, outBA := k.outBA } = k

/-- Every lane block but one is as it was. -/
def otherLanes (s t : State) (sd : Side) (p : Pos) : Prop := ∀ x q, (x, q) ≠ (sd, p) → getLane t x q = getLane s x q

/-- Every link is as it was but for the MOS that wait on it. -/
def linksButOut (s t : State) : Prop := ∀ l, (getLink s l).sameButOut (getLink t l)

/-- The same of every link but one. -/
def otherLinks (s t : State) (l : LinkNo) : Prop := ∀ j, j ≠ l → (getLink s j).sameButOut (getLink t j)

/-- What an event may change beside what it reports: the ring in the Store, the event registers, the NVM log's queue, and
the NOTIFY that an asserted ATTN_N sends (R299, R461, R467). -/
abbrev byEvent : List Comp := [.evt, .nvm, .store, .imc, .links, .free]

/-- What the end of every command may add: a restart of the Heel that is due, a suspended erase that holds its engine again,
and the NOTIFY of a newly asserted ATTN_N. -/
abbrev byEnd : List Comp := [.evt, .heel, .lanes, .links, .store, .imc, .units, .nvm, .cal, .free]

/-- The components that a write of a register may touch, from the register's own description (Chapter 18). -/
def regTouches : Reg → List Comp
  | .devctl => [.power, .boot, .dev, .welt, .therm, .evt, .lanes, .links, .last, .store, .units, .nvm, .cal, .free]
  | .evtmask | .attnsrc | .faultsrc => [.evt]
  | .awlcmd => [.evt, .heel, .lanes, .links, .last, .store, .win, .wqs, .cqs, .units, .slots, .awl, .nvm, .free]
  | .lastcmd => [.power, .welt, .evt, .lanes, .links, .last, .store, .units, .nvm, .tm, .cal, .free]
  | .calcmd | .calstat => [.cal]
  | .syncctl => [.evt, .store, .nvm, .time]
  | .dtrate | .dtloadLo | .dtloadHi => [.time]
  | .lnkctl .. => [.power, .welt, .evt, .lanes, .links, .last, .store, .units, .nvm, .cal, .free]
  | .lnkspcmd .. => [.links, .free]
  | .lnkloss .. => [.links]
  | .lnctl .. => [.evt, .lanes, .store, .nvm]
  | .lnstat .. | .lnsnap .. | .lneq .. | .lntxdrv .. | .lnscan .. | .lnprbsusr .. | .lnsymcntHi ..
  | .lncal .. =>
    [.lanes]
  | .lnprbs .. => [.lanes, .links, .units, .free]
  | .lnloop .. => [.lanes, .links, .units]
  | .wqctl .. => [.evt, .heel, .store, .win, .wqs, .slots, .sched, .nvm]
  | .wqstat .. | .wqhdr .. => [.wqs]
  | .wqdb .. | .cqctl .. => [.evt, .heel, .store, .win, .wqs, .cqs, .nvm]
  | .cqstat .. | .cqbase .. => [.cqs]
  | .cqhead .. => [.evt, .store, .wqs, .cqs, .nvm]
  | .ctxstat => [.sched]
  | .winctl .. | .winerr .. => [.win]
  | .storestat => [.store]
  | .winentry .. => [.evt, .store, .win, .nvm]
  | .nvmctl | .nvmstat | .nvmwsel => [.nvm]
  | .tmseqctl .. | .tmstat | .tmthresh .. => [.tm]
  | .twbctl | .twbstat => [.twb]
  | .imcctl => [.imc]
  | .devid | .devstat | .evtstat | .evtcnt | .evtseq | .awlstat | .laststat | .lastdiff | .lastlink | .lastboot | .awlout ..
  | .dtimeLo | .dtimeHi | .dtsyncLo | .dtsyncHi | .lnkstat .. | .lnktrn .. | .lnkcap .. | .lnkspare .. | .lnkerr ..
  | .lnkepoch .. | .lnskpadd .. | .lnskpdel .. | .lndfe .. | .lneye .. | .lnscancnt .. | .lnerrcnt ..
  | .lnsymcntLo .. | .lncalt .. | .wqerr .. | .wqheld .. | .ctxslot .. | .ctxflt .. | .winerrva .. | .storece | .storeuea
  | .storescrub | .nvmaddr | .nvmwear | .nvmlog | .tmmiss | .tmch .. | .imcstat | .imccnt .. => []

/-- What a written word may touch, by what its address names. -/
def targetTouches : Target → List Comp
  | .reg r _ => regTouches r
  | .physical _ => [.evt, .heel, .store, .nvm]
  | .virtual_ _ => [.evt, .heel, .store, .win, .nvm]
  | .none | .reserved _ _ | .nvm _ => []

/-- What a command that writes a register may touch: the register's own components, TWBSTAT where the two-wire host is
denied, and what its end adds. -/
abbrev byWrite (r : Reg) : List Comp := regTouches r ++ .twb :: byEnd

/-- The components that a command may touch; it leaves all others as they are. -/
def touches : Instr → List Comp
  | .lnkctlJoin _ l _ => byWrite (.lnkctl l)
  | .lnkctlAside _ l _ => byWrite (.lnkctl l)
  | .devctlAside _ _ => byWrite .devctl
  | .devctlStandby _ _ => byWrite .devctl
  | .devctlWake _ _ => byWrite .devctl
  | .devctlThermRearm _ _ => byWrite .devctl
  | .commit _ _ => byWrite .lastcmd
  | .discard _ _ => byWrite .lastcmd
  | .lnctlRecentre _ sd p _ => byWrite (.lnctl sd p)
  | .lnctlBitslip _ sd p _ => byWrite (.lnctl sd p)
  | .lntxdrvWrite _ sd p _ => byWrite (.lntxdrv sd p)
  | .lnsnapTake _ sd p _ => byWrite (.lnsnap sd p)
  | .lnsnapRelease _ sd p _ => byWrite (.lnsnap sd p)
  | .lnkctlRetrain _ l _ => byWrite (.lnkctl l)
  | .lnkctlDisable _ l _ => byWrite (.lnkctl l)
  | .lnkctlClrRetrains _ l _ => byWrite (.lnkctl l)
  | .lnkspcmdSwap _ l _ => byWrite (.lnkspcmd l)
  | .lnkspcmdBack _ l _ => byWrite (.lnkspcmd l)
  | .lnklossUncap _ l _ => byWrite (.lnkloss l)
  | .prbsGenEnable _ sd p _ => byWrite (.lnprbs sd p)
  | .prbsChkEnable _ sd p _ => byWrite (.lnprbs sd p)
  | .prbsInject _ sd p _ => byWrite (.lnprbs sd p)
  | .counterClr _ sd p _ => byWrite (.lnsymcntHi sd p)
  | .lnscanStart _ sd p _ => byWrite (.lnscan sd p)
  | .loopNearSerial _ sd p _ => byWrite (.lnloop sd p)
  | .loopNearParallel _ sd p _ => byWrite (.lnloop sd p)
  | .loopFarEnd _ sd p _ => byWrite (.lnloop sd p)
  | .loopOff _ sd p _ => byWrite (.lnloop sd p)
  | .calcmdGo _ _ => byWrite .calcmd
  | .calcmdSave _ _ => byWrite .calcmd
  | .windowEntryWrite _ t pg _ => byWrite (.winentry t pg.toFin)
  | .winctlSync c _ => byWrite (.winctl c)
  | .storeCeClr _ _ => byWrite .storestat
  | .wqEnable _ q _ => byWrite (.wqctl q)
  | .wqDisable _ q _ => byWrite (.wqctl q)
  | .wqReset _ q _ => byWrite (.wqctl q)
  | .wqDoorbell _ q _ => byWrite (.wqdb q)
  | .cqEnable _ q _ => byWrite (.cqctl q)
  | .cqDisable _ q _ => byWrite (.cqctl q)
  | .cqheadWrite _ q _ => byWrite (.cqhead q)
  | .wqResume _ q _ => byWrite (.wqctl q)
  | .awlQueue _ _ => byWrite .awlcmd
  | .awlJob _ _ _ => byWrite .awlcmd
  | .awlUnit _ _ => byWrite .awlcmd
  | .awlLane _ _ => byWrite .awlcmd
  | .awlAll _ => byWrite .awlcmd
  | .nvmctlCeClr _ _ => byWrite .nvmctl
  | .tmseqctlRestart _ n _ => byWrite (.tmseqctl n)
  | .dtimeLoadNow _ _ => byWrite .syncctl
  | .dtrateWrite _ _ => byWrite .dtrate
  | .weltCauseArises .. | .resetNPulse =>
    [.pins, .power, .boot, .dev, .welt, .therm, .last, .win, .twb, .acc, .wqs, .cqs, .slots, .sched, .awl, .tm, .time] ++ byEnd
  | .weltCauseClears .. => [.pins, .power, .welt, .last] ++ byEnd
  | .weltOpenConfirmed .. | .joinTrigger .. | .joinTimeout .. | .linkSwitchInstant .. | .skipAbsent ..
  | .idlePeriodEnd .. | .commitRollback .. | .cdrLockGained .. | .cdrLockLost .. | .commaReceived ..
  | .skipSetArrives .. | .trainingSetReceived .. | .trainTimeout .. | .forcedIdleRetrain ..
  | .electricalIdleDetected .. | .idleEntrySetReceived .. | .wakeFail .. | .deepEntryTimeout ..
  | .spareRspReceived .. | .spareMosForwarded .. | .swapTimeout .. | .weltMismatch .. | .signalDetected ..
  | .sleepWake .. | .chargePumpReady | .railValid .. | .sidePllLoss .. => [.power, .welt, .last] ++ byEnd
  | .railInvalid .. =>
    [.power, .boot, .dev, .welt, .therm, .last, .win, .twb, .jtag, .acc, .wqs, .cqs, .slots, .sched, .awl, .tm, .time] ++ byEnd
  | .supplyOutOfWindow .. | .pllRelockAttempt .. | .vioSplitThreshold | .supplyInWindow .. => [.power] ++ byEnd
  | .rxCodeGroup .. => [.power, .welt, .last, .win] ++ byEnd
  | .bypNPulse => [.pins, .power, .welt, .last] ++ byEnd
  | .resetRelease .. => [.pins, .power, .boot, .welt, .last] ++ byEnd
  | .testEnHigh => [.pins, .power, .boot, .welt, .last, .twb] ++ byEnd
  | .lastSelection => [.boot, .welt, .last] ++ byEnd
  | .bootDone => [.power, .boot, .welt, .last] ++ byEnd
  | .bootCalibration .. => [.power, .boot, .tm] ++ byEnd
  | .eepromTransfer .. | .arbitrationLost => [.boot] ++ byEnd
  | .globalApply => [.boot, .win, .wqs, .cqs, .tm] ++ byEnd
  | .calrecWrite .. | .epochUnsent .. | .rateDetected .. | .skipRateWindow | .loopMasterMoved .. | .swingLimit ..
  | .swingRaise .. | .trimRampStep .. | .snapshotExpiry .. | .receiverDetect .. | .rateDiscard ..
  | .presetSearchStep .. | .lpGrantSeen .. | .lpReqIdle .. | .unrecoveredTimeout ..
  | .spareLockTimer .. | .spareRetry .. | .predictiveEvaluation | .prbsCheckerLock .. | .prbsLockLost ..
  | .scanPointDone .. | .eyeSweepEnd .. | .trainingSweepEnd .. | .recalEvaluation | .recalStep .. | .recalAborted
  | .notifyRepeat | .scrubLine .. | .ceRateHour | .captureTrigger .. | .prbsJob .. | .prbsJobInject .. | .nvmUnitProgrammed .. | .nvmErase | .nvmSectorErased ..
  | .eraseSuspend .. | .eraseResume | .imcSend | .imcNoSlot | .nvmLogWrite .. | .logTokenTick | .heelWatchdogTrip =>
    byEnd
  | .captureStop .. | .captureTimeout .. | .captureLostPage .. => [.win] ++ byEnd
  | .standbyEntered => [.power, .dev, .welt, .last, .win, .wqs, .cqs, .slots, .sched, .tm] ++ byEnd
  | .standbyExitDone => [.power, .boot, .dev, .welt, .last, .twb] ++ byEnd
  | .thermalSample .. => [.power, .welt, .therm, .last] ++ byEnd
  | .lastStage .. | .preemptFlushDone .. | .move .. | .capture .. | .eyescan .. | .eyescanLockTimeout ..
  | .prbsJobDurationEnd .. | .nvmRead .. | .nvmProgram .. => [.last, .win, .wqs, .cqs, .slots, .sched] ++ byEnd
  | .padSetPasses .. => [.last] ++ byEnd
  | .corePllLoss => [.power, .dev, .welt, .last] ++ byEnd
  | .adcSelfCal | .adcSelfCalEnd | .sequencerTimerTrigger .. | .decimatorOutput .. => [.tm] ++ byEnd
  | .twbAddress .. | .twbStartStop .. | .twbLate | .twbWake .. | .twbSleep | .twbSdaLow .. => [.twb] ++ byEnd
  | .storeWrite .. => [.win, .twb] ++ byEnd
  | .regWrite _ a _ _ => targetTouches (decodeAddr a) ++ .twb :: byEnd
  | .twbWriteWord .. =>
    [.power, .boot, .dev, .welt, .therm, .last, .win, .twb, .wqs, .cqs, .slots, .sched, .awl, .tm, .time] ++ byEnd
  | .twbReadWord .. | .storeRead .. | .nvmWindowRead .. | .dtimeLoRead .. | .regReadClear .. =>
    [.win, .twb, .acc, .tm] ++ byEnd
  | .twbSclLow .. => [.boot, .twb] ++ byEnd
  | .mosReceived .. | .mosRd .. | .mosWr .. =>
    [.power, .boot, .dev, .welt, .therm, .last, .win, .twb, .acc, .wqs, .cqs, .slots, .sched, .awl, .tm, .time] ++ byEnd
  | .jtagExtest .. | .jtagIdcode .. | .jtagSamplePreload .. | .jtagExtestPulse .. | .jtagExtestTrain .. | .jtagHighz ..
  | .jtagClamp .. | .jtagBypass .. => [.twb, .jtag] ++ byEnd
  | .jtagTapReset .. => [.pins, .jtag] ++ byEnd
  | .syncBarrierDone .. => [.win] ++ byEnd
  | .headerWrite .. | .jobEnd .. | .completionWrite .. | .nop .. => [.win, .wqs, .cqs] ++ byEnd
  | .jobStart .. => [.last, .wqs, .slots, .sched] ++ byEnd
  | .drainComplete .. => [.wqs] ++ byEnd
  | .fence .. | .entryPrefetch .. => [.win, .wqs, .cqs, .sched] ++ byEnd
  | .telemetry .. => [.last, .win, .wqs, .cqs, .slots, .sched, .tm] ++ byEnd
  | .awlDone => [.wqs, .awl] ++ byEnd
  | .syncEdge => [.tm, .time] ++ byEnd

/-- An event has been logged: its record (the first where its data needs two) is offered to the NVM log, and LAST_CODE is
its code, or POISON_CLEARED where a record met a poisoned line of the ring (R314, R461, R463). -/
def logged (s t : State) (code : BitVec 16) (c : Ctx) (data : List Byte) : Prop :=
  (∃ more, t.nvm.logWait = s.nvm.logWait ++ ⟨s.evt.seq, code, c, s.time.dtime, padTo 12 (data.take 12)⟩ :: more) ∧
    t.evt.lastCode = if ringPoisoned s data = [] then code else 0x0804

/-- Every byte outside the event ring is the same in two Stores. -/
def StoreSt.RingOnly (a b : StoreSt) : Prop := ∀ pa, ¬ (0x7E0000 ≤ pa ∧ pa < 0x7F0000) → b.byteAt pa = a.byteAt pa

/-- Every byte of the Store outside the event ring is the same in two states. -/
def RingOnly (s t : State) : Prop := s.store.RingOnly t.store

/-- The commands that can write nothing in the Store but event records in the ring (R461). -/
def ringOnlyCmd : Instr → Bool
  | .weltCauseClears .. | .weltOpenConfirmed .. | .chargePumpReady .. | .railValid .. | .supplyOutOfWindow ..
  | .bypNPulse .. | .resetRelease .. | .testEnHigh .. | .lastSelection .. | .eepromTransfer ..
  | .arbitrationLost .. | .globalApply .. | .bootCalibration .. | .bootDone .. | .calrecWrite ..
  | .joinTrigger .. | .joinTimeout .. | .standbyExitDone .. | .thermalSample .. | .linkSwitchInstant ..
  | .skipAbsent .. | .idlePeriodEnd .. | .commitRollback .. | .padSetPasses .. | .epochUnsent ..
  | .rateDetected .. | .cdrLockGained .. | .cdrLockLost .. | .commaReceived .. | .skipSetArrives ..
  | .skipRateWindow .. | .loopMasterMoved .. | .swingLimit .. | .swingRaise .. | .trimRampStep ..
  | .snapshotExpiry .. | .sidePllLoss .. | .corePllLoss .. | .pllRelockAttempt .. | .receiverDetect ..
  | .trainingSetReceived .. | .rateDiscard .. | .trainTimeout .. | .presetSearchStep .. | .forcedIdleRetrain ..
  | .electricalIdleDetected .. | .idleEntrySetReceived .. | .sleepWake .. | .wakeFail .. | .deepEntryTimeout ..
  | .lpGrantSeen .. | .lpReqIdle .. | .unrecoveredTimeout .. | .spareLockTimer .. | .spareRspReceived ..
  | .spareMosForwarded .. | .swapTimeout .. | .spareRetry .. | .predictiveEvaluation .. | .prbsCheckerLock ..
  | .prbsLockLost .. | .scanPointDone .. | .eyeSweepEnd .. | .trainingSweepEnd .. | .recalEvaluation ..
  | .recalStep .. | .recalAborted .. | .adcSelfCal .. | .adcSelfCalEnd .. | .twbAddress .. | .twbReadWord ..
  | .twbStartStop .. | .twbLate .. | .twbWake .. | .twbSleep .. | .twbSclLow .. | .twbSdaLow ..
  | .notifyRepeat .. | .jtagExtest .. | .jtagIdcode .. | .jtagSamplePreload .. | .jtagExtestPulse ..
  | .jtagExtestTrain .. | .jtagHighz .. | .jtagClamp .. | .jtagBypass .. | .jtagTapReset .. | .storeRead ..
  | .syncBarrierDone .. | .scrubLine .. | .ceRateHour .. | .jobStart .. | .drainComplete .. | .captureTrigger ..
  | .prbsJob .. | .prbsJobInject .. | .nvmUnitProgrammed .. | .nvmErase .. | .nvmSectorErased ..
  | .eraseSuspend .. | .eraseResume .. | .imcSend .. | .imcNoSlot .. | .awlDone .. | .nvmWindowRead ..
  | .nvmLogWrite .. | .logTokenTick .. | .sequencerTimerTrigger .. | .decimatorOutput .. | .syncEdge ..
  | .dtimeLoRead .. | .heelWatchdogTrip .. | .weltMismatch .. | .regReadClear .. | .signalDetected ..
  | .vioSplitThreshold .. | .supplyInWindow .. => true
  | _ => false

end Sys2Proof.Machine
end

