-- ==== Sys2Proof/Certificates/Slice0/Obligations.lean ====
section
/-! DEFINITION. The statements for the provers, one proposition each; a docstring says what its proposition states. -/

section

open Sys2Proof Sys2Proof.Machine

/-- R484's block in one step: the command that has waited longest runs on the rest of the queue. -/
def Obligations.StepRunsTheFrontCommand : Prop :=
  ∀ (c : Instr) (s : State) (rest : List Instr),
    step { s with pending := c :: rest } = exec c { s with pending := rest }

/-- From every state every command of the table ends in a next state (it never stops), and leaves each component of the state that the table `touches` does not list for it as it was: among others the queue, always. A command that writes a register may touch what that register's description names, what an event needs, and what follows at its end. -/
def Obligations.EveryCommandCompletesInItsFrame : Prop :=
  ∀ (i : Instr) (s : State), ∃ t, exec i s = .next t ∧ sameBut (touches i) s t

/-- With no command waiting one cycle passes: outside reset DTIME grows by the source's step, rounded as R453 says, with
its fraction; nothing else changes (that the empty queue lets a cycle pass is the model's choice, log entry 2). -/
def Obligations.IdleCycleCountsTime : Prop :=
  ∀ s : State, s.pending = [] → ∃ t, step s = .next t ∧ sameBut [.time] s t ∧
    (s.boot.inReset = true → t.time = s.time) ∧
    (s.boot.inReset = false →
      (t.time.dtime.toNat * 4294967296 + t.time.frac.toNat) =
        (s.time.dtime.toNat * 4294967296 + s.time.frac.toNat + (if freeRuns s then 134217728000 else cycleStep s.time.trim)) % 79228162514264337593543950336 ∧
      t.time.trim = s.time.trim)

/-- Right after reset nothing waits, every table is in its one form, no Window reaches the Heel, nothing is left to
follow, and the Welt keeps its promise. -/
def Obligations.ResetIsSafe : Prop :=
  State.reset.pending = [] ∧ State.reset.canon = true ∧ State.reset.guarded = true ∧ State.reset.settled = true ∧
    weltSafe State.reset

/-- From every state whose sparse tables (Store, NVM, Windows) are in their one form, a step gives such a state; and no step
changes the OTP area (R438). -/
def Obligations.StepKeepsTables : Prop :=
  ∀ s t : State, step s = .next t → (s.canon = true → t.canon = true) ∧ t.nvm.otp = s.nvm.otp

/-- No step gives a context a Window entry that could write to the Heel structures (R305, R319, R321). -/
def Obligations.StepKeepsHeelPagesUnwritable : Prop :=
  ∀ s t : State, s.guarded = true → step s = .next t → t.guarded = true

/-- After every command nothing is left to follow: a restart of the Heel that was due is made, a suspended erase holds
its engine again where that is free, and ATTN_N has been watched. -/
def Obligations.CommandsSettle : Prop :=
  ∀ (c : Instr) (s : State), ∃ t, exec c s = .next t ∧ t.settled = true

/-- From every state that keeps the Welt's promise a step gives one that does: a position with a cause of Table 2-1 is
commanded closed, and a position commanded closed has both transmitters off (R39 to R41, R3). -/
def Obligations.StepKeepsWeltSafe : Prop :=
  ∀ s t : State, weltSafe s → step s = .next t → weltSafe t

/-- The commands that only log events leave every byte of the Store outside the event ring as it was (R462). -/
def Obligations.RingOnlyCommandsSpareTheStore : Prop :=
  ∀ (c : Instr) (s : State), ringOnlyCmd c = true → ∃ t, exec c s = .next t ∧ RingOnly s t

/-- A pulse on RESET_N, RESET_N held low, and the loss of any rail but VDDSW take the part to the state right after reset in every component but the balls, the rails, the TAP, the NVM and what the model counts: the pulse leaves RESET_N high, the level leaves it low, a lost rail is not valid any more and only VIO takes the TAP's instruction and the VIO level with it (what of the TAP and the balls is kept: log entry 24). Of the NVM its registers and the log's place hold their reset values; the OTP area and the upsets of its code stay; with no erase and no program in progress so does the whole NVM array. -/
def Obligations.ResetEntryClearsTheRegisters : Prop :=
  ∀ s : State,
    let after := fun t : State => sameBut [.pins, .power, .jtag, .nvm, .free, .pending] State.reset t ∧ t.pending = s.pending ∧
      t.nvm = { State.reset.nvm with
        cells := t.nvm.cells, heads := t.nvm.heads, dirty := t.nvm.dirty, upsets := t.nvm.upsets
        otp := s.nvm.otp, otpUpsets := s.nvm.otpUpsets } ∧
      (s.nvm.logErase = none ∧ s.nvm.own = [] ∧ s.units.nvm = none ∧ s.units.held = none →
        t.nvm.cells = s.nvm.cells ∧ t.nvm.heads = s.nvm.heads ∧ t.nvm.dirty = s.nvm.dirty ∧ t.nvm.upsets = s.nvm.upsets)
    let power := fun p : Power => { p with unlock := Vector.replicate 5 false, band := Vector.replicate 4 0, told := Vector.replicate 8 false }
    (∃ t, exec .resetNPulse s = .next t ∧ after t ∧ t.jtag = s.jtag ∧ t.pins = { s.pins with resetN := true } ∧
      t.power = power s.power) ∧
    (∃ t, exec (.weltCauseArises .reset) s = .next t ∧ after t ∧ t.jtag = s.jtag ∧ t.pins = { s.pins with resetN := false } ∧
      t.power = power s.power) ∧
    (∀ r : Rail, r ≠ .vddsw → ∃ t, exec (.railInvalid r) s = .next t ∧ after t ∧ t.pins = s.pins ∧
      t.jtag = (if r = .vio then State.reset.jtag else s.jtag) ∧
      t.power = power { s.power with
        valid := vput s.power.valid (railIx r) false, outside := vput s.power.outside (railIx r) true
        vio33 := s.power.vio33 && r != .vio })

/-- Where VDDSW's source goes bad, VDDSW itself is lost, BYP_N is driven or pulsed low, or TEST_EN is seen high outside reset, a device-wide cause of Table 2-1 is present afterwards: every position's switches are commanded closed, both transmitters are off there (from a state that keeps the Welt's promise), and every link is FORCED. The events that end on other grounds and still stand as causes (DEVCTL.ASIDE, thermal shutdown, Standby) do the same where that cause is present. -/
def Obligations.DeviceCauseClosesEverything : Prop :=
  ∀ s : State, weltSafe s →
    let shut := fun t : State => devCause t = true ∧ (∀ p : Pos, t.welt.cmdOpen[p] = false ∧ ∀ sd, (getLane t sd p).tx.on = false) ∧
      ∀ l, (getLink t l).join = .forced
    let frame := fun t : State => sameBut [.pins, .power, .boot, .welt, .evt, .heel, .lanes, .links, .last, .store, .imc, .units, .nvm, .cal, .free] s t
    (∃ t, exec (.weltCauseArises .vddsw) s = .next t ∧ shut t ∧ frame t ∧ t.pins = s.pins ∧ t.boot = s.boot ∧
      unbanded s t = { s.power with pumpReady := false }) ∧
    (∃ t, exec (.railInvalid .vddsw) s = .next t ∧ shut t ∧ frame t ∧ t.pins = s.pins ∧ t.boot = s.boot ∧
      unbanded s t = { s.power with
        valid := vput s.power.valid 7 false, outside := vput s.power.outside 7 true, pumpReady := false
        told := if s.boot.inReset then s.power.told else vput s.power.told 7 true }) ∧
    (∀ c, c = .weltCauseArises .bypN ∨ c = .bypNPulse → ∃ t, exec c s = .next t ∧ shut t ∧ frame t ∧
      unbanded s t = s.power ∧ t.boot = s.boot ∧ t.pins = { s.pins with bypN := false }) ∧
    (s.boot.inReset = false → ∃ t, exec .testEnHigh s = .next t ∧ shut t ∧
      sameBut [.pins, .power, .boot, .welt, .twb, .evt, .heel, .lanes, .links, .last, .store, .imc, .units, .nvm, .cal, .free] s t ∧
      unbanded s t = s.power ∧ t.twb = { s.twb with reading := none, ack := false } ∧
      t.boot = { s.boot with testMode := true } ∧ t.pins = { s.pins with testEn := true }) ∧
    (∀ w, w ∈ [WeltCause.devAside, .thermal, .testEn, .standby] → devCause s = true →
      ∃ t, exec (.weltCauseArises w) s = .next t ∧ shut t ∧ frame t ∧ unbanded s t = s.power ∧ t.boot = s.boot ∧
        t.pins = s.pins)

/-- After a cause of one link or position arises, a cause clears, the charge pump is ready, or a rail becomes valid, every position is commanded open exactly where it has no cause of Table 2-1; VDDSW's source counts as good only while VDDSW is valid, BYP_N reads high again, and VIO starts at its 1.8 V level each time it becomes valid. -/
def Obligations.WeltFollowsItsCauses : Prop :=
  ∀ s : State,
    let frame := fun t : State => sameBut [.pins, .power, .welt, .evt, .heel, .lanes, .links, .last, .store, .imc, .units, .nvm, .cal, .free] s t
    (∀ w, w ∈ [WeltCause.unnamed, .bypassMode, .linkAside, .notJoined] →
      ∃ t, exec (.weltCauseArises w) s = .next t ∧ weltFollows t ∧ frame t ∧ unbanded s t = s.power ∧ t.pins = s.pins) ∧
    (∀ w, w ∈ [WeltCause.devAside, .thermal, .standby, .unnamed, .bypassMode, .linkAside, .notJoined] →
      ∃ t, exec (.weltCauseClears w) s = .next t ∧ weltFollows t ∧ frame t ∧ unbanded s t = s.power ∧ t.pins = s.pins) ∧
    (∀ c, c = .weltCauseClears .vddsw ∨ c = .chargePumpReady → ∃ t, exec c s = .next t ∧ weltFollows t ∧ frame t ∧
      unbanded s t = { s.power with pumpReady := s.power.valid[7] } ∧ t.pins = s.pins) ∧
    (∃ t, exec (.weltCauseClears .bypN) s = .next t ∧ weltFollows t ∧ frame t ∧ unbanded s t = s.power ∧
      t.pins = { s.pins with bypN := true }) ∧
    (∀ r, ∃ t, exec (.railValid r) s = .next t ∧ weltFollows t ∧ frame t ∧ t.pins = s.pins ∧
      unbanded s t = { s.power with
        valid := vput s.power.valid (railIx r) true, vio33 := s.power.vio33 && (r != .vio || s.power.valid[5]) })

/-- Where a position is commanded open, the confirmation makes it sensed open, ends a detection of it, and turns both its transmitters on; nothing else changes unless a link that names it is JOINING with every position of it sensed open, which then is JOINED. A position that is not commanded open stays as it was. -/
def Obligations.OpenConfirmedTurnsTransmittersOn : Prop :=
  ∀ (s : State) (p : Pos), s.settled = true →
    (s.welt.cmdOpen[p] = false → exec (.weltOpenConfirmed p) s = .next s) ∧
    (s.welt.cmdOpen[p] = true →
      let on := fun x : Lane => { x with tx := { x.tx with on := true } }
      let welt := { s.welt with
        closed := vput s.welt.closed p false, mismatch := vput s.welt.mismatch p false, held := vput s.welt.held p false }
      ((∀ l ∈ linksAt s.last.working p, (getLink s l).join ≠ .joining ∨ ∃ q ∈ linkPoss s.last.working l, q ≠ p ∧ s.welt.closed[q] = true) →
        ∃ t, exec (.weltOpenConfirmed p) s = .next t ∧ t.welt = welt ∧ sameBut [.welt, .lanes] s t ∧
          (∀ sd, getLane t sd p = on (getLane s sd p)) ∧ ∀ sd q, q ≠ p → getLane t sd q = getLane s sd q) ∧
      ∀ l, linksAt s.last.working p = [l] → (getLink s l).join = .joining →
        (∀ q ∈ linkPoss s.last.working l, q ≠ p → s.welt.closed[q] = false) →
        (isPart s l = false → ∃ t, exec (.weltOpenConfirmed p) s = .next t ∧ t.welt = welt ∧ (getLink t l).join = .joined ∧
          (∀ sd, getLane t sd p = on (getLane s sd p)) ∧ sameBut [.welt, .lanes, .links] s t) ∧
        (isPart s l = true → (getLink s l).st = .notTraining → ∃ t, exec (.weltOpenConfirmed p) s = .next t ∧
          (getLink t l).join = .joined ∧ (getLink t l).st = if (getLink s l).disable then .disabled else .detect))

/-- A rail back in its range, the VIO threshold, RESET_N seen high again and TEST_EN low change the one level that they name. A rail out of its range is noted; outside reset, where this has not been told since the rail was last in its range (the model's choice, log entry 56), FAULTSRC.SUPPLY is set too and the event 0x0C06 is logged with the rails' bits. -/
def Obligations.SupplyEventsAreNoted : Prop :=
  ∀ (s : State) (r : Rail), s.settled = true →
    let out := { s.power with outside := vput s.power.outside (railIx r) true }
    let tells := !s.boot.inReset && !s.power.told[railIx r]
    exec (.supplyInWindow r) s = .next { s with power := { s.power with
      outside := vput s.power.outside (railIx r) false, told := vput s.power.told (railIx r) false } } ∧
    exec .vioSplitThreshold s = .next { s with power := { s.power with vio33 := s.power.vio33 || s.power.valid[5] } } ∧
    exec (.weltCauseClears .reset) s = .next { s with pins := { s.pins with resetN := true } } ∧
    exec (.weltCauseClears .testEn) s = .next { s with pins := { s.pins with testEn := false } } ∧
    (tells = false → exec (.supplyOutOfWindow r) s = .next { s with power := out }) ∧
    (tells = true → ∃ t, exec (.supplyOutOfWindow r) s = .next t ∧
      t.power = { out with told := vput s.power.told (railIx r) true } ∧ t.evt.supply = true ∧ logged s t 0x0C06 0 [railBits t] ∧ sameBut (.power :: byEvent) s t ∧
      linksButOut s t)

/-- Outside reset and Standby a trip of the Heel's watchdog steps the trip count (it saturates), notes the time, drops the patch where the last trip was less than one second ago, holds FAULTSRC.HEEL_WDOG, logs 0x0C07 with the count, and restarts the Heel: no restart stays due, no evaluation of a recalibration stays listed, no Mover runs a Job of the Heel's own. In reset or Standby nothing happens. -/
def Obligations.WatchdogTripRestartsTheHeel : Prop :=
  ∀ s : State,
    (s.settled = true → (s.boot.inReset || s.dev.standby) = true → exec .heelWatchdogTrip s = .next s) ∧
    (s.boot.inReset = false → s.dev.standby = false → ∃ t, exec .heelWatchdogTrip s = .next t ∧
      t.heel = { trips := satInc s.heel.trips, lastTrip := some s.time.elapsed
                 noPatch := s.heel.noPatch || s.heel.lastTrip.any fun u => s.time.elapsed - u < 20000000000
                 restartDue := false } ∧
      t.evt.heelWdog = true ∧ t.cal.dueList = [] ∧ (∀ m j, getUnit t (.mover m) = some j → j.wq ≠ none) ∧
      (∃ more, t.nvm.logWait = s.nvm.logWait ++ ⟨s.evt.seq, 0x0C07, 0, s.time.dtime, padTo 12 [satInc s.heel.trips]⟩ :: more) ∧
      sameBut [.evt, .heel, .lanes, .links, .store, .imc, .units, .nvm, .cal, .free] s t ∧ linksButOut s t)

/-- Outside reset, a position whose sensed state differs from the commanded one holds FAULTSRC.WELT, is logged as 0x0C03 with the position and 1 for stuck closed or 2 for stuck open, and reads as sensed; stuck open it is held, stuck closed every link that names it has LNKCTL.ASIDE set. A report that agrees with the command, or of a mismatch that stands already, changes nothing. -/
def Obligations.WeltMismatchActs : Prop :=
  ∀ (s : State) (p : Pos) (o : Bool), s.settled = true →
    let welt := { s.welt with
      mismatch := vput s.welt.mismatch p true, closed := vput s.welt.closed p (!o), held := vput s.welt.held p (o || s.welt.held[p]) }
    let record : EvRec := ⟨s.evt.seq, 0x0C03, 0, s.time.dtime, padTo 12 [BitVec.ofNat 8 p.val, if o then 2 else 1]⟩
    ((s.boot.inReset = true ∨ s.welt.mismatch[p] = true ∨ s.welt.cmdOpen[p] = o) → exec (.weltMismatch p o) s = .next s) ∧
    (s.boot.inReset = false → s.welt.mismatch[p] = false → s.welt.cmdOpen[p] ≠ o → ∃ t, exec (.weltMismatch p o) s = .next t ∧ t.evt.weltBad = true ∧
      (∃ more, t.nvm.logWait = s.nvm.logWait ++ record :: more) ∧
      ((o = true ∨ linksAt s.last.working p = []) → t.welt = welt ∧ sameBut (.welt :: byEvent) s t ∧ linksButOut s t) ∧
      (o = false → ∀ l ∈ linksAt s.last.working p, (getLink t l).aside = true))

/-- Outside reset and Standby, a powered PLL in lock (that the links' sleep does not power down) that loses it reads UNLOCK, holds FAULTSRC.PLL_LOSS and is logged as 0x0C04 with its number. For the core PLL DEVCTL.ASIDE is set as well: a device-wide cause is present, every position is commanded closed and every link is FORCED. A successful relock attempt clears UNLOCK and changes no other PLL's VCO band; a failed one, or one of a PLL in lock, changes nothing. -/
def Obligations.PllLossIsReported : Prop :=
  ∀ s : State,
    let gone := fun q : PllNo => { s.power with unlock := vput s.power.unlock q true }
    let lost := fun (q : PllNo) (t : State) => unbanded s t = gone q ∧ t.evt.pllLoss = true ∧
      ∃ more, t.nvm.logWait = s.nvm.logWait ++ ⟨s.evt.seq, 0x0C04, 0, s.time.dtime, padTo 12 [BitVec.ofNat 8 q.val]⟩ :: more
    (s.boot.inReset = false → s.dev.standby = false →
      (s.power.unlock[4] = false → ∃ t, exec .corePllLoss s = .next t ∧ lost 4 t ∧ t.dev = { s.dev with aside := true } ∧
        devCause t = true ∧ (∀ p : Pos, t.welt.cmdOpen[p] = false) ∧ (∀ l, (getLink t l).join = .forced) ∧
        sameBut [.power, .dev, .welt, .evt, .heel, .lanes, .links, .last, .store, .imc, .units, .nvm, .cal, .free] s t) ∧
      ∀ q : SidePll, s.last.working.pllfam[q] ≠ .off → s.power.unlock[q.castSucc] = false → pllDown s q = false →
        ∃ t, exec (.sidePllLoss q) s = .next t ∧ lost q.castSucc t ∧
          sameBut [.power, .welt, .evt, .heel, .lanes, .links, .last, .store, .imc, .units, .nvm, .cal, .free] s t) ∧
    ∀ q : PllNo,
      (s.power.unlock[q] = true → ∃ t, exec (.pllRelockAttempt q true) s = .next t ∧
        unbanded s t = { s.power with unlock := vput s.power.unlock q false } ∧
        (∀ x : SidePll, x.castSucc ≠ q → t.power.band[x] = s.power.band[x]) ∧
        sameBut [.power, .evt, .heel, .lanes, .links, .store, .imc, .units, .nvm, .cal, .free] s t) ∧
      (s.settled = true → ∀ ok, (ok = false ∨ s.power.unlock[q] = false) → exec (.pllRelockAttempt q ok) s = .next s)

/-- Outside reset a sample makes the hottest sensor the last one; each of the thresholds 115, 120, 125 and 135 °C is held crossed as two samples in a row lie on one side of it. The warning comes as 120 °C is newly crossed and goes as 115 °C is no longer, the shutdown comes as 135 °C is newly crossed; then every position is commanded closed and every link FORCED. A sample that raises neither changes nothing else; in reset none is taken. -/
def Obligations.ThermalSampleHoldsThresholds : Prop :=
  ∀ (s : State) (m : Temps),
    (s.settled = true → s.boot.inReset = true → exec (.thermalSample m) s = .next s) ∧
    (s.boot.inReset = false →
      let above := Vector.ofFn fun i : Fin 4 => heldAbove s.therm.above[i] s.therm.last (hottest m) thermLimits[i]
      let warns := above[1] && !s.therm.above[1] && !s.therm.warn
      let shuts := above[3] && !s.therm.above[3] && !s.therm.shutdown
      let therm : Thermal :=
        { last := some (hottest m), samples := min 2 (s.therm.samples + 1), above := above
          warn := (s.therm.warn || warns) && (above[0] || !s.therm.above[0]), shutdown := s.therm.shutdown || shuts }
      (∃ t, exec (.thermalSample m) s = .next t ∧ t.therm = therm ∧ unbanded s t = s.power ∧
        sameBut [.power, .welt, .therm, .evt, .heel, .lanes, .links, .last, .store, .imc, .units, .nvm, .cal, .free] s t ∧
        (shuts = true → devCause t = true ∧ (∀ p : Pos, t.welt.cmdOpen[p] = false) ∧ ∀ l, (getLink t l).join = .forced)) ∧
      (s.settled = true → warns = false → shuts = false → exec (.thermalSample m) s = .next { s with therm := therm }))

/-- Where the part is in reset with every rail valid that power-on reset watches, its release samples the straps, leaves boot phase 0x0 with nothing done, the core PLL out of lock only where there is no REFCLK, and every position commanded as its causes ask; otherwise the release changes nothing. In boot phase 0x3 the end of boot sets phase 0x4 and BOOT_DONE; where no device-wide cause is present no link stays FORCED, and positions follow their causes. -/
def Obligations.ReleaseAndEndOfBoot : Prop :=
  ∀ s : State,
    (∀ st : Straps, s.settled = true → (s.boot.inReset && railsValid s) = false → exec (.resetRelease st) s = .next s) ∧
    (∀ st : Straps, s.boot.inReset = true → railsValid s = true → ∃ t, exec (.resetRelease st) s = .next t ∧
      t.boot = { State.reset.boot with inReset := false, addr := st.addr, bootsel := st.bootsel, testMode := st.testEn } ∧
      t.pins = { s.pins with resetN := true, testEn := st.testEn, addr := st.addr, bootsel := st.bootsel, refclk := st.refclk } ∧
      unbanded s t = { s.power with unlock := vput (Vector.replicate 5 false) 4 (!st.refclk) } ∧ weltFollows t ∧
      sameBut [.pins, .power, .boot, .welt, .evt, .heel, .lanes, .links, .last, .store, .imc, .units, .nvm, .cal, .free] s t) ∧
    (s.settled = true → (booting s && s.boot.phase == 3) = false → exec .bootDone s = .next s) ∧
    (booting s = true → s.boot.phase = 3 → ∃ t, exec .bootDone s = .next t ∧ t.boot = { s.boot with phase := 4, done := true } ∧
      weltFollows t ∧ (devCause s = false → ∀ l, (getLink t l).join ≠ .forced) ∧
      unbanded s t = s.power ∧ sameBut [.power, .boot, .welt, .evt, .heel, .lanes, .links, .last, .store, .imc, .units, .nvm, .cal, .free] s t)

/-- While the external image is read (boot controller mode), each transfer puts boot phase 0x1: no acknowledge at the start means EMPTY (0x02), later READ_FAIL (0x03), a timeout READ_FAIL; a header that reads erased means EMPTY, one that fails its own checks the code of the check, and any other joins the image. A lost arbitration steps ARB_LOST; the eighth ends the read with READ_FAIL. Outside that read neither changes anything. -/
def Obligations.EepromReadGoesOn : Prop :=
  ∀ s : State, s.settled = true →
    (readsEeprom s = false → (∀ r, exec (.eepromTransfer r) s = .next s) ∧ exec .arbitrationLost s = .next s) ∧
    (readsEeprom s = true →
      let ends := fun code : Byte =>
        ({ s with boot := { s.boot with phase := 1, eeprom := { s.boot.eeprom with result := some code } } } : State)
      let data := s.boot.eeprom.data
      exec (.eepromTransfer .nack) s = .next (ends (if data = [] then 0x02 else 0x03)) ∧
      exec (.eepromTransfer .timeout) s = .next (ends 0x03) ∧
      (∀ b, data = [] → allOnes16 ((b ++ List.replicate 64 0xFF).take 64) = true → exec (.eepromTransfer (.bytes b)) s = .next (ends 0x02)) ∧
      (∀ b code, data = [] → allOnes16 ((b ++ List.replicate 64 0xFF).take 64) = false →
        checkHeader ((b ++ List.replicate 64 0xFF).take 64) 65536 = some code → exec (.eepromTransfer (.bytes b)) s = .next (ends code)) ∧
      (∀ b, data ≠ [] → (data ++ b.take 256).length < leAt (data ++ b.take 256) 8 4 →
        exec (.eepromTransfer (.bytes b)) s = .next { s with boot := { s.boot with
          phase := 1
          eeprom := { s.boot.eeprom with data := (data ++ b.take 256).take (leAt (data ++ b.take 256) 8 4) } } }) ∧
      exec .arbitrationLost s = .next { s with boot := { s.boot with
        phase := 1, arbLost := s.boot.arbLost + 1
        eeprom := { s.boot.eeprom with result := if s.boot.arbLost = 7 then some 0x03 else s.boot.eeprom.result } } })

/-- With no source chosen yet and no external read going on, the selection sets boot phase 0x1 and takes one image as the working Last. An external image that is accepted is taken with source 4 and no fallback. Otherwise, of slots 1 and 2 as they are checked, the one good is taken, of two the one with the higher SEQ, of two with one SEQ slot 1 (its code then SEQ_TIE); with neither good slot 0 (source 1) is taken, and without that the ROM defaults (source 0), which always count as a fallback, as a bad external image or a bad user slot does. LASTBOOT holds the codes. Where a unit of a slot is indeterminate (R439) its check is a free value's and only the source is said. Elsewhere the command changes nothing. -/
def Obligations.SelectionTakesOneLast : Prop :=
  ∀ s : State,
    let due := booting s && s.boot.phase.toNat ≤ 1 && !chosen s && !readsEeprom s
    (s.settled = true → due = false → exec .lastSelection s = .next s) ∧
    (due = true → ∃ t, exec .lastSelection s = .next t ∧ t.boot.phase = 1 ∧ t.last.old = t.last.working ∧
      sameBut [.boot, .welt, .evt, .heel, .lanes, .links, .last, .store, .imc, .units, .nvm, .cal, .free] s t ∧
      (∀ code m, s.boot.bootsel = true → s.boot.eeprom.result = some code → accepted code = true →
        (bootResult (checkImage s.boot.eeprom.data 65536)).2 = some m →
        t.last.working = m ∧ t.boot.src = 4 ∧ t.boot.fallback = false ∧ t.last.eeprom = code) ∧
      (s.boot.bootsel = false ∨ (bootResult (checkImage s.boot.eeprom.data 65536)).2 = none →
        let r := fun k : Nat => (checkSlot s k).1
        let fb := s.boot.bootsel || slotBad (r 1).1 || slotBad (r 2).1
        let takes := fun (src : BitVec 3) (m : LastImg) (f : Bool) => t.boot.src = src ∧ t.last.working = m ∧ t.boot.fallback = f
        t.boot.src ∈ [0#3, 1, 2, 3] ∧ (t.boot.src = 0 → t.last.working = romDefaults ∧ t.boot.fallback = true) ∧
        ((∀ u, u < 12288 → s.nvm.cell u ≠ .torn) → t.last.slot2 = (r 2).1 ∧
          (∀ a b, (r 1).2 = some a → (r 2).2 = some b →
            (a.seq.toNat < b.seq.toNat → takes 3 b fb ∧ t.last.slot1 = (r 1).1) ∧
            (b.seq.toNat < a.seq.toNat → takes 2 a fb ∧ t.last.slot1 = (r 1).1) ∧
            (a.seq = b.seq → takes 2 a fb ∧ t.last.slot1 = 0x81)) ∧
          (∀ a, (r 1).2 = some a → (r 2).2 = none → takes 2 a fb ∧ t.last.slot1 = (r 1).1) ∧
          (∀ b, (r 1).2 = none → (r 2).2 = some b → takes 3 b fb ∧ t.last.slot1 = (r 1).1) ∧
          ((r 1).2 = none → (r 2).2 = none → t.last.slot1 = (r 1).1 ∧ t.last.slot0 = (r 0).1 ∧
            (∀ m, (r 0).2 = some m → takes 1 m fb) ∧ ((r 0).2 = none → takes 0 romDefaults true)))))

/-- In boot phase 0x1 with a Last chosen, phase 0x2 makes it the Last in force: every queue register holds the reset value with its record's mirror, the Windows and the sequencers are loaded from their records, and a fallback is logged as 0x0102 with the source. In phase 0x2, phase 0x3 calibrates: REXT_BAD as the measured resistance says, CALDONE, the time of the record noted, the ADC calibrates itself, and where neither copy of the record is good CAL_INVALID with a record pending. -/
def Obligations.BootAppliesAndCalibrates : Prop :=
  ∀ s : State,
    (s.settled = true → (booting s && s.boot.phase == 1 && chosen s) = false → exec .globalApply s = .next s) ∧
    (booting s = true → s.boot.phase = 1 → chosen s = true → ∃ t, exec .globalApply s = .next t ∧
      t.boot = { s.boot with phase := 2, applied := true } ∧
      (∀ q : WqNo, t.wqs[q] = { State.reset.wqs[q] with cfg := s.last.working.wqs[q] }) ∧
      (∀ m : CqNo, t.cqs[m] = { State.reset.cqs[m] with owner := s.last.working.cqs[m] }) ∧
      t.win = (loadWindows s).win ∧ t.tm = (loadPrograms s).tm ∧
      (s.boot.fallback = true → ∃ r ∈ t.nvm.logWait, r.code = 0x0102 ∧ r.data = padTo 12 [s.boot.src.setWidth 8]) ∧
      sameBut [.boot, .evt, .heel, .links, .store, .win, .imc, .wqs, .cqs, .nvm, .tm, .free, .lanes, .units, .cal] s t) ∧
    (∀ m, s.settled = true → (booting s && s.boot.phase == 2) = false → exec (.bootCalibration m) s = .next s) ∧
    (∀ m, s.settled = true → booting s = true → s.boot.phase = 2 → ∃ t, exec (.bootCalibration m) s = .next t ∧
      t.boot = { s.boot with phase := 3, calDone := true, calInvalid := t.cal.inUse.isNone } ∧
      t.cal.rextBad = (decide (m.rext < 19000) || decide (21000 < m.rext)) ∧ t.cal.lastSave = s.time.elapsed ∧
      t.cal.adcCal = true ∧ (t.cal.inUse = none → t.cal.aOk = false ∧ t.cal.bOk = false ∧ t.cal.pending = true) ∧
      unbanded s t = s.power ∧ sameBut [.power, .boot, .evt, .heel, .lanes, .links, .store, .imc, .units, .nvm, .tm, .cal, .free] s t)

/-- Where a record is due and the NVM engine has no Job and no erase, writing it ends what was pending. With a good check, into a sector that is not retired, the copy written becomes the one in use and the time is noted; otherwise CALSTAT.FAIL is set, the copy in use stays and 0x0602 names the copy. Where no record is due nothing happens. -/
def Obligations.CalrecWriteSwitchesCopies : Prop :=
  ∀ (s : State) (ok : Bool), s.settled = true →
    let b := s.cal.inUse == some false
    let good := ok && !(s.nvm.head (if b then 49 else 48)).retired
    ((recordDue s && engineIdle s) = false → exec (.calrecWrite ok) s = .next s) ∧
    (recordDue s = true → engineIdle s = true → ∃ t, exec (.calrecWrite ok) s = .next t ∧
      t.cal = (if good then { s.cal with pending := false, save := false, inUse := some b, lastSave := s.time.elapsed }
        else { s.cal with pending := false, save := false, fail := true }) ∧
      (good = false → ∃ r ∈ t.nvm.logWait, r.code = 0x0602 ∧ r.data = padTo 12 [if b then 1 else 0]) ∧
      sameBut (.cal :: byEvent) s t ∧ linksButOut s t)

/-- Each register's address decodes to that register and its block's permission bit, two registers never share an address, an address and the same address with its bits [1:0] cleared name the same thing, and the three windows behind the registers begin at 0x01000000 (Store, physical), 0x02000000 (Store, virtual) and 0x04000000 (NVM). -/
def Obligations.RegisterMapIsOneToOne : Prop :=
  (∀ r : Reg, decodeAddr (regAddr r) = .reg r (regBit r)) ∧ (∀ r q : Reg, regAddr r = regAddr q → r = q) ∧
  (∀ a b : Word, a.toNat / 4 = b.toNat / 4 → decodeAddr a = decodeAddr b) ∧
  (∀ n, n < 0x800000 → n % 4 = 0 → decodeAddr (BitVec.ofNat 32 (0x1000000 + n)) = .physical n) ∧
  (∀ n, n < 0x1000000 → n % 4 = 0 → decodeAddr (BitVec.ofNat 32 (0x2000000 + n)) = .virtual_ n) ∧
  (∀ n, n < 0x100000 → n % 4 = 0 → decodeAddr (BitVec.ofNat 32 (0x4000000 + n)) = .nvm n)

/-- A write that is not served changes nothing; a denied one is dropped and logged as 0x0702 with the address (TWBSTAT.DENIED set for the two-wire host); one to no block changes nothing, one to an island without power is dropped and logged as 0x0701, one to a reserved address or to the read-only NVM window changes nothing. A read goes the same way: denied or island off it returns all ones and changes no register field, to no block or a reserved address it returns zero. -/
def Obligations.AccessesAreCheckedInOrder : Prop :=
  ∀ (s : State) (c : Ctx) (a v : Word), s.settled = true →
    let host := if c = 1 then { s.twb with denied := true } else s.twb
    let gives := fun w : Word => ({ s with acc := { s.acc with rdata := vput s.acc.rdata c w } } : State)
    (served s c = false → exec (.regWrite c a v []) s = .next s ∧ exec (.regReadClear c a []) s = .next s) ∧
    (served s c = true → mayWrite s c a = false → ∃ t, exec (.regWrite c a v []) s = .next t ∧
      logged s t 0x0702 c (aData (alignedAddr a) 0 0) ∧ t.twb = host ∧ sameBut (.twb :: byEvent) s t ∧ linksButOut s t) ∧
    (served s c = true → mayRead s c a = false → ∃ t, exec (.regReadClear c a []) s = .next t ∧
      logged s t 0x0702 c (aData (alignedAddr a) 0 0) ∧ t.twb = host ∧ t.acc = (gives 0xFFFFFFFF).acc ∧
      sameBut (.acc :: .twb :: byEvent) s t ∧ linksButOut s t) ∧
    (served s c = true → mayWrite s c a = true → decodeAddr a ≠ .none → islandOff s (decodeAddr a).island = true →
      ∃ t, exec (.regWrite c a v []) s = .next t ∧
        logged s t 0x0701 c (aData (alignedAddr a) 0 0) ∧ sameBut byEvent s t ∧ linksButOut s t) ∧
    (served s c = true → mayRead s c a = true → decodeAddr a ≠ .none → islandOff s (decodeAddr a).island = true →
      ∃ t, exec (.regReadClear c a []) s = .next t ∧ logged s t 0x0701 c (aData (alignedAddr a) 0 0) ∧
        t.acc = (gives 0xFFFFFFFF).acc ∧ sameBut (.acc :: byEvent) s t ∧ linksButOut s t) ∧
    (served s c = true → (decodeAddr a = .none ∨ ∃ b i, decodeAddr a = .reserved b i ∧ islandOff s i = false) →
      (mayWrite s c a = true → exec (.regWrite c a v []) s = .next s) ∧
      (mayRead s c a = true → exec (.regReadClear c a []) s = .next (gives 0))) ∧
    (∀ off, served s c = true → mayWrite s c a = true → decodeAddr a = .nvm off → islandOff s .nvm = false →
      exec (.regWrite c a v []) s = .next s)

/-- A read that reaches a register returns its value to the reading context, keeps the upper half of DTIME for it only where the register is DTIME_LO, and changes nothing else; TMMISS is cleared by its read, and so are the counts of the one IMCCNT that is read. -/
def Obligations.RegisterReadClearsOnlyItsCounts : Prop :=
  ∀ (s : State) (c : Ctx) (r : Reg), s.settled = true → shows s c r →
    let acc : AccSt := { s.acc with
      rdata := vput s.acc.rdata c (regValue s c r)
      hiHeld := vput s.acc.hiHeld c (if r = .dtimeLo then some (s.time.dtime.extractLsb' 32 32) else none) }
    (r ≠ .tmmiss → (∀ sd, r ≠ .imccnt sd) → exec (.regReadClear c (regAddr r) []) s = .next { s with acc := acc }) ∧
    (r = .tmmiss → exec (.regReadClear c (regAddr r) []) s =
      .next { s with acc := acc, tm := { s.tm with miss := Vector.replicate 2 0 } }) ∧
    (∀ sd, r = .imccnt sd → ∃ t, exec (.regReadClear c (regAddr r) []) s = .next t ∧ t.acc = acc ∧ regValue t c r = 0 ∧
      (∀ sd', sd' ≠ sd → imccntWord t sd' = imccntWord s sd') ∧ sameBut [.acc, .imc] s t)

/-- A read of DTIME_LO latches the whole 64-bit value for the reading context: it returns the low half and keeps the upper half for that context; the next read of DTIME_HI by that context returns the latched upper half; a context whose previous register read was not DTIME_LO reads the live upper half from DTIME_HI, and any other register read ends what was kept. -/
def Obligations.DtimeHalvesAreReadTogether : Prop :=
  ∀ (s : State) (c : Ctx), s.settled = true →
    (shows s c .dtimeLo → exec (.dtimeLoRead c) s = .next { s with acc := { s.acc with
      rdata := vput s.acc.rdata c (s.time.dtime.extractLsb' 0 32)
      hiHeld := vput s.acc.hiHeld c (some (s.time.dtime.extractLsb' 32 32)) } }) ∧
    (shows s c .dtimeHi → exec (.regReadClear c (regAddr .dtimeHi) []) s = .next { s with acc := { s.acc with
      rdata := vput s.acc.rdata c ((s.acc.hiHeld[c]).getD (s.time.dtime.extractLsb' 32 32)), hiHeld := vput s.acc.hiHeld c none } }) ∧
    (∀ r, r ≠ .dtimeLo → shows s c r → ∃ t, exec (.regReadClear c (regAddr r) []) s = .next t ∧ t.acc.hiHeld[c] = none)

/-- A write that reaches one of the plain read-write registers sets its fields to the written bits (each reads back under the register's mask) and changes no other register of its group: the NVM wear selector, DTRATE, the halves of DTLOAD, the user pattern of a lane, a telemetry threshold, TWBCTL, IMCCTL and EVTMASK, whose BOOT bit always reads 1. -/
def Obligations.PlainRegistersHoldWhatIsWritten : Prop :=
  ∀ (s : State) (c : Ctx) (r : Reg) (v : Word), s.settled = true → opens s c r →
    let wr := exec (.regWrite c (regAddr r) v []) s
    (r = .nvmwsel → wr = .next { s with nvm := { s.nvm with wsel := v.extractLsb' 0 8 } }) ∧
    (r = .dtrate → wr = .next { s with time := { s.time with trim := v.extractLsb' 0 16 } } ∧ exec (.dtrateWrite c v) s = wr) ∧
    (r = .dtloadLo → wr = .next { s with time := { s.time with load := s.time.load.extractLsb' 32 32 ++ v } }) ∧
    (r = .dtloadHi → wr = .next { s with time := { s.time with load := v ++ s.time.load.extractLsb' 0 32 } }) ∧
    (r = .twbctl → wr = .next { s with twb := { s.twb with
      toutDis := v.getLsbD 0, stretchDis := v.getLsbD 1, idleMs := v.extractLsb' 8 8 } }) ∧
    (r = .imcctl → wr = .next { s with imc := { s.imc with
      notifyA := v.getLsbD 0, notifyB := v.getLsbD 1, notifyMs := v.extractLsb' 8 8 } }) ∧
    (∀ k, r = .tmthresh k → ∃ t, wr = .next t ∧ regValue t c r = v ∧ (∀ j, j ≠ k → t.tm.ch[j] = s.tm.ch[j]) ∧ sameBut [.tm] s t) ∧
    (∀ sd p, r = .lnprbsusr sd p → ∃ t, wr = .next t ∧ regValue t c r = v &&& 0xFFFFF ∧ otherLanes s t sd p ∧ sameBut [.lanes] s t) ∧
    (r = .evtmask → ∃ t, wr = .next t ∧ regValue t c r = (v &&& 0x03FF0FFE) ||| 1 ∧ sameBut [.evt, .imc, .links, .free] s t)

/-- Right after reset every register of Tables 18-3 to 18-6 shows, to every context, the word of its Reset column: zero but for those named here. -/
def Obligations.RegistersShowTheirResetWords : Prop :=
  ∀ (c : Ctx) (r : Reg), regValue State.reset c r = match r with
    | .devid => 0x1162056B
    | .evtmask => 0x01FF0FFF
    | .syncctl => 8
    | .lnkstat _ => 0x3000000D
    | .lnstat _ _ => 0x4000
    | .lneq _ _ => 0x80108
    | .lntxdrv _ _ => 0x10100010
    | .lnprbs _ _ => 4
    | .lnprbsusr _ _ => 0x55555
    | .lncal _ _ => 0x8210
    | .cqctl _ => 0x40
    | .cqstat _ => 0x10000
    | .ctxstat => 0xFF
    | .nvmlog => 0x40800000
    | .tmch _ => 0x10000
    | .tmthresh _ => 0x7FFF8000
    | .twbctl => 0x6400
    | .twbstat => 1
    | .imcctl => 0xA00
    | _ => 0

/-- A timer trigger of a sequencer with TRIG timer, outside reset and Standby: off, it is ignored; on HOLD it is dropped and steps TMMISS; idle, a sequence of the program begins (and takes the ADC where that is idle); running, it is held where the policy is hold and none is held, else dropped, which steps TMMISS. A write of TMSEQCTL with RESTART sets HOLD as written and no other field (DEDUCED, log entry 11). -/
def Obligations.SequencersTakeTheirTriggers : Prop :=
  ∀ (s : State) (n : SeqNo), s.settled = true →
    let q := s.tm.seqrs[n]
    let put := fun x : SeqrSt => vput s.tm.seqrs n x
    let fires := !(s.boot.inReset || s.dev.standby) && q.prog.trig == 0 && q.prog.on
    let missed : State := { s with tm := { s.tm with miss := vput s.tm.miss n (satInc s.tm.miss[n]) } }
    (fires = false → exec (.sequencerTimerTrigger n) s = .next s) ∧
    (fires = true → q.hold = true → exec (.sequencerTimerTrigger n) s = .next missed) ∧
    (fires = true → q.hold = false → q.running = false → exec (.sequencerTimerTrigger n) s = .next { s with tm := { s.tm with
      seqrs := put { q with cur := q.prog, running := true, slot := 0 }
      conv := s.tm.conv.or (some n), outs := if s.tm.conv.isNone then 0 else s.tm.outs } }) ∧
    (fires = true → q.hold = false → q.running = true → exec (.sequencerTimerTrigger n) s =
      .next (if q.prog.policy && !q.pend then { s with tm := { s.tm with seqrs := put { q with pend := true } } }
        else missed)) ∧
    (∀ c v, opens s c (.tmseqctl n) → exec (.tmseqctlRestart c n v) s =
      .next { s with tm := { s.tm with seqrs := put { q with hold := v.getLsbD 9 } } })

/-- No output counts in reset or in Standby; the first two after a slot begins are not settled; the third ends the slot, without a sample while the ADC calibrates itself. Else it becomes the value of the slot's channel, which is not stale any more and steps its sample count; HI and LO are set beyond the thresholds and go only 8 codes inside them, a value beyond sets the channel's ALARM bit, and a flag newly set is logged as 0x0B01. No other channel changes, but that all are stale where T0 has moved by 10 °C since the ADC last calibrated itself: then it does again. -/
def Obligations.DecimatorOutputsFillTheirChannel : Prop :=
  ∀ (s : State) (v : BitVec 16), s.settled = true →
    let dead := s.dev.standby || s.boot.inReset
    (dead = true → exec (.decimatorOutput v) s = .next s) ∧
    (dead = false → s.tm.outs < 2 → exec (.decimatorOutput v) s = .next { s with tm := { s.tm with outs := s.tm.outs + 1 } }) ∧
    (dead = false → ¬ s.tm.outs < 2 → s.tm.conv = none → exec (.decimatorOutput v) s =
      .next { s with tm := { s.tm with outs := 0, decReset := s.tm.decReset && s.cal.adcCal } }) ∧
    (∀ n, dead = false → ¬ s.tm.outs < 2 → s.tm.conv = some n → s.cal.adcCal = true → ∃ t, exec (.decimatorOutput v) s = .next t ∧
      t.tm.ch = s.tm.ch ∧ t.tm.alarm = s.tm.alarm ∧ t.tm.outs = 0 ∧ t.tm.lastConv = some n ∧ sameBut [.tm, .units] s t) ∧
    (∀ n (k : Fin 12), dead = false → s.cal.adcCal = false → ¬ s.tm.outs < 2 → s.tm.conv = some n →
      (s.tm.seqrs[n].cur.chan.toList.getD s.tm.seqrs[n].slot 0xFF).toNat = k.val →
      let x := v.toInt
      let lo := s.tm.ch[k].lim.1.toInt
      let hi := s.tm.ch[k].lim.2.toInt
      let out : TmCh := { s.tm.ch[k] with
        value := v, stale := false, sample := s.tm.ch[k].sample + 1
        hi := decide (hi < x) || (s.tm.ch[k].hi && decide (hi - 8 < x)), lo := decide (x < lo) || (s.tm.ch[k].lo && decide (x < lo + 8)) }
      let drifts := adcDrifted { s with tm := { s.tm with ch := vput s.tm.ch k out } }
      ∃ t, exec (.decimatorOutput v) s = .next t ∧ t.tm.lastConv = some n ∧ t.tm.decReset = false ∧ t.cal.adcCal = drifts ∧
        t.tm.ch = (if drifts then (vput s.tm.ch k out).map fun x => { x with stale := true } else vput s.tm.ch k out) ∧
        t.tm.alarm = (if hi < x ∨ x < lo then s.tm.alarm ||| (1#12 <<< k.val) else s.tm.alarm) ∧
        (hi < x ∧ s.tm.ch[k].hi = false → ∃ r ∈ t.nvm.logWait, r.code = 0x0B01 ∧
          r.data = padTo 12 ([BitVec.ofNat 8 k.val, 0] ++ bytesLE 2 v.toNat ++ [1])) ∧
        sameBut (.tm :: byEnd) s t)

/-- LOAD_NOW sets LOAD_ARM and SYNC_DIS as written, loads DTIME from DTLOAD, clears its fraction, sets LOADED and logs 0x0B02; where a SYNC edge has loaded in the same instant it loads nothing more and clears LOAD_ARM. A SYNC edge that is seen loads the same where LOAD_ARM is set (and clears that; one load where LOAD_NOW has made it in the same instant), captures DTIME and steps EDGES; outside Standby it triggers each armed capture whose TRIG asks for it with lane 0xFF, marks every channel stale, sets SYNC_SEEN and, unless the ADC calibrates itself, restarts the decimator. Disabled or in reset it does nothing. -/
def Obligations.DtimeIsLoadedAndCaptured : Prop :=
  ∀ s : State, s.settled = true →
    (∀ c v, opens s c .syncctl → s.time.edgeAt = some s.time.elapsed → exec (.dtimeLoadNow c v) s = .next { s with
      time := { s.time with loadArm := false, syncDis := v.getLsbD 2, loaded := s.time.loaded && !v.getLsbD 4 } }) ∧
    (∀ c v, opens s c .syncctl → s.time.edgeAt ≠ some s.time.elapsed → ∃ t, exec (.dtimeLoadNow c v) s = .next t ∧
      t.time = { s.time with
        loadArm := v.getLsbD 0, syncDis := v.getLsbD 2, loaded := true, dtime := s.time.load, frac := 0
        nowAt := some s.time.elapsed } ∧
      t.evt.lastCode = (if ringPoisoned s (bytesLE 8 s.time.dtime.toNat ++ zeros 4 ++ bytesLE 8 s.time.load.toNat) = [] then 0x0B02
        else 0x0804) ∧ sameBut (.time :: byEvent) s t ∧ linksButOut s t) ∧
    ((s.time.syncDis || s.boot.inReset) = true → exec .syncEdge s = .next s) ∧
    ((s.time.syncDis || s.boot.inReset) = false → ∃ t, exec .syncEdge s = .next t ∧
      t.time = (if s.time.loadArm && s.time.nowAt != some s.time.elapsed then { s.time with
          loadArm := false, loaded := true, dtime := s.time.load, frac := 0, sync := s.time.load, edges := s.time.edges + 1
          edgeAt := some s.time.elapsed }
        else { s.time with loadArm := false, sync := s.time.dtime, edges := s.time.edges + 1 }) ∧
      (s.dev.standby = true → t.tm = s.tm ∧ t.units = s.units) ∧
      (∀ u, (∀ sd, u ≠ .cap sd) → getUnit t u = getUnit s u) ∧
      (s.dev.standby = false → ∀ sd j l arm rows now buf, getUnit s (.cap sd) = some j → j.prog = .cap l arm rows now none buf →
        j.result = none → j.entry.u8 0x14 = 4 →
        getUnit t (.cap sd) = some { j with prog := .cap l arm rows now (some (rows, 0xFF, t.time.dtime)) buf }) ∧
      (s.dev.standby = false → t.tm.syncSeen = true ∧ t.tm.ch = s.tm.ch.map (fun x => { x with stale := true }) ∧
        (s.cal.adcCal = false → t.tm.outs = 0 ∧ t.tm.decReset = true)) ∧
      sameBut ([.time, .tm, .units] ++ byEvent) s t ∧ linksButOut s t)

/-- GO (without SAVE) is refused for a position that does not exist or is not evaluated, and while another request is held; for a unit that is due or running already it is accepted with nothing to do, else it is held as the host's request. SAVE (without GO) is refused while REXT is bad, else a record becomes due. CALSTAT.REFUSED says which; nothing else changes. -/
def Obligations.CalcmdHoldsOneRequest : Prop :=
  ∀ (s : State) (c : Ctx) (v : Word), s.settled = true → opens s c .calcmd →
    let d := if v.getLsbD 5 then Dir.BA else .AB
    let cal := fun x : CalSt => ({ s with cal := x } : State)
    (v.getLsbD 7 = false →
      ((∀ q : Pos, q.val = (v.extractLsb' 0 5).toNat → evaluated s q = false) →
        exec (.calcmdGo c v) s = .next (cal { s.cal with refused := true })) ∧
      (∀ q : Pos, q.val = (v.extractLsb' 0 5).toNat → evaluated s q = true → exec (.calcmdGo c v) s = .next (cal
        (if unitDue s q d then { s.cal with refused := false }
        else if s.cal.host.isSome then { s.cal with refused := true } else { s.cal with host := some (q, d), refused := false })))) ∧
    (v.getLsbD 6 = false → exec (.calcmdSave c v) s = .next (cal
      (if s.cal.rextBad then { s.cal with refused := true } else { s.cal with save := true, pending := true, refused := false })))

/-- With nothing being recalibrated and no spare standing in, an evaluation lists the units that are due (one listed before stays while a sensor is STALE) and starts the first that need not wait: in idle full mode where neither end carries traffic. The last step of an idle full recalibration ends it and notes the time at its receiver; that of an in-place one leaves its figure to be checked. An abort puts the receiver's and the transmitter's trims back (by ramps in place), ends the recalibration and logs 0x0604. The ADC's own calibration makes every channel stale; its end restarts the decimator. -/
def Obligations.RecalibrationRunsItsCourse : Prop :=
  ∀ s : State, s.settled = true →
    let quiet := ∀ l n d, (getSpare s l n d).code ≠ .standin
    let u := (s.cal.curPos, s.cal.curDir)
    ((!s.boot.done || s.dev.standby) = true → exec .recalEvaluation s = .next s) ∧
    ((!s.boot.done || s.dev.standby) = false → s.cal.busy = false → s.cal.recal = none → quiet →
      let e := evaluateUnits s
      (∀ x, x ∈ e.cal.dueList ↔ dueNow e x = true ∨ (x ∈ s.cal.dueList ∧ stillDue e x = true)) ∧
      ((∀ x ∈ e.cal.dueList, standinWaits e x = true) → exec .recalEvaluation s = .next e) ∧
      (∀ x, e.cal.dueList.find? (fun x => !standinWaits e x) = some x → idleUnit e x.1 x.2 = true →
        exec .recalEvaluation s = .next { stillUnit e x.1 x.2 with cal := { e.cal with
          busy := true, curPos := x.1, curDir := x.2, recal := some (recalFor e x.1 x.2 3 .trimming)
          dueList := e.cal.dueList.filter (· != x), host := if e.cal.host == some x then none else e.cal.host } })) ∧
    (s.cal.recal = none → ∀ b, exec (.recalStep b) s = .next s) ∧
    (∀ r, s.cal.recal = some r → r.stage = .trimming →
      exec (.recalStep false) s = .next s ∧
      (r.mode = 2 → exec (.recalStep true) s =
        .next { stillUnit s u.1 u.2 with cal := { s.cal with recal := some { r with stage := .checking } } }) ∧
      (r.mode = 3 → s.cal.dueList = [] → ∃ t, exec (.recalStep true) s = .next t ∧
        t.cal = { s.cal with busy := false, recal := none } ∧
        (getLane t u.2.rxSide u.1).cal.recalAt = s.time.elapsed ∧ (getLane t u.2.rxSide u.1).cal.schedAt = s.time.elapsed ∧
        sameBut [.lanes, .cal, .free] s t)) ∧
    (∀ r, s.cal.recal = some r → quiet → ∃ t, exec .recalAborted s = .next t ∧ t.cal = { s.cal with busy := false, recal := none } ∧
      t.evt.lastCode = (if ringPoisoned s [] = [] then 0x0604 else 0x0804) ∧
      (getLane t u.2.rxSide u.1).cal = (let c := (getLane s u.2.rxSide u.1).cal; if r.mode = 2 then c.rampBackRx r.rx else c.restoreRx r.rx) ∧
      (getLane t u.2.txSide u.1).cal = (let c := (getLane s u.2.txSide u.1).cal; if r.mode = 2 then c.rampBackTx r.tx else c.restoreTx r.tx) ∧
      sameBut ([.lanes, .cal] ++ byEvent) s t ∧ linksButOut s t) ∧
    exec .adcSelfCal s = .next (if s.boot.inReset || s.dev.standby then s else { s with
      cal := { s.cal with adcCal := true, adcT0 := s.tm.ch[0].value }, tm := { s.tm with ch := s.tm.ch.map fun x => { x with stale := true } } }) ∧
    exec .adcSelfCalEnd s = .next (if s.cal.adcCal then { s with
      cal := { s.cal with adcCal := false }, tm := { s.tm with outs := 0, decReset := true } } else s)

/-- A register-path access goes through the entry of its page: where the entry fails a check, a read returns all ones and the cause is latched in WINERR and logged as 0x0806; a write then changes no byte of the Store outside the ring. A read of a written line returns the word, lowest byte first, where its code is sound or has one bit wrong (which is then corrected and counted); of a line not written since its loss zero, with cause 5 and 0x0801; of a poisoned line, or of a word that cannot be corrected (its line is poisoned then), all ones with cause 4. A write changes its four bytes, and on a line that is not written or is poisoned zeroes the rest of the line and tags it; no other byte changes. -/
def Obligations.StoreIsReachedThroughWindows : Prop :=
  ∀ (s : State) (c : Ctx) (a : BitVec 24) (v : Word), s.settled = true → Memory.wf s.store = true → served s c = true → islandOff s .store = false →
    let va := a.toNat / 4 * 4
    let reads := fun w : Word => vput s.acc.rdata c w
    let latched := fun (t : State) (cause : BitVec 3) (wr : Bool) (at' : Nat) =>
      t.win = { s.win with regs := vput s.win.regs c (let w := s.win.regs[c]
        if w.latched then { w with more := true }
        else { w with latched := true, cause := cause, path := false, write := wr, va := BitVec.ofNat 24 at' }) }
    let whole := 0x2000000 + va
    let found := fun pa : Nat => if s.store.tagged (lineOf pa) && !s.store.poisoned (lineOf pa) then tabGet .clean (pa / 8) s.store.upsets else .clean
    (mayRead s c (virtualAt a) = true →
      (∀ cause, translate s c va false = .error cause → ∃ t, exec (.storeRead c a []) s = .next t ∧ t.acc.rdata = reads 0xFFFFFFFF ∧
        latched t cause false va ∧ logged s t 0x0806 c (aData whole 0 cause.toNat) ∧ sameBut ([.acc, .win] ++ byEvent) s t) ∧
      (∀ pa, translate s c va false = .ok pa →
        let shown := if c = 0 then pa else va
        let word := BitVec.ofNat 32 (natLE (s.store.bytesAt pa 4))
        (s.store.poisoned (lineOf pa) = true → ∃ t, exec (.storeRead c a []) s = .next t ∧ t.acc.rdata = reads 0xFFFFFFFF ∧
          latched t 4 false shown ∧ logged s t 0x0803 c (aData whole pa 4) ∧ sameBut ([.acc, .win] ++ byEvent) s t) ∧
        (s.store.poisoned (lineOf pa) = false → s.store.tagged (lineOf pa) = false → ∃ t, exec (.storeRead c a []) s = .next t ∧
          t.acc.rdata = reads 0 ∧ latched t 5 false shown ∧ logged s t 0x0801 c (aData whole pa 5) ∧ sameBut ([.acc, .win] ++ byEvent) s t) ∧
        (s.store.poisoned (lineOf pa) = false → s.store.tagged (lineOf pa) = true →
          (found pa = .clean → exec (.storeRead c a []) s = .next { s with acc := { s.acc with rdata := reads word } }) ∧
          (found pa = .corrected → ∃ t, exec (.storeRead c a []) s = .next t ∧ (heelLine (lineOf pa) = false → t.acc.rdata = reads word) ∧
            t.store.ce = satInc s.store.ce ∧ tabGet .clean (pa / 8) t.store.upsets = .clean ∧ RingOnly s t ∧ sameBut (.acc :: byEvent) s t) ∧
          (found pa = .uncorrectable → ∃ t, exec (.storeRead c a []) s = .next t ∧
            t.store.ueSeen = true ∧ t.store.ueAddr = BitVec.ofNat 23 (lineOf pa * 64) ∧
            (heelLine (lineOf pa) = false →
              t.acc.rdata = reads 0xFFFFFFFF ∧ t.store.poisoned (lineOf pa) = true ∧ latched t 4 false shown) ∧
            RingOnly s t ∧ sameBut ([.acc, .win] ++ byEnd) s t)))) ∧
    (mayWrite s c (virtualAt a) = true →
      (∀ cause, translate s c va true = .error cause → ∃ t, exec (.storeWrite c a v []) s = .next t ∧ latched t cause true va ∧
        logged s t 0x0806 c (aData whole 0 cause.toNat) ∧ RingOnly s t ∧ sameBut (.win :: byEvent) s t) ∧
      (∀ pa, translate s c va true = .ok pa →
        let fresh := !s.store.tagged (lineOf pa) || s.store.poisoned (lineOf pa) || found pa == .uncorrectable
        let want := fun x => if pa ≤ x ∧ x < pa + 4 then (bytesLE 4 v.toNat).getD (x - pa) 0
          else if lineOf x = lineOf pa ∧ fresh = true then 0 else s.store.byteAt x
        (s.store.poisoned (lineOf pa) = false → found pa = .clean → ∃ t, exec (.storeWrite c a v []) s = .next t ∧
          (∀ x, t.store.byteAt x = want x) ∧ t.store.tagged (lineOf pa) = true ∧ sameBut [.store] s t) ∧
        (∃ t, exec (.storeWrite c a v []) s = .next t ∧ (∀ x, ¬ (0x7E0000 ≤ x ∧ x < 0x7F0000) → t.store.byteAt x = want x) ∧
          (s.store.poisoned (lineOf pa) = true → t.evt.lastCode = 0x0804) ∧ sameBut byEnd s t)))

/-- A written entry is stored with its PPAGE, VALID, READ, WRITE and LOCK fields, WRITE 0 where PPAGE names a Heel page; where the entry is locked and the write would change more than LOCK it stays, WINERR.REFUSED of the writing context is set and 0x0805 logged. No other entry changes. SYNC sets WINCTL.BUSY of its context, the end of the barrier clears it. -/
def Obligations.WindowEntriesAreStored : Prop :=
  ∀ s : State, s.settled = true → s.win.wf = true →
    (∀ (c : Ctx) (t : WinCtx) (pg : BitVec 12) (v : Word), opens s c (.winentry t pg.toFin) →
      let old := winEntry s t pg.toNat
      let stored := v.setWidth 20 &&& (if 0x7E0 ≤ (v.extractLsb' 0 11).toNat then 0xB07FF else 0xF07FF)
      let locked := old.getLsbD 19 && stored != (old &&& 0x7FFFF)
      (locked = true → ∃ x, exec (.windowEntryWrite c t pg v) s = .next x ∧ logged s x 0x0805 c (aData (regAddr (.winentry t pg.toFin)).toNat 0 0) ∧
        x.win = { s.win with regs := vput s.win.regs c { s.win.regs[c] with refused := true } } ∧ sameBut (.win :: byEvent) s x) ∧
      (locked = false → ∃ x, exec (.windowEntryWrite c t pg v) s = .next x ∧ winEntry x t pg.toNat = stored ∧ x.win.regs = s.win.regs ∧
        (∀ u n, (u, n) ≠ (t, pg.toNat) → winEntry x u n = winEntry s u n) ∧ sameBut [.win] s x)) ∧
    (∀ c v, opens s c (.winctl c) → exec (.winctlSync c v) s =
      .next { s with win := { s.win with regs := vput s.win.regs c { s.win.regs[c] with busy := true } } }) ∧
    (∀ c, exec (.syncBarrierDone c) s = .next { s with win := { s.win with regs := vput s.win.regs c { s.win.regs[c] with busy := false } } })

/-- Outside reset and Standby the scrubber visits one line after the other; a sound line, or one that is not written or is poisoned, only moves it on, and the last line counts a pass. A word of the line with one bit wrong is written back corrected; a line with one that cannot be corrected is poisoned and latched as the last one, 0x0802. (That a visit leaves SCRUB_ON set is log entry 28; how the hour's rate is counted is log entry 67.) A new hour clears the hour's count, CE_CLR clears STORECE or the NVM's count (with CE_RATE, WP and LOCK as written), and a log token comes back while fewer than 128 are held, outside reset and Standby. -/
def Obligations.ScrubbingAndCounts : Prop :=
  ∀ s : State, s.settled = true →
    let n := s.store.scrubLine.toNat
    let visited := fun m : StoreSt => { m with
      scrubOn := true, scrubLine := s.store.scrubLine + 1, passes := if n = 0x1FFFF then s.store.passes + 1 else s.store.passes }
    let rests := s.boot.inReset || s.dev.standby
    let within := fun u : Nat × Ecc => 8 * n ≤ u.1 ∧ u.1 < 8 * n + 8
    (rests = true → exec (.scrubLine []) s = .next s) ∧
    (rests = false → (∀ u ∈ s.store.upsets, ¬ within u) ∨ s.store.tagged n = false ∨ s.store.poisoned n = true →
      exec (.scrubLine []) s = .next { s with store := visited s.store }) ∧
    (rests = false → s.store.tagged n = true → s.store.poisoned n = false → ∃ t, exec (.scrubLine []) s = .next t ∧
      (∀ u ∈ t.store.upsets, u ∈ s.store.upsets ∧ ¬ (within u ∧ u.2 = .corrected)) ∧ t.store.scrubLine = s.store.scrubLine + 1 ∧
      RingOnly s t ∧ sameBut byEnd s t) ∧
    (rests = false → s.store.tagged n = true → s.store.poisoned n = false → heelLine n = false →
      (∃ u ∈ s.store.upsets, within u ∧ u.2 = .uncorrectable) → ∃ t, exec (.scrubLine []) s = .next t ∧
      t.store.poisoned n = true ∧ t.store.ueAddr = BitVec.ofNat 23 (n * 64) ∧ t.store.ueSeen = true ∧
      t.store.scrubLine = s.store.scrubLine + 1 ∧ sameBut byEvent s t ∧ linksButOut s t) ∧
    exec .ceRateHour s = .next (if s.store.hourOn then { s with store := { s.store with hourCe := 0, hourLogged := false } } else s) ∧
    exec .logTokenTick s = .next (if rests then s else { s with nvm := { s.nvm with tokens := min 128 (s.nvm.tokens + 1) } }) ∧
    (∀ c v, opens s c .storestat → exec (.storeCeClr c v) s =
      .next { s with store := { s.store with ce := 0, ceRate := s.store.ceRate && !v.getLsbD 18 } }) ∧
    (∀ c v, opens s c .nvmctl → exec (.nvmctlCeClr c v) s = .next { s with nvm := { s.nvm with
      ce := 0, wp := if s.nvm.lock then s.nvm.wp else v.extractLsb' 0 4, lock := s.nvm.lock || v.getLsbD 8 } })

/-- Where its island has power, a read through the window returns the word of a programmed unit, all ones for an erased one (NVMSTAT.RD_ERASED says which), counts a correction, and for a unit that cannot be corrected returns all ones, sets RD_UE and the offset and logs 0x0A01. With no erase of the log and no mark due, the log's oldest record that waits is dropped and counted where no token is left; else, written well, its two units follow the log's last ones and cost a token; written badly, one of the slot's units is indeterminate, the slot is skipped and the record waits on (log entry 31). A record in the last slot moves the log to the next erased sector, whose first slots hold the DIRTY_MARKs of the sectors that are dirty; the erase of the oldest sector is then due, and begins with its ERASE_BEGIN where the engine has no Job (log entries 81 and 87). No other unit changes but by that. -/
def Obligations.NvmWindowAndLog : Prop :=
  ∀ s : State, s.settled = true → s.nvm.wf = true →
    (∀ (c : Ctx) (off : BitVec 20), let a := 0x04000000 + off.setWidth 32
      served s c = true → mayRead s c a = true → islandOff s .nvm = false →
      let u := off.toNat / 16
      let shows := fun (w : Word) (n : NvmSt) => ({ s with acc := { s.acc with rdata := vput s.acc.rdata c w }, nvm := n } : State)
      let found := tabGet .clean u s.nvm.upsets
      (s.nvm.cell u ≠ .torn →
        let w := match s.nvm.cell u with
          | .data b => BitVec.ofNat 32 (leAt b (off.toNat % 16 / 4 * 4) 4)
          | _ => 0xFFFFFFFF
        let erased := s.nvm.cell u == .erased
        (found = .clean → exec (.nvmWindowRead c off []) s = .next (shows w { s.nvm with rdErased := erased })) ∧
        (found = .corrected → exec (.nvmWindowRead c off []) s = .next (shows w { s.nvm with rdErased := erased, ce := satInc s.nvm.ce })) ∧
        (found = .uncorrectable → ∃ t, exec (.nvmWindowRead c off []) s = .next t ∧ t.acc.rdata = vput s.acc.rdata c 0xFFFFFFFF ∧
          t.nvm.rdUe = true ∧ t.nvm.rdErased = false ∧ t.nvm.addr = BitVec.ofNat 20 (16 * u) ∧ t.nvm.addrOk = true ∧
          t.evt.lastCode = (if ringPoisoned s [] = [] then 0x0A01 else 0x0804) ∧ sameBut (.acc :: byEvent) s t ∧ linksButOut s t))) ∧
    ((s.boot.inReset || s.dev.standby) = true → ∀ ok, exec (.nvmLogWrite ok) s = .next s) ∧
    (∀ r rest, (s.boot.inReset || s.dev.standby) = false → logMayWrite s = true → s.nvm.logErase = none → s.nvm.logWait = r :: rest →
      s.nvm.eraseDue = false → s.nvm.marks = [] →
      let holds := fun (t : State) (u : Nat) (e : EvRec) =>
        t.nvm.cell u = cellOf (e.bytes.take 16) ∧ t.nvm.cell (u + 1) = cellOf (e.bytes.drop 16)
      let u := s.nvm.logSector * 256 + s.nvm.logSlot * 2
      let record := EvRec.mk s.nvm.logSeq r.code r.ctx r.dtime (padTo 12 r.data)
      let others := fun t : State => ∀ v, v ≠ u → v ≠ u + 1 → t.nvm.cell v = s.nvm.cell v
      (s.nvm.logSlot + 1 < 128 → nextLog s.nvm s.nvm.logSector ≠ s.nvm.logSector →
        sectorErased s.nvm (nextLog s.nvm s.nvm.logSector) = true →
        (s.nvm.tokens = 0 → ∀ ok, exec (.nvmLogWrite ok) s =
          .next { s with nvm := { s.nvm with own := [], logWait := rest, dropped := satInc s.nvm.dropped } }) ∧
        (s.nvm.tokens ≠ 0 → ∃ t, exec (.nvmLogWrite true) s = .next t ∧ holds t u record ∧ others t ∧ t.nvm = { s.nvm with
            cells := t.nvm.cells, upsets := t.nvm.upsets, logWait := rest, tokens := s.nvm.tokens - 1, logSeq := s.nvm.logSeq + 1
            logSlot := s.nvm.logSlot + 1, own := [.unit u, .unit (u + 1)] } ∧ sameBut [.nvm] s t) ∧
        (s.nvm.tokens ≠ 0 → ∃ t, exec (.nvmLogWrite false) s = .next t ∧ others t ∧
          (t.nvm.cell u = .torn ∧ t.nvm.cell (u + 1) = s.nvm.cell (u + 1) ∨
            t.nvm.cell u = cellOf (record.bytes.take 16) ∧ t.nvm.cell (u + 1) = .torn) ∧
          t.nvm = { s.nvm with cells := t.nvm.cells, upsets := t.nvm.upsets, logSlot := s.nvm.logSlot + 1, own := [] } ∧
          sameBut [.nvm, .free] s t)) ∧
      (∀ next, s.nvm.logSlot = 127 → s.nvm.tokens ≠ 0 → nextErased s.nvm s.nvm.logSector = some next →
        ∃ t, exec (.nvmLogWrite true) s = .next t ∧ t.nvm.logSector = next ∧ t.nvm.logWait = rest ∧
          t.nvm.tokens = s.nvm.tokens - 1 ∧ sameBut [.nvm] s t ∧
          (∀ i sec, i < 64 → s.nvm.dirty[i]? = some sec → holds t (next * 256 + i * 2)
            ⟨s.nvm.logSeq + 1 + BitVec.ofNat 32 i, 0xFF03, 0, s.time.dtime, padTo 12 (wearData sec 0 0)⟩) ∧
          let marks := min 64 s.nvm.dirty.length
          let old := nextLog s.nvm next
          (engineIdle s = false → holds t u record ∧ t.nvm.logSlot = marks ∧ t.nvm.eraseDue = true ∧ t.nvm.logErase = none) ∧
          (engineIdle s = true → old ≠ next → t.nvm.logSlot = marks + 1 ∧ t.nvm.eraseDue = false ∧ t.nvm.logErase = some old ∧
            t.nvm.dirty.contains old = true ∧ (old ≠ s.nvm.logSector → holds t u record) ∧
            holds t (next * 256 + marks * 2) ⟨s.nvm.logSeq + 1 + BitVec.ofNat 32 marks, 0xFF01, 0, s.time.dtime,
              padTo 12 (wearData old 0 (s.nvm.head old).count)⟩)))

/-- A Job of the NVM engine that runs: NVM_PROGRAM reads its source block by block of 256 bytes and with the last ends with 0x48 in a protected sector, with 0x49 in a dirty one, else holds its data, where every unit is erased; each unit programmed well holds its 16 bytes, one whose data is all ones is left untouched, and the last ends the Job; one that fails is indeterminate (log entry 31) and ends it with 0x4B. While a program of the part's own is in progress the report is that one's (log entry 87). NVM_ERASE ends with 0x48 at the first barred sector, else begins with the first; a sector done well begins the next, the last ends the Job, and one that fails ends it with 0x4B. NVM_READ gathers each unit's bytes, all ones for an erased one, which it counts, corrected where they can be, and writes them to the Store block by block of 256 bytes; the last block ends it, and a unit that cannot be corrected ends it with 0x4A and its offset; an indeterminate unit reads as the free values say. An erase suspended for a window read or the log goes on when no work of the suspension is left. No other unit of the NVM changes. -/
def Obligations.NvmJobsDoTheirUnits : Prop :=
  ∀ (s : State) (j : Job), s.settled = true → s.nvm.wf = true →
    let off := j.entry.u32 4
    let w := ownDone s
    let ends := fun (n : NvmSt) (st : Byte) (r : Nat) => ({ s with nvm := n, units := { s.units with nvm := some (j.finished st r) } } : State)
    let goes := fun (n : NvmSt) (k : Job) => ({ s with nvm := n, units := { s.units with nvm := some k } } : State)
    (∀ sofar block, (s.nvm.logErase.isNone || s.nvm.suspended) = true → runningJob s .nvm opNvmProgram = some j →
      (j.prog = .plain ∧ sofar = [] ∨ j.prog = .nvmBuf sofar ∧ sofar.length < j.entry.u32 8) →
      jobRead w j.ctx (j.entry.u32 0x0C + sofar.length) (min 256 (j.entry.u32 8 - sofar.length)) j.entry.uninit = (.ok block, w) →
      let data := sofar ++ block
      let sound := fun i : Nat => s.nvm.cell (off / 16 + i) = .erased ∧ tabGet .clean (off / 16 + i) s.nvm.upsets = .clean
      (data.length < j.entry.u32 8 → exec (.nvmProgram []) s = .next (goes w.nvm { j with prog := .nvmBuf data })) ∧
      (j.entry.u32 8 ≤ data.length →
        (protectedSec s (off / 4096) = true → exec (.nvmProgram []) s = .next (ends w.nvm 0x48 off)) ∧
        (protectedSec s (off / 4096) = false → s.nvm.dirty.contains (off / 4096) = true →
          exec (.nvmProgram []) s = .next (ends w.nvm 0x49 (off / 4096 * 4096))) ∧
        (protectedSec s (off / 4096) = false → s.nvm.dirty.contains (off / 4096) = false →
          (∀ i, i < j.entry.u32 8 / 16 → (∀ k, k < i → sound k) → s.nvm.cell (off / 16 + i) ≠ .torn → ¬ sound i →
            exec (.nvmProgram []) s = .next (ends w.nvm 0x49 (16 * (off / 16 + i)))) ∧
          ((∀ i, i < j.entry.u32 8 / 16 → sound i) →
            exec (.nvmProgram []) s = .next (goes w.nvm { j with prog := .nvmBuf data }))))) ∧
    (∀ p rest ok, s.nvm.own = p :: rest → exec (.nvmUnitProgrammed ok) s = .next { s with nvm :=
      let n := { s.nvm with own := rest }
      if ok then n else match p with
        | .unit u => n.setCell u .torn
        | .head sec => n.setHead sec { s.nvm.head sec with good := false } }) ∧
    (∀ data, s.nvm.own = [] → runningJob s .nvm opNvmProgram = some j → j.prog = .nvmBuf data → j.entry.u32 8 ≤ data.length →
      let u := (off + j.done) / 16
      let put := fun c => s.nvm.setCell u c
      let cell := cellOf ((data.drop j.done).take 16)
      let k := { j with done := j.done + 16 }
      let on := fun n => goes n (if j.entry.u32 8 ≤ j.done + 16 then k.finished stOk 0 else k)
      (∀ c, (put c).cell u = c ∧ ∀ v, v ≠ u → (put c).cell v = s.nvm.cell v) ∧
      (cell = .erased → ∀ ok, exec (.nvmUnitProgrammed ok) s = .next (on s.nvm)) ∧
      (cell ≠ .erased → exec (.nvmUnitProgrammed false) s = .next (ends (put .torn) 0x4B (off + j.done)) ∧
        exec (.nvmUnitProgrammed true) s = .next (on (put cell)))) ∧
    (s.nvm.logErase = none → runningJob s .nvm opNvmErase = some j →
      let sec := j.entry.u16 4
      (∀ x, j.prog = .plain → ((List.range (j.entry.u16 6)).map (sec + ·)).find? (eraseBarred s) = some x →
        exec .nvmErase s = .next (ends w.nvm 0x48 x)) ∧
      (j.prog = .plain → (∀ i, i < j.entry.u16 6 → eraseBarred s (sec + i) = false) →
        ∃ t, exec .nvmErase s = .next t ∧ getUnit t .nvm = some { j with prog := .nvmErase true 0 } ∧
          t.nvm.dirty.contains sec = true ∧ sameBut [.nvm, .units] s t) ∧
      (∀ n, j.prog = .nvmErase true n → s.nvm.suspended = false →
        let headed := fun t : State => t.nvm.head (sec + j.done) =
          ⟨(s.nvm.head (sec + j.done)).count + 1, decide (100000 ≤ (s.nvm.head (sec + j.done)).count + 1), true⟩
        (∃ t, exec (.nvmSectorErased false) s = .next t ∧
          getUnit t .nvm = some ({ j with prog := .nvmErase false n }.finished 0x4B (sec + j.done)) ∧ headed t) ∧
        (j.entry.u16 6 ≤ j.done + 1 → ∃ t, exec (.nvmSectorErased true) s = .next t ∧
          getUnit t .nvm = some ({ j with prog := .nvmErase false n, done := j.done + 1 }.finished stOk 0) ∧ headed t ∧
          t.nvm.dirty.contains (sec + j.done) = false) ∧
        (j.done + 1 < j.entry.u16 6 → ∃ t, exec (.nvmSectorErased true) s = .next t ∧
          getUnit t .nvm = some { j with done := j.done + 1 } ∧ headed t ∧
          t.nvm.dirty.contains (sec + j.done) = false ∧ t.nvm.dirty.contains (sec + j.done + 1) = true))) ∧
    (∀ u, (s.nvm.cell u ≠ .torn →
        let bytes := match s.nvm.cell u with
          | .data b => UnitRead.data b
          | _ => .erased
        (tabGet .clean u s.nvm.upsets = .clean → readUnit s u = (bytes, false, s)) ∧
        (tabGet .clean u s.nvm.upsets = .corrected →
          readUnit s u = (bytes, true, { s with nvm := { s.nvm with ce := satInc s.nvm.ce } })) ∧
        (tabGet .clean u s.nvm.upsets = .uncorrectable →
          readUnit s u = (.bad, false, { s with nvm := { s.nvm with addr := BitVec.ofNat 20 (16 * u), addrOk := true } }))) ∧
      (s.nvm.cell u = .torn → (readUnit s u).1 = (if Config.tornKind s.free = 0 then .erased
        else if Config.tornKind s.free = 2 then .bad else .data (bytesLE 16 (Config.tornData s.free).toNat)) ∧
        (readUnit s u).2.2.free = s.free + 1)) ∧
    (∀ a b c block, (s.nvm.logErase.isNone || s.nvm.suspended) = true → runningJob s .nvm opNvmRead = some j →
      j.prog = .nvmRead a b c none block → j.hold = none →
      let at' := off + j.done + block.length
      let got := if j.entry.u8 0x10 % 2 = 1 then readOtp w (at' / 16) else readUnit w (at' / 16)
      let x := got.2.2
      let a' := if got.1 = .erased then a + 1 else a
      let b' := if got.1 = .erased then b.or (some at') else b
      let c' := if got.2.1 then c + 1 else c
      let data := block ++ got.1.bytes
      let upto := j.done + data.length
      let keeps := fun k : Job => ({ x with units := { s.units with nvm := some k } } : State)
      (got.1 = .bad → block = [] → j.entry.u8 0x10 / 2 % 2 = 0 → exec (.nvmRead []) s =
        .next (keeps ({ j with prog := .nvmRead a b c (some at') [] }.finished 0x4A at'))) ∧
      (got.1 ≠ .bad → upto % 256 ≠ 0 → upto < j.entry.u32 8 →
        exec (.nvmRead []) s = .next (keeps { j with prog := .nvmRead a' b' c' none data })) ∧
      (∀ n s', got.1 ≠ .bad → (upto % 256 = 0 ∨ j.entry.u32 8 ≤ upto) →
        jobWrite x j.ctx (j.entry.u32 0x0C + j.done) data = (none, n, s') →
        let k := { j with prog := .nvmRead a' b' c' none [], hold := none, done := j.done + n }
        (j.done + n < j.entry.u32 8 → ∃ t, exec (.nvmRead []) s = .next t ∧ RingOnly s' t ∧ getUnit t .nvm = some k ∧
          sameBut byEnd s t) ∧
        (j.entry.u32 8 ≤ j.done + n → j.entry.u8 0x10 / 2 % 2 = 0 → ∃ t, exec (.nvmRead []) s = .next t ∧ RingOnly s' t ∧
          getUnit t .nvm = some (k.finished stOk 0) ∧ sameBut byEnd s t))) ∧
    (∀ why, why = .windowRead ∨ why = .logWrite → exec (.eraseSuspend why) s =
      .next (if eraseRuns s && !s.nvm.suspended then { s with nvm := { s.nvm with suspended := true, own := [] } } else s)) ∧
    exec (.eraseSuspend .awl) s = .next s ∧
    exec .eraseResume s = .next (if s.nvm.suspended && mayResume s then
      { s with nvm := { s.nvm with suspended := false, forJob := false, own := [] } } else s)

/-- While VIO supplies the TAP and TRST_N does not hold it in reset, each instruction of Table 10-6 stands in the instruction register, and every opcode that the table does not name as BYPASS; the scan shifts out what was captured. IDCODE also captures DEVID, SAMPLE/PRELOAD and the three kinds of EXTEST the levels of the balls while they load the boundary cells (under EXTEST ATTN_N and FAULT_N stand as the cells held), BYPASS a 0. One that takes the lane transmit pins from the datapath (EXTEST, EXTEST_PULSE, EXTEST_TRAIN, HIGHZ, CLAMP) stops what every transmitter sends, and takes SDA too, which ends what the two-wire target was answering. Nothing else changes but what ATTN_N brings about. (What an instruction captures where Table 10-6 does not say, what TRST_N does, and the levels of the cells are the model's, PRESUMED in log entry 41.) A TAP reset loads IDCODE at any time and leaves TRST_N high; without VIO, or with TRST_N low, nothing is loaded. -/
def Obligations.TapLoadsInstructions : Prop :=
  ∀ s : State, s.settled = true →
    let frame := fun t : State => sameBut [.pins, .jtag, .twb, .lanes, .imc, .links, .free] s t ∧ linksButOut s t
    let loads := fun (i : Instr) (takes : Bool) (tap : JtagSt → Prop) =>
      ((s.power.valid[5] && s.pins.trstN) = false → exec i s = .next s) ∧
      ((s.power.valid[5] && s.pins.trstN) = true → ∃ t, exec i s = .next t ∧ t.pins = s.pins ∧ tap t.jtag ∧
        t.twb = (if takes then { s.twb with reading := none, ack := false } else s.twb) ∧
        t.lanes = (if takes then s.lanes.map fun n => { n with tx := { n.tx with last := none } } else s.lanes) ∧ frame t)
    let plain := fun (op : BitVec 8) (j : JtagSt) => j = { s.jtag with ir := op, out := true :: List.replicate 7 false }
    let scans := fun (op : BitVec 8) (j : JtagSt) =>
      j = { s.jtag with ir := op, held := j.held, out := [], captured := j.captured } ∧
      j.captured.resetN = s.pins.resetN ∧ j.captured.bypN = s.pins.bypN ∧ j.captured.addr = s.pins.addr ∧
      j.captured.bootsel = s.pins.bootsel ∧ j.captured.sync = s.pins.sync
    let driven := fun (op : BitVec 8) (j : JtagSt) =>
      scans op j ∧ j.captured.attnN = s.jtag.held.attnN ∧ j.captured.faultN = s.jtag.held.faultN
    loads .jtagExtest true (driven 0x00) ∧
    loads .jtagIdcode false (fun j => j = { s.jtag with
      ir := 0x01, dr := 0x1162056B, out := List.ofFn fun i : Fin 32 => (0x1162056B : Word).getLsbD i.val }) ∧
    loads .jtagSamplePreload false (scans 0x02) ∧
    loads .jtagExtestPulse true (driven 0x03) ∧
    loads .jtagExtestTrain true (driven 0x04) ∧
    loads .jtagHighz true (plain 0x05) ∧
    loads .jtagClamp true (plain 0x06) ∧
    (∀ op : BitVec 8, 6 < op.toNat →
      loads (.jtagBypass op) false (fun j => j = { s.jtag with ir := op, bypass := false, out := [false] })) ∧
    ∃ t, exec .jtagTapReset s = .next t ∧ t.pins = { s.pins with trstN := true } ∧
      t.jtag = { s.jtag with ir := 0x01, out := [] } ∧ t.twb = s.twb ∧ t.lanes = s.lanes ∧ frame t

/-- A START or a STOP ends what was going on: a write with no register address sets ADDR_SHORT, extra bytes after one PARTIAL. An address byte is acknowledged only where it is the part's own, the two-wire host is served, no instruction of the TAP has SDA and the interface is awake; asleep it is not acknowledged and wakes. The first word of a write loads the pointer, its bits [1:0] cleared; each further one is C1's write of the register at the pointer, which moves on by four, up to 256 bytes. A word read is C1's read at the pointer, which moves on; past 256 bytes it is all ones with OVERRUN, and one that is late all ones with LATE, as is one that is not ready without stretching where STRETCH_DIS is set; its register is not read. (What a late word does, and the bits at the edges of a write, are log entry 26; which words are ready at once is log entry 57.) -/
def Obligations.TwoWireFramesAndPointer : Prop :=
  ∀ s : State, s.settled = true →
    let lines := { s.twb with sclDown := false, sdaDown := false }
    let w := s.twb.reading == some false
    let framed := fun extra : Nat => { lines with
      addrShort := s.twb.addrShort || (w && !s.twb.loaded)
      partl := s.twb.partl || (w && s.twb.loaded && extra != 0 && s.twb.bytes < 256)
      reading := none, loaded := false, bytes := 0 }
    let own : BitVec 7 := 0x58#7 ||| s.boot.addr.setWidth 7
    let asleep := s.dev.standby && !s.twb.awake
    (∀ k (x : Fin 4), exec (.twbStartStop k x) s = .next { s with twb := framed x.val }) ∧
    (∀ a rd, a ≠ own ∨ served s 1 = false ∨ sdaOff s = true → exec (.twbAddress a rd) s = .next { s with twb := { framed 0 with ack := false } }) ∧
    (∀ rd, served s 1 = true → sdaOff s = false → asleep = false →
      exec (.twbAddress own rd) s = .next { s with twb := { framed 0 with ack := true, reading := some rd } }) ∧
    (served s 1 = true → sdaOff s = false → asleep = true → (∀ i ∈ [Instr.twbAddress own false, .twbAddress own true, .twbWake own],
      exec i s = .next { s with twb := { framed 0 with ack := false, awake := true } })) ∧
    (∀ a, asleep = false → exec (.twbWake a) s = .next s) ∧
    (s.dev.standby = true → s.twb.reading = none → exec .twbSleep s = .next { s with twb := { s.twb with awake := false } }) ∧
    (∀ v : Word, s.twb.reading = some false →
      (s.twb.loaded = false →
        exec (.twbWriteWord v []) s = .next { s with twb := { lines with ptr := v &&& 0xFFFFFFFC, loaded := true, ack := true } }) ∧
      (s.twb.loaded = true → 256 ≤ s.twb.bytes → exec (.twbWriteWord v []) s = .next { s with twb := { lines with ack := false } }) ∧
      (s.twb.loaded = true → s.twb.bytes < 256 → ∃ t, exec (.twbWriteWord v []) s = .next t ∧
        exec (.regWrite 1 s.twb.ptr v [])
          { s with twb := { lines with ptr := s.twb.ptr + 4, bytes := s.twb.bytes + 4, ack := true } } = .next t)) ∧
    (s.twb.reading = some true →
      (256 ≤ s.twb.bytes → exec (.twbReadWord []) s = .next { s with twb := { lines with out := 0xFFFFFFFF, overrun := true } }) ∧
      (s.twb.bytes < 256 →
        let moved := { lines with ptr := s.twb.ptr + 4, bytes := s.twb.bytes + 4 }
        let stalls := s.twb.stretchDis && !readyAtOnce s s.twb.ptr
        let late := { s with twb := { moved with out := 0xFFFFFFFF, late := true } }
        exec .twbLate s = .next late ∧
        (stalls = true → exec (.twbReadWord []) s = .next late) ∧
        (stalls = false → served s 1 = true → ∃ t w x, exec (.twbReadWord []) s = .next t ∧
          accessRead { s with twb := moved } 1 s.twb.ptr = (w, x) ∧
          t.acc.rdata[(1 : Ctx)] = w ∧ t.twb.out = w ∧ t.twb.ptr = s.twb.ptr + 4 ∧ t.twb.bytes = s.twb.bytes + 4)))

/-- Outside reset, while TOUT_DIS is 0, SCL low for too long sets TWBSTAT.SCL_LOW and logs 0x0703, SDA low sets SDA_LOW and logs 0x0704; the framing ends as at a STOP (log entry 26) and the pointer stays. A read of the external image that goes on ends with READ_FAIL at SCL. With TOUT_DIS 1 neither is watched. -/
def Obligations.StuckLinesAreReported : Prop :=
  ∀ (s : State) (x : Fin 4), s.settled = true →
    let w := s.twb.reading == some false
    let framed := { s.twb with
      addrShort := s.twb.addrShort || (w && !s.twb.loaded)
      partl := s.twb.partl || (w && s.twb.loaded && x.val != 0 && s.twb.bytes < 256)
      reading := none, loaded := false, bytes := 0 }
    ((s.boot.inReset || s.twb.toutDis) = true → exec (.twbSclLow x) s = .next s ∧ exec (.twbSdaLow x) s = .next s) ∧
    (s.boot.inReset = false → s.twb.toutDis = false →
      (∃ t, exec (.twbSdaLow x) s = .next t ∧ t.twb = { framed with sdaLow := true, sdaDown := true } ∧ logged s t 0x0704 0 [] ∧
        sameBut (.twb :: byEvent) s t ∧ linksButOut s t) ∧
      ∃ t, exec (.twbSclLow x) s = .next t ∧ t.twb = { framed with sclLow := true, sclDown := true } ∧ logged s t 0x0703 0 [] ∧
        (readsEeprom s = true → t.boot.eeprom.result = some 0x03) ∧ (readsEeprom s = false → t.boot = s.boot) ∧
        sameBut (.boot :: .twb :: byEvent) s t ∧ linksButOut s t)

/-- On a joined link whose channel the part serves and whose management lane has symbol lock and is not lost, a MOS with a bad CRC is forwarded and counted; one for another node is forwarded; one from a node that is not the side's partner is consumed and counted BAD; where the side's flag is 0 it is answered NAK DISABLED. A RD in new sequence, of a register the partner may read, while fewer than 8 responses wait, is answered by RD_DATA with the word that was read; a WR by ACK, after the write. A duplicate is answered again and not executed. NOTIFY is queued again while ATTN_N stays low and NOTIFY_MS is not 0. -/
def Obligations.InbandChannelServes : Prop :=
  ∀ (s : State) (l : LinkNo) (sd : Side), s.settled = true →
    (getLink s l).join = .joined → mgmtSym s l sd = true → mgmtLost s l sd = false → consumes s l = true →
    let waits := fun (t : State) (m : OutMos) => m ∈ outOf (getLink t l) (towardNode sd.node)
    let c := sideCtx sd
    (∀ m : Mos,
      (Mos.crcOk m = false → exec (.mosReceived l sd m []) s =
        .next (setSent { s with imc := { s.imc with crcErr := vmod s.imc.crcErr (sideIx sd) satInc } } l sd.rxDir (.forwarded m))) ∧
      (Mos.crcOk m = true → Mos.dst m ≠ (getLink s l).index → Mos.typ m ≠ mosSpare → Mos.typ m ≠ mosLpGrant →
        exec (.mosReceived l sd m []) s = .next (setSent s l sd.rxDir (.forwarded m))) ∧
      (Mos.crcOk m = true → Mos.dst m = (getLink s l).index →
        (Mos.src m ≠ sd.node → exec (.mosReceived l sd m []) s =
          .next { padInstead s l sd with imc := { s.imc with bad := vmod s.imc.bad (sideIx sd) satInc } }) ∧
        (Mos.src m = sd.node → imcFlag s sd = false → ∃ t r, exec (.mosReceived l sd m []) s = .next t ∧ waits t r ∧
          r.typ = mosNak ∧ r.dst = sd.node ∧ r.seq = Mos.seq m ∧ r.payload.head? = some 2))) ∧
    (∀ (n : BitVec 12) (a : Word), imcFlag s sd = true → seqClass (seqOf (getLink s l) sd) n = .new →
      (waitingResponses s l sd).length < 8 →
      let x := modSeq (padInstead s l sd) l sd (seqAccept · n)
      let b := BitVec.ofNat 32 (alignedAddr a + 4)
      (∀ two w y, two = false → mayRead s c a = true → readOpen x c a = (w, y) → (seqOf (getLink y l) sd).valid = true →
        ∃ t, exec (.mosRd l sd n a two []) s = .next t ∧ t.acc.rdata[c] = w ∧
          waits t ⟨mosPrio mosRdData, sd.node, mosRdData, n, bytesLE 4 w.toNat, false⟩) ∧
      (∀ two w y w' y', two = true → mayRead s c a = true → mayRead s c b = true → readOpen x c a = (w, y) →
        readOpen (keepRead c (w, y)) c b = (w', y') → (seqOf (getLink y' l) sd).valid = true →
        ∃ t, exec (.mosRd l sd n a two []) s = .next t ∧ t.acc.rdata[c] = w' ∧
          waits t ⟨mosPrio mosRdData, sd.node, mosRdData, n, bytesLE 4 w.toNat ++ bytesLE 4 w'.toNat, false⟩) ∧
      (∀ v, mayWrite s c a = false → ∃ t, exec (.mosWr l sd n a v []) s = .next t ∧
        waits t ⟨mosPrio mosNak, sd.node, mosNak, n, 1 :: bytesLE 4 a.toNat, false⟩) ∧
      (∀ v, mayWrite s c a = true → (seqOf (getLink (writeOpen x c a v) l) sd).valid = true →
        ∃ t, exec (.mosWr l sd n a v []) s = .next t ∧ waits t ⟨mosPrio mosAck, sd.node, mosAck, n, [], false⟩)) ∧
    (∀ (n : BitVec 12) (a v : Word) (r : OutMos), imcFlag s sd = true → seqClass (seqOf (getLink s l) sd) n = .duplicate →
      (seqOf (getLink s l) sd).resps.find? (fun r => r.seq == n) = some r →
      ∃ t, exec (.mosWr l sd n a v []) s = .next t ∧ (r.typ = mosAck → r.dst = sd.node → r.prio = mosPrio mosAck → waits t r) ∧
        sameBut [.lanes, .links, .imc, .free] s t) ∧
    (∀ j, attnLow s = true → s.imc.notifyMs ≠ 0 → notifyOn s sd = true → allLinks.find? (channelOn s sd) = some j →
      ∃ t m, exec .notifyRepeat s = .next t ∧ m ∈ outOf (getLink t j) (towardNode sd.node) ∧ m.typ = mosNotify ∧ m.dst = sd.node ∧
        sameBut [.links, .imc, .free] s t)

/-- With the register open to the writer: ENABLE = 1 of a DISABLED queue fails with its code where the queue has no owner or its completion queue is not ACTIVE; where its header reads well with a legal size and ring it becomes ACTIVE and empty. ENABLE = 0 of an ACTIVE or ERROR queue drains it: entries that have not started are dropped with their batches, HEAD goes back to the first. RESET clears a DISABLED queue's errors, else drains and clears at the end. RESUME makes the FAULTED Slot of one of the queue's Jobs READY, else says why not. A doorbell moves TAIL forward, is ignored unless ACTIVE, and a malformed one is an error. -/
def Obligations.WorkQueueRegistersAct : Prop :=
  ∀ (s : State) (c : Ctx) (q : WqNo) (v : Word), s.settled = true →
    let w := getWq s q
    let put := fun x : Wq => ({ s with wqs := vput s.wqs q x } : State)
    let drained := { w with
      code := .draining, hdrDue := true, waiting := [], fenceDue := if w.waiting = [] then w.fenceDue else none
      head := (w.waiting.head?.map (·.idx)).getD w.head
      batches := w.batches.filter fun b => w.waiting.all fun x => x.batch != b.id }
    (opens s c (.wqctl q) →
      (v.getLsbD 1 = false → v.getLsbD 8 = false → w.code = .disabled →
        (w.cfg.owner = none → exec (.wqEnable c q v) s = .next (put { w with enFail := 1 })) ∧
        (w.cfg.owner ≠ none → (getCq s w.cfg.cq).code ≠ .active → exec (.wqEnable c q v) s = .next (put { w with enFail := 2 })) ∧
        (∀ h size ring, w.cfg.owner ≠ none → (getCq s w.cfg.cq).code = .active →
          jobRead s (wqCtx s q) (w.hdr.toNat * 64) 8 false = (.ok h, s) → size = leAt h 4 1 → ring = leAt h 0 4 →
          4 ≤ size → size ≤ 12 → ring % 64 = 0 → ring + 16 * 2 ^ size ≤ 0x1000000 →
          exec (.wqEnable c q v) s = .next (put { w with
            code := .active, enFail := 0, head := 0, tail := 0, errIdx := 0, cause := 0, sub := 0, held := none, lost := 0
            ringVa := ring, sizeLog2 := size, waiting := [], batches := [], fence := none, hdrDue := true, hdrOff := false
            clearAtOff := false }))) ∧
      (v.getLsbD 1 = false → v.getLsbD 8 = false → w.code = .active ∨ w.code = .error →
        exec (.wqDisable c q v) s = .next (put drained)) ∧
      (v.getLsbD 0 = false → v.getLsbD 8 = false →
        (w.code = .disabled →
          exec (.wqReset c q v) s = .next (put { w with errIdx := 0, cause := 0, sub := 0, held := none, lost := 0 })) ∧
        (w.code = .active ∨ w.code = .error → exec (.wqReset c q v) s = .next (put { drained with clearAtOff := true }))) ∧
      (v.getLsbD 0 = true → v.getLsbD 1 = false → w.code ≠ .disabled →
        let k : SlotNo := (v.extractLsb' 9 3).toFin
        let x := s.slots[k]
        let refused := fun why => ({ s with sched := { s.sched with resRefused := true, resReason := why } } : State)
        (x.code ≠ .faulted → exec (.wqResume c q v) s = .next (refused 1)) ∧
        (x.code = .faulted → (∀ j, x.job = some j → j.wq ≠ some q) → exec (.wqResume c q v) s = .next (refused 2)) ∧
        (∀ j, x.code = .faulted → x.job = some j → j.wq = some q → exec (.wqResume c q v) s = .next { s with
          slots := vput s.slots k { x with code := .ready, order := s.sched.order }
          sched := { s.sched with order := s.sched.order + 1 } }))) ∧
    (opens s c (.wqdb q) →
      let t := v.extractLsb' 0 16
      (w.code ≠ .active → exec (.wqDoorbell c q v) s = .next (put { w with dbIgnored := true })) ∧
      (w.code = .active → v.extractLsb' 16 16 = 0 → (t - w.head).toNat ≤ 2 ^ w.sizeLog2 →
        (w.tail - w.head).toNat ≤ (t - w.head).toNat → t ≠ w.tail →
        exec (.wqDoorbell c q v) s = .next (put { w with tail := t, hdrDue := true })) ∧
      (w.code = .active → v.extractLsb' 16 16 ≠ 0 ∨ 2 ^ w.sizeLog2 < (t - w.head).toNat ∨
          (t - w.head).toNat < (w.tail - w.head).toNat →
        ∃ u, exec (.wqDoorbell c q v) s = .next u ∧ (getWq u q).code = .error ∧ (getWq u q).cause = 2 ∧ (getWq u q).errIdx = t))

/-- With the register open to the writer: ENABLE = 1 of a DISABLED queue with an owner, a size of 4 to 12 and a ring inside the space makes it ACTIVE and empty with PHASE 1, and no queue that names it stays blocked; otherwise it is refused. ENABLE = 0 makes an ERROR queue DISABLED; an ACTIVE one with nothing due only while every work queue that names it is DISABLED, else it is refused. A head at or before TAIL and not behind the old one is taken; another is an error (3). -/
def Obligations.CompletionQueueRegistersAct : Prop :=
  ∀ (s : State) (c : Ctx) (m : CqNo) (v : Word), s.settled = true →
    let k := getCq s m
    let put := fun x : Cq => ({ s with cqs := vput s.cqs m x } : State)
    (opens s c (.cqctl m) →
      (k.code = .disabled →
        let size := v.extractLsb' 4 4
        let fits := k.owner ≠ none ∧ 4 ≤ size.toNat ∧ size.toNat ≤ 12 ∧ k.base.toNat * 64 + 16 * 2 ^ size.toNat ≤ 0x1000000
        (¬fits → exec (.cqEnable c m v) s = .next (put { k with sizeLog2 := size, refused := true })) ∧
        (fits → (∀ q, namesCq s m q = true → (getWq s q).held = none) → ∃ t, exec (.cqEnable c m v) s = .next t ∧
          getCq t m = { k with
            sizeLog2 := size, code := .active, tail := 0, head := 0, phase := true, err := 0, wcause := 0, due := [] } ∧
          (∀ q, getWq t q = if namesCq s m q then { getWq s q with blocked := false } else getWq s q) ∧
          sameBut [.cqs, .wqs] s t)) ∧
      (k.code = .error → exec (.cqDisable c m v) s = .next (put { k with code := .disabled })) ∧
      (k.code = .active → k.due = [] →
        ((∀ q, namesCq s m q = true → (getWq s q).code = .disabled) →
          exec (.cqDisable c m v) s = .next (put { k with code := .disabled })) ∧
        (∀ q, namesCq s m q = true → (getWq s q).code ≠ .disabled →
          exec (.cqDisable c m v) s = .next (put { k with refused := true })))) ∧
    (opens s c (.cqhead m) →
      let new := v.extractLsb' 0 16
      (k.code ≠ .active → exec (.cqheadWrite c m v) s = .next s) ∧
      (k.code = .active → (k.tail - new).toNat ≤ (k.tail - k.head).toNat →
        exec (.cqheadWrite c m v) s = .next (put { k with head := new })) ∧
      (k.code = .active → (k.tail - k.head).toNat < (k.tail - new).toNat → ∃ t, exec (.cqheadWrite c m v) s = .next t ∧
        getCq t m = { k with code := .error, err := 3, wcause := 0, due := [] }))

/-- An ACTIVE queue with slots to read takes one one-slot entry that reads well and passes every check, at the end of what waits, and HEAD moves past it; a FENCE that is then next of its queue takes the entries of its owner's queues that have started, for SCOPE 0x01 (log entry 30); a filler slot 0xFF moves HEAD to the ring's end. A header that is due is written, HEAD, TAIL and STATE, and is due no more. A DRAINING queue with nothing in flight becomes DISABLED. A NOP at the front that may start ends at once: its batch counts it, and where that was the last of a closed batch the batch's record becomes due; a FENCE of an own queue with nothing in flight likewise, one with Jobs waits, for the entries it has taken where its SCOPE is 0x01. An ACTIVE completion queue writes its oldest due record at TAIL with PHASE. -/
def Obligations.QueuesRun : Prop :=
  ∀ (s : State) (q : WqNo), s.settled = true →
    let w := getWq s q
    let put := fun x : Wq => ({ s with wqs := vput s.wqs q x } : State)
    let slot := w.ringVa + 16 * (w.head.toNat % 2 ^ w.sizeLog2)
    let left := 2 ^ w.sizeLog2 - w.head.toNat % 2 ^ w.sizeLog2
    (∀ b, w.code = .active → w.tail ≠ w.head → heldSlots w < 32 → jobRead s (wqCtx s q) slot 16 false = (.ok b, s) →
      (leAt b 0 4 = 0xFF → left ≤ (w.tail - w.head).toNat →
        exec (.entryPrefetch q []) s = .next (put { w with head := w.head + BitVec.ofNat 16 left, hdrDue := true })) ∧
      (b.length = 16 → leAt b 0 4 / 256 % 16 = 1 → (opLen (leAt b 0 4 % 256)).isSome = true → reservedClear b = true →
        operandsOk s.last.working ⟨w.head, b, (leAt b 0 4).testBit 15 || w.cfg.allowUninit, 0, s.sched.order⟩ = true →
        ∃ t x, exec (.entryPrefetch q []) s = .next t ∧ (getWq t q).waiting = w.waiting ++ [x] ∧ x.idx = w.head ∧ x.bytes = b ∧
          x.age = s.sched.order ∧ t.sched = { s.sched with order := s.sched.order + 1 } ∧
          (w.waiting = [] → w.fenceDue = none → leAt b 0 4 % 256 = opFence →
            (getWq t q).fenceDue = some (w.head, (ownedWith s q).flatMap (startedOf s))) ∧
          (getWq t q).head = w.head + 1 ∧ (getWq t q).hdrDue = true ∧ sameBut [.wqs, .sched] s t)) ∧
    (∀ n s', w.hdrDue = true → w.hdrOff = false →
      jobWrite s (wqCtx s q) (w.hdr.toNat * 64 + 8)
        (bytesLE 2 w.head.toNat ++ bytesLE 2 w.tail.toNat ++ [w.code.num.setWidth 8, 0, 0, 0]) = (none, n, s') →
      ∃ t, exec (.headerWrite q) s = .next t ∧ getWq t q = { w with hdrDue := false } ∧ RingOnly s' t ∧
        sameBut (.wqs :: byEnd) s t) ∧
    (w.code = .draining → jobsOf s q = [] → w.fence = none → w.clearAtOff = false →
      exec (.drainComplete q) s = .next (put { w with code := .disabled, hdrDue := true })) ∧
    (∀ e b, readyEntry s q none = some e → w.batches.find? (fun b => b.id == e.batch) = some b →
      let ended := { w with waiting := w.waiting.drop 1, batches := w.batches.map fun b =>
        if b.id == e.batch then { b with ended := b.ended + 1 } else b }
      let lone := ∀ f, w.waiting[1]? = some f → f.opcode ≠ opFence
      (e.opcode = opNop → b.cb = none → lone → exec (.nop q) s = .next (put ended)) ∧
      (∀ f, e.opcode = opNop → b.cb = none → w.waiting[1]? = some f → f.opcode = opFence → w.fenceDue = none →
        exec (.nop q) s = .next (put { ended with fenceDue := some (f.idx, (ownedWith s q).flatMap (startedOf s)) })) ∧
      (∀ e', e.opcode = opNop → b.cb = some e' → b.count = b.ended + 1 → b.errs = 0 → (getCq s w.cfg.cq).code = .active →
        let k := getCq s w.cfg.cq
        (k.tail - k.head).toNat + k.due.length < 2 ^ k.sizeLog2.toNat →
        let qfl := q.val + 32 + (if e'.irq then 64 else 0)
        let bytes := bytesLE 2 e'.tag ++ [BitVec.ofNat 8 qfl, 0] ++ bytesLE 2 b.count ++ bytesLE 2 e'.idx.toNat ++ bytesLE 4 0 ++
          bytesLE 4 s.time.dtime.toNat
        ∃ t, exec (.nop q) s = .next t ∧ (getCq t w.cfg.cq).due = k.due ++ [⟨q, bytes⟩] ∧
          (getWq t q).batches = ended.batches.filter (fun b => b.id != e.batch) ∧ sameBut [.wqs, .cqs] s t) ∧
      (e.opcode = opFence → b.cb = none → jobsOf s q = [] → e.u8 4 = 0 → ∃ t, exec (.fence q) s = .next t ∧
        getWq t q = { ended with fenceDue := (getWq t q).fenceDue } ∧ (lone → (getWq t q).fenceDue = none) ∧
        sameBut [.wqs, .sched] s t) ∧
      (e.opcode = opFence → jobsOf s q ≠ [] → ∃ t f, exec (.fence q) s = .next t ∧
        getWq t q = { w with waiting := w.waiting.drop 1, fence := some f, fenceDue := (getWq t q).fenceDue } ∧ f.entry = e ∧
        f.waits = (if e.u8 4 = 1 then (w.fenceDue.map (·.2)).getD [] else []) ∧ (lone → (getWq t q).fenceDue = none) ∧
        sameBut [.wqs, .sched] s t)) ∧
    (∀ (m : CqNo) r rest pa, (getCq s m).code = .active → (getCq s m).due = r :: rest →
      let k := getCq s m
      translate s (cqCtx s m) (k.base.toNat * 64 + 16 * (k.tail.toNat % 2 ^ k.sizeLog2.toNat)) true = .ok pa →
      let qfl := r.bytes.getD 2 0 ||| (if k.phase then 0x80 else 0)
      let x := { s with cqs := vput s.cqs m { k with due := rest } }
      ∃ t, exec (.completionWrite m) s = .next t ∧ RingOnly (storeWrite x pa (r.bytes.set 2 qfl)) t ∧
        getCq t m = { k with
          due := rest, tail := k.tail + 1, irq := k.irq || qfl.getLsbD 6
          phase := if (k.tail + 1).toNat % 2 ^ k.sizeLog2.toNat = 0 then !k.phase else k.phase } ∧
        sameBut (.cqs :: byEnd) s t)

/-- A free unit of the kind takes what the order of R403 chooses: a queue's front entry as a new Job, or a Slot's Job, whose Slot becomes FREE; the NVM engine begins an erase of the log that is due before any Job (log entry 87). A finished Job leaves its unit at JOB_END, and its entry ends in its batch. Where no Mover is free and an URGENT Job waits, the victim's block in hand is done and its Job is parked PREEMPTED in the lowest FREE Slot, of two. -/
def Obligations.UnitsTakeAndReleaseJobs : Prop :=
  ∀ s : State, s.settled = true →
    (∀ (u : UnitReq) (heel : Bool) (unit : UnitId) (c : Candidate),
      (if u = .mover then (freeMover s).map UnitId.mover = some unit
        else unit = UnitReq.unit u ∧ getUnit s unit = none ∧ heel = false) →
      let x := if u = .nvm then ownDone s else s
      (u = .nvm → s.nvm.logErase = none ∧ s.nvm.eraseDue = false) →
      (urgentCandidate x u).or (normalCandidate x u heel) = some c →
      (∀ k j, c = .slot k → s.slots[k].job = some j → ∃ t, exec (.jobStart u heel) s = .next t ∧ t.slots[k].code = .free ∧
        t.slots[k].job = none ∧
        getUnit t unit = some (if s.slots[k].code = .ready then { j with resumes := j.resumes + 1 } else j)) ∧
      (∀ i y e rest, c = .member i y → (h : i < 32) → (getWq s ⟨i, h⟩).waiting = e :: rest →
        e.opcode ≠ opLastStage → e.opcode ≠ opEyescan → ∃ t j, exec (.jobStart u heel) s = .next t ∧
        getUnit t unit = some j ∧ j.wq = some ⟨i, h⟩ ∧ j.entry = e ∧ j.done = 0 ∧ j.result = none ∧ j.prog = .plain ∧
        j.ctx = wqCtx s ⟨i, h⟩ ∧ j.urgent = (getWq s ⟨i, h⟩).cfg.urgent ∧
        getWq t ⟨i, h⟩ = { getWq s ⟨i, h⟩ with waiting := rest, fenceDue := (getWq t ⟨i, h⟩).fenceDue } ∧
        (∀ f, rest.head? = some f → f.opcode ≠ opFence → (getWq t ⟨i, h⟩).fenceDue = (getWq s ⟨i, h⟩).fenceDue))) ∧
    (s.units.nvm = none → s.nvm.logErase = none → s.nvm.eraseDue = true → ∀ heel, ∃ t, exec (.jobStart .nvm heel) s = .next t ∧
      t.nvm.eraseDue = false ∧ sameBut [.nvm] s t ∧
      let old := nextLog s.nvm s.nvm.logSector
      (old ≠ s.nvm.logSector → t.nvm.logErase = some old ∧ t.nvm.dirty.contains old = true)) ∧
    (∀ u j, getUnit s u = some j → (u = .nvm → s.units.held = none) →
      let frame := fun t : State => t.nvm = (if u = .nvm then { s.nvm with own := [] } else s.nvm)
      (j.wq = none → ∃ t, exec (.jobEnd u) s = .next t ∧ getUnit t u = none ∧ frame t ∧
        sameBut [.units, .nvm, .imc, .links, .free] s t) ∧
      (∀ q r b, j.wq = some q → j.result = some (stOk, r) → (getWq s q).batches.find? (fun b => b.id == j.entry.batch) = some b →
        b.cb = none → ∃ t, exec (.jobEnd u) s = .next t ∧ getUnit t u = none ∧
          getWq t q = { getWq s q with batches := (getWq s q).batches.map fun b =>
            if b.id == j.entry.batch then { b with ended := b.ended + 1 } else b } ∧
          frame t ∧ sameBut [.units, .wqs, .nvm, .imc, .links, .free] s t)) ∧
    (∀ m j j' x k l rest, freeMover s = none → (urgentCandidate s .mover).isSome = true → victim s = some m →
      getUnit s (.mover m) = some j → j.wq ≠ none → freeSlots s = k :: l :: rest → moverBlock s j = (.ran j', x) →
      ∃ t, exec (.preemptFlushDone m []) s = .next t ∧ t.slots[k].code = .preempted ∧ t.slots[k].job = some j')

/-- A MOVE's block read from the source, or the pattern of a fill, is written from the Job's progress on; the last block ends the Job with OK. A TELEMETRY of the channels as they stand writes the record of Table 13-7 and ends; one of a sequencer whose trigger is not a Job's ends with 0x60, else it triggers the sequencer: idle, a sequence starts and the Job waits for its end; running, the trigger is held where the policy is hold and none is held, and the Job waits for the second end; dropped or off, it ends with 0x61; what it waited for come about, the record is written. An IMC_SEND on a link with its channel on queues its MOS, RETRAIN_REQ or LP_REQ, SEQ from TAG; with the channel off it ends with 0x68, an LP_REQ for a state that the link does not have with 0x69; one that no pad set has taken in time is withdrawn and ends with 0x6A. -/
def Obligations.MoverAndInbandJobsRun : Prop :=
  ∀ s : State, s.settled = true →
    (∀ m j b x n y, runningJob s (.mover m) opMove = some j → j.hold = none → j.entry.u8 0x10 % 2 = 0 →
      let total := j.entry.u32 0x0C
      let n0 := min (256 - j.done % 256) (total - j.done)
      ¬(j.entry.u32 4 < j.entry.u32 8 ∧ j.entry.u32 8 - j.entry.u32 4 < n0) → b.length = n0 → 0 < n0 →
      jobRead s j.ctx (j.entry.u32 4 + j.done) n0 j.entry.uninit = (.ok b, x) →
      jobWrite x j.ctx (j.entry.u32 8 + j.done) b = (none, n, y) →
      let k := { j with done := j.done + n }
      ∃ t, exec (.move m []) s = .next t ∧ RingOnly y t ∧
        getUnit t (.mover m) = some (if total ≤ j.done + n then k.finished stOk 0 else k)) ∧
    (∀ m j n y, runningJob s (.mover m) opMove = some j → j.hold = none → j.entry.u8 0x10 % 2 = 1 →
      let total := j.entry.u32 0x0C
      let n0 := min (256 - j.done % 256) (total - j.done)
      let data := (List.range n0).map fun i => j.entry.bytes.getD (0x14 + (j.done + i) % 4) 0
      jobWrite s j.ctx (j.entry.u32 8 + j.done) data = (none, n, y) →
      let k := { j with done := j.done + n }
      ∃ t, exec (.move m []) s = .next t ∧ RingOnly y t ∧
        getUnit t (.mover m) = some (if total ≤ j.done + n then k.finished stOk 0 else k)) ∧
    (∀ m j, runningJob s (.mover m) opTelemetry = some j → j.hold = none → j.prog = .plain →
      (∀ n y, j.entry.u8 8 = 0 → jobWrite s j.ctx (j.entry.u32 4)
          (bytesLE 2 1 ++ [j.entry.bytes.getD 8 0, 12] ++ zeros 4 ++ bytesLE 8 s.time.dtime.toNat ++
            s.tm.ch.toList.flatMap fun c => bytesLE 4 (tmchWord c).toNat) = (none, n, y) →
        ∃ t, exec (.telemetry m) s = .next t ∧ RingOnly y t ∧
          getUnit t (.mover m) = some ({ j with done := j.done + n }.finished stOk 0)) ∧
      (j.entry.u8 8 = 1 → s.tm.seqrs[(0 : SeqNo)].prog.trig ≠ 2 →
        exec (.telemetry m) s = .next { s with units := { s.units with movers := vput s.units.movers m (some (j.finished 0x60 0)) } }) ∧
      (∀ n : SeqNo, j.entry.u8 8 = n.val + 1 → s.tm.seqrs[n].prog.trig = 2 →
        let q := s.tm.seqrs[n]
        let goes := fun (k : Job) (x : TmSt) => exec (.telemetry m) s =
          .next { s with tm := x, units := { s.units with movers := vput s.units.movers m (some k) } }
        let missed := { s.tm with miss := vput s.tm.miss n (satInc s.tm.miss[n]) }
        (q.prog.on = false → goes (j.finished 0x61 0) s.tm) ∧
        (q.prog.on = true → q.hold = true → goes (j.finished 0x61 0) missed) ∧
        (q.prog.on = true → q.hold = false → q.running = false → goes { j with prog := .tele (some 1) q.prog.slots } { s.tm with
          seqrs := vput s.tm.seqrs n { q with cur := q.prog, running := true, slot := 0 }
          conv := s.tm.conv.or (some n), outs := if s.tm.conv.isNone then 0 else s.tm.outs }) ∧
        (q.prog.on = true → q.hold = false → q.running = true → q.prog.policy = true → q.pend = false →
          goes { j with prog := .tele (some 2) q.prog.slots } { s.tm with seqrs := vput s.tm.seqrs n { q with pend := true } }) ∧
        (q.prog.on = true → q.hold = false → q.running = true → (q.prog.policy = false ∨ q.pend = true) →
          goes (j.finished 0x61 0) missed))) ∧
    (∀ m j k slots, runningJob s (.mover m) opTelemetry = some j → j.hold = none → j.prog = .tele (some k) slots →
      (k ≠ 0 → exec (.telemetry m) s = .next s) ∧
      (∀ n y, k = 0 → jobWrite s j.ctx (j.entry.u32 4)
          (bytesLE 2 1 ++ [j.entry.bytes.getD 8 0, BitVec.ofNat 8 slots] ++ zeros 4 ++ bytesLE 8 s.time.dtime.toNat ++
            s.tm.ch.toList.flatMap fun c => bytesLE 4 (tmchWord c).toNat) = (none, n, y) →
        ∃ t, exec (.telemetry m) s = .next t ∧ RingOnly y t ∧
          getUnit t (.mover m) = some ({ j with done := j.done + n }.finished stOk 0))) ∧
    (∀ j, runningJob s .inband opImcSend = some j →
      let l : LinkNo := Fin.ofNat 8 (j.entry.u8 4)
      let dst := BitVec.ofNat 2 (j.entry.u8 5)
      let typ := BitVec.ofNat 4 (j.entry.u8 6)
      let lp := j.entry.u8 6 = 0x0A
      let has := (getLink s l).capLink.getLsbD (if j.entry.u8 7 = 3 then 2 else 1)
      (j.sent = false → imcOn (getLink s l) = true → (lp → has = true) → ∃ t, exec .imcSend s = .next t ∧
        getUnit t .inband = some { j with sent := true } ∧
        ⟨mosPrio typ, dst, typ, BitVec.ofNat 12 j.entry.tag, if lp then [BitVec.ofNat 8 (j.entry.u8 7)] else [], true⟩ ∈
          outOf (getLink t l) (towardNode dst) ∧ sameBut [.units, .links] s t) ∧
      (j.sent = false → imcOn (getLink s l) = true → lp → has = false → exec .imcSend s =
        .next { s with units := { s.units with inband := some (j.finished 0x69 0) } }) ∧
      (j.sent = false → imcOn (getLink s l) = false → exec .imcSend s =
        .next { s with units := { s.units with inband := some (j.finished 0x68 0) } }) ∧
      (j.sent = true → ∃ t, exec .imcNoSlot s = .next t ∧ getUnit t .inband = some (j.finished 0x6A 0) ∧
        sameBut [.units, .links] s t))

/-- A CAPTURE arms where its link and pages allow it; the trigger of the words in hand, where they meet the MATCH or ERROR that its entry watches, is noted with the row, the lowest lane that meets it and the time (log entry 93); after its last row or at its TIMEOUT without a trigger (0x58) the rows in hand and the header are written and the Job ends; a lost page ends it with 0x59, the page named and whether a header exists, and logs JOB_FAULT (log entry 78). An EYESCAN gathers the counts of a row, which is written whole with each count capped; the last row brings the header and the end; where CDR lock does not return, the row in hand is written, the points not measured as 0xFFFF, then the header, and it ends with 0x51. A PRBS Job turns on what its entry names, or ends with 0x50 and the reason; errors are injected one by one after the first lock; at its end its result is written and what it turned on is off: 0x52 where the checker never locked (which goes first, log entry 32), 0x53 with the milliseconds run where the part has ended the test, else OK. -/
def Obligations.CaptureAndLaneJobsRun : Prop :=
  ∀ s : State, s.settled = true →
    (∀ sd j, runningJob s (capUnit sd) opCapture = some j →
      let e := j.entry
      let goes := fun (p : Prog) (t : State) => getUnit t (capUnit sd) = some { j with prog := p } ∧ sameBut [.units] s t
      (∀ l, j.prog = .plain → captureLink s e = .ok l → writeBlocked s j.ctx (e.u32 4) (0x40 + e.u32 8) = none →
        ∃ t, exec (.capture sd) s = .next t ∧ goes (.cap l s.time.dtime 0 (Vector.replicate 4 0x8000)
          (if e.u8 0x14 = 0 then some (0, 0xFF, s.time.dtime) else none) []) t) ∧
      (∀ l arm rows now buf ln, j.prog = .cap l arm rows now none buf → wordTrigger e now = some ln →
        ∃ t, exec (.captureTrigger sd ln) s = .next t ∧ goes (.cap l arm rows now (some (rows, ln, s.time.dtime)) buf) t) ∧
      (∀ l arm rows now trig buf k x n y flags, j.prog = .cap l arm rows now trig buf → capFlush s j = (none, k, x) →
        writeBlocked x j.ctx (e.u32 4) 64 = none →
        jobWrite x j.ctx (e.u32 4) (capHeader x e l arm rows trig flags) = (none, n, y) →
        let ends := fun (i : Instr) (st : Byte) (r : Nat) => ∃ t, exec i s = .next t ∧ RingOnly y t ∧
          getUnit t (capUnit sd) = some { j with result := some (st, BitVec.ofNat 32 r), hold := none }
        (flags = 0 → capFull e rows trig = true → ends (.captureStop sd) stOk 0) ∧
        (flags = 4 → trig = none → e.u16 0x16 ≠ 0 → ends (.captureTimeout sd) 0x58 (min rows (capRows e)))) ∧
      (∀ l arm rows now trig buf cause va, j.prog = .cap l arm rows now trig buf →
        let rb := captureRowBytes (e.u8 0x0D)
        let first := rows - buf.length / rb
        writeBlocked s j.ctx (e.u32 4 + 0x40 + first % capRows e * rb) (buf.length + rb) = some (cause, va) →
        let page := va / 0x1000 * 0x1000
        ∃ t, exec (.captureLostPage sd) s = .next t ∧ getUnit t (capUnit sd) = some { j with
          result := some (0x59, BitVec.ofNat 32 (if writeBlocked s j.ctx (e.u32 4) 64 = none then page else page + 1)), hold := none } ∧
          (∃ r ∈ t.nvm.logWait, r.code = 0x0901 ∧ r.ctx = j.ctx) ∧ sameBut (.win :: byEnd) s t)) ∧
    (∀ sd p j head mfl part last, runningJob s (.lane sd p) opEyescan = some j → j.prog = .eye head mfl part last → j.hold = none →
      let u : UnitId := .lane sd p
      let va := j.entry.u32 0x0C
      let k := j.entry.u8 7
      let moved := withMoved s sd p head mfl
      (∀ counts : List Word, (getLane s sd p).rx.cdrLock = true → isTap s p = false → trainsSweep s sd p = false →
        let most := 2 ^ (12 + 2 * j.entry.u8 5)
        let row := (part ++ counts.map fun c => if c.toNat ≤ most then c else BitVec.ofNat 32 most).take k
        let bytes := row.flatMap fun c => bytesLE 2 (min c.toNat 0xFFFE)
        (row.length < k → ∃ t, exec (.eyescan sd p counts) s = .next t ∧
          getUnit t u = some { j with prog := .eye head moved row s.time.dtime } ∧ sameBut [.units] s t) ∧
        (∀ m y, row.length = k → moved.getLsbD 2 = false → jobWrite s j.ctx (va + 32 + 2 * j.done) bytes = (none, m, y) →
          (j.done + k < k * j.entry.u8 9 → ∃ t, exec (.eyescan sd p counts) s = .next t ∧ RingOnly y t ∧
            getUnit t u = some { j with done := j.done + k, prog := .eye head moved [] s.time.dtime }) ∧
          (∀ m' z, k * j.entry.u8 9 ≤ j.done + k → jobWrite y j.ctx va (mapEnd head moved s.time.dtime (j.done + k)) = (none, m', z) →
            ∃ t, exec (.eyescan sd p counts) s = .next t ∧ RingOnly z t ∧
              getUnit t u = some ({ j with done := j.done + k, prog := .eye head moved [] s.time.dtime }.finished stOk 0)))) ∧
      (∀ m m' y z, (getLane s sd p).rx.cdrLock = false →
        let upto := j.done + part.length
        jobWrite s j.ctx (va + 32 + 2 * j.done) ((part.flatMap fun c => bytesLE 2 (min c.toNat 0xFFFE)) ++
          List.replicate (2 * (k * j.entry.u8 9 - upto)) 0xFF) = (none, m, y) →
        jobWrite y j.ctx va (mapEnd head (moved ||| 5) last upto) = (none, m', z) →
        ∃ t, exec (.eyescanLockTimeout sd p) s = .next t ∧ RingOnly z t ∧
          getUnit t u = some ({ j with done := upto, prog := .eye head (moved ||| 5) [] last }.finished 0x51 upto))) ∧
    (∀ sd p j, runningJob s (.lane sd p) opPrbs = some j →
      let e := j.entry
      let u : UnitId := .lane sd p
      let m := (getLane s sd p).meas
      (j.prog = .plain →
        (prbsJobRefusal s sd p e ≠ 0 → ∃ t, exec (.prbsJob sd p) s = .next t ∧
          getUnit t u = some (j.finished 0x50 (prbsJobRefusal s sd p e).toNat) ∧ sameBut [.units] s t) ∧
        (prbsJobRefusal s sd p e = 0 → ∃ t, exec (.prbsJob sd p) s = .next t ∧
          getUnit t u = some { j with prog := .prbs (s.time.elapsed, s.time.dtime) none false 0 0 none } ∧
          (getLane t sd p).meas.genEn = (m.genEn || prbsGen e) ∧ (getLane t sd p).meas.chkEn = (m.chkEn || prbsChk e) ∧
          (getLane t sd p).meas.pattern = (e.bytes.getD 6 0).extractLsb' 0 3 ∧
          (getLane t sd p).meas.invert = (e.bytes.getD 6 0).getLsbD 3 ∧
          (getLane t sd p).meas.loopMode = if prbsLoop e = 0 then m.loopMode else prbsLoop e)) ∧
      (∀ start t0 lost losses n ended, j.prog = .prbs start (some t0) lost losses n ended → j.hold = none →
        n < e.u16 0x14 → prbsGen e = true → ∃ t, exec (.prbsJobInject sd p) s = .next t ∧
          getUnit t u = some { j with prog := .prbs start (some t0) lost losses (n + 1) ended } ∧
          (getLane t sd p).meas = { m with inject := true } ∧ sameBut [.units, .lanes] s t) ∧
      (∀ start locked lost losses n, j.prog = .prbs start locked lost losses n none → j.hold = none →
        let data := prbsResult s sd p e start locked lost losses n false
        let k := { j with hold := some (e.u32 0x10, data), prog := .prbs start locked lost losses n none }
        ∀ w y, jobWrite (coolIdle (prbsOff (setUnit s u (some k)) sd p e) p) j.ctx (e.u32 0x10) data = (none, w, y) →
        ∃ t, exec (.prbsJobDurationEnd sd p) s = .next t ∧ RingOnly y t ∧
          getUnit t u = some ({ j with prog := .prbs start locked lost losses n none }.finished
            (if prbsChk e && locked.isNone then 0x52 else stOk) 0) ∧
          (prbsGen e = true → (getLane t sd p).meas.genEn = false)) ∧
      (∀ start locked lost losses n ended va data w y, j.prog = .prbs start locked lost losses n ended → j.hold = some (va, data) →
        jobWrite (coolIdle s p) j.ctx va data = (none, w, y) → ∃ t, exec (.prbsJobDurationEnd sd p) s = .next t ∧ RingOnly y t ∧
          (prbsChk e = true → locked = none → getUnit t u = some ({ j with hold := none }.finished 0x52 0)) ∧
          (prbsChk e = false ∨ locked ≠ none →
            (∀ ms, ended = some ms → getUnit t u = some ({ j with hold := none }.finished 0x53 ms)) ∧
            (ended = none → getUnit t u = some ({ j with hold := none }.finished stOk 0)))))

/-- Where AWLCMD is written while BUSY, or names a unit or lane that does not exist, REFUSED and the reason are set and nothing else changes. Accepted, the command is BUSY; QUEUE, JOB and ALL leave no Job that they name on any unit, suspended or in a Slot, no entry that they name waiting and no FENCE of theirs begun, and QUEUE puts an ACTIVE or ERROR queue into DRAINING; UNIT leaves the unit empty; LANE leaves the lane's engine empty, and its generator, checker and scan off. At its end the counts stand in AWLOUT, saturated, the event 0x0903 is logged, and the named queue is DISABLED where it was DRAINING with nothing in flight. -/
def Obligations.AwlEndsEveryNamedJob : Prop :=
  ∀ (s : State) (c : Ctx), s.settled = true →
    let refused := fun why : BitVec 2 => ({ s with awl := { s.awl with refused := true, reason := why } } : State)
    let ended := fun (t : State) (f : Job → Bool) (g : WqNo → QEntry → Bool) => t.awl.busy = true ∧ t.awl.done = false ∧
      (∀ u j, getUnit t u = some j → f j = false) ∧ (∀ j, t.units.held = some j → f j = false) ∧
      (∀ (k : SlotNo) j, t.slots[k].code ≠ .free → t.slots[k].job = some j → f j = false) ∧
      (∀ q e, e ∈ (getWq t q).waiting → g q e = false) ∧ (∀ q x, (getWq t q).fence = some x → g q x.entry = false)
    (opens s c .awlcmd → s.awl.busy = true → (∀ q, exec (.awlQueue c q) s = .next (refused 1)) ∧
      (∀ q tag, exec (.awlJob c q tag) s = .next (refused 1)) ∧ (∀ sel, exec (.awlUnit c sel) s = .next (refused 1)) ∧
      (∀ sel, exec (.awlLane c sel) s = .next (refused 1)) ∧ exec (.awlAll c) s = .next (refused 1)) ∧
    (opens s c .awlcmd → s.awl.busy = false →
      (∀ q, ∃ t, exec (.awlQueue c q) s = .next t ∧ ended t (fun j => j.wq == some q) (fun r _ => r == q) ∧
        ((getWq s q).code = .active ∨ (getWq s q).code = .error → (getWq t q).code = .draining)) ∧
      (∀ q (tag : BitVec 16), ∃ t, exec (.awlJob c q tag) s = .next t ∧
        ended t (fun j => j.wq == some q && j.entry.tag == tag.toNat) (fun r e => r == q && e.tag == tag.toNat)) ∧
      (∃ t, exec (.awlAll c) s = .next t ∧ ended t (fun _ => true) (fun _ _ => true)) ∧
      (∀ sel : BitVec 8, sel.toNat < 8 →
        let u : UnitId := match sel.toNat with
          | 4 => .nvm
          | 5 => .cap .A
          | 6 => .cap .B
          | 7 => .inband
          | n => .mover (Fin.ofNat 4 n)
        ∃ t, exec (.awlUnit c sel) s = .next t ∧ t.awl.busy = true ∧
          ((u = .nvm → s.units.held = none) → getUnit t u = none)) ∧
      (∀ sel : BitVec 8, 8 ≤ sel.toNat → exec (.awlUnit c sel) s = .next (refused 2)) ∧
      (∀ (sel : BitVec 8) sd p, laneOfByte sel.toNat = some (sd, p) → ∃ t, exec (.awlLane c sel) s = .next t ∧
        t.awl.busy = true ∧ getUnit t (.lane sd p) = none ∧ (getLane t sd p).meas.genEn = false ∧
        (getLane t sd p).meas.chkEn = false ∧ (getLane t sd p).meas.scanBusy = false) ∧
      (∀ sel : BitVec 8, laneOfByte sel.toNat = none → exec (.awlLane c sel) s = .next (refused 2))) ∧
    (s.awl.busy = false → exec .awlDone s = .next s) ∧
    (s.awl.busy = true →
      let a := s.awl
      let all := a.running + a.preempted + a.parked + a.waiting
      let out : Vector Word 4 := #v[a.cmd, wordOf [at_ (sat8 a.running) 0, at_ (sat8 a.preempted) 8, at_ (sat8 a.parked) 16,
        at_ (sat8 a.waiting) 24], awlOut2 a, a.nvmOff]
      ∃ t, exec .awlDone s = .next t ∧ logged s t 0x0903 0 (out.toList.flatMap fun w => bytesLE 4 w.toNat) ∧
        t.awl = { a with busy := false, done := true, elapsed := sat8 (microsFrom s a.since), jobs := sat8 all, out := out } ∧
        (∀ q : WqNo, fld a.cmd 0 3 = 1 → (fld a.cmd 3 5).toFin = q → (getWq s q).code = .draining → inflight s q = 0 →
          (getWq t q).code = .disabled))

/-- A block of a LAST_STAGE is added to the bank; the last one checks the image: SHADOW is STAGED and the Job ends OK, or REJECTED and it ends with 0x42 and the failing code. A commit that Table 4-3 refuses sets REFUSE only; one that only needs hitless changes, on a device with no cause that has booted, is accepted: each link's outcome is 0, APPLIED at once where it carries no traffic or is Transparent, or pending until its own switch instant. That instant, or the skip set's absence (logged as 0x0202), gives APPLIED. Where one link alone differs, in class T: without traffic it takes up the image at once, APPLIED; a Transparent one takes it up, and restarts its lanes; a Participating one asks for a retrain, or, without its channel, enters RETRAIN; it switches as it enters RETRAIN, and is RETRAINED as it comes to ACTIVE. In class D its transmitters go idle on every position that it names before or after, it takes up the image, stands in the start state of its new record, and is RESTARTED, or APPLIED without traffic. (A spare that still serves keeps its place in the record, R223.) The commit is over when no outcome is pending. DISCARD by the staging context empties SHADOW; otherwise it is refused (for which case first, log entry 88). A link that has switched and trains in vain goes back to the old image with ROLLED_BACK, and makes its retrain request anew (a Transparent one restarts its lanes): from DETECT it is in RETRAIN with its transmitters idle; one that is DISABLED stays so (this is the model's choice, log entry 73). -/
def Obligations.CommitsApplyLinkByLink : Prop :=
  ∀ s : State, s.settled = true →
    let lastOf := fun (t : State) (x : LastSt) => ∃ w, t.last = { x with working := w }
    let ends := fun (i : Instr) (l : LinkNo) (x : LastSt) => ∃ t, exec i s = .next t ∧ (getLink t l).pend = .none ∧
      lastOf t (if x.shadow = .committing ∧ ∀ j : LinkNo, x.outcome[j] ≠ 1 then
        { x with shadow := .empty, staged := none, bank := [], done := true } else x)
    (∀ m j b x, runningJob s (.mover m) opLastStage = some j → x.heel.restartDue = false →
      let n := min (256 - j.done % 256) (j.entry.u32 8 - j.done)
      jobRead s j.ctx (j.entry.u32 4 + j.done) n j.entry.uninit = (.ok b, x) →
      let bank := s.last.bank ++ b
      let k := { j with done := j.done + n }
      let gives := fun (q : Job) (y : LastSt) => ∃ t, exec (.lastStage m []) s = .next t ∧ getUnit t (.mover m) = some q ∧ t.last = y
      (j.done + n < j.entry.u32 8 → gives k { s.last with bank := bank }) ∧
      (j.entry.u32 8 ≤ j.done + n →
        (∀ code, checkStaged bank (j.entry.u32 8) = (code, none) → gives (k.finished 0x42 code.toNat)
          { s.last with bank := bank, shadow := .rejected, staged := none, result := code }) ∧
        (∀ code m, checkStaged bank (j.entry.u32 8) = (code, some m) → gives (k.finished stOk 0)
          { s.last with
            bank := bank, shadow := .staged, staged := some m, stager := j.ctx, result := stageResult s.last.working m code j.ctx
            diff := Vector.ofFn fun l => linkDiff s.last.working m l, bootDiff := bootDiffers s.last.working m
            globalDiff := globalDiffers s.last.working m }))) ∧
    (∀ c v, opens s c .lastcmd →
      let r := commitRefusal s c (setBit v 0 true)
      (r ≠ 0 → exec (.commit c v) s = .next { s with last := { s.last with refuse := r } }) ∧
      (∀ img, r = 0 → s.last.staged = some img → s.boot.done = true → devCause s = false →
        (∀ l, (getLink s l).join ≠ .forced) → (∀ l : LinkNo, s.last.diff[l].toNat ≤ 1) →
        let outcome : Vector (BitVec 4) 8 := Vector.ofFn fun l =>
          if s.last.diff[l] = 0 then 0 else if noTraffic (getLink s l) || isTrans s l then resApplied else 1
        let x := { s.last with shadow := .committing, done := false, mixed := false, refuse := 0, old := s.last.working, outcome := outcome }
        ∃ t, exec (.commit c v) s = .next t ∧ (∀ l : LinkNo, outcome[l] = 1 → (getLink t l).pend = .hitless) ∧
          lastOf t (if ∀ j : LinkNo, outcome[j] ≠ 1 then { x with shadow := .empty, staged := none, bank := [], done := true } else x)) ∧
      (v.getLsbD 0 = false →
        exec (.discard c v) s = .next { s with last :=
          if s.last.shadow = .empty then { s.last with refuse := 1 }
          else if s.last.shadow = .staging ∨ s.last.shadow = .committing then { s.last with refuse := 3 }
          else if c ≠ s.last.stager then { s.last with refuse := 2 }
          else { s.last with shadow := .empty, staged := none, bank := [], refuse := 0 } })) ∧
    (∀ c v img l, opens s c .lastcmd → commitRefusal s c (setBit v 0 true) = 0 → s.last.staged = some img → s.boot.done = true →
      devCause s = false → (∀ j, (getLink s j).join ≠ .forced) → (∀ j : LinkNo, j ≠ l → s.last.diff[j] = 0) →
      let k := getLink s l
      let taken := fun t : State => match img.links[l] with
        | none => t.last.working.links[l] = none
        | some r => ∃ a b, t.last.working.links[l] = some { r with spare0 := a, spare1 := b }
      let ended := fun (t : State) (r : BitVec 4) => t.last.outcome[l] = r ∧ t.last.done = true ∧ t.last.shadow = .empty ∧ taken t
      let waits := fun (t : State) (x : PendKind) => t.last.outcome[l] = 1 ∧ t.last.shadow = .committing ∧ (getLink t l).pend = x
      (s.last.diff[l] = 2 →
        (noTraffic k = true → ∃ t, exec (.commit c v) s = .next t ∧ ended t resApplied) ∧
        (noTraffic k = false → isTrans s l = true → ∃ t, exec (.commit c v) s = .next t ∧ waits t .switched ∧ taken t ∧
          (getLink t l).idleOut = true ∧ ∀ p ∈ linkPoss t.last.working l, isTap t p = false → ∀ sd, (getLane t sd p).rx.cdrLock = false) ∧
        (noTraffic k = false → isTrans s l = false → imcOn k = true → ∃ t, exec (.commit c v) s = .next t ∧ waits t .retrain ∧
          t.last.working.links[l] = s.last.working.links[l] ∧ (getLink t l).retrainAsked = true ∧ (getLink t l).st = k.st) ∧
        (noTraffic k = false → isTrans s l = false → imcOn k = false → ∃ t, exec (.commit c v) s = .next t ∧ waits t .switched ∧ taken t ∧
          (getLink t l).st = .retrain ∧ (getLink t l).idleOut = true)) ∧
      (s.last.diff[l] = 3 → ∃ t, exec (.commit c v) s = .next t ∧ t.last.outcome[l] = (if noTraffic k then resApplied else resRestarted) ∧
        t.last.done = true ∧ t.last.shadow = .empty ∧ taken t ∧ (getLink t l).st = .notTraining ∧
        (∀ sd p, namesPos s.last.working l p = true ∨ namesPos img l p = true → (getLane t sd p).tx.on = false) ∧
        (getLink t l).join = match img.links[l] with
          | none => .cfgBypass
          | some r => if r.mode = .bypass then .cfgBypass else if k.aside then .aside else match r.join with
            | .immediate => .joining
            | .nextTrain => if noSignal t l then .joining else .waitTrain
            | .host => .waitHost)) ∧
    (∀ l img, (getLink s l).pend = .retrain → (getLink s l).retrainAsked = true → s.last.staged = some img →
      ∃ t, exec (.forcedIdleRetrain l) s = .next t ∧ (getLink t l).st = .retrain ∧ (getLink t l).pend = .switched ∧
        t.last.outcome = s.last.outcome ∧ match img.links[l] with
          | none => t.last.working.links[l] = none
          | some r => ∃ a b, t.last.working.links[l] = some { r with spare0 := a, spare1 := b }) ∧
    (∀ l d p, mgmtRx s l d = some p → isPart s l = true → symShown s d.rxSide p = true → (getLink s l).st = .exchange →
      (sideTr (getLink s l) d.rxSide).exchDone = true → (sideTr (getLink s l) d.rxSide.other).active = true →
      (getLink s l).pend = .switched →
      let x := { s.last with outcome := vput s.last.outcome l resRetrained }
      ends (.padSetPasses l d) l x ∧ ∀ t, exec (.padSetPasses l d) s = .next t → (getLink t l).st = .active) ∧
    (∀ l, ((getLink s l).pend ≠ .hitless → exec (.linkSwitchInstant l) s = .next s ∧ exec (.skipAbsent l) s = .next s) ∧
      ((getLink s l).pend = .hitless →
        let x := { s.last with outcome := vput s.last.outcome l resApplied }
        ends (.linkSwitchInstant l) l x ∧ ends (.skipAbsent l) l x ∧
        ∀ t, exec (.skipAbsent l) s = .next t → ∃ r ∈ t.nvm.logWait, r.code = 0x0202 ∧ r.data = padTo 12 [BitVec.ofNat 8 l.val]) ∧
      ((getLink s l).pend ≠ .switched → exec (.commitRollback l) s = .next s) ∧
      ((getLink s l).pend = .switched →
        ends (.commitRollback l) l { s.last with outcome := vput s.last.outcome l resRolledBack, mixed := true } ∧
        ∀ t, exec (.commitRollback l) s = .next t →
          let trans := ∃ r, s.last.old.links[l] = some r ∧ r.mode = .transparent
          (trans ∨ (getLink s l).st = .detect → (getLink t l).idleOut = true) ∧
          (¬ trans → (getLink s l).st = .detect → (getLink t l).st = .retrain) ∧
          (¬ trans → (getLink s l).st = .disabled → (getLink t l).st = .disabled)))

/-- A link in WAIT_TRAIN goes to JOINING at its trigger or, with the event 0x0401, after its time; LNKCTL.JOIN takes it there from either waiting state; anything else starts nothing. LNKCTL.ASIDE set stands a link aside from any state but FORCED, Bypass and aside; cleared it puts it in its start state, WAIT_HOST for a record that says so. DEVCTL.ASIDE and BYP_N low are device-wide causes: every position is commanded closed and every link FORCED. THERM_REARM ends a shutdown only where two samples have been taken and the temperature is held below its threshold. The charge pump becomes ready only with its rail. Positions follow their causes after each. -/
def Obligations.LinksJoinAndStandAside : Prop :=
  ∀ s : State, s.settled = true →
    let caused := fun t : State => devCause t = true ∧ (∀ p : Pos, t.welt.cmdOpen[p] = false) ∧ ∀ l, (getLink t l).join = .forced
    let joins := fun (t : State) (l : LinkNo) => (getLink t l).join = .joining ∧ (getLink t l).joinSeen = true ∧ weltFollows t
    (∀ l trig, ((getLink s l).join ≠ .waitTrain ∨ isTrigger s l trig = false → exec (.joinTrigger l trig) s = .next s) ∧
      ((getLink s l).join = .waitTrain → isTrigger s l trig = true → devCause s = false →
        ∃ t, exec (.joinTrigger l trig) s = .next t ∧ joins t l)) ∧
    (∀ l, ((getLink s l).join ≠ .waitTrain → exec (.joinTimeout l) s = .next s) ∧
      ((getLink s l).join = .waitTrain → devCause s = false → ∃ t, exec (.joinTimeout l) s = .next t ∧ joins t l ∧
        ∃ r ∈ t.nvm.logWait, r.code = 0x0401 ∧ r.data = padTo 12 [BitVec.ofNat 8 l.val])) ∧
    (∀ c l v, opens s c (.lnkctl l) → s.dev.standby = false → devCause s = false → (getLink s l).disable = false →
      v.getLsbD 0 = false → v.getLsbD 1 = false → v.getLsbD 3 = false →
      ((getLink s l).st = .notTraining → v.getLsbD 30 = false → (getLink s l).aside = false →
        (getLink s l).join = .waitTrain ∨ (getLink s l).join = .waitHost →
        ∃ t, exec (.lnkctlJoin c l v) s = .next t ∧ joins t l ∧ (getLink t l).eqFixed = v.getLsbD 2) ∧
      (v.getLsbD 31 = false → v.getLsbD 30 = true → (getLink s l).aside = false →
        (getLink s l).join ≠ .forced → (getLink s l).join ≠ .cfgBypass → (getLink s l).join ≠ .aside →
        ∃ t, exec (.lnkctlAside c l v) s = .next t ∧ (getLink t l).join = .aside ∧ (getLink t l).aside = true ∧
          (getLink t l).st = .notTraining) ∧
      (v.getLsbD 31 = false → v.getLsbD 30 = false → (getLink s l).join = .aside → (getLink s l).aside = true →
        (∀ r, linkRec s l = some r → r.mode ≠ .bypass ∧ r.join = .host) → (linkRec s l).isSome = true →
        ∃ t, exec (.lnkctlAside c l v) s = .next t ∧ (getLink t l).join = .waitHost ∧ (getLink t l).aside = false)) ∧
    (∀ c v, opens s c .devctl → s.dev.waking = false → v.getLsbD 0 = false → v.getLsbD 1 = false →
      (v.getLsbD 2 = true → v.getLsbD 3 = false → ∃ t, exec (.devctlAside c v) s = .next t ∧ caused t ∧
        t.dev = { s.dev with aside := true } ∧ t.therm = s.therm) ∧
      (v.getLsbD 2 = false → v.getLsbD 3 = false → devCause { s with dev := { s.dev with aside := false } } = false → s.boot.done = true →
        ∃ t, exec (.devctlAside c v) s = .next t ∧ t.dev = { s.dev with aside := false } ∧ weltFollows t ∧
          ∀ l, (getLink t l).join ≠ .forced) ∧
      (∃ t, exec (.devctlThermRearm c v) s = .next t ∧ t.dev = { s.dev with aside := v.getLsbD 2 } ∧ weltFollows t ∧
        t.therm = { s.therm with shutdown := s.therm.shutdown && !(s.therm.samples == 2 && !s.therm.above[2]) })) ∧
    (∃ t, exec .bypNPulse s = .next t ∧ t.pins = { s.pins with bypN := false } ∧ caused t) ∧
    (∃ t, exec .chargePumpReady s = .next t ∧ unbanded s t = { s.power with pumpReady := s.power.valid[7] } ∧ weltFollows t ∧
      (s.power.valid[7] = false → caused t))

/-- DEVCTL.STANDBY is refused (STBY_REFUSED) where a Job runs or stands in a Slot, the NVM engine works, a link is JOINING or a commit is in progress, else it is on its way in. As it takes effect the device is in Standby, every position is commanded closed, and the Store, the Windows, the units, the Slots, the queues and the lanes hold what power-up gives them, the queues with their records' mirrors, and nothing is staged any more; the two-wire interface stays as it is. WAKE in Standby takes BOOT_DONE away (this, the mirrors and STBY_REFUSED: log entry 50); at the end of the exit the device is out of Standby with BOOT_DONE set, and where no other cause is left no link is FORCED. -/
def Obligations.StandbyIsEnteredAndLeft : Prop :=
  ∀ s : State, s.settled = true →
    (∀ c v, opens s c .devctl → s.dev.waking = false → v.getLsbD 1 = false → v.getLsbD 3 = false →
      (standbyBlocked s = true → ∃ t, exec (.devctlStandby c v) s = .next t ∧
        t.dev = { s.dev with stbyRefused := true, aside := v.getLsbD 2 } ∧ weltFollows t) ∧
      (standbyBlocked s = false → ∃ t, exec (.devctlStandby c v) s = .next t ∧
        t.dev = { s.dev with stbyRefused := false, entering := !s.dev.standby, aside := v.getLsbD 2 } ∧ weltFollows t)) ∧
    (s.dev.entering = false → exec .standbyEntered s = .next s) ∧
    (s.dev.entering = true → ∃ t, exec .standbyEntered s = .next t ∧ t.dev = { s.dev with standby := true, entering := false } ∧
      (∀ p : Pos, t.welt.cmdOpen[p] = false) ∧ t.store = State.reset.store ∧ t.win = State.reset.win ∧ t.units = State.reset.units ∧
      t.slots = State.reset.slots ∧ t.sched = State.reset.sched ∧ t.twb = s.twb ∧
      t.last.shadow = .empty ∧ t.last.staged = none ∧ t.last.bank = [] ∧
      (∀ q : WqNo, t.wqs[q] = { State.reset.wqs[q] with cfg := t.last.working.wqs[q] }) ∧
      (∀ sd p, (getLane t sd p).rx = (getLane State.reset sd p).rx ∧ (getLane t sd p).tx = (getLane State.reset sd p).tx ∧
        (getLane t sd p).meas = (getLane State.reset sd p).meas)) ∧
    (∀ c v, opens s c .devctl → s.dev.standby = true → v.getLsbD 0 = false → v.getLsbD 3 = false →
      ∃ t, exec (.devctlWake c v) s = .next t ∧ t.dev = { s.dev with waking := true, aside := v.getLsbD 2 } ∧
        t.boot = { s.boot with done := false }) ∧
    (s.dev.waking = false → exec .standbyExitDone s = .next s) ∧
    (s.dev.waking = true → ∃ t, exec .standbyExitDone s = .next t ∧ t.dev = { s.dev with standby := false, waking := false } ∧
      t.boot = { s.boot with done := true } ∧ t.twb = { s.twb with awake := true } ∧ weltFollows t ∧
      (devCause { s with dev := { s.dev with standby := false } } = false → ∀ l, (getLink t l).join ≠ .forced))

/-- A read that returns 0xFFFF_FFFF because its island is powered down, or because the requesting context lacks permission, clears no RC field: TMMISS and both IMCCNT show the words they showed before, to every context. -/
def Obligations.RefusedReadClearsNothing : Prop :=
  ∀ (s : State) (c : Ctx) (r : Reg) (e : List Upset), served s c = true → (mayRead s c (regAddr r) = false ∨ islandOff s (decodeAddr (regAddr r)).island = true) →
    ∃ t, exec (.regReadClear c (regAddr r) e) s = .next t ∧ t.acc.rdata[c] = 0xFFFFFFFF ∧
      ∀ x : Ctx, regValue t x .tmmiss = regValue s x .tmmiss ∧ ∀ sd, regValue t x (.imccnt sd) = regValue s x (.imccnt sd)

/-- Errors of memory come about before the command that names them: a command that reads or merges words of the Store or units of the NVM acts as it does with none named, on the state in which they stand (R310, R312, R423, R424). That an error comes with a command, and before it, is the model's choice (log entry 80). An error changes no byte and nothing but its word's entry; of several at one word the last stands, and words not named keep what stood. -/
def Obligations.UpsetsComeFirst : Prop :=
  (∀ (s : State) (e : List Upset),
    (∀ m, exec (.move m e) s = exec (.move m []) (upset s e) ∧ exec (.lastStage m e) s = exec (.lastStage m []) (upset s e) ∧
      exec (.preemptFlushDone m e) s = exec (.preemptFlushDone m []) (upset s e)) ∧
    (∀ v, exec (.twbWriteWord v e) s = exec (.twbWriteWord v []) (upset s e)) ∧
    exec (.twbReadWord e) s = exec (.twbReadWord []) (upset s e) ∧
    (∀ l sd m, exec (.mosReceived l sd m e) s = exec (.mosReceived l sd m []) (upset s e)) ∧
    (∀ l sd q a two, exec (.mosRd l sd q a two e) s = exec (.mosRd l sd q a two []) (upset s e)) ∧
    (∀ l sd q a v, exec (.mosWr l sd q a v e) s = exec (.mosWr l sd q a v []) (upset s e)) ∧
    (∀ c a, exec (.storeRead c a e) s = exec (.storeRead c a []) (upset s e) ∧
      ∀ v, exec (.storeWrite c a v e) s = exec (.storeWrite c a v []) (upset s e)) ∧
    (∀ c a, exec (.regReadClear c a e) s = exec (.regReadClear c a []) (upset s e) ∧
      ∀ v, exec (.regWrite c a v e) s = exec (.regWrite c a v []) (upset s e)) ∧
    (∀ c off, exec (.nvmWindowRead c off e) s = exec (.nvmWindowRead c off []) (upset s e)) ∧
    exec (.scrubLine e) s = exec (.scrubLine []) (upset s e) ∧ exec (.nvmRead e) s = exec (.nvmRead []) (upset s e) ∧
    exec (.nvmProgram e) s = exec (.nvmProgram []) (upset s e) ∧
    (∀ q, exec (.entryPrefetch q e) s = exec (.entryPrefetch q []) (upset s e))) ∧
  (∀ (s : State) (e : List Upset), s.canon = true →
    let t := upset s e
    let stands := fun u : State => (u.store.upsets, u.nvm.upsets, u.nvm.otpUpsets)
    t = { s with store := { s.store with upsets := (stands t).1 },
                 nvm := { s.nvm with upsets := (stands t).2.1, otpUpsets := (stands t).2.2 } } ∧
    t.canon = true ∧
    (∀ w f, tabGet .clean w.toNat (stands (upset s (e ++ [.store w f]))).1 = f) ∧
    (∀ w f, tabGet .clean w.toNat (stands (upset s (e ++ [.nvm w f]))).2.1 = f) ∧
    (∀ w f, tabGet .clean w.toNat (stands (upset s (e ++ [.otp w f]))).2.2 = f) ∧
    (∀ n : Nat, (∀ w f, Upset.store w f ∈ e → w.toNat ≠ n) → tabGet .clean n (stands t).1 = tabGet .clean n (stands s).1) ∧
    (∀ n : Nat, (∀ w f, Upset.nvm w f ∈ e → w.toNat ≠ n) → tabGet .clean n (stands t).2.1 = tabGet .clean n (stands s).2.1) ∧
    (∀ n : Nat, (∀ w f, Upset.otp w f ∈ e → w.toNat ≠ n) → tabGet .clean n (stands t).2.2 = tabGet .clean n (stands s).2.2))

/-- A receiver without power takes nothing in. A detected rate is shown, and on logical lane 0 of a Participating link in DETECT without a rate it is the link's, where that can run at it. Clock lock comes unless the lane is a COLD spare's under a cold policy, or its direction sleeps; its loss takes symbol lock with it and aborts a scan point. Where loss decisions are made it loses the lane too: LNKERR, LNKLOSS with cause 1, LANE_LOST (0x0405), and what the policy does: nothing for HOLD; idle and 0x0407 for DOWN; for DEGRADE half the width by a retrain; for SPARE a swap onto a WARM spare, or with none left DEGRADE with 0x0408; with every trained lane of the direction lost a retrain. The first comma sets the boundary, two more on it give symbol lock, four in a row on another boundary move it and clear the lock. With symbol lock and no checker a code group counts one symbol, and one error where it is bad. The group joins the elastic buffer as it came; at 25 the buffer is brought to 16 from the read end, with 8 K30.7 owed, overflow and 0x0301; at 7 by 9 K30.7 inserted, underflow and 0x0302. A symbol that is read goes out as it came in; K30.7 goes where one was inserted, and where decode checking is on and the running disparity before it is not the output's. A skip set on a joined Transparent link asks for one SKP less above a fill of 17, one more below 15. The window's end clears every lane's count; a loop that holds moves to the lowest lane with clock lock. Signal detect follows signal and idle, which on logical lane 0 end DISABLED and LOOPBACK, or disable the link as its partner asked; in RETRAIN the rate may then be detected anew. -/
def Obligations.ReceiversFollowWhatArrives : Prop :=
  ∀ (s : State) (sd : Side) (p : Pos), s.settled = true →
    let n := getLane s sd p
    let on := rxPowered s sd p
    let gives := fun (i : Instr) (f : LaneRx → LaneRx) => exec i s = .next (modRx s sd p f)
    let calm := feeds s sd p = none ∨ ∃ l k, feeds s sd p = some (l, k) ∧ isPart s l = true ∧ (getLink s l).waking = none
    let aligns := on && commaOn s sd p && n.rx.cdrLock
    (on = false → (∀ r, exec (.rateDetected sd p r) s = .next s) ∧ exec (.cdrLockGained sd p) s = .next s ∧
      (∀ ph, exec (.commaReceived sd p ph) s = .next s) ∧
      (∀ g k, ∃ t, exec (.rxCodeGroup sd p g k) s = .next t ∧ (getLane t sd p).rx = n.rx) ∧
      ∀ k, exec (.skipSetArrives sd p k) s = .next s) ∧
    (∀ r, on = true → ∃ t, exec (.rateDetected sd p r) s = .next t ∧
      getLane t sd p = { n with rx := { n.rx with rate := rateCode r } } ∧ otherLanes s t sd p ∧ sameBut (.lanes :: byEvent) s t ∧
      ∀ l, whoRx s sd p = some (.lane l 0) → isPart s l = true → (getLink s l).join = .joined → (getLink s l).st = .detect →
        (getLink s l).rate = 0 →
        (getLink t l).rate = if (linkRec s l).any (rateServed s.last.working · (rateCode r)) then rateCode r else 0) ∧
    (coldRx s sd p = true ∨ sleepingRx s sd p = true → exec (.cdrLockGained sd p) s = .next s) ∧
    (on = true → coldRx s sd p = false → sleepingRx s sd p = false → calm → gives (.cdrLockGained sd p) fun x => { x with cdrLock := true }) ∧
    (n.rx.cdrLock = false → exec (.cdrLockLost sd p) s = .next s) ∧
    (n.rx.cdrLock = true → ∃ t, exec (.cdrLockLost sd p) s = .next t ∧ (getLane t sd p).rx.cdrLock = false ∧
      (getLane t sd p).rx.symLock = false ∧ (getLane t sd p).meas.scanBusy = false ∧
      (n.meas.scanBusy = true → (getLane t sd p).meas.scanAborted = true)) ∧
    (∀ l k, feeds s sd p = some (l, k) → n.rx.cdrLock = true → mayLose s l sd.rxDir k = true → (getLink s l).pend = .none →
      (getLink s l).swap = none → s.cal.recal = none → s.last.working.welt[l].asideFail = false →
      let d := sd.rxDir
      let x := getLink s l
      let loses := fun t : State => isLost t l d k = true ∧ (getLink t l).lostSeen = true ∧ (getLink t l).lossCause = 1 ∧
        (getLink t l).lossLane = k ∧ (getLink t l).lossDir = d ∧ (getLink t l).losses = satInc x.losses ∧
        ∃ r ∈ t.nvm.logWait, r.code = 0x0405 ∧ ∃ b, r.data = padTo 12 [b, BitVec.ofNat 8 l.val, BitVec.ofNat 8 k.val, d.num, 1]
      let degrades := fun t : State => (getLink t l).cap = x.width / 2 ∧
        (imcOn x = true → (getLink t l).retrainAsked = true ∧ (getLink t l).st = x.st) ∧
        (imcOn x = false → (getLink t l).st = .retrain ∧ (getLink t l).idleOut = true)
      let fallsBack := fun (t : State) (why : BitVec 4) => (getLink t l).lastResult = why ∧ degrades t ∧
        ∃ r ∈ t.nvm.logWait, r.code = 0x0408
      (isPart s l = true → (∀ j ∈ trainedLanes s l, j ≠ k → isLost s l d j = true) → ∃ t, exec (.cdrLockLost sd p) s = .next t ∧
        loses t ∧ ((getLink t l).retrainAsked = true ∨ (getLink t l).st = .retrain)) ∧
      ((∃ j ∈ trainedLanes s l, j ≠ k ∧ isLost s l d j = false ∧ laneSym s l d j = true ∧ laneRx s l d j ≠ some p) →
        ∃ t, exec (.cdrLockLost sd p) s = .next t ∧ loses t ∧
          (recIs s l (·.lossPol == .hold) = true → (getLink t l).st = x.st ∧ (getLink t l).swap = none ∧
            (getLink t l).retrainAsked = x.retrainAsked) ∧
          (recIs s l (·.lossPol == .down) = true → (getLink t l).idleOut = true ∧ (getLink t l).downTaken = true ∧
            ∃ r ∈ t.nvm.logWait, r.code = 0x0407) ∧
          (isPart s l = true → 1 < x.width → recIs s l (·.lossPol == .degrade) = true → degrades t) ∧
          (isPart s l = true → 1 < x.width → recIs s l (·.lossPol == .spare) = true →
            (x.capLink.getLsbD 0 = false → fallsBack t 3) ∧
            (x.capLink.getLsbD 0 = true → spareIn s l d .warm = none → spareIn s l d .standin = none → fallsBack t 2) ∧
            (∀ m, x.capLink.getLsbD 0 = true → spareIn s l d .warm = some m → (getSpare t l m d).code = .aligning ∧
              ∃ w, (getLink t l).swap = some w ∧ w.dir = d ∧ w.lane = k ∧ w.spare = m ∧ w.cause = 1 ∧ w.step = .dup ∧
                w.back = false)))) ∧
    (aligns = false → ∀ ph, exec (.commaReceived sd p ph) s = .next s) ∧
    (aligns = true → ∀ ph,
      (n.rx.aligned = none → gives (.commaReceived sd p ph) fun x =>
        { x with wordPhase := ph, aligned := some 0, commaAt := none, commas := 0, rd := none }) ∧
      (∀ k, n.rx.aligned = some k → ph = n.rx.wordPhase → calm → gives (.commaReceived sd p ph) fun x =>
        { x with aligned := some (min 2 (k + 1)), symLock := x.symLock || 1 ≤ k, commaAt := none, commas := 0 }) ∧
      (∀ k, n.rx.aligned = some k → ph ≠ n.rx.wordPhase →
        let run := if n.rx.commaAt = some ph then n.rx.commas + 1 else 1
        (run < 4 → gives (.commaReceived sd p ph) fun x => { x with commaAt := some ph, commas := run }) ∧
        (4 ≤ run → ∃ t, exec (.commaReceived sd p ph) s = .next t ∧ (getLane t sd p).rx.symLock = false ∧
          (getLane t sd p).rx.wordPhase = ph))) ∧
    (∀ g k, on = true → n.rx.cdrLock = true → symShown s sd p = true → n.meas.chkEn = false → n.meas.loopMode = 0 →
      let bad := (classify n.rx.rd g).invalid || (classify n.rx.rd g).disp
      ∃ t, exec (.rxCodeGroup sd p g k) s = .next t ∧ (getLane t sd p).meas.symCnt = n.meas.symCnt + 1 ∧
        (getLane t sd p).meas.errCnt = (if bad ∧ n.meas.errCnt ≠ 0xFFFFFFFF then n.meas.errCnt + 1 else n.meas.errCnt)) ∧
    (∀ l k g, on = true → n.rx.cdrLock = true → isTap s p = false → n.meas.loopMode = 0 → whoRx s sd p = some (.lane l k) →
      feeds s sd p = some (l, k) → n.rx.plan = [] → n.rx.edit = none → n.rx.recentre = none → n.rx.badRun < 63 →
      (∀ e, some e ∈ n.rx.buf → e.put = none) →
      let c := classify n.rx.rd g
      let e : EbEntry :=
        { g := g, before := if c.invalid || c.disp then none else n.rx.rd, after := c.after, invalid := c.invalid, disp := c.disp
          added := false, place := none, put := none }
      let now := n.rx.buf ++ [some e]
      let fill := n.rx.buf.length
      (7 ≤ fill → fill < 24 → ∃ t, exec (.rxCodeGroup sd p g 0) s = .next t ∧ (getLane t sd p).rx.buf = now) ∧
      (fill = 24 → sharers s sd p = [p] → ∃ t, exec (.rxCodeGroup sd p g 0) s = .next t ∧ (getLane t sd p).rx.buf = now.drop 9 ∧
        (getLane t sd p).rx.owed = 8 ∧ (getLane t sd p).rx.ebOvf = true ∧ ∃ r ∈ t.nvm.logWait, r.code = 0x0301) ∧
      (fill = 8 → sharers s sd p = [p] → ∃ t, exec (.rxCodeGroup sd p g 2) s = .next t ∧
        (getLane t sd p).rx.buf = List.replicate 9 none ++ now.drop 2 ∧ (getLane t sd p).rx.ebUnf = true ∧
        ∃ r ∈ t.nvm.logWait, r.code = 0x0302) ∧
      (∀ q y rest, 7 ≤ fill → fill < 24 → n.rx.buf = y :: rest → n.rx.owed = 0 → (∀ f, y = some f → f.added = false) →
        rxDests s sd p = [q] → txUsable s sd.other q = true → (getLane s sd.other q).meas.loops = false →
        (getLane s sd.other q).meas.genEn = false → isLost s l sd.rxDir k = false → mayForward s l k sd p = true →
        (getLink s l).st ≠ .exchange → (getLink s l).lpbkDue = none → (sideTr (getLink s l) sd).lpbkLeft = 0 →
        let rd := (getLane s sd.other q).tx.rd
        ∃ t, exec (.rxCodeGroup sd p g 1) s = .next t ∧ (getLane t sd.other q).tx.last = some (match y with
          | none => encodeSym symError rd
          | some f => if decodeOn s l = true ∧ f.before ≠ some rd then encodeSym symError rd else f.g))) ∧
    (isTap s p = true ∨ symShown s sd p = false → ∀ k, exec (.skipSetArrives sd p k) s = .next s) ∧
    (∀ l j (k : SkipSet), on = true → isTap s p = false → symShown s sd p = true → feeds s sd p = some (l, j) →
      isTrans s l = true → isLoopTimed s l = false → (getLink s l).join = .joined → (getLink s l).st = .notTraining →
      (getLink s l).swap = none → isLost s l sd.rxDir j = false → looped s l sd.rxDir j = false →
      (17 < n.rx.buf.length → k.skp.toNat = 3 ∨ k.skp.toNat = 4 →
        gives (.skipSetArrives sd p k) fun x => { x with edit := some false }) ∧
      (n.rx.buf.length < 15 → k.skp.toNat = 2 ∨ k.skp.toNat = 3 →
        gives (.skipSetArrives sd p k) fun x => { x with edit := some true }) ∧
      (15 ≤ n.rx.buf.length → n.rx.buf.length ≤ 17 →
        gives (.skipSetArrives sd p k) fun x => { x with edit := none })) ∧
    (∃ t, exec .skipRateWindow s = .next t ∧ sameBut [.lanes] s t ∧
      ∀ x q, getLane t x q = { getLane s x q with rx := { (getLane s x q).rx with skpWin := 0, skpHit := false } }) ∧
    (∀ l d, isPart s l = true → isLoopTimed s l = true → ∀ q, laneRx s l d (loopMasterOf s l d) = some q →
      (getLane s d.rxSide q).rx.holdover = true →
      ((∀ k ∈ trainedLanes s l, laneCdr s l d k = false) → exec (.loopMasterMoved l d) s = .next s) ∧
      ∀ k ∈ trainedLanes s l, laneCdr s l d k = true → (∀ j ∈ trainedLanes s l, j < k → laneCdr s l d j = false) →
        ∃ t, exec (.loopMasterMoved l d) s = .next t ∧ loopMasterOf t l d = k ∧
          ∃ r ∈ t.nvm.logWait, r.code = 0x0304) ∧
    (detectsSignal s sd p = false → exec (.electricalIdleDetected sd p) s = .next s ∧ exec (.signalDetected sd p) s = .next s) ∧
    (detectsSignal s sd p = true → (∀ l k, feeds s sd p = some (l, k) → k ≠ 0) →
      gives (.electricalIdleDetected sd p) (fun x => { x with sigDet := false }) ∧
      gives (.signalDetected sd p) (fun x => { x with sigDet := true })) ∧
    (∀ l, detectsSignal s sd p = true → feeds s sd p = some (l, 0) → isPart s l = true → (getLink s l).pend = .none →
      s.last.working.welt[l].asideFail = false → (getLink s l).disable = false →
      ((getLink s l).st = .loopback → (getLink s l).lpbkSide = sd →
        ∃ t, exec (.electricalIdleDetected sd p) s = .next t ∧ (getLink t l).st = .detect) ∧
      (disabledFrom (getLink s l) sd = true → (getLink s l).st ∉ [TrainState.loopback, .disabled, .notTraining] →
        ∃ t, exec (.electricalIdleDetected sd p) s = .next t ∧ (getLink t l).st = .disabled ∧ (getLink t l).partnerDis = true) ∧
      (disabledFrom (getLink s l) sd = false → (getLink s l).st = .retrain → exec (.electricalIdleDetected sd p) s = .next
        (modLink (modRx s sd p fun x => { x with sigDet := false }) l fun x => { x with rateOld := !isLoopTimed s l })) ∧
      ((getLink s l).st = .disabled → (getLink s l).partnerDis = true →
        ∃ t, exec (.signalDetected sd p) s = .next t ∧ (getLink t l).st = .detect))

/-- A write of LNCTL that reaches its register sets the hold bits; BITSLIP moves the boundary by one bit where comma alignment is off, the running disparity unknown after it (log entry 53), RECENTRE brings the fill of a receiver that decides for itself to 16 without a flag or an event (log entry 60). LNTXDRV takes its targets, but not PRE and POST while presets are answered. A driver that cannot deliver its code shows the lower one and logs 0x0303 once; it rises by one code where there is room. Each step moves one setting by one code: PRE and POST to their targets, a DFE tap within its limit while its loop adapts, CTLE within its range, and nothing where a loop is held or no calibration moves the trim. TAKE copies the lane's registers for its owner, unless another holds the copy; RELEASE by the owner and the 100 ms give it back. -/
def Obligations.LaneSettingsMoveByTheirRules : Prop :=
  ∀ (s : State) (sd : Side) (p : Pos), s.settled = true →
    let n := getLane s sd p
    let on := rxPowered s sd p
    let held := fun (v : Word) (x : LaneRx) => { x with ctleHold := v.getLsbD 0, dfeHold := v.getLsbD 1, vgaHold := v.getLsbD 2 }
    (∀ c v, opens s c (.lnctl sd p) → v.getLsbD 4 = false →
      exec (.lnctlBitslip c sd p v) s = .next (modRx s sd p fun x =>
        if commaOn s sd p then held v x else { held v x with wordPhase := x.wordPhase + 1, rd := none })) ∧
    (∀ c v, opens s c (.lnctl sd p) → v.getLsbD 3 = false → feeds s sd p = none → midSet n.rx = false →
      n.rx.recentre = none → 7 < n.rx.buf.length → n.rx.buf.length < 25 →
      ∃ t, exec (.lnctlRecentre c sd p v) s = .next t ∧ otherLanes s t sd p ∧ sameBut [.lanes] s t ∧
        (getLane t sd p).rx.buf.length = 16 ∧ (getLane t sd p).rx.ctleHold = v.getLsbD 0 ∧
        (getLane t sd p).rx.ebOvf = n.rx.ebOvf ∧ (getLane t sd p).rx.ebUnf = n.rx.ebUnf ∧
        (16 < n.rx.buf.length → (getLane t sd p).rx.owed = 8)) ∧
    (∀ c v, opens s c (.lntxdrv sd p) → ∃ t, exec (.lntxdrvWrite c sd p v) s = .next t ∧ otherLanes s t sd p ∧ sameBut [.lanes] s t ∧
      (getLane t sd p).rx = n.rx ∧ (getLane t sd p).tx.swing = v.extractLsb' 0 5 ∧
      (rampFrozen s sd p = false → (getLane t sd p).tx.pre = v.extractLsb' 8 4 ∧ (getLane t sd p).tx.post = v.extractLsb' 16 5) ∧
      (rampFrozen s sd p = true → (getLane t sd p).tx.pre = n.tx.pre ∧ (getLane t sd p).tx.post = n.tx.post) ∧
      (n.tx.limited = false → (getLane t sd p).tx.swingAct = n.tx.swingAct)) ∧
    (∀ code : BitVec 5, (on = false ∨ n.tx.swingAct.toNat ≤ code.toNat → exec (.swingLimit sd p code) s = .next s) ∧
      (on = true → code.toNat < n.tx.swingAct.toNat → ∃ t, exec (.swingLimit sd p code) s = .next t ∧
        getLane t sd p = { n with tx := { n.tx with swingAct := code, limited := true } } ∧ otherLanes s t sd p ∧
        (n.tx.limited = false → ∃ r ∈ t.nvm.logWait, r.code = 0x0303 ∧ r.dtime = s.time.dtime))) ∧
    (∀ room, (on = false ∨ n.tx.limited = false ∨ room = false ∨ n.tx.swingNow.toNat ≤ n.tx.swingAct.toNat →
        exec (.swingRaise sd p room) s = .next s) ∧
      (on = true → n.tx.limited = true → room = true → n.tx.swingAct.toNat < n.tx.swingNow.toNat →
        exec (.swingRaise sd p room) s = .next (modTx s sd p fun x =>
          { x with swingAct := x.swingAct + 1, limited := x.swingAct + 1 != x.swingNow }))) ∧
    (on = false → ∀ k, exec (.trimRampStep sd p k) s = .next s) ∧
    (on = true →
      let near := fun {w : Nat} (a b : BitVec w) => if a.toNat < b.toNat then a + 1 else if b.toNat < a.toNat then a - 1 else a
      let e := eqAt s.last.working sd p
      (rampFrozen s sd p = true → exec (.trimRampStep sd p .pre) s = .next s ∧ exec (.trimRampStep sd p .post) s = .next s) ∧
      (rampFrozen s sd p = false →
        exec (.trimRampStep sd p .pre) s = .next (modTx s sd p fun x => { x with preAct := near x.preAct x.pre }) ∧
        exec (.trimRampStep sd p .post) s = .next (modTx s sd p fun x => { x with postAct := near x.postAct x.post })) ∧
      (∀ k up, (dfeAdapts s sd p = false → exec (.trimRampStep sd p (.dfe k up)) s = .next s) ∧
        (dfeAdapts s sd p = true → n.eq.dfe[k].toInt.natAbs ≤ e.dfeLimit → ∃ t, exec (.trimRampStep sd p (.dfe k up)) s = .next t ∧
          (getLane t sd p).eq.dfe[k].toInt.natAbs ≤ e.dfeLimit ∧ (∀ j, j ≠ k → (getLane t sd p).eq.dfe[j] = n.eq.dfe[j]) ∧
          otherLanes s t sd p ∧ sameBut [.lanes] s t)) ∧
      (∀ up, n.eq.ctleGoal = none → (ctleAdapts s sd p = false → exec (.trimRampStep sd p (.ctle up)) s = .next s) ∧
        (ctleAdapts s sd p = true → e.ctleMax ≤ 15 → e.ctleMin ≤ n.eq.ctle.toNat →
          n.eq.ctle.toNat ≤ e.ctleMax →
          ∃ t, exec (.trimRampStep sd p (.ctle up)) s = .next t ∧ e.ctleMin ≤ (getLane t sd p).eq.ctle.toNat ∧
            (getLane t sd p).eq.ctle.toNat ≤ e.ctleMax ∧ (getLane t sd p).eq.vga = n.eq.vga)) ∧
      (∀ up, (trimsMove s sd p true = false →
          (∀ x ∈ [TrimStep.ofsD up, .ofsE up, .ofsO up, .rxterm up], exec (.trimRampStep sd p x) s = .next s)) ∧
        (trimsMove s sd p false = false →
          (∀ x ∈ [TrimStep.txterm up, .txgain up], exec (.trimRampStep sd p x) s = .next s)))) ∧
    (∀ c v, opens s c (.lnsnap sd p) → v.getLsbD 1 = false →
      (n.snap.held = true → n.snap.owner ≠ c → ∃ t, exec (.lnsnapTake c sd p v) s = .next t ∧
        getLane t sd p = { n with snap := { n.snap with refused := true } } ∧ otherLanes s t sd p ∧ sameBut [.lanes] s t) ∧
      (n.snap.held = false ∨ n.snap.owner = c → ∃ t, exec (.lnsnapTake c sd p v) s = .next t ∧
        getLane t sd p = { n with snap := ⟨true, c, false, liveSnap s sd p⟩ } ∧ otherLanes s t sd p ∧ sameBut [.lanes] s t ∧
        ∀ x i, snapWord t x sd p i = (liveSnap s sd p)[i])) ∧
    (∀ c v, opens s c (.lnsnap sd p) → v.getLsbD 0 = false →
      (n.snap.owner ≠ c → exec (.lnsnapRelease c sd p v) s = .next s) ∧
      (n.snap.owner = c → exec (.lnsnapRelease c sd p v) s = exec (.snapshotExpiry sd p) s)) ∧
    (∃ t, exec (.snapshotExpiry sd p) s = .next t ∧ getLane t sd p = { n with snap := { n.snap with held := false } } ∧
      otherLanes s t sd p ∧ sameBut [.lanes] s t ∧ ∀ c i, snapWord t c sd p i = (liveSnap s sd p)[i])

/-- A write of LNPRBS with a reserved pattern only says so (reason 4). Otherwise it sets PATTERN and INVERT; a generator that may not start is refused with its reason and stays off, one that may runs; INJECT holds while the generator is on. A checker that is turned on counts from 0 without a lock, and the counters' source is PRBS. While a PRBS Job holds the position both registers refuse (reason 3). What a refused write still sets is log entry 10. A checker locks after 256 matching bits, and after 64 mismatches in a window of 1,024 it loses its lock with LOCK_LOST and the event 0x0501 (what it takes for them: log entries 77 and 92). CLR clears both counters. A scan point starts on a receiver with clock lock that is no tap and not scanning, else it is refused with its reason; it ends with its count, bounded by its bits. A background sweep gives the figure with at most one mismatch in an open point, VALID; a training sweep that an ACK started the figure with none. Loopback off ends the mode, on a Free position near-end serial and far-end start and silence the transmitters across, on one in service without FORCE they are refused; one that training holds is refused always. -/
def Obligations.TestsMeasureAndLoop : Prop :=
  ∀ (s : State) (sd : Side) (p : Pos), s.settled = true →
    let n := getLane s sd p
    let m := n.meas
    let locks := rxPowered s sd p && checkerOn s sd p && m.expects.mayLock
    let measures := fun (t : State) (x : LaneMeas) => getLane t sd p = { n with meas := x } ∧ otherLanes s t sd p
    (∀ c v, opens s c (.lnprbs sd p) →
      let bad := 6 ≤ (v.extractLsb' 0 3).toNat
      let why := genRefusal s sd p v
      (m.partHeld = true → ∀ i ∈ [Instr.prbsGenEnable c sd p v, .prbsChkEnable c sd p v, .prbsInject c sd p v],
        ∃ t, exec i s = .next t ∧ measures t { m with prbsRefused := true, prbsReason := 3 } ∧ sameBut [.lanes] s t) ∧
      (m.partHeld = false → bad → ∀ i ∈ [Instr.prbsGenEnable c sd p v, .prbsChkEnable c sd p v, .prbsInject c sd p v],
        ∃ t, exec i s = .next t ∧ measures t { m with prbsRefused := true, prbsReason := 4 } ∧ sameBut [.lanes] s t) ∧
      (m.partHeld = false → ¬ bad → v.getLsbD 4 = true → v.getLsbD 5 = false → m.genEn = false → ∃ t, exec (.prbsGenEnable c sd p v) s = .next t ∧
        (getLane t sd p).meas.pattern = v.extractLsb' 0 3 ∧ (getLane t sd p).meas.invert = v.getLsbD 3 ∧
        (getLane t sd p).meas.genEn = (why == 0) ∧ (getLane t sd p).meas.prbsRefused = (why != 0) ∧ (getLane t sd p).meas.prbsReason = why) ∧
      (m.partHeld = false → ¬ bad → v.getLsbD 4 = false → v.getLsbD 5 = true → m.chkEn = false → ∃ t, exec (.prbsChkEnable c sd p v) s = .next t ∧
        let x := (getLane t sd p).meas
        x.genEn = false ∧ x.prbsReason = chkRefusal s sd p v ∧ x.chkEn = (chkRefusal s sd p v == 0) ∧
        (chkRefusal s sd p v = 0 → x.symSrc = true ∧ x.symCnt = 0 ∧ x.errCnt = 0 ∧ x.chkLock = false ∧ x.matched = 0)) ∧
      (m.partHeld = false → ¬ bad → (v.getLsbD 4 = false → ∃ t, exec (.prbsInject c sd p v) s = .next t ∧ (getLane t sd p).meas.inject = false) ∧
        (v.getLsbD 4 = true → m.genEn = true → m.pattern = v.extractLsb' 0 3 →
          ∃ t, exec (.prbsInject c sd p v) s = .next t ∧ (getLane t sd p).meas.inject = true))) ∧
    ((locks = false → exec (.prbsCheckerLock sd p) s = .next s) ∧
      (locks = true → ∃ t, exec (.prbsCheckerLock sd p) s = .next t ∧ measures t { m with chkLock := true } ∧
        sameBut [.lanes, .units] s t)) ∧
    ((m.chkLock = false ∨ m.winMiss < 64 → exec (.prbsLockLost sd p) s = .next s) ∧
      (m.chkLock = true → 64 ≤ m.winMiss → ∃ t, exec (.prbsLockLost sd p) s = .next t ∧
        measures t { m.reseed with lockLost := true } ∧
        ∃ r ∈ t.nvm.logWait, r.code = 0x0501 ∧ r.dtime = s.time.dtime)) ∧
    (∀ c v, opens s c (.lnsymcntHi sd p) → ∃ t, exec (.counterClr c sd p v) s = .next t ∧ sameBut [.lanes] s t ∧
      measures t { m with errCnt := 0, symCnt := 0, symWrap := false, errSat := false }) ∧
    (∀ c v, opens s c (.lnscan sd p) →
      let x := { m with phase := v.extractLsb' 0 6, voff := v.extractLsb' 7 7, dwell := v.extractLsb' 14 3 }
      let gives := fun y : LaneMeas => ∃ t, exec (.lnscanStart c sd p v) s = .next t ∧ measures t y ∧ sameBut [.lanes] s t
      let busy := m.scanBusy || scanJobHolds s sd p
      (busy = true → gives { x with scanRefused := true, scanReason := 3 }) ∧
      (busy = false → n.rx.cdrLock = false → gives { x with scanRefused := true, scanReason := 5 }) ∧
      (busy = false → n.rx.cdrLock = true → isTap s p = true → gives { x with scanRefused := true, scanReason := 2 }) ∧
      (busy = false → n.rx.cdrLock = true → isTap s p = false → gives { x with
        ptDwell := x.dwell, scanBusy := true, scanDone := false, scanAborted := false, scanRefused := false, scanReason := 0
        conf := 3 })) ∧
    (∀ k : Word, (trainsSweep s sd p = true ∨ m.scanBusy = false → exec (.scanPointDone sd p k) s = .next s) ∧
      (trainsSweep s sd p = false → m.scanBusy = true → ∃ t, exec (.scanPointDone sd p k) s = .next t ∧ sameBut [.lanes] s t ∧
        measures t { m with
          scanCnt := BitVec.ofNat 32 (min k.toNat (2 ^ (12 + 2 * m.ptDwell.toNat))), scanBusy := false, scanDone := true })) ∧
    (∀ (w : SweepRow) (h : SweepColumn),
      let background := sweeps s sd p && !m.scanBusy && !scanJobHolds s sd p && !trainsSweep s sd p
      (background = false → exec (.eyeSweepEnd sd p w h) s = .next s) ∧
      (background = true → ∃ t, exec (.eyeSweepEnd sd p w h) s = .next t ∧
        let x := (getLane t sd p).meas
        x.conf = 2 ∧ x.lastEye = some (x.eyeW, x.eyeH) ∧
        (1 < w.origin → x.eyeW = 0 ∧ x.eyeH = 0) ∧
        (w.origin ≤ 1 → (x.eyeW, x.eyeH) = (BitVec.ofNat 6 (openRun 1 (w.right.take 31) + openRun 1 (w.left.take 32)),
          BitVec.ofNat 9 (3 * (openRun 1 (h.up.take 63) + openRun 1 (h.down.take 64)))))) ∧
      (sweeps s sd p = false ∨ trainsSweep s sd p = false ∨ n.search.acked = false → exec (.trainingSweepEnd sd p w h) s = .next s) ∧
      (sweeps s sd p = true → trainsSweep s sd p = true → n.search.acked = true → ∃ t, exec (.trainingSweepEnd sd p w h) s = .next t ∧
        sameBut [.lanes] s t ∧ measures t { m with eyeW := (sweepFigure w h 0).1, eyeH := (sweepFigure w h 0).2, conf := 1 })) ∧
    (∀ c v, opens s c (.lnloop sd p) →
      let starts := fun (i : Instr) (mode : BitVec 2) => ∃ t, exec i s = .next t ∧ (getLane t sd p).meas.loopMode = mode ∧
        (getLane t sd p).meas.loopActive = true ∧ (getLane t sd p).meas.loopRefused = false ∧ (getLane t sd.other p).tx.last = none
      let refused := fun (i : Instr) (mode : BitVec 2) (why : BitVec 3) => ∃ t, exec i s = .next t ∧ (getLane t sd p).meas.loopMode = mode ∧
        (getLane t sd p).meas.loopRefused = true ∧ (getLane t sd p).meas.loopReason = why
      (m.partHeld = true → ∀ i ∈ [Instr.loopNearSerial c sd p v, .loopNearParallel c sd p v, .loopFarEnd c sd p v, .loopOff c sd p v],
        refused i m.loopMode 3) ∧
      (m.partHeld = false → m.loopPbl = true → ∀ i ∈ [Instr.loopNearSerial c sd p v, .loopNearParallel c sd p v, .loopFarEnd c sd p v, .loopOff c sd p v],
        refused i m.loopMode 1) ∧
      (m.partHeld = false → m.loopPbl = false → m.loopMode ≠ 0 → ∃ t, exec (.loopOff c sd p v) s = .next t ∧ (getLane t sd p).meas.loopMode = 0 ∧
        (getLane t sd p).meas.loopActive = false ∧ (getLane t sd p).meas.loopRefused = false) ∧
      (m.loopPbl = false → m.loopMode = 0 → m.partHeld = false →
        (posClass s sd p = .free → starts (.loopNearSerial c sd p v) 1 ∧ starts (.loopFarEnd c sd p v) 3) ∧
        (posClass s sd p = .inService ∨ (posClass s sd p = .forceable ∧ v.getLsbD 2 = false) →
          refused (.loopNearSerial c sd p v) 0 1 ∧ refused (.loopFarEnd c sd p v) 0 1) ∧
        (posClass s sd p = .tap → refused (.loopNearSerial c sd p v) 0 2 ∧ refused (.loopNearParallel c sd p v) 0 2) ∧
        (closedAt s p = false → warmPrbs s sd p = false → ∃ t, exec (.loopNearParallel c sd p v) s = .next t ∧
          (getLane t sd p).meas.loopMode = 2 ∧ (getLane t sd p).tx = n.tx)))

/-- A receiver detect in DETECT keeps its mask, and how many lanes from 0 on it found. Training sets act on a joined Participating link, on a lane with symbol lock at the link's rate: in LOOPBACK, DISABLED and outside training one changes no link state; with the other side seen and receivers on both sides a TOS-B takes DETECT to TRAIN.ALIGN; there a TOS-A of direction AB gives the part its index; in ACTIVE a TOS-A on a trained lane leads to RETRAIN or on. The 24 ms discard the rate of DETECT. A state that has a timeout ends in DETECT with its cause (of several, by the order of log entry 46), and counts it. A search goes on by its answers. RETRAIN in ACTIVE asks the partners over the channel, or enters RETRAIN with idle transmitters; the forced one enters it where a request stands. DISABLE takes a link out of training until it is cleared, CLR_RETRAINS clears the count. The idle period ends; after DOWN the link is in DETECT. A pad set carries the marker due, or else the MOS that goes next, which leaves its queue, or goes as it came; what replaces it is planned for its sixteen places before they come (log entry 58); an unsent marker is logged as 0x0203. UNRECOVERED is set on a SAFETY link after 50 ms of a lost lane, and UNCAP ends the cap. -/
def Obligations.TrainingFollowsItsTable : Prop :=
  ∀ (s : State) (l : LinkNo), s.settled = true →
    let k := getLink s l
    let gives := fun (i : Instr) (f : Link → Link) => exec i s = .next (modLink s l f)
    let plain := k.pend = .none ∧ k.disable = false ∧ s.last.working.welt[l].asideFail = false
    (∀ sd mask, (linkRec s l = none ∨ k.st ≠ .detect → exec (.receiverDetect l sd mask) s = .next s) ∧
      ∀ r, linkRec s l = some r → k.st = .detect →
        let w := BitVec.ofNat 5 ((List.range r.width).takeWhile fun i => mask.getLsbD i).length
        gives (.receiverDetect l sd mask) fun x =>
          if sd = .A then { x with detA := mask, detwA := w } else { x with detB := mask, detwB := w }) ∧
    (∀ sd j (t : Tos),
      let takes := isPart s l && k.join == .joined && laneSym s l sd.rxDir j && atLinkRate s l sd j
      let known : Prop := t.pos[0] = 0x4A ∨ t.pos[0] = 0x4B
      (takes = false → exec (.trainingSetReceived l sd j t) s = .next s) ∧
      (takes = true → known → k.st = .loopback ∨ k.st = .disabled ∨ k.st = .notTraining →
        ∃ u, exec (.trainingSetReceived l sd j t) s = .next u ∧ sameBut [.lanes] s u) ∧
      (takes = true → j = 0 → t.pos[0] = 0x4B → k.st = .detect → k.rate ≠ 0 → (sideTr k sd.other).seen = true →
        k.detwA ≠ 0 → k.detwB ≠ 0 → ∃ u, exec (.trainingSetReceived l sd j t) s = .next u ∧ (getLink u l).st = .align ∧
          (getLink u l).width = 0) ∧
      (takes = true → sd = .A → t.pos[0] = 0x4A → k.st = .align → ∃ u, exec (.trainingSetReceived l sd j t) s = .next u ∧
        (getLink u l).index = (if ((t.pos[4]).extractLsb' 0 2).toNat < 2 then (t.pos[4]).extractLsb' 0 2 + 1 else 3)) ∧
      (takes = true → k.st = .active → j ∈ trainedLanes s l → t.pos[0] = 0x4A → k.pend = .none →
        ∃ u, exec (.trainingSetReceived l sd j t) s = .next u ∧ (getLink u l).st ≠ .active ∧
          (getLink u l).retrains = if k.retrains = 0xFFFF then 0xFFFF else k.retrains + 1)) ∧
    ((k.st ≠ .detect ∨ isLoopTimed s l = true ∨ k.rate = 0 → exec (.rateDiscard l) s = .next s) ∧
      (k.st = .detect → isLoopTimed s l = false → k.rate ≠ 0 → ∃ t, exec (.rateDiscard l) s = .next t ∧ (getLink t l).rate = 0 ∧
        (getLink t l).trainA.seen = false ∧ (getLink t l).trainB.seen = false ∧ otherLinks s t l ∧ sameBut [.links] s t)) ∧
    ((timeoutCause s l = none → exec (.trainTimeout l) s = .next s) ∧
      ∀ c, timeoutCause s l = some c → plain → ∃ t, exec (.trainTimeout l) s = .next t ∧ (getLink t l).st = .detect ∧
        (getLink t l).lastFail = c ∧ (getLink t l).failRun = satInc k.failRun ∧ (getLink t l).width = 0 ∧
        (getLink t l).lostAB = 0 ∧ (getLink t l).lostBA = 0) ∧
    (∀ sd p o,
      let q := (getLane s sd p).search
      let gets := fun (o : SearchEvent) (x : Search) => ∃ t, exec (.presetSearchStep sd p o) s = .next t ∧
        getLane t sd p = { getLane s sd p with search := x } ∧ otherLanes s t sd p ∧ sameBut [.lanes] s t
      (q.running = false → exec (.presetSearchStep sd p o) s = .next s) ∧
      (q.running = true → q.final = true → gets .ack { q with running := false, done := true, acked := true } ∧
        gets .reject q ∧ gets .timeout { q with running := false, done := true }) ∧
      (q.running = true → q.final = false → gets .ack { q with acked := true } ∧
        (q.preset ≠ 15 → gets .reject { q with preset := q.preset + 1, acked := false } ∧
          gets .timeout { q with preset := q.preset + 1, acked := false })) ∧
      (q.running = true → q.acked = false → exec (.presetSearchStep sd p .dwellEnd) s = .next s)) ∧
    ((k.retrainAsked = false → exec (.forcedIdleRetrain l) s = .next s) ∧
      (k.retrainAsked = true → k.pend = .none → ∃ t, exec (.forcedIdleRetrain l) s = .next t ∧ (getLink t l).st = .retrain ∧
        (getLink t l).idleOut = true ∧ (getLink t l).retrainAsked = false)) ∧
    (∀ c v, opens s c (.lnkctl l) → s.dev.standby = false → k.aside = false → k.join ≠ .aside → v.getLsbD 30 = false → v.getLsbD 31 = false →
      (v.getLsbD 1 = false → v.getLsbD 3 = false → k.disable = false → k.pend = .none → k.st = .active →
        ∃ t, exec (.lnkctlRetrain c l v) s = .next t ∧ (getLink t l).eqFixed = v.getLsbD 2 ∧
          (imcOn k = true → (getLink t l).st = .active ∧ (getLink t l).retrainAsked = true) ∧
          (imcOn k = false → (getLink t l).st = .retrain ∧ (getLink t l).idleOut = true)) ∧
      (v.getLsbD 0 = false → v.getLsbD 3 = false → v.getLsbD 1 = true → k.disable = false → k.pend = .none →
        k.st ≠ .notTraining → k.st ≠ .disabled →
        ∃ t, exec (.lnkctlDisable c l v) s = .next t ∧ (getLink t l).st = .disabled ∧ (getLink t l).width = 0) ∧
      (v.getLsbD 0 = false → v.getLsbD 3 = false → v.getLsbD 1 = false → k.st = .disabled → k.partnerDis = false →
        k.pend = .none → s.last.working.welt[l].asideFail = false →
        ∃ t, exec (.lnkctlDisable c l v) s = .next t ∧ (getLink t l).st = .detect) ∧
      (v.getLsbD 0 = false → v.getLsbD 1 = k.disable → k.st ≠ .disabled → k.disable = false → equalises k.st = false →
        gives (.lnkctlClrRetrains c l v) fun x => { x with retrains := 0, eqFixed := v.getLsbD 2 })) ∧
    ((k.idleOut = false → exec (.idlePeriodEnd l) s = .next s) ∧
      (k.idleOut = true → (k.idleDown = false → gives (.idlePeriodEnd l) fun x => { x with idleOut := false, idleDown := false }) ∧
        (k.idleDown = true → isPart s l = true → k.join = .joined → plain →
          ∃ t, exec (.idlePeriodEnd l) s = .next t ∧ (getLink t l).st = .detect ∧ (getLink t l).idleOut = false))) ∧
    (∀ d,
      let sent := fun t : State => if d = .AB then (getLink t l).sentAB else (getLink t l).sentBA
      (mgmtRx s l d = none → exec (.padSetPasses l d) s = .next s) ∧
      (∀ p, mgmtRx s l d = some p → isPart s l = true → symShown s d.rxSide p = true → k.st = .active → dirForwards s l d = true →
        mgmtLost s l d.rxSide = false →
        (markDue k d = true → markersOn s l = true → ∃ t, exec (.padSetPasses l d) s = .next t ∧
          sent t = some (.marker k.index k.epoch l) ∧ markDue (getLink t l) d = false ∧
          (getLane t d.rxSide p).rx.plan.length = 16) ∧
        (∀ m, markDue k d = false ∨ markersOn s l = false → imcOn k = true → nextMos (outOf k d) = some m →
          ∃ t, exec (.padSetPasses l d) s = .next t ∧ sent t = some (.mos (mosOf k.index (atSending s m))) ∧
            outOf (getLink t l) d = (outOf k d).erase m ∧ (getLane t d.rxSide p).rx.plan.length = 16) ∧
        (markDue k d = false ∨ markersOn s l = false → imcOn k = false ∨ outOf k d = [] →
          ∃ t, exec (.padSetPasses l d) s = .next t ∧ sent t = some .pad ∧ t.lanes = s.lanes)) ∧
      (markDue k d = false → exec (.epochUnsent l d) s = .next s) ∧
      (markDue k d = true → ∃ t, exec (.epochUnsent l d) s = .next t ∧ markDue (getLink t l) d = false ∧
        ∃ r ∈ t.nvm.logWait, r.code = 0x0203 ∧ r.data = padTo 12 [BitVec.ofNat 8 l.val, if d = .AB then 0 else 1]) ∧
      ∀ j, (isLost s l d j = false → exec (.unrecoveredTimeout l d j) s = .next s) ∧
        (isLost s l d j = true → ∃ t, exec (.unrecoveredTimeout l d j) s = .next t ∧ sameBut byEvent s t ∧
          (getLink t l).unrecovered = (k.unrecovered || recIs s l (·.safety)))) ∧
    (∀ c v, opens s c (.lnkloss l) → gives (.lnklossUncap c l v) fun x =>
      { x with cap := 0, lostSeen := x.lostSeen && !v.getLsbD 0, downTaken := x.downTaken && !v.getLsbD 3 })

/-- Idle-entry sets on locked lanes put an ACTIVE Participating link to sleep in a direction where that was negotiated, its receivers and its spares' without clock lock; the other direction's then means DEEP where that was negotiated; otherwise they mean RETRAIN. Signal wakes a sleeping link, which logs 0x040C and asks to be trained again where the wake takes too long. A grant seen on a locked management lane is noted with its time; idle time asks for a state once (when it may: log entry 47). A spare that holds lock long enough is WARM, a WARM one without lock FAILED, in a direction that is awake. A SPARE_RSP that answers moves the swap on, or ends the repeating of the RELEASE of one given up, one that answers nothing counts as BAD; without an answer the SPARE, or that RELEASE, goes again at most twice (which first: log entry 94), and the swap fails after 100 µs with 0x040B. SPARE of another node puts a spare that no test holds into FORWARD. The Heel's evaluation starts the run of low figures anew on a lane without a valid one, and does nothing where prediction is off. SWAP and BACK start where capability, spare and link allow, else LAST_RESULT says why not: 3, 2 or 7. What spares and swaps do where the messages leave it open is log entries 37, 39, 55, 63 and 64. -/
def Obligations.SleepAndSparesFollow : Prop :=
  ∀ (s : State) (l : LinkNo), s.settled = true →
    let k := getLink s l
    let gives := fun (i : Instr) (f : Link → Link) => exec i s = .next (modLink s l f)
    (∀ d,
      let sleeps := fun (t : State) => ∀ r p, linkRec s l = some r → (∃ j ∈ lanesOf r, homeRx s.last.working r d j = some p) ∨
        (∃ n, spareRx s.last.working r d n = some p) → (getLane t d.rxSide p).rx.cdrLock = false
      (isPart s l = false ∨ setsSeen s l d = false ∨ (k.st ≠ .active ∧ k.st ≠ sleepState d.other) →
        exec (.idleEntrySetReceived l d) s = .next s) ∧
      (isPart s l = true → setsSeen s l d = true → k.st = .active → negotiated s l .deep = true ∨ negotiated s l (sleepOf d) = true →
        ∃ t, exec (.idleEntrySetReceived l d) s = .next t ∧ (getLink t l).st = sleepState d ∧ (getLink t l).deepFirst = true ∧ sleeps t) ∧
      (isPart s l = true → setsSeen s l d = true → k.st = sleepState d.other → negotiated s l .deep = true → k.deepFirst = true →
        ∃ t, exec (.idleEntrySetReceived l d) s = .next t ∧ (getLink t l).st = .deep ∧ sleeps t) ∧
      (isPart s l = true → setsSeen s l d = true → k.st = .active → negotiated s l .deep = false → negotiated s l (sleepOf d) = false → k.pend = .none →
        ∃ t, exec (.idleEntrySetReceived l d) s = .next t ∧ (getLink t l).st = .retrain)) ∧
    (∀ sd, (wakesOn k sd = false → exec (.sleepWake l sd) s = .next s) ∧
      (wakesOn k sd = true → ∃ t, exec (.sleepWake l sd) s = .next t ∧ (getLink t l).waking = some sd ∧ (getLink t l).deepFirst = false ∧
        (getLink t l).deepWake = (k.st == .deep) ∧ (getLink t l).st = k.st)) ∧
    ((k.waking = none ∨ k.retrainAsked = true → exec (.wakeFail l) s = .next s) ∧
      (k.waking ≠ none → k.retrainAsked = false → k.pend = .none → ∃ t, exec (.wakeFail l) s = .next t ∧
        (∃ r ∈ t.nvm.logWait, r.code = 0x040C ∧ r.data = padTo 12 [BitVec.ofNat 8 l.val]) ∧
        ((getLink t l).retrainAsked = true ∨ (getLink t l).st = .retrain))) ∧
    ((k.deepFirst = false → exec (.deepEntryTimeout l) s = .next s) ∧
      (k.deepFirst = true → k.capLink.getLsbD 1 = true → gives (.deepEntryTimeout l) fun x => { x with deepFirst := false }) ∧
      (k.deepFirst = true → k.capLink.getLsbD 1 = false → k.pend = .none → ∃ t, exec (.deepEntryTimeout l) s = .next t ∧
        (getLink t l).deepFirst = false ∧ ((getLink t l).retrainAsked = true ∨ (getLink t l).st = .retrain))) ∧
    (∀ x, (isPart s l = false ∨ mosSeen s l = false → exec (.lpGrantSeen l x) s = .next s) ∧
      (isPart s l = true → mosSeen s l = true → gives (.lpGrantSeen l x) fun y => { y with grants := vput y.grants (lpIx x) (some s.time.elapsed) }) ∧
      (mayAsk s l x = false → exec (.lpReqIdle l x) s = .next s) ∧
      (mayAsk s l x = true → ∃ t, exec (.lpReqIdle l x) s = .next t ∧ mayAsk t l x = false ∧ sameBut [.links, .free] s t ∧
        ((x = .sleepAB ∨ x = .deep) → ∃ m ∈ (getLink t l).outBA, m.typ = 0xA ∧ m.dst = 0) ∧
        ((x = .sleepBA ∨ x = .deep) → ∃ m ∈ (getLink t l).outAB, m.typ = 0xA ∧ m.dst = 3))) ∧
    (∀ n d,
      let c := (getSpare s l n d).code
      let turns := fun (b : Bool) (code : SpareCode) => exec (.spareLockTimer l n d b) s = .next (setSpare s l n d (spareAs code 0))
      ((c = .cold ∨ c = .failed) → restCode s l = .warm → asleep k.st d = false → spareLocked s l n d = true → spareHeld s l n = false →
        turns true .warm) ∧
      ((c ≠ .cold ∧ c ≠ .failed) ∨ restCode s l ≠ .warm ∨ asleep k.st d = true ∨ spareLocked s l n d = false ∨ spareHeld s l n = true →
        exec (.spareLockTimer l n d true) s = .next s) ∧
      (c = .warm → asleep k.st d = false → spareLocked s l n d = false → turns false .failed) ∧
      (c ≠ .warm ∨ asleep k.st d = true ∨ spareLocked s l n d = true → exec (.spareLockTimer l n d false) s = .next s)) ∧
    (∀ sd r,
      let names := k.swap.any (answersSwap · sd r)
      let frees := k.release.any (answersRelease ·.1 sd r)
      (mgmtSym s l sd = false → exec (.spareRspReceived l sd r) s = .next s) ∧
      (mgmtSym s l sd = true → names = false → frees = false →
        exec (.spareRspReceived l sd r) s = .next (if consumes s l then badMos s sd else s)) ∧
      (mgmtSym s l sd = true → names = false → frees = true → gives (.spareRspReceived l sd r) fun x => { x with release := none })) ∧
    (∀ sd r w, mgmtSym s l sd = true → k.swap = some w → answersSwap w sd r = true → r.arg = 0 →
      (w.step = .dup → s.cal.recal = none → ∃ t, exec (.spareRspReceived l sd r) s = .next t ∧
        (getLink t l).swap = some { w with step := .aligning, misses := 0, asking := false }) ∧
      (w.step = .release → w.back = false → w.failed = none → k.waitLoss = [] → s.cal.recal = none →
        ∃ t, exec (.spareRspReceived l sd r) s = .next t ∧ (getLink t l).swap = none ∧ (getLink t l).lastResult = 1 ∧
          (getSpare t l w.spare w.dir).code = (if w.cause = 2 then .standin else .carrying))) ∧
    (∀ r, mosSeen s l = false → exec (.spareMosForwarded l r) s = .next s) ∧
    (∀ r n d j, consumes s l = true → mosSeen s l = true → SpareMsg.place r = some (n, d, j) → r.op = 1 ∨ r.op = 2 →
      (getSpare s l n d).code = .warm → 
      (spareHeld s l n = false → exec (.spareMosForwarded l r) s = .next (setSpare s l n d (spareAs .forward j))) ∧
      (spareHeld s l n = true → exec (.spareMosForwarded l r) s = .next s)) ∧
    (∀ again, again = k.release.filter (fun r => r.2 < 3) →
      (k.swap.all (fun w => !w.asking) = true → exec (.swapTimeout l) s = .next s ∧ (again = none → exec (.spareRetry l) s = .next s)) ∧
      (∀ m i, again = some (m, i) → ∃ t, exec (.spareRetry l) s = .next t ∧ (getLink t l).release = some (m, i + 1) ∧
        m ∈ outOf (getLink t l) (towardNode m.dst) ∧ (getLink t l).swap = k.swap) ∧
      ∀ w, k.swap = some w → w.asking = true →
        (w.step = .dup → w.failed = none → w.back = false → k.waitLoss = [] → s.cal.recal = none → ∃ t, exec (.swapTimeout l) s = .next t ∧
          (getLink t l).lastResult = 5 ∧ ∃ r ∈ t.nvm.logWait, r.code = 0x040B) ∧
        (again = none → 3 ≤ w.sends → exec (.spareRetry l) s = .next s) ∧
        (again = none → w.sends < 3 → ∃ t, exec (.spareRetry l) s = .next t ∧ (getLink t l).swap = some { w with sends := w.sends + 1 } ∧
          ∃ m ∈ outOf (getLink t l) (towardNode w.awaits.2), m.typ = 8 ∧ m.seq = w.seq)) ∧
    (s.boot.done = false ∨ s.dev.standby = true ∨ s.last.working.heel.predictEn = false →
      exec .predictiveEvaluation s = .next s) ∧
    (s.boot.done = true → s.dev.standby = false → s.last.working.heel.predictEn = true → isPart s l = true →
      recIs s l (·.predict) = true → ∃ t, exec .predictiveEvaluation s = .next t ∧
        ∀ d, ∀ j ∈ trainedLanes s l, ∀ p, laneRx s l d j = some p → (getLane s d.rxSide p).meas.conf ≠ 2 →
          (getLane t d.rxSide p).meas.lowRun = 0) ∧
    (∀ c v, opens s c (.lnkspcmd l) →
      let n : SpareNo := if v.getLsbD 6 then 1 else 0
      let d : Dir := if v.getLsbD 7 then .BA else .AB
      let j : LLane := (v.extractLsb' 2 4).toFin
      let able := k.capLink.getLsbD 0 && k.capLink.getLsbD 6
      let free := k.st == .active && k.swap.isNone && !committing s && (trainedLanes s l).contains j
      let refused := fun (i : Instr) (why : BitVec 4) => gives i fun x => { x with lastResult := why }
      let begun := fun (i : Instr) (back : Bool) => ∃ t w, exec i s = .next t ∧ (getLink t l).swap = some w ∧ w.dir = d ∧ w.lane = j ∧
        w.spare = n ∧ w.cause = 3 ∧ w.back = back ∧ w.step = .dup
      let warm := (getSpare s l n d).code = .warm
      let home := (getSpare s l n d).code = .carrying ∧ (getSpare s l n d).lane = j
      (able = false → refused (.lnkspcmdSwap c l v) 3 ∧ refused (.lnkspcmdBack c l v) 3) ∧
      (able = true → (¬ warm → refused (.lnkspcmdSwap c l v) 2) ∧ (¬ home → refused (.lnkspcmdBack c l v) 2) ∧
        (free = false → (warm → refused (.lnkspcmdSwap c l v) 7) ∧ (home → refused (.lnkspcmdBack c l v) 7)) ∧
        (free = true → (warm → begun (.lnkspcmdSwap c l v) false) ∧ (home → begun (.lnkspcmdBack c l v) true))))

end
end

