-- ==== Sys2Proof/Laws/Tables.lean ====
section
/-! SUPPORT. The sparse tables: reading after writing, and that every operation keeps the one form in which they are
held. -/

namespace Sys2Proof.Machine

theorem tabGet_tabSet_same {α : Type} [DecidableEq α] (d : α) (k : Nat) (v : α) (lo : Option Nat) (l : List (Nat × α))
    (h : tabWf d lo l = true) : tabGet d k (tabSet d k v l) = v := by
  induction l generalizing lo with
  | nil => by_cases hv : v = d <;> simp [tabSet, tabGet, hv]
  | cons p r ih =>
    obtain ⟨j, w⟩ := p
    have hr : tabWf d (some j) r = true := by
      simp only [tabWf, Bool.and_eq_true] at h
      exact h.2
    have low : ∀ (m : Nat) (t : List (Nat × α)), tabWf d (some m) t = true → ∀ i, i ≤ m → tabGet d i t = d := by
      intro m t
      induction t generalizing m with
      | nil => intros; rfl
      | cons q t iht =>
        obtain ⟨a, b⟩ := q
        intro ht i hi
        simp only [tabWf, Bool.and_eq_true, decide_eq_true_eq] at ht
        have hia : i ≠ a := by omega
        simp only [tabGet, if_neg hia]
        exact iht a ht.2 i (by omega)
    unfold tabSet
    by_cases hkj : k < j
    · by_cases hv : v = d
      · simp only [hkj, hv, if_true]
        have hne : k ≠ j := by omega
        simp only [tabGet, if_neg hne]
        exact low j r hr k (by omega)
      · simp [hkj, hv, tabGet]
    · by_cases hk : k = j
      · subst hk
        by_cases hv : v = d
        · simp only [hkj, if_false, hv, if_true]
          exact low k r hr k (Nat.le_refl k)
        · simp [hkj, hv, tabGet]
      · simp only [hkj, if_false, hk, tabGet]
        exact ih (some j) hr

theorem tabGet_tabSet_other {α : Type} [DecidableEq α] (d : α) (k i : Nat) (v : α) (l : List (Nat × α)) (h : i ≠ k) :
    tabGet d i (tabSet d k v l) = tabGet d i l := by
  induction l with
  | nil => by_cases hv : v = d <;> simp [tabSet, tabGet, hv, h]
  | cons p r ih =>
    obtain ⟨j, w⟩ := p
    unfold tabSet
    by_cases hkj : k < j
    · by_cases hv : v = d <;> simp [hkj, hv, tabGet, h]
    · by_cases hk : k = j
      · subst hk
        by_cases hv : v = d <;> simp [hv, tabGet, h]
      · simp only [hkj, if_false, hk, tabGet, ih]

theorem tabWf_mono {α : Type} [DecidableEq α] (d : α) (lo hi : Option Nat) (l : List (Nat × α))
    (hb : ∀ m, lo = some m → ∃ n, hi = some n ∧ m ≤ n) (h : tabWf d hi l = true) : tabWf d lo l = true := by
  cases l with
  | nil => rfl
  | cons p r =>
    obtain ⟨j, w⟩ := p
    simp only [tabWf, Bool.and_eq_true, decide_eq_true_eq] at h ⊢
    refine ⟨⟨?_, h.1.2⟩, h.2⟩
    cases lo with
    | none => rfl
    | some m =>
      obtain ⟨n, hn, hm⟩ := hb m rfl
      subst hn
      have := h.1.1
      simp only [decide_eq_true_eq] at this ⊢
      omega

theorem tabSet_wf {α : Type} [DecidableEq α] (d : α) (k : Nat) (v : α) (lo : Option Nat) (l : List (Nat × α))
    (hlo : ∀ m, lo = some m → m < k) (h : tabWf d lo l = true) : tabWf d lo (tabSet d k v l) = true := by
  induction l generalizing lo with
  | nil =>
    by_cases hv : v = d
    · simp [tabSet, hv, tabWf]
    · cases lo with
      | none => simp [tabSet, hv, tabWf]
      | some m => simp [tabSet, hv, tabWf, hlo m rfl]
  | cons p r ih =>
    obtain ⟨j, w⟩ := p
    have h' := h
    simp only [tabWf, Bool.and_eq_true, decide_eq_true_eq] at h'
    unfold tabSet
    by_cases hkj : k < j
    · by_cases hv : v = d
      · simpa only [hkj, hv, if_true] using h
      · simp only [hkj, hv, if_true, if_false, tabWf, Bool.and_eq_true, decide_eq_true_eq]
        refine ⟨⟨?_, hv⟩, ⟨trivial, h'.1.2⟩, h'.2⟩
        cases lo with
        | none => rfl
        | some m => simpa using hlo m rfl
    · by_cases hk : k = j
      · subst hk
        by_cases hv : v = d
        · simp only [hkj, if_false, hv, if_true]
          refine tabWf_mono d lo (some k) r ?_ h'.2
          intro m hm
          exact ⟨k, rfl, Nat.le_of_lt (hlo m hm)⟩
        · simp only [hkj, if_false, hv, if_true, tabWf, Bool.and_eq_true, decide_eq_true_eq]
          exact ⟨⟨h'.1.1, hv⟩, h'.2⟩
      · simp only [hkj, if_false, hk, tabWf, Bool.and_eq_true, decide_eq_true_eq]
        exact ⟨h'.1, ih (some j) (by intro m hm; cases hm; omega) h'.2⟩

theorem tabWf_filter {α : Type} [DecidableEq α] (d : α) (p : Nat × α → Bool) (lo : Option Nat) (l : List (Nat × α))
    (h : tabWf d lo l = true) : tabWf d lo (l.filter p) = true := by
  induction l generalizing lo with
  | nil => rfl
  | cons q r ih =>
    obtain ⟨j, w⟩ := q
    have h' := h
    simp only [tabWf, Bool.and_eq_true, decide_eq_true_eq] at h'
    by_cases hp : p (j, w) = true
    · simp only [List.filter_cons, hp, if_true, tabWf, Bool.and_eq_true, decide_eq_true_eq]
      exact ⟨h'.1, ih (some j) h'.2⟩
    · simp only [List.filter_cons, hp]
      refine tabWf_mono d lo (some j) _ ?_ (ih (some j) h'.2)
      intro m hm
      subst hm
      exact ⟨j, rfl, by simpa using Nat.le_of_lt (by simpa using h'.1.1)⟩

theorem numWf_mono (lo hi : Option Nat) (l : List Nat) (hb : ∀ m, lo = some m → ∃ n, hi = some n ∧ m ≤ n)
    (h : numWf hi l = true) : numWf lo l = true := by
  cases l with
  | nil => rfl
  | cons j r =>
    simp only [numWf, Bool.and_eq_true] at h ⊢
    refine ⟨?_, h.2⟩
    cases lo with
    | none => rfl
    | some m =>
      obtain ⟨n, hn, hm⟩ := hb m rfl
      subst hn
      have := h.1
      simp only [decide_eq_true_eq] at this ⊢
      omega

theorem numSet_wf (k : Nat) (lo : Option Nat) (l : List Nat) (hlo : ∀ m, lo = some m → m < k) (h : numWf lo l = true) :
    numWf lo (numSet k l) = true := by
  induction l generalizing lo with
  | nil =>
    cases lo with
    | none => rfl
    | some m => simp [numSet, numWf, hlo m rfl]
  | cons j r ih =>
    have h' := h
    simp only [numWf, Bool.and_eq_true] at h'
    unfold numSet
    by_cases hkj : k < j
    · simp only [hkj, if_true, numWf, Bool.and_eq_true, decide_eq_true_eq]
      refine ⟨?_, trivial, h'.2⟩
      cases lo with
      | none => rfl
      | some m => simpa using hlo m rfl
    · by_cases hk : k = j
      · simpa only [hkj, hk, if_false, if_true, Nat.lt_irrefl] using h
      · simp only [hkj, hk, if_false, numWf, Bool.and_eq_true]
        exact ⟨h'.1, ih (some j) (by intro m hm; cases hm; omega) h'.2⟩

theorem numClear_wf (k : Nat) (lo : Option Nat) (l : List Nat) (h : numWf lo l = true) : numWf lo (numClear k l) = true := by
  induction l generalizing lo with
  | nil => rfl
  | cons j r ih =>
    have h' := h
    simp only [numWf, Bool.and_eq_true] at h'
    unfold numClear
    by_cases hk : k = j
    · simp only [hk, if_true]
      refine numWf_mono lo (some j) r ?_ h'.2
      intro m hm
      subst hm
      exact ⟨j, rfl, by simpa using Nat.le_of_lt (by simpa using h'.1)⟩
    · simp only [hk, if_false, numWf, Bool.and_eq_true]
      exact ⟨h'.1, ih (some j) h'.2⟩

theorem putBytes_wf (cells : List Host.Cell) (pa : Nat) (bs : List Byte) (h : tabWf (0 : Byte) none cells = true) :
    tabWf (0 : Byte) none (putBytes cells pa bs) = true := by
  induction bs generalizing cells pa with
  | nil => exact h
  | cons b r ih => exact ih _ _ (tabSet_wf 0 pa b none cells (by simp) h)

theorem putBytes_other (cells : List Host.Cell) (pa a : Nat) (bs : List Byte) (h : a < pa ∨ pa + bs.length ≤ a) :
    tabGet 0 a (putBytes cells pa bs) = tabGet 0 a cells := by
  induction bs generalizing cells pa with
  | nil => rfl
  | cons b r ih =>
    simp only [List.length_cons] at h
    rw [putBytes, ih _ _ (by omega), tabGet_tabSet_other _ _ _ _ _ (by omega)]

theorem putBytes_get (cells : List Host.Cell) (pa i : Nat) (bs : List Byte) (h : tabWf (0 : Byte) none cells = true)
    (hi : i < bs.length) : tabGet 0 (pa + i) (putBytes cells pa bs) = bs.getD i 0 := by
  induction bs generalizing cells pa i with
  | nil => simp at hi
  | cons b r ih =>
    have hw := tabSet_wf (0 : Byte) pa b none cells (by simp) h
    cases i with
    | zero =>
      rw [putBytes, putBytes_other _ _ _ _ (by omega)]
      simpa using tabGet_tabSet_same (0 : Byte) pa b none cells h
    | succ i =>
      have := ih (tabSet 0 pa b cells) (pa + 1) i hw (by simpa using hi)
      rw [putBytes, show pa + (i + 1) = pa + 1 + i by omega, this]
      simp

theorem writeLine_wf (m : StoreSt) (pa : Nat) (bs : List Byte) (h : Memory.wf m = true) :
    Memory.wf (m.writeLine pa bs) = true := by
  simp only [Memory.wf, Bool.and_eq_true] at h ⊢
  refine ⟨⟨⟨putBytes_wf _ _ _ ?_, tabWf_filter _ _ _ _ h.1.1.2⟩, numSet_wf _ _ _ (by simp) h.1.2⟩,
    numClear_wf _ _ _ h.2⟩
  split
  · exact putBytes_wf _ _ _ h.1.1.1
  · exact h.1.1.1

end Sys2Proof.Machine
end

