-- ==== Sys2Proof/Laws/Frame.lean ====
section
/-! SUPPORT. What each operation leaves as it was: agreement in a component, and one lemma per operation that says in
which components at most its result differs from the state that it was given. -/

namespace Sys2Proof.Machine

theorem Comp.same_refl (k : Comp) (s : State) : k.same s s := by cases k <;> rfl

theorem Comp.same_trans {k : Comp} {s t u : State} (h : k.same s t) (g : k.same t u) : k.same s u := by
  cases k <;> exact Eq.trans g h

theorem not_mem_of_subset {k : Comp} {l m : List Comp} (h : k ∉ m) (hs : l ⊆ m) : k ∉ l := fun i => h (hs i)

theorem foldl_keeps {α : Type} {k : Comp} {s x : State} {f : State → α → State} {l : List α} (h : k.same s x)
    (hf : ∀ t a, k.same s t → k.same s (f t a)) : k.same s (l.foldl f x) := by
  induction l generalizing x with
  | nil => exact h
  | cons a r ih => exact ih (hf x a h)

theorem ite_keeps {k : Comp} {s a b : State} {c : Prop} {_ : Decidable c} (ha : k.same s a) (hb : k.same s b) :
    k.same s (if c then a else b) := by
  split
  · exact ha
  · exact hb

theorem getD_keeps {k : Comp} {s d : State} {o : Option State} (ho : ∀ u, o = some u → k.same s u) (hd : k.same s d) :
    k.same s (o.getD d) := by
  cases o with
  | none => exact hd
  | some u => exact ho u rfl

/-- The state that a candidate carries agrees in a component. -/
def Candidate.keeps (k : Comp) (s : State) (c : Candidate) : Prop := ∀ i t, c = .member i t → k.same s t

/-! ### Updates of components -/

def State.putPins (x : State) (v : Pins) : State := { x with pins := v }

def State.putPower (x : State) (v : Power) : State := { x with power := v }

def State.putBoot (x : State) (v : Boot) : State := { x with boot := v }

def State.putDev (x : State) (v : Dev) : State := { x with dev := v }

def State.putWelt (x : State) (v : WeltSt) : State := { x with welt := v }

def State.putTherm (x : State) (v : Thermal) : State := { x with therm := v }

def State.putEvt (x : State) (v : EvtSt) : State := { x with evt := v }

def State.putHeel (x : State) (v : HeelSt) : State := { x with heel := v }

def State.putLanes (x : State) (v : Vector Lane 36) : State := { x with lanes := v }

def State.putLinks (x : State) (v : Vector Link 8) : State := { x with links := v }

def State.putLast (x : State) (v : LastSt) : State := { x with last := v }

def State.putStore (x : State) (v : StoreSt) : State := { x with store := v }

def State.putWin (x : State) (v : WinSt) : State := { x with win := v }

def State.putTwb (x : State) (v : TwbSt) : State := { x with twb := v }

def State.putImc (x : State) (v : ImcSt) : State := { x with imc := v }

def State.putJtag (x : State) (v : JtagSt) : State := { x with jtag := v }

def State.putAcc (x : State) (v : AccSt) : State := { x with acc := v }

def State.putWqs (x : State) (v : Vector Wq 32) : State := { x with wqs := v }

def State.putCqs (x : State) (v : Vector Cq 8) : State := { x with cqs := v }

def State.putUnits (x : State) (v : Units) : State := { x with units := v }

def State.putSlots (x : State) (v : Vector Slot 8) : State := { x with slots := v }

def State.putSched (x : State) (v : Sched) : State := { x with sched := v }

def State.putAwl (x : State) (v : AwlSt) : State := { x with awl := v }

def State.putNvm (x : State) (v : NvmSt) : State := { x with nvm := v }

def State.putTm (x : State) (v : TmSt) : State := { x with tm := v }

def State.putTime (x : State) (v : TimeSt) : State := { x with time := v }

def State.putCal (x : State) (v : CalSt) : State := { x with cal := v }

def State.putFree (x : State) (v : Nat) : State := { x with free := v }

def State.putPending (x : State) (v : List Instr) : State := { x with pending := v }

theorem putPins_keeps {k : Comp} {s x : State} {v : Pins} (hk : k ∉ [.pins]) (h : k.same s x) :
    k.same s (x.putPins v) := by
  cases k <;> first | exact h | exact absurd (by decide) hk

theorem putPower_keeps {k : Comp} {s x : State} {v : Power} (hk : k ∉ [.power]) (h : k.same s x) :
    k.same s (x.putPower v) := by
  cases k <;> first | exact h | exact absurd (by decide) hk

theorem putBoot_keeps {k : Comp} {s x : State} {v : Boot} (hk : k ∉ [.boot]) (h : k.same s x) :
    k.same s (x.putBoot v) := by
  cases k <;> first | exact h | exact absurd (by decide) hk

theorem putDev_keeps {k : Comp} {s x : State} {v : Dev} (hk : k ∉ [.dev]) (h : k.same s x) :
    k.same s (x.putDev v) := by
  cases k <;> first | exact h | exact absurd (by decide) hk

theorem putWelt_keeps {k : Comp} {s x : State} {v : WeltSt} (hk : k ∉ [.welt]) (h : k.same s x) :
    k.same s (x.putWelt v) := by
  cases k <;> first | exact h | exact absurd (by decide) hk

theorem putTherm_keeps {k : Comp} {s x : State} {v : Thermal} (hk : k ∉ [.therm]) (h : k.same s x) :
    k.same s (x.putTherm v) := by
  cases k <;> first | exact h | exact absurd (by decide) hk

theorem putEvt_keeps {k : Comp} {s x : State} {v : EvtSt} (hk : k ∉ [.evt]) (h : k.same s x) :
    k.same s (x.putEvt v) := by
  cases k <;> first | exact h | exact absurd (by decide) hk

theorem putHeel_keeps {k : Comp} {s x : State} {v : HeelSt} (hk : k ∉ [.heel]) (h : k.same s x) :
    k.same s (x.putHeel v) := by
  cases k <;> first | exact h | exact absurd (by decide) hk

theorem putLanes_keeps {k : Comp} {s x : State} {v : Vector Lane 36} (hk : k ∉ [.lanes]) (h : k.same s x) :
    k.same s (x.putLanes v) := by
  cases k <;> first | exact h | exact absurd (by decide) hk

theorem putLinks_keeps {k : Comp} {s x : State} {v : Vector Link 8} (hk : k ∉ [.links]) (h : k.same s x) :
    k.same s (x.putLinks v) := by
  cases k <;> first | exact h | exact absurd (by decide) hk

theorem putLast_keeps {k : Comp} {s x : State} {v : LastSt} (hk : k ∉ [.last]) (h : k.same s x) :
    k.same s (x.putLast v) := by
  cases k <;> first | exact h | exact absurd (by decide) hk

theorem putStore_keeps {k : Comp} {s x : State} {v : StoreSt} (hk : k ∉ [.store]) (h : k.same s x) :
    k.same s (x.putStore v) := by
  cases k <;> first | exact h | exact absurd (by decide) hk

theorem putWin_keeps {k : Comp} {s x : State} {v : WinSt} (hk : k ∉ [.win]) (h : k.same s x) :
    k.same s (x.putWin v) := by
  cases k <;> first | exact h | exact absurd (by decide) hk

theorem putTwb_keeps {k : Comp} {s x : State} {v : TwbSt} (hk : k ∉ [.twb]) (h : k.same s x) :
    k.same s (x.putTwb v) := by
  cases k <;> first | exact h | exact absurd (by decide) hk

theorem putImc_keeps {k : Comp} {s x : State} {v : ImcSt} (hk : k ∉ [.imc]) (h : k.same s x) :
    k.same s (x.putImc v) := by
  cases k <;> first | exact h | exact absurd (by decide) hk

theorem putJtag_keeps {k : Comp} {s x : State} {v : JtagSt} (hk : k ∉ [.jtag]) (h : k.same s x) :
    k.same s (x.putJtag v) := by
  cases k <;> first | exact h | exact absurd (by decide) hk

theorem putAcc_keeps {k : Comp} {s x : State} {v : AccSt} (hk : k ∉ [.acc]) (h : k.same s x) :
    k.same s (x.putAcc v) := by
  cases k <;> first | exact h | exact absurd (by decide) hk

theorem putWqs_keeps {k : Comp} {s x : State} {v : Vector Wq 32} (hk : k ∉ [.wqs]) (h : k.same s x) :
    k.same s (x.putWqs v) := by
  cases k <;> first | exact h | exact absurd (by decide) hk

theorem putCqs_keeps {k : Comp} {s x : State} {v : Vector Cq 8} (hk : k ∉ [.cqs]) (h : k.same s x) :
    k.same s (x.putCqs v) := by
  cases k <;> first | exact h | exact absurd (by decide) hk

theorem putUnits_keeps {k : Comp} {s x : State} {v : Units} (hk : k ∉ [.units]) (h : k.same s x) :
    k.same s (x.putUnits v) := by
  cases k <;> first | exact h | exact absurd (by decide) hk

theorem putSlots_keeps {k : Comp} {s x : State} {v : Vector Slot 8} (hk : k ∉ [.slots]) (h : k.same s x) :
    k.same s (x.putSlots v) := by
  cases k <;> first | exact h | exact absurd (by decide) hk

theorem putSched_keeps {k : Comp} {s x : State} {v : Sched} (hk : k ∉ [.sched]) (h : k.same s x) :
    k.same s (x.putSched v) := by
  cases k <;> first | exact h | exact absurd (by decide) hk

theorem putAwl_keeps {k : Comp} {s x : State} {v : AwlSt} (hk : k ∉ [.awl]) (h : k.same s x) :
    k.same s (x.putAwl v) := by
  cases k <;> first | exact h | exact absurd (by decide) hk

theorem putNvm_keeps {k : Comp} {s x : State} {v : NvmSt} (hk : k ∉ [.nvm]) (h : k.same s x) :
    k.same s (x.putNvm v) := by
  cases k <;> first | exact h | exact absurd (by decide) hk

theorem putTm_keeps {k : Comp} {s x : State} {v : TmSt} (hk : k ∉ [.tm]) (h : k.same s x) :
    k.same s (x.putTm v) := by
  cases k <;> first | exact h | exact absurd (by decide) hk

theorem putTime_keeps {k : Comp} {s x : State} {v : TimeSt} (hk : k ∉ [.time]) (h : k.same s x) :
    k.same s (x.putTime v) := by
  cases k <;> first | exact h | exact absurd (by decide) hk

theorem putCal_keeps {k : Comp} {s x : State} {v : CalSt} (hk : k ∉ [.cal]) (h : k.same s x) :
    k.same s (x.putCal v) := by
  cases k <;> first | exact h | exact absurd (by decide) hk

theorem putFree_keeps {k : Comp} {s x : State} {v : Nat} (hk : k ∉ [.free]) (h : k.same s x) :
    k.same s (x.putFree v) := by
  cases k <;> first | exact h | exact absurd (by decide) hk

theorem putPending_keeps {k : Comp} {s x : State} {v : List Instr} (hk : k ∉ [.pending]) (h : k.same s x) :
    k.same s (x.putPending v) := by
  cases k <;> first | exact h | exact absurd (by decide) hk

theorem upd_acc (x : State) (v0 : AccSt) :
    { x with acc := v0 } = x.putAcc v0 := rfl

theorem upd_awl (x : State) (v0 : AwlSt) :
    { x with awl := v0 } = x.putAwl v0 := rfl

theorem upd_boot (x : State) (v0 : Boot) :
    { x with boot := v0 } = x.putBoot v0 := rfl

theorem upd_cal (x : State) (v0 : CalSt) :
    { x with cal := v0 } = x.putCal v0 := rfl

theorem upd_cqs (x : State) (v0 : Vector Cq 8) :
    { x with cqs := v0 } = x.putCqs v0 := rfl

theorem upd_dev (x : State) (v0 : Dev) :
    { x with dev := v0 } = x.putDev v0 := rfl

theorem upd_evt (x : State) (v0 : EvtSt) :
    { x with evt := v0 } = x.putEvt v0 := rfl

theorem upd_free (x : State) (v0 : Nat) :
    { x with free := v0 } = x.putFree v0 := rfl

theorem upd_heel (x : State) (v0 : HeelSt) :
    { x with heel := v0 } = x.putHeel v0 := rfl

theorem upd_imc (x : State) (v0 : ImcSt) :
    { x with imc := v0 } = x.putImc v0 := rfl

theorem upd_jtag (x : State) (v0 : JtagSt) :
    { x with jtag := v0 } = x.putJtag v0 := rfl

theorem upd_lanes (x : State) (v0 : Vector Lane 36) :
    { x with lanes := v0 } = x.putLanes v0 := rfl

theorem upd_last (x : State) (v0 : LastSt) :
    { x with last := v0 } = x.putLast v0 := rfl

theorem upd_links (x : State) (v0 : Vector Link 8) :
    { x with links := v0 } = x.putLinks v0 := rfl

theorem upd_nvm (x : State) (v0 : NvmSt) :
    { x with nvm := v0 } = x.putNvm v0 := rfl

theorem upd_pending (x : State) (v0 : List Instr) :
    { x with pending := v0 } = x.putPending v0 := rfl

theorem upd_pins (x : State) (v0 : Pins) :
    { x with pins := v0 } = x.putPins v0 := rfl

theorem upd_power (x : State) (v0 : Power) :
    { x with power := v0 } = x.putPower v0 := rfl

theorem upd_sched (x : State) (v0 : Sched) :
    { x with sched := v0 } = x.putSched v0 := rfl

theorem upd_slots (x : State) (v0 : Vector Slot 8) :
    { x with slots := v0 } = x.putSlots v0 := rfl

theorem upd_store (x : State) (v0 : StoreSt) :
    { x with store := v0 } = x.putStore v0 := rfl

theorem upd_therm (x : State) (v0 : Thermal) :
    { x with therm := v0 } = x.putTherm v0 := rfl

theorem upd_time (x : State) (v0 : TimeSt) :
    { x with time := v0 } = x.putTime v0 := rfl

theorem upd_tm (x : State) (v0 : TmSt) :
    { x with tm := v0 } = x.putTm v0 := rfl

theorem upd_twb (x : State) (v0 : TwbSt) :
    { x with twb := v0 } = x.putTwb v0 := rfl

theorem upd_units (x : State) (v0 : Units) :
    { x with units := v0 } = x.putUnits v0 := rfl

theorem upd_welt (x : State) (v0 : WeltSt) :
    { x with welt := v0 } = x.putWelt v0 := rfl

theorem upd_win (x : State) (v0 : WinSt) :
    { x with win := v0 } = x.putWin v0 := rfl

theorem upd_wqs (x : State) (v0 : Vector Wq 32) :
    { x with wqs := v0 } = x.putWqs v0 := rfl

theorem upd_boot_cal (x : State) (v0 : Boot) (v1 : CalSt) :
    { x with boot := v0, cal := v1 } = (x.putBoot v0).putCal v1 := rfl

theorem upd_boot_last (x : State) (v0 : Boot) (v1 : LastSt) :
    { x with boot := v0, last := v1 } = (x.putBoot v0).putLast v1 := rfl

theorem upd_boot_store (x : State) (v0 : Boot) (v1 : StoreSt) :
    { x with boot := v0, store := v1 } = (x.putBoot v0).putStore v1 := rfl

theorem upd_boot_twb (x : State) (v0 : Boot) (v1 : TwbSt) :
    { x with boot := v0, twb := v1 } = (x.putBoot v0).putTwb v1 := rfl

theorem upd_cal_free (x : State) (v0 : CalSt) (v1 : Nat) :
    { x with cal := v0, free := v1 } = (x.putCal v0).putFree v1 := rfl

theorem upd_dev_therm (x : State) (v0 : Dev) (v1 : Thermal) :
    { x with dev := v0, therm := v1 } = (x.putDev v0).putTherm v1 := rfl

theorem upd_evt_heel (x : State) (v0 : EvtSt) (v1 : HeelSt) :
    { x with evt := v0, heel := v1 } = (x.putEvt v0).putHeel v1 := rfl

theorem upd_evt_nvm (x : State) (v0 : EvtSt) (v1 : NvmSt) :
    { x with evt := v0, nvm := v1 } = (x.putEvt v0).putNvm v1 := rfl

theorem upd_evt_store (x : State) (v0 : EvtSt) (v1 : StoreSt) :
    { x with evt := v0, store := v1 } = (x.putEvt v0).putStore v1 := rfl

theorem upd_heel_cal (x : State) (v0 : HeelSt) (v1 : CalSt) :
    { x with heel := v0, cal := v1 } = (x.putHeel v0).putCal v1 := rfl

theorem upd_pins_jtag (x : State) (v0 : Pins) (v1 : JtagSt) :
    { x with pins := v0, jtag := v1 } = (x.putPins v0).putJtag v1 := rfl

theorem upd_power_evt (x : State) (v0 : Power) (v1 : EvtSt) :
    { x with power := v0, evt := v1 } = (x.putPower v0).putEvt v1 := rfl

theorem upd_power_nvm (x : State) (v0 : Power) (v1 : NvmSt) :
    { x with power := v0, nvm := v1 } = (x.putPower v0).putNvm v1 := rfl

theorem upd_slots_sched (x : State) (v0 : Vector Slot 8) (v1 : Sched) :
    { x with slots := v0, sched := v1 } = (x.putSlots v0).putSched v1 := rfl

theorem upd_units_nvm (x : State) (v0 : Units) (v1 : NvmSt) :
    { x with units := v0, nvm := v1 } = (x.putUnits v0).putNvm v1 := rfl

theorem upd_welt_evt (x : State) (v0 : WeltSt) (v1 : EvtSt) :
    { x with welt := v0, evt := v1 } = (x.putWelt v0).putEvt v1 := rfl

theorem upd_wqs_cqs (x : State) (v0 : Vector Wq 32) (v1 : Vector Cq 8) :
    { x with wqs := v0, cqs := v1 } = (x.putWqs v0).putCqs v1 := rfl

theorem upd_pins_power_boot (x : State) (v0 : Pins) (v1 : Power) (v2 : Boot) :
    { x with pins := v0, power := v1, boot := v2 } = ((x.putPins v0).putPower v1).putBoot v2 := rfl

theorem upd_boot_dev_evt_store_twb (x : State) (v0 : Boot) (v1 : Dev) (v2 : EvtSt) (v3 : StoreSt) (v4 : TwbSt) :
    { x with boot := v0, dev := v1, evt := v2, store := v3, twb := v4 } = ((((x.putBoot v0).putDev v1).putEvt v2).putStore v3).putTwb v4 := by
  simp only [State.putBoot, State.putDev, State.putEvt, State.putStore, State.putTwb]

theorem upd_lanes_links_last_store_win_units_slots_sched_nvm_tm_cal (x : State) (v0 : Vector Lane 36) (v1 : Vector Link 8) (v2 : LastSt) (v3 : StoreSt) (v4 : WinSt) (v5 : Units) (v6 : Vector Slot 8) (v7 : Sched) (v8 : NvmSt) (v9 : TmSt) (v10 : CalSt) :
    { x with lanes := v0, links := v1, last := v2, store := v3, win := v4, units := v5, slots := v6, sched := v7, nvm := v8, tm := v9, cal := v10 } = ((((((((((x.putLanes v0).putLinks v1).putLast v2).putStore v3).putWin v4).putUnits v5).putSlots v6).putSched v7).putNvm v8).putTm v9).putCal v10 := by
  simp only [State.putLanes, State.putLinks, State.putLast, State.putStore, State.putWin, State.putUnits, State.putSlots, State.putSched, State.putNvm, State.putTm, State.putCal]

theorem upd_pins_power_boot_dev_welt_therm_evt_heel_lanes_links_last_store_win_twb_imc_jtag_acc_wqs_cqs_units_slots_sched_awl_nvm_tm_time_cal_free_pending (x : State) (v0 : Pins) (v1 : Power) (v2 : Boot) (v3 : Dev) (v4 : WeltSt) (v5 : Thermal) (v6 : EvtSt) (v7 : HeelSt) (v8 : Vector Lane 36) (v9 : Vector Link 8) (v10 : LastSt) (v11 : StoreSt) (v12 : WinSt) (v13 : TwbSt) (v14 : ImcSt) (v15 : JtagSt) (v16 : AccSt) (v17 : Vector Wq 32) (v18 : Vector Cq 8) (v19 : Units) (v20 : Vector Slot 8) (v21 : Sched) (v22 : AwlSt) (v23 : NvmSt) (v24 : TmSt) (v25 : TimeSt) (v26 : CalSt) (v27 : Nat) (v28 : List Instr) :
    { x with pins := v0, power := v1, boot := v2, dev := v3, welt := v4, therm := v5, evt := v6, heel := v7, lanes := v8, links := v9, last := v10, store := v11, win := v12, twb := v13, imc := v14, jtag := v15, acc := v16, wqs := v17, cqs := v18, units := v19, slots := v20, sched := v21, awl := v22, nvm := v23, tm := v24, time := v25, cal := v26, free := v27, pending := v28 } = ((((((((((((((((((((((((((((x.putPins v0).putPower v1).putBoot v2).putDev v3).putWelt v4).putTherm v5).putEvt v6).putHeel v7).putLanes v8).putLinks v9).putLast v10).putStore v11).putWin v12).putTwb v13).putImc v14).putJtag v15).putAcc v16).putWqs v17).putCqs v18).putUnits v19).putSlots v20).putSched v21).putAwl v22).putNvm v23).putTm v24).putTime v25).putCal v26).putFree v27).putPending v28 := by
  simp only [State.putPins, State.putPower, State.putBoot, State.putDev, State.putWelt, State.putTherm, State.putEvt, State.putHeel, State.putLanes, State.putLinks, State.putLast, State.putStore, State.putWin, State.putTwb, State.putImc, State.putJtag, State.putAcc, State.putWqs, State.putCqs, State.putUnits, State.putSlots, State.putSched, State.putAwl, State.putNvm, State.putTm, State.putTime, State.putCal, State.putFree, State.putPending]

theorem ringPut_keeps {k : Comp} {s x : State} {a0} (hk : k ∉ [.evt, .store]) (h : k.same s x) :
    k.same s (ringPut x a0) := by
  unfold ringPut
  try dsimp -zeta -proj only [upd_evt_store]
  repeat' first
    | with_reducible assumption
    | with_reducible refine putEvt_keeps (not_mem_of_subset hk ?_) ?_
    | with_reducible refine putStore_keeps (not_mem_of_subset hk ?_) ?_
    | with_reducible refine ite_keeps ?_ ?_
    | with_reducible refine foldl_keeps ?_ (fun t a h => ?_)
    | dsimp -proj only
    | split
    | decide

theorem recordPut_keeps {k : Comp} {s x : State} {a0} (hk : k ∉ [.evt, .store]) (h : k.same s x) :
    k.same s (recordPut x a0) := by
  unfold recordPut
  try dsimp -zeta -proj only [upd_evt]
  repeat' first
    | with_reducible assumption
    | with_reducible refine ringPut_keeps (not_mem_of_subset hk ?_) ?_
    | with_reducible refine putEvt_keeps (not_mem_of_subset hk ?_) ?_
    | with_reducible refine ite_keeps ?_ ?_
    | with_reducible refine foldl_keeps ?_ (fun t a h => ?_)
    | dsimp -proj only
    | split
    | decide

theorem emit_keeps {k : Comp} {s x : State} {a0 a1 a2 a3} (hk : k ∉ [.evt, .store, .nvm]) (h : k.same s x) :
    k.same s (emit x a0 a1 a2 a3) := by
  unfold emit
  try dsimp -zeta -proj only [upd_evt_nvm]
  repeat' first
    | with_reducible assumption
    | with_reducible refine recordPut_keeps (not_mem_of_subset hk ?_) ?_
    | with_reducible refine putEvt_keeps (not_mem_of_subset hk ?_) ?_
    | with_reducible refine putNvm_keeps (not_mem_of_subset hk ?_) ?_
    | with_reducible refine ite_keeps ?_ ?_
    | with_reducible refine foldl_keeps ?_ (fun t a h => ?_)
    | dsimp -proj only
    | split
    | decide

theorem emitEvent_keeps {k : Comp} {s x : State} {a0 a1 a2} (hk : k ∉ [.evt, .store, .nvm]) (h : k.same s x) :
    k.same s (emitEvent x a0 a1 a2) := by
  unfold emitEvent
  try dsimp -zeta -proj only [upd_evt]
  repeat' first
    | with_reducible assumption
    | with_reducible refine emit_keeps (not_mem_of_subset hk ?_) ?_
    | with_reducible refine putEvt_keeps (not_mem_of_subset hk ?_) ?_
    | with_reducible refine ite_keeps ?_ ?_
    | with_reducible refine foldl_keeps ?_ (fun t a h => ?_)
    | dsimp -proj only
    | split
    | decide

theorem logFuel_keeps {k : Comp} {s x : State} {a0 a1 a2 a3} (hk : k ∉ [.evt, .store, .nvm]) (h : k.same s x) :
    k.same s (logFuel a0 x a1 a2 a3) := by
  induction a0 generalizing x a1 a2 a3 with
  | zero => exact emitEvent_keeps (not_mem_of_subset hk (by decide)) h
  | succ n ih => exact foldl_keeps (emitEvent_keeps (not_mem_of_subset hk (by decide)) h) (fun _ _ g => ih g)

theorem logEvent_keeps {k : Comp} {s x : State} {a0 a1 a2} (hk : k ∉ [.evt, .store, .nvm]) (h : k.same s x) :
    k.same s (logEvent x a0 a1 a2) := by
  unfold logEvent
  repeat' first
    | with_reducible assumption
    | with_reducible refine logFuel_keeps (not_mem_of_subset hk ?_) ?_
    | with_reducible refine ite_keeps ?_ ?_
    | with_reducible refine foldl_keeps ?_ (fun t a h => ?_)
    | dsimp -proj only
    | split
    | decide

theorem logL_keeps {k : Comp} {s x : State} {a0 a1 a2 a3} (hk : k ∉ [.evt, .store, .nvm]) (h : k.same s x) :
    k.same s (logL x a0 a1 a2 a3) := by
  unfold logL
  repeat' first
    | with_reducible assumption
    | with_reducible refine logEvent_keeps (not_mem_of_subset hk ?_) ?_
    | with_reducible refine ite_keeps ?_ ?_
    | with_reducible refine foldl_keeps ?_ (fun t a h => ?_)
    | dsimp -proj only
    | split
    | decide

theorem modLane_keeps {k : Comp} {s x : State} {a0 a1 a2} (hk : k ∉ [.lanes]) (h : k.same s x) :
    k.same s (modLane x a0 a1 a2) := by
  unfold modLane
  try dsimp -zeta -proj only [upd_lanes]
  repeat' first
    | with_reducible assumption
    | with_reducible refine putLanes_keeps (not_mem_of_subset hk ?_) ?_
    | with_reducible refine ite_keeps ?_ ?_
    | with_reducible refine foldl_keeps ?_ (fun t a h => ?_)
    | dsimp -proj only
    | split
    | decide

theorem modCal_keeps {k : Comp} {s x : State} {a0 a1 a2} (hk : k ∉ [.lanes]) (h : k.same s x) :
    k.same s (modCal x a0 a1 a2) := by
  unfold modCal
  repeat' first
    | with_reducible assumption
    | with_reducible refine modLane_keeps (not_mem_of_subset hk ?_) ?_
    | with_reducible refine ite_keeps ?_ ?_
    | with_reducible refine foldl_keeps ?_ (fun t a h => ?_)
    | dsimp -proj only
    | split
    | decide

theorem revertUnit_keeps {k : Comp} {s x : State} {a0 a1} (hk : k ∉ [.lanes]) (h : k.same s x) :
    k.same s (revertUnit x a0 a1) := by
  unfold revertUnit
  repeat' first
    | with_reducible assumption
    | with_reducible refine modCal_keeps (not_mem_of_subset hk ?_) ?_
    | with_reducible refine ite_keeps ?_ ?_
    | with_reducible refine foldl_keeps ?_ (fun t a h => ?_)
    | dsimp -proj only
    | split
    | decide

theorem endRecal_keeps {k : Comp} {s x : State} (hk : k ∉ [.cal]) (h : k.same s x) :
    k.same s (endRecal x) := by
  unfold endRecal
  try dsimp -zeta -proj only [upd_cal]
  repeat' first
    | with_reducible assumption
    | with_reducible refine putCal_keeps (not_mem_of_subset hk ?_) ?_
    | with_reducible refine ite_keeps ?_ ?_
    | with_reducible refine foldl_keeps ?_ (fun t a h => ?_)
    | dsimp -proj only
    | split
    | decide

theorem stopRecal_keeps {k : Comp} {s x : State} {a0 a1} (hk : k ∉ [.evt, .lanes, .store, .nvm, .cal]) (h : k.same s x) :
    k.same s (stopRecal x a0 a1) := by
  unfold stopRecal
  repeat' first
    | with_reducible assumption
    | with_reducible refine logL_keeps (not_mem_of_subset hk ?_) ?_
    | with_reducible refine revertUnit_keeps (not_mem_of_subset hk ?_) ?_
    | with_reducible refine endRecal_keeps (not_mem_of_subset hk ?_) ?_
    | with_reducible refine ite_keeps ?_ ?_
    | with_reducible refine foldl_keeps ?_ (fun t a h => ?_)
    | dsimp -proj only
    | split
    | decide

theorem abortRecal_keeps {k : Comp} {s x : State} (hk : k ∉ [.evt, .lanes, .store, .nvm, .cal]) (h : k.same s x) :
    k.same s (abortRecal x) := by
  unfold abortRecal
  repeat' first
    | with_reducible assumption
    | with_reducible refine stopRecal_keeps (not_mem_of_subset hk ?_) ?_
    | with_reducible refine ite_keeps ?_ ?_
    | with_reducible refine foldl_keeps ?_ (fun t a h => ?_)
    | dsimp -proj only
    | split
    | decide

theorem setUnit_keeps {k : Comp} {s x : State} {a0 a1} (hk : k ∉ [.units]) (h : k.same s x) :
    k.same s (setUnit x a0 a1) := by
  unfold setUnit
  try dsimp -zeta -proj only [upd_units]
  repeat' first
    | with_reducible assumption
    | with_reducible refine putUnits_keeps (not_mem_of_subset hk ?_) ?_
    | with_reducible refine ite_keeps ?_ ?_
    | with_reducible refine foldl_keeps ?_ (fun t a h => ?_)
    | dsimp -proj only
    | split
    | decide

theorem modMeas_keeps {k : Comp} {s x : State} {a0 a1 a2} (hk : k ∉ [.lanes]) (h : k.same s x) :
    k.same s (modMeas x a0 a1 a2) := by
  unfold modMeas
  repeat' first
    | with_reducible assumption
    | with_reducible refine modLane_keeps (not_mem_of_subset hk ?_) ?_
    | with_reducible refine ite_keeps ?_ ?_
    | with_reducible refine foldl_keeps ?_ (fun t a h => ?_)
    | dsimp -proj only
    | split
    | decide

theorem restartHeel_keeps {k : Comp} {s x : State} (hk : k ∉ [.evt, .heel, .lanes, .store, .units, .nvm, .cal]) (h : k.same s x) :
    k.same s (restartHeel x) := by
  unfold restartHeel
  try dsimp -zeta -proj only [upd_heel_cal]
  repeat' first
    | with_reducible assumption
    | with_reducible refine abortRecal_keeps (not_mem_of_subset hk ?_) ?_
    | with_reducible refine setUnit_keeps (not_mem_of_subset hk ?_) ?_
    | with_reducible refine modMeas_keeps (not_mem_of_subset hk ?_) ?_
    | with_reducible refine putHeel_keeps (not_mem_of_subset hk ?_) ?_
    | with_reducible refine putCal_keeps (not_mem_of_subset hk ?_) ?_
    | with_reducible refine ite_keeps ?_ ?_
    | with_reducible refine foldl_keeps ?_ (fun t a h => ?_)
    | dsimp -proj only
    | split
    | decide

theorem modLink_keeps {k : Comp} {s x : State} {a0 a1} (hk : k ∉ [.links]) (h : k.same s x) :
    k.same s (modLink x a0 a1) := by
  unfold modLink
  try dsimp -zeta -proj only [upd_links]
  repeat' first
    | with_reducible assumption
    | with_reducible refine putLinks_keeps (not_mem_of_subset hk ?_) ?_
    | with_reducible refine ite_keeps ?_ ?_
    | with_reducible refine foldl_keeps ?_ (fun t a h => ?_)
    | dsimp -proj only
    | split
    | decide

theorem joinOut_keeps {k : Comp} {s x : State} {a0 a1} (hk : k ∉ [.links]) (h : k.same s x) :
    k.same s (joinOut x a0 a1) := by
  unfold joinOut
  repeat' first
    | with_reducible assumption
    | with_reducible refine modLink_keeps (not_mem_of_subset hk ?_) ?_
    | with_reducible refine ite_keeps ?_ ?_
    | with_reducible refine foldl_keeps ?_ (fun t a h => ?_)
    | dsimp -proj only
    | split
    | decide

theorem queueMos_keeps {k : Comp} {s x : State} {a0 a1 a2 a3 a4} (hk : k ∉ [.links]) (h : k.same s x) :
    k.same s (queueMos x a0 a1 a2 a3 a4) := by
  unfold queueMos
  repeat' first
    | with_reducible assumption
    | with_reducible refine joinOut_keeps (not_mem_of_subset hk ?_) ?_
    | with_reducible refine ite_keeps ?_ ?_
    | with_reducible refine foldl_keeps ?_ (fun t a h => ?_)
    | dsimp -proj only
    | split
    | decide

theorem useFree_keeps {k : Comp} {s x : State} (hk : k ∉ [.free]) (h : k.same s x) :
    k.same s (useFree x).2 := by
  unfold useFree
  try dsimp -zeta -proj only [upd_free]
  repeat' first
    | with_reducible assumption
    | with_reducible refine putFree_keeps (not_mem_of_subset hk ?_) ?_
    | with_reducible refine ite_keeps ?_ ?_
    | with_reducible refine foldl_keeps ?_ (fun t a h => ?_)
    | dsimp -proj only
    | split
    | decide

theorem useFree_keeps_eq {k : Comp} {s x : State} {r u} (hk : k ∉ [.free]) (h : k.same s x) (e : useFree x = (r, u)) :
    k.same s u := by
  simpa only [e] using useFree_keeps (s := s) (x := x)  hk h

theorem freshSeq_keeps {k : Comp} {s x : State} (hk : k ∉ [.free]) (h : k.same s x) :
    k.same s (freshSeq x).2 := by
  unfold freshSeq
  repeat' first
    | with_reducible assumption
    | with_reducible refine useFree_keeps (not_mem_of_subset hk ?_) ?_
    | with_reducible refine useFree_keeps_eq (not_mem_of_subset hk ?_) ?_ (by with_reducible assumption)
    | with_reducible refine ite_keeps ?_ ?_
    | with_reducible refine foldl_keeps ?_ (fun t a h => ?_)
    | dsimp -proj only
    | split
    | decide

theorem freshSeq_keeps_eq {k : Comp} {s x : State} {r u} (hk : k ∉ [.free]) (h : k.same s x) (e : freshSeq x = (r, u)) :
    k.same s u := by
  simpa only [e] using freshSeq_keeps (s := s) (x := x)  hk h

theorem sendOwn_keeps {k : Comp} {s x : State} {a0 a1 a2 a3} (hk : k ∉ [.links, .free]) (h : k.same s x) :
    k.same s (sendOwn x a0 a1 a2 a3) := by
  unfold sendOwn
  repeat' first
    | with_reducible assumption
    | with_reducible refine queueMos_keeps (not_mem_of_subset hk ?_) ?_
    | with_reducible refine freshSeq_keeps (not_mem_of_subset hk ?_) ?_
    | with_reducible refine freshSeq_keeps_eq (not_mem_of_subset hk ?_) ?_ (by with_reducible assumption)
    | with_reducible refine ite_keeps ?_ ?_
    | with_reducible refine foldl_keeps ?_ (fun t a h => ?_)
    | dsimp -proj only
    | split
    | decide

theorem queueNotify_keeps {k : Comp} {s x : State} {a0} (hk : k ∉ [.links, .free]) (h : k.same s x) :
    k.same s (queueNotify x a0) := by
  unfold queueNotify
  repeat' first
    | with_reducible assumption
    | with_reducible refine modLink_keeps (not_mem_of_subset hk ?_) ?_
    | with_reducible refine sendOwn_keeps (not_mem_of_subset hk ?_) ?_
    | with_reducible refine ite_keeps ?_ ?_
    | with_reducible refine foldl_keeps ?_ (fun t a h => ?_)
    | dsimp -proj only
    | split
    | decide

theorem watchAttn_keeps {k : Comp} {s x : State} (hk : k ∉ [.links, .imc, .free]) (h : k.same s x) :
    k.same s (watchAttn x) := by
  unfold watchAttn
  try dsimp -zeta -proj only [upd_imc]
  repeat' first
    | with_reducible assumption
    | with_reducible refine queueNotify_keeps (not_mem_of_subset hk ?_) ?_
    | with_reducible refine putImc_keeps (not_mem_of_subset hk ?_) ?_
    | with_reducible refine ite_keeps ?_ ?_
    | with_reducible refine foldl_keeps ?_ (fun t a h => ?_)
    | dsimp -proj only
    | split
    | decide

theorem unholdErase_keeps {k : Comp} {s x : State} (hk : k ∉ [.units]) (h : k.same s x) :
    k.same s (unholdErase x) := by
  unfold unholdErase
  try dsimp -zeta -proj only [upd_units]
  repeat' first
    | with_reducible assumption
    | with_reducible refine putUnits_keeps (not_mem_of_subset hk ?_) ?_
    | with_reducible refine ite_keeps ?_ ?_
    | with_reducible refine foldl_keeps ?_ (fun t a h => ?_)
    | dsimp -proj only
    | split
    | decide

theorem fin_keeps {k : Comp} {s x : State} (hk : k ∉ [.evt, .heel, .lanes, .links, .store, .imc, .units, .nvm, .cal, .free]) (h : k.same s x) :
    k.same s (fin x) := by
  unfold fin
  repeat' first
    | with_reducible assumption
    | with_reducible refine restartHeel_keeps (not_mem_of_subset hk ?_) ?_
    | with_reducible refine watchAttn_keeps (not_mem_of_subset hk ?_) ?_
    | with_reducible refine unholdErase_keeps (not_mem_of_subset hk ?_) ?_
    | with_reducible refine ite_keeps ?_ ?_
    | with_reducible refine foldl_keeps ?_ (fun t a h => ?_)
    | dsimp -proj only
    | split
    | decide

theorem done_keeps {k : Comp} {s x : State} (hk : k ∉ [.evt, .heel, .lanes, .links, .store, .imc, .units, .nvm, .cal, .free]) (h : k.same s x) :
    ∃ t, done x = .next t ∧ k.same s t := ⟨fin x, rfl, fin_keeps hk h⟩

theorem setStage_keeps {k : Comp} {s x : State} {a0 a1 a2} (hk : k ∉ [.cal]) (h : k.same s x) :
    k.same s (setStage x a0 a1 a2) := by
  unfold setStage
  try dsimp -zeta -proj only [upd_cal]
  repeat' first
    | with_reducible assumption
    | with_reducible refine putCal_keeps (not_mem_of_subset hk ?_) ?_
    | with_reducible refine ite_keeps ?_ ?_
    | with_reducible refine foldl_keeps ?_ (fun t a h => ?_)
    | dsimp -proj only
    | split
    | decide

theorem stillUnit_keeps {k : Comp} {s x : State} {a0 a1} (hk : k ∉ [.lanes]) (h : k.same s x) :
    k.same s (stillUnit x a0 a1) := by
  unfold stillUnit
  repeat' first
    | with_reducible assumption
    | with_reducible refine modCal_keeps (not_mem_of_subset hk ?_) ?_
    | with_reducible refine ite_keeps ?_ ?_
    | with_reducible refine foldl_keeps ?_ (fun t a h => ?_)
    | dsimp -proj only
    | split
    | decide

theorem sendSpare_keeps {k : Comp} {s x : State} {a0 a1 a2 a3} (hk : k ∉ [.links, .free]) (h : k.same s x) :
    k.same s (sendSpare x a0 a1 a2 a3) := by
  unfold sendSpare
  repeat' first
    | with_reducible assumption
    | with_reducible refine modLink_keeps (not_mem_of_subset hk ?_) ?_
    | with_reducible refine queueMos_keeps (not_mem_of_subset hk ?_) ?_
    | with_reducible refine freshSeq_keeps (not_mem_of_subset hk ?_) ?_
    | with_reducible refine freshSeq_keeps_eq (not_mem_of_subset hk ?_) ?_ (by with_reducible assumption)
    | with_reducible refine ite_keeps ?_ ?_
    | with_reducible refine foldl_keeps ?_ (fun t a h => ?_)
    | dsimp -proj only
    | split
    | decide

theorem setSpare_keeps {k : Comp} {s x : State} {a0 a1 a2 a3} (hk : k ∉ [.links]) (h : k.same s x) :
    k.same s (setSpare x a0 a1 a2 a3) := by
  unfold setSpare
  repeat' first
    | with_reducible assumption
    | with_reducible refine modLink_keeps (not_mem_of_subset hk ?_) ?_
    | with_reducible refine ite_keeps ?_ ?_
    | with_reducible refine foldl_keeps ?_ (fun t a h => ?_)
    | dsimp -proj only
    | split
    | decide

theorem beginSwap_keeps {k : Comp} {s x : State} {a0 a1 a2 a3 a4 a5} (hk : k ∉ [.links, .free]) (h : k.same s x) :
    k.same s (beginSwap x a0 a1 a2 a3 a4 a5) := by
  unfold beginSwap
  repeat' first
    | with_reducible assumption
    | with_reducible refine useFree_keeps (not_mem_of_subset hk ?_) ?_
    | with_reducible refine useFree_keeps_eq (not_mem_of_subset hk ?_) ?_ (by with_reducible assumption)
    | with_reducible refine modLink_keeps (not_mem_of_subset hk ?_) ?_
    | with_reducible refine sendSpare_keeps (not_mem_of_subset hk ?_) ?_
    | with_reducible refine setSpare_keeps (not_mem_of_subset hk ?_) ?_
    | with_reducible refine ite_keeps ?_ ?_
    | with_reducible refine foldl_keeps ?_ (fun t a h => ?_)
    | dsimp -proj only
    | split
    | decide

theorem startRecal_keeps {k : Comp} {s x : State} {a0} (hk : k ∉ [.lanes, .links, .cal, .free]) (h : k.same s x) :
    k.same s (startRecal x a0) := by
  unfold startRecal
  try dsimp -zeta -proj only [upd_cal]
  repeat' first
    | with_reducible assumption
    | with_reducible refine stillUnit_keeps (not_mem_of_subset hk ?_) ?_
    | with_reducible refine beginSwap_keeps (not_mem_of_subset hk ?_) ?_
    | with_reducible refine putCal_keeps (not_mem_of_subset hk ?_) ?_
    | with_reducible refine ite_keeps ?_ ?_
    | with_reducible refine foldl_keeps ?_ (fun t a h => ?_)
    | dsimp -proj only
    | split
    | decide

theorem nextRecal_keeps {k : Comp} {s x : State} (hk : k ∉ [.lanes, .links, .cal, .free]) (h : k.same s x) :
    k.same s (nextRecal x) := by
  unfold nextRecal
  repeat' first
    | with_reducible assumption
    | with_reducible refine startRecal_keeps (not_mem_of_subset hk ?_) ?_
    | with_reducible refine ite_keeps ?_ ?_
    | with_reducible refine foldl_keeps ?_ (fun t a h => ?_)
    | dsimp -proj only
    | split
    | decide

theorem keepUnit_keeps {k : Comp} {s x : State} (hk : k ∉ [.lanes, .free]) (h : k.same s x) :
    k.same s (keepUnit x) := by
  unfold keepUnit
  try dsimp -zeta -proj only [upd_free]
  repeat' first
    | with_reducible assumption
    | with_reducible refine modCal_keeps (not_mem_of_subset hk ?_) ?_
    | with_reducible refine putFree_keeps (not_mem_of_subset hk ?_) ?_
    | with_reducible refine ite_keeps ?_ ?_
    | with_reducible refine foldl_keeps ?_ (fun t a h => ?_)
    | dsimp -proj only
    | split
    | decide

theorem followStandin_keeps {k : Comp} {s x : State} (hk : k ∉ [.lanes, .links, .cal, .free]) (h : k.same s x) :
    k.same s (followStandin x) := by
  unfold followStandin
  repeat' first
    | with_reducible assumption
    | with_reducible refine setStage_keeps (not_mem_of_subset hk ?_) ?_
    | with_reducible refine endRecal_keeps (not_mem_of_subset hk ?_) ?_
    | with_reducible refine nextRecal_keeps (not_mem_of_subset hk ?_) ?_
    | with_reducible refine beginSwap_keeps (not_mem_of_subset hk ?_) ?_
    | with_reducible refine keepUnit_keeps (not_mem_of_subset hk ?_) ?_
    | with_reducible refine ite_keeps ?_ ?_
    | with_reducible refine foldl_keeps ?_ (fun t a h => ?_)
    | dsimp -proj only
    | split
    | decide

theorem modJob_keeps {k : Comp} {s x : State} {a0 a1} (hk : k ∉ [.units]) (h : k.same s x) :
    k.same s (modJob x a0 a1) := by
  unfold modJob
  repeat' first
    | with_reducible assumption
    | with_reducible refine setUnit_keeps (not_mem_of_subset hk ?_) ?_
    | with_reducible refine ite_keeps ?_ ?_
    | with_reducible refine foldl_keeps ?_ (fun t a h => ?_)
    | dsimp -proj only
    | split
    | decide

theorem scanLost_keeps {k : Comp} {s x : State} {a0 a1} (hk : k ∉ [.units]) (h : k.same s x) :
    k.same s (scanLost x a0 a1) := by
  unfold scanLost
  repeat' first
    | with_reducible assumption
    | with_reducible refine modJob_keeps (not_mem_of_subset hk ?_) ?_
    | with_reducible refine ite_keeps ?_ ?_
    | with_reducible refine foldl_keeps ?_ (fun t a h => ?_)
    | dsimp -proj only
    | split
    | decide

theorem dropCdr_keeps {k : Comp} {s x : State} {a0 a1} (hk : k ∉ [.lanes, .units]) (h : k.same s x) :
    k.same s (dropCdr x a0 a1) := by
  unfold dropCdr
  repeat' first
    | with_reducible assumption
    | with_reducible refine modLane_keeps (not_mem_of_subset hk ?_) ?_
    | with_reducible refine scanLost_keeps (not_mem_of_subset hk ?_) ?_
    | with_reducible refine ite_keeps ?_ ?_
    | with_reducible refine foldl_keeps ?_ (fun t a h => ?_)
    | dsimp -proj only
    | split
    | decide

theorem coolRx_keeps {k : Comp} {s x : State} {a0 a1 a2} (hk : k ∉ [.lanes, .units]) (h : k.same s x) :
    k.same s (coolRx x a0 a1 a2) := by
  unfold coolRx
  repeat' first
    | with_reducible assumption
    | with_reducible refine dropCdr_keeps (not_mem_of_subset hk ?_) ?_
    | with_reducible refine ite_keeps ?_ ?_
    | with_reducible refine foldl_keeps ?_ (fun t a h => ?_)
    | dsimp -proj only
    | split
    | decide

theorem openPos_keeps {k : Comp} {s x : State} {a0} (hk : k ∉ [.welt]) (h : k.same s x) :
    k.same s (openPos x a0) := by
  unfold openPos
  try dsimp -zeta -proj only [upd_welt]
  repeat' first
    | with_reducible assumption
    | with_reducible refine putWelt_keeps (not_mem_of_subset hk ?_) ?_
    | with_reducible refine ite_keeps ?_ ?_
    | with_reducible refine foldl_keeps ?_ (fun t a h => ?_)
    | dsimp -proj only
    | split
    | decide

theorem modTx_keeps {k : Comp} {s x : State} {a0 a1 a2} (hk : k ∉ [.lanes]) (h : k.same s x) :
    k.same s (modTx x a0 a1 a2) := by
  unfold modTx
  repeat' first
    | with_reducible assumption
    | with_reducible refine modLane_keeps (not_mem_of_subset hk ?_) ?_
    | with_reducible refine ite_keeps ?_ ?_
    | with_reducible refine foldl_keeps ?_ (fun t a h => ?_)
    | dsimp -proj only
    | split
    | decide

theorem prbsOff_keeps {k : Comp} {s x : State} {a0 a1 a2} (hk : k ∉ [.lanes]) (h : k.same s x) :
    k.same s (prbsOff x a0 a1 a2) := by
  unfold prbsOff
  repeat' first
    | with_reducible assumption
    | with_reducible refine modMeas_keeps (not_mem_of_subset hk ?_) ?_
    | with_reducible refine ite_keeps ?_ ?_
    | with_reducible refine foldl_keeps ?_ (fun t a h => ?_)
    | dsimp -proj only
    | split
    | decide

theorem stopPrbs_keeps {k : Comp} {s x : State} {a0 a1 a2} (hk : k ∉ [.lanes, .units]) (h : k.same s x) :
    k.same s (stopPrbs x a0 a1 a2) := by
  unfold stopPrbs
  try dsimp -zeta -proj only [upd_units]
  repeat' first
    | with_reducible assumption
    | with_reducible refine prbsOff_keeps (not_mem_of_subset hk ?_) ?_
    | with_reducible refine putUnits_keeps (not_mem_of_subset hk ?_) ?_
    | with_reducible refine ite_keeps ?_ ?_
    | with_reducible refine foldl_keeps ?_ (fun t a h => ?_)
    | dsimp -proj only
    | split
    | decide

theorem endTestJob_keeps {k : Comp} {s x : State} {a0 a1} (hk : k ∉ [.lanes, .units]) (h : k.same s x) :
    k.same s (endTestJob x a0 a1) := by
  unfold endTestJob
  repeat' first
    | with_reducible assumption
    | with_reducible refine stopPrbs_keeps (not_mem_of_subset hk ?_) ?_
    | with_reducible refine ite_keeps ?_ ?_
    | with_reducible refine foldl_keeps ?_ (fun t a h => ?_)
    | dsimp -proj only
    | split
    | decide

theorem endTests_keeps {k : Comp} {s x : State} {a0 a1} (hk : k ∉ [.evt, .lanes, .store, .units, .nvm]) (h : k.same s x) :
    k.same s (endTests x a0 a1) := by
  unfold endTests
  repeat' first
    | with_reducible assumption
    | with_reducible refine logL_keeps (not_mem_of_subset hk ?_) ?_
    | with_reducible refine endTestJob_keeps (not_mem_of_subset hk ?_) ?_
    | with_reducible refine modMeas_keeps (not_mem_of_subset hk ?_) ?_
    | with_reducible refine ite_keeps ?_ ?_
    | with_reducible refine foldl_keeps ?_ (fun t a h => ?_)
    | dsimp -proj only
    | split
    | decide

theorem closePos_keeps {k : Comp} {s x : State} {a0} (hk : k ∉ [.welt, .evt, .lanes, .store, .units, .nvm]) (h : k.same s x) :
    k.same s (closePos x a0) := by
  unfold closePos
  try dsimp -zeta -proj only [upd_welt]
  repeat' first
    | with_reducible assumption
    | with_reducible refine modTx_keeps (not_mem_of_subset hk ?_) ?_
    | with_reducible refine modMeas_keeps (not_mem_of_subset hk ?_) ?_
    | with_reducible refine endTests_keeps (not_mem_of_subset hk ?_) ?_
    | with_reducible refine putWelt_keeps (not_mem_of_subset hk ?_) ?_
    | with_reducible refine ite_keeps ?_ ?_
    | with_reducible refine foldl_keeps ?_ (fun t a h => ?_)
    | dsimp -proj only
    | split
    | decide

theorem settlePos_keeps {k : Comp} {s x : State} {a0} (hk : k ∉ [.welt, .evt, .lanes, .store, .units, .nvm]) (h : k.same s x) :
    k.same s (settlePos x a0) := by
  unfold settlePos
  repeat' first
    | with_reducible assumption
    | with_reducible refine openPos_keeps (not_mem_of_subset hk ?_) ?_
    | with_reducible refine closePos_keeps (not_mem_of_subset hk ?_) ?_
    | with_reducible refine ite_keeps ?_ ?_
    | with_reducible refine foldl_keeps ?_ (fun t a h => ?_)
    | dsimp -proj only
    | split
    | decide

theorem settleAll_keeps {k : Comp} {s x : State} (hk : k ∉ [.welt, .evt, .lanes, .store, .units, .nvm]) (h : k.same s x) :
    k.same s (settleAll x) := by
  unfold settleAll
  repeat' first
    | with_reducible assumption
    | with_reducible refine settlePos_keeps (not_mem_of_subset hk ?_) ?_
    | with_reducible refine ite_keeps ?_ ?_
    | with_reducible refine foldl_keeps ?_ (fun t a h => ?_)
    | dsimp -proj only
    | split
    | decide

theorem retarget_keeps {k : Comp} {s x : State} {a0} (hk : k ∉ [.lanes]) (h : k.same s x) :
    k.same s (retarget a0 x) := by
  unfold retarget
  repeat' first
    | with_reducible assumption
    | with_reducible refine modLane_keeps (not_mem_of_subset hk ?_) ?_
    | with_reducible refine ite_keeps ?_ ?_
    | with_reducible refine foldl_keeps ?_ (fun t a h => ?_)
    | dsimp -proj only
    | split
    | decide

theorem leaveSpare_keeps {k : Comp} {s x : State} {a0 a1} (hk : k ∉ [.welt, .evt, .lanes, .links, .last, .store, .units, .nvm]) (h : k.same s x) :
    k.same s (leaveSpare x a0 a1) := by
  unfold leaveSpare
  try dsimp -zeta -proj only [upd_last]
  repeat' first
    | with_reducible assumption
    | with_reducible refine settleAll_keeps (not_mem_of_subset hk ?_) ?_
    | with_reducible refine modLink_keeps (not_mem_of_subset hk ?_) ?_
    | with_reducible refine retarget_keeps (not_mem_of_subset hk ?_) ?_
    | with_reducible refine setSpare_keeps (not_mem_of_subset hk ?_) ?_
    | with_reducible refine putLast_keeps (not_mem_of_subset hk ?_) ?_
    | with_reducible refine ite_keeps ?_ ?_
    | with_reducible refine foldl_keeps ?_ (fun t a h => ?_)
    | dsimp -proj only
    | split
    | decide

theorem restSpare_keeps {k : Comp} {s x : State} {a0 a1 a2} (hk : k ∉ [.welt, .evt, .lanes, .links, .last, .store, .units, .nvm]) (h : k.same s x) :
    k.same s (restSpare x a0 a1 a2) := by
  unfold restSpare
  repeat' first
    | with_reducible assumption
    | with_reducible refine coolRx_keeps (not_mem_of_subset hk ?_) ?_
    | with_reducible refine leaveSpare_keeps (not_mem_of_subset hk ?_) ?_
    | with_reducible refine setSpare_keeps (not_mem_of_subset hk ?_) ?_
    | with_reducible refine ite_keeps ?_ ?_
    | with_reducible refine foldl_keeps ?_ (fun t a h => ?_)
    | dsimp -proj only
    | split
    | decide

theorem logK_keeps {k : Comp} {s x : State} {a0 a1 a2} (hk : k ∉ [.evt, .store, .nvm]) (h : k.same s x) :
    k.same s (logK x a0 a1 a2) := by
  unfold logK
  repeat' first
    | with_reducible assumption
    | with_reducible refine logEvent_keeps (not_mem_of_subset hk ?_) ?_
    | with_reducible refine ite_keeps ?_ ?_
    | with_reducible refine foldl_keeps ?_ (fun t a h => ?_)
    | dsimp -proj only
    | split
    | decide

theorem checkDone_keeps {k : Comp} {s x : State} (hk : k ∉ [.evt, .last, .store, .nvm]) (h : k.same s x) :
    k.same s (checkDone x) := by
  unfold checkDone
  try dsimp -zeta -proj only [upd_last]
  repeat' first
    | with_reducible assumption
    | with_reducible refine logEvent_keeps (not_mem_of_subset hk ?_) ?_
    | with_reducible refine putLast_keeps (not_mem_of_subset hk ?_) ?_
    | with_reducible refine ite_keeps ?_ ?_
    | with_reducible refine foldl_keeps ?_ (fun t a h => ?_)
    | dsimp -proj only
    | split
    | decide

theorem setResult_keeps {k : Comp} {s x : State} {a0 a1} (hk : k ∉ [.evt, .links, .last, .store, .nvm]) (h : k.same s x) :
    k.same s (setResult x a0 a1) := by
  unfold setResult
  try dsimp -zeta -proj only [upd_last]
  repeat' first
    | with_reducible assumption
    | with_reducible refine modLink_keeps (not_mem_of_subset hk ?_) ?_
    | with_reducible refine checkDone_keeps (not_mem_of_subset hk ?_) ?_
    | with_reducible refine putLast_keeps (not_mem_of_subset hk ?_) ?_
    | with_reducible refine ite_keeps ?_ ?_
    | with_reducible refine foldl_keeps ?_ (fun t a h => ?_)
    | dsimp -proj only
    | split
    | decide

theorem refreshSpare_keeps {k : Comp} {s x : State} {a0 a1 a2} (hk : k ∉ [.lanes, .links, .last, .units]) (h : k.same s x) :
    k.same s (refreshSpare a0 x a1 a2) := by
  unfold refreshSpare
  try dsimp -zeta -proj only [upd_last]
  repeat' first
    | with_reducible assumption
    | with_reducible refine coolRx_keeps (not_mem_of_subset hk ?_) ?_
    | with_reducible refine modLink_keeps (not_mem_of_subset hk ?_) ?_
    | with_reducible refine setSpare_keeps (not_mem_of_subset hk ?_) ?_
    | with_reducible refine putLast_keeps (not_mem_of_subset hk ?_) ?_
    | with_reducible refine ite_keeps ?_ ?_
    | with_reducible refine foldl_keeps ?_ (fun t a h => ?_)
    | dsimp -proj only
    | split
    | decide

theorem modRx_keeps {k : Comp} {s x : State} {a0 a1 a2} (hk : k ∉ [.lanes]) (h : k.same s x) :
    k.same s (modRx x a0 a1 a2) := by
  unfold modRx
  repeat' first
    | with_reducible assumption
    | with_reducible refine modLane_keeps (not_mem_of_subset hk ?_) ?_
    | with_reducible refine ite_keeps ?_ ?_
    | with_reducible refine foldl_keeps ?_ (fun t a h => ?_)
    | dsimp -proj only
    | split
    | decide

theorem dropHolds_keeps {k : Comp} {s x : State} {a0 a1} (hk : k ∉ [.lanes]) (h : k.same s x) :
    k.same s (dropHolds x a0 a1) := by
  unfold dropHolds
  repeat' first
    | with_reducible assumption
    | with_reducible refine modRx_keeps (not_mem_of_subset hk ?_) ?_
    | with_reducible refine ite_keeps ?_ ?_
    | with_reducible refine foldl_keeps ?_ (fun t a h => ?_)
    | dsimp -proj only
    | split
    | decide

theorem stepEpoch_keeps {k : Comp} {s x : State} {a0} (hk : k ∉ [.links]) (h : k.same s x) :
    k.same s (stepEpoch x a0) := by
  unfold stepEpoch
  repeat' first
    | with_reducible assumption
    | with_reducible refine modLink_keeps (not_mem_of_subset hk ?_) ?_
    | with_reducible refine ite_keeps ?_ ?_
    | with_reducible refine foldl_keeps ?_ (fun t a h => ?_)
    | dsimp -proj only
    | split
    | decide

theorem moveHold_keeps {k : Comp} {s x : State} {a0 a1 a2} (hk : k ∉ [.lanes]) (h : k.same s x) :
    k.same s (moveHold a0 a1 a2 x) := by
  unfold moveHold
  repeat' first
    | with_reducible assumption
    | with_reducible refine modRx_keeps (not_mem_of_subset hk ?_) ?_
    | with_reducible refine ite_keeps ?_ ?_
    | with_reducible refine foldl_keeps ?_ (fun t a h => ?_)
    | dsimp -proj only
    | split
    | decide

theorem withMasters_keeps {k : Comp} {s x : State} {a0 a1} (hk : k ∉ [.lanes, .links]) (hf : ∀ t, k.same s t → k.same s (a1 t)) (h : k.same s x) :
    k.same s (withMasters x a0 a1) := by
  unfold withMasters
  repeat' first
    | with_reducible assumption
    | with_reducible refine hf _ ?_
    | with_reducible refine moveHold_keeps (not_mem_of_subset hk ?_) ?_
    | with_reducible refine modLink_keeps (not_mem_of_subset hk ?_) ?_
    | with_reducible refine ite_keeps ?_ ?_
    | with_reducible refine foldl_keeps ?_ (fun t a h => ?_)
    | dsimp -proj only
    | split
    | decide

theorem lockPlls_keeps {k : Comp} {s x : State} {a0} (hk : k ∉ [.power, .free]) (h : k.same s x) :
    k.same s (lockPlls x a0) := by
  unfold lockPlls
  try dsimp -zeta -proj only [upd_power]
  repeat' first
    | with_reducible assumption
    | with_reducible refine useFree_keeps (not_mem_of_subset hk ?_) ?_
    | with_reducible refine useFree_keeps_eq (not_mem_of_subset hk ?_) ?_ (by with_reducible assumption)
    | with_reducible refine putPower_keeps (not_mem_of_subset hk ?_) ?_
    | with_reducible refine ite_keeps ?_ ?_
    | with_reducible refine foldl_keeps ?_ (fun t a h => ?_)
    | dsimp -proj only
    | split
    | decide

theorem relockPlls_keeps {k : Comp} {s x : State} {a0} (hk : k ∉ [.power, .free]) (h : k.same s x) :
    k.same s (relockPlls x a0) := by
  unfold relockPlls
  repeat' first
    | with_reducible assumption
    | with_reducible refine lockPlls_keeps (not_mem_of_subset hk ?_) ?_
    | with_reducible refine ite_keeps ?_ ?_
    | with_reducible refine foldl_keeps ?_ (fun t a h => ?_)
    | dsimp -proj only
    | split
    | decide

theorem takeUp_keeps {k : Comp} {s x : State} {a0 a1} (hk : k ∉ [.power, .welt, .evt, .lanes, .links, .last, .store, .units, .nvm, .free]) (h : k.same s x) :
    k.same s (takeUp x a0 a1) := by
  unfold takeUp
  try dsimp -zeta -proj only [upd_last]
  repeat' first
    | with_reducible assumption
    | with_reducible refine settleAll_keeps (not_mem_of_subset hk ?_) ?_
    | with_reducible refine retarget_keeps (not_mem_of_subset hk ?_) ?_
    | with_reducible refine refreshSpare_keeps (not_mem_of_subset hk ?_) ?_
    | with_reducible refine dropHolds_keeps (not_mem_of_subset hk ?_) ?_
    | with_reducible refine stepEpoch_keeps (not_mem_of_subset hk ?_) ?_
    | with_reducible refine withMasters_keeps (not_mem_of_subset hk ?_) (fun t h => ?_) ?_
    | with_reducible refine relockPlls_keeps (not_mem_of_subset hk ?_) ?_
    | with_reducible refine putLast_keeps (not_mem_of_subset hk ?_) ?_
    | with_reducible refine ite_keeps ?_ ?_
    | with_reducible refine foldl_keeps ?_ (fun t a h => ?_)
    | dsimp -proj only
    | split
    | decide

theorem switchLink_keeps {k : Comp} {s x : State} {a0} (hk : k ∉ [.power, .welt, .evt, .lanes, .links, .last, .store, .units, .nvm, .free]) (h : k.same s x) :
    k.same s (switchLink x a0) := by
  unfold switchLink
  repeat' first
    | with_reducible assumption
    | with_reducible refine takeUp_keeps (not_mem_of_subset hk ?_) ?_
    | with_reducible refine ite_keeps ?_ ?_
    | with_reducible refine foldl_keeps ?_ (fun t a h => ?_)
    | dsimp -proj only
    | split
    | decide

theorem switchNow_keeps {k : Comp} {s x : State} {a0} (hk : k ∉ [.power, .welt, .evt, .lanes, .links, .last, .store, .units, .nvm, .free]) (h : k.same s x) :
    k.same s (switchNow x a0) := by
  unfold switchNow
  repeat' first
    | with_reducible assumption
    | with_reducible refine setResult_keeps (not_mem_of_subset hk ?_) ?_
    | with_reducible refine switchLink_keeps (not_mem_of_subset hk ?_) ?_
    | with_reducible refine ite_keeps ?_ ?_
    | with_reducible refine foldl_keeps ?_ (fun t a h => ?_)
    | dsimp -proj only
    | split
    | decide

theorem endPbl_keeps {k : Comp} {s x : State} {a0} (hk : k ∉ [.lanes]) (h : k.same s x) :
    k.same s (endPbl x a0) := by
  unfold endPbl
  repeat' first
    | with_reducible assumption
    | with_reducible refine modMeas_keeps (not_mem_of_subset hk ?_) ?_
    | with_reducible refine ite_keeps ?_ ?_
    | with_reducible refine foldl_keeps ?_ (fun t a h => ?_)
    | dsimp -proj only
    | split
    | decide

theorem dropSwap_keeps {k : Comp} {s x : State} {a0 a1} (hk : k ∉ [.links]) (h : k.same s x) :
    k.same s (dropSwap x a0 a1) := by
  unfold dropSwap
  repeat' first
    | with_reducible assumption
    | with_reducible refine modLink_keeps (not_mem_of_subset hk ?_) ?_
    | with_reducible refine ite_keeps ?_ ?_
    | with_reducible refine foldl_keeps ?_ (fun t a h => ?_)
    | dsimp -proj only
    | split
    | decide

theorem endSwaps_keeps {k : Comp} {s x : State} {a0} (hk : k ∉ [.welt, .evt, .lanes, .links, .last, .store, .units, .nvm, .cal]) (h : k.same s x) :
    k.same s (endSwaps x a0) := by
  unfold endSwaps
  repeat' first
    | with_reducible assumption
    | with_reducible refine restSpare_keeps (not_mem_of_subset hk ?_) ?_
    | with_reducible refine modLink_keeps (not_mem_of_subset hk ?_) ?_
    | with_reducible refine abortRecal_keeps (not_mem_of_subset hk ?_) ?_
    | with_reducible refine dropSwap_keeps (not_mem_of_subset hk ?_) ?_
    | with_reducible refine ite_keeps ?_ ?_
    | with_reducible refine foldl_keeps ?_ (fun t a h => ?_)
    | dsimp -proj only
    | split
    | decide

theorem endSearches_keeps {k : Comp} {s x : State} {a0} (hk : k ∉ [.lanes]) (h : k.same s x) :
    k.same s (endSearches x a0) := by
  unfold endSearches
  repeat' first
    | with_reducible assumption
    | with_reducible refine modLane_keeps (not_mem_of_subset hk ?_) ?_
    | with_reducible refine ite_keeps ?_ ?_
    | with_reducible refine foldl_keeps ?_ (fun t a h => ?_)
    | dsimp -proj only
    | split
    | decide

theorem dropMos_keeps {k : Comp} {s x : State} {a0 a1} (hk : k ∉ [.links]) (h : k.same s x) :
    k.same s (dropMos x a0 a1) := by
  unfold dropMos
  repeat' first
    | with_reducible assumption
    | with_reducible refine modLink_keeps (not_mem_of_subset hk ?_) ?_
    | with_reducible refine ite_keeps ?_ ?_
    | with_reducible refine foldl_keeps ?_ (fun t a h => ?_)
    | dsimp -proj only
    | split
    | decide

theorem allReset_keeps {k : Comp} {s x : State} {a0} (hk : k ∉ [.links]) (h : k.same s x) :
    k.same s (allReset x a0) := by
  unfold allReset
  repeat' first
    | with_reducible assumption
    | with_reducible refine modLink_keeps (not_mem_of_subset hk ?_) ?_
    | with_reducible refine ite_keeps ?_ ?_
    | with_reducible refine foldl_keeps ?_ (fun t a h => ?_)
    | dsimp -proj only
    | split
    | decide

theorem leaveDisabled_keeps {k : Comp} {s x : State} {a0} (hk : k ∉ [.evt, .lanes, .store, .units, .nvm]) (h : k.same s x) :
    k.same s (leaveDisabled x a0) := by
  unfold leaveDisabled
  repeat' first
    | with_reducible assumption
    | with_reducible refine endTests_keeps (not_mem_of_subset hk ?_) ?_
    | with_reducible refine ite_keeps ?_ ?_
    | with_reducible refine foldl_keeps ?_ (fun t a h => ?_)
    | dsimp -proj only
    | split
    | decide

theorem dropLink_keeps {k : Comp} {s x : State} {a0} (hk : k ∉ [.welt, .evt, .lanes, .links, .last, .store, .units, .nvm, .cal]) (h : k.same s x) :
    k.same s (dropLink x a0) := by
  unfold dropLink
  repeat' first
    | with_reducible assumption
    | with_reducible refine modLink_keeps (not_mem_of_subset hk ?_) ?_
    | with_reducible refine endPbl_keeps (not_mem_of_subset hk ?_) ?_
    | with_reducible refine endSwaps_keeps (not_mem_of_subset hk ?_) ?_
    | with_reducible refine endSearches_keeps (not_mem_of_subset hk ?_) ?_
    | with_reducible refine dropMos_keeps (not_mem_of_subset hk ?_) ?_
    | with_reducible refine allReset_keeps (not_mem_of_subset hk ?_) ?_
    | with_reducible refine leaveDisabled_keeps (not_mem_of_subset hk ?_) ?_
    | with_reducible refine withMasters_keeps (not_mem_of_subset hk ?_) (fun t h => ?_) ?_
    | with_reducible refine ite_keeps ?_ ?_
    | with_reducible refine foldl_keeps ?_ (fun t a h => ?_)
    | dsimp -proj only
    | split
    | decide

theorem standAside_keeps {k : Comp} {s x : State} {a0} (hk : k ∉ [.power, .welt, .evt, .lanes, .links, .last, .store, .units, .nvm, .cal, .free]) (h : k.same s x) :
    k.same s (standAside x a0) := by
  unfold standAside
  repeat' first
    | with_reducible assumption
    | with_reducible refine switchNow_keeps (not_mem_of_subset hk ?_) ?_
    | with_reducible refine settleAll_keeps (not_mem_of_subset hk ?_) ?_
    | with_reducible refine modLink_keeps (not_mem_of_subset hk ?_) ?_
    | with_reducible refine dropLink_keeps (not_mem_of_subset hk ?_) ?_
    | with_reducible refine ite_keeps ?_ ?_
    | with_reducible refine foldl_keeps ?_ (fun t a h => ?_)
    | dsimp -proj only
    | split
    | decide

theorem partAside_keeps {k : Comp} {s x : State} {a0 a1} (hk : k ∉ [.power, .welt, .evt, .lanes, .links, .last, .store, .units, .nvm, .cal, .free]) (h : k.same s x) :
    k.same s (partAside x a0 a1) := by
  unfold partAside
  repeat' first
    | with_reducible assumption
    | with_reducible refine settleAll_keeps (not_mem_of_subset hk ?_) ?_
    | with_reducible refine modLink_keeps (not_mem_of_subset hk ?_) ?_
    | with_reducible refine logK_keeps (not_mem_of_subset hk ?_) ?_
    | with_reducible refine standAside_keeps (not_mem_of_subset hk ?_) ?_
    | with_reducible refine ite_keeps ?_ ?_
    | with_reducible refine foldl_keeps ?_ (fun t a h => ?_)
    | dsimp -proj only
    | split
    | decide

theorem setUnrecovered_keeps {k : Comp} {s x : State} {a0 a1} (hk : k ∉ [.evt, .links, .store, .nvm]) (h : k.same s x) :
    k.same s (setUnrecovered x a0 a1) := by
  unfold setUnrecovered
  repeat' first
    | with_reducible assumption
    | with_reducible refine modLink_keeps (not_mem_of_subset hk ?_) ?_
    | with_reducible refine logK_keeps (not_mem_of_subset hk ?_) ?_
    | with_reducible refine ite_keeps ?_ ?_
    | with_reducible refine foldl_keeps ?_ (fun t a h => ?_)
    | dsimp -proj only
    | split
    | decide

theorem lossDown_keeps {k : Comp} {s x : State} {a0} (hk : k ∉ [.power, .welt, .evt, .lanes, .links, .last, .store, .units, .nvm, .cal, .free]) (h : k.same s x) :
    k.same s (lossDown x a0) := by
  unfold lossDown
  repeat' first
    | with_reducible assumption
    | with_reducible refine modLink_keeps (not_mem_of_subset hk ?_) ?_
    | with_reducible refine logK_keeps (not_mem_of_subset hk ?_) ?_
    | with_reducible refine partAside_keeps (not_mem_of_subset hk ?_) ?_
    | with_reducible refine setUnrecovered_keeps (not_mem_of_subset hk ?_) ?_
    | with_reducible refine ite_keeps ?_ ?_
    | with_reducible refine foldl_keeps ?_ (fun t a h => ?_)
    | dsimp -proj only
    | split
    | decide

theorem abandonSwap_keeps {k : Comp} {s x : State} {a0} (hk : k ∉ [.welt, .evt, .lanes, .links, .last, .store, .units, .nvm]) (h : k.same s x) :
    k.same s (abandonSwap x a0) := by
  unfold abandonSwap
  repeat' first
    | with_reducible assumption
    | with_reducible refine restSpare_keeps (not_mem_of_subset hk ?_) ?_
    | with_reducible refine dropSwap_keeps (not_mem_of_subset hk ?_) ?_
    | with_reducible refine setSpare_keeps (not_mem_of_subset hk ?_) ?_
    | with_reducible refine ite_keeps ?_ ?_
    | with_reducible refine foldl_keeps ?_ (fun t a h => ?_)
    | dsimp -proj only
    | split
    | decide

theorem enterRetrain_keeps {k : Comp} {s x : State} {a0} (hk : k ∉ [.power, .welt, .evt, .lanes, .links, .last, .store, .units, .nvm, .free]) (h : k.same s x) :
    k.same s (enterRetrain x a0) := by
  unfold enterRetrain
  repeat' first
    | with_reducible assumption
    | with_reducible refine setResult_keeps (not_mem_of_subset hk ?_) ?_
    | with_reducible refine abandonSwap_keeps (not_mem_of_subset hk ?_) ?_
    | with_reducible refine modLink_keeps (not_mem_of_subset hk ?_) ?_
    | with_reducible refine endPbl_keeps (not_mem_of_subset hk ?_) ?_
    | with_reducible refine dropMos_keeps (not_mem_of_subset hk ?_) ?_
    | with_reducible refine switchLink_keeps (not_mem_of_subset hk ?_) ?_
    | with_reducible refine ite_keeps ?_ ?_
    | with_reducible refine foldl_keeps ?_ (fun t a h => ?_)
    | dsimp -proj only
    | split
    | decide

theorem requestRetrain_keeps {k : Comp} {s x : State} {a0} (hk : k ∉ [.power, .welt, .evt, .lanes, .links, .last, .store, .units, .nvm, .free]) (h : k.same s x) :
    k.same s (requestRetrain x a0) := by
  unfold requestRetrain
  repeat' first
    | with_reducible assumption
    | with_reducible refine modLink_keeps (not_mem_of_subset hk ?_) ?_
    | with_reducible refine enterRetrain_keeps (not_mem_of_subset hk ?_) ?_
    | with_reducible refine sendOwn_keeps (not_mem_of_subset hk ?_) ?_
    | with_reducible refine ite_keeps ?_ ?_
    | with_reducible refine foldl_keeps ?_ (fun t a h => ?_)
    | dsimp -proj only
    | split
    | decide

theorem lossDegrade_keeps {k : Comp} {s x : State} {a0} (hk : k ∉ [.power, .welt, .evt, .lanes, .links, .last, .store, .units, .nvm, .cal, .free]) (h : k.same s x) :
    k.same s (lossDegrade x a0) := by
  unfold lossDegrade
  repeat' first
    | with_reducible assumption
    | with_reducible refine modLink_keeps (not_mem_of_subset hk ?_) ?_
    | with_reducible refine lossDown_keeps (not_mem_of_subset hk ?_) ?_
    | with_reducible refine requestRetrain_keeps (not_mem_of_subset hk ?_) ?_
    | with_reducible refine ite_keeps ?_ ?_
    | with_reducible refine foldl_keeps ?_ (fun t a h => ?_)
    | dsimp -proj only
    | split
    | decide

theorem logLane_keeps {k : Comp} {s x : State} {a0 a1 a2 a3 a4} (hk : k ∉ [.evt, .store, .nvm]) (h : k.same s x) :
    k.same s (logLane x a0 a1 a2 a3 a4) := by
  unfold logLane
  repeat' first
    | with_reducible assumption
    | with_reducible refine logEvent_keeps (not_mem_of_subset hk ?_) ?_
    | with_reducible refine ite_keeps ?_ ?_
    | with_reducible refine foldl_keeps ?_ (fun t a h => ?_)
    | dsimp -proj only
    | split
    | decide

theorem spareFallback_keeps {k : Comp} {s x : State} {a0 a1 a2} (hk : k ∉ [.power, .welt, .evt, .lanes, .links, .last, .store, .units, .nvm, .cal, .free]) (h : k.same s x) :
    k.same s (spareFallback x a0 a1 a2) := by
  unfold spareFallback
  repeat' first
    | with_reducible assumption
    | with_reducible refine lossDegrade_keeps (not_mem_of_subset hk ?_) ?_
    | with_reducible refine logLane_keeps (not_mem_of_subset hk ?_) ?_
    | with_reducible refine ite_keeps ?_ ?_
    | with_reducible refine foldl_keeps ?_ (fun t a h => ?_)
    | dsimp -proj only
    | split
    | decide

theorem vacate_keeps {k : Comp} {s x : State} {a0 a1} (hk : k ∉ [.lanes]) (h : k.same s x) :
    k.same s (vacate x a0 a1) := by
  unfold vacate
  repeat' first
    | with_reducible assumption
    | with_reducible refine modTx_keeps (not_mem_of_subset hk ?_) ?_
    | with_reducible refine ite_keeps ?_ ?_
    | with_reducible refine foldl_keeps ?_ (fun t a h => ?_)
    | dsimp -proj only
    | split
    | decide

theorem setSwapResult_keeps {k : Comp} {s x : State} {a0 a1} (hk : k ∉ [.links]) (h : k.same s x) :
    k.same s (setSwapResult x a0 a1) := by
  unfold setSwapResult
  repeat' first
    | with_reducible assumption
    | with_reducible refine modLink_keeps (not_mem_of_subset hk ?_) ?_
    | with_reducible refine ite_keeps ?_ ?_
    | with_reducible refine foldl_keeps ?_ (fun t a h => ?_)
    | dsimp -proj only
    | split
    | decide

theorem lossSpare_keeps {k : Comp} {s x : State} {a0 a1 a2} (hk : k ∉ [.power, .welt, .evt, .lanes, .links, .last, .store, .units, .nvm, .cal, .free]) (h : k.same s x) :
    k.same s (lossSpare x a0 a1 a2) := by
  unfold lossSpare
  repeat' first
    | with_reducible assumption
    | with_reducible refine stopRecal_keeps (not_mem_of_subset hk ?_) ?_
    | with_reducible refine spareFallback_keeps (not_mem_of_subset hk ?_) ?_
    | with_reducible refine modLink_keeps (not_mem_of_subset hk ?_) ?_
    | with_reducible refine setSwapResult_keeps (not_mem_of_subset hk ?_) ?_
    | with_reducible refine beginSwap_keeps (not_mem_of_subset hk ?_) ?_
    | with_reducible refine ite_keeps ?_ ?_
    | with_reducible refine foldl_keeps ?_ (fun t a h => ?_)
    | dsimp -proj only
    | split
    | decide

theorem serveWaiting_keeps {k : Comp} {s x : State} {a0} (hk : k ∉ [.power, .welt, .evt, .lanes, .links, .last, .store, .units, .nvm, .cal, .free]) (h : k.same s x) :
    k.same s (serveWaiting x a0) := by
  unfold serveWaiting
  repeat' first
    | with_reducible assumption
    | with_reducible refine modLink_keeps (not_mem_of_subset hk ?_) ?_
    | with_reducible refine lossSpare_keeps (not_mem_of_subset hk ?_) ?_
    | with_reducible refine ite_keeps ?_ ?_
    | with_reducible refine foldl_keeps ?_ (fun t a h => ?_)
    | dsimp -proj only
    | split
    | decide

theorem giveUp_keeps {k : Comp} {s x : State} {a0 a1} (hk : k ∉ [.links, .free]) (h : k.same s x) :
    k.same s (giveUp x a0 a1) := by
  unfold giveUp
  repeat' first
    | with_reducible assumption
    | with_reducible refine modLink_keeps (not_mem_of_subset hk ?_) ?_
    | with_reducible refine joinOut_keeps (not_mem_of_subset hk ?_) ?_
    | with_reducible refine freshSeq_keeps (not_mem_of_subset hk ?_) ?_
    | with_reducible refine freshSeq_keeps_eq (not_mem_of_subset hk ?_) ?_ (by with_reducible assumption)
    | with_reducible refine ite_keeps ?_ ?_
    | with_reducible refine foldl_keeps ?_ (fun t a h => ?_)
    | dsimp -proj only
    | split
    | decide

theorem logSwap_keeps {k : Comp} {s x : State} {a0 a1 a2 a3} (hk : k ∉ [.evt, .store, .nvm]) (h : k.same s x) :
    k.same s (logSwap x a0 a1 a2 a3) := by
  unfold logSwap
  repeat' first
    | with_reducible assumption
    | with_reducible refine logLane_keeps (not_mem_of_subset hk ?_) ?_
    | with_reducible refine ite_keeps ?_ ?_
    | with_reducible refine foldl_keeps ?_ (fun t a h => ?_)
    | dsimp -proj only
    | split
    | decide

theorem failSwap_keeps {k : Comp} {s x : State} {a0 a1 a2 a3} (hk : k ∉ [.power, .welt, .evt, .lanes, .links, .last, .store, .units, .nvm, .cal, .free]) (h : k.same s x) :
    k.same s (failSwap x a0 a1 a2 a3) := by
  unfold failSwap
  try dsimp -zeta -proj only [upd_cal]
  repeat' first
    | with_reducible assumption
    | with_reducible refine restSpare_keeps (not_mem_of_subset hk ?_) ?_
    | with_reducible refine spareFallback_keeps (not_mem_of_subset hk ?_) ?_
    | with_reducible refine vacate_keeps (not_mem_of_subset hk ?_) ?_
    | with_reducible refine modLink_keeps (not_mem_of_subset hk ?_) ?_
    | with_reducible refine serveWaiting_keeps (not_mem_of_subset hk ?_) ?_
    | with_reducible refine leaveSpare_keeps (not_mem_of_subset hk ?_) ?_
    | with_reducible refine setSwapResult_keeps (not_mem_of_subset hk ?_) ?_
    | with_reducible refine giveUp_keeps (not_mem_of_subset hk ?_) ?_
    | with_reducible refine sendSpare_keeps (not_mem_of_subset hk ?_) ?_
    | with_reducible refine logSwap_keeps (not_mem_of_subset hk ?_) ?_
    | with_reducible refine setSpare_keeps (not_mem_of_subset hk ?_) ?_
    | with_reducible refine putCal_keeps (not_mem_of_subset hk ?_) ?_
    | with_reducible refine ite_keeps ?_ ?_
    | with_reducible refine foldl_keeps ?_ (fun t a h => ?_)
    | dsimp -proj only
    | split
    | decide

theorem execSwapTimeout_keeps {k : Comp} {s x : State} {a0} (hk : k ∉ [.power, .welt, .evt, .heel, .lanes, .links, .last, .store, .imc, .units, .nvm, .cal, .free]) (h : k.same s x) :
    ∃ t, execSwapTimeout a0 x = .next t ∧ k.same s t := by
  unfold execSwapTimeout
  repeat' first
    | with_reducible assumption
    | with_reducible refine done_keeps (not_mem_of_subset hk ?_) ?_
    | with_reducible refine followStandin_keeps (not_mem_of_subset hk ?_) ?_
    | with_reducible refine failSwap_keeps (not_mem_of_subset hk ?_) ?_
    | with_reducible refine ite_keeps ?_ ?_
    | with_reducible refine foldl_keeps ?_ (fun t a h => ?_)
    | dsimp -proj only
    | split
    | decide

theorem forceLink_keeps {k : Comp} {s x : State} {a0} (hk : k ∉ [.power, .welt, .evt, .lanes, .links, .last, .store, .units, .nvm, .cal, .free]) (h : k.same s x) :
    k.same s (forceLink x a0) := by
  unfold forceLink
  repeat' first
    | with_reducible assumption
    | with_reducible refine switchNow_keeps (not_mem_of_subset hk ?_) ?_
    | with_reducible refine setResult_keeps (not_mem_of_subset hk ?_) ?_
    | with_reducible refine modLink_keeps (not_mem_of_subset hk ?_) ?_
    | with_reducible refine dropLink_keeps (not_mem_of_subset hk ?_) ?_
    | with_reducible refine ite_keeps ?_ ?_
    | with_reducible refine foldl_keeps ?_ (fun t a h => ?_)
    | dsimp -proj only
    | split
    | decide

theorem startState_keeps {k : Comp} {s x : State} {a0} (hk : k ∉ [.links]) (h : k.same s x) :
    k.same s (startState x a0) := by
  unfold startState
  repeat' first
    | with_reducible assumption
    | with_reducible refine modLink_keeps (not_mem_of_subset hk ?_) ?_
    | with_reducible refine ite_keeps ?_ ?_
    | with_reducible refine foldl_keeps ?_ (fun t a h => ?_)
    | dsimp -proj only
    | split
    | decide

theorem restartLink_keeps {k : Comp} {s x : State} {a0} (hk : k ∉ [.links]) (h : k.same s x) :
    k.same s (restartLink x a0) := by
  unfold restartLink
  repeat' first
    | with_reducible assumption
    | with_reducible refine startState_keeps (not_mem_of_subset hk ?_) ?_
    | with_reducible refine modLink_keeps (not_mem_of_subset hk ?_) ?_
    | with_reducible refine ite_keeps ?_ ?_
    | with_reducible refine foldl_keeps ?_ (fun t a h => ?_)
    | dsimp -proj only
    | split
    | decide

theorem settle_keeps {k : Comp} {s x : State} (hk : k ∉ [.power, .welt, .evt, .lanes, .links, .last, .store, .units, .nvm, .cal, .free]) (h : k.same s x) :
    k.same s (settle x) := by
  unfold settle
  repeat' first
    | with_reducible assumption
    | with_reducible refine settleAll_keeps (not_mem_of_subset hk ?_) ?_
    | with_reducible refine forceLink_keeps (not_mem_of_subset hk ?_) ?_
    | with_reducible refine restartLink_keeps (not_mem_of_subset hk ?_) ?_
    | with_reducible refine ite_keeps ?_ ?_
    | with_reducible refine foldl_keeps ?_ (fun t a h => ?_)
    | dsimp -proj only
    | split
    | decide

theorem enterShutdown_keeps {k : Comp} {s x : State} {a0} (hk : k ∉ [.power, .welt, .therm, .evt, .lanes, .links, .last, .store, .units, .nvm, .cal, .free]) (h : k.same s x) :
    k.same s (enterShutdown x a0) := by
  unfold enterShutdown
  try dsimp -zeta -proj only [upd_therm]
  repeat' first
    | with_reducible assumption
    | with_reducible refine logEvent_keeps (not_mem_of_subset hk ?_) ?_
    | with_reducible refine settle_keeps (not_mem_of_subset hk ?_) ?_
    | with_reducible refine putTherm_keeps (not_mem_of_subset hk ?_) ?_
    | with_reducible refine ite_keeps ?_ ?_
    | with_reducible refine foldl_keeps ?_ (fun t a h => ?_)
    | dsimp -proj only
    | split
    | decide

theorem logIslandOff_keeps {k : Comp} {s x : State} {a0 a1} (hk : k ∉ [.evt, .store, .nvm]) (h : k.same s x) :
    k.same s (logIslandOff x a0 a1) := by
  unfold logIslandOff
  repeat' first
    | with_reducible assumption
    | with_reducible refine logEvent_keeps (not_mem_of_subset hk ?_) ?_
    | with_reducible refine ite_keeps ?_ ?_
    | with_reducible refine foldl_keeps ?_ (fun t a h => ?_)
    | dsimp -proj only
    | split
    | decide

theorem finishWith_keeps {k : Comp} {s x : State} {a0 a1 a2 a3} (hk : k ∉ [.units]) (h : k.same s x) :
    k.same s (finishWith x a0 a1 a2 a3) := by
  unfold finishWith
  repeat' first
    | with_reducible assumption
    | with_reducible refine setUnit_keeps (not_mem_of_subset hk ?_) ?_
    | with_reducible refine ite_keeps ?_ ?_
    | with_reducible refine foldl_keeps ?_ (fun t a h => ?_)
    | dsimp -proj only
    | split
    | decide

theorem keepJob_keeps {k : Comp} {s x : State} {a0 a1} (hk : k ∉ [.units]) (h : k.same s x) :
    k.same s (keepJob x a0 a1) := by
  unfold keepJob
  repeat' first
    | with_reducible assumption
    | with_reducible refine setUnit_keeps (not_mem_of_subset hk ?_) ?_
    | with_reducible refine ite_keeps ?_ ?_
    | with_reducible refine foldl_keeps ?_ (fun t a h => ?_)
    | dsimp -proj only
    | split
    | decide

theorem sendStart_keeps {k : Comp} {s x : State} {a0} (hk : k ∉ [.links, .units]) (h : k.same s x) :
    k.same s (sendStart x a0) := by
  unfold sendStart
  repeat' first
    | with_reducible assumption
    | with_reducible refine finishWith_keeps (not_mem_of_subset hk ?_) ?_
    | with_reducible refine keepJob_keeps (not_mem_of_subset hk ?_) ?_
    | with_reducible refine joinOut_keeps (not_mem_of_subset hk ?_) ?_
    | with_reducible refine ite_keeps ?_ ?_
    | with_reducible refine foldl_keeps ?_ (fun t a h => ?_)
    | dsimp -proj only
    | split
    | decide

theorem clearImccnt_keeps {k : Comp} {s x : State} {a0} (hk : k ∉ [.imc]) (h : k.same s x) :
    k.same s (clearImccnt x a0) := by
  unfold clearImccnt
  try dsimp -zeta -proj only [upd_imc]
  repeat' first
    | with_reducible assumption
    | with_reducible refine putImc_keeps (not_mem_of_subset hk ?_) ?_
    | with_reducible refine ite_keeps ?_ ?_
    | with_reducible refine foldl_keeps ?_ (fun t a h => ?_)
    | dsimp -proj only
    | split
    | decide

theorem readEffect_keeps {k : Comp} {s x : State} {a0} (hk : k ∉ [.imc, .tm]) (h : k.same s x) :
    k.same s (readEffect x a0) := by
  unfold readEffect
  try dsimp -zeta -proj only [upd_tm]
  repeat' first
    | with_reducible assumption
    | with_reducible refine clearImccnt_keeps (not_mem_of_subset hk ?_) ?_
    | with_reducible refine putTm_keeps (not_mem_of_subset hk ?_) ?_
    | with_reducible refine ite_keeps ?_ ?_
    | with_reducible refine foldl_keeps ?_ (fun t a h => ?_)
    | dsimp -proj only
    | split
    | decide

theorem logDenied_keeps {k : Comp} {s x : State} {a0 a1} (hk : k ∉ [.evt, .store, .twb, .nvm]) (h : k.same s x) :
    k.same s (logDenied x a0 a1) := by
  unfold logDenied
  try dsimp -zeta -proj only [upd_twb]
  repeat' first
    | with_reducible assumption
    | with_reducible refine logEvent_keeps (not_mem_of_subset hk ?_) ?_
    | with_reducible refine putTwb_keeps (not_mem_of_subset hk ?_) ?_
    | with_reducible refine ite_keeps ?_ ?_
    | with_reducible refine foldl_keeps ?_ (fun t a h => ?_)
    | dsimp -proj only
    | split
    | decide

theorem markBegun_keeps {k : Comp} {s x : State} {a0} (hk : k ∉ [.nvm]) (h : k.same s x) :
    k.same s (markBegun x a0) := by
  unfold markBegun
  try dsimp -zeta -proj only [upd_nvm]
  repeat' first
    | with_reducible assumption
    | with_reducible refine putNvm_keeps (not_mem_of_subset hk ?_) ?_
    | with_reducible refine ite_keeps ?_ ?_
    | with_reducible refine foldl_keeps ?_ (fun t a h => ?_)
    | dsimp -proj only
    | split
    | decide

theorem logPut_keeps {k : Comp} {s x : State} {a0 a1 a2 a3} (hk : k ∉ [.nvm]) (h : k.same s x) :
    k.same s (logPut x a0 a1 a2 a3) := by
  unfold logPut
  try dsimp -zeta -proj only [upd_nvm]
  repeat' first
    | with_reducible assumption
    | with_reducible refine putNvm_keeps (not_mem_of_subset hk ?_) ?_
    | with_reducible refine ite_keeps ?_ ?_
    | with_reducible refine foldl_keeps ?_ (fun t a h => ?_)
    | dsimp -proj only
    | split
    | decide

theorem writeMarks_keeps {k : Comp} {s x : State} {a0} (hk : k ∉ [.nvm]) (h : k.same s x) :
    k.same s (writeMarks a0 x) := by
  induction a0 generalizing x with
  | zero => exact h
  | succ n ih =>
    unfold writeMarks
    split
    · exact h
    · exact ih (logPut_keeps (not_mem_of_subset hk (by decide)) (putNvm_keeps (not_mem_of_subset hk (by decide)) h))

theorem rotateLog_keeps {k : Comp} {s x : State} (hk : k ∉ [.nvm]) (h : k.same s x) :
    k.same s (rotateLog x) := by
  unfold rotateLog
  try dsimp -zeta -proj only [upd_nvm]
  repeat' first
    | with_reducible assumption
    | with_reducible refine writeMarks_keeps (not_mem_of_subset hk ?_) ?_
    | with_reducible refine putNvm_keeps (not_mem_of_subset hk ?_) ?_
    | with_reducible refine ite_keeps ?_ ?_
    | with_reducible refine foldl_keeps ?_ (fun t a h => ?_)
    | dsimp -proj only
    | split
    | decide

theorem writeLog_keeps {k : Comp} {s x : State} {a0 a1 a2 a3} (hk : k ∉ [.nvm]) (h : k.same s x) :
    k.same s (writeLog x a0 a1 a2 a3) := by
  unfold writeLog
  repeat' first
    | with_reducible assumption
    | with_reducible refine logPut_keeps (not_mem_of_subset hk ?_) ?_
    | with_reducible refine rotateLog_keeps (not_mem_of_subset hk ?_) ?_
    | with_reducible refine ite_keeps ?_ ?_
    | with_reducible refine foldl_keeps ?_ (fun t a h => ?_)
    | dsimp -proj only
    | split
    | decide

theorem beginErase_keeps {k : Comp} {s x : State} {a0} (hk : k ∉ [.nvm]) (h : k.same s x) :
    k.same s (beginErase x a0) := by
  unfold beginErase
  repeat' first
    | with_reducible assumption
    | with_reducible refine markBegun_keeps (not_mem_of_subset hk ?_) ?_
    | with_reducible refine writeLog_keeps (not_mem_of_subset hk ?_) ?_
    | with_reducible refine ite_keeps ?_ ?_
    | with_reducible refine foldl_keeps ?_ (fun t a h => ?_)
    | dsimp -proj only
    | split
    | decide

theorem eraseSetUp_keeps {k : Comp} {s x : State} {a0} (hk : k ∉ [.units, .nvm]) (h : k.same s x) :
    k.same s (eraseSetUp x a0) := by
  unfold eraseSetUp
  repeat' first
    | with_reducible assumption
    | with_reducible refine finishWith_keeps (not_mem_of_subset hk ?_) ?_
    | with_reducible refine keepJob_keeps (not_mem_of_subset hk ?_) ?_
    | with_reducible refine beginErase_keeps (not_mem_of_subset hk ?_) ?_
    | with_reducible refine ite_keeps ?_ ?_
    | with_reducible refine foldl_keeps ?_ (fun t a h => ?_)
    | dsimp -proj only
    | split
    | decide

theorem channelValid_keeps {k : Comp} {s x : State} {a0 a1} (hk : k ∉ [.evt, .store, .nvm, .tm]) (h : k.same s x) :
    k.same s (channelValid x a0 a1) := by
  unfold channelValid
  try dsimp -zeta -proj only [upd_tm]
  repeat' first
    | with_reducible assumption
    | with_reducible refine logEvent_keeps (not_mem_of_subset hk ?_) ?_
    | with_reducible refine putTm_keeps (not_mem_of_subset hk ?_) ?_
    | with_reducible refine ite_keeps ?_ ?_
    | with_reducible refine foldl_keeps ?_ (fun t a h => ?_)
    | dsimp -proj only
    | split
    | decide

theorem loadTime_keeps {k : Comp} {s x : State} (hk : k ∉ [.evt, .store, .nvm, .time]) (h : k.same s x) :
    k.same s (loadTime x) := by
  unfold loadTime
  try dsimp -zeta -proj only [upd_time]
  repeat' first
    | with_reducible assumption
    | with_reducible refine logEvent_keeps (not_mem_of_subset hk ?_) ?_
    | with_reducible refine putTime_keeps (not_mem_of_subset hk ?_) ?_
    | with_reducible refine ite_keeps ?_ ?_
    | with_reducible refine foldl_keeps ?_ (fun t a h => ?_)
    | dsimp -proj only
    | split
    | decide

theorem edgeLoad_keeps {k : Comp} {s x : State} (hk : k ∉ [.evt, .store, .nvm, .time]) (h : k.same s x) :
    k.same s (edgeLoad x) := by
  have ht : ∀ {y v}, k.same s y → k.same s (y.putTime v) := fun g => putTime_keeps (not_mem_of_subset hk (by decide)) g
  unfold edgeLoad
  exact ite_keeps (ht h) (ht (loadTime_keeps (not_mem_of_subset hk (by decide)) (ht h)))

theorem execSkipAbsent_keeps {k : Comp} {s x : State} {a0} (hk : k ∉ [.power, .welt, .evt, .heel, .lanes, .links, .last, .store, .imc, .units, .nvm, .cal, .free]) (h : k.same s x) :
    ∃ t, execSkipAbsent a0 x = .next t ∧ k.same s t := by
  unfold execSkipAbsent
  repeat' first
    | with_reducible assumption
    | with_reducible refine done_keeps (not_mem_of_subset hk ?_) ?_
    | with_reducible refine setResult_keeps (not_mem_of_subset hk ?_) ?_
    | with_reducible refine logK_keeps (not_mem_of_subset hk ?_) ?_
    | with_reducible refine switchLink_keeps (not_mem_of_subset hk ?_) ?_
    | with_reducible refine ite_keeps ?_ ?_
    | with_reducible refine foldl_keeps ?_ (fun t a h => ?_)
    | dsimp -proj only
    | split
    | decide

theorem keepRead_keeps {k : Comp} {s : State} {a0} {r : Word × State} (hk : k ∉ [.acc]) (h : k.same s r.2) :
    k.same s (keepRead a0 r) := by
  unfold keepRead
  dsimp -zeta -proj only [upd_acc]
  exact putAcc_keeps hk h

theorem stepCe_keeps {k : Comp} {s x : State} (hk : k ∉ [.nvm]) (h : k.same s x) :
    k.same s (stepCe x) := by
  unfold stepCe
  try dsimp -zeta -proj only [upd_nvm]
  repeat' first
    | with_reducible assumption
    | with_reducible refine putNvm_keeps (not_mem_of_subset hk ?_) ?_
    | with_reducible refine ite_keeps ?_ ?_
    | with_reducible refine foldl_keeps ?_ (fun t a h => ?_)
    | dsimp -proj only
    | split
    | decide

theorem readUnit_keeps {k : Comp} {s x : State} {a0} (hk : k ∉ [.nvm, .free]) (h : k.same s x) :
    k.same s (readUnit x a0).2.2 := by
  unfold readUnit
  try dsimp -zeta -proj only [upd_nvm]
  repeat' first
    | with_reducible assumption
    | with_reducible refine stepCe_keeps (not_mem_of_subset hk ?_) ?_
    | with_reducible refine useFree_keeps (not_mem_of_subset hk ?_) ?_
    | with_reducible refine useFree_keeps_eq (not_mem_of_subset hk ?_) ?_ (by with_reducible assumption)
    | with_reducible refine putNvm_keeps (not_mem_of_subset hk ?_) ?_
    | with_reducible refine ite_keeps ?_ ?_
    | with_reducible refine foldl_keeps ?_ (fun t a h => ?_)
    | dsimp -proj only
    | split
    | decide

theorem readUnit_keeps_eq {k : Comp} {s x : State} {a0} {r q u} (hk : k ∉ [.nvm, .free]) (h : k.same s x) (e : readUnit x a0 = (r, q, u)) :
    k.same s u := by
  simpa only [e] using readUnit_keeps (s := s) (x := x) (a0 := a0) hk h

theorem nvmWindow_keeps {k : Comp} {s x : State} {a0} (hk : k ∉ [.evt, .store, .nvm, .free]) (h : k.same s x) :
    k.same s (nvmWindow x a0).2 := by
  unfold nvmWindow
  try dsimp -zeta -proj only [upd_nvm]
  repeat' first
    | with_reducible assumption
    | with_reducible refine logEvent_keeps (not_mem_of_subset hk ?_) ?_
    | with_reducible refine readUnit_keeps (not_mem_of_subset hk ?_) ?_
    | with_reducible refine readUnit_keeps_eq (not_mem_of_subset hk ?_) ?_ (by with_reducible assumption)
    | with_reducible refine putNvm_keeps (not_mem_of_subset hk ?_) ?_
    | with_reducible refine ite_keeps ?_ ?_
    | with_reducible refine foldl_keeps ?_ (fun t a h => ?_)
    | dsimp -proj only
    | split
    | decide

theorem nvmWindow_keeps_eq {k : Comp} {s x : State} {a0} {r u} (hk : k ∉ [.evt, .store, .nvm, .free]) (h : k.same s x) (e : nvmWindow x a0 = (r, u)) :
    k.same s u := by
  simpa only [e] using nvmWindow_keeps (s := s) (x := x) (a0 := a0) hk h

theorem latchTime_keeps {k : Comp} {s x : State} {a0 a1} (hk : k ∉ [.acc]) (h : k.same s x) :
    k.same s (latchTime x a0 a1) := by
  unfold latchTime
  try dsimp -zeta -proj only [upd_acc]
  repeat' first
    | with_reducible assumption
    | with_reducible refine putAcc_keeps (not_mem_of_subset hk ?_) ?_
    | with_reducible refine ite_keeps ?_ ?_
    | with_reducible refine foldl_keeps ?_ (fun t a h => ?_)
    | dsimp -proj only
    | split
    | decide

theorem readReg_keeps {k : Comp} {s x : State} {a0 a1} (hk : k ∉ [.imc, .acc, .tm]) (h : k.same s x) :
    k.same s (readReg x a0 a1).2 := by
  unfold readReg
  repeat' first
    | with_reducible assumption
    | with_reducible refine latchTime_keeps (not_mem_of_subset hk ?_) ?_
    | with_reducible refine readEffect_keeps (not_mem_of_subset hk ?_) ?_
    | with_reducible refine ite_keeps ?_ ?_
    | with_reducible refine foldl_keeps ?_ (fun t a h => ?_)
    | dsimp -proj only
    | split
    | decide

theorem readReg_keeps_eq {k : Comp} {s x : State} {a0 a1} {r u} (hk : k ∉ [.imc, .acc, .tm]) (h : k.same s x) (e : readReg x a0 a1 = (r, u)) :
    k.same s u := by
  simpa only [e] using readReg_keeps (s := s) (x := x) (a0 := a0) (a1 := a1) hk h

theorem poisonLine_keeps {k : Comp} {s x : State} {a0} (hk : k ∉ [.evt, .heel, .store, .nvm]) (h : k.same s x) :
    k.same s (poisonLine x a0) := by
  unfold poisonLine
  try dsimp -zeta -proj only [upd_evt_heel, upd_store]
  repeat' first
    | with_reducible assumption
    | with_reducible refine logEvent_keeps (not_mem_of_subset hk ?_) ?_
    | with_reducible refine putEvt_keeps (not_mem_of_subset hk ?_) ?_
    | with_reducible refine putHeel_keeps (not_mem_of_subset hk ?_) ?_
    | with_reducible refine putStore_keeps (not_mem_of_subset hk ?_) ?_
    | with_reducible refine ite_keeps ?_ ?_
    | with_reducible refine foldl_keeps ?_ (fun t a h => ?_)
    | dsimp -proj only
    | split
    | decide

theorem countCe_keeps {k : Comp} {s x : State} (hk : k ∉ [.evt, .store, .nvm]) (h : k.same s x) :
    k.same s (countCe x) := by
  unfold countCe
  try dsimp -zeta -proj only [upd_store]
  repeat' first
    | with_reducible assumption
    | with_reducible refine logEvent_keeps (not_mem_of_subset hk ?_) ?_
    | with_reducible refine putStore_keeps (not_mem_of_subset hk ?_) ?_
    | with_reducible refine ite_keeps ?_ ?_
    | with_reducible refine foldl_keeps ?_ (fun t a h => ?_)
    | dsimp -proj only
    | split
    | decide

theorem eccRead_keeps {k : Comp} {s x : State} {a0 a1} (hk : k ∉ [.evt, .heel, .store, .nvm]) (h : k.same s x) :
    k.same s (eccRead x a0 a1) := by
  unfold eccRead
  try dsimp -zeta -proj only [upd_store]
  repeat' first
    | with_reducible assumption
    | with_reducible refine poisonLine_keeps (not_mem_of_subset hk ?_) ?_
    | with_reducible refine countCe_keeps (not_mem_of_subset hk ?_) ?_
    | with_reducible refine putStore_keeps (not_mem_of_subset hk ?_) ?_
    | with_reducible refine ite_keeps ?_ ?_
    | with_reducible refine foldl_keeps ?_ (fun t a h => ?_)
    | dsimp -proj only
    | split
    | decide

theorem latchErr_keeps {k : Comp} {s x : State} {a0 a1 a2 a3 a4} (hk : k ∉ [.win]) (h : k.same s x) :
    k.same s (latchErr x a0 a1 a2 a3 a4) := by
  unfold latchErr
  try dsimp -zeta -proj only [upd_win]
  repeat' first
    | with_reducible assumption
    | with_reducible refine putWin_keeps (not_mem_of_subset hk ?_) ?_
    | with_reducible refine ite_keeps ?_ ?_
    | with_reducible refine foldl_keeps ?_ (fun t a h => ?_)
    | dsimp -proj only
    | split
    | decide

theorem storeReadPa_keeps {k : Comp} {s x : State} {a0 a1 a2 a3} (hk : k ∉ [.evt, .heel, .store, .win, .nvm]) (h : k.same s x) :
    k.same s (storeReadPa x a0 a1 a2 a3).2 := by
  unfold storeReadPa
  repeat' first
    | with_reducible assumption
    | with_reducible refine logEvent_keeps (not_mem_of_subset hk ?_) ?_
    | with_reducible refine eccRead_keeps (not_mem_of_subset hk ?_) ?_
    | with_reducible refine latchErr_keeps (not_mem_of_subset hk ?_) ?_
    | with_reducible refine ite_keeps ?_ ?_
    | with_reducible refine foldl_keeps ?_ (fun t a h => ?_)
    | dsimp -proj only
    | split
    | decide

theorem storeReadPa_keeps_eq {k : Comp} {s x : State} {a0 a1 a2 a3} {r u} (hk : k ∉ [.evt, .heel, .store, .win, .nvm]) (h : k.same s x) (e : storeReadPa x a0 a1 a2 a3 = (r, u)) :
    k.same s u := by
  simpa only [e] using storeReadPa_keeps (s := s) (x := x) (a0 := a0) (a1 := a1) (a2 := a2) (a3 := a3) hk h

theorem winFault_keeps {k : Comp} {s x : State} {a0 a1 a2 a3 a4} (hk : k ∉ [.evt, .store, .win, .nvm]) (h : k.same s x) :
    k.same s (winFault x a0 a1 a2 a3 a4) := by
  unfold winFault
  repeat' first
    | with_reducible assumption
    | with_reducible refine logEvent_keeps (not_mem_of_subset hk ?_) ?_
    | with_reducible refine latchErr_keeps (not_mem_of_subset hk ?_) ?_
    | with_reducible refine ite_keeps ?_ ?_
    | with_reducible refine foldl_keeps ?_ (fun t a h => ?_)
    | dsimp -proj only
    | split
    | decide

theorem storeReadVa_keeps {k : Comp} {s x : State} {a0 a1} (hk : k ∉ [.evt, .heel, .store, .win, .nvm]) (h : k.same s x) :
    k.same s (storeReadVa x a0 a1).2 := by
  unfold storeReadVa
  repeat' first
    | with_reducible assumption
    | with_reducible refine storeReadPa_keeps (not_mem_of_subset hk ?_) ?_
    | with_reducible refine storeReadPa_keeps_eq (not_mem_of_subset hk ?_) ?_ (by with_reducible assumption)
    | with_reducible refine winFault_keeps (not_mem_of_subset hk ?_) ?_
    | with_reducible refine ite_keeps ?_ ?_
    | with_reducible refine foldl_keeps ?_ (fun t a h => ?_)
    | dsimp -proj only
    | split
    | decide

theorem storeReadVa_keeps_eq {k : Comp} {s x : State} {a0 a1} {r u} (hk : k ∉ [.evt, .heel, .store, .win, .nvm]) (h : k.same s x) (e : storeReadVa x a0 a1 = (r, u)) :
    k.same s u := by
  simpa only [e] using storeReadVa_keeps (s := s) (x := x) (a0 := a0) (a1 := a1) hk h

theorem readOpen_keeps {k : Comp} {s x : State} {a0 a1} (hk : k ∉ [.evt, .heel, .store, .win, .imc, .acc, .nvm, .tm, .free]) (h : k.same s x) :
    k.same s (readOpen x a0 a1).2 := by
  unfold readOpen
  repeat' first
    | with_reducible assumption
    | with_reducible refine logIslandOff_keeps (not_mem_of_subset hk ?_) ?_
    | with_reducible refine nvmWindow_keeps (not_mem_of_subset hk ?_) ?_
    | with_reducible refine nvmWindow_keeps_eq (not_mem_of_subset hk ?_) ?_ (by with_reducible assumption)
    | with_reducible refine readReg_keeps (not_mem_of_subset hk ?_) ?_
    | with_reducible refine readReg_keeps_eq (not_mem_of_subset hk ?_) ?_ (by with_reducible assumption)
    | with_reducible refine storeReadVa_keeps (not_mem_of_subset hk ?_) ?_
    | with_reducible refine storeReadVa_keeps_eq (not_mem_of_subset hk ?_) ?_ (by with_reducible assumption)
    | with_reducible refine storeReadPa_keeps (not_mem_of_subset hk ?_) ?_
    | with_reducible refine storeReadPa_keeps_eq (not_mem_of_subset hk ?_) ?_ (by with_reducible assumption)
    | with_reducible refine ite_keeps ?_ ?_
    | with_reducible refine foldl_keeps ?_ (fun t a h => ?_)
    | dsimp -proj only
    | split
    | decide

theorem readOpen_keeps_eq {k : Comp} {s x : State} {a0 a1} {r u} (hk : k ∉ [.evt, .heel, .store, .win, .imc, .acc, .nvm, .tm, .free]) (h : k.same s x) (e : readOpen x a0 a1 = (r, u)) :
    k.same s u := by
  simpa only [e] using readOpen_keeps (s := s) (x := x) (a0 := a0) (a1 := a1) hk h

theorem accessRead_keeps {k : Comp} {s x : State} {a0 a1} (hk : k ∉ [.evt, .heel, .store, .win, .twb, .imc, .acc, .nvm, .tm, .free]) (h : k.same s x) :
    k.same s (accessRead x a0 a1).2 := by
  unfold accessRead
  repeat' first
    | with_reducible assumption
    | with_reducible refine readOpen_keeps (not_mem_of_subset hk ?_) ?_
    | with_reducible refine readOpen_keeps_eq (not_mem_of_subset hk ?_) ?_ (by with_reducible assumption)
    | with_reducible refine logDenied_keeps (not_mem_of_subset hk ?_) ?_
    | with_reducible refine ite_keeps ?_ ?_
    | with_reducible refine foldl_keeps ?_ (fun t a h => ?_)
    | dsimp -proj only
    | split
    | decide

theorem accessRead_keeps_eq {k : Comp} {s x : State} {a0 a1} {r u} (hk : k ∉ [.evt, .heel, .store, .win, .twb, .imc, .acc, .nvm, .tm, .free]) (h : k.same s x) (e : accessRead x a0 a1 = (r, u)) :
    k.same s u := by
  simpa only [e] using accessRead_keeps (s := s) (x := x) (a0 := a0) (a1 := a1) hk h

theorem busRead_keeps {k : Comp} {s x : State} {a0 a1} (hk : k ∉ [.evt, .heel, .store, .win, .twb, .imc, .acc, .nvm, .tm, .free]) (h : k.same s x) :
    k.same s (busRead x a0 a1) := by
  unfold busRead
  repeat' first
    | with_reducible assumption
    | with_reducible refine keepRead_keeps (not_mem_of_subset hk ?_) ?_
    | with_reducible refine accessRead_keeps (not_mem_of_subset hk ?_) ?_
    | with_reducible refine accessRead_keeps_eq (not_mem_of_subset hk ?_) ?_ (by with_reducible assumption)
    | with_reducible refine ite_keeps ?_ ?_
    | with_reducible refine foldl_keeps ?_ (fun t a h => ?_)
    | dsimp -proj only
    | split
    | decide

theorem execDtimeLoRead_keeps {k : Comp} {s x : State} {a0} (hk : k ∉ [.evt, .heel, .lanes, .links, .store, .win, .twb, .imc, .acc, .units, .nvm, .tm, .cal, .free]) (h : k.same s x) :
    ∃ t, execDtimeLoRead a0 x = .next t ∧ k.same s t := by
  unfold execDtimeLoRead
  repeat' first
    | with_reducible assumption
    | with_reducible refine done_keeps (not_mem_of_subset hk ?_) ?_
    | with_reducible refine busRead_keeps (not_mem_of_subset hk ?_) ?_
    | with_reducible refine ite_keeps ?_ ?_
    | with_reducible refine foldl_keeps ?_ (fun t a h => ?_)
    | dsimp -proj only
    | split
    | decide

theorem setWinEntry_keeps {k : Comp} {s x : State} {a0 a1 a2} (hk : k ∉ [.win]) (h : k.same s x) :
    k.same s (setWinEntry x a0 a1 a2) := by
  unfold setWinEntry
  try dsimp -zeta -proj only [upd_win]
  repeat' first
    | with_reducible assumption
    | with_reducible refine putWin_keeps (not_mem_of_subset hk ?_) ?_
    | with_reducible refine ite_keeps ?_ ?_
    | with_reducible refine foldl_keeps ?_ (fun t a h => ?_)
    | dsimp -proj only
    | split
    | decide

theorem unlockEntry_keeps {k : Comp} {s x : State} {a0 a1} (hk : k ∉ [.win]) (h : k.same s x) :
    k.same s (unlockEntry x a0 a1) := by
  unfold unlockEntry
  repeat' first
    | with_reducible assumption
    | with_reducible refine setWinEntry_keeps (not_mem_of_subset hk ?_) ?_
    | with_reducible refine ite_keeps ?_ ?_
    | with_reducible refine foldl_keeps ?_ (fun t a h => ?_)
    | dsimp -proj only
    | split
    | decide

theorem modWq_keeps {k : Comp} {s x : State} {a0 a1} (hk : k ∉ [.wqs]) (h : k.same s x) :
    k.same s (modWq x a0 a1) := by
  unfold modWq
  try dsimp -zeta -proj only [upd_wqs]
  repeat' first
    | with_reducible assumption
    | with_reducible refine putWqs_keeps (not_mem_of_subset hk ?_) ?_
    | with_reducible refine ite_keeps ?_ ?_
    | with_reducible refine foldl_keeps ?_ (fun t a h => ?_)
    | dsimp -proj only
    | split
    | decide

theorem holdRecord_keeps {k : Comp} {s x : State} {a0} (hk : k ∉ [.wqs]) (h : k.same s x) :
    k.same s (holdRecord x a0) := by
  unfold holdRecord
  repeat' first
    | with_reducible assumption
    | with_reducible refine modWq_keeps (not_mem_of_subset hk ?_) ?_
    | with_reducible refine ite_keeps ?_ ?_
    | with_reducible refine foldl_keeps ?_ (fun t a h => ?_)
    | dsimp -proj only
    | split
    | decide

theorem blockCq_keeps {k : Comp} {s x : State} {a0} (hk : k ∉ [.wqs]) (h : k.same s x) :
    k.same s (blockCq x a0) := by
  unfold blockCq
  repeat' first
    | with_reducible assumption
    | with_reducible refine modWq_keeps (not_mem_of_subset hk ?_) ?_
    | with_reducible refine ite_keeps ?_ ?_
    | with_reducible refine foldl_keeps ?_ (fun t a h => ?_)
    | dsimp -proj only
    | split
    | decide

theorem mergeRead_keeps {k : Comp} {s x : State} {a0 a1} (hk : k ∉ [.evt, .heel, .store, .nvm]) (h : k.same s x) :
    k.same s (mergeRead x a0 a1) := by
  unfold mergeRead
  repeat' first
    | with_reducible assumption
    | with_reducible refine eccRead_keeps (not_mem_of_subset hk ?_) ?_
    | with_reducible refine ite_keeps ?_ ?_
    | with_reducible refine foldl_keeps ?_ (fun t a h => ?_)
    | dsimp -proj only
    | split
    | decide

theorem storeWriteLine_keeps {k : Comp} {s x : State} {a0 a1} (hk : k ∉ [.evt, .heel, .store, .nvm]) (h : k.same s x) :
    k.same s (storeWriteLine x a0 a1) := by
  unfold storeWriteLine
  try dsimp -zeta -proj only [upd_store]
  repeat' first
    | with_reducible assumption
    | with_reducible refine logEvent_keeps (not_mem_of_subset hk ?_) ?_
    | with_reducible refine mergeRead_keeps (not_mem_of_subset hk ?_) ?_
    | with_reducible refine putStore_keeps (not_mem_of_subset hk ?_) ?_
    | with_reducible refine ite_keeps ?_ ?_
    | with_reducible refine foldl_keeps ?_ (fun t a h => ?_)
    | dsimp -proj only
    | split
    | decide

theorem storeWrite_keeps {k : Comp} {s x : State} {a0 a1} (hk : k ∉ [.evt, .heel, .store, .nvm]) (h : k.same s x) :
    k.same s (storeWrite x a0 a1) := by
  unfold storeWrite
  repeat' first
    | with_reducible assumption
    | with_reducible refine storeWriteLine_keeps (not_mem_of_subset hk ?_) ?_
    | with_reducible refine ite_keeps ?_ ?_
    | with_reducible refine foldl_keeps ?_ (fun t a h => ?_)
    | dsimp -proj only
    | split
    | decide

theorem latchJob_keeps {k : Comp} {s x : State} {a0 a1 a2 a3} (hk : k ∉ [.win]) (h : k.same s x) :
    k.same s (latchJob x a0 a1 a2 a3) := by
  unfold latchJob
  repeat' first
    | with_reducible assumption
    | with_reducible refine latchErr_keeps (not_mem_of_subset hk ?_) ?_
    | with_reducible refine ite_keeps ?_ ?_
    | with_reducible refine foldl_keeps ?_ (fun t a h => ?_)
    | dsimp -proj only
    | split
    | decide

theorem modCq_keeps {k : Comp} {s x : State} {a0 a1} (hk : k ∉ [.cqs]) (h : k.same s x) :
    k.same s (modCq x a0 a1) := by
  unfold modCq
  try dsimp -zeta -proj only [upd_cqs]
  repeat' first
    | with_reducible assumption
    | with_reducible refine putCqs_keeps (not_mem_of_subset hk ?_) ?_
    | with_reducible refine ite_keeps ?_ ?_
    | with_reducible refine foldl_keeps ?_ (fun t a h => ?_)
    | dsimp -proj only
    | split
    | decide

theorem cqError_keeps {k : Comp} {s x : State} {a0 a1 a2} (hk : k ∉ [.evt, .store, .wqs, .cqs, .nvm]) (h : k.same s x) :
    k.same s (cqError x a0 a1 a2) := by
  unfold cqError
  repeat' first
    | with_reducible assumption
    | with_reducible refine logEvent_keeps (not_mem_of_subset hk ?_) ?_
    | with_reducible refine holdRecord_keeps (not_mem_of_subset hk ?_) ?_
    | with_reducible refine blockCq_keeps (not_mem_of_subset hk ?_) ?_
    | with_reducible refine modCq_keeps (not_mem_of_subset hk ?_) ?_
    | with_reducible refine ite_keeps ?_ ?_
    | with_reducible refine foldl_keeps ?_ (fun t a h => ?_)
    | dsimp -proj only
    | split
    | decide

theorem ringWrite_keeps {k : Comp} {s x : State} {a0 a1} (hk : k ∉ [.evt, .heel, .store, .win, .wqs, .cqs, .nvm]) (h : k.same s x) :
    k.same s (ringWrite x a0 a1).2 := by
  unfold ringWrite
  repeat' first
    | with_reducible assumption
    | with_reducible refine storeWrite_keeps (not_mem_of_subset hk ?_) ?_
    | with_reducible refine latchJob_keeps (not_mem_of_subset hk ?_) ?_
    | with_reducible refine cqError_keeps (not_mem_of_subset hk ?_) ?_
    | with_reducible refine modCq_keeps (not_mem_of_subset hk ?_) ?_
    | with_reducible refine ite_keeps ?_ ?_
    | with_reducible refine foldl_keeps ?_ (fun t a h => ?_)
    | dsimp -proj only
    | split
    | decide

theorem ringWrite_keeps_eq {k : Comp} {s x : State} {a0 a1} {r u} (hk : k ∉ [.evt, .heel, .store, .win, .wqs, .cqs, .nvm]) (h : k.same s x) (e : ringWrite x a0 a1 = (r, u)) :
    k.same s u := by
  simpa only [e] using ringWrite_keeps (s := s) (x := x) (a0 := a0) (a1 := a1) hk h

theorem flushDue_keeps {k : Comp} {s x : State} {a0 a1} (hk : k ∉ [.evt, .heel, .store, .win, .wqs, .cqs, .nvm]) (h : k.same s x) :
    k.same s (flushDue a0 x a1) := by
  induction a0 generalizing x with
  | zero => exact h
  | succ n ih =>
    unfold flushDue
    split
    · exact h
    · split
      · exact ih (ringWrite_keeps_eq (not_mem_of_subset hk (by decide)) (modCq_keeps (not_mem_of_subset hk (by decide)) h) (by assumption))
      · exact ringWrite_keeps_eq (not_mem_of_subset hk (by decide)) (modCq_keeps (not_mem_of_subset hk (by decide)) h) (by assumption)

theorem pushDue_keeps {k : Comp} {s x : State} {a0 a1} (hk : k ∉ [.evt, .heel, .store, .win, .wqs, .cqs, .nvm]) (h : k.same s x) :
    k.same s (pushDue x a0 a1) := by
  unfold pushDue
  repeat' first
    | with_reducible assumption
    | with_reducible refine holdRecord_keeps (not_mem_of_subset hk ?_) ?_
    | with_reducible refine blockCq_keeps (not_mem_of_subset hk ?_) ?_
    | with_reducible refine flushDue_keeps (not_mem_of_subset hk ?_) ?_
    | with_reducible refine cqError_keeps (not_mem_of_subset hk ?_) ?_
    | with_reducible refine modCq_keeps (not_mem_of_subset hk ?_) ?_
    | with_reducible refine ite_keeps ?_ ?_
    | with_reducible refine foldl_keeps ?_ (fun t a h => ?_)
    | dsimp -proj only
    | split
    | decide

theorem takeSlot_keeps {k : Comp} {s x : State} {a0 a1 a2 a3 a4} (hk : k ∉ [.slots, .sched]) (h : k.same s x) :
    k.same s (takeSlot x a0 a1 a2 a3 a4) := by
  unfold takeSlot
  try dsimp -zeta -proj only [upd_slots_sched]
  repeat' first
    | with_reducible assumption
    | with_reducible refine putSlots_keeps (not_mem_of_subset hk ?_) ?_
    | with_reducible refine putSched_keeps (not_mem_of_subset hk ?_) ?_
    | with_reducible refine ite_keeps ?_ ?_
    | with_reducible refine foldl_keeps ?_ (fun t a h => ?_)
    | dsimp -proj only
    | split
    | decide

theorem dropStaging_keeps {k : Comp} {s x : State} {a0} (hk : k ∉ [.last]) (h : k.same s x) :
    k.same s (dropStaging x a0) := by
  unfold dropStaging
  try dsimp -zeta -proj only [upd_last]
  repeat' first
    | with_reducible assumption
    | with_reducible refine putLast_keeps (not_mem_of_subset hk ?_) ?_
    | with_reducible refine ite_keeps ?_ ?_
    | with_reducible refine foldl_keeps ?_ (fun t a h => ?_)
    | dsimp -proj only
    | split
    | decide

theorem closeBatch_keeps {k : Comp} {s x : State} {a0 a1} (hk : k ∉ [.evt, .heel, .store, .win, .wqs, .cqs, .nvm]) (h : k.same s x) :
    k.same s (closeBatch x a0 a1) := by
  unfold closeBatch
  repeat' first
    | with_reducible assumption
    | with_reducible refine modWq_keeps (not_mem_of_subset hk ?_) ?_
    | with_reducible refine pushDue_keeps (not_mem_of_subset hk ?_) ?_
    | with_reducible refine ite_keeps ?_ ?_
    | with_reducible refine foldl_keeps ?_ (fun t a h => ?_)
    | dsimp -proj only
    | split
    | decide

theorem endEntry_keeps {k : Comp} {s x : State} {a0 a1 a2 a3} (hk : k ∉ [.evt, .heel, .store, .win, .wqs, .cqs, .nvm]) (h : k.same s x) :
    k.same s (endEntry x a0 a1 a2 a3) := by
  unfold endEntry
  repeat' first
    | with_reducible assumption
    | with_reducible refine modWq_keeps (not_mem_of_subset hk ?_) ?_
    | with_reducible refine pushDue_keeps (not_mem_of_subset hk ?_) ?_
    | with_reducible refine closeBatch_keeps (not_mem_of_subset hk ?_) ?_
    | with_reducible refine ite_keeps ?_ ?_
    | with_reducible refine foldl_keeps ?_ (fun t a h => ?_)
    | dsimp -proj only
    | split
    | decide

theorem parkIn_keeps {k : Comp} {s x : State} {a0 a1 a2 a3 a4 a5 a6} (hk : k ∉ [.evt, .heel, .last, .store, .win, .wqs, .cqs, .slots, .sched, .nvm]) (h : k.same s x) :
    k.same s (parkIn x a0 a1 a2 a3 a4 a5 a6) := by
  unfold parkIn
  repeat' first
    | with_reducible assumption
    | with_reducible refine unlockEntry_keeps (not_mem_of_subset hk ?_) ?_
    | with_reducible refine logEvent_keeps (not_mem_of_subset hk ?_) ?_
    | with_reducible refine pushDue_keeps (not_mem_of_subset hk ?_) ?_
    | with_reducible refine takeSlot_keeps (not_mem_of_subset hk ?_) ?_
    | with_reducible refine dropStaging_keeps (not_mem_of_subset hk ?_) ?_
    | with_reducible refine latchJob_keeps (not_mem_of_subset hk ?_) ?_
    | with_reducible refine endEntry_keeps (not_mem_of_subset hk ?_) ?_
    | with_reducible refine ite_keeps ?_ ?_
    | with_reducible refine foldl_keeps ?_ (fun t a h => ?_)
    | dsimp -proj only
    | split
    | decide

theorem noteFence_keeps {k : Comp} {s x : State} {a0} (hk : k ∉ [.wqs]) (h : k.same s x) :
    k.same s (noteFence x a0) := by
  unfold noteFence
  repeat' first
    | with_reducible assumption
    | with_reducible refine modWq_keeps (not_mem_of_subset hk ?_) ?_
    | with_reducible refine ite_keeps ?_ ?_
    | with_reducible refine foldl_keeps ?_ (fun t a h => ?_)
    | dsimp -proj only
    | split
    | decide

theorem faultJob_keeps {k : Comp} {s x : State} {a0 a1 a2 a3 a4} (hk : k ∉ [.evt, .heel, .last, .store, .win, .wqs, .cqs, .units, .slots, .sched, .nvm]) (h : k.same s x) :
    k.same s (faultJob x a0 a1 a2 a3 a4) := by
  unfold faultJob
  repeat' first
    | with_reducible assumption
    | with_reducible refine setUnit_keeps (not_mem_of_subset hk ?_) ?_
    | with_reducible refine parkIn_keeps (not_mem_of_subset hk ?_) ?_
    | with_reducible refine ite_keeps ?_ ?_
    | with_reducible refine foldl_keeps ?_ (fun t a h => ?_)
    | dsimp -proj only
    | split
    | decide

theorem modLast_keeps {k : Comp} {s x : State} {a0} (hk : k ∉ [.last]) (h : k.same s x) :
    k.same s (modLast x a0) := by
  unfold modLast
  try dsimp -zeta -proj only [upd_last]
  repeat' first
    | with_reducible assumption
    | with_reducible refine putLast_keeps (not_mem_of_subset hk ?_) ?_
    | with_reducible refine ite_keeps ?_ ?_
    | with_reducible refine foldl_keeps ?_ (fun t a h => ?_)
    | dsimp -proj only
    | split
    | decide

theorem stageImage_keeps {k : Comp} {s x : State} {a0 a1} (hk : k ∉ [.last]) (h : k.same s x) :
    k.same s (stageImage x a0 a1).2 := by
  unfold stageImage
  repeat' first
    | with_reducible assumption
    | with_reducible refine modLast_keeps (not_mem_of_subset hk ?_) ?_
    | with_reducible refine ite_keeps ?_ ?_
    | with_reducible refine foldl_keeps ?_ (fun t a h => ?_)
    | dsimp -proj only
    | split
    | decide

theorem stageImage_keeps_eq {k : Comp} {s x : State} {a0 a1} {r u} (hk : k ∉ [.last]) (h : k.same s x) (e : stageImage x a0 a1 = (r, u)) :
    k.same s u := by
  simpa only [e] using stageImage_keeps (s := s) (x := x) (a0 := a0) (a1 := a1) hk h

theorem stageEnd_keeps {k : Comp} {s x : State} {a0} (hk : k ∉ [.last]) (h : k.same s x) :
    k.same s (stageEnd x a0).2 := by
  unfold stageEnd
  repeat' first
    | with_reducible assumption
    | with_reducible refine stageImage_keeps (not_mem_of_subset hk ?_) ?_
    | with_reducible refine stageImage_keeps_eq (not_mem_of_subset hk ?_) ?_ (by with_reducible assumption)
    | with_reducible refine ite_keeps ?_ ?_
    | with_reducible refine foldl_keeps ?_ (fun t a h => ?_)
    | dsimp -proj only
    | split
    | decide

theorem stageEnd_keeps_eq {k : Comp} {s x : State} {a0} {r u} (hk : k ∉ [.last]) (h : k.same s x) (e : stageEnd x a0 = (r, u)) :
    k.same s u := by
  simpa only [e] using stageEnd_keeps (s := s) (x := x) (a0 := a0) hk h

theorem readPage_keeps {k : Comp} {s x : State} {a0 a1 a2 a3} (hk : k ∉ [.evt, .heel, .store, .nvm]) (h : k.same s x) :
    k.same s (readPage x a0 a1 a2 a3).2 := by
  unfold readPage
  repeat' first
    | with_reducible assumption
    | with_reducible refine eccRead_keeps (not_mem_of_subset hk ?_) ?_
    | with_reducible refine ite_keeps ?_ ?_
    | with_reducible refine foldl_keeps ?_ (fun t a h => ?_)
    | dsimp -proj only
    | split
    | decide

theorem readPage_keeps_eq {k : Comp} {s x : State} {a0 a1 a2 a3} {r u} (hk : k ∉ [.evt, .heel, .store, .nvm]) (h : k.same s x) (e : readPage x a0 a1 a2 a3 = (r, u)) :
    k.same s u := by
  simpa only [e] using readPage_keeps (s := s) (x := x) (a0 := a0) (a1 := a1) (a2 := a2) (a3 := a3) hk h

theorem readCuts_keeps {k : Comp} {s x : State} {a0 a1 a2} (hk : k ∉ [.evt, .heel, .store, .nvm]) (h : k.same s x) :
    k.same s (readCuts a0 a1 x a2).2 := by
  induction a2 generalizing x with
  | nil => exact h
  | cons p r ih =>
    obtain ⟨va, n⟩ := p
    unfold readCuts
    split
    · exact readPage_keeps_eq (not_mem_of_subset hk (by decide)) h (by assumption)
    · rename_i b t e
      have g : k.same s t := readPage_keeps_eq (not_mem_of_subset hk (by decide)) h e
      have i := ih (x := t) g
      split <;> (rename_i e'; rw [e'] at i; exact i)

theorem readCuts_keeps_eq {k : Comp} {s x : State} {a0 a1 a2} {r u} (hk : k ∉ [.evt, .heel, .store, .nvm]) (h : k.same s x) (e : readCuts a0 a1 x a2 = (r, u)) :
    k.same s u := by
  simpa only [e] using readCuts_keeps (s := s) (x := x) (a0 := a0) (a1 := a1) (a2 := a2) hk h

theorem jobRead_keeps {k : Comp} {s x : State} {a0 a1 a2 a3} (hk : k ∉ [.evt, .heel, .store, .nvm]) (h : k.same s x) :
    k.same s (jobRead x a0 a1 a2 a3).2 := by
  unfold jobRead
  repeat' first
    | with_reducible assumption
    | with_reducible refine readCuts_keeps (not_mem_of_subset hk ?_) ?_
    | with_reducible refine readCuts_keeps_eq (not_mem_of_subset hk ?_) ?_ (by with_reducible assumption)
    | with_reducible refine ite_keeps ?_ ?_
    | with_reducible refine foldl_keeps ?_ (fun t a h => ?_)
    | dsimp -proj only
    | split
    | decide

theorem jobRead_keeps_eq {k : Comp} {s x : State} {a0 a1 a2 a3} {r u} (hk : k ∉ [.evt, .heel, .store, .nvm]) (h : k.same s x) (e : jobRead x a0 a1 a2 a3 = (r, u)) :
    k.same s u := by
  simpa only [e] using jobRead_keeps (s := s) (x := x) (a0 := a0) (a1 := a1) (a2 := a2) (a3 := a3) hk h

theorem stageBlock_keeps {k : Comp} {s x : State} {a0} (hk : k ∉ [.evt, .heel, .last, .store, .nvm]) (h : k.same s x) :
    k.same s (stageBlock x a0).2 := by
  unfold stageBlock
  repeat' first
    | with_reducible assumption
    | with_reducible refine stageEnd_keeps (not_mem_of_subset hk ?_) ?_
    | with_reducible refine stageEnd_keeps_eq (not_mem_of_subset hk ?_) ?_ (by with_reducible assumption)
    | with_reducible refine jobRead_keeps (not_mem_of_subset hk ?_) ?_
    | with_reducible refine jobRead_keeps_eq (not_mem_of_subset hk ?_) ?_ (by with_reducible assumption)
    | with_reducible refine modLast_keeps (not_mem_of_subset hk ?_) ?_
    | with_reducible refine ite_keeps ?_ ?_
    | with_reducible refine foldl_keeps ?_ (fun t a h => ?_)
    | dsimp -proj only
    | split
    | decide

theorem stageBlock_keeps_eq {k : Comp} {s x : State} {a0} {r u} (hk : k ∉ [.evt, .heel, .last, .store, .nvm]) (h : k.same s x) (e : stageBlock x a0 = (r, u)) :
    k.same s u := by
  simpa only [e] using stageBlock_keeps (s := s) (x := x) (a0 := a0) hk h

theorem writeCuts_keeps {k : Comp} {s x : State} {a0 a1 a2 a3} (hk : k ∉ [.evt, .heel, .store, .nvm]) (h : k.same s x) :
    k.same s (writeCuts a0 x a1 a2 a3).2.2 := by
  induction a3 generalizing x a1 a2 with
  | nil => exact h
  | cons p r ih =>
    obtain ⟨va, n⟩ := p
    unfold writeCuts
    split
    · exact h
    · exact ih (storeWrite_keeps (not_mem_of_subset hk (by decide)) h)

theorem writeCuts_keeps_eq {k : Comp} {s x : State} {a0 a1 a2 a3} {r q u} (hk : k ∉ [.evt, .heel, .store, .nvm]) (h : k.same s x) (e : writeCuts a0 x a1 a2 a3 = (r, q, u)) :
    k.same s u := by
  simpa only [e] using writeCuts_keeps (s := s) (x := x) (a0 := a0) (a1 := a1) (a2 := a2) (a3 := a3) hk h

theorem jobWrite_keeps {k : Comp} {s x : State} {a0 a1 a2} (hk : k ∉ [.evt, .heel, .store, .nvm]) (h : k.same s x) :
    k.same s (jobWrite x a0 a1 a2).2.2 := by
  unfold jobWrite
  repeat' first
    | with_reducible assumption
    | with_reducible refine writeCuts_keeps (not_mem_of_subset hk ?_) ?_
    | with_reducible refine writeCuts_keeps_eq (not_mem_of_subset hk ?_) ?_ (by with_reducible assumption)
    | with_reducible refine ite_keeps ?_ ?_
    | with_reducible refine foldl_keeps ?_ (fun t a h => ?_)
    | dsimp -proj only
    | split
    | decide

theorem jobWrite_keeps_eq {k : Comp} {s x : State} {a0 a1 a2} {r q u} (hk : k ∉ [.evt, .heel, .store, .nvm]) (h : k.same s x) (e : jobWrite x a0 a1 a2 = (r, q, u)) :
    k.same s u := by
  simpa only [e] using jobWrite_keeps (s := s) (x := x) (a0 := a0) (a1 := a1) (a2 := a2) hk h

theorem moveWrite_keeps {k : Comp} {s x : State} {a0 a1} (hk : k ∉ [.evt, .heel, .store, .nvm]) (h : k.same s x) :
    k.same s (moveWrite x a0 a1).2 := by
  unfold moveWrite
  repeat' first
    | with_reducible assumption
    | with_reducible refine jobWrite_keeps (not_mem_of_subset hk ?_) ?_
    | with_reducible refine jobWrite_keeps_eq (not_mem_of_subset hk ?_) ?_ (by with_reducible assumption)
    | with_reducible refine ite_keeps ?_ ?_
    | with_reducible refine foldl_keeps ?_ (fun t a h => ?_)
    | dsimp -proj only
    | split
    | decide

theorem moveWrite_keeps_eq {k : Comp} {s x : State} {a0 a1} {r u} (hk : k ∉ [.evt, .heel, .store, .nvm]) (h : k.same s x) (e : moveWrite x a0 a1 = (r, u)) :
    k.same s u := by
  simpa only [e] using moveWrite_keeps (s := s) (x := x) (a0 := a0) (a1 := a1) hk h

theorem moveBlock_keeps {k : Comp} {s x : State} {a0} (hk : k ∉ [.evt, .heel, .store, .nvm]) (h : k.same s x) :
    k.same s (moveBlock x a0).2 := by
  unfold moveBlock
  repeat' first
    | with_reducible assumption
    | with_reducible refine jobRead_keeps (not_mem_of_subset hk ?_) ?_
    | with_reducible refine jobRead_keeps_eq (not_mem_of_subset hk ?_) ?_ (by with_reducible assumption)
    | with_reducible refine moveWrite_keeps (not_mem_of_subset hk ?_) ?_
    | with_reducible refine moveWrite_keeps_eq (not_mem_of_subset hk ?_) ?_ (by with_reducible assumption)
    | with_reducible refine ite_keeps ?_ ?_
    | with_reducible refine foldl_keeps ?_ (fun t a h => ?_)
    | dsimp -proj only
    | split
    | decide

theorem moveBlock_keeps_eq {k : Comp} {s x : State} {a0} {r u} (hk : k ∉ [.evt, .heel, .store, .nvm]) (h : k.same s x) (e : moveBlock x a0 = (r, u)) :
    k.same s u := by
  simpa only [e] using moveBlock_keeps (s := s) (x := x) (a0 := a0) hk h

theorem moverBlock_keeps {k : Comp} {s x : State} {a0} (hk : k ∉ [.evt, .heel, .last, .store, .nvm]) (h : k.same s x) :
    k.same s (moverBlock x a0).2 := by
  unfold moverBlock
  repeat' first
    | with_reducible assumption
    | with_reducible refine stageBlock_keeps (not_mem_of_subset hk ?_) ?_
    | with_reducible refine stageBlock_keeps_eq (not_mem_of_subset hk ?_) ?_ (by with_reducible assumption)
    | with_reducible refine moveBlock_keeps (not_mem_of_subset hk ?_) ?_
    | with_reducible refine moveBlock_keeps_eq (not_mem_of_subset hk ?_) ?_ (by with_reducible assumption)
    | with_reducible refine ite_keeps ?_ ?_
    | with_reducible refine foldl_keeps ?_ (fun t a h => ?_)
    | dsimp -proj only
    | split
    | decide

theorem moverBlock_keeps_eq {k : Comp} {s x : State} {a0} {r u} (hk : k ∉ [.evt, .heel, .last, .store, .nvm]) (h : k.same s x) (e : moverBlock x a0 = (r, u)) :
    k.same s u := by
  simpa only [e] using moverBlock_keeps (s := s) (x := x) (a0 := a0) hk h

theorem runBlock_keeps {k : Comp} {s x : State} {a0 a1} (hk : k ∉ [.evt, .heel, .last, .store, .win, .wqs, .cqs, .units, .slots, .sched, .nvm]) (h : k.same s x) :
    k.same s (runBlock x a0 a1) := by
  unfold runBlock
  repeat' first
    | with_reducible assumption
    | with_reducible refine faultJob_keeps (not_mem_of_subset hk ?_) ?_
    | with_reducible refine setUnit_keeps (not_mem_of_subset hk ?_) ?_
    | with_reducible refine moverBlock_keeps (not_mem_of_subset hk ?_) ?_
    | with_reducible refine moverBlock_keeps_eq (not_mem_of_subset hk ?_) ?_ (by with_reducible assumption)
    | with_reducible refine ite_keeps ?_ ?_
    | with_reducible refine foldl_keeps ?_ (fun t a h => ?_)
    | dsimp -proj only
    | split
    | decide

theorem modPins_keeps {k : Comp} {s x : State} {a0} (hk : k ∉ [.pins]) (h : k.same s x) :
    k.same s (modPins x a0) := by
  unfold modPins
  try dsimp -zeta -proj only [upd_pins]
  repeat' first
    | with_reducible assumption
    | with_reducible refine putPins_keeps (not_mem_of_subset hk ?_) ?_
    | with_reducible refine ite_keeps ?_ ?_
    | with_reducible refine foldl_keeps ?_ (fun t a h => ?_)
    | dsimp -proj only
    | split
    | decide

theorem execBypNPulse_keeps {k : Comp} {s x : State} (hk : k ∉ [.pins, .power, .welt, .evt, .heel, .lanes, .links, .last, .store, .imc, .units, .nvm, .cal, .free]) (h : k.same s x) :
    ∃ t, execBypNPulse x = .next t ∧ k.same s t := by
  unfold execBypNPulse
  repeat' first
    | with_reducible assumption
    | with_reducible refine done_keeps (not_mem_of_subset hk ?_) ?_
    | with_reducible refine settle_keeps (not_mem_of_subset hk ?_) ?_
    | with_reducible refine modPins_keeps (not_mem_of_subset hk ?_) ?_
    | with_reducible refine ite_keeps ?_ ?_
    | with_reducible refine foldl_keeps ?_ (fun t a h => ?_)
    | dsimp -proj only
    | split
    | decide

theorem writeDtload_keeps {k : Comp} {s x : State} {a0 a1} (hk : k ∉ [.time]) (h : k.same s x) :
    k.same s (writeDtload x a0 a1) := by
  unfold writeDtload
  try dsimp -zeta -proj only [upd_time]
  repeat' first
    | with_reducible assumption
    | with_reducible refine putTime_keeps (not_mem_of_subset hk ?_) ?_
    | with_reducible refine ite_keeps ?_ ?_
    | with_reducible refine foldl_keeps ?_ (fun t a h => ?_)
    | dsimp -proj only
    | split
    | decide

theorem modEq_keeps {k : Comp} {s x : State} {a0 a1 a2} (hk : k ∉ [.lanes]) (h : k.same s x) :
    k.same s (modEq x a0 a1 a2) := by
  unfold modEq
  repeat' first
    | with_reducible assumption
    | with_reducible refine modLane_keeps (not_mem_of_subset hk ?_) ?_
    | with_reducible refine ite_keeps ?_ ?_
    | with_reducible refine foldl_keeps ?_ (fun t a h => ?_)
    | dsimp -proj only
    | split
    | decide

theorem writeLneq_keeps {k : Comp} {s x : State} {a0 a1 a2} (hk : k ∉ [.lanes]) (h : k.same s x) :
    k.same s (writeLneq x a0 a1 a2) := by
  unfold writeLneq
  repeat' first
    | with_reducible assumption
    | with_reducible refine modEq_keeps (not_mem_of_subset hk ?_) ?_
    | with_reducible refine ite_keeps ?_ ?_
    | with_reducible refine foldl_keeps ?_ (fun t a h => ?_)
    | dsimp -proj only
    | split
    | decide

theorem writeEvtmask_keeps {k : Comp} {s x : State} {a0} (hk : k ∉ [.evt]) (h : k.same s x) :
    k.same s (writeEvtmask x a0) := by
  unfold writeEvtmask
  try dsimp -zeta -proj only [upd_evt]
  repeat' first
    | with_reducible assumption
    | with_reducible refine putEvt_keeps (not_mem_of_subset hk ?_) ?_
    | with_reducible refine ite_keeps ?_ ?_
    | with_reducible refine foldl_keeps ?_ (fun t a h => ?_)
    | dsimp -proj only
    | split
    | decide

theorem requestStandby_keeps {k : Comp} {s x : State} (hk : k ∉ [.dev, .evt, .lanes, .store, .nvm, .cal]) (h : k.same s x) :
    k.same s (requestStandby x) := by
  unfold requestStandby
  try dsimp -zeta -proj only [upd_dev]
  repeat' first
    | with_reducible assumption
    | with_reducible refine stopRecal_keeps (not_mem_of_subset hk ?_) ?_
    | with_reducible refine putDev_keeps (not_mem_of_subset hk ?_) ?_
    | with_reducible refine ite_keeps ?_ ?_
    | with_reducible refine foldl_keeps ?_ (fun t a h => ?_)
    | dsimp -proj only
    | split
    | decide

theorem writeDevctl_keeps {k : Comp} {s x : State} {a0} (hk : k ∉ [.power, .boot, .dev, .welt, .therm, .evt, .lanes, .links, .last, .store, .units, .nvm, .cal, .free]) (h : k.same s x) :
    k.same s (writeDevctl x a0) := by
  unfold writeDevctl
  try dsimp -zeta -proj only [upd_boot, upd_dev_therm]
  repeat' first
    | with_reducible assumption
    | with_reducible refine settle_keeps (not_mem_of_subset hk ?_) ?_
    | with_reducible refine requestStandby_keeps (not_mem_of_subset hk ?_) ?_
    | with_reducible refine putBoot_keeps (not_mem_of_subset hk ?_) ?_
    | with_reducible refine putDev_keeps (not_mem_of_subset hk ?_) ?_
    | with_reducible refine putTherm_keeps (not_mem_of_subset hk ?_) ?_
    | with_reducible refine ite_keeps ?_ ?_
    | with_reducible refine foldl_keeps ?_ (fun t a h => ?_)
    | dsimp -proj only
    | split
    | decide

theorem dropSend_keeps {k : Comp} {s x : State} {a0} (hk : k ∉ [.links]) (h : k.same s x) :
    k.same s (dropSend x a0) := by
  unfold dropSend
  repeat' first
    | with_reducible assumption
    | with_reducible refine modLink_keeps (not_mem_of_subset hk ?_) ?_
    | with_reducible refine ite_keeps ?_ ?_
    | with_reducible refine foldl_keeps ?_ (fun t a h => ?_)
    | dsimp -proj only
    | split
    | decide

theorem retireJob_keeps {k : Comp} {s x : State} {a0 a1} (hk : k ∉ [.evt, .heel, .store, .win, .wqs, .cqs, .units, .nvm]) (h : k.same s x) :
    k.same s (retireJob x a0 a1) := by
  unfold retireJob
  repeat' first
    | with_reducible assumption
    | with_reducible refine setUnit_keeps (not_mem_of_subset hk ?_) ?_
    | with_reducible refine endEntry_keeps (not_mem_of_subset hk ?_) ?_
    | with_reducible refine ite_keeps ?_ ?_
    | with_reducible refine foldl_keeps ?_ (fun t a h => ?_)
    | dsimp -proj only
    | split
    | decide

theorem abortEntry_keeps {k : Comp} {s x : State} {a0 a1 a2 a3} (hk : k ∉ [.evt, .heel, .store, .win, .wqs, .cqs, .nvm]) (h : k.same s x) :
    k.same s (abortEntry x a0 a1 a2 a3) := by
  unfold abortEntry
  repeat' first
    | with_reducible assumption
    | with_reducible refine endEntry_keeps (not_mem_of_subset hk ?_) ?_
    | with_reducible refine ite_keeps ?_ ?_
    | with_reducible refine foldl_keeps ?_ (fun t a h => ?_)
    | dsimp -proj only
    | split
    | decide

theorem modAwl_keeps {k : Comp} {s x : State} {a0} (hk : k ∉ [.awl]) (h : k.same s x) :
    k.same s (modAwl x a0) := by
  unfold modAwl
  try dsimp -zeta -proj only [upd_awl]
  repeat' first
    | with_reducible assumption
    | with_reducible refine putAwl_keeps (not_mem_of_subset hk ?_) ?_
    | with_reducible refine ite_keeps ?_ ?_
    | with_reducible refine foldl_keeps ?_ (fun t a h => ?_)
    | dsimp -proj only
    | split
    | decide

theorem stopNvm_keeps {k : Comp} {s x : State} {a0} (hk : k ∉ [.awl, .nvm, .free]) (h : k.same s x) :
    k.same s (stopNvm x a0).2 := by
  unfold stopNvm
  try dsimp -zeta -proj only [upd_nvm]
  repeat' first
    | with_reducible assumption
    | with_reducible refine useFree_keeps (not_mem_of_subset hk ?_) ?_
    | with_reducible refine useFree_keeps_eq (not_mem_of_subset hk ?_) ?_ (by with_reducible assumption)
    | with_reducible refine modAwl_keeps (not_mem_of_subset hk ?_) ?_
    | with_reducible refine putNvm_keeps (not_mem_of_subset hk ?_) ?_
    | with_reducible refine ite_keeps ?_ ?_
    | with_reducible refine foldl_keeps ?_ (fun t a h => ?_)
    | dsimp -proj only
    | split
    | decide

theorem stopNvm_keeps_eq {k : Comp} {s x : State} {a0} {r u} (hk : k ∉ [.awl, .nvm, .free]) (h : k.same s x) (e : stopNvm x a0 = (r, u)) :
    k.same s u := by
  simpa only [e] using stopNvm_keeps (s := s) (x := x) (a0 := a0) hk h

theorem faultSeen_keeps {k : Comp} {s x : State} {a0 a1} (hk : k ∉ [.win, .awl]) (h : k.same s x) :
    k.same s (faultSeen x a0 a1) := by
  unfold faultSeen
  repeat' first
    | with_reducible assumption
    | with_reducible refine unlockEntry_keeps (not_mem_of_subset hk ?_) ?_
    | with_reducible refine modAwl_keeps (not_mem_of_subset hk ?_) ?_
    | with_reducible refine latchJob_keeps (not_mem_of_subset hk ?_) ?_
    | with_reducible refine ite_keeps ?_ ?_
    | with_reducible refine foldl_keeps ?_ (fun t a h => ?_)
    | dsimp -proj only
    | split
    | decide

theorem finishJob_keeps {k : Comp} {s x : State} {a0 a1 a2} (hk : k ∉ [.units]) (h : k.same s x) :
    k.same s (finishJob x a0 a1 a2) := by
  unfold finishJob
  repeat' first
    | with_reducible assumption
    | with_reducible refine modJob_keeps (not_mem_of_subset hk ?_) ?_
    | with_reducible refine ite_keeps ?_ ?_
    | with_reducible refine foldl_keeps ?_ (fun t a h => ?_)
    | dsimp -proj only
    | split
    | decide

theorem endCapture_keeps {k : Comp} {s x : State} {a0 a1 a2 a3 a4} (hk : k ∉ [.evt, .heel, .store, .units, .nvm]) (h : k.same s x) :
    k.same s (endCapture x a0 a1 a2 a3 a4).2 := by
  unfold endCapture
  repeat' first
    | with_reducible assumption
    | with_reducible refine jobWrite_keeps (not_mem_of_subset hk ?_) ?_
    | with_reducible refine jobWrite_keeps_eq (not_mem_of_subset hk ?_) ?_ (by with_reducible assumption)
    | with_reducible refine finishJob_keeps (not_mem_of_subset hk ?_) ?_
    | with_reducible refine ite_keeps ?_ ?_
    | with_reducible refine foldl_keeps ?_ (fun t a h => ?_)
    | dsimp -proj only
    | split
    | decide

theorem endCapture_keeps_eq {k : Comp} {s x : State} {a0 a1 a2 a3 a4} {r u} (hk : k ∉ [.evt, .heel, .store, .units, .nvm]) (h : k.same s x) (e : endCapture x a0 a1 a2 a3 a4 = (r, u)) :
    k.same s u := by
  simpa only [e] using endCapture_keeps (s := s) (x := x) (a0 := a0) (a1 := a1) (a2 := a2) (a3 := a3) (a4 := a4) hk h

theorem stopUnit_keeps {k : Comp} {s x : State} {a0 a1} (hk : k ∉ [.evt, .heel, .lanes, .last, .store, .win, .units, .awl, .nvm, .free]) (h : k.same s x) :
    k.same s (stopUnit x a0 a1).2 := by
  unfold stopUnit
  repeat' first
    | with_reducible assumption
    | with_reducible refine prbsOff_keeps (not_mem_of_subset hk ?_) ?_
    | with_reducible refine stopNvm_keeps (not_mem_of_subset hk ?_) ?_
    | with_reducible refine stopNvm_keeps_eq (not_mem_of_subset hk ?_) ?_ (by with_reducible assumption)
    | with_reducible refine faultSeen_keeps (not_mem_of_subset hk ?_) ?_
    | with_reducible refine modAwl_keeps (not_mem_of_subset hk ?_) ?_
    | with_reducible refine dropStaging_keeps (not_mem_of_subset hk ?_) ?_
    | with_reducible refine endCapture_keeps (not_mem_of_subset hk ?_) ?_
    | with_reducible refine endCapture_keeps_eq (not_mem_of_subset hk ?_) ?_ (by with_reducible assumption)
    | with_reducible refine ite_keeps ?_ ?_
    | with_reducible refine foldl_keeps ?_ (fun t a h => ?_)
    | dsimp -proj only
    | split
    | decide

theorem stopUnit_keeps_eq {k : Comp} {s x : State} {a0 a1} {r u} (hk : k ∉ [.evt, .heel, .lanes, .last, .store, .win, .units, .awl, .nvm, .free]) (h : k.same s x) (e : stopUnit x a0 a1 = (r, u)) :
    k.same s u := by
  simpa only [e] using stopUnit_keeps (s := s) (x := x) (a0 := a0) (a1 := a1) hk h

theorem awlUnitJob_keeps {k : Comp} {s x : State} {a0 a1} (hk : k ∉ [.evt, .heel, .lanes, .links, .last, .store, .win, .wqs, .cqs, .units, .awl, .nvm, .free]) (h : k.same s x) :
    k.same s (awlUnitJob x a0 a1) := by
  unfold awlUnitJob
  repeat' first
    | with_reducible assumption
    | with_reducible refine dropSend_keeps (not_mem_of_subset hk ?_) ?_
    | with_reducible refine retireJob_keeps (not_mem_of_subset hk ?_) ?_
    | with_reducible refine setUnit_keeps (not_mem_of_subset hk ?_) ?_
    | with_reducible refine abortEntry_keeps (not_mem_of_subset hk ?_) ?_
    | with_reducible refine modAwl_keeps (not_mem_of_subset hk ?_) ?_
    | with_reducible refine stopUnit_keeps (not_mem_of_subset hk ?_) ?_
    | with_reducible refine stopUnit_keeps_eq (not_mem_of_subset hk ?_) ?_ (by with_reducible assumption)
    | with_reducible refine ite_keeps ?_ ?_
    | with_reducible refine foldl_keeps ?_ (fun t a h => ?_)
    | dsimp -proj only
    | split
    | decide

theorem awlWaiting_keeps {k : Comp} {s x : State} {a0 a1} (hk : k ∉ [.evt, .heel, .store, .win, .wqs, .cqs, .awl, .nvm]) (h : k.same s x) :
    k.same s (awlWaiting x a0 a1) := by
  unfold awlWaiting
  repeat' first
    | with_reducible assumption
    | with_reducible refine modWq_keeps (not_mem_of_subset hk ?_) ?_
    | with_reducible refine noteFence_keeps (not_mem_of_subset hk ?_) ?_
    | with_reducible refine abortEntry_keeps (not_mem_of_subset hk ?_) ?_
    | with_reducible refine modAwl_keeps (not_mem_of_subset hk ?_) ?_
    | with_reducible refine ite_keeps ?_ ?_
    | with_reducible refine foldl_keeps ?_ (fun t a h => ?_)
    | dsimp -proj only
    | split
    | decide

theorem awlHeld_keeps {k : Comp} {s x : State} {a0} (hk : k ∉ [.evt, .heel, .store, .win, .wqs, .cqs, .units, .awl, .nvm, .free]) (h : k.same s x) :
    k.same s (awlHeld x a0) := by
  unfold awlHeld
  try dsimp -zeta -proj only [upd_units]
  repeat' first
    | with_reducible assumption
    | with_reducible refine stopNvm_keeps (not_mem_of_subset hk ?_) ?_
    | with_reducible refine stopNvm_keeps_eq (not_mem_of_subset hk ?_) ?_ (by with_reducible assumption)
    | with_reducible refine abortEntry_keeps (not_mem_of_subset hk ?_) ?_
    | with_reducible refine modAwl_keeps (not_mem_of_subset hk ?_) ?_
    | with_reducible refine putUnits_keeps (not_mem_of_subset hk ?_) ?_
    | with_reducible refine ite_keeps ?_ ?_
    | with_reducible refine foldl_keeps ?_ (fun t a h => ?_)
    | dsimp -proj only
    | split
    | decide

theorem freeSlot_keeps {k : Comp} {s x : State} {a0} (hk : k ∉ [.slots]) (h : k.same s x) :
    k.same s (freeSlot x a0) := by
  unfold freeSlot
  try dsimp -zeta -proj only [upd_slots]
  repeat' first
    | with_reducible assumption
    | with_reducible refine putSlots_keeps (not_mem_of_subset hk ?_) ?_
    | with_reducible refine ite_keeps ?_ ?_
    | with_reducible refine foldl_keeps ?_ (fun t a h => ?_)
    | dsimp -proj only
    | split
    | decide

theorem awlSlot_keeps {k : Comp} {s x : State} {a0 a1} (hk : k ∉ [.evt, .heel, .last, .store, .win, .wqs, .cqs, .slots, .awl, .nvm]) (h : k.same s x) :
    k.same s (awlSlot x a0 a1) := by
  unfold awlSlot
  repeat' first
    | with_reducible assumption
    | with_reducible refine freeSlot_keeps (not_mem_of_subset hk ?_) ?_
    | with_reducible refine abortEntry_keeps (not_mem_of_subset hk ?_) ?_
    | with_reducible refine modAwl_keeps (not_mem_of_subset hk ?_) ?_
    | with_reducible refine dropStaging_keeps (not_mem_of_subset hk ?_) ?_
    | with_reducible refine ite_keeps ?_ ?_
    | with_reducible refine foldl_keeps ?_ (fun t a h => ?_)
    | dsimp -proj only
    | split
    | decide

theorem awlEnd_keeps {k : Comp} {s x : State} {a0 a1} (hk : k ∉ [.evt, .heel, .lanes, .links, .last, .store, .win, .wqs, .cqs, .units, .slots, .awl, .nvm, .free]) (h : k.same s x) :
    k.same s (awlEnd x a0 a1) := by
  unfold awlEnd
  repeat' first
    | with_reducible assumption
    | with_reducible refine awlUnitJob_keeps (not_mem_of_subset hk ?_) ?_
    | with_reducible refine awlWaiting_keeps (not_mem_of_subset hk ?_) ?_
    | with_reducible refine awlHeld_keeps (not_mem_of_subset hk ?_) ?_
    | with_reducible refine awlSlot_keeps (not_mem_of_subset hk ?_) ?_
    | with_reducible refine ite_keeps ?_ ?_
    | with_reducible refine foldl_keeps ?_ (fun t a h => ?_)
    | dsimp -proj only
    | split
    | decide

theorem awlAccept_keeps {k : Comp} {s x : State} {a0} (hk : k ∉ [.awl]) (h : k.same s x) :
    k.same s (awlAccept x a0) := by
  unfold awlAccept
  repeat' first
    | with_reducible assumption
    | with_reducible refine modAwl_keeps (not_mem_of_subset hk ?_) ?_
    | with_reducible refine ite_keeps ?_ ?_
    | with_reducible refine foldl_keeps ?_ (fun t a h => ?_)
    | dsimp -proj only
    | split
    | decide

theorem endRegTests_keeps {k : Comp} {s x : State} {a0 a1} (hk : k ∉ [.evt, .lanes, .store, .nvm]) (h : k.same s x) :
    k.same s (endRegTests x a0 a1).2 := by
  unfold endRegTests
  repeat' first
    | with_reducible assumption
    | with_reducible refine logL_keeps (not_mem_of_subset hk ?_) ?_
    | with_reducible refine modMeas_keeps (not_mem_of_subset hk ?_) ?_
    | with_reducible refine ite_keeps ?_ ?_
    | with_reducible refine foldl_keeps ?_ (fun t a h => ?_)
    | dsimp -proj only
    | split
    | decide

theorem endRegTests_keeps_eq {k : Comp} {s x : State} {a0 a1} {r u} (hk : k ∉ [.evt, .lanes, .store, .nvm]) (h : k.same s x) (e : endRegTests x a0 a1 = (r, u)) :
    k.same s u := by
  simpa only [e] using endRegTests_keeps (s := s) (x := x) (a0 := a0) (a1 := a1) hk h

theorem awlCommand_keeps {k : Comp} {s x : State} {a0} (hk : k ∉ [.evt, .heel, .lanes, .links, .last, .store, .win, .wqs, .cqs, .units, .slots, .awl, .nvm, .free]) (h : k.same s x) :
    k.same s (awlCommand x a0) := by
  unfold awlCommand
  repeat' first
    | with_reducible assumption
    | with_reducible refine modWq_keeps (not_mem_of_subset hk ?_) ?_
    | with_reducible refine awlUnitJob_keeps (not_mem_of_subset hk ?_) ?_
    | with_reducible refine awlEnd_keeps (not_mem_of_subset hk ?_) ?_
    | with_reducible refine modAwl_keeps (not_mem_of_subset hk ?_) ?_
    | with_reducible refine awlAccept_keeps (not_mem_of_subset hk ?_) ?_
    | with_reducible refine endRegTests_keeps (not_mem_of_subset hk ?_) ?_
    | with_reducible refine endRegTests_keeps_eq (not_mem_of_subset hk ?_) ?_ (by with_reducible assumption)
    | with_reducible refine ite_keeps ?_ ?_
    | with_reducible refine foldl_keeps ?_ (fun t a h => ?_)
    | dsimp -proj only
    | split
    | decide

theorem writeCqhead_keeps {k : Comp} {s x : State} {a0 a1} (hk : k ∉ [.evt, .store, .wqs, .cqs, .nvm]) (h : k.same s x) :
    k.same s (writeCqhead x a0 a1) := by
  unfold writeCqhead
  repeat' first
    | with_reducible assumption
    | with_reducible refine cqError_keeps (not_mem_of_subset hk ?_) ?_
    | with_reducible refine modCq_keeps (not_mem_of_subset hk ?_) ?_
    | with_reducible refine ite_keeps ?_ ?_
    | with_reducible refine foldl_keeps ?_ (fun t a h => ?_)
    | dsimp -proj only
    | split
    | decide

theorem writeLnstat_keeps {k : Comp} {s x : State} {a0 a1 a2} (hk : k ∉ [.lanes]) (h : k.same s x) :
    k.same s (writeLnstat x a0 a1 a2) := by
  unfold writeLnstat
  repeat' first
    | with_reducible assumption
    | with_reducible refine modRx_keeps (not_mem_of_subset hk ?_) ?_
    | with_reducible refine ite_keeps ?_ ?_
    | with_reducible refine foldl_keeps ?_ (fun t a h => ?_)
    | dsimp -proj only
    | split
    | decide

theorem silenceLoop_keeps {k : Comp} {s x : State} {a0 a1} (hk : k ∉ [.lanes]) (h : k.same s x) :
    k.same s (silenceLoop x a0 a1) := by
  unfold silenceLoop
  repeat' first
    | with_reducible assumption
    | with_reducible refine modTx_keeps (not_mem_of_subset hk ?_) ?_
    | with_reducible refine ite_keeps ?_ ?_
    | with_reducible refine foldl_keeps ?_ (fun t a h => ?_)
    | dsimp -proj only
    | split
    | decide

theorem coolIdle_keeps {k : Comp} {s x : State} {a0} (hk : k ∉ [.lanes, .units]) (h : k.same s x) :
    k.same s (coolIdle x a0) := by
  unfold coolIdle
  repeat' first
    | with_reducible assumption
    | with_reducible refine coolRx_keeps (not_mem_of_subset hk ?_) ?_
    | with_reducible refine ite_keeps ?_ ?_
    | with_reducible refine foldl_keeps ?_ (fun t a h => ?_)
    | dsimp -proj only
    | split
    | decide

theorem coolSpare_keeps {k : Comp} {s x : State} {a0} (hk : k ∉ [.links]) (h : k.same s x) :
    k.same s (coolSpare x a0) := by
  unfold coolSpare
  repeat' first
    | with_reducible assumption
    | with_reducible refine setSpare_keeps (not_mem_of_subset hk ?_) ?_
    | with_reducible refine ite_keeps ?_ ?_
    | with_reducible refine foldl_keeps ?_ (fun t a h => ?_)
    | dsimp -proj only
    | split
    | decide

theorem holdStarts_keeps {k : Comp} {s x : State} {a0 a1} (hk : k ∉ [.lanes, .links]) (h : k.same s x) :
    k.same s (holdStarts x a0 a1) := by
  unfold holdStarts
  repeat' first
    | with_reducible assumption
    | with_reducible refine coolSpare_keeps (not_mem_of_subset hk ?_) ?_
    | with_reducible refine modRx_keeps (not_mem_of_subset hk ?_) ?_
    | with_reducible refine modMeas_keeps (not_mem_of_subset hk ?_) ?_
    | with_reducible refine ite_keeps ?_ ?_
    | with_reducible refine foldl_keeps ?_ (fun t a h => ?_)
    | dsimp -proj only
    | split
    | decide

theorem writeLnloop_keeps {k : Comp} {s x : State} {a0 a1 a2} (hk : k ∉ [.lanes, .links, .units]) (h : k.same s x) :
    k.same s (writeLnloop x a0 a1 a2) := by
  unfold writeLnloop
  repeat' first
    | with_reducible assumption
    | with_reducible refine silenceLoop_keeps (not_mem_of_subset hk ?_) ?_
    | with_reducible refine coolIdle_keeps (not_mem_of_subset hk ?_) ?_
    | with_reducible refine holdStarts_keeps (not_mem_of_subset hk ?_) ?_
    | with_reducible refine modMeas_keeps (not_mem_of_subset hk ?_) ?_
    | with_reducible refine ite_keeps ?_ ?_
    | with_reducible refine foldl_keeps ?_ (fun t a h => ?_)
    | dsimp -proj only
    | split
    | decide

theorem writeLnkloss_keeps {k : Comp} {s x : State} {a0 a1} (hk : k ∉ [.links]) (h : k.same s x) :
    k.same s (writeLnkloss x a0 a1) := by
  unfold writeLnkloss
  repeat' first
    | with_reducible assumption
    | with_reducible refine modLink_keeps (not_mem_of_subset hk ?_) ?_
    | with_reducible refine ite_keeps ?_ ?_
    | with_reducible refine foldl_keeps ?_ (fun t a h => ?_)
    | dsimp -proj only
    | split
    | decide

theorem writeTmstat_keeps {k : Comp} {s x : State} {a0} (hk : k ∉ [.tm]) (h : k.same s x) :
    k.same s (writeTmstat x a0) := by
  unfold writeTmstat
  try dsimp -zeta -proj only [upd_tm]
  repeat' first
    | with_reducible assumption
    | with_reducible refine putTm_keeps (not_mem_of_subset hk ?_) ?_
    | with_reducible refine ite_keeps ?_ ?_
    | with_reducible refine foldl_keeps ?_ (fun t a h => ?_)
    | dsimp -proj only
    | split
    | decide

theorem writeWqhdr_keeps {k : Comp} {s x : State} {a0 a1} (hk : k ∉ [.wqs]) (h : k.same s x) :
    k.same s (writeWqhdr x a0 a1) := by
  unfold writeWqhdr
  repeat' first
    | with_reducible assumption
    | with_reducible refine modWq_keeps (not_mem_of_subset hk ?_) ?_
    | with_reducible refine ite_keeps ?_ ?_
    | with_reducible refine foldl_keeps ?_ (fun t a h => ?_)
    | dsimp -proj only
    | split
    | decide

theorem writeAttnsrc_keeps {k : Comp} {s x : State} {a0} (hk : k ∉ [.evt]) (h : k.same s x) :
    k.same s (writeAttnsrc x a0) := by
  unfold writeAttnsrc
  try dsimp -zeta -proj only [upd_evt]
  repeat' first
    | with_reducible assumption
    | with_reducible refine putEvt_keeps (not_mem_of_subset hk ?_) ?_
    | with_reducible refine ite_keeps ?_ ?_
    | with_reducible refine foldl_keeps ?_ (fun t a h => ?_)
    | dsimp -proj only
    | split
    | decide

theorem writeLnkspcmd_keeps {k : Comp} {s x : State} {a0 a1} (hk : k ∉ [.links, .free]) (h : k.same s x) :
    k.same s (writeLnkspcmd x a0 a1) := by
  unfold writeLnkspcmd
  repeat' first
    | with_reducible assumption
    | with_reducible refine setSwapResult_keeps (not_mem_of_subset hk ?_) ?_
    | with_reducible refine beginSwap_keeps (not_mem_of_subset hk ?_) ?_
    | with_reducible refine ite_keeps ?_ ?_
    | with_reducible refine foldl_keeps ?_ (fun t a h => ?_)
    | dsimp -proj only
    | split
    | decide

theorem idleLink_keeps {k : Comp} {s x : State} {a0 a1 a2} (hk : k ∉ [.lanes]) (h : k.same s x) :
    k.same s (idleLink x a0 a1 a2) := by
  unfold idleLink
  repeat' first
    | with_reducible assumption
    | with_reducible refine modTx_keeps (not_mem_of_subset hk ?_) ?_
    | with_reducible refine ite_keeps ?_ ?_
    | with_reducible refine foldl_keeps ?_ (fun t a h => ?_)
    | dsimp -proj only
    | split
    | decide

theorem restartD_keeps {k : Comp} {s x : State} {a0 a1 a2} (hk : k ∉ [.power, .welt, .evt, .lanes, .links, .last, .store, .units, .nvm, .cal, .free]) (h : k.same s x) :
    k.same s (restartD x a0 a1 a2) := by
  unfold restartD
  repeat' first
    | with_reducible assumption
    | with_reducible refine idleLink_keeps (not_mem_of_subset hk ?_) ?_
    | with_reducible refine takeUp_keeps (not_mem_of_subset hk ?_) ?_
    | with_reducible refine restartLink_keeps (not_mem_of_subset hk ?_) ?_
    | with_reducible refine dropLink_keeps (not_mem_of_subset hk ?_) ?_
    | with_reducible refine ite_keeps ?_ ?_
    | with_reducible refine foldl_keeps ?_ (fun t a h => ?_)
    | dsimp -proj only
    | split
    | decide

theorem checkRecovered_keeps {k : Comp} {s x : State} {a0} (hk : k ∉ [.links]) (h : k.same s x) :
    k.same s (checkRecovered x a0) := by
  unfold checkRecovered
  repeat' first
    | with_reducible assumption
    | with_reducible refine modLink_keeps (not_mem_of_subset hk ?_) ?_
    | with_reducible refine ite_keeps ?_ ?_
    | with_reducible refine foldl_keeps ?_ (fun t a h => ?_)
    | dsimp -proj only
    | split
    | decide

theorem laneRestart_keeps {k : Comp} {s x : State} {a0} (hk : k ∉ [.lanes, .links, .units]) (h : k.same s x) :
    k.same s (laneRestart x a0) := by
  unfold laneRestart
  repeat' first
    | with_reducible assumption
    | with_reducible refine modLink_keeps (not_mem_of_subset hk ?_) ?_
    | with_reducible refine modRx_keeps (not_mem_of_subset hk ?_) ?_
    | with_reducible refine dropCdr_keeps (not_mem_of_subset hk ?_) ?_
    | with_reducible refine checkRecovered_keeps (not_mem_of_subset hk ?_) ?_
    | with_reducible refine ite_keeps ?_ ?_
    | with_reducible refine foldl_keeps ?_ (fun t a h => ?_)
    | dsimp -proj only
    | split
    | decide

theorem applyLink_keeps {k : Comp} {s x : State} {a0 a1 a2} (hk : k ∉ [.power, .welt, .evt, .lanes, .links, .last, .store, .units, .nvm, .cal, .free]) (h : k.same s x) :
    k.same s (applyLink x a0 a1 a2) := by
  unfold applyLink
  repeat' first
    | with_reducible assumption
    | with_reducible refine modLink_keeps (not_mem_of_subset hk ?_) ?_
    | with_reducible refine takeUp_keeps (not_mem_of_subset hk ?_) ?_
    | with_reducible refine restartD_keeps (not_mem_of_subset hk ?_) ?_
    | with_reducible refine laneRestart_keeps (not_mem_of_subset hk ?_) ?_
    | with_reducible refine modLast_keeps (not_mem_of_subset hk ?_) ?_
    | with_reducible refine requestRetrain_keeps (not_mem_of_subset hk ?_) ?_
    | with_reducible refine ite_keeps ?_ ?_
    | with_reducible refine foldl_keeps ?_ (fun t a h => ?_)
    | dsimp -proj only
    | split
    | decide

theorem loadPrograms_keeps {k : Comp} {s x : State} (hk : k ∉ [.tm]) (h : k.same s x) :
    k.same s (loadPrograms x) := by
  unfold loadPrograms
  try dsimp -zeta -proj only [upd_tm]
  repeat' first
    | with_reducible assumption
    | with_reducible refine putTm_keeps (not_mem_of_subset hk ?_) ?_
    | with_reducible refine ite_keeps ?_ ?_
    | with_reducible refine foldl_keeps ?_ (fun t a h => ?_)
    | dsimp -proj only
    | split
    | decide

theorem acceptCommit_keeps {k : Comp} {s x : State} {a0} (hk : k ∉ [.power, .welt, .evt, .lanes, .links, .last, .store, .units, .nvm, .tm, .cal, .free]) (h : k.same s x) :
    k.same s (acceptCommit x a0) := by
  unfold acceptCommit
  repeat' first
    | with_reducible assumption
    | with_reducible refine applyLink_keeps (not_mem_of_subset hk ?_) ?_
    | with_reducible refine settle_keeps (not_mem_of_subset hk ?_) ?_
    | with_reducible refine retarget_keeps (not_mem_of_subset hk ?_) ?_
    | with_reducible refine loadPrograms_keeps (not_mem_of_subset hk ?_) ?_
    | with_reducible refine checkDone_keeps (not_mem_of_subset hk ?_) ?_
    | with_reducible refine modLast_keeps (not_mem_of_subset hk ?_) ?_
    | with_reducible refine relockPlls_keeps (not_mem_of_subset hk ?_) ?_
    | with_reducible refine ite_keeps ?_ ?_
    | with_reducible refine foldl_keeps ?_ (fun t a h => ?_)
    | dsimp -proj only
    | split
    | decide

theorem writeLastcmd_keeps {k : Comp} {s x : State} {a0 a1} (hk : k ∉ [.power, .welt, .evt, .lanes, .links, .last, .store, .units, .nvm, .tm, .cal, .free]) (h : k.same s x) :
    k.same s (writeLastcmd x a0 a1) := by
  unfold writeLastcmd
  repeat' first
    | with_reducible assumption
    | with_reducible refine acceptCommit_keeps (not_mem_of_subset hk ?_) ?_
    | with_reducible refine modLast_keeps (not_mem_of_subset hk ?_) ?_
    | with_reducible refine ite_keeps ?_ ?_
    | with_reducible refine foldl_keeps ?_ (fun t a h => ?_)
    | dsimp -proj only
    | split
    | decide

theorem calSave_keeps {k : Comp} {s x : State} (hk : k ∉ [.cal]) (h : k.same s x) :
    k.same s (calSave x).2 := by
  unfold calSave
  try dsimp -zeta -proj only [upd_cal]
  repeat' first
    | with_reducible assumption
    | with_reducible refine putCal_keeps (not_mem_of_subset hk ?_) ?_
    | with_reducible refine ite_keeps ?_ ?_
    | with_reducible refine foldl_keeps ?_ (fun t a h => ?_)
    | dsimp -proj only
    | split
    | decide

theorem calSave_keeps_eq {k : Comp} {s x : State} {r u} (hk : k ∉ [.cal]) (h : k.same s x) (e : calSave x = (r, u)) :
    k.same s u := by
  simpa only [e] using calSave_keeps (s := s) (x := x)  hk h

theorem calGo_keeps {k : Comp} {s x : State} {a0 a1} (hk : k ∉ [.cal]) (h : k.same s x) :
    k.same s (calGo x a0 a1).2 := by
  unfold calGo
  try dsimp -zeta -proj only [upd_cal]
  repeat' first
    | with_reducible assumption
    | with_reducible refine putCal_keeps (not_mem_of_subset hk ?_) ?_
    | with_reducible refine ite_keeps ?_ ?_
    | with_reducible refine foldl_keeps ?_ (fun t a h => ?_)
    | dsimp -proj only
    | split
    | decide

theorem calGo_keeps_eq {k : Comp} {s x : State} {a0 a1} {r u} (hk : k ∉ [.cal]) (h : k.same s x) (e : calGo x a0 a1 = (r, u)) :
    k.same s u := by
  simpa only [e] using calGo_keeps (s := s) (x := x) (a0 := a0) (a1 := a1) hk h

theorem writeCalcmd_keeps {k : Comp} {s x : State} {a0} (hk : k ∉ [.cal]) (h : k.same s x) :
    k.same s (writeCalcmd x a0) := by
  unfold writeCalcmd
  try dsimp -zeta -proj only [upd_cal]
  repeat' first
    | with_reducible assumption
    | with_reducible refine calSave_keeps (not_mem_of_subset hk ?_) ?_
    | with_reducible refine calSave_keeps_eq (not_mem_of_subset hk ?_) ?_ (by with_reducible assumption)
    | with_reducible refine calGo_keeps (not_mem_of_subset hk ?_) ?_
    | with_reducible refine calGo_keeps_eq (not_mem_of_subset hk ?_) ?_ (by with_reducible assumption)
    | with_reducible refine putCal_keeps (not_mem_of_subset hk ?_) ?_
    | with_reducible refine ite_keeps ?_ ?_
    | with_reducible refine foldl_keeps ?_ (fun t a h => ?_)
    | dsimp -proj only
    | split
    | decide

theorem clearFaults_keeps {k : Comp} {s x : State} {a0} (hk : k ∉ [.evt]) (h : k.same s x) :
    k.same s (clearFaults x a0) := by
  unfold clearFaults
  try dsimp -zeta -proj only [upd_evt]
  repeat' first
    | with_reducible assumption
    | with_reducible refine putEvt_keeps (not_mem_of_subset hk ?_) ?_
    | with_reducible refine ite_keeps ?_ ?_
    | with_reducible refine foldl_keeps ?_ (fun t a h => ?_)
    | dsimp -proj only
    | split
    | decide

theorem drainWq_keeps {k : Comp} {s x : State} {a0} (hk : k ∉ [.wqs]) (h : k.same s x) :
    k.same s (drainWq x a0) := by
  unfold drainWq
  repeat' first
    | with_reducible assumption
    | with_reducible refine modWq_keeps (not_mem_of_subset hk ?_) ?_
    | with_reducible refine ite_keeps ?_ ?_
    | with_reducible refine foldl_keeps ?_ (fun t a h => ?_)
    | dsimp -proj only
    | split
    | decide

theorem resetWq_keeps {k : Comp} {s x : State} {a0} (hk : k ∉ [.wqs]) (h : k.same s x) :
    k.same s (resetWq x a0) := by
  unfold resetWq
  repeat' first
    | with_reducible assumption
    | with_reducible refine modWq_keeps (not_mem_of_subset hk ?_) ?_
    | with_reducible refine drainWq_keeps (not_mem_of_subset hk ?_) ?_
    | with_reducible refine ite_keeps ?_ ?_
    | with_reducible refine foldl_keeps ?_ (fun t a h => ?_)
    | dsimp -proj only
    | split
    | decide

theorem enableWq_keeps {k : Comp} {s x : State} {a0} (hk : k ∉ [.evt, .heel, .store, .win, .wqs, .nvm]) (h : k.same s x) :
    k.same s (enableWq x a0) := by
  unfold enableWq
  repeat' first
    | with_reducible assumption
    | with_reducible refine modWq_keeps (not_mem_of_subset hk ?_) ?_
    | with_reducible refine jobRead_keeps (not_mem_of_subset hk ?_) ?_
    | with_reducible refine jobRead_keeps_eq (not_mem_of_subset hk ?_) ?_ (by with_reducible assumption)
    | with_reducible refine latchJob_keeps (not_mem_of_subset hk ?_) ?_
    | with_reducible refine ite_keeps ?_ ?_
    | with_reducible refine foldl_keeps ?_ (fun t a h => ?_)
    | dsimp -proj only
    | split
    | decide

theorem disableWq_keeps {k : Comp} {s x : State} {a0} (hk : k ∉ [.wqs]) (h : k.same s x) :
    k.same s (disableWq x a0) := by
  unfold disableWq
  repeat' first
    | with_reducible assumption
    | with_reducible refine drainWq_keeps (not_mem_of_subset hk ?_) ?_
    | with_reducible refine ite_keeps ?_ ?_
    | with_reducible refine foldl_keeps ?_ (fun t a h => ?_)
    | dsimp -proj only
    | split
    | decide

theorem resumeWq_keeps {k : Comp} {s x : State} {a0 a1} (hk : k ∉ [.slots, .sched]) (h : k.same s x) :
    k.same s (resumeWq x a0 a1) := by
  unfold resumeWq
  try dsimp -zeta -proj only [upd_sched, upd_slots_sched]
  repeat' first
    | with_reducible assumption
    | with_reducible refine putSlots_keeps (not_mem_of_subset hk ?_) ?_
    | with_reducible refine putSched_keeps (not_mem_of_subset hk ?_) ?_
    | with_reducible refine ite_keeps ?_ ?_
    | with_reducible refine foldl_keeps ?_ (fun t a h => ?_)
    | dsimp -proj only
    | split
    | decide

theorem writeWqctl_keeps {k : Comp} {s x : State} {a0 a1} (hk : k ∉ [.evt, .heel, .store, .win, .wqs, .slots, .sched, .nvm]) (h : k.same s x) :
    k.same s (writeWqctl x a0 a1) := by
  unfold writeWqctl
  repeat' first
    | with_reducible assumption
    | with_reducible refine resetWq_keeps (not_mem_of_subset hk ?_) ?_
    | with_reducible refine enableWq_keeps (not_mem_of_subset hk ?_) ?_
    | with_reducible refine disableWq_keeps (not_mem_of_subset hk ?_) ?_
    | with_reducible refine resumeWq_keeps (not_mem_of_subset hk ?_) ?_
    | with_reducible refine ite_keeps ?_ ?_
    | with_reducible refine foldl_keeps ?_ (fun t a h => ?_)
    | dsimp -proj only
    | split
    | decide

theorem writeTwbstat_keeps {k : Comp} {s x : State} {a0} (hk : k ∉ [.twb]) (h : k.same s x) :
    k.same s (writeTwbstat x a0) := by
  unfold writeTwbstat
  try dsimp -zeta -proj only [upd_twb]
  repeat' first
    | with_reducible assumption
    | with_reducible refine putTwb_keeps (not_mem_of_subset hk ?_) ?_
    | with_reducible refine ite_keeps ?_ ?_
    | with_reducible refine foldl_keeps ?_ (fun t a h => ?_)
    | dsimp -proj only
    | split
    | decide

theorem writeTmthresh_keeps {k : Comp} {s x : State} {a0 a1} (hk : k ∉ [.tm]) (h : k.same s x) :
    k.same s (writeTmthresh x a0 a1) := by
  unfold writeTmthresh
  try dsimp -zeta -proj only [upd_tm]
  repeat' first
    | with_reducible assumption
    | with_reducible refine putTm_keeps (not_mem_of_subset hk ?_) ?_
    | with_reducible refine ite_keeps ?_ ?_
    | with_reducible refine foldl_keeps ?_ (fun t a h => ?_)
    | dsimp -proj only
    | split
    | decide

theorem fixSearches_keeps {k : Comp} {s x : State} {a0} (hk : k ∉ [.lanes]) (h : k.same s x) :
    k.same s (fixSearches x a0) := by
  unfold fixSearches
  repeat' first
    | with_reducible assumption
    | with_reducible refine modLane_keeps (not_mem_of_subset hk ?_) ?_
    | with_reducible refine ite_keeps ?_ ?_
    | with_reducible refine foldl_keeps ?_ (fun t a h => ?_)
    | dsimp -proj only
    | split
    | decide

theorem startJoin_keeps {k : Comp} {s x : State} {a0} (hk : k ∉ [.power, .welt, .evt, .lanes, .links, .last, .store, .units, .nvm, .cal, .free]) (h : k.same s x) :
    k.same s (startJoin x a0) := by
  unfold startJoin
  repeat' first
    | with_reducible assumption
    | with_reducible refine settle_keeps (not_mem_of_subset hk ?_) ?_
    | with_reducible refine modLink_keeps (not_mem_of_subset hk ?_) ?_
    | with_reducible refine ite_keeps ?_ ?_
    | with_reducible refine foldl_keeps ?_ (fun t a h => ?_)
    | dsimp -proj only
    | split
    | decide

theorem switchWaiting_keeps {k : Comp} {s x : State} {a0} (hk : k ∉ [.power, .welt, .evt, .lanes, .links, .last, .store, .units, .nvm, .free]) (h : k.same s x) :
    k.same s (switchWaiting x a0) := by
  unfold switchWaiting
  repeat' first
    | with_reducible assumption
    | with_reducible refine switchNow_keeps (not_mem_of_subset hk ?_) ?_
    | with_reducible refine ite_keeps ?_ ?_
    | with_reducible refine foldl_keeps ?_ (fun t a h => ?_)
    | dsimp -proj only
    | split
    | decide

theorem enterDisabled_keeps {k : Comp} {s x : State} {a0} (hk : k ∉ [.power, .welt, .evt, .lanes, .links, .last, .store, .units, .nvm, .cal, .free]) (h : k.same s x) :
    k.same s (enterDisabled x a0) := by
  unfold enterDisabled
  repeat' first
    | with_reducible assumption
    | with_reducible refine switchWaiting_keeps (not_mem_of_subset hk ?_) ?_
    | with_reducible refine modLink_keeps (not_mem_of_subset hk ?_) ?_
    | with_reducible refine dropLink_keeps (not_mem_of_subset hk ?_) ?_
    | with_reducible refine ite_keeps ?_ ?_
    | with_reducible refine foldl_keeps ?_ (fun t a h => ?_)
    | dsimp -proj only
    | split
    | decide

theorem enterDetect_keeps {k : Comp} {s x : State} {a0 a1} (hk : k ∉ [.power, .welt, .evt, .lanes, .links, .last, .store, .units, .nvm, .cal, .free]) (h : k.same s x) :
    k.same s (enterDetect x a0 a1) := by
  unfold enterDetect
  repeat' first
    | with_reducible assumption
    | with_reducible refine enterDisabled_keeps (not_mem_of_subset hk ?_) ?_
    | with_reducible refine switchWaiting_keeps (not_mem_of_subset hk ?_) ?_
    | with_reducible refine modLink_keeps (not_mem_of_subset hk ?_) ?_
    | with_reducible refine partAside_keeps (not_mem_of_subset hk ?_) ?_
    | with_reducible refine dropLink_keeps (not_mem_of_subset hk ?_) ?_
    | with_reducible refine ite_keeps ?_ ?_
    | with_reducible refine foldl_keeps ?_ (fun t a h => ?_)
    | dsimp -proj only
    | split
    | decide

theorem writeDisable_keeps {k : Comp} {s x : State} {a0 a1} (hk : k ∉ [.power, .welt, .evt, .lanes, .links, .last, .store, .units, .nvm, .cal, .free]) (h : k.same s x) :
    k.same s (writeDisable x a0 a1) := by
  unfold writeDisable
  repeat' first
    | with_reducible assumption
    | with_reducible refine enterDisabled_keeps (not_mem_of_subset hk ?_) ?_
    | with_reducible refine modLink_keeps (not_mem_of_subset hk ?_) ?_
    | with_reducible refine enterDetect_keeps (not_mem_of_subset hk ?_) ?_
    | with_reducible refine ite_keeps ?_ ?_
    | with_reducible refine foldl_keeps ?_ (fun t a h => ?_)
    | dsimp -proj only
    | split
    | decide

theorem writeAside_keeps {k : Comp} {s x : State} {a0 a1} (hk : k ∉ [.power, .welt, .evt, .lanes, .links, .last, .store, .units, .nvm, .cal, .free]) (h : k.same s x) :
    k.same s (writeAside x a0 a1) := by
  unfold writeAside
  repeat' first
    | with_reducible assumption
    | with_reducible refine startState_keeps (not_mem_of_subset hk ?_) ?_
    | with_reducible refine settle_keeps (not_mem_of_subset hk ?_) ?_
    | with_reducible refine modLink_keeps (not_mem_of_subset hk ?_) ?_
    | with_reducible refine standAside_keeps (not_mem_of_subset hk ?_) ?_
    | with_reducible refine ite_keeps ?_ ?_
    | with_reducible refine foldl_keeps ?_ (fun t a h => ?_)
    | dsimp -proj only
    | split
    | decide

theorem writeLnkctl_keeps {k : Comp} {s x : State} {a0 a1} (hk : k ∉ [.power, .welt, .evt, .lanes, .links, .last, .store, .units, .nvm, .cal, .free]) (h : k.same s x) :
    k.same s (writeLnkctl x a0 a1) := by
  unfold writeLnkctl
  repeat' first
    | with_reducible assumption
    | with_reducible refine fixSearches_keeps (not_mem_of_subset hk ?_) ?_
    | with_reducible refine modLink_keeps (not_mem_of_subset hk ?_) ?_
    | with_reducible refine startJoin_keeps (not_mem_of_subset hk ?_) ?_
    | with_reducible refine writeDisable_keeps (not_mem_of_subset hk ?_) ?_
    | with_reducible refine writeAside_keeps (not_mem_of_subset hk ?_) ?_
    | with_reducible refine requestRetrain_keeps (not_mem_of_subset hk ?_) ?_
    | with_reducible refine ite_keeps ?_ ?_
    | with_reducible refine foldl_keeps ?_ (fun t a h => ?_)
    | dsimp -proj only
    | split
    | decide

theorem writeNvmctl_keeps {k : Comp} {s x : State} {a0} (hk : k ∉ [.nvm]) (h : k.same s x) :
    k.same s (writeNvmctl x a0) := by
  unfold writeNvmctl
  try dsimp -zeta -proj only [upd_nvm]
  repeat' first
    | with_reducible assumption
    | with_reducible refine putNvm_keeps (not_mem_of_subset hk ?_) ?_
    | with_reducible refine ite_keeps ?_ ?_
    | with_reducible refine foldl_keeps ?_ (fun t a h => ?_)
    | dsimp -proj only
    | split
    | decide

theorem modSnap_keeps {k : Comp} {s x : State} {a0 a1 a2} (hk : k ∉ [.lanes]) (h : k.same s x) :
    k.same s (modSnap x a0 a1 a2) := by
  unfold modSnap
  repeat' first
    | with_reducible assumption
    | with_reducible refine modLane_keeps (not_mem_of_subset hk ?_) ?_
    | with_reducible refine ite_keeps ?_ ?_
    | with_reducible refine foldl_keeps ?_ (fun t a h => ?_)
    | dsimp -proj only
    | split
    | decide

theorem writeLnsnap_keeps {k : Comp} {s x : State} {a0 a1 a2 a3} (hk : k ∉ [.lanes]) (h : k.same s x) :
    k.same s (writeLnsnap x a0 a1 a2 a3) := by
  unfold writeLnsnap
  repeat' first
    | with_reducible assumption
    | with_reducible refine modSnap_keeps (not_mem_of_subset hk ?_) ?_
    | with_reducible refine ite_keeps ?_ ?_
    | with_reducible refine foldl_keeps ?_ (fun t a h => ?_)
    | dsimp -proj only
    | split
    | decide

theorem modWin_keeps {k : Comp} {s x : State} {a0 a1} (hk : k ∉ [.win]) (h : k.same s x) :
    k.same s (modWin x a0 a1) := by
  unfold modWin
  try dsimp -zeta -proj only [upd_win]
  repeat' first
    | with_reducible assumption
    | with_reducible refine putWin_keeps (not_mem_of_subset hk ?_) ?_
    | with_reducible refine ite_keeps ?_ ?_
    | with_reducible refine foldl_keeps ?_ (fun t a h => ?_)
    | dsimp -proj only
    | split
    | decide

theorem writeEntry_keeps {k : Comp} {s x : State} {a0 a1 a2 a3 a4} (hk : k ∉ [.evt, .store, .win, .nvm]) (h : k.same s x) :
    k.same s (writeEntry x a0 a1 a2 a3 a4) := by
  unfold writeEntry
  repeat' first
    | with_reducible assumption
    | with_reducible refine logEvent_keeps (not_mem_of_subset hk ?_) ?_
    | with_reducible refine setWinEntry_keeps (not_mem_of_subset hk ?_) ?_
    | with_reducible refine modWin_keeps (not_mem_of_subset hk ?_) ?_
    | with_reducible refine ite_keeps ?_ ?_
    | with_reducible refine foldl_keeps ?_ (fun t a h => ?_)
    | dsimp -proj only
    | split
    | decide

theorem writeCqbase_keeps {k : Comp} {s x : State} {a0 a1} (hk : k ∉ [.cqs]) (h : k.same s x) :
    k.same s (writeCqbase x a0 a1) := by
  unfold writeCqbase
  repeat' first
    | with_reducible assumption
    | with_reducible refine modCq_keeps (not_mem_of_subset hk ?_) ?_
    | with_reducible refine ite_keeps ?_ ?_
    | with_reducible refine foldl_keeps ?_ (fun t a h => ?_)
    | dsimp -proj only
    | split
    | decide

theorem writeLntxdrv_keeps {k : Comp} {s x : State} {a0 a1 a2} (hk : k ∉ [.lanes]) (h : k.same s x) :
    k.same s (writeLntxdrv x a0 a1 a2) := by
  unfold writeLntxdrv
  repeat' first
    | with_reducible assumption
    | with_reducible refine modTx_keeps (not_mem_of_subset hk ?_) ?_
    | with_reducible refine ite_keeps ?_ ?_
    | with_reducible refine foldl_keeps ?_ (fun t a h => ?_)
    | dsimp -proj only
    | split
    | decide

theorem writeNvmstat_keeps {k : Comp} {s x : State} {a0} (hk : k ∉ [.nvm]) (h : k.same s x) :
    k.same s (writeNvmstat x a0) := by
  unfold writeNvmstat
  try dsimp -zeta -proj only [upd_nvm]
  repeat' first
    | with_reducible assumption
    | with_reducible refine putNvm_keeps (not_mem_of_subset hk ?_) ?_
    | with_reducible refine ite_keeps ?_ ?_
    | with_reducible refine foldl_keeps ?_ (fun t a h => ?_)
    | dsimp -proj only
    | split
    | decide

theorem writeLnsymcntHi_keeps {k : Comp} {s x : State} {a0 a1 a2} (hk : k ∉ [.lanes]) (h : k.same s x) :
    k.same s (writeLnsymcntHi x a0 a1 a2) := by
  unfold writeLnsymcntHi
  repeat' first
    | with_reducible assumption
    | with_reducible refine modMeas_keeps (not_mem_of_subset hk ?_) ?_
    | with_reducible refine ite_keeps ?_ ?_
    | with_reducible refine foldl_keeps ?_ (fun t a h => ?_)
    | dsimp -proj only
    | split
    | decide

theorem seedGen_keeps {k : Comp} {s x : State} {a0 a1} (hk : k ∉ [.lanes, .free]) (h : k.same s x) :
    k.same s (seedGen x a0 a1) := by
  unfold seedGen
  repeat' first
    | with_reducible assumption
    | with_reducible refine useFree_keeps (not_mem_of_subset hk ?_) ?_
    | with_reducible refine useFree_keeps_eq (not_mem_of_subset hk ?_) ?_ (by with_reducible assumption)
    | with_reducible refine modMeas_keeps (not_mem_of_subset hk ?_) ?_
    | with_reducible refine ite_keeps ?_ ?_
    | with_reducible refine foldl_keeps ?_ (fun t a h => ?_)
    | dsimp -proj only
    | split
    | decide

theorem writeLnprbs_keeps {k : Comp} {s x : State} {a0 a1 a2} (hk : k ∉ [.lanes, .links, .units, .free]) (h : k.same s x) :
    k.same s (writeLnprbs x a0 a1 a2) := by
  unfold writeLnprbs
  repeat' first
    | with_reducible assumption
    | with_reducible refine coolIdle_keeps (not_mem_of_subset hk ?_) ?_
    | with_reducible refine seedGen_keeps (not_mem_of_subset hk ?_) ?_
    | with_reducible refine holdStarts_keeps (not_mem_of_subset hk ?_) ?_
    | with_reducible refine modMeas_keeps (not_mem_of_subset hk ?_) ?_
    | with_reducible refine ite_keeps ?_ ?_
    | with_reducible refine foldl_keeps ?_ (fun t a h => ?_)
    | dsimp -proj only
    | split
    | decide

theorem writeDtrate_keeps {k : Comp} {s x : State} {a0} (hk : k ∉ [.time]) (h : k.same s x) :
    k.same s (writeDtrate x a0) := by
  unfold writeDtrate
  try dsimp -zeta -proj only [upd_time]
  repeat' first
    | with_reducible assumption
    | with_reducible refine putTime_keeps (not_mem_of_subset hk ?_) ?_
    | with_reducible refine ite_keeps ?_ ?_
    | with_reducible refine foldl_keeps ?_ (fun t a h => ?_)
    | dsimp -proj only
    | split
    | decide

theorem writeCtxstat_keeps {k : Comp} {s x : State} {a0} (hk : k ∉ [.sched]) (h : k.same s x) :
    k.same s (writeCtxstat x a0) := by
  unfold writeCtxstat
  try dsimp -zeta -proj only [upd_sched]
  repeat' first
    | with_reducible assumption
    | with_reducible refine putSched_keeps (not_mem_of_subset hk ?_) ?_
    | with_reducible refine ite_keeps ?_ ?_
    | with_reducible refine foldl_keeps ?_ (fun t a h => ?_)
    | dsimp -proj only
    | split
    | decide

theorem queueErrorRecord_keeps {k : Comp} {s x : State} {a0 a1 a2 a3 a4} (hk : k ∉ [.evt, .heel, .store, .win, .wqs, .cqs, .nvm]) (h : k.same s x) :
    k.same s (queueErrorRecord x a0 a1 a2 a3 a4) := by
  unfold queueErrorRecord
  repeat' first
    | with_reducible assumption
    | with_reducible refine pushDue_keeps (not_mem_of_subset hk ?_) ?_
    | with_reducible refine ite_keeps ?_ ?_
    | with_reducible refine foldl_keeps ?_ (fun t a h => ?_)
    | dsimp -proj only
    | split
    | decide

theorem wqError_keeps {k : Comp} {s x : State} {a0 a1 a2 a3} (hk : k ∉ [.wqs]) (h : k.same s x) :
    k.same s (wqError x a0 a1 a2 a3) := by
  unfold wqError
  repeat' first
    | with_reducible assumption
    | with_reducible refine modWq_keeps (not_mem_of_subset hk ?_) ?_
    | with_reducible refine ite_keeps ?_ ?_
    | with_reducible refine foldl_keeps ?_ (fun t a h => ?_)
    | dsimp -proj only
    | split
    | decide

theorem doorbell_keeps {k : Comp} {s x : State} {a0 a1} (hk : k ∉ [.evt, .heel, .store, .win, .wqs, .cqs, .nvm]) (h : k.same s x) :
    k.same s (doorbell x a0 a1) := by
  unfold doorbell
  repeat' first
    | with_reducible assumption
    | with_reducible refine modWq_keeps (not_mem_of_subset hk ?_) ?_
    | with_reducible refine queueErrorRecord_keeps (not_mem_of_subset hk ?_) ?_
    | with_reducible refine wqError_keeps (not_mem_of_subset hk ?_) ?_
    | with_reducible refine ite_keeps ?_ ?_
    | with_reducible refine foldl_keeps ?_ (fun t a h => ?_)
    | dsimp -proj only
    | split
    | decide

theorem writeWinerr_keeps {k : Comp} {s x : State} {a0 a1} (hk : k ∉ [.win]) (h : k.same s x) :
    k.same s (writeWinerr x a0 a1) := by
  unfold writeWinerr
  repeat' first
    | with_reducible assumption
    | with_reducible refine modWin_keeps (not_mem_of_subset hk ?_) ?_
    | with_reducible refine ite_keeps ?_ ?_
    | with_reducible refine foldl_keeps ?_ (fun t a h => ?_)
    | dsimp -proj only
    | split
    | decide

theorem writeWinctl_keeps {k : Comp} {s x : State} {a0 a1} (hk : k ∉ [.win]) (h : k.same s x) :
    k.same s (writeWinctl x a0 a1) := by
  unfold writeWinctl
  repeat' first
    | with_reducible assumption
    | with_reducible refine modWin_keeps (not_mem_of_subset hk ?_) ?_
    | with_reducible refine ite_keeps ?_ ?_
    | with_reducible refine foldl_keeps ?_ (fun t a h => ?_)
    | dsimp -proj only
    | split
    | decide

theorem modSeqr_keeps {k : Comp} {s x : State} {a0 a1} (hk : k ∉ [.tm]) (h : k.same s x) :
    k.same s (modSeqr x a0 a1) := by
  unfold modSeqr
  try dsimp -zeta -proj only [upd_tm]
  repeat' first
    | with_reducible assumption
    | with_reducible refine putTm_keeps (not_mem_of_subset hk ?_) ?_
    | with_reducible refine ite_keeps ?_ ?_
    | with_reducible refine foldl_keeps ?_ (fun t a h => ?_)
    | dsimp -proj only
    | split
    | decide

theorem writeTmseqctl_keeps {k : Comp} {s x : State} {a0 a1} (hk : k ∉ [.tm]) (h : k.same s x) :
    k.same s (writeTmseqctl x a0 a1) := by
  unfold writeTmseqctl
  repeat' first
    | with_reducible assumption
    | with_reducible refine modSeqr_keeps (not_mem_of_subset hk ?_) ?_
    | with_reducible refine ite_keeps ?_ ?_
    | with_reducible refine foldl_keeps ?_ (fun t a h => ?_)
    | dsimp -proj only
    | split
    | decide

theorem writeHeld_keeps {k : Comp} {s x : State} {a0} (hk : k ∉ [.evt, .heel, .store, .win, .wqs, .cqs, .nvm]) (h : k.same s x) :
    k.same s (writeHeld x a0) := by
  unfold writeHeld
  repeat' first
    | with_reducible assumption
    | with_reducible refine modWq_keeps (not_mem_of_subset hk ?_) ?_
    | with_reducible refine ringWrite_keeps (not_mem_of_subset hk ?_) ?_
    | with_reducible refine ringWrite_keeps_eq (not_mem_of_subset hk ?_) ?_ (by with_reducible assumption)
    | with_reducible refine ite_keeps ?_ ?_
    | with_reducible refine foldl_keeps ?_ (fun t a h => ?_)
    | dsimp -proj only
    | split
    | decide

theorem enableCq_keeps {k : Comp} {s x : State} {a0} (hk : k ∉ [.evt, .heel, .store, .win, .wqs, .cqs, .nvm]) (h : k.same s x) :
    k.same s (enableCq x a0) := by
  unfold enableCq
  repeat' first
    | with_reducible assumption
    | with_reducible refine writeHeld_keeps (not_mem_of_subset hk ?_) ?_
    | with_reducible refine modCq_keeps (not_mem_of_subset hk ?_) ?_
    | with_reducible refine ite_keeps ?_ ?_
    | with_reducible refine foldl_keeps ?_ (fun t a h => ?_)
    | dsimp -proj only
    | split
    | decide

theorem disableCq_keeps {k : Comp} {s x : State} {a0} (hk : k ∉ [.evt, .heel, .store, .win, .wqs, .cqs, .nvm]) (h : k.same s x) :
    k.same s (disableCq x a0) := by
  unfold disableCq
  repeat' first
    | with_reducible assumption
    | with_reducible refine flushDue_keeps (not_mem_of_subset hk ?_) ?_
    | with_reducible refine modCq_keeps (not_mem_of_subset hk ?_) ?_
    | with_reducible refine ite_keeps ?_ ?_
    | with_reducible refine foldl_keeps ?_ (fun t a h => ?_)
    | dsimp -proj only
    | split
    | decide

theorem writeCqctl_keeps {k : Comp} {s x : State} {a0 a1} (hk : k ∉ [.evt, .heel, .store, .win, .wqs, .cqs, .nvm]) (h : k.same s x) :
    k.same s (writeCqctl x a0 a1) := by
  unfold writeCqctl
  repeat' first
    | with_reducible assumption
    | with_reducible refine enableCq_keeps (not_mem_of_subset hk ?_) ?_
    | with_reducible refine disableCq_keeps (not_mem_of_subset hk ?_) ?_
    | with_reducible refine modCq_keeps (not_mem_of_subset hk ?_) ?_
    | with_reducible refine ite_keeps ?_ ?_
    | with_reducible refine foldl_keeps ?_ (fun t a h => ?_)
    | dsimp -proj only
    | split
    | decide

theorem modRxs_keeps {k : Comp} {s x : State} {a0 a1 a2} (hk : k ∉ [.lanes]) (h : k.same s x) :
    k.same s (modRxs x a0 a1 a2) := by
  unfold modRxs
  repeat' first
    | with_reducible assumption
    | with_reducible refine modRx_keeps (not_mem_of_subset hk ?_) ?_
    | with_reducible refine ite_keeps ?_ ?_
    | with_reducible refine foldl_keeps ?_ (fun t a h => ?_)
    | dsimp -proj only
    | split
    | decide

theorem recentreNow_keeps {k : Comp} {s x : State} {a0 a1 a2 a3} (hk : k ∉ [.evt, .lanes, .store, .nvm]) (h : k.same s x) :
    k.same s (recentreNow x a0 a1 a2 a3) := by
  unfold recentreNow
  repeat' first
    | with_reducible assumption
    | with_reducible refine modRxs_keeps (not_mem_of_subset hk ?_) ?_
    | with_reducible refine logL_keeps (not_mem_of_subset hk ?_) ?_
    | with_reducible refine ite_keeps ?_ ?_
    | with_reducible refine foldl_keeps ?_ (fun t a h => ?_)
    | dsimp -proj only
    | split
    | decide

theorem ebLimits_keeps {k : Comp} {s x : State} {a0 a1} (hk : k ∉ [.evt, .lanes, .store, .nvm]) (h : k.same s x) :
    k.same s (ebLimits x a0 a1) := by
  unfold ebLimits
  repeat' first
    | with_reducible assumption
    | with_reducible refine recentreNow_keeps (not_mem_of_subset hk ?_) ?_
    | with_reducible refine modRx_keeps (not_mem_of_subset hk ?_) ?_
    | with_reducible refine ite_keeps ?_ ?_
    | with_reducible refine foldl_keeps ?_ (fun t a h => ?_)
    | dsimp -proj only
    | split
    | decide

theorem recentre_keeps {k : Comp} {s x : State} {a0 a1} (hk : k ∉ [.evt, .lanes, .store, .nvm]) (h : k.same s x) :
    k.same s (recentre x a0 a1) := by
  unfold recentre
  repeat' first
    | with_reducible assumption
    | with_reducible refine ebLimits_keeps (not_mem_of_subset hk ?_) ?_
    | with_reducible refine modRx_keeps (not_mem_of_subset hk ?_) ?_
    | with_reducible refine ite_keeps ?_ ?_
    | with_reducible refine foldl_keeps ?_ (fun t a h => ?_)
    | dsimp -proj only
    | split
    | decide

theorem bitslip_keeps {k : Comp} {s x : State} {a0 a1} (hk : k ∉ [.lanes]) (h : k.same s x) :
    k.same s (bitslip x a0 a1) := by
  unfold bitslip
  repeat' first
    | with_reducible assumption
    | with_reducible refine modRx_keeps (not_mem_of_subset hk ?_) ?_
    | with_reducible refine ite_keeps ?_ ?_
    | with_reducible refine foldl_keeps ?_ (fun t a h => ?_)
    | dsimp -proj only
    | split
    | decide

theorem writeLnctl_keeps {k : Comp} {s x : State} {a0 a1 a2} (hk : k ∉ [.evt, .lanes, .store, .nvm]) (h : k.same s x) :
    k.same s (writeLnctl x a0 a1 a2) := by
  unfold writeLnctl
  repeat' first
    | with_reducible assumption
    | with_reducible refine recentre_keeps (not_mem_of_subset hk ?_) ?_
    | with_reducible refine modRx_keeps (not_mem_of_subset hk ?_) ?_
    | with_reducible refine bitslip_keeps (not_mem_of_subset hk ?_) ?_
    | with_reducible refine ite_keeps ?_ ?_
    | with_reducible refine foldl_keeps ?_ (fun t a h => ?_)
    | dsimp -proj only
    | split
    | decide

theorem writeCalstat_keeps {k : Comp} {s x : State} {a0} (hk : k ∉ [.cal]) (h : k.same s x) :
    k.same s (writeCalstat x a0) := by
  unfold writeCalstat
  try dsimp -zeta -proj only [upd_cal]
  repeat' first
    | with_reducible assumption
    | with_reducible refine putCal_keeps (not_mem_of_subset hk ?_) ?_
    | with_reducible refine ite_keeps ?_ ?_
    | with_reducible refine foldl_keeps ?_ (fun t a h => ?_)
    | dsimp -proj only
    | split
    | decide

theorem writeStorestat_keeps {k : Comp} {s x : State} {a0} (hk : k ∉ [.store]) (h : k.same s x) :
    k.same s (writeStorestat x a0) := by
  unfold writeStorestat
  try dsimp -zeta -proj only [upd_store]
  repeat' first
    | with_reducible assumption
    | with_reducible refine putStore_keeps (not_mem_of_subset hk ?_) ?_
    | with_reducible refine ite_keeps ?_ ?_
    | with_reducible refine foldl_keeps ?_ (fun t a h => ?_)
    | dsimp -proj only
    | split
    | decide

theorem writeTwbctl_keeps {k : Comp} {s x : State} {a0} (hk : k ∉ [.twb]) (h : k.same s x) :
    k.same s (writeTwbctl x a0) := by
  unfold writeTwbctl
  try dsimp -zeta -proj only [upd_twb]
  repeat' first
    | with_reducible assumption
    | with_reducible refine putTwb_keeps (not_mem_of_subset hk ?_) ?_
    | with_reducible refine ite_keeps ?_ ?_
    | with_reducible refine foldl_keeps ?_ (fun t a h => ?_)
    | dsimp -proj only
    | split
    | decide

theorem writeLncal_keeps {k : Comp} {s x : State} {a0 a1 a2} (hk : k ∉ [.lanes]) (h : k.same s x) :
    k.same s (writeLncal x a0 a1 a2) := by
  unfold writeLncal
  repeat' first
    | with_reducible assumption
    | with_reducible refine modCal_keeps (not_mem_of_subset hk ?_) ?_
    | with_reducible refine ite_keeps ?_ ?_
    | with_reducible refine foldl_keeps ?_ (fun t a h => ?_)
    | dsimp -proj only
    | split
    | decide

theorem writeLnscan_keeps {k : Comp} {s x : State} {a0 a1 a2} (hk : k ∉ [.lanes]) (h : k.same s x) :
    k.same s (writeLnscan x a0 a1 a2) := by
  unfold writeLnscan
  repeat' first
    | with_reducible assumption
    | with_reducible refine modMeas_keeps (not_mem_of_subset hk ?_) ?_
    | with_reducible refine ite_keeps ?_ ?_
    | with_reducible refine foldl_keeps ?_ (fun t a h => ?_)
    | dsimp -proj only
    | split
    | decide

theorem writeWqstat_keeps {k : Comp} {s x : State} {a0 a1} (hk : k ∉ [.wqs]) (h : k.same s x) :
    k.same s (writeWqstat x a0 a1) := by
  unfold writeWqstat
  repeat' first
    | with_reducible assumption
    | with_reducible refine modWq_keeps (not_mem_of_subset hk ?_) ?_
    | with_reducible refine ite_keeps ?_ ?_
    | with_reducible refine foldl_keeps ?_ (fun t a h => ?_)
    | dsimp -proj only
    | split
    | decide

theorem writeCqstat_keeps {k : Comp} {s x : State} {a0 a1} (hk : k ∉ [.cqs]) (h : k.same s x) :
    k.same s (writeCqstat x a0 a1) := by
  unfold writeCqstat
  repeat' first
    | with_reducible assumption
    | with_reducible refine modCq_keeps (not_mem_of_subset hk ?_) ?_
    | with_reducible refine ite_keeps ?_ ?_
    | with_reducible refine foldl_keeps ?_ (fun t a h => ?_)
    | dsimp -proj only
    | split
    | decide

theorem writeImcctl_keeps {k : Comp} {s x : State} {a0} (hk : k ∉ [.imc]) (h : k.same s x) :
    k.same s (writeImcctl x a0) := by
  unfold writeImcctl
  try dsimp -zeta -proj only [upd_imc]
  repeat' first
    | with_reducible assumption
    | with_reducible refine putImc_keeps (not_mem_of_subset hk ?_) ?_
    | with_reducible refine ite_keeps ?_ ?_
    | with_reducible refine foldl_keeps ?_ (fun t a h => ?_)
    | dsimp -proj only
    | split
    | decide

theorem loadNow_keeps {k : Comp} {s x : State} (hk : k ∉ [.evt, .store, .nvm, .time]) (h : k.same s x) :
    k.same s (loadNow x) := by
  unfold loadNow
  try dsimp -zeta -proj only [upd_time]
  repeat' first
    | with_reducible assumption
    | with_reducible refine loadTime_keeps (not_mem_of_subset hk ?_) ?_
    | with_reducible refine putTime_keeps (not_mem_of_subset hk ?_) ?_
    | with_reducible refine ite_keeps ?_ ?_
    | with_reducible refine foldl_keeps ?_ (fun t a h => ?_)
    | dsimp -proj only
    | split
    | decide

theorem writeSyncctl_keeps {k : Comp} {s x : State} {a0} (hk : k ∉ [.evt, .store, .nvm, .time]) (h : k.same s x) :
    k.same s (writeSyncctl x a0) := by
  unfold writeSyncctl
  try dsimp -zeta -proj only [upd_time]
  repeat' first
    | with_reducible assumption
    | with_reducible refine loadNow_keeps (not_mem_of_subset hk ?_) ?_
    | with_reducible refine putTime_keeps (not_mem_of_subset hk ?_) ?_
    | with_reducible refine ite_keeps ?_ ?_
    | with_reducible refine foldl_keeps ?_ (fun t a h => ?_)
    | dsimp -proj only
    | split
    | decide

theorem writeReg_keeps {k : Comp} {s x : State} {a0 a1 a2} (hk : k ∉ [.power, .boot, .dev, .welt, .therm, .evt, .heel, .lanes, .links, .last, .store, .win, .twb, .imc, .wqs, .cqs, .units, .slots, .sched, .awl, .nvm, .tm, .time, .cal, .free]) (h : k.same s x) :
    k.same s (writeReg x a0 a1 a2) := by
  unfold writeReg
  try dsimp -zeta -proj only [upd_nvm]
  repeat' first
    | with_reducible assumption
    | with_reducible refine writeDtload_keeps (not_mem_of_subset hk ?_) ?_
    | with_reducible refine writeLneq_keeps (not_mem_of_subset hk ?_) ?_
    | with_reducible refine writeEvtmask_keeps (not_mem_of_subset hk ?_) ?_
    | with_reducible refine writeDevctl_keeps (not_mem_of_subset hk ?_) ?_
    | with_reducible refine awlCommand_keeps (not_mem_of_subset hk ?_) ?_
    | with_reducible refine writeCqhead_keeps (not_mem_of_subset hk ?_) ?_
    | with_reducible refine writeLnstat_keeps (not_mem_of_subset hk ?_) ?_
    | with_reducible refine writeLnloop_keeps (not_mem_of_subset hk ?_) ?_
    | with_reducible refine writeLnkloss_keeps (not_mem_of_subset hk ?_) ?_
    | with_reducible refine writeTmstat_keeps (not_mem_of_subset hk ?_) ?_
    | with_reducible refine writeWqhdr_keeps (not_mem_of_subset hk ?_) ?_
    | with_reducible refine writeAttnsrc_keeps (not_mem_of_subset hk ?_) ?_
    | with_reducible refine writeLnkspcmd_keeps (not_mem_of_subset hk ?_) ?_
    | with_reducible refine writeLastcmd_keeps (not_mem_of_subset hk ?_) ?_
    | with_reducible refine writeCalcmd_keeps (not_mem_of_subset hk ?_) ?_
    | with_reducible refine clearFaults_keeps (not_mem_of_subset hk ?_) ?_
    | with_reducible refine writeWqctl_keeps (not_mem_of_subset hk ?_) ?_
    | with_reducible refine writeTwbstat_keeps (not_mem_of_subset hk ?_) ?_
    | with_reducible refine writeTmthresh_keeps (not_mem_of_subset hk ?_) ?_
    | with_reducible refine writeLnkctl_keeps (not_mem_of_subset hk ?_) ?_
    | with_reducible refine writeNvmctl_keeps (not_mem_of_subset hk ?_) ?_
    | with_reducible refine writeLnsnap_keeps (not_mem_of_subset hk ?_) ?_
    | with_reducible refine writeEntry_keeps (not_mem_of_subset hk ?_) ?_
    | with_reducible refine writeCqbase_keeps (not_mem_of_subset hk ?_) ?_
    | with_reducible refine writeLntxdrv_keeps (not_mem_of_subset hk ?_) ?_
    | with_reducible refine writeNvmstat_keeps (not_mem_of_subset hk ?_) ?_
    | with_reducible refine writeLnsymcntHi_keeps (not_mem_of_subset hk ?_) ?_
    | with_reducible refine writeLnprbs_keeps (not_mem_of_subset hk ?_) ?_
    | with_reducible refine writeDtrate_keeps (not_mem_of_subset hk ?_) ?_
    | with_reducible refine writeCtxstat_keeps (not_mem_of_subset hk ?_) ?_
    | with_reducible refine doorbell_keeps (not_mem_of_subset hk ?_) ?_
    | with_reducible refine writeWinerr_keeps (not_mem_of_subset hk ?_) ?_
    | with_reducible refine writeWinctl_keeps (not_mem_of_subset hk ?_) ?_
    | with_reducible refine writeTmseqctl_keeps (not_mem_of_subset hk ?_) ?_
    | with_reducible refine writeCqctl_keeps (not_mem_of_subset hk ?_) ?_
    | with_reducible refine writeLnctl_keeps (not_mem_of_subset hk ?_) ?_
    | with_reducible refine writeCalstat_keeps (not_mem_of_subset hk ?_) ?_
    | with_reducible refine writeStorestat_keeps (not_mem_of_subset hk ?_) ?_
    | with_reducible refine writeTwbctl_keeps (not_mem_of_subset hk ?_) ?_
    | with_reducible refine writeLncal_keeps (not_mem_of_subset hk ?_) ?_
    | with_reducible refine writeLnscan_keeps (not_mem_of_subset hk ?_) ?_
    | with_reducible refine modMeas_keeps (not_mem_of_subset hk ?_) ?_
    | with_reducible refine writeWqstat_keeps (not_mem_of_subset hk ?_) ?_
    | with_reducible refine writeCqstat_keeps (not_mem_of_subset hk ?_) ?_
    | with_reducible refine writeImcctl_keeps (not_mem_of_subset hk ?_) ?_
    | with_reducible refine writeSyncctl_keeps (not_mem_of_subset hk ?_) ?_
    | with_reducible refine putNvm_keeps (not_mem_of_subset hk ?_) ?_
    | with_reducible refine ite_keeps ?_ ?_
    | with_reducible refine foldl_keeps ?_ (fun t a h => ?_)
    | dsimp -proj only
    | split
    | decide

theorem storeWriteVa_keeps {k : Comp} {s x : State} {a0 a1 a2} (hk : k ∉ [.evt, .heel, .store, .win, .nvm]) (h : k.same s x) :
    k.same s (storeWriteVa x a0 a1 a2) := by
  unfold storeWriteVa
  repeat' first
    | with_reducible assumption
    | with_reducible refine storeWrite_keeps (not_mem_of_subset hk ?_) ?_
    | with_reducible refine winFault_keeps (not_mem_of_subset hk ?_) ?_
    | with_reducible refine ite_keeps ?_ ?_
    | with_reducible refine foldl_keeps ?_ (fun t a h => ?_)
    | dsimp -proj only
    | split
    | decide

theorem writeOpen_keeps {k : Comp} {s x : State} {a0 a1 a2} (hk : k ∉ [.power, .boot, .dev, .welt, .therm, .evt, .heel, .lanes, .links, .last, .store, .win, .twb, .imc, .wqs, .cqs, .units, .slots, .sched, .awl, .nvm, .tm, .time, .cal, .free]) (h : k.same s x) :
    k.same s (writeOpen x a0 a1 a2) := by
  unfold writeOpen
  repeat' first
    | with_reducible assumption
    | with_reducible refine writeReg_keeps (not_mem_of_subset hk ?_) ?_
    | with_reducible refine logIslandOff_keeps (not_mem_of_subset hk ?_) ?_
    | with_reducible refine storeWrite_keeps (not_mem_of_subset hk ?_) ?_
    | with_reducible refine storeWriteVa_keeps (not_mem_of_subset hk ?_) ?_
    | with_reducible refine ite_keeps ?_ ?_
    | with_reducible refine foldl_keeps ?_ (fun t a h => ?_)
    | dsimp -proj only
    | split
    | decide

theorem accessWrite_keeps {k : Comp} {s x : State} {a0 a1 a2} (hk : k ∉ [.power, .boot, .dev, .welt, .therm, .evt, .heel, .lanes, .links, .last, .store, .win, .twb, .imc, .wqs, .cqs, .units, .slots, .sched, .awl, .nvm, .tm, .time, .cal, .free]) (h : k.same s x) :
    k.same s (accessWrite x a0 a1 a2) := by
  unfold accessWrite
  repeat' first
    | with_reducible assumption
    | with_reducible refine writeOpen_keeps (not_mem_of_subset hk ?_) ?_
    | with_reducible refine logDenied_keeps (not_mem_of_subset hk ?_) ?_
    | with_reducible refine ite_keeps ?_ ?_
    | with_reducible refine foldl_keeps ?_ (fun t a h => ?_)
    | dsimp -proj only
    | split
    | decide

theorem busWrite_keeps {k : Comp} {s x : State} {a0 a1 a2} (hk : k ∉ [.power, .boot, .dev, .welt, .therm, .evt, .heel, .lanes, .links, .last, .store, .win, .twb, .imc, .wqs, .cqs, .units, .slots, .sched, .awl, .nvm, .tm, .time, .cal, .free]) (h : k.same s x) :
    k.same s (busWrite x a0 a1 a2) := by
  unfold busWrite
  repeat' first
    | with_reducible assumption
    | with_reducible refine accessWrite_keeps (not_mem_of_subset hk ?_) ?_
    | with_reducible refine ite_keeps ?_ ?_
    | with_reducible refine foldl_keeps ?_ (fun t a h => ?_)
    | dsimp -proj only
    | split
    | decide

theorem writeTo_keeps {k : Comp} {s x : State} {a0 a1 a2} (hk : k ∉ [.power, .boot, .dev, .welt, .therm, .evt, .heel, .lanes, .links, .last, .store, .win, .twb, .imc, .wqs, .cqs, .units, .slots, .sched, .awl, .nvm, .tm, .time, .cal, .free]) (h : k.same s x) :
    k.same s (writeTo x a0 a1 a2) := by
  unfold writeTo
  repeat' first
    | with_reducible assumption
    | with_reducible refine busWrite_keeps (not_mem_of_subset hk ?_) ?_
    | with_reducible refine ite_keeps ?_ ?_
    | with_reducible refine foldl_keeps ?_ (fun t a h => ?_)
    | dsimp -proj only
    | split
    | decide

theorem execLnkctlClrRetrains_keeps {k : Comp} {s x : State} {a0 a1 a2} (hk : k ∉ [.power, .boot, .dev, .welt, .therm, .evt, .heel, .lanes, .links, .last, .store, .win, .twb, .imc, .wqs, .cqs, .units, .slots, .sched, .awl, .nvm, .tm, .time, .cal, .free]) (h : k.same s x) :
    ∃ t, execLnkctlClrRetrains a0 a1 a2 x = .next t ∧ k.same s t := by
  unfold execLnkctlClrRetrains
  repeat' first
    | with_reducible assumption
    | with_reducible refine done_keeps (not_mem_of_subset hk ?_) ?_
    | with_reducible refine writeTo_keeps (not_mem_of_subset hk ?_) ?_
    | with_reducible refine ite_keeps ?_ ?_
    | with_reducible refine foldl_keeps ?_ (fun t a h => ?_)
    | dsimp -proj only
    | split
    | decide

theorem execLinkSwitchInstant_keeps {k : Comp} {s x : State} {a0} (hk : k ∉ [.power, .welt, .evt, .heel, .lanes, .links, .last, .store, .imc, .units, .nvm, .cal, .free]) (h : k.same s x) :
    ∃ t, execLinkSwitchInstant a0 x = .next t ∧ k.same s t := by
  unfold execLinkSwitchInstant
  repeat' first
    | with_reducible assumption
    | with_reducible refine done_keeps (not_mem_of_subset hk ?_) ?_
    | with_reducible refine setResult_keeps (not_mem_of_subset hk ?_) ?_
    | with_reducible refine switchLink_keeps (not_mem_of_subset hk ?_) ?_
    | with_reducible refine ite_keeps ?_ ?_
    | with_reducible refine foldl_keeps ?_ (fun t a h => ?_)
    | dsimp -proj only
    | split
    | decide

theorem noteCopy_keeps {k : Comp} {s x : State} {a0 a1} (hk : k ∉ [.lanes]) (h : k.same s x) :
    k.same s (noteCopy x a0 a1) := by
  unfold noteCopy
  repeat' first
    | with_reducible assumption
    | with_reducible refine modRx_keeps (not_mem_of_subset hk ?_) ?_
    | with_reducible refine ite_keeps ?_ ?_
    | with_reducible refine foldl_keeps ?_ (fun t a h => ?_)
    | dsimp -proj only
    | split
    | decide

theorem restOthers_keeps {k : Comp} {s x : State} {a0 a1} (hk : k ∉ [.welt, .evt, .lanes, .links, .last, .store, .units, .nvm]) (h : k.same s x) :
    k.same s (restOthers x a0 a1) := by
  unfold restOthers
  repeat' first
    | with_reducible assumption
    | with_reducible refine restSpare_keeps (not_mem_of_subset hk ?_) ?_
    | with_reducible refine ite_keeps ?_ ?_
    | with_reducible refine foldl_keeps ?_ (fun t a h => ?_)
    | dsimp -proj only
    | split
    | decide

theorem swapDone_keeps {k : Comp} {s x : State} {a0 a1} (hk : k ∉ [.power, .welt, .evt, .lanes, .links, .last, .store, .units, .nvm, .cal, .free]) (h : k.same s x) :
    k.same s (swapDone x a0 a1) := by
  unfold swapDone
  repeat' first
    | with_reducible assumption
    | with_reducible refine restSpare_keeps (not_mem_of_subset hk ?_) ?_
    | with_reducible refine modLink_keeps (not_mem_of_subset hk ?_) ?_
    | with_reducible refine serveWaiting_keeps (not_mem_of_subset hk ?_) ?_
    | with_reducible refine setSwapResult_keeps (not_mem_of_subset hk ?_) ?_
    | with_reducible refine logSwap_keeps (not_mem_of_subset hk ?_) ?_
    | with_reducible refine restOthers_keeps (not_mem_of_subset hk ?_) ?_
    | with_reducible refine setSpare_keeps (not_mem_of_subset hk ?_) ?_
    | with_reducible refine ite_keeps ?_ ?_
    | with_reducible refine foldl_keeps ?_ (fun t a h => ?_)
    | dsimp -proj only
    | split
    | decide

theorem swapAck_keeps {k : Comp} {s x : State} {a0 a1} (hk : k ∉ [.power, .welt, .evt, .lanes, .links, .last, .store, .units, .nvm, .cal, .free]) (h : k.same s x) :
    k.same s (swapAck x a0 a1) := by
  unfold swapAck
  repeat' first
    | with_reducible assumption
    | with_reducible refine swapDone_keeps (not_mem_of_subset hk ?_) ?_
    | with_reducible refine vacate_keeps (not_mem_of_subset hk ?_) ?_
    | with_reducible refine modLink_keeps (not_mem_of_subset hk ?_) ?_
    | with_reducible refine sendSpare_keeps (not_mem_of_subset hk ?_) ?_
    | with_reducible refine ite_keeps ?_ ?_
    | with_reducible refine foldl_keeps ?_ (fun t a h => ?_)
    | dsimp -proj only
    | split
    | decide

theorem lostPage_keeps {k : Comp} {s x : State} {a0 a1 a2 a3} (hk : k ∉ [.evt, .heel, .store, .win, .units, .nvm]) (h : k.same s x) :
    k.same s (lostPage x a0 a1 a2 a3) := by
  unfold lostPage
  repeat' first
    | with_reducible assumption
    | with_reducible refine unlockEntry_keeps (not_mem_of_subset hk ?_) ?_
    | with_reducible refine logEvent_keeps (not_mem_of_subset hk ?_) ?_
    | with_reducible refine finishJob_keeps (not_mem_of_subset hk ?_) ?_
    | with_reducible refine latchJob_keeps (not_mem_of_subset hk ?_) ?_
    | with_reducible refine endCapture_keeps (not_mem_of_subset hk ?_) ?_
    | with_reducible refine endCapture_keeps_eq (not_mem_of_subset hk ?_) ?_ (by with_reducible assumption)
    | with_reducible refine ite_keeps ?_ ?_
    | with_reducible refine foldl_keeps ?_ (fun t a h => ?_)
    | dsimp -proj only
    | split
    | decide

theorem capFlush_keeps {k : Comp} {s x : State} {a0} (hk : k ∉ [.evt, .heel, .store, .nvm]) (h : k.same s x) :
    k.same s (capFlush x a0).2.2 := by
  unfold capFlush
  repeat' first
    | with_reducible assumption
    | with_reducible refine jobWrite_keeps (not_mem_of_subset hk ?_) ?_
    | with_reducible refine jobWrite_keeps_eq (not_mem_of_subset hk ?_) ?_ (by with_reducible assumption)
    | with_reducible refine ite_keeps ?_ ?_
    | with_reducible refine foldl_keeps ?_ (fun t a h => ?_)
    | dsimp -proj only
    | split
    | decide

theorem capFlush_keeps_eq {k : Comp} {s x : State} {a0} {r q u} (hk : k ∉ [.evt, .heel, .store, .nvm]) (h : k.same s x) (e : capFlush x a0 = (r, q, u)) :
    k.same s u := by
  simpa only [e] using capFlush_keeps (s := s) (x := x) (a0 := a0) hk h

theorem capRow_keeps {k : Comp} {s x : State} {a0 a1} (hk : k ∉ [.evt, .heel, .store, .win, .units, .nvm]) (h : k.same s x) :
    k.same s (capRow x a0 a1) := by
  unfold capRow
  repeat' first
    | with_reducible assumption
    | with_reducible refine lostPage_keeps (not_mem_of_subset hk ?_) ?_
    | with_reducible refine capFlush_keeps (not_mem_of_subset hk ?_) ?_
    | with_reducible refine capFlush_keeps_eq (not_mem_of_subset hk ?_) ?_ (by with_reducible assumption)
    | with_reducible refine setUnit_keeps (not_mem_of_subset hk ?_) ?_
    | with_reducible refine ite_keeps ?_ ?_
    | with_reducible refine foldl_keeps ?_ (fun t a h => ?_)
    | dsimp -proj only
    | split
    | decide

theorem capFeed_keeps {k : Comp} {s x : State} {a0 a1 a2 a3} (hk : k ∉ [.evt, .heel, .store, .win, .units, .nvm]) (h : k.same s x) :
    k.same s (capFeed x a0 a1 a2 a3) := by
  unfold capFeed
  repeat' first
    | with_reducible assumption
    | with_reducible refine setUnit_keeps (not_mem_of_subset hk ?_) ?_
    | with_reducible refine capRow_keeps (not_mem_of_subset hk ?_) ?_
    | with_reducible refine ite_keeps ?_ ?_
    | with_reducible refine foldl_keeps ?_ (fun t a h => ?_)
    | dsimp -proj only
    | split
    | decide

theorem putSymbol_keeps {k : Comp} {s x : State} {a0 a1 a2 a3 a4} (hk : k ∉ [.evt, .heel, .lanes, .store, .win, .units, .nvm]) (h : k.same s x) :
    k.same s (putSymbol x a0 a1 a2 a3 a4) := by
  unfold putSymbol
  repeat' first
    | with_reducible assumption
    | with_reducible refine modTx_keeps (not_mem_of_subset hk ?_) ?_
    | with_reducible refine capFeed_keeps (not_mem_of_subset hk ?_) ?_
    | with_reducible refine ite_keeps ?_ ?_
    | with_reducible refine foldl_keeps ?_ (fun t a h => ?_)
    | dsimp -proj only
    | split
    | decide

theorem execCqEnable_keeps {k : Comp} {s x : State} {a0 a1 a2} (hk : k ∉ [.power, .boot, .dev, .welt, .therm, .evt, .heel, .lanes, .links, .last, .store, .win, .twb, .imc, .wqs, .cqs, .units, .slots, .sched, .awl, .nvm, .tm, .time, .cal, .free]) (h : k.same s x) :
    ∃ t, execCqEnable a0 a1 a2 x = .next t ∧ k.same s t := by
  unfold execCqEnable
  repeat' first
    | with_reducible assumption
    | with_reducible refine done_keeps (not_mem_of_subset hk ?_) ?_
    | with_reducible refine writeTo_keeps (not_mem_of_subset hk ?_) ?_
    | with_reducible refine ite_keeps ?_ ?_
    | with_reducible refine foldl_keeps ?_ (fun t a h => ?_)
    | dsimp -proj only
    | split
    | decide

theorem endEeprom_keeps {k : Comp} {s x : State} {a0} (hk : k ∉ [.boot]) (h : k.same s x) :
    k.same s (endEeprom x a0) := by
  unfold endEeprom
  try dsimp -zeta -proj only [upd_boot]
  repeat' first
    | with_reducible assumption
    | with_reducible refine putBoot_keeps (not_mem_of_subset hk ?_) ?_
    | with_reducible refine ite_keeps ?_ ?_
    | with_reducible refine foldl_keeps ?_ (fun t a h => ?_)
    | dsimp -proj only
    | split
    | decide

theorem eepromGrown_keeps {k : Comp} {s x : State} {a0} (hk : k ∉ [.boot]) (h : k.same s x) :
    k.same s (eepromGrown x a0) := by
  unfold eepromGrown
  try dsimp -zeta -proj only [upd_boot]
  repeat' first
    | with_reducible assumption
    | with_reducible refine endEeprom_keeps (not_mem_of_subset hk ?_) ?_
    | with_reducible refine putBoot_keeps (not_mem_of_subset hk ?_) ?_
    | with_reducible refine ite_keeps ?_ ?_
    | with_reducible refine foldl_keeps ?_ (fun t a h => ?_)
    | dsimp -proj only
    | split
    | decide

theorem eepromTransfer_keeps {k : Comp} {s x : State} {a0} (hk : k ∉ [.boot]) (h : k.same s x) :
    k.same s (eepromTransfer x a0) := by
  unfold eepromTransfer
  try dsimp -zeta -proj only [upd_boot]
  repeat' first
    | with_reducible assumption
    | with_reducible refine endEeprom_keeps (not_mem_of_subset hk ?_) ?_
    | with_reducible refine eepromGrown_keeps (not_mem_of_subset hk ?_) ?_
    | with_reducible refine putBoot_keeps (not_mem_of_subset hk ?_) ?_
    | with_reducible refine ite_keeps ?_ ?_
    | with_reducible refine foldl_keeps ?_ (fun t a h => ?_)
    | dsimp -proj only
    | split
    | decide

theorem execEepromTransfer_keeps {k : Comp} {s x : State} {a0} (hk : k ∉ [.boot, .evt, .heel, .lanes, .links, .store, .imc, .units, .nvm, .cal, .free]) (h : k.same s x) :
    ∃ t, execEepromTransfer a0 x = .next t ∧ k.same s t := by
  unfold execEepromTransfer
  repeat' first
    | with_reducible assumption
    | with_reducible refine done_keeps (not_mem_of_subset hk ?_) ?_
    | with_reducible refine eepromTransfer_keeps (not_mem_of_subset hk ?_) ?_
    | with_reducible refine ite_keeps ?_ ?_
    | with_reducible refine foldl_keeps ?_ (fun t a h => ?_)
    | dsimp -proj only
    | split
    | decide

theorem prbsSetUp_keeps {k : Comp} {s x : State} {a0 a1 a2} (hk : k ∉ [.lanes, .links, .units, .free]) (h : k.same s x) :
    k.same s (prbsSetUp x a0 a1 a2) := by
  unfold prbsSetUp
  repeat' first
    | with_reducible assumption
    | with_reducible refine finishWith_keeps (not_mem_of_subset hk ?_) ?_
    | with_reducible refine keepJob_keeps (not_mem_of_subset hk ?_) ?_
    | with_reducible refine silenceLoop_keeps (not_mem_of_subset hk ?_) ?_
    | with_reducible refine seedGen_keeps (not_mem_of_subset hk ?_) ?_
    | with_reducible refine holdStarts_keeps (not_mem_of_subset hk ?_) ?_
    | with_reducible refine modMeas_keeps (not_mem_of_subset hk ?_) ?_
    | with_reducible refine ite_keeps ?_ ?_
    | with_reducible refine foldl_keeps ?_ (fun t a h => ?_)
    | dsimp -proj only
    | split
    | decide

theorem execPrbsJob_keeps {k : Comp} {s x : State} {a0 a1} (hk : k ∉ [.evt, .heel, .lanes, .links, .store, .imc, .units, .nvm, .cal, .free]) (h : k.same s x) :
    ∃ t, execPrbsJob a0 a1 x = .next t ∧ k.same s t := by
  unfold execPrbsJob
  repeat' first
    | with_reducible assumption
    | with_reducible refine done_keeps (not_mem_of_subset hk ?_) ?_
    | with_reducible refine prbsSetUp_keeps (not_mem_of_subset hk ?_) ?_
    | with_reducible refine ite_keeps ?_ ?_
    | with_reducible refine foldl_keeps ?_ (fun t a h => ?_)
    | dsimp -proj only
    | split
    | decide

theorem endErase_keeps {k : Comp} {s x : State} {a0 a1} (hk : k ∉ [.evt, .store, .nvm]) (h : k.same s x) :
    k.same s (endErase x a0 a1) := by
  unfold endErase
  try dsimp -zeta -proj only [upd_nvm]
  repeat' first
    | with_reducible assumption
    | with_reducible refine logEvent_keeps (not_mem_of_subset hk ?_) ?_
    | with_reducible refine writeLog_keeps (not_mem_of_subset hk ?_) ?_
    | with_reducible refine putNvm_keeps (not_mem_of_subset hk ?_) ?_
    | with_reducible refine ite_keeps ?_ ?_
    | with_reducible refine foldl_keeps ?_ (fun t a h => ?_)
    | dsimp -proj only
    | split
    | decide

theorem beginLogErase_keeps {k : Comp} {s x : State} (hk : k ∉ [.nvm]) (h : k.same s x) :
    k.same s (beginLogErase x) := by
  unfold beginLogErase
  try dsimp -zeta -proj only [upd_nvm]
  repeat' first
    | with_reducible assumption
    | with_reducible refine logPut_keeps (not_mem_of_subset hk ?_) ?_
    | with_reducible refine markBegun_keeps (not_mem_of_subset hk ?_) ?_
    | with_reducible refine putNvm_keeps (not_mem_of_subset hk ?_) ?_
    | with_reducible refine ite_keeps ?_ ?_
    | with_reducible refine foldl_keeps ?_ (fun t a h => ?_)
    | dsimp -proj only
    | split
    | decide

theorem tendLog_keeps {k : Comp} {s x : State} (hk : k ∉ [.nvm]) (h : k.same s x) :
    k.same s (tendLog x) := by
  unfold tendLog
  repeat' first
    | with_reducible assumption
    | with_reducible refine beginLogErase_keeps (not_mem_of_subset hk ?_) ?_
    | with_reducible refine ite_keeps ?_ ?_
    | with_reducible refine foldl_keeps ?_ (fun t a h => ?_)
    | dsimp -proj only
    | split
    | decide

theorem sectorDone_keeps {k : Comp} {s x : State} {a0} (hk : k ∉ [.evt, .store, .units, .nvm]) (h : k.same s x) :
    k.same s (sectorDone x a0) := by
  unfold sectorDone
  try dsimp -zeta -proj only [upd_nvm]
  repeat' first
    | with_reducible assumption
    | with_reducible refine finishWith_keeps (not_mem_of_subset hk ?_) ?_
    | with_reducible refine endErase_keeps (not_mem_of_subset hk ?_) ?_
    | with_reducible refine keepJob_keeps (not_mem_of_subset hk ?_) ?_
    | with_reducible refine tendLog_keeps (not_mem_of_subset hk ?_) ?_
    | with_reducible refine beginErase_keeps (not_mem_of_subset hk ?_) ?_
    | with_reducible refine putNvm_keeps (not_mem_of_subset hk ?_) ?_
    | with_reducible refine ite_keeps ?_ ?_
    | with_reducible refine foldl_keeps ?_ (fun t a h => ?_)
    | dsimp -proj only
    | split
    | decide

theorem readAll_keeps {k : Comp} {s x : State} {a0} (hk : k ∉ [.nvm, .free]) (h : k.same s x) :
    k.same s (readAll a0 x).2 := by
  induction a0 generalizing x with
  | nil => exact h
  | cons u r ih => exact ih (readUnit_keeps (not_mem_of_subset hk (by decide)) h)

theorem readAll_keeps_eq {k : Comp} {s x : State} {a0} {r u} (hk : k ∉ [.nvm, .free]) (h : k.same s x) (e : readAll a0 x = (r, u)) :
    k.same s u := by
  simpa only [e] using readAll_keeps (s := s) (x := x) (a0 := a0) hk h

theorem jtagPins_keeps {k : Comp} {s x : State} (hk : k ∉ [.lanes, .twb]) (h : k.same s x) :
    k.same s (jtagPins x) := by
  unfold jtagPins
  try dsimp -zeta -proj only [upd_lanes, upd_twb]
  repeat' first
    | with_reducible assumption
    | with_reducible refine putLanes_keeps (not_mem_of_subset hk ?_) ?_
    | with_reducible refine putTwb_keeps (not_mem_of_subset hk ?_) ?_
    | with_reducible refine ite_keeps ?_ ?_
    | with_reducible refine foldl_keeps ?_ (fun t a h => ?_)
    | dsimp -proj only
    | split
    | decide

theorem modJtag_keeps {k : Comp} {s x : State} {a0} (hk : k ∉ [.jtag]) (h : k.same s x) :
    k.same s (modJtag x a0) := by
  unfold modJtag
  try dsimp -zeta -proj only [upd_jtag]
  repeat' first
    | with_reducible assumption
    | with_reducible refine putJtag_keeps (not_mem_of_subset hk ?_) ?_
    | with_reducible refine ite_keeps ?_ ?_
    | with_reducible refine foldl_keeps ?_ (fun t a h => ?_)
    | dsimp -proj only
    | split
    | decide

theorem jtagLoad_keeps {k : Comp} {s x : State} {a0} (hk : k ∉ [.lanes, .twb, .jtag]) (h : k.same s x) :
    k.same s (jtagLoad x a0) := by
  unfold jtagLoad
  repeat' first
    | with_reducible assumption
    | with_reducible refine jtagPins_keeps (not_mem_of_subset hk ?_) ?_
    | with_reducible refine modJtag_keeps (not_mem_of_subset hk ?_) ?_
    | with_reducible refine ite_keeps ?_ ?_
    | with_reducible refine foldl_keeps ?_ (fun t a h => ?_)
    | dsimp -proj only
    | split
    | decide

theorem captureCells_keeps {k : Comp} {s x : State} (hk : k ∉ [.jtag, .free]) (h : k.same s x) :
    k.same s (captureCells x) := by
  unfold captureCells
  repeat' first
    | with_reducible assumption
    | with_reducible refine useFree_keeps (not_mem_of_subset hk ?_) ?_
    | with_reducible refine useFree_keeps_eq (not_mem_of_subset hk ?_) ?_ (by with_reducible assumption)
    | with_reducible refine modJtag_keeps (not_mem_of_subset hk ?_) ?_
    | with_reducible refine ite_keeps ?_ ?_
    | with_reducible refine foldl_keeps ?_ (fun t a h => ?_)
    | dsimp -proj only
    | split
    | decide

theorem scanCells_keeps {k : Comp} {s x : State} {a0} (hk : k ∉ [.lanes, .twb, .jtag, .free]) (h : k.same s x) :
    k.same s (scanCells x a0) := by
  unfold scanCells
  repeat' first
    | with_reducible assumption
    | with_reducible refine jtagLoad_keeps (not_mem_of_subset hk ?_) ?_
    | with_reducible refine captureCells_keeps (not_mem_of_subset hk ?_) ?_
    | with_reducible refine useFree_keeps (not_mem_of_subset hk ?_) ?_
    | with_reducible refine useFree_keeps_eq (not_mem_of_subset hk ?_) ?_ (by with_reducible assumption)
    | with_reducible refine modJtag_keeps (not_mem_of_subset hk ?_) ?_
    | with_reducible refine ite_keeps ?_ ?_
    | with_reducible refine foldl_keeps ?_ (fun t a h => ?_)
    | dsimp -proj only
    | split
    | decide

theorem execJtagExtestTrain_keeps {k : Comp} {s x : State} (hk : k ∉ [.evt, .heel, .lanes, .links, .store, .twb, .imc, .jtag, .units, .nvm, .cal, .free]) (h : k.same s x) :
    ∃ t, execJtagExtestTrain x = .next t ∧ k.same s t := by
  unfold execJtagExtestTrain
  repeat' first
    | with_reducible assumption
    | with_reducible refine done_keeps (not_mem_of_subset hk ?_) ?_
    | with_reducible refine scanCells_keeps (not_mem_of_subset hk ?_) ?_
    | with_reducible refine ite_keeps ?_ ?_
    | with_reducible refine foldl_keeps ?_ (fun t a h => ?_)
    | dsimp -proj only
    | split
    | decide

theorem modTr_keeps {k : Comp} {s x : State} {a0 a1 a2} (hk : k ∉ [.links]) (h : k.same s x) :
    k.same s (modTr x a0 a1 a2) := by
  unfold modTr
  repeat' first
    | with_reducible assumption
    | with_reducible refine modLink_keeps (not_mem_of_subset hk ?_) ?_
    | with_reducible refine ite_keeps ?_ ?_
    | with_reducible refine foldl_keeps ?_ (fun t a h => ?_)
    | dsimp -proj only
    | split
    | decide

theorem enterActive_keeps {k : Comp} {s x : State} {a0} (hk : k ∉ [.evt, .links, .last, .store, .nvm]) (h : k.same s x) :
    k.same s (enterActive x a0) := by
  unfold enterActive
  repeat' first
    | with_reducible assumption
    | with_reducible refine setResult_keeps (not_mem_of_subset hk ?_) ?_
    | with_reducible refine modLink_keeps (not_mem_of_subset hk ?_) ?_
    | with_reducible refine checkRecovered_keeps (not_mem_of_subset hk ?_) ?_
    | with_reducible refine ite_keeps ?_ ?_
    | with_reducible refine foldl_keeps ?_ (fun t a h => ?_)
    | dsimp -proj only
    | split
    | decide

theorem linkSymbol_keeps {k : Comp} {s x : State} {a0 a1} (hk : k ∉ [.evt, .links, .last, .store, .nvm]) (h : k.same s x) :
    k.same s (linkSymbol x a0 a1) := by
  unfold linkSymbol
  repeat' first
    | with_reducible assumption
    | with_reducible refine modTr_keeps (not_mem_of_subset hk ?_) ?_
    | with_reducible refine enterActive_keeps (not_mem_of_subset hk ?_) ?_
    | with_reducible refine ite_keeps ?_ ?_
    | with_reducible refine foldl_keeps ?_ (fun t a h => ?_)
    | dsimp -proj only
    | split
    | decide

theorem setSent_keeps {k : Comp} {s x : State} {a0 a1 a2} (hk : k ∉ [.links]) (h : k.same s x) :
    k.same s (setSent x a0 a1 a2) := by
  unfold setSent
  repeat' first
    | with_reducible assumption
    | with_reducible refine modLink_keeps (not_mem_of_subset hk ?_) ?_
    | with_reducible refine ite_keeps ?_ ?_
    | with_reducible refine foldl_keeps ?_ (fun t a h => ?_)
    | dsimp -proj only
    | split
    | decide

theorem noteNak_keeps {k : Comp} {s x : State} {a0} (hk : k ∉ [.imc]) (h : k.same s x) :
    k.same s (noteNak x a0) := by
  unfold noteNak
  try dsimp -zeta -proj only [upd_imc]
  repeat' first
    | with_reducible assumption
    | with_reducible refine putImc_keeps (not_mem_of_subset hk ?_) ?_
    | with_reducible refine ite_keeps ?_ ?_
    | with_reducible refine foldl_keeps ?_ (fun t a h => ?_)
    | dsimp -proj only
    | split
    | decide

theorem sendDone_keeps {k : Comp} {s x : State} {a0 a1} (hk : k ∉ [.units]) (h : k.same s x) :
    k.same s (sendDone x a0 a1) := by
  unfold sendDone
  repeat' first
    | with_reducible assumption
    | with_reducible refine finishJob_keeps (not_mem_of_subset hk ?_) ?_
    | with_reducible refine ite_keeps ?_ ?_
    | with_reducible refine foldl_keeps ?_ (fun t a h => ?_)
    | dsimp -proj only
    | split
    | decide

theorem sendNext_keeps {k : Comp} {s x : State} {a0 a1} (hk : k ∉ [.links, .imc, .units]) (h : k.same s x) :
    k.same s (sendNext x a0 a1).2 := by
  unfold sendNext
  repeat' first
    | with_reducible assumption
    | with_reducible refine modLink_keeps (not_mem_of_subset hk ?_) ?_
    | with_reducible refine setSent_keeps (not_mem_of_subset hk ?_) ?_
    | with_reducible refine noteNak_keeps (not_mem_of_subset hk ?_) ?_
    | with_reducible refine sendDone_keeps (not_mem_of_subset hk ?_) ?_
    | with_reducible refine ite_keeps ?_ ?_
    | with_reducible refine foldl_keeps ?_ (fun t a h => ?_)
    | dsimp -proj only
    | split
    | decide

theorem sendNext_keeps_eq {k : Comp} {s x : State} {a0 a1} {r u} (hk : k ∉ [.links, .imc, .units]) (h : k.same s x) (e : sendNext x a0 a1 = (r, u)) :
    k.same s u := by
  simpa only [e] using sendNext_keeps (s := s) (x := x) (a0 := a0) (a1 := a1) hk h

theorem clearMark_keeps {k : Comp} {s x : State} {a0 a1} (hk : k ∉ [.links]) (h : k.same s x) :
    k.same s (clearMark x a0 a1) := by
  unfold clearMark
  repeat' first
    | with_reducible assumption
    | with_reducible refine modLink_keeps (not_mem_of_subset hk ?_) ?_
    | with_reducible refine ite_keeps ?_ ?_
    | with_reducible refine foldl_keeps ?_ (fun t a h => ?_)
    | dsimp -proj only
    | split
    | decide

theorem planSet_keeps {k : Comp} {s x : State} {a0 a1 a2} (hk : k ∉ [.lanes]) (h : k.same s x) :
    k.same s (planSet x a0 a1 a2) := by
  unfold planSet
  repeat' first
    | with_reducible assumption
    | with_reducible refine modRx_keeps (not_mem_of_subset hk ?_) ?_
    | with_reducible refine ite_keeps ?_ ?_
    | with_reducible refine foldl_keeps ?_ (fun t a h => ?_)
    | dsimp -proj only
    | split
    | decide

theorem planOwn_keeps {k : Comp} {s x : State} {a0 a1 a2} (hk : k ∉ [.lanes]) (h : k.same s x) :
    k.same s (planOwn x a0 a1 a2) := by
  unfold planOwn
  repeat' first
    | with_reducible assumption
    | with_reducible refine planSet_keeps (not_mem_of_subset hk ?_) ?_
    | with_reducible refine ite_keeps ?_ ?_
    | with_reducible refine foldl_keeps ?_ (fun t a h => ?_)
    | dsimp -proj only
    | split
    | decide

theorem fillPad_keeps {k : Comp} {s x : State} {a0 a1 a2} (hk : k ∉ [.lanes, .links, .imc, .units]) (h : k.same s x) :
    k.same s (fillPad x a0 a1 a2) := by
  unfold fillPad
  repeat' first
    | with_reducible assumption
    | with_reducible refine sendNext_keeps (not_mem_of_subset hk ?_) ?_
    | with_reducible refine sendNext_keeps_eq (not_mem_of_subset hk ?_) ?_ (by with_reducible assumption)
    | with_reducible refine clearMark_keeps (not_mem_of_subset hk ?_) ?_
    | with_reducible refine setSent_keeps (not_mem_of_subset hk ?_) ?_
    | with_reducible refine planOwn_keeps (not_mem_of_subset hk ?_) ?_
    | with_reducible refine ite_keeps ?_ ?_
    | with_reducible refine foldl_keeps ?_ (fun t a h => ?_)
    | dsimp -proj only
    | split
    | decide

theorem execPadSetPasses_keeps {k : Comp} {s x : State} {a0 a1} (hk : k ∉ [.evt, .heel, .lanes, .links, .last, .store, .imc, .units, .nvm, .cal, .free]) (h : k.same s x) :
    ∃ t, execPadSetPasses a0 a1 x = .next t ∧ k.same s t := by
  unfold execPadSetPasses
  repeat' first
    | with_reducible assumption
    | with_reducible refine done_keeps (not_mem_of_subset hk ?_) ?_
    | with_reducible refine linkSymbol_keeps (not_mem_of_subset hk ?_) ?_
    | with_reducible refine fillPad_keeps (not_mem_of_subset hk ?_) ?_
    | with_reducible refine ite_keeps ?_ ?_
    | with_reducible refine foldl_keeps ?_ (fun t a h => ?_)
    | dsimp -proj only
    | split
    | decide

theorem txDark_keeps {k : Comp} {s x : State} {a0 a1} (hk : k ∉ [.evt, .heel, .store, .win, .units, .nvm]) (h : k.same s x) :
    k.same s (txDark x a0 a1) := by
  unfold txDark
  repeat' first
    | with_reducible assumption
    | with_reducible refine capFeed_keeps (not_mem_of_subset hk ?_) ?_
    | with_reducible refine ite_keeps ?_ ?_
    | with_reducible refine foldl_keeps ?_ (fun t a h => ?_)
    | dsimp -proj only
    | split
    | decide

theorem execLpReqIdle_keeps {k : Comp} {s x : State} {a0 a1} (hk : k ∉ [.evt, .heel, .lanes, .links, .store, .imc, .units, .nvm, .cal, .free]) (h : k.same s x) :
    ∃ t, execLpReqIdle a0 a1 x = .next t ∧ k.same s t := by
  unfold execLpReqIdle
  repeat' first
    | with_reducible assumption
    | with_reducible refine done_keeps (not_mem_of_subset hk ?_) ?_
    | with_reducible refine modLink_keeps (not_mem_of_subset hk ?_) ?_
    | with_reducible refine sendOwn_keeps (not_mem_of_subset hk ?_) ?_
    | with_reducible refine ite_keeps ?_ ?_
    | with_reducible refine foldl_keeps ?_ (fun t a h => ?_)
    | dsimp -proj only
    | split
    | decide

theorem ownDone_keeps {k : Comp} {s x : State} (hk : k ∉ [.nvm]) (h : k.same s x) :
    k.same s (ownDone x) := by
  unfold ownDone
  try dsimp -zeta -proj only [upd_nvm]
  repeat' first
    | with_reducible assumption
    | with_reducible refine putNvm_keeps (not_mem_of_subset hk ?_) ?_
    | with_reducible refine ite_keeps ?_ ?_
    | with_reducible refine foldl_keeps ?_ (fun t a h => ?_)
    | dsimp -proj only
    | split
    | decide

theorem execNvmErase_keeps {k : Comp} {s x : State} (hk : k ∉ [.evt, .heel, .lanes, .links, .store, .imc, .units, .nvm, .cal, .free]) (h : k.same s x) :
    ∃ t, execNvmErase x = .next t ∧ k.same s t := by
  unfold execNvmErase
  repeat' first
    | with_reducible assumption
    | with_reducible refine done_keeps (not_mem_of_subset hk ?_) ?_
    | with_reducible refine ownDone_keeps (not_mem_of_subset hk ?_) ?_
    | with_reducible refine eraseSetUp_keeps (not_mem_of_subset hk ?_) ?_
    | with_reducible refine ite_keeps ?_ ?_
    | with_reducible refine foldl_keeps ?_ (fun t a h => ?_)
    | dsimp -proj only
    | split
    | decide

theorem readOtp_keeps {k : Comp} {s x : State} {a0} (hk : k ∉ [.nvm]) (h : k.same s x) :
    k.same s (readOtp x a0).2.2 := by
  unfold readOtp
  try dsimp -zeta -proj only [upd_nvm]
  repeat' first
    | with_reducible assumption
    | with_reducible refine stepCe_keeps (not_mem_of_subset hk ?_) ?_
    | with_reducible refine putNvm_keeps (not_mem_of_subset hk ?_) ?_
    | with_reducible refine ite_keeps ?_ ?_
    | with_reducible refine foldl_keeps ?_ (fun t a h => ?_)
    | dsimp -proj only
    | split
    | decide

theorem readOtp_keeps_eq {k : Comp} {s x : State} {a0} {r q u} (hk : k ∉ [.nvm]) (h : k.same s x) (e : readOtp x a0 = (r, q, u)) :
    k.same s u := by
  simpa only [e] using readOtp_keeps (s := s) (x := x) (a0 := a0) hk h

theorem endRead_keeps {k : Comp} {s x : State} {a0 a1} (hk : k ∉ [.units]) (h : k.same s x) :
    k.same s (endRead x a0 a1) := by
  unfold endRead
  repeat' first
    | with_reducible assumption
    | with_reducible refine finishWith_keeps (not_mem_of_subset hk ?_) ?_
    | with_reducible refine ite_keeps ?_ ?_
    | with_reducible refine foldl_keeps ?_ (fun t a h => ?_)
    | dsimp -proj only
    | split
    | decide

theorem putData_keeps {k : Comp} {s x : State} {a0 a1 a2 a3 a4} (hk : k ∉ [.evt, .heel, .last, .store, .win, .wqs, .cqs, .units, .slots, .sched, .nvm]) (h : k.same s x) :
    k.same s (putData x a0 a1 a2 a3 a4).2 := by
  unfold putData
  repeat' first
    | with_reducible assumption
    | with_reducible refine jobWrite_keeps (not_mem_of_subset hk ?_) ?_
    | with_reducible refine jobWrite_keeps_eq (not_mem_of_subset hk ?_) ?_ (by with_reducible assumption)
    | with_reducible refine faultJob_keeps (not_mem_of_subset hk ?_) ?_
    | with_reducible refine ite_keeps ?_ ?_
    | with_reducible refine foldl_keeps ?_ (fun t a h => ?_)
    | dsimp -proj only
    | split
    | decide

theorem putData_keeps_eq {k : Comp} {s x : State} {a0 a1 a2 a3 a4} {r u} (hk : k ∉ [.evt, .heel, .last, .store, .win, .wqs, .cqs, .units, .slots, .sched, .nvm]) (h : k.same s x) (e : putData x a0 a1 a2 a3 a4 = (r, u)) :
    k.same s u := by
  simpa only [e] using putData_keeps (s := s) (x := x) (a0 := a0) (a1 := a1) (a2 := a2) (a3 := a3) (a4 := a4) hk h

theorem closeRead_keeps {k : Comp} {s x : State} {a0} (hk : k ∉ [.evt, .heel, .last, .store, .win, .wqs, .cqs, .units, .slots, .sched, .nvm]) (h : k.same s x) :
    k.same s (closeRead x a0) := by
  unfold closeRead
  repeat' first
    | with_reducible assumption
    | with_reducible refine endRead_keeps (not_mem_of_subset hk ?_) ?_
    | with_reducible refine putData_keeps (not_mem_of_subset hk ?_) ?_
    | with_reducible refine putData_keeps_eq (not_mem_of_subset hk ?_) ?_ (by with_reducible assumption)
    | with_reducible refine ite_keeps ?_ ?_
    | with_reducible refine foldl_keeps ?_ (fun t a h => ?_)
    | dsimp -proj only
    | split
    | decide

theorem putBlock_keeps {k : Comp} {s x : State} {a0 a1 a2} (hk : k ∉ [.evt, .heel, .last, .store, .win, .wqs, .cqs, .units, .slots, .sched, .nvm]) (h : k.same s x) :
    k.same s (putBlock x a0 a1 a2) := by
  unfold putBlock
  repeat' first
    | with_reducible assumption
    | with_reducible refine keepJob_keeps (not_mem_of_subset hk ?_) ?_
    | with_reducible refine closeRead_keeps (not_mem_of_subset hk ?_) ?_
    | with_reducible refine putData_keeps (not_mem_of_subset hk ?_) ?_
    | with_reducible refine putData_keeps_eq (not_mem_of_subset hk ?_) ?_ (by with_reducible assumption)
    | with_reducible refine ite_keeps ?_ ?_
    | with_reducible refine foldl_keeps ?_ (fun t a h => ?_)
    | dsimp -proj only
    | split
    | decide

theorem joinBlock_keeps {k : Comp} {s x : State} {a0 a1 a2 a3 a4} (hk : k ∉ [.evt, .heel, .last, .store, .win, .wqs, .cqs, .units, .slots, .sched, .nvm]) (h : k.same s x) :
    k.same s (joinBlock x a0 a1 a2 a3 a4) := by
  unfold joinBlock
  repeat' first
    | with_reducible assumption
    | with_reducible refine keepJob_keeps (not_mem_of_subset hk ?_) ?_
    | with_reducible refine putBlock_keeps (not_mem_of_subset hk ?_) ?_
    | with_reducible refine ite_keeps ?_ ?_
    | with_reducible refine foldl_keeps ?_ (fun t a h => ?_)
    | dsimp -proj only
    | split
    | decide

theorem stopAtBad_keeps {k : Comp} {s x : State} {a0 a1 a2 a3 a4 a5} (hk : k ∉ [.evt, .heel, .last, .store, .win, .wqs, .cqs, .units, .slots, .sched, .nvm]) (h : k.same s x) :
    k.same s (stopAtBad x a0 a1 a2 a3 a4 a5) := by
  unfold stopAtBad
  repeat' first
    | with_reducible assumption
    | with_reducible refine closeRead_keeps (not_mem_of_subset hk ?_) ?_
    | with_reducible refine putData_keeps (not_mem_of_subset hk ?_) ?_
    | with_reducible refine putData_keeps_eq (not_mem_of_subset hk ?_) ?_ (by with_reducible assumption)
    | with_reducible refine ite_keeps ?_ ?_
    | with_reducible refine foldl_keeps ?_ (fun t a h => ?_)
    | dsimp -proj only
    | split
    | decide

theorem nvmReadStep_keeps {k : Comp} {s x : State} {a0} (hk : k ∉ [.evt, .heel, .last, .store, .win, .wqs, .cqs, .units, .slots, .sched, .nvm, .free]) (h : k.same s x) :
    k.same s (nvmReadStep x a0) := by
  unfold nvmReadStep
  repeat' first
    | with_reducible assumption
    | with_reducible refine readOtp_keeps (not_mem_of_subset hk ?_) ?_
    | with_reducible refine readOtp_keeps_eq (not_mem_of_subset hk ?_) ?_ (by with_reducible assumption)
    | with_reducible refine endRead_keeps (not_mem_of_subset hk ?_) ?_
    | with_reducible refine joinBlock_keeps (not_mem_of_subset hk ?_) ?_
    | with_reducible refine readUnit_keeps (not_mem_of_subset hk ?_) ?_
    | with_reducible refine readUnit_keeps_eq (not_mem_of_subset hk ?_) ?_ (by with_reducible assumption)
    | with_reducible refine putBlock_keeps (not_mem_of_subset hk ?_) ?_
    | with_reducible refine stopAtBad_keeps (not_mem_of_subset hk ?_) ?_
    | with_reducible refine putData_keeps (not_mem_of_subset hk ?_) ?_
    | with_reducible refine putData_keeps_eq (not_mem_of_subset hk ?_) ?_ (by with_reducible assumption)
    | with_reducible refine ite_keeps ?_ ?_
    | with_reducible refine foldl_keeps ?_ (fun t a h => ?_)
    | dsimp -proj only
    | split
    | decide

theorem upsetWord_keeps {k : Comp} {s x : State} {a0} (hk : k ∉ [.store, .nvm]) (h : k.same s x) :
    k.same s (upsetWord x a0) := by
  unfold upsetWord
  try dsimp -zeta -proj only [upd_nvm, upd_store]
  repeat' first
    | with_reducible assumption
    | with_reducible refine putStore_keeps (not_mem_of_subset hk ?_) ?_
    | with_reducible refine putNvm_keeps (not_mem_of_subset hk ?_) ?_
    | with_reducible refine ite_keeps ?_ ?_
    | with_reducible refine foldl_keeps ?_ (fun t a h => ?_)
    | dsimp -proj only
    | split
    | decide

theorem upset_keeps {k : Comp} {s x : State} {a0} (hk : k ∉ [.store, .nvm]) (h : k.same s x) :
    k.same s (upset x a0) := by
  unfold upset
  repeat' first
    | with_reducible assumption
    | with_reducible refine upsetWord_keeps (not_mem_of_subset hk ?_) ?_
    | with_reducible refine ite_keeps ?_ ?_
    | with_reducible refine foldl_keeps ?_ (fun t a h => ?_)
    | dsimp -proj only
    | split
    | decide

theorem execNvmRead_keeps {k : Comp} {s x : State} {a0} (hk : k ∉ [.evt, .heel, .lanes, .links, .last, .store, .win, .imc, .wqs, .cqs, .units, .slots, .sched, .nvm, .cal, .free]) (h : k.same s x) :
    ∃ t, execNvmRead a0 x = .next t ∧ k.same s t := by
  unfold execNvmRead
  repeat' first
    | with_reducible assumption
    | with_reducible refine nvmReadStep_keeps (not_mem_of_subset hk ?_) ?_
    | with_reducible refine done_keeps (not_mem_of_subset hk ?_) ?_
    | with_reducible refine ownDone_keeps (not_mem_of_subset hk ?_) ?_
    | with_reducible refine upset_keeps (not_mem_of_subset hk ?_) ?_
    | with_reducible refine ite_keeps ?_ ?_
    | with_reducible refine foldl_keeps ?_ (fun t a h => ?_)
    | dsimp -proj only
    | split
    | decide

theorem execNvmctlCeClr_keeps {k : Comp} {s x : State} {a0 a1} (hk : k ∉ [.power, .boot, .dev, .welt, .therm, .evt, .heel, .lanes, .links, .last, .store, .win, .twb, .imc, .wqs, .cqs, .units, .slots, .sched, .awl, .nvm, .tm, .time, .cal, .free]) (h : k.same s x) :
    ∃ t, execNvmctlCeClr a0 a1 x = .next t ∧ k.same s t := by
  unfold execNvmctlCeClr
  repeat' first
    | with_reducible assumption
    | with_reducible refine done_keeps (not_mem_of_subset hk ?_) ?_
    | with_reducible refine writeTo_keeps (not_mem_of_subset hk ?_) ?_
    | with_reducible refine ite_keeps ?_ ?_
    | with_reducible refine foldl_keeps ?_ (fun t a h => ?_)
    | dsimp -proj only
    | split
    | decide

theorem ringFault_keeps {k : Comp} {s x : State} {a0 a1 a2 a3 a4} (hk : k ∉ [.evt, .heel, .store, .win, .wqs, .cqs, .nvm]) (h : k.same s x) :
    k.same s (ringFault x a0 a1 a2 a3 a4) := by
  unfold ringFault
  repeat' first
    | with_reducible assumption
    | with_reducible refine queueErrorRecord_keeps (not_mem_of_subset hk ?_) ?_
    | with_reducible refine latchJob_keeps (not_mem_of_subset hk ?_) ?_
    | with_reducible refine wqError_keeps (not_mem_of_subset hk ?_) ?_
    | with_reducible refine ite_keeps ?_ ?_
    | with_reducible refine foldl_keeps ?_ (fun t a h => ?_)
    | dsimp -proj only
    | split
    | decide

theorem execTrainTimeout_keeps {k : Comp} {s x : State} {a0} (hk : k ∉ [.power, .welt, .evt, .heel, .lanes, .links, .last, .store, .imc, .units, .nvm, .cal, .free]) (h : k.same s x) :
    ∃ t, execTrainTimeout a0 x = .next t ∧ k.same s t := by
  unfold execTrainTimeout
  repeat' first
    | with_reducible assumption
    | with_reducible refine done_keeps (not_mem_of_subset hk ?_) ?_
    | with_reducible refine enterDetect_keeps (not_mem_of_subset hk ?_) ?_
    | with_reducible refine ite_keeps ?_ ?_
    | with_reducible refine foldl_keeps ?_ (fun t a h => ?_)
    | dsimp -proj only
    | split
    | decide

theorem execStoreRead_keeps {k : Comp} {s x : State} {a0 a1 a2} (hk : k ∉ [.evt, .heel, .lanes, .links, .store, .win, .twb, .imc, .acc, .units, .nvm, .tm, .cal, .free]) (h : k.same s x) :
    ∃ t, execStoreRead a0 a1 a2 x = .next t ∧ k.same s t := by
  unfold execStoreRead
  repeat' first
    | with_reducible assumption
    | with_reducible refine done_keeps (not_mem_of_subset hk ?_) ?_
    | with_reducible refine busRead_keeps (not_mem_of_subset hk ?_) ?_
    | with_reducible refine upset_keeps (not_mem_of_subset hk ?_) ?_
    | with_reducible refine ite_keeps ?_ ?_
    | with_reducible refine foldl_keeps ?_ (fun t a h => ?_)
    | dsimp -proj only
    | split
    | decide

theorem beginFence_keeps {k : Comp} {s x : State} {a0} (hk : k ∉ [.wqs, .sched]) (h : k.same s x) :
    k.same s (beginFence x a0) := by
  unfold beginFence
  try dsimp -zeta -proj only [upd_sched]
  repeat' first
    | with_reducible assumption
    | with_reducible refine modWq_keeps (not_mem_of_subset hk ?_) ?_
    | with_reducible refine noteFence_keeps (not_mem_of_subset hk ?_) ?_
    | with_reducible refine putSched_keeps (not_mem_of_subset hk ?_) ?_
    | with_reducible refine ite_keeps ?_ ?_
    | with_reducible refine foldl_keeps ?_ (fun t a h => ?_)
    | dsimp -proj only
    | split
    | decide

theorem execLoopOff_keeps {k : Comp} {s x : State} {a0 a1 a2 a3} (hk : k ∉ [.power, .boot, .dev, .welt, .therm, .evt, .heel, .lanes, .links, .last, .store, .win, .twb, .imc, .wqs, .cqs, .units, .slots, .sched, .awl, .nvm, .tm, .time, .cal, .free]) (h : k.same s x) :
    ∃ t, execLoopOff a0 a1 a2 a3 x = .next t ∧ k.same s t := by
  unfold execLoopOff
  repeat' first
    | with_reducible assumption
    | with_reducible refine done_keeps (not_mem_of_subset hk ?_) ?_
    | with_reducible refine writeTo_keeps (not_mem_of_subset hk ?_) ?_
    | with_reducible refine ite_keeps ?_ ?_
    | with_reducible refine foldl_keeps ?_ (fun t a h => ?_)
    | dsimp -proj only
    | split
    | decide

theorem putIdle_keeps {k : Comp} {s x : State} {a0 a1} (hk : k ∉ [.evt, .heel, .lanes, .store, .win, .units, .nvm]) (h : k.same s x) :
    k.same s (putIdle x a0 a1) := by
  unfold putIdle
  repeat' first
    | with_reducible assumption
    | with_reducible refine modTx_keeps (not_mem_of_subset hk ?_) ?_
    | with_reducible refine capFeed_keeps (not_mem_of_subset hk ?_) ?_
    | with_reducible refine ite_keeps ?_ ?_
    | with_reducible refine foldl_keeps ?_ (fun t a h => ?_)
    | dsimp -proj only
    | split
    | decide

theorem putGen_keeps {k : Comp} {s x : State} {a0 a1} (hk : k ∉ [.evt, .heel, .lanes, .store, .win, .units, .nvm]) (h : k.same s x) :
    k.same s (putGen x a0 a1) := by
  unfold putGen
  repeat' first
    | with_reducible assumption
    | with_reducible refine putSymbol_keeps (not_mem_of_subset hk ?_) ?_
    | with_reducible refine modMeas_keeps (not_mem_of_subset hk ?_) ?_
    | with_reducible refine ite_keeps ?_ ?_
    | with_reducible refine foldl_keeps ?_ (fun t a h => ?_)
    | dsimp -proj only
    | split
    | decide

theorem putTest_keeps {k : Comp} {s x : State} {a0 a1} (hk : k ∉ [.evt, .heel, .lanes, .store, .win, .units, .nvm]) (h : k.same s x) :
    k.same s (putTest x a0 a1) := by
  unfold putTest
  repeat' first
    | with_reducible assumption
    | with_reducible refine putIdle_keeps (not_mem_of_subset hk ?_) ?_
    | with_reducible refine putGen_keeps (not_mem_of_subset hk ?_) ?_
    | with_reducible refine ite_keeps ?_ ?_
    | with_reducible refine foldl_keeps ?_ (fun t a h => ?_)
    | dsimp -proj only
    | split
    | decide

theorem putOwn_keeps {k : Comp} {s x : State} {a0 a1 a2 a3} (hk : k ∉ [.evt, .heel, .lanes, .store, .win, .units, .nvm]) (h : k.same s x) :
    k.same s (putOwn x a0 a1 a2 a3) := by
  unfold putOwn
  repeat' first
    | with_reducible assumption
    | with_reducible refine putSymbol_keeps (not_mem_of_subset hk ?_) ?_
    | with_reducible refine ite_keeps ?_ ?_
    | with_reducible refine foldl_keeps ?_ (fun t a h => ?_)
    | dsimp -proj only
    | split
    | decide

theorem putAhead_keeps {k : Comp} {s x : State} {a0 a1 a2 a3 a4} (hk : k ∉ [.evt, .heel, .lanes, .store, .win, .units, .nvm]) (h : k.same s x) :
    k.same s (putAhead x a0 a1 a2 a3 a4) := by
  unfold putAhead
  repeat' first
    | with_reducible assumption
    | with_reducible refine modTx_keeps (not_mem_of_subset hk ?_) ?_
    | with_reducible refine putOwn_keeps (not_mem_of_subset hk ?_) ?_
    | with_reducible refine ite_keeps ?_ ?_
    | with_reducible refine foldl_keeps ?_ (fun t a h => ?_)
    | dsimp -proj only
    | split
    | decide

theorem putFill_keeps {k : Comp} {s x : State} {a0 a1 a2 a3 a4} (hk : k ∉ [.evt, .heel, .lanes, .store, .win, .units, .nvm]) (h : k.same s x) :
    k.same s (putFill x a0 a1 a2 a3 a4) := by
  unfold putFill
  repeat' first
    | with_reducible assumption
    | with_reducible refine modTx_keeps (not_mem_of_subset hk ?_) ?_
    | with_reducible refine putOwn_keeps (not_mem_of_subset hk ?_) ?_
    | with_reducible refine putAhead_keeps (not_mem_of_subset hk ?_) ?_
    | with_reducible refine ite_keeps ?_ ?_
    | with_reducible refine foldl_keeps ?_ (fun t a h => ?_)
    | dsimp -proj only
    | split
    | decide

theorem putForward_keeps {k : Comp} {s x : State} {a0 a1 a2 a3} (hk : k ∉ [.evt, .heel, .lanes, .store, .win, .units, .nvm]) (h : k.same s x) :
    k.same s (putForward x a0 a1 a2 a3) := by
  unfold putForward
  repeat' first
    | with_reducible assumption
    | with_reducible refine putSymbol_keeps (not_mem_of_subset hk ?_) ?_
    | with_reducible refine putOwn_keeps (not_mem_of_subset hk ?_) ?_
    | with_reducible refine ite_keeps ?_ ?_
    | with_reducible refine foldl_keeps ?_ (fun t a h => ?_)
    | dsimp -proj only
    | split
    | decide

theorem carriedOut_keeps {k : Comp} {s x : State} {a0 a1 a2 a3} (hk : k ∉ [.evt, .heel, .lanes, .store, .win, .units, .nvm]) (h : k.same s x) :
    k.same s (carriedOut x a0 a1 a2 a3) := by
  unfold carriedOut
  repeat' first
    | with_reducible assumption
    | with_reducible refine putTest_keeps (not_mem_of_subset hk ?_) ?_
    | with_reducible refine putFill_keeps (not_mem_of_subset hk ?_) ?_
    | with_reducible refine putForward_keeps (not_mem_of_subset hk ?_) ?_
    | with_reducible refine putIdle_keeps (not_mem_of_subset hk ?_) ?_
    | with_reducible refine txDark_keeps (not_mem_of_subset hk ?_) ?_
    | with_reducible refine ite_keeps ?_ ?_
    | with_reducible refine foldl_keeps ?_ (fun t a h => ?_)
    | dsimp -proj only
    | split
    | decide

theorem putWarm_keeps {k : Comp} {s x : State} {a0 a1 a2} (hk : k ∉ [.evt, .heel, .lanes, .store, .win, .units, .nvm]) (h : k.same s x) :
    k.same s (putWarm x a0 a1 a2) := by
  unfold putWarm
  repeat' first
    | with_reducible assumption
    | with_reducible refine modTx_keeps (not_mem_of_subset hk ?_) ?_
    | with_reducible refine putSymbol_keeps (not_mem_of_subset hk ?_) ?_
    | with_reducible refine putOwn_keeps (not_mem_of_subset hk ?_) ?_
    | with_reducible refine modMeas_keeps (not_mem_of_subset hk ?_) ?_
    | with_reducible refine putAhead_keeps (not_mem_of_subset hk ?_) ?_
    | with_reducible refine ite_keeps ?_ ?_
    | with_reducible refine foldl_keeps ?_ (fun t a h => ?_)
    | dsimp -proj only
    | split
    | decide

theorem vacantOut_keeps {k : Comp} {s x : State} {a0 a1 a2} (hk : k ∉ [.evt, .heel, .lanes, .store, .win, .units, .nvm]) (h : k.same s x) :
    k.same s (vacantOut x a0 a1 a2) := by
  unfold vacantOut
  repeat' first
    | with_reducible assumption
    | with_reducible refine putWarm_keeps (not_mem_of_subset hk ?_) ?_
    | with_reducible refine putTest_keeps (not_mem_of_subset hk ?_) ?_
    | with_reducible refine putIdle_keeps (not_mem_of_subset hk ?_) ?_
    | with_reducible refine txDark_keeps (not_mem_of_subset hk ?_) ?_
    | with_reducible refine ite_keeps ?_ ?_
    | with_reducible refine foldl_keeps ?_ (fun t a h => ?_)
    | dsimp -proj only
    | split
    | decide

theorem sendOne_keeps {k : Comp} {s x : State} {a0 a1 a2} (hk : k ∉ [.evt, .heel, .lanes, .store, .win, .units, .nvm]) (h : k.same s x) :
    k.same s (sendOne x a0 a1 a2) := by
  unfold sendOne
  repeat' first
    | with_reducible assumption
    | with_reducible refine carriedOut_keeps (not_mem_of_subset hk ?_) ?_
    | with_reducible refine vacantOut_keeps (not_mem_of_subset hk ?_) ?_
    | with_reducible refine txDark_keeps (not_mem_of_subset hk ?_) ?_
    | with_reducible refine ite_keeps ?_ ?_
    | with_reducible refine foldl_keeps ?_ (fun t a h => ?_)
    | dsimp -proj only
    | split
    | decide

theorem passRequest_keeps {k : Comp} {s x : State} {a0 a1 a2} (hk : k ∉ [.links]) (h : k.same s x) :
    k.same s (passRequest x a0 a1 a2) := by
  unfold passRequest
  repeat' first
    | with_reducible assumption
    | with_reducible refine modTr_keeps (not_mem_of_subset hk ?_) ?_
    | with_reducible refine modLink_keeps (not_mem_of_subset hk ?_) ?_
    | with_reducible refine ite_keeps ?_ ?_
    | with_reducible refine foldl_keeps ?_ (fun t a h => ?_)
    | dsimp -proj only
    | split
    | decide

theorem readOne_keeps {k : Comp} {s x : State} {a0 a1} (hk : k ∉ [.evt, .heel, .lanes, .links, .store, .win, .units, .nvm]) (h : k.same s x) :
    k.same s (readOne x a0 a1) := by
  unfold readOne
  repeat' first
    | with_reducible assumption
    | with_reducible refine ebLimits_keeps (not_mem_of_subset hk ?_) ?_
    | with_reducible refine sendOne_keeps (not_mem_of_subset hk ?_) ?_
    | with_reducible refine modRx_keeps (not_mem_of_subset hk ?_) ?_
    | with_reducible refine capFeed_keeps (not_mem_of_subset hk ?_) ?_
    | with_reducible refine passRequest_keeps (not_mem_of_subset hk ?_) ?_
    | with_reducible refine ite_keeps ?_ ?_
    | with_reducible refine foldl_keeps ?_ (fun t a h => ?_)
    | dsimp -proj only
    | split
    | decide

theorem parkPreempted_keeps {k : Comp} {s x : State} {a0 a1 a2} (hk : k ∉ [.slots, .sched]) (h : k.same s x) :
    k.same s (parkPreempted x a0 a1 a2) := by
  unfold parkPreempted
  repeat' first
    | with_reducible assumption
    | with_reducible refine takeSlot_keeps (not_mem_of_subset hk ?_) ?_
    | with_reducible refine ite_keeps ?_ ?_
    | with_reducible refine foldl_keeps ?_ (fun t a h => ?_)
    | dsimp -proj only
    | split
    | decide

theorem cutNvm_cutSector_keeps {k : Comp} {s x : State} {a0} (hk : k ∉ [.nvm, .free]) (h : k.same s x) :
    k.same s (cutNvm.cutSector x a0) := by
  unfold cutNvm.cutSector
  try dsimp -zeta -proj only [upd_nvm]
  repeat' first
    | with_reducible assumption
    | with_reducible refine useFree_keeps (not_mem_of_subset hk ?_) ?_
    | with_reducible refine useFree_keeps_eq (not_mem_of_subset hk ?_) ?_ (by with_reducible assumption)
    | with_reducible refine putNvm_keeps (not_mem_of_subset hk ?_) ?_
    | with_reducible refine ite_keeps ?_ ?_
    | with_reducible refine foldl_keeps ?_ (fun t a h => ?_)
    | dsimp -proj only
    | split
    | decide

theorem cutNvm_cutProg_keeps {k : Comp} {s x : State} {a0 a1} (hk : k ∉ [.nvm, .free]) (h : k.same s x) :
    k.same s (cutNvm.cutProg x a0 a1) := by
  unfold cutNvm.cutProg
  try dsimp -zeta -proj only [upd_nvm]
  repeat' first
    | with_reducible assumption
    | with_reducible refine useFree_keeps (not_mem_of_subset hk ?_) ?_
    | with_reducible refine useFree_keeps_eq (not_mem_of_subset hk ?_) ?_ (by with_reducible assumption)
    | with_reducible refine putNvm_keeps (not_mem_of_subset hk ?_) ?_
    | with_reducible refine ite_keeps ?_ ?_
    | with_reducible refine foldl_keeps ?_ (fun t a h => ?_)
    | dsimp -proj only
    | split
    | decide

theorem cutNvm_cutOwn_keeps {k : Comp} {s x : State} (hk : k ∉ [.nvm, .free]) (h : k.same s x) :
    k.same s (cutNvm.cutOwn x) := by
  unfold cutNvm.cutOwn
  repeat' first
    | with_reducible assumption
    | with_reducible refine useFree_keeps (not_mem_of_subset hk ?_) ?_
    | with_reducible refine useFree_keeps_eq (not_mem_of_subset hk ?_) ?_ (by with_reducible assumption)
    | with_reducible refine cutNvm_cutProg_keeps (not_mem_of_subset hk ?_) ?_
    | with_reducible refine ite_keeps ?_ ?_
    | with_reducible refine foldl_keeps ?_ (fun t a h => ?_)
    | dsimp -proj only
    | split
    | decide

theorem cutNvm_keeps {k : Comp} {s x : State} (hk : k ∉ [.nvm, .free]) (h : k.same s x) :
    k.same s (cutNvm x) := by
  unfold cutNvm
  try dsimp -zeta -proj only [upd_nvm]
  repeat' first
    | with_reducible assumption
    | with_reducible refine cutNvm_cutSector_keeps (not_mem_of_subset hk ?_) ?_
    | with_reducible refine cutNvm_cutOwn_keeps (not_mem_of_subset hk ?_) ?_
    | with_reducible refine putNvm_keeps (not_mem_of_subset hk ?_) ?_
    | with_reducible refine ite_keeps ?_ ?_
    | with_reducible refine foldl_keeps ?_ (fun t a h => ?_)
    | dsimp -proj only
    | split
    | decide

theorem enterReset_keeps {k : Comp} {s x : State} (hk : k ∉ [.power, .boot, .dev, .welt, .therm, .evt, .heel, .lanes, .links, .last, .store, .win, .twb, .imc, .acc, .wqs, .cqs, .units, .slots, .sched, .awl, .nvm, .tm, .time, .cal, .free]) (h : k.same s x) :
    k.same s (enterReset x) := by
  have hf : ∀ j : Comp, j ∉ [.nvm, .free] → j.same x (cutNvm x) := fun j hj => cutNvm_keeps hj (j.same_refl x)
  cases k <;> first | exact absurd (by decide) hk | (refine Eq.trans ?_ h; first | rfl | exact hf _ (by decide))

theorem execResetNPulse_keeps {k : Comp} {s x : State} (hk : k ∉ [.pins, .power, .boot, .dev, .welt, .therm, .evt, .heel, .lanes, .links, .last, .store, .win, .twb, .imc, .acc, .wqs, .cqs, .units, .slots, .sched, .awl, .nvm, .tm, .time, .cal, .free]) (h : k.same s x) :
    ∃ t, execResetNPulse x = .next t ∧ k.same s t := by
  unfold execResetNPulse
  repeat' first
    | with_reducible assumption
    | with_reducible refine done_keeps (not_mem_of_subset hk ?_) ?_
    | with_reducible refine enterReset_keeps (not_mem_of_subset hk ?_) ?_
    | with_reducible refine modPins_keeps (not_mem_of_subset hk ?_) ?_
    | with_reducible refine ite_keeps ?_ ?_
    | with_reducible refine foldl_keeps ?_ (fun t a h => ?_)
    | dsimp -proj only
    | split
    | decide

theorem modSeq_keeps {k : Comp} {s x : State} {a0 a1 a2} (hk : k ∉ [.links]) (h : k.same s x) :
    k.same s (modSeq x a0 a1 a2) := by
  unfold modSeq
  repeat' first
    | with_reducible assumption
    | with_reducible refine modLink_keeps (not_mem_of_subset hk ?_) ?_
    | with_reducible refine ite_keeps ?_ ?_
    | with_reducible refine foldl_keeps ?_ (fun t a h => ?_)
    | dsimp -proj only
    | split
    | decide

theorem missTrigger_keeps {k : Comp} {s x : State} {a0} (hk : k ∉ [.tm]) (h : k.same s x) :
    k.same s (missTrigger x a0) := by
  unfold missTrigger
  try dsimp -zeta -proj only [upd_tm]
  repeat' first
    | with_reducible assumption
    | with_reducible refine putTm_keeps (not_mem_of_subset hk ?_) ?_
    | with_reducible refine ite_keeps ?_ ?_
    | with_reducible refine foldl_keeps ?_ (fun t a h => ?_)
    | dsimp -proj only
    | split
    | decide

theorem startSeq_keeps {k : Comp} {s x : State} {a0} (hk : k ∉ [.tm]) (h : k.same s x) :
    k.same s (startSeq x a0) := by
  unfold startSeq
  try dsimp -zeta -proj only [upd_tm]
  repeat' first
    | with_reducible assumption
    | with_reducible refine modSeqr_keeps (not_mem_of_subset hk ?_) ?_
    | with_reducible refine putTm_keeps (not_mem_of_subset hk ?_) ?_
    | with_reducible refine ite_keeps ?_ ?_
    | with_reducible refine foldl_keeps ?_ (fun t a h => ?_)
    | dsimp -proj only
    | split
    | decide

theorem trigger_keeps {k : Comp} {s x : State} {a0} (hk : k ∉ [.tm]) (h : k.same s x) :
    k.same s (trigger x a0).2 := by
  unfold trigger
  repeat' first
    | with_reducible assumption
    | with_reducible refine missTrigger_keeps (not_mem_of_subset hk ?_) ?_
    | with_reducible refine modSeqr_keeps (not_mem_of_subset hk ?_) ?_
    | with_reducible refine startSeq_keeps (not_mem_of_subset hk ?_) ?_
    | with_reducible refine ite_keeps ?_ ?_
    | with_reducible refine foldl_keeps ?_ (fun t a h => ?_)
    | dsimp -proj only
    | split
    | decide

theorem trigger_keeps_eq {k : Comp} {s x : State} {a0} {r u} (hk : k ∉ [.tm]) (h : k.same s x) (e : trigger x a0 = (r, u)) :
    k.same s u := by
  simpa only [e] using trigger_keeps (s := s) (x := x) (a0 := a0) hk h

theorem teleStart_keeps {k : Comp} {s x : State} {a0 a1 a2} (hk : k ∉ [.units, .tm]) (h : k.same s x) :
    k.same s (teleStart x a0 a1 a2) := by
  unfold teleStart
  repeat' first
    | with_reducible assumption
    | with_reducible refine finishWith_keeps (not_mem_of_subset hk ?_) ?_
    | with_reducible refine trigger_keeps (not_mem_of_subset hk ?_) ?_
    | with_reducible refine trigger_keeps_eq (not_mem_of_subset hk ?_) ?_ (by with_reducible assumption)
    | with_reducible refine keepJob_keeps (not_mem_of_subset hk ?_) ?_
    | with_reducible refine ite_keeps ?_ ?_
    | with_reducible refine foldl_keeps ?_ (fun t a h => ?_)
    | dsimp -proj only
    | split
    | decide

theorem execLnkspcmdSwap_keeps {k : Comp} {s x : State} {a0 a1 a2} (hk : k ∉ [.power, .boot, .dev, .welt, .therm, .evt, .heel, .lanes, .links, .last, .store, .win, .twb, .imc, .wqs, .cqs, .units, .slots, .sched, .awl, .nvm, .tm, .time, .cal, .free]) (h : k.same s x) :
    ∃ t, execLnkspcmdSwap a0 a1 a2 x = .next t ∧ k.same s t := by
  unfold execLnkspcmdSwap
  repeat' first
    | with_reducible assumption
    | with_reducible refine done_keeps (not_mem_of_subset hk ?_) ?_
    | with_reducible refine writeTo_keeps (not_mem_of_subset hk ?_) ?_
    | with_reducible refine ite_keeps ?_ ?_
    | with_reducible refine foldl_keeps ?_ (fun t a h => ?_)
    | dsimp -proj only
    | split
    | decide

theorem execJtagHighz_keeps {k : Comp} {s x : State} (hk : k ∉ [.evt, .heel, .lanes, .links, .store, .twb, .imc, .jtag, .units, .nvm, .cal, .free]) (h : k.same s x) :
    ∃ t, execJtagHighz x = .next t ∧ k.same s t := by
  unfold execJtagHighz
  repeat' first
    | with_reducible assumption
    | with_reducible refine done_keeps (not_mem_of_subset hk ?_) ?_
    | with_reducible refine jtagLoad_keeps (not_mem_of_subset hk ?_) ?_
    | with_reducible refine ite_keeps ?_ ?_
    | with_reducible refine foldl_keeps ?_ (fun t a h => ?_)
    | dsimp -proj only
    | split
    | decide

theorem capTrigger_keeps {k : Comp} {s x : State} {a0 a1 a2} (hk : k ∉ [.units]) (h : k.same s x) :
    k.same s (capTrigger x a0 a1 a2) := by
  unfold capTrigger
  repeat' first
    | with_reducible assumption
    | with_reducible refine modJob_keeps (not_mem_of_subset hk ?_) ?_
    | with_reducible refine ite_keeps ?_ ?_
    | with_reducible refine foldl_keeps ?_ (fun t a h => ?_)
    | dsimp -proj only
    | split
    | decide

theorem capLoss_keeps {k : Comp} {s x : State} {a0 a1 a2 a3} (hk : k ∉ [.units]) (h : k.same s x) :
    k.same s (capLoss x a0 a1 a2 a3) := by
  unfold capLoss
  repeat' first
    | with_reducible assumption
    | with_reducible refine capTrigger_keeps (not_mem_of_subset hk ?_) ?_
    | with_reducible refine ite_keeps ?_ ?_
    | with_reducible refine foldl_keeps ?_ (fun t a h => ?_)
    | dsimp -proj only
    | split
    | decide

theorem noteLoss_keeps {k : Comp} {s x : State} {a0 a1 a2 a3 a4} (hk : k ∉ [.evt, .links, .store, .units, .nvm]) (h : k.same s x) :
    k.same s (noteLoss x a0 a1 a2 a3 a4) := by
  unfold noteLoss
  repeat' first
    | with_reducible assumption
    | with_reducible refine capLoss_keeps (not_mem_of_subset hk ?_) ?_
    | with_reducible refine modLink_keeps (not_mem_of_subset hk ?_) ?_
    | with_reducible refine logLane_keeps (not_mem_of_subset hk ?_) ?_
    | with_reducible refine ite_keeps ?_ ?_
    | with_reducible refine foldl_keeps ?_ (fun t a h => ?_)
    | dsimp -proj only
    | split
    | decide

theorem setLost_keeps {k : Comp} {s x : State} {a0 a1 a2 a3} (hk : k ∉ [.links]) (h : k.same s x) :
    k.same s (setLost x a0 a1 a2 a3) := by
  unfold setLost
  repeat' first
    | with_reducible assumption
    | with_reducible refine modLink_keeps (not_mem_of_subset hk ?_) ?_
    | with_reducible refine ite_keeps ?_ ?_
    | with_reducible refine foldl_keeps ?_ (fun t a h => ?_)
    | dsimp -proj only
    | split
    | decide

theorem markLost_keeps {k : Comp} {s x : State} {a0 a1 a2 a3} (hk : k ∉ [.power, .welt, .evt, .lanes, .links, .last, .store, .units, .nvm, .cal, .free]) (h : k.same s x) :
    k.same s (markLost x a0 a1 a2 a3) := by
  unfold markLost
  repeat' first
    | with_reducible assumption
    | with_reducible refine setResult_keeps (not_mem_of_subset hk ?_) ?_
    | with_reducible refine stopRecal_keeps (not_mem_of_subset hk ?_) ?_
    | with_reducible refine noteLoss_keeps (not_mem_of_subset hk ?_) ?_
    | with_reducible refine modLink_keeps (not_mem_of_subset hk ?_) ?_
    | with_reducible refine setLost_keeps (not_mem_of_subset hk ?_) ?_
    | with_reducible refine modRx_keeps (not_mem_of_subset hk ?_) ?_
    | with_reducible refine switchLink_keeps (not_mem_of_subset hk ?_) ?_
    | with_reducible refine ite_keeps ?_ ?_
    | with_reducible refine foldl_keeps ?_ (fun t a h => ?_)
    | dsimp -proj only
    | split
    | decide

theorem turnSwap_keeps {k : Comp} {s x : State} {a0 a1 a2} (hk : k ∉ [.links]) (h : k.same s x) :
    k.same s (turnSwap x a0 a1 a2) := by
  unfold turnSwap
  repeat' first
    | with_reducible assumption
    | with_reducible refine modLink_keeps (not_mem_of_subset hk ?_) ?_
    | with_reducible refine ite_keeps ?_ ?_
    | with_reducible refine foldl_keeps ?_ (fun t a h => ?_)
    | dsimp -proj only
    | split
    | decide

theorem execRegReadClear_keeps {k : Comp} {s x : State} {a0 a1 a2} (hk : k ∉ [.evt, .heel, .lanes, .links, .store, .win, .twb, .imc, .acc, .units, .nvm, .tm, .cal, .free]) (h : k.same s x) :
    ∃ t, execRegReadClear a0 a1 a2 x = .next t ∧ k.same s t := by
  unfold execRegReadClear
  repeat' first
    | with_reducible assumption
    | with_reducible refine done_keeps (not_mem_of_subset hk ?_) ?_
    | with_reducible refine busRead_keeps (not_mem_of_subset hk ?_) ?_
    | with_reducible refine upset_keeps (not_mem_of_subset hk ?_) ?_
    | with_reducible refine ite_keeps ?_ ?_
    | with_reducible refine foldl_keeps ?_ (fun t a h => ?_)
    | dsimp -proj only
    | split
    | decide

theorem grantSeen_keeps {k : Comp} {s x : State} {a0 a1} (hk : k ∉ [.links]) (h : k.same s x) :
    k.same s (grantSeen x a0 a1) := by
  unfold grantSeen
  repeat' first
    | with_reducible assumption
    | with_reducible refine modLink_keeps (not_mem_of_subset hk ?_) ?_
    | with_reducible refine ite_keeps ?_ ?_
    | with_reducible refine foldl_keeps ?_ (fun t a h => ?_)
    | dsimp -proj only
    | split
    | decide

theorem execWeltMismatch_keeps {k : Comp} {s x : State} {a0 a1} (hk : k ∉ [.power, .welt, .evt, .heel, .lanes, .links, .last, .store, .imc, .units, .nvm, .cal, .free]) (h : k.same s x) :
    ∃ t, execWeltMismatch a0 a1 x = .next t ∧ k.same s t := by
  unfold execWeltMismatch
  try dsimp -zeta -proj only [upd_welt_evt]
  repeat' first
    | with_reducible assumption
    | with_reducible refine done_keeps (not_mem_of_subset hk ?_) ?_
    | with_reducible refine logEvent_keeps (not_mem_of_subset hk ?_) ?_
    | with_reducible refine writeAside_keeps (not_mem_of_subset hk ?_) ?_
    | with_reducible refine putWelt_keeps (not_mem_of_subset hk ?_) ?_
    | with_reducible refine putEvt_keeps (not_mem_of_subset hk ?_) ?_
    | with_reducible refine ite_keeps ?_ ?_
    | with_reducible refine foldl_keeps ?_ (fun t a h => ?_)
    | dsimp -proj only
    | split
    | decide

theorem execLpGrantSeen_keeps {k : Comp} {s x : State} {a0 a1} (hk : k ∉ [.evt, .heel, .lanes, .links, .store, .imc, .units, .nvm, .cal, .free]) (h : k.same s x) :
    ∃ t, execLpGrantSeen a0 a1 x = .next t ∧ k.same s t := by
  unfold execLpGrantSeen
  repeat' first
    | with_reducible assumption
    | with_reducible refine grantSeen_keeps (not_mem_of_subset hk ?_) ?_
    | with_reducible refine done_keeps (not_mem_of_subset hk ?_) ?_
    | with_reducible refine ite_keeps ?_ ?_
    | with_reducible refine foldl_keeps ?_ (fun t a h => ?_)
    | dsimp -proj only
    | split
    | decide

theorem injectOne_keeps {k : Comp} {s x : State} {a0 a1 a2} (hk : k ∉ [.lanes, .units]) (h : k.same s x) :
    k.same s (injectOne x a0 a1 a2) := by
  unfold injectOne
  repeat' first
    | with_reducible assumption
    | with_reducible refine keepJob_keeps (not_mem_of_subset hk ?_) ?_
    | with_reducible refine modMeas_keeps (not_mem_of_subset hk ?_) ?_
    | with_reducible refine ite_keeps ?_ ?_
    | with_reducible refine foldl_keeps ?_ (fun t a h => ?_)
    | dsimp -proj only
    | split
    | decide

theorem resumeSlot_keeps {k : Comp} {s x : State} {a0 a1} (hk : k ∉ [.lanes, .units, .slots]) (h : k.same s x) :
    k.same s (resumeSlot x a0 a1) := by
  unfold resumeSlot
  repeat' first
    | with_reducible assumption
    | with_reducible refine freeSlot_keeps (not_mem_of_subset hk ?_) ?_
    | with_reducible refine setUnit_keeps (not_mem_of_subset hk ?_) ?_
    | with_reducible refine modMeas_keeps (not_mem_of_subset hk ?_) ?_
    | with_reducible refine ite_keeps ?_ ?_
    | with_reducible refine foldl_keeps ?_ (fun t a h => ?_)
    | dsimp -proj only
    | split
    | decide

theorem startChecks_keeps {k : Comp} {s x : State} {a0 a1} (hk : k ∉ [.lanes, .last, .units]) (h : k.same s x) :
    k.same s (startChecks x a0 a1) := by
  unfold startChecks
  try dsimp -zeta -proj only [upd_last]
  repeat' first
    | with_reducible assumption
    | with_reducible refine modJob_keeps (not_mem_of_subset hk ?_) ?_
    | with_reducible refine finishJob_keeps (not_mem_of_subset hk ?_) ?_
    | with_reducible refine modMeas_keeps (not_mem_of_subset hk ?_) ?_
    | with_reducible refine putLast_keeps (not_mem_of_subset hk ?_) ?_
    | with_reducible refine ite_keeps ?_ ?_
    | with_reducible refine foldl_keeps ?_ (fun t a h => ?_)
    | dsimp -proj only
    | split
    | decide

theorem startEntry_keeps {k : Comp} {s x : State} {a0 a1} (hk : k ∉ [.lanes, .last, .wqs, .units, .sched]) (h : k.same s x) :
    k.same s (startEntry x a0 a1) := by
  unfold startEntry
  try dsimp -zeta -proj only [upd_sched]
  repeat' first
    | with_reducible assumption
    | with_reducible refine modWq_keeps (not_mem_of_subset hk ?_) ?_
    | with_reducible refine startChecks_keeps (not_mem_of_subset hk ?_) ?_
    | with_reducible refine setUnit_keeps (not_mem_of_subset hk ?_) ?_
    | with_reducible refine noteFence_keeps (not_mem_of_subset hk ?_) ?_
    | with_reducible refine putSched_keeps (not_mem_of_subset hk ?_) ?_
    | with_reducible refine ite_keeps ?_ ?_
    | with_reducible refine foldl_keeps ?_ (fun t a h => ?_)
    | dsimp -proj only
    | split
    | decide

theorem runCandidate_keeps {k : Comp} {s x : State} {a0 a1} (hk : k ∉ [.lanes, .last, .wqs, .units, .slots, .sched]) (h : k.same s x) (hc : Candidate.keeps k s a1) :
    k.same s (runCandidate x a0 a1) := by
  cases a1 with
  | slot n => exact resumeSlot_keeps (not_mem_of_subset hk (by decide)) h
  | member i t =>
    have g := hc i t rfl
    unfold runCandidate
    dsimp -zeta -proj only [upd_sched]
    split
    · exact startEntry_keeps (not_mem_of_subset hk (by decide)) g
    · exact setUnit_keeps (not_mem_of_subset hk (by decide)) (putSched_keeps (not_mem_of_subset hk (by decide)) g)

theorem newRound_keeps {k : Comp} {s x : State} {a0} (hk : k ∉ [.sched]) (h : k.same s x) :
    k.same s (newRound x a0) := by
  unfold newRound
  try dsimp -zeta -proj only [upd_sched]
  repeat' first
    | with_reducible assumption
    | with_reducible refine putSched_keeps (not_mem_of_subset hk ?_) ?_
    | with_reducible refine ite_keeps ?_ ?_
    | with_reducible refine foldl_keeps ?_ (fun t a h => ?_)
    | dsimp -proj only
    | split
    | decide

theorem oldestUrgent_keeps_eq {k : Comp} {s x : State} {a0} {r} (hk : k ∉ [.sched]) (h : k.same s x)
    (e : oldestUrgent x a0 = some r) : k.same s r.2 := by
  unfold oldestUrgent at e
  obtain ⟨i, -, rfl⟩ := Option.map_eq_some_iff.mp e
  exact putSched_keeps (not_mem_of_subset hk (by decide)) (ite_keeps (newRound_keeps (not_mem_of_subset hk (by decide)) h) h)

theorem startUrgent_keeps {k : Comp} {s x : State} {a0} (hk : k ∉ [.lanes, .last, .wqs, .units, .slots, .sched]) (h : k.same s x) :
    k.same s (startUrgent x a0) := by
  unfold startUrgent
  split
  · exact runCandidate_keeps (not_mem_of_subset hk (by decide)) h (fun _ _ e => by cases e)
  · split
    · rename_i e
      have g := oldestUrgent_keeps_eq (not_mem_of_subset hk (by decide)) h e
      exact runCandidate_keeps (not_mem_of_subset hk (by decide)) h (fun _ _ e => by cases e; exact g)
    · exact h

theorem preempt_keeps {k : Comp} {s x : State} {a0 a1} (hk : k ∉ [.evt, .heel, .lanes, .last, .store, .win, .wqs, .cqs, .units, .slots, .sched, .nvm]) (h : k.same s x) :
    k.same s (preempt x a0 a1) := by
  unfold preempt
  repeat' first
    | with_reducible assumption
    | with_reducible refine startUrgent_keeps (not_mem_of_subset hk ?_) ?_
    | with_reducible refine parkPreempted_keeps (not_mem_of_subset hk ?_) ?_
    | with_reducible refine setUnit_keeps (not_mem_of_subset hk ?_) ?_
    | with_reducible refine parkIn_keeps (not_mem_of_subset hk ?_) ?_
    | with_reducible refine moverBlock_keeps (not_mem_of_subset hk ?_) ?_
    | with_reducible refine moverBlock_keeps_eq (not_mem_of_subset hk ?_) ?_ (by with_reducible assumption)
    | with_reducible refine ite_keeps ?_ ?_
    | with_reducible refine foldl_keeps ?_ (fun t a h => ?_)
    | dsimp -proj only
    | split
    | decide

theorem serveRound_keeps_eq {k : Comp} {s x : State} {a0 a1 a2} {r u} (hk : k ∉ [.sched]) (h : k.same s x) (e : serveRound x a0 a1 a2 = some (r, u)) :
    k.same s u := by
  have hp : ∀ {t : State} {v : Sched}, k.same s t → k.same s (t.putSched v) := fun g => putSched_keeps hk g
  unfold serveRound at e
  dsimp -zeta -proj only [upd_sched] at e
  extract_lets last burst can take at e
  have ht : ∀ t i b, k.same s t → k.same s (take t i b).2 := fun _ _ _ g => hp g
  clear_value take
  split at e
  · rw [Option.some.injEq] at e
    have g := ht x last (burst - 1) h
    rw [e] at g
    exact g
  · split at e
    · rename_i i _
      rw [Option.some.injEq] at e
      have g := ht x i (min (memberBurst x i) (creditOf x i) - 1) h
      rw [e] at g
      exact g
    · obtain ⟨i, -, hi⟩ := Option.map_eq_some_iff.mp e
      have g := ht (newRound x a1) i (min (memberBurst (newRound x a1) i) (creditOf (newRound x a1) i) - 1)
        (newRound_keeps hk h)
      rw [hi] at g
      exact g

theorem urgentCandidate_keeps {k : Comp} {s x : State} {a0} {c} (hk : k ∉ [.sched]) (h : k.same s x)
    (e : urgentCandidate x a0 = some c) : c.keeps k s := by
  intro i t hc
  subst hc
  unfold urgentCandidate at e
  split at e
  · cases e
  · obtain ⟨r, hr, hi⟩ := Option.map_eq_some_iff.mp e
    cases hi
    exact serveRound_keeps_eq hk h (r := r.1) (u := r.2) hr

theorem execPreemptFlushDone_keeps {k : Comp} {s x : State} {a0 a1} (hk : k ∉ [.evt, .heel, .lanes, .links, .last, .store, .win, .imc, .wqs, .cqs, .units, .slots, .sched, .nvm, .cal, .free]) (h : k.same s x) :
    ∃ t, execPreemptFlushDone a0 a1 x = .next t ∧ k.same s t := by
  unfold execPreemptFlushDone
  repeat' first
    | with_reducible assumption
    | with_reducible refine done_keeps (not_mem_of_subset hk ?_) ?_
    | with_reducible refine preempt_keeps (not_mem_of_subset hk ?_) ?_
    | with_reducible refine urgentCandidate_keeps (not_mem_of_subset hk ?_) ?_
    | with_reducible refine upset_keeps (not_mem_of_subset hk ?_) ?_
    | with_reducible refine ite_keeps ?_ ?_
    | with_reducible refine foldl_keeps ?_ (fun t a h => ?_)
    | dsimp -proj only
    | split
    | decide

theorem execCaptureTrigger_keeps {k : Comp} {s x : State} {a0 a1} (hk : k ∉ [.evt, .heel, .lanes, .links, .store, .imc, .units, .nvm, .cal, .free]) (h : k.same s x) :
    ∃ t, execCaptureTrigger a0 a1 x = .next t ∧ k.same s t := by
  unfold execCaptureTrigger
  repeat' first
    | with_reducible assumption
    | with_reducible refine done_keeps (not_mem_of_subset hk ?_) ?_
    | with_reducible refine keepJob_keeps (not_mem_of_subset hk ?_) ?_
    | with_reducible refine ite_keeps ?_ ?_
    | with_reducible refine foldl_keeps ?_ (fun t a h => ?_)
    | dsimp -proj only
    | split
    | decide

theorem execLnctlRecentre_keeps {k : Comp} {s x : State} {a0 a1 a2 a3} (hk : k ∉ [.power, .boot, .dev, .welt, .therm, .evt, .heel, .lanes, .links, .last, .store, .win, .twb, .imc, .wqs, .cqs, .units, .slots, .sched, .awl, .nvm, .tm, .time, .cal, .free]) (h : k.same s x) :
    ∃ t, execLnctlRecentre a0 a1 a2 a3 x = .next t ∧ k.same s t := by
  unfold execLnctlRecentre
  repeat' first
    | with_reducible assumption
    | with_reducible refine done_keeps (not_mem_of_subset hk ?_) ?_
    | with_reducible refine writeTo_keeps (not_mem_of_subset hk ?_) ?_
    | with_reducible refine ite_keeps ?_ ?_
    | with_reducible refine foldl_keeps ?_ (fun t a h => ?_)
    | dsimp -proj only
    | split
    | decide

theorem armCapture_keeps {k : Comp} {s x : State} {a0 a1} (hk : k ∉ [.evt, .heel, .last, .store, .win, .wqs, .cqs, .units, .slots, .sched, .nvm]) (h : k.same s x) :
    k.same s (armCapture x a0 a1) := by
  unfold armCapture
  repeat' first
    | with_reducible assumption
    | with_reducible refine finishWith_keeps (not_mem_of_subset hk ?_) ?_
    | with_reducible refine faultJob_keeps (not_mem_of_subset hk ?_) ?_
    | with_reducible refine keepJob_keeps (not_mem_of_subset hk ?_) ?_
    | with_reducible refine ite_keeps ?_ ?_
    | with_reducible refine foldl_keeps ?_ (fun t a h => ?_)
    | dsimp -proj only
    | split
    | decide

theorem execCapture_keeps {k : Comp} {s x : State} {a0} (hk : k ∉ [.evt, .heel, .lanes, .links, .last, .store, .win, .imc, .wqs, .cqs, .units, .slots, .sched, .nvm, .cal, .free]) (h : k.same s x) :
    ∃ t, execCapture a0 x = .next t ∧ k.same s t := by
  unfold execCapture
  repeat' first
    | with_reducible assumption
    | with_reducible refine done_keeps (not_mem_of_subset hk ?_) ?_
    | with_reducible refine armCapture_keeps (not_mem_of_subset hk ?_) ?_
    | with_reducible refine ite_keeps ?_ ?_
    | with_reducible refine foldl_keeps ?_ (fun t a h => ?_)
    | dsimp -proj only
    | split
    | decide

theorem putSet_keeps {k : Comp} {s x : State} {a0 a1 a2 a3 a4} (hk : k ∉ [.lanes, .links]) (h : k.same s x) :
    k.same s (putSet x a0 a1 a2 a3 a4) := by
  unfold putSet
  repeat' first
    | with_reducible assumption
    | with_reducible refine modTr_keeps (not_mem_of_subset hk ?_) ?_
    | with_reducible refine planSet_keeps (not_mem_of_subset hk ?_) ?_
    | with_reducible refine ite_keeps ?_ ?_
    | with_reducible refine foldl_keeps ?_ (fun t a h => ?_)
    | dsimp -proj only
    | split
    | decide

theorem sendTos_keeps {k : Comp} {s x : State} {a0 a1 a2 a3} (hk : k ∉ [.lanes, .links]) (h : k.same s x) :
    k.same s (sendTos x a0 a1 a2 a3) := by
  unfold sendTos
  repeat' first
    | with_reducible assumption
    | with_reducible refine putSet_keeps (not_mem_of_subset hk ?_) ?_
    | with_reducible refine ite_keeps ?_ ?_
    | with_reducible refine foldl_keeps ?_ (fun t a h => ?_)
    | dsimp -proj only
    | split
    | decide

theorem execWqDoorbell_keeps {k : Comp} {s x : State} {a0 a1 a2} (hk : k ∉ [.power, .boot, .dev, .welt, .therm, .evt, .heel, .lanes, .links, .last, .store, .win, .twb, .imc, .wqs, .cqs, .units, .slots, .sched, .awl, .nvm, .tm, .time, .cal, .free]) (h : k.same s x) :
    ∃ t, execWqDoorbell a0 a1 a2 x = .next t ∧ k.same s t := by
  unfold execWqDoorbell
  repeat' first
    | with_reducible assumption
    | with_reducible refine done_keeps (not_mem_of_subset hk ?_) ?_
    | with_reducible refine writeTo_keeps (not_mem_of_subset hk ?_) ?_
    | with_reducible refine ite_keeps ?_ ?_
    | with_reducible refine foldl_keeps ?_ (fun t a h => ?_)
    | dsimp -proj only
    | split
    | decide

theorem symbolAfterExchange_keeps {k : Comp} {s x : State} {a0 a1} (hk : k ∉ [.evt, .links, .last, .store, .nvm]) (h : k.same s x) :
    k.same s (symbolAfterExchange x a0 a1) := by
  unfold symbolAfterExchange
  repeat' first
    | with_reducible assumption
    | with_reducible refine linkSymbol_keeps (not_mem_of_subset hk ?_) ?_
    | with_reducible refine ite_keeps ?_ ?_
    | with_reducible refine foldl_keeps ?_ (fun t a h => ?_)
    | dsimp -proj only
    | split
    | decide

theorem badMos_keeps {k : Comp} {s x : State} {a0} (hk : k ∉ [.imc]) (h : k.same s x) :
    k.same s (badMos x a0) := by
  unfold badMos
  try dsimp -zeta -proj only [upd_imc]
  repeat' first
    | with_reducible assumption
    | with_reducible refine putImc_keeps (not_mem_of_subset hk ?_) ?_
    | with_reducible refine ite_keeps ?_ ?_
    | with_reducible refine foldl_keeps ?_ (fun t a h => ?_)
    | dsimp -proj only
    | split
    | decide

theorem takeSpareRsp_keeps_eq {k : Comp} {s x : State} {a0 a1 a2} {u} (hk : k ∉ [.power, .welt, .evt, .lanes, .links, .last, .store, .units, .nvm, .cal, .free]) (h : k.same s x) (e : takeSpareRsp x a0 a1 a2 = some u) :
    k.same s u := by
  unfold takeSpareRsp at e
  split at e
  · cases e
    exact followStandin_keeps (not_mem_of_subset hk (by decide)) (ite_keeps (swapAck_keeps (not_mem_of_subset hk (by decide)) h)
      (failSwap_keeps (not_mem_of_subset hk (by decide)) h))
  · split at e <;> cases e
    exact modLink_keeps (not_mem_of_subset hk (by decide)) h

theorem execSpareRspReceived_keeps {k : Comp} {s x : State} {a0 a1 a2} (hk : k ∉ [.power, .welt, .evt, .heel, .lanes, .links, .last, .store, .imc, .units, .nvm, .cal, .free]) (h : k.same s x) :
    ∃ t, execSpareRspReceived a0 a1 a2 x = .next t ∧ k.same s t := by
  unfold execSpareRspReceived
  repeat' first
    | with_reducible assumption
    | with_reducible refine done_keeps (not_mem_of_subset hk ?_) ?_
    | with_reducible refine badMos_keeps (not_mem_of_subset hk ?_) ?_
    | with_reducible refine getD_keeps (fun _ e => takeSpareRsp_keeps_eq (not_mem_of_subset hk (by decide)) ?_ e) ?_
    | with_reducible refine takeSpareRsp_keeps_eq (not_mem_of_subset hk ?_) ?_ (by with_reducible assumption)
    | with_reducible refine ite_keeps ?_ ?_
    | with_reducible refine foldl_keeps ?_ (fun t a h => ?_)
    | dsimp -proj only
    | split
    | decide

theorem loadQueues_keeps {k : Comp} {s x : State} (hk : k ∉ [.wqs, .cqs]) (h : k.same s x) :
    k.same s (loadQueues x) := by
  unfold loadQueues
  try dsimp -zeta -proj only [upd_wqs_cqs]
  repeat' first
    | with_reducible assumption
    | with_reducible refine putWqs_keeps (not_mem_of_subset hk ?_) ?_
    | with_reducible refine putCqs_keeps (not_mem_of_subset hk ?_) ?_
    | with_reducible refine ite_keeps ?_ ?_
    | with_reducible refine foldl_keeps ?_ (fun t a h => ?_)
    | dsimp -proj only
    | split
    | decide

theorem loadPatch_keeps {k : Comp} {s x : State} (hk : k ∉ [.evt, .heel, .store, .nvm, .free]) (h : k.same s x) :
    k.same s (loadPatch x) := by
  unfold loadPatch
  try dsimp -zeta -proj only [upd_heel]
  repeat' first
    | with_reducible assumption
    | with_reducible refine logEvent_keeps (not_mem_of_subset hk ?_) ?_
    | with_reducible refine useFree_keeps (not_mem_of_subset hk ?_) ?_
    | with_reducible refine useFree_keeps_eq (not_mem_of_subset hk ?_) ?_ (by with_reducible assumption)
    | with_reducible refine readAll_keeps (not_mem_of_subset hk ?_) ?_
    | with_reducible refine readAll_keeps_eq (not_mem_of_subset hk ?_) ?_ (by with_reducible assumption)
    | with_reducible refine putHeel_keeps (not_mem_of_subset hk ?_) ?_
    | with_reducible refine ite_keeps ?_ ?_
    | with_reducible refine foldl_keeps ?_ (fun t a h => ?_)
    | dsimp -proj only
    | split
    | decide

theorem loadWindows_keeps {k : Comp} {s x : State} (hk : k ∉ [.win]) (h : k.same s x) :
    k.same s (loadWindows x) := by
  unfold loadWindows
  try dsimp -zeta -proj only [upd_win]
  repeat' first
    | with_reducible assumption
    | with_reducible refine setWinEntry_keeps (not_mem_of_subset hk ?_) ?_
    | with_reducible refine putWin_keeps (not_mem_of_subset hk ?_) ?_
    | with_reducible refine ite_keeps ?_ ?_
    | with_reducible refine foldl_keeps ?_ (fun t a h => ?_)
    | dsimp -proj only
    | split
    | decide

theorem loadSpares_keeps {k : Comp} {s x : State} (hk : k ∉ [.links]) (h : k.same s x) :
    k.same s (loadSpares x) := by
  unfold loadSpares
  repeat' first
    | with_reducible assumption
    | with_reducible refine setSpare_keeps (not_mem_of_subset hk ?_) ?_
    | with_reducible refine ite_keeps ?_ ?_
    | with_reducible refine foldl_keeps ?_ (fun t a h => ?_)
    | dsimp -proj only
    | split
    | decide

theorem applyGlobal_keeps {k : Comp} {s x : State} (hk : k ∉ [.boot, .evt, .heel, .links, .store, .win, .wqs, .cqs, .nvm, .tm, .free]) (h : k.same s x) :
    k.same s (applyGlobal x) := by
  unfold applyGlobal
  try dsimp -zeta -proj only [upd_boot_store]
  repeat' first
    | with_reducible assumption
    | with_reducible refine logEvent_keeps (not_mem_of_subset hk ?_) ?_
    | with_reducible refine loadQueues_keeps (not_mem_of_subset hk ?_) ?_
    | with_reducible refine loadPatch_keeps (not_mem_of_subset hk ?_) ?_
    | with_reducible refine loadWindows_keeps (not_mem_of_subset hk ?_) ?_
    | with_reducible refine loadPrograms_keeps (not_mem_of_subset hk ?_) ?_
    | with_reducible refine loadSpares_keeps (not_mem_of_subset hk ?_) ?_
    | with_reducible refine putBoot_keeps (not_mem_of_subset hk ?_) ?_
    | with_reducible refine putStore_keeps (not_mem_of_subset hk ?_) ?_
    | with_reducible refine ite_keeps ?_ ?_
    | with_reducible refine foldl_keeps ?_ (fun t a h => ?_)
    | dsimp -proj only
    | split
    | decide

theorem execGlobalApply_keeps {k : Comp} {s x : State} (hk : k ∉ [.boot, .evt, .heel, .lanes, .links, .store, .win, .imc, .wqs, .cqs, .units, .nvm, .tm, .cal, .free]) (h : k.same s x) :
    ∃ t, execGlobalApply x = .next t ∧ k.same s t := by
  unfold execGlobalApply
  repeat' first
    | with_reducible assumption
    | with_reducible refine done_keeps (not_mem_of_subset hk ?_) ?_
    | with_reducible refine applyGlobal_keeps (not_mem_of_subset hk ?_) ?_
    | with_reducible refine ite_keeps ?_ ?_
    | with_reducible refine foldl_keeps ?_ (fun t a h => ?_)
    | dsimp -proj only
    | split
    | decide

theorem execSnapshotExpiry_keeps {k : Comp} {s x : State} {a0 a1} (hk : k ∉ [.evt, .heel, .lanes, .links, .store, .imc, .units, .nvm, .cal, .free]) (h : k.same s x) :
    ∃ t, execSnapshotExpiry a0 a1 x = .next t ∧ k.same s t := by
  unfold execSnapshotExpiry
  repeat' first
    | with_reducible assumption
    | with_reducible refine done_keeps (not_mem_of_subset hk ?_) ?_
    | with_reducible refine modSnap_keeps (not_mem_of_subset hk ?_) ?_
    | with_reducible refine ite_keeps ?_ ?_
    | with_reducible refine foldl_keeps ?_ (fun t a h => ?_)
    | dsimp -proj only
    | split
    | decide

theorem logCandidate_keeps {k : Comp} {s x : State} {a0 a1} (hk : k ∉ [.evt, .store, .nvm]) (h : k.same s x) :
    k.same s (logCandidate x a0 a1) := by
  unfold logCandidate
  repeat' first
    | with_reducible assumption
    | with_reducible refine logEvent_keeps (not_mem_of_subset hk ?_) ?_
    | with_reducible refine ite_keeps ?_ ?_
    | with_reducible refine foldl_keeps ?_ (fun t a h => ?_)
    | dsimp -proj only
    | split
    | decide

theorem useLast_keeps {k : Comp} {s x : State} {a0 a1 a2} (hk : k ∉ [.boot, .welt, .evt, .lanes, .last, .store, .units, .nvm]) (h : k.same s x) :
    k.same s (useLast x a0 a1 a2) := by
  unfold useLast
  try dsimp -zeta -proj only [upd_boot_last]
  repeat' first
    | with_reducible assumption
    | with_reducible refine settleAll_keeps (not_mem_of_subset hk ?_) ?_
    | with_reducible refine putBoot_keeps (not_mem_of_subset hk ?_) ?_
    | with_reducible refine putLast_keeps (not_mem_of_subset hk ?_) ?_
    | with_reducible refine ite_keeps ?_ ?_
    | with_reducible refine foldl_keeps ?_ (fun t a h => ?_)
    | dsimp -proj only
    | split
    | decide

theorem readUnits_keeps {k : Comp} {s x : State} {a0 a1} (hk : k ∉ [.nvm, .free]) (h : k.same s x) :
    k.same s (readUnits a0 x a1).2 := by
  induction a0 generalizing x a1 with
  | zero => exact h
  | succ n ih =>
    unfold readUnits
    split
    · exact readUnit_keeps_eq (not_mem_of_subset hk (by decide)) h (by assumption)
    · rename_i t _ e
      have g : k.same s t := readUnit_keeps_eq (not_mem_of_subset hk (by decide)) h e
      have i := ih (x := t) (a1 := a1 + 1) g
      split <;> (rename_i e'; rw [e'] at i; exact i)

theorem readUnits_keeps_eq {k : Comp} {s x : State} {a0 a1} {r u} (hk : k ∉ [.nvm, .free]) (h : k.same s x) (e : readUnits a0 x a1 = (r, u)) :
    k.same s u := by
  simpa only [e] using readUnits_keeps (s := s) (x := x) (a0 := a0) (a1 := a1) hk h

theorem checkBody_keeps {k : Comp} {s x : State} {a0 a1} (hk : k ∉ [.nvm, .free]) (h : k.same s x) :
    k.same s (checkBody x a0 a1).2 := by
  unfold checkBody
  repeat' first
    | with_reducible assumption
    | with_reducible refine readUnits_keeps (not_mem_of_subset hk ?_) ?_
    | with_reducible refine readUnits_keeps_eq (not_mem_of_subset hk ?_) ?_ (by with_reducible assumption)
    | with_reducible refine ite_keeps ?_ ?_
    | with_reducible refine foldl_keeps ?_ (fun t a h => ?_)
    | dsimp -proj only
    | split
    | decide

theorem checkBody_keeps_eq {k : Comp} {s x : State} {a0 a1} {r u} (hk : k ∉ [.nvm, .free]) (h : k.same s x) (e : checkBody x a0 a1 = (r, u)) :
    k.same s u := by
  simpa only [e] using checkBody_keeps (s := s) (x := x) (a0 := a0) (a1 := a1) hk h

theorem checkSlot_keeps {k : Comp} {s x : State} {a0} (hk : k ∉ [.nvm, .free]) (h : k.same s x) :
    k.same s (checkSlot x a0).2 := by
  unfold checkSlot
  repeat' first
    | with_reducible assumption
    | with_reducible refine readUnits_keeps (not_mem_of_subset hk ?_) ?_
    | with_reducible refine readUnits_keeps_eq (not_mem_of_subset hk ?_) ?_ (by with_reducible assumption)
    | with_reducible refine checkBody_keeps (not_mem_of_subset hk ?_) ?_
    | with_reducible refine checkBody_keeps_eq (not_mem_of_subset hk ?_) ?_ (by with_reducible assumption)
    | with_reducible refine ite_keeps ?_ ?_
    | with_reducible refine foldl_keeps ?_ (fun t a h => ?_)
    | dsimp -proj only
    | split
    | decide

theorem checkSlot_keeps_eq {k : Comp} {s x : State} {a0} {r u} (hk : k ∉ [.nvm, .free]) (h : k.same s x) (e : checkSlot x a0 = (r, u)) :
    k.same s u := by
  simpa only [e] using checkSlot_keeps (s := s) (x := x) (a0 := a0) hk h

theorem selectLow_keeps {k : Comp} {s x : State} {a0} (hk : k ∉ [.boot, .welt, .evt, .lanes, .last, .store, .units, .nvm, .free]) (h : k.same s x) :
    k.same s (selectLow x a0) := by
  unfold selectLow
  try dsimp -zeta -proj only [upd_last]
  repeat' first
    | with_reducible assumption
    | with_reducible refine checkSlot_keeps (not_mem_of_subset hk ?_) ?_
    | with_reducible refine checkSlot_keeps_eq (not_mem_of_subset hk ?_) ?_ (by with_reducible assumption)
    | with_reducible refine logCandidate_keeps (not_mem_of_subset hk ?_) ?_
    | with_reducible refine useLast_keeps (not_mem_of_subset hk ?_) ?_
    | with_reducible refine putLast_keeps (not_mem_of_subset hk ?_) ?_
    | with_reducible refine ite_keeps ?_ ?_
    | with_reducible refine foldl_keeps ?_ (fun t a h => ?_)
    | dsimp -proj only
    | split
    | decide

theorem selectNvm_keeps {k : Comp} {s x : State} {a0} (hk : k ∉ [.boot, .welt, .evt, .lanes, .last, .store, .units, .nvm, .free]) (h : k.same s x) :
    k.same s (selectNvm x a0) := by
  unfold selectNvm
  try dsimp -zeta -proj only [upd_last]
  repeat' first
    | with_reducible assumption
    | with_reducible refine checkSlot_keeps (not_mem_of_subset hk ?_) ?_
    | with_reducible refine checkSlot_keeps_eq (not_mem_of_subset hk ?_) ?_ (by with_reducible assumption)
    | with_reducible refine logCandidate_keeps (not_mem_of_subset hk ?_) ?_
    | with_reducible refine useLast_keeps (not_mem_of_subset hk ?_) ?_
    | with_reducible refine selectLow_keeps (not_mem_of_subset hk ?_) ?_
    | with_reducible refine putLast_keeps (not_mem_of_subset hk ?_) ?_
    | with_reducible refine ite_keeps ?_ ?_
    | with_reducible refine foldl_keeps ?_ (fun t a h => ?_)
    | dsimp -proj only
    | split
    | decide

theorem selectLast_keeps {k : Comp} {s x : State} (hk : k ∉ [.boot, .welt, .evt, .lanes, .last, .store, .units, .nvm, .free]) (h : k.same s x) :
    k.same s (selectLast x) := by
  unfold selectLast
  try dsimp -zeta -proj only [upd_boot, upd_last]
  repeat' first
    | with_reducible assumption
    | with_reducible refine logCandidate_keeps (not_mem_of_subset hk ?_) ?_
    | with_reducible refine useLast_keeps (not_mem_of_subset hk ?_) ?_
    | with_reducible refine selectNvm_keeps (not_mem_of_subset hk ?_) ?_
    | with_reducible refine putBoot_keeps (not_mem_of_subset hk ?_) ?_
    | with_reducible refine putLast_keeps (not_mem_of_subset hk ?_) ?_
    | with_reducible refine ite_keeps ?_ ?_
    | with_reducible refine foldl_keeps ?_ (fun t a h => ?_)
    | dsimp -proj only
    | split
    | decide

theorem predictOne_keeps {k : Comp} {s x : State} {a0 a1 a2} (hk : k ∉ [.lanes, .links, .free]) (h : k.same s x) :
    k.same s (predictOne x a0 a1 a2) := by
  unfold predictOne
  repeat' first
    | with_reducible assumption
    | with_reducible refine beginSwap_keeps (not_mem_of_subset hk ?_) ?_
    | with_reducible refine modMeas_keeps (not_mem_of_subset hk ?_) ?_
    | with_reducible refine ite_keeps ?_ ?_
    | with_reducible refine foldl_keeps ?_ (fun t a h => ?_)
    | dsimp -proj only
    | split
    | decide

theorem execPredictiveEvaluation_keeps {k : Comp} {s x : State} (hk : k ∉ [.evt, .heel, .lanes, .links, .store, .imc, .units, .nvm, .cal, .free]) (h : k.same s x) :
    ∃ t, execPredictiveEvaluation x = .next t ∧ k.same s t := by
  unfold execPredictiveEvaluation
  repeat' first
    | with_reducible assumption
    | with_reducible refine done_keeps (not_mem_of_subset hk ?_) ?_
    | with_reducible refine predictOne_keeps (not_mem_of_subset hk ?_) ?_
    | with_reducible refine ite_keeps ?_ ?_
    | with_reducible refine foldl_keeps ?_ (fun t a h => ?_)
    | dsimp -proj only
    | split
    | decide

theorem logTx_keeps {k : Comp} {s x : State} {a0 a1 a2 a3} (hk : k ∉ [.evt, .store, .nvm]) (h : k.same s x) :
    k.same s (logTx x a0 a1 a2 a3) := by
  unfold logTx
  repeat' first
    | with_reducible assumption
    | with_reducible refine logEvent_keeps (not_mem_of_subset hk ?_) ?_
    | with_reducible refine ite_keeps ?_ ?_
    | with_reducible refine foldl_keeps ?_ (fun t a h => ?_)
    | dsimp -proj only
    | split
    | decide

theorem execSwingLimit_keeps {k : Comp} {s x : State} {a0 a1 a2} (hk : k ∉ [.evt, .heel, .lanes, .links, .store, .imc, .units, .nvm, .cal, .free]) (h : k.same s x) :
    ∃ t, execSwingLimit a0 a1 a2 x = .next t ∧ k.same s t := by
  unfold execSwingLimit
  repeat' first
    | with_reducible assumption
    | with_reducible refine done_keeps (not_mem_of_subset hk ?_) ?_
    | with_reducible refine modTx_keeps (not_mem_of_subset hk ?_) ?_
    | with_reducible refine logTx_keeps (not_mem_of_subset hk ?_) ?_
    | with_reducible refine ite_keeps ?_ ?_
    | with_reducible refine foldl_keeps ?_ (fun t a h => ?_)
    | dsimp -proj only
    | split
    | decide

theorem abandonPlanned_keeps {k : Comp} {s x : State} {a0 a1} (hk : k ∉ [.welt, .evt, .lanes, .links, .last, .store, .units, .nvm, .free]) (h : k.same s x) :
    k.same s (abandonPlanned x a0 a1) := by
  unfold abandonPlanned
  repeat' first
    | with_reducible assumption
    | with_reducible refine restSpare_keeps (not_mem_of_subset hk ?_) ?_
    | with_reducible refine dropSwap_keeps (not_mem_of_subset hk ?_) ?_
    | with_reducible refine giveUp_keeps (not_mem_of_subset hk ?_) ?_
    | with_reducible refine ite_keeps ?_ ?_
    | with_reducible refine foldl_keeps ?_ (fun t a h => ?_)
    | dsimp -proj only
    | split
    | decide

theorem policySpare_keeps {k : Comp} {s x : State} {a0 a1 a2} (hk : k ∉ [.power, .welt, .evt, .lanes, .links, .last, .store, .units, .nvm, .cal, .free]) (h : k.same s x) :
    k.same s (policySpare x a0 a1 a2) := by
  unfold policySpare
  repeat' first
    | with_reducible assumption
    | with_reducible refine abandonPlanned_keeps (not_mem_of_subset hk ?_) ?_
    | with_reducible refine modLink_keeps (not_mem_of_subset hk ?_) ?_
    | with_reducible refine lossSpare_keeps (not_mem_of_subset hk ?_) ?_
    | with_reducible refine ite_keeps ?_ ?_
    | with_reducible refine foldl_keeps ?_ (fun t a h => ?_)
    | dsimp -proj only
    | split
    | decide

theorem lossPolicy_keeps {k : Comp} {s x : State} {a0 a1 a2} (hk : k ∉ [.power, .welt, .evt, .lanes, .links, .last, .store, .units, .nvm, .cal, .free]) (h : k.same s x) :
    k.same s (lossPolicy x a0 a1 a2) := by
  unfold lossPolicy
  repeat' first
    | with_reducible assumption
    | with_reducible refine policySpare_keeps (not_mem_of_subset hk ?_) ?_
    | with_reducible refine lossDegrade_keeps (not_mem_of_subset hk ?_) ?_
    | with_reducible refine lossDown_keeps (not_mem_of_subset hk ?_) ?_
    | with_reducible refine ite_keeps ?_ ?_
    | with_reducible refine foldl_keeps ?_ (fun t a h => ?_)
    | dsimp -proj only
    | split
    | decide

theorem afterLoss_keeps {k : Comp} {s x : State} {a0 a1 a2} (hk : k ∉ [.power, .welt, .evt, .lanes, .links, .last, .store, .units, .nvm, .cal, .free]) (h : k.same s x) :
    k.same s (afterLoss x a0 a1 a2) := by
  unfold afterLoss
  repeat' first
    | with_reducible assumption
    | with_reducible refine turnSwap_keeps (not_mem_of_subset hk ?_) ?_
    | with_reducible refine lossPolicy_keeps (not_mem_of_subset hk ?_) ?_
    | with_reducible refine enterRetrain_keeps (not_mem_of_subset hk ?_) ?_
    | with_reducible refine requestRetrain_keeps (not_mem_of_subset hk ?_) ?_
    | with_reducible refine ite_keeps ?_ ?_
    | with_reducible refine foldl_keeps ?_ (fun t a h => ?_)
    | dsimp -proj only
    | split
    | decide

theorem moveEditLane_keeps {k : Comp} {s x : State} {a0 a1} (hk : k ∉ [.evt, .links, .store, .nvm]) (h : k.same s x) :
    k.same s (moveEditLane x a0 a1) := by
  unfold moveEditLane
  repeat' first
    | with_reducible assumption
    | with_reducible refine modLink_keeps (not_mem_of_subset hk ?_) ?_
    | with_reducible refine logLane_keeps (not_mem_of_subset hk ?_) ?_
    | with_reducible refine ite_keeps ?_ ?_
    | with_reducible refine foldl_keeps ?_ (fun t a h => ?_)
    | dsimp -proj only
    | split
    | decide

theorem afterLosses_keeps {k : Comp} {s x : State} {a0 a1 a2} (hk : k ∉ [.power, .welt, .evt, .lanes, .links, .last, .store, .units, .nvm, .cal, .free]) (h : k.same s x) :
    k.same s (afterLosses x a0 a1 a2) := by
  unfold afterLosses
  repeat' first
    | with_reducible assumption
    | with_reducible refine afterLoss_keeps (not_mem_of_subset hk ?_) ?_
    | with_reducible refine moveEditLane_keeps (not_mem_of_subset hk ?_) ?_
    | with_reducible refine ite_keeps ?_ ?_
    | with_reducible refine foldl_keeps ?_ (fun t a h => ?_)
    | dsimp -proj only
    | split
    | decide

theorem declareLost_keeps {k : Comp} {s x : State} {a0 a1 a2 a3} (hk : k ∉ [.power, .welt, .evt, .lanes, .links, .last, .store, .units, .nvm, .cal, .free]) (h : k.same s x) :
    k.same s (declareLost x a0 a1 a2 a3) := by
  unfold declareLost
  repeat' first
    | with_reducible assumption
    | with_reducible refine markLost_keeps (not_mem_of_subset hk ?_) ?_
    | with_reducible refine afterLosses_keeps (not_mem_of_subset hk ?_) ?_
    | with_reducible refine ite_keeps ?_ ?_
    | with_reducible refine foldl_keeps ?_ (fun t a h => ?_)
    | dsimp -proj only
    | split
    | decide

theorem moveForward_keeps {k : Comp} {s x : State} {a0 a1 a2 a3} (hk : k ∉ [.power, .welt, .evt, .lanes, .links, .last, .store, .units, .nvm, .cal, .free]) (h : k.same s x) :
    k.same s (moveForward x a0 a1 a2 a3) := by
  unfold moveForward
  repeat' first
    | with_reducible assumption
    | with_reducible refine declareLost_keeps (not_mem_of_subset hk ?_) ?_
    | with_reducible refine setSpare_keeps (not_mem_of_subset hk ?_) ?_
    | with_reducible refine ite_keeps ?_ ?_
    | with_reducible refine foldl_keeps ?_ (fun t a h => ?_)
    | dsimp -proj only
    | split
    | decide

theorem passSpare_keeps {k : Comp} {s x : State} {a0 a1} (hk : k ∉ [.power, .welt, .evt, .lanes, .links, .last, .store, .units, .nvm, .cal, .free]) (h : k.same s x) :
    k.same s (passSpare x a0 a1) := by
  unfold passSpare
  repeat' first
    | with_reducible assumption
    | with_reducible refine restSpare_keeps (not_mem_of_subset hk ?_) ?_
    | with_reducible refine moveForward_keeps (not_mem_of_subset hk ?_) ?_
    | with_reducible refine setSpare_keeps (not_mem_of_subset hk ?_) ?_
    | with_reducible refine ite_keeps ?_ ?_
    | with_reducible refine foldl_keeps ?_ (fun t a h => ?_)
    | dsimp -proj only
    | split
    | decide

theorem noteMos_keeps {k : Comp} {s x : State} {a0 a1} (hk : k ∉ [.power, .welt, .evt, .lanes, .links, .last, .store, .units, .nvm, .cal, .free]) (h : k.same s x) :
    k.same s (noteMos x a0 a1) := by
  unfold noteMos
  repeat' first
    | with_reducible assumption
    | with_reducible refine grantSeen_keeps (not_mem_of_subset hk ?_) ?_
    | with_reducible refine passSpare_keeps (not_mem_of_subset hk ?_) ?_
    | with_reducible refine ite_keeps ?_ ?_
    | with_reducible refine foldl_keeps ?_ (fun t a h => ?_)
    | dsimp -proj only
    | split
    | decide

theorem searchEvent_keeps {k : Comp} {s x : State} {a0 a1 a2} (hk : k ∉ [.lanes]) (h : k.same s x) :
    k.same s (searchEvent x a0 a1 a2) := by
  unfold searchEvent
  repeat' first
    | with_reducible assumption
    | with_reducible refine modLane_keeps (not_mem_of_subset hk ?_) ?_
    | with_reducible refine ite_keeps ?_ ?_
    | with_reducible refine foldl_keeps ?_ (fun t a h => ?_)
    | dsimp -proj only
    | split
    | decide

theorem execPresetSearchStep_keeps {k : Comp} {s x : State} {a0 a1 a2} (hk : k ∉ [.evt, .heel, .lanes, .links, .store, .imc, .units, .nvm, .cal, .free]) (h : k.same s x) :
    ∃ t, execPresetSearchStep a0 a1 a2 x = .next t ∧ k.same s t := by
  unfold execPresetSearchStep
  repeat' first
    | with_reducible assumption
    | with_reducible refine done_keeps (not_mem_of_subset hk ?_) ?_
    | with_reducible refine searchEvent_keeps (not_mem_of_subset hk ?_) ?_
    | with_reducible refine ite_keeps ?_ ?_
    | with_reducible refine foldl_keeps ?_ (fun t a h => ?_)
    | dsimp -proj only
    | split
    | decide

theorem rollback_keeps {k : Comp} {s x : State} {a0} (hk : k ∉ [.power, .welt, .evt, .lanes, .links, .last, .store, .units, .nvm, .free]) (h : k.same s x) :
    k.same s (rollback x a0) := by
  unfold rollback
  repeat' first
    | with_reducible assumption
    | with_reducible refine setResult_keeps (not_mem_of_subset hk ?_) ?_
    | with_reducible refine takeUp_keeps (not_mem_of_subset hk ?_) ?_
    | with_reducible refine laneRestart_keeps (not_mem_of_subset hk ?_) ?_
    | with_reducible refine modLast_keeps (not_mem_of_subset hk ?_) ?_
    | with_reducible refine requestRetrain_keeps (not_mem_of_subset hk ?_) ?_
    | with_reducible refine ite_keeps ?_ ?_
    | with_reducible refine foldl_keeps ?_ (fun t a h => ?_)
    | dsimp -proj only
    | split
    | decide

theorem enterAlign_keeps {k : Comp} {s x : State} {a0} (hk : k ∉ [.lanes, .links]) (h : k.same s x) :
    k.same s (enterAlign x a0) := by
  unfold enterAlign
  repeat' first
    | with_reducible assumption
    | with_reducible refine modRxs_keeps (not_mem_of_subset hk ?_) ?_
    | with_reducible refine modLink_keeps (not_mem_of_subset hk ?_) ?_
    | with_reducible refine ite_keeps ?_ ?_
    | with_reducible refine foldl_keeps ?_ (fun t a h => ?_)
    | dsimp -proj only
    | split
    | decide

theorem execJtagIdcode_keeps {k : Comp} {s x : State} (hk : k ∉ [.evt, .heel, .lanes, .links, .store, .twb, .imc, .jtag, .units, .nvm, .cal, .free]) (h : k.same s x) :
    ∃ t, execJtagIdcode x = .next t ∧ k.same s t := by
  unfold execJtagIdcode
  repeat' first
    | with_reducible assumption
    | with_reducible refine done_keeps (not_mem_of_subset hk ?_) ?_
    | with_reducible refine jtagLoad_keeps (not_mem_of_subset hk ?_) ?_
    | with_reducible refine modJtag_keeps (not_mem_of_subset hk ?_) ?_
    | with_reducible refine ite_keeps ?_ ?_
    | with_reducible refine foldl_keeps ?_ (fun t a h => ?_)
    | dsimp -proj only
    | split
    | decide

theorem aligningLost_keeps {k : Comp} {s x : State} {a0 a1 a2 a3} (hk : k ∉ [.power, .welt, .evt, .lanes, .links, .last, .store, .units, .nvm, .cal, .free]) (h : k.same s x) :
    k.same s (aligningLost x a0 a1 a2 a3) := by
  unfold aligningLost
  repeat' first
    | with_reducible assumption
    | with_reducible refine noteLoss_keeps (not_mem_of_subset hk ?_) ?_
    | with_reducible refine failSwap_keeps (not_mem_of_subset hk ?_) ?_
    | with_reducible refine ite_keeps ?_ ?_
    | with_reducible refine foldl_keeps ?_ (fun t a h => ?_)
    | dsimp -proj only
    | split
    | decide

theorem forwardLost_keeps {k : Comp} {s x : State} {a0 a1 a2 a3} (hk : k ∉ [.evt, .lanes, .links, .store, .units, .nvm]) (h : k.same s x) :
    k.same s (forwardLost x a0 a1 a2 a3) := by
  unfold forwardLost
  repeat' first
    | with_reducible assumption
    | with_reducible refine noteLoss_keeps (not_mem_of_subset hk ?_) ?_
    | with_reducible refine modRx_keeps (not_mem_of_subset hk ?_) ?_
    | with_reducible refine setSpare_keeps (not_mem_of_subset hk ?_) ?_
    | with_reducible refine ite_keeps ?_ ?_
    | with_reducible refine foldl_keeps ?_ (fun t a h => ?_)
    | dsimp -proj only
    | split
    | decide

theorem rxLost_keeps {k : Comp} {s x : State} {a0 a1 a2} (hk : k ∉ [.power, .welt, .evt, .lanes, .links, .last, .store, .units, .nvm, .cal, .free]) (h : k.same s x) :
    k.same s (rxLost x a0 a1 a2) := by
  unfold rxLost
  repeat' first
    | with_reducible assumption
    | with_reducible refine aligningLost_keeps (not_mem_of_subset hk ?_) ?_
    | with_reducible refine forwardLost_keeps (not_mem_of_subset hk ?_) ?_
    | with_reducible refine declareLost_keeps (not_mem_of_subset hk ?_) ?_
    | with_reducible refine ite_keeps ?_ ?_
    | with_reducible refine foldl_keeps ?_ (fun t a h => ?_)
    | dsimp -proj only
    | split
    | decide

theorem takeHops_keeps {k : Comp} {s x : State} {a0 a1 a2} (hk : k ∉ [.evt, .links, .store, .nvm]) (h : k.same s x) :
    k.same s (takeHops x a0 a1 a2) := by
  unfold takeHops
  repeat' first
    | with_reducible assumption
    | with_reducible refine modLink_keeps (not_mem_of_subset hk ?_) ?_
    | with_reducible refine logK_keeps (not_mem_of_subset hk ?_) ?_
    | with_reducible refine ite_keeps ?_ ?_
    | with_reducible refine foldl_keeps ?_ (fun t a h => ?_)
    | dsimp -proj only
    | split
    | decide

theorem seenTos_keeps {k : Comp} {s x : State} {a0 a1 a2} (hk : k ∉ [.lanes, .links]) (h : k.same s x) :
    k.same s (seenTos x a0 a1 a2) := by
  unfold seenTos
  repeat' first
    | with_reducible assumption
    | with_reducible refine modTr_keeps (not_mem_of_subset hk ?_) ?_
    | with_reducible refine modLink_keeps (not_mem_of_subset hk ?_) ?_
    | with_reducible refine enterAlign_keeps (not_mem_of_subset hk ?_) ?_
    | with_reducible refine ite_keeps ?_ ?_
    | with_reducible refine foldl_keeps ?_ (fun t a h => ?_)
    | dsimp -proj only
    | split
    | decide

theorem readTosA_keeps {k : Comp} {s x : State} {a0 a1 a2 a3} (hk : k ∉ [.links]) (h : k.same s x) :
    k.same s (readTosA x a0 a1 a2 a3) := by
  unfold readTosA
  repeat' first
    | with_reducible assumption
    | with_reducible refine modTr_keeps (not_mem_of_subset hk ?_) ?_
    | with_reducible refine modLink_keeps (not_mem_of_subset hk ?_) ?_
    | with_reducible refine ite_keeps ?_ ?_
    | with_reducible refine foldl_keeps ?_ (fun t a h => ?_)
    | dsimp -proj only
    | split
    | decide

theorem tosAIn_keeps {k : Comp} {s x : State} {a0 a1 a2 a3} (hk : k ∉ [.evt, .lanes, .links, .store, .nvm]) (h : k.same s x) :
    k.same s (tosAIn x a0 a1 a2 a3) := by
  unfold tosAIn
  repeat' first
    | with_reducible assumption
    | with_reducible refine takeHops_keeps (not_mem_of_subset hk ?_) ?_
    | with_reducible refine sendTos_keeps (not_mem_of_subset hk ?_) ?_
    | with_reducible refine seenTos_keeps (not_mem_of_subset hk ?_) ?_
    | with_reducible refine readTosA_keeps (not_mem_of_subset hk ?_) ?_
    | with_reducible refine ite_keeps ?_ ?_
    | with_reducible refine foldl_keeps ?_ (fun t a h => ?_)
    | dsimp -proj only
    | split
    | decide

theorem execJoinTimeout_keeps {k : Comp} {s x : State} {a0} (hk : k ∉ [.power, .welt, .evt, .heel, .lanes, .links, .last, .store, .imc, .units, .nvm, .cal, .free]) (h : k.same s x) :
    ∃ t, execJoinTimeout a0 x = .next t ∧ k.same s t := by
  unfold execJoinTimeout
  repeat' first
    | with_reducible assumption
    | with_reducible refine done_keeps (not_mem_of_subset hk ?_) ?_
    | with_reducible refine logK_keeps (not_mem_of_subset hk ?_) ?_
    | with_reducible refine startJoin_keeps (not_mem_of_subset hk ?_) ?_
    | with_reducible refine ite_keeps ?_ ?_
    | with_reducible refine foldl_keeps ?_ (fun t a h => ?_)
    | dsimp -proj only
    | split
    | decide

theorem execDtrateWrite_keeps {k : Comp} {s x : State} {a0 a1} (hk : k ∉ [.power, .boot, .dev, .welt, .therm, .evt, .heel, .lanes, .links, .last, .store, .win, .twb, .imc, .wqs, .cqs, .units, .slots, .sched, .awl, .nvm, .tm, .time, .cal, .free]) (h : k.same s x) :
    ∃ t, execDtrateWrite a0 a1 x = .next t ∧ k.same s t := by
  unfold execDtrateWrite
  repeat' first
    | with_reducible assumption
    | with_reducible refine done_keeps (not_mem_of_subset hk ?_) ?_
    | with_reducible refine writeTo_keeps (not_mem_of_subset hk ?_) ?_
    | with_reducible refine ite_keeps ?_ ?_
    | with_reducible refine foldl_keeps ?_ (fun t a h => ?_)
    | dsimp -proj only
    | split
    | decide

theorem execCounterClr_keeps {k : Comp} {s x : State} {a0 a1 a2 a3} (hk : k ∉ [.power, .boot, .dev, .welt, .therm, .evt, .heel, .lanes, .links, .last, .store, .win, .twb, .imc, .wqs, .cqs, .units, .slots, .sched, .awl, .nvm, .tm, .time, .cal, .free]) (h : k.same s x) :
    ∃ t, execCounterClr a0 a1 a2 a3 x = .next t ∧ k.same s t := by
  unfold execCounterClr
  repeat' first
    | with_reducible assumption
    | with_reducible refine done_keeps (not_mem_of_subset hk ?_) ?_
    | with_reducible refine writeTo_keeps (not_mem_of_subset hk ?_) ?_
    | with_reducible refine ite_keeps ?_ ?_
    | with_reducible refine foldl_keeps ?_ (fun t a h => ?_)
    | dsimp -proj only
    | split
    | decide

theorem execJtagClamp_keeps {k : Comp} {s x : State} (hk : k ∉ [.evt, .heel, .lanes, .links, .store, .twb, .imc, .jtag, .units, .nvm, .cal, .free]) (h : k.same s x) :
    ∃ t, execJtagClamp x = .next t ∧ k.same s t := by
  unfold execJtagClamp
  repeat' first
    | with_reducible assumption
    | with_reducible refine done_keeps (not_mem_of_subset hk ?_) ?_
    | with_reducible refine jtagLoad_keeps (not_mem_of_subset hk ?_) ?_
    | with_reducible refine ite_keeps ?_ ?_
    | with_reducible refine foldl_keeps ?_ (fun t a h => ?_)
    | dsimp -proj only
    | split
    | decide

theorem enterExchange_keeps {k : Comp} {s x : State} {a0} (hk : k ∉ [.links]) (h : k.same s x) :
    k.same s (enterExchange x a0) := by
  unfold enterExchange
  repeat' first
    | with_reducible assumption
    | with_reducible refine modLink_keeps (not_mem_of_subset hk ?_) ?_
    | with_reducible refine ite_keeps ?_ ?_
    | with_reducible refine foldl_keeps ?_ (fun t a h => ?_)
    | dsimp -proj only
    | split
    | decide

theorem enterLock_keeps {k : Comp} {s x : State} {a0} (hk : k ∉ [.lanes, .links]) (h : k.same s x) :
    k.same s (enterLock x a0) := by
  unfold enterLock
  repeat' first
    | with_reducible assumption
    | with_reducible refine modLink_keeps (not_mem_of_subset hk ?_) ?_
    | with_reducible refine endSearches_keeps (not_mem_of_subset hk ?_) ?_
    | with_reducible refine ite_keeps ?_ ?_
    | with_reducible refine foldl_keeps ?_ (fun t a h => ?_)
    | dsimp -proj only
    | split
    | decide

theorem startSearches_keeps {k : Comp} {s x : State} {a0 a1} (hk : k ∉ [.lanes]) (h : k.same s x) :
    k.same s (startSearches x a0 a1) := by
  unfold startSearches
  repeat' first
    | with_reducible assumption
    | with_reducible refine modLane_keeps (not_mem_of_subset hk ?_) ?_
    | with_reducible refine ite_keeps ?_ ?_
    | with_reducible refine foldl_keeps ?_ (fun t a h => ?_)
    | dsimp -proj only
    | split
    | decide

theorem abandonRamps_keeps {k : Comp} {s x : State} {a0} (hk : k ∉ [.lanes]) (h : k.same s x) :
    k.same s (abandonRamps x a0) := by
  unfold abandonRamps
  repeat' first
    | with_reducible assumption
    | with_reducible refine modTx_keeps (not_mem_of_subset hk ?_) ?_
    | with_reducible refine ite_keeps ?_ ?_
    | with_reducible refine foldl_keeps ?_ (fun t a h => ?_)
    | dsimp -proj only
    | split
    | decide

theorem enterEq1_keeps {k : Comp} {s x : State} {a0} (hk : k ∉ [.lanes, .links]) (h : k.same s x) :
    k.same s (enterEq1 x a0) := by
  unfold enterEq1
  repeat' first
    | with_reducible assumption
    | with_reducible refine startSearches_keeps (not_mem_of_subset hk ?_) ?_
    | with_reducible refine modLink_keeps (not_mem_of_subset hk ?_) ?_
    | with_reducible refine abandonRamps_keeps (not_mem_of_subset hk ?_) ?_
    | with_reducible refine ite_keeps ?_ ?_
    | with_reducible refine foldl_keeps ?_ (fun t a h => ?_)
    | dsimp -proj only
    | split
    | decide

theorem enterEq2_keeps {k : Comp} {s x : State} {a0} (hk : k ∉ [.lanes, .links]) (h : k.same s x) :
    k.same s (enterEq2 x a0) := by
  unfold enterEq2
  repeat' first
    | with_reducible assumption
    | with_reducible refine startSearches_keeps (not_mem_of_subset hk ?_) ?_
    | with_reducible refine modLink_keeps (not_mem_of_subset hk ?_) ?_
    | with_reducible refine endSearches_keeps (not_mem_of_subset hk ?_) ?_
    | with_reducible refine abandonRamps_keeps (not_mem_of_subset hk ?_) ?_
    | with_reducible refine ite_keeps ?_ ?_
    | with_reducible refine foldl_keeps ?_ (fun t a h => ?_)
    | dsimp -proj only
    | split
    | decide

theorem advance06_keeps {k : Comp} {s x : State} {a0} (hk : k ∉ [.lanes, .links]) (h : k.same s x) :
    k.same s (advance06 x a0) := by
  unfold advance06
  repeat' first
    | with_reducible assumption
    | with_reducible refine enterExchange_keeps (not_mem_of_subset hk ?_) ?_
    | with_reducible refine enterLock_keeps (not_mem_of_subset hk ?_) ?_
    | with_reducible refine enterEq1_keeps (not_mem_of_subset hk ?_) ?_
    | with_reducible refine enterEq2_keeps (not_mem_of_subset hk ?_) ?_
    | with_reducible refine ite_keeps ?_ ?_
    | with_reducible refine foldl_keeps ?_ (fun t a h => ?_)
    | dsimp -proj only
    | split
    | decide

theorem execLnscanStart_keeps {k : Comp} {s x : State} {a0 a1 a2 a3} (hk : k ∉ [.power, .boot, .dev, .welt, .therm, .evt, .heel, .lanes, .links, .last, .store, .win, .twb, .imc, .wqs, .cqs, .units, .slots, .sched, .awl, .nvm, .tm, .time, .cal, .free]) (h : k.same s x) :
    ∃ t, execLnscanStart a0 a1 a2 a3 x = .next t ∧ k.same s t := by
  unfold execLnscanStart
  repeat' first
    | with_reducible assumption
    | with_reducible refine done_keeps (not_mem_of_subset hk ?_) ?_
    | with_reducible refine writeTo_keeps (not_mem_of_subset hk ?_) ?_
    | with_reducible refine ite_keeps ?_ ?_
    | with_reducible refine foldl_keeps ?_ (fun t a h => ?_)
    | dsimp -proj only
    | split
    | decide

theorem execAwlQueue_keeps {k : Comp} {s x : State} {a0 a1} (hk : k ∉ [.power, .boot, .dev, .welt, .therm, .evt, .heel, .lanes, .links, .last, .store, .win, .twb, .imc, .wqs, .cqs, .units, .slots, .sched, .awl, .nvm, .tm, .time, .cal, .free]) (h : k.same s x) :
    ∃ t, execAwlQueue a0 a1 x = .next t ∧ k.same s t := by
  unfold execAwlQueue
  repeat' first
    | with_reducible assumption
    | with_reducible refine done_keeps (not_mem_of_subset hk ?_) ?_
    | with_reducible refine writeTo_keeps (not_mem_of_subset hk ?_) ?_
    | with_reducible refine ite_keeps ?_ ?_
    | with_reducible refine foldl_keeps ?_ (fun t a h => ?_)
    | dsimp -proj only
    | split
    | decide

theorem fullUnit_keeps {k : Comp} {s x : State} (hk : k ∉ [.lanes, .free]) (h : k.same s x) :
    k.same s (fullUnit x) := by
  unfold fullUnit
  try dsimp -zeta -proj only [upd_free]
  repeat' first
    | with_reducible assumption
    | with_reducible refine modCal_keeps (not_mem_of_subset hk ?_) ?_
    | with_reducible refine putFree_keeps (not_mem_of_subset hk ?_) ?_
    | with_reducible refine ite_keeps ?_ ?_
    | with_reducible refine foldl_keeps ?_ (fun t a h => ?_)
    | dsimp -proj only
    | split
    | decide

theorem recalStep_keeps {k : Comp} {s x : State} {a0} (hk : k ∉ [.lanes, .links, .cal, .free]) (h : k.same s x) :
    k.same s (recalStep x a0) := by
  unfold recalStep
  repeat' first
    | with_reducible assumption
    | with_reducible refine fullUnit_keeps (not_mem_of_subset hk ?_) ?_
    | with_reducible refine followStandin_keeps (not_mem_of_subset hk ?_) ?_
    | with_reducible refine setStage_keeps (not_mem_of_subset hk ?_) ?_
    | with_reducible refine stillUnit_keeps (not_mem_of_subset hk ?_) ?_
    | with_reducible refine endRecal_keeps (not_mem_of_subset hk ?_) ?_
    | with_reducible refine nextRecal_keeps (not_mem_of_subset hk ?_) ?_
    | with_reducible refine keepUnit_keeps (not_mem_of_subset hk ?_) ?_
    | with_reducible refine ite_keeps ?_ ?_
    | with_reducible refine foldl_keeps ?_ (fun t a h => ?_)
    | dsimp -proj only
    | split
    | decide

theorem execRecalStep_keeps {k : Comp} {s x : State} {a0} (hk : k ∉ [.evt, .heel, .lanes, .links, .store, .imc, .units, .nvm, .cal, .free]) (h : k.same s x) :
    ∃ t, execRecalStep a0 x = .next t ∧ k.same s t := by
  unfold execRecalStep
  repeat' first
    | with_reducible assumption
    | with_reducible refine done_keeps (not_mem_of_subset hk ?_) ?_
    | with_reducible refine recalStep_keeps (not_mem_of_subset hk ?_) ?_
    | with_reducible refine ite_keeps ?_ ?_
    | with_reducible refine foldl_keeps ?_ (fun t a h => ?_)
    | dsimp -proj only
    | split
    | decide

theorem staleMos_keeps {k : Comp} {s x : State} {a0} (hk : k ∉ [.imc]) (h : k.same s x) :
    k.same s (staleMos x a0) := by
  unfold staleMos
  try dsimp -zeta -proj only [upd_imc]
  repeat' first
    | with_reducible assumption
    | with_reducible refine putImc_keeps (not_mem_of_subset hk ?_) ?_
    | with_reducible refine ite_keeps ?_ ?_
    | with_reducible refine foldl_keeps ?_ (fun t a h => ?_)
    | dsimp -proj only
    | split
    | decide

theorem laneZeroIdle_keeps {k : Comp} {s x : State} {a0 a1} (hk : k ∉ [.power, .welt, .evt, .lanes, .links, .last, .store, .units, .nvm, .cal, .free]) (h : k.same s x) :
    k.same s (laneZeroIdle x a0 a1) := by
  unfold laneZeroIdle
  repeat' first
    | with_reducible assumption
    | with_reducible refine enterDisabled_keeps (not_mem_of_subset hk ?_) ?_
    | with_reducible refine modLink_keeps (not_mem_of_subset hk ?_) ?_
    | with_reducible refine enterDetect_keeps (not_mem_of_subset hk ?_) ?_
    | with_reducible refine ite_keeps ?_ ?_
    | with_reducible refine foldl_keeps ?_ (fun t a h => ?_)
    | dsimp -proj only
    | split
    | decide

theorem execElectricalIdleDetected_keeps {k : Comp} {s x : State} {a0 a1} (hk : k ∉ [.power, .welt, .evt, .heel, .lanes, .links, .last, .store, .imc, .units, .nvm, .cal, .free]) (h : k.same s x) :
    ∃ t, execElectricalIdleDetected a0 a1 x = .next t ∧ k.same s t := by
  unfold execElectricalIdleDetected
  repeat' first
    | with_reducible assumption
    | with_reducible refine done_keeps (not_mem_of_subset hk ?_) ?_
    | with_reducible refine modRx_keeps (not_mem_of_subset hk ?_) ?_
    | with_reducible refine laneZeroIdle_keeps (not_mem_of_subset hk ?_) ?_
    | with_reducible refine ite_keeps ?_ ?_
    | with_reducible refine foldl_keeps ?_ (fun t a h => ?_)
    | dsimp -proj only
    | split
    | decide

theorem holdSet_keeps {k : Comp} {s x : State} {a0 a1 a2} (hk : k ∉ [.lanes]) (h : k.same s x) :
    k.same s (holdSet x a0 a1 a2) := by
  unfold holdSet
  repeat' first
    | with_reducible assumption
    | with_reducible refine planSet_keeps (not_mem_of_subset hk ?_) ?_
    | with_reducible refine ite_keeps ?_ ?_
    | with_reducible refine foldl_keeps ?_ (fun t a h => ?_)
    | dsimp -proj only
    | split
    | decide

theorem programCopy_keeps {k : Comp} {s x : State} {a0 a1 a2} (hk : k ∉ [.nvm]) (h : k.same s x) :
    k.same s (programCopy x a0 a1 a2) := by
  unfold programCopy
  try dsimp -zeta -proj only [upd_nvm]
  repeat' first
    | with_reducible assumption
    | with_reducible refine putNvm_keeps (not_mem_of_subset hk ?_) ?_
    | with_reducible refine ite_keeps ?_ ?_
    | with_reducible refine foldl_keeps ?_ (fun t a h => ?_)
    | dsimp -proj only
    | split
    | decide

theorem writeRecord_keeps {k : Comp} {s x : State} {a0} (hk : k ∉ [.evt, .store, .nvm, .cal]) (h : k.same s x) :
    k.same s (writeRecord x a0) := by
  unfold writeRecord
  try dsimp -zeta -proj only [upd_cal]
  repeat' first
    | with_reducible assumption
    | with_reducible refine logEvent_keeps (not_mem_of_subset hk ?_) ?_
    | with_reducible refine endErase_keeps (not_mem_of_subset hk ?_) ?_
    | with_reducible refine beginErase_keeps (not_mem_of_subset hk ?_) ?_
    | with_reducible refine programCopy_keeps (not_mem_of_subset hk ?_) ?_
    | with_reducible refine putCal_keeps (not_mem_of_subset hk ?_) ?_
    | with_reducible refine ite_keeps ?_ ?_
    | with_reducible refine foldl_keeps ?_ (fun t a h => ?_)
    | dsimp -proj only
    | split
    | decide

theorem execCalrecWrite_keeps {k : Comp} {s x : State} {a0} (hk : k ∉ [.evt, .heel, .lanes, .links, .store, .imc, .units, .nvm, .cal, .free]) (h : k.same s x) :
    ∃ t, execCalrecWrite a0 x = .next t ∧ k.same s t := by
  unfold execCalrecWrite
  repeat' first
    | with_reducible assumption
    | with_reducible refine done_keeps (not_mem_of_subset hk ?_) ?_
    | with_reducible refine ownDone_keeps (not_mem_of_subset hk ?_) ?_
    | with_reducible refine writeRecord_keeps (not_mem_of_subset hk ?_) ?_
    | with_reducible refine ite_keeps ?_ ?_
    | with_reducible refine foldl_keeps ?_ (fun t a h => ?_)
    | dsimp -proj only
    | split
    | decide

theorem execCqDisable_keeps {k : Comp} {s x : State} {a0 a1 a2} (hk : k ∉ [.power, .boot, .dev, .welt, .therm, .evt, .heel, .lanes, .links, .last, .store, .win, .twb, .imc, .wqs, .cqs, .units, .slots, .sched, .awl, .nvm, .tm, .time, .cal, .free]) (h : k.same s x) :
    ∃ t, execCqDisable a0 a1 a2 x = .next t ∧ k.same s t := by
  unfold execCqDisable
  repeat' first
    | with_reducible assumption
    | with_reducible refine done_keeps (not_mem_of_subset hk ?_) ?_
    | with_reducible refine writeTo_keeps (not_mem_of_subset hk ?_) ?_
    | with_reducible refine ite_keeps ?_ ?_
    | with_reducible refine foldl_keeps ?_ (fun t a h => ?_)
    | dsimp -proj only
    | split
    | decide

theorem logTorn_keeps {k : Comp} {s x : State} {a0} (hk : k ∉ [.nvm, .free]) (h : k.same s x) :
    k.same s (logTorn x a0) := by
  unfold logTorn
  try dsimp -zeta -proj only [upd_nvm]
  repeat' first
    | with_reducible assumption
    | with_reducible refine useFree_keeps (not_mem_of_subset hk ?_) ?_
    | with_reducible refine useFree_keeps_eq (not_mem_of_subset hk ?_) ?_ (by with_reducible assumption)
    | with_reducible refine rotateLog_keeps (not_mem_of_subset hk ?_) ?_
    | with_reducible refine putNvm_keeps (not_mem_of_subset hk ?_) ?_
    | with_reducible refine ite_keeps ?_ ?_
    | with_reducible refine foldl_keeps ?_ (fun t a h => ?_)
    | dsimp -proj only
    | split
    | decide

theorem logOne_keeps {k : Comp} {s x : State} {a0 a1 a2} (hk : k ∉ [.nvm, .free]) (h : k.same s x) :
    k.same s (logOne x a0 a1 a2) := by
  have hn : ∀ {y v}, k.same s y → k.same s (y.putNvm v) := fun g => putNvm_keeps (not_mem_of_subset hk (by decide)) g
  unfold logOne
  exact ite_keeps (hn h) (ite_keeps (writeLog_keeps (not_mem_of_subset hk (by decide)) (hn h))
    (logTorn_keeps (not_mem_of_subset hk (by decide)) h))

theorem logWork_keeps {k : Comp} {s x : State} {a0} (hk : k ∉ [.nvm, .free]) (h : k.same s x) :
    k.same s (logWork x a0) := by
  unfold logWork
  repeat' first
    | with_reducible assumption
    | with_reducible refine writeMarks_keeps (not_mem_of_subset hk ?_) ?_
    | with_reducible refine logOne_keeps (not_mem_of_subset hk ?_) ?_
    | with_reducible refine tendLog_keeps (not_mem_of_subset hk ?_) ?_
    | with_reducible refine ite_keeps ?_ ?_
    | with_reducible refine foldl_keeps ?_ (fun t a h => ?_)
    | dsimp -proj only
    | split
    | decide

theorem execNvmLogWrite_keeps {k : Comp} {s x : State} {a0} (hk : k ∉ [.evt, .heel, .lanes, .links, .store, .imc, .units, .nvm, .cal, .free]) (h : k.same s x) :
    ∃ t, execNvmLogWrite a0 x = .next t ∧ k.same s t := by
  unfold execNvmLogWrite
  repeat' first
    | with_reducible assumption
    | with_reducible refine done_keeps (not_mem_of_subset hk ?_) ?_
    | with_reducible refine ownDone_keeps (not_mem_of_subset hk ?_) ?_
    | with_reducible refine logWork_keeps (not_mem_of_subset hk ?_) ?_
    | with_reducible refine ite_keeps ?_ ?_
    | with_reducible refine foldl_keeps ?_ (fun t a h => ?_)
    | dsimp -proj only
    | split
    | decide

theorem execTrainingSweepEnd_keeps {k : Comp} {s x : State} {a0 a1 a2 a3} (hk : k ∉ [.evt, .heel, .lanes, .links, .store, .imc, .units, .nvm, .cal, .free]) (h : k.same s x) :
    ∃ t, execTrainingSweepEnd a0 a1 a2 a3 x = .next t ∧ k.same s t := by
  unfold execTrainingSweepEnd
  repeat' first
    | with_reducible assumption
    | with_reducible refine done_keeps (not_mem_of_subset hk ?_) ?_
    | with_reducible refine modMeas_keeps (not_mem_of_subset hk ?_) ?_
    | with_reducible refine ite_keeps ?_ ?_
    | with_reducible refine foldl_keeps ?_ (fun t a h => ?_)
    | dsimp -proj only
    | split
    | decide

theorem modPower_keeps {k : Comp} {s x : State} {a0} (hk : k ∉ [.power]) (h : k.same s x) :
    k.same s (modPower x a0) := by
  unfold modPower
  try dsimp -zeta -proj only [upd_power]
  repeat' first
    | with_reducible assumption
    | with_reducible refine putPower_keeps (not_mem_of_subset hk ?_) ?_
    | with_reducible refine ite_keeps ?_ ?_
    | with_reducible refine foldl_keeps ?_ (fun t a h => ?_)
    | dsimp -proj only
    | split
    | decide

theorem execWeltCauseClears_keeps {k : Comp} {s x : State} {a0} (hk : k ∉ [.pins, .power, .welt, .evt, .heel, .lanes, .links, .last, .store, .imc, .units, .nvm, .cal, .free]) (h : k.same s x) :
    ∃ t, execWeltCauseClears a0 x = .next t ∧ k.same s t := by
  unfold execWeltCauseClears
  repeat' first
    | with_reducible assumption
    | with_reducible refine done_keeps (not_mem_of_subset hk ?_) ?_
    | with_reducible refine settle_keeps (not_mem_of_subset hk ?_) ?_
    | with_reducible refine modPower_keeps (not_mem_of_subset hk ?_) ?_
    | with_reducible refine modPins_keeps (not_mem_of_subset hk ?_) ?_
    | with_reducible refine ite_keeps ?_ ?_
    | with_reducible refine foldl_keeps ?_ (fun t a h => ?_)
    | dsimp -proj only
    | split
    | decide

theorem execRegWrite_keeps {k : Comp} {s x : State} {a0 a1 a2 a3} (hk : k ∉ [.power, .boot, .dev, .welt, .therm, .evt, .heel, .lanes, .links, .last, .store, .win, .twb, .imc, .wqs, .cqs, .units, .slots, .sched, .awl, .nvm, .tm, .time, .cal, .free]) (h : k.same s x) :
    ∃ t, execRegWrite a0 a1 a2 a3 x = .next t ∧ k.same s t := by
  unfold execRegWrite
  repeat' first
    | with_reducible assumption
    | with_reducible refine done_keeps (not_mem_of_subset hk ?_) ?_
    | with_reducible refine busWrite_keeps (not_mem_of_subset hk ?_) ?_
    | with_reducible refine upset_keeps (not_mem_of_subset hk ?_) ?_
    | with_reducible refine ite_keeps ?_ ?_
    | with_reducible refine foldl_keeps ?_ (fun t a h => ?_)
    | dsimp -proj only
    | split
    | decide

theorem execPrbsGenEnable_keeps {k : Comp} {s x : State} {a0 a1 a2 a3} (hk : k ∉ [.power, .boot, .dev, .welt, .therm, .evt, .heel, .lanes, .links, .last, .store, .win, .twb, .imc, .wqs, .cqs, .units, .slots, .sched, .awl, .nvm, .tm, .time, .cal, .free]) (h : k.same s x) :
    ∃ t, execPrbsGenEnable a0 a1 a2 a3 x = .next t ∧ k.same s t := by
  unfold execPrbsGenEnable
  repeat' first
    | with_reducible assumption
    | with_reducible refine done_keeps (not_mem_of_subset hk ?_) ?_
    | with_reducible refine writeTo_keeps (not_mem_of_subset hk ?_) ?_
    | with_reducible refine ite_keeps ?_ ?_
    | with_reducible refine foldl_keeps ?_ (fun t a h => ?_)
    | dsimp -proj only
    | split
    | decide

theorem execCalcmdSave_keeps {k : Comp} {s x : State} {a0 a1} (hk : k ∉ [.power, .boot, .dev, .welt, .therm, .evt, .heel, .lanes, .links, .last, .store, .win, .twb, .imc, .wqs, .cqs, .units, .slots, .sched, .awl, .nvm, .tm, .time, .cal, .free]) (h : k.same s x) :
    ∃ t, execCalcmdSave a0 a1 x = .next t ∧ k.same s t := by
  unfold execCalcmdSave
  repeat' first
    | with_reducible assumption
    | with_reducible refine done_keeps (not_mem_of_subset hk ?_) ?_
    | with_reducible refine writeTo_keeps (not_mem_of_subset hk ?_) ?_
    | with_reducible refine ite_keeps ?_ ?_
    | with_reducible refine foldl_keeps ?_ (fun t a h => ?_)
    | dsimp -proj only
    | split
    | decide

theorem execLnkctlDisable_keeps {k : Comp} {s x : State} {a0 a1 a2} (hk : k ∉ [.power, .boot, .dev, .welt, .therm, .evt, .heel, .lanes, .links, .last, .store, .win, .twb, .imc, .wqs, .cqs, .units, .slots, .sched, .awl, .nvm, .tm, .time, .cal, .free]) (h : k.same s x) :
    ∃ t, execLnkctlDisable a0 a1 a2 x = .next t ∧ k.same s t := by
  unfold execLnkctlDisable
  repeat' first
    | with_reducible assumption
    | with_reducible refine done_keeps (not_mem_of_subset hk ?_) ?_
    | with_reducible refine writeTo_keeps (not_mem_of_subset hk ?_) ?_
    | with_reducible refine ite_keeps ?_ ?_
    | with_reducible refine foldl_keeps ?_ (fun t a h => ?_)
    | dsimp -proj only
    | split
    | decide

theorem execSwingRaise_keeps {k : Comp} {s x : State} {a0 a1 a2} (hk : k ∉ [.evt, .heel, .lanes, .links, .store, .imc, .units, .nvm, .cal, .free]) (h : k.same s x) :
    ∃ t, execSwingRaise a0 a1 a2 x = .next t ∧ k.same s t := by
  unfold execSwingRaise
  repeat' first
    | with_reducible assumption
    | with_reducible refine done_keeps (not_mem_of_subset hk ?_) ?_
    | with_reducible refine modTx_keeps (not_mem_of_subset hk ?_) ?_
    | with_reducible refine ite_keeps ?_ ?_
    | with_reducible refine foldl_keeps ?_ (fun t a h => ?_)
    | dsimp -proj only
    | split
    | decide

theorem execSpareMosForwarded_keeps {k : Comp} {s x : State} {a0 a1} (hk : k ∉ [.power, .welt, .evt, .heel, .lanes, .links, .last, .store, .imc, .units, .nvm, .cal, .free]) (h : k.same s x) :
    ∃ t, execSpareMosForwarded a0 a1 x = .next t ∧ k.same s t := by
  unfold execSpareMosForwarded
  repeat' first
    | with_reducible assumption
    | with_reducible refine done_keeps (not_mem_of_subset hk ?_) ?_
    | with_reducible refine passSpare_keeps (not_mem_of_subset hk ?_) ?_
    | with_reducible refine ite_keeps ?_ ?_
    | with_reducible refine foldl_keeps ?_ (fun t a h => ?_)
    | dsimp -proj only
    | split
    | decide

theorem execPrbsJobInject_keeps {k : Comp} {s x : State} {a0 a1} (hk : k ∉ [.evt, .heel, .lanes, .links, .store, .imc, .units, .nvm, .cal, .free]) (h : k.same s x) :
    ∃ t, execPrbsJobInject a0 a1 x = .next t ∧ k.same s t := by
  unfold execPrbsJobInject
  repeat' first
    | with_reducible assumption
    | with_reducible refine done_keeps (not_mem_of_subset hk ?_) ?_
    | with_reducible refine injectOne_keeps (not_mem_of_subset hk ?_) ?_
    | with_reducible refine ite_keeps ?_ ?_
    | with_reducible refine foldl_keeps ?_ (fun t a h => ?_)
    | dsimp -proj only
    | split
    | decide

theorem modPrbsJob_keeps {k : Comp} {s x : State} {a0 a1 a2} (hk : k ∉ [.units]) (h : k.same s x) :
    k.same s (modPrbsJob x a0 a1 a2) := by
  unfold modPrbsJob
  repeat' first
    | with_reducible assumption
    | with_reducible refine modJob_keeps (not_mem_of_subset hk ?_) ?_
    | with_reducible refine ite_keeps ?_ ?_
    | with_reducible refine foldl_keeps ?_ (fun t a h => ?_)
    | dsimp -proj only
    | split
    | decide

theorem execPrbsCheckerLock_keeps {k : Comp} {s x : State} {a0 a1} (hk : k ∉ [.evt, .heel, .lanes, .links, .store, .imc, .units, .nvm, .cal, .free]) (h : k.same s x) :
    ∃ t, execPrbsCheckerLock a0 a1 x = .next t ∧ k.same s t := by
  unfold execPrbsCheckerLock
  repeat' first
    | with_reducible assumption
    | with_reducible refine done_keeps (not_mem_of_subset hk ?_) ?_
    | with_reducible refine modMeas_keeps (not_mem_of_subset hk ?_) ?_
    | with_reducible refine modPrbsJob_keeps (not_mem_of_subset hk ?_) ?_
    | with_reducible refine ite_keeps ?_ ?_
    | with_reducible refine foldl_keeps ?_ (fun t a h => ?_)
    | dsimp -proj only
    | split
    | decide

theorem execTestEnHigh_keeps {k : Comp} {s x : State} (hk : k ∉ [.pins, .power, .boot, .welt, .evt, .heel, .lanes, .links, .last, .store, .twb, .imc, .units, .nvm, .cal, .free]) (h : k.same s x) :
    ∃ t, execTestEnHigh x = .next t ∧ k.same s t := by
  unfold execTestEnHigh
  try dsimp -zeta -proj only [upd_boot_twb]
  repeat' first
    | with_reducible assumption
    | with_reducible refine done_keeps (not_mem_of_subset hk ?_) ?_
    | with_reducible refine settle_keeps (not_mem_of_subset hk ?_) ?_
    | with_reducible refine modPins_keeps (not_mem_of_subset hk ?_) ?_
    | with_reducible refine putBoot_keeps (not_mem_of_subset hk ?_) ?_
    | with_reducible refine putTwb_keeps (not_mem_of_subset hk ?_) ?_
    | with_reducible refine ite_keeps ?_ ?_
    | with_reducible refine foldl_keeps ?_ (fun t a h => ?_)
    | dsimp -proj only
    | split
    | decide

theorem restoreLane_keeps {k : Comp} {s x : State} {a0 a1 a2} (hk : k ∉ [.evt, .links, .store, .nvm]) (h : k.same s x) :
    k.same s (restoreLane x a0 a1 a2) := by
  unfold restoreLane
  repeat' first
    | with_reducible assumption
    | with_reducible refine setLost_keeps (not_mem_of_subset hk ?_) ?_
    | with_reducible refine logLane_keeps (not_mem_of_subset hk ?_) ?_
    | with_reducible refine checkRecovered_keeps (not_mem_of_subset hk ?_) ?_
    | with_reducible refine ite_keeps ?_ ?_
    | with_reducible refine foldl_keeps ?_ (fun t a h => ?_)
    | dsimp -proj only
    | split
    | decide

theorem watchForward_keeps {k : Comp} {s x : State} {a0 a1 a2} (hk : k ∉ [.evt, .lanes, .links, .store, .nvm]) (h : k.same s x) :
    k.same s (watchForward x a0 a1 a2) := by
  unfold watchForward
  repeat' first
    | with_reducible assumption
    | with_reducible refine modRx_keeps (not_mem_of_subset hk ?_) ?_
    | with_reducible refine logLane_keeps (not_mem_of_subset hk ?_) ?_
    | with_reducible refine setSpare_keeps (not_mem_of_subset hk ?_) ?_
    | with_reducible refine ite_keeps ?_ ?_
    | with_reducible refine foldl_keeps ?_ (fun t a h => ?_)
    | dsimp -proj only
    | split
    | decide

theorem watchSkew_keeps {k : Comp} {s x : State} {a0 a1 a2} (hk : k ∉ [.power, .welt, .evt, .lanes, .links, .last, .store, .units, .nvm, .free]) (h : k.same s x) :
    k.same s (watchSkew x a0 a1 a2) := by
  unfold watchSkew
  repeat' first
    | with_reducible assumption
    | with_reducible refine restoreLane_keeps (not_mem_of_subset hk ?_) ?_
    | with_reducible refine logL_keeps (not_mem_of_subset hk ?_) ?_
    | with_reducible refine modRx_keeps (not_mem_of_subset hk ?_) ?_
    | with_reducible refine watchForward_keeps (not_mem_of_subset hk ?_) ?_
    | with_reducible refine requestRetrain_keeps (not_mem_of_subset hk ?_) ?_
    | with_reducible refine ite_keeps ?_ ?_
    | with_reducible refine foldl_keeps ?_ (fun t a h => ?_)
    | dsimp -proj only
    | split
    | decide

theorem fillSkip_keeps {k : Comp} {s x : State} {a0 a1 a2} (hk : k ∉ [.lanes]) (h : k.same s x) :
    k.same s (fillSkip x a0 a1 a2) := by
  unfold fillSkip
  repeat' first
    | with_reducible assumption
    | with_reducible refine modTx_keeps (not_mem_of_subset hk ?_) ?_
    | with_reducible refine ite_keeps ?_ ?_
    | with_reducible refine foldl_keeps ?_ (fun t a h => ?_)
    | dsimp -proj only
    | split
    | decide

theorem countEdit_keeps {k : Comp} {s x : State} {a0 a1 a2} (hk : k ∉ [.lanes]) (h : k.same s x) :
    k.same s (countEdit x a0 a1 a2) := by
  unfold countEdit
  repeat' first
    | with_reducible assumption
    | with_reducible refine modRx_keeps (not_mem_of_subset hk ?_) ?_
    | with_reducible refine ite_keeps ?_ ?_
    | with_reducible refine foldl_keeps ?_ (fun t a h => ?_)
    | dsimp -proj only
    | split
    | decide

theorem takeDecision_keeps {k : Comp} {s x : State} {a0 a1 a2} (hk : k ∉ [.lanes]) (h : k.same s x) :
    k.same s (takeDecision x a0 a1 a2) := by
  unfold takeDecision
  repeat' first
    | with_reducible assumption
    | with_reducible refine modRx_keeps (not_mem_of_subset hk ?_) ?_
    | with_reducible refine countEdit_keeps (not_mem_of_subset hk ?_) ?_
    | with_reducible refine ite_keeps ?_ ?_
    | with_reducible refine foldl_keeps ?_ (fun t a h => ?_)
    | dsimp -proj only
    | split
    | decide

theorem editSet_keeps {k : Comp} {s x : State} {a0 a1 a2} (hk : k ∉ [.lanes]) (h : k.same s x) :
    k.same s (editSet x a0 a1 a2).2 := by
  unfold editSet
  repeat' first
    | with_reducible assumption
    | with_reducible refine takeDecision_keeps (not_mem_of_subset hk ?_) ?_
    | with_reducible refine noteCopy_keeps (not_mem_of_subset hk ?_) ?_
    | with_reducible refine modRx_keeps (not_mem_of_subset hk ?_) ?_
    | with_reducible refine ite_keeps ?_ ?_
    | with_reducible refine foldl_keeps ?_ (fun t a h => ?_)
    | dsimp -proj only
    | split
    | decide

theorem editSet_keeps_eq {k : Comp} {s x : State} {a0 a1 a2} {r u} (hk : k ∉ [.lanes]) (h : k.same s x) (e : editSet x a0 a1 a2 = (r, u)) :
    k.same s u := by
  simpa only [e] using editSet_keeps (s := s) (x := x) (a0 := a0) (a1 := a1) (a2 := a2) hk h

theorem receiveSwitch_keeps {k : Comp} {s x : State} {a0 a1} (hk : k ∉ [.lanes, .links, .free]) (h : k.same s x) :
    k.same s (receiveSwitch x a0 a1) := by
  unfold receiveSwitch
  repeat' first
    | with_reducible assumption
    | with_reducible refine moveHold_keeps (not_mem_of_subset hk ?_) ?_
    | with_reducible refine modLink_keeps (not_mem_of_subset hk ?_) ?_
    | with_reducible refine setLost_keeps (not_mem_of_subset hk ?_) ?_
    | with_reducible refine checkRecovered_keeps (not_mem_of_subset hk ?_) ?_
    | with_reducible refine sendSpare_keeps (not_mem_of_subset hk ?_) ?_
    | with_reducible refine ite_keeps ?_ ?_
    | with_reducible refine foldl_keeps ?_ (fun t a h => ?_)
    | dsimp -proj only
    | split
    | decide

theorem swapSkip_keeps {k : Comp} {s x : State} {a0 a1 a2} (hk : k ∉ [.power, .welt, .evt, .lanes, .links, .last, .store, .units, .nvm, .cal, .free]) (h : k.same s x) :
    k.same s (swapSkip x a0 a1 a2) := by
  unfold swapSkip
  repeat' first
    | with_reducible assumption
    | with_reducible refine modLink_keeps (not_mem_of_subset hk ?_) ?_
    | with_reducible refine receiveSwitch_keeps (not_mem_of_subset hk ?_) ?_
    | with_reducible refine failSwap_keeps (not_mem_of_subset hk ?_) ?_
    | with_reducible refine setSpare_keeps (not_mem_of_subset hk ?_) ?_
    | with_reducible refine ite_keeps ?_ ?_
    | with_reducible refine foldl_keeps ?_ (fun t a h => ?_)
    | dsimp -proj only
    | split
    | decide

theorem execSkipSetArrives_keeps {k : Comp} {s x : State} {a0 a1 a2} (hk : k ∉ [.power, .welt, .evt, .heel, .lanes, .links, .last, .store, .imc, .units, .nvm, .cal, .free]) (h : k.same s x) :
    ∃ t, execSkipSetArrives a0 a1 a2 x = .next t ∧ k.same s t := by
  unfold execSkipSetArrives
  repeat' first
    | with_reducible assumption
    | with_reducible refine done_keeps (not_mem_of_subset hk ?_) ?_
    | with_reducible refine watchSkew_keeps (not_mem_of_subset hk ?_) ?_
    | with_reducible refine fillSkip_keeps (not_mem_of_subset hk ?_) ?_
    | with_reducible refine editSet_keeps (not_mem_of_subset hk ?_) ?_
    | with_reducible refine editSet_keeps_eq (not_mem_of_subset hk ?_) ?_ (by with_reducible assumption)
    | with_reducible refine swapSkip_keeps (not_mem_of_subset hk ?_) ?_
    | with_reducible refine symbolAfterExchange_keeps (not_mem_of_subset hk ?_) ?_
    | with_reducible refine ite_keeps ?_ ?_
    | with_reducible refine foldl_keeps ?_ (fun t a h => ?_)
    | dsimp -proj only
    | split
    | decide

theorem holdLoop_keeps {k : Comp} {s x : State} {a0 a1} (hk : k ∉ [.lanes]) (h : k.same s x) :
    k.same s (holdLoop x a0 a1) := by
  unfold holdLoop
  repeat' first
    | with_reducible assumption
    | with_reducible refine modRx_keeps (not_mem_of_subset hk ?_) ?_
    | with_reducible refine ite_keeps ?_ ?_
    | with_reducible refine foldl_keeps ?_ (fun t a h => ?_)
    | dsimp -proj only
    | split
    | decide

theorem releaseForward_keeps {k : Comp} {s x : State} {a0 a1} (hk : k ∉ [.welt, .evt, .lanes, .links, .last, .store, .units, .nvm]) (h : k.same s x) :
    k.same s (releaseForward x a0 a1) := by
  unfold releaseForward
  repeat' first
    | with_reducible assumption
    | with_reducible refine restSpare_keeps (not_mem_of_subset hk ?_) ?_
    | with_reducible refine ite_keeps ?_ ?_
    | with_reducible refine foldl_keeps ?_ (fun t a h => ?_)
    | dsimp -proj only
    | split
    | decide

theorem symLossRetrain_keeps {k : Comp} {s x : State} {a0 a1} (hk : k ∉ [.power, .welt, .evt, .lanes, .links, .last, .store, .units, .nvm, .free]) (h : k.same s x) :
    k.same s (symLossRetrain x a0 a1) := by
  unfold symLossRetrain
  repeat' first
    | with_reducible assumption
    | with_reducible refine enterRetrain_keeps (not_mem_of_subset hk ?_) ?_
    | with_reducible refine ite_keeps ?_ ?_
    | with_reducible refine foldl_keeps ?_ (fun t a h => ?_)
    | dsimp -proj only
    | split
    | decide

theorem execCdrLockLost_keeps {k : Comp} {s x : State} {a0 a1} (hk : k ∉ [.power, .welt, .evt, .heel, .lanes, .links, .last, .store, .imc, .units, .nvm, .cal, .free]) (h : k.same s x) :
    ∃ t, execCdrLockLost a0 a1 x = .next t ∧ k.same s t := by
  unfold execCdrLockLost
  repeat' first
    | with_reducible assumption
    | with_reducible refine done_keeps (not_mem_of_subset hk ?_) ?_
    | with_reducible refine holdLoop_keeps (not_mem_of_subset hk ?_) ?_
    | with_reducible refine rxLost_keeps (not_mem_of_subset hk ?_) ?_
    | with_reducible refine releaseForward_keeps (not_mem_of_subset hk ?_) ?_
    | with_reducible refine symLossRetrain_keeps (not_mem_of_subset hk ?_) ?_
    | with_reducible refine dropCdr_keeps (not_mem_of_subset hk ?_) ?_
    | with_reducible refine ite_keeps ?_ ?_
    | with_reducible refine foldl_keeps ?_ (fun t a h => ?_)
    | dsimp -proj only
    | split
    | decide

theorem visitLine_keeps {k : Comp} {s x : State} (hk : k ∉ [.evt, .heel, .store, .nvm]) (h : k.same s x) :
    k.same s (visitLine x) := by
  unfold visitLine
  try dsimp -zeta -proj only [upd_store]
  repeat' first
    | with_reducible assumption
    | with_reducible refine eccRead_keeps (not_mem_of_subset hk ?_) ?_
    | with_reducible refine putStore_keeps (not_mem_of_subset hk ?_) ?_
    | with_reducible refine ite_keeps ?_ ?_
    | with_reducible refine foldl_keeps ?_ (fun t a h => ?_)
    | dsimp -proj only
    | split
    | decide

theorem execLntxdrvWrite_keeps {k : Comp} {s x : State} {a0 a1 a2 a3} (hk : k ∉ [.power, .boot, .dev, .welt, .therm, .evt, .heel, .lanes, .links, .last, .store, .win, .twb, .imc, .wqs, .cqs, .units, .slots, .sched, .awl, .nvm, .tm, .time, .cal, .free]) (h : k.same s x) :
    ∃ t, execLntxdrvWrite a0 a1 a2 a3 x = .next t ∧ k.same s t := by
  unfold execLntxdrvWrite
  repeat' first
    | with_reducible assumption
    | with_reducible refine done_keeps (not_mem_of_subset hk ?_) ?_
    | with_reducible refine writeTo_keeps (not_mem_of_subset hk ?_) ?_
    | with_reducible refine ite_keeps ?_ ?_
    | with_reducible refine foldl_keeps ?_ (fun t a h => ?_)
    | dsimp -proj only
    | split
    | decide

theorem execCalcmdGo_keeps {k : Comp} {s x : State} {a0 a1} (hk : k ∉ [.power, .boot, .dev, .welt, .therm, .evt, .heel, .lanes, .links, .last, .store, .win, .twb, .imc, .wqs, .cqs, .units, .slots, .sched, .awl, .nvm, .tm, .time, .cal, .free]) (h : k.same s x) :
    ∃ t, execCalcmdGo a0 a1 x = .next t ∧ k.same s t := by
  unfold execCalcmdGo
  repeat' first
    | with_reducible assumption
    | with_reducible refine done_keeps (not_mem_of_subset hk ?_) ?_
    | with_reducible refine writeTo_keeps (not_mem_of_subset hk ?_) ?_
    | with_reducible refine ite_keeps ?_ ?_
    | with_reducible refine foldl_keeps ?_ (fun t a h => ?_)
    | dsimp -proj only
    | split
    | decide

theorem execMove_keeps {k : Comp} {s x : State} {a0 a1} (hk : k ∉ [.evt, .heel, .lanes, .links, .last, .store, .win, .imc, .wqs, .cqs, .units, .slots, .sched, .nvm, .cal, .free]) (h : k.same s x) :
    ∃ t, execMove a0 a1 x = .next t ∧ k.same s t := by
  unfold execMove
  repeat' first
    | with_reducible assumption
    | with_reducible refine done_keeps (not_mem_of_subset hk ?_) ?_
    | with_reducible refine runBlock_keeps (not_mem_of_subset hk ?_) ?_
    | with_reducible refine upset_keeps (not_mem_of_subset hk ?_) ?_
    | with_reducible refine ite_keeps ?_ ?_
    | with_reducible refine foldl_keeps ?_ (fun t a h => ?_)
    | dsimp -proj only
    | split
    | decide

theorem dropSpare_keeps {k : Comp} {s x : State} {a0 a1} (hk : k ∉ [.links]) (h : k.same s x) :
    k.same s (dropSpare x a0 a1) := by
  unfold dropSpare
  repeat' first
    | with_reducible assumption
    | with_reducible refine modLink_keeps (not_mem_of_subset hk ?_) ?_
    | with_reducible refine ite_keeps ?_ ?_
    | with_reducible refine foldl_keeps ?_ (fun t a h => ?_)
    | dsimp -proj only
    | split
    | decide

theorem passTriggers_keeps {k : Comp} {s x : State} {a0} (hk : k ∉ [.lanes]) (h : k.same s x) :
    k.same s (passTriggers x a0) := by
  unfold passTriggers
  repeat' first
    | with_reducible assumption
    | with_reducible refine modCal_keeps (not_mem_of_subset hk ?_) ?_
    | with_reducible refine ite_keeps ?_ ?_
    | with_reducible refine foldl_keeps ?_ (fun t a h => ?_)
    | dsimp -proj only
    | split
    | decide

theorem putSnapshot_keeps {k : Comp} {s x : State} {a0 a1 a2} (hk : k ∉ [.evt, .heel, .last, .store, .win, .wqs, .cqs, .units, .slots, .sched, .nvm]) (h : k.same s x) :
    k.same s (putSnapshot x a0 a1 a2) := by
  unfold putSnapshot
  repeat' first
    | with_reducible assumption
    | with_reducible refine finishWith_keeps (not_mem_of_subset hk ?_) ?_
    | with_reducible refine putData_keeps (not_mem_of_subset hk ?_) ?_
    | with_reducible refine putData_keeps_eq (not_mem_of_subset hk ?_) ?_ (by with_reducible assumption)
    | with_reducible refine ite_keeps ?_ ?_
    | with_reducible refine foldl_keeps ?_ (fun t a h => ?_)
    | dsimp -proj only
    | split
    | decide

theorem modTwb_keeps {k : Comp} {s x : State} {a0} (hk : k ∉ [.twb]) (h : k.same s x) :
    k.same s (modTwb x a0) := by
  unfold modTwb
  try dsimp -zeta -proj only [upd_twb]
  repeat' first
    | with_reducible assumption
    | with_reducible refine putTwb_keeps (not_mem_of_subset hk ?_) ?_
    | with_reducible refine ite_keeps ?_ ?_
    | with_reducible refine foldl_keeps ?_ (fun t a h => ?_)
    | dsimp -proj only
    | split
    | decide

theorem addressByte_keeps {k : Comp} {s x : State} {a0 a1} (hk : k ∉ [.twb]) (h : k.same s x) :
    k.same s (addressByte x a0 a1) := by
  unfold addressByte
  repeat' first
    | with_reducible assumption
    | with_reducible refine modTwb_keeps (not_mem_of_subset hk ?_) ?_
    | with_reducible refine ite_keeps ?_ ?_
    | with_reducible refine foldl_keeps ?_ (fun t a h => ?_)
    | dsimp -proj only
    | split
    | decide

theorem moveTrim_keeps {k : Comp} {s x : State} {a0 a1 a2 a3} (hk : k ∉ [.lanes]) (h : k.same s x) :
    k.same s (moveTrim x a0 a1 a2 a3) := by
  unfold moveTrim
  repeat' first
    | with_reducible assumption
    | with_reducible refine modCal_keeps (not_mem_of_subset hk ?_) ?_
    | with_reducible refine ite_keeps ?_ ?_
    | with_reducible refine foldl_keeps ?_ (fun t a h => ?_)
    | dsimp -proj only
    | split
    | decide

theorem moveEq_keeps {k : Comp} {s x : State} {a0 a1 a2} (hk : k ∉ [.lanes, .units]) (h : k.same s x) :
    k.same s (moveEq x a0 a1 a2) := by
  unfold moveEq
  repeat' first
    | with_reducible assumption
    | with_reducible refine modEq_keeps (not_mem_of_subset hk ?_) ?_
    | with_reducible refine modJob_keeps (not_mem_of_subset hk ?_) ?_
    | with_reducible refine ite_keeps ?_ ?_
    | with_reducible refine foldl_keeps ?_ (fun t a h => ?_)
    | dsimp -proj only
    | split
    | decide

theorem trimStep_keeps {k : Comp} {s x : State} {a0 a1 a2} (hk : k ∉ [.lanes, .units]) (h : k.same s x) :
    k.same s (trimStep x a0 a1 a2) := by
  unfold trimStep
  repeat' first
    | with_reducible assumption
    | with_reducible refine modEq_keeps (not_mem_of_subset hk ?_) ?_
    | with_reducible refine modTx_keeps (not_mem_of_subset hk ?_) ?_
    | with_reducible refine moveTrim_keeps (not_mem_of_subset hk ?_) ?_
    | with_reducible refine moveEq_keeps (not_mem_of_subset hk ?_) ?_
    | with_reducible refine ite_keeps ?_ ?_
    | with_reducible refine foldl_keeps ?_ (fun t a h => ?_)
    | dsimp -proj only
    | split
    | decide

theorem execTrimRampStep_keeps {k : Comp} {s x : State} {a0 a1 a2} (hk : k ∉ [.evt, .heel, .lanes, .links, .store, .imc, .units, .nvm, .cal, .free]) (h : k.same s x) :
    ∃ t, execTrimRampStep a0 a1 a2 x = .next t ∧ k.same s t := by
  unfold execTrimRampStep
  repeat' first
    | with_reducible assumption
    | with_reducible refine done_keeps (not_mem_of_subset hk ?_) ?_
    | with_reducible refine trimStep_keeps (not_mem_of_subset hk ?_) ?_
    | with_reducible refine ite_keeps ?_ ?_
    | with_reducible refine foldl_keeps ?_ (fun t a h => ?_)
    | dsimp -proj only
    | split
    | decide

theorem restoreTransparent_keeps {k : Comp} {s x : State} {a0 a1} (hk : k ∉ [.evt, .links, .store, .nvm]) (h : k.same s x) :
    k.same s (restoreTransparent x a0 a1) := by
  unfold restoreTransparent
  repeat' first
    | with_reducible assumption
    | with_reducible refine restoreLane_keeps (not_mem_of_subset hk ?_) ?_
    | with_reducible refine ite_keeps ?_ ?_
    | with_reducible refine foldl_keeps ?_ (fun t a h => ?_)
    | dsimp -proj only
    | split
    | decide

theorem padInstead_keeps {k : Comp} {s x : State} {a0 a1} (hk : k ∉ [.lanes, .links]) (h : k.same s x) :
    k.same s (padInstead x a0 a1) := by
  unfold padInstead
  repeat' first
    | with_reducible assumption
    | with_reducible refine setSent_keeps (not_mem_of_subset hk ?_) ?_
    | with_reducible refine planOwn_keeps (not_mem_of_subset hk ?_) ?_
    | with_reducible refine ite_keeps ?_ ?_
    | with_reducible refine foldl_keeps ?_ (fun t a h => ?_)
    | dsimp -proj only
    | split
    | decide

theorem serveWr_keeps {k : Comp} {s x : State} {a0 a1} (hk : k ∉ [.power, .boot, .dev, .welt, .therm, .evt, .heel, .lanes, .links, .last, .store, .win, .twb, .imc, .wqs, .cqs, .units, .slots, .sched, .awl, .nvm, .tm, .time, .cal, .free]) (h : k.same s x) :
    k.same s (serveWr x a0 a1).2 := by
  unfold serveWr
  repeat' first
    | with_reducible assumption
    | with_reducible refine writeOpen_keeps (not_mem_of_subset hk ?_) ?_
    | with_reducible refine logDenied_keeps (not_mem_of_subset hk ?_) ?_
    | with_reducible refine ite_keeps ?_ ?_
    | with_reducible refine foldl_keeps ?_ (fun t a h => ?_)
    | dsimp -proj only
    | split
    | decide

theorem serveWr_keeps_eq {k : Comp} {s x : State} {a0 a1} {r u} (hk : k ∉ [.power, .boot, .dev, .welt, .therm, .evt, .heel, .lanes, .links, .last, .store, .win, .twb, .imc, .wqs, .cqs, .units, .slots, .sched, .awl, .nvm, .tm, .time, .cal, .free]) (h : k.same s x) (e : serveWr x a0 a1 = (r, u)) :
    k.same s u := by
  simpa only [e] using serveWr_keeps (s := s) (x := x) (a0 := a0) (a1 := a1) hk h

theorem serveRd_keeps {k : Comp} {s x : State} {a0 a1} (hk : k ∉ [.evt, .heel, .store, .win, .twb, .imc, .acc, .nvm, .tm, .free]) (h : k.same s x) :
    k.same s (serveRd x a0 a1).2 := by
  unfold serveRd
  repeat' first
    | with_reducible assumption
    | with_reducible refine keepRead_keeps (not_mem_of_subset hk ?_) ?_
    | with_reducible refine readOpen_keeps (not_mem_of_subset hk ?_) ?_
    | with_reducible refine readOpen_keeps_eq (not_mem_of_subset hk ?_) ?_ (by with_reducible assumption)
    | with_reducible refine logDenied_keeps (not_mem_of_subset hk ?_) ?_
    | with_reducible refine ite_keeps ?_ ?_
    | with_reducible refine foldl_keeps ?_ (fun t a h => ?_)
    | dsimp -proj only
    | split
    | decide

theorem serveRd_keeps_eq {k : Comp} {s x : State} {a0 a1} {r u} (hk : k ∉ [.evt, .heel, .store, .win, .twb, .imc, .acc, .nvm, .tm, .free]) (h : k.same s x) (e : serveRd x a0 a1 = (r, u)) :
    k.same s u := by
  simpa only [e] using serveRd_keeps (s := s) (x := x) (a0 := a0) (a1 := a1) hk h

theorem queueResponse_keeps {k : Comp} {s x : State} {a0 a1} (hk : k ∉ [.links]) (h : k.same s x) :
    k.same s (queueResponse x a0 a1) := by
  unfold queueResponse
  repeat' first
    | with_reducible assumption
    | with_reducible refine queueMos_keeps (not_mem_of_subset hk ?_) ?_
    | with_reducible refine ite_keeps ?_ ?_
    | with_reducible refine foldl_keeps ?_ (fun t a h => ?_)
    | dsimp -proj only
    | split
    | decide

theorem execute_keeps {k : Comp} {s x : State} {a0 a1 a2} (hk : k ∉ [.power, .boot, .dev, .welt, .therm, .evt, .heel, .lanes, .links, .last, .store, .win, .twb, .imc, .acc, .wqs, .cqs, .units, .slots, .sched, .awl, .nvm, .tm, .time, .cal, .free]) (h : k.same s x) :
    k.same s (execute x a0 a1 a2) := by
  unfold execute
  repeat' first
    | with_reducible assumption
    | with_reducible refine serveWr_keeps (not_mem_of_subset hk ?_) ?_
    | with_reducible refine serveWr_keeps_eq (not_mem_of_subset hk ?_) ?_ (by with_reducible assumption)
    | with_reducible refine modSeq_keeps (not_mem_of_subset hk ?_) ?_
    | with_reducible refine serveRd_keeps (not_mem_of_subset hk ?_) ?_
    | with_reducible refine serveRd_keeps_eq (not_mem_of_subset hk ?_) ?_ (by with_reducible assumption)
    | with_reducible refine queueResponse_keeps (not_mem_of_subset hk ?_) ?_
    | with_reducible refine ite_keeps ?_ ?_
    | with_reducible refine foldl_keeps ?_ (fun t a h => ?_)
    | dsimp -proj only
    | split
    | decide

theorem replay_keeps {k : Comp} {s x : State} {a0 a1 a2} (hk : k ∉ [.links]) (h : k.same s x) :
    k.same s (replay x a0 a1 a2) := by
  unfold replay
  repeat' first
    | with_reducible assumption
    | with_reducible refine queueResponse_keeps (not_mem_of_subset hk ?_) ?_
    | with_reducible refine ite_keeps ?_ ?_
    | with_reducible refine foldl_keeps ?_ (fun t a h => ?_)
    | dsimp -proj only
    | split
    | decide

theorem dropped_keeps {k : Comp} {s x : State} {a0} (hk : k ∉ [.imc]) (h : k.same s x) :
    k.same s (dropped x a0) := by
  unfold dropped
  try dsimp -zeta -proj only [upd_imc]
  repeat' first
    | with_reducible assumption
    | with_reducible refine putImc_keeps (not_mem_of_subset hk ?_) ?_
    | with_reducible refine ite_keeps ?_ ?_
    | with_reducible refine foldl_keeps ?_ (fun t a h => ?_)
    | dsimp -proj only
    | split
    | decide

theorem request_keeps {k : Comp} {s x : State} {a0 a1 a2} (hk : k ∉ [.power, .boot, .dev, .welt, .therm, .evt, .heel, .lanes, .links, .last, .store, .win, .twb, .imc, .acc, .wqs, .cqs, .units, .slots, .sched, .awl, .nvm, .tm, .time, .cal, .free]) (h : k.same s x) :
    k.same s (request x a0 a1 a2) := by
  unfold request
  repeat' first
    | with_reducible assumption
    | with_reducible refine execute_keeps (not_mem_of_subset hk ?_) ?_
    | with_reducible refine replay_keeps (not_mem_of_subset hk ?_) ?_
    | with_reducible refine dropped_keeps (not_mem_of_subset hk ?_) ?_
    | with_reducible refine staleMos_keeps (not_mem_of_subset hk ?_) ?_
    | with_reducible refine ite_keeps ?_ ?_
    | with_reducible refine foldl_keeps ?_ (fun t a h => ?_)
    | dsimp -proj only
    | split
    | decide

theorem consumeMos_keeps {k : Comp} {s x : State} {a0 a1 a2} (hk : k ∉ [.power, .boot, .dev, .welt, .therm, .evt, .heel, .lanes, .links, .last, .store, .win, .twb, .imc, .acc, .wqs, .cqs, .units, .slots, .sched, .awl, .nvm, .tm, .time, .cal, .free]) (h : k.same s x) :
    k.same s (consumeMos x a0 a1 a2) := by
  unfold consumeMos
  repeat' first
    | with_reducible assumption
    | with_reducible refine badMos_keeps (not_mem_of_subset hk ?_) ?_
    | with_reducible refine request_keeps (not_mem_of_subset hk ?_) ?_
    | with_reducible refine getD_keeps (fun _ e => takeSpareRsp_keeps_eq (not_mem_of_subset hk (by decide)) ?_ e) ?_
    | with_reducible refine takeSpareRsp_keeps_eq (not_mem_of_subset hk ?_) ?_ (by with_reducible assumption)
    | with_reducible refine queueResponse_keeps (not_mem_of_subset hk ?_) ?_
    | with_reducible refine queueMos_keeps (not_mem_of_subset hk ?_) ?_
    | with_reducible refine noteMos_keeps (not_mem_of_subset hk ?_) ?_
    | with_reducible refine ite_keeps ?_ ?_
    | with_reducible refine foldl_keeps ?_ (fun t a h => ?_)
    | dsimp -proj only
    | split
    | decide

theorem crcMos_keeps {k : Comp} {s x : State} {a0} (hk : k ∉ [.imc]) (h : k.same s x) :
    k.same s (crcMos x a0) := by
  unfold crcMos
  try dsimp -zeta -proj only [upd_imc]
  repeat' first
    | with_reducible assumption
    | with_reducible refine putImc_keeps (not_mem_of_subset hk ?_) ?_
    | with_reducible refine ite_keeps ?_ ?_
    | with_reducible refine foldl_keeps ?_ (fun t a h => ?_)
    | dsimp -proj only
    | split
    | decide

theorem mosIn_keeps {k : Comp} {s x : State} {a0 a1 a2} (hk : k ∉ [.power, .boot, .dev, .welt, .therm, .evt, .heel, .lanes, .links, .last, .store, .win, .twb, .imc, .acc, .wqs, .cqs, .units, .slots, .sched, .awl, .nvm, .tm, .time, .cal, .free]) (h : k.same s x) :
    k.same s (mosIn x a0 a1 a2) := by
  unfold mosIn
  repeat' first
    | with_reducible assumption
    | with_reducible refine padInstead_keeps (not_mem_of_subset hk ?_) ?_
    | with_reducible refine consumeMos_keeps (not_mem_of_subset hk ?_) ?_
    | with_reducible refine crcMos_keeps (not_mem_of_subset hk ?_) ?_
    | with_reducible refine setSent_keeps (not_mem_of_subset hk ?_) ?_
    | with_reducible refine noteMos_keeps (not_mem_of_subset hk ?_) ?_
    | with_reducible refine ite_keeps ?_ ?_
    | with_reducible refine foldl_keeps ?_ (fun t a h => ?_)
    | dsimp -proj only
    | split
    | decide

theorem execMosReceived_keeps {k : Comp} {s x : State} {a0 a1 a2 a3} (hk : k ∉ [.power, .boot, .dev, .welt, .therm, .evt, .heel, .lanes, .links, .last, .store, .win, .twb, .imc, .acc, .wqs, .cqs, .units, .slots, .sched, .awl, .nvm, .tm, .time, .cal, .free]) (h : k.same s x) :
    ∃ t, execMosReceived a0 a1 a2 a3 x = .next t ∧ k.same s t := by
  unfold execMosReceived
  repeat' first
    | with_reducible assumption
    | with_reducible refine done_keeps (not_mem_of_subset hk ?_) ?_
    | with_reducible refine mosIn_keeps (not_mem_of_subset hk ?_) ?_
    | with_reducible refine upset_keeps (not_mem_of_subset hk ?_) ?_
    | with_reducible refine ite_keeps ?_ ?_
    | with_reducible refine foldl_keeps ?_ (fun t a h => ?_)
    | dsimp -proj only
    | split
    | decide

theorem enterStandby_keeps {k : Comp} {s x : State} (hk : k ∉ [.power, .dev, .welt, .evt, .lanes, .links, .last, .store, .win, .wqs, .cqs, .units, .slots, .sched, .nvm, .tm, .cal, .free]) (h : k.same s x) :
    k.same s (enterStandby x) := by
  unfold enterStandby
  try dsimp -zeta -proj only [upd_dev, upd_lanes_links_last_store_win_units_slots_sched_nvm_tm_cal]
  try simp -zeta -proj only [upd_dev, upd_lanes_links_last_store_win_units_slots_sched_nvm_tm_cal]
  repeat' first
    | with_reducible assumption
    | with_reducible refine loadQueues_keeps (not_mem_of_subset hk ?_) ?_
    | with_reducible refine settle_keeps (not_mem_of_subset hk ?_) ?_
    | with_reducible refine loadPrograms_keeps (not_mem_of_subset hk ?_) ?_
    | with_reducible refine loadSpares_keeps (not_mem_of_subset hk ?_) ?_
    | with_reducible refine putDev_keeps (not_mem_of_subset hk ?_) ?_
    | with_reducible refine putLanes_keeps (not_mem_of_subset hk ?_) ?_
    | with_reducible refine putLinks_keeps (not_mem_of_subset hk ?_) ?_
    | with_reducible refine putLast_keeps (not_mem_of_subset hk ?_) ?_
    | with_reducible refine putStore_keeps (not_mem_of_subset hk ?_) ?_
    | with_reducible refine putWin_keeps (not_mem_of_subset hk ?_) ?_
    | with_reducible refine putUnits_keeps (not_mem_of_subset hk ?_) ?_
    | with_reducible refine putSlots_keeps (not_mem_of_subset hk ?_) ?_
    | with_reducible refine putSched_keeps (not_mem_of_subset hk ?_) ?_
    | with_reducible refine putNvm_keeps (not_mem_of_subset hk ?_) ?_
    | with_reducible refine putTm_keeps (not_mem_of_subset hk ?_) ?_
    | with_reducible refine putCal_keeps (not_mem_of_subset hk ?_) ?_
    | with_reducible refine ite_keeps ?_ ?_
    | with_reducible refine foldl_keeps ?_ (fun t a h => ?_)
    | dsimp -proj only
    | split
    | decide

theorem takeLinkRate_keeps {k : Comp} {s x : State} {a0 a1} (hk : k ∉ [.evt, .links, .store, .nvm]) (h : k.same s x) :
    k.same s (takeLinkRate x a0 a1) := by
  unfold takeLinkRate
  repeat' first
    | with_reducible assumption
    | with_reducible refine modLink_keeps (not_mem_of_subset hk ?_) ?_
    | with_reducible refine logK_keeps (not_mem_of_subset hk ?_) ?_
    | with_reducible refine ite_keeps ?_ ?_
    | with_reducible refine foldl_keeps ?_ (fun t a h => ?_)
    | dsimp -proj only
    | split
    | decide

theorem execDtimeLoadNow_keeps {k : Comp} {s x : State} {a0 a1} (hk : k ∉ [.power, .boot, .dev, .welt, .therm, .evt, .heel, .lanes, .links, .last, .store, .win, .twb, .imc, .wqs, .cqs, .units, .slots, .sched, .awl, .nvm, .tm, .time, .cal, .free]) (h : k.same s x) :
    ∃ t, execDtimeLoadNow a0 a1 x = .next t ∧ k.same s t := by
  unfold execDtimeLoadNow
  repeat' first
    | with_reducible assumption
    | with_reducible refine done_keeps (not_mem_of_subset hk ?_) ?_
    | with_reducible refine writeTo_keeps (not_mem_of_subset hk ?_) ?_
    | with_reducible refine ite_keeps ?_ ?_
    | with_reducible refine foldl_keeps ?_ (fun t a h => ?_)
    | dsimp -proj only
    | split
    | decide

theorem joinLink_keeps {k : Comp} {s x : State} {a0} (hk : k ∉ [.power, .welt, .evt, .lanes, .links, .last, .store, .units, .nvm, .cal, .free]) (h : k.same s x) :
    k.same s (joinLink x a0) := by
  unfold joinLink
  repeat' first
    | with_reducible assumption
    | with_reducible refine modLink_keeps (not_mem_of_subset hk ?_) ?_
    | with_reducible refine enterDetect_keeps (not_mem_of_subset hk ?_) ?_
    | with_reducible refine checkRecovered_keeps (not_mem_of_subset hk ?_) ?_
    | with_reducible refine ite_keeps ?_ ?_
    | with_reducible refine foldl_keeps ?_ (fun t a h => ?_)
    | dsimp -proj only
    | split
    | decide

theorem joinIfOpen_keeps {k : Comp} {s x : State} {a0} (hk : k ∉ [.power, .welt, .evt, .lanes, .links, .last, .store, .units, .nvm, .cal, .free]) (h : k.same s x) :
    k.same s (joinIfOpen x a0) := by
  unfold joinIfOpen
  repeat' first
    | with_reducible assumption
    | with_reducible refine joinLink_keeps (not_mem_of_subset hk ?_) ?_
    | with_reducible refine ite_keeps ?_ ?_
    | with_reducible refine foldl_keeps ?_ (fun t a h => ?_)
    | dsimp -proj only
    | split
    | decide

theorem openConfirmed_keeps {k : Comp} {s x : State} {a0} (hk : k ∉ [.power, .welt, .evt, .lanes, .links, .last, .store, .units, .nvm, .cal, .free]) (h : k.same s x) :
    k.same s (openConfirmed x a0) := by
  unfold openConfirmed
  try dsimp -zeta -proj only [upd_welt]
  repeat' first
    | with_reducible assumption
    | with_reducible refine modTx_keeps (not_mem_of_subset hk ?_) ?_
    | with_reducible refine joinIfOpen_keeps (not_mem_of_subset hk ?_) ?_
    | with_reducible refine putWelt_keeps (not_mem_of_subset hk ?_) ?_
    | with_reducible refine ite_keeps ?_ ?_
    | with_reducible refine foldl_keeps ?_ (fun t a h => ?_)
    | dsimp -proj only
    | split
    | decide

theorem drainEnd_keeps {k : Comp} {s x : State} {a0} (hk : k ∉ [.wqs]) (h : k.same s x) :
    k.same s (drainEnd x a0) := by
  unfold drainEnd
  repeat' first
    | with_reducible assumption
    | with_reducible refine modWq_keeps (not_mem_of_subset hk ?_) ?_
    | with_reducible refine ite_keeps ?_ ?_
    | with_reducible refine foldl_keeps ?_ (fun t a h => ?_)
    | dsimp -proj only
    | split
    | decide

theorem homeStandins_keeps {k : Comp} {s x : State} (hk : k ∉ [.links, .free]) (h : k.same s x) :
    k.same s (homeStandins x) := by
  unfold homeStandins
  repeat' first
    | with_reducible assumption
    | with_reducible refine beginSwap_keeps (not_mem_of_subset hk ?_) ?_
    | with_reducible refine ite_keeps ?_ ?_
    | with_reducible refine foldl_keeps ?_ (fun t a h => ?_)
    | dsimp -proj only
    | split
    | decide

theorem execRecalAborted_keeps {k : Comp} {s x : State} (hk : k ∉ [.evt, .heel, .lanes, .links, .store, .imc, .units, .nvm, .cal, .free]) (h : k.same s x) :
    ∃ t, execRecalAborted x = .next t ∧ k.same s t := by
  unfold execRecalAborted
  repeat' first
    | with_reducible assumption
    | with_reducible refine done_keeps (not_mem_of_subset hk ?_) ?_
    | with_reducible refine homeStandins_keeps (not_mem_of_subset hk ?_) ?_
    | with_reducible refine abortRecal_keeps (not_mem_of_subset hk ?_) ?_
    | with_reducible refine ite_keeps ?_ ?_
    | with_reducible refine foldl_keeps ?_ (fun t a h => ?_)
    | dsimp -proj only
    | split
    | decide

theorem tick_keeps {k : Comp} {s x : State} (hk : k ∉ [.time]) (h : k.same s x) :
    k.same s (tick x) := by
  unfold tick
  try dsimp -zeta -proj only [upd_time]
  repeat' first
    | with_reducible assumption
    | with_reducible refine putTime_keeps (not_mem_of_subset hk ?_) ?_
    | with_reducible refine ite_keeps ?_ ?_
    | with_reducible refine foldl_keeps ?_ (fun t a h => ?_)
    | dsimp -proj only
    | split
    | decide

theorem execVioSplitThreshold_keeps {k : Comp} {s x : State} (hk : k ∉ [.power, .evt, .heel, .lanes, .links, .store, .imc, .units, .nvm, .cal, .free]) (h : k.same s x) :
    ∃ t, execVioSplitThreshold x = .next t ∧ k.same s t := by
  unfold execVioSplitThreshold
  repeat' first
    | with_reducible assumption
    | with_reducible refine done_keeps (not_mem_of_subset hk ?_) ?_
    | with_reducible refine modPower_keeps (not_mem_of_subset hk ?_) ?_
    | with_reducible refine ite_keeps ?_ ?_
    | with_reducible refine foldl_keeps ?_ (fun t a h => ?_)
    | dsimp -proj only
    | split
    | decide

theorem resendRelease_keeps {k : Comp} {s x : State} {a0 a1 a2} (hk : k ∉ [.links]) (h : k.same s x) :
    k.same s (resendRelease x a0 a1 a2) := by
  unfold resendRelease
  repeat' first
    | with_reducible assumption
    | with_reducible refine dropSpare_keeps (not_mem_of_subset hk ?_) ?_
    | with_reducible refine modLink_keeps (not_mem_of_subset hk ?_) ?_
    | with_reducible refine joinOut_keeps (not_mem_of_subset hk ?_) ?_
    | with_reducible refine ite_keeps ?_ ?_
    | with_reducible refine foldl_keeps ?_ (fun t a h => ?_)
    | dsimp -proj only
    | split
    | decide

theorem execCaptureLostPage_keeps {k : Comp} {s x : State} {a0} (hk : k ∉ [.evt, .heel, .lanes, .links, .store, .win, .imc, .units, .nvm, .cal, .free]) (h : k.same s x) :
    ∃ t, execCaptureLostPage a0 x = .next t ∧ k.same s t := by
  unfold execCaptureLostPage
  repeat' first
    | with_reducible assumption
    | with_reducible refine done_keeps (not_mem_of_subset hk ?_) ?_
    | with_reducible refine lostPage_keeps (not_mem_of_subset hk ?_) ?_
    | with_reducible refine ite_keeps ?_ ?_
    | with_reducible refine foldl_keeps ?_ (fun t a h => ?_)
    | dsimp -proj only
    | split
    | decide

theorem readRecord_keeps {k : Comp} {s x : State} {a0} (hk : k ∉ [.nvm, .free]) (h : k.same s x) :
    k.same s (readRecord x a0).2 := by
  unfold readRecord
  repeat' first
    | with_reducible assumption
    | with_reducible refine readUnits_keeps (not_mem_of_subset hk ?_) ?_
    | with_reducible refine readUnits_keeps_eq (not_mem_of_subset hk ?_) ?_ (by with_reducible assumption)
    | with_reducible refine ite_keeps ?_ ?_
    | with_reducible refine foldl_keeps ?_ (fun t a h => ?_)
    | dsimp -proj only
    | split
    | decide

theorem readRecord_keeps_eq {k : Comp} {s x : State} {a0} {r u} (hk : k ∉ [.nvm, .free]) (h : k.same s x) (e : readRecord x a0 = (r, u)) :
    k.same s u := by
  simpa only [e] using readRecord_keeps (s := s) (x := x) (a0 := a0) hk h

theorem staleAll_keeps {k : Comp} {s x : State} (hk : k ∉ [.tm]) (h : k.same s x) :
    k.same s (staleAll x) := by
  unfold staleAll
  try dsimp -zeta -proj only [upd_tm]
  repeat' first
    | with_reducible assumption
    | with_reducible refine putTm_keeps (not_mem_of_subset hk ?_) ?_
    | with_reducible refine ite_keeps ?_ ?_
    | with_reducible refine foldl_keeps ?_ (fun t a h => ?_)
    | dsimp -proj only
    | split
    | decide

theorem calibrateLanes_keeps {k : Comp} {s x : State} {a0 a1 a2} (hk : k ∉ [.lanes, .cal, .free]) (h : k.same s x) :
    k.same s (calibrateLanes x a0 a1 a2) := by
  have e : ∀ (y : State) (c : CalSt) (f : Nat), { y with cal := c, free := f } = (y.putCal c).putFree f :=
    fun _ _ _ => rfl
  unfold calibrateLanes
  simp -zeta -proj only [e]
  extract_lets f s1 g c cal
  have hs : k.same s s1 := foldl_keeps h fun t q hq => modCal_keeps (not_mem_of_subset hk (by decide)) hq
  clear_value s1
  exact putFree_keeps (not_mem_of_subset hk (by decide)) (putCal_keeps (not_mem_of_subset hk (by decide)) hs)

theorem calibrate_keeps {k : Comp} {s x : State} {a0} (hk : k ∉ [.power, .boot, .evt, .lanes, .store, .nvm, .tm, .cal, .free]) (h : k.same s x) :
    k.same s (calibrate x a0) := by
  unfold calibrate
  try dsimp -zeta -proj only [upd_boot_cal]
  repeat' first
    | with_reducible assumption
    | with_reducible refine logEvent_keeps (not_mem_of_subset hk ?_) ?_
    | with_reducible refine readRecord_keeps (not_mem_of_subset hk ?_) ?_
    | with_reducible refine readRecord_keeps_eq (not_mem_of_subset hk ?_) ?_ (by with_reducible assumption)
    | with_reducible refine staleAll_keeps (not_mem_of_subset hk ?_) ?_
    | with_reducible refine modLane_keeps (not_mem_of_subset hk ?_) ?_
    | with_reducible refine lockPlls_keeps (not_mem_of_subset hk ?_) ?_
    | with_reducible refine calibrateLanes_keeps (not_mem_of_subset hk ?_) ?_
    | with_reducible refine putBoot_keeps (not_mem_of_subset hk ?_) ?_
    | with_reducible refine putCal_keeps (not_mem_of_subset hk ?_) ?_
    | with_reducible refine ite_keeps ?_ ?_
    | with_reducible refine foldl_keeps ?_ (fun t a h => ?_)
    | dsimp -proj only
    | split
    | decide

theorem execBootCalibration_keeps {k : Comp} {s x : State} {a0} (hk : k ∉ [.power, .boot, .evt, .heel, .lanes, .links, .store, .imc, .units, .nvm, .tm, .cal, .free]) (h : k.same s x) :
    ∃ t, execBootCalibration a0 x = .next t ∧ k.same s t := by
  unfold execBootCalibration
  repeat' first
    | with_reducible assumption
    | with_reducible refine done_keeps (not_mem_of_subset hk ?_) ?_
    | with_reducible refine calibrate_keeps (not_mem_of_subset hk ?_) ?_
    | with_reducible refine ite_keeps ?_ ?_
    | with_reducible refine foldl_keeps ?_ (fun t a h => ?_)
    | dsimp -proj only
    | split
    | decide

theorem sleepDir_keeps {k : Comp} {s x : State} {a0 a1} (hk : k ∉ [.lanes, .units]) (h : k.same s x) :
    k.same s (sleepDir x a0 a1) := by
  unfold sleepDir
  repeat' first
    | with_reducible assumption
    | with_reducible refine dropCdr_keeps (not_mem_of_subset hk ?_) ?_
    | with_reducible refine ite_keeps ?_ ?_
    | with_reducible refine foldl_keeps ?_ (fun t a h => ?_)
    | dsimp -proj only
    | split
    | decide

theorem idleEntry_keeps {k : Comp} {s x : State} {a0 a1} (hk : k ∉ [.power, .welt, .evt, .lanes, .links, .last, .store, .units, .nvm, .free]) (h : k.same s x) :
    k.same s (idleEntry x a0 a1) := by
  unfold idleEntry
  repeat' first
    | with_reducible assumption
    | with_reducible refine modLink_keeps (not_mem_of_subset hk ?_) ?_
    | with_reducible refine enterRetrain_keeps (not_mem_of_subset hk ?_) ?_
    | with_reducible refine sleepDir_keeps (not_mem_of_subset hk ?_) ?_
    | with_reducible refine ite_keeps ?_ ?_
    | with_reducible refine foldl_keeps ?_ (fun t a h => ?_)
    | dsimp -proj only
    | split
    | decide

theorem execDevctlThermRearm_keeps {k : Comp} {s x : State} {a0 a1} (hk : k ∉ [.power, .boot, .dev, .welt, .therm, .evt, .heel, .lanes, .links, .last, .store, .win, .twb, .imc, .wqs, .cqs, .units, .slots, .sched, .awl, .nvm, .tm, .time, .cal, .free]) (h : k.same s x) :
    ∃ t, execDevctlThermRearm a0 a1 x = .next t ∧ k.same s t := by
  unfold execDevctlThermRearm
  repeat' first
    | with_reducible assumption
    | with_reducible refine done_keeps (not_mem_of_subset hk ?_) ?_
    | with_reducible refine writeTo_keeps (not_mem_of_subset hk ?_) ?_
    | with_reducible refine ite_keeps ?_ ?_
    | with_reducible refine foldl_keeps ?_ (fun t a h => ?_)
    | dsimp -proj only
    | split
    | decide

theorem revertWorse_keeps {k : Comp} {s x : State} {a0} (hk : k ∉ [.evt, .lanes, .store, .nvm]) (h : k.same s x) :
    k.same s (revertWorse x a0) := by
  unfold revertWorse
  repeat' first
    | with_reducible assumption
    | with_reducible refine logL_keeps (not_mem_of_subset hk ?_) ?_
    | with_reducible refine revertUnit_keeps (not_mem_of_subset hk ?_) ?_
    | with_reducible refine modCal_keeps (not_mem_of_subset hk ?_) ?_
    | with_reducible refine ite_keeps ?_ ?_
    | with_reducible refine foldl_keeps ?_ (fun t a h => ?_)
    | dsimp -proj only
    | split
    | decide

theorem qualityCheck_keeps {k : Comp} {s x : State} {a0 a1 a2 a3} (hk : k ∉ [.evt, .lanes, .links, .store, .nvm, .cal, .free]) (h : k.same s x) :
    k.same s (qualityCheck x a0 a1 a2 a3) := by
  unfold qualityCheck
  repeat' first
    | with_reducible assumption
    | with_reducible refine revertWorse_keeps (not_mem_of_subset hk ?_) ?_
    | with_reducible refine followStandin_keeps (not_mem_of_subset hk ?_) ?_
    | with_reducible refine setStage_keeps (not_mem_of_subset hk ?_) ?_
    | with_reducible refine endRecal_keeps (not_mem_of_subset hk ?_) ?_
    | with_reducible refine nextRecal_keeps (not_mem_of_subset hk ?_) ?_
    | with_reducible refine keepUnit_keeps (not_mem_of_subset hk ?_) ?_
    | with_reducible refine ite_keeps ?_ ?_
    | with_reducible refine foldl_keeps ?_ (fun t a h => ?_)
    | dsimp -proj only
    | split
    | decide

theorem execPllRelockAttempt_keeps {k : Comp} {s x : State} {a0 a1} (hk : k ∉ [.power, .evt, .heel, .lanes, .links, .store, .imc, .units, .nvm, .cal, .free]) (h : k.same s x) :
    ∃ t, execPllRelockAttempt a0 a1 x = .next t ∧ k.same s t := by
  unfold execPllRelockAttempt
  try dsimp -zeta -proj only [upd_power]
  repeat' first
    | with_reducible assumption
    | with_reducible refine done_keeps (not_mem_of_subset hk ?_) ?_
    | with_reducible refine restoreTransparent_keeps (not_mem_of_subset hk ?_) ?_
    | with_reducible refine lockPlls_keeps (not_mem_of_subset hk ?_) ?_
    | with_reducible refine putPower_keeps (not_mem_of_subset hk ?_) ?_
    | with_reducible refine ite_keeps ?_ ?_
    | with_reducible refine foldl_keeps ?_ (fun t a h => ?_)
    | dsimp -proj only
    | split
    | decide

theorem placeLog_keeps {k : Comp} {s x : State} {a0} (hk : k ∉ [.nvm]) (h : k.same s x) :
    k.same s (placeLog x a0) := by
  have hn : ∀ {y v}, k.same s y → k.same s (y.putNvm v) := fun g => putNvm_keeps (not_mem_of_subset hk (by decide)) g
  unfold placeLog
  dsimp only
  split <;> exact ite_keeps (rotateLog_keeps (not_mem_of_subset hk (by decide)) (hn h)) (hn h)

theorem execReceiverDetect_keeps {k : Comp} {s x : State} {a0 a1 a2} (hk : k ∉ [.evt, .heel, .lanes, .links, .store, .imc, .units, .nvm, .cal, .free]) (h : k.same s x) :
    ∃ t, execReceiverDetect a0 a1 a2 x = .next t ∧ k.same s t := by
  unfold execReceiverDetect
  repeat' first
    | with_reducible assumption
    | with_reducible refine done_keeps (not_mem_of_subset hk ?_) ?_
    | with_reducible refine modLink_keeps (not_mem_of_subset hk ?_) ?_
    | with_reducible refine ite_keeps ?_ ?_
    | with_reducible refine foldl_keeps ?_ (fun t a h => ?_)
    | dsimp -proj only
    | split
    | decide

theorem readLog_keeps {k : Comp} {s x : State} (hk : k ∉ [.nvm, .free]) (h : k.same s x) :
    k.same s (readLog x).2 := by
  unfold readLog
  repeat' first
    | with_reducible assumption
    | with_reducible refine readAll_keeps (not_mem_of_subset hk ?_) ?_
    | with_reducible refine readAll_keeps_eq (not_mem_of_subset hk ?_) ?_ (by with_reducible assumption)
    | with_reducible refine ite_keeps ?_ ?_
    | with_reducible refine foldl_keeps ?_ (fun t a h => ?_)
    | dsimp -proj only
    | split
    | decide

theorem readLog_keeps_eq {k : Comp} {s x : State} {r u} (hk : k ∉ [.nvm, .free]) (h : k.same s x) (e : readLog x = (r, u)) :
    k.same s u := by
  simpa only [e] using readLog_keeps (s := s) (x := x)  hk h

theorem restoreHeads_keeps {k : Comp} {s x : State} {a0} (hk : k ∉ [.evt, .store, .nvm]) (h : k.same s x) :
    k.same s (restoreHeads x a0) := by
  unfold restoreHeads
  try dsimp -zeta -proj only [upd_nvm]
  repeat' first
    | with_reducible assumption
    | with_reducible refine logEvent_keeps (not_mem_of_subset hk ?_) ?_
    | with_reducible refine putNvm_keeps (not_mem_of_subset hk ?_) ?_
    | with_reducible refine ite_keeps ?_ ?_
    | with_reducible refine foldl_keeps ?_ (fun t a h => ?_)
    | dsimp -proj only
    | split
    | decide

theorem bootNvm_keeps {k : Comp} {s x : State} (hk : k ∉ [.evt, .store, .nvm, .free]) (h : k.same s x) :
    k.same s (bootNvm x) := by
  unfold bootNvm
  repeat' first
    | with_reducible assumption
    | with_reducible refine readLog_keeps (not_mem_of_subset hk ?_) ?_
    | with_reducible refine readLog_keeps_eq (not_mem_of_subset hk ?_) ?_ (by with_reducible assumption)
    | with_reducible refine placeLog_keeps (not_mem_of_subset hk ?_) ?_
    | with_reducible refine tendLog_keeps (not_mem_of_subset hk ?_) ?_
    | with_reducible refine restoreHeads_keeps (not_mem_of_subset hk ?_) ?_
    | with_reducible refine ite_keeps ?_ ?_
    | with_reducible refine foldl_keeps ?_ (fun t a h => ?_)
    | dsimp -proj only
    | split
    | decide

theorem releaseReset_keeps {k : Comp} {s x : State} {a0} (hk : k ∉ [.pins, .power, .boot, .evt, .store, .nvm, .free]) (h : k.same s x) :
    k.same s (releaseReset x a0) := by
  unfold releaseReset
  try dsimp -zeta -proj only [upd_pins_power_boot]
  repeat' first
    | with_reducible assumption
    | with_reducible refine bootNvm_keeps (not_mem_of_subset hk ?_) ?_
    | with_reducible refine putPins_keeps (not_mem_of_subset hk ?_) ?_
    | with_reducible refine putPower_keeps (not_mem_of_subset hk ?_) ?_
    | with_reducible refine putBoot_keeps (not_mem_of_subset hk ?_) ?_
    | with_reducible refine ite_keeps ?_ ?_
    | with_reducible refine foldl_keeps ?_ (fun t a h => ?_)
    | dsimp -proj only
    | split
    | decide

theorem refusesProgram_keeps {k : Comp} {s x : State} {a0} (hk : k ∉ [.free]) (h : k.same s x) :
    k.same s (refusesProgram x a0).2 := by
  unfold refusesProgram
  repeat' first
    | with_reducible assumption
    | with_reducible refine useFree_keeps (not_mem_of_subset hk ?_) ?_
    | with_reducible refine useFree_keeps_eq (not_mem_of_subset hk ?_) ?_ (by with_reducible assumption)
    | with_reducible refine ite_keeps ?_ ?_
    | with_reducible refine foldl_keeps ?_ (fun t a h => ?_)
    | dsimp -proj only
    | split
    | decide

theorem refusesProgram_keeps_eq {k : Comp} {s x : State} {a0} {r u} (hk : k ∉ [.free]) (h : k.same s x) (e : refusesProgram x a0 = (r, u)) :
    k.same s u := by
  simpa only [e] using refusesProgram_keeps (s := s) (x := x) (a0 := a0) hk h

theorem firstRefusing_keeps {k : Comp} {s x : State} {a0 a1} (hk : k ∉ [.free]) (h : k.same s x) :
    k.same s (firstRefusing a0 a1 x).2 := by
  induction a0 generalizing x a1 with
  | zero => exact h
  | succ n ih =>
    unfold firstRefusing
    split
    · exact refusesProgram_keeps_eq (not_mem_of_subset hk (by decide)) h (by assumption)
    · exact ih (refusesProgram_keeps_eq (not_mem_of_subset hk (by decide)) h (by assumption))

theorem firstRefusing_keeps_eq {k : Comp} {s x : State} {a0 a1} {r u} (hk : k ∉ [.free]) (h : k.same s x) (e : firstRefusing a0 a1 x = (r, u)) :
    k.same s u := by
  simpa only [e] using firstRefusing_keeps (s := s) (x := x) (a0 := a0) (a1 := a1) hk h

theorem programChecks_keeps {k : Comp} {s x : State} {a0 a1} (hk : k ∉ [.units, .free]) (h : k.same s x) :
    k.same s (programChecks x a0 a1) := by
  unfold programChecks
  repeat' first
    | with_reducible assumption
    | with_reducible refine finishWith_keeps (not_mem_of_subset hk ?_) ?_
    | with_reducible refine firstRefusing_keeps (not_mem_of_subset hk ?_) ?_
    | with_reducible refine firstRefusing_keeps_eq (not_mem_of_subset hk ?_) ?_ (by with_reducible assumption)
    | with_reducible refine keepJob_keeps (not_mem_of_subset hk ?_) ?_
    | with_reducible refine ite_keeps ?_ ?_
    | with_reducible refine foldl_keeps ?_ (fun t a h => ?_)
    | dsimp -proj only
    | split
    | decide

theorem programBlock_keeps {k : Comp} {s x : State} {a0 a1} (hk : k ∉ [.evt, .heel, .last, .store, .win, .wqs, .cqs, .units, .slots, .sched, .nvm, .free]) (h : k.same s x) :
    k.same s (programBlock x a0 a1) := by
  unfold programBlock
  repeat' first
    | with_reducible assumption
    | with_reducible refine faultJob_keeps (not_mem_of_subset hk ?_) ?_
    | with_reducible refine programChecks_keeps (not_mem_of_subset hk ?_) ?_
    | with_reducible refine jobRead_keeps (not_mem_of_subset hk ?_) ?_
    | with_reducible refine jobRead_keeps_eq (not_mem_of_subset hk ?_) ?_ (by with_reducible assumption)
    | with_reducible refine keepJob_keeps (not_mem_of_subset hk ?_) ?_
    | with_reducible refine ite_keeps ?_ ?_
    | with_reducible refine foldl_keeps ?_ (fun t a h => ?_)
    | dsimp -proj only
    | split
    | decide

theorem execNvmProgram_keeps {k : Comp} {s x : State} {a0} (hk : k ∉ [.evt, .heel, .lanes, .links, .last, .store, .win, .imc, .wqs, .cqs, .units, .slots, .sched, .nvm, .cal, .free]) (h : k.same s x) :
    ∃ t, execNvmProgram a0 x = .next t ∧ k.same s t := by
  unfold execNvmProgram
  repeat' first
    | with_reducible assumption
    | with_reducible refine done_keeps (not_mem_of_subset hk ?_) ?_
    | with_reducible refine programBlock_keeps (not_mem_of_subset hk ?_) ?_
    | with_reducible refine ownDone_keeps (not_mem_of_subset hk ?_) ?_
    | with_reducible refine upset_keeps (not_mem_of_subset hk ?_) ?_
    | with_reducible refine ite_keeps ?_ ?_
    | with_reducible refine foldl_keeps ?_ (fun t a h => ?_)
    | dsimp -proj only
    | split
    | decide

theorem execLnkctlRetrain_keeps {k : Comp} {s x : State} {a0 a1 a2} (hk : k ∉ [.power, .boot, .dev, .welt, .therm, .evt, .heel, .lanes, .links, .last, .store, .win, .twb, .imc, .wqs, .cqs, .units, .slots, .sched, .awl, .nvm, .tm, .time, .cal, .free]) (h : k.same s x) :
    ∃ t, execLnkctlRetrain a0 a1 a2 x = .next t ∧ k.same s t := by
  unfold execLnkctlRetrain
  repeat' first
    | with_reducible assumption
    | with_reducible refine done_keeps (not_mem_of_subset hk ?_) ?_
    | with_reducible refine writeTo_keeps (not_mem_of_subset hk ?_) ?_
    | with_reducible refine ite_keeps ?_ ?_
    | with_reducible refine foldl_keeps ?_ (fun t a h => ?_)
    | dsimp -proj only
    | split
    | decide

theorem railOutside_keeps {k : Comp} {s x : State} {a0} (hk : k ∉ [.power, .evt, .store, .nvm]) (h : k.same s x) :
    k.same s (railOutside x a0) := by
  unfold railOutside
  try dsimp -zeta -proj only [upd_evt]
  repeat' first
    | with_reducible assumption
    | with_reducible refine logEvent_keeps (not_mem_of_subset hk ?_) ?_
    | with_reducible refine modPower_keeps (not_mem_of_subset hk ?_) ?_
    | with_reducible refine putEvt_keeps (not_mem_of_subset hk ?_) ?_
    | with_reducible refine ite_keeps ?_ ?_
    | with_reducible refine foldl_keeps ?_ (fun t a h => ?_)
    | dsimp -proj only
    | split
    | decide

theorem execSupplyOutOfWindow_keeps {k : Comp} {s x : State} {a0} (hk : k ∉ [.power, .evt, .heel, .lanes, .links, .store, .imc, .units, .nvm, .cal, .free]) (h : k.same s x) :
    ∃ t, execSupplyOutOfWindow a0 x = .next t ∧ k.same s t := by
  unfold execSupplyOutOfWindow
  repeat' first
    | with_reducible assumption
    | with_reducible refine done_keeps (not_mem_of_subset hk ?_) ?_
    | with_reducible refine railOutside_keeps (not_mem_of_subset hk ?_) ?_
    | with_reducible refine ite_keeps ?_ ?_
    | with_reducible refine foldl_keeps ?_ (fun t a h => ?_)
    | dsimp -proj only
    | split
    | decide

theorem execChargePumpReady_keeps {k : Comp} {s x : State} (hk : k ∉ [.power, .welt, .evt, .heel, .lanes, .links, .last, .store, .imc, .units, .nvm, .cal, .free]) (h : k.same s x) :
    ∃ t, execChargePumpReady x = .next t ∧ k.same s t := by
  unfold execChargePumpReady
  repeat' first
    | with_reducible assumption
    | with_reducible refine done_keeps (not_mem_of_subset hk ?_) ?_
    | with_reducible refine settle_keeps (not_mem_of_subset hk ?_) ?_
    | with_reducible refine modPower_keeps (not_mem_of_subset hk ?_) ?_
    | with_reducible refine ite_keeps ?_ ?_
    | with_reducible refine foldl_keeps ?_ (fun t a h => ?_)
    | dsimp -proj only
    | split
    | decide

theorem programUnit_keeps {k : Comp} {s x : State} {a0 a1 a2} (hk : k ∉ [.units, .nvm]) (h : k.same s x) :
    k.same s (programUnit x a0 a1 a2) := by
  unfold programUnit
  try dsimp -zeta -proj only [upd_nvm]
  repeat' first
    | with_reducible assumption
    | with_reducible refine finishWith_keeps (not_mem_of_subset hk ?_) ?_
    | with_reducible refine keepJob_keeps (not_mem_of_subset hk ?_) ?_
    | with_reducible refine putNvm_keeps (not_mem_of_subset hk ?_) ?_
    | with_reducible refine ite_keeps ?_ ?_
    | with_reducible refine foldl_keeps ?_ (fun t a h => ?_)
    | dsimp -proj only
    | split
    | decide

theorem ownUnit_keeps {k : Comp} {s x : State} {a0 a1 a2} (hk : k ∉ [.nvm]) (h : k.same s x) :
    k.same s (ownUnit x a0 a1 a2) := by
  unfold ownUnit
  try dsimp -zeta -proj only [upd_nvm]
  repeat' first
    | with_reducible assumption
    | with_reducible refine putNvm_keeps (not_mem_of_subset hk ?_) ?_
    | with_reducible refine ite_keeps ?_ ?_
    | with_reducible refine foldl_keeps ?_ (fun t a h => ?_)
    | dsimp -proj only
    | split
    | decide

theorem execNvmUnitProgrammed_keeps {k : Comp} {s x : State} {a0} (hk : k ∉ [.evt, .heel, .lanes, .links, .store, .imc, .units, .nvm, .cal, .free]) (h : k.same s x) :
    ∃ t, execNvmUnitProgrammed a0 x = .next t ∧ k.same s t := by
  unfold execNvmUnitProgrammed
  repeat' first
    | with_reducible assumption
    | with_reducible refine programUnit_keeps (not_mem_of_subset hk ?_) ?_
    | with_reducible refine ownUnit_keeps (not_mem_of_subset hk ?_) ?_
    | with_reducible refine done_keeps (not_mem_of_subset hk ?_) ?_
    | with_reducible refine ite_keeps ?_ ?_
    | with_reducible refine foldl_keeps ?_ (fun t a h => ?_)
    | dsimp -proj only
    | split
    | decide

theorem execBootDone_keeps {k : Comp} {s x : State} (hk : k ∉ [.power, .boot, .welt, .evt, .heel, .lanes, .links, .last, .store, .imc, .units, .nvm, .cal, .free]) (h : k.same s x) :
    ∃ t, execBootDone x = .next t ∧ k.same s t := by
  unfold execBootDone
  try dsimp -zeta -proj only [upd_boot]
  repeat' first
    | with_reducible assumption
    | with_reducible refine done_keeps (not_mem_of_subset hk ?_) ?_
    | with_reducible refine settle_keeps (not_mem_of_subset hk ?_) ?_
    | with_reducible refine putBoot_keeps (not_mem_of_subset hk ?_) ?_
    | with_reducible refine ite_keeps ?_ ?_
    | with_reducible refine foldl_keeps ?_ (fun t a h => ?_)
    | dsimp -proj only
    | split
    | decide

theorem execLoopNearParallel_keeps {k : Comp} {s x : State} {a0 a1 a2 a3} (hk : k ∉ [.power, .boot, .dev, .welt, .therm, .evt, .heel, .lanes, .links, .last, .store, .win, .twb, .imc, .wqs, .cqs, .units, .slots, .sched, .awl, .nvm, .tm, .time, .cal, .free]) (h : k.same s x) :
    ∃ t, execLoopNearParallel a0 a1 a2 a3 x = .next t ∧ k.same s t := by
  unfold execLoopNearParallel
  repeat' first
    | with_reducible assumption
    | with_reducible refine done_keeps (not_mem_of_subset hk ?_) ?_
    | with_reducible refine writeTo_keeps (not_mem_of_subset hk ?_) ?_
    | with_reducible refine ite_keeps ?_ ?_
    | with_reducible refine foldl_keeps ?_ (fun t a h => ?_)
    | dsimp -proj only
    | split
    | decide

theorem execMosRd_keeps {k : Comp} {s x : State} {a0 a1 a2 a3 a4 a5} (hk : k ∉ [.power, .boot, .dev, .welt, .therm, .evt, .heel, .lanes, .links, .last, .store, .win, .twb, .imc, .acc, .wqs, .cqs, .units, .slots, .sched, .awl, .nvm, .tm, .time, .cal, .free]) (h : k.same s x) :
    ∃ t, execMosRd a0 a1 a2 a3 a4 a5 x = .next t ∧ k.same s t := by
  unfold execMosRd
  repeat' first
    | with_reducible assumption
    | with_reducible refine done_keeps (not_mem_of_subset hk ?_) ?_
    | with_reducible refine mosIn_keeps (not_mem_of_subset hk ?_) ?_
    | with_reducible refine upset_keeps (not_mem_of_subset hk ?_) ?_
    | with_reducible refine ite_keeps ?_ ?_
    | with_reducible refine foldl_keeps ?_ (fun t a h => ?_)
    | dsimp -proj only
    | split
    | decide

theorem execImcSend_keeps {k : Comp} {s x : State} (hk : k ∉ [.evt, .heel, .lanes, .links, .store, .imc, .units, .nvm, .cal, .free]) (h : k.same s x) :
    ∃ t, execImcSend x = .next t ∧ k.same s t := by
  unfold execImcSend
  repeat' first
    | with_reducible assumption
    | with_reducible refine done_keeps (not_mem_of_subset hk ?_) ?_
    | with_reducible refine sendStart_keeps (not_mem_of_subset hk ?_) ?_
    | with_reducible refine ite_keeps ?_ ?_
    | with_reducible refine foldl_keeps ?_ (fun t a h => ?_)
    | dsimp -proj only
    | split
    | decide

theorem endFence_keeps {k : Comp} {s x : State} {a0} (hk : k ∉ [.evt, .heel, .store, .win, .wqs, .cqs, .nvm]) (h : k.same s x) :
    k.same s (endFence x a0) := by
  unfold endFence
  repeat' first
    | with_reducible assumption
    | with_reducible refine modWq_keeps (not_mem_of_subset hk ?_) ?_
    | with_reducible refine endEntry_keeps (not_mem_of_subset hk ?_) ?_
    | with_reducible refine ite_keeps ?_ ?_
    | with_reducible refine foldl_keeps ?_ (fun t a h => ?_)
    | dsimp -proj only
    | split
    | decide

theorem execFence_keeps {k : Comp} {s x : State} {a0} (hk : k ∉ [.evt, .heel, .lanes, .links, .store, .win, .imc, .wqs, .cqs, .units, .sched, .nvm, .cal, .free]) (h : k.same s x) :
    ∃ t, execFence a0 x = .next t ∧ k.same s t := by
  unfold execFence
  repeat' first
    | with_reducible assumption
    | with_reducible refine done_keeps (not_mem_of_subset hk ?_) ?_
    | with_reducible refine endFence_keeps (not_mem_of_subset hk ?_) ?_
    | with_reducible refine beginFence_keeps (not_mem_of_subset hk ?_) ?_
    | with_reducible refine ite_keeps ?_ ?_
    | with_reducible refine foldl_keeps ?_ (fun t a h => ?_)
    | dsimp -proj only
    | split
    | decide

theorem execPrbsInject_keeps {k : Comp} {s x : State} {a0 a1 a2 a3} (hk : k ∉ [.power, .boot, .dev, .welt, .therm, .evt, .heel, .lanes, .links, .last, .store, .win, .twb, .imc, .wqs, .cqs, .units, .slots, .sched, .awl, .nvm, .tm, .time, .cal, .free]) (h : k.same s x) :
    ∃ t, execPrbsInject a0 a1 a2 a3 x = .next t ∧ k.same s t := by
  unfold execPrbsInject
  repeat' first
    | with_reducible assumption
    | with_reducible refine done_keeps (not_mem_of_subset hk ?_) ?_
    | with_reducible refine writeTo_keeps (not_mem_of_subset hk ?_) ?_
    | with_reducible refine ite_keeps ?_ ?_
    | with_reducible refine foldl_keeps ?_ (fun t a h => ?_)
    | dsimp -proj only
    | split
    | decide

theorem evaluateUnits_keeps {k : Comp} {s x : State} (hk : k ∉ [.lanes, .cal]) (h : k.same s x) :
    k.same s (evaluateUnits x) := by
  unfold evaluateUnits
  try dsimp -zeta -proj only [upd_cal]
  repeat' first
    | with_reducible assumption
    | with_reducible refine passTriggers_keeps (not_mem_of_subset hk ?_) ?_
    | with_reducible refine putCal_keeps (not_mem_of_subset hk ?_) ?_
    | with_reducible refine ite_keeps ?_ ?_
    | with_reducible refine foldl_keeps ?_ (fun t a h => ?_)
    | dsimp -proj only
    | split
    | decide

theorem execLastSelection_keeps {k : Comp} {s x : State} (hk : k ∉ [.boot, .welt, .evt, .heel, .lanes, .links, .last, .store, .imc, .units, .nvm, .cal, .free]) (h : k.same s x) :
    ∃ t, execLastSelection x = .next t ∧ k.same s t := by
  unfold execLastSelection
  repeat' first
    | with_reducible assumption
    | with_reducible refine done_keeps (not_mem_of_subset hk ?_) ?_
    | with_reducible refine selectLast_keeps (not_mem_of_subset hk ?_) ?_
    | with_reducible refine ite_keeps ?_ ?_
    | with_reducible refine foldl_keeps ?_ (fun t a h => ?_)
    | dsimp -proj only
    | split
    | decide

theorem execCommitRollback_keeps {k : Comp} {s x : State} {a0} (hk : k ∉ [.power, .welt, .evt, .heel, .lanes, .links, .last, .store, .imc, .units, .nvm, .cal, .free]) (h : k.same s x) :
    ∃ t, execCommitRollback a0 x = .next t ∧ k.same s t := by
  unfold execCommitRollback
  repeat' first
    | with_reducible assumption
    | with_reducible refine done_keeps (not_mem_of_subset hk ?_) ?_
    | with_reducible refine rollback_keeps (not_mem_of_subset hk ?_) ?_
    | with_reducible refine ite_keeps ?_ ?_
    | with_reducible refine foldl_keeps ?_ (fun t a h => ?_)
    | dsimp -proj only
    | split
    | decide

theorem headerFault_keeps {k : Comp} {s x : State} {a0 a1 a2} (hk : k ∉ [.evt, .heel, .store, .win, .wqs, .cqs, .nvm]) (h : k.same s x) :
    k.same s (headerFault x a0 a1 a2) := by
  unfold headerFault
  repeat' first
    | with_reducible assumption
    | with_reducible refine modWq_keeps (not_mem_of_subset hk ?_) ?_
    | with_reducible refine queueErrorRecord_keeps (not_mem_of_subset hk ?_) ?_
    | with_reducible refine latchJob_keeps (not_mem_of_subset hk ?_) ?_
    | with_reducible refine wqError_keeps (not_mem_of_subset hk ?_) ?_
    | with_reducible refine ite_keeps ?_ ?_
    | with_reducible refine foldl_keeps ?_ (fun t a h => ?_)
    | dsimp -proj only
    | split
    | decide

theorem execTwbLate_keeps {k : Comp} {s x : State} (hk : k ∉ [.evt, .heel, .lanes, .links, .store, .twb, .imc, .units, .nvm, .cal, .free]) (h : k.same s x) :
    ∃ t, execTwbLate x = .next t ∧ k.same s t := by
  unfold execTwbLate
  repeat' first
    | with_reducible assumption
    | with_reducible refine modTwb_keeps (not_mem_of_subset hk ?_) ?_
    | with_reducible refine done_keeps (not_mem_of_subset hk ?_) ?_
    | with_reducible refine ite_keeps ?_ ?_
    | with_reducible refine foldl_keeps ?_ (fun t a h => ?_)
    | dsimp -proj only
    | split
    | decide

theorem execResetRelease_keeps {k : Comp} {s x : State} {a0} (hk : k ∉ [.pins, .power, .boot, .welt, .evt, .heel, .lanes, .links, .last, .store, .imc, .units, .nvm, .cal, .free]) (h : k.same s x) :
    ∃ t, execResetRelease a0 x = .next t ∧ k.same s t := by
  unfold execResetRelease
  repeat' first
    | with_reducible assumption
    | with_reducible refine done_keeps (not_mem_of_subset hk ?_) ?_
    | with_reducible refine settle_keeps (not_mem_of_subset hk ?_) ?_
    | with_reducible refine releaseReset_keeps (not_mem_of_subset hk ?_) ?_
    | with_reducible refine ite_keeps ?_ ?_
    | with_reducible refine foldl_keeps ?_ (fun t a h => ?_)
    | dsimp -proj only
    | split
    | decide

theorem execDevctlStandby_keeps {k : Comp} {s x : State} {a0 a1} (hk : k ∉ [.power, .boot, .dev, .welt, .therm, .evt, .heel, .lanes, .links, .last, .store, .win, .twb, .imc, .wqs, .cqs, .units, .slots, .sched, .awl, .nvm, .tm, .time, .cal, .free]) (h : k.same s x) :
    ∃ t, execDevctlStandby a0 a1 x = .next t ∧ k.same s t := by
  unfold execDevctlStandby
  repeat' first
    | with_reducible assumption
    | with_reducible refine done_keeps (not_mem_of_subset hk ?_) ?_
    | with_reducible refine writeTo_keeps (not_mem_of_subset hk ?_) ?_
    | with_reducible refine ite_keeps ?_ ?_
    | with_reducible refine foldl_keeps ?_ (fun t a h => ?_)
    | dsimp -proj only
    | split
    | decide

theorem eyeAlarm_keeps {k : Comp} {s x : State} {a0 a1} (hk : k ∉ [.evt, .lanes, .store, .nvm]) (h : k.same s x) :
    k.same s (eyeAlarm x a0 a1) := by
  unfold eyeAlarm
  repeat' first
    | with_reducible assumption
    | with_reducible refine logL_keeps (not_mem_of_subset hk ?_) ?_
    | with_reducible refine modMeas_keeps (not_mem_of_subset hk ?_) ?_
    | with_reducible refine ite_keeps ?_ ?_
    | with_reducible refine foldl_keeps ?_ (fun t a h => ?_)
    | dsimp -proj only
    | split
    | decide

theorem resetDecimator_keeps {k : Comp} {s x : State} (hk : k ∉ [.tm]) (h : k.same s x) :
    k.same s (resetDecimator x) := by
  unfold resetDecimator
  try dsimp -zeta -proj only [upd_tm]
  repeat' first
    | with_reducible assumption
    | with_reducible refine putTm_keeps (not_mem_of_subset hk ?_) ?_
    | with_reducible refine ite_keeps ?_ ?_
    | with_reducible refine foldl_keeps ?_ (fun t a h => ?_)
    | dsimp -proj only
    | split
    | decide

theorem syncSeen_keeps {k : Comp} {s x : State} (hk : k ∉ [.evt, .store, .units, .nvm, .tm, .time]) (h : k.same s x) :
    k.same s (syncSeen x) := by
  unfold syncSeen
  try dsimp -zeta -proj only [upd_time, upd_tm]
  repeat' first
    | with_reducible assumption
    | with_reducible refine capTrigger_keeps (not_mem_of_subset hk ?_) ?_
    | with_reducible refine trigger_keeps (not_mem_of_subset hk ?_) ?_
    | with_reducible refine trigger_keeps_eq (not_mem_of_subset hk ?_) ?_ (by with_reducible assumption)
    | with_reducible refine staleAll_keeps (not_mem_of_subset hk ?_) ?_
    | with_reducible refine resetDecimator_keeps (not_mem_of_subset hk ?_) ?_
    | with_reducible refine edgeLoad_keeps (not_mem_of_subset hk ?_) ?_
    | with_reducible refine putTm_keeps (not_mem_of_subset hk ?_) ?_
    | with_reducible refine putTime_keeps (not_mem_of_subset hk ?_) ?_
    | with_reducible refine ite_keeps ?_ ?_
    | with_reducible refine foldl_keeps ?_ (fun t a h => ?_)
    | dsimp -proj only
    | split
    | decide

theorem execImcNoSlot_keeps {k : Comp} {s x : State} (hk : k ∉ [.evt, .heel, .lanes, .links, .store, .imc, .units, .nvm, .cal, .free]) (h : k.same s x) :
    ∃ t, execImcNoSlot x = .next t ∧ k.same s t := by
  unfold execImcNoSlot
  repeat' first
    | with_reducible assumption
    | with_reducible refine done_keeps (not_mem_of_subset hk ?_) ?_
    | with_reducible refine finishWith_keeps (not_mem_of_subset hk ?_) ?_
    | with_reducible refine dropSend_keeps (not_mem_of_subset hk ?_) ?_
    | with_reducible refine ite_keeps ?_ ?_
    | with_reducible refine foldl_keeps ?_ (fun t a h => ?_)
    | dsimp -proj only
    | split
    | decide

theorem execRateDiscard_keeps {k : Comp} {s x : State} {a0} (hk : k ∉ [.evt, .heel, .lanes, .links, .store, .imc, .units, .nvm, .cal, .free]) (h : k.same s x) :
    ∃ t, execRateDiscard a0 x = .next t ∧ k.same s t := by
  unfold execRateDiscard
  repeat' first
    | with_reducible assumption
    | with_reducible refine done_keeps (not_mem_of_subset hk ?_) ?_
    | with_reducible refine modLink_keeps (not_mem_of_subset hk ?_) ?_
    | with_reducible refine ite_keeps ?_ ?_
    | with_reducible refine foldl_keeps ?_ (fun t a h => ?_)
    | dsimp -proj only
    | split
    | decide

theorem teleStep_keeps {k : Comp} {s x : State} {a0 a1} (hk : k ∉ [.evt, .heel, .last, .store, .win, .wqs, .cqs, .units, .slots, .sched, .nvm, .tm]) (h : k.same s x) :
    k.same s (teleStep x a0 a1) := by
  unfold teleStep
  repeat' first
    | with_reducible assumption
    | with_reducible refine teleStart_keeps (not_mem_of_subset hk ?_) ?_
    | with_reducible refine putSnapshot_keeps (not_mem_of_subset hk ?_) ?_
    | with_reducible refine ite_keeps ?_ ?_
    | with_reducible refine foldl_keeps ?_ (fun t a h => ?_)
    | dsimp -proj only
    | split
    | decide

theorem execTelemetry_keeps {k : Comp} {s x : State} {a0} (hk : k ∉ [.evt, .heel, .lanes, .links, .last, .store, .win, .imc, .wqs, .cqs, .units, .slots, .sched, .nvm, .tm, .cal, .free]) (h : k.same s x) :
    ∃ t, execTelemetry a0 x = .next t ∧ k.same s t := by
  unfold execTelemetry
  repeat' first
    | with_reducible assumption
    | with_reducible refine done_keeps (not_mem_of_subset hk ?_) ?_
    | with_reducible refine teleStep_keeps (not_mem_of_subset hk ?_) ?_
    | with_reducible refine ite_keeps ?_ ?_
    | with_reducible refine foldl_keeps ?_ (fun t a h => ?_)
    | dsimp -proj only
    | split
    | decide

theorem execStoreCeClr_keeps {k : Comp} {s x : State} {a0 a1} (hk : k ∉ [.power, .boot, .dev, .welt, .therm, .evt, .heel, .lanes, .links, .last, .store, .win, .twb, .imc, .wqs, .cqs, .units, .slots, .sched, .awl, .nvm, .tm, .time, .cal, .free]) (h : k.same s x) :
    ∃ t, execStoreCeClr a0 a1 x = .next t ∧ k.same s t := by
  unfold execStoreCeClr
  repeat' first
    | with_reducible assumption
    | with_reducible refine done_keeps (not_mem_of_subset hk ?_) ?_
    | with_reducible refine writeTo_keeps (not_mem_of_subset hk ?_) ?_
    | with_reducible refine ite_keeps ?_ ?_
    | with_reducible refine foldl_keeps ?_ (fun t a h => ?_)
    | dsimp -proj only
    | split
    | decide

theorem execNvmWindowRead_keeps {k : Comp} {s x : State} {a0 a1 a2} (hk : k ∉ [.evt, .heel, .lanes, .links, .store, .win, .twb, .imc, .acc, .units, .nvm, .tm, .cal, .free]) (h : k.same s x) :
    ∃ t, execNvmWindowRead a0 a1 a2 x = .next t ∧ k.same s t := by
  unfold execNvmWindowRead
  repeat' first
    | with_reducible assumption
    | with_reducible refine done_keeps (not_mem_of_subset hk ?_) ?_
    | with_reducible refine busRead_keeps (not_mem_of_subset hk ?_) ?_
    | with_reducible refine upset_keeps (not_mem_of_subset hk ?_) ?_
    | with_reducible refine ite_keeps ?_ ?_
    | with_reducible refine foldl_keeps ?_ (fun t a h => ?_)
    | dsimp -proj only
    | split
    | decide

theorem startAdcCal_keeps {k : Comp} {s x : State} (hk : k ∉ [.tm, .cal]) (h : k.same s x) :
    k.same s (startAdcCal x) := by
  unfold startAdcCal
  try dsimp -zeta -proj only [upd_cal]
  repeat' first
    | with_reducible assumption
    | with_reducible refine staleAll_keeps (not_mem_of_subset hk ?_) ?_
    | with_reducible refine putCal_keeps (not_mem_of_subset hk ?_) ?_
    | with_reducible refine ite_keeps ?_ ?_
    | with_reducible refine foldl_keeps ?_ (fun t a h => ?_)
    | dsimp -proj only
    | split
    | decide

theorem noteSeqEnd_keeps {k : Comp} {s x : State} {a0} (hk : k ∉ [.units]) (h : k.same s x) :
    k.same s (noteSeqEnd x a0) := by
  unfold noteSeqEnd
  repeat' first
    | with_reducible assumption
    | with_reducible refine modJob_keeps (not_mem_of_subset hk ?_) ?_
    | with_reducible refine ite_keeps ?_ ?_
    | with_reducible refine foldl_keeps ?_ (fun t a h => ?_)
    | dsimp -proj only
    | split
    | decide

theorem slotEnd_keeps {k : Comp} {s x : State} {a0} (hk : k ∉ [.units, .tm]) (h : k.same s x) :
    k.same s (slotEnd x a0) := by
  unfold slotEnd
  repeat' first
    | with_reducible assumption
    | with_reducible refine modSeqr_keeps (not_mem_of_subset hk ?_) ?_
    | with_reducible refine startSeq_keeps (not_mem_of_subset hk ?_) ?_
    | with_reducible refine noteSeqEnd_keeps (not_mem_of_subset hk ?_) ?_
    | with_reducible refine ite_keeps ?_ ?_
    | with_reducible refine foldl_keeps ?_ (fun t a h => ?_)
    | dsimp -proj only
    | split
    | decide

theorem endSlot_keeps {k : Comp} {s x : State} {a0 a1} (hk : k ∉ [.evt, .store, .units, .nvm, .tm, .cal]) (h : k.same s x) :
    k.same s (endSlot x a0 a1) := by
  unfold endSlot
  try dsimp -zeta -proj only [upd_tm]
  repeat' first
    | with_reducible assumption
    | with_reducible refine startAdcCal_keeps (not_mem_of_subset hk ?_) ?_
    | with_reducible refine slotEnd_keeps (not_mem_of_subset hk ?_) ?_
    | with_reducible refine channelValid_keeps (not_mem_of_subset hk ?_) ?_
    | with_reducible refine putTm_keeps (not_mem_of_subset hk ?_) ?_
    | with_reducible refine ite_keeps ?_ ?_
    | with_reducible refine foldl_keeps ?_ (fun t a h => ?_)
    | dsimp -proj only
    | split
    | decide

theorem decimated_keeps {k : Comp} {s x : State} {a0} (hk : k ∉ [.evt, .store, .units, .nvm, .tm, .cal]) (h : k.same s x) :
    k.same s (decimated x a0) := by
  unfold decimated
  try dsimp -zeta -proj only [upd_tm]
  repeat' first
    | with_reducible assumption
    | with_reducible refine endSlot_keeps (not_mem_of_subset hk ?_) ?_
    | with_reducible refine putTm_keeps (not_mem_of_subset hk ?_) ?_
    | with_reducible refine ite_keeps ?_ ?_
    | with_reducible refine foldl_keeps ?_ (fun t a h => ?_)
    | dsimp -proj only
    | split
    | decide

theorem execDecimatorOutput_keeps {k : Comp} {s x : State} {a0} (hk : k ∉ [.evt, .heel, .lanes, .links, .store, .imc, .units, .nvm, .tm, .cal, .free]) (h : k.same s x) :
    ∃ t, execDecimatorOutput a0 x = .next t ∧ k.same s t := by
  unfold execDecimatorOutput
  repeat' first
    | with_reducible assumption
    | with_reducible refine done_keeps (not_mem_of_subset hk ?_) ?_
    | with_reducible refine decimated_keeps (not_mem_of_subset hk ?_) ?_
    | with_reducible refine ite_keeps ?_ ?_
    | with_reducible refine foldl_keeps ?_ (fun t a h => ?_)
    | dsimp -proj only
    | split
    | decide

theorem execAwlJob_keeps {k : Comp} {s x : State} {a0 a1 a2} (hk : k ∉ [.power, .boot, .dev, .welt, .therm, .evt, .heel, .lanes, .links, .last, .store, .win, .twb, .imc, .wqs, .cqs, .units, .slots, .sched, .awl, .nvm, .tm, .time, .cal, .free]) (h : k.same s x) :
    ∃ t, execAwlJob a0 a1 a2 x = .next t ∧ k.same s t := by
  unfold execAwlJob
  repeat' first
    | with_reducible assumption
    | with_reducible refine done_keeps (not_mem_of_subset hk ?_) ?_
    | with_reducible refine writeTo_keeps (not_mem_of_subset hk ?_) ?_
    | with_reducible refine ite_keeps ?_ ?_
    | with_reducible refine foldl_keeps ?_ (fun t a h => ?_)
    | dsimp -proj only
    | split
    | decide

theorem stopCapture_keeps {k : Comp} {s x : State} {a0 a1 a2 a3 a4} (hk : k ∉ [.evt, .heel, .store, .win, .units, .nvm]) (h : k.same s x) :
    k.same s (stopCapture x a0 a1 a2 a3 a4) := by
  unfold stopCapture
  repeat' first
    | with_reducible assumption
    | with_reducible refine lostPage_keeps (not_mem_of_subset hk ?_) ?_
    | with_reducible refine capFlush_keeps (not_mem_of_subset hk ?_) ?_
    | with_reducible refine capFlush_keeps_eq (not_mem_of_subset hk ?_) ?_ (by with_reducible assumption)
    | with_reducible refine endCapture_keeps (not_mem_of_subset hk ?_) ?_
    | with_reducible refine endCapture_keeps_eq (not_mem_of_subset hk ?_) ?_ (by with_reducible assumption)
    | with_reducible refine ite_keeps ?_ ?_
    | with_reducible refine foldl_keeps ?_ (fun t a h => ?_)
    | dsimp -proj only
    | split
    | decide

theorem execCaptureTimeout_keeps {k : Comp} {s x : State} {a0} (hk : k ∉ [.evt, .heel, .lanes, .links, .store, .win, .imc, .units, .nvm, .cal, .free]) (h : k.same s x) :
    ∃ t, execCaptureTimeout a0 x = .next t ∧ k.same s t := by
  unfold execCaptureTimeout
  repeat' first
    | with_reducible assumption
    | with_reducible refine done_keeps (not_mem_of_subset hk ?_) ?_
    | with_reducible refine stopCapture_keeps (not_mem_of_subset hk ?_) ?_
    | with_reducible refine ite_keeps ?_ ?_
    | with_reducible refine foldl_keeps ?_ (fun t a h => ?_)
    | dsimp -proj only
    | split
    | decide

theorem endScan_keeps {k : Comp} {s x : State} {a0 a1 a2} (hk : k ∉ [.units]) (h : k.same s x) :
    k.same s (endScan x a0 a1 a2) := by
  unfold endScan
  repeat' first
    | with_reducible assumption
    | with_reducible refine finishWith_keeps (not_mem_of_subset hk ?_) ?_
    | with_reducible refine ite_keeps ?_ ?_
    | with_reducible refine foldl_keeps ?_ (fun t a h => ?_)
    | dsimp -proj only
    | split
    | decide

theorem closeScan_keeps {k : Comp} {s x : State} {a0 a1} (hk : k ∉ [.evt, .heel, .last, .store, .win, .wqs, .cqs, .units, .slots, .sched, .nvm]) (h : k.same s x) :
    k.same s (closeScan x a0 a1) := by
  unfold closeScan
  repeat' first
    | with_reducible assumption
    | with_reducible refine endScan_keeps (not_mem_of_subset hk ?_) ?_
    | with_reducible refine putData_keeps (not_mem_of_subset hk ?_) ?_
    | with_reducible refine putData_keeps_eq (not_mem_of_subset hk ?_) ?_ (by with_reducible assumption)
    | with_reducible refine ite_keeps ?_ ?_
    | with_reducible refine foldl_keeps ?_ (fun t a h => ?_)
    | dsimp -proj only
    | split
    | decide

theorem scanGoesOn_keeps {k : Comp} {s x : State} {a0 a1 a2} (hk : k ∉ [.evt, .heel, .last, .store, .win, .wqs, .cqs, .units, .slots, .sched, .nvm]) (h : k.same s x) :
    k.same s (scanGoesOn x a0 a1 a2) := by
  unfold scanGoesOn
  repeat' first
    | with_reducible assumption
    | with_reducible refine closeScan_keeps (not_mem_of_subset hk ?_) ?_
    | with_reducible refine keepJob_keeps (not_mem_of_subset hk ?_) ?_
    | with_reducible refine ite_keeps ?_ ?_
    | with_reducible refine foldl_keeps ?_ (fun t a h => ?_)
    | dsimp -proj only
    | split
    | decide

theorem writeHeldScan_keeps {k : Comp} {s x : State} {a0 a1 a2 a3 a4} (hk : k ∉ [.evt, .heel, .last, .store, .win, .wqs, .cqs, .units, .slots, .sched, .nvm]) (h : k.same s x) :
    k.same s (writeHeldScan x a0 a1 a2 a3 a4) := by
  unfold writeHeldScan
  repeat' first
    | with_reducible assumption
    | with_reducible refine endScan_keeps (not_mem_of_subset hk ?_) ?_
    | with_reducible refine scanGoesOn_keeps (not_mem_of_subset hk ?_) ?_
    | with_reducible refine putData_keeps (not_mem_of_subset hk ?_) ?_
    | with_reducible refine putData_keeps_eq (not_mem_of_subset hk ?_) ?_ (by with_reducible assumption)
    | with_reducible refine ite_keeps ?_ ?_
    | with_reducible refine foldl_keeps ?_ (fun t a h => ?_)
    | dsimp -proj only
    | split
    | decide

theorem answerRequest_keeps {k : Comp} {s x : State} {a0 a1 a2 a3} (hk : k ∉ [.lanes]) (h : k.same s x) :
    k.same s (answerRequest x a0 a1 a2 a3) := by
  unfold answerRequest
  repeat' first
    | with_reducible assumption
    | with_reducible refine modTx_keeps (not_mem_of_subset hk ?_) ?_
    | with_reducible refine ite_keeps ?_ ?_
    | with_reducible refine foldl_keeps ?_ (fun t a h => ?_)
    | dsimp -proj only
    | split
    | decide

theorem execDeepEntryTimeout_keeps {k : Comp} {s x : State} {a0} (hk : k ∉ [.power, .welt, .evt, .heel, .lanes, .links, .last, .store, .imc, .units, .nvm, .cal, .free]) (h : k.same s x) :
    ∃ t, execDeepEntryTimeout a0 x = .next t ∧ k.same s t := by
  unfold execDeepEntryTimeout
  repeat' first
    | with_reducible assumption
    | with_reducible refine done_keeps (not_mem_of_subset hk ?_) ?_
    | with_reducible refine modLink_keeps (not_mem_of_subset hk ?_) ?_
    | with_reducible refine requestRetrain_keeps (not_mem_of_subset hk ?_) ?_
    | with_reducible refine ite_keeps ?_ ?_
    | with_reducible refine foldl_keeps ?_ (fun t a h => ?_)
    | dsimp -proj only
    | split
    | decide

theorem trackFrame_keeps {k : Comp} {s x : State} {a0 a1 a2} (hk : k ∉ [.links]) (h : k.same s x) :
    k.same s (trackFrame x a0 a1 a2) := by
  unfold trackFrame
  repeat' first
    | with_reducible assumption
    | with_reducible refine modLink_keeps (not_mem_of_subset hk ?_) ?_
    | with_reducible refine ite_keeps ?_ ?_
    | with_reducible refine foldl_keeps ?_ (fun t a h => ?_)
    | dsimp -proj only
    | split
    | decide

theorem checkSkipRate_keeps {k : Comp} {s x : State} {a0 a1 a2} (hk : k ∉ [.evt, .lanes, .store, .nvm]) (h : k.same s x) :
    k.same s (checkSkipRate x a0 a1 a2) := by
  unfold checkSkipRate
  repeat' first
    | with_reducible assumption
    | with_reducible refine modRxs_keeps (not_mem_of_subset hk ?_) ?_
    | with_reducible refine logL_keeps (not_mem_of_subset hk ?_) ?_
    | with_reducible refine ite_keeps ?_ ?_
    | with_reducible refine foldl_keeps ?_ (fun t a h => ?_)
    | dsimp -proj only
    | split
    | decide

theorem editMade_keeps {k : Comp} {s x : State} {a0 a1 a2} (hk : k ∉ [.evt, .lanes, .store, .nvm]) (h : k.same s x) :
    k.same s (editMade x a0 a1 a2) := by
  unfold editMade
  repeat' first
    | with_reducible assumption
    | with_reducible refine checkSkipRate_keeps (not_mem_of_subset hk ?_) ?_
    | with_reducible refine countEdit_keeps (not_mem_of_subset hk ?_) ?_
    | with_reducible refine ite_keeps ?_ ?_
    | with_reducible refine foldl_keeps ?_ (fun t a h => ?_)
    | dsimp -proj only
    | split
    | decide

theorem bufferGroup_keeps {k : Comp} {s x : State} {a0 a1 a2 a3} (hk : k ∉ [.evt, .lanes, .store, .nvm]) (h : k.same s x) :
    k.same s (bufferGroup x a0 a1 a2 a3) := by
  unfold bufferGroup
  repeat' first
    | with_reducible assumption
    | with_reducible refine modRx_keeps (not_mem_of_subset hk ?_) ?_
    | with_reducible refine editMade_keeps (not_mem_of_subset hk ?_) ?_
    | with_reducible refine ite_keeps ?_ ?_
    | with_reducible refine foldl_keeps ?_ (fun t a h => ?_)
    | dsimp -proj only
    | split
    | decide

theorem receiveGroup_keeps {k : Comp} {s x : State} {a0 a1 a2} (hk : k ∉ [.power, .welt, .evt, .heel, .lanes, .links, .last, .store, .win, .units, .nvm, .cal, .free]) (h : k.same s x) :
    k.same s (receiveGroup x a0 a1 a2) := by
  unfold receiveGroup
  repeat' first
    | with_reducible assumption
    | with_reducible refine ebLimits_keeps (not_mem_of_subset hk ?_) ?_
    | with_reducible refine trackFrame_keeps (not_mem_of_subset hk ?_) ?_
    | with_reducible refine rxLost_keeps (not_mem_of_subset hk ?_) ?_
    | with_reducible refine bufferGroup_keeps (not_mem_of_subset hk ?_) ?_
    | with_reducible refine releaseForward_keeps (not_mem_of_subset hk ?_) ?_
    | with_reducible refine modRx_keeps (not_mem_of_subset hk ?_) ?_
    | with_reducible refine capFeed_keeps (not_mem_of_subset hk ?_) ?_
    | with_reducible refine modMeas_keeps (not_mem_of_subset hk ?_) ?_
    | with_reducible refine symbolAfterExchange_keeps (not_mem_of_subset hk ?_) ?_
    | with_reducible refine ite_keeps ?_ ?_
    | with_reducible refine foldl_keeps ?_ (fun t a h => ?_)
    | dsimp -proj only
    | split
    | decide

theorem enterLoopback_keeps {k : Comp} {s x : State} {a0 a1} (hk : k ∉ [.lanes, .links]) (h : k.same s x) :
    k.same s (enterLoopback x a0 a1) := by
  unfold enterLoopback
  repeat' first
    | with_reducible assumption
    | with_reducible refine modTx_keeps (not_mem_of_subset hk ?_) ?_
    | with_reducible refine modLink_keeps (not_mem_of_subset hk ?_) ?_
    | with_reducible refine endSearches_keeps (not_mem_of_subset hk ?_) ?_
    | with_reducible refine modMeas_keeps (not_mem_of_subset hk ?_) ?_
    | with_reducible refine ite_keeps ?_ ?_
    | with_reducible refine foldl_keeps ?_ (fun t a h => ?_)
    | dsimp -proj only
    | split
    | decide

theorem requestLoops_keeps {k : Comp} {s x : State} {a0} (hk : k ∉ [.lanes, .links]) (h : k.same s x) :
    k.same s (requestLoops x a0) := by
  unfold requestLoops
  repeat' first
    | with_reducible assumption
    | with_reducible refine modLink_keeps (not_mem_of_subset hk ?_) ?_
    | with_reducible refine enterLoopback_keeps (not_mem_of_subset hk ?_) ?_
    | with_reducible refine ite_keeps ?_ ?_
    | with_reducible refine foldl_keeps ?_ (fun t a h => ?_)
    | dsimp -proj only
    | split
    | decide

theorem padGroup_keeps {k : Comp} {s x : State} {a0 a1 a2} (hk : k ∉ [.evt, .heel, .lanes, .store, .win, .units, .nvm]) (h : k.same s x) :
    k.same s (padGroup x a0 a1 a2).2 := by
  unfold padGroup
  repeat' first
    | with_reducible assumption
    | with_reducible refine putTest_keeps (not_mem_of_subset hk ?_) ?_
    | with_reducible refine putIdle_keeps (not_mem_of_subset hk ?_) ?_
    | with_reducible refine ite_keeps ?_ ?_
    | with_reducible refine foldl_keeps ?_ (fun t a h => ?_)
    | dsimp -proj only
    | split
    | decide

theorem padGroup_keeps_eq {k : Comp} {s x : State} {a0 a1 a2} {r u} (hk : k ∉ [.evt, .heel, .lanes, .store, .win, .units, .nvm]) (h : k.same s x) (e : padGroup x a0 a1 a2 = (r, u)) :
    k.same s u := by
  simpa only [e] using padGroup_keeps (s := s) (x := x) (a0 := a0) (a1 := a1) (a2 := a2) hk h

theorem readMany_keeps {k : Comp} {s x : State} {a0 a1 a2} (hk : k ∉ [.evt, .heel, .lanes, .links, .store, .win, .units, .nvm]) (h : k.same s x) :
    k.same s (readMany a0 x a1 a2) := by
  induction a0 generalizing x with
  | zero => exact h
  | succ n ih => exact ih (readOne_keeps (not_mem_of_subset hk (by decide)) h)

theorem loopGroup_keeps {k : Comp} {s x : State} {a0 a1 a2} (hk : k ∉ [.evt, .heel, .lanes, .store, .win, .units, .nvm]) (h : k.same s x) :
    k.same s (loopGroup x a0 a1 a2) := by
  unfold loopGroup
  repeat' first
    | with_reducible assumption
    | with_reducible refine putSymbol_keeps (not_mem_of_subset hk ?_) ?_
    | with_reducible refine ite_keeps ?_ ?_
    | with_reducible refine foldl_keeps ?_ (fun t a h => ?_)
    | dsimp -proj only
    | split
    | decide

theorem fillMos_keeps {k : Comp} {s x : State} {a0 a1} (hk : k ∉ [.lanes, .links, .imc, .units]) (h : k.same s x) :
    k.same s (fillMos x a0 a1) := by
  unfold fillMos
  repeat' first
    | with_reducible assumption
    | with_reducible refine sendNext_keeps (not_mem_of_subset hk ?_) ?_
    | with_reducible refine sendNext_keeps_eq (not_mem_of_subset hk ?_) ?_ (by with_reducible assumption)
    | with_reducible refine modTx_keeps (not_mem_of_subset hk ?_) ?_
    | with_reducible refine ite_keeps ?_ ?_
    | with_reducible refine foldl_keeps ?_ (fun t a h => ?_)
    | dsimp -proj only
    | split
    | decide

theorem execRxCodeGroup_keeps {k : Comp} {s x : State} {a0 a1 a2 a3} (hk : k ∉ [.power, .welt, .evt, .heel, .lanes, .links, .last, .store, .win, .imc, .units, .nvm, .cal, .free]) (h : k.same s x) :
    ∃ t, execRxCodeGroup a0 a1 a2 a3 x = .next t ∧ k.same s t := by
  unfold execRxCodeGroup
  repeat' first
    | with_reducible assumption
    | with_reducible refine done_keeps (not_mem_of_subset hk ?_) ?_
    | with_reducible refine receiveGroup_keeps (not_mem_of_subset hk ?_) ?_
    | with_reducible refine requestLoops_keeps (not_mem_of_subset hk ?_) ?_
    | with_reducible refine padGroup_keeps (not_mem_of_subset hk ?_) ?_
    | with_reducible refine padGroup_keeps_eq (not_mem_of_subset hk ?_) ?_ (by with_reducible assumption)
    | with_reducible refine sendOne_keeps (not_mem_of_subset hk ?_) ?_
    | with_reducible refine readMany_keeps (not_mem_of_subset hk ?_) ?_
    | with_reducible refine capFeed_keeps (not_mem_of_subset hk ?_) ?_
    | with_reducible refine loopGroup_keeps (not_mem_of_subset hk ?_) ?_
    | with_reducible refine modMeas_keeps (not_mem_of_subset hk ?_) ?_
    | with_reducible refine fillMos_keeps (not_mem_of_subset hk ?_) ?_
    | with_reducible refine ite_keeps ?_ ?_
    | with_reducible refine foldl_keeps ?_ (fun t a h => ?_)
    | dsimp -proj only
    | split
    | decide

theorem normalCandidate_keeps {k : Comp} {s x : State} {a0 a1} {c} (hk : k ∉ [.sched]) (h : k.same s x)
    (e : normalCandidate x a0 a1 = some c) : c.keeps k s := by
  intro i t hc
  subst hc
  unfold normalCandidate at e
  split at e
  · cases e
  · obtain ⟨r, hr, hi⟩ := Option.map_eq_some_iff.mp e
    cases hi
    exact serveRound_keeps_eq hk h (r := r.1) (u := r.2) hr

theorem serve_keeps {k : Comp} {s x : State} {a0 a1 a2} (hk : k ∉ [.lanes, .last, .wqs, .units, .slots, .sched]) (h : k.same s x) :
    k.same s (serve x a0 a1 a2) := by
  unfold serve
  split
  · rename_i c e
    refine runCandidate_keeps (not_mem_of_subset hk (by decide)) h ?_
    cases g : urgentCandidate x a0 with
    | none => rw [g] at e; exact normalCandidate_keeps (not_mem_of_subset hk (by decide)) h e
    | some d => rw [g] at e; cases e; exact urgentCandidate_keeps (not_mem_of_subset hk (by decide)) h g
  · exact h

theorem lendEngine_keeps_eq {k : Comp} {s x : State} {u} (hk : k ∉ [.units, .nvm]) (h : k.same s x)
    (e : lendEngine x = some u) : k.same s u := by
  unfold lendEngine at e
  split at e
  · split at e <;> cases e
    exact h
  · split at e
    · split at e <;> cases e
      dsimp -zeta -proj only [upd_units_nvm]
      exact putNvm_keeps (not_mem_of_subset hk (by decide)) (putUnits_keeps (not_mem_of_subset hk (by decide)) h)
    · cases e

theorem startNvm_keeps {k : Comp} {s x : State} (hk : k ∉ [.lanes, .last, .wqs, .units, .slots, .sched, .nvm]) (h : k.same s x) :
    k.same s (startNvm x) := by
  unfold startNvm
  split
  · exact ite_keeps (tendLog_keeps (not_mem_of_subset hk (by decide)) h) (serve_keeps (not_mem_of_subset hk (by decide)) h)
  · split
    · exact h
    · rename_i c e
      have g := urgentCandidate_keeps (k := k) (s := s) (not_mem_of_subset hk (by decide)) h e
      refine ite_keeps h ?_
      split <;> split
      · rename_i e'
        exact runCandidate_keeps (not_mem_of_subset hk (by decide)) (lendEngine_keeps_eq (not_mem_of_subset hk (by decide)) h e')
          (fun _ _ e => by cases e)
      · exact h
      · rename_i e'
        have g' := lendEngine_keeps_eq (not_mem_of_subset hk (by decide)) (g _ _ rfl) e'
        exact runCandidate_keeps (not_mem_of_subset hk (by decide)) g' (fun _ _ e => by cases e; exact g')
      · exact h

theorem execJtagExtest_keeps {k : Comp} {s x : State} (hk : k ∉ [.evt, .heel, .lanes, .links, .store, .twb, .imc, .jtag, .units, .nvm, .cal, .free]) (h : k.same s x) :
    ∃ t, execJtagExtest x = .next t ∧ k.same s t := by
  unfold execJtagExtest
  repeat' first
    | with_reducible assumption
    | with_reducible refine done_keeps (not_mem_of_subset hk ?_) ?_
    | with_reducible refine scanCells_keeps (not_mem_of_subset hk ?_) ?_
    | with_reducible refine ite_keeps ?_ ?_
    | with_reducible refine foldl_keeps ?_ (fun t a h => ?_)
    | dsimp -proj only
    | split
    | decide

theorem advanceHead_keeps {k : Comp} {s x : State} {a0 a1} (hk : k ∉ [.wqs]) (h : k.same s x) :
    k.same s (advanceHead x a0 a1) := by
  unfold advanceHead
  repeat' first
    | with_reducible assumption
    | with_reducible refine modWq_keeps (not_mem_of_subset hk ?_) ?_
    | with_reducible refine ite_keeps ?_ ?_
    | with_reducible refine foldl_keeps ?_ (fun t a h => ?_)
    | dsimp -proj only
    | split
    | decide

theorem malformedEntry_keeps {k : Comp} {s x : State} {a0 a1 a2} (hk : k ∉ [.evt, .heel, .store, .win, .wqs, .cqs, .nvm]) (h : k.same s x) :
    k.same s (malformedEntry x a0 a1 a2) := by
  unfold malformedEntry
  repeat' first
    | with_reducible assumption
    | with_reducible refine queueErrorRecord_keeps (not_mem_of_subset hk ?_) ?_
    | with_reducible refine wqError_keeps (not_mem_of_subset hk ?_) ?_
    | with_reducible refine ite_keeps ?_ ?_
    | with_reducible refine foldl_keeps ?_ (fun t a h => ?_)
    | dsimp -proj only
    | split
    | decide

theorem consume_keeps {k : Comp} {s x : State} {a0 a1} (hk : k ∉ [.evt, .heel, .store, .win, .wqs, .cqs, .sched, .nvm]) (h : k.same s x) :
    k.same s (consume x a0 a1) := by
  unfold consume
  try dsimp -zeta -proj only [upd_sched]
  repeat' first
    | with_reducible assumption
    | with_reducible refine modWq_keeps (not_mem_of_subset hk ?_) ?_
    | with_reducible refine advanceHead_keeps (not_mem_of_subset hk ?_) ?_
    | with_reducible refine noteFence_keeps (not_mem_of_subset hk ?_) ?_
    | with_reducible refine malformedEntry_keeps (not_mem_of_subset hk ?_) ?_
    | with_reducible refine putSched_keeps (not_mem_of_subset hk ?_) ?_
    | with_reducible refine ite_keeps ?_ ?_
    | with_reducible refine foldl_keeps ?_ (fun t a h => ?_)
    | dsimp -proj only
    | split
    | decide

theorem execPrbsChkEnable_keeps {k : Comp} {s x : State} {a0 a1 a2 a3} (hk : k ∉ [.power, .boot, .dev, .welt, .therm, .evt, .heel, .lanes, .links, .last, .store, .win, .twb, .imc, .wqs, .cqs, .units, .slots, .sched, .awl, .nvm, .tm, .time, .cal, .free]) (h : k.same s x) :
    ∃ t, execPrbsChkEnable a0 a1 a2 a3 x = .next t ∧ k.same s t := by
  unfold execPrbsChkEnable
  repeat' first
    | with_reducible assumption
    | with_reducible refine done_keeps (not_mem_of_subset hk ?_) ?_
    | with_reducible refine writeTo_keeps (not_mem_of_subset hk ?_) ?_
    | with_reducible refine ite_keeps ?_ ?_
    | with_reducible refine foldl_keeps ?_ (fun t a h => ?_)
    | dsimp -proj only
    | split
    | decide

theorem recordCaps_keeps {k : Comp} {s x : State} {a0 a1} (hk : k ∉ [.links]) (h : k.same s x) :
    k.same s (recordCaps x a0 a1) := by
  unfold recordCaps
  repeat' first
    | with_reducible assumption
    | with_reducible refine modTr_keeps (not_mem_of_subset hk ?_) ?_
    | with_reducible refine modLink_keeps (not_mem_of_subset hk ?_) ?_
    | with_reducible refine ite_keeps ?_ ?_
    | with_reducible refine foldl_keeps ?_ (fun t a h => ?_)
    | dsimp -proj only
    | split
    | decide

theorem takeAnswer_keeps {k : Comp} {s x : State} {a0 a1 a2 a3} (hk : k ∉ [.lanes]) (h : k.same s x) :
    k.same s (takeAnswer x a0 a1 a2 a3) := by
  unfold takeAnswer
  repeat' first
    | with_reducible assumption
    | with_reducible refine searchEvent_keeps (not_mem_of_subset hk ?_) ?_
    | with_reducible refine ite_keeps ?_ ?_
    | with_reducible refine foldl_keeps ?_ (fun t a h => ?_)
    | dsimp -proj only
    | split
    | decide

theorem readTosB_keeps {k : Comp} {s x : State} {a0 a1 a2 a3} (hk : k ∉ [.links]) (h : k.same s x) :
    k.same s (readTosB x a0 a1 a2 a3) := by
  unfold readTosB
  repeat' first
    | with_reducible assumption
    | with_reducible refine modTr_keeps (not_mem_of_subset hk ?_) ?_
    | with_reducible refine ite_keeps ?_ ?_
    | with_reducible refine foldl_keeps ?_ (fun t a h => ?_)
    | dsimp -proj only
    | split
    | decide

theorem tosBIn_keeps {k : Comp} {s x : State} {a0 a1 a2 a3} (hk : k ∉ [.lanes, .links]) (h : k.same s x) :
    k.same s (tosBIn x a0 a1 a2 a3) := by
  unfold tosBIn
  repeat' first
    | with_reducible assumption
    | with_reducible refine advance06_keeps (not_mem_of_subset hk ?_) ?_
    | with_reducible refine recordCaps_keeps (not_mem_of_subset hk ?_) ?_
    | with_reducible refine sendTos_keeps (not_mem_of_subset hk ?_) ?_
    | with_reducible refine takeAnswer_keeps (not_mem_of_subset hk ?_) ?_
    | with_reducible refine readTosB_keeps (not_mem_of_subset hk ?_) ?_
    | with_reducible refine answerRequest_keeps (not_mem_of_subset hk ?_) ?_
    | with_reducible refine seenTos_keeps (not_mem_of_subset hk ?_) ?_
    | with_reducible refine ite_keeps ?_ ?_
    | with_reducible refine foldl_keeps ?_ (fun t a h => ?_)
    | dsimp -proj only
    | split
    | decide

theorem trainingSet_keeps {k : Comp} {s x : State} {a0 a1 a2 a3} (hk : k ∉ [.power, .welt, .evt, .lanes, .links, .last, .store, .units, .nvm, .free]) (h : k.same s x) :
    k.same s (trainingSet x a0 a1 a2 a3) := by
  unfold trainingSet
  repeat' first
    | with_reducible assumption
    | with_reducible refine putSet_keeps (not_mem_of_subset hk ?_) ?_
    | with_reducible refine tosBIn_keeps (not_mem_of_subset hk ?_) ?_
    | with_reducible refine holdSet_keeps (not_mem_of_subset hk ?_) ?_
    | with_reducible refine enterRetrain_keeps (not_mem_of_subset hk ?_) ?_
    | with_reducible refine tosAIn_keeps (not_mem_of_subset hk ?_) ?_
    | with_reducible refine ite_keeps ?_ ?_
    | with_reducible refine foldl_keeps ?_ (fun t a h => ?_)
    | dsimp -proj only
    | split
    | decide

theorem execTrainingSetReceived_keeps {k : Comp} {s x : State} {a0 a1 a2 a3} (hk : k ∉ [.power, .welt, .evt, .heel, .lanes, .links, .last, .store, .imc, .units, .nvm, .cal, .free]) (h : k.same s x) :
    ∃ t, execTrainingSetReceived a0 a1 a2 a3 x = .next t ∧ k.same s t := by
  unfold execTrainingSetReceived
  repeat' first
    | with_reducible assumption
    | with_reducible refine done_keeps (not_mem_of_subset hk ?_) ?_
    | with_reducible refine trainingSet_keeps (not_mem_of_subset hk ?_) ?_
    | with_reducible refine ite_keeps ?_ ?_
    | with_reducible refine foldl_keeps ?_ (fun t a h => ?_)
    | dsimp -proj only
    | split
    | decide

theorem execWeltOpenConfirmed_keeps {k : Comp} {s x : State} {a0} (hk : k ∉ [.power, .welt, .evt, .heel, .lanes, .links, .last, .store, .imc, .units, .nvm, .cal, .free]) (h : k.same s x) :
    ∃ t, execWeltOpenConfirmed a0 x = .next t ∧ k.same s t := by
  unfold execWeltOpenConfirmed
  repeat' first
    | with_reducible assumption
    | with_reducible refine done_keeps (not_mem_of_subset hk ?_) ?_
    | with_reducible refine openConfirmed_keeps (not_mem_of_subset hk ?_) ?_
    | with_reducible refine ite_keeps ?_ ?_
    | with_reducible refine foldl_keeps ?_ (fun t a h => ?_)
    | dsimp -proj only
    | split
    | decide

theorem execMosWr_keeps {k : Comp} {s x : State} {a0 a1 a2 a3 a4 a5} (hk : k ∉ [.power, .boot, .dev, .welt, .therm, .evt, .heel, .lanes, .links, .last, .store, .win, .twb, .imc, .acc, .wqs, .cqs, .units, .slots, .sched, .awl, .nvm, .tm, .time, .cal, .free]) (h : k.same s x) :
    ∃ t, execMosWr a0 a1 a2 a3 a4 a5 x = .next t ∧ k.same s t := by
  unfold execMosWr
  repeat' first
    | with_reducible assumption
    | with_reducible refine done_keeps (not_mem_of_subset hk ?_) ?_
    | with_reducible refine mosIn_keeps (not_mem_of_subset hk ?_) ?_
    | with_reducible refine upset_keeps (not_mem_of_subset hk ?_) ?_
    | with_reducible refine ite_keeps ?_ ?_
    | with_reducible refine foldl_keeps ?_ (fun t a h => ?_)
    | dsimp -proj only
    | split
    | decide

theorem execJtagExtestPulse_keeps {k : Comp} {s x : State} (hk : k ∉ [.evt, .heel, .lanes, .links, .store, .twb, .imc, .jtag, .units, .nvm, .cal, .free]) (h : k.same s x) :
    ∃ t, execJtagExtestPulse x = .next t ∧ k.same s t := by
  unfold execJtagExtestPulse
  repeat' first
    | with_reducible assumption
    | with_reducible refine done_keeps (not_mem_of_subset hk ?_) ?_
    | with_reducible refine scanCells_keeps (not_mem_of_subset hk ?_) ?_
    | with_reducible refine ite_keeps ?_ ?_
    | with_reducible refine foldl_keeps ?_ (fun t a h => ?_)
    | dsimp -proj only
    | split
    | decide

theorem execWinctlSync_keeps {k : Comp} {s x : State} {a0 a1} (hk : k ∉ [.power, .boot, .dev, .welt, .therm, .evt, .heel, .lanes, .links, .last, .store, .win, .twb, .imc, .wqs, .cqs, .units, .slots, .sched, .awl, .nvm, .tm, .time, .cal, .free]) (h : k.same s x) :
    ∃ t, execWinctlSync a0 a1 x = .next t ∧ k.same s t := by
  unfold execWinctlSync
  repeat' first
    | with_reducible assumption
    | with_reducible refine done_keeps (not_mem_of_subset hk ?_) ?_
    | with_reducible refine writeTo_keeps (not_mem_of_subset hk ?_) ?_
    | with_reducible refine ite_keeps ?_ ?_
    | with_reducible refine foldl_keeps ?_ (fun t a h => ?_)
    | dsimp -proj only
    | split
    | decide

theorem execWindowEntryWrite_keeps {k : Comp} {s x : State} {a0 a1 a2 a3} (hk : k ∉ [.power, .boot, .dev, .welt, .therm, .evt, .heel, .lanes, .links, .last, .store, .win, .twb, .imc, .wqs, .cqs, .units, .slots, .sched, .awl, .nvm, .tm, .time, .cal, .free]) (h : k.same s x) :
    ∃ t, execWindowEntryWrite a0 a1 a2 a3 x = .next t ∧ k.same s t := by
  unfold execWindowEntryWrite
  repeat' first
    | with_reducible assumption
    | with_reducible refine done_keeps (not_mem_of_subset hk ?_) ?_
    | with_reducible refine writeTo_keeps (not_mem_of_subset hk ?_) ?_
    | with_reducible refine ite_keeps ?_ ?_
    | with_reducible refine foldl_keeps ?_ (fun t a h => ?_)
    | dsimp -proj only
    | split
    | decide

theorem execAwlAll_keeps {k : Comp} {s x : State} {a0} (hk : k ∉ [.power, .boot, .dev, .welt, .therm, .evt, .heel, .lanes, .links, .last, .store, .win, .twb, .imc, .wqs, .cqs, .units, .slots, .sched, .awl, .nvm, .tm, .time, .cal, .free]) (h : k.same s x) :
    ∃ t, execAwlAll a0 x = .next t ∧ k.same s t := by
  unfold execAwlAll
  repeat' first
    | with_reducible assumption
    | with_reducible refine done_keeps (not_mem_of_subset hk ?_) ?_
    | with_reducible refine writeTo_keeps (not_mem_of_subset hk ?_) ?_
    | with_reducible refine ite_keeps ?_ ?_
    | with_reducible refine foldl_keeps ?_ (fun t a h => ?_)
    | dsimp -proj only
    | split
    | decide

theorem execNvmSectorErased_keeps {k : Comp} {s x : State} {a0} (hk : k ∉ [.evt, .heel, .lanes, .links, .store, .imc, .units, .nvm, .cal, .free]) (h : k.same s x) :
    ∃ t, execNvmSectorErased a0 x = .next t ∧ k.same s t := by
  unfold execNvmSectorErased
  repeat' first
    | with_reducible assumption
    | with_reducible refine done_keeps (not_mem_of_subset hk ?_) ?_
    | with_reducible refine ownDone_keeps (not_mem_of_subset hk ?_) ?_
    | with_reducible refine sectorDone_keeps (not_mem_of_subset hk ?_) ?_
    | with_reducible refine ite_keeps ?_ ?_
    | with_reducible refine foldl_keeps ?_ (fun t a h => ?_)
    | dsimp -proj only
    | split
    | decide

theorem scanTimeout_keeps {k : Comp} {s x : State} {a0 a1 a2} (hk : k ∉ [.evt, .heel, .last, .store, .win, .wqs, .cqs, .units, .slots, .sched, .nvm]) (h : k.same s x) :
    k.same s (scanTimeout x a0 a1 a2) := by
  unfold scanTimeout
  repeat' first
    | with_reducible assumption
    | with_reducible refine closeScan_keeps (not_mem_of_subset hk ?_) ?_
    | with_reducible refine writeHeldScan_keeps (not_mem_of_subset hk ?_) ?_
    | with_reducible refine putData_keeps (not_mem_of_subset hk ?_) ?_
    | with_reducible refine putData_keeps_eq (not_mem_of_subset hk ?_) ?_ (by with_reducible assumption)
    | with_reducible refine ite_keeps ?_ ?_
    | with_reducible refine foldl_keeps ?_ (fun t a h => ?_)
    | dsimp -proj only
    | split
    | decide

theorem readSlots_keeps {k : Comp} {s x : State} {a0 a1 a2 a3} (hk : k ∉ [.evt, .heel, .store, .nvm]) (h : k.same s x) :
    k.same s (readSlots a0 a1 a2 a3 x).2 := by
  induction a2 generalizing x a3 with
  | zero => exact h
  | succ n ih =>
    unfold readSlots
    dsimp only
    split
    · exact jobRead_keeps_eq (not_mem_of_subset hk (by decide)) h (by assumption)
    · rename_i b t e
      have g : k.same s t := jobRead_keeps_eq (not_mem_of_subset hk (by decide)) h e
      have i := ih (x := t) (a3 := a3 + 1) g
      split <;> (rename_i e'; rw [e'] at i; exact i)

theorem readSlots_keeps_eq {k : Comp} {s x : State} {a0 a1 a2 a3} {r u} (hk : k ∉ [.evt, .heel, .store, .nvm]) (h : k.same s x) (e : readSlots a0 a1 a2 a3 x = (r, u)) :
    k.same s u := by
  simpa only [e] using readSlots_keeps (s := s) (x := x) (a0 := a0) (a1 := a1) (a2 := a2) (a3 := a3) hk h

theorem prefetch_keeps {k : Comp} {s x : State} {a0} (hk : k ∉ [.evt, .heel, .store, .win, .wqs, .cqs, .sched, .nvm]) (h : k.same s x) :
    k.same s (prefetch x a0) := by
  unfold prefetch
  repeat' first
    | with_reducible assumption
    | with_reducible refine advanceHead_keeps (not_mem_of_subset hk ?_) ?_
    | with_reducible refine ringFault_keeps (not_mem_of_subset hk ?_) ?_
    | with_reducible refine consume_keeps (not_mem_of_subset hk ?_) ?_
    | with_reducible refine readSlots_keeps (not_mem_of_subset hk ?_) ?_
    | with_reducible refine readSlots_keeps_eq (not_mem_of_subset hk ?_) ?_ (by with_reducible assumption)
    | with_reducible refine malformedEntry_keeps (not_mem_of_subset hk ?_) ?_
    | with_reducible refine ite_keeps ?_ ?_
    | with_reducible refine foldl_keeps ?_ (fun t a h => ?_)
    | dsimp -proj only
    | split
    | decide

theorem execEntryPrefetch_keeps {k : Comp} {s x : State} {a0 a1} (hk : k ∉ [.evt, .heel, .lanes, .links, .store, .win, .imc, .wqs, .cqs, .units, .sched, .nvm, .cal, .free]) (h : k.same s x) :
    ∃ t, execEntryPrefetch a0 a1 x = .next t ∧ k.same s t := by
  unfold execEntryPrefetch
  repeat' first
    | with_reducible assumption
    | with_reducible refine done_keeps (not_mem_of_subset hk ?_) ?_
    | with_reducible refine prefetch_keeps (not_mem_of_subset hk ?_) ?_
    | with_reducible refine upset_keeps (not_mem_of_subset hk ?_) ?_
    | with_reducible refine ite_keeps ?_ ?_
    | with_reducible refine foldl_keeps ?_ (fun t a h => ?_)
    | dsimp -proj only
    | split
    | decide

theorem startJob_keeps {k : Comp} {s x : State} {a0 a1} (hk : k ∉ [.lanes, .last, .wqs, .units, .slots, .sched, .nvm]) (h : k.same s x) :
    k.same s (startJob x a0 a1) := by
  unfold startJob
  repeat' first
    | with_reducible assumption
    | with_reducible refine ownDone_keeps (not_mem_of_subset hk ?_) ?_
    | with_reducible refine startNvm_keeps (not_mem_of_subset hk ?_) ?_
    | with_reducible refine serve_keeps (not_mem_of_subset hk ?_) ?_
    | with_reducible refine ite_keeps ?_ ?_
    | with_reducible refine foldl_keeps ?_ (fun t a h => ?_)
    | dsimp -proj only
    | split
    | decide

theorem execScanPointDone_keeps {k : Comp} {s x : State} {a0 a1 a2} (hk : k ∉ [.evt, .heel, .lanes, .links, .store, .imc, .units, .nvm, .cal, .free]) (h : k.same s x) :
    ∃ t, execScanPointDone a0 a1 a2 x = .next t ∧ k.same s t := by
  unfold execScanPointDone
  repeat' first
    | with_reducible assumption
    | with_reducible refine done_keeps (not_mem_of_subset hk ?_) ?_
    | with_reducible refine modMeas_keeps (not_mem_of_subset hk ?_) ?_
    | with_reducible refine ite_keeps ?_ ?_
    | with_reducible refine foldl_keeps ?_ (fun t a h => ?_)
    | dsimp -proj only
    | split
    | decide

theorem execRecalEvaluation_keeps {k : Comp} {s x : State} (hk : k ∉ [.evt, .heel, .lanes, .links, .store, .imc, .units, .nvm, .cal, .free]) (h : k.same s x) :
    ∃ t, execRecalEvaluation x = .next t ∧ k.same s t := by
  unfold execRecalEvaluation
  repeat' first
    | with_reducible assumption
    | with_reducible refine done_keeps (not_mem_of_subset hk ?_) ?_
    | with_reducible refine homeStandins_keeps (not_mem_of_subset hk ?_) ?_
    | with_reducible refine followStandin_keeps (not_mem_of_subset hk ?_) ?_
    | with_reducible refine evaluateUnits_keeps (not_mem_of_subset hk ?_) ?_
    | with_reducible refine nextRecal_keeps (not_mem_of_subset hk ?_) ?_
    | with_reducible refine ite_keeps ?_ ?_
    | with_reducible refine foldl_keeps ?_ (fun t a h => ?_)
    | dsimp -proj only
    | split
    | decide

theorem execDrainComplete_keeps {k : Comp} {s x : State} {a0} (hk : k ∉ [.evt, .heel, .lanes, .links, .store, .imc, .wqs, .units, .nvm, .cal, .free]) (h : k.same s x) :
    ∃ t, execDrainComplete a0 x = .next t ∧ k.same s t := by
  unfold execDrainComplete
  repeat' first
    | with_reducible assumption
    | with_reducible refine done_keeps (not_mem_of_subset hk ?_) ?_
    | with_reducible refine drainEnd_keeps (not_mem_of_subset hk ?_) ?_
    | with_reducible refine ite_keeps ?_ ?_
    | with_reducible refine foldl_keeps ?_ (fun t a h => ?_)
    | dsimp -proj only
    | split
    | decide

theorem execLnsnapRelease_keeps {k : Comp} {s x : State} {a0 a1 a2 a3} (hk : k ∉ [.power, .boot, .dev, .welt, .therm, .evt, .heel, .lanes, .links, .last, .store, .win, .twb, .imc, .wqs, .cqs, .units, .slots, .sched, .awl, .nvm, .tm, .time, .cal, .free]) (h : k.same s x) :
    ∃ t, execLnsnapRelease a0 a1 a2 a3 x = .next t ∧ k.same s t := by
  unfold execLnsnapRelease
  repeat' first
    | with_reducible assumption
    | with_reducible refine done_keeps (not_mem_of_subset hk ?_) ?_
    | with_reducible refine writeTo_keeps (not_mem_of_subset hk ?_) ?_
    | with_reducible refine ite_keeps ?_ ?_
    | with_reducible refine foldl_keeps ?_ (fun t a h => ?_)
    | dsimp -proj only
    | split
    | decide

theorem execSyncBarrierDone_keeps {k : Comp} {s x : State} {a0} (hk : k ∉ [.evt, .heel, .lanes, .links, .store, .win, .imc, .units, .nvm, .cal, .free]) (h : k.same s x) :
    ∃ t, execSyncBarrierDone a0 x = .next t ∧ k.same s t := by
  unfold execSyncBarrierDone
  repeat' first
    | with_reducible assumption
    | with_reducible refine done_keeps (not_mem_of_subset hk ?_) ?_
    | with_reducible refine modWin_keeps (not_mem_of_subset hk ?_) ?_
    | with_reducible refine ite_keeps ?_ ?_
    | with_reducible refine foldl_keeps ?_ (fun t a h => ?_)
    | dsimp -proj only
    | split
    | decide

theorem execHeelWatchdogTrip_keeps {k : Comp} {s x : State} (hk : k ∉ [.evt, .heel, .lanes, .links, .store, .imc, .units, .nvm, .cal, .free]) (h : k.same s x) :
    ∃ t, execHeelWatchdogTrip x = .next t ∧ k.same s t := by
  unfold execHeelWatchdogTrip
  try dsimp -zeta -proj only [upd_evt_heel]
  repeat' first
    | with_reducible assumption
    | with_reducible refine done_keeps (not_mem_of_subset hk ?_) ?_
    | with_reducible refine logEvent_keeps (not_mem_of_subset hk ?_) ?_
    | with_reducible refine putEvt_keeps (not_mem_of_subset hk ?_) ?_
    | with_reducible refine putHeel_keeps (not_mem_of_subset hk ?_) ?_
    | with_reducible refine ite_keeps ?_ ?_
    | with_reducible refine foldl_keeps ?_ (fun t a h => ?_)
    | dsimp -proj only
    | split
    | decide

theorem execLastStage_keeps {k : Comp} {s x : State} {a0 a1} (hk : k ∉ [.evt, .heel, .lanes, .links, .last, .store, .win, .imc, .wqs, .cqs, .units, .slots, .sched, .nvm, .cal, .free]) (h : k.same s x) :
    ∃ t, execLastStage a0 a1 x = .next t ∧ k.same s t := by
  unfold execLastStage
  repeat' first
    | with_reducible assumption
    | with_reducible refine done_keeps (not_mem_of_subset hk ?_) ?_
    | with_reducible refine runBlock_keeps (not_mem_of_subset hk ?_) ?_
    | with_reducible refine upset_keeps (not_mem_of_subset hk ?_) ?_
    | with_reducible refine ite_keeps ?_ ?_
    | with_reducible refine foldl_keeps ?_ (fun t a h => ?_)
    | dsimp -proj only
    | split
    | decide

theorem execEyescanLockTimeout_keeps {k : Comp} {s x : State} {a0 a1} (hk : k ∉ [.evt, .heel, .lanes, .links, .last, .store, .win, .imc, .wqs, .cqs, .units, .slots, .sched, .nvm, .cal, .free]) (h : k.same s x) :
    ∃ t, execEyescanLockTimeout a0 a1 x = .next t ∧ k.same s t := by
  unfold execEyescanLockTimeout
  repeat' first
    | with_reducible assumption
    | with_reducible refine done_keeps (not_mem_of_subset hk ?_) ?_
    | with_reducible refine scanTimeout_keeps (not_mem_of_subset hk ?_) ?_
    | with_reducible refine ite_keeps ?_ ?_
    | with_reducible refine foldl_keeps ?_ (fun t a h => ?_)
    | dsimp -proj only
    | split
    | decide

theorem execRailValid_keeps {k : Comp} {s x : State} {a0} (hk : k ∉ [.power, .welt, .evt, .heel, .lanes, .links, .last, .store, .imc, .units, .nvm, .cal, .free]) (h : k.same s x) :
    ∃ t, execRailValid a0 x = .next t ∧ k.same s t := by
  unfold execRailValid
  repeat' first
    | with_reducible assumption
    | with_reducible refine done_keeps (not_mem_of_subset hk ?_) ?_
    | with_reducible refine settle_keeps (not_mem_of_subset hk ?_) ?_
    | with_reducible refine modPower_keeps (not_mem_of_subset hk ?_) ?_
    | with_reducible refine ite_keeps ?_ ?_
    | with_reducible refine foldl_keeps ?_ (fun t a h => ?_)
    | dsimp -proj only
    | split
    | decide

theorem execTwbReadWord_keeps {k : Comp} {s x : State} {a0} (hk : k ∉ [.evt, .heel, .lanes, .links, .store, .win, .twb, .imc, .acc, .units, .nvm, .tm, .cal, .free]) (h : k.same s x) :
    ∃ t, execTwbReadWord a0 x = .next t ∧ k.same s t := by
  unfold execTwbReadWord
  repeat' first
    | with_reducible assumption
    | with_reducible refine modTwb_keeps (not_mem_of_subset hk ?_) ?_
    | with_reducible refine done_keeps (not_mem_of_subset hk ?_) ?_
    | with_reducible refine busRead_keeps (not_mem_of_subset hk ?_) ?_
    | with_reducible refine upset_keeps (not_mem_of_subset hk ?_) ?_
    | with_reducible refine ite_keeps ?_ ?_
    | with_reducible refine foldl_keeps ?_ (fun t a h => ?_)
    | dsimp -proj only
    | split
    | decide

theorem resendSpare_keeps {k : Comp} {s x : State} {a0 a1} (hk : k ∉ [.links]) (h : k.same s x) :
    k.same s (resendSpare x a0 a1) := by
  unfold resendSpare
  repeat' first
    | with_reducible assumption
    | with_reducible refine dropSpare_keeps (not_mem_of_subset hk ?_) ?_
    | with_reducible refine modLink_keeps (not_mem_of_subset hk ?_) ?_
    | with_reducible refine queueMos_keeps (not_mem_of_subset hk ?_) ?_
    | with_reducible refine ite_keeps ?_ ?_
    | with_reducible refine foldl_keeps ?_ (fun t a h => ?_)
    | dsimp -proj only
    | split
    | decide

theorem retrySwap_keeps {k : Comp} {s x : State} {a0} (hk : k ∉ [.links]) (h : k.same s x) :
    k.same s (retrySwap x a0) := by
  unfold retrySwap
  repeat' first
    | with_reducible assumption
    | with_reducible refine resendSpare_keeps (not_mem_of_subset hk ?_) ?_
    | with_reducible refine ite_keeps ?_ ?_
    | with_reducible refine foldl_keeps ?_ (fun t a h => ?_)
    | dsimp -proj only
    | split
    | decide

theorem exitStandby_keeps {k : Comp} {s x : State} (hk : k ∉ [.power, .boot, .dev, .welt, .evt, .lanes, .links, .last, .store, .twb, .units, .nvm, .cal, .free]) (h : k.same s x) :
    k.same s (exitStandby x) := by
  unfold exitStandby
  try dsimp -zeta -proj only [upd_boot_dev_evt_store_twb]
  try simp -zeta -proj only [upd_boot_dev_evt_store_twb]
  repeat' first
    | with_reducible assumption
    | with_reducible refine settle_keeps (not_mem_of_subset hk ?_) ?_
    | with_reducible refine modLane_keeps (not_mem_of_subset hk ?_) ?_
    | with_reducible refine lockPlls_keeps (not_mem_of_subset hk ?_) ?_
    | with_reducible refine ringPut_keeps (not_mem_of_subset hk ?_) ?_
    | with_reducible refine putBoot_keeps (not_mem_of_subset hk ?_) ?_
    | with_reducible refine putDev_keeps (not_mem_of_subset hk ?_) ?_
    | with_reducible refine putEvt_keeps (not_mem_of_subset hk ?_) ?_
    | with_reducible refine putStore_keeps (not_mem_of_subset hk ?_) ?_
    | with_reducible refine putTwb_keeps (not_mem_of_subset hk ?_) ?_
    | with_reducible refine ite_keeps ?_ ?_
    | with_reducible refine foldl_keeps ?_ (fun t a h => ?_)
    | dsimp -proj only
    | split
    | decide

theorem execStandbyExitDone_keeps {k : Comp} {s x : State} (hk : k ∉ [.power, .boot, .dev, .welt, .evt, .heel, .lanes, .links, .last, .store, .twb, .imc, .units, .nvm, .cal, .free]) (h : k.same s x) :
    ∃ t, execStandbyExitDone x = .next t ∧ k.same s t := by
  unfold execStandbyExitDone
  repeat' first
    | with_reducible assumption
    | with_reducible refine done_keeps (not_mem_of_subset hk ?_) ?_
    | with_reducible refine exitStandby_keeps (not_mem_of_subset hk ?_) ?_
    | with_reducible refine ite_keeps ?_ ?_
    | with_reducible refine foldl_keeps ?_ (fun t a h => ?_)
    | dsimp -proj only
    | split
    | decide

theorem execAdcSelfCal_keeps {k : Comp} {s x : State} (hk : k ∉ [.evt, .heel, .lanes, .links, .store, .imc, .units, .nvm, .tm, .cal, .free]) (h : k.same s x) :
    ∃ t, execAdcSelfCal x = .next t ∧ k.same s t := by
  unfold execAdcSelfCal
  repeat' first
    | with_reducible assumption
    | with_reducible refine done_keeps (not_mem_of_subset hk ?_) ?_
    | with_reducible refine startAdcCal_keeps (not_mem_of_subset hk ?_) ?_
    | with_reducible refine ite_keeps ?_ ?_
    | with_reducible refine foldl_keeps ?_ (fun t a h => ?_)
    | dsimp -proj only
    | split
    | decide

theorem wakeDone_keeps {k : Comp} {s x : State} {a0} (hk : k ∉ [.power, .welt, .evt, .lanes, .links, .last, .store, .units, .nvm, .free]) (h : k.same s x) :
    k.same s (wakeDone x a0) := by
  unfold wakeDone
  repeat' first
    | with_reducible assumption
    | with_reducible refine setResult_keeps (not_mem_of_subset hk ?_) ?_
    | with_reducible refine modLink_keeps (not_mem_of_subset hk ?_) ?_
    | with_reducible refine checkRecovered_keeps (not_mem_of_subset hk ?_) ?_
    | with_reducible refine requestRetrain_keeps (not_mem_of_subset hk ?_) ?_
    | with_reducible refine ite_keeps ?_ ?_
    | with_reducible refine foldl_keeps ?_ (fun t a h => ?_)
    | dsimp -proj only
    | split
    | decide

theorem transparentUp_keeps {k : Comp} {s x : State} {a0} (hk : k ∉ [.evt, .links, .last, .store, .nvm]) (h : k.same s x) :
    k.same s (transparentUp x a0) := by
  unfold transparentUp
  repeat' first
    | with_reducible assumption
    | with_reducible refine setResult_keeps (not_mem_of_subset hk ?_) ?_
    | with_reducible refine ite_keeps ?_ ?_
    | with_reducible refine foldl_keeps ?_ (fun t a h => ?_)
    | dsimp -proj only
    | split
    | decide

theorem lockFollows_keeps {k : Comp} {s x : State} {a0 a1} (hk : k ∉ [.power, .welt, .evt, .lanes, .links, .last, .store, .units, .nvm, .free]) (h : k.same s x) :
    k.same s (lockFollows x a0 a1) := by
  unfold lockFollows
  repeat' first
    | with_reducible assumption
    | with_reducible refine restoreTransparent_keeps (not_mem_of_subset hk ?_) ?_
    | with_reducible refine wakeDone_keeps (not_mem_of_subset hk ?_) ?_
    | with_reducible refine transparentUp_keeps (not_mem_of_subset hk ?_) ?_
    | with_reducible refine ite_keeps ?_ ?_
    | with_reducible refine foldl_keeps ?_ (fun t a h => ?_)
    | dsimp -proj only
    | split
    | decide

theorem execCdrLockGained_keeps {k : Comp} {s x : State} {a0 a1} (hk : k ∉ [.power, .welt, .evt, .heel, .lanes, .links, .last, .store, .imc, .units, .nvm, .cal, .free]) (h : k.same s x) :
    ∃ t, execCdrLockGained a0 a1 x = .next t ∧ k.same s t := by
  unfold execCdrLockGained
  repeat' first
    | with_reducible assumption
    | with_reducible refine done_keeps (not_mem_of_subset hk ?_) ?_
    | with_reducible refine lockFollows_keeps (not_mem_of_subset hk ?_) ?_
    | with_reducible refine modRx_keeps (not_mem_of_subset hk ?_) ?_
    | with_reducible refine ite_keeps ?_ ?_
    | with_reducible refine foldl_keeps ?_ (fun t a h => ?_)
    | dsimp -proj only
    | split
    | decide

theorem execJtagSamplePreload_keeps {k : Comp} {s x : State} (hk : k ∉ [.evt, .heel, .lanes, .links, .store, .twb, .imc, .jtag, .units, .nvm, .cal, .free]) (h : k.same s x) :
    ∃ t, execJtagSamplePreload x = .next t ∧ k.same s t := by
  unfold execJtagSamplePreload
  repeat' first
    | with_reducible assumption
    | with_reducible refine done_keeps (not_mem_of_subset hk ?_) ?_
    | with_reducible refine scanCells_keeps (not_mem_of_subset hk ?_) ?_
    | with_reducible refine ite_keeps ?_ ?_
    | with_reducible refine foldl_keeps ?_ (fun t a h => ?_)
    | dsimp -proj only
    | split
    | decide

theorem pllUnlocked_keeps {k : Comp} {s x : State} {a0} (hk : k ∉ [.power, .evt, .store, .nvm]) (h : k.same s x) :
    k.same s (pllUnlocked x a0) := by
  unfold pllUnlocked
  try dsimp -zeta -proj only [upd_power_evt]
  repeat' first
    | with_reducible assumption
    | with_reducible refine logEvent_keeps (not_mem_of_subset hk ?_) ?_
    | with_reducible refine putPower_keeps (not_mem_of_subset hk ?_) ?_
    | with_reducible refine putEvt_keeps (not_mem_of_subset hk ?_) ?_
    | with_reducible refine ite_keeps ?_ ?_
    | with_reducible refine foldl_keeps ?_ (fun t a h => ?_)
    | dsimp -proj only
    | split
    | decide

theorem execCorePllLoss_keeps {k : Comp} {s x : State} (hk : k ∉ [.power, .dev, .welt, .evt, .heel, .lanes, .links, .last, .store, .imc, .units, .nvm, .cal, .free]) (h : k.same s x) :
    ∃ t, execCorePllLoss x = .next t ∧ k.same s t := by
  unfold execCorePllLoss
  try dsimp -zeta -proj only [upd_dev]
  repeat' first
    | with_reducible assumption
    | with_reducible refine done_keeps (not_mem_of_subset hk ?_) ?_
    | with_reducible refine settle_keeps (not_mem_of_subset hk ?_) ?_
    | with_reducible refine pllUnlocked_keeps (not_mem_of_subset hk ?_) ?_
    | with_reducible refine putDev_keeps (not_mem_of_subset hk ?_) ?_
    | with_reducible refine ite_keeps ?_ ?_
    | with_reducible refine foldl_keeps ?_ (fun t a h => ?_)
    | dsimp -proj only
    | split
    | decide

theorem execSignalDetected_keeps {k : Comp} {s x : State} {a0 a1} (hk : k ∉ [.power, .welt, .evt, .heel, .lanes, .links, .last, .store, .imc, .units, .nvm, .cal, .free]) (h : k.same s x) :
    ∃ t, execSignalDetected a0 a1 x = .next t ∧ k.same s t := by
  unfold execSignalDetected
  repeat' first
    | with_reducible assumption
    | with_reducible refine done_keeps (not_mem_of_subset hk ?_) ?_
    | with_reducible refine modRx_keeps (not_mem_of_subset hk ?_) ?_
    | with_reducible refine enterDetect_keeps (not_mem_of_subset hk ?_) ?_
    | with_reducible refine ite_keeps ?_ ?_
    | with_reducible refine foldl_keeps ?_ (fun t a h => ?_)
    | dsimp -proj only
    | split
    | decide

theorem rateSeen_keeps {k : Comp} {s x : State} {a0 a1 a2} (hk : k ∉ [.evt, .lanes, .links, .store, .nvm]) (h : k.same s x) :
    k.same s (rateSeen x a0 a1 a2) := by
  unfold rateSeen
  repeat' first
    | with_reducible assumption
    | with_reducible refine modLink_keeps (not_mem_of_subset hk ?_) ?_
    | with_reducible refine modRx_keeps (not_mem_of_subset hk ?_) ?_
    | with_reducible refine takeLinkRate_keeps (not_mem_of_subset hk ?_) ?_
    | with_reducible refine ite_keeps ?_ ?_
    | with_reducible refine foldl_keeps ?_ (fun t a h => ?_)
    | dsimp -proj only
    | split
    | decide

theorem awlFinish_keeps {k : Comp} {s x : State} (hk : k ∉ [.evt, .store, .wqs, .awl, .nvm]) (h : k.same s x) :
    k.same s (awlFinish x) := by
  unfold awlFinish
  repeat' first
    | with_reducible assumption
    | with_reducible refine logEvent_keeps (not_mem_of_subset hk ?_) ?_
    | with_reducible refine drainEnd_keeps (not_mem_of_subset hk ?_) ?_
    | with_reducible refine modAwl_keeps (not_mem_of_subset hk ?_) ?_
    | with_reducible refine ite_keeps ?_ ?_
    | with_reducible refine foldl_keeps ?_ (fun t a h => ?_)
    | dsimp -proj only
    | split
    | decide

theorem execAwlDone_keeps {k : Comp} {s x : State} (hk : k ∉ [.evt, .heel, .lanes, .links, .store, .imc, .wqs, .units, .awl, .nvm, .cal, .free]) (h : k.same s x) :
    ∃ t, execAwlDone x = .next t ∧ k.same s t := by
  unfold execAwlDone
  repeat' first
    | with_reducible assumption
    | with_reducible refine done_keeps (not_mem_of_subset hk ?_) ?_
    | with_reducible refine awlFinish_keeps (not_mem_of_subset hk ?_) ?_
    | with_reducible refine ite_keeps ?_ ?_
    | with_reducible refine foldl_keeps ?_ (fun t a h => ?_)
    | dsimp -proj only
    | split
    | decide

theorem execCeRateHour_keeps {k : Comp} {s x : State} (hk : k ∉ [.evt, .heel, .lanes, .links, .store, .imc, .units, .nvm, .cal, .free]) (h : k.same s x) :
    ∃ t, execCeRateHour x = .next t ∧ k.same s t := by
  unfold execCeRateHour
  try dsimp -zeta -proj only [upd_store]
  repeat' first
    | with_reducible assumption
    | with_reducible refine done_keeps (not_mem_of_subset hk ?_) ?_
    | with_reducible refine putStore_keeps (not_mem_of_subset hk ?_) ?_
    | with_reducible refine ite_keeps ?_ ?_
    | with_reducible refine foldl_keeps ?_ (fun t a h => ?_)
    | dsimp -proj only
    | split
    | decide

theorem execWqDisable_keeps {k : Comp} {s x : State} {a0 a1 a2} (hk : k ∉ [.power, .boot, .dev, .welt, .therm, .evt, .heel, .lanes, .links, .last, .store, .win, .twb, .imc, .wqs, .cqs, .units, .slots, .sched, .awl, .nvm, .tm, .time, .cal, .free]) (h : k.same s x) :
    ∃ t, execWqDisable a0 a1 a2 x = .next t ∧ k.same s t := by
  unfold execWqDisable
  repeat' first
    | with_reducible assumption
    | with_reducible refine done_keeps (not_mem_of_subset hk ?_) ?_
    | with_reducible refine writeTo_keeps (not_mem_of_subset hk ?_) ?_
    | with_reducible refine ite_keeps ?_ ?_
    | with_reducible refine foldl_keeps ?_ (fun t a h => ?_)
    | dsimp -proj only
    | split
    | decide

theorem execScrubLine_keeps {k : Comp} {s x : State} {a0} (hk : k ∉ [.evt, .heel, .lanes, .links, .store, .imc, .units, .nvm, .cal, .free]) (h : k.same s x) :
    ∃ t, execScrubLine a0 x = .next t ∧ k.same s t := by
  unfold execScrubLine
  repeat' first
    | with_reducible assumption
    | with_reducible refine done_keeps (not_mem_of_subset hk ?_) ?_
    | with_reducible refine visitLine_keeps (not_mem_of_subset hk ?_) ?_
    | with_reducible refine upset_keeps (not_mem_of_subset hk ?_) ?_
    | with_reducible refine ite_keeps ?_ ?_
    | with_reducible refine foldl_keeps ?_ (fun t a h => ?_)
    | dsimp -proj only
    | split
    | decide

theorem execTmseqctlRestart_keeps {k : Comp} {s x : State} {a0 a1 a2} (hk : k ∉ [.power, .boot, .dev, .welt, .therm, .evt, .heel, .lanes, .links, .last, .store, .win, .twb, .imc, .wqs, .cqs, .units, .slots, .sched, .awl, .nvm, .tm, .time, .cal, .free]) (h : k.same s x) :
    ∃ t, execTmseqctlRestart a0 a1 a2 x = .next t ∧ k.same s t := by
  unfold execTmseqctlRestart
  repeat' first
    | with_reducible assumption
    | with_reducible refine done_keeps (not_mem_of_subset hk ?_) ?_
    | with_reducible refine writeTo_keeps (not_mem_of_subset hk ?_) ?_
    | with_reducible refine ite_keeps ?_ ?_
    | with_reducible refine foldl_keeps ?_ (fun t a h => ?_)
    | dsimp -proj only
    | split
    | decide

theorem execEyeSweepEnd_keeps {k : Comp} {s x : State} {a0 a1 a2 a3} (hk : k ∉ [.evt, .heel, .lanes, .links, .store, .imc, .units, .nvm, .cal, .free]) (h : k.same s x) :
    ∃ t, execEyeSweepEnd a0 a1 a2 a3 x = .next t ∧ k.same s t := by
  unfold execEyeSweepEnd
  repeat' first
    | with_reducible assumption
    | with_reducible refine done_keeps (not_mem_of_subset hk ?_) ?_
    | with_reducible refine eyeAlarm_keeps (not_mem_of_subset hk ?_) ?_
    | with_reducible refine qualityCheck_keeps (not_mem_of_subset hk ?_) ?_
    | with_reducible refine modMeas_keeps (not_mem_of_subset hk ?_) ?_
    | with_reducible refine ite_keeps ?_ ?_
    | with_reducible refine foldl_keeps ?_ (fun t a h => ?_)
    | dsimp -proj only
    | split
    | decide

theorem execNop_keeps {k : Comp} {s x : State} {a0} (hk : k ∉ [.evt, .heel, .lanes, .links, .store, .win, .imc, .wqs, .cqs, .units, .nvm, .cal, .free]) (h : k.same s x) :
    ∃ t, execNop a0 x = .next t ∧ k.same s t := by
  unfold execNop
  repeat' first
    | with_reducible assumption
    | with_reducible refine done_keeps (not_mem_of_subset hk ?_) ?_
    | with_reducible refine modWq_keeps (not_mem_of_subset hk ?_) ?_
    | with_reducible refine noteFence_keeps (not_mem_of_subset hk ?_) ?_
    | with_reducible refine endEntry_keeps (not_mem_of_subset hk ?_) ?_
    | with_reducible refine ite_keeps ?_ ?_
    | with_reducible refine foldl_keeps ?_ (fun t a h => ?_)
    | dsimp -proj only
    | split
    | decide

theorem execWeltCauseArises_keeps {k : Comp} {s x : State} {a0} (hk : k ∉ [.pins, .power, .boot, .dev, .welt, .therm, .evt, .heel, .lanes, .links, .last, .store, .win, .twb, .imc, .acc, .wqs, .cqs, .units, .slots, .sched, .awl, .nvm, .tm, .time, .cal, .free]) (h : k.same s x) :
    ∃ t, execWeltCauseArises a0 x = .next t ∧ k.same s t := by
  unfold execWeltCauseArises
  repeat' first
    | with_reducible assumption
    | with_reducible refine done_keeps (not_mem_of_subset hk ?_) ?_
    | with_reducible refine settle_keeps (not_mem_of_subset hk ?_) ?_
    | with_reducible refine modPower_keeps (not_mem_of_subset hk ?_) ?_
    | with_reducible refine enterReset_keeps (not_mem_of_subset hk ?_) ?_
    | with_reducible refine modPins_keeps (not_mem_of_subset hk ?_) ?_
    | with_reducible refine ite_keeps ?_ ?_
    | with_reducible refine foldl_keeps ?_ (fun t a h => ?_)
    | dsimp -proj only
    | split
    | decide

theorem execSpareRetry_keeps {k : Comp} {s x : State} {a0} (hk : k ∉ [.evt, .heel, .lanes, .links, .store, .imc, .units, .nvm, .cal, .free]) (h : k.same s x) :
    ∃ t, execSpareRetry a0 x = .next t ∧ k.same s t := by
  unfold execSpareRetry
  repeat' first
    | with_reducible assumption
    | with_reducible refine done_keeps (not_mem_of_subset hk ?_) ?_
    | with_reducible refine retrySwap_keeps (not_mem_of_subset hk ?_) ?_
    | with_reducible refine resendRelease_keeps (not_mem_of_subset hk ?_) ?_
    | with_reducible refine ite_keeps ?_ ?_
    | with_reducible refine foldl_keeps ?_ (fun t a h => ?_)
    | dsimp -proj only
    | split
    | decide

theorem execWakeFail_keeps {k : Comp} {s x : State} {a0} (hk : k ∉ [.power, .welt, .evt, .heel, .lanes, .links, .last, .store, .imc, .units, .nvm, .cal, .free]) (h : k.same s x) :
    ∃ t, execWakeFail a0 x = .next t ∧ k.same s t := by
  unfold execWakeFail
  repeat' first
    | with_reducible assumption
    | with_reducible refine done_keeps (not_mem_of_subset hk ?_) ?_
    | with_reducible refine logK_keeps (not_mem_of_subset hk ?_) ?_
    | with_reducible refine requestRetrain_keeps (not_mem_of_subset hk ?_) ?_
    | with_reducible refine ite_keeps ?_ ?_
    | with_reducible refine foldl_keeps ?_ (fun t a h => ?_)
    | dsimp -proj only
    | split
    | decide

theorem execCaptureStop_keeps {k : Comp} {s x : State} {a0} (hk : k ∉ [.evt, .heel, .lanes, .links, .store, .win, .imc, .units, .nvm, .cal, .free]) (h : k.same s x) :
    ∃ t, execCaptureStop a0 x = .next t ∧ k.same s t := by
  unfold execCaptureStop
  repeat' first
    | with_reducible assumption
    | with_reducible refine done_keeps (not_mem_of_subset hk ?_) ?_
    | with_reducible refine stopCapture_keeps (not_mem_of_subset hk ?_) ?_
    | with_reducible refine ite_keeps ?_ ?_
    | with_reducible refine foldl_keeps ?_ (fun t a h => ?_)
    | dsimp -proj only
    | split
    | decide

theorem execTwbSclLow_keeps {k : Comp} {s x : State} {a0} (hk : k ∉ [.boot, .evt, .heel, .lanes, .links, .store, .twb, .imc, .units, .nvm, .cal, .free]) (h : k.same s x) :
    ∃ t, execTwbSclLow a0 x = .next t ∧ k.same s t := by
  unfold execTwbSclLow
  repeat' first
    | with_reducible assumption
    | with_reducible refine modTwb_keeps (not_mem_of_subset hk ?_) ?_
    | with_reducible refine done_keeps (not_mem_of_subset hk ?_) ?_
    | with_reducible refine endEeprom_keeps (not_mem_of_subset hk ?_) ?_
    | with_reducible refine logEvent_keeps (not_mem_of_subset hk ?_) ?_
    | with_reducible refine ite_keeps ?_ ?_
    | with_reducible refine foldl_keeps ?_ (fun t a h => ?_)
    | dsimp -proj only
    | split
    | decide

theorem execLnkctlAside_keeps {k : Comp} {s x : State} {a0 a1 a2} (hk : k ∉ [.power, .boot, .dev, .welt, .therm, .evt, .heel, .lanes, .links, .last, .store, .win, .twb, .imc, .wqs, .cqs, .units, .slots, .sched, .awl, .nvm, .tm, .time, .cal, .free]) (h : k.same s x) :
    ∃ t, execLnkctlAside a0 a1 a2 x = .next t ∧ k.same s t := by
  unfold execLnkctlAside
  repeat' first
    | with_reducible assumption
    | with_reducible refine done_keeps (not_mem_of_subset hk ?_) ?_
    | with_reducible refine writeTo_keeps (not_mem_of_subset hk ?_) ?_
    | with_reducible refine ite_keeps ?_ ?_
    | with_reducible refine foldl_keeps ?_ (fun t a h => ?_)
    | dsimp -proj only
    | split
    | decide

theorem execTwbSdaLow_keeps {k : Comp} {s x : State} {a0} (hk : k ∉ [.evt, .heel, .lanes, .links, .store, .twb, .imc, .units, .nvm, .cal, .free]) (h : k.same s x) :
    ∃ t, execTwbSdaLow a0 x = .next t ∧ k.same s t := by
  unfold execTwbSdaLow
  repeat' first
    | with_reducible assumption
    | with_reducible refine modTwb_keeps (not_mem_of_subset hk ?_) ?_
    | with_reducible refine done_keeps (not_mem_of_subset hk ?_) ?_
    | with_reducible refine logEvent_keeps (not_mem_of_subset hk ?_) ?_
    | with_reducible refine ite_keeps ?_ ?_
    | with_reducible refine foldl_keeps ?_ (fun t a h => ?_)
    | dsimp -proj only
    | split
    | decide

theorem execSupplyInWindow_keeps {k : Comp} {s x : State} {a0} (hk : k ∉ [.power, .evt, .heel, .lanes, .links, .store, .imc, .units, .nvm, .cal, .free]) (h : k.same s x) :
    ∃ t, execSupplyInWindow a0 x = .next t ∧ k.same s t := by
  unfold execSupplyInWindow
  repeat' first
    | with_reducible assumption
    | with_reducible refine done_keeps (not_mem_of_subset hk ?_) ?_
    | with_reducible refine modPower_keeps (not_mem_of_subset hk ?_) ?_
    | with_reducible refine ite_keeps ?_ ?_
    | with_reducible refine foldl_keeps ?_ (fun t a h => ?_)
    | dsimp -proj only
    | split
    | decide

theorem execSleepWake_keeps {k : Comp} {s x : State} {a0 a1} (hk : k ∉ [.power, .evt, .heel, .lanes, .links, .store, .imc, .units, .nvm, .cal, .free]) (h : k.same s x) :
    ∃ t, execSleepWake a0 a1 x = .next t ∧ k.same s t := by
  unfold execSleepWake
  repeat' first
    | with_reducible assumption
    | with_reducible refine done_keeps (not_mem_of_subset hk ?_) ?_
    | with_reducible refine modLink_keeps (not_mem_of_subset hk ?_) ?_
    | with_reducible refine modRx_keeps (not_mem_of_subset hk ?_) ?_
    | with_reducible refine lockPlls_keeps (not_mem_of_subset hk ?_) ?_
    | with_reducible refine ite_keeps ?_ ?_
    | with_reducible refine foldl_keeps ?_ (fun t a h => ?_)
    | dsimp -proj only
    | split
    | decide

theorem execDevctlAside_keeps {k : Comp} {s x : State} {a0 a1} (hk : k ∉ [.power, .boot, .dev, .welt, .therm, .evt, .heel, .lanes, .links, .last, .store, .win, .twb, .imc, .wqs, .cqs, .units, .slots, .sched, .awl, .nvm, .tm, .time, .cal, .free]) (h : k.same s x) :
    ∃ t, execDevctlAside a0 a1 x = .next t ∧ k.same s t := by
  unfold execDevctlAside
  repeat' first
    | with_reducible assumption
    | with_reducible refine done_keeps (not_mem_of_subset hk ?_) ?_
    | with_reducible refine writeTo_keeps (not_mem_of_subset hk ?_) ?_
    | with_reducible refine ite_keeps ?_ ?_
    | with_reducible refine foldl_keeps ?_ (fun t a h => ?_)
    | dsimp -proj only
    | split
    | decide

theorem execCommit_keeps {k : Comp} {s x : State} {a0 a1} (hk : k ∉ [.power, .boot, .dev, .welt, .therm, .evt, .heel, .lanes, .links, .last, .store, .win, .twb, .imc, .wqs, .cqs, .units, .slots, .sched, .awl, .nvm, .tm, .time, .cal, .free]) (h : k.same s x) :
    ∃ t, execCommit a0 a1 x = .next t ∧ k.same s t := by
  unfold execCommit
  repeat' first
    | with_reducible assumption
    | with_reducible refine done_keeps (not_mem_of_subset hk ?_) ?_
    | with_reducible refine writeTo_keeps (not_mem_of_subset hk ?_) ?_
    | with_reducible refine ite_keeps ?_ ?_
    | with_reducible refine foldl_keeps ?_ (fun t a h => ?_)
    | dsimp -proj only
    | split
    | decide

theorem execSkipRateWindow_keeps {k : Comp} {s x : State} (hk : k ∉ [.evt, .heel, .lanes, .links, .store, .imc, .units, .nvm, .cal, .free]) (h : k.same s x) :
    ∃ t, execSkipRateWindow x = .next t ∧ k.same s t := by
  unfold execSkipRateWindow
  try dsimp -zeta -proj only [upd_lanes]
  repeat' first
    | with_reducible assumption
    | with_reducible refine done_keeps (not_mem_of_subset hk ?_) ?_
    | with_reducible refine putLanes_keeps (not_mem_of_subset hk ?_) ?_
    | with_reducible refine ite_keeps ?_ ?_
    | with_reducible refine foldl_keeps ?_ (fun t a h => ?_)
    | dsimp -proj only
    | split
    | decide

theorem clockLost_keeps {k : Comp} {s x : State} {a0 a1} (hk : k ∉ [.power, .welt, .evt, .lanes, .links, .last, .store, .units, .nvm, .cal, .free]) (h : k.same s x) :
    k.same s (clockLost x a0 a1) := by
  unfold clockLost
  repeat' first
    | with_reducible assumption
    | with_reducible refine forwardLost_keeps (not_mem_of_subset hk ?_) ?_
    | with_reducible refine markLost_keeps (not_mem_of_subset hk ?_) ?_
    | with_reducible refine afterLosses_keeps (not_mem_of_subset hk ?_) ?_
    | with_reducible refine ite_keeps ?_ ?_
    | with_reducible refine foldl_keeps ?_ (fun t a h => ?_)
    | dsimp -proj only
    | split
    | decide

theorem pllLost_keeps {k : Comp} {s x : State} {a0} (hk : k ∉ [.power, .welt, .evt, .lanes, .links, .last, .store, .units, .nvm, .cal, .free]) (h : k.same s x) :
    k.same s (pllLost x a0) := by
  unfold pllLost
  repeat' first
    | with_reducible assumption
    | with_reducible refine clockLost_keeps (not_mem_of_subset hk ?_) ?_
    | with_reducible refine ite_keeps ?_ ?_
    | with_reducible refine foldl_keeps ?_ (fun t a h => ?_)
    | dsimp -proj only
    | split
    | decide

theorem execSidePllLoss_keeps {k : Comp} {s x : State} {a0} (hk : k ∉ [.power, .welt, .evt, .heel, .lanes, .links, .last, .store, .imc, .units, .nvm, .cal, .free]) (h : k.same s x) :
    ∃ t, execSidePllLoss a0 x = .next t ∧ k.same s t := by
  unfold execSidePllLoss
  repeat' first
    | with_reducible assumption
    | with_reducible refine done_keeps (not_mem_of_subset hk ?_) ?_
    | with_reducible refine pllUnlocked_keeps (not_mem_of_subset hk ?_) ?_
    | with_reducible refine pllLost_keeps (not_mem_of_subset hk ?_) ?_
    | with_reducible refine ite_keeps ?_ ?_
    | with_reducible refine foldl_keeps ?_ (fun t a h => ?_)
    | dsimp -proj only
    | split
    | decide

theorem execCompletionWrite_keeps {k : Comp} {s x : State} {a0} (hk : k ∉ [.evt, .heel, .lanes, .links, .store, .win, .imc, .wqs, .cqs, .units, .nvm, .cal, .free]) (h : k.same s x) :
    ∃ t, execCompletionWrite a0 x = .next t ∧ k.same s t := by
  unfold execCompletionWrite
  repeat' first
    | with_reducible assumption
    | with_reducible refine done_keeps (not_mem_of_subset hk ?_) ?_
    | with_reducible refine flushDue_keeps (not_mem_of_subset hk ?_) ?_
    | with_reducible refine ite_keeps ?_ ?_
    | with_reducible refine foldl_keeps ?_ (fun t a h => ?_)
    | dsimp -proj only
    | split
    | decide

theorem setSuspended_keeps {k : Comp} {s x : State} {a0} (hk : k ∉ [.nvm]) (h : k.same s x) :
    k.same s (setSuspended x a0) := by
  unfold setSuspended
  try dsimp -zeta -proj only [upd_nvm]
  repeat' first
    | with_reducible assumption
    | with_reducible refine putNvm_keeps (not_mem_of_subset hk ?_) ?_
    | with_reducible refine ite_keeps ?_ ?_
    | with_reducible refine foldl_keeps ?_ (fun t a h => ?_)
    | dsimp -proj only
    | split
    | decide

theorem execCqheadWrite_keeps {k : Comp} {s x : State} {a0 a1 a2} (hk : k ∉ [.power, .boot, .dev, .welt, .therm, .evt, .heel, .lanes, .links, .last, .store, .win, .twb, .imc, .wqs, .cqs, .units, .slots, .sched, .awl, .nvm, .tm, .time, .cal, .free]) (h : k.same s x) :
    ∃ t, execCqheadWrite a0 a1 a2 x = .next t ∧ k.same s t := by
  unfold execCqheadWrite
  repeat' first
    | with_reducible assumption
    | with_reducible refine done_keeps (not_mem_of_subset hk ?_) ?_
    | with_reducible refine writeTo_keeps (not_mem_of_subset hk ?_) ?_
    | with_reducible refine ite_keeps ?_ ?_
    | with_reducible refine foldl_keeps ?_ (fun t a h => ?_)
    | dsimp -proj only
    | split
    | decide

theorem execRailInvalid_keeps {k : Comp} {s x : State} {a0} (hk : k ∉ [.power, .boot, .dev, .welt, .therm, .evt, .heel, .lanes, .links, .last, .store, .win, .twb, .imc, .jtag, .acc, .wqs, .cqs, .units, .slots, .sched, .awl, .nvm, .tm, .time, .cal, .free]) (h : k.same s x) :
    ∃ t, execRailInvalid a0 x = .next t ∧ k.same s t := by
  unfold execRailInvalid
  try dsimp -zeta -proj only [upd_jtag]
  repeat' first
    | with_reducible assumption
    | with_reducible refine done_keeps (not_mem_of_subset hk ?_) ?_
    | with_reducible refine settle_keeps (not_mem_of_subset hk ?_) ?_
    | with_reducible refine modPower_keeps (not_mem_of_subset hk ?_) ?_
    | with_reducible refine railOutside_keeps (not_mem_of_subset hk ?_) ?_
    | with_reducible refine enterReset_keeps (not_mem_of_subset hk ?_) ?_
    | with_reducible refine putJtag_keeps (not_mem_of_subset hk ?_) ?_
    | with_reducible refine ite_keeps ?_ ?_
    | with_reducible refine foldl_keeps ?_ (fun t a h => ?_)
    | dsimp -proj only
    | split
    | decide

theorem execTwbStartStop_keeps {k : Comp} {s x : State} {a0 a1} (hk : k ∉ [.evt, .heel, .lanes, .links, .store, .twb, .imc, .units, .nvm, .cal, .free]) (h : k.same s x) :
    ∃ t, execTwbStartStop a0 a1 x = .next t ∧ k.same s t := by
  unfold execTwbStartStop
  repeat' first
    | with_reducible assumption
    | with_reducible refine modTwb_keeps (not_mem_of_subset hk ?_) ?_
    | with_reducible refine done_keeps (not_mem_of_subset hk ?_) ?_
    | with_reducible refine ite_keeps ?_ ?_
    | with_reducible refine foldl_keeps ?_ (fun t a h => ?_)
    | dsimp -proj only
    | split
    | decide

theorem execWqResume_keeps {k : Comp} {s x : State} {a0 a1 a2} (hk : k ∉ [.power, .boot, .dev, .welt, .therm, .evt, .heel, .lanes, .links, .last, .store, .win, .twb, .imc, .wqs, .cqs, .units, .slots, .sched, .awl, .nvm, .tm, .time, .cal, .free]) (h : k.same s x) :
    ∃ t, execWqResume a0 a1 a2 x = .next t ∧ k.same s t := by
  unfold execWqResume
  repeat' first
    | with_reducible assumption
    | with_reducible refine done_keeps (not_mem_of_subset hk ?_) ?_
    | with_reducible refine writeTo_keeps (not_mem_of_subset hk ?_) ?_
    | with_reducible refine ite_keeps ?_ ?_
    | with_reducible refine foldl_keeps ?_ (fun t a h => ?_)
    | dsimp -proj only
    | split
    | decide

theorem execStandbyEntered_keeps {k : Comp} {s x : State} (hk : k ∉ [.power, .dev, .welt, .evt, .heel, .lanes, .links, .last, .store, .win, .imc, .wqs, .cqs, .units, .slots, .sched, .nvm, .tm, .cal, .free]) (h : k.same s x) :
    ∃ t, execStandbyEntered x = .next t ∧ k.same s t := by
  unfold execStandbyEntered
  repeat' first
    | with_reducible assumption
    | with_reducible refine enterStandby_keeps (not_mem_of_subset hk ?_) ?_
    | with_reducible refine done_keeps (not_mem_of_subset hk ?_) ?_
    | with_reducible refine ite_keeps ?_ ?_
    | with_reducible refine foldl_keeps ?_ (fun t a h => ?_)
    | dsimp -proj only
    | split
    | decide

theorem raiseWarn_keeps {k : Comp} {s x : State} {a0} (hk : k ∉ [.power, .welt, .therm, .evt, .lanes, .links, .last, .store, .units, .nvm, .cal, .free]) (h : k.same s x) :
    k.same s (raiseWarn x a0) := by
  unfold raiseWarn
  try dsimp -zeta -proj only [upd_therm]
  repeat' first
    | with_reducible assumption
    | with_reducible refine logEvent_keeps (not_mem_of_subset hk ?_) ?_
    | with_reducible refine settle_keeps (not_mem_of_subset hk ?_) ?_
    | with_reducible refine partAside_keeps (not_mem_of_subset hk ?_) ?_
    | with_reducible refine putTherm_keeps (not_mem_of_subset hk ?_) ?_
    | with_reducible refine ite_keeps ?_ ?_
    | with_reducible refine foldl_keeps ?_ (fun t a h => ?_)
    | dsimp -proj only
    | split
    | decide

theorem execThermalSample_keeps {k : Comp} {s x : State} {a0} (hk : k ∉ [.power, .welt, .therm, .evt, .heel, .lanes, .links, .last, .store, .imc, .units, .nvm, .cal, .free]) (h : k.same s x) :
    ∃ t, execThermalSample a0 x = .next t ∧ k.same s t := by
  unfold execThermalSample
  try dsimp -zeta -proj only [upd_therm]
  repeat' first
    | with_reducible assumption
    | with_reducible refine done_keeps (not_mem_of_subset hk ?_) ?_
    | with_reducible refine enterShutdown_keeps (not_mem_of_subset hk ?_) ?_
    | with_reducible refine raiseWarn_keeps (not_mem_of_subset hk ?_) ?_
    | with_reducible refine putTherm_keeps (not_mem_of_subset hk ?_) ?_
    | with_reducible refine ite_keeps ?_ ?_
    | with_reducible refine foldl_keeps ?_ (fun t a h => ?_)
    | dsimp -proj only
    | split
    | decide

theorem execNotifyRepeat_keeps {k : Comp} {s x : State} (hk : k ∉ [.evt, .heel, .lanes, .links, .store, .imc, .units, .nvm, .cal, .free]) (h : k.same s x) :
    ∃ t, execNotifyRepeat x = .next t ∧ k.same s t := by
  unfold execNotifyRepeat
  repeat' first
    | with_reducible assumption
    | with_reducible refine done_keeps (not_mem_of_subset hk ?_) ?_
    | with_reducible refine queueNotify_keeps (not_mem_of_subset hk ?_) ?_
    | with_reducible refine ite_keeps ?_ ?_
    | with_reducible refine foldl_keeps ?_ (fun t a h => ?_)
    | dsimp -proj only
    | split
    | decide

theorem execEpochUnsent_keeps {k : Comp} {s x : State} {a0 a1} (hk : k ∉ [.evt, .heel, .lanes, .links, .store, .imc, .units, .nvm, .cal, .free]) (h : k.same s x) :
    ∃ t, execEpochUnsent a0 a1 x = .next t ∧ k.same s t := by
  unfold execEpochUnsent
  repeat' first
    | with_reducible assumption
    | with_reducible refine done_keeps (not_mem_of_subset hk ?_) ?_
    | with_reducible refine clearMark_keeps (not_mem_of_subset hk ?_) ?_
    | with_reducible refine logK_keeps (not_mem_of_subset hk ?_) ?_
    | with_reducible refine ite_keeps ?_ ?_
    | with_reducible refine foldl_keeps ?_ (fun t a h => ?_)
    | dsimp -proj only
    | split
    | decide

theorem execDiscard_keeps {k : Comp} {s x : State} {a0 a1} (hk : k ∉ [.power, .boot, .dev, .welt, .therm, .evt, .heel, .lanes, .links, .last, .store, .win, .twb, .imc, .wqs, .cqs, .units, .slots, .sched, .awl, .nvm, .tm, .time, .cal, .free]) (h : k.same s x) :
    ∃ t, execDiscard a0 a1 x = .next t ∧ k.same s t := by
  unfold execDiscard
  repeat' first
    | with_reducible assumption
    | with_reducible refine done_keeps (not_mem_of_subset hk ?_) ?_
    | with_reducible refine writeTo_keeps (not_mem_of_subset hk ?_) ?_
    | with_reducible refine ite_keeps ?_ ?_
    | with_reducible refine foldl_keeps ?_ (fun t a h => ?_)
    | dsimp -proj only
    | split
    | decide

theorem execLnklossUncap_keeps {k : Comp} {s x : State} {a0 a1 a2} (hk : k ∉ [.power, .boot, .dev, .welt, .therm, .evt, .heel, .lanes, .links, .last, .store, .win, .twb, .imc, .wqs, .cqs, .units, .slots, .sched, .awl, .nvm, .tm, .time, .cal, .free]) (h : k.same s x) :
    ∃ t, execLnklossUncap a0 a1 a2 x = .next t ∧ k.same s t := by
  unfold execLnklossUncap
  repeat' first
    | with_reducible assumption
    | with_reducible refine done_keeps (not_mem_of_subset hk ?_) ?_
    | with_reducible refine writeTo_keeps (not_mem_of_subset hk ?_) ?_
    | with_reducible refine ite_keeps ?_ ?_
    | with_reducible refine foldl_keeps ?_ (fun t a h => ?_)
    | dsimp -proj only
    | split
    | decide

theorem execJobStart_keeps {k : Comp} {s x : State} {a0 a1} (hk : k ∉ [.evt, .heel, .lanes, .links, .last, .store, .imc, .wqs, .units, .slots, .sched, .nvm, .cal, .free]) (h : k.same s x) :
    ∃ t, execJobStart a0 a1 x = .next t ∧ k.same s t := by
  unfold execJobStart
  repeat' first
    | with_reducible assumption
    | with_reducible refine done_keeps (not_mem_of_subset hk ?_) ?_
    | with_reducible refine startJob_keeps (not_mem_of_subset hk ?_) ?_
    | with_reducible refine ite_keeps ?_ ?_
    | with_reducible refine foldl_keeps ?_ (fun t a h => ?_)
    | dsimp -proj only
    | split
    | decide

theorem execTwbSleep_keeps {k : Comp} {s x : State} (hk : k ∉ [.evt, .heel, .lanes, .links, .store, .twb, .imc, .units, .nvm, .cal, .free]) (h : k.same s x) :
    ∃ t, execTwbSleep x = .next t ∧ k.same s t := by
  unfold execTwbSleep
  repeat' first
    | with_reducible assumption
    | with_reducible refine modTwb_keeps (not_mem_of_subset hk ?_) ?_
    | with_reducible refine done_keeps (not_mem_of_subset hk ?_) ?_
    | with_reducible refine ite_keeps ?_ ?_
    | with_reducible refine foldl_keeps ?_ (fun t a h => ?_)
    | dsimp -proj only
    | split
    | decide

theorem execWqReset_keeps {k : Comp} {s x : State} {a0 a1 a2} (hk : k ∉ [.power, .boot, .dev, .welt, .therm, .evt, .heel, .lanes, .links, .last, .store, .win, .twb, .imc, .wqs, .cqs, .units, .slots, .sched, .awl, .nvm, .tm, .time, .cal, .free]) (h : k.same s x) :
    ∃ t, execWqReset a0 a1 a2 x = .next t ∧ k.same s t := by
  unfold execWqReset
  repeat' first
    | with_reducible assumption
    | with_reducible refine done_keeps (not_mem_of_subset hk ?_) ?_
    | with_reducible refine writeTo_keeps (not_mem_of_subset hk ?_) ?_
    | with_reducible refine ite_keeps ?_ ?_
    | with_reducible refine foldl_keeps ?_ (fun t a h => ?_)
    | dsimp -proj only
    | split
    | decide

theorem execJoinTrigger_keeps {k : Comp} {s x : State} {a0 a1} (hk : k ∉ [.power, .welt, .evt, .heel, .lanes, .links, .last, .store, .imc, .units, .nvm, .cal, .free]) (h : k.same s x) :
    ∃ t, execJoinTrigger a0 a1 x = .next t ∧ k.same s t := by
  unfold execJoinTrigger
  repeat' first
    | with_reducible assumption
    | with_reducible refine done_keeps (not_mem_of_subset hk ?_) ?_
    | with_reducible refine startJoin_keeps (not_mem_of_subset hk ?_) ?_
    | with_reducible refine ite_keeps ?_ ?_
    | with_reducible refine foldl_keeps ?_ (fun t a h => ?_)
    | dsimp -proj only
    | split
    | decide

theorem execLogTokenTick_keeps {k : Comp} {s x : State} (hk : k ∉ [.evt, .heel, .lanes, .links, .store, .imc, .units, .nvm, .cal, .free]) (h : k.same s x) :
    ∃ t, execLogTokenTick x = .next t ∧ k.same s t := by
  unfold execLogTokenTick
  try dsimp -zeta -proj only [upd_nvm]
  repeat' first
    | with_reducible assumption
    | with_reducible refine done_keeps (not_mem_of_subset hk ?_) ?_
    | with_reducible refine putNvm_keeps (not_mem_of_subset hk ?_) ?_
    | with_reducible refine ite_keeps ?_ ?_
    | with_reducible refine foldl_keeps ?_ (fun t a h => ?_)
    | dsimp -proj only
    | split
    | decide

theorem execRateDetected_keeps {k : Comp} {s x : State} {a0 a1 a2} (hk : k ∉ [.evt, .heel, .lanes, .links, .store, .imc, .units, .nvm, .cal, .free]) (h : k.same s x) :
    ∃ t, execRateDetected a0 a1 a2 x = .next t ∧ k.same s t := by
  unfold execRateDetected
  repeat' first
    | with_reducible assumption
    | with_reducible refine done_keeps (not_mem_of_subset hk ?_) ?_
    | with_reducible refine rateSeen_keeps (not_mem_of_subset hk ?_) ?_
    | with_reducible refine ite_keeps ?_ ?_
    | with_reducible refine foldl_keeps ?_ (fun t a h => ?_)
    | dsimp -proj only
    | split
    | decide

theorem execLnctlBitslip_keeps {k : Comp} {s x : State} {a0 a1 a2 a3} (hk : k ∉ [.power, .boot, .dev, .welt, .therm, .evt, .heel, .lanes, .links, .last, .store, .win, .twb, .imc, .wqs, .cqs, .units, .slots, .sched, .awl, .nvm, .tm, .time, .cal, .free]) (h : k.same s x) :
    ∃ t, execLnctlBitslip a0 a1 a2 a3 x = .next t ∧ k.same s t := by
  unfold execLnctlBitslip
  repeat' first
    | with_reducible assumption
    | with_reducible refine done_keeps (not_mem_of_subset hk ?_) ?_
    | with_reducible refine writeTo_keeps (not_mem_of_subset hk ?_) ?_
    | with_reducible refine ite_keeps ?_ ?_
    | with_reducible refine foldl_keeps ?_ (fun t a h => ?_)
    | dsimp -proj only
    | split
    | decide

theorem execForcedIdleRetrain_keeps {k : Comp} {s x : State} {a0} (hk : k ∉ [.power, .welt, .evt, .heel, .lanes, .links, .last, .store, .imc, .units, .nvm, .cal, .free]) (h : k.same s x) :
    ∃ t, execForcedIdleRetrain a0 x = .next t ∧ k.same s t := by
  unfold execForcedIdleRetrain
  repeat' first
    | with_reducible assumption
    | with_reducible refine done_keeps (not_mem_of_subset hk ?_) ?_
    | with_reducible refine modLink_keeps (not_mem_of_subset hk ?_) ?_
    | with_reducible refine enterRetrain_keeps (not_mem_of_subset hk ?_) ?_
    | with_reducible refine ite_keeps ?_ ?_
    | with_reducible refine foldl_keeps ?_ (fun t a h => ?_)
    | dsimp -proj only
    | split
    | decide

theorem execTwbWriteWord_keeps {k : Comp} {s x : State} {a0 a1} (hk : k ∉ [.power, .boot, .dev, .welt, .therm, .evt, .heel, .lanes, .links, .last, .store, .win, .twb, .imc, .wqs, .cqs, .units, .slots, .sched, .awl, .nvm, .tm, .time, .cal, .free]) (h : k.same s x) :
    ∃ t, execTwbWriteWord a0 a1 x = .next t ∧ k.same s t := by
  unfold execTwbWriteWord
  repeat' first
    | with_reducible assumption
    | with_reducible refine modTwb_keeps (not_mem_of_subset hk ?_) ?_
    | with_reducible refine done_keeps (not_mem_of_subset hk ?_) ?_
    | with_reducible refine busWrite_keeps (not_mem_of_subset hk ?_) ?_
    | with_reducible refine upset_keeps (not_mem_of_subset hk ?_) ?_
    | with_reducible refine ite_keeps ?_ ?_
    | with_reducible refine foldl_keeps ?_ (fun t a h => ?_)
    | dsimp -proj only
    | split
    | decide

theorem execStoreWrite_keeps {k : Comp} {s x : State} {a0 a1 a2 a3} (hk : k ∉ [.power, .boot, .dev, .welt, .therm, .evt, .heel, .lanes, .links, .last, .store, .win, .twb, .imc, .wqs, .cqs, .units, .slots, .sched, .awl, .nvm, .tm, .time, .cal, .free]) (h : k.same s x) :
    ∃ t, execStoreWrite a0 a1 a2 a3 x = .next t ∧ k.same s t := by
  unfold execStoreWrite
  repeat' first
    | with_reducible assumption
    | with_reducible refine done_keeps (not_mem_of_subset hk ?_) ?_
    | with_reducible refine busWrite_keeps (not_mem_of_subset hk ?_) ?_
    | with_reducible refine upset_keeps (not_mem_of_subset hk ?_) ?_
    | with_reducible refine ite_keeps ?_ ?_
    | with_reducible refine foldl_keeps ?_ (fun t a h => ?_)
    | dsimp -proj only
    | split
    | decide

theorem execWqEnable_keeps {k : Comp} {s x : State} {a0 a1 a2} (hk : k ∉ [.power, .boot, .dev, .welt, .therm, .evt, .heel, .lanes, .links, .last, .store, .win, .twb, .imc, .wqs, .cqs, .units, .slots, .sched, .awl, .nvm, .tm, .time, .cal, .free]) (h : k.same s x) :
    ∃ t, execWqEnable a0 a1 a2 x = .next t ∧ k.same s t := by
  unfold execWqEnable
  repeat' first
    | with_reducible assumption
    | with_reducible refine done_keeps (not_mem_of_subset hk ?_) ?_
    | with_reducible refine writeTo_keeps (not_mem_of_subset hk ?_) ?_
    | with_reducible refine ite_keeps ?_ ?_
    | with_reducible refine foldl_keeps ?_ (fun t a h => ?_)
    | dsimp -proj only
    | split
    | decide

theorem State_withFetchWord_keeps {k : Comp} {s x : State} {a0 a1} (hk : k ∉ [.pending]) (h : k.same s x) :
    k.same s (State.withFetchWord x a0 a1) := by
  unfold State.withFetchWord
  try dsimp -zeta -proj only [upd_pending]
  repeat' first
    | with_reducible assumption
    | with_reducible refine putPending_keeps (not_mem_of_subset hk ?_) ?_
    | with_reducible refine ite_keeps ?_ ?_
    | with_reducible refine foldl_keeps ?_ (fun t a h => ?_)
    | dsimp -proj only
    | split
    | decide

theorem execSyncEdge_keeps {k : Comp} {s x : State} (hk : k ∉ [.evt, .heel, .lanes, .links, .store, .imc, .units, .nvm, .tm, .time, .cal, .free]) (h : k.same s x) :
    ∃ t, execSyncEdge x = .next t ∧ k.same s t := by
  unfold execSyncEdge
  repeat' first
    | with_reducible assumption
    | with_reducible refine done_keeps (not_mem_of_subset hk ?_) ?_
    | with_reducible refine syncSeen_keeps (not_mem_of_subset hk ?_) ?_
    | with_reducible refine ite_keeps ?_ ?_
    | with_reducible refine foldl_keeps ?_ (fun t a h => ?_)
    | dsimp -proj only
    | split
    | decide

theorem scanRow_keeps {k : Comp} {s x : State} {a0 a1 a2 a3} (hk : k ∉ [.evt, .heel, .last, .store, .win, .wqs, .cqs, .units, .slots, .sched, .nvm]) (h : k.same s x) :
    k.same s (scanRow x a0 a1 a2 a3) := by
  unfold scanRow
  repeat' first
    | with_reducible assumption
    | with_reducible refine writeHeldScan_keeps (not_mem_of_subset hk ?_) ?_
    | with_reducible refine keepJob_keeps (not_mem_of_subset hk ?_) ?_
    | with_reducible refine scanGoesOn_keeps (not_mem_of_subset hk ?_) ?_
    | with_reducible refine putData_keeps (not_mem_of_subset hk ?_) ?_
    | with_reducible refine putData_keeps_eq (not_mem_of_subset hk ?_) ?_ (by with_reducible assumption)
    | with_reducible refine ite_keeps ?_ ?_
    | with_reducible refine foldl_keeps ?_ (fun t a h => ?_)
    | dsimp -proj only
    | split
    | decide

theorem execAdcSelfCalEnd_keeps {k : Comp} {s x : State} (hk : k ∉ [.evt, .heel, .lanes, .links, .store, .imc, .units, .nvm, .tm, .cal, .free]) (h : k.same s x) :
    ∃ t, execAdcSelfCalEnd x = .next t ∧ k.same s t := by
  unfold execAdcSelfCalEnd
  try dsimp -zeta -proj only [upd_cal]
  repeat' first
    | with_reducible assumption
    | with_reducible refine done_keeps (not_mem_of_subset hk ?_) ?_
    | with_reducible refine resetDecimator_keeps (not_mem_of_subset hk ?_) ?_
    | with_reducible refine putCal_keeps (not_mem_of_subset hk ?_) ?_
    | with_reducible refine ite_keeps ?_ ?_
    | with_reducible refine foldl_keeps ?_ (fun t a h => ?_)
    | dsimp -proj only
    | split
    | decide

theorem execHeaderWrite_keeps {k : Comp} {s x : State} {a0} (hk : k ∉ [.evt, .heel, .lanes, .links, .store, .win, .imc, .wqs, .cqs, .units, .nvm, .cal, .free]) (h : k.same s x) :
    ∃ t, execHeaderWrite a0 x = .next t ∧ k.same s t := by
  unfold execHeaderWrite
  repeat' first
    | with_reducible assumption
    | with_reducible refine done_keeps (not_mem_of_subset hk ?_) ?_
    | with_reducible refine modWq_keeps (not_mem_of_subset hk ?_) ?_
    | with_reducible refine jobWrite_keeps (not_mem_of_subset hk ?_) ?_
    | with_reducible refine jobWrite_keeps_eq (not_mem_of_subset hk ?_) ?_ (by with_reducible assumption)
    | with_reducible refine headerFault_keeps (not_mem_of_subset hk ?_) ?_
    | with_reducible refine ite_keeps ?_ ?_
    | with_reducible refine foldl_keeps ?_ (fun t a h => ?_)
    | dsimp -proj only
    | split
    | decide

theorem execTwbWake_keeps {k : Comp} {s x : State} {a0} (hk : k ∉ [.evt, .heel, .lanes, .links, .store, .twb, .imc, .units, .nvm, .cal, .free]) (h : k.same s x) :
    ∃ t, execTwbWake a0 x = .next t ∧ k.same s t := by
  unfold execTwbWake
  repeat' first
    | with_reducible assumption
    | with_reducible refine done_keeps (not_mem_of_subset hk ?_) ?_
    | with_reducible refine addressByte_keeps (not_mem_of_subset hk ?_) ?_
    | with_reducible refine ite_keeps ?_ ?_
    | with_reducible refine foldl_keeps ?_ (fun t a h => ?_)
    | dsimp -proj only
    | split
    | decide

theorem execPrbsLockLost_keeps {k : Comp} {s x : State} {a0 a1} (hk : k ∉ [.evt, .heel, .lanes, .links, .store, .imc, .units, .nvm, .cal, .free]) (h : k.same s x) :
    ∃ t, execPrbsLockLost a0 a1 x = .next t ∧ k.same s t := by
  unfold execPrbsLockLost
  repeat' first
    | with_reducible assumption
    | with_reducible refine done_keeps (not_mem_of_subset hk ?_) ?_
    | with_reducible refine logL_keeps (not_mem_of_subset hk ?_) ?_
    | with_reducible refine modMeas_keeps (not_mem_of_subset hk ?_) ?_
    | with_reducible refine modPrbsJob_keeps (not_mem_of_subset hk ?_) ?_
    | with_reducible refine ite_keeps ?_ ?_
    | with_reducible refine foldl_keeps ?_ (fun t a h => ?_)
    | dsimp -proj only
    | split
    | decide

theorem execAwlUnit_keeps {k : Comp} {s x : State} {a0 a1} (hk : k ∉ [.power, .boot, .dev, .welt, .therm, .evt, .heel, .lanes, .links, .last, .store, .win, .twb, .imc, .wqs, .cqs, .units, .slots, .sched, .awl, .nvm, .tm, .time, .cal, .free]) (h : k.same s x) :
    ∃ t, execAwlUnit a0 a1 x = .next t ∧ k.same s t := by
  unfold execAwlUnit
  repeat' first
    | with_reducible assumption
    | with_reducible refine done_keeps (not_mem_of_subset hk ?_) ?_
    | with_reducible refine writeTo_keeps (not_mem_of_subset hk ?_) ?_
    | with_reducible refine ite_keeps ?_ ?_
    | with_reducible refine foldl_keeps ?_ (fun t a h => ?_)
    | dsimp -proj only
    | split
    | decide

theorem execSequencerTimerTrigger_keeps {k : Comp} {s x : State} {a0} (hk : k ∉ [.evt, .heel, .lanes, .links, .store, .imc, .units, .nvm, .tm, .cal, .free]) (h : k.same s x) :
    ∃ t, execSequencerTimerTrigger a0 x = .next t ∧ k.same s t := by
  unfold execSequencerTimerTrigger
  repeat' first
    | with_reducible assumption
    | with_reducible refine done_keeps (not_mem_of_subset hk ?_) ?_
    | with_reducible refine trigger_keeps (not_mem_of_subset hk ?_) ?_
    | with_reducible refine trigger_keeps_eq (not_mem_of_subset hk ?_) ?_ (by with_reducible assumption)
    | with_reducible refine ite_keeps ?_ ?_
    | with_reducible refine foldl_keeps ?_ (fun t a h => ?_)
    | dsimp -proj only
    | split
    | decide

theorem execEraseResume_keeps {k : Comp} {s x : State} (hk : k ∉ [.evt, .heel, .lanes, .links, .store, .imc, .units, .nvm, .cal, .free]) (h : k.same s x) :
    ∃ t, execEraseResume x = .next t ∧ k.same s t := by
  unfold execEraseResume
  try dsimp -zeta -proj only [upd_nvm]
  repeat' first
    | with_reducible assumption
    | with_reducible refine done_keeps (not_mem_of_subset hk ?_) ?_
    | with_reducible refine putNvm_keeps (not_mem_of_subset hk ?_) ?_
    | with_reducible refine ite_keeps ?_ ?_
    | with_reducible refine foldl_keeps ?_ (fun t a h => ?_)
    | dsimp -proj only
    | split
    | decide

theorem execIdlePeriodEnd_keeps {k : Comp} {s x : State} {a0} (hk : k ∉ [.power, .welt, .evt, .heel, .lanes, .links, .last, .store, .imc, .units, .nvm, .cal, .free]) (h : k.same s x) :
    ∃ t, execIdlePeriodEnd a0 x = .next t ∧ k.same s t := by
  unfold execIdlePeriodEnd
  repeat' first
    | with_reducible assumption
    | with_reducible refine done_keeps (not_mem_of_subset hk ?_) ?_
    | with_reducible refine modLink_keeps (not_mem_of_subset hk ?_) ?_
    | with_reducible refine enterDetect_keeps (not_mem_of_subset hk ?_) ?_
    | with_reducible refine ite_keeps ?_ ?_
    | with_reducible refine foldl_keeps ?_ (fun t a h => ?_)
    | dsimp -proj only
    | split
    | decide

theorem execLoopFarEnd_keeps {k : Comp} {s x : State} {a0 a1 a2 a3} (hk : k ∉ [.power, .boot, .dev, .welt, .therm, .evt, .heel, .lanes, .links, .last, .store, .win, .twb, .imc, .wqs, .cqs, .units, .slots, .sched, .awl, .nvm, .tm, .time, .cal, .free]) (h : k.same s x) :
    ∃ t, execLoopFarEnd a0 a1 a2 a3 x = .next t ∧ k.same s t := by
  unfold execLoopFarEnd
  repeat' first
    | with_reducible assumption
    | with_reducible refine done_keeps (not_mem_of_subset hk ?_) ?_
    | with_reducible refine writeTo_keeps (not_mem_of_subset hk ?_) ?_
    | with_reducible refine ite_keeps ?_ ?_
    | with_reducible refine foldl_keeps ?_ (fun t a h => ?_)
    | dsimp -proj only
    | split
    | decide

theorem suspendForJob_keeps {k : Comp} {s x : State} (hk : k ∉ [.units, .nvm]) (h : k.same s x) :
    k.same s (suspendForJob x) := by
  unfold suspendForJob
  try dsimp -zeta -proj only [upd_nvm]
  repeat' first
    | with_reducible assumption
    | with_reducible refine setSuspended_keeps (not_mem_of_subset hk ?_) ?_
    | with_reducible refine keepJob_keeps (not_mem_of_subset hk ?_) ?_
    | with_reducible refine putNvm_keeps (not_mem_of_subset hk ?_) ?_
    | with_reducible refine ite_keeps ?_ ?_
    | with_reducible refine foldl_keeps ?_ (fun t a h => ?_)
    | dsimp -proj only
    | split
    | decide

theorem execSpareLockTimer_keeps {k : Comp} {s x : State} {a0 a1 a2 a3} (hk : k ∉ [.evt, .heel, .lanes, .links, .store, .imc, .units, .nvm, .cal, .free]) (h : k.same s x) :
    ∃ t, execSpareLockTimer a0 a1 a2 a3 x = .next t ∧ k.same s t := by
  unfold execSpareLockTimer
  repeat' first
    | with_reducible assumption
    | with_reducible refine done_keeps (not_mem_of_subset hk ?_) ?_
    | with_reducible refine setSpare_keeps (not_mem_of_subset hk ?_) ?_
    | with_reducible refine ite_keeps ?_ ?_
    | with_reducible refine foldl_keeps ?_ (fun t a h => ?_)
    | dsimp -proj only
    | split
    | decide

theorem execJobEnd_keeps {k : Comp} {s x : State} {a0} (hk : k ∉ [.evt, .heel, .lanes, .links, .store, .win, .imc, .wqs, .cqs, .units, .nvm, .cal, .free]) (h : k.same s x) :
    ∃ t, execJobEnd a0 x = .next t ∧ k.same s t := by
  unfold execJobEnd
  repeat' first
    | with_reducible assumption
    | with_reducible refine done_keeps (not_mem_of_subset hk ?_) ?_
    | with_reducible refine ownDone_keeps (not_mem_of_subset hk ?_) ?_
    | with_reducible refine retireJob_keeps (not_mem_of_subset hk ?_) ?_
    | with_reducible refine ite_keeps ?_ ?_
    | with_reducible refine foldl_keeps ?_ (fun t a h => ?_)
    | dsimp -proj only
    | split
    | decide

theorem writePrbs_keeps {k : Comp} {s x : State} {a0 a1} (hk : k ∉ [.evt, .heel, .last, .store, .win, .wqs, .cqs, .units, .slots, .sched, .nvm]) (h : k.same s x) :
    k.same s (writePrbs x a0 a1) := by
  unfold writePrbs
  repeat' first
    | with_reducible assumption
    | with_reducible refine finishWith_keeps (not_mem_of_subset hk ?_) ?_
    | with_reducible refine putData_keeps (not_mem_of_subset hk ?_) ?_
    | with_reducible refine putData_keeps_eq (not_mem_of_subset hk ?_) ?_ (by with_reducible assumption)
    | with_reducible refine ite_keeps ?_ ?_
    | with_reducible refine foldl_keeps ?_ (fun t a h => ?_)
    | dsimp -proj only
    | split
    | decide

theorem execPrbsJobDurationEnd_keeps {k : Comp} {s x : State} {a0 a1} (hk : k ∉ [.evt, .heel, .lanes, .links, .last, .store, .win, .imc, .wqs, .cqs, .units, .slots, .sched, .nvm, .cal, .free]) (h : k.same s x) :
    ∃ t, execPrbsJobDurationEnd a0 a1 x = .next t ∧ k.same s t := by
  unfold execPrbsJobDurationEnd
  repeat' first
    | with_reducible assumption
    | with_reducible refine done_keeps (not_mem_of_subset hk ?_) ?_
    | with_reducible refine stopPrbs_keeps (not_mem_of_subset hk ?_) ?_
    | with_reducible refine writePrbs_keeps (not_mem_of_subset hk ?_) ?_
    | with_reducible refine coolIdle_keeps (not_mem_of_subset hk ?_) ?_
    | with_reducible refine ite_keeps ?_ ?_
    | with_reducible refine foldl_keeps ?_ (fun t a h => ?_)
    | dsimp -proj only
    | split
    | decide

theorem execEraseSuspend_keeps {k : Comp} {s x : State} {a0} (hk : k ∉ [.evt, .heel, .lanes, .links, .store, .imc, .units, .nvm, .cal, .free]) (h : k.same s x) :
    ∃ t, execEraseSuspend a0 x = .next t ∧ k.same s t := by
  unfold execEraseSuspend
  repeat' first
    | with_reducible assumption
    | with_reducible refine setSuspended_keeps (not_mem_of_subset hk ?_) ?_
    | with_reducible refine done_keeps (not_mem_of_subset hk ?_) ?_
    | with_reducible refine ownDone_keeps (not_mem_of_subset hk ?_) ?_
    | with_reducible refine suspendForJob_keeps (not_mem_of_subset hk ?_) ?_
    | with_reducible refine ite_keeps ?_ ?_
    | with_reducible refine foldl_keeps ?_ (fun t a h => ?_)
    | dsimp -proj only
    | split
    | decide

theorem execTwbAddress_keeps {k : Comp} {s x : State} {a0 a1} (hk : k ∉ [.evt, .heel, .lanes, .links, .store, .twb, .imc, .units, .nvm, .cal, .free]) (h : k.same s x) :
    ∃ t, execTwbAddress a0 a1 x = .next t ∧ k.same s t := by
  unfold execTwbAddress
  repeat' first
    | with_reducible assumption
    | with_reducible refine done_keeps (not_mem_of_subset hk ?_) ?_
    | with_reducible refine addressByte_keeps (not_mem_of_subset hk ?_) ?_
    | with_reducible refine ite_keeps ?_ ?_
    | with_reducible refine foldl_keeps ?_ (fun t a h => ?_)
    | dsimp -proj only
    | split
    | decide

theorem execDevctlWake_keeps {k : Comp} {s x : State} {a0 a1} (hk : k ∉ [.power, .boot, .dev, .welt, .therm, .evt, .heel, .lanes, .links, .last, .store, .win, .twb, .imc, .wqs, .cqs, .units, .slots, .sched, .awl, .nvm, .tm, .time, .cal, .free]) (h : k.same s x) :
    ∃ t, execDevctlWake a0 a1 x = .next t ∧ k.same s t := by
  unfold execDevctlWake
  repeat' first
    | with_reducible assumption
    | with_reducible refine done_keeps (not_mem_of_subset hk ?_) ?_
    | with_reducible refine writeTo_keeps (not_mem_of_subset hk ?_) ?_
    | with_reducible refine ite_keeps ?_ ?_
    | with_reducible refine foldl_keeps ?_ (fun t a h => ?_)
    | dsimp -proj only
    | split
    | decide

theorem execLnkspcmdBack_keeps {k : Comp} {s x : State} {a0 a1 a2} (hk : k ∉ [.power, .boot, .dev, .welt, .therm, .evt, .heel, .lanes, .links, .last, .store, .win, .twb, .imc, .wqs, .cqs, .units, .slots, .sched, .awl, .nvm, .tm, .time, .cal, .free]) (h : k.same s x) :
    ∃ t, execLnkspcmdBack a0 a1 a2 x = .next t ∧ k.same s t := by
  unfold execLnkspcmdBack
  repeat' first
    | with_reducible assumption
    | with_reducible refine done_keeps (not_mem_of_subset hk ?_) ?_
    | with_reducible refine writeTo_keeps (not_mem_of_subset hk ?_) ?_
    | with_reducible refine ite_keeps ?_ ?_
    | with_reducible refine foldl_keeps ?_ (fun t a h => ?_)
    | dsimp -proj only
    | split
    | decide

theorem execLnsnapTake_keeps {k : Comp} {s x : State} {a0 a1 a2 a3} (hk : k ∉ [.power, .boot, .dev, .welt, .therm, .evt, .heel, .lanes, .links, .last, .store, .win, .twb, .imc, .wqs, .cqs, .units, .slots, .sched, .awl, .nvm, .tm, .time, .cal, .free]) (h : k.same s x) :
    ∃ t, execLnsnapTake a0 a1 a2 a3 x = .next t ∧ k.same s t := by
  unfold execLnsnapTake
  repeat' first
    | with_reducible assumption
    | with_reducible refine done_keeps (not_mem_of_subset hk ?_) ?_
    | with_reducible refine writeTo_keeps (not_mem_of_subset hk ?_) ?_
    | with_reducible refine ite_keeps ?_ ?_
    | with_reducible refine foldl_keeps ?_ (fun t a h => ?_)
    | dsimp -proj only
    | split
    | decide

theorem execLnkctlJoin_keeps {k : Comp} {s x : State} {a0 a1 a2} (hk : k ∉ [.power, .boot, .dev, .welt, .therm, .evt, .heel, .lanes, .links, .last, .store, .win, .twb, .imc, .wqs, .cqs, .units, .slots, .sched, .awl, .nvm, .tm, .time, .cal, .free]) (h : k.same s x) :
    ∃ t, execLnkctlJoin a0 a1 a2 x = .next t ∧ k.same s t := by
  unfold execLnkctlJoin
  repeat' first
    | with_reducible assumption
    | with_reducible refine done_keeps (not_mem_of_subset hk ?_) ?_
    | with_reducible refine writeTo_keeps (not_mem_of_subset hk ?_) ?_
    | with_reducible refine ite_keeps ?_ ?_
    | with_reducible refine foldl_keeps ?_ (fun t a h => ?_)
    | dsimp -proj only
    | split
    | decide

theorem execLoopMasterMoved_keeps {k : Comp} {s x : State} {a0 a1} (hk : k ∉ [.evt, .heel, .lanes, .links, .store, .imc, .units, .nvm, .cal, .free]) (h : k.same s x) :
    ∃ t, execLoopMasterMoved a0 a1 x = .next t ∧ k.same s t := by
  unfold execLoopMasterMoved
  repeat' first
    | with_reducible assumption
    | with_reducible refine done_keeps (not_mem_of_subset hk ?_) ?_
    | with_reducible refine modLink_keeps (not_mem_of_subset hk ?_) ?_
    | with_reducible refine modRx_keeps (not_mem_of_subset hk ?_) ?_
    | with_reducible refine logLane_keeps (not_mem_of_subset hk ?_) ?_
    | with_reducible refine ite_keeps ?_ ?_
    | with_reducible refine foldl_keeps ?_ (fun t a h => ?_)
    | dsimp -proj only
    | split
    | decide

theorem execCommaReceived_keeps {k : Comp} {s x : State} {a0 a1 a2} (hk : k ∉ [.power, .welt, .evt, .heel, .lanes, .links, .last, .store, .imc, .units, .nvm, .cal, .free]) (h : k.same s x) :
    ∃ t, execCommaReceived a0 a1 a2 x = .next t ∧ k.same s t := by
  unfold execCommaReceived
  repeat' first
    | with_reducible assumption
    | with_reducible refine done_keeps (not_mem_of_subset hk ?_) ?_
    | with_reducible refine lockFollows_keeps (not_mem_of_subset hk ?_) ?_
    | with_reducible refine modRx_keeps (not_mem_of_subset hk ?_) ?_
    | with_reducible refine symLossRetrain_keeps (not_mem_of_subset hk ?_) ?_
    | with_reducible refine ite_keeps ?_ ?_
    | with_reducible refine foldl_keeps ?_ (fun t a h => ?_)
    | dsimp -proj only
    | split
    | decide

theorem execIdleEntrySetReceived_keeps {k : Comp} {s x : State} {a0 a1} (hk : k ∉ [.power, .welt, .evt, .heel, .lanes, .links, .last, .store, .imc, .units, .nvm, .cal, .free]) (h : k.same s x) :
    ∃ t, execIdleEntrySetReceived a0 a1 x = .next t ∧ k.same s t := by
  unfold execIdleEntrySetReceived
  repeat' first
    | with_reducible assumption
    | with_reducible refine done_keeps (not_mem_of_subset hk ?_) ?_
    | with_reducible refine idleEntry_keeps (not_mem_of_subset hk ?_) ?_
    | with_reducible refine ite_keeps ?_ ?_
    | with_reducible refine foldl_keeps ?_ (fun t a h => ?_)
    | dsimp -proj only
    | split
    | decide

theorem execJtagTapReset_keeps {k : Comp} {s x : State} (hk : k ∉ [.pins, .evt, .heel, .lanes, .links, .store, .imc, .jtag, .units, .nvm, .cal, .free]) (h : k.same s x) :
    ∃ t, execJtagTapReset x = .next t ∧ k.same s t := by
  unfold execJtagTapReset
  try dsimp -zeta -proj only [upd_pins_jtag]
  repeat' first
    | with_reducible assumption
    | with_reducible refine done_keeps (not_mem_of_subset hk ?_) ?_
    | with_reducible refine putPins_keeps (not_mem_of_subset hk ?_) ?_
    | with_reducible refine putJtag_keeps (not_mem_of_subset hk ?_) ?_
    | with_reducible refine ite_keeps ?_ ?_
    | with_reducible refine foldl_keeps ?_ (fun t a h => ?_)
    | dsimp -proj only
    | split
    | decide

theorem execUnrecoveredTimeout_keeps {k : Comp} {s x : State} {a0 a1 a2} (hk : k ∉ [.evt, .heel, .lanes, .links, .store, .imc, .units, .nvm, .cal, .free]) (h : k.same s x) :
    ∃ t, execUnrecoveredTimeout a0 a1 a2 x = .next t ∧ k.same s t := by
  unfold execUnrecoveredTimeout
  repeat' first
    | with_reducible assumption
    | with_reducible refine done_keeps (not_mem_of_subset hk ?_) ?_
    | with_reducible refine setUnrecovered_keeps (not_mem_of_subset hk ?_) ?_
    | with_reducible refine ite_keeps ?_ ?_
    | with_reducible refine foldl_keeps ?_ (fun t a h => ?_)
    | dsimp -proj only
    | split
    | decide

theorem execLoopNearSerial_keeps {k : Comp} {s x : State} {a0 a1 a2 a3} (hk : k ∉ [.power, .boot, .dev, .welt, .therm, .evt, .heel, .lanes, .links, .last, .store, .win, .twb, .imc, .wqs, .cqs, .units, .slots, .sched, .awl, .nvm, .tm, .time, .cal, .free]) (h : k.same s x) :
    ∃ t, execLoopNearSerial a0 a1 a2 a3 x = .next t ∧ k.same s t := by
  unfold execLoopNearSerial
  repeat' first
    | with_reducible assumption
    | with_reducible refine done_keeps (not_mem_of_subset hk ?_) ?_
    | with_reducible refine writeTo_keeps (not_mem_of_subset hk ?_) ?_
    | with_reducible refine ite_keeps ?_ ?_
    | with_reducible refine foldl_keeps ?_ (fun t a h => ?_)
    | dsimp -proj only
    | split
    | decide

theorem execJtagBypass_keeps {k : Comp} {s x : State} {a0} (hk : k ∉ [.evt, .heel, .lanes, .links, .store, .twb, .imc, .jtag, .units, .nvm, .cal, .free]) (h : k.same s x) :
    ∃ t, execJtagBypass a0 x = .next t ∧ k.same s t := by
  unfold execJtagBypass
  repeat' first
    | with_reducible assumption
    | with_reducible refine done_keeps (not_mem_of_subset hk ?_) ?_
    | with_reducible refine jtagLoad_keeps (not_mem_of_subset hk ?_) ?_
    | with_reducible refine modJtag_keeps (not_mem_of_subset hk ?_) ?_
    | with_reducible refine ite_keeps ?_ ?_
    | with_reducible refine foldl_keeps ?_ (fun t a h => ?_)
    | dsimp -proj only
    | split
    | decide

theorem execEyescan_keeps {k : Comp} {s x : State} {a0 a1 a2} (hk : k ∉ [.evt, .heel, .lanes, .links, .last, .store, .win, .imc, .wqs, .cqs, .units, .slots, .sched, .nvm, .cal, .free]) (h : k.same s x) :
    ∃ t, execEyescan a0 a1 a2 x = .next t ∧ k.same s t := by
  unfold execEyescan
  repeat' first
    | with_reducible assumption
    | with_reducible refine done_keeps (not_mem_of_subset hk ?_) ?_
    | with_reducible refine scanRow_keeps (not_mem_of_subset hk ?_) ?_
    | with_reducible refine ite_keeps ?_ ?_
    | with_reducible refine foldl_keeps ?_ (fun t a h => ?_)
    | dsimp -proj only
    | split
    | decide

theorem execAwlLane_keeps {k : Comp} {s x : State} {a0 a1} (hk : k ∉ [.power, .boot, .dev, .welt, .therm, .evt, .heel, .lanes, .links, .last, .store, .win, .twb, .imc, .wqs, .cqs, .units, .slots, .sched, .awl, .nvm, .tm, .time, .cal, .free]) (h : k.same s x) :
    ∃ t, execAwlLane a0 a1 x = .next t ∧ k.same s t := by
  unfold execAwlLane
  repeat' first
    | with_reducible assumption
    | with_reducible refine done_keeps (not_mem_of_subset hk ?_) ?_
    | with_reducible refine writeTo_keeps (not_mem_of_subset hk ?_) ?_
    | with_reducible refine ite_keeps ?_ ?_
    | with_reducible refine foldl_keeps ?_ (fun t a h => ?_)
    | dsimp -proj only
    | split
    | decide

theorem execArbitrationLost_keeps {k : Comp} {s x : State} (hk : k ∉ [.boot, .evt, .heel, .lanes, .links, .store, .imc, .units, .nvm, .cal, .free]) (h : k.same s x) :
    ∃ t, execArbitrationLost x = .next t ∧ k.same s t := by
  unfold execArbitrationLost
  dsimp -zeta -proj only [upd_boot]
  split
  · have g : k.same s (x.putBoot { x.boot with phase := 1, arbLost := x.boot.arbLost + 1 }) :=
      putBoot_keeps (not_mem_of_subset hk (by decide)) h
    refine done_keeps (not_mem_of_subset hk (by decide)) ?_
    exact ite_keeps (endEeprom_keeps (not_mem_of_subset hk (by decide)) g) g
  · exact done_keeps (not_mem_of_subset hk (by decide)) h

theorem exec_keeps {k : Comp} {s x : State} {a0} (hk : k ∉ [.pins, .power, .boot, .dev, .welt, .therm, .evt, .heel, .lanes, .links, .last, .store, .win, .twb, .imc, .jtag, .acc, .wqs, .cqs, .units, .slots, .sched, .awl, .nvm, .tm, .time, .cal, .free]) (h : k.same s x) :
    ∃ t, exec a0 x = .next t ∧ k.same s t := by
  cases a0 with
  | weltCauseArises c => exact execWeltCauseArises_keeps (a0 := c) (not_mem_of_subset hk (by decide)) h
  | weltCauseClears c => exact execWeltCauseClears_keeps (a0 := c) (not_mem_of_subset hk (by decide)) h
  | weltOpenConfirmed p => exact execWeltOpenConfirmed_keeps (a0 := p) (not_mem_of_subset hk (by decide)) h
  | chargePumpReady => exact execChargePumpReady_keeps (not_mem_of_subset hk (by decide)) h
  | railValid r => exact execRailValid_keeps (a0 := r) (not_mem_of_subset hk (by decide)) h
  | railInvalid r => exact execRailInvalid_keeps (a0 := r) (not_mem_of_subset hk (by decide)) h
  | supplyOutOfWindow r => exact execSupplyOutOfWindow_keeps (a0 := r) (not_mem_of_subset hk (by decide)) h
  | resetNPulse => exact execResetNPulse_keeps (not_mem_of_subset hk (by decide)) h
  | bypNPulse => exact execBypNPulse_keeps (not_mem_of_subset hk (by decide)) h
  | resetRelease st => exact execResetRelease_keeps (a0 := st) (not_mem_of_subset hk (by decide)) h
  | testEnHigh => exact execTestEnHigh_keeps (not_mem_of_subset hk (by decide)) h
  | lastSelection => exact execLastSelection_keeps (not_mem_of_subset hk (by decide)) h
  | eepromTransfer r => exact execEepromTransfer_keeps (a0 := r) (not_mem_of_subset hk (by decide)) h
  | arbitrationLost => exact execArbitrationLost_keeps (not_mem_of_subset hk (by decide)) h
  | globalApply => exact execGlobalApply_keeps (not_mem_of_subset hk (by decide)) h
  | bootCalibration m => exact execBootCalibration_keeps (a0 := m) (not_mem_of_subset hk (by decide)) h
  | bootDone => exact execBootDone_keeps (not_mem_of_subset hk (by decide)) h
  | calrecWrite ok => exact execCalrecWrite_keeps (a0 := ok) (not_mem_of_subset hk (by decide)) h
  | joinTrigger l k => exact execJoinTrigger_keeps (a0 := l) (a1 := k) (not_mem_of_subset hk (by decide)) h
  | joinTimeout l => exact execJoinTimeout_keeps (a0 := l) (not_mem_of_subset hk (by decide)) h
  | lnkctlJoin c l v => exact execLnkctlJoin_keeps (a0 := c) (a1 := l) (a2 := v) (not_mem_of_subset hk (by decide)) h
  | lnkctlAside c l v => exact execLnkctlAside_keeps (a0 := c) (a1 := l) (a2 := v) (not_mem_of_subset hk (by decide)) h
  | devctlAside c v => exact execDevctlAside_keeps (a0 := c) (a1 := v) (not_mem_of_subset hk (by decide)) h
  | devctlStandby c v => exact execDevctlStandby_keeps (a0 := c) (a1 := v) (not_mem_of_subset hk (by decide)) h
  | standbyEntered => exact execStandbyEntered_keeps (not_mem_of_subset hk (by decide)) h
  | devctlWake c v => exact execDevctlWake_keeps (a0 := c) (a1 := v) (not_mem_of_subset hk (by decide)) h
  | standbyExitDone => exact execStandbyExitDone_keeps (not_mem_of_subset hk (by decide)) h
  | devctlThermRearm c v => exact execDevctlThermRearm_keeps (a0 := c) (a1 := v) (not_mem_of_subset hk (by decide)) h
  | thermalSample t => exact execThermalSample_keeps (a0 := t) (not_mem_of_subset hk (by decide)) h
  | lastStage m e => exact execLastStage_keeps (a0 := m) (a1 := e) (not_mem_of_subset hk (by decide)) h
  | commit c v => exact execCommit_keeps (a0 := c) (a1 := v) (not_mem_of_subset hk (by decide)) h
  | discard c v => exact execDiscard_keeps (a0 := c) (a1 := v) (not_mem_of_subset hk (by decide)) h
  | linkSwitchInstant l => exact execLinkSwitchInstant_keeps (a0 := l) (not_mem_of_subset hk (by decide)) h
  | skipAbsent l => exact execSkipAbsent_keeps (a0 := l) (not_mem_of_subset hk (by decide)) h
  | idlePeriodEnd l => exact execIdlePeriodEnd_keeps (a0 := l) (not_mem_of_subset hk (by decide)) h
  | commitRollback l => exact execCommitRollback_keeps (a0 := l) (not_mem_of_subset hk (by decide)) h
  | padSetPasses l d => exact execPadSetPasses_keeps (a0 := l) (a1 := d) (not_mem_of_subset hk (by decide)) h
  | epochUnsent l d => exact execEpochUnsent_keeps (a0 := l) (a1 := d) (not_mem_of_subset hk (by decide)) h
  | rateDetected sd p r => exact execRateDetected_keeps (a0 := sd) (a1 := p) (a2 := r) (not_mem_of_subset hk (by decide)) h
  | cdrLockGained sd p => exact execCdrLockGained_keeps (a0 := sd) (a1 := p) (not_mem_of_subset hk (by decide)) h
  | cdrLockLost sd p => exact execCdrLockLost_keeps (a0 := sd) (a1 := p) (not_mem_of_subset hk (by decide)) h
  | commaReceived sd p ph => exact execCommaReceived_keeps (a0 := sd) (a1 := p) (a2 := ph) (not_mem_of_subset hk (by decide)) h
  | rxCodeGroup sd p g reads => exact execRxCodeGroup_keeps (a0 := sd) (a1 := p) (a2 := g) (a3 := reads) (not_mem_of_subset hk (by decide)) h
  | lnctlRecentre c sd p v => exact execLnctlRecentre_keeps (a0 := c) (a1 := sd) (a2 := p) (a3 := v) (not_mem_of_subset hk (by decide)) h
  | lnctlBitslip c sd p v => exact execLnctlBitslip_keeps (a0 := c) (a1 := sd) (a2 := p) (a3 := v) (not_mem_of_subset hk (by decide)) h
  | skipSetArrives sd p k => exact execSkipSetArrives_keeps (a0 := sd) (a1 := p) (a2 := k) (not_mem_of_subset hk (by decide)) h
  | skipRateWindow => exact execSkipRateWindow_keeps (not_mem_of_subset hk (by decide)) h
  | loopMasterMoved l d => exact execLoopMasterMoved_keeps (a0 := l) (a1 := d) (not_mem_of_subset hk (by decide)) h
  | swingLimit sd p c => exact execSwingLimit_keeps (a0 := sd) (a1 := p) (a2 := c) (not_mem_of_subset hk (by decide)) h
  | swingRaise sd p room => exact execSwingRaise_keeps (a0 := sd) (a1 := p) (a2 := room) (not_mem_of_subset hk (by decide)) h
  | lntxdrvWrite c sd p v => exact execLntxdrvWrite_keeps (a0 := c) (a1 := sd) (a2 := p) (a3 := v) (not_mem_of_subset hk (by decide)) h
  | trimRampStep sd p t => exact execTrimRampStep_keeps (a0 := sd) (a1 := p) (a2 := t) (not_mem_of_subset hk (by decide)) h
  | lnsnapTake c sd p v => exact execLnsnapTake_keeps (a0 := c) (a1 := sd) (a2 := p) (a3 := v) (not_mem_of_subset hk (by decide)) h
  | lnsnapRelease c sd p v => exact execLnsnapRelease_keeps (a0 := c) (a1 := sd) (a2 := p) (a3 := v) (not_mem_of_subset hk (by decide)) h
  | snapshotExpiry sd p => exact execSnapshotExpiry_keeps (a0 := sd) (a1 := p) (not_mem_of_subset hk (by decide)) h
  | sidePllLoss q => exact execSidePllLoss_keeps (a0 := q) (not_mem_of_subset hk (by decide)) h
  | corePllLoss => exact execCorePllLoss_keeps (not_mem_of_subset hk (by decide)) h
  | pllRelockAttempt q ok => exact execPllRelockAttempt_keeps (a0 := q) (a1 := ok) (not_mem_of_subset hk (by decide)) h
  | receiverDetect l sd mask => exact execReceiverDetect_keeps (a0 := l) (a1 := sd) (a2 := mask) (not_mem_of_subset hk (by decide)) h
  | trainingSetReceived l sd k t => exact execTrainingSetReceived_keeps (a0 := l) (a1 := sd) (a2 := k) (a3 := t) (not_mem_of_subset hk (by decide)) h
  | rateDiscard l => exact execRateDiscard_keeps (a0 := l) (not_mem_of_subset hk (by decide)) h
  | trainTimeout l => exact execTrainTimeout_keeps (a0 := l) (not_mem_of_subset hk (by decide)) h
  | presetSearchStep sd p o => exact execPresetSearchStep_keeps (a0 := sd) (a1 := p) (a2 := o) (not_mem_of_subset hk (by decide)) h
  | lnkctlRetrain c l v => exact execLnkctlRetrain_keeps (a0 := c) (a1 := l) (a2 := v) (not_mem_of_subset hk (by decide)) h
  | forcedIdleRetrain l => exact execForcedIdleRetrain_keeps (a0 := l) (not_mem_of_subset hk (by decide)) h
  | electricalIdleDetected sd p => exact execElectricalIdleDetected_keeps (a0 := sd) (a1 := p) (not_mem_of_subset hk (by decide)) h
  | lnkctlDisable c l v => exact execLnkctlDisable_keeps (a0 := c) (a1 := l) (a2 := v) (not_mem_of_subset hk (by decide)) h
  | lnkctlClrRetrains c l v => exact execLnkctlClrRetrains_keeps (a0 := c) (a1 := l) (a2 := v) (not_mem_of_subset hk (by decide)) h
  | idleEntrySetReceived l d => exact execIdleEntrySetReceived_keeps (a0 := l) (a1 := d) (not_mem_of_subset hk (by decide)) h
  | sleepWake l sd => exact execSleepWake_keeps (a0 := l) (a1 := sd) (not_mem_of_subset hk (by decide)) h
  | wakeFail l => exact execWakeFail_keeps (a0 := l) (not_mem_of_subset hk (by decide)) h
  | deepEntryTimeout l => exact execDeepEntryTimeout_keeps (a0 := l) (not_mem_of_subset hk (by decide)) h
  | lpGrantSeen l st => exact execLpGrantSeen_keeps (a0 := l) (a1 := st) (not_mem_of_subset hk (by decide)) h
  | lpReqIdle l st => exact execLpReqIdle_keeps (a0 := l) (a1 := st) (not_mem_of_subset hk (by decide)) h
  | unrecoveredTimeout l d k => exact execUnrecoveredTimeout_keeps (a0 := l) (a1 := d) (a2 := k) (not_mem_of_subset hk (by decide)) h
  | spareLockTimer l n d locked => exact execSpareLockTimer_keeps (a0 := l) (a1 := n) (a2 := d) (a3 := locked) (not_mem_of_subset hk (by decide)) h
  | spareRspReceived l sd r => exact execSpareRspReceived_keeps (a0 := l) (a1 := sd) (a2 := r) (not_mem_of_subset hk (by decide)) h
  | spareMosForwarded l r => exact execSpareMosForwarded_keeps (a0 := l) (a1 := r) (not_mem_of_subset hk (by decide)) h
  | swapTimeout l => exact execSwapTimeout_keeps (a0 := l) (not_mem_of_subset hk (by decide)) h
  | spareRetry l => exact execSpareRetry_keeps (a0 := l) (not_mem_of_subset hk (by decide)) h
  | predictiveEvaluation => exact execPredictiveEvaluation_keeps (not_mem_of_subset hk (by decide)) h
  | lnkspcmdSwap c l v => exact execLnkspcmdSwap_keeps (a0 := c) (a1 := l) (a2 := v) (not_mem_of_subset hk (by decide)) h
  | lnkspcmdBack c l v => exact execLnkspcmdBack_keeps (a0 := c) (a1 := l) (a2 := v) (not_mem_of_subset hk (by decide)) h
  | lnklossUncap c l v => exact execLnklossUncap_keeps (a0 := c) (a1 := l) (a2 := v) (not_mem_of_subset hk (by decide)) h
  | prbsGenEnable c sd p v => exact execPrbsGenEnable_keeps (a0 := c) (a1 := sd) (a2 := p) (a3 := v) (not_mem_of_subset hk (by decide)) h
  | prbsChkEnable c sd p v => exact execPrbsChkEnable_keeps (a0 := c) (a1 := sd) (a2 := p) (a3 := v) (not_mem_of_subset hk (by decide)) h
  | prbsInject c sd p v => exact execPrbsInject_keeps (a0 := c) (a1 := sd) (a2 := p) (a3 := v) (not_mem_of_subset hk (by decide)) h
  | prbsCheckerLock sd p => exact execPrbsCheckerLock_keeps (a0 := sd) (a1 := p) (not_mem_of_subset hk (by decide)) h
  | prbsLockLost sd p => exact execPrbsLockLost_keeps (a0 := sd) (a1 := p) (not_mem_of_subset hk (by decide)) h
  | counterClr c sd p v => exact execCounterClr_keeps (a0 := c) (a1 := sd) (a2 := p) (a3 := v) (not_mem_of_subset hk (by decide)) h
  | lnscanStart c sd p v => exact execLnscanStart_keeps (a0 := c) (a1 := sd) (a2 := p) (a3 := v) (not_mem_of_subset hk (by decide)) h
  | scanPointDone sd p n => exact execScanPointDone_keeps (a0 := sd) (a1 := p) (a2 := n) (not_mem_of_subset hk (by decide)) h
  | eyeSweepEnd sd p w h0 => exact execEyeSweepEnd_keeps (a0 := sd) (a1 := p) (a2 := w) (a3 := h0) (not_mem_of_subset hk (by decide)) h
  | trainingSweepEnd sd p w h0 => exact execTrainingSweepEnd_keeps (a0 := sd) (a1 := p) (a2 := w) (a3 := h0) (not_mem_of_subset hk (by decide)) h
  | loopNearSerial c sd p v => exact execLoopNearSerial_keeps (a0 := c) (a1 := sd) (a2 := p) (a3 := v) (not_mem_of_subset hk (by decide)) h
  | loopNearParallel c sd p v => exact execLoopNearParallel_keeps (a0 := c) (a1 := sd) (a2 := p) (a3 := v) (not_mem_of_subset hk (by decide)) h
  | loopFarEnd c sd p v => exact execLoopFarEnd_keeps (a0 := c) (a1 := sd) (a2 := p) (a3 := v) (not_mem_of_subset hk (by decide)) h
  | loopOff c sd p v => exact execLoopOff_keeps (a0 := c) (a1 := sd) (a2 := p) (a3 := v) (not_mem_of_subset hk (by decide)) h
  | calcmdGo c v => exact execCalcmdGo_keeps (a0 := c) (a1 := v) (not_mem_of_subset hk (by decide)) h
  | calcmdSave c v => exact execCalcmdSave_keeps (a0 := c) (a1 := v) (not_mem_of_subset hk (by decide)) h
  | recalEvaluation => exact execRecalEvaluation_keeps (not_mem_of_subset hk (by decide)) h
  | recalStep last => exact execRecalStep_keeps (a0 := last) (not_mem_of_subset hk (by decide)) h
  | recalAborted => exact execRecalAborted_keeps (not_mem_of_subset hk (by decide)) h
  | adcSelfCal => exact execAdcSelfCal_keeps (not_mem_of_subset hk (by decide)) h
  | adcSelfCalEnd => exact execAdcSelfCalEnd_keeps (not_mem_of_subset hk (by decide)) h
  | twbAddress a rd => exact execTwbAddress_keeps (a0 := a) (a1 := rd) (not_mem_of_subset hk (by decide)) h
  | twbWriteWord v e => exact execTwbWriteWord_keeps (a0 := v) (a1 := e) (not_mem_of_subset hk (by decide)) h
  | twbReadWord e => exact execTwbReadWord_keeps (a0 := e) (not_mem_of_subset hk (by decide)) h
  | twbStartStop k extra => exact execTwbStartStop_keeps (a0 := k) (a1 := extra) (not_mem_of_subset hk (by decide)) h
  | twbLate => exact execTwbLate_keeps (not_mem_of_subset hk (by decide)) h
  | twbWake a => exact execTwbWake_keeps (a0 := a) (not_mem_of_subset hk (by decide)) h
  | twbSleep => exact execTwbSleep_keeps (not_mem_of_subset hk (by decide)) h
  | twbSclLow extra => exact execTwbSclLow_keeps (a0 := extra) (not_mem_of_subset hk (by decide)) h
  | twbSdaLow extra => exact execTwbSdaLow_keeps (a0 := extra) (not_mem_of_subset hk (by decide)) h
  | mosReceived l sd m e => exact execMosReceived_keeps (a0 := l) (a1 := sd) (a2 := m) (a3 := e) (not_mem_of_subset hk (by decide)) h
  | mosRd l sd seq a two e => exact execMosRd_keeps (a0 := l) (a1 := sd) (a2 := seq) (a3 := a) (a4 := two) (a5 := e) (not_mem_of_subset hk (by decide)) h
  | mosWr l sd seq a v e => exact execMosWr_keeps (a0 := l) (a1 := sd) (a2 := seq) (a3 := a) (a4 := v) (a5 := e) (not_mem_of_subset hk (by decide)) h
  | notifyRepeat => exact execNotifyRepeat_keeps (not_mem_of_subset hk (by decide)) h
  | jtagExtest => exact execJtagExtest_keeps (not_mem_of_subset hk (by decide)) h
  | jtagIdcode => exact execJtagIdcode_keeps (not_mem_of_subset hk (by decide)) h
  | jtagSamplePreload => exact execJtagSamplePreload_keeps (not_mem_of_subset hk (by decide)) h
  | jtagExtestPulse => exact execJtagExtestPulse_keeps (not_mem_of_subset hk (by decide)) h
  | jtagExtestTrain => exact execJtagExtestTrain_keeps (not_mem_of_subset hk (by decide)) h
  | jtagHighz => exact execJtagHighz_keeps (not_mem_of_subset hk (by decide)) h
  | jtagClamp => exact execJtagClamp_keeps (not_mem_of_subset hk (by decide)) h
  | jtagBypass op => exact execJtagBypass_keeps (a0 := op) (not_mem_of_subset hk (by decide)) h
  | jtagTapReset => exact execJtagTapReset_keeps (not_mem_of_subset hk (by decide)) h
  | storeRead c a e => exact execStoreRead_keeps (a0 := c) (a1 := a) (a2 := e) (not_mem_of_subset hk (by decide)) h
  | storeWrite c a v e => exact execStoreWrite_keeps (a0 := c) (a1 := a) (a2 := v) (a3 := e) (not_mem_of_subset hk (by decide)) h
  | windowEntryWrite c t pg v => exact execWindowEntryWrite_keeps (a0 := c) (a1 := t) (a2 := pg) (a3 := v) (not_mem_of_subset hk (by decide)) h
  | winctlSync c v => exact execWinctlSync_keeps (a0 := c) (a1 := v) (not_mem_of_subset hk (by decide)) h
  | syncBarrierDone c => exact execSyncBarrierDone_keeps (a0 := c) (not_mem_of_subset hk (by decide)) h
  | scrubLine e => exact execScrubLine_keeps (a0 := e) (not_mem_of_subset hk (by decide)) h
  | ceRateHour => exact execCeRateHour_keeps (not_mem_of_subset hk (by decide)) h
  | storeCeClr c v => exact execStoreCeClr_keeps (a0 := c) (a1 := v) (not_mem_of_subset hk (by decide)) h
  | wqEnable c q v => exact execWqEnable_keeps (a0 := c) (a1 := q) (a2 := v) (not_mem_of_subset hk (by decide)) h
  | wqDisable c q v => exact execWqDisable_keeps (a0 := c) (a1 := q) (a2 := v) (not_mem_of_subset hk (by decide)) h
  | wqReset c q v => exact execWqReset_keeps (a0 := c) (a1 := q) (a2 := v) (not_mem_of_subset hk (by decide)) h
  | wqDoorbell c q v => exact execWqDoorbell_keeps (a0 := c) (a1 := q) (a2 := v) (not_mem_of_subset hk (by decide)) h
  | entryPrefetch q e => exact execEntryPrefetch_keeps (a0 := q) (a1 := e) (not_mem_of_subset hk (by decide)) h
  | headerWrite q => exact execHeaderWrite_keeps (a0 := q) (not_mem_of_subset hk (by decide)) h
  | jobStart u heel => exact execJobStart_keeps (a0 := u) (a1 := heel) (not_mem_of_subset hk (by decide)) h
  | preemptFlushDone m e => exact execPreemptFlushDone_keeps (a0 := m) (a1 := e) (not_mem_of_subset hk (by decide)) h
  | jobEnd u => exact execJobEnd_keeps (a0 := u) (not_mem_of_subset hk (by decide)) h
  | completionWrite q => exact execCompletionWrite_keeps (a0 := q) (not_mem_of_subset hk (by decide)) h
  | drainComplete q => exact execDrainComplete_keeps (a0 := q) (not_mem_of_subset hk (by decide)) h
  | cqEnable c q v => exact execCqEnable_keeps (a0 := c) (a1 := q) (a2 := v) (not_mem_of_subset hk (by decide)) h
  | cqDisable c q v => exact execCqDisable_keeps (a0 := c) (a1 := q) (a2 := v) (not_mem_of_subset hk (by decide)) h
  | cqheadWrite c q v => exact execCqheadWrite_keeps (a0 := c) (a1 := q) (a2 := v) (not_mem_of_subset hk (by decide)) h
  | nop q => exact execNop_keeps (a0 := q) (not_mem_of_subset hk (by decide)) h
  | fence q => exact execFence_keeps (a0 := q) (not_mem_of_subset hk (by decide)) h
  | move m e => exact execMove_keeps (a0 := m) (a1 := e) (not_mem_of_subset hk (by decide)) h
  | capture sd => exact execCapture_keeps (a0 := sd) (not_mem_of_subset hk (by decide)) h
  | captureTrigger sd ln => exact execCaptureTrigger_keeps (a0 := sd) (a1 := ln) (not_mem_of_subset hk (by decide)) h
  | captureStop sd => exact execCaptureStop_keeps (a0 := sd) (not_mem_of_subset hk (by decide)) h
  | captureTimeout sd => exact execCaptureTimeout_keeps (a0 := sd) (not_mem_of_subset hk (by decide)) h
  | captureLostPage sd => exact execCaptureLostPage_keeps (a0 := sd) (not_mem_of_subset hk (by decide)) h
  | eyescan sd p row => exact execEyescan_keeps (a0 := sd) (a1 := p) (a2 := row) (not_mem_of_subset hk (by decide)) h
  | eyescanLockTimeout sd p => exact execEyescanLockTimeout_keeps (a0 := sd) (a1 := p) (not_mem_of_subset hk (by decide)) h
  | prbsJob sd p => exact execPrbsJob_keeps (a0 := sd) (a1 := p) (not_mem_of_subset hk (by decide)) h
  | prbsJobInject sd p => exact execPrbsJobInject_keeps (a0 := sd) (a1 := p) (not_mem_of_subset hk (by decide)) h
  | prbsJobDurationEnd sd p => exact execPrbsJobDurationEnd_keeps (a0 := sd) (a1 := p) (not_mem_of_subset hk (by decide)) h
  | nvmRead e => exact execNvmRead_keeps (a0 := e) (not_mem_of_subset hk (by decide)) h
  | nvmProgram e => exact execNvmProgram_keeps (a0 := e) (not_mem_of_subset hk (by decide)) h
  | nvmUnitProgrammed ok => exact execNvmUnitProgrammed_keeps (a0 := ok) (not_mem_of_subset hk (by decide)) h
  | nvmErase => exact execNvmErase_keeps (not_mem_of_subset hk (by decide)) h
  | nvmSectorErased ok => exact execNvmSectorErased_keeps (a0 := ok) (not_mem_of_subset hk (by decide)) h
  | eraseSuspend w => exact execEraseSuspend_keeps (a0 := w) (not_mem_of_subset hk (by decide)) h
  | eraseResume => exact execEraseResume_keeps (not_mem_of_subset hk (by decide)) h
  | telemetry m => exact execTelemetry_keeps (a0 := m) (not_mem_of_subset hk (by decide)) h
  | imcSend => exact execImcSend_keeps (not_mem_of_subset hk (by decide)) h
  | imcNoSlot => exact execImcNoSlot_keeps (not_mem_of_subset hk (by decide)) h
  | wqResume c q v => exact execWqResume_keeps (a0 := c) (a1 := q) (a2 := v) (not_mem_of_subset hk (by decide)) h
  | awlQueue c q => exact execAwlQueue_keeps (a0 := c) (a1 := q) (not_mem_of_subset hk (by decide)) h
  | awlJob c q tag => exact execAwlJob_keeps (a0 := c) (a1 := q) (a2 := tag) (not_mem_of_subset hk (by decide)) h
  | awlUnit c sel => exact execAwlUnit_keeps (a0 := c) (a1 := sel) (not_mem_of_subset hk (by decide)) h
  | awlLane c sel => exact execAwlLane_keeps (a0 := c) (a1 := sel) (not_mem_of_subset hk (by decide)) h
  | awlAll c => exact execAwlAll_keeps (a0 := c) (not_mem_of_subset hk (by decide)) h
  | awlDone => exact execAwlDone_keeps (not_mem_of_subset hk (by decide)) h
  | nvmWindowRead c off e => exact execNvmWindowRead_keeps (a0 := c) (a1 := off) (a2 := e) (not_mem_of_subset hk (by decide)) h
  | nvmLogWrite ok => exact execNvmLogWrite_keeps (a0 := ok) (not_mem_of_subset hk (by decide)) h
  | logTokenTick => exact execLogTokenTick_keeps (not_mem_of_subset hk (by decide)) h
  | nvmctlCeClr c v => exact execNvmctlCeClr_keeps (a0 := c) (a1 := v) (not_mem_of_subset hk (by decide)) h
  | sequencerTimerTrigger n => exact execSequencerTimerTrigger_keeps (a0 := n) (not_mem_of_subset hk (by decide)) h
  | decimatorOutput v => exact execDecimatorOutput_keeps (a0 := v) (not_mem_of_subset hk (by decide)) h
  | syncEdge => exact execSyncEdge_keeps (not_mem_of_subset hk (by decide)) h
  | tmseqctlRestart c n v => exact execTmseqctlRestart_keeps (a0 := c) (a1 := n) (a2 := v) (not_mem_of_subset hk (by decide)) h
  | dtimeLoadNow c v => exact execDtimeLoadNow_keeps (a0 := c) (a1 := v) (not_mem_of_subset hk (by decide)) h
  | dtimeLoRead c => exact execDtimeLoRead_keeps (a0 := c) (not_mem_of_subset hk (by decide)) h
  | dtrateWrite c v => exact execDtrateWrite_keeps (a0 := c) (a1 := v) (not_mem_of_subset hk (by decide)) h
  | heelWatchdogTrip => exact execHeelWatchdogTrip_keeps (not_mem_of_subset hk (by decide)) h
  | weltMismatch p stuckOpen => exact execWeltMismatch_keeps (a0 := p) (a1 := stuckOpen) (not_mem_of_subset hk (by decide)) h
  | regReadClear c a e => exact execRegReadClear_keeps (a0 := c) (a1 := a) (a2 := e) (not_mem_of_subset hk (by decide)) h
  | regWrite c a v e => exact execRegWrite_keeps (a0 := c) (a1 := a) (a2 := v) (a3 := e) (not_mem_of_subset hk (by decide)) h
  | signalDetected sd p => exact execSignalDetected_keeps (a0 := sd) (a1 := p) (not_mem_of_subset hk (by decide)) h
  | vioSplitThreshold => exact execVioSplitThreshold_keeps (not_mem_of_subset hk (by decide)) h
  | supplyInWindow r => exact execSupplyInWindow_keeps (a0 := r) (not_mem_of_subset hk (by decide)) h

theorem step_keeps {k : Comp} {s x : State} (hk : k ∉ [.pins, .power, .boot, .dev, .welt, .therm, .evt, .heel, .lanes, .links, .last, .store, .win, .twb, .imc, .jtag, .acc, .wqs, .cqs, .units, .slots, .sched, .awl, .nvm, .tm, .time, .cal, .free, .pending]) (h : k.same s x) :
    ∃ t, step x = .next t ∧ k.same s t := by
  unfold step
  dsimp -zeta -proj only [upd_pending]
  split
  · exact exec_keeps (not_mem_of_subset hk (by decide)) (putPending_keeps (not_mem_of_subset hk (by decide)) h)
  · exact ⟨tick x, rfl, tick_keeps (not_mem_of_subset hk (by decide)) h⟩

end Sys2Proof.Machine
end

