-- ==== Sys2Proof/Laws/Kept.lean ====
section
/-! SUPPORT. What every operation keeps: the sparse tables' form, the Windows' guard, OTP, and the free values used. -/

namespace Sys2Proof.Machine

/-- The NVM keeps its form and its OTP. -/
def NvmSt.Keeps (n m : NvmSt) : Prop := (n.wf = true → m.wf = true) ∧ m.otp = n.otp

/-- The Store keeps its form. -/
def StoreSt.Keeps (a b : StoreSt) : Prop := Memory.wf a = true → Memory.wf b = true

/-- The stored Windows keep their form and their guard. -/
def WinSt.Keeps (v w : WinSt) : Prop :=
  (v.wf = true → w.wf = true) ∧
    ((v.entries.toList.all fun t => t.all fun p => entryGuarded p.2) = true →
      (w.entries.toList.all fun t => t.all fun p => entryGuarded p.2) = true)

/-- One state's tables keep what another's have. -/
def Kept (s t : State) : Prop :=
  s.store.Keeps t.store ∧ s.nvm.Keeps t.nvm ∧ s.win.Keeps t.win ∧ s.free ≤ t.free

theorem NvmSt.Keeps.refl (n : NvmSt) : n.Keeps n := ⟨fun h => h, rfl⟩

theorem NvmSt.Keeps.trans {a b c : NvmSt} (h : a.Keeps b) (g : b.Keeps c) : a.Keeps c :=
  ⟨fun w => g.1 (h.1 w), g.2.trans h.2⟩

theorem StoreSt.Keeps.trans {a b c : StoreSt} (h : a.Keeps b) (g : b.Keeps c) : a.Keeps c := fun w => g (h w)

theorem WinSt.Keeps.trans {a b c : WinSt} (h : a.Keeps b) (g : b.Keeps c) : a.Keeps c :=
  ⟨fun w => g.1 (h.1 w), fun w => g.2 (h.2 w)⟩

theorem Kept.refl (s : State) : Kept s s := ⟨fun h => h, .refl _, ⟨fun h => h, fun h => h⟩, Nat.le_refl _⟩

theorem Kept.trans {s t u : State} (h : Kept s t) (g : Kept t u) : Kept s u :=
  ⟨h.1.trans g.1, h.2.1.trans g.2.1, h.2.2.1.trans g.2.2.1, Nat.le_trans h.2.2.2 g.2.2.2⟩

/-- What leaves the Store, the NVM, the Windows and the count of free values alone keeps them. -/
theorem Kept.of_same {s x y : State} (g : ∀ k : Comp, k ∈ [Comp.store, .nvm, .win, .free] → k.same x y) (h : Kept s x) :
    Kept s y := by
  have g1 : y.store = x.store := g .store (by decide)
  have g2 : y.nvm = x.nvm := g .nvm (by decide)
  have g3 : y.win = x.win := g .win (by decide)
  have g4 : y.free = x.free := g .free (by decide)
  unfold Kept
  rw [g1, g2, g3, g4]
  exact h

theorem Kept.of_keeps {s x y : State} {l : List Comp} (g : ∀ k : Comp, k ∉ l → k.same x y)
    (d : ∀ k ∈ [Comp.store, .nvm, .win, .free], k ∉ l) (h : Kept s x) : Kept s y :=
  Kept.of_same (fun k i => g k (d k i)) h

theorem ite_kept {s a b : State} {c : Prop} {_ : Decidable c} (ha : Kept s a) (hb : Kept s b) :
    Kept s (if c then a else b) := by
  split
  · exact ha
  · exact hb

theorem getD_kept {s d : State} {o : Option State} (ho : ∀ u, o = some u → Kept s u) (hd : Kept s d) : Kept s (o.getD d) := by
  cases o with
  | none => exact hd
  | some u => exact ho u rfl

theorem foldl_kept {α : Type} {s x : State} {f : State → α → State} {l : List α} (h : Kept s x)
    (hf : ∀ t a, Kept s t → Kept s (f t a)) : Kept s (l.foldl f x) := by
  induction l generalizing x with
  | nil => exact h
  | cons a r ih => exact ih (hf x a h)

theorem putStore_kept {s x : State} {v : StoreSt} (h : Kept s x) (g : x.store.Keeps v) : Kept s (x.putStore v) :=
  ⟨h.1.trans g, h.2⟩

theorem putNvm_kept {s x : State} {v : NvmSt} (h : Kept s x) (g : x.nvm.Keeps v) : Kept s (x.putNvm v) :=
  ⟨h.1, h.2.1.trans g, h.2.2⟩

theorem putWin_kept {s x : State} {v : WinSt} (h : Kept s x) (g : x.win.Keeps v) : Kept s (x.putWin v) :=
  ⟨h.1, h.2.1, h.2.2.1.trans g, h.2.2.2⟩

theorem putFree_kept {s x : State} {v : Nat} (h : Kept s x) (g : x.free ≤ v) : Kept s (x.putFree v) :=
  ⟨h.1, h.2.1, h.2.2.1, Nat.le_trans h.2.2.2 g⟩

/-- The state that a candidate carries keeps what another has. -/
def Candidate.kept (s : State) (c : Candidate) : Prop := ∀ i t, c = .member i t → Kept s t

/-! ### The tables -/

theorem nvm_keeps_of {n m : NvmSt} (h : n.wf = true → m.wf = true) (e : m.otp = n.otp) : n.Keeps m := ⟨h, e⟩

theorem NvmSt.setCell_keeps (n : NvmSt) (u : Nat) (c : NvmCell) : n.Keeps (n.setCell u c) := by
  refine ⟨fun h => ?_, rfl⟩
  simp only [NvmSt.wf, Bool.and_eq_true, NvmSt.setCell] at h ⊢
  exact ⟨⟨⟨⟨⟨tabSet_wf _ _ _ _ _ (by simp) h.1.1.1.1.1, h.1.1.1.1.2⟩, tabSet_wf _ _ _ _ _ (by simp) h.1.1.1.2⟩, h.1.1.2⟩, h.1.2⟩, h.2⟩

theorem NvmSt.setHead_keeps (n : NvmSt) (u : Nat) (c : SecHdr) : n.Keeps (n.setHead u c) := by
  refine ⟨fun h => ?_, rfl⟩
  simp only [NvmSt.wf, Bool.and_eq_true, NvmSt.setHead] at h ⊢
  exact ⟨⟨⟨⟨⟨h.1.1.1.1.1, tabSet_wf _ _ _ _ _ (by simp) h.1.1.1.1.2⟩, h.1.1.1.2⟩, h.1.1.2⟩, h.1.2⟩, h.2⟩

theorem NvmSt.setDirty_keeps (n : NvmSt) (u : Nat) : n.Keeps { n with dirty := numSet u n.dirty } := by
  refine ⟨fun h => ?_, rfl⟩
  simp only [NvmSt.wf, Bool.and_eq_true] at h ⊢
  exact ⟨⟨⟨⟨⟨h.1.1.1.1.1, h.1.1.1.1.2⟩, h.1.1.1.2⟩, h.1.1.2⟩, numSet_wf _ _ _ (by simp) h.1.2⟩, h.2⟩

theorem NvmSt.clearDirty_keeps (n : NvmSt) (u : Nat) : n.Keeps { n with dirty := numClear u n.dirty } := by
  refine ⟨fun h => ?_, rfl⟩
  simp only [NvmSt.wf, Bool.and_eq_true] at h ⊢
  exact ⟨⟨⟨⟨⟨h.1.1.1.1.1, h.1.1.1.1.2⟩, h.1.1.1.2⟩, h.1.1.2⟩, numClear_wf _ _ _ h.1.2⟩, h.2⟩

theorem NvmSt.setRestored_keeps (n : NvmSt) (u : Nat) : n.Keeps { n with restored := numSet u n.restored } := by
  refine ⟨fun h => ?_, rfl⟩
  simp only [NvmSt.wf, Bool.and_eq_true] at h ⊢
  exact ⟨⟨⟨⟨⟨h.1.1.1.1.1, h.1.1.1.1.2⟩, h.1.1.1.2⟩, h.1.1.2⟩, h.1.2⟩, numSet_wf _ _ _ (by simp) h.2⟩

theorem NvmSt.setUpset_keeps (n : NvmSt) (u : Nat) (f : Ecc) : n.Keeps { n with upsets := tabSet .clean u f n.upsets } := by
  refine ⟨fun h => ?_, rfl⟩
  simp only [NvmSt.wf, Bool.and_eq_true] at h ⊢
  exact ⟨⟨⟨⟨⟨h.1.1.1.1.1, h.1.1.1.1.2⟩, tabSet_wf _ _ _ _ _ (by simp) h.1.1.1.2⟩, h.1.1.2⟩, h.1.2⟩, h.2⟩

theorem NvmSt.setOtpUpset_keeps (n : NvmSt) (u : Nat) (f : Ecc) : n.Keeps { n with otpUpsets := tabSet .clean u f n.otpUpsets } := by
  refine ⟨fun h => ?_, rfl⟩
  simp only [NvmSt.wf, Bool.and_eq_true] at h ⊢
  exact ⟨⟨⟨⟨⟨h.1.1.1.1.1, h.1.1.1.1.2⟩, h.1.1.1.2⟩, tabSet_wf _ _ _ _ _ (by simp) h.1.1.2⟩, h.1.2⟩, h.2⟩

theorem foldl_nvm_keeps {α : Type} {n m : NvmSt} {f : NvmSt → α → NvmSt} {l : List α} (h : n.Keeps m)
    (hf : ∀ (t : NvmSt) (a : α), t.Keeps (f t a)) : n.Keeps (l.foldl f m) := by
  induction l generalizing m with
  | nil => exact h
  | cons a r ih => exact ih (h.trans (hf m a))

theorem tearSector_keeps (n : NvmSt) (sec : Nat) : n.Keeps (tearSector n sec) :=
  foldl_nvm_keeps (.refl n) fun _ _ => NvmSt.setCell_keeps _ _ _

theorem clearSector_keeps (n : NvmSt) (sec : Nat) : n.Keeps (clearSector n sec) := by
  refine ⟨fun h => ?_, rfl⟩
  simp only [NvmSt.wf, Bool.and_eq_true, clearSector] at h ⊢
  exact ⟨⟨⟨⟨⟨tabWf_filter _ _ _ _ h.1.1.1.1.1, h.1.1.1.1.2⟩, tabWf_filter _ _ _ _ h.1.1.1.2⟩, h.1.1.2⟩, h.1.2⟩, h.2⟩

theorem vmod_all {α : Type} {n : Nat} (v : Vector α n) (i : Fin n) (f : α → α) (p : α → Bool)
    (h : v.toList.all p = true) (hf : p v[i] = true → p (f v[i]) = true) : (vmod v i f).toList.all p = true := by
  simp only [List.all_eq_true, Vector.mem_toList_iff, Vector.mem_iff_getElem] at h ⊢
  rintro _ ⟨j, hj, rfl⟩
  unfold vmod vput
  rw [Vector.getElem_set]
  split
  · exact hf (h _ ⟨i.val, i.isLt, rfl⟩)
  · exact h _ ⟨j, hj, rfl⟩

theorem storedEntry_guarded (v : Word) : entryGuarded (storedEntry v) = true := by
  unfold storedEntry entryGuarded
  dsimp only
  split
  · rename_i h
    simp
  · rename_i h
    simp only [Bool.or_eq_true, decide_eq_true_eq]
    exact Or.inl (by omega)

theorem tabSet_all {α : Type} [DecidableEq α] (d : α) (k : Nat) (v : α) (p : α → Bool) (l : List (Nat × α))
    (h : (l.all fun q => p q.2) = true) (hv : p v = true) : ((tabSet d k v l).all fun q => p q.2) = true := by
  induction l with
  | nil =>
    unfold tabSet
    split
    · rfl
    · simp [hv]
  | cons q r ih =>
    obtain ⟨j, e⟩ := q
    simp only [List.all_cons, Bool.and_eq_true] at h
    unfold tabSet
    split
    · split
      · simp [h.1, h.2]
      · simp [h.1, h.2, hv]
    · split
      · split
        · exact h.2
        · simp [h.2, hv]
      · simp only [List.all_cons, Bool.and_eq_true]
        exact ⟨h.1, ih h.2⟩

theorem tabGet_all {α : Type} (d : α) (k : Nat) (p : α → Bool) (l : List (Nat × α))
    (h : (l.all fun q => p q.2) = true) (hd : p d = true) : p (tabGet d k l) = true := by
  induction l with
  | nil => exact hd
  | cons q r ih =>
    obtain ⟨j, e⟩ := q
    simp only [List.all_cons, Bool.and_eq_true] at h
    unfold tabGet
    split
    · exact h.1
    · exact ih h.2

theorem setWinEntry_win_keeps (w : WinSt) (t : WinCtx) (page : Nat) (e : BitVec 20)
    (he : (w.entries.toList.all fun t => t.all fun p => entryGuarded p.2) = true → entryGuarded e = true) :
    w.Keeps { w with entries := vmod w.entries t (tabSet 0 page e) } :=
  ⟨fun h => vmod_all _ _ _ _ h fun g => tabSet_wf _ _ _ _ _ (by simp) g,
    fun h => vmod_all _ _ _ _ h fun g => tabSet_all _ _ _ _ _ g (he h)⟩

theorem entryGuarded_unlock (e : BitVec 20) (h : entryGuarded e = true) : entryGuarded (e &&& 0x7FFFF) = true := by
  unfold entryGuarded at h ⊢
  rw [BitVec.and_assoc, (by decide : (0x7FFFF : BitVec 20) &&& 0x7FF = 0x7FF)]
  simp only [BitVec.getLsbD_and, Bool.or_eq_true, Bool.not_eq_true', Bool.and_eq_false_iff] at h ⊢
  exact h.imp id .inl

theorem StoreSt.writeLine_keeps (m : StoreSt) (pa : Nat) (bs : List Byte) : m.Keeps (m.writeLine pa bs) :=
  fun h => writeLine_wf m pa bs h

theorem StoreSt.poisonOne_keeps (m : StoreSt) (n : Nat) : m.Keeps { m with poison := numSet n m.poison } := by
  intro h
  simp only [Memory.wf, Bool.and_eq_true] at h ⊢
  exact ⟨h.1, numSet_wf _ _ _ (by simp) h.2⟩

theorem StoreSt.setUpset_keeps (m : StoreSt) (u : Nat) (f : Ecc) : m.Keeps { m with upsets := tabSet .clean u f m.upsets } := by
  intro h
  simp only [Memory.wf, Bool.and_eq_true] at h ⊢
  exact ⟨⟨⟨h.1.1.1, tabSet_wf _ _ _ _ _ (by simp) h.1.1.2⟩, h.1.2⟩, h.2⟩

theorem StoreSt.filterUpsets_keeps (m : StoreSt) (p : Nat × Ecc → Bool) : m.Keeps { m with upsets := m.upsets.filter p } := by
  intro h
  simp only [Memory.wf, Bool.and_eq_true] at h ⊢
  exact ⟨⟨⟨h.1.1.1, tabWf_filter _ _ _ _ h.1.1.2⟩, h.1.2⟩, h.2⟩

theorem putPins_kept {s x : State} {v : Pins} (h : Kept s x) : Kept s (x.putPins v) := h

theorem putPower_kept {s x : State} {v : Power} (h : Kept s x) : Kept s (x.putPower v) := h

theorem putBoot_kept {s x : State} {v : Boot} (h : Kept s x) : Kept s (x.putBoot v) := h

theorem putDev_kept {s x : State} {v : Dev} (h : Kept s x) : Kept s (x.putDev v) := h

theorem putWelt_kept {s x : State} {v : WeltSt} (h : Kept s x) : Kept s (x.putWelt v) := h

theorem putTherm_kept {s x : State} {v : Thermal} (h : Kept s x) : Kept s (x.putTherm v) := h

theorem putEvt_kept {s x : State} {v : EvtSt} (h : Kept s x) : Kept s (x.putEvt v) := h

theorem putHeel_kept {s x : State} {v : HeelSt} (h : Kept s x) : Kept s (x.putHeel v) := h

theorem putLanes_kept {s x : State} {v : Vector Lane 36} (h : Kept s x) : Kept s (x.putLanes v) := h

theorem putLinks_kept {s x : State} {v : Vector Link 8} (h : Kept s x) : Kept s (x.putLinks v) := h

theorem putLast_kept {s x : State} {v : LastSt} (h : Kept s x) : Kept s (x.putLast v) := h

theorem putTwb_kept {s x : State} {v : TwbSt} (h : Kept s x) : Kept s (x.putTwb v) := h

theorem putImc_kept {s x : State} {v : ImcSt} (h : Kept s x) : Kept s (x.putImc v) := h

theorem putJtag_kept {s x : State} {v : JtagSt} (h : Kept s x) : Kept s (x.putJtag v) := h

theorem putAcc_kept {s x : State} {v : AccSt} (h : Kept s x) : Kept s (x.putAcc v) := h

theorem putWqs_kept {s x : State} {v : Vector Wq 32} (h : Kept s x) : Kept s (x.putWqs v) := h

theorem putCqs_kept {s x : State} {v : Vector Cq 8} (h : Kept s x) : Kept s (x.putCqs v) := h

theorem putUnits_kept {s x : State} {v : Units} (h : Kept s x) : Kept s (x.putUnits v) := h

theorem putSlots_kept {s x : State} {v : Vector Slot 8} (h : Kept s x) : Kept s (x.putSlots v) := h

theorem putSched_kept {s x : State} {v : Sched} (h : Kept s x) : Kept s (x.putSched v) := h

theorem putAwl_kept {s x : State} {v : AwlSt} (h : Kept s x) : Kept s (x.putAwl v) := h

theorem putTm_kept {s x : State} {v : TmSt} (h : Kept s x) : Kept s (x.putTm v) := h

theorem putTime_kept {s x : State} {v : TimeSt} (h : Kept s x) : Kept s (x.putTime v) := h

theorem putCal_kept {s x : State} {v : CalSt} (h : Kept s x) : Kept s (x.putCal v) := h

theorem putPending_kept {s x : State} {v : List Instr} (h : Kept s x) : Kept s (x.putPending v) := h

theorem ringPut_kept {s x : State} {a0} (h : Kept s x) : Kept s (ringPut x a0) := by
  unfold ringPut
  dsimp -zeta -proj only [upd_evt_store]
  exact putStore_kept (putEvt_kept h) (StoreSt.writeLine_keeps x.store _ _)

theorem recordPut_kept {s x : State} {a0} (h : Kept s x) :
    Kept s (recordPut x a0) := by
  unfold recordPut
  try dsimp -zeta -proj only [upd_evt]
  repeat' first
    | with_reducible assumption
    | with_reducible refine ringPut_kept ?_
    | with_reducible refine putEvt_kept ?_
    | with_reducible refine ite_kept ?_ ?_
    | with_reducible refine foldl_kept ?_ (fun t a h => ?_)
    | decide
    | dsimp -proj only
    | split

theorem emit_kept {s x : State} {a0 a1 a2 a3} (h : Kept s x) :
    Kept s (emit x a0 a1 a2 a3) := by
  unfold emit
  try dsimp -zeta -proj only [upd_evt_nvm]
  repeat' first
    | with_reducible assumption
    | with_reducible refine recordPut_kept ?_
    | with_reducible refine putEvt_kept ?_
    | with_reducible refine putNvm_kept ?_ ?_
    | with_reducible refine ite_kept ?_ ?_
    | with_reducible refine foldl_kept ?_ (fun t a h => ?_)
    | with_reducible exact NvmSt.setCell_keeps _ _ _
    | with_reducible refine nvm_keeps_of ?_ ?_
    | exact fun h => h
    | rfl
    | decide
    | dsimp -proj only
    | split

theorem emitEvent_kept {s x : State} {a0 a1 a2} (h : Kept s x) :
    Kept s (emitEvent x a0 a1 a2) := by
  unfold emitEvent
  try dsimp -zeta -proj only [upd_evt]
  repeat' first
    | with_reducible assumption
    | with_reducible refine emit_kept ?_
    | with_reducible refine putEvt_kept ?_
    | with_reducible refine ite_kept ?_ ?_
    | with_reducible refine foldl_kept ?_ (fun t a h => ?_)
    | decide
    | dsimp -proj only
    | split

theorem logFuel_kept {s x : State} {a0 a1 a2 a3} (h : Kept s x) :
    Kept s (logFuel a0 x a1 a2 a3) := by
  induction a0 generalizing x a1 a2 a3 with
  | zero => exact emitEvent_kept h
  | succ n ih => exact foldl_kept (emitEvent_kept h) (fun _ _ g => ih g)

theorem logEvent_kept {s x : State} {a0 a1 a2} (h : Kept s x) :
    Kept s (logEvent x a0 a1 a2) := by
  unfold logEvent
  repeat' first
    | with_reducible assumption
    | with_reducible refine logFuel_kept ?_
    | with_reducible refine ite_kept ?_ ?_
    | with_reducible refine foldl_kept ?_ (fun t a h => ?_)
    | decide
    | dsimp -proj only
    | split

theorem logL_kept {s x : State} {a0 a1 a2 a3} (h : Kept s x) :
    Kept s (logL x a0 a1 a2 a3) := by
  unfold logL
  repeat' first
    | with_reducible assumption
    | with_reducible refine logEvent_kept ?_
    | with_reducible refine ite_kept ?_ ?_
    | with_reducible refine foldl_kept ?_ (fun t a h => ?_)
    | decide
    | dsimp -proj only
    | split

theorem revertUnit_kept {s x : State} {a0 a1} (h : Kept s x) : Kept s (revertUnit x a0 a1) :=
  Kept.of_keeps (fun k hk => revertUnit_keeps (a0 := a0) (a1 := a1) hk (k.same_refl x)) (by decide) h

theorem endRecal_kept {s x : State} (h : Kept s x) : Kept s (endRecal x) :=
  Kept.of_keeps (fun k hk => endRecal_keeps hk (k.same_refl x)) (by decide) h

theorem stopRecal_kept {s x : State} {a0 a1} (h : Kept s x) :
    Kept s (stopRecal x a0 a1) := by
  unfold stopRecal
  repeat' first
    | with_reducible assumption
    | with_reducible refine logL_kept ?_
    | with_reducible refine revertUnit_kept ?_
    | with_reducible refine endRecal_kept ?_
    | with_reducible refine ite_kept ?_ ?_
    | with_reducible refine foldl_kept ?_ (fun t a h => ?_)
    | decide
    | dsimp -proj only
    | split

theorem abortRecal_kept {s x : State} (h : Kept s x) :
    Kept s (abortRecal x) := by
  unfold abortRecal
  repeat' first
    | with_reducible assumption
    | with_reducible refine stopRecal_kept ?_
    | with_reducible refine ite_kept ?_ ?_
    | with_reducible refine foldl_kept ?_ (fun t a h => ?_)
    | decide
    | dsimp -proj only
    | split

theorem setUnit_kept {s x : State} {a0 a1} (h : Kept s x) : Kept s (setUnit x a0 a1) :=
  Kept.of_keeps (fun k hk => setUnit_keeps (a0 := a0) (a1 := a1) hk (k.same_refl x)) (by decide) h

theorem modMeas_kept {s x : State} {a0 a1 a2} (h : Kept s x) : Kept s (modMeas x a0 a1 a2) :=
  Kept.of_keeps (fun k hk => modMeas_keeps (a0 := a0) (a1 := a1) (a2 := a2) hk (k.same_refl x)) (by decide) h

theorem restartHeel_kept {s x : State} (h : Kept s x) :
    Kept s (restartHeel x) := by
  unfold restartHeel
  try dsimp -zeta -proj only [upd_heel_cal]
  repeat' first
    | with_reducible assumption
    | with_reducible refine abortRecal_kept ?_
    | with_reducible refine setUnit_kept ?_
    | with_reducible refine modMeas_kept ?_
    | with_reducible refine putHeel_kept ?_
    | with_reducible refine putCal_kept ?_
    | with_reducible refine ite_kept ?_ ?_
    | with_reducible refine foldl_kept ?_ (fun t a h => ?_)
    | decide
    | dsimp -proj only
    | split

theorem modLink_kept {s x : State} {a0 a1} (h : Kept s x) : Kept s (modLink x a0 a1) :=
  Kept.of_keeps (fun k hk => modLink_keeps (a0 := a0) (a1 := a1) hk (k.same_refl x)) (by decide) h

theorem queueMos_kept {s x : State} {a0 a1 a2 a3 a4} (h : Kept s x) : Kept s (queueMos x a0 a1 a2 a3 a4) :=
  Kept.of_keeps (fun k hk => queueMos_keeps (a0 := a0) (a1 := a1) (a2 := a2) (a3 := a3) (a4 := a4) hk (k.same_refl x)) (by decide) h

theorem useFree_kept {s x : State} (h : Kept s x) :
    Kept s (useFree x).2 := by
  unfold useFree
  try dsimp -zeta -proj only [upd_free]
  repeat' first
    | with_reducible assumption
    | with_reducible refine putFree_kept ?_ ?_
    | with_reducible refine ite_kept ?_ ?_
    | with_reducible refine foldl_kept ?_ (fun t a h => ?_)
    | omega
    | decide
    | dsimp -proj only
    | split

theorem useFree_kept_eq {s x : State} {r u} (h : Kept s x) (e : useFree x = (r, u)) :
    Kept s u := by
  simpa only [e] using useFree_kept (s := s) (x := x) h

theorem freshSeq_kept {s x : State} (h : Kept s x) :
    Kept s (freshSeq x).2 := by
  unfold freshSeq
  repeat' first
    | with_reducible assumption
    | with_reducible refine useFree_kept ?_
    | with_reducible refine useFree_kept_eq ?_ (by with_reducible assumption)
    | with_reducible refine ite_kept ?_ ?_
    | with_reducible refine foldl_kept ?_ (fun t a h => ?_)
    | decide
    | dsimp -proj only
    | split

theorem freshSeq_kept_eq {s x : State} {r u} (h : Kept s x) (e : freshSeq x = (r, u)) :
    Kept s u := by
  simpa only [e] using freshSeq_kept (s := s) (x := x) h

theorem sendOwn_kept {s x : State} {a0 a1 a2 a3} (h : Kept s x) :
    Kept s (sendOwn x a0 a1 a2 a3) := by
  unfold sendOwn
  repeat' first
    | with_reducible assumption
    | with_reducible refine queueMos_kept ?_
    | with_reducible refine freshSeq_kept ?_
    | with_reducible refine freshSeq_kept_eq ?_ (by with_reducible assumption)
    | with_reducible refine ite_kept ?_ ?_
    | with_reducible refine foldl_kept ?_ (fun t a h => ?_)
    | decide
    | dsimp -proj only
    | split

theorem queueNotify_kept {s x : State} {a0} (h : Kept s x) :
    Kept s (queueNotify x a0) := by
  unfold queueNotify
  repeat' first
    | with_reducible assumption
    | with_reducible refine modLink_kept ?_
    | with_reducible refine sendOwn_kept ?_
    | with_reducible refine ite_kept ?_ ?_
    | with_reducible refine foldl_kept ?_ (fun t a h => ?_)
    | decide
    | dsimp -proj only
    | split

theorem watchAttn_kept {s x : State} (h : Kept s x) :
    Kept s (watchAttn x) := by
  unfold watchAttn
  try dsimp -zeta -proj only [upd_imc]
  repeat' first
    | with_reducible assumption
    | with_reducible refine queueNotify_kept ?_
    | with_reducible refine putImc_kept ?_
    | with_reducible refine ite_kept ?_ ?_
    | with_reducible refine foldl_kept ?_ (fun t a h => ?_)
    | decide
    | dsimp -proj only
    | split

theorem unholdErase_kept {s x : State} (h : Kept s x) : Kept s (unholdErase x) :=
  Kept.of_keeps (fun k hk => unholdErase_keeps hk (k.same_refl x)) (by decide) h

theorem fin_kept {s x : State} (h : Kept s x) :
    Kept s (fin x) := by
  unfold fin
  repeat' first
    | with_reducible assumption
    | with_reducible refine restartHeel_kept ?_
    | with_reducible refine watchAttn_kept ?_
    | with_reducible refine unholdErase_kept ?_
    | with_reducible refine ite_kept ?_ ?_
    | with_reducible refine foldl_kept ?_ (fun t a h => ?_)
    | decide
    | dsimp -proj only
    | split

theorem done_kept {s x : State} (h : Kept s x) : ∃ t, done x = .next t ∧ Kept s t := ⟨fin x, rfl, fin_kept h⟩

theorem setStage_kept {s x : State} {a0 a1 a2} (h : Kept s x) : Kept s (setStage x a0 a1 a2) :=
  Kept.of_keeps (fun k hk => setStage_keeps (a0 := a0) (a1 := a1) (a2 := a2) hk (k.same_refl x)) (by decide) h

theorem stillUnit_kept {s x : State} {a0 a1} (h : Kept s x) : Kept s (stillUnit x a0 a1) :=
  Kept.of_keeps (fun k hk => stillUnit_keeps (a0 := a0) (a1 := a1) hk (k.same_refl x)) (by decide) h

theorem sendSpare_kept {s x : State} {a0 a1 a2 a3} (h : Kept s x) :
    Kept s (sendSpare x a0 a1 a2 a3) := by
  unfold sendSpare
  repeat' first
    | with_reducible assumption
    | with_reducible refine modLink_kept ?_
    | with_reducible refine queueMos_kept ?_
    | with_reducible refine freshSeq_kept ?_
    | with_reducible refine freshSeq_kept_eq ?_ (by with_reducible assumption)
    | with_reducible refine ite_kept ?_ ?_
    | with_reducible refine foldl_kept ?_ (fun t a h => ?_)
    | decide
    | dsimp -proj only
    | split

theorem setSpare_kept {s x : State} {a0 a1 a2 a3} (h : Kept s x) : Kept s (setSpare x a0 a1 a2 a3) :=
  Kept.of_keeps (fun k hk => setSpare_keeps (a0 := a0) (a1 := a1) (a2 := a2) (a3 := a3) hk (k.same_refl x)) (by decide) h

theorem beginSwap_kept {s x : State} {a0 a1 a2 a3 a4 a5} (h : Kept s x) :
    Kept s (beginSwap x a0 a1 a2 a3 a4 a5) := by
  unfold beginSwap
  repeat' first
    | with_reducible assumption
    | with_reducible refine useFree_kept ?_
    | with_reducible refine useFree_kept_eq ?_ (by with_reducible assumption)
    | with_reducible refine modLink_kept ?_
    | with_reducible refine sendSpare_kept ?_
    | with_reducible refine setSpare_kept ?_
    | with_reducible refine ite_kept ?_ ?_
    | with_reducible refine foldl_kept ?_ (fun t a h => ?_)
    | decide
    | dsimp -proj only
    | split

theorem startRecal_kept {s x : State} {a0} (h : Kept s x) :
    Kept s (startRecal x a0) := by
  unfold startRecal
  try dsimp -zeta -proj only [upd_cal]
  repeat' first
    | with_reducible assumption
    | with_reducible refine stillUnit_kept ?_
    | with_reducible refine beginSwap_kept ?_
    | with_reducible refine putCal_kept ?_
    | with_reducible refine ite_kept ?_ ?_
    | with_reducible refine foldl_kept ?_ (fun t a h => ?_)
    | decide
    | dsimp -proj only
    | split

theorem nextRecal_kept {s x : State} (h : Kept s x) :
    Kept s (nextRecal x) := by
  unfold nextRecal
  repeat' first
    | with_reducible assumption
    | with_reducible refine startRecal_kept ?_
    | with_reducible refine ite_kept ?_ ?_
    | with_reducible refine foldl_kept ?_ (fun t a h => ?_)
    | decide
    | dsimp -proj only
    | split

theorem modCal_kept {s x : State} {a0 a1 a2} (h : Kept s x) : Kept s (modCal x a0 a1 a2) :=
  Kept.of_keeps (fun k hk => modCal_keeps (a0 := a0) (a1 := a1) (a2 := a2) hk (k.same_refl x)) (by decide) h

theorem keepUnit_kept {s x : State} (h : Kept s x) : Kept s (keepUnit x) := by
  unfold keepUnit
  dsimp -zeta -proj only [upd_free]
  extract_lets
  refine putFree_kept (modCal_kept (modCal_kept h)) ?_
  rw [modCal_keeps (k := .free) (by decide) (modCal_keeps (k := .free) (by decide) (Comp.free.same_refl x))]
  exact Nat.le_add_right _ _

theorem followStandin_kept {s x : State} (h : Kept s x) :
    Kept s (followStandin x) := by
  unfold followStandin
  repeat' first
    | with_reducible assumption
    | with_reducible refine setStage_kept ?_
    | with_reducible refine endRecal_kept ?_
    | with_reducible refine nextRecal_kept ?_
    | with_reducible refine beginSwap_kept ?_
    | with_reducible refine keepUnit_kept ?_
    | with_reducible refine ite_kept ?_ ?_
    | with_reducible refine foldl_kept ?_ (fun t a h => ?_)
    | decide
    | dsimp -proj only
    | split

theorem coolRx_kept {s x : State} {a0 a1 a2} (h : Kept s x) : Kept s (coolRx x a0 a1 a2) :=
  Kept.of_keeps (fun k hk => coolRx_keeps (a0 := a0) (a1 := a1) (a2 := a2) hk (k.same_refl x)) (by decide) h

theorem openPos_kept {s x : State} {a0} (h : Kept s x) : Kept s (openPos x a0) :=
  Kept.of_keeps (fun k hk => openPos_keeps (a0 := a0) hk (k.same_refl x)) (by decide) h

theorem modTx_kept {s x : State} {a0 a1 a2} (h : Kept s x) : Kept s (modTx x a0 a1 a2) :=
  Kept.of_keeps (fun k hk => modTx_keeps (a0 := a0) (a1 := a1) (a2 := a2) hk (k.same_refl x)) (by decide) h

theorem endTestJob_kept {s x : State} {a0 a1} (h : Kept s x) : Kept s (endTestJob x a0 a1) :=
  Kept.of_keeps (fun k hk => endTestJob_keeps (a0 := a0) (a1 := a1) hk (k.same_refl x)) (by decide) h

theorem endTests_kept {s x : State} {a0 a1} (h : Kept s x) :
    Kept s (endTests x a0 a1) := by
  unfold endTests
  repeat' first
    | with_reducible assumption
    | with_reducible refine logL_kept ?_
    | with_reducible refine endTestJob_kept ?_
    | with_reducible refine modMeas_kept ?_
    | with_reducible refine ite_kept ?_ ?_
    | with_reducible refine foldl_kept ?_ (fun t a h => ?_)
    | decide
    | dsimp -proj only
    | split

theorem closePos_kept {s x : State} {a0} (h : Kept s x) :
    Kept s (closePos x a0) := by
  unfold closePos
  try dsimp -zeta -proj only [upd_welt]
  repeat' first
    | with_reducible assumption
    | with_reducible refine modTx_kept ?_
    | with_reducible refine modMeas_kept ?_
    | with_reducible refine endTests_kept ?_
    | with_reducible refine putWelt_kept ?_
    | with_reducible refine ite_kept ?_ ?_
    | with_reducible refine foldl_kept ?_ (fun t a h => ?_)
    | decide
    | dsimp -proj only
    | split

theorem settlePos_kept {s x : State} {a0} (h : Kept s x) :
    Kept s (settlePos x a0) := by
  unfold settlePos
  repeat' first
    | with_reducible assumption
    | with_reducible refine openPos_kept ?_
    | with_reducible refine closePos_kept ?_
    | with_reducible refine ite_kept ?_ ?_
    | with_reducible refine foldl_kept ?_ (fun t a h => ?_)
    | decide
    | dsimp -proj only
    | split

theorem settleAll_kept {s x : State} (h : Kept s x) :
    Kept s (settleAll x) := by
  unfold settleAll
  repeat' first
    | with_reducible assumption
    | with_reducible refine settlePos_kept ?_
    | with_reducible refine ite_kept ?_ ?_
    | with_reducible refine foldl_kept ?_ (fun t a h => ?_)
    | decide
    | dsimp -proj only
    | split

theorem retarget_kept {s x : State} {a0} (h : Kept s x) : Kept s (retarget a0 x) :=
  Kept.of_keeps (fun k hk => retarget_keeps (a0 := a0) hk (k.same_refl x)) (by decide) h

theorem leaveSpare_kept {s x : State} {a0 a1} (h : Kept s x) :
    Kept s (leaveSpare x a0 a1) := by
  unfold leaveSpare
  try dsimp -zeta -proj only [upd_last]
  repeat' first
    | with_reducible assumption
    | with_reducible refine settleAll_kept ?_
    | with_reducible refine modLink_kept ?_
    | with_reducible refine retarget_kept ?_
    | with_reducible refine setSpare_kept ?_
    | with_reducible refine putLast_kept ?_
    | with_reducible refine ite_kept ?_ ?_
    | with_reducible refine foldl_kept ?_ (fun t a h => ?_)
    | decide
    | dsimp -proj only
    | split

theorem restSpare_kept {s x : State} {a0 a1 a2} (h : Kept s x) :
    Kept s (restSpare x a0 a1 a2) := by
  unfold restSpare
  repeat' first
    | with_reducible assumption
    | with_reducible refine coolRx_kept ?_
    | with_reducible refine leaveSpare_kept ?_
    | with_reducible refine setSpare_kept ?_
    | with_reducible refine ite_kept ?_ ?_
    | with_reducible refine foldl_kept ?_ (fun t a h => ?_)
    | decide
    | dsimp -proj only
    | split

theorem logK_kept {s x : State} {a0 a1 a2} (h : Kept s x) :
    Kept s (logK x a0 a1 a2) := by
  unfold logK
  repeat' first
    | with_reducible assumption
    | with_reducible refine logEvent_kept ?_
    | with_reducible refine ite_kept ?_ ?_
    | with_reducible refine foldl_kept ?_ (fun t a h => ?_)
    | decide
    | dsimp -proj only
    | split

theorem checkDone_kept {s x : State} (h : Kept s x) :
    Kept s (checkDone x) := by
  unfold checkDone
  try dsimp -zeta -proj only [upd_last]
  repeat' first
    | with_reducible assumption
    | with_reducible refine logEvent_kept ?_
    | with_reducible refine putLast_kept ?_
    | with_reducible refine ite_kept ?_ ?_
    | with_reducible refine foldl_kept ?_ (fun t a h => ?_)
    | decide
    | dsimp -proj only
    | split

theorem setResult_kept {s x : State} {a0 a1} (h : Kept s x) :
    Kept s (setResult x a0 a1) := by
  unfold setResult
  try dsimp -zeta -proj only [upd_last]
  repeat' first
    | with_reducible assumption
    | with_reducible refine modLink_kept ?_
    | with_reducible refine checkDone_kept ?_
    | with_reducible refine putLast_kept ?_
    | with_reducible refine ite_kept ?_ ?_
    | with_reducible refine foldl_kept ?_ (fun t a h => ?_)
    | decide
    | dsimp -proj only
    | split

theorem refreshSpare_kept {s x : State} {a0 a1 a2} (h : Kept s x) : Kept s (refreshSpare a0 x a1 a2) :=
  Kept.of_keeps (fun k hk => refreshSpare_keeps (a0 := a0) (a1 := a1) (a2 := a2) hk (k.same_refl x)) (by decide) h

theorem dropHolds_kept {s x : State} {a0 a1} (h : Kept s x) : Kept s (dropHolds x a0 a1) :=
  Kept.of_keeps (fun k hk => dropHolds_keeps (a0 := a0) (a1 := a1) hk (k.same_refl x)) (by decide) h

theorem stepEpoch_kept {s x : State} {a0} (h : Kept s x) : Kept s (stepEpoch x a0) :=
  Kept.of_keeps (fun k hk => stepEpoch_keeps (a0 := a0) hk (k.same_refl x)) (by decide) h

theorem moveHold_kept {s x : State} {a0 a1 a2} (h : Kept s x) : Kept s (moveHold a0 a1 a2 x) :=
  Kept.of_keeps (fun k hk => moveHold_keeps (a0 := a0) (a1 := a1) (a2 := a2) hk (k.same_refl x)) (by decide) h

theorem withMasters_kept {s x : State} {a0 a1} (hf : ∀ t, Kept s t → Kept s (a1 t)) (h : Kept s x) :
    Kept s (withMasters x a0 a1) := by
  unfold withMasters
  repeat' first
    | with_reducible assumption
    | with_reducible refine hf _ ?_
    | with_reducible refine moveHold_kept ?_
    | with_reducible refine modLink_kept ?_
    | with_reducible refine ite_kept ?_ ?_
    | with_reducible refine foldl_kept ?_ (fun t a h => ?_)
    | decide
    | dsimp -proj only
    | split

theorem lockPlls_kept {s x : State} {a0} (h : Kept s x) :
    Kept s (lockPlls x a0) := by
  unfold lockPlls
  try dsimp -zeta -proj only [upd_power]
  repeat' first
    | with_reducible assumption
    | with_reducible refine useFree_kept ?_
    | with_reducible refine useFree_kept_eq ?_ (by with_reducible assumption)
    | with_reducible refine putPower_kept ?_
    | with_reducible refine ite_kept ?_ ?_
    | with_reducible refine foldl_kept ?_ (fun t a h => ?_)
    | decide
    | dsimp -proj only
    | split

theorem relockPlls_kept {s x : State} {a0} (h : Kept s x) :
    Kept s (relockPlls x a0) := by
  unfold relockPlls
  repeat' first
    | with_reducible assumption
    | with_reducible refine lockPlls_kept ?_
    | with_reducible refine ite_kept ?_ ?_
    | with_reducible refine foldl_kept ?_ (fun t a h => ?_)
    | decide
    | dsimp -proj only
    | split

theorem takeUp_kept {s x : State} {a0 a1} (h : Kept s x) :
    Kept s (takeUp x a0 a1) := by
  unfold takeUp
  try dsimp -zeta -proj only [upd_last]
  repeat' first
    | with_reducible assumption
    | with_reducible refine settleAll_kept ?_
    | with_reducible refine retarget_kept ?_
    | with_reducible refine refreshSpare_kept ?_
    | with_reducible refine dropHolds_kept ?_
    | with_reducible refine stepEpoch_kept ?_
    | with_reducible refine withMasters_kept (fun t h => ?_) ?_
    | with_reducible refine relockPlls_kept ?_
    | with_reducible refine putLast_kept ?_
    | with_reducible refine ite_kept ?_ ?_
    | with_reducible refine foldl_kept ?_ (fun t a h => ?_)
    | decide
    | dsimp -proj only
    | split

theorem switchLink_kept {s x : State} {a0} (h : Kept s x) :
    Kept s (switchLink x a0) := by
  unfold switchLink
  repeat' first
    | with_reducible assumption
    | with_reducible refine takeUp_kept ?_
    | with_reducible refine ite_kept ?_ ?_
    | with_reducible refine foldl_kept ?_ (fun t a h => ?_)
    | decide
    | dsimp -proj only
    | split

theorem switchNow_kept {s x : State} {a0} (h : Kept s x) :
    Kept s (switchNow x a0) := by
  unfold switchNow
  repeat' first
    | with_reducible assumption
    | with_reducible refine setResult_kept ?_
    | with_reducible refine switchLink_kept ?_
    | with_reducible refine ite_kept ?_ ?_
    | with_reducible refine foldl_kept ?_ (fun t a h => ?_)
    | decide
    | dsimp -proj only
    | split

theorem endPbl_kept {s x : State} {a0} (h : Kept s x) : Kept s (endPbl x a0) :=
  Kept.of_keeps (fun k hk => endPbl_keeps (a0 := a0) hk (k.same_refl x)) (by decide) h

theorem dropSwap_kept {s x : State} {a0 a1} (h : Kept s x) : Kept s (dropSwap x a0 a1) :=
  Kept.of_keeps (fun k hk => dropSwap_keeps (a0 := a0) (a1 := a1) hk (k.same_refl x)) (by decide) h

theorem endSwaps_kept {s x : State} {a0} (h : Kept s x) :
    Kept s (endSwaps x a0) := by
  unfold endSwaps
  repeat' first
    | with_reducible assumption
    | with_reducible refine restSpare_kept ?_
    | with_reducible refine modLink_kept ?_
    | with_reducible refine abortRecal_kept ?_
    | with_reducible refine dropSwap_kept ?_
    | with_reducible refine ite_kept ?_ ?_
    | with_reducible refine foldl_kept ?_ (fun t a h => ?_)
    | decide
    | dsimp -proj only
    | split

theorem endSearches_kept {s x : State} {a0} (h : Kept s x) : Kept s (endSearches x a0) :=
  Kept.of_keeps (fun k hk => endSearches_keeps (a0 := a0) hk (k.same_refl x)) (by decide) h

theorem dropMos_kept {s x : State} {a0 a1} (h : Kept s x) : Kept s (dropMos x a0 a1) :=
  Kept.of_keeps (fun k hk => dropMos_keeps (a0 := a0) (a1 := a1) hk (k.same_refl x)) (by decide) h

theorem allReset_kept {s x : State} {a0} (h : Kept s x) : Kept s (allReset x a0) :=
  Kept.of_keeps (fun k hk => allReset_keeps (a0 := a0) hk (k.same_refl x)) (by decide) h

theorem leaveDisabled_kept {s x : State} {a0} (h : Kept s x) :
    Kept s (leaveDisabled x a0) := by
  unfold leaveDisabled
  repeat' first
    | with_reducible assumption
    | with_reducible refine endTests_kept ?_
    | with_reducible refine ite_kept ?_ ?_
    | with_reducible refine foldl_kept ?_ (fun t a h => ?_)
    | decide
    | dsimp -proj only
    | split

theorem dropLink_kept {s x : State} {a0} (h : Kept s x) :
    Kept s (dropLink x a0) := by
  unfold dropLink
  repeat' first
    | with_reducible assumption
    | with_reducible refine modLink_kept ?_
    | with_reducible refine endPbl_kept ?_
    | with_reducible refine endSwaps_kept ?_
    | with_reducible refine endSearches_kept ?_
    | with_reducible refine dropMos_kept ?_
    | with_reducible refine allReset_kept ?_
    | with_reducible refine leaveDisabled_kept ?_
    | with_reducible refine withMasters_kept (fun t h => ?_) ?_
    | with_reducible refine ite_kept ?_ ?_
    | with_reducible refine foldl_kept ?_ (fun t a h => ?_)
    | decide
    | dsimp -proj only
    | split

theorem standAside_kept {s x : State} {a0} (h : Kept s x) :
    Kept s (standAside x a0) := by
  unfold standAside
  repeat' first
    | with_reducible assumption
    | with_reducible refine switchNow_kept ?_
    | with_reducible refine settleAll_kept ?_
    | with_reducible refine modLink_kept ?_
    | with_reducible refine dropLink_kept ?_
    | with_reducible refine ite_kept ?_ ?_
    | with_reducible refine foldl_kept ?_ (fun t a h => ?_)
    | decide
    | dsimp -proj only
    | split

theorem partAside_kept {s x : State} {a0 a1} (h : Kept s x) :
    Kept s (partAside x a0 a1) := by
  unfold partAside
  repeat' first
    | with_reducible assumption
    | with_reducible refine settleAll_kept ?_
    | with_reducible refine modLink_kept ?_
    | with_reducible refine logK_kept ?_
    | with_reducible refine standAside_kept ?_
    | with_reducible refine ite_kept ?_ ?_
    | with_reducible refine foldl_kept ?_ (fun t a h => ?_)
    | decide
    | dsimp -proj only
    | split

theorem setUnrecovered_kept {s x : State} {a0 a1} (h : Kept s x) :
    Kept s (setUnrecovered x a0 a1) := by
  unfold setUnrecovered
  repeat' first
    | with_reducible assumption
    | with_reducible refine modLink_kept ?_
    | with_reducible refine logK_kept ?_
    | with_reducible refine ite_kept ?_ ?_
    | with_reducible refine foldl_kept ?_ (fun t a h => ?_)
    | decide
    | dsimp -proj only
    | split

theorem lossDown_kept {s x : State} {a0} (h : Kept s x) :
    Kept s (lossDown x a0) := by
  unfold lossDown
  repeat' first
    | with_reducible assumption
    | with_reducible refine modLink_kept ?_
    | with_reducible refine logK_kept ?_
    | with_reducible refine partAside_kept ?_
    | with_reducible refine setUnrecovered_kept ?_
    | with_reducible refine ite_kept ?_ ?_
    | with_reducible refine foldl_kept ?_ (fun t a h => ?_)
    | decide
    | dsimp -proj only
    | split

theorem abandonSwap_kept {s x : State} {a0} (h : Kept s x) :
    Kept s (abandonSwap x a0) := by
  unfold abandonSwap
  repeat' first
    | with_reducible assumption
    | with_reducible refine restSpare_kept ?_
    | with_reducible refine dropSwap_kept ?_
    | with_reducible refine setSpare_kept ?_
    | with_reducible refine ite_kept ?_ ?_
    | with_reducible refine foldl_kept ?_ (fun t a h => ?_)
    | decide
    | dsimp -proj only
    | split

theorem enterRetrain_kept {s x : State} {a0} (h : Kept s x) :
    Kept s (enterRetrain x a0) := by
  unfold enterRetrain
  repeat' first
    | with_reducible assumption
    | with_reducible refine setResult_kept ?_
    | with_reducible refine abandonSwap_kept ?_
    | with_reducible refine modLink_kept ?_
    | with_reducible refine endPbl_kept ?_
    | with_reducible refine dropMos_kept ?_
    | with_reducible refine switchLink_kept ?_
    | with_reducible refine ite_kept ?_ ?_
    | with_reducible refine foldl_kept ?_ (fun t a h => ?_)
    | decide
    | dsimp -proj only
    | split

theorem requestRetrain_kept {s x : State} {a0} (h : Kept s x) :
    Kept s (requestRetrain x a0) := by
  unfold requestRetrain
  repeat' first
    | with_reducible assumption
    | with_reducible refine modLink_kept ?_
    | with_reducible refine enterRetrain_kept ?_
    | with_reducible refine sendOwn_kept ?_
    | with_reducible refine ite_kept ?_ ?_
    | with_reducible refine foldl_kept ?_ (fun t a h => ?_)
    | decide
    | dsimp -proj only
    | split

theorem lossDegrade_kept {s x : State} {a0} (h : Kept s x) :
    Kept s (lossDegrade x a0) := by
  unfold lossDegrade
  repeat' first
    | with_reducible assumption
    | with_reducible refine modLink_kept ?_
    | with_reducible refine lossDown_kept ?_
    | with_reducible refine requestRetrain_kept ?_
    | with_reducible refine ite_kept ?_ ?_
    | with_reducible refine foldl_kept ?_ (fun t a h => ?_)
    | decide
    | dsimp -proj only
    | split

theorem logLane_kept {s x : State} {a0 a1 a2 a3 a4} (h : Kept s x) :
    Kept s (logLane x a0 a1 a2 a3 a4) := by
  unfold logLane
  repeat' first
    | with_reducible assumption
    | with_reducible refine logEvent_kept ?_
    | with_reducible refine ite_kept ?_ ?_
    | with_reducible refine foldl_kept ?_ (fun t a h => ?_)
    | decide
    | dsimp -proj only
    | split

theorem spareFallback_kept {s x : State} {a0 a1 a2} (h : Kept s x) :
    Kept s (spareFallback x a0 a1 a2) := by
  unfold spareFallback
  repeat' first
    | with_reducible assumption
    | with_reducible refine lossDegrade_kept ?_
    | with_reducible refine logLane_kept ?_
    | with_reducible refine ite_kept ?_ ?_
    | with_reducible refine foldl_kept ?_ (fun t a h => ?_)
    | decide
    | dsimp -proj only
    | split

theorem vacate_kept {s x : State} {a0 a1} (h : Kept s x) : Kept s (vacate x a0 a1) :=
  Kept.of_keeps (fun k hk => vacate_keeps (a0 := a0) (a1 := a1) hk (k.same_refl x)) (by decide) h

theorem setSwapResult_kept {s x : State} {a0 a1} (h : Kept s x) : Kept s (setSwapResult x a0 a1) :=
  Kept.of_keeps (fun k hk => setSwapResult_keeps (a0 := a0) (a1 := a1) hk (k.same_refl x)) (by decide) h

theorem lossSpare_kept {s x : State} {a0 a1 a2} (h : Kept s x) :
    Kept s (lossSpare x a0 a1 a2) := by
  unfold lossSpare
  repeat' first
    | with_reducible assumption
    | with_reducible refine stopRecal_kept ?_
    | with_reducible refine spareFallback_kept ?_
    | with_reducible refine modLink_kept ?_
    | with_reducible refine setSwapResult_kept ?_
    | with_reducible refine beginSwap_kept ?_
    | with_reducible refine ite_kept ?_ ?_
    | with_reducible refine foldl_kept ?_ (fun t a h => ?_)
    | decide
    | dsimp -proj only
    | split

theorem serveWaiting_kept {s x : State} {a0} (h : Kept s x) :
    Kept s (serveWaiting x a0) := by
  unfold serveWaiting
  repeat' first
    | with_reducible assumption
    | with_reducible refine modLink_kept ?_
    | with_reducible refine lossSpare_kept ?_
    | with_reducible refine ite_kept ?_ ?_
    | with_reducible refine foldl_kept ?_ (fun t a h => ?_)
    | decide
    | dsimp -proj only
    | split

theorem joinOut_kept {s x : State} {a0 a1} (h : Kept s x) : Kept s (joinOut x a0 a1) :=
  Kept.of_keeps (fun k hk => joinOut_keeps (a0 := a0) (a1 := a1) hk (k.same_refl x)) (by decide) h

theorem giveUp_kept {s x : State} {a0 a1} (h : Kept s x) :
    Kept s (giveUp x a0 a1) := by
  unfold giveUp
  repeat' first
    | with_reducible assumption
    | with_reducible refine modLink_kept ?_
    | with_reducible refine joinOut_kept ?_
    | with_reducible refine freshSeq_kept ?_
    | with_reducible refine freshSeq_kept_eq ?_ (by with_reducible assumption)
    | with_reducible refine ite_kept ?_ ?_
    | with_reducible refine foldl_kept ?_ (fun t a h => ?_)
    | decide
    | dsimp -proj only
    | split

theorem logSwap_kept {s x : State} {a0 a1 a2 a3} (h : Kept s x) :
    Kept s (logSwap x a0 a1 a2 a3) := by
  unfold logSwap
  repeat' first
    | with_reducible assumption
    | with_reducible refine logLane_kept ?_
    | with_reducible refine ite_kept ?_ ?_
    | with_reducible refine foldl_kept ?_ (fun t a h => ?_)
    | decide
    | dsimp -proj only
    | split

theorem failSwap_kept {s x : State} {a0 a1 a2 a3} (h : Kept s x) :
    Kept s (failSwap x a0 a1 a2 a3) := by
  unfold failSwap
  try dsimp -zeta -proj only [upd_cal]
  repeat' first
    | with_reducible assumption
    | with_reducible refine restSpare_kept ?_
    | with_reducible refine spareFallback_kept ?_
    | with_reducible refine vacate_kept ?_
    | with_reducible refine modLink_kept ?_
    | with_reducible refine serveWaiting_kept ?_
    | with_reducible refine leaveSpare_kept ?_
    | with_reducible refine setSwapResult_kept ?_
    | with_reducible refine giveUp_kept ?_
    | with_reducible refine sendSpare_kept ?_
    | with_reducible refine logSwap_kept ?_
    | with_reducible refine setSpare_kept ?_
    | with_reducible refine putCal_kept ?_
    | with_reducible refine ite_kept ?_ ?_
    | with_reducible refine foldl_kept ?_ (fun t a h => ?_)
    | decide
    | dsimp -proj only
    | split

theorem execSwapTimeout_kept {s x : State} {a0} (h : Kept s x) :
    ∃ t, execSwapTimeout a0 x = .next t ∧ Kept s t := by
  unfold execSwapTimeout
  repeat' first
    | with_reducible assumption
    | with_reducible refine done_kept ?_
    | with_reducible refine followStandin_kept ?_
    | with_reducible refine failSwap_kept ?_
    | with_reducible refine ite_kept ?_ ?_
    | with_reducible refine foldl_kept ?_ (fun t a h => ?_)
    | decide
    | dsimp -proj only
    | split

theorem forceLink_kept {s x : State} {a0} (h : Kept s x) :
    Kept s (forceLink x a0) := by
  unfold forceLink
  repeat' first
    | with_reducible assumption
    | with_reducible refine switchNow_kept ?_
    | with_reducible refine setResult_kept ?_
    | with_reducible refine modLink_kept ?_
    | with_reducible refine dropLink_kept ?_
    | with_reducible refine ite_kept ?_ ?_
    | with_reducible refine foldl_kept ?_ (fun t a h => ?_)
    | decide
    | dsimp -proj only
    | split

theorem restartLink_kept {s x : State} {a0} (h : Kept s x) : Kept s (restartLink x a0) :=
  Kept.of_keeps (fun k hk => restartLink_keeps (a0 := a0) hk (k.same_refl x)) (by decide) h

theorem settle_kept {s x : State} (h : Kept s x) :
    Kept s (settle x) := by
  unfold settle
  repeat' first
    | with_reducible assumption
    | with_reducible refine settleAll_kept ?_
    | with_reducible refine forceLink_kept ?_
    | with_reducible refine restartLink_kept ?_
    | with_reducible refine ite_kept ?_ ?_
    | with_reducible refine foldl_kept ?_ (fun t a h => ?_)
    | decide
    | dsimp -proj only
    | split

theorem enterShutdown_kept {s x : State} {a0} (h : Kept s x) :
    Kept s (enterShutdown x a0) := by
  unfold enterShutdown
  try dsimp -zeta -proj only [upd_therm]
  repeat' first
    | with_reducible assumption
    | with_reducible refine logEvent_kept ?_
    | with_reducible refine settle_kept ?_
    | with_reducible refine putTherm_kept ?_
    | with_reducible refine ite_kept ?_ ?_
    | with_reducible refine foldl_kept ?_ (fun t a h => ?_)
    | decide
    | dsimp -proj only
    | split

theorem logIslandOff_kept {s x : State} {a0 a1} (h : Kept s x) :
    Kept s (logIslandOff x a0 a1) := by
  unfold logIslandOff
  repeat' first
    | with_reducible assumption
    | with_reducible refine logEvent_kept ?_
    | with_reducible refine ite_kept ?_ ?_
    | with_reducible refine foldl_kept ?_ (fun t a h => ?_)
    | decide
    | dsimp -proj only
    | split

theorem sendStart_kept {s x : State} {a0} (h : Kept s x) : Kept s (sendStart x a0) :=
  Kept.of_keeps (fun k hk => sendStart_keeps (a0 := a0) hk (k.same_refl x)) (by decide) h

theorem logDenied_kept {s x : State} {a0 a1} (h : Kept s x) :
    Kept s (logDenied x a0 a1) := by
  unfold logDenied
  try dsimp -zeta -proj only [upd_twb]
  repeat' first
    | with_reducible assumption
    | with_reducible refine logEvent_kept ?_
    | with_reducible refine putTwb_kept ?_
    | with_reducible refine ite_kept ?_ ?_
    | with_reducible refine foldl_kept ?_ (fun t a h => ?_)
    | decide
    | dsimp -proj only
    | split

theorem finishWith_kept {s x : State} {a0 a1 a2 a3} (h : Kept s x) : Kept s (finishWith x a0 a1 a2 a3) :=
  Kept.of_keeps (fun k hk => finishWith_keeps (a0 := a0) (a1 := a1) (a2 := a2) (a3 := a3) hk (k.same_refl x)) (by decide) h

theorem keepJob_kept {s x : State} {a0 a1} (h : Kept s x) : Kept s (keepJob x a0 a1) :=
  Kept.of_keeps (fun k hk => keepJob_keeps (a0 := a0) (a1 := a1) hk (k.same_refl x)) (by decide) h

theorem setNvm_kept {s y : State} {v : NvmSt} (h : Kept s y) (g : y.nvm.Keeps v) : Kept s { y with nvm := v } :=
  putNvm_kept h g

theorem NvmSt.begin_keeps (n : NvmSt) : n.Keeps { n with suspended := false, forJob := false, own := [] } :=
  ⟨fun w => w, rfl⟩

theorem NvmSt.setLogErase_keeps (n : NvmSt) (o : Option Nat) : n.Keeps { n with logErase := o } := ⟨fun w => w, rfl⟩

theorem markBegun_kept {s x : State} {a0} (h : Kept s x) : Kept s (markBegun x a0) := by
  have g := tearSector_keeps x.nvm a0
  unfold markBegun
  generalize tearSector x.nvm a0 = m at g ⊢
  exact setNvm_kept h ((g.trans (NvmSt.setDirty_keeps _ a0)).trans (NvmSt.begin_keeps _))

theorem logPut_kept {s x : State} {a0 a1 a2 a3} (h : Kept s x) : Kept s (logPut x a0 a1 a2 a3) := by
  unfold logPut
  refine ite_kept h ?_
  exact setNvm_kept h (((NvmSt.setCell_keeps _ _ _).trans (NvmSt.setCell_keeps _ _ _)).trans ⟨fun w => w, rfl⟩)

theorem writeMarks_kept {s x : State} {a0} (h : Kept s x) : Kept s (writeMarks a0 x) := by
  induction a0 generalizing x with
  | zero => exact h
  | succ n ih =>
    unfold writeMarks
    split
    · exact h
    · exact ih (logPut_kept (setNvm_kept h ⟨fun w => w, rfl⟩))

theorem rotateLog_kept {s x : State} (h : Kept s x) : Kept s (rotateLog x) := by
  have h1 := setNvm_kept (v := { x.nvm with eraseDue := true }) h ⟨fun w => w, rfl⟩
  unfold rotateLog
  extract_lets s1
  split
  · exact h1
  · exact writeMarks_kept (setNvm_kept h1 ⟨fun w => w, rfl⟩)

theorem writeLog_kept {s x : State} {a0 a1 a2 a3} (h : Kept s x) :
    Kept s (writeLog x a0 a1 a2 a3) := by
  unfold writeLog
  repeat' first
    | with_reducible assumption
    | with_reducible refine logPut_kept ?_
    | with_reducible refine rotateLog_kept ?_
    | with_reducible refine ite_kept ?_ ?_
    | with_reducible refine foldl_kept ?_ (fun t a h => ?_)
    | decide
    | dsimp -proj only
    | split

theorem beginErase_kept {s x : State} {a0} (h : Kept s x) :
    Kept s (beginErase x a0) := by
  unfold beginErase
  repeat' first
    | with_reducible assumption
    | with_reducible refine markBegun_kept ?_
    | with_reducible refine writeLog_kept ?_
    | with_reducible refine ite_kept ?_ ?_
    | with_reducible refine foldl_kept ?_ (fun t a h => ?_)
    | decide
    | dsimp -proj only
    | split

theorem eraseSetUp_kept {s x : State} {a0} (h : Kept s x) :
    Kept s (eraseSetUp x a0) := by
  unfold eraseSetUp
  repeat' first
    | with_reducible assumption
    | with_reducible refine finishWith_kept ?_
    | with_reducible refine keepJob_kept ?_
    | with_reducible refine beginErase_kept ?_
    | with_reducible refine ite_kept ?_ ?_
    | with_reducible refine foldl_kept ?_ (fun t a h => ?_)
    | decide
    | dsimp -proj only
    | split

theorem channelValid_kept {s x : State} {a0 a1} (h : Kept s x) :
    Kept s (channelValid x a0 a1) := by
  unfold channelValid
  try dsimp -zeta -proj only [upd_tm]
  repeat' first
    | with_reducible assumption
    | with_reducible refine logEvent_kept ?_
    | with_reducible refine putTm_kept ?_
    | with_reducible refine ite_kept ?_ ?_
    | with_reducible refine foldl_kept ?_ (fun t a h => ?_)
    | decide
    | dsimp -proj only
    | split

theorem execSkipAbsent_kept {s x : State} {a0} (h : Kept s x) :
    ∃ t, execSkipAbsent a0 x = .next t ∧ Kept s t := by
  unfold execSkipAbsent
  repeat' first
    | with_reducible assumption
    | with_reducible refine done_kept ?_
    | with_reducible refine setResult_kept ?_
    | with_reducible refine logK_kept ?_
    | with_reducible refine switchLink_kept ?_
    | with_reducible refine ite_kept ?_ ?_
    | with_reducible refine foldl_kept ?_ (fun t a h => ?_)
    | decide
    | dsimp -proj only
    | split

theorem keepRead_kept {s : State} {a0} {r : Word × State} (h : Kept s r.2) : Kept s (keepRead a0 r) := by
  unfold keepRead
  dsimp -zeta -proj only [upd_acc]
  exact putAcc_kept h

theorem stepCe_kept {s x : State} (h : Kept s x) :
    Kept s (stepCe x) := by
  unfold stepCe
  try dsimp -zeta -proj only [upd_nvm]
  repeat' first
    | with_reducible assumption
    | with_reducible refine putNvm_kept ?_ ?_
    | with_reducible refine ite_kept ?_ ?_
    | with_reducible refine foldl_kept ?_ (fun t a h => ?_)
    | with_reducible exact NvmSt.setCell_keeps _ _ _
    | with_reducible refine nvm_keeps_of ?_ ?_
    | exact fun h => h
    | rfl
    | decide
    | dsimp -proj only
    | split

theorem readUnit_kept {s x : State} {a0} (h : Kept s x) :
    Kept s (readUnit x a0).2.2 := by
  unfold readUnit
  try dsimp -zeta -proj only [upd_nvm]
  repeat' first
    | with_reducible assumption
    | with_reducible refine stepCe_kept ?_
    | with_reducible refine useFree_kept ?_
    | with_reducible refine useFree_kept_eq ?_ (by with_reducible assumption)
    | with_reducible refine putNvm_kept ?_ ?_
    | with_reducible refine ite_kept ?_ ?_
    | with_reducible refine foldl_kept ?_ (fun t a h => ?_)
    | with_reducible exact NvmSt.setCell_keeps _ _ _
    | with_reducible refine nvm_keeps_of ?_ ?_
    | exact fun h => h
    | rfl
    | decide
    | dsimp -proj only
    | split

theorem readUnit_kept_eq {s x : State} {a0} {r q u} (h : Kept s x) (e : readUnit x a0 = (r, q, u)) :
    Kept s u := by
  simpa only [e] using readUnit_kept (s := s) (x := x) (a0 := a0) h

theorem nvmWindow_kept {s x : State} {a0} (h : Kept s x) :
    Kept s (nvmWindow x a0).2 := by
  unfold nvmWindow
  try dsimp -zeta -proj only [upd_nvm]
  repeat' first
    | with_reducible assumption
    | with_reducible refine logEvent_kept ?_
    | with_reducible refine readUnit_kept ?_
    | with_reducible refine readUnit_kept_eq ?_ (by with_reducible assumption)
    | with_reducible refine putNvm_kept ?_ ?_
    | with_reducible refine ite_kept ?_ ?_
    | with_reducible refine foldl_kept ?_ (fun t a h => ?_)
    | with_reducible exact NvmSt.setCell_keeps _ _ _
    | with_reducible refine nvm_keeps_of ?_ ?_
    | exact fun h => h
    | rfl
    | decide
    | dsimp -proj only
    | split

theorem nvmWindow_kept_eq {s x : State} {a0} {r u} (h : Kept s x) (e : nvmWindow x a0 = (r, u)) :
    Kept s u := by
  simpa only [e] using nvmWindow_kept (s := s) (x := x) (a0 := a0) h

theorem readReg_kept {s x : State} {a0 a1} (h : Kept s x) : Kept s (readReg x a0 a1).2 :=
  Kept.of_keeps (fun k hk => readReg_keeps (a0 := a0) (a1 := a1) hk (k.same_refl x)) (by decide) h

theorem readReg_kept_eq {s x : State} {a0 a1} {r u} (h : Kept s x) (e : readReg x a0 a1 = (r, u)) :
    Kept s u := 
  Kept.of_keeps (fun k hk => readReg_keeps_eq (a0 := a0) (a1 := a1) hk (k.same_refl x) e) (by decide) h

theorem poisonLine_kept {s x : State} {a0} (h : Kept s x) : Kept s (poisonLine x a0) := by
  unfold poisonLine
  dsimp -zeta -proj only [upd_store, upd_evt_heel]
  have g : Kept s (x.putStore { x.store with
      poison := numSet a0 x.store.poison, ueAddr := BitVec.ofNat 23 (a0 * 64), ueSeen := true
      ueCount := satInc x.store.ueCount }) := putStore_kept h (StoreSt.poisonOne_keeps x.store a0)
  have l := logEvent_kept (a0 := 0x0802) (a1 := 0) (a2 := aData 0 (a0 * 64) 0) g
  exact ite_kept (logEvent_kept (putHeel_kept (putEvt_kept l))) l

theorem countCe_kept {s x : State} (h : Kept s x) :
    Kept s (countCe x) := by
  unfold countCe
  try dsimp -zeta -proj only [upd_store]
  repeat' first
    | with_reducible assumption
    | with_reducible refine logEvent_kept ?_
    | with_reducible refine putStore_kept ?_ ?_
    | with_reducible refine ite_kept ?_ ?_
    | with_reducible refine foldl_kept ?_ (fun t a h => ?_)
    | exact fun h => h
    | decide
    | dsimp -proj only
    | split

theorem eccRead_kept {s x : State} {a0 a1} (h : Kept s x) : Kept s (eccRead x a0 a1) := by
  unfold eccRead
  dsimp -zeta -proj only [upd_store]
  split
  · exact h
  · refine ite_kept (poisonLine_kept ?_) ?_ <;>
      exact foldl_kept (putStore_kept h (StoreSt.filterUpsets_keeps x.store _)) fun _ _ k => countCe_kept k

theorem latchErr_kept {s x : State} {a0 a1 a2 a3 a4} (h : Kept s x) : Kept s (latchErr x a0 a1 a2 a3 a4) := by
  unfold latchErr
  dsimp -zeta -proj only [upd_win]
  exact putWin_kept h ⟨fun w => w, fun w => w⟩

theorem storeReadPa_kept {s x : State} {a0 a1 a2 a3} (h : Kept s x) :
    Kept s (storeReadPa x a0 a1 a2 a3).2 := by
  unfold storeReadPa
  repeat' first
    | with_reducible assumption
    | with_reducible refine logEvent_kept ?_
    | with_reducible refine eccRead_kept ?_
    | with_reducible refine latchErr_kept ?_
    | with_reducible refine ite_kept ?_ ?_
    | with_reducible refine foldl_kept ?_ (fun t a h => ?_)
    | decide
    | dsimp -proj only
    | split

theorem storeReadPa_kept_eq {s x : State} {a0 a1 a2 a3} {r u} (h : Kept s x) (e : storeReadPa x a0 a1 a2 a3 = (r, u)) :
    Kept s u := by
  simpa only [e] using storeReadPa_kept (s := s) (x := x) (a0 := a0) (a1 := a1) (a2 := a2) (a3 := a3) h

theorem winFault_kept {s x : State} {a0 a1 a2 a3 a4} (h : Kept s x) :
    Kept s (winFault x a0 a1 a2 a3 a4) := by
  unfold winFault
  repeat' first
    | with_reducible assumption
    | with_reducible refine logEvent_kept ?_
    | with_reducible refine latchErr_kept ?_
    | with_reducible refine ite_kept ?_ ?_
    | with_reducible refine foldl_kept ?_ (fun t a h => ?_)
    | decide
    | dsimp -proj only
    | split

theorem storeReadVa_kept {s x : State} {a0 a1} (h : Kept s x) :
    Kept s (storeReadVa x a0 a1).2 := by
  unfold storeReadVa
  repeat' first
    | with_reducible assumption
    | with_reducible refine storeReadPa_kept ?_
    | with_reducible refine storeReadPa_kept_eq ?_ (by with_reducible assumption)
    | with_reducible refine winFault_kept ?_
    | with_reducible refine ite_kept ?_ ?_
    | with_reducible refine foldl_kept ?_ (fun t a h => ?_)
    | decide
    | dsimp -proj only
    | split

theorem storeReadVa_kept_eq {s x : State} {a0 a1} {r u} (h : Kept s x) (e : storeReadVa x a0 a1 = (r, u)) :
    Kept s u := by
  simpa only [e] using storeReadVa_kept (s := s) (x := x) (a0 := a0) (a1 := a1) h

theorem readOpen_kept {s x : State} {a0 a1} (h : Kept s x) :
    Kept s (readOpen x a0 a1).2 := by
  unfold readOpen
  repeat' first
    | with_reducible assumption
    | with_reducible refine logIslandOff_kept ?_
    | with_reducible refine nvmWindow_kept ?_
    | with_reducible refine nvmWindow_kept_eq ?_ (by with_reducible assumption)
    | with_reducible refine readReg_kept ?_
    | with_reducible refine readReg_kept_eq ?_ (by with_reducible assumption)
    | with_reducible refine storeReadVa_kept ?_
    | with_reducible refine storeReadVa_kept_eq ?_ (by with_reducible assumption)
    | with_reducible refine storeReadPa_kept ?_
    | with_reducible refine storeReadPa_kept_eq ?_ (by with_reducible assumption)
    | with_reducible refine ite_kept ?_ ?_
    | with_reducible refine foldl_kept ?_ (fun t a h => ?_)
    | decide
    | dsimp -proj only
    | split

theorem readOpen_kept_eq {s x : State} {a0 a1} {r u} (h : Kept s x) (e : readOpen x a0 a1 = (r, u)) :
    Kept s u := by
  simpa only [e] using readOpen_kept (s := s) (x := x) (a0 := a0) (a1 := a1) h

theorem accessRead_kept {s x : State} {a0 a1} (h : Kept s x) :
    Kept s (accessRead x a0 a1).2 := by
  unfold accessRead
  repeat' first
    | with_reducible assumption
    | with_reducible refine readOpen_kept ?_
    | with_reducible refine readOpen_kept_eq ?_ (by with_reducible assumption)
    | with_reducible refine logDenied_kept ?_
    | with_reducible refine ite_kept ?_ ?_
    | with_reducible refine foldl_kept ?_ (fun t a h => ?_)
    | decide
    | dsimp -proj only
    | split

theorem busRead_kept {s x : State} {a0 a1} (h : Kept s x) : Kept s (busRead x a0 a1) := by
  unfold busRead
  exact ite_kept (keepRead_kept (accessRead_kept h)) h

theorem execDtimeLoRead_kept {s x : State} {a0} (h : Kept s x) :
    ∃ t, execDtimeLoRead a0 x = .next t ∧ Kept s t := by
  unfold execDtimeLoRead
  repeat' first
    | with_reducible assumption
    | with_reducible refine done_kept ?_
    | with_reducible refine busRead_kept ?_
    | with_reducible refine ite_kept ?_ ?_
    | with_reducible refine foldl_kept ?_ (fun t a h => ?_)
    | decide
    | dsimp -proj only
    | split

theorem unlockEntry_kept {s x : State} {a0 a1} (h : Kept s x) : Kept s (unlockEntry x a0 a1) := by
  unfold unlockEntry
  split
  · exact h
  · unfold setWinEntry
    dsimp -zeta -proj only [upd_win]
    refine putWin_kept h (setWinEntry_win_keeps _ _ _ _ fun g => entryGuarded_unlock _ ?_)
    refine tabGet_all 0 _ entryGuarded _ ?_ (by decide)
    rw [List.all_eq_true] at g
    exact g _ (Vector.mem_toList_iff.mpr (Vector.getElem_mem _))

theorem holdRecord_kept {s x : State} {a0} (h : Kept s x) : Kept s (holdRecord x a0) :=
  Kept.of_keeps (fun k hk => holdRecord_keeps (a0 := a0) hk (k.same_refl x)) (by decide) h

theorem blockCq_kept {s x : State} {a0} (h : Kept s x) : Kept s (blockCq x a0) :=
  Kept.of_keeps (fun k hk => blockCq_keeps (a0 := a0) hk (k.same_refl x)) (by decide) h

theorem mergeRead_kept {s x : State} {a0 a1} (h : Kept s x) :
    Kept s (mergeRead x a0 a1) := by
  unfold mergeRead
  repeat' first
    | with_reducible assumption
    | with_reducible refine eccRead_kept ?_
    | with_reducible refine ite_kept ?_ ?_
    | with_reducible refine foldl_kept ?_ (fun t a h => ?_)
    | decide
    | dsimp -proj only
    | split

theorem storeWriteLine_kept {s x : State} {a0 a1} (h : Kept s x) : Kept s (storeWriteLine x a0 a1) := by
  unfold storeWriteLine
  dsimp -zeta -proj only [upd_store]
  have g := mergeRead_kept (a0 := a0) (a1 := a1.length) h
  have w := putStore_kept g (StoreSt.writeLine_keeps (mergeRead x a0 a1.length).store a0 a1)
  exact ite_kept (logEvent_kept w) w

theorem storeWrite_kept {s x : State} {a0 a1} (h : Kept s x) :
    Kept s (storeWrite x a0 a1) := by
  unfold storeWrite
  repeat' first
    | with_reducible assumption
    | with_reducible refine storeWriteLine_kept ?_
    | with_reducible refine ite_kept ?_ ?_
    | with_reducible refine foldl_kept ?_ (fun t a h => ?_)
    | decide
    | dsimp -proj only
    | split

theorem latchJob_kept {s x : State} {a0 a1 a2 a3} (h : Kept s x) :
    Kept s (latchJob x a0 a1 a2 a3) := by
  unfold latchJob
  repeat' first
    | with_reducible assumption
    | with_reducible refine latchErr_kept ?_
    | with_reducible refine ite_kept ?_ ?_
    | with_reducible refine foldl_kept ?_ (fun t a h => ?_)
    | decide
    | dsimp -proj only
    | split

theorem modCq_kept {s x : State} {a0 a1} (h : Kept s x) : Kept s (modCq x a0 a1) :=
  Kept.of_keeps (fun k hk => modCq_keeps (a0 := a0) (a1 := a1) hk (k.same_refl x)) (by decide) h

theorem cqError_kept {s x : State} {a0 a1 a2} (h : Kept s x) :
    Kept s (cqError x a0 a1 a2) := by
  unfold cqError
  repeat' first
    | with_reducible assumption
    | with_reducible refine logEvent_kept ?_
    | with_reducible refine holdRecord_kept ?_
    | with_reducible refine blockCq_kept ?_
    | with_reducible refine modCq_kept ?_
    | with_reducible refine ite_kept ?_ ?_
    | with_reducible refine foldl_kept ?_ (fun t a h => ?_)
    | decide
    | dsimp -proj only
    | split

theorem ringWrite_kept {s x : State} {a0 a1} (h : Kept s x) :
    Kept s (ringWrite x a0 a1).2 := by
  unfold ringWrite
  repeat' first
    | with_reducible assumption
    | with_reducible refine storeWrite_kept ?_
    | with_reducible refine latchJob_kept ?_
    | with_reducible refine cqError_kept ?_
    | with_reducible refine modCq_kept ?_
    | with_reducible refine ite_kept ?_ ?_
    | with_reducible refine foldl_kept ?_ (fun t a h => ?_)
    | decide
    | dsimp -proj only
    | split

theorem ringWrite_kept_eq {s x : State} {a0 a1} {r u} (h : Kept s x) (e : ringWrite x a0 a1 = (r, u)) :
    Kept s u := by
  simpa only [e] using ringWrite_kept (s := s) (x := x) (a0 := a0) (a1 := a1) h

theorem flushDue_kept {s x : State} {a0 a1} (h : Kept s x) :
    Kept s (flushDue a0 x a1) := by
  induction a0 generalizing x with
  | zero => exact h
  | succ n ih =>
    unfold flushDue
    split
    · exact h
    · split
      · exact ih (ringWrite_kept_eq (modCq_kept h) (by assumption))
      · exact ringWrite_kept_eq (modCq_kept h) (by assumption)

theorem pushDue_kept {s x : State} {a0 a1} (h : Kept s x) :
    Kept s (pushDue x a0 a1) := by
  unfold pushDue
  repeat' first
    | with_reducible assumption
    | with_reducible refine holdRecord_kept ?_
    | with_reducible refine blockCq_kept ?_
    | with_reducible refine flushDue_kept ?_
    | with_reducible refine cqError_kept ?_
    | with_reducible refine modCq_kept ?_
    | with_reducible refine ite_kept ?_ ?_
    | with_reducible refine foldl_kept ?_ (fun t a h => ?_)
    | decide
    | dsimp -proj only
    | split

theorem takeSlot_kept {s x : State} {a0 a1 a2 a3 a4} (h : Kept s x) : Kept s (takeSlot x a0 a1 a2 a3 a4) :=
  Kept.of_keeps (fun k hk => takeSlot_keeps (a0 := a0) (a1 := a1) (a2 := a2) (a3 := a3) (a4 := a4) hk (k.same_refl x)) (by decide) h

theorem dropStaging_kept {s x : State} {a0} (h : Kept s x) : Kept s (dropStaging x a0) :=
  Kept.of_keeps (fun k hk => dropStaging_keeps (a0 := a0) hk (k.same_refl x)) (by decide) h

theorem modWq_kept {s x : State} {a0 a1} (h : Kept s x) : Kept s (modWq x a0 a1) :=
  Kept.of_keeps (fun k hk => modWq_keeps (a0 := a0) (a1 := a1) hk (k.same_refl x)) (by decide) h

theorem closeBatch_kept {s x : State} {a0 a1} (h : Kept s x) :
    Kept s (closeBatch x a0 a1) := by
  unfold closeBatch
  repeat' first
    | with_reducible assumption
    | with_reducible refine modWq_kept ?_
    | with_reducible refine pushDue_kept ?_
    | with_reducible refine ite_kept ?_ ?_
    | with_reducible refine foldl_kept ?_ (fun t a h => ?_)
    | decide
    | dsimp -proj only
    | split

theorem endEntry_kept {s x : State} {a0 a1 a2 a3} (h : Kept s x) :
    Kept s (endEntry x a0 a1 a2 a3) := by
  unfold endEntry
  repeat' first
    | with_reducible assumption
    | with_reducible refine modWq_kept ?_
    | with_reducible refine pushDue_kept ?_
    | with_reducible refine closeBatch_kept ?_
    | with_reducible refine ite_kept ?_ ?_
    | with_reducible refine foldl_kept ?_ (fun t a h => ?_)
    | decide
    | dsimp -proj only
    | split

theorem parkIn_kept {s x : State} {a0 a1 a2 a3 a4 a5 a6} (h : Kept s x) :
    Kept s (parkIn x a0 a1 a2 a3 a4 a5 a6) := by
  unfold parkIn
  repeat' first
    | with_reducible assumption
    | with_reducible refine unlockEntry_kept ?_
    | with_reducible refine logEvent_kept ?_
    | with_reducible refine pushDue_kept ?_
    | with_reducible refine takeSlot_kept ?_
    | with_reducible refine dropStaging_kept ?_
    | with_reducible refine latchJob_kept ?_
    | with_reducible refine endEntry_kept ?_
    | with_reducible refine ite_kept ?_ ?_
    | with_reducible refine foldl_kept ?_ (fun t a h => ?_)
    | decide
    | dsimp -proj only
    | split

theorem noteFence_kept {s x : State} {a0} (h : Kept s x) : Kept s (noteFence x a0) :=
  Kept.of_keeps (fun k hk => noteFence_keeps (a0 := a0) hk (k.same_refl x)) (by decide) h

theorem faultJob_kept {s x : State} {a0 a1 a2 a3 a4} (h : Kept s x) :
    Kept s (faultJob x a0 a1 a2 a3 a4) := by
  unfold faultJob
  repeat' first
    | with_reducible assumption
    | with_reducible refine setUnit_kept ?_
    | with_reducible refine parkIn_kept ?_
    | with_reducible refine ite_kept ?_ ?_
    | with_reducible refine foldl_kept ?_ (fun t a h => ?_)
    | decide
    | dsimp -proj only
    | split

theorem stageEnd_kept {s x : State} {a0} (h : Kept s x) : Kept s (stageEnd x a0).2 :=
  Kept.of_keeps (fun k hk => stageEnd_keeps (a0 := a0) hk (k.same_refl x)) (by decide) h

theorem stageEnd_kept_eq {s x : State} {a0} {r u} (h : Kept s x) (e : stageEnd x a0 = (r, u)) :
    Kept s u := 
  Kept.of_keeps (fun k hk => stageEnd_keeps_eq (a0 := a0) hk (k.same_refl x) e) (by decide) h

theorem readPage_kept {s x : State} {a0 a1 a2 a3} (h : Kept s x) :
    Kept s (readPage x a0 a1 a2 a3).2 := by
  unfold readPage
  repeat' first
    | with_reducible assumption
    | with_reducible refine eccRead_kept ?_
    | with_reducible refine ite_kept ?_ ?_
    | with_reducible refine foldl_kept ?_ (fun t a h => ?_)
    | decide
    | dsimp -proj only
    | split

theorem readPage_kept_eq {s x : State} {a0 a1 a2 a3} {r u} (h : Kept s x) (e : readPage x a0 a1 a2 a3 = (r, u)) :
    Kept s u := by
  simpa only [e] using readPage_kept (s := s) (x := x) (a0 := a0) (a1 := a1) (a2 := a2) (a3 := a3) h

theorem readCuts_kept {s x : State} {a0 a1 a2} (h : Kept s x) :
    Kept s (readCuts a0 a1 x a2).2 := by
  induction a2 generalizing x with
  | nil => exact h
  | cons p r ih =>
    obtain ⟨va, n⟩ := p
    unfold readCuts
    split
    · exact readPage_kept_eq h (by assumption)
    · rename_i b t e
      have g : Kept s t := readPage_kept_eq h e
      have i := ih (x := t) g
      split <;> (rename_i e'; rw [e'] at i; exact i)

theorem readCuts_kept_eq {s x : State} {a0 a1 a2} {r u} (h : Kept s x) (e : readCuts a0 a1 x a2 = (r, u)) :
    Kept s u := by
  simpa only [e] using readCuts_kept (s := s) (x := x) (a0 := a0) (a1 := a1) (a2 := a2) h

theorem jobRead_kept {s x : State} {a0 a1 a2 a3} (h : Kept s x) :
    Kept s (jobRead x a0 a1 a2 a3).2 := by
  unfold jobRead
  repeat' first
    | with_reducible assumption
    | with_reducible refine readCuts_kept ?_
    | with_reducible refine readCuts_kept_eq ?_ (by with_reducible assumption)
    | with_reducible refine ite_kept ?_ ?_
    | with_reducible refine foldl_kept ?_ (fun t a h => ?_)
    | decide
    | dsimp -proj only
    | split

theorem jobRead_kept_eq {s x : State} {a0 a1 a2 a3} {r u} (h : Kept s x) (e : jobRead x a0 a1 a2 a3 = (r, u)) :
    Kept s u := by
  simpa only [e] using jobRead_kept (s := s) (x := x) (a0 := a0) (a1 := a1) (a2 := a2) (a3 := a3) h

theorem modLast_kept {s x : State} {a0} (h : Kept s x) : Kept s (modLast x a0) :=
  Kept.of_keeps (fun k hk => modLast_keeps (a0 := a0) hk (k.same_refl x)) (by decide) h

theorem stageBlock_kept {s x : State} {a0} (h : Kept s x) :
    Kept s (stageBlock x a0).2 := by
  unfold stageBlock
  repeat' first
    | with_reducible assumption
    | with_reducible refine stageEnd_kept ?_
    | with_reducible refine stageEnd_kept_eq ?_ (by with_reducible assumption)
    | with_reducible refine jobRead_kept ?_
    | with_reducible refine jobRead_kept_eq ?_ (by with_reducible assumption)
    | with_reducible refine modLast_kept ?_
    | with_reducible refine ite_kept ?_ ?_
    | with_reducible refine foldl_kept ?_ (fun t a h => ?_)
    | decide
    | dsimp -proj only
    | split

theorem stageBlock_kept_eq {s x : State} {a0} {r u} (h : Kept s x) (e : stageBlock x a0 = (r, u)) :
    Kept s u := by
  simpa only [e] using stageBlock_kept (s := s) (x := x) (a0 := a0) h

theorem writeCuts_kept {s x : State} {a0 a1 a2 a3} (h : Kept s x) :
    Kept s (writeCuts a0 x a1 a2 a3).2.2 := by
  induction a3 generalizing x a1 a2 with
  | nil => exact h
  | cons p r ih =>
    obtain ⟨va, n⟩ := p
    unfold writeCuts
    split
    · exact h
    · exact ih (storeWrite_kept h)

theorem writeCuts_kept_eq {s x : State} {a0 a1 a2 a3} {r q u} (h : Kept s x) (e : writeCuts a0 x a1 a2 a3 = (r, q, u)) :
    Kept s u := by
  simpa only [e] using writeCuts_kept (s := s) (x := x) (a0 := a0) (a1 := a1) (a2 := a2) (a3 := a3) h

theorem jobWrite_kept {s x : State} {a0 a1 a2} (h : Kept s x) :
    Kept s (jobWrite x a0 a1 a2).2.2 := by
  unfold jobWrite
  repeat' first
    | with_reducible assumption
    | with_reducible refine writeCuts_kept ?_
    | with_reducible refine writeCuts_kept_eq ?_ (by with_reducible assumption)
    | with_reducible refine ite_kept ?_ ?_
    | with_reducible refine foldl_kept ?_ (fun t a h => ?_)
    | decide
    | dsimp -proj only
    | split

theorem jobWrite_kept_eq {s x : State} {a0 a1 a2} {r q u} (h : Kept s x) (e : jobWrite x a0 a1 a2 = (r, q, u)) :
    Kept s u := by
  simpa only [e] using jobWrite_kept (s := s) (x := x) (a0 := a0) (a1 := a1) (a2 := a2) h

theorem moveWrite_kept {s x : State} {a0 a1} (h : Kept s x) :
    Kept s (moveWrite x a0 a1).2 := by
  unfold moveWrite
  repeat' first
    | with_reducible assumption
    | with_reducible refine jobWrite_kept ?_
    | with_reducible refine jobWrite_kept_eq ?_ (by with_reducible assumption)
    | with_reducible refine ite_kept ?_ ?_
    | with_reducible refine foldl_kept ?_ (fun t a h => ?_)
    | decide
    | dsimp -proj only
    | split

theorem moveWrite_kept_eq {s x : State} {a0 a1} {r u} (h : Kept s x) (e : moveWrite x a0 a1 = (r, u)) :
    Kept s u := by
  simpa only [e] using moveWrite_kept (s := s) (x := x) (a0 := a0) (a1 := a1) h

theorem moveBlock_kept {s x : State} {a0} (h : Kept s x) :
    Kept s (moveBlock x a0).2 := by
  unfold moveBlock
  repeat' first
    | with_reducible assumption
    | with_reducible refine jobRead_kept ?_
    | with_reducible refine jobRead_kept_eq ?_ (by with_reducible assumption)
    | with_reducible refine moveWrite_kept ?_
    | with_reducible refine moveWrite_kept_eq ?_ (by with_reducible assumption)
    | with_reducible refine ite_kept ?_ ?_
    | with_reducible refine foldl_kept ?_ (fun t a h => ?_)
    | decide
    | dsimp -proj only
    | split

theorem moveBlock_kept_eq {s x : State} {a0} {r u} (h : Kept s x) (e : moveBlock x a0 = (r, u)) :
    Kept s u := by
  simpa only [e] using moveBlock_kept (s := s) (x := x) (a0 := a0) h

theorem moverBlock_kept {s x : State} {a0} (h : Kept s x) :
    Kept s (moverBlock x a0).2 := by
  unfold moverBlock
  repeat' first
    | with_reducible assumption
    | with_reducible refine stageBlock_kept ?_
    | with_reducible refine stageBlock_kept_eq ?_ (by with_reducible assumption)
    | with_reducible refine moveBlock_kept ?_
    | with_reducible refine moveBlock_kept_eq ?_ (by with_reducible assumption)
    | with_reducible refine ite_kept ?_ ?_
    | with_reducible refine foldl_kept ?_ (fun t a h => ?_)
    | decide
    | dsimp -proj only
    | split

theorem moverBlock_kept_eq {s x : State} {a0} {r u} (h : Kept s x) (e : moverBlock x a0 = (r, u)) :
    Kept s u := by
  simpa only [e] using moverBlock_kept (s := s) (x := x) (a0 := a0) h

theorem runBlock_kept {s x : State} {a0 a1} (h : Kept s x) :
    Kept s (runBlock x a0 a1) := by
  unfold runBlock
  repeat' first
    | with_reducible assumption
    | with_reducible refine faultJob_kept ?_
    | with_reducible refine setUnit_kept ?_
    | with_reducible refine moverBlock_kept ?_
    | with_reducible refine moverBlock_kept_eq ?_ (by with_reducible assumption)
    | with_reducible refine ite_kept ?_ ?_
    | with_reducible refine foldl_kept ?_ (fun t a h => ?_)
    | decide
    | dsimp -proj only
    | split

theorem modPins_kept {s x : State} {a0} (h : Kept s x) : Kept s (modPins x a0) :=
  Kept.of_keeps (fun k hk => modPins_keeps (a0 := a0) hk (k.same_refl x)) (by decide) h

theorem execBypNPulse_kept {s x : State} (h : Kept s x) :
    ∃ t, execBypNPulse x = .next t ∧ Kept s t := by
  unfold execBypNPulse
  repeat' first
    | with_reducible assumption
    | with_reducible refine done_kept ?_
    | with_reducible refine settle_kept ?_
    | with_reducible refine modPins_kept ?_
    | with_reducible refine ite_kept ?_ ?_
    | with_reducible refine foldl_kept ?_ (fun t a h => ?_)
    | decide
    | dsimp -proj only
    | split

theorem writeDtload_kept {s x : State} {a0 a1} (h : Kept s x) : Kept s (writeDtload x a0 a1) :=
  Kept.of_keeps (fun k hk => writeDtload_keeps (a0 := a0) (a1 := a1) hk (k.same_refl x)) (by decide) h

theorem writeLneq_kept {s x : State} {a0 a1 a2} (h : Kept s x) : Kept s (writeLneq x a0 a1 a2) :=
  Kept.of_keeps (fun k hk => writeLneq_keeps (a0 := a0) (a1 := a1) (a2 := a2) hk (k.same_refl x)) (by decide) h

theorem writeEvtmask_kept {s x : State} {a0} (h : Kept s x) : Kept s (writeEvtmask x a0) :=
  Kept.of_keeps (fun k hk => writeEvtmask_keeps (a0 := a0) hk (k.same_refl x)) (by decide) h

theorem requestStandby_kept {s x : State} (h : Kept s x) :
    Kept s (requestStandby x) := by
  unfold requestStandby
  try dsimp -zeta -proj only [upd_dev]
  repeat' first
    | with_reducible assumption
    | with_reducible refine stopRecal_kept ?_
    | with_reducible refine putDev_kept ?_
    | with_reducible refine ite_kept ?_ ?_
    | with_reducible refine foldl_kept ?_ (fun t a h => ?_)
    | decide
    | dsimp -proj only
    | split

theorem writeDevctl_kept {s x : State} {a0} (h : Kept s x) :
    Kept s (writeDevctl x a0) := by
  unfold writeDevctl
  try dsimp -zeta -proj only [upd_boot, upd_dev_therm]
  repeat' first
    | with_reducible assumption
    | with_reducible refine settle_kept ?_
    | with_reducible refine requestStandby_kept ?_
    | with_reducible refine putBoot_kept ?_
    | with_reducible refine putDev_kept ?_
    | with_reducible refine putTherm_kept ?_
    | with_reducible refine ite_kept ?_ ?_
    | with_reducible refine foldl_kept ?_ (fun t a h => ?_)
    | decide
    | dsimp -proj only
    | split

theorem dropSend_kept {s x : State} {a0} (h : Kept s x) : Kept s (dropSend x a0) :=
  Kept.of_keeps (fun k hk => dropSend_keeps (a0 := a0) hk (k.same_refl x)) (by decide) h

theorem retireJob_kept {s x : State} {a0 a1} (h : Kept s x) :
    Kept s (retireJob x a0 a1) := by
  unfold retireJob
  repeat' first
    | with_reducible assumption
    | with_reducible refine setUnit_kept ?_
    | with_reducible refine endEntry_kept ?_
    | with_reducible refine ite_kept ?_ ?_
    | with_reducible refine foldl_kept ?_ (fun t a h => ?_)
    | decide
    | dsimp -proj only
    | split

theorem abortEntry_kept {s x : State} {a0 a1 a2 a3} (h : Kept s x) :
    Kept s (abortEntry x a0 a1 a2 a3) := by
  unfold abortEntry
  repeat' first
    | with_reducible assumption
    | with_reducible refine endEntry_kept ?_
    | with_reducible refine ite_kept ?_ ?_
    | with_reducible refine foldl_kept ?_ (fun t a h => ?_)
    | decide
    | dsimp -proj only
    | split

theorem modAwl_kept {s x : State} {a0} (h : Kept s x) : Kept s (modAwl x a0) :=
  Kept.of_keeps (fun k hk => modAwl_keeps (a0 := a0) hk (k.same_refl x)) (by decide) h

theorem prbsOff_kept {s x : State} {a0 a1 a2} (h : Kept s x) : Kept s (prbsOff x a0 a1 a2) :=
  Kept.of_keeps (fun k hk => prbsOff_keeps (a0 := a0) (a1 := a1) (a2 := a2) hk (k.same_refl x)) (by decide) h

theorem stopNvm_kept {s x : State} {a0} (h : Kept s x) :
    Kept s (stopNvm x a0).2 := by
  unfold stopNvm
  try dsimp -zeta -proj only [upd_nvm]
  repeat' first
    | with_reducible assumption
    | with_reducible refine useFree_kept ?_
    | with_reducible refine useFree_kept_eq ?_ (by with_reducible assumption)
    | with_reducible refine modAwl_kept ?_
    | with_reducible refine putNvm_kept ?_ ?_
    | with_reducible refine ite_kept ?_ ?_
    | with_reducible refine foldl_kept ?_ (fun t a h => ?_)
    | with_reducible exact NvmSt.setCell_keeps _ _ _
    | with_reducible refine nvm_keeps_of ?_ ?_
    | exact fun h => h
    | rfl
    | decide
    | dsimp -proj only
    | split

theorem stopNvm_kept_eq {s x : State} {a0} {r u} (h : Kept s x) (e : stopNvm x a0 = (r, u)) :
    Kept s u := by
  simpa only [e] using stopNvm_kept (s := s) (x := x) (a0 := a0) h

theorem faultSeen_kept {s x : State} {a0 a1} (h : Kept s x) :
    Kept s (faultSeen x a0 a1) := by
  unfold faultSeen
  repeat' first
    | with_reducible assumption
    | with_reducible refine unlockEntry_kept ?_
    | with_reducible refine modAwl_kept ?_
    | with_reducible refine latchJob_kept ?_
    | with_reducible refine ite_kept ?_ ?_
    | with_reducible refine foldl_kept ?_ (fun t a h => ?_)
    | decide
    | dsimp -proj only
    | split

theorem finishJob_kept {s x : State} {a0 a1 a2} (h : Kept s x) : Kept s (finishJob x a0 a1 a2) :=
  Kept.of_keeps (fun k hk => finishJob_keeps (a0 := a0) (a1 := a1) (a2 := a2) hk (k.same_refl x)) (by decide) h

theorem endCapture_kept {s x : State} {a0 a1 a2 a3 a4} (h : Kept s x) :
    Kept s (endCapture x a0 a1 a2 a3 a4).2 := by
  unfold endCapture
  repeat' first
    | with_reducible assumption
    | with_reducible refine jobWrite_kept ?_
    | with_reducible refine jobWrite_kept_eq ?_ (by with_reducible assumption)
    | with_reducible refine finishJob_kept ?_
    | with_reducible refine ite_kept ?_ ?_
    | with_reducible refine foldl_kept ?_ (fun t a h => ?_)
    | decide
    | dsimp -proj only
    | split

theorem endCapture_kept_eq {s x : State} {a0 a1 a2 a3 a4} {r u} (h : Kept s x) (e : endCapture x a0 a1 a2 a3 a4 = (r, u)) :
    Kept s u := by
  simpa only [e] using endCapture_kept (s := s) (x := x) (a0 := a0) (a1 := a1) (a2 := a2) (a3 := a3) (a4 := a4) h

theorem stopUnit_kept {s x : State} {a0 a1} (h : Kept s x) :
    Kept s (stopUnit x a0 a1).2 := by
  unfold stopUnit
  repeat' first
    | with_reducible assumption
    | with_reducible refine prbsOff_kept ?_
    | with_reducible refine stopNvm_kept ?_
    | with_reducible refine stopNvm_kept_eq ?_ (by with_reducible assumption)
    | with_reducible refine faultSeen_kept ?_
    | with_reducible refine modAwl_kept ?_
    | with_reducible refine dropStaging_kept ?_
    | with_reducible refine endCapture_kept ?_
    | with_reducible refine endCapture_kept_eq ?_ (by with_reducible assumption)
    | with_reducible refine ite_kept ?_ ?_
    | with_reducible refine foldl_kept ?_ (fun t a h => ?_)
    | decide
    | dsimp -proj only
    | split

theorem stopUnit_kept_eq {s x : State} {a0 a1} {r u} (h : Kept s x) (e : stopUnit x a0 a1 = (r, u)) :
    Kept s u := by
  simpa only [e] using stopUnit_kept (s := s) (x := x) (a0 := a0) (a1 := a1) h

theorem awlUnitJob_kept {s x : State} {a0 a1} (h : Kept s x) :
    Kept s (awlUnitJob x a0 a1) := by
  unfold awlUnitJob
  repeat' first
    | with_reducible assumption
    | with_reducible refine dropSend_kept ?_
    | with_reducible refine retireJob_kept ?_
    | with_reducible refine setUnit_kept ?_
    | with_reducible refine abortEntry_kept ?_
    | with_reducible refine modAwl_kept ?_
    | with_reducible refine stopUnit_kept ?_
    | with_reducible refine stopUnit_kept_eq ?_ (by with_reducible assumption)
    | with_reducible refine ite_kept ?_ ?_
    | with_reducible refine foldl_kept ?_ (fun t a h => ?_)
    | decide
    | dsimp -proj only
    | split

theorem awlWaiting_kept {s x : State} {a0 a1} (h : Kept s x) :
    Kept s (awlWaiting x a0 a1) := by
  unfold awlWaiting
  repeat' first
    | with_reducible assumption
    | with_reducible refine modWq_kept ?_
    | with_reducible refine noteFence_kept ?_
    | with_reducible refine abortEntry_kept ?_
    | with_reducible refine modAwl_kept ?_
    | with_reducible refine ite_kept ?_ ?_
    | with_reducible refine foldl_kept ?_ (fun t a h => ?_)
    | decide
    | dsimp -proj only
    | split

theorem awlHeld_kept {s x : State} {a0} (h : Kept s x) :
    Kept s (awlHeld x a0) := by
  unfold awlHeld
  try dsimp -zeta -proj only [upd_units]
  repeat' first
    | with_reducible assumption
    | with_reducible refine stopNvm_kept ?_
    | with_reducible refine stopNvm_kept_eq ?_ (by with_reducible assumption)
    | with_reducible refine abortEntry_kept ?_
    | with_reducible refine modAwl_kept ?_
    | with_reducible refine putUnits_kept ?_
    | with_reducible refine ite_kept ?_ ?_
    | with_reducible refine foldl_kept ?_ (fun t a h => ?_)
    | decide
    | dsimp -proj only
    | split

theorem freeSlot_kept {s x : State} {a0} (h : Kept s x) : Kept s (freeSlot x a0) :=
  Kept.of_keeps (fun k hk => freeSlot_keeps (a0 := a0) hk (k.same_refl x)) (by decide) h

theorem awlSlot_kept {s x : State} {a0 a1} (h : Kept s x) :
    Kept s (awlSlot x a0 a1) := by
  unfold awlSlot
  repeat' first
    | with_reducible assumption
    | with_reducible refine freeSlot_kept ?_
    | with_reducible refine abortEntry_kept ?_
    | with_reducible refine modAwl_kept ?_
    | with_reducible refine dropStaging_kept ?_
    | with_reducible refine ite_kept ?_ ?_
    | with_reducible refine foldl_kept ?_ (fun t a h => ?_)
    | decide
    | dsimp -proj only
    | split

theorem awlEnd_kept {s x : State} {a0 a1} (h : Kept s x) :
    Kept s (awlEnd x a0 a1) := by
  unfold awlEnd
  repeat' first
    | with_reducible assumption
    | with_reducible refine awlUnitJob_kept ?_
    | with_reducible refine awlWaiting_kept ?_
    | with_reducible refine awlHeld_kept ?_
    | with_reducible refine awlSlot_kept ?_
    | with_reducible refine ite_kept ?_ ?_
    | with_reducible refine foldl_kept ?_ (fun t a h => ?_)
    | decide
    | dsimp -proj only
    | split

theorem awlAccept_kept {s x : State} {a0} (h : Kept s x) : Kept s (awlAccept x a0) :=
  Kept.of_keeps (fun k hk => awlAccept_keeps (a0 := a0) hk (k.same_refl x)) (by decide) h

theorem endRegTests_kept {s x : State} {a0 a1} (h : Kept s x) :
    Kept s (endRegTests x a0 a1).2 := by
  unfold endRegTests
  repeat' first
    | with_reducible assumption
    | with_reducible refine logL_kept ?_
    | with_reducible refine modMeas_kept ?_
    | with_reducible refine ite_kept ?_ ?_
    | with_reducible refine foldl_kept ?_ (fun t a h => ?_)
    | decide
    | dsimp -proj only
    | split

theorem endRegTests_kept_eq {s x : State} {a0 a1} {r u} (h : Kept s x) (e : endRegTests x a0 a1 = (r, u)) :
    Kept s u := by
  simpa only [e] using endRegTests_kept (s := s) (x := x) (a0 := a0) (a1 := a1) h

theorem awlCommand_kept {s x : State} {a0} (h : Kept s x) :
    Kept s (awlCommand x a0) := by
  unfold awlCommand
  repeat' first
    | with_reducible assumption
    | with_reducible refine modWq_kept ?_
    | with_reducible refine awlUnitJob_kept ?_
    | with_reducible refine awlEnd_kept ?_
    | with_reducible refine modAwl_kept ?_
    | with_reducible refine awlAccept_kept ?_
    | with_reducible refine endRegTests_kept ?_
    | with_reducible refine endRegTests_kept_eq ?_ (by with_reducible assumption)
    | with_reducible refine ite_kept ?_ ?_
    | with_reducible refine foldl_kept ?_ (fun t a h => ?_)
    | decide
    | dsimp -proj only
    | split

theorem writeCqhead_kept {s x : State} {a0 a1} (h : Kept s x) :
    Kept s (writeCqhead x a0 a1) := by
  unfold writeCqhead
  repeat' first
    | with_reducible assumption
    | with_reducible refine cqError_kept ?_
    | with_reducible refine modCq_kept ?_
    | with_reducible refine ite_kept ?_ ?_
    | with_reducible refine foldl_kept ?_ (fun t a h => ?_)
    | decide
    | dsimp -proj only
    | split

theorem writeLnstat_kept {s x : State} {a0 a1 a2} (h : Kept s x) : Kept s (writeLnstat x a0 a1 a2) :=
  Kept.of_keeps (fun k hk => writeLnstat_keeps (a0 := a0) (a1 := a1) (a2 := a2) hk (k.same_refl x)) (by decide) h

theorem writeLnloop_kept {s x : State} {a0 a1 a2} (h : Kept s x) : Kept s (writeLnloop x a0 a1 a2) :=
  Kept.of_keeps (fun k hk => writeLnloop_keeps (a0 := a0) (a1 := a1) (a2 := a2) hk (k.same_refl x)) (by decide) h

theorem writeLnkloss_kept {s x : State} {a0 a1} (h : Kept s x) : Kept s (writeLnkloss x a0 a1) :=
  Kept.of_keeps (fun k hk => writeLnkloss_keeps (a0 := a0) (a1 := a1) hk (k.same_refl x)) (by decide) h

theorem writeTmstat_kept {s x : State} {a0} (h : Kept s x) : Kept s (writeTmstat x a0) :=
  Kept.of_keeps (fun k hk => writeTmstat_keeps (a0 := a0) hk (k.same_refl x)) (by decide) h

theorem writeWqhdr_kept {s x : State} {a0 a1} (h : Kept s x) : Kept s (writeWqhdr x a0 a1) :=
  Kept.of_keeps (fun k hk => writeWqhdr_keeps (a0 := a0) (a1 := a1) hk (k.same_refl x)) (by decide) h

theorem writeAttnsrc_kept {s x : State} {a0} (h : Kept s x) : Kept s (writeAttnsrc x a0) :=
  Kept.of_keeps (fun k hk => writeAttnsrc_keeps (a0 := a0) hk (k.same_refl x)) (by decide) h

theorem writeLnkspcmd_kept {s x : State} {a0 a1} (h : Kept s x) :
    Kept s (writeLnkspcmd x a0 a1) := by
  unfold writeLnkspcmd
  repeat' first
    | with_reducible assumption
    | with_reducible refine setSwapResult_kept ?_
    | with_reducible refine beginSwap_kept ?_
    | with_reducible refine ite_kept ?_ ?_
    | with_reducible refine foldl_kept ?_ (fun t a h => ?_)
    | decide
    | dsimp -proj only
    | split

theorem idleLink_kept {s x : State} {a0 a1 a2} (h : Kept s x) : Kept s (idleLink x a0 a1 a2) :=
  Kept.of_keeps (fun k hk => idleLink_keeps (a0 := a0) (a1 := a1) (a2 := a2) hk (k.same_refl x)) (by decide) h

theorem restartD_kept {s x : State} {a0 a1 a2} (h : Kept s x) :
    Kept s (restartD x a0 a1 a2) := by
  unfold restartD
  repeat' first
    | with_reducible assumption
    | with_reducible refine idleLink_kept ?_
    | with_reducible refine takeUp_kept ?_
    | with_reducible refine restartLink_kept ?_
    | with_reducible refine dropLink_kept ?_
    | with_reducible refine ite_kept ?_ ?_
    | with_reducible refine foldl_kept ?_ (fun t a h => ?_)
    | decide
    | dsimp -proj only
    | split

theorem laneRestart_kept {s x : State} {a0} (h : Kept s x) : Kept s (laneRestart x a0) :=
  Kept.of_keeps (fun k hk => laneRestart_keeps (a0 := a0) hk (k.same_refl x)) (by decide) h

theorem applyLink_kept {s x : State} {a0 a1 a2} (h : Kept s x) :
    Kept s (applyLink x a0 a1 a2) := by
  unfold applyLink
  repeat' first
    | with_reducible assumption
    | with_reducible refine modLink_kept ?_
    | with_reducible refine takeUp_kept ?_
    | with_reducible refine restartD_kept ?_
    | with_reducible refine laneRestart_kept ?_
    | with_reducible refine modLast_kept ?_
    | with_reducible refine requestRetrain_kept ?_
    | with_reducible refine ite_kept ?_ ?_
    | with_reducible refine foldl_kept ?_ (fun t a h => ?_)
    | decide
    | dsimp -proj only
    | split

theorem loadPrograms_kept {s x : State} (h : Kept s x) : Kept s (loadPrograms x) :=
  Kept.of_keeps (fun k hk => loadPrograms_keeps hk (k.same_refl x)) (by decide) h

theorem acceptCommit_kept {s x : State} {a0} (h : Kept s x) :
    Kept s (acceptCommit x a0) := by
  unfold acceptCommit
  repeat' first
    | with_reducible assumption
    | with_reducible refine applyLink_kept ?_
    | with_reducible refine settle_kept ?_
    | with_reducible refine retarget_kept ?_
    | with_reducible refine loadPrograms_kept ?_
    | with_reducible refine checkDone_kept ?_
    | with_reducible refine modLast_kept ?_
    | with_reducible refine relockPlls_kept ?_
    | with_reducible refine ite_kept ?_ ?_
    | with_reducible refine foldl_kept ?_ (fun t a h => ?_)
    | decide
    | dsimp -proj only
    | split

theorem writeLastcmd_kept {s x : State} {a0 a1} (h : Kept s x) :
    Kept s (writeLastcmd x a0 a1) := by
  unfold writeLastcmd
  repeat' first
    | with_reducible assumption
    | with_reducible refine acceptCommit_kept ?_
    | with_reducible refine modLast_kept ?_
    | with_reducible refine ite_kept ?_ ?_
    | with_reducible refine foldl_kept ?_ (fun t a h => ?_)
    | decide
    | dsimp -proj only
    | split

theorem writeCalcmd_kept {s x : State} {a0} (h : Kept s x) : Kept s (writeCalcmd x a0) :=
  Kept.of_keeps (fun k hk => writeCalcmd_keeps (a0 := a0) hk (k.same_refl x)) (by decide) h

theorem clearFaults_kept {s x : State} {a0} (h : Kept s x) : Kept s (clearFaults x a0) :=
  Kept.of_keeps (fun k hk => clearFaults_keeps (a0 := a0) hk (k.same_refl x)) (by decide) h

theorem resetWq_kept {s x : State} {a0} (h : Kept s x) : Kept s (resetWq x a0) :=
  Kept.of_keeps (fun k hk => resetWq_keeps (a0 := a0) hk (k.same_refl x)) (by decide) h

theorem enableWq_kept {s x : State} {a0} (h : Kept s x) :
    Kept s (enableWq x a0) := by
  unfold enableWq
  repeat' first
    | with_reducible assumption
    | with_reducible refine modWq_kept ?_
    | with_reducible refine jobRead_kept ?_
    | with_reducible refine jobRead_kept_eq ?_ (by with_reducible assumption)
    | with_reducible refine latchJob_kept ?_
    | with_reducible refine ite_kept ?_ ?_
    | with_reducible refine foldl_kept ?_ (fun t a h => ?_)
    | decide
    | dsimp -proj only
    | split

theorem disableWq_kept {s x : State} {a0} (h : Kept s x) : Kept s (disableWq x a0) :=
  Kept.of_keeps (fun k hk => disableWq_keeps (a0 := a0) hk (k.same_refl x)) (by decide) h

theorem resumeWq_kept {s x : State} {a0 a1} (h : Kept s x) : Kept s (resumeWq x a0 a1) :=
  Kept.of_keeps (fun k hk => resumeWq_keeps (a0 := a0) (a1 := a1) hk (k.same_refl x)) (by decide) h

theorem writeWqctl_kept {s x : State} {a0 a1} (h : Kept s x) :
    Kept s (writeWqctl x a0 a1) := by
  unfold writeWqctl
  repeat' first
    | with_reducible assumption
    | with_reducible refine resetWq_kept ?_
    | with_reducible refine enableWq_kept ?_
    | with_reducible refine disableWq_kept ?_
    | with_reducible refine resumeWq_kept ?_
    | with_reducible refine ite_kept ?_ ?_
    | with_reducible refine foldl_kept ?_ (fun t a h => ?_)
    | decide
    | dsimp -proj only
    | split

theorem writeTwbstat_kept {s x : State} {a0} (h : Kept s x) : Kept s (writeTwbstat x a0) :=
  Kept.of_keeps (fun k hk => writeTwbstat_keeps (a0 := a0) hk (k.same_refl x)) (by decide) h

theorem writeTmthresh_kept {s x : State} {a0 a1} (h : Kept s x) : Kept s (writeTmthresh x a0 a1) :=
  Kept.of_keeps (fun k hk => writeTmthresh_keeps (a0 := a0) (a1 := a1) hk (k.same_refl x)) (by decide) h

theorem fixSearches_kept {s x : State} {a0} (h : Kept s x) : Kept s (fixSearches x a0) :=
  Kept.of_keeps (fun k hk => fixSearches_keeps (a0 := a0) hk (k.same_refl x)) (by decide) h

theorem startJoin_kept {s x : State} {a0} (h : Kept s x) :
    Kept s (startJoin x a0) := by
  unfold startJoin
  repeat' first
    | with_reducible assumption
    | with_reducible refine settle_kept ?_
    | with_reducible refine modLink_kept ?_
    | with_reducible refine ite_kept ?_ ?_
    | with_reducible refine foldl_kept ?_ (fun t a h => ?_)
    | decide
    | dsimp -proj only
    | split

theorem switchWaiting_kept {s x : State} {a0} (h : Kept s x) :
    Kept s (switchWaiting x a0) := by
  unfold switchWaiting
  repeat' first
    | with_reducible assumption
    | with_reducible refine switchNow_kept ?_
    | with_reducible refine ite_kept ?_ ?_
    | with_reducible refine foldl_kept ?_ (fun t a h => ?_)
    | decide
    | dsimp -proj only
    | split

theorem enterDisabled_kept {s x : State} {a0} (h : Kept s x) :
    Kept s (enterDisabled x a0) := by
  unfold enterDisabled
  repeat' first
    | with_reducible assumption
    | with_reducible refine switchWaiting_kept ?_
    | with_reducible refine modLink_kept ?_
    | with_reducible refine dropLink_kept ?_
    | with_reducible refine ite_kept ?_ ?_
    | with_reducible refine foldl_kept ?_ (fun t a h => ?_)
    | decide
    | dsimp -proj only
    | split

theorem enterDetect_kept {s x : State} {a0 a1} (h : Kept s x) :
    Kept s (enterDetect x a0 a1) := by
  unfold enterDetect
  repeat' first
    | with_reducible assumption
    | with_reducible refine enterDisabled_kept ?_
    | with_reducible refine switchWaiting_kept ?_
    | with_reducible refine modLink_kept ?_
    | with_reducible refine partAside_kept ?_
    | with_reducible refine dropLink_kept ?_
    | with_reducible refine ite_kept ?_ ?_
    | with_reducible refine foldl_kept ?_ (fun t a h => ?_)
    | decide
    | dsimp -proj only
    | split

theorem writeDisable_kept {s x : State} {a0 a1} (h : Kept s x) :
    Kept s (writeDisable x a0 a1) := by
  unfold writeDisable
  repeat' first
    | with_reducible assumption
    | with_reducible refine enterDisabled_kept ?_
    | with_reducible refine modLink_kept ?_
    | with_reducible refine enterDetect_kept ?_
    | with_reducible refine ite_kept ?_ ?_
    | with_reducible refine foldl_kept ?_ (fun t a h => ?_)
    | decide
    | dsimp -proj only
    | split

theorem startState_kept {s x : State} {a0} (h : Kept s x) : Kept s (startState x a0) :=
  Kept.of_keeps (fun k hk => startState_keeps (a0 := a0) hk (k.same_refl x)) (by decide) h

theorem writeAside_kept {s x : State} {a0 a1} (h : Kept s x) :
    Kept s (writeAside x a0 a1) := by
  unfold writeAside
  repeat' first
    | with_reducible assumption
    | with_reducible refine startState_kept ?_
    | with_reducible refine settle_kept ?_
    | with_reducible refine modLink_kept ?_
    | with_reducible refine standAside_kept ?_
    | with_reducible refine ite_kept ?_ ?_
    | with_reducible refine foldl_kept ?_ (fun t a h => ?_)
    | decide
    | dsimp -proj only
    | split

theorem writeLnkctl_kept {s x : State} {a0 a1} (h : Kept s x) :
    Kept s (writeLnkctl x a0 a1) := by
  unfold writeLnkctl
  repeat' first
    | with_reducible assumption
    | with_reducible refine fixSearches_kept ?_
    | with_reducible refine modLink_kept ?_
    | with_reducible refine startJoin_kept ?_
    | with_reducible refine writeDisable_kept ?_
    | with_reducible refine writeAside_kept ?_
    | with_reducible refine requestRetrain_kept ?_
    | with_reducible refine ite_kept ?_ ?_
    | with_reducible refine foldl_kept ?_ (fun t a h => ?_)
    | decide
    | dsimp -proj only
    | split

theorem writeNvmctl_kept {s x : State} {a0} (h : Kept s x) :
    Kept s (writeNvmctl x a0) := by
  unfold writeNvmctl
  try dsimp -zeta -proj only [upd_nvm]
  repeat' first
    | with_reducible assumption
    | with_reducible refine putNvm_kept ?_ ?_
    | with_reducible refine ite_kept ?_ ?_
    | with_reducible refine foldl_kept ?_ (fun t a h => ?_)
    | with_reducible exact NvmSt.setCell_keeps _ _ _
    | with_reducible refine nvm_keeps_of ?_ ?_
    | exact fun h => h
    | rfl
    | decide
    | dsimp -proj only
    | split

theorem writeLnsnap_kept {s x : State} {a0 a1 a2 a3} (h : Kept s x) : Kept s (writeLnsnap x a0 a1 a2 a3) :=
  Kept.of_keeps (fun k hk => writeLnsnap_keeps (a0 := a0) (a1 := a1) (a2 := a2) (a3 := a3) hk (k.same_refl x)) (by decide) h

theorem setWinEntry_kept {s x : State} {a0 a1 v} (h : Kept s x) : Kept s (setWinEntry x a0 a1 (storedEntry v)) := by
  unfold setWinEntry
  dsimp -zeta -proj only [upd_win]
  exact putWin_kept h (setWinEntry_win_keeps _ _ _ _ fun _ => storedEntry_guarded v)

theorem modWin_kept {s x : State} {a0 a1} (h : Kept s x) : Kept s (modWin x a0 a1) := by
  unfold modWin
  dsimp -zeta -proj only [upd_win]
  exact putWin_kept h ⟨fun w => w, fun w => w⟩

theorem writeEntry_kept {s x : State} {a0 a1 a2 a3 a4} (h : Kept s x) :
    Kept s (writeEntry x a0 a1 a2 a3 a4) := by
  unfold writeEntry
  repeat' first
    | with_reducible assumption
    | with_reducible refine logEvent_kept ?_
    | with_reducible refine setWinEntry_kept ?_
    | with_reducible refine modWin_kept ?_
    | with_reducible refine ite_kept ?_ ?_
    | with_reducible refine foldl_kept ?_ (fun t a h => ?_)
    | decide
    | dsimp -proj only
    | split

theorem writeCqbase_kept {s x : State} {a0 a1} (h : Kept s x) : Kept s (writeCqbase x a0 a1) :=
  Kept.of_keeps (fun k hk => writeCqbase_keeps (a0 := a0) (a1 := a1) hk (k.same_refl x)) (by decide) h

theorem writeLntxdrv_kept {s x : State} {a0 a1 a2} (h : Kept s x) : Kept s (writeLntxdrv x a0 a1 a2) :=
  Kept.of_keeps (fun k hk => writeLntxdrv_keeps (a0 := a0) (a1 := a1) (a2 := a2) hk (k.same_refl x)) (by decide) h

theorem writeNvmstat_kept {s x : State} {a0} (h : Kept s x) :
    Kept s (writeNvmstat x a0) := by
  unfold writeNvmstat
  try dsimp -zeta -proj only [upd_nvm]
  repeat' first
    | with_reducible assumption
    | with_reducible refine putNvm_kept ?_ ?_
    | with_reducible refine ite_kept ?_ ?_
    | with_reducible refine foldl_kept ?_ (fun t a h => ?_)
    | with_reducible exact NvmSt.setCell_keeps _ _ _
    | with_reducible refine nvm_keeps_of ?_ ?_
    | exact fun h => h
    | rfl
    | decide
    | dsimp -proj only
    | split

theorem writeLnsymcntHi_kept {s x : State} {a0 a1 a2} (h : Kept s x) : Kept s (writeLnsymcntHi x a0 a1 a2) :=
  Kept.of_keeps (fun k hk => writeLnsymcntHi_keeps (a0 := a0) (a1 := a1) (a2 := a2) hk (k.same_refl x)) (by decide) h

theorem coolIdle_kept {s x : State} {a0} (h : Kept s x) : Kept s (coolIdle x a0) :=
  Kept.of_keeps (fun k hk => coolIdle_keeps (a0 := a0) hk (k.same_refl x)) (by decide) h

theorem seedGen_kept {s x : State} {a0 a1} (h : Kept s x) :
    Kept s (seedGen x a0 a1) := by
  unfold seedGen
  repeat' first
    | with_reducible assumption
    | with_reducible refine useFree_kept ?_
    | with_reducible refine useFree_kept_eq ?_ (by with_reducible assumption)
    | with_reducible refine modMeas_kept ?_
    | with_reducible refine ite_kept ?_ ?_
    | with_reducible refine foldl_kept ?_ (fun t a h => ?_)
    | decide
    | dsimp -proj only
    | split

theorem holdStarts_kept {s x : State} {a0 a1} (h : Kept s x) : Kept s (holdStarts x a0 a1) :=
  Kept.of_keeps (fun k hk => holdStarts_keeps (a0 := a0) (a1 := a1) hk (k.same_refl x)) (by decide) h

theorem writeLnprbs_kept {s x : State} {a0 a1 a2} (h : Kept s x) :
    Kept s (writeLnprbs x a0 a1 a2) := by
  unfold writeLnprbs
  repeat' first
    | with_reducible assumption
    | with_reducible refine coolIdle_kept ?_
    | with_reducible refine seedGen_kept ?_
    | with_reducible refine holdStarts_kept ?_
    | with_reducible refine modMeas_kept ?_
    | with_reducible refine ite_kept ?_ ?_
    | with_reducible refine foldl_kept ?_ (fun t a h => ?_)
    | decide
    | dsimp -proj only
    | split

theorem writeDtrate_kept {s x : State} {a0} (h : Kept s x) : Kept s (writeDtrate x a0) :=
  Kept.of_keeps (fun k hk => writeDtrate_keeps (a0 := a0) hk (k.same_refl x)) (by decide) h

theorem writeCtxstat_kept {s x : State} {a0} (h : Kept s x) : Kept s (writeCtxstat x a0) :=
  Kept.of_keeps (fun k hk => writeCtxstat_keeps (a0 := a0) hk (k.same_refl x)) (by decide) h

theorem queueErrorRecord_kept {s x : State} {a0 a1 a2 a3 a4} (h : Kept s x) :
    Kept s (queueErrorRecord x a0 a1 a2 a3 a4) := by
  unfold queueErrorRecord
  repeat' first
    | with_reducible assumption
    | with_reducible refine pushDue_kept ?_
    | with_reducible refine ite_kept ?_ ?_
    | with_reducible refine foldl_kept ?_ (fun t a h => ?_)
    | decide
    | dsimp -proj only
    | split

theorem wqError_kept {s x : State} {a0 a1 a2 a3} (h : Kept s x) : Kept s (wqError x a0 a1 a2 a3) :=
  Kept.of_keeps (fun k hk => wqError_keeps (a0 := a0) (a1 := a1) (a2 := a2) (a3 := a3) hk (k.same_refl x)) (by decide) h

theorem doorbell_kept {s x : State} {a0 a1} (h : Kept s x) :
    Kept s (doorbell x a0 a1) := by
  unfold doorbell
  repeat' first
    | with_reducible assumption
    | with_reducible refine modWq_kept ?_
    | with_reducible refine queueErrorRecord_kept ?_
    | with_reducible refine wqError_kept ?_
    | with_reducible refine ite_kept ?_ ?_
    | with_reducible refine foldl_kept ?_ (fun t a h => ?_)
    | decide
    | dsimp -proj only
    | split

theorem writeWinerr_kept {s x : State} {a0 a1} (h : Kept s x) :
    Kept s (writeWinerr x a0 a1) := by
  unfold writeWinerr
  repeat' first
    | with_reducible assumption
    | with_reducible refine modWin_kept ?_
    | with_reducible refine ite_kept ?_ ?_
    | with_reducible refine foldl_kept ?_ (fun t a h => ?_)
    | decide
    | dsimp -proj only
    | split

theorem writeWinctl_kept {s x : State} {a0 a1} (h : Kept s x) :
    Kept s (writeWinctl x a0 a1) := by
  unfold writeWinctl
  repeat' first
    | with_reducible assumption
    | with_reducible refine modWin_kept ?_
    | with_reducible refine ite_kept ?_ ?_
    | with_reducible refine foldl_kept ?_ (fun t a h => ?_)
    | decide
    | dsimp -proj only
    | split

theorem writeTmseqctl_kept {s x : State} {a0 a1} (h : Kept s x) : Kept s (writeTmseqctl x a0 a1) :=
  Kept.of_keeps (fun k hk => writeTmseqctl_keeps (a0 := a0) (a1 := a1) hk (k.same_refl x)) (by decide) h

theorem writeHeld_kept {s x : State} {a0} (h : Kept s x) :
    Kept s (writeHeld x a0) := by
  unfold writeHeld
  repeat' first
    | with_reducible assumption
    | with_reducible refine modWq_kept ?_
    | with_reducible refine ringWrite_kept ?_
    | with_reducible refine ringWrite_kept_eq ?_ (by with_reducible assumption)
    | with_reducible refine ite_kept ?_ ?_
    | with_reducible refine foldl_kept ?_ (fun t a h => ?_)
    | decide
    | dsimp -proj only
    | split

theorem enableCq_kept {s x : State} {a0} (h : Kept s x) :
    Kept s (enableCq x a0) := by
  unfold enableCq
  repeat' first
    | with_reducible assumption
    | with_reducible refine writeHeld_kept ?_
    | with_reducible refine modCq_kept ?_
    | with_reducible refine ite_kept ?_ ?_
    | with_reducible refine foldl_kept ?_ (fun t a h => ?_)
    | decide
    | dsimp -proj only
    | split

theorem disableCq_kept {s x : State} {a0} (h : Kept s x) :
    Kept s (disableCq x a0) := by
  unfold disableCq
  repeat' first
    | with_reducible assumption
    | with_reducible refine flushDue_kept ?_
    | with_reducible refine modCq_kept ?_
    | with_reducible refine ite_kept ?_ ?_
    | with_reducible refine foldl_kept ?_ (fun t a h => ?_)
    | decide
    | dsimp -proj only
    | split

theorem writeCqctl_kept {s x : State} {a0 a1} (h : Kept s x) :
    Kept s (writeCqctl x a0 a1) := by
  unfold writeCqctl
  repeat' first
    | with_reducible assumption
    | with_reducible refine enableCq_kept ?_
    | with_reducible refine disableCq_kept ?_
    | with_reducible refine modCq_kept ?_
    | with_reducible refine ite_kept ?_ ?_
    | with_reducible refine foldl_kept ?_ (fun t a h => ?_)
    | decide
    | dsimp -proj only
    | split

theorem modRxs_kept {s x : State} {a0 a1 a2} (h : Kept s x) : Kept s (modRxs x a0 a1 a2) :=
  Kept.of_keeps (fun k hk => modRxs_keeps (a0 := a0) (a1 := a1) (a2 := a2) hk (k.same_refl x)) (by decide) h

theorem recentreNow_kept {s x : State} {a0 a1 a2 a3} (h : Kept s x) :
    Kept s (recentreNow x a0 a1 a2 a3) := by
  unfold recentreNow
  repeat' first
    | with_reducible assumption
    | with_reducible refine modRxs_kept ?_
    | with_reducible refine logL_kept ?_
    | with_reducible refine ite_kept ?_ ?_
    | with_reducible refine foldl_kept ?_ (fun t a h => ?_)
    | decide
    | dsimp -proj only
    | split

theorem modRx_kept {s x : State} {a0 a1 a2} (h : Kept s x) : Kept s (modRx x a0 a1 a2) :=
  Kept.of_keeps (fun k hk => modRx_keeps (a0 := a0) (a1 := a1) (a2 := a2) hk (k.same_refl x)) (by decide) h

theorem ebLimits_kept {s x : State} {a0 a1} (h : Kept s x) :
    Kept s (ebLimits x a0 a1) := by
  unfold ebLimits
  repeat' first
    | with_reducible assumption
    | with_reducible refine recentreNow_kept ?_
    | with_reducible refine modRx_kept ?_
    | with_reducible refine ite_kept ?_ ?_
    | with_reducible refine foldl_kept ?_ (fun t a h => ?_)
    | decide
    | dsimp -proj only
    | split

theorem recentre_kept {s x : State} {a0 a1} (h : Kept s x) :
    Kept s (recentre x a0 a1) := by
  unfold recentre
  repeat' first
    | with_reducible assumption
    | with_reducible refine ebLimits_kept ?_
    | with_reducible refine modRx_kept ?_
    | with_reducible refine ite_kept ?_ ?_
    | with_reducible refine foldl_kept ?_ (fun t a h => ?_)
    | decide
    | dsimp -proj only
    | split

theorem bitslip_kept {s x : State} {a0 a1} (h : Kept s x) : Kept s (bitslip x a0 a1) :=
  Kept.of_keeps (fun k hk => bitslip_keeps (a0 := a0) (a1 := a1) hk (k.same_refl x)) (by decide) h

theorem writeLnctl_kept {s x : State} {a0 a1 a2} (h : Kept s x) :
    Kept s (writeLnctl x a0 a1 a2) := by
  unfold writeLnctl
  repeat' first
    | with_reducible assumption
    | with_reducible refine recentre_kept ?_
    | with_reducible refine modRx_kept ?_
    | with_reducible refine bitslip_kept ?_
    | with_reducible refine ite_kept ?_ ?_
    | with_reducible refine foldl_kept ?_ (fun t a h => ?_)
    | decide
    | dsimp -proj only
    | split

theorem writeCalstat_kept {s x : State} {a0} (h : Kept s x) : Kept s (writeCalstat x a0) :=
  Kept.of_keeps (fun k hk => writeCalstat_keeps (a0 := a0) hk (k.same_refl x)) (by decide) h

theorem writeStorestat_kept {s x : State} {a0} (h : Kept s x) :
    Kept s (writeStorestat x a0) := by
  unfold writeStorestat
  try dsimp -zeta -proj only [upd_store]
  repeat' first
    | with_reducible assumption
    | with_reducible refine putStore_kept ?_ ?_
    | with_reducible refine ite_kept ?_ ?_
    | with_reducible refine foldl_kept ?_ (fun t a h => ?_)
    | exact fun h => h
    | decide
    | dsimp -proj only
    | split

theorem writeTwbctl_kept {s x : State} {a0} (h : Kept s x) : Kept s (writeTwbctl x a0) :=
  Kept.of_keeps (fun k hk => writeTwbctl_keeps (a0 := a0) hk (k.same_refl x)) (by decide) h

theorem writeLncal_kept {s x : State} {a0 a1 a2} (h : Kept s x) : Kept s (writeLncal x a0 a1 a2) :=
  Kept.of_keeps (fun k hk => writeLncal_keeps (a0 := a0) (a1 := a1) (a2 := a2) hk (k.same_refl x)) (by decide) h

theorem writeLnscan_kept {s x : State} {a0 a1 a2} (h : Kept s x) : Kept s (writeLnscan x a0 a1 a2) :=
  Kept.of_keeps (fun k hk => writeLnscan_keeps (a0 := a0) (a1 := a1) (a2 := a2) hk (k.same_refl x)) (by decide) h

theorem writeWqstat_kept {s x : State} {a0 a1} (h : Kept s x) : Kept s (writeWqstat x a0 a1) :=
  Kept.of_keeps (fun k hk => writeWqstat_keeps (a0 := a0) (a1 := a1) hk (k.same_refl x)) (by decide) h

theorem writeCqstat_kept {s x : State} {a0 a1} (h : Kept s x) : Kept s (writeCqstat x a0 a1) :=
  Kept.of_keeps (fun k hk => writeCqstat_keeps (a0 := a0) (a1 := a1) hk (k.same_refl x)) (by decide) h

theorem writeImcctl_kept {s x : State} {a0} (h : Kept s x) : Kept s (writeImcctl x a0) :=
  Kept.of_keeps (fun k hk => writeImcctl_keeps (a0 := a0) hk (k.same_refl x)) (by decide) h

theorem loadTime_kept {s x : State} (h : Kept s x) :
    Kept s (loadTime x) := by
  unfold loadTime
  try dsimp -zeta -proj only [upd_time]
  repeat' first
    | with_reducible assumption
    | with_reducible refine logEvent_kept ?_
    | with_reducible refine putTime_kept ?_
    | with_reducible refine ite_kept ?_ ?_
    | with_reducible refine foldl_kept ?_ (fun t a h => ?_)
    | decide
    | dsimp -proj only
    | split

theorem loadNow_kept {s x : State} (h : Kept s x) :
    Kept s (loadNow x) := by
  unfold loadNow
  try dsimp -zeta -proj only [upd_time]
  repeat' first
    | with_reducible assumption
    | with_reducible refine loadTime_kept ?_
    | with_reducible refine putTime_kept ?_
    | with_reducible refine ite_kept ?_ ?_
    | with_reducible refine foldl_kept ?_ (fun t a h => ?_)
    | decide
    | dsimp -proj only
    | split

theorem writeSyncctl_kept {s x : State} {a0} (h : Kept s x) :
    Kept s (writeSyncctl x a0) := by
  unfold writeSyncctl
  try dsimp -zeta -proj only [upd_time]
  repeat' first
    | with_reducible assumption
    | with_reducible refine loadNow_kept ?_
    | with_reducible refine putTime_kept ?_
    | with_reducible refine ite_kept ?_ ?_
    | with_reducible refine foldl_kept ?_ (fun t a h => ?_)
    | decide
    | dsimp -proj only
    | split

theorem writeReg_kept {s x : State} {a0 a1 a2} (h : Kept s x) :
    Kept s (writeReg x a0 a1 a2) := by
  unfold writeReg
  try dsimp -zeta -proj only [upd_nvm]
  repeat' first
    | with_reducible assumption
    | with_reducible refine writeDtload_kept ?_
    | with_reducible refine writeLneq_kept ?_
    | with_reducible refine writeEvtmask_kept ?_
    | with_reducible refine writeDevctl_kept ?_
    | with_reducible refine awlCommand_kept ?_
    | with_reducible refine writeCqhead_kept ?_
    | with_reducible refine writeLnstat_kept ?_
    | with_reducible refine writeLnloop_kept ?_
    | with_reducible refine writeLnkloss_kept ?_
    | with_reducible refine writeTmstat_kept ?_
    | with_reducible refine writeWqhdr_kept ?_
    | with_reducible refine writeAttnsrc_kept ?_
    | with_reducible refine writeLnkspcmd_kept ?_
    | with_reducible refine writeLastcmd_kept ?_
    | with_reducible refine writeCalcmd_kept ?_
    | with_reducible refine clearFaults_kept ?_
    | with_reducible refine writeWqctl_kept ?_
    | with_reducible refine writeTwbstat_kept ?_
    | with_reducible refine writeTmthresh_kept ?_
    | with_reducible refine writeLnkctl_kept ?_
    | with_reducible refine writeNvmctl_kept ?_
    | with_reducible refine writeLnsnap_kept ?_
    | with_reducible refine writeEntry_kept ?_
    | with_reducible refine writeCqbase_kept ?_
    | with_reducible refine writeLntxdrv_kept ?_
    | with_reducible refine writeNvmstat_kept ?_
    | with_reducible refine writeLnsymcntHi_kept ?_
    | with_reducible refine writeLnprbs_kept ?_
    | with_reducible refine writeDtrate_kept ?_
    | with_reducible refine writeCtxstat_kept ?_
    | with_reducible refine doorbell_kept ?_
    | with_reducible refine writeWinerr_kept ?_
    | with_reducible refine writeWinctl_kept ?_
    | with_reducible refine writeTmseqctl_kept ?_
    | with_reducible refine writeCqctl_kept ?_
    | with_reducible refine writeLnctl_kept ?_
    | with_reducible refine writeCalstat_kept ?_
    | with_reducible refine writeStorestat_kept ?_
    | with_reducible refine writeTwbctl_kept ?_
    | with_reducible refine writeLncal_kept ?_
    | with_reducible refine writeLnscan_kept ?_
    | with_reducible refine modMeas_kept ?_
    | with_reducible refine writeWqstat_kept ?_
    | with_reducible refine writeCqstat_kept ?_
    | with_reducible refine writeImcctl_kept ?_
    | with_reducible refine writeSyncctl_kept ?_
    | with_reducible refine putNvm_kept ?_ ?_
    | with_reducible refine ite_kept ?_ ?_
    | with_reducible refine foldl_kept ?_ (fun t a h => ?_)
    | with_reducible exact NvmSt.setCell_keeps _ _ _
    | with_reducible refine nvm_keeps_of ?_ ?_
    | exact fun h => h
    | rfl
    | decide
    | dsimp -proj only
    | split

theorem storeWriteVa_kept {s x : State} {a0 a1 a2} (h : Kept s x) :
    Kept s (storeWriteVa x a0 a1 a2) := by
  unfold storeWriteVa
  repeat' first
    | with_reducible assumption
    | with_reducible refine storeWrite_kept ?_
    | with_reducible refine winFault_kept ?_
    | with_reducible refine ite_kept ?_ ?_
    | with_reducible refine foldl_kept ?_ (fun t a h => ?_)
    | decide
    | dsimp -proj only
    | split

theorem writeOpen_kept {s x : State} {a0 a1 a2} (h : Kept s x) :
    Kept s (writeOpen x a0 a1 a2) := by
  unfold writeOpen
  repeat' first
    | with_reducible assumption
    | with_reducible refine writeReg_kept ?_
    | with_reducible refine logIslandOff_kept ?_
    | with_reducible refine storeWrite_kept ?_
    | with_reducible refine storeWriteVa_kept ?_
    | with_reducible refine ite_kept ?_ ?_
    | with_reducible refine foldl_kept ?_ (fun t a h => ?_)
    | decide
    | dsimp -proj only
    | split

theorem accessWrite_kept {s x : State} {a0 a1 a2} (h : Kept s x) :
    Kept s (accessWrite x a0 a1 a2) := by
  unfold accessWrite
  repeat' first
    | with_reducible assumption
    | with_reducible refine writeOpen_kept ?_
    | with_reducible refine logDenied_kept ?_
    | with_reducible refine ite_kept ?_ ?_
    | with_reducible refine foldl_kept ?_ (fun t a h => ?_)
    | decide
    | dsimp -proj only
    | split

theorem busWrite_kept {s x : State} {a0 a1 a2} (h : Kept s x) :
    Kept s (busWrite x a0 a1 a2) := by
  unfold busWrite
  repeat' first
    | with_reducible assumption
    | with_reducible refine accessWrite_kept ?_
    | with_reducible refine ite_kept ?_ ?_
    | with_reducible refine foldl_kept ?_ (fun t a h => ?_)
    | decide
    | dsimp -proj only
    | split

theorem writeTo_kept {s x : State} {a0 a1 a2} (h : Kept s x) :
    Kept s (writeTo x a0 a1 a2) := by
  unfold writeTo
  repeat' first
    | with_reducible assumption
    | with_reducible refine busWrite_kept ?_
    | with_reducible refine ite_kept ?_ ?_
    | with_reducible refine foldl_kept ?_ (fun t a h => ?_)
    | decide
    | dsimp -proj only
    | split

theorem execLnkctlClrRetrains_kept {s x : State} {a0 a1 a2} (h : Kept s x) :
    ∃ t, execLnkctlClrRetrains a0 a1 a2 x = .next t ∧ Kept s t := by
  unfold execLnkctlClrRetrains
  repeat' first
    | with_reducible assumption
    | with_reducible refine done_kept ?_
    | with_reducible refine writeTo_kept ?_
    | with_reducible refine ite_kept ?_ ?_
    | with_reducible refine foldl_kept ?_ (fun t a h => ?_)
    | decide
    | dsimp -proj only
    | split

theorem execLinkSwitchInstant_kept {s x : State} {a0} (h : Kept s x) :
    ∃ t, execLinkSwitchInstant a0 x = .next t ∧ Kept s t := by
  unfold execLinkSwitchInstant
  repeat' first
    | with_reducible assumption
    | with_reducible refine done_kept ?_
    | with_reducible refine setResult_kept ?_
    | with_reducible refine switchLink_kept ?_
    | with_reducible refine ite_kept ?_ ?_
    | with_reducible refine foldl_kept ?_ (fun t a h => ?_)
    | decide
    | dsimp -proj only
    | split

theorem restOthers_kept {s x : State} {a0 a1} (h : Kept s x) :
    Kept s (restOthers x a0 a1) := by
  unfold restOthers
  repeat' first
    | with_reducible assumption
    | with_reducible refine restSpare_kept ?_
    | with_reducible refine ite_kept ?_ ?_
    | with_reducible refine foldl_kept ?_ (fun t a h => ?_)
    | decide
    | dsimp -proj only
    | split

theorem swapDone_kept {s x : State} {a0 a1} (h : Kept s x) :
    Kept s (swapDone x a0 a1) := by
  unfold swapDone
  repeat' first
    | with_reducible assumption
    | with_reducible refine restSpare_kept ?_
    | with_reducible refine modLink_kept ?_
    | with_reducible refine serveWaiting_kept ?_
    | with_reducible refine setSwapResult_kept ?_
    | with_reducible refine logSwap_kept ?_
    | with_reducible refine restOthers_kept ?_
    | with_reducible refine setSpare_kept ?_
    | with_reducible refine ite_kept ?_ ?_
    | with_reducible refine foldl_kept ?_ (fun t a h => ?_)
    | decide
    | dsimp -proj only
    | split

theorem swapAck_kept {s x : State} {a0 a1} (h : Kept s x) :
    Kept s (swapAck x a0 a1) := by
  unfold swapAck
  repeat' first
    | with_reducible assumption
    | with_reducible refine swapDone_kept ?_
    | with_reducible refine vacate_kept ?_
    | with_reducible refine modLink_kept ?_
    | with_reducible refine sendSpare_kept ?_
    | with_reducible refine ite_kept ?_ ?_
    | with_reducible refine foldl_kept ?_ (fun t a h => ?_)
    | decide
    | dsimp -proj only
    | split

theorem lostPage_kept {s x : State} {a0 a1 a2 a3} (h : Kept s x) :
    Kept s (lostPage x a0 a1 a2 a3) := by
  unfold lostPage
  repeat' first
    | with_reducible assumption
    | with_reducible refine unlockEntry_kept ?_
    | with_reducible refine logEvent_kept ?_
    | with_reducible refine finishJob_kept ?_
    | with_reducible refine latchJob_kept ?_
    | with_reducible refine endCapture_kept ?_
    | with_reducible refine endCapture_kept_eq ?_ (by with_reducible assumption)
    | with_reducible refine ite_kept ?_ ?_
    | with_reducible refine foldl_kept ?_ (fun t a h => ?_)
    | decide
    | dsimp -proj only
    | split

theorem capFlush_kept {s x : State} {a0} (h : Kept s x) :
    Kept s (capFlush x a0).2.2 := by
  unfold capFlush
  repeat' first
    | with_reducible assumption
    | with_reducible refine jobWrite_kept ?_
    | with_reducible refine jobWrite_kept_eq ?_ (by with_reducible assumption)
    | with_reducible refine ite_kept ?_ ?_
    | with_reducible refine foldl_kept ?_ (fun t a h => ?_)
    | decide
    | dsimp -proj only
    | split

theorem capFlush_kept_eq {s x : State} {a0} {r q u} (h : Kept s x) (e : capFlush x a0 = (r, q, u)) :
    Kept s u := by
  simpa only [e] using capFlush_kept (s := s) (x := x) (a0 := a0) h

theorem capRow_kept {s x : State} {a0 a1} (h : Kept s x) :
    Kept s (capRow x a0 a1) := by
  unfold capRow
  repeat' first
    | with_reducible assumption
    | with_reducible refine lostPage_kept ?_
    | with_reducible refine capFlush_kept ?_
    | with_reducible refine capFlush_kept_eq ?_ (by with_reducible assumption)
    | with_reducible refine setUnit_kept ?_
    | with_reducible refine ite_kept ?_ ?_
    | with_reducible refine foldl_kept ?_ (fun t a h => ?_)
    | decide
    | dsimp -proj only
    | split

theorem capFeed_kept {s x : State} {a0 a1 a2 a3} (h : Kept s x) :
    Kept s (capFeed x a0 a1 a2 a3) := by
  unfold capFeed
  repeat' first
    | with_reducible assumption
    | with_reducible refine setUnit_kept ?_
    | with_reducible refine capRow_kept ?_
    | with_reducible refine ite_kept ?_ ?_
    | with_reducible refine foldl_kept ?_ (fun t a h => ?_)
    | decide
    | dsimp -proj only
    | split

theorem putSymbol_kept {s x : State} {a0 a1 a2 a3 a4} (h : Kept s x) :
    Kept s (putSymbol x a0 a1 a2 a3 a4) := by
  unfold putSymbol
  repeat' first
    | with_reducible assumption
    | with_reducible refine modTx_kept ?_
    | with_reducible refine capFeed_kept ?_
    | with_reducible refine ite_kept ?_ ?_
    | with_reducible refine foldl_kept ?_ (fun t a h => ?_)
    | decide
    | dsimp -proj only
    | split

theorem execCqEnable_kept {s x : State} {a0 a1 a2} (h : Kept s x) :
    ∃ t, execCqEnable a0 a1 a2 x = .next t ∧ Kept s t := by
  unfold execCqEnable
  repeat' first
    | with_reducible assumption
    | with_reducible refine done_kept ?_
    | with_reducible refine writeTo_kept ?_
    | with_reducible refine ite_kept ?_ ?_
    | with_reducible refine foldl_kept ?_ (fun t a h => ?_)
    | decide
    | dsimp -proj only
    | split

theorem eepromTransfer_kept {s x : State} {a0} (h : Kept s x) : Kept s (eepromTransfer x a0) :=
  Kept.of_keeps (fun k hk => eepromTransfer_keeps (a0 := a0) hk (k.same_refl x)) (by decide) h

theorem execEepromTransfer_kept {s x : State} {a0} (h : Kept s x) :
    ∃ t, execEepromTransfer a0 x = .next t ∧ Kept s t := by
  unfold execEepromTransfer
  repeat' first
    | with_reducible assumption
    | with_reducible refine done_kept ?_
    | with_reducible refine eepromTransfer_kept ?_
    | with_reducible refine ite_kept ?_ ?_
    | with_reducible refine foldl_kept ?_ (fun t a h => ?_)
    | decide
    | dsimp -proj only
    | split

theorem silenceLoop_kept {s x : State} {a0 a1} (h : Kept s x) : Kept s (silenceLoop x a0 a1) :=
  Kept.of_keeps (fun k hk => silenceLoop_keeps (a0 := a0) (a1 := a1) hk (k.same_refl x)) (by decide) h

theorem prbsSetUp_kept {s x : State} {a0 a1 a2} (h : Kept s x) :
    Kept s (prbsSetUp x a0 a1 a2) := by
  unfold prbsSetUp
  repeat' first
    | with_reducible assumption
    | with_reducible refine finishWith_kept ?_
    | with_reducible refine keepJob_kept ?_
    | with_reducible refine silenceLoop_kept ?_
    | with_reducible refine seedGen_kept ?_
    | with_reducible refine holdStarts_kept ?_
    | with_reducible refine modMeas_kept ?_
    | with_reducible refine ite_kept ?_ ?_
    | with_reducible refine foldl_kept ?_ (fun t a h => ?_)
    | decide
    | dsimp -proj only
    | split

theorem execPrbsJob_kept {s x : State} {a0 a1} (h : Kept s x) :
    ∃ t, execPrbsJob a0 a1 x = .next t ∧ Kept s t := by
  unfold execPrbsJob
  repeat' first
    | with_reducible assumption
    | with_reducible refine done_kept ?_
    | with_reducible refine prbsSetUp_kept ?_
    | with_reducible refine ite_kept ?_ ?_
    | with_reducible refine foldl_kept ?_ (fun t a h => ?_)
    | decide
    | dsimp -proj only
    | split

theorem endErase_kept {s x : State} {a0 a1} (h : Kept s x) : Kept s (endErase x a0 a1) := by
  have hc : ∀ y : State, Kept s y → Kept s { y with nvm := { clearSector y.nvm a0 with dirty := numClear a0 y.nvm.dirty } } :=
    fun y g => setNvm_kept g ((clearSector_keeps y.nvm a0).trans (NvmSt.clearDirty_keeps _ a0))
  have hh : ∀ (y : State) (v : SecHdr), Kept s y →
      Kept s { y with nvm := { y.nvm.setHead a0 v with own := y.nvm.own ++ [.head a0] } } :=
    fun y v g => setNvm_kept g ((NvmSt.setHead_keeps y.nvm a0 v).trans ⟨fun w => w, rfl⟩)
  have h1 : Kept s (if a1 = true then { x with nvm := { clearSector x.nvm a0 with dirty := numClear a0 x.nvm.dirty } } else x) :=
    ite_kept (hc x h) h
  unfold endErase
  extract_lets count was _ s2 s3 gone _ s4
  have h3 : Kept s s4 := hh s3 _ (writeLog_kept h1)
  exact ite_kept (logEvent_kept h3) h3

theorem beginLogErase_kept {s x : State} (h : Kept s x) : Kept s (beginLogErase x) := by
  have h1 := setNvm_kept (v := { x.nvm with eraseDue := false }) h ⟨fun w => w, rfl⟩
  unfold beginLogErase
  refine ite_kept h1 ?_
  exact setNvm_kept (markBegun_kept (logPut_kept h1)) (NvmSt.setLogErase_keeps _ _)

theorem tendLog_kept {s x : State} (h : Kept s x) :
    Kept s (tendLog x) := by
  unfold tendLog
  repeat' first
    | with_reducible assumption
    | with_reducible refine beginLogErase_kept ?_
    | with_reducible refine ite_kept ?_ ?_
    | with_reducible refine foldl_kept ?_ (fun t a h => ?_)
    | decide
    | dsimp -proj only
    | split

theorem sectorDone_kept {s x : State} {a0} (h : Kept s x) :
    Kept s (sectorDone x a0) := by
  unfold sectorDone
  try dsimp -zeta -proj only [upd_nvm]
  repeat' first
    | with_reducible assumption
    | with_reducible refine finishWith_kept ?_
    | with_reducible refine endErase_kept ?_
    | with_reducible refine keepJob_kept ?_
    | with_reducible refine tendLog_kept ?_
    | with_reducible refine beginErase_kept ?_
    | with_reducible refine putNvm_kept ?_ ?_
    | with_reducible refine ite_kept ?_ ?_
    | with_reducible refine foldl_kept ?_ (fun t a h => ?_)
    | with_reducible exact NvmSt.setCell_keeps _ _ _
    | with_reducible refine nvm_keeps_of ?_ ?_
    | exact fun h => h
    | rfl
    | decide
    | dsimp -proj only
    | split

theorem jtagLoad_kept {s x : State} {a0} (h : Kept s x) : Kept s (jtagLoad x a0) :=
  Kept.of_keeps (fun k hk => jtagLoad_keeps (a0 := a0) hk (k.same_refl x)) (by decide) h

theorem modJtag_kept {s x : State} {a0} (h : Kept s x) : Kept s (modJtag x a0) :=
  Kept.of_keeps (fun k hk => modJtag_keeps (a0 := a0) hk (k.same_refl x)) (by decide) h

theorem captureCells_kept {s x : State} (h : Kept s x) :
    Kept s (captureCells x) := by
  unfold captureCells
  repeat' first
    | with_reducible assumption
    | with_reducible refine useFree_kept ?_
    | with_reducible refine useFree_kept_eq ?_ (by with_reducible assumption)
    | with_reducible refine modJtag_kept ?_
    | with_reducible refine ite_kept ?_ ?_
    | with_reducible refine foldl_kept ?_ (fun t a h => ?_)
    | decide
    | dsimp -proj only
    | split

theorem scanCells_kept {s x : State} {a0} (h : Kept s x) :
    Kept s (scanCells x a0) := by
  unfold scanCells
  repeat' first
    | with_reducible assumption
    | with_reducible refine jtagLoad_kept ?_
    | with_reducible refine captureCells_kept ?_
    | with_reducible refine useFree_kept ?_
    | with_reducible refine useFree_kept_eq ?_ (by with_reducible assumption)
    | with_reducible refine modJtag_kept ?_
    | with_reducible refine ite_kept ?_ ?_
    | with_reducible refine foldl_kept ?_ (fun t a h => ?_)
    | decide
    | dsimp -proj only
    | split

theorem execJtagExtestTrain_kept {s x : State} (h : Kept s x) :
    ∃ t, execJtagExtestTrain x = .next t ∧ Kept s t := by
  unfold execJtagExtestTrain
  repeat' first
    | with_reducible assumption
    | with_reducible refine done_kept ?_
    | with_reducible refine scanCells_kept ?_
    | with_reducible refine ite_kept ?_ ?_
    | with_reducible refine foldl_kept ?_ (fun t a h => ?_)
    | decide
    | dsimp -proj only
    | split

theorem modTr_kept {s x : State} {a0 a1 a2} (h : Kept s x) : Kept s (modTr x a0 a1 a2) :=
  Kept.of_keeps (fun k hk => modTr_keeps (a0 := a0) (a1 := a1) (a2 := a2) hk (k.same_refl x)) (by decide) h

theorem checkRecovered_kept {s x : State} {a0} (h : Kept s x) : Kept s (checkRecovered x a0) :=
  Kept.of_keeps (fun k hk => checkRecovered_keeps (a0 := a0) hk (k.same_refl x)) (by decide) h

theorem enterActive_kept {s x : State} {a0} (h : Kept s x) :
    Kept s (enterActive x a0) := by
  unfold enterActive
  repeat' first
    | with_reducible assumption
    | with_reducible refine setResult_kept ?_
    | with_reducible refine modLink_kept ?_
    | with_reducible refine checkRecovered_kept ?_
    | with_reducible refine ite_kept ?_ ?_
    | with_reducible refine foldl_kept ?_ (fun t a h => ?_)
    | decide
    | dsimp -proj only
    | split

theorem linkSymbol_kept {s x : State} {a0 a1} (h : Kept s x) :
    Kept s (linkSymbol x a0 a1) := by
  unfold linkSymbol
  repeat' first
    | with_reducible assumption
    | with_reducible refine modTr_kept ?_
    | with_reducible refine enterActive_kept ?_
    | with_reducible refine ite_kept ?_ ?_
    | with_reducible refine foldl_kept ?_ (fun t a h => ?_)
    | decide
    | dsimp -proj only
    | split

theorem fillPad_kept {s x : State} {a0 a1 a2} (h : Kept s x) : Kept s (fillPad x a0 a1 a2) :=
  Kept.of_keeps (fun k hk => fillPad_keeps (a0 := a0) (a1 := a1) (a2 := a2) hk (k.same_refl x)) (by decide) h

theorem execPadSetPasses_kept {s x : State} {a0 a1} (h : Kept s x) :
    ∃ t, execPadSetPasses a0 a1 x = .next t ∧ Kept s t := by
  unfold execPadSetPasses
  repeat' first
    | with_reducible assumption
    | with_reducible refine done_kept ?_
    | with_reducible refine linkSymbol_kept ?_
    | with_reducible refine fillPad_kept ?_
    | with_reducible refine ite_kept ?_ ?_
    | with_reducible refine foldl_kept ?_ (fun t a h => ?_)
    | decide
    | dsimp -proj only
    | split

theorem txDark_kept {s x : State} {a0 a1} (h : Kept s x) :
    Kept s (txDark x a0 a1) := by
  unfold txDark
  repeat' first
    | with_reducible assumption
    | with_reducible refine capFeed_kept ?_
    | with_reducible refine ite_kept ?_ ?_
    | with_reducible refine foldl_kept ?_ (fun t a h => ?_)
    | decide
    | dsimp -proj only
    | split

theorem execLpReqIdle_kept {s x : State} {a0 a1} (h : Kept s x) :
    ∃ t, execLpReqIdle a0 a1 x = .next t ∧ Kept s t := by
  unfold execLpReqIdle
  repeat' first
    | with_reducible assumption
    | with_reducible refine done_kept ?_
    | with_reducible refine modLink_kept ?_
    | with_reducible refine sendOwn_kept ?_
    | with_reducible refine ite_kept ?_ ?_
    | with_reducible refine foldl_kept ?_ (fun t a h => ?_)
    | decide
    | dsimp -proj only
    | split

theorem ownDone_kept {s x : State} (h : Kept s x) :
    Kept s (ownDone x) := by
  unfold ownDone
  try dsimp -zeta -proj only [upd_nvm]
  repeat' first
    | with_reducible assumption
    | with_reducible refine putNvm_kept ?_ ?_
    | with_reducible refine ite_kept ?_ ?_
    | with_reducible refine foldl_kept ?_ (fun t a h => ?_)
    | with_reducible exact NvmSt.setCell_keeps _ _ _
    | with_reducible refine nvm_keeps_of ?_ ?_
    | exact fun h => h
    | rfl
    | decide
    | dsimp -proj only
    | split

theorem execNvmErase_kept {s x : State} (h : Kept s x) :
    ∃ t, execNvmErase x = .next t ∧ Kept s t := by
  unfold execNvmErase
  repeat' first
    | with_reducible assumption
    | with_reducible refine done_kept ?_
    | with_reducible refine ownDone_kept ?_
    | with_reducible refine eraseSetUp_kept ?_
    | with_reducible refine ite_kept ?_ ?_
    | with_reducible refine foldl_kept ?_ (fun t a h => ?_)
    | decide
    | dsimp -proj only
    | split

theorem readOtp_kept {s x : State} {a0} (h : Kept s x) :
    Kept s (readOtp x a0).2.2 := by
  unfold readOtp
  try dsimp -zeta -proj only [upd_nvm]
  repeat' first
    | with_reducible assumption
    | with_reducible refine stepCe_kept ?_
    | with_reducible refine putNvm_kept ?_ ?_
    | with_reducible refine ite_kept ?_ ?_
    | with_reducible refine foldl_kept ?_ (fun t a h => ?_)
    | with_reducible exact NvmSt.setCell_keeps _ _ _
    | with_reducible refine nvm_keeps_of ?_ ?_
    | exact fun h => h
    | rfl
    | decide
    | dsimp -proj only
    | split

theorem readOtp_kept_eq {s x : State} {a0} {r q u} (h : Kept s x) (e : readOtp x a0 = (r, q, u)) :
    Kept s u := by
  simpa only [e] using readOtp_kept (s := s) (x := x) (a0 := a0) h

theorem endRead_kept {s x : State} {a0 a1} (h : Kept s x) : Kept s (endRead x a0 a1) :=
  Kept.of_keeps (fun k hk => endRead_keeps (a0 := a0) (a1 := a1) hk (k.same_refl x)) (by decide) h

theorem putData_kept {s x : State} {a0 a1 a2 a3 a4} (h : Kept s x) :
    Kept s (putData x a0 a1 a2 a3 a4).2 := by
  unfold putData
  repeat' first
    | with_reducible assumption
    | with_reducible refine jobWrite_kept ?_
    | with_reducible refine jobWrite_kept_eq ?_ (by with_reducible assumption)
    | with_reducible refine faultJob_kept ?_
    | with_reducible refine ite_kept ?_ ?_
    | with_reducible refine foldl_kept ?_ (fun t a h => ?_)
    | decide
    | dsimp -proj only
    | split

theorem putData_kept_eq {s x : State} {a0 a1 a2 a3 a4} {r u} (h : Kept s x) (e : putData x a0 a1 a2 a3 a4 = (r, u)) :
    Kept s u := by
  simpa only [e] using putData_kept (s := s) (x := x) (a0 := a0) (a1 := a1) (a2 := a2) (a3 := a3) (a4 := a4) h

theorem closeRead_kept {s x : State} {a0} (h : Kept s x) :
    Kept s (closeRead x a0) := by
  unfold closeRead
  repeat' first
    | with_reducible assumption
    | with_reducible refine endRead_kept ?_
    | with_reducible refine putData_kept ?_
    | with_reducible refine putData_kept_eq ?_ (by with_reducible assumption)
    | with_reducible refine ite_kept ?_ ?_
    | with_reducible refine foldl_kept ?_ (fun t a h => ?_)
    | decide
    | dsimp -proj only
    | split

theorem putBlock_kept {s x : State} {a0 a1 a2} (h : Kept s x) :
    Kept s (putBlock x a0 a1 a2) := by
  unfold putBlock
  repeat' first
    | with_reducible assumption
    | with_reducible refine keepJob_kept ?_
    | with_reducible refine closeRead_kept ?_
    | with_reducible refine putData_kept ?_
    | with_reducible refine putData_kept_eq ?_ (by with_reducible assumption)
    | with_reducible refine ite_kept ?_ ?_
    | with_reducible refine foldl_kept ?_ (fun t a h => ?_)
    | decide
    | dsimp -proj only
    | split

theorem joinBlock_kept {s x : State} {a0 a1 a2 a3 a4} (h : Kept s x) :
    Kept s (joinBlock x a0 a1 a2 a3 a4) := by
  unfold joinBlock
  repeat' first
    | with_reducible assumption
    | with_reducible refine keepJob_kept ?_
    | with_reducible refine putBlock_kept ?_
    | with_reducible refine ite_kept ?_ ?_
    | with_reducible refine foldl_kept ?_ (fun t a h => ?_)
    | decide
    | dsimp -proj only
    | split

theorem stopAtBad_kept {s x : State} {a0 a1 a2 a3 a4 a5} (h : Kept s x) :
    Kept s (stopAtBad x a0 a1 a2 a3 a4 a5) := by
  unfold stopAtBad
  repeat' first
    | with_reducible assumption
    | with_reducible refine closeRead_kept ?_
    | with_reducible refine putData_kept ?_
    | with_reducible refine putData_kept_eq ?_ (by with_reducible assumption)
    | with_reducible refine ite_kept ?_ ?_
    | with_reducible refine foldl_kept ?_ (fun t a h => ?_)
    | decide
    | dsimp -proj only
    | split

theorem nvmReadStep_kept {s x : State} {a0} (h : Kept s x) :
    Kept s (nvmReadStep x a0) := by
  unfold nvmReadStep
  repeat' first
    | with_reducible assumption
    | with_reducible refine readOtp_kept ?_
    | with_reducible refine readOtp_kept_eq ?_ (by with_reducible assumption)
    | with_reducible refine endRead_kept ?_
    | with_reducible refine joinBlock_kept ?_
    | with_reducible refine readUnit_kept ?_
    | with_reducible refine readUnit_kept_eq ?_ (by with_reducible assumption)
    | with_reducible refine putBlock_kept ?_
    | with_reducible refine stopAtBad_kept ?_
    | with_reducible refine putData_kept ?_
    | with_reducible refine putData_kept_eq ?_ (by with_reducible assumption)
    | with_reducible refine ite_kept ?_ ?_
    | with_reducible refine foldl_kept ?_ (fun t a h => ?_)
    | decide
    | dsimp -proj only
    | split

theorem upsetWord_kept {s x : State} {a0} (h : Kept s x) : Kept s (upsetWord x a0) := by
  cases a0
  · exact putStore_kept h (StoreSt.setUpset_keeps x.store _ _)
  · exact putNvm_kept h (NvmSt.setUpset_keeps x.nvm _ _)
  · exact putNvm_kept h (NvmSt.setOtpUpset_keeps x.nvm _ _)

theorem upset_kept {s x : State} {a0} (h : Kept s x) :
    Kept s (upset x a0) := by
  unfold upset
  repeat' first
    | with_reducible assumption
    | with_reducible refine upsetWord_kept ?_
    | with_reducible refine ite_kept ?_ ?_
    | with_reducible refine foldl_kept ?_ (fun t a h => ?_)
    | decide
    | dsimp -proj only
    | split

theorem execNvmRead_kept {s x : State} {a0} (h : Kept s x) :
    ∃ t, execNvmRead a0 x = .next t ∧ Kept s t := by
  unfold execNvmRead
  repeat' first
    | with_reducible assumption
    | with_reducible refine nvmReadStep_kept ?_
    | with_reducible refine done_kept ?_
    | with_reducible refine ownDone_kept ?_
    | with_reducible refine upset_kept ?_
    | with_reducible refine ite_kept ?_ ?_
    | with_reducible refine foldl_kept ?_ (fun t a h => ?_)
    | decide
    | dsimp -proj only
    | split

theorem execNvmctlCeClr_kept {s x : State} {a0 a1} (h : Kept s x) :
    ∃ t, execNvmctlCeClr a0 a1 x = .next t ∧ Kept s t := by
  unfold execNvmctlCeClr
  repeat' first
    | with_reducible assumption
    | with_reducible refine done_kept ?_
    | with_reducible refine writeTo_kept ?_
    | with_reducible refine ite_kept ?_ ?_
    | with_reducible refine foldl_kept ?_ (fun t a h => ?_)
    | decide
    | dsimp -proj only
    | split

theorem ringFault_kept {s x : State} {a0 a1 a2 a3 a4} (h : Kept s x) :
    Kept s (ringFault x a0 a1 a2 a3 a4) := by
  unfold ringFault
  repeat' first
    | with_reducible assumption
    | with_reducible refine queueErrorRecord_kept ?_
    | with_reducible refine latchJob_kept ?_
    | with_reducible refine wqError_kept ?_
    | with_reducible refine ite_kept ?_ ?_
    | with_reducible refine foldl_kept ?_ (fun t a h => ?_)
    | decide
    | dsimp -proj only
    | split

theorem execTrainTimeout_kept {s x : State} {a0} (h : Kept s x) :
    ∃ t, execTrainTimeout a0 x = .next t ∧ Kept s t := by
  unfold execTrainTimeout
  repeat' first
    | with_reducible assumption
    | with_reducible refine done_kept ?_
    | with_reducible refine enterDetect_kept ?_
    | with_reducible refine ite_kept ?_ ?_
    | with_reducible refine foldl_kept ?_ (fun t a h => ?_)
    | decide
    | dsimp -proj only
    | split

theorem execStoreRead_kept {s x : State} {a0 a1 a2} (h : Kept s x) :
    ∃ t, execStoreRead a0 a1 a2 x = .next t ∧ Kept s t := by
  unfold execStoreRead
  repeat' first
    | with_reducible assumption
    | with_reducible refine done_kept ?_
    | with_reducible refine busRead_kept ?_
    | with_reducible refine upset_kept ?_
    | with_reducible refine ite_kept ?_ ?_
    | with_reducible refine foldl_kept ?_ (fun t a h => ?_)
    | decide
    | dsimp -proj only
    | split

theorem beginFence_kept {s x : State} {a0} (h : Kept s x) : Kept s (beginFence x a0) :=
  Kept.of_keeps (fun k hk => beginFence_keeps (a0 := a0) hk (k.same_refl x)) (by decide) h

theorem execLoopOff_kept {s x : State} {a0 a1 a2 a3} (h : Kept s x) :
    ∃ t, execLoopOff a0 a1 a2 a3 x = .next t ∧ Kept s t := by
  unfold execLoopOff
  repeat' first
    | with_reducible assumption
    | with_reducible refine done_kept ?_
    | with_reducible refine writeTo_kept ?_
    | with_reducible refine ite_kept ?_ ?_
    | with_reducible refine foldl_kept ?_ (fun t a h => ?_)
    | decide
    | dsimp -proj only
    | split

theorem putIdle_kept {s x : State} {a0 a1} (h : Kept s x) :
    Kept s (putIdle x a0 a1) := by
  unfold putIdle
  repeat' first
    | with_reducible assumption
    | with_reducible refine modTx_kept ?_
    | with_reducible refine capFeed_kept ?_
    | with_reducible refine ite_kept ?_ ?_
    | with_reducible refine foldl_kept ?_ (fun t a h => ?_)
    | decide
    | dsimp -proj only
    | split

theorem putGen_kept {s x : State} {a0 a1} (h : Kept s x) :
    Kept s (putGen x a0 a1) := by
  unfold putGen
  repeat' first
    | with_reducible assumption
    | with_reducible refine putSymbol_kept ?_
    | with_reducible refine modMeas_kept ?_
    | with_reducible refine ite_kept ?_ ?_
    | with_reducible refine foldl_kept ?_ (fun t a h => ?_)
    | decide
    | dsimp -proj only
    | split

theorem putTest_kept {s x : State} {a0 a1} (h : Kept s x) :
    Kept s (putTest x a0 a1) := by
  unfold putTest
  repeat' first
    | with_reducible assumption
    | with_reducible refine putIdle_kept ?_
    | with_reducible refine putGen_kept ?_
    | with_reducible refine ite_kept ?_ ?_
    | with_reducible refine foldl_kept ?_ (fun t a h => ?_)
    | decide
    | dsimp -proj only
    | split

theorem putOwn_kept {s x : State} {a0 a1 a2 a3} (h : Kept s x) :
    Kept s (putOwn x a0 a1 a2 a3) := by
  unfold putOwn
  repeat' first
    | with_reducible assumption
    | with_reducible refine putSymbol_kept ?_
    | with_reducible refine ite_kept ?_ ?_
    | with_reducible refine foldl_kept ?_ (fun t a h => ?_)
    | decide
    | dsimp -proj only
    | split

theorem putAhead_kept {s x : State} {a0 a1 a2 a3 a4} (h : Kept s x) :
    Kept s (putAhead x a0 a1 a2 a3 a4) := by
  unfold putAhead
  repeat' first
    | with_reducible assumption
    | with_reducible refine modTx_kept ?_
    | with_reducible refine putOwn_kept ?_
    | with_reducible refine ite_kept ?_ ?_
    | with_reducible refine foldl_kept ?_ (fun t a h => ?_)
    | decide
    | dsimp -proj only
    | split

theorem putFill_kept {s x : State} {a0 a1 a2 a3 a4} (h : Kept s x) :
    Kept s (putFill x a0 a1 a2 a3 a4) := by
  unfold putFill
  repeat' first
    | with_reducible assumption
    | with_reducible refine modTx_kept ?_
    | with_reducible refine putOwn_kept ?_
    | with_reducible refine putAhead_kept ?_
    | with_reducible refine ite_kept ?_ ?_
    | with_reducible refine foldl_kept ?_ (fun t a h => ?_)
    | decide
    | dsimp -proj only
    | split

theorem putForward_kept {s x : State} {a0 a1 a2 a3} (h : Kept s x) :
    Kept s (putForward x a0 a1 a2 a3) := by
  unfold putForward
  repeat' first
    | with_reducible assumption
    | with_reducible refine putSymbol_kept ?_
    | with_reducible refine putOwn_kept ?_
    | with_reducible refine ite_kept ?_ ?_
    | with_reducible refine foldl_kept ?_ (fun t a h => ?_)
    | decide
    | dsimp -proj only
    | split

theorem carriedOut_kept {s x : State} {a0 a1 a2 a3} (h : Kept s x) :
    Kept s (carriedOut x a0 a1 a2 a3) := by
  unfold carriedOut
  repeat' first
    | with_reducible assumption
    | with_reducible refine putTest_kept ?_
    | with_reducible refine putFill_kept ?_
    | with_reducible refine putForward_kept ?_
    | with_reducible refine putIdle_kept ?_
    | with_reducible refine txDark_kept ?_
    | with_reducible refine ite_kept ?_ ?_
    | with_reducible refine foldl_kept ?_ (fun t a h => ?_)
    | decide
    | dsimp -proj only
    | split

theorem putWarm_kept {s x : State} {a0 a1 a2} (h : Kept s x) :
    Kept s (putWarm x a0 a1 a2) := by
  unfold putWarm
  repeat' first
    | with_reducible assumption
    | with_reducible refine modTx_kept ?_
    | with_reducible refine putSymbol_kept ?_
    | with_reducible refine putOwn_kept ?_
    | with_reducible refine modMeas_kept ?_
    | with_reducible refine putAhead_kept ?_
    | with_reducible refine ite_kept ?_ ?_
    | with_reducible refine foldl_kept ?_ (fun t a h => ?_)
    | decide
    | dsimp -proj only
    | split

theorem vacantOut_kept {s x : State} {a0 a1 a2} (h : Kept s x) :
    Kept s (vacantOut x a0 a1 a2) := by
  unfold vacantOut
  repeat' first
    | with_reducible assumption
    | with_reducible refine putWarm_kept ?_
    | with_reducible refine putTest_kept ?_
    | with_reducible refine putIdle_kept ?_
    | with_reducible refine txDark_kept ?_
    | with_reducible refine ite_kept ?_ ?_
    | with_reducible refine foldl_kept ?_ (fun t a h => ?_)
    | decide
    | dsimp -proj only
    | split

theorem sendOne_kept {s x : State} {a0 a1 a2} (h : Kept s x) :
    Kept s (sendOne x a0 a1 a2) := by
  unfold sendOne
  repeat' first
    | with_reducible assumption
    | with_reducible refine carriedOut_kept ?_
    | with_reducible refine vacantOut_kept ?_
    | with_reducible refine txDark_kept ?_
    | with_reducible refine ite_kept ?_ ?_
    | with_reducible refine foldl_kept ?_ (fun t a h => ?_)
    | decide
    | dsimp -proj only
    | split

theorem passRequest_kept {s x : State} {a0 a1 a2} (h : Kept s x) : Kept s (passRequest x a0 a1 a2) :=
  Kept.of_keeps (fun k hk => passRequest_keeps (a0 := a0) (a1 := a1) (a2 := a2) hk (k.same_refl x)) (by decide) h

theorem readOne_kept {s x : State} {a0 a1} (h : Kept s x) :
    Kept s (readOne x a0 a1) := by
  unfold readOne
  repeat' first
    | with_reducible assumption
    | with_reducible refine ebLimits_kept ?_
    | with_reducible refine sendOne_kept ?_
    | with_reducible refine modRx_kept ?_
    | with_reducible refine capFeed_kept ?_
    | with_reducible refine passRequest_kept ?_
    | with_reducible refine ite_kept ?_ ?_
    | with_reducible refine foldl_kept ?_ (fun t a h => ?_)
    | decide
    | dsimp -proj only
    | split

theorem parkPreempted_kept {s x : State} {a0 a1 a2} (h : Kept s x) : Kept s (parkPreempted x a0 a1 a2) :=
  Kept.of_keeps (fun k hk => parkPreempted_keeps (a0 := a0) (a1 := a1) (a2 := a2) hk (k.same_refl x)) (by decide) h

theorem endEeprom_kept {s x : State} {a0} (h : Kept s x) : Kept s (endEeprom x a0) :=
  Kept.of_keeps (fun k hk => endEeprom_keeps (a0 := a0) hk (k.same_refl x)) (by decide) h

theorem cutNvm_cutSector_kept {s x : State} {a0} (h : Kept s x) : Kept s (cutNvm.cutSector x a0) := by
  unfold cutNvm.cutSector
  have hh : ∀ (y : State) (v : SecHdr), Kept s y →
      Kept s { y with nvm := { y.nvm.setHead a0 v with dirty := numSet a0 y.nvm.dirty } } :=
    fun y v g => putNvm_kept g ((NvmSt.setHead_keeps y.nvm a0 v).trans (NvmSt.setDirty_keeps _ a0))
  exact hh _ _ (useFree_kept h)

theorem cutNvm_cutProg_kept {s x : State} {a0 a1} (h : Kept s x) : Kept s (cutNvm.cutProg x a0 a1) := by
  unfold cutNvm.cutProg
  split
  · exact setNvm_kept h (NvmSt.setCell_keeps _ _ _)
  · exact ite_kept (setNvm_kept (y := (useFree x).2) (useFree_kept h) (NvmSt.setHead_keeps _ _ _)) (setNvm_kept h (NvmSt.setHead_keeps _ _ _))

theorem cutNvm_cutOwn_kept {s x : State} (h : Kept s x) :
    Kept s (cutNvm.cutOwn x) := by
  unfold cutNvm.cutOwn
  repeat' first
    | with_reducible assumption
    | with_reducible refine useFree_kept ?_
    | with_reducible refine useFree_kept_eq ?_ (by with_reducible assumption)
    | with_reducible refine cutNvm_cutProg_kept ?_
    | with_reducible refine ite_kept ?_ ?_
    | with_reducible refine foldl_kept ?_ (fun t a h => ?_)
    | decide
    | dsimp -proj only
    | split

theorem cutNvm_kept {s x : State} (h : Kept s x) :
    Kept s (cutNvm x) := by
  unfold cutNvm
  try dsimp -zeta -proj only [upd_nvm]
  repeat' first
    | with_reducible assumption
    | with_reducible refine cutNvm_cutSector_kept ?_
    | with_reducible refine cutNvm_cutOwn_kept ?_
    | with_reducible refine putNvm_kept ?_ ?_
    | with_reducible refine ite_kept ?_ ?_
    | with_reducible refine foldl_kept ?_ (fun t a h => ?_)
    | with_reducible exact NvmSt.setCell_keeps _ _ _
    | with_reducible refine nvm_keeps_of ?_ ?_
    | exact fun h => h
    | rfl
    | decide
    | dsimp -proj only
    | split

theorem enterReset_kept {s x : State} (h : Kept s x) : Kept s (enterReset x) := by
  have g := cutNvm_kept h
  refine ⟨fun _ => (by decide : Memory.wf Reset.store = true), ⟨fun w => ?_, g.2.1.2⟩,
    ⟨fun _ => (by decide : Reset.win.wf = true),
      fun _ => (by decide : (Reset.win.entries.toList.all fun t => t.all fun p => entryGuarded p.2) = true)⟩, g.2.2.2⟩
  have e := g.2.1.1 w
  simp only [NvmSt.wf, Bool.and_eq_true] at e
  unfold enterReset NvmSt.wf
  simp only [Bool.and_eq_true]
  exact ⟨⟨⟨⟨e.1.1.1.1, e.1.1.1.2⟩, e.1.1.2⟩, e.1.2⟩, rfl⟩

theorem execResetNPulse_kept {s x : State} (h : Kept s x) :
    ∃ t, execResetNPulse x = .next t ∧ Kept s t := by
  unfold execResetNPulse
  repeat' first
    | with_reducible assumption
    | with_reducible refine done_kept ?_
    | with_reducible refine enterReset_kept ?_
    | with_reducible refine modPins_kept ?_
    | with_reducible refine ite_kept ?_ ?_
    | with_reducible refine foldl_kept ?_ (fun t a h => ?_)
    | decide
    | dsimp -proj only
    | split

theorem modSeq_kept {s x : State} {a0 a1 a2} (h : Kept s x) : Kept s (modSeq x a0 a1 a2) :=
  Kept.of_keeps (fun k hk => modSeq_keeps (a0 := a0) (a1 := a1) (a2 := a2) hk (k.same_refl x)) (by decide) h

theorem teleStart_kept {s x : State} {a0 a1 a2} (h : Kept s x) : Kept s (teleStart x a0 a1 a2) :=
  Kept.of_keeps (fun k hk => teleStart_keeps (a0 := a0) (a1 := a1) (a2 := a2) hk (k.same_refl x)) (by decide) h

theorem execLnkspcmdSwap_kept {s x : State} {a0 a1 a2} (h : Kept s x) :
    ∃ t, execLnkspcmdSwap a0 a1 a2 x = .next t ∧ Kept s t := by
  unfold execLnkspcmdSwap
  repeat' first
    | with_reducible assumption
    | with_reducible refine done_kept ?_
    | with_reducible refine writeTo_kept ?_
    | with_reducible refine ite_kept ?_ ?_
    | with_reducible refine foldl_kept ?_ (fun t a h => ?_)
    | decide
    | dsimp -proj only
    | split

theorem execJtagHighz_kept {s x : State} (h : Kept s x) :
    ∃ t, execJtagHighz x = .next t ∧ Kept s t := by
  unfold execJtagHighz
  repeat' first
    | with_reducible assumption
    | with_reducible refine done_kept ?_
    | with_reducible refine jtagLoad_kept ?_
    | with_reducible refine ite_kept ?_ ?_
    | with_reducible refine foldl_kept ?_ (fun t a h => ?_)
    | decide
    | dsimp -proj only
    | split

theorem capLoss_kept {s x : State} {a0 a1 a2 a3} (h : Kept s x) : Kept s (capLoss x a0 a1 a2 a3) :=
  Kept.of_keeps (fun k hk => capLoss_keeps (a0 := a0) (a1 := a1) (a2 := a2) (a3 := a3) hk (k.same_refl x)) (by decide) h

theorem noteLoss_kept {s x : State} {a0 a1 a2 a3 a4} (h : Kept s x) :
    Kept s (noteLoss x a0 a1 a2 a3 a4) := by
  unfold noteLoss
  repeat' first
    | with_reducible assumption
    | with_reducible refine capLoss_kept ?_
    | with_reducible refine modLink_kept ?_
    | with_reducible refine logLane_kept ?_
    | with_reducible refine ite_kept ?_ ?_
    | with_reducible refine foldl_kept ?_ (fun t a h => ?_)
    | decide
    | dsimp -proj only
    | split

theorem setLost_kept {s x : State} {a0 a1 a2 a3} (h : Kept s x) : Kept s (setLost x a0 a1 a2 a3) :=
  Kept.of_keeps (fun k hk => setLost_keeps (a0 := a0) (a1 := a1) (a2 := a2) (a3 := a3) hk (k.same_refl x)) (by decide) h

theorem markLost_kept {s x : State} {a0 a1 a2 a3} (h : Kept s x) :
    Kept s (markLost x a0 a1 a2 a3) := by
  unfold markLost
  repeat' first
    | with_reducible assumption
    | with_reducible refine setResult_kept ?_
    | with_reducible refine stopRecal_kept ?_
    | with_reducible refine noteLoss_kept ?_
    | with_reducible refine modLink_kept ?_
    | with_reducible refine setLost_kept ?_
    | with_reducible refine modRx_kept ?_
    | with_reducible refine switchLink_kept ?_
    | with_reducible refine ite_kept ?_ ?_
    | with_reducible refine foldl_kept ?_ (fun t a h => ?_)
    | decide
    | dsimp -proj only
    | split

theorem turnSwap_kept {s x : State} {a0 a1 a2} (h : Kept s x) : Kept s (turnSwap x a0 a1 a2) :=
  Kept.of_keeps (fun k hk => turnSwap_keeps (a0 := a0) (a1 := a1) (a2 := a2) hk (k.same_refl x)) (by decide) h

theorem execRegReadClear_kept {s x : State} {a0 a1 a2} (h : Kept s x) :
    ∃ t, execRegReadClear a0 a1 a2 x = .next t ∧ Kept s t := by
  unfold execRegReadClear
  repeat' first
    | with_reducible assumption
    | with_reducible refine done_kept ?_
    | with_reducible refine busRead_kept ?_
    | with_reducible refine upset_kept ?_
    | with_reducible refine ite_kept ?_ ?_
    | with_reducible refine foldl_kept ?_ (fun t a h => ?_)
    | decide
    | dsimp -proj only
    | split

theorem grantSeen_kept {s x : State} {a0 a1} (h : Kept s x) : Kept s (grantSeen x a0 a1) :=
  Kept.of_keeps (fun k hk => grantSeen_keeps (a0 := a0) (a1 := a1) hk (k.same_refl x)) (by decide) h

theorem execWeltMismatch_kept {s x : State} {a0 a1} (h : Kept s x) :
    ∃ t, execWeltMismatch a0 a1 x = .next t ∧ Kept s t := by
  unfold execWeltMismatch
  try dsimp -zeta -proj only [upd_welt_evt]
  repeat' first
    | with_reducible assumption
    | with_reducible refine done_kept ?_
    | with_reducible refine logEvent_kept ?_
    | with_reducible refine writeAside_kept ?_
    | with_reducible refine putWelt_kept ?_
    | with_reducible refine putEvt_kept ?_
    | with_reducible refine ite_kept ?_ ?_
    | with_reducible refine foldl_kept ?_ (fun t a h => ?_)
    | decide
    | dsimp -proj only
    | split

theorem dropCdr_kept {s x : State} {a0 a1} (h : Kept s x) : Kept s (dropCdr x a0 a1) :=
  Kept.of_keeps (fun k hk => dropCdr_keeps (a0 := a0) (a1 := a1) hk (k.same_refl x)) (by decide) h

theorem execLpGrantSeen_kept {s x : State} {a0 a1} (h : Kept s x) :
    ∃ t, execLpGrantSeen a0 a1 x = .next t ∧ Kept s t := by
  unfold execLpGrantSeen
  repeat' first
    | with_reducible assumption
    | with_reducible refine grantSeen_kept ?_
    | with_reducible refine done_kept ?_
    | with_reducible refine ite_kept ?_ ?_
    | with_reducible refine foldl_kept ?_ (fun t a h => ?_)
    | decide
    | dsimp -proj only
    | split

theorem injectOne_kept {s x : State} {a0 a1 a2} (h : Kept s x) : Kept s (injectOne x a0 a1 a2) :=
  Kept.of_keeps (fun k hk => injectOne_keeps (a0 := a0) (a1 := a1) (a2 := a2) hk (k.same_refl x)) (by decide) h

theorem startUrgent_kept {s x : State} {a0} (h : Kept s x) : Kept s (startUrgent x a0) :=
  Kept.of_keeps (fun k hk => startUrgent_keeps (a0 := a0) hk (k.same_refl x)) (by decide) h

theorem preempt_kept {s x : State} {a0 a1} (h : Kept s x) :
    Kept s (preempt x a0 a1) := by
  unfold preempt
  repeat' first
    | with_reducible assumption
    | with_reducible refine startUrgent_kept ?_
    | with_reducible refine parkPreempted_kept ?_
    | with_reducible refine setUnit_kept ?_
    | with_reducible refine parkIn_kept ?_
    | with_reducible refine moverBlock_kept ?_
    | with_reducible refine moverBlock_kept_eq ?_ (by with_reducible assumption)
    | with_reducible refine ite_kept ?_ ?_
    | with_reducible refine foldl_kept ?_ (fun t a h => ?_)
    | decide
    | dsimp -proj only
    | split

theorem execPreemptFlushDone_kept {s x : State} {a0 a1} (h : Kept s x) :
    ∃ t, execPreemptFlushDone a0 a1 x = .next t ∧ Kept s t := by
  unfold execPreemptFlushDone
  repeat' first
    | with_reducible assumption
    | with_reducible refine done_kept ?_
    | with_reducible refine preempt_kept ?_
    | with_reducible refine urgentCandidate_kept ?_
    | with_reducible refine upset_kept ?_
    | with_reducible refine ite_kept ?_ ?_
    | with_reducible refine foldl_kept ?_ (fun t a h => ?_)
    | decide
    | dsimp -proj only
    | split

theorem execCaptureTrigger_kept {s x : State} {a0 a1} (h : Kept s x) :
    ∃ t, execCaptureTrigger a0 a1 x = .next t ∧ Kept s t := by
  unfold execCaptureTrigger
  repeat' first
    | with_reducible assumption
    | with_reducible refine done_kept ?_
    | with_reducible refine keepJob_kept ?_
    | with_reducible refine ite_kept ?_ ?_
    | with_reducible refine foldl_kept ?_ (fun t a h => ?_)
    | decide
    | dsimp -proj only
    | split

theorem execLnctlRecentre_kept {s x : State} {a0 a1 a2 a3} (h : Kept s x) :
    ∃ t, execLnctlRecentre a0 a1 a2 a3 x = .next t ∧ Kept s t := by
  unfold execLnctlRecentre
  repeat' first
    | with_reducible assumption
    | with_reducible refine done_kept ?_
    | with_reducible refine writeTo_kept ?_
    | with_reducible refine ite_kept ?_ ?_
    | with_reducible refine foldl_kept ?_ (fun t a h => ?_)
    | decide
    | dsimp -proj only
    | split

theorem armCapture_kept {s x : State} {a0 a1} (h : Kept s x) :
    Kept s (armCapture x a0 a1) := by
  unfold armCapture
  repeat' first
    | with_reducible assumption
    | with_reducible refine finishWith_kept ?_
    | with_reducible refine faultJob_kept ?_
    | with_reducible refine keepJob_kept ?_
    | with_reducible refine ite_kept ?_ ?_
    | with_reducible refine foldl_kept ?_ (fun t a h => ?_)
    | decide
    | dsimp -proj only
    | split

theorem execCapture_kept {s x : State} {a0} (h : Kept s x) :
    ∃ t, execCapture a0 x = .next t ∧ Kept s t := by
  unfold execCapture
  repeat' first
    | with_reducible assumption
    | with_reducible refine done_kept ?_
    | with_reducible refine armCapture_kept ?_
    | with_reducible refine ite_kept ?_ ?_
    | with_reducible refine foldl_kept ?_ (fun t a h => ?_)
    | decide
    | dsimp -proj only
    | split

theorem sendTos_kept {s x : State} {a0 a1 a2 a3} (h : Kept s x) : Kept s (sendTos x a0 a1 a2 a3) :=
  Kept.of_keeps (fun k hk => sendTos_keeps (a0 := a0) (a1 := a1) (a2 := a2) (a3 := a3) hk (k.same_refl x)) (by decide) h

theorem execWqDoorbell_kept {s x : State} {a0 a1 a2} (h : Kept s x) :
    ∃ t, execWqDoorbell a0 a1 a2 x = .next t ∧ Kept s t := by
  unfold execWqDoorbell
  repeat' first
    | with_reducible assumption
    | with_reducible refine done_kept ?_
    | with_reducible refine writeTo_kept ?_
    | with_reducible refine ite_kept ?_ ?_
    | with_reducible refine foldl_kept ?_ (fun t a h => ?_)
    | decide
    | dsimp -proj only
    | split

theorem symbolAfterExchange_kept {s x : State} {a0 a1} (h : Kept s x) :
    Kept s (symbolAfterExchange x a0 a1) := by
  unfold symbolAfterExchange
  repeat' first
    | with_reducible assumption
    | with_reducible refine linkSymbol_kept ?_
    | with_reducible refine ite_kept ?_ ?_
    | with_reducible refine foldl_kept ?_ (fun t a h => ?_)
    | decide
    | dsimp -proj only
    | split

theorem badMos_kept {s x : State} {a0} (h : Kept s x) : Kept s (badMos x a0) :=
  Kept.of_keeps (fun k hk => badMos_keeps (a0 := a0) hk (k.same_refl x)) (by decide) h

theorem takeSpareRsp_kept_eq {s x : State} {a0 a1 a2} {u} (h : Kept s x) (e : takeSpareRsp x a0 a1 a2 = some u) :
    Kept s u := by
  unfold takeSpareRsp at e
  split at e
  · cases e
    exact followStandin_kept (ite_kept (swapAck_kept h) (failSwap_kept h))
  · split at e <;> cases e
    exact modLink_kept h

theorem execSpareRspReceived_kept {s x : State} {a0 a1 a2} (h : Kept s x) :
    ∃ t, execSpareRspReceived a0 a1 a2 x = .next t ∧ Kept s t := by
  unfold execSpareRspReceived
  repeat' first
    | with_reducible assumption
    | with_reducible refine done_kept ?_
    | with_reducible refine badMos_kept ?_
    | with_reducible refine getD_kept (fun _ e => takeSpareRsp_kept_eq ?_ e) ?_
    | with_reducible refine takeSpareRsp_kept_eq ?_ (by with_reducible assumption)
    | with_reducible refine ite_kept ?_ ?_
    | with_reducible refine foldl_kept ?_ (fun t a h => ?_)
    | decide
    | dsimp -proj only
    | split

theorem loadQueues_kept {s x : State} (h : Kept s x) : Kept s (loadQueues x) :=
  Kept.of_keeps (fun k hk => loadQueues_keeps hk (k.same_refl x)) (by decide) h

theorem readAll_kept {s x : State} {a0} (h : Kept s x) : Kept s (readAll a0 x).2 := by
  induction a0 generalizing x with
  | nil => exact h
  | cons u r ih => exact ih (readUnit_kept h)

theorem readAll_kept_eq {s x : State} {a0} {r u} (h : Kept s x) (e : readAll a0 x = (r, u)) :
    Kept s u := by
  simpa only [e] using readAll_kept (s := s) (x := x) (a0 := a0) h

theorem loadPatch_kept {s x : State} (h : Kept s x) :
    Kept s (loadPatch x) := by
  unfold loadPatch
  try dsimp -zeta -proj only [upd_heel]
  repeat' first
    | with_reducible assumption
    | with_reducible refine logEvent_kept ?_
    | with_reducible refine useFree_kept ?_
    | with_reducible refine useFree_kept_eq ?_ (by with_reducible assumption)
    | with_reducible refine readAll_kept ?_
    | with_reducible refine readAll_kept_eq ?_ (by with_reducible assumption)
    | with_reducible refine putHeel_kept ?_
    | with_reducible refine ite_kept ?_ ?_
    | with_reducible refine foldl_kept ?_ (fun t a h => ?_)
    | decide
    | dsimp -proj only
    | split

theorem loadWindows_kept {s x : State} (h : Kept s x) : Kept s (loadWindows x) := by
  unfold loadWindows
  dsimp -zeta -proj only [upd_win]
  refine foldl_kept (putWin_kept h ⟨fun _ => by decide, fun _ => by decide⟩) fun t w g => setWinEntry_kept g

theorem loadSpares_kept {s x : State} (h : Kept s x) : Kept s (loadSpares x) :=
  Kept.of_keeps (fun k hk => loadSpares_keeps hk (k.same_refl x)) (by decide) h

theorem applyGlobal_kept {s x : State} (h : Kept s x) :
    Kept s (applyGlobal x) := by
  unfold applyGlobal
  try dsimp -zeta -proj only [upd_boot_store]
  repeat' first
    | with_reducible assumption
    | with_reducible refine logEvent_kept ?_
    | with_reducible refine loadQueues_kept ?_
    | with_reducible refine loadPatch_kept ?_
    | with_reducible refine loadWindows_kept ?_
    | with_reducible refine loadPrograms_kept ?_
    | with_reducible refine loadSpares_kept ?_
    | with_reducible refine putBoot_kept ?_
    | with_reducible refine putStore_kept ?_ ?_
    | with_reducible refine ite_kept ?_ ?_
    | with_reducible refine foldl_kept ?_ (fun t a h => ?_)
    | exact fun h => h
    | decide
    | dsimp -proj only
    | split

theorem execGlobalApply_kept {s x : State} (h : Kept s x) :
    ∃ t, execGlobalApply x = .next t ∧ Kept s t := by
  unfold execGlobalApply
  repeat' first
    | with_reducible assumption
    | with_reducible refine done_kept ?_
    | with_reducible refine applyGlobal_kept ?_
    | with_reducible refine ite_kept ?_ ?_
    | with_reducible refine foldl_kept ?_ (fun t a h => ?_)
    | decide
    | dsimp -proj only
    | split

theorem modSnap_kept {s x : State} {a0 a1 a2} (h : Kept s x) : Kept s (modSnap x a0 a1 a2) :=
  Kept.of_keeps (fun k hk => modSnap_keeps (a0 := a0) (a1 := a1) (a2 := a2) hk (k.same_refl x)) (by decide) h

theorem execSnapshotExpiry_kept {s x : State} {a0 a1} (h : Kept s x) :
    ∃ t, execSnapshotExpiry a0 a1 x = .next t ∧ Kept s t := by
  unfold execSnapshotExpiry
  repeat' first
    | with_reducible assumption
    | with_reducible refine done_kept ?_
    | with_reducible refine modSnap_kept ?_
    | with_reducible refine ite_kept ?_ ?_
    | with_reducible refine foldl_kept ?_ (fun t a h => ?_)
    | decide
    | dsimp -proj only
    | split

theorem logCandidate_kept {s x : State} {a0 a1} (h : Kept s x) :
    Kept s (logCandidate x a0 a1) := by
  unfold logCandidate
  repeat' first
    | with_reducible assumption
    | with_reducible refine logEvent_kept ?_
    | with_reducible refine ite_kept ?_ ?_
    | with_reducible refine foldl_kept ?_ (fun t a h => ?_)
    | decide
    | dsimp -proj only
    | split

theorem useLast_kept {s x : State} {a0 a1 a2} (h : Kept s x) :
    Kept s (useLast x a0 a1 a2) := by
  unfold useLast
  try dsimp -zeta -proj only [upd_boot_last]
  repeat' first
    | with_reducible assumption
    | with_reducible refine settleAll_kept ?_
    | with_reducible refine putBoot_kept ?_
    | with_reducible refine putLast_kept ?_
    | with_reducible refine ite_kept ?_ ?_
    | with_reducible refine foldl_kept ?_ (fun t a h => ?_)
    | decide
    | dsimp -proj only
    | split

theorem readUnits_kept {s x : State} {a0 a1} (h : Kept s x) :
    Kept s (readUnits a0 x a1).2 := by
  induction a0 generalizing x a1 with
  | zero => exact h
  | succ n ih =>
    unfold readUnits
    split
    · exact readUnit_kept_eq h (by assumption)
    · rename_i t _ e
      have g : Kept s t := readUnit_kept_eq h e
      have i := ih (x := t) (a1 := a1 + 1) g
      split <;> (rename_i e'; rw [e'] at i; exact i)

theorem readUnits_kept_eq {s x : State} {a0 a1} {r u} (h : Kept s x) (e : readUnits a0 x a1 = (r, u)) :
    Kept s u := by
  simpa only [e] using readUnits_kept (s := s) (x := x) (a0 := a0) (a1 := a1) h

theorem checkBody_kept {s x : State} {a0 a1} (h : Kept s x) :
    Kept s (checkBody x a0 a1).2 := by
  unfold checkBody
  repeat' first
    | with_reducible assumption
    | with_reducible refine readUnits_kept ?_
    | with_reducible refine readUnits_kept_eq ?_ (by with_reducible assumption)
    | with_reducible refine ite_kept ?_ ?_
    | with_reducible refine foldl_kept ?_ (fun t a h => ?_)
    | decide
    | dsimp -proj only
    | split

theorem checkBody_kept_eq {s x : State} {a0 a1} {r u} (h : Kept s x) (e : checkBody x a0 a1 = (r, u)) :
    Kept s u := by
  simpa only [e] using checkBody_kept (s := s) (x := x) (a0 := a0) (a1 := a1) h

theorem checkSlot_kept {s x : State} {a0} (h : Kept s x) :
    Kept s (checkSlot x a0).2 := by
  unfold checkSlot
  repeat' first
    | with_reducible assumption
    | with_reducible refine readUnits_kept ?_
    | with_reducible refine readUnits_kept_eq ?_ (by with_reducible assumption)
    | with_reducible refine checkBody_kept ?_
    | with_reducible refine checkBody_kept_eq ?_ (by with_reducible assumption)
    | with_reducible refine ite_kept ?_ ?_
    | with_reducible refine foldl_kept ?_ (fun t a h => ?_)
    | decide
    | dsimp -proj only
    | split

theorem checkSlot_kept_eq {s x : State} {a0} {r u} (h : Kept s x) (e : checkSlot x a0 = (r, u)) :
    Kept s u := by
  simpa only [e] using checkSlot_kept (s := s) (x := x) (a0 := a0) h

theorem selectLow_kept {s x : State} {a0} (h : Kept s x) :
    Kept s (selectLow x a0) := by
  unfold selectLow
  try dsimp -zeta -proj only [upd_last]
  repeat' first
    | with_reducible assumption
    | with_reducible refine checkSlot_kept ?_
    | with_reducible refine checkSlot_kept_eq ?_ (by with_reducible assumption)
    | with_reducible refine logCandidate_kept ?_
    | with_reducible refine useLast_kept ?_
    | with_reducible refine putLast_kept ?_
    | with_reducible refine ite_kept ?_ ?_
    | with_reducible refine foldl_kept ?_ (fun t a h => ?_)
    | decide
    | dsimp -proj only
    | split

theorem selectNvm_kept {s x : State} {a0} (h : Kept s x) :
    Kept s (selectNvm x a0) := by
  unfold selectNvm
  try dsimp -zeta -proj only [upd_last]
  repeat' first
    | with_reducible assumption
    | with_reducible refine checkSlot_kept ?_
    | with_reducible refine checkSlot_kept_eq ?_ (by with_reducible assumption)
    | with_reducible refine logCandidate_kept ?_
    | with_reducible refine useLast_kept ?_
    | with_reducible refine selectLow_kept ?_
    | with_reducible refine putLast_kept ?_
    | with_reducible refine ite_kept ?_ ?_
    | with_reducible refine foldl_kept ?_ (fun t a h => ?_)
    | decide
    | dsimp -proj only
    | split

theorem selectLast_kept {s x : State} (h : Kept s x) :
    Kept s (selectLast x) := by
  unfold selectLast
  try dsimp -zeta -proj only [upd_boot, upd_last]
  repeat' first
    | with_reducible assumption
    | with_reducible refine logCandidate_kept ?_
    | with_reducible refine useLast_kept ?_
    | with_reducible refine selectNvm_kept ?_
    | with_reducible refine putBoot_kept ?_
    | with_reducible refine putLast_kept ?_
    | with_reducible refine ite_kept ?_ ?_
    | with_reducible refine foldl_kept ?_ (fun t a h => ?_)
    | decide
    | dsimp -proj only
    | split

theorem predictOne_kept {s x : State} {a0 a1 a2} (h : Kept s x) :
    Kept s (predictOne x a0 a1 a2) := by
  unfold predictOne
  repeat' first
    | with_reducible assumption
    | with_reducible refine beginSwap_kept ?_
    | with_reducible refine modMeas_kept ?_
    | with_reducible refine ite_kept ?_ ?_
    | with_reducible refine foldl_kept ?_ (fun t a h => ?_)
    | decide
    | dsimp -proj only
    | split

theorem execPredictiveEvaluation_kept {s x : State} (h : Kept s x) :
    ∃ t, execPredictiveEvaluation x = .next t ∧ Kept s t := by
  unfold execPredictiveEvaluation
  repeat' first
    | with_reducible assumption
    | with_reducible refine done_kept ?_
    | with_reducible refine predictOne_kept ?_
    | with_reducible refine ite_kept ?_ ?_
    | with_reducible refine foldl_kept ?_ (fun t a h => ?_)
    | decide
    | dsimp -proj only
    | split

theorem logTx_kept {s x : State} {a0 a1 a2 a3} (h : Kept s x) :
    Kept s (logTx x a0 a1 a2 a3) := by
  unfold logTx
  repeat' first
    | with_reducible assumption
    | with_reducible refine logEvent_kept ?_
    | with_reducible refine ite_kept ?_ ?_
    | with_reducible refine foldl_kept ?_ (fun t a h => ?_)
    | decide
    | dsimp -proj only
    | split

theorem execSwingLimit_kept {s x : State} {a0 a1 a2} (h : Kept s x) :
    ∃ t, execSwingLimit a0 a1 a2 x = .next t ∧ Kept s t := by
  unfold execSwingLimit
  repeat' first
    | with_reducible assumption
    | with_reducible refine done_kept ?_
    | with_reducible refine modTx_kept ?_
    | with_reducible refine logTx_kept ?_
    | with_reducible refine ite_kept ?_ ?_
    | with_reducible refine foldl_kept ?_ (fun t a h => ?_)
    | decide
    | dsimp -proj only
    | split

theorem abandonPlanned_kept {s x : State} {a0 a1} (h : Kept s x) :
    Kept s (abandonPlanned x a0 a1) := by
  unfold abandonPlanned
  repeat' first
    | with_reducible assumption
    | with_reducible refine restSpare_kept ?_
    | with_reducible refine dropSwap_kept ?_
    | with_reducible refine giveUp_kept ?_
    | with_reducible refine ite_kept ?_ ?_
    | with_reducible refine foldl_kept ?_ (fun t a h => ?_)
    | decide
    | dsimp -proj only
    | split

theorem policySpare_kept {s x : State} {a0 a1 a2} (h : Kept s x) :
    Kept s (policySpare x a0 a1 a2) := by
  unfold policySpare
  repeat' first
    | with_reducible assumption
    | with_reducible refine abandonPlanned_kept ?_
    | with_reducible refine modLink_kept ?_
    | with_reducible refine lossSpare_kept ?_
    | with_reducible refine ite_kept ?_ ?_
    | with_reducible refine foldl_kept ?_ (fun t a h => ?_)
    | decide
    | dsimp -proj only
    | split

theorem lossPolicy_kept {s x : State} {a0 a1 a2} (h : Kept s x) :
    Kept s (lossPolicy x a0 a1 a2) := by
  unfold lossPolicy
  repeat' first
    | with_reducible assumption
    | with_reducible refine policySpare_kept ?_
    | with_reducible refine lossDegrade_kept ?_
    | with_reducible refine lossDown_kept ?_
    | with_reducible refine ite_kept ?_ ?_
    | with_reducible refine foldl_kept ?_ (fun t a h => ?_)
    | decide
    | dsimp -proj only
    | split

theorem afterLoss_kept {s x : State} {a0 a1 a2} (h : Kept s x) :
    Kept s (afterLoss x a0 a1 a2) := by
  unfold afterLoss
  repeat' first
    | with_reducible assumption
    | with_reducible refine turnSwap_kept ?_
    | with_reducible refine lossPolicy_kept ?_
    | with_reducible refine enterRetrain_kept ?_
    | with_reducible refine requestRetrain_kept ?_
    | with_reducible refine ite_kept ?_ ?_
    | with_reducible refine foldl_kept ?_ (fun t a h => ?_)
    | decide
    | dsimp -proj only
    | split

theorem moveEditLane_kept {s x : State} {a0 a1} (h : Kept s x) :
    Kept s (moveEditLane x a0 a1) := by
  unfold moveEditLane
  repeat' first
    | with_reducible assumption
    | with_reducible refine modLink_kept ?_
    | with_reducible refine logLane_kept ?_
    | with_reducible refine ite_kept ?_ ?_
    | with_reducible refine foldl_kept ?_ (fun t a h => ?_)
    | decide
    | dsimp -proj only
    | split

theorem afterLosses_kept {s x : State} {a0 a1 a2} (h : Kept s x) :
    Kept s (afterLosses x a0 a1 a2) := by
  unfold afterLosses
  repeat' first
    | with_reducible assumption
    | with_reducible refine afterLoss_kept ?_
    | with_reducible refine moveEditLane_kept ?_
    | with_reducible refine ite_kept ?_ ?_
    | with_reducible refine foldl_kept ?_ (fun t a h => ?_)
    | decide
    | dsimp -proj only
    | split

theorem declareLost_kept {s x : State} {a0 a1 a2 a3} (h : Kept s x) :
    Kept s (declareLost x a0 a1 a2 a3) := by
  unfold declareLost
  repeat' first
    | with_reducible assumption
    | with_reducible refine markLost_kept ?_
    | with_reducible refine afterLosses_kept ?_
    | with_reducible refine ite_kept ?_ ?_
    | with_reducible refine foldl_kept ?_ (fun t a h => ?_)
    | decide
    | dsimp -proj only
    | split

theorem moveForward_kept {s x : State} {a0 a1 a2 a3} (h : Kept s x) :
    Kept s (moveForward x a0 a1 a2 a3) := by
  unfold moveForward
  repeat' first
    | with_reducible assumption
    | with_reducible refine declareLost_kept ?_
    | with_reducible refine setSpare_kept ?_
    | with_reducible refine ite_kept ?_ ?_
    | with_reducible refine foldl_kept ?_ (fun t a h => ?_)
    | decide
    | dsimp -proj only
    | split

theorem passSpare_kept {s x : State} {a0 a1} (h : Kept s x) :
    Kept s (passSpare x a0 a1) := by
  unfold passSpare
  repeat' first
    | with_reducible assumption
    | with_reducible refine restSpare_kept ?_
    | with_reducible refine moveForward_kept ?_
    | with_reducible refine setSpare_kept ?_
    | with_reducible refine ite_kept ?_ ?_
    | with_reducible refine foldl_kept ?_ (fun t a h => ?_)
    | decide
    | dsimp -proj only
    | split

theorem noteMos_kept {s x : State} {a0 a1} (h : Kept s x) :
    Kept s (noteMos x a0 a1) := by
  unfold noteMos
  repeat' first
    | with_reducible assumption
    | with_reducible refine grantSeen_kept ?_
    | with_reducible refine passSpare_kept ?_
    | with_reducible refine ite_kept ?_ ?_
    | with_reducible refine foldl_kept ?_ (fun t a h => ?_)
    | decide
    | dsimp -proj only
    | split

theorem searchEvent_kept {s x : State} {a0 a1 a2} (h : Kept s x) : Kept s (searchEvent x a0 a1 a2) :=
  Kept.of_keeps (fun k hk => searchEvent_keeps (a0 := a0) (a1 := a1) (a2 := a2) hk (k.same_refl x)) (by decide) h

theorem execPresetSearchStep_kept {s x : State} {a0 a1 a2} (h : Kept s x) :
    ∃ t, execPresetSearchStep a0 a1 a2 x = .next t ∧ Kept s t := by
  unfold execPresetSearchStep
  repeat' first
    | with_reducible assumption
    | with_reducible refine done_kept ?_
    | with_reducible refine searchEvent_kept ?_
    | with_reducible refine ite_kept ?_ ?_
    | with_reducible refine foldl_kept ?_ (fun t a h => ?_)
    | decide
    | dsimp -proj only
    | split

theorem rollback_kept {s x : State} {a0} (h : Kept s x) :
    Kept s (rollback x a0) := by
  unfold rollback
  repeat' first
    | with_reducible assumption
    | with_reducible refine setResult_kept ?_
    | with_reducible refine takeUp_kept ?_
    | with_reducible refine laneRestart_kept ?_
    | with_reducible refine modLast_kept ?_
    | with_reducible refine requestRetrain_kept ?_
    | with_reducible refine ite_kept ?_ ?_
    | with_reducible refine foldl_kept ?_ (fun t a h => ?_)
    | decide
    | dsimp -proj only
    | split

theorem execJtagIdcode_kept {s x : State} (h : Kept s x) :
    ∃ t, execJtagIdcode x = .next t ∧ Kept s t := by
  unfold execJtagIdcode
  repeat' first
    | with_reducible assumption
    | with_reducible refine done_kept ?_
    | with_reducible refine jtagLoad_kept ?_
    | with_reducible refine modJtag_kept ?_
    | with_reducible refine ite_kept ?_ ?_
    | with_reducible refine foldl_kept ?_ (fun t a h => ?_)
    | decide
    | dsimp -proj only
    | split

theorem aligningLost_kept {s x : State} {a0 a1 a2 a3} (h : Kept s x) :
    Kept s (aligningLost x a0 a1 a2 a3) := by
  unfold aligningLost
  repeat' first
    | with_reducible assumption
    | with_reducible refine noteLoss_kept ?_
    | with_reducible refine failSwap_kept ?_
    | with_reducible refine ite_kept ?_ ?_
    | with_reducible refine foldl_kept ?_ (fun t a h => ?_)
    | decide
    | dsimp -proj only
    | split

theorem forwardLost_kept {s x : State} {a0 a1 a2 a3} (h : Kept s x) :
    Kept s (forwardLost x a0 a1 a2 a3) := by
  unfold forwardLost
  repeat' first
    | with_reducible assumption
    | with_reducible refine noteLoss_kept ?_
    | with_reducible refine modRx_kept ?_
    | with_reducible refine setSpare_kept ?_
    | with_reducible refine ite_kept ?_ ?_
    | with_reducible refine foldl_kept ?_ (fun t a h => ?_)
    | decide
    | dsimp -proj only
    | split

theorem rxLost_kept {s x : State} {a0 a1 a2} (h : Kept s x) :
    Kept s (rxLost x a0 a1 a2) := by
  unfold rxLost
  repeat' first
    | with_reducible assumption
    | with_reducible refine aligningLost_kept ?_
    | with_reducible refine forwardLost_kept ?_
    | with_reducible refine declareLost_kept ?_
    | with_reducible refine ite_kept ?_ ?_
    | with_reducible refine foldl_kept ?_ (fun t a h => ?_)
    | decide
    | dsimp -proj only
    | split

theorem takeHops_kept {s x : State} {a0 a1 a2} (h : Kept s x) :
    Kept s (takeHops x a0 a1 a2) := by
  unfold takeHops
  repeat' first
    | with_reducible assumption
    | with_reducible refine modLink_kept ?_
    | with_reducible refine logK_kept ?_
    | with_reducible refine ite_kept ?_ ?_
    | with_reducible refine foldl_kept ?_ (fun t a h => ?_)
    | decide
    | dsimp -proj only
    | split

theorem seenTos_kept {s x : State} {a0 a1 a2} (h : Kept s x) : Kept s (seenTos x a0 a1 a2) :=
  Kept.of_keeps (fun k hk => seenTos_keeps (a0 := a0) (a1 := a1) (a2 := a2) hk (k.same_refl x)) (by decide) h

theorem readTosA_kept {s x : State} {a0 a1 a2 a3} (h : Kept s x) : Kept s (readTosA x a0 a1 a2 a3) :=
  Kept.of_keeps (fun k hk => readTosA_keeps (a0 := a0) (a1 := a1) (a2 := a2) (a3 := a3) hk (k.same_refl x)) (by decide) h

theorem tosAIn_kept {s x : State} {a0 a1 a2 a3} (h : Kept s x) :
    Kept s (tosAIn x a0 a1 a2 a3) := by
  unfold tosAIn
  repeat' first
    | with_reducible assumption
    | with_reducible refine takeHops_kept ?_
    | with_reducible refine sendTos_kept ?_
    | with_reducible refine seenTos_kept ?_
    | with_reducible refine readTosA_kept ?_
    | with_reducible refine ite_kept ?_ ?_
    | with_reducible refine foldl_kept ?_ (fun t a h => ?_)
    | decide
    | dsimp -proj only
    | split

theorem execJoinTimeout_kept {s x : State} {a0} (h : Kept s x) :
    ∃ t, execJoinTimeout a0 x = .next t ∧ Kept s t := by
  unfold execJoinTimeout
  repeat' first
    | with_reducible assumption
    | with_reducible refine done_kept ?_
    | with_reducible refine logK_kept ?_
    | with_reducible refine startJoin_kept ?_
    | with_reducible refine ite_kept ?_ ?_
    | with_reducible refine foldl_kept ?_ (fun t a h => ?_)
    | decide
    | dsimp -proj only
    | split

theorem execDtrateWrite_kept {s x : State} {a0 a1} (h : Kept s x) :
    ∃ t, execDtrateWrite a0 a1 x = .next t ∧ Kept s t := by
  unfold execDtrateWrite
  repeat' first
    | with_reducible assumption
    | with_reducible refine done_kept ?_
    | with_reducible refine writeTo_kept ?_
    | with_reducible refine ite_kept ?_ ?_
    | with_reducible refine foldl_kept ?_ (fun t a h => ?_)
    | decide
    | dsimp -proj only
    | split

theorem execCounterClr_kept {s x : State} {a0 a1 a2 a3} (h : Kept s x) :
    ∃ t, execCounterClr a0 a1 a2 a3 x = .next t ∧ Kept s t := by
  unfold execCounterClr
  repeat' first
    | with_reducible assumption
    | with_reducible refine done_kept ?_
    | with_reducible refine writeTo_kept ?_
    | with_reducible refine ite_kept ?_ ?_
    | with_reducible refine foldl_kept ?_ (fun t a h => ?_)
    | decide
    | dsimp -proj only
    | split

theorem execJtagClamp_kept {s x : State} (h : Kept s x) :
    ∃ t, execJtagClamp x = .next t ∧ Kept s t := by
  unfold execJtagClamp
  repeat' first
    | with_reducible assumption
    | with_reducible refine done_kept ?_
    | with_reducible refine jtagLoad_kept ?_
    | with_reducible refine ite_kept ?_ ?_
    | with_reducible refine foldl_kept ?_ (fun t a h => ?_)
    | decide
    | dsimp -proj only
    | split

theorem execLnscanStart_kept {s x : State} {a0 a1 a2 a3} (h : Kept s x) :
    ∃ t, execLnscanStart a0 a1 a2 a3 x = .next t ∧ Kept s t := by
  unfold execLnscanStart
  repeat' first
    | with_reducible assumption
    | with_reducible refine done_kept ?_
    | with_reducible refine writeTo_kept ?_
    | with_reducible refine ite_kept ?_ ?_
    | with_reducible refine foldl_kept ?_ (fun t a h => ?_)
    | decide
    | dsimp -proj only
    | split

theorem execAwlQueue_kept {s x : State} {a0 a1} (h : Kept s x) :
    ∃ t, execAwlQueue a0 a1 x = .next t ∧ Kept s t := by
  unfold execAwlQueue
  repeat' first
    | with_reducible assumption
    | with_reducible refine done_kept ?_
    | with_reducible refine writeTo_kept ?_
    | with_reducible refine ite_kept ?_ ?_
    | with_reducible refine foldl_kept ?_ (fun t a h => ?_)
    | decide
    | dsimp -proj only
    | split

theorem fullUnit_kept {s x : State} (h : Kept s x) : Kept s (fullUnit x) := by
  unfold fullUnit
  dsimp -zeta -proj only [upd_free]
  extract_lets p d f bad s1 s2
  have h1 : Kept s s1 := modCal_kept h
  have f1 : Comp.free.same x s1 := modCal_keeps (by decide) (Comp.free.same_refl x)
  clear_value s1
  have h2 : Kept s s2 := modCal_kept h1
  have f2 : Comp.free.same x s2 := modCal_keeps (by decide) f1
  clear_value s2
  have f2' : s2.free = x.free := f2
  exact putFree_kept h2 (by rw [f2']; exact Nat.le_add_right _ _)

theorem recalStep_kept {s x : State} {a0} (h : Kept s x) :
    Kept s (recalStep x a0) := by
  unfold recalStep
  repeat' first
    | with_reducible assumption
    | with_reducible refine fullUnit_kept ?_
    | with_reducible refine followStandin_kept ?_
    | with_reducible refine setStage_kept ?_
    | with_reducible refine stillUnit_kept ?_
    | with_reducible refine endRecal_kept ?_
    | with_reducible refine nextRecal_kept ?_
    | with_reducible refine keepUnit_kept ?_
    | with_reducible refine ite_kept ?_ ?_
    | with_reducible refine foldl_kept ?_ (fun t a h => ?_)
    | decide
    | dsimp -proj only
    | split

theorem execRecalStep_kept {s x : State} {a0} (h : Kept s x) :
    ∃ t, execRecalStep a0 x = .next t ∧ Kept s t := by
  unfold execRecalStep
  repeat' first
    | with_reducible assumption
    | with_reducible refine done_kept ?_
    | with_reducible refine recalStep_kept ?_
    | with_reducible refine ite_kept ?_ ?_
    | with_reducible refine foldl_kept ?_ (fun t a h => ?_)
    | decide
    | dsimp -proj only
    | split

theorem staleMos_kept {s x : State} {a0} (h : Kept s x) : Kept s (staleMos x a0) :=
  Kept.of_keeps (fun k hk => staleMos_keeps (a0 := a0) hk (k.same_refl x)) (by decide) h

theorem laneZeroIdle_kept {s x : State} {a0 a1} (h : Kept s x) :
    Kept s (laneZeroIdle x a0 a1) := by
  unfold laneZeroIdle
  repeat' first
    | with_reducible assumption
    | with_reducible refine enterDisabled_kept ?_
    | with_reducible refine modLink_kept ?_
    | with_reducible refine enterDetect_kept ?_
    | with_reducible refine ite_kept ?_ ?_
    | with_reducible refine foldl_kept ?_ (fun t a h => ?_)
    | decide
    | dsimp -proj only
    | split

theorem execElectricalIdleDetected_kept {s x : State} {a0 a1} (h : Kept s x) :
    ∃ t, execElectricalIdleDetected a0 a1 x = .next t ∧ Kept s t := by
  unfold execElectricalIdleDetected
  repeat' first
    | with_reducible assumption
    | with_reducible refine done_kept ?_
    | with_reducible refine modRx_kept ?_
    | with_reducible refine laneZeroIdle_kept ?_
    | with_reducible refine ite_kept ?_ ?_
    | with_reducible refine foldl_kept ?_ (fun t a h => ?_)
    | decide
    | dsimp -proj only
    | split

theorem holdSet_kept {s x : State} {a0 a1 a2} (h : Kept s x) : Kept s (holdSet x a0 a1 a2) :=
  Kept.of_keeps (fun k hk => holdSet_keeps (a0 := a0) (a1 := a1) (a2 := a2) hk (k.same_refl x)) (by decide) h

theorem programCopy_kept {s x : State} {a0 a1 a2} (h : Kept s x) : Kept s (programCopy x a0 a1 a2) := by
  unfold programCopy
  dsimp -zeta -proj only [upd_nvm]
  have g : x.nvm.Keeps ((List.range 39).foldl
      (fun (n : NvmSt) i => n.setCell (a0 + i) (cellOf ((a1.drop (16 * i)).take 16))) x.nvm) :=
    foldl_nvm_keeps (.refl _) fun t a => NvmSt.setCell_keeps _ _ _
  generalize (List.range 39).foldl
    (fun (n : NvmSt) i => n.setCell (a0 + i) (cellOf ((a1.drop (16 * i)).take 16))) x.nvm = n at g ⊢
  refine putNvm_kept h ?_
  split
  · exact g
  · exact g.trans (NvmSt.setCell_keeps _ _ _)

theorem writeRecord_kept {s x : State} {a0} (h : Kept s x) :
    Kept s (writeRecord x a0) := by
  unfold writeRecord
  try dsimp -zeta -proj only [upd_cal]
  repeat' first
    | with_reducible assumption
    | with_reducible refine logEvent_kept ?_
    | with_reducible refine endErase_kept ?_
    | with_reducible refine beginErase_kept ?_
    | with_reducible refine programCopy_kept ?_
    | with_reducible refine putCal_kept ?_
    | with_reducible refine ite_kept ?_ ?_
    | with_reducible refine foldl_kept ?_ (fun t a h => ?_)
    | decide
    | dsimp -proj only
    | split

theorem execCalrecWrite_kept {s x : State} {a0} (h : Kept s x) :
    ∃ t, execCalrecWrite a0 x = .next t ∧ Kept s t := by
  unfold execCalrecWrite
  repeat' first
    | with_reducible assumption
    | with_reducible refine done_kept ?_
    | with_reducible refine ownDone_kept ?_
    | with_reducible refine writeRecord_kept ?_
    | with_reducible refine ite_kept ?_ ?_
    | with_reducible refine foldl_kept ?_ (fun t a h => ?_)
    | decide
    | dsimp -proj only
    | split

theorem execCqDisable_kept {s x : State} {a0 a1 a2} (h : Kept s x) :
    ∃ t, execCqDisable a0 a1 a2 x = .next t ∧ Kept s t := by
  unfold execCqDisable
  repeat' first
    | with_reducible assumption
    | with_reducible refine done_kept ?_
    | with_reducible refine writeTo_kept ?_
    | with_reducible refine ite_kept ?_ ?_
    | with_reducible refine foldl_kept ?_ (fun t a h => ?_)
    | decide
    | dsimp -proj only
    | split

theorem logTorn_kept {s x : State} {a0} (h : Kept s x) : Kept s (logTorn x a0) := by
  have hf : ∀ (v : NvmSt), x.nvm.Keeps v → Kept s { (useFree x).2 with nvm := v } :=
    fun v g => setNvm_kept (useFree_kept h) g
  unfold logTorn
  extract_lets n u b n1 t s1
  have g1 : x.nvm.Keeps n1 := by
    show x.nvm.Keeps (if _ then _ else _)
    split
    · exact NvmSt.setCell_keeps _ _ _
    · exact (NvmSt.setCell_keeps _ _ _).trans (NvmSt.setCell_keeps _ _ _)
  have g2 : Kept s s1 := hf _ (g1.trans ⟨fun w => w, rfl⟩)
  exact ite_kept (rotateLog_kept g2) g2

theorem logOne_kept {s x : State} {a0 a1 a2} (h : Kept s x) : Kept s (logOne x a0 a1 a2) := by
  unfold logOne
  exact ite_kept (setNvm_kept h ⟨fun w => w, rfl⟩)
    (ite_kept (writeLog_kept (setNvm_kept h ⟨fun w => w, rfl⟩)) (logTorn_kept h))

theorem logWork_kept {s x : State} {a0} (h : Kept s x) :
    Kept s (logWork x a0) := by
  unfold logWork
  repeat' first
    | with_reducible assumption
    | with_reducible refine writeMarks_kept ?_
    | with_reducible refine logOne_kept ?_
    | with_reducible refine tendLog_kept ?_
    | with_reducible refine ite_kept ?_ ?_
    | with_reducible refine foldl_kept ?_ (fun t a h => ?_)
    | decide
    | dsimp -proj only
    | split

theorem execNvmLogWrite_kept {s x : State} {a0} (h : Kept s x) :
    ∃ t, execNvmLogWrite a0 x = .next t ∧ Kept s t := by
  unfold execNvmLogWrite
  repeat' first
    | with_reducible assumption
    | with_reducible refine done_kept ?_
    | with_reducible refine ownDone_kept ?_
    | with_reducible refine logWork_kept ?_
    | with_reducible refine ite_kept ?_ ?_
    | with_reducible refine foldl_kept ?_ (fun t a h => ?_)
    | decide
    | dsimp -proj only
    | split

theorem execTrainingSweepEnd_kept {s x : State} {a0 a1 a2 a3} (h : Kept s x) :
    ∃ t, execTrainingSweepEnd a0 a1 a2 a3 x = .next t ∧ Kept s t := by
  unfold execTrainingSweepEnd
  repeat' first
    | with_reducible assumption
    | with_reducible refine done_kept ?_
    | with_reducible refine modMeas_kept ?_
    | with_reducible refine ite_kept ?_ ?_
    | with_reducible refine foldl_kept ?_ (fun t a h => ?_)
    | decide
    | dsimp -proj only
    | split

theorem modPower_kept {s x : State} {a0} (h : Kept s x) : Kept s (modPower x a0) :=
  Kept.of_keeps (fun k hk => modPower_keeps (a0 := a0) hk (k.same_refl x)) (by decide) h

theorem execWeltCauseClears_kept {s x : State} {a0} (h : Kept s x) :
    ∃ t, execWeltCauseClears a0 x = .next t ∧ Kept s t := by
  unfold execWeltCauseClears
  repeat' first
    | with_reducible assumption
    | with_reducible refine done_kept ?_
    | with_reducible refine settle_kept ?_
    | with_reducible refine modPower_kept ?_
    | with_reducible refine modPins_kept ?_
    | with_reducible refine ite_kept ?_ ?_
    | with_reducible refine foldl_kept ?_ (fun t a h => ?_)
    | decide
    | dsimp -proj only
    | split

theorem execRegWrite_kept {s x : State} {a0 a1 a2 a3} (h : Kept s x) :
    ∃ t, execRegWrite a0 a1 a2 a3 x = .next t ∧ Kept s t := by
  unfold execRegWrite
  repeat' first
    | with_reducible assumption
    | with_reducible refine done_kept ?_
    | with_reducible refine busWrite_kept ?_
    | with_reducible refine upset_kept ?_
    | with_reducible refine ite_kept ?_ ?_
    | with_reducible refine foldl_kept ?_ (fun t a h => ?_)
    | decide
    | dsimp -proj only
    | split

theorem execPrbsGenEnable_kept {s x : State} {a0 a1 a2 a3} (h : Kept s x) :
    ∃ t, execPrbsGenEnable a0 a1 a2 a3 x = .next t ∧ Kept s t := by
  unfold execPrbsGenEnable
  repeat' first
    | with_reducible assumption
    | with_reducible refine done_kept ?_
    | with_reducible refine writeTo_kept ?_
    | with_reducible refine ite_kept ?_ ?_
    | with_reducible refine foldl_kept ?_ (fun t a h => ?_)
    | decide
    | dsimp -proj only
    | split

theorem stopPrbs_kept {s x : State} {a0 a1 a2} (h : Kept s x) : Kept s (stopPrbs x a0 a1 a2) :=
  Kept.of_keeps (fun k hk => stopPrbs_keeps (a0 := a0) (a1 := a1) (a2 := a2) hk (k.same_refl x)) (by decide) h

theorem execCalcmdSave_kept {s x : State} {a0 a1} (h : Kept s x) :
    ∃ t, execCalcmdSave a0 a1 x = .next t ∧ Kept s t := by
  unfold execCalcmdSave
  repeat' first
    | with_reducible assumption
    | with_reducible refine done_kept ?_
    | with_reducible refine writeTo_kept ?_
    | with_reducible refine ite_kept ?_ ?_
    | with_reducible refine foldl_kept ?_ (fun t a h => ?_)
    | decide
    | dsimp -proj only
    | split

theorem execLnkctlDisable_kept {s x : State} {a0 a1 a2} (h : Kept s x) :
    ∃ t, execLnkctlDisable a0 a1 a2 x = .next t ∧ Kept s t := by
  unfold execLnkctlDisable
  repeat' first
    | with_reducible assumption
    | with_reducible refine done_kept ?_
    | with_reducible refine writeTo_kept ?_
    | with_reducible refine ite_kept ?_ ?_
    | with_reducible refine foldl_kept ?_ (fun t a h => ?_)
    | decide
    | dsimp -proj only
    | split

theorem execSwingRaise_kept {s x : State} {a0 a1 a2} (h : Kept s x) :
    ∃ t, execSwingRaise a0 a1 a2 x = .next t ∧ Kept s t := by
  unfold execSwingRaise
  repeat' first
    | with_reducible assumption
    | with_reducible refine done_kept ?_
    | with_reducible refine modTx_kept ?_
    | with_reducible refine ite_kept ?_ ?_
    | with_reducible refine foldl_kept ?_ (fun t a h => ?_)
    | decide
    | dsimp -proj only
    | split

theorem execSpareMosForwarded_kept {s x : State} {a0 a1} (h : Kept s x) :
    ∃ t, execSpareMosForwarded a0 a1 x = .next t ∧ Kept s t := by
  unfold execSpareMosForwarded
  repeat' first
    | with_reducible assumption
    | with_reducible refine done_kept ?_
    | with_reducible refine passSpare_kept ?_
    | with_reducible refine ite_kept ?_ ?_
    | with_reducible refine foldl_kept ?_ (fun t a h => ?_)
    | decide
    | dsimp -proj only
    | split

theorem execPrbsJobInject_kept {s x : State} {a0 a1} (h : Kept s x) :
    ∃ t, execPrbsJobInject a0 a1 x = .next t ∧ Kept s t := by
  unfold execPrbsJobInject
  repeat' first
    | with_reducible assumption
    | with_reducible refine done_kept ?_
    | with_reducible refine injectOne_kept ?_
    | with_reducible refine ite_kept ?_ ?_
    | with_reducible refine foldl_kept ?_ (fun t a h => ?_)
    | decide
    | dsimp -proj only
    | split

theorem modPrbsJob_kept {s x : State} {a0 a1 a2} (h : Kept s x) : Kept s (modPrbsJob x a0 a1 a2) :=
  Kept.of_keeps (fun k hk => modPrbsJob_keeps (a0 := a0) (a1 := a1) (a2 := a2) hk (k.same_refl x)) (by decide) h

theorem execPrbsCheckerLock_kept {s x : State} {a0 a1} (h : Kept s x) :
    ∃ t, execPrbsCheckerLock a0 a1 x = .next t ∧ Kept s t := by
  unfold execPrbsCheckerLock
  repeat' first
    | with_reducible assumption
    | with_reducible refine done_kept ?_
    | with_reducible refine modMeas_kept ?_
    | with_reducible refine modPrbsJob_kept ?_
    | with_reducible refine ite_kept ?_ ?_
    | with_reducible refine foldl_kept ?_ (fun t a h => ?_)
    | decide
    | dsimp -proj only
    | split

theorem execTestEnHigh_kept {s x : State} (h : Kept s x) :
    ∃ t, execTestEnHigh x = .next t ∧ Kept s t := by
  unfold execTestEnHigh
  try dsimp -zeta -proj only [upd_boot_twb]
  repeat' first
    | with_reducible assumption
    | with_reducible refine done_kept ?_
    | with_reducible refine settle_kept ?_
    | with_reducible refine modPins_kept ?_
    | with_reducible refine putBoot_kept ?_
    | with_reducible refine putTwb_kept ?_
    | with_reducible refine ite_kept ?_ ?_
    | with_reducible refine foldl_kept ?_ (fun t a h => ?_)
    | decide
    | dsimp -proj only
    | split

theorem restoreLane_kept {s x : State} {a0 a1 a2} (h : Kept s x) :
    Kept s (restoreLane x a0 a1 a2) := by
  unfold restoreLane
  repeat' first
    | with_reducible assumption
    | with_reducible refine setLost_kept ?_
    | with_reducible refine logLane_kept ?_
    | with_reducible refine checkRecovered_kept ?_
    | with_reducible refine ite_kept ?_ ?_
    | with_reducible refine foldl_kept ?_ (fun t a h => ?_)
    | decide
    | dsimp -proj only
    | split

theorem watchForward_kept {s x : State} {a0 a1 a2} (h : Kept s x) :
    Kept s (watchForward x a0 a1 a2) := by
  unfold watchForward
  repeat' first
    | with_reducible assumption
    | with_reducible refine modRx_kept ?_
    | with_reducible refine logLane_kept ?_
    | with_reducible refine setSpare_kept ?_
    | with_reducible refine ite_kept ?_ ?_
    | with_reducible refine foldl_kept ?_ (fun t a h => ?_)
    | decide
    | dsimp -proj only
    | split

theorem watchSkew_kept {s x : State} {a0 a1 a2} (h : Kept s x) :
    Kept s (watchSkew x a0 a1 a2) := by
  unfold watchSkew
  repeat' first
    | with_reducible assumption
    | with_reducible refine restoreLane_kept ?_
    | with_reducible refine logL_kept ?_
    | with_reducible refine modRx_kept ?_
    | with_reducible refine watchForward_kept ?_
    | with_reducible refine requestRetrain_kept ?_
    | with_reducible refine ite_kept ?_ ?_
    | with_reducible refine foldl_kept ?_ (fun t a h => ?_)
    | decide
    | dsimp -proj only
    | split

theorem fillSkip_kept {s x : State} {a0 a1 a2} (h : Kept s x) : Kept s (fillSkip x a0 a1 a2) :=
  Kept.of_keeps (fun k hk => fillSkip_keeps (a0 := a0) (a1 := a1) (a2 := a2) hk (k.same_refl x)) (by decide) h

theorem editSet_kept {s x : State} {a0 a1 a2} (h : Kept s x) : Kept s (editSet x a0 a1 a2).2 :=
  Kept.of_keeps (fun k hk => editSet_keeps (a0 := a0) (a1 := a1) (a2 := a2) hk (k.same_refl x)) (by decide) h

theorem editSet_kept_eq {s x : State} {a0 a1 a2} {r u} (h : Kept s x) (e : editSet x a0 a1 a2 = (r, u)) :
    Kept s u := 
  Kept.of_keeps (fun k hk => editSet_keeps_eq (a0 := a0) (a1 := a1) (a2 := a2) hk (k.same_refl x) e) (by decide) h

theorem receiveSwitch_kept {s x : State} {a0 a1} (h : Kept s x) :
    Kept s (receiveSwitch x a0 a1) := by
  unfold receiveSwitch
  repeat' first
    | with_reducible assumption
    | with_reducible refine moveHold_kept ?_
    | with_reducible refine modLink_kept ?_
    | with_reducible refine setLost_kept ?_
    | with_reducible refine checkRecovered_kept ?_
    | with_reducible refine sendSpare_kept ?_
    | with_reducible refine ite_kept ?_ ?_
    | with_reducible refine foldl_kept ?_ (fun t a h => ?_)
    | decide
    | dsimp -proj only
    | split

theorem swapSkip_kept {s x : State} {a0 a1 a2} (h : Kept s x) :
    Kept s (swapSkip x a0 a1 a2) := by
  unfold swapSkip
  repeat' first
    | with_reducible assumption
    | with_reducible refine modLink_kept ?_
    | with_reducible refine receiveSwitch_kept ?_
    | with_reducible refine failSwap_kept ?_
    | with_reducible refine setSpare_kept ?_
    | with_reducible refine ite_kept ?_ ?_
    | with_reducible refine foldl_kept ?_ (fun t a h => ?_)
    | decide
    | dsimp -proj only
    | split

theorem execSkipSetArrives_kept {s x : State} {a0 a1 a2} (h : Kept s x) :
    ∃ t, execSkipSetArrives a0 a1 a2 x = .next t ∧ Kept s t := by
  unfold execSkipSetArrives
  repeat' first
    | with_reducible assumption
    | with_reducible refine done_kept ?_
    | with_reducible refine watchSkew_kept ?_
    | with_reducible refine fillSkip_kept ?_
    | with_reducible refine editSet_kept ?_
    | with_reducible refine editSet_kept_eq ?_ (by with_reducible assumption)
    | with_reducible refine swapSkip_kept ?_
    | with_reducible refine symbolAfterExchange_kept ?_
    | with_reducible refine ite_kept ?_ ?_
    | with_reducible refine foldl_kept ?_ (fun t a h => ?_)
    | decide
    | dsimp -proj only
    | split

theorem setSent_kept {s x : State} {a0 a1 a2} (h : Kept s x) : Kept s (setSent x a0 a1 a2) :=
  Kept.of_keeps (fun k hk => setSent_keeps (a0 := a0) (a1 := a1) (a2 := a2) hk (k.same_refl x)) (by decide) h

theorem holdLoop_kept {s x : State} {a0 a1} (h : Kept s x) : Kept s (holdLoop x a0 a1) :=
  Kept.of_keeps (fun k hk => holdLoop_keeps (a0 := a0) (a1 := a1) hk (k.same_refl x)) (by decide) h

theorem releaseForward_kept {s x : State} {a0 a1} (h : Kept s x) :
    Kept s (releaseForward x a0 a1) := by
  unfold releaseForward
  repeat' first
    | with_reducible assumption
    | with_reducible refine restSpare_kept ?_
    | with_reducible refine ite_kept ?_ ?_
    | with_reducible refine foldl_kept ?_ (fun t a h => ?_)
    | decide
    | dsimp -proj only
    | split

theorem symLossRetrain_kept {s x : State} {a0 a1} (h : Kept s x) :
    Kept s (symLossRetrain x a0 a1) := by
  unfold symLossRetrain
  repeat' first
    | with_reducible assumption
    | with_reducible refine enterRetrain_kept ?_
    | with_reducible refine ite_kept ?_ ?_
    | with_reducible refine foldl_kept ?_ (fun t a h => ?_)
    | decide
    | dsimp -proj only
    | split

theorem execCdrLockLost_kept {s x : State} {a0 a1} (h : Kept s x) :
    ∃ t, execCdrLockLost a0 a1 x = .next t ∧ Kept s t := by
  unfold execCdrLockLost
  repeat' first
    | with_reducible assumption
    | with_reducible refine done_kept ?_
    | with_reducible refine holdLoop_kept ?_
    | with_reducible refine rxLost_kept ?_
    | with_reducible refine releaseForward_kept ?_
    | with_reducible refine symLossRetrain_kept ?_
    | with_reducible refine dropCdr_kept ?_
    | with_reducible refine ite_kept ?_ ?_
    | with_reducible refine foldl_kept ?_ (fun t a h => ?_)
    | decide
    | dsimp -proj only
    | split

theorem visitLine_kept {s x : State} (h : Kept s x) :
    Kept s (visitLine x) := by
  unfold visitLine
  try dsimp -zeta -proj only [upd_store]
  repeat' first
    | with_reducible assumption
    | with_reducible refine eccRead_kept ?_
    | with_reducible refine putStore_kept ?_ ?_
    | with_reducible refine ite_kept ?_ ?_
    | with_reducible refine foldl_kept ?_ (fun t a h => ?_)
    | exact fun h => h
    | decide
    | dsimp -proj only
    | split

theorem execLntxdrvWrite_kept {s x : State} {a0 a1 a2 a3} (h : Kept s x) :
    ∃ t, execLntxdrvWrite a0 a1 a2 a3 x = .next t ∧ Kept s t := by
  unfold execLntxdrvWrite
  repeat' first
    | with_reducible assumption
    | with_reducible refine done_kept ?_
    | with_reducible refine writeTo_kept ?_
    | with_reducible refine ite_kept ?_ ?_
    | with_reducible refine foldl_kept ?_ (fun t a h => ?_)
    | decide
    | dsimp -proj only
    | split

theorem execCalcmdGo_kept {s x : State} {a0 a1} (h : Kept s x) :
    ∃ t, execCalcmdGo a0 a1 x = .next t ∧ Kept s t := by
  unfold execCalcmdGo
  repeat' first
    | with_reducible assumption
    | with_reducible refine done_kept ?_
    | with_reducible refine writeTo_kept ?_
    | with_reducible refine ite_kept ?_ ?_
    | with_reducible refine foldl_kept ?_ (fun t a h => ?_)
    | decide
    | dsimp -proj only
    | split

theorem execMove_kept {s x : State} {a0 a1} (h : Kept s x) :
    ∃ t, execMove a0 a1 x = .next t ∧ Kept s t := by
  unfold execMove
  repeat' first
    | with_reducible assumption
    | with_reducible refine done_kept ?_
    | with_reducible refine runBlock_kept ?_
    | with_reducible refine upset_kept ?_
    | with_reducible refine ite_kept ?_ ?_
    | with_reducible refine foldl_kept ?_ (fun t a h => ?_)
    | decide
    | dsimp -proj only
    | split

theorem putSnapshot_kept {s x : State} {a0 a1 a2} (h : Kept s x) :
    Kept s (putSnapshot x a0 a1 a2) := by
  unfold putSnapshot
  repeat' first
    | with_reducible assumption
    | with_reducible refine finishWith_kept ?_
    | with_reducible refine putData_kept ?_
    | with_reducible refine putData_kept_eq ?_ (by with_reducible assumption)
    | with_reducible refine ite_kept ?_ ?_
    | with_reducible refine foldl_kept ?_ (fun t a h => ?_)
    | decide
    | dsimp -proj only
    | split

theorem addressByte_kept {s x : State} {a0 a1} (h : Kept s x) : Kept s (addressByte x a0 a1) :=
  Kept.of_keeps (fun k hk => addressByte_keeps (a0 := a0) (a1 := a1) hk (k.same_refl x)) (by decide) h

theorem trimStep_kept {s x : State} {a0 a1 a2} (h : Kept s x) : Kept s (trimStep x a0 a1 a2) :=
  Kept.of_keeps (fun k hk => trimStep_keeps (a0 := a0) (a1 := a1) (a2 := a2) hk (k.same_refl x)) (by decide) h

theorem execTrimRampStep_kept {s x : State} {a0 a1 a2} (h : Kept s x) :
    ∃ t, execTrimRampStep a0 a1 a2 x = .next t ∧ Kept s t := by
  unfold execTrimRampStep
  repeat' first
    | with_reducible assumption
    | with_reducible refine done_kept ?_
    | with_reducible refine trimStep_kept ?_
    | with_reducible refine ite_kept ?_ ?_
    | with_reducible refine foldl_kept ?_ (fun t a h => ?_)
    | decide
    | dsimp -proj only
    | split

theorem restoreTransparent_kept {s x : State} {a0 a1} (h : Kept s x) :
    Kept s (restoreTransparent x a0 a1) := by
  unfold restoreTransparent
  repeat' first
    | with_reducible assumption
    | with_reducible refine restoreLane_kept ?_
    | with_reducible refine ite_kept ?_ ?_
    | with_reducible refine foldl_kept ?_ (fun t a h => ?_)
    | decide
    | dsimp -proj only
    | split

theorem padInstead_kept {s x : State} {a0 a1} (h : Kept s x) : Kept s (padInstead x a0 a1) :=
  Kept.of_keeps (fun k hk => padInstead_keeps (a0 := a0) (a1 := a1) hk (k.same_refl x)) (by decide) h

theorem serveWr_kept {s x : State} {a0 a1} (h : Kept s x) :
    Kept s (serveWr x a0 a1).2 := by
  unfold serveWr
  repeat' first
    | with_reducible assumption
    | with_reducible refine writeOpen_kept ?_
    | with_reducible refine logDenied_kept ?_
    | with_reducible refine ite_kept ?_ ?_
    | with_reducible refine foldl_kept ?_ (fun t a h => ?_)
    | decide
    | dsimp -proj only
    | split

theorem serveWr_kept_eq {s x : State} {a0 a1} {r u} (h : Kept s x) (e : serveWr x a0 a1 = (r, u)) :
    Kept s u := by
  simpa only [e] using serveWr_kept (s := s) (x := x) (a0 := a0) (a1 := a1) h

theorem serveRd_kept {s x : State} {a0 a1} (h : Kept s x) : Kept s (serveRd x a0 a1).2 := by
  unfold serveRd
  dsimp only
  split
  · exact logDenied_kept h
  · split
    · exact logDenied_kept h
    · split
      · exact keepRead_kept (readOpen_kept (keepRead_kept (readOpen_kept h)))
      · exact keepRead_kept (readOpen_kept h)

theorem serveRd_kept_eq {s x : State} {a0 a1} {r u} (h : Kept s x) (e : serveRd x a0 a1 = (r, u)) :
    Kept s u := by
  simpa only [e] using serveRd_kept (s := s) (x := x) (a0 := a0) (a1 := a1) h

theorem queueResponse_kept {s x : State} {a0 a1} (h : Kept s x) : Kept s (queueResponse x a0 a1) :=
  Kept.of_keeps (fun k hk => queueResponse_keeps (a0 := a0) (a1 := a1) hk (k.same_refl x)) (by decide) h

theorem execute_kept {s x : State} {a0 a1 a2} (h : Kept s x) :
    Kept s (execute x a0 a1 a2) := by
  unfold execute
  repeat' first
    | with_reducible assumption
    | with_reducible refine serveWr_kept ?_
    | with_reducible refine serveWr_kept_eq ?_ (by with_reducible assumption)
    | with_reducible refine modSeq_kept ?_
    | with_reducible refine serveRd_kept ?_
    | with_reducible refine serveRd_kept_eq ?_ (by with_reducible assumption)
    | with_reducible refine queueResponse_kept ?_
    | with_reducible refine ite_kept ?_ ?_
    | with_reducible refine foldl_kept ?_ (fun t a h => ?_)
    | decide
    | dsimp -proj only
    | split

theorem replay_kept {s x : State} {a0 a1 a2} (h : Kept s x) : Kept s (replay x a0 a1 a2) :=
  Kept.of_keeps (fun k hk => replay_keeps (a0 := a0) (a1 := a1) (a2 := a2) hk (k.same_refl x)) (by decide) h

theorem dropped_kept {s x : State} {a0} (h : Kept s x) : Kept s (dropped x a0) :=
  Kept.of_keeps (fun k hk => dropped_keeps (a0 := a0) hk (k.same_refl x)) (by decide) h

theorem request_kept {s x : State} {a0 a1 a2} (h : Kept s x) :
    Kept s (request x a0 a1 a2) := by
  unfold request
  repeat' first
    | with_reducible assumption
    | with_reducible refine execute_kept ?_
    | with_reducible refine replay_kept ?_
    | with_reducible refine dropped_kept ?_
    | with_reducible refine staleMos_kept ?_
    | with_reducible refine ite_kept ?_ ?_
    | with_reducible refine foldl_kept ?_ (fun t a h => ?_)
    | decide
    | dsimp -proj only
    | split

theorem consumeMos_kept {s x : State} {a0 a1 a2} (h : Kept s x) :
    Kept s (consumeMos x a0 a1 a2) := by
  unfold consumeMos
  repeat' first
    | with_reducible assumption
    | with_reducible refine badMos_kept ?_
    | with_reducible refine request_kept ?_
    | with_reducible refine getD_kept (fun _ e => takeSpareRsp_kept_eq ?_ e) ?_
    | with_reducible refine takeSpareRsp_kept_eq ?_ (by with_reducible assumption)
    | with_reducible refine queueResponse_kept ?_
    | with_reducible refine queueMos_kept ?_
    | with_reducible refine noteMos_kept ?_
    | with_reducible refine ite_kept ?_ ?_
    | with_reducible refine foldl_kept ?_ (fun t a h => ?_)
    | decide
    | dsimp -proj only
    | split

theorem crcMos_kept {s x : State} {a0} (h : Kept s x) : Kept s (crcMos x a0) :=
  Kept.of_keeps (fun k hk => crcMos_keeps (a0 := a0) hk (k.same_refl x)) (by decide) h

theorem mosIn_kept {s x : State} {a0 a1 a2} (h : Kept s x) :
    Kept s (mosIn x a0 a1 a2) := by
  unfold mosIn
  repeat' first
    | with_reducible assumption
    | with_reducible refine padInstead_kept ?_
    | with_reducible refine consumeMos_kept ?_
    | with_reducible refine crcMos_kept ?_
    | with_reducible refine setSent_kept ?_
    | with_reducible refine noteMos_kept ?_
    | with_reducible refine ite_kept ?_ ?_
    | with_reducible refine foldl_kept ?_ (fun t a h => ?_)
    | decide
    | dsimp -proj only
    | split

theorem execMosReceived_kept {s x : State} {a0 a1 a2 a3} (h : Kept s x) :
    ∃ t, execMosReceived a0 a1 a2 a3 x = .next t ∧ Kept s t := by
  unfold execMosReceived
  repeat' first
    | with_reducible assumption
    | with_reducible refine done_kept ?_
    | with_reducible refine mosIn_kept ?_
    | with_reducible refine upset_kept ?_
    | with_reducible refine ite_kept ?_ ?_
    | with_reducible refine foldl_kept ?_ (fun t a h => ?_)
    | decide
    | dsimp -proj only
    | split

theorem takeLinkRate_kept {s x : State} {a0 a1} (h : Kept s x) :
    Kept s (takeLinkRate x a0 a1) := by
  unfold takeLinkRate
  repeat' first
    | with_reducible assumption
    | with_reducible refine modLink_kept ?_
    | with_reducible refine logK_kept ?_
    | with_reducible refine ite_kept ?_ ?_
    | with_reducible refine foldl_kept ?_ (fun t a h => ?_)
    | decide
    | dsimp -proj only
    | split

theorem execDtimeLoadNow_kept {s x : State} {a0 a1} (h : Kept s x) :
    ∃ t, execDtimeLoadNow a0 a1 x = .next t ∧ Kept s t := by
  unfold execDtimeLoadNow
  repeat' first
    | with_reducible assumption
    | with_reducible refine done_kept ?_
    | with_reducible refine writeTo_kept ?_
    | with_reducible refine ite_kept ?_ ?_
    | with_reducible refine foldl_kept ?_ (fun t a h => ?_)
    | decide
    | dsimp -proj only
    | split

theorem joinLink_kept {s x : State} {a0} (h : Kept s x) :
    Kept s (joinLink x a0) := by
  unfold joinLink
  repeat' first
    | with_reducible assumption
    | with_reducible refine modLink_kept ?_
    | with_reducible refine enterDetect_kept ?_
    | with_reducible refine checkRecovered_kept ?_
    | with_reducible refine ite_kept ?_ ?_
    | with_reducible refine foldl_kept ?_ (fun t a h => ?_)
    | decide
    | dsimp -proj only
    | split

theorem joinIfOpen_kept {s x : State} {a0} (h : Kept s x) :
    Kept s (joinIfOpen x a0) := by
  unfold joinIfOpen
  repeat' first
    | with_reducible assumption
    | with_reducible refine joinLink_kept ?_
    | with_reducible refine ite_kept ?_ ?_
    | with_reducible refine foldl_kept ?_ (fun t a h => ?_)
    | decide
    | dsimp -proj only
    | split

theorem openConfirmed_kept {s x : State} {a0} (h : Kept s x) :
    Kept s (openConfirmed x a0) := by
  unfold openConfirmed
  try dsimp -zeta -proj only [upd_welt]
  repeat' first
    | with_reducible assumption
    | with_reducible refine modTx_kept ?_
    | with_reducible refine joinIfOpen_kept ?_
    | with_reducible refine putWelt_kept ?_
    | with_reducible refine ite_kept ?_ ?_
    | with_reducible refine foldl_kept ?_ (fun t a h => ?_)
    | decide
    | dsimp -proj only
    | split

theorem drainEnd_kept {s x : State} {a0} (h : Kept s x) : Kept s (drainEnd x a0) :=
  Kept.of_keeps (fun k hk => drainEnd_keeps (a0 := a0) hk (k.same_refl x)) (by decide) h

theorem homeStandins_kept {s x : State} (h : Kept s x) :
    Kept s (homeStandins x) := by
  unfold homeStandins
  repeat' first
    | with_reducible assumption
    | with_reducible refine beginSwap_kept ?_
    | with_reducible refine ite_kept ?_ ?_
    | with_reducible refine foldl_kept ?_ (fun t a h => ?_)
    | decide
    | dsimp -proj only
    | split

theorem execRecalAborted_kept {s x : State} (h : Kept s x) :
    ∃ t, execRecalAborted x = .next t ∧ Kept s t := by
  unfold execRecalAborted
  repeat' first
    | with_reducible assumption
    | with_reducible refine done_kept ?_
    | with_reducible refine homeStandins_kept ?_
    | with_reducible refine abortRecal_kept ?_
    | with_reducible refine ite_kept ?_ ?_
    | with_reducible refine foldl_kept ?_ (fun t a h => ?_)
    | decide
    | dsimp -proj only
    | split

theorem tick_kept {s x : State} (h : Kept s x) : Kept s (tick x) :=
  Kept.of_keeps (fun k hk => tick_keeps hk (k.same_refl x)) (by decide) h

theorem execVioSplitThreshold_kept {s x : State} (h : Kept s x) :
    ∃ t, execVioSplitThreshold x = .next t ∧ Kept s t := by
  unfold execVioSplitThreshold
  repeat' first
    | with_reducible assumption
    | with_reducible refine done_kept ?_
    | with_reducible refine modPower_kept ?_
    | with_reducible refine ite_kept ?_ ?_
    | with_reducible refine foldl_kept ?_ (fun t a h => ?_)
    | decide
    | dsimp -proj only
    | split

theorem resendRelease_kept {s x : State} {a0 a1 a2} (h : Kept s x) : Kept s (resendRelease x a0 a1 a2) :=
  Kept.of_keeps (fun k hk => resendRelease_keeps (a0 := a0) (a1 := a1) (a2 := a2) hk (k.same_refl x)) (by decide) h

theorem execCaptureLostPage_kept {s x : State} {a0} (h : Kept s x) :
    ∃ t, execCaptureLostPage a0 x = .next t ∧ Kept s t := by
  unfold execCaptureLostPage
  repeat' first
    | with_reducible assumption
    | with_reducible refine done_kept ?_
    | with_reducible refine lostPage_kept ?_
    | with_reducible refine ite_kept ?_ ?_
    | with_reducible refine foldl_kept ?_ (fun t a h => ?_)
    | decide
    | dsimp -proj only
    | split

theorem readRecord_kept {s x : State} {a0} (h : Kept s x) :
    Kept s (readRecord x a0).2 := by
  unfold readRecord
  repeat' first
    | with_reducible assumption
    | with_reducible refine readUnits_kept ?_
    | with_reducible refine readUnits_kept_eq ?_ (by with_reducible assumption)
    | with_reducible refine ite_kept ?_ ?_
    | with_reducible refine foldl_kept ?_ (fun t a h => ?_)
    | decide
    | dsimp -proj only
    | split

theorem readRecord_kept_eq {s x : State} {a0} {r u} (h : Kept s x) (e : readRecord x a0 = (r, u)) :
    Kept s u := by
  simpa only [e] using readRecord_kept (s := s) (x := x) (a0 := a0) h

theorem staleAll_kept {s x : State} (h : Kept s x) : Kept s (staleAll x) :=
  Kept.of_keeps (fun k hk => staleAll_keeps hk (k.same_refl x)) (by decide) h

theorem modLane_kept {s x : State} {a0 a1 a2} (h : Kept s x) : Kept s (modLane x a0 a1 a2) :=
  Kept.of_keeps (fun k hk => modLane_keeps (a0 := a0) (a1 := a1) (a2 := a2) hk (k.same_refl x)) (by decide) h

theorem foldl_putFree_kept {α : Type} {s x : State} {f : State → α → State} {l : List α} (h : Kept s x)
    (hf : ∀ t a, Kept t (f t a) ∧ (f t a).free = t.free) (c : CalSt) (n m : Nat) :
    Kept s (((l.foldl f x).putCal c).putFree (x.free + n + m)) := by
  have g : Kept s (l.foldl f x) := foldl_kept h fun t a k => k.trans (hf t a).1
  have e : (l.foldl f x).free = x.free := by
    clear g h
    induction l generalizing x with
    | nil => rfl
    | cons a r ih => exact ih.trans (hf x a).2
  exact putFree_kept (putCal_kept g) (by show (l.foldl f x).free ≤ _; omega)

theorem calibrateLanes_kept {s x : State} {a0 a1 a2} (h : Kept s x) : Kept s (calibrateLanes x a0 a1 a2) := by
  have e : ∀ (y : State) (c : CalSt) (f : Nat), { y with cal := c, free := f } = (y.putCal c).putFree f :=
    fun _ _ _ => rfl
  unfold calibrateLanes
  simp -zeta -proj only [e]
  exact foldl_putFree_kept h (fun t q => ⟨modCal_kept (.refl t), modCal_keeps (k := .free) (by decide) rfl⟩) _ _ _

theorem calibrate_kept {s x : State} {a0} (h : Kept s x) :
    Kept s (calibrate x a0) := by
  unfold calibrate
  try dsimp -zeta -proj only [upd_boot_cal]
  repeat' first
    | with_reducible assumption
    | with_reducible refine logEvent_kept ?_
    | with_reducible refine readRecord_kept ?_
    | with_reducible refine readRecord_kept_eq ?_ (by with_reducible assumption)
    | with_reducible refine staleAll_kept ?_
    | with_reducible refine modLane_kept ?_
    | with_reducible refine lockPlls_kept ?_
    | with_reducible refine calibrateLanes_kept ?_
    | with_reducible refine putBoot_kept ?_
    | with_reducible refine putCal_kept ?_
    | with_reducible refine ite_kept ?_ ?_
    | with_reducible refine foldl_kept ?_ (fun t a h => ?_)
    | decide
    | dsimp -proj only
    | split

theorem execBootCalibration_kept {s x : State} {a0} (h : Kept s x) :
    ∃ t, execBootCalibration a0 x = .next t ∧ Kept s t := by
  unfold execBootCalibration
  repeat' first
    | with_reducible assumption
    | with_reducible refine done_kept ?_
    | with_reducible refine calibrate_kept ?_
    | with_reducible refine ite_kept ?_ ?_
    | with_reducible refine foldl_kept ?_ (fun t a h => ?_)
    | decide
    | dsimp -proj only
    | split

theorem sleepDir_kept {s x : State} {a0 a1} (h : Kept s x) : Kept s (sleepDir x a0 a1) :=
  Kept.of_keeps (fun k hk => sleepDir_keeps (a0 := a0) (a1 := a1) hk (k.same_refl x)) (by decide) h

theorem idleEntry_kept {s x : State} {a0 a1} (h : Kept s x) :
    Kept s (idleEntry x a0 a1) := by
  unfold idleEntry
  repeat' first
    | with_reducible assumption
    | with_reducible refine modLink_kept ?_
    | with_reducible refine enterRetrain_kept ?_
    | with_reducible refine sleepDir_kept ?_
    | with_reducible refine ite_kept ?_ ?_
    | with_reducible refine foldl_kept ?_ (fun t a h => ?_)
    | decide
    | dsimp -proj only
    | split

theorem execDevctlThermRearm_kept {s x : State} {a0 a1} (h : Kept s x) :
    ∃ t, execDevctlThermRearm a0 a1 x = .next t ∧ Kept s t := by
  unfold execDevctlThermRearm
  repeat' first
    | with_reducible assumption
    | with_reducible refine done_kept ?_
    | with_reducible refine writeTo_kept ?_
    | with_reducible refine ite_kept ?_ ?_
    | with_reducible refine foldl_kept ?_ (fun t a h => ?_)
    | decide
    | dsimp -proj only
    | split

theorem revertWorse_kept {s x : State} {a0} (h : Kept s x) :
    Kept s (revertWorse x a0) := by
  unfold revertWorse
  repeat' first
    | with_reducible assumption
    | with_reducible refine logL_kept ?_
    | with_reducible refine revertUnit_kept ?_
    | with_reducible refine modCal_kept ?_
    | with_reducible refine ite_kept ?_ ?_
    | with_reducible refine foldl_kept ?_ (fun t a h => ?_)
    | decide
    | dsimp -proj only
    | split

theorem qualityCheck_kept {s x : State} {a0 a1 a2 a3} (h : Kept s x) :
    Kept s (qualityCheck x a0 a1 a2 a3) := by
  unfold qualityCheck
  repeat' first
    | with_reducible assumption
    | with_reducible refine revertWorse_kept ?_
    | with_reducible refine followStandin_kept ?_
    | with_reducible refine setStage_kept ?_
    | with_reducible refine endRecal_kept ?_
    | with_reducible refine nextRecal_kept ?_
    | with_reducible refine keepUnit_kept ?_
    | with_reducible refine ite_kept ?_ ?_
    | with_reducible refine foldl_kept ?_ (fun t a h => ?_)
    | decide
    | dsimp -proj only
    | split

theorem execPllRelockAttempt_kept {s x : State} {a0 a1} (h : Kept s x) :
    ∃ t, execPllRelockAttempt a0 a1 x = .next t ∧ Kept s t := by
  unfold execPllRelockAttempt
  try dsimp -zeta -proj only [upd_power]
  repeat' first
    | with_reducible assumption
    | with_reducible refine done_kept ?_
    | with_reducible refine restoreTransparent_kept ?_
    | with_reducible refine lockPlls_kept ?_
    | with_reducible refine putPower_kept ?_
    | with_reducible refine ite_kept ?_ ?_
    | with_reducible refine foldl_kept ?_ (fun t a h => ?_)
    | decide
    | dsimp -proj only
    | split

theorem execReceiverDetect_kept {s x : State} {a0 a1 a2} (h : Kept s x) :
    ∃ t, execReceiverDetect a0 a1 a2 x = .next t ∧ Kept s t := by
  unfold execReceiverDetect
  repeat' first
    | with_reducible assumption
    | with_reducible refine done_kept ?_
    | with_reducible refine modLink_kept ?_
    | with_reducible refine ite_kept ?_ ?_
    | with_reducible refine foldl_kept ?_ (fun t a h => ?_)
    | decide
    | dsimp -proj only
    | split

theorem placeLog_kept {s x : State} {a0} (h : Kept s x) : Kept s (placeLog x a0) := by
  have hn : ∀ {v}, x.nvm.Keeps v → Kept s { x with nvm := v } := fun g => setNvm_kept h g
  unfold placeLog
  extract_lets n s1
  have g : Kept s s1 := by
    show Kept s (match newestRec a0 with | some _ => _ | none => _)
    split <;> exact hn ⟨fun w => w, rfl⟩
  exact ite_kept (rotateLog_kept g) g

theorem restoreHeads_kept {s x : State} {a0} (h : Kept s x) : Kept s (restoreHeads x a0) := by
  have hp : ∀ (y : State) (a : Nat) (v : SecHdr), Kept s y → Kept s { y with nvm := { y.nvm.setHead a v with
      dirty := numSet a (y.nvm.setHead a v).dirty, restored := numSet a (y.nvm.setHead a v).restored,
      own := (y.nvm.setHead a v).own ++ [.head a] } } :=
    fun y a v g => setNvm_kept g ((((NvmSt.setHead_keeps y.nvm a v).trans (NvmSt.setDirty_keeps _ a)).trans
      (NvmSt.setRestored_keeps _ a)).trans ⟨fun w => w, rfl⟩)
  unfold restoreHeads
  exact foldl_kept h fun t a g => logEvent_kept (hp _ _ _ g)

theorem readLog_kept {s x : State} (h : Kept s x) : Kept s (readLog x).2 := readAll_kept h

theorem bootNvm_kept {s x : State} (h : Kept s x) : Kept s (bootNvm x) :=
  tendLog_kept (placeLog_kept (restoreHeads_kept (readLog_kept h)))

theorem releaseReset_kept {s x : State} {a0} (h : Kept s x) :
    Kept s (releaseReset x a0) := by
  unfold releaseReset
  try dsimp -zeta -proj only [upd_pins_power_boot]
  repeat' first
    | with_reducible assumption
    | with_reducible refine bootNvm_kept ?_
    | with_reducible refine putPins_kept ?_
    | with_reducible refine putPower_kept ?_
    | with_reducible refine putBoot_kept ?_
    | with_reducible refine ite_kept ?_ ?_
    | with_reducible refine foldl_kept ?_ (fun t a h => ?_)
    | decide
    | dsimp -proj only
    | split

theorem refusesProgram_kept {s x : State} {a0} (h : Kept s x) :
    Kept s (refusesProgram x a0).2 := by
  unfold refusesProgram
  repeat' first
    | with_reducible assumption
    | with_reducible refine useFree_kept ?_
    | with_reducible refine useFree_kept_eq ?_ (by with_reducible assumption)
    | with_reducible refine ite_kept ?_ ?_
    | with_reducible refine foldl_kept ?_ (fun t a h => ?_)
    | decide
    | dsimp -proj only
    | split

theorem refusesProgram_kept_eq {s x : State} {a0} {r u} (h : Kept s x) (e : refusesProgram x a0 = (r, u)) :
    Kept s u := by
  simpa only [e] using refusesProgram_kept (s := s) (x := x) (a0 := a0) h

theorem firstRefusing_kept {s x : State} {a0 a1} (h : Kept s x) :
    Kept s (firstRefusing a0 a1 x).2 := by
  induction a0 generalizing x a1 with
  | zero => exact h
  | succ n ih =>
    unfold firstRefusing
    split
    · exact refusesProgram_kept_eq h (by assumption)
    · exact ih (refusesProgram_kept_eq h (by assumption))

theorem firstRefusing_kept_eq {s x : State} {a0 a1} {r u} (h : Kept s x) (e : firstRefusing a0 a1 x = (r, u)) :
    Kept s u := by
  simpa only [e] using firstRefusing_kept (s := s) (x := x) (a0 := a0) (a1 := a1) h

theorem programChecks_kept {s x : State} {a0 a1} (h : Kept s x) :
    Kept s (programChecks x a0 a1) := by
  unfold programChecks
  repeat' first
    | with_reducible assumption
    | with_reducible refine finishWith_kept ?_
    | with_reducible refine firstRefusing_kept ?_
    | with_reducible refine firstRefusing_kept_eq ?_ (by with_reducible assumption)
    | with_reducible refine keepJob_kept ?_
    | with_reducible refine ite_kept ?_ ?_
    | with_reducible refine foldl_kept ?_ (fun t a h => ?_)
    | decide
    | dsimp -proj only
    | split

theorem programBlock_kept {s x : State} {a0 a1} (h : Kept s x) :
    Kept s (programBlock x a0 a1) := by
  unfold programBlock
  repeat' first
    | with_reducible assumption
    | with_reducible refine faultJob_kept ?_
    | with_reducible refine programChecks_kept ?_
    | with_reducible refine jobRead_kept ?_
    | with_reducible refine jobRead_kept_eq ?_ (by with_reducible assumption)
    | with_reducible refine keepJob_kept ?_
    | with_reducible refine ite_kept ?_ ?_
    | with_reducible refine foldl_kept ?_ (fun t a h => ?_)
    | decide
    | dsimp -proj only
    | split

theorem execNvmProgram_kept {s x : State} {a0} (h : Kept s x) :
    ∃ t, execNvmProgram a0 x = .next t ∧ Kept s t := by
  unfold execNvmProgram
  repeat' first
    | with_reducible assumption
    | with_reducible refine done_kept ?_
    | with_reducible refine programBlock_kept ?_
    | with_reducible refine ownDone_kept ?_
    | with_reducible refine upset_kept ?_
    | with_reducible refine ite_kept ?_ ?_
    | with_reducible refine foldl_kept ?_ (fun t a h => ?_)
    | decide
    | dsimp -proj only
    | split

theorem execLnkctlRetrain_kept {s x : State} {a0 a1 a2} (h : Kept s x) :
    ∃ t, execLnkctlRetrain a0 a1 a2 x = .next t ∧ Kept s t := by
  unfold execLnkctlRetrain
  repeat' first
    | with_reducible assumption
    | with_reducible refine done_kept ?_
    | with_reducible refine writeTo_kept ?_
    | with_reducible refine ite_kept ?_ ?_
    | with_reducible refine foldl_kept ?_ (fun t a h => ?_)
    | decide
    | dsimp -proj only
    | split

theorem railOutside_kept {s x : State} {a0} (h : Kept s x) :
    Kept s (railOutside x a0) := by
  unfold railOutside
  try dsimp -zeta -proj only [upd_evt]
  repeat' first
    | with_reducible assumption
    | with_reducible refine logEvent_kept ?_
    | with_reducible refine modPower_kept ?_
    | with_reducible refine putEvt_kept ?_
    | with_reducible refine ite_kept ?_ ?_
    | with_reducible refine foldl_kept ?_ (fun t a h => ?_)
    | decide
    | dsimp -proj only
    | split

theorem execSupplyOutOfWindow_kept {s x : State} {a0} (h : Kept s x) :
    ∃ t, execSupplyOutOfWindow a0 x = .next t ∧ Kept s t := by
  unfold execSupplyOutOfWindow
  repeat' first
    | with_reducible assumption
    | with_reducible refine done_kept ?_
    | with_reducible refine railOutside_kept ?_
    | with_reducible refine ite_kept ?_ ?_
    | with_reducible refine foldl_kept ?_ (fun t a h => ?_)
    | decide
    | dsimp -proj only
    | split

theorem execChargePumpReady_kept {s x : State} (h : Kept s x) :
    ∃ t, execChargePumpReady x = .next t ∧ Kept s t := by
  unfold execChargePumpReady
  repeat' first
    | with_reducible assumption
    | with_reducible refine done_kept ?_
    | with_reducible refine settle_kept ?_
    | with_reducible refine modPower_kept ?_
    | with_reducible refine ite_kept ?_ ?_
    | with_reducible refine foldl_kept ?_ (fun t a h => ?_)
    | decide
    | dsimp -proj only
    | split

theorem programUnit_kept {s x : State} {a0 a1 a2} (h : Kept s x) :
    Kept s (programUnit x a0 a1 a2) := by
  unfold programUnit
  try dsimp -zeta -proj only [upd_nvm]
  repeat' first
    | with_reducible assumption
    | with_reducible refine finishWith_kept ?_
    | with_reducible refine keepJob_kept ?_
    | with_reducible refine putNvm_kept ?_ ?_
    | with_reducible refine ite_kept ?_ ?_
    | with_reducible refine foldl_kept ?_ (fun t a h => ?_)
    | with_reducible exact NvmSt.setCell_keeps _ _ _
    | with_reducible refine nvm_keeps_of ?_ ?_
    | exact fun h => h
    | rfl
    | decide
    | dsimp -proj only
    | split

theorem ownUnit_kept {s x : State} {a0 a1 a2} (h : Kept s x) : Kept s (ownUnit x a0 a1 a2) := by
  have h1 := setNvm_kept (v := { x.nvm with own := a1 }) h ⟨fun w => w, rfl⟩
  unfold ownUnit
  refine ite_kept h1 ?_
  cases a0
  · exact setNvm_kept h1 (NvmSt.setCell_keeps _ _ _)
  · exact setNvm_kept h1 (NvmSt.setHead_keeps _ _ _)

theorem execNvmUnitProgrammed_kept {s x : State} {a0} (h : Kept s x) :
    ∃ t, execNvmUnitProgrammed a0 x = .next t ∧ Kept s t := by
  unfold execNvmUnitProgrammed
  repeat' first
    | with_reducible assumption
    | with_reducible refine programUnit_kept ?_
    | with_reducible refine ownUnit_kept ?_
    | with_reducible refine done_kept ?_
    | with_reducible refine ite_kept ?_ ?_
    | with_reducible refine foldl_kept ?_ (fun t a h => ?_)
    | decide
    | dsimp -proj only
    | split

theorem execBootDone_kept {s x : State} (h : Kept s x) :
    ∃ t, execBootDone x = .next t ∧ Kept s t := by
  unfold execBootDone
  try dsimp -zeta -proj only [upd_boot]
  repeat' first
    | with_reducible assumption
    | with_reducible refine done_kept ?_
    | with_reducible refine settle_kept ?_
    | with_reducible refine putBoot_kept ?_
    | with_reducible refine ite_kept ?_ ?_
    | with_reducible refine foldl_kept ?_ (fun t a h => ?_)
    | decide
    | dsimp -proj only
    | split

theorem execLoopNearParallel_kept {s x : State} {a0 a1 a2 a3} (h : Kept s x) :
    ∃ t, execLoopNearParallel a0 a1 a2 a3 x = .next t ∧ Kept s t := by
  unfold execLoopNearParallel
  repeat' first
    | with_reducible assumption
    | with_reducible refine done_kept ?_
    | with_reducible refine writeTo_kept ?_
    | with_reducible refine ite_kept ?_ ?_
    | with_reducible refine foldl_kept ?_ (fun t a h => ?_)
    | decide
    | dsimp -proj only
    | split

theorem execMosRd_kept {s x : State} {a0 a1 a2 a3 a4 a5} (h : Kept s x) :
    ∃ t, execMosRd a0 a1 a2 a3 a4 a5 x = .next t ∧ Kept s t := by
  unfold execMosRd
  repeat' first
    | with_reducible assumption
    | with_reducible refine done_kept ?_
    | with_reducible refine mosIn_kept ?_
    | with_reducible refine upset_kept ?_
    | with_reducible refine ite_kept ?_ ?_
    | with_reducible refine foldl_kept ?_ (fun t a h => ?_)
    | decide
    | dsimp -proj only
    | split

theorem execImcSend_kept {s x : State} (h : Kept s x) :
    ∃ t, execImcSend x = .next t ∧ Kept s t := by
  unfold execImcSend
  repeat' first
    | with_reducible assumption
    | with_reducible refine done_kept ?_
    | with_reducible refine sendStart_kept ?_
    | with_reducible refine ite_kept ?_ ?_
    | with_reducible refine foldl_kept ?_ (fun t a h => ?_)
    | decide
    | dsimp -proj only
    | split

theorem endFence_kept {s x : State} {a0} (h : Kept s x) :
    Kept s (endFence x a0) := by
  unfold endFence
  repeat' first
    | with_reducible assumption
    | with_reducible refine modWq_kept ?_
    | with_reducible refine endEntry_kept ?_
    | with_reducible refine ite_kept ?_ ?_
    | with_reducible refine foldl_kept ?_ (fun t a h => ?_)
    | decide
    | dsimp -proj only
    | split

theorem execFence_kept {s x : State} {a0} (h : Kept s x) :
    ∃ t, execFence a0 x = .next t ∧ Kept s t := by
  unfold execFence
  repeat' first
    | with_reducible assumption
    | with_reducible refine done_kept ?_
    | with_reducible refine endFence_kept ?_
    | with_reducible refine beginFence_kept ?_
    | with_reducible refine ite_kept ?_ ?_
    | with_reducible refine foldl_kept ?_ (fun t a h => ?_)
    | decide
    | dsimp -proj only
    | split

theorem execPrbsInject_kept {s x : State} {a0 a1 a2 a3} (h : Kept s x) :
    ∃ t, execPrbsInject a0 a1 a2 a3 x = .next t ∧ Kept s t := by
  unfold execPrbsInject
  repeat' first
    | with_reducible assumption
    | with_reducible refine done_kept ?_
    | with_reducible refine writeTo_kept ?_
    | with_reducible refine ite_kept ?_ ?_
    | with_reducible refine foldl_kept ?_ (fun t a h => ?_)
    | decide
    | dsimp -proj only
    | split

theorem evaluateUnits_kept {s x : State} (h : Kept s x) : Kept s (evaluateUnits x) :=
  Kept.of_keeps (fun k hk => evaluateUnits_keeps hk (k.same_refl x)) (by decide) h

theorem execLastSelection_kept {s x : State} (h : Kept s x) :
    ∃ t, execLastSelection x = .next t ∧ Kept s t := by
  unfold execLastSelection
  repeat' first
    | with_reducible assumption
    | with_reducible refine done_kept ?_
    | with_reducible refine selectLast_kept ?_
    | with_reducible refine ite_kept ?_ ?_
    | with_reducible refine foldl_kept ?_ (fun t a h => ?_)
    | decide
    | dsimp -proj only
    | split

theorem execCommitRollback_kept {s x : State} {a0} (h : Kept s x) :
    ∃ t, execCommitRollback a0 x = .next t ∧ Kept s t := by
  unfold execCommitRollback
  repeat' first
    | with_reducible assumption
    | with_reducible refine done_kept ?_
    | with_reducible refine rollback_kept ?_
    | with_reducible refine ite_kept ?_ ?_
    | with_reducible refine foldl_kept ?_ (fun t a h => ?_)
    | decide
    | dsimp -proj only
    | split

theorem headerFault_kept {s x : State} {a0 a1 a2} (h : Kept s x) :
    Kept s (headerFault x a0 a1 a2) := by
  unfold headerFault
  repeat' first
    | with_reducible assumption
    | with_reducible refine modWq_kept ?_
    | with_reducible refine queueErrorRecord_kept ?_
    | with_reducible refine latchJob_kept ?_
    | with_reducible refine wqError_kept ?_
    | with_reducible refine ite_kept ?_ ?_
    | with_reducible refine foldl_kept ?_ (fun t a h => ?_)
    | decide
    | dsimp -proj only
    | split

theorem modTwb_kept {s x : State} {a0} (h : Kept s x) : Kept s (modTwb x a0) :=
  Kept.of_keeps (fun k hk => modTwb_keeps (a0 := a0) hk (k.same_refl x)) (by decide) h

theorem execTwbLate_kept {s x : State} (h : Kept s x) :
    ∃ t, execTwbLate x = .next t ∧ Kept s t := by
  unfold execTwbLate
  repeat' first
    | with_reducible assumption
    | with_reducible refine modTwb_kept ?_
    | with_reducible refine done_kept ?_
    | with_reducible refine ite_kept ?_ ?_
    | with_reducible refine foldl_kept ?_ (fun t a h => ?_)
    | decide
    | dsimp -proj only
    | split

theorem execResetRelease_kept {s x : State} {a0} (h : Kept s x) :
    ∃ t, execResetRelease a0 x = .next t ∧ Kept s t := by
  unfold execResetRelease
  repeat' first
    | with_reducible assumption
    | with_reducible refine done_kept ?_
    | with_reducible refine settle_kept ?_
    | with_reducible refine releaseReset_kept ?_
    | with_reducible refine ite_kept ?_ ?_
    | with_reducible refine foldl_kept ?_ (fun t a h => ?_)
    | decide
    | dsimp -proj only
    | split

theorem execDevctlStandby_kept {s x : State} {a0 a1} (h : Kept s x) :
    ∃ t, execDevctlStandby a0 a1 x = .next t ∧ Kept s t := by
  unfold execDevctlStandby
  repeat' first
    | with_reducible assumption
    | with_reducible refine done_kept ?_
    | with_reducible refine writeTo_kept ?_
    | with_reducible refine ite_kept ?_ ?_
    | with_reducible refine foldl_kept ?_ (fun t a h => ?_)
    | decide
    | dsimp -proj only
    | split

theorem eyeAlarm_kept {s x : State} {a0 a1} (h : Kept s x) :
    Kept s (eyeAlarm x a0 a1) := by
  unfold eyeAlarm
  repeat' first
    | with_reducible assumption
    | with_reducible refine logL_kept ?_
    | with_reducible refine modMeas_kept ?_
    | with_reducible refine ite_kept ?_ ?_
    | with_reducible refine foldl_kept ?_ (fun t a h => ?_)
    | decide
    | dsimp -proj only
    | split

theorem capTrigger_kept {s x : State} {a0 a1 a2} (h : Kept s x) : Kept s (capTrigger x a0 a1 a2) :=
  Kept.of_keeps (fun k hk => capTrigger_keeps (a0 := a0) (a1 := a1) (a2 := a2) hk (k.same_refl x)) (by decide) h

theorem trigger_kept {s x : State} {a0} (h : Kept s x) : Kept s (trigger x a0).2 :=
  Kept.of_keeps (fun k hk => trigger_keeps (a0 := a0) hk (k.same_refl x)) (by decide) h

theorem trigger_kept_eq {s x : State} {a0} {r u} (h : Kept s x) (e : trigger x a0 = (r, u)) :
    Kept s u := 
  Kept.of_keeps (fun k hk => trigger_keeps_eq (a0 := a0) hk (k.same_refl x) e) (by decide) h

theorem resetDecimator_kept {s x : State} (h : Kept s x) : Kept s (resetDecimator x) :=
  Kept.of_keeps (fun k hk => resetDecimator_keeps hk (k.same_refl x)) (by decide) h

theorem edgeLoad_kept {s x : State} (h : Kept s x) : Kept s (edgeLoad x) := by
  have ht : ∀ {y v}, Kept s y → Kept s (y.putTime v) := fun g => putTime_kept g
  unfold edgeLoad
  exact ite_kept (ht h) (ht (loadTime_kept (ht h)))

theorem syncSeen_kept {s x : State} (h : Kept s x) :
    Kept s (syncSeen x) := by
  unfold syncSeen
  try dsimp -zeta -proj only [upd_time, upd_tm]
  repeat' first
    | with_reducible assumption
    | with_reducible refine capTrigger_kept ?_
    | with_reducible refine trigger_kept ?_
    | with_reducible refine trigger_kept_eq ?_ (by with_reducible assumption)
    | with_reducible refine staleAll_kept ?_
    | with_reducible refine resetDecimator_kept ?_
    | with_reducible refine edgeLoad_kept ?_
    | with_reducible refine putTm_kept ?_
    | with_reducible refine putTime_kept ?_
    | with_reducible refine ite_kept ?_ ?_
    | with_reducible refine foldl_kept ?_ (fun t a h => ?_)
    | decide
    | dsimp -proj only
    | split

theorem execImcNoSlot_kept {s x : State} (h : Kept s x) :
    ∃ t, execImcNoSlot x = .next t ∧ Kept s t := by
  unfold execImcNoSlot
  repeat' first
    | with_reducible assumption
    | with_reducible refine done_kept ?_
    | with_reducible refine finishWith_kept ?_
    | with_reducible refine dropSend_kept ?_
    | with_reducible refine ite_kept ?_ ?_
    | with_reducible refine foldl_kept ?_ (fun t a h => ?_)
    | decide
    | dsimp -proj only
    | split

theorem execRateDiscard_kept {s x : State} {a0} (h : Kept s x) :
    ∃ t, execRateDiscard a0 x = .next t ∧ Kept s t := by
  unfold execRateDiscard
  repeat' first
    | with_reducible assumption
    | with_reducible refine done_kept ?_
    | with_reducible refine modLink_kept ?_
    | with_reducible refine ite_kept ?_ ?_
    | with_reducible refine foldl_kept ?_ (fun t a h => ?_)
    | decide
    | dsimp -proj only
    | split

theorem teleStep_kept {s x : State} {a0 a1} (h : Kept s x) :
    Kept s (teleStep x a0 a1) := by
  unfold teleStep
  repeat' first
    | with_reducible assumption
    | with_reducible refine teleStart_kept ?_
    | with_reducible refine putSnapshot_kept ?_
    | with_reducible refine ite_kept ?_ ?_
    | with_reducible refine foldl_kept ?_ (fun t a h => ?_)
    | decide
    | dsimp -proj only
    | split

theorem execTelemetry_kept {s x : State} {a0} (h : Kept s x) :
    ∃ t, execTelemetry a0 x = .next t ∧ Kept s t := by
  unfold execTelemetry
  repeat' first
    | with_reducible assumption
    | with_reducible refine done_kept ?_
    | with_reducible refine teleStep_kept ?_
    | with_reducible refine ite_kept ?_ ?_
    | with_reducible refine foldl_kept ?_ (fun t a h => ?_)
    | decide
    | dsimp -proj only
    | split

theorem execStoreCeClr_kept {s x : State} {a0 a1} (h : Kept s x) :
    ∃ t, execStoreCeClr a0 a1 x = .next t ∧ Kept s t := by
  unfold execStoreCeClr
  repeat' first
    | with_reducible assumption
    | with_reducible refine done_kept ?_
    | with_reducible refine writeTo_kept ?_
    | with_reducible refine ite_kept ?_ ?_
    | with_reducible refine foldl_kept ?_ (fun t a h => ?_)
    | decide
    | dsimp -proj only
    | split

theorem execNvmWindowRead_kept {s x : State} {a0 a1 a2} (h : Kept s x) :
    ∃ t, execNvmWindowRead a0 a1 a2 x = .next t ∧ Kept s t := by
  unfold execNvmWindowRead
  repeat' first
    | with_reducible assumption
    | with_reducible refine done_kept ?_
    | with_reducible refine busRead_kept ?_
    | with_reducible refine upset_kept ?_
    | with_reducible refine ite_kept ?_ ?_
    | with_reducible refine foldl_kept ?_ (fun t a h => ?_)
    | decide
    | dsimp -proj only
    | split

theorem startAdcCal_kept {s x : State} (h : Kept s x) : Kept s (startAdcCal x) :=
  Kept.of_keeps (fun k hk => startAdcCal_keeps hk (k.same_refl x)) (by decide) h

theorem slotEnd_kept {s x : State} {a0} (h : Kept s x) : Kept s (slotEnd x a0) :=
  Kept.of_keeps (fun k hk => slotEnd_keeps (a0 := a0) hk (k.same_refl x)) (by decide) h

theorem endSlot_kept {s x : State} {a0 a1} (h : Kept s x) :
    Kept s (endSlot x a0 a1) := by
  unfold endSlot
  try dsimp -zeta -proj only [upd_tm]
  repeat' first
    | with_reducible assumption
    | with_reducible refine startAdcCal_kept ?_
    | with_reducible refine slotEnd_kept ?_
    | with_reducible refine channelValid_kept ?_
    | with_reducible refine putTm_kept ?_
    | with_reducible refine ite_kept ?_ ?_
    | with_reducible refine foldl_kept ?_ (fun t a h => ?_)
    | decide
    | dsimp -proj only
    | split

theorem decimated_kept {s x : State} {a0} (h : Kept s x) :
    Kept s (decimated x a0) := by
  unfold decimated
  try dsimp -zeta -proj only [upd_tm]
  repeat' first
    | with_reducible assumption
    | with_reducible refine endSlot_kept ?_
    | with_reducible refine putTm_kept ?_
    | with_reducible refine ite_kept ?_ ?_
    | with_reducible refine foldl_kept ?_ (fun t a h => ?_)
    | decide
    | dsimp -proj only
    | split

theorem execDecimatorOutput_kept {s x : State} {a0} (h : Kept s x) :
    ∃ t, execDecimatorOutput a0 x = .next t ∧ Kept s t := by
  unfold execDecimatorOutput
  repeat' first
    | with_reducible assumption
    | with_reducible refine done_kept ?_
    | with_reducible refine decimated_kept ?_
    | with_reducible refine ite_kept ?_ ?_
    | with_reducible refine foldl_kept ?_ (fun t a h => ?_)
    | decide
    | dsimp -proj only
    | split

theorem execAwlJob_kept {s x : State} {a0 a1 a2} (h : Kept s x) :
    ∃ t, execAwlJob a0 a1 a2 x = .next t ∧ Kept s t := by
  unfold execAwlJob
  repeat' first
    | with_reducible assumption
    | with_reducible refine done_kept ?_
    | with_reducible refine writeTo_kept ?_
    | with_reducible refine ite_kept ?_ ?_
    | with_reducible refine foldl_kept ?_ (fun t a h => ?_)
    | decide
    | dsimp -proj only
    | split

theorem stopCapture_kept {s x : State} {a0 a1 a2 a3 a4} (h : Kept s x) :
    Kept s (stopCapture x a0 a1 a2 a3 a4) := by
  unfold stopCapture
  repeat' first
    | with_reducible assumption
    | with_reducible refine lostPage_kept ?_
    | with_reducible refine capFlush_kept ?_
    | with_reducible refine capFlush_kept_eq ?_ (by with_reducible assumption)
    | with_reducible refine endCapture_kept ?_
    | with_reducible refine endCapture_kept_eq ?_ (by with_reducible assumption)
    | with_reducible refine ite_kept ?_ ?_
    | with_reducible refine foldl_kept ?_ (fun t a h => ?_)
    | decide
    | dsimp -proj only
    | split

theorem execCaptureTimeout_kept {s x : State} {a0} (h : Kept s x) :
    ∃ t, execCaptureTimeout a0 x = .next t ∧ Kept s t := by
  unfold execCaptureTimeout
  repeat' first
    | with_reducible assumption
    | with_reducible refine done_kept ?_
    | with_reducible refine stopCapture_kept ?_
    | with_reducible refine ite_kept ?_ ?_
    | with_reducible refine foldl_kept ?_ (fun t a h => ?_)
    | decide
    | dsimp -proj only
    | split

theorem endScan_kept {s x : State} {a0 a1 a2} (h : Kept s x) : Kept s (endScan x a0 a1 a2) :=
  Kept.of_keeps (fun k hk => endScan_keeps (a0 := a0) (a1 := a1) (a2 := a2) hk (k.same_refl x)) (by decide) h

theorem closeScan_kept {s x : State} {a0 a1} (h : Kept s x) :
    Kept s (closeScan x a0 a1) := by
  unfold closeScan
  repeat' first
    | with_reducible assumption
    | with_reducible refine endScan_kept ?_
    | with_reducible refine putData_kept ?_
    | with_reducible refine putData_kept_eq ?_ (by with_reducible assumption)
    | with_reducible refine ite_kept ?_ ?_
    | with_reducible refine foldl_kept ?_ (fun t a h => ?_)
    | decide
    | dsimp -proj only
    | split

theorem scanGoesOn_kept {s x : State} {a0 a1 a2} (h : Kept s x) :
    Kept s (scanGoesOn x a0 a1 a2) := by
  unfold scanGoesOn
  repeat' first
    | with_reducible assumption
    | with_reducible refine closeScan_kept ?_
    | with_reducible refine keepJob_kept ?_
    | with_reducible refine ite_kept ?_ ?_
    | with_reducible refine foldl_kept ?_ (fun t a h => ?_)
    | decide
    | dsimp -proj only
    | split

theorem writeHeldScan_kept {s x : State} {a0 a1 a2 a3 a4} (h : Kept s x) :
    Kept s (writeHeldScan x a0 a1 a2 a3 a4) := by
  unfold writeHeldScan
  repeat' first
    | with_reducible assumption
    | with_reducible refine endScan_kept ?_
    | with_reducible refine scanGoesOn_kept ?_
    | with_reducible refine putData_kept ?_
    | with_reducible refine putData_kept_eq ?_ (by with_reducible assumption)
    | with_reducible refine ite_kept ?_ ?_
    | with_reducible refine foldl_kept ?_ (fun t a h => ?_)
    | decide
    | dsimp -proj only
    | split

theorem execDeepEntryTimeout_kept {s x : State} {a0} (h : Kept s x) :
    ∃ t, execDeepEntryTimeout a0 x = .next t ∧ Kept s t := by
  unfold execDeepEntryTimeout
  repeat' first
    | with_reducible assumption
    | with_reducible refine done_kept ?_
    | with_reducible refine modLink_kept ?_
    | with_reducible refine requestRetrain_kept ?_
    | with_reducible refine ite_kept ?_ ?_
    | with_reducible refine foldl_kept ?_ (fun t a h => ?_)
    | decide
    | dsimp -proj only
    | split

theorem trackFrame_kept {s x : State} {a0 a1 a2} (h : Kept s x) : Kept s (trackFrame x a0 a1 a2) :=
  Kept.of_keeps (fun k hk => trackFrame_keeps (a0 := a0) (a1 := a1) (a2 := a2) hk (k.same_refl x)) (by decide) h

theorem checkSkipRate_kept {s x : State} {a0 a1 a2} (h : Kept s x) :
    Kept s (checkSkipRate x a0 a1 a2) := by
  unfold checkSkipRate
  repeat' first
    | with_reducible assumption
    | with_reducible refine modRxs_kept ?_
    | with_reducible refine logL_kept ?_
    | with_reducible refine ite_kept ?_ ?_
    | with_reducible refine foldl_kept ?_ (fun t a h => ?_)
    | decide
    | dsimp -proj only
    | split

theorem countEdit_kept {s x : State} {a0 a1 a2} (h : Kept s x) : Kept s (countEdit x a0 a1 a2) :=
  Kept.of_keeps (fun k hk => countEdit_keeps (a0 := a0) (a1 := a1) (a2 := a2) hk (k.same_refl x)) (by decide) h

theorem editMade_kept {s x : State} {a0 a1 a2} (h : Kept s x) :
    Kept s (editMade x a0 a1 a2) := by
  unfold editMade
  repeat' first
    | with_reducible assumption
    | with_reducible refine checkSkipRate_kept ?_
    | with_reducible refine countEdit_kept ?_
    | with_reducible refine ite_kept ?_ ?_
    | with_reducible refine foldl_kept ?_ (fun t a h => ?_)
    | decide
    | dsimp -proj only
    | split

theorem bufferGroup_kept {s x : State} {a0 a1 a2 a3} (h : Kept s x) :
    Kept s (bufferGroup x a0 a1 a2 a3) := by
  unfold bufferGroup
  repeat' first
    | with_reducible assumption
    | with_reducible refine modRx_kept ?_
    | with_reducible refine editMade_kept ?_
    | with_reducible refine ite_kept ?_ ?_
    | with_reducible refine foldl_kept ?_ (fun t a h => ?_)
    | decide
    | dsimp -proj only
    | split

theorem receiveGroup_kept {s x : State} {a0 a1 a2} (h : Kept s x) :
    Kept s (receiveGroup x a0 a1 a2) := by
  unfold receiveGroup
  repeat' first
    | with_reducible assumption
    | with_reducible refine ebLimits_kept ?_
    | with_reducible refine trackFrame_kept ?_
    | with_reducible refine rxLost_kept ?_
    | with_reducible refine bufferGroup_kept ?_
    | with_reducible refine releaseForward_kept ?_
    | with_reducible refine modRx_kept ?_
    | with_reducible refine capFeed_kept ?_
    | with_reducible refine modMeas_kept ?_
    | with_reducible refine symbolAfterExchange_kept ?_
    | with_reducible refine ite_kept ?_ ?_
    | with_reducible refine foldl_kept ?_ (fun t a h => ?_)
    | decide
    | dsimp -proj only
    | split

theorem requestLoops_kept {s x : State} {a0} (h : Kept s x) : Kept s (requestLoops x a0) :=
  Kept.of_keeps (fun k hk => requestLoops_keeps (a0 := a0) hk (k.same_refl x)) (by decide) h

theorem padGroup_kept {s x : State} {a0 a1 a2} (h : Kept s x) :
    Kept s (padGroup x a0 a1 a2).2 := by
  unfold padGroup
  repeat' first
    | with_reducible assumption
    | with_reducible refine putTest_kept ?_
    | with_reducible refine putIdle_kept ?_
    | with_reducible refine ite_kept ?_ ?_
    | with_reducible refine foldl_kept ?_ (fun t a h => ?_)
    | decide
    | dsimp -proj only
    | split

theorem padGroup_kept_eq {s x : State} {a0 a1 a2} {r u} (h : Kept s x) (e : padGroup x a0 a1 a2 = (r, u)) :
    Kept s u := by
  simpa only [e] using padGroup_kept (s := s) (x := x) (a0 := a0) (a1 := a1) (a2 := a2) h

theorem readMany_kept {s x : State} {a0 a1 a2} (h : Kept s x) : Kept s (readMany a0 x a1 a2) := by
  induction a0 generalizing x with
  | zero => exact h
  | succ n ih => exact ih (readOne_kept h)

theorem loopGroup_kept {s x : State} {a0 a1 a2} (h : Kept s x) :
    Kept s (loopGroup x a0 a1 a2) := by
  unfold loopGroup
  repeat' first
    | with_reducible assumption
    | with_reducible refine putSymbol_kept ?_
    | with_reducible refine ite_kept ?_ ?_
    | with_reducible refine foldl_kept ?_ (fun t a h => ?_)
    | decide
    | dsimp -proj only
    | split

theorem fillMos_kept {s x : State} {a0 a1} (h : Kept s x) : Kept s (fillMos x a0 a1) :=
  Kept.of_keeps (fun k hk => fillMos_keeps (a0 := a0) (a1 := a1) hk (k.same_refl x)) (by decide) h

theorem execRxCodeGroup_kept {s x : State} {a0 a1 a2 a3} (h : Kept s x) :
    ∃ t, execRxCodeGroup a0 a1 a2 a3 x = .next t ∧ Kept s t := by
  unfold execRxCodeGroup
  repeat' first
    | with_reducible assumption
    | with_reducible refine done_kept ?_
    | with_reducible refine receiveGroup_kept ?_
    | with_reducible refine requestLoops_kept ?_
    | with_reducible refine padGroup_kept ?_
    | with_reducible refine padGroup_kept_eq ?_ (by with_reducible assumption)
    | with_reducible refine sendOne_kept ?_
    | with_reducible refine readMany_kept ?_
    | with_reducible refine capFeed_kept ?_
    | with_reducible refine loopGroup_kept ?_
    | with_reducible refine modMeas_kept ?_
    | with_reducible refine fillMos_kept ?_
    | with_reducible refine ite_kept ?_ ?_
    | with_reducible refine foldl_kept ?_ (fun t a h => ?_)
    | decide
    | dsimp -proj only
    | split

theorem execJtagExtest_kept {s x : State} (h : Kept s x) :
    ∃ t, execJtagExtest x = .next t ∧ Kept s t := by
  unfold execJtagExtest
  repeat' first
    | with_reducible assumption
    | with_reducible refine done_kept ?_
    | with_reducible refine scanCells_kept ?_
    | with_reducible refine ite_kept ?_ ?_
    | with_reducible refine foldl_kept ?_ (fun t a h => ?_)
    | decide
    | dsimp -proj only
    | split

theorem advanceHead_kept {s x : State} {a0 a1} (h : Kept s x) : Kept s (advanceHead x a0 a1) :=
  Kept.of_keeps (fun k hk => advanceHead_keeps (a0 := a0) (a1 := a1) hk (k.same_refl x)) (by decide) h

theorem malformedEntry_kept {s x : State} {a0 a1 a2} (h : Kept s x) :
    Kept s (malformedEntry x a0 a1 a2) := by
  unfold malformedEntry
  repeat' first
    | with_reducible assumption
    | with_reducible refine queueErrorRecord_kept ?_
    | with_reducible refine wqError_kept ?_
    | with_reducible refine ite_kept ?_ ?_
    | with_reducible refine foldl_kept ?_ (fun t a h => ?_)
    | decide
    | dsimp -proj only
    | split

theorem consume_kept {s x : State} {a0 a1} (h : Kept s x) :
    Kept s (consume x a0 a1) := by
  unfold consume
  try dsimp -zeta -proj only [upd_sched]
  repeat' first
    | with_reducible assumption
    | with_reducible refine modWq_kept ?_
    | with_reducible refine advanceHead_kept ?_
    | with_reducible refine noteFence_kept ?_
    | with_reducible refine malformedEntry_kept ?_
    | with_reducible refine putSched_kept ?_
    | with_reducible refine ite_kept ?_ ?_
    | with_reducible refine foldl_kept ?_ (fun t a h => ?_)
    | decide
    | dsimp -proj only
    | split

theorem execPrbsChkEnable_kept {s x : State} {a0 a1 a2 a3} (h : Kept s x) :
    ∃ t, execPrbsChkEnable a0 a1 a2 a3 x = .next t ∧ Kept s t := by
  unfold execPrbsChkEnable
  repeat' first
    | with_reducible assumption
    | with_reducible refine done_kept ?_
    | with_reducible refine writeTo_kept ?_
    | with_reducible refine ite_kept ?_ ?_
    | with_reducible refine foldl_kept ?_ (fun t a h => ?_)
    | decide
    | dsimp -proj only
    | split

theorem putSet_kept {s x : State} {a0 a1 a2 a3 a4} (h : Kept s x) : Kept s (putSet x a0 a1 a2 a3 a4) :=
  Kept.of_keeps (fun k hk => putSet_keeps (a0 := a0) (a1 := a1) (a2 := a2) (a3 := a3) (a4 := a4) hk (k.same_refl x)) (by decide) h

theorem tosBIn_kept {s x : State} {a0 a1 a2 a3} (h : Kept s x) : Kept s (tosBIn x a0 a1 a2 a3) :=
  Kept.of_keeps (fun k hk => tosBIn_keeps (a0 := a0) (a1 := a1) (a2 := a2) (a3 := a3) hk (k.same_refl x)) (by decide) h

theorem trainingSet_kept {s x : State} {a0 a1 a2 a3} (h : Kept s x) :
    Kept s (trainingSet x a0 a1 a2 a3) := by
  unfold trainingSet
  repeat' first
    | with_reducible assumption
    | with_reducible refine putSet_kept ?_
    | with_reducible refine tosBIn_kept ?_
    | with_reducible refine holdSet_kept ?_
    | with_reducible refine enterRetrain_kept ?_
    | with_reducible refine tosAIn_kept ?_
    | with_reducible refine ite_kept ?_ ?_
    | with_reducible refine foldl_kept ?_ (fun t a h => ?_)
    | decide
    | dsimp -proj only
    | split

theorem execTrainingSetReceived_kept {s x : State} {a0 a1 a2 a3} (h : Kept s x) :
    ∃ t, execTrainingSetReceived a0 a1 a2 a3 x = .next t ∧ Kept s t := by
  unfold execTrainingSetReceived
  repeat' first
    | with_reducible assumption
    | with_reducible refine done_kept ?_
    | with_reducible refine trainingSet_kept ?_
    | with_reducible refine ite_kept ?_ ?_
    | with_reducible refine foldl_kept ?_ (fun t a h => ?_)
    | decide
    | dsimp -proj only
    | split

theorem execWeltOpenConfirmed_kept {s x : State} {a0} (h : Kept s x) :
    ∃ t, execWeltOpenConfirmed a0 x = .next t ∧ Kept s t := by
  unfold execWeltOpenConfirmed
  repeat' first
    | with_reducible assumption
    | with_reducible refine done_kept ?_
    | with_reducible refine openConfirmed_kept ?_
    | with_reducible refine ite_kept ?_ ?_
    | with_reducible refine foldl_kept ?_ (fun t a h => ?_)
    | decide
    | dsimp -proj only
    | split

theorem execMosWr_kept {s x : State} {a0 a1 a2 a3 a4 a5} (h : Kept s x) :
    ∃ t, execMosWr a0 a1 a2 a3 a4 a5 x = .next t ∧ Kept s t := by
  unfold execMosWr
  repeat' first
    | with_reducible assumption
    | with_reducible refine done_kept ?_
    | with_reducible refine mosIn_kept ?_
    | with_reducible refine upset_kept ?_
    | with_reducible refine ite_kept ?_ ?_
    | with_reducible refine foldl_kept ?_ (fun t a h => ?_)
    | decide
    | dsimp -proj only
    | split

theorem execJtagExtestPulse_kept {s x : State} (h : Kept s x) :
    ∃ t, execJtagExtestPulse x = .next t ∧ Kept s t := by
  unfold execJtagExtestPulse
  repeat' first
    | with_reducible assumption
    | with_reducible refine done_kept ?_
    | with_reducible refine scanCells_kept ?_
    | with_reducible refine ite_kept ?_ ?_
    | with_reducible refine foldl_kept ?_ (fun t a h => ?_)
    | decide
    | dsimp -proj only
    | split

theorem execWinctlSync_kept {s x : State} {a0 a1} (h : Kept s x) :
    ∃ t, execWinctlSync a0 a1 x = .next t ∧ Kept s t := by
  unfold execWinctlSync
  repeat' first
    | with_reducible assumption
    | with_reducible refine done_kept ?_
    | with_reducible refine writeTo_kept ?_
    | with_reducible refine ite_kept ?_ ?_
    | with_reducible refine foldl_kept ?_ (fun t a h => ?_)
    | decide
    | dsimp -proj only
    | split

theorem execWindowEntryWrite_kept {s x : State} {a0 a1 a2 a3} (h : Kept s x) :
    ∃ t, execWindowEntryWrite a0 a1 a2 a3 x = .next t ∧ Kept s t := by
  unfold execWindowEntryWrite
  repeat' first
    | with_reducible assumption
    | with_reducible refine done_kept ?_
    | with_reducible refine writeTo_kept ?_
    | with_reducible refine ite_kept ?_ ?_
    | with_reducible refine foldl_kept ?_ (fun t a h => ?_)
    | decide
    | dsimp -proj only
    | split

theorem execAwlAll_kept {s x : State} {a0} (h : Kept s x) :
    ∃ t, execAwlAll a0 x = .next t ∧ Kept s t := by
  unfold execAwlAll
  repeat' first
    | with_reducible assumption
    | with_reducible refine done_kept ?_
    | with_reducible refine writeTo_kept ?_
    | with_reducible refine ite_kept ?_ ?_
    | with_reducible refine foldl_kept ?_ (fun t a h => ?_)
    | decide
    | dsimp -proj only
    | split

theorem execNvmSectorErased_kept {s x : State} {a0} (h : Kept s x) :
    ∃ t, execNvmSectorErased a0 x = .next t ∧ Kept s t := by
  unfold execNvmSectorErased
  repeat' first
    | with_reducible assumption
    | with_reducible refine done_kept ?_
    | with_reducible refine ownDone_kept ?_
    | with_reducible refine sectorDone_kept ?_
    | with_reducible refine ite_kept ?_ ?_
    | with_reducible refine foldl_kept ?_ (fun t a h => ?_)
    | decide
    | dsimp -proj only
    | split

theorem scanTimeout_kept {s x : State} {a0 a1 a2} (h : Kept s x) :
    Kept s (scanTimeout x a0 a1 a2) := by
  unfold scanTimeout
  repeat' first
    | with_reducible assumption
    | with_reducible refine closeScan_kept ?_
    | with_reducible refine writeHeldScan_kept ?_
    | with_reducible refine putData_kept ?_
    | with_reducible refine putData_kept_eq ?_ (by with_reducible assumption)
    | with_reducible refine ite_kept ?_ ?_
    | with_reducible refine foldl_kept ?_ (fun t a h => ?_)
    | decide
    | dsimp -proj only
    | split

theorem readSlots_kept {s x : State} {a0 a1 a2 a3} (h : Kept s x) :
    Kept s (readSlots a0 a1 a2 a3 x).2 := by
  induction a2 generalizing x a3 with
  | zero => exact h
  | succ n ih =>
    unfold readSlots
    dsimp only
    split
    · exact jobRead_kept_eq h (by assumption)
    · rename_i b t e
      have g : Kept s t := jobRead_kept_eq h e
      have i := ih (x := t) (a3 := a3 + 1) g
      split <;> (rename_i e'; rw [e'] at i; exact i)

theorem readSlots_kept_eq {s x : State} {a0 a1 a2 a3} {r u} (h : Kept s x) (e : readSlots a0 a1 a2 a3 x = (r, u)) :
    Kept s u := by
  simpa only [e] using readSlots_kept (s := s) (x := x) (a0 := a0) (a1 := a1) (a2 := a2) (a3 := a3) h

theorem prefetch_kept {s x : State} {a0} (h : Kept s x) :
    Kept s (prefetch x a0) := by
  unfold prefetch
  repeat' first
    | with_reducible assumption
    | with_reducible refine advanceHead_kept ?_
    | with_reducible refine ringFault_kept ?_
    | with_reducible refine consume_kept ?_
    | with_reducible refine readSlots_kept ?_
    | with_reducible refine readSlots_kept_eq ?_ (by with_reducible assumption)
    | with_reducible refine malformedEntry_kept ?_
    | with_reducible refine ite_kept ?_ ?_
    | with_reducible refine foldl_kept ?_ (fun t a h => ?_)
    | decide
    | dsimp -proj only
    | split

theorem execEntryPrefetch_kept {s x : State} {a0 a1} (h : Kept s x) :
    ∃ t, execEntryPrefetch a0 a1 x = .next t ∧ Kept s t := by
  unfold execEntryPrefetch
  repeat' first
    | with_reducible assumption
    | with_reducible refine done_kept ?_
    | with_reducible refine prefetch_kept ?_
    | with_reducible refine upset_kept ?_
    | with_reducible refine ite_kept ?_ ?_
    | with_reducible refine foldl_kept ?_ (fun t a h => ?_)
    | decide
    | dsimp -proj only
    | split

theorem runCandidate_kept {s x : State} {a0 a1} (h : Kept s x) (hc : Candidate.kept s a1) : Kept s (runCandidate x a0 a1) := by
  cases a1 with
  | slot n =>
    exact Kept.of_keeps (l := [.lanes, .last, .wqs, .units, .slots, .sched]) (fun k hk => runCandidate_keeps hk (k.same_refl x)
      (fun i t e => nomatch e)) (by decide) h
  | member i t =>
    refine Kept.of_keeps (l := [.lanes, .last, .wqs, .units, .slots, .sched]) (x := t) (fun k hk => ?_) (by decide) (hc i t rfl)
    show k.same t (runCandidate t a0 (.member i t))
    refine runCandidate_keeps hk (x := t) (k.same_refl t) (fun j u e => ?_)
    cases e
    exact k.same_refl t

theorem lendEngine_kept_eq {s x : State} {u} (h : Kept s x) (e : lendEngine x = some u) : Kept s u := by
  unfold lendEngine at e
  split at e
  · split at e <;> cases e
    exact h
  · split at e
    · split at e <;> cases e
      exact ⟨h.1, h.2.1.trans ⟨fun w => w, rfl⟩, h.2.2⟩
    · cases e

theorem startNvm_kept {s x : State} (h : Kept s x) : Kept s (startNvm x) := by
  unfold startNvm
  split
  · exact ite_kept (tendLog_kept h) (Kept.of_keeps (fun k hk => serve_keeps hk (k.same_refl x)) (by decide) h)
  · split
    · exact h
    · rename_i c e
      have g : Candidate.kept s c := fun i t hc =>
        Kept.of_keeps (fun k hk => urgentCandidate_keeps hk (k.same_refl x) e i t hc) (by decide) h
      refine ite_kept h ?_
      split <;> split
      · rename_i e'
        exact runCandidate_kept (lendEngine_kept_eq h e') (fun _ _ e => by cases e)
      · exact h
      · rename_i e'
        have g' := lendEngine_kept_eq (g _ _ rfl) e'
        exact runCandidate_kept g' (fun _ _ e => by cases e; exact g')
      · exact h

theorem serve_kept {s x : State} {a0 a1 a2} (h : Kept s x) : Kept s (serve x a0 a1 a2) :=
  Kept.of_keeps (fun k hk => serve_keeps (a0 := a0) (a1 := a1) (a2 := a2) hk (k.same_refl x)) (by decide) h

theorem startJob_kept {s x : State} {a0 a1} (h : Kept s x) :
    Kept s (startJob x a0 a1) := by
  unfold startJob
  repeat' first
    | with_reducible assumption
    | with_reducible refine ownDone_kept ?_
    | with_reducible refine startNvm_kept ?_
    | with_reducible refine serve_kept ?_
    | with_reducible refine ite_kept ?_ ?_
    | with_reducible refine foldl_kept ?_ (fun t a h => ?_)
    | decide
    | dsimp -proj only
    | split

theorem execScanPointDone_kept {s x : State} {a0 a1 a2} (h : Kept s x) :
    ∃ t, execScanPointDone a0 a1 a2 x = .next t ∧ Kept s t := by
  unfold execScanPointDone
  repeat' first
    | with_reducible assumption
    | with_reducible refine done_kept ?_
    | with_reducible refine modMeas_kept ?_
    | with_reducible refine ite_kept ?_ ?_
    | with_reducible refine foldl_kept ?_ (fun t a h => ?_)
    | decide
    | dsimp -proj only
    | split

theorem execRecalEvaluation_kept {s x : State} (h : Kept s x) :
    ∃ t, execRecalEvaluation x = .next t ∧ Kept s t := by
  unfold execRecalEvaluation
  repeat' first
    | with_reducible assumption
    | with_reducible refine done_kept ?_
    | with_reducible refine homeStandins_kept ?_
    | with_reducible refine followStandin_kept ?_
    | with_reducible refine evaluateUnits_kept ?_
    | with_reducible refine nextRecal_kept ?_
    | with_reducible refine ite_kept ?_ ?_
    | with_reducible refine foldl_kept ?_ (fun t a h => ?_)
    | decide
    | dsimp -proj only
    | split

theorem execDrainComplete_kept {s x : State} {a0} (h : Kept s x) :
    ∃ t, execDrainComplete a0 x = .next t ∧ Kept s t := by
  unfold execDrainComplete
  repeat' first
    | with_reducible assumption
    | with_reducible refine done_kept ?_
    | with_reducible refine drainEnd_kept ?_
    | with_reducible refine ite_kept ?_ ?_
    | with_reducible refine foldl_kept ?_ (fun t a h => ?_)
    | decide
    | dsimp -proj only
    | split

theorem execLnsnapRelease_kept {s x : State} {a0 a1 a2 a3} (h : Kept s x) :
    ∃ t, execLnsnapRelease a0 a1 a2 a3 x = .next t ∧ Kept s t := by
  unfold execLnsnapRelease
  repeat' first
    | with_reducible assumption
    | with_reducible refine done_kept ?_
    | with_reducible refine writeTo_kept ?_
    | with_reducible refine ite_kept ?_ ?_
    | with_reducible refine foldl_kept ?_ (fun t a h => ?_)
    | decide
    | dsimp -proj only
    | split

theorem execSyncBarrierDone_kept {s x : State} {a0} (h : Kept s x) :
    ∃ t, execSyncBarrierDone a0 x = .next t ∧ Kept s t := by
  unfold execSyncBarrierDone
  repeat' first
    | with_reducible assumption
    | with_reducible refine done_kept ?_
    | with_reducible refine modWin_kept ?_
    | with_reducible refine ite_kept ?_ ?_
    | with_reducible refine foldl_kept ?_ (fun t a h => ?_)
    | decide
    | dsimp -proj only
    | split

theorem execHeelWatchdogTrip_kept {s x : State} (h : Kept s x) :
    ∃ t, execHeelWatchdogTrip x = .next t ∧ Kept s t := by
  unfold execHeelWatchdogTrip
  try dsimp -zeta -proj only [upd_evt_heel]
  repeat' first
    | with_reducible assumption
    | with_reducible refine done_kept ?_
    | with_reducible refine logEvent_kept ?_
    | with_reducible refine putEvt_kept ?_
    | with_reducible refine putHeel_kept ?_
    | with_reducible refine ite_kept ?_ ?_
    | with_reducible refine foldl_kept ?_ (fun t a h => ?_)
    | decide
    | dsimp -proj only
    | split

theorem newRound_kept {s x : State} {a0} (h : Kept s x) : Kept s (newRound x a0) :=
  Kept.of_keeps (fun k hk => newRound_keeps (a0 := a0) hk (k.same_refl x)) (by decide) h

theorem execLastStage_kept {s x : State} {a0 a1} (h : Kept s x) :
    ∃ t, execLastStage a0 a1 x = .next t ∧ Kept s t := by
  unfold execLastStage
  repeat' first
    | with_reducible assumption
    | with_reducible refine done_kept ?_
    | with_reducible refine runBlock_kept ?_
    | with_reducible refine upset_kept ?_
    | with_reducible refine ite_kept ?_ ?_
    | with_reducible refine foldl_kept ?_ (fun t a h => ?_)
    | decide
    | dsimp -proj only
    | split

theorem execEyescanLockTimeout_kept {s x : State} {a0 a1} (h : Kept s x) :
    ∃ t, execEyescanLockTimeout a0 a1 x = .next t ∧ Kept s t := by
  unfold execEyescanLockTimeout
  repeat' first
    | with_reducible assumption
    | with_reducible refine done_kept ?_
    | with_reducible refine scanTimeout_kept ?_
    | with_reducible refine ite_kept ?_ ?_
    | with_reducible refine foldl_kept ?_ (fun t a h => ?_)
    | decide
    | dsimp -proj only
    | split

theorem execRailValid_kept {s x : State} {a0} (h : Kept s x) :
    ∃ t, execRailValid a0 x = .next t ∧ Kept s t := by
  unfold execRailValid
  repeat' first
    | with_reducible assumption
    | with_reducible refine done_kept ?_
    | with_reducible refine settle_kept ?_
    | with_reducible refine modPower_kept ?_
    | with_reducible refine ite_kept ?_ ?_
    | with_reducible refine foldl_kept ?_ (fun t a h => ?_)
    | decide
    | dsimp -proj only
    | split

theorem accessRead_kept_eq {s x : State} {a0 a1} {r u} (h : Kept s x) (e : accessRead x a0 a1 = (r, u)) :
    Kept s u := by
  simpa only [e] using accessRead_kept (s := s) (x := x) (a0 := a0) (a1 := a1) h

theorem execTwbReadWord_kept {s x : State} {a0} (h : Kept s x) :
    ∃ t, execTwbReadWord a0 x = .next t ∧ Kept s t := by
  unfold execTwbReadWord
  repeat' first
    | with_reducible assumption
    | with_reducible refine modTwb_kept ?_
    | with_reducible refine done_kept ?_
    | with_reducible refine busRead_kept ?_
    | with_reducible refine upset_kept ?_
    | with_reducible refine ite_kept ?_ ?_
    | with_reducible refine foldl_kept ?_ (fun t a h => ?_)
    | decide
    | dsimp -proj only
    | split

theorem retrySwap_kept {s x : State} {a0} (h : Kept s x) : Kept s (retrySwap x a0) :=
  Kept.of_keeps (fun k hk => retrySwap_keeps (a0 := a0) hk (k.same_refl x)) (by decide) h

theorem exitStandby_kept {s x : State} (h : Kept s x) :
    Kept s (exitStandby x) := by
  unfold exitStandby
  try dsimp -zeta -proj only [upd_boot_dev_evt_store_twb]
  try simp -zeta -proj only [upd_boot_dev_evt_store_twb]
  repeat' first
    | with_reducible assumption
    | with_reducible refine settle_kept ?_
    | with_reducible refine modLane_kept ?_
    | with_reducible refine lockPlls_kept ?_
    | with_reducible refine ringPut_kept ?_
    | with_reducible refine putBoot_kept ?_
    | with_reducible refine putDev_kept ?_
    | with_reducible refine putEvt_kept ?_
    | with_reducible refine putStore_kept ?_ ?_
    | with_reducible refine putTwb_kept ?_
    | with_reducible refine ite_kept ?_ ?_
    | with_reducible refine foldl_kept ?_ (fun t a h => ?_)
    | exact fun h => h
    | decide
    | dsimp -proj only
    | split

theorem execStandbyExitDone_kept {s x : State} (h : Kept s x) :
    ∃ t, execStandbyExitDone x = .next t ∧ Kept s t := by
  unfold execStandbyExitDone
  repeat' first
    | with_reducible assumption
    | with_reducible refine done_kept ?_
    | with_reducible refine exitStandby_kept ?_
    | with_reducible refine ite_kept ?_ ?_
    | with_reducible refine foldl_kept ?_ (fun t a h => ?_)
    | decide
    | dsimp -proj only
    | split

theorem execAdcSelfCal_kept {s x : State} (h : Kept s x) :
    ∃ t, execAdcSelfCal x = .next t ∧ Kept s t := by
  unfold execAdcSelfCal
  repeat' first
    | with_reducible assumption
    | with_reducible refine done_kept ?_
    | with_reducible refine startAdcCal_kept ?_
    | with_reducible refine ite_kept ?_ ?_
    | with_reducible refine foldl_kept ?_ (fun t a h => ?_)
    | decide
    | dsimp -proj only
    | split

theorem wakeDone_kept {s x : State} {a0} (h : Kept s x) :
    Kept s (wakeDone x a0) := by
  unfold wakeDone
  repeat' first
    | with_reducible assumption
    | with_reducible refine setResult_kept ?_
    | with_reducible refine modLink_kept ?_
    | with_reducible refine checkRecovered_kept ?_
    | with_reducible refine requestRetrain_kept ?_
    | with_reducible refine ite_kept ?_ ?_
    | with_reducible refine foldl_kept ?_ (fun t a h => ?_)
    | decide
    | dsimp -proj only
    | split

theorem transparentUp_kept {s x : State} {a0} (h : Kept s x) :
    Kept s (transparentUp x a0) := by
  unfold transparentUp
  repeat' first
    | with_reducible assumption
    | with_reducible refine setResult_kept ?_
    | with_reducible refine ite_kept ?_ ?_
    | with_reducible refine foldl_kept ?_ (fun t a h => ?_)
    | decide
    | dsimp -proj only
    | split

theorem lockFollows_kept {s x : State} {a0 a1} (h : Kept s x) :
    Kept s (lockFollows x a0 a1) := by
  unfold lockFollows
  repeat' first
    | with_reducible assumption
    | with_reducible refine restoreTransparent_kept ?_
    | with_reducible refine wakeDone_kept ?_
    | with_reducible refine transparentUp_kept ?_
    | with_reducible refine ite_kept ?_ ?_
    | with_reducible refine foldl_kept ?_ (fun t a h => ?_)
    | decide
    | dsimp -proj only
    | split

theorem execCdrLockGained_kept {s x : State} {a0 a1} (h : Kept s x) :
    ∃ t, execCdrLockGained a0 a1 x = .next t ∧ Kept s t := by
  unfold execCdrLockGained
  repeat' first
    | with_reducible assumption
    | with_reducible refine done_kept ?_
    | with_reducible refine lockFollows_kept ?_
    | with_reducible refine modRx_kept ?_
    | with_reducible refine ite_kept ?_ ?_
    | with_reducible refine foldl_kept ?_ (fun t a h => ?_)
    | decide
    | dsimp -proj only
    | split

theorem execJtagSamplePreload_kept {s x : State} (h : Kept s x) :
    ∃ t, execJtagSamplePreload x = .next t ∧ Kept s t := by
  unfold execJtagSamplePreload
  repeat' first
    | with_reducible assumption
    | with_reducible refine done_kept ?_
    | with_reducible refine scanCells_kept ?_
    | with_reducible refine ite_kept ?_ ?_
    | with_reducible refine foldl_kept ?_ (fun t a h => ?_)
    | decide
    | dsimp -proj only
    | split

theorem pllUnlocked_kept {s x : State} {a0} (h : Kept s x) :
    Kept s (pllUnlocked x a0) := by
  unfold pllUnlocked
  try dsimp -zeta -proj only [upd_power_evt]
  repeat' first
    | with_reducible assumption
    | with_reducible refine logEvent_kept ?_
    | with_reducible refine putPower_kept ?_
    | with_reducible refine putEvt_kept ?_
    | with_reducible refine ite_kept ?_ ?_
    | with_reducible refine foldl_kept ?_ (fun t a h => ?_)
    | decide
    | dsimp -proj only
    | split

theorem execCorePllLoss_kept {s x : State} (h : Kept s x) :
    ∃ t, execCorePllLoss x = .next t ∧ Kept s t := by
  unfold execCorePllLoss
  try dsimp -zeta -proj only [upd_dev]
  repeat' first
    | with_reducible assumption
    | with_reducible refine done_kept ?_
    | with_reducible refine settle_kept ?_
    | with_reducible refine pllUnlocked_kept ?_
    | with_reducible refine putDev_kept ?_
    | with_reducible refine ite_kept ?_ ?_
    | with_reducible refine foldl_kept ?_ (fun t a h => ?_)
    | decide
    | dsimp -proj only
    | split

theorem execSignalDetected_kept {s x : State} {a0 a1} (h : Kept s x) :
    ∃ t, execSignalDetected a0 a1 x = .next t ∧ Kept s t := by
  unfold execSignalDetected
  repeat' first
    | with_reducible assumption
    | with_reducible refine done_kept ?_
    | with_reducible refine modRx_kept ?_
    | with_reducible refine enterDetect_kept ?_
    | with_reducible refine ite_kept ?_ ?_
    | with_reducible refine foldl_kept ?_ (fun t a h => ?_)
    | decide
    | dsimp -proj only
    | split

theorem rateSeen_kept {s x : State} {a0 a1 a2} (h : Kept s x) :
    Kept s (rateSeen x a0 a1 a2) := by
  unfold rateSeen
  repeat' first
    | with_reducible assumption
    | with_reducible refine modLink_kept ?_
    | with_reducible refine modRx_kept ?_
    | with_reducible refine takeLinkRate_kept ?_
    | with_reducible refine ite_kept ?_ ?_
    | with_reducible refine foldl_kept ?_ (fun t a h => ?_)
    | decide
    | dsimp -proj only
    | split

theorem awlFinish_kept {s x : State} (h : Kept s x) :
    Kept s (awlFinish x) := by
  unfold awlFinish
  repeat' first
    | with_reducible assumption
    | with_reducible refine logEvent_kept ?_
    | with_reducible refine drainEnd_kept ?_
    | with_reducible refine modAwl_kept ?_
    | with_reducible refine ite_kept ?_ ?_
    | with_reducible refine foldl_kept ?_ (fun t a h => ?_)
    | decide
    | dsimp -proj only
    | split

theorem execAwlDone_kept {s x : State} (h : Kept s x) :
    ∃ t, execAwlDone x = .next t ∧ Kept s t := by
  unfold execAwlDone
  repeat' first
    | with_reducible assumption
    | with_reducible refine done_kept ?_
    | with_reducible refine awlFinish_kept ?_
    | with_reducible refine ite_kept ?_ ?_
    | with_reducible refine foldl_kept ?_ (fun t a h => ?_)
    | decide
    | dsimp -proj only
    | split

theorem execCeRateHour_kept {s x : State} (h : Kept s x) :
    ∃ t, execCeRateHour x = .next t ∧ Kept s t := by
  unfold execCeRateHour
  try dsimp -zeta -proj only [upd_store]
  repeat' first
    | with_reducible assumption
    | with_reducible refine done_kept ?_
    | with_reducible refine putStore_kept ?_ ?_
    | with_reducible refine ite_kept ?_ ?_
    | with_reducible refine foldl_kept ?_ (fun t a h => ?_)
    | exact fun h => h
    | decide
    | dsimp -proj only
    | split

theorem execWqDisable_kept {s x : State} {a0 a1 a2} (h : Kept s x) :
    ∃ t, execWqDisable a0 a1 a2 x = .next t ∧ Kept s t := by
  unfold execWqDisable
  repeat' first
    | with_reducible assumption
    | with_reducible refine done_kept ?_
    | with_reducible refine writeTo_kept ?_
    | with_reducible refine ite_kept ?_ ?_
    | with_reducible refine foldl_kept ?_ (fun t a h => ?_)
    | decide
    | dsimp -proj only
    | split

theorem execScrubLine_kept {s x : State} {a0} (h : Kept s x) :
    ∃ t, execScrubLine a0 x = .next t ∧ Kept s t := by
  unfold execScrubLine
  repeat' first
    | with_reducible assumption
    | with_reducible refine done_kept ?_
    | with_reducible refine visitLine_kept ?_
    | with_reducible refine upset_kept ?_
    | with_reducible refine ite_kept ?_ ?_
    | with_reducible refine foldl_kept ?_ (fun t a h => ?_)
    | decide
    | dsimp -proj only
    | split

theorem execTmseqctlRestart_kept {s x : State} {a0 a1 a2} (h : Kept s x) :
    ∃ t, execTmseqctlRestart a0 a1 a2 x = .next t ∧ Kept s t := by
  unfold execTmseqctlRestart
  repeat' first
    | with_reducible assumption
    | with_reducible refine done_kept ?_
    | with_reducible refine writeTo_kept ?_
    | with_reducible refine ite_kept ?_ ?_
    | with_reducible refine foldl_kept ?_ (fun t a h => ?_)
    | decide
    | dsimp -proj only
    | split

theorem execEyeSweepEnd_kept {s x : State} {a0 a1 a2 a3} (h : Kept s x) :
    ∃ t, execEyeSweepEnd a0 a1 a2 a3 x = .next t ∧ Kept s t := by
  unfold execEyeSweepEnd
  repeat' first
    | with_reducible assumption
    | with_reducible refine done_kept ?_
    | with_reducible refine eyeAlarm_kept ?_
    | with_reducible refine qualityCheck_kept ?_
    | with_reducible refine modMeas_kept ?_
    | with_reducible refine ite_kept ?_ ?_
    | with_reducible refine foldl_kept ?_ (fun t a h => ?_)
    | decide
    | dsimp -proj only
    | split

theorem execNop_kept {s x : State} {a0} (h : Kept s x) :
    ∃ t, execNop a0 x = .next t ∧ Kept s t := by
  unfold execNop
  repeat' first
    | with_reducible assumption
    | with_reducible refine done_kept ?_
    | with_reducible refine modWq_kept ?_
    | with_reducible refine noteFence_kept ?_
    | with_reducible refine endEntry_kept ?_
    | with_reducible refine ite_kept ?_ ?_
    | with_reducible refine foldl_kept ?_ (fun t a h => ?_)
    | decide
    | dsimp -proj only
    | split

theorem execWeltCauseArises_kept {s x : State} {a0} (h : Kept s x) :
    ∃ t, execWeltCauseArises a0 x = .next t ∧ Kept s t := by
  unfold execWeltCauseArises
  repeat' first
    | with_reducible assumption
    | with_reducible refine done_kept ?_
    | with_reducible refine settle_kept ?_
    | with_reducible refine modPower_kept ?_
    | with_reducible refine enterReset_kept ?_
    | with_reducible refine modPins_kept ?_
    | with_reducible refine ite_kept ?_ ?_
    | with_reducible refine foldl_kept ?_ (fun t a h => ?_)
    | decide
    | dsimp -proj only
    | split

theorem execSpareRetry_kept {s x : State} {a0} (h : Kept s x) :
    ∃ t, execSpareRetry a0 x = .next t ∧ Kept s t := by
  unfold execSpareRetry
  repeat' first
    | with_reducible assumption
    | with_reducible refine done_kept ?_
    | with_reducible refine retrySwap_kept ?_
    | with_reducible refine resendRelease_kept ?_
    | with_reducible refine ite_kept ?_ ?_
    | with_reducible refine foldl_kept ?_ (fun t a h => ?_)
    | decide
    | dsimp -proj only
    | split

theorem execWakeFail_kept {s x : State} {a0} (h : Kept s x) :
    ∃ t, execWakeFail a0 x = .next t ∧ Kept s t := by
  unfold execWakeFail
  repeat' first
    | with_reducible assumption
    | with_reducible refine done_kept ?_
    | with_reducible refine logK_kept ?_
    | with_reducible refine requestRetrain_kept ?_
    | with_reducible refine ite_kept ?_ ?_
    | with_reducible refine foldl_kept ?_ (fun t a h => ?_)
    | decide
    | dsimp -proj only
    | split

theorem execCaptureStop_kept {s x : State} {a0} (h : Kept s x) :
    ∃ t, execCaptureStop a0 x = .next t ∧ Kept s t := by
  unfold execCaptureStop
  repeat' first
    | with_reducible assumption
    | with_reducible refine done_kept ?_
    | with_reducible refine stopCapture_kept ?_
    | with_reducible refine ite_kept ?_ ?_
    | with_reducible refine foldl_kept ?_ (fun t a h => ?_)
    | decide
    | dsimp -proj only
    | split

theorem execTwbSclLow_kept {s x : State} {a0} (h : Kept s x) :
    ∃ t, execTwbSclLow a0 x = .next t ∧ Kept s t := by
  unfold execTwbSclLow
  repeat' first
    | with_reducible assumption
    | with_reducible refine modTwb_kept ?_
    | with_reducible refine done_kept ?_
    | with_reducible refine endEeprom_kept ?_
    | with_reducible refine logEvent_kept ?_
    | with_reducible refine ite_kept ?_ ?_
    | with_reducible refine foldl_kept ?_ (fun t a h => ?_)
    | decide
    | dsimp -proj only
    | split

theorem execLnkctlAside_kept {s x : State} {a0 a1 a2} (h : Kept s x) :
    ∃ t, execLnkctlAside a0 a1 a2 x = .next t ∧ Kept s t := by
  unfold execLnkctlAside
  repeat' first
    | with_reducible assumption
    | with_reducible refine done_kept ?_
    | with_reducible refine writeTo_kept ?_
    | with_reducible refine ite_kept ?_ ?_
    | with_reducible refine foldl_kept ?_ (fun t a h => ?_)
    | decide
    | dsimp -proj only
    | split

theorem execTwbSdaLow_kept {s x : State} {a0} (h : Kept s x) :
    ∃ t, execTwbSdaLow a0 x = .next t ∧ Kept s t := by
  unfold execTwbSdaLow
  repeat' first
    | with_reducible assumption
    | with_reducible refine modTwb_kept ?_
    | with_reducible refine done_kept ?_
    | with_reducible refine logEvent_kept ?_
    | with_reducible refine ite_kept ?_ ?_
    | with_reducible refine foldl_kept ?_ (fun t a h => ?_)
    | decide
    | dsimp -proj only
    | split

theorem execSupplyInWindow_kept {s x : State} {a0} (h : Kept s x) :
    ∃ t, execSupplyInWindow a0 x = .next t ∧ Kept s t := by
  unfold execSupplyInWindow
  repeat' first
    | with_reducible assumption
    | with_reducible refine done_kept ?_
    | with_reducible refine modPower_kept ?_
    | with_reducible refine ite_kept ?_ ?_
    | with_reducible refine foldl_kept ?_ (fun t a h => ?_)
    | decide
    | dsimp -proj only
    | split

theorem execSleepWake_kept {s x : State} {a0 a1} (h : Kept s x) :
    ∃ t, execSleepWake a0 a1 x = .next t ∧ Kept s t := by
  unfold execSleepWake
  repeat' first
    | with_reducible assumption
    | with_reducible refine done_kept ?_
    | with_reducible refine modLink_kept ?_
    | with_reducible refine modRx_kept ?_
    | with_reducible refine lockPlls_kept ?_
    | with_reducible refine ite_kept ?_ ?_
    | with_reducible refine foldl_kept ?_ (fun t a h => ?_)
    | decide
    | dsimp -proj only
    | split

theorem execDevctlAside_kept {s x : State} {a0 a1} (h : Kept s x) :
    ∃ t, execDevctlAside a0 a1 x = .next t ∧ Kept s t := by
  unfold execDevctlAside
  repeat' first
    | with_reducible assumption
    | with_reducible refine done_kept ?_
    | with_reducible refine writeTo_kept ?_
    | with_reducible refine ite_kept ?_ ?_
    | with_reducible refine foldl_kept ?_ (fun t a h => ?_)
    | decide
    | dsimp -proj only
    | split

theorem execCommit_kept {s x : State} {a0 a1} (h : Kept s x) :
    ∃ t, execCommit a0 a1 x = .next t ∧ Kept s t := by
  unfold execCommit
  repeat' first
    | with_reducible assumption
    | with_reducible refine done_kept ?_
    | with_reducible refine writeTo_kept ?_
    | with_reducible refine ite_kept ?_ ?_
    | with_reducible refine foldl_kept ?_ (fun t a h => ?_)
    | decide
    | dsimp -proj only
    | split

theorem execSkipRateWindow_kept {s x : State} (h : Kept s x) :
    ∃ t, execSkipRateWindow x = .next t ∧ Kept s t := by
  unfold execSkipRateWindow
  try dsimp -zeta -proj only [upd_lanes]
  repeat' first
    | with_reducible assumption
    | with_reducible refine done_kept ?_
    | with_reducible refine putLanes_kept ?_
    | with_reducible refine ite_kept ?_ ?_
    | with_reducible refine foldl_kept ?_ (fun t a h => ?_)
    | decide
    | dsimp -proj only
    | split

theorem clockLost_kept {s x : State} {a0 a1} (h : Kept s x) :
    Kept s (clockLost x a0 a1) := by
  unfold clockLost
  repeat' first
    | with_reducible assumption
    | with_reducible refine forwardLost_kept ?_
    | with_reducible refine markLost_kept ?_
    | with_reducible refine afterLosses_kept ?_
    | with_reducible refine ite_kept ?_ ?_
    | with_reducible refine foldl_kept ?_ (fun t a h => ?_)
    | decide
    | dsimp -proj only
    | split

theorem pllLost_kept {s x : State} {a0} (h : Kept s x) :
    Kept s (pllLost x a0) := by
  unfold pllLost
  repeat' first
    | with_reducible assumption
    | with_reducible refine clockLost_kept ?_
    | with_reducible refine ite_kept ?_ ?_
    | with_reducible refine foldl_kept ?_ (fun t a h => ?_)
    | decide
    | dsimp -proj only
    | split

theorem execSidePllLoss_kept {s x : State} {a0} (h : Kept s x) :
    ∃ t, execSidePllLoss a0 x = .next t ∧ Kept s t := by
  unfold execSidePllLoss
  repeat' first
    | with_reducible assumption
    | with_reducible refine done_kept ?_
    | with_reducible refine pllUnlocked_kept ?_
    | with_reducible refine pllLost_kept ?_
    | with_reducible refine ite_kept ?_ ?_
    | with_reducible refine foldl_kept ?_ (fun t a h => ?_)
    | decide
    | dsimp -proj only
    | split

theorem execCompletionWrite_kept {s x : State} {a0} (h : Kept s x) :
    ∃ t, execCompletionWrite a0 x = .next t ∧ Kept s t := by
  unfold execCompletionWrite
  repeat' first
    | with_reducible assumption
    | with_reducible refine done_kept ?_
    | with_reducible refine flushDue_kept ?_
    | with_reducible refine ite_kept ?_ ?_
    | with_reducible refine foldl_kept ?_ (fun t a h => ?_)
    | decide
    | dsimp -proj only
    | split

theorem setSuspended_kept {s x : State} {a0} (h : Kept s x) :
    Kept s (setSuspended x a0) := by
  unfold setSuspended
  try dsimp -zeta -proj only [upd_nvm]
  repeat' first
    | with_reducible assumption
    | with_reducible refine putNvm_kept ?_ ?_
    | with_reducible refine ite_kept ?_ ?_
    | with_reducible refine foldl_kept ?_ (fun t a h => ?_)
    | with_reducible exact NvmSt.setCell_keeps _ _ _
    | with_reducible refine nvm_keeps_of ?_ ?_
    | exact fun h => h
    | rfl
    | decide
    | dsimp -proj only
    | split

theorem execCqheadWrite_kept {s x : State} {a0 a1 a2} (h : Kept s x) :
    ∃ t, execCqheadWrite a0 a1 a2 x = .next t ∧ Kept s t := by
  unfold execCqheadWrite
  repeat' first
    | with_reducible assumption
    | with_reducible refine done_kept ?_
    | with_reducible refine writeTo_kept ?_
    | with_reducible refine ite_kept ?_ ?_
    | with_reducible refine foldl_kept ?_ (fun t a h => ?_)
    | decide
    | dsimp -proj only
    | split

theorem execRailInvalid_kept {s x : State} {a0} (h : Kept s x) :
    ∃ t, execRailInvalid a0 x = .next t ∧ Kept s t := by
  unfold execRailInvalid
  try dsimp -zeta -proj only [upd_jtag]
  repeat' first
    | with_reducible assumption
    | with_reducible refine done_kept ?_
    | with_reducible refine settle_kept ?_
    | with_reducible refine modPower_kept ?_
    | with_reducible refine railOutside_kept ?_
    | with_reducible refine enterReset_kept ?_
    | with_reducible refine putJtag_kept ?_
    | with_reducible refine ite_kept ?_ ?_
    | with_reducible refine foldl_kept ?_ (fun t a h => ?_)
    | decide
    | dsimp -proj only
    | split

theorem execTwbStartStop_kept {s x : State} {a0 a1} (h : Kept s x) :
    ∃ t, execTwbStartStop a0 a1 x = .next t ∧ Kept s t := by
  unfold execTwbStartStop
  repeat' first
    | with_reducible assumption
    | with_reducible refine modTwb_kept ?_
    | with_reducible refine done_kept ?_
    | with_reducible refine ite_kept ?_ ?_
    | with_reducible refine foldl_kept ?_ (fun t a h => ?_)
    | decide
    | dsimp -proj only
    | split

theorem execWqResume_kept {s x : State} {a0 a1 a2} (h : Kept s x) :
    ∃ t, execWqResume a0 a1 a2 x = .next t ∧ Kept s t := by
  unfold execWqResume
  repeat' first
    | with_reducible assumption
    | with_reducible refine done_kept ?_
    | with_reducible refine writeTo_kept ?_
    | with_reducible refine ite_kept ?_ ?_
    | with_reducible refine foldl_kept ?_ (fun t a h => ?_)
    | decide
    | dsimp -proj only
    | split

theorem enterStandby_kept {s x : State} (h : Kept s x) : Kept s (enterStandby x) := by
  have hs : Memory.wf Reset.store = true := by decide
  have hw : Reset.win.wf = true := by decide
  have hg : (Reset.win.entries.toList.all fun t => t.all fun p => entryGuarded p.2) = true := by decide
  have hk : ∀ (y : State) (l : Vector Lane 36) (k : Vector Link 8) (m : StoreSt) (w : WinSt) (b : LastSt) (u : Units)
      (sl : Vector Slot 8) (sc : Sched) (t : TmSt) (c : CalSt), Kept s y → Memory.wf m = true →
      w.wf = true → (w.entries.toList.all fun t => t.all fun p => entryGuarded p.2) = true →
      Kept s { y with
        lanes := l, links := k, store := m, win := w, units := u, slots := sl, sched := sc, last := b
        nvm := { y.nvm with
          wp := 0, lock := false, rdErased := false, rdUe := false, ce := 0, addr := 0, addrOk := false, wsel := 0
          dropped := 0, tokens := 128 }
        tm := t, cal := c } :=
    fun y _ _ m w _ _ _ _ _ _ g a c d =>
      ⟨fun _ => a, g.2.1.trans ⟨fun w => w, rfl⟩, ⟨fun _ => c, fun _ => d⟩, g.2.2.2⟩
  unfold enterStandby
  split
  · exact h
  · exact loadPrograms_kept (loadSpares_kept (loadQueues_kept (hk _ _ _ _ _ _ _ _ _ _ _
      (settle_kept (putDev_kept (v := { x.dev with standby := true, entering := false }) h)) hs hw hg)))

theorem execStandbyEntered_kept {s x : State} (h : Kept s x) :
    ∃ t, execStandbyEntered x = .next t ∧ Kept s t := by
  unfold execStandbyEntered
  repeat' first
    | with_reducible assumption
    | with_reducible refine enterStandby_kept ?_
    | with_reducible refine done_kept ?_
    | with_reducible refine ite_kept ?_ ?_
    | with_reducible refine foldl_kept ?_ (fun t a h => ?_)
    | decide
    | dsimp -proj only
    | split

theorem raiseWarn_kept {s x : State} {a0} (h : Kept s x) :
    Kept s (raiseWarn x a0) := by
  unfold raiseWarn
  try dsimp -zeta -proj only [upd_therm]
  repeat' first
    | with_reducible assumption
    | with_reducible refine logEvent_kept ?_
    | with_reducible refine settle_kept ?_
    | with_reducible refine partAside_kept ?_
    | with_reducible refine putTherm_kept ?_
    | with_reducible refine ite_kept ?_ ?_
    | with_reducible refine foldl_kept ?_ (fun t a h => ?_)
    | decide
    | dsimp -proj only
    | split

theorem execThermalSample_kept {s x : State} {a0} (h : Kept s x) :
    ∃ t, execThermalSample a0 x = .next t ∧ Kept s t := by
  unfold execThermalSample
  try dsimp -zeta -proj only [upd_therm]
  repeat' first
    | with_reducible assumption
    | with_reducible refine done_kept ?_
    | with_reducible refine enterShutdown_kept ?_
    | with_reducible refine raiseWarn_kept ?_
    | with_reducible refine putTherm_kept ?_
    | with_reducible refine ite_kept ?_ ?_
    | with_reducible refine foldl_kept ?_ (fun t a h => ?_)
    | decide
    | dsimp -proj only
    | split

theorem execNotifyRepeat_kept {s x : State} (h : Kept s x) :
    ∃ t, execNotifyRepeat x = .next t ∧ Kept s t := by
  unfold execNotifyRepeat
  repeat' first
    | with_reducible assumption
    | with_reducible refine done_kept ?_
    | with_reducible refine queueNotify_kept ?_
    | with_reducible refine ite_kept ?_ ?_
    | with_reducible refine foldl_kept ?_ (fun t a h => ?_)
    | decide
    | dsimp -proj only
    | split

theorem clearMark_kept {s x : State} {a0 a1} (h : Kept s x) : Kept s (clearMark x a0 a1) :=
  Kept.of_keeps (fun k hk => clearMark_keeps (a0 := a0) (a1 := a1) hk (k.same_refl x)) (by decide) h

theorem execEpochUnsent_kept {s x : State} {a0 a1} (h : Kept s x) :
    ∃ t, execEpochUnsent a0 a1 x = .next t ∧ Kept s t := by
  unfold execEpochUnsent
  repeat' first
    | with_reducible assumption
    | with_reducible refine done_kept ?_
    | with_reducible refine clearMark_kept ?_
    | with_reducible refine logK_kept ?_
    | with_reducible refine ite_kept ?_ ?_
    | with_reducible refine foldl_kept ?_ (fun t a h => ?_)
    | decide
    | dsimp -proj only
    | split

theorem execDiscard_kept {s x : State} {a0 a1} (h : Kept s x) :
    ∃ t, execDiscard a0 a1 x = .next t ∧ Kept s t := by
  unfold execDiscard
  repeat' first
    | with_reducible assumption
    | with_reducible refine done_kept ?_
    | with_reducible refine writeTo_kept ?_
    | with_reducible refine ite_kept ?_ ?_
    | with_reducible refine foldl_kept ?_ (fun t a h => ?_)
    | decide
    | dsimp -proj only
    | split

theorem execLnklossUncap_kept {s x : State} {a0 a1 a2} (h : Kept s x) :
    ∃ t, execLnklossUncap a0 a1 a2 x = .next t ∧ Kept s t := by
  unfold execLnklossUncap
  repeat' first
    | with_reducible assumption
    | with_reducible refine done_kept ?_
    | with_reducible refine writeTo_kept ?_
    | with_reducible refine ite_kept ?_ ?_
    | with_reducible refine foldl_kept ?_ (fun t a h => ?_)
    | decide
    | dsimp -proj only
    | split

theorem execJobStart_kept {s x : State} {a0 a1} (h : Kept s x) :
    ∃ t, execJobStart a0 a1 x = .next t ∧ Kept s t := by
  unfold execJobStart
  repeat' first
    | with_reducible assumption
    | with_reducible refine done_kept ?_
    | with_reducible refine startJob_kept ?_
    | with_reducible refine ite_kept ?_ ?_
    | with_reducible refine foldl_kept ?_ (fun t a h => ?_)
    | decide
    | dsimp -proj only
    | split

theorem execTwbSleep_kept {s x : State} (h : Kept s x) :
    ∃ t, execTwbSleep x = .next t ∧ Kept s t := by
  unfold execTwbSleep
  repeat' first
    | with_reducible assumption
    | with_reducible refine modTwb_kept ?_
    | with_reducible refine done_kept ?_
    | with_reducible refine ite_kept ?_ ?_
    | with_reducible refine foldl_kept ?_ (fun t a h => ?_)
    | decide
    | dsimp -proj only
    | split

theorem execWqReset_kept {s x : State} {a0 a1 a2} (h : Kept s x) :
    ∃ t, execWqReset a0 a1 a2 x = .next t ∧ Kept s t := by
  unfold execWqReset
  repeat' first
    | with_reducible assumption
    | with_reducible refine done_kept ?_
    | with_reducible refine writeTo_kept ?_
    | with_reducible refine ite_kept ?_ ?_
    | with_reducible refine foldl_kept ?_ (fun t a h => ?_)
    | decide
    | dsimp -proj only
    | split

theorem execJoinTrigger_kept {s x : State} {a0 a1} (h : Kept s x) :
    ∃ t, execJoinTrigger a0 a1 x = .next t ∧ Kept s t := by
  unfold execJoinTrigger
  repeat' first
    | with_reducible assumption
    | with_reducible refine done_kept ?_
    | with_reducible refine startJoin_kept ?_
    | with_reducible refine ite_kept ?_ ?_
    | with_reducible refine foldl_kept ?_ (fun t a h => ?_)
    | decide
    | dsimp -proj only
    | split

theorem execLogTokenTick_kept {s x : State} (h : Kept s x) :
    ∃ t, execLogTokenTick x = .next t ∧ Kept s t := by
  unfold execLogTokenTick
  try dsimp -zeta -proj only [upd_nvm]
  repeat' first
    | with_reducible assumption
    | with_reducible refine done_kept ?_
    | with_reducible refine putNvm_kept ?_ ?_
    | with_reducible refine ite_kept ?_ ?_
    | with_reducible refine foldl_kept ?_ (fun t a h => ?_)
    | with_reducible exact NvmSt.setCell_keeps _ _ _
    | with_reducible refine nvm_keeps_of ?_ ?_
    | exact fun h => h
    | rfl
    | decide
    | dsimp -proj only
    | split

theorem execRateDetected_kept {s x : State} {a0 a1 a2} (h : Kept s x) :
    ∃ t, execRateDetected a0 a1 a2 x = .next t ∧ Kept s t := by
  unfold execRateDetected
  repeat' first
    | with_reducible assumption
    | with_reducible refine done_kept ?_
    | with_reducible refine rateSeen_kept ?_
    | with_reducible refine ite_kept ?_ ?_
    | with_reducible refine foldl_kept ?_ (fun t a h => ?_)
    | decide
    | dsimp -proj only
    | split

theorem execLnctlBitslip_kept {s x : State} {a0 a1 a2 a3} (h : Kept s x) :
    ∃ t, execLnctlBitslip a0 a1 a2 a3 x = .next t ∧ Kept s t := by
  unfold execLnctlBitslip
  repeat' first
    | with_reducible assumption
    | with_reducible refine done_kept ?_
    | with_reducible refine writeTo_kept ?_
    | with_reducible refine ite_kept ?_ ?_
    | with_reducible refine foldl_kept ?_ (fun t a h => ?_)
    | decide
    | dsimp -proj only
    | split

theorem execForcedIdleRetrain_kept {s x : State} {a0} (h : Kept s x) :
    ∃ t, execForcedIdleRetrain a0 x = .next t ∧ Kept s t := by
  unfold execForcedIdleRetrain
  repeat' first
    | with_reducible assumption
    | with_reducible refine done_kept ?_
    | with_reducible refine modLink_kept ?_
    | with_reducible refine enterRetrain_kept ?_
    | with_reducible refine ite_kept ?_ ?_
    | with_reducible refine foldl_kept ?_ (fun t a h => ?_)
    | decide
    | dsimp -proj only
    | split

theorem execTwbWriteWord_kept {s x : State} {a0 a1} (h : Kept s x) :
    ∃ t, execTwbWriteWord a0 a1 x = .next t ∧ Kept s t := by
  unfold execTwbWriteWord
  repeat' first
    | with_reducible assumption
    | with_reducible refine modTwb_kept ?_
    | with_reducible refine done_kept ?_
    | with_reducible refine busWrite_kept ?_
    | with_reducible refine upset_kept ?_
    | with_reducible refine ite_kept ?_ ?_
    | with_reducible refine foldl_kept ?_ (fun t a h => ?_)
    | decide
    | dsimp -proj only
    | split

theorem execStoreWrite_kept {s x : State} {a0 a1 a2 a3} (h : Kept s x) :
    ∃ t, execStoreWrite a0 a1 a2 a3 x = .next t ∧ Kept s t := by
  unfold execStoreWrite
  repeat' first
    | with_reducible assumption
    | with_reducible refine done_kept ?_
    | with_reducible refine busWrite_kept ?_
    | with_reducible refine upset_kept ?_
    | with_reducible refine ite_kept ?_ ?_
    | with_reducible refine foldl_kept ?_ (fun t a h => ?_)
    | decide
    | dsimp -proj only
    | split

theorem execWqEnable_kept {s x : State} {a0 a1 a2} (h : Kept s x) :
    ∃ t, execWqEnable a0 a1 a2 x = .next t ∧ Kept s t := by
  unfold execWqEnable
  repeat' first
    | with_reducible assumption
    | with_reducible refine done_kept ?_
    | with_reducible refine writeTo_kept ?_
    | with_reducible refine ite_kept ?_ ?_
    | with_reducible refine foldl_kept ?_ (fun t a h => ?_)
    | decide
    | dsimp -proj only
    | split

theorem execSyncEdge_kept {s x : State} (h : Kept s x) :
    ∃ t, execSyncEdge x = .next t ∧ Kept s t := by
  unfold execSyncEdge
  repeat' first
    | with_reducible assumption
    | with_reducible refine done_kept ?_
    | with_reducible refine syncSeen_kept ?_
    | with_reducible refine ite_kept ?_ ?_
    | with_reducible refine foldl_kept ?_ (fun t a h => ?_)
    | decide
    | dsimp -proj only
    | split

theorem scanRow_kept {s x : State} {a0 a1 a2 a3} (h : Kept s x) :
    Kept s (scanRow x a0 a1 a2 a3) := by
  unfold scanRow
  repeat' first
    | with_reducible assumption
    | with_reducible refine writeHeldScan_kept ?_
    | with_reducible refine keepJob_kept ?_
    | with_reducible refine scanGoesOn_kept ?_
    | with_reducible refine putData_kept ?_
    | with_reducible refine putData_kept_eq ?_ (by with_reducible assumption)
    | with_reducible refine ite_kept ?_ ?_
    | with_reducible refine foldl_kept ?_ (fun t a h => ?_)
    | decide
    | dsimp -proj only
    | split

theorem execAdcSelfCalEnd_kept {s x : State} (h : Kept s x) :
    ∃ t, execAdcSelfCalEnd x = .next t ∧ Kept s t := by
  unfold execAdcSelfCalEnd
  try dsimp -zeta -proj only [upd_cal]
  repeat' first
    | with_reducible assumption
    | with_reducible refine done_kept ?_
    | with_reducible refine resetDecimator_kept ?_
    | with_reducible refine putCal_kept ?_
    | with_reducible refine ite_kept ?_ ?_
    | with_reducible refine foldl_kept ?_ (fun t a h => ?_)
    | decide
    | dsimp -proj only
    | split

theorem execHeaderWrite_kept {s x : State} {a0} (h : Kept s x) :
    ∃ t, execHeaderWrite a0 x = .next t ∧ Kept s t := by
  unfold execHeaderWrite
  repeat' first
    | with_reducible assumption
    | with_reducible refine done_kept ?_
    | with_reducible refine modWq_kept ?_
    | with_reducible refine jobWrite_kept ?_
    | with_reducible refine jobWrite_kept_eq ?_ (by with_reducible assumption)
    | with_reducible refine headerFault_kept ?_
    | with_reducible refine ite_kept ?_ ?_
    | with_reducible refine foldl_kept ?_ (fun t a h => ?_)
    | decide
    | dsimp -proj only
    | split

theorem execTwbWake_kept {s x : State} {a0} (h : Kept s x) :
    ∃ t, execTwbWake a0 x = .next t ∧ Kept s t := by
  unfold execTwbWake
  repeat' first
    | with_reducible assumption
    | with_reducible refine done_kept ?_
    | with_reducible refine addressByte_kept ?_
    | with_reducible refine ite_kept ?_ ?_
    | with_reducible refine foldl_kept ?_ (fun t a h => ?_)
    | decide
    | dsimp -proj only
    | split

theorem execPrbsLockLost_kept {s x : State} {a0 a1} (h : Kept s x) :
    ∃ t, execPrbsLockLost a0 a1 x = .next t ∧ Kept s t := by
  unfold execPrbsLockLost
  repeat' first
    | with_reducible assumption
    | with_reducible refine done_kept ?_
    | with_reducible refine logL_kept ?_
    | with_reducible refine modMeas_kept ?_
    | with_reducible refine modPrbsJob_kept ?_
    | with_reducible refine ite_kept ?_ ?_
    | with_reducible refine foldl_kept ?_ (fun t a h => ?_)
    | decide
    | dsimp -proj only
    | split

theorem execAwlUnit_kept {s x : State} {a0 a1} (h : Kept s x) :
    ∃ t, execAwlUnit a0 a1 x = .next t ∧ Kept s t := by
  unfold execAwlUnit
  repeat' first
    | with_reducible assumption
    | with_reducible refine done_kept ?_
    | with_reducible refine writeTo_kept ?_
    | with_reducible refine ite_kept ?_ ?_
    | with_reducible refine foldl_kept ?_ (fun t a h => ?_)
    | decide
    | dsimp -proj only
    | split

theorem execSequencerTimerTrigger_kept {s x : State} {a0} (h : Kept s x) :
    ∃ t, execSequencerTimerTrigger a0 x = .next t ∧ Kept s t := by
  unfold execSequencerTimerTrigger
  repeat' first
    | with_reducible assumption
    | with_reducible refine done_kept ?_
    | with_reducible refine trigger_kept ?_
    | with_reducible refine trigger_kept_eq ?_ (by with_reducible assumption)
    | with_reducible refine ite_kept ?_ ?_
    | with_reducible refine foldl_kept ?_ (fun t a h => ?_)
    | decide
    | dsimp -proj only
    | split

theorem execEraseResume_kept {s x : State} (h : Kept s x) :
    ∃ t, execEraseResume x = .next t ∧ Kept s t := by
  unfold execEraseResume
  try dsimp -zeta -proj only [upd_nvm]
  repeat' first
    | with_reducible assumption
    | with_reducible refine done_kept ?_
    | with_reducible refine putNvm_kept ?_ ?_
    | with_reducible refine ite_kept ?_ ?_
    | with_reducible refine foldl_kept ?_ (fun t a h => ?_)
    | with_reducible exact NvmSt.setCell_keeps _ _ _
    | with_reducible refine nvm_keeps_of ?_ ?_
    | exact fun h => h
    | rfl
    | decide
    | dsimp -proj only
    | split

theorem execIdlePeriodEnd_kept {s x : State} {a0} (h : Kept s x) :
    ∃ t, execIdlePeriodEnd a0 x = .next t ∧ Kept s t := by
  unfold execIdlePeriodEnd
  repeat' first
    | with_reducible assumption
    | with_reducible refine done_kept ?_
    | with_reducible refine modLink_kept ?_
    | with_reducible refine enterDetect_kept ?_
    | with_reducible refine ite_kept ?_ ?_
    | with_reducible refine foldl_kept ?_ (fun t a h => ?_)
    | decide
    | dsimp -proj only
    | split

theorem execLoopFarEnd_kept {s x : State} {a0 a1 a2 a3} (h : Kept s x) :
    ∃ t, execLoopFarEnd a0 a1 a2 a3 x = .next t ∧ Kept s t := by
  unfold execLoopFarEnd
  repeat' first
    | with_reducible assumption
    | with_reducible refine done_kept ?_
    | with_reducible refine writeTo_kept ?_
    | with_reducible refine ite_kept ?_ ?_
    | with_reducible refine foldl_kept ?_ (fun t a h => ?_)
    | decide
    | dsimp -proj only
    | split

theorem suspendForJob_kept {s x : State} (h : Kept s x) :
    Kept s (suspendForJob x) := by
  unfold suspendForJob
  try dsimp -zeta -proj only [upd_nvm]
  repeat' first
    | with_reducible assumption
    | with_reducible refine setSuspended_kept ?_
    | with_reducible refine keepJob_kept ?_
    | with_reducible refine putNvm_kept ?_ ?_
    | with_reducible refine ite_kept ?_ ?_
    | with_reducible refine foldl_kept ?_ (fun t a h => ?_)
    | with_reducible exact NvmSt.setCell_keeps _ _ _
    | with_reducible refine nvm_keeps_of ?_ ?_
    | exact fun h => h
    | rfl
    | decide
    | dsimp -proj only
    | split

theorem execSpareLockTimer_kept {s x : State} {a0 a1 a2 a3} (h : Kept s x) :
    ∃ t, execSpareLockTimer a0 a1 a2 a3 x = .next t ∧ Kept s t := by
  unfold execSpareLockTimer
  repeat' first
    | with_reducible assumption
    | with_reducible refine done_kept ?_
    | with_reducible refine setSpare_kept ?_
    | with_reducible refine ite_kept ?_ ?_
    | with_reducible refine foldl_kept ?_ (fun t a h => ?_)
    | decide
    | dsimp -proj only
    | split

theorem execJobEnd_kept {s x : State} {a0} (h : Kept s x) :
    ∃ t, execJobEnd a0 x = .next t ∧ Kept s t := by
  unfold execJobEnd
  repeat' first
    | with_reducible assumption
    | with_reducible refine done_kept ?_
    | with_reducible refine ownDone_kept ?_
    | with_reducible refine retireJob_kept ?_
    | with_reducible refine ite_kept ?_ ?_
    | with_reducible refine foldl_kept ?_ (fun t a h => ?_)
    | decide
    | dsimp -proj only
    | split

theorem writePrbs_kept {s x : State} {a0 a1} (h : Kept s x) :
    Kept s (writePrbs x a0 a1) := by
  unfold writePrbs
  repeat' first
    | with_reducible assumption
    | with_reducible refine finishWith_kept ?_
    | with_reducible refine putData_kept ?_
    | with_reducible refine putData_kept_eq ?_ (by with_reducible assumption)
    | with_reducible refine ite_kept ?_ ?_
    | with_reducible refine foldl_kept ?_ (fun t a h => ?_)
    | decide
    | dsimp -proj only
    | split

theorem execPrbsJobDurationEnd_kept {s x : State} {a0 a1} (h : Kept s x) :
    ∃ t, execPrbsJobDurationEnd a0 a1 x = .next t ∧ Kept s t := by
  unfold execPrbsJobDurationEnd
  repeat' first
    | with_reducible assumption
    | with_reducible refine done_kept ?_
    | with_reducible refine stopPrbs_kept ?_
    | with_reducible refine writePrbs_kept ?_
    | with_reducible refine coolIdle_kept ?_
    | with_reducible refine ite_kept ?_ ?_
    | with_reducible refine foldl_kept ?_ (fun t a h => ?_)
    | decide
    | dsimp -proj only
    | split

theorem execEraseSuspend_kept {s x : State} {a0} (h : Kept s x) :
    ∃ t, execEraseSuspend a0 x = .next t ∧ Kept s t := by
  unfold execEraseSuspend
  repeat' first
    | with_reducible assumption
    | with_reducible refine setSuspended_kept ?_
    | with_reducible refine done_kept ?_
    | with_reducible refine ownDone_kept ?_
    | with_reducible refine suspendForJob_kept ?_
    | with_reducible refine ite_kept ?_ ?_
    | with_reducible refine foldl_kept ?_ (fun t a h => ?_)
    | decide
    | dsimp -proj only
    | split

theorem execTwbAddress_kept {s x : State} {a0 a1} (h : Kept s x) :
    ∃ t, execTwbAddress a0 a1 x = .next t ∧ Kept s t := by
  unfold execTwbAddress
  repeat' first
    | with_reducible assumption
    | with_reducible refine done_kept ?_
    | with_reducible refine addressByte_kept ?_
    | with_reducible refine ite_kept ?_ ?_
    | with_reducible refine foldl_kept ?_ (fun t a h => ?_)
    | decide
    | dsimp -proj only
    | split

theorem execDevctlWake_kept {s x : State} {a0 a1} (h : Kept s x) :
    ∃ t, execDevctlWake a0 a1 x = .next t ∧ Kept s t := by
  unfold execDevctlWake
  repeat' first
    | with_reducible assumption
    | with_reducible refine done_kept ?_
    | with_reducible refine writeTo_kept ?_
    | with_reducible refine ite_kept ?_ ?_
    | with_reducible refine foldl_kept ?_ (fun t a h => ?_)
    | decide
    | dsimp -proj only
    | split

theorem execLnkspcmdBack_kept {s x : State} {a0 a1 a2} (h : Kept s x) :
    ∃ t, execLnkspcmdBack a0 a1 a2 x = .next t ∧ Kept s t := by
  unfold execLnkspcmdBack
  repeat' first
    | with_reducible assumption
    | with_reducible refine done_kept ?_
    | with_reducible refine writeTo_kept ?_
    | with_reducible refine ite_kept ?_ ?_
    | with_reducible refine foldl_kept ?_ (fun t a h => ?_)
    | decide
    | dsimp -proj only
    | split

theorem execLnsnapTake_kept {s x : State} {a0 a1 a2 a3} (h : Kept s x) :
    ∃ t, execLnsnapTake a0 a1 a2 a3 x = .next t ∧ Kept s t := by
  unfold execLnsnapTake
  repeat' first
    | with_reducible assumption
    | with_reducible refine done_kept ?_
    | with_reducible refine writeTo_kept ?_
    | with_reducible refine ite_kept ?_ ?_
    | with_reducible refine foldl_kept ?_ (fun t a h => ?_)
    | decide
    | dsimp -proj only
    | split

theorem execLnkctlJoin_kept {s x : State} {a0 a1 a2} (h : Kept s x) :
    ∃ t, execLnkctlJoin a0 a1 a2 x = .next t ∧ Kept s t := by
  unfold execLnkctlJoin
  repeat' first
    | with_reducible assumption
    | with_reducible refine done_kept ?_
    | with_reducible refine writeTo_kept ?_
    | with_reducible refine ite_kept ?_ ?_
    | with_reducible refine foldl_kept ?_ (fun t a h => ?_)
    | decide
    | dsimp -proj only
    | split

theorem execLoopMasterMoved_kept {s x : State} {a0 a1} (h : Kept s x) :
    ∃ t, execLoopMasterMoved a0 a1 x = .next t ∧ Kept s t := by
  unfold execLoopMasterMoved
  repeat' first
    | with_reducible assumption
    | with_reducible refine done_kept ?_
    | with_reducible refine modLink_kept ?_
    | with_reducible refine modRx_kept ?_
    | with_reducible refine logLane_kept ?_
    | with_reducible refine ite_kept ?_ ?_
    | with_reducible refine foldl_kept ?_ (fun t a h => ?_)
    | decide
    | dsimp -proj only
    | split

theorem execCommaReceived_kept {s x : State} {a0 a1 a2} (h : Kept s x) :
    ∃ t, execCommaReceived a0 a1 a2 x = .next t ∧ Kept s t := by
  unfold execCommaReceived
  repeat' first
    | with_reducible assumption
    | with_reducible refine done_kept ?_
    | with_reducible refine lockFollows_kept ?_
    | with_reducible refine modRx_kept ?_
    | with_reducible refine symLossRetrain_kept ?_
    | with_reducible refine ite_kept ?_ ?_
    | with_reducible refine foldl_kept ?_ (fun t a h => ?_)
    | decide
    | dsimp -proj only
    | split

theorem execIdleEntrySetReceived_kept {s x : State} {a0 a1} (h : Kept s x) :
    ∃ t, execIdleEntrySetReceived a0 a1 x = .next t ∧ Kept s t := by
  unfold execIdleEntrySetReceived
  repeat' first
    | with_reducible assumption
    | with_reducible refine done_kept ?_
    | with_reducible refine idleEntry_kept ?_
    | with_reducible refine ite_kept ?_ ?_
    | with_reducible refine foldl_kept ?_ (fun t a h => ?_)
    | decide
    | dsimp -proj only
    | split

theorem execJtagTapReset_kept {s x : State} (h : Kept s x) :
    ∃ t, execJtagTapReset x = .next t ∧ Kept s t := by
  unfold execJtagTapReset
  try dsimp -zeta -proj only [upd_pins_jtag]
  repeat' first
    | with_reducible assumption
    | with_reducible refine done_kept ?_
    | with_reducible refine putPins_kept ?_
    | with_reducible refine putJtag_kept ?_
    | with_reducible refine ite_kept ?_ ?_
    | with_reducible refine foldl_kept ?_ (fun t a h => ?_)
    | decide
    | dsimp -proj only
    | split

theorem execUnrecoveredTimeout_kept {s x : State} {a0 a1 a2} (h : Kept s x) :
    ∃ t, execUnrecoveredTimeout a0 a1 a2 x = .next t ∧ Kept s t := by
  unfold execUnrecoveredTimeout
  repeat' first
    | with_reducible assumption
    | with_reducible refine done_kept ?_
    | with_reducible refine setUnrecovered_kept ?_
    | with_reducible refine ite_kept ?_ ?_
    | with_reducible refine foldl_kept ?_ (fun t a h => ?_)
    | decide
    | dsimp -proj only
    | split

theorem execLoopNearSerial_kept {s x : State} {a0 a1 a2 a3} (h : Kept s x) :
    ∃ t, execLoopNearSerial a0 a1 a2 a3 x = .next t ∧ Kept s t := by
  unfold execLoopNearSerial
  repeat' first
    | with_reducible assumption
    | with_reducible refine done_kept ?_
    | with_reducible refine writeTo_kept ?_
    | with_reducible refine ite_kept ?_ ?_
    | with_reducible refine foldl_kept ?_ (fun t a h => ?_)
    | decide
    | dsimp -proj only
    | split

theorem execJtagBypass_kept {s x : State} {a0} (h : Kept s x) :
    ∃ t, execJtagBypass a0 x = .next t ∧ Kept s t := by
  unfold execJtagBypass
  repeat' first
    | with_reducible assumption
    | with_reducible refine done_kept ?_
    | with_reducible refine jtagLoad_kept ?_
    | with_reducible refine modJtag_kept ?_
    | with_reducible refine ite_kept ?_ ?_
    | with_reducible refine foldl_kept ?_ (fun t a h => ?_)
    | decide
    | dsimp -proj only
    | split

theorem execEyescan_kept {s x : State} {a0 a1 a2} (h : Kept s x) :
    ∃ t, execEyescan a0 a1 a2 x = .next t ∧ Kept s t := by
  unfold execEyescan
  repeat' first
    | with_reducible assumption
    | with_reducible refine done_kept ?_
    | with_reducible refine scanRow_kept ?_
    | with_reducible refine ite_kept ?_ ?_
    | with_reducible refine foldl_kept ?_ (fun t a h => ?_)
    | decide
    | dsimp -proj only
    | split

theorem execAwlLane_kept {s x : State} {a0 a1} (h : Kept s x) :
    ∃ t, execAwlLane a0 a1 x = .next t ∧ Kept s t := by
  unfold execAwlLane
  repeat' first
    | with_reducible assumption
    | with_reducible refine done_kept ?_
    | with_reducible refine writeTo_kept ?_
    | with_reducible refine ite_kept ?_ ?_
    | with_reducible refine foldl_kept ?_ (fun t a h => ?_)
    | decide
    | dsimp -proj only
    | split

theorem execArbitrationLost_kept {s x : State} (h : Kept s x) :
    ∃ t, execArbitrationLost x = .next t ∧ Kept s t := by
  unfold execArbitrationLost
  dsimp -zeta -proj only [upd_boot]
  split
  · have g : Kept s (x.putBoot { x.boot with phase := 1, arbLost := x.boot.arbLost + 1 }) :=
      putBoot_kept h
    refine done_kept ?_
    exact ite_kept (endEeprom_kept g) g
  · exact done_kept h

theorem exec_kept {s x : State} {a0} (h : Kept s x) : ∃ t, exec a0 x = .next t ∧ Kept s t := by
  cases a0 with
  | weltCauseArises c => exact execWeltCauseArises_kept (a0 := c) h
  | weltCauseClears c => exact execWeltCauseClears_kept (a0 := c) h
  | weltOpenConfirmed p => exact execWeltOpenConfirmed_kept (a0 := p) h
  | chargePumpReady => exact execChargePumpReady_kept h
  | railValid r => exact execRailValid_kept (a0 := r) h
  | railInvalid r => exact execRailInvalid_kept (a0 := r) h
  | supplyOutOfWindow r => exact execSupplyOutOfWindow_kept (a0 := r) h
  | resetNPulse => exact execResetNPulse_kept h
  | bypNPulse => exact execBypNPulse_kept h
  | resetRelease st => exact execResetRelease_kept (a0 := st) h
  | testEnHigh => exact execTestEnHigh_kept h
  | lastSelection => exact execLastSelection_kept h
  | eepromTransfer r => exact execEepromTransfer_kept (a0 := r) h
  | arbitrationLost => exact execArbitrationLost_kept h
  | globalApply => exact execGlobalApply_kept h
  | bootCalibration m => exact execBootCalibration_kept (a0 := m) h
  | bootDone => exact execBootDone_kept h
  | calrecWrite ok => exact execCalrecWrite_kept (a0 := ok) h
  | joinTrigger l k => exact execJoinTrigger_kept (a0 := l) (a1 := k) h
  | joinTimeout l => exact execJoinTimeout_kept (a0 := l) h
  | lnkctlJoin c l v => exact execLnkctlJoin_kept (a0 := c) (a1 := l) (a2 := v) h
  | lnkctlAside c l v => exact execLnkctlAside_kept (a0 := c) (a1 := l) (a2 := v) h
  | devctlAside c v => exact execDevctlAside_kept (a0 := c) (a1 := v) h
  | devctlStandby c v => exact execDevctlStandby_kept (a0 := c) (a1 := v) h
  | standbyEntered => exact execStandbyEntered_kept h
  | devctlWake c v => exact execDevctlWake_kept (a0 := c) (a1 := v) h
  | standbyExitDone => exact execStandbyExitDone_kept h
  | devctlThermRearm c v => exact execDevctlThermRearm_kept (a0 := c) (a1 := v) h
  | thermalSample t => exact execThermalSample_kept (a0 := t) h
  | lastStage m e => exact execLastStage_kept (a0 := m) (a1 := e) h
  | commit c v => exact execCommit_kept (a0 := c) (a1 := v) h
  | discard c v => exact execDiscard_kept (a0 := c) (a1 := v) h
  | linkSwitchInstant l => exact execLinkSwitchInstant_kept (a0 := l) h
  | skipAbsent l => exact execSkipAbsent_kept (a0 := l) h
  | idlePeriodEnd l => exact execIdlePeriodEnd_kept (a0 := l) h
  | commitRollback l => exact execCommitRollback_kept (a0 := l) h
  | padSetPasses l d => exact execPadSetPasses_kept (a0 := l) (a1 := d) h
  | epochUnsent l d => exact execEpochUnsent_kept (a0 := l) (a1 := d) h
  | rateDetected sd p r => exact execRateDetected_kept (a0 := sd) (a1 := p) (a2 := r) h
  | cdrLockGained sd p => exact execCdrLockGained_kept (a0 := sd) (a1 := p) h
  | cdrLockLost sd p => exact execCdrLockLost_kept (a0 := sd) (a1 := p) h
  | commaReceived sd p ph => exact execCommaReceived_kept (a0 := sd) (a1 := p) (a2 := ph) h
  | rxCodeGroup sd p g reads => exact execRxCodeGroup_kept (a0 := sd) (a1 := p) (a2 := g) (a3 := reads) h
  | lnctlRecentre c sd p v => exact execLnctlRecentre_kept (a0 := c) (a1 := sd) (a2 := p) (a3 := v) h
  | lnctlBitslip c sd p v => exact execLnctlBitslip_kept (a0 := c) (a1 := sd) (a2 := p) (a3 := v) h
  | skipSetArrives sd p k => exact execSkipSetArrives_kept (a0 := sd) (a1 := p) (a2 := k) h
  | skipRateWindow => exact execSkipRateWindow_kept h
  | loopMasterMoved l d => exact execLoopMasterMoved_kept (a0 := l) (a1 := d) h
  | swingLimit sd p c => exact execSwingLimit_kept (a0 := sd) (a1 := p) (a2 := c) h
  | swingRaise sd p room => exact execSwingRaise_kept (a0 := sd) (a1 := p) (a2 := room) h
  | lntxdrvWrite c sd p v => exact execLntxdrvWrite_kept (a0 := c) (a1 := sd) (a2 := p) (a3 := v) h
  | trimRampStep sd p t => exact execTrimRampStep_kept (a0 := sd) (a1 := p) (a2 := t) h
  | lnsnapTake c sd p v => exact execLnsnapTake_kept (a0 := c) (a1 := sd) (a2 := p) (a3 := v) h
  | lnsnapRelease c sd p v => exact execLnsnapRelease_kept (a0 := c) (a1 := sd) (a2 := p) (a3 := v) h
  | snapshotExpiry sd p => exact execSnapshotExpiry_kept (a0 := sd) (a1 := p) h
  | sidePllLoss q => exact execSidePllLoss_kept (a0 := q) h
  | corePllLoss => exact execCorePllLoss_kept h
  | pllRelockAttempt q ok => exact execPllRelockAttempt_kept (a0 := q) (a1 := ok) h
  | receiverDetect l sd mask => exact execReceiverDetect_kept (a0 := l) (a1 := sd) (a2 := mask) h
  | trainingSetReceived l sd k t => exact execTrainingSetReceived_kept (a0 := l) (a1 := sd) (a2 := k) (a3 := t) h
  | rateDiscard l => exact execRateDiscard_kept (a0 := l) h
  | trainTimeout l => exact execTrainTimeout_kept (a0 := l) h
  | presetSearchStep sd p o => exact execPresetSearchStep_kept (a0 := sd) (a1 := p) (a2 := o) h
  | lnkctlRetrain c l v => exact execLnkctlRetrain_kept (a0 := c) (a1 := l) (a2 := v) h
  | forcedIdleRetrain l => exact execForcedIdleRetrain_kept (a0 := l) h
  | electricalIdleDetected sd p => exact execElectricalIdleDetected_kept (a0 := sd) (a1 := p) h
  | lnkctlDisable c l v => exact execLnkctlDisable_kept (a0 := c) (a1 := l) (a2 := v) h
  | lnkctlClrRetrains c l v => exact execLnkctlClrRetrains_kept (a0 := c) (a1 := l) (a2 := v) h
  | idleEntrySetReceived l d => exact execIdleEntrySetReceived_kept (a0 := l) (a1 := d) h
  | sleepWake l sd => exact execSleepWake_kept (a0 := l) (a1 := sd) h
  | wakeFail l => exact execWakeFail_kept (a0 := l) h
  | deepEntryTimeout l => exact execDeepEntryTimeout_kept (a0 := l) h
  | lpGrantSeen l st => exact execLpGrantSeen_kept (a0 := l) (a1 := st) h
  | lpReqIdle l st => exact execLpReqIdle_kept (a0 := l) (a1 := st) h
  | unrecoveredTimeout l d k => exact execUnrecoveredTimeout_kept (a0 := l) (a1 := d) (a2 := k) h
  | spareLockTimer l n d locked => exact execSpareLockTimer_kept (a0 := l) (a1 := n) (a2 := d) (a3 := locked) h
  | spareRspReceived l sd r => exact execSpareRspReceived_kept (a0 := l) (a1 := sd) (a2 := r) h
  | spareMosForwarded l r => exact execSpareMosForwarded_kept (a0 := l) (a1 := r) h
  | swapTimeout l => exact execSwapTimeout_kept (a0 := l) h
  | spareRetry l => exact execSpareRetry_kept (a0 := l) h
  | predictiveEvaluation => exact execPredictiveEvaluation_kept h
  | lnkspcmdSwap c l v => exact execLnkspcmdSwap_kept (a0 := c) (a1 := l) (a2 := v) h
  | lnkspcmdBack c l v => exact execLnkspcmdBack_kept (a0 := c) (a1 := l) (a2 := v) h
  | lnklossUncap c l v => exact execLnklossUncap_kept (a0 := c) (a1 := l) (a2 := v) h
  | prbsGenEnable c sd p v => exact execPrbsGenEnable_kept (a0 := c) (a1 := sd) (a2 := p) (a3 := v) h
  | prbsChkEnable c sd p v => exact execPrbsChkEnable_kept (a0 := c) (a1 := sd) (a2 := p) (a3 := v) h
  | prbsInject c sd p v => exact execPrbsInject_kept (a0 := c) (a1 := sd) (a2 := p) (a3 := v) h
  | prbsCheckerLock sd p => exact execPrbsCheckerLock_kept (a0 := sd) (a1 := p) h
  | prbsLockLost sd p => exact execPrbsLockLost_kept (a0 := sd) (a1 := p) h
  | counterClr c sd p v => exact execCounterClr_kept (a0 := c) (a1 := sd) (a2 := p) (a3 := v) h
  | lnscanStart c sd p v => exact execLnscanStart_kept (a0 := c) (a1 := sd) (a2 := p) (a3 := v) h
  | scanPointDone sd p n => exact execScanPointDone_kept (a0 := sd) (a1 := p) (a2 := n) h
  | eyeSweepEnd sd p w h0 => exact execEyeSweepEnd_kept (a0 := sd) (a1 := p) (a2 := w) (a3 := h0) h
  | trainingSweepEnd sd p w h0 => exact execTrainingSweepEnd_kept (a0 := sd) (a1 := p) (a2 := w) (a3 := h0) h
  | loopNearSerial c sd p v => exact execLoopNearSerial_kept (a0 := c) (a1 := sd) (a2 := p) (a3 := v) h
  | loopNearParallel c sd p v => exact execLoopNearParallel_kept (a0 := c) (a1 := sd) (a2 := p) (a3 := v) h
  | loopFarEnd c sd p v => exact execLoopFarEnd_kept (a0 := c) (a1 := sd) (a2 := p) (a3 := v) h
  | loopOff c sd p v => exact execLoopOff_kept (a0 := c) (a1 := sd) (a2 := p) (a3 := v) h
  | calcmdGo c v => exact execCalcmdGo_kept (a0 := c) (a1 := v) h
  | calcmdSave c v => exact execCalcmdSave_kept (a0 := c) (a1 := v) h
  | recalEvaluation => exact execRecalEvaluation_kept h
  | recalStep last => exact execRecalStep_kept (a0 := last) h
  | recalAborted => exact execRecalAborted_kept h
  | adcSelfCal => exact execAdcSelfCal_kept h
  | adcSelfCalEnd => exact execAdcSelfCalEnd_kept h
  | twbAddress a rd => exact execTwbAddress_kept (a0 := a) (a1 := rd) h
  | twbWriteWord v e => exact execTwbWriteWord_kept (a0 := v) (a1 := e) h
  | twbReadWord e => exact execTwbReadWord_kept (a0 := e) h
  | twbStartStop k extra => exact execTwbStartStop_kept (a0 := k) (a1 := extra) h
  | twbLate => exact execTwbLate_kept h
  | twbWake a => exact execTwbWake_kept (a0 := a) h
  | twbSleep => exact execTwbSleep_kept h
  | twbSclLow extra => exact execTwbSclLow_kept (a0 := extra) h
  | twbSdaLow extra => exact execTwbSdaLow_kept (a0 := extra) h
  | mosReceived l sd m e => exact execMosReceived_kept (a0 := l) (a1 := sd) (a2 := m) (a3 := e) h
  | mosRd l sd seq a two e => exact execMosRd_kept (a0 := l) (a1 := sd) (a2 := seq) (a3 := a) (a4 := two) (a5 := e) h
  | mosWr l sd seq a v e => exact execMosWr_kept (a0 := l) (a1 := sd) (a2 := seq) (a3 := a) (a4 := v) (a5 := e) h
  | notifyRepeat => exact execNotifyRepeat_kept h
  | jtagExtest => exact execJtagExtest_kept h
  | jtagIdcode => exact execJtagIdcode_kept h
  | jtagSamplePreload => exact execJtagSamplePreload_kept h
  | jtagExtestPulse => exact execJtagExtestPulse_kept h
  | jtagExtestTrain => exact execJtagExtestTrain_kept h
  | jtagHighz => exact execJtagHighz_kept h
  | jtagClamp => exact execJtagClamp_kept h
  | jtagBypass op => exact execJtagBypass_kept (a0 := op) h
  | jtagTapReset => exact execJtagTapReset_kept h
  | storeRead c a e => exact execStoreRead_kept (a0 := c) (a1 := a) (a2 := e) h
  | storeWrite c a v e => exact execStoreWrite_kept (a0 := c) (a1 := a) (a2 := v) (a3 := e) h
  | windowEntryWrite c t pg v => exact execWindowEntryWrite_kept (a0 := c) (a1 := t) (a2 := pg) (a3 := v) h
  | winctlSync c v => exact execWinctlSync_kept (a0 := c) (a1 := v) h
  | syncBarrierDone c => exact execSyncBarrierDone_kept (a0 := c) h
  | scrubLine e => exact execScrubLine_kept (a0 := e) h
  | ceRateHour => exact execCeRateHour_kept h
  | storeCeClr c v => exact execStoreCeClr_kept (a0 := c) (a1 := v) h
  | wqEnable c q v => exact execWqEnable_kept (a0 := c) (a1 := q) (a2 := v) h
  | wqDisable c q v => exact execWqDisable_kept (a0 := c) (a1 := q) (a2 := v) h
  | wqReset c q v => exact execWqReset_kept (a0 := c) (a1 := q) (a2 := v) h
  | wqDoorbell c q v => exact execWqDoorbell_kept (a0 := c) (a1 := q) (a2 := v) h
  | entryPrefetch q e => exact execEntryPrefetch_kept (a0 := q) (a1 := e) h
  | headerWrite q => exact execHeaderWrite_kept (a0 := q) h
  | jobStart u heel => exact execJobStart_kept (a0 := u) (a1 := heel) h
  | preemptFlushDone m e => exact execPreemptFlushDone_kept (a0 := m) (a1 := e) h
  | jobEnd u => exact execJobEnd_kept (a0 := u) h
  | completionWrite q => exact execCompletionWrite_kept (a0 := q) h
  | drainComplete q => exact execDrainComplete_kept (a0 := q) h
  | cqEnable c q v => exact execCqEnable_kept (a0 := c) (a1 := q) (a2 := v) h
  | cqDisable c q v => exact execCqDisable_kept (a0 := c) (a1 := q) (a2 := v) h
  | cqheadWrite c q v => exact execCqheadWrite_kept (a0 := c) (a1 := q) (a2 := v) h
  | nop q => exact execNop_kept (a0 := q) h
  | fence q => exact execFence_kept (a0 := q) h
  | move m e => exact execMove_kept (a0 := m) (a1 := e) h
  | capture sd => exact execCapture_kept (a0 := sd) h
  | captureTrigger sd ln => exact execCaptureTrigger_kept (a0 := sd) (a1 := ln) h
  | captureStop sd => exact execCaptureStop_kept (a0 := sd) h
  | captureTimeout sd => exact execCaptureTimeout_kept (a0 := sd) h
  | captureLostPage sd => exact execCaptureLostPage_kept (a0 := sd) h
  | eyescan sd p row => exact execEyescan_kept (a0 := sd) (a1 := p) (a2 := row) h
  | eyescanLockTimeout sd p => exact execEyescanLockTimeout_kept (a0 := sd) (a1 := p) h
  | prbsJob sd p => exact execPrbsJob_kept (a0 := sd) (a1 := p) h
  | prbsJobInject sd p => exact execPrbsJobInject_kept (a0 := sd) (a1 := p) h
  | prbsJobDurationEnd sd p => exact execPrbsJobDurationEnd_kept (a0 := sd) (a1 := p) h
  | nvmRead e => exact execNvmRead_kept (a0 := e) h
  | nvmProgram e => exact execNvmProgram_kept (a0 := e) h
  | nvmUnitProgrammed ok => exact execNvmUnitProgrammed_kept (a0 := ok) h
  | nvmErase => exact execNvmErase_kept h
  | nvmSectorErased ok => exact execNvmSectorErased_kept (a0 := ok) h
  | eraseSuspend w => exact execEraseSuspend_kept (a0 := w) h
  | eraseResume => exact execEraseResume_kept h
  | telemetry m => exact execTelemetry_kept (a0 := m) h
  | imcSend => exact execImcSend_kept h
  | imcNoSlot => exact execImcNoSlot_kept h
  | wqResume c q v => exact execWqResume_kept (a0 := c) (a1 := q) (a2 := v) h
  | awlQueue c q => exact execAwlQueue_kept (a0 := c) (a1 := q) h
  | awlJob c q tag => exact execAwlJob_kept (a0 := c) (a1 := q) (a2 := tag) h
  | awlUnit c sel => exact execAwlUnit_kept (a0 := c) (a1 := sel) h
  | awlLane c sel => exact execAwlLane_kept (a0 := c) (a1 := sel) h
  | awlAll c => exact execAwlAll_kept (a0 := c) h
  | awlDone => exact execAwlDone_kept h
  | nvmWindowRead c off e => exact execNvmWindowRead_kept (a0 := c) (a1 := off) (a2 := e) h
  | nvmLogWrite ok => exact execNvmLogWrite_kept (a0 := ok) h
  | logTokenTick => exact execLogTokenTick_kept h
  | nvmctlCeClr c v => exact execNvmctlCeClr_kept (a0 := c) (a1 := v) h
  | sequencerTimerTrigger n => exact execSequencerTimerTrigger_kept (a0 := n) h
  | decimatorOutput v => exact execDecimatorOutput_kept (a0 := v) h
  | syncEdge => exact execSyncEdge_kept h
  | tmseqctlRestart c n v => exact execTmseqctlRestart_kept (a0 := c) (a1 := n) (a2 := v) h
  | dtimeLoadNow c v => exact execDtimeLoadNow_kept (a0 := c) (a1 := v) h
  | dtimeLoRead c => exact execDtimeLoRead_kept (a0 := c) h
  | dtrateWrite c v => exact execDtrateWrite_kept (a0 := c) (a1 := v) h
  | heelWatchdogTrip => exact execHeelWatchdogTrip_kept h
  | weltMismatch p stuckOpen => exact execWeltMismatch_kept (a0 := p) (a1 := stuckOpen) h
  | regReadClear c a e => exact execRegReadClear_kept (a0 := c) (a1 := a) (a2 := e) h
  | regWrite c a v e => exact execRegWrite_kept (a0 := c) (a1 := a) (a2 := v) (a3 := e) h
  | signalDetected sd p => exact execSignalDetected_kept (a0 := sd) (a1 := p) h
  | vioSplitThreshold => exact execVioSplitThreshold_kept h
  | supplyInWindow r => exact execSupplyInWindow_kept (a0 := r) h

theorem readLog_kept_eq {s x : State} {r u} (h : Kept s x) (e : readLog x = (r, u)) :
    Kept s u := by
  simpa only [e] using readLog_kept (s := s) (x := x) h

theorem step_kept {s x : State} (h : Kept s x) : ∃ t, step x = .next t ∧ Kept s t := by
  unfold step
  dsimp -zeta -proj only [upd_pending]
  split
  · exact exec_kept (putPending_kept h)
  · exact ⟨tick x, rfl, Kept.of_keeps (fun k hk => tick_keeps hk (k.same_refl _)) (by decide) h⟩

end Sys2Proof.Machine
end

