-- ==== Sys2Proof/Laws/Settled.lean ====
section
/-! SUPPORT. What follows from every command alike has been done once the command has (fin), and does nothing more to a
state in which it has. -/

namespace Sys2Proof.Machine

/-- In a settled state nothing is left to follow. -/
theorem fin_settled {s : State} (h : s.settled = true) : fin s = s := by
  simp only [State.settled, Bool.and_eq_true, Bool.not_eq_true', beq_iff_eq] at h
  obtain ⟨⟨h1, h2⟩, h3⟩ := h
  have hu : unholdErase s = s := by
    unfold unholdErase
    rw [h2]
    rfl
  unfold fin
  rw [if_neg (by simp [h1]), hu]
  unfold watchAttn
  dsimp only
  rw [h3, Bool.and_not_self, if_neg Bool.false_ne_true, ← h3]

theorem done_settled {s : State} (h : s.settled = true) : done s = .next s := by
  unfold done
  rw [fin_settled h]

/-- ATTN_N follows the events, the completion queues, the end of boot phase 0x2 and HIGHZ alone. -/
theorem attnLow_congr {s t : State} (hb : t.boot = s.boot) (hj : t.jtag = s.jtag) (he : t.evt = s.evt)
    (hc : t.cqs = s.cqs) : attnLow t = attnLow s := by
  unfold attnLow attnSrc evtMask cqBits
  rw [hb, hj, he, hc]

/-- A state that differs from a settled one elsewhere is settled. -/
theorem settled_congr {s t : State} (hb : t.boot = s.boot) (hj : t.jtag = s.jtag) (he : t.evt = s.evt)
    (hc : t.cqs = s.cqs) (hh : t.heel = s.heel) (hu : t.units = s.units) (hi : t.imc = s.imc) :
    t.settled = s.settled := by
  unfold State.settled
  rw [hh, hu, hi, attnLow_congr hb hj he hc]

/-- After every command the state is settled. -/
theorem settled_fin (s : State) : (fin s).settled = true := by
  have hq : ∀ (x : State) (k : Comp), k ∉ [Comp.free, .imc, .links] → k.same x (queueNotify (queueNotify x .A) .B) :=
    fun x k hk => queueNotify_keeps (not_mem_of_subset hk (by decide))
      (queueNotify_keeps (not_mem_of_subset hk (by decide)) (k.same_refl x))
  have hw : ∀ x : State, x.heel.restartDue = false → (x.units.nvm.isNone && x.units.held.isSome) = false →
      (watchAttn x).settled = true := by
    intro x hr hu
    unfold watchAttn
    dsimp only
    split
    · have e := fun k hk => hq x k hk
      generalize queueNotify (queueNotify x .A) .B = y at e ⊢
      unfold State.settled
      have ea : attnLow y = attnLow x :=
        attnLow_congr (e .boot (by decide)) (e .jtag (by decide)) (e .evt (by decide)) (e .cqs (by decide))
      have e1 : y.heel = x.heel := e .heel (by decide)
      have e2 : y.units = x.units := e .units (by decide)
      have eb : attnLow { y with imc := { y.imc with attnWas := attnLow x } } = attnLow x :=
        (attnLow_congr rfl rfl rfl rfl).trans ea
      rw [eb]
      simp [e1, e2, hr, hu]
    · unfold State.settled
      rw [attnLow_congr (t := { x with imc := { x.imc with attnWas := attnLow x } }) (s := x) rfl rfl rfl rfl]
      simp [hr, hu]
  have hr : (if s.heel.restartDue then restartHeel s else s).heel.restartDue = false := by
    split
    · rfl
    · simp_all
  unfold fin
  generalize (if s.heel.restartDue then restartHeel s else s) = x at hr ⊢
  apply hw
  · unfold unholdErase
    split <;> exact hr
  · unfold unholdErase
    split
    · simp
    · simp_all

end Sys2Proof.Machine
end

