-- ==== Sys2Proof/Laws/Access.lean ====
section
/-! SUPPORT. The address map read back, and what an access to a named register comes to (R475, R484). -/

namespace Sys2Proof.Machine

/-- The address range of the Windows' registers (Table 18-1). -/
theorem decode_windows {a : Word} (lo : 0x70000 ≤ a.toNat / 4 * 4) (hi : a.toNat / 4 * 4 < 0x80000) :
    decodeAddr a = regOr (windowReg (a.toNat / 4 * 4 - 0x70000)) 7 .core := by
  unfold decodeAddr
  generalize a.toNat / 4 * 4 = n at lo hi
  have below : ∀ m, m ≤ 0x70000 → ¬ n < m := fun m h => by omega
  simp only [below _ (Nat.le_refl _), hi, if_false, if_true, below 0x10000, below 0x20000, below 0x32000, below 0x40000,
    below 0x52000, below 0x60000, below 0x62000, Nat.reduceLeDiff]

theorem decode_winentry (t : WinCtx) (pg : Fin 4096) :
    decodeAddr (regAddr (.winentry t pg)) = .reg (.winentry t pg) 7 := by
  have hn : (regAddr (.winentry t pg)).toNat / 4 * 4 = 0x74000 + 0x4000 * t.val + 4 * pg.val := by
    have h1 := t.isLt
    have h2 := pg.isLt
    simp only [regAddr, regAddrNat, BitVec.toNat_ofNat]
    omega
  have h1 := t.isLt
  have h2 := pg.isLt
  rw [decode_windows (by omega) (by omega), hn]
  unfold windowReg
  rw [if_pos (by omega)]
  have e1 : (0x74000 + 0x4000 * t.val + 4 * pg.val - 0x70000 - 0x4000) / 0x4000 = t.val := by omega
  have e2 : (0x74000 + 0x4000 * t.val + 4 * pg.val - 0x70000) % 0x4000 / 4 = pg.val := by omega
  rw [e1, e2]
  have f1 : (Fin.ofNat 3 t.val : Fin 3) = t := Fin.ext (Nat.mod_eq_of_lt h1)
  have f2 : (Fin.ofNat 4096 pg.val : Fin 4096) = pg := Fin.ext (Nat.mod_eq_of_lt h2)
  rw [f1, f2]
  rfl

/-- A register's address decodes to it (R475). -/
theorem decode_regAddr (r : Reg) : decodeAddr (regAddr r) = .reg r (regBit r) := by
  cases r with
  | winentry t pg => exact decode_winentry t pg
  | lndfe sd p k => cases sd <;> (revert p k; decide +kernel)
  | lnctl sd p => cases sd <;> (revert p; decide +kernel)
  | lnstat sd p => cases sd <;> (revert p; decide +kernel)
  | lnsnap sd p => cases sd <;> (revert p; decide +kernel)
  | lneq sd p => cases sd <;> (revert p; decide +kernel)
  | lntxdrv sd p => cases sd <;> (revert p; decide +kernel)
  | lnskpadd sd p => cases sd <;> (revert p; decide +kernel)
  | lnskpdel sd p => cases sd <;> (revert p; decide +kernel)
  | lneye sd p => cases sd <;> (revert p; decide +kernel)
  | lnscan sd p => cases sd <;> (revert p; decide +kernel)
  | lnscancnt sd p => cases sd <;> (revert p; decide +kernel)
  | lnprbs sd p => cases sd <;> (revert p; decide +kernel)
  | lnprbsusr sd p => cases sd <;> (revert p; decide +kernel)
  | lnloop sd p => cases sd <;> (revert p; decide +kernel)
  | lnerrcnt sd p => cases sd <;> (revert p; decide +kernel)
  | lnsymcntLo sd p => cases sd <;> (revert p; decide +kernel)
  | lnsymcntHi sd p => cases sd <;> (revert p; decide +kernel)
  | lncal sd p => cases sd <;> (revert p; decide +kernel)
  | lncalt sd p => cases sd <;> (revert p; decide +kernel)
  | lnkctl l => revert l; decide +kernel
  | lnkstat l => revert l; decide +kernel
  | lnktrn l => revert l; decide +kernel
  | lnkcap l => revert l; decide +kernel
  | lnkspare l => revert l; decide +kernel
  | lnkerr l => revert l; decide +kernel
  | lnkepoch l => revert l; decide +kernel
  | lnkspcmd l => revert l; decide +kernel
  | lnkloss l => revert l; decide +kernel
  | wqctl q => revert q; decide +kernel
  | wqstat q => revert q; decide +kernel
  | wqdb q => revert q; decide +kernel
  | wqerr q => revert q; decide +kernel
  | wqhdr q => revert q; decide +kernel
  | wqheld q k => revert q k; decide +kernel
  | cqctl m => revert m; decide +kernel
  | cqstat m => revert m; decide +kernel
  | cqhead m => revert m; decide +kernel
  | cqbase m => revert m; decide +kernel
  | ctxslot k => revert k; decide +kernel
  | ctxflt k i => revert k i; decide +kernel
  | winctl c => revert c; decide +kernel
  | winerr c => revert c; decide +kernel
  | winerrva c => revert c; decide +kernel
  | tmseqctl n => revert n; decide +kernel
  | tmch k => revert k; decide +kernel
  | tmthresh k => revert k; decide +kernel
  | awlout k => revert k; decide +kernel
  | imccnt sd => cases sd <;> decide
  | devid | devctl | devstat | evtstat | evtmask | attnsrc | faultsrc | evtcnt | evtseq | awlcmd
  | awlstat | lastcmd | laststat | lastdiff | lastlink | lastboot | calcmd | calstat | dtimeLo | dtimeHi
  | syncctl | dtrate | dtloadLo | dtloadHi | dtsyncLo | dtsyncHi | ctxstat | storestat | storece | storeuea
  | storescrub | nvmctl | nvmstat | nvmaddr | nvmwsel | nvmwear | nvmlog | tmstat | tmmiss | twbctl
  | twbstat | imcctl | imcstat => decide

/-- Two registers have two addresses. -/
theorem regAddr_inj {r q : Reg} (h : regAddr r = regAddr q) : r = q := by
  have e := decode_regAddr r
  rw [h, decode_regAddr q] at e
  exact (Target.reg.inj e).1.symm

theorem busWrite_opens {s : State} {c : Ctx} {r : Reg} (v : Word) (h : opens s c r) :
    busWrite s c (regAddr r) v = writeReg s c r v := by
  obtain ⟨h1, h2, h3⟩ := h
  unfold busWrite accessWrite writeOpen
  rw [if_pos h1, if_pos h2, decode_regAddr]
  dsimp only
  rw [if_neg (by simp), show (Target.reg r (regBit r)).island = regIsland r from rfl, h3, if_neg Bool.false_ne_true]

theorem writeTo_opens {s : State} {c : Ctx} {r : Reg} (v : Word) (h : opens s c r) : writeTo s c r v = writeReg s c r v :=
  busWrite_opens v h

theorem busRead_shows {s : State} {c : Ctx} {r : Reg} (h : shows s c r) :
    busRead s c (regAddr r) = keepRead c (readReg s c r) := by
  obtain ⟨h1, h2, h3⟩ := h
  unfold busRead accessRead readOpen
  rw [if_pos h1, if_pos h2, decode_regAddr]
  dsimp only
  rw [if_neg (by simp), show (Target.reg r (regBit r)).island = regIsland r from rfl, h3, if_neg Bool.false_ne_true]

/-- The virtual window of the Store begins at 0x02000000 (R304, R317). -/
theorem decode_virtualAt (a : BitVec 24) : decodeAddr (virtualAt a) = .virtual_ (a.toNat / 4 * 4) := by
  have h : (virtualAt a).toNat = 0x2000000 + a.toNat := by
    unfold virtualAt
    rw [BitVec.toNat_add, BitVec.toNat_setWidth]
    have := a.isLt
    simp
    omega
  have l := a.isLt
  have m : (virtualAt a).toNat / 4 * 4 = 0x2000000 + a.toNat / 4 * 4 := by omega
  unfold decodeAddr
  rw [m]
  generalize a.toNat / 4 * 4 = n at *
  have k : n < 0x1000000 := by omega
  dsimp only
  repeat rw [if_neg (by omega)]
  rw [if_pos (by omega), show 0x2000000 + n - 0x2000000 = n by omega]

end Sys2Proof.Machine
end

