-- ==== Sys2Proof/Laws/Ring.lean ====
section
/-! SUPPORT. The operations that write nothing in the Store but the event ring: every byte elsewhere stays. -/

namespace Sys2Proof.Machine

theorem RingOnly.refl (s : State) : RingOnly s s := fun _ _ => rfl

theorem StoreSt.RingOnly.trans {a b c : StoreSt} (h : a.RingOnly b) (g : b.RingOnly c) : a.RingOnly c :=
  fun pa o => (g pa o).trans (h pa o)

theorem RingOnly.of_keeps {s x y : State} {l : List Comp} (g : ∀ k : Comp, k ∉ l → k.same x y) (d : Comp.store ∉ l)
    (h : RingOnly s x) : RingOnly s y := by
  have e : y.store = x.store := g .store d
  unfold RingOnly
  rw [e]
  exact h

theorem ite_ring {s a b : State} {c : Prop} {_ : Decidable c} (ha : RingOnly s a) (hb : RingOnly s b) :
    RingOnly s (if c then a else b) := by
  split
  · exact ha
  · exact hb

theorem getD_ring {s d : State} {o : Option State} (ho : ∀ u, o = some u → RingOnly s u) (hd : RingOnly s d) :
    RingOnly s (o.getD d) := by
  cases o with
  | none => exact hd
  | some u => exact ho u rfl

theorem foldl_ring {α : Type} {s x : State} {f : State → α → State} {l : List α} (h : RingOnly s x)
    (hf : ∀ t a, RingOnly s t → RingOnly s (f t a)) : RingOnly s (l.foldl f x) := by
  induction l generalizing x with
  | nil => exact h
  | cons a r ih => exact ih (hf x a h)

theorem putStore_ring {s x : State} {v : StoreSt} (h : RingOnly s x) (g : x.store.RingOnly v) : RingOnly s (x.putStore v) :=
  StoreSt.RingOnly.trans h g

/-- The state that a candidate carries agrees outside the ring. -/
def Candidate.ring (s : State) (c : Candidate) : Prop := ∀ i t, c = .member i t → RingOnly s t

theorem bytesLE_length (n v : Nat) : (bytesLE n v).length = n := by
  induction n generalizing v with
  | zero => rfl
  | succ n ih => simp [bytesLE, ih]

theorem EvRec.bytes_length (r : EvRec) : r.bytes.length = 32 := by
  unfold EvRec.bytes padTo zeros
  simp only [List.length_append, bytesLE_length, List.length_take, List.length_replicate, List.length_cons, List.length_nil]
  omega

/-- A write within one line changes bytes of that line alone. -/
theorem StoreSt.writeLine_other (m : StoreSt) (pa a : Nat) (bs : List Byte) (h : a / 64 ≠ pa / 64)
    (hp : pa % 64 + bs.length ≤ 64) : (m.writeLine pa bs).byteAt a = m.byteAt a := by
  have hz : (zeros 64).length = 64 := List.length_replicate
  unfold StoreSt.writeLine StoreSt.byteAt lineOf
  dsimp only
  rw [putBytes_other _ _ _ _ (by omega)]
  split
  · unfold zeroLine
    rw [putBytes_other _ _ _ _ (by rw [hz]; omega)]
  · rfl

theorem putPins_ring {s x : State} {v : Pins} (h : RingOnly s x) : RingOnly s (x.putPins v) := h

theorem putPower_ring {s x : State} {v : Power} (h : RingOnly s x) : RingOnly s (x.putPower v) := h

theorem putBoot_ring {s x : State} {v : Boot} (h : RingOnly s x) : RingOnly s (x.putBoot v) := h

theorem putDev_ring {s x : State} {v : Dev} (h : RingOnly s x) : RingOnly s (x.putDev v) := h

theorem putWelt_ring {s x : State} {v : WeltSt} (h : RingOnly s x) : RingOnly s (x.putWelt v) := h

theorem putTherm_ring {s x : State} {v : Thermal} (h : RingOnly s x) : RingOnly s (x.putTherm v) := h

theorem putEvt_ring {s x : State} {v : EvtSt} (h : RingOnly s x) : RingOnly s (x.putEvt v) := h

theorem putHeel_ring {s x : State} {v : HeelSt} (h : RingOnly s x) : RingOnly s (x.putHeel v) := h

theorem putLanes_ring {s x : State} {v : Vector Lane 36} (h : RingOnly s x) : RingOnly s (x.putLanes v) := h

theorem putLinks_ring {s x : State} {v : Vector Link 8} (h : RingOnly s x) : RingOnly s (x.putLinks v) := h

theorem putLast_ring {s x : State} {v : LastSt} (h : RingOnly s x) : RingOnly s (x.putLast v) := h

theorem putWin_ring {s x : State} {v : WinSt} (h : RingOnly s x) : RingOnly s (x.putWin v) := h

theorem putTwb_ring {s x : State} {v : TwbSt} (h : RingOnly s x) : RingOnly s (x.putTwb v) := h

theorem putImc_ring {s x : State} {v : ImcSt} (h : RingOnly s x) : RingOnly s (x.putImc v) := h

theorem putJtag_ring {s x : State} {v : JtagSt} (h : RingOnly s x) : RingOnly s (x.putJtag v) := h

theorem putAcc_ring {s x : State} {v : AccSt} (h : RingOnly s x) : RingOnly s (x.putAcc v) := h

theorem putWqs_ring {s x : State} {v : Vector Wq 32} (h : RingOnly s x) : RingOnly s (x.putWqs v) := h

theorem putCqs_ring {s x : State} {v : Vector Cq 8} (h : RingOnly s x) : RingOnly s (x.putCqs v) := h

theorem putUnits_ring {s x : State} {v : Units} (h : RingOnly s x) : RingOnly s (x.putUnits v) := h

theorem putSlots_ring {s x : State} {v : Vector Slot 8} (h : RingOnly s x) : RingOnly s (x.putSlots v) := h

theorem putSched_ring {s x : State} {v : Sched} (h : RingOnly s x) : RingOnly s (x.putSched v) := h

theorem putAwl_ring {s x : State} {v : AwlSt} (h : RingOnly s x) : RingOnly s (x.putAwl v) := h

theorem putNvm_ring {s x : State} {v : NvmSt} (h : RingOnly s x) : RingOnly s (x.putNvm v) := h

theorem putTm_ring {s x : State} {v : TmSt} (h : RingOnly s x) : RingOnly s (x.putTm v) := h

theorem putTime_ring {s x : State} {v : TimeSt} (h : RingOnly s x) : RingOnly s (x.putTime v) := h

theorem putCal_ring {s x : State} {v : CalSt} (h : RingOnly s x) : RingOnly s (x.putCal v) := h

theorem putFree_ring {s x : State} {v : Nat} (h : RingOnly s x) : RingOnly s (x.putFree v) := h

theorem putPending_ring {s x : State} {v : List Instr} (h : RingOnly s x) : RingOnly s (x.putPending v) := h

theorem keepRead_ring {s : State} {a0} {r : Word × State} (h : RingOnly s r.2) : RingOnly s (keepRead a0 r) := by
  unfold keepRead
  dsimp -zeta -proj only [upd_acc]
  exact putAcc_ring h

theorem ringPut_ring {s x : State} {a0} (h : RingOnly s x) : RingOnly s (ringPut x a0) := by
  unfold ringPut
  dsimp -zeta -proj only [upd_evt_store]
  refine putStore_ring (putEvt_ring h) fun pa o => StoreSt.writeLine_other _ _ _ _ ?_ ?_
  · have := x.evt.next.isLt
    unfold ringBase
    omega
  · rw [EvRec.bytes_length]
    unfold ringBase
    omega

theorem recordPut_ring {s x : State} {a0} (h : RingOnly s x) :
    RingOnly s (recordPut x a0) := by
  unfold recordPut
  try dsimp -zeta -proj only [upd_evt]
  repeat' first
    | with_reducible assumption
    | with_reducible refine ringPut_ring ?_
    | with_reducible refine putEvt_ring ?_
    | with_reducible refine ite_ring ?_ ?_
    | with_reducible refine foldl_ring ?_ (fun t a h => ?_)
    | dsimp -proj only
    | split

theorem emit_ring {s x : State} {a0 a1 a2 a3} (h : RingOnly s x) :
    RingOnly s (emit x a0 a1 a2 a3) := by
  unfold emit
  try dsimp -zeta -proj only [upd_evt_nvm]
  repeat' first
    | with_reducible assumption
    | with_reducible refine recordPut_ring ?_
    | with_reducible refine putEvt_ring ?_
    | with_reducible refine putNvm_ring ?_
    | with_reducible refine ite_ring ?_ ?_
    | with_reducible refine foldl_ring ?_ (fun t a h => ?_)
    | dsimp -proj only
    | split

theorem emitEvent_ring {s x : State} {a0 a1 a2} (h : RingOnly s x) :
    RingOnly s (emitEvent x a0 a1 a2) := by
  unfold emitEvent
  try dsimp -zeta -proj only [upd_evt]
  repeat' first
    | with_reducible assumption
    | with_reducible refine emit_ring ?_
    | with_reducible refine putEvt_ring ?_
    | with_reducible refine ite_ring ?_ ?_
    | with_reducible refine foldl_ring ?_ (fun t a h => ?_)
    | dsimp -proj only
    | split

theorem logFuel_ring {s x : State} {a0 a1 a2 a3} (h : RingOnly s x) :
    RingOnly s (logFuel a0 x a1 a2 a3) := by
  induction a0 generalizing x a1 a2 a3 with
  | zero => exact emitEvent_ring h
  | succ n ih => exact foldl_ring (emitEvent_ring h) (fun _ _ g => ih g)

theorem logEvent_ring {s x : State} {a0 a1 a2} (h : RingOnly s x) :
    RingOnly s (logEvent x a0 a1 a2) := by
  unfold logEvent
  repeat' first
    | with_reducible assumption
    | with_reducible refine logFuel_ring ?_
    | with_reducible refine ite_ring ?_ ?_
    | with_reducible refine foldl_ring ?_ (fun t a h => ?_)
    | dsimp -proj only
    | split

theorem logL_ring {s x : State} {a0 a1 a2 a3} (h : RingOnly s x) :
    RingOnly s (logL x a0 a1 a2 a3) := by
  unfold logL
  repeat' first
    | with_reducible assumption
    | with_reducible refine logEvent_ring ?_
    | with_reducible refine ite_ring ?_ ?_
    | with_reducible refine foldl_ring ?_ (fun t a h => ?_)
    | dsimp -proj only
    | split

theorem revertUnit_ring {s x : State} {a0 a1} (h : RingOnly s x) : RingOnly s (revertUnit x a0 a1) :=
  RingOnly.of_keeps (fun k hk => revertUnit_keeps (a0 := a0) (a1 := a1) hk (k.same_refl x)) (by decide) h

theorem endRecal_ring {s x : State} (h : RingOnly s x) : RingOnly s (endRecal x) :=
  RingOnly.of_keeps (fun k hk => endRecal_keeps hk (k.same_refl x)) (by decide) h

theorem stopRecal_ring {s x : State} {a0 a1} (h : RingOnly s x) :
    RingOnly s (stopRecal x a0 a1) := by
  unfold stopRecal
  repeat' first
    | with_reducible assumption
    | with_reducible refine logL_ring ?_
    | with_reducible refine revertUnit_ring ?_
    | with_reducible refine endRecal_ring ?_
    | with_reducible refine ite_ring ?_ ?_
    | with_reducible refine foldl_ring ?_ (fun t a h => ?_)
    | dsimp -proj only
    | split

theorem abortRecal_ring {s x : State} (h : RingOnly s x) :
    RingOnly s (abortRecal x) := by
  unfold abortRecal
  repeat' first
    | with_reducible assumption
    | with_reducible refine stopRecal_ring ?_
    | with_reducible refine ite_ring ?_ ?_
    | with_reducible refine foldl_ring ?_ (fun t a h => ?_)
    | dsimp -proj only
    | split

theorem setUnit_ring {s x : State} {a0 a1} (h : RingOnly s x) : RingOnly s (setUnit x a0 a1) :=
  RingOnly.of_keeps (fun k hk => setUnit_keeps (a0 := a0) (a1 := a1) hk (k.same_refl x)) (by decide) h

theorem modMeas_ring {s x : State} {a0 a1 a2} (h : RingOnly s x) : RingOnly s (modMeas x a0 a1 a2) :=
  RingOnly.of_keeps (fun k hk => modMeas_keeps (a0 := a0) (a1 := a1) (a2 := a2) hk (k.same_refl x)) (by decide) h

theorem restartHeel_ring {s x : State} (h : RingOnly s x) :
    RingOnly s (restartHeel x) := by
  unfold restartHeel
  try dsimp -zeta -proj only [upd_heel_cal]
  repeat' first
    | with_reducible assumption
    | with_reducible refine abortRecal_ring ?_
    | with_reducible refine setUnit_ring ?_
    | with_reducible refine modMeas_ring ?_
    | with_reducible refine putHeel_ring ?_
    | with_reducible refine putCal_ring ?_
    | with_reducible refine ite_ring ?_ ?_
    | with_reducible refine foldl_ring ?_ (fun t a h => ?_)
    | dsimp -proj only
    | split

theorem watchAttn_ring {s x : State} (h : RingOnly s x) : RingOnly s (watchAttn x) :=
  RingOnly.of_keeps (fun k hk => watchAttn_keeps hk (k.same_refl x)) (by decide) h

theorem unholdErase_ring {s x : State} (h : RingOnly s x) : RingOnly s (unholdErase x) :=
  RingOnly.of_keeps (fun k hk => unholdErase_keeps hk (k.same_refl x)) (by decide) h

theorem fin_ring {s x : State} (h : RingOnly s x) :
    RingOnly s (fin x) := by
  unfold fin
  repeat' first
    | with_reducible assumption
    | with_reducible refine restartHeel_ring ?_
    | with_reducible refine watchAttn_ring ?_
    | with_reducible refine unholdErase_ring ?_
    | with_reducible refine ite_ring ?_ ?_
    | with_reducible refine foldl_ring ?_ (fun t a h => ?_)
    | dsimp -proj only
    | split

theorem done_ring {s x : State} (h : RingOnly s x) : ∃ t, done x = .next t ∧ RingOnly s t := ⟨fin x, rfl, fin_ring h⟩

theorem followStandin_ring {s x : State} (h : RingOnly s x) : RingOnly s (followStandin x) :=
  RingOnly.of_keeps (fun k hk => followStandin_keeps hk (k.same_refl x)) (by decide) h

theorem coolRx_ring {s x : State} {a0 a1 a2} (h : RingOnly s x) : RingOnly s (coolRx x a0 a1 a2) :=
  RingOnly.of_keeps (fun k hk => coolRx_keeps (a0 := a0) (a1 := a1) (a2 := a2) hk (k.same_refl x)) (by decide) h

theorem openPos_ring {s x : State} {a0} (h : RingOnly s x) : RingOnly s (openPos x a0) :=
  RingOnly.of_keeps (fun k hk => openPos_keeps (a0 := a0) hk (k.same_refl x)) (by decide) h

theorem modTx_ring {s x : State} {a0 a1 a2} (h : RingOnly s x) : RingOnly s (modTx x a0 a1 a2) :=
  RingOnly.of_keeps (fun k hk => modTx_keeps (a0 := a0) (a1 := a1) (a2 := a2) hk (k.same_refl x)) (by decide) h

theorem endTestJob_ring {s x : State} {a0 a1} (h : RingOnly s x) : RingOnly s (endTestJob x a0 a1) :=
  RingOnly.of_keeps (fun k hk => endTestJob_keeps (a0 := a0) (a1 := a1) hk (k.same_refl x)) (by decide) h

theorem endTests_ring {s x : State} {a0 a1} (h : RingOnly s x) :
    RingOnly s (endTests x a0 a1) := by
  unfold endTests
  repeat' first
    | with_reducible assumption
    | with_reducible refine logL_ring ?_
    | with_reducible refine endTestJob_ring ?_
    | with_reducible refine modMeas_ring ?_
    | with_reducible refine ite_ring ?_ ?_
    | with_reducible refine foldl_ring ?_ (fun t a h => ?_)
    | dsimp -proj only
    | split

theorem closePos_ring {s x : State} {a0} (h : RingOnly s x) :
    RingOnly s (closePos x a0) := by
  unfold closePos
  try dsimp -zeta -proj only [upd_welt]
  repeat' first
    | with_reducible assumption
    | with_reducible refine modTx_ring ?_
    | with_reducible refine modMeas_ring ?_
    | with_reducible refine endTests_ring ?_
    | with_reducible refine putWelt_ring ?_
    | with_reducible refine ite_ring ?_ ?_
    | with_reducible refine foldl_ring ?_ (fun t a h => ?_)
    | dsimp -proj only
    | split

theorem settlePos_ring {s x : State} {a0} (h : RingOnly s x) :
    RingOnly s (settlePos x a0) := by
  unfold settlePos
  repeat' first
    | with_reducible assumption
    | with_reducible refine openPos_ring ?_
    | with_reducible refine closePos_ring ?_
    | with_reducible refine ite_ring ?_ ?_
    | with_reducible refine foldl_ring ?_ (fun t a h => ?_)
    | dsimp -proj only
    | split

theorem settleAll_ring {s x : State} (h : RingOnly s x) :
    RingOnly s (settleAll x) := by
  unfold settleAll
  repeat' first
    | with_reducible assumption
    | with_reducible refine settlePos_ring ?_
    | with_reducible refine ite_ring ?_ ?_
    | with_reducible refine foldl_ring ?_ (fun t a h => ?_)
    | dsimp -proj only
    | split

theorem modLink_ring {s x : State} {a0 a1} (h : RingOnly s x) : RingOnly s (modLink x a0 a1) :=
  RingOnly.of_keeps (fun k hk => modLink_keeps (a0 := a0) (a1 := a1) hk (k.same_refl x)) (by decide) h

theorem retarget_ring {s x : State} {a0} (h : RingOnly s x) : RingOnly s (retarget a0 x) :=
  RingOnly.of_keeps (fun k hk => retarget_keeps (a0 := a0) hk (k.same_refl x)) (by decide) h

theorem setSpare_ring {s x : State} {a0 a1 a2 a3} (h : RingOnly s x) : RingOnly s (setSpare x a0 a1 a2 a3) :=
  RingOnly.of_keeps (fun k hk => setSpare_keeps (a0 := a0) (a1 := a1) (a2 := a2) (a3 := a3) hk (k.same_refl x)) (by decide) h

theorem leaveSpare_ring {s x : State} {a0 a1} (h : RingOnly s x) :
    RingOnly s (leaveSpare x a0 a1) := by
  unfold leaveSpare
  try dsimp -zeta -proj only [upd_last]
  repeat' first
    | with_reducible assumption
    | with_reducible refine settleAll_ring ?_
    | with_reducible refine modLink_ring ?_
    | with_reducible refine retarget_ring ?_
    | with_reducible refine setSpare_ring ?_
    | with_reducible refine putLast_ring ?_
    | with_reducible refine ite_ring ?_ ?_
    | with_reducible refine foldl_ring ?_ (fun t a h => ?_)
    | dsimp -proj only
    | split

theorem restSpare_ring {s x : State} {a0 a1 a2} (h : RingOnly s x) :
    RingOnly s (restSpare x a0 a1 a2) := by
  unfold restSpare
  repeat' first
    | with_reducible assumption
    | with_reducible refine coolRx_ring ?_
    | with_reducible refine leaveSpare_ring ?_
    | with_reducible refine setSpare_ring ?_
    | with_reducible refine ite_ring ?_ ?_
    | with_reducible refine foldl_ring ?_ (fun t a h => ?_)
    | dsimp -proj only
    | split

theorem logK_ring {s x : State} {a0 a1 a2} (h : RingOnly s x) :
    RingOnly s (logK x a0 a1 a2) := by
  unfold logK
  repeat' first
    | with_reducible assumption
    | with_reducible refine logEvent_ring ?_
    | with_reducible refine ite_ring ?_ ?_
    | with_reducible refine foldl_ring ?_ (fun t a h => ?_)
    | dsimp -proj only
    | split

theorem checkDone_ring {s x : State} (h : RingOnly s x) :
    RingOnly s (checkDone x) := by
  unfold checkDone
  try dsimp -zeta -proj only [upd_last]
  repeat' first
    | with_reducible assumption
    | with_reducible refine logEvent_ring ?_
    | with_reducible refine putLast_ring ?_
    | with_reducible refine ite_ring ?_ ?_
    | with_reducible refine foldl_ring ?_ (fun t a h => ?_)
    | dsimp -proj only
    | split

theorem setResult_ring {s x : State} {a0 a1} (h : RingOnly s x) :
    RingOnly s (setResult x a0 a1) := by
  unfold setResult
  try dsimp -zeta -proj only [upd_last]
  repeat' first
    | with_reducible assumption
    | with_reducible refine modLink_ring ?_
    | with_reducible refine checkDone_ring ?_
    | with_reducible refine putLast_ring ?_
    | with_reducible refine ite_ring ?_ ?_
    | with_reducible refine foldl_ring ?_ (fun t a h => ?_)
    | dsimp -proj only
    | split

theorem refreshSpare_ring {s x : State} {a0 a1 a2} (h : RingOnly s x) : RingOnly s (refreshSpare a0 x a1 a2) :=
  RingOnly.of_keeps (fun k hk => refreshSpare_keeps (a0 := a0) (a1 := a1) (a2 := a2) hk (k.same_refl x)) (by decide) h

theorem dropHolds_ring {s x : State} {a0 a1} (h : RingOnly s x) : RingOnly s (dropHolds x a0 a1) :=
  RingOnly.of_keeps (fun k hk => dropHolds_keeps (a0 := a0) (a1 := a1) hk (k.same_refl x)) (by decide) h

theorem stepEpoch_ring {s x : State} {a0} (h : RingOnly s x) : RingOnly s (stepEpoch x a0) :=
  RingOnly.of_keeps (fun k hk => stepEpoch_keeps (a0 := a0) hk (k.same_refl x)) (by decide) h

theorem moveHold_ring {s x : State} {a0 a1 a2} (h : RingOnly s x) : RingOnly s (moveHold a0 a1 a2 x) :=
  RingOnly.of_keeps (fun k hk => moveHold_keeps (a0 := a0) (a1 := a1) (a2 := a2) hk (k.same_refl x)) (by decide) h

theorem withMasters_ring {s x : State} {a0 a1} (hf : ∀ t, RingOnly s t → RingOnly s (a1 t)) (h : RingOnly s x) :
    RingOnly s (withMasters x a0 a1) := by
  unfold withMasters
  repeat' first
    | with_reducible assumption
    | with_reducible refine hf _ ?_
    | with_reducible refine moveHold_ring ?_
    | with_reducible refine modLink_ring ?_
    | with_reducible refine ite_ring ?_ ?_
    | with_reducible refine foldl_ring ?_ (fun t a h => ?_)
    | dsimp -proj only
    | split

theorem relockPlls_ring {s x : State} {a0} (h : RingOnly s x) : RingOnly s (relockPlls x a0) :=
  RingOnly.of_keeps (fun k hk => relockPlls_keeps (a0 := a0) hk (k.same_refl x)) (by decide) h

theorem takeUp_ring {s x : State} {a0 a1} (h : RingOnly s x) :
    RingOnly s (takeUp x a0 a1) := by
  unfold takeUp
  try dsimp -zeta -proj only [upd_last]
  repeat' first
    | with_reducible assumption
    | with_reducible refine settleAll_ring ?_
    | with_reducible refine retarget_ring ?_
    | with_reducible refine refreshSpare_ring ?_
    | with_reducible refine dropHolds_ring ?_
    | with_reducible refine stepEpoch_ring ?_
    | with_reducible refine withMasters_ring (fun t h => ?_) ?_
    | with_reducible refine relockPlls_ring ?_
    | with_reducible refine putLast_ring ?_
    | with_reducible refine ite_ring ?_ ?_
    | with_reducible refine foldl_ring ?_ (fun t a h => ?_)
    | dsimp -proj only
    | split

theorem switchLink_ring {s x : State} {a0} (h : RingOnly s x) :
    RingOnly s (switchLink x a0) := by
  unfold switchLink
  repeat' first
    | with_reducible assumption
    | with_reducible refine takeUp_ring ?_
    | with_reducible refine ite_ring ?_ ?_
    | with_reducible refine foldl_ring ?_ (fun t a h => ?_)
    | dsimp -proj only
    | split

theorem switchNow_ring {s x : State} {a0} (h : RingOnly s x) :
    RingOnly s (switchNow x a0) := by
  unfold switchNow
  repeat' first
    | with_reducible assumption
    | with_reducible refine setResult_ring ?_
    | with_reducible refine switchLink_ring ?_
    | with_reducible refine ite_ring ?_ ?_
    | with_reducible refine foldl_ring ?_ (fun t a h => ?_)
    | dsimp -proj only
    | split

theorem endPbl_ring {s x : State} {a0} (h : RingOnly s x) : RingOnly s (endPbl x a0) :=
  RingOnly.of_keeps (fun k hk => endPbl_keeps (a0 := a0) hk (k.same_refl x)) (by decide) h

theorem dropSwap_ring {s x : State} {a0 a1} (h : RingOnly s x) : RingOnly s (dropSwap x a0 a1) :=
  RingOnly.of_keeps (fun k hk => dropSwap_keeps (a0 := a0) (a1 := a1) hk (k.same_refl x)) (by decide) h

theorem endSwaps_ring {s x : State} {a0} (h : RingOnly s x) :
    RingOnly s (endSwaps x a0) := by
  unfold endSwaps
  repeat' first
    | with_reducible assumption
    | with_reducible refine restSpare_ring ?_
    | with_reducible refine modLink_ring ?_
    | with_reducible refine abortRecal_ring ?_
    | with_reducible refine dropSwap_ring ?_
    | with_reducible refine ite_ring ?_ ?_
    | with_reducible refine foldl_ring ?_ (fun t a h => ?_)
    | dsimp -proj only
    | split

theorem endSearches_ring {s x : State} {a0} (h : RingOnly s x) : RingOnly s (endSearches x a0) :=
  RingOnly.of_keeps (fun k hk => endSearches_keeps (a0 := a0) hk (k.same_refl x)) (by decide) h

theorem dropMos_ring {s x : State} {a0 a1} (h : RingOnly s x) : RingOnly s (dropMos x a0 a1) :=
  RingOnly.of_keeps (fun k hk => dropMos_keeps (a0 := a0) (a1 := a1) hk (k.same_refl x)) (by decide) h

theorem allReset_ring {s x : State} {a0} (h : RingOnly s x) : RingOnly s (allReset x a0) :=
  RingOnly.of_keeps (fun k hk => allReset_keeps (a0 := a0) hk (k.same_refl x)) (by decide) h

theorem leaveDisabled_ring {s x : State} {a0} (h : RingOnly s x) :
    RingOnly s (leaveDisabled x a0) := by
  unfold leaveDisabled
  repeat' first
    | with_reducible assumption
    | with_reducible refine endTests_ring ?_
    | with_reducible refine ite_ring ?_ ?_
    | with_reducible refine foldl_ring ?_ (fun t a h => ?_)
    | dsimp -proj only
    | split

theorem dropLink_ring {s x : State} {a0} (h : RingOnly s x) :
    RingOnly s (dropLink x a0) := by
  unfold dropLink
  repeat' first
    | with_reducible assumption
    | with_reducible refine modLink_ring ?_
    | with_reducible refine endPbl_ring ?_
    | with_reducible refine endSwaps_ring ?_
    | with_reducible refine endSearches_ring ?_
    | with_reducible refine dropMos_ring ?_
    | with_reducible refine allReset_ring ?_
    | with_reducible refine leaveDisabled_ring ?_
    | with_reducible refine withMasters_ring (fun t h => ?_) ?_
    | with_reducible refine ite_ring ?_ ?_
    | with_reducible refine foldl_ring ?_ (fun t a h => ?_)
    | dsimp -proj only
    | split

theorem standAside_ring {s x : State} {a0} (h : RingOnly s x) :
    RingOnly s (standAside x a0) := by
  unfold standAside
  repeat' first
    | with_reducible assumption
    | with_reducible refine switchNow_ring ?_
    | with_reducible refine settleAll_ring ?_
    | with_reducible refine modLink_ring ?_
    | with_reducible refine dropLink_ring ?_
    | with_reducible refine ite_ring ?_ ?_
    | with_reducible refine foldl_ring ?_ (fun t a h => ?_)
    | dsimp -proj only
    | split

theorem partAside_ring {s x : State} {a0 a1} (h : RingOnly s x) :
    RingOnly s (partAside x a0 a1) := by
  unfold partAside
  repeat' first
    | with_reducible assumption
    | with_reducible refine settleAll_ring ?_
    | with_reducible refine modLink_ring ?_
    | with_reducible refine logK_ring ?_
    | with_reducible refine standAside_ring ?_
    | with_reducible refine ite_ring ?_ ?_
    | with_reducible refine foldl_ring ?_ (fun t a h => ?_)
    | dsimp -proj only
    | split

theorem setUnrecovered_ring {s x : State} {a0 a1} (h : RingOnly s x) :
    RingOnly s (setUnrecovered x a0 a1) := by
  unfold setUnrecovered
  repeat' first
    | with_reducible assumption
    | with_reducible refine modLink_ring ?_
    | with_reducible refine logK_ring ?_
    | with_reducible refine ite_ring ?_ ?_
    | with_reducible refine foldl_ring ?_ (fun t a h => ?_)
    | dsimp -proj only
    | split

theorem lossDown_ring {s x : State} {a0} (h : RingOnly s x) :
    RingOnly s (lossDown x a0) := by
  unfold lossDown
  repeat' first
    | with_reducible assumption
    | with_reducible refine modLink_ring ?_
    | with_reducible refine logK_ring ?_
    | with_reducible refine partAside_ring ?_
    | with_reducible refine setUnrecovered_ring ?_
    | with_reducible refine ite_ring ?_ ?_
    | with_reducible refine foldl_ring ?_ (fun t a h => ?_)
    | dsimp -proj only
    | split

theorem abandonSwap_ring {s x : State} {a0} (h : RingOnly s x) :
    RingOnly s (abandonSwap x a0) := by
  unfold abandonSwap
  repeat' first
    | with_reducible assumption
    | with_reducible refine restSpare_ring ?_
    | with_reducible refine dropSwap_ring ?_
    | with_reducible refine setSpare_ring ?_
    | with_reducible refine ite_ring ?_ ?_
    | with_reducible refine foldl_ring ?_ (fun t a h => ?_)
    | dsimp -proj only
    | split

theorem enterRetrain_ring {s x : State} {a0} (h : RingOnly s x) :
    RingOnly s (enterRetrain x a0) := by
  unfold enterRetrain
  repeat' first
    | with_reducible assumption
    | with_reducible refine setResult_ring ?_
    | with_reducible refine abandonSwap_ring ?_
    | with_reducible refine modLink_ring ?_
    | with_reducible refine endPbl_ring ?_
    | with_reducible refine dropMos_ring ?_
    | with_reducible refine switchLink_ring ?_
    | with_reducible refine ite_ring ?_ ?_
    | with_reducible refine foldl_ring ?_ (fun t a h => ?_)
    | dsimp -proj only
    | split

theorem sendOwn_ring {s x : State} {a0 a1 a2 a3} (h : RingOnly s x) : RingOnly s (sendOwn x a0 a1 a2 a3) :=
  RingOnly.of_keeps (fun k hk => sendOwn_keeps (a0 := a0) (a1 := a1) (a2 := a2) (a3 := a3) hk (k.same_refl x)) (by decide) h

theorem requestRetrain_ring {s x : State} {a0} (h : RingOnly s x) :
    RingOnly s (requestRetrain x a0) := by
  unfold requestRetrain
  repeat' first
    | with_reducible assumption
    | with_reducible refine modLink_ring ?_
    | with_reducible refine enterRetrain_ring ?_
    | with_reducible refine sendOwn_ring ?_
    | with_reducible refine ite_ring ?_ ?_
    | with_reducible refine foldl_ring ?_ (fun t a h => ?_)
    | dsimp -proj only
    | split

theorem lossDegrade_ring {s x : State} {a0} (h : RingOnly s x) :
    RingOnly s (lossDegrade x a0) := by
  unfold lossDegrade
  repeat' first
    | with_reducible assumption
    | with_reducible refine modLink_ring ?_
    | with_reducible refine lossDown_ring ?_
    | with_reducible refine requestRetrain_ring ?_
    | with_reducible refine ite_ring ?_ ?_
    | with_reducible refine foldl_ring ?_ (fun t a h => ?_)
    | dsimp -proj only
    | split

theorem logLane_ring {s x : State} {a0 a1 a2 a3 a4} (h : RingOnly s x) :
    RingOnly s (logLane x a0 a1 a2 a3 a4) := by
  unfold logLane
  repeat' first
    | with_reducible assumption
    | with_reducible refine logEvent_ring ?_
    | with_reducible refine ite_ring ?_ ?_
    | with_reducible refine foldl_ring ?_ (fun t a h => ?_)
    | dsimp -proj only
    | split

theorem spareFallback_ring {s x : State} {a0 a1 a2} (h : RingOnly s x) :
    RingOnly s (spareFallback x a0 a1 a2) := by
  unfold spareFallback
  repeat' first
    | with_reducible assumption
    | with_reducible refine lossDegrade_ring ?_
    | with_reducible refine logLane_ring ?_
    | with_reducible refine ite_ring ?_ ?_
    | with_reducible refine foldl_ring ?_ (fun t a h => ?_)
    | dsimp -proj only
    | split

theorem vacate_ring {s x : State} {a0 a1} (h : RingOnly s x) : RingOnly s (vacate x a0 a1) :=
  RingOnly.of_keeps (fun k hk => vacate_keeps (a0 := a0) (a1 := a1) hk (k.same_refl x)) (by decide) h

theorem setSwapResult_ring {s x : State} {a0 a1} (h : RingOnly s x) : RingOnly s (setSwapResult x a0 a1) :=
  RingOnly.of_keeps (fun k hk => setSwapResult_keeps (a0 := a0) (a1 := a1) hk (k.same_refl x)) (by decide) h

theorem beginSwap_ring {s x : State} {a0 a1 a2 a3 a4 a5} (h : RingOnly s x) : RingOnly s (beginSwap x a0 a1 a2 a3 a4 a5) :=
  RingOnly.of_keeps (fun k hk => beginSwap_keeps (a0 := a0) (a1 := a1) (a2 := a2) (a3 := a3) (a4 := a4) (a5 := a5) hk (k.same_refl x)) (by decide) h

theorem lossSpare_ring {s x : State} {a0 a1 a2} (h : RingOnly s x) :
    RingOnly s (lossSpare x a0 a1 a2) := by
  unfold lossSpare
  repeat' first
    | with_reducible assumption
    | with_reducible refine stopRecal_ring ?_
    | with_reducible refine spareFallback_ring ?_
    | with_reducible refine modLink_ring ?_
    | with_reducible refine setSwapResult_ring ?_
    | with_reducible refine beginSwap_ring ?_
    | with_reducible refine ite_ring ?_ ?_
    | with_reducible refine foldl_ring ?_ (fun t a h => ?_)
    | dsimp -proj only
    | split

theorem serveWaiting_ring {s x : State} {a0} (h : RingOnly s x) :
    RingOnly s (serveWaiting x a0) := by
  unfold serveWaiting
  repeat' first
    | with_reducible assumption
    | with_reducible refine modLink_ring ?_
    | with_reducible refine lossSpare_ring ?_
    | with_reducible refine ite_ring ?_ ?_
    | with_reducible refine foldl_ring ?_ (fun t a h => ?_)
    | dsimp -proj only
    | split

theorem giveUp_ring {s x : State} {a0 a1} (h : RingOnly s x) : RingOnly s (giveUp x a0 a1) :=
  RingOnly.of_keeps (fun k hk => giveUp_keeps (a0 := a0) (a1 := a1) hk (k.same_refl x)) (by decide) h

theorem sendSpare_ring {s x : State} {a0 a1 a2 a3} (h : RingOnly s x) : RingOnly s (sendSpare x a0 a1 a2 a3) :=
  RingOnly.of_keeps (fun k hk => sendSpare_keeps (a0 := a0) (a1 := a1) (a2 := a2) (a3 := a3) hk (k.same_refl x)) (by decide) h

theorem logSwap_ring {s x : State} {a0 a1 a2 a3} (h : RingOnly s x) :
    RingOnly s (logSwap x a0 a1 a2 a3) := by
  unfold logSwap
  repeat' first
    | with_reducible assumption
    | with_reducible refine logLane_ring ?_
    | with_reducible refine ite_ring ?_ ?_
    | with_reducible refine foldl_ring ?_ (fun t a h => ?_)
    | dsimp -proj only
    | split

theorem failSwap_ring {s x : State} {a0 a1 a2 a3} (h : RingOnly s x) :
    RingOnly s (failSwap x a0 a1 a2 a3) := by
  unfold failSwap
  try dsimp -zeta -proj only [upd_cal]
  repeat' first
    | with_reducible assumption
    | with_reducible refine restSpare_ring ?_
    | with_reducible refine spareFallback_ring ?_
    | with_reducible refine vacate_ring ?_
    | with_reducible refine modLink_ring ?_
    | with_reducible refine serveWaiting_ring ?_
    | with_reducible refine leaveSpare_ring ?_
    | with_reducible refine setSwapResult_ring ?_
    | with_reducible refine giveUp_ring ?_
    | with_reducible refine sendSpare_ring ?_
    | with_reducible refine logSwap_ring ?_
    | with_reducible refine setSpare_ring ?_
    | with_reducible refine putCal_ring ?_
    | with_reducible refine ite_ring ?_ ?_
    | with_reducible refine foldl_ring ?_ (fun t a h => ?_)
    | dsimp -proj only
    | split

theorem execSwapTimeout_ring {s x : State} {a0} (h : RingOnly s x) :
    ∃ t, execSwapTimeout a0 x = .next t ∧ RingOnly s t := by
  unfold execSwapTimeout
  repeat' first
    | with_reducible assumption
    | with_reducible refine done_ring ?_
    | with_reducible refine followStandin_ring ?_
    | with_reducible refine failSwap_ring ?_
    | with_reducible refine ite_ring ?_ ?_
    | with_reducible refine foldl_ring ?_ (fun t a h => ?_)
    | dsimp -proj only
    | split

theorem forceLink_ring {s x : State} {a0} (h : RingOnly s x) :
    RingOnly s (forceLink x a0) := by
  unfold forceLink
  repeat' first
    | with_reducible assumption
    | with_reducible refine switchNow_ring ?_
    | with_reducible refine setResult_ring ?_
    | with_reducible refine modLink_ring ?_
    | with_reducible refine dropLink_ring ?_
    | with_reducible refine ite_ring ?_ ?_
    | with_reducible refine foldl_ring ?_ (fun t a h => ?_)
    | dsimp -proj only
    | split

theorem restartLink_ring {s x : State} {a0} (h : RingOnly s x) : RingOnly s (restartLink x a0) :=
  RingOnly.of_keeps (fun k hk => restartLink_keeps (a0 := a0) hk (k.same_refl x)) (by decide) h

theorem settle_ring {s x : State} (h : RingOnly s x) :
    RingOnly s (settle x) := by
  unfold settle
  repeat' first
    | with_reducible assumption
    | with_reducible refine settleAll_ring ?_
    | with_reducible refine forceLink_ring ?_
    | with_reducible refine restartLink_ring ?_
    | with_reducible refine ite_ring ?_ ?_
    | with_reducible refine foldl_ring ?_ (fun t a h => ?_)
    | dsimp -proj only
    | split

theorem enterShutdown_ring {s x : State} {a0} (h : RingOnly s x) :
    RingOnly s (enterShutdown x a0) := by
  unfold enterShutdown
  try dsimp -zeta -proj only [upd_therm]
  repeat' first
    | with_reducible assumption
    | with_reducible refine logEvent_ring ?_
    | with_reducible refine settle_ring ?_
    | with_reducible refine putTherm_ring ?_
    | with_reducible refine ite_ring ?_ ?_
    | with_reducible refine foldl_ring ?_ (fun t a h => ?_)
    | dsimp -proj only
    | split

theorem logIslandOff_ring {s x : State} {a0 a1} (h : RingOnly s x) :
    RingOnly s (logIslandOff x a0 a1) := by
  unfold logIslandOff
  repeat' first
    | with_reducible assumption
    | with_reducible refine logEvent_ring ?_
    | with_reducible refine ite_ring ?_ ?_
    | with_reducible refine foldl_ring ?_ (fun t a h => ?_)
    | dsimp -proj only
    | split

theorem sendStart_ring {s x : State} {a0} (h : RingOnly s x) : RingOnly s (sendStart x a0) :=
  RingOnly.of_keeps (fun k hk => sendStart_keeps (a0 := a0) hk (k.same_refl x)) (by decide) h

theorem logDenied_ring {s x : State} {a0 a1} (h : RingOnly s x) :
    RingOnly s (logDenied x a0 a1) := by
  unfold logDenied
  try dsimp -zeta -proj only [upd_twb]
  repeat' first
    | with_reducible assumption
    | with_reducible refine logEvent_ring ?_
    | with_reducible refine putTwb_ring ?_
    | with_reducible refine ite_ring ?_ ?_
    | with_reducible refine foldl_ring ?_ (fun t a h => ?_)
    | dsimp -proj only
    | split

theorem eraseSetUp_ring {s x : State} {a0} (h : RingOnly s x) : RingOnly s (eraseSetUp x a0) :=
  RingOnly.of_keeps (fun k hk => eraseSetUp_keeps (a0 := a0) hk (k.same_refl x)) (by decide) h

theorem channelValid_ring {s x : State} {a0 a1} (h : RingOnly s x) :
    RingOnly s (channelValid x a0 a1) := by
  unfold channelValid
  try dsimp -zeta -proj only [upd_tm]
  repeat' first
    | with_reducible assumption
    | with_reducible refine logEvent_ring ?_
    | with_reducible refine putTm_ring ?_
    | with_reducible refine ite_ring ?_ ?_
    | with_reducible refine foldl_ring ?_ (fun t a h => ?_)
    | dsimp -proj only
    | split

theorem execSkipAbsent_ring {s x : State} {a0} (h : RingOnly s x) :
    ∃ t, execSkipAbsent a0 x = .next t ∧ RingOnly s t := by
  unfold execSkipAbsent
  repeat' first
    | with_reducible assumption
    | with_reducible refine done_ring ?_
    | with_reducible refine setResult_ring ?_
    | with_reducible refine logK_ring ?_
    | with_reducible refine switchLink_ring ?_
    | with_reducible refine ite_ring ?_ ?_
    | with_reducible refine foldl_ring ?_ (fun t a h => ?_)
    | dsimp -proj only
    | split

theorem readUnit_ring {s x : State} {a0} (h : RingOnly s x) : RingOnly s (readUnit x a0).2.2 :=
  RingOnly.of_keeps (fun k hk => readUnit_keeps (a0 := a0) hk (k.same_refl x)) (by decide) h

theorem readUnit_ring_eq {s x : State} {a0} {r q u} (h : RingOnly s x) (e : readUnit x a0 = (r, q, u)) :
    RingOnly s u := 
  RingOnly.of_keeps (fun k hk => readUnit_keeps_eq (a0 := a0) hk (k.same_refl x) e) (by decide) h

theorem nvmWindow_ring {s x : State} {a0} (h : RingOnly s x) :
    RingOnly s (nvmWindow x a0).2 := by
  unfold nvmWindow
  try dsimp -zeta -proj only [upd_nvm]
  repeat' first
    | with_reducible assumption
    | with_reducible refine logEvent_ring ?_
    | with_reducible refine readUnit_ring ?_
    | with_reducible refine readUnit_ring_eq ?_ (by with_reducible assumption)
    | with_reducible refine putNvm_ring ?_
    | with_reducible refine ite_ring ?_ ?_
    | with_reducible refine foldl_ring ?_ (fun t a h => ?_)
    | dsimp -proj only
    | split

theorem nvmWindow_ring_eq {s x : State} {a0} {r u} (h : RingOnly s x) (e : nvmWindow x a0 = (r, u)) :
    RingOnly s u := by
  simpa only [e] using nvmWindow_ring (s := s) (x := x) (a0 := a0) h

theorem readReg_ring {s x : State} {a0 a1} (h : RingOnly s x) : RingOnly s (readReg x a0 a1).2 :=
  RingOnly.of_keeps (fun k hk => readReg_keeps (a0 := a0) (a1 := a1) hk (k.same_refl x)) (by decide) h

theorem readReg_ring_eq {s x : State} {a0 a1} {r u} (h : RingOnly s x) (e : readReg x a0 a1 = (r, u)) :
    RingOnly s u := 
  RingOnly.of_keeps (fun k hk => readReg_keeps_eq (a0 := a0) (a1 := a1) hk (k.same_refl x) e) (by decide) h

theorem poisonLine_ring {s x : State} {a0} (h : RingOnly s x) : RingOnly s (poisonLine x a0) := by
  unfold poisonLine
  dsimp -zeta -proj only [upd_store, upd_evt_heel]
  have g : RingOnly s (x.putStore { x.store with
      poison := numSet a0 x.store.poison, ueAddr := BitVec.ofNat 23 (a0 * 64), ueSeen := true
      ueCount := satInc x.store.ueCount }) := h
  have l := logEvent_ring (a0 := 0x0802) (a1 := 0) (a2 := aData 0 (a0 * 64) 0) g
  exact ite_ring (logEvent_ring (putHeel_ring (putEvt_ring l))) l

theorem countCe_ring {s x : State} (h : RingOnly s x) :
    RingOnly s (countCe x) := by
  unfold countCe
  try dsimp -zeta -proj only [upd_store]
  repeat' first
    | with_reducible assumption
    | with_reducible refine logEvent_ring ?_
    | with_reducible refine putStore_ring ?_ ?_
    | with_reducible refine ite_ring ?_ ?_
    | with_reducible refine foldl_ring ?_ (fun t a h => ?_)
    | exact fun _ _ => rfl
    | dsimp -proj only
    | split

theorem eccRead_ring {s x : State} {a0 a1} (h : RingOnly s x) :
    RingOnly s (eccRead x a0 a1) := by
  unfold eccRead
  try dsimp -zeta -proj only [upd_store]
  repeat' first
    | with_reducible assumption
    | with_reducible refine poisonLine_ring ?_
    | with_reducible refine countCe_ring ?_
    | with_reducible refine putStore_ring ?_ ?_
    | with_reducible refine ite_ring ?_ ?_
    | with_reducible refine foldl_ring ?_ (fun t a h => ?_)
    | exact fun _ _ => rfl
    | dsimp -proj only
    | split

theorem latchErr_ring {s x : State} {a0 a1 a2 a3 a4} (h : RingOnly s x) : RingOnly s (latchErr x a0 a1 a2 a3 a4) :=
  RingOnly.of_keeps (fun k hk => latchErr_keeps (a0 := a0) (a1 := a1) (a2 := a2) (a3 := a3) (a4 := a4) hk (k.same_refl x)) (by decide) h

theorem storeReadPa_ring {s x : State} {a0 a1 a2 a3} (h : RingOnly s x) :
    RingOnly s (storeReadPa x a0 a1 a2 a3).2 := by
  unfold storeReadPa
  repeat' first
    | with_reducible assumption
    | with_reducible refine logEvent_ring ?_
    | with_reducible refine eccRead_ring ?_
    | with_reducible refine latchErr_ring ?_
    | with_reducible refine ite_ring ?_ ?_
    | with_reducible refine foldl_ring ?_ (fun t a h => ?_)
    | dsimp -proj only
    | split

theorem storeReadPa_ring_eq {s x : State} {a0 a1 a2 a3} {r u} (h : RingOnly s x) (e : storeReadPa x a0 a1 a2 a3 = (r, u)) :
    RingOnly s u := by
  simpa only [e] using storeReadPa_ring (s := s) (x := x) (a0 := a0) (a1 := a1) (a2 := a2) (a3 := a3) h

theorem winFault_ring {s x : State} {a0 a1 a2 a3 a4} (h : RingOnly s x) :
    RingOnly s (winFault x a0 a1 a2 a3 a4) := by
  unfold winFault
  repeat' first
    | with_reducible assumption
    | with_reducible refine logEvent_ring ?_
    | with_reducible refine latchErr_ring ?_
    | with_reducible refine ite_ring ?_ ?_
    | with_reducible refine foldl_ring ?_ (fun t a h => ?_)
    | dsimp -proj only
    | split

theorem storeReadVa_ring {s x : State} {a0 a1} (h : RingOnly s x) :
    RingOnly s (storeReadVa x a0 a1).2 := by
  unfold storeReadVa
  repeat' first
    | with_reducible assumption
    | with_reducible refine storeReadPa_ring ?_
    | with_reducible refine storeReadPa_ring_eq ?_ (by with_reducible assumption)
    | with_reducible refine winFault_ring ?_
    | with_reducible refine ite_ring ?_ ?_
    | with_reducible refine foldl_ring ?_ (fun t a h => ?_)
    | dsimp -proj only
    | split

theorem storeReadVa_ring_eq {s x : State} {a0 a1} {r u} (h : RingOnly s x) (e : storeReadVa x a0 a1 = (r, u)) :
    RingOnly s u := by
  simpa only [e] using storeReadVa_ring (s := s) (x := x) (a0 := a0) (a1 := a1) h

theorem readOpen_ring {s x : State} {a0 a1} (h : RingOnly s x) :
    RingOnly s (readOpen x a0 a1).2 := by
  unfold readOpen
  repeat' first
    | with_reducible assumption
    | with_reducible refine logIslandOff_ring ?_
    | with_reducible refine nvmWindow_ring ?_
    | with_reducible refine nvmWindow_ring_eq ?_ (by with_reducible assumption)
    | with_reducible refine readReg_ring ?_
    | with_reducible refine readReg_ring_eq ?_ (by with_reducible assumption)
    | with_reducible refine storeReadVa_ring ?_
    | with_reducible refine storeReadVa_ring_eq ?_ (by with_reducible assumption)
    | with_reducible refine storeReadPa_ring ?_
    | with_reducible refine storeReadPa_ring_eq ?_ (by with_reducible assumption)
    | with_reducible refine ite_ring ?_ ?_
    | with_reducible refine foldl_ring ?_ (fun t a h => ?_)
    | dsimp -proj only
    | split

theorem readOpen_ring_eq {s x : State} {a0 a1} {r u} (h : RingOnly s x) (e : readOpen x a0 a1 = (r, u)) :
    RingOnly s u := by
  simpa only [e] using readOpen_ring (s := s) (x := x) (a0 := a0) (a1 := a1) h

theorem accessRead_ring {s x : State} {a0 a1} (h : RingOnly s x) :
    RingOnly s (accessRead x a0 a1).2 := by
  unfold accessRead
  repeat' first
    | with_reducible assumption
    | with_reducible refine readOpen_ring ?_
    | with_reducible refine readOpen_ring_eq ?_ (by with_reducible assumption)
    | with_reducible refine logDenied_ring ?_
    | with_reducible refine ite_ring ?_ ?_
    | with_reducible refine foldl_ring ?_ (fun t a h => ?_)
    | dsimp -proj only
    | split

theorem accessRead_ring_eq {s x : State} {a0 a1} {r u} (h : RingOnly s x) (e : accessRead x a0 a1 = (r, u)) :
    RingOnly s u := by
  simpa only [e] using accessRead_ring (s := s) (x := x) (a0 := a0) (a1 := a1) h

theorem busRead_ring {s x : State} {a0 a1} (h : RingOnly s x) :
    RingOnly s (busRead x a0 a1) := by
  unfold busRead
  repeat' first
    | with_reducible assumption
    | with_reducible refine keepRead_ring ?_
    | with_reducible refine accessRead_ring ?_
    | with_reducible refine accessRead_ring_eq ?_ (by with_reducible assumption)
    | with_reducible refine ite_ring ?_ ?_
    | with_reducible refine foldl_ring ?_ (fun t a h => ?_)
    | dsimp -proj only
    | split

theorem execDtimeLoRead_ring {s x : State} {a0} (h : RingOnly s x) :
    ∃ t, execDtimeLoRead a0 x = .next t ∧ RingOnly s t := by
  unfold execDtimeLoRead
  repeat' first
    | with_reducible assumption
    | with_reducible refine done_ring ?_
    | with_reducible refine busRead_ring ?_
    | with_reducible refine ite_ring ?_ ?_
    | with_reducible refine foldl_ring ?_ (fun t a h => ?_)
    | dsimp -proj only
    | split

theorem modPins_ring {s x : State} {a0} (h : RingOnly s x) : RingOnly s (modPins x a0) :=
  RingOnly.of_keeps (fun k hk => modPins_keeps (a0 := a0) hk (k.same_refl x)) (by decide) h

theorem execBypNPulse_ring {s x : State} (h : RingOnly s x) :
    ∃ t, execBypNPulse x = .next t ∧ RingOnly s t := by
  unfold execBypNPulse
  repeat' first
    | with_reducible assumption
    | with_reducible refine done_ring ?_
    | with_reducible refine settle_ring ?_
    | with_reducible refine modPins_ring ?_
    | with_reducible refine ite_ring ?_ ?_
    | with_reducible refine foldl_ring ?_ (fun t a h => ?_)
    | dsimp -proj only
    | split

theorem execLinkSwitchInstant_ring {s x : State} {a0} (h : RingOnly s x) :
    ∃ t, execLinkSwitchInstant a0 x = .next t ∧ RingOnly s t := by
  unfold execLinkSwitchInstant
  repeat' first
    | with_reducible assumption
    | with_reducible refine done_ring ?_
    | with_reducible refine setResult_ring ?_
    | with_reducible refine switchLink_ring ?_
    | with_reducible refine ite_ring ?_ ?_
    | with_reducible refine foldl_ring ?_ (fun t a h => ?_)
    | dsimp -proj only
    | split

theorem restOthers_ring {s x : State} {a0 a1} (h : RingOnly s x) :
    RingOnly s (restOthers x a0 a1) := by
  unfold restOthers
  repeat' first
    | with_reducible assumption
    | with_reducible refine restSpare_ring ?_
    | with_reducible refine ite_ring ?_ ?_
    | with_reducible refine foldl_ring ?_ (fun t a h => ?_)
    | dsimp -proj only
    | split

theorem swapDone_ring {s x : State} {a0 a1} (h : RingOnly s x) :
    RingOnly s (swapDone x a0 a1) := by
  unfold swapDone
  repeat' first
    | with_reducible assumption
    | with_reducible refine restSpare_ring ?_
    | with_reducible refine modLink_ring ?_
    | with_reducible refine serveWaiting_ring ?_
    | with_reducible refine setSwapResult_ring ?_
    | with_reducible refine logSwap_ring ?_
    | with_reducible refine restOthers_ring ?_
    | with_reducible refine setSpare_ring ?_
    | with_reducible refine ite_ring ?_ ?_
    | with_reducible refine foldl_ring ?_ (fun t a h => ?_)
    | dsimp -proj only
    | split

theorem swapAck_ring {s x : State} {a0 a1} (h : RingOnly s x) :
    RingOnly s (swapAck x a0 a1) := by
  unfold swapAck
  repeat' first
    | with_reducible assumption
    | with_reducible refine swapDone_ring ?_
    | with_reducible refine vacate_ring ?_
    | with_reducible refine modLink_ring ?_
    | with_reducible refine sendSpare_ring ?_
    | with_reducible refine ite_ring ?_ ?_
    | with_reducible refine foldl_ring ?_ (fun t a h => ?_)
    | dsimp -proj only
    | split

theorem eepromTransfer_ring {s x : State} {a0} (h : RingOnly s x) : RingOnly s (eepromTransfer x a0) :=
  RingOnly.of_keeps (fun k hk => eepromTransfer_keeps (a0 := a0) hk (k.same_refl x)) (by decide) h

theorem execEepromTransfer_ring {s x : State} {a0} (h : RingOnly s x) :
    ∃ t, execEepromTransfer a0 x = .next t ∧ RingOnly s t := by
  unfold execEepromTransfer
  repeat' first
    | with_reducible assumption
    | with_reducible refine done_ring ?_
    | with_reducible refine eepromTransfer_ring ?_
    | with_reducible refine ite_ring ?_ ?_
    | with_reducible refine foldl_ring ?_ (fun t a h => ?_)
    | dsimp -proj only
    | split

theorem prbsSetUp_ring {s x : State} {a0 a1 a2} (h : RingOnly s x) : RingOnly s (prbsSetUp x a0 a1 a2) :=
  RingOnly.of_keeps (fun k hk => prbsSetUp_keeps (a0 := a0) (a1 := a1) (a2 := a2) hk (k.same_refl x)) (by decide) h

theorem execPrbsJob_ring {s x : State} {a0 a1} (h : RingOnly s x) :
    ∃ t, execPrbsJob a0 a1 x = .next t ∧ RingOnly s t := by
  unfold execPrbsJob
  repeat' first
    | with_reducible assumption
    | with_reducible refine done_ring ?_
    | with_reducible refine prbsSetUp_ring ?_
    | with_reducible refine ite_ring ?_ ?_
    | with_reducible refine foldl_ring ?_ (fun t a h => ?_)
    | dsimp -proj only
    | split

theorem finishWith_ring {s x : State} {a0 a1 a2 a3} (h : RingOnly s x) : RingOnly s (finishWith x a0 a1 a2 a3) :=
  RingOnly.of_keeps (fun k hk => finishWith_keeps (a0 := a0) (a1 := a1) (a2 := a2) (a3 := a3) hk (k.same_refl x)) (by decide) h

theorem writeLog_ring {s x : State} {a0 a1 a2 a3} (h : RingOnly s x) : RingOnly s (writeLog x a0 a1 a2 a3) :=
  RingOnly.of_keeps (fun k hk => writeLog_keeps (a0 := a0) (a1 := a1) (a2 := a2) (a3 := a3) hk (k.same_refl x)) (by decide) h

theorem endErase_ring {s x : State} {a0 a1} (h : RingOnly s x) :
    RingOnly s (endErase x a0 a1) := by
  unfold endErase
  try dsimp -zeta -proj only [upd_nvm]
  repeat' first
    | with_reducible assumption
    | with_reducible refine logEvent_ring ?_
    | with_reducible refine writeLog_ring ?_
    | with_reducible refine putNvm_ring ?_
    | with_reducible refine ite_ring ?_ ?_
    | with_reducible refine foldl_ring ?_ (fun t a h => ?_)
    | dsimp -proj only
    | split

theorem keepJob_ring {s x : State} {a0 a1} (h : RingOnly s x) : RingOnly s (keepJob x a0 a1) :=
  RingOnly.of_keeps (fun k hk => keepJob_keeps (a0 := a0) (a1 := a1) hk (k.same_refl x)) (by decide) h

theorem tendLog_ring {s x : State} (h : RingOnly s x) : RingOnly s (tendLog x) :=
  RingOnly.of_keeps (fun k hk => tendLog_keeps hk (k.same_refl x)) (by decide) h

theorem beginErase_ring {s x : State} {a0} (h : RingOnly s x) : RingOnly s (beginErase x a0) :=
  RingOnly.of_keeps (fun k hk => beginErase_keeps (a0 := a0) hk (k.same_refl x)) (by decide) h

theorem sectorDone_ring {s x : State} {a0} (h : RingOnly s x) :
    RingOnly s (sectorDone x a0) := by
  unfold sectorDone
  try dsimp -zeta -proj only [upd_nvm]
  repeat' first
    | with_reducible assumption
    | with_reducible refine finishWith_ring ?_
    | with_reducible refine endErase_ring ?_
    | with_reducible refine keepJob_ring ?_
    | with_reducible refine tendLog_ring ?_
    | with_reducible refine beginErase_ring ?_
    | with_reducible refine putNvm_ring ?_
    | with_reducible refine ite_ring ?_ ?_
    | with_reducible refine foldl_ring ?_ (fun t a h => ?_)
    | dsimp -proj only
    | split

theorem readAll_ring {s x : State} {a0} (h : RingOnly s x) : RingOnly s (readAll a0 x).2 :=
  RingOnly.of_keeps (fun k hk => readAll_keeps (a0 := a0) hk (k.same_refl x)) (by decide) h

theorem readAll_ring_eq {s x : State} {a0} {r u} (h : RingOnly s x) (e : readAll a0 x = (r, u)) :
    RingOnly s u := 
  RingOnly.of_keeps (fun k hk => readAll_keeps_eq (a0 := a0) hk (k.same_refl x) e) (by decide) h

theorem scanCells_ring {s x : State} {a0} (h : RingOnly s x) : RingOnly s (scanCells x a0) :=
  RingOnly.of_keeps (fun k hk => scanCells_keeps (a0 := a0) hk (k.same_refl x)) (by decide) h

theorem execJtagExtestTrain_ring {s x : State} (h : RingOnly s x) :
    ∃ t, execJtagExtestTrain x = .next t ∧ RingOnly s t := by
  unfold execJtagExtestTrain
  repeat' first
    | with_reducible assumption
    | with_reducible refine done_ring ?_
    | with_reducible refine scanCells_ring ?_
    | with_reducible refine ite_ring ?_ ?_
    | with_reducible refine foldl_ring ?_ (fun t a h => ?_)
    | dsimp -proj only
    | split

theorem keepUnit_ring {s x : State} (h : RingOnly s x) : RingOnly s (keepUnit x) :=
  RingOnly.of_keeps (fun k hk => keepUnit_keeps hk (k.same_refl x)) (by decide) h

theorem modTr_ring {s x : State} {a0 a1 a2} (h : RingOnly s x) : RingOnly s (modTr x a0 a1 a2) :=
  RingOnly.of_keeps (fun k hk => modTr_keeps (a0 := a0) (a1 := a1) (a2 := a2) hk (k.same_refl x)) (by decide) h

theorem checkRecovered_ring {s x : State} {a0} (h : RingOnly s x) : RingOnly s (checkRecovered x a0) :=
  RingOnly.of_keeps (fun k hk => checkRecovered_keeps (a0 := a0) hk (k.same_refl x)) (by decide) h

theorem enterActive_ring {s x : State} {a0} (h : RingOnly s x) :
    RingOnly s (enterActive x a0) := by
  unfold enterActive
  repeat' first
    | with_reducible assumption
    | with_reducible refine setResult_ring ?_
    | with_reducible refine modLink_ring ?_
    | with_reducible refine checkRecovered_ring ?_
    | with_reducible refine ite_ring ?_ ?_
    | with_reducible refine foldl_ring ?_ (fun t a h => ?_)
    | dsimp -proj only
    | split

theorem linkSymbol_ring {s x : State} {a0 a1} (h : RingOnly s x) :
    RingOnly s (linkSymbol x a0 a1) := by
  unfold linkSymbol
  repeat' first
    | with_reducible assumption
    | with_reducible refine modTr_ring ?_
    | with_reducible refine enterActive_ring ?_
    | with_reducible refine ite_ring ?_ ?_
    | with_reducible refine foldl_ring ?_ (fun t a h => ?_)
    | dsimp -proj only
    | split

theorem fillPad_ring {s x : State} {a0 a1 a2} (h : RingOnly s x) : RingOnly s (fillPad x a0 a1 a2) :=
  RingOnly.of_keeps (fun k hk => fillPad_keeps (a0 := a0) (a1 := a1) (a2 := a2) hk (k.same_refl x)) (by decide) h

theorem execPadSetPasses_ring {s x : State} {a0 a1} (h : RingOnly s x) :
    ∃ t, execPadSetPasses a0 a1 x = .next t ∧ RingOnly s t := by
  unfold execPadSetPasses
  repeat' first
    | with_reducible assumption
    | with_reducible refine done_ring ?_
    | with_reducible refine linkSymbol_ring ?_
    | with_reducible refine fillPad_ring ?_
    | with_reducible refine ite_ring ?_ ?_
    | with_reducible refine foldl_ring ?_ (fun t a h => ?_)
    | dsimp -proj only
    | split

theorem execLpReqIdle_ring {s x : State} {a0 a1} (h : RingOnly s x) :
    ∃ t, execLpReqIdle a0 a1 x = .next t ∧ RingOnly s t := by
  unfold execLpReqIdle
  repeat' first
    | with_reducible assumption
    | with_reducible refine done_ring ?_
    | with_reducible refine modLink_ring ?_
    | with_reducible refine sendOwn_ring ?_
    | with_reducible refine ite_ring ?_ ?_
    | with_reducible refine foldl_ring ?_ (fun t a h => ?_)
    | dsimp -proj only
    | split

theorem setStage_ring {s x : State} {a0 a1 a2} (h : RingOnly s x) : RingOnly s (setStage x a0 a1 a2) :=
  RingOnly.of_keeps (fun k hk => setStage_keeps (a0 := a0) (a1 := a1) (a2 := a2) hk (k.same_refl x)) (by decide) h

theorem ownDone_ring {s x : State} (h : RingOnly s x) : RingOnly s (ownDone x) :=
  RingOnly.of_keeps (fun k hk => ownDone_keeps hk (k.same_refl x)) (by decide) h

theorem execNvmErase_ring {s x : State} (h : RingOnly s x) :
    ∃ t, execNvmErase x = .next t ∧ RingOnly s t := by
  unfold execNvmErase
  repeat' first
    | with_reducible assumption
    | with_reducible refine done_ring ?_
    | with_reducible refine ownDone_ring ?_
    | with_reducible refine eraseSetUp_ring ?_
    | with_reducible refine ite_ring ?_ ?_
    | with_reducible refine foldl_ring ?_ (fun t a h => ?_)
    | dsimp -proj only
    | split

theorem switchWaiting_ring {s x : State} {a0} (h : RingOnly s x) :
    RingOnly s (switchWaiting x a0) := by
  unfold switchWaiting
  repeat' first
    | with_reducible assumption
    | with_reducible refine switchNow_ring ?_
    | with_reducible refine ite_ring ?_ ?_
    | with_reducible refine foldl_ring ?_ (fun t a h => ?_)
    | dsimp -proj only
    | split

theorem enterDisabled_ring {s x : State} {a0} (h : RingOnly s x) :
    RingOnly s (enterDisabled x a0) := by
  unfold enterDisabled
  repeat' first
    | with_reducible assumption
    | with_reducible refine switchWaiting_ring ?_
    | with_reducible refine modLink_ring ?_
    | with_reducible refine dropLink_ring ?_
    | with_reducible refine ite_ring ?_ ?_
    | with_reducible refine foldl_ring ?_ (fun t a h => ?_)
    | dsimp -proj only
    | split

theorem enterDetect_ring {s x : State} {a0 a1} (h : RingOnly s x) :
    RingOnly s (enterDetect x a0 a1) := by
  unfold enterDetect
  repeat' first
    | with_reducible assumption
    | with_reducible refine enterDisabled_ring ?_
    | with_reducible refine switchWaiting_ring ?_
    | with_reducible refine modLink_ring ?_
    | with_reducible refine partAside_ring ?_
    | with_reducible refine dropLink_ring ?_
    | with_reducible refine ite_ring ?_ ?_
    | with_reducible refine foldl_ring ?_ (fun t a h => ?_)
    | dsimp -proj only
    | split

theorem execTrainTimeout_ring {s x : State} {a0} (h : RingOnly s x) :
    ∃ t, execTrainTimeout a0 x = .next t ∧ RingOnly s t := by
  unfold execTrainTimeout
  repeat' first
    | with_reducible assumption
    | with_reducible refine done_ring ?_
    | with_reducible refine enterDetect_ring ?_
    | with_reducible refine ite_ring ?_ ?_
    | with_reducible refine foldl_ring ?_ (fun t a h => ?_)
    | dsimp -proj only
    | split

theorem upsetWord_ring {s x : State} {a0} (h : RingOnly s x) :
    RingOnly s (upsetWord x a0) := by
  unfold upsetWord
  try dsimp -zeta -proj only [upd_nvm, upd_store]
  repeat' first
    | with_reducible assumption
    | with_reducible refine putStore_ring ?_ ?_
    | with_reducible refine putNvm_ring ?_
    | with_reducible refine ite_ring ?_ ?_
    | with_reducible refine foldl_ring ?_ (fun t a h => ?_)
    | exact fun _ _ => rfl
    | dsimp -proj only
    | split

theorem upset_ring {s x : State} {a0} (h : RingOnly s x) :
    RingOnly s (upset x a0) := by
  unfold upset
  repeat' first
    | with_reducible assumption
    | with_reducible refine upsetWord_ring ?_
    | with_reducible refine ite_ring ?_ ?_
    | with_reducible refine foldl_ring ?_ (fun t a h => ?_)
    | dsimp -proj only
    | split

theorem execStoreRead_ring {s x : State} {a0 a1 a2} (h : RingOnly s x) :
    ∃ t, execStoreRead a0 a1 a2 x = .next t ∧ RingOnly s t := by
  unfold execStoreRead
  repeat' first
    | with_reducible assumption
    | with_reducible refine done_ring ?_
    | with_reducible refine busRead_ring ?_
    | with_reducible refine upset_ring ?_
    | with_reducible refine ite_ring ?_ ?_
    | with_reducible refine foldl_ring ?_ (fun t a h => ?_)
    | dsimp -proj only
    | split

theorem endEeprom_ring {s x : State} {a0} (h : RingOnly s x) : RingOnly s (endEeprom x a0) :=
  RingOnly.of_keeps (fun k hk => endEeprom_keeps (a0 := a0) hk (k.same_refl x)) (by decide) h

theorem jtagLoad_ring {s x : State} {a0} (h : RingOnly s x) : RingOnly s (jtagLoad x a0) :=
  RingOnly.of_keeps (fun k hk => jtagLoad_keeps (a0 := a0) hk (k.same_refl x)) (by decide) h

theorem execJtagHighz_ring {s x : State} (h : RingOnly s x) :
    ∃ t, execJtagHighz x = .next t ∧ RingOnly s t := by
  unfold execJtagHighz
  repeat' first
    | with_reducible assumption
    | with_reducible refine done_ring ?_
    | with_reducible refine jtagLoad_ring ?_
    | with_reducible refine ite_ring ?_ ?_
    | with_reducible refine foldl_ring ?_ (fun t a h => ?_)
    | dsimp -proj only
    | split

theorem capLoss_ring {s x : State} {a0 a1 a2 a3} (h : RingOnly s x) : RingOnly s (capLoss x a0 a1 a2 a3) :=
  RingOnly.of_keeps (fun k hk => capLoss_keeps (a0 := a0) (a1 := a1) (a2 := a2) (a3 := a3) hk (k.same_refl x)) (by decide) h

theorem noteLoss_ring {s x : State} {a0 a1 a2 a3 a4} (h : RingOnly s x) :
    RingOnly s (noteLoss x a0 a1 a2 a3 a4) := by
  unfold noteLoss
  repeat' first
    | with_reducible assumption
    | with_reducible refine capLoss_ring ?_
    | with_reducible refine modLink_ring ?_
    | with_reducible refine logLane_ring ?_
    | with_reducible refine ite_ring ?_ ?_
    | with_reducible refine foldl_ring ?_ (fun t a h => ?_)
    | dsimp -proj only
    | split

theorem setLost_ring {s x : State} {a0 a1 a2 a3} (h : RingOnly s x) : RingOnly s (setLost x a0 a1 a2 a3) :=
  RingOnly.of_keeps (fun k hk => setLost_keeps (a0 := a0) (a1 := a1) (a2 := a2) (a3 := a3) hk (k.same_refl x)) (by decide) h

theorem modRx_ring {s x : State} {a0 a1 a2} (h : RingOnly s x) : RingOnly s (modRx x a0 a1 a2) :=
  RingOnly.of_keeps (fun k hk => modRx_keeps (a0 := a0) (a1 := a1) (a2 := a2) hk (k.same_refl x)) (by decide) h

theorem markLost_ring {s x : State} {a0 a1 a2 a3} (h : RingOnly s x) :
    RingOnly s (markLost x a0 a1 a2 a3) := by
  unfold markLost
  repeat' first
    | with_reducible assumption
    | with_reducible refine setResult_ring ?_
    | with_reducible refine stopRecal_ring ?_
    | with_reducible refine noteLoss_ring ?_
    | with_reducible refine modLink_ring ?_
    | with_reducible refine setLost_ring ?_
    | with_reducible refine modRx_ring ?_
    | with_reducible refine switchLink_ring ?_
    | with_reducible refine ite_ring ?_ ?_
    | with_reducible refine foldl_ring ?_ (fun t a h => ?_)
    | dsimp -proj only
    | split

theorem turnSwap_ring {s x : State} {a0 a1 a2} (h : RingOnly s x) : RingOnly s (turnSwap x a0 a1 a2) :=
  RingOnly.of_keeps (fun k hk => turnSwap_keeps (a0 := a0) (a1 := a1) (a2 := a2) hk (k.same_refl x)) (by decide) h

theorem execRegReadClear_ring {s x : State} {a0 a1 a2} (h : RingOnly s x) :
    ∃ t, execRegReadClear a0 a1 a2 x = .next t ∧ RingOnly s t := by
  unfold execRegReadClear
  repeat' first
    | with_reducible assumption
    | with_reducible refine done_ring ?_
    | with_reducible refine busRead_ring ?_
    | with_reducible refine upset_ring ?_
    | with_reducible refine ite_ring ?_ ?_
    | with_reducible refine foldl_ring ?_ (fun t a h => ?_)
    | dsimp -proj only
    | split

theorem grantSeen_ring {s x : State} {a0 a1} (h : RingOnly s x) : RingOnly s (grantSeen x a0 a1) :=
  RingOnly.of_keeps (fun k hk => grantSeen_keeps (a0 := a0) (a1 := a1) hk (k.same_refl x)) (by decide) h

theorem startState_ring {s x : State} {a0} (h : RingOnly s x) : RingOnly s (startState x a0) :=
  RingOnly.of_keeps (fun k hk => startState_keeps (a0 := a0) hk (k.same_refl x)) (by decide) h

theorem writeAside_ring {s x : State} {a0 a1} (h : RingOnly s x) :
    RingOnly s (writeAside x a0 a1) := by
  unfold writeAside
  repeat' first
    | with_reducible assumption
    | with_reducible refine startState_ring ?_
    | with_reducible refine settle_ring ?_
    | with_reducible refine modLink_ring ?_
    | with_reducible refine standAside_ring ?_
    | with_reducible refine ite_ring ?_ ?_
    | with_reducible refine foldl_ring ?_ (fun t a h => ?_)
    | dsimp -proj only
    | split

theorem execWeltMismatch_ring {s x : State} {a0 a1} (h : RingOnly s x) :
    ∃ t, execWeltMismatch a0 a1 x = .next t ∧ RingOnly s t := by
  unfold execWeltMismatch
  try dsimp -zeta -proj only [upd_welt_evt]
  repeat' first
    | with_reducible assumption
    | with_reducible refine done_ring ?_
    | with_reducible refine logEvent_ring ?_
    | with_reducible refine writeAside_ring ?_
    | with_reducible refine putWelt_ring ?_
    | with_reducible refine putEvt_ring ?_
    | with_reducible refine ite_ring ?_ ?_
    | with_reducible refine foldl_ring ?_ (fun t a h => ?_)
    | dsimp -proj only
    | split

theorem dropSend_ring {s x : State} {a0} (h : RingOnly s x) : RingOnly s (dropSend x a0) :=
  RingOnly.of_keeps (fun k hk => dropSend_keeps (a0 := a0) hk (k.same_refl x)) (by decide) h

theorem dropCdr_ring {s x : State} {a0 a1} (h : RingOnly s x) : RingOnly s (dropCdr x a0 a1) :=
  RingOnly.of_keeps (fun k hk => dropCdr_keeps (a0 := a0) (a1 := a1) hk (k.same_refl x)) (by decide) h

theorem execLpGrantSeen_ring {s x : State} {a0 a1} (h : RingOnly s x) :
    ∃ t, execLpGrantSeen a0 a1 x = .next t ∧ RingOnly s t := by
  unfold execLpGrantSeen
  repeat' first
    | with_reducible assumption
    | with_reducible refine grantSeen_ring ?_
    | with_reducible refine done_ring ?_
    | with_reducible refine ite_ring ?_ ?_
    | with_reducible refine foldl_ring ?_ (fun t a h => ?_)
    | dsimp -proj only
    | split

theorem injectOne_ring {s x : State} {a0 a1 a2} (h : RingOnly s x) : RingOnly s (injectOne x a0 a1 a2) :=
  RingOnly.of_keeps (fun k hk => injectOne_keeps (a0 := a0) (a1 := a1) (a2 := a2) hk (k.same_refl x)) (by decide) h

theorem execCaptureTrigger_ring {s x : State} {a0 a1} (h : RingOnly s x) :
    ∃ t, execCaptureTrigger a0 a1 x = .next t ∧ RingOnly s t := by
  unfold execCaptureTrigger
  repeat' first
    | with_reducible assumption
    | with_reducible refine done_ring ?_
    | with_reducible refine keepJob_ring ?_
    | with_reducible refine ite_ring ?_ ?_
    | with_reducible refine foldl_ring ?_ (fun t a h => ?_)
    | dsimp -proj only
    | split

theorem sendTos_ring {s x : State} {a0 a1 a2 a3} (h : RingOnly s x) : RingOnly s (sendTos x a0 a1 a2 a3) :=
  RingOnly.of_keeps (fun k hk => sendTos_keeps (a0 := a0) (a1 := a1) (a2 := a2) (a3 := a3) hk (k.same_refl x)) (by decide) h

theorem modCal_ring {s x : State} {a0 a1 a2} (h : RingOnly s x) : RingOnly s (modCal x a0 a1 a2) :=
  RingOnly.of_keeps (fun k hk => modCal_keeps (a0 := a0) (a1 := a1) (a2 := a2) hk (k.same_refl x)) (by decide) h

theorem symbolAfterExchange_ring {s x : State} {a0 a1} (h : RingOnly s x) :
    RingOnly s (symbolAfterExchange x a0 a1) := by
  unfold symbolAfterExchange
  repeat' first
    | with_reducible assumption
    | with_reducible refine linkSymbol_ring ?_
    | with_reducible refine ite_ring ?_ ?_
    | with_reducible refine foldl_ring ?_ (fun t a h => ?_)
    | dsimp -proj only
    | split

theorem badMos_ring {s x : State} {a0} (h : RingOnly s x) : RingOnly s (badMos x a0) :=
  RingOnly.of_keeps (fun k hk => badMos_keeps (a0 := a0) hk (k.same_refl x)) (by decide) h

theorem takeSpareRsp_ring_eq {s x : State} {a0 a1 a2} {u} (h : RingOnly s x) (e : takeSpareRsp x a0 a1 a2 = some u) :
    RingOnly s u := by
  unfold takeSpareRsp at e
  split at e
  · cases e
    exact followStandin_ring (ite_ring (swapAck_ring h) (failSwap_ring h))
  · split at e <;> cases e
    exact modLink_ring h

theorem execSpareRspReceived_ring {s x : State} {a0 a1 a2} (h : RingOnly s x) :
    ∃ t, execSpareRspReceived a0 a1 a2 x = .next t ∧ RingOnly s t := by
  unfold execSpareRspReceived
  repeat' first
    | with_reducible assumption
    | with_reducible refine done_ring ?_
    | with_reducible refine badMos_ring ?_
    | with_reducible refine getD_ring (fun _ e => takeSpareRsp_ring_eq ?_ e) ?_
    | with_reducible refine takeSpareRsp_ring_eq ?_ (by with_reducible assumption)
    | with_reducible refine ite_ring ?_ ?_
    | with_reducible refine foldl_ring ?_ (fun t a h => ?_)
    | dsimp -proj only
    | split

theorem loadQueues_ring {s x : State} (h : RingOnly s x) : RingOnly s (loadQueues x) :=
  RingOnly.of_keeps (fun k hk => loadQueues_keeps hk (k.same_refl x)) (by decide) h

theorem useFree_ring {s x : State} (h : RingOnly s x) : RingOnly s (useFree x).2 :=
  RingOnly.of_keeps (fun k hk => useFree_keeps hk (k.same_refl x)) (by decide) h

theorem useFree_ring_eq {s x : State} {r u} (h : RingOnly s x) (e : useFree x = (r, u)) :
    RingOnly s u := 
  RingOnly.of_keeps (fun k hk => useFree_keeps_eq hk (k.same_refl x) e) (by decide) h

theorem loadPatch_ring {s x : State} (h : RingOnly s x) :
    RingOnly s (loadPatch x) := by
  unfold loadPatch
  try dsimp -zeta -proj only [upd_heel]
  repeat' first
    | with_reducible assumption
    | with_reducible refine logEvent_ring ?_
    | with_reducible refine useFree_ring ?_
    | with_reducible refine useFree_ring_eq ?_ (by with_reducible assumption)
    | with_reducible refine readAll_ring ?_
    | with_reducible refine readAll_ring_eq ?_ (by with_reducible assumption)
    | with_reducible refine putHeel_ring ?_
    | with_reducible refine ite_ring ?_ ?_
    | with_reducible refine foldl_ring ?_ (fun t a h => ?_)
    | dsimp -proj only
    | split

theorem loadWindows_ring {s x : State} (h : RingOnly s x) : RingOnly s (loadWindows x) :=
  RingOnly.of_keeps (fun k hk => loadWindows_keeps hk (k.same_refl x)) (by decide) h

theorem loadPrograms_ring {s x : State} (h : RingOnly s x) : RingOnly s (loadPrograms x) :=
  RingOnly.of_keeps (fun k hk => loadPrograms_keeps hk (k.same_refl x)) (by decide) h

theorem loadSpares_ring {s x : State} (h : RingOnly s x) : RingOnly s (loadSpares x) :=
  RingOnly.of_keeps (fun k hk => loadSpares_keeps hk (k.same_refl x)) (by decide) h

theorem applyGlobal_ring {s x : State} (h : RingOnly s x) :
    RingOnly s (applyGlobal x) := by
  unfold applyGlobal
  try dsimp -zeta -proj only [upd_boot_store]
  repeat' first
    | with_reducible assumption
    | with_reducible refine logEvent_ring ?_
    | with_reducible refine loadQueues_ring ?_
    | with_reducible refine loadPatch_ring ?_
    | with_reducible refine loadWindows_ring ?_
    | with_reducible refine loadPrograms_ring ?_
    | with_reducible refine loadSpares_ring ?_
    | with_reducible refine putBoot_ring ?_
    | with_reducible refine putStore_ring ?_ ?_
    | with_reducible refine ite_ring ?_ ?_
    | with_reducible refine foldl_ring ?_ (fun t a h => ?_)
    | exact fun _ _ => rfl
    | dsimp -proj only
    | split

theorem execGlobalApply_ring {s x : State} (h : RingOnly s x) :
    ∃ t, execGlobalApply x = .next t ∧ RingOnly s t := by
  unfold execGlobalApply
  repeat' first
    | with_reducible assumption
    | with_reducible refine done_ring ?_
    | with_reducible refine applyGlobal_ring ?_
    | with_reducible refine ite_ring ?_ ?_
    | with_reducible refine foldl_ring ?_ (fun t a h => ?_)
    | dsimp -proj only
    | split

theorem modSnap_ring {s x : State} {a0 a1 a2} (h : RingOnly s x) : RingOnly s (modSnap x a0 a1 a2) :=
  RingOnly.of_keeps (fun k hk => modSnap_keeps (a0 := a0) (a1 := a1) (a2 := a2) hk (k.same_refl x)) (by decide) h

theorem execSnapshotExpiry_ring {s x : State} {a0 a1} (h : RingOnly s x) :
    ∃ t, execSnapshotExpiry a0 a1 x = .next t ∧ RingOnly s t := by
  unfold execSnapshotExpiry
  repeat' first
    | with_reducible assumption
    | with_reducible refine done_ring ?_
    | with_reducible refine modSnap_ring ?_
    | with_reducible refine ite_ring ?_ ?_
    | with_reducible refine foldl_ring ?_ (fun t a h => ?_)
    | dsimp -proj only
    | split

theorem logCandidate_ring {s x : State} {a0 a1} (h : RingOnly s x) :
    RingOnly s (logCandidate x a0 a1) := by
  unfold logCandidate
  repeat' first
    | with_reducible assumption
    | with_reducible refine logEvent_ring ?_
    | with_reducible refine ite_ring ?_ ?_
    | with_reducible refine foldl_ring ?_ (fun t a h => ?_)
    | dsimp -proj only
    | split

theorem useLast_ring {s x : State} {a0 a1 a2} (h : RingOnly s x) :
    RingOnly s (useLast x a0 a1 a2) := by
  unfold useLast
  try dsimp -zeta -proj only [upd_boot_last]
  repeat' first
    | with_reducible assumption
    | with_reducible refine settleAll_ring ?_
    | with_reducible refine putBoot_ring ?_
    | with_reducible refine putLast_ring ?_
    | with_reducible refine ite_ring ?_ ?_
    | with_reducible refine foldl_ring ?_ (fun t a h => ?_)
    | dsimp -proj only
    | split

theorem checkSlot_ring {s x : State} {a0} (h : RingOnly s x) : RingOnly s (checkSlot x a0).2 :=
  RingOnly.of_keeps (fun k hk => checkSlot_keeps (a0 := a0) hk (k.same_refl x)) (by decide) h

theorem checkSlot_ring_eq {s x : State} {a0} {r u} (h : RingOnly s x) (e : checkSlot x a0 = (r, u)) :
    RingOnly s u := 
  RingOnly.of_keeps (fun k hk => checkSlot_keeps_eq (a0 := a0) hk (k.same_refl x) e) (by decide) h

theorem selectLow_ring {s x : State} {a0} (h : RingOnly s x) :
    RingOnly s (selectLow x a0) := by
  unfold selectLow
  try dsimp -zeta -proj only [upd_last]
  repeat' first
    | with_reducible assumption
    | with_reducible refine checkSlot_ring ?_
    | with_reducible refine checkSlot_ring_eq ?_ (by with_reducible assumption)
    | with_reducible refine logCandidate_ring ?_
    | with_reducible refine useLast_ring ?_
    | with_reducible refine putLast_ring ?_
    | with_reducible refine ite_ring ?_ ?_
    | with_reducible refine foldl_ring ?_ (fun t a h => ?_)
    | dsimp -proj only
    | split

theorem selectNvm_ring {s x : State} {a0} (h : RingOnly s x) :
    RingOnly s (selectNvm x a0) := by
  unfold selectNvm
  try dsimp -zeta -proj only [upd_last]
  repeat' first
    | with_reducible assumption
    | with_reducible refine checkSlot_ring ?_
    | with_reducible refine checkSlot_ring_eq ?_ (by with_reducible assumption)
    | with_reducible refine logCandidate_ring ?_
    | with_reducible refine useLast_ring ?_
    | with_reducible refine selectLow_ring ?_
    | with_reducible refine putLast_ring ?_
    | with_reducible refine ite_ring ?_ ?_
    | with_reducible refine foldl_ring ?_ (fun t a h => ?_)
    | dsimp -proj only
    | split

theorem selectLast_ring {s x : State} (h : RingOnly s x) :
    RingOnly s (selectLast x) := by
  unfold selectLast
  try dsimp -zeta -proj only [upd_boot, upd_last]
  repeat' first
    | with_reducible assumption
    | with_reducible refine logCandidate_ring ?_
    | with_reducible refine useLast_ring ?_
    | with_reducible refine selectNvm_ring ?_
    | with_reducible refine putBoot_ring ?_
    | with_reducible refine putLast_ring ?_
    | with_reducible refine ite_ring ?_ ?_
    | with_reducible refine foldl_ring ?_ (fun t a h => ?_)
    | dsimp -proj only
    | split

theorem predictOne_ring {s x : State} {a0 a1 a2} (h : RingOnly s x) : RingOnly s (predictOne x a0 a1 a2) :=
  RingOnly.of_keeps (fun k hk => predictOne_keeps (a0 := a0) (a1 := a1) (a2 := a2) hk (k.same_refl x)) (by decide) h

theorem execPredictiveEvaluation_ring {s x : State} (h : RingOnly s x) :
    ∃ t, execPredictiveEvaluation x = .next t ∧ RingOnly s t := by
  unfold execPredictiveEvaluation
  repeat' first
    | with_reducible assumption
    | with_reducible refine done_ring ?_
    | with_reducible refine predictOne_ring ?_
    | with_reducible refine ite_ring ?_ ?_
    | with_reducible refine foldl_ring ?_ (fun t a h => ?_)
    | dsimp -proj only
    | split

theorem logTx_ring {s x : State} {a0 a1 a2 a3} (h : RingOnly s x) :
    RingOnly s (logTx x a0 a1 a2 a3) := by
  unfold logTx
  repeat' first
    | with_reducible assumption
    | with_reducible refine logEvent_ring ?_
    | with_reducible refine ite_ring ?_ ?_
    | with_reducible refine foldl_ring ?_ (fun t a h => ?_)
    | dsimp -proj only
    | split

theorem execSwingLimit_ring {s x : State} {a0 a1 a2} (h : RingOnly s x) :
    ∃ t, execSwingLimit a0 a1 a2 x = .next t ∧ RingOnly s t := by
  unfold execSwingLimit
  repeat' first
    | with_reducible assumption
    | with_reducible refine done_ring ?_
    | with_reducible refine modTx_ring ?_
    | with_reducible refine logTx_ring ?_
    | with_reducible refine ite_ring ?_ ?_
    | with_reducible refine foldl_ring ?_ (fun t a h => ?_)
    | dsimp -proj only
    | split

theorem searchEvent_ring {s x : State} {a0 a1 a2} (h : RingOnly s x) : RingOnly s (searchEvent x a0 a1 a2) :=
  RingOnly.of_keeps (fun k hk => searchEvent_keeps (a0 := a0) (a1 := a1) (a2 := a2) hk (k.same_refl x)) (by decide) h

theorem execPresetSearchStep_ring {s x : State} {a0 a1 a2} (h : RingOnly s x) :
    ∃ t, execPresetSearchStep a0 a1 a2 x = .next t ∧ RingOnly s t := by
  unfold execPresetSearchStep
  repeat' first
    | with_reducible assumption
    | with_reducible refine done_ring ?_
    | with_reducible refine searchEvent_ring ?_
    | with_reducible refine ite_ring ?_ ?_
    | with_reducible refine foldl_ring ?_ (fun t a h => ?_)
    | dsimp -proj only
    | split

theorem laneRestart_ring {s x : State} {a0} (h : RingOnly s x) : RingOnly s (laneRestart x a0) :=
  RingOnly.of_keeps (fun k hk => laneRestart_keeps (a0 := a0) hk (k.same_refl x)) (by decide) h

theorem modLast_ring {s x : State} {a0} (h : RingOnly s x) : RingOnly s (modLast x a0) :=
  RingOnly.of_keeps (fun k hk => modLast_keeps (a0 := a0) hk (k.same_refl x)) (by decide) h

theorem rollback_ring {s x : State} {a0} (h : RingOnly s x) :
    RingOnly s (rollback x a0) := by
  unfold rollback
  repeat' first
    | with_reducible assumption
    | with_reducible refine setResult_ring ?_
    | with_reducible refine takeUp_ring ?_
    | with_reducible refine laneRestart_ring ?_
    | with_reducible refine modLast_ring ?_
    | with_reducible refine requestRetrain_ring ?_
    | with_reducible refine ite_ring ?_ ?_
    | with_reducible refine foldl_ring ?_ (fun t a h => ?_)
    | dsimp -proj only
    | split

theorem modJtag_ring {s x : State} {a0} (h : RingOnly s x) : RingOnly s (modJtag x a0) :=
  RingOnly.of_keeps (fun k hk => modJtag_keeps (a0 := a0) hk (k.same_refl x)) (by decide) h

theorem execJtagIdcode_ring {s x : State} (h : RingOnly s x) :
    ∃ t, execJtagIdcode x = .next t ∧ RingOnly s t := by
  unfold execJtagIdcode
  repeat' first
    | with_reducible assumption
    | with_reducible refine done_ring ?_
    | with_reducible refine jtagLoad_ring ?_
    | with_reducible refine modJtag_ring ?_
    | with_reducible refine ite_ring ?_ ?_
    | with_reducible refine foldl_ring ?_ (fun t a h => ?_)
    | dsimp -proj only
    | split

theorem aligningLost_ring {s x : State} {a0 a1 a2 a3} (h : RingOnly s x) :
    RingOnly s (aligningLost x a0 a1 a2 a3) := by
  unfold aligningLost
  repeat' first
    | with_reducible assumption
    | with_reducible refine noteLoss_ring ?_
    | with_reducible refine failSwap_ring ?_
    | with_reducible refine ite_ring ?_ ?_
    | with_reducible refine foldl_ring ?_ (fun t a h => ?_)
    | dsimp -proj only
    | split

theorem forwardLost_ring {s x : State} {a0 a1 a2 a3} (h : RingOnly s x) :
    RingOnly s (forwardLost x a0 a1 a2 a3) := by
  unfold forwardLost
  repeat' first
    | with_reducible assumption
    | with_reducible refine noteLoss_ring ?_
    | with_reducible refine modRx_ring ?_
    | with_reducible refine setSpare_ring ?_
    | with_reducible refine ite_ring ?_ ?_
    | with_reducible refine foldl_ring ?_ (fun t a h => ?_)
    | dsimp -proj only
    | split

theorem abandonPlanned_ring {s x : State} {a0 a1} (h : RingOnly s x) :
    RingOnly s (abandonPlanned x a0 a1) := by
  unfold abandonPlanned
  repeat' first
    | with_reducible assumption
    | with_reducible refine restSpare_ring ?_
    | with_reducible refine dropSwap_ring ?_
    | with_reducible refine giveUp_ring ?_
    | with_reducible refine ite_ring ?_ ?_
    | with_reducible refine foldl_ring ?_ (fun t a h => ?_)
    | dsimp -proj only
    | split

theorem policySpare_ring {s x : State} {a0 a1 a2} (h : RingOnly s x) :
    RingOnly s (policySpare x a0 a1 a2) := by
  unfold policySpare
  repeat' first
    | with_reducible assumption
    | with_reducible refine abandonPlanned_ring ?_
    | with_reducible refine modLink_ring ?_
    | with_reducible refine lossSpare_ring ?_
    | with_reducible refine ite_ring ?_ ?_
    | with_reducible refine foldl_ring ?_ (fun t a h => ?_)
    | dsimp -proj only
    | split

theorem lossPolicy_ring {s x : State} {a0 a1 a2} (h : RingOnly s x) :
    RingOnly s (lossPolicy x a0 a1 a2) := by
  unfold lossPolicy
  repeat' first
    | with_reducible assumption
    | with_reducible refine policySpare_ring ?_
    | with_reducible refine lossDegrade_ring ?_
    | with_reducible refine lossDown_ring ?_
    | with_reducible refine ite_ring ?_ ?_
    | with_reducible refine foldl_ring ?_ (fun t a h => ?_)
    | dsimp -proj only
    | split

theorem afterLoss_ring {s x : State} {a0 a1 a2} (h : RingOnly s x) :
    RingOnly s (afterLoss x a0 a1 a2) := by
  unfold afterLoss
  repeat' first
    | with_reducible assumption
    | with_reducible refine turnSwap_ring ?_
    | with_reducible refine lossPolicy_ring ?_
    | with_reducible refine enterRetrain_ring ?_
    | with_reducible refine requestRetrain_ring ?_
    | with_reducible refine ite_ring ?_ ?_
    | with_reducible refine foldl_ring ?_ (fun t a h => ?_)
    | dsimp -proj only
    | split

theorem moveEditLane_ring {s x : State} {a0 a1} (h : RingOnly s x) :
    RingOnly s (moveEditLane x a0 a1) := by
  unfold moveEditLane
  repeat' first
    | with_reducible assumption
    | with_reducible refine modLink_ring ?_
    | with_reducible refine logLane_ring ?_
    | with_reducible refine ite_ring ?_ ?_
    | with_reducible refine foldl_ring ?_ (fun t a h => ?_)
    | dsimp -proj only
    | split

theorem afterLosses_ring {s x : State} {a0 a1 a2} (h : RingOnly s x) :
    RingOnly s (afterLosses x a0 a1 a2) := by
  unfold afterLosses
  repeat' first
    | with_reducible assumption
    | with_reducible refine afterLoss_ring ?_
    | with_reducible refine moveEditLane_ring ?_
    | with_reducible refine ite_ring ?_ ?_
    | with_reducible refine foldl_ring ?_ (fun t a h => ?_)
    | dsimp -proj only
    | split

theorem declareLost_ring {s x : State} {a0 a1 a2 a3} (h : RingOnly s x) :
    RingOnly s (declareLost x a0 a1 a2 a3) := by
  unfold declareLost
  repeat' first
    | with_reducible assumption
    | with_reducible refine markLost_ring ?_
    | with_reducible refine afterLosses_ring ?_
    | with_reducible refine ite_ring ?_ ?_
    | with_reducible refine foldl_ring ?_ (fun t a h => ?_)
    | dsimp -proj only
    | split

theorem rxLost_ring {s x : State} {a0 a1 a2} (h : RingOnly s x) :
    RingOnly s (rxLost x a0 a1 a2) := by
  unfold rxLost
  repeat' first
    | with_reducible assumption
    | with_reducible refine aligningLost_ring ?_
    | with_reducible refine forwardLost_ring ?_
    | with_reducible refine declareLost_ring ?_
    | with_reducible refine ite_ring ?_ ?_
    | with_reducible refine foldl_ring ?_ (fun t a h => ?_)
    | dsimp -proj only
    | split

theorem takeHops_ring {s x : State} {a0 a1 a2} (h : RingOnly s x) :
    RingOnly s (takeHops x a0 a1 a2) := by
  unfold takeHops
  repeat' first
    | with_reducible assumption
    | with_reducible refine modLink_ring ?_
    | with_reducible refine logK_ring ?_
    | with_reducible refine ite_ring ?_ ?_
    | with_reducible refine foldl_ring ?_ (fun t a h => ?_)
    | dsimp -proj only
    | split

theorem seenTos_ring {s x : State} {a0 a1 a2} (h : RingOnly s x) : RingOnly s (seenTos x a0 a1 a2) :=
  RingOnly.of_keeps (fun k hk => seenTos_keeps (a0 := a0) (a1 := a1) (a2 := a2) hk (k.same_refl x)) (by decide) h

theorem readTosA_ring {s x : State} {a0 a1 a2 a3} (h : RingOnly s x) : RingOnly s (readTosA x a0 a1 a2 a3) :=
  RingOnly.of_keeps (fun k hk => readTosA_keeps (a0 := a0) (a1 := a1) (a2 := a2) (a3 := a3) hk (k.same_refl x)) (by decide) h

theorem tosAIn_ring {s x : State} {a0 a1 a2 a3} (h : RingOnly s x) :
    RingOnly s (tosAIn x a0 a1 a2 a3) := by
  unfold tosAIn
  repeat' first
    | with_reducible assumption
    | with_reducible refine takeHops_ring ?_
    | with_reducible refine sendTos_ring ?_
    | with_reducible refine seenTos_ring ?_
    | with_reducible refine readTosA_ring ?_
    | with_reducible refine ite_ring ?_ ?_
    | with_reducible refine foldl_ring ?_ (fun t a h => ?_)
    | dsimp -proj only
    | split

theorem startJoin_ring {s x : State} {a0} (h : RingOnly s x) :
    RingOnly s (startJoin x a0) := by
  unfold startJoin
  repeat' first
    | with_reducible assumption
    | with_reducible refine settle_ring ?_
    | with_reducible refine modLink_ring ?_
    | with_reducible refine ite_ring ?_ ?_
    | with_reducible refine foldl_ring ?_ (fun t a h => ?_)
    | dsimp -proj only
    | split

theorem execJoinTimeout_ring {s x : State} {a0} (h : RingOnly s x) :
    ∃ t, execJoinTimeout a0 x = .next t ∧ RingOnly s t := by
  unfold execJoinTimeout
  repeat' first
    | with_reducible assumption
    | with_reducible refine done_ring ?_
    | with_reducible refine logK_ring ?_
    | with_reducible refine startJoin_ring ?_
    | with_reducible refine ite_ring ?_ ?_
    | with_reducible refine foldl_ring ?_ (fun t a h => ?_)
    | dsimp -proj only
    | split

theorem execJtagClamp_ring {s x : State} (h : RingOnly s x) :
    ∃ t, execJtagClamp x = .next t ∧ RingOnly s t := by
  unfold execJtagClamp
  repeat' first
    | with_reducible assumption
    | with_reducible refine done_ring ?_
    | with_reducible refine jtagLoad_ring ?_
    | with_reducible refine ite_ring ?_ ?_
    | with_reducible refine foldl_ring ?_ (fun t a h => ?_)
    | dsimp -proj only
    | split

theorem recalStep_ring {s x : State} {a0} (h : RingOnly s x) : RingOnly s (recalStep x a0) :=
  RingOnly.of_keeps (fun k hk => recalStep_keeps (a0 := a0) hk (k.same_refl x)) (by decide) h

theorem execRecalStep_ring {s x : State} {a0} (h : RingOnly s x) :
    ∃ t, execRecalStep a0 x = .next t ∧ RingOnly s t := by
  unfold execRecalStep
  repeat' first
    | with_reducible assumption
    | with_reducible refine done_ring ?_
    | with_reducible refine recalStep_ring ?_
    | with_reducible refine ite_ring ?_ ?_
    | with_reducible refine foldl_ring ?_ (fun t a h => ?_)
    | dsimp -proj only
    | split

theorem laneZeroIdle_ring {s x : State} {a0 a1} (h : RingOnly s x) :
    RingOnly s (laneZeroIdle x a0 a1) := by
  unfold laneZeroIdle
  repeat' first
    | with_reducible assumption
    | with_reducible refine enterDisabled_ring ?_
    | with_reducible refine modLink_ring ?_
    | with_reducible refine enterDetect_ring ?_
    | with_reducible refine ite_ring ?_ ?_
    | with_reducible refine foldl_ring ?_ (fun t a h => ?_)
    | dsimp -proj only
    | split

theorem execElectricalIdleDetected_ring {s x : State} {a0 a1} (h : RingOnly s x) :
    ∃ t, execElectricalIdleDetected a0 a1 x = .next t ∧ RingOnly s t := by
  unfold execElectricalIdleDetected
  repeat' first
    | with_reducible assumption
    | with_reducible refine done_ring ?_
    | with_reducible refine modRx_ring ?_
    | with_reducible refine laneZeroIdle_ring ?_
    | with_reducible refine ite_ring ?_ ?_
    | with_reducible refine foldl_ring ?_ (fun t a h => ?_)
    | dsimp -proj only
    | split

theorem holdSet_ring {s x : State} {a0 a1 a2} (h : RingOnly s x) : RingOnly s (holdSet x a0 a1 a2) :=
  RingOnly.of_keeps (fun k hk => holdSet_keeps (a0 := a0) (a1 := a1) (a2 := a2) hk (k.same_refl x)) (by decide) h

theorem programCopy_ring {s x : State} {a0 a1 a2} (h : RingOnly s x) : RingOnly s (programCopy x a0 a1 a2) :=
  RingOnly.of_keeps (fun k hk => programCopy_keeps (a0 := a0) (a1 := a1) (a2 := a2) hk (k.same_refl x)) (by decide) h

theorem writeRecord_ring {s x : State} {a0} (h : RingOnly s x) :
    RingOnly s (writeRecord x a0) := by
  unfold writeRecord
  try dsimp -zeta -proj only [upd_cal]
  repeat' first
    | with_reducible assumption
    | with_reducible refine logEvent_ring ?_
    | with_reducible refine endErase_ring ?_
    | with_reducible refine beginErase_ring ?_
    | with_reducible refine programCopy_ring ?_
    | with_reducible refine putCal_ring ?_
    | with_reducible refine ite_ring ?_ ?_
    | with_reducible refine foldl_ring ?_ (fun t a h => ?_)
    | dsimp -proj only
    | split

theorem execCalrecWrite_ring {s x : State} {a0} (h : RingOnly s x) :
    ∃ t, execCalrecWrite a0 x = .next t ∧ RingOnly s t := by
  unfold execCalrecWrite
  repeat' first
    | with_reducible assumption
    | with_reducible refine done_ring ?_
    | with_reducible refine ownDone_ring ?_
    | with_reducible refine writeRecord_ring ?_
    | with_reducible refine ite_ring ?_ ?_
    | with_reducible refine foldl_ring ?_ (fun t a h => ?_)
    | dsimp -proj only
    | split

theorem logWork_ring {s x : State} {a0} (h : RingOnly s x) : RingOnly s (logWork x a0) :=
  RingOnly.of_keeps (fun k hk => logWork_keeps (a0 := a0) hk (k.same_refl x)) (by decide) h

theorem execNvmLogWrite_ring {s x : State} {a0} (h : RingOnly s x) :
    ∃ t, execNvmLogWrite a0 x = .next t ∧ RingOnly s t := by
  unfold execNvmLogWrite
  repeat' first
    | with_reducible assumption
    | with_reducible refine done_ring ?_
    | with_reducible refine ownDone_ring ?_
    | with_reducible refine logWork_ring ?_
    | with_reducible refine ite_ring ?_ ?_
    | with_reducible refine foldl_ring ?_ (fun t a h => ?_)
    | dsimp -proj only
    | split

theorem execTrainingSweepEnd_ring {s x : State} {a0 a1 a2 a3} (h : RingOnly s x) :
    ∃ t, execTrainingSweepEnd a0 a1 a2 a3 x = .next t ∧ RingOnly s t := by
  unfold execTrainingSweepEnd
  repeat' first
    | with_reducible assumption
    | with_reducible refine done_ring ?_
    | with_reducible refine modMeas_ring ?_
    | with_reducible refine ite_ring ?_ ?_
    | with_reducible refine foldl_ring ?_ (fun t a h => ?_)
    | dsimp -proj only
    | split

theorem modPower_ring {s x : State} {a0} (h : RingOnly s x) : RingOnly s (modPower x a0) :=
  RingOnly.of_keeps (fun k hk => modPower_keeps (a0 := a0) hk (k.same_refl x)) (by decide) h

theorem execWeltCauseClears_ring {s x : State} {a0} (h : RingOnly s x) :
    ∃ t, execWeltCauseClears a0 x = .next t ∧ RingOnly s t := by
  unfold execWeltCauseClears
  repeat' first
    | with_reducible assumption
    | with_reducible refine done_ring ?_
    | with_reducible refine settle_ring ?_
    | with_reducible refine modPower_ring ?_
    | with_reducible refine modPins_ring ?_
    | with_reducible refine ite_ring ?_ ?_
    | with_reducible refine foldl_ring ?_ (fun t a h => ?_)
    | dsimp -proj only
    | split

theorem execSwingRaise_ring {s x : State} {a0 a1 a2} (h : RingOnly s x) :
    ∃ t, execSwingRaise a0 a1 a2 x = .next t ∧ RingOnly s t := by
  unfold execSwingRaise
  repeat' first
    | with_reducible assumption
    | with_reducible refine done_ring ?_
    | with_reducible refine modTx_ring ?_
    | with_reducible refine ite_ring ?_ ?_
    | with_reducible refine foldl_ring ?_ (fun t a h => ?_)
    | dsimp -proj only
    | split

theorem moveForward_ring {s x : State} {a0 a1 a2 a3} (h : RingOnly s x) :
    RingOnly s (moveForward x a0 a1 a2 a3) := by
  unfold moveForward
  repeat' first
    | with_reducible assumption
    | with_reducible refine declareLost_ring ?_
    | with_reducible refine setSpare_ring ?_
    | with_reducible refine ite_ring ?_ ?_
    | with_reducible refine foldl_ring ?_ (fun t a h => ?_)
    | dsimp -proj only
    | split

theorem passSpare_ring {s x : State} {a0 a1} (h : RingOnly s x) :
    RingOnly s (passSpare x a0 a1) := by
  unfold passSpare
  repeat' first
    | with_reducible assumption
    | with_reducible refine restSpare_ring ?_
    | with_reducible refine moveForward_ring ?_
    | with_reducible refine setSpare_ring ?_
    | with_reducible refine ite_ring ?_ ?_
    | with_reducible refine foldl_ring ?_ (fun t a h => ?_)
    | dsimp -proj only
    | split

theorem execSpareMosForwarded_ring {s x : State} {a0 a1} (h : RingOnly s x) :
    ∃ t, execSpareMosForwarded a0 a1 x = .next t ∧ RingOnly s t := by
  unfold execSpareMosForwarded
  repeat' first
    | with_reducible assumption
    | with_reducible refine done_ring ?_
    | with_reducible refine passSpare_ring ?_
    | with_reducible refine ite_ring ?_ ?_
    | with_reducible refine foldl_ring ?_ (fun t a h => ?_)
    | dsimp -proj only
    | split

theorem execPrbsJobInject_ring {s x : State} {a0 a1} (h : RingOnly s x) :
    ∃ t, execPrbsJobInject a0 a1 x = .next t ∧ RingOnly s t := by
  unfold execPrbsJobInject
  repeat' first
    | with_reducible assumption
    | with_reducible refine done_ring ?_
    | with_reducible refine injectOne_ring ?_
    | with_reducible refine ite_ring ?_ ?_
    | with_reducible refine foldl_ring ?_ (fun t a h => ?_)
    | dsimp -proj only
    | split

theorem modPrbsJob_ring {s x : State} {a0 a1 a2} (h : RingOnly s x) : RingOnly s (modPrbsJob x a0 a1 a2) :=
  RingOnly.of_keeps (fun k hk => modPrbsJob_keeps (a0 := a0) (a1 := a1) (a2 := a2) hk (k.same_refl x)) (by decide) h

theorem execPrbsCheckerLock_ring {s x : State} {a0 a1} (h : RingOnly s x) :
    ∃ t, execPrbsCheckerLock a0 a1 x = .next t ∧ RingOnly s t := by
  unfold execPrbsCheckerLock
  repeat' first
    | with_reducible assumption
    | with_reducible refine done_ring ?_
    | with_reducible refine modMeas_ring ?_
    | with_reducible refine modPrbsJob_ring ?_
    | with_reducible refine ite_ring ?_ ?_
    | with_reducible refine foldl_ring ?_ (fun t a h => ?_)
    | dsimp -proj only
    | split

theorem execTestEnHigh_ring {s x : State} (h : RingOnly s x) :
    ∃ t, execTestEnHigh x = .next t ∧ RingOnly s t := by
  unfold execTestEnHigh
  try dsimp -zeta -proj only [upd_boot_twb]
  repeat' first
    | with_reducible assumption
    | with_reducible refine done_ring ?_
    | with_reducible refine settle_ring ?_
    | with_reducible refine modPins_ring ?_
    | with_reducible refine putBoot_ring ?_
    | with_reducible refine putTwb_ring ?_
    | with_reducible refine ite_ring ?_ ?_
    | with_reducible refine foldl_ring ?_ (fun t a h => ?_)
    | dsimp -proj only
    | split

theorem restoreLane_ring {s x : State} {a0 a1 a2} (h : RingOnly s x) :
    RingOnly s (restoreLane x a0 a1 a2) := by
  unfold restoreLane
  repeat' first
    | with_reducible assumption
    | with_reducible refine setLost_ring ?_
    | with_reducible refine logLane_ring ?_
    | with_reducible refine checkRecovered_ring ?_
    | with_reducible refine ite_ring ?_ ?_
    | with_reducible refine foldl_ring ?_ (fun t a h => ?_)
    | dsimp -proj only
    | split

theorem watchForward_ring {s x : State} {a0 a1 a2} (h : RingOnly s x) :
    RingOnly s (watchForward x a0 a1 a2) := by
  unfold watchForward
  repeat' first
    | with_reducible assumption
    | with_reducible refine modRx_ring ?_
    | with_reducible refine logLane_ring ?_
    | with_reducible refine setSpare_ring ?_
    | with_reducible refine ite_ring ?_ ?_
    | with_reducible refine foldl_ring ?_ (fun t a h => ?_)
    | dsimp -proj only
    | split

theorem watchSkew_ring {s x : State} {a0 a1 a2} (h : RingOnly s x) :
    RingOnly s (watchSkew x a0 a1 a2) := by
  unfold watchSkew
  repeat' first
    | with_reducible assumption
    | with_reducible refine restoreLane_ring ?_
    | with_reducible refine logL_ring ?_
    | with_reducible refine modRx_ring ?_
    | with_reducible refine watchForward_ring ?_
    | with_reducible refine requestRetrain_ring ?_
    | with_reducible refine ite_ring ?_ ?_
    | with_reducible refine foldl_ring ?_ (fun t a h => ?_)
    | dsimp -proj only
    | split

theorem fillSkip_ring {s x : State} {a0 a1 a2} (h : RingOnly s x) : RingOnly s (fillSkip x a0 a1 a2) :=
  RingOnly.of_keeps (fun k hk => fillSkip_keeps (a0 := a0) (a1 := a1) (a2 := a2) hk (k.same_refl x)) (by decide) h

theorem editSet_ring {s x : State} {a0 a1 a2} (h : RingOnly s x) : RingOnly s (editSet x a0 a1 a2).2 :=
  RingOnly.of_keeps (fun k hk => editSet_keeps (a0 := a0) (a1 := a1) (a2 := a2) hk (k.same_refl x)) (by decide) h

theorem editSet_ring_eq {s x : State} {a0 a1 a2} {r u} (h : RingOnly s x) (e : editSet x a0 a1 a2 = (r, u)) :
    RingOnly s u := 
  RingOnly.of_keeps (fun k hk => editSet_keeps_eq (a0 := a0) (a1 := a1) (a2 := a2) hk (k.same_refl x) e) (by decide) h

theorem receiveSwitch_ring {s x : State} {a0 a1} (h : RingOnly s x) : RingOnly s (receiveSwitch x a0 a1) :=
  RingOnly.of_keeps (fun k hk => receiveSwitch_keeps (a0 := a0) (a1 := a1) hk (k.same_refl x)) (by decide) h

theorem swapSkip_ring {s x : State} {a0 a1 a2} (h : RingOnly s x) :
    RingOnly s (swapSkip x a0 a1 a2) := by
  unfold swapSkip
  repeat' first
    | with_reducible assumption
    | with_reducible refine modLink_ring ?_
    | with_reducible refine receiveSwitch_ring ?_
    | with_reducible refine failSwap_ring ?_
    | with_reducible refine setSpare_ring ?_
    | with_reducible refine ite_ring ?_ ?_
    | with_reducible refine foldl_ring ?_ (fun t a h => ?_)
    | dsimp -proj only
    | split

theorem execSkipSetArrives_ring {s x : State} {a0 a1 a2} (h : RingOnly s x) :
    ∃ t, execSkipSetArrives a0 a1 a2 x = .next t ∧ RingOnly s t := by
  unfold execSkipSetArrives
  repeat' first
    | with_reducible assumption
    | with_reducible refine done_ring ?_
    | with_reducible refine watchSkew_ring ?_
    | with_reducible refine fillSkip_ring ?_
    | with_reducible refine editSet_ring ?_
    | with_reducible refine editSet_ring_eq ?_ (by with_reducible assumption)
    | with_reducible refine swapSkip_ring ?_
    | with_reducible refine symbolAfterExchange_ring ?_
    | with_reducible refine ite_ring ?_ ?_
    | with_reducible refine foldl_ring ?_ (fun t a h => ?_)
    | dsimp -proj only
    | split

theorem holdLoop_ring {s x : State} {a0 a1} (h : RingOnly s x) : RingOnly s (holdLoop x a0 a1) :=
  RingOnly.of_keeps (fun k hk => holdLoop_keeps (a0 := a0) (a1 := a1) hk (k.same_refl x)) (by decide) h

theorem releaseForward_ring {s x : State} {a0 a1} (h : RingOnly s x) :
    RingOnly s (releaseForward x a0 a1) := by
  unfold releaseForward
  repeat' first
    | with_reducible assumption
    | with_reducible refine restSpare_ring ?_
    | with_reducible refine ite_ring ?_ ?_
    | with_reducible refine foldl_ring ?_ (fun t a h => ?_)
    | dsimp -proj only
    | split

theorem symLossRetrain_ring {s x : State} {a0 a1} (h : RingOnly s x) :
    RingOnly s (symLossRetrain x a0 a1) := by
  unfold symLossRetrain
  repeat' first
    | with_reducible assumption
    | with_reducible refine enterRetrain_ring ?_
    | with_reducible refine ite_ring ?_ ?_
    | with_reducible refine foldl_ring ?_ (fun t a h => ?_)
    | dsimp -proj only
    | split

theorem execCdrLockLost_ring {s x : State} {a0 a1} (h : RingOnly s x) :
    ∃ t, execCdrLockLost a0 a1 x = .next t ∧ RingOnly s t := by
  unfold execCdrLockLost
  repeat' first
    | with_reducible assumption
    | with_reducible refine done_ring ?_
    | with_reducible refine holdLoop_ring ?_
    | with_reducible refine rxLost_ring ?_
    | with_reducible refine releaseForward_ring ?_
    | with_reducible refine symLossRetrain_ring ?_
    | with_reducible refine dropCdr_ring ?_
    | with_reducible refine ite_ring ?_ ?_
    | with_reducible refine foldl_ring ?_ (fun t a h => ?_)
    | dsimp -proj only
    | split

theorem visitLine_ring {s x : State} (h : RingOnly s x) :
    RingOnly s (visitLine x) := by
  unfold visitLine
  try dsimp -zeta -proj only [upd_store]
  repeat' first
    | with_reducible assumption
    | with_reducible refine eccRead_ring ?_
    | with_reducible refine putStore_ring ?_ ?_
    | with_reducible refine ite_ring ?_ ?_
    | with_reducible refine foldl_ring ?_ (fun t a h => ?_)
    | exact fun _ _ => rfl
    | dsimp -proj only
    | split

theorem queueNotify_ring {s x : State} {a0} (h : RingOnly s x) : RingOnly s (queueNotify x a0) :=
  RingOnly.of_keeps (fun k hk => queueNotify_keeps (a0 := a0) hk (k.same_refl x)) (by decide) h

theorem calibrateLanes_ring {s x : State} {a0 a1 a2} (h : RingOnly s x) : RingOnly s (calibrateLanes x a0 a1 a2) :=
  RingOnly.of_keeps (fun k hk => calibrateLanes_keeps (a0 := a0) (a1 := a1) (a2 := a2) hk (k.same_refl x)) (by decide) h

theorem addressByte_ring {s x : State} {a0 a1} (h : RingOnly s x) : RingOnly s (addressByte x a0 a1) :=
  RingOnly.of_keeps (fun k hk => addressByte_keeps (a0 := a0) (a1 := a1) hk (k.same_refl x)) (by decide) h

theorem trimStep_ring {s x : State} {a0 a1 a2} (h : RingOnly s x) : RingOnly s (trimStep x a0 a1 a2) :=
  RingOnly.of_keeps (fun k hk => trimStep_keeps (a0 := a0) (a1 := a1) (a2 := a2) hk (k.same_refl x)) (by decide) h

theorem execTrimRampStep_ring {s x : State} {a0 a1 a2} (h : RingOnly s x) :
    ∃ t, execTrimRampStep a0 a1 a2 x = .next t ∧ RingOnly s t := by
  unfold execTrimRampStep
  repeat' first
    | with_reducible assumption
    | with_reducible refine done_ring ?_
    | with_reducible refine trimStep_ring ?_
    | with_reducible refine ite_ring ?_ ?_
    | with_reducible refine foldl_ring ?_ (fun t a h => ?_)
    | dsimp -proj only
    | split

theorem restoreTransparent_ring {s x : State} {a0 a1} (h : RingOnly s x) :
    RingOnly s (restoreTransparent x a0 a1) := by
  unfold restoreTransparent
  repeat' first
    | with_reducible assumption
    | with_reducible refine restoreLane_ring ?_
    | with_reducible refine ite_ring ?_ ?_
    | with_reducible refine foldl_ring ?_ (fun t a h => ?_)
    | dsimp -proj only
    | split

theorem takeLinkRate_ring {s x : State} {a0 a1} (h : RingOnly s x) :
    RingOnly s (takeLinkRate x a0 a1) := by
  unfold takeLinkRate
  repeat' first
    | with_reducible assumption
    | with_reducible refine modLink_ring ?_
    | with_reducible refine logK_ring ?_
    | with_reducible refine ite_ring ?_ ?_
    | with_reducible refine foldl_ring ?_ (fun t a h => ?_)
    | dsimp -proj only
    | split

theorem joinLink_ring {s x : State} {a0} (h : RingOnly s x) :
    RingOnly s (joinLink x a0) := by
  unfold joinLink
  repeat' first
    | with_reducible assumption
    | with_reducible refine modLink_ring ?_
    | with_reducible refine enterDetect_ring ?_
    | with_reducible refine checkRecovered_ring ?_
    | with_reducible refine ite_ring ?_ ?_
    | with_reducible refine foldl_ring ?_ (fun t a h => ?_)
    | dsimp -proj only
    | split

theorem joinIfOpen_ring {s x : State} {a0} (h : RingOnly s x) :
    RingOnly s (joinIfOpen x a0) := by
  unfold joinIfOpen
  repeat' first
    | with_reducible assumption
    | with_reducible refine joinLink_ring ?_
    | with_reducible refine ite_ring ?_ ?_
    | with_reducible refine foldl_ring ?_ (fun t a h => ?_)
    | dsimp -proj only
    | split

theorem openConfirmed_ring {s x : State} {a0} (h : RingOnly s x) :
    RingOnly s (openConfirmed x a0) := by
  unfold openConfirmed
  try dsimp -zeta -proj only [upd_welt]
  repeat' first
    | with_reducible assumption
    | with_reducible refine modTx_ring ?_
    | with_reducible refine joinIfOpen_ring ?_
    | with_reducible refine putWelt_ring ?_
    | with_reducible refine ite_ring ?_ ?_
    | with_reducible refine foldl_ring ?_ (fun t a h => ?_)
    | dsimp -proj only
    | split

theorem modWin_ring {s x : State} {a0 a1} (h : RingOnly s x) : RingOnly s (modWin x a0 a1) :=
  RingOnly.of_keeps (fun k hk => modWin_keeps (a0 := a0) (a1 := a1) hk (k.same_refl x)) (by decide) h

theorem drainEnd_ring {s x : State} {a0} (h : RingOnly s x) : RingOnly s (drainEnd x a0) :=
  RingOnly.of_keeps (fun k hk => drainEnd_keeps (a0 := a0) hk (k.same_refl x)) (by decide) h

theorem homeStandins_ring {s x : State} (h : RingOnly s x) : RingOnly s (homeStandins x) :=
  RingOnly.of_keeps (fun k hk => homeStandins_keeps hk (k.same_refl x)) (by decide) h

theorem execRecalAborted_ring {s x : State} (h : RingOnly s x) :
    ∃ t, execRecalAborted x = .next t ∧ RingOnly s t := by
  unfold execRecalAborted
  repeat' first
    | with_reducible assumption
    | with_reducible refine done_ring ?_
    | with_reducible refine homeStandins_ring ?_
    | with_reducible refine abortRecal_ring ?_
    | with_reducible refine ite_ring ?_ ?_
    | with_reducible refine foldl_ring ?_ (fun t a h => ?_)
    | dsimp -proj only
    | split

theorem execVioSplitThreshold_ring {s x : State} (h : RingOnly s x) :
    ∃ t, execVioSplitThreshold x = .next t ∧ RingOnly s t := by
  unfold execVioSplitThreshold
  repeat' first
    | with_reducible assumption
    | with_reducible refine done_ring ?_
    | with_reducible refine modPower_ring ?_
    | with_reducible refine ite_ring ?_ ?_
    | with_reducible refine foldl_ring ?_ (fun t a h => ?_)
    | dsimp -proj only
    | split

theorem resendRelease_ring {s x : State} {a0 a1 a2} (h : RingOnly s x) : RingOnly s (resendRelease x a0 a1 a2) :=
  RingOnly.of_keeps (fun k hk => resendRelease_keeps (a0 := a0) (a1 := a1) (a2 := a2) hk (k.same_refl x)) (by decide) h

theorem readRecord_ring {s x : State} {a0} (h : RingOnly s x) : RingOnly s (readRecord x a0).2 :=
  RingOnly.of_keeps (fun k hk => readRecord_keeps (a0 := a0) hk (k.same_refl x)) (by decide) h

theorem readRecord_ring_eq {s x : State} {a0} {r u} (h : RingOnly s x) (e : readRecord x a0 = (r, u)) :
    RingOnly s u := 
  RingOnly.of_keeps (fun k hk => readRecord_keeps_eq (a0 := a0) hk (k.same_refl x) e) (by decide) h

theorem staleAll_ring {s x : State} (h : RingOnly s x) : RingOnly s (staleAll x) :=
  RingOnly.of_keeps (fun k hk => staleAll_keeps hk (k.same_refl x)) (by decide) h

theorem modLane_ring {s x : State} {a0 a1 a2} (h : RingOnly s x) : RingOnly s (modLane x a0 a1 a2) :=
  RingOnly.of_keeps (fun k hk => modLane_keeps (a0 := a0) (a1 := a1) (a2 := a2) hk (k.same_refl x)) (by decide) h

theorem lockPlls_ring {s x : State} {a0} (h : RingOnly s x) : RingOnly s (lockPlls x a0) :=
  RingOnly.of_keeps (fun k hk => lockPlls_keeps (a0 := a0) hk (k.same_refl x)) (by decide) h

theorem calibrate_ring {s x : State} {a0} (h : RingOnly s x) :
    RingOnly s (calibrate x a0) := by
  unfold calibrate
  try dsimp -zeta -proj only [upd_boot_cal]
  repeat' first
    | with_reducible assumption
    | with_reducible refine logEvent_ring ?_
    | with_reducible refine readRecord_ring ?_
    | with_reducible refine readRecord_ring_eq ?_ (by with_reducible assumption)
    | with_reducible refine staleAll_ring ?_
    | with_reducible refine modLane_ring ?_
    | with_reducible refine lockPlls_ring ?_
    | with_reducible refine calibrateLanes_ring ?_
    | with_reducible refine putBoot_ring ?_
    | with_reducible refine putCal_ring ?_
    | with_reducible refine ite_ring ?_ ?_
    | with_reducible refine foldl_ring ?_ (fun t a h => ?_)
    | dsimp -proj only
    | split

theorem execBootCalibration_ring {s x : State} {a0} (h : RingOnly s x) :
    ∃ t, execBootCalibration a0 x = .next t ∧ RingOnly s t := by
  unfold execBootCalibration
  repeat' first
    | with_reducible assumption
    | with_reducible refine done_ring ?_
    | with_reducible refine calibrate_ring ?_
    | with_reducible refine ite_ring ?_ ?_
    | with_reducible refine foldl_ring ?_ (fun t a h => ?_)
    | dsimp -proj only
    | split

theorem sleepDir_ring {s x : State} {a0 a1} (h : RingOnly s x) : RingOnly s (sleepDir x a0 a1) :=
  RingOnly.of_keeps (fun k hk => sleepDir_keeps (a0 := a0) (a1 := a1) hk (k.same_refl x)) (by decide) h

theorem idleEntry_ring {s x : State} {a0 a1} (h : RingOnly s x) :
    RingOnly s (idleEntry x a0 a1) := by
  unfold idleEntry
  repeat' first
    | with_reducible assumption
    | with_reducible refine modLink_ring ?_
    | with_reducible refine enterRetrain_ring ?_
    | with_reducible refine sleepDir_ring ?_
    | with_reducible refine ite_ring ?_ ?_
    | with_reducible refine foldl_ring ?_ (fun t a h => ?_)
    | dsimp -proj only
    | split

theorem revertWorse_ring {s x : State} {a0} (h : RingOnly s x) :
    RingOnly s (revertWorse x a0) := by
  unfold revertWorse
  repeat' first
    | with_reducible assumption
    | with_reducible refine logL_ring ?_
    | with_reducible refine revertUnit_ring ?_
    | with_reducible refine modCal_ring ?_
    | with_reducible refine ite_ring ?_ ?_
    | with_reducible refine foldl_ring ?_ (fun t a h => ?_)
    | dsimp -proj only
    | split

theorem nextRecal_ring {s x : State} (h : RingOnly s x) : RingOnly s (nextRecal x) :=
  RingOnly.of_keeps (fun k hk => nextRecal_keeps hk (k.same_refl x)) (by decide) h

theorem qualityCheck_ring {s x : State} {a0 a1 a2 a3} (h : RingOnly s x) :
    RingOnly s (qualityCheck x a0 a1 a2 a3) := by
  unfold qualityCheck
  repeat' first
    | with_reducible assumption
    | with_reducible refine revertWorse_ring ?_
    | with_reducible refine followStandin_ring ?_
    | with_reducible refine setStage_ring ?_
    | with_reducible refine endRecal_ring ?_
    | with_reducible refine nextRecal_ring ?_
    | with_reducible refine keepUnit_ring ?_
    | with_reducible refine ite_ring ?_ ?_
    | with_reducible refine foldl_ring ?_ (fun t a h => ?_)
    | dsimp -proj only
    | split

theorem execPllRelockAttempt_ring {s x : State} {a0 a1} (h : RingOnly s x) :
    ∃ t, execPllRelockAttempt a0 a1 x = .next t ∧ RingOnly s t := by
  unfold execPllRelockAttempt
  try dsimp -zeta -proj only [upd_power]
  repeat' first
    | with_reducible assumption
    | with_reducible refine done_ring ?_
    | with_reducible refine restoreTransparent_ring ?_
    | with_reducible refine lockPlls_ring ?_
    | with_reducible refine putPower_ring ?_
    | with_reducible refine ite_ring ?_ ?_
    | with_reducible refine foldl_ring ?_ (fun t a h => ?_)
    | dsimp -proj only
    | split

theorem placeLog_ring {s x : State} {a0} (h : RingOnly s x) : RingOnly s (placeLog x a0) :=
  RingOnly.of_keeps (fun k hk => placeLog_keeps (a0 := a0) hk (k.same_refl x)) (by decide) h

theorem execReceiverDetect_ring {s x : State} {a0 a1 a2} (h : RingOnly s x) :
    ∃ t, execReceiverDetect a0 a1 a2 x = .next t ∧ RingOnly s t := by
  unfold execReceiverDetect
  repeat' first
    | with_reducible assumption
    | with_reducible refine done_ring ?_
    | with_reducible refine modLink_ring ?_
    | with_reducible refine ite_ring ?_ ?_
    | with_reducible refine foldl_ring ?_ (fun t a h => ?_)
    | dsimp -proj only
    | split

theorem readLog_ring {s x : State} (h : RingOnly s x) : RingOnly s (readLog x).2 :=
  RingOnly.of_keeps (fun k hk => readLog_keeps hk (k.same_refl x)) (by decide) h

theorem readLog_ring_eq {s x : State} {r u} (h : RingOnly s x) (e : readLog x = (r, u)) :
    RingOnly s u := 
  RingOnly.of_keeps (fun k hk => readLog_keeps_eq hk (k.same_refl x) e) (by decide) h

theorem restoreHeads_ring {s x : State} {a0} (h : RingOnly s x) : RingOnly s (restoreHeads x a0) := by
  have hp : ∀ (y : State) (n : NvmSt), RingOnly s y → RingOnly s { y with nvm := n } := fun y n g => g
  unfold restoreHeads
  exact foldl_ring h fun t a g => logEvent_ring (hp _ _ g)

theorem bootNvm_ring {s x : State} (h : RingOnly s x) :
    RingOnly s (bootNvm x) := by
  unfold bootNvm
  repeat' first
    | with_reducible assumption
    | with_reducible refine readLog_ring ?_
    | with_reducible refine readLog_ring_eq ?_ (by with_reducible assumption)
    | with_reducible refine placeLog_ring ?_
    | with_reducible refine tendLog_ring ?_
    | with_reducible refine restoreHeads_ring ?_
    | with_reducible refine ite_ring ?_ ?_
    | with_reducible refine foldl_ring ?_ (fun t a h => ?_)
    | dsimp -proj only
    | split

theorem releaseReset_ring {s x : State} {a0} (h : RingOnly s x) :
    RingOnly s (releaseReset x a0) := by
  unfold releaseReset
  try dsimp -zeta -proj only [upd_pins_power_boot]
  repeat' first
    | with_reducible assumption
    | with_reducible refine bootNvm_ring ?_
    | with_reducible refine putPins_ring ?_
    | with_reducible refine putPower_ring ?_
    | with_reducible refine putBoot_ring ?_
    | with_reducible refine ite_ring ?_ ?_
    | with_reducible refine foldl_ring ?_ (fun t a h => ?_)
    | dsimp -proj only
    | split

theorem railOutside_ring {s x : State} {a0} (h : RingOnly s x) :
    RingOnly s (railOutside x a0) := by
  unfold railOutside
  try dsimp -zeta -proj only [upd_evt]
  repeat' first
    | with_reducible assumption
    | with_reducible refine logEvent_ring ?_
    | with_reducible refine modPower_ring ?_
    | with_reducible refine putEvt_ring ?_
    | with_reducible refine ite_ring ?_ ?_
    | with_reducible refine foldl_ring ?_ (fun t a h => ?_)
    | dsimp -proj only
    | split

theorem execSupplyOutOfWindow_ring {s x : State} {a0} (h : RingOnly s x) :
    ∃ t, execSupplyOutOfWindow a0 x = .next t ∧ RingOnly s t := by
  unfold execSupplyOutOfWindow
  repeat' first
    | with_reducible assumption
    | with_reducible refine done_ring ?_
    | with_reducible refine railOutside_ring ?_
    | with_reducible refine ite_ring ?_ ?_
    | with_reducible refine foldl_ring ?_ (fun t a h => ?_)
    | dsimp -proj only
    | split

theorem execChargePumpReady_ring {s x : State} (h : RingOnly s x) :
    ∃ t, execChargePumpReady x = .next t ∧ RingOnly s t := by
  unfold execChargePumpReady
  repeat' first
    | with_reducible assumption
    | with_reducible refine done_ring ?_
    | with_reducible refine settle_ring ?_
    | with_reducible refine modPower_ring ?_
    | with_reducible refine ite_ring ?_ ?_
    | with_reducible refine foldl_ring ?_ (fun t a h => ?_)
    | dsimp -proj only
    | split

theorem programUnit_ring {s x : State} {a0 a1 a2} (h : RingOnly s x) : RingOnly s (programUnit x a0 a1 a2) :=
  RingOnly.of_keeps (fun k hk => programUnit_keeps (a0 := a0) (a1 := a1) (a2 := a2) hk (k.same_refl x)) (by decide) h

theorem ownUnit_ring {s x : State} {a0 a1 a2} (h : RingOnly s x) : RingOnly s (ownUnit x a0 a1 a2) :=
  RingOnly.of_keeps (fun k hk => ownUnit_keeps (a0 := a0) (a1 := a1) (a2 := a2) hk (k.same_refl x)) (by decide) h

theorem execNvmUnitProgrammed_ring {s x : State} {a0} (h : RingOnly s x) :
    ∃ t, execNvmUnitProgrammed a0 x = .next t ∧ RingOnly s t := by
  unfold execNvmUnitProgrammed
  repeat' first
    | with_reducible assumption
    | with_reducible refine programUnit_ring ?_
    | with_reducible refine ownUnit_ring ?_
    | with_reducible refine done_ring ?_
    | with_reducible refine ite_ring ?_ ?_
    | with_reducible refine foldl_ring ?_ (fun t a h => ?_)
    | dsimp -proj only
    | split

theorem execBootDone_ring {s x : State} (h : RingOnly s x) :
    ∃ t, execBootDone x = .next t ∧ RingOnly s t := by
  unfold execBootDone
  try dsimp -zeta -proj only [upd_boot]
  repeat' first
    | with_reducible assumption
    | with_reducible refine done_ring ?_
    | with_reducible refine settle_ring ?_
    | with_reducible refine putBoot_ring ?_
    | with_reducible refine ite_ring ?_ ?_
    | with_reducible refine foldl_ring ?_ (fun t a h => ?_)
    | dsimp -proj only
    | split

theorem execImcSend_ring {s x : State} (h : RingOnly s x) :
    ∃ t, execImcSend x = .next t ∧ RingOnly s t := by
  unfold execImcSend
  repeat' first
    | with_reducible assumption
    | with_reducible refine done_ring ?_
    | with_reducible refine sendStart_ring ?_
    | with_reducible refine ite_ring ?_ ?_
    | with_reducible refine foldl_ring ?_ (fun t a h => ?_)
    | dsimp -proj only
    | split

theorem evaluateUnits_ring {s x : State} (h : RingOnly s x) : RingOnly s (evaluateUnits x) :=
  RingOnly.of_keeps (fun k hk => evaluateUnits_keeps hk (k.same_refl x)) (by decide) h

theorem execLastSelection_ring {s x : State} (h : RingOnly s x) :
    ∃ t, execLastSelection x = .next t ∧ RingOnly s t := by
  unfold execLastSelection
  repeat' first
    | with_reducible assumption
    | with_reducible refine done_ring ?_
    | with_reducible refine selectLast_ring ?_
    | with_reducible refine ite_ring ?_ ?_
    | with_reducible refine foldl_ring ?_ (fun t a h => ?_)
    | dsimp -proj only
    | split

theorem execCommitRollback_ring {s x : State} {a0} (h : RingOnly s x) :
    ∃ t, execCommitRollback a0 x = .next t ∧ RingOnly s t := by
  unfold execCommitRollback
  repeat' first
    | with_reducible assumption
    | with_reducible refine done_ring ?_
    | with_reducible refine rollback_ring ?_
    | with_reducible refine ite_ring ?_ ?_
    | with_reducible refine foldl_ring ?_ (fun t a h => ?_)
    | dsimp -proj only
    | split

theorem modTwb_ring {s x : State} {a0} (h : RingOnly s x) : RingOnly s (modTwb x a0) :=
  RingOnly.of_keeps (fun k hk => modTwb_keeps (a0 := a0) hk (k.same_refl x)) (by decide) h

theorem execTwbLate_ring {s x : State} (h : RingOnly s x) :
    ∃ t, execTwbLate x = .next t ∧ RingOnly s t := by
  unfold execTwbLate
  repeat' first
    | with_reducible assumption
    | with_reducible refine modTwb_ring ?_
    | with_reducible refine done_ring ?_
    | with_reducible refine ite_ring ?_ ?_
    | with_reducible refine foldl_ring ?_ (fun t a h => ?_)
    | dsimp -proj only
    | split

theorem execResetRelease_ring {s x : State} {a0} (h : RingOnly s x) :
    ∃ t, execResetRelease a0 x = .next t ∧ RingOnly s t := by
  unfold execResetRelease
  repeat' first
    | with_reducible assumption
    | with_reducible refine done_ring ?_
    | with_reducible refine settle_ring ?_
    | with_reducible refine releaseReset_ring ?_
    | with_reducible refine ite_ring ?_ ?_
    | with_reducible refine foldl_ring ?_ (fun t a h => ?_)
    | dsimp -proj only
    | split

theorem eyeAlarm_ring {s x : State} {a0 a1} (h : RingOnly s x) :
    RingOnly s (eyeAlarm x a0 a1) := by
  unfold eyeAlarm
  repeat' first
    | with_reducible assumption
    | with_reducible refine logL_ring ?_
    | with_reducible refine modMeas_ring ?_
    | with_reducible refine ite_ring ?_ ?_
    | with_reducible refine foldl_ring ?_ (fun t a h => ?_)
    | dsimp -proj only
    | split

theorem capTrigger_ring {s x : State} {a0 a1 a2} (h : RingOnly s x) : RingOnly s (capTrigger x a0 a1 a2) :=
  RingOnly.of_keeps (fun k hk => capTrigger_keeps (a0 := a0) (a1 := a1) (a2 := a2) hk (k.same_refl x)) (by decide) h

theorem trigger_ring {s x : State} {a0} (h : RingOnly s x) : RingOnly s (trigger x a0).2 :=
  RingOnly.of_keeps (fun k hk => trigger_keeps (a0 := a0) hk (k.same_refl x)) (by decide) h

theorem trigger_ring_eq {s x : State} {a0} {r u} (h : RingOnly s x) (e : trigger x a0 = (r, u)) :
    RingOnly s u := 
  RingOnly.of_keeps (fun k hk => trigger_keeps_eq (a0 := a0) hk (k.same_refl x) e) (by decide) h

theorem resetDecimator_ring {s x : State} (h : RingOnly s x) : RingOnly s (resetDecimator x) :=
  RingOnly.of_keeps (fun k hk => resetDecimator_keeps hk (k.same_refl x)) (by decide) h

theorem loadTime_ring {s x : State} (h : RingOnly s x) :
    RingOnly s (loadTime x) := by
  unfold loadTime
  try dsimp -zeta -proj only [upd_time]
  repeat' first
    | with_reducible assumption
    | with_reducible refine logEvent_ring ?_
    | with_reducible refine putTime_ring ?_
    | with_reducible refine ite_ring ?_ ?_
    | with_reducible refine foldl_ring ?_ (fun t a h => ?_)
    | dsimp -proj only
    | split

theorem edgeLoad_ring {s x : State} (h : RingOnly s x) : RingOnly s (edgeLoad x) := by
  have ht : ∀ {y v}, RingOnly s y → RingOnly s (y.putTime v) := fun g => putTime_ring g
  unfold edgeLoad
  exact ite_ring (ht h) (ht (loadTime_ring (ht h)))

theorem syncSeen_ring {s x : State} (h : RingOnly s x) :
    RingOnly s (syncSeen x) := by
  unfold syncSeen
  try dsimp -zeta -proj only [upd_time, upd_tm]
  repeat' first
    | with_reducible assumption
    | with_reducible refine capTrigger_ring ?_
    | with_reducible refine trigger_ring ?_
    | with_reducible refine trigger_ring_eq ?_ (by with_reducible assumption)
    | with_reducible refine staleAll_ring ?_
    | with_reducible refine resetDecimator_ring ?_
    | with_reducible refine edgeLoad_ring ?_
    | with_reducible refine putTm_ring ?_
    | with_reducible refine putTime_ring ?_
    | with_reducible refine ite_ring ?_ ?_
    | with_reducible refine foldl_ring ?_ (fun t a h => ?_)
    | dsimp -proj only
    | split

theorem execImcNoSlot_ring {s x : State} (h : RingOnly s x) :
    ∃ t, execImcNoSlot x = .next t ∧ RingOnly s t := by
  unfold execImcNoSlot
  repeat' first
    | with_reducible assumption
    | with_reducible refine done_ring ?_
    | with_reducible refine finishWith_ring ?_
    | with_reducible refine dropSend_ring ?_
    | with_reducible refine ite_ring ?_ ?_
    | with_reducible refine foldl_ring ?_ (fun t a h => ?_)
    | dsimp -proj only
    | split

theorem execRateDiscard_ring {s x : State} {a0} (h : RingOnly s x) :
    ∃ t, execRateDiscard a0 x = .next t ∧ RingOnly s t := by
  unfold execRateDiscard
  repeat' first
    | with_reducible assumption
    | with_reducible refine done_ring ?_
    | with_reducible refine modLink_ring ?_
    | with_reducible refine ite_ring ?_ ?_
    | with_reducible refine foldl_ring ?_ (fun t a h => ?_)
    | dsimp -proj only
    | split

theorem execNvmWindowRead_ring {s x : State} {a0 a1 a2} (h : RingOnly s x) :
    ∃ t, execNvmWindowRead a0 a1 a2 x = .next t ∧ RingOnly s t := by
  unfold execNvmWindowRead
  repeat' first
    | with_reducible assumption
    | with_reducible refine done_ring ?_
    | with_reducible refine busRead_ring ?_
    | with_reducible refine upset_ring ?_
    | with_reducible refine ite_ring ?_ ?_
    | with_reducible refine foldl_ring ?_ (fun t a h => ?_)
    | dsimp -proj only
    | split

theorem startAdcCal_ring {s x : State} (h : RingOnly s x) : RingOnly s (startAdcCal x) :=
  RingOnly.of_keeps (fun k hk => startAdcCal_keeps hk (k.same_refl x)) (by decide) h

theorem slotEnd_ring {s x : State} {a0} (h : RingOnly s x) : RingOnly s (slotEnd x a0) :=
  RingOnly.of_keeps (fun k hk => slotEnd_keeps (a0 := a0) hk (k.same_refl x)) (by decide) h

theorem endSlot_ring {s x : State} {a0 a1} (h : RingOnly s x) :
    RingOnly s (endSlot x a0 a1) := by
  unfold endSlot
  try dsimp -zeta -proj only [upd_tm]
  repeat' first
    | with_reducible assumption
    | with_reducible refine startAdcCal_ring ?_
    | with_reducible refine slotEnd_ring ?_
    | with_reducible refine channelValid_ring ?_
    | with_reducible refine putTm_ring ?_
    | with_reducible refine ite_ring ?_ ?_
    | with_reducible refine foldl_ring ?_ (fun t a h => ?_)
    | dsimp -proj only
    | split

theorem decimated_ring {s x : State} {a0} (h : RingOnly s x) :
    RingOnly s (decimated x a0) := by
  unfold decimated
  try dsimp -zeta -proj only [upd_tm]
  repeat' first
    | with_reducible assumption
    | with_reducible refine endSlot_ring ?_
    | with_reducible refine putTm_ring ?_
    | with_reducible refine ite_ring ?_ ?_
    | with_reducible refine foldl_ring ?_ (fun t a h => ?_)
    | dsimp -proj only
    | split

theorem execDecimatorOutput_ring {s x : State} {a0} (h : RingOnly s x) :
    ∃ t, execDecimatorOutput a0 x = .next t ∧ RingOnly s t := by
  unfold execDecimatorOutput
  repeat' first
    | with_reducible assumption
    | with_reducible refine done_ring ?_
    | with_reducible refine decimated_ring ?_
    | with_reducible refine ite_ring ?_ ?_
    | with_reducible refine foldl_ring ?_ (fun t a h => ?_)
    | dsimp -proj only
    | split

theorem execDeepEntryTimeout_ring {s x : State} {a0} (h : RingOnly s x) :
    ∃ t, execDeepEntryTimeout a0 x = .next t ∧ RingOnly s t := by
  unfold execDeepEntryTimeout
  repeat' first
    | with_reducible assumption
    | with_reducible refine done_ring ?_
    | with_reducible refine modLink_ring ?_
    | with_reducible refine requestRetrain_ring ?_
    | with_reducible refine ite_ring ?_ ?_
    | with_reducible refine foldl_ring ?_ (fun t a h => ?_)
    | dsimp -proj only
    | split

theorem execJtagExtest_ring {s x : State} (h : RingOnly s x) :
    ∃ t, execJtagExtest x = .next t ∧ RingOnly s t := by
  unfold execJtagExtest
  repeat' first
    | with_reducible assumption
    | with_reducible refine done_ring ?_
    | with_reducible refine scanCells_ring ?_
    | with_reducible refine ite_ring ?_ ?_
    | with_reducible refine foldl_ring ?_ (fun t a h => ?_)
    | dsimp -proj only
    | split

theorem putSet_ring {s x : State} {a0 a1 a2 a3 a4} (h : RingOnly s x) : RingOnly s (putSet x a0 a1 a2 a3 a4) :=
  RingOnly.of_keeps (fun k hk => putSet_keeps (a0 := a0) (a1 := a1) (a2 := a2) (a3 := a3) (a4 := a4) hk (k.same_refl x)) (by decide) h

theorem tosBIn_ring {s x : State} {a0 a1 a2 a3} (h : RingOnly s x) : RingOnly s (tosBIn x a0 a1 a2 a3) :=
  RingOnly.of_keeps (fun k hk => tosBIn_keeps (a0 := a0) (a1 := a1) (a2 := a2) (a3 := a3) hk (k.same_refl x)) (by decide) h

theorem trainingSet_ring {s x : State} {a0 a1 a2 a3} (h : RingOnly s x) :
    RingOnly s (trainingSet x a0 a1 a2 a3) := by
  unfold trainingSet
  repeat' first
    | with_reducible assumption
    | with_reducible refine putSet_ring ?_
    | with_reducible refine tosBIn_ring ?_
    | with_reducible refine holdSet_ring ?_
    | with_reducible refine enterRetrain_ring ?_
    | with_reducible refine tosAIn_ring ?_
    | with_reducible refine ite_ring ?_ ?_
    | with_reducible refine foldl_ring ?_ (fun t a h => ?_)
    | dsimp -proj only
    | split

theorem execTrainingSetReceived_ring {s x : State} {a0 a1 a2 a3} (h : RingOnly s x) :
    ∃ t, execTrainingSetReceived a0 a1 a2 a3 x = .next t ∧ RingOnly s t := by
  unfold execTrainingSetReceived
  repeat' first
    | with_reducible assumption
    | with_reducible refine done_ring ?_
    | with_reducible refine trainingSet_ring ?_
    | with_reducible refine ite_ring ?_ ?_
    | with_reducible refine foldl_ring ?_ (fun t a h => ?_)
    | dsimp -proj only
    | split

theorem execWeltOpenConfirmed_ring {s x : State} {a0} (h : RingOnly s x) :
    ∃ t, execWeltOpenConfirmed a0 x = .next t ∧ RingOnly s t := by
  unfold execWeltOpenConfirmed
  repeat' first
    | with_reducible assumption
    | with_reducible refine done_ring ?_
    | with_reducible refine openConfirmed_ring ?_
    | with_reducible refine ite_ring ?_ ?_
    | with_reducible refine foldl_ring ?_ (fun t a h => ?_)
    | dsimp -proj only
    | split

theorem execJtagExtestPulse_ring {s x : State} (h : RingOnly s x) :
    ∃ t, execJtagExtestPulse x = .next t ∧ RingOnly s t := by
  unfold execJtagExtestPulse
  repeat' first
    | with_reducible assumption
    | with_reducible refine done_ring ?_
    | with_reducible refine scanCells_ring ?_
    | with_reducible refine ite_ring ?_ ?_
    | with_reducible refine foldl_ring ?_ (fun t a h => ?_)
    | dsimp -proj only
    | split

theorem execNvmSectorErased_ring {s x : State} {a0} (h : RingOnly s x) :
    ∃ t, execNvmSectorErased a0 x = .next t ∧ RingOnly s t := by
  unfold execNvmSectorErased
  repeat' first
    | with_reducible assumption
    | with_reducible refine done_ring ?_
    | with_reducible refine ownDone_ring ?_
    | with_reducible refine sectorDone_ring ?_
    | with_reducible refine ite_ring ?_ ?_
    | with_reducible refine foldl_ring ?_ (fun t a h => ?_)
    | dsimp -proj only
    | split

theorem startJob_ring {s x : State} {a0 a1} (h : RingOnly s x) : RingOnly s (startJob x a0 a1) :=
  RingOnly.of_keeps (fun k hk => startJob_keeps (a0 := a0) (a1 := a1) hk (k.same_refl x)) (by decide) h

theorem execScanPointDone_ring {s x : State} {a0 a1 a2} (h : RingOnly s x) :
    ∃ t, execScanPointDone a0 a1 a2 x = .next t ∧ RingOnly s t := by
  unfold execScanPointDone
  repeat' first
    | with_reducible assumption
    | with_reducible refine done_ring ?_
    | with_reducible refine modMeas_ring ?_
    | with_reducible refine ite_ring ?_ ?_
    | with_reducible refine foldl_ring ?_ (fun t a h => ?_)
    | dsimp -proj only
    | split

theorem execRecalEvaluation_ring {s x : State} (h : RingOnly s x) :
    ∃ t, execRecalEvaluation x = .next t ∧ RingOnly s t := by
  unfold execRecalEvaluation
  repeat' first
    | with_reducible assumption
    | with_reducible refine done_ring ?_
    | with_reducible refine homeStandins_ring ?_
    | with_reducible refine followStandin_ring ?_
    | with_reducible refine evaluateUnits_ring ?_
    | with_reducible refine nextRecal_ring ?_
    | with_reducible refine ite_ring ?_ ?_
    | with_reducible refine foldl_ring ?_ (fun t a h => ?_)
    | dsimp -proj only
    | split

theorem execDrainComplete_ring {s x : State} {a0} (h : RingOnly s x) :
    ∃ t, execDrainComplete a0 x = .next t ∧ RingOnly s t := by
  unfold execDrainComplete
  repeat' first
    | with_reducible assumption
    | with_reducible refine done_ring ?_
    | with_reducible refine drainEnd_ring ?_
    | with_reducible refine ite_ring ?_ ?_
    | with_reducible refine foldl_ring ?_ (fun t a h => ?_)
    | dsimp -proj only
    | split

theorem execSyncBarrierDone_ring {s x : State} {a0} (h : RingOnly s x) :
    ∃ t, execSyncBarrierDone a0 x = .next t ∧ RingOnly s t := by
  unfold execSyncBarrierDone
  repeat' first
    | with_reducible assumption
    | with_reducible refine done_ring ?_
    | with_reducible refine modWin_ring ?_
    | with_reducible refine ite_ring ?_ ?_
    | with_reducible refine foldl_ring ?_ (fun t a h => ?_)
    | dsimp -proj only
    | split

theorem execHeelWatchdogTrip_ring {s x : State} (h : RingOnly s x) :
    ∃ t, execHeelWatchdogTrip x = .next t ∧ RingOnly s t := by
  unfold execHeelWatchdogTrip
  try dsimp -zeta -proj only [upd_evt_heel]
  repeat' first
    | with_reducible assumption
    | with_reducible refine done_ring ?_
    | with_reducible refine logEvent_ring ?_
    | with_reducible refine putEvt_ring ?_
    | with_reducible refine putHeel_ring ?_
    | with_reducible refine ite_ring ?_ ?_
    | with_reducible refine foldl_ring ?_ (fun t a h => ?_)
    | dsimp -proj only
    | split

theorem execRailValid_ring {s x : State} {a0} (h : RingOnly s x) :
    ∃ t, execRailValid a0 x = .next t ∧ RingOnly s t := by
  unfold execRailValid
  repeat' first
    | with_reducible assumption
    | with_reducible refine done_ring ?_
    | with_reducible refine settle_ring ?_
    | with_reducible refine modPower_ring ?_
    | with_reducible refine ite_ring ?_ ?_
    | with_reducible refine foldl_ring ?_ (fun t a h => ?_)
    | dsimp -proj only
    | split

theorem execTwbReadWord_ring {s x : State} {a0} (h : RingOnly s x) :
    ∃ t, execTwbReadWord a0 x = .next t ∧ RingOnly s t := by
  unfold execTwbReadWord
  repeat' first
    | with_reducible assumption
    | with_reducible refine modTwb_ring ?_
    | with_reducible refine done_ring ?_
    | with_reducible refine busRead_ring ?_
    | with_reducible refine upset_ring ?_
    | with_reducible refine ite_ring ?_ ?_
    | with_reducible refine foldl_ring ?_ (fun t a h => ?_)
    | dsimp -proj only
    | split

theorem retrySwap_ring {s x : State} {a0} (h : RingOnly s x) : RingOnly s (retrySwap x a0) :=
  RingOnly.of_keeps (fun k hk => retrySwap_keeps (a0 := a0) hk (k.same_refl x)) (by decide) h

theorem exitStandby_ring {s x : State} (h : RingOnly s x) :
    RingOnly s (exitStandby x) := by
  unfold exitStandby
  try dsimp -zeta -proj only [upd_boot_dev_evt_store_twb]
  try simp -zeta -proj only [upd_boot_dev_evt_store_twb]
  repeat' first
    | with_reducible assumption
    | with_reducible refine settle_ring ?_
    | with_reducible refine modLane_ring ?_
    | with_reducible refine lockPlls_ring ?_
    | with_reducible refine ringPut_ring ?_
    | with_reducible refine putBoot_ring ?_
    | with_reducible refine putDev_ring ?_
    | with_reducible refine putEvt_ring ?_
    | with_reducible refine putStore_ring ?_ ?_
    | with_reducible refine putTwb_ring ?_
    | with_reducible refine ite_ring ?_ ?_
    | with_reducible refine foldl_ring ?_ (fun t a h => ?_)
    | exact fun _ _ => rfl
    | dsimp -proj only
    | split

theorem execStandbyExitDone_ring {s x : State} (h : RingOnly s x) :
    ∃ t, execStandbyExitDone x = .next t ∧ RingOnly s t := by
  unfold execStandbyExitDone
  repeat' first
    | with_reducible assumption
    | with_reducible refine done_ring ?_
    | with_reducible refine exitStandby_ring ?_
    | with_reducible refine ite_ring ?_ ?_
    | with_reducible refine foldl_ring ?_ (fun t a h => ?_)
    | dsimp -proj only
    | split

theorem execAdcSelfCal_ring {s x : State} (h : RingOnly s x) :
    ∃ t, execAdcSelfCal x = .next t ∧ RingOnly s t := by
  unfold execAdcSelfCal
  repeat' first
    | with_reducible assumption
    | with_reducible refine done_ring ?_
    | with_reducible refine startAdcCal_ring ?_
    | with_reducible refine ite_ring ?_ ?_
    | with_reducible refine foldl_ring ?_ (fun t a h => ?_)
    | dsimp -proj only
    | split

theorem wakeDone_ring {s x : State} {a0} (h : RingOnly s x) :
    RingOnly s (wakeDone x a0) := by
  unfold wakeDone
  repeat' first
    | with_reducible assumption
    | with_reducible refine setResult_ring ?_
    | with_reducible refine modLink_ring ?_
    | with_reducible refine checkRecovered_ring ?_
    | with_reducible refine requestRetrain_ring ?_
    | with_reducible refine ite_ring ?_ ?_
    | with_reducible refine foldl_ring ?_ (fun t a h => ?_)
    | dsimp -proj only
    | split

theorem transparentUp_ring {s x : State} {a0} (h : RingOnly s x) :
    RingOnly s (transparentUp x a0) := by
  unfold transparentUp
  repeat' first
    | with_reducible assumption
    | with_reducible refine setResult_ring ?_
    | with_reducible refine ite_ring ?_ ?_
    | with_reducible refine foldl_ring ?_ (fun t a h => ?_)
    | dsimp -proj only
    | split

theorem lockFollows_ring {s x : State} {a0 a1} (h : RingOnly s x) :
    RingOnly s (lockFollows x a0 a1) := by
  unfold lockFollows
  repeat' first
    | with_reducible assumption
    | with_reducible refine restoreTransparent_ring ?_
    | with_reducible refine wakeDone_ring ?_
    | with_reducible refine transparentUp_ring ?_
    | with_reducible refine ite_ring ?_ ?_
    | with_reducible refine foldl_ring ?_ (fun t a h => ?_)
    | dsimp -proj only
    | split

theorem execCdrLockGained_ring {s x : State} {a0 a1} (h : RingOnly s x) :
    ∃ t, execCdrLockGained a0 a1 x = .next t ∧ RingOnly s t := by
  unfold execCdrLockGained
  repeat' first
    | with_reducible assumption
    | with_reducible refine done_ring ?_
    | with_reducible refine lockFollows_ring ?_
    | with_reducible refine modRx_ring ?_
    | with_reducible refine ite_ring ?_ ?_
    | with_reducible refine foldl_ring ?_ (fun t a h => ?_)
    | dsimp -proj only
    | split

theorem execJtagSamplePreload_ring {s x : State} (h : RingOnly s x) :
    ∃ t, execJtagSamplePreload x = .next t ∧ RingOnly s t := by
  unfold execJtagSamplePreload
  repeat' first
    | with_reducible assumption
    | with_reducible refine done_ring ?_
    | with_reducible refine scanCells_ring ?_
    | with_reducible refine ite_ring ?_ ?_
    | with_reducible refine foldl_ring ?_ (fun t a h => ?_)
    | dsimp -proj only
    | split

theorem pllUnlocked_ring {s x : State} {a0} (h : RingOnly s x) :
    RingOnly s (pllUnlocked x a0) := by
  unfold pllUnlocked
  try dsimp -zeta -proj only [upd_power_evt]
  repeat' first
    | with_reducible assumption
    | with_reducible refine logEvent_ring ?_
    | with_reducible refine putPower_ring ?_
    | with_reducible refine putEvt_ring ?_
    | with_reducible refine ite_ring ?_ ?_
    | with_reducible refine foldl_ring ?_ (fun t a h => ?_)
    | dsimp -proj only
    | split

theorem execCorePllLoss_ring {s x : State} (h : RingOnly s x) :
    ∃ t, execCorePllLoss x = .next t ∧ RingOnly s t := by
  unfold execCorePllLoss
  try dsimp -zeta -proj only [upd_dev]
  repeat' first
    | with_reducible assumption
    | with_reducible refine done_ring ?_
    | with_reducible refine settle_ring ?_
    | with_reducible refine pllUnlocked_ring ?_
    | with_reducible refine putDev_ring ?_
    | with_reducible refine ite_ring ?_ ?_
    | with_reducible refine foldl_ring ?_ (fun t a h => ?_)
    | dsimp -proj only
    | split

theorem execSignalDetected_ring {s x : State} {a0 a1} (h : RingOnly s x) :
    ∃ t, execSignalDetected a0 a1 x = .next t ∧ RingOnly s t := by
  unfold execSignalDetected
  repeat' first
    | with_reducible assumption
    | with_reducible refine done_ring ?_
    | with_reducible refine modRx_ring ?_
    | with_reducible refine enterDetect_ring ?_
    | with_reducible refine ite_ring ?_ ?_
    | with_reducible refine foldl_ring ?_ (fun t a h => ?_)
    | dsimp -proj only
    | split

theorem modAwl_ring {s x : State} {a0} (h : RingOnly s x) : RingOnly s (modAwl x a0) :=
  RingOnly.of_keeps (fun k hk => modAwl_keeps (a0 := a0) hk (k.same_refl x)) (by decide) h

theorem rateSeen_ring {s x : State} {a0 a1 a2} (h : RingOnly s x) :
    RingOnly s (rateSeen x a0 a1 a2) := by
  unfold rateSeen
  repeat' first
    | with_reducible assumption
    | with_reducible refine modLink_ring ?_
    | with_reducible refine modRx_ring ?_
    | with_reducible refine takeLinkRate_ring ?_
    | with_reducible refine ite_ring ?_ ?_
    | with_reducible refine foldl_ring ?_ (fun t a h => ?_)
    | dsimp -proj only
    | split

theorem awlFinish_ring {s x : State} (h : RingOnly s x) :
    RingOnly s (awlFinish x) := by
  unfold awlFinish
  repeat' first
    | with_reducible assumption
    | with_reducible refine logEvent_ring ?_
    | with_reducible refine drainEnd_ring ?_
    | with_reducible refine modAwl_ring ?_
    | with_reducible refine ite_ring ?_ ?_
    | with_reducible refine foldl_ring ?_ (fun t a h => ?_)
    | dsimp -proj only
    | split

theorem execAwlDone_ring {s x : State} (h : RingOnly s x) :
    ∃ t, execAwlDone x = .next t ∧ RingOnly s t := by
  unfold execAwlDone
  repeat' first
    | with_reducible assumption
    | with_reducible refine done_ring ?_
    | with_reducible refine awlFinish_ring ?_
    | with_reducible refine ite_ring ?_ ?_
    | with_reducible refine foldl_ring ?_ (fun t a h => ?_)
    | dsimp -proj only
    | split

theorem execCeRateHour_ring {s x : State} (h : RingOnly s x) :
    ∃ t, execCeRateHour x = .next t ∧ RingOnly s t := by
  unfold execCeRateHour
  try dsimp -zeta -proj only [upd_store]
  repeat' first
    | with_reducible assumption
    | with_reducible refine done_ring ?_
    | with_reducible refine putStore_ring ?_ ?_
    | with_reducible refine ite_ring ?_ ?_
    | with_reducible refine foldl_ring ?_ (fun t a h => ?_)
    | exact fun _ _ => rfl
    | dsimp -proj only
    | split

theorem execScrubLine_ring {s x : State} {a0} (h : RingOnly s x) :
    ∃ t, execScrubLine a0 x = .next t ∧ RingOnly s t := by
  unfold execScrubLine
  repeat' first
    | with_reducible assumption
    | with_reducible refine done_ring ?_
    | with_reducible refine visitLine_ring ?_
    | with_reducible refine upset_ring ?_
    | with_reducible refine ite_ring ?_ ?_
    | with_reducible refine foldl_ring ?_ (fun t a h => ?_)
    | dsimp -proj only
    | split

theorem execEyeSweepEnd_ring {s x : State} {a0 a1 a2 a3} (h : RingOnly s x) :
    ∃ t, execEyeSweepEnd a0 a1 a2 a3 x = .next t ∧ RingOnly s t := by
  unfold execEyeSweepEnd
  repeat' first
    | with_reducible assumption
    | with_reducible refine done_ring ?_
    | with_reducible refine eyeAlarm_ring ?_
    | with_reducible refine qualityCheck_ring ?_
    | with_reducible refine modMeas_ring ?_
    | with_reducible refine ite_ring ?_ ?_
    | with_reducible refine foldl_ring ?_ (fun t a h => ?_)
    | dsimp -proj only
    | split

theorem execSpareRetry_ring {s x : State} {a0} (h : RingOnly s x) :
    ∃ t, execSpareRetry a0 x = .next t ∧ RingOnly s t := by
  unfold execSpareRetry
  repeat' first
    | with_reducible assumption
    | with_reducible refine done_ring ?_
    | with_reducible refine retrySwap_ring ?_
    | with_reducible refine resendRelease_ring ?_
    | with_reducible refine ite_ring ?_ ?_
    | with_reducible refine foldl_ring ?_ (fun t a h => ?_)
    | dsimp -proj only
    | split

theorem execWakeFail_ring {s x : State} {a0} (h : RingOnly s x) :
    ∃ t, execWakeFail a0 x = .next t ∧ RingOnly s t := by
  unfold execWakeFail
  repeat' first
    | with_reducible assumption
    | with_reducible refine done_ring ?_
    | with_reducible refine logK_ring ?_
    | with_reducible refine requestRetrain_ring ?_
    | with_reducible refine ite_ring ?_ ?_
    | with_reducible refine foldl_ring ?_ (fun t a h => ?_)
    | dsimp -proj only
    | split

theorem execTwbSclLow_ring {s x : State} {a0} (h : RingOnly s x) :
    ∃ t, execTwbSclLow a0 x = .next t ∧ RingOnly s t := by
  unfold execTwbSclLow
  repeat' first
    | with_reducible assumption
    | with_reducible refine modTwb_ring ?_
    | with_reducible refine done_ring ?_
    | with_reducible refine endEeprom_ring ?_
    | with_reducible refine logEvent_ring ?_
    | with_reducible refine ite_ring ?_ ?_
    | with_reducible refine foldl_ring ?_ (fun t a h => ?_)
    | dsimp -proj only
    | split

theorem execTwbSdaLow_ring {s x : State} {a0} (h : RingOnly s x) :
    ∃ t, execTwbSdaLow a0 x = .next t ∧ RingOnly s t := by
  unfold execTwbSdaLow
  repeat' first
    | with_reducible assumption
    | with_reducible refine modTwb_ring ?_
    | with_reducible refine done_ring ?_
    | with_reducible refine logEvent_ring ?_
    | with_reducible refine ite_ring ?_ ?_
    | with_reducible refine foldl_ring ?_ (fun t a h => ?_)
    | dsimp -proj only
    | split

theorem execSupplyInWindow_ring {s x : State} {a0} (h : RingOnly s x) :
    ∃ t, execSupplyInWindow a0 x = .next t ∧ RingOnly s t := by
  unfold execSupplyInWindow
  repeat' first
    | with_reducible assumption
    | with_reducible refine done_ring ?_
    | with_reducible refine modPower_ring ?_
    | with_reducible refine ite_ring ?_ ?_
    | with_reducible refine foldl_ring ?_ (fun t a h => ?_)
    | dsimp -proj only
    | split

theorem execSleepWake_ring {s x : State} {a0 a1} (h : RingOnly s x) :
    ∃ t, execSleepWake a0 a1 x = .next t ∧ RingOnly s t := by
  unfold execSleepWake
  repeat' first
    | with_reducible assumption
    | with_reducible refine done_ring ?_
    | with_reducible refine modLink_ring ?_
    | with_reducible refine modRx_ring ?_
    | with_reducible refine lockPlls_ring ?_
    | with_reducible refine ite_ring ?_ ?_
    | with_reducible refine foldl_ring ?_ (fun t a h => ?_)
    | dsimp -proj only
    | split

theorem execSkipRateWindow_ring {s x : State} (h : RingOnly s x) :
    ∃ t, execSkipRateWindow x = .next t ∧ RingOnly s t := by
  unfold execSkipRateWindow
  try dsimp -zeta -proj only [upd_lanes]
  repeat' first
    | with_reducible assumption
    | with_reducible refine done_ring ?_
    | with_reducible refine putLanes_ring ?_
    | with_reducible refine ite_ring ?_ ?_
    | with_reducible refine foldl_ring ?_ (fun t a h => ?_)
    | dsimp -proj only
    | split

theorem clockLost_ring {s x : State} {a0 a1} (h : RingOnly s x) :
    RingOnly s (clockLost x a0 a1) := by
  unfold clockLost
  repeat' first
    | with_reducible assumption
    | with_reducible refine forwardLost_ring ?_
    | with_reducible refine markLost_ring ?_
    | with_reducible refine afterLosses_ring ?_
    | with_reducible refine ite_ring ?_ ?_
    | with_reducible refine foldl_ring ?_ (fun t a h => ?_)
    | dsimp -proj only
    | split

theorem pllLost_ring {s x : State} {a0} (h : RingOnly s x) :
    RingOnly s (pllLost x a0) := by
  unfold pllLost
  repeat' first
    | with_reducible assumption
    | with_reducible refine clockLost_ring ?_
    | with_reducible refine ite_ring ?_ ?_
    | with_reducible refine foldl_ring ?_ (fun t a h => ?_)
    | dsimp -proj only
    | split

theorem execSidePllLoss_ring {s x : State} {a0} (h : RingOnly s x) :
    ∃ t, execSidePllLoss a0 x = .next t ∧ RingOnly s t := by
  unfold execSidePllLoss
  repeat' first
    | with_reducible assumption
    | with_reducible refine done_ring ?_
    | with_reducible refine pllUnlocked_ring ?_
    | with_reducible refine pllLost_ring ?_
    | with_reducible refine ite_ring ?_ ?_
    | with_reducible refine foldl_ring ?_ (fun t a h => ?_)
    | dsimp -proj only
    | split

theorem setSuspended_ring {s x : State} {a0} (h : RingOnly s x) : RingOnly s (setSuspended x a0) :=
  RingOnly.of_keeps (fun k hk => setSuspended_keeps (a0 := a0) hk (k.same_refl x)) (by decide) h

theorem execTwbStartStop_ring {s x : State} {a0 a1} (h : RingOnly s x) :
    ∃ t, execTwbStartStop a0 a1 x = .next t ∧ RingOnly s t := by
  unfold execTwbStartStop
  repeat' first
    | with_reducible assumption
    | with_reducible refine modTwb_ring ?_
    | with_reducible refine done_ring ?_
    | with_reducible refine ite_ring ?_ ?_
    | with_reducible refine foldl_ring ?_ (fun t a h => ?_)
    | dsimp -proj only
    | split

theorem raiseWarn_ring {s x : State} {a0} (h : RingOnly s x) :
    RingOnly s (raiseWarn x a0) := by
  unfold raiseWarn
  try dsimp -zeta -proj only [upd_therm]
  repeat' first
    | with_reducible assumption
    | with_reducible refine logEvent_ring ?_
    | with_reducible refine settle_ring ?_
    | with_reducible refine partAside_ring ?_
    | with_reducible refine putTherm_ring ?_
    | with_reducible refine ite_ring ?_ ?_
    | with_reducible refine foldl_ring ?_ (fun t a h => ?_)
    | dsimp -proj only
    | split

theorem execThermalSample_ring {s x : State} {a0} (h : RingOnly s x) :
    ∃ t, execThermalSample a0 x = .next t ∧ RingOnly s t := by
  unfold execThermalSample
  try dsimp -zeta -proj only [upd_therm]
  repeat' first
    | with_reducible assumption
    | with_reducible refine done_ring ?_
    | with_reducible refine enterShutdown_ring ?_
    | with_reducible refine raiseWarn_ring ?_
    | with_reducible refine putTherm_ring ?_
    | with_reducible refine ite_ring ?_ ?_
    | with_reducible refine foldl_ring ?_ (fun t a h => ?_)
    | dsimp -proj only
    | split

theorem execNotifyRepeat_ring {s x : State} (h : RingOnly s x) :
    ∃ t, execNotifyRepeat x = .next t ∧ RingOnly s t := by
  unfold execNotifyRepeat
  repeat' first
    | with_reducible assumption
    | with_reducible refine done_ring ?_
    | with_reducible refine queueNotify_ring ?_
    | with_reducible refine ite_ring ?_ ?_
    | with_reducible refine foldl_ring ?_ (fun t a h => ?_)
    | dsimp -proj only
    | split

theorem clearMark_ring {s x : State} {a0 a1} (h : RingOnly s x) : RingOnly s (clearMark x a0 a1) :=
  RingOnly.of_keeps (fun k hk => clearMark_keeps (a0 := a0) (a1 := a1) hk (k.same_refl x)) (by decide) h

theorem execEpochUnsent_ring {s x : State} {a0 a1} (h : RingOnly s x) :
    ∃ t, execEpochUnsent a0 a1 x = .next t ∧ RingOnly s t := by
  unfold execEpochUnsent
  repeat' first
    | with_reducible assumption
    | with_reducible refine done_ring ?_
    | with_reducible refine clearMark_ring ?_
    | with_reducible refine logK_ring ?_
    | with_reducible refine ite_ring ?_ ?_
    | with_reducible refine foldl_ring ?_ (fun t a h => ?_)
    | dsimp -proj only
    | split

theorem execJobStart_ring {s x : State} {a0 a1} (h : RingOnly s x) :
    ∃ t, execJobStart a0 a1 x = .next t ∧ RingOnly s t := by
  unfold execJobStart
  repeat' first
    | with_reducible assumption
    | with_reducible refine done_ring ?_
    | with_reducible refine startJob_ring ?_
    | with_reducible refine ite_ring ?_ ?_
    | with_reducible refine foldl_ring ?_ (fun t a h => ?_)
    | dsimp -proj only
    | split

theorem execTwbSleep_ring {s x : State} (h : RingOnly s x) :
    ∃ t, execTwbSleep x = .next t ∧ RingOnly s t := by
  unfold execTwbSleep
  repeat' first
    | with_reducible assumption
    | with_reducible refine modTwb_ring ?_
    | with_reducible refine done_ring ?_
    | with_reducible refine ite_ring ?_ ?_
    | with_reducible refine foldl_ring ?_ (fun t a h => ?_)
    | dsimp -proj only
    | split

theorem execJoinTrigger_ring {s x : State} {a0 a1} (h : RingOnly s x) :
    ∃ t, execJoinTrigger a0 a1 x = .next t ∧ RingOnly s t := by
  unfold execJoinTrigger
  repeat' first
    | with_reducible assumption
    | with_reducible refine done_ring ?_
    | with_reducible refine startJoin_ring ?_
    | with_reducible refine ite_ring ?_ ?_
    | with_reducible refine foldl_ring ?_ (fun t a h => ?_)
    | dsimp -proj only
    | split

theorem execLogTokenTick_ring {s x : State} (h : RingOnly s x) :
    ∃ t, execLogTokenTick x = .next t ∧ RingOnly s t := by
  unfold execLogTokenTick
  try dsimp -zeta -proj only [upd_nvm]
  repeat' first
    | with_reducible assumption
    | with_reducible refine done_ring ?_
    | with_reducible refine putNvm_ring ?_
    | with_reducible refine ite_ring ?_ ?_
    | with_reducible refine foldl_ring ?_ (fun t a h => ?_)
    | dsimp -proj only
    | split

theorem execRateDetected_ring {s x : State} {a0 a1 a2} (h : RingOnly s x) :
    ∃ t, execRateDetected a0 a1 a2 x = .next t ∧ RingOnly s t := by
  unfold execRateDetected
  repeat' first
    | with_reducible assumption
    | with_reducible refine done_ring ?_
    | with_reducible refine rateSeen_ring ?_
    | with_reducible refine ite_ring ?_ ?_
    | with_reducible refine foldl_ring ?_ (fun t a h => ?_)
    | dsimp -proj only
    | split

theorem execForcedIdleRetrain_ring {s x : State} {a0} (h : RingOnly s x) :
    ∃ t, execForcedIdleRetrain a0 x = .next t ∧ RingOnly s t := by
  unfold execForcedIdleRetrain
  repeat' first
    | with_reducible assumption
    | with_reducible refine done_ring ?_
    | with_reducible refine modLink_ring ?_
    | with_reducible refine enterRetrain_ring ?_
    | with_reducible refine ite_ring ?_ ?_
    | with_reducible refine foldl_ring ?_ (fun t a h => ?_)
    | dsimp -proj only
    | split

theorem execSyncEdge_ring {s x : State} (h : RingOnly s x) :
    ∃ t, execSyncEdge x = .next t ∧ RingOnly s t := by
  unfold execSyncEdge
  repeat' first
    | with_reducible assumption
    | with_reducible refine done_ring ?_
    | with_reducible refine syncSeen_ring ?_
    | with_reducible refine ite_ring ?_ ?_
    | with_reducible refine foldl_ring ?_ (fun t a h => ?_)
    | dsimp -proj only
    | split

theorem execAdcSelfCalEnd_ring {s x : State} (h : RingOnly s x) :
    ∃ t, execAdcSelfCalEnd x = .next t ∧ RingOnly s t := by
  unfold execAdcSelfCalEnd
  try dsimp -zeta -proj only [upd_cal]
  repeat' first
    | with_reducible assumption
    | with_reducible refine done_ring ?_
    | with_reducible refine resetDecimator_ring ?_
    | with_reducible refine putCal_ring ?_
    | with_reducible refine ite_ring ?_ ?_
    | with_reducible refine foldl_ring ?_ (fun t a h => ?_)
    | dsimp -proj only
    | split

theorem execTwbWake_ring {s x : State} {a0} (h : RingOnly s x) :
    ∃ t, execTwbWake a0 x = .next t ∧ RingOnly s t := by
  unfold execTwbWake
  repeat' first
    | with_reducible assumption
    | with_reducible refine done_ring ?_
    | with_reducible refine addressByte_ring ?_
    | with_reducible refine ite_ring ?_ ?_
    | with_reducible refine foldl_ring ?_ (fun t a h => ?_)
    | dsimp -proj only
    | split

theorem execPrbsLockLost_ring {s x : State} {a0 a1} (h : RingOnly s x) :
    ∃ t, execPrbsLockLost a0 a1 x = .next t ∧ RingOnly s t := by
  unfold execPrbsLockLost
  repeat' first
    | with_reducible assumption
    | with_reducible refine done_ring ?_
    | with_reducible refine logL_ring ?_
    | with_reducible refine modMeas_ring ?_
    | with_reducible refine modPrbsJob_ring ?_
    | with_reducible refine ite_ring ?_ ?_
    | with_reducible refine foldl_ring ?_ (fun t a h => ?_)
    | dsimp -proj only
    | split

theorem execSequencerTimerTrigger_ring {s x : State} {a0} (h : RingOnly s x) :
    ∃ t, execSequencerTimerTrigger a0 x = .next t ∧ RingOnly s t := by
  unfold execSequencerTimerTrigger
  repeat' first
    | with_reducible assumption
    | with_reducible refine done_ring ?_
    | with_reducible refine trigger_ring ?_
    | with_reducible refine trigger_ring_eq ?_ (by with_reducible assumption)
    | with_reducible refine ite_ring ?_ ?_
    | with_reducible refine foldl_ring ?_ (fun t a h => ?_)
    | dsimp -proj only
    | split

theorem execEraseResume_ring {s x : State} (h : RingOnly s x) :
    ∃ t, execEraseResume x = .next t ∧ RingOnly s t := by
  unfold execEraseResume
  try dsimp -zeta -proj only [upd_nvm]
  repeat' first
    | with_reducible assumption
    | with_reducible refine done_ring ?_
    | with_reducible refine putNvm_ring ?_
    | with_reducible refine ite_ring ?_ ?_
    | with_reducible refine foldl_ring ?_ (fun t a h => ?_)
    | dsimp -proj only
    | split

theorem execIdlePeriodEnd_ring {s x : State} {a0} (h : RingOnly s x) :
    ∃ t, execIdlePeriodEnd a0 x = .next t ∧ RingOnly s t := by
  unfold execIdlePeriodEnd
  repeat' first
    | with_reducible assumption
    | with_reducible refine done_ring ?_
    | with_reducible refine modLink_ring ?_
    | with_reducible refine enterDetect_ring ?_
    | with_reducible refine ite_ring ?_ ?_
    | with_reducible refine foldl_ring ?_ (fun t a h => ?_)
    | dsimp -proj only
    | split

theorem suspendForJob_ring {s x : State} (h : RingOnly s x) : RingOnly s (suspendForJob x) :=
  RingOnly.of_keeps (fun k hk => suspendForJob_keeps hk (k.same_refl x)) (by decide) h

theorem execSpareLockTimer_ring {s x : State} {a0 a1 a2 a3} (h : RingOnly s x) :
    ∃ t, execSpareLockTimer a0 a1 a2 a3 x = .next t ∧ RingOnly s t := by
  unfold execSpareLockTimer
  repeat' first
    | with_reducible assumption
    | with_reducible refine done_ring ?_
    | with_reducible refine setSpare_ring ?_
    | with_reducible refine ite_ring ?_ ?_
    | with_reducible refine foldl_ring ?_ (fun t a h => ?_)
    | dsimp -proj only
    | split

theorem execEraseSuspend_ring {s x : State} {a0} (h : RingOnly s x) :
    ∃ t, execEraseSuspend a0 x = .next t ∧ RingOnly s t := by
  unfold execEraseSuspend
  repeat' first
    | with_reducible assumption
    | with_reducible refine setSuspended_ring ?_
    | with_reducible refine done_ring ?_
    | with_reducible refine ownDone_ring ?_
    | with_reducible refine suspendForJob_ring ?_
    | with_reducible refine ite_ring ?_ ?_
    | with_reducible refine foldl_ring ?_ (fun t a h => ?_)
    | dsimp -proj only
    | split

theorem execTwbAddress_ring {s x : State} {a0 a1} (h : RingOnly s x) :
    ∃ t, execTwbAddress a0 a1 x = .next t ∧ RingOnly s t := by
  unfold execTwbAddress
  repeat' first
    | with_reducible assumption
    | with_reducible refine done_ring ?_
    | with_reducible refine addressByte_ring ?_
    | with_reducible refine ite_ring ?_ ?_
    | with_reducible refine foldl_ring ?_ (fun t a h => ?_)
    | dsimp -proj only
    | split

theorem execLoopMasterMoved_ring {s x : State} {a0 a1} (h : RingOnly s x) :
    ∃ t, execLoopMasterMoved a0 a1 x = .next t ∧ RingOnly s t := by
  unfold execLoopMasterMoved
  repeat' first
    | with_reducible assumption
    | with_reducible refine done_ring ?_
    | with_reducible refine modLink_ring ?_
    | with_reducible refine modRx_ring ?_
    | with_reducible refine logLane_ring ?_
    | with_reducible refine ite_ring ?_ ?_
    | with_reducible refine foldl_ring ?_ (fun t a h => ?_)
    | dsimp -proj only
    | split

theorem execCommaReceived_ring {s x : State} {a0 a1 a2} (h : RingOnly s x) :
    ∃ t, execCommaReceived a0 a1 a2 x = .next t ∧ RingOnly s t := by
  unfold execCommaReceived
  repeat' first
    | with_reducible assumption
    | with_reducible refine done_ring ?_
    | with_reducible refine lockFollows_ring ?_
    | with_reducible refine modRx_ring ?_
    | with_reducible refine symLossRetrain_ring ?_
    | with_reducible refine ite_ring ?_ ?_
    | with_reducible refine foldl_ring ?_ (fun t a h => ?_)
    | dsimp -proj only
    | split

theorem execIdleEntrySetReceived_ring {s x : State} {a0 a1} (h : RingOnly s x) :
    ∃ t, execIdleEntrySetReceived a0 a1 x = .next t ∧ RingOnly s t := by
  unfold execIdleEntrySetReceived
  repeat' first
    | with_reducible assumption
    | with_reducible refine done_ring ?_
    | with_reducible refine idleEntry_ring ?_
    | with_reducible refine ite_ring ?_ ?_
    | with_reducible refine foldl_ring ?_ (fun t a h => ?_)
    | dsimp -proj only
    | split

theorem execJtagTapReset_ring {s x : State} (h : RingOnly s x) :
    ∃ t, execJtagTapReset x = .next t ∧ RingOnly s t := by
  unfold execJtagTapReset
  try dsimp -zeta -proj only [upd_pins_jtag]
  repeat' first
    | with_reducible assumption
    | with_reducible refine done_ring ?_
    | with_reducible refine putPins_ring ?_
    | with_reducible refine putJtag_ring ?_
    | with_reducible refine ite_ring ?_ ?_
    | with_reducible refine foldl_ring ?_ (fun t a h => ?_)
    | dsimp -proj only
    | split

theorem execUnrecoveredTimeout_ring {s x : State} {a0 a1 a2} (h : RingOnly s x) :
    ∃ t, execUnrecoveredTimeout a0 a1 a2 x = .next t ∧ RingOnly s t := by
  unfold execUnrecoveredTimeout
  repeat' first
    | with_reducible assumption
    | with_reducible refine done_ring ?_
    | with_reducible refine setUnrecovered_ring ?_
    | with_reducible refine ite_ring ?_ ?_
    | with_reducible refine foldl_ring ?_ (fun t a h => ?_)
    | dsimp -proj only
    | split

theorem execJtagBypass_ring {s x : State} {a0} (h : RingOnly s x) :
    ∃ t, execJtagBypass a0 x = .next t ∧ RingOnly s t := by
  unfold execJtagBypass
  repeat' first
    | with_reducible assumption
    | with_reducible refine done_ring ?_
    | with_reducible refine jtagLoad_ring ?_
    | with_reducible refine modJtag_ring ?_
    | with_reducible refine ite_ring ?_ ?_
    | with_reducible refine foldl_ring ?_ (fun t a h => ?_)
    | dsimp -proj only
    | split

theorem execArbitrationLost_ring {s x : State} (h : RingOnly s x) :
    ∃ t, execArbitrationLost x = .next t ∧ RingOnly s t := by
  unfold execArbitrationLost
  dsimp -zeta -proj only [upd_boot]
  split
  · have g : RingOnly s (x.putBoot { x.boot with phase := 1, arbLost := x.boot.arbLost + 1 }) :=
      putBoot_ring h
    refine done_ring ?_
    exact ite_ring (endEeprom_ring g) g
  · exact done_ring h

/-- The commands that write nothing in the Store but the event ring. -/
theorem exec_ring {s x : State} {a0 : Instr} (hc : ringOnlyCmd a0 = true) (h : RingOnly s x) :
    ∃ t, exec a0 x = .next t ∧ RingOnly s t := by
  cases a0 with
  | weltCauseArises _ => cases hc
  | weltCauseClears c => exact execWeltCauseClears_ring (a0 := c) h
  | weltOpenConfirmed p => exact execWeltOpenConfirmed_ring (a0 := p) h
  | chargePumpReady => exact execChargePumpReady_ring h
  | railValid r => exact execRailValid_ring (a0 := r) h
  | railInvalid _ => cases hc
  | supplyOutOfWindow r => exact execSupplyOutOfWindow_ring (a0 := r) h
  | resetNPulse => cases hc
  | bypNPulse => exact execBypNPulse_ring h
  | resetRelease st => exact execResetRelease_ring (a0 := st) h
  | testEnHigh => exact execTestEnHigh_ring h
  | lastSelection => exact execLastSelection_ring h
  | eepromTransfer r => exact execEepromTransfer_ring (a0 := r) h
  | arbitrationLost => exact execArbitrationLost_ring h
  | globalApply => exact execGlobalApply_ring h
  | bootCalibration m => exact execBootCalibration_ring (a0 := m) h
  | bootDone => exact execBootDone_ring h
  | calrecWrite ok => exact execCalrecWrite_ring (a0 := ok) h
  | joinTrigger l k => exact execJoinTrigger_ring (a0 := l) (a1 := k) h
  | joinTimeout l => exact execJoinTimeout_ring (a0 := l) h
  | lnkctlJoin _ _ _ => cases hc
  | lnkctlAside _ _ _ => cases hc
  | devctlAside _ _ => cases hc
  | devctlStandby _ _ => cases hc
  | standbyEntered => cases hc
  | devctlWake _ _ => cases hc
  | standbyExitDone => exact execStandbyExitDone_ring h
  | devctlThermRearm _ _ => cases hc
  | thermalSample t => exact execThermalSample_ring (a0 := t) h
  | lastStage _ _ => cases hc
  | commit _ _ => cases hc
  | discard _ _ => cases hc
  | linkSwitchInstant l => exact execLinkSwitchInstant_ring (a0 := l) h
  | skipAbsent l => exact execSkipAbsent_ring (a0 := l) h
  | idlePeriodEnd l => exact execIdlePeriodEnd_ring (a0 := l) h
  | commitRollback l => exact execCommitRollback_ring (a0 := l) h
  | padSetPasses l d => exact execPadSetPasses_ring (a0 := l) (a1 := d) h
  | epochUnsent l d => exact execEpochUnsent_ring (a0 := l) (a1 := d) h
  | rateDetected sd p r => exact execRateDetected_ring (a0 := sd) (a1 := p) (a2 := r) h
  | cdrLockGained sd p => exact execCdrLockGained_ring (a0 := sd) (a1 := p) h
  | cdrLockLost sd p => exact execCdrLockLost_ring (a0 := sd) (a1 := p) h
  | commaReceived sd p ph => exact execCommaReceived_ring (a0 := sd) (a1 := p) (a2 := ph) h
  | rxCodeGroup _ _ _ _ => cases hc
  | lnctlRecentre _ _ _ _ => cases hc
  | lnctlBitslip _ _ _ _ => cases hc
  | skipSetArrives sd p k => exact execSkipSetArrives_ring (a0 := sd) (a1 := p) (a2 := k) h
  | skipRateWindow => exact execSkipRateWindow_ring h
  | loopMasterMoved l d => exact execLoopMasterMoved_ring (a0 := l) (a1 := d) h
  | swingLimit sd p c => exact execSwingLimit_ring (a0 := sd) (a1 := p) (a2 := c) h
  | swingRaise sd p room => exact execSwingRaise_ring (a0 := sd) (a1 := p) (a2 := room) h
  | lntxdrvWrite _ _ _ _ => cases hc
  | trimRampStep sd p t => exact execTrimRampStep_ring (a0 := sd) (a1 := p) (a2 := t) h
  | lnsnapTake _ _ _ _ => cases hc
  | lnsnapRelease _ _ _ _ => cases hc
  | snapshotExpiry sd p => exact execSnapshotExpiry_ring (a0 := sd) (a1 := p) h
  | sidePllLoss q => exact execSidePllLoss_ring (a0 := q) h
  | corePllLoss => exact execCorePllLoss_ring h
  | pllRelockAttempt q ok => exact execPllRelockAttempt_ring (a0 := q) (a1 := ok) h
  | receiverDetect l sd mask => exact execReceiverDetect_ring (a0 := l) (a1 := sd) (a2 := mask) h
  | trainingSetReceived l sd k t => exact execTrainingSetReceived_ring (a0 := l) (a1 := sd) (a2 := k) (a3 := t) h
  | rateDiscard l => exact execRateDiscard_ring (a0 := l) h
  | trainTimeout l => exact execTrainTimeout_ring (a0 := l) h
  | presetSearchStep sd p o => exact execPresetSearchStep_ring (a0 := sd) (a1 := p) (a2 := o) h
  | lnkctlRetrain _ _ _ => cases hc
  | forcedIdleRetrain l => exact execForcedIdleRetrain_ring (a0 := l) h
  | electricalIdleDetected sd p => exact execElectricalIdleDetected_ring (a0 := sd) (a1 := p) h
  | lnkctlDisable _ _ _ => cases hc
  | lnkctlClrRetrains _ _ _ => cases hc
  | idleEntrySetReceived l d => exact execIdleEntrySetReceived_ring (a0 := l) (a1 := d) h
  | sleepWake l sd => exact execSleepWake_ring (a0 := l) (a1 := sd) h
  | wakeFail l => exact execWakeFail_ring (a0 := l) h
  | deepEntryTimeout l => exact execDeepEntryTimeout_ring (a0 := l) h
  | lpGrantSeen l st => exact execLpGrantSeen_ring (a0 := l) (a1 := st) h
  | lpReqIdle l st => exact execLpReqIdle_ring (a0 := l) (a1 := st) h
  | unrecoveredTimeout l d k => exact execUnrecoveredTimeout_ring (a0 := l) (a1 := d) (a2 := k) h
  | spareLockTimer l n d locked => exact execSpareLockTimer_ring (a0 := l) (a1 := n) (a2 := d) (a3 := locked) h
  | spareRspReceived l sd r => exact execSpareRspReceived_ring (a0 := l) (a1 := sd) (a2 := r) h
  | spareMosForwarded l r => exact execSpareMosForwarded_ring (a0 := l) (a1 := r) h
  | swapTimeout l => exact execSwapTimeout_ring (a0 := l) h
  | spareRetry l => exact execSpareRetry_ring (a0 := l) h
  | predictiveEvaluation => exact execPredictiveEvaluation_ring h
  | lnkspcmdSwap _ _ _ => cases hc
  | lnkspcmdBack _ _ _ => cases hc
  | lnklossUncap _ _ _ => cases hc
  | prbsGenEnable _ _ _ _ => cases hc
  | prbsChkEnable _ _ _ _ => cases hc
  | prbsInject _ _ _ _ => cases hc
  | prbsCheckerLock sd p => exact execPrbsCheckerLock_ring (a0 := sd) (a1 := p) h
  | prbsLockLost sd p => exact execPrbsLockLost_ring (a0 := sd) (a1 := p) h
  | counterClr _ _ _ _ => cases hc
  | lnscanStart _ _ _ _ => cases hc
  | scanPointDone sd p n => exact execScanPointDone_ring (a0 := sd) (a1 := p) (a2 := n) h
  | eyeSweepEnd sd p w h0 => exact execEyeSweepEnd_ring (a0 := sd) (a1 := p) (a2 := w) (a3 := h0) h
  | trainingSweepEnd sd p w h0 => exact execTrainingSweepEnd_ring (a0 := sd) (a1 := p) (a2 := w) (a3 := h0) h
  | loopNearSerial _ _ _ _ => cases hc
  | loopNearParallel _ _ _ _ => cases hc
  | loopFarEnd _ _ _ _ => cases hc
  | loopOff _ _ _ _ => cases hc
  | calcmdGo _ _ => cases hc
  | calcmdSave _ _ => cases hc
  | recalEvaluation => exact execRecalEvaluation_ring h
  | recalStep last => exact execRecalStep_ring (a0 := last) h
  | recalAborted => exact execRecalAborted_ring h
  | adcSelfCal => exact execAdcSelfCal_ring h
  | adcSelfCalEnd => exact execAdcSelfCalEnd_ring h
  | twbAddress a rd => exact execTwbAddress_ring (a0 := a) (a1 := rd) h
  | twbWriteWord _ _ => cases hc
  | twbReadWord e => exact execTwbReadWord_ring (a0 := e) h
  | twbStartStop k extra => exact execTwbStartStop_ring (a0 := k) (a1 := extra) h
  | twbLate => exact execTwbLate_ring h
  | twbWake a => exact execTwbWake_ring (a0 := a) h
  | twbSleep => exact execTwbSleep_ring h
  | twbSclLow extra => exact execTwbSclLow_ring (a0 := extra) h
  | twbSdaLow extra => exact execTwbSdaLow_ring (a0 := extra) h
  | mosReceived _ _ _ _ => cases hc
  | mosRd _ _ _ _ _ _ => cases hc
  | mosWr _ _ _ _ _ _ => cases hc
  | notifyRepeat => exact execNotifyRepeat_ring h
  | jtagExtest => exact execJtagExtest_ring h
  | jtagIdcode => exact execJtagIdcode_ring h
  | jtagSamplePreload => exact execJtagSamplePreload_ring h
  | jtagExtestPulse => exact execJtagExtestPulse_ring h
  | jtagExtestTrain => exact execJtagExtestTrain_ring h
  | jtagHighz => exact execJtagHighz_ring h
  | jtagClamp => exact execJtagClamp_ring h
  | jtagBypass op => exact execJtagBypass_ring (a0 := op) h
  | jtagTapReset => exact execJtagTapReset_ring h
  | storeRead c a e => exact execStoreRead_ring (a0 := c) (a1 := a) (a2 := e) h
  | storeWrite _ _ _ _ => cases hc
  | windowEntryWrite _ _ _ _ => cases hc
  | winctlSync _ _ => cases hc
  | syncBarrierDone c => exact execSyncBarrierDone_ring (a0 := c) h
  | scrubLine e => exact execScrubLine_ring (a0 := e) h
  | ceRateHour => exact execCeRateHour_ring h
  | storeCeClr _ _ => cases hc
  | wqEnable _ _ _ => cases hc
  | wqDisable _ _ _ => cases hc
  | wqReset _ _ _ => cases hc
  | wqDoorbell _ _ _ => cases hc
  | entryPrefetch _ _ => cases hc
  | headerWrite _ => cases hc
  | jobStart u heel => exact execJobStart_ring (a0 := u) (a1 := heel) h
  | preemptFlushDone _ _ => cases hc
  | jobEnd _ => cases hc
  | completionWrite _ => cases hc
  | drainComplete q => exact execDrainComplete_ring (a0 := q) h
  | cqEnable _ _ _ => cases hc
  | cqDisable _ _ _ => cases hc
  | cqheadWrite _ _ _ => cases hc
  | nop _ => cases hc
  | fence _ => cases hc
  | move _ _ => cases hc
  | capture _ => cases hc
  | captureTrigger sd ln => exact execCaptureTrigger_ring (a0 := sd) (a1 := ln) h
  | captureStop _ => cases hc
  | captureTimeout _ => cases hc
  | captureLostPage _ => cases hc
  | eyescan _ _ _ => cases hc
  | eyescanLockTimeout _ _ => cases hc
  | prbsJob sd p => exact execPrbsJob_ring (a0 := sd) (a1 := p) h
  | prbsJobInject sd p => exact execPrbsJobInject_ring (a0 := sd) (a1 := p) h
  | prbsJobDurationEnd _ _ => cases hc
  | nvmRead _ => cases hc
  | nvmProgram _ => cases hc
  | nvmUnitProgrammed ok => exact execNvmUnitProgrammed_ring (a0 := ok) h
  | nvmErase => exact execNvmErase_ring h
  | nvmSectorErased ok => exact execNvmSectorErased_ring (a0 := ok) h
  | eraseSuspend w => exact execEraseSuspend_ring (a0 := w) h
  | eraseResume => exact execEraseResume_ring h
  | telemetry _ => cases hc
  | imcSend => exact execImcSend_ring h
  | imcNoSlot => exact execImcNoSlot_ring h
  | wqResume _ _ _ => cases hc
  | awlQueue _ _ => cases hc
  | awlJob _ _ _ => cases hc
  | awlUnit _ _ => cases hc
  | awlLane _ _ => cases hc
  | awlAll _ => cases hc
  | awlDone => exact execAwlDone_ring h
  | nvmWindowRead c off e => exact execNvmWindowRead_ring (a0 := c) (a1 := off) (a2 := e) h
  | nvmLogWrite ok => exact execNvmLogWrite_ring (a0 := ok) h
  | logTokenTick => exact execLogTokenTick_ring h
  | nvmctlCeClr _ _ => cases hc
  | sequencerTimerTrigger n => exact execSequencerTimerTrigger_ring (a0 := n) h
  | decimatorOutput v => exact execDecimatorOutput_ring (a0 := v) h
  | syncEdge => exact execSyncEdge_ring h
  | tmseqctlRestart _ _ _ => cases hc
  | dtimeLoadNow _ _ => cases hc
  | dtimeLoRead c => exact execDtimeLoRead_ring (a0 := c) h
  | dtrateWrite _ _ => cases hc
  | heelWatchdogTrip => exact execHeelWatchdogTrip_ring h
  | weltMismatch p stuckOpen => exact execWeltMismatch_ring (a0 := p) (a1 := stuckOpen) h
  | regReadClear c a e => exact execRegReadClear_ring (a0 := c) (a1 := a) (a2 := e) h
  | regWrite _ _ _ _ => cases hc
  | signalDetected sd p => exact execSignalDetected_ring (a0 := sd) (a1 := p) h
  | vioSplitThreshold => exact execVioSplitThreshold_ring h
  | supplyInWindow r => exact execSupplyInWindow_ring (a0 := r) h

end Sys2Proof.Machine
end

