-- ==== Sys2Proof/Laws/State.lean ====
section
/-! SUPPORT. The updates of the state's tables: one lemma per component that an update leaves alone, and what is read
back from the entry that it changes and from the others. -/

namespace Sys2Proof.Machine

theorem vput_self {α : Type} {n : Nat} (v : Vector α n) (i : Fin n) (x : α) : (vput v i x)[i] = x := by
  unfold vput
  exact Vector.getElem_set_self i.isLt

theorem vput_other {α : Type} {n : Nat} (v : Vector α n) (i j : Fin n) (x : α) (h : j ≠ i) : (vput v i x)[j] = v[j] := by
  unfold vput
  exact Vector.getElem_set_ne i.isLt j.isLt fun e => h (Fin.ext e.symm)

theorem vmod_self {α : Type} {n : Nat} (v : Vector α n) (i : Fin n) (f : α → α) : (vmod v i f)[i] = f v[i] :=
  vput_self v i _

theorem vmod_other {α : Type} {n : Nat} (v : Vector α n) (i j : Fin n) (f : α → α) (h : j ≠ i) :
    (vmod v i f)[j] = v[j] := vput_other v i j _ h

theorem laneIx_inj {sd sd' : Side} {p p' : Pos} (h : laneIx sd p = laneIx sd' p') : sd = sd' ∧ p = p' := by
  have h1 := p.isLt
  have h2 := p'.isLt
  cases sd <;> cases sd' <;> simp only [laneIx, Fin.mk.injEq] at h
  · exact ⟨rfl, Fin.ext h⟩
  · omega
  · omega
  · exact ⟨rfl, Fin.ext (by omega)⟩

theorem getLane_modLane (s : State) (sd : Side) (p : Pos) (f : Lane → Lane) :
    getLane (modLane s sd p f) sd p = f (getLane s sd p) := vmod_self _ _ _

theorem getLane_modLane_other (s : State) (sd sd' : Side) (p p' : Pos) (f : Lane → Lane) (h : (sd', p') ≠ (sd, p)) :
    getLane (modLane s sd p f) sd' p' = getLane s sd' p' :=
  vmod_other _ _ _ _ fun e => h (Prod.ext (laneIx_inj e).1 (laneIx_inj e).2)

theorem getLink_modLink (s : State) (l : LinkNo) (f : Link → Link) : getLink (modLink s l f) l = f (getLink s l) :=
  vmod_self _ _ _

theorem getLink_modLink_other (s : State) (l j : LinkNo) (f : Link → Link) (h : j ≠ l) :
    getLink (modLink s l f) j = getLink s j := vmod_other _ _ _ _ h

theorem getUnit_setUnit (s : State) (u : UnitId) (j : Option Job) : getUnit (setUnit s u j) u = j := by
  cases u with
  | mover m => exact vput_self _ _ _
  | cap sd => exact vput_self _ _ _
  | lane sd p => exact vput_self _ _ _
  | nvm => rfl
  | inband => rfl

@[simp] theorem modLane_pins (s : State) (sd : Side) (p : Pos) (f : Lane → Lane) : (modLane s sd p f).pins = s.pins := rfl
@[simp] theorem modLane_power (s : State) (sd : Side) (p : Pos) (f : Lane → Lane) : (modLane s sd p f).power = s.power := rfl
@[simp] theorem modLane_boot (s : State) (sd : Side) (p : Pos) (f : Lane → Lane) : (modLane s sd p f).boot = s.boot := rfl
@[simp] theorem modLane_dev (s : State) (sd : Side) (p : Pos) (f : Lane → Lane) : (modLane s sd p f).dev = s.dev := rfl
@[simp] theorem modLane_welt (s : State) (sd : Side) (p : Pos) (f : Lane → Lane) : (modLane s sd p f).welt = s.welt := rfl
@[simp] theorem modLane_therm (s : State) (sd : Side) (p : Pos) (f : Lane → Lane) : (modLane s sd p f).therm = s.therm := rfl
@[simp] theorem modLane_evt (s : State) (sd : Side) (p : Pos) (f : Lane → Lane) : (modLane s sd p f).evt = s.evt := rfl
@[simp] theorem modLane_heel (s : State) (sd : Side) (p : Pos) (f : Lane → Lane) : (modLane s sd p f).heel = s.heel := rfl
@[simp] theorem modLane_links (s : State) (sd : Side) (p : Pos) (f : Lane → Lane) : (modLane s sd p f).links = s.links := rfl
@[simp] theorem modLane_last (s : State) (sd : Side) (p : Pos) (f : Lane → Lane) : (modLane s sd p f).last = s.last := rfl
@[simp] theorem modLane_store (s : State) (sd : Side) (p : Pos) (f : Lane → Lane) : (modLane s sd p f).store = s.store := rfl
@[simp] theorem modLane_win (s : State) (sd : Side) (p : Pos) (f : Lane → Lane) : (modLane s sd p f).win = s.win := rfl
@[simp] theorem modLane_twb (s : State) (sd : Side) (p : Pos) (f : Lane → Lane) : (modLane s sd p f).twb = s.twb := rfl
@[simp] theorem modLane_imc (s : State) (sd : Side) (p : Pos) (f : Lane → Lane) : (modLane s sd p f).imc = s.imc := rfl
@[simp] theorem modLane_jtag (s : State) (sd : Side) (p : Pos) (f : Lane → Lane) : (modLane s sd p f).jtag = s.jtag := rfl
@[simp] theorem modLane_acc (s : State) (sd : Side) (p : Pos) (f : Lane → Lane) : (modLane s sd p f).acc = s.acc := rfl
@[simp] theorem modLane_wqs (s : State) (sd : Side) (p : Pos) (f : Lane → Lane) : (modLane s sd p f).wqs = s.wqs := rfl
@[simp] theorem modLane_cqs (s : State) (sd : Side) (p : Pos) (f : Lane → Lane) : (modLane s sd p f).cqs = s.cqs := rfl
@[simp] theorem modLane_units (s : State) (sd : Side) (p : Pos) (f : Lane → Lane) : (modLane s sd p f).units = s.units := rfl
@[simp] theorem modLane_slots (s : State) (sd : Side) (p : Pos) (f : Lane → Lane) : (modLane s sd p f).slots = s.slots := rfl
@[simp] theorem modLane_sched (s : State) (sd : Side) (p : Pos) (f : Lane → Lane) : (modLane s sd p f).sched = s.sched := rfl
@[simp] theorem modLane_awl (s : State) (sd : Side) (p : Pos) (f : Lane → Lane) : (modLane s sd p f).awl = s.awl := rfl
@[simp] theorem modLane_nvm (s : State) (sd : Side) (p : Pos) (f : Lane → Lane) : (modLane s sd p f).nvm = s.nvm := rfl
@[simp] theorem modLane_tm (s : State) (sd : Side) (p : Pos) (f : Lane → Lane) : (modLane s sd p f).tm = s.tm := rfl
@[simp] theorem modLane_time (s : State) (sd : Side) (p : Pos) (f : Lane → Lane) : (modLane s sd p f).time = s.time := rfl
@[simp] theorem modLane_cal (s : State) (sd : Side) (p : Pos) (f : Lane → Lane) : (modLane s sd p f).cal = s.cal := rfl
@[simp] theorem modLane_free (s : State) (sd : Side) (p : Pos) (f : Lane → Lane) : (modLane s sd p f).free = s.free := rfl
@[simp] theorem modLane_pending (s : State) (sd : Side) (p : Pos) (f : Lane → Lane) : (modLane s sd p f).pending = s.pending := rfl

@[simp] theorem modRx_pins (s : State) (sd : Side) (p : Pos) (f : LaneRx → LaneRx) : (modRx s sd p f).pins = s.pins := rfl
@[simp] theorem modRx_power (s : State) (sd : Side) (p : Pos) (f : LaneRx → LaneRx) : (modRx s sd p f).power = s.power := rfl
@[simp] theorem modRx_boot (s : State) (sd : Side) (p : Pos) (f : LaneRx → LaneRx) : (modRx s sd p f).boot = s.boot := rfl
@[simp] theorem modRx_dev (s : State) (sd : Side) (p : Pos) (f : LaneRx → LaneRx) : (modRx s sd p f).dev = s.dev := rfl
@[simp] theorem modRx_welt (s : State) (sd : Side) (p : Pos) (f : LaneRx → LaneRx) : (modRx s sd p f).welt = s.welt := rfl
@[simp] theorem modRx_therm (s : State) (sd : Side) (p : Pos) (f : LaneRx → LaneRx) : (modRx s sd p f).therm = s.therm := rfl
@[simp] theorem modRx_evt (s : State) (sd : Side) (p : Pos) (f : LaneRx → LaneRx) : (modRx s sd p f).evt = s.evt := rfl
@[simp] theorem modRx_heel (s : State) (sd : Side) (p : Pos) (f : LaneRx → LaneRx) : (modRx s sd p f).heel = s.heel := rfl
@[simp] theorem modRx_links (s : State) (sd : Side) (p : Pos) (f : LaneRx → LaneRx) : (modRx s sd p f).links = s.links := rfl
@[simp] theorem modRx_last (s : State) (sd : Side) (p : Pos) (f : LaneRx → LaneRx) : (modRx s sd p f).last = s.last := rfl
@[simp] theorem modRx_store (s : State) (sd : Side) (p : Pos) (f : LaneRx → LaneRx) : (modRx s sd p f).store = s.store := rfl
@[simp] theorem modRx_win (s : State) (sd : Side) (p : Pos) (f : LaneRx → LaneRx) : (modRx s sd p f).win = s.win := rfl
@[simp] theorem modRx_twb (s : State) (sd : Side) (p : Pos) (f : LaneRx → LaneRx) : (modRx s sd p f).twb = s.twb := rfl
@[simp] theorem modRx_imc (s : State) (sd : Side) (p : Pos) (f : LaneRx → LaneRx) : (modRx s sd p f).imc = s.imc := rfl
@[simp] theorem modRx_jtag (s : State) (sd : Side) (p : Pos) (f : LaneRx → LaneRx) : (modRx s sd p f).jtag = s.jtag := rfl
@[simp] theorem modRx_acc (s : State) (sd : Side) (p : Pos) (f : LaneRx → LaneRx) : (modRx s sd p f).acc = s.acc := rfl
@[simp] theorem modRx_wqs (s : State) (sd : Side) (p : Pos) (f : LaneRx → LaneRx) : (modRx s sd p f).wqs = s.wqs := rfl
@[simp] theorem modRx_cqs (s : State) (sd : Side) (p : Pos) (f : LaneRx → LaneRx) : (modRx s sd p f).cqs = s.cqs := rfl
@[simp] theorem modRx_units (s : State) (sd : Side) (p : Pos) (f : LaneRx → LaneRx) : (modRx s sd p f).units = s.units := rfl
@[simp] theorem modRx_slots (s : State) (sd : Side) (p : Pos) (f : LaneRx → LaneRx) : (modRx s sd p f).slots = s.slots := rfl
@[simp] theorem modRx_sched (s : State) (sd : Side) (p : Pos) (f : LaneRx → LaneRx) : (modRx s sd p f).sched = s.sched := rfl
@[simp] theorem modRx_awl (s : State) (sd : Side) (p : Pos) (f : LaneRx → LaneRx) : (modRx s sd p f).awl = s.awl := rfl
@[simp] theorem modRx_nvm (s : State) (sd : Side) (p : Pos) (f : LaneRx → LaneRx) : (modRx s sd p f).nvm = s.nvm := rfl
@[simp] theorem modRx_tm (s : State) (sd : Side) (p : Pos) (f : LaneRx → LaneRx) : (modRx s sd p f).tm = s.tm := rfl
@[simp] theorem modRx_time (s : State) (sd : Side) (p : Pos) (f : LaneRx → LaneRx) : (modRx s sd p f).time = s.time := rfl
@[simp] theorem modRx_cal (s : State) (sd : Side) (p : Pos) (f : LaneRx → LaneRx) : (modRx s sd p f).cal = s.cal := rfl
@[simp] theorem modRx_free (s : State) (sd : Side) (p : Pos) (f : LaneRx → LaneRx) : (modRx s sd p f).free = s.free := rfl
@[simp] theorem modRx_pending (s : State) (sd : Side) (p : Pos) (f : LaneRx → LaneRx) : (modRx s sd p f).pending = s.pending := rfl

@[simp] theorem modTx_pins (s : State) (sd : Side) (p : Pos) (f : LaneTx → LaneTx) : (modTx s sd p f).pins = s.pins := rfl
@[simp] theorem modTx_power (s : State) (sd : Side) (p : Pos) (f : LaneTx → LaneTx) : (modTx s sd p f).power = s.power := rfl
@[simp] theorem modTx_boot (s : State) (sd : Side) (p : Pos) (f : LaneTx → LaneTx) : (modTx s sd p f).boot = s.boot := rfl
@[simp] theorem modTx_dev (s : State) (sd : Side) (p : Pos) (f : LaneTx → LaneTx) : (modTx s sd p f).dev = s.dev := rfl
@[simp] theorem modTx_welt (s : State) (sd : Side) (p : Pos) (f : LaneTx → LaneTx) : (modTx s sd p f).welt = s.welt := rfl
@[simp] theorem modTx_therm (s : State) (sd : Side) (p : Pos) (f : LaneTx → LaneTx) : (modTx s sd p f).therm = s.therm := rfl
@[simp] theorem modTx_evt (s : State) (sd : Side) (p : Pos) (f : LaneTx → LaneTx) : (modTx s sd p f).evt = s.evt := rfl
@[simp] theorem modTx_heel (s : State) (sd : Side) (p : Pos) (f : LaneTx → LaneTx) : (modTx s sd p f).heel = s.heel := rfl
@[simp] theorem modTx_links (s : State) (sd : Side) (p : Pos) (f : LaneTx → LaneTx) : (modTx s sd p f).links = s.links := rfl
@[simp] theorem modTx_last (s : State) (sd : Side) (p : Pos) (f : LaneTx → LaneTx) : (modTx s sd p f).last = s.last := rfl
@[simp] theorem modTx_store (s : State) (sd : Side) (p : Pos) (f : LaneTx → LaneTx) : (modTx s sd p f).store = s.store := rfl
@[simp] theorem modTx_win (s : State) (sd : Side) (p : Pos) (f : LaneTx → LaneTx) : (modTx s sd p f).win = s.win := rfl
@[simp] theorem modTx_twb (s : State) (sd : Side) (p : Pos) (f : LaneTx → LaneTx) : (modTx s sd p f).twb = s.twb := rfl
@[simp] theorem modTx_imc (s : State) (sd : Side) (p : Pos) (f : LaneTx → LaneTx) : (modTx s sd p f).imc = s.imc := rfl
@[simp] theorem modTx_jtag (s : State) (sd : Side) (p : Pos) (f : LaneTx → LaneTx) : (modTx s sd p f).jtag = s.jtag := rfl
@[simp] theorem modTx_acc (s : State) (sd : Side) (p : Pos) (f : LaneTx → LaneTx) : (modTx s sd p f).acc = s.acc := rfl
@[simp] theorem modTx_wqs (s : State) (sd : Side) (p : Pos) (f : LaneTx → LaneTx) : (modTx s sd p f).wqs = s.wqs := rfl
@[simp] theorem modTx_cqs (s : State) (sd : Side) (p : Pos) (f : LaneTx → LaneTx) : (modTx s sd p f).cqs = s.cqs := rfl
@[simp] theorem modTx_units (s : State) (sd : Side) (p : Pos) (f : LaneTx → LaneTx) : (modTx s sd p f).units = s.units := rfl
@[simp] theorem modTx_slots (s : State) (sd : Side) (p : Pos) (f : LaneTx → LaneTx) : (modTx s sd p f).slots = s.slots := rfl
@[simp] theorem modTx_sched (s : State) (sd : Side) (p : Pos) (f : LaneTx → LaneTx) : (modTx s sd p f).sched = s.sched := rfl
@[simp] theorem modTx_awl (s : State) (sd : Side) (p : Pos) (f : LaneTx → LaneTx) : (modTx s sd p f).awl = s.awl := rfl
@[simp] theorem modTx_nvm (s : State) (sd : Side) (p : Pos) (f : LaneTx → LaneTx) : (modTx s sd p f).nvm = s.nvm := rfl
@[simp] theorem modTx_tm (s : State) (sd : Side) (p : Pos) (f : LaneTx → LaneTx) : (modTx s sd p f).tm = s.tm := rfl
@[simp] theorem modTx_time (s : State) (sd : Side) (p : Pos) (f : LaneTx → LaneTx) : (modTx s sd p f).time = s.time := rfl
@[simp] theorem modTx_cal (s : State) (sd : Side) (p : Pos) (f : LaneTx → LaneTx) : (modTx s sd p f).cal = s.cal := rfl
@[simp] theorem modTx_free (s : State) (sd : Side) (p : Pos) (f : LaneTx → LaneTx) : (modTx s sd p f).free = s.free := rfl
@[simp] theorem modTx_pending (s : State) (sd : Side) (p : Pos) (f : LaneTx → LaneTx) : (modTx s sd p f).pending = s.pending := rfl

@[simp] theorem modEq_pins (s : State) (sd : Side) (p : Pos) (f : LaneEq → LaneEq) : (modEq s sd p f).pins = s.pins := rfl
@[simp] theorem modEq_power (s : State) (sd : Side) (p : Pos) (f : LaneEq → LaneEq) : (modEq s sd p f).power = s.power := rfl
@[simp] theorem modEq_boot (s : State) (sd : Side) (p : Pos) (f : LaneEq → LaneEq) : (modEq s sd p f).boot = s.boot := rfl
@[simp] theorem modEq_dev (s : State) (sd : Side) (p : Pos) (f : LaneEq → LaneEq) : (modEq s sd p f).dev = s.dev := rfl
@[simp] theorem modEq_welt (s : State) (sd : Side) (p : Pos) (f : LaneEq → LaneEq) : (modEq s sd p f).welt = s.welt := rfl
@[simp] theorem modEq_therm (s : State) (sd : Side) (p : Pos) (f : LaneEq → LaneEq) : (modEq s sd p f).therm = s.therm := rfl
@[simp] theorem modEq_evt (s : State) (sd : Side) (p : Pos) (f : LaneEq → LaneEq) : (modEq s sd p f).evt = s.evt := rfl
@[simp] theorem modEq_heel (s : State) (sd : Side) (p : Pos) (f : LaneEq → LaneEq) : (modEq s sd p f).heel = s.heel := rfl
@[simp] theorem modEq_links (s : State) (sd : Side) (p : Pos) (f : LaneEq → LaneEq) : (modEq s sd p f).links = s.links := rfl
@[simp] theorem modEq_last (s : State) (sd : Side) (p : Pos) (f : LaneEq → LaneEq) : (modEq s sd p f).last = s.last := rfl
@[simp] theorem modEq_store (s : State) (sd : Side) (p : Pos) (f : LaneEq → LaneEq) : (modEq s sd p f).store = s.store := rfl
@[simp] theorem modEq_win (s : State) (sd : Side) (p : Pos) (f : LaneEq → LaneEq) : (modEq s sd p f).win = s.win := rfl
@[simp] theorem modEq_twb (s : State) (sd : Side) (p : Pos) (f : LaneEq → LaneEq) : (modEq s sd p f).twb = s.twb := rfl
@[simp] theorem modEq_imc (s : State) (sd : Side) (p : Pos) (f : LaneEq → LaneEq) : (modEq s sd p f).imc = s.imc := rfl
@[simp] theorem modEq_jtag (s : State) (sd : Side) (p : Pos) (f : LaneEq → LaneEq) : (modEq s sd p f).jtag = s.jtag := rfl
@[simp] theorem modEq_acc (s : State) (sd : Side) (p : Pos) (f : LaneEq → LaneEq) : (modEq s sd p f).acc = s.acc := rfl
@[simp] theorem modEq_wqs (s : State) (sd : Side) (p : Pos) (f : LaneEq → LaneEq) : (modEq s sd p f).wqs = s.wqs := rfl
@[simp] theorem modEq_cqs (s : State) (sd : Side) (p : Pos) (f : LaneEq → LaneEq) : (modEq s sd p f).cqs = s.cqs := rfl
@[simp] theorem modEq_units (s : State) (sd : Side) (p : Pos) (f : LaneEq → LaneEq) : (modEq s sd p f).units = s.units := rfl
@[simp] theorem modEq_slots (s : State) (sd : Side) (p : Pos) (f : LaneEq → LaneEq) : (modEq s sd p f).slots = s.slots := rfl
@[simp] theorem modEq_sched (s : State) (sd : Side) (p : Pos) (f : LaneEq → LaneEq) : (modEq s sd p f).sched = s.sched := rfl
@[simp] theorem modEq_awl (s : State) (sd : Side) (p : Pos) (f : LaneEq → LaneEq) : (modEq s sd p f).awl = s.awl := rfl
@[simp] theorem modEq_nvm (s : State) (sd : Side) (p : Pos) (f : LaneEq → LaneEq) : (modEq s sd p f).nvm = s.nvm := rfl
@[simp] theorem modEq_tm (s : State) (sd : Side) (p : Pos) (f : LaneEq → LaneEq) : (modEq s sd p f).tm = s.tm := rfl
@[simp] theorem modEq_time (s : State) (sd : Side) (p : Pos) (f : LaneEq → LaneEq) : (modEq s sd p f).time = s.time := rfl
@[simp] theorem modEq_cal (s : State) (sd : Side) (p : Pos) (f : LaneEq → LaneEq) : (modEq s sd p f).cal = s.cal := rfl
@[simp] theorem modEq_free (s : State) (sd : Side) (p : Pos) (f : LaneEq → LaneEq) : (modEq s sd p f).free = s.free := rfl
@[simp] theorem modEq_pending (s : State) (sd : Side) (p : Pos) (f : LaneEq → LaneEq) : (modEq s sd p f).pending = s.pending := rfl

@[simp] theorem modMeas_pins (s : State) (sd : Side) (p : Pos) (f : LaneMeas → LaneMeas) : (modMeas s sd p f).pins = s.pins := rfl
@[simp] theorem modMeas_power (s : State) (sd : Side) (p : Pos) (f : LaneMeas → LaneMeas) : (modMeas s sd p f).power = s.power := rfl
@[simp] theorem modMeas_boot (s : State) (sd : Side) (p : Pos) (f : LaneMeas → LaneMeas) : (modMeas s sd p f).boot = s.boot := rfl
@[simp] theorem modMeas_dev (s : State) (sd : Side) (p : Pos) (f : LaneMeas → LaneMeas) : (modMeas s sd p f).dev = s.dev := rfl
@[simp] theorem modMeas_welt (s : State) (sd : Side) (p : Pos) (f : LaneMeas → LaneMeas) : (modMeas s sd p f).welt = s.welt := rfl
@[simp] theorem modMeas_therm (s : State) (sd : Side) (p : Pos) (f : LaneMeas → LaneMeas) : (modMeas s sd p f).therm = s.therm := rfl
@[simp] theorem modMeas_evt (s : State) (sd : Side) (p : Pos) (f : LaneMeas → LaneMeas) : (modMeas s sd p f).evt = s.evt := rfl
@[simp] theorem modMeas_heel (s : State) (sd : Side) (p : Pos) (f : LaneMeas → LaneMeas) : (modMeas s sd p f).heel = s.heel := rfl
@[simp] theorem modMeas_links (s : State) (sd : Side) (p : Pos) (f : LaneMeas → LaneMeas) : (modMeas s sd p f).links = s.links := rfl
@[simp] theorem modMeas_last (s : State) (sd : Side) (p : Pos) (f : LaneMeas → LaneMeas) : (modMeas s sd p f).last = s.last := rfl
@[simp] theorem modMeas_store (s : State) (sd : Side) (p : Pos) (f : LaneMeas → LaneMeas) : (modMeas s sd p f).store = s.store := rfl
@[simp] theorem modMeas_win (s : State) (sd : Side) (p : Pos) (f : LaneMeas → LaneMeas) : (modMeas s sd p f).win = s.win := rfl
@[simp] theorem modMeas_twb (s : State) (sd : Side) (p : Pos) (f : LaneMeas → LaneMeas) : (modMeas s sd p f).twb = s.twb := rfl
@[simp] theorem modMeas_imc (s : State) (sd : Side) (p : Pos) (f : LaneMeas → LaneMeas) : (modMeas s sd p f).imc = s.imc := rfl
@[simp] theorem modMeas_jtag (s : State) (sd : Side) (p : Pos) (f : LaneMeas → LaneMeas) : (modMeas s sd p f).jtag = s.jtag := rfl
@[simp] theorem modMeas_acc (s : State) (sd : Side) (p : Pos) (f : LaneMeas → LaneMeas) : (modMeas s sd p f).acc = s.acc := rfl
@[simp] theorem modMeas_wqs (s : State) (sd : Side) (p : Pos) (f : LaneMeas → LaneMeas) : (modMeas s sd p f).wqs = s.wqs := rfl
@[simp] theorem modMeas_cqs (s : State) (sd : Side) (p : Pos) (f : LaneMeas → LaneMeas) : (modMeas s sd p f).cqs = s.cqs := rfl
@[simp] theorem modMeas_units (s : State) (sd : Side) (p : Pos) (f : LaneMeas → LaneMeas) : (modMeas s sd p f).units = s.units := rfl
@[simp] theorem modMeas_slots (s : State) (sd : Side) (p : Pos) (f : LaneMeas → LaneMeas) : (modMeas s sd p f).slots = s.slots := rfl
@[simp] theorem modMeas_sched (s : State) (sd : Side) (p : Pos) (f : LaneMeas → LaneMeas) : (modMeas s sd p f).sched = s.sched := rfl
@[simp] theorem modMeas_awl (s : State) (sd : Side) (p : Pos) (f : LaneMeas → LaneMeas) : (modMeas s sd p f).awl = s.awl := rfl
@[simp] theorem modMeas_nvm (s : State) (sd : Side) (p : Pos) (f : LaneMeas → LaneMeas) : (modMeas s sd p f).nvm = s.nvm := rfl
@[simp] theorem modMeas_tm (s : State) (sd : Side) (p : Pos) (f : LaneMeas → LaneMeas) : (modMeas s sd p f).tm = s.tm := rfl
@[simp] theorem modMeas_time (s : State) (sd : Side) (p : Pos) (f : LaneMeas → LaneMeas) : (modMeas s sd p f).time = s.time := rfl
@[simp] theorem modMeas_cal (s : State) (sd : Side) (p : Pos) (f : LaneMeas → LaneMeas) : (modMeas s sd p f).cal = s.cal := rfl
@[simp] theorem modMeas_free (s : State) (sd : Side) (p : Pos) (f : LaneMeas → LaneMeas) : (modMeas s sd p f).free = s.free := rfl
@[simp] theorem modMeas_pending (s : State) (sd : Side) (p : Pos) (f : LaneMeas → LaneMeas) : (modMeas s sd p f).pending = s.pending := rfl

@[simp] theorem modSnap_pins (s : State) (sd : Side) (p : Pos) (f : LaneSnap → LaneSnap) : (modSnap s sd p f).pins = s.pins := rfl
@[simp] theorem modSnap_power (s : State) (sd : Side) (p : Pos) (f : LaneSnap → LaneSnap) : (modSnap s sd p f).power = s.power := rfl
@[simp] theorem modSnap_boot (s : State) (sd : Side) (p : Pos) (f : LaneSnap → LaneSnap) : (modSnap s sd p f).boot = s.boot := rfl
@[simp] theorem modSnap_dev (s : State) (sd : Side) (p : Pos) (f : LaneSnap → LaneSnap) : (modSnap s sd p f).dev = s.dev := rfl
@[simp] theorem modSnap_welt (s : State) (sd : Side) (p : Pos) (f : LaneSnap → LaneSnap) : (modSnap s sd p f).welt = s.welt := rfl
@[simp] theorem modSnap_therm (s : State) (sd : Side) (p : Pos) (f : LaneSnap → LaneSnap) : (modSnap s sd p f).therm = s.therm := rfl
@[simp] theorem modSnap_evt (s : State) (sd : Side) (p : Pos) (f : LaneSnap → LaneSnap) : (modSnap s sd p f).evt = s.evt := rfl
@[simp] theorem modSnap_heel (s : State) (sd : Side) (p : Pos) (f : LaneSnap → LaneSnap) : (modSnap s sd p f).heel = s.heel := rfl
@[simp] theorem modSnap_links (s : State) (sd : Side) (p : Pos) (f : LaneSnap → LaneSnap) : (modSnap s sd p f).links = s.links := rfl
@[simp] theorem modSnap_last (s : State) (sd : Side) (p : Pos) (f : LaneSnap → LaneSnap) : (modSnap s sd p f).last = s.last := rfl
@[simp] theorem modSnap_store (s : State) (sd : Side) (p : Pos) (f : LaneSnap → LaneSnap) : (modSnap s sd p f).store = s.store := rfl
@[simp] theorem modSnap_win (s : State) (sd : Side) (p : Pos) (f : LaneSnap → LaneSnap) : (modSnap s sd p f).win = s.win := rfl
@[simp] theorem modSnap_twb (s : State) (sd : Side) (p : Pos) (f : LaneSnap → LaneSnap) : (modSnap s sd p f).twb = s.twb := rfl
@[simp] theorem modSnap_imc (s : State) (sd : Side) (p : Pos) (f : LaneSnap → LaneSnap) : (modSnap s sd p f).imc = s.imc := rfl
@[simp] theorem modSnap_jtag (s : State) (sd : Side) (p : Pos) (f : LaneSnap → LaneSnap) : (modSnap s sd p f).jtag = s.jtag := rfl
@[simp] theorem modSnap_acc (s : State) (sd : Side) (p : Pos) (f : LaneSnap → LaneSnap) : (modSnap s sd p f).acc = s.acc := rfl
@[simp] theorem modSnap_wqs (s : State) (sd : Side) (p : Pos) (f : LaneSnap → LaneSnap) : (modSnap s sd p f).wqs = s.wqs := rfl
@[simp] theorem modSnap_cqs (s : State) (sd : Side) (p : Pos) (f : LaneSnap → LaneSnap) : (modSnap s sd p f).cqs = s.cqs := rfl
@[simp] theorem modSnap_units (s : State) (sd : Side) (p : Pos) (f : LaneSnap → LaneSnap) : (modSnap s sd p f).units = s.units := rfl
@[simp] theorem modSnap_slots (s : State) (sd : Side) (p : Pos) (f : LaneSnap → LaneSnap) : (modSnap s sd p f).slots = s.slots := rfl
@[simp] theorem modSnap_sched (s : State) (sd : Side) (p : Pos) (f : LaneSnap → LaneSnap) : (modSnap s sd p f).sched = s.sched := rfl
@[simp] theorem modSnap_awl (s : State) (sd : Side) (p : Pos) (f : LaneSnap → LaneSnap) : (modSnap s sd p f).awl = s.awl := rfl
@[simp] theorem modSnap_nvm (s : State) (sd : Side) (p : Pos) (f : LaneSnap → LaneSnap) : (modSnap s sd p f).nvm = s.nvm := rfl
@[simp] theorem modSnap_tm (s : State) (sd : Side) (p : Pos) (f : LaneSnap → LaneSnap) : (modSnap s sd p f).tm = s.tm := rfl
@[simp] theorem modSnap_time (s : State) (sd : Side) (p : Pos) (f : LaneSnap → LaneSnap) : (modSnap s sd p f).time = s.time := rfl
@[simp] theorem modSnap_cal (s : State) (sd : Side) (p : Pos) (f : LaneSnap → LaneSnap) : (modSnap s sd p f).cal = s.cal := rfl
@[simp] theorem modSnap_free (s : State) (sd : Side) (p : Pos) (f : LaneSnap → LaneSnap) : (modSnap s sd p f).free = s.free := rfl
@[simp] theorem modSnap_pending (s : State) (sd : Side) (p : Pos) (f : LaneSnap → LaneSnap) : (modSnap s sd p f).pending = s.pending := rfl

@[simp] theorem modCal_pins (s : State) (sd : Side) (p : Pos) (f : LaneCal → LaneCal) : (modCal s sd p f).pins = s.pins := rfl
@[simp] theorem modCal_power (s : State) (sd : Side) (p : Pos) (f : LaneCal → LaneCal) : (modCal s sd p f).power = s.power := rfl
@[simp] theorem modCal_boot (s : State) (sd : Side) (p : Pos) (f : LaneCal → LaneCal) : (modCal s sd p f).boot = s.boot := rfl
@[simp] theorem modCal_dev (s : State) (sd : Side) (p : Pos) (f : LaneCal → LaneCal) : (modCal s sd p f).dev = s.dev := rfl
@[simp] theorem modCal_welt (s : State) (sd : Side) (p : Pos) (f : LaneCal → LaneCal) : (modCal s sd p f).welt = s.welt := rfl
@[simp] theorem modCal_therm (s : State) (sd : Side) (p : Pos) (f : LaneCal → LaneCal) : (modCal s sd p f).therm = s.therm := rfl
@[simp] theorem modCal_evt (s : State) (sd : Side) (p : Pos) (f : LaneCal → LaneCal) : (modCal s sd p f).evt = s.evt := rfl
@[simp] theorem modCal_heel (s : State) (sd : Side) (p : Pos) (f : LaneCal → LaneCal) : (modCal s sd p f).heel = s.heel := rfl
@[simp] theorem modCal_links (s : State) (sd : Side) (p : Pos) (f : LaneCal → LaneCal) : (modCal s sd p f).links = s.links := rfl
@[simp] theorem modCal_last (s : State) (sd : Side) (p : Pos) (f : LaneCal → LaneCal) : (modCal s sd p f).last = s.last := rfl
@[simp] theorem modCal_store (s : State) (sd : Side) (p : Pos) (f : LaneCal → LaneCal) : (modCal s sd p f).store = s.store := rfl
@[simp] theorem modCal_win (s : State) (sd : Side) (p : Pos) (f : LaneCal → LaneCal) : (modCal s sd p f).win = s.win := rfl
@[simp] theorem modCal_twb (s : State) (sd : Side) (p : Pos) (f : LaneCal → LaneCal) : (modCal s sd p f).twb = s.twb := rfl
@[simp] theorem modCal_imc (s : State) (sd : Side) (p : Pos) (f : LaneCal → LaneCal) : (modCal s sd p f).imc = s.imc := rfl
@[simp] theorem modCal_jtag (s : State) (sd : Side) (p : Pos) (f : LaneCal → LaneCal) : (modCal s sd p f).jtag = s.jtag := rfl
@[simp] theorem modCal_acc (s : State) (sd : Side) (p : Pos) (f : LaneCal → LaneCal) : (modCal s sd p f).acc = s.acc := rfl
@[simp] theorem modCal_wqs (s : State) (sd : Side) (p : Pos) (f : LaneCal → LaneCal) : (modCal s sd p f).wqs = s.wqs := rfl
@[simp] theorem modCal_cqs (s : State) (sd : Side) (p : Pos) (f : LaneCal → LaneCal) : (modCal s sd p f).cqs = s.cqs := rfl
@[simp] theorem modCal_units (s : State) (sd : Side) (p : Pos) (f : LaneCal → LaneCal) : (modCal s sd p f).units = s.units := rfl
@[simp] theorem modCal_slots (s : State) (sd : Side) (p : Pos) (f : LaneCal → LaneCal) : (modCal s sd p f).slots = s.slots := rfl
@[simp] theorem modCal_sched (s : State) (sd : Side) (p : Pos) (f : LaneCal → LaneCal) : (modCal s sd p f).sched = s.sched := rfl
@[simp] theorem modCal_awl (s : State) (sd : Side) (p : Pos) (f : LaneCal → LaneCal) : (modCal s sd p f).awl = s.awl := rfl
@[simp] theorem modCal_nvm (s : State) (sd : Side) (p : Pos) (f : LaneCal → LaneCal) : (modCal s sd p f).nvm = s.nvm := rfl
@[simp] theorem modCal_tm (s : State) (sd : Side) (p : Pos) (f : LaneCal → LaneCal) : (modCal s sd p f).tm = s.tm := rfl
@[simp] theorem modCal_time (s : State) (sd : Side) (p : Pos) (f : LaneCal → LaneCal) : (modCal s sd p f).time = s.time := rfl
@[simp] theorem modCal_cal (s : State) (sd : Side) (p : Pos) (f : LaneCal → LaneCal) : (modCal s sd p f).cal = s.cal := rfl
@[simp] theorem modCal_free (s : State) (sd : Side) (p : Pos) (f : LaneCal → LaneCal) : (modCal s sd p f).free = s.free := rfl
@[simp] theorem modCal_pending (s : State) (sd : Side) (p : Pos) (f : LaneCal → LaneCal) : (modCal s sd p f).pending = s.pending := rfl

@[simp] theorem modLink_pins (s : State) (l : LinkNo) (f : Link → Link) : (modLink s l f).pins = s.pins := rfl
@[simp] theorem modLink_power (s : State) (l : LinkNo) (f : Link → Link) : (modLink s l f).power = s.power := rfl
@[simp] theorem modLink_boot (s : State) (l : LinkNo) (f : Link → Link) : (modLink s l f).boot = s.boot := rfl
@[simp] theorem modLink_dev (s : State) (l : LinkNo) (f : Link → Link) : (modLink s l f).dev = s.dev := rfl
@[simp] theorem modLink_welt (s : State) (l : LinkNo) (f : Link → Link) : (modLink s l f).welt = s.welt := rfl
@[simp] theorem modLink_therm (s : State) (l : LinkNo) (f : Link → Link) : (modLink s l f).therm = s.therm := rfl
@[simp] theorem modLink_evt (s : State) (l : LinkNo) (f : Link → Link) : (modLink s l f).evt = s.evt := rfl
@[simp] theorem modLink_heel (s : State) (l : LinkNo) (f : Link → Link) : (modLink s l f).heel = s.heel := rfl
@[simp] theorem modLink_lanes (s : State) (l : LinkNo) (f : Link → Link) : (modLink s l f).lanes = s.lanes := rfl
@[simp] theorem modLink_last (s : State) (l : LinkNo) (f : Link → Link) : (modLink s l f).last = s.last := rfl
@[simp] theorem modLink_store (s : State) (l : LinkNo) (f : Link → Link) : (modLink s l f).store = s.store := rfl
@[simp] theorem modLink_win (s : State) (l : LinkNo) (f : Link → Link) : (modLink s l f).win = s.win := rfl
@[simp] theorem modLink_twb (s : State) (l : LinkNo) (f : Link → Link) : (modLink s l f).twb = s.twb := rfl
@[simp] theorem modLink_imc (s : State) (l : LinkNo) (f : Link → Link) : (modLink s l f).imc = s.imc := rfl
@[simp] theorem modLink_jtag (s : State) (l : LinkNo) (f : Link → Link) : (modLink s l f).jtag = s.jtag := rfl
@[simp] theorem modLink_acc (s : State) (l : LinkNo) (f : Link → Link) : (modLink s l f).acc = s.acc := rfl
@[simp] theorem modLink_wqs (s : State) (l : LinkNo) (f : Link → Link) : (modLink s l f).wqs = s.wqs := rfl
@[simp] theorem modLink_cqs (s : State) (l : LinkNo) (f : Link → Link) : (modLink s l f).cqs = s.cqs := rfl
@[simp] theorem modLink_units (s : State) (l : LinkNo) (f : Link → Link) : (modLink s l f).units = s.units := rfl
@[simp] theorem modLink_slots (s : State) (l : LinkNo) (f : Link → Link) : (modLink s l f).slots = s.slots := rfl
@[simp] theorem modLink_sched (s : State) (l : LinkNo) (f : Link → Link) : (modLink s l f).sched = s.sched := rfl
@[simp] theorem modLink_awl (s : State) (l : LinkNo) (f : Link → Link) : (modLink s l f).awl = s.awl := rfl
@[simp] theorem modLink_nvm (s : State) (l : LinkNo) (f : Link → Link) : (modLink s l f).nvm = s.nvm := rfl
@[simp] theorem modLink_tm (s : State) (l : LinkNo) (f : Link → Link) : (modLink s l f).tm = s.tm := rfl
@[simp] theorem modLink_time (s : State) (l : LinkNo) (f : Link → Link) : (modLink s l f).time = s.time := rfl
@[simp] theorem modLink_cal (s : State) (l : LinkNo) (f : Link → Link) : (modLink s l f).cal = s.cal := rfl
@[simp] theorem modLink_free (s : State) (l : LinkNo) (f : Link → Link) : (modLink s l f).free = s.free := rfl
@[simp] theorem modLink_pending (s : State) (l : LinkNo) (f : Link → Link) : (modLink s l f).pending = s.pending := rfl

@[simp] theorem setUnit_pins (s : State) (u : UnitId) (j : Option Job) : (setUnit s u j).pins = s.pins := rfl
@[simp] theorem setUnit_power (s : State) (u : UnitId) (j : Option Job) : (setUnit s u j).power = s.power := rfl
@[simp] theorem setUnit_boot (s : State) (u : UnitId) (j : Option Job) : (setUnit s u j).boot = s.boot := rfl
@[simp] theorem setUnit_dev (s : State) (u : UnitId) (j : Option Job) : (setUnit s u j).dev = s.dev := rfl
@[simp] theorem setUnit_welt (s : State) (u : UnitId) (j : Option Job) : (setUnit s u j).welt = s.welt := rfl
@[simp] theorem setUnit_therm (s : State) (u : UnitId) (j : Option Job) : (setUnit s u j).therm = s.therm := rfl
@[simp] theorem setUnit_evt (s : State) (u : UnitId) (j : Option Job) : (setUnit s u j).evt = s.evt := rfl
@[simp] theorem setUnit_heel (s : State) (u : UnitId) (j : Option Job) : (setUnit s u j).heel = s.heel := rfl
@[simp] theorem setUnit_lanes (s : State) (u : UnitId) (j : Option Job) : (setUnit s u j).lanes = s.lanes := rfl
@[simp] theorem setUnit_links (s : State) (u : UnitId) (j : Option Job) : (setUnit s u j).links = s.links := rfl
@[simp] theorem setUnit_last (s : State) (u : UnitId) (j : Option Job) : (setUnit s u j).last = s.last := rfl
@[simp] theorem setUnit_store (s : State) (u : UnitId) (j : Option Job) : (setUnit s u j).store = s.store := rfl
@[simp] theorem setUnit_win (s : State) (u : UnitId) (j : Option Job) : (setUnit s u j).win = s.win := rfl
@[simp] theorem setUnit_twb (s : State) (u : UnitId) (j : Option Job) : (setUnit s u j).twb = s.twb := rfl
@[simp] theorem setUnit_imc (s : State) (u : UnitId) (j : Option Job) : (setUnit s u j).imc = s.imc := rfl
@[simp] theorem setUnit_jtag (s : State) (u : UnitId) (j : Option Job) : (setUnit s u j).jtag = s.jtag := rfl
@[simp] theorem setUnit_acc (s : State) (u : UnitId) (j : Option Job) : (setUnit s u j).acc = s.acc := rfl
@[simp] theorem setUnit_wqs (s : State) (u : UnitId) (j : Option Job) : (setUnit s u j).wqs = s.wqs := rfl
@[simp] theorem setUnit_cqs (s : State) (u : UnitId) (j : Option Job) : (setUnit s u j).cqs = s.cqs := rfl
@[simp] theorem setUnit_slots (s : State) (u : UnitId) (j : Option Job) : (setUnit s u j).slots = s.slots := rfl
@[simp] theorem setUnit_sched (s : State) (u : UnitId) (j : Option Job) : (setUnit s u j).sched = s.sched := rfl
@[simp] theorem setUnit_awl (s : State) (u : UnitId) (j : Option Job) : (setUnit s u j).awl = s.awl := rfl
@[simp] theorem setUnit_nvm (s : State) (u : UnitId) (j : Option Job) : (setUnit s u j).nvm = s.nvm := rfl
@[simp] theorem setUnit_tm (s : State) (u : UnitId) (j : Option Job) : (setUnit s u j).tm = s.tm := rfl
@[simp] theorem setUnit_time (s : State) (u : UnitId) (j : Option Job) : (setUnit s u j).time = s.time := rfl
@[simp] theorem setUnit_cal (s : State) (u : UnitId) (j : Option Job) : (setUnit s u j).cal = s.cal := rfl
@[simp] theorem setUnit_free (s : State) (u : UnitId) (j : Option Job) : (setUnit s u j).free = s.free := rfl
@[simp] theorem setUnit_pending (s : State) (u : UnitId) (j : Option Job) : (setUnit s u j).pending = s.pending := rfl

@[simp] theorem modWq_pins (s : State) (q : WqNo) (f : Wq → Wq) : (modWq s q f).pins = s.pins := rfl
@[simp] theorem modWq_power (s : State) (q : WqNo) (f : Wq → Wq) : (modWq s q f).power = s.power := rfl
@[simp] theorem modWq_boot (s : State) (q : WqNo) (f : Wq → Wq) : (modWq s q f).boot = s.boot := rfl
@[simp] theorem modWq_dev (s : State) (q : WqNo) (f : Wq → Wq) : (modWq s q f).dev = s.dev := rfl
@[simp] theorem modWq_welt (s : State) (q : WqNo) (f : Wq → Wq) : (modWq s q f).welt = s.welt := rfl
@[simp] theorem modWq_therm (s : State) (q : WqNo) (f : Wq → Wq) : (modWq s q f).therm = s.therm := rfl
@[simp] theorem modWq_evt (s : State) (q : WqNo) (f : Wq → Wq) : (modWq s q f).evt = s.evt := rfl
@[simp] theorem modWq_heel (s : State) (q : WqNo) (f : Wq → Wq) : (modWq s q f).heel = s.heel := rfl
@[simp] theorem modWq_lanes (s : State) (q : WqNo) (f : Wq → Wq) : (modWq s q f).lanes = s.lanes := rfl
@[simp] theorem modWq_links (s : State) (q : WqNo) (f : Wq → Wq) : (modWq s q f).links = s.links := rfl
@[simp] theorem modWq_last (s : State) (q : WqNo) (f : Wq → Wq) : (modWq s q f).last = s.last := rfl
@[simp] theorem modWq_store (s : State) (q : WqNo) (f : Wq → Wq) : (modWq s q f).store = s.store := rfl
@[simp] theorem modWq_win (s : State) (q : WqNo) (f : Wq → Wq) : (modWq s q f).win = s.win := rfl
@[simp] theorem modWq_twb (s : State) (q : WqNo) (f : Wq → Wq) : (modWq s q f).twb = s.twb := rfl
@[simp] theorem modWq_imc (s : State) (q : WqNo) (f : Wq → Wq) : (modWq s q f).imc = s.imc := rfl
@[simp] theorem modWq_jtag (s : State) (q : WqNo) (f : Wq → Wq) : (modWq s q f).jtag = s.jtag := rfl
@[simp] theorem modWq_acc (s : State) (q : WqNo) (f : Wq → Wq) : (modWq s q f).acc = s.acc := rfl
@[simp] theorem modWq_cqs (s : State) (q : WqNo) (f : Wq → Wq) : (modWq s q f).cqs = s.cqs := rfl
@[simp] theorem modWq_units (s : State) (q : WqNo) (f : Wq → Wq) : (modWq s q f).units = s.units := rfl
@[simp] theorem modWq_slots (s : State) (q : WqNo) (f : Wq → Wq) : (modWq s q f).slots = s.slots := rfl
@[simp] theorem modWq_sched (s : State) (q : WqNo) (f : Wq → Wq) : (modWq s q f).sched = s.sched := rfl
@[simp] theorem modWq_awl (s : State) (q : WqNo) (f : Wq → Wq) : (modWq s q f).awl = s.awl := rfl
@[simp] theorem modWq_nvm (s : State) (q : WqNo) (f : Wq → Wq) : (modWq s q f).nvm = s.nvm := rfl
@[simp] theorem modWq_tm (s : State) (q : WqNo) (f : Wq → Wq) : (modWq s q f).tm = s.tm := rfl
@[simp] theorem modWq_time (s : State) (q : WqNo) (f : Wq → Wq) : (modWq s q f).time = s.time := rfl
@[simp] theorem modWq_cal (s : State) (q : WqNo) (f : Wq → Wq) : (modWq s q f).cal = s.cal := rfl
@[simp] theorem modWq_free (s : State) (q : WqNo) (f : Wq → Wq) : (modWq s q f).free = s.free := rfl
@[simp] theorem modWq_pending (s : State) (q : WqNo) (f : Wq → Wq) : (modWq s q f).pending = s.pending := rfl

@[simp] theorem modCq_pins (s : State) (q : CqNo) (f : Cq → Cq) : (modCq s q f).pins = s.pins := rfl
@[simp] theorem modCq_power (s : State) (q : CqNo) (f : Cq → Cq) : (modCq s q f).power = s.power := rfl
@[simp] theorem modCq_boot (s : State) (q : CqNo) (f : Cq → Cq) : (modCq s q f).boot = s.boot := rfl
@[simp] theorem modCq_dev (s : State) (q : CqNo) (f : Cq → Cq) : (modCq s q f).dev = s.dev := rfl
@[simp] theorem modCq_welt (s : State) (q : CqNo) (f : Cq → Cq) : (modCq s q f).welt = s.welt := rfl
@[simp] theorem modCq_therm (s : State) (q : CqNo) (f : Cq → Cq) : (modCq s q f).therm = s.therm := rfl
@[simp] theorem modCq_evt (s : State) (q : CqNo) (f : Cq → Cq) : (modCq s q f).evt = s.evt := rfl
@[simp] theorem modCq_heel (s : State) (q : CqNo) (f : Cq → Cq) : (modCq s q f).heel = s.heel := rfl
@[simp] theorem modCq_lanes (s : State) (q : CqNo) (f : Cq → Cq) : (modCq s q f).lanes = s.lanes := rfl
@[simp] theorem modCq_links (s : State) (q : CqNo) (f : Cq → Cq) : (modCq s q f).links = s.links := rfl
@[simp] theorem modCq_last (s : State) (q : CqNo) (f : Cq → Cq) : (modCq s q f).last = s.last := rfl
@[simp] theorem modCq_store (s : State) (q : CqNo) (f : Cq → Cq) : (modCq s q f).store = s.store := rfl
@[simp] theorem modCq_win (s : State) (q : CqNo) (f : Cq → Cq) : (modCq s q f).win = s.win := rfl
@[simp] theorem modCq_twb (s : State) (q : CqNo) (f : Cq → Cq) : (modCq s q f).twb = s.twb := rfl
@[simp] theorem modCq_imc (s : State) (q : CqNo) (f : Cq → Cq) : (modCq s q f).imc = s.imc := rfl
@[simp] theorem modCq_jtag (s : State) (q : CqNo) (f : Cq → Cq) : (modCq s q f).jtag = s.jtag := rfl
@[simp] theorem modCq_acc (s : State) (q : CqNo) (f : Cq → Cq) : (modCq s q f).acc = s.acc := rfl
@[simp] theorem modCq_wqs (s : State) (q : CqNo) (f : Cq → Cq) : (modCq s q f).wqs = s.wqs := rfl
@[simp] theorem modCq_units (s : State) (q : CqNo) (f : Cq → Cq) : (modCq s q f).units = s.units := rfl
@[simp] theorem modCq_slots (s : State) (q : CqNo) (f : Cq → Cq) : (modCq s q f).slots = s.slots := rfl
@[simp] theorem modCq_sched (s : State) (q : CqNo) (f : Cq → Cq) : (modCq s q f).sched = s.sched := rfl
@[simp] theorem modCq_awl (s : State) (q : CqNo) (f : Cq → Cq) : (modCq s q f).awl = s.awl := rfl
@[simp] theorem modCq_nvm (s : State) (q : CqNo) (f : Cq → Cq) : (modCq s q f).nvm = s.nvm := rfl
@[simp] theorem modCq_tm (s : State) (q : CqNo) (f : Cq → Cq) : (modCq s q f).tm = s.tm := rfl
@[simp] theorem modCq_time (s : State) (q : CqNo) (f : Cq → Cq) : (modCq s q f).time = s.time := rfl
@[simp] theorem modCq_cal (s : State) (q : CqNo) (f : Cq → Cq) : (modCq s q f).cal = s.cal := rfl
@[simp] theorem modCq_free (s : State) (q : CqNo) (f : Cq → Cq) : (modCq s q f).free = s.free := rfl
@[simp] theorem modCq_pending (s : State) (q : CqNo) (f : Cq → Cq) : (modCq s q f).pending = s.pending := rfl

@[simp] theorem modWin_pins (s : State) (c : Ctx) (f : WinRegs → WinRegs) : (modWin s c f).pins = s.pins := rfl
@[simp] theorem modWin_power (s : State) (c : Ctx) (f : WinRegs → WinRegs) : (modWin s c f).power = s.power := rfl
@[simp] theorem modWin_boot (s : State) (c : Ctx) (f : WinRegs → WinRegs) : (modWin s c f).boot = s.boot := rfl
@[simp] theorem modWin_dev (s : State) (c : Ctx) (f : WinRegs → WinRegs) : (modWin s c f).dev = s.dev := rfl
@[simp] theorem modWin_welt (s : State) (c : Ctx) (f : WinRegs → WinRegs) : (modWin s c f).welt = s.welt := rfl
@[simp] theorem modWin_therm (s : State) (c : Ctx) (f : WinRegs → WinRegs) : (modWin s c f).therm = s.therm := rfl
@[simp] theorem modWin_evt (s : State) (c : Ctx) (f : WinRegs → WinRegs) : (modWin s c f).evt = s.evt := rfl
@[simp] theorem modWin_heel (s : State) (c : Ctx) (f : WinRegs → WinRegs) : (modWin s c f).heel = s.heel := rfl
@[simp] theorem modWin_lanes (s : State) (c : Ctx) (f : WinRegs → WinRegs) : (modWin s c f).lanes = s.lanes := rfl
@[simp] theorem modWin_links (s : State) (c : Ctx) (f : WinRegs → WinRegs) : (modWin s c f).links = s.links := rfl
@[simp] theorem modWin_last (s : State) (c : Ctx) (f : WinRegs → WinRegs) : (modWin s c f).last = s.last := rfl
@[simp] theorem modWin_store (s : State) (c : Ctx) (f : WinRegs → WinRegs) : (modWin s c f).store = s.store := rfl
@[simp] theorem modWin_twb (s : State) (c : Ctx) (f : WinRegs → WinRegs) : (modWin s c f).twb = s.twb := rfl
@[simp] theorem modWin_imc (s : State) (c : Ctx) (f : WinRegs → WinRegs) : (modWin s c f).imc = s.imc := rfl
@[simp] theorem modWin_jtag (s : State) (c : Ctx) (f : WinRegs → WinRegs) : (modWin s c f).jtag = s.jtag := rfl
@[simp] theorem modWin_acc (s : State) (c : Ctx) (f : WinRegs → WinRegs) : (modWin s c f).acc = s.acc := rfl
@[simp] theorem modWin_wqs (s : State) (c : Ctx) (f : WinRegs → WinRegs) : (modWin s c f).wqs = s.wqs := rfl
@[simp] theorem modWin_cqs (s : State) (c : Ctx) (f : WinRegs → WinRegs) : (modWin s c f).cqs = s.cqs := rfl
@[simp] theorem modWin_units (s : State) (c : Ctx) (f : WinRegs → WinRegs) : (modWin s c f).units = s.units := rfl
@[simp] theorem modWin_slots (s : State) (c : Ctx) (f : WinRegs → WinRegs) : (modWin s c f).slots = s.slots := rfl
@[simp] theorem modWin_sched (s : State) (c : Ctx) (f : WinRegs → WinRegs) : (modWin s c f).sched = s.sched := rfl
@[simp] theorem modWin_awl (s : State) (c : Ctx) (f : WinRegs → WinRegs) : (modWin s c f).awl = s.awl := rfl
@[simp] theorem modWin_nvm (s : State) (c : Ctx) (f : WinRegs → WinRegs) : (modWin s c f).nvm = s.nvm := rfl
@[simp] theorem modWin_tm (s : State) (c : Ctx) (f : WinRegs → WinRegs) : (modWin s c f).tm = s.tm := rfl
@[simp] theorem modWin_time (s : State) (c : Ctx) (f : WinRegs → WinRegs) : (modWin s c f).time = s.time := rfl
@[simp] theorem modWin_cal (s : State) (c : Ctx) (f : WinRegs → WinRegs) : (modWin s c f).cal = s.cal := rfl
@[simp] theorem modWin_free (s : State) (c : Ctx) (f : WinRegs → WinRegs) : (modWin s c f).free = s.free := rfl
@[simp] theorem modWin_pending (s : State) (c : Ctx) (f : WinRegs → WinRegs) : (modWin s c f).pending = s.pending := rfl

@[simp] theorem modTwb_pins (s : State) (f : TwbSt → TwbSt) : (modTwb s f).pins = s.pins := rfl
@[simp] theorem modTwb_power (s : State) (f : TwbSt → TwbSt) : (modTwb s f).power = s.power := rfl
@[simp] theorem modTwb_boot (s : State) (f : TwbSt → TwbSt) : (modTwb s f).boot = s.boot := rfl
@[simp] theorem modTwb_dev (s : State) (f : TwbSt → TwbSt) : (modTwb s f).dev = s.dev := rfl
@[simp] theorem modTwb_welt (s : State) (f : TwbSt → TwbSt) : (modTwb s f).welt = s.welt := rfl
@[simp] theorem modTwb_therm (s : State) (f : TwbSt → TwbSt) : (modTwb s f).therm = s.therm := rfl
@[simp] theorem modTwb_evt (s : State) (f : TwbSt → TwbSt) : (modTwb s f).evt = s.evt := rfl
@[simp] theorem modTwb_heel (s : State) (f : TwbSt → TwbSt) : (modTwb s f).heel = s.heel := rfl
@[simp] theorem modTwb_lanes (s : State) (f : TwbSt → TwbSt) : (modTwb s f).lanes = s.lanes := rfl
@[simp] theorem modTwb_links (s : State) (f : TwbSt → TwbSt) : (modTwb s f).links = s.links := rfl
@[simp] theorem modTwb_last (s : State) (f : TwbSt → TwbSt) : (modTwb s f).last = s.last := rfl
@[simp] theorem modTwb_store (s : State) (f : TwbSt → TwbSt) : (modTwb s f).store = s.store := rfl
@[simp] theorem modTwb_win (s : State) (f : TwbSt → TwbSt) : (modTwb s f).win = s.win := rfl
@[simp] theorem modTwb_imc (s : State) (f : TwbSt → TwbSt) : (modTwb s f).imc = s.imc := rfl
@[simp] theorem modTwb_jtag (s : State) (f : TwbSt → TwbSt) : (modTwb s f).jtag = s.jtag := rfl
@[simp] theorem modTwb_acc (s : State) (f : TwbSt → TwbSt) : (modTwb s f).acc = s.acc := rfl
@[simp] theorem modTwb_wqs (s : State) (f : TwbSt → TwbSt) : (modTwb s f).wqs = s.wqs := rfl
@[simp] theorem modTwb_cqs (s : State) (f : TwbSt → TwbSt) : (modTwb s f).cqs = s.cqs := rfl
@[simp] theorem modTwb_units (s : State) (f : TwbSt → TwbSt) : (modTwb s f).units = s.units := rfl
@[simp] theorem modTwb_slots (s : State) (f : TwbSt → TwbSt) : (modTwb s f).slots = s.slots := rfl
@[simp] theorem modTwb_sched (s : State) (f : TwbSt → TwbSt) : (modTwb s f).sched = s.sched := rfl
@[simp] theorem modTwb_awl (s : State) (f : TwbSt → TwbSt) : (modTwb s f).awl = s.awl := rfl
@[simp] theorem modTwb_nvm (s : State) (f : TwbSt → TwbSt) : (modTwb s f).nvm = s.nvm := rfl
@[simp] theorem modTwb_tm (s : State) (f : TwbSt → TwbSt) : (modTwb s f).tm = s.tm := rfl
@[simp] theorem modTwb_time (s : State) (f : TwbSt → TwbSt) : (modTwb s f).time = s.time := rfl
@[simp] theorem modTwb_cal (s : State) (f : TwbSt → TwbSt) : (modTwb s f).cal = s.cal := rfl
@[simp] theorem modTwb_free (s : State) (f : TwbSt → TwbSt) : (modTwb s f).free = s.free := rfl
@[simp] theorem modTwb_pending (s : State) (f : TwbSt → TwbSt) : (modTwb s f).pending = s.pending := rfl

@[simp] theorem modPower_pins (s : State) (f : Power → Power) : (modPower s f).pins = s.pins := rfl
@[simp] theorem modPower_boot (s : State) (f : Power → Power) : (modPower s f).boot = s.boot := rfl
@[simp] theorem modPower_dev (s : State) (f : Power → Power) : (modPower s f).dev = s.dev := rfl
@[simp] theorem modPower_welt (s : State) (f : Power → Power) : (modPower s f).welt = s.welt := rfl
@[simp] theorem modPower_therm (s : State) (f : Power → Power) : (modPower s f).therm = s.therm := rfl
@[simp] theorem modPower_evt (s : State) (f : Power → Power) : (modPower s f).evt = s.evt := rfl
@[simp] theorem modPower_heel (s : State) (f : Power → Power) : (modPower s f).heel = s.heel := rfl
@[simp] theorem modPower_lanes (s : State) (f : Power → Power) : (modPower s f).lanes = s.lanes := rfl
@[simp] theorem modPower_links (s : State) (f : Power → Power) : (modPower s f).links = s.links := rfl
@[simp] theorem modPower_last (s : State) (f : Power → Power) : (modPower s f).last = s.last := rfl
@[simp] theorem modPower_store (s : State) (f : Power → Power) : (modPower s f).store = s.store := rfl
@[simp] theorem modPower_win (s : State) (f : Power → Power) : (modPower s f).win = s.win := rfl
@[simp] theorem modPower_twb (s : State) (f : Power → Power) : (modPower s f).twb = s.twb := rfl
@[simp] theorem modPower_imc (s : State) (f : Power → Power) : (modPower s f).imc = s.imc := rfl
@[simp] theorem modPower_jtag (s : State) (f : Power → Power) : (modPower s f).jtag = s.jtag := rfl
@[simp] theorem modPower_acc (s : State) (f : Power → Power) : (modPower s f).acc = s.acc := rfl
@[simp] theorem modPower_wqs (s : State) (f : Power → Power) : (modPower s f).wqs = s.wqs := rfl
@[simp] theorem modPower_cqs (s : State) (f : Power → Power) : (modPower s f).cqs = s.cqs := rfl
@[simp] theorem modPower_units (s : State) (f : Power → Power) : (modPower s f).units = s.units := rfl
@[simp] theorem modPower_slots (s : State) (f : Power → Power) : (modPower s f).slots = s.slots := rfl
@[simp] theorem modPower_sched (s : State) (f : Power → Power) : (modPower s f).sched = s.sched := rfl
@[simp] theorem modPower_awl (s : State) (f : Power → Power) : (modPower s f).awl = s.awl := rfl
@[simp] theorem modPower_nvm (s : State) (f : Power → Power) : (modPower s f).nvm = s.nvm := rfl
@[simp] theorem modPower_tm (s : State) (f : Power → Power) : (modPower s f).tm = s.tm := rfl
@[simp] theorem modPower_time (s : State) (f : Power → Power) : (modPower s f).time = s.time := rfl
@[simp] theorem modPower_cal (s : State) (f : Power → Power) : (modPower s f).cal = s.cal := rfl
@[simp] theorem modPower_free (s : State) (f : Power → Power) : (modPower s f).free = s.free := rfl
@[simp] theorem modPower_pending (s : State) (f : Power → Power) : (modPower s f).pending = s.pending := rfl

@[simp] theorem modPins_power (s : State) (f : Pins → Pins) : (modPins s f).power = s.power := rfl
@[simp] theorem modPins_boot (s : State) (f : Pins → Pins) : (modPins s f).boot = s.boot := rfl
@[simp] theorem modPins_dev (s : State) (f : Pins → Pins) : (modPins s f).dev = s.dev := rfl
@[simp] theorem modPins_welt (s : State) (f : Pins → Pins) : (modPins s f).welt = s.welt := rfl
@[simp] theorem modPins_therm (s : State) (f : Pins → Pins) : (modPins s f).therm = s.therm := rfl
@[simp] theorem modPins_evt (s : State) (f : Pins → Pins) : (modPins s f).evt = s.evt := rfl
@[simp] theorem modPins_heel (s : State) (f : Pins → Pins) : (modPins s f).heel = s.heel := rfl
@[simp] theorem modPins_lanes (s : State) (f : Pins → Pins) : (modPins s f).lanes = s.lanes := rfl
@[simp] theorem modPins_links (s : State) (f : Pins → Pins) : (modPins s f).links = s.links := rfl
@[simp] theorem modPins_last (s : State) (f : Pins → Pins) : (modPins s f).last = s.last := rfl
@[simp] theorem modPins_store (s : State) (f : Pins → Pins) : (modPins s f).store = s.store := rfl
@[simp] theorem modPins_win (s : State) (f : Pins → Pins) : (modPins s f).win = s.win := rfl
@[simp] theorem modPins_twb (s : State) (f : Pins → Pins) : (modPins s f).twb = s.twb := rfl
@[simp] theorem modPins_imc (s : State) (f : Pins → Pins) : (modPins s f).imc = s.imc := rfl
@[simp] theorem modPins_jtag (s : State) (f : Pins → Pins) : (modPins s f).jtag = s.jtag := rfl
@[simp] theorem modPins_acc (s : State) (f : Pins → Pins) : (modPins s f).acc = s.acc := rfl
@[simp] theorem modPins_wqs (s : State) (f : Pins → Pins) : (modPins s f).wqs = s.wqs := rfl
@[simp] theorem modPins_cqs (s : State) (f : Pins → Pins) : (modPins s f).cqs = s.cqs := rfl
@[simp] theorem modPins_units (s : State) (f : Pins → Pins) : (modPins s f).units = s.units := rfl
@[simp] theorem modPins_slots (s : State) (f : Pins → Pins) : (modPins s f).slots = s.slots := rfl
@[simp] theorem modPins_sched (s : State) (f : Pins → Pins) : (modPins s f).sched = s.sched := rfl
@[simp] theorem modPins_awl (s : State) (f : Pins → Pins) : (modPins s f).awl = s.awl := rfl
@[simp] theorem modPins_nvm (s : State) (f : Pins → Pins) : (modPins s f).nvm = s.nvm := rfl
@[simp] theorem modPins_tm (s : State) (f : Pins → Pins) : (modPins s f).tm = s.tm := rfl
@[simp] theorem modPins_time (s : State) (f : Pins → Pins) : (modPins s f).time = s.time := rfl
@[simp] theorem modPins_cal (s : State) (f : Pins → Pins) : (modPins s f).cal = s.cal := rfl
@[simp] theorem modPins_free (s : State) (f : Pins → Pins) : (modPins s f).free = s.free := rfl
@[simp] theorem modPins_pending (s : State) (f : Pins → Pins) : (modPins s f).pending = s.pending := rfl

@[simp] theorem modSeqr_pins (s : State) (n : SeqNo) (f : SeqrSt → SeqrSt) : (modSeqr s n f).pins = s.pins := rfl
@[simp] theorem modSeqr_power (s : State) (n : SeqNo) (f : SeqrSt → SeqrSt) : (modSeqr s n f).power = s.power := rfl
@[simp] theorem modSeqr_boot (s : State) (n : SeqNo) (f : SeqrSt → SeqrSt) : (modSeqr s n f).boot = s.boot := rfl
@[simp] theorem modSeqr_dev (s : State) (n : SeqNo) (f : SeqrSt → SeqrSt) : (modSeqr s n f).dev = s.dev := rfl
@[simp] theorem modSeqr_welt (s : State) (n : SeqNo) (f : SeqrSt → SeqrSt) : (modSeqr s n f).welt = s.welt := rfl
@[simp] theorem modSeqr_therm (s : State) (n : SeqNo) (f : SeqrSt → SeqrSt) : (modSeqr s n f).therm = s.therm := rfl
@[simp] theorem modSeqr_evt (s : State) (n : SeqNo) (f : SeqrSt → SeqrSt) : (modSeqr s n f).evt = s.evt := rfl
@[simp] theorem modSeqr_heel (s : State) (n : SeqNo) (f : SeqrSt → SeqrSt) : (modSeqr s n f).heel = s.heel := rfl
@[simp] theorem modSeqr_lanes (s : State) (n : SeqNo) (f : SeqrSt → SeqrSt) : (modSeqr s n f).lanes = s.lanes := rfl
@[simp] theorem modSeqr_links (s : State) (n : SeqNo) (f : SeqrSt → SeqrSt) : (modSeqr s n f).links = s.links := rfl
@[simp] theorem modSeqr_last (s : State) (n : SeqNo) (f : SeqrSt → SeqrSt) : (modSeqr s n f).last = s.last := rfl
@[simp] theorem modSeqr_store (s : State) (n : SeqNo) (f : SeqrSt → SeqrSt) : (modSeqr s n f).store = s.store := rfl
@[simp] theorem modSeqr_win (s : State) (n : SeqNo) (f : SeqrSt → SeqrSt) : (modSeqr s n f).win = s.win := rfl
@[simp] theorem modSeqr_twb (s : State) (n : SeqNo) (f : SeqrSt → SeqrSt) : (modSeqr s n f).twb = s.twb := rfl
@[simp] theorem modSeqr_imc (s : State) (n : SeqNo) (f : SeqrSt → SeqrSt) : (modSeqr s n f).imc = s.imc := rfl
@[simp] theorem modSeqr_jtag (s : State) (n : SeqNo) (f : SeqrSt → SeqrSt) : (modSeqr s n f).jtag = s.jtag := rfl
@[simp] theorem modSeqr_acc (s : State) (n : SeqNo) (f : SeqrSt → SeqrSt) : (modSeqr s n f).acc = s.acc := rfl
@[simp] theorem modSeqr_wqs (s : State) (n : SeqNo) (f : SeqrSt → SeqrSt) : (modSeqr s n f).wqs = s.wqs := rfl
@[simp] theorem modSeqr_cqs (s : State) (n : SeqNo) (f : SeqrSt → SeqrSt) : (modSeqr s n f).cqs = s.cqs := rfl
@[simp] theorem modSeqr_units (s : State) (n : SeqNo) (f : SeqrSt → SeqrSt) : (modSeqr s n f).units = s.units := rfl
@[simp] theorem modSeqr_slots (s : State) (n : SeqNo) (f : SeqrSt → SeqrSt) : (modSeqr s n f).slots = s.slots := rfl
@[simp] theorem modSeqr_sched (s : State) (n : SeqNo) (f : SeqrSt → SeqrSt) : (modSeqr s n f).sched = s.sched := rfl
@[simp] theorem modSeqr_awl (s : State) (n : SeqNo) (f : SeqrSt → SeqrSt) : (modSeqr s n f).awl = s.awl := rfl
@[simp] theorem modSeqr_nvm (s : State) (n : SeqNo) (f : SeqrSt → SeqrSt) : (modSeqr s n f).nvm = s.nvm := rfl
@[simp] theorem modSeqr_time (s : State) (n : SeqNo) (f : SeqrSt → SeqrSt) : (modSeqr s n f).time = s.time := rfl
@[simp] theorem modSeqr_cal (s : State) (n : SeqNo) (f : SeqrSt → SeqrSt) : (modSeqr s n f).cal = s.cal := rfl
@[simp] theorem modSeqr_free (s : State) (n : SeqNo) (f : SeqrSt → SeqrSt) : (modSeqr s n f).free = s.free := rfl
@[simp] theorem modSeqr_pending (s : State) (n : SeqNo) (f : SeqrSt → SeqrSt) : (modSeqr s n f).pending = s.pending := rfl

@[simp] theorem modJtag_pins (s : State) (f : JtagSt → JtagSt) : (modJtag s f).pins = s.pins := rfl
@[simp] theorem modJtag_power (s : State) (f : JtagSt → JtagSt) : (modJtag s f).power = s.power := rfl
@[simp] theorem modJtag_boot (s : State) (f : JtagSt → JtagSt) : (modJtag s f).boot = s.boot := rfl
@[simp] theorem modJtag_dev (s : State) (f : JtagSt → JtagSt) : (modJtag s f).dev = s.dev := rfl
@[simp] theorem modJtag_welt (s : State) (f : JtagSt → JtagSt) : (modJtag s f).welt = s.welt := rfl
@[simp] theorem modJtag_therm (s : State) (f : JtagSt → JtagSt) : (modJtag s f).therm = s.therm := rfl
@[simp] theorem modJtag_evt (s : State) (f : JtagSt → JtagSt) : (modJtag s f).evt = s.evt := rfl
@[simp] theorem modJtag_heel (s : State) (f : JtagSt → JtagSt) : (modJtag s f).heel = s.heel := rfl
@[simp] theorem modJtag_lanes (s : State) (f : JtagSt → JtagSt) : (modJtag s f).lanes = s.lanes := rfl
@[simp] theorem modJtag_links (s : State) (f : JtagSt → JtagSt) : (modJtag s f).links = s.links := rfl
@[simp] theorem modJtag_last (s : State) (f : JtagSt → JtagSt) : (modJtag s f).last = s.last := rfl
@[simp] theorem modJtag_store (s : State) (f : JtagSt → JtagSt) : (modJtag s f).store = s.store := rfl
@[simp] theorem modJtag_win (s : State) (f : JtagSt → JtagSt) : (modJtag s f).win = s.win := rfl
@[simp] theorem modJtag_twb (s : State) (f : JtagSt → JtagSt) : (modJtag s f).twb = s.twb := rfl
@[simp] theorem modJtag_imc (s : State) (f : JtagSt → JtagSt) : (modJtag s f).imc = s.imc := rfl
@[simp] theorem modJtag_jtag (s : State) (f : JtagSt → JtagSt) : (modJtag s f).jtag = f s.jtag := rfl
@[simp] theorem modJtag_acc (s : State) (f : JtagSt → JtagSt) : (modJtag s f).acc = s.acc := rfl
@[simp] theorem modJtag_wqs (s : State) (f : JtagSt → JtagSt) : (modJtag s f).wqs = s.wqs := rfl
@[simp] theorem modJtag_cqs (s : State) (f : JtagSt → JtagSt) : (modJtag s f).cqs = s.cqs := rfl
@[simp] theorem modJtag_units (s : State) (f : JtagSt → JtagSt) : (modJtag s f).units = s.units := rfl
@[simp] theorem modJtag_slots (s : State) (f : JtagSt → JtagSt) : (modJtag s f).slots = s.slots := rfl
@[simp] theorem modJtag_sched (s : State) (f : JtagSt → JtagSt) : (modJtag s f).sched = s.sched := rfl
@[simp] theorem modJtag_awl (s : State) (f : JtagSt → JtagSt) : (modJtag s f).awl = s.awl := rfl
@[simp] theorem modJtag_nvm (s : State) (f : JtagSt → JtagSt) : (modJtag s f).nvm = s.nvm := rfl
@[simp] theorem modJtag_tm (s : State) (f : JtagSt → JtagSt) : (modJtag s f).tm = s.tm := rfl
@[simp] theorem modJtag_time (s : State) (f : JtagSt → JtagSt) : (modJtag s f).time = s.time := rfl
@[simp] theorem modJtag_cal (s : State) (f : JtagSt → JtagSt) : (modJtag s f).cal = s.cal := rfl
@[simp] theorem modJtag_free (s : State) (f : JtagSt → JtagSt) : (modJtag s f).free = s.free := rfl
@[simp] theorem modJtag_pending (s : State) (f : JtagSt → JtagSt) : (modJtag s f).pending = s.pending := rfl

@[simp] theorem modLast_pins (s : State) (f : LastSt → LastSt) : (modLast s f).pins = s.pins := rfl
@[simp] theorem modLast_power (s : State) (f : LastSt → LastSt) : (modLast s f).power = s.power := rfl
@[simp] theorem modLast_boot (s : State) (f : LastSt → LastSt) : (modLast s f).boot = s.boot := rfl
@[simp] theorem modLast_dev (s : State) (f : LastSt → LastSt) : (modLast s f).dev = s.dev := rfl
@[simp] theorem modLast_welt (s : State) (f : LastSt → LastSt) : (modLast s f).welt = s.welt := rfl
@[simp] theorem modLast_therm (s : State) (f : LastSt → LastSt) : (modLast s f).therm = s.therm := rfl
@[simp] theorem modLast_evt (s : State) (f : LastSt → LastSt) : (modLast s f).evt = s.evt := rfl
@[simp] theorem modLast_heel (s : State) (f : LastSt → LastSt) : (modLast s f).heel = s.heel := rfl
@[simp] theorem modLast_lanes (s : State) (f : LastSt → LastSt) : (modLast s f).lanes = s.lanes := rfl
@[simp] theorem modLast_links (s : State) (f : LastSt → LastSt) : (modLast s f).links = s.links := rfl
@[simp] theorem modLast_last (s : State) (f : LastSt → LastSt) : (modLast s f).last = f s.last := rfl
@[simp] theorem modLast_store (s : State) (f : LastSt → LastSt) : (modLast s f).store = s.store := rfl
@[simp] theorem modLast_win (s : State) (f : LastSt → LastSt) : (modLast s f).win = s.win := rfl
@[simp] theorem modLast_twb (s : State) (f : LastSt → LastSt) : (modLast s f).twb = s.twb := rfl
@[simp] theorem modLast_imc (s : State) (f : LastSt → LastSt) : (modLast s f).imc = s.imc := rfl
@[simp] theorem modLast_jtag (s : State) (f : LastSt → LastSt) : (modLast s f).jtag = s.jtag := rfl
@[simp] theorem modLast_acc (s : State) (f : LastSt → LastSt) : (modLast s f).acc = s.acc := rfl
@[simp] theorem modLast_wqs (s : State) (f : LastSt → LastSt) : (modLast s f).wqs = s.wqs := rfl
@[simp] theorem modLast_cqs (s : State) (f : LastSt → LastSt) : (modLast s f).cqs = s.cqs := rfl
@[simp] theorem modLast_units (s : State) (f : LastSt → LastSt) : (modLast s f).units = s.units := rfl
@[simp] theorem modLast_slots (s : State) (f : LastSt → LastSt) : (modLast s f).slots = s.slots := rfl
@[simp] theorem modLast_sched (s : State) (f : LastSt → LastSt) : (modLast s f).sched = s.sched := rfl
@[simp] theorem modLast_awl (s : State) (f : LastSt → LastSt) : (modLast s f).awl = s.awl := rfl
@[simp] theorem modLast_nvm (s : State) (f : LastSt → LastSt) : (modLast s f).nvm = s.nvm := rfl
@[simp] theorem modLast_tm (s : State) (f : LastSt → LastSt) : (modLast s f).tm = s.tm := rfl
@[simp] theorem modLast_time (s : State) (f : LastSt → LastSt) : (modLast s f).time = s.time := rfl
@[simp] theorem modLast_cal (s : State) (f : LastSt → LastSt) : (modLast s f).cal = s.cal := rfl
@[simp] theorem modLast_free (s : State) (f : LastSt → LastSt) : (modLast s f).free = s.free := rfl
@[simp] theorem modLast_pending (s : State) (f : LastSt → LastSt) : (modLast s f).pending = s.pending := rfl

@[simp] theorem modAwl_pins (s : State) (f : AwlSt → AwlSt) : (modAwl s f).pins = s.pins := rfl
@[simp] theorem modAwl_power (s : State) (f : AwlSt → AwlSt) : (modAwl s f).power = s.power := rfl
@[simp] theorem modAwl_boot (s : State) (f : AwlSt → AwlSt) : (modAwl s f).boot = s.boot := rfl
@[simp] theorem modAwl_dev (s : State) (f : AwlSt → AwlSt) : (modAwl s f).dev = s.dev := rfl
@[simp] theorem modAwl_welt (s : State) (f : AwlSt → AwlSt) : (modAwl s f).welt = s.welt := rfl
@[simp] theorem modAwl_therm (s : State) (f : AwlSt → AwlSt) : (modAwl s f).therm = s.therm := rfl
@[simp] theorem modAwl_evt (s : State) (f : AwlSt → AwlSt) : (modAwl s f).evt = s.evt := rfl
@[simp] theorem modAwl_heel (s : State) (f : AwlSt → AwlSt) : (modAwl s f).heel = s.heel := rfl
@[simp] theorem modAwl_lanes (s : State) (f : AwlSt → AwlSt) : (modAwl s f).lanes = s.lanes := rfl
@[simp] theorem modAwl_links (s : State) (f : AwlSt → AwlSt) : (modAwl s f).links = s.links := rfl
@[simp] theorem modAwl_last (s : State) (f : AwlSt → AwlSt) : (modAwl s f).last = s.last := rfl
@[simp] theorem modAwl_store (s : State) (f : AwlSt → AwlSt) : (modAwl s f).store = s.store := rfl
@[simp] theorem modAwl_win (s : State) (f : AwlSt → AwlSt) : (modAwl s f).win = s.win := rfl
@[simp] theorem modAwl_twb (s : State) (f : AwlSt → AwlSt) : (modAwl s f).twb = s.twb := rfl
@[simp] theorem modAwl_imc (s : State) (f : AwlSt → AwlSt) : (modAwl s f).imc = s.imc := rfl
@[simp] theorem modAwl_jtag (s : State) (f : AwlSt → AwlSt) : (modAwl s f).jtag = s.jtag := rfl
@[simp] theorem modAwl_acc (s : State) (f : AwlSt → AwlSt) : (modAwl s f).acc = s.acc := rfl
@[simp] theorem modAwl_wqs (s : State) (f : AwlSt → AwlSt) : (modAwl s f).wqs = s.wqs := rfl
@[simp] theorem modAwl_cqs (s : State) (f : AwlSt → AwlSt) : (modAwl s f).cqs = s.cqs := rfl
@[simp] theorem modAwl_units (s : State) (f : AwlSt → AwlSt) : (modAwl s f).units = s.units := rfl
@[simp] theorem modAwl_slots (s : State) (f : AwlSt → AwlSt) : (modAwl s f).slots = s.slots := rfl
@[simp] theorem modAwl_sched (s : State) (f : AwlSt → AwlSt) : (modAwl s f).sched = s.sched := rfl
@[simp] theorem modAwl_awl (s : State) (f : AwlSt → AwlSt) : (modAwl s f).awl = f s.awl := rfl
@[simp] theorem modAwl_nvm (s : State) (f : AwlSt → AwlSt) : (modAwl s f).nvm = s.nvm := rfl
@[simp] theorem modAwl_tm (s : State) (f : AwlSt → AwlSt) : (modAwl s f).tm = s.tm := rfl
@[simp] theorem modAwl_time (s : State) (f : AwlSt → AwlSt) : (modAwl s f).time = s.time := rfl
@[simp] theorem modAwl_cal (s : State) (f : AwlSt → AwlSt) : (modAwl s f).cal = s.cal := rfl
@[simp] theorem modAwl_free (s : State) (f : AwlSt → AwlSt) : (modAwl s f).free = s.free := rfl
@[simp] theorem modAwl_pending (s : State) (f : AwlSt → AwlSt) : (modAwl s f).pending = s.pending := rfl

@[simp] theorem modTr_pins (s : State) (l : LinkNo) (sd : Side) (f : SideTrain → SideTrain) : (modTr s l sd f).pins = s.pins := rfl
@[simp] theorem modTr_power (s : State) (l : LinkNo) (sd : Side) (f : SideTrain → SideTrain) : (modTr s l sd f).power = s.power := rfl
@[simp] theorem modTr_boot (s : State) (l : LinkNo) (sd : Side) (f : SideTrain → SideTrain) : (modTr s l sd f).boot = s.boot := rfl
@[simp] theorem modTr_dev (s : State) (l : LinkNo) (sd : Side) (f : SideTrain → SideTrain) : (modTr s l sd f).dev = s.dev := rfl
@[simp] theorem modTr_welt (s : State) (l : LinkNo) (sd : Side) (f : SideTrain → SideTrain) : (modTr s l sd f).welt = s.welt := rfl
@[simp] theorem modTr_therm (s : State) (l : LinkNo) (sd : Side) (f : SideTrain → SideTrain) : (modTr s l sd f).therm = s.therm := rfl
@[simp] theorem modTr_evt (s : State) (l : LinkNo) (sd : Side) (f : SideTrain → SideTrain) : (modTr s l sd f).evt = s.evt := rfl
@[simp] theorem modTr_heel (s : State) (l : LinkNo) (sd : Side) (f : SideTrain → SideTrain) : (modTr s l sd f).heel = s.heel := rfl
@[simp] theorem modTr_lanes (s : State) (l : LinkNo) (sd : Side) (f : SideTrain → SideTrain) : (modTr s l sd f).lanes = s.lanes := rfl
@[simp] theorem modTr_last (s : State) (l : LinkNo) (sd : Side) (f : SideTrain → SideTrain) : (modTr s l sd f).last = s.last := rfl
@[simp] theorem modTr_store (s : State) (l : LinkNo) (sd : Side) (f : SideTrain → SideTrain) : (modTr s l sd f).store = s.store := rfl
@[simp] theorem modTr_win (s : State) (l : LinkNo) (sd : Side) (f : SideTrain → SideTrain) : (modTr s l sd f).win = s.win := rfl
@[simp] theorem modTr_twb (s : State) (l : LinkNo) (sd : Side) (f : SideTrain → SideTrain) : (modTr s l sd f).twb = s.twb := rfl
@[simp] theorem modTr_imc (s : State) (l : LinkNo) (sd : Side) (f : SideTrain → SideTrain) : (modTr s l sd f).imc = s.imc := rfl
@[simp] theorem modTr_jtag (s : State) (l : LinkNo) (sd : Side) (f : SideTrain → SideTrain) : (modTr s l sd f).jtag = s.jtag := rfl
@[simp] theorem modTr_acc (s : State) (l : LinkNo) (sd : Side) (f : SideTrain → SideTrain) : (modTr s l sd f).acc = s.acc := rfl
@[simp] theorem modTr_wqs (s : State) (l : LinkNo) (sd : Side) (f : SideTrain → SideTrain) : (modTr s l sd f).wqs = s.wqs := rfl
@[simp] theorem modTr_cqs (s : State) (l : LinkNo) (sd : Side) (f : SideTrain → SideTrain) : (modTr s l sd f).cqs = s.cqs := rfl
@[simp] theorem modTr_units (s : State) (l : LinkNo) (sd : Side) (f : SideTrain → SideTrain) : (modTr s l sd f).units = s.units := rfl
@[simp] theorem modTr_slots (s : State) (l : LinkNo) (sd : Side) (f : SideTrain → SideTrain) : (modTr s l sd f).slots = s.slots := rfl
@[simp] theorem modTr_sched (s : State) (l : LinkNo) (sd : Side) (f : SideTrain → SideTrain) : (modTr s l sd f).sched = s.sched := rfl
@[simp] theorem modTr_awl (s : State) (l : LinkNo) (sd : Side) (f : SideTrain → SideTrain) : (modTr s l sd f).awl = s.awl := rfl
@[simp] theorem modTr_nvm (s : State) (l : LinkNo) (sd : Side) (f : SideTrain → SideTrain) : (modTr s l sd f).nvm = s.nvm := rfl
@[simp] theorem modTr_tm (s : State) (l : LinkNo) (sd : Side) (f : SideTrain → SideTrain) : (modTr s l sd f).tm = s.tm := rfl
@[simp] theorem modTr_time (s : State) (l : LinkNo) (sd : Side) (f : SideTrain → SideTrain) : (modTr s l sd f).time = s.time := rfl
@[simp] theorem modTr_cal (s : State) (l : LinkNo) (sd : Side) (f : SideTrain → SideTrain) : (modTr s l sd f).cal = s.cal := rfl
@[simp] theorem modTr_free (s : State) (l : LinkNo) (sd : Side) (f : SideTrain → SideTrain) : (modTr s l sd f).free = s.free := rfl
@[simp] theorem modTr_pending (s : State) (l : LinkNo) (sd : Side) (f : SideTrain → SideTrain) : (modTr s l sd f).pending = s.pending := rfl

@[simp] theorem modSeq_pins (s : State) (l : LinkNo) (sd : Side) (f : SeqSt → SeqSt) : (modSeq s l sd f).pins = s.pins := rfl
@[simp] theorem modSeq_power (s : State) (l : LinkNo) (sd : Side) (f : SeqSt → SeqSt) : (modSeq s l sd f).power = s.power := rfl
@[simp] theorem modSeq_boot (s : State) (l : LinkNo) (sd : Side) (f : SeqSt → SeqSt) : (modSeq s l sd f).boot = s.boot := rfl
@[simp] theorem modSeq_dev (s : State) (l : LinkNo) (sd : Side) (f : SeqSt → SeqSt) : (modSeq s l sd f).dev = s.dev := rfl
@[simp] theorem modSeq_welt (s : State) (l : LinkNo) (sd : Side) (f : SeqSt → SeqSt) : (modSeq s l sd f).welt = s.welt := rfl
@[simp] theorem modSeq_therm (s : State) (l : LinkNo) (sd : Side) (f : SeqSt → SeqSt) : (modSeq s l sd f).therm = s.therm := rfl
@[simp] theorem modSeq_evt (s : State) (l : LinkNo) (sd : Side) (f : SeqSt → SeqSt) : (modSeq s l sd f).evt = s.evt := rfl
@[simp] theorem modSeq_heel (s : State) (l : LinkNo) (sd : Side) (f : SeqSt → SeqSt) : (modSeq s l sd f).heel = s.heel := rfl
@[simp] theorem modSeq_lanes (s : State) (l : LinkNo) (sd : Side) (f : SeqSt → SeqSt) : (modSeq s l sd f).lanes = s.lanes := rfl
@[simp] theorem modSeq_last (s : State) (l : LinkNo) (sd : Side) (f : SeqSt → SeqSt) : (modSeq s l sd f).last = s.last := rfl
@[simp] theorem modSeq_store (s : State) (l : LinkNo) (sd : Side) (f : SeqSt → SeqSt) : (modSeq s l sd f).store = s.store := rfl
@[simp] theorem modSeq_win (s : State) (l : LinkNo) (sd : Side) (f : SeqSt → SeqSt) : (modSeq s l sd f).win = s.win := rfl
@[simp] theorem modSeq_twb (s : State) (l : LinkNo) (sd : Side) (f : SeqSt → SeqSt) : (modSeq s l sd f).twb = s.twb := rfl
@[simp] theorem modSeq_imc (s : State) (l : LinkNo) (sd : Side) (f : SeqSt → SeqSt) : (modSeq s l sd f).imc = s.imc := rfl
@[simp] theorem modSeq_jtag (s : State) (l : LinkNo) (sd : Side) (f : SeqSt → SeqSt) : (modSeq s l sd f).jtag = s.jtag := rfl
@[simp] theorem modSeq_acc (s : State) (l : LinkNo) (sd : Side) (f : SeqSt → SeqSt) : (modSeq s l sd f).acc = s.acc := rfl
@[simp] theorem modSeq_wqs (s : State) (l : LinkNo) (sd : Side) (f : SeqSt → SeqSt) : (modSeq s l sd f).wqs = s.wqs := rfl
@[simp] theorem modSeq_cqs (s : State) (l : LinkNo) (sd : Side) (f : SeqSt → SeqSt) : (modSeq s l sd f).cqs = s.cqs := rfl
@[simp] theorem modSeq_units (s : State) (l : LinkNo) (sd : Side) (f : SeqSt → SeqSt) : (modSeq s l sd f).units = s.units := rfl
@[simp] theorem modSeq_slots (s : State) (l : LinkNo) (sd : Side) (f : SeqSt → SeqSt) : (modSeq s l sd f).slots = s.slots := rfl
@[simp] theorem modSeq_sched (s : State) (l : LinkNo) (sd : Side) (f : SeqSt → SeqSt) : (modSeq s l sd f).sched = s.sched := rfl
@[simp] theorem modSeq_awl (s : State) (l : LinkNo) (sd : Side) (f : SeqSt → SeqSt) : (modSeq s l sd f).awl = s.awl := rfl
@[simp] theorem modSeq_nvm (s : State) (l : LinkNo) (sd : Side) (f : SeqSt → SeqSt) : (modSeq s l sd f).nvm = s.nvm := rfl
@[simp] theorem modSeq_tm (s : State) (l : LinkNo) (sd : Side) (f : SeqSt → SeqSt) : (modSeq s l sd f).tm = s.tm := rfl
@[simp] theorem modSeq_time (s : State) (l : LinkNo) (sd : Side) (f : SeqSt → SeqSt) : (modSeq s l sd f).time = s.time := rfl
@[simp] theorem modSeq_cal (s : State) (l : LinkNo) (sd : Side) (f : SeqSt → SeqSt) : (modSeq s l sd f).cal = s.cal := rfl
@[simp] theorem modSeq_free (s : State) (l : LinkNo) (sd : Side) (f : SeqSt → SeqSt) : (modSeq s l sd f).free = s.free := rfl
@[simp] theorem modSeq_pending (s : State) (l : LinkNo) (sd : Side) (f : SeqSt → SeqSt) : (modSeq s l sd f).pending = s.pending := rfl

end Sys2Proof.Machine
end

