-- ==== Sys2Proof/Laws/Calm.lean ====
section
/-! SUPPORT. What follows from every command alike, where no restart of the Heel is due and no suspended erase waits for
its engine: only a NOTIFY that joins the waiting MOS, and what it needs. And what an event leaves behind. -/

namespace Sys2Proof.Machine

/-- No restart of the Heel is due, and no suspended erase waits for a free engine. -/
def calm (s : State) : Prop := s.heel.restartDue = false ∧ (s.units.nvm.isNone && s.units.held.isSome) = false

theorem calm_of_settled {s : State} (h : s.settled = true) : calm s := by
  simp only [State.settled, Bool.and_eq_true, Bool.not_eq_true', beq_iff_eq] at h
  exact h.1

theorem calm_congr {s t : State} (hh : t.heel = s.heel) (hu : t.units = s.units) (h : calm s) : calm t := by
  unfold calm
  rw [hh, hu]
  exact h

theorem fin_calm {s : State} (h : calm s) : fin s = watchAttn s := by
  have hu : unholdErase s = s := by
    unfold unholdErase
    rw [h.2]
    rfl
  unfold fin
  rw [if_neg (by simp [h.1]), hu]

/-- What the commands' common end leaves as it was. -/
theorem fin_same {k : Comp} {s : State} (hk : k ∉ [Comp.free, .imc, .links]) (h : calm s) : k.same s (fin s) := by
  rw [fin_calm h]
  exact watchAttn_keeps (not_mem_of_subset hk (by decide)) (k.same_refl s)

theorem Link.sameButOut_refl (k : Link) : k.sameButOut k := rfl

theorem Link.sameButOut_trans {a b c : Link} (h : a.sameButOut b) (g : b.sameButOut c) : a.sameButOut c := by
  unfold Link.sameButOut at *
  rw [← g] at h
  exact h

theorem setOut_sameButOut (k : Link) (d : Dir) (q : List OutMos) : k.sameButOut (setOut k d q) := by cases d <;> rfl

theorem modLink_sameButOut {s x : State} {j : LinkNo} {f : Link → Link} (hf : ∀ k : Link, k.sameButOut (f k))
    (h : ∀ l, (getLink s l).sameButOut (getLink x l)) (l : LinkNo) : (getLink s l).sameButOut (getLink (modLink x j f) l) := by
  by_cases e : l = j
  · subst e
    rw [getLink_modLink]
    exact Link.sameButOut_trans (h l) (hf _)
  · rw [getLink_modLink_other _ _ _ _ e]
    exact h l

theorem sendOwn_sameButOut {s x : State} {j : LinkNo} {dst : BitVec 2} {typ : BitVec 4} {b : List Byte}
    (h : ∀ l, (getLink s l).sameButOut (getLink x l)) (l : LinkNo) :
    (getLink s l).sameButOut (getLink (sendOwn x j dst typ b) l) :=
  modLink_sameButOut (x := (freshSeq x).2) (fun k => setOut_sameButOut k _ _) h l

theorem queueNotify_sameButOut {s x : State} {sd : Side} (h : ∀ l, (getLink s l).sameButOut (getLink x l)) (l : LinkNo) :
    (getLink s l).sameButOut (getLink (queueNotify x sd) l) := by
  unfold queueNotify
  split
  · exact h l
  · dsimp only
    refine sendOwn_sameButOut ?_ l
    rename_i e
    generalize allLinks = js
    clear e l
    induction js generalizing x with
    | nil => exact h
    | cons j r ih => exact ih (modLink_sameButOut (fun k => setOut_sameButOut k _ _) h)

/-- What the commands' common end leaves of a link. -/
theorem fin_link {s : State} (h : calm s) (l : LinkNo) : (getLink s l).sameButOut (getLink (fin s) l) := by
  rw [fin_calm h]
  unfold watchAttn
  dsimp only
  split
  · exact queueNotify_sameButOut (queueNotify_sameButOut fun j => Link.sameButOut_refl _) l
  · exact Link.sameButOut_refl _

theorem emit_logWait (s : State) (code : BitVec 16) (c : Ctx) (d : BitVec 64) (data : List Byte) :
    (emit s code c d data).nvm.logWait = s.nvm.logWait ++ [⟨s.evt.seq, code, c, d, padTo 12 data⟩] := by
  unfold emit recordPut ringPut
  dsimp only
  split
  · split <;> rfl
  · rfl

theorem emitEvent_logWait (s : State) (code : BitVec 16) (c : Ctx) (data : List Byte) :
    ∃ more, (emitEvent s code c data).nvm.logWait =
      s.nvm.logWait ++ ⟨s.evt.seq, code, c, s.time.dtime, padTo 12 (data.take 12)⟩ :: more := by
  unfold emitEvent
  dsimp only
  split
  · exact ⟨_, by rw [emit_logWait, emit_logWait, List.append_assoc]; rfl⟩
  · exact ⟨[], by rw [emit_logWait]⟩

/-- Events logged one after the other only lengthen the log's queue. -/
theorem foldl_logWait {f : State → Nat → State} (hf : ∀ t pa, ∃ more, (f t pa).nvm.logWait = t.nvm.logWait ++ more)
    (l : List Nat) (s : State) : ∃ more, (l.foldl f s).nvm.logWait = s.nvm.logWait ++ more := by
  induction l generalizing s with
  | nil => exact ⟨[], (List.append_nil _).symm⟩
  | cons a r ih =>
    obtain ⟨m, e⟩ := hf s a
    obtain ⟨n, g⟩ := ih (f s a)
    exact ⟨m ++ n, by rw [List.foldl_cons, g, e, List.append_assoc]⟩

/-- The code of the last of several events of one code. -/
theorem foldl_lastCode {f : State → Nat → State} {code : BitVec 16} (hf : ∀ t pa, (f t pa).evt.lastCode = code)
    (l : List Nat) (s : State) : (l.foldl f s).evt.lastCode = if l = [] then s.evt.lastCode else code := by
  induction l generalizing s with
  | nil => rfl
  | cons a r ih =>
    rw [List.foldl_cons, ih, if_neg (List.cons_ne_nil a r)]
    split
    · exact hf s a
    · rfl

theorem logFuel_logWait (n : Nat) (s : State) (code : BitVec 16) (c : Ctx) (data : List Byte) :
    ∃ more, (logFuel n s code c data).nvm.logWait =
      s.nvm.logWait ++ ⟨s.evt.seq, code, c, s.time.dtime, padTo 12 (data.take 12)⟩ :: more := by
  induction n generalizing s code c data with
  | zero => exact emitEvent_logWait s code c data
  | succ n ih =>
    obtain ⟨m, e⟩ := emitEvent_logWait s code c data
    obtain ⟨m', e'⟩ := foldl_logWait (f := fun t pa => logFuel n t 0x0804 0 (aData 0 pa 0))
      (fun t pa => (ih t 0x0804 0 (aData 0 pa 0)).imp' _ fun _ g => g) (ringPoisoned s data) (emitEvent s code c data)
    exact ⟨_, e'.trans (by rw [e, List.append_assoc, List.cons_append])⟩

theorem logFuel_lastCode (n : Nat) (s : State) (code : BitVec 16) (c : Ctx) (data : List Byte) :
    (logFuel (n + 1) s code c data).evt.lastCode = if ringPoisoned s data = [] then code else 0x0804 := by
  have h : ∀ (m : Nat) (t : State) (d : List Byte), (logFuel m t 0x0804 0 d).evt.lastCode = 0x0804 := by
    intro m
    induction m with
    | zero => exact fun _ _ => rfl
    | succ m ih =>
      intro t d
      exact (foldl_lastCode (fun t pa => ih t _) _ _).trans (ite_id _)
  exact foldl_lastCode (fun t pa => h n t _) _ _

/-- What an event leaves in the log and in EVTSTAT. -/
theorem logEvent_logged (s : State) (code : BitVec 16) (c : Ctx) (data : List Byte) :
    logged s (logEvent s code c data) code c data :=
  ⟨logFuel_logWait _ s code c data, logFuel_lastCode _ s code c data⟩

/-- What is logged stays so where the record's makings and what it left are the same. -/
theorem logged_congr {s s' t t' : State} {code : BitVec 16} {c : Ctx} {data : List Byte} (h : logged s t code c data)
    (h1 : s'.nvm = s.nvm) (h2 : s'.evt = s.evt) (h3 : s'.time = s.time) (h4 : s'.store = s.store) (h5 : s'.dev = s.dev)
    (h6 : t'.nvm = t.nvm) (h7 : t'.evt = t.evt) : logged s' t' code c data := by
  unfold logged ringPoisoned at *
  rw [h1, h2, h3, h4, h5, h6, h7]
  exact h

/-- An event leaves every component but three as it was. -/
theorem logEvent_same {k : Comp} (s : State) (code : BitVec 16) (c : Ctx) (data : List Byte)
    (hk : k ∉ [Comp.evt, .nvm, .store]) : k.same s (logEvent s code c data) :=
  logEvent_keeps (not_mem_of_subset hk (by decide)) (k.same_refl s)

end Sys2Proof.Machine
end

