-- ==== Sys2Proof/Laws/Welt.lean ====
section
/-! SUPPORT. What every operation does to the two promises of Table 2-1: no position with a cause is commanded open, and
no transmitter of a position that is not commanded open is on. -/

namespace Sys2Proof.Machine

/-- The first promise, carried from one state to another. -/
def Caused (s t : State) : Prop := causesClose s → causesClose t

/-- The second promise, carried from one state to another. -/
def Dark (s t : State) : Prop := closedDark s → closedDark t

theorem Caused.refl (s : State) : Caused s s := id
theorem Dark.refl (s : State) : Dark s s := id

theorem devCause_congr {x y : State} (h1 : y.power.valid = x.power.valid) (h2 : y.power.pumpReady = x.power.pumpReady)
    (h3 : y.pins.bypN = x.pins.bypN) (h4 : y.boot.inReset = x.boot.inReset) (h5 : y.boot.testMode = x.boot.testMode)
    (h6 : y.dev.aside = x.dev.aside) (h7 : y.dev.standby = x.dev.standby) (h8 : y.therm.shutdown = x.therm.shutdown) :
    devCause y = devCause x := by
  unfold devCause bypLow
  rw [h1, h2, h3, h4, h5, h6, h7, h8]

theorem and_rfl {a b : Prop} (ha : a) (hb : b) : a ∧ b := ⟨ha, hb⟩

/-- What two links have in common where neither is a cause that the other is not. -/
def Link.sameJoin (j k : Link) : Prop :=
  (j.join == .joining || j.join == .joined) = (k.join == .joining || k.join == .joined) ∧ j.aside = k.aside

theorem sameJoin_of {j k : Link} (h : j.join = k.join) (g : j.aside = k.aside) : j.sameJoin k := ⟨by rw [h], g⟩

theorem posCause_congr {x y : State} (h1 : y.last.working = x.last.working)
    (h2 : ∀ l, (getLink y l).sameJoin (getLink x l)) (p : Pos) : posCause y p = posCause x p := by
  have e : linkCause y = linkCause x := by
    funext l
    unfold linkCause recIs linkRec
    dsimp only
    rw [h1, (h2 l).1, (h2 l).2]
  unfold posCause
  rw [h1, e]

theorem Caused.of_same {s x y : State} (h1 : y.power.valid = x.power.valid) (h2 : y.power.pumpReady = x.power.pumpReady)
    (h3 : y.pins.bypN = x.pins.bypN) (h4 : y.boot.inReset = x.boot.inReset) (h5 : y.boot.testMode = x.boot.testMode)
    (h6 : y.dev.aside = x.dev.aside) (h7 : y.dev.standby = x.dev.standby) (h8 : y.therm.shutdown = x.therm.shutdown)
    (h9 : y.last.working = x.last.working) (h10 : ∀ l, (getLink y l).sameJoin (getLink x l))
    (h11 : y.welt.cmdOpen = x.welt.cmdOpen) (h : Caused s x) : Caused s y := by
  intro hs p hp
  rw [devCause_congr h1 h2 h3 h4 h5 h6 h7 h8, posCause_congr h9 h10] at hp
  rw [h11]
  exact h hs p hp

/-- Where no cause is new, the first promise stays. -/
theorem Caused.of_less {s x y : State} (h1 : devCause y = true → devCause x = true)
    (h2 : ∀ p, posCause y p = true → posCause x p = true) (h3 : y.welt.cmdOpen = x.welt.cmdOpen) (h : Caused s x) :
    Caused s y := by
  intro hs p hp
  rw [h3]
  refine h hs p ?_
  rw [Bool.or_eq_true] at hp ⊢
  exact hp.imp h1 (h2 p)

/-- Under a device-wide cause that stays, every position is commanded closed already. -/
theorem Caused.of_dev {s x y : State} (h1 : devCause x = true) (h3 : y.welt.cmdOpen = x.welt.cmdOpen) (h : Caused s x) :
    Caused s y := fun hs p _ => by rw [h3]; exact h hs p (by rw [h1]; rfl)

theorem Caused.of_keeps {s x y : State} {l : List Comp} (g : ∀ k : Comp, k ∉ l → k.same x y)
    (d : ∀ k ∈ [Comp.power, .pins, .boot, .dev, .therm, .last, .links, .welt], k ∉ l) (h : Caused s x) : Caused s y := by
  have g1 : y.power = x.power := g .power (d _ (by decide))
  have g2 : y.pins = x.pins := g .pins (d _ (by decide))
  have g3 : y.boot = x.boot := g .boot (d _ (by decide))
  have g4 : y.dev = x.dev := g .dev (d _ (by decide))
  have g5 : y.therm = x.therm := g .therm (d _ (by decide))
  have g6 : y.last = x.last := g .last (d _ (by decide))
  have g7 : y.links = x.links := g .links (d _ (by decide))
  have g8 : y.welt = x.welt := g .welt (d _ (by decide))
  refine Caused.of_same (x := x) ?_ ?_ ?_ ?_ ?_ ?_ ?_ ?_ ?_ ?_ ?_ h
  all_goals first | (rw [g1]; done) | (rw [g2]; done) | (rw [g3]; done) | (rw [g4]; done) | (rw [g5]; done) | (rw [g6]; done) | (rw [g8]; done) | skip
  intro l
  unfold getLink
  rw [g7]
  exact ⟨rfl, rfl⟩

theorem Dark.of_keeps {s x y : State} {l : List Comp} (g : ∀ k : Comp, k ∉ l → k.same x y)
    (d : ∀ k ∈ [Comp.lanes, .welt], k ∉ l) (h : Dark s x) : Dark s y := by
  have g1 : y.lanes = x.lanes := g .lanes (d _ (by decide))
  have g2 : y.welt = x.welt := g .welt (d _ (by decide))
  intro hs p hp sd
  unfold getLane
  rw [g1]
  exact h hs p (g2 ▸ hp) sd

theorem ite_caused {s a b : State} {c : Prop} {_ : Decidable c} (ha : Caused s a) (hb : Caused s b) :
    Caused s (if c then a else b) := by
  split
  · exact ha
  · exact hb

theorem ite_dark {s a b : State} {c : Prop} {_ : Decidable c} (ha : Dark s a) (hb : Dark s b) :
    Dark s (if c then a else b) := by
  split
  · exact ha
  · exact hb

theorem getD_caused {s d : State} {o : Option State} (ho : ∀ u, o = some u → Caused s u) (hd : Caused s d) :
    Caused s (o.getD d) := by
  cases o with
  | none => exact hd
  | some u => exact ho u rfl

theorem getD_dark {s d : State} {o : Option State} (ho : ∀ u, o = some u → Dark s u) (hd : Dark s d) :
    Dark s (o.getD d) := by
  cases o with
  | none => exact hd
  | some u => exact ho u rfl

theorem foldl_caused {α : Type} {s x : State} {f : State → α → State} {l : List α} (h : Caused s x)
    (hf : ∀ t a, Caused s t → Caused s (f t a)) : Caused s (l.foldl f x) := by
  induction l generalizing x with
  | nil => exact h
  | cons a r ih => exact ih (hf x a h)

theorem foldl_dark {α : Type} {s x : State} {f : State → α → State} {l : List α} (h : Dark s x)
    (hf : ∀ t a, Dark s t → Dark s (f t a)) : Dark s (l.foldl f x) := by
  induction l generalizing x with
  | nil => exact h
  | cons a r ih => exact ih (hf x a h)

/-- The state that a candidate carries keeps the promises. -/
def Candidate.caused (s : State) (c : Candidate) : Prop := ∀ i t, c = .member i t → Caused s t
def Candidate.dark (s : State) (c : Candidate) : Prop := ∀ i t, c = .member i t → Dark s t

theorem modLink_caused {s x : State} {l : LinkNo} {f : Link → Link} (hf : (f (getLink x l)).sameJoin (getLink x l))
    (h : Caused s x) : Caused s (modLink x l f) := by
  refine Caused.of_same (x := x) rfl rfl rfl rfl rfl rfl rfl rfl rfl (fun j => ?_) rfl h
  by_cases e : j = l
  · subst e
    rw [getLink_modLink]
    exact hf
  · rw [getLink_modLink_other _ _ _ _ e]
    exact ⟨rfl, rfl⟩

theorem setOut_sameJoin (k : Link) (d : Dir) (q : List OutMos) : (setOut k d q).sameJoin k := by
  cases d <;> exact ⟨rfl, rfl⟩

theorem modLane_dark {s x : State} {sd : Side} {p : Pos} {f : Lane → Lane} (hf : ∀ n : Lane, n.tx.on = false → (f n).tx.on = false)
    (h : Dark s x) : Dark s (modLane x sd p f) := by
  intro hs q hq sd'
  by_cases e : (sd', q) = (sd, p)
  · cases e
    rw [getLane_modLane]
    exact hf _ (h hs _ hq _)
  · rw [getLane_modLane_other _ _ _ _ _ _ e]
    exact h hs q hq sd'

theorem modTx_dark {s x : State} {sd : Side} {p : Pos} {f : LaneTx → LaneTx} (hf : ∀ n : LaneTx, n.on = false → (f n).on = false)
    (h : Dark s x) : Dark s (modTx x sd p f) := modLane_dark (fun n g => hf n.tx g) h

theorem modRx_dark {s x : State} {sd : Side} {p : Pos} {f} (h : Dark s x) : Dark s (modRx x sd p f) :=
  modLane_dark (fun _ g => g) h
theorem modEq_dark {s x : State} {sd : Side} {p : Pos} {f} (h : Dark s x) : Dark s (modEq x sd p f) :=
  modLane_dark (fun _ g => g) h
theorem modMeas_dark {s x : State} {sd : Side} {p : Pos} {f} (h : Dark s x) : Dark s (modMeas x sd p f) :=
  modLane_dark (fun _ g => g) h
theorem modCal_dark {s x : State} {sd : Side} {p : Pos} {f} (h : Dark s x) : Dark s (modCal x sd p f) :=
  modLane_dark (fun _ g => g) h

/-- A map over the lanes that turns no transmitter on. -/
theorem mapLanes_dark {s x : State} {f : Lane → Lane} (hf : ∀ n : Lane, n.tx.on = false → (f n).tx.on = false)
    (h : Dark s x) : Dark s (x.putLanes (x.lanes.map f)) := by
  intro hs p hp sd
  show ((x.lanes.map f)[laneIx sd p]).tx.on = false
  have e : (x.lanes.map f)[laneIx sd p] = f x.lanes[laneIx sd p] := Vector.getElem_map ..
  rw [e]
  exact hf _ (h hs p hp sd)

theorem putPins_caused {s x : State} {v : Pins} (h : Caused s x) (g : v.bypN = x.pins.bypN) : Caused s (x.putPins v) :=
  Caused.of_same (x := x) rfl rfl g rfl rfl rfl rfl rfl rfl (fun _ => ⟨rfl, rfl⟩) rfl h
theorem putPower_caused {s x : State} {v : Power} (h : Caused s x) (g : v.valid = x.power.valid ∧ v.pumpReady = x.power.pumpReady) : Caused s (x.putPower v) :=
  Caused.of_same (x := x) g.1 g.2 rfl rfl rfl rfl rfl rfl rfl (fun _ => ⟨rfl, rfl⟩) rfl h
theorem putBoot_caused {s x : State} {v : Boot} (h : Caused s x) (g : v.inReset = x.boot.inReset ∧ v.testMode = x.boot.testMode) : Caused s (x.putBoot v) :=
  Caused.of_same (x := x) rfl rfl rfl g.1 g.2 rfl rfl rfl rfl (fun _ => ⟨rfl, rfl⟩) rfl h
theorem putDev_caused {s x : State} {v : Dev} (h : Caused s x) (g : v.aside = x.dev.aside ∧ v.standby = x.dev.standby) : Caused s (x.putDev v) :=
  Caused.of_same (x := x) rfl rfl rfl rfl rfl g.1 g.2 rfl rfl (fun _ => ⟨rfl, rfl⟩) rfl h
theorem putWelt_caused {s x : State} {v : WeltSt} (h : Caused s x) (g : v.cmdOpen = x.welt.cmdOpen) : Caused s (x.putWelt v) :=
  Caused.of_same (x := x) rfl rfl rfl rfl rfl rfl rfl rfl rfl (fun _ => ⟨rfl, rfl⟩) g h
theorem putTherm_caused {s x : State} {v : Thermal} (h : Caused s x) (g : v.shutdown = x.therm.shutdown) : Caused s (x.putTherm v) :=
  Caused.of_same (x := x) rfl rfl rfl rfl rfl rfl rfl g rfl (fun _ => ⟨rfl, rfl⟩) rfl h
theorem putEvt_caused {s x : State} {v : EvtSt} (h : Caused s x) : Caused s (x.putEvt v) := h
theorem putHeel_caused {s x : State} {v : HeelSt} (h : Caused s x) : Caused s (x.putHeel v) := h
theorem putLanes_caused {s x : State} {v : Vector Lane 36} (h : Caused s x) : Caused s (x.putLanes v) := h
theorem putLast_caused {s x : State} {v : LastSt} (h : Caused s x) (g : v.working = x.last.working) : Caused s (x.putLast v) :=
  Caused.of_same (x := x) rfl rfl rfl rfl rfl rfl rfl rfl g (fun _ => ⟨rfl, rfl⟩) rfl h
theorem putStore_caused {s x : State} {v : StoreSt} (h : Caused s x) : Caused s (x.putStore v) := h
theorem putWin_caused {s x : State} {v : WinSt} (h : Caused s x) : Caused s (x.putWin v) := h
theorem putTwb_caused {s x : State} {v : TwbSt} (h : Caused s x) : Caused s (x.putTwb v) := h
theorem putImc_caused {s x : State} {v : ImcSt} (h : Caused s x) : Caused s (x.putImc v) := h
theorem putJtag_caused {s x : State} {v : JtagSt} (h : Caused s x) : Caused s (x.putJtag v) := h
theorem putAcc_caused {s x : State} {v : AccSt} (h : Caused s x) : Caused s (x.putAcc v) := h
theorem putWqs_caused {s x : State} {v : Vector Wq 32} (h : Caused s x) : Caused s (x.putWqs v) := h
theorem putCqs_caused {s x : State} {v : Vector Cq 8} (h : Caused s x) : Caused s (x.putCqs v) := h
theorem putUnits_caused {s x : State} {v : Units} (h : Caused s x) : Caused s (x.putUnits v) := h
theorem putSlots_caused {s x : State} {v : Vector Slot 8} (h : Caused s x) : Caused s (x.putSlots v) := h
theorem putSched_caused {s x : State} {v : Sched} (h : Caused s x) : Caused s (x.putSched v) := h
theorem putAwl_caused {s x : State} {v : AwlSt} (h : Caused s x) : Caused s (x.putAwl v) := h
theorem putNvm_caused {s x : State} {v : NvmSt} (h : Caused s x) : Caused s (x.putNvm v) := h
theorem putTm_caused {s x : State} {v : TmSt} (h : Caused s x) : Caused s (x.putTm v) := h
theorem putTime_caused {s x : State} {v : TimeSt} (h : Caused s x) : Caused s (x.putTime v) := h
theorem putCal_caused {s x : State} {v : CalSt} (h : Caused s x) : Caused s (x.putCal v) := h
theorem putFree_caused {s x : State} {v : Nat} (h : Caused s x) : Caused s (x.putFree v) := h
theorem putPending_caused {s x : State} {v : List Instr} (h : Caused s x) : Caused s (x.putPending v) := h

theorem putPins_dark {s x : State} {v : Pins} (h : Dark s x) : Dark s (x.putPins v) := h
theorem putPower_dark {s x : State} {v : Power} (h : Dark s x) : Dark s (x.putPower v) := h
theorem putBoot_dark {s x : State} {v : Boot} (h : Dark s x) : Dark s (x.putBoot v) := h
theorem putDev_dark {s x : State} {v : Dev} (h : Dark s x) : Dark s (x.putDev v) := h
theorem putWelt_dark {s x : State} {v : WeltSt} (h : Dark s x) (g : ∀ p : Pos, v.cmdOpen[p] = false → x.welt.cmdOpen[p] = false) :
    Dark s (x.putWelt v) := fun hs p hp => h hs p (g p hp)
theorem putTherm_dark {s x : State} {v : Thermal} (h : Dark s x) : Dark s (x.putTherm v) := h
theorem putEvt_dark {s x : State} {v : EvtSt} (h : Dark s x) : Dark s (x.putEvt v) := h
theorem putHeel_dark {s x : State} {v : HeelSt} (h : Dark s x) : Dark s (x.putHeel v) := h
theorem putLinks_dark {s x : State} {v : Vector Link 8} (h : Dark s x) : Dark s (x.putLinks v) := h
theorem putLast_dark {s x : State} {v : LastSt} (h : Dark s x) : Dark s (x.putLast v) := h
theorem putStore_dark {s x : State} {v : StoreSt} (h : Dark s x) : Dark s (x.putStore v) := h
theorem putWin_dark {s x : State} {v : WinSt} (h : Dark s x) : Dark s (x.putWin v) := h
theorem putTwb_dark {s x : State} {v : TwbSt} (h : Dark s x) : Dark s (x.putTwb v) := h
theorem putImc_dark {s x : State} {v : ImcSt} (h : Dark s x) : Dark s (x.putImc v) := h
theorem putJtag_dark {s x : State} {v : JtagSt} (h : Dark s x) : Dark s (x.putJtag v) := h
theorem putAcc_dark {s x : State} {v : AccSt} (h : Dark s x) : Dark s (x.putAcc v) := h
theorem putWqs_dark {s x : State} {v : Vector Wq 32} (h : Dark s x) : Dark s (x.putWqs v) := h
theorem putCqs_dark {s x : State} {v : Vector Cq 8} (h : Dark s x) : Dark s (x.putCqs v) := h
theorem putUnits_dark {s x : State} {v : Units} (h : Dark s x) : Dark s (x.putUnits v) := h
theorem putSlots_dark {s x : State} {v : Vector Slot 8} (h : Dark s x) : Dark s (x.putSlots v) := h
theorem putSched_dark {s x : State} {v : Sched} (h : Dark s x) : Dark s (x.putSched v) := h
theorem putAwl_dark {s x : State} {v : AwlSt} (h : Dark s x) : Dark s (x.putAwl v) := h
theorem putNvm_dark {s x : State} {v : NvmSt} (h : Dark s x) : Dark s (x.putNvm v) := h
theorem putTm_dark {s x : State} {v : TmSt} (h : Dark s x) : Dark s (x.putTm v) := h
theorem putTime_dark {s x : State} {v : TimeSt} (h : Dark s x) : Dark s (x.putTime v) := h
theorem putCal_dark {s x : State} {v : CalSt} (h : Dark s x) : Dark s (x.putCal v) := h
theorem putFree_dark {s x : State} {v : Nat} (h : Dark s x) : Dark s (x.putFree v) := h
theorem putPending_dark {s x : State} {v : List Instr} (h : Dark s x) : Dark s (x.putPending v) := h

theorem vput_cases {α : Type} {n : Nat} (v : Vector α n) (i j : Fin n) (x : α) :
    (vput v i x)[j] = if j = i then x else v[j] := by
  split
  · rename_i e
    rw [e]
    exact vput_self v i x
  · rename_i e
    exact vput_other v i j x e

end Sys2Proof.Machine
end

