-- ==== Sys2Proof/Laws/Causes.lean ====
section
/-! SUPPORT. The promise of the Welt, operation by operation: no operation leaves a position with a cause commanded open. -/

namespace Sys2Proof.Machine

theorem keepRead_caused {s : State} {a0} {r : Word × State} (h : Caused s r.2) : Caused s (keepRead a0 r) := by
  unfold keepRead
  dsimp -zeta -proj only [upd_acc]
  exact putAcc_caused h

theorem restartHeel_caused {s x : State} (h : Caused s x) : Caused s (restartHeel x) :=
  Caused.of_keeps (fun k hk => restartHeel_keeps hk (k.same_refl x)) (by decide) h

theorem joinOut_caused {s x : State} {a0 a1} (h : Caused s x) :
    Caused s (joinOut x a0 a1) := by
  unfold joinOut
  repeat' first
    | with_reducible assumption
    | with_reducible refine modLink_caused ?_ ?_
    | with_reducible refine ite_caused ?_ ?_
    | with_reducible refine foldl_caused ?_ (fun t a h => ?_)
    | with_reducible exact setOut_sameJoin _ _ _
    | with_reducible refine sameJoin_of ?_ ?_
    | with_reducible refine And.intro ?_ ?_
    | with_reducible rfl
    | dsimp -proj only
    | split

theorem queueMos_caused {s x : State} {a0 a1 a2 a3 a4} (h : Caused s x) :
    Caused s (queueMos x a0 a1 a2 a3 a4) := by
  unfold queueMos
  repeat' first
    | with_reducible assumption
    | with_reducible refine joinOut_caused ?_
    | with_reducible refine ite_caused ?_ ?_
    | with_reducible refine foldl_caused ?_ (fun t a h => ?_)
    | with_reducible exact setOut_sameJoin _ _ _
    | with_reducible refine sameJoin_of ?_ ?_
    | with_reducible refine And.intro ?_ ?_
    | with_reducible rfl
    | dsimp -proj only
    | split

theorem freshSeq_caused {s x : State} (h : Caused s x) : Caused s (freshSeq x).2 :=
  Caused.of_keeps (fun k hk => freshSeq_keeps hk (k.same_refl x)) (by decide) h

theorem freshSeq_caused_eq {s x : State} {r u} (h : Caused s x) (e : freshSeq x = (r, u)) :
    Caused s u := 
  Caused.of_keeps (fun k hk => freshSeq_keeps_eq hk (k.same_refl x) e) (by decide) h

theorem sendOwn_caused {s x : State} {a0 a1 a2 a3} (h : Caused s x) :
    Caused s (sendOwn x a0 a1 a2 a3) := by
  unfold sendOwn
  repeat' first
    | with_reducible assumption
    | with_reducible refine queueMos_caused ?_
    | with_reducible refine freshSeq_caused ?_
    | with_reducible refine freshSeq_caused_eq ?_ (by with_reducible assumption)
    | with_reducible refine ite_caused ?_ ?_
    | with_reducible refine foldl_caused ?_ (fun t a h => ?_)
    | with_reducible exact setOut_sameJoin _ _ _
    | with_reducible refine sameJoin_of ?_ ?_
    | with_reducible refine And.intro ?_ ?_
    | with_reducible rfl
    | dsimp -proj only
    | split

theorem queueNotify_caused {s x : State} {a0} (h : Caused s x) :
    Caused s (queueNotify x a0) := by
  unfold queueNotify
  repeat' first
    | with_reducible assumption
    | with_reducible refine modLink_caused ?_ ?_
    | with_reducible refine sendOwn_caused ?_
    | with_reducible refine ite_caused ?_ ?_
    | with_reducible refine foldl_caused ?_ (fun t a h => ?_)
    | with_reducible exact setOut_sameJoin _ _ _
    | with_reducible refine sameJoin_of ?_ ?_
    | with_reducible refine And.intro ?_ ?_
    | with_reducible rfl
    | dsimp -proj only
    | split

theorem watchAttn_caused {s x : State} (h : Caused s x) :
    Caused s (watchAttn x) := by
  unfold watchAttn
  try dsimp -zeta -proj only [upd_imc]
  repeat' first
    | with_reducible assumption
    | with_reducible refine queueNotify_caused ?_
    | with_reducible refine putImc_caused ?_
    | with_reducible refine ite_caused ?_ ?_
    | with_reducible refine foldl_caused ?_ (fun t a h => ?_)
    | with_reducible exact setOut_sameJoin _ _ _
    | with_reducible refine sameJoin_of ?_ ?_
    | with_reducible refine And.intro ?_ ?_
    | with_reducible rfl
    | dsimp -proj only
    | split

theorem unholdErase_caused {s x : State} (h : Caused s x) : Caused s (unholdErase x) :=
  Caused.of_keeps (fun k hk => unholdErase_keeps hk (k.same_refl x)) (by decide) h

theorem fin_caused {s x : State} (h : Caused s x) :
    Caused s (fin x) := by
  unfold fin
  repeat' first
    | with_reducible assumption
    | with_reducible refine restartHeel_caused ?_
    | with_reducible refine watchAttn_caused ?_
    | with_reducible refine unholdErase_caused ?_
    | with_reducible refine ite_caused ?_ ?_
    | with_reducible refine foldl_caused ?_ (fun t a h => ?_)
    | with_reducible exact setOut_sameJoin _ _ _
    | with_reducible refine sameJoin_of ?_ ?_
    | with_reducible refine And.intro ?_ ?_
    | with_reducible rfl
    | dsimp -proj only
    | split

theorem done_caused {s x : State} (h : Caused s x) : ∃ t, done x = .next t ∧ Caused s t := ⟨fin x, rfl, fin_caused h⟩

theorem setStage_caused {s x : State} {a0 a1 a2} (h : Caused s x) : Caused s (setStage x a0 a1 a2) :=
  Caused.of_keeps (fun k hk => setStage_keeps (a0 := a0) (a1 := a1) (a2 := a2) hk (k.same_refl x)) (by decide) h

theorem endRecal_caused {s x : State} (h : Caused s x) : Caused s (endRecal x) :=
  Caused.of_keeps (fun k hk => endRecal_keeps hk (k.same_refl x)) (by decide) h

theorem stillUnit_caused {s x : State} {a0 a1} (h : Caused s x) : Caused s (stillUnit x a0 a1) :=
  Caused.of_keeps (fun k hk => stillUnit_keeps (a0 := a0) (a1 := a1) hk (k.same_refl x)) (by decide) h

theorem useFree_caused {s x : State} (h : Caused s x) : Caused s (useFree x).2 :=
  Caused.of_keeps (fun k hk => useFree_keeps hk (k.same_refl x)) (by decide) h

theorem useFree_caused_eq {s x : State} {r u} (h : Caused s x) (e : useFree x = (r, u)) :
    Caused s u := 
  Caused.of_keeps (fun k hk => useFree_keeps_eq hk (k.same_refl x) e) (by decide) h

theorem sendSpare_caused {s x : State} {a0 a1 a2 a3} (h : Caused s x) :
    Caused s (sendSpare x a0 a1 a2 a3) := by
  unfold sendSpare
  repeat' first
    | with_reducible assumption
    | with_reducible refine modLink_caused ?_ ?_
    | with_reducible refine queueMos_caused ?_
    | with_reducible refine freshSeq_caused ?_
    | with_reducible refine freshSeq_caused_eq ?_ (by with_reducible assumption)
    | with_reducible refine ite_caused ?_ ?_
    | with_reducible refine foldl_caused ?_ (fun t a h => ?_)
    | with_reducible exact setOut_sameJoin _ _ _
    | with_reducible refine sameJoin_of ?_ ?_
    | with_reducible refine And.intro ?_ ?_
    | with_reducible rfl
    | dsimp -proj only
    | split

theorem setSpare_caused {s x : State} {a0 a1 a2 a3} (h : Caused s x) :
    Caused s (setSpare x a0 a1 a2 a3) := by
  unfold setSpare
  repeat' first
    | with_reducible assumption
    | with_reducible refine modLink_caused ?_ ?_
    | with_reducible refine ite_caused ?_ ?_
    | with_reducible refine foldl_caused ?_ (fun t a h => ?_)
    | with_reducible exact setOut_sameJoin _ _ _
    | with_reducible refine sameJoin_of ?_ ?_
    | with_reducible refine And.intro ?_ ?_
    | with_reducible rfl
    | dsimp -proj only
    | split

theorem beginSwap_caused {s x : State} {a0 a1 a2 a3 a4 a5} (h : Caused s x) :
    Caused s (beginSwap x a0 a1 a2 a3 a4 a5) := by
  unfold beginSwap
  repeat' first
    | with_reducible assumption
    | with_reducible refine useFree_caused ?_
    | with_reducible refine useFree_caused_eq ?_ (by with_reducible assumption)
    | with_reducible refine modLink_caused ?_ ?_
    | with_reducible refine sendSpare_caused ?_
    | with_reducible refine setSpare_caused ?_
    | with_reducible refine ite_caused ?_ ?_
    | with_reducible refine foldl_caused ?_ (fun t a h => ?_)
    | with_reducible exact setOut_sameJoin _ _ _
    | with_reducible refine sameJoin_of ?_ ?_
    | with_reducible refine And.intro ?_ ?_
    | with_reducible rfl
    | dsimp -proj only
    | split

theorem startRecal_caused {s x : State} {a0} (h : Caused s x) :
    Caused s (startRecal x a0) := by
  unfold startRecal
  try dsimp -zeta -proj only [upd_cal]
  repeat' first
    | with_reducible assumption
    | with_reducible refine stillUnit_caused ?_
    | with_reducible refine beginSwap_caused ?_
    | with_reducible refine putCal_caused ?_
    | with_reducible refine ite_caused ?_ ?_
    | with_reducible refine foldl_caused ?_ (fun t a h => ?_)
    | with_reducible exact setOut_sameJoin _ _ _
    | with_reducible refine sameJoin_of ?_ ?_
    | with_reducible refine And.intro ?_ ?_
    | with_reducible rfl
    | dsimp -proj only
    | split

theorem nextRecal_caused {s x : State} (h : Caused s x) :
    Caused s (nextRecal x) := by
  unfold nextRecal
  repeat' first
    | with_reducible assumption
    | with_reducible refine startRecal_caused ?_
    | with_reducible refine ite_caused ?_ ?_
    | with_reducible refine foldl_caused ?_ (fun t a h => ?_)
    | with_reducible exact setOut_sameJoin _ _ _
    | with_reducible refine sameJoin_of ?_ ?_
    | with_reducible refine And.intro ?_ ?_
    | with_reducible rfl
    | dsimp -proj only
    | split

theorem keepUnit_caused {s x : State} (h : Caused s x) : Caused s (keepUnit x) :=
  Caused.of_keeps (fun k hk => keepUnit_keeps hk (k.same_refl x)) (by decide) h

theorem followStandin_caused {s x : State} (h : Caused s x) :
    Caused s (followStandin x) := by
  unfold followStandin
  repeat' first
    | with_reducible assumption
    | with_reducible refine setStage_caused ?_
    | with_reducible refine endRecal_caused ?_
    | with_reducible refine nextRecal_caused ?_
    | with_reducible refine beginSwap_caused ?_
    | with_reducible refine keepUnit_caused ?_
    | with_reducible refine ite_caused ?_ ?_
    | with_reducible refine foldl_caused ?_ (fun t a h => ?_)
    | with_reducible exact setOut_sameJoin _ _ _
    | with_reducible refine sameJoin_of ?_ ?_
    | with_reducible refine And.intro ?_ ?_
    | with_reducible rfl
    | dsimp -proj only
    | split

theorem coolRx_caused {s x : State} {a0 a1 a2} (h : Caused s x) : Caused s (coolRx x a0 a1 a2) :=
  Caused.of_keeps (fun k hk => coolRx_keeps (a0 := a0) (a1 := a1) (a2 := a2) hk (k.same_refl x)) (by decide) h

theorem devCause_same {x y : State} (h : ∀ k ∈ [Comp.power, .pins, .boot, .dev, .therm], k.same x y) :
    devCause y = devCause x := by
  have h1 : y.power = x.power := h .power (by decide)
  have h2 : y.pins = x.pins := h .pins (by decide)
  have h3 : y.boot = x.boot := h .boot (by decide)
  have h4 : y.dev = x.dev := h .dev (by decide)
  have h5 : y.therm = x.therm := h .therm (by decide)
  exact devCause_congr (by rw [h1]) (by rw [h1]) (by rw [h2]) (by rw [h3]) (by rw [h3]) (by rw [h4]) (by rw [h4]) (by rw [h5])

theorem posCause_same {x y : State} (hb : y.last = x.last) (hl : y.links = x.links) (p : Pos) : posCause y p = posCause x p :=
  posCause_congr (by rw [hb]) (fun l => by unfold getLink; rw [hl]; exact ⟨rfl, rfl⟩) p

theorem settlePos_causes_same (x : State) (p : Pos) :
    devCause (settlePos x p) = devCause x ∧ ∀ q, posCause (settlePos x p) q = posCause x q := by
  have k : ∀ c ∈ [Comp.power, .pins, .boot, .dev, .therm], c.same x (settlePos x p) := by
    intro c hc
    refine settlePos_keeps ?_ (c.same_refl x)
    revert hc c
    decide
  exact ⟨devCause_same k, posCause_same (settlePos_keeps (k := .last) (by decide) rfl)
    (settlePos_keeps (k := .links) (by decide) rfl)⟩

theorem closePos_open (x : State) (p q : Pos) : (closePos x p).welt.cmdOpen[q] = if q = p then false else x.welt.cmdOpen[q] := by
  have e : ∀ (y : State) (l : List Side), (l.foldl (fun t sd => modMeas (endTests t sd p) sd p fun m =>
      m.noEye.abortPoint) y).welt = y.welt := fun y l =>
    foldl_keeps (k := .welt) (s := y) rfl fun t sd g => modMeas_keeps (by decide) (endTests_keeps (by decide) g)
  have e' : ∀ (y : State) (l : List Side), (l.foldl (fun t sd => modTx t sd p fun x => { x with on := false, last := none }) y).welt
      = y.welt := fun y l => foldl_keeps (k := .welt) (s := y) rfl fun t sd g => modTx_keeps (by decide) g
  unfold closePos
  rw [e]
  show (vput _ _ _)[q] = _
  rw [vput_cases, e']

/-- A position's switches are settled: closed where it has a cause; every other position's stay. -/
theorem settlePos_open (x : State) (p q : Pos) : (settlePos x p).welt.cmdOpen[q] =
    if q = p then !(devCause x || posCause x p) else x.welt.cmdOpen[q] := by
  unfold settlePos
  cases hc : (devCause x || posCause x p) with
  | true =>
    rw [if_pos rfl]
    split
    · exact closePos_open x p q
    · rename_i o
      have o' : x.welt.cmdOpen[p] = false := by simpa using o
      by_cases e : q = p
      · rw [if_pos e, e, o']
        rfl
      · rw [if_neg e]
  | false =>
    rw [if_neg Bool.false_ne_true]
    split
    · rename_i o
      by_cases e : q = p
      · rw [if_pos e, e, o]
        rfl
      · rw [if_neg e]
    · exact vput_cases x.welt.cmdOpen p q true

theorem settleAll_open (l : List Pos) (x : State) (q : Pos) :
    (devCause (l.foldl settlePos x) = devCause x ∧ ∀ p, posCause (l.foldl settlePos x) p = posCause x p) ∧
      (l.foldl settlePos x).welt.cmdOpen[q] = if q ∈ l then !(devCause x || posCause x q) else x.welt.cmdOpen[q] := by
  induction l generalizing x with
  | nil => exact ⟨⟨rfl, fun _ => rfl⟩, rfl⟩
  | cons p r ih =>
    obtain ⟨⟨a, b⟩, o⟩ := ih (settlePos x p)
    obtain ⟨a', b'⟩ := settlePos_causes_same x p
    refine ⟨⟨a.trans a', fun i => (b i).trans (b' i)⟩, ?_⟩
    show (r.foldl settlePos (settlePos x p)).welt.cmdOpen[q] = _
    rw [o, settlePos_open, a', b']
    by_cases e : q = p
    · subst e
      simp
    · simp [e]

/-- Once every position follows its causes, the first promise holds. -/
theorem settleAll_causes (x : State) : causesClose (settleAll x) := by
  intro p hp
  unfold settleAll at hp ⊢
  obtain ⟨⟨a, b⟩, o⟩ := settleAll_open allPos x p
  rw [a, b] at hp
  rw [o, if_pos (show p ∈ allPos from List.mem_finRange p), hp]
  rfl

theorem settleAll_any {s : State} (x : State) : Caused s (settleAll x) := fun _ => settleAll_causes x

theorem settleAll_caused {s x : State} (_ : Caused s x) : Caused s (settleAll x) := settleAll_any x

theorem retarget_caused {s x : State} {a0} (h : Caused s x) : Caused s (retarget a0 x) :=
  Caused.of_keeps (fun k hk => retarget_keeps (a0 := a0) hk (k.same_refl x)) (by decide) h

theorem leaveSpare_caused {s x : State} {a0 a1} (h : Caused s x) :
    Caused s (leaveSpare x a0 a1) := by
  unfold leaveSpare
  try dsimp -zeta -proj only [upd_last]
  repeat' first
    | with_reducible assumption
    | with_reducible exact settleAll_any _
    | with_reducible refine settleAll_caused ?_
    | with_reducible refine modLink_caused ?_ ?_
    | with_reducible refine retarget_caused ?_
    | with_reducible refine setSpare_caused ?_
    | with_reducible refine putLast_caused ?_ ?_
    | with_reducible refine ite_caused ?_ ?_
    | with_reducible refine foldl_caused ?_ (fun t a h => ?_)
    | with_reducible exact setOut_sameJoin _ _ _
    | with_reducible refine sameJoin_of ?_ ?_
    | with_reducible refine And.intro ?_ ?_
    | with_reducible rfl
    | dsimp -proj only
    | split

theorem restSpare_caused {s x : State} {a0 a1 a2} (h : Caused s x) :
    Caused s (restSpare x a0 a1 a2) := by
  unfold restSpare
  repeat' first
    | with_reducible assumption
    | with_reducible refine coolRx_caused ?_
    | with_reducible refine leaveSpare_caused ?_
    | with_reducible refine setSpare_caused ?_
    | with_reducible refine ite_caused ?_ ?_
    | with_reducible refine foldl_caused ?_ (fun t a h => ?_)
    | with_reducible exact setOut_sameJoin _ _ _
    | with_reducible refine sameJoin_of ?_ ?_
    | with_reducible refine And.intro ?_ ?_
    | with_reducible rfl
    | dsimp -proj only
    | split

theorem logK_caused {s x : State} {a0 a1 a2} (h : Caused s x) : Caused s (logK x a0 a1 a2) :=
  Caused.of_keeps (fun k hk => logK_keeps (a0 := a0) (a1 := a1) (a2 := a2) hk (k.same_refl x)) (by decide) h

theorem logEvent_caused {s x : State} {a0 a1 a2} (h : Caused s x) : Caused s (logEvent x a0 a1 a2) :=
  Caused.of_keeps (fun k hk => logEvent_keeps (a0 := a0) (a1 := a1) (a2 := a2) hk (k.same_refl x)) (by decide) h

theorem checkDone_caused {s x : State} (h : Caused s x) :
    Caused s (checkDone x) := by
  unfold checkDone
  try dsimp -zeta -proj only [upd_last]
  repeat' first
    | with_reducible assumption
    | with_reducible refine logEvent_caused ?_
    | with_reducible refine putLast_caused ?_ ?_
    | with_reducible refine ite_caused ?_ ?_
    | with_reducible refine foldl_caused ?_ (fun t a h => ?_)
    | with_reducible exact setOut_sameJoin _ _ _
    | with_reducible refine sameJoin_of ?_ ?_
    | with_reducible refine And.intro ?_ ?_
    | with_reducible rfl
    | dsimp -proj only
    | split

theorem setResult_caused {s x : State} {a0 a1} (h : Caused s x) :
    Caused s (setResult x a0 a1) := by
  unfold setResult
  try dsimp -zeta -proj only [upd_last]
  repeat' first
    | with_reducible assumption
    | with_reducible refine modLink_caused ?_ ?_
    | with_reducible refine checkDone_caused ?_
    | with_reducible refine putLast_caused ?_ ?_
    | with_reducible refine ite_caused ?_ ?_
    | with_reducible refine foldl_caused ?_ (fun t a h => ?_)
    | with_reducible exact setOut_sameJoin _ _ _
    | with_reducible refine sameJoin_of ?_ ?_
    | with_reducible refine And.intro ?_ ?_
    | with_reducible rfl
    | dsimp -proj only
    | split

theorem dropHolds_caused {s x : State} {a0 a1} (h : Caused s x) : Caused s (dropHolds x a0 a1) :=
  Caused.of_keeps (fun k hk => dropHolds_keeps (a0 := a0) (a1 := a1) hk (k.same_refl x)) (by decide) h

theorem stepEpoch_caused {s x : State} {a0} (h : Caused s x) :
    Caused s (stepEpoch x a0) := by
  unfold stepEpoch
  repeat' first
    | with_reducible assumption
    | with_reducible refine modLink_caused ?_ ?_
    | with_reducible refine ite_caused ?_ ?_
    | with_reducible refine foldl_caused ?_ (fun t a h => ?_)
    | with_reducible exact setOut_sameJoin _ _ _
    | with_reducible refine sameJoin_of ?_ ?_
    | with_reducible refine And.intro ?_ ?_
    | with_reducible rfl
    | dsimp -proj only
    | split

theorem moveHold_caused {s x : State} {a0 a1 a2} (h : Caused s x) : Caused s (moveHold a0 a1 a2 x) :=
  Caused.of_keeps (fun k hk => moveHold_keeps (a0 := a0) (a1 := a1) (a2 := a2) hk (k.same_refl x)) (by decide) h

theorem withMasters_caused {s x : State} {a0 a1} (hf : ∀ t, Caused s t → Caused s (a1 t)) (h : Caused s x) :
    Caused s (withMasters x a0 a1) := by
  unfold withMasters
  repeat' first
    | with_reducible assumption
    | with_reducible refine hf _ ?_
    | with_reducible refine moveHold_caused ?_
    | with_reducible refine modLink_caused ?_ ?_
    | with_reducible refine ite_caused ?_ ?_
    | with_reducible refine foldl_caused ?_ (fun t a h => ?_)
    | with_reducible exact setOut_sameJoin _ _ _
    | with_reducible refine sameJoin_of ?_ ?_
    | with_reducible refine And.intro ?_ ?_
    | with_reducible rfl
    | dsimp -proj only
    | split

theorem lockPlls_caused {s x : State} {a0} (h : Caused s x) :
    Caused s (lockPlls x a0) := by
  unfold lockPlls
  try dsimp -zeta -proj only [upd_power]
  repeat' first
    | with_reducible assumption
    | with_reducible refine useFree_caused ?_
    | with_reducible refine useFree_caused_eq ?_ (by with_reducible assumption)
    | with_reducible refine putPower_caused ?_ ?_
    | with_reducible refine ite_caused ?_ ?_
    | with_reducible refine foldl_caused ?_ (fun t a h => ?_)
    | with_reducible exact setOut_sameJoin _ _ _
    | with_reducible refine sameJoin_of ?_ ?_
    | with_reducible refine And.intro ?_ ?_
    | with_reducible rfl
    | rfl
    | dsimp -proj only
    | split

theorem relockPlls_caused {s x : State} {a0} (h : Caused s x) :
    Caused s (relockPlls x a0) := by
  unfold relockPlls
  repeat' first
    | with_reducible assumption
    | with_reducible refine lockPlls_caused ?_
    | with_reducible refine ite_caused ?_ ?_
    | with_reducible refine foldl_caused ?_ (fun t a h => ?_)
    | with_reducible exact setOut_sameJoin _ _ _
    | with_reducible refine sameJoin_of ?_ ?_
    | with_reducible refine And.intro ?_ ?_
    | with_reducible rfl
    | dsimp -proj only
    | split

theorem takeUp_caused {s x : State} {a0 a1} (h : Caused s x) :
    Caused s (takeUp x a0 a1) := by
  unfold takeUp
  try dsimp -zeta -proj only [upd_last]
  repeat' first
    | with_reducible assumption
    | with_reducible exact settleAll_any _
    | with_reducible refine settleAll_caused ?_
    | with_reducible refine retarget_caused ?_
    | with_reducible refine dropHolds_caused ?_
    | with_reducible refine stepEpoch_caused ?_
    | with_reducible refine withMasters_caused (fun t h => ?_) ?_
    | with_reducible refine relockPlls_caused ?_
    | with_reducible refine putLast_caused ?_ ?_
    | with_reducible refine ite_caused ?_ ?_
    | with_reducible refine foldl_caused ?_ (fun t a h => ?_)
    | with_reducible exact setOut_sameJoin _ _ _
    | with_reducible refine sameJoin_of ?_ ?_
    | with_reducible refine And.intro ?_ ?_
    | with_reducible rfl
    | dsimp -proj only
    | split

theorem switchLink_caused {s x : State} {a0} (h : Caused s x) :
    Caused s (switchLink x a0) := by
  unfold switchLink
  repeat' first
    | with_reducible assumption
    | with_reducible refine takeUp_caused ?_
    | with_reducible refine ite_caused ?_ ?_
    | with_reducible refine foldl_caused ?_ (fun t a h => ?_)
    | with_reducible exact setOut_sameJoin _ _ _
    | with_reducible refine sameJoin_of ?_ ?_
    | with_reducible refine And.intro ?_ ?_
    | with_reducible rfl
    | dsimp -proj only
    | split

theorem switchNow_caused {s x : State} {a0} (h : Caused s x) :
    Caused s (switchNow x a0) := by
  unfold switchNow
  repeat' first
    | with_reducible assumption
    | with_reducible refine setResult_caused ?_
    | with_reducible refine switchLink_caused ?_
    | with_reducible refine ite_caused ?_ ?_
    | with_reducible refine foldl_caused ?_ (fun t a h => ?_)
    | with_reducible exact setOut_sameJoin _ _ _
    | with_reducible refine sameJoin_of ?_ ?_
    | with_reducible refine And.intro ?_ ?_
    | with_reducible rfl
    | dsimp -proj only
    | split

theorem endPbl_caused {s x : State} {a0} (h : Caused s x) : Caused s (endPbl x a0) :=
  Caused.of_keeps (fun k hk => endPbl_keeps (a0 := a0) hk (k.same_refl x)) (by decide) h

theorem abortRecal_caused {s x : State} (h : Caused s x) : Caused s (abortRecal x) :=
  Caused.of_keeps (fun k hk => abortRecal_keeps hk (k.same_refl x)) (by decide) h

theorem dropSwap_caused {s x : State} {a0 a1} (h : Caused s x) :
    Caused s (dropSwap x a0 a1) := by
  unfold dropSwap
  repeat' first
    | with_reducible assumption
    | with_reducible refine modLink_caused ?_ ?_
    | with_reducible refine ite_caused ?_ ?_
    | with_reducible refine foldl_caused ?_ (fun t a h => ?_)
    | with_reducible exact setOut_sameJoin _ _ _
    | with_reducible refine sameJoin_of ?_ ?_
    | with_reducible refine And.intro ?_ ?_
    | with_reducible rfl
    | dsimp -proj only
    | split

theorem endSwaps_caused {s x : State} {a0} (h : Caused s x) :
    Caused s (endSwaps x a0) := by
  unfold endSwaps
  repeat' first
    | with_reducible assumption
    | with_reducible refine restSpare_caused ?_
    | with_reducible refine modLink_caused ?_ ?_
    | with_reducible refine abortRecal_caused ?_
    | with_reducible refine dropSwap_caused ?_
    | with_reducible refine ite_caused ?_ ?_
    | with_reducible refine foldl_caused ?_ (fun t a h => ?_)
    | with_reducible exact setOut_sameJoin _ _ _
    | with_reducible refine sameJoin_of ?_ ?_
    | with_reducible refine And.intro ?_ ?_
    | with_reducible rfl
    | dsimp -proj only
    | split

theorem endSearches_caused {s x : State} {a0} (h : Caused s x) : Caused s (endSearches x a0) :=
  Caused.of_keeps (fun k hk => endSearches_keeps (a0 := a0) hk (k.same_refl x)) (by decide) h

theorem dropMos_caused {s x : State} {a0 a1} (h : Caused s x) :
    Caused s (dropMos x a0 a1) := by
  unfold dropMos
  repeat' first
    | with_reducible assumption
    | with_reducible refine modLink_caused ?_ ?_
    | with_reducible refine ite_caused ?_ ?_
    | with_reducible refine foldl_caused ?_ (fun t a h => ?_)
    | with_reducible exact setOut_sameJoin _ _ _
    | with_reducible refine sameJoin_of ?_ ?_
    | with_reducible refine And.intro ?_ ?_
    | with_reducible rfl
    | dsimp -proj only
    | split

theorem allReset_caused {s x : State} {a0} (h : Caused s x) :
    Caused s (allReset x a0) := by
  unfold allReset
  repeat' first
    | with_reducible assumption
    | with_reducible refine modLink_caused ?_ ?_
    | with_reducible refine ite_caused ?_ ?_
    | with_reducible refine foldl_caused ?_ (fun t a h => ?_)
    | with_reducible exact setOut_sameJoin _ _ _
    | with_reducible refine sameJoin_of ?_ ?_
    | with_reducible refine And.intro ?_ ?_
    | with_reducible rfl
    | dsimp -proj only
    | split

theorem leaveDisabled_caused {s x : State} {a0} (h : Caused s x) : Caused s (leaveDisabled x a0) :=
  Caused.of_keeps (fun k hk => leaveDisabled_keeps (a0 := a0) hk (k.same_refl x)) (by decide) h

theorem dropLink_caused {s x : State} {a0} (h : Caused s x) :
    Caused s (dropLink x a0) := by
  unfold dropLink
  repeat' first
    | with_reducible assumption
    | with_reducible refine modLink_caused ?_ ?_
    | with_reducible refine endPbl_caused ?_
    | with_reducible refine endSwaps_caused ?_
    | with_reducible refine endSearches_caused ?_
    | with_reducible refine dropMos_caused ?_
    | with_reducible refine allReset_caused ?_
    | with_reducible refine leaveDisabled_caused ?_
    | with_reducible refine withMasters_caused (fun t h => ?_) ?_
    | with_reducible refine ite_caused ?_ ?_
    | with_reducible refine foldl_caused ?_ (fun t a h => ?_)
    | with_reducible exact setOut_sameJoin _ _ _
    | with_reducible refine sameJoin_of ?_ ?_
    | with_reducible refine And.intro ?_ ?_
    | with_reducible rfl
    | dsimp -proj only
    | split

theorem standAside_caused {s x : State} {a0} (h : Caused s x) :
    Caused s (standAside x a0) := by
  unfold standAside
  repeat' first
    | with_reducible assumption
    | with_reducible exact settleAll_any _
    | with_reducible refine switchNow_caused ?_
    | with_reducible refine settleAll_caused ?_
    | with_reducible refine modLink_caused ?_ ?_
    | with_reducible refine dropLink_caused ?_
    | with_reducible refine ite_caused ?_ ?_
    | with_reducible refine foldl_caused ?_ (fun t a h => ?_)
    | with_reducible exact setOut_sameJoin _ _ _
    | with_reducible refine sameJoin_of ?_ ?_
    | with_reducible refine And.intro ?_ ?_
    | with_reducible rfl
    | dsimp -proj only
    | split

theorem partAside_caused {s x : State} {a0 a1} (h : Caused s x) :
    Caused s (partAside x a0 a1) := by
  unfold partAside
  repeat' first
    | with_reducible assumption
    | with_reducible exact settleAll_any _
    | with_reducible refine settleAll_caused ?_
    | with_reducible refine modLink_caused ?_ ?_
    | with_reducible refine logK_caused ?_
    | with_reducible refine standAside_caused ?_
    | with_reducible refine ite_caused ?_ ?_
    | with_reducible refine foldl_caused ?_ (fun t a h => ?_)
    | with_reducible exact setOut_sameJoin _ _ _
    | with_reducible refine sameJoin_of ?_ ?_
    | with_reducible refine And.intro ?_ ?_
    | with_reducible rfl
    | dsimp -proj only
    | split

theorem setUnrecovered_caused {s x : State} {a0 a1} (h : Caused s x) :
    Caused s (setUnrecovered x a0 a1) := by
  unfold setUnrecovered
  repeat' first
    | with_reducible assumption
    | with_reducible refine modLink_caused ?_ ?_
    | with_reducible refine logK_caused ?_
    | with_reducible refine ite_caused ?_ ?_
    | with_reducible refine foldl_caused ?_ (fun t a h => ?_)
    | with_reducible exact setOut_sameJoin _ _ _
    | with_reducible refine sameJoin_of ?_ ?_
    | with_reducible refine And.intro ?_ ?_
    | with_reducible rfl
    | dsimp -proj only
    | split

theorem lossDown_caused {s x : State} {a0} (h : Caused s x) :
    Caused s (lossDown x a0) := by
  unfold lossDown
  repeat' first
    | with_reducible assumption
    | with_reducible refine modLink_caused ?_ ?_
    | with_reducible refine logK_caused ?_
    | with_reducible refine partAside_caused ?_
    | with_reducible refine setUnrecovered_caused ?_
    | with_reducible refine ite_caused ?_ ?_
    | with_reducible refine foldl_caused ?_ (fun t a h => ?_)
    | with_reducible exact setOut_sameJoin _ _ _
    | with_reducible refine sameJoin_of ?_ ?_
    | with_reducible refine And.intro ?_ ?_
    | with_reducible rfl
    | dsimp -proj only
    | split

theorem abandonSwap_caused {s x : State} {a0} (h : Caused s x) :
    Caused s (abandonSwap x a0) := by
  unfold abandonSwap
  repeat' first
    | with_reducible assumption
    | with_reducible refine restSpare_caused ?_
    | with_reducible refine dropSwap_caused ?_
    | with_reducible refine setSpare_caused ?_
    | with_reducible refine ite_caused ?_ ?_
    | with_reducible refine foldl_caused ?_ (fun t a h => ?_)
    | with_reducible exact setOut_sameJoin _ _ _
    | with_reducible refine sameJoin_of ?_ ?_
    | with_reducible refine And.intro ?_ ?_
    | with_reducible rfl
    | dsimp -proj only
    | split

theorem enterRetrain_caused {s x : State} {a0} (h : Caused s x) :
    Caused s (enterRetrain x a0) := by
  unfold enterRetrain
  repeat' first
    | with_reducible assumption
    | with_reducible refine setResult_caused ?_
    | with_reducible refine abandonSwap_caused ?_
    | with_reducible refine modLink_caused ?_ ?_
    | with_reducible refine endPbl_caused ?_
    | with_reducible refine dropMos_caused ?_
    | with_reducible refine switchLink_caused ?_
    | with_reducible refine ite_caused ?_ ?_
    | with_reducible refine foldl_caused ?_ (fun t a h => ?_)
    | with_reducible exact setOut_sameJoin _ _ _
    | with_reducible refine sameJoin_of ?_ ?_
    | with_reducible refine And.intro ?_ ?_
    | with_reducible rfl
    | dsimp -proj only
    | split

theorem requestRetrain_caused {s x : State} {a0} (h : Caused s x) :
    Caused s (requestRetrain x a0) := by
  unfold requestRetrain
  repeat' first
    | with_reducible assumption
    | with_reducible refine modLink_caused ?_ ?_
    | with_reducible refine enterRetrain_caused ?_
    | with_reducible refine sendOwn_caused ?_
    | with_reducible refine ite_caused ?_ ?_
    | with_reducible refine foldl_caused ?_ (fun t a h => ?_)
    | with_reducible exact setOut_sameJoin _ _ _
    | with_reducible refine sameJoin_of ?_ ?_
    | with_reducible refine And.intro ?_ ?_
    | with_reducible rfl
    | dsimp -proj only
    | split

theorem lossDegrade_caused {s x : State} {a0} (h : Caused s x) :
    Caused s (lossDegrade x a0) := by
  unfold lossDegrade
  repeat' first
    | with_reducible assumption
    | with_reducible refine modLink_caused ?_ ?_
    | with_reducible refine lossDown_caused ?_
    | with_reducible refine requestRetrain_caused ?_
    | with_reducible refine ite_caused ?_ ?_
    | with_reducible refine foldl_caused ?_ (fun t a h => ?_)
    | with_reducible exact setOut_sameJoin _ _ _
    | with_reducible refine sameJoin_of ?_ ?_
    | with_reducible refine And.intro ?_ ?_
    | with_reducible rfl
    | dsimp -proj only
    | split

theorem logLane_caused {s x : State} {a0 a1 a2 a3 a4} (h : Caused s x) : Caused s (logLane x a0 a1 a2 a3 a4) :=
  Caused.of_keeps (fun k hk => logLane_keeps (a0 := a0) (a1 := a1) (a2 := a2) (a3 := a3) (a4 := a4) hk (k.same_refl x)) (by decide) h

theorem spareFallback_caused {s x : State} {a0 a1 a2} (h : Caused s x) :
    Caused s (spareFallback x a0 a1 a2) := by
  unfold spareFallback
  repeat' first
    | with_reducible assumption
    | with_reducible refine lossDegrade_caused ?_
    | with_reducible refine logLane_caused ?_
    | with_reducible refine ite_caused ?_ ?_
    | with_reducible refine foldl_caused ?_ (fun t a h => ?_)
    | with_reducible exact setOut_sameJoin _ _ _
    | with_reducible refine sameJoin_of ?_ ?_
    | with_reducible refine And.intro ?_ ?_
    | with_reducible rfl
    | dsimp -proj only
    | split

theorem vacate_caused {s x : State} {a0 a1} (h : Caused s x) : Caused s (vacate x a0 a1) :=
  Caused.of_keeps (fun k hk => vacate_keeps (a0 := a0) (a1 := a1) hk (k.same_refl x)) (by decide) h

theorem stopRecal_caused {s x : State} {a0 a1} (h : Caused s x) : Caused s (stopRecal x a0 a1) :=
  Caused.of_keeps (fun k hk => stopRecal_keeps (a0 := a0) (a1 := a1) hk (k.same_refl x)) (by decide) h

theorem setSwapResult_caused {s x : State} {a0 a1} (h : Caused s x) :
    Caused s (setSwapResult x a0 a1) := by
  unfold setSwapResult
  repeat' first
    | with_reducible assumption
    | with_reducible refine modLink_caused ?_ ?_
    | with_reducible refine ite_caused ?_ ?_
    | with_reducible refine foldl_caused ?_ (fun t a h => ?_)
    | with_reducible exact setOut_sameJoin _ _ _
    | with_reducible refine sameJoin_of ?_ ?_
    | with_reducible refine And.intro ?_ ?_
    | with_reducible rfl
    | dsimp -proj only
    | split

theorem lossSpare_caused {s x : State} {a0 a1 a2} (h : Caused s x) :
    Caused s (lossSpare x a0 a1 a2) := by
  unfold lossSpare
  repeat' first
    | with_reducible assumption
    | with_reducible refine stopRecal_caused ?_
    | with_reducible refine spareFallback_caused ?_
    | with_reducible refine modLink_caused ?_ ?_
    | with_reducible refine setSwapResult_caused ?_
    | with_reducible refine beginSwap_caused ?_
    | with_reducible refine ite_caused ?_ ?_
    | with_reducible refine foldl_caused ?_ (fun t a h => ?_)
    | with_reducible exact setOut_sameJoin _ _ _
    | with_reducible refine sameJoin_of ?_ ?_
    | with_reducible refine And.intro ?_ ?_
    | with_reducible rfl
    | dsimp -proj only
    | split

theorem serveWaiting_caused {s x : State} {a0} (h : Caused s x) :
    Caused s (serveWaiting x a0) := by
  unfold serveWaiting
  repeat' first
    | with_reducible assumption
    | with_reducible refine modLink_caused ?_ ?_
    | with_reducible refine lossSpare_caused ?_
    | with_reducible refine ite_caused ?_ ?_
    | with_reducible refine foldl_caused ?_ (fun t a h => ?_)
    | with_reducible exact setOut_sameJoin _ _ _
    | with_reducible refine sameJoin_of ?_ ?_
    | with_reducible refine And.intro ?_ ?_
    | with_reducible rfl
    | dsimp -proj only
    | split

theorem giveUp_caused {s x : State} {a0 a1} (h : Caused s x) :
    Caused s (giveUp x a0 a1) := by
  unfold giveUp
  repeat' first
    | with_reducible assumption
    | with_reducible refine modLink_caused ?_ ?_
    | with_reducible refine joinOut_caused ?_
    | with_reducible refine freshSeq_caused ?_
    | with_reducible refine freshSeq_caused_eq ?_ (by with_reducible assumption)
    | with_reducible refine ite_caused ?_ ?_
    | with_reducible refine foldl_caused ?_ (fun t a h => ?_)
    | with_reducible exact setOut_sameJoin _ _ _
    | with_reducible refine sameJoin_of ?_ ?_
    | with_reducible refine And.intro ?_ ?_
    | with_reducible rfl
    | dsimp -proj only
    | split

theorem logSwap_caused {s x : State} {a0 a1 a2 a3} (h : Caused s x) : Caused s (logSwap x a0 a1 a2 a3) :=
  Caused.of_keeps (fun k hk => logSwap_keeps (a0 := a0) (a1 := a1) (a2 := a2) (a3 := a3) hk (k.same_refl x)) (by decide) h

theorem failSwap_caused {s x : State} {a0 a1 a2 a3} (h : Caused s x) :
    Caused s (failSwap x a0 a1 a2 a3) := by
  unfold failSwap
  try dsimp -zeta -proj only [upd_cal]
  repeat' first
    | with_reducible assumption
    | with_reducible refine restSpare_caused ?_
    | with_reducible refine spareFallback_caused ?_
    | with_reducible refine vacate_caused ?_
    | with_reducible refine modLink_caused ?_ ?_
    | with_reducible refine serveWaiting_caused ?_
    | with_reducible refine leaveSpare_caused ?_
    | with_reducible refine setSwapResult_caused ?_
    | with_reducible refine giveUp_caused ?_
    | with_reducible refine sendSpare_caused ?_
    | with_reducible refine logSwap_caused ?_
    | with_reducible refine setSpare_caused ?_
    | with_reducible refine putCal_caused ?_
    | with_reducible refine ite_caused ?_ ?_
    | with_reducible refine foldl_caused ?_ (fun t a h => ?_)
    | with_reducible exact setOut_sameJoin _ _ _
    | with_reducible refine sameJoin_of ?_ ?_
    | with_reducible refine And.intro ?_ ?_
    | with_reducible rfl
    | dsimp -proj only
    | split

theorem execSwapTimeout_caused {s x : State} {a0} (h : Caused s x) :
    ∃ t, execSwapTimeout a0 x = .next t ∧ Caused s t := by
  unfold execSwapTimeout
  repeat' first
    | with_reducible assumption
    | with_reducible refine done_caused ?_
    | with_reducible refine followStandin_caused ?_
    | with_reducible refine failSwap_caused ?_
    | with_reducible refine ite_caused ?_ ?_
    | with_reducible refine foldl_caused ?_ (fun t a h => ?_)
    | with_reducible exact setOut_sameJoin _ _ _
    | with_reducible refine sameJoin_of ?_ ?_
    | with_reducible refine And.intro ?_ ?_
    | with_reducible rfl
    | dsimp -proj only
    | split

/-- Once the causes have been settled, the first promise holds. -/
theorem settle_causes (x : State) : causesClose (settle x) := by
  unfold settle
  exact settleAll_causes _

theorem settle_any {s : State} (x : State) : Caused s (settle x) := fun _ => settle_causes x

theorem settle_caused {s x : State} (_ : Caused s x) : Caused s (settle x) := fun _ => settle_causes x

theorem enterShutdown_caused {s x : State} {a0} (h : Caused s x) :
    Caused s (enterShutdown x a0) := by
  unfold enterShutdown
  try dsimp -zeta -proj only [upd_therm]
  repeat' first
    | with_reducible assumption
    | with_reducible exact settle_any _
    | with_reducible refine logEvent_caused ?_
    | with_reducible refine settle_caused ?_
    | with_reducible refine putTherm_caused ?_ ?_
    | with_reducible refine ite_caused ?_ ?_
    | with_reducible refine foldl_caused ?_ (fun t a h => ?_)
    | with_reducible exact setOut_sameJoin _ _ _
    | with_reducible refine sameJoin_of ?_ ?_
    | with_reducible refine And.intro ?_ ?_
    | with_reducible rfl
    | dsimp -proj only
    | split

theorem logIslandOff_caused {s x : State} {a0 a1} (h : Caused s x) : Caused s (logIslandOff x a0 a1) :=
  Caused.of_keeps (fun k hk => logIslandOff_keeps (a0 := a0) (a1 := a1) hk (k.same_refl x)) (by decide) h

theorem finishWith_caused {s x : State} {a0 a1 a2 a3} (h : Caused s x) : Caused s (finishWith x a0 a1 a2 a3) :=
  Caused.of_keeps (fun k hk => finishWith_keeps (a0 := a0) (a1 := a1) (a2 := a2) (a3 := a3) hk (k.same_refl x)) (by decide) h

theorem keepJob_caused {s x : State} {a0 a1} (h : Caused s x) : Caused s (keepJob x a0 a1) :=
  Caused.of_keeps (fun k hk => keepJob_keeps (a0 := a0) (a1 := a1) hk (k.same_refl x)) (by decide) h

theorem sendStart_caused {s x : State} {a0} (h : Caused s x) :
    Caused s (sendStart x a0) := by
  unfold sendStart
  repeat' first
    | with_reducible assumption
    | with_reducible refine finishWith_caused ?_
    | with_reducible refine keepJob_caused ?_
    | with_reducible refine joinOut_caused ?_
    | with_reducible refine ite_caused ?_ ?_
    | with_reducible refine foldl_caused ?_ (fun t a h => ?_)
    | with_reducible exact setOut_sameJoin _ _ _
    | with_reducible refine sameJoin_of ?_ ?_
    | with_reducible refine And.intro ?_ ?_
    | with_reducible rfl
    | dsimp -proj only
    | split

theorem logDenied_caused {s x : State} {a0 a1} (h : Caused s x) : Caused s (logDenied x a0 a1) :=
  Caused.of_keeps (fun k hk => logDenied_keeps (a0 := a0) (a1 := a1) hk (k.same_refl x)) (by decide) h

theorem eraseSetUp_caused {s x : State} {a0} (h : Caused s x) : Caused s (eraseSetUp x a0) :=
  Caused.of_keeps (fun k hk => eraseSetUp_keeps (a0 := a0) hk (k.same_refl x)) (by decide) h

theorem execSkipAbsent_caused {s x : State} {a0} (h : Caused s x) :
    ∃ t, execSkipAbsent a0 x = .next t ∧ Caused s t := by
  unfold execSkipAbsent
  repeat' first
    | with_reducible assumption
    | with_reducible refine done_caused ?_
    | with_reducible refine setResult_caused ?_
    | with_reducible refine logK_caused ?_
    | with_reducible refine switchLink_caused ?_
    | with_reducible refine ite_caused ?_ ?_
    | with_reducible refine foldl_caused ?_ (fun t a h => ?_)
    | with_reducible exact setOut_sameJoin _ _ _
    | with_reducible refine sameJoin_of ?_ ?_
    | with_reducible refine And.intro ?_ ?_
    | with_reducible rfl
    | dsimp -proj only
    | split

theorem busRead_caused {s x : State} {a0 a1} (h : Caused s x) : Caused s (busRead x a0 a1) :=
  Caused.of_keeps (fun k hk => busRead_keeps (a0 := a0) (a1 := a1) hk (k.same_refl x)) (by decide) h

theorem execDtimeLoRead_caused {s x : State} {a0} (h : Caused s x) :
    ∃ t, execDtimeLoRead a0 x = .next t ∧ Caused s t := by
  unfold execDtimeLoRead
  repeat' first
    | with_reducible assumption
    | with_reducible refine done_caused ?_
    | with_reducible refine busRead_caused ?_
    | with_reducible refine ite_caused ?_ ?_
    | with_reducible refine foldl_caused ?_ (fun t a h => ?_)
    | with_reducible exact setOut_sameJoin _ _ _
    | with_reducible refine sameJoin_of ?_ ?_
    | with_reducible refine And.intro ?_ ?_
    | with_reducible rfl
    | dsimp -proj only
    | split

theorem unlockEntry_caused {s x : State} {a0 a1} (h : Caused s x) : Caused s (unlockEntry x a0 a1) :=
  Caused.of_keeps (fun k hk => unlockEntry_keeps (a0 := a0) (a1 := a1) hk (k.same_refl x)) (by decide) h

theorem pushDue_caused {s x : State} {a0 a1} (h : Caused s x) : Caused s (pushDue x a0 a1) :=
  Caused.of_keeps (fun k hk => pushDue_keeps (a0 := a0) (a1 := a1) hk (k.same_refl x)) (by decide) h

theorem takeSlot_caused {s x : State} {a0 a1 a2 a3 a4} (h : Caused s x) : Caused s (takeSlot x a0 a1 a2 a3 a4) :=
  Caused.of_keeps (fun k hk => takeSlot_keeps (a0 := a0) (a1 := a1) (a2 := a2) (a3 := a3) (a4 := a4) hk (k.same_refl x)) (by decide) h

theorem dropStaging_caused {s x : State} {a0} (h : Caused s x) :
    Caused s (dropStaging x a0) := by
  unfold dropStaging
  try dsimp -zeta -proj only [upd_last]
  repeat' first
    | with_reducible assumption
    | with_reducible refine putLast_caused ?_ ?_
    | with_reducible refine ite_caused ?_ ?_
    | with_reducible refine foldl_caused ?_ (fun t a h => ?_)
    | with_reducible exact setOut_sameJoin _ _ _
    | with_reducible refine sameJoin_of ?_ ?_
    | with_reducible refine And.intro ?_ ?_
    | with_reducible rfl
    | dsimp -proj only
    | split

theorem latchJob_caused {s x : State} {a0 a1 a2 a3} (h : Caused s x) : Caused s (latchJob x a0 a1 a2 a3) :=
  Caused.of_keeps (fun k hk => latchJob_keeps (a0 := a0) (a1 := a1) (a2 := a2) (a3 := a3) hk (k.same_refl x)) (by decide) h

theorem endEntry_caused {s x : State} {a0 a1 a2 a3} (h : Caused s x) : Caused s (endEntry x a0 a1 a2 a3) :=
  Caused.of_keeps (fun k hk => endEntry_keeps (a0 := a0) (a1 := a1) (a2 := a2) (a3 := a3) hk (k.same_refl x)) (by decide) h

theorem parkIn_caused {s x : State} {a0 a1 a2 a3 a4 a5 a6} (h : Caused s x) :
    Caused s (parkIn x a0 a1 a2 a3 a4 a5 a6) := by
  unfold parkIn
  repeat' first
    | with_reducible assumption
    | with_reducible refine unlockEntry_caused ?_
    | with_reducible refine logEvent_caused ?_
    | with_reducible refine pushDue_caused ?_
    | with_reducible refine takeSlot_caused ?_
    | with_reducible refine dropStaging_caused ?_
    | with_reducible refine latchJob_caused ?_
    | with_reducible refine endEntry_caused ?_
    | with_reducible refine ite_caused ?_ ?_
    | with_reducible refine foldl_caused ?_ (fun t a h => ?_)
    | with_reducible exact setOut_sameJoin _ _ _
    | with_reducible refine sameJoin_of ?_ ?_
    | with_reducible refine And.intro ?_ ?_
    | with_reducible rfl
    | dsimp -proj only
    | split

theorem noteFence_caused {s x : State} {a0} (h : Caused s x) : Caused s (noteFence x a0) :=
  Caused.of_keeps (fun k hk => noteFence_keeps (a0 := a0) hk (k.same_refl x)) (by decide) h

theorem setUnit_caused {s x : State} {a0 a1} (h : Caused s x) : Caused s (setUnit x a0 a1) :=
  Caused.of_keeps (fun k hk => setUnit_keeps (a0 := a0) (a1 := a1) hk (k.same_refl x)) (by decide) h

theorem faultJob_caused {s x : State} {a0 a1 a2 a3 a4} (h : Caused s x) :
    Caused s (faultJob x a0 a1 a2 a3 a4) := by
  unfold faultJob
  repeat' first
    | with_reducible assumption
    | with_reducible refine setUnit_caused ?_
    | with_reducible refine parkIn_caused ?_
    | with_reducible refine ite_caused ?_ ?_
    | with_reducible refine foldl_caused ?_ (fun t a h => ?_)
    | with_reducible exact setOut_sameJoin _ _ _
    | with_reducible refine sameJoin_of ?_ ?_
    | with_reducible refine And.intro ?_ ?_
    | with_reducible rfl
    | dsimp -proj only
    | split

theorem modLast_caused {s x : State} {f : LastSt → LastSt} (g : (f x.last).working = x.last.working) (h : Caused s x) :
    Caused s (modLast x f) := putLast_caused h g

theorem stageImage_caused {s x : State} {a0 a1} (h : Caused s x) :
    Caused s (stageImage x a0 a1).2 := by
  unfold stageImage
  repeat' first
    | with_reducible assumption
    | with_reducible refine modLast_caused ?_ ?_
    | with_reducible refine ite_caused ?_ ?_
    | with_reducible refine foldl_caused ?_ (fun t a h => ?_)
    | with_reducible exact setOut_sameJoin _ _ _
    | with_reducible refine sameJoin_of ?_ ?_
    | with_reducible refine And.intro ?_ ?_
    | with_reducible rfl
    | dsimp -proj only
    | split

theorem stageImage_caused_eq {s x : State} {a0 a1} {r u} (h : Caused s x) (e : stageImage x a0 a1 = (r, u)) :
    Caused s u := by
  simpa only [e] using stageImage_caused (s := s) (x := x) (a0 := a0) (a1 := a1) h

theorem stageEnd_caused {s x : State} {a0} (h : Caused s x) :
    Caused s (stageEnd x a0).2 := by
  unfold stageEnd
  repeat' first
    | with_reducible assumption
    | with_reducible refine stageImage_caused ?_
    | with_reducible refine stageImage_caused_eq ?_ (by with_reducible assumption)
    | with_reducible refine ite_caused ?_ ?_
    | with_reducible refine foldl_caused ?_ (fun t a h => ?_)
    | with_reducible exact setOut_sameJoin _ _ _
    | with_reducible refine sameJoin_of ?_ ?_
    | with_reducible refine And.intro ?_ ?_
    | with_reducible rfl
    | dsimp -proj only
    | split

theorem stageEnd_caused_eq {s x : State} {a0} {r u} (h : Caused s x) (e : stageEnd x a0 = (r, u)) :
    Caused s u := by
  simpa only [e] using stageEnd_caused (s := s) (x := x) (a0 := a0) h

theorem jobRead_caused {s x : State} {a0 a1 a2 a3} (h : Caused s x) : Caused s (jobRead x a0 a1 a2 a3).2 :=
  Caused.of_keeps (fun k hk => jobRead_keeps (a0 := a0) (a1 := a1) (a2 := a2) (a3 := a3) hk (k.same_refl x)) (by decide) h

theorem jobRead_caused_eq {s x : State} {a0 a1 a2 a3} {r u} (h : Caused s x) (e : jobRead x a0 a1 a2 a3 = (r, u)) :
    Caused s u := 
  Caused.of_keeps (fun k hk => jobRead_keeps_eq (a0 := a0) (a1 := a1) (a2 := a2) (a3 := a3) hk (k.same_refl x) e) (by decide) h

theorem stageBlock_caused {s x : State} {a0} (h : Caused s x) :
    Caused s (stageBlock x a0).2 := by
  unfold stageBlock
  repeat' first
    | with_reducible assumption
    | with_reducible refine stageEnd_caused ?_
    | with_reducible refine stageEnd_caused_eq ?_ (by with_reducible assumption)
    | with_reducible refine jobRead_caused ?_
    | with_reducible refine jobRead_caused_eq ?_ (by with_reducible assumption)
    | with_reducible refine modLast_caused ?_ ?_
    | with_reducible refine ite_caused ?_ ?_
    | with_reducible refine foldl_caused ?_ (fun t a h => ?_)
    | with_reducible exact setOut_sameJoin _ _ _
    | with_reducible refine sameJoin_of ?_ ?_
    | with_reducible refine And.intro ?_ ?_
    | with_reducible rfl
    | dsimp -proj only
    | split

theorem stageBlock_caused_eq {s x : State} {a0} {r u} (h : Caused s x) (e : stageBlock x a0 = (r, u)) :
    Caused s u := by
  simpa only [e] using stageBlock_caused (s := s) (x := x) (a0 := a0) h

theorem moveBlock_caused {s x : State} {a0} (h : Caused s x) : Caused s (moveBlock x a0).2 :=
  Caused.of_keeps (fun k hk => moveBlock_keeps (a0 := a0) hk (k.same_refl x)) (by decide) h

theorem moveBlock_caused_eq {s x : State} {a0} {r u} (h : Caused s x) (e : moveBlock x a0 = (r, u)) :
    Caused s u := 
  Caused.of_keeps (fun k hk => moveBlock_keeps_eq (a0 := a0) hk (k.same_refl x) e) (by decide) h

theorem moverBlock_caused {s x : State} {a0} (h : Caused s x) :
    Caused s (moverBlock x a0).2 := by
  unfold moverBlock
  repeat' first
    | with_reducible assumption
    | with_reducible refine stageBlock_caused ?_
    | with_reducible refine stageBlock_caused_eq ?_ (by with_reducible assumption)
    | with_reducible refine moveBlock_caused ?_
    | with_reducible refine moveBlock_caused_eq ?_ (by with_reducible assumption)
    | with_reducible refine ite_caused ?_ ?_
    | with_reducible refine foldl_caused ?_ (fun t a h => ?_)
    | with_reducible exact setOut_sameJoin _ _ _
    | with_reducible refine sameJoin_of ?_ ?_
    | with_reducible refine And.intro ?_ ?_
    | with_reducible rfl
    | dsimp -proj only
    | split

theorem moverBlock_caused_eq {s x : State} {a0} {r u} (h : Caused s x) (e : moverBlock x a0 = (r, u)) :
    Caused s u := by
  simpa only [e] using moverBlock_caused (s := s) (x := x) (a0 := a0) h

theorem runBlock_caused {s x : State} {a0 a1} (h : Caused s x) :
    Caused s (runBlock x a0 a1) := by
  unfold runBlock
  repeat' first
    | with_reducible assumption
    | with_reducible refine faultJob_caused ?_
    | with_reducible refine setUnit_caused ?_
    | with_reducible refine moverBlock_caused ?_
    | with_reducible refine moverBlock_caused_eq ?_ (by with_reducible assumption)
    | with_reducible refine ite_caused ?_ ?_
    | with_reducible refine foldl_caused ?_ (fun t a h => ?_)
    | with_reducible exact setOut_sameJoin _ _ _
    | with_reducible refine sameJoin_of ?_ ?_
    | with_reducible refine And.intro ?_ ?_
    | with_reducible rfl
    | dsimp -proj only
    | split

theorem modPins_caused {s x : State} {f : Pins → Pins} (g : (f x.pins).bypN = x.pins.bypN) (h : Caused s x) :
    Caused s (modPins x f) := putPins_caused h g

theorem execBypNPulse_caused {s x : State} (h : Caused s x) :
    ∃ t, execBypNPulse x = .next t ∧ Caused s t := by
  unfold execBypNPulse
  repeat' first
    | with_reducible assumption
    | with_reducible exact settle_any _
    | with_reducible refine done_caused ?_
    | with_reducible refine settle_caused ?_
    | with_reducible refine modPins_caused ?_ ?_
    | with_reducible refine ite_caused ?_ ?_
    | with_reducible refine foldl_caused ?_ (fun t a h => ?_)
    | with_reducible exact setOut_sameJoin _ _ _
    | with_reducible refine sameJoin_of ?_ ?_
    | with_reducible refine And.intro ?_ ?_
    | with_reducible rfl
    | dsimp -proj only
    | split

theorem writeDtload_caused {s x : State} {a0 a1} (h : Caused s x) : Caused s (writeDtload x a0 a1) :=
  Caused.of_keeps (fun k hk => writeDtload_keeps (a0 := a0) (a1 := a1) hk (k.same_refl x)) (by decide) h

theorem writeLneq_caused {s x : State} {a0 a1 a2} (h : Caused s x) : Caused s (writeLneq x a0 a1 a2) :=
  Caused.of_keeps (fun k hk => writeLneq_keeps (a0 := a0) (a1 := a1) (a2 := a2) hk (k.same_refl x)) (by decide) h

theorem writeEvtmask_caused {s x : State} {a0} (h : Caused s x) : Caused s (writeEvtmask x a0) :=
  Caused.of_keeps (fun k hk => writeEvtmask_keeps (a0 := a0) hk (k.same_refl x)) (by decide) h

theorem requestStandby_caused {s x : State} (h : Caused s x) :
    Caused s (requestStandby x) := by
  unfold requestStandby
  try dsimp -zeta -proj only [upd_dev]
  repeat' first
    | with_reducible assumption
    | with_reducible refine stopRecal_caused ?_
    | with_reducible refine putDev_caused ?_ ?_
    | with_reducible refine ite_caused ?_ ?_
    | with_reducible refine foldl_caused ?_ (fun t a h => ?_)
    | with_reducible exact setOut_sameJoin _ _ _
    | with_reducible refine sameJoin_of ?_ ?_
    | with_reducible refine And.intro ?_ ?_
    | with_reducible rfl
    | dsimp -proj only
    | split

theorem writeDevctl_caused {s x : State} {a0} (h : Caused s x) :
    Caused s (writeDevctl x a0) := by
  unfold writeDevctl
  try dsimp -zeta -proj only [upd_boot, upd_dev_therm]
  repeat' first
    | with_reducible assumption
    | with_reducible exact settle_any _
    | with_reducible refine settle_caused ?_
    | with_reducible refine requestStandby_caused ?_
    | with_reducible refine putBoot_caused ?_ ?_
    | with_reducible refine putDev_caused ?_ ?_
    | with_reducible refine putTherm_caused ?_ ?_
    | with_reducible refine ite_caused ?_ ?_
    | with_reducible refine foldl_caused ?_ (fun t a h => ?_)
    | with_reducible exact setOut_sameJoin _ _ _
    | with_reducible refine sameJoin_of ?_ ?_
    | with_reducible refine And.intro ?_ ?_
    | with_reducible rfl
    | dsimp -proj only
    | split

theorem modWq_caused {s x : State} {a0 a1} (h : Caused s x) : Caused s (modWq x a0 a1) :=
  Caused.of_keeps (fun k hk => modWq_keeps (a0 := a0) (a1 := a1) hk (k.same_refl x)) (by decide) h

theorem dropSend_caused {s x : State} {a0} (h : Caused s x) :
    Caused s (dropSend x a0) := by
  unfold dropSend
  repeat' first
    | with_reducible assumption
    | with_reducible refine modLink_caused ?_ ?_
    | with_reducible refine ite_caused ?_ ?_
    | with_reducible refine foldl_caused ?_ (fun t a h => ?_)
    | with_reducible exact setOut_sameJoin _ _ _
    | with_reducible refine sameJoin_of ?_ ?_
    | with_reducible refine And.intro ?_ ?_
    | with_reducible rfl
    | dsimp -proj only
    | split

theorem retireJob_caused {s x : State} {a0 a1} (h : Caused s x) : Caused s (retireJob x a0 a1) :=
  Caused.of_keeps (fun k hk => retireJob_keeps (a0 := a0) (a1 := a1) hk (k.same_refl x)) (by decide) h

theorem abortEntry_caused {s x : State} {a0 a1 a2 a3} (h : Caused s x) : Caused s (abortEntry x a0 a1 a2 a3) :=
  Caused.of_keeps (fun k hk => abortEntry_keeps (a0 := a0) (a1 := a1) (a2 := a2) (a3 := a3) hk (k.same_refl x)) (by decide) h

theorem modAwl_caused {s x : State} {a0} (h : Caused s x) : Caused s (modAwl x a0) :=
  Caused.of_keeps (fun k hk => modAwl_keeps (a0 := a0) hk (k.same_refl x)) (by decide) h

theorem prbsOff_caused {s x : State} {a0 a1 a2} (h : Caused s x) : Caused s (prbsOff x a0 a1 a2) :=
  Caused.of_keeps (fun k hk => prbsOff_keeps (a0 := a0) (a1 := a1) (a2 := a2) hk (k.same_refl x)) (by decide) h

theorem stopNvm_caused {s x : State} {a0} (h : Caused s x) : Caused s (stopNvm x a0).2 :=
  Caused.of_keeps (fun k hk => stopNvm_keeps (a0 := a0) hk (k.same_refl x)) (by decide) h

theorem stopNvm_caused_eq {s x : State} {a0} {r u} (h : Caused s x) (e : stopNvm x a0 = (r, u)) :
    Caused s u := 
  Caused.of_keeps (fun k hk => stopNvm_keeps_eq (a0 := a0) hk (k.same_refl x) e) (by decide) h

theorem faultSeen_caused {s x : State} {a0 a1} (h : Caused s x) : Caused s (faultSeen x a0 a1) :=
  Caused.of_keeps (fun k hk => faultSeen_keeps (a0 := a0) (a1 := a1) hk (k.same_refl x)) (by decide) h

theorem endCapture_caused {s x : State} {a0 a1 a2 a3 a4} (h : Caused s x) : Caused s (endCapture x a0 a1 a2 a3 a4).2 :=
  Caused.of_keeps (fun k hk => endCapture_keeps (a0 := a0) (a1 := a1) (a2 := a2) (a3 := a3) (a4 := a4) hk (k.same_refl x)) (by decide) h

theorem endCapture_caused_eq {s x : State} {a0 a1 a2 a3 a4} {r u} (h : Caused s x) (e : endCapture x a0 a1 a2 a3 a4 = (r, u)) :
    Caused s u := 
  Caused.of_keeps (fun k hk => endCapture_keeps_eq (a0 := a0) (a1 := a1) (a2 := a2) (a3 := a3) (a4 := a4) hk (k.same_refl x) e) (by decide) h

theorem stopUnit_caused {s x : State} {a0 a1} (h : Caused s x) :
    Caused s (stopUnit x a0 a1).2 := by
  unfold stopUnit
  repeat' first
    | with_reducible assumption
    | with_reducible refine prbsOff_caused ?_
    | with_reducible refine stopNvm_caused ?_
    | with_reducible refine stopNvm_caused_eq ?_ (by with_reducible assumption)
    | with_reducible refine faultSeen_caused ?_
    | with_reducible refine modAwl_caused ?_
    | with_reducible refine dropStaging_caused ?_
    | with_reducible refine endCapture_caused ?_
    | with_reducible refine endCapture_caused_eq ?_ (by with_reducible assumption)
    | with_reducible refine ite_caused ?_ ?_
    | with_reducible refine foldl_caused ?_ (fun t a h => ?_)
    | with_reducible exact setOut_sameJoin _ _ _
    | with_reducible refine sameJoin_of ?_ ?_
    | with_reducible refine And.intro ?_ ?_
    | with_reducible rfl
    | dsimp -proj only
    | split

theorem stopUnit_caused_eq {s x : State} {a0 a1} {r u} (h : Caused s x) (e : stopUnit x a0 a1 = (r, u)) :
    Caused s u := by
  simpa only [e] using stopUnit_caused (s := s) (x := x) (a0 := a0) (a1 := a1) h

theorem awlUnitJob_caused {s x : State} {a0 a1} (h : Caused s x) :
    Caused s (awlUnitJob x a0 a1) := by
  unfold awlUnitJob
  repeat' first
    | with_reducible assumption
    | with_reducible refine dropSend_caused ?_
    | with_reducible refine retireJob_caused ?_
    | with_reducible refine setUnit_caused ?_
    | with_reducible refine abortEntry_caused ?_
    | with_reducible refine modAwl_caused ?_
    | with_reducible refine stopUnit_caused ?_
    | with_reducible refine stopUnit_caused_eq ?_ (by with_reducible assumption)
    | with_reducible refine ite_caused ?_ ?_
    | with_reducible refine foldl_caused ?_ (fun t a h => ?_)
    | with_reducible exact setOut_sameJoin _ _ _
    | with_reducible refine sameJoin_of ?_ ?_
    | with_reducible refine And.intro ?_ ?_
    | with_reducible rfl
    | dsimp -proj only
    | split

theorem awlWaiting_caused {s x : State} {a0 a1} (h : Caused s x) : Caused s (awlWaiting x a0 a1) :=
  Caused.of_keeps (fun k hk => awlWaiting_keeps (a0 := a0) (a1 := a1) hk (k.same_refl x)) (by decide) h

theorem awlHeld_caused {s x : State} {a0} (h : Caused s x) : Caused s (awlHeld x a0) :=
  Caused.of_keeps (fun k hk => awlHeld_keeps (a0 := a0) hk (k.same_refl x)) (by decide) h

theorem freeSlot_caused {s x : State} {a0} (h : Caused s x) : Caused s (freeSlot x a0) :=
  Caused.of_keeps (fun k hk => freeSlot_keeps (a0 := a0) hk (k.same_refl x)) (by decide) h

theorem awlSlot_caused {s x : State} {a0 a1} (h : Caused s x) :
    Caused s (awlSlot x a0 a1) := by
  unfold awlSlot
  repeat' first
    | with_reducible assumption
    | with_reducible refine freeSlot_caused ?_
    | with_reducible refine abortEntry_caused ?_
    | with_reducible refine modAwl_caused ?_
    | with_reducible refine dropStaging_caused ?_
    | with_reducible refine ite_caused ?_ ?_
    | with_reducible refine foldl_caused ?_ (fun t a h => ?_)
    | with_reducible exact setOut_sameJoin _ _ _
    | with_reducible refine sameJoin_of ?_ ?_
    | with_reducible refine And.intro ?_ ?_
    | with_reducible rfl
    | dsimp -proj only
    | split

theorem awlEnd_caused {s x : State} {a0 a1} (h : Caused s x) :
    Caused s (awlEnd x a0 a1) := by
  unfold awlEnd
  repeat' first
    | with_reducible assumption
    | with_reducible refine awlUnitJob_caused ?_
    | with_reducible refine awlWaiting_caused ?_
    | with_reducible refine awlHeld_caused ?_
    | with_reducible refine awlSlot_caused ?_
    | with_reducible refine ite_caused ?_ ?_
    | with_reducible refine foldl_caused ?_ (fun t a h => ?_)
    | with_reducible exact setOut_sameJoin _ _ _
    | with_reducible refine sameJoin_of ?_ ?_
    | with_reducible refine And.intro ?_ ?_
    | with_reducible rfl
    | dsimp -proj only
    | split

theorem awlAccept_caused {s x : State} {a0} (h : Caused s x) : Caused s (awlAccept x a0) :=
  Caused.of_keeps (fun k hk => awlAccept_keeps (a0 := a0) hk (k.same_refl x)) (by decide) h

theorem endRegTests_caused {s x : State} {a0 a1} (h : Caused s x) : Caused s (endRegTests x a0 a1).2 :=
  Caused.of_keeps (fun k hk => endRegTests_keeps (a0 := a0) (a1 := a1) hk (k.same_refl x)) (by decide) h

theorem endRegTests_caused_eq {s x : State} {a0 a1} {r u} (h : Caused s x) (e : endRegTests x a0 a1 = (r, u)) :
    Caused s u := 
  Caused.of_keeps (fun k hk => endRegTests_keeps_eq (a0 := a0) (a1 := a1) hk (k.same_refl x) e) (by decide) h

theorem awlCommand_caused {s x : State} {a0} (h : Caused s x) :
    Caused s (awlCommand x a0) := by
  unfold awlCommand
  repeat' first
    | with_reducible assumption
    | with_reducible refine modWq_caused ?_
    | with_reducible refine awlUnitJob_caused ?_
    | with_reducible refine awlEnd_caused ?_
    | with_reducible refine modAwl_caused ?_
    | with_reducible refine awlAccept_caused ?_
    | with_reducible refine endRegTests_caused ?_
    | with_reducible refine endRegTests_caused_eq ?_ (by with_reducible assumption)
    | with_reducible refine ite_caused ?_ ?_
    | with_reducible refine foldl_caused ?_ (fun t a h => ?_)
    | with_reducible exact setOut_sameJoin _ _ _
    | with_reducible refine sameJoin_of ?_ ?_
    | with_reducible refine And.intro ?_ ?_
    | with_reducible rfl
    | dsimp -proj only
    | split

theorem writeCqhead_caused {s x : State} {a0 a1} (h : Caused s x) : Caused s (writeCqhead x a0 a1) :=
  Caused.of_keeps (fun k hk => writeCqhead_keeps (a0 := a0) (a1 := a1) hk (k.same_refl x)) (by decide) h

theorem writeLnstat_caused {s x : State} {a0 a1 a2} (h : Caused s x) : Caused s (writeLnstat x a0 a1 a2) :=
  Caused.of_keeps (fun k hk => writeLnstat_keeps (a0 := a0) (a1 := a1) (a2 := a2) hk (k.same_refl x)) (by decide) h

theorem silenceLoop_caused {s x : State} {a0 a1} (h : Caused s x) : Caused s (silenceLoop x a0 a1) :=
  Caused.of_keeps (fun k hk => silenceLoop_keeps (a0 := a0) (a1 := a1) hk (k.same_refl x)) (by decide) h

theorem coolIdle_caused {s x : State} {a0} (h : Caused s x) : Caused s (coolIdle x a0) :=
  Caused.of_keeps (fun k hk => coolIdle_keeps (a0 := a0) hk (k.same_refl x)) (by decide) h

theorem coolSpare_caused {s x : State} {a0} (h : Caused s x) :
    Caused s (coolSpare x a0) := by
  unfold coolSpare
  repeat' first
    | with_reducible assumption
    | with_reducible refine setSpare_caused ?_
    | with_reducible refine ite_caused ?_ ?_
    | with_reducible refine foldl_caused ?_ (fun t a h => ?_)
    | with_reducible exact setOut_sameJoin _ _ _
    | with_reducible refine sameJoin_of ?_ ?_
    | with_reducible refine And.intro ?_ ?_
    | with_reducible rfl
    | dsimp -proj only
    | split

theorem modRx_caused {s x : State} {a0 a1 a2} (h : Caused s x) : Caused s (modRx x a0 a1 a2) :=
  Caused.of_keeps (fun k hk => modRx_keeps (a0 := a0) (a1 := a1) (a2 := a2) hk (k.same_refl x)) (by decide) h

theorem modMeas_caused {s x : State} {a0 a1 a2} (h : Caused s x) : Caused s (modMeas x a0 a1 a2) :=
  Caused.of_keeps (fun k hk => modMeas_keeps (a0 := a0) (a1 := a1) (a2 := a2) hk (k.same_refl x)) (by decide) h

theorem holdStarts_caused {s x : State} {a0 a1} (h : Caused s x) :
    Caused s (holdStarts x a0 a1) := by
  unfold holdStarts
  repeat' first
    | with_reducible assumption
    | with_reducible refine coolSpare_caused ?_
    | with_reducible refine modRx_caused ?_
    | with_reducible refine modMeas_caused ?_
    | with_reducible refine ite_caused ?_ ?_
    | with_reducible refine foldl_caused ?_ (fun t a h => ?_)
    | with_reducible exact setOut_sameJoin _ _ _
    | with_reducible refine sameJoin_of ?_ ?_
    | with_reducible refine And.intro ?_ ?_
    | with_reducible rfl
    | dsimp -proj only
    | split

theorem writeLnloop_caused {s x : State} {a0 a1 a2} (h : Caused s x) :
    Caused s (writeLnloop x a0 a1 a2) := by
  unfold writeLnloop
  repeat' first
    | with_reducible assumption
    | with_reducible refine silenceLoop_caused ?_
    | with_reducible refine coolIdle_caused ?_
    | with_reducible refine holdStarts_caused ?_
    | with_reducible refine modMeas_caused ?_
    | with_reducible refine ite_caused ?_ ?_
    | with_reducible refine foldl_caused ?_ (fun t a h => ?_)
    | with_reducible exact setOut_sameJoin _ _ _
    | with_reducible refine sameJoin_of ?_ ?_
    | with_reducible refine And.intro ?_ ?_
    | with_reducible rfl
    | dsimp -proj only
    | split

theorem writeLnkloss_caused {s x : State} {a0 a1} (h : Caused s x) :
    Caused s (writeLnkloss x a0 a1) := by
  unfold writeLnkloss
  repeat' first
    | with_reducible assumption
    | with_reducible refine modLink_caused ?_ ?_
    | with_reducible refine ite_caused ?_ ?_
    | with_reducible refine foldl_caused ?_ (fun t a h => ?_)
    | with_reducible exact setOut_sameJoin _ _ _
    | with_reducible refine sameJoin_of ?_ ?_
    | with_reducible refine And.intro ?_ ?_
    | with_reducible rfl
    | dsimp -proj only
    | split

theorem writeTmstat_caused {s x : State} {a0} (h : Caused s x) : Caused s (writeTmstat x a0) :=
  Caused.of_keeps (fun k hk => writeTmstat_keeps (a0 := a0) hk (k.same_refl x)) (by decide) h

theorem writeWqhdr_caused {s x : State} {a0 a1} (h : Caused s x) : Caused s (writeWqhdr x a0 a1) :=
  Caused.of_keeps (fun k hk => writeWqhdr_keeps (a0 := a0) (a1 := a1) hk (k.same_refl x)) (by decide) h

theorem writeAttnsrc_caused {s x : State} {a0} (h : Caused s x) : Caused s (writeAttnsrc x a0) :=
  Caused.of_keeps (fun k hk => writeAttnsrc_keeps (a0 := a0) hk (k.same_refl x)) (by decide) h

theorem writeLnkspcmd_caused {s x : State} {a0 a1} (h : Caused s x) :
    Caused s (writeLnkspcmd x a0 a1) := by
  unfold writeLnkspcmd
  repeat' first
    | with_reducible assumption
    | with_reducible refine setSwapResult_caused ?_
    | with_reducible refine beginSwap_caused ?_
    | with_reducible refine ite_caused ?_ ?_
    | with_reducible refine foldl_caused ?_ (fun t a h => ?_)
    | with_reducible exact setOut_sameJoin _ _ _
    | with_reducible refine sameJoin_of ?_ ?_
    | with_reducible refine And.intro ?_ ?_
    | with_reducible rfl
    | dsimp -proj only
    | split

theorem loadPrograms_caused {s x : State} (h : Caused s x) : Caused s (loadPrograms x) :=
  Caused.of_keeps (fun k hk => loadPrograms_keeps hk (k.same_refl x)) (by decide) h

theorem acceptCommit_caused {s x : State} {a0} (h : Caused s x) :
    Caused s (acceptCommit x a0) := by
  unfold acceptCommit
  repeat' first
    | with_reducible assumption
    | with_reducible exact settle_any _
    | with_reducible refine settle_caused ?_
    | with_reducible refine retarget_caused ?_
    | with_reducible refine loadPrograms_caused ?_
    | with_reducible refine checkDone_caused ?_
    | with_reducible refine modLast_caused ?_ ?_
    | with_reducible refine relockPlls_caused ?_
    | with_reducible refine ite_caused ?_ ?_
    | with_reducible refine foldl_caused ?_ (fun t a h => ?_)
    | with_reducible exact setOut_sameJoin _ _ _
    | with_reducible refine sameJoin_of ?_ ?_
    | with_reducible refine And.intro ?_ ?_
    | with_reducible rfl
    | dsimp -proj only
    | split

theorem writeLastcmd_caused {s x : State} {a0 a1} (h : Caused s x) :
    Caused s (writeLastcmd x a0 a1) := by
  unfold writeLastcmd
  repeat' first
    | with_reducible assumption
    | with_reducible refine acceptCommit_caused ?_
    | with_reducible refine modLast_caused ?_ ?_
    | with_reducible refine ite_caused ?_ ?_
    | with_reducible refine foldl_caused ?_ (fun t a h => ?_)
    | with_reducible exact setOut_sameJoin _ _ _
    | with_reducible refine sameJoin_of ?_ ?_
    | with_reducible refine And.intro ?_ ?_
    | with_reducible rfl
    | dsimp -proj only
    | split

theorem writeCalcmd_caused {s x : State} {a0} (h : Caused s x) : Caused s (writeCalcmd x a0) :=
  Caused.of_keeps (fun k hk => writeCalcmd_keeps (a0 := a0) hk (k.same_refl x)) (by decide) h

theorem clearFaults_caused {s x : State} {a0} (h : Caused s x) : Caused s (clearFaults x a0) :=
  Caused.of_keeps (fun k hk => clearFaults_keeps (a0 := a0) hk (k.same_refl x)) (by decide) h

theorem writeWqctl_caused {s x : State} {a0 a1} (h : Caused s x) : Caused s (writeWqctl x a0 a1) :=
  Caused.of_keeps (fun k hk => writeWqctl_keeps (a0 := a0) (a1 := a1) hk (k.same_refl x)) (by decide) h

theorem writeTwbstat_caused {s x : State} {a0} (h : Caused s x) : Caused s (writeTwbstat x a0) :=
  Caused.of_keeps (fun k hk => writeTwbstat_keeps (a0 := a0) hk (k.same_refl x)) (by decide) h

theorem writeTmthresh_caused {s x : State} {a0 a1} (h : Caused s x) : Caused s (writeTmthresh x a0 a1) :=
  Caused.of_keeps (fun k hk => writeTmthresh_keeps (a0 := a0) (a1 := a1) hk (k.same_refl x)) (by decide) h

theorem fixSearches_caused {s x : State} {a0} (h : Caused s x) : Caused s (fixSearches x a0) :=
  Caused.of_keeps (fun k hk => fixSearches_keeps (a0 := a0) hk (k.same_refl x)) (by decide) h

theorem switchWaiting_caused {s x : State} {a0} (h : Caused s x) :
    Caused s (switchWaiting x a0) := by
  unfold switchWaiting
  repeat' first
    | with_reducible assumption
    | with_reducible refine switchNow_caused ?_
    | with_reducible refine ite_caused ?_ ?_
    | with_reducible refine foldl_caused ?_ (fun t a h => ?_)
    | with_reducible exact setOut_sameJoin _ _ _
    | with_reducible refine sameJoin_of ?_ ?_
    | with_reducible refine And.intro ?_ ?_
    | with_reducible rfl
    | dsimp -proj only
    | split

theorem enterDisabled_caused {s x : State} {a0} (h : Caused s x) :
    Caused s (enterDisabled x a0) := by
  unfold enterDisabled
  repeat' first
    | with_reducible assumption
    | with_reducible refine switchWaiting_caused ?_
    | with_reducible refine modLink_caused ?_ ?_
    | with_reducible refine dropLink_caused ?_
    | with_reducible refine ite_caused ?_ ?_
    | with_reducible refine foldl_caused ?_ (fun t a h => ?_)
    | with_reducible exact setOut_sameJoin _ _ _
    | with_reducible refine sameJoin_of ?_ ?_
    | with_reducible refine And.intro ?_ ?_
    | with_reducible rfl
    | dsimp -proj only
    | split

theorem enterDetect_caused {s x : State} {a0 a1} (h : Caused s x) :
    Caused s (enterDetect x a0 a1) := by
  unfold enterDetect
  repeat' first
    | with_reducible assumption
    | with_reducible refine enterDisabled_caused ?_
    | with_reducible refine switchWaiting_caused ?_
    | with_reducible refine modLink_caused ?_ ?_
    | with_reducible refine partAside_caused ?_
    | with_reducible refine dropLink_caused ?_
    | with_reducible refine ite_caused ?_ ?_
    | with_reducible refine foldl_caused ?_ (fun t a h => ?_)
    | with_reducible exact setOut_sameJoin _ _ _
    | with_reducible refine sameJoin_of ?_ ?_
    | with_reducible refine And.intro ?_ ?_
    | with_reducible rfl
    | dsimp -proj only
    | split

theorem writeDisable_caused {s x : State} {a0 a1} (h : Caused s x) :
    Caused s (writeDisable x a0 a1) := by
  unfold writeDisable
  repeat' first
    | with_reducible assumption
    | with_reducible refine enterDisabled_caused ?_
    | with_reducible refine modLink_caused ?_ ?_
    | with_reducible refine enterDetect_caused ?_
    | with_reducible refine ite_caused ?_ ?_
    | with_reducible refine foldl_caused ?_ (fun t a h => ?_)
    | with_reducible exact setOut_sameJoin _ _ _
    | with_reducible refine sameJoin_of ?_ ?_
    | with_reducible refine And.intro ?_ ?_
    | with_reducible rfl
    | dsimp -proj only
    | split

theorem writeAside_caused {s x : State} {a0 a1} (h : Caused s x) : Caused s (writeAside x a0 a1) := by
  unfold writeAside
  dsimp only
  split
  · exact settle_any _
  · split
    · exact settle_any _
    · rename_i n _
      refine Caused.of_less (x := x) id (fun p => ?_) rfl h
      have less : ∀ l, linkCause (modLink x a0 fun k => { k with aside := a1 }) l = true → linkCause x l = true := by
        intro l
        unfold linkCause recIs linkRec
        simp only [modLink_last]
        by_cases e : l = a0
        · subst e
          rw [getLink_modLink]
          intro g
          simp only [Bool.or_eq_true] at g ⊢
          refine g.imp (Or.imp id fun o => ?_) id
          have o' : a1 = true := o
          simpa [o'] using n
        · rw [getLink_modLink_other _ _ _ _ e]
          exact id
      unfold posCause
      simp only [modLink_last, Bool.or_eq_true, List.any_eq_true]
      exact Or.imp id fun ⟨l, m, g⟩ => ⟨l, m, less l g⟩

theorem startJoin_caused {s x : State} {a0} (h : Caused s x) :
    Caused s (startJoin x a0) := by
  unfold startJoin
  repeat' first
    | with_reducible assumption
    | with_reducible exact settle_any _
    | with_reducible refine settle_caused ?_
    | with_reducible refine modLink_caused ?_ ?_
    | with_reducible refine ite_caused ?_ ?_
    | with_reducible refine foldl_caused ?_ (fun t a h => ?_)
    | with_reducible exact setOut_sameJoin _ _ _
    | with_reducible refine sameJoin_of ?_ ?_
    | with_reducible refine And.intro ?_ ?_
    | with_reducible rfl
    | dsimp -proj only
    | split

theorem writeLnkctl_caused {s x : State} {a0 a1} (h : Caused s x) :
    Caused s (writeLnkctl x a0 a1) := by
  unfold writeLnkctl
  extract_lets a b f
  split
  · rename_i d
    exact Caused.of_dev (x := x) (by unfold devCause; rw [d, Bool.or_true]) rfl h
  repeat' first
    | with_reducible assumption
    | with_reducible exact settleAll_any _
    | with_reducible exact settle_any _
    | with_reducible refine modLink_caused ?_ ?_
    | with_reducible refine fixSearches_caused ?_
    | with_reducible refine fixSearches_caused ?_
    | with_reducible refine writeDisable_caused ?_
    | with_reducible refine writeAside_caused ?_
    | with_reducible refine startJoin_caused ?_
    | with_reducible refine requestRetrain_caused ?_
    | with_reducible refine ite_caused ?_ ?_
    | with_reducible refine foldl_caused ?_ (fun t a h => ?_)
    | with_reducible exact setOut_sameJoin _ _ _
    | with_reducible refine sameJoin_of ?_ ?_
    | with_reducible refine And.intro ?_ ?_
    | with_reducible rfl
    | dsimp -proj only
    | split

theorem writeNvmctl_caused {s x : State} {a0} (h : Caused s x) : Caused s (writeNvmctl x a0) :=
  Caused.of_keeps (fun k hk => writeNvmctl_keeps (a0 := a0) hk (k.same_refl x)) (by decide) h

theorem writeLnsnap_caused {s x : State} {a0 a1 a2 a3} (h : Caused s x) : Caused s (writeLnsnap x a0 a1 a2 a3) :=
  Caused.of_keeps (fun k hk => writeLnsnap_keeps (a0 := a0) (a1 := a1) (a2 := a2) (a3 := a3) hk (k.same_refl x)) (by decide) h

theorem writeEntry_caused {s x : State} {a0 a1 a2 a3 a4} (h : Caused s x) : Caused s (writeEntry x a0 a1 a2 a3 a4) :=
  Caused.of_keeps (fun k hk => writeEntry_keeps (a0 := a0) (a1 := a1) (a2 := a2) (a3 := a3) (a4 := a4) hk (k.same_refl x)) (by decide) h

theorem writeCqbase_caused {s x : State} {a0 a1} (h : Caused s x) : Caused s (writeCqbase x a0 a1) :=
  Caused.of_keeps (fun k hk => writeCqbase_keeps (a0 := a0) (a1 := a1) hk (k.same_refl x)) (by decide) h

theorem writeLntxdrv_caused {s x : State} {a0 a1 a2} (h : Caused s x) : Caused s (writeLntxdrv x a0 a1 a2) :=
  Caused.of_keeps (fun k hk => writeLntxdrv_keeps (a0 := a0) (a1 := a1) (a2 := a2) hk (k.same_refl x)) (by decide) h

theorem writeNvmstat_caused {s x : State} {a0} (h : Caused s x) : Caused s (writeNvmstat x a0) :=
  Caused.of_keeps (fun k hk => writeNvmstat_keeps (a0 := a0) hk (k.same_refl x)) (by decide) h

theorem writeLnsymcntHi_caused {s x : State} {a0 a1 a2} (h : Caused s x) : Caused s (writeLnsymcntHi x a0 a1 a2) :=
  Caused.of_keeps (fun k hk => writeLnsymcntHi_keeps (a0 := a0) (a1 := a1) (a2 := a2) hk (k.same_refl x)) (by decide) h

theorem seedGen_caused {s x : State} {a0 a1} (h : Caused s x) : Caused s (seedGen x a0 a1) :=
  Caused.of_keeps (fun k hk => seedGen_keeps (a0 := a0) (a1 := a1) hk (k.same_refl x)) (by decide) h

theorem writeLnprbs_caused {s x : State} {a0 a1 a2} (h : Caused s x) :
    Caused s (writeLnprbs x a0 a1 a2) := by
  unfold writeLnprbs
  repeat' first
    | with_reducible assumption
    | with_reducible refine coolIdle_caused ?_
    | with_reducible refine seedGen_caused ?_
    | with_reducible refine holdStarts_caused ?_
    | with_reducible refine modMeas_caused ?_
    | with_reducible refine ite_caused ?_ ?_
    | with_reducible refine foldl_caused ?_ (fun t a h => ?_)
    | with_reducible exact setOut_sameJoin _ _ _
    | with_reducible refine sameJoin_of ?_ ?_
    | with_reducible refine And.intro ?_ ?_
    | with_reducible rfl
    | dsimp -proj only
    | split

theorem writeDtrate_caused {s x : State} {a0} (h : Caused s x) : Caused s (writeDtrate x a0) :=
  Caused.of_keeps (fun k hk => writeDtrate_keeps (a0 := a0) hk (k.same_refl x)) (by decide) h

theorem writeCtxstat_caused {s x : State} {a0} (h : Caused s x) : Caused s (writeCtxstat x a0) :=
  Caused.of_keeps (fun k hk => writeCtxstat_keeps (a0 := a0) hk (k.same_refl x)) (by decide) h

theorem doorbell_caused {s x : State} {a0 a1} (h : Caused s x) : Caused s (doorbell x a0 a1) :=
  Caused.of_keeps (fun k hk => doorbell_keeps (a0 := a0) (a1 := a1) hk (k.same_refl x)) (by decide) h

theorem writeWinerr_caused {s x : State} {a0 a1} (h : Caused s x) : Caused s (writeWinerr x a0 a1) :=
  Caused.of_keeps (fun k hk => writeWinerr_keeps (a0 := a0) (a1 := a1) hk (k.same_refl x)) (by decide) h

theorem writeWinctl_caused {s x : State} {a0 a1} (h : Caused s x) : Caused s (writeWinctl x a0 a1) :=
  Caused.of_keeps (fun k hk => writeWinctl_keeps (a0 := a0) (a1 := a1) hk (k.same_refl x)) (by decide) h

theorem writeTmseqctl_caused {s x : State} {a0 a1} (h : Caused s x) : Caused s (writeTmseqctl x a0 a1) :=
  Caused.of_keeps (fun k hk => writeTmseqctl_keeps (a0 := a0) (a1 := a1) hk (k.same_refl x)) (by decide) h

theorem writeCqctl_caused {s x : State} {a0 a1} (h : Caused s x) : Caused s (writeCqctl x a0 a1) :=
  Caused.of_keeps (fun k hk => writeCqctl_keeps (a0 := a0) (a1 := a1) hk (k.same_refl x)) (by decide) h

theorem writeLnctl_caused {s x : State} {a0 a1 a2} (h : Caused s x) : Caused s (writeLnctl x a0 a1 a2) :=
  Caused.of_keeps (fun k hk => writeLnctl_keeps (a0 := a0) (a1 := a1) (a2 := a2) hk (k.same_refl x)) (by decide) h

theorem writeCalstat_caused {s x : State} {a0} (h : Caused s x) : Caused s (writeCalstat x a0) :=
  Caused.of_keeps (fun k hk => writeCalstat_keeps (a0 := a0) hk (k.same_refl x)) (by decide) h

theorem writeStorestat_caused {s x : State} {a0} (h : Caused s x) : Caused s (writeStorestat x a0) :=
  Caused.of_keeps (fun k hk => writeStorestat_keeps (a0 := a0) hk (k.same_refl x)) (by decide) h

theorem writeTwbctl_caused {s x : State} {a0} (h : Caused s x) : Caused s (writeTwbctl x a0) :=
  Caused.of_keeps (fun k hk => writeTwbctl_keeps (a0 := a0) hk (k.same_refl x)) (by decide) h

theorem writeLncal_caused {s x : State} {a0 a1 a2} (h : Caused s x) : Caused s (writeLncal x a0 a1 a2) :=
  Caused.of_keeps (fun k hk => writeLncal_keeps (a0 := a0) (a1 := a1) (a2 := a2) hk (k.same_refl x)) (by decide) h

theorem writeLnscan_caused {s x : State} {a0 a1 a2} (h : Caused s x) : Caused s (writeLnscan x a0 a1 a2) :=
  Caused.of_keeps (fun k hk => writeLnscan_keeps (a0 := a0) (a1 := a1) (a2 := a2) hk (k.same_refl x)) (by decide) h

theorem writeWqstat_caused {s x : State} {a0 a1} (h : Caused s x) : Caused s (writeWqstat x a0 a1) :=
  Caused.of_keeps (fun k hk => writeWqstat_keeps (a0 := a0) (a1 := a1) hk (k.same_refl x)) (by decide) h

theorem writeCqstat_caused {s x : State} {a0 a1} (h : Caused s x) : Caused s (writeCqstat x a0 a1) :=
  Caused.of_keeps (fun k hk => writeCqstat_keeps (a0 := a0) (a1 := a1) hk (k.same_refl x)) (by decide) h

theorem writeImcctl_caused {s x : State} {a0} (h : Caused s x) : Caused s (writeImcctl x a0) :=
  Caused.of_keeps (fun k hk => writeImcctl_keeps (a0 := a0) hk (k.same_refl x)) (by decide) h

theorem writeSyncctl_caused {s x : State} {a0} (h : Caused s x) : Caused s (writeSyncctl x a0) :=
  Caused.of_keeps (fun k hk => writeSyncctl_keeps (a0 := a0) hk (k.same_refl x)) (by decide) h

theorem writeReg_caused {s x : State} {a0 a1 a2} (h : Caused s x) :
    Caused s (writeReg x a0 a1 a2) := by
  unfold writeReg
  try dsimp -zeta -proj only [upd_nvm]
  repeat' first
    | with_reducible assumption
    | with_reducible refine writeDtload_caused ?_
    | with_reducible refine writeLneq_caused ?_
    | with_reducible refine writeEvtmask_caused ?_
    | with_reducible refine writeDevctl_caused ?_
    | with_reducible refine awlCommand_caused ?_
    | with_reducible refine writeCqhead_caused ?_
    | with_reducible refine writeLnstat_caused ?_
    | with_reducible refine writeLnloop_caused ?_
    | with_reducible refine writeLnkloss_caused ?_
    | with_reducible refine writeTmstat_caused ?_
    | with_reducible refine writeWqhdr_caused ?_
    | with_reducible refine writeAttnsrc_caused ?_
    | with_reducible refine writeLnkspcmd_caused ?_
    | with_reducible refine writeLastcmd_caused ?_
    | with_reducible refine writeCalcmd_caused ?_
    | with_reducible refine clearFaults_caused ?_
    | with_reducible refine writeWqctl_caused ?_
    | with_reducible refine writeTwbstat_caused ?_
    | with_reducible refine writeTmthresh_caused ?_
    | with_reducible refine writeLnkctl_caused ?_
    | with_reducible refine writeNvmctl_caused ?_
    | with_reducible refine writeLnsnap_caused ?_
    | with_reducible refine writeEntry_caused ?_
    | with_reducible refine writeCqbase_caused ?_
    | with_reducible refine writeLntxdrv_caused ?_
    | with_reducible refine writeNvmstat_caused ?_
    | with_reducible refine writeLnsymcntHi_caused ?_
    | with_reducible refine writeLnprbs_caused ?_
    | with_reducible refine writeDtrate_caused ?_
    | with_reducible refine writeCtxstat_caused ?_
    | with_reducible refine doorbell_caused ?_
    | with_reducible refine writeWinerr_caused ?_
    | with_reducible refine writeWinctl_caused ?_
    | with_reducible refine writeTmseqctl_caused ?_
    | with_reducible refine writeCqctl_caused ?_
    | with_reducible refine writeLnctl_caused ?_
    | with_reducible refine writeCalstat_caused ?_
    | with_reducible refine writeStorestat_caused ?_
    | with_reducible refine writeTwbctl_caused ?_
    | with_reducible refine writeLncal_caused ?_
    | with_reducible refine writeLnscan_caused ?_
    | with_reducible refine modMeas_caused ?_
    | with_reducible refine writeWqstat_caused ?_
    | with_reducible refine writeCqstat_caused ?_
    | with_reducible refine writeImcctl_caused ?_
    | with_reducible refine writeSyncctl_caused ?_
    | with_reducible refine putNvm_caused ?_
    | with_reducible refine ite_caused ?_ ?_
    | with_reducible refine foldl_caused ?_ (fun t a h => ?_)
    | with_reducible exact setOut_sameJoin _ _ _
    | with_reducible refine sameJoin_of ?_ ?_
    | with_reducible refine And.intro ?_ ?_
    | with_reducible rfl
    | dsimp -proj only
    | split

theorem storeWrite_caused {s x : State} {a0 a1} (h : Caused s x) : Caused s (storeWrite x a0 a1) :=
  Caused.of_keeps (fun k hk => storeWrite_keeps (a0 := a0) (a1 := a1) hk (k.same_refl x)) (by decide) h

theorem storeWriteVa_caused {s x : State} {a0 a1 a2} (h : Caused s x) : Caused s (storeWriteVa x a0 a1 a2) :=
  Caused.of_keeps (fun k hk => storeWriteVa_keeps (a0 := a0) (a1 := a1) (a2 := a2) hk (k.same_refl x)) (by decide) h

theorem writeOpen_caused {s x : State} {a0 a1 a2} (h : Caused s x) :
    Caused s (writeOpen x a0 a1 a2) := by
  unfold writeOpen
  repeat' first
    | with_reducible assumption
    | with_reducible refine writeReg_caused ?_
    | with_reducible refine logIslandOff_caused ?_
    | with_reducible refine storeWrite_caused ?_
    | with_reducible refine storeWriteVa_caused ?_
    | with_reducible refine ite_caused ?_ ?_
    | with_reducible refine foldl_caused ?_ (fun t a h => ?_)
    | with_reducible exact setOut_sameJoin _ _ _
    | with_reducible refine sameJoin_of ?_ ?_
    | with_reducible refine And.intro ?_ ?_
    | with_reducible rfl
    | dsimp -proj only
    | split

theorem accessWrite_caused {s x : State} {a0 a1 a2} (h : Caused s x) :
    Caused s (accessWrite x a0 a1 a2) := by
  unfold accessWrite
  repeat' first
    | with_reducible assumption
    | with_reducible refine writeOpen_caused ?_
    | with_reducible refine logDenied_caused ?_
    | with_reducible refine ite_caused ?_ ?_
    | with_reducible refine foldl_caused ?_ (fun t a h => ?_)
    | with_reducible exact setOut_sameJoin _ _ _
    | with_reducible refine sameJoin_of ?_ ?_
    | with_reducible refine And.intro ?_ ?_
    | with_reducible rfl
    | dsimp -proj only
    | split

theorem busWrite_caused {s x : State} {a0 a1 a2} (h : Caused s x) :
    Caused s (busWrite x a0 a1 a2) := by
  unfold busWrite
  repeat' first
    | with_reducible assumption
    | with_reducible refine accessWrite_caused ?_
    | with_reducible refine ite_caused ?_ ?_
    | with_reducible refine foldl_caused ?_ (fun t a h => ?_)
    | with_reducible exact setOut_sameJoin _ _ _
    | with_reducible refine sameJoin_of ?_ ?_
    | with_reducible refine And.intro ?_ ?_
    | with_reducible rfl
    | dsimp -proj only
    | split

theorem writeTo_caused {s x : State} {a0 a1 a2} (h : Caused s x) :
    Caused s (writeTo x a0 a1 a2) := by
  unfold writeTo
  repeat' first
    | with_reducible assumption
    | with_reducible refine busWrite_caused ?_
    | with_reducible refine ite_caused ?_ ?_
    | with_reducible refine foldl_caused ?_ (fun t a h => ?_)
    | with_reducible exact setOut_sameJoin _ _ _
    | with_reducible refine sameJoin_of ?_ ?_
    | with_reducible refine And.intro ?_ ?_
    | with_reducible rfl
    | dsimp -proj only
    | split

theorem execLnkctlClrRetrains_caused {s x : State} {a0 a1 a2} (h : Caused s x) :
    ∃ t, execLnkctlClrRetrains a0 a1 a2 x = .next t ∧ Caused s t := by
  unfold execLnkctlClrRetrains
  repeat' first
    | with_reducible assumption
    | with_reducible refine done_caused ?_
    | with_reducible refine writeTo_caused ?_
    | with_reducible refine ite_caused ?_ ?_
    | with_reducible refine foldl_caused ?_ (fun t a h => ?_)
    | with_reducible exact setOut_sameJoin _ _ _
    | with_reducible refine sameJoin_of ?_ ?_
    | with_reducible refine And.intro ?_ ?_
    | with_reducible rfl
    | dsimp -proj only
    | split

theorem execLinkSwitchInstant_caused {s x : State} {a0} (h : Caused s x) :
    ∃ t, execLinkSwitchInstant a0 x = .next t ∧ Caused s t := by
  unfold execLinkSwitchInstant
  repeat' first
    | with_reducible assumption
    | with_reducible refine done_caused ?_
    | with_reducible refine setResult_caused ?_
    | with_reducible refine switchLink_caused ?_
    | with_reducible refine ite_caused ?_ ?_
    | with_reducible refine foldl_caused ?_ (fun t a h => ?_)
    | with_reducible exact setOut_sameJoin _ _ _
    | with_reducible refine sameJoin_of ?_ ?_
    | with_reducible refine And.intro ?_ ?_
    | with_reducible rfl
    | dsimp -proj only
    | split

theorem restOthers_caused {s x : State} {a0 a1} (h : Caused s x) :
    Caused s (restOthers x a0 a1) := by
  unfold restOthers
  repeat' first
    | with_reducible assumption
    | with_reducible refine restSpare_caused ?_
    | with_reducible refine ite_caused ?_ ?_
    | with_reducible refine foldl_caused ?_ (fun t a h => ?_)
    | with_reducible exact setOut_sameJoin _ _ _
    | with_reducible refine sameJoin_of ?_ ?_
    | with_reducible refine And.intro ?_ ?_
    | with_reducible rfl
    | dsimp -proj only
    | split

theorem swapDone_caused {s x : State} {a0 a1} (h : Caused s x) :
    Caused s (swapDone x a0 a1) := by
  unfold swapDone
  repeat' first
    | with_reducible assumption
    | with_reducible refine restSpare_caused ?_
    | with_reducible refine modLink_caused ?_ ?_
    | with_reducible refine serveWaiting_caused ?_
    | with_reducible refine setSwapResult_caused ?_
    | with_reducible refine logSwap_caused ?_
    | with_reducible refine restOthers_caused ?_
    | with_reducible refine setSpare_caused ?_
    | with_reducible refine ite_caused ?_ ?_
    | with_reducible refine foldl_caused ?_ (fun t a h => ?_)
    | with_reducible exact setOut_sameJoin _ _ _
    | with_reducible refine sameJoin_of ?_ ?_
    | with_reducible refine And.intro ?_ ?_
    | with_reducible rfl
    | dsimp -proj only
    | split

theorem swapAck_caused {s x : State} {a0 a1} (h : Caused s x) :
    Caused s (swapAck x a0 a1) := by
  unfold swapAck
  repeat' first
    | with_reducible assumption
    | with_reducible refine swapDone_caused ?_
    | with_reducible refine vacate_caused ?_
    | with_reducible refine modLink_caused ?_ ?_
    | with_reducible refine sendSpare_caused ?_
    | with_reducible refine ite_caused ?_ ?_
    | with_reducible refine foldl_caused ?_ (fun t a h => ?_)
    | with_reducible exact setOut_sameJoin _ _ _
    | with_reducible refine sameJoin_of ?_ ?_
    | with_reducible refine And.intro ?_ ?_
    | with_reducible rfl
    | dsimp -proj only
    | split

theorem execCqEnable_caused {s x : State} {a0 a1 a2} (h : Caused s x) :
    ∃ t, execCqEnable a0 a1 a2 x = .next t ∧ Caused s t := by
  unfold execCqEnable
  repeat' first
    | with_reducible assumption
    | with_reducible refine done_caused ?_
    | with_reducible refine writeTo_caused ?_
    | with_reducible refine ite_caused ?_ ?_
    | with_reducible refine foldl_caused ?_ (fun t a h => ?_)
    | with_reducible exact setOut_sameJoin _ _ _
    | with_reducible refine sameJoin_of ?_ ?_
    | with_reducible refine And.intro ?_ ?_
    | with_reducible rfl
    | dsimp -proj only
    | split

theorem endEeprom_caused {s x : State} {a0} (h : Caused s x) :
    Caused s (endEeprom x a0) := by
  unfold endEeprom
  try dsimp -zeta -proj only [upd_boot]
  repeat' first
    | with_reducible assumption
    | with_reducible refine putBoot_caused ?_ ?_
    | with_reducible refine ite_caused ?_ ?_
    | with_reducible refine foldl_caused ?_ (fun t a h => ?_)
    | with_reducible exact setOut_sameJoin _ _ _
    | with_reducible refine sameJoin_of ?_ ?_
    | with_reducible refine And.intro ?_ ?_
    | with_reducible rfl
    | dsimp -proj only
    | split

theorem eepromGrown_caused {s x : State} {a0} (h : Caused s x) :
    Caused s (eepromGrown x a0) := by
  unfold eepromGrown
  try dsimp -zeta -proj only [upd_boot]
  repeat' first
    | with_reducible assumption
    | with_reducible refine endEeprom_caused ?_
    | with_reducible refine putBoot_caused ?_ ?_
    | with_reducible refine ite_caused ?_ ?_
    | with_reducible refine foldl_caused ?_ (fun t a h => ?_)
    | with_reducible exact setOut_sameJoin _ _ _
    | with_reducible refine sameJoin_of ?_ ?_
    | with_reducible refine And.intro ?_ ?_
    | with_reducible rfl
    | dsimp -proj only
    | split

theorem eepromTransfer_caused {s x : State} {a0} (h : Caused s x) :
    Caused s (eepromTransfer x a0) := by
  unfold eepromTransfer
  try dsimp -zeta -proj only [upd_boot]
  repeat' first
    | with_reducible assumption
    | with_reducible refine endEeprom_caused ?_
    | with_reducible refine eepromGrown_caused ?_
    | with_reducible refine putBoot_caused ?_ ?_
    | with_reducible refine ite_caused ?_ ?_
    | with_reducible refine foldl_caused ?_ (fun t a h => ?_)
    | with_reducible exact setOut_sameJoin _ _ _
    | with_reducible refine sameJoin_of ?_ ?_
    | with_reducible refine And.intro ?_ ?_
    | with_reducible rfl
    | dsimp -proj only
    | split

theorem execEepromTransfer_caused {s x : State} {a0} (h : Caused s x) :
    ∃ t, execEepromTransfer a0 x = .next t ∧ Caused s t := by
  unfold execEepromTransfer
  repeat' first
    | with_reducible assumption
    | with_reducible refine done_caused ?_
    | with_reducible refine eepromTransfer_caused ?_
    | with_reducible refine ite_caused ?_ ?_
    | with_reducible refine foldl_caused ?_ (fun t a h => ?_)
    | with_reducible exact setOut_sameJoin _ _ _
    | with_reducible refine sameJoin_of ?_ ?_
    | with_reducible refine And.intro ?_ ?_
    | with_reducible rfl
    | dsimp -proj only
    | split

theorem prbsSetUp_caused {s x : State} {a0 a1 a2} (h : Caused s x) :
    Caused s (prbsSetUp x a0 a1 a2) := by
  unfold prbsSetUp
  repeat' first
    | with_reducible assumption
    | with_reducible refine finishWith_caused ?_
    | with_reducible refine keepJob_caused ?_
    | with_reducible refine silenceLoop_caused ?_
    | with_reducible refine seedGen_caused ?_
    | with_reducible refine holdStarts_caused ?_
    | with_reducible refine modMeas_caused ?_
    | with_reducible refine ite_caused ?_ ?_
    | with_reducible refine foldl_caused ?_ (fun t a h => ?_)
    | with_reducible exact setOut_sameJoin _ _ _
    | with_reducible refine sameJoin_of ?_ ?_
    | with_reducible refine And.intro ?_ ?_
    | with_reducible rfl
    | dsimp -proj only
    | split

theorem execPrbsJob_caused {s x : State} {a0 a1} (h : Caused s x) :
    ∃ t, execPrbsJob a0 a1 x = .next t ∧ Caused s t := by
  unfold execPrbsJob
  repeat' first
    | with_reducible assumption
    | with_reducible refine done_caused ?_
    | with_reducible refine prbsSetUp_caused ?_
    | with_reducible refine ite_caused ?_ ?_
    | with_reducible refine foldl_caused ?_ (fun t a h => ?_)
    | with_reducible exact setOut_sameJoin _ _ _
    | with_reducible refine sameJoin_of ?_ ?_
    | with_reducible refine And.intro ?_ ?_
    | with_reducible rfl
    | dsimp -proj only
    | split

theorem sectorDone_caused {s x : State} {a0} (h : Caused s x) : Caused s (sectorDone x a0) :=
  Caused.of_keeps (fun k hk => sectorDone_keeps (a0 := a0) hk (k.same_refl x)) (by decide) h

theorem scanCells_caused {s x : State} {a0} (h : Caused s x) : Caused s (scanCells x a0) :=
  Caused.of_keeps (fun k hk => scanCells_keeps (a0 := a0) hk (k.same_refl x)) (by decide) h

theorem execJtagExtestTrain_caused {s x : State} (h : Caused s x) :
    ∃ t, execJtagExtestTrain x = .next t ∧ Caused s t := by
  unfold execJtagExtestTrain
  repeat' first
    | with_reducible assumption
    | with_reducible refine done_caused ?_
    | with_reducible refine scanCells_caused ?_
    | with_reducible refine ite_caused ?_ ?_
    | with_reducible refine foldl_caused ?_ (fun t a h => ?_)
    | with_reducible exact setOut_sameJoin _ _ _
    | with_reducible refine sameJoin_of ?_ ?_
    | with_reducible refine And.intro ?_ ?_
    | with_reducible rfl
    | dsimp -proj only
    | split

theorem modTr_caused {s x : State} {a0 a1 a2} (h : Caused s x) :
    Caused s (modTr x a0 a1 a2) := by
  unfold modTr
  repeat' first
    | with_reducible assumption
    | with_reducible refine modLink_caused ?_ ?_
    | with_reducible refine ite_caused ?_ ?_
    | with_reducible refine foldl_caused ?_ (fun t a h => ?_)
    | with_reducible exact setOut_sameJoin _ _ _
    | with_reducible refine sameJoin_of ?_ ?_
    | with_reducible refine And.intro ?_ ?_
    | with_reducible rfl
    | dsimp -proj only
    | split

theorem checkRecovered_caused {s x : State} {a0} (h : Caused s x) :
    Caused s (checkRecovered x a0) := by
  unfold checkRecovered
  repeat' first
    | with_reducible assumption
    | with_reducible refine modLink_caused ?_ ?_
    | with_reducible refine ite_caused ?_ ?_
    | with_reducible refine foldl_caused ?_ (fun t a h => ?_)
    | with_reducible exact setOut_sameJoin _ _ _
    | with_reducible refine sameJoin_of ?_ ?_
    | with_reducible refine And.intro ?_ ?_
    | with_reducible rfl
    | dsimp -proj only
    | split

theorem enterActive_caused {s x : State} {a0} (h : Caused s x) :
    Caused s (enterActive x a0) := by
  unfold enterActive
  repeat' first
    | with_reducible assumption
    | with_reducible refine setResult_caused ?_
    | with_reducible refine modLink_caused ?_ ?_
    | with_reducible refine checkRecovered_caused ?_
    | with_reducible refine ite_caused ?_ ?_
    | with_reducible refine foldl_caused ?_ (fun t a h => ?_)
    | with_reducible exact setOut_sameJoin _ _ _
    | with_reducible refine sameJoin_of ?_ ?_
    | with_reducible refine And.intro ?_ ?_
    | with_reducible rfl
    | dsimp -proj only
    | split

theorem linkSymbol_caused {s x : State} {a0 a1} (h : Caused s x) :
    Caused s (linkSymbol x a0 a1) := by
  unfold linkSymbol
  repeat' first
    | with_reducible assumption
    | with_reducible refine modTr_caused ?_
    | with_reducible refine enterActive_caused ?_
    | with_reducible refine ite_caused ?_ ?_
    | with_reducible refine foldl_caused ?_ (fun t a h => ?_)
    | with_reducible exact setOut_sameJoin _ _ _
    | with_reducible refine sameJoin_of ?_ ?_
    | with_reducible refine And.intro ?_ ?_
    | with_reducible rfl
    | dsimp -proj only
    | split

theorem setSent_caused {s x : State} {a0 a1 a2} (h : Caused s x) :
    Caused s (setSent x a0 a1 a2) := by
  unfold setSent
  repeat' first
    | with_reducible assumption
    | with_reducible refine modLink_caused ?_ ?_
    | with_reducible refine ite_caused ?_ ?_
    | with_reducible refine foldl_caused ?_ (fun t a h => ?_)
    | with_reducible exact setOut_sameJoin _ _ _
    | with_reducible refine sameJoin_of ?_ ?_
    | with_reducible refine And.intro ?_ ?_
    | with_reducible rfl
    | dsimp -proj only
    | split

theorem noteNak_caused {s x : State} {a0} (h : Caused s x) : Caused s (noteNak x a0) :=
  Caused.of_keeps (fun k hk => noteNak_keeps (a0 := a0) hk (k.same_refl x)) (by decide) h

theorem sendDone_caused {s x : State} {a0 a1} (h : Caused s x) : Caused s (sendDone x a0 a1) :=
  Caused.of_keeps (fun k hk => sendDone_keeps (a0 := a0) (a1 := a1) hk (k.same_refl x)) (by decide) h

theorem sendNext_caused {s x : State} {a0 a1} (h : Caused s x) :
    Caused s (sendNext x a0 a1).2 := by
  unfold sendNext
  repeat' first
    | with_reducible assumption
    | with_reducible refine modLink_caused ?_ ?_
    | with_reducible refine setSent_caused ?_
    | with_reducible refine noteNak_caused ?_
    | with_reducible refine sendDone_caused ?_
    | with_reducible refine ite_caused ?_ ?_
    | with_reducible refine foldl_caused ?_ (fun t a h => ?_)
    | with_reducible exact setOut_sameJoin _ _ _
    | with_reducible refine sameJoin_of ?_ ?_
    | with_reducible refine And.intro ?_ ?_
    | with_reducible rfl
    | dsimp -proj only
    | split

theorem sendNext_caused_eq {s x : State} {a0 a1} {r u} (h : Caused s x) (e : sendNext x a0 a1 = (r, u)) :
    Caused s u := by
  simpa only [e] using sendNext_caused (s := s) (x := x) (a0 := a0) (a1 := a1) h

theorem clearMark_caused {s x : State} {a0 a1} (h : Caused s x) :
    Caused s (clearMark x a0 a1) := by
  unfold clearMark
  repeat' first
    | with_reducible assumption
    | with_reducible refine modLink_caused ?_ ?_
    | with_reducible refine ite_caused ?_ ?_
    | with_reducible refine foldl_caused ?_ (fun t a h => ?_)
    | with_reducible exact setOut_sameJoin _ _ _
    | with_reducible refine sameJoin_of ?_ ?_
    | with_reducible refine And.intro ?_ ?_
    | with_reducible rfl
    | dsimp -proj only
    | split

theorem planOwn_caused {s x : State} {a0 a1 a2} (h : Caused s x) : Caused s (planOwn x a0 a1 a2) :=
  Caused.of_keeps (fun k hk => planOwn_keeps (a0 := a0) (a1 := a1) (a2 := a2) hk (k.same_refl x)) (by decide) h

theorem fillPad_caused {s x : State} {a0 a1 a2} (h : Caused s x) :
    Caused s (fillPad x a0 a1 a2) := by
  unfold fillPad
  repeat' first
    | with_reducible assumption
    | with_reducible refine sendNext_caused ?_
    | with_reducible refine sendNext_caused_eq ?_ (by with_reducible assumption)
    | with_reducible refine clearMark_caused ?_
    | with_reducible refine setSent_caused ?_
    | with_reducible refine planOwn_caused ?_
    | with_reducible refine ite_caused ?_ ?_
    | with_reducible refine foldl_caused ?_ (fun t a h => ?_)
    | with_reducible exact setOut_sameJoin _ _ _
    | with_reducible refine sameJoin_of ?_ ?_
    | with_reducible refine And.intro ?_ ?_
    | with_reducible rfl
    | dsimp -proj only
    | split

theorem execPadSetPasses_caused {s x : State} {a0 a1} (h : Caused s x) :
    ∃ t, execPadSetPasses a0 a1 x = .next t ∧ Caused s t := by
  unfold execPadSetPasses
  repeat' first
    | with_reducible assumption
    | with_reducible refine done_caused ?_
    | with_reducible refine linkSymbol_caused ?_
    | with_reducible refine fillPad_caused ?_
    | with_reducible refine ite_caused ?_ ?_
    | with_reducible refine foldl_caused ?_ (fun t a h => ?_)
    | with_reducible exact setOut_sameJoin _ _ _
    | with_reducible refine sameJoin_of ?_ ?_
    | with_reducible refine And.intro ?_ ?_
    | with_reducible rfl
    | dsimp -proj only
    | split

theorem execLpReqIdle_caused {s x : State} {a0 a1} (h : Caused s x) :
    ∃ t, execLpReqIdle a0 a1 x = .next t ∧ Caused s t := by
  unfold execLpReqIdle
  repeat' first
    | with_reducible assumption
    | with_reducible refine done_caused ?_
    | with_reducible refine modLink_caused ?_ ?_
    | with_reducible refine sendOwn_caused ?_
    | with_reducible refine ite_caused ?_ ?_
    | with_reducible refine foldl_caused ?_ (fun t a h => ?_)
    | with_reducible exact setOut_sameJoin _ _ _
    | with_reducible refine sameJoin_of ?_ ?_
    | with_reducible refine And.intro ?_ ?_
    | with_reducible rfl
    | dsimp -proj only
    | split

theorem ownDone_caused {s x : State} (h : Caused s x) : Caused s (ownDone x) :=
  Caused.of_keeps (fun k hk => ownDone_keeps hk (k.same_refl x)) (by decide) h

theorem execNvmErase_caused {s x : State} (h : Caused s x) :
    ∃ t, execNvmErase x = .next t ∧ Caused s t := by
  unfold execNvmErase
  repeat' first
    | with_reducible assumption
    | with_reducible refine done_caused ?_
    | with_reducible refine ownDone_caused ?_
    | with_reducible refine eraseSetUp_caused ?_
    | with_reducible refine ite_caused ?_ ?_
    | with_reducible refine foldl_caused ?_ (fun t a h => ?_)
    | with_reducible exact setOut_sameJoin _ _ _
    | with_reducible refine sameJoin_of ?_ ?_
    | with_reducible refine And.intro ?_ ?_
    | with_reducible rfl
    | dsimp -proj only
    | split

theorem readOtp_caused {s x : State} {a0} (h : Caused s x) : Caused s (readOtp x a0).2.2 :=
  Caused.of_keeps (fun k hk => readOtp_keeps (a0 := a0) hk (k.same_refl x)) (by decide) h

theorem readOtp_caused_eq {s x : State} {a0} {r q u} (h : Caused s x) (e : readOtp x a0 = (r, q, u)) :
    Caused s u := 
  Caused.of_keeps (fun k hk => readOtp_keeps_eq (a0 := a0) hk (k.same_refl x) e) (by decide) h

theorem endRead_caused {s x : State} {a0 a1} (h : Caused s x) : Caused s (endRead x a0 a1) :=
  Caused.of_keeps (fun k hk => endRead_keeps (a0 := a0) (a1 := a1) hk (k.same_refl x)) (by decide) h

theorem jobWrite_caused {s x : State} {a0 a1 a2} (h : Caused s x) : Caused s (jobWrite x a0 a1 a2).2.2 :=
  Caused.of_keeps (fun k hk => jobWrite_keeps (a0 := a0) (a1 := a1) (a2 := a2) hk (k.same_refl x)) (by decide) h

theorem jobWrite_caused_eq {s x : State} {a0 a1 a2} {r q u} (h : Caused s x) (e : jobWrite x a0 a1 a2 = (r, q, u)) :
    Caused s u := 
  Caused.of_keeps (fun k hk => jobWrite_keeps_eq (a0 := a0) (a1 := a1) (a2 := a2) hk (k.same_refl x) e) (by decide) h

theorem putData_caused {s x : State} {a0 a1 a2 a3 a4} (h : Caused s x) :
    Caused s (putData x a0 a1 a2 a3 a4).2 := by
  unfold putData
  repeat' first
    | with_reducible assumption
    | with_reducible refine jobWrite_caused ?_
    | with_reducible refine jobWrite_caused_eq ?_ (by with_reducible assumption)
    | with_reducible refine faultJob_caused ?_
    | with_reducible refine ite_caused ?_ ?_
    | with_reducible refine foldl_caused ?_ (fun t a h => ?_)
    | with_reducible exact setOut_sameJoin _ _ _
    | with_reducible refine sameJoin_of ?_ ?_
    | with_reducible refine And.intro ?_ ?_
    | with_reducible rfl
    | dsimp -proj only
    | split

theorem putData_caused_eq {s x : State} {a0 a1 a2 a3 a4} {r u} (h : Caused s x) (e : putData x a0 a1 a2 a3 a4 = (r, u)) :
    Caused s u := by
  simpa only [e] using putData_caused (s := s) (x := x) (a0 := a0) (a1 := a1) (a2 := a2) (a3 := a3) (a4 := a4) h

theorem closeRead_caused {s x : State} {a0} (h : Caused s x) :
    Caused s (closeRead x a0) := by
  unfold closeRead
  repeat' first
    | with_reducible assumption
    | with_reducible refine endRead_caused ?_
    | with_reducible refine putData_caused ?_
    | with_reducible refine putData_caused_eq ?_ (by with_reducible assumption)
    | with_reducible refine ite_caused ?_ ?_
    | with_reducible refine foldl_caused ?_ (fun t a h => ?_)
    | with_reducible exact setOut_sameJoin _ _ _
    | with_reducible refine sameJoin_of ?_ ?_
    | with_reducible refine And.intro ?_ ?_
    | with_reducible rfl
    | dsimp -proj only
    | split

theorem putBlock_caused {s x : State} {a0 a1 a2} (h : Caused s x) :
    Caused s (putBlock x a0 a1 a2) := by
  unfold putBlock
  repeat' first
    | with_reducible assumption
    | with_reducible refine keepJob_caused ?_
    | with_reducible refine closeRead_caused ?_
    | with_reducible refine putData_caused ?_
    | with_reducible refine putData_caused_eq ?_ (by with_reducible assumption)
    | with_reducible refine ite_caused ?_ ?_
    | with_reducible refine foldl_caused ?_ (fun t a h => ?_)
    | with_reducible exact setOut_sameJoin _ _ _
    | with_reducible refine sameJoin_of ?_ ?_
    | with_reducible refine And.intro ?_ ?_
    | with_reducible rfl
    | dsimp -proj only
    | split

theorem joinBlock_caused {s x : State} {a0 a1 a2 a3 a4} (h : Caused s x) :
    Caused s (joinBlock x a0 a1 a2 a3 a4) := by
  unfold joinBlock
  repeat' first
    | with_reducible assumption
    | with_reducible refine keepJob_caused ?_
    | with_reducible refine putBlock_caused ?_
    | with_reducible refine ite_caused ?_ ?_
    | with_reducible refine foldl_caused ?_ (fun t a h => ?_)
    | with_reducible exact setOut_sameJoin _ _ _
    | with_reducible refine sameJoin_of ?_ ?_
    | with_reducible refine And.intro ?_ ?_
    | with_reducible rfl
    | dsimp -proj only
    | split

theorem readUnit_caused {s x : State} {a0} (h : Caused s x) : Caused s (readUnit x a0).2.2 :=
  Caused.of_keeps (fun k hk => readUnit_keeps (a0 := a0) hk (k.same_refl x)) (by decide) h

theorem readUnit_caused_eq {s x : State} {a0} {r q u} (h : Caused s x) (e : readUnit x a0 = (r, q, u)) :
    Caused s u := 
  Caused.of_keeps (fun k hk => readUnit_keeps_eq (a0 := a0) hk (k.same_refl x) e) (by decide) h

theorem stopAtBad_caused {s x : State} {a0 a1 a2 a3 a4 a5} (h : Caused s x) :
    Caused s (stopAtBad x a0 a1 a2 a3 a4 a5) := by
  unfold stopAtBad
  repeat' first
    | with_reducible assumption
    | with_reducible refine closeRead_caused ?_
    | with_reducible refine putData_caused ?_
    | with_reducible refine putData_caused_eq ?_ (by with_reducible assumption)
    | with_reducible refine ite_caused ?_ ?_
    | with_reducible refine foldl_caused ?_ (fun t a h => ?_)
    | with_reducible exact setOut_sameJoin _ _ _
    | with_reducible refine sameJoin_of ?_ ?_
    | with_reducible refine And.intro ?_ ?_
    | with_reducible rfl
    | dsimp -proj only
    | split

theorem nvmReadStep_caused {s x : State} {a0} (h : Caused s x) :
    Caused s (nvmReadStep x a0) := by
  unfold nvmReadStep
  repeat' first
    | with_reducible assumption
    | with_reducible refine readOtp_caused ?_
    | with_reducible refine readOtp_caused_eq ?_ (by with_reducible assumption)
    | with_reducible refine endRead_caused ?_
    | with_reducible refine joinBlock_caused ?_
    | with_reducible refine readUnit_caused ?_
    | with_reducible refine readUnit_caused_eq ?_ (by with_reducible assumption)
    | with_reducible refine putBlock_caused ?_
    | with_reducible refine stopAtBad_caused ?_
    | with_reducible refine putData_caused ?_
    | with_reducible refine putData_caused_eq ?_ (by with_reducible assumption)
    | with_reducible refine ite_caused ?_ ?_
    | with_reducible refine foldl_caused ?_ (fun t a h => ?_)
    | with_reducible exact setOut_sameJoin _ _ _
    | with_reducible refine sameJoin_of ?_ ?_
    | with_reducible refine And.intro ?_ ?_
    | with_reducible rfl
    | dsimp -proj only
    | split

theorem upset_caused {s x : State} {a0} (h : Caused s x) : Caused s (upset x a0) :=
  Caused.of_keeps (fun k hk => upset_keeps (a0 := a0) hk (k.same_refl x)) (by decide) h

theorem execNvmRead_caused {s x : State} {a0} (h : Caused s x) :
    ∃ t, execNvmRead a0 x = .next t ∧ Caused s t := by
  unfold execNvmRead
  repeat' first
    | with_reducible assumption
    | with_reducible refine nvmReadStep_caused ?_
    | with_reducible refine done_caused ?_
    | with_reducible refine ownDone_caused ?_
    | with_reducible refine upset_caused ?_
    | with_reducible refine ite_caused ?_ ?_
    | with_reducible refine foldl_caused ?_ (fun t a h => ?_)
    | with_reducible exact setOut_sameJoin _ _ _
    | with_reducible refine sameJoin_of ?_ ?_
    | with_reducible refine And.intro ?_ ?_
    | with_reducible rfl
    | dsimp -proj only
    | split

theorem execNvmctlCeClr_caused {s x : State} {a0 a1} (h : Caused s x) :
    ∃ t, execNvmctlCeClr a0 a1 x = .next t ∧ Caused s t := by
  unfold execNvmctlCeClr
  repeat' first
    | with_reducible assumption
    | with_reducible refine done_caused ?_
    | with_reducible refine writeTo_caused ?_
    | with_reducible refine ite_caused ?_ ?_
    | with_reducible refine foldl_caused ?_ (fun t a h => ?_)
    | with_reducible exact setOut_sameJoin _ _ _
    | with_reducible refine sameJoin_of ?_ ?_
    | with_reducible refine And.intro ?_ ?_
    | with_reducible rfl
    | dsimp -proj only
    | split

theorem execTrainTimeout_caused {s x : State} {a0} (h : Caused s x) :
    ∃ t, execTrainTimeout a0 x = .next t ∧ Caused s t := by
  unfold execTrainTimeout
  repeat' first
    | with_reducible assumption
    | with_reducible refine done_caused ?_
    | with_reducible refine enterDetect_caused ?_
    | with_reducible refine ite_caused ?_ ?_
    | with_reducible refine foldl_caused ?_ (fun t a h => ?_)
    | with_reducible exact setOut_sameJoin _ _ _
    | with_reducible refine sameJoin_of ?_ ?_
    | with_reducible refine And.intro ?_ ?_
    | with_reducible rfl
    | dsimp -proj only
    | split

theorem execStoreRead_caused {s x : State} {a0 a1 a2} (h : Caused s x) :
    ∃ t, execStoreRead a0 a1 a2 x = .next t ∧ Caused s t := by
  unfold execStoreRead
  repeat' first
    | with_reducible assumption
    | with_reducible refine done_caused ?_
    | with_reducible refine busRead_caused ?_
    | with_reducible refine upset_caused ?_
    | with_reducible refine ite_caused ?_ ?_
    | with_reducible refine foldl_caused ?_ (fun t a h => ?_)
    | with_reducible exact setOut_sameJoin _ _ _
    | with_reducible refine sameJoin_of ?_ ?_
    | with_reducible refine And.intro ?_ ?_
    | with_reducible rfl
    | dsimp -proj only
    | split

theorem beginFence_caused {s x : State} {a0} (h : Caused s x) : Caused s (beginFence x a0) :=
  Caused.of_keeps (fun k hk => beginFence_keeps (a0 := a0) hk (k.same_refl x)) (by decide) h

theorem execLoopOff_caused {s x : State} {a0 a1 a2 a3} (h : Caused s x) :
    ∃ t, execLoopOff a0 a1 a2 a3 x = .next t ∧ Caused s t := by
  unfold execLoopOff
  repeat' first
    | with_reducible assumption
    | with_reducible refine done_caused ?_
    | with_reducible refine writeTo_caused ?_
    | with_reducible refine ite_caused ?_ ?_
    | with_reducible refine foldl_caused ?_ (fun t a h => ?_)
    | with_reducible exact setOut_sameJoin _ _ _
    | with_reducible refine sameJoin_of ?_ ?_
    | with_reducible refine And.intro ?_ ?_
    | with_reducible rfl
    | dsimp -proj only
    | split

theorem ebLimits_caused {s x : State} {a0 a1} (h : Caused s x) : Caused s (ebLimits x a0 a1) :=
  Caused.of_keeps (fun k hk => ebLimits_keeps (a0 := a0) (a1 := a1) hk (k.same_refl x)) (by decide) h

theorem sendOne_caused {s x : State} {a0 a1 a2} (h : Caused s x) : Caused s (sendOne x a0 a1 a2) :=
  Caused.of_keeps (fun k hk => sendOne_keeps (a0 := a0) (a1 := a1) (a2 := a2) hk (k.same_refl x)) (by decide) h

theorem capFeed_caused {s x : State} {a0 a1 a2 a3} (h : Caused s x) : Caused s (capFeed x a0 a1 a2 a3) :=
  Caused.of_keeps (fun k hk => capFeed_keeps (a0 := a0) (a1 := a1) (a2 := a2) (a3 := a3) hk (k.same_refl x)) (by decide) h

theorem passRequest_caused {s x : State} {a0 a1 a2} (h : Caused s x) :
    Caused s (passRequest x a0 a1 a2) := by
  unfold passRequest
  repeat' first
    | with_reducible assumption
    | with_reducible refine modTr_caused ?_
    | with_reducible refine modLink_caused ?_ ?_
    | with_reducible refine ite_caused ?_ ?_
    | with_reducible refine foldl_caused ?_ (fun t a h => ?_)
    | with_reducible exact setOut_sameJoin _ _ _
    | with_reducible refine sameJoin_of ?_ ?_
    | with_reducible refine And.intro ?_ ?_
    | with_reducible rfl
    | dsimp -proj only
    | split

theorem readOne_caused {s x : State} {a0 a1} (h : Caused s x) :
    Caused s (readOne x a0 a1) := by
  unfold readOne
  repeat' first
    | with_reducible assumption
    | with_reducible refine ebLimits_caused ?_
    | with_reducible refine sendOne_caused ?_
    | with_reducible refine modRx_caused ?_
    | with_reducible refine capFeed_caused ?_
    | with_reducible refine passRequest_caused ?_
    | with_reducible refine ite_caused ?_ ?_
    | with_reducible refine foldl_caused ?_ (fun t a h => ?_)
    | with_reducible exact setOut_sameJoin _ _ _
    | with_reducible refine sameJoin_of ?_ ?_
    | with_reducible refine And.intro ?_ ?_
    | with_reducible rfl
    | dsimp -proj only
    | split

theorem parkPreempted_caused {s x : State} {a0 a1 a2} (h : Caused s x) : Caused s (parkPreempted x a0 a1 a2) :=
  Caused.of_keeps (fun k hk => parkPreempted_keeps (a0 := a0) (a1 := a1) (a2 := a2) hk (k.same_refl x)) (by decide) h

theorem enterReset_any {s : State} (x : State) : Caused s (enterReset x) := fun _ p hp => by
  clear hp
  show (State.reset.welt.cmdOpen)[p] = false
  revert p
  decide

theorem enterReset_caused {s x : State} (_ : Caused s x) : Caused s (enterReset x) := enterReset_any x

theorem execResetNPulse_caused {s x : State} (h : Caused s x) :
    ∃ t, execResetNPulse x = .next t ∧ Caused s t := by
  unfold execResetNPulse
  repeat' first
    | with_reducible assumption
    | with_reducible exact enterReset_any _
    | with_reducible refine done_caused ?_
    | with_reducible refine enterReset_caused ?_
    | with_reducible refine modPins_caused ?_ ?_
    | with_reducible refine ite_caused ?_ ?_
    | with_reducible refine foldl_caused ?_ (fun t a h => ?_)
    | with_reducible exact setOut_sameJoin _ _ _
    | with_reducible refine sameJoin_of ?_ ?_
    | with_reducible refine And.intro ?_ ?_
    | with_reducible rfl
    | dsimp -proj only
    | split

theorem modSeq_caused {s x : State} {a0 a1 a2} (h : Caused s x) :
    Caused s (modSeq x a0 a1 a2) := by
  unfold modSeq
  repeat' first
    | with_reducible assumption
    | with_reducible refine modLink_caused ?_ ?_
    | with_reducible refine ite_caused ?_ ?_
    | with_reducible refine foldl_caused ?_ (fun t a h => ?_)
    | with_reducible exact setOut_sameJoin _ _ _
    | with_reducible refine sameJoin_of ?_ ?_
    | with_reducible refine And.intro ?_ ?_
    | with_reducible rfl
    | dsimp -proj only
    | split

theorem teleStart_caused {s x : State} {a0 a1 a2} (h : Caused s x) : Caused s (teleStart x a0 a1 a2) :=
  Caused.of_keeps (fun k hk => teleStart_keeps (a0 := a0) (a1 := a1) (a2 := a2) hk (k.same_refl x)) (by decide) h

theorem execLnkspcmdSwap_caused {s x : State} {a0 a1 a2} (h : Caused s x) :
    ∃ t, execLnkspcmdSwap a0 a1 a2 x = .next t ∧ Caused s t := by
  unfold execLnkspcmdSwap
  repeat' first
    | with_reducible assumption
    | with_reducible refine done_caused ?_
    | with_reducible refine writeTo_caused ?_
    | with_reducible refine ite_caused ?_ ?_
    | with_reducible refine foldl_caused ?_ (fun t a h => ?_)
    | with_reducible exact setOut_sameJoin _ _ _
    | with_reducible refine sameJoin_of ?_ ?_
    | with_reducible refine And.intro ?_ ?_
    | with_reducible rfl
    | dsimp -proj only
    | split

theorem jtagLoad_caused {s x : State} {a0} (h : Caused s x) : Caused s (jtagLoad x a0) :=
  Caused.of_keeps (fun k hk => jtagLoad_keeps (a0 := a0) hk (k.same_refl x)) (by decide) h

theorem execJtagHighz_caused {s x : State} (h : Caused s x) :
    ∃ t, execJtagHighz x = .next t ∧ Caused s t := by
  unfold execJtagHighz
  repeat' first
    | with_reducible assumption
    | with_reducible refine done_caused ?_
    | with_reducible refine jtagLoad_caused ?_
    | with_reducible refine ite_caused ?_ ?_
    | with_reducible refine foldl_caused ?_ (fun t a h => ?_)
    | with_reducible exact setOut_sameJoin _ _ _
    | with_reducible refine sameJoin_of ?_ ?_
    | with_reducible refine And.intro ?_ ?_
    | with_reducible rfl
    | dsimp -proj only
    | split

theorem capLoss_caused {s x : State} {a0 a1 a2 a3} (h : Caused s x) : Caused s (capLoss x a0 a1 a2 a3) :=
  Caused.of_keeps (fun k hk => capLoss_keeps (a0 := a0) (a1 := a1) (a2 := a2) (a3 := a3) hk (k.same_refl x)) (by decide) h

theorem noteLoss_caused {s x : State} {a0 a1 a2 a3 a4} (h : Caused s x) :
    Caused s (noteLoss x a0 a1 a2 a3 a4) := by
  unfold noteLoss
  repeat' first
    | with_reducible assumption
    | with_reducible refine capLoss_caused ?_
    | with_reducible refine modLink_caused ?_ ?_
    | with_reducible refine logLane_caused ?_
    | with_reducible refine ite_caused ?_ ?_
    | with_reducible refine foldl_caused ?_ (fun t a h => ?_)
    | with_reducible exact setOut_sameJoin _ _ _
    | with_reducible refine sameJoin_of ?_ ?_
    | with_reducible refine And.intro ?_ ?_
    | with_reducible rfl
    | dsimp -proj only
    | split

theorem setLost_caused {s x : State} {a0 a1 a2 a3} (h : Caused s x) :
    Caused s (setLost x a0 a1 a2 a3) := by
  unfold setLost
  repeat' first
    | with_reducible assumption
    | with_reducible refine modLink_caused ?_ ?_
    | with_reducible refine ite_caused ?_ ?_
    | with_reducible refine foldl_caused ?_ (fun t a h => ?_)
    | with_reducible exact setOut_sameJoin _ _ _
    | with_reducible refine sameJoin_of ?_ ?_
    | with_reducible refine And.intro ?_ ?_
    | with_reducible rfl
    | dsimp -proj only
    | split

theorem markLost_caused {s x : State} {a0 a1 a2 a3} (h : Caused s x) :
    Caused s (markLost x a0 a1 a2 a3) := by
  unfold markLost
  repeat' first
    | with_reducible assumption
    | with_reducible refine setResult_caused ?_
    | with_reducible refine stopRecal_caused ?_
    | with_reducible refine noteLoss_caused ?_
    | with_reducible refine modLink_caused ?_ ?_
    | with_reducible refine setLost_caused ?_
    | with_reducible refine modRx_caused ?_
    | with_reducible refine switchLink_caused ?_
    | with_reducible refine ite_caused ?_ ?_
    | with_reducible refine foldl_caused ?_ (fun t a h => ?_)
    | with_reducible exact setOut_sameJoin _ _ _
    | with_reducible refine sameJoin_of ?_ ?_
    | with_reducible refine And.intro ?_ ?_
    | with_reducible rfl
    | dsimp -proj only
    | split

theorem turnSwap_caused {s x : State} {a0 a1 a2} (h : Caused s x) :
    Caused s (turnSwap x a0 a1 a2) := by
  unfold turnSwap
  repeat' first
    | with_reducible assumption
    | with_reducible refine modLink_caused ?_ ?_
    | with_reducible refine ite_caused ?_ ?_
    | with_reducible refine foldl_caused ?_ (fun t a h => ?_)
    | with_reducible exact setOut_sameJoin _ _ _
    | with_reducible refine sameJoin_of ?_ ?_
    | with_reducible refine And.intro ?_ ?_
    | with_reducible rfl
    | dsimp -proj only
    | split

theorem execRegReadClear_caused {s x : State} {a0 a1 a2} (h : Caused s x) :
    ∃ t, execRegReadClear a0 a1 a2 x = .next t ∧ Caused s t := by
  unfold execRegReadClear
  repeat' first
    | with_reducible assumption
    | with_reducible refine done_caused ?_
    | with_reducible refine busRead_caused ?_
    | with_reducible refine upset_caused ?_
    | with_reducible refine ite_caused ?_ ?_
    | with_reducible refine foldl_caused ?_ (fun t a h => ?_)
    | with_reducible exact setOut_sameJoin _ _ _
    | with_reducible refine sameJoin_of ?_ ?_
    | with_reducible refine And.intro ?_ ?_
    | with_reducible rfl
    | dsimp -proj only
    | split

theorem grantSeen_caused {s x : State} {a0 a1} (h : Caused s x) :
    Caused s (grantSeen x a0 a1) := by
  unfold grantSeen
  repeat' first
    | with_reducible assumption
    | with_reducible refine modLink_caused ?_ ?_
    | with_reducible refine ite_caused ?_ ?_
    | with_reducible refine foldl_caused ?_ (fun t a h => ?_)
    | with_reducible exact setOut_sameJoin _ _ _
    | with_reducible refine sameJoin_of ?_ ?_
    | with_reducible refine And.intro ?_ ?_
    | with_reducible rfl
    | dsimp -proj only
    | split

theorem execWeltMismatch_caused {s x : State} {a0 a1} (h : Caused s x) :
    ∃ t, execWeltMismatch a0 a1 x = .next t ∧ Caused s t := by
  unfold execWeltMismatch
  try dsimp -zeta -proj only [upd_welt_evt]
  repeat' first
    | with_reducible assumption
    | with_reducible refine done_caused ?_
    | with_reducible refine logEvent_caused ?_
    | with_reducible refine writeAside_caused ?_
    | with_reducible refine putWelt_caused ?_ ?_
    | with_reducible refine putEvt_caused ?_
    | with_reducible refine ite_caused ?_ ?_
    | with_reducible refine foldl_caused ?_ (fun t a h => ?_)
    | with_reducible exact setOut_sameJoin _ _ _
    | with_reducible refine sameJoin_of ?_ ?_
    | with_reducible refine And.intro ?_ ?_
    | with_reducible rfl
    | dsimp -proj only
    | split

theorem dropCdr_caused {s x : State} {a0 a1} (h : Caused s x) : Caused s (dropCdr x a0 a1) :=
  Caused.of_keeps (fun k hk => dropCdr_keeps (a0 := a0) (a1 := a1) hk (k.same_refl x)) (by decide) h

theorem execLpGrantSeen_caused {s x : State} {a0 a1} (h : Caused s x) :
    ∃ t, execLpGrantSeen a0 a1 x = .next t ∧ Caused s t := by
  unfold execLpGrantSeen
  repeat' first
    | with_reducible assumption
    | with_reducible refine grantSeen_caused ?_
    | with_reducible refine done_caused ?_
    | with_reducible refine ite_caused ?_ ?_
    | with_reducible refine foldl_caused ?_ (fun t a h => ?_)
    | with_reducible exact setOut_sameJoin _ _ _
    | with_reducible refine sameJoin_of ?_ ?_
    | with_reducible refine And.intro ?_ ?_
    | with_reducible rfl
    | dsimp -proj only
    | split

theorem injectOne_caused {s x : State} {a0 a1 a2} (h : Caused s x) : Caused s (injectOne x a0 a1 a2) :=
  Caused.of_keeps (fun k hk => injectOne_keeps (a0 := a0) (a1 := a1) (a2 := a2) hk (k.same_refl x)) (by decide) h

theorem resumeSlot_caused {s x : State} {a0 a1} (h : Caused s x) : Caused s (resumeSlot x a0 a1) :=
  Caused.of_keeps (fun k hk => resumeSlot_keeps (a0 := a0) (a1 := a1) hk (k.same_refl x)) (by decide) h

theorem modJob_caused {s x : State} {a0 a1} (h : Caused s x) : Caused s (modJob x a0 a1) :=
  Caused.of_keeps (fun k hk => modJob_keeps (a0 := a0) (a1 := a1) hk (k.same_refl x)) (by decide) h

theorem finishJob_caused {s x : State} {a0 a1 a2} (h : Caused s x) : Caused s (finishJob x a0 a1 a2) :=
  Caused.of_keeps (fun k hk => finishJob_keeps (a0 := a0) (a1 := a1) (a2 := a2) hk (k.same_refl x)) (by decide) h

theorem startChecks_caused {s x : State} {a0 a1} (h : Caused s x) :
    Caused s (startChecks x a0 a1) := by
  unfold startChecks
  try dsimp -zeta -proj only [upd_last]
  repeat' first
    | with_reducible assumption
    | with_reducible refine modJob_caused ?_
    | with_reducible refine finishJob_caused ?_
    | with_reducible refine modMeas_caused ?_
    | with_reducible refine putLast_caused ?_ ?_
    | with_reducible refine ite_caused ?_ ?_
    | with_reducible refine foldl_caused ?_ (fun t a h => ?_)
    | with_reducible exact setOut_sameJoin _ _ _
    | with_reducible refine sameJoin_of ?_ ?_
    | with_reducible refine And.intro ?_ ?_
    | with_reducible rfl
    | dsimp -proj only
    | split

theorem startEntry_caused {s x : State} {a0 a1} (h : Caused s x) :
    Caused s (startEntry x a0 a1) := by
  unfold startEntry
  try dsimp -zeta -proj only [upd_sched]
  repeat' first
    | with_reducible assumption
    | with_reducible refine modWq_caused ?_
    | with_reducible refine startChecks_caused ?_
    | with_reducible refine setUnit_caused ?_
    | with_reducible refine noteFence_caused ?_
    | with_reducible refine putSched_caused ?_
    | with_reducible refine ite_caused ?_ ?_
    | with_reducible refine foldl_caused ?_ (fun t a h => ?_)
    | with_reducible exact setOut_sameJoin _ _ _
    | with_reducible refine sameJoin_of ?_ ?_
    | with_reducible refine And.intro ?_ ?_
    | with_reducible rfl
    | dsimp -proj only
    | split

theorem runCandidate_caused {s x : State} {a0 a1} (h : Caused s x) (hc : Candidate.caused s a1) : Caused s (runCandidate x a0 a1) := by
  cases a1 with
  | slot n => exact resumeSlot_caused h
  | member i t =>
    have g := hc i t rfl
    unfold runCandidate
    dsimp -zeta -proj only [upd_sched]
    split
    · exact startEntry_caused g
    · exact setUnit_caused (putSched_caused g)

theorem startUrgent_caused {s x : State} {a0} (h : Caused s x) : Caused s (startUrgent x a0) := by
  unfold startUrgent
  split
  · exact runCandidate_caused h (fun _ _ e => by cases e)
  · split
    · rename_i e
      have g : Caused s _ := Caused.of_keeps (fun k hk => oldestUrgent_keeps_eq hk (k.same_refl x) e) (by decide) h
      exact runCandidate_caused h (fun _ _ e => by cases e; exact g)
    · exact h

theorem preempt_caused {s x : State} {a0 a1} (h : Caused s x) :
    Caused s (preempt x a0 a1) := by
  unfold preempt
  repeat' first
    | with_reducible assumption
    | with_reducible refine startUrgent_caused ?_
    | with_reducible refine parkPreempted_caused ?_
    | with_reducible refine setUnit_caused ?_
    | with_reducible refine parkIn_caused ?_
    | with_reducible refine moverBlock_caused ?_
    | with_reducible refine moverBlock_caused_eq ?_ (by with_reducible assumption)
    | with_reducible refine ite_caused ?_ ?_
    | with_reducible refine foldl_caused ?_ (fun t a h => ?_)
    | with_reducible exact setOut_sameJoin _ _ _
    | with_reducible refine sameJoin_of ?_ ?_
    | with_reducible refine And.intro ?_ ?_
    | with_reducible rfl
    | dsimp -proj only
    | split

theorem urgentCandidate_caused {s x : State} {a0} {c} (h : Caused s x) (e : urgentCandidate x a0 = some c) :
    c.caused s := by
  intro i t q
  subst q
  exact Caused.of_keeps (fun k hk => urgentCandidate_keeps hk (k.same_refl x) e i t rfl) (by decide) h

theorem execPreemptFlushDone_caused {s x : State} {a0 a1} (h : Caused s x) :
    ∃ t, execPreemptFlushDone a0 a1 x = .next t ∧ Caused s t := by
  unfold execPreemptFlushDone
  repeat' first
    | with_reducible assumption
    | with_reducible refine done_caused ?_
    | with_reducible refine preempt_caused ?_
    | with_reducible refine urgentCandidate_caused ?_
    | with_reducible refine upset_caused ?_
    | with_reducible refine ite_caused ?_ ?_
    | with_reducible refine foldl_caused ?_ (fun t a h => ?_)
    | with_reducible exact setOut_sameJoin _ _ _
    | with_reducible refine sameJoin_of ?_ ?_
    | with_reducible refine And.intro ?_ ?_
    | with_reducible rfl
    | dsimp -proj only
    | split

theorem execCaptureTrigger_caused {s x : State} {a0 a1} (h : Caused s x) :
    ∃ t, execCaptureTrigger a0 a1 x = .next t ∧ Caused s t := by
  unfold execCaptureTrigger
  repeat' first
    | with_reducible assumption
    | with_reducible refine done_caused ?_
    | with_reducible refine keepJob_caused ?_
    | with_reducible refine ite_caused ?_ ?_
    | with_reducible refine foldl_caused ?_ (fun t a h => ?_)
    | with_reducible exact setOut_sameJoin _ _ _
    | with_reducible refine sameJoin_of ?_ ?_
    | with_reducible refine And.intro ?_ ?_
    | with_reducible rfl
    | dsimp -proj only
    | split

theorem execLnctlRecentre_caused {s x : State} {a0 a1 a2 a3} (h : Caused s x) :
    ∃ t, execLnctlRecentre a0 a1 a2 a3 x = .next t ∧ Caused s t := by
  unfold execLnctlRecentre
  repeat' first
    | with_reducible assumption
    | with_reducible refine done_caused ?_
    | with_reducible refine writeTo_caused ?_
    | with_reducible refine ite_caused ?_ ?_
    | with_reducible refine foldl_caused ?_ (fun t a h => ?_)
    | with_reducible exact setOut_sameJoin _ _ _
    | with_reducible refine sameJoin_of ?_ ?_
    | with_reducible refine And.intro ?_ ?_
    | with_reducible rfl
    | dsimp -proj only
    | split

theorem armCapture_caused {s x : State} {a0 a1} (h : Caused s x) :
    Caused s (armCapture x a0 a1) := by
  unfold armCapture
  repeat' first
    | with_reducible assumption
    | with_reducible refine finishWith_caused ?_
    | with_reducible refine faultJob_caused ?_
    | with_reducible refine keepJob_caused ?_
    | with_reducible refine ite_caused ?_ ?_
    | with_reducible refine foldl_caused ?_ (fun t a h => ?_)
    | with_reducible exact setOut_sameJoin _ _ _
    | with_reducible refine sameJoin_of ?_ ?_
    | with_reducible refine And.intro ?_ ?_
    | with_reducible rfl
    | dsimp -proj only
    | split

theorem execCapture_caused {s x : State} {a0} (h : Caused s x) :
    ∃ t, execCapture a0 x = .next t ∧ Caused s t := by
  unfold execCapture
  repeat' first
    | with_reducible assumption
    | with_reducible refine done_caused ?_
    | with_reducible refine armCapture_caused ?_
    | with_reducible refine ite_caused ?_ ?_
    | with_reducible refine foldl_caused ?_ (fun t a h => ?_)
    | with_reducible exact setOut_sameJoin _ _ _
    | with_reducible refine sameJoin_of ?_ ?_
    | with_reducible refine And.intro ?_ ?_
    | with_reducible rfl
    | dsimp -proj only
    | split

theorem planSet_caused {s x : State} {a0 a1 a2} (h : Caused s x) : Caused s (planSet x a0 a1 a2) :=
  Caused.of_keeps (fun k hk => planSet_keeps (a0 := a0) (a1 := a1) (a2 := a2) hk (k.same_refl x)) (by decide) h

theorem putSet_caused {s x : State} {a0 a1 a2 a3 a4} (h : Caused s x) :
    Caused s (putSet x a0 a1 a2 a3 a4) := by
  unfold putSet
  repeat' first
    | with_reducible assumption
    | with_reducible refine modTr_caused ?_
    | with_reducible refine planSet_caused ?_
    | with_reducible refine ite_caused ?_ ?_
    | with_reducible refine foldl_caused ?_ (fun t a h => ?_)
    | with_reducible exact setOut_sameJoin _ _ _
    | with_reducible refine sameJoin_of ?_ ?_
    | with_reducible refine And.intro ?_ ?_
    | with_reducible rfl
    | dsimp -proj only
    | split

theorem sendTos_caused {s x : State} {a0 a1 a2 a3} (h : Caused s x) :
    Caused s (sendTos x a0 a1 a2 a3) := by
  unfold sendTos
  repeat' first
    | with_reducible assumption
    | with_reducible refine putSet_caused ?_
    | with_reducible refine ite_caused ?_ ?_
    | with_reducible refine foldl_caused ?_ (fun t a h => ?_)
    | with_reducible exact setOut_sameJoin _ _ _
    | with_reducible refine sameJoin_of ?_ ?_
    | with_reducible refine And.intro ?_ ?_
    | with_reducible rfl
    | dsimp -proj only
    | split

theorem execWqDoorbell_caused {s x : State} {a0 a1 a2} (h : Caused s x) :
    ∃ t, execWqDoorbell a0 a1 a2 x = .next t ∧ Caused s t := by
  unfold execWqDoorbell
  repeat' first
    | with_reducible assumption
    | with_reducible refine done_caused ?_
    | with_reducible refine writeTo_caused ?_
    | with_reducible refine ite_caused ?_ ?_
    | with_reducible refine foldl_caused ?_ (fun t a h => ?_)
    | with_reducible exact setOut_sameJoin _ _ _
    | with_reducible refine sameJoin_of ?_ ?_
    | with_reducible refine And.intro ?_ ?_
    | with_reducible rfl
    | dsimp -proj only
    | split

theorem symbolAfterExchange_caused {s x : State} {a0 a1} (h : Caused s x) :
    Caused s (symbolAfterExchange x a0 a1) := by
  unfold symbolAfterExchange
  repeat' first
    | with_reducible assumption
    | with_reducible refine linkSymbol_caused ?_
    | with_reducible refine ite_caused ?_ ?_
    | with_reducible refine foldl_caused ?_ (fun t a h => ?_)
    | with_reducible exact setOut_sameJoin _ _ _
    | with_reducible refine sameJoin_of ?_ ?_
    | with_reducible refine And.intro ?_ ?_
    | with_reducible rfl
    | dsimp -proj only
    | split

theorem badMos_caused {s x : State} {a0} (h : Caused s x) : Caused s (badMos x a0) :=
  Caused.of_keeps (fun k hk => badMos_keeps (a0 := a0) hk (k.same_refl x)) (by decide) h

theorem takeSpareRsp_caused_eq {s x : State} {a0 a1 a2} {u} (h : Caused s x) (e : takeSpareRsp x a0 a1 a2 = some u) :
    Caused s u := by
  unfold takeSpareRsp at e
  split at e
  · cases e
    exact followStandin_caused (ite_caused (swapAck_caused h) (failSwap_caused h))
  · split at e <;> cases e
    exact modLink_caused (sameJoin_of rfl rfl) h

theorem execSpareRspReceived_caused {s x : State} {a0 a1 a2} (h : Caused s x) :
    ∃ t, execSpareRspReceived a0 a1 a2 x = .next t ∧ Caused s t := by
  unfold execSpareRspReceived
  repeat' first
    | with_reducible assumption
    | with_reducible refine done_caused ?_
    | with_reducible refine badMos_caused ?_
    | with_reducible refine getD_caused (fun _ e => takeSpareRsp_caused_eq ?_ e) ?_
    | with_reducible refine takeSpareRsp_caused_eq ?_ (by with_reducible assumption)
    | with_reducible refine ite_caused ?_ ?_
    | with_reducible refine foldl_caused ?_ (fun t a h => ?_)
    | with_reducible exact setOut_sameJoin _ _ _
    | with_reducible refine sameJoin_of ?_ ?_
    | with_reducible refine And.intro ?_ ?_
    | with_reducible rfl
    | dsimp -proj only
    | split

theorem loadQueues_caused {s x : State} (h : Caused s x) : Caused s (loadQueues x) :=
  Caused.of_keeps (fun k hk => loadQueues_keeps hk (k.same_refl x)) (by decide) h

theorem loadPatch_caused {s x : State} (h : Caused s x) : Caused s (loadPatch x) :=
  Caused.of_keeps (fun k hk => loadPatch_keeps hk (k.same_refl x)) (by decide) h

theorem loadWindows_caused {s x : State} (h : Caused s x) : Caused s (loadWindows x) :=
  Caused.of_keeps (fun k hk => loadWindows_keeps hk (k.same_refl x)) (by decide) h

theorem loadSpares_caused {s x : State} (h : Caused s x) :
    Caused s (loadSpares x) := by
  unfold loadSpares
  repeat' first
    | with_reducible assumption
    | with_reducible refine setSpare_caused ?_
    | with_reducible refine ite_caused ?_ ?_
    | with_reducible refine foldl_caused ?_ (fun t a h => ?_)
    | with_reducible exact setOut_sameJoin _ _ _
    | with_reducible refine sameJoin_of ?_ ?_
    | with_reducible refine And.intro ?_ ?_
    | with_reducible rfl
    | dsimp -proj only
    | split

theorem applyGlobal_caused {s x : State} (h : Caused s x) :
    Caused s (applyGlobal x) := by
  unfold applyGlobal
  try dsimp -zeta -proj only [upd_boot_store]
  repeat' first
    | with_reducible assumption
    | with_reducible refine logEvent_caused ?_
    | with_reducible refine loadQueues_caused ?_
    | with_reducible refine loadPatch_caused ?_
    | with_reducible refine loadWindows_caused ?_
    | with_reducible refine loadPrograms_caused ?_
    | with_reducible refine loadSpares_caused ?_
    | with_reducible refine putBoot_caused ?_ ?_
    | with_reducible refine putStore_caused ?_
    | with_reducible refine ite_caused ?_ ?_
    | with_reducible refine foldl_caused ?_ (fun t a h => ?_)
    | with_reducible exact setOut_sameJoin _ _ _
    | with_reducible refine sameJoin_of ?_ ?_
    | with_reducible refine And.intro ?_ ?_
    | with_reducible rfl
    | dsimp -proj only
    | split

theorem execGlobalApply_caused {s x : State} (h : Caused s x) :
    ∃ t, execGlobalApply x = .next t ∧ Caused s t := by
  unfold execGlobalApply
  repeat' first
    | with_reducible assumption
    | with_reducible refine done_caused ?_
    | with_reducible refine applyGlobal_caused ?_
    | with_reducible refine ite_caused ?_ ?_
    | with_reducible refine foldl_caused ?_ (fun t a h => ?_)
    | with_reducible exact setOut_sameJoin _ _ _
    | with_reducible refine sameJoin_of ?_ ?_
    | with_reducible refine And.intro ?_ ?_
    | with_reducible rfl
    | dsimp -proj only
    | split

theorem modSnap_caused {s x : State} {a0 a1 a2} (h : Caused s x) : Caused s (modSnap x a0 a1 a2) :=
  Caused.of_keeps (fun k hk => modSnap_keeps (a0 := a0) (a1 := a1) (a2 := a2) hk (k.same_refl x)) (by decide) h

theorem execSnapshotExpiry_caused {s x : State} {a0 a1} (h : Caused s x) :
    ∃ t, execSnapshotExpiry a0 a1 x = .next t ∧ Caused s t := by
  unfold execSnapshotExpiry
  repeat' first
    | with_reducible assumption
    | with_reducible refine done_caused ?_
    | with_reducible refine modSnap_caused ?_
    | with_reducible refine ite_caused ?_ ?_
    | with_reducible refine foldl_caused ?_ (fun t a h => ?_)
    | with_reducible exact setOut_sameJoin _ _ _
    | with_reducible refine sameJoin_of ?_ ?_
    | with_reducible refine And.intro ?_ ?_
    | with_reducible rfl
    | dsimp -proj only
    | split

theorem logCandidate_caused {s x : State} {a0 a1} (h : Caused s x) : Caused s (logCandidate x a0 a1) :=
  Caused.of_keeps (fun k hk => logCandidate_keeps (a0 := a0) (a1 := a1) hk (k.same_refl x)) (by decide) h

theorem useLast_caused {s x : State} {a0 a1 a2} (h : Caused s x) :
    Caused s (useLast x a0 a1 a2) := by
  unfold useLast
  try dsimp -zeta -proj only [upd_boot_last]
  repeat' first
    | with_reducible assumption
    | with_reducible exact settleAll_any _
    | with_reducible refine settleAll_caused ?_
    | with_reducible refine putBoot_caused ?_ ?_
    | with_reducible refine putLast_caused ?_ ?_
    | with_reducible refine ite_caused ?_ ?_
    | with_reducible refine foldl_caused ?_ (fun t a h => ?_)
    | with_reducible exact setOut_sameJoin _ _ _
    | with_reducible refine sameJoin_of ?_ ?_
    | with_reducible refine And.intro ?_ ?_
    | with_reducible rfl
    | dsimp -proj only
    | split

theorem checkSlot_caused {s x : State} {a0} (h : Caused s x) : Caused s (checkSlot x a0).2 :=
  Caused.of_keeps (fun k hk => checkSlot_keeps (a0 := a0) hk (k.same_refl x)) (by decide) h

theorem checkSlot_caused_eq {s x : State} {a0} {r u} (h : Caused s x) (e : checkSlot x a0 = (r, u)) :
    Caused s u := 
  Caused.of_keeps (fun k hk => checkSlot_keeps_eq (a0 := a0) hk (k.same_refl x) e) (by decide) h

theorem selectLow_caused {s x : State} {a0} (h : Caused s x) :
    Caused s (selectLow x a0) := by
  unfold selectLow
  try dsimp -zeta -proj only [upd_last]
  repeat' first
    | with_reducible assumption
    | with_reducible refine checkSlot_caused ?_
    | with_reducible refine checkSlot_caused_eq ?_ (by with_reducible assumption)
    | with_reducible refine logCandidate_caused ?_
    | with_reducible refine useLast_caused ?_
    | with_reducible refine putLast_caused ?_ ?_
    | with_reducible refine ite_caused ?_ ?_
    | with_reducible refine foldl_caused ?_ (fun t a h => ?_)
    | with_reducible exact setOut_sameJoin _ _ _
    | with_reducible refine sameJoin_of ?_ ?_
    | with_reducible refine And.intro ?_ ?_
    | with_reducible rfl
    | dsimp -proj only
    | split

theorem selectNvm_caused {s x : State} {a0} (h : Caused s x) :
    Caused s (selectNvm x a0) := by
  unfold selectNvm
  try dsimp -zeta -proj only [upd_last]
  repeat' first
    | with_reducible assumption
    | with_reducible refine checkSlot_caused ?_
    | with_reducible refine checkSlot_caused_eq ?_ (by with_reducible assumption)
    | with_reducible refine logCandidate_caused ?_
    | with_reducible refine useLast_caused ?_
    | with_reducible refine selectLow_caused ?_
    | with_reducible refine putLast_caused ?_ ?_
    | with_reducible refine ite_caused ?_ ?_
    | with_reducible refine foldl_caused ?_ (fun t a h => ?_)
    | with_reducible exact setOut_sameJoin _ _ _
    | with_reducible refine sameJoin_of ?_ ?_
    | with_reducible refine And.intro ?_ ?_
    | with_reducible rfl
    | dsimp -proj only
    | split

theorem selectLast_caused {s x : State} (h : Caused s x) :
    Caused s (selectLast x) := by
  unfold selectLast
  try dsimp -zeta -proj only [upd_boot, upd_last]
  repeat' first
    | with_reducible assumption
    | with_reducible refine logCandidate_caused ?_
    | with_reducible refine useLast_caused ?_
    | with_reducible refine selectNvm_caused ?_
    | with_reducible refine putBoot_caused ?_ ?_
    | with_reducible refine putLast_caused ?_ ?_
    | with_reducible refine ite_caused ?_ ?_
    | with_reducible refine foldl_caused ?_ (fun t a h => ?_)
    | with_reducible exact setOut_sameJoin _ _ _
    | with_reducible refine sameJoin_of ?_ ?_
    | with_reducible refine And.intro ?_ ?_
    | with_reducible rfl
    | dsimp -proj only
    | split

theorem predictOne_caused {s x : State} {a0 a1 a2} (h : Caused s x) :
    Caused s (predictOne x a0 a1 a2) := by
  unfold predictOne
  repeat' first
    | with_reducible assumption
    | with_reducible refine beginSwap_caused ?_
    | with_reducible refine modMeas_caused ?_
    | with_reducible refine ite_caused ?_ ?_
    | with_reducible refine foldl_caused ?_ (fun t a h => ?_)
    | with_reducible exact setOut_sameJoin _ _ _
    | with_reducible refine sameJoin_of ?_ ?_
    | with_reducible refine And.intro ?_ ?_
    | with_reducible rfl
    | dsimp -proj only
    | split

theorem execPredictiveEvaluation_caused {s x : State} (h : Caused s x) :
    ∃ t, execPredictiveEvaluation x = .next t ∧ Caused s t := by
  unfold execPredictiveEvaluation
  repeat' first
    | with_reducible assumption
    | with_reducible refine done_caused ?_
    | with_reducible refine predictOne_caused ?_
    | with_reducible refine ite_caused ?_ ?_
    | with_reducible refine foldl_caused ?_ (fun t a h => ?_)
    | with_reducible exact setOut_sameJoin _ _ _
    | with_reducible refine sameJoin_of ?_ ?_
    | with_reducible refine And.intro ?_ ?_
    | with_reducible rfl
    | dsimp -proj only
    | split

theorem modTx_caused {s x : State} {a0 a1 a2} (h : Caused s x) : Caused s (modTx x a0 a1 a2) :=
  Caused.of_keeps (fun k hk => modTx_keeps (a0 := a0) (a1 := a1) (a2 := a2) hk (k.same_refl x)) (by decide) h

theorem logTx_caused {s x : State} {a0 a1 a2 a3} (h : Caused s x) : Caused s (logTx x a0 a1 a2 a3) :=
  Caused.of_keeps (fun k hk => logTx_keeps (a0 := a0) (a1 := a1) (a2 := a2) (a3 := a3) hk (k.same_refl x)) (by decide) h

theorem execSwingLimit_caused {s x : State} {a0 a1 a2} (h : Caused s x) :
    ∃ t, execSwingLimit a0 a1 a2 x = .next t ∧ Caused s t := by
  unfold execSwingLimit
  repeat' first
    | with_reducible assumption
    | with_reducible refine done_caused ?_
    | with_reducible refine modTx_caused ?_
    | with_reducible refine logTx_caused ?_
    | with_reducible refine ite_caused ?_ ?_
    | with_reducible refine foldl_caused ?_ (fun t a h => ?_)
    | with_reducible exact setOut_sameJoin _ _ _
    | with_reducible refine sameJoin_of ?_ ?_
    | with_reducible refine And.intro ?_ ?_
    | with_reducible rfl
    | dsimp -proj only
    | split

theorem abandonPlanned_caused {s x : State} {a0 a1} (h : Caused s x) :
    Caused s (abandonPlanned x a0 a1) := by
  unfold abandonPlanned
  repeat' first
    | with_reducible assumption
    | with_reducible refine restSpare_caused ?_
    | with_reducible refine dropSwap_caused ?_
    | with_reducible refine giveUp_caused ?_
    | with_reducible refine ite_caused ?_ ?_
    | with_reducible refine foldl_caused ?_ (fun t a h => ?_)
    | with_reducible exact setOut_sameJoin _ _ _
    | with_reducible refine sameJoin_of ?_ ?_
    | with_reducible refine And.intro ?_ ?_
    | with_reducible rfl
    | dsimp -proj only
    | split

theorem policySpare_caused {s x : State} {a0 a1 a2} (h : Caused s x) :
    Caused s (policySpare x a0 a1 a2) := by
  unfold policySpare
  repeat' first
    | with_reducible assumption
    | with_reducible refine abandonPlanned_caused ?_
    | with_reducible refine modLink_caused ?_ ?_
    | with_reducible refine lossSpare_caused ?_
    | with_reducible refine ite_caused ?_ ?_
    | with_reducible refine foldl_caused ?_ (fun t a h => ?_)
    | with_reducible exact setOut_sameJoin _ _ _
    | with_reducible refine sameJoin_of ?_ ?_
    | with_reducible refine And.intro ?_ ?_
    | with_reducible rfl
    | dsimp -proj only
    | split

theorem lossPolicy_caused {s x : State} {a0 a1 a2} (h : Caused s x) :
    Caused s (lossPolicy x a0 a1 a2) := by
  unfold lossPolicy
  repeat' first
    | with_reducible assumption
    | with_reducible refine policySpare_caused ?_
    | with_reducible refine lossDegrade_caused ?_
    | with_reducible refine lossDown_caused ?_
    | with_reducible refine ite_caused ?_ ?_
    | with_reducible refine foldl_caused ?_ (fun t a h => ?_)
    | with_reducible exact setOut_sameJoin _ _ _
    | with_reducible refine sameJoin_of ?_ ?_
    | with_reducible refine And.intro ?_ ?_
    | with_reducible rfl
    | dsimp -proj only
    | split

theorem afterLoss_caused {s x : State} {a0 a1 a2} (h : Caused s x) :
    Caused s (afterLoss x a0 a1 a2) := by
  unfold afterLoss
  repeat' first
    | with_reducible assumption
    | with_reducible refine turnSwap_caused ?_
    | with_reducible refine lossPolicy_caused ?_
    | with_reducible refine enterRetrain_caused ?_
    | with_reducible refine requestRetrain_caused ?_
    | with_reducible refine ite_caused ?_ ?_
    | with_reducible refine foldl_caused ?_ (fun t a h => ?_)
    | with_reducible exact setOut_sameJoin _ _ _
    | with_reducible refine sameJoin_of ?_ ?_
    | with_reducible refine And.intro ?_ ?_
    | with_reducible rfl
    | dsimp -proj only
    | split

theorem moveEditLane_caused {s x : State} {a0 a1} (h : Caused s x) :
    Caused s (moveEditLane x a0 a1) := by
  unfold moveEditLane
  repeat' first
    | with_reducible assumption
    | with_reducible refine modLink_caused ?_ ?_
    | with_reducible refine logLane_caused ?_
    | with_reducible refine ite_caused ?_ ?_
    | with_reducible refine foldl_caused ?_ (fun t a h => ?_)
    | with_reducible exact setOut_sameJoin _ _ _
    | with_reducible refine sameJoin_of ?_ ?_
    | with_reducible refine And.intro ?_ ?_
    | with_reducible rfl
    | dsimp -proj only
    | split

theorem afterLosses_caused {s x : State} {a0 a1 a2} (h : Caused s x) :
    Caused s (afterLosses x a0 a1 a2) := by
  unfold afterLosses
  repeat' first
    | with_reducible assumption
    | with_reducible refine afterLoss_caused ?_
    | with_reducible refine moveEditLane_caused ?_
    | with_reducible refine ite_caused ?_ ?_
    | with_reducible refine foldl_caused ?_ (fun t a h => ?_)
    | with_reducible exact setOut_sameJoin _ _ _
    | with_reducible refine sameJoin_of ?_ ?_
    | with_reducible refine And.intro ?_ ?_
    | with_reducible rfl
    | dsimp -proj only
    | split

theorem declareLost_caused {s x : State} {a0 a1 a2 a3} (h : Caused s x) :
    Caused s (declareLost x a0 a1 a2 a3) := by
  unfold declareLost
  repeat' first
    | with_reducible assumption
    | with_reducible refine markLost_caused ?_
    | with_reducible refine afterLosses_caused ?_
    | with_reducible refine ite_caused ?_ ?_
    | with_reducible refine foldl_caused ?_ (fun t a h => ?_)
    | with_reducible exact setOut_sameJoin _ _ _
    | with_reducible refine sameJoin_of ?_ ?_
    | with_reducible refine And.intro ?_ ?_
    | with_reducible rfl
    | dsimp -proj only
    | split

theorem moveForward_caused {s x : State} {a0 a1 a2 a3} (h : Caused s x) :
    Caused s (moveForward x a0 a1 a2 a3) := by
  unfold moveForward
  repeat' first
    | with_reducible assumption
    | with_reducible refine declareLost_caused ?_
    | with_reducible refine setSpare_caused ?_
    | with_reducible refine ite_caused ?_ ?_
    | with_reducible refine foldl_caused ?_ (fun t a h => ?_)
    | with_reducible exact setOut_sameJoin _ _ _
    | with_reducible refine sameJoin_of ?_ ?_
    | with_reducible refine And.intro ?_ ?_
    | with_reducible rfl
    | dsimp -proj only
    | split

theorem passSpare_caused {s x : State} {a0 a1} (h : Caused s x) :
    Caused s (passSpare x a0 a1) := by
  unfold passSpare
  repeat' first
    | with_reducible assumption
    | with_reducible refine restSpare_caused ?_
    | with_reducible refine moveForward_caused ?_
    | with_reducible refine setSpare_caused ?_
    | with_reducible refine ite_caused ?_ ?_
    | with_reducible refine foldl_caused ?_ (fun t a h => ?_)
    | with_reducible exact setOut_sameJoin _ _ _
    | with_reducible refine sameJoin_of ?_ ?_
    | with_reducible refine And.intro ?_ ?_
    | with_reducible rfl
    | dsimp -proj only
    | split

theorem noteMos_caused {s x : State} {a0 a1} (h : Caused s x) :
    Caused s (noteMos x a0 a1) := by
  unfold noteMos
  repeat' first
    | with_reducible assumption
    | with_reducible refine grantSeen_caused ?_
    | with_reducible refine passSpare_caused ?_
    | with_reducible refine ite_caused ?_ ?_
    | with_reducible refine foldl_caused ?_ (fun t a h => ?_)
    | with_reducible exact setOut_sameJoin _ _ _
    | with_reducible refine sameJoin_of ?_ ?_
    | with_reducible refine And.intro ?_ ?_
    | with_reducible rfl
    | dsimp -proj only
    | split

theorem searchEvent_caused {s x : State} {a0 a1 a2} (h : Caused s x) : Caused s (searchEvent x a0 a1 a2) :=
  Caused.of_keeps (fun k hk => searchEvent_keeps (a0 := a0) (a1 := a1) (a2 := a2) hk (k.same_refl x)) (by decide) h

theorem execPresetSearchStep_caused {s x : State} {a0 a1 a2} (h : Caused s x) :
    ∃ t, execPresetSearchStep a0 a1 a2 x = .next t ∧ Caused s t := by
  unfold execPresetSearchStep
  repeat' first
    | with_reducible assumption
    | with_reducible refine done_caused ?_
    | with_reducible refine searchEvent_caused ?_
    | with_reducible refine ite_caused ?_ ?_
    | with_reducible refine foldl_caused ?_ (fun t a h => ?_)
    | with_reducible exact setOut_sameJoin _ _ _
    | with_reducible refine sameJoin_of ?_ ?_
    | with_reducible refine And.intro ?_ ?_
    | with_reducible rfl
    | dsimp -proj only
    | split

theorem laneRestart_caused {s x : State} {a0} (h : Caused s x) :
    Caused s (laneRestart x a0) := by
  unfold laneRestart
  repeat' first
    | with_reducible assumption
    | with_reducible refine modLink_caused ?_ ?_
    | with_reducible refine modRx_caused ?_
    | with_reducible refine dropCdr_caused ?_
    | with_reducible refine checkRecovered_caused ?_
    | with_reducible refine ite_caused ?_ ?_
    | with_reducible refine foldl_caused ?_ (fun t a h => ?_)
    | with_reducible exact setOut_sameJoin _ _ _
    | with_reducible refine sameJoin_of ?_ ?_
    | with_reducible refine And.intro ?_ ?_
    | with_reducible rfl
    | dsimp -proj only
    | split

theorem rollback_caused {s x : State} {a0} (h : Caused s x) :
    Caused s (rollback x a0) := by
  unfold rollback
  repeat' first
    | with_reducible assumption
    | with_reducible refine setResult_caused ?_
    | with_reducible refine takeUp_caused ?_
    | with_reducible refine laneRestart_caused ?_
    | with_reducible refine modLast_caused ?_ ?_
    | with_reducible refine requestRetrain_caused ?_
    | with_reducible refine ite_caused ?_ ?_
    | with_reducible refine foldl_caused ?_ (fun t a h => ?_)
    | with_reducible exact setOut_sameJoin _ _ _
    | with_reducible refine sameJoin_of ?_ ?_
    | with_reducible refine And.intro ?_ ?_
    | with_reducible rfl
    | dsimp -proj only
    | split

theorem modRxs_caused {s x : State} {a0 a1 a2} (h : Caused s x) : Caused s (modRxs x a0 a1 a2) :=
  Caused.of_keeps (fun k hk => modRxs_keeps (a0 := a0) (a1 := a1) (a2 := a2) hk (k.same_refl x)) (by decide) h

theorem enterAlign_caused {s x : State} {a0} (h : Caused s x) :
    Caused s (enterAlign x a0) := by
  unfold enterAlign
  repeat' first
    | with_reducible assumption
    | with_reducible refine modRxs_caused ?_
    | with_reducible refine modLink_caused ?_ ?_
    | with_reducible refine ite_caused ?_ ?_
    | with_reducible refine foldl_caused ?_ (fun t a h => ?_)
    | with_reducible exact setOut_sameJoin _ _ _
    | with_reducible refine sameJoin_of ?_ ?_
    | with_reducible refine And.intro ?_ ?_
    | with_reducible rfl
    | dsimp -proj only
    | split

theorem modJtag_caused {s x : State} {a0} (h : Caused s x) : Caused s (modJtag x a0) :=
  Caused.of_keeps (fun k hk => modJtag_keeps (a0 := a0) hk (k.same_refl x)) (by decide) h

theorem execJtagIdcode_caused {s x : State} (h : Caused s x) :
    ∃ t, execJtagIdcode x = .next t ∧ Caused s t := by
  unfold execJtagIdcode
  repeat' first
    | with_reducible assumption
    | with_reducible refine done_caused ?_
    | with_reducible refine jtagLoad_caused ?_
    | with_reducible refine modJtag_caused ?_
    | with_reducible refine ite_caused ?_ ?_
    | with_reducible refine foldl_caused ?_ (fun t a h => ?_)
    | with_reducible exact setOut_sameJoin _ _ _
    | with_reducible refine sameJoin_of ?_ ?_
    | with_reducible refine And.intro ?_ ?_
    | with_reducible rfl
    | dsimp -proj only
    | split

theorem aligningLost_caused {s x : State} {a0 a1 a2 a3} (h : Caused s x) :
    Caused s (aligningLost x a0 a1 a2 a3) := by
  unfold aligningLost
  repeat' first
    | with_reducible assumption
    | with_reducible refine noteLoss_caused ?_
    | with_reducible refine failSwap_caused ?_
    | with_reducible refine ite_caused ?_ ?_
    | with_reducible refine foldl_caused ?_ (fun t a h => ?_)
    | with_reducible exact setOut_sameJoin _ _ _
    | with_reducible refine sameJoin_of ?_ ?_
    | with_reducible refine And.intro ?_ ?_
    | with_reducible rfl
    | dsimp -proj only
    | split

theorem forwardLost_caused {s x : State} {a0 a1 a2 a3} (h : Caused s x) :
    Caused s (forwardLost x a0 a1 a2 a3) := by
  unfold forwardLost
  repeat' first
    | with_reducible assumption
    | with_reducible refine noteLoss_caused ?_
    | with_reducible refine modRx_caused ?_
    | with_reducible refine setSpare_caused ?_
    | with_reducible refine ite_caused ?_ ?_
    | with_reducible refine foldl_caused ?_ (fun t a h => ?_)
    | with_reducible exact setOut_sameJoin _ _ _
    | with_reducible refine sameJoin_of ?_ ?_
    | with_reducible refine And.intro ?_ ?_
    | with_reducible rfl
    | dsimp -proj only
    | split

theorem rxLost_caused {s x : State} {a0 a1 a2} (h : Caused s x) :
    Caused s (rxLost x a0 a1 a2) := by
  unfold rxLost
  repeat' first
    | with_reducible assumption
    | with_reducible refine aligningLost_caused ?_
    | with_reducible refine forwardLost_caused ?_
    | with_reducible refine declareLost_caused ?_
    | with_reducible refine ite_caused ?_ ?_
    | with_reducible refine foldl_caused ?_ (fun t a h => ?_)
    | with_reducible exact setOut_sameJoin _ _ _
    | with_reducible refine sameJoin_of ?_ ?_
    | with_reducible refine And.intro ?_ ?_
    | with_reducible rfl
    | dsimp -proj only
    | split

theorem takeHops_caused {s x : State} {a0 a1 a2} (h : Caused s x) :
    Caused s (takeHops x a0 a1 a2) := by
  unfold takeHops
  repeat' first
    | with_reducible assumption
    | with_reducible refine modLink_caused ?_ ?_
    | with_reducible refine logK_caused ?_
    | with_reducible refine ite_caused ?_ ?_
    | with_reducible refine foldl_caused ?_ (fun t a h => ?_)
    | with_reducible exact setOut_sameJoin _ _ _
    | with_reducible refine sameJoin_of ?_ ?_
    | with_reducible refine And.intro ?_ ?_
    | with_reducible rfl
    | dsimp -proj only
    | split

theorem seenTos_caused {s x : State} {a0 a1 a2} (h : Caused s x) :
    Caused s (seenTos x a0 a1 a2) := by
  unfold seenTos
  repeat' first
    | with_reducible assumption
    | with_reducible refine modTr_caused ?_
    | with_reducible refine modLink_caused ?_ ?_
    | with_reducible refine enterAlign_caused ?_
    | with_reducible refine ite_caused ?_ ?_
    | with_reducible refine foldl_caused ?_ (fun t a h => ?_)
    | with_reducible exact setOut_sameJoin _ _ _
    | with_reducible refine sameJoin_of ?_ ?_
    | with_reducible refine And.intro ?_ ?_
    | with_reducible rfl
    | dsimp -proj only
    | split

theorem readTosA_caused {s x : State} {a0 a1 a2 a3} (h : Caused s x) :
    Caused s (readTosA x a0 a1 a2 a3) := by
  unfold readTosA
  repeat' first
    | with_reducible assumption
    | with_reducible refine modTr_caused ?_
    | with_reducible refine modLink_caused ?_ ?_
    | with_reducible refine ite_caused ?_ ?_
    | with_reducible refine foldl_caused ?_ (fun t a h => ?_)
    | with_reducible exact setOut_sameJoin _ _ _
    | with_reducible refine sameJoin_of ?_ ?_
    | with_reducible refine And.intro ?_ ?_
    | with_reducible rfl
    | dsimp -proj only
    | split

theorem tosAIn_caused {s x : State} {a0 a1 a2 a3} (h : Caused s x) :
    Caused s (tosAIn x a0 a1 a2 a3) := by
  unfold tosAIn
  repeat' first
    | with_reducible assumption
    | with_reducible refine takeHops_caused ?_
    | with_reducible refine sendTos_caused ?_
    | with_reducible refine seenTos_caused ?_
    | with_reducible refine readTosA_caused ?_
    | with_reducible refine ite_caused ?_ ?_
    | with_reducible refine foldl_caused ?_ (fun t a h => ?_)
    | with_reducible exact setOut_sameJoin _ _ _
    | with_reducible refine sameJoin_of ?_ ?_
    | with_reducible refine And.intro ?_ ?_
    | with_reducible rfl
    | dsimp -proj only
    | split

theorem execJoinTimeout_caused {s x : State} {a0} (h : Caused s x) :
    ∃ t, execJoinTimeout a0 x = .next t ∧ Caused s t := by
  unfold execJoinTimeout
  repeat' first
    | with_reducible assumption
    | with_reducible refine done_caused ?_
    | with_reducible refine logK_caused ?_
    | with_reducible refine startJoin_caused ?_
    | with_reducible refine ite_caused ?_ ?_
    | with_reducible refine foldl_caused ?_ (fun t a h => ?_)
    | with_reducible exact setOut_sameJoin _ _ _
    | with_reducible refine sameJoin_of ?_ ?_
    | with_reducible refine And.intro ?_ ?_
    | with_reducible rfl
    | dsimp -proj only
    | split

theorem execDtrateWrite_caused {s x : State} {a0 a1} (h : Caused s x) :
    ∃ t, execDtrateWrite a0 a1 x = .next t ∧ Caused s t := by
  unfold execDtrateWrite
  repeat' first
    | with_reducible assumption
    | with_reducible refine done_caused ?_
    | with_reducible refine writeTo_caused ?_
    | with_reducible refine ite_caused ?_ ?_
    | with_reducible refine foldl_caused ?_ (fun t a h => ?_)
    | with_reducible exact setOut_sameJoin _ _ _
    | with_reducible refine sameJoin_of ?_ ?_
    | with_reducible refine And.intro ?_ ?_
    | with_reducible rfl
    | dsimp -proj only
    | split

theorem execCounterClr_caused {s x : State} {a0 a1 a2 a3} (h : Caused s x) :
    ∃ t, execCounterClr a0 a1 a2 a3 x = .next t ∧ Caused s t := by
  unfold execCounterClr
  repeat' first
    | with_reducible assumption
    | with_reducible refine done_caused ?_
    | with_reducible refine writeTo_caused ?_
    | with_reducible refine ite_caused ?_ ?_
    | with_reducible refine foldl_caused ?_ (fun t a h => ?_)
    | with_reducible exact setOut_sameJoin _ _ _
    | with_reducible refine sameJoin_of ?_ ?_
    | with_reducible refine And.intro ?_ ?_
    | with_reducible rfl
    | dsimp -proj only
    | split

theorem execJtagClamp_caused {s x : State} (h : Caused s x) :
    ∃ t, execJtagClamp x = .next t ∧ Caused s t := by
  unfold execJtagClamp
  repeat' first
    | with_reducible assumption
    | with_reducible refine done_caused ?_
    | with_reducible refine jtagLoad_caused ?_
    | with_reducible refine ite_caused ?_ ?_
    | with_reducible refine foldl_caused ?_ (fun t a h => ?_)
    | with_reducible exact setOut_sameJoin _ _ _
    | with_reducible refine sameJoin_of ?_ ?_
    | with_reducible refine And.intro ?_ ?_
    | with_reducible rfl
    | dsimp -proj only
    | split

theorem enterExchange_caused {s x : State} {a0} (h : Caused s x) :
    Caused s (enterExchange x a0) := by
  unfold enterExchange
  repeat' first
    | with_reducible assumption
    | with_reducible refine modLink_caused ?_ ?_
    | with_reducible refine ite_caused ?_ ?_
    | with_reducible refine foldl_caused ?_ (fun t a h => ?_)
    | with_reducible exact setOut_sameJoin _ _ _
    | with_reducible refine sameJoin_of ?_ ?_
    | with_reducible refine And.intro ?_ ?_
    | with_reducible rfl
    | dsimp -proj only
    | split

theorem enterLock_caused {s x : State} {a0} (h : Caused s x) :
    Caused s (enterLock x a0) := by
  unfold enterLock
  repeat' first
    | with_reducible assumption
    | with_reducible refine modLink_caused ?_ ?_
    | with_reducible refine endSearches_caused ?_
    | with_reducible refine ite_caused ?_ ?_
    | with_reducible refine foldl_caused ?_ (fun t a h => ?_)
    | with_reducible exact setOut_sameJoin _ _ _
    | with_reducible refine sameJoin_of ?_ ?_
    | with_reducible refine And.intro ?_ ?_
    | with_reducible rfl
    | dsimp -proj only
    | split

theorem startSearches_caused {s x : State} {a0 a1} (h : Caused s x) : Caused s (startSearches x a0 a1) :=
  Caused.of_keeps (fun k hk => startSearches_keeps (a0 := a0) (a1 := a1) hk (k.same_refl x)) (by decide) h

theorem abandonRamps_caused {s x : State} {a0} (h : Caused s x) : Caused s (abandonRamps x a0) :=
  Caused.of_keeps (fun k hk => abandonRamps_keeps (a0 := a0) hk (k.same_refl x)) (by decide) h

theorem enterEq1_caused {s x : State} {a0} (h : Caused s x) :
    Caused s (enterEq1 x a0) := by
  unfold enterEq1
  repeat' first
    | with_reducible assumption
    | with_reducible refine startSearches_caused ?_
    | with_reducible refine modLink_caused ?_ ?_
    | with_reducible refine abandonRamps_caused ?_
    | with_reducible refine ite_caused ?_ ?_
    | with_reducible refine foldl_caused ?_ (fun t a h => ?_)
    | with_reducible exact setOut_sameJoin _ _ _
    | with_reducible refine sameJoin_of ?_ ?_
    | with_reducible refine And.intro ?_ ?_
    | with_reducible rfl
    | dsimp -proj only
    | split

theorem enterEq2_caused {s x : State} {a0} (h : Caused s x) :
    Caused s (enterEq2 x a0) := by
  unfold enterEq2
  repeat' first
    | with_reducible assumption
    | with_reducible refine startSearches_caused ?_
    | with_reducible refine modLink_caused ?_ ?_
    | with_reducible refine endSearches_caused ?_
    | with_reducible refine abandonRamps_caused ?_
    | with_reducible refine ite_caused ?_ ?_
    | with_reducible refine foldl_caused ?_ (fun t a h => ?_)
    | with_reducible exact setOut_sameJoin _ _ _
    | with_reducible refine sameJoin_of ?_ ?_
    | with_reducible refine And.intro ?_ ?_
    | with_reducible rfl
    | dsimp -proj only
    | split

theorem advance06_caused {s x : State} {a0} (h : Caused s x) :
    Caused s (advance06 x a0) := by
  unfold advance06
  repeat' first
    | with_reducible assumption
    | with_reducible refine enterExchange_caused ?_
    | with_reducible refine enterLock_caused ?_
    | with_reducible refine enterEq1_caused ?_
    | with_reducible refine enterEq2_caused ?_
    | with_reducible refine ite_caused ?_ ?_
    | with_reducible refine foldl_caused ?_ (fun t a h => ?_)
    | with_reducible exact setOut_sameJoin _ _ _
    | with_reducible refine sameJoin_of ?_ ?_
    | with_reducible refine And.intro ?_ ?_
    | with_reducible rfl
    | dsimp -proj only
    | split

theorem execLnscanStart_caused {s x : State} {a0 a1 a2 a3} (h : Caused s x) :
    ∃ t, execLnscanStart a0 a1 a2 a3 x = .next t ∧ Caused s t := by
  unfold execLnscanStart
  repeat' first
    | with_reducible assumption
    | with_reducible refine done_caused ?_
    | with_reducible refine writeTo_caused ?_
    | with_reducible refine ite_caused ?_ ?_
    | with_reducible refine foldl_caused ?_ (fun t a h => ?_)
    | with_reducible exact setOut_sameJoin _ _ _
    | with_reducible refine sameJoin_of ?_ ?_
    | with_reducible refine And.intro ?_ ?_
    | with_reducible rfl
    | dsimp -proj only
    | split

theorem execAwlQueue_caused {s x : State} {a0 a1} (h : Caused s x) :
    ∃ t, execAwlQueue a0 a1 x = .next t ∧ Caused s t := by
  unfold execAwlQueue
  repeat' first
    | with_reducible assumption
    | with_reducible refine done_caused ?_
    | with_reducible refine writeTo_caused ?_
    | with_reducible refine ite_caused ?_ ?_
    | with_reducible refine foldl_caused ?_ (fun t a h => ?_)
    | with_reducible exact setOut_sameJoin _ _ _
    | with_reducible refine sameJoin_of ?_ ?_
    | with_reducible refine And.intro ?_ ?_
    | with_reducible rfl
    | dsimp -proj only
    | split

theorem fullUnit_caused {s x : State} (h : Caused s x) : Caused s (fullUnit x) :=
  Caused.of_keeps (fun k hk => fullUnit_keeps hk (k.same_refl x)) (by decide) h

theorem recalStep_caused {s x : State} {a0} (h : Caused s x) :
    Caused s (recalStep x a0) := by
  unfold recalStep
  repeat' first
    | with_reducible assumption
    | with_reducible refine fullUnit_caused ?_
    | with_reducible refine followStandin_caused ?_
    | with_reducible refine setStage_caused ?_
    | with_reducible refine stillUnit_caused ?_
    | with_reducible refine endRecal_caused ?_
    | with_reducible refine nextRecal_caused ?_
    | with_reducible refine keepUnit_caused ?_
    | with_reducible refine ite_caused ?_ ?_
    | with_reducible refine foldl_caused ?_ (fun t a h => ?_)
    | with_reducible exact setOut_sameJoin _ _ _
    | with_reducible refine sameJoin_of ?_ ?_
    | with_reducible refine And.intro ?_ ?_
    | with_reducible rfl
    | dsimp -proj only
    | split

theorem execRecalStep_caused {s x : State} {a0} (h : Caused s x) :
    ∃ t, execRecalStep a0 x = .next t ∧ Caused s t := by
  unfold execRecalStep
  repeat' first
    | with_reducible assumption
    | with_reducible refine done_caused ?_
    | with_reducible refine recalStep_caused ?_
    | with_reducible refine ite_caused ?_ ?_
    | with_reducible refine foldl_caused ?_ (fun t a h => ?_)
    | with_reducible exact setOut_sameJoin _ _ _
    | with_reducible refine sameJoin_of ?_ ?_
    | with_reducible refine And.intro ?_ ?_
    | with_reducible rfl
    | dsimp -proj only
    | split

theorem staleMos_caused {s x : State} {a0} (h : Caused s x) : Caused s (staleMos x a0) :=
  Caused.of_keeps (fun k hk => staleMos_keeps (a0 := a0) hk (k.same_refl x)) (by decide) h

theorem laneZeroIdle_caused {s x : State} {a0 a1} (h : Caused s x) :
    Caused s (laneZeroIdle x a0 a1) := by
  unfold laneZeroIdle
  repeat' first
    | with_reducible assumption
    | with_reducible refine enterDisabled_caused ?_
    | with_reducible refine modLink_caused ?_ ?_
    | with_reducible refine enterDetect_caused ?_
    | with_reducible refine ite_caused ?_ ?_
    | with_reducible refine foldl_caused ?_ (fun t a h => ?_)
    | with_reducible exact setOut_sameJoin _ _ _
    | with_reducible refine sameJoin_of ?_ ?_
    | with_reducible refine And.intro ?_ ?_
    | with_reducible rfl
    | dsimp -proj only
    | split

theorem execElectricalIdleDetected_caused {s x : State} {a0 a1} (h : Caused s x) :
    ∃ t, execElectricalIdleDetected a0 a1 x = .next t ∧ Caused s t := by
  unfold execElectricalIdleDetected
  repeat' first
    | with_reducible assumption
    | with_reducible refine done_caused ?_
    | with_reducible refine modRx_caused ?_
    | with_reducible refine laneZeroIdle_caused ?_
    | with_reducible refine ite_caused ?_ ?_
    | with_reducible refine foldl_caused ?_ (fun t a h => ?_)
    | with_reducible exact setOut_sameJoin _ _ _
    | with_reducible refine sameJoin_of ?_ ?_
    | with_reducible refine And.intro ?_ ?_
    | with_reducible rfl
    | dsimp -proj only
    | split

theorem holdSet_caused {s x : State} {a0 a1 a2} (h : Caused s x) : Caused s (holdSet x a0 a1 a2) :=
  Caused.of_keeps (fun k hk => holdSet_keeps (a0 := a0) (a1 := a1) (a2 := a2) hk (k.same_refl x)) (by decide) h

theorem writeRecord_caused {s x : State} {a0} (h : Caused s x) : Caused s (writeRecord x a0) :=
  Caused.of_keeps (fun k hk => writeRecord_keeps (a0 := a0) hk (k.same_refl x)) (by decide) h

theorem execCalrecWrite_caused {s x : State} {a0} (h : Caused s x) :
    ∃ t, execCalrecWrite a0 x = .next t ∧ Caused s t := by
  unfold execCalrecWrite
  repeat' first
    | with_reducible assumption
    | with_reducible refine done_caused ?_
    | with_reducible refine ownDone_caused ?_
    | with_reducible refine writeRecord_caused ?_
    | with_reducible refine ite_caused ?_ ?_
    | with_reducible refine foldl_caused ?_ (fun t a h => ?_)
    | with_reducible exact setOut_sameJoin _ _ _
    | with_reducible refine sameJoin_of ?_ ?_
    | with_reducible refine And.intro ?_ ?_
    | with_reducible rfl
    | dsimp -proj only
    | split

theorem execCqDisable_caused {s x : State} {a0 a1 a2} (h : Caused s x) :
    ∃ t, execCqDisable a0 a1 a2 x = .next t ∧ Caused s t := by
  unfold execCqDisable
  repeat' first
    | with_reducible assumption
    | with_reducible refine done_caused ?_
    | with_reducible refine writeTo_caused ?_
    | with_reducible refine ite_caused ?_ ?_
    | with_reducible refine foldl_caused ?_ (fun t a h => ?_)
    | with_reducible exact setOut_sameJoin _ _ _
    | with_reducible refine sameJoin_of ?_ ?_
    | with_reducible refine And.intro ?_ ?_
    | with_reducible rfl
    | dsimp -proj only
    | split

theorem logWork_caused {s x : State} {a0} (h : Caused s x) : Caused s (logWork x a0) :=
  Caused.of_keeps (fun k hk => logWork_keeps (a0 := a0) hk (k.same_refl x)) (by decide) h

theorem execNvmLogWrite_caused {s x : State} {a0} (h : Caused s x) :
    ∃ t, execNvmLogWrite a0 x = .next t ∧ Caused s t := by
  unfold execNvmLogWrite
  repeat' first
    | with_reducible assumption
    | with_reducible refine done_caused ?_
    | with_reducible refine ownDone_caused ?_
    | with_reducible refine logWork_caused ?_
    | with_reducible refine ite_caused ?_ ?_
    | with_reducible refine foldl_caused ?_ (fun t a h => ?_)
    | with_reducible exact setOut_sameJoin _ _ _
    | with_reducible refine sameJoin_of ?_ ?_
    | with_reducible refine And.intro ?_ ?_
    | with_reducible rfl
    | dsimp -proj only
    | split

theorem execTrainingSweepEnd_caused {s x : State} {a0 a1 a2 a3} (h : Caused s x) :
    ∃ t, execTrainingSweepEnd a0 a1 a2 a3 x = .next t ∧ Caused s t := by
  unfold execTrainingSweepEnd
  repeat' first
    | with_reducible assumption
    | with_reducible refine done_caused ?_
    | with_reducible refine modMeas_caused ?_
    | with_reducible refine ite_caused ?_ ?_
    | with_reducible refine foldl_caused ?_ (fun t a h => ?_)
    | with_reducible exact setOut_sameJoin _ _ _
    | with_reducible refine sameJoin_of ?_ ?_
    | with_reducible refine And.intro ?_ ?_
    | with_reducible rfl
    | dsimp -proj only
    | split

theorem modPower_caused {s x : State} {f : Power → Power}
    (g : (f x.power).valid = x.power.valid ∧ (f x.power).pumpReady = x.power.pumpReady) (h : Caused s x) :
    Caused s (modPower x f) := putPower_caused h g

theorem execWeltCauseClears_caused {s x : State} {a0} (h : Caused s x) :
    ∃ t, execWeltCauseClears a0 x = .next t ∧ Caused s t := by
  unfold execWeltCauseClears
  repeat' first
    | with_reducible assumption
    | with_reducible exact settle_any _
    | with_reducible refine done_caused ?_
    | with_reducible refine settle_caused ?_
    | with_reducible refine modPower_caused ?_ ?_
    | with_reducible refine modPins_caused ?_ ?_
    | with_reducible refine ite_caused ?_ ?_
    | with_reducible refine foldl_caused ?_ (fun t a h => ?_)
    | with_reducible exact setOut_sameJoin _ _ _
    | with_reducible refine sameJoin_of ?_ ?_
    | with_reducible refine And.intro ?_ ?_
    | with_reducible rfl
    | dsimp -proj only
    | split

theorem execRegWrite_caused {s x : State} {a0 a1 a2 a3} (h : Caused s x) :
    ∃ t, execRegWrite a0 a1 a2 a3 x = .next t ∧ Caused s t := by
  unfold execRegWrite
  repeat' first
    | with_reducible assumption
    | with_reducible refine done_caused ?_
    | with_reducible refine busWrite_caused ?_
    | with_reducible refine upset_caused ?_
    | with_reducible refine ite_caused ?_ ?_
    | with_reducible refine foldl_caused ?_ (fun t a h => ?_)
    | with_reducible exact setOut_sameJoin _ _ _
    | with_reducible refine sameJoin_of ?_ ?_
    | with_reducible refine And.intro ?_ ?_
    | with_reducible rfl
    | dsimp -proj only
    | split

theorem execPrbsGenEnable_caused {s x : State} {a0 a1 a2 a3} (h : Caused s x) :
    ∃ t, execPrbsGenEnable a0 a1 a2 a3 x = .next t ∧ Caused s t := by
  unfold execPrbsGenEnable
  repeat' first
    | with_reducible assumption
    | with_reducible refine done_caused ?_
    | with_reducible refine writeTo_caused ?_
    | with_reducible refine ite_caused ?_ ?_
    | with_reducible refine foldl_caused ?_ (fun t a h => ?_)
    | with_reducible exact setOut_sameJoin _ _ _
    | with_reducible refine sameJoin_of ?_ ?_
    | with_reducible refine And.intro ?_ ?_
    | with_reducible rfl
    | dsimp -proj only
    | split

theorem stopPrbs_caused {s x : State} {a0 a1 a2} (h : Caused s x) : Caused s (stopPrbs x a0 a1 a2) :=
  Caused.of_keeps (fun k hk => stopPrbs_keeps (a0 := a0) (a1 := a1) (a2 := a2) hk (k.same_refl x)) (by decide) h

theorem execCalcmdSave_caused {s x : State} {a0 a1} (h : Caused s x) :
    ∃ t, execCalcmdSave a0 a1 x = .next t ∧ Caused s t := by
  unfold execCalcmdSave
  repeat' first
    | with_reducible assumption
    | with_reducible refine done_caused ?_
    | with_reducible refine writeTo_caused ?_
    | with_reducible refine ite_caused ?_ ?_
    | with_reducible refine foldl_caused ?_ (fun t a h => ?_)
    | with_reducible exact setOut_sameJoin _ _ _
    | with_reducible refine sameJoin_of ?_ ?_
    | with_reducible refine And.intro ?_ ?_
    | with_reducible rfl
    | dsimp -proj only
    | split

theorem execLnkctlDisable_caused {s x : State} {a0 a1 a2} (h : Caused s x) :
    ∃ t, execLnkctlDisable a0 a1 a2 x = .next t ∧ Caused s t := by
  unfold execLnkctlDisable
  repeat' first
    | with_reducible assumption
    | with_reducible refine done_caused ?_
    | with_reducible refine writeTo_caused ?_
    | with_reducible refine ite_caused ?_ ?_
    | with_reducible refine foldl_caused ?_ (fun t a h => ?_)
    | with_reducible exact setOut_sameJoin _ _ _
    | with_reducible refine sameJoin_of ?_ ?_
    | with_reducible refine And.intro ?_ ?_
    | with_reducible rfl
    | dsimp -proj only
    | split

theorem execSwingRaise_caused {s x : State} {a0 a1 a2} (h : Caused s x) :
    ∃ t, execSwingRaise a0 a1 a2 x = .next t ∧ Caused s t := by
  unfold execSwingRaise
  repeat' first
    | with_reducible assumption
    | with_reducible refine done_caused ?_
    | with_reducible refine modTx_caused ?_
    | with_reducible refine ite_caused ?_ ?_
    | with_reducible refine foldl_caused ?_ (fun t a h => ?_)
    | with_reducible exact setOut_sameJoin _ _ _
    | with_reducible refine sameJoin_of ?_ ?_
    | with_reducible refine And.intro ?_ ?_
    | with_reducible rfl
    | dsimp -proj only
    | split

theorem execSpareMosForwarded_caused {s x : State} {a0 a1} (h : Caused s x) :
    ∃ t, execSpareMosForwarded a0 a1 x = .next t ∧ Caused s t := by
  unfold execSpareMosForwarded
  repeat' first
    | with_reducible assumption
    | with_reducible refine done_caused ?_
    | with_reducible refine passSpare_caused ?_
    | with_reducible refine ite_caused ?_ ?_
    | with_reducible refine foldl_caused ?_ (fun t a h => ?_)
    | with_reducible exact setOut_sameJoin _ _ _
    | with_reducible refine sameJoin_of ?_ ?_
    | with_reducible refine And.intro ?_ ?_
    | with_reducible rfl
    | dsimp -proj only
    | split

theorem execPrbsJobInject_caused {s x : State} {a0 a1} (h : Caused s x) :
    ∃ t, execPrbsJobInject a0 a1 x = .next t ∧ Caused s t := by
  unfold execPrbsJobInject
  repeat' first
    | with_reducible assumption
    | with_reducible refine done_caused ?_
    | with_reducible refine injectOne_caused ?_
    | with_reducible refine ite_caused ?_ ?_
    | with_reducible refine foldl_caused ?_ (fun t a h => ?_)
    | with_reducible exact setOut_sameJoin _ _ _
    | with_reducible refine sameJoin_of ?_ ?_
    | with_reducible refine And.intro ?_ ?_
    | with_reducible rfl
    | dsimp -proj only
    | split

theorem modPrbsJob_caused {s x : State} {a0 a1 a2} (h : Caused s x) : Caused s (modPrbsJob x a0 a1 a2) :=
  Caused.of_keeps (fun k hk => modPrbsJob_keeps (a0 := a0) (a1 := a1) (a2 := a2) hk (k.same_refl x)) (by decide) h

theorem execPrbsCheckerLock_caused {s x : State} {a0 a1} (h : Caused s x) :
    ∃ t, execPrbsCheckerLock a0 a1 x = .next t ∧ Caused s t := by
  unfold execPrbsCheckerLock
  repeat' first
    | with_reducible assumption
    | with_reducible refine done_caused ?_
    | with_reducible refine modMeas_caused ?_
    | with_reducible refine modPrbsJob_caused ?_
    | with_reducible refine ite_caused ?_ ?_
    | with_reducible refine foldl_caused ?_ (fun t a h => ?_)
    | with_reducible exact setOut_sameJoin _ _ _
    | with_reducible refine sameJoin_of ?_ ?_
    | with_reducible refine And.intro ?_ ?_
    | with_reducible rfl
    | dsimp -proj only
    | split

theorem execTestEnHigh_caused {s x : State} (h : Caused s x) :
    ∃ t, execTestEnHigh x = .next t ∧ Caused s t := by
  unfold execTestEnHigh
  try dsimp -zeta -proj only [upd_boot_twb]
  repeat' first
    | with_reducible assumption
    | with_reducible exact settle_any _
    | with_reducible refine done_caused ?_
    | with_reducible refine settle_caused ?_
    | with_reducible refine modPins_caused ?_ ?_
    | with_reducible refine putBoot_caused ?_ ?_
    | with_reducible refine putTwb_caused ?_
    | with_reducible refine ite_caused ?_ ?_
    | with_reducible refine foldl_caused ?_ (fun t a h => ?_)
    | with_reducible exact setOut_sameJoin _ _ _
    | with_reducible refine sameJoin_of ?_ ?_
    | with_reducible refine And.intro ?_ ?_
    | with_reducible rfl
    | dsimp -proj only
    | split

theorem restoreLane_caused {s x : State} {a0 a1 a2} (h : Caused s x) :
    Caused s (restoreLane x a0 a1 a2) := by
  unfold restoreLane
  repeat' first
    | with_reducible assumption
    | with_reducible refine setLost_caused ?_
    | with_reducible refine logLane_caused ?_
    | with_reducible refine checkRecovered_caused ?_
    | with_reducible refine ite_caused ?_ ?_
    | with_reducible refine foldl_caused ?_ (fun t a h => ?_)
    | with_reducible exact setOut_sameJoin _ _ _
    | with_reducible refine sameJoin_of ?_ ?_
    | with_reducible refine And.intro ?_ ?_
    | with_reducible rfl
    | dsimp -proj only
    | split

theorem logL_caused {s x : State} {a0 a1 a2 a3} (h : Caused s x) : Caused s (logL x a0 a1 a2 a3) :=
  Caused.of_keeps (fun k hk => logL_keeps (a0 := a0) (a1 := a1) (a2 := a2) (a3 := a3) hk (k.same_refl x)) (by decide) h

theorem watchForward_caused {s x : State} {a0 a1 a2} (h : Caused s x) :
    Caused s (watchForward x a0 a1 a2) := by
  unfold watchForward
  repeat' first
    | with_reducible assumption
    | with_reducible refine modRx_caused ?_
    | with_reducible refine logLane_caused ?_
    | with_reducible refine setSpare_caused ?_
    | with_reducible refine ite_caused ?_ ?_
    | with_reducible refine foldl_caused ?_ (fun t a h => ?_)
    | with_reducible exact setOut_sameJoin _ _ _
    | with_reducible refine sameJoin_of ?_ ?_
    | with_reducible refine And.intro ?_ ?_
    | with_reducible rfl
    | dsimp -proj only
    | split

theorem watchSkew_caused {s x : State} {a0 a1 a2} (h : Caused s x) :
    Caused s (watchSkew x a0 a1 a2) := by
  unfold watchSkew
  repeat' first
    | with_reducible assumption
    | with_reducible refine restoreLane_caused ?_
    | with_reducible refine logL_caused ?_
    | with_reducible refine modRx_caused ?_
    | with_reducible refine watchForward_caused ?_
    | with_reducible refine requestRetrain_caused ?_
    | with_reducible refine ite_caused ?_ ?_
    | with_reducible refine foldl_caused ?_ (fun t a h => ?_)
    | with_reducible exact setOut_sameJoin _ _ _
    | with_reducible refine sameJoin_of ?_ ?_
    | with_reducible refine And.intro ?_ ?_
    | with_reducible rfl
    | dsimp -proj only
    | split

theorem fillSkip_caused {s x : State} {a0 a1 a2} (h : Caused s x) : Caused s (fillSkip x a0 a1 a2) :=
  Caused.of_keeps (fun k hk => fillSkip_keeps (a0 := a0) (a1 := a1) (a2 := a2) hk (k.same_refl x)) (by decide) h

theorem editSet_caused {s x : State} {a0 a1 a2} (h : Caused s x) : Caused s (editSet x a0 a1 a2).2 :=
  Caused.of_keeps (fun k hk => editSet_keeps (a0 := a0) (a1 := a1) (a2 := a2) hk (k.same_refl x)) (by decide) h

theorem editSet_caused_eq {s x : State} {a0 a1 a2} {r u} (h : Caused s x) (e : editSet x a0 a1 a2 = (r, u)) :
    Caused s u := 
  Caused.of_keeps (fun k hk => editSet_keeps_eq (a0 := a0) (a1 := a1) (a2 := a2) hk (k.same_refl x) e) (by decide) h

theorem receiveSwitch_caused {s x : State} {a0 a1} (h : Caused s x) :
    Caused s (receiveSwitch x a0 a1) := by
  unfold receiveSwitch
  repeat' first
    | with_reducible assumption
    | with_reducible refine moveHold_caused ?_
    | with_reducible refine modLink_caused ?_ ?_
    | with_reducible refine setLost_caused ?_
    | with_reducible refine checkRecovered_caused ?_
    | with_reducible refine sendSpare_caused ?_
    | with_reducible refine ite_caused ?_ ?_
    | with_reducible refine foldl_caused ?_ (fun t a h => ?_)
    | with_reducible exact setOut_sameJoin _ _ _
    | with_reducible refine sameJoin_of ?_ ?_
    | with_reducible refine And.intro ?_ ?_
    | with_reducible rfl
    | dsimp -proj only
    | split

theorem swapSkip_caused {s x : State} {a0 a1 a2} (h : Caused s x) :
    Caused s (swapSkip x a0 a1 a2) := by
  unfold swapSkip
  repeat' first
    | with_reducible assumption
    | with_reducible refine modLink_caused ?_ ?_
    | with_reducible refine receiveSwitch_caused ?_
    | with_reducible refine failSwap_caused ?_
    | with_reducible refine setSpare_caused ?_
    | with_reducible refine ite_caused ?_ ?_
    | with_reducible refine foldl_caused ?_ (fun t a h => ?_)
    | with_reducible exact setOut_sameJoin _ _ _
    | with_reducible refine sameJoin_of ?_ ?_
    | with_reducible refine And.intro ?_ ?_
    | with_reducible rfl
    | dsimp -proj only
    | split

theorem execSkipSetArrives_caused {s x : State} {a0 a1 a2} (h : Caused s x) :
    ∃ t, execSkipSetArrives a0 a1 a2 x = .next t ∧ Caused s t := by
  unfold execSkipSetArrives
  repeat' first
    | with_reducible assumption
    | with_reducible refine done_caused ?_
    | with_reducible refine watchSkew_caused ?_
    | with_reducible refine fillSkip_caused ?_
    | with_reducible refine editSet_caused ?_
    | with_reducible refine editSet_caused_eq ?_ (by with_reducible assumption)
    | with_reducible refine swapSkip_caused ?_
    | with_reducible refine symbolAfterExchange_caused ?_
    | with_reducible refine ite_caused ?_ ?_
    | with_reducible refine foldl_caused ?_ (fun t a h => ?_)
    | with_reducible exact setOut_sameJoin _ _ _
    | with_reducible refine sameJoin_of ?_ ?_
    | with_reducible refine And.intro ?_ ?_
    | with_reducible rfl
    | dsimp -proj only
    | split

theorem holdLoop_caused {s x : State} {a0 a1} (h : Caused s x) : Caused s (holdLoop x a0 a1) :=
  Caused.of_keeps (fun k hk => holdLoop_keeps (a0 := a0) (a1 := a1) hk (k.same_refl x)) (by decide) h

theorem releaseForward_caused {s x : State} {a0 a1} (h : Caused s x) :
    Caused s (releaseForward x a0 a1) := by
  unfold releaseForward
  repeat' first
    | with_reducible assumption
    | with_reducible refine restSpare_caused ?_
    | with_reducible refine ite_caused ?_ ?_
    | with_reducible refine foldl_caused ?_ (fun t a h => ?_)
    | with_reducible exact setOut_sameJoin _ _ _
    | with_reducible refine sameJoin_of ?_ ?_
    | with_reducible refine And.intro ?_ ?_
    | with_reducible rfl
    | dsimp -proj only
    | split

theorem symLossRetrain_caused {s x : State} {a0 a1} (h : Caused s x) :
    Caused s (symLossRetrain x a0 a1) := by
  unfold symLossRetrain
  repeat' first
    | with_reducible assumption
    | with_reducible refine enterRetrain_caused ?_
    | with_reducible refine ite_caused ?_ ?_
    | with_reducible refine foldl_caused ?_ (fun t a h => ?_)
    | with_reducible exact setOut_sameJoin _ _ _
    | with_reducible refine sameJoin_of ?_ ?_
    | with_reducible refine And.intro ?_ ?_
    | with_reducible rfl
    | dsimp -proj only
    | split

theorem execCdrLockLost_caused {s x : State} {a0 a1} (h : Caused s x) :
    ∃ t, execCdrLockLost a0 a1 x = .next t ∧ Caused s t := by
  unfold execCdrLockLost
  repeat' first
    | with_reducible assumption
    | with_reducible refine done_caused ?_
    | with_reducible refine holdLoop_caused ?_
    | with_reducible refine rxLost_caused ?_
    | with_reducible refine releaseForward_caused ?_
    | with_reducible refine symLossRetrain_caused ?_
    | with_reducible refine dropCdr_caused ?_
    | with_reducible refine ite_caused ?_ ?_
    | with_reducible refine foldl_caused ?_ (fun t a h => ?_)
    | with_reducible exact setOut_sameJoin _ _ _
    | with_reducible refine sameJoin_of ?_ ?_
    | with_reducible refine And.intro ?_ ?_
    | with_reducible rfl
    | dsimp -proj only
    | split

theorem visitLine_caused {s x : State} (h : Caused s x) : Caused s (visitLine x) :=
  Caused.of_keeps (fun k hk => visitLine_keeps hk (k.same_refl x)) (by decide) h

theorem execLntxdrvWrite_caused {s x : State} {a0 a1 a2 a3} (h : Caused s x) :
    ∃ t, execLntxdrvWrite a0 a1 a2 a3 x = .next t ∧ Caused s t := by
  unfold execLntxdrvWrite
  repeat' first
    | with_reducible assumption
    | with_reducible refine done_caused ?_
    | with_reducible refine writeTo_caused ?_
    | with_reducible refine ite_caused ?_ ?_
    | with_reducible refine foldl_caused ?_ (fun t a h => ?_)
    | with_reducible exact setOut_sameJoin _ _ _
    | with_reducible refine sameJoin_of ?_ ?_
    | with_reducible refine And.intro ?_ ?_
    | with_reducible rfl
    | dsimp -proj only
    | split

theorem execCalcmdGo_caused {s x : State} {a0 a1} (h : Caused s x) :
    ∃ t, execCalcmdGo a0 a1 x = .next t ∧ Caused s t := by
  unfold execCalcmdGo
  repeat' first
    | with_reducible assumption
    | with_reducible refine done_caused ?_
    | with_reducible refine writeTo_caused ?_
    | with_reducible refine ite_caused ?_ ?_
    | with_reducible refine foldl_caused ?_ (fun t a h => ?_)
    | with_reducible exact setOut_sameJoin _ _ _
    | with_reducible refine sameJoin_of ?_ ?_
    | with_reducible refine And.intro ?_ ?_
    | with_reducible rfl
    | dsimp -proj only
    | split

theorem execMove_caused {s x : State} {a0 a1} (h : Caused s x) :
    ∃ t, execMove a0 a1 x = .next t ∧ Caused s t := by
  unfold execMove
  repeat' first
    | with_reducible assumption
    | with_reducible refine done_caused ?_
    | with_reducible refine runBlock_caused ?_
    | with_reducible refine upset_caused ?_
    | with_reducible refine ite_caused ?_ ?_
    | with_reducible refine foldl_caused ?_ (fun t a h => ?_)
    | with_reducible exact setOut_sameJoin _ _ _
    | with_reducible refine sameJoin_of ?_ ?_
    | with_reducible refine And.intro ?_ ?_
    | with_reducible rfl
    | dsimp -proj only
    | split

theorem dropSpare_caused {s x : State} {a0 a1} (h : Caused s x) :
    Caused s (dropSpare x a0 a1) := by
  unfold dropSpare
  repeat' first
    | with_reducible assumption
    | with_reducible refine modLink_caused ?_ ?_
    | with_reducible refine ite_caused ?_ ?_
    | with_reducible refine foldl_caused ?_ (fun t a h => ?_)
    | with_reducible exact setOut_sameJoin _ _ _
    | with_reducible refine sameJoin_of ?_ ?_
    | with_reducible refine And.intro ?_ ?_
    | with_reducible rfl
    | dsimp -proj only
    | split

theorem calibrateLanes_caused {s x : State} {a0 a1 a2} (h : Caused s x) : Caused s (calibrateLanes x a0 a1 a2) :=
  Caused.of_keeps (fun k hk => calibrateLanes_keeps (a0 := a0) (a1 := a1) (a2 := a2) hk (k.same_refl x)) (by decide) h

theorem putSnapshot_caused {s x : State} {a0 a1 a2} (h : Caused s x) :
    Caused s (putSnapshot x a0 a1 a2) := by
  unfold putSnapshot
  repeat' first
    | with_reducible assumption
    | with_reducible refine finishWith_caused ?_
    | with_reducible refine putData_caused ?_
    | with_reducible refine putData_caused_eq ?_ (by with_reducible assumption)
    | with_reducible refine ite_caused ?_ ?_
    | with_reducible refine foldl_caused ?_ (fun t a h => ?_)
    | with_reducible exact setOut_sameJoin _ _ _
    | with_reducible refine sameJoin_of ?_ ?_
    | with_reducible refine And.intro ?_ ?_
    | with_reducible rfl
    | dsimp -proj only
    | split

theorem addressByte_caused {s x : State} {a0 a1} (h : Caused s x) : Caused s (addressByte x a0 a1) :=
  Caused.of_keeps (fun k hk => addressByte_keeps (a0 := a0) (a1 := a1) hk (k.same_refl x)) (by decide) h

theorem trimStep_caused {s x : State} {a0 a1 a2} (h : Caused s x) : Caused s (trimStep x a0 a1 a2) :=
  Caused.of_keeps (fun k hk => trimStep_keeps (a0 := a0) (a1 := a1) (a2 := a2) hk (k.same_refl x)) (by decide) h

theorem execTrimRampStep_caused {s x : State} {a0 a1 a2} (h : Caused s x) :
    ∃ t, execTrimRampStep a0 a1 a2 x = .next t ∧ Caused s t := by
  unfold execTrimRampStep
  repeat' first
    | with_reducible assumption
    | with_reducible refine done_caused ?_
    | with_reducible refine trimStep_caused ?_
    | with_reducible refine ite_caused ?_ ?_
    | with_reducible refine foldl_caused ?_ (fun t a h => ?_)
    | with_reducible exact setOut_sameJoin _ _ _
    | with_reducible refine sameJoin_of ?_ ?_
    | with_reducible refine And.intro ?_ ?_
    | with_reducible rfl
    | dsimp -proj only
    | split

theorem restoreTransparent_caused {s x : State} {a0 a1} (h : Caused s x) :
    Caused s (restoreTransparent x a0 a1) := by
  unfold restoreTransparent
  repeat' first
    | with_reducible assumption
    | with_reducible refine restoreLane_caused ?_
    | with_reducible refine ite_caused ?_ ?_
    | with_reducible refine foldl_caused ?_ (fun t a h => ?_)
    | with_reducible exact setOut_sameJoin _ _ _
    | with_reducible refine sameJoin_of ?_ ?_
    | with_reducible refine And.intro ?_ ?_
    | with_reducible rfl
    | dsimp -proj only
    | split

theorem padInstead_caused {s x : State} {a0 a1} (h : Caused s x) :
    Caused s (padInstead x a0 a1) := by
  unfold padInstead
  repeat' first
    | with_reducible assumption
    | with_reducible refine setSent_caused ?_
    | with_reducible refine planOwn_caused ?_
    | with_reducible refine ite_caused ?_ ?_
    | with_reducible refine foldl_caused ?_ (fun t a h => ?_)
    | with_reducible exact setOut_sameJoin _ _ _
    | with_reducible refine sameJoin_of ?_ ?_
    | with_reducible refine And.intro ?_ ?_
    | with_reducible rfl
    | dsimp -proj only
    | split

theorem serveWr_caused {s x : State} {a0 a1} (h : Caused s x) :
    Caused s (serveWr x a0 a1).2 := by
  unfold serveWr
  repeat' first
    | with_reducible assumption
    | with_reducible refine writeOpen_caused ?_
    | with_reducible refine logDenied_caused ?_
    | with_reducible refine ite_caused ?_ ?_
    | with_reducible refine foldl_caused ?_ (fun t a h => ?_)
    | with_reducible exact setOut_sameJoin _ _ _
    | with_reducible refine sameJoin_of ?_ ?_
    | with_reducible refine And.intro ?_ ?_
    | with_reducible rfl
    | dsimp -proj only
    | split

theorem serveWr_caused_eq {s x : State} {a0 a1} {r u} (h : Caused s x) (e : serveWr x a0 a1 = (r, u)) :
    Caused s u := by
  simpa only [e] using serveWr_caused (s := s) (x := x) (a0 := a0) (a1 := a1) h

theorem serveRd_caused {s x : State} {a0 a1} (h : Caused s x) : Caused s (serveRd x a0 a1).2 :=
  Caused.of_keeps (fun k hk => serveRd_keeps (a0 := a0) (a1 := a1) hk (k.same_refl x)) (by decide) h

theorem serveRd_caused_eq {s x : State} {a0 a1} {r u} (h : Caused s x) (e : serveRd x a0 a1 = (r, u)) :
    Caused s u := 
  Caused.of_keeps (fun k hk => serveRd_keeps_eq (a0 := a0) (a1 := a1) hk (k.same_refl x) e) (by decide) h

theorem queueResponse_caused {s x : State} {a0 a1} (h : Caused s x) :
    Caused s (queueResponse x a0 a1) := by
  unfold queueResponse
  repeat' first
    | with_reducible assumption
    | with_reducible refine queueMos_caused ?_
    | with_reducible refine ite_caused ?_ ?_
    | with_reducible refine foldl_caused ?_ (fun t a h => ?_)
    | with_reducible exact setOut_sameJoin _ _ _
    | with_reducible refine sameJoin_of ?_ ?_
    | with_reducible refine And.intro ?_ ?_
    | with_reducible rfl
    | dsimp -proj only
    | split

theorem execute_caused {s x : State} {a0 a1 a2} (h : Caused s x) :
    Caused s (execute x a0 a1 a2) := by
  unfold execute
  repeat' first
    | with_reducible assumption
    | with_reducible refine serveWr_caused ?_
    | with_reducible refine serveWr_caused_eq ?_ (by with_reducible assumption)
    | with_reducible refine modSeq_caused ?_
    | with_reducible refine serveRd_caused ?_
    | with_reducible refine serveRd_caused_eq ?_ (by with_reducible assumption)
    | with_reducible refine queueResponse_caused ?_
    | with_reducible refine ite_caused ?_ ?_
    | with_reducible refine foldl_caused ?_ (fun t a h => ?_)
    | with_reducible exact setOut_sameJoin _ _ _
    | with_reducible refine sameJoin_of ?_ ?_
    | with_reducible refine And.intro ?_ ?_
    | with_reducible rfl
    | dsimp -proj only
    | split

theorem replay_caused {s x : State} {a0 a1 a2} (h : Caused s x) :
    Caused s (replay x a0 a1 a2) := by
  unfold replay
  repeat' first
    | with_reducible assumption
    | with_reducible refine queueResponse_caused ?_
    | with_reducible refine ite_caused ?_ ?_
    | with_reducible refine foldl_caused ?_ (fun t a h => ?_)
    | with_reducible exact setOut_sameJoin _ _ _
    | with_reducible refine sameJoin_of ?_ ?_
    | with_reducible refine And.intro ?_ ?_
    | with_reducible rfl
    | dsimp -proj only
    | split

theorem dropped_caused {s x : State} {a0} (h : Caused s x) : Caused s (dropped x a0) :=
  Caused.of_keeps (fun k hk => dropped_keeps (a0 := a0) hk (k.same_refl x)) (by decide) h

theorem request_caused {s x : State} {a0 a1 a2} (h : Caused s x) :
    Caused s (request x a0 a1 a2) := by
  unfold request
  repeat' first
    | with_reducible assumption
    | with_reducible refine execute_caused ?_
    | with_reducible refine replay_caused ?_
    | with_reducible refine dropped_caused ?_
    | with_reducible refine staleMos_caused ?_
    | with_reducible refine ite_caused ?_ ?_
    | with_reducible refine foldl_caused ?_ (fun t a h => ?_)
    | with_reducible exact setOut_sameJoin _ _ _
    | with_reducible refine sameJoin_of ?_ ?_
    | with_reducible refine And.intro ?_ ?_
    | with_reducible rfl
    | dsimp -proj only
    | split

theorem consumeMos_caused {s x : State} {a0 a1 a2} (h : Caused s x) :
    Caused s (consumeMos x a0 a1 a2) := by
  unfold consumeMos
  repeat' first
    | with_reducible assumption
    | with_reducible refine badMos_caused ?_
    | with_reducible refine request_caused ?_
    | with_reducible refine getD_caused (fun _ e => takeSpareRsp_caused_eq ?_ e) ?_
    | with_reducible refine takeSpareRsp_caused_eq ?_ (by with_reducible assumption)
    | with_reducible refine queueResponse_caused ?_
    | with_reducible refine queueMos_caused ?_
    | with_reducible refine noteMos_caused ?_
    | with_reducible refine ite_caused ?_ ?_
    | with_reducible refine foldl_caused ?_ (fun t a h => ?_)
    | with_reducible exact setOut_sameJoin _ _ _
    | with_reducible refine sameJoin_of ?_ ?_
    | with_reducible refine And.intro ?_ ?_
    | with_reducible rfl
    | dsimp -proj only
    | split

theorem crcMos_caused {s x : State} {a0} (h : Caused s x) : Caused s (crcMos x a0) :=
  Caused.of_keeps (fun k hk => crcMos_keeps (a0 := a0) hk (k.same_refl x)) (by decide) h

theorem mosIn_caused {s x : State} {a0 a1 a2} (h : Caused s x) :
    Caused s (mosIn x a0 a1 a2) := by
  unfold mosIn
  repeat' first
    | with_reducible assumption
    | with_reducible refine padInstead_caused ?_
    | with_reducible refine consumeMos_caused ?_
    | with_reducible refine crcMos_caused ?_
    | with_reducible refine setSent_caused ?_
    | with_reducible refine noteMos_caused ?_
    | with_reducible refine ite_caused ?_ ?_
    | with_reducible refine foldl_caused ?_ (fun t a h => ?_)
    | with_reducible exact setOut_sameJoin _ _ _
    | with_reducible refine sameJoin_of ?_ ?_
    | with_reducible refine And.intro ?_ ?_
    | with_reducible rfl
    | dsimp -proj only
    | split

theorem execMosReceived_caused {s x : State} {a0 a1 a2 a3} (h : Caused s x) :
    ∃ t, execMosReceived a0 a1 a2 a3 x = .next t ∧ Caused s t := by
  unfold execMosReceived
  repeat' first
    | with_reducible assumption
    | with_reducible refine done_caused ?_
    | with_reducible refine mosIn_caused ?_
    | with_reducible refine upset_caused ?_
    | with_reducible refine ite_caused ?_ ?_
    | with_reducible refine foldl_caused ?_ (fun t a h => ?_)
    | with_reducible exact setOut_sameJoin _ _ _
    | with_reducible refine sameJoin_of ?_ ?_
    | with_reducible refine And.intro ?_ ?_
    | with_reducible rfl
    | dsimp -proj only
    | split

theorem takeLinkRate_caused {s x : State} {a0 a1} (h : Caused s x) :
    Caused s (takeLinkRate x a0 a1) := by
  unfold takeLinkRate
  repeat' first
    | with_reducible assumption
    | with_reducible refine modLink_caused ?_ ?_
    | with_reducible refine logK_caused ?_
    | with_reducible refine ite_caused ?_ ?_
    | with_reducible refine foldl_caused ?_ (fun t a h => ?_)
    | with_reducible exact setOut_sameJoin _ _ _
    | with_reducible refine sameJoin_of ?_ ?_
    | with_reducible refine And.intro ?_ ?_
    | with_reducible rfl
    | dsimp -proj only
    | split

theorem execDtimeLoadNow_caused {s x : State} {a0 a1} (h : Caused s x) :
    ∃ t, execDtimeLoadNow a0 a1 x = .next t ∧ Caused s t := by
  unfold execDtimeLoadNow
  repeat' first
    | with_reducible assumption
    | with_reducible refine done_caused ?_
    | with_reducible refine writeTo_caused ?_
    | with_reducible refine ite_caused ?_ ?_
    | with_reducible refine foldl_caused ?_ (fun t a h => ?_)
    | with_reducible exact setOut_sameJoin _ _ _
    | with_reducible refine sameJoin_of ?_ ?_
    | with_reducible refine And.intro ?_ ?_
    | with_reducible rfl
    | dsimp -proj only
    | split

theorem joinLink_caused {s x : State} {a0} (j : (getLink x a0).join = .joining) (h : Caused s x) : Caused s (joinLink x a0) := by
  unfold joinLink
  have k : Caused s (modLink x a0 fun k => { k with join := .joined, joinSeen := false }) :=
    modLink_caused ⟨by rw [j]; rfl, rfl⟩ h
  dsimp only
  split
  · exact enterDetect_caused k
  · exact checkRecovered_caused (modLink_caused ⟨rfl, rfl⟩ k)

theorem joinIfOpen_caused {s x : State} {a0} (h : Caused s x) : Caused s (joinIfOpen x a0) := by
  unfold joinIfOpen
  split
  · rename_i j
    rw [Bool.and_eq_true] at j
    exact joinLink_caused (beq_iff_eq.mp j.1) h
  · exact h

theorem openConfirmed_caused {s x : State} {a0} (h : Caused s x) :
    Caused s (openConfirmed x a0) := by
  unfold openConfirmed
  try dsimp -zeta -proj only [upd_welt]
  repeat' first
    | with_reducible assumption
    | with_reducible refine modTx_caused ?_
    | with_reducible refine joinIfOpen_caused ?_
    | with_reducible refine putWelt_caused ?_ ?_
    | with_reducible refine ite_caused ?_ ?_
    | with_reducible refine foldl_caused ?_ (fun t a h => ?_)
    | with_reducible exact setOut_sameJoin _ _ _
    | with_reducible refine sameJoin_of ?_ ?_
    | with_reducible refine And.intro ?_ ?_
    | with_reducible rfl
    | dsimp -proj only
    | split

theorem modWin_caused {s x : State} {a0 a1} (h : Caused s x) : Caused s (modWin x a0 a1) :=
  Caused.of_keeps (fun k hk => modWin_keeps (a0 := a0) (a1 := a1) hk (k.same_refl x)) (by decide) h

theorem drainEnd_caused {s x : State} {a0} (h : Caused s x) : Caused s (drainEnd x a0) :=
  Caused.of_keeps (fun k hk => drainEnd_keeps (a0 := a0) hk (k.same_refl x)) (by decide) h

theorem homeStandins_caused {s x : State} (h : Caused s x) :
    Caused s (homeStandins x) := by
  unfold homeStandins
  repeat' first
    | with_reducible assumption
    | with_reducible refine beginSwap_caused ?_
    | with_reducible refine ite_caused ?_ ?_
    | with_reducible refine foldl_caused ?_ (fun t a h => ?_)
    | with_reducible exact setOut_sameJoin _ _ _
    | with_reducible refine sameJoin_of ?_ ?_
    | with_reducible refine And.intro ?_ ?_
    | with_reducible rfl
    | dsimp -proj only
    | split

theorem execRecalAborted_caused {s x : State} (h : Caused s x) :
    ∃ t, execRecalAborted x = .next t ∧ Caused s t := by
  unfold execRecalAborted
  repeat' first
    | with_reducible assumption
    | with_reducible refine done_caused ?_
    | with_reducible refine homeStandins_caused ?_
    | with_reducible refine abortRecal_caused ?_
    | with_reducible refine ite_caused ?_ ?_
    | with_reducible refine foldl_caused ?_ (fun t a h => ?_)
    | with_reducible exact setOut_sameJoin _ _ _
    | with_reducible refine sameJoin_of ?_ ?_
    | with_reducible refine And.intro ?_ ?_
    | with_reducible rfl
    | dsimp -proj only
    | split

theorem tick_caused {s x : State} (h : Caused s x) : Caused s (tick x) :=
  Caused.of_keeps (fun k hk => tick_keeps hk (k.same_refl x)) (by decide) h

theorem execVioSplitThreshold_caused {s x : State} (h : Caused s x) :
    ∃ t, execVioSplitThreshold x = .next t ∧ Caused s t := by
  unfold execVioSplitThreshold
  repeat' first
    | with_reducible assumption
    | with_reducible refine done_caused ?_
    | with_reducible refine modPower_caused ?_ ?_
    | with_reducible refine ite_caused ?_ ?_
    | with_reducible refine foldl_caused ?_ (fun t a h => ?_)
    | with_reducible exact setOut_sameJoin _ _ _
    | with_reducible refine sameJoin_of ?_ ?_
    | with_reducible refine And.intro ?_ ?_
    | with_reducible rfl
    | dsimp -proj only
    | split

theorem resendRelease_caused {s x : State} {a0 a1 a2} (h : Caused s x) :
    Caused s (resendRelease x a0 a1 a2) := by
  unfold resendRelease
  repeat' first
    | with_reducible assumption
    | with_reducible refine dropSpare_caused ?_
    | with_reducible refine modLink_caused ?_ ?_
    | with_reducible refine joinOut_caused ?_
    | with_reducible refine ite_caused ?_ ?_
    | with_reducible refine foldl_caused ?_ (fun t a h => ?_)
    | with_reducible exact setOut_sameJoin _ _ _
    | with_reducible refine sameJoin_of ?_ ?_
    | with_reducible refine And.intro ?_ ?_
    | with_reducible rfl
    | dsimp -proj only
    | split

theorem lostPage_caused {s x : State} {a0 a1 a2 a3} (h : Caused s x) : Caused s (lostPage x a0 a1 a2 a3) :=
  Caused.of_keeps (fun k hk => lostPage_keeps (a0 := a0) (a1 := a1) (a2 := a2) (a3 := a3) hk (k.same_refl x)) (by decide) h

theorem execCaptureLostPage_caused {s x : State} {a0} (h : Caused s x) :
    ∃ t, execCaptureLostPage a0 x = .next t ∧ Caused s t := by
  unfold execCaptureLostPage
  repeat' first
    | with_reducible assumption
    | with_reducible refine done_caused ?_
    | with_reducible refine lostPage_caused ?_
    | with_reducible refine ite_caused ?_ ?_
    | with_reducible refine foldl_caused ?_ (fun t a h => ?_)
    | with_reducible exact setOut_sameJoin _ _ _
    | with_reducible refine sameJoin_of ?_ ?_
    | with_reducible refine And.intro ?_ ?_
    | with_reducible rfl
    | dsimp -proj only
    | split

theorem readRecord_caused {s x : State} {a0} (h : Caused s x) : Caused s (readRecord x a0).2 :=
  Caused.of_keeps (fun k hk => readRecord_keeps (a0 := a0) hk (k.same_refl x)) (by decide) h

theorem readRecord_caused_eq {s x : State} {a0} {r u} (h : Caused s x) (e : readRecord x a0 = (r, u)) :
    Caused s u := 
  Caused.of_keeps (fun k hk => readRecord_keeps_eq (a0 := a0) hk (k.same_refl x) e) (by decide) h

theorem staleAll_caused {s x : State} (h : Caused s x) : Caused s (staleAll x) :=
  Caused.of_keeps (fun k hk => staleAll_keeps hk (k.same_refl x)) (by decide) h

theorem modLane_caused {s x : State} {a0 a1 a2} (h : Caused s x) : Caused s (modLane x a0 a1 a2) :=
  Caused.of_keeps (fun k hk => modLane_keeps (a0 := a0) (a1 := a1) (a2 := a2) hk (k.same_refl x)) (by decide) h

theorem calibrate_caused {s x : State} {a0} (h : Caused s x) :
    Caused s (calibrate x a0) := by
  unfold calibrate
  try dsimp -zeta -proj only [upd_boot_cal]
  repeat' first
    | with_reducible assumption
    | with_reducible refine logEvent_caused ?_
    | with_reducible refine readRecord_caused ?_
    | with_reducible refine readRecord_caused_eq ?_ (by with_reducible assumption)
    | with_reducible refine staleAll_caused ?_
    | with_reducible refine modLane_caused ?_
    | with_reducible refine lockPlls_caused ?_
    | with_reducible refine calibrateLanes_caused ?_
    | with_reducible refine putBoot_caused ?_ ?_
    | with_reducible refine putCal_caused ?_
    | with_reducible refine ite_caused ?_ ?_
    | with_reducible refine foldl_caused ?_ (fun t a h => ?_)
    | with_reducible exact setOut_sameJoin _ _ _
    | with_reducible refine sameJoin_of ?_ ?_
    | with_reducible refine And.intro ?_ ?_
    | with_reducible rfl
    | dsimp -proj only
    | split

theorem execBootCalibration_caused {s x : State} {a0} (h : Caused s x) :
    ∃ t, execBootCalibration a0 x = .next t ∧ Caused s t := by
  unfold execBootCalibration
  repeat' first
    | with_reducible assumption
    | with_reducible refine done_caused ?_
    | with_reducible refine calibrate_caused ?_
    | with_reducible refine ite_caused ?_ ?_
    | with_reducible refine foldl_caused ?_ (fun t a h => ?_)
    | with_reducible exact setOut_sameJoin _ _ _
    | with_reducible refine sameJoin_of ?_ ?_
    | with_reducible refine And.intro ?_ ?_
    | with_reducible rfl
    | dsimp -proj only
    | split

theorem sleepDir_caused {s x : State} {a0 a1} (h : Caused s x) : Caused s (sleepDir x a0 a1) :=
  Caused.of_keeps (fun k hk => sleepDir_keeps (a0 := a0) (a1 := a1) hk (k.same_refl x)) (by decide) h

theorem idleEntry_caused {s x : State} {a0 a1} (h : Caused s x) :
    Caused s (idleEntry x a0 a1) := by
  unfold idleEntry
  repeat' first
    | with_reducible assumption
    | with_reducible refine modLink_caused ?_ ?_
    | with_reducible refine enterRetrain_caused ?_
    | with_reducible refine sleepDir_caused ?_
    | with_reducible refine ite_caused ?_ ?_
    | with_reducible refine foldl_caused ?_ (fun t a h => ?_)
    | with_reducible exact setOut_sameJoin _ _ _
    | with_reducible refine sameJoin_of ?_ ?_
    | with_reducible refine And.intro ?_ ?_
    | with_reducible rfl
    | dsimp -proj only
    | split

theorem execDevctlThermRearm_caused {s x : State} {a0 a1} (h : Caused s x) :
    ∃ t, execDevctlThermRearm a0 a1 x = .next t ∧ Caused s t := by
  unfold execDevctlThermRearm
  repeat' first
    | with_reducible assumption
    | with_reducible refine done_caused ?_
    | with_reducible refine writeTo_caused ?_
    | with_reducible refine ite_caused ?_ ?_
    | with_reducible refine foldl_caused ?_ (fun t a h => ?_)
    | with_reducible exact setOut_sameJoin _ _ _
    | with_reducible refine sameJoin_of ?_ ?_
    | with_reducible refine And.intro ?_ ?_
    | with_reducible rfl
    | dsimp -proj only
    | split

theorem revertWorse_caused {s x : State} {a0} (h : Caused s x) : Caused s (revertWorse x a0) :=
  Caused.of_keeps (fun k hk => revertWorse_keeps (a0 := a0) hk (k.same_refl x)) (by decide) h

theorem qualityCheck_caused {s x : State} {a0 a1 a2 a3} (h : Caused s x) :
    Caused s (qualityCheck x a0 a1 a2 a3) := by
  unfold qualityCheck
  repeat' first
    | with_reducible assumption
    | with_reducible refine revertWorse_caused ?_
    | with_reducible refine followStandin_caused ?_
    | with_reducible refine setStage_caused ?_
    | with_reducible refine endRecal_caused ?_
    | with_reducible refine nextRecal_caused ?_
    | with_reducible refine keepUnit_caused ?_
    | with_reducible refine ite_caused ?_ ?_
    | with_reducible refine foldl_caused ?_ (fun t a h => ?_)
    | with_reducible exact setOut_sameJoin _ _ _
    | with_reducible refine sameJoin_of ?_ ?_
    | with_reducible refine And.intro ?_ ?_
    | with_reducible rfl
    | dsimp -proj only
    | split

theorem execPllRelockAttempt_caused {s x : State} {a0 a1} (h : Caused s x) :
    ∃ t, execPllRelockAttempt a0 a1 x = .next t ∧ Caused s t := by
  unfold execPllRelockAttempt
  try dsimp -zeta -proj only [upd_power]
  repeat' first
    | with_reducible assumption
    | with_reducible refine done_caused ?_
    | with_reducible refine restoreTransparent_caused ?_
    | with_reducible refine lockPlls_caused ?_
    | with_reducible refine putPower_caused ?_ ?_
    | with_reducible refine ite_caused ?_ ?_
    | with_reducible refine foldl_caused ?_ (fun t a h => ?_)
    | with_reducible exact setOut_sameJoin _ _ _
    | with_reducible refine sameJoin_of ?_ ?_
    | with_reducible refine And.intro ?_ ?_
    | with_reducible rfl
    | dsimp -proj only
    | split

theorem execReceiverDetect_caused {s x : State} {a0 a1 a2} (h : Caused s x) :
    ∃ t, execReceiverDetect a0 a1 a2 x = .next t ∧ Caused s t := by
  unfold execReceiverDetect
  repeat' first
    | with_reducible assumption
    | with_reducible refine done_caused ?_
    | with_reducible refine modLink_caused ?_ ?_
    | with_reducible refine ite_caused ?_ ?_
    | with_reducible refine foldl_caused ?_ (fun t a h => ?_)
    | with_reducible exact setOut_sameJoin _ _ _
    | with_reducible refine sameJoin_of ?_ ?_
    | with_reducible refine And.intro ?_ ?_
    | with_reducible rfl
    | dsimp -proj only
    | split

theorem programChecks_caused {s x : State} {a0 a1} (h : Caused s x) : Caused s (programChecks x a0 a1) :=
  Caused.of_keeps (fun k hk => programChecks_keeps (a0 := a0) (a1 := a1) hk (k.same_refl x)) (by decide) h

theorem programBlock_caused {s x : State} {a0 a1} (h : Caused s x) :
    Caused s (programBlock x a0 a1) := by
  unfold programBlock
  repeat' first
    | with_reducible assumption
    | with_reducible refine faultJob_caused ?_
    | with_reducible refine programChecks_caused ?_
    | with_reducible refine jobRead_caused ?_
    | with_reducible refine jobRead_caused_eq ?_ (by with_reducible assumption)
    | with_reducible refine keepJob_caused ?_
    | with_reducible refine ite_caused ?_ ?_
    | with_reducible refine foldl_caused ?_ (fun t a h => ?_)
    | with_reducible exact setOut_sameJoin _ _ _
    | with_reducible refine sameJoin_of ?_ ?_
    | with_reducible refine And.intro ?_ ?_
    | with_reducible rfl
    | dsimp -proj only
    | split

theorem execNvmProgram_caused {s x : State} {a0} (h : Caused s x) :
    ∃ t, execNvmProgram a0 x = .next t ∧ Caused s t := by
  unfold execNvmProgram
  repeat' first
    | with_reducible assumption
    | with_reducible refine done_caused ?_
    | with_reducible refine programBlock_caused ?_
    | with_reducible refine ownDone_caused ?_
    | with_reducible refine upset_caused ?_
    | with_reducible refine ite_caused ?_ ?_
    | with_reducible refine foldl_caused ?_ (fun t a h => ?_)
    | with_reducible exact setOut_sameJoin _ _ _
    | with_reducible refine sameJoin_of ?_ ?_
    | with_reducible refine And.intro ?_ ?_
    | with_reducible rfl
    | dsimp -proj only
    | split

theorem execLnkctlRetrain_caused {s x : State} {a0 a1 a2} (h : Caused s x) :
    ∃ t, execLnkctlRetrain a0 a1 a2 x = .next t ∧ Caused s t := by
  unfold execLnkctlRetrain
  repeat' first
    | with_reducible assumption
    | with_reducible refine done_caused ?_
    | with_reducible refine writeTo_caused ?_
    | with_reducible refine ite_caused ?_ ?_
    | with_reducible refine foldl_caused ?_ (fun t a h => ?_)
    | with_reducible exact setOut_sameJoin _ _ _
    | with_reducible refine sameJoin_of ?_ ?_
    | with_reducible refine And.intro ?_ ?_
    | with_reducible rfl
    | dsimp -proj only
    | split

theorem railOutside_caused {s x : State} {a0} (h : Caused s x) :
    Caused s (railOutside x a0) := by
  unfold railOutside
  try dsimp -zeta -proj only [upd_evt]
  repeat' first
    | with_reducible assumption
    | with_reducible refine logEvent_caused ?_
    | with_reducible refine modPower_caused ?_ ?_
    | with_reducible refine putEvt_caused ?_
    | with_reducible refine ite_caused ?_ ?_
    | with_reducible refine foldl_caused ?_ (fun t a h => ?_)
    | with_reducible exact setOut_sameJoin _ _ _
    | with_reducible refine sameJoin_of ?_ ?_
    | with_reducible refine And.intro ?_ ?_
    | with_reducible rfl
    | dsimp -proj only
    | split

theorem execSupplyOutOfWindow_caused {s x : State} {a0} (h : Caused s x) :
    ∃ t, execSupplyOutOfWindow a0 x = .next t ∧ Caused s t := by
  unfold execSupplyOutOfWindow
  repeat' first
    | with_reducible assumption
    | with_reducible refine done_caused ?_
    | with_reducible refine railOutside_caused ?_
    | with_reducible refine ite_caused ?_ ?_
    | with_reducible refine foldl_caused ?_ (fun t a h => ?_)
    | with_reducible exact setOut_sameJoin _ _ _
    | with_reducible refine sameJoin_of ?_ ?_
    | with_reducible refine And.intro ?_ ?_
    | with_reducible rfl
    | dsimp -proj only
    | split

theorem execChargePumpReady_caused {s x : State} (h : Caused s x) :
    ∃ t, execChargePumpReady x = .next t ∧ Caused s t := by
  unfold execChargePumpReady
  repeat' first
    | with_reducible assumption
    | with_reducible exact settle_any _
    | with_reducible refine done_caused ?_
    | with_reducible refine settle_caused ?_
    | with_reducible refine modPower_caused ?_ ?_
    | with_reducible refine ite_caused ?_ ?_
    | with_reducible refine foldl_caused ?_ (fun t a h => ?_)
    | with_reducible exact setOut_sameJoin _ _ _
    | with_reducible refine sameJoin_of ?_ ?_
    | with_reducible refine And.intro ?_ ?_
    | with_reducible rfl
    | dsimp -proj only
    | split

theorem programUnit_caused {s x : State} {a0 a1 a2} (h : Caused s x) : Caused s (programUnit x a0 a1 a2) :=
  Caused.of_keeps (fun k hk => programUnit_keeps (a0 := a0) (a1 := a1) (a2 := a2) hk (k.same_refl x)) (by decide) h

theorem ownUnit_caused {s x : State} {a0 a1 a2} (h : Caused s x) : Caused s (ownUnit x a0 a1 a2) :=
  Caused.of_keeps (fun k hk => ownUnit_keeps (a0 := a0) (a1 := a1) (a2 := a2) hk (k.same_refl x)) (by decide) h

theorem execNvmUnitProgrammed_caused {s x : State} {a0} (h : Caused s x) :
    ∃ t, execNvmUnitProgrammed a0 x = .next t ∧ Caused s t := by
  unfold execNvmUnitProgrammed
  repeat' first
    | with_reducible assumption
    | with_reducible refine programUnit_caused ?_
    | with_reducible refine ownUnit_caused ?_
    | with_reducible refine done_caused ?_
    | with_reducible refine ite_caused ?_ ?_
    | with_reducible refine foldl_caused ?_ (fun t a h => ?_)
    | with_reducible exact setOut_sameJoin _ _ _
    | with_reducible refine sameJoin_of ?_ ?_
    | with_reducible refine And.intro ?_ ?_
    | with_reducible rfl
    | dsimp -proj only
    | split

theorem execBootDone_caused {s x : State} (h : Caused s x) :
    ∃ t, execBootDone x = .next t ∧ Caused s t := by
  unfold execBootDone
  try dsimp -zeta -proj only [upd_boot]
  repeat' first
    | with_reducible assumption
    | with_reducible exact settle_any _
    | with_reducible refine done_caused ?_
    | with_reducible refine settle_caused ?_
    | with_reducible refine putBoot_caused ?_ ?_
    | with_reducible refine ite_caused ?_ ?_
    | with_reducible refine foldl_caused ?_ (fun t a h => ?_)
    | with_reducible exact setOut_sameJoin _ _ _
    | with_reducible refine sameJoin_of ?_ ?_
    | with_reducible refine And.intro ?_ ?_
    | with_reducible rfl
    | dsimp -proj only
    | split

theorem execLoopNearParallel_caused {s x : State} {a0 a1 a2 a3} (h : Caused s x) :
    ∃ t, execLoopNearParallel a0 a1 a2 a3 x = .next t ∧ Caused s t := by
  unfold execLoopNearParallel
  repeat' first
    | with_reducible assumption
    | with_reducible refine done_caused ?_
    | with_reducible refine writeTo_caused ?_
    | with_reducible refine ite_caused ?_ ?_
    | with_reducible refine foldl_caused ?_ (fun t a h => ?_)
    | with_reducible exact setOut_sameJoin _ _ _
    | with_reducible refine sameJoin_of ?_ ?_
    | with_reducible refine And.intro ?_ ?_
    | with_reducible rfl
    | dsimp -proj only
    | split

theorem execMosRd_caused {s x : State} {a0 a1 a2 a3 a4 a5} (h : Caused s x) :
    ∃ t, execMosRd a0 a1 a2 a3 a4 a5 x = .next t ∧ Caused s t := by
  unfold execMosRd
  repeat' first
    | with_reducible assumption
    | with_reducible refine done_caused ?_
    | with_reducible refine mosIn_caused ?_
    | with_reducible refine upset_caused ?_
    | with_reducible refine ite_caused ?_ ?_
    | with_reducible refine foldl_caused ?_ (fun t a h => ?_)
    | with_reducible exact setOut_sameJoin _ _ _
    | with_reducible refine sameJoin_of ?_ ?_
    | with_reducible refine And.intro ?_ ?_
    | with_reducible rfl
    | dsimp -proj only
    | split

theorem execImcSend_caused {s x : State} (h : Caused s x) :
    ∃ t, execImcSend x = .next t ∧ Caused s t := by
  unfold execImcSend
  repeat' first
    | with_reducible assumption
    | with_reducible refine done_caused ?_
    | with_reducible refine sendStart_caused ?_
    | with_reducible refine ite_caused ?_ ?_
    | with_reducible refine foldl_caused ?_ (fun t a h => ?_)
    | with_reducible exact setOut_sameJoin _ _ _
    | with_reducible refine sameJoin_of ?_ ?_
    | with_reducible refine And.intro ?_ ?_
    | with_reducible rfl
    | dsimp -proj only
    | split

theorem endFence_caused {s x : State} {a0} (h : Caused s x) : Caused s (endFence x a0) :=
  Caused.of_keeps (fun k hk => endFence_keeps (a0 := a0) hk (k.same_refl x)) (by decide) h

theorem execFence_caused {s x : State} {a0} (h : Caused s x) :
    ∃ t, execFence a0 x = .next t ∧ Caused s t := by
  unfold execFence
  repeat' first
    | with_reducible assumption
    | with_reducible refine done_caused ?_
    | with_reducible refine endFence_caused ?_
    | with_reducible refine beginFence_caused ?_
    | with_reducible refine ite_caused ?_ ?_
    | with_reducible refine foldl_caused ?_ (fun t a h => ?_)
    | with_reducible exact setOut_sameJoin _ _ _
    | with_reducible refine sameJoin_of ?_ ?_
    | with_reducible refine And.intro ?_ ?_
    | with_reducible rfl
    | dsimp -proj only
    | split

theorem execPrbsInject_caused {s x : State} {a0 a1 a2 a3} (h : Caused s x) :
    ∃ t, execPrbsInject a0 a1 a2 a3 x = .next t ∧ Caused s t := by
  unfold execPrbsInject
  repeat' first
    | with_reducible assumption
    | with_reducible refine done_caused ?_
    | with_reducible refine writeTo_caused ?_
    | with_reducible refine ite_caused ?_ ?_
    | with_reducible refine foldl_caused ?_ (fun t a h => ?_)
    | with_reducible exact setOut_sameJoin _ _ _
    | with_reducible refine sameJoin_of ?_ ?_
    | with_reducible refine And.intro ?_ ?_
    | with_reducible rfl
    | dsimp -proj only
    | split

theorem evaluateUnits_caused {s x : State} (h : Caused s x) : Caused s (evaluateUnits x) :=
  Caused.of_keeps (fun k hk => evaluateUnits_keeps hk (k.same_refl x)) (by decide) h

theorem execLastSelection_caused {s x : State} (h : Caused s x) :
    ∃ t, execLastSelection x = .next t ∧ Caused s t := by
  unfold execLastSelection
  repeat' first
    | with_reducible assumption
    | with_reducible refine done_caused ?_
    | with_reducible refine selectLast_caused ?_
    | with_reducible refine ite_caused ?_ ?_
    | with_reducible refine foldl_caused ?_ (fun t a h => ?_)
    | with_reducible exact setOut_sameJoin _ _ _
    | with_reducible refine sameJoin_of ?_ ?_
    | with_reducible refine And.intro ?_ ?_
    | with_reducible rfl
    | dsimp -proj only
    | split

theorem execCommitRollback_caused {s x : State} {a0} (h : Caused s x) :
    ∃ t, execCommitRollback a0 x = .next t ∧ Caused s t := by
  unfold execCommitRollback
  repeat' first
    | with_reducible assumption
    | with_reducible refine done_caused ?_
    | with_reducible refine rollback_caused ?_
    | with_reducible refine ite_caused ?_ ?_
    | with_reducible refine foldl_caused ?_ (fun t a h => ?_)
    | with_reducible exact setOut_sameJoin _ _ _
    | with_reducible refine sameJoin_of ?_ ?_
    | with_reducible refine And.intro ?_ ?_
    | with_reducible rfl
    | dsimp -proj only
    | split

theorem headerFault_caused {s x : State} {a0 a1 a2} (h : Caused s x) : Caused s (headerFault x a0 a1 a2) :=
  Caused.of_keeps (fun k hk => headerFault_keeps (a0 := a0) (a1 := a1) (a2 := a2) hk (k.same_refl x)) (by decide) h

theorem modTwb_caused {s x : State} {a0} (h : Caused s x) : Caused s (modTwb x a0) :=
  Caused.of_keeps (fun k hk => modTwb_keeps (a0 := a0) hk (k.same_refl x)) (by decide) h

theorem execTwbLate_caused {s x : State} (h : Caused s x) :
    ∃ t, execTwbLate x = .next t ∧ Caused s t := by
  unfold execTwbLate
  repeat' first
    | with_reducible assumption
    | with_reducible refine modTwb_caused ?_
    | with_reducible refine done_caused ?_
    | with_reducible refine ite_caused ?_ ?_
    | with_reducible refine foldl_caused ?_ (fun t a h => ?_)
    | with_reducible exact setOut_sameJoin _ _ _
    | with_reducible refine sameJoin_of ?_ ?_
    | with_reducible refine And.intro ?_ ?_
    | with_reducible rfl
    | dsimp -proj only
    | split

theorem execResetRelease_caused {s x : State} {a0} (h : Caused s x) :
    ∃ t, execResetRelease a0 x = .next t ∧ Caused s t := by
  unfold execResetRelease
  repeat' first
    | with_reducible assumption
    | with_reducible exact settle_any _
    | with_reducible refine done_caused ?_
    | with_reducible refine settle_caused ?_
    | with_reducible refine ite_caused ?_ ?_
    | with_reducible refine foldl_caused ?_ (fun t a h => ?_)
    | with_reducible exact setOut_sameJoin _ _ _
    | with_reducible refine sameJoin_of ?_ ?_
    | with_reducible refine And.intro ?_ ?_
    | with_reducible rfl
    | dsimp -proj only
    | split

theorem execDevctlStandby_caused {s x : State} {a0 a1} (h : Caused s x) :
    ∃ t, execDevctlStandby a0 a1 x = .next t ∧ Caused s t := by
  unfold execDevctlStandby
  repeat' first
    | with_reducible assumption
    | with_reducible refine done_caused ?_
    | with_reducible refine writeTo_caused ?_
    | with_reducible refine ite_caused ?_ ?_
    | with_reducible refine foldl_caused ?_ (fun t a h => ?_)
    | with_reducible exact setOut_sameJoin _ _ _
    | with_reducible refine sameJoin_of ?_ ?_
    | with_reducible refine And.intro ?_ ?_
    | with_reducible rfl
    | dsimp -proj only
    | split

theorem tendLog_caused {s x : State} (h : Caused s x) : Caused s (tendLog x) :=
  Caused.of_keeps (fun k hk => tendLog_keeps hk (k.same_refl x)) (by decide) h

theorem eyeAlarm_caused {s x : State} {a0 a1} (h : Caused s x) : Caused s (eyeAlarm x a0 a1) :=
  Caused.of_keeps (fun k hk => eyeAlarm_keeps (a0 := a0) (a1 := a1) hk (k.same_refl x)) (by decide) h

theorem syncSeen_caused {s x : State} (h : Caused s x) : Caused s (syncSeen x) :=
  Caused.of_keeps (fun k hk => syncSeen_keeps hk (k.same_refl x)) (by decide) h

theorem execImcNoSlot_caused {s x : State} (h : Caused s x) :
    ∃ t, execImcNoSlot x = .next t ∧ Caused s t := by
  unfold execImcNoSlot
  repeat' first
    | with_reducible assumption
    | with_reducible refine done_caused ?_
    | with_reducible refine finishWith_caused ?_
    | with_reducible refine dropSend_caused ?_
    | with_reducible refine ite_caused ?_ ?_
    | with_reducible refine foldl_caused ?_ (fun t a h => ?_)
    | with_reducible exact setOut_sameJoin _ _ _
    | with_reducible refine sameJoin_of ?_ ?_
    | with_reducible refine And.intro ?_ ?_
    | with_reducible rfl
    | dsimp -proj only
    | split

theorem execRateDiscard_caused {s x : State} {a0} (h : Caused s x) :
    ∃ t, execRateDiscard a0 x = .next t ∧ Caused s t := by
  unfold execRateDiscard
  repeat' first
    | with_reducible assumption
    | with_reducible refine done_caused ?_
    | with_reducible refine modLink_caused ?_ ?_
    | with_reducible refine ite_caused ?_ ?_
    | with_reducible refine foldl_caused ?_ (fun t a h => ?_)
    | with_reducible exact setOut_sameJoin _ _ _
    | with_reducible refine sameJoin_of ?_ ?_
    | with_reducible refine And.intro ?_ ?_
    | with_reducible rfl
    | dsimp -proj only
    | split

theorem teleStep_caused {s x : State} {a0 a1} (h : Caused s x) :
    Caused s (teleStep x a0 a1) := by
  unfold teleStep
  repeat' first
    | with_reducible assumption
    | with_reducible refine teleStart_caused ?_
    | with_reducible refine putSnapshot_caused ?_
    | with_reducible refine ite_caused ?_ ?_
    | with_reducible refine foldl_caused ?_ (fun t a h => ?_)
    | with_reducible exact setOut_sameJoin _ _ _
    | with_reducible refine sameJoin_of ?_ ?_
    | with_reducible refine And.intro ?_ ?_
    | with_reducible rfl
    | dsimp -proj only
    | split

theorem execTelemetry_caused {s x : State} {a0} (h : Caused s x) :
    ∃ t, execTelemetry a0 x = .next t ∧ Caused s t := by
  unfold execTelemetry
  repeat' first
    | with_reducible assumption
    | with_reducible refine done_caused ?_
    | with_reducible refine teleStep_caused ?_
    | with_reducible refine ite_caused ?_ ?_
    | with_reducible refine foldl_caused ?_ (fun t a h => ?_)
    | with_reducible exact setOut_sameJoin _ _ _
    | with_reducible refine sameJoin_of ?_ ?_
    | with_reducible refine And.intro ?_ ?_
    | with_reducible rfl
    | dsimp -proj only
    | split

theorem execStoreCeClr_caused {s x : State} {a0 a1} (h : Caused s x) :
    ∃ t, execStoreCeClr a0 a1 x = .next t ∧ Caused s t := by
  unfold execStoreCeClr
  repeat' first
    | with_reducible assumption
    | with_reducible refine done_caused ?_
    | with_reducible refine writeTo_caused ?_
    | with_reducible refine ite_caused ?_ ?_
    | with_reducible refine foldl_caused ?_ (fun t a h => ?_)
    | with_reducible exact setOut_sameJoin _ _ _
    | with_reducible refine sameJoin_of ?_ ?_
    | with_reducible refine And.intro ?_ ?_
    | with_reducible rfl
    | dsimp -proj only
    | split

theorem execNvmWindowRead_caused {s x : State} {a0 a1 a2} (h : Caused s x) :
    ∃ t, execNvmWindowRead a0 a1 a2 x = .next t ∧ Caused s t := by
  unfold execNvmWindowRead
  repeat' first
    | with_reducible assumption
    | with_reducible refine done_caused ?_
    | with_reducible refine busRead_caused ?_
    | with_reducible refine upset_caused ?_
    | with_reducible refine ite_caused ?_ ?_
    | with_reducible refine foldl_caused ?_ (fun t a h => ?_)
    | with_reducible exact setOut_sameJoin _ _ _
    | with_reducible refine sameJoin_of ?_ ?_
    | with_reducible refine And.intro ?_ ?_
    | with_reducible rfl
    | dsimp -proj only
    | split

theorem decimated_caused {s x : State} {a0} (h : Caused s x) : Caused s (decimated x a0) :=
  Caused.of_keeps (fun k hk => decimated_keeps (a0 := a0) hk (k.same_refl x)) (by decide) h

theorem execDecimatorOutput_caused {s x : State} {a0} (h : Caused s x) :
    ∃ t, execDecimatorOutput a0 x = .next t ∧ Caused s t := by
  unfold execDecimatorOutput
  repeat' first
    | with_reducible assumption
    | with_reducible refine done_caused ?_
    | with_reducible refine decimated_caused ?_
    | with_reducible refine ite_caused ?_ ?_
    | with_reducible refine foldl_caused ?_ (fun t a h => ?_)
    | with_reducible exact setOut_sameJoin _ _ _
    | with_reducible refine sameJoin_of ?_ ?_
    | with_reducible refine And.intro ?_ ?_
    | with_reducible rfl
    | dsimp -proj only
    | split

theorem trigger_caused {s x : State} {a0} (h : Caused s x) : Caused s (trigger x a0).2 :=
  Caused.of_keeps (fun k hk => trigger_keeps (a0 := a0) hk (k.same_refl x)) (by decide) h

theorem trigger_caused_eq {s x : State} {a0} {r u} (h : Caused s x) (e : trigger x a0 = (r, u)) :
    Caused s u := 
  Caused.of_keeps (fun k hk => trigger_keeps_eq (a0 := a0) hk (k.same_refl x) e) (by decide) h

theorem execAwlJob_caused {s x : State} {a0 a1 a2} (h : Caused s x) :
    ∃ t, execAwlJob a0 a1 a2 x = .next t ∧ Caused s t := by
  unfold execAwlJob
  repeat' first
    | with_reducible assumption
    | with_reducible refine done_caused ?_
    | with_reducible refine writeTo_caused ?_
    | with_reducible refine ite_caused ?_ ?_
    | with_reducible refine foldl_caused ?_ (fun t a h => ?_)
    | with_reducible exact setOut_sameJoin _ _ _
    | with_reducible refine sameJoin_of ?_ ?_
    | with_reducible refine And.intro ?_ ?_
    | with_reducible rfl
    | dsimp -proj only
    | split

theorem startAdcCal_caused {s x : State} (h : Caused s x) : Caused s (startAdcCal x) :=
  Caused.of_keeps (fun k hk => startAdcCal_keeps hk (k.same_refl x)) (by decide) h

theorem stopCapture_caused {s x : State} {a0 a1 a2 a3 a4} (h : Caused s x) : Caused s (stopCapture x a0 a1 a2 a3 a4) :=
  Caused.of_keeps (fun k hk => stopCapture_keeps (a0 := a0) (a1 := a1) (a2 := a2) (a3 := a3) (a4 := a4) hk (k.same_refl x)) (by decide) h

theorem execCaptureTimeout_caused {s x : State} {a0} (h : Caused s x) :
    ∃ t, execCaptureTimeout a0 x = .next t ∧ Caused s t := by
  unfold execCaptureTimeout
  repeat' first
    | with_reducible assumption
    | with_reducible refine done_caused ?_
    | with_reducible refine stopCapture_caused ?_
    | with_reducible refine ite_caused ?_ ?_
    | with_reducible refine foldl_caused ?_ (fun t a h => ?_)
    | with_reducible exact setOut_sameJoin _ _ _
    | with_reducible refine sameJoin_of ?_ ?_
    | with_reducible refine And.intro ?_ ?_
    | with_reducible rfl
    | dsimp -proj only
    | split

theorem endScan_caused {s x : State} {a0 a1 a2} (h : Caused s x) : Caused s (endScan x a0 a1 a2) :=
  Caused.of_keeps (fun k hk => endScan_keeps (a0 := a0) (a1 := a1) (a2 := a2) hk (k.same_refl x)) (by decide) h

theorem closeScan_caused {s x : State} {a0 a1} (h : Caused s x) :
    Caused s (closeScan x a0 a1) := by
  unfold closeScan
  repeat' first
    | with_reducible assumption
    | with_reducible refine endScan_caused ?_
    | with_reducible refine putData_caused ?_
    | with_reducible refine putData_caused_eq ?_ (by with_reducible assumption)
    | with_reducible refine ite_caused ?_ ?_
    | with_reducible refine foldl_caused ?_ (fun t a h => ?_)
    | with_reducible exact setOut_sameJoin _ _ _
    | with_reducible refine sameJoin_of ?_ ?_
    | with_reducible refine And.intro ?_ ?_
    | with_reducible rfl
    | dsimp -proj only
    | split

theorem scanGoesOn_caused {s x : State} {a0 a1 a2} (h : Caused s x) :
    Caused s (scanGoesOn x a0 a1 a2) := by
  unfold scanGoesOn
  repeat' first
    | with_reducible assumption
    | with_reducible refine closeScan_caused ?_
    | with_reducible refine keepJob_caused ?_
    | with_reducible refine ite_caused ?_ ?_
    | with_reducible refine foldl_caused ?_ (fun t a h => ?_)
    | with_reducible exact setOut_sameJoin _ _ _
    | with_reducible refine sameJoin_of ?_ ?_
    | with_reducible refine And.intro ?_ ?_
    | with_reducible rfl
    | dsimp -proj only
    | split

theorem writeHeldScan_caused {s x : State} {a0 a1 a2 a3 a4} (h : Caused s x) :
    Caused s (writeHeldScan x a0 a1 a2 a3 a4) := by
  unfold writeHeldScan
  repeat' first
    | with_reducible assumption
    | with_reducible refine endScan_caused ?_
    | with_reducible refine scanGoesOn_caused ?_
    | with_reducible refine putData_caused ?_
    | with_reducible refine putData_caused_eq ?_ (by with_reducible assumption)
    | with_reducible refine ite_caused ?_ ?_
    | with_reducible refine foldl_caused ?_ (fun t a h => ?_)
    | with_reducible exact setOut_sameJoin _ _ _
    | with_reducible refine sameJoin_of ?_ ?_
    | with_reducible refine And.intro ?_ ?_
    | with_reducible rfl
    | dsimp -proj only
    | split

theorem answerRequest_caused {s x : State} {a0 a1 a2 a3} (h : Caused s x) : Caused s (answerRequest x a0 a1 a2 a3) :=
  Caused.of_keeps (fun k hk => answerRequest_keeps (a0 := a0) (a1 := a1) (a2 := a2) (a3 := a3) hk (k.same_refl x)) (by decide) h

theorem execDeepEntryTimeout_caused {s x : State} {a0} (h : Caused s x) :
    ∃ t, execDeepEntryTimeout a0 x = .next t ∧ Caused s t := by
  unfold execDeepEntryTimeout
  repeat' first
    | with_reducible assumption
    | with_reducible refine done_caused ?_
    | with_reducible refine modLink_caused ?_ ?_
    | with_reducible refine requestRetrain_caused ?_
    | with_reducible refine ite_caused ?_ ?_
    | with_reducible refine foldl_caused ?_ (fun t a h => ?_)
    | with_reducible exact setOut_sameJoin _ _ _
    | with_reducible refine sameJoin_of ?_ ?_
    | with_reducible refine And.intro ?_ ?_
    | with_reducible rfl
    | dsimp -proj only
    | split

theorem trackFrame_caused {s x : State} {a0 a1 a2} (h : Caused s x) :
    Caused s (trackFrame x a0 a1 a2) := by
  unfold trackFrame
  repeat' first
    | with_reducible assumption
    | with_reducible refine modLink_caused ?_ ?_
    | with_reducible refine ite_caused ?_ ?_
    | with_reducible refine foldl_caused ?_ (fun t a h => ?_)
    | with_reducible exact setOut_sameJoin _ _ _
    | with_reducible refine sameJoin_of ?_ ?_
    | with_reducible refine And.intro ?_ ?_
    | with_reducible rfl
    | dsimp -proj only
    | split

theorem bufferGroup_caused {s x : State} {a0 a1 a2 a3} (h : Caused s x) : Caused s (bufferGroup x a0 a1 a2 a3) :=
  Caused.of_keeps (fun k hk => bufferGroup_keeps (a0 := a0) (a1 := a1) (a2 := a2) (a3 := a3) hk (k.same_refl x)) (by decide) h

theorem receiveGroup_caused {s x : State} {a0 a1 a2} (h : Caused s x) :
    Caused s (receiveGroup x a0 a1 a2) := by
  unfold receiveGroup
  repeat' first
    | with_reducible assumption
    | with_reducible refine ebLimits_caused ?_
    | with_reducible refine trackFrame_caused ?_
    | with_reducible refine rxLost_caused ?_
    | with_reducible refine bufferGroup_caused ?_
    | with_reducible refine releaseForward_caused ?_
    | with_reducible refine modRx_caused ?_
    | with_reducible refine capFeed_caused ?_
    | with_reducible refine modMeas_caused ?_
    | with_reducible refine symbolAfterExchange_caused ?_
    | with_reducible refine ite_caused ?_ ?_
    | with_reducible refine foldl_caused ?_ (fun t a h => ?_)
    | with_reducible exact setOut_sameJoin _ _ _
    | with_reducible refine sameJoin_of ?_ ?_
    | with_reducible refine And.intro ?_ ?_
    | with_reducible rfl
    | dsimp -proj only
    | split

theorem enterLoopback_caused {s x : State} {a0 a1} (h : Caused s x) :
    Caused s (enterLoopback x a0 a1) := by
  unfold enterLoopback
  repeat' first
    | with_reducible assumption
    | with_reducible refine modTx_caused ?_
    | with_reducible refine modLink_caused ?_ ?_
    | with_reducible refine endSearches_caused ?_
    | with_reducible refine modMeas_caused ?_
    | with_reducible refine ite_caused ?_ ?_
    | with_reducible refine foldl_caused ?_ (fun t a h => ?_)
    | with_reducible exact setOut_sameJoin _ _ _
    | with_reducible refine sameJoin_of ?_ ?_
    | with_reducible refine And.intro ?_ ?_
    | with_reducible rfl
    | dsimp -proj only
    | split

theorem requestLoops_caused {s x : State} {a0} (h : Caused s x) :
    Caused s (requestLoops x a0) := by
  unfold requestLoops
  repeat' first
    | with_reducible assumption
    | with_reducible refine modLink_caused ?_ ?_
    | with_reducible refine enterLoopback_caused ?_
    | with_reducible refine ite_caused ?_ ?_
    | with_reducible refine foldl_caused ?_ (fun t a h => ?_)
    | with_reducible exact setOut_sameJoin _ _ _
    | with_reducible refine sameJoin_of ?_ ?_
    | with_reducible refine And.intro ?_ ?_
    | with_reducible rfl
    | dsimp -proj only
    | split

theorem padGroup_caused {s x : State} {a0 a1 a2} (h : Caused s x) : Caused s (padGroup x a0 a1 a2).2 :=
  Caused.of_keeps (fun k hk => padGroup_keeps (a0 := a0) (a1 := a1) (a2 := a2) hk (k.same_refl x)) (by decide) h

theorem padGroup_caused_eq {s x : State} {a0 a1 a2} {r u} (h : Caused s x) (e : padGroup x a0 a1 a2 = (r, u)) :
    Caused s u := 
  Caused.of_keeps (fun k hk => padGroup_keeps_eq (a0 := a0) (a1 := a1) (a2 := a2) hk (k.same_refl x) e) (by decide) h

theorem readMany_caused {s x : State} {a0 a1 a2} (h : Caused s x) : Caused s (readMany a0 x a1 a2) := by
  induction a0 generalizing x with
  | zero => exact h
  | succ n ih => exact ih (readOne_caused h)

theorem loopGroup_caused {s x : State} {a0 a1 a2} (h : Caused s x) : Caused s (loopGroup x a0 a1 a2) :=
  Caused.of_keeps (fun k hk => loopGroup_keeps (a0 := a0) (a1 := a1) (a2 := a2) hk (k.same_refl x)) (by decide) h

theorem fillMos_caused {s x : State} {a0 a1} (h : Caused s x) :
    Caused s (fillMos x a0 a1) := by
  unfold fillMos
  repeat' first
    | with_reducible assumption
    | with_reducible refine sendNext_caused ?_
    | with_reducible refine sendNext_caused_eq ?_ (by with_reducible assumption)
    | with_reducible refine modTx_caused ?_
    | with_reducible refine ite_caused ?_ ?_
    | with_reducible refine foldl_caused ?_ (fun t a h => ?_)
    | with_reducible exact setOut_sameJoin _ _ _
    | with_reducible refine sameJoin_of ?_ ?_
    | with_reducible refine And.intro ?_ ?_
    | with_reducible rfl
    | dsimp -proj only
    | split

theorem execRxCodeGroup_caused {s x : State} {a0 a1 a2 a3} (h : Caused s x) :
    ∃ t, execRxCodeGroup a0 a1 a2 a3 x = .next t ∧ Caused s t := by
  unfold execRxCodeGroup
  repeat' first
    | with_reducible assumption
    | with_reducible refine done_caused ?_
    | with_reducible refine receiveGroup_caused ?_
    | with_reducible refine requestLoops_caused ?_
    | with_reducible refine padGroup_caused ?_
    | with_reducible refine padGroup_caused_eq ?_ (by with_reducible assumption)
    | with_reducible refine sendOne_caused ?_
    | with_reducible refine readMany_caused ?_
    | with_reducible refine capFeed_caused ?_
    | with_reducible refine loopGroup_caused ?_
    | with_reducible refine modMeas_caused ?_
    | with_reducible refine fillMos_caused ?_
    | with_reducible refine ite_caused ?_ ?_
    | with_reducible refine foldl_caused ?_ (fun t a h => ?_)
    | with_reducible exact setOut_sameJoin _ _ _
    | with_reducible refine sameJoin_of ?_ ?_
    | with_reducible refine And.intro ?_ ?_
    | with_reducible rfl
    | dsimp -proj only
    | split

theorem execJtagExtest_caused {s x : State} (h : Caused s x) :
    ∃ t, execJtagExtest x = .next t ∧ Caused s t := by
  unfold execJtagExtest
  repeat' first
    | with_reducible assumption
    | with_reducible refine done_caused ?_
    | with_reducible refine scanCells_caused ?_
    | with_reducible refine ite_caused ?_ ?_
    | with_reducible refine foldl_caused ?_ (fun t a h => ?_)
    | with_reducible exact setOut_sameJoin _ _ _
    | with_reducible refine sameJoin_of ?_ ?_
    | with_reducible refine And.intro ?_ ?_
    | with_reducible rfl
    | dsimp -proj only
    | split

theorem execPrbsChkEnable_caused {s x : State} {a0 a1 a2 a3} (h : Caused s x) :
    ∃ t, execPrbsChkEnable a0 a1 a2 a3 x = .next t ∧ Caused s t := by
  unfold execPrbsChkEnable
  repeat' first
    | with_reducible assumption
    | with_reducible refine done_caused ?_
    | with_reducible refine writeTo_caused ?_
    | with_reducible refine ite_caused ?_ ?_
    | with_reducible refine foldl_caused ?_ (fun t a h => ?_)
    | with_reducible exact setOut_sameJoin _ _ _
    | with_reducible refine sameJoin_of ?_ ?_
    | with_reducible refine And.intro ?_ ?_
    | with_reducible rfl
    | dsimp -proj only
    | split

theorem recordCaps_caused {s x : State} {a0 a1} (h : Caused s x) :
    Caused s (recordCaps x a0 a1) := by
  unfold recordCaps
  repeat' first
    | with_reducible assumption
    | with_reducible refine modTr_caused ?_
    | with_reducible refine modLink_caused ?_ ?_
    | with_reducible refine ite_caused ?_ ?_
    | with_reducible refine foldl_caused ?_ (fun t a h => ?_)
    | with_reducible exact setOut_sameJoin _ _ _
    | with_reducible refine sameJoin_of ?_ ?_
    | with_reducible refine And.intro ?_ ?_
    | with_reducible rfl
    | dsimp -proj only
    | split

theorem takeAnswer_caused {s x : State} {a0 a1 a2 a3} (h : Caused s x) : Caused s (takeAnswer x a0 a1 a2 a3) :=
  Caused.of_keeps (fun k hk => takeAnswer_keeps (a0 := a0) (a1 := a1) (a2 := a2) (a3 := a3) hk (k.same_refl x)) (by decide) h

theorem readTosB_caused {s x : State} {a0 a1 a2 a3} (h : Caused s x) :
    Caused s (readTosB x a0 a1 a2 a3) := by
  unfold readTosB
  repeat' first
    | with_reducible assumption
    | with_reducible refine modTr_caused ?_
    | with_reducible refine ite_caused ?_ ?_
    | with_reducible refine foldl_caused ?_ (fun t a h => ?_)
    | with_reducible exact setOut_sameJoin _ _ _
    | with_reducible refine sameJoin_of ?_ ?_
    | with_reducible refine And.intro ?_ ?_
    | with_reducible rfl
    | dsimp -proj only
    | split

theorem tosBIn_caused {s x : State} {a0 a1 a2 a3} (h : Caused s x) :
    Caused s (tosBIn x a0 a1 a2 a3) := by
  unfold tosBIn
  repeat' first
    | with_reducible assumption
    | with_reducible refine advance06_caused ?_
    | with_reducible refine recordCaps_caused ?_
    | with_reducible refine sendTos_caused ?_
    | with_reducible refine takeAnswer_caused ?_
    | with_reducible refine readTosB_caused ?_
    | with_reducible refine answerRequest_caused ?_
    | with_reducible refine seenTos_caused ?_
    | with_reducible refine ite_caused ?_ ?_
    | with_reducible refine foldl_caused ?_ (fun t a h => ?_)
    | with_reducible exact setOut_sameJoin _ _ _
    | with_reducible refine sameJoin_of ?_ ?_
    | with_reducible refine And.intro ?_ ?_
    | with_reducible rfl
    | dsimp -proj only
    | split

theorem trainingSet_caused {s x : State} {a0 a1 a2 a3} (h : Caused s x) :
    Caused s (trainingSet x a0 a1 a2 a3) := by
  unfold trainingSet
  repeat' first
    | with_reducible assumption
    | with_reducible refine putSet_caused ?_
    | with_reducible refine tosBIn_caused ?_
    | with_reducible refine holdSet_caused ?_
    | with_reducible refine enterRetrain_caused ?_
    | with_reducible refine tosAIn_caused ?_
    | with_reducible refine ite_caused ?_ ?_
    | with_reducible refine foldl_caused ?_ (fun t a h => ?_)
    | with_reducible exact setOut_sameJoin _ _ _
    | with_reducible refine sameJoin_of ?_ ?_
    | with_reducible refine And.intro ?_ ?_
    | with_reducible rfl
    | dsimp -proj only
    | split

theorem execTrainingSetReceived_caused {s x : State} {a0 a1 a2 a3} (h : Caused s x) :
    ∃ t, execTrainingSetReceived a0 a1 a2 a3 x = .next t ∧ Caused s t := by
  unfold execTrainingSetReceived
  repeat' first
    | with_reducible assumption
    | with_reducible refine done_caused ?_
    | with_reducible refine trainingSet_caused ?_
    | with_reducible refine ite_caused ?_ ?_
    | with_reducible refine foldl_caused ?_ (fun t a h => ?_)
    | with_reducible exact setOut_sameJoin _ _ _
    | with_reducible refine sameJoin_of ?_ ?_
    | with_reducible refine And.intro ?_ ?_
    | with_reducible rfl
    | dsimp -proj only
    | split

theorem execWeltOpenConfirmed_caused {s x : State} {a0} (h : Caused s x) :
    ∃ t, execWeltOpenConfirmed a0 x = .next t ∧ Caused s t := by
  unfold execWeltOpenConfirmed
  repeat' first
    | with_reducible assumption
    | with_reducible refine done_caused ?_
    | with_reducible refine openConfirmed_caused ?_
    | with_reducible refine ite_caused ?_ ?_
    | with_reducible refine foldl_caused ?_ (fun t a h => ?_)
    | with_reducible exact setOut_sameJoin _ _ _
    | with_reducible refine sameJoin_of ?_ ?_
    | with_reducible refine And.intro ?_ ?_
    | with_reducible rfl
    | dsimp -proj only
    | split

theorem execMosWr_caused {s x : State} {a0 a1 a2 a3 a4 a5} (h : Caused s x) :
    ∃ t, execMosWr a0 a1 a2 a3 a4 a5 x = .next t ∧ Caused s t := by
  unfold execMosWr
  repeat' first
    | with_reducible assumption
    | with_reducible refine done_caused ?_
    | with_reducible refine mosIn_caused ?_
    | with_reducible refine upset_caused ?_
    | with_reducible refine ite_caused ?_ ?_
    | with_reducible refine foldl_caused ?_ (fun t a h => ?_)
    | with_reducible exact setOut_sameJoin _ _ _
    | with_reducible refine sameJoin_of ?_ ?_
    | with_reducible refine And.intro ?_ ?_
    | with_reducible rfl
    | dsimp -proj only
    | split

theorem execJtagExtestPulse_caused {s x : State} (h : Caused s x) :
    ∃ t, execJtagExtestPulse x = .next t ∧ Caused s t := by
  unfold execJtagExtestPulse
  repeat' first
    | with_reducible assumption
    | with_reducible refine done_caused ?_
    | with_reducible refine scanCells_caused ?_
    | with_reducible refine ite_caused ?_ ?_
    | with_reducible refine foldl_caused ?_ (fun t a h => ?_)
    | with_reducible exact setOut_sameJoin _ _ _
    | with_reducible refine sameJoin_of ?_ ?_
    | with_reducible refine And.intro ?_ ?_
    | with_reducible rfl
    | dsimp -proj only
    | split

theorem execWinctlSync_caused {s x : State} {a0 a1} (h : Caused s x) :
    ∃ t, execWinctlSync a0 a1 x = .next t ∧ Caused s t := by
  unfold execWinctlSync
  repeat' first
    | with_reducible assumption
    | with_reducible refine done_caused ?_
    | with_reducible refine writeTo_caused ?_
    | with_reducible refine ite_caused ?_ ?_
    | with_reducible refine foldl_caused ?_ (fun t a h => ?_)
    | with_reducible exact setOut_sameJoin _ _ _
    | with_reducible refine sameJoin_of ?_ ?_
    | with_reducible refine And.intro ?_ ?_
    | with_reducible rfl
    | dsimp -proj only
    | split

theorem execWindowEntryWrite_caused {s x : State} {a0 a1 a2 a3} (h : Caused s x) :
    ∃ t, execWindowEntryWrite a0 a1 a2 a3 x = .next t ∧ Caused s t := by
  unfold execWindowEntryWrite
  repeat' first
    | with_reducible assumption
    | with_reducible refine done_caused ?_
    | with_reducible refine writeTo_caused ?_
    | with_reducible refine ite_caused ?_ ?_
    | with_reducible refine foldl_caused ?_ (fun t a h => ?_)
    | with_reducible exact setOut_sameJoin _ _ _
    | with_reducible refine sameJoin_of ?_ ?_
    | with_reducible refine And.intro ?_ ?_
    | with_reducible rfl
    | dsimp -proj only
    | split

theorem ringPut_caused {s x : State} {a0} (h : Caused s x) : Caused s (ringPut x a0) :=
  Caused.of_keeps (fun k hk => ringPut_keeps (a0 := a0) hk (k.same_refl x)) (by decide) h

theorem execAwlAll_caused {s x : State} {a0} (h : Caused s x) :
    ∃ t, execAwlAll a0 x = .next t ∧ Caused s t := by
  unfold execAwlAll
  repeat' first
    | with_reducible assumption
    | with_reducible refine done_caused ?_
    | with_reducible refine writeTo_caused ?_
    | with_reducible refine ite_caused ?_ ?_
    | with_reducible refine foldl_caused ?_ (fun t a h => ?_)
    | with_reducible exact setOut_sameJoin _ _ _
    | with_reducible refine sameJoin_of ?_ ?_
    | with_reducible refine And.intro ?_ ?_
    | with_reducible rfl
    | dsimp -proj only
    | split

theorem execNvmSectorErased_caused {s x : State} {a0} (h : Caused s x) :
    ∃ t, execNvmSectorErased a0 x = .next t ∧ Caused s t := by
  unfold execNvmSectorErased
  repeat' first
    | with_reducible assumption
    | with_reducible refine done_caused ?_
    | with_reducible refine ownDone_caused ?_
    | with_reducible refine sectorDone_caused ?_
    | with_reducible refine ite_caused ?_ ?_
    | with_reducible refine foldl_caused ?_ (fun t a h => ?_)
    | with_reducible exact setOut_sameJoin _ _ _
    | with_reducible refine sameJoin_of ?_ ?_
    | with_reducible refine And.intro ?_ ?_
    | with_reducible rfl
    | dsimp -proj only
    | split

theorem scanTimeout_caused {s x : State} {a0 a1 a2} (h : Caused s x) :
    Caused s (scanTimeout x a0 a1 a2) := by
  unfold scanTimeout
  repeat' first
    | with_reducible assumption
    | with_reducible refine closeScan_caused ?_
    | with_reducible refine writeHeldScan_caused ?_
    | with_reducible refine putData_caused ?_
    | with_reducible refine putData_caused_eq ?_ (by with_reducible assumption)
    | with_reducible refine ite_caused ?_ ?_
    | with_reducible refine foldl_caused ?_ (fun t a h => ?_)
    | with_reducible exact setOut_sameJoin _ _ _
    | with_reducible refine sameJoin_of ?_ ?_
    | with_reducible refine And.intro ?_ ?_
    | with_reducible rfl
    | dsimp -proj only
    | split

theorem prefetch_caused {s x : State} {a0} (h : Caused s x) : Caused s (prefetch x a0) :=
  Caused.of_keeps (fun k hk => prefetch_keeps (a0 := a0) hk (k.same_refl x)) (by decide) h

theorem execEntryPrefetch_caused {s x : State} {a0 a1} (h : Caused s x) :
    ∃ t, execEntryPrefetch a0 a1 x = .next t ∧ Caused s t := by
  unfold execEntryPrefetch
  repeat' first
    | with_reducible assumption
    | with_reducible refine done_caused ?_
    | with_reducible refine prefetch_caused ?_
    | with_reducible refine upset_caused ?_
    | with_reducible refine ite_caused ?_ ?_
    | with_reducible refine foldl_caused ?_ (fun t a h => ?_)
    | with_reducible exact setOut_sameJoin _ _ _
    | with_reducible refine sameJoin_of ?_ ?_
    | with_reducible refine And.intro ?_ ?_
    | with_reducible rfl
    | dsimp -proj only
    | split

theorem normalCandidate_caused {s x : State} {a0 a1} {c} (h : Caused s x) (e : normalCandidate x a0 a1 = some c) :
    c.caused s := by
  intro i t q
  subst q
  exact Caused.of_keeps (fun k hk => normalCandidate_keeps hk (k.same_refl x) e i t rfl) (by decide) h

theorem serve_caused {s x : State} {a0 a1 a2} (h : Caused s x) :
    Caused s (serve x a0 a1 a2) := by
  unfold serve
  split
  · rename_i c e
    refine runCandidate_caused h ?_
    cases g : urgentCandidate x a0 with
    | none => rw [g] at e; exact normalCandidate_caused h e
    | some d => rw [g] at e; cases e; exact urgentCandidate_caused h g
  · exact h

theorem startNvm_caused {s x : State} (h : Caused s x) : Caused s (startNvm x) := by
  have lend : ∀ {y u}, Caused s y → lendEngine y = some u → Caused s u := fun {y u} g e =>
    Caused.of_keeps (fun k hk => lendEngine_keeps_eq hk (k.same_refl y) e) (by decide) g
  unfold startNvm
  split
  · exact ite_caused (tendLog_caused h) (serve_caused h)
  · split
    · exact h
    · rename_i c e
      have g := urgentCandidate_caused h e
      refine ite_caused h ?_
      split <;> split
      · rename_i e'
        exact runCandidate_caused (lend h e') (fun _ _ e => by cases e)
      · exact h
      · rename_i e'
        have g' := lend (g _ _ rfl) e'
        exact runCandidate_caused g' (fun _ _ e => by cases e; exact g')
      · exact h

theorem startJob_caused {s x : State} {a0 a1} (h : Caused s x) :
    Caused s (startJob x a0 a1) := by
  unfold startJob
  repeat' first
    | with_reducible assumption
    | with_reducible refine ownDone_caused ?_
    | with_reducible refine startNvm_caused ?_
    | with_reducible refine serve_caused ?_
    | with_reducible refine ite_caused ?_ ?_
    | with_reducible refine foldl_caused ?_ (fun t a h => ?_)
    | with_reducible exact setOut_sameJoin _ _ _
    | with_reducible refine sameJoin_of ?_ ?_
    | with_reducible refine And.intro ?_ ?_
    | with_reducible rfl
    | dsimp -proj only
    | split

theorem execScanPointDone_caused {s x : State} {a0 a1 a2} (h : Caused s x) :
    ∃ t, execScanPointDone a0 a1 a2 x = .next t ∧ Caused s t := by
  unfold execScanPointDone
  repeat' first
    | with_reducible assumption
    | with_reducible refine done_caused ?_
    | with_reducible refine modMeas_caused ?_
    | with_reducible refine ite_caused ?_ ?_
    | with_reducible refine foldl_caused ?_ (fun t a h => ?_)
    | with_reducible exact setOut_sameJoin _ _ _
    | with_reducible refine sameJoin_of ?_ ?_
    | with_reducible refine And.intro ?_ ?_
    | with_reducible rfl
    | dsimp -proj only
    | split

theorem execRecalEvaluation_caused {s x : State} (h : Caused s x) :
    ∃ t, execRecalEvaluation x = .next t ∧ Caused s t := by
  unfold execRecalEvaluation
  repeat' first
    | with_reducible assumption
    | with_reducible refine done_caused ?_
    | with_reducible refine homeStandins_caused ?_
    | with_reducible refine followStandin_caused ?_
    | with_reducible refine evaluateUnits_caused ?_
    | with_reducible refine nextRecal_caused ?_
    | with_reducible refine ite_caused ?_ ?_
    | with_reducible refine foldl_caused ?_ (fun t a h => ?_)
    | with_reducible exact setOut_sameJoin _ _ _
    | with_reducible refine sameJoin_of ?_ ?_
    | with_reducible refine And.intro ?_ ?_
    | with_reducible rfl
    | dsimp -proj only
    | split

theorem execDrainComplete_caused {s x : State} {a0} (h : Caused s x) :
    ∃ t, execDrainComplete a0 x = .next t ∧ Caused s t := by
  unfold execDrainComplete
  repeat' first
    | with_reducible assumption
    | with_reducible refine done_caused ?_
    | with_reducible refine drainEnd_caused ?_
    | with_reducible refine ite_caused ?_ ?_
    | with_reducible refine foldl_caused ?_ (fun t a h => ?_)
    | with_reducible exact setOut_sameJoin _ _ _
    | with_reducible refine sameJoin_of ?_ ?_
    | with_reducible refine And.intro ?_ ?_
    | with_reducible rfl
    | dsimp -proj only
    | split

theorem execLnsnapRelease_caused {s x : State} {a0 a1 a2 a3} (h : Caused s x) :
    ∃ t, execLnsnapRelease a0 a1 a2 a3 x = .next t ∧ Caused s t := by
  unfold execLnsnapRelease
  repeat' first
    | with_reducible assumption
    | with_reducible refine done_caused ?_
    | with_reducible refine writeTo_caused ?_
    | with_reducible refine ite_caused ?_ ?_
    | with_reducible refine foldl_caused ?_ (fun t a h => ?_)
    | with_reducible exact setOut_sameJoin _ _ _
    | with_reducible refine sameJoin_of ?_ ?_
    | with_reducible refine And.intro ?_ ?_
    | with_reducible rfl
    | dsimp -proj only
    | split

theorem execSyncBarrierDone_caused {s x : State} {a0} (h : Caused s x) :
    ∃ t, execSyncBarrierDone a0 x = .next t ∧ Caused s t := by
  unfold execSyncBarrierDone
  repeat' first
    | with_reducible assumption
    | with_reducible refine done_caused ?_
    | with_reducible refine modWin_caused ?_
    | with_reducible refine ite_caused ?_ ?_
    | with_reducible refine foldl_caused ?_ (fun t a h => ?_)
    | with_reducible exact setOut_sameJoin _ _ _
    | with_reducible refine sameJoin_of ?_ ?_
    | with_reducible refine And.intro ?_ ?_
    | with_reducible rfl
    | dsimp -proj only
    | split

theorem execHeelWatchdogTrip_caused {s x : State} (h : Caused s x) :
    ∃ t, execHeelWatchdogTrip x = .next t ∧ Caused s t := by
  unfold execHeelWatchdogTrip
  try dsimp -zeta -proj only [upd_evt_heel]
  repeat' first
    | with_reducible assumption
    | with_reducible refine done_caused ?_
    | with_reducible refine logEvent_caused ?_
    | with_reducible refine putEvt_caused ?_
    | with_reducible refine putHeel_caused ?_
    | with_reducible refine ite_caused ?_ ?_
    | with_reducible refine foldl_caused ?_ (fun t a h => ?_)
    | with_reducible exact setOut_sameJoin _ _ _
    | with_reducible refine sameJoin_of ?_ ?_
    | with_reducible refine And.intro ?_ ?_
    | with_reducible rfl
    | dsimp -proj only
    | split

theorem newRound_caused {s x : State} {a0} (h : Caused s x) : Caused s (newRound x a0) :=
  Caused.of_keeps (fun k hk => newRound_keeps (a0 := a0) hk (k.same_refl x)) (by decide) h

theorem execLastStage_caused {s x : State} {a0 a1} (h : Caused s x) :
    ∃ t, execLastStage a0 a1 x = .next t ∧ Caused s t := by
  unfold execLastStage
  repeat' first
    | with_reducible assumption
    | with_reducible refine done_caused ?_
    | with_reducible refine runBlock_caused ?_
    | with_reducible refine upset_caused ?_
    | with_reducible refine ite_caused ?_ ?_
    | with_reducible refine foldl_caused ?_ (fun t a h => ?_)
    | with_reducible exact setOut_sameJoin _ _ _
    | with_reducible refine sameJoin_of ?_ ?_
    | with_reducible refine And.intro ?_ ?_
    | with_reducible rfl
    | dsimp -proj only
    | split

theorem execEyescanLockTimeout_caused {s x : State} {a0 a1} (h : Caused s x) :
    ∃ t, execEyescanLockTimeout a0 a1 x = .next t ∧ Caused s t := by
  unfold execEyescanLockTimeout
  repeat' first
    | with_reducible assumption
    | with_reducible refine done_caused ?_
    | with_reducible refine scanTimeout_caused ?_
    | with_reducible refine ite_caused ?_ ?_
    | with_reducible refine foldl_caused ?_ (fun t a h => ?_)
    | with_reducible exact setOut_sameJoin _ _ _
    | with_reducible refine sameJoin_of ?_ ?_
    | with_reducible refine And.intro ?_ ?_
    | with_reducible rfl
    | dsimp -proj only
    | split

theorem execRailValid_caused {s x : State} {a0} (h : Caused s x) :
    ∃ t, execRailValid a0 x = .next t ∧ Caused s t := by
  unfold execRailValid
  repeat' first
    | with_reducible assumption
    | with_reducible exact settle_any _
    | with_reducible refine done_caused ?_
    | with_reducible refine settle_caused ?_
    | with_reducible refine modPower_caused ?_ ?_
    | with_reducible refine ite_caused ?_ ?_
    | with_reducible refine foldl_caused ?_ (fun t a h => ?_)
    | with_reducible exact setOut_sameJoin _ _ _
    | with_reducible refine sameJoin_of ?_ ?_
    | with_reducible refine And.intro ?_ ?_
    | with_reducible rfl
    | dsimp -proj only
    | split

theorem execTwbReadWord_caused {s x : State} {a0} (h : Caused s x) :
    ∃ t, execTwbReadWord a0 x = .next t ∧ Caused s t := by
  unfold execTwbReadWord
  repeat' first
    | with_reducible assumption
    | with_reducible refine modTwb_caused ?_
    | with_reducible refine done_caused ?_
    | with_reducible refine busRead_caused ?_
    | with_reducible refine upset_caused ?_
    | with_reducible refine ite_caused ?_ ?_
    | with_reducible refine foldl_caused ?_ (fun t a h => ?_)
    | with_reducible exact setOut_sameJoin _ _ _
    | with_reducible refine sameJoin_of ?_ ?_
    | with_reducible refine And.intro ?_ ?_
    | with_reducible rfl
    | dsimp -proj only
    | split

theorem resendSpare_caused {s x : State} {a0 a1} (h : Caused s x) :
    Caused s (resendSpare x a0 a1) := by
  unfold resendSpare
  repeat' first
    | with_reducible assumption
    | with_reducible refine dropSpare_caused ?_
    | with_reducible refine modLink_caused ?_ ?_
    | with_reducible refine queueMos_caused ?_
    | with_reducible refine ite_caused ?_ ?_
    | with_reducible refine foldl_caused ?_ (fun t a h => ?_)
    | with_reducible exact setOut_sameJoin _ _ _
    | with_reducible refine sameJoin_of ?_ ?_
    | with_reducible refine And.intro ?_ ?_
    | with_reducible rfl
    | dsimp -proj only
    | split

theorem retrySwap_caused {s x : State} {a0} (h : Caused s x) :
    Caused s (retrySwap x a0) := by
  unfold retrySwap
  repeat' first
    | with_reducible assumption
    | with_reducible refine resendSpare_caused ?_
    | with_reducible refine ite_caused ?_ ?_
    | with_reducible refine foldl_caused ?_ (fun t a h => ?_)
    | with_reducible exact setOut_sameJoin _ _ _
    | with_reducible refine sameJoin_of ?_ ?_
    | with_reducible refine And.intro ?_ ?_
    | with_reducible rfl
    | dsimp -proj only
    | split

theorem exitStandby_caused {s x : State} (h : Caused s x) :
    Caused s (exitStandby x) := by
  unfold exitStandby
  try dsimp -zeta -proj only [upd_boot_dev_evt_store_twb]
  try simp -zeta -proj only [upd_boot_dev_evt_store_twb]
  repeat' first
    | with_reducible assumption
    | with_reducible exact settle_any _
    | with_reducible refine settle_caused ?_
    | with_reducible refine modLane_caused ?_
    | with_reducible refine lockPlls_caused ?_
    | with_reducible refine ringPut_caused ?_
    | with_reducible refine putBoot_caused ?_ ?_
    | with_reducible refine putDev_caused ?_ ?_
    | with_reducible refine putEvt_caused ?_
    | with_reducible refine putStore_caused ?_
    | with_reducible refine putTwb_caused ?_
    | with_reducible refine ite_caused ?_ ?_
    | with_reducible refine foldl_caused ?_ (fun t a h => ?_)
    | with_reducible exact setOut_sameJoin _ _ _
    | with_reducible refine sameJoin_of ?_ ?_
    | with_reducible refine And.intro ?_ ?_
    | with_reducible rfl
    | dsimp -proj only
    | split

theorem execStandbyExitDone_caused {s x : State} (h : Caused s x) :
    ∃ t, execStandbyExitDone x = .next t ∧ Caused s t := by
  unfold execStandbyExitDone
  repeat' first
    | with_reducible assumption
    | with_reducible refine done_caused ?_
    | with_reducible refine exitStandby_caused ?_
    | with_reducible refine ite_caused ?_ ?_
    | with_reducible refine foldl_caused ?_ (fun t a h => ?_)
    | with_reducible exact setOut_sameJoin _ _ _
    | with_reducible refine sameJoin_of ?_ ?_
    | with_reducible refine And.intro ?_ ?_
    | with_reducible rfl
    | dsimp -proj only
    | split

theorem execAdcSelfCal_caused {s x : State} (h : Caused s x) :
    ∃ t, execAdcSelfCal x = .next t ∧ Caused s t := by
  unfold execAdcSelfCal
  repeat' first
    | with_reducible assumption
    | with_reducible refine done_caused ?_
    | with_reducible refine startAdcCal_caused ?_
    | with_reducible refine ite_caused ?_ ?_
    | with_reducible refine foldl_caused ?_ (fun t a h => ?_)
    | with_reducible exact setOut_sameJoin _ _ _
    | with_reducible refine sameJoin_of ?_ ?_
    | with_reducible refine And.intro ?_ ?_
    | with_reducible rfl
    | dsimp -proj only
    | split

theorem wakeDone_caused {s x : State} {a0} (h : Caused s x) :
    Caused s (wakeDone x a0) := by
  unfold wakeDone
  repeat' first
    | with_reducible assumption
    | with_reducible refine setResult_caused ?_
    | with_reducible refine modLink_caused ?_ ?_
    | with_reducible refine checkRecovered_caused ?_
    | with_reducible refine requestRetrain_caused ?_
    | with_reducible refine ite_caused ?_ ?_
    | with_reducible refine foldl_caused ?_ (fun t a h => ?_)
    | with_reducible exact setOut_sameJoin _ _ _
    | with_reducible refine sameJoin_of ?_ ?_
    | with_reducible refine And.intro ?_ ?_
    | with_reducible rfl
    | dsimp -proj only
    | split

theorem transparentUp_caused {s x : State} {a0} (h : Caused s x) :
    Caused s (transparentUp x a0) := by
  unfold transparentUp
  repeat' first
    | with_reducible assumption
    | with_reducible refine setResult_caused ?_
    | with_reducible refine ite_caused ?_ ?_
    | with_reducible refine foldl_caused ?_ (fun t a h => ?_)
    | with_reducible exact setOut_sameJoin _ _ _
    | with_reducible refine sameJoin_of ?_ ?_
    | with_reducible refine And.intro ?_ ?_
    | with_reducible rfl
    | dsimp -proj only
    | split

theorem lockFollows_caused {s x : State} {a0 a1} (h : Caused s x) :
    Caused s (lockFollows x a0 a1) := by
  unfold lockFollows
  repeat' first
    | with_reducible assumption
    | with_reducible refine restoreTransparent_caused ?_
    | with_reducible refine wakeDone_caused ?_
    | with_reducible refine transparentUp_caused ?_
    | with_reducible refine ite_caused ?_ ?_
    | with_reducible refine foldl_caused ?_ (fun t a h => ?_)
    | with_reducible exact setOut_sameJoin _ _ _
    | with_reducible refine sameJoin_of ?_ ?_
    | with_reducible refine And.intro ?_ ?_
    | with_reducible rfl
    | dsimp -proj only
    | split

theorem execCdrLockGained_caused {s x : State} {a0 a1} (h : Caused s x) :
    ∃ t, execCdrLockGained a0 a1 x = .next t ∧ Caused s t := by
  unfold execCdrLockGained
  repeat' first
    | with_reducible assumption
    | with_reducible refine done_caused ?_
    | with_reducible refine lockFollows_caused ?_
    | with_reducible refine modRx_caused ?_
    | with_reducible refine ite_caused ?_ ?_
    | with_reducible refine foldl_caused ?_ (fun t a h => ?_)
    | with_reducible exact setOut_sameJoin _ _ _
    | with_reducible refine sameJoin_of ?_ ?_
    | with_reducible refine And.intro ?_ ?_
    | with_reducible rfl
    | dsimp -proj only
    | split

theorem resetDecimator_caused {s x : State} (h : Caused s x) : Caused s (resetDecimator x) :=
  Caused.of_keeps (fun k hk => resetDecimator_keeps hk (k.same_refl x)) (by decide) h

theorem execJtagSamplePreload_caused {s x : State} (h : Caused s x) :
    ∃ t, execJtagSamplePreload x = .next t ∧ Caused s t := by
  unfold execJtagSamplePreload
  repeat' first
    | with_reducible assumption
    | with_reducible refine done_caused ?_
    | with_reducible refine scanCells_caused ?_
    | with_reducible refine ite_caused ?_ ?_
    | with_reducible refine foldl_caused ?_ (fun t a h => ?_)
    | with_reducible exact setOut_sameJoin _ _ _
    | with_reducible refine sameJoin_of ?_ ?_
    | with_reducible refine And.intro ?_ ?_
    | with_reducible rfl
    | dsimp -proj only
    | split

theorem pllUnlocked_caused {s x : State} {a0} (h : Caused s x) :
    Caused s (pllUnlocked x a0) := by
  unfold pllUnlocked
  try dsimp -zeta -proj only [upd_power_evt]
  repeat' first
    | with_reducible assumption
    | with_reducible refine logEvent_caused ?_
    | with_reducible refine putPower_caused ?_ ?_
    | with_reducible refine putEvt_caused ?_
    | with_reducible refine ite_caused ?_ ?_
    | with_reducible refine foldl_caused ?_ (fun t a h => ?_)
    | with_reducible exact setOut_sameJoin _ _ _
    | with_reducible refine sameJoin_of ?_ ?_
    | with_reducible refine And.intro ?_ ?_
    | with_reducible rfl
    | dsimp -proj only
    | split

theorem execCorePllLoss_caused {s x : State} (h : Caused s x) :
    ∃ t, execCorePllLoss x = .next t ∧ Caused s t := by
  unfold execCorePllLoss
  try dsimp -zeta -proj only [upd_dev]
  repeat' first
    | with_reducible assumption
    | with_reducible exact settle_any _
    | with_reducible refine done_caused ?_
    | with_reducible refine settle_caused ?_
    | with_reducible refine pllUnlocked_caused ?_
    | with_reducible refine putDev_caused ?_ ?_
    | with_reducible refine ite_caused ?_ ?_
    | with_reducible refine foldl_caused ?_ (fun t a h => ?_)
    | with_reducible exact setOut_sameJoin _ _ _
    | with_reducible refine sameJoin_of ?_ ?_
    | with_reducible refine And.intro ?_ ?_
    | with_reducible rfl
    | dsimp -proj only
    | split

theorem execSignalDetected_caused {s x : State} {a0 a1} (h : Caused s x) :
    ∃ t, execSignalDetected a0 a1 x = .next t ∧ Caused s t := by
  unfold execSignalDetected
  repeat' first
    | with_reducible assumption
    | with_reducible refine done_caused ?_
    | with_reducible refine modRx_caused ?_
    | with_reducible refine enterDetect_caused ?_
    | with_reducible refine ite_caused ?_ ?_
    | with_reducible refine foldl_caused ?_ (fun t a h => ?_)
    | with_reducible exact setOut_sameJoin _ _ _
    | with_reducible refine sameJoin_of ?_ ?_
    | with_reducible refine And.intro ?_ ?_
    | with_reducible rfl
    | dsimp -proj only
    | split

theorem rateSeen_caused {s x : State} {a0 a1 a2} (h : Caused s x) :
    Caused s (rateSeen x a0 a1 a2) := by
  unfold rateSeen
  repeat' first
    | with_reducible assumption
    | with_reducible refine modLink_caused ?_ ?_
    | with_reducible refine modRx_caused ?_
    | with_reducible refine takeLinkRate_caused ?_
    | with_reducible refine ite_caused ?_ ?_
    | with_reducible refine foldl_caused ?_ (fun t a h => ?_)
    | with_reducible exact setOut_sameJoin _ _ _
    | with_reducible refine sameJoin_of ?_ ?_
    | with_reducible refine And.intro ?_ ?_
    | with_reducible rfl
    | dsimp -proj only
    | split

theorem awlFinish_caused {s x : State} (h : Caused s x) : Caused s (awlFinish x) :=
  Caused.of_keeps (fun k hk => awlFinish_keeps hk (k.same_refl x)) (by decide) h

theorem execAwlDone_caused {s x : State} (h : Caused s x) :
    ∃ t, execAwlDone x = .next t ∧ Caused s t := by
  unfold execAwlDone
  repeat' first
    | with_reducible assumption
    | with_reducible refine done_caused ?_
    | with_reducible refine awlFinish_caused ?_
    | with_reducible refine ite_caused ?_ ?_
    | with_reducible refine foldl_caused ?_ (fun t a h => ?_)
    | with_reducible exact setOut_sameJoin _ _ _
    | with_reducible refine sameJoin_of ?_ ?_
    | with_reducible refine And.intro ?_ ?_
    | with_reducible rfl
    | dsimp -proj only
    | split

theorem execCeRateHour_caused {s x : State} (h : Caused s x) :
    ∃ t, execCeRateHour x = .next t ∧ Caused s t := by
  unfold execCeRateHour
  try dsimp -zeta -proj only [upd_store]
  repeat' first
    | with_reducible assumption
    | with_reducible refine done_caused ?_
    | with_reducible refine putStore_caused ?_
    | with_reducible refine ite_caused ?_ ?_
    | with_reducible refine foldl_caused ?_ (fun t a h => ?_)
    | with_reducible exact setOut_sameJoin _ _ _
    | with_reducible refine sameJoin_of ?_ ?_
    | with_reducible refine And.intro ?_ ?_
    | with_reducible rfl
    | dsimp -proj only
    | split

theorem execWqDisable_caused {s x : State} {a0 a1 a2} (h : Caused s x) :
    ∃ t, execWqDisable a0 a1 a2 x = .next t ∧ Caused s t := by
  unfold execWqDisable
  repeat' first
    | with_reducible assumption
    | with_reducible refine done_caused ?_
    | with_reducible refine writeTo_caused ?_
    | with_reducible refine ite_caused ?_ ?_
    | with_reducible refine foldl_caused ?_ (fun t a h => ?_)
    | with_reducible exact setOut_sameJoin _ _ _
    | with_reducible refine sameJoin_of ?_ ?_
    | with_reducible refine And.intro ?_ ?_
    | with_reducible rfl
    | dsimp -proj only
    | split

theorem execScrubLine_caused {s x : State} {a0} (h : Caused s x) :
    ∃ t, execScrubLine a0 x = .next t ∧ Caused s t := by
  unfold execScrubLine
  repeat' first
    | with_reducible assumption
    | with_reducible refine done_caused ?_
    | with_reducible refine visitLine_caused ?_
    | with_reducible refine upset_caused ?_
    | with_reducible refine ite_caused ?_ ?_
    | with_reducible refine foldl_caused ?_ (fun t a h => ?_)
    | with_reducible exact setOut_sameJoin _ _ _
    | with_reducible refine sameJoin_of ?_ ?_
    | with_reducible refine And.intro ?_ ?_
    | with_reducible rfl
    | dsimp -proj only
    | split

theorem execTmseqctlRestart_caused {s x : State} {a0 a1 a2} (h : Caused s x) :
    ∃ t, execTmseqctlRestart a0 a1 a2 x = .next t ∧ Caused s t := by
  unfold execTmseqctlRestart
  repeat' first
    | with_reducible assumption
    | with_reducible refine done_caused ?_
    | with_reducible refine writeTo_caused ?_
    | with_reducible refine ite_caused ?_ ?_
    | with_reducible refine foldl_caused ?_ (fun t a h => ?_)
    | with_reducible exact setOut_sameJoin _ _ _
    | with_reducible refine sameJoin_of ?_ ?_
    | with_reducible refine And.intro ?_ ?_
    | with_reducible rfl
    | dsimp -proj only
    | split

theorem execEyeSweepEnd_caused {s x : State} {a0 a1 a2 a3} (h : Caused s x) :
    ∃ t, execEyeSweepEnd a0 a1 a2 a3 x = .next t ∧ Caused s t := by
  unfold execEyeSweepEnd
  repeat' first
    | with_reducible assumption
    | with_reducible refine done_caused ?_
    | with_reducible refine eyeAlarm_caused ?_
    | with_reducible refine qualityCheck_caused ?_
    | with_reducible refine modMeas_caused ?_
    | with_reducible refine ite_caused ?_ ?_
    | with_reducible refine foldl_caused ?_ (fun t a h => ?_)
    | with_reducible exact setOut_sameJoin _ _ _
    | with_reducible refine sameJoin_of ?_ ?_
    | with_reducible refine And.intro ?_ ?_
    | with_reducible rfl
    | dsimp -proj only
    | split

theorem execNop_caused {s x : State} {a0} (h : Caused s x) :
    ∃ t, execNop a0 x = .next t ∧ Caused s t := by
  unfold execNop
  repeat' first
    | with_reducible assumption
    | with_reducible refine done_caused ?_
    | with_reducible refine modWq_caused ?_
    | with_reducible refine noteFence_caused ?_
    | with_reducible refine endEntry_caused ?_
    | with_reducible refine ite_caused ?_ ?_
    | with_reducible refine foldl_caused ?_ (fun t a h => ?_)
    | with_reducible exact setOut_sameJoin _ _ _
    | with_reducible refine sameJoin_of ?_ ?_
    | with_reducible refine And.intro ?_ ?_
    | with_reducible rfl
    | dsimp -proj only
    | split

theorem execWeltCauseArises_caused {s x : State} {a0} (h : Caused s x) :
    ∃ t, execWeltCauseArises a0 x = .next t ∧ Caused s t := by
  unfold execWeltCauseArises
  repeat' first
    | with_reducible assumption
    | with_reducible exact enterReset_any _
    | with_reducible exact settle_any _
    | with_reducible refine done_caused ?_
    | with_reducible refine settle_caused ?_
    | with_reducible refine modPower_caused ?_ ?_
    | with_reducible refine enterReset_caused ?_
    | with_reducible refine modPins_caused ?_ ?_
    | with_reducible refine ite_caused ?_ ?_
    | with_reducible refine foldl_caused ?_ (fun t a h => ?_)
    | with_reducible exact setOut_sameJoin _ _ _
    | with_reducible refine sameJoin_of ?_ ?_
    | with_reducible refine And.intro ?_ ?_
    | with_reducible rfl
    | dsimp -proj only
    | split

theorem execSpareRetry_caused {s x : State} {a0} (h : Caused s x) :
    ∃ t, execSpareRetry a0 x = .next t ∧ Caused s t := by
  unfold execSpareRetry
  repeat' first
    | with_reducible assumption
    | with_reducible refine done_caused ?_
    | with_reducible refine retrySwap_caused ?_
    | with_reducible refine resendRelease_caused ?_
    | with_reducible refine ite_caused ?_ ?_
    | with_reducible refine foldl_caused ?_ (fun t a h => ?_)
    | with_reducible exact setOut_sameJoin _ _ _
    | with_reducible refine sameJoin_of ?_ ?_
    | with_reducible refine And.intro ?_ ?_
    | with_reducible rfl
    | dsimp -proj only
    | split

theorem execWakeFail_caused {s x : State} {a0} (h : Caused s x) :
    ∃ t, execWakeFail a0 x = .next t ∧ Caused s t := by
  unfold execWakeFail
  repeat' first
    | with_reducible assumption
    | with_reducible refine done_caused ?_
    | with_reducible refine logK_caused ?_
    | with_reducible refine requestRetrain_caused ?_
    | with_reducible refine ite_caused ?_ ?_
    | with_reducible refine foldl_caused ?_ (fun t a h => ?_)
    | with_reducible exact setOut_sameJoin _ _ _
    | with_reducible refine sameJoin_of ?_ ?_
    | with_reducible refine And.intro ?_ ?_
    | with_reducible rfl
    | dsimp -proj only
    | split

theorem execCaptureStop_caused {s x : State} {a0} (h : Caused s x) :
    ∃ t, execCaptureStop a0 x = .next t ∧ Caused s t := by
  unfold execCaptureStop
  repeat' first
    | with_reducible assumption
    | with_reducible refine done_caused ?_
    | with_reducible refine stopCapture_caused ?_
    | with_reducible refine ite_caused ?_ ?_
    | with_reducible refine foldl_caused ?_ (fun t a h => ?_)
    | with_reducible exact setOut_sameJoin _ _ _
    | with_reducible refine sameJoin_of ?_ ?_
    | with_reducible refine And.intro ?_ ?_
    | with_reducible rfl
    | dsimp -proj only
    | split

theorem execTwbSclLow_caused {s x : State} {a0} (h : Caused s x) :
    ∃ t, execTwbSclLow a0 x = .next t ∧ Caused s t := by
  unfold execTwbSclLow
  repeat' first
    | with_reducible assumption
    | with_reducible refine modTwb_caused ?_
    | with_reducible refine done_caused ?_
    | with_reducible refine endEeprom_caused ?_
    | with_reducible refine logEvent_caused ?_
    | with_reducible refine ite_caused ?_ ?_
    | with_reducible refine foldl_caused ?_ (fun t a h => ?_)
    | with_reducible exact setOut_sameJoin _ _ _
    | with_reducible refine sameJoin_of ?_ ?_
    | with_reducible refine And.intro ?_ ?_
    | with_reducible rfl
    | dsimp -proj only
    | split

theorem execLnkctlAside_caused {s x : State} {a0 a1 a2} (h : Caused s x) :
    ∃ t, execLnkctlAside a0 a1 a2 x = .next t ∧ Caused s t := by
  unfold execLnkctlAside
  repeat' first
    | with_reducible assumption
    | with_reducible refine done_caused ?_
    | with_reducible refine writeTo_caused ?_
    | with_reducible refine ite_caused ?_ ?_
    | with_reducible refine foldl_caused ?_ (fun t a h => ?_)
    | with_reducible exact setOut_sameJoin _ _ _
    | with_reducible refine sameJoin_of ?_ ?_
    | with_reducible refine And.intro ?_ ?_
    | with_reducible rfl
    | dsimp -proj only
    | split

theorem execTwbSdaLow_caused {s x : State} {a0} (h : Caused s x) :
    ∃ t, execTwbSdaLow a0 x = .next t ∧ Caused s t := by
  unfold execTwbSdaLow
  repeat' first
    | with_reducible assumption
    | with_reducible refine modTwb_caused ?_
    | with_reducible refine done_caused ?_
    | with_reducible refine logEvent_caused ?_
    | with_reducible refine ite_caused ?_ ?_
    | with_reducible refine foldl_caused ?_ (fun t a h => ?_)
    | with_reducible exact setOut_sameJoin _ _ _
    | with_reducible refine sameJoin_of ?_ ?_
    | with_reducible refine And.intro ?_ ?_
    | with_reducible rfl
    | dsimp -proj only
    | split

theorem flushDue_caused {s x : State} {a0 a1} (h : Caused s x) : Caused s (flushDue a0 x a1) :=
  Caused.of_keeps (fun k hk => flushDue_keeps (a0 := a0) (a1 := a1) hk (k.same_refl x)) (by decide) h

theorem execSupplyInWindow_caused {s x : State} {a0} (h : Caused s x) :
    ∃ t, execSupplyInWindow a0 x = .next t ∧ Caused s t := by
  unfold execSupplyInWindow
  repeat' first
    | with_reducible assumption
    | with_reducible refine done_caused ?_
    | with_reducible refine modPower_caused ?_ ?_
    | with_reducible refine ite_caused ?_ ?_
    | with_reducible refine foldl_caused ?_ (fun t a h => ?_)
    | with_reducible exact setOut_sameJoin _ _ _
    | with_reducible refine sameJoin_of ?_ ?_
    | with_reducible refine And.intro ?_ ?_
    | with_reducible rfl
    | dsimp -proj only
    | split

theorem execSleepWake_caused {s x : State} {a0 a1} (h : Caused s x) :
    ∃ t, execSleepWake a0 a1 x = .next t ∧ Caused s t := by
  unfold execSleepWake
  repeat' first
    | with_reducible assumption
    | with_reducible refine done_caused ?_
    | with_reducible refine modLink_caused ?_ ?_
    | with_reducible refine modRx_caused ?_
    | with_reducible refine lockPlls_caused ?_
    | with_reducible refine ite_caused ?_ ?_
    | with_reducible refine foldl_caused ?_ (fun t a h => ?_)
    | with_reducible exact setOut_sameJoin _ _ _
    | with_reducible refine sameJoin_of ?_ ?_
    | with_reducible refine And.intro ?_ ?_
    | with_reducible rfl
    | dsimp -proj only
    | split

theorem execDevctlAside_caused {s x : State} {a0 a1} (h : Caused s x) :
    ∃ t, execDevctlAside a0 a1 x = .next t ∧ Caused s t := by
  unfold execDevctlAside
  repeat' first
    | with_reducible assumption
    | with_reducible refine done_caused ?_
    | with_reducible refine writeTo_caused ?_
    | with_reducible refine ite_caused ?_ ?_
    | with_reducible refine foldl_caused ?_ (fun t a h => ?_)
    | with_reducible exact setOut_sameJoin _ _ _
    | with_reducible refine sameJoin_of ?_ ?_
    | with_reducible refine And.intro ?_ ?_
    | with_reducible rfl
    | dsimp -proj only
    | split

theorem execCommit_caused {s x : State} {a0 a1} (h : Caused s x) :
    ∃ t, execCommit a0 a1 x = .next t ∧ Caused s t := by
  unfold execCommit
  repeat' first
    | with_reducible assumption
    | with_reducible refine done_caused ?_
    | with_reducible refine writeTo_caused ?_
    | with_reducible refine ite_caused ?_ ?_
    | with_reducible refine foldl_caused ?_ (fun t a h => ?_)
    | with_reducible exact setOut_sameJoin _ _ _
    | with_reducible refine sameJoin_of ?_ ?_
    | with_reducible refine And.intro ?_ ?_
    | with_reducible rfl
    | dsimp -proj only
    | split

theorem execSkipRateWindow_caused {s x : State} (h : Caused s x) :
    ∃ t, execSkipRateWindow x = .next t ∧ Caused s t := by
  unfold execSkipRateWindow
  try dsimp -zeta -proj only [upd_lanes]
  repeat' first
    | with_reducible assumption
    | with_reducible refine done_caused ?_
    | with_reducible refine putLanes_caused ?_
    | with_reducible refine ite_caused ?_ ?_
    | with_reducible refine foldl_caused ?_ (fun t a h => ?_)
    | with_reducible exact setOut_sameJoin _ _ _
    | with_reducible refine sameJoin_of ?_ ?_
    | with_reducible refine And.intro ?_ ?_
    | with_reducible rfl
    | dsimp -proj only
    | split

theorem clockLost_caused {s x : State} {a0 a1} (h : Caused s x) :
    Caused s (clockLost x a0 a1) := by
  unfold clockLost
  repeat' first
    | with_reducible assumption
    | with_reducible refine forwardLost_caused ?_
    | with_reducible refine markLost_caused ?_
    | with_reducible refine afterLosses_caused ?_
    | with_reducible refine ite_caused ?_ ?_
    | with_reducible refine foldl_caused ?_ (fun t a h => ?_)
    | with_reducible exact setOut_sameJoin _ _ _
    | with_reducible refine sameJoin_of ?_ ?_
    | with_reducible refine And.intro ?_ ?_
    | with_reducible rfl
    | dsimp -proj only
    | split

theorem pllLost_caused {s x : State} {a0} (h : Caused s x) :
    Caused s (pllLost x a0) := by
  unfold pllLost
  repeat' first
    | with_reducible assumption
    | with_reducible refine clockLost_caused ?_
    | with_reducible refine ite_caused ?_ ?_
    | with_reducible refine foldl_caused ?_ (fun t a h => ?_)
    | with_reducible exact setOut_sameJoin _ _ _
    | with_reducible refine sameJoin_of ?_ ?_
    | with_reducible refine And.intro ?_ ?_
    | with_reducible rfl
    | dsimp -proj only
    | split

theorem execSidePllLoss_caused {s x : State} {a0} (h : Caused s x) :
    ∃ t, execSidePllLoss a0 x = .next t ∧ Caused s t := by
  unfold execSidePllLoss
  repeat' first
    | with_reducible assumption
    | with_reducible refine done_caused ?_
    | with_reducible refine pllUnlocked_caused ?_
    | with_reducible refine pllLost_caused ?_
    | with_reducible refine ite_caused ?_ ?_
    | with_reducible refine foldl_caused ?_ (fun t a h => ?_)
    | with_reducible exact setOut_sameJoin _ _ _
    | with_reducible refine sameJoin_of ?_ ?_
    | with_reducible refine And.intro ?_ ?_
    | with_reducible rfl
    | dsimp -proj only
    | split

theorem execCompletionWrite_caused {s x : State} {a0} (h : Caused s x) :
    ∃ t, execCompletionWrite a0 x = .next t ∧ Caused s t := by
  unfold execCompletionWrite
  repeat' first
    | with_reducible assumption
    | with_reducible refine done_caused ?_
    | with_reducible refine flushDue_caused ?_
    | with_reducible refine ite_caused ?_ ?_
    | with_reducible refine foldl_caused ?_ (fun t a h => ?_)
    | with_reducible exact setOut_sameJoin _ _ _
    | with_reducible refine sameJoin_of ?_ ?_
    | with_reducible refine And.intro ?_ ?_
    | with_reducible rfl
    | dsimp -proj only
    | split

theorem setSuspended_caused {s x : State} {a0} (h : Caused s x) : Caused s (setSuspended x a0) :=
  Caused.of_keeps (fun k hk => setSuspended_keeps (a0 := a0) hk (k.same_refl x)) (by decide) h

theorem execCqheadWrite_caused {s x : State} {a0 a1 a2} (h : Caused s x) :
    ∃ t, execCqheadWrite a0 a1 a2 x = .next t ∧ Caused s t := by
  unfold execCqheadWrite
  repeat' first
    | with_reducible assumption
    | with_reducible refine done_caused ?_
    | with_reducible refine writeTo_caused ?_
    | with_reducible refine ite_caused ?_ ?_
    | with_reducible refine foldl_caused ?_ (fun t a h => ?_)
    | with_reducible exact setOut_sameJoin _ _ _
    | with_reducible refine sameJoin_of ?_ ?_
    | with_reducible refine And.intro ?_ ?_
    | with_reducible rfl
    | dsimp -proj only
    | split

theorem execRailInvalid_caused {s x : State} {a0} (h : Caused s x) :
    ∃ t, execRailInvalid a0 x = .next t ∧ Caused s t := by
  unfold execRailInvalid
  try dsimp -zeta -proj only [upd_jtag]
  repeat' first
    | with_reducible assumption
    | with_reducible exact enterReset_any _
    | with_reducible exact settle_any _
    | with_reducible refine done_caused ?_
    | with_reducible refine settle_caused ?_
    | with_reducible refine modPower_caused ?_ ?_
    | with_reducible refine railOutside_caused ?_
    | with_reducible refine enterReset_caused ?_
    | with_reducible refine putJtag_caused ?_
    | with_reducible refine ite_caused ?_ ?_
    | with_reducible refine foldl_caused ?_ (fun t a h => ?_)
    | with_reducible exact setOut_sameJoin _ _ _
    | with_reducible refine sameJoin_of ?_ ?_
    | with_reducible refine And.intro ?_ ?_
    | with_reducible rfl
    | dsimp -proj only
    | split

theorem execTwbStartStop_caused {s x : State} {a0 a1} (h : Caused s x) :
    ∃ t, execTwbStartStop a0 a1 x = .next t ∧ Caused s t := by
  unfold execTwbStartStop
  repeat' first
    | with_reducible assumption
    | with_reducible refine modTwb_caused ?_
    | with_reducible refine done_caused ?_
    | with_reducible refine ite_caused ?_ ?_
    | with_reducible refine foldl_caused ?_ (fun t a h => ?_)
    | with_reducible exact setOut_sameJoin _ _ _
    | with_reducible refine sameJoin_of ?_ ?_
    | with_reducible refine And.intro ?_ ?_
    | with_reducible rfl
    | dsimp -proj only
    | split

theorem execWqResume_caused {s x : State} {a0 a1 a2} (h : Caused s x) :
    ∃ t, execWqResume a0 a1 a2 x = .next t ∧ Caused s t := by
  unfold execWqResume
  repeat' first
    | with_reducible assumption
    | with_reducible refine done_caused ?_
    | with_reducible refine writeTo_caused ?_
    | with_reducible refine ite_caused ?_ ?_
    | with_reducible refine foldl_caused ?_ (fun t a h => ?_)
    | with_reducible exact setOut_sameJoin _ _ _
    | with_reducible refine sameJoin_of ?_ ?_
    | with_reducible refine And.intro ?_ ?_
    | with_reducible rfl
    | dsimp -proj only
    | split

theorem enterStandby_caused {s x : State} (h : Caused s x) : Caused s (enterStandby x) := by
  unfold enterStandby
  split
  · exact h
  · have hd : (settle { x with dev := { x.dev with standby := true, entering := false } }).dev.standby = true := by
      have e : (settle { x with dev := { x.dev with standby := true, entering := false } }).dev =
        { x.dev with standby := true, entering := false } := settle_keeps (k := .dev) (by decide) rfl
      rw [e]
    have hk : Caused s (settle { x with dev := { x.dev with standby := true, entering := false } }) := settle_any _
    generalize settle { x with dev := { x.dev with standby := true, entering := false } } = y at hd hk
    refine loadPrograms_caused (loadSpares_caused (loadQueues_caused (Caused.of_dev (x := y) ?_ rfl hk)))
    unfold devCause
    rw [hd, Bool.or_true]

theorem execStandbyEntered_caused {s x : State} (h : Caused s x) :
    ∃ t, execStandbyEntered x = .next t ∧ Caused s t := by
  unfold execStandbyEntered
  repeat' first
    | with_reducible assumption
    | with_reducible refine enterStandby_caused ?_
    | with_reducible refine done_caused ?_
    | with_reducible refine ite_caused ?_ ?_
    | with_reducible refine foldl_caused ?_ (fun t a h => ?_)
    | with_reducible exact setOut_sameJoin _ _ _
    | with_reducible refine sameJoin_of ?_ ?_
    | with_reducible refine And.intro ?_ ?_
    | with_reducible rfl
    | dsimp -proj only
    | split

theorem raiseWarn_caused {s x : State} {a0} (h : Caused s x) :
    Caused s (raiseWarn x a0) := by
  unfold raiseWarn
  try dsimp -zeta -proj only [upd_therm]
  repeat' first
    | with_reducible assumption
    | with_reducible exact settle_any _
    | with_reducible refine logEvent_caused ?_
    | with_reducible refine settle_caused ?_
    | with_reducible refine partAside_caused ?_
    | with_reducible refine putTherm_caused ?_ ?_
    | with_reducible refine ite_caused ?_ ?_
    | with_reducible refine foldl_caused ?_ (fun t a h => ?_)
    | with_reducible exact setOut_sameJoin _ _ _
    | with_reducible refine sameJoin_of ?_ ?_
    | with_reducible refine And.intro ?_ ?_
    | with_reducible rfl
    | dsimp -proj only
    | split

theorem thermalHold_shutdown (t : Thermal) (j : BitVec 16) : (thermalHold t j).shutdown = t.shutdown := rfl

theorem execThermalSample_caused {s x : State} {a0} (h : Caused s x) :
    ∃ t, execThermalSample a0 x = .next t ∧ Caused s t := by
  unfold execThermalSample
  try dsimp -zeta -proj only [upd_therm]
  repeat' first
    | with_reducible assumption
    | with_reducible refine done_caused ?_
    | with_reducible refine enterShutdown_caused ?_
    | with_reducible refine raiseWarn_caused ?_
    | with_reducible refine putTherm_caused ?_ ?_
    | with_reducible refine ite_caused ?_ ?_
    | with_reducible refine foldl_caused ?_ (fun t a h => ?_)
    | with_reducible exact thermalHold_shutdown _ _
    | with_reducible exact setOut_sameJoin _ _ _
    | with_reducible refine sameJoin_of ?_ ?_
    | with_reducible refine And.intro ?_ ?_
    | with_reducible rfl
    | dsimp -proj only
    | split

theorem execNotifyRepeat_caused {s x : State} (h : Caused s x) :
    ∃ t, execNotifyRepeat x = .next t ∧ Caused s t := by
  unfold execNotifyRepeat
  repeat' first
    | with_reducible assumption
    | with_reducible refine done_caused ?_
    | with_reducible refine queueNotify_caused ?_
    | with_reducible refine ite_caused ?_ ?_
    | with_reducible refine foldl_caused ?_ (fun t a h => ?_)
    | with_reducible exact setOut_sameJoin _ _ _
    | with_reducible refine sameJoin_of ?_ ?_
    | with_reducible refine And.intro ?_ ?_
    | with_reducible rfl
    | dsimp -proj only
    | split

theorem execEpochUnsent_caused {s x : State} {a0 a1} (h : Caused s x) :
    ∃ t, execEpochUnsent a0 a1 x = .next t ∧ Caused s t := by
  unfold execEpochUnsent
  repeat' first
    | with_reducible assumption
    | with_reducible refine done_caused ?_
    | with_reducible refine clearMark_caused ?_
    | with_reducible refine logK_caused ?_
    | with_reducible refine ite_caused ?_ ?_
    | with_reducible refine foldl_caused ?_ (fun t a h => ?_)
    | with_reducible exact setOut_sameJoin _ _ _
    | with_reducible refine sameJoin_of ?_ ?_
    | with_reducible refine And.intro ?_ ?_
    | with_reducible rfl
    | dsimp -proj only
    | split

theorem execDiscard_caused {s x : State} {a0 a1} (h : Caused s x) :
    ∃ t, execDiscard a0 a1 x = .next t ∧ Caused s t := by
  unfold execDiscard
  repeat' first
    | with_reducible assumption
    | with_reducible refine done_caused ?_
    | with_reducible refine writeTo_caused ?_
    | with_reducible refine ite_caused ?_ ?_
    | with_reducible refine foldl_caused ?_ (fun t a h => ?_)
    | with_reducible exact setOut_sameJoin _ _ _
    | with_reducible refine sameJoin_of ?_ ?_
    | with_reducible refine And.intro ?_ ?_
    | with_reducible rfl
    | dsimp -proj only
    | split

theorem execLnklossUncap_caused {s x : State} {a0 a1 a2} (h : Caused s x) :
    ∃ t, execLnklossUncap a0 a1 a2 x = .next t ∧ Caused s t := by
  unfold execLnklossUncap
  repeat' first
    | with_reducible assumption
    | with_reducible refine done_caused ?_
    | with_reducible refine writeTo_caused ?_
    | with_reducible refine ite_caused ?_ ?_
    | with_reducible refine foldl_caused ?_ (fun t a h => ?_)
    | with_reducible exact setOut_sameJoin _ _ _
    | with_reducible refine sameJoin_of ?_ ?_
    | with_reducible refine And.intro ?_ ?_
    | with_reducible rfl
    | dsimp -proj only
    | split

theorem execJobStart_caused {s x : State} {a0 a1} (h : Caused s x) :
    ∃ t, execJobStart a0 a1 x = .next t ∧ Caused s t := by
  unfold execJobStart
  repeat' first
    | with_reducible assumption
    | with_reducible refine done_caused ?_
    | with_reducible refine startJob_caused ?_
    | with_reducible refine ite_caused ?_ ?_
    | with_reducible refine foldl_caused ?_ (fun t a h => ?_)
    | with_reducible exact setOut_sameJoin _ _ _
    | with_reducible refine sameJoin_of ?_ ?_
    | with_reducible refine And.intro ?_ ?_
    | with_reducible rfl
    | dsimp -proj only
    | split

theorem execTwbSleep_caused {s x : State} (h : Caused s x) :
    ∃ t, execTwbSleep x = .next t ∧ Caused s t := by
  unfold execTwbSleep
  repeat' first
    | with_reducible assumption
    | with_reducible refine modTwb_caused ?_
    | with_reducible refine done_caused ?_
    | with_reducible refine ite_caused ?_ ?_
    | with_reducible refine foldl_caused ?_ (fun t a h => ?_)
    | with_reducible exact setOut_sameJoin _ _ _
    | with_reducible refine sameJoin_of ?_ ?_
    | with_reducible refine And.intro ?_ ?_
    | with_reducible rfl
    | dsimp -proj only
    | split

theorem execWqReset_caused {s x : State} {a0 a1 a2} (h : Caused s x) :
    ∃ t, execWqReset a0 a1 a2 x = .next t ∧ Caused s t := by
  unfold execWqReset
  repeat' first
    | with_reducible assumption
    | with_reducible refine done_caused ?_
    | with_reducible refine writeTo_caused ?_
    | with_reducible refine ite_caused ?_ ?_
    | with_reducible refine foldl_caused ?_ (fun t a h => ?_)
    | with_reducible exact setOut_sameJoin _ _ _
    | with_reducible refine sameJoin_of ?_ ?_
    | with_reducible refine And.intro ?_ ?_
    | with_reducible rfl
    | dsimp -proj only
    | split

theorem execJoinTrigger_caused {s x : State} {a0 a1} (h : Caused s x) :
    ∃ t, execJoinTrigger a0 a1 x = .next t ∧ Caused s t := by
  unfold execJoinTrigger
  repeat' first
    | with_reducible assumption
    | with_reducible refine done_caused ?_
    | with_reducible refine startJoin_caused ?_
    | with_reducible refine ite_caused ?_ ?_
    | with_reducible refine foldl_caused ?_ (fun t a h => ?_)
    | with_reducible exact setOut_sameJoin _ _ _
    | with_reducible refine sameJoin_of ?_ ?_
    | with_reducible refine And.intro ?_ ?_
    | with_reducible rfl
    | dsimp -proj only
    | split

theorem execLogTokenTick_caused {s x : State} (h : Caused s x) :
    ∃ t, execLogTokenTick x = .next t ∧ Caused s t := by
  unfold execLogTokenTick
  try dsimp -zeta -proj only [upd_nvm]
  repeat' first
    | with_reducible assumption
    | with_reducible refine done_caused ?_
    | with_reducible refine putNvm_caused ?_
    | with_reducible refine ite_caused ?_ ?_
    | with_reducible refine foldl_caused ?_ (fun t a h => ?_)
    | with_reducible exact setOut_sameJoin _ _ _
    | with_reducible refine sameJoin_of ?_ ?_
    | with_reducible refine And.intro ?_ ?_
    | with_reducible rfl
    | dsimp -proj only
    | split

theorem execRateDetected_caused {s x : State} {a0 a1 a2} (h : Caused s x) :
    ∃ t, execRateDetected a0 a1 a2 x = .next t ∧ Caused s t := by
  unfold execRateDetected
  repeat' first
    | with_reducible assumption
    | with_reducible refine done_caused ?_
    | with_reducible refine rateSeen_caused ?_
    | with_reducible refine ite_caused ?_ ?_
    | with_reducible refine foldl_caused ?_ (fun t a h => ?_)
    | with_reducible exact setOut_sameJoin _ _ _
    | with_reducible refine sameJoin_of ?_ ?_
    | with_reducible refine And.intro ?_ ?_
    | with_reducible rfl
    | dsimp -proj only
    | split

theorem execLnctlBitslip_caused {s x : State} {a0 a1 a2 a3} (h : Caused s x) :
    ∃ t, execLnctlBitslip a0 a1 a2 a3 x = .next t ∧ Caused s t := by
  unfold execLnctlBitslip
  repeat' first
    | with_reducible assumption
    | with_reducible refine done_caused ?_
    | with_reducible refine writeTo_caused ?_
    | with_reducible refine ite_caused ?_ ?_
    | with_reducible refine foldl_caused ?_ (fun t a h => ?_)
    | with_reducible exact setOut_sameJoin _ _ _
    | with_reducible refine sameJoin_of ?_ ?_
    | with_reducible refine And.intro ?_ ?_
    | with_reducible rfl
    | dsimp -proj only
    | split

theorem execForcedIdleRetrain_caused {s x : State} {a0} (h : Caused s x) :
    ∃ t, execForcedIdleRetrain a0 x = .next t ∧ Caused s t := by
  unfold execForcedIdleRetrain
  repeat' first
    | with_reducible assumption
    | with_reducible refine done_caused ?_
    | with_reducible refine modLink_caused ?_ ?_
    | with_reducible refine enterRetrain_caused ?_
    | with_reducible refine ite_caused ?_ ?_
    | with_reducible refine foldl_caused ?_ (fun t a h => ?_)
    | with_reducible exact setOut_sameJoin _ _ _
    | with_reducible refine sameJoin_of ?_ ?_
    | with_reducible refine And.intro ?_ ?_
    | with_reducible rfl
    | dsimp -proj only
    | split

theorem execTwbWriteWord_caused {s x : State} {a0 a1} (h : Caused s x) :
    ∃ t, execTwbWriteWord a0 a1 x = .next t ∧ Caused s t := by
  unfold execTwbWriteWord
  repeat' first
    | with_reducible assumption
    | with_reducible refine modTwb_caused ?_
    | with_reducible refine done_caused ?_
    | with_reducible refine busWrite_caused ?_
    | with_reducible refine upset_caused ?_
    | with_reducible refine ite_caused ?_ ?_
    | with_reducible refine foldl_caused ?_ (fun t a h => ?_)
    | with_reducible exact setOut_sameJoin _ _ _
    | with_reducible refine sameJoin_of ?_ ?_
    | with_reducible refine And.intro ?_ ?_
    | with_reducible rfl
    | dsimp -proj only
    | split

theorem cutNvm_caused {s x : State} (h : Caused s x) : Caused s (cutNvm x) :=
  Caused.of_keeps (fun k hk => cutNvm_keeps hk (k.same_refl x)) (by decide) h

theorem execStoreWrite_caused {s x : State} {a0 a1 a2 a3} (h : Caused s x) :
    ∃ t, execStoreWrite a0 a1 a2 a3 x = .next t ∧ Caused s t := by
  unfold execStoreWrite
  repeat' first
    | with_reducible assumption
    | with_reducible refine done_caused ?_
    | with_reducible refine busWrite_caused ?_
    | with_reducible refine upset_caused ?_
    | with_reducible refine ite_caused ?_ ?_
    | with_reducible refine foldl_caused ?_ (fun t a h => ?_)
    | with_reducible exact setOut_sameJoin _ _ _
    | with_reducible refine sameJoin_of ?_ ?_
    | with_reducible refine And.intro ?_ ?_
    | with_reducible rfl
    | dsimp -proj only
    | split

theorem execWqEnable_caused {s x : State} {a0 a1 a2} (h : Caused s x) :
    ∃ t, execWqEnable a0 a1 a2 x = .next t ∧ Caused s t := by
  unfold execWqEnable
  repeat' first
    | with_reducible assumption
    | with_reducible refine done_caused ?_
    | with_reducible refine writeTo_caused ?_
    | with_reducible refine ite_caused ?_ ?_
    | with_reducible refine foldl_caused ?_ (fun t a h => ?_)
    | with_reducible exact setOut_sameJoin _ _ _
    | with_reducible refine sameJoin_of ?_ ?_
    | with_reducible refine And.intro ?_ ?_
    | with_reducible rfl
    | dsimp -proj only
    | split

theorem execSyncEdge_caused {s x : State} (h : Caused s x) :
    ∃ t, execSyncEdge x = .next t ∧ Caused s t := by
  unfold execSyncEdge
  repeat' first
    | with_reducible assumption
    | with_reducible refine done_caused ?_
    | with_reducible refine syncSeen_caused ?_
    | with_reducible refine ite_caused ?_ ?_
    | with_reducible refine foldl_caused ?_ (fun t a h => ?_)
    | with_reducible exact setOut_sameJoin _ _ _
    | with_reducible refine sameJoin_of ?_ ?_
    | with_reducible refine And.intro ?_ ?_
    | with_reducible rfl
    | dsimp -proj only
    | split

theorem scanRow_caused {s x : State} {a0 a1 a2 a3} (h : Caused s x) :
    Caused s (scanRow x a0 a1 a2 a3) := by
  unfold scanRow
  repeat' first
    | with_reducible assumption
    | with_reducible refine writeHeldScan_caused ?_
    | with_reducible refine keepJob_caused ?_
    | with_reducible refine scanGoesOn_caused ?_
    | with_reducible refine putData_caused ?_
    | with_reducible refine putData_caused_eq ?_ (by with_reducible assumption)
    | with_reducible refine ite_caused ?_ ?_
    | with_reducible refine foldl_caused ?_ (fun t a h => ?_)
    | with_reducible exact setOut_sameJoin _ _ _
    | with_reducible refine sameJoin_of ?_ ?_
    | with_reducible refine And.intro ?_ ?_
    | with_reducible rfl
    | dsimp -proj only
    | split

theorem execAdcSelfCalEnd_caused {s x : State} (h : Caused s x) :
    ∃ t, execAdcSelfCalEnd x = .next t ∧ Caused s t := by
  unfold execAdcSelfCalEnd
  try dsimp -zeta -proj only [upd_cal]
  repeat' first
    | with_reducible assumption
    | with_reducible refine done_caused ?_
    | with_reducible refine resetDecimator_caused ?_
    | with_reducible refine putCal_caused ?_
    | with_reducible refine ite_caused ?_ ?_
    | with_reducible refine foldl_caused ?_ (fun t a h => ?_)
    | with_reducible exact setOut_sameJoin _ _ _
    | with_reducible refine sameJoin_of ?_ ?_
    | with_reducible refine And.intro ?_ ?_
    | with_reducible rfl
    | dsimp -proj only
    | split

theorem execHeaderWrite_caused {s x : State} {a0} (h : Caused s x) :
    ∃ t, execHeaderWrite a0 x = .next t ∧ Caused s t := by
  unfold execHeaderWrite
  repeat' first
    | with_reducible assumption
    | with_reducible refine done_caused ?_
    | with_reducible refine modWq_caused ?_
    | with_reducible refine jobWrite_caused ?_
    | with_reducible refine jobWrite_caused_eq ?_ (by with_reducible assumption)
    | with_reducible refine headerFault_caused ?_
    | with_reducible refine ite_caused ?_ ?_
    | with_reducible refine foldl_caused ?_ (fun t a h => ?_)
    | with_reducible exact setOut_sameJoin _ _ _
    | with_reducible refine sameJoin_of ?_ ?_
    | with_reducible refine And.intro ?_ ?_
    | with_reducible rfl
    | dsimp -proj only
    | split

theorem execTwbWake_caused {s x : State} {a0} (h : Caused s x) :
    ∃ t, execTwbWake a0 x = .next t ∧ Caused s t := by
  unfold execTwbWake
  repeat' first
    | with_reducible assumption
    | with_reducible refine done_caused ?_
    | with_reducible refine addressByte_caused ?_
    | with_reducible refine ite_caused ?_ ?_
    | with_reducible refine foldl_caused ?_ (fun t a h => ?_)
    | with_reducible exact setOut_sameJoin _ _ _
    | with_reducible refine sameJoin_of ?_ ?_
    | with_reducible refine And.intro ?_ ?_
    | with_reducible rfl
    | dsimp -proj only
    | split

theorem execPrbsLockLost_caused {s x : State} {a0 a1} (h : Caused s x) :
    ∃ t, execPrbsLockLost a0 a1 x = .next t ∧ Caused s t := by
  unfold execPrbsLockLost
  repeat' first
    | with_reducible assumption
    | with_reducible refine done_caused ?_
    | with_reducible refine logL_caused ?_
    | with_reducible refine modMeas_caused ?_
    | with_reducible refine modPrbsJob_caused ?_
    | with_reducible refine ite_caused ?_ ?_
    | with_reducible refine foldl_caused ?_ (fun t a h => ?_)
    | with_reducible exact setOut_sameJoin _ _ _
    | with_reducible refine sameJoin_of ?_ ?_
    | with_reducible refine And.intro ?_ ?_
    | with_reducible rfl
    | dsimp -proj only
    | split

theorem execAwlUnit_caused {s x : State} {a0 a1} (h : Caused s x) :
    ∃ t, execAwlUnit a0 a1 x = .next t ∧ Caused s t := by
  unfold execAwlUnit
  repeat' first
    | with_reducible assumption
    | with_reducible refine done_caused ?_
    | with_reducible refine writeTo_caused ?_
    | with_reducible refine ite_caused ?_ ?_
    | with_reducible refine foldl_caused ?_ (fun t a h => ?_)
    | with_reducible exact setOut_sameJoin _ _ _
    | with_reducible refine sameJoin_of ?_ ?_
    | with_reducible refine And.intro ?_ ?_
    | with_reducible rfl
    | dsimp -proj only
    | split

theorem execSequencerTimerTrigger_caused {s x : State} {a0} (h : Caused s x) :
    ∃ t, execSequencerTimerTrigger a0 x = .next t ∧ Caused s t := by
  unfold execSequencerTimerTrigger
  repeat' first
    | with_reducible assumption
    | with_reducible refine done_caused ?_
    | with_reducible refine trigger_caused ?_
    | with_reducible refine trigger_caused_eq ?_ (by with_reducible assumption)
    | with_reducible refine ite_caused ?_ ?_
    | with_reducible refine foldl_caused ?_ (fun t a h => ?_)
    | with_reducible exact setOut_sameJoin _ _ _
    | with_reducible refine sameJoin_of ?_ ?_
    | with_reducible refine And.intro ?_ ?_
    | with_reducible rfl
    | dsimp -proj only
    | split

theorem execEraseResume_caused {s x : State} (h : Caused s x) :
    ∃ t, execEraseResume x = .next t ∧ Caused s t := by
  unfold execEraseResume
  try dsimp -zeta -proj only [upd_nvm]
  repeat' first
    | with_reducible assumption
    | with_reducible refine done_caused ?_
    | with_reducible refine putNvm_caused ?_
    | with_reducible refine ite_caused ?_ ?_
    | with_reducible refine foldl_caused ?_ (fun t a h => ?_)
    | with_reducible exact setOut_sameJoin _ _ _
    | with_reducible refine sameJoin_of ?_ ?_
    | with_reducible refine And.intro ?_ ?_
    | with_reducible rfl
    | dsimp -proj only
    | split

theorem execIdlePeriodEnd_caused {s x : State} {a0} (h : Caused s x) :
    ∃ t, execIdlePeriodEnd a0 x = .next t ∧ Caused s t := by
  unfold execIdlePeriodEnd
  repeat' first
    | with_reducible assumption
    | with_reducible refine done_caused ?_
    | with_reducible refine modLink_caused ?_ ?_
    | with_reducible refine enterDetect_caused ?_
    | with_reducible refine ite_caused ?_ ?_
    | with_reducible refine foldl_caused ?_ (fun t a h => ?_)
    | with_reducible exact setOut_sameJoin _ _ _
    | with_reducible refine sameJoin_of ?_ ?_
    | with_reducible refine And.intro ?_ ?_
    | with_reducible rfl
    | dsimp -proj only
    | split

theorem execLoopFarEnd_caused {s x : State} {a0 a1 a2 a3} (h : Caused s x) :
    ∃ t, execLoopFarEnd a0 a1 a2 a3 x = .next t ∧ Caused s t := by
  unfold execLoopFarEnd
  repeat' first
    | with_reducible assumption
    | with_reducible refine done_caused ?_
    | with_reducible refine writeTo_caused ?_
    | with_reducible refine ite_caused ?_ ?_
    | with_reducible refine foldl_caused ?_ (fun t a h => ?_)
    | with_reducible exact setOut_sameJoin _ _ _
    | with_reducible refine sameJoin_of ?_ ?_
    | with_reducible refine And.intro ?_ ?_
    | with_reducible rfl
    | dsimp -proj only
    | split

theorem suspendForJob_caused {s x : State} (h : Caused s x) : Caused s (suspendForJob x) :=
  Caused.of_keeps (fun k hk => suspendForJob_keeps hk (k.same_refl x)) (by decide) h

theorem execSpareLockTimer_caused {s x : State} {a0 a1 a2 a3} (h : Caused s x) :
    ∃ t, execSpareLockTimer a0 a1 a2 a3 x = .next t ∧ Caused s t := by
  unfold execSpareLockTimer
  repeat' first
    | with_reducible assumption
    | with_reducible refine done_caused ?_
    | with_reducible refine setSpare_caused ?_
    | with_reducible refine ite_caused ?_ ?_
    | with_reducible refine foldl_caused ?_ (fun t a h => ?_)
    | with_reducible exact setOut_sameJoin _ _ _
    | with_reducible refine sameJoin_of ?_ ?_
    | with_reducible refine And.intro ?_ ?_
    | with_reducible rfl
    | dsimp -proj only
    | split

theorem execJobEnd_caused {s x : State} {a0} (h : Caused s x) :
    ∃ t, execJobEnd a0 x = .next t ∧ Caused s t := by
  unfold execJobEnd
  repeat' first
    | with_reducible assumption
    | with_reducible refine done_caused ?_
    | with_reducible refine ownDone_caused ?_
    | with_reducible refine retireJob_caused ?_
    | with_reducible refine ite_caused ?_ ?_
    | with_reducible refine foldl_caused ?_ (fun t a h => ?_)
    | with_reducible exact setOut_sameJoin _ _ _
    | with_reducible refine sameJoin_of ?_ ?_
    | with_reducible refine And.intro ?_ ?_
    | with_reducible rfl
    | dsimp -proj only
    | split

theorem writePrbs_caused {s x : State} {a0 a1} (h : Caused s x) :
    Caused s (writePrbs x a0 a1) := by
  unfold writePrbs
  repeat' first
    | with_reducible assumption
    | with_reducible refine finishWith_caused ?_
    | with_reducible refine putData_caused ?_
    | with_reducible refine putData_caused_eq ?_ (by with_reducible assumption)
    | with_reducible refine ite_caused ?_ ?_
    | with_reducible refine foldl_caused ?_ (fun t a h => ?_)
    | with_reducible exact setOut_sameJoin _ _ _
    | with_reducible refine sameJoin_of ?_ ?_
    | with_reducible refine And.intro ?_ ?_
    | with_reducible rfl
    | dsimp -proj only
    | split

theorem execPrbsJobDurationEnd_caused {s x : State} {a0 a1} (h : Caused s x) :
    ∃ t, execPrbsJobDurationEnd a0 a1 x = .next t ∧ Caused s t := by
  unfold execPrbsJobDurationEnd
  repeat' first
    | with_reducible assumption
    | with_reducible refine done_caused ?_
    | with_reducible refine stopPrbs_caused ?_
    | with_reducible refine writePrbs_caused ?_
    | with_reducible refine coolIdle_caused ?_
    | with_reducible refine ite_caused ?_ ?_
    | with_reducible refine foldl_caused ?_ (fun t a h => ?_)
    | with_reducible exact setOut_sameJoin _ _ _
    | with_reducible refine sameJoin_of ?_ ?_
    | with_reducible refine And.intro ?_ ?_
    | with_reducible rfl
    | dsimp -proj only
    | split

theorem execEraseSuspend_caused {s x : State} {a0} (h : Caused s x) :
    ∃ t, execEraseSuspend a0 x = .next t ∧ Caused s t := by
  unfold execEraseSuspend
  repeat' first
    | with_reducible assumption
    | with_reducible refine setSuspended_caused ?_
    | with_reducible refine done_caused ?_
    | with_reducible refine ownDone_caused ?_
    | with_reducible refine suspendForJob_caused ?_
    | with_reducible refine ite_caused ?_ ?_
    | with_reducible refine foldl_caused ?_ (fun t a h => ?_)
    | with_reducible exact setOut_sameJoin _ _ _
    | with_reducible refine sameJoin_of ?_ ?_
    | with_reducible refine And.intro ?_ ?_
    | with_reducible rfl
    | dsimp -proj only
    | split

theorem execTwbAddress_caused {s x : State} {a0 a1} (h : Caused s x) :
    ∃ t, execTwbAddress a0 a1 x = .next t ∧ Caused s t := by
  unfold execTwbAddress
  repeat' first
    | with_reducible assumption
    | with_reducible refine done_caused ?_
    | with_reducible refine addressByte_caused ?_
    | with_reducible refine ite_caused ?_ ?_
    | with_reducible refine foldl_caused ?_ (fun t a h => ?_)
    | with_reducible exact setOut_sameJoin _ _ _
    | with_reducible refine sameJoin_of ?_ ?_
    | with_reducible refine And.intro ?_ ?_
    | with_reducible rfl
    | dsimp -proj only
    | split

theorem execDevctlWake_caused {s x : State} {a0 a1} (h : Caused s x) :
    ∃ t, execDevctlWake a0 a1 x = .next t ∧ Caused s t := by
  unfold execDevctlWake
  repeat' first
    | with_reducible assumption
    | with_reducible refine done_caused ?_
    | with_reducible refine writeTo_caused ?_
    | with_reducible refine ite_caused ?_ ?_
    | with_reducible refine foldl_caused ?_ (fun t a h => ?_)
    | with_reducible exact setOut_sameJoin _ _ _
    | with_reducible refine sameJoin_of ?_ ?_
    | with_reducible refine And.intro ?_ ?_
    | with_reducible rfl
    | dsimp -proj only
    | split

theorem execLnkspcmdBack_caused {s x : State} {a0 a1 a2} (h : Caused s x) :
    ∃ t, execLnkspcmdBack a0 a1 a2 x = .next t ∧ Caused s t := by
  unfold execLnkspcmdBack
  repeat' first
    | with_reducible assumption
    | with_reducible refine done_caused ?_
    | with_reducible refine writeTo_caused ?_
    | with_reducible refine ite_caused ?_ ?_
    | with_reducible refine foldl_caused ?_ (fun t a h => ?_)
    | with_reducible exact setOut_sameJoin _ _ _
    | with_reducible refine sameJoin_of ?_ ?_
    | with_reducible refine And.intro ?_ ?_
    | with_reducible rfl
    | dsimp -proj only
    | split

theorem execLnsnapTake_caused {s x : State} {a0 a1 a2 a3} (h : Caused s x) :
    ∃ t, execLnsnapTake a0 a1 a2 a3 x = .next t ∧ Caused s t := by
  unfold execLnsnapTake
  repeat' first
    | with_reducible assumption
    | with_reducible refine done_caused ?_
    | with_reducible refine writeTo_caused ?_
    | with_reducible refine ite_caused ?_ ?_
    | with_reducible refine foldl_caused ?_ (fun t a h => ?_)
    | with_reducible exact setOut_sameJoin _ _ _
    | with_reducible refine sameJoin_of ?_ ?_
    | with_reducible refine And.intro ?_ ?_
    | with_reducible rfl
    | dsimp -proj only
    | split

theorem execLnkctlJoin_caused {s x : State} {a0 a1 a2} (h : Caused s x) :
    ∃ t, execLnkctlJoin a0 a1 a2 x = .next t ∧ Caused s t := by
  unfold execLnkctlJoin
  repeat' first
    | with_reducible assumption
    | with_reducible refine done_caused ?_
    | with_reducible refine writeTo_caused ?_
    | with_reducible refine ite_caused ?_ ?_
    | with_reducible refine foldl_caused ?_ (fun t a h => ?_)
    | with_reducible exact setOut_sameJoin _ _ _
    | with_reducible refine sameJoin_of ?_ ?_
    | with_reducible refine And.intro ?_ ?_
    | with_reducible rfl
    | dsimp -proj only
    | split

theorem execLoopMasterMoved_caused {s x : State} {a0 a1} (h : Caused s x) :
    ∃ t, execLoopMasterMoved a0 a1 x = .next t ∧ Caused s t := by
  unfold execLoopMasterMoved
  repeat' first
    | with_reducible assumption
    | with_reducible refine done_caused ?_
    | with_reducible refine modLink_caused ?_ ?_
    | with_reducible refine modRx_caused ?_
    | with_reducible refine logLane_caused ?_
    | with_reducible refine ite_caused ?_ ?_
    | with_reducible refine foldl_caused ?_ (fun t a h => ?_)
    | with_reducible exact setOut_sameJoin _ _ _
    | with_reducible refine sameJoin_of ?_ ?_
    | with_reducible refine And.intro ?_ ?_
    | with_reducible rfl
    | dsimp -proj only
    | split

theorem execCommaReceived_caused {s x : State} {a0 a1 a2} (h : Caused s x) :
    ∃ t, execCommaReceived a0 a1 a2 x = .next t ∧ Caused s t := by
  unfold execCommaReceived
  repeat' first
    | with_reducible assumption
    | with_reducible refine done_caused ?_
    | with_reducible refine lockFollows_caused ?_
    | with_reducible refine modRx_caused ?_
    | with_reducible refine symLossRetrain_caused ?_
    | with_reducible refine ite_caused ?_ ?_
    | with_reducible refine foldl_caused ?_ (fun t a h => ?_)
    | with_reducible exact setOut_sameJoin _ _ _
    | with_reducible refine sameJoin_of ?_ ?_
    | with_reducible refine And.intro ?_ ?_
    | with_reducible rfl
    | dsimp -proj only
    | split

theorem execIdleEntrySetReceived_caused {s x : State} {a0 a1} (h : Caused s x) :
    ∃ t, execIdleEntrySetReceived a0 a1 x = .next t ∧ Caused s t := by
  unfold execIdleEntrySetReceived
  repeat' first
    | with_reducible assumption
    | with_reducible refine done_caused ?_
    | with_reducible refine idleEntry_caused ?_
    | with_reducible refine ite_caused ?_ ?_
    | with_reducible refine foldl_caused ?_ (fun t a h => ?_)
    | with_reducible exact setOut_sameJoin _ _ _
    | with_reducible refine sameJoin_of ?_ ?_
    | with_reducible refine And.intro ?_ ?_
    | with_reducible rfl
    | dsimp -proj only
    | split

theorem execJtagTapReset_caused {s x : State} (h : Caused s x) :
    ∃ t, execJtagTapReset x = .next t ∧ Caused s t := by
  unfold execJtagTapReset
  try dsimp -zeta -proj only [upd_pins_jtag]
  repeat' first
    | with_reducible assumption
    | with_reducible refine done_caused ?_
    | with_reducible refine putPins_caused ?_ ?_
    | with_reducible refine putJtag_caused ?_
    | with_reducible refine ite_caused ?_ ?_
    | with_reducible refine foldl_caused ?_ (fun t a h => ?_)
    | with_reducible exact setOut_sameJoin _ _ _
    | with_reducible refine sameJoin_of ?_ ?_
    | with_reducible refine And.intro ?_ ?_
    | with_reducible rfl
    | dsimp -proj only
    | split

theorem execUnrecoveredTimeout_caused {s x : State} {a0 a1 a2} (h : Caused s x) :
    ∃ t, execUnrecoveredTimeout a0 a1 a2 x = .next t ∧ Caused s t := by
  unfold execUnrecoveredTimeout
  repeat' first
    | with_reducible assumption
    | with_reducible refine done_caused ?_
    | with_reducible refine setUnrecovered_caused ?_
    | with_reducible refine ite_caused ?_ ?_
    | with_reducible refine foldl_caused ?_ (fun t a h => ?_)
    | with_reducible exact setOut_sameJoin _ _ _
    | with_reducible refine sameJoin_of ?_ ?_
    | with_reducible refine And.intro ?_ ?_
    | with_reducible rfl
    | dsimp -proj only
    | split

theorem execLoopNearSerial_caused {s x : State} {a0 a1 a2 a3} (h : Caused s x) :
    ∃ t, execLoopNearSerial a0 a1 a2 a3 x = .next t ∧ Caused s t := by
  unfold execLoopNearSerial
  repeat' first
    | with_reducible assumption
    | with_reducible refine done_caused ?_
    | with_reducible refine writeTo_caused ?_
    | with_reducible refine ite_caused ?_ ?_
    | with_reducible refine foldl_caused ?_ (fun t a h => ?_)
    | with_reducible exact setOut_sameJoin _ _ _
    | with_reducible refine sameJoin_of ?_ ?_
    | with_reducible refine And.intro ?_ ?_
    | with_reducible rfl
    | dsimp -proj only
    | split

theorem execJtagBypass_caused {s x : State} {a0} (h : Caused s x) :
    ∃ t, execJtagBypass a0 x = .next t ∧ Caused s t := by
  unfold execJtagBypass
  repeat' first
    | with_reducible assumption
    | with_reducible refine done_caused ?_
    | with_reducible refine jtagLoad_caused ?_
    | with_reducible refine modJtag_caused ?_
    | with_reducible refine ite_caused ?_ ?_
    | with_reducible refine foldl_caused ?_ (fun t a h => ?_)
    | with_reducible exact setOut_sameJoin _ _ _
    | with_reducible refine sameJoin_of ?_ ?_
    | with_reducible refine And.intro ?_ ?_
    | with_reducible rfl
    | dsimp -proj only
    | split

theorem execEyescan_caused {s x : State} {a0 a1 a2} (h : Caused s x) :
    ∃ t, execEyescan a0 a1 a2 x = .next t ∧ Caused s t := by
  unfold execEyescan
  repeat' first
    | with_reducible assumption
    | with_reducible refine done_caused ?_
    | with_reducible refine scanRow_caused ?_
    | with_reducible refine ite_caused ?_ ?_
    | with_reducible refine foldl_caused ?_ (fun t a h => ?_)
    | with_reducible exact setOut_sameJoin _ _ _
    | with_reducible refine sameJoin_of ?_ ?_
    | with_reducible refine And.intro ?_ ?_
    | with_reducible rfl
    | dsimp -proj only
    | split

theorem execAwlLane_caused {s x : State} {a0 a1} (h : Caused s x) :
    ∃ t, execAwlLane a0 a1 x = .next t ∧ Caused s t := by
  unfold execAwlLane
  repeat' first
    | with_reducible assumption
    | with_reducible refine done_caused ?_
    | with_reducible refine writeTo_caused ?_
    | with_reducible refine ite_caused ?_ ?_
    | with_reducible refine foldl_caused ?_ (fun t a h => ?_)
    | with_reducible exact setOut_sameJoin _ _ _
    | with_reducible refine sameJoin_of ?_ ?_
    | with_reducible refine And.intro ?_ ?_
    | with_reducible rfl
    | dsimp -proj only
    | split

theorem execArbitrationLost_caused {s x : State} (h : Caused s x) :
    ∃ t, execArbitrationLost x = .next t ∧ Caused s t := by
  unfold execArbitrationLost
  dsimp -zeta -proj only [upd_boot]
  split
  · have g : Caused s (x.putBoot { x.boot with phase := 1, arbLost := x.boot.arbLost + 1 }) :=
      putBoot_caused h ⟨rfl, rfl⟩
    refine done_caused ?_
    exact ite_caused (endEeprom_caused g) g
  · exact done_caused h

theorem exec_caused {s x : State} {a0} (h : Caused s x) : ∃ t, exec a0 x = .next t ∧ Caused s t := by
  cases a0 with
  | weltCauseArises c => exact execWeltCauseArises_caused (a0 := c) h
  | weltCauseClears c => exact execWeltCauseClears_caused (a0 := c) h
  | weltOpenConfirmed p => exact execWeltOpenConfirmed_caused (a0 := p) h
  | chargePumpReady => exact execChargePumpReady_caused h
  | railValid r => exact execRailValid_caused (a0 := r) h
  | railInvalid r => exact execRailInvalid_caused (a0 := r) h
  | supplyOutOfWindow r => exact execSupplyOutOfWindow_caused (a0 := r) h
  | resetNPulse => exact execResetNPulse_caused h
  | bypNPulse => exact execBypNPulse_caused h
  | resetRelease st => exact execResetRelease_caused (a0 := st) h
  | testEnHigh => exact execTestEnHigh_caused h
  | lastSelection => exact execLastSelection_caused h
  | eepromTransfer r => exact execEepromTransfer_caused (a0 := r) h
  | arbitrationLost => exact execArbitrationLost_caused h
  | globalApply => exact execGlobalApply_caused h
  | bootCalibration m => exact execBootCalibration_caused (a0 := m) h
  | bootDone => exact execBootDone_caused h
  | calrecWrite ok => exact execCalrecWrite_caused (a0 := ok) h
  | joinTrigger l k => exact execJoinTrigger_caused (a0 := l) (a1 := k) h
  | joinTimeout l => exact execJoinTimeout_caused (a0 := l) h
  | lnkctlJoin c l v => exact execLnkctlJoin_caused (a0 := c) (a1 := l) (a2 := v) h
  | lnkctlAside c l v => exact execLnkctlAside_caused (a0 := c) (a1 := l) (a2 := v) h
  | devctlAside c v => exact execDevctlAside_caused (a0 := c) (a1 := v) h
  | devctlStandby c v => exact execDevctlStandby_caused (a0 := c) (a1 := v) h
  | standbyEntered => exact execStandbyEntered_caused h
  | devctlWake c v => exact execDevctlWake_caused (a0 := c) (a1 := v) h
  | standbyExitDone => exact execStandbyExitDone_caused h
  | devctlThermRearm c v => exact execDevctlThermRearm_caused (a0 := c) (a1 := v) h
  | thermalSample t => exact execThermalSample_caused (a0 := t) h
  | lastStage m e => exact execLastStage_caused (a0 := m) (a1 := e) h
  | commit c v => exact execCommit_caused (a0 := c) (a1 := v) h
  | discard c v => exact execDiscard_caused (a0 := c) (a1 := v) h
  | linkSwitchInstant l => exact execLinkSwitchInstant_caused (a0 := l) h
  | skipAbsent l => exact execSkipAbsent_caused (a0 := l) h
  | idlePeriodEnd l => exact execIdlePeriodEnd_caused (a0 := l) h
  | commitRollback l => exact execCommitRollback_caused (a0 := l) h
  | padSetPasses l d => exact execPadSetPasses_caused (a0 := l) (a1 := d) h
  | epochUnsent l d => exact execEpochUnsent_caused (a0 := l) (a1 := d) h
  | rateDetected sd p r => exact execRateDetected_caused (a0 := sd) (a1 := p) (a2 := r) h
  | cdrLockGained sd p => exact execCdrLockGained_caused (a0 := sd) (a1 := p) h
  | cdrLockLost sd p => exact execCdrLockLost_caused (a0 := sd) (a1 := p) h
  | commaReceived sd p ph => exact execCommaReceived_caused (a0 := sd) (a1 := p) (a2 := ph) h
  | rxCodeGroup sd p g reads => exact execRxCodeGroup_caused (a0 := sd) (a1 := p) (a2 := g) (a3 := reads) h
  | lnctlRecentre c sd p v => exact execLnctlRecentre_caused (a0 := c) (a1 := sd) (a2 := p) (a3 := v) h
  | lnctlBitslip c sd p v => exact execLnctlBitslip_caused (a0 := c) (a1 := sd) (a2 := p) (a3 := v) h
  | skipSetArrives sd p k => exact execSkipSetArrives_caused (a0 := sd) (a1 := p) (a2 := k) h
  | skipRateWindow => exact execSkipRateWindow_caused h
  | loopMasterMoved l d => exact execLoopMasterMoved_caused (a0 := l) (a1 := d) h
  | swingLimit sd p c => exact execSwingLimit_caused (a0 := sd) (a1 := p) (a2 := c) h
  | swingRaise sd p room => exact execSwingRaise_caused (a0 := sd) (a1 := p) (a2 := room) h
  | lntxdrvWrite c sd p v => exact execLntxdrvWrite_caused (a0 := c) (a1 := sd) (a2 := p) (a3 := v) h
  | trimRampStep sd p t => exact execTrimRampStep_caused (a0 := sd) (a1 := p) (a2 := t) h
  | lnsnapTake c sd p v => exact execLnsnapTake_caused (a0 := c) (a1 := sd) (a2 := p) (a3 := v) h
  | lnsnapRelease c sd p v => exact execLnsnapRelease_caused (a0 := c) (a1 := sd) (a2 := p) (a3 := v) h
  | snapshotExpiry sd p => exact execSnapshotExpiry_caused (a0 := sd) (a1 := p) h
  | sidePllLoss q => exact execSidePllLoss_caused (a0 := q) h
  | corePllLoss => exact execCorePllLoss_caused h
  | pllRelockAttempt q ok => exact execPllRelockAttempt_caused (a0 := q) (a1 := ok) h
  | receiverDetect l sd mask => exact execReceiverDetect_caused (a0 := l) (a1 := sd) (a2 := mask) h
  | trainingSetReceived l sd k t => exact execTrainingSetReceived_caused (a0 := l) (a1 := sd) (a2 := k) (a3 := t) h
  | rateDiscard l => exact execRateDiscard_caused (a0 := l) h
  | trainTimeout l => exact execTrainTimeout_caused (a0 := l) h
  | presetSearchStep sd p o => exact execPresetSearchStep_caused (a0 := sd) (a1 := p) (a2 := o) h
  | lnkctlRetrain c l v => exact execLnkctlRetrain_caused (a0 := c) (a1 := l) (a2 := v) h
  | forcedIdleRetrain l => exact execForcedIdleRetrain_caused (a0 := l) h
  | electricalIdleDetected sd p => exact execElectricalIdleDetected_caused (a0 := sd) (a1 := p) h
  | lnkctlDisable c l v => exact execLnkctlDisable_caused (a0 := c) (a1 := l) (a2 := v) h
  | lnkctlClrRetrains c l v => exact execLnkctlClrRetrains_caused (a0 := c) (a1 := l) (a2 := v) h
  | idleEntrySetReceived l d => exact execIdleEntrySetReceived_caused (a0 := l) (a1 := d) h
  | sleepWake l sd => exact execSleepWake_caused (a0 := l) (a1 := sd) h
  | wakeFail l => exact execWakeFail_caused (a0 := l) h
  | deepEntryTimeout l => exact execDeepEntryTimeout_caused (a0 := l) h
  | lpGrantSeen l st => exact execLpGrantSeen_caused (a0 := l) (a1 := st) h
  | lpReqIdle l st => exact execLpReqIdle_caused (a0 := l) (a1 := st) h
  | unrecoveredTimeout l d k => exact execUnrecoveredTimeout_caused (a0 := l) (a1 := d) (a2 := k) h
  | spareLockTimer l n d locked => exact execSpareLockTimer_caused (a0 := l) (a1 := n) (a2 := d) (a3 := locked) h
  | spareRspReceived l sd r => exact execSpareRspReceived_caused (a0 := l) (a1 := sd) (a2 := r) h
  | spareMosForwarded l r => exact execSpareMosForwarded_caused (a0 := l) (a1 := r) h
  | swapTimeout l => exact execSwapTimeout_caused (a0 := l) h
  | spareRetry l => exact execSpareRetry_caused (a0 := l) h
  | predictiveEvaluation => exact execPredictiveEvaluation_caused h
  | lnkspcmdSwap c l v => exact execLnkspcmdSwap_caused (a0 := c) (a1 := l) (a2 := v) h
  | lnkspcmdBack c l v => exact execLnkspcmdBack_caused (a0 := c) (a1 := l) (a2 := v) h
  | lnklossUncap c l v => exact execLnklossUncap_caused (a0 := c) (a1 := l) (a2 := v) h
  | prbsGenEnable c sd p v => exact execPrbsGenEnable_caused (a0 := c) (a1 := sd) (a2 := p) (a3 := v) h
  | prbsChkEnable c sd p v => exact execPrbsChkEnable_caused (a0 := c) (a1 := sd) (a2 := p) (a3 := v) h
  | prbsInject c sd p v => exact execPrbsInject_caused (a0 := c) (a1 := sd) (a2 := p) (a3 := v) h
  | prbsCheckerLock sd p => exact execPrbsCheckerLock_caused (a0 := sd) (a1 := p) h
  | prbsLockLost sd p => exact execPrbsLockLost_caused (a0 := sd) (a1 := p) h
  | counterClr c sd p v => exact execCounterClr_caused (a0 := c) (a1 := sd) (a2 := p) (a3 := v) h
  | lnscanStart c sd p v => exact execLnscanStart_caused (a0 := c) (a1 := sd) (a2 := p) (a3 := v) h
  | scanPointDone sd p n => exact execScanPointDone_caused (a0 := sd) (a1 := p) (a2 := n) h
  | eyeSweepEnd sd p w h0 => exact execEyeSweepEnd_caused (a0 := sd) (a1 := p) (a2 := w) (a3 := h0) h
  | trainingSweepEnd sd p w h0 => exact execTrainingSweepEnd_caused (a0 := sd) (a1 := p) (a2 := w) (a3 := h0) h
  | loopNearSerial c sd p v => exact execLoopNearSerial_caused (a0 := c) (a1 := sd) (a2 := p) (a3 := v) h
  | loopNearParallel c sd p v => exact execLoopNearParallel_caused (a0 := c) (a1 := sd) (a2 := p) (a3 := v) h
  | loopFarEnd c sd p v => exact execLoopFarEnd_caused (a0 := c) (a1 := sd) (a2 := p) (a3 := v) h
  | loopOff c sd p v => exact execLoopOff_caused (a0 := c) (a1 := sd) (a2 := p) (a3 := v) h
  | calcmdGo c v => exact execCalcmdGo_caused (a0 := c) (a1 := v) h
  | calcmdSave c v => exact execCalcmdSave_caused (a0 := c) (a1 := v) h
  | recalEvaluation => exact execRecalEvaluation_caused h
  | recalStep last => exact execRecalStep_caused (a0 := last) h
  | recalAborted => exact execRecalAborted_caused h
  | adcSelfCal => exact execAdcSelfCal_caused h
  | adcSelfCalEnd => exact execAdcSelfCalEnd_caused h
  | twbAddress a rd => exact execTwbAddress_caused (a0 := a) (a1 := rd) h
  | twbWriteWord v e => exact execTwbWriteWord_caused (a0 := v) (a1 := e) h
  | twbReadWord e => exact execTwbReadWord_caused (a0 := e) h
  | twbStartStop k extra => exact execTwbStartStop_caused (a0 := k) (a1 := extra) h
  | twbLate => exact execTwbLate_caused h
  | twbWake a => exact execTwbWake_caused (a0 := a) h
  | twbSleep => exact execTwbSleep_caused h
  | twbSclLow extra => exact execTwbSclLow_caused (a0 := extra) h
  | twbSdaLow extra => exact execTwbSdaLow_caused (a0 := extra) h
  | mosReceived l sd m e => exact execMosReceived_caused (a0 := l) (a1 := sd) (a2 := m) (a3 := e) h
  | mosRd l sd seq a two e => exact execMosRd_caused (a0 := l) (a1 := sd) (a2 := seq) (a3 := a) (a4 := two) (a5 := e) h
  | mosWr l sd seq a v e => exact execMosWr_caused (a0 := l) (a1 := sd) (a2 := seq) (a3 := a) (a4 := v) (a5 := e) h
  | notifyRepeat => exact execNotifyRepeat_caused h
  | jtagExtest => exact execJtagExtest_caused h
  | jtagIdcode => exact execJtagIdcode_caused h
  | jtagSamplePreload => exact execJtagSamplePreload_caused h
  | jtagExtestPulse => exact execJtagExtestPulse_caused h
  | jtagExtestTrain => exact execJtagExtestTrain_caused h
  | jtagHighz => exact execJtagHighz_caused h
  | jtagClamp => exact execJtagClamp_caused h
  | jtagBypass op => exact execJtagBypass_caused (a0 := op) h
  | jtagTapReset => exact execJtagTapReset_caused h
  | storeRead c a e => exact execStoreRead_caused (a0 := c) (a1 := a) (a2 := e) h
  | storeWrite c a v e => exact execStoreWrite_caused (a0 := c) (a1 := a) (a2 := v) (a3 := e) h
  | windowEntryWrite c t pg v => exact execWindowEntryWrite_caused (a0 := c) (a1 := t) (a2 := pg) (a3 := v) h
  | winctlSync c v => exact execWinctlSync_caused (a0 := c) (a1 := v) h
  | syncBarrierDone c => exact execSyncBarrierDone_caused (a0 := c) h
  | scrubLine e => exact execScrubLine_caused (a0 := e) h
  | ceRateHour => exact execCeRateHour_caused h
  | storeCeClr c v => exact execStoreCeClr_caused (a0 := c) (a1 := v) h
  | wqEnable c q v => exact execWqEnable_caused (a0 := c) (a1 := q) (a2 := v) h
  | wqDisable c q v => exact execWqDisable_caused (a0 := c) (a1 := q) (a2 := v) h
  | wqReset c q v => exact execWqReset_caused (a0 := c) (a1 := q) (a2 := v) h
  | wqDoorbell c q v => exact execWqDoorbell_caused (a0 := c) (a1 := q) (a2 := v) h
  | entryPrefetch q e => exact execEntryPrefetch_caused (a0 := q) (a1 := e) h
  | headerWrite q => exact execHeaderWrite_caused (a0 := q) h
  | jobStart u heel => exact execJobStart_caused (a0 := u) (a1 := heel) h
  | preemptFlushDone m e => exact execPreemptFlushDone_caused (a0 := m) (a1 := e) h
  | jobEnd u => exact execJobEnd_caused (a0 := u) h
  | completionWrite q => exact execCompletionWrite_caused (a0 := q) h
  | drainComplete q => exact execDrainComplete_caused (a0 := q) h
  | cqEnable c q v => exact execCqEnable_caused (a0 := c) (a1 := q) (a2 := v) h
  | cqDisable c q v => exact execCqDisable_caused (a0 := c) (a1 := q) (a2 := v) h
  | cqheadWrite c q v => exact execCqheadWrite_caused (a0 := c) (a1 := q) (a2 := v) h
  | nop q => exact execNop_caused (a0 := q) h
  | fence q => exact execFence_caused (a0 := q) h
  | move m e => exact execMove_caused (a0 := m) (a1 := e) h
  | capture sd => exact execCapture_caused (a0 := sd) h
  | captureTrigger sd ln => exact execCaptureTrigger_caused (a0 := sd) (a1 := ln) h
  | captureStop sd => exact execCaptureStop_caused (a0 := sd) h
  | captureTimeout sd => exact execCaptureTimeout_caused (a0 := sd) h
  | captureLostPage sd => exact execCaptureLostPage_caused (a0 := sd) h
  | eyescan sd p row => exact execEyescan_caused (a0 := sd) (a1 := p) (a2 := row) h
  | eyescanLockTimeout sd p => exact execEyescanLockTimeout_caused (a0 := sd) (a1 := p) h
  | prbsJob sd p => exact execPrbsJob_caused (a0 := sd) (a1 := p) h
  | prbsJobInject sd p => exact execPrbsJobInject_caused (a0 := sd) (a1 := p) h
  | prbsJobDurationEnd sd p => exact execPrbsJobDurationEnd_caused (a0 := sd) (a1 := p) h
  | nvmRead e => exact execNvmRead_caused (a0 := e) h
  | nvmProgram e => exact execNvmProgram_caused (a0 := e) h
  | nvmUnitProgrammed ok => exact execNvmUnitProgrammed_caused (a0 := ok) h
  | nvmErase => exact execNvmErase_caused h
  | nvmSectorErased ok => exact execNvmSectorErased_caused (a0 := ok) h
  | eraseSuspend w => exact execEraseSuspend_caused (a0 := w) h
  | eraseResume => exact execEraseResume_caused h
  | telemetry m => exact execTelemetry_caused (a0 := m) h
  | imcSend => exact execImcSend_caused h
  | imcNoSlot => exact execImcNoSlot_caused h
  | wqResume c q v => exact execWqResume_caused (a0 := c) (a1 := q) (a2 := v) h
  | awlQueue c q => exact execAwlQueue_caused (a0 := c) (a1 := q) h
  | awlJob c q tag => exact execAwlJob_caused (a0 := c) (a1 := q) (a2 := tag) h
  | awlUnit c sel => exact execAwlUnit_caused (a0 := c) (a1 := sel) h
  | awlLane c sel => exact execAwlLane_caused (a0 := c) (a1 := sel) h
  | awlAll c => exact execAwlAll_caused (a0 := c) h
  | awlDone => exact execAwlDone_caused h
  | nvmWindowRead c off e => exact execNvmWindowRead_caused (a0 := c) (a1 := off) (a2 := e) h
  | nvmLogWrite ok => exact execNvmLogWrite_caused (a0 := ok) h
  | logTokenTick => exact execLogTokenTick_caused h
  | nvmctlCeClr c v => exact execNvmctlCeClr_caused (a0 := c) (a1 := v) h
  | sequencerTimerTrigger n => exact execSequencerTimerTrigger_caused (a0 := n) h
  | decimatorOutput v => exact execDecimatorOutput_caused (a0 := v) h
  | syncEdge => exact execSyncEdge_caused h
  | tmseqctlRestart c n v => exact execTmseqctlRestart_caused (a0 := c) (a1 := n) (a2 := v) h
  | dtimeLoadNow c v => exact execDtimeLoadNow_caused (a0 := c) (a1 := v) h
  | dtimeLoRead c => exact execDtimeLoRead_caused (a0 := c) h
  | dtrateWrite c v => exact execDtrateWrite_caused (a0 := c) (a1 := v) h
  | heelWatchdogTrip => exact execHeelWatchdogTrip_caused h
  | weltMismatch p stuckOpen => exact execWeltMismatch_caused (a0 := p) (a1 := stuckOpen) h
  | regReadClear c a e => exact execRegReadClear_caused (a0 := c) (a1 := a) (a2 := e) h
  | regWrite c a v e => exact execRegWrite_caused (a0 := c) (a1 := a) (a2 := v) (a3 := e) h
  | signalDetected sd p => exact execSignalDetected_caused (a0 := sd) (a1 := p) h
  | vioSplitThreshold => exact execVioSplitThreshold_caused h
  | supplyInWindow r => exact execSupplyInWindow_caused (a0 := r) h

theorem step_caused {s x : State} (h : Caused s x) : ∃ t, step x = .next t ∧ Caused s t := by
  unfold step
  dsimp -zeta -proj only [upd_pending]
  split
  · exact exec_caused (putPending_caused h)
  · exact ⟨tick x, rfl, Caused.of_keeps (fun k hk => tick_keeps hk (k.same_refl _)) (by decide) h⟩

end Sys2Proof.Machine
end

