-- ==== Sys2Proof/Laws/Dark.lean ====
section
/-! SUPPORT. The promise of the Welt, operation by operation: no operation lets a transmitter be on at a position that is not commanded open. -/

namespace Sys2Proof.Machine

theorem keepRead_dark {s : State} {a0} {r : Word × State} (h : Dark s r.2) : Dark s (keepRead a0 r) := by
  unfold keepRead
  dsimp -zeta -proj only [upd_acc]
  exact putAcc_dark h

theorem logL_dark {s x : State} {a0 a1 a2 a3} (h : Dark s x) : Dark s (logL x a0 a1 a2 a3) :=
  Dark.of_keeps (fun k hk => logL_keeps (a0 := a0) (a1 := a1) (a2 := a2) (a3 := a3) hk (k.same_refl x)) (by decide) h

theorem revertUnit_dark {s x : State} {a0 a1} (h : Dark s x) :
    Dark s (revertUnit x a0 a1) := by
  unfold revertUnit
  repeat' first
    | with_reducible assumption
    | with_reducible refine modCal_dark ?_
    | with_reducible refine ite_dark ?_ ?_
    | with_reducible refine foldl_dark ?_ (fun t a h => ?_)
    | with_reducible exact fun _ g => g
    | with_reducible exact fun _ _ => rfl
    | with_reducible exact fun n g => by (repeat' split) <;> first | exact g | rfl
    | dsimp -proj only
    | split

theorem endRecal_dark {s x : State} (h : Dark s x) : Dark s (endRecal x) :=
  Dark.of_keeps (fun k hk => endRecal_keeps hk (k.same_refl x)) (by decide) h

theorem stopRecal_dark {s x : State} {a0 a1} (h : Dark s x) :
    Dark s (stopRecal x a0 a1) := by
  unfold stopRecal
  repeat' first
    | with_reducible assumption
    | with_reducible refine logL_dark ?_
    | with_reducible refine revertUnit_dark ?_
    | with_reducible refine endRecal_dark ?_
    | with_reducible refine ite_dark ?_ ?_
    | with_reducible refine foldl_dark ?_ (fun t a h => ?_)
    | with_reducible exact fun _ g => g
    | with_reducible exact fun _ _ => rfl
    | with_reducible exact fun n g => by (repeat' split) <;> first | exact g | rfl
    | dsimp -proj only
    | split

theorem abortRecal_dark {s x : State} (h : Dark s x) :
    Dark s (abortRecal x) := by
  unfold abortRecal
  repeat' first
    | with_reducible assumption
    | with_reducible refine stopRecal_dark ?_
    | with_reducible refine ite_dark ?_ ?_
    | with_reducible refine foldl_dark ?_ (fun t a h => ?_)
    | with_reducible exact fun _ g => g
    | with_reducible exact fun _ _ => rfl
    | with_reducible exact fun n g => by (repeat' split) <;> first | exact g | rfl
    | dsimp -proj only
    | split

theorem setUnit_dark {s x : State} {a0 a1} (h : Dark s x) : Dark s (setUnit x a0 a1) :=
  Dark.of_keeps (fun k hk => setUnit_keeps (a0 := a0) (a1 := a1) hk (k.same_refl x)) (by decide) h

theorem restartHeel_dark {s x : State} (h : Dark s x) :
    Dark s (restartHeel x) := by
  unfold restartHeel
  try dsimp -zeta -proj only [upd_heel_cal]
  repeat' first
    | with_reducible assumption
    | with_reducible refine abortRecal_dark ?_
    | with_reducible refine setUnit_dark ?_
    | with_reducible refine modMeas_dark ?_
    | with_reducible refine putHeel_dark ?_
    | with_reducible refine putCal_dark ?_
    | with_reducible refine ite_dark ?_ ?_
    | with_reducible refine foldl_dark ?_ (fun t a h => ?_)
    | with_reducible exact fun _ g => g
    | with_reducible exact fun _ _ => rfl
    | with_reducible exact fun n g => by (repeat' split) <;> first | exact g | rfl
    | dsimp -proj only
    | split

theorem watchAttn_dark {s x : State} (h : Dark s x) : Dark s (watchAttn x) :=
  Dark.of_keeps (fun k hk => watchAttn_keeps hk (k.same_refl x)) (by decide) h

theorem unholdErase_dark {s x : State} (h : Dark s x) : Dark s (unholdErase x) :=
  Dark.of_keeps (fun k hk => unholdErase_keeps hk (k.same_refl x)) (by decide) h

theorem fin_dark {s x : State} (h : Dark s x) :
    Dark s (fin x) := by
  unfold fin
  repeat' first
    | with_reducible assumption
    | with_reducible refine restartHeel_dark ?_
    | with_reducible refine watchAttn_dark ?_
    | with_reducible refine unholdErase_dark ?_
    | with_reducible refine ite_dark ?_ ?_
    | with_reducible refine foldl_dark ?_ (fun t a h => ?_)
    | with_reducible exact fun _ g => g
    | with_reducible exact fun _ _ => rfl
    | with_reducible exact fun n g => by (repeat' split) <;> first | exact g | rfl
    | dsimp -proj only
    | split

theorem done_dark {s x : State} (h : Dark s x) : ∃ t, done x = .next t ∧ Dark s t := ⟨fin x, rfl, fin_dark h⟩

theorem setStage_dark {s x : State} {a0 a1 a2} (h : Dark s x) : Dark s (setStage x a0 a1 a2) :=
  Dark.of_keeps (fun k hk => setStage_keeps (a0 := a0) (a1 := a1) (a2 := a2) hk (k.same_refl x)) (by decide) h

theorem stillUnit_dark {s x : State} {a0 a1} (h : Dark s x) :
    Dark s (stillUnit x a0 a1) := by
  unfold stillUnit
  repeat' first
    | with_reducible assumption
    | with_reducible refine modCal_dark ?_
    | with_reducible refine ite_dark ?_ ?_
    | with_reducible refine foldl_dark ?_ (fun t a h => ?_)
    | with_reducible exact fun _ g => g
    | with_reducible exact fun _ _ => rfl
    | with_reducible exact fun n g => by (repeat' split) <;> first | exact g | rfl
    | dsimp -proj only
    | split

theorem beginSwap_dark {s x : State} {a0 a1 a2 a3 a4 a5} (h : Dark s x) : Dark s (beginSwap x a0 a1 a2 a3 a4 a5) :=
  Dark.of_keeps (fun k hk => beginSwap_keeps (a0 := a0) (a1 := a1) (a2 := a2) (a3 := a3) (a4 := a4) (a5 := a5) hk (k.same_refl x)) (by decide) h

theorem startRecal_dark {s x : State} {a0} (h : Dark s x) :
    Dark s (startRecal x a0) := by
  unfold startRecal
  try dsimp -zeta -proj only [upd_cal]
  repeat' first
    | with_reducible assumption
    | with_reducible refine stillUnit_dark ?_
    | with_reducible refine beginSwap_dark ?_
    | with_reducible refine putCal_dark ?_
    | with_reducible refine ite_dark ?_ ?_
    | with_reducible refine foldl_dark ?_ (fun t a h => ?_)
    | with_reducible exact fun _ g => g
    | with_reducible exact fun _ _ => rfl
    | with_reducible exact fun n g => by (repeat' split) <;> first | exact g | rfl
    | dsimp -proj only
    | split

theorem nextRecal_dark {s x : State} (h : Dark s x) :
    Dark s (nextRecal x) := by
  unfold nextRecal
  repeat' first
    | with_reducible assumption
    | with_reducible refine startRecal_dark ?_
    | with_reducible refine ite_dark ?_ ?_
    | with_reducible refine foldl_dark ?_ (fun t a h => ?_)
    | with_reducible exact fun _ g => g
    | with_reducible exact fun _ _ => rfl
    | with_reducible exact fun n g => by (repeat' split) <;> first | exact g | rfl
    | dsimp -proj only
    | split

theorem keepUnit_dark {s x : State} (h : Dark s x) :
    Dark s (keepUnit x) := by
  unfold keepUnit
  try dsimp -zeta -proj only [upd_free]
  repeat' first
    | with_reducible assumption
    | with_reducible refine modCal_dark ?_
    | with_reducible refine putFree_dark ?_
    | with_reducible refine ite_dark ?_ ?_
    | with_reducible refine foldl_dark ?_ (fun t a h => ?_)
    | with_reducible exact fun _ g => g
    | with_reducible exact fun _ _ => rfl
    | with_reducible exact fun n g => by (repeat' split) <;> first | exact g | rfl
    | dsimp -proj only
    | split

theorem followStandin_dark {s x : State} (h : Dark s x) :
    Dark s (followStandin x) := by
  unfold followStandin
  repeat' first
    | with_reducible assumption
    | with_reducible refine setStage_dark ?_
    | with_reducible refine endRecal_dark ?_
    | with_reducible refine nextRecal_dark ?_
    | with_reducible refine beginSwap_dark ?_
    | with_reducible refine keepUnit_dark ?_
    | with_reducible refine ite_dark ?_ ?_
    | with_reducible refine foldl_dark ?_ (fun t a h => ?_)
    | with_reducible exact fun _ g => g
    | with_reducible exact fun _ _ => rfl
    | with_reducible exact fun n g => by (repeat' split) <;> first | exact g | rfl
    | dsimp -proj only
    | split

theorem scanLost_dark {s x : State} {a0 a1} (h : Dark s x) : Dark s (scanLost x a0 a1) :=
  Dark.of_keeps (fun k hk => scanLost_keeps (a0 := a0) (a1 := a1) hk (k.same_refl x)) (by decide) h

theorem noClock_on (b : Bool) (n : Lane) : (n.noClock b).tx.on = n.tx.on := rfl

theorem dropCdr_dark {s x : State} {a0 a1} (h : Dark s x) :
    Dark s (dropCdr x a0 a1) := by
  unfold dropCdr
  repeat' first
    | with_reducible assumption
    | with_reducible refine modLane_dark ?_ ?_
    | with_reducible refine scanLost_dark ?_
    | with_reducible refine ite_dark ?_ ?_
    | with_reducible refine foldl_dark ?_ (fun t a h => ?_)
    | with_reducible exact fun n g => (noClock_on _ n).trans g
    | with_reducible exact fun _ g => g
    | with_reducible exact fun _ _ => rfl
    | with_reducible exact fun n g => by (repeat' split) <;> first | exact g | rfl
    | dsimp -proj only
    | split

theorem coolRx_dark {s x : State} {a0 a1 a2} (h : Dark s x) :
    Dark s (coolRx x a0 a1 a2) := by
  unfold coolRx
  repeat' first
    | with_reducible assumption
    | with_reducible refine dropCdr_dark ?_
    | with_reducible refine ite_dark ?_ ?_
    | with_reducible refine foldl_dark ?_ (fun t a h => ?_)
    | with_reducible exact fun _ g => g
    | with_reducible exact fun _ _ => rfl
    | with_reducible exact fun n g => by (repeat' split) <;> first | exact g | rfl
    | dsimp -proj only
    | split

theorem openPos_dark {s x : State} {a0} (h : Dark s x) : Dark s (openPos x a0) := by
  unfold openPos
  dsimp -zeta -proj only [upd_welt]
  refine putWelt_dark h fun q hq => ?_
  rw [vput_cases] at hq
  split at hq
  · cases hq
  · exact hq

/-- The transmitters of a position off on both sides. -/
theorem txOff_dark {x : State} {p : Pos} (sd : Side) :
    (getLane (bothSides.foldl (fun t sd => modTx t sd p fun n => { n with on := false, last := none }) x) sd p).tx.on = false := by
  unfold bothSides
  rw [List.foldl_cons, List.foldl_cons, List.foldl_nil]
  cases sd
  · unfold modTx
    rw [getLane_modLane_other _ _ _ _ _ _ (by simp), getLane_modLane]
  · unfold modTx
    rw [getLane_modLane]

theorem prbsOff_dark {s x : State} {a0 a1 a2} (h : Dark s x) :
    Dark s (prbsOff x a0 a1 a2) := by
  unfold prbsOff
  repeat' first
    | with_reducible assumption
    | with_reducible refine modMeas_dark ?_
    | with_reducible refine ite_dark ?_ ?_
    | with_reducible refine foldl_dark ?_ (fun t a h => ?_)
    | with_reducible exact fun _ g => g
    | with_reducible exact fun _ _ => rfl
    | with_reducible exact fun n g => by (repeat' split) <;> first | exact g | rfl
    | dsimp -proj only
    | split

theorem stopPrbs_dark {s x : State} {a0 a1 a2} (h : Dark s x) :
    Dark s (stopPrbs x a0 a1 a2) := by
  unfold stopPrbs
  try dsimp -zeta -proj only [upd_units]
  repeat' first
    | with_reducible assumption
    | with_reducible refine prbsOff_dark ?_
    | with_reducible refine putUnits_dark ?_
    | with_reducible refine ite_dark ?_ ?_
    | with_reducible refine foldl_dark ?_ (fun t a h => ?_)
    | with_reducible exact fun _ g => g
    | with_reducible exact fun _ _ => rfl
    | with_reducible exact fun n g => by (repeat' split) <;> first | exact g | rfl
    | dsimp -proj only
    | split

theorem endTestJob_dark {s x : State} {a0 a1} (h : Dark s x) :
    Dark s (endTestJob x a0 a1) := by
  unfold endTestJob
  repeat' first
    | with_reducible assumption
    | with_reducible refine stopPrbs_dark ?_
    | with_reducible refine ite_dark ?_ ?_
    | with_reducible refine foldl_dark ?_ (fun t a h => ?_)
    | with_reducible exact fun _ g => g
    | with_reducible exact fun _ _ => rfl
    | with_reducible exact fun n g => by (repeat' split) <;> first | exact g | rfl
    | dsimp -proj only
    | split

theorem endTests_dark {s x : State} {a0 a1} (h : Dark s x) :
    Dark s (endTests x a0 a1) := by
  unfold endTests
  repeat' first
    | with_reducible assumption
    | with_reducible refine logL_dark ?_
    | with_reducible refine endTestJob_dark ?_
    | with_reducible refine modMeas_dark ?_
    | with_reducible refine ite_dark ?_ ?_
    | with_reducible refine foldl_dark ?_ (fun t a h => ?_)
    | with_reducible exact fun _ g => g
    | with_reducible exact fun _ _ => rfl
    | with_reducible exact fun n g => by (repeat' split) <;> first | exact g | rfl
    | dsimp -proj only
    | split

theorem closePos_dark {s x : State} {a0} (h : Dark s x) : Dark s (closePos x a0) := by
  have g : Dark s (bothSides.foldl (fun t sd => modTx t sd a0 fun n => { n with on := false, last := none }) x) :=
    foldl_dark h fun t sd k => modTx_dark (fun _ _ => rfl) k
  have o := fun sd => txOff_dark (x := x) (p := a0) sd
  unfold closePos
  refine foldl_dark ?_ fun t sd k => modMeas_dark (endTests_dark k)
  generalize bothSides.foldl (fun t sd => modTx t sd a0 fun n => { n with on := false, last := none }) x = y at g o
  intro hs q hq sd
  by_cases e : q = a0
  · subst e
    exact o sd
  · refine g hs q ?_ sd
    exact (vput_other _ _ _ _ e).symm.trans hq

theorem settlePos_dark {s x : State} {a0} (h : Dark s x) :
    Dark s (settlePos x a0) := by
  unfold settlePos
  repeat' first
    | with_reducible assumption
    | with_reducible refine openPos_dark ?_
    | with_reducible refine closePos_dark ?_
    | with_reducible refine ite_dark ?_ ?_
    | with_reducible refine foldl_dark ?_ (fun t a h => ?_)
    | with_reducible exact fun _ g => g
    | with_reducible exact fun _ _ => rfl
    | with_reducible exact fun n g => by (repeat' split) <;> first | exact g | rfl
    | dsimp -proj only
    | split

theorem settleAll_dark {s x : State} (h : Dark s x) :
    Dark s (settleAll x) := by
  unfold settleAll
  repeat' first
    | with_reducible assumption
    | with_reducible refine settlePos_dark ?_
    | with_reducible refine ite_dark ?_ ?_
    | with_reducible refine foldl_dark ?_ (fun t a h => ?_)
    | with_reducible exact fun _ g => g
    | with_reducible exact fun _ _ => rfl
    | with_reducible exact fun n g => by (repeat' split) <;> first | exact g | rfl
    | dsimp -proj only
    | split

theorem modLink_dark {s x : State} {a0 a1} (h : Dark s x) : Dark s (modLink x a0 a1) :=
  Dark.of_keeps (fun k hk => modLink_keeps (a0 := a0) (a1 := a1) hk (k.same_refl x)) (by decide) h

theorem loadLane_on (m : LastImg) (sd : Side) (p : Pos) (n : Lane) : (loadLane m sd p n).tx.on = n.tx.on := rfl

theorem aimLane_on (a b : LastImg) (sd : Side) (p : Pos) (n : Lane) : (aimLane a b sd p n).tx.on = n.tx.on := by
  unfold aimLane
  dsimp only
  split <;> rfl

theorem retarget_dark {s x : State} {a0} (h : Dark s x) : Dark s (retarget a0 x) := by
  unfold retarget
  exact foldl_dark h fun t q k => ite_dark k (ite_dark (modLane_dark (fun n g => (loadLane_on _ _ _ n).trans g) k)
    (modLane_dark (fun n g => (aimLane_on _ _ _ _ n).trans g) k))

theorem setSpare_dark {s x : State} {a0 a1 a2 a3} (h : Dark s x) : Dark s (setSpare x a0 a1 a2 a3) :=
  Dark.of_keeps (fun k hk => setSpare_keeps (a0 := a0) (a1 := a1) (a2 := a2) (a3 := a3) hk (k.same_refl x)) (by decide) h

theorem leaveSpare_dark {s x : State} {a0 a1} (h : Dark s x) :
    Dark s (leaveSpare x a0 a1) := by
  unfold leaveSpare
  try dsimp -zeta -proj only [upd_last]
  repeat' first
    | with_reducible assumption
    | with_reducible refine settleAll_dark ?_
    | with_reducible refine modLink_dark ?_
    | with_reducible refine retarget_dark ?_
    | with_reducible refine setSpare_dark ?_
    | with_reducible refine putLast_dark ?_
    | with_reducible refine ite_dark ?_ ?_
    | with_reducible refine foldl_dark ?_ (fun t a h => ?_)
    | with_reducible exact fun _ g => g
    | with_reducible exact fun _ _ => rfl
    | with_reducible exact fun n g => by (repeat' split) <;> first | exact g | rfl
    | dsimp -proj only
    | split

theorem restSpare_dark {s x : State} {a0 a1 a2} (h : Dark s x) :
    Dark s (restSpare x a0 a1 a2) := by
  unfold restSpare
  repeat' first
    | with_reducible assumption
    | with_reducible refine coolRx_dark ?_
    | with_reducible refine leaveSpare_dark ?_
    | with_reducible refine setSpare_dark ?_
    | with_reducible refine ite_dark ?_ ?_
    | with_reducible refine foldl_dark ?_ (fun t a h => ?_)
    | with_reducible exact fun _ g => g
    | with_reducible exact fun _ _ => rfl
    | with_reducible exact fun n g => by (repeat' split) <;> first | exact g | rfl
    | dsimp -proj only
    | split

theorem logK_dark {s x : State} {a0 a1 a2} (h : Dark s x) : Dark s (logK x a0 a1 a2) :=
  Dark.of_keeps (fun k hk => logK_keeps (a0 := a0) (a1 := a1) (a2 := a2) hk (k.same_refl x)) (by decide) h

theorem setResult_dark {s x : State} {a0 a1} (h : Dark s x) : Dark s (setResult x a0 a1) :=
  Dark.of_keeps (fun k hk => setResult_keeps (a0 := a0) (a1 := a1) hk (k.same_refl x)) (by decide) h

theorem refreshSpare_dark {s x : State} {a0 a1 a2} (h : Dark s x) :
    Dark s (refreshSpare a0 x a1 a2) := by
  unfold refreshSpare
  try dsimp -zeta -proj only [upd_last]
  repeat' first
    | with_reducible assumption
    | with_reducible refine coolRx_dark ?_
    | with_reducible refine modLink_dark ?_
    | with_reducible refine setSpare_dark ?_
    | with_reducible refine putLast_dark ?_
    | with_reducible refine ite_dark ?_ ?_
    | with_reducible refine foldl_dark ?_ (fun t a h => ?_)
    | with_reducible exact fun _ g => g
    | with_reducible exact fun _ _ => rfl
    | with_reducible exact fun n g => by (repeat' split) <;> first | exact g | rfl
    | dsimp -proj only
    | split

theorem dropHolds_dark {s x : State} {a0 a1} (h : Dark s x) :
    Dark s (dropHolds x a0 a1) := by
  unfold dropHolds
  repeat' first
    | with_reducible assumption
    | with_reducible refine modRx_dark ?_
    | with_reducible refine ite_dark ?_ ?_
    | with_reducible refine foldl_dark ?_ (fun t a h => ?_)
    | with_reducible exact fun _ g => g
    | with_reducible exact fun _ _ => rfl
    | with_reducible exact fun n g => by (repeat' split) <;> first | exact g | rfl
    | dsimp -proj only
    | split

theorem stepEpoch_dark {s x : State} {a0} (h : Dark s x) : Dark s (stepEpoch x a0) :=
  Dark.of_keeps (fun k hk => stepEpoch_keeps (a0 := a0) hk (k.same_refl x)) (by decide) h

theorem moveHold_dark {s x : State} {a0 a1 a2} (h : Dark s x) :
    Dark s (moveHold a0 a1 a2 x) := by
  unfold moveHold
  repeat' first
    | with_reducible assumption
    | with_reducible refine modRx_dark ?_
    | with_reducible refine ite_dark ?_ ?_
    | with_reducible refine foldl_dark ?_ (fun t a h => ?_)
    | with_reducible exact fun _ g => g
    | with_reducible exact fun _ _ => rfl
    | with_reducible exact fun n g => by (repeat' split) <;> first | exact g | rfl
    | dsimp -proj only
    | split

theorem withMasters_dark {s x : State} {a0 a1} (hf : ∀ t, Dark s t → Dark s (a1 t)) (h : Dark s x) :
    Dark s (withMasters x a0 a1) := by
  unfold withMasters
  repeat' first
    | with_reducible assumption
    | with_reducible refine hf _ ?_
    | with_reducible refine moveHold_dark ?_
    | with_reducible refine modLink_dark ?_
    | with_reducible refine ite_dark ?_ ?_
    | with_reducible refine foldl_dark ?_ (fun t a h => ?_)
    | with_reducible exact fun _ g => g
    | with_reducible exact fun _ _ => rfl
    | with_reducible exact fun n g => by (repeat' split) <;> first | exact g | rfl
    | dsimp -proj only
    | split

theorem relockPlls_dark {s x : State} {a0} (h : Dark s x) : Dark s (relockPlls x a0) :=
  Dark.of_keeps (fun k hk => relockPlls_keeps (a0 := a0) hk (k.same_refl x)) (by decide) h

theorem takeUp_dark {s x : State} {a0 a1} (h : Dark s x) :
    Dark s (takeUp x a0 a1) := by
  unfold takeUp
  try dsimp -zeta -proj only [upd_last]
  repeat' first
    | with_reducible assumption
    | with_reducible refine settleAll_dark ?_
    | with_reducible refine retarget_dark ?_
    | with_reducible refine refreshSpare_dark ?_
    | with_reducible refine dropHolds_dark ?_
    | with_reducible refine stepEpoch_dark ?_
    | with_reducible refine withMasters_dark (fun t h => ?_) ?_
    | with_reducible refine relockPlls_dark ?_
    | with_reducible refine putLast_dark ?_
    | with_reducible refine ite_dark ?_ ?_
    | with_reducible refine foldl_dark ?_ (fun t a h => ?_)
    | with_reducible exact fun _ g => g
    | with_reducible exact fun _ _ => rfl
    | with_reducible exact fun n g => by (repeat' split) <;> first | exact g | rfl
    | dsimp -proj only
    | split

theorem switchLink_dark {s x : State} {a0} (h : Dark s x) :
    Dark s (switchLink x a0) := by
  unfold switchLink
  repeat' first
    | with_reducible assumption
    | with_reducible refine takeUp_dark ?_
    | with_reducible refine ite_dark ?_ ?_
    | with_reducible refine foldl_dark ?_ (fun t a h => ?_)
    | with_reducible exact fun _ g => g
    | with_reducible exact fun _ _ => rfl
    | with_reducible exact fun n g => by (repeat' split) <;> first | exact g | rfl
    | dsimp -proj only
    | split

theorem switchNow_dark {s x : State} {a0} (h : Dark s x) :
    Dark s (switchNow x a0) := by
  unfold switchNow
  repeat' first
    | with_reducible assumption
    | with_reducible refine setResult_dark ?_
    | with_reducible refine switchLink_dark ?_
    | with_reducible refine ite_dark ?_ ?_
    | with_reducible refine foldl_dark ?_ (fun t a h => ?_)
    | with_reducible exact fun _ g => g
    | with_reducible exact fun _ _ => rfl
    | with_reducible exact fun n g => by (repeat' split) <;> first | exact g | rfl
    | dsimp -proj only
    | split

theorem endPbl_dark {s x : State} {a0} (h : Dark s x) :
    Dark s (endPbl x a0) := by
  unfold endPbl
  repeat' first
    | with_reducible assumption
    | with_reducible refine modMeas_dark ?_
    | with_reducible refine ite_dark ?_ ?_
    | with_reducible refine foldl_dark ?_ (fun t a h => ?_)
    | with_reducible exact fun _ g => g
    | with_reducible exact fun _ _ => rfl
    | with_reducible exact fun n g => by (repeat' split) <;> first | exact g | rfl
    | dsimp -proj only
    | split

theorem dropSwap_dark {s x : State} {a0 a1} (h : Dark s x) : Dark s (dropSwap x a0 a1) :=
  Dark.of_keeps (fun k hk => dropSwap_keeps (a0 := a0) (a1 := a1) hk (k.same_refl x)) (by decide) h

theorem endSwaps_dark {s x : State} {a0} (h : Dark s x) :
    Dark s (endSwaps x a0) := by
  unfold endSwaps
  repeat' first
    | with_reducible assumption
    | with_reducible refine restSpare_dark ?_
    | with_reducible refine modLink_dark ?_
    | with_reducible refine abortRecal_dark ?_
    | with_reducible refine dropSwap_dark ?_
    | with_reducible refine ite_dark ?_ ?_
    | with_reducible refine foldl_dark ?_ (fun t a h => ?_)
    | with_reducible exact fun _ g => g
    | with_reducible exact fun _ _ => rfl
    | with_reducible exact fun n g => by (repeat' split) <;> first | exact g | rfl
    | dsimp -proj only
    | split

theorem endSearches_dark {s x : State} {a0} (h : Dark s x) :
    Dark s (endSearches x a0) := by
  unfold endSearches
  repeat' first
    | with_reducible assumption
    | with_reducible refine modLane_dark ?_ ?_
    | with_reducible refine ite_dark ?_ ?_
    | with_reducible refine foldl_dark ?_ (fun t a h => ?_)
    | with_reducible exact fun _ g => g
    | with_reducible exact fun _ _ => rfl
    | with_reducible exact fun n g => by (repeat' split) <;> first | exact g | rfl
    | dsimp -proj only
    | split

theorem dropMos_dark {s x : State} {a0 a1} (h : Dark s x) : Dark s (dropMos x a0 a1) :=
  Dark.of_keeps (fun k hk => dropMos_keeps (a0 := a0) (a1 := a1) hk (k.same_refl x)) (by decide) h

theorem allReset_dark {s x : State} {a0} (h : Dark s x) : Dark s (allReset x a0) :=
  Dark.of_keeps (fun k hk => allReset_keeps (a0 := a0) hk (k.same_refl x)) (by decide) h

theorem leaveDisabled_dark {s x : State} {a0} (h : Dark s x) :
    Dark s (leaveDisabled x a0) := by
  unfold leaveDisabled
  repeat' first
    | with_reducible assumption
    | with_reducible refine endTests_dark ?_
    | with_reducible refine ite_dark ?_ ?_
    | with_reducible refine foldl_dark ?_ (fun t a h => ?_)
    | with_reducible exact fun _ g => g
    | with_reducible exact fun _ _ => rfl
    | with_reducible exact fun n g => by (repeat' split) <;> first | exact g | rfl
    | dsimp -proj only
    | split

theorem dropLink_dark {s x : State} {a0} (h : Dark s x) :
    Dark s (dropLink x a0) := by
  unfold dropLink
  repeat' first
    | with_reducible assumption
    | with_reducible refine modLink_dark ?_
    | with_reducible refine endPbl_dark ?_
    | with_reducible refine endSwaps_dark ?_
    | with_reducible refine endSearches_dark ?_
    | with_reducible refine dropMos_dark ?_
    | with_reducible refine allReset_dark ?_
    | with_reducible refine leaveDisabled_dark ?_
    | with_reducible refine withMasters_dark (fun t h => ?_) ?_
    | with_reducible refine ite_dark ?_ ?_
    | with_reducible refine foldl_dark ?_ (fun t a h => ?_)
    | with_reducible exact fun _ g => g
    | with_reducible exact fun _ _ => rfl
    | with_reducible exact fun n g => by (repeat' split) <;> first | exact g | rfl
    | dsimp -proj only
    | split

theorem standAside_dark {s x : State} {a0} (h : Dark s x) :
    Dark s (standAside x a0) := by
  unfold standAside
  repeat' first
    | with_reducible assumption
    | with_reducible refine switchNow_dark ?_
    | with_reducible refine settleAll_dark ?_
    | with_reducible refine modLink_dark ?_
    | with_reducible refine dropLink_dark ?_
    | with_reducible refine ite_dark ?_ ?_
    | with_reducible refine foldl_dark ?_ (fun t a h => ?_)
    | with_reducible exact fun _ g => g
    | with_reducible exact fun _ _ => rfl
    | with_reducible exact fun n g => by (repeat' split) <;> first | exact g | rfl
    | dsimp -proj only
    | split

theorem partAside_dark {s x : State} {a0 a1} (h : Dark s x) :
    Dark s (partAside x a0 a1) := by
  unfold partAside
  repeat' first
    | with_reducible assumption
    | with_reducible refine settleAll_dark ?_
    | with_reducible refine modLink_dark ?_
    | with_reducible refine logK_dark ?_
    | with_reducible refine standAside_dark ?_
    | with_reducible refine ite_dark ?_ ?_
    | with_reducible refine foldl_dark ?_ (fun t a h => ?_)
    | with_reducible exact fun _ g => g
    | with_reducible exact fun _ _ => rfl
    | with_reducible exact fun n g => by (repeat' split) <;> first | exact g | rfl
    | dsimp -proj only
    | split

theorem setUnrecovered_dark {s x : State} {a0 a1} (h : Dark s x) : Dark s (setUnrecovered x a0 a1) :=
  Dark.of_keeps (fun k hk => setUnrecovered_keeps (a0 := a0) (a1 := a1) hk (k.same_refl x)) (by decide) h

theorem lossDown_dark {s x : State} {a0} (h : Dark s x) :
    Dark s (lossDown x a0) := by
  unfold lossDown
  repeat' first
    | with_reducible assumption
    | with_reducible refine modLink_dark ?_
    | with_reducible refine logK_dark ?_
    | with_reducible refine partAside_dark ?_
    | with_reducible refine setUnrecovered_dark ?_
    | with_reducible refine ite_dark ?_ ?_
    | with_reducible refine foldl_dark ?_ (fun t a h => ?_)
    | with_reducible exact fun _ g => g
    | with_reducible exact fun _ _ => rfl
    | with_reducible exact fun n g => by (repeat' split) <;> first | exact g | rfl
    | dsimp -proj only
    | split

theorem abandonSwap_dark {s x : State} {a0} (h : Dark s x) :
    Dark s (abandonSwap x a0) := by
  unfold abandonSwap
  repeat' first
    | with_reducible assumption
    | with_reducible refine restSpare_dark ?_
    | with_reducible refine dropSwap_dark ?_
    | with_reducible refine setSpare_dark ?_
    | with_reducible refine ite_dark ?_ ?_
    | with_reducible refine foldl_dark ?_ (fun t a h => ?_)
    | with_reducible exact fun _ g => g
    | with_reducible exact fun _ _ => rfl
    | with_reducible exact fun n g => by (repeat' split) <;> first | exact g | rfl
    | dsimp -proj only
    | split

theorem enterRetrain_dark {s x : State} {a0} (h : Dark s x) :
    Dark s (enterRetrain x a0) := by
  unfold enterRetrain
  repeat' first
    | with_reducible assumption
    | with_reducible refine setResult_dark ?_
    | with_reducible refine abandonSwap_dark ?_
    | with_reducible refine modLink_dark ?_
    | with_reducible refine endPbl_dark ?_
    | with_reducible refine dropMos_dark ?_
    | with_reducible refine switchLink_dark ?_
    | with_reducible refine ite_dark ?_ ?_
    | with_reducible refine foldl_dark ?_ (fun t a h => ?_)
    | with_reducible exact fun _ g => g
    | with_reducible exact fun _ _ => rfl
    | with_reducible exact fun n g => by (repeat' split) <;> first | exact g | rfl
    | dsimp -proj only
    | split

theorem sendOwn_dark {s x : State} {a0 a1 a2 a3} (h : Dark s x) : Dark s (sendOwn x a0 a1 a2 a3) :=
  Dark.of_keeps (fun k hk => sendOwn_keeps (a0 := a0) (a1 := a1) (a2 := a2) (a3 := a3) hk (k.same_refl x)) (by decide) h

theorem requestRetrain_dark {s x : State} {a0} (h : Dark s x) :
    Dark s (requestRetrain x a0) := by
  unfold requestRetrain
  repeat' first
    | with_reducible assumption
    | with_reducible refine modLink_dark ?_
    | with_reducible refine enterRetrain_dark ?_
    | with_reducible refine sendOwn_dark ?_
    | with_reducible refine ite_dark ?_ ?_
    | with_reducible refine foldl_dark ?_ (fun t a h => ?_)
    | with_reducible exact fun _ g => g
    | with_reducible exact fun _ _ => rfl
    | with_reducible exact fun n g => by (repeat' split) <;> first | exact g | rfl
    | dsimp -proj only
    | split

theorem lossDegrade_dark {s x : State} {a0} (h : Dark s x) :
    Dark s (lossDegrade x a0) := by
  unfold lossDegrade
  repeat' first
    | with_reducible assumption
    | with_reducible refine modLink_dark ?_
    | with_reducible refine lossDown_dark ?_
    | with_reducible refine requestRetrain_dark ?_
    | with_reducible refine ite_dark ?_ ?_
    | with_reducible refine foldl_dark ?_ (fun t a h => ?_)
    | with_reducible exact fun _ g => g
    | with_reducible exact fun _ _ => rfl
    | with_reducible exact fun n g => by (repeat' split) <;> first | exact g | rfl
    | dsimp -proj only
    | split

theorem logLane_dark {s x : State} {a0 a1 a2 a3 a4} (h : Dark s x) : Dark s (logLane x a0 a1 a2 a3 a4) :=
  Dark.of_keeps (fun k hk => logLane_keeps (a0 := a0) (a1 := a1) (a2 := a2) (a3 := a3) (a4 := a4) hk (k.same_refl x)) (by decide) h

theorem spareFallback_dark {s x : State} {a0 a1 a2} (h : Dark s x) :
    Dark s (spareFallback x a0 a1 a2) := by
  unfold spareFallback
  repeat' first
    | with_reducible assumption
    | with_reducible refine lossDegrade_dark ?_
    | with_reducible refine logLane_dark ?_
    | with_reducible refine ite_dark ?_ ?_
    | with_reducible refine foldl_dark ?_ (fun t a h => ?_)
    | with_reducible exact fun _ g => g
    | with_reducible exact fun _ _ => rfl
    | with_reducible exact fun n g => by (repeat' split) <;> first | exact g | rfl
    | dsimp -proj only
    | split

theorem vacate_dark {s x : State} {a0 a1} (h : Dark s x) :
    Dark s (vacate x a0 a1) := by
  unfold vacate
  repeat' first
    | with_reducible assumption
    | with_reducible refine modTx_dark ?_ ?_
    | with_reducible refine ite_dark ?_ ?_
    | with_reducible refine foldl_dark ?_ (fun t a h => ?_)
    | with_reducible exact fun _ g => g
    | with_reducible exact fun _ _ => rfl
    | with_reducible exact fun n g => by (repeat' split) <;> first | exact g | rfl
    | dsimp -proj only
    | split

theorem setSwapResult_dark {s x : State} {a0 a1} (h : Dark s x) : Dark s (setSwapResult x a0 a1) :=
  Dark.of_keeps (fun k hk => setSwapResult_keeps (a0 := a0) (a1 := a1) hk (k.same_refl x)) (by decide) h

theorem lossSpare_dark {s x : State} {a0 a1 a2} (h : Dark s x) :
    Dark s (lossSpare x a0 a1 a2) := by
  unfold lossSpare
  repeat' first
    | with_reducible assumption
    | with_reducible refine stopRecal_dark ?_
    | with_reducible refine spareFallback_dark ?_
    | with_reducible refine modLink_dark ?_
    | with_reducible refine setSwapResult_dark ?_
    | with_reducible refine beginSwap_dark ?_
    | with_reducible refine ite_dark ?_ ?_
    | with_reducible refine foldl_dark ?_ (fun t a h => ?_)
    | with_reducible exact fun _ g => g
    | with_reducible exact fun _ _ => rfl
    | with_reducible exact fun n g => by (repeat' split) <;> first | exact g | rfl
    | dsimp -proj only
    | split

theorem serveWaiting_dark {s x : State} {a0} (h : Dark s x) :
    Dark s (serveWaiting x a0) := by
  unfold serveWaiting
  repeat' first
    | with_reducible assumption
    | with_reducible refine modLink_dark ?_
    | with_reducible refine lossSpare_dark ?_
    | with_reducible refine ite_dark ?_ ?_
    | with_reducible refine foldl_dark ?_ (fun t a h => ?_)
    | with_reducible exact fun _ g => g
    | with_reducible exact fun _ _ => rfl
    | with_reducible exact fun n g => by (repeat' split) <;> first | exact g | rfl
    | dsimp -proj only
    | split

theorem giveUp_dark {s x : State} {a0 a1} (h : Dark s x) : Dark s (giveUp x a0 a1) :=
  Dark.of_keeps (fun k hk => giveUp_keeps (a0 := a0) (a1 := a1) hk (k.same_refl x)) (by decide) h

theorem sendSpare_dark {s x : State} {a0 a1 a2 a3} (h : Dark s x) : Dark s (sendSpare x a0 a1 a2 a3) :=
  Dark.of_keeps (fun k hk => sendSpare_keeps (a0 := a0) (a1 := a1) (a2 := a2) (a3 := a3) hk (k.same_refl x)) (by decide) h

theorem logSwap_dark {s x : State} {a0 a1 a2 a3} (h : Dark s x) : Dark s (logSwap x a0 a1 a2 a3) :=
  Dark.of_keeps (fun k hk => logSwap_keeps (a0 := a0) (a1 := a1) (a2 := a2) (a3 := a3) hk (k.same_refl x)) (by decide) h

theorem failSwap_dark {s x : State} {a0 a1 a2 a3} (h : Dark s x) :
    Dark s (failSwap x a0 a1 a2 a3) := by
  unfold failSwap
  try dsimp -zeta -proj only [upd_cal]
  repeat' first
    | with_reducible assumption
    | with_reducible refine restSpare_dark ?_
    | with_reducible refine spareFallback_dark ?_
    | with_reducible refine vacate_dark ?_
    | with_reducible refine modLink_dark ?_
    | with_reducible refine serveWaiting_dark ?_
    | with_reducible refine leaveSpare_dark ?_
    | with_reducible refine setSwapResult_dark ?_
    | with_reducible refine giveUp_dark ?_
    | with_reducible refine sendSpare_dark ?_
    | with_reducible refine logSwap_dark ?_
    | with_reducible refine setSpare_dark ?_
    | with_reducible refine putCal_dark ?_
    | with_reducible refine ite_dark ?_ ?_
    | with_reducible refine foldl_dark ?_ (fun t a h => ?_)
    | with_reducible exact fun _ g => g
    | with_reducible exact fun _ _ => rfl
    | with_reducible exact fun n g => by (repeat' split) <;> first | exact g | rfl
    | dsimp -proj only
    | split

theorem execSwapTimeout_dark {s x : State} {a0} (h : Dark s x) :
    ∃ t, execSwapTimeout a0 x = .next t ∧ Dark s t := by
  unfold execSwapTimeout
  repeat' first
    | with_reducible assumption
    | with_reducible refine done_dark ?_
    | with_reducible refine followStandin_dark ?_
    | with_reducible refine failSwap_dark ?_
    | with_reducible refine ite_dark ?_ ?_
    | with_reducible refine foldl_dark ?_ (fun t a h => ?_)
    | with_reducible exact fun _ g => g
    | with_reducible exact fun _ _ => rfl
    | with_reducible exact fun n g => by (repeat' split) <;> first | exact g | rfl
    | dsimp -proj only
    | split

theorem logEvent_dark {s x : State} {a0 a1 a2} (h : Dark s x) : Dark s (logEvent x a0 a1 a2) :=
  Dark.of_keeps (fun k hk => logEvent_keeps (a0 := a0) (a1 := a1) (a2 := a2) hk (k.same_refl x)) (by decide) h

theorem forceLink_dark {s x : State} {a0} (h : Dark s x) :
    Dark s (forceLink x a0) := by
  unfold forceLink
  repeat' first
    | with_reducible assumption
    | with_reducible refine switchNow_dark ?_
    | with_reducible refine setResult_dark ?_
    | with_reducible refine modLink_dark ?_
    | with_reducible refine dropLink_dark ?_
    | with_reducible refine ite_dark ?_ ?_
    | with_reducible refine foldl_dark ?_ (fun t a h => ?_)
    | with_reducible exact fun _ g => g
    | with_reducible exact fun _ _ => rfl
    | with_reducible exact fun n g => by (repeat' split) <;> first | exact g | rfl
    | dsimp -proj only
    | split

theorem restartLink_dark {s x : State} {a0} (h : Dark s x) : Dark s (restartLink x a0) :=
  Dark.of_keeps (fun k hk => restartLink_keeps (a0 := a0) hk (k.same_refl x)) (by decide) h

theorem settle_dark {s x : State} (h : Dark s x) :
    Dark s (settle x) := by
  unfold settle
  repeat' first
    | with_reducible assumption
    | with_reducible refine settleAll_dark ?_
    | with_reducible refine forceLink_dark ?_
    | with_reducible refine restartLink_dark ?_
    | with_reducible refine ite_dark ?_ ?_
    | with_reducible refine foldl_dark ?_ (fun t a h => ?_)
    | with_reducible exact fun _ g => g
    | with_reducible exact fun _ _ => rfl
    | with_reducible exact fun n g => by (repeat' split) <;> first | exact g | rfl
    | dsimp -proj only
    | split

theorem enterShutdown_dark {s x : State} {a0} (h : Dark s x) :
    Dark s (enterShutdown x a0) := by
  unfold enterShutdown
  try dsimp -zeta -proj only [upd_therm]
  repeat' first
    | with_reducible assumption
    | with_reducible refine logEvent_dark ?_
    | with_reducible refine settle_dark ?_
    | with_reducible refine putTherm_dark ?_
    | with_reducible refine ite_dark ?_ ?_
    | with_reducible refine foldl_dark ?_ (fun t a h => ?_)
    | with_reducible exact fun _ g => g
    | with_reducible exact fun _ _ => rfl
    | with_reducible exact fun n g => by (repeat' split) <;> first | exact g | rfl
    | dsimp -proj only
    | split

theorem logIslandOff_dark {s x : State} {a0 a1} (h : Dark s x) : Dark s (logIslandOff x a0 a1) :=
  Dark.of_keeps (fun k hk => logIslandOff_keeps (a0 := a0) (a1 := a1) hk (k.same_refl x)) (by decide) h

theorem sendStart_dark {s x : State} {a0} (h : Dark s x) : Dark s (sendStart x a0) :=
  Dark.of_keeps (fun k hk => sendStart_keeps (a0 := a0) hk (k.same_refl x)) (by decide) h

theorem logDenied_dark {s x : State} {a0 a1} (h : Dark s x) : Dark s (logDenied x a0 a1) :=
  Dark.of_keeps (fun k hk => logDenied_keeps (a0 := a0) (a1 := a1) hk (k.same_refl x)) (by decide) h

theorem eraseSetUp_dark {s x : State} {a0} (h : Dark s x) : Dark s (eraseSetUp x a0) :=
  Dark.of_keeps (fun k hk => eraseSetUp_keeps (a0 := a0) hk (k.same_refl x)) (by decide) h

theorem execSkipAbsent_dark {s x : State} {a0} (h : Dark s x) :
    ∃ t, execSkipAbsent a0 x = .next t ∧ Dark s t := by
  unfold execSkipAbsent
  repeat' first
    | with_reducible assumption
    | with_reducible refine done_dark ?_
    | with_reducible refine setResult_dark ?_
    | with_reducible refine logK_dark ?_
    | with_reducible refine switchLink_dark ?_
    | with_reducible refine ite_dark ?_ ?_
    | with_reducible refine foldl_dark ?_ (fun t a h => ?_)
    | with_reducible exact fun _ g => g
    | with_reducible exact fun _ _ => rfl
    | with_reducible exact fun n g => by (repeat' split) <;> first | exact g | rfl
    | dsimp -proj only
    | split

theorem busRead_dark {s x : State} {a0 a1} (h : Dark s x) : Dark s (busRead x a0 a1) :=
  Dark.of_keeps (fun k hk => busRead_keeps (a0 := a0) (a1 := a1) hk (k.same_refl x)) (by decide) h

theorem execDtimeLoRead_dark {s x : State} {a0} (h : Dark s x) :
    ∃ t, execDtimeLoRead a0 x = .next t ∧ Dark s t := by
  unfold execDtimeLoRead
  repeat' first
    | with_reducible assumption
    | with_reducible refine done_dark ?_
    | with_reducible refine busRead_dark ?_
    | with_reducible refine ite_dark ?_ ?_
    | with_reducible refine foldl_dark ?_ (fun t a h => ?_)
    | with_reducible exact fun _ g => g
    | with_reducible exact fun _ _ => rfl
    | with_reducible exact fun n g => by (repeat' split) <;> first | exact g | rfl
    | dsimp -proj only
    | split

theorem parkIn_dark {s x : State} {a0 a1 a2 a3 a4 a5 a6} (h : Dark s x) : Dark s (parkIn x a0 a1 a2 a3 a4 a5 a6) :=
  Dark.of_keeps (fun k hk => parkIn_keeps (a0 := a0) (a1 := a1) (a2 := a2) (a3 := a3) (a4 := a4) (a5 := a5) (a6 := a6) hk (k.same_refl x)) (by decide) h

theorem noteFence_dark {s x : State} {a0} (h : Dark s x) : Dark s (noteFence x a0) :=
  Dark.of_keeps (fun k hk => noteFence_keeps (a0 := a0) hk (k.same_refl x)) (by decide) h

theorem runBlock_dark {s x : State} {a0 a1} (h : Dark s x) : Dark s (runBlock x a0 a1) :=
  Dark.of_keeps (fun k hk => runBlock_keeps (a0 := a0) (a1 := a1) hk (k.same_refl x)) (by decide) h

theorem modPins_dark {s x : State} {a0} (h : Dark s x) : Dark s (modPins x a0) :=
  Dark.of_keeps (fun k hk => modPins_keeps (a0 := a0) hk (k.same_refl x)) (by decide) h

theorem execBypNPulse_dark {s x : State} (h : Dark s x) :
    ∃ t, execBypNPulse x = .next t ∧ Dark s t := by
  unfold execBypNPulse
  repeat' first
    | with_reducible assumption
    | with_reducible refine done_dark ?_
    | with_reducible refine settle_dark ?_
    | with_reducible refine modPins_dark ?_
    | with_reducible refine ite_dark ?_ ?_
    | with_reducible refine foldl_dark ?_ (fun t a h => ?_)
    | with_reducible exact fun _ g => g
    | with_reducible exact fun _ _ => rfl
    | with_reducible exact fun n g => by (repeat' split) <;> first | exact g | rfl
    | dsimp -proj only
    | split

theorem writeDtload_dark {s x : State} {a0 a1} (h : Dark s x) : Dark s (writeDtload x a0 a1) :=
  Dark.of_keeps (fun k hk => writeDtload_keeps (a0 := a0) (a1 := a1) hk (k.same_refl x)) (by decide) h

theorem writeLneq_dark {s x : State} {a0 a1 a2} (h : Dark s x) :
    Dark s (writeLneq x a0 a1 a2) := by
  unfold writeLneq
  repeat' first
    | with_reducible assumption
    | with_reducible refine modEq_dark ?_
    | with_reducible refine ite_dark ?_ ?_
    | with_reducible refine foldl_dark ?_ (fun t a h => ?_)
    | with_reducible exact fun _ g => g
    | with_reducible exact fun _ _ => rfl
    | with_reducible exact fun n g => by (repeat' split) <;> first | exact g | rfl
    | dsimp -proj only
    | split

theorem writeEvtmask_dark {s x : State} {a0} (h : Dark s x) : Dark s (writeEvtmask x a0) :=
  Dark.of_keeps (fun k hk => writeEvtmask_keeps (a0 := a0) hk (k.same_refl x)) (by decide) h

theorem requestStandby_dark {s x : State} (h : Dark s x) :
    Dark s (requestStandby x) := by
  unfold requestStandby
  try dsimp -zeta -proj only [upd_dev]
  repeat' first
    | with_reducible assumption
    | with_reducible refine stopRecal_dark ?_
    | with_reducible refine putDev_dark ?_
    | with_reducible refine ite_dark ?_ ?_
    | with_reducible refine foldl_dark ?_ (fun t a h => ?_)
    | with_reducible exact fun _ g => g
    | with_reducible exact fun _ _ => rfl
    | with_reducible exact fun n g => by (repeat' split) <;> first | exact g | rfl
    | dsimp -proj only
    | split

theorem writeDevctl_dark {s x : State} {a0} (h : Dark s x) :
    Dark s (writeDevctl x a0) := by
  unfold writeDevctl
  try dsimp -zeta -proj only [upd_boot, upd_dev_therm]
  repeat' first
    | with_reducible assumption
    | with_reducible refine settle_dark ?_
    | with_reducible refine requestStandby_dark ?_
    | with_reducible refine putBoot_dark ?_
    | with_reducible refine putDev_dark ?_
    | with_reducible refine putTherm_dark ?_
    | with_reducible refine ite_dark ?_ ?_
    | with_reducible refine foldl_dark ?_ (fun t a h => ?_)
    | with_reducible exact fun _ g => g
    | with_reducible exact fun _ _ => rfl
    | with_reducible exact fun n g => by (repeat' split) <;> first | exact g | rfl
    | dsimp -proj only
    | split

theorem modWq_dark {s x : State} {a0 a1} (h : Dark s x) : Dark s (modWq x a0 a1) :=
  Dark.of_keeps (fun k hk => modWq_keeps (a0 := a0) (a1 := a1) hk (k.same_refl x)) (by decide) h

theorem dropSend_dark {s x : State} {a0} (h : Dark s x) : Dark s (dropSend x a0) :=
  Dark.of_keeps (fun k hk => dropSend_keeps (a0 := a0) hk (k.same_refl x)) (by decide) h

theorem retireJob_dark {s x : State} {a0 a1} (h : Dark s x) : Dark s (retireJob x a0 a1) :=
  Dark.of_keeps (fun k hk => retireJob_keeps (a0 := a0) (a1 := a1) hk (k.same_refl x)) (by decide) h

theorem abortEntry_dark {s x : State} {a0 a1 a2 a3} (h : Dark s x) : Dark s (abortEntry x a0 a1 a2 a3) :=
  Dark.of_keeps (fun k hk => abortEntry_keeps (a0 := a0) (a1 := a1) (a2 := a2) (a3 := a3) hk (k.same_refl x)) (by decide) h

theorem modAwl_dark {s x : State} {a0} (h : Dark s x) : Dark s (modAwl x a0) :=
  Dark.of_keeps (fun k hk => modAwl_keeps (a0 := a0) hk (k.same_refl x)) (by decide) h

theorem stopNvm_dark {s x : State} {a0} (h : Dark s x) : Dark s (stopNvm x a0).2 :=
  Dark.of_keeps (fun k hk => stopNvm_keeps (a0 := a0) hk (k.same_refl x)) (by decide) h

theorem stopNvm_dark_eq {s x : State} {a0} {r u} (h : Dark s x) (e : stopNvm x a0 = (r, u)) :
    Dark s u := 
  Dark.of_keeps (fun k hk => stopNvm_keeps_eq (a0 := a0) hk (k.same_refl x) e) (by decide) h

theorem faultSeen_dark {s x : State} {a0 a1} (h : Dark s x) : Dark s (faultSeen x a0 a1) :=
  Dark.of_keeps (fun k hk => faultSeen_keeps (a0 := a0) (a1 := a1) hk (k.same_refl x)) (by decide) h

theorem dropStaging_dark {s x : State} {a0} (h : Dark s x) : Dark s (dropStaging x a0) :=
  Dark.of_keeps (fun k hk => dropStaging_keeps (a0 := a0) hk (k.same_refl x)) (by decide) h

theorem endCapture_dark {s x : State} {a0 a1 a2 a3 a4} (h : Dark s x) : Dark s (endCapture x a0 a1 a2 a3 a4).2 :=
  Dark.of_keeps (fun k hk => endCapture_keeps (a0 := a0) (a1 := a1) (a2 := a2) (a3 := a3) (a4 := a4) hk (k.same_refl x)) (by decide) h

theorem endCapture_dark_eq {s x : State} {a0 a1 a2 a3 a4} {r u} (h : Dark s x) (e : endCapture x a0 a1 a2 a3 a4 = (r, u)) :
    Dark s u := 
  Dark.of_keeps (fun k hk => endCapture_keeps_eq (a0 := a0) (a1 := a1) (a2 := a2) (a3 := a3) (a4 := a4) hk (k.same_refl x) e) (by decide) h

theorem stopUnit_dark {s x : State} {a0 a1} (h : Dark s x) :
    Dark s (stopUnit x a0 a1).2 := by
  unfold stopUnit
  repeat' first
    | with_reducible assumption
    | with_reducible refine prbsOff_dark ?_
    | with_reducible refine stopNvm_dark ?_
    | with_reducible refine stopNvm_dark_eq ?_ (by with_reducible assumption)
    | with_reducible refine faultSeen_dark ?_
    | with_reducible refine modAwl_dark ?_
    | with_reducible refine dropStaging_dark ?_
    | with_reducible refine endCapture_dark ?_
    | with_reducible refine endCapture_dark_eq ?_ (by with_reducible assumption)
    | with_reducible refine ite_dark ?_ ?_
    | with_reducible refine foldl_dark ?_ (fun t a h => ?_)
    | with_reducible exact fun _ g => g
    | with_reducible exact fun _ _ => rfl
    | with_reducible exact fun n g => by (repeat' split) <;> first | exact g | rfl
    | dsimp -proj only
    | split

theorem stopUnit_dark_eq {s x : State} {a0 a1} {r u} (h : Dark s x) (e : stopUnit x a0 a1 = (r, u)) :
    Dark s u := by
  simpa only [e] using stopUnit_dark (s := s) (x := x) (a0 := a0) (a1 := a1) h

theorem awlUnitJob_dark {s x : State} {a0 a1} (h : Dark s x) :
    Dark s (awlUnitJob x a0 a1) := by
  unfold awlUnitJob
  repeat' first
    | with_reducible assumption
    | with_reducible refine dropSend_dark ?_
    | with_reducible refine retireJob_dark ?_
    | with_reducible refine setUnit_dark ?_
    | with_reducible refine abortEntry_dark ?_
    | with_reducible refine modAwl_dark ?_
    | with_reducible refine stopUnit_dark ?_
    | with_reducible refine stopUnit_dark_eq ?_ (by with_reducible assumption)
    | with_reducible refine ite_dark ?_ ?_
    | with_reducible refine foldl_dark ?_ (fun t a h => ?_)
    | with_reducible exact fun _ g => g
    | with_reducible exact fun _ _ => rfl
    | with_reducible exact fun n g => by (repeat' split) <;> first | exact g | rfl
    | dsimp -proj only
    | split

theorem awlWaiting_dark {s x : State} {a0 a1} (h : Dark s x) : Dark s (awlWaiting x a0 a1) :=
  Dark.of_keeps (fun k hk => awlWaiting_keeps (a0 := a0) (a1 := a1) hk (k.same_refl x)) (by decide) h

theorem awlHeld_dark {s x : State} {a0} (h : Dark s x) : Dark s (awlHeld x a0) :=
  Dark.of_keeps (fun k hk => awlHeld_keeps (a0 := a0) hk (k.same_refl x)) (by decide) h

theorem awlSlot_dark {s x : State} {a0 a1} (h : Dark s x) : Dark s (awlSlot x a0 a1) :=
  Dark.of_keeps (fun k hk => awlSlot_keeps (a0 := a0) (a1 := a1) hk (k.same_refl x)) (by decide) h

theorem awlEnd_dark {s x : State} {a0 a1} (h : Dark s x) :
    Dark s (awlEnd x a0 a1) := by
  unfold awlEnd
  repeat' first
    | with_reducible assumption
    | with_reducible refine awlUnitJob_dark ?_
    | with_reducible refine awlWaiting_dark ?_
    | with_reducible refine awlHeld_dark ?_
    | with_reducible refine awlSlot_dark ?_
    | with_reducible refine ite_dark ?_ ?_
    | with_reducible refine foldl_dark ?_ (fun t a h => ?_)
    | with_reducible exact fun _ g => g
    | with_reducible exact fun _ _ => rfl
    | with_reducible exact fun n g => by (repeat' split) <;> first | exact g | rfl
    | dsimp -proj only
    | split

theorem awlAccept_dark {s x : State} {a0} (h : Dark s x) : Dark s (awlAccept x a0) :=
  Dark.of_keeps (fun k hk => awlAccept_keeps (a0 := a0) hk (k.same_refl x)) (by decide) h

theorem endRegTests_dark {s x : State} {a0 a1} (h : Dark s x) :
    Dark s (endRegTests x a0 a1).2 := by
  unfold endRegTests
  repeat' first
    | with_reducible assumption
    | with_reducible refine logL_dark ?_
    | with_reducible refine modMeas_dark ?_
    | with_reducible refine ite_dark ?_ ?_
    | with_reducible refine foldl_dark ?_ (fun t a h => ?_)
    | with_reducible exact fun _ g => g
    | with_reducible exact fun _ _ => rfl
    | with_reducible exact fun n g => by (repeat' split) <;> first | exact g | rfl
    | dsimp -proj only
    | split

theorem endRegTests_dark_eq {s x : State} {a0 a1} {r u} (h : Dark s x) (e : endRegTests x a0 a1 = (r, u)) :
    Dark s u := by
  simpa only [e] using endRegTests_dark (s := s) (x := x) (a0 := a0) (a1 := a1) h

theorem awlCommand_dark {s x : State} {a0} (h : Dark s x) :
    Dark s (awlCommand x a0) := by
  unfold awlCommand
  repeat' first
    | with_reducible assumption
    | with_reducible refine modWq_dark ?_
    | with_reducible refine awlUnitJob_dark ?_
    | with_reducible refine awlEnd_dark ?_
    | with_reducible refine modAwl_dark ?_
    | with_reducible refine awlAccept_dark ?_
    | with_reducible refine endRegTests_dark ?_
    | with_reducible refine endRegTests_dark_eq ?_ (by with_reducible assumption)
    | with_reducible refine ite_dark ?_ ?_
    | with_reducible refine foldl_dark ?_ (fun t a h => ?_)
    | with_reducible exact fun _ g => g
    | with_reducible exact fun _ _ => rfl
    | with_reducible exact fun n g => by (repeat' split) <;> first | exact g | rfl
    | dsimp -proj only
    | split

theorem writeCqhead_dark {s x : State} {a0 a1} (h : Dark s x) : Dark s (writeCqhead x a0 a1) :=
  Dark.of_keeps (fun k hk => writeCqhead_keeps (a0 := a0) (a1 := a1) hk (k.same_refl x)) (by decide) h

theorem writeLnstat_dark {s x : State} {a0 a1 a2} (h : Dark s x) :
    Dark s (writeLnstat x a0 a1 a2) := by
  unfold writeLnstat
  repeat' first
    | with_reducible assumption
    | with_reducible refine modRx_dark ?_
    | with_reducible refine ite_dark ?_ ?_
    | with_reducible refine foldl_dark ?_ (fun t a h => ?_)
    | with_reducible exact fun _ g => g
    | with_reducible exact fun _ _ => rfl
    | with_reducible exact fun n g => by (repeat' split) <;> first | exact g | rfl
    | dsimp -proj only
    | split

theorem silenceLoop_dark {s x : State} {a0 a1} (h : Dark s x) :
    Dark s (silenceLoop x a0 a1) := by
  unfold silenceLoop
  repeat' first
    | with_reducible assumption
    | with_reducible refine modTx_dark ?_ ?_
    | with_reducible refine ite_dark ?_ ?_
    | with_reducible refine foldl_dark ?_ (fun t a h => ?_)
    | with_reducible exact fun _ g => g
    | with_reducible exact fun _ _ => rfl
    | with_reducible exact fun n g => by (repeat' split) <;> first | exact g | rfl
    | dsimp -proj only
    | split

theorem coolIdle_dark {s x : State} {a0} (h : Dark s x) :
    Dark s (coolIdle x a0) := by
  unfold coolIdle
  repeat' first
    | with_reducible assumption
    | with_reducible refine coolRx_dark ?_
    | with_reducible refine ite_dark ?_ ?_
    | with_reducible refine foldl_dark ?_ (fun t a h => ?_)
    | with_reducible exact fun _ g => g
    | with_reducible exact fun _ _ => rfl
    | with_reducible exact fun n g => by (repeat' split) <;> first | exact g | rfl
    | dsimp -proj only
    | split

theorem coolSpare_dark {s x : State} {a0} (h : Dark s x) : Dark s (coolSpare x a0) :=
  Dark.of_keeps (fun k hk => coolSpare_keeps (a0 := a0) hk (k.same_refl x)) (by decide) h

theorem holdStarts_dark {s x : State} {a0 a1} (h : Dark s x) :
    Dark s (holdStarts x a0 a1) := by
  unfold holdStarts
  repeat' first
    | with_reducible assumption
    | with_reducible refine coolSpare_dark ?_
    | with_reducible refine modRx_dark ?_
    | with_reducible refine modMeas_dark ?_
    | with_reducible refine ite_dark ?_ ?_
    | with_reducible refine foldl_dark ?_ (fun t a h => ?_)
    | with_reducible exact fun _ g => g
    | with_reducible exact fun _ _ => rfl
    | with_reducible exact fun n g => by (repeat' split) <;> first | exact g | rfl
    | dsimp -proj only
    | split

theorem writeLnloop_dark {s x : State} {a0 a1 a2} (h : Dark s x) :
    Dark s (writeLnloop x a0 a1 a2) := by
  unfold writeLnloop
  repeat' first
    | with_reducible assumption
    | with_reducible refine silenceLoop_dark ?_
    | with_reducible refine coolIdle_dark ?_
    | with_reducible refine holdStarts_dark ?_
    | with_reducible refine modMeas_dark ?_
    | with_reducible refine ite_dark ?_ ?_
    | with_reducible refine foldl_dark ?_ (fun t a h => ?_)
    | with_reducible exact fun _ g => g
    | with_reducible exact fun _ _ => rfl
    | with_reducible exact fun n g => by (repeat' split) <;> first | exact g | rfl
    | dsimp -proj only
    | split

theorem writeLnkloss_dark {s x : State} {a0 a1} (h : Dark s x) : Dark s (writeLnkloss x a0 a1) :=
  Dark.of_keeps (fun k hk => writeLnkloss_keeps (a0 := a0) (a1 := a1) hk (k.same_refl x)) (by decide) h

theorem writeTmstat_dark {s x : State} {a0} (h : Dark s x) : Dark s (writeTmstat x a0) :=
  Dark.of_keeps (fun k hk => writeTmstat_keeps (a0 := a0) hk (k.same_refl x)) (by decide) h

theorem writeWqhdr_dark {s x : State} {a0 a1} (h : Dark s x) : Dark s (writeWqhdr x a0 a1) :=
  Dark.of_keeps (fun k hk => writeWqhdr_keeps (a0 := a0) (a1 := a1) hk (k.same_refl x)) (by decide) h

theorem writeAttnsrc_dark {s x : State} {a0} (h : Dark s x) : Dark s (writeAttnsrc x a0) :=
  Dark.of_keeps (fun k hk => writeAttnsrc_keeps (a0 := a0) hk (k.same_refl x)) (by decide) h

theorem writeLnkspcmd_dark {s x : State} {a0 a1} (h : Dark s x) : Dark s (writeLnkspcmd x a0 a1) :=
  Dark.of_keeps (fun k hk => writeLnkspcmd_keeps (a0 := a0) (a1 := a1) hk (k.same_refl x)) (by decide) h

theorem idleLink_dark {s x : State} {a0 a1 a2} (h : Dark s x) :
    Dark s (idleLink x a0 a1 a2) := by
  unfold idleLink
  repeat' first
    | with_reducible assumption
    | with_reducible refine modTx_dark ?_ ?_
    | with_reducible refine ite_dark ?_ ?_
    | with_reducible refine foldl_dark ?_ (fun t a h => ?_)
    | with_reducible exact fun _ g => g
    | with_reducible exact fun _ _ => rfl
    | with_reducible exact fun n g => by (repeat' split) <;> first | exact g | rfl
    | dsimp -proj only
    | split

theorem restartD_dark {s x : State} {a0 a1 a2} (h : Dark s x) :
    Dark s (restartD x a0 a1 a2) := by
  unfold restartD
  repeat' first
    | with_reducible assumption
    | with_reducible refine idleLink_dark ?_
    | with_reducible refine takeUp_dark ?_
    | with_reducible refine restartLink_dark ?_
    | with_reducible refine dropLink_dark ?_
    | with_reducible refine ite_dark ?_ ?_
    | with_reducible refine foldl_dark ?_ (fun t a h => ?_)
    | with_reducible exact fun _ g => g
    | with_reducible exact fun _ _ => rfl
    | with_reducible exact fun n g => by (repeat' split) <;> first | exact g | rfl
    | dsimp -proj only
    | split

theorem checkRecovered_dark {s x : State} {a0} (h : Dark s x) : Dark s (checkRecovered x a0) :=
  Dark.of_keeps (fun k hk => checkRecovered_keeps (a0 := a0) hk (k.same_refl x)) (by decide) h

theorem laneRestart_dark {s x : State} {a0} (h : Dark s x) :
    Dark s (laneRestart x a0) := by
  unfold laneRestart
  repeat' first
    | with_reducible assumption
    | with_reducible refine modLink_dark ?_
    | with_reducible refine modRx_dark ?_
    | with_reducible refine dropCdr_dark ?_
    | with_reducible refine checkRecovered_dark ?_
    | with_reducible refine ite_dark ?_ ?_
    | with_reducible refine foldl_dark ?_ (fun t a h => ?_)
    | with_reducible exact fun _ g => g
    | with_reducible exact fun _ _ => rfl
    | with_reducible exact fun n g => by (repeat' split) <;> first | exact g | rfl
    | dsimp -proj only
    | split

theorem modLast_dark {s x : State} {a0} (h : Dark s x) : Dark s (modLast x a0) :=
  Dark.of_keeps (fun k hk => modLast_keeps (a0 := a0) hk (k.same_refl x)) (by decide) h

theorem applyLink_dark {s x : State} {a0 a1 a2} (h : Dark s x) :
    Dark s (applyLink x a0 a1 a2) := by
  unfold applyLink
  repeat' first
    | with_reducible assumption
    | with_reducible refine modLink_dark ?_
    | with_reducible refine takeUp_dark ?_
    | with_reducible refine restartD_dark ?_
    | with_reducible refine laneRestart_dark ?_
    | with_reducible refine modLast_dark ?_
    | with_reducible refine requestRetrain_dark ?_
    | with_reducible refine ite_dark ?_ ?_
    | with_reducible refine foldl_dark ?_ (fun t a h => ?_)
    | with_reducible exact fun _ g => g
    | with_reducible exact fun _ _ => rfl
    | with_reducible exact fun n g => by (repeat' split) <;> first | exact g | rfl
    | dsimp -proj only
    | split

theorem loadPrograms_dark {s x : State} (h : Dark s x) : Dark s (loadPrograms x) :=
  Dark.of_keeps (fun k hk => loadPrograms_keeps hk (k.same_refl x)) (by decide) h

theorem checkDone_dark {s x : State} (h : Dark s x) : Dark s (checkDone x) :=
  Dark.of_keeps (fun k hk => checkDone_keeps hk (k.same_refl x)) (by decide) h

theorem acceptCommit_dark {s x : State} {a0} (h : Dark s x) :
    Dark s (acceptCommit x a0) := by
  unfold acceptCommit
  repeat' first
    | with_reducible assumption
    | with_reducible refine applyLink_dark ?_
    | with_reducible refine settle_dark ?_
    | with_reducible refine retarget_dark ?_
    | with_reducible refine loadPrograms_dark ?_
    | with_reducible refine checkDone_dark ?_
    | with_reducible refine modLast_dark ?_
    | with_reducible refine relockPlls_dark ?_
    | with_reducible refine ite_dark ?_ ?_
    | with_reducible refine foldl_dark ?_ (fun t a h => ?_)
    | with_reducible exact fun _ g => g
    | with_reducible exact fun _ _ => rfl
    | with_reducible exact fun n g => by (repeat' split) <;> first | exact g | rfl
    | dsimp -proj only
    | split

theorem writeLastcmd_dark {s x : State} {a0 a1} (h : Dark s x) :
    Dark s (writeLastcmd x a0 a1) := by
  unfold writeLastcmd
  repeat' first
    | with_reducible assumption
    | with_reducible refine acceptCommit_dark ?_
    | with_reducible refine modLast_dark ?_
    | with_reducible refine ite_dark ?_ ?_
    | with_reducible refine foldl_dark ?_ (fun t a h => ?_)
    | with_reducible exact fun _ g => g
    | with_reducible exact fun _ _ => rfl
    | with_reducible exact fun n g => by (repeat' split) <;> first | exact g | rfl
    | dsimp -proj only
    | split

theorem writeCalcmd_dark {s x : State} {a0} (h : Dark s x) : Dark s (writeCalcmd x a0) :=
  Dark.of_keeps (fun k hk => writeCalcmd_keeps (a0 := a0) hk (k.same_refl x)) (by decide) h

theorem clearFaults_dark {s x : State} {a0} (h : Dark s x) : Dark s (clearFaults x a0) :=
  Dark.of_keeps (fun k hk => clearFaults_keeps (a0 := a0) hk (k.same_refl x)) (by decide) h

theorem writeWqctl_dark {s x : State} {a0 a1} (h : Dark s x) : Dark s (writeWqctl x a0 a1) :=
  Dark.of_keeps (fun k hk => writeWqctl_keeps (a0 := a0) (a1 := a1) hk (k.same_refl x)) (by decide) h

theorem writeTwbstat_dark {s x : State} {a0} (h : Dark s x) : Dark s (writeTwbstat x a0) :=
  Dark.of_keeps (fun k hk => writeTwbstat_keeps (a0 := a0) hk (k.same_refl x)) (by decide) h

theorem writeTmthresh_dark {s x : State} {a0 a1} (h : Dark s x) : Dark s (writeTmthresh x a0 a1) :=
  Dark.of_keeps (fun k hk => writeTmthresh_keeps (a0 := a0) (a1 := a1) hk (k.same_refl x)) (by decide) h

theorem fixSearches_dark {s x : State} {a0} (h : Dark s x) :
    Dark s (fixSearches x a0) := by
  unfold fixSearches
  repeat' first
    | with_reducible assumption
    | with_reducible refine modLane_dark ?_ ?_
    | with_reducible refine ite_dark ?_ ?_
    | with_reducible refine foldl_dark ?_ (fun t a h => ?_)
    | with_reducible exact fun _ g => g
    | with_reducible exact fun _ _ => rfl
    | with_reducible exact fun n g => by (repeat' split) <;> first | exact g | rfl
    | dsimp -proj only
    | split

theorem startJoin_dark {s x : State} {a0} (h : Dark s x) :
    Dark s (startJoin x a0) := by
  unfold startJoin
  repeat' first
    | with_reducible assumption
    | with_reducible refine settle_dark ?_
    | with_reducible refine modLink_dark ?_
    | with_reducible refine ite_dark ?_ ?_
    | with_reducible refine foldl_dark ?_ (fun t a h => ?_)
    | with_reducible exact fun _ g => g
    | with_reducible exact fun _ _ => rfl
    | with_reducible exact fun n g => by (repeat' split) <;> first | exact g | rfl
    | dsimp -proj only
    | split

theorem switchWaiting_dark {s x : State} {a0} (h : Dark s x) :
    Dark s (switchWaiting x a0) := by
  unfold switchWaiting
  repeat' first
    | with_reducible assumption
    | with_reducible refine switchNow_dark ?_
    | with_reducible refine ite_dark ?_ ?_
    | with_reducible refine foldl_dark ?_ (fun t a h => ?_)
    | with_reducible exact fun _ g => g
    | with_reducible exact fun _ _ => rfl
    | with_reducible exact fun n g => by (repeat' split) <;> first | exact g | rfl
    | dsimp -proj only
    | split

theorem enterDisabled_dark {s x : State} {a0} (h : Dark s x) :
    Dark s (enterDisabled x a0) := by
  unfold enterDisabled
  repeat' first
    | with_reducible assumption
    | with_reducible refine switchWaiting_dark ?_
    | with_reducible refine modLink_dark ?_
    | with_reducible refine dropLink_dark ?_
    | with_reducible refine ite_dark ?_ ?_
    | with_reducible refine foldl_dark ?_ (fun t a h => ?_)
    | with_reducible exact fun _ g => g
    | with_reducible exact fun _ _ => rfl
    | with_reducible exact fun n g => by (repeat' split) <;> first | exact g | rfl
    | dsimp -proj only
    | split

theorem enterDetect_dark {s x : State} {a0 a1} (h : Dark s x) :
    Dark s (enterDetect x a0 a1) := by
  unfold enterDetect
  repeat' first
    | with_reducible assumption
    | with_reducible refine enterDisabled_dark ?_
    | with_reducible refine switchWaiting_dark ?_
    | with_reducible refine modLink_dark ?_
    | with_reducible refine partAside_dark ?_
    | with_reducible refine dropLink_dark ?_
    | with_reducible refine ite_dark ?_ ?_
    | with_reducible refine foldl_dark ?_ (fun t a h => ?_)
    | with_reducible exact fun _ g => g
    | with_reducible exact fun _ _ => rfl
    | with_reducible exact fun n g => by (repeat' split) <;> first | exact g | rfl
    | dsimp -proj only
    | split

theorem writeDisable_dark {s x : State} {a0 a1} (h : Dark s x) :
    Dark s (writeDisable x a0 a1) := by
  unfold writeDisable
  repeat' first
    | with_reducible assumption
    | with_reducible refine enterDisabled_dark ?_
    | with_reducible refine modLink_dark ?_
    | with_reducible refine enterDetect_dark ?_
    | with_reducible refine ite_dark ?_ ?_
    | with_reducible refine foldl_dark ?_ (fun t a h => ?_)
    | with_reducible exact fun _ g => g
    | with_reducible exact fun _ _ => rfl
    | with_reducible exact fun n g => by (repeat' split) <;> first | exact g | rfl
    | dsimp -proj only
    | split

theorem startState_dark {s x : State} {a0} (h : Dark s x) : Dark s (startState x a0) :=
  Dark.of_keeps (fun k hk => startState_keeps (a0 := a0) hk (k.same_refl x)) (by decide) h

theorem writeAside_dark {s x : State} {a0 a1} (h : Dark s x) :
    Dark s (writeAside x a0 a1) := by
  unfold writeAside
  repeat' first
    | with_reducible assumption
    | with_reducible refine startState_dark ?_
    | with_reducible refine settle_dark ?_
    | with_reducible refine modLink_dark ?_
    | with_reducible refine standAside_dark ?_
    | with_reducible refine ite_dark ?_ ?_
    | with_reducible refine foldl_dark ?_ (fun t a h => ?_)
    | with_reducible exact fun _ g => g
    | with_reducible exact fun _ _ => rfl
    | with_reducible exact fun n g => by (repeat' split) <;> first | exact g | rfl
    | dsimp -proj only
    | split

theorem writeLnkctl_dark {s x : State} {a0 a1} (h : Dark s x) :
    Dark s (writeLnkctl x a0 a1) := by
  unfold writeLnkctl
  repeat' first
    | with_reducible assumption
    | with_reducible refine fixSearches_dark ?_
    | with_reducible refine modLink_dark ?_
    | with_reducible refine startJoin_dark ?_
    | with_reducible refine writeDisable_dark ?_
    | with_reducible refine writeAside_dark ?_
    | with_reducible refine requestRetrain_dark ?_
    | with_reducible refine ite_dark ?_ ?_
    | with_reducible refine foldl_dark ?_ (fun t a h => ?_)
    | with_reducible exact fun _ g => g
    | with_reducible exact fun _ _ => rfl
    | with_reducible exact fun n g => by (repeat' split) <;> first | exact g | rfl
    | dsimp -proj only
    | split

theorem writeNvmctl_dark {s x : State} {a0} (h : Dark s x) : Dark s (writeNvmctl x a0) :=
  Dark.of_keeps (fun k hk => writeNvmctl_keeps (a0 := a0) hk (k.same_refl x)) (by decide) h

theorem modSnap_dark {s x : State} {a0 a1 a2} (h : Dark s x) :
    Dark s (modSnap x a0 a1 a2) := by
  unfold modSnap
  repeat' first
    | with_reducible assumption
    | with_reducible refine modLane_dark ?_ ?_
    | with_reducible refine ite_dark ?_ ?_
    | with_reducible refine foldl_dark ?_ (fun t a h => ?_)
    | with_reducible exact fun _ g => g
    | with_reducible exact fun _ _ => rfl
    | with_reducible exact fun n g => by (repeat' split) <;> first | exact g | rfl
    | dsimp -proj only
    | split

theorem writeLnsnap_dark {s x : State} {a0 a1 a2 a3} (h : Dark s x) :
    Dark s (writeLnsnap x a0 a1 a2 a3) := by
  unfold writeLnsnap
  repeat' first
    | with_reducible assumption
    | with_reducible refine modSnap_dark ?_
    | with_reducible refine ite_dark ?_ ?_
    | with_reducible refine foldl_dark ?_ (fun t a h => ?_)
    | with_reducible exact fun _ g => g
    | with_reducible exact fun _ _ => rfl
    | with_reducible exact fun n g => by (repeat' split) <;> first | exact g | rfl
    | dsimp -proj only
    | split

theorem writeEntry_dark {s x : State} {a0 a1 a2 a3 a4} (h : Dark s x) : Dark s (writeEntry x a0 a1 a2 a3 a4) :=
  Dark.of_keeps (fun k hk => writeEntry_keeps (a0 := a0) (a1 := a1) (a2 := a2) (a3 := a3) (a4 := a4) hk (k.same_refl x)) (by decide) h

theorem writeCqbase_dark {s x : State} {a0 a1} (h : Dark s x) : Dark s (writeCqbase x a0 a1) :=
  Dark.of_keeps (fun k hk => writeCqbase_keeps (a0 := a0) (a1 := a1) hk (k.same_refl x)) (by decide) h

theorem writeLntxdrv_dark {s x : State} {a0 a1 a2} (h : Dark s x) : Dark s (writeLntxdrv x a0 a1 a2) := by
  unfold writeLntxdrv
  extract_lets f
  refine modTx_dark (fun n g => ?_) h
  dsimp only
  split <;> split <;> exact g

theorem writeNvmstat_dark {s x : State} {a0} (h : Dark s x) : Dark s (writeNvmstat x a0) :=
  Dark.of_keeps (fun k hk => writeNvmstat_keeps (a0 := a0) hk (k.same_refl x)) (by decide) h

theorem writeLnsymcntHi_dark {s x : State} {a0 a1 a2} (h : Dark s x) :
    Dark s (writeLnsymcntHi x a0 a1 a2) := by
  unfold writeLnsymcntHi
  repeat' first
    | with_reducible assumption
    | with_reducible refine modMeas_dark ?_
    | with_reducible refine ite_dark ?_ ?_
    | with_reducible refine foldl_dark ?_ (fun t a h => ?_)
    | with_reducible exact fun _ g => g
    | with_reducible exact fun _ _ => rfl
    | with_reducible exact fun n g => by (repeat' split) <;> first | exact g | rfl
    | dsimp -proj only
    | split

theorem useFree_dark {s x : State} (h : Dark s x) : Dark s (useFree x).2 :=
  Dark.of_keeps (fun k hk => useFree_keeps hk (k.same_refl x)) (by decide) h

theorem useFree_dark_eq {s x : State} {r u} (h : Dark s x) (e : useFree x = (r, u)) :
    Dark s u := 
  Dark.of_keeps (fun k hk => useFree_keeps_eq hk (k.same_refl x) e) (by decide) h

theorem seedGen_dark {s x : State} {a0 a1} (h : Dark s x) :
    Dark s (seedGen x a0 a1) := by
  unfold seedGen
  repeat' first
    | with_reducible assumption
    | with_reducible refine useFree_dark ?_
    | with_reducible refine useFree_dark_eq ?_ (by with_reducible assumption)
    | with_reducible refine modMeas_dark ?_
    | with_reducible refine ite_dark ?_ ?_
    | with_reducible refine foldl_dark ?_ (fun t a h => ?_)
    | with_reducible exact fun _ g => g
    | with_reducible exact fun _ _ => rfl
    | with_reducible exact fun n g => by (repeat' split) <;> first | exact g | rfl
    | dsimp -proj only
    | split

theorem writeLnprbs_dark {s x : State} {a0 a1 a2} (h : Dark s x) :
    Dark s (writeLnprbs x a0 a1 a2) := by
  unfold writeLnprbs
  repeat' first
    | with_reducible assumption
    | with_reducible refine coolIdle_dark ?_
    | with_reducible refine seedGen_dark ?_
    | with_reducible refine holdStarts_dark ?_
    | with_reducible refine modMeas_dark ?_
    | with_reducible refine ite_dark ?_ ?_
    | with_reducible refine foldl_dark ?_ (fun t a h => ?_)
    | with_reducible exact fun _ g => g
    | with_reducible exact fun _ _ => rfl
    | with_reducible exact fun n g => by (repeat' split) <;> first | exact g | rfl
    | dsimp -proj only
    | split

theorem writeDtrate_dark {s x : State} {a0} (h : Dark s x) : Dark s (writeDtrate x a0) :=
  Dark.of_keeps (fun k hk => writeDtrate_keeps (a0 := a0) hk (k.same_refl x)) (by decide) h

theorem writeCtxstat_dark {s x : State} {a0} (h : Dark s x) : Dark s (writeCtxstat x a0) :=
  Dark.of_keeps (fun k hk => writeCtxstat_keeps (a0 := a0) hk (k.same_refl x)) (by decide) h

theorem doorbell_dark {s x : State} {a0 a1} (h : Dark s x) : Dark s (doorbell x a0 a1) :=
  Dark.of_keeps (fun k hk => doorbell_keeps (a0 := a0) (a1 := a1) hk (k.same_refl x)) (by decide) h

theorem writeWinerr_dark {s x : State} {a0 a1} (h : Dark s x) : Dark s (writeWinerr x a0 a1) :=
  Dark.of_keeps (fun k hk => writeWinerr_keeps (a0 := a0) (a1 := a1) hk (k.same_refl x)) (by decide) h

theorem writeWinctl_dark {s x : State} {a0 a1} (h : Dark s x) : Dark s (writeWinctl x a0 a1) :=
  Dark.of_keeps (fun k hk => writeWinctl_keeps (a0 := a0) (a1 := a1) hk (k.same_refl x)) (by decide) h

theorem writeTmseqctl_dark {s x : State} {a0 a1} (h : Dark s x) : Dark s (writeTmseqctl x a0 a1) :=
  Dark.of_keeps (fun k hk => writeTmseqctl_keeps (a0 := a0) (a1 := a1) hk (k.same_refl x)) (by decide) h

theorem writeCqctl_dark {s x : State} {a0 a1} (h : Dark s x) : Dark s (writeCqctl x a0 a1) :=
  Dark.of_keeps (fun k hk => writeCqctl_keeps (a0 := a0) (a1 := a1) hk (k.same_refl x)) (by decide) h

theorem modRxs_dark {s x : State} {a0 a1 a2} (h : Dark s x) :
    Dark s (modRxs x a0 a1 a2) := by
  unfold modRxs
  repeat' first
    | with_reducible assumption
    | with_reducible refine modRx_dark ?_
    | with_reducible refine ite_dark ?_ ?_
    | with_reducible refine foldl_dark ?_ (fun t a h => ?_)
    | with_reducible exact fun _ g => g
    | with_reducible exact fun _ _ => rfl
    | with_reducible exact fun n g => by (repeat' split) <;> first | exact g | rfl
    | dsimp -proj only
    | split

theorem recentreNow_dark {s x : State} {a0 a1 a2 a3} (h : Dark s x) :
    Dark s (recentreNow x a0 a1 a2 a3) := by
  unfold recentreNow
  repeat' first
    | with_reducible assumption
    | with_reducible refine modRxs_dark ?_
    | with_reducible refine logL_dark ?_
    | with_reducible refine ite_dark ?_ ?_
    | with_reducible refine foldl_dark ?_ (fun t a h => ?_)
    | with_reducible exact fun _ g => g
    | with_reducible exact fun _ _ => rfl
    | with_reducible exact fun n g => by (repeat' split) <;> first | exact g | rfl
    | dsimp -proj only
    | split

theorem ebLimits_dark {s x : State} {a0 a1} (h : Dark s x) :
    Dark s (ebLimits x a0 a1) := by
  unfold ebLimits
  repeat' first
    | with_reducible assumption
    | with_reducible refine recentreNow_dark ?_
    | with_reducible refine modRx_dark ?_
    | with_reducible refine ite_dark ?_ ?_
    | with_reducible refine foldl_dark ?_ (fun t a h => ?_)
    | with_reducible exact fun _ g => g
    | with_reducible exact fun _ _ => rfl
    | with_reducible exact fun n g => by (repeat' split) <;> first | exact g | rfl
    | dsimp -proj only
    | split

theorem recentre_dark {s x : State} {a0 a1} (h : Dark s x) :
    Dark s (recentre x a0 a1) := by
  unfold recentre
  repeat' first
    | with_reducible assumption
    | with_reducible refine ebLimits_dark ?_
    | with_reducible refine modRx_dark ?_
    | with_reducible refine ite_dark ?_ ?_
    | with_reducible refine foldl_dark ?_ (fun t a h => ?_)
    | with_reducible exact fun _ g => g
    | with_reducible exact fun _ _ => rfl
    | with_reducible exact fun n g => by (repeat' split) <;> first | exact g | rfl
    | dsimp -proj only
    | split

theorem bitslip_dark {s x : State} {a0 a1} (h : Dark s x) :
    Dark s (bitslip x a0 a1) := by
  unfold bitslip
  repeat' first
    | with_reducible assumption
    | with_reducible refine modRx_dark ?_
    | with_reducible refine ite_dark ?_ ?_
    | with_reducible refine foldl_dark ?_ (fun t a h => ?_)
    | with_reducible exact fun _ g => g
    | with_reducible exact fun _ _ => rfl
    | with_reducible exact fun n g => by (repeat' split) <;> first | exact g | rfl
    | dsimp -proj only
    | split

theorem writeLnctl_dark {s x : State} {a0 a1 a2} (h : Dark s x) :
    Dark s (writeLnctl x a0 a1 a2) := by
  unfold writeLnctl
  repeat' first
    | with_reducible assumption
    | with_reducible refine recentre_dark ?_
    | with_reducible refine modRx_dark ?_
    | with_reducible refine bitslip_dark ?_
    | with_reducible refine ite_dark ?_ ?_
    | with_reducible refine foldl_dark ?_ (fun t a h => ?_)
    | with_reducible exact fun _ g => g
    | with_reducible exact fun _ _ => rfl
    | with_reducible exact fun n g => by (repeat' split) <;> first | exact g | rfl
    | dsimp -proj only
    | split

theorem writeCalstat_dark {s x : State} {a0} (h : Dark s x) : Dark s (writeCalstat x a0) :=
  Dark.of_keeps (fun k hk => writeCalstat_keeps (a0 := a0) hk (k.same_refl x)) (by decide) h

theorem writeStorestat_dark {s x : State} {a0} (h : Dark s x) : Dark s (writeStorestat x a0) :=
  Dark.of_keeps (fun k hk => writeStorestat_keeps (a0 := a0) hk (k.same_refl x)) (by decide) h

theorem writeTwbctl_dark {s x : State} {a0} (h : Dark s x) : Dark s (writeTwbctl x a0) :=
  Dark.of_keeps (fun k hk => writeTwbctl_keeps (a0 := a0) hk (k.same_refl x)) (by decide) h

theorem writeLncal_dark {s x : State} {a0 a1 a2} (h : Dark s x) :
    Dark s (writeLncal x a0 a1 a2) := by
  unfold writeLncal
  repeat' first
    | with_reducible assumption
    | with_reducible refine modCal_dark ?_
    | with_reducible refine ite_dark ?_ ?_
    | with_reducible refine foldl_dark ?_ (fun t a h => ?_)
    | with_reducible exact fun _ g => g
    | with_reducible exact fun _ _ => rfl
    | with_reducible exact fun n g => by (repeat' split) <;> first | exact g | rfl
    | dsimp -proj only
    | split

theorem writeLnscan_dark {s x : State} {a0 a1 a2} (h : Dark s x) :
    Dark s (writeLnscan x a0 a1 a2) := by
  unfold writeLnscan
  repeat' first
    | with_reducible assumption
    | with_reducible refine modMeas_dark ?_
    | with_reducible refine ite_dark ?_ ?_
    | with_reducible refine foldl_dark ?_ (fun t a h => ?_)
    | with_reducible exact fun _ g => g
    | with_reducible exact fun _ _ => rfl
    | with_reducible exact fun n g => by (repeat' split) <;> first | exact g | rfl
    | dsimp -proj only
    | split

theorem writeWqstat_dark {s x : State} {a0 a1} (h : Dark s x) : Dark s (writeWqstat x a0 a1) :=
  Dark.of_keeps (fun k hk => writeWqstat_keeps (a0 := a0) (a1 := a1) hk (k.same_refl x)) (by decide) h

theorem writeCqstat_dark {s x : State} {a0 a1} (h : Dark s x) : Dark s (writeCqstat x a0 a1) :=
  Dark.of_keeps (fun k hk => writeCqstat_keeps (a0 := a0) (a1 := a1) hk (k.same_refl x)) (by decide) h

theorem writeImcctl_dark {s x : State} {a0} (h : Dark s x) : Dark s (writeImcctl x a0) :=
  Dark.of_keeps (fun k hk => writeImcctl_keeps (a0 := a0) hk (k.same_refl x)) (by decide) h

theorem writeSyncctl_dark {s x : State} {a0} (h : Dark s x) : Dark s (writeSyncctl x a0) :=
  Dark.of_keeps (fun k hk => writeSyncctl_keeps (a0 := a0) hk (k.same_refl x)) (by decide) h

theorem writeReg_dark {s x : State} {a0 a1 a2} (h : Dark s x) :
    Dark s (writeReg x a0 a1 a2) := by
  unfold writeReg
  try dsimp -zeta -proj only [upd_nvm]
  repeat' first
    | with_reducible assumption
    | with_reducible refine writeDtload_dark ?_
    | with_reducible refine writeLneq_dark ?_
    | with_reducible refine writeEvtmask_dark ?_
    | with_reducible refine writeDevctl_dark ?_
    | with_reducible refine awlCommand_dark ?_
    | with_reducible refine writeCqhead_dark ?_
    | with_reducible refine writeLnstat_dark ?_
    | with_reducible refine writeLnloop_dark ?_
    | with_reducible refine writeLnkloss_dark ?_
    | with_reducible refine writeTmstat_dark ?_
    | with_reducible refine writeWqhdr_dark ?_
    | with_reducible refine writeAttnsrc_dark ?_
    | with_reducible refine writeLnkspcmd_dark ?_
    | with_reducible refine writeLastcmd_dark ?_
    | with_reducible refine writeCalcmd_dark ?_
    | with_reducible refine clearFaults_dark ?_
    | with_reducible refine writeWqctl_dark ?_
    | with_reducible refine writeTwbstat_dark ?_
    | with_reducible refine writeTmthresh_dark ?_
    | with_reducible refine writeLnkctl_dark ?_
    | with_reducible refine writeNvmctl_dark ?_
    | with_reducible refine writeLnsnap_dark ?_
    | with_reducible refine writeEntry_dark ?_
    | with_reducible refine writeCqbase_dark ?_
    | with_reducible refine writeLntxdrv_dark ?_
    | with_reducible refine writeNvmstat_dark ?_
    | with_reducible refine writeLnsymcntHi_dark ?_
    | with_reducible refine writeLnprbs_dark ?_
    | with_reducible refine writeDtrate_dark ?_
    | with_reducible refine writeCtxstat_dark ?_
    | with_reducible refine doorbell_dark ?_
    | with_reducible refine writeWinerr_dark ?_
    | with_reducible refine writeWinctl_dark ?_
    | with_reducible refine writeTmseqctl_dark ?_
    | with_reducible refine writeCqctl_dark ?_
    | with_reducible refine writeLnctl_dark ?_
    | with_reducible refine writeCalstat_dark ?_
    | with_reducible refine writeStorestat_dark ?_
    | with_reducible refine writeTwbctl_dark ?_
    | with_reducible refine writeLncal_dark ?_
    | with_reducible refine writeLnscan_dark ?_
    | with_reducible refine modMeas_dark ?_
    | with_reducible refine writeWqstat_dark ?_
    | with_reducible refine writeCqstat_dark ?_
    | with_reducible refine writeImcctl_dark ?_
    | with_reducible refine writeSyncctl_dark ?_
    | with_reducible refine putNvm_dark ?_
    | with_reducible refine ite_dark ?_ ?_
    | with_reducible refine foldl_dark ?_ (fun t a h => ?_)
    | with_reducible exact fun _ g => g
    | with_reducible exact fun _ _ => rfl
    | with_reducible exact fun n g => by (repeat' split) <;> first | exact g | rfl
    | dsimp -proj only
    | split

theorem storeWrite_dark {s x : State} {a0 a1} (h : Dark s x) : Dark s (storeWrite x a0 a1) :=
  Dark.of_keeps (fun k hk => storeWrite_keeps (a0 := a0) (a1 := a1) hk (k.same_refl x)) (by decide) h

theorem storeWriteVa_dark {s x : State} {a0 a1 a2} (h : Dark s x) : Dark s (storeWriteVa x a0 a1 a2) :=
  Dark.of_keeps (fun k hk => storeWriteVa_keeps (a0 := a0) (a1 := a1) (a2 := a2) hk (k.same_refl x)) (by decide) h

theorem writeOpen_dark {s x : State} {a0 a1 a2} (h : Dark s x) :
    Dark s (writeOpen x a0 a1 a2) := by
  unfold writeOpen
  repeat' first
    | with_reducible assumption
    | with_reducible refine writeReg_dark ?_
    | with_reducible refine logIslandOff_dark ?_
    | with_reducible refine storeWrite_dark ?_
    | with_reducible refine storeWriteVa_dark ?_
    | with_reducible refine ite_dark ?_ ?_
    | with_reducible refine foldl_dark ?_ (fun t a h => ?_)
    | with_reducible exact fun _ g => g
    | with_reducible exact fun _ _ => rfl
    | with_reducible exact fun n g => by (repeat' split) <;> first | exact g | rfl
    | dsimp -proj only
    | split

theorem accessWrite_dark {s x : State} {a0 a1 a2} (h : Dark s x) :
    Dark s (accessWrite x a0 a1 a2) := by
  unfold accessWrite
  repeat' first
    | with_reducible assumption
    | with_reducible refine writeOpen_dark ?_
    | with_reducible refine logDenied_dark ?_
    | with_reducible refine ite_dark ?_ ?_
    | with_reducible refine foldl_dark ?_ (fun t a h => ?_)
    | with_reducible exact fun _ g => g
    | with_reducible exact fun _ _ => rfl
    | with_reducible exact fun n g => by (repeat' split) <;> first | exact g | rfl
    | dsimp -proj only
    | split

theorem busWrite_dark {s x : State} {a0 a1 a2} (h : Dark s x) :
    Dark s (busWrite x a0 a1 a2) := by
  unfold busWrite
  repeat' first
    | with_reducible assumption
    | with_reducible refine accessWrite_dark ?_
    | with_reducible refine ite_dark ?_ ?_
    | with_reducible refine foldl_dark ?_ (fun t a h => ?_)
    | with_reducible exact fun _ g => g
    | with_reducible exact fun _ _ => rfl
    | with_reducible exact fun n g => by (repeat' split) <;> first | exact g | rfl
    | dsimp -proj only
    | split

theorem writeTo_dark {s x : State} {a0 a1 a2} (h : Dark s x) :
    Dark s (writeTo x a0 a1 a2) := by
  unfold writeTo
  repeat' first
    | with_reducible assumption
    | with_reducible refine busWrite_dark ?_
    | with_reducible refine ite_dark ?_ ?_
    | with_reducible refine foldl_dark ?_ (fun t a h => ?_)
    | with_reducible exact fun _ g => g
    | with_reducible exact fun _ _ => rfl
    | with_reducible exact fun n g => by (repeat' split) <;> first | exact g | rfl
    | dsimp -proj only
    | split

theorem execLnkctlClrRetrains_dark {s x : State} {a0 a1 a2} (h : Dark s x) :
    ∃ t, execLnkctlClrRetrains a0 a1 a2 x = .next t ∧ Dark s t := by
  unfold execLnkctlClrRetrains
  repeat' first
    | with_reducible assumption
    | with_reducible refine done_dark ?_
    | with_reducible refine writeTo_dark ?_
    | with_reducible refine ite_dark ?_ ?_
    | with_reducible refine foldl_dark ?_ (fun t a h => ?_)
    | with_reducible exact fun _ g => g
    | with_reducible exact fun _ _ => rfl
    | with_reducible exact fun n g => by (repeat' split) <;> first | exact g | rfl
    | dsimp -proj only
    | split

theorem execLinkSwitchInstant_dark {s x : State} {a0} (h : Dark s x) :
    ∃ t, execLinkSwitchInstant a0 x = .next t ∧ Dark s t := by
  unfold execLinkSwitchInstant
  repeat' first
    | with_reducible assumption
    | with_reducible refine done_dark ?_
    | with_reducible refine setResult_dark ?_
    | with_reducible refine switchLink_dark ?_
    | with_reducible refine ite_dark ?_ ?_
    | with_reducible refine foldl_dark ?_ (fun t a h => ?_)
    | with_reducible exact fun _ g => g
    | with_reducible exact fun _ _ => rfl
    | with_reducible exact fun n g => by (repeat' split) <;> first | exact g | rfl
    | dsimp -proj only
    | split

theorem noteCopy_dark {s x : State} {a0 a1} (h : Dark s x) :
    Dark s (noteCopy x a0 a1) := by
  unfold noteCopy
  repeat' first
    | with_reducible assumption
    | with_reducible refine modRx_dark ?_
    | with_reducible refine ite_dark ?_ ?_
    | with_reducible refine foldl_dark ?_ (fun t a h => ?_)
    | with_reducible exact fun _ g => g
    | with_reducible exact fun _ _ => rfl
    | with_reducible exact fun n g => by (repeat' split) <;> first | exact g | rfl
    | dsimp -proj only
    | split

theorem restOthers_dark {s x : State} {a0 a1} (h : Dark s x) :
    Dark s (restOthers x a0 a1) := by
  unfold restOthers
  repeat' first
    | with_reducible assumption
    | with_reducible refine restSpare_dark ?_
    | with_reducible refine ite_dark ?_ ?_
    | with_reducible refine foldl_dark ?_ (fun t a h => ?_)
    | with_reducible exact fun _ g => g
    | with_reducible exact fun _ _ => rfl
    | with_reducible exact fun n g => by (repeat' split) <;> first | exact g | rfl
    | dsimp -proj only
    | split

theorem swapDone_dark {s x : State} {a0 a1} (h : Dark s x) :
    Dark s (swapDone x a0 a1) := by
  unfold swapDone
  repeat' first
    | with_reducible assumption
    | with_reducible refine restSpare_dark ?_
    | with_reducible refine modLink_dark ?_
    | with_reducible refine serveWaiting_dark ?_
    | with_reducible refine setSwapResult_dark ?_
    | with_reducible refine logSwap_dark ?_
    | with_reducible refine restOthers_dark ?_
    | with_reducible refine setSpare_dark ?_
    | with_reducible refine ite_dark ?_ ?_
    | with_reducible refine foldl_dark ?_ (fun t a h => ?_)
    | with_reducible exact fun _ g => g
    | with_reducible exact fun _ _ => rfl
    | with_reducible exact fun n g => by (repeat' split) <;> first | exact g | rfl
    | dsimp -proj only
    | split

theorem swapAck_dark {s x : State} {a0 a1} (h : Dark s x) :
    Dark s (swapAck x a0 a1) := by
  unfold swapAck
  repeat' first
    | with_reducible assumption
    | with_reducible refine swapDone_dark ?_
    | with_reducible refine vacate_dark ?_
    | with_reducible refine modLink_dark ?_
    | with_reducible refine sendSpare_dark ?_
    | with_reducible refine ite_dark ?_ ?_
    | with_reducible refine foldl_dark ?_ (fun t a h => ?_)
    | with_reducible exact fun _ g => g
    | with_reducible exact fun _ _ => rfl
    | with_reducible exact fun n g => by (repeat' split) <;> first | exact g | rfl
    | dsimp -proj only
    | split

theorem capFeed_dark {s x : State} {a0 a1 a2 a3} (h : Dark s x) : Dark s (capFeed x a0 a1 a2 a3) :=
  Dark.of_keeps (fun k hk => capFeed_keeps (a0 := a0) (a1 := a1) (a2 := a2) (a3 := a3) hk (k.same_refl x)) (by decide) h

theorem putSymbol_dark {s x : State} {a0 a1 a2 a3 a4} (h : Dark s x) :
    Dark s (putSymbol x a0 a1 a2 a3 a4) := by
  unfold putSymbol
  repeat' first
    | with_reducible assumption
    | with_reducible refine modTx_dark ?_ ?_
    | with_reducible refine capFeed_dark ?_
    | with_reducible refine ite_dark ?_ ?_
    | with_reducible refine foldl_dark ?_ (fun t a h => ?_)
    | with_reducible exact fun _ g => g
    | with_reducible exact fun _ _ => rfl
    | with_reducible exact fun n g => by (repeat' split) <;> first | exact g | rfl
    | dsimp -proj only
    | split

theorem execCqEnable_dark {s x : State} {a0 a1 a2} (h : Dark s x) :
    ∃ t, execCqEnable a0 a1 a2 x = .next t ∧ Dark s t := by
  unfold execCqEnable
  repeat' first
    | with_reducible assumption
    | with_reducible refine done_dark ?_
    | with_reducible refine writeTo_dark ?_
    | with_reducible refine ite_dark ?_ ?_
    | with_reducible refine foldl_dark ?_ (fun t a h => ?_)
    | with_reducible exact fun _ g => g
    | with_reducible exact fun _ _ => rfl
    | with_reducible exact fun n g => by (repeat' split) <;> first | exact g | rfl
    | dsimp -proj only
    | split

theorem eepromTransfer_dark {s x : State} {a0} (h : Dark s x) : Dark s (eepromTransfer x a0) :=
  Dark.of_keeps (fun k hk => eepromTransfer_keeps (a0 := a0) hk (k.same_refl x)) (by decide) h

theorem execEepromTransfer_dark {s x : State} {a0} (h : Dark s x) :
    ∃ t, execEepromTransfer a0 x = .next t ∧ Dark s t := by
  unfold execEepromTransfer
  repeat' first
    | with_reducible assumption
    | with_reducible refine done_dark ?_
    | with_reducible refine eepromTransfer_dark ?_
    | with_reducible refine ite_dark ?_ ?_
    | with_reducible refine foldl_dark ?_ (fun t a h => ?_)
    | with_reducible exact fun _ g => g
    | with_reducible exact fun _ _ => rfl
    | with_reducible exact fun n g => by (repeat' split) <;> first | exact g | rfl
    | dsimp -proj only
    | split

theorem finishWith_dark {s x : State} {a0 a1 a2 a3} (h : Dark s x) : Dark s (finishWith x a0 a1 a2 a3) :=
  Dark.of_keeps (fun k hk => finishWith_keeps (a0 := a0) (a1 := a1) (a2 := a2) (a3 := a3) hk (k.same_refl x)) (by decide) h

theorem keepJob_dark {s x : State} {a0 a1} (h : Dark s x) : Dark s (keepJob x a0 a1) :=
  Dark.of_keeps (fun k hk => keepJob_keeps (a0 := a0) (a1 := a1) hk (k.same_refl x)) (by decide) h

theorem prbsSetUp_dark {s x : State} {a0 a1 a2} (h : Dark s x) :
    Dark s (prbsSetUp x a0 a1 a2) := by
  unfold prbsSetUp
  repeat' first
    | with_reducible assumption
    | with_reducible refine finishWith_dark ?_
    | with_reducible refine keepJob_dark ?_
    | with_reducible refine silenceLoop_dark ?_
    | with_reducible refine seedGen_dark ?_
    | with_reducible refine holdStarts_dark ?_
    | with_reducible refine modMeas_dark ?_
    | with_reducible refine ite_dark ?_ ?_
    | with_reducible refine foldl_dark ?_ (fun t a h => ?_)
    | with_reducible exact fun _ g => g
    | with_reducible exact fun _ _ => rfl
    | with_reducible exact fun n g => by (repeat' split) <;> first | exact g | rfl
    | dsimp -proj only
    | split

theorem execPrbsJob_dark {s x : State} {a0 a1} (h : Dark s x) :
    ∃ t, execPrbsJob a0 a1 x = .next t ∧ Dark s t := by
  unfold execPrbsJob
  repeat' first
    | with_reducible assumption
    | with_reducible refine done_dark ?_
    | with_reducible refine prbsSetUp_dark ?_
    | with_reducible refine ite_dark ?_ ?_
    | with_reducible refine foldl_dark ?_ (fun t a h => ?_)
    | with_reducible exact fun _ g => g
    | with_reducible exact fun _ _ => rfl
    | with_reducible exact fun n g => by (repeat' split) <;> first | exact g | rfl
    | dsimp -proj only
    | split

theorem sectorDone_dark {s x : State} {a0} (h : Dark s x) : Dark s (sectorDone x a0) :=
  Dark.of_keeps (fun k hk => sectorDone_keeps (a0 := a0) hk (k.same_refl x)) (by decide) h

theorem jtagPins_dark {s x : State} (h : Dark s x) :
    Dark s (jtagPins x) := by
  unfold jtagPins
  try dsimp -zeta -proj only [upd_lanes, upd_twb]
  repeat' first
    | with_reducible assumption
    | refine mapLanes_dark ?_ ?_
    | with_reducible refine putTwb_dark ?_
    | with_reducible refine ite_dark ?_ ?_
    | with_reducible refine foldl_dark ?_ (fun t a h => ?_)
    | with_reducible exact fun _ g => g
    | with_reducible exact fun _ _ => rfl
    | with_reducible exact fun n g => by (repeat' split) <;> first | exact g | rfl
    | dsimp -proj only
    | split

theorem modJtag_dark {s x : State} {a0} (h : Dark s x) : Dark s (modJtag x a0) :=
  Dark.of_keeps (fun k hk => modJtag_keeps (a0 := a0) hk (k.same_refl x)) (by decide) h

theorem jtagLoad_dark {s x : State} {a0} (h : Dark s x) :
    Dark s (jtagLoad x a0) := by
  unfold jtagLoad
  repeat' first
    | with_reducible assumption
    | with_reducible refine jtagPins_dark ?_
    | with_reducible refine modJtag_dark ?_
    | with_reducible refine ite_dark ?_ ?_
    | with_reducible refine foldl_dark ?_ (fun t a h => ?_)
    | with_reducible exact fun _ g => g
    | with_reducible exact fun _ _ => rfl
    | with_reducible exact fun n g => by (repeat' split) <;> first | exact g | rfl
    | dsimp -proj only
    | split

theorem captureCells_dark {s x : State} (h : Dark s x) : Dark s (captureCells x) :=
  Dark.of_keeps (fun k hk => captureCells_keeps hk (k.same_refl x)) (by decide) h

theorem scanCells_dark {s x : State} {a0} (h : Dark s x) :
    Dark s (scanCells x a0) := by
  unfold scanCells
  repeat' first
    | with_reducible assumption
    | with_reducible refine jtagLoad_dark ?_
    | with_reducible refine captureCells_dark ?_
    | with_reducible refine useFree_dark ?_
    | with_reducible refine useFree_dark_eq ?_ (by with_reducible assumption)
    | with_reducible refine modJtag_dark ?_
    | with_reducible refine ite_dark ?_ ?_
    | with_reducible refine foldl_dark ?_ (fun t a h => ?_)
    | with_reducible exact fun _ g => g
    | with_reducible exact fun _ _ => rfl
    | with_reducible exact fun n g => by (repeat' split) <;> first | exact g | rfl
    | dsimp -proj only
    | split

theorem execJtagExtestTrain_dark {s x : State} (h : Dark s x) :
    ∃ t, execJtagExtestTrain x = .next t ∧ Dark s t := by
  unfold execJtagExtestTrain
  repeat' first
    | with_reducible assumption
    | with_reducible refine done_dark ?_
    | with_reducible refine scanCells_dark ?_
    | with_reducible refine ite_dark ?_ ?_
    | with_reducible refine foldl_dark ?_ (fun t a h => ?_)
    | with_reducible exact fun _ g => g
    | with_reducible exact fun _ _ => rfl
    | with_reducible exact fun n g => by (repeat' split) <;> first | exact g | rfl
    | dsimp -proj only
    | split

theorem linkSymbol_dark {s x : State} {a0 a1} (h : Dark s x) : Dark s (linkSymbol x a0 a1) :=
  Dark.of_keeps (fun k hk => linkSymbol_keeps (a0 := a0) (a1 := a1) hk (k.same_refl x)) (by decide) h

theorem sendNext_dark {s x : State} {a0 a1} (h : Dark s x) : Dark s (sendNext x a0 a1).2 :=
  Dark.of_keeps (fun k hk => sendNext_keeps (a0 := a0) (a1 := a1) hk (k.same_refl x)) (by decide) h

theorem sendNext_dark_eq {s x : State} {a0 a1} {r u} (h : Dark s x) (e : sendNext x a0 a1 = (r, u)) :
    Dark s u := 
  Dark.of_keeps (fun k hk => sendNext_keeps_eq (a0 := a0) (a1 := a1) hk (k.same_refl x) e) (by decide) h

theorem clearMark_dark {s x : State} {a0 a1} (h : Dark s x) : Dark s (clearMark x a0 a1) :=
  Dark.of_keeps (fun k hk => clearMark_keeps (a0 := a0) (a1 := a1) hk (k.same_refl x)) (by decide) h

theorem setSent_dark {s x : State} {a0 a1 a2} (h : Dark s x) : Dark s (setSent x a0 a1 a2) :=
  Dark.of_keeps (fun k hk => setSent_keeps (a0 := a0) (a1 := a1) (a2 := a2) hk (k.same_refl x)) (by decide) h

theorem planSet_dark {s x : State} {a0 a1 a2} (h : Dark s x) :
    Dark s (planSet x a0 a1 a2) := by
  unfold planSet
  repeat' first
    | with_reducible assumption
    | with_reducible refine modRx_dark ?_
    | with_reducible refine ite_dark ?_ ?_
    | with_reducible refine foldl_dark ?_ (fun t a h => ?_)
    | with_reducible exact fun _ g => g
    | with_reducible exact fun _ _ => rfl
    | with_reducible exact fun n g => by (repeat' split) <;> first | exact g | rfl
    | dsimp -proj only
    | split

theorem planOwn_dark {s x : State} {a0 a1 a2} (h : Dark s x) :
    Dark s (planOwn x a0 a1 a2) := by
  unfold planOwn
  repeat' first
    | with_reducible assumption
    | with_reducible refine planSet_dark ?_
    | with_reducible refine ite_dark ?_ ?_
    | with_reducible refine foldl_dark ?_ (fun t a h => ?_)
    | with_reducible exact fun _ g => g
    | with_reducible exact fun _ _ => rfl
    | with_reducible exact fun n g => by (repeat' split) <;> first | exact g | rfl
    | dsimp -proj only
    | split

theorem fillPad_dark {s x : State} {a0 a1 a2} (h : Dark s x) :
    Dark s (fillPad x a0 a1 a2) := by
  unfold fillPad
  repeat' first
    | with_reducible assumption
    | with_reducible refine sendNext_dark ?_
    | with_reducible refine sendNext_dark_eq ?_ (by with_reducible assumption)
    | with_reducible refine clearMark_dark ?_
    | with_reducible refine setSent_dark ?_
    | with_reducible refine planOwn_dark ?_
    | with_reducible refine ite_dark ?_ ?_
    | with_reducible refine foldl_dark ?_ (fun t a h => ?_)
    | with_reducible exact fun _ g => g
    | with_reducible exact fun _ _ => rfl
    | with_reducible exact fun n g => by (repeat' split) <;> first | exact g | rfl
    | dsimp -proj only
    | split

theorem execPadSetPasses_dark {s x : State} {a0 a1} (h : Dark s x) :
    ∃ t, execPadSetPasses a0 a1 x = .next t ∧ Dark s t := by
  unfold execPadSetPasses
  repeat' first
    | with_reducible assumption
    | with_reducible refine done_dark ?_
    | with_reducible refine linkSymbol_dark ?_
    | with_reducible refine fillPad_dark ?_
    | with_reducible refine ite_dark ?_ ?_
    | with_reducible refine foldl_dark ?_ (fun t a h => ?_)
    | with_reducible exact fun _ g => g
    | with_reducible exact fun _ _ => rfl
    | with_reducible exact fun n g => by (repeat' split) <;> first | exact g | rfl
    | dsimp -proj only
    | split

theorem txDark_dark {s x : State} {a0 a1} (h : Dark s x) : Dark s (txDark x a0 a1) :=
  Dark.of_keeps (fun k hk => txDark_keeps (a0 := a0) (a1 := a1) hk (k.same_refl x)) (by decide) h

theorem execLpReqIdle_dark {s x : State} {a0 a1} (h : Dark s x) :
    ∃ t, execLpReqIdle a0 a1 x = .next t ∧ Dark s t := by
  unfold execLpReqIdle
  repeat' first
    | with_reducible assumption
    | with_reducible refine done_dark ?_
    | with_reducible refine modLink_dark ?_
    | with_reducible refine sendOwn_dark ?_
    | with_reducible refine ite_dark ?_ ?_
    | with_reducible refine foldl_dark ?_ (fun t a h => ?_)
    | with_reducible exact fun _ g => g
    | with_reducible exact fun _ _ => rfl
    | with_reducible exact fun n g => by (repeat' split) <;> first | exact g | rfl
    | dsimp -proj only
    | split

theorem ownDone_dark {s x : State} (h : Dark s x) : Dark s (ownDone x) :=
  Dark.of_keeps (fun k hk => ownDone_keeps hk (k.same_refl x)) (by decide) h

theorem execNvmErase_dark {s x : State} (h : Dark s x) :
    ∃ t, execNvmErase x = .next t ∧ Dark s t := by
  unfold execNvmErase
  repeat' first
    | with_reducible assumption
    | with_reducible refine done_dark ?_
    | with_reducible refine ownDone_dark ?_
    | with_reducible refine eraseSetUp_dark ?_
    | with_reducible refine ite_dark ?_ ?_
    | with_reducible refine foldl_dark ?_ (fun t a h => ?_)
    | with_reducible exact fun _ g => g
    | with_reducible exact fun _ _ => rfl
    | with_reducible exact fun n g => by (repeat' split) <;> first | exact g | rfl
    | dsimp -proj only
    | split

theorem nvmReadStep_dark {s x : State} {a0} (h : Dark s x) : Dark s (nvmReadStep x a0) :=
  Dark.of_keeps (fun k hk => nvmReadStep_keeps (a0 := a0) hk (k.same_refl x)) (by decide) h

theorem upset_dark {s x : State} {a0} (h : Dark s x) : Dark s (upset x a0) :=
  Dark.of_keeps (fun k hk => upset_keeps (a0 := a0) hk (k.same_refl x)) (by decide) h

theorem execNvmRead_dark {s x : State} {a0} (h : Dark s x) :
    ∃ t, execNvmRead a0 x = .next t ∧ Dark s t := by
  unfold execNvmRead
  repeat' first
    | with_reducible assumption
    | with_reducible refine nvmReadStep_dark ?_
    | with_reducible refine done_dark ?_
    | with_reducible refine ownDone_dark ?_
    | with_reducible refine upset_dark ?_
    | with_reducible refine ite_dark ?_ ?_
    | with_reducible refine foldl_dark ?_ (fun t a h => ?_)
    | with_reducible exact fun _ g => g
    | with_reducible exact fun _ _ => rfl
    | with_reducible exact fun n g => by (repeat' split) <;> first | exact g | rfl
    | dsimp -proj only
    | split

theorem execNvmctlCeClr_dark {s x : State} {a0 a1} (h : Dark s x) :
    ∃ t, execNvmctlCeClr a0 a1 x = .next t ∧ Dark s t := by
  unfold execNvmctlCeClr
  repeat' first
    | with_reducible assumption
    | with_reducible refine done_dark ?_
    | with_reducible refine writeTo_dark ?_
    | with_reducible refine ite_dark ?_ ?_
    | with_reducible refine foldl_dark ?_ (fun t a h => ?_)
    | with_reducible exact fun _ g => g
    | with_reducible exact fun _ _ => rfl
    | with_reducible exact fun n g => by (repeat' split) <;> first | exact g | rfl
    | dsimp -proj only
    | split

theorem execTrainTimeout_dark {s x : State} {a0} (h : Dark s x) :
    ∃ t, execTrainTimeout a0 x = .next t ∧ Dark s t := by
  unfold execTrainTimeout
  repeat' first
    | with_reducible assumption
    | with_reducible refine done_dark ?_
    | with_reducible refine enterDetect_dark ?_
    | with_reducible refine ite_dark ?_ ?_
    | with_reducible refine foldl_dark ?_ (fun t a h => ?_)
    | with_reducible exact fun _ g => g
    | with_reducible exact fun _ _ => rfl
    | with_reducible exact fun n g => by (repeat' split) <;> first | exact g | rfl
    | dsimp -proj only
    | split

theorem execStoreRead_dark {s x : State} {a0 a1 a2} (h : Dark s x) :
    ∃ t, execStoreRead a0 a1 a2 x = .next t ∧ Dark s t := by
  unfold execStoreRead
  repeat' first
    | with_reducible assumption
    | with_reducible refine done_dark ?_
    | with_reducible refine busRead_dark ?_
    | with_reducible refine upset_dark ?_
    | with_reducible refine ite_dark ?_ ?_
    | with_reducible refine foldl_dark ?_ (fun t a h => ?_)
    | with_reducible exact fun _ g => g
    | with_reducible exact fun _ _ => rfl
    | with_reducible exact fun n g => by (repeat' split) <;> first | exact g | rfl
    | dsimp -proj only
    | split

theorem beginFence_dark {s x : State} {a0} (h : Dark s x) : Dark s (beginFence x a0) :=
  Dark.of_keeps (fun k hk => beginFence_keeps (a0 := a0) hk (k.same_refl x)) (by decide) h

theorem execLoopOff_dark {s x : State} {a0 a1 a2 a3} (h : Dark s x) :
    ∃ t, execLoopOff a0 a1 a2 a3 x = .next t ∧ Dark s t := by
  unfold execLoopOff
  repeat' first
    | with_reducible assumption
    | with_reducible refine done_dark ?_
    | with_reducible refine writeTo_dark ?_
    | with_reducible refine ite_dark ?_ ?_
    | with_reducible refine foldl_dark ?_ (fun t a h => ?_)
    | with_reducible exact fun _ g => g
    | with_reducible exact fun _ _ => rfl
    | with_reducible exact fun n g => by (repeat' split) <;> first | exact g | rfl
    | dsimp -proj only
    | split

theorem putIdle_dark {s x : State} {a0 a1} (h : Dark s x) :
    Dark s (putIdle x a0 a1) := by
  unfold putIdle
  repeat' first
    | with_reducible assumption
    | with_reducible refine modTx_dark ?_ ?_
    | with_reducible refine capFeed_dark ?_
    | with_reducible refine ite_dark ?_ ?_
    | with_reducible refine foldl_dark ?_ (fun t a h => ?_)
    | with_reducible exact fun _ g => g
    | with_reducible exact fun _ _ => rfl
    | with_reducible exact fun n g => by (repeat' split) <;> first | exact g | rfl
    | dsimp -proj only
    | split

theorem putGen_dark {s x : State} {a0 a1} (h : Dark s x) :
    Dark s (putGen x a0 a1) := by
  unfold putGen
  repeat' first
    | with_reducible assumption
    | with_reducible refine putSymbol_dark ?_
    | with_reducible refine modMeas_dark ?_
    | with_reducible refine ite_dark ?_ ?_
    | with_reducible refine foldl_dark ?_ (fun t a h => ?_)
    | with_reducible exact fun _ g => g
    | with_reducible exact fun _ _ => rfl
    | with_reducible exact fun n g => by (repeat' split) <;> first | exact g | rfl
    | dsimp -proj only
    | split

theorem putTest_dark {s x : State} {a0 a1} (h : Dark s x) :
    Dark s (putTest x a0 a1) := by
  unfold putTest
  repeat' first
    | with_reducible assumption
    | with_reducible refine putIdle_dark ?_
    | with_reducible refine putGen_dark ?_
    | with_reducible refine ite_dark ?_ ?_
    | with_reducible refine foldl_dark ?_ (fun t a h => ?_)
    | with_reducible exact fun _ g => g
    | with_reducible exact fun _ _ => rfl
    | with_reducible exact fun n g => by (repeat' split) <;> first | exact g | rfl
    | dsimp -proj only
    | split

theorem putOwn_dark {s x : State} {a0 a1 a2 a3} (h : Dark s x) :
    Dark s (putOwn x a0 a1 a2 a3) := by
  unfold putOwn
  repeat' first
    | with_reducible assumption
    | with_reducible refine putSymbol_dark ?_
    | with_reducible refine ite_dark ?_ ?_
    | with_reducible refine foldl_dark ?_ (fun t a h => ?_)
    | with_reducible exact fun _ g => g
    | with_reducible exact fun _ _ => rfl
    | with_reducible exact fun n g => by (repeat' split) <;> first | exact g | rfl
    | dsimp -proj only
    | split

theorem putAhead_dark {s x : State} {a0 a1 a2 a3 a4} (h : Dark s x) :
    Dark s (putAhead x a0 a1 a2 a3 a4) := by
  unfold putAhead
  repeat' first
    | with_reducible assumption
    | with_reducible refine modTx_dark ?_ ?_
    | with_reducible refine putOwn_dark ?_
    | with_reducible refine ite_dark ?_ ?_
    | with_reducible refine foldl_dark ?_ (fun t a h => ?_)
    | with_reducible exact fun _ g => g
    | with_reducible exact fun _ _ => rfl
    | with_reducible exact fun n g => by (repeat' split) <;> first | exact g | rfl
    | dsimp -proj only
    | split

theorem putFill_dark {s x : State} {a0 a1 a2 a3 a4} (h : Dark s x) :
    Dark s (putFill x a0 a1 a2 a3 a4) := by
  unfold putFill
  repeat' first
    | with_reducible assumption
    | with_reducible refine modTx_dark ?_ ?_
    | with_reducible refine putOwn_dark ?_
    | with_reducible refine putAhead_dark ?_
    | with_reducible refine ite_dark ?_ ?_
    | with_reducible refine foldl_dark ?_ (fun t a h => ?_)
    | with_reducible exact fun _ g => g
    | with_reducible exact fun _ _ => rfl
    | with_reducible exact fun n g => by (repeat' split) <;> first | exact g | rfl
    | dsimp -proj only
    | split

theorem putForward_dark {s x : State} {a0 a1 a2 a3} (h : Dark s x) :
    Dark s (putForward x a0 a1 a2 a3) := by
  unfold putForward
  repeat' first
    | with_reducible assumption
    | with_reducible refine putSymbol_dark ?_
    | with_reducible refine putOwn_dark ?_
    | with_reducible refine ite_dark ?_ ?_
    | with_reducible refine foldl_dark ?_ (fun t a h => ?_)
    | with_reducible exact fun _ g => g
    | with_reducible exact fun _ _ => rfl
    | with_reducible exact fun n g => by (repeat' split) <;> first | exact g | rfl
    | dsimp -proj only
    | split

theorem carriedOut_dark {s x : State} {a0 a1 a2 a3} (h : Dark s x) :
    Dark s (carriedOut x a0 a1 a2 a3) := by
  unfold carriedOut
  repeat' first
    | with_reducible assumption
    | with_reducible refine putTest_dark ?_
    | with_reducible refine putFill_dark ?_
    | with_reducible refine putForward_dark ?_
    | with_reducible refine putIdle_dark ?_
    | with_reducible refine txDark_dark ?_
    | with_reducible refine ite_dark ?_ ?_
    | with_reducible refine foldl_dark ?_ (fun t a h => ?_)
    | with_reducible exact fun _ g => g
    | with_reducible exact fun _ _ => rfl
    | with_reducible exact fun n g => by (repeat' split) <;> first | exact g | rfl
    | dsimp -proj only
    | split

theorem putWarm_dark {s x : State} {a0 a1 a2} (h : Dark s x) :
    Dark s (putWarm x a0 a1 a2) := by
  unfold putWarm
  repeat' first
    | with_reducible assumption
    | with_reducible refine modTx_dark ?_ ?_
    | with_reducible refine putSymbol_dark ?_
    | with_reducible refine putOwn_dark ?_
    | with_reducible refine modMeas_dark ?_
    | with_reducible refine putAhead_dark ?_
    | with_reducible refine ite_dark ?_ ?_
    | with_reducible refine foldl_dark ?_ (fun t a h => ?_)
    | with_reducible exact fun _ g => g
    | with_reducible exact fun _ _ => rfl
    | with_reducible exact fun n g => by (repeat' split) <;> first | exact g | rfl
    | dsimp -proj only
    | split

theorem vacantOut_dark {s x : State} {a0 a1 a2} (h : Dark s x) :
    Dark s (vacantOut x a0 a1 a2) := by
  unfold vacantOut
  repeat' first
    | with_reducible assumption
    | with_reducible refine putWarm_dark ?_
    | with_reducible refine putTest_dark ?_
    | with_reducible refine putIdle_dark ?_
    | with_reducible refine txDark_dark ?_
    | with_reducible refine ite_dark ?_ ?_
    | with_reducible refine foldl_dark ?_ (fun t a h => ?_)
    | with_reducible exact fun _ g => g
    | with_reducible exact fun _ _ => rfl
    | with_reducible exact fun n g => by (repeat' split) <;> first | exact g | rfl
    | dsimp -proj only
    | split

theorem sendOne_dark {s x : State} {a0 a1 a2} (h : Dark s x) :
    Dark s (sendOne x a0 a1 a2) := by
  unfold sendOne
  repeat' first
    | with_reducible assumption
    | with_reducible refine carriedOut_dark ?_
    | with_reducible refine vacantOut_dark ?_
    | with_reducible refine txDark_dark ?_
    | with_reducible refine ite_dark ?_ ?_
    | with_reducible refine foldl_dark ?_ (fun t a h => ?_)
    | with_reducible exact fun _ g => g
    | with_reducible exact fun _ _ => rfl
    | with_reducible exact fun n g => by (repeat' split) <;> first | exact g | rfl
    | dsimp -proj only
    | split

theorem passRequest_dark {s x : State} {a0 a1 a2} (h : Dark s x) : Dark s (passRequest x a0 a1 a2) :=
  Dark.of_keeps (fun k hk => passRequest_keeps (a0 := a0) (a1 := a1) (a2 := a2) hk (k.same_refl x)) (by decide) h

theorem readOne_dark {s x : State} {a0 a1} (h : Dark s x) :
    Dark s (readOne x a0 a1) := by
  unfold readOne
  repeat' first
    | with_reducible assumption
    | with_reducible refine ebLimits_dark ?_
    | with_reducible refine sendOne_dark ?_
    | with_reducible refine modRx_dark ?_
    | with_reducible refine capFeed_dark ?_
    | with_reducible refine passRequest_dark ?_
    | with_reducible refine ite_dark ?_ ?_
    | with_reducible refine foldl_dark ?_ (fun t a h => ?_)
    | with_reducible exact fun _ g => g
    | with_reducible exact fun _ _ => rfl
    | with_reducible exact fun n g => by (repeat' split) <;> first | exact g | rfl
    | dsimp -proj only
    | split

theorem parkPreempted_dark {s x : State} {a0 a1 a2} (h : Dark s x) : Dark s (parkPreempted x a0 a1 a2) :=
  Dark.of_keeps (fun k hk => parkPreempted_keeps (a0 := a0) (a1 := a1) (a2 := a2) hk (k.same_refl x)) (by decide) h

theorem endEeprom_dark {s x : State} {a0} (h : Dark s x) : Dark s (endEeprom x a0) :=
  Dark.of_keeps (fun k hk => endEeprom_keeps (a0 := a0) hk (k.same_refl x)) (by decide) h

theorem reset_dark : closedDark State.reset := by
  intro p _ sd
  show (State.reset.lanes[laneIx sd p]).tx.on = false
  revert p
  cases sd <;> decide

theorem enterReset_dark {s x : State} (_ : Dark s x) : Dark s (enterReset x) := fun _ p hp sd => reset_dark p hp sd

theorem execResetNPulse_dark {s x : State} (h : Dark s x) :
    ∃ t, execResetNPulse x = .next t ∧ Dark s t := by
  unfold execResetNPulse
  repeat' first
    | with_reducible assumption
    | with_reducible refine done_dark ?_
    | with_reducible refine enterReset_dark ?_
    | with_reducible refine modPins_dark ?_
    | with_reducible refine ite_dark ?_ ?_
    | with_reducible refine foldl_dark ?_ (fun t a h => ?_)
    | with_reducible exact fun _ g => g
    | with_reducible exact fun _ _ => rfl
    | with_reducible exact fun n g => by (repeat' split) <;> first | exact g | rfl
    | dsimp -proj only
    | split

theorem modSeq_dark {s x : State} {a0 a1 a2} (h : Dark s x) : Dark s (modSeq x a0 a1 a2) :=
  Dark.of_keeps (fun k hk => modSeq_keeps (a0 := a0) (a1 := a1) (a2 := a2) hk (k.same_refl x)) (by decide) h

theorem execLnkspcmdSwap_dark {s x : State} {a0 a1 a2} (h : Dark s x) :
    ∃ t, execLnkspcmdSwap a0 a1 a2 x = .next t ∧ Dark s t := by
  unfold execLnkspcmdSwap
  repeat' first
    | with_reducible assumption
    | with_reducible refine done_dark ?_
    | with_reducible refine writeTo_dark ?_
    | with_reducible refine ite_dark ?_ ?_
    | with_reducible refine foldl_dark ?_ (fun t a h => ?_)
    | with_reducible exact fun _ g => g
    | with_reducible exact fun _ _ => rfl
    | with_reducible exact fun n g => by (repeat' split) <;> first | exact g | rfl
    | dsimp -proj only
    | split

theorem execJtagHighz_dark {s x : State} (h : Dark s x) :
    ∃ t, execJtagHighz x = .next t ∧ Dark s t := by
  unfold execJtagHighz
  repeat' first
    | with_reducible assumption
    | with_reducible refine done_dark ?_
    | with_reducible refine jtagLoad_dark ?_
    | with_reducible refine ite_dark ?_ ?_
    | with_reducible refine foldl_dark ?_ (fun t a h => ?_)
    | with_reducible exact fun _ g => g
    | with_reducible exact fun _ _ => rfl
    | with_reducible exact fun n g => by (repeat' split) <;> first | exact g | rfl
    | dsimp -proj only
    | split

theorem noteLoss_dark {s x : State} {a0 a1 a2 a3 a4} (h : Dark s x) : Dark s (noteLoss x a0 a1 a2 a3 a4) :=
  Dark.of_keeps (fun k hk => noteLoss_keeps (a0 := a0) (a1 := a1) (a2 := a2) (a3 := a3) (a4 := a4) hk (k.same_refl x)) (by decide) h

theorem setLost_dark {s x : State} {a0 a1 a2 a3} (h : Dark s x) : Dark s (setLost x a0 a1 a2 a3) :=
  Dark.of_keeps (fun k hk => setLost_keeps (a0 := a0) (a1 := a1) (a2 := a2) (a3 := a3) hk (k.same_refl x)) (by decide) h

theorem markLost_dark {s x : State} {a0 a1 a2 a3} (h : Dark s x) :
    Dark s (markLost x a0 a1 a2 a3) := by
  unfold markLost
  repeat' first
    | with_reducible assumption
    | with_reducible refine setResult_dark ?_
    | with_reducible refine stopRecal_dark ?_
    | with_reducible refine noteLoss_dark ?_
    | with_reducible refine modLink_dark ?_
    | with_reducible refine setLost_dark ?_
    | with_reducible refine modRx_dark ?_
    | with_reducible refine switchLink_dark ?_
    | with_reducible refine ite_dark ?_ ?_
    | with_reducible refine foldl_dark ?_ (fun t a h => ?_)
    | with_reducible exact fun _ g => g
    | with_reducible exact fun _ _ => rfl
    | with_reducible exact fun n g => by (repeat' split) <;> first | exact g | rfl
    | dsimp -proj only
    | split

theorem turnSwap_dark {s x : State} {a0 a1 a2} (h : Dark s x) : Dark s (turnSwap x a0 a1 a2) :=
  Dark.of_keeps (fun k hk => turnSwap_keeps (a0 := a0) (a1 := a1) (a2 := a2) hk (k.same_refl x)) (by decide) h

theorem execRegReadClear_dark {s x : State} {a0 a1 a2} (h : Dark s x) :
    ∃ t, execRegReadClear a0 a1 a2 x = .next t ∧ Dark s t := by
  unfold execRegReadClear
  repeat' first
    | with_reducible assumption
    | with_reducible refine done_dark ?_
    | with_reducible refine busRead_dark ?_
    | with_reducible refine upset_dark ?_
    | with_reducible refine ite_dark ?_ ?_
    | with_reducible refine foldl_dark ?_ (fun t a h => ?_)
    | with_reducible exact fun _ g => g
    | with_reducible exact fun _ _ => rfl
    | with_reducible exact fun n g => by (repeat' split) <;> first | exact g | rfl
    | dsimp -proj only
    | split

theorem grantSeen_dark {s x : State} {a0 a1} (h : Dark s x) : Dark s (grantSeen x a0 a1) :=
  Dark.of_keeps (fun k hk => grantSeen_keeps (a0 := a0) (a1 := a1) hk (k.same_refl x)) (by decide) h

theorem execWeltMismatch_dark {s x : State} {a0 a1} (h : Dark s x) :
    ∃ t, execWeltMismatch a0 a1 x = .next t ∧ Dark s t := by
  unfold execWeltMismatch
  try dsimp -zeta -proj only [upd_welt_evt]
  repeat' first
    | with_reducible assumption
    | with_reducible refine done_dark ?_
    | with_reducible refine logEvent_dark ?_
    | with_reducible refine writeAside_dark ?_
    | with_reducible refine putWelt_dark ?_ ?_
    | with_reducible refine putEvt_dark ?_
    | with_reducible refine ite_dark ?_ ?_
    | with_reducible refine foldl_dark ?_ (fun t a h => ?_)
    | with_reducible exact fun _ g => g
    | with_reducible exact fun _ _ => rfl
    | with_reducible exact fun n g => by (repeat' split) <;> first | exact g | rfl
    | dsimp -proj only
    | split

theorem execLpGrantSeen_dark {s x : State} {a0 a1} (h : Dark s x) :
    ∃ t, execLpGrantSeen a0 a1 x = .next t ∧ Dark s t := by
  unfold execLpGrantSeen
  repeat' first
    | with_reducible assumption
    | with_reducible refine grantSeen_dark ?_
    | with_reducible refine done_dark ?_
    | with_reducible refine ite_dark ?_ ?_
    | with_reducible refine foldl_dark ?_ (fun t a h => ?_)
    | with_reducible exact fun _ g => g
    | with_reducible exact fun _ _ => rfl
    | with_reducible exact fun n g => by (repeat' split) <;> first | exact g | rfl
    | dsimp -proj only
    | split

theorem injectOne_dark {s x : State} {a0 a1 a2} (h : Dark s x) :
    Dark s (injectOne x a0 a1 a2) := by
  unfold injectOne
  repeat' first
    | with_reducible assumption
    | with_reducible refine keepJob_dark ?_
    | with_reducible refine modMeas_dark ?_
    | with_reducible refine ite_dark ?_ ?_
    | with_reducible refine foldl_dark ?_ (fun t a h => ?_)
    | with_reducible exact fun _ g => g
    | with_reducible exact fun _ _ => rfl
    | with_reducible exact fun n g => by (repeat' split) <;> first | exact g | rfl
    | dsimp -proj only
    | split

theorem freeSlot_dark {s x : State} {a0} (h : Dark s x) : Dark s (freeSlot x a0) :=
  Dark.of_keeps (fun k hk => freeSlot_keeps (a0 := a0) hk (k.same_refl x)) (by decide) h

theorem resumeSlot_dark {s x : State} {a0 a1} (h : Dark s x) :
    Dark s (resumeSlot x a0 a1) := by
  unfold resumeSlot
  repeat' first
    | with_reducible assumption
    | with_reducible refine freeSlot_dark ?_
    | with_reducible refine setUnit_dark ?_
    | with_reducible refine modMeas_dark ?_
    | with_reducible refine ite_dark ?_ ?_
    | with_reducible refine foldl_dark ?_ (fun t a h => ?_)
    | with_reducible exact fun _ g => g
    | with_reducible exact fun _ _ => rfl
    | with_reducible exact fun n g => by (repeat' split) <;> first | exact g | rfl
    | dsimp -proj only
    | split

theorem modJob_dark {s x : State} {a0 a1} (h : Dark s x) : Dark s (modJob x a0 a1) :=
  Dark.of_keeps (fun k hk => modJob_keeps (a0 := a0) (a1 := a1) hk (k.same_refl x)) (by decide) h

theorem finishJob_dark {s x : State} {a0 a1 a2} (h : Dark s x) : Dark s (finishJob x a0 a1 a2) :=
  Dark.of_keeps (fun k hk => finishJob_keeps (a0 := a0) (a1 := a1) (a2 := a2) hk (k.same_refl x)) (by decide) h

theorem startChecks_dark {s x : State} {a0 a1} (h : Dark s x) :
    Dark s (startChecks x a0 a1) := by
  unfold startChecks
  try dsimp -zeta -proj only [upd_last]
  repeat' first
    | with_reducible assumption
    | with_reducible refine modJob_dark ?_
    | with_reducible refine finishJob_dark ?_
    | with_reducible refine modMeas_dark ?_
    | with_reducible refine putLast_dark ?_
    | with_reducible refine ite_dark ?_ ?_
    | with_reducible refine foldl_dark ?_ (fun t a h => ?_)
    | with_reducible exact fun _ g => g
    | with_reducible exact fun _ _ => rfl
    | with_reducible exact fun n g => by (repeat' split) <;> first | exact g | rfl
    | dsimp -proj only
    | split

theorem startEntry_dark {s x : State} {a0 a1} (h : Dark s x) :
    Dark s (startEntry x a0 a1) := by
  unfold startEntry
  try dsimp -zeta -proj only [upd_sched]
  repeat' first
    | with_reducible assumption
    | with_reducible refine modWq_dark ?_
    | with_reducible refine startChecks_dark ?_
    | with_reducible refine setUnit_dark ?_
    | with_reducible refine noteFence_dark ?_
    | with_reducible refine putSched_dark ?_
    | with_reducible refine ite_dark ?_ ?_
    | with_reducible refine foldl_dark ?_ (fun t a h => ?_)
    | with_reducible exact fun _ g => g
    | with_reducible exact fun _ _ => rfl
    | with_reducible exact fun n g => by (repeat' split) <;> first | exact g | rfl
    | dsimp -proj only
    | split

theorem runCandidate_dark {s x : State} {a0 a1} (h : Dark s x) (hc : Candidate.dark s a1) : Dark s (runCandidate x a0 a1) := by
  cases a1 with
  | slot n => exact resumeSlot_dark h
  | member i t =>
    have g := hc i t rfl
    unfold runCandidate
    dsimp -zeta -proj only [upd_sched]
    split
    · exact startEntry_dark g
    · exact setUnit_dark (putSched_dark g)

theorem startUrgent_dark {s x : State} {a0} (h : Dark s x) : Dark s (startUrgent x a0) := by
  unfold startUrgent
  split
  · exact runCandidate_dark h (fun _ _ e => by cases e)
  · split
    · rename_i e
      have g : Dark s _ := Dark.of_keeps (fun k hk => oldestUrgent_keeps_eq hk (k.same_refl x) e) (by decide) h
      exact runCandidate_dark h (fun _ _ e => by cases e; exact g)
    · exact h

theorem moverBlock_dark {s x : State} {a0} (h : Dark s x) : Dark s (moverBlock x a0).2 :=
  Dark.of_keeps (fun k hk => moverBlock_keeps (a0 := a0) hk (k.same_refl x)) (by decide) h

theorem moverBlock_dark_eq {s x : State} {a0} {r u} (h : Dark s x) (e : moverBlock x a0 = (r, u)) :
    Dark s u := 
  Dark.of_keeps (fun k hk => moverBlock_keeps_eq (a0 := a0) hk (k.same_refl x) e) (by decide) h

theorem preempt_dark {s x : State} {a0 a1} (h : Dark s x) :
    Dark s (preempt x a0 a1) := by
  unfold preempt
  repeat' first
    | with_reducible assumption
    | with_reducible refine startUrgent_dark ?_
    | with_reducible refine parkPreempted_dark ?_
    | with_reducible refine setUnit_dark ?_
    | with_reducible refine parkIn_dark ?_
    | with_reducible refine moverBlock_dark ?_
    | with_reducible refine moverBlock_dark_eq ?_ (by with_reducible assumption)
    | with_reducible refine ite_dark ?_ ?_
    | with_reducible refine foldl_dark ?_ (fun t a h => ?_)
    | with_reducible exact fun _ g => g
    | with_reducible exact fun _ _ => rfl
    | with_reducible exact fun n g => by (repeat' split) <;> first | exact g | rfl
    | dsimp -proj only
    | split

theorem urgentCandidate_dark {s x : State} {a0} {c} (h : Dark s x) (e : urgentCandidate x a0 = some c) :
    c.dark s := by
  intro i t q
  subst q
  exact Dark.of_keeps (fun k hk => urgentCandidate_keeps hk (k.same_refl x) e i t rfl) (by decide) h

theorem execPreemptFlushDone_dark {s x : State} {a0 a1} (h : Dark s x) :
    ∃ t, execPreemptFlushDone a0 a1 x = .next t ∧ Dark s t := by
  unfold execPreemptFlushDone
  repeat' first
    | with_reducible assumption
    | with_reducible refine done_dark ?_
    | with_reducible refine preempt_dark ?_
    | with_reducible refine urgentCandidate_dark ?_
    | with_reducible refine upset_dark ?_
    | with_reducible refine ite_dark ?_ ?_
    | with_reducible refine foldl_dark ?_ (fun t a h => ?_)
    | with_reducible exact fun _ g => g
    | with_reducible exact fun _ _ => rfl
    | with_reducible exact fun n g => by (repeat' split) <;> first | exact g | rfl
    | dsimp -proj only
    | split

theorem execCaptureTrigger_dark {s x : State} {a0 a1} (h : Dark s x) :
    ∃ t, execCaptureTrigger a0 a1 x = .next t ∧ Dark s t := by
  unfold execCaptureTrigger
  repeat' first
    | with_reducible assumption
    | with_reducible refine done_dark ?_
    | with_reducible refine keepJob_dark ?_
    | with_reducible refine ite_dark ?_ ?_
    | with_reducible refine foldl_dark ?_ (fun t a h => ?_)
    | with_reducible exact fun _ g => g
    | with_reducible exact fun _ _ => rfl
    | with_reducible exact fun n g => by (repeat' split) <;> first | exact g | rfl
    | dsimp -proj only
    | split

theorem execLnctlRecentre_dark {s x : State} {a0 a1 a2 a3} (h : Dark s x) :
    ∃ t, execLnctlRecentre a0 a1 a2 a3 x = .next t ∧ Dark s t := by
  unfold execLnctlRecentre
  repeat' first
    | with_reducible assumption
    | with_reducible refine done_dark ?_
    | with_reducible refine writeTo_dark ?_
    | with_reducible refine ite_dark ?_ ?_
    | with_reducible refine foldl_dark ?_ (fun t a h => ?_)
    | with_reducible exact fun _ g => g
    | with_reducible exact fun _ _ => rfl
    | with_reducible exact fun n g => by (repeat' split) <;> first | exact g | rfl
    | dsimp -proj only
    | split

theorem armCapture_dark {s x : State} {a0 a1} (h : Dark s x) : Dark s (armCapture x a0 a1) :=
  Dark.of_keeps (fun k hk => armCapture_keeps (a0 := a0) (a1 := a1) hk (k.same_refl x)) (by decide) h

theorem execCapture_dark {s x : State} {a0} (h : Dark s x) :
    ∃ t, execCapture a0 x = .next t ∧ Dark s t := by
  unfold execCapture
  repeat' first
    | with_reducible assumption
    | with_reducible refine done_dark ?_
    | with_reducible refine armCapture_dark ?_
    | with_reducible refine ite_dark ?_ ?_
    | with_reducible refine foldl_dark ?_ (fun t a h => ?_)
    | with_reducible exact fun _ g => g
    | with_reducible exact fun _ _ => rfl
    | with_reducible exact fun n g => by (repeat' split) <;> first | exact g | rfl
    | dsimp -proj only
    | split

theorem modTr_dark {s x : State} {a0 a1 a2} (h : Dark s x) : Dark s (modTr x a0 a1 a2) :=
  Dark.of_keeps (fun k hk => modTr_keeps (a0 := a0) (a1 := a1) (a2 := a2) hk (k.same_refl x)) (by decide) h

theorem putSet_dark {s x : State} {a0 a1 a2 a3 a4} (h : Dark s x) :
    Dark s (putSet x a0 a1 a2 a3 a4) := by
  unfold putSet
  repeat' first
    | with_reducible assumption
    | with_reducible refine modTr_dark ?_
    | with_reducible refine planSet_dark ?_
    | with_reducible refine ite_dark ?_ ?_
    | with_reducible refine foldl_dark ?_ (fun t a h => ?_)
    | with_reducible exact fun _ g => g
    | with_reducible exact fun _ _ => rfl
    | with_reducible exact fun n g => by (repeat' split) <;> first | exact g | rfl
    | dsimp -proj only
    | split

theorem sendTos_dark {s x : State} {a0 a1 a2 a3} (h : Dark s x) :
    Dark s (sendTos x a0 a1 a2 a3) := by
  unfold sendTos
  repeat' first
    | with_reducible assumption
    | with_reducible refine putSet_dark ?_
    | with_reducible refine ite_dark ?_ ?_
    | with_reducible refine foldl_dark ?_ (fun t a h => ?_)
    | with_reducible exact fun _ g => g
    | with_reducible exact fun _ _ => rfl
    | with_reducible exact fun n g => by (repeat' split) <;> first | exact g | rfl
    | dsimp -proj only
    | split

theorem execWqDoorbell_dark {s x : State} {a0 a1 a2} (h : Dark s x) :
    ∃ t, execWqDoorbell a0 a1 a2 x = .next t ∧ Dark s t := by
  unfold execWqDoorbell
  repeat' first
    | with_reducible assumption
    | with_reducible refine done_dark ?_
    | with_reducible refine writeTo_dark ?_
    | with_reducible refine ite_dark ?_ ?_
    | with_reducible refine foldl_dark ?_ (fun t a h => ?_)
    | with_reducible exact fun _ g => g
    | with_reducible exact fun _ _ => rfl
    | with_reducible exact fun n g => by (repeat' split) <;> first | exact g | rfl
    | dsimp -proj only
    | split

theorem symbolAfterExchange_dark {s x : State} {a0 a1} (h : Dark s x) : Dark s (symbolAfterExchange x a0 a1) :=
  Dark.of_keeps (fun k hk => symbolAfterExchange_keeps (a0 := a0) (a1 := a1) hk (k.same_refl x)) (by decide) h

theorem badMos_dark {s x : State} {a0} (h : Dark s x) : Dark s (badMos x a0) :=
  Dark.of_keeps (fun k hk => badMos_keeps (a0 := a0) hk (k.same_refl x)) (by decide) h

theorem takeSpareRsp_dark_eq {s x : State} {a0 a1 a2} {u} (h : Dark s x) (e : takeSpareRsp x a0 a1 a2 = some u) :
    Dark s u := by
  unfold takeSpareRsp at e
  split at e
  · cases e
    exact followStandin_dark (ite_dark (swapAck_dark h) (failSwap_dark h))
  · split at e <;> cases e
    exact modLink_dark h

theorem execSpareRspReceived_dark {s x : State} {a0 a1 a2} (h : Dark s x) :
    ∃ t, execSpareRspReceived a0 a1 a2 x = .next t ∧ Dark s t := by
  unfold execSpareRspReceived
  repeat' first
    | with_reducible assumption
    | with_reducible refine done_dark ?_
    | with_reducible refine badMos_dark ?_
    | with_reducible refine getD_dark (fun _ e => takeSpareRsp_dark_eq ?_ e) ?_
    | with_reducible refine takeSpareRsp_dark_eq ?_ (by with_reducible assumption)
    | with_reducible refine ite_dark ?_ ?_
    | with_reducible refine foldl_dark ?_ (fun t a h => ?_)
    | with_reducible exact fun _ g => g
    | with_reducible exact fun _ _ => rfl
    | with_reducible exact fun n g => by (repeat' split) <;> first | exact g | rfl
    | dsimp -proj only
    | split

theorem applyGlobal_dark {s x : State} (h : Dark s x) : Dark s (applyGlobal x) :=
  Dark.of_keeps (fun k hk => applyGlobal_keeps hk (k.same_refl x)) (by decide) h

theorem execGlobalApply_dark {s x : State} (h : Dark s x) :
    ∃ t, execGlobalApply x = .next t ∧ Dark s t := by
  unfold execGlobalApply
  repeat' first
    | with_reducible assumption
    | with_reducible refine done_dark ?_
    | with_reducible refine applyGlobal_dark ?_
    | with_reducible refine ite_dark ?_ ?_
    | with_reducible refine foldl_dark ?_ (fun t a h => ?_)
    | with_reducible exact fun _ g => g
    | with_reducible exact fun _ _ => rfl
    | with_reducible exact fun n g => by (repeat' split) <;> first | exact g | rfl
    | dsimp -proj only
    | split

theorem execSnapshotExpiry_dark {s x : State} {a0 a1} (h : Dark s x) :
    ∃ t, execSnapshotExpiry a0 a1 x = .next t ∧ Dark s t := by
  unfold execSnapshotExpiry
  repeat' first
    | with_reducible assumption
    | with_reducible refine done_dark ?_
    | with_reducible refine modSnap_dark ?_
    | with_reducible refine ite_dark ?_ ?_
    | with_reducible refine foldl_dark ?_ (fun t a h => ?_)
    | with_reducible exact fun _ g => g
    | with_reducible exact fun _ _ => rfl
    | with_reducible exact fun n g => by (repeat' split) <;> first | exact g | rfl
    | dsimp -proj only
    | split

theorem logCandidate_dark {s x : State} {a0 a1} (h : Dark s x) : Dark s (logCandidate x a0 a1) :=
  Dark.of_keeps (fun k hk => logCandidate_keeps (a0 := a0) (a1 := a1) hk (k.same_refl x)) (by decide) h

theorem useLast_dark {s x : State} {a0 a1 a2} (h : Dark s x) :
    Dark s (useLast x a0 a1 a2) := by
  unfold useLast
  try dsimp -zeta -proj only [upd_boot_last]
  repeat' first
    | with_reducible assumption
    | with_reducible refine settleAll_dark ?_
    | with_reducible refine putBoot_dark ?_
    | with_reducible refine putLast_dark ?_
    | with_reducible refine ite_dark ?_ ?_
    | with_reducible refine foldl_dark ?_ (fun t a h => ?_)
    | with_reducible exact fun _ g => g
    | with_reducible exact fun _ _ => rfl
    | with_reducible exact fun n g => by (repeat' split) <;> first | exact g | rfl
    | dsimp -proj only
    | split

theorem checkSlot_dark {s x : State} {a0} (h : Dark s x) : Dark s (checkSlot x a0).2 :=
  Dark.of_keeps (fun k hk => checkSlot_keeps (a0 := a0) hk (k.same_refl x)) (by decide) h

theorem checkSlot_dark_eq {s x : State} {a0} {r u} (h : Dark s x) (e : checkSlot x a0 = (r, u)) :
    Dark s u := 
  Dark.of_keeps (fun k hk => checkSlot_keeps_eq (a0 := a0) hk (k.same_refl x) e) (by decide) h

theorem selectLow_dark {s x : State} {a0} (h : Dark s x) :
    Dark s (selectLow x a0) := by
  unfold selectLow
  try dsimp -zeta -proj only [upd_last]
  repeat' first
    | with_reducible assumption
    | with_reducible refine checkSlot_dark ?_
    | with_reducible refine checkSlot_dark_eq ?_ (by with_reducible assumption)
    | with_reducible refine logCandidate_dark ?_
    | with_reducible refine useLast_dark ?_
    | with_reducible refine putLast_dark ?_
    | with_reducible refine ite_dark ?_ ?_
    | with_reducible refine foldl_dark ?_ (fun t a h => ?_)
    | with_reducible exact fun _ g => g
    | with_reducible exact fun _ _ => rfl
    | with_reducible exact fun n g => by (repeat' split) <;> first | exact g | rfl
    | dsimp -proj only
    | split

theorem selectNvm_dark {s x : State} {a0} (h : Dark s x) :
    Dark s (selectNvm x a0) := by
  unfold selectNvm
  try dsimp -zeta -proj only [upd_last]
  repeat' first
    | with_reducible assumption
    | with_reducible refine checkSlot_dark ?_
    | with_reducible refine checkSlot_dark_eq ?_ (by with_reducible assumption)
    | with_reducible refine logCandidate_dark ?_
    | with_reducible refine useLast_dark ?_
    | with_reducible refine selectLow_dark ?_
    | with_reducible refine putLast_dark ?_
    | with_reducible refine ite_dark ?_ ?_
    | with_reducible refine foldl_dark ?_ (fun t a h => ?_)
    | with_reducible exact fun _ g => g
    | with_reducible exact fun _ _ => rfl
    | with_reducible exact fun n g => by (repeat' split) <;> first | exact g | rfl
    | dsimp -proj only
    | split

theorem selectLast_dark {s x : State} (h : Dark s x) :
    Dark s (selectLast x) := by
  unfold selectLast
  try dsimp -zeta -proj only [upd_boot, upd_last]
  repeat' first
    | with_reducible assumption
    | with_reducible refine logCandidate_dark ?_
    | with_reducible refine useLast_dark ?_
    | with_reducible refine selectNvm_dark ?_
    | with_reducible refine putBoot_dark ?_
    | with_reducible refine putLast_dark ?_
    | with_reducible refine ite_dark ?_ ?_
    | with_reducible refine foldl_dark ?_ (fun t a h => ?_)
    | with_reducible exact fun _ g => g
    | with_reducible exact fun _ _ => rfl
    | with_reducible exact fun n g => by (repeat' split) <;> first | exact g | rfl
    | dsimp -proj only
    | split

theorem predictOne_dark {s x : State} {a0 a1 a2} (h : Dark s x) :
    Dark s (predictOne x a0 a1 a2) := by
  unfold predictOne
  repeat' first
    | with_reducible assumption
    | with_reducible refine beginSwap_dark ?_
    | with_reducible refine modMeas_dark ?_
    | with_reducible refine ite_dark ?_ ?_
    | with_reducible refine foldl_dark ?_ (fun t a h => ?_)
    | with_reducible exact fun _ g => g
    | with_reducible exact fun _ _ => rfl
    | with_reducible exact fun n g => by (repeat' split) <;> first | exact g | rfl
    | dsimp -proj only
    | split

theorem execPredictiveEvaluation_dark {s x : State} (h : Dark s x) :
    ∃ t, execPredictiveEvaluation x = .next t ∧ Dark s t := by
  unfold execPredictiveEvaluation
  repeat' first
    | with_reducible assumption
    | with_reducible refine done_dark ?_
    | with_reducible refine predictOne_dark ?_
    | with_reducible refine ite_dark ?_ ?_
    | with_reducible refine foldl_dark ?_ (fun t a h => ?_)
    | with_reducible exact fun _ g => g
    | with_reducible exact fun _ _ => rfl
    | with_reducible exact fun n g => by (repeat' split) <;> first | exact g | rfl
    | dsimp -proj only
    | split

theorem logTx_dark {s x : State} {a0 a1 a2 a3} (h : Dark s x) : Dark s (logTx x a0 a1 a2 a3) :=
  Dark.of_keeps (fun k hk => logTx_keeps (a0 := a0) (a1 := a1) (a2 := a2) (a3 := a3) hk (k.same_refl x)) (by decide) h

theorem execSwingLimit_dark {s x : State} {a0 a1 a2} (h : Dark s x) :
    ∃ t, execSwingLimit a0 a1 a2 x = .next t ∧ Dark s t := by
  unfold execSwingLimit
  repeat' first
    | with_reducible assumption
    | with_reducible refine done_dark ?_
    | with_reducible refine modTx_dark ?_ ?_
    | with_reducible refine logTx_dark ?_
    | with_reducible refine ite_dark ?_ ?_
    | with_reducible refine foldl_dark ?_ (fun t a h => ?_)
    | with_reducible exact fun _ g => g
    | with_reducible exact fun _ _ => rfl
    | with_reducible exact fun n g => by (repeat' split) <;> first | exact g | rfl
    | dsimp -proj only
    | split

theorem abandonPlanned_dark {s x : State} {a0 a1} (h : Dark s x) :
    Dark s (abandonPlanned x a0 a1) := by
  unfold abandonPlanned
  repeat' first
    | with_reducible assumption
    | with_reducible refine restSpare_dark ?_
    | with_reducible refine dropSwap_dark ?_
    | with_reducible refine giveUp_dark ?_
    | with_reducible refine ite_dark ?_ ?_
    | with_reducible refine foldl_dark ?_ (fun t a h => ?_)
    | with_reducible exact fun _ g => g
    | with_reducible exact fun _ _ => rfl
    | with_reducible exact fun n g => by (repeat' split) <;> first | exact g | rfl
    | dsimp -proj only
    | split

theorem policySpare_dark {s x : State} {a0 a1 a2} (h : Dark s x) :
    Dark s (policySpare x a0 a1 a2) := by
  unfold policySpare
  repeat' first
    | with_reducible assumption
    | with_reducible refine abandonPlanned_dark ?_
    | with_reducible refine modLink_dark ?_
    | with_reducible refine lossSpare_dark ?_
    | with_reducible refine ite_dark ?_ ?_
    | with_reducible refine foldl_dark ?_ (fun t a h => ?_)
    | with_reducible exact fun _ g => g
    | with_reducible exact fun _ _ => rfl
    | with_reducible exact fun n g => by (repeat' split) <;> first | exact g | rfl
    | dsimp -proj only
    | split

theorem lossPolicy_dark {s x : State} {a0 a1 a2} (h : Dark s x) :
    Dark s (lossPolicy x a0 a1 a2) := by
  unfold lossPolicy
  repeat' first
    | with_reducible assumption
    | with_reducible refine policySpare_dark ?_
    | with_reducible refine lossDegrade_dark ?_
    | with_reducible refine lossDown_dark ?_
    | with_reducible refine ite_dark ?_ ?_
    | with_reducible refine foldl_dark ?_ (fun t a h => ?_)
    | with_reducible exact fun _ g => g
    | with_reducible exact fun _ _ => rfl
    | with_reducible exact fun n g => by (repeat' split) <;> first | exact g | rfl
    | dsimp -proj only
    | split

theorem afterLoss_dark {s x : State} {a0 a1 a2} (h : Dark s x) :
    Dark s (afterLoss x a0 a1 a2) := by
  unfold afterLoss
  repeat' first
    | with_reducible assumption
    | with_reducible refine turnSwap_dark ?_
    | with_reducible refine lossPolicy_dark ?_
    | with_reducible refine enterRetrain_dark ?_
    | with_reducible refine requestRetrain_dark ?_
    | with_reducible refine ite_dark ?_ ?_
    | with_reducible refine foldl_dark ?_ (fun t a h => ?_)
    | with_reducible exact fun _ g => g
    | with_reducible exact fun _ _ => rfl
    | with_reducible exact fun n g => by (repeat' split) <;> first | exact g | rfl
    | dsimp -proj only
    | split

theorem moveEditLane_dark {s x : State} {a0 a1} (h : Dark s x) : Dark s (moveEditLane x a0 a1) :=
  Dark.of_keeps (fun k hk => moveEditLane_keeps (a0 := a0) (a1 := a1) hk (k.same_refl x)) (by decide) h

theorem afterLosses_dark {s x : State} {a0 a1 a2} (h : Dark s x) :
    Dark s (afterLosses x a0 a1 a2) := by
  unfold afterLosses
  repeat' first
    | with_reducible assumption
    | with_reducible refine afterLoss_dark ?_
    | with_reducible refine moveEditLane_dark ?_
    | with_reducible refine ite_dark ?_ ?_
    | with_reducible refine foldl_dark ?_ (fun t a h => ?_)
    | with_reducible exact fun _ g => g
    | with_reducible exact fun _ _ => rfl
    | with_reducible exact fun n g => by (repeat' split) <;> first | exact g | rfl
    | dsimp -proj only
    | split

theorem declareLost_dark {s x : State} {a0 a1 a2 a3} (h : Dark s x) :
    Dark s (declareLost x a0 a1 a2 a3) := by
  unfold declareLost
  repeat' first
    | with_reducible assumption
    | with_reducible refine markLost_dark ?_
    | with_reducible refine afterLosses_dark ?_
    | with_reducible refine ite_dark ?_ ?_
    | with_reducible refine foldl_dark ?_ (fun t a h => ?_)
    | with_reducible exact fun _ g => g
    | with_reducible exact fun _ _ => rfl
    | with_reducible exact fun n g => by (repeat' split) <;> first | exact g | rfl
    | dsimp -proj only
    | split

theorem moveForward_dark {s x : State} {a0 a1 a2 a3} (h : Dark s x) :
    Dark s (moveForward x a0 a1 a2 a3) := by
  unfold moveForward
  repeat' first
    | with_reducible assumption
    | with_reducible refine declareLost_dark ?_
    | with_reducible refine setSpare_dark ?_
    | with_reducible refine ite_dark ?_ ?_
    | with_reducible refine foldl_dark ?_ (fun t a h => ?_)
    | with_reducible exact fun _ g => g
    | with_reducible exact fun _ _ => rfl
    | with_reducible exact fun n g => by (repeat' split) <;> first | exact g | rfl
    | dsimp -proj only
    | split

theorem passSpare_dark {s x : State} {a0 a1} (h : Dark s x) :
    Dark s (passSpare x a0 a1) := by
  unfold passSpare
  repeat' first
    | with_reducible assumption
    | with_reducible refine restSpare_dark ?_
    | with_reducible refine moveForward_dark ?_
    | with_reducible refine setSpare_dark ?_
    | with_reducible refine ite_dark ?_ ?_
    | with_reducible refine foldl_dark ?_ (fun t a h => ?_)
    | with_reducible exact fun _ g => g
    | with_reducible exact fun _ _ => rfl
    | with_reducible exact fun n g => by (repeat' split) <;> first | exact g | rfl
    | dsimp -proj only
    | split

theorem noteMos_dark {s x : State} {a0 a1} (h : Dark s x) :
    Dark s (noteMos x a0 a1) := by
  unfold noteMos
  repeat' first
    | with_reducible assumption
    | with_reducible refine grantSeen_dark ?_
    | with_reducible refine passSpare_dark ?_
    | with_reducible refine ite_dark ?_ ?_
    | with_reducible refine foldl_dark ?_ (fun t a h => ?_)
    | with_reducible exact fun _ g => g
    | with_reducible exact fun _ _ => rfl
    | with_reducible exact fun n g => by (repeat' split) <;> first | exact g | rfl
    | dsimp -proj only
    | split

theorem searchEvent_dark {s x : State} {a0 a1 a2} (h : Dark s x) :
    Dark s (searchEvent x a0 a1 a2) := by
  unfold searchEvent
  repeat' first
    | with_reducible assumption
    | with_reducible refine modLane_dark ?_ ?_
    | with_reducible refine ite_dark ?_ ?_
    | with_reducible refine foldl_dark ?_ (fun t a h => ?_)
    | with_reducible exact fun _ g => g
    | with_reducible exact fun _ _ => rfl
    | with_reducible exact fun n g => by (repeat' split) <;> first | exact g | rfl
    | dsimp -proj only
    | split

theorem execPresetSearchStep_dark {s x : State} {a0 a1 a2} (h : Dark s x) :
    ∃ t, execPresetSearchStep a0 a1 a2 x = .next t ∧ Dark s t := by
  unfold execPresetSearchStep
  repeat' first
    | with_reducible assumption
    | with_reducible refine done_dark ?_
    | with_reducible refine searchEvent_dark ?_
    | with_reducible refine ite_dark ?_ ?_
    | with_reducible refine foldl_dark ?_ (fun t a h => ?_)
    | with_reducible exact fun _ g => g
    | with_reducible exact fun _ _ => rfl
    | with_reducible exact fun n g => by (repeat' split) <;> first | exact g | rfl
    | dsimp -proj only
    | split

theorem rollback_dark {s x : State} {a0} (h : Dark s x) :
    Dark s (rollback x a0) := by
  unfold rollback
  repeat' first
    | with_reducible assumption
    | with_reducible refine setResult_dark ?_
    | with_reducible refine takeUp_dark ?_
    | with_reducible refine laneRestart_dark ?_
    | with_reducible refine modLast_dark ?_
    | with_reducible refine requestRetrain_dark ?_
    | with_reducible refine ite_dark ?_ ?_
    | with_reducible refine foldl_dark ?_ (fun t a h => ?_)
    | with_reducible exact fun _ g => g
    | with_reducible exact fun _ _ => rfl
    | with_reducible exact fun n g => by (repeat' split) <;> first | exact g | rfl
    | dsimp -proj only
    | split

theorem enterAlign_dark {s x : State} {a0} (h : Dark s x) :
    Dark s (enterAlign x a0) := by
  unfold enterAlign
  repeat' first
    | with_reducible assumption
    | with_reducible refine modRxs_dark ?_
    | with_reducible refine modLink_dark ?_
    | with_reducible refine ite_dark ?_ ?_
    | with_reducible refine foldl_dark ?_ (fun t a h => ?_)
    | with_reducible exact fun _ g => g
    | with_reducible exact fun _ _ => rfl
    | with_reducible exact fun n g => by (repeat' split) <;> first | exact g | rfl
    | dsimp -proj only
    | split

theorem execJtagIdcode_dark {s x : State} (h : Dark s x) :
    ∃ t, execJtagIdcode x = .next t ∧ Dark s t := by
  unfold execJtagIdcode
  repeat' first
    | with_reducible assumption
    | with_reducible refine done_dark ?_
    | with_reducible refine jtagLoad_dark ?_
    | with_reducible refine modJtag_dark ?_
    | with_reducible refine ite_dark ?_ ?_
    | with_reducible refine foldl_dark ?_ (fun t a h => ?_)
    | with_reducible exact fun _ g => g
    | with_reducible exact fun _ _ => rfl
    | with_reducible exact fun n g => by (repeat' split) <;> first | exact g | rfl
    | dsimp -proj only
    | split

theorem aligningLost_dark {s x : State} {a0 a1 a2 a3} (h : Dark s x) :
    Dark s (aligningLost x a0 a1 a2 a3) := by
  unfold aligningLost
  repeat' first
    | with_reducible assumption
    | with_reducible refine noteLoss_dark ?_
    | with_reducible refine failSwap_dark ?_
    | with_reducible refine ite_dark ?_ ?_
    | with_reducible refine foldl_dark ?_ (fun t a h => ?_)
    | with_reducible exact fun _ g => g
    | with_reducible exact fun _ _ => rfl
    | with_reducible exact fun n g => by (repeat' split) <;> first | exact g | rfl
    | dsimp -proj only
    | split

theorem forwardLost_dark {s x : State} {a0 a1 a2 a3} (h : Dark s x) :
    Dark s (forwardLost x a0 a1 a2 a3) := by
  unfold forwardLost
  repeat' first
    | with_reducible assumption
    | with_reducible refine noteLoss_dark ?_
    | with_reducible refine modRx_dark ?_
    | with_reducible refine setSpare_dark ?_
    | with_reducible refine ite_dark ?_ ?_
    | with_reducible refine foldl_dark ?_ (fun t a h => ?_)
    | with_reducible exact fun _ g => g
    | with_reducible exact fun _ _ => rfl
    | with_reducible exact fun n g => by (repeat' split) <;> first | exact g | rfl
    | dsimp -proj only
    | split

theorem rxLost_dark {s x : State} {a0 a1 a2} (h : Dark s x) :
    Dark s (rxLost x a0 a1 a2) := by
  unfold rxLost
  repeat' first
    | with_reducible assumption
    | with_reducible refine aligningLost_dark ?_
    | with_reducible refine forwardLost_dark ?_
    | with_reducible refine declareLost_dark ?_
    | with_reducible refine ite_dark ?_ ?_
    | with_reducible refine foldl_dark ?_ (fun t a h => ?_)
    | with_reducible exact fun _ g => g
    | with_reducible exact fun _ _ => rfl
    | with_reducible exact fun n g => by (repeat' split) <;> first | exact g | rfl
    | dsimp -proj only
    | split

theorem takeHops_dark {s x : State} {a0 a1 a2} (h : Dark s x) : Dark s (takeHops x a0 a1 a2) :=
  Dark.of_keeps (fun k hk => takeHops_keeps (a0 := a0) (a1 := a1) (a2 := a2) hk (k.same_refl x)) (by decide) h

theorem seenTos_dark {s x : State} {a0 a1 a2} (h : Dark s x) :
    Dark s (seenTos x a0 a1 a2) := by
  unfold seenTos
  repeat' first
    | with_reducible assumption
    | with_reducible refine modTr_dark ?_
    | with_reducible refine modLink_dark ?_
    | with_reducible refine enterAlign_dark ?_
    | with_reducible refine ite_dark ?_ ?_
    | with_reducible refine foldl_dark ?_ (fun t a h => ?_)
    | with_reducible exact fun _ g => g
    | with_reducible exact fun _ _ => rfl
    | with_reducible exact fun n g => by (repeat' split) <;> first | exact g | rfl
    | dsimp -proj only
    | split

theorem readTosA_dark {s x : State} {a0 a1 a2 a3} (h : Dark s x) : Dark s (readTosA x a0 a1 a2 a3) :=
  Dark.of_keeps (fun k hk => readTosA_keeps (a0 := a0) (a1 := a1) (a2 := a2) (a3 := a3) hk (k.same_refl x)) (by decide) h

theorem tosAIn_dark {s x : State} {a0 a1 a2 a3} (h : Dark s x) :
    Dark s (tosAIn x a0 a1 a2 a3) := by
  unfold tosAIn
  repeat' first
    | with_reducible assumption
    | with_reducible refine takeHops_dark ?_
    | with_reducible refine sendTos_dark ?_
    | with_reducible refine seenTos_dark ?_
    | with_reducible refine readTosA_dark ?_
    | with_reducible refine ite_dark ?_ ?_
    | with_reducible refine foldl_dark ?_ (fun t a h => ?_)
    | with_reducible exact fun _ g => g
    | with_reducible exact fun _ _ => rfl
    | with_reducible exact fun n g => by (repeat' split) <;> first | exact g | rfl
    | dsimp -proj only
    | split

theorem execJoinTimeout_dark {s x : State} {a0} (h : Dark s x) :
    ∃ t, execJoinTimeout a0 x = .next t ∧ Dark s t := by
  unfold execJoinTimeout
  repeat' first
    | with_reducible assumption
    | with_reducible refine done_dark ?_
    | with_reducible refine logK_dark ?_
    | with_reducible refine startJoin_dark ?_
    | with_reducible refine ite_dark ?_ ?_
    | with_reducible refine foldl_dark ?_ (fun t a h => ?_)
    | with_reducible exact fun _ g => g
    | with_reducible exact fun _ _ => rfl
    | with_reducible exact fun n g => by (repeat' split) <;> first | exact g | rfl
    | dsimp -proj only
    | split

theorem execDtrateWrite_dark {s x : State} {a0 a1} (h : Dark s x) :
    ∃ t, execDtrateWrite a0 a1 x = .next t ∧ Dark s t := by
  unfold execDtrateWrite
  repeat' first
    | with_reducible assumption
    | with_reducible refine done_dark ?_
    | with_reducible refine writeTo_dark ?_
    | with_reducible refine ite_dark ?_ ?_
    | with_reducible refine foldl_dark ?_ (fun t a h => ?_)
    | with_reducible exact fun _ g => g
    | with_reducible exact fun _ _ => rfl
    | with_reducible exact fun n g => by (repeat' split) <;> first | exact g | rfl
    | dsimp -proj only
    | split

theorem execCounterClr_dark {s x : State} {a0 a1 a2 a3} (h : Dark s x) :
    ∃ t, execCounterClr a0 a1 a2 a3 x = .next t ∧ Dark s t := by
  unfold execCounterClr
  repeat' first
    | with_reducible assumption
    | with_reducible refine done_dark ?_
    | with_reducible refine writeTo_dark ?_
    | with_reducible refine ite_dark ?_ ?_
    | with_reducible refine foldl_dark ?_ (fun t a h => ?_)
    | with_reducible exact fun _ g => g
    | with_reducible exact fun _ _ => rfl
    | with_reducible exact fun n g => by (repeat' split) <;> first | exact g | rfl
    | dsimp -proj only
    | split

theorem execJtagClamp_dark {s x : State} (h : Dark s x) :
    ∃ t, execJtagClamp x = .next t ∧ Dark s t := by
  unfold execJtagClamp
  repeat' first
    | with_reducible assumption
    | with_reducible refine done_dark ?_
    | with_reducible refine jtagLoad_dark ?_
    | with_reducible refine ite_dark ?_ ?_
    | with_reducible refine foldl_dark ?_ (fun t a h => ?_)
    | with_reducible exact fun _ g => g
    | with_reducible exact fun _ _ => rfl
    | with_reducible exact fun n g => by (repeat' split) <;> first | exact g | rfl
    | dsimp -proj only
    | split

theorem enterExchange_dark {s x : State} {a0} (h : Dark s x) : Dark s (enterExchange x a0) :=
  Dark.of_keeps (fun k hk => enterExchange_keeps (a0 := a0) hk (k.same_refl x)) (by decide) h

theorem enterLock_dark {s x : State} {a0} (h : Dark s x) :
    Dark s (enterLock x a0) := by
  unfold enterLock
  repeat' first
    | with_reducible assumption
    | with_reducible refine modLink_dark ?_
    | with_reducible refine endSearches_dark ?_
    | with_reducible refine ite_dark ?_ ?_
    | with_reducible refine foldl_dark ?_ (fun t a h => ?_)
    | with_reducible exact fun _ g => g
    | with_reducible exact fun _ _ => rfl
    | with_reducible exact fun n g => by (repeat' split) <;> first | exact g | rfl
    | dsimp -proj only
    | split

theorem startSearches_dark {s x : State} {a0 a1} (h : Dark s x) :
    Dark s (startSearches x a0 a1) := by
  unfold startSearches
  repeat' first
    | with_reducible assumption
    | with_reducible refine modLane_dark ?_ ?_
    | with_reducible refine ite_dark ?_ ?_
    | with_reducible refine foldl_dark ?_ (fun t a h => ?_)
    | with_reducible exact fun _ g => g
    | with_reducible exact fun _ _ => rfl
    | with_reducible exact fun n g => by (repeat' split) <;> first | exact g | rfl
    | dsimp -proj only
    | split

theorem abandonRamp_on (n : LaneTx) : n.abandonRamp.on = n.on := by
  unfold LaneTx.abandonRamp
  split <;> rfl

theorem abandonRamps_dark {s x : State} {a0} (h : Dark s x) :
    Dark s (abandonRamps x a0) := by
  unfold abandonRamps
  repeat' first
    | with_reducible assumption
    | with_reducible refine modTx_dark ?_ ?_
    | with_reducible refine ite_dark ?_ ?_
    | with_reducible refine foldl_dark ?_ (fun t a h => ?_)
    | with_reducible exact fun n g => (abandonRamp_on n).trans g
    | with_reducible exact fun _ g => g
    | with_reducible exact fun _ _ => rfl
    | with_reducible exact fun n g => by (repeat' split) <;> first | exact g | rfl
    | dsimp -proj only
    | split

theorem enterEq1_dark {s x : State} {a0} (h : Dark s x) :
    Dark s (enterEq1 x a0) := by
  unfold enterEq1
  repeat' first
    | with_reducible assumption
    | with_reducible refine startSearches_dark ?_
    | with_reducible refine modLink_dark ?_
    | with_reducible refine abandonRamps_dark ?_
    | with_reducible refine ite_dark ?_ ?_
    | with_reducible refine foldl_dark ?_ (fun t a h => ?_)
    | with_reducible exact fun _ g => g
    | with_reducible exact fun _ _ => rfl
    | with_reducible exact fun n g => by (repeat' split) <;> first | exact g | rfl
    | dsimp -proj only
    | split

theorem enterEq2_dark {s x : State} {a0} (h : Dark s x) :
    Dark s (enterEq2 x a0) := by
  unfold enterEq2
  repeat' first
    | with_reducible assumption
    | with_reducible refine startSearches_dark ?_
    | with_reducible refine modLink_dark ?_
    | with_reducible refine endSearches_dark ?_
    | with_reducible refine abandonRamps_dark ?_
    | with_reducible refine ite_dark ?_ ?_
    | with_reducible refine foldl_dark ?_ (fun t a h => ?_)
    | with_reducible exact fun _ g => g
    | with_reducible exact fun _ _ => rfl
    | with_reducible exact fun n g => by (repeat' split) <;> first | exact g | rfl
    | dsimp -proj only
    | split

theorem advance06_dark {s x : State} {a0} (h : Dark s x) :
    Dark s (advance06 x a0) := by
  unfold advance06
  repeat' first
    | with_reducible assumption
    | with_reducible refine enterExchange_dark ?_
    | with_reducible refine enterLock_dark ?_
    | with_reducible refine enterEq1_dark ?_
    | with_reducible refine enterEq2_dark ?_
    | with_reducible refine ite_dark ?_ ?_
    | with_reducible refine foldl_dark ?_ (fun t a h => ?_)
    | with_reducible exact fun _ g => g
    | with_reducible exact fun _ _ => rfl
    | with_reducible exact fun n g => by (repeat' split) <;> first | exact g | rfl
    | dsimp -proj only
    | split

theorem execLnscanStart_dark {s x : State} {a0 a1 a2 a3} (h : Dark s x) :
    ∃ t, execLnscanStart a0 a1 a2 a3 x = .next t ∧ Dark s t := by
  unfold execLnscanStart
  repeat' first
    | with_reducible assumption
    | with_reducible refine done_dark ?_
    | with_reducible refine writeTo_dark ?_
    | with_reducible refine ite_dark ?_ ?_
    | with_reducible refine foldl_dark ?_ (fun t a h => ?_)
    | with_reducible exact fun _ g => g
    | with_reducible exact fun _ _ => rfl
    | with_reducible exact fun n g => by (repeat' split) <;> first | exact g | rfl
    | dsimp -proj only
    | split

theorem execAwlQueue_dark {s x : State} {a0 a1} (h : Dark s x) :
    ∃ t, execAwlQueue a0 a1 x = .next t ∧ Dark s t := by
  unfold execAwlQueue
  repeat' first
    | with_reducible assumption
    | with_reducible refine done_dark ?_
    | with_reducible refine writeTo_dark ?_
    | with_reducible refine ite_dark ?_ ?_
    | with_reducible refine foldl_dark ?_ (fun t a h => ?_)
    | with_reducible exact fun _ g => g
    | with_reducible exact fun _ _ => rfl
    | with_reducible exact fun n g => by (repeat' split) <;> first | exact g | rfl
    | dsimp -proj only
    | split

theorem fullUnit_dark {s x : State} (h : Dark s x) :
    Dark s (fullUnit x) := by
  unfold fullUnit
  try dsimp -zeta -proj only [upd_free]
  repeat' first
    | with_reducible assumption
    | with_reducible refine modCal_dark ?_
    | with_reducible refine putFree_dark ?_
    | with_reducible refine ite_dark ?_ ?_
    | with_reducible refine foldl_dark ?_ (fun t a h => ?_)
    | with_reducible exact fun _ g => g
    | with_reducible exact fun _ _ => rfl
    | with_reducible exact fun n g => by (repeat' split) <;> first | exact g | rfl
    | dsimp -proj only
    | split

theorem recalStep_dark {s x : State} {a0} (h : Dark s x) :
    Dark s (recalStep x a0) := by
  unfold recalStep
  repeat' first
    | with_reducible assumption
    | with_reducible refine fullUnit_dark ?_
    | with_reducible refine followStandin_dark ?_
    | with_reducible refine setStage_dark ?_
    | with_reducible refine stillUnit_dark ?_
    | with_reducible refine endRecal_dark ?_
    | with_reducible refine nextRecal_dark ?_
    | with_reducible refine keepUnit_dark ?_
    | with_reducible refine ite_dark ?_ ?_
    | with_reducible refine foldl_dark ?_ (fun t a h => ?_)
    | with_reducible exact fun _ g => g
    | with_reducible exact fun _ _ => rfl
    | with_reducible exact fun n g => by (repeat' split) <;> first | exact g | rfl
    | dsimp -proj only
    | split

theorem execRecalStep_dark {s x : State} {a0} (h : Dark s x) :
    ∃ t, execRecalStep a0 x = .next t ∧ Dark s t := by
  unfold execRecalStep
  repeat' first
    | with_reducible assumption
    | with_reducible refine done_dark ?_
    | with_reducible refine recalStep_dark ?_
    | with_reducible refine ite_dark ?_ ?_
    | with_reducible refine foldl_dark ?_ (fun t a h => ?_)
    | with_reducible exact fun _ g => g
    | with_reducible exact fun _ _ => rfl
    | with_reducible exact fun n g => by (repeat' split) <;> first | exact g | rfl
    | dsimp -proj only
    | split

theorem staleMos_dark {s x : State} {a0} (h : Dark s x) : Dark s (staleMos x a0) :=
  Dark.of_keeps (fun k hk => staleMos_keeps (a0 := a0) hk (k.same_refl x)) (by decide) h

theorem laneZeroIdle_dark {s x : State} {a0 a1} (h : Dark s x) :
    Dark s (laneZeroIdle x a0 a1) := by
  unfold laneZeroIdle
  repeat' first
    | with_reducible assumption
    | with_reducible refine enterDisabled_dark ?_
    | with_reducible refine modLink_dark ?_
    | with_reducible refine enterDetect_dark ?_
    | with_reducible refine ite_dark ?_ ?_
    | with_reducible refine foldl_dark ?_ (fun t a h => ?_)
    | with_reducible exact fun _ g => g
    | with_reducible exact fun _ _ => rfl
    | with_reducible exact fun n g => by (repeat' split) <;> first | exact g | rfl
    | dsimp -proj only
    | split

theorem execElectricalIdleDetected_dark {s x : State} {a0 a1} (h : Dark s x) :
    ∃ t, execElectricalIdleDetected a0 a1 x = .next t ∧ Dark s t := by
  unfold execElectricalIdleDetected
  repeat' first
    | with_reducible assumption
    | with_reducible refine done_dark ?_
    | with_reducible refine modRx_dark ?_
    | with_reducible refine laneZeroIdle_dark ?_
    | with_reducible refine ite_dark ?_ ?_
    | with_reducible refine foldl_dark ?_ (fun t a h => ?_)
    | with_reducible exact fun _ g => g
    | with_reducible exact fun _ _ => rfl
    | with_reducible exact fun n g => by (repeat' split) <;> first | exact g | rfl
    | dsimp -proj only
    | split

theorem holdSet_dark {s x : State} {a0 a1 a2} (h : Dark s x) :
    Dark s (holdSet x a0 a1 a2) := by
  unfold holdSet
  repeat' first
    | with_reducible assumption
    | with_reducible refine planSet_dark ?_
    | with_reducible refine ite_dark ?_ ?_
    | with_reducible refine foldl_dark ?_ (fun t a h => ?_)
    | with_reducible exact fun _ g => g
    | with_reducible exact fun _ _ => rfl
    | with_reducible exact fun n g => by (repeat' split) <;> first | exact g | rfl
    | dsimp -proj only
    | split

theorem writeRecord_dark {s x : State} {a0} (h : Dark s x) : Dark s (writeRecord x a0) :=
  Dark.of_keeps (fun k hk => writeRecord_keeps (a0 := a0) hk (k.same_refl x)) (by decide) h

theorem execCalrecWrite_dark {s x : State} {a0} (h : Dark s x) :
    ∃ t, execCalrecWrite a0 x = .next t ∧ Dark s t := by
  unfold execCalrecWrite
  repeat' first
    | with_reducible assumption
    | with_reducible refine done_dark ?_
    | with_reducible refine ownDone_dark ?_
    | with_reducible refine writeRecord_dark ?_
    | with_reducible refine ite_dark ?_ ?_
    | with_reducible refine foldl_dark ?_ (fun t a h => ?_)
    | with_reducible exact fun _ g => g
    | with_reducible exact fun _ _ => rfl
    | with_reducible exact fun n g => by (repeat' split) <;> first | exact g | rfl
    | dsimp -proj only
    | split

theorem execCqDisable_dark {s x : State} {a0 a1 a2} (h : Dark s x) :
    ∃ t, execCqDisable a0 a1 a2 x = .next t ∧ Dark s t := by
  unfold execCqDisable
  repeat' first
    | with_reducible assumption
    | with_reducible refine done_dark ?_
    | with_reducible refine writeTo_dark ?_
    | with_reducible refine ite_dark ?_ ?_
    | with_reducible refine foldl_dark ?_ (fun t a h => ?_)
    | with_reducible exact fun _ g => g
    | with_reducible exact fun _ _ => rfl
    | with_reducible exact fun n g => by (repeat' split) <;> first | exact g | rfl
    | dsimp -proj only
    | split

theorem logWork_dark {s x : State} {a0} (h : Dark s x) : Dark s (logWork x a0) :=
  Dark.of_keeps (fun k hk => logWork_keeps (a0 := a0) hk (k.same_refl x)) (by decide) h

theorem execNvmLogWrite_dark {s x : State} {a0} (h : Dark s x) :
    ∃ t, execNvmLogWrite a0 x = .next t ∧ Dark s t := by
  unfold execNvmLogWrite
  repeat' first
    | with_reducible assumption
    | with_reducible refine done_dark ?_
    | with_reducible refine ownDone_dark ?_
    | with_reducible refine logWork_dark ?_
    | with_reducible refine ite_dark ?_ ?_
    | with_reducible refine foldl_dark ?_ (fun t a h => ?_)
    | with_reducible exact fun _ g => g
    | with_reducible exact fun _ _ => rfl
    | with_reducible exact fun n g => by (repeat' split) <;> first | exact g | rfl
    | dsimp -proj only
    | split

theorem execTrainingSweepEnd_dark {s x : State} {a0 a1 a2 a3} (h : Dark s x) :
    ∃ t, execTrainingSweepEnd a0 a1 a2 a3 x = .next t ∧ Dark s t := by
  unfold execTrainingSweepEnd
  repeat' first
    | with_reducible assumption
    | with_reducible refine done_dark ?_
    | with_reducible refine modMeas_dark ?_
    | with_reducible refine ite_dark ?_ ?_
    | with_reducible refine foldl_dark ?_ (fun t a h => ?_)
    | with_reducible exact fun _ g => g
    | with_reducible exact fun _ _ => rfl
    | with_reducible exact fun n g => by (repeat' split) <;> first | exact g | rfl
    | dsimp -proj only
    | split

theorem modPower_dark {s x : State} {a0} (h : Dark s x) : Dark s (modPower x a0) :=
  Dark.of_keeps (fun k hk => modPower_keeps (a0 := a0) hk (k.same_refl x)) (by decide) h

theorem execWeltCauseClears_dark {s x : State} {a0} (h : Dark s x) :
    ∃ t, execWeltCauseClears a0 x = .next t ∧ Dark s t := by
  unfold execWeltCauseClears
  repeat' first
    | with_reducible assumption
    | with_reducible refine done_dark ?_
    | with_reducible refine settle_dark ?_
    | with_reducible refine modPower_dark ?_
    | with_reducible refine modPins_dark ?_
    | with_reducible refine ite_dark ?_ ?_
    | with_reducible refine foldl_dark ?_ (fun t a h => ?_)
    | with_reducible exact fun _ g => g
    | with_reducible exact fun _ _ => rfl
    | with_reducible exact fun n g => by (repeat' split) <;> first | exact g | rfl
    | dsimp -proj only
    | split

theorem execRegWrite_dark {s x : State} {a0 a1 a2 a3} (h : Dark s x) :
    ∃ t, execRegWrite a0 a1 a2 a3 x = .next t ∧ Dark s t := by
  unfold execRegWrite
  repeat' first
    | with_reducible assumption
    | with_reducible refine done_dark ?_
    | with_reducible refine busWrite_dark ?_
    | with_reducible refine upset_dark ?_
    | with_reducible refine ite_dark ?_ ?_
    | with_reducible refine foldl_dark ?_ (fun t a h => ?_)
    | with_reducible exact fun _ g => g
    | with_reducible exact fun _ _ => rfl
    | with_reducible exact fun n g => by (repeat' split) <;> first | exact g | rfl
    | dsimp -proj only
    | split

theorem execPrbsGenEnable_dark {s x : State} {a0 a1 a2 a3} (h : Dark s x) :
    ∃ t, execPrbsGenEnable a0 a1 a2 a3 x = .next t ∧ Dark s t := by
  unfold execPrbsGenEnable
  repeat' first
    | with_reducible assumption
    | with_reducible refine done_dark ?_
    | with_reducible refine writeTo_dark ?_
    | with_reducible refine ite_dark ?_ ?_
    | with_reducible refine foldl_dark ?_ (fun t a h => ?_)
    | with_reducible exact fun _ g => g
    | with_reducible exact fun _ _ => rfl
    | with_reducible exact fun n g => by (repeat' split) <;> first | exact g | rfl
    | dsimp -proj only
    | split

theorem execCalcmdSave_dark {s x : State} {a0 a1} (h : Dark s x) :
    ∃ t, execCalcmdSave a0 a1 x = .next t ∧ Dark s t := by
  unfold execCalcmdSave
  repeat' first
    | with_reducible assumption
    | with_reducible refine done_dark ?_
    | with_reducible refine writeTo_dark ?_
    | with_reducible refine ite_dark ?_ ?_
    | with_reducible refine foldl_dark ?_ (fun t a h => ?_)
    | with_reducible exact fun _ g => g
    | with_reducible exact fun _ _ => rfl
    | with_reducible exact fun n g => by (repeat' split) <;> first | exact g | rfl
    | dsimp -proj only
    | split

theorem execLnkctlDisable_dark {s x : State} {a0 a1 a2} (h : Dark s x) :
    ∃ t, execLnkctlDisable a0 a1 a2 x = .next t ∧ Dark s t := by
  unfold execLnkctlDisable
  repeat' first
    | with_reducible assumption
    | with_reducible refine done_dark ?_
    | with_reducible refine writeTo_dark ?_
    | with_reducible refine ite_dark ?_ ?_
    | with_reducible refine foldl_dark ?_ (fun t a h => ?_)
    | with_reducible exact fun _ g => g
    | with_reducible exact fun _ _ => rfl
    | with_reducible exact fun n g => by (repeat' split) <;> first | exact g | rfl
    | dsimp -proj only
    | split

theorem execSwingRaise_dark {s x : State} {a0 a1 a2} (h : Dark s x) :
    ∃ t, execSwingRaise a0 a1 a2 x = .next t ∧ Dark s t := by
  unfold execSwingRaise
  repeat' first
    | with_reducible assumption
    | with_reducible refine done_dark ?_
    | with_reducible refine modTx_dark ?_ ?_
    | with_reducible refine ite_dark ?_ ?_
    | with_reducible refine foldl_dark ?_ (fun t a h => ?_)
    | with_reducible exact fun _ g => g
    | with_reducible exact fun _ _ => rfl
    | with_reducible exact fun n g => by (repeat' split) <;> first | exact g | rfl
    | dsimp -proj only
    | split

theorem execSpareMosForwarded_dark {s x : State} {a0 a1} (h : Dark s x) :
    ∃ t, execSpareMosForwarded a0 a1 x = .next t ∧ Dark s t := by
  unfold execSpareMosForwarded
  repeat' first
    | with_reducible assumption
    | with_reducible refine done_dark ?_
    | with_reducible refine passSpare_dark ?_
    | with_reducible refine ite_dark ?_ ?_
    | with_reducible refine foldl_dark ?_ (fun t a h => ?_)
    | with_reducible exact fun _ g => g
    | with_reducible exact fun _ _ => rfl
    | with_reducible exact fun n g => by (repeat' split) <;> first | exact g | rfl
    | dsimp -proj only
    | split

theorem execPrbsJobInject_dark {s x : State} {a0 a1} (h : Dark s x) :
    ∃ t, execPrbsJobInject a0 a1 x = .next t ∧ Dark s t := by
  unfold execPrbsJobInject
  repeat' first
    | with_reducible assumption
    | with_reducible refine done_dark ?_
    | with_reducible refine injectOne_dark ?_
    | with_reducible refine ite_dark ?_ ?_
    | with_reducible refine foldl_dark ?_ (fun t a h => ?_)
    | with_reducible exact fun _ g => g
    | with_reducible exact fun _ _ => rfl
    | with_reducible exact fun n g => by (repeat' split) <;> first | exact g | rfl
    | dsimp -proj only
    | split

theorem modPrbsJob_dark {s x : State} {a0 a1 a2} (h : Dark s x) : Dark s (modPrbsJob x a0 a1 a2) :=
  Dark.of_keeps (fun k hk => modPrbsJob_keeps (a0 := a0) (a1 := a1) (a2 := a2) hk (k.same_refl x)) (by decide) h

theorem execPrbsCheckerLock_dark {s x : State} {a0 a1} (h : Dark s x) :
    ∃ t, execPrbsCheckerLock a0 a1 x = .next t ∧ Dark s t := by
  unfold execPrbsCheckerLock
  repeat' first
    | with_reducible assumption
    | with_reducible refine done_dark ?_
    | with_reducible refine modMeas_dark ?_
    | with_reducible refine modPrbsJob_dark ?_
    | with_reducible refine ite_dark ?_ ?_
    | with_reducible refine foldl_dark ?_ (fun t a h => ?_)
    | with_reducible exact fun _ g => g
    | with_reducible exact fun _ _ => rfl
    | with_reducible exact fun n g => by (repeat' split) <;> first | exact g | rfl
    | dsimp -proj only
    | split

theorem execTestEnHigh_dark {s x : State} (h : Dark s x) :
    ∃ t, execTestEnHigh x = .next t ∧ Dark s t := by
  unfold execTestEnHigh
  try dsimp -zeta -proj only [upd_boot_twb]
  repeat' first
    | with_reducible assumption
    | with_reducible refine done_dark ?_
    | with_reducible refine settle_dark ?_
    | with_reducible refine modPins_dark ?_
    | with_reducible refine putBoot_dark ?_
    | with_reducible refine putTwb_dark ?_
    | with_reducible refine ite_dark ?_ ?_
    | with_reducible refine foldl_dark ?_ (fun t a h => ?_)
    | with_reducible exact fun _ g => g
    | with_reducible exact fun _ _ => rfl
    | with_reducible exact fun n g => by (repeat' split) <;> first | exact g | rfl
    | dsimp -proj only
    | split

theorem restoreLane_dark {s x : State} {a0 a1 a2} (h : Dark s x) : Dark s (restoreLane x a0 a1 a2) :=
  Dark.of_keeps (fun k hk => restoreLane_keeps (a0 := a0) (a1 := a1) (a2 := a2) hk (k.same_refl x)) (by decide) h

theorem watchForward_dark {s x : State} {a0 a1 a2} (h : Dark s x) :
    Dark s (watchForward x a0 a1 a2) := by
  unfold watchForward
  repeat' first
    | with_reducible assumption
    | with_reducible refine modRx_dark ?_
    | with_reducible refine logLane_dark ?_
    | with_reducible refine setSpare_dark ?_
    | with_reducible refine ite_dark ?_ ?_
    | with_reducible refine foldl_dark ?_ (fun t a h => ?_)
    | with_reducible exact fun _ g => g
    | with_reducible exact fun _ _ => rfl
    | with_reducible exact fun n g => by (repeat' split) <;> first | exact g | rfl
    | dsimp -proj only
    | split

theorem watchSkew_dark {s x : State} {a0 a1 a2} (h : Dark s x) :
    Dark s (watchSkew x a0 a1 a2) := by
  unfold watchSkew
  repeat' first
    | with_reducible assumption
    | with_reducible refine restoreLane_dark ?_
    | with_reducible refine logL_dark ?_
    | with_reducible refine modRx_dark ?_
    | with_reducible refine watchForward_dark ?_
    | with_reducible refine requestRetrain_dark ?_
    | with_reducible refine ite_dark ?_ ?_
    | with_reducible refine foldl_dark ?_ (fun t a h => ?_)
    | with_reducible exact fun _ g => g
    | with_reducible exact fun _ _ => rfl
    | with_reducible exact fun n g => by (repeat' split) <;> first | exact g | rfl
    | dsimp -proj only
    | split

theorem fillSkip_dark {s x : State} {a0 a1 a2} (h : Dark s x) :
    Dark s (fillSkip x a0 a1 a2) := by
  unfold fillSkip
  repeat' first
    | with_reducible assumption
    | with_reducible refine modTx_dark ?_ ?_
    | with_reducible refine ite_dark ?_ ?_
    | with_reducible refine foldl_dark ?_ (fun t a h => ?_)
    | with_reducible exact fun _ g => g
    | with_reducible exact fun _ _ => rfl
    | with_reducible exact fun n g => by (repeat' split) <;> first | exact g | rfl
    | dsimp -proj only
    | split

theorem countEdit_dark {s x : State} {a0 a1 a2} (h : Dark s x) :
    Dark s (countEdit x a0 a1 a2) := by
  unfold countEdit
  repeat' first
    | with_reducible assumption
    | with_reducible refine modRx_dark ?_
    | with_reducible refine ite_dark ?_ ?_
    | with_reducible refine foldl_dark ?_ (fun t a h => ?_)
    | with_reducible exact fun _ g => g
    | with_reducible exact fun _ _ => rfl
    | with_reducible exact fun n g => by (repeat' split) <;> first | exact g | rfl
    | dsimp -proj only
    | split

theorem takeDecision_dark {s x : State} {a0 a1 a2} (h : Dark s x) :
    Dark s (takeDecision x a0 a1 a2) := by
  unfold takeDecision
  repeat' first
    | with_reducible assumption
    | with_reducible refine modRx_dark ?_
    | with_reducible refine countEdit_dark ?_
    | with_reducible refine ite_dark ?_ ?_
    | with_reducible refine foldl_dark ?_ (fun t a h => ?_)
    | with_reducible exact fun _ g => g
    | with_reducible exact fun _ _ => rfl
    | with_reducible exact fun n g => by (repeat' split) <;> first | exact g | rfl
    | dsimp -proj only
    | split

theorem editSet_dark {s x : State} {a0 a1 a2} (h : Dark s x) :
    Dark s (editSet x a0 a1 a2).2 := by
  unfold editSet
  repeat' first
    | with_reducible assumption
    | with_reducible refine takeDecision_dark ?_
    | with_reducible refine noteCopy_dark ?_
    | with_reducible refine modRx_dark ?_
    | with_reducible refine ite_dark ?_ ?_
    | with_reducible refine foldl_dark ?_ (fun t a h => ?_)
    | with_reducible exact fun _ g => g
    | with_reducible exact fun _ _ => rfl
    | with_reducible exact fun n g => by (repeat' split) <;> first | exact g | rfl
    | dsimp -proj only
    | split

theorem editSet_dark_eq {s x : State} {a0 a1 a2} {r u} (h : Dark s x) (e : editSet x a0 a1 a2 = (r, u)) :
    Dark s u := by
  simpa only [e] using editSet_dark (s := s) (x := x) (a0 := a0) (a1 := a1) (a2 := a2) h

theorem receiveSwitch_dark {s x : State} {a0 a1} (h : Dark s x) :
    Dark s (receiveSwitch x a0 a1) := by
  unfold receiveSwitch
  repeat' first
    | with_reducible assumption
    | with_reducible refine moveHold_dark ?_
    | with_reducible refine modLink_dark ?_
    | with_reducible refine setLost_dark ?_
    | with_reducible refine checkRecovered_dark ?_
    | with_reducible refine sendSpare_dark ?_
    | with_reducible refine ite_dark ?_ ?_
    | with_reducible refine foldl_dark ?_ (fun t a h => ?_)
    | with_reducible exact fun _ g => g
    | with_reducible exact fun _ _ => rfl
    | with_reducible exact fun n g => by (repeat' split) <;> first | exact g | rfl
    | dsimp -proj only
    | split

theorem swapSkip_dark {s x : State} {a0 a1 a2} (h : Dark s x) :
    Dark s (swapSkip x a0 a1 a2) := by
  unfold swapSkip
  repeat' first
    | with_reducible assumption
    | with_reducible refine modLink_dark ?_
    | with_reducible refine receiveSwitch_dark ?_
    | with_reducible refine failSwap_dark ?_
    | with_reducible refine setSpare_dark ?_
    | with_reducible refine ite_dark ?_ ?_
    | with_reducible refine foldl_dark ?_ (fun t a h => ?_)
    | with_reducible exact fun _ g => g
    | with_reducible exact fun _ _ => rfl
    | with_reducible exact fun n g => by (repeat' split) <;> first | exact g | rfl
    | dsimp -proj only
    | split

theorem execSkipSetArrives_dark {s x : State} {a0 a1 a2} (h : Dark s x) :
    ∃ t, execSkipSetArrives a0 a1 a2 x = .next t ∧ Dark s t := by
  unfold execSkipSetArrives
  repeat' first
    | with_reducible assumption
    | with_reducible refine done_dark ?_
    | with_reducible refine watchSkew_dark ?_
    | with_reducible refine fillSkip_dark ?_
    | with_reducible refine editSet_dark ?_
    | with_reducible refine editSet_dark_eq ?_ (by with_reducible assumption)
    | with_reducible refine swapSkip_dark ?_
    | with_reducible refine symbolAfterExchange_dark ?_
    | with_reducible refine ite_dark ?_ ?_
    | with_reducible refine foldl_dark ?_ (fun t a h => ?_)
    | with_reducible exact fun _ g => g
    | with_reducible exact fun _ _ => rfl
    | with_reducible exact fun n g => by (repeat' split) <;> first | exact g | rfl
    | dsimp -proj only
    | split

theorem holdLoop_dark {s x : State} {a0 a1} (h : Dark s x) :
    Dark s (holdLoop x a0 a1) := by
  unfold holdLoop
  repeat' first
    | with_reducible assumption
    | with_reducible refine modRx_dark ?_
    | with_reducible refine ite_dark ?_ ?_
    | with_reducible refine foldl_dark ?_ (fun t a h => ?_)
    | with_reducible exact fun _ g => g
    | with_reducible exact fun _ _ => rfl
    | with_reducible exact fun n g => by (repeat' split) <;> first | exact g | rfl
    | dsimp -proj only
    | split

theorem releaseForward_dark {s x : State} {a0 a1} (h : Dark s x) :
    Dark s (releaseForward x a0 a1) := by
  unfold releaseForward
  repeat' first
    | with_reducible assumption
    | with_reducible refine restSpare_dark ?_
    | with_reducible refine ite_dark ?_ ?_
    | with_reducible refine foldl_dark ?_ (fun t a h => ?_)
    | with_reducible exact fun _ g => g
    | with_reducible exact fun _ _ => rfl
    | with_reducible exact fun n g => by (repeat' split) <;> first | exact g | rfl
    | dsimp -proj only
    | split

theorem symLossRetrain_dark {s x : State} {a0 a1} (h : Dark s x) :
    Dark s (symLossRetrain x a0 a1) := by
  unfold symLossRetrain
  repeat' first
    | with_reducible assumption
    | with_reducible refine enterRetrain_dark ?_
    | with_reducible refine ite_dark ?_ ?_
    | with_reducible refine foldl_dark ?_ (fun t a h => ?_)
    | with_reducible exact fun _ g => g
    | with_reducible exact fun _ _ => rfl
    | with_reducible exact fun n g => by (repeat' split) <;> first | exact g | rfl
    | dsimp -proj only
    | split

theorem execCdrLockLost_dark {s x : State} {a0 a1} (h : Dark s x) :
    ∃ t, execCdrLockLost a0 a1 x = .next t ∧ Dark s t := by
  unfold execCdrLockLost
  repeat' first
    | with_reducible assumption
    | with_reducible refine done_dark ?_
    | with_reducible refine holdLoop_dark ?_
    | with_reducible refine rxLost_dark ?_
    | with_reducible refine releaseForward_dark ?_
    | with_reducible refine symLossRetrain_dark ?_
    | with_reducible refine dropCdr_dark ?_
    | with_reducible refine ite_dark ?_ ?_
    | with_reducible refine foldl_dark ?_ (fun t a h => ?_)
    | with_reducible exact fun _ g => g
    | with_reducible exact fun _ _ => rfl
    | with_reducible exact fun n g => by (repeat' split) <;> first | exact g | rfl
    | dsimp -proj only
    | split

theorem visitLine_dark {s x : State} (h : Dark s x) : Dark s (visitLine x) :=
  Dark.of_keeps (fun k hk => visitLine_keeps hk (k.same_refl x)) (by decide) h

theorem queueNotify_dark {s x : State} {a0} (h : Dark s x) : Dark s (queueNotify x a0) :=
  Dark.of_keeps (fun k hk => queueNotify_keeps (a0 := a0) hk (k.same_refl x)) (by decide) h

theorem execLntxdrvWrite_dark {s x : State} {a0 a1 a2 a3} (h : Dark s x) :
    ∃ t, execLntxdrvWrite a0 a1 a2 a3 x = .next t ∧ Dark s t := by
  unfold execLntxdrvWrite
  repeat' first
    | with_reducible assumption
    | with_reducible refine done_dark ?_
    | with_reducible refine writeTo_dark ?_
    | with_reducible refine ite_dark ?_ ?_
    | with_reducible refine foldl_dark ?_ (fun t a h => ?_)
    | with_reducible exact fun _ g => g
    | with_reducible exact fun _ _ => rfl
    | with_reducible exact fun n g => by (repeat' split) <;> first | exact g | rfl
    | dsimp -proj only
    | split

theorem execCalcmdGo_dark {s x : State} {a0 a1} (h : Dark s x) :
    ∃ t, execCalcmdGo a0 a1 x = .next t ∧ Dark s t := by
  unfold execCalcmdGo
  repeat' first
    | with_reducible assumption
    | with_reducible refine done_dark ?_
    | with_reducible refine writeTo_dark ?_
    | with_reducible refine ite_dark ?_ ?_
    | with_reducible refine foldl_dark ?_ (fun t a h => ?_)
    | with_reducible exact fun _ g => g
    | with_reducible exact fun _ _ => rfl
    | with_reducible exact fun n g => by (repeat' split) <;> first | exact g | rfl
    | dsimp -proj only
    | split

theorem execMove_dark {s x : State} {a0 a1} (h : Dark s x) :
    ∃ t, execMove a0 a1 x = .next t ∧ Dark s t := by
  unfold execMove
  repeat' first
    | with_reducible assumption
    | with_reducible refine done_dark ?_
    | with_reducible refine runBlock_dark ?_
    | with_reducible refine upset_dark ?_
    | with_reducible refine ite_dark ?_ ?_
    | with_reducible refine foldl_dark ?_ (fun t a h => ?_)
    | with_reducible exact fun _ g => g
    | with_reducible exact fun _ _ => rfl
    | with_reducible exact fun n g => by (repeat' split) <;> first | exact g | rfl
    | dsimp -proj only
    | split

theorem passTriggers_dark {s x : State} {a0} (h : Dark s x) :
    Dark s (passTriggers x a0) := by
  unfold passTriggers
  repeat' first
    | with_reducible assumption
    | with_reducible refine modCal_dark ?_
    | with_reducible refine ite_dark ?_ ?_
    | with_reducible refine foldl_dark ?_ (fun t a h => ?_)
    | with_reducible exact fun _ g => g
    | with_reducible exact fun _ _ => rfl
    | with_reducible exact fun n g => by (repeat' split) <;> first | exact g | rfl
    | dsimp -proj only
    | split

theorem addressByte_dark {s x : State} {a0 a1} (h : Dark s x) : Dark s (addressByte x a0 a1) :=
  Dark.of_keeps (fun k hk => addressByte_keeps (a0 := a0) (a1 := a1) hk (k.same_refl x)) (by decide) h

theorem moveTrim_dark {s x : State} {a0 a1 a2 a3} (h : Dark s x) :
    Dark s (moveTrim x a0 a1 a2 a3) := by
  unfold moveTrim
  repeat' first
    | with_reducible assumption
    | with_reducible refine modCal_dark ?_
    | with_reducible refine ite_dark ?_ ?_
    | with_reducible refine foldl_dark ?_ (fun t a h => ?_)
    | with_reducible exact fun _ g => g
    | with_reducible exact fun _ _ => rfl
    | with_reducible exact fun n g => by (repeat' split) <;> first | exact g | rfl
    | dsimp -proj only
    | split

theorem moveEq_dark {s x : State} {a0 a1 a2} (h : Dark s x) :
    Dark s (moveEq x a0 a1 a2) := by
  unfold moveEq
  repeat' first
    | with_reducible assumption
    | with_reducible refine modEq_dark ?_
    | with_reducible refine modJob_dark ?_
    | with_reducible refine ite_dark ?_ ?_
    | with_reducible refine foldl_dark ?_ (fun t a h => ?_)
    | with_reducible exact fun _ g => g
    | with_reducible exact fun _ _ => rfl
    | with_reducible exact fun n g => by (repeat' split) <;> first | exact g | rfl
    | dsimp -proj only
    | split

theorem swingStep_on (n : LaneTx) : (swingStep n).on = n.on := by
  unfold swingStep
  dsimp only
  repeat' split
  all_goals rfl

theorem trimStep_dark {s x : State} {a0 a1 a2} (h : Dark s x) :
    Dark s (trimStep x a0 a1 a2) := by
  unfold trimStep
  repeat' first
    | with_reducible assumption
    | with_reducible refine modEq_dark ?_
    | with_reducible refine modTx_dark ?_ ?_
    | with_reducible refine moveTrim_dark ?_
    | with_reducible refine moveEq_dark ?_
    | with_reducible refine ite_dark ?_ ?_
    | with_reducible refine foldl_dark ?_ (fun t a h => ?_)
    | with_reducible exact fun n g => (swingStep_on n).trans g
    | with_reducible exact fun _ g => g
    | with_reducible exact fun _ _ => rfl
    | with_reducible exact fun n g => by (repeat' split) <;> first | exact g | rfl
    | dsimp -proj only
    | split

theorem execTrimRampStep_dark {s x : State} {a0 a1 a2} (h : Dark s x) :
    ∃ t, execTrimRampStep a0 a1 a2 x = .next t ∧ Dark s t := by
  unfold execTrimRampStep
  repeat' first
    | with_reducible assumption
    | with_reducible refine done_dark ?_
    | with_reducible refine trimStep_dark ?_
    | with_reducible refine ite_dark ?_ ?_
    | with_reducible refine foldl_dark ?_ (fun t a h => ?_)
    | with_reducible exact fun _ g => g
    | with_reducible exact fun _ _ => rfl
    | with_reducible exact fun n g => by (repeat' split) <;> first | exact g | rfl
    | dsimp -proj only
    | split

theorem restoreTransparent_dark {s x : State} {a0 a1} (h : Dark s x) : Dark s (restoreTransparent x a0 a1) :=
  Dark.of_keeps (fun k hk => restoreTransparent_keeps (a0 := a0) (a1 := a1) hk (k.same_refl x)) (by decide) h

theorem padInstead_dark {s x : State} {a0 a1} (h : Dark s x) :
    Dark s (padInstead x a0 a1) := by
  unfold padInstead
  repeat' first
    | with_reducible assumption
    | with_reducible refine setSent_dark ?_
    | with_reducible refine planOwn_dark ?_
    | with_reducible refine ite_dark ?_ ?_
    | with_reducible refine foldl_dark ?_ (fun t a h => ?_)
    | with_reducible exact fun _ g => g
    | with_reducible exact fun _ _ => rfl
    | with_reducible exact fun n g => by (repeat' split) <;> first | exact g | rfl
    | dsimp -proj only
    | split

theorem serveWr_dark {s x : State} {a0 a1} (h : Dark s x) :
    Dark s (serveWr x a0 a1).2 := by
  unfold serveWr
  repeat' first
    | with_reducible assumption
    | with_reducible refine writeOpen_dark ?_
    | with_reducible refine logDenied_dark ?_
    | with_reducible refine ite_dark ?_ ?_
    | with_reducible refine foldl_dark ?_ (fun t a h => ?_)
    | with_reducible exact fun _ g => g
    | with_reducible exact fun _ _ => rfl
    | with_reducible exact fun n g => by (repeat' split) <;> first | exact g | rfl
    | dsimp -proj only
    | split

theorem serveWr_dark_eq {s x : State} {a0 a1} {r u} (h : Dark s x) (e : serveWr x a0 a1 = (r, u)) :
    Dark s u := by
  simpa only [e] using serveWr_dark (s := s) (x := x) (a0 := a0) (a1 := a1) h

theorem serveRd_dark {s x : State} {a0 a1} (h : Dark s x) : Dark s (serveRd x a0 a1).2 :=
  Dark.of_keeps (fun k hk => serveRd_keeps (a0 := a0) (a1 := a1) hk (k.same_refl x)) (by decide) h

theorem serveRd_dark_eq {s x : State} {a0 a1} {r u} (h : Dark s x) (e : serveRd x a0 a1 = (r, u)) :
    Dark s u := 
  Dark.of_keeps (fun k hk => serveRd_keeps_eq (a0 := a0) (a1 := a1) hk (k.same_refl x) e) (by decide) h

theorem queueResponse_dark {s x : State} {a0 a1} (h : Dark s x) : Dark s (queueResponse x a0 a1) :=
  Dark.of_keeps (fun k hk => queueResponse_keeps (a0 := a0) (a1 := a1) hk (k.same_refl x)) (by decide) h

theorem execute_dark {s x : State} {a0 a1 a2} (h : Dark s x) :
    Dark s (execute x a0 a1 a2) := by
  unfold execute
  repeat' first
    | with_reducible assumption
    | with_reducible refine serveWr_dark ?_
    | with_reducible refine serveWr_dark_eq ?_ (by with_reducible assumption)
    | with_reducible refine modSeq_dark ?_
    | with_reducible refine serveRd_dark ?_
    | with_reducible refine serveRd_dark_eq ?_ (by with_reducible assumption)
    | with_reducible refine queueResponse_dark ?_
    | with_reducible refine ite_dark ?_ ?_
    | with_reducible refine foldl_dark ?_ (fun t a h => ?_)
    | with_reducible exact fun _ g => g
    | with_reducible exact fun _ _ => rfl
    | with_reducible exact fun n g => by (repeat' split) <;> first | exact g | rfl
    | dsimp -proj only
    | split

theorem replay_dark {s x : State} {a0 a1 a2} (h : Dark s x) : Dark s (replay x a0 a1 a2) :=
  Dark.of_keeps (fun k hk => replay_keeps (a0 := a0) (a1 := a1) (a2 := a2) hk (k.same_refl x)) (by decide) h

theorem dropped_dark {s x : State} {a0} (h : Dark s x) : Dark s (dropped x a0) :=
  Dark.of_keeps (fun k hk => dropped_keeps (a0 := a0) hk (k.same_refl x)) (by decide) h

theorem request_dark {s x : State} {a0 a1 a2} (h : Dark s x) :
    Dark s (request x a0 a1 a2) := by
  unfold request
  repeat' first
    | with_reducible assumption
    | with_reducible refine execute_dark ?_
    | with_reducible refine replay_dark ?_
    | with_reducible refine dropped_dark ?_
    | with_reducible refine staleMos_dark ?_
    | with_reducible refine ite_dark ?_ ?_
    | with_reducible refine foldl_dark ?_ (fun t a h => ?_)
    | with_reducible exact fun _ g => g
    | with_reducible exact fun _ _ => rfl
    | with_reducible exact fun n g => by (repeat' split) <;> first | exact g | rfl
    | dsimp -proj only
    | split

theorem queueMos_dark {s x : State} {a0 a1 a2 a3 a4} (h : Dark s x) : Dark s (queueMos x a0 a1 a2 a3 a4) :=
  Dark.of_keeps (fun k hk => queueMos_keeps (a0 := a0) (a1 := a1) (a2 := a2) (a3 := a3) (a4 := a4) hk (k.same_refl x)) (by decide) h

theorem consumeMos_dark {s x : State} {a0 a1 a2} (h : Dark s x) :
    Dark s (consumeMos x a0 a1 a2) := by
  unfold consumeMos
  repeat' first
    | with_reducible assumption
    | with_reducible refine badMos_dark ?_
    | with_reducible refine request_dark ?_
    | with_reducible refine getD_dark (fun _ e => takeSpareRsp_dark_eq ?_ e) ?_
    | with_reducible refine takeSpareRsp_dark_eq ?_ (by with_reducible assumption)
    | with_reducible refine queueResponse_dark ?_
    | with_reducible refine queueMos_dark ?_
    | with_reducible refine noteMos_dark ?_
    | with_reducible refine ite_dark ?_ ?_
    | with_reducible refine foldl_dark ?_ (fun t a h => ?_)
    | with_reducible exact fun _ g => g
    | with_reducible exact fun _ _ => rfl
    | with_reducible exact fun n g => by (repeat' split) <;> first | exact g | rfl
    | dsimp -proj only
    | split

theorem crcMos_dark {s x : State} {a0} (h : Dark s x) : Dark s (crcMos x a0) :=
  Dark.of_keeps (fun k hk => crcMos_keeps (a0 := a0) hk (k.same_refl x)) (by decide) h

theorem mosIn_dark {s x : State} {a0 a1 a2} (h : Dark s x) :
    Dark s (mosIn x a0 a1 a2) := by
  unfold mosIn
  repeat' first
    | with_reducible assumption
    | with_reducible refine padInstead_dark ?_
    | with_reducible refine consumeMos_dark ?_
    | with_reducible refine crcMos_dark ?_
    | with_reducible refine setSent_dark ?_
    | with_reducible refine noteMos_dark ?_
    | with_reducible refine ite_dark ?_ ?_
    | with_reducible refine foldl_dark ?_ (fun t a h => ?_)
    | with_reducible exact fun _ g => g
    | with_reducible exact fun _ _ => rfl
    | with_reducible exact fun n g => by (repeat' split) <;> first | exact g | rfl
    | dsimp -proj only
    | split

theorem execMosReceived_dark {s x : State} {a0 a1 a2 a3} (h : Dark s x) :
    ∃ t, execMosReceived a0 a1 a2 a3 x = .next t ∧ Dark s t := by
  unfold execMosReceived
  repeat' first
    | with_reducible assumption
    | with_reducible refine done_dark ?_
    | with_reducible refine mosIn_dark ?_
    | with_reducible refine upset_dark ?_
    | with_reducible refine ite_dark ?_ ?_
    | with_reducible refine foldl_dark ?_ (fun t a h => ?_)
    | with_reducible exact fun _ g => g
    | with_reducible exact fun _ _ => rfl
    | with_reducible exact fun n g => by (repeat' split) <;> first | exact g | rfl
    | dsimp -proj only
    | split

theorem takeLinkRate_dark {s x : State} {a0 a1} (h : Dark s x) : Dark s (takeLinkRate x a0 a1) :=
  Dark.of_keeps (fun k hk => takeLinkRate_keeps (a0 := a0) (a1 := a1) hk (k.same_refl x)) (by decide) h

theorem execDtimeLoadNow_dark {s x : State} {a0 a1} (h : Dark s x) :
    ∃ t, execDtimeLoadNow a0 a1 x = .next t ∧ Dark s t := by
  unfold execDtimeLoadNow
  repeat' first
    | with_reducible assumption
    | with_reducible refine done_dark ?_
    | with_reducible refine writeTo_dark ?_
    | with_reducible refine ite_dark ?_ ?_
    | with_reducible refine foldl_dark ?_ (fun t a h => ?_)
    | with_reducible exact fun _ g => g
    | with_reducible exact fun _ _ => rfl
    | with_reducible exact fun n g => by (repeat' split) <;> first | exact g | rfl
    | dsimp -proj only
    | split

theorem modWin_dark {s x : State} {a0 a1} (h : Dark s x) : Dark s (modWin x a0 a1) :=
  Dark.of_keeps (fun k hk => modWin_keeps (a0 := a0) (a1 := a1) hk (k.same_refl x)) (by decide) h

theorem drainEnd_dark {s x : State} {a0} (h : Dark s x) : Dark s (drainEnd x a0) :=
  Dark.of_keeps (fun k hk => drainEnd_keeps (a0 := a0) hk (k.same_refl x)) (by decide) h

theorem homeStandins_dark {s x : State} (h : Dark s x) : Dark s (homeStandins x) :=
  Dark.of_keeps (fun k hk => homeStandins_keeps hk (k.same_refl x)) (by decide) h

theorem execRecalAborted_dark {s x : State} (h : Dark s x) :
    ∃ t, execRecalAborted x = .next t ∧ Dark s t := by
  unfold execRecalAborted
  repeat' first
    | with_reducible assumption
    | with_reducible refine done_dark ?_
    | with_reducible refine homeStandins_dark ?_
    | with_reducible refine abortRecal_dark ?_
    | with_reducible refine ite_dark ?_ ?_
    | with_reducible refine foldl_dark ?_ (fun t a h => ?_)
    | with_reducible exact fun _ g => g
    | with_reducible exact fun _ _ => rfl
    | with_reducible exact fun n g => by (repeat' split) <;> first | exact g | rfl
    | dsimp -proj only
    | split

theorem tick_dark {s x : State} (h : Dark s x) : Dark s (tick x) :=
  Dark.of_keeps (fun k hk => tick_keeps hk (k.same_refl x)) (by decide) h

theorem execVioSplitThreshold_dark {s x : State} (h : Dark s x) :
    ∃ t, execVioSplitThreshold x = .next t ∧ Dark s t := by
  unfold execVioSplitThreshold
  repeat' first
    | with_reducible assumption
    | with_reducible refine done_dark ?_
    | with_reducible refine modPower_dark ?_
    | with_reducible refine ite_dark ?_ ?_
    | with_reducible refine foldl_dark ?_ (fun t a h => ?_)
    | with_reducible exact fun _ g => g
    | with_reducible exact fun _ _ => rfl
    | with_reducible exact fun n g => by (repeat' split) <;> first | exact g | rfl
    | dsimp -proj only
    | split

theorem resendRelease_dark {s x : State} {a0 a1 a2} (h : Dark s x) : Dark s (resendRelease x a0 a1 a2) :=
  Dark.of_keeps (fun k hk => resendRelease_keeps (a0 := a0) (a1 := a1) (a2 := a2) hk (k.same_refl x)) (by decide) h

theorem lostPage_dark {s x : State} {a0 a1 a2 a3} (h : Dark s x) : Dark s (lostPage x a0 a1 a2 a3) :=
  Dark.of_keeps (fun k hk => lostPage_keeps (a0 := a0) (a1 := a1) (a2 := a2) (a3 := a3) hk (k.same_refl x)) (by decide) h

theorem execCaptureLostPage_dark {s x : State} {a0} (h : Dark s x) :
    ∃ t, execCaptureLostPage a0 x = .next t ∧ Dark s t := by
  unfold execCaptureLostPage
  repeat' first
    | with_reducible assumption
    | with_reducible refine done_dark ?_
    | with_reducible refine lostPage_dark ?_
    | with_reducible refine ite_dark ?_ ?_
    | with_reducible refine foldl_dark ?_ (fun t a h => ?_)
    | with_reducible exact fun _ g => g
    | with_reducible exact fun _ _ => rfl
    | with_reducible exact fun n g => by (repeat' split) <;> first | exact g | rfl
    | dsimp -proj only
    | split

theorem readRecord_dark {s x : State} {a0} (h : Dark s x) : Dark s (readRecord x a0).2 :=
  Dark.of_keeps (fun k hk => readRecord_keeps (a0 := a0) hk (k.same_refl x)) (by decide) h

theorem readRecord_dark_eq {s x : State} {a0} {r u} (h : Dark s x) (e : readRecord x a0 = (r, u)) :
    Dark s u := 
  Dark.of_keeps (fun k hk => readRecord_keeps_eq (a0 := a0) hk (k.same_refl x) e) (by decide) h

theorem staleAll_dark {s x : State} (h : Dark s x) : Dark s (staleAll x) :=
  Dark.of_keeps (fun k hk => staleAll_keeps hk (k.same_refl x)) (by decide) h

theorem lockPlls_dark {s x : State} {a0} (h : Dark s x) : Dark s (lockPlls x a0) :=
  Dark.of_keeps (fun k hk => lockPlls_keeps (a0 := a0) hk (k.same_refl x)) (by decide) h

theorem calibrateLanes_dark {s x : State} {a0 a1 a2} (h : Dark s x) : Dark s (calibrateLanes x a0 a1 a2) := by
  have e : ∀ (y : State) (c : CalSt) (f : Nat), { y with cal := c, free := f } = (y.putCal c).putFree f :=
    fun _ _ _ => rfl
  unfold calibrateLanes
  simp -zeta -proj only [e]
  extract_lets f s1 g c cal
  have hs : Dark s s1 := foldl_dark h fun t q hq => modCal_dark hq
  clear_value s1
  exact putFree_dark (putCal_dark hs)

theorem calibrate_dark {s x : State} {a0} (h : Dark s x) :
    Dark s (calibrate x a0) := by
  unfold calibrate
  try dsimp -zeta -proj only [upd_boot_cal]
  repeat' first
    | with_reducible assumption
    | with_reducible refine logEvent_dark ?_
    | with_reducible refine readRecord_dark ?_
    | with_reducible refine readRecord_dark_eq ?_ (by with_reducible assumption)
    | with_reducible refine staleAll_dark ?_
    | with_reducible refine modLane_dark ?_ ?_
    | with_reducible refine lockPlls_dark ?_
    | with_reducible refine calibrateLanes_dark ?_
    | with_reducible refine putBoot_dark ?_
    | with_reducible refine putCal_dark ?_
    | with_reducible refine ite_dark ?_ ?_
    | with_reducible refine foldl_dark ?_ (fun t a h => ?_)
    | with_reducible exact fun n g => (loadLane_on _ _ _ n).trans g
    | with_reducible exact fun _ g => g
    | with_reducible exact fun _ _ => rfl
    | with_reducible exact fun n g => by (repeat' split) <;> first | exact g | rfl
    | dsimp -proj only
    | split

theorem execBootCalibration_dark {s x : State} {a0} (h : Dark s x) :
    ∃ t, execBootCalibration a0 x = .next t ∧ Dark s t := by
  unfold execBootCalibration
  repeat' first
    | with_reducible assumption
    | with_reducible refine done_dark ?_
    | with_reducible refine calibrate_dark ?_
    | with_reducible refine ite_dark ?_ ?_
    | with_reducible refine foldl_dark ?_ (fun t a h => ?_)
    | with_reducible exact fun _ g => g
    | with_reducible exact fun _ _ => rfl
    | with_reducible exact fun n g => by (repeat' split) <;> first | exact g | rfl
    | dsimp -proj only
    | split

theorem sleepDir_dark {s x : State} {a0 a1} (h : Dark s x) :
    Dark s (sleepDir x a0 a1) := by
  unfold sleepDir
  repeat' first
    | with_reducible assumption
    | with_reducible refine dropCdr_dark ?_
    | with_reducible refine ite_dark ?_ ?_
    | with_reducible refine foldl_dark ?_ (fun t a h => ?_)
    | with_reducible exact fun _ g => g
    | with_reducible exact fun _ _ => rfl
    | with_reducible exact fun n g => by (repeat' split) <;> first | exact g | rfl
    | dsimp -proj only
    | split

theorem idleEntry_dark {s x : State} {a0 a1} (h : Dark s x) :
    Dark s (idleEntry x a0 a1) := by
  unfold idleEntry
  repeat' first
    | with_reducible assumption
    | with_reducible refine modLink_dark ?_
    | with_reducible refine enterRetrain_dark ?_
    | with_reducible refine sleepDir_dark ?_
    | with_reducible refine ite_dark ?_ ?_
    | with_reducible refine foldl_dark ?_ (fun t a h => ?_)
    | with_reducible exact fun _ g => g
    | with_reducible exact fun _ _ => rfl
    | with_reducible exact fun n g => by (repeat' split) <;> first | exact g | rfl
    | dsimp -proj only
    | split

theorem execDevctlThermRearm_dark {s x : State} {a0 a1} (h : Dark s x) :
    ∃ t, execDevctlThermRearm a0 a1 x = .next t ∧ Dark s t := by
  unfold execDevctlThermRearm
  repeat' first
    | with_reducible assumption
    | with_reducible refine done_dark ?_
    | with_reducible refine writeTo_dark ?_
    | with_reducible refine ite_dark ?_ ?_
    | with_reducible refine foldl_dark ?_ (fun t a h => ?_)
    | with_reducible exact fun _ g => g
    | with_reducible exact fun _ _ => rfl
    | with_reducible exact fun n g => by (repeat' split) <;> first | exact g | rfl
    | dsimp -proj only
    | split

theorem revertWorse_dark {s x : State} {a0} (h : Dark s x) :
    Dark s (revertWorse x a0) := by
  unfold revertWorse
  repeat' first
    | with_reducible assumption
    | with_reducible refine logL_dark ?_
    | with_reducible refine revertUnit_dark ?_
    | with_reducible refine modCal_dark ?_
    | with_reducible refine ite_dark ?_ ?_
    | with_reducible refine foldl_dark ?_ (fun t a h => ?_)
    | with_reducible exact fun _ g => g
    | with_reducible exact fun _ _ => rfl
    | with_reducible exact fun n g => by (repeat' split) <;> first | exact g | rfl
    | dsimp -proj only
    | split

theorem qualityCheck_dark {s x : State} {a0 a1 a2 a3} (h : Dark s x) :
    Dark s (qualityCheck x a0 a1 a2 a3) := by
  unfold qualityCheck
  repeat' first
    | with_reducible assumption
    | with_reducible refine revertWorse_dark ?_
    | with_reducible refine followStandin_dark ?_
    | with_reducible refine setStage_dark ?_
    | with_reducible refine endRecal_dark ?_
    | with_reducible refine nextRecal_dark ?_
    | with_reducible refine keepUnit_dark ?_
    | with_reducible refine ite_dark ?_ ?_
    | with_reducible refine foldl_dark ?_ (fun t a h => ?_)
    | with_reducible exact fun _ g => g
    | with_reducible exact fun _ _ => rfl
    | with_reducible exact fun n g => by (repeat' split) <;> first | exact g | rfl
    | dsimp -proj only
    | split

theorem joinLink_dark {s x : State} {a0} (h : Dark s x) :
    Dark s (joinLink x a0) := by
  unfold joinLink
  repeat' first
    | with_reducible assumption
    | with_reducible refine modLink_dark ?_
    | with_reducible refine enterDetect_dark ?_
    | with_reducible refine checkRecovered_dark ?_
    | with_reducible refine ite_dark ?_ ?_
    | with_reducible refine foldl_dark ?_ (fun t a h => ?_)
    | with_reducible exact fun _ g => g
    | with_reducible exact fun _ _ => rfl
    | with_reducible exact fun n g => by (repeat' split) <;> first | exact g | rfl
    | dsimp -proj only
    | split

theorem joinIfOpen_dark {s x : State} {a0} (h : Dark s x) :
    Dark s (joinIfOpen x a0) := by
  unfold joinIfOpen
  repeat' first
    | with_reducible assumption
    | with_reducible refine joinLink_dark ?_
    | with_reducible refine ite_dark ?_ ?_
    | with_reducible refine foldl_dark ?_ (fun t a h => ?_)
    | with_reducible exact fun _ g => g
    | with_reducible exact fun _ _ => rfl
    | with_reducible exact fun n g => by (repeat' split) <;> first | exact g | rfl
    | dsimp -proj only
    | split

theorem execPllRelockAttempt_dark {s x : State} {a0 a1} (h : Dark s x) :
    ∃ t, execPllRelockAttempt a0 a1 x = .next t ∧ Dark s t := by
  unfold execPllRelockAttempt
  try dsimp -zeta -proj only [upd_power]
  repeat' first
    | with_reducible assumption
    | with_reducible refine done_dark ?_
    | with_reducible refine restoreTransparent_dark ?_
    | with_reducible refine lockPlls_dark ?_
    | with_reducible refine putPower_dark ?_
    | with_reducible refine ite_dark ?_ ?_
    | with_reducible refine foldl_dark ?_ (fun t a h => ?_)
    | with_reducible exact fun _ g => g
    | with_reducible exact fun _ _ => rfl
    | with_reducible exact fun n g => by (repeat' split) <;> first | exact g | rfl
    | dsimp -proj only
    | split

theorem execReceiverDetect_dark {s x : State} {a0 a1 a2} (h : Dark s x) :
    ∃ t, execReceiverDetect a0 a1 a2 x = .next t ∧ Dark s t := by
  unfold execReceiverDetect
  repeat' first
    | with_reducible assumption
    | with_reducible refine done_dark ?_
    | with_reducible refine modLink_dark ?_
    | with_reducible refine ite_dark ?_ ?_
    | with_reducible refine foldl_dark ?_ (fun t a h => ?_)
    | with_reducible exact fun _ g => g
    | with_reducible exact fun _ _ => rfl
    | with_reducible exact fun n g => by (repeat' split) <;> first | exact g | rfl
    | dsimp -proj only
    | split

theorem releaseReset_dark {s x : State} {a0} (h : Dark s x) : Dark s (releaseReset x a0) :=
  Dark.of_keeps (fun k hk => releaseReset_keeps (a0 := a0) hk (k.same_refl x)) (by decide) h

theorem programBlock_dark {s x : State} {a0 a1} (h : Dark s x) : Dark s (programBlock x a0 a1) :=
  Dark.of_keeps (fun k hk => programBlock_keeps (a0 := a0) (a1 := a1) hk (k.same_refl x)) (by decide) h

theorem execNvmProgram_dark {s x : State} {a0} (h : Dark s x) :
    ∃ t, execNvmProgram a0 x = .next t ∧ Dark s t := by
  unfold execNvmProgram
  repeat' first
    | with_reducible assumption
    | with_reducible refine done_dark ?_
    | with_reducible refine programBlock_dark ?_
    | with_reducible refine ownDone_dark ?_
    | with_reducible refine upset_dark ?_
    | with_reducible refine ite_dark ?_ ?_
    | with_reducible refine foldl_dark ?_ (fun t a h => ?_)
    | with_reducible exact fun _ g => g
    | with_reducible exact fun _ _ => rfl
    | with_reducible exact fun n g => by (repeat' split) <;> first | exact g | rfl
    | dsimp -proj only
    | split

theorem execLnkctlRetrain_dark {s x : State} {a0 a1 a2} (h : Dark s x) :
    ∃ t, execLnkctlRetrain a0 a1 a2 x = .next t ∧ Dark s t := by
  unfold execLnkctlRetrain
  repeat' first
    | with_reducible assumption
    | with_reducible refine done_dark ?_
    | with_reducible refine writeTo_dark ?_
    | with_reducible refine ite_dark ?_ ?_
    | with_reducible refine foldl_dark ?_ (fun t a h => ?_)
    | with_reducible exact fun _ g => g
    | with_reducible exact fun _ _ => rfl
    | with_reducible exact fun n g => by (repeat' split) <;> first | exact g | rfl
    | dsimp -proj only
    | split

theorem railOutside_dark {s x : State} {a0} (h : Dark s x) : Dark s (railOutside x a0) :=
  Dark.of_keeps (fun k hk => railOutside_keeps (a0 := a0) hk (k.same_refl x)) (by decide) h

theorem execSupplyOutOfWindow_dark {s x : State} {a0} (h : Dark s x) :
    ∃ t, execSupplyOutOfWindow a0 x = .next t ∧ Dark s t := by
  unfold execSupplyOutOfWindow
  repeat' first
    | with_reducible assumption
    | with_reducible refine done_dark ?_
    | with_reducible refine railOutside_dark ?_
    | with_reducible refine ite_dark ?_ ?_
    | with_reducible refine foldl_dark ?_ (fun t a h => ?_)
    | with_reducible exact fun _ g => g
    | with_reducible exact fun _ _ => rfl
    | with_reducible exact fun n g => by (repeat' split) <;> first | exact g | rfl
    | dsimp -proj only
    | split

theorem execChargePumpReady_dark {s x : State} (h : Dark s x) :
    ∃ t, execChargePumpReady x = .next t ∧ Dark s t := by
  unfold execChargePumpReady
  repeat' first
    | with_reducible assumption
    | with_reducible refine done_dark ?_
    | with_reducible refine settle_dark ?_
    | with_reducible refine modPower_dark ?_
    | with_reducible refine ite_dark ?_ ?_
    | with_reducible refine foldl_dark ?_ (fun t a h => ?_)
    | with_reducible exact fun _ g => g
    | with_reducible exact fun _ _ => rfl
    | with_reducible exact fun n g => by (repeat' split) <;> first | exact g | rfl
    | dsimp -proj only
    | split

theorem programUnit_dark {s x : State} {a0 a1 a2} (h : Dark s x) : Dark s (programUnit x a0 a1 a2) :=
  Dark.of_keeps (fun k hk => programUnit_keeps (a0 := a0) (a1 := a1) (a2 := a2) hk (k.same_refl x)) (by decide) h

theorem ownUnit_dark {s x : State} {a0 a1 a2} (h : Dark s x) : Dark s (ownUnit x a0 a1 a2) :=
  Dark.of_keeps (fun k hk => ownUnit_keeps (a0 := a0) (a1 := a1) (a2 := a2) hk (k.same_refl x)) (by decide) h

theorem execNvmUnitProgrammed_dark {s x : State} {a0} (h : Dark s x) :
    ∃ t, execNvmUnitProgrammed a0 x = .next t ∧ Dark s t := by
  unfold execNvmUnitProgrammed
  repeat' first
    | with_reducible assumption
    | with_reducible refine programUnit_dark ?_
    | with_reducible refine ownUnit_dark ?_
    | with_reducible refine done_dark ?_
    | with_reducible refine ite_dark ?_ ?_
    | with_reducible refine foldl_dark ?_ (fun t a h => ?_)
    | with_reducible exact fun _ g => g
    | with_reducible exact fun _ _ => rfl
    | with_reducible exact fun n g => by (repeat' split) <;> first | exact g | rfl
    | dsimp -proj only
    | split

theorem execBootDone_dark {s x : State} (h : Dark s x) :
    ∃ t, execBootDone x = .next t ∧ Dark s t := by
  unfold execBootDone
  try dsimp -zeta -proj only [upd_boot]
  repeat' first
    | with_reducible assumption
    | with_reducible refine done_dark ?_
    | with_reducible refine settle_dark ?_
    | with_reducible refine putBoot_dark ?_
    | with_reducible refine ite_dark ?_ ?_
    | with_reducible refine foldl_dark ?_ (fun t a h => ?_)
    | with_reducible exact fun _ g => g
    | with_reducible exact fun _ _ => rfl
    | with_reducible exact fun n g => by (repeat' split) <;> first | exact g | rfl
    | dsimp -proj only
    | split

theorem execLoopNearParallel_dark {s x : State} {a0 a1 a2 a3} (h : Dark s x) :
    ∃ t, execLoopNearParallel a0 a1 a2 a3 x = .next t ∧ Dark s t := by
  unfold execLoopNearParallel
  repeat' first
    | with_reducible assumption
    | with_reducible refine done_dark ?_
    | with_reducible refine writeTo_dark ?_
    | with_reducible refine ite_dark ?_ ?_
    | with_reducible refine foldl_dark ?_ (fun t a h => ?_)
    | with_reducible exact fun _ g => g
    | with_reducible exact fun _ _ => rfl
    | with_reducible exact fun n g => by (repeat' split) <;> first | exact g | rfl
    | dsimp -proj only
    | split

theorem execMosRd_dark {s x : State} {a0 a1 a2 a3 a4 a5} (h : Dark s x) :
    ∃ t, execMosRd a0 a1 a2 a3 a4 a5 x = .next t ∧ Dark s t := by
  unfold execMosRd
  repeat' first
    | with_reducible assumption
    | with_reducible refine done_dark ?_
    | with_reducible refine mosIn_dark ?_
    | with_reducible refine upset_dark ?_
    | with_reducible refine ite_dark ?_ ?_
    | with_reducible refine foldl_dark ?_ (fun t a h => ?_)
    | with_reducible exact fun _ g => g
    | with_reducible exact fun _ _ => rfl
    | with_reducible exact fun n g => by (repeat' split) <;> first | exact g | rfl
    | dsimp -proj only
    | split

theorem execImcSend_dark {s x : State} (h : Dark s x) :
    ∃ t, execImcSend x = .next t ∧ Dark s t := by
  unfold execImcSend
  repeat' first
    | with_reducible assumption
    | with_reducible refine done_dark ?_
    | with_reducible refine sendStart_dark ?_
    | with_reducible refine ite_dark ?_ ?_
    | with_reducible refine foldl_dark ?_ (fun t a h => ?_)
    | with_reducible exact fun _ g => g
    | with_reducible exact fun _ _ => rfl
    | with_reducible exact fun n g => by (repeat' split) <;> first | exact g | rfl
    | dsimp -proj only
    | split

theorem endFence_dark {s x : State} {a0} (h : Dark s x) : Dark s (endFence x a0) :=
  Dark.of_keeps (fun k hk => endFence_keeps (a0 := a0) hk (k.same_refl x)) (by decide) h

theorem execFence_dark {s x : State} {a0} (h : Dark s x) :
    ∃ t, execFence a0 x = .next t ∧ Dark s t := by
  unfold execFence
  repeat' first
    | with_reducible assumption
    | with_reducible refine done_dark ?_
    | with_reducible refine endFence_dark ?_
    | with_reducible refine beginFence_dark ?_
    | with_reducible refine ite_dark ?_ ?_
    | with_reducible refine foldl_dark ?_ (fun t a h => ?_)
    | with_reducible exact fun _ g => g
    | with_reducible exact fun _ _ => rfl
    | with_reducible exact fun n g => by (repeat' split) <;> first | exact g | rfl
    | dsimp -proj only
    | split

theorem execPrbsInject_dark {s x : State} {a0 a1 a2 a3} (h : Dark s x) :
    ∃ t, execPrbsInject a0 a1 a2 a3 x = .next t ∧ Dark s t := by
  unfold execPrbsInject
  repeat' first
    | with_reducible assumption
    | with_reducible refine done_dark ?_
    | with_reducible refine writeTo_dark ?_
    | with_reducible refine ite_dark ?_ ?_
    | with_reducible refine foldl_dark ?_ (fun t a h => ?_)
    | with_reducible exact fun _ g => g
    | with_reducible exact fun _ _ => rfl
    | with_reducible exact fun n g => by (repeat' split) <;> first | exact g | rfl
    | dsimp -proj only
    | split

theorem evaluateUnits_dark {s x : State} (h : Dark s x) :
    Dark s (evaluateUnits x) := by
  unfold evaluateUnits
  try dsimp -zeta -proj only [upd_cal]
  repeat' first
    | with_reducible assumption
    | with_reducible refine passTriggers_dark ?_
    | with_reducible refine putCal_dark ?_
    | with_reducible refine ite_dark ?_ ?_
    | with_reducible refine foldl_dark ?_ (fun t a h => ?_)
    | with_reducible exact fun _ g => g
    | with_reducible exact fun _ _ => rfl
    | with_reducible exact fun n g => by (repeat' split) <;> first | exact g | rfl
    | dsimp -proj only
    | split

theorem execLastSelection_dark {s x : State} (h : Dark s x) :
    ∃ t, execLastSelection x = .next t ∧ Dark s t := by
  unfold execLastSelection
  repeat' first
    | with_reducible assumption
    | with_reducible refine done_dark ?_
    | with_reducible refine selectLast_dark ?_
    | with_reducible refine ite_dark ?_ ?_
    | with_reducible refine foldl_dark ?_ (fun t a h => ?_)
    | with_reducible exact fun _ g => g
    | with_reducible exact fun _ _ => rfl
    | with_reducible exact fun n g => by (repeat' split) <;> first | exact g | rfl
    | dsimp -proj only
    | split

theorem execCommitRollback_dark {s x : State} {a0} (h : Dark s x) :
    ∃ t, execCommitRollback a0 x = .next t ∧ Dark s t := by
  unfold execCommitRollback
  repeat' first
    | with_reducible assumption
    | with_reducible refine done_dark ?_
    | with_reducible refine rollback_dark ?_
    | with_reducible refine ite_dark ?_ ?_
    | with_reducible refine foldl_dark ?_ (fun t a h => ?_)
    | with_reducible exact fun _ g => g
    | with_reducible exact fun _ _ => rfl
    | with_reducible exact fun n g => by (repeat' split) <;> first | exact g | rfl
    | dsimp -proj only
    | split

theorem headerFault_dark {s x : State} {a0 a1 a2} (h : Dark s x) : Dark s (headerFault x a0 a1 a2) :=
  Dark.of_keeps (fun k hk => headerFault_keeps (a0 := a0) (a1 := a1) (a2 := a2) hk (k.same_refl x)) (by decide) h

theorem modTwb_dark {s x : State} {a0} (h : Dark s x) : Dark s (modTwb x a0) :=
  Dark.of_keeps (fun k hk => modTwb_keeps (a0 := a0) hk (k.same_refl x)) (by decide) h

theorem execTwbLate_dark {s x : State} (h : Dark s x) :
    ∃ t, execTwbLate x = .next t ∧ Dark s t := by
  unfold execTwbLate
  repeat' first
    | with_reducible assumption
    | with_reducible refine modTwb_dark ?_
    | with_reducible refine done_dark ?_
    | with_reducible refine ite_dark ?_ ?_
    | with_reducible refine foldl_dark ?_ (fun t a h => ?_)
    | with_reducible exact fun _ g => g
    | with_reducible exact fun _ _ => rfl
    | with_reducible exact fun n g => by (repeat' split) <;> first | exact g | rfl
    | dsimp -proj only
    | split

theorem execResetRelease_dark {s x : State} {a0} (h : Dark s x) :
    ∃ t, execResetRelease a0 x = .next t ∧ Dark s t := by
  unfold execResetRelease
  repeat' first
    | with_reducible assumption
    | with_reducible refine done_dark ?_
    | with_reducible refine settle_dark ?_
    | with_reducible refine releaseReset_dark ?_
    | with_reducible refine ite_dark ?_ ?_
    | with_reducible refine foldl_dark ?_ (fun t a h => ?_)
    | with_reducible exact fun _ g => g
    | with_reducible exact fun _ _ => rfl
    | with_reducible exact fun n g => by (repeat' split) <;> first | exact g | rfl
    | dsimp -proj only
    | split

theorem execDevctlStandby_dark {s x : State} {a0 a1} (h : Dark s x) :
    ∃ t, execDevctlStandby a0 a1 x = .next t ∧ Dark s t := by
  unfold execDevctlStandby
  repeat' first
    | with_reducible assumption
    | with_reducible refine done_dark ?_
    | with_reducible refine writeTo_dark ?_
    | with_reducible refine ite_dark ?_ ?_
    | with_reducible refine foldl_dark ?_ (fun t a h => ?_)
    | with_reducible exact fun _ g => g
    | with_reducible exact fun _ _ => rfl
    | with_reducible exact fun n g => by (repeat' split) <;> first | exact g | rfl
    | dsimp -proj only
    | split

theorem tendLog_dark {s x : State} (h : Dark s x) : Dark s (tendLog x) :=
  Dark.of_keeps (fun k hk => tendLog_keeps hk (k.same_refl x)) (by decide) h

theorem eyeAlarm_dark {s x : State} {a0 a1} (h : Dark s x) :
    Dark s (eyeAlarm x a0 a1) := by
  unfold eyeAlarm
  repeat' first
    | with_reducible assumption
    | with_reducible refine logL_dark ?_
    | with_reducible refine modMeas_dark ?_
    | with_reducible refine ite_dark ?_ ?_
    | with_reducible refine foldl_dark ?_ (fun t a h => ?_)
    | with_reducible exact fun _ g => g
    | with_reducible exact fun _ _ => rfl
    | with_reducible exact fun n g => by (repeat' split) <;> first | exact g | rfl
    | dsimp -proj only
    | split

theorem syncSeen_dark {s x : State} (h : Dark s x) : Dark s (syncSeen x) :=
  Dark.of_keeps (fun k hk => syncSeen_keeps hk (k.same_refl x)) (by decide) h

theorem execImcNoSlot_dark {s x : State} (h : Dark s x) :
    ∃ t, execImcNoSlot x = .next t ∧ Dark s t := by
  unfold execImcNoSlot
  repeat' first
    | with_reducible assumption
    | with_reducible refine done_dark ?_
    | with_reducible refine finishWith_dark ?_
    | with_reducible refine dropSend_dark ?_
    | with_reducible refine ite_dark ?_ ?_
    | with_reducible refine foldl_dark ?_ (fun t a h => ?_)
    | with_reducible exact fun _ g => g
    | with_reducible exact fun _ _ => rfl
    | with_reducible exact fun n g => by (repeat' split) <;> first | exact g | rfl
    | dsimp -proj only
    | split

theorem execRateDiscard_dark {s x : State} {a0} (h : Dark s x) :
    ∃ t, execRateDiscard a0 x = .next t ∧ Dark s t := by
  unfold execRateDiscard
  repeat' first
    | with_reducible assumption
    | with_reducible refine done_dark ?_
    | with_reducible refine modLink_dark ?_
    | with_reducible refine ite_dark ?_ ?_
    | with_reducible refine foldl_dark ?_ (fun t a h => ?_)
    | with_reducible exact fun _ g => g
    | with_reducible exact fun _ _ => rfl
    | with_reducible exact fun n g => by (repeat' split) <;> first | exact g | rfl
    | dsimp -proj only
    | split

theorem teleStep_dark {s x : State} {a0 a1} (h : Dark s x) : Dark s (teleStep x a0 a1) :=
  Dark.of_keeps (fun k hk => teleStep_keeps (a0 := a0) (a1 := a1) hk (k.same_refl x)) (by decide) h

theorem execTelemetry_dark {s x : State} {a0} (h : Dark s x) :
    ∃ t, execTelemetry a0 x = .next t ∧ Dark s t := by
  unfold execTelemetry
  repeat' first
    | with_reducible assumption
    | with_reducible refine done_dark ?_
    | with_reducible refine teleStep_dark ?_
    | with_reducible refine ite_dark ?_ ?_
    | with_reducible refine foldl_dark ?_ (fun t a h => ?_)
    | with_reducible exact fun _ g => g
    | with_reducible exact fun _ _ => rfl
    | with_reducible exact fun n g => by (repeat' split) <;> first | exact g | rfl
    | dsimp -proj only
    | split

theorem execStoreCeClr_dark {s x : State} {a0 a1} (h : Dark s x) :
    ∃ t, execStoreCeClr a0 a1 x = .next t ∧ Dark s t := by
  unfold execStoreCeClr
  repeat' first
    | with_reducible assumption
    | with_reducible refine done_dark ?_
    | with_reducible refine writeTo_dark ?_
    | with_reducible refine ite_dark ?_ ?_
    | with_reducible refine foldl_dark ?_ (fun t a h => ?_)
    | with_reducible exact fun _ g => g
    | with_reducible exact fun _ _ => rfl
    | with_reducible exact fun n g => by (repeat' split) <;> first | exact g | rfl
    | dsimp -proj only
    | split

theorem execNvmWindowRead_dark {s x : State} {a0 a1 a2} (h : Dark s x) :
    ∃ t, execNvmWindowRead a0 a1 a2 x = .next t ∧ Dark s t := by
  unfold execNvmWindowRead
  repeat' first
    | with_reducible assumption
    | with_reducible refine done_dark ?_
    | with_reducible refine busRead_dark ?_
    | with_reducible refine upset_dark ?_
    | with_reducible refine ite_dark ?_ ?_
    | with_reducible refine foldl_dark ?_ (fun t a h => ?_)
    | with_reducible exact fun _ g => g
    | with_reducible exact fun _ _ => rfl
    | with_reducible exact fun n g => by (repeat' split) <;> first | exact g | rfl
    | dsimp -proj only
    | split

theorem decimated_dark {s x : State} {a0} (h : Dark s x) : Dark s (decimated x a0) :=
  Dark.of_keeps (fun k hk => decimated_keeps (a0 := a0) hk (k.same_refl x)) (by decide) h

theorem execDecimatorOutput_dark {s x : State} {a0} (h : Dark s x) :
    ∃ t, execDecimatorOutput a0 x = .next t ∧ Dark s t := by
  unfold execDecimatorOutput
  repeat' first
    | with_reducible assumption
    | with_reducible refine done_dark ?_
    | with_reducible refine decimated_dark ?_
    | with_reducible refine ite_dark ?_ ?_
    | with_reducible refine foldl_dark ?_ (fun t a h => ?_)
    | with_reducible exact fun _ g => g
    | with_reducible exact fun _ _ => rfl
    | with_reducible exact fun n g => by (repeat' split) <;> first | exact g | rfl
    | dsimp -proj only
    | split

theorem trigger_dark {s x : State} {a0} (h : Dark s x) : Dark s (trigger x a0).2 :=
  Dark.of_keeps (fun k hk => trigger_keeps (a0 := a0) hk (k.same_refl x)) (by decide) h

theorem trigger_dark_eq {s x : State} {a0} {r u} (h : Dark s x) (e : trigger x a0 = (r, u)) :
    Dark s u := 
  Dark.of_keeps (fun k hk => trigger_keeps_eq (a0 := a0) hk (k.same_refl x) e) (by decide) h

theorem execAwlJob_dark {s x : State} {a0 a1 a2} (h : Dark s x) :
    ∃ t, execAwlJob a0 a1 a2 x = .next t ∧ Dark s t := by
  unfold execAwlJob
  repeat' first
    | with_reducible assumption
    | with_reducible refine done_dark ?_
    | with_reducible refine writeTo_dark ?_
    | with_reducible refine ite_dark ?_ ?_
    | with_reducible refine foldl_dark ?_ (fun t a h => ?_)
    | with_reducible exact fun _ g => g
    | with_reducible exact fun _ _ => rfl
    | with_reducible exact fun n g => by (repeat' split) <;> first | exact g | rfl
    | dsimp -proj only
    | split

theorem startAdcCal_dark {s x : State} (h : Dark s x) : Dark s (startAdcCal x) :=
  Dark.of_keeps (fun k hk => startAdcCal_keeps hk (k.same_refl x)) (by decide) h

theorem stopCapture_dark {s x : State} {a0 a1 a2 a3 a4} (h : Dark s x) : Dark s (stopCapture x a0 a1 a2 a3 a4) :=
  Dark.of_keeps (fun k hk => stopCapture_keeps (a0 := a0) (a1 := a1) (a2 := a2) (a3 := a3) (a4 := a4) hk (k.same_refl x)) (by decide) h

theorem execCaptureTimeout_dark {s x : State} {a0} (h : Dark s x) :
    ∃ t, execCaptureTimeout a0 x = .next t ∧ Dark s t := by
  unfold execCaptureTimeout
  repeat' first
    | with_reducible assumption
    | with_reducible refine done_dark ?_
    | with_reducible refine stopCapture_dark ?_
    | with_reducible refine ite_dark ?_ ?_
    | with_reducible refine foldl_dark ?_ (fun t a h => ?_)
    | with_reducible exact fun _ g => g
    | with_reducible exact fun _ _ => rfl
    | with_reducible exact fun n g => by (repeat' split) <;> first | exact g | rfl
    | dsimp -proj only
    | split

theorem answerRequest_dark {s x : State} {a0 a1 a2 a3} (h : Dark s x) :
    Dark s (answerRequest x a0 a1 a2 a3) := by
  unfold answerRequest
  repeat' first
    | with_reducible assumption
    | with_reducible refine modTx_dark ?_ ?_
    | with_reducible refine ite_dark ?_ ?_
    | with_reducible refine foldl_dark ?_ (fun t a h => ?_)
    | with_reducible exact fun _ g => g
    | with_reducible exact fun _ _ => rfl
    | with_reducible exact fun n g => by (repeat' split) <;> first | exact g | rfl
    | dsimp -proj only
    | split

theorem execDeepEntryTimeout_dark {s x : State} {a0} (h : Dark s x) :
    ∃ t, execDeepEntryTimeout a0 x = .next t ∧ Dark s t := by
  unfold execDeepEntryTimeout
  repeat' first
    | with_reducible assumption
    | with_reducible refine done_dark ?_
    | with_reducible refine modLink_dark ?_
    | with_reducible refine requestRetrain_dark ?_
    | with_reducible refine ite_dark ?_ ?_
    | with_reducible refine foldl_dark ?_ (fun t a h => ?_)
    | with_reducible exact fun _ g => g
    | with_reducible exact fun _ _ => rfl
    | with_reducible exact fun n g => by (repeat' split) <;> first | exact g | rfl
    | dsimp -proj only
    | split

theorem trackFrame_dark {s x : State} {a0 a1 a2} (h : Dark s x) : Dark s (trackFrame x a0 a1 a2) :=
  Dark.of_keeps (fun k hk => trackFrame_keeps (a0 := a0) (a1 := a1) (a2 := a2) hk (k.same_refl x)) (by decide) h

theorem checkSkipRate_dark {s x : State} {a0 a1 a2} (h : Dark s x) :
    Dark s (checkSkipRate x a0 a1 a2) := by
  unfold checkSkipRate
  repeat' first
    | with_reducible assumption
    | with_reducible refine modRxs_dark ?_
    | with_reducible refine logL_dark ?_
    | with_reducible refine ite_dark ?_ ?_
    | with_reducible refine foldl_dark ?_ (fun t a h => ?_)
    | with_reducible exact fun _ g => g
    | with_reducible exact fun _ _ => rfl
    | with_reducible exact fun n g => by (repeat' split) <;> first | exact g | rfl
    | dsimp -proj only
    | split

theorem editMade_dark {s x : State} {a0 a1 a2} (h : Dark s x) :
    Dark s (editMade x a0 a1 a2) := by
  unfold editMade
  repeat' first
    | with_reducible assumption
    | with_reducible refine checkSkipRate_dark ?_
    | with_reducible refine countEdit_dark ?_
    | with_reducible refine ite_dark ?_ ?_
    | with_reducible refine foldl_dark ?_ (fun t a h => ?_)
    | with_reducible exact fun _ g => g
    | with_reducible exact fun _ _ => rfl
    | with_reducible exact fun n g => by (repeat' split) <;> first | exact g | rfl
    | dsimp -proj only
    | split

theorem bufferGroup_dark {s x : State} {a0 a1 a2 a3} (h : Dark s x) :
    Dark s (bufferGroup x a0 a1 a2 a3) := by
  unfold bufferGroup
  repeat' first
    | with_reducible assumption
    | with_reducible refine modRx_dark ?_
    | with_reducible refine editMade_dark ?_
    | with_reducible refine ite_dark ?_ ?_
    | with_reducible refine foldl_dark ?_ (fun t a h => ?_)
    | with_reducible exact fun _ g => g
    | with_reducible exact fun _ _ => rfl
    | with_reducible exact fun n g => by (repeat' split) <;> first | exact g | rfl
    | dsimp -proj only
    | split

theorem receiveGroup_dark {s x : State} {a0 a1 a2} (h : Dark s x) :
    Dark s (receiveGroup x a0 a1 a2) := by
  unfold receiveGroup
  repeat' first
    | with_reducible assumption
    | with_reducible refine ebLimits_dark ?_
    | with_reducible refine trackFrame_dark ?_
    | with_reducible refine rxLost_dark ?_
    | with_reducible refine bufferGroup_dark ?_
    | with_reducible refine releaseForward_dark ?_
    | with_reducible refine modRx_dark ?_
    | with_reducible refine capFeed_dark ?_
    | with_reducible refine modMeas_dark ?_
    | with_reducible refine symbolAfterExchange_dark ?_
    | with_reducible refine ite_dark ?_ ?_
    | with_reducible refine foldl_dark ?_ (fun t a h => ?_)
    | with_reducible exact fun _ g => g
    | with_reducible exact fun _ _ => rfl
    | with_reducible exact fun n g => by (repeat' split) <;> first | exact g | rfl
    | dsimp -proj only
    | split

theorem enterLoopback_dark {s x : State} {a0 a1} (h : Dark s x) :
    Dark s (enterLoopback x a0 a1) := by
  unfold enterLoopback
  repeat' first
    | with_reducible assumption
    | with_reducible refine modTx_dark ?_ ?_
    | with_reducible refine modLink_dark ?_
    | with_reducible refine endSearches_dark ?_
    | with_reducible refine modMeas_dark ?_
    | with_reducible refine ite_dark ?_ ?_
    | with_reducible refine foldl_dark ?_ (fun t a h => ?_)
    | with_reducible exact fun _ g => g
    | with_reducible exact fun _ _ => rfl
    | with_reducible exact fun n g => by (repeat' split) <;> first | exact g | rfl
    | dsimp -proj only
    | split

theorem requestLoops_dark {s x : State} {a0} (h : Dark s x) :
    Dark s (requestLoops x a0) := by
  unfold requestLoops
  repeat' first
    | with_reducible assumption
    | with_reducible refine modLink_dark ?_
    | with_reducible refine enterLoopback_dark ?_
    | with_reducible refine ite_dark ?_ ?_
    | with_reducible refine foldl_dark ?_ (fun t a h => ?_)
    | with_reducible exact fun _ g => g
    | with_reducible exact fun _ _ => rfl
    | with_reducible exact fun n g => by (repeat' split) <;> first | exact g | rfl
    | dsimp -proj only
    | split

theorem padGroup_dark {s x : State} {a0 a1 a2} (h : Dark s x) :
    Dark s (padGroup x a0 a1 a2).2 := by
  unfold padGroup
  repeat' first
    | with_reducible assumption
    | with_reducible refine putTest_dark ?_
    | with_reducible refine putIdle_dark ?_
    | with_reducible refine ite_dark ?_ ?_
    | with_reducible refine foldl_dark ?_ (fun t a h => ?_)
    | with_reducible exact fun _ g => g
    | with_reducible exact fun _ _ => rfl
    | with_reducible exact fun n g => by (repeat' split) <;> first | exact g | rfl
    | dsimp -proj only
    | split

theorem padGroup_dark_eq {s x : State} {a0 a1 a2} {r u} (h : Dark s x) (e : padGroup x a0 a1 a2 = (r, u)) :
    Dark s u := by
  simpa only [e] using padGroup_dark (s := s) (x := x) (a0 := a0) (a1 := a1) (a2 := a2) h

theorem readMany_dark {s x : State} {a0 a1 a2} (h : Dark s x) : Dark s (readMany a0 x a1 a2) := by
  induction a0 generalizing x with
  | zero => exact h
  | succ n ih => exact ih (readOne_dark h)

theorem loopGroup_dark {s x : State} {a0 a1 a2} (h : Dark s x) :
    Dark s (loopGroup x a0 a1 a2) := by
  unfold loopGroup
  repeat' first
    | with_reducible assumption
    | with_reducible refine putSymbol_dark ?_
    | with_reducible refine ite_dark ?_ ?_
    | with_reducible refine foldl_dark ?_ (fun t a h => ?_)
    | with_reducible exact fun _ g => g
    | with_reducible exact fun _ _ => rfl
    | with_reducible exact fun n g => by (repeat' split) <;> first | exact g | rfl
    | dsimp -proj only
    | split

theorem fillMos_dark {s x : State} {a0 a1} (h : Dark s x) :
    Dark s (fillMos x a0 a1) := by
  unfold fillMos
  repeat' first
    | with_reducible assumption
    | with_reducible refine sendNext_dark ?_
    | with_reducible refine sendNext_dark_eq ?_ (by with_reducible assumption)
    | with_reducible refine modTx_dark ?_ ?_
    | with_reducible refine ite_dark ?_ ?_
    | with_reducible refine foldl_dark ?_ (fun t a h => ?_)
    | with_reducible exact fun _ g => g
    | with_reducible exact fun _ _ => rfl
    | with_reducible exact fun n g => by (repeat' split) <;> first | exact g | rfl
    | dsimp -proj only
    | split

theorem execRxCodeGroup_dark {s x : State} {a0 a1 a2 a3} (h : Dark s x) :
    ∃ t, execRxCodeGroup a0 a1 a2 a3 x = .next t ∧ Dark s t := by
  unfold execRxCodeGroup
  repeat' first
    | with_reducible assumption
    | with_reducible refine done_dark ?_
    | with_reducible refine receiveGroup_dark ?_
    | with_reducible refine requestLoops_dark ?_
    | with_reducible refine padGroup_dark ?_
    | with_reducible refine padGroup_dark_eq ?_ (by with_reducible assumption)
    | with_reducible refine sendOne_dark ?_
    | with_reducible refine readMany_dark ?_
    | with_reducible refine capFeed_dark ?_
    | with_reducible refine loopGroup_dark ?_
    | with_reducible refine modMeas_dark ?_
    | with_reducible refine fillMos_dark ?_
    | with_reducible refine ite_dark ?_ ?_
    | with_reducible refine foldl_dark ?_ (fun t a h => ?_)
    | with_reducible exact fun _ g => g
    | with_reducible exact fun _ _ => rfl
    | with_reducible exact fun n g => by (repeat' split) <;> first | exact g | rfl
    | dsimp -proj only
    | split

theorem execJtagExtest_dark {s x : State} (h : Dark s x) :
    ∃ t, execJtagExtest x = .next t ∧ Dark s t := by
  unfold execJtagExtest
  repeat' first
    | with_reducible assumption
    | with_reducible refine done_dark ?_
    | with_reducible refine scanCells_dark ?_
    | with_reducible refine ite_dark ?_ ?_
    | with_reducible refine foldl_dark ?_ (fun t a h => ?_)
    | with_reducible exact fun _ g => g
    | with_reducible exact fun _ _ => rfl
    | with_reducible exact fun n g => by (repeat' split) <;> first | exact g | rfl
    | dsimp -proj only
    | split

theorem execPrbsChkEnable_dark {s x : State} {a0 a1 a2 a3} (h : Dark s x) :
    ∃ t, execPrbsChkEnable a0 a1 a2 a3 x = .next t ∧ Dark s t := by
  unfold execPrbsChkEnable
  repeat' first
    | with_reducible assumption
    | with_reducible refine done_dark ?_
    | with_reducible refine writeTo_dark ?_
    | with_reducible refine ite_dark ?_ ?_
    | with_reducible refine foldl_dark ?_ (fun t a h => ?_)
    | with_reducible exact fun _ g => g
    | with_reducible exact fun _ _ => rfl
    | with_reducible exact fun n g => by (repeat' split) <;> first | exact g | rfl
    | dsimp -proj only
    | split

theorem recordCaps_dark {s x : State} {a0 a1} (h : Dark s x) : Dark s (recordCaps x a0 a1) :=
  Dark.of_keeps (fun k hk => recordCaps_keeps (a0 := a0) (a1 := a1) hk (k.same_refl x)) (by decide) h

theorem takeAnswer_dark {s x : State} {a0 a1 a2 a3} (h : Dark s x) :
    Dark s (takeAnswer x a0 a1 a2 a3) := by
  unfold takeAnswer
  repeat' first
    | with_reducible assumption
    | with_reducible refine searchEvent_dark ?_
    | with_reducible refine ite_dark ?_ ?_
    | with_reducible refine foldl_dark ?_ (fun t a h => ?_)
    | with_reducible exact fun _ g => g
    | with_reducible exact fun _ _ => rfl
    | with_reducible exact fun n g => by (repeat' split) <;> first | exact g | rfl
    | dsimp -proj only
    | split

theorem readTosB_dark {s x : State} {a0 a1 a2 a3} (h : Dark s x) : Dark s (readTosB x a0 a1 a2 a3) :=
  Dark.of_keeps (fun k hk => readTosB_keeps (a0 := a0) (a1 := a1) (a2 := a2) (a3 := a3) hk (k.same_refl x)) (by decide) h

theorem tosBIn_dark {s x : State} {a0 a1 a2 a3} (h : Dark s x) :
    Dark s (tosBIn x a0 a1 a2 a3) := by
  unfold tosBIn
  repeat' first
    | with_reducible assumption
    | with_reducible refine advance06_dark ?_
    | with_reducible refine recordCaps_dark ?_
    | with_reducible refine sendTos_dark ?_
    | with_reducible refine takeAnswer_dark ?_
    | with_reducible refine readTosB_dark ?_
    | with_reducible refine answerRequest_dark ?_
    | with_reducible refine seenTos_dark ?_
    | with_reducible refine ite_dark ?_ ?_
    | with_reducible refine foldl_dark ?_ (fun t a h => ?_)
    | with_reducible exact fun _ g => g
    | with_reducible exact fun _ _ => rfl
    | with_reducible exact fun n g => by (repeat' split) <;> first | exact g | rfl
    | dsimp -proj only
    | split

theorem trainingSet_dark {s x : State} {a0 a1 a2 a3} (h : Dark s x) :
    Dark s (trainingSet x a0 a1 a2 a3) := by
  unfold trainingSet
  repeat' first
    | with_reducible assumption
    | with_reducible refine putSet_dark ?_
    | with_reducible refine tosBIn_dark ?_
    | with_reducible refine holdSet_dark ?_
    | with_reducible refine enterRetrain_dark ?_
    | with_reducible refine tosAIn_dark ?_
    | with_reducible refine ite_dark ?_ ?_
    | with_reducible refine foldl_dark ?_ (fun t a h => ?_)
    | with_reducible exact fun _ g => g
    | with_reducible exact fun _ _ => rfl
    | with_reducible exact fun n g => by (repeat' split) <;> first | exact g | rfl
    | dsimp -proj only
    | split

theorem execTrainingSetReceived_dark {s x : State} {a0 a1 a2 a3} (h : Dark s x) :
    ∃ t, execTrainingSetReceived a0 a1 a2 a3 x = .next t ∧ Dark s t := by
  unfold execTrainingSetReceived
  repeat' first
    | with_reducible assumption
    | with_reducible refine done_dark ?_
    | with_reducible refine trainingSet_dark ?_
    | with_reducible refine ite_dark ?_ ?_
    | with_reducible refine foldl_dark ?_ (fun t a h => ?_)
    | with_reducible exact fun _ g => g
    | with_reducible exact fun _ _ => rfl
    | with_reducible exact fun n g => by (repeat' split) <;> first | exact g | rfl
    | dsimp -proj only
    | split

/-- A position that is commanded open may have its transmitters on. -/
theorem modTx_open_dark {s x : State} {sd : Side} {p : Pos} {f : LaneTx → LaneTx} (o : x.welt.cmdOpen[p] = true)
    (h : Dark s x) : Dark s (modTx x sd p f) := by
  intro hs q hq sd'
  have e : (sd', q) ≠ (sd, p) := by
    intro e
    cases e
    exact absurd (hq.symm.trans o) (by decide)
  unfold modTx
  rw [getLane_modLane_other _ _ _ _ _ _ e]
  exact h hs q hq sd'

theorem foldl_open_dark {s x : State} {p : Pos} {f : LaneTx → LaneTx} {l : List Side} (o : x.welt.cmdOpen[p] = true)
    (h : Dark s x) : Dark s (l.foldl (fun t sd => modTx t sd p f) x) := by
  induction l generalizing x with
  | nil => exact h
  | cons a r ih => exact ih o (modTx_open_dark o h)

theorem openConfirmed_dark {s x : State} {a0} (h : Dark s x) : Dark s (openConfirmed x a0) := by
  unfold openConfirmed
  split
  · exact h
  · rename_i o
    have o' : x.welt.cmdOpen[a0] = true := by simpa using o
    have k : Dark s { x with welt := { x.welt with
      closed := vput x.welt.closed a0 false, mismatch := vput x.welt.mismatch a0 false
      held := vput x.welt.held a0 false } } := h
    generalize e : { x with welt := { x.welt with
      closed := vput x.welt.closed a0 false, mismatch := vput x.welt.mismatch a0 false
      held := vput x.welt.held a0 false } } = y at k
    have oy : y.welt.cmdOpen[a0] = true := by rw [← e]; exact o'
    have k2 : Dark s (bothSides.foldl (fun t sd => modTx t sd a0 fun n => { n with on := true }) y) := foldl_open_dark oy k
    exact foldl_dark k2 fun t l g => joinIfOpen_dark g

theorem execWeltOpenConfirmed_dark {s x : State} {a0} (h : Dark s x) :
    ∃ t, execWeltOpenConfirmed a0 x = .next t ∧ Dark s t := by
  unfold execWeltOpenConfirmed
  repeat' first
    | with_reducible assumption
    | with_reducible refine done_dark ?_
    | with_reducible refine openConfirmed_dark ?_
    | with_reducible refine ite_dark ?_ ?_
    | with_reducible refine foldl_dark ?_ (fun t a h => ?_)
    | with_reducible exact fun _ g => g
    | with_reducible exact fun _ _ => rfl
    | with_reducible exact fun n g => by (repeat' split) <;> first | exact g | rfl
    | dsimp -proj only
    | split

theorem execMosWr_dark {s x : State} {a0 a1 a2 a3 a4 a5} (h : Dark s x) :
    ∃ t, execMosWr a0 a1 a2 a3 a4 a5 x = .next t ∧ Dark s t := by
  unfold execMosWr
  repeat' first
    | with_reducible assumption
    | with_reducible refine done_dark ?_
    | with_reducible refine mosIn_dark ?_
    | with_reducible refine upset_dark ?_
    | with_reducible refine ite_dark ?_ ?_
    | with_reducible refine foldl_dark ?_ (fun t a h => ?_)
    | with_reducible exact fun _ g => g
    | with_reducible exact fun _ _ => rfl
    | with_reducible exact fun n g => by (repeat' split) <;> first | exact g | rfl
    | dsimp -proj only
    | split

theorem execJtagExtestPulse_dark {s x : State} (h : Dark s x) :
    ∃ t, execJtagExtestPulse x = .next t ∧ Dark s t := by
  unfold execJtagExtestPulse
  repeat' first
    | with_reducible assumption
    | with_reducible refine done_dark ?_
    | with_reducible refine scanCells_dark ?_
    | with_reducible refine ite_dark ?_ ?_
    | with_reducible refine foldl_dark ?_ (fun t a h => ?_)
    | with_reducible exact fun _ g => g
    | with_reducible exact fun _ _ => rfl
    | with_reducible exact fun n g => by (repeat' split) <;> first | exact g | rfl
    | dsimp -proj only
    | split

theorem execWinctlSync_dark {s x : State} {a0 a1} (h : Dark s x) :
    ∃ t, execWinctlSync a0 a1 x = .next t ∧ Dark s t := by
  unfold execWinctlSync
  repeat' first
    | with_reducible assumption
    | with_reducible refine done_dark ?_
    | with_reducible refine writeTo_dark ?_
    | with_reducible refine ite_dark ?_ ?_
    | with_reducible refine foldl_dark ?_ (fun t a h => ?_)
    | with_reducible exact fun _ g => g
    | with_reducible exact fun _ _ => rfl
    | with_reducible exact fun n g => by (repeat' split) <;> first | exact g | rfl
    | dsimp -proj only
    | split

theorem execWindowEntryWrite_dark {s x : State} {a0 a1 a2 a3} (h : Dark s x) :
    ∃ t, execWindowEntryWrite a0 a1 a2 a3 x = .next t ∧ Dark s t := by
  unfold execWindowEntryWrite
  repeat' first
    | with_reducible assumption
    | with_reducible refine done_dark ?_
    | with_reducible refine writeTo_dark ?_
    | with_reducible refine ite_dark ?_ ?_
    | with_reducible refine foldl_dark ?_ (fun t a h => ?_)
    | with_reducible exact fun _ g => g
    | with_reducible exact fun _ _ => rfl
    | with_reducible exact fun n g => by (repeat' split) <;> first | exact g | rfl
    | dsimp -proj only
    | split

theorem ringPut_dark {s x : State} {a0} (h : Dark s x) : Dark s (ringPut x a0) :=
  Dark.of_keeps (fun k hk => ringPut_keeps (a0 := a0) hk (k.same_refl x)) (by decide) h

theorem execAwlAll_dark {s x : State} {a0} (h : Dark s x) :
    ∃ t, execAwlAll a0 x = .next t ∧ Dark s t := by
  unfold execAwlAll
  repeat' first
    | with_reducible assumption
    | with_reducible refine done_dark ?_
    | with_reducible refine writeTo_dark ?_
    | with_reducible refine ite_dark ?_ ?_
    | with_reducible refine foldl_dark ?_ (fun t a h => ?_)
    | with_reducible exact fun _ g => g
    | with_reducible exact fun _ _ => rfl
    | with_reducible exact fun n g => by (repeat' split) <;> first | exact g | rfl
    | dsimp -proj only
    | split

theorem execNvmSectorErased_dark {s x : State} {a0} (h : Dark s x) :
    ∃ t, execNvmSectorErased a0 x = .next t ∧ Dark s t := by
  unfold execNvmSectorErased
  repeat' first
    | with_reducible assumption
    | with_reducible refine done_dark ?_
    | with_reducible refine ownDone_dark ?_
    | with_reducible refine sectorDone_dark ?_
    | with_reducible refine ite_dark ?_ ?_
    | with_reducible refine foldl_dark ?_ (fun t a h => ?_)
    | with_reducible exact fun _ g => g
    | with_reducible exact fun _ _ => rfl
    | with_reducible exact fun n g => by (repeat' split) <;> first | exact g | rfl
    | dsimp -proj only
    | split

theorem scanTimeout_dark {s x : State} {a0 a1 a2} (h : Dark s x) : Dark s (scanTimeout x a0 a1 a2) :=
  Dark.of_keeps (fun k hk => scanTimeout_keeps (a0 := a0) (a1 := a1) (a2 := a2) hk (k.same_refl x)) (by decide) h

theorem prefetch_dark {s x : State} {a0} (h : Dark s x) : Dark s (prefetch x a0) :=
  Dark.of_keeps (fun k hk => prefetch_keeps (a0 := a0) hk (k.same_refl x)) (by decide) h

theorem execEntryPrefetch_dark {s x : State} {a0 a1} (h : Dark s x) :
    ∃ t, execEntryPrefetch a0 a1 x = .next t ∧ Dark s t := by
  unfold execEntryPrefetch
  repeat' first
    | with_reducible assumption
    | with_reducible refine done_dark ?_
    | with_reducible refine prefetch_dark ?_
    | with_reducible refine upset_dark ?_
    | with_reducible refine ite_dark ?_ ?_
    | with_reducible refine foldl_dark ?_ (fun t a h => ?_)
    | with_reducible exact fun _ g => g
    | with_reducible exact fun _ _ => rfl
    | with_reducible exact fun n g => by (repeat' split) <;> first | exact g | rfl
    | dsimp -proj only
    | split

theorem normalCandidate_dark {s x : State} {a0 a1} {c} (h : Dark s x) (e : normalCandidate x a0 a1 = some c) :
    c.dark s := by
  intro i t q
  subst q
  exact Dark.of_keeps (fun k hk => normalCandidate_keeps hk (k.same_refl x) e i t rfl) (by decide) h

theorem serve_dark {s x : State} {a0 a1 a2} (h : Dark s x) :
    Dark s (serve x a0 a1 a2) := by
  unfold serve
  split
  · rename_i c e
    refine runCandidate_dark h ?_
    cases g : urgentCandidate x a0 with
    | none => rw [g] at e; exact normalCandidate_dark h e
    | some d => rw [g] at e; cases e; exact urgentCandidate_dark h g
  · exact h

theorem startNvm_dark {s x : State} (h : Dark s x) : Dark s (startNvm x) := by
  have lend : ∀ {y u}, Dark s y → lendEngine y = some u → Dark s u := fun {y u} g e =>
    Dark.of_keeps (fun k hk => lendEngine_keeps_eq hk (k.same_refl y) e) (by decide) g
  unfold startNvm
  split
  · exact ite_dark (tendLog_dark h) (serve_dark h)
  · split
    · exact h
    · rename_i c e
      have g := urgentCandidate_dark h e
      refine ite_dark h ?_
      split <;> split
      · rename_i e'
        exact runCandidate_dark (lend h e') (fun _ _ e => by cases e)
      · exact h
      · rename_i e'
        have g' := lend (g _ _ rfl) e'
        exact runCandidate_dark g' (fun _ _ e => by cases e; exact g')
      · exact h

theorem startJob_dark {s x : State} {a0 a1} (h : Dark s x) :
    Dark s (startJob x a0 a1) := by
  unfold startJob
  repeat' first
    | with_reducible assumption
    | with_reducible refine ownDone_dark ?_
    | with_reducible refine startNvm_dark ?_
    | with_reducible refine serve_dark ?_
    | with_reducible refine ite_dark ?_ ?_
    | with_reducible refine foldl_dark ?_ (fun t a h => ?_)
    | with_reducible exact fun _ g => g
    | with_reducible exact fun _ _ => rfl
    | with_reducible exact fun n g => by (repeat' split) <;> first | exact g | rfl
    | dsimp -proj only
    | split

theorem execScanPointDone_dark {s x : State} {a0 a1 a2} (h : Dark s x) :
    ∃ t, execScanPointDone a0 a1 a2 x = .next t ∧ Dark s t := by
  unfold execScanPointDone
  repeat' first
    | with_reducible assumption
    | with_reducible refine done_dark ?_
    | with_reducible refine modMeas_dark ?_
    | with_reducible refine ite_dark ?_ ?_
    | with_reducible refine foldl_dark ?_ (fun t a h => ?_)
    | with_reducible exact fun _ g => g
    | with_reducible exact fun _ _ => rfl
    | with_reducible exact fun n g => by (repeat' split) <;> first | exact g | rfl
    | dsimp -proj only
    | split

theorem execRecalEvaluation_dark {s x : State} (h : Dark s x) :
    ∃ t, execRecalEvaluation x = .next t ∧ Dark s t := by
  unfold execRecalEvaluation
  repeat' first
    | with_reducible assumption
    | with_reducible refine done_dark ?_
    | with_reducible refine homeStandins_dark ?_
    | with_reducible refine followStandin_dark ?_
    | with_reducible refine evaluateUnits_dark ?_
    | with_reducible refine nextRecal_dark ?_
    | with_reducible refine ite_dark ?_ ?_
    | with_reducible refine foldl_dark ?_ (fun t a h => ?_)
    | with_reducible exact fun _ g => g
    | with_reducible exact fun _ _ => rfl
    | with_reducible exact fun n g => by (repeat' split) <;> first | exact g | rfl
    | dsimp -proj only
    | split

theorem execDrainComplete_dark {s x : State} {a0} (h : Dark s x) :
    ∃ t, execDrainComplete a0 x = .next t ∧ Dark s t := by
  unfold execDrainComplete
  repeat' first
    | with_reducible assumption
    | with_reducible refine done_dark ?_
    | with_reducible refine drainEnd_dark ?_
    | with_reducible refine ite_dark ?_ ?_
    | with_reducible refine foldl_dark ?_ (fun t a h => ?_)
    | with_reducible exact fun _ g => g
    | with_reducible exact fun _ _ => rfl
    | with_reducible exact fun n g => by (repeat' split) <;> first | exact g | rfl
    | dsimp -proj only
    | split

theorem execLnsnapRelease_dark {s x : State} {a0 a1 a2 a3} (h : Dark s x) :
    ∃ t, execLnsnapRelease a0 a1 a2 a3 x = .next t ∧ Dark s t := by
  unfold execLnsnapRelease
  repeat' first
    | with_reducible assumption
    | with_reducible refine done_dark ?_
    | with_reducible refine writeTo_dark ?_
    | with_reducible refine ite_dark ?_ ?_
    | with_reducible refine foldl_dark ?_ (fun t a h => ?_)
    | with_reducible exact fun _ g => g
    | with_reducible exact fun _ _ => rfl
    | with_reducible exact fun n g => by (repeat' split) <;> first | exact g | rfl
    | dsimp -proj only
    | split

theorem execSyncBarrierDone_dark {s x : State} {a0} (h : Dark s x) :
    ∃ t, execSyncBarrierDone a0 x = .next t ∧ Dark s t := by
  unfold execSyncBarrierDone
  repeat' first
    | with_reducible assumption
    | with_reducible refine done_dark ?_
    | with_reducible refine modWin_dark ?_
    | with_reducible refine ite_dark ?_ ?_
    | with_reducible refine foldl_dark ?_ (fun t a h => ?_)
    | with_reducible exact fun _ g => g
    | with_reducible exact fun _ _ => rfl
    | with_reducible exact fun n g => by (repeat' split) <;> first | exact g | rfl
    | dsimp -proj only
    | split

theorem execHeelWatchdogTrip_dark {s x : State} (h : Dark s x) :
    ∃ t, execHeelWatchdogTrip x = .next t ∧ Dark s t := by
  unfold execHeelWatchdogTrip
  try dsimp -zeta -proj only [upd_evt_heel]
  repeat' first
    | with_reducible assumption
    | with_reducible refine done_dark ?_
    | with_reducible refine logEvent_dark ?_
    | with_reducible refine putEvt_dark ?_
    | with_reducible refine putHeel_dark ?_
    | with_reducible refine ite_dark ?_ ?_
    | with_reducible refine foldl_dark ?_ (fun t a h => ?_)
    | with_reducible exact fun _ g => g
    | with_reducible exact fun _ _ => rfl
    | with_reducible exact fun n g => by (repeat' split) <;> first | exact g | rfl
    | dsimp -proj only
    | split

theorem newRound_dark {s x : State} {a0} (h : Dark s x) : Dark s (newRound x a0) :=
  Dark.of_keeps (fun k hk => newRound_keeps (a0 := a0) hk (k.same_refl x)) (by decide) h

theorem execLastStage_dark {s x : State} {a0 a1} (h : Dark s x) :
    ∃ t, execLastStage a0 a1 x = .next t ∧ Dark s t := by
  unfold execLastStage
  repeat' first
    | with_reducible assumption
    | with_reducible refine done_dark ?_
    | with_reducible refine runBlock_dark ?_
    | with_reducible refine upset_dark ?_
    | with_reducible refine ite_dark ?_ ?_
    | with_reducible refine foldl_dark ?_ (fun t a h => ?_)
    | with_reducible exact fun _ g => g
    | with_reducible exact fun _ _ => rfl
    | with_reducible exact fun n g => by (repeat' split) <;> first | exact g | rfl
    | dsimp -proj only
    | split

theorem execEyescanLockTimeout_dark {s x : State} {a0 a1} (h : Dark s x) :
    ∃ t, execEyescanLockTimeout a0 a1 x = .next t ∧ Dark s t := by
  unfold execEyescanLockTimeout
  repeat' first
    | with_reducible assumption
    | with_reducible refine done_dark ?_
    | with_reducible refine scanTimeout_dark ?_
    | with_reducible refine ite_dark ?_ ?_
    | with_reducible refine foldl_dark ?_ (fun t a h => ?_)
    | with_reducible exact fun _ g => g
    | with_reducible exact fun _ _ => rfl
    | with_reducible exact fun n g => by (repeat' split) <;> first | exact g | rfl
    | dsimp -proj only
    | split

theorem endEntry_dark {s x : State} {a0 a1 a2 a3} (h : Dark s x) : Dark s (endEntry x a0 a1 a2 a3) :=
  Dark.of_keeps (fun k hk => endEntry_keeps (a0 := a0) (a1 := a1) (a2 := a2) (a3 := a3) hk (k.same_refl x)) (by decide) h

theorem execRailValid_dark {s x : State} {a0} (h : Dark s x) :
    ∃ t, execRailValid a0 x = .next t ∧ Dark s t := by
  unfold execRailValid
  repeat' first
    | with_reducible assumption
    | with_reducible refine done_dark ?_
    | with_reducible refine settle_dark ?_
    | with_reducible refine modPower_dark ?_
    | with_reducible refine ite_dark ?_ ?_
    | with_reducible refine foldl_dark ?_ (fun t a h => ?_)
    | with_reducible exact fun _ g => g
    | with_reducible exact fun _ _ => rfl
    | with_reducible exact fun n g => by (repeat' split) <;> first | exact g | rfl
    | dsimp -proj only
    | split

theorem execTwbReadWord_dark {s x : State} {a0} (h : Dark s x) :
    ∃ t, execTwbReadWord a0 x = .next t ∧ Dark s t := by
  unfold execTwbReadWord
  repeat' first
    | with_reducible assumption
    | with_reducible refine modTwb_dark ?_
    | with_reducible refine done_dark ?_
    | with_reducible refine busRead_dark ?_
    | with_reducible refine upset_dark ?_
    | with_reducible refine ite_dark ?_ ?_
    | with_reducible refine foldl_dark ?_ (fun t a h => ?_)
    | with_reducible exact fun _ g => g
    | with_reducible exact fun _ _ => rfl
    | with_reducible exact fun n g => by (repeat' split) <;> first | exact g | rfl
    | dsimp -proj only
    | split

theorem retrySwap_dark {s x : State} {a0} (h : Dark s x) : Dark s (retrySwap x a0) :=
  Dark.of_keeps (fun k hk => retrySwap_keeps (a0 := a0) hk (k.same_refl x)) (by decide) h

theorem exitStandby_dark {s x : State} (h : Dark s x) :
    Dark s (exitStandby x) := by
  unfold exitStandby
  try dsimp -zeta -proj only [upd_boot_dev_evt_store_twb]
  try simp -zeta -proj only [upd_boot_dev_evt_store_twb]
  repeat' first
    | with_reducible assumption
    | with_reducible refine settle_dark ?_
    | with_reducible refine modLane_dark ?_ ?_
    | with_reducible refine lockPlls_dark ?_
    | with_reducible refine ringPut_dark ?_
    | with_reducible refine putBoot_dark ?_
    | with_reducible refine putDev_dark ?_
    | with_reducible refine putEvt_dark ?_
    | with_reducible refine putStore_dark ?_
    | with_reducible refine putTwb_dark ?_
    | with_reducible refine ite_dark ?_ ?_
    | with_reducible refine foldl_dark ?_ (fun t a h => ?_)
    | with_reducible exact fun n g => (loadLane_on _ _ _ n).trans g
    | with_reducible exact fun _ g => g
    | with_reducible exact fun _ _ => rfl
    | with_reducible exact fun n g => by (repeat' split) <;> first | exact g | rfl
    | dsimp -proj only
    | split

theorem execStandbyExitDone_dark {s x : State} (h : Dark s x) :
    ∃ t, execStandbyExitDone x = .next t ∧ Dark s t := by
  unfold execStandbyExitDone
  repeat' first
    | with_reducible assumption
    | with_reducible refine done_dark ?_
    | with_reducible refine exitStandby_dark ?_
    | with_reducible refine ite_dark ?_ ?_
    | with_reducible refine foldl_dark ?_ (fun t a h => ?_)
    | with_reducible exact fun _ g => g
    | with_reducible exact fun _ _ => rfl
    | with_reducible exact fun n g => by (repeat' split) <;> first | exact g | rfl
    | dsimp -proj only
    | split

theorem loadSpares_dark {s x : State} (h : Dark s x) : Dark s (loadSpares x) :=
  Dark.of_keeps (fun k hk => loadSpares_keeps hk (k.same_refl x)) (by decide) h

theorem execAdcSelfCal_dark {s x : State} (h : Dark s x) :
    ∃ t, execAdcSelfCal x = .next t ∧ Dark s t := by
  unfold execAdcSelfCal
  repeat' first
    | with_reducible assumption
    | with_reducible refine done_dark ?_
    | with_reducible refine startAdcCal_dark ?_
    | with_reducible refine ite_dark ?_ ?_
    | with_reducible refine foldl_dark ?_ (fun t a h => ?_)
    | with_reducible exact fun _ g => g
    | with_reducible exact fun _ _ => rfl
    | with_reducible exact fun n g => by (repeat' split) <;> first | exact g | rfl
    | dsimp -proj only
    | split

theorem wakeDone_dark {s x : State} {a0} (h : Dark s x) :
    Dark s (wakeDone x a0) := by
  unfold wakeDone
  repeat' first
    | with_reducible assumption
    | with_reducible refine setResult_dark ?_
    | with_reducible refine modLink_dark ?_
    | with_reducible refine checkRecovered_dark ?_
    | with_reducible refine requestRetrain_dark ?_
    | with_reducible refine ite_dark ?_ ?_
    | with_reducible refine foldl_dark ?_ (fun t a h => ?_)
    | with_reducible exact fun _ g => g
    | with_reducible exact fun _ _ => rfl
    | with_reducible exact fun n g => by (repeat' split) <;> first | exact g | rfl
    | dsimp -proj only
    | split

theorem transparentUp_dark {s x : State} {a0} (h : Dark s x) : Dark s (transparentUp x a0) :=
  Dark.of_keeps (fun k hk => transparentUp_keeps (a0 := a0) hk (k.same_refl x)) (by decide) h

theorem lockFollows_dark {s x : State} {a0 a1} (h : Dark s x) :
    Dark s (lockFollows x a0 a1) := by
  unfold lockFollows
  repeat' first
    | with_reducible assumption
    | with_reducible refine restoreTransparent_dark ?_
    | with_reducible refine wakeDone_dark ?_
    | with_reducible refine transparentUp_dark ?_
    | with_reducible refine ite_dark ?_ ?_
    | with_reducible refine foldl_dark ?_ (fun t a h => ?_)
    | with_reducible exact fun _ g => g
    | with_reducible exact fun _ _ => rfl
    | with_reducible exact fun n g => by (repeat' split) <;> first | exact g | rfl
    | dsimp -proj only
    | split

theorem execCdrLockGained_dark {s x : State} {a0 a1} (h : Dark s x) :
    ∃ t, execCdrLockGained a0 a1 x = .next t ∧ Dark s t := by
  unfold execCdrLockGained
  repeat' first
    | with_reducible assumption
    | with_reducible refine done_dark ?_
    | with_reducible refine lockFollows_dark ?_
    | with_reducible refine modRx_dark ?_
    | with_reducible refine ite_dark ?_ ?_
    | with_reducible refine foldl_dark ?_ (fun t a h => ?_)
    | with_reducible exact fun _ g => g
    | with_reducible exact fun _ _ => rfl
    | with_reducible exact fun n g => by (repeat' split) <;> first | exact g | rfl
    | dsimp -proj only
    | split

theorem resetDecimator_dark {s x : State} (h : Dark s x) : Dark s (resetDecimator x) :=
  Dark.of_keeps (fun k hk => resetDecimator_keeps hk (k.same_refl x)) (by decide) h

theorem execJtagSamplePreload_dark {s x : State} (h : Dark s x) :
    ∃ t, execJtagSamplePreload x = .next t ∧ Dark s t := by
  unfold execJtagSamplePreload
  repeat' first
    | with_reducible assumption
    | with_reducible refine done_dark ?_
    | with_reducible refine scanCells_dark ?_
    | with_reducible refine ite_dark ?_ ?_
    | with_reducible refine foldl_dark ?_ (fun t a h => ?_)
    | with_reducible exact fun _ g => g
    | with_reducible exact fun _ _ => rfl
    | with_reducible exact fun n g => by (repeat' split) <;> first | exact g | rfl
    | dsimp -proj only
    | split

theorem pllUnlocked_dark {s x : State} {a0} (h : Dark s x) : Dark s (pllUnlocked x a0) :=
  Dark.of_keeps (fun k hk => pllUnlocked_keeps (a0 := a0) hk (k.same_refl x)) (by decide) h

theorem execCorePllLoss_dark {s x : State} (h : Dark s x) :
    ∃ t, execCorePllLoss x = .next t ∧ Dark s t := by
  unfold execCorePllLoss
  try dsimp -zeta -proj only [upd_dev]
  repeat' first
    | with_reducible assumption
    | with_reducible refine done_dark ?_
    | with_reducible refine settle_dark ?_
    | with_reducible refine pllUnlocked_dark ?_
    | with_reducible refine putDev_dark ?_
    | with_reducible refine ite_dark ?_ ?_
    | with_reducible refine foldl_dark ?_ (fun t a h => ?_)
    | with_reducible exact fun _ g => g
    | with_reducible exact fun _ _ => rfl
    | with_reducible exact fun n g => by (repeat' split) <;> first | exact g | rfl
    | dsimp -proj only
    | split

theorem execSignalDetected_dark {s x : State} {a0 a1} (h : Dark s x) :
    ∃ t, execSignalDetected a0 a1 x = .next t ∧ Dark s t := by
  unfold execSignalDetected
  repeat' first
    | with_reducible assumption
    | with_reducible refine done_dark ?_
    | with_reducible refine modRx_dark ?_
    | with_reducible refine enterDetect_dark ?_
    | with_reducible refine ite_dark ?_ ?_
    | with_reducible refine foldl_dark ?_ (fun t a h => ?_)
    | with_reducible exact fun _ g => g
    | with_reducible exact fun _ _ => rfl
    | with_reducible exact fun n g => by (repeat' split) <;> first | exact g | rfl
    | dsimp -proj only
    | split

theorem loadQueues_dark {s x : State} (h : Dark s x) : Dark s (loadQueues x) :=
  Dark.of_keeps (fun k hk => loadQueues_keeps hk (k.same_refl x)) (by decide) h

theorem rateSeen_dark {s x : State} {a0 a1 a2} (h : Dark s x) :
    Dark s (rateSeen x a0 a1 a2) := by
  unfold rateSeen
  repeat' first
    | with_reducible assumption
    | with_reducible refine modLink_dark ?_
    | with_reducible refine modRx_dark ?_
    | with_reducible refine takeLinkRate_dark ?_
    | with_reducible refine ite_dark ?_ ?_
    | with_reducible refine foldl_dark ?_ (fun t a h => ?_)
    | with_reducible exact fun _ g => g
    | with_reducible exact fun _ _ => rfl
    | with_reducible exact fun n g => by (repeat' split) <;> first | exact g | rfl
    | dsimp -proj only
    | split

theorem awlFinish_dark {s x : State} (h : Dark s x) : Dark s (awlFinish x) :=
  Dark.of_keeps (fun k hk => awlFinish_keeps hk (k.same_refl x)) (by decide) h

theorem execAwlDone_dark {s x : State} (h : Dark s x) :
    ∃ t, execAwlDone x = .next t ∧ Dark s t := by
  unfold execAwlDone
  repeat' first
    | with_reducible assumption
    | with_reducible refine done_dark ?_
    | with_reducible refine awlFinish_dark ?_
    | with_reducible refine ite_dark ?_ ?_
    | with_reducible refine foldl_dark ?_ (fun t a h => ?_)
    | with_reducible exact fun _ g => g
    | with_reducible exact fun _ _ => rfl
    | with_reducible exact fun n g => by (repeat' split) <;> first | exact g | rfl
    | dsimp -proj only
    | split

theorem execCeRateHour_dark {s x : State} (h : Dark s x) :
    ∃ t, execCeRateHour x = .next t ∧ Dark s t := by
  unfold execCeRateHour
  try dsimp -zeta -proj only [upd_store]
  repeat' first
    | with_reducible assumption
    | with_reducible refine done_dark ?_
    | with_reducible refine putStore_dark ?_
    | with_reducible refine ite_dark ?_ ?_
    | with_reducible refine foldl_dark ?_ (fun t a h => ?_)
    | with_reducible exact fun _ g => g
    | with_reducible exact fun _ _ => rfl
    | with_reducible exact fun n g => by (repeat' split) <;> first | exact g | rfl
    | dsimp -proj only
    | split

theorem execWqDisable_dark {s x : State} {a0 a1 a2} (h : Dark s x) :
    ∃ t, execWqDisable a0 a1 a2 x = .next t ∧ Dark s t := by
  unfold execWqDisable
  repeat' first
    | with_reducible assumption
    | with_reducible refine done_dark ?_
    | with_reducible refine writeTo_dark ?_
    | with_reducible refine ite_dark ?_ ?_
    | with_reducible refine foldl_dark ?_ (fun t a h => ?_)
    | with_reducible exact fun _ g => g
    | with_reducible exact fun _ _ => rfl
    | with_reducible exact fun n g => by (repeat' split) <;> first | exact g | rfl
    | dsimp -proj only
    | split

theorem execScrubLine_dark {s x : State} {a0} (h : Dark s x) :
    ∃ t, execScrubLine a0 x = .next t ∧ Dark s t := by
  unfold execScrubLine
  repeat' first
    | with_reducible assumption
    | with_reducible refine done_dark ?_
    | with_reducible refine visitLine_dark ?_
    | with_reducible refine upset_dark ?_
    | with_reducible refine ite_dark ?_ ?_
    | with_reducible refine foldl_dark ?_ (fun t a h => ?_)
    | with_reducible exact fun _ g => g
    | with_reducible exact fun _ _ => rfl
    | with_reducible exact fun n g => by (repeat' split) <;> first | exact g | rfl
    | dsimp -proj only
    | split

theorem execTmseqctlRestart_dark {s x : State} {a0 a1 a2} (h : Dark s x) :
    ∃ t, execTmseqctlRestart a0 a1 a2 x = .next t ∧ Dark s t := by
  unfold execTmseqctlRestart
  repeat' first
    | with_reducible assumption
    | with_reducible refine done_dark ?_
    | with_reducible refine writeTo_dark ?_
    | with_reducible refine ite_dark ?_ ?_
    | with_reducible refine foldl_dark ?_ (fun t a h => ?_)
    | with_reducible exact fun _ g => g
    | with_reducible exact fun _ _ => rfl
    | with_reducible exact fun n g => by (repeat' split) <;> first | exact g | rfl
    | dsimp -proj only
    | split

theorem execEyeSweepEnd_dark {s x : State} {a0 a1 a2 a3} (h : Dark s x) :
    ∃ t, execEyeSweepEnd a0 a1 a2 a3 x = .next t ∧ Dark s t := by
  unfold execEyeSweepEnd
  repeat' first
    | with_reducible assumption
    | with_reducible refine done_dark ?_
    | with_reducible refine eyeAlarm_dark ?_
    | with_reducible refine qualityCheck_dark ?_
    | with_reducible refine modMeas_dark ?_
    | with_reducible refine ite_dark ?_ ?_
    | with_reducible refine foldl_dark ?_ (fun t a h => ?_)
    | with_reducible exact fun _ g => g
    | with_reducible exact fun _ _ => rfl
    | with_reducible exact fun n g => by (repeat' split) <;> first | exact g | rfl
    | dsimp -proj only
    | split

theorem execNop_dark {s x : State} {a0} (h : Dark s x) :
    ∃ t, execNop a0 x = .next t ∧ Dark s t := by
  unfold execNop
  repeat' first
    | with_reducible assumption
    | with_reducible refine done_dark ?_
    | with_reducible refine modWq_dark ?_
    | with_reducible refine noteFence_dark ?_
    | with_reducible refine endEntry_dark ?_
    | with_reducible refine ite_dark ?_ ?_
    | with_reducible refine foldl_dark ?_ (fun t a h => ?_)
    | with_reducible exact fun _ g => g
    | with_reducible exact fun _ _ => rfl
    | with_reducible exact fun n g => by (repeat' split) <;> first | exact g | rfl
    | dsimp -proj only
    | split

theorem execWeltCauseArises_dark {s x : State} {a0} (h : Dark s x) :
    ∃ t, execWeltCauseArises a0 x = .next t ∧ Dark s t := by
  unfold execWeltCauseArises
  repeat' first
    | with_reducible assumption
    | with_reducible refine done_dark ?_
    | with_reducible refine settle_dark ?_
    | with_reducible refine modPower_dark ?_
    | with_reducible refine enterReset_dark ?_
    | with_reducible refine modPins_dark ?_
    | with_reducible refine ite_dark ?_ ?_
    | with_reducible refine foldl_dark ?_ (fun t a h => ?_)
    | with_reducible exact fun _ g => g
    | with_reducible exact fun _ _ => rfl
    | with_reducible exact fun n g => by (repeat' split) <;> first | exact g | rfl
    | dsimp -proj only
    | split

theorem execSpareRetry_dark {s x : State} {a0} (h : Dark s x) :
    ∃ t, execSpareRetry a0 x = .next t ∧ Dark s t := by
  unfold execSpareRetry
  repeat' first
    | with_reducible assumption
    | with_reducible refine done_dark ?_
    | with_reducible refine retrySwap_dark ?_
    | with_reducible refine resendRelease_dark ?_
    | with_reducible refine ite_dark ?_ ?_
    | with_reducible refine foldl_dark ?_ (fun t a h => ?_)
    | with_reducible exact fun _ g => g
    | with_reducible exact fun _ _ => rfl
    | with_reducible exact fun n g => by (repeat' split) <;> first | exact g | rfl
    | dsimp -proj only
    | split

theorem execWakeFail_dark {s x : State} {a0} (h : Dark s x) :
    ∃ t, execWakeFail a0 x = .next t ∧ Dark s t := by
  unfold execWakeFail
  repeat' first
    | with_reducible assumption
    | with_reducible refine done_dark ?_
    | with_reducible refine logK_dark ?_
    | with_reducible refine requestRetrain_dark ?_
    | with_reducible refine ite_dark ?_ ?_
    | with_reducible refine foldl_dark ?_ (fun t a h => ?_)
    | with_reducible exact fun _ g => g
    | with_reducible exact fun _ _ => rfl
    | with_reducible exact fun n g => by (repeat' split) <;> first | exact g | rfl
    | dsimp -proj only
    | split

theorem execCaptureStop_dark {s x : State} {a0} (h : Dark s x) :
    ∃ t, execCaptureStop a0 x = .next t ∧ Dark s t := by
  unfold execCaptureStop
  repeat' first
    | with_reducible assumption
    | with_reducible refine done_dark ?_
    | with_reducible refine stopCapture_dark ?_
    | with_reducible refine ite_dark ?_ ?_
    | with_reducible refine foldl_dark ?_ (fun t a h => ?_)
    | with_reducible exact fun _ g => g
    | with_reducible exact fun _ _ => rfl
    | with_reducible exact fun n g => by (repeat' split) <;> first | exact g | rfl
    | dsimp -proj only
    | split

theorem execTwbSclLow_dark {s x : State} {a0} (h : Dark s x) :
    ∃ t, execTwbSclLow a0 x = .next t ∧ Dark s t := by
  unfold execTwbSclLow
  repeat' first
    | with_reducible assumption
    | with_reducible refine modTwb_dark ?_
    | with_reducible refine done_dark ?_
    | with_reducible refine endEeprom_dark ?_
    | with_reducible refine logEvent_dark ?_
    | with_reducible refine ite_dark ?_ ?_
    | with_reducible refine foldl_dark ?_ (fun t a h => ?_)
    | with_reducible exact fun _ g => g
    | with_reducible exact fun _ _ => rfl
    | with_reducible exact fun n g => by (repeat' split) <;> first | exact g | rfl
    | dsimp -proj only
    | split

theorem execLnkctlAside_dark {s x : State} {a0 a1 a2} (h : Dark s x) :
    ∃ t, execLnkctlAside a0 a1 a2 x = .next t ∧ Dark s t := by
  unfold execLnkctlAside
  repeat' first
    | with_reducible assumption
    | with_reducible refine done_dark ?_
    | with_reducible refine writeTo_dark ?_
    | with_reducible refine ite_dark ?_ ?_
    | with_reducible refine foldl_dark ?_ (fun t a h => ?_)
    | with_reducible exact fun _ g => g
    | with_reducible exact fun _ _ => rfl
    | with_reducible exact fun n g => by (repeat' split) <;> first | exact g | rfl
    | dsimp -proj only
    | split

theorem execTwbSdaLow_dark {s x : State} {a0} (h : Dark s x) :
    ∃ t, execTwbSdaLow a0 x = .next t ∧ Dark s t := by
  unfold execTwbSdaLow
  repeat' first
    | with_reducible assumption
    | with_reducible refine modTwb_dark ?_
    | with_reducible refine done_dark ?_
    | with_reducible refine logEvent_dark ?_
    | with_reducible refine ite_dark ?_ ?_
    | with_reducible refine foldl_dark ?_ (fun t a h => ?_)
    | with_reducible exact fun _ g => g
    | with_reducible exact fun _ _ => rfl
    | with_reducible exact fun n g => by (repeat' split) <;> first | exact g | rfl
    | dsimp -proj only
    | split

theorem flushDue_dark {s x : State} {a0 a1} (h : Dark s x) : Dark s (flushDue a0 x a1) :=
  Dark.of_keeps (fun k hk => flushDue_keeps (a0 := a0) (a1 := a1) hk (k.same_refl x)) (by decide) h

theorem execSupplyInWindow_dark {s x : State} {a0} (h : Dark s x) :
    ∃ t, execSupplyInWindow a0 x = .next t ∧ Dark s t := by
  unfold execSupplyInWindow
  repeat' first
    | with_reducible assumption
    | with_reducible refine done_dark ?_
    | with_reducible refine modPower_dark ?_
    | with_reducible refine ite_dark ?_ ?_
    | with_reducible refine foldl_dark ?_ (fun t a h => ?_)
    | with_reducible exact fun _ g => g
    | with_reducible exact fun _ _ => rfl
    | with_reducible exact fun n g => by (repeat' split) <;> first | exact g | rfl
    | dsimp -proj only
    | split

theorem execSleepWake_dark {s x : State} {a0 a1} (h : Dark s x) :
    ∃ t, execSleepWake a0 a1 x = .next t ∧ Dark s t := by
  unfold execSleepWake
  repeat' first
    | with_reducible assumption
    | with_reducible refine done_dark ?_
    | with_reducible refine modLink_dark ?_
    | with_reducible refine modRx_dark ?_
    | with_reducible refine lockPlls_dark ?_
    | with_reducible refine ite_dark ?_ ?_
    | with_reducible refine foldl_dark ?_ (fun t a h => ?_)
    | with_reducible exact fun _ g => g
    | with_reducible exact fun _ _ => rfl
    | with_reducible exact fun n g => by (repeat' split) <;> first | exact g | rfl
    | dsimp -proj only
    | split

theorem execDevctlAside_dark {s x : State} {a0 a1} (h : Dark s x) :
    ∃ t, execDevctlAside a0 a1 x = .next t ∧ Dark s t := by
  unfold execDevctlAside
  repeat' first
    | with_reducible assumption
    | with_reducible refine done_dark ?_
    | with_reducible refine writeTo_dark ?_
    | with_reducible refine ite_dark ?_ ?_
    | with_reducible refine foldl_dark ?_ (fun t a h => ?_)
    | with_reducible exact fun _ g => g
    | with_reducible exact fun _ _ => rfl
    | with_reducible exact fun n g => by (repeat' split) <;> first | exact g | rfl
    | dsimp -proj only
    | split

theorem execCommit_dark {s x : State} {a0 a1} (h : Dark s x) :
    ∃ t, execCommit a0 a1 x = .next t ∧ Dark s t := by
  unfold execCommit
  repeat' first
    | with_reducible assumption
    | with_reducible refine done_dark ?_
    | with_reducible refine writeTo_dark ?_
    | with_reducible refine ite_dark ?_ ?_
    | with_reducible refine foldl_dark ?_ (fun t a h => ?_)
    | with_reducible exact fun _ g => g
    | with_reducible exact fun _ _ => rfl
    | with_reducible exact fun n g => by (repeat' split) <;> first | exact g | rfl
    | dsimp -proj only
    | split

theorem execSkipRateWindow_dark {s x : State} (h : Dark s x) :
    ∃ t, execSkipRateWindow x = .next t ∧ Dark s t := by
  unfold execSkipRateWindow
  try dsimp -zeta -proj only [upd_lanes]
  repeat' first
    | with_reducible assumption
    | with_reducible refine done_dark ?_
    | refine mapLanes_dark ?_ ?_
    | with_reducible refine ite_dark ?_ ?_
    | with_reducible refine foldl_dark ?_ (fun t a h => ?_)
    | with_reducible exact fun _ g => g
    | with_reducible exact fun _ _ => rfl
    | with_reducible exact fun n g => by (repeat' split) <;> first | exact g | rfl
    | dsimp -proj only
    | split

theorem clockLost_dark {s x : State} {a0 a1} (h : Dark s x) :
    Dark s (clockLost x a0 a1) := by
  unfold clockLost
  repeat' first
    | with_reducible assumption
    | with_reducible refine forwardLost_dark ?_
    | with_reducible refine markLost_dark ?_
    | with_reducible refine afterLosses_dark ?_
    | with_reducible refine ite_dark ?_ ?_
    | with_reducible refine foldl_dark ?_ (fun t a h => ?_)
    | with_reducible exact fun _ g => g
    | with_reducible exact fun _ _ => rfl
    | with_reducible exact fun n g => by (repeat' split) <;> first | exact g | rfl
    | dsimp -proj only
    | split

theorem pllLost_dark {s x : State} {a0} (h : Dark s x) :
    Dark s (pllLost x a0) := by
  unfold pllLost
  repeat' first
    | with_reducible assumption
    | with_reducible refine clockLost_dark ?_
    | with_reducible refine ite_dark ?_ ?_
    | with_reducible refine foldl_dark ?_ (fun t a h => ?_)
    | with_reducible exact fun _ g => g
    | with_reducible exact fun _ _ => rfl
    | with_reducible exact fun n g => by (repeat' split) <;> first | exact g | rfl
    | dsimp -proj only
    | split

theorem execSidePllLoss_dark {s x : State} {a0} (h : Dark s x) :
    ∃ t, execSidePllLoss a0 x = .next t ∧ Dark s t := by
  unfold execSidePllLoss
  repeat' first
    | with_reducible assumption
    | with_reducible refine done_dark ?_
    | with_reducible refine pllUnlocked_dark ?_
    | with_reducible refine pllLost_dark ?_
    | with_reducible refine ite_dark ?_ ?_
    | with_reducible refine foldl_dark ?_ (fun t a h => ?_)
    | with_reducible exact fun _ g => g
    | with_reducible exact fun _ _ => rfl
    | with_reducible exact fun n g => by (repeat' split) <;> first | exact g | rfl
    | dsimp -proj only
    | split

theorem execCompletionWrite_dark {s x : State} {a0} (h : Dark s x) :
    ∃ t, execCompletionWrite a0 x = .next t ∧ Dark s t := by
  unfold execCompletionWrite
  repeat' first
    | with_reducible assumption
    | with_reducible refine done_dark ?_
    | with_reducible refine flushDue_dark ?_
    | with_reducible refine ite_dark ?_ ?_
    | with_reducible refine foldl_dark ?_ (fun t a h => ?_)
    | with_reducible exact fun _ g => g
    | with_reducible exact fun _ _ => rfl
    | with_reducible exact fun n g => by (repeat' split) <;> first | exact g | rfl
    | dsimp -proj only
    | split

theorem setSuspended_dark {s x : State} {a0} (h : Dark s x) : Dark s (setSuspended x a0) :=
  Dark.of_keeps (fun k hk => setSuspended_keeps (a0 := a0) hk (k.same_refl x)) (by decide) h

theorem execCqheadWrite_dark {s x : State} {a0 a1 a2} (h : Dark s x) :
    ∃ t, execCqheadWrite a0 a1 a2 x = .next t ∧ Dark s t := by
  unfold execCqheadWrite
  repeat' first
    | with_reducible assumption
    | with_reducible refine done_dark ?_
    | with_reducible refine writeTo_dark ?_
    | with_reducible refine ite_dark ?_ ?_
    | with_reducible refine foldl_dark ?_ (fun t a h => ?_)
    | with_reducible exact fun _ g => g
    | with_reducible exact fun _ _ => rfl
    | with_reducible exact fun n g => by (repeat' split) <;> first | exact g | rfl
    | dsimp -proj only
    | split

theorem execRailInvalid_dark {s x : State} {a0} (h : Dark s x) :
    ∃ t, execRailInvalid a0 x = .next t ∧ Dark s t := by
  unfold execRailInvalid
  try dsimp -zeta -proj only [upd_jtag]
  repeat' first
    | with_reducible assumption
    | with_reducible refine done_dark ?_
    | with_reducible refine settle_dark ?_
    | with_reducible refine modPower_dark ?_
    | with_reducible refine railOutside_dark ?_
    | with_reducible refine enterReset_dark ?_
    | with_reducible refine putJtag_dark ?_
    | with_reducible refine ite_dark ?_ ?_
    | with_reducible refine foldl_dark ?_ (fun t a h => ?_)
    | with_reducible exact fun _ g => g
    | with_reducible exact fun _ _ => rfl
    | with_reducible exact fun n g => by (repeat' split) <;> first | exact g | rfl
    | dsimp -proj only
    | split

theorem execTwbStartStop_dark {s x : State} {a0 a1} (h : Dark s x) :
    ∃ t, execTwbStartStop a0 a1 x = .next t ∧ Dark s t := by
  unfold execTwbStartStop
  repeat' first
    | with_reducible assumption
    | with_reducible refine modTwb_dark ?_
    | with_reducible refine done_dark ?_
    | with_reducible refine ite_dark ?_ ?_
    | with_reducible refine foldl_dark ?_ (fun t a h => ?_)
    | with_reducible exact fun _ g => g
    | with_reducible exact fun _ _ => rfl
    | with_reducible exact fun n g => by (repeat' split) <;> first | exact g | rfl
    | dsimp -proj only
    | split

theorem execWqResume_dark {s x : State} {a0 a1 a2} (h : Dark s x) :
    ∃ t, execWqResume a0 a1 a2 x = .next t ∧ Dark s t := by
  unfold execWqResume
  repeat' first
    | with_reducible assumption
    | with_reducible refine done_dark ?_
    | with_reducible refine writeTo_dark ?_
    | with_reducible refine ite_dark ?_ ?_
    | with_reducible refine foldl_dark ?_ (fun t a h => ?_)
    | with_reducible exact fun _ g => g
    | with_reducible exact fun _ _ => rfl
    | with_reducible exact fun n g => by (repeat' split) <;> first | exact g | rfl
    | dsimp -proj only
    | split

theorem standbyLanes_dark {s y z : State} (e : z.lanes = y.lanes.map standbyLane) : Dark s z := by
  intro _ p _ sd
  unfold getLane
  rw [e]
  have e : (y.lanes.map standbyLane)[laneIx sd p] = standbyLane y.lanes[laneIx sd p] := Vector.getElem_map ..
  rw [e]
  rfl

theorem enterStandby_dark {s x : State} (h : Dark s x) : Dark s (enterStandby x) := by
  unfold enterStandby
  split
  · exact h
  · exact loadPrograms_dark (loadSpares_dark (loadQueues_dark (standbyLanes_dark rfl)))

theorem execStandbyEntered_dark {s x : State} (h : Dark s x) :
    ∃ t, execStandbyEntered x = .next t ∧ Dark s t := by
  unfold execStandbyEntered
  repeat' first
    | with_reducible assumption
    | with_reducible refine enterStandby_dark ?_
    | with_reducible refine done_dark ?_
    | with_reducible refine ite_dark ?_ ?_
    | with_reducible refine foldl_dark ?_ (fun t a h => ?_)
    | with_reducible exact fun _ g => g
    | with_reducible exact fun _ _ => rfl
    | with_reducible exact fun n g => by (repeat' split) <;> first | exact g | rfl
    | dsimp -proj only
    | split

theorem raiseWarn_dark {s x : State} {a0} (h : Dark s x) :
    Dark s (raiseWarn x a0) := by
  unfold raiseWarn
  try dsimp -zeta -proj only [upd_therm]
  repeat' first
    | with_reducible assumption
    | with_reducible refine logEvent_dark ?_
    | with_reducible refine settle_dark ?_
    | with_reducible refine partAside_dark ?_
    | with_reducible refine putTherm_dark ?_
    | with_reducible refine ite_dark ?_ ?_
    | with_reducible refine foldl_dark ?_ (fun t a h => ?_)
    | with_reducible exact fun _ g => g
    | with_reducible exact fun _ _ => rfl
    | with_reducible exact fun n g => by (repeat' split) <;> first | exact g | rfl
    | dsimp -proj only
    | split

theorem execThermalSample_dark {s x : State} {a0} (h : Dark s x) :
    ∃ t, execThermalSample a0 x = .next t ∧ Dark s t := by
  unfold execThermalSample
  try dsimp -zeta -proj only [upd_therm]
  repeat' first
    | with_reducible assumption
    | with_reducible refine done_dark ?_
    | with_reducible refine enterShutdown_dark ?_
    | with_reducible refine raiseWarn_dark ?_
    | with_reducible refine putTherm_dark ?_
    | with_reducible refine ite_dark ?_ ?_
    | with_reducible refine foldl_dark ?_ (fun t a h => ?_)
    | with_reducible exact fun _ g => g
    | with_reducible exact fun _ _ => rfl
    | with_reducible exact fun n g => by (repeat' split) <;> first | exact g | rfl
    | dsimp -proj only
    | split

theorem execNotifyRepeat_dark {s x : State} (h : Dark s x) :
    ∃ t, execNotifyRepeat x = .next t ∧ Dark s t := by
  unfold execNotifyRepeat
  repeat' first
    | with_reducible assumption
    | with_reducible refine done_dark ?_
    | with_reducible refine queueNotify_dark ?_
    | with_reducible refine ite_dark ?_ ?_
    | with_reducible refine foldl_dark ?_ (fun t a h => ?_)
    | with_reducible exact fun _ g => g
    | with_reducible exact fun _ _ => rfl
    | with_reducible exact fun n g => by (repeat' split) <;> first | exact g | rfl
    | dsimp -proj only
    | split

theorem execEpochUnsent_dark {s x : State} {a0 a1} (h : Dark s x) :
    ∃ t, execEpochUnsent a0 a1 x = .next t ∧ Dark s t := by
  unfold execEpochUnsent
  repeat' first
    | with_reducible assumption
    | with_reducible refine done_dark ?_
    | with_reducible refine clearMark_dark ?_
    | with_reducible refine logK_dark ?_
    | with_reducible refine ite_dark ?_ ?_
    | with_reducible refine foldl_dark ?_ (fun t a h => ?_)
    | with_reducible exact fun _ g => g
    | with_reducible exact fun _ _ => rfl
    | with_reducible exact fun n g => by (repeat' split) <;> first | exact g | rfl
    | dsimp -proj only
    | split

theorem execDiscard_dark {s x : State} {a0 a1} (h : Dark s x) :
    ∃ t, execDiscard a0 a1 x = .next t ∧ Dark s t := by
  unfold execDiscard
  repeat' first
    | with_reducible assumption
    | with_reducible refine done_dark ?_
    | with_reducible refine writeTo_dark ?_
    | with_reducible refine ite_dark ?_ ?_
    | with_reducible refine foldl_dark ?_ (fun t a h => ?_)
    | with_reducible exact fun _ g => g
    | with_reducible exact fun _ _ => rfl
    | with_reducible exact fun n g => by (repeat' split) <;> first | exact g | rfl
    | dsimp -proj only
    | split

theorem execLnklossUncap_dark {s x : State} {a0 a1 a2} (h : Dark s x) :
    ∃ t, execLnklossUncap a0 a1 a2 x = .next t ∧ Dark s t := by
  unfold execLnklossUncap
  repeat' first
    | with_reducible assumption
    | with_reducible refine done_dark ?_
    | with_reducible refine writeTo_dark ?_
    | with_reducible refine ite_dark ?_ ?_
    | with_reducible refine foldl_dark ?_ (fun t a h => ?_)
    | with_reducible exact fun _ g => g
    | with_reducible exact fun _ _ => rfl
    | with_reducible exact fun n g => by (repeat' split) <;> first | exact g | rfl
    | dsimp -proj only
    | split

theorem execJobStart_dark {s x : State} {a0 a1} (h : Dark s x) :
    ∃ t, execJobStart a0 a1 x = .next t ∧ Dark s t := by
  unfold execJobStart
  repeat' first
    | with_reducible assumption
    | with_reducible refine done_dark ?_
    | with_reducible refine startJob_dark ?_
    | with_reducible refine ite_dark ?_ ?_
    | with_reducible refine foldl_dark ?_ (fun t a h => ?_)
    | with_reducible exact fun _ g => g
    | with_reducible exact fun _ _ => rfl
    | with_reducible exact fun n g => by (repeat' split) <;> first | exact g | rfl
    | dsimp -proj only
    | split

theorem execTwbSleep_dark {s x : State} (h : Dark s x) :
    ∃ t, execTwbSleep x = .next t ∧ Dark s t := by
  unfold execTwbSleep
  repeat' first
    | with_reducible assumption
    | with_reducible refine modTwb_dark ?_
    | with_reducible refine done_dark ?_
    | with_reducible refine ite_dark ?_ ?_
    | with_reducible refine foldl_dark ?_ (fun t a h => ?_)
    | with_reducible exact fun _ g => g
    | with_reducible exact fun _ _ => rfl
    | with_reducible exact fun n g => by (repeat' split) <;> first | exact g | rfl
    | dsimp -proj only
    | split

theorem execWqReset_dark {s x : State} {a0 a1 a2} (h : Dark s x) :
    ∃ t, execWqReset a0 a1 a2 x = .next t ∧ Dark s t := by
  unfold execWqReset
  repeat' first
    | with_reducible assumption
    | with_reducible refine done_dark ?_
    | with_reducible refine writeTo_dark ?_
    | with_reducible refine ite_dark ?_ ?_
    | with_reducible refine foldl_dark ?_ (fun t a h => ?_)
    | with_reducible exact fun _ g => g
    | with_reducible exact fun _ _ => rfl
    | with_reducible exact fun n g => by (repeat' split) <;> first | exact g | rfl
    | dsimp -proj only
    | split

theorem execJoinTrigger_dark {s x : State} {a0 a1} (h : Dark s x) :
    ∃ t, execJoinTrigger a0 a1 x = .next t ∧ Dark s t := by
  unfold execJoinTrigger
  repeat' first
    | with_reducible assumption
    | with_reducible refine done_dark ?_
    | with_reducible refine startJoin_dark ?_
    | with_reducible refine ite_dark ?_ ?_
    | with_reducible refine foldl_dark ?_ (fun t a h => ?_)
    | with_reducible exact fun _ g => g
    | with_reducible exact fun _ _ => rfl
    | with_reducible exact fun n g => by (repeat' split) <;> first | exact g | rfl
    | dsimp -proj only
    | split

theorem execLogTokenTick_dark {s x : State} (h : Dark s x) :
    ∃ t, execLogTokenTick x = .next t ∧ Dark s t := by
  unfold execLogTokenTick
  try dsimp -zeta -proj only [upd_nvm]
  repeat' first
    | with_reducible assumption
    | with_reducible refine done_dark ?_
    | with_reducible refine putNvm_dark ?_
    | with_reducible refine ite_dark ?_ ?_
    | with_reducible refine foldl_dark ?_ (fun t a h => ?_)
    | with_reducible exact fun _ g => g
    | with_reducible exact fun _ _ => rfl
    | with_reducible exact fun n g => by (repeat' split) <;> first | exact g | rfl
    | dsimp -proj only
    | split

theorem execRateDetected_dark {s x : State} {a0 a1 a2} (h : Dark s x) :
    ∃ t, execRateDetected a0 a1 a2 x = .next t ∧ Dark s t := by
  unfold execRateDetected
  repeat' first
    | with_reducible assumption
    | with_reducible refine done_dark ?_
    | with_reducible refine rateSeen_dark ?_
    | with_reducible refine ite_dark ?_ ?_
    | with_reducible refine foldl_dark ?_ (fun t a h => ?_)
    | with_reducible exact fun _ g => g
    | with_reducible exact fun _ _ => rfl
    | with_reducible exact fun n g => by (repeat' split) <;> first | exact g | rfl
    | dsimp -proj only
    | split

theorem execLnctlBitslip_dark {s x : State} {a0 a1 a2 a3} (h : Dark s x) :
    ∃ t, execLnctlBitslip a0 a1 a2 a3 x = .next t ∧ Dark s t := by
  unfold execLnctlBitslip
  repeat' first
    | with_reducible assumption
    | with_reducible refine done_dark ?_
    | with_reducible refine writeTo_dark ?_
    | with_reducible refine ite_dark ?_ ?_
    | with_reducible refine foldl_dark ?_ (fun t a h => ?_)
    | with_reducible exact fun _ g => g
    | with_reducible exact fun _ _ => rfl
    | with_reducible exact fun n g => by (repeat' split) <;> first | exact g | rfl
    | dsimp -proj only
    | split

theorem execForcedIdleRetrain_dark {s x : State} {a0} (h : Dark s x) :
    ∃ t, execForcedIdleRetrain a0 x = .next t ∧ Dark s t := by
  unfold execForcedIdleRetrain
  repeat' first
    | with_reducible assumption
    | with_reducible refine done_dark ?_
    | with_reducible refine modLink_dark ?_
    | with_reducible refine enterRetrain_dark ?_
    | with_reducible refine ite_dark ?_ ?_
    | with_reducible refine foldl_dark ?_ (fun t a h => ?_)
    | with_reducible exact fun _ g => g
    | with_reducible exact fun _ _ => rfl
    | with_reducible exact fun n g => by (repeat' split) <;> first | exact g | rfl
    | dsimp -proj only
    | split

theorem execTwbWriteWord_dark {s x : State} {a0 a1} (h : Dark s x) :
    ∃ t, execTwbWriteWord a0 a1 x = .next t ∧ Dark s t := by
  unfold execTwbWriteWord
  repeat' first
    | with_reducible assumption
    | with_reducible refine modTwb_dark ?_
    | with_reducible refine done_dark ?_
    | with_reducible refine busWrite_dark ?_
    | with_reducible refine upset_dark ?_
    | with_reducible refine ite_dark ?_ ?_
    | with_reducible refine foldl_dark ?_ (fun t a h => ?_)
    | with_reducible exact fun _ g => g
    | with_reducible exact fun _ _ => rfl
    | with_reducible exact fun n g => by (repeat' split) <;> first | exact g | rfl
    | dsimp -proj only
    | split

theorem cutNvm_dark {s x : State} (h : Dark s x) : Dark s (cutNvm x) :=
  Dark.of_keeps (fun k hk => cutNvm_keeps hk (k.same_refl x)) (by decide) h

theorem execStoreWrite_dark {s x : State} {a0 a1 a2 a3} (h : Dark s x) :
    ∃ t, execStoreWrite a0 a1 a2 a3 x = .next t ∧ Dark s t := by
  unfold execStoreWrite
  repeat' first
    | with_reducible assumption
    | with_reducible refine done_dark ?_
    | with_reducible refine busWrite_dark ?_
    | with_reducible refine upset_dark ?_
    | with_reducible refine ite_dark ?_ ?_
    | with_reducible refine foldl_dark ?_ (fun t a h => ?_)
    | with_reducible exact fun _ g => g
    | with_reducible exact fun _ _ => rfl
    | with_reducible exact fun n g => by (repeat' split) <;> first | exact g | rfl
    | dsimp -proj only
    | split

theorem execWqEnable_dark {s x : State} {a0 a1 a2} (h : Dark s x) :
    ∃ t, execWqEnable a0 a1 a2 x = .next t ∧ Dark s t := by
  unfold execWqEnable
  repeat' first
    | with_reducible assumption
    | with_reducible refine done_dark ?_
    | with_reducible refine writeTo_dark ?_
    | with_reducible refine ite_dark ?_ ?_
    | with_reducible refine foldl_dark ?_ (fun t a h => ?_)
    | with_reducible exact fun _ g => g
    | with_reducible exact fun _ _ => rfl
    | with_reducible exact fun n g => by (repeat' split) <;> first | exact g | rfl
    | dsimp -proj only
    | split

theorem execSyncEdge_dark {s x : State} (h : Dark s x) :
    ∃ t, execSyncEdge x = .next t ∧ Dark s t := by
  unfold execSyncEdge
  repeat' first
    | with_reducible assumption
    | with_reducible refine done_dark ?_
    | with_reducible refine syncSeen_dark ?_
    | with_reducible refine ite_dark ?_ ?_
    | with_reducible refine foldl_dark ?_ (fun t a h => ?_)
    | with_reducible exact fun _ g => g
    | with_reducible exact fun _ _ => rfl
    | with_reducible exact fun n g => by (repeat' split) <;> first | exact g | rfl
    | dsimp -proj only
    | split

theorem scanRow_dark {s x : State} {a0 a1 a2 a3} (h : Dark s x) : Dark s (scanRow x a0 a1 a2 a3) :=
  Dark.of_keeps (fun k hk => scanRow_keeps (a0 := a0) (a1 := a1) (a2 := a2) (a3 := a3) hk (k.same_refl x)) (by decide) h

theorem execAdcSelfCalEnd_dark {s x : State} (h : Dark s x) :
    ∃ t, execAdcSelfCalEnd x = .next t ∧ Dark s t := by
  unfold execAdcSelfCalEnd
  try dsimp -zeta -proj only [upd_cal]
  repeat' first
    | with_reducible assumption
    | with_reducible refine done_dark ?_
    | with_reducible refine resetDecimator_dark ?_
    | with_reducible refine putCal_dark ?_
    | with_reducible refine ite_dark ?_ ?_
    | with_reducible refine foldl_dark ?_ (fun t a h => ?_)
    | with_reducible exact fun _ g => g
    | with_reducible exact fun _ _ => rfl
    | with_reducible exact fun n g => by (repeat' split) <;> first | exact g | rfl
    | dsimp -proj only
    | split

theorem jobWrite_dark {s x : State} {a0 a1 a2} (h : Dark s x) : Dark s (jobWrite x a0 a1 a2).2.2 :=
  Dark.of_keeps (fun k hk => jobWrite_keeps (a0 := a0) (a1 := a1) (a2 := a2) hk (k.same_refl x)) (by decide) h

theorem jobWrite_dark_eq {s x : State} {a0 a1 a2} {r q u} (h : Dark s x) (e : jobWrite x a0 a1 a2 = (r, q, u)) :
    Dark s u := 
  Dark.of_keeps (fun k hk => jobWrite_keeps_eq (a0 := a0) (a1 := a1) (a2 := a2) hk (k.same_refl x) e) (by decide) h

theorem execHeaderWrite_dark {s x : State} {a0} (h : Dark s x) :
    ∃ t, execHeaderWrite a0 x = .next t ∧ Dark s t := by
  unfold execHeaderWrite
  repeat' first
    | with_reducible assumption
    | with_reducible refine done_dark ?_
    | with_reducible refine modWq_dark ?_
    | with_reducible refine jobWrite_dark ?_
    | with_reducible refine jobWrite_dark_eq ?_ (by with_reducible assumption)
    | with_reducible refine headerFault_dark ?_
    | with_reducible refine ite_dark ?_ ?_
    | with_reducible refine foldl_dark ?_ (fun t a h => ?_)
    | with_reducible exact fun _ g => g
    | with_reducible exact fun _ _ => rfl
    | with_reducible exact fun n g => by (repeat' split) <;> first | exact g | rfl
    | dsimp -proj only
    | split

theorem execTwbWake_dark {s x : State} {a0} (h : Dark s x) :
    ∃ t, execTwbWake a0 x = .next t ∧ Dark s t := by
  unfold execTwbWake
  repeat' first
    | with_reducible assumption
    | with_reducible refine done_dark ?_
    | with_reducible refine addressByte_dark ?_
    | with_reducible refine ite_dark ?_ ?_
    | with_reducible refine foldl_dark ?_ (fun t a h => ?_)
    | with_reducible exact fun _ g => g
    | with_reducible exact fun _ _ => rfl
    | with_reducible exact fun n g => by (repeat' split) <;> first | exact g | rfl
    | dsimp -proj only
    | split

theorem execPrbsLockLost_dark {s x : State} {a0 a1} (h : Dark s x) :
    ∃ t, execPrbsLockLost a0 a1 x = .next t ∧ Dark s t := by
  unfold execPrbsLockLost
  repeat' first
    | with_reducible assumption
    | with_reducible refine done_dark ?_
    | with_reducible refine logL_dark ?_
    | with_reducible refine modMeas_dark ?_
    | with_reducible refine modPrbsJob_dark ?_
    | with_reducible refine ite_dark ?_ ?_
    | with_reducible refine foldl_dark ?_ (fun t a h => ?_)
    | with_reducible exact fun _ g => g
    | with_reducible exact fun _ _ => rfl
    | with_reducible exact fun n g => by (repeat' split) <;> first | exact g | rfl
    | dsimp -proj only
    | split

theorem execAwlUnit_dark {s x : State} {a0 a1} (h : Dark s x) :
    ∃ t, execAwlUnit a0 a1 x = .next t ∧ Dark s t := by
  unfold execAwlUnit
  repeat' first
    | with_reducible assumption
    | with_reducible refine done_dark ?_
    | with_reducible refine writeTo_dark ?_
    | with_reducible refine ite_dark ?_ ?_
    | with_reducible refine foldl_dark ?_ (fun t a h => ?_)
    | with_reducible exact fun _ g => g
    | with_reducible exact fun _ _ => rfl
    | with_reducible exact fun n g => by (repeat' split) <;> first | exact g | rfl
    | dsimp -proj only
    | split

theorem execSequencerTimerTrigger_dark {s x : State} {a0} (h : Dark s x) :
    ∃ t, execSequencerTimerTrigger a0 x = .next t ∧ Dark s t := by
  unfold execSequencerTimerTrigger
  repeat' first
    | with_reducible assumption
    | with_reducible refine done_dark ?_
    | with_reducible refine trigger_dark ?_
    | with_reducible refine trigger_dark_eq ?_ (by with_reducible assumption)
    | with_reducible refine ite_dark ?_ ?_
    | with_reducible refine foldl_dark ?_ (fun t a h => ?_)
    | with_reducible exact fun _ g => g
    | with_reducible exact fun _ _ => rfl
    | with_reducible exact fun n g => by (repeat' split) <;> first | exact g | rfl
    | dsimp -proj only
    | split

theorem execEraseResume_dark {s x : State} (h : Dark s x) :
    ∃ t, execEraseResume x = .next t ∧ Dark s t := by
  unfold execEraseResume
  try dsimp -zeta -proj only [upd_nvm]
  repeat' first
    | with_reducible assumption
    | with_reducible refine done_dark ?_
    | with_reducible refine putNvm_dark ?_
    | with_reducible refine ite_dark ?_ ?_
    | with_reducible refine foldl_dark ?_ (fun t a h => ?_)
    | with_reducible exact fun _ g => g
    | with_reducible exact fun _ _ => rfl
    | with_reducible exact fun n g => by (repeat' split) <;> first | exact g | rfl
    | dsimp -proj only
    | split

theorem execIdlePeriodEnd_dark {s x : State} {a0} (h : Dark s x) :
    ∃ t, execIdlePeriodEnd a0 x = .next t ∧ Dark s t := by
  unfold execIdlePeriodEnd
  repeat' first
    | with_reducible assumption
    | with_reducible refine done_dark ?_
    | with_reducible refine modLink_dark ?_
    | with_reducible refine enterDetect_dark ?_
    | with_reducible refine ite_dark ?_ ?_
    | with_reducible refine foldl_dark ?_ (fun t a h => ?_)
    | with_reducible exact fun _ g => g
    | with_reducible exact fun _ _ => rfl
    | with_reducible exact fun n g => by (repeat' split) <;> first | exact g | rfl
    | dsimp -proj only
    | split

theorem execLoopFarEnd_dark {s x : State} {a0 a1 a2 a3} (h : Dark s x) :
    ∃ t, execLoopFarEnd a0 a1 a2 a3 x = .next t ∧ Dark s t := by
  unfold execLoopFarEnd
  repeat' first
    | with_reducible assumption
    | with_reducible refine done_dark ?_
    | with_reducible refine writeTo_dark ?_
    | with_reducible refine ite_dark ?_ ?_
    | with_reducible refine foldl_dark ?_ (fun t a h => ?_)
    | with_reducible exact fun _ g => g
    | with_reducible exact fun _ _ => rfl
    | with_reducible exact fun n g => by (repeat' split) <;> first | exact g | rfl
    | dsimp -proj only
    | split

theorem suspendForJob_dark {s x : State} (h : Dark s x) : Dark s (suspendForJob x) :=
  Dark.of_keeps (fun k hk => suspendForJob_keeps hk (k.same_refl x)) (by decide) h

theorem execSpareLockTimer_dark {s x : State} {a0 a1 a2 a3} (h : Dark s x) :
    ∃ t, execSpareLockTimer a0 a1 a2 a3 x = .next t ∧ Dark s t := by
  unfold execSpareLockTimer
  repeat' first
    | with_reducible assumption
    | with_reducible refine done_dark ?_
    | with_reducible refine setSpare_dark ?_
    | with_reducible refine ite_dark ?_ ?_
    | with_reducible refine foldl_dark ?_ (fun t a h => ?_)
    | with_reducible exact fun _ g => g
    | with_reducible exact fun _ _ => rfl
    | with_reducible exact fun n g => by (repeat' split) <;> first | exact g | rfl
    | dsimp -proj only
    | split

theorem execJobEnd_dark {s x : State} {a0} (h : Dark s x) :
    ∃ t, execJobEnd a0 x = .next t ∧ Dark s t := by
  unfold execJobEnd
  repeat' first
    | with_reducible assumption
    | with_reducible refine done_dark ?_
    | with_reducible refine ownDone_dark ?_
    | with_reducible refine retireJob_dark ?_
    | with_reducible refine ite_dark ?_ ?_
    | with_reducible refine foldl_dark ?_ (fun t a h => ?_)
    | with_reducible exact fun _ g => g
    | with_reducible exact fun _ _ => rfl
    | with_reducible exact fun n g => by (repeat' split) <;> first | exact g | rfl
    | dsimp -proj only
    | split

theorem writePrbs_dark {s x : State} {a0 a1} (h : Dark s x) : Dark s (writePrbs x a0 a1) :=
  Dark.of_keeps (fun k hk => writePrbs_keeps (a0 := a0) (a1 := a1) hk (k.same_refl x)) (by decide) h

theorem execPrbsJobDurationEnd_dark {s x : State} {a0 a1} (h : Dark s x) :
    ∃ t, execPrbsJobDurationEnd a0 a1 x = .next t ∧ Dark s t := by
  unfold execPrbsJobDurationEnd
  repeat' first
    | with_reducible assumption
    | with_reducible refine done_dark ?_
    | with_reducible refine stopPrbs_dark ?_
    | with_reducible refine writePrbs_dark ?_
    | with_reducible refine coolIdle_dark ?_
    | with_reducible refine ite_dark ?_ ?_
    | with_reducible refine foldl_dark ?_ (fun t a h => ?_)
    | with_reducible exact fun _ g => g
    | with_reducible exact fun _ _ => rfl
    | with_reducible exact fun n g => by (repeat' split) <;> first | exact g | rfl
    | dsimp -proj only
    | split

theorem execEraseSuspend_dark {s x : State} {a0} (h : Dark s x) :
    ∃ t, execEraseSuspend a0 x = .next t ∧ Dark s t := by
  unfold execEraseSuspend
  repeat' first
    | with_reducible assumption
    | with_reducible refine setSuspended_dark ?_
    | with_reducible refine done_dark ?_
    | with_reducible refine ownDone_dark ?_
    | with_reducible refine suspendForJob_dark ?_
    | with_reducible refine ite_dark ?_ ?_
    | with_reducible refine foldl_dark ?_ (fun t a h => ?_)
    | with_reducible exact fun _ g => g
    | with_reducible exact fun _ _ => rfl
    | with_reducible exact fun n g => by (repeat' split) <;> first | exact g | rfl
    | dsimp -proj only
    | split

theorem execTwbAddress_dark {s x : State} {a0 a1} (h : Dark s x) :
    ∃ t, execTwbAddress a0 a1 x = .next t ∧ Dark s t := by
  unfold execTwbAddress
  repeat' first
    | with_reducible assumption
    | with_reducible refine done_dark ?_
    | with_reducible refine addressByte_dark ?_
    | with_reducible refine ite_dark ?_ ?_
    | with_reducible refine foldl_dark ?_ (fun t a h => ?_)
    | with_reducible exact fun _ g => g
    | with_reducible exact fun _ _ => rfl
    | with_reducible exact fun n g => by (repeat' split) <;> first | exact g | rfl
    | dsimp -proj only
    | split

theorem execDevctlWake_dark {s x : State} {a0 a1} (h : Dark s x) :
    ∃ t, execDevctlWake a0 a1 x = .next t ∧ Dark s t := by
  unfold execDevctlWake
  repeat' first
    | with_reducible assumption
    | with_reducible refine done_dark ?_
    | with_reducible refine writeTo_dark ?_
    | with_reducible refine ite_dark ?_ ?_
    | with_reducible refine foldl_dark ?_ (fun t a h => ?_)
    | with_reducible exact fun _ g => g
    | with_reducible exact fun _ _ => rfl
    | with_reducible exact fun n g => by (repeat' split) <;> first | exact g | rfl
    | dsimp -proj only
    | split

theorem execLnkspcmdBack_dark {s x : State} {a0 a1 a2} (h : Dark s x) :
    ∃ t, execLnkspcmdBack a0 a1 a2 x = .next t ∧ Dark s t := by
  unfold execLnkspcmdBack
  repeat' first
    | with_reducible assumption
    | with_reducible refine done_dark ?_
    | with_reducible refine writeTo_dark ?_
    | with_reducible refine ite_dark ?_ ?_
    | with_reducible refine foldl_dark ?_ (fun t a h => ?_)
    | with_reducible exact fun _ g => g
    | with_reducible exact fun _ _ => rfl
    | with_reducible exact fun n g => by (repeat' split) <;> first | exact g | rfl
    | dsimp -proj only
    | split

theorem execLnsnapTake_dark {s x : State} {a0 a1 a2 a3} (h : Dark s x) :
    ∃ t, execLnsnapTake a0 a1 a2 a3 x = .next t ∧ Dark s t := by
  unfold execLnsnapTake
  repeat' first
    | with_reducible assumption
    | with_reducible refine done_dark ?_
    | with_reducible refine writeTo_dark ?_
    | with_reducible refine ite_dark ?_ ?_
    | with_reducible refine foldl_dark ?_ (fun t a h => ?_)
    | with_reducible exact fun _ g => g
    | with_reducible exact fun _ _ => rfl
    | with_reducible exact fun n g => by (repeat' split) <;> first | exact g | rfl
    | dsimp -proj only
    | split

theorem execLnkctlJoin_dark {s x : State} {a0 a1 a2} (h : Dark s x) :
    ∃ t, execLnkctlJoin a0 a1 a2 x = .next t ∧ Dark s t := by
  unfold execLnkctlJoin
  repeat' first
    | with_reducible assumption
    | with_reducible refine done_dark ?_
    | with_reducible refine writeTo_dark ?_
    | with_reducible refine ite_dark ?_ ?_
    | with_reducible refine foldl_dark ?_ (fun t a h => ?_)
    | with_reducible exact fun _ g => g
    | with_reducible exact fun _ _ => rfl
    | with_reducible exact fun n g => by (repeat' split) <;> first | exact g | rfl
    | dsimp -proj only
    | split

theorem execLoopMasterMoved_dark {s x : State} {a0 a1} (h : Dark s x) :
    ∃ t, execLoopMasterMoved a0 a1 x = .next t ∧ Dark s t := by
  unfold execLoopMasterMoved
  repeat' first
    | with_reducible assumption
    | with_reducible refine done_dark ?_
    | with_reducible refine modLink_dark ?_
    | with_reducible refine modRx_dark ?_
    | with_reducible refine logLane_dark ?_
    | with_reducible refine ite_dark ?_ ?_
    | with_reducible refine foldl_dark ?_ (fun t a h => ?_)
    | with_reducible exact fun _ g => g
    | with_reducible exact fun _ _ => rfl
    | with_reducible exact fun n g => by (repeat' split) <;> first | exact g | rfl
    | dsimp -proj only
    | split

theorem execCommaReceived_dark {s x : State} {a0 a1 a2} (h : Dark s x) :
    ∃ t, execCommaReceived a0 a1 a2 x = .next t ∧ Dark s t := by
  unfold execCommaReceived
  repeat' first
    | with_reducible assumption
    | with_reducible refine done_dark ?_
    | with_reducible refine lockFollows_dark ?_
    | with_reducible refine modRx_dark ?_
    | with_reducible refine symLossRetrain_dark ?_
    | with_reducible refine ite_dark ?_ ?_
    | with_reducible refine foldl_dark ?_ (fun t a h => ?_)
    | with_reducible exact fun _ g => g
    | with_reducible exact fun _ _ => rfl
    | with_reducible exact fun n g => by (repeat' split) <;> first | exact g | rfl
    | dsimp -proj only
    | split

theorem execIdleEntrySetReceived_dark {s x : State} {a0 a1} (h : Dark s x) :
    ∃ t, execIdleEntrySetReceived a0 a1 x = .next t ∧ Dark s t := by
  unfold execIdleEntrySetReceived
  repeat' first
    | with_reducible assumption
    | with_reducible refine done_dark ?_
    | with_reducible refine idleEntry_dark ?_
    | with_reducible refine ite_dark ?_ ?_
    | with_reducible refine foldl_dark ?_ (fun t a h => ?_)
    | with_reducible exact fun _ g => g
    | with_reducible exact fun _ _ => rfl
    | with_reducible exact fun n g => by (repeat' split) <;> first | exact g | rfl
    | dsimp -proj only
    | split

theorem execJtagTapReset_dark {s x : State} (h : Dark s x) :
    ∃ t, execJtagTapReset x = .next t ∧ Dark s t := by
  unfold execJtagTapReset
  try dsimp -zeta -proj only [upd_pins_jtag]
  repeat' first
    | with_reducible assumption
    | with_reducible refine done_dark ?_
    | with_reducible refine putPins_dark ?_
    | with_reducible refine putJtag_dark ?_
    | with_reducible refine ite_dark ?_ ?_
    | with_reducible refine foldl_dark ?_ (fun t a h => ?_)
    | with_reducible exact fun _ g => g
    | with_reducible exact fun _ _ => rfl
    | with_reducible exact fun n g => by (repeat' split) <;> first | exact g | rfl
    | dsimp -proj only
    | split

theorem execUnrecoveredTimeout_dark {s x : State} {a0 a1 a2} (h : Dark s x) :
    ∃ t, execUnrecoveredTimeout a0 a1 a2 x = .next t ∧ Dark s t := by
  unfold execUnrecoveredTimeout
  repeat' first
    | with_reducible assumption
    | with_reducible refine done_dark ?_
    | with_reducible refine setUnrecovered_dark ?_
    | with_reducible refine ite_dark ?_ ?_
    | with_reducible refine foldl_dark ?_ (fun t a h => ?_)
    | with_reducible exact fun _ g => g
    | with_reducible exact fun _ _ => rfl
    | with_reducible exact fun n g => by (repeat' split) <;> first | exact g | rfl
    | dsimp -proj only
    | split

theorem execLoopNearSerial_dark {s x : State} {a0 a1 a2 a3} (h : Dark s x) :
    ∃ t, execLoopNearSerial a0 a1 a2 a3 x = .next t ∧ Dark s t := by
  unfold execLoopNearSerial
  repeat' first
    | with_reducible assumption
    | with_reducible refine done_dark ?_
    | with_reducible refine writeTo_dark ?_
    | with_reducible refine ite_dark ?_ ?_
    | with_reducible refine foldl_dark ?_ (fun t a h => ?_)
    | with_reducible exact fun _ g => g
    | with_reducible exact fun _ _ => rfl
    | with_reducible exact fun n g => by (repeat' split) <;> first | exact g | rfl
    | dsimp -proj only
    | split

theorem execJtagBypass_dark {s x : State} {a0} (h : Dark s x) :
    ∃ t, execJtagBypass a0 x = .next t ∧ Dark s t := by
  unfold execJtagBypass
  repeat' first
    | with_reducible assumption
    | with_reducible refine done_dark ?_
    | with_reducible refine jtagLoad_dark ?_
    | with_reducible refine modJtag_dark ?_
    | with_reducible refine ite_dark ?_ ?_
    | with_reducible refine foldl_dark ?_ (fun t a h => ?_)
    | with_reducible exact fun _ g => g
    | with_reducible exact fun _ _ => rfl
    | with_reducible exact fun n g => by (repeat' split) <;> first | exact g | rfl
    | dsimp -proj only
    | split

theorem execEyescan_dark {s x : State} {a0 a1 a2} (h : Dark s x) :
    ∃ t, execEyescan a0 a1 a2 x = .next t ∧ Dark s t := by
  unfold execEyescan
  repeat' first
    | with_reducible assumption
    | with_reducible refine done_dark ?_
    | with_reducible refine scanRow_dark ?_
    | with_reducible refine ite_dark ?_ ?_
    | with_reducible refine foldl_dark ?_ (fun t a h => ?_)
    | with_reducible exact fun _ g => g
    | with_reducible exact fun _ _ => rfl
    | with_reducible exact fun n g => by (repeat' split) <;> first | exact g | rfl
    | dsimp -proj only
    | split

theorem execAwlLane_dark {s x : State} {a0 a1} (h : Dark s x) :
    ∃ t, execAwlLane a0 a1 x = .next t ∧ Dark s t := by
  unfold execAwlLane
  repeat' first
    | with_reducible assumption
    | with_reducible refine done_dark ?_
    | with_reducible refine writeTo_dark ?_
    | with_reducible refine ite_dark ?_ ?_
    | with_reducible refine foldl_dark ?_ (fun t a h => ?_)
    | with_reducible exact fun _ g => g
    | with_reducible exact fun _ _ => rfl
    | with_reducible exact fun n g => by (repeat' split) <;> first | exact g | rfl
    | dsimp -proj only
    | split

theorem execArbitrationLost_dark {s x : State} (h : Dark s x) :
    ∃ t, execArbitrationLost x = .next t ∧ Dark s t := by
  unfold execArbitrationLost
  dsimp -zeta -proj only [upd_boot]
  split
  · have g : Dark s (x.putBoot { x.boot with phase := 1, arbLost := x.boot.arbLost + 1 }) :=
      putBoot_dark h
    refine done_dark ?_
    exact ite_dark (endEeprom_dark g) g
  · exact done_dark h

theorem exec_dark {s x : State} {a0} (h : Dark s x) : ∃ t, exec a0 x = .next t ∧ Dark s t := by
  cases a0 with
  | weltCauseArises c => exact execWeltCauseArises_dark (a0 := c) h
  | weltCauseClears c => exact execWeltCauseClears_dark (a0 := c) h
  | weltOpenConfirmed p => exact execWeltOpenConfirmed_dark (a0 := p) h
  | chargePumpReady => exact execChargePumpReady_dark h
  | railValid r => exact execRailValid_dark (a0 := r) h
  | railInvalid r => exact execRailInvalid_dark (a0 := r) h
  | supplyOutOfWindow r => exact execSupplyOutOfWindow_dark (a0 := r) h
  | resetNPulse => exact execResetNPulse_dark h
  | bypNPulse => exact execBypNPulse_dark h
  | resetRelease st => exact execResetRelease_dark (a0 := st) h
  | testEnHigh => exact execTestEnHigh_dark h
  | lastSelection => exact execLastSelection_dark h
  | eepromTransfer r => exact execEepromTransfer_dark (a0 := r) h
  | arbitrationLost => exact execArbitrationLost_dark h
  | globalApply => exact execGlobalApply_dark h
  | bootCalibration m => exact execBootCalibration_dark (a0 := m) h
  | bootDone => exact execBootDone_dark h
  | calrecWrite ok => exact execCalrecWrite_dark (a0 := ok) h
  | joinTrigger l k => exact execJoinTrigger_dark (a0 := l) (a1 := k) h
  | joinTimeout l => exact execJoinTimeout_dark (a0 := l) h
  | lnkctlJoin c l v => exact execLnkctlJoin_dark (a0 := c) (a1 := l) (a2 := v) h
  | lnkctlAside c l v => exact execLnkctlAside_dark (a0 := c) (a1 := l) (a2 := v) h
  | devctlAside c v => exact execDevctlAside_dark (a0 := c) (a1 := v) h
  | devctlStandby c v => exact execDevctlStandby_dark (a0 := c) (a1 := v) h
  | standbyEntered => exact execStandbyEntered_dark h
  | devctlWake c v => exact execDevctlWake_dark (a0 := c) (a1 := v) h
  | standbyExitDone => exact execStandbyExitDone_dark h
  | devctlThermRearm c v => exact execDevctlThermRearm_dark (a0 := c) (a1 := v) h
  | thermalSample t => exact execThermalSample_dark (a0 := t) h
  | lastStage m e => exact execLastStage_dark (a0 := m) (a1 := e) h
  | commit c v => exact execCommit_dark (a0 := c) (a1 := v) h
  | discard c v => exact execDiscard_dark (a0 := c) (a1 := v) h
  | linkSwitchInstant l => exact execLinkSwitchInstant_dark (a0 := l) h
  | skipAbsent l => exact execSkipAbsent_dark (a0 := l) h
  | idlePeriodEnd l => exact execIdlePeriodEnd_dark (a0 := l) h
  | commitRollback l => exact execCommitRollback_dark (a0 := l) h
  | padSetPasses l d => exact execPadSetPasses_dark (a0 := l) (a1 := d) h
  | epochUnsent l d => exact execEpochUnsent_dark (a0 := l) (a1 := d) h
  | rateDetected sd p r => exact execRateDetected_dark (a0 := sd) (a1 := p) (a2 := r) h
  | cdrLockGained sd p => exact execCdrLockGained_dark (a0 := sd) (a1 := p) h
  | cdrLockLost sd p => exact execCdrLockLost_dark (a0 := sd) (a1 := p) h
  | commaReceived sd p ph => exact execCommaReceived_dark (a0 := sd) (a1 := p) (a2 := ph) h
  | rxCodeGroup sd p g reads => exact execRxCodeGroup_dark (a0 := sd) (a1 := p) (a2 := g) (a3 := reads) h
  | lnctlRecentre c sd p v => exact execLnctlRecentre_dark (a0 := c) (a1 := sd) (a2 := p) (a3 := v) h
  | lnctlBitslip c sd p v => exact execLnctlBitslip_dark (a0 := c) (a1 := sd) (a2 := p) (a3 := v) h
  | skipSetArrives sd p k => exact execSkipSetArrives_dark (a0 := sd) (a1 := p) (a2 := k) h
  | skipRateWindow => exact execSkipRateWindow_dark h
  | loopMasterMoved l d => exact execLoopMasterMoved_dark (a0 := l) (a1 := d) h
  | swingLimit sd p c => exact execSwingLimit_dark (a0 := sd) (a1 := p) (a2 := c) h
  | swingRaise sd p room => exact execSwingRaise_dark (a0 := sd) (a1 := p) (a2 := room) h
  | lntxdrvWrite c sd p v => exact execLntxdrvWrite_dark (a0 := c) (a1 := sd) (a2 := p) (a3 := v) h
  | trimRampStep sd p t => exact execTrimRampStep_dark (a0 := sd) (a1 := p) (a2 := t) h
  | lnsnapTake c sd p v => exact execLnsnapTake_dark (a0 := c) (a1 := sd) (a2 := p) (a3 := v) h
  | lnsnapRelease c sd p v => exact execLnsnapRelease_dark (a0 := c) (a1 := sd) (a2 := p) (a3 := v) h
  | snapshotExpiry sd p => exact execSnapshotExpiry_dark (a0 := sd) (a1 := p) h
  | sidePllLoss q => exact execSidePllLoss_dark (a0 := q) h
  | corePllLoss => exact execCorePllLoss_dark h
  | pllRelockAttempt q ok => exact execPllRelockAttempt_dark (a0 := q) (a1 := ok) h
  | receiverDetect l sd mask => exact execReceiverDetect_dark (a0 := l) (a1 := sd) (a2 := mask) h
  | trainingSetReceived l sd k t => exact execTrainingSetReceived_dark (a0 := l) (a1 := sd) (a2 := k) (a3 := t) h
  | rateDiscard l => exact execRateDiscard_dark (a0 := l) h
  | trainTimeout l => exact execTrainTimeout_dark (a0 := l) h
  | presetSearchStep sd p o => exact execPresetSearchStep_dark (a0 := sd) (a1 := p) (a2 := o) h
  | lnkctlRetrain c l v => exact execLnkctlRetrain_dark (a0 := c) (a1 := l) (a2 := v) h
  | forcedIdleRetrain l => exact execForcedIdleRetrain_dark (a0 := l) h
  | electricalIdleDetected sd p => exact execElectricalIdleDetected_dark (a0 := sd) (a1 := p) h
  | lnkctlDisable c l v => exact execLnkctlDisable_dark (a0 := c) (a1 := l) (a2 := v) h
  | lnkctlClrRetrains c l v => exact execLnkctlClrRetrains_dark (a0 := c) (a1 := l) (a2 := v) h
  | idleEntrySetReceived l d => exact execIdleEntrySetReceived_dark (a0 := l) (a1 := d) h
  | sleepWake l sd => exact execSleepWake_dark (a0 := l) (a1 := sd) h
  | wakeFail l => exact execWakeFail_dark (a0 := l) h
  | deepEntryTimeout l => exact execDeepEntryTimeout_dark (a0 := l) h
  | lpGrantSeen l st => exact execLpGrantSeen_dark (a0 := l) (a1 := st) h
  | lpReqIdle l st => exact execLpReqIdle_dark (a0 := l) (a1 := st) h
  | unrecoveredTimeout l d k => exact execUnrecoveredTimeout_dark (a0 := l) (a1 := d) (a2 := k) h
  | spareLockTimer l n d locked => exact execSpareLockTimer_dark (a0 := l) (a1 := n) (a2 := d) (a3 := locked) h
  | spareRspReceived l sd r => exact execSpareRspReceived_dark (a0 := l) (a1 := sd) (a2 := r) h
  | spareMosForwarded l r => exact execSpareMosForwarded_dark (a0 := l) (a1 := r) h
  | swapTimeout l => exact execSwapTimeout_dark (a0 := l) h
  | spareRetry l => exact execSpareRetry_dark (a0 := l) h
  | predictiveEvaluation => exact execPredictiveEvaluation_dark h
  | lnkspcmdSwap c l v => exact execLnkspcmdSwap_dark (a0 := c) (a1 := l) (a2 := v) h
  | lnkspcmdBack c l v => exact execLnkspcmdBack_dark (a0 := c) (a1 := l) (a2 := v) h
  | lnklossUncap c l v => exact execLnklossUncap_dark (a0 := c) (a1 := l) (a2 := v) h
  | prbsGenEnable c sd p v => exact execPrbsGenEnable_dark (a0 := c) (a1 := sd) (a2 := p) (a3 := v) h
  | prbsChkEnable c sd p v => exact execPrbsChkEnable_dark (a0 := c) (a1 := sd) (a2 := p) (a3 := v) h
  | prbsInject c sd p v => exact execPrbsInject_dark (a0 := c) (a1 := sd) (a2 := p) (a3 := v) h
  | prbsCheckerLock sd p => exact execPrbsCheckerLock_dark (a0 := sd) (a1 := p) h
  | prbsLockLost sd p => exact execPrbsLockLost_dark (a0 := sd) (a1 := p) h
  | counterClr c sd p v => exact execCounterClr_dark (a0 := c) (a1 := sd) (a2 := p) (a3 := v) h
  | lnscanStart c sd p v => exact execLnscanStart_dark (a0 := c) (a1 := sd) (a2 := p) (a3 := v) h
  | scanPointDone sd p n => exact execScanPointDone_dark (a0 := sd) (a1 := p) (a2 := n) h
  | eyeSweepEnd sd p w h0 => exact execEyeSweepEnd_dark (a0 := sd) (a1 := p) (a2 := w) (a3 := h0) h
  | trainingSweepEnd sd p w h0 => exact execTrainingSweepEnd_dark (a0 := sd) (a1 := p) (a2 := w) (a3 := h0) h
  | loopNearSerial c sd p v => exact execLoopNearSerial_dark (a0 := c) (a1 := sd) (a2 := p) (a3 := v) h
  | loopNearParallel c sd p v => exact execLoopNearParallel_dark (a0 := c) (a1 := sd) (a2 := p) (a3 := v) h
  | loopFarEnd c sd p v => exact execLoopFarEnd_dark (a0 := c) (a1 := sd) (a2 := p) (a3 := v) h
  | loopOff c sd p v => exact execLoopOff_dark (a0 := c) (a1 := sd) (a2 := p) (a3 := v) h
  | calcmdGo c v => exact execCalcmdGo_dark (a0 := c) (a1 := v) h
  | calcmdSave c v => exact execCalcmdSave_dark (a0 := c) (a1 := v) h
  | recalEvaluation => exact execRecalEvaluation_dark h
  | recalStep last => exact execRecalStep_dark (a0 := last) h
  | recalAborted => exact execRecalAborted_dark h
  | adcSelfCal => exact execAdcSelfCal_dark h
  | adcSelfCalEnd => exact execAdcSelfCalEnd_dark h
  | twbAddress a rd => exact execTwbAddress_dark (a0 := a) (a1 := rd) h
  | twbWriteWord v e => exact execTwbWriteWord_dark (a0 := v) (a1 := e) h
  | twbReadWord e => exact execTwbReadWord_dark (a0 := e) h
  | twbStartStop k extra => exact execTwbStartStop_dark (a0 := k) (a1 := extra) h
  | twbLate => exact execTwbLate_dark h
  | twbWake a => exact execTwbWake_dark (a0 := a) h
  | twbSleep => exact execTwbSleep_dark h
  | twbSclLow extra => exact execTwbSclLow_dark (a0 := extra) h
  | twbSdaLow extra => exact execTwbSdaLow_dark (a0 := extra) h
  | mosReceived l sd m e => exact execMosReceived_dark (a0 := l) (a1 := sd) (a2 := m) (a3 := e) h
  | mosRd l sd seq a two e => exact execMosRd_dark (a0 := l) (a1 := sd) (a2 := seq) (a3 := a) (a4 := two) (a5 := e) h
  | mosWr l sd seq a v e => exact execMosWr_dark (a0 := l) (a1 := sd) (a2 := seq) (a3 := a) (a4 := v) (a5 := e) h
  | notifyRepeat => exact execNotifyRepeat_dark h
  | jtagExtest => exact execJtagExtest_dark h
  | jtagIdcode => exact execJtagIdcode_dark h
  | jtagSamplePreload => exact execJtagSamplePreload_dark h
  | jtagExtestPulse => exact execJtagExtestPulse_dark h
  | jtagExtestTrain => exact execJtagExtestTrain_dark h
  | jtagHighz => exact execJtagHighz_dark h
  | jtagClamp => exact execJtagClamp_dark h
  | jtagBypass op => exact execJtagBypass_dark (a0 := op) h
  | jtagTapReset => exact execJtagTapReset_dark h
  | storeRead c a e => exact execStoreRead_dark (a0 := c) (a1 := a) (a2 := e) h
  | storeWrite c a v e => exact execStoreWrite_dark (a0 := c) (a1 := a) (a2 := v) (a3 := e) h
  | windowEntryWrite c t pg v => exact execWindowEntryWrite_dark (a0 := c) (a1 := t) (a2 := pg) (a3 := v) h
  | winctlSync c v => exact execWinctlSync_dark (a0 := c) (a1 := v) h
  | syncBarrierDone c => exact execSyncBarrierDone_dark (a0 := c) h
  | scrubLine e => exact execScrubLine_dark (a0 := e) h
  | ceRateHour => exact execCeRateHour_dark h
  | storeCeClr c v => exact execStoreCeClr_dark (a0 := c) (a1 := v) h
  | wqEnable c q v => exact execWqEnable_dark (a0 := c) (a1 := q) (a2 := v) h
  | wqDisable c q v => exact execWqDisable_dark (a0 := c) (a1 := q) (a2 := v) h
  | wqReset c q v => exact execWqReset_dark (a0 := c) (a1 := q) (a2 := v) h
  | wqDoorbell c q v => exact execWqDoorbell_dark (a0 := c) (a1 := q) (a2 := v) h
  | entryPrefetch q e => exact execEntryPrefetch_dark (a0 := q) (a1 := e) h
  | headerWrite q => exact execHeaderWrite_dark (a0 := q) h
  | jobStart u heel => exact execJobStart_dark (a0 := u) (a1 := heel) h
  | preemptFlushDone m e => exact execPreemptFlushDone_dark (a0 := m) (a1 := e) h
  | jobEnd u => exact execJobEnd_dark (a0 := u) h
  | completionWrite q => exact execCompletionWrite_dark (a0 := q) h
  | drainComplete q => exact execDrainComplete_dark (a0 := q) h
  | cqEnable c q v => exact execCqEnable_dark (a0 := c) (a1 := q) (a2 := v) h
  | cqDisable c q v => exact execCqDisable_dark (a0 := c) (a1 := q) (a2 := v) h
  | cqheadWrite c q v => exact execCqheadWrite_dark (a0 := c) (a1 := q) (a2 := v) h
  | nop q => exact execNop_dark (a0 := q) h
  | fence q => exact execFence_dark (a0 := q) h
  | move m e => exact execMove_dark (a0 := m) (a1 := e) h
  | capture sd => exact execCapture_dark (a0 := sd) h
  | captureTrigger sd ln => exact execCaptureTrigger_dark (a0 := sd) (a1 := ln) h
  | captureStop sd => exact execCaptureStop_dark (a0 := sd) h
  | captureTimeout sd => exact execCaptureTimeout_dark (a0 := sd) h
  | captureLostPage sd => exact execCaptureLostPage_dark (a0 := sd) h
  | eyescan sd p row => exact execEyescan_dark (a0 := sd) (a1 := p) (a2 := row) h
  | eyescanLockTimeout sd p => exact execEyescanLockTimeout_dark (a0 := sd) (a1 := p) h
  | prbsJob sd p => exact execPrbsJob_dark (a0 := sd) (a1 := p) h
  | prbsJobInject sd p => exact execPrbsJobInject_dark (a0 := sd) (a1 := p) h
  | prbsJobDurationEnd sd p => exact execPrbsJobDurationEnd_dark (a0 := sd) (a1 := p) h
  | nvmRead e => exact execNvmRead_dark (a0 := e) h
  | nvmProgram e => exact execNvmProgram_dark (a0 := e) h
  | nvmUnitProgrammed ok => exact execNvmUnitProgrammed_dark (a0 := ok) h
  | nvmErase => exact execNvmErase_dark h
  | nvmSectorErased ok => exact execNvmSectorErased_dark (a0 := ok) h
  | eraseSuspend w => exact execEraseSuspend_dark (a0 := w) h
  | eraseResume => exact execEraseResume_dark h
  | telemetry m => exact execTelemetry_dark (a0 := m) h
  | imcSend => exact execImcSend_dark h
  | imcNoSlot => exact execImcNoSlot_dark h
  | wqResume c q v => exact execWqResume_dark (a0 := c) (a1 := q) (a2 := v) h
  | awlQueue c q => exact execAwlQueue_dark (a0 := c) (a1 := q) h
  | awlJob c q tag => exact execAwlJob_dark (a0 := c) (a1 := q) (a2 := tag) h
  | awlUnit c sel => exact execAwlUnit_dark (a0 := c) (a1 := sel) h
  | awlLane c sel => exact execAwlLane_dark (a0 := c) (a1 := sel) h
  | awlAll c => exact execAwlAll_dark (a0 := c) h
  | awlDone => exact execAwlDone_dark h
  | nvmWindowRead c off e => exact execNvmWindowRead_dark (a0 := c) (a1 := off) (a2 := e) h
  | nvmLogWrite ok => exact execNvmLogWrite_dark (a0 := ok) h
  | logTokenTick => exact execLogTokenTick_dark h
  | nvmctlCeClr c v => exact execNvmctlCeClr_dark (a0 := c) (a1 := v) h
  | sequencerTimerTrigger n => exact execSequencerTimerTrigger_dark (a0 := n) h
  | decimatorOutput v => exact execDecimatorOutput_dark (a0 := v) h
  | syncEdge => exact execSyncEdge_dark h
  | tmseqctlRestart c n v => exact execTmseqctlRestart_dark (a0 := c) (a1 := n) (a2 := v) h
  | dtimeLoadNow c v => exact execDtimeLoadNow_dark (a0 := c) (a1 := v) h
  | dtimeLoRead c => exact execDtimeLoRead_dark (a0 := c) h
  | dtrateWrite c v => exact execDtrateWrite_dark (a0 := c) (a1 := v) h
  | heelWatchdogTrip => exact execHeelWatchdogTrip_dark h
  | weltMismatch p stuckOpen => exact execWeltMismatch_dark (a0 := p) (a1 := stuckOpen) h
  | regReadClear c a e => exact execRegReadClear_dark (a0 := c) (a1 := a) (a2 := e) h
  | regWrite c a v e => exact execRegWrite_dark (a0 := c) (a1 := a) (a2 := v) (a3 := e) h
  | signalDetected sd p => exact execSignalDetected_dark (a0 := sd) (a1 := p) h
  | vioSplitThreshold => exact execVioSplitThreshold_dark h
  | supplyInWindow r => exact execSupplyInWindow_dark (a0 := r) h

theorem step_dark {s x : State} (h : Dark s x) : ∃ t, step x = .next t ∧ Dark s t := by
  unfold step
  dsimp -zeta -proj only [upd_pending]
  split
  · exact exec_dark (putPending_dark h)
  · exact ⟨tick x, rfl, Dark.of_keeps (fun k hk => tick_keeps hk (k.same_refl _)) (by decide) h⟩

end Sys2Proof.Machine
end

