-- ==== Sys2Proof/Laws/Follow.lean ====
section
/-! SUPPORT. What the Welt's common rule and the commands' common end leave: switches as their causes ask, links but for
what waits on them, and nothing at all to do in a state that agrees with a settled one where it matters. -/

namespace Sys2Proof.Machine

theorem done_of_same {s t : State} (h : s.settled = true) (hb : t.boot = s.boot) (hj : t.jtag = s.jtag) (he : t.evt = s.evt)
    (hc : t.cqs = s.cqs) (hh : t.heel = s.heel) (hu : t.units = s.units) (hi : t.imc = s.imc) : done t = .next t :=
  done_settled ((settled_congr hb hj he hc hh hu hi).trans h)

theorem linksButOut_of {s t : State} (h : t.links = s.links) : linksButOut s t := by
  intro l
  unfold getLink
  rw [h]
  exact Link.sameButOut_refl _

theorem linksButOut_trans {s t u : State} (h : linksButOut s t) (g : linksButOut t u) : linksButOut s u :=
  fun l => Link.sameButOut_trans (h l) (g l)

theorem watchAttn_links (s : State) : linksButOut s (watchAttn s) := by
  intro l
  unfold watchAttn
  dsimp only
  split
  · exact queueNotify_sameButOut (queueNotify_sameButOut fun j => Link.sameButOut_refl _) l
  · exact Link.sameButOut_refl _

/-- The commands' common end leaves every link but for what waits on it. -/
theorem fin_links (s : State) : linksButOut s (fin s) := by
  unfold fin
  refine linksButOut_trans (linksButOut_of ?_) (watchAttn_links _)
  have h : ∀ x : State, (unholdErase x).links = x.links := fun x => unholdErase_keeps (k := .links) (by decide) rfl
  rw [h]
  split
  · exact restartHeel_keeps (k := .links) (by decide) rfl
  · rfl

theorem Link.sameButOut_join {k j : Link} (h : k.sameButOut j) : j.sameJoin k := by
  unfold Link.sameButOut at h
  rw [← h]
  exact ⟨rfl, rfl⟩

theorem settleAll_follows (x : State) : weltFollows (settleAll x) := by
  intro p
  unfold settleAll
  obtain ⟨⟨a, b⟩, o⟩ := settleAll_open allPos x p
  rw [a, b, o, if_pos (show p ∈ allPos from List.mem_finRange p)]

/-- Once the device has settled, every position's switches are commanded as its causes ask. -/
theorem settle_follows (x : State) : weltFollows (settle x) := by
  unfold settle
  exact settleAll_follows _

theorem fin_follows {x : State} (h : weltFollows x) : weltFollows (fin x) := by
  have hf : ∀ k : Comp, k ∉ [Comp.evt, .heel, .lanes, .links, .store, .imc, .units, .nvm, .cal, .free] → k.same x (fin x) :=
    fun k hk => fin_keeps hk (k.same_refl x)
  have g1 : (fin x).power = x.power := hf .power (by decide)
  have g2 : (fin x).pins = x.pins := hf .pins (by decide)
  have g3 : (fin x).boot = x.boot := hf .boot (by decide)
  have g4 : (fin x).dev = x.dev := hf .dev (by decide)
  have g5 : (fin x).therm = x.therm := hf .therm (by decide)
  have g6 : (fin x).last = x.last := hf .last (by decide)
  have g8 : (fin x).welt = x.welt := hf .welt (by decide)
  intro p
  rw [g8, h p, devCause_congr (x := x) (y := fin x) (by rw [g1]) (by rw [g1]) (by rw [g2]) (by rw [g3]) (by rw [g3]) (by rw [g4]) (by rw [g4])
    (by rw [g5]), posCause_congr (x := x) (y := fin x) (by rw [g6]) fun l => Link.sameButOut_join (fin_links x l)]

/-- A settled device that is carried to the commands' common end. -/
theorem done_follows (x : State) : ∃ t, done (settle x) = .next t ∧ weltFollows t := ⟨_, rfl, fin_follows (settle_follows x)⟩

end Sys2Proof.Machine
end

