-- ==== Sys2Proof/Laws/Course.lean ====
section
/-! SUPPORT. The course of a link: everything but its spares, swaps, epoch, waiting MOS and what follows training. What
the operations around a link's turning points leave of it. -/

namespace Sys2Proof.Machine

/-- The course of a link: the fields that only its turning points change. -/
def Link.bare (k : Link) : Link :=
  { k with
    spares := Reset.link.spares, spareNext := Reset.link.spareNext, lastResult := 0, swap := none, waitLoss := []
    epoch := 0, markAB := false, markBA := false, masterAB := none, masterBA := none, pend := .none
    outAB := [], outBA := [], sentAB := none, sentBA := none, seqC2 := Reset.seqSt, seqC3 := Reset.seqSt, txSeq := 0
    trainA := Reset.sideTrain, trainB := Reset.sideTrain }

/-- No link has changed its course. -/
def Course (s t : State) : Prop := ∀ l, (getLink t l).bare = (getLink s l).bare

theorem Course.refl (s : State) : Course s s := fun _ => rfl

theorem Course.of_links {s x y : State} (g : y.links = x.links) (h : Course s x) : Course s y := by
  intro l
  unfold getLink
  rw [g]
  exact h l

theorem Course.of_keeps {s x y : State} {l : List Comp} (g : ∀ k : Comp, k ∉ l → k.same x y) (d : Comp.links ∉ l)
    (h : Course s x) : Course s y := Course.of_links (g .links d) h

theorem ite_course {s a b : State} {c : Prop} {_ : Decidable c} (ha : Course s a) (hb : Course s b) :
    Course s (if c then a else b) := by
  split
  · exact ha
  · exact hb

theorem foldl_course {α : Type} {s x : State} {f : State → α → State} {l : List α} (h : Course s x)
    (hf : ∀ t a, Course s t → Course s (f t a)) : Course s (l.foldl f x) := by
  induction l generalizing x with
  | nil => exact h
  | cons a r ih => exact ih (hf x a h)

theorem getD_course {s d : State} {o : Option State} (ho : ∀ u, o = some u → Course s u) (hd : Course s d) :
    Course s (o.getD d) := by
  cases o with
  | none => exact hd
  | some u => exact ho u rfl

theorem modLink_course {s x : State} {l : LinkNo} {f : Link → Link} (hf : (f (getLink x l)).bare = (getLink x l).bare)
    (h : Course s x) : Course s (modLink x l f) := by
  intro j
  by_cases e : j = l
  · subst e
    rw [getLink_modLink]
    exact hf.trans (h j)
  · rw [getLink_modLink_other _ _ _ _ e]
    exact h j

theorem setOut_bare (k : Link) (d : Dir) (q : List OutMos) : (setOut k d q).bare = k.bare := by
  cases d <;> rfl

theorem putPins_course {s x : State} {v : Pins} (h : Course s x) : Course s (x.putPins v) := h

theorem putPower_course {s x : State} {v : Power} (h : Course s x) : Course s (x.putPower v) := h

theorem putBoot_course {s x : State} {v : Boot} (h : Course s x) : Course s (x.putBoot v) := h

theorem putDev_course {s x : State} {v : Dev} (h : Course s x) : Course s (x.putDev v) := h

theorem putWelt_course {s x : State} {v : WeltSt} (h : Course s x) : Course s (x.putWelt v) := h

theorem putTherm_course {s x : State} {v : Thermal} (h : Course s x) : Course s (x.putTherm v) := h

theorem putEvt_course {s x : State} {v : EvtSt} (h : Course s x) : Course s (x.putEvt v) := h

theorem putHeel_course {s x : State} {v : HeelSt} (h : Course s x) : Course s (x.putHeel v) := h

theorem putLanes_course {s x : State} {v : Vector Lane 36} (h : Course s x) : Course s (x.putLanes v) := h

theorem putLast_course {s x : State} {v : LastSt} (h : Course s x) : Course s (x.putLast v) := h

theorem putStore_course {s x : State} {v : StoreSt} (h : Course s x) : Course s (x.putStore v) := h

theorem putWin_course {s x : State} {v : WinSt} (h : Course s x) : Course s (x.putWin v) := h

theorem putTwb_course {s x : State} {v : TwbSt} (h : Course s x) : Course s (x.putTwb v) := h

theorem putImc_course {s x : State} {v : ImcSt} (h : Course s x) : Course s (x.putImc v) := h

theorem putJtag_course {s x : State} {v : JtagSt} (h : Course s x) : Course s (x.putJtag v) := h

theorem putAcc_course {s x : State} {v : AccSt} (h : Course s x) : Course s (x.putAcc v) := h

theorem putWqs_course {s x : State} {v : Vector Wq 32} (h : Course s x) : Course s (x.putWqs v) := h

theorem putCqs_course {s x : State} {v : Vector Cq 8} (h : Course s x) : Course s (x.putCqs v) := h

theorem putUnits_course {s x : State} {v : Units} (h : Course s x) : Course s (x.putUnits v) := h

theorem putSlots_course {s x : State} {v : Vector Slot 8} (h : Course s x) : Course s (x.putSlots v) := h

theorem putSched_course {s x : State} {v : Sched} (h : Course s x) : Course s (x.putSched v) := h

theorem putAwl_course {s x : State} {v : AwlSt} (h : Course s x) : Course s (x.putAwl v) := h

theorem putNvm_course {s x : State} {v : NvmSt} (h : Course s x) : Course s (x.putNvm v) := h

theorem putTm_course {s x : State} {v : TmSt} (h : Course s x) : Course s (x.putTm v) := h

theorem putTime_course {s x : State} {v : TimeSt} (h : Course s x) : Course s (x.putTime v) := h

theorem putCal_course {s x : State} {v : CalSt} (h : Course s x) : Course s (x.putCal v) := h

theorem putFree_course {s x : State} {v : Nat} (h : Course s x) : Course s (x.putFree v) := h

theorem putPending_course {s x : State} {v : List Instr} (h : Course s x) : Course s (x.putPending v) := h

theorem retarget_course {s x : State} {a0} (h : Course s x) : Course s (retarget a0 x) :=
  Course.of_keeps (fun k hk => retarget_keeps (a0 := a0) hk (k.same_refl x)) (by decide) h

theorem abortRecal_course {s x : State} (h : Course s x) : Course s (abortRecal x) :=
  Course.of_keeps (fun k hk => abortRecal_keeps hk (k.same_refl x)) (by decide) h

theorem setUnit_course {s x : State} {a0 a1} (h : Course s x) : Course s (setUnit x a0 a1) :=
  Course.of_keeps (fun k hk => setUnit_keeps (a0 := a0) (a1 := a1) hk (k.same_refl x)) (by decide) h

theorem restartHeel_course {s x : State} (h : Course s x) : Course s (restartHeel x) :=
  Course.of_keeps (fun k hk => restartHeel_keeps hk (k.same_refl x)) (by decide) h

theorem joinOut_course {s x : State} {a0 a1} (h : Course s x) :
    Course s (joinOut x a0 a1) := by
  unfold joinOut
  repeat' first
    | with_reducible assumption
    | with_reducible refine modLink_course ?_ ?_
    | with_reducible refine ite_course ?_ ?_
    | with_reducible refine foldl_course ?_ (fun t a h => ?_)
    | with_reducible exact setOut_bare _ _ _
    | with_reducible rfl
    | exact rfl
    | dsimp -proj only
    | split

theorem queueMos_course {s x : State} {a0 a1 a2 a3 a4} (h : Course s x) :
    Course s (queueMos x a0 a1 a2 a3 a4) := by
  unfold queueMos
  repeat' first
    | with_reducible assumption
    | with_reducible refine joinOut_course ?_
    | with_reducible refine ite_course ?_ ?_
    | with_reducible refine foldl_course ?_ (fun t a h => ?_)
    | with_reducible exact setOut_bare _ _ _
    | with_reducible rfl
    | exact rfl
    | dsimp -proj only
    | split

theorem freshSeq_course {s x : State} (h : Course s x) : Course s (freshSeq x).2 :=
  Course.of_keeps (fun k hk => freshSeq_keeps hk (k.same_refl x)) (by decide) h

theorem freshSeq_course_eq {s x : State} {r u} (h : Course s x) (e : freshSeq x = (r, u)) :
    Course s u := 
  Course.of_keeps (fun k hk => freshSeq_keeps_eq hk (k.same_refl x) e) (by decide) h

theorem sendOwn_course {s x : State} {a0 a1 a2 a3} (h : Course s x) :
    Course s (sendOwn x a0 a1 a2 a3) := by
  unfold sendOwn
  repeat' first
    | with_reducible assumption
    | with_reducible refine queueMos_course ?_
    | with_reducible refine freshSeq_course ?_
    | with_reducible refine freshSeq_course_eq ?_ (by with_reducible assumption)
    | with_reducible refine ite_course ?_ ?_
    | with_reducible refine foldl_course ?_ (fun t a h => ?_)
    | with_reducible exact setOut_bare _ _ _
    | with_reducible rfl
    | exact rfl
    | dsimp -proj only
    | split

theorem queueNotify_course {s x : State} {a0} (h : Course s x) :
    Course s (queueNotify x a0) := by
  unfold queueNotify
  repeat' first
    | with_reducible assumption
    | with_reducible refine modLink_course ?_ ?_
    | with_reducible refine sendOwn_course ?_
    | with_reducible refine ite_course ?_ ?_
    | with_reducible refine foldl_course ?_ (fun t a h => ?_)
    | with_reducible exact setOut_bare _ _ _
    | with_reducible rfl
    | exact rfl
    | dsimp -proj only
    | split

theorem watchAttn_course {s x : State} (h : Course s x) :
    Course s (watchAttn x) := by
  unfold watchAttn
  try dsimp -zeta -proj only [upd_imc]
  repeat' first
    | with_reducible assumption
    | with_reducible refine queueNotify_course ?_
    | with_reducible refine putImc_course ?_
    | with_reducible refine ite_course ?_ ?_
    | with_reducible refine foldl_course ?_ (fun t a h => ?_)
    | with_reducible exact setOut_bare _ _ _
    | with_reducible rfl
    | exact rfl
    | dsimp -proj only
    | split

theorem unholdErase_course {s x : State} (h : Course s x) : Course s (unholdErase x) :=
  Course.of_keeps (fun k hk => unholdErase_keeps hk (k.same_refl x)) (by decide) h

theorem fin_course {s x : State} (h : Course s x) :
    Course s (fin x) := by
  unfold fin
  repeat' first
    | with_reducible assumption
    | with_reducible refine restartHeel_course ?_
    | with_reducible refine watchAttn_course ?_
    | with_reducible refine unholdErase_course ?_
    | with_reducible refine ite_course ?_ ?_
    | with_reducible refine foldl_course ?_ (fun t a h => ?_)
    | with_reducible exact setOut_bare _ _ _
    | with_reducible rfl
    | exact rfl
    | dsimp -proj only
    | split

theorem logK_course {s x : State} {a0 a1 a2} (h : Course s x) : Course s (logK x a0 a1 a2) :=
  Course.of_keeps (fun k hk => logK_keeps (a0 := a0) (a1 := a1) (a2 := a2) hk (k.same_refl x)) (by decide) h

theorem dropCdr_course {s x : State} {a0 a1} (h : Course s x) : Course s (dropCdr x a0 a1) :=
  Course.of_keeps (fun k hk => dropCdr_keeps (a0 := a0) (a1 := a1) hk (k.same_refl x)) (by decide) h

theorem coolRx_course {s x : State} {a0 a1 a2} (h : Course s x) : Course s (coolRx x a0 a1 a2) :=
  Course.of_keeps (fun k hk => coolRx_keeps (a0 := a0) (a1 := a1) (a2 := a2) hk (k.same_refl x)) (by decide) h

theorem settleAll_course {s x : State} (h : Course s x) : Course s (settleAll x) :=
  Course.of_keeps (fun k hk => settleAll_keeps hk (k.same_refl x)) (by decide) h

theorem setSpare_course {s x : State} {a0 a1 a2 a3} (h : Course s x) :
    Course s (setSpare x a0 a1 a2 a3) := by
  unfold setSpare
  repeat' first
    | with_reducible assumption
    | with_reducible refine modLink_course ?_ ?_
    | with_reducible refine ite_course ?_ ?_
    | with_reducible refine foldl_course ?_ (fun t a h => ?_)
    | with_reducible exact setOut_bare _ _ _
    | with_reducible rfl
    | exact rfl
    | dsimp -proj only
    | split

theorem leaveSpare_course {s x : State} {a0 a1} (h : Course s x) :
    Course s (leaveSpare x a0 a1) := by
  unfold leaveSpare
  try dsimp -zeta -proj only [upd_last]
  repeat' first
    | with_reducible assumption
    | with_reducible refine settleAll_course ?_
    | with_reducible refine modLink_course ?_ ?_
    | with_reducible refine retarget_course ?_
    | with_reducible refine setSpare_course ?_
    | with_reducible refine putLast_course ?_
    | with_reducible refine ite_course ?_ ?_
    | with_reducible refine foldl_course ?_ (fun t a h => ?_)
    | with_reducible exact setOut_bare _ _ _
    | with_reducible rfl
    | exact rfl
    | dsimp -proj only
    | split

theorem restSpare_course {s x : State} {a0 a1 a2} (h : Course s x) :
    Course s (restSpare x a0 a1 a2) := by
  unfold restSpare
  repeat' first
    | with_reducible assumption
    | with_reducible refine coolRx_course ?_
    | with_reducible refine leaveSpare_course ?_
    | with_reducible refine setSpare_course ?_
    | with_reducible refine ite_course ?_ ?_
    | with_reducible refine foldl_course ?_ (fun t a h => ?_)
    | with_reducible exact setOut_bare _ _ _
    | with_reducible rfl
    | exact rfl
    | dsimp -proj only
    | split

theorem dropSwap_course {s x : State} {a0 a1} (h : Course s x) :
    Course s (dropSwap x a0 a1) := by
  unfold dropSwap
  repeat' first
    | with_reducible assumption
    | with_reducible refine modLink_course ?_ ?_
    | with_reducible refine ite_course ?_ ?_
    | with_reducible refine foldl_course ?_ (fun t a h => ?_)
    | with_reducible exact setOut_bare _ _ _
    | with_reducible rfl
    | exact rfl
    | dsimp -proj only
    | split

theorem endSwaps_course {s x : State} {a0} (h : Course s x) :
    Course s (endSwaps x a0) := by
  unfold endSwaps
  repeat' first
    | with_reducible assumption
    | with_reducible refine restSpare_course ?_
    | with_reducible refine modLink_course ?_ ?_
    | with_reducible refine abortRecal_course ?_
    | with_reducible refine dropSwap_course ?_
    | with_reducible refine ite_course ?_ ?_
    | with_reducible refine foldl_course ?_ (fun t a h => ?_)
    | with_reducible exact setOut_bare _ _ _
    | with_reducible rfl
    | exact rfl
    | dsimp -proj only
    | split

theorem checkDone_course {s x : State} (h : Course s x) : Course s (checkDone x) :=
  Course.of_keeps (fun k hk => checkDone_keeps hk (k.same_refl x)) (by decide) h

theorem setResult_course {s x : State} {a0 a1} (h : Course s x) :
    Course s (setResult x a0 a1) := by
  unfold setResult
  try dsimp -zeta -proj only [upd_last]
  repeat' first
    | with_reducible assumption
    | with_reducible refine modLink_course ?_ ?_
    | with_reducible refine checkDone_course ?_
    | with_reducible refine putLast_course ?_
    | with_reducible refine ite_course ?_ ?_
    | with_reducible refine foldl_course ?_ (fun t a h => ?_)
    | with_reducible exact setOut_bare _ _ _
    | with_reducible rfl
    | exact rfl
    | dsimp -proj only
    | split

theorem refreshSpare_course {s x : State} {a0 a1 a2} (h : Course s x) :
    Course s (refreshSpare a0 x a1 a2) := by
  unfold refreshSpare
  try dsimp -zeta -proj only [upd_last]
  repeat' first
    | with_reducible assumption
    | with_reducible refine coolRx_course ?_
    | with_reducible refine modLink_course ?_ ?_
    | with_reducible refine setSpare_course ?_
    | with_reducible refine putLast_course ?_
    | with_reducible refine ite_course ?_ ?_
    | with_reducible refine foldl_course ?_ (fun t a h => ?_)
    | with_reducible exact setOut_bare _ _ _
    | with_reducible rfl
    | exact rfl
    | dsimp -proj only
    | split

theorem dropHolds_course {s x : State} {a0 a1} (h : Course s x) : Course s (dropHolds x a0 a1) :=
  Course.of_keeps (fun k hk => dropHolds_keeps (a0 := a0) (a1 := a1) hk (k.same_refl x)) (by decide) h

theorem stepEpoch_course {s x : State} {a0} (h : Course s x) :
    Course s (stepEpoch x a0) := by
  unfold stepEpoch
  repeat' first
    | with_reducible assumption
    | with_reducible refine modLink_course ?_ ?_
    | with_reducible refine ite_course ?_ ?_
    | with_reducible refine foldl_course ?_ (fun t a h => ?_)
    | with_reducible exact setOut_bare _ _ _
    | with_reducible rfl
    | exact rfl
    | dsimp -proj only
    | split

theorem moveHold_course {s x : State} {a0 a1 a2} (h : Course s x) : Course s (moveHold a0 a1 a2 x) :=
  Course.of_keeps (fun k hk => moveHold_keeps (a0 := a0) (a1 := a1) (a2 := a2) hk (k.same_refl x)) (by decide) h

theorem withMasters_course {s x : State} {a0 a1} (hf : ∀ t, Course s t → Course s (a1 t)) (h : Course s x) :
    Course s (withMasters x a0 a1) := by
  unfold withMasters
  repeat' first
    | with_reducible assumption
    | with_reducible refine hf _ ?_
    | with_reducible refine moveHold_course ?_
    | with_reducible refine modLink_course ?_ ?_
    | with_reducible refine ite_course ?_ ?_
    | with_reducible refine foldl_course ?_ (fun t a h => ?_)
    | with_reducible exact setOut_bare _ _ _
    | with_reducible rfl
    | exact rfl
    | dsimp -proj only
    | split

theorem relockPlls_course {s x : State} {a0} (h : Course s x) : Course s (relockPlls x a0) :=
  Course.of_keeps (fun k hk => relockPlls_keeps (a0 := a0) hk (k.same_refl x)) (by decide) h

theorem takeUp_course {s x : State} {a0 a1} (h : Course s x) :
    Course s (takeUp x a0 a1) := by
  unfold takeUp
  try dsimp -zeta -proj only [upd_last]
  repeat' first
    | with_reducible assumption
    | with_reducible refine settleAll_course ?_
    | with_reducible refine retarget_course ?_
    | with_reducible refine refreshSpare_course ?_
    | with_reducible refine dropHolds_course ?_
    | with_reducible refine stepEpoch_course ?_
    | with_reducible refine withMasters_course (fun t h => ?_) ?_
    | with_reducible refine relockPlls_course ?_
    | with_reducible refine putLast_course ?_
    | with_reducible refine ite_course ?_ ?_
    | with_reducible refine foldl_course ?_ (fun t a h => ?_)
    | with_reducible exact setOut_bare _ _ _
    | with_reducible rfl
    | exact rfl
    | dsimp -proj only
    | split

theorem switchLink_course {s x : State} {a0} (h : Course s x) :
    Course s (switchLink x a0) := by
  unfold switchLink
  repeat' first
    | with_reducible assumption
    | with_reducible refine takeUp_course ?_
    | with_reducible refine ite_course ?_ ?_
    | with_reducible refine foldl_course ?_ (fun t a h => ?_)
    | with_reducible exact setOut_bare _ _ _
    | with_reducible rfl
    | exact rfl
    | dsimp -proj only
    | split

theorem switchNow_course {s x : State} {a0} (h : Course s x) :
    Course s (switchNow x a0) := by
  unfold switchNow
  repeat' first
    | with_reducible assumption
    | with_reducible refine setResult_course ?_
    | with_reducible refine switchLink_course ?_
    | with_reducible refine ite_course ?_ ?_
    | with_reducible refine foldl_course ?_ (fun t a h => ?_)
    | with_reducible exact setOut_bare _ _ _
    | with_reducible rfl
    | exact rfl
    | dsimp -proj only
    | split

theorem useFree_course {s x : State} (h : Course s x) : Course s (useFree x).2 :=
  Course.of_keeps (fun k hk => useFree_keeps hk (k.same_refl x)) (by decide) h

theorem useFree_course_eq {s x : State} {r u} (h : Course s x) (e : useFree x = (r, u)) :
    Course s u := 
  Course.of_keeps (fun k hk => useFree_keeps_eq hk (k.same_refl x) e) (by decide) h

theorem logLane_course {s x : State} {a0 a1 a2 a3 a4} (h : Course s x) : Course s (logLane x a0 a1 a2 a3 a4) :=
  Course.of_keeps (fun k hk => logLane_keeps (a0 := a0) (a1 := a1) (a2 := a2) (a3 := a3) (a4 := a4) hk (k.same_refl x)) (by decide) h

theorem abandonSwap_course {s x : State} {a0} (h : Course s x) :
    Course s (abandonSwap x a0) := by
  unfold abandonSwap
  repeat' first
    | with_reducible assumption
    | with_reducible refine restSpare_course ?_
    | with_reducible refine dropSwap_course ?_
    | with_reducible refine setSpare_course ?_
    | with_reducible refine ite_course ?_ ?_
    | with_reducible refine foldl_course ?_ (fun t a h => ?_)
    | with_reducible exact setOut_bare _ _ _
    | with_reducible rfl
    | exact rfl
    | dsimp -proj only
    | split

theorem loadPrograms_course {s x : State} (h : Course s x) : Course s (loadPrograms x) :=
  Course.of_keeps (fun k hk => loadPrograms_keeps hk (k.same_refl x)) (by decide) h

theorem allReset_course {s x : State} {a0} (h : Course s x) :
    Course s (allReset x a0) := by
  unfold allReset
  repeat' first
    | with_reducible assumption
    | with_reducible refine modLink_course ?_ ?_
    | with_reducible refine ite_course ?_ ?_
    | with_reducible refine foldl_course ?_ (fun t a h => ?_)
    | with_reducible exact setOut_bare _ _ _
    | with_reducible rfl
    | exact rfl
    | dsimp -proj only
    | split

theorem stopRecal_course {s x : State} {a0 a1} (h : Course s x) : Course s (stopRecal x a0 a1) :=
  Course.of_keeps (fun k hk => stopRecal_keeps (a0 := a0) (a1 := a1) hk (k.same_refl x)) (by decide) h

theorem endPbl_course {s x : State} {a0} (h : Course s x) : Course s (endPbl x a0) :=
  Course.of_keeps (fun k hk => endPbl_keeps (a0 := a0) hk (k.same_refl x)) (by decide) h

theorem sendSpare_course {s x : State} {a0 a1 a2 a3} (h : Course s x) :
    Course s (sendSpare x a0 a1 a2 a3) := by
  unfold sendSpare
  repeat' first
    | with_reducible assumption
    | with_reducible refine modLink_course ?_ ?_
    | with_reducible refine queueMos_course ?_
    | with_reducible refine freshSeq_course ?_
    | with_reducible refine freshSeq_course_eq ?_ (by with_reducible assumption)
    | with_reducible refine ite_course ?_ ?_
    | with_reducible refine foldl_course ?_ (fun t a h => ?_)
    | with_reducible exact setOut_bare _ _ _
    | with_reducible rfl
    | exact rfl
    | dsimp -proj only
    | split

theorem beginSwap_course {s x : State} {a0 a1 a2 a3 a4 a5} (h : Course s x) :
    Course s (beginSwap x a0 a1 a2 a3 a4 a5) := by
  unfold beginSwap
  repeat' first
    | with_reducible assumption
    | with_reducible refine useFree_course ?_
    | with_reducible refine useFree_course_eq ?_ (by with_reducible assumption)
    | with_reducible refine modLink_course ?_ ?_
    | with_reducible refine sendSpare_course ?_
    | with_reducible refine setSpare_course ?_
    | with_reducible refine ite_course ?_ ?_
    | with_reducible refine foldl_course ?_ (fun t a h => ?_)
    | with_reducible exact setOut_bare _ _ _
    | with_reducible rfl
    | exact rfl
    | dsimp -proj only
    | split

theorem dropMos_course {s x : State} {a0 a1} (h : Course s x) :
    Course s (dropMos x a0 a1) := by
  unfold dropMos
  repeat' first
    | with_reducible assumption
    | with_reducible refine modLink_course ?_ ?_
    | with_reducible refine ite_course ?_ ?_
    | with_reducible refine foldl_course ?_ (fun t a h => ?_)
    | with_reducible exact setOut_bare _ _ _
    | with_reducible rfl
    | exact rfl
    | dsimp -proj only
    | split

theorem homeStandins_course {s x : State} (h : Course s x) :
    Course s (homeStandins x) := by
  unfold homeStandins
  repeat' first
    | with_reducible assumption
    | with_reducible refine beginSwap_course ?_
    | with_reducible refine ite_course ?_ ?_
    | with_reducible refine foldl_course ?_ (fun t a h => ?_)
    | with_reducible exact setOut_bare _ _ _
    | with_reducible rfl
    | exact rfl
    | dsimp -proj only
    | split

theorem logEvent_course {s x : State} {a0 a1 a2} (h : Course s x) : Course s (logEvent x a0 a1 a2) :=
  Course.of_keeps (fun k hk => logEvent_keeps (a0 := a0) (a1 := a1) (a2 := a2) hk (k.same_refl x)) (by decide) h

theorem leaveDisabled_course {s x : State} {a0} (h : Course s x) : Course s (leaveDisabled x a0) :=
  Course.of_keeps (fun k hk => leaveDisabled_keeps (a0 := a0) hk (k.same_refl x)) (by decide) h

theorem logL_course {s x : State} {a0 a1 a2 a3} (h : Course s x) : Course s (logL x a0 a1 a2 a3) :=
  Course.of_keeps (fun k hk => logL_keeps (a0 := a0) (a1 := a1) (a2 := a2) (a3 := a3) hk (k.same_refl x)) (by decide) h

theorem switchWaiting_course {s x : State} {a0} (h : Course s x) :
    Course s (switchWaiting x a0) := by
  unfold switchWaiting
  repeat' first
    | with_reducible assumption
    | with_reducible refine switchNow_course ?_
    | with_reducible refine ite_course ?_ ?_
    | with_reducible refine foldl_course ?_ (fun t a h => ?_)
    | with_reducible exact setOut_bare _ _ _
    | with_reducible rfl
    | exact rfl
    | dsimp -proj only
    | split

/-- No link but one has changed its course. -/
def But (l : LinkNo) (s t : State) : Prop := ∀ j, j ≠ l → (getLink t j).bare = (getLink s j).bare

theorem But.refl (l : LinkNo) (s : State) : But l s s := fun _ _ => rfl

theorem Course.but {l : LinkNo} {s x y : State} (g : Course x y) (h : But l s x) : But l s y :=
  fun j hj => (g j).trans (h j hj)

theorem modLink_but {l : LinkNo} {s x : State} {f : Link → Link} (h : But l s x) : But l s (modLink x l f) := by
  intro j hj
  rw [getLink_modLink_other _ _ _ _ hj]
  exact h j hj

theorem ite_but {l : LinkNo} {s a b : State} {c : Prop} {_ : Decidable c} (ha : But l s a) (hb : But l s b) :
    But l s (if c then a else b) := by
  split
  · exact ha
  · exact hb

theorem foldl_but {l : LinkNo} {α : Type} {s x : State} {f : State → α → State} {r : List α} (h : But l s x)
    (hf : ∀ t a, But l s t → But l s (f t a)) : But l s (r.foldl f x) := by
  induction r generalizing x with
  | nil => exact h
  | cons a r ih => exact ih (hf x a h)

theorem endPbl_but {l : LinkNo} {s x : State} {a0} (h : But l s x) : But l s (endPbl x a0) :=
  Course.but (Course.of_links (endPbl_keeps (s := x) (x := x) (a0 := a0) (k := .links) (by decide) rfl) (Course.refl x)) h

theorem endSwaps_but {l : LinkNo} {s x : State} {a0} (h : But l s x) : But l s (endSwaps x a0) :=
  Course.but (endSwaps_course (a0 := a0) (Course.refl x)) h

theorem endSearches_but {l : LinkNo} {s x : State} {a0} (h : But l s x) : But l s (endSearches x a0) :=
  Course.but (Course.of_links (endSearches_keeps (s := x) (x := x) (a0 := a0) (k := .links) (by decide) rfl) (Course.refl x)) h

theorem dropMos_but {l : LinkNo} {s x : State} {a0 a1} (h : But l s x) : But l s (dropMos x a0 a1) :=
  Course.but (dropMos_course (a0 := a0) (a1 := a1) (Course.refl x)) h

theorem allReset_but {l : LinkNo} {s x : State} {a0} (h : But l s x) : But l s (allReset x a0) :=
  Course.but (allReset_course (a0 := a0) (Course.refl x)) h

theorem leaveDisabled_but {l : LinkNo} {s x : State} {a0} (h : But l s x) : But l s (leaveDisabled x a0) :=
  Course.but (Course.of_links (leaveDisabled_keeps (s := x) (x := x) (a0 := a0) (k := .links) (by decide) rfl) (Course.refl x)) h

theorem switchNow_but {l : LinkNo} {s x : State} {a0} (h : But l s x) : But l s (switchNow x a0) :=
  Course.but (switchNow_course (a0 := a0) (Course.refl x)) h

theorem settleAll_but {l : LinkNo} {s x : State} (h : But l s x) : But l s (settleAll x) :=
  Course.but (Course.of_links (settleAll_keeps (s := x) (x := x) (k := .links) (by decide) rfl) (Course.refl x)) h

theorem logK_but {l : LinkNo} {s x : State} {a0 a1 a2} (h : But l s x) : But l s (logK x a0 a1 a2) :=
  Course.but (Course.of_links (logK_keeps (s := x) (x := x) (a0 := a0) (a1 := a1) (a2 := a2) (k := .links) (by decide) rfl) (Course.refl x)) h

theorem setResult_but {l : LinkNo} {s x : State} {a0 a1} (h : But l s x) : But l s (setResult x a0 a1) :=
  Course.but (setResult_course (a0 := a0) (a1 := a1) (Course.refl x)) h

theorem switchWaiting_but {l : LinkNo} {s x : State} {a0} (h : But l s x) : But l s (switchWaiting x a0) :=
  Course.but (switchWaiting_course (a0 := a0) (Course.refl x)) h

theorem abandonSwap_but {l : LinkNo} {s x : State} {a0} (h : But l s x) : But l s (abandonSwap x a0) :=
  Course.but (abandonSwap_course (a0 := a0) (Course.refl x)) h

theorem switchLink_but {l : LinkNo} {s x : State} {a0} (h : But l s x) : But l s (switchLink x a0) :=
  Course.but (switchLink_course (a0 := a0) (Course.refl x)) h

theorem sendOwn_but {l : LinkNo} {s x : State} {a0 a1 a2 a3} (h : But l s x) : But l s (sendOwn x a0 a1 a2 a3) :=
  Course.but (sendOwn_course (a0 := a0) (a1 := a1) (a2 := a2) (a3 := a3) (Course.refl x)) h

theorem logLane_but {l : LinkNo} {s x : State} {a0 a1 a2 a3 a4} (h : But l s x) : But l s (logLane x a0 a1 a2 a3 a4) :=
  Course.but (Course.of_links (logLane_keeps (s := x) (x := x) (a0 := a0) (a1 := a1) (a2 := a2) (a3 := a3) (a4 := a4) (k := .links) (by decide) rfl) (Course.refl x)) h

theorem moveHold_but {l : LinkNo} {s x : State} {a0 a1 a2} (h : But l s x) : But l s (moveHold a0 a1 a2 x) :=
  Course.but (Course.of_links (moveHold_keeps (s := x) (x := x) (a0 := a0) (a1 := a1) (a2 := a2) (k := .links) (by decide) rfl) (Course.refl x)) h

theorem withMasters_but {l : LinkNo} {s x : State} {a1} (hf : ∀ t, But l s t → But l s (a1 t)) (h : But l s x) :
    But l s (withMasters x l a1) := by
  unfold withMasters
  exact moveHold_but (moveHold_but (hf _ (modLink_but h)))

theorem checkRecovered_but {l : LinkNo} {s x : State} (h : But l s x) : But l s (checkRecovered x l) := by
  unfold checkRecovered
  repeat' first
    | with_reducible assumption
    | with_reducible refine modLink_but ?_
    | with_reducible refine ite_but ?_ ?_
    | with_reducible refine foldl_but ?_ (fun t a h => ?_)
    | dsimp -proj only
    | split

theorem setLost_but {l : LinkNo} {s x : State} {a1 a2 a3} (h : But l s x) : But l s (setLost x l a1 a2 a3) := by
  unfold setLost
  repeat' first
    | with_reducible assumption
    | with_reducible refine modLink_but ?_
    | with_reducible refine ite_but ?_ ?_
    | with_reducible refine foldl_but ?_ (fun t a h => ?_)
    | dsimp -proj only
    | split

theorem dropLink_but {l : LinkNo} {s x : State} (h : But l s x) : But l s (dropLink x l) := by
  unfold dropLink
  repeat' first
    | with_reducible assumption
    | with_reducible refine modLink_but ?_
    | with_reducible refine endPbl_but ?_
    | with_reducible refine endSwaps_but ?_
    | with_reducible refine endSearches_but ?_
    | with_reducible refine dropMos_but ?_
    | with_reducible refine allReset_but ?_
    | with_reducible refine leaveDisabled_but ?_
    | with_reducible refine withMasters_but (fun t h => ?_) ?_
    | with_reducible refine ite_but ?_ ?_
    | with_reducible refine foldl_but ?_ (fun t a h => ?_)
    | dsimp -proj only
    | split

theorem standAside_but {l : LinkNo} {s x : State} (h : But l s x) : But l s (standAside x l) := by
  unfold standAside
  repeat' first
    | with_reducible assumption
    | with_reducible refine switchNow_but ?_
    | with_reducible refine settleAll_but ?_
    | with_reducible refine modLink_but ?_
    | with_reducible refine dropLink_but ?_
    | with_reducible refine ite_but ?_ ?_
    | with_reducible refine foldl_but ?_ (fun t a h => ?_)
    | dsimp -proj only
    | split

theorem partAside_but {l : LinkNo} {s x : State} {a1} (h : But l s x) : But l s (partAside x l a1) := by
  unfold partAside
  repeat' first
    | with_reducible assumption
    | with_reducible refine settleAll_but ?_
    | with_reducible refine modLink_but ?_
    | with_reducible refine logK_but ?_
    | with_reducible refine standAside_but ?_
    | with_reducible refine ite_but ?_ ?_
    | with_reducible refine foldl_but ?_ (fun t a h => ?_)
    | dsimp -proj only
    | split

theorem forceLink_but {l : LinkNo} {s x : State} (h : But l s x) : But l s (forceLink x l) := by
  unfold forceLink
  repeat' first
    | with_reducible assumption
    | with_reducible refine switchNow_but ?_
    | with_reducible refine setResult_but ?_
    | with_reducible refine modLink_but ?_
    | with_reducible refine dropLink_but ?_
    | with_reducible refine ite_but ?_ ?_
    | with_reducible refine foldl_but ?_ (fun t a h => ?_)
    | dsimp -proj only
    | split

theorem enterDisabled_but {l : LinkNo} {s x : State} (h : But l s x) : But l s (enterDisabled x l) := by
  unfold enterDisabled
  repeat' first
    | with_reducible assumption
    | with_reducible refine switchWaiting_but ?_
    | with_reducible refine modLink_but ?_
    | with_reducible refine dropLink_but ?_
    | with_reducible refine ite_but ?_ ?_
    | with_reducible refine foldl_but ?_ (fun t a h => ?_)
    | dsimp -proj only
    | split

theorem enterDetect_but {l : LinkNo} {s x : State} {a1} (h : But l s x) : But l s (enterDetect x l a1) := by
  unfold enterDetect
  repeat' first
    | with_reducible assumption
    | with_reducible refine enterDisabled_but ?_
    | with_reducible refine switchWaiting_but ?_
    | with_reducible refine modLink_but ?_
    | with_reducible refine partAside_but ?_
    | with_reducible refine dropLink_but ?_
    | with_reducible refine ite_but ?_ ?_
    | with_reducible refine foldl_but ?_ (fun t a h => ?_)
    | dsimp -proj only
    | split

theorem enterRetrain_but {l : LinkNo} {s x : State} (h : But l s x) : But l s (enterRetrain x l) := by
  unfold enterRetrain
  repeat' first
    | with_reducible assumption
    | with_reducible refine setResult_but ?_
    | with_reducible refine abandonSwap_but ?_
    | with_reducible refine modLink_but ?_
    | with_reducible refine endPbl_but ?_
    | with_reducible refine dropMos_but ?_
    | with_reducible refine switchLink_but ?_
    | with_reducible refine ite_but ?_ ?_
    | with_reducible refine foldl_but ?_ (fun t a h => ?_)
    | dsimp -proj only
    | split

theorem enterActive_but {l : LinkNo} {s x : State} (h : But l s x) : But l s (enterActive x l) := by
  unfold enterActive
  repeat' first
    | with_reducible assumption
    | with_reducible refine setResult_but ?_
    | with_reducible refine modLink_but ?_
    | with_reducible refine checkRecovered_but ?_
    | with_reducible refine ite_but ?_ ?_
    | with_reducible refine foldl_but ?_ (fun t a h => ?_)
    | dsimp -proj only
    | split

theorem requestRetrain_but {l : LinkNo} {s x : State} (h : But l s x) : But l s (requestRetrain x l) := by
  unfold requestRetrain
  repeat' first
    | with_reducible assumption
    | with_reducible refine modLink_but ?_
    | with_reducible refine enterRetrain_but ?_
    | with_reducible refine sendOwn_but ?_
    | with_reducible refine ite_but ?_ ?_
    | with_reducible refine foldl_but ?_ (fun t a h => ?_)
    | dsimp -proj only
    | split

theorem restoreLane_but {l : LinkNo} {s x : State} {a1 a2} (h : But l s x) : But l s (restoreLane x l a1 a2) := by
  unfold restoreLane
  repeat' first
    | with_reducible assumption
    | with_reducible refine setLost_but ?_
    | with_reducible refine logLane_but ?_
    | with_reducible refine checkRecovered_but ?_
    | with_reducible refine ite_but ?_ ?_
    | with_reducible refine foldl_but ?_ (fun t a h => ?_)
    | dsimp -proj only
    | split

theorem startState_but {l : LinkNo} {s x : State} (h : But l s x) : But l s (startState x l) := by
  unfold startState
  repeat' first
    | with_reducible assumption
    | with_reducible refine modLink_but ?_
    | with_reducible refine ite_but ?_ ?_
    | with_reducible refine foldl_but ?_ (fun t a h => ?_)
    | dsimp -proj only
    | split

theorem restartLink_but {l : LinkNo} {s x : State} (h : But l s x) : But l s (restartLink x l) := by
  unfold restartLink
  repeat' first
    | with_reducible assumption
    | with_reducible refine startState_but ?_
    | with_reducible refine modLink_but ?_
    | with_reducible refine ite_but ?_ ?_
    | with_reducible refine foldl_but ?_ (fun t a h => ?_)
    | dsimp -proj only
    | split

theorem joinLink_but {l : LinkNo} {s x : State} (h : But l s x) : But l s (joinLink x l) := by
  unfold joinLink
  repeat' first
    | with_reducible assumption
    | with_reducible refine modLink_but ?_
    | with_reducible refine enterDetect_but ?_
    | with_reducible refine checkRecovered_but ?_
    | with_reducible refine ite_but ?_ ?_
    | with_reducible refine foldl_but ?_ (fun t a h => ?_)
    | dsimp -proj only
    | split

theorem setUnrecovered_but {l : LinkNo} {s x : State} {a1} (h : But l s x) : But l s (setUnrecovered x l a1) := by
  unfold setUnrecovered
  repeat' first
    | with_reducible assumption
    | with_reducible refine modLink_but ?_
    | with_reducible refine logK_but ?_
    | with_reducible refine ite_but ?_ ?_
    | with_reducible refine foldl_but ?_ (fun t a h => ?_)
    | dsimp -proj only
    | split

theorem setSwapResult_but {l : LinkNo} {s x : State} {a1} (h : But l s x) : But l s (setSwapResult x l a1) := by
  unfold setSwapResult
  repeat' first
    | with_reducible assumption
    | with_reducible refine modLink_but ?_
    | with_reducible refine ite_but ?_ ?_
    | with_reducible refine foldl_but ?_ (fun t a h => ?_)
    | dsimp -proj only
    | split

theorem lossDown_but {l : LinkNo} {s x : State} (h : But l s x) : But l s (lossDown x l) := by
  unfold lossDown
  repeat' first
    | with_reducible assumption
    | with_reducible refine modLink_but ?_
    | with_reducible refine logK_but ?_
    | with_reducible refine partAside_but ?_
    | with_reducible refine setUnrecovered_but ?_
    | with_reducible refine ite_but ?_ ?_
    | with_reducible refine foldl_but ?_ (fun t a h => ?_)
    | dsimp -proj only
    | split

theorem lossDegrade_but {l : LinkNo} {s x : State} (h : But l s x) : But l s (lossDegrade x l) := by
  unfold lossDegrade
  repeat' first
    | with_reducible assumption
    | with_reducible refine modLink_but ?_
    | with_reducible refine lossDown_but ?_
    | with_reducible refine requestRetrain_but ?_
    | with_reducible refine ite_but ?_ ?_
    | with_reducible refine foldl_but ?_ (fun t a h => ?_)
    | dsimp -proj only
    | split

end Sys2Proof.Machine
end

