-- ==== Sys2Proof/Laws/Done.lean ====
section
/-! SUPPORT. Every command ends the same way: its outcome is the common end of some state. -/

namespace Sys2Proof.Machine

theorem exec_done (c : Instr) (s : State) : ∃ fin', exec c s = done fin' := by
  cases c with
  | weltCauseArises c =>
    show ∃ fin', execWeltCauseArises c s = done fin'
    unfold execWeltCauseArises
    repeat' first | with_reducible exact ⟨_, rfl⟩ | split | dsimp only
  | weltCauseClears c =>
    show ∃ fin', execWeltCauseClears c s = done fin'
    unfold execWeltCauseClears
    repeat' first | with_reducible exact ⟨_, rfl⟩ | split | dsimp only
  | weltOpenConfirmed p =>
    show ∃ fin', execWeltOpenConfirmed p s = done fin'
    unfold execWeltOpenConfirmed
    repeat' first | with_reducible exact ⟨_, rfl⟩ | split | dsimp only
  | chargePumpReady =>
    show ∃ fin', execChargePumpReady s = done fin'
    unfold execChargePumpReady
    repeat' first | with_reducible exact ⟨_, rfl⟩ | split | dsimp only
  | railValid r =>
    show ∃ fin', execRailValid r s = done fin'
    unfold execRailValid
    repeat' first | with_reducible exact ⟨_, rfl⟩ | split | dsimp only
  | railInvalid r =>
    show ∃ fin', execRailInvalid r s = done fin'
    unfold execRailInvalid
    repeat' first | with_reducible exact ⟨_, rfl⟩ | split | dsimp only
  | supplyOutOfWindow r =>
    show ∃ fin', execSupplyOutOfWindow r s = done fin'
    unfold execSupplyOutOfWindow
    repeat' first | with_reducible exact ⟨_, rfl⟩ | split | dsimp only
  | resetNPulse =>
    show ∃ fin', execResetNPulse s = done fin'
    unfold execResetNPulse
    repeat' first | with_reducible exact ⟨_, rfl⟩ | split | dsimp only
  | bypNPulse =>
    show ∃ fin', execBypNPulse s = done fin'
    unfold execBypNPulse
    repeat' first | with_reducible exact ⟨_, rfl⟩ | split | dsimp only
  | resetRelease st =>
    show ∃ fin', execResetRelease st s = done fin'
    unfold execResetRelease
    repeat' first | with_reducible exact ⟨_, rfl⟩ | split | dsimp only
  | testEnHigh =>
    show ∃ fin', execTestEnHigh s = done fin'
    unfold execTestEnHigh
    repeat' first | with_reducible exact ⟨_, rfl⟩ | split | dsimp only
  | lastSelection =>
    show ∃ fin', execLastSelection s = done fin'
    unfold execLastSelection
    repeat' first | with_reducible exact ⟨_, rfl⟩ | split | dsimp only
  | eepromTransfer r =>
    show ∃ fin', execEepromTransfer r s = done fin'
    unfold execEepromTransfer
    repeat' first | with_reducible exact ⟨_, rfl⟩ | split | dsimp only
  | arbitrationLost =>
    show ∃ fin', execArbitrationLost s = done fin'
    unfold execArbitrationLost
    repeat' first | with_reducible exact ⟨_, rfl⟩ | split | dsimp only
  | globalApply =>
    show ∃ fin', execGlobalApply s = done fin'
    unfold execGlobalApply
    repeat' first | with_reducible exact ⟨_, rfl⟩ | split | dsimp only
  | bootCalibration m =>
    show ∃ fin', execBootCalibration m s = done fin'
    unfold execBootCalibration
    repeat' first | with_reducible exact ⟨_, rfl⟩ | split | dsimp only
  | bootDone =>
    show ∃ fin', execBootDone s = done fin'
    unfold execBootDone
    repeat' first | with_reducible exact ⟨_, rfl⟩ | split | dsimp only
  | calrecWrite ok =>
    show ∃ fin', execCalrecWrite ok s = done fin'
    unfold execCalrecWrite
    repeat' first | with_reducible exact ⟨_, rfl⟩ | split | dsimp only
  | joinTrigger l k =>
    show ∃ fin', execJoinTrigger l k s = done fin'
    unfold execJoinTrigger
    repeat' first | with_reducible exact ⟨_, rfl⟩ | split | dsimp only
  | joinTimeout l =>
    show ∃ fin', execJoinTimeout l s = done fin'
    unfold execJoinTimeout
    repeat' first | with_reducible exact ⟨_, rfl⟩ | split | dsimp only
  | lnkctlJoin c l v =>
    show ∃ fin', execLnkctlJoin c l v s = done fin'
    unfold execLnkctlJoin
    repeat' first | with_reducible exact ⟨_, rfl⟩ | split | dsimp only
  | lnkctlAside c l v =>
    show ∃ fin', execLnkctlAside c l v s = done fin'
    unfold execLnkctlAside
    repeat' first | with_reducible exact ⟨_, rfl⟩ | split | dsimp only
  | devctlAside c v =>
    show ∃ fin', execDevctlAside c v s = done fin'
    unfold execDevctlAside
    repeat' first | with_reducible exact ⟨_, rfl⟩ | split | dsimp only
  | devctlStandby c v =>
    show ∃ fin', execDevctlStandby c v s = done fin'
    unfold execDevctlStandby
    repeat' first | with_reducible exact ⟨_, rfl⟩ | split | dsimp only
  | standbyEntered =>
    show ∃ fin', execStandbyEntered s = done fin'
    unfold execStandbyEntered
    repeat' first | with_reducible exact ⟨_, rfl⟩ | split | dsimp only
  | devctlWake c v =>
    show ∃ fin', execDevctlWake c v s = done fin'
    unfold execDevctlWake
    repeat' first | with_reducible exact ⟨_, rfl⟩ | split | dsimp only
  | standbyExitDone =>
    show ∃ fin', execStandbyExitDone s = done fin'
    unfold execStandbyExitDone
    repeat' first | with_reducible exact ⟨_, rfl⟩ | split | dsimp only
  | devctlThermRearm c v =>
    show ∃ fin', execDevctlThermRearm c v s = done fin'
    unfold execDevctlThermRearm
    repeat' first | with_reducible exact ⟨_, rfl⟩ | split | dsimp only
  | thermalSample t =>
    show ∃ fin', execThermalSample t s = done fin'
    unfold execThermalSample
    repeat' first | with_reducible exact ⟨_, rfl⟩ | split | dsimp only
  | lastStage m e =>
    show ∃ fin', execLastStage m e s = done fin'
    unfold execLastStage
    repeat' first | with_reducible exact ⟨_, rfl⟩ | split | dsimp only
  | commit c v =>
    show ∃ fin', execCommit c v s = done fin'
    unfold execCommit
    repeat' first | with_reducible exact ⟨_, rfl⟩ | split | dsimp only
  | discard c v =>
    show ∃ fin', execDiscard c v s = done fin'
    unfold execDiscard
    repeat' first | with_reducible exact ⟨_, rfl⟩ | split | dsimp only
  | linkSwitchInstant l =>
    show ∃ fin', execLinkSwitchInstant l s = done fin'
    unfold execLinkSwitchInstant
    repeat' first | with_reducible exact ⟨_, rfl⟩ | split | dsimp only
  | skipAbsent l =>
    show ∃ fin', execSkipAbsent l s = done fin'
    unfold execSkipAbsent
    repeat' first | with_reducible exact ⟨_, rfl⟩ | split | dsimp only
  | idlePeriodEnd l =>
    show ∃ fin', execIdlePeriodEnd l s = done fin'
    unfold execIdlePeriodEnd
    repeat' first | with_reducible exact ⟨_, rfl⟩ | split | dsimp only
  | commitRollback l =>
    show ∃ fin', execCommitRollback l s = done fin'
    unfold execCommitRollback
    repeat' first | with_reducible exact ⟨_, rfl⟩ | split | dsimp only
  | padSetPasses l d =>
    show ∃ fin', execPadSetPasses l d s = done fin'
    unfold execPadSetPasses
    repeat' first | with_reducible exact ⟨_, rfl⟩ | split | dsimp only
  | epochUnsent l d =>
    show ∃ fin', execEpochUnsent l d s = done fin'
    unfold execEpochUnsent
    repeat' first | with_reducible exact ⟨_, rfl⟩ | split | dsimp only
  | rateDetected sd p r =>
    show ∃ fin', execRateDetected sd p r s = done fin'
    unfold execRateDetected
    repeat' first | with_reducible exact ⟨_, rfl⟩ | split | dsimp only
  | cdrLockGained sd p =>
    show ∃ fin', execCdrLockGained sd p s = done fin'
    unfold execCdrLockGained
    repeat' first | with_reducible exact ⟨_, rfl⟩ | split | dsimp only
  | cdrLockLost sd p =>
    show ∃ fin', execCdrLockLost sd p s = done fin'
    unfold execCdrLockLost
    repeat' first | with_reducible exact ⟨_, rfl⟩ | split | dsimp only
  | commaReceived sd p ph =>
    show ∃ fin', execCommaReceived sd p ph s = done fin'
    unfold execCommaReceived
    repeat' first | with_reducible exact ⟨_, rfl⟩ | split | dsimp only
  | rxCodeGroup sd p g reads =>
    show ∃ fin', execRxCodeGroup sd p g reads s = done fin'
    unfold execRxCodeGroup
    repeat' first | with_reducible exact ⟨_, rfl⟩ | split | dsimp only
  | lnctlRecentre c sd p v =>
    show ∃ fin', execLnctlRecentre c sd p v s = done fin'
    unfold execLnctlRecentre
    repeat' first | with_reducible exact ⟨_, rfl⟩ | split | dsimp only
  | lnctlBitslip c sd p v =>
    show ∃ fin', execLnctlBitslip c sd p v s = done fin'
    unfold execLnctlBitslip
    repeat' first | with_reducible exact ⟨_, rfl⟩ | split | dsimp only
  | skipSetArrives sd p k =>
    show ∃ fin', execSkipSetArrives sd p k s = done fin'
    unfold execSkipSetArrives
    repeat' first | with_reducible exact ⟨_, rfl⟩ | split | dsimp only
  | skipRateWindow =>
    show ∃ fin', execSkipRateWindow s = done fin'
    unfold execSkipRateWindow
    repeat' first | with_reducible exact ⟨_, rfl⟩ | split | dsimp only
  | loopMasterMoved l d =>
    show ∃ fin', execLoopMasterMoved l d s = done fin'
    unfold execLoopMasterMoved
    repeat' first | with_reducible exact ⟨_, rfl⟩ | split | dsimp only
  | swingLimit sd p c =>
    show ∃ fin', execSwingLimit sd p c s = done fin'
    unfold execSwingLimit
    repeat' first | with_reducible exact ⟨_, rfl⟩ | split | dsimp only
  | swingRaise sd p room =>
    show ∃ fin', execSwingRaise sd p room s = done fin'
    unfold execSwingRaise
    repeat' first | with_reducible exact ⟨_, rfl⟩ | split | dsimp only
  | lntxdrvWrite c sd p v =>
    show ∃ fin', execLntxdrvWrite c sd p v s = done fin'
    unfold execLntxdrvWrite
    repeat' first | with_reducible exact ⟨_, rfl⟩ | split | dsimp only
  | trimRampStep sd p t =>
    show ∃ fin', execTrimRampStep sd p t s = done fin'
    unfold execTrimRampStep
    repeat' first | with_reducible exact ⟨_, rfl⟩ | split | dsimp only
  | lnsnapTake c sd p v =>
    show ∃ fin', execLnsnapTake c sd p v s = done fin'
    unfold execLnsnapTake
    repeat' first | with_reducible exact ⟨_, rfl⟩ | split | dsimp only
  | lnsnapRelease c sd p v =>
    show ∃ fin', execLnsnapRelease c sd p v s = done fin'
    unfold execLnsnapRelease
    repeat' first | with_reducible exact ⟨_, rfl⟩ | split | dsimp only
  | snapshotExpiry sd p =>
    show ∃ fin', execSnapshotExpiry sd p s = done fin'
    unfold execSnapshotExpiry
    repeat' first | with_reducible exact ⟨_, rfl⟩ | split | dsimp only
  | sidePllLoss q =>
    show ∃ fin', execSidePllLoss q s = done fin'
    unfold execSidePllLoss
    repeat' first | with_reducible exact ⟨_, rfl⟩ | split | dsimp only
  | corePllLoss =>
    show ∃ fin', execCorePllLoss s = done fin'
    unfold execCorePllLoss
    repeat' first | with_reducible exact ⟨_, rfl⟩ | split | dsimp only
  | pllRelockAttempt q ok =>
    show ∃ fin', execPllRelockAttempt q ok s = done fin'
    unfold execPllRelockAttempt
    repeat' first | with_reducible exact ⟨_, rfl⟩ | split | dsimp only
  | receiverDetect l sd mask =>
    show ∃ fin', execReceiverDetect l sd mask s = done fin'
    unfold execReceiverDetect
    repeat' first | with_reducible exact ⟨_, rfl⟩ | split | dsimp only
  | trainingSetReceived l sd k t =>
    show ∃ fin', execTrainingSetReceived l sd k t s = done fin'
    unfold execTrainingSetReceived
    repeat' first | with_reducible exact ⟨_, rfl⟩ | split | dsimp only
  | rateDiscard l =>
    show ∃ fin', execRateDiscard l s = done fin'
    unfold execRateDiscard
    repeat' first | with_reducible exact ⟨_, rfl⟩ | split | dsimp only
  | trainTimeout l =>
    show ∃ fin', execTrainTimeout l s = done fin'
    unfold execTrainTimeout
    repeat' first | with_reducible exact ⟨_, rfl⟩ | split | dsimp only
  | presetSearchStep sd p o =>
    show ∃ fin', execPresetSearchStep sd p o s = done fin'
    unfold execPresetSearchStep
    repeat' first | with_reducible exact ⟨_, rfl⟩ | split | dsimp only
  | lnkctlRetrain c l v =>
    show ∃ fin', execLnkctlRetrain c l v s = done fin'
    unfold execLnkctlRetrain
    repeat' first | with_reducible exact ⟨_, rfl⟩ | split | dsimp only
  | forcedIdleRetrain l =>
    show ∃ fin', execForcedIdleRetrain l s = done fin'
    unfold execForcedIdleRetrain
    repeat' first | with_reducible exact ⟨_, rfl⟩ | split | dsimp only
  | electricalIdleDetected sd p =>
    show ∃ fin', execElectricalIdleDetected sd p s = done fin'
    unfold execElectricalIdleDetected
    repeat' first | with_reducible exact ⟨_, rfl⟩ | split | dsimp only
  | lnkctlDisable c l v =>
    show ∃ fin', execLnkctlDisable c l v s = done fin'
    unfold execLnkctlDisable
    repeat' first | with_reducible exact ⟨_, rfl⟩ | split | dsimp only
  | lnkctlClrRetrains c l v =>
    show ∃ fin', execLnkctlClrRetrains c l v s = done fin'
    unfold execLnkctlClrRetrains
    repeat' first | with_reducible exact ⟨_, rfl⟩ | split | dsimp only
  | idleEntrySetReceived l d =>
    show ∃ fin', execIdleEntrySetReceived l d s = done fin'
    unfold execIdleEntrySetReceived
    repeat' first | with_reducible exact ⟨_, rfl⟩ | split | dsimp only
  | sleepWake l sd =>
    show ∃ fin', execSleepWake l sd s = done fin'
    unfold execSleepWake
    repeat' first | with_reducible exact ⟨_, rfl⟩ | split | dsimp only
  | wakeFail l =>
    show ∃ fin', execWakeFail l s = done fin'
    unfold execWakeFail
    repeat' first | with_reducible exact ⟨_, rfl⟩ | split | dsimp only
  | deepEntryTimeout l =>
    show ∃ fin', execDeepEntryTimeout l s = done fin'
    unfold execDeepEntryTimeout
    repeat' first | with_reducible exact ⟨_, rfl⟩ | split | dsimp only
  | lpGrantSeen l st =>
    show ∃ fin', execLpGrantSeen l st s = done fin'
    unfold execLpGrantSeen
    repeat' first | with_reducible exact ⟨_, rfl⟩ | split | dsimp only
  | lpReqIdle l st =>
    show ∃ fin', execLpReqIdle l st s = done fin'
    unfold execLpReqIdle
    repeat' first | with_reducible exact ⟨_, rfl⟩ | split | dsimp only
  | unrecoveredTimeout l d k =>
    show ∃ fin', execUnrecoveredTimeout l d k s = done fin'
    unfold execUnrecoveredTimeout
    repeat' first | with_reducible exact ⟨_, rfl⟩ | split | dsimp only
  | spareLockTimer l n d locked =>
    show ∃ fin', execSpareLockTimer l n d locked s = done fin'
    unfold execSpareLockTimer
    repeat' first | with_reducible exact ⟨_, rfl⟩ | split | dsimp only
  | spareRspReceived l sd r =>
    show ∃ fin', execSpareRspReceived l sd r s = done fin'
    unfold execSpareRspReceived
    repeat' first | with_reducible exact ⟨_, rfl⟩ | split | dsimp only
  | spareMosForwarded l r =>
    show ∃ fin', execSpareMosForwarded l r s = done fin'
    unfold execSpareMosForwarded
    repeat' first | with_reducible exact ⟨_, rfl⟩ | split | dsimp only
  | swapTimeout l =>
    show ∃ fin', execSwapTimeout l s = done fin'
    unfold execSwapTimeout
    repeat' first | with_reducible exact ⟨_, rfl⟩ | split | dsimp only
  | spareRetry l =>
    show ∃ fin', execSpareRetry l s = done fin'
    unfold execSpareRetry
    repeat' first | with_reducible exact ⟨_, rfl⟩ | split | dsimp only
  | predictiveEvaluation =>
    show ∃ fin', execPredictiveEvaluation s = done fin'
    unfold execPredictiveEvaluation
    repeat' first | with_reducible exact ⟨_, rfl⟩ | split | dsimp only
  | lnkspcmdSwap c l v =>
    show ∃ fin', execLnkspcmdSwap c l v s = done fin'
    unfold execLnkspcmdSwap
    repeat' first | with_reducible exact ⟨_, rfl⟩ | split | dsimp only
  | lnkspcmdBack c l v =>
    show ∃ fin', execLnkspcmdBack c l v s = done fin'
    unfold execLnkspcmdBack
    repeat' first | with_reducible exact ⟨_, rfl⟩ | split | dsimp only
  | lnklossUncap c l v =>
    show ∃ fin', execLnklossUncap c l v s = done fin'
    unfold execLnklossUncap
    repeat' first | with_reducible exact ⟨_, rfl⟩ | split | dsimp only
  | prbsGenEnable c sd p v =>
    show ∃ fin', execPrbsGenEnable c sd p v s = done fin'
    unfold execPrbsGenEnable
    repeat' first | with_reducible exact ⟨_, rfl⟩ | split | dsimp only
  | prbsChkEnable c sd p v =>
    show ∃ fin', execPrbsChkEnable c sd p v s = done fin'
    unfold execPrbsChkEnable
    repeat' first | with_reducible exact ⟨_, rfl⟩ | split | dsimp only
  | prbsInject c sd p v =>
    show ∃ fin', execPrbsInject c sd p v s = done fin'
    unfold execPrbsInject
    repeat' first | with_reducible exact ⟨_, rfl⟩ | split | dsimp only
  | prbsCheckerLock sd p =>
    show ∃ fin', execPrbsCheckerLock sd p s = done fin'
    unfold execPrbsCheckerLock
    repeat' first | with_reducible exact ⟨_, rfl⟩ | split | dsimp only
  | prbsLockLost sd p =>
    show ∃ fin', execPrbsLockLost sd p s = done fin'
    unfold execPrbsLockLost
    repeat' first | with_reducible exact ⟨_, rfl⟩ | split | dsimp only
  | counterClr c sd p v =>
    show ∃ fin', execCounterClr c sd p v s = done fin'
    unfold execCounterClr
    repeat' first | with_reducible exact ⟨_, rfl⟩ | split | dsimp only
  | lnscanStart c sd p v =>
    show ∃ fin', execLnscanStart c sd p v s = done fin'
    unfold execLnscanStart
    repeat' first | with_reducible exact ⟨_, rfl⟩ | split | dsimp only
  | scanPointDone sd p n =>
    show ∃ fin', execScanPointDone sd p n s = done fin'
    unfold execScanPointDone
    repeat' first | with_reducible exact ⟨_, rfl⟩ | split | dsimp only
  | eyeSweepEnd sd p w i =>
    show ∃ fin', execEyeSweepEnd sd p w i s = done fin'
    unfold execEyeSweepEnd
    repeat' first | with_reducible exact ⟨_, rfl⟩ | split | dsimp only
  | trainingSweepEnd sd p w i =>
    show ∃ fin', execTrainingSweepEnd sd p w i s = done fin'
    unfold execTrainingSweepEnd
    repeat' first | with_reducible exact ⟨_, rfl⟩ | split | dsimp only
  | loopNearSerial c sd p v =>
    show ∃ fin', execLoopNearSerial c sd p v s = done fin'
    unfold execLoopNearSerial
    repeat' first | with_reducible exact ⟨_, rfl⟩ | split | dsimp only
  | loopNearParallel c sd p v =>
    show ∃ fin', execLoopNearParallel c sd p v s = done fin'
    unfold execLoopNearParallel
    repeat' first | with_reducible exact ⟨_, rfl⟩ | split | dsimp only
  | loopFarEnd c sd p v =>
    show ∃ fin', execLoopFarEnd c sd p v s = done fin'
    unfold execLoopFarEnd
    repeat' first | with_reducible exact ⟨_, rfl⟩ | split | dsimp only
  | loopOff c sd p v =>
    show ∃ fin', execLoopOff c sd p v s = done fin'
    unfold execLoopOff
    repeat' first | with_reducible exact ⟨_, rfl⟩ | split | dsimp only
  | calcmdGo c v =>
    show ∃ fin', execCalcmdGo c v s = done fin'
    unfold execCalcmdGo
    repeat' first | with_reducible exact ⟨_, rfl⟩ | split | dsimp only
  | calcmdSave c v =>
    show ∃ fin', execCalcmdSave c v s = done fin'
    unfold execCalcmdSave
    repeat' first | with_reducible exact ⟨_, rfl⟩ | split | dsimp only
  | recalEvaluation =>
    show ∃ fin', execRecalEvaluation s = done fin'
    unfold execRecalEvaluation
    repeat' first | with_reducible exact ⟨_, rfl⟩ | split | dsimp only
  | recalStep last =>
    show ∃ fin', execRecalStep last s = done fin'
    unfold execRecalStep
    repeat' first | with_reducible exact ⟨_, rfl⟩ | split | dsimp only
  | recalAborted =>
    show ∃ fin', execRecalAborted s = done fin'
    unfold execRecalAborted
    repeat' first | with_reducible exact ⟨_, rfl⟩ | split | dsimp only
  | adcSelfCal =>
    show ∃ fin', execAdcSelfCal s = done fin'
    unfold execAdcSelfCal
    repeat' first | with_reducible exact ⟨_, rfl⟩ | split | dsimp only
  | adcSelfCalEnd =>
    show ∃ fin', execAdcSelfCalEnd s = done fin'
    unfold execAdcSelfCalEnd
    repeat' first | with_reducible exact ⟨_, rfl⟩ | split | dsimp only
  | twbAddress a rd =>
    show ∃ fin', execTwbAddress a rd s = done fin'
    unfold execTwbAddress
    repeat' first | with_reducible exact ⟨_, rfl⟩ | split | dsimp only
  | twbWriteWord v e =>
    show ∃ fin', execTwbWriteWord v e s = done fin'
    unfold execTwbWriteWord
    repeat' first | with_reducible exact ⟨_, rfl⟩ | split | dsimp only
  | twbReadWord e =>
    show ∃ fin', execTwbReadWord e s = done fin'
    unfold execTwbReadWord
    repeat' first | with_reducible exact ⟨_, rfl⟩ | split | dsimp only
  | twbStartStop k extra =>
    show ∃ fin', execTwbStartStop k extra s = done fin'
    unfold execTwbStartStop
    repeat' first | with_reducible exact ⟨_, rfl⟩ | split | dsimp only
  | twbLate =>
    show ∃ fin', execTwbLate s = done fin'
    unfold execTwbLate
    repeat' first | with_reducible exact ⟨_, rfl⟩ | split | dsimp only
  | twbWake a =>
    show ∃ fin', execTwbWake a s = done fin'
    unfold execTwbWake
    repeat' first | with_reducible exact ⟨_, rfl⟩ | split | dsimp only
  | twbSleep =>
    show ∃ fin', execTwbSleep s = done fin'
    unfold execTwbSleep
    repeat' first | with_reducible exact ⟨_, rfl⟩ | split | dsimp only
  | twbSclLow extra =>
    show ∃ fin', execTwbSclLow extra s = done fin'
    unfold execTwbSclLow
    repeat' first | with_reducible exact ⟨_, rfl⟩ | split | dsimp only
  | twbSdaLow extra =>
    show ∃ fin', execTwbSdaLow extra s = done fin'
    unfold execTwbSdaLow
    repeat' first | with_reducible exact ⟨_, rfl⟩ | split | dsimp only
  | mosReceived l sd m e =>
    show ∃ fin', execMosReceived l sd m e s = done fin'
    unfold execMosReceived
    repeat' first | with_reducible exact ⟨_, rfl⟩ | split | dsimp only
  | mosRd l sd seq a two e =>
    show ∃ fin', execMosRd l sd seq a two e s = done fin'
    unfold execMosRd
    repeat' first | with_reducible exact ⟨_, rfl⟩ | split | dsimp only
  | mosWr l sd seq a v e =>
    show ∃ fin', execMosWr l sd seq a v e s = done fin'
    unfold execMosWr
    repeat' first | with_reducible exact ⟨_, rfl⟩ | split | dsimp only
  | notifyRepeat =>
    show ∃ fin', execNotifyRepeat s = done fin'
    unfold execNotifyRepeat
    repeat' first | with_reducible exact ⟨_, rfl⟩ | split | dsimp only
  | jtagExtest =>
    show ∃ fin', execJtagExtest s = done fin'
    unfold execJtagExtest
    repeat' first | with_reducible exact ⟨_, rfl⟩ | split | dsimp only
  | jtagIdcode =>
    show ∃ fin', execJtagIdcode s = done fin'
    unfold execJtagIdcode
    repeat' first | with_reducible exact ⟨_, rfl⟩ | split | dsimp only
  | jtagSamplePreload =>
    show ∃ fin', execJtagSamplePreload s = done fin'
    unfold execJtagSamplePreload
    repeat' first | with_reducible exact ⟨_, rfl⟩ | split | dsimp only
  | jtagExtestPulse =>
    show ∃ fin', execJtagExtestPulse s = done fin'
    unfold execJtagExtestPulse
    repeat' first | with_reducible exact ⟨_, rfl⟩ | split | dsimp only
  | jtagExtestTrain =>
    show ∃ fin', execJtagExtestTrain s = done fin'
    unfold execJtagExtestTrain
    repeat' first | with_reducible exact ⟨_, rfl⟩ | split | dsimp only
  | jtagHighz =>
    show ∃ fin', execJtagHighz s = done fin'
    unfold execJtagHighz
    repeat' first | with_reducible exact ⟨_, rfl⟩ | split | dsimp only
  | jtagClamp =>
    show ∃ fin', execJtagClamp s = done fin'
    unfold execJtagClamp
    repeat' first | with_reducible exact ⟨_, rfl⟩ | split | dsimp only
  | jtagBypass op =>
    show ∃ fin', execJtagBypass op s = done fin'
    unfold execJtagBypass
    repeat' first | with_reducible exact ⟨_, rfl⟩ | split | dsimp only
  | jtagTapReset =>
    show ∃ fin', execJtagTapReset s = done fin'
    unfold execJtagTapReset
    repeat' first | with_reducible exact ⟨_, rfl⟩ | split | dsimp only
  | storeRead c a e =>
    show ∃ fin', execStoreRead c a e s = done fin'
    unfold execStoreRead
    repeat' first | with_reducible exact ⟨_, rfl⟩ | split | dsimp only
  | storeWrite c a v e =>
    show ∃ fin', execStoreWrite c a v e s = done fin'
    unfold execStoreWrite
    repeat' first | with_reducible exact ⟨_, rfl⟩ | split | dsimp only
  | windowEntryWrite c t pg v =>
    show ∃ fin', execWindowEntryWrite c t pg v s = done fin'
    unfold execWindowEntryWrite
    repeat' first | with_reducible exact ⟨_, rfl⟩ | split | dsimp only
  | winctlSync c v =>
    show ∃ fin', execWinctlSync c v s = done fin'
    unfold execWinctlSync
    repeat' first | with_reducible exact ⟨_, rfl⟩ | split | dsimp only
  | syncBarrierDone c =>
    show ∃ fin', execSyncBarrierDone c s = done fin'
    unfold execSyncBarrierDone
    repeat' first | with_reducible exact ⟨_, rfl⟩ | split | dsimp only
  | scrubLine e =>
    show ∃ fin', execScrubLine e s = done fin'
    unfold execScrubLine
    repeat' first | with_reducible exact ⟨_, rfl⟩ | split | dsimp only
  | ceRateHour =>
    show ∃ fin', execCeRateHour s = done fin'
    unfold execCeRateHour
    repeat' first | with_reducible exact ⟨_, rfl⟩ | split | dsimp only
  | storeCeClr c v =>
    show ∃ fin', execStoreCeClr c v s = done fin'
    unfold execStoreCeClr
    repeat' first | with_reducible exact ⟨_, rfl⟩ | split | dsimp only
  | wqEnable c q v =>
    show ∃ fin', execWqEnable c q v s = done fin'
    unfold execWqEnable
    repeat' first | with_reducible exact ⟨_, rfl⟩ | split | dsimp only
  | wqDisable c q v =>
    show ∃ fin', execWqDisable c q v s = done fin'
    unfold execWqDisable
    repeat' first | with_reducible exact ⟨_, rfl⟩ | split | dsimp only
  | wqReset c q v =>
    show ∃ fin', execWqReset c q v s = done fin'
    unfold execWqReset
    repeat' first | with_reducible exact ⟨_, rfl⟩ | split | dsimp only
  | wqDoorbell c q v =>
    show ∃ fin', execWqDoorbell c q v s = done fin'
    unfold execWqDoorbell
    repeat' first | with_reducible exact ⟨_, rfl⟩ | split | dsimp only
  | entryPrefetch q e =>
    show ∃ fin', execEntryPrefetch q e s = done fin'
    unfold execEntryPrefetch
    repeat' first | with_reducible exact ⟨_, rfl⟩ | split | dsimp only
  | headerWrite q =>
    show ∃ fin', execHeaderWrite q s = done fin'
    unfold execHeaderWrite
    repeat' first | with_reducible exact ⟨_, rfl⟩ | split | dsimp only
  | jobStart u heel =>
    show ∃ fin', execJobStart u heel s = done fin'
    unfold execJobStart
    repeat' first | with_reducible exact ⟨_, rfl⟩ | split | dsimp only
  | preemptFlushDone m e =>
    show ∃ fin', execPreemptFlushDone m e s = done fin'
    unfold execPreemptFlushDone
    repeat' first | with_reducible exact ⟨_, rfl⟩ | split | dsimp only
  | jobEnd u =>
    show ∃ fin', execJobEnd u s = done fin'
    unfold execJobEnd
    repeat' first | with_reducible exact ⟨_, rfl⟩ | split | dsimp only
  | completionWrite q =>
    show ∃ fin', execCompletionWrite q s = done fin'
    unfold execCompletionWrite
    repeat' first | with_reducible exact ⟨_, rfl⟩ | split | dsimp only
  | drainComplete q =>
    show ∃ fin', execDrainComplete q s = done fin'
    unfold execDrainComplete
    repeat' first | with_reducible exact ⟨_, rfl⟩ | split | dsimp only
  | cqEnable c q v =>
    show ∃ fin', execCqEnable c q v s = done fin'
    unfold execCqEnable
    repeat' first | with_reducible exact ⟨_, rfl⟩ | split | dsimp only
  | cqDisable c q v =>
    show ∃ fin', execCqDisable c q v s = done fin'
    unfold execCqDisable
    repeat' first | with_reducible exact ⟨_, rfl⟩ | split | dsimp only
  | cqheadWrite c q v =>
    show ∃ fin', execCqheadWrite c q v s = done fin'
    unfold execCqheadWrite
    repeat' first | with_reducible exact ⟨_, rfl⟩ | split | dsimp only
  | nop q =>
    show ∃ fin', execNop q s = done fin'
    unfold execNop
    repeat' first | with_reducible exact ⟨_, rfl⟩ | split | dsimp only
  | fence q =>
    show ∃ fin', execFence q s = done fin'
    unfold execFence
    repeat' first | with_reducible exact ⟨_, rfl⟩ | split | dsimp only
  | move m e =>
    show ∃ fin', execMove m e s = done fin'
    unfold execMove
    repeat' first | with_reducible exact ⟨_, rfl⟩ | split | dsimp only
  | capture sd =>
    show ∃ fin', execCapture sd s = done fin'
    unfold execCapture
    repeat' first | with_reducible exact ⟨_, rfl⟩ | split | dsimp only
  | captureTrigger sd ln =>
    show ∃ fin', execCaptureTrigger sd ln s = done fin'
    unfold execCaptureTrigger
    repeat' first | with_reducible exact ⟨_, rfl⟩ | split | dsimp only
  | captureStop sd =>
    show ∃ fin', execCaptureStop sd s = done fin'
    unfold execCaptureStop
    repeat' first | with_reducible exact ⟨_, rfl⟩ | split | dsimp only
  | captureTimeout sd =>
    show ∃ fin', execCaptureTimeout sd s = done fin'
    unfold execCaptureTimeout
    repeat' first | with_reducible exact ⟨_, rfl⟩ | split | dsimp only
  | captureLostPage sd =>
    show ∃ fin', execCaptureLostPage sd s = done fin'
    unfold execCaptureLostPage
    repeat' first | with_reducible exact ⟨_, rfl⟩ | split | dsimp only
  | eyescan sd p row =>
    show ∃ fin', execEyescan sd p row s = done fin'
    unfold execEyescan
    repeat' first | with_reducible exact ⟨_, rfl⟩ | split | dsimp only
  | eyescanLockTimeout sd p =>
    show ∃ fin', execEyescanLockTimeout sd p s = done fin'
    unfold execEyescanLockTimeout
    repeat' first | with_reducible exact ⟨_, rfl⟩ | split | dsimp only
  | prbsJob sd p =>
    show ∃ fin', execPrbsJob sd p s = done fin'
    unfold execPrbsJob
    repeat' first | with_reducible exact ⟨_, rfl⟩ | split | dsimp only
  | prbsJobInject sd p =>
    show ∃ fin', execPrbsJobInject sd p s = done fin'
    unfold execPrbsJobInject
    repeat' first | with_reducible exact ⟨_, rfl⟩ | split | dsimp only
  | prbsJobDurationEnd sd p =>
    show ∃ fin', execPrbsJobDurationEnd sd p s = done fin'
    unfold execPrbsJobDurationEnd
    repeat' first | with_reducible exact ⟨_, rfl⟩ | split | dsimp only
  | nvmRead e =>
    show ∃ fin', execNvmRead e s = done fin'
    unfold execNvmRead
    repeat' first | with_reducible exact ⟨_, rfl⟩ | split | dsimp only
  | nvmProgram e =>
    show ∃ fin', execNvmProgram e s = done fin'
    unfold execNvmProgram
    repeat' first | with_reducible exact ⟨_, rfl⟩ | split | dsimp only
  | nvmUnitProgrammed ok =>
    show ∃ fin', execNvmUnitProgrammed ok s = done fin'
    unfold execNvmUnitProgrammed
    repeat' first | with_reducible exact ⟨_, rfl⟩ | split | dsimp only
  | nvmErase =>
    show ∃ fin', execNvmErase s = done fin'
    unfold execNvmErase
    repeat' first | with_reducible exact ⟨_, rfl⟩ | split | dsimp only
  | nvmSectorErased ok =>
    show ∃ fin', execNvmSectorErased ok s = done fin'
    unfold execNvmSectorErased
    repeat' first | with_reducible exact ⟨_, rfl⟩ | split | dsimp only
  | eraseSuspend w =>
    show ∃ fin', execEraseSuspend w s = done fin'
    unfold execEraseSuspend
    repeat' first | with_reducible exact ⟨_, rfl⟩ | split | dsimp only
  | eraseResume =>
    show ∃ fin', execEraseResume s = done fin'
    unfold execEraseResume
    repeat' first | with_reducible exact ⟨_, rfl⟩ | split | dsimp only
  | telemetry m =>
    show ∃ fin', execTelemetry m s = done fin'
    unfold execTelemetry
    repeat' first | with_reducible exact ⟨_, rfl⟩ | split | dsimp only
  | imcSend =>
    show ∃ fin', execImcSend s = done fin'
    unfold execImcSend
    repeat' first | with_reducible exact ⟨_, rfl⟩ | split | dsimp only
  | imcNoSlot =>
    show ∃ fin', execImcNoSlot s = done fin'
    unfold execImcNoSlot
    repeat' first | with_reducible exact ⟨_, rfl⟩ | split | dsimp only
  | wqResume c q v =>
    show ∃ fin', execWqResume c q v s = done fin'
    unfold execWqResume
    repeat' first | with_reducible exact ⟨_, rfl⟩ | split | dsimp only
  | awlQueue c q =>
    show ∃ fin', execAwlQueue c q s = done fin'
    unfold execAwlQueue
    repeat' first | with_reducible exact ⟨_, rfl⟩ | split | dsimp only
  | awlJob c q tag =>
    show ∃ fin', execAwlJob c q tag s = done fin'
    unfold execAwlJob
    repeat' first | with_reducible exact ⟨_, rfl⟩ | split | dsimp only
  | awlUnit c sel =>
    show ∃ fin', execAwlUnit c sel s = done fin'
    unfold execAwlUnit
    repeat' first | with_reducible exact ⟨_, rfl⟩ | split | dsimp only
  | awlLane c sel =>
    show ∃ fin', execAwlLane c sel s = done fin'
    unfold execAwlLane
    repeat' first | with_reducible exact ⟨_, rfl⟩ | split | dsimp only
  | awlAll c =>
    show ∃ fin', execAwlAll c s = done fin'
    unfold execAwlAll
    repeat' first | with_reducible exact ⟨_, rfl⟩ | split | dsimp only
  | awlDone =>
    show ∃ fin', execAwlDone s = done fin'
    unfold execAwlDone
    repeat' first | with_reducible exact ⟨_, rfl⟩ | split | dsimp only
  | nvmWindowRead c off e =>
    show ∃ fin', execNvmWindowRead c off e s = done fin'
    unfold execNvmWindowRead
    repeat' first | with_reducible exact ⟨_, rfl⟩ | split | dsimp only
  | nvmLogWrite ok =>
    show ∃ fin', execNvmLogWrite ok s = done fin'
    unfold execNvmLogWrite
    repeat' first | with_reducible exact ⟨_, rfl⟩ | split | dsimp only
  | logTokenTick =>
    show ∃ fin', execLogTokenTick s = done fin'
    unfold execLogTokenTick
    repeat' first | with_reducible exact ⟨_, rfl⟩ | split | dsimp only
  | nvmctlCeClr c v =>
    show ∃ fin', execNvmctlCeClr c v s = done fin'
    unfold execNvmctlCeClr
    repeat' first | with_reducible exact ⟨_, rfl⟩ | split | dsimp only
  | sequencerTimerTrigger n =>
    show ∃ fin', execSequencerTimerTrigger n s = done fin'
    unfold execSequencerTimerTrigger
    repeat' first | with_reducible exact ⟨_, rfl⟩ | split | dsimp only
  | decimatorOutput v =>
    show ∃ fin', execDecimatorOutput v s = done fin'
    unfold execDecimatorOutput
    repeat' first | with_reducible exact ⟨_, rfl⟩ | split | dsimp only
  | syncEdge =>
    show ∃ fin', execSyncEdge s = done fin'
    unfold execSyncEdge
    repeat' first | with_reducible exact ⟨_, rfl⟩ | split | dsimp only
  | tmseqctlRestart c n v =>
    show ∃ fin', execTmseqctlRestart c n v s = done fin'
    unfold execTmseqctlRestart
    repeat' first | with_reducible exact ⟨_, rfl⟩ | split | dsimp only
  | dtimeLoadNow c v =>
    show ∃ fin', execDtimeLoadNow c v s = done fin'
    unfold execDtimeLoadNow
    repeat' first | with_reducible exact ⟨_, rfl⟩ | split | dsimp only
  | dtimeLoRead c =>
    show ∃ fin', execDtimeLoRead c s = done fin'
    unfold execDtimeLoRead
    repeat' first | with_reducible exact ⟨_, rfl⟩ | split | dsimp only
  | dtrateWrite c v =>
    show ∃ fin', execDtrateWrite c v s = done fin'
    unfold execDtrateWrite
    repeat' first | with_reducible exact ⟨_, rfl⟩ | split | dsimp only
  | heelWatchdogTrip =>
    show ∃ fin', execHeelWatchdogTrip s = done fin'
    unfold execHeelWatchdogTrip
    repeat' first | with_reducible exact ⟨_, rfl⟩ | split | dsimp only
  | weltMismatch p stuckOpen =>
    show ∃ fin', execWeltMismatch p stuckOpen s = done fin'
    unfold execWeltMismatch
    repeat' first | with_reducible exact ⟨_, rfl⟩ | split | dsimp only
  | regReadClear c a e =>
    show ∃ fin', execRegReadClear c a e s = done fin'
    unfold execRegReadClear
    repeat' first | with_reducible exact ⟨_, rfl⟩ | split | dsimp only
  | regWrite c a v e =>
    show ∃ fin', execRegWrite c a v e s = done fin'
    unfold execRegWrite
    repeat' first | with_reducible exact ⟨_, rfl⟩ | split | dsimp only
  | signalDetected sd p =>
    show ∃ fin', execSignalDetected sd p s = done fin'
    unfold execSignalDetected
    repeat' first | with_reducible exact ⟨_, rfl⟩ | split | dsimp only
  | vioSplitThreshold =>
    show ∃ fin', execVioSplitThreshold s = done fin'
    unfold execVioSplitThreshold
    repeat' first | with_reducible exact ⟨_, rfl⟩ | split | dsimp only
  | supplyInWindow r =>
    show ∃ fin', execSupplyInWindow r s = done fin'
    unfold execSupplyInWindow
    repeat' first | with_reducible exact ⟨_, rfl⟩ | split | dsimp only

end Sys2Proof.Machine
end

