-- ==== Sys2Proof/Laws/Turns.lean ====
section
/-! SUPPORT. What a link's turning points do to it, and what settling the device does to all links. -/

namespace Sys2Proof.Machine

theorem bare_bare (k : Link) : k.bare.bare = k.bare := rfl

/-- An update that reads nothing outside the course gives links of one course one course. -/
theorem modLink_self {x y : State} {l : LinkNo} {f : Link → Link} (hf : ∀ k, (f k).bare = (f k.bare).bare)
    (h : Course x y) : (getLink (modLink y l f) l).bare = (f (getLink x l)).bare := by
  rw [getLink_modLink, hf, h l, ← hf]

/-- A link as leaving its training state leaves it. -/
def Link.dropped (k : Link) : Link :=
  { k with
    width := 0, lostAB := 0, lostBA := 0, cap := 0, editAB := none, editBA := none
    grants := Vector.replicate 3 none, waking := none, deepWake := false, retrainAsked := false, idleOut := false
    idleDown := false, exitRetrain := false, partnerDis := false, disA := false, disB := false, lpbkDue := none
    release := none, rate := 0, rateBad := false, rateOld := false }

theorem dropLink_self {x y : State} (l : LinkNo) (h : Course x y) :
    (getLink (dropLink y l) l).bare = (getLink x l).dropped.bare := by
  unfold dropLink
  dsimp only
  have h1 : Course x (endSearches (leaveDisabled (endPbl y l) l) l) :=
    Course.of_links (endSearches_keeps (k := .links) (by decide)
      (leaveDisabled_keeps (k := .links) (by decide) (endPbl_keeps (k := .links) (by decide) rfl))) h
  have h : Course x (allReset (dropMos (withMasters (endSwaps (endSearches (leaveDisabled (endPbl y l) l) l) l) l fun t => t) l
      [mosRdData, mosAck, mosNak, mosSpare, mosRetrainReq]) l) :=
    allReset_course (dropMos_course (withMasters_course (fun _ g => g) (endSwaps_course h1)))
  exact modLink_self (fun _ => rfl) h

theorem bare_join {j k : Link} (h : j.bare = k.bare) : j.join = k.join :=
  show j.bare.join = k.bare.join from congrArg Link.join h
theorem bare_st {j k : Link} (h : j.bare = k.bare) : j.st = k.st :=
  show j.bare.st = k.bare.st from congrArg Link.st h

theorem forceLink_self (x : State) (l : LinkNo) : (getLink (forceLink x l) l).join = .forced := by
  unfold forceLink
  split
  · rename_i h
    simpa using h
  · rw [getLink_modLink]

/-- A device-wide cause sends every link to FORCED (R53). -/
theorem forceAll_forced (x : State) (l : LinkNo) : (getLink (allLinks.foldl forceLink x) l).join = .forced := by
  have hl : l ∈ allLinks := List.mem_finRange l
  generalize allLinks = r at hl ⊢
  have keep : ∀ (r : List LinkNo) (y : State), (getLink y l).join = .forced → (getLink (r.foldl forceLink y) l).join = .forced := by
    intro r
    induction r with
    | nil => exact fun _ h => h
    | cons j r ih =>
      intro y h
      refine ih _ ?_
      by_cases e : l = j
      · subst e
        exact forceLink_self y l
      · exact (bare_join (forceLink_but (But.refl j y) l e)).trans h
  induction r generalizing x with
  | nil => cases hl
  | cons j r ih =>
    rcases List.mem_cons.1 hl with e | e
    · subst e
      exact keep r _ (forceLink_self x l)
    · exact ih _ e

theorem settle_forced {x : State} (h : devCause x = true) (l : LinkNo) : (getLink (settle x) l).join = .forced := by
  unfold settle
  rw [if_pos h]
  exact (bare_join (settleAll_course (Course.refl _) l)).trans (forceAll_forced x l)

theorem bare_field {α : Type} (f : Link → α) (hf : ∀ k, f k = f k.bare) {j k : Link} (h : j.bare = k.bare) : f j = f k := by
  rw [hf j, h, ← hf k]

theorem enterDisabled_self {x y : State} (l : LinkNo) (h : Course x y) :
    (getLink (enterDisabled y l) l).bare =
      ({ (getLink x l).dropped with st := .disabled, partnerDis := (getLink x l).partnerDis, disA := (getLink x l).disA, disB := (getLink x l).disB } : Link).bare := by
  have hk := h l
  unfold enterDisabled
  dsimp only
  rw [getLink_modLink]
  have e := dropLink_self l (switchWaiting_course (a0 := l) h)
  have e1 : (getLink y l).partnerDis = (getLink x l).partnerDis := bare_field Link.partnerDis (fun _ => rfl) hk
  have e2 : (getLink y l).disA = (getLink x l).disA := bare_field Link.disA (fun _ => rfl) hk
  have e3 : (getLink y l).disB = (getLink x l).disB := bare_field Link.disB (fun _ => rfl) hk
  rw [e1, e2, e3]
  exact congrArg (fun k : Link => { k with st := TrainState.disabled, partnerDis := (getLink x l).partnerDis, disA := (getLink x l).disA, disB := (getLink x l).disB }) e

/-- A link that enters DETECT from no training state, or from one that is no failed attempt. -/
theorem enterDetect_fresh {x y : State} (l : LinkNo) (c : BitVec 4) (h : Course x y)
    (hf : (getLink x l).st = .detect ∨ (getLink x l).st = .active ∨ (getLink x l).st = .notTraining) :
    (getLink (enterDetect y l c) l).join = (getLink x l).join ∧ (getLink (enterDetect y l c) l).aside = (getLink x l).aside ∧
      (getLink (enterDetect y l c) l).failRun = (getLink x l).failRun ∧
      (getLink (enterDetect y l c) l).st = if (getLink x l).disable then .disabled else .detect := by
  have hs : (getLink y l).st = (getLink x l).st := bare_st (h l)
  have e := dropLink_self l (switchWaiting_course (a0 := l) h)
  unfold enterDetect
  dsimp only
  have f : ((getLink y l).st != .detect && (getLink y l).st != .active && (getLink y l).st != .notTraining) = false := by
    rw [hs]
    rcases hf with g | g | g <;> rw [g] <;> rfl
  rw [f, Bool.false_and, Bool.false_and, if_neg Bool.false_ne_true]
  simp only [Bool.false_eq_true, if_false]
  generalize dropLink (switchWaiting y l) l = z at e ⊢
  generalize hr : (if isLoopTimed z l = true then singleRate z l else 0) = r
  have e1 : (getLink (modLink z l fun k => { k with st := .detect, rate := r }) l).bare =
      ({ (getLink x l).dropped with st := .detect, rate := r } : Link).bare := by
    rw [getLink_modLink]
    exact congrArg (fun k : Link => { k with st := TrainState.detect, rate := r }) e
  have ed := bare_field Link.disable (fun _ => rfl) e1
  have ej := bare_join e1
  have es := bare_st e1
  have ea := bare_field Link.aside (fun _ => rfl) e1
  have ef := bare_field Link.failRun (fun _ => rfl) e1
  replace ed : _ = (getLink x l).disable := ed
  rw [ed]
  cases hd : (getLink x l).disable with
  | false =>
    simp only [Bool.false_eq_true, if_false]
    exact ⟨ej, ea, ef, es⟩
  | true =>
    simp only [if_true]
    have e2 := enterDisabled_self l (Course.refl (modLink z l fun k => { k with st := .detect, rate := r }))
    have ea2 := bare_field Link.aside (fun _ => rfl) e2
    have ef2 := bare_field Link.failRun (fun _ => rfl) e2
    have ej2 := bare_join e2
    have es2 := bare_st e2
    exact ⟨ej2.trans ej, ea2.trans ea, ef2.trans ef, es2⟩

/-! ### What neither joining nor leaving touches -/

/-- What a change of join state leaves of a link. -/
def Link.firm (k : Link) : Link := { k.dropped.bare with join := .forced, joinSeen := false, st := .notTraining }

/-- No link has changed but for its join state, its training state and what ends with that. -/
def Firm (s t : State) : Prop := ∀ l, (getLink t l).firm = (getLink s l).firm

theorem Firm.refl (s : State) : Firm s s := fun _ => rfl
theorem Firm.trans {s t u : State} (h : Firm s t) (g : Firm t u) : Firm s u := fun l => (g l).trans (h l)

theorem firm_bare (k : Link) : k.bare.firm = k.firm := rfl
theorem firm_dropped (k : Link) : k.dropped.firm = k.firm := rfl

theorem firm_of_bare {j k : Link} (h : j.bare = k.bare) : j.firm = k.firm := by
  rw [← firm_bare j, h, firm_bare]

theorem Course.firm {s t : State} (h : Course s t) : Firm s t := fun l => firm_of_bare (h l)

theorem modLink_firm {s x : State} {l : LinkNo} {f : Link → Link} (hf : ∀ k, (f k).firm = k.firm)
    (h : Firm s x) : Firm s (modLink x l f) := by
  intro j
  by_cases e : j = l
  · subst e
    rw [getLink_modLink]
    exact (hf _).trans (h j)
  · rw [getLink_modLink_other _ _ _ _ e]
    exact h j

theorem dropLink_firm {s x : State} (l : LinkNo) (h : Firm s x) : Firm s (dropLink x l) := by
  refine h.trans fun j => ?_
  by_cases e : j = l
  · subst e
    exact (firm_of_bare (dropLink_self j (Course.refl x))).trans (firm_dropped _)
  · exact firm_of_bare (dropLink_but (But.refl l x) j e)

theorem forceLink_firm {s x : State} (l : LinkNo) (h : Firm s x) : Firm s (forceLink x l) := by
  unfold forceLink
  split
  · exact h
  · refine modLink_firm (fun _ => rfl) (dropLink_firm l (h.trans (Course.firm ?_)))
    split
    · exact setResult_course (Course.refl x)
    · exact switchNow_course (Course.refl x)

theorem startState_firm {s x : State} (l : LinkNo) (h : Firm s x) : Firm s (startState x l) := by
  have go : ∀ j : JoinState, Firm s (modLink x l fun k => { k with join := j, joinSeen := false, st := .notTraining }) :=
    fun j => modLink_firm (fun _ => rfl) h
  unfold startState
  dsimp only
  split
  · exact go _
  · split
    · exact go _
    · split
      · exact go _
      · split <;> exact go _
      · exact go _

theorem restartLink_firm {s x : State} (l : LinkNo) (h : Firm s x) : Firm s (restartLink x l) := by
  unfold restartLink
  split
  · exact modLink_firm (fun _ => rfl) h
  · split
    · exact modLink_firm (fun _ => rfl) h
    · exact startState_firm l h

theorem foldl_firm {α : Type} {s x : State} {f : State → α → State} {l : List α} (h : Firm s x)
    (hf : ∀ t a, Firm s t → Firm s (f t a)) : Firm s (l.foldl f x) := by
  induction l generalizing x with
  | nil => exact h
  | cons a r ih => exact ih (hf x a h)

theorem settle_firm {s x : State} (h : Firm s x) : Firm s (settle x) := by
  unfold settle
  dsimp only
  refine Firm.trans ?_ (Course.firm (settleAll_course (Course.refl _)))
  split
  · exact foldl_firm h fun t l k => forceLink_firm l k
  · split
    · refine foldl_firm h fun t l k => ?_
      split
      · exact restartLink_firm l k
      · exact k
    · exact h

theorem fin_firm {s x : State} (h : Firm s x) : Firm s (fin x) := h.trans (Course.firm (fin_course (Course.refl x)))

theorem standAside_firm {s x : State} (l : LinkNo) (h : Firm s x) : Firm s (standAside x l) := by
  unfold standAside
  dsimp only
  split
  · exact h
  · refine Firm.trans ?_ (Course.firm (settleAll_course (Course.refl _)))
    exact modLink_firm (fun _ => rfl) (dropLink_firm l (h.trans (Course.firm (switchNow_course (Course.refl x)))))

theorem firm_field {α : Type} (f : Link → α) (hf : ∀ k, f k = f k.firm) {j k : Link} (h : j.firm = k.firm) : f j = f k := by
  rw [hf j, h, ← hf k]

/-- Of one state's devices, only a link that is not under a device-wide cause waits or trains. -/
theorem settle_aside (x : State) (l : LinkNo) : (getLink (fin (settle x)) l).aside = (getLink x l).aside :=
  firm_field Link.aside (fun _ => rfl) (fin_firm (settle_firm (Firm.refl x)) l)

end Sys2Proof.Machine
end

