-- ==== Sys2Proof/Laws/Flags.lean ====
section
/-! SUPPORT. What an event leaves of the event registers: the mask, and the safety sources that are held. -/

namespace Sys2Proof.Machine

/-- The event registers but for what an event itself moves. -/
def EvtSt.flags (e : EvtSt) : EvtSt :=
  { e with next := 0, wrapped := false, lastCode := 0, attn := 0, overwrites := 0, seq := 0, fifo := [] }

/-- The mask and the held safety sources are the same. -/
def Flags (s t : State) : Prop := t.evt.flags = s.evt.flags

theorem Flags.refl (s : State) : Flags s s := rfl

theorem Flags.of_keeps {s x y : State} {l : List Comp} (g : ∀ k : Comp, k ∉ l → k.same x y) (d : Comp.evt ∉ l)
    (h : Flags s x) : Flags s y := by
  have e : y.evt = x.evt := g .evt d
  unfold Flags
  rw [e]
  exact h

theorem ite_flags {s a b : State} {c : Prop} {_ : Decidable c} (ha : Flags s a) (hb : Flags s b) :
    Flags s (if c then a else b) := by
  split
  · exact ha
  · exact hb

theorem foldl_flags {α : Type} {s x : State} {f : State → α → State} {l : List α} (h : Flags s x)
    (hf : ∀ t a, Flags s t → Flags s (f t a)) : Flags s (l.foldl f x) := by
  induction l generalizing x with
  | nil => exact h
  | cons a r ih => exact ih (hf x a h)

theorem getD_flags {s d : State} {o : Option State} (ho : ∀ u, o = some u → Flags s u) (hd : Flags s d) :
    Flags s (o.getD d) := by
  cases o with
  | none => exact hd
  | some u => exact ho u rfl

theorem emit_flags (x : State) (code : BitVec 16) (c : Ctx) (d : BitVec 64) (data : List Byte) :
    (emit x code c d data).evt.flags = x.evt.flags := by
  unfold emit recordPut ringPut
  dsimp only
  split
  · split <;> rfl
  · rfl

theorem emitEvent_flags (x : State) (code : BitVec 16) (c : Ctx) (data : List Byte) :
    (emitEvent x code c data).evt.flags = x.evt.flags := by
  unfold emitEvent
  dsimp only
  have h : ∀ (e : EvtSt) (l : BitVec 16) (a : BitVec 12), ({ e with lastCode := l, attn := a } : EvtSt).flags = e.flags := fun _ _ _ => rfl
  rw [h]
  split
  · rw [emit_flags, emit_flags]
  · rw [emit_flags]

theorem logFuel_flags (n : Nat) (x : State) (code : BitVec 16) (c : Ctx) (data : List Byte) :
    (logFuel n x code c data).evt.flags = x.evt.flags := by
  induction n generalizing x code c data with
  | zero => exact emitEvent_flags x code c data
  | succ n ih =>
    exact (foldl_flags (s := x) (emitEvent_flags x code c data) fun t pa g => (ih t 0x0804 0 (aData 0 pa 0)).trans g)

theorem logEvent_flags {s x : State} {a0 a1 a2} (h : Flags s x) : Flags s (logEvent x a0 a1 a2) :=
  (logFuel_flags _ x a0 a1 a2).trans h

theorem putPins_flags {s x : State} {v : Pins} (h : Flags s x) : Flags s (x.putPins v) := h

theorem putPower_flags {s x : State} {v : Power} (h : Flags s x) : Flags s (x.putPower v) := h

theorem putBoot_flags {s x : State} {v : Boot} (h : Flags s x) : Flags s (x.putBoot v) := h

theorem putDev_flags {s x : State} {v : Dev} (h : Flags s x) : Flags s (x.putDev v) := h

theorem putWelt_flags {s x : State} {v : WeltSt} (h : Flags s x) : Flags s (x.putWelt v) := h

theorem putTherm_flags {s x : State} {v : Thermal} (h : Flags s x) : Flags s (x.putTherm v) := h

theorem putHeel_flags {s x : State} {v : HeelSt} (h : Flags s x) : Flags s (x.putHeel v) := h

theorem putLanes_flags {s x : State} {v : Vector Lane 36} (h : Flags s x) : Flags s (x.putLanes v) := h

theorem putLinks_flags {s x : State} {v : Vector Link 8} (h : Flags s x) : Flags s (x.putLinks v) := h

theorem putLast_flags {s x : State} {v : LastSt} (h : Flags s x) : Flags s (x.putLast v) := h

theorem putStore_flags {s x : State} {v : StoreSt} (h : Flags s x) : Flags s (x.putStore v) := h

theorem putWin_flags {s x : State} {v : WinSt} (h : Flags s x) : Flags s (x.putWin v) := h

theorem putTwb_flags {s x : State} {v : TwbSt} (h : Flags s x) : Flags s (x.putTwb v) := h

theorem putImc_flags {s x : State} {v : ImcSt} (h : Flags s x) : Flags s (x.putImc v) := h

theorem putJtag_flags {s x : State} {v : JtagSt} (h : Flags s x) : Flags s (x.putJtag v) := h

theorem putAcc_flags {s x : State} {v : AccSt} (h : Flags s x) : Flags s (x.putAcc v) := h

theorem putWqs_flags {s x : State} {v : Vector Wq 32} (h : Flags s x) : Flags s (x.putWqs v) := h

theorem putCqs_flags {s x : State} {v : Vector Cq 8} (h : Flags s x) : Flags s (x.putCqs v) := h

theorem putUnits_flags {s x : State} {v : Units} (h : Flags s x) : Flags s (x.putUnits v) := h

theorem putSlots_flags {s x : State} {v : Vector Slot 8} (h : Flags s x) : Flags s (x.putSlots v) := h

theorem putSched_flags {s x : State} {v : Sched} (h : Flags s x) : Flags s (x.putSched v) := h

theorem putAwl_flags {s x : State} {v : AwlSt} (h : Flags s x) : Flags s (x.putAwl v) := h

theorem putNvm_flags {s x : State} {v : NvmSt} (h : Flags s x) : Flags s (x.putNvm v) := h

theorem putTm_flags {s x : State} {v : TmSt} (h : Flags s x) : Flags s (x.putTm v) := h

theorem putTime_flags {s x : State} {v : TimeSt} (h : Flags s x) : Flags s (x.putTime v) := h

theorem putCal_flags {s x : State} {v : CalSt} (h : Flags s x) : Flags s (x.putCal v) := h

theorem putFree_flags {s x : State} {v : Nat} (h : Flags s x) : Flags s (x.putFree v) := h

theorem putPending_flags {s x : State} {v : List Instr} (h : Flags s x) : Flags s (x.putPending v) := h

theorem retarget_flags {s x : State} {a0} (h : Flags s x) : Flags s (retarget a0 x) :=
  Flags.of_keeps (fun k hk => retarget_keeps (a0 := a0) hk (k.same_refl x)) (by decide) h

theorem logL_flags {s x : State} {a0 a1 a2 a3} (h : Flags s x) :
    Flags s (logL x a0 a1 a2 a3) := by
  unfold logL
  repeat' first
    | with_reducible assumption
    | with_reducible refine logEvent_flags ?_
    | with_reducible refine ite_flags ?_ ?_
    | with_reducible refine foldl_flags ?_ (fun t a h => ?_)
    | with_reducible rfl
    | dsimp -proj only
    | split

theorem revertUnit_flags {s x : State} {a0 a1} (h : Flags s x) : Flags s (revertUnit x a0 a1) :=
  Flags.of_keeps (fun k hk => revertUnit_keeps (a0 := a0) (a1 := a1) hk (k.same_refl x)) (by decide) h

theorem endRecal_flags {s x : State} (h : Flags s x) : Flags s (endRecal x) :=
  Flags.of_keeps (fun k hk => endRecal_keeps hk (k.same_refl x)) (by decide) h

theorem stopRecal_flags {s x : State} {a0 a1} (h : Flags s x) :
    Flags s (stopRecal x a0 a1) := by
  unfold stopRecal
  repeat' first
    | with_reducible assumption
    | with_reducible refine logL_flags ?_
    | with_reducible refine revertUnit_flags ?_
    | with_reducible refine endRecal_flags ?_
    | with_reducible refine ite_flags ?_ ?_
    | with_reducible refine foldl_flags ?_ (fun t a h => ?_)
    | with_reducible rfl
    | dsimp -proj only
    | split

theorem abortRecal_flags {s x : State} (h : Flags s x) :
    Flags s (abortRecal x) := by
  unfold abortRecal
  repeat' first
    | with_reducible assumption
    | with_reducible refine stopRecal_flags ?_
    | with_reducible refine ite_flags ?_ ?_
    | with_reducible refine foldl_flags ?_ (fun t a h => ?_)
    | with_reducible rfl
    | dsimp -proj only
    | split

theorem setUnit_flags {s x : State} {a0 a1} (h : Flags s x) : Flags s (setUnit x a0 a1) :=
  Flags.of_keeps (fun k hk => setUnit_keeps (a0 := a0) (a1 := a1) hk (k.same_refl x)) (by decide) h

theorem modMeas_flags {s x : State} {a0 a1 a2} (h : Flags s x) : Flags s (modMeas x a0 a1 a2) :=
  Flags.of_keeps (fun k hk => modMeas_keeps (a0 := a0) (a1 := a1) (a2 := a2) hk (k.same_refl x)) (by decide) h

theorem restartHeel_flags {s x : State} (h : Flags s x) :
    Flags s (restartHeel x) := by
  unfold restartHeel
  try dsimp -zeta -proj only [upd_heel_cal]
  repeat' first
    | with_reducible assumption
    | with_reducible refine abortRecal_flags ?_
    | with_reducible refine setUnit_flags ?_
    | with_reducible refine modMeas_flags ?_
    | with_reducible refine putHeel_flags ?_
    | with_reducible refine putCal_flags ?_
    | with_reducible refine ite_flags ?_ ?_
    | with_reducible refine foldl_flags ?_ (fun t a h => ?_)
    | with_reducible rfl
    | dsimp -proj only
    | split

theorem watchAttn_flags {s x : State} (h : Flags s x) : Flags s (watchAttn x) :=
  Flags.of_keeps (fun k hk => watchAttn_keeps hk (k.same_refl x)) (by decide) h

theorem unholdErase_flags {s x : State} (h : Flags s x) : Flags s (unholdErase x) :=
  Flags.of_keeps (fun k hk => unholdErase_keeps hk (k.same_refl x)) (by decide) h

theorem fin_flags {s x : State} (h : Flags s x) :
    Flags s (fin x) := by
  unfold fin
  repeat' first
    | with_reducible assumption
    | with_reducible refine restartHeel_flags ?_
    | with_reducible refine watchAttn_flags ?_
    | with_reducible refine unholdErase_flags ?_
    | with_reducible refine ite_flags ?_ ?_
    | with_reducible refine foldl_flags ?_ (fun t a h => ?_)
    | with_reducible rfl
    | dsimp -proj only
    | split

theorem giveUp_flags {s x : State} {a0 a1} (h : Flags s x) : Flags s (giveUp x a0 a1) :=
  Flags.of_keeps (fun k hk => giveUp_keeps (a0 := a0) (a1 := a1) hk (k.same_refl x)) (by decide) h

theorem logK_flags {s x : State} {a0 a1 a2} (h : Flags s x) :
    Flags s (logK x a0 a1 a2) := by
  unfold logK
  repeat' first
    | with_reducible assumption
    | with_reducible refine logEvent_flags ?_
    | with_reducible refine ite_flags ?_ ?_
    | with_reducible refine foldl_flags ?_ (fun t a h => ?_)
    | with_reducible rfl
    | dsimp -proj only
    | split

theorem modLink_flags {s x : State} {a0 a1} (h : Flags s x) : Flags s (modLink x a0 a1) :=
  Flags.of_keeps (fun k hk => modLink_keeps (a0 := a0) (a1 := a1) hk (k.same_refl x)) (by decide) h

theorem checkDone_flags {s x : State} (h : Flags s x) :
    Flags s (checkDone x) := by
  unfold checkDone
  try dsimp -zeta -proj only [upd_last]
  repeat' first
    | with_reducible assumption
    | with_reducible refine logEvent_flags ?_
    | with_reducible refine putLast_flags ?_
    | with_reducible refine ite_flags ?_ ?_
    | with_reducible refine foldl_flags ?_ (fun t a h => ?_)
    | with_reducible rfl
    | dsimp -proj only
    | split

theorem setResult_flags {s x : State} {a0 a1} (h : Flags s x) :
    Flags s (setResult x a0 a1) := by
  unfold setResult
  try dsimp -zeta -proj only [upd_last]
  repeat' first
    | with_reducible assumption
    | with_reducible refine modLink_flags ?_
    | with_reducible refine checkDone_flags ?_
    | with_reducible refine putLast_flags ?_
    | with_reducible refine ite_flags ?_ ?_
    | with_reducible refine foldl_flags ?_ (fun t a h => ?_)
    | with_reducible rfl
    | dsimp -proj only
    | split

theorem capLoss_flags {s x : State} {a0 a1 a2 a3} (h : Flags s x) : Flags s (capLoss x a0 a1 a2 a3) :=
  Flags.of_keeps (fun k hk => capLoss_keeps (a0 := a0) (a1 := a1) (a2 := a2) (a3 := a3) hk (k.same_refl x)) (by decide) h

theorem logLane_flags {s x : State} {a0 a1 a2 a3 a4} (h : Flags s x) :
    Flags s (logLane x a0 a1 a2 a3 a4) := by
  unfold logLane
  repeat' first
    | with_reducible assumption
    | with_reducible refine logEvent_flags ?_
    | with_reducible refine ite_flags ?_ ?_
    | with_reducible refine foldl_flags ?_ (fun t a h => ?_)
    | with_reducible rfl
    | dsimp -proj only
    | split

theorem noteLoss_flags {s x : State} {a0 a1 a2 a3 a4} (h : Flags s x) :
    Flags s (noteLoss x a0 a1 a2 a3 a4) := by
  unfold noteLoss
  repeat' first
    | with_reducible assumption
    | with_reducible refine capLoss_flags ?_
    | with_reducible refine modLink_flags ?_
    | with_reducible refine logLane_flags ?_
    | with_reducible refine ite_flags ?_ ?_
    | with_reducible refine foldl_flags ?_ (fun t a h => ?_)
    | with_reducible rfl
    | dsimp -proj only
    | split

theorem setLost_flags {s x : State} {a0 a1 a2 a3} (h : Flags s x) : Flags s (setLost x a0 a1 a2 a3) :=
  Flags.of_keeps (fun k hk => setLost_keeps (a0 := a0) (a1 := a1) (a2 := a2) (a3 := a3) hk (k.same_refl x)) (by decide) h

theorem modRx_flags {s x : State} {a0 a1 a2} (h : Flags s x) : Flags s (modRx x a0 a1 a2) :=
  Flags.of_keeps (fun k hk => modRx_keeps (a0 := a0) (a1 := a1) (a2 := a2) hk (k.same_refl x)) (by decide) h

theorem openPos_flags {s x : State} {a0} (h : Flags s x) : Flags s (openPos x a0) :=
  Flags.of_keeps (fun k hk => openPos_keeps (a0 := a0) hk (k.same_refl x)) (by decide) h

theorem modTx_flags {s x : State} {a0 a1 a2} (h : Flags s x) : Flags s (modTx x a0 a1 a2) :=
  Flags.of_keeps (fun k hk => modTx_keeps (a0 := a0) (a1 := a1) (a2 := a2) hk (k.same_refl x)) (by decide) h

theorem endTestJob_flags {s x : State} {a0 a1} (h : Flags s x) : Flags s (endTestJob x a0 a1) :=
  Flags.of_keeps (fun k hk => endTestJob_keeps (a0 := a0) (a1 := a1) hk (k.same_refl x)) (by decide) h

theorem endTests_flags {s x : State} {a0 a1} (h : Flags s x) :
    Flags s (endTests x a0 a1) := by
  unfold endTests
  repeat' first
    | with_reducible assumption
    | with_reducible refine logL_flags ?_
    | with_reducible refine endTestJob_flags ?_
    | with_reducible refine modMeas_flags ?_
    | with_reducible refine ite_flags ?_ ?_
    | with_reducible refine foldl_flags ?_ (fun t a h => ?_)
    | with_reducible rfl
    | dsimp -proj only
    | split

theorem closePos_flags {s x : State} {a0} (h : Flags s x) :
    Flags s (closePos x a0) := by
  unfold closePos
  try dsimp -zeta -proj only [upd_welt]
  repeat' first
    | with_reducible assumption
    | with_reducible refine modTx_flags ?_
    | with_reducible refine modMeas_flags ?_
    | with_reducible refine endTests_flags ?_
    | with_reducible refine putWelt_flags ?_
    | with_reducible refine ite_flags ?_ ?_
    | with_reducible refine foldl_flags ?_ (fun t a h => ?_)
    | with_reducible rfl
    | dsimp -proj only
    | split

theorem settlePos_flags {s x : State} {a0} (h : Flags s x) :
    Flags s (settlePos x a0) := by
  unfold settlePos
  repeat' first
    | with_reducible assumption
    | with_reducible refine openPos_flags ?_
    | with_reducible refine closePos_flags ?_
    | with_reducible refine ite_flags ?_ ?_
    | with_reducible refine foldl_flags ?_ (fun t a h => ?_)
    | with_reducible rfl
    | dsimp -proj only
    | split

theorem settleAll_flags {s x : State} (h : Flags s x) :
    Flags s (settleAll x) := by
  unfold settleAll
  repeat' first
    | with_reducible assumption
    | with_reducible refine settlePos_flags ?_
    | with_reducible refine ite_flags ?_ ?_
    | with_reducible refine foldl_flags ?_ (fun t a h => ?_)
    | with_reducible rfl
    | dsimp -proj only
    | split

theorem refreshSpare_flags {s x : State} {a0 a1 a2} (h : Flags s x) : Flags s (refreshSpare a0 x a1 a2) :=
  Flags.of_keeps (fun k hk => refreshSpare_keeps (a0 := a0) (a1 := a1) (a2 := a2) hk (k.same_refl x)) (by decide) h

theorem dropHolds_flags {s x : State} {a0 a1} (h : Flags s x) : Flags s (dropHolds x a0 a1) :=
  Flags.of_keeps (fun k hk => dropHolds_keeps (a0 := a0) (a1 := a1) hk (k.same_refl x)) (by decide) h

theorem stepEpoch_flags {s x : State} {a0} (h : Flags s x) : Flags s (stepEpoch x a0) :=
  Flags.of_keeps (fun k hk => stepEpoch_keeps (a0 := a0) hk (k.same_refl x)) (by decide) h

theorem moveHold_flags {s x : State} {a0 a1 a2} (h : Flags s x) : Flags s (moveHold a0 a1 a2 x) :=
  Flags.of_keeps (fun k hk => moveHold_keeps (a0 := a0) (a1 := a1) (a2 := a2) hk (k.same_refl x)) (by decide) h

theorem withMasters_flags {s x : State} {a0 a1} (hf : ∀ t, Flags s t → Flags s (a1 t)) (h : Flags s x) :
    Flags s (withMasters x a0 a1) := by
  unfold withMasters
  repeat' first
    | with_reducible assumption
    | with_reducible refine hf _ ?_
    | with_reducible refine moveHold_flags ?_
    | with_reducible refine modLink_flags ?_
    | with_reducible refine ite_flags ?_ ?_
    | with_reducible refine foldl_flags ?_ (fun t a h => ?_)
    | with_reducible rfl
    | dsimp -proj only
    | split

theorem relockPlls_flags {s x : State} {a0} (h : Flags s x) : Flags s (relockPlls x a0) :=
  Flags.of_keeps (fun k hk => relockPlls_keeps (a0 := a0) hk (k.same_refl x)) (by decide) h

theorem takeUp_flags {s x : State} {a0 a1} (h : Flags s x) :
    Flags s (takeUp x a0 a1) := by
  unfold takeUp
  try dsimp -zeta -proj only [upd_last]
  repeat' first
    | with_reducible assumption
    | with_reducible refine settleAll_flags ?_
    | with_reducible refine retarget_flags ?_
    | with_reducible refine refreshSpare_flags ?_
    | with_reducible refine dropHolds_flags ?_
    | with_reducible refine stepEpoch_flags ?_
    | with_reducible refine withMasters_flags (fun t h => ?_) ?_
    | with_reducible refine relockPlls_flags ?_
    | with_reducible refine putLast_flags ?_
    | with_reducible refine ite_flags ?_ ?_
    | with_reducible refine foldl_flags ?_ (fun t a h => ?_)
    | with_reducible rfl
    | dsimp -proj only
    | split

theorem switchLink_flags {s x : State} {a0} (h : Flags s x) :
    Flags s (switchLink x a0) := by
  unfold switchLink
  repeat' first
    | with_reducible assumption
    | with_reducible refine takeUp_flags ?_
    | with_reducible refine ite_flags ?_ ?_
    | with_reducible refine foldl_flags ?_ (fun t a h => ?_)
    | with_reducible rfl
    | dsimp -proj only
    | split

theorem markLost_flags {s x : State} {a0 a1 a2 a3} (h : Flags s x) :
    Flags s (markLost x a0 a1 a2 a3) := by
  unfold markLost
  repeat' first
    | with_reducible assumption
    | with_reducible refine setResult_flags ?_
    | with_reducible refine stopRecal_flags ?_
    | with_reducible refine noteLoss_flags ?_
    | with_reducible refine modLink_flags ?_
    | with_reducible refine setLost_flags ?_
    | with_reducible refine modRx_flags ?_
    | with_reducible refine switchLink_flags ?_
    | with_reducible refine ite_flags ?_ ?_
    | with_reducible refine foldl_flags ?_ (fun t a h => ?_)
    | with_reducible rfl
    | dsimp -proj only
    | split

theorem vacate_flags {s x : State} {a0 a1} (h : Flags s x) : Flags s (vacate x a0 a1) :=
  Flags.of_keeps (fun k hk => vacate_keeps (a0 := a0) (a1 := a1) hk (k.same_refl x)) (by decide) h

theorem turnSwap_flags {s x : State} {a0 a1 a2} (h : Flags s x) : Flags s (turnSwap x a0 a1 a2) :=
  Flags.of_keeps (fun k hk => turnSwap_keeps (a0 := a0) (a1 := a1) (a2 := a2) hk (k.same_refl x)) (by decide) h

theorem badMos_flags {s x : State} {a0} (h : Flags s x) : Flags s (badMos x a0) :=
  Flags.of_keeps (fun k hk => badMos_keeps (a0 := a0) hk (k.same_refl x)) (by decide) h

theorem switchNow_flags {s x : State} {a0} (h : Flags s x) :
    Flags s (switchNow x a0) := by
  unfold switchNow
  repeat' first
    | with_reducible assumption
    | with_reducible refine setResult_flags ?_
    | with_reducible refine switchLink_flags ?_
    | with_reducible refine ite_flags ?_ ?_
    | with_reducible refine foldl_flags ?_ (fun t a h => ?_)
    | with_reducible rfl
    | dsimp -proj only
    | split

theorem endPbl_flags {s x : State} {a0} (h : Flags s x) : Flags s (endPbl x a0) :=
  Flags.of_keeps (fun k hk => endPbl_keeps (a0 := a0) hk (k.same_refl x)) (by decide) h

theorem coolRx_flags {s x : State} {a0 a1 a2} (h : Flags s x) : Flags s (coolRx x a0 a1 a2) :=
  Flags.of_keeps (fun k hk => coolRx_keeps (a0 := a0) (a1 := a1) (a2 := a2) hk (k.same_refl x)) (by decide) h

theorem setSpare_flags {s x : State} {a0 a1 a2 a3} (h : Flags s x) : Flags s (setSpare x a0 a1 a2 a3) :=
  Flags.of_keeps (fun k hk => setSpare_keeps (a0 := a0) (a1 := a1) (a2 := a2) (a3 := a3) hk (k.same_refl x)) (by decide) h

theorem leaveSpare_flags {s x : State} {a0 a1} (h : Flags s x) :
    Flags s (leaveSpare x a0 a1) := by
  unfold leaveSpare
  try dsimp -zeta -proj only [upd_last]
  repeat' first
    | with_reducible assumption
    | with_reducible refine settleAll_flags ?_
    | with_reducible refine modLink_flags ?_
    | with_reducible refine retarget_flags ?_
    | with_reducible refine setSpare_flags ?_
    | with_reducible refine putLast_flags ?_
    | with_reducible refine ite_flags ?_ ?_
    | with_reducible refine foldl_flags ?_ (fun t a h => ?_)
    | with_reducible rfl
    | dsimp -proj only
    | split

theorem restSpare_flags {s x : State} {a0 a1 a2} (h : Flags s x) :
    Flags s (restSpare x a0 a1 a2) := by
  unfold restSpare
  repeat' first
    | with_reducible assumption
    | with_reducible refine coolRx_flags ?_
    | with_reducible refine leaveSpare_flags ?_
    | with_reducible refine setSpare_flags ?_
    | with_reducible refine ite_flags ?_ ?_
    | with_reducible refine foldl_flags ?_ (fun t a h => ?_)
    | with_reducible rfl
    | dsimp -proj only
    | split

theorem dropSwap_flags {s x : State} {a0 a1} (h : Flags s x) : Flags s (dropSwap x a0 a1) :=
  Flags.of_keeps (fun k hk => dropSwap_keeps (a0 := a0) (a1 := a1) hk (k.same_refl x)) (by decide) h

theorem endSwaps_flags {s x : State} {a0} (h : Flags s x) :
    Flags s (endSwaps x a0) := by
  unfold endSwaps
  repeat' first
    | with_reducible assumption
    | with_reducible refine restSpare_flags ?_
    | with_reducible refine modLink_flags ?_
    | with_reducible refine abortRecal_flags ?_
    | with_reducible refine dropSwap_flags ?_
    | with_reducible refine ite_flags ?_ ?_
    | with_reducible refine foldl_flags ?_ (fun t a h => ?_)
    | with_reducible rfl
    | dsimp -proj only
    | split

theorem endSearches_flags {s x : State} {a0} (h : Flags s x) : Flags s (endSearches x a0) :=
  Flags.of_keeps (fun k hk => endSearches_keeps (a0 := a0) hk (k.same_refl x)) (by decide) h

theorem dropMos_flags {s x : State} {a0 a1} (h : Flags s x) : Flags s (dropMos x a0 a1) :=
  Flags.of_keeps (fun k hk => dropMos_keeps (a0 := a0) (a1 := a1) hk (k.same_refl x)) (by decide) h

theorem allReset_flags {s x : State} {a0} (h : Flags s x) : Flags s (allReset x a0) :=
  Flags.of_keeps (fun k hk => allReset_keeps (a0 := a0) hk (k.same_refl x)) (by decide) h

theorem leaveDisabled_flags {s x : State} {a0} (h : Flags s x) :
    Flags s (leaveDisabled x a0) := by
  unfold leaveDisabled
  repeat' first
    | with_reducible assumption
    | with_reducible refine endTests_flags ?_
    | with_reducible refine ite_flags ?_ ?_
    | with_reducible refine foldl_flags ?_ (fun t a h => ?_)
    | with_reducible rfl
    | dsimp -proj only
    | split

theorem dropLink_flags {s x : State} {a0} (h : Flags s x) :
    Flags s (dropLink x a0) := by
  unfold dropLink
  repeat' first
    | with_reducible assumption
    | with_reducible refine modLink_flags ?_
    | with_reducible refine endPbl_flags ?_
    | with_reducible refine endSwaps_flags ?_
    | with_reducible refine endSearches_flags ?_
    | with_reducible refine dropMos_flags ?_
    | with_reducible refine allReset_flags ?_
    | with_reducible refine leaveDisabled_flags ?_
    | with_reducible refine withMasters_flags (fun t h => ?_) ?_
    | with_reducible refine ite_flags ?_ ?_
    | with_reducible refine foldl_flags ?_ (fun t a h => ?_)
    | with_reducible rfl
    | dsimp -proj only
    | split

theorem standAside_flags {s x : State} {a0} (h : Flags s x) :
    Flags s (standAside x a0) := by
  unfold standAside
  repeat' first
    | with_reducible assumption
    | with_reducible refine switchNow_flags ?_
    | with_reducible refine settleAll_flags ?_
    | with_reducible refine modLink_flags ?_
    | with_reducible refine dropLink_flags ?_
    | with_reducible refine ite_flags ?_ ?_
    | with_reducible refine foldl_flags ?_ (fun t a h => ?_)
    | with_reducible rfl
    | dsimp -proj only
    | split

theorem partAside_flags {s x : State} {a0 a1} (h : Flags s x) :
    Flags s (partAside x a0 a1) := by
  unfold partAside
  repeat' first
    | with_reducible assumption
    | with_reducible refine settleAll_flags ?_
    | with_reducible refine modLink_flags ?_
    | with_reducible refine logK_flags ?_
    | with_reducible refine standAside_flags ?_
    | with_reducible refine ite_flags ?_ ?_
    | with_reducible refine foldl_flags ?_ (fun t a h => ?_)
    | with_reducible rfl
    | dsimp -proj only
    | split

theorem abandonSwap_flags {s x : State} {a0} (h : Flags s x) :
    Flags s (abandonSwap x a0) := by
  unfold abandonSwap
  repeat' first
    | with_reducible assumption
    | with_reducible refine restSpare_flags ?_
    | with_reducible refine dropSwap_flags ?_
    | with_reducible refine setSpare_flags ?_
    | with_reducible refine ite_flags ?_ ?_
    | with_reducible refine foldl_flags ?_ (fun t a h => ?_)
    | with_reducible rfl
    | dsimp -proj only
    | split

theorem enterRetrain_flags {s x : State} {a0} (h : Flags s x) :
    Flags s (enterRetrain x a0) := by
  unfold enterRetrain
  repeat' first
    | with_reducible assumption
    | with_reducible refine setResult_flags ?_
    | with_reducible refine abandonSwap_flags ?_
    | with_reducible refine modLink_flags ?_
    | with_reducible refine endPbl_flags ?_
    | with_reducible refine dropMos_flags ?_
    | with_reducible refine switchLink_flags ?_
    | with_reducible refine ite_flags ?_ ?_
    | with_reducible refine foldl_flags ?_ (fun t a h => ?_)
    | with_reducible rfl
    | dsimp -proj only
    | split

theorem sendOwn_flags {s x : State} {a0 a1 a2 a3} (h : Flags s x) : Flags s (sendOwn x a0 a1 a2 a3) :=
  Flags.of_keeps (fun k hk => sendOwn_keeps (a0 := a0) (a1 := a1) (a2 := a2) (a3 := a3) hk (k.same_refl x)) (by decide) h

theorem requestRetrain_flags {s x : State} {a0} (h : Flags s x) :
    Flags s (requestRetrain x a0) := by
  unfold requestRetrain
  repeat' first
    | with_reducible assumption
    | with_reducible refine modLink_flags ?_
    | with_reducible refine enterRetrain_flags ?_
    | with_reducible refine sendOwn_flags ?_
    | with_reducible refine ite_flags ?_ ?_
    | with_reducible refine foldl_flags ?_ (fun t a h => ?_)
    | with_reducible rfl
    | dsimp -proj only
    | split

theorem setUnrecovered_flags {s x : State} {a0 a1} (h : Flags s x) :
    Flags s (setUnrecovered x a0 a1) := by
  unfold setUnrecovered
  repeat' first
    | with_reducible assumption
    | with_reducible refine modLink_flags ?_
    | with_reducible refine logK_flags ?_
    | with_reducible refine ite_flags ?_ ?_
    | with_reducible refine foldl_flags ?_ (fun t a h => ?_)
    | with_reducible rfl
    | dsimp -proj only
    | split

theorem abandonPlanned_flags {s x : State} {a0 a1} (h : Flags s x) :
    Flags s (abandonPlanned x a0 a1) := by
  unfold abandonPlanned
  repeat' first
    | with_reducible assumption
    | with_reducible refine restSpare_flags ?_
    | with_reducible refine dropSwap_flags ?_
    | with_reducible refine giveUp_flags ?_
    | with_reducible refine ite_flags ?_ ?_
    | with_reducible refine foldl_flags ?_ (fun t a h => ?_)
    | with_reducible rfl
    | dsimp -proj only
    | split

theorem lossDown_flags {s x : State} {a0} (h : Flags s x) :
    Flags s (lossDown x a0) := by
  unfold lossDown
  repeat' first
    | with_reducible assumption
    | with_reducible refine modLink_flags ?_
    | with_reducible refine logK_flags ?_
    | with_reducible refine partAside_flags ?_
    | with_reducible refine setUnrecovered_flags ?_
    | with_reducible refine ite_flags ?_ ?_
    | with_reducible refine foldl_flags ?_ (fun t a h => ?_)
    | with_reducible rfl
    | dsimp -proj only
    | split

theorem lossDegrade_flags {s x : State} {a0} (h : Flags s x) :
    Flags s (lossDegrade x a0) := by
  unfold lossDegrade
  repeat' first
    | with_reducible assumption
    | with_reducible refine modLink_flags ?_
    | with_reducible refine lossDown_flags ?_
    | with_reducible refine requestRetrain_flags ?_
    | with_reducible refine ite_flags ?_ ?_
    | with_reducible refine foldl_flags ?_ (fun t a h => ?_)
    | with_reducible rfl
    | dsimp -proj only
    | split

theorem spareFallback_flags {s x : State} {a0 a1 a2} (h : Flags s x) :
    Flags s (spareFallback x a0 a1 a2) := by
  unfold spareFallback
  repeat' first
    | with_reducible assumption
    | with_reducible refine lossDegrade_flags ?_
    | with_reducible refine logLane_flags ?_
    | with_reducible refine ite_flags ?_ ?_
    | with_reducible refine foldl_flags ?_ (fun t a h => ?_)
    | with_reducible rfl
    | dsimp -proj only
    | split

theorem setSwapResult_flags {s x : State} {a0 a1} (h : Flags s x) : Flags s (setSwapResult x a0 a1) :=
  Flags.of_keeps (fun k hk => setSwapResult_keeps (a0 := a0) (a1 := a1) hk (k.same_refl x)) (by decide) h

theorem beginSwap_flags {s x : State} {a0 a1 a2 a3 a4 a5} (h : Flags s x) : Flags s (beginSwap x a0 a1 a2 a3 a4 a5) :=
  Flags.of_keeps (fun k hk => beginSwap_keeps (a0 := a0) (a1 := a1) (a2 := a2) (a3 := a3) (a4 := a4) (a5 := a5) hk (k.same_refl x)) (by decide) h

theorem lossSpare_flags {s x : State} {a0 a1 a2} (h : Flags s x) :
    Flags s (lossSpare x a0 a1 a2) := by
  unfold lossSpare
  repeat' first
    | with_reducible assumption
    | with_reducible refine stopRecal_flags ?_
    | with_reducible refine spareFallback_flags ?_
    | with_reducible refine modLink_flags ?_
    | with_reducible refine setSwapResult_flags ?_
    | with_reducible refine beginSwap_flags ?_
    | with_reducible refine ite_flags ?_ ?_
    | with_reducible refine foldl_flags ?_ (fun t a h => ?_)
    | with_reducible rfl
    | dsimp -proj only
    | split

theorem policySpare_flags {s x : State} {a0 a1 a2} (h : Flags s x) :
    Flags s (policySpare x a0 a1 a2) := by
  unfold policySpare
  repeat' first
    | with_reducible assumption
    | with_reducible refine abandonPlanned_flags ?_
    | with_reducible refine modLink_flags ?_
    | with_reducible refine lossSpare_flags ?_
    | with_reducible refine ite_flags ?_ ?_
    | with_reducible refine foldl_flags ?_ (fun t a h => ?_)
    | with_reducible rfl
    | dsimp -proj only
    | split

theorem lossPolicy_flags {s x : State} {a0 a1 a2} (h : Flags s x) :
    Flags s (lossPolicy x a0 a1 a2) := by
  unfold lossPolicy
  repeat' first
    | with_reducible assumption
    | with_reducible refine policySpare_flags ?_
    | with_reducible refine lossDegrade_flags ?_
    | with_reducible refine lossDown_flags ?_
    | with_reducible refine ite_flags ?_ ?_
    | with_reducible refine foldl_flags ?_ (fun t a h => ?_)
    | with_reducible rfl
    | dsimp -proj only
    | split

theorem afterLoss_flags {s x : State} {a0 a1 a2} (h : Flags s x) :
    Flags s (afterLoss x a0 a1 a2) := by
  unfold afterLoss
  repeat' first
    | with_reducible assumption
    | with_reducible refine turnSwap_flags ?_
    | with_reducible refine lossPolicy_flags ?_
    | with_reducible refine enterRetrain_flags ?_
    | with_reducible refine requestRetrain_flags ?_
    | with_reducible refine ite_flags ?_ ?_
    | with_reducible refine foldl_flags ?_ (fun t a h => ?_)
    | with_reducible rfl
    | dsimp -proj only
    | split

theorem moveEditLane_flags {s x : State} {a0 a1} (h : Flags s x) :
    Flags s (moveEditLane x a0 a1) := by
  unfold moveEditLane
  repeat' first
    | with_reducible assumption
    | with_reducible refine modLink_flags ?_
    | with_reducible refine logLane_flags ?_
    | with_reducible refine ite_flags ?_ ?_
    | with_reducible refine foldl_flags ?_ (fun t a h => ?_)
    | with_reducible rfl
    | dsimp -proj only
    | split

theorem afterLosses_flags {s x : State} {a0 a1 a2} (h : Flags s x) :
    Flags s (afterLosses x a0 a1 a2) := by
  unfold afterLosses
  repeat' first
    | with_reducible assumption
    | with_reducible refine afterLoss_flags ?_
    | with_reducible refine moveEditLane_flags ?_
    | with_reducible refine ite_flags ?_ ?_
    | with_reducible refine foldl_flags ?_ (fun t a h => ?_)
    | with_reducible rfl
    | dsimp -proj only
    | split

theorem serveWaiting_flags {s x : State} {a0} (h : Flags s x) :
    Flags s (serveWaiting x a0) := by
  unfold serveWaiting
  repeat' first
    | with_reducible assumption
    | with_reducible refine modLink_flags ?_
    | with_reducible refine lossSpare_flags ?_
    | with_reducible refine ite_flags ?_ ?_
    | with_reducible refine foldl_flags ?_ (fun t a h => ?_)
    | with_reducible rfl
    | dsimp -proj only
    | split

theorem sendSpare_flags {s x : State} {a0 a1 a2 a3} (h : Flags s x) : Flags s (sendSpare x a0 a1 a2 a3) :=
  Flags.of_keeps (fun k hk => sendSpare_keeps (a0 := a0) (a1 := a1) (a2 := a2) (a3 := a3) hk (k.same_refl x)) (by decide) h

theorem logSwap_flags {s x : State} {a0 a1 a2 a3} (h : Flags s x) :
    Flags s (logSwap x a0 a1 a2 a3) := by
  unfold logSwap
  repeat' first
    | with_reducible assumption
    | with_reducible refine logLane_flags ?_
    | with_reducible refine ite_flags ?_ ?_
    | with_reducible refine foldl_flags ?_ (fun t a h => ?_)
    | with_reducible rfl
    | dsimp -proj only
    | split

theorem failSwap_flags {s x : State} {a0 a1 a2 a3} (h : Flags s x) :
    Flags s (failSwap x a0 a1 a2 a3) := by
  unfold failSwap
  try dsimp -zeta -proj only [upd_cal]
  repeat' first
    | with_reducible assumption
    | with_reducible refine restSpare_flags ?_
    | with_reducible refine spareFallback_flags ?_
    | with_reducible refine vacate_flags ?_
    | with_reducible refine modLink_flags ?_
    | with_reducible refine serveWaiting_flags ?_
    | with_reducible refine leaveSpare_flags ?_
    | with_reducible refine setSwapResult_flags ?_
    | with_reducible refine giveUp_flags ?_
    | with_reducible refine sendSpare_flags ?_
    | with_reducible refine logSwap_flags ?_
    | with_reducible refine setSpare_flags ?_
    | with_reducible refine putCal_flags ?_
    | with_reducible refine ite_flags ?_ ?_
    | with_reducible refine foldl_flags ?_ (fun t a h => ?_)
    | with_reducible rfl
    | dsimp -proj only
    | split

theorem loadPrograms_flags {s x : State} (h : Flags s x) : Flags s (loadPrograms x) :=
  Flags.of_keeps (fun k hk => loadPrograms_keeps hk (k.same_refl x)) (by decide) h

theorem startState_flags {s x : State} {a0} (h : Flags s x) : Flags s (startState x a0) :=
  Flags.of_keeps (fun k hk => startState_keeps (a0 := a0) hk (k.same_refl x)) (by decide) h

theorem forceLink_flags {s x : State} {a0} (h : Flags s x) :
    Flags s (forceLink x a0) := by
  unfold forceLink
  repeat' first
    | with_reducible assumption
    | with_reducible refine switchNow_flags ?_
    | with_reducible refine setResult_flags ?_
    | with_reducible refine modLink_flags ?_
    | with_reducible refine dropLink_flags ?_
    | with_reducible refine ite_flags ?_ ?_
    | with_reducible refine foldl_flags ?_ (fun t a h => ?_)
    | with_reducible rfl
    | dsimp -proj only
    | split

theorem restartLink_flags {s x : State} {a0} (h : Flags s x) : Flags s (restartLink x a0) :=
  Flags.of_keeps (fun k hk => restartLink_keeps (a0 := a0) hk (k.same_refl x)) (by decide) h

theorem settle_flags {s x : State} (h : Flags s x) :
    Flags s (settle x) := by
  unfold settle
  repeat' first
    | with_reducible assumption
    | with_reducible refine settleAll_flags ?_
    | with_reducible refine forceLink_flags ?_
    | with_reducible refine restartLink_flags ?_
    | with_reducible refine ite_flags ?_ ?_
    | with_reducible refine foldl_flags ?_ (fun t a h => ?_)
    | with_reducible rfl
    | dsimp -proj only
    | split

theorem writeAside_flags {s x : State} {a0 a1} (h : Flags s x) :
    Flags s (writeAside x a0 a1) := by
  unfold writeAside
  repeat' first
    | with_reducible assumption
    | with_reducible refine startState_flags ?_
    | with_reducible refine settle_flags ?_
    | with_reducible refine modLink_flags ?_
    | with_reducible refine standAside_flags ?_
    | with_reducible refine ite_flags ?_ ?_
    | with_reducible refine foldl_flags ?_ (fun t a h => ?_)
    | with_reducible rfl
    | dsimp -proj only
    | split

theorem forwardLost_flags {s x : State} {a0 a1 a2 a3} (h : Flags s x) :
    Flags s (forwardLost x a0 a1 a2 a3) := by
  unfold forwardLost
  repeat' first
    | with_reducible assumption
    | with_reducible refine noteLoss_flags ?_
    | with_reducible refine modRx_flags ?_
    | with_reducible refine setSpare_flags ?_
    | with_reducible refine ite_flags ?_ ?_
    | with_reducible refine foldl_flags ?_ (fun t a h => ?_)
    | with_reducible rfl
    | dsimp -proj only
    | split

theorem switchWaiting_flags {s x : State} {a0} (h : Flags s x) :
    Flags s (switchWaiting x a0) := by
  unfold switchWaiting
  repeat' first
    | with_reducible assumption
    | with_reducible refine switchNow_flags ?_
    | with_reducible refine ite_flags ?_ ?_
    | with_reducible refine foldl_flags ?_ (fun t a h => ?_)
    | with_reducible rfl
    | dsimp -proj only
    | split

theorem enterDisabled_flags {s x : State} {a0} (h : Flags s x) :
    Flags s (enterDisabled x a0) := by
  unfold enterDisabled
  repeat' first
    | with_reducible assumption
    | with_reducible refine switchWaiting_flags ?_
    | with_reducible refine modLink_flags ?_
    | with_reducible refine dropLink_flags ?_
    | with_reducible refine ite_flags ?_ ?_
    | with_reducible refine foldl_flags ?_ (fun t a h => ?_)
    | with_reducible rfl
    | dsimp -proj only
    | split

theorem enterDetect_flags {s x : State} {a0 a1} (h : Flags s x) :
    Flags s (enterDetect x a0 a1) := by
  unfold enterDetect
  repeat' first
    | with_reducible assumption
    | with_reducible refine enterDisabled_flags ?_
    | with_reducible refine switchWaiting_flags ?_
    | with_reducible refine modLink_flags ?_
    | with_reducible refine partAside_flags ?_
    | with_reducible refine dropLink_flags ?_
    | with_reducible refine ite_flags ?_ ?_
    | with_reducible refine foldl_flags ?_ (fun t a h => ?_)
    | with_reducible rfl
    | dsimp -proj only
    | split

theorem homeStandins_flags {s x : State} (h : Flags s x) : Flags s (homeStandins x) :=
  Flags.of_keeps (fun k hk => homeStandins_keeps hk (k.same_refl x)) (by decide) h

theorem checkRecovered_flags {s x : State} {a0} (h : Flags s x) : Flags s (checkRecovered x a0) :=
  Flags.of_keeps (fun k hk => checkRecovered_keeps (a0 := a0) hk (k.same_refl x)) (by decide) h

theorem enterActive_flags {s x : State} {a0} (h : Flags s x) :
    Flags s (enterActive x a0) := by
  unfold enterActive
  repeat' first
    | with_reducible assumption
    | with_reducible refine setResult_flags ?_
    | with_reducible refine modLink_flags ?_
    | with_reducible refine checkRecovered_flags ?_
    | with_reducible refine ite_flags ?_ ?_
    | with_reducible refine foldl_flags ?_ (fun t a h => ?_)
    | with_reducible rfl
    | dsimp -proj only
    | split

theorem declareLost_flags {s x : State} {a0 a1 a2 a3} (h : Flags s x) :
    Flags s (declareLost x a0 a1 a2 a3) := by
  unfold declareLost
  repeat' first
    | with_reducible assumption
    | with_reducible refine markLost_flags ?_
    | with_reducible refine afterLosses_flags ?_
    | with_reducible refine ite_flags ?_ ?_
    | with_reducible refine foldl_flags ?_ (fun t a h => ?_)
    | with_reducible rfl
    | dsimp -proj only
    | split

theorem followStandin_flags {s x : State} (h : Flags s x) : Flags s (followStandin x) :=
  Flags.of_keeps (fun k hk => followStandin_keeps hk (k.same_refl x)) (by decide) h

theorem clockLost_flags {s x : State} {a0 a1} (h : Flags s x) :
    Flags s (clockLost x a0 a1) := by
  unfold clockLost
  repeat' first
    | with_reducible assumption
    | with_reducible refine forwardLost_flags ?_
    | with_reducible refine markLost_flags ?_
    | with_reducible refine afterLosses_flags ?_
    | with_reducible refine ite_flags ?_ ?_
    | with_reducible refine foldl_flags ?_ (fun t a h => ?_)
    | with_reducible rfl
    | dsimp -proj only
    | split

theorem pllLost_flags {s x : State} {a0} (h : Flags s x) :
    Flags s (pllLost x a0) := by
  unfold pllLost
  repeat' first
    | with_reducible assumption
    | with_reducible refine clockLost_flags ?_
    | with_reducible refine ite_flags ?_ ?_
    | with_reducible refine foldl_flags ?_ (fun t a h => ?_)
    | with_reducible rfl
    | dsimp -proj only
    | split

theorem writeDisable_flags {s x : State} {a0 a1} (h : Flags s x) :
    Flags s (writeDisable x a0 a1) := by
  unfold writeDisable
  repeat' first
    | with_reducible assumption
    | with_reducible refine enterDisabled_flags ?_
    | with_reducible refine modLink_flags ?_
    | with_reducible refine enterDetect_flags ?_
    | with_reducible refine ite_flags ?_ ?_
    | with_reducible refine foldl_flags ?_ (fun t a h => ?_)
    | with_reducible rfl
    | dsimp -proj only
    | split

theorem startJoin_flags {s x : State} {a0} (h : Flags s x) :
    Flags s (startJoin x a0) := by
  unfold startJoin
  repeat' first
    | with_reducible assumption
    | with_reducible refine settle_flags ?_
    | with_reducible refine modLink_flags ?_
    | with_reducible refine ite_flags ?_ ?_
    | with_reducible refine foldl_flags ?_ (fun t a h => ?_)
    | with_reducible rfl
    | dsimp -proj only
    | split

end Sys2Proof.Machine
end

