-- ==== Sys2Proof/Laws/Logs.lean ====
section
/-! SUPPORT. The queue of event records for the NVM log only grows: what an operation logs, what follows it leaves logged. -/

namespace Sys2Proof.Machine

/-- Records have joined the log's queue, if any; none has left it. -/
def Logs (s t : State) : Prop := ∃ more, t.nvm.logWait = s.nvm.logWait ++ more

theorem Logs.refl (s : State) : Logs s s := ⟨[], (List.append_nil _).symm⟩

theorem Logs.of_nvm {s x y : State} (g : y.nvm = x.nvm) (h : Logs s x) : Logs s y := by
  unfold Logs
  rw [g]
  exact h

theorem Logs.of_keeps {s x y : State} {l : List Comp} (g : ∀ k : Comp, k ∉ l → k.same x y) (d : Comp.nvm ∉ l)
    (h : Logs s x) : Logs s y := Logs.of_nvm (g .nvm d) h

theorem ite_logs {s a b : State} {c : Prop} {_ : Decidable c} (ha : Logs s a) (hb : Logs s b) :
    Logs s (if c then a else b) := by
  split
  · exact ha
  · exact hb

theorem foldl_logs {α : Type} {s x : State} {f : State → α → State} {l : List α} (h : Logs s x)
    (hf : ∀ t a, Logs s t → Logs s (f t a)) : Logs s (l.foldl f x) := by
  induction l generalizing x with
  | nil => exact h
  | cons a r ih => exact ih (hf x a h)

theorem getD_logs {s d : State} {o : Option State} (ho : ∀ u, o = some u → Logs s u) (hd : Logs s d) :
    Logs s (o.getD d) := by
  cases o with
  | none => exact hd
  | some u => exact ho u rfl

theorem Logs.trans {s t u : State} (h : Logs s t) (g : Logs t u) : Logs s u := by
  obtain ⟨a, h⟩ := h
  obtain ⟨b, g⟩ := g
  exact ⟨a ++ b, by rw [g, h, List.append_assoc]⟩

theorem logEvent_logs {s x : State} {a0 a1 a2} (h : Logs s x) : Logs s (logEvent x a0 a1 a2) := by
  obtain ⟨m, e⟩ := logFuel_logWait (x.store.poison.length + 1) x a0 a1 a2
  exact h.trans ⟨_, e⟩

theorem putPins_logs {s x : State} {v : Pins} (h : Logs s x) : Logs s (x.putPins v) := h

theorem putPower_logs {s x : State} {v : Power} (h : Logs s x) : Logs s (x.putPower v) := h

theorem putBoot_logs {s x : State} {v : Boot} (h : Logs s x) : Logs s (x.putBoot v) := h

theorem putDev_logs {s x : State} {v : Dev} (h : Logs s x) : Logs s (x.putDev v) := h

theorem putWelt_logs {s x : State} {v : WeltSt} (h : Logs s x) : Logs s (x.putWelt v) := h

theorem putTherm_logs {s x : State} {v : Thermal} (h : Logs s x) : Logs s (x.putTherm v) := h

theorem putEvt_logs {s x : State} {v : EvtSt} (h : Logs s x) : Logs s (x.putEvt v) := h

theorem putHeel_logs {s x : State} {v : HeelSt} (h : Logs s x) : Logs s (x.putHeel v) := h

theorem putLanes_logs {s x : State} {v : Vector Lane 36} (h : Logs s x) : Logs s (x.putLanes v) := h

theorem putLinks_logs {s x : State} {v : Vector Link 8} (h : Logs s x) : Logs s (x.putLinks v) := h

theorem putLast_logs {s x : State} {v : LastSt} (h : Logs s x) : Logs s (x.putLast v) := h

theorem putStore_logs {s x : State} {v : StoreSt} (h : Logs s x) : Logs s (x.putStore v) := h

theorem putWin_logs {s x : State} {v : WinSt} (h : Logs s x) : Logs s (x.putWin v) := h

theorem putTwb_logs {s x : State} {v : TwbSt} (h : Logs s x) : Logs s (x.putTwb v) := h

theorem putImc_logs {s x : State} {v : ImcSt} (h : Logs s x) : Logs s (x.putImc v) := h

theorem putJtag_logs {s x : State} {v : JtagSt} (h : Logs s x) : Logs s (x.putJtag v) := h

theorem putAcc_logs {s x : State} {v : AccSt} (h : Logs s x) : Logs s (x.putAcc v) := h

theorem putWqs_logs {s x : State} {v : Vector Wq 32} (h : Logs s x) : Logs s (x.putWqs v) := h

theorem putCqs_logs {s x : State} {v : Vector Cq 8} (h : Logs s x) : Logs s (x.putCqs v) := h

theorem putUnits_logs {s x : State} {v : Units} (h : Logs s x) : Logs s (x.putUnits v) := h

theorem putSlots_logs {s x : State} {v : Vector Slot 8} (h : Logs s x) : Logs s (x.putSlots v) := h

theorem putSched_logs {s x : State} {v : Sched} (h : Logs s x) : Logs s (x.putSched v) := h

theorem putAwl_logs {s x : State} {v : AwlSt} (h : Logs s x) : Logs s (x.putAwl v) := h

theorem putTm_logs {s x : State} {v : TmSt} (h : Logs s x) : Logs s (x.putTm v) := h

theorem putTime_logs {s x : State} {v : TimeSt} (h : Logs s x) : Logs s (x.putTime v) := h

theorem putCal_logs {s x : State} {v : CalSt} (h : Logs s x) : Logs s (x.putCal v) := h

theorem putFree_logs {s x : State} {v : Nat} (h : Logs s x) : Logs s (x.putFree v) := h

theorem putPending_logs {s x : State} {v : List Instr} (h : Logs s x) : Logs s (x.putPending v) := h

theorem retarget_logs {s x : State} {a0} (h : Logs s x) : Logs s (retarget a0 x) :=
  Logs.of_keeps (fun k hk => retarget_keeps (a0 := a0) hk (k.same_refl x)) (by decide) h

theorem logL_logs {s x : State} {a0 a1 a2 a3} (h : Logs s x) :
    Logs s (logL x a0 a1 a2 a3) := by
  unfold logL
  repeat' first
    | with_reducible assumption
    | with_reducible refine logEvent_logs ?_
    | with_reducible refine ite_logs ?_ ?_
    | with_reducible refine foldl_logs ?_ (fun t a h => ?_)
    | with_reducible rfl
    | dsimp -proj only
    | split

theorem revertUnit_logs {s x : State} {a0 a1} (h : Logs s x) : Logs s (revertUnit x a0 a1) :=
  Logs.of_keeps (fun k hk => revertUnit_keeps (a0 := a0) (a1 := a1) hk (k.same_refl x)) (by decide) h

theorem endRecal_logs {s x : State} (h : Logs s x) : Logs s (endRecal x) :=
  Logs.of_keeps (fun k hk => endRecal_keeps hk (k.same_refl x)) (by decide) h

theorem stopRecal_logs {s x : State} {a0 a1} (h : Logs s x) :
    Logs s (stopRecal x a0 a1) := by
  unfold stopRecal
  repeat' first
    | with_reducible assumption
    | with_reducible refine logL_logs ?_
    | with_reducible refine revertUnit_logs ?_
    | with_reducible refine endRecal_logs ?_
    | with_reducible refine ite_logs ?_ ?_
    | with_reducible refine foldl_logs ?_ (fun t a h => ?_)
    | with_reducible rfl
    | dsimp -proj only
    | split

theorem abortRecal_logs {s x : State} (h : Logs s x) :
    Logs s (abortRecal x) := by
  unfold abortRecal
  repeat' first
    | with_reducible assumption
    | with_reducible refine stopRecal_logs ?_
    | with_reducible refine ite_logs ?_ ?_
    | with_reducible refine foldl_logs ?_ (fun t a h => ?_)
    | with_reducible rfl
    | dsimp -proj only
    | split

theorem setUnit_logs {s x : State} {a0 a1} (h : Logs s x) : Logs s (setUnit x a0 a1) :=
  Logs.of_keeps (fun k hk => setUnit_keeps (a0 := a0) (a1 := a1) hk (k.same_refl x)) (by decide) h

theorem modMeas_logs {s x : State} {a0 a1 a2} (h : Logs s x) : Logs s (modMeas x a0 a1 a2) :=
  Logs.of_keeps (fun k hk => modMeas_keeps (a0 := a0) (a1 := a1) (a2 := a2) hk (k.same_refl x)) (by decide) h

theorem restartHeel_logs {s x : State} (h : Logs s x) :
    Logs s (restartHeel x) := by
  unfold restartHeel
  try dsimp -zeta -proj only [upd_heel_cal]
  repeat' first
    | with_reducible assumption
    | with_reducible refine abortRecal_logs ?_
    | with_reducible refine setUnit_logs ?_
    | with_reducible refine modMeas_logs ?_
    | with_reducible refine putHeel_logs ?_
    | with_reducible refine putCal_logs ?_
    | with_reducible refine ite_logs ?_ ?_
    | with_reducible refine foldl_logs ?_ (fun t a h => ?_)
    | with_reducible rfl
    | dsimp -proj only
    | split

theorem watchAttn_logs {s x : State} (h : Logs s x) : Logs s (watchAttn x) :=
  Logs.of_keeps (fun k hk => watchAttn_keeps hk (k.same_refl x)) (by decide) h

theorem unholdErase_logs {s x : State} (h : Logs s x) : Logs s (unholdErase x) :=
  Logs.of_keeps (fun k hk => unholdErase_keeps hk (k.same_refl x)) (by decide) h

theorem fin_logs {s x : State} (h : Logs s x) :
    Logs s (fin x) := by
  unfold fin
  repeat' first
    | with_reducible assumption
    | with_reducible refine restartHeel_logs ?_
    | with_reducible refine watchAttn_logs ?_
    | with_reducible refine unholdErase_logs ?_
    | with_reducible refine ite_logs ?_ ?_
    | with_reducible refine foldl_logs ?_ (fun t a h => ?_)
    | with_reducible rfl
    | dsimp -proj only
    | split

theorem giveUp_logs {s x : State} {a0 a1} (h : Logs s x) : Logs s (giveUp x a0 a1) :=
  Logs.of_keeps (fun k hk => giveUp_keeps (a0 := a0) (a1 := a1) hk (k.same_refl x)) (by decide) h

theorem logK_logs {s x : State} {a0 a1 a2} (h : Logs s x) :
    Logs s (logK x a0 a1 a2) := by
  unfold logK
  repeat' first
    | with_reducible assumption
    | with_reducible refine logEvent_logs ?_
    | with_reducible refine ite_logs ?_ ?_
    | with_reducible refine foldl_logs ?_ (fun t a h => ?_)
    | with_reducible rfl
    | dsimp -proj only
    | split

theorem modLink_logs {s x : State} {a0 a1} (h : Logs s x) : Logs s (modLink x a0 a1) :=
  Logs.of_keeps (fun k hk => modLink_keeps (a0 := a0) (a1 := a1) hk (k.same_refl x)) (by decide) h

theorem checkDone_logs {s x : State} (h : Logs s x) :
    Logs s (checkDone x) := by
  unfold checkDone
  try dsimp -zeta -proj only [upd_last]
  repeat' first
    | with_reducible assumption
    | with_reducible refine logEvent_logs ?_
    | with_reducible refine putLast_logs ?_
    | with_reducible refine ite_logs ?_ ?_
    | with_reducible refine foldl_logs ?_ (fun t a h => ?_)
    | with_reducible rfl
    | dsimp -proj only
    | split

theorem setResult_logs {s x : State} {a0 a1} (h : Logs s x) :
    Logs s (setResult x a0 a1) := by
  unfold setResult
  try dsimp -zeta -proj only [upd_last]
  repeat' first
    | with_reducible assumption
    | with_reducible refine modLink_logs ?_
    | with_reducible refine checkDone_logs ?_
    | with_reducible refine putLast_logs ?_
    | with_reducible refine ite_logs ?_ ?_
    | with_reducible refine foldl_logs ?_ (fun t a h => ?_)
    | with_reducible rfl
    | dsimp -proj only
    | split

theorem capLoss_logs {s x : State} {a0 a1 a2 a3} (h : Logs s x) : Logs s (capLoss x a0 a1 a2 a3) :=
  Logs.of_keeps (fun k hk => capLoss_keeps (a0 := a0) (a1 := a1) (a2 := a2) (a3 := a3) hk (k.same_refl x)) (by decide) h

theorem logLane_logs {s x : State} {a0 a1 a2 a3 a4} (h : Logs s x) :
    Logs s (logLane x a0 a1 a2 a3 a4) := by
  unfold logLane
  repeat' first
    | with_reducible assumption
    | with_reducible refine logEvent_logs ?_
    | with_reducible refine ite_logs ?_ ?_
    | with_reducible refine foldl_logs ?_ (fun t a h => ?_)
    | with_reducible rfl
    | dsimp -proj only
    | split

theorem noteLoss_logs {s x : State} {a0 a1 a2 a3 a4} (h : Logs s x) :
    Logs s (noteLoss x a0 a1 a2 a3 a4) := by
  unfold noteLoss
  repeat' first
    | with_reducible assumption
    | with_reducible refine capLoss_logs ?_
    | with_reducible refine modLink_logs ?_
    | with_reducible refine logLane_logs ?_
    | with_reducible refine ite_logs ?_ ?_
    | with_reducible refine foldl_logs ?_ (fun t a h => ?_)
    | with_reducible rfl
    | dsimp -proj only
    | split

theorem setLost_logs {s x : State} {a0 a1 a2 a3} (h : Logs s x) : Logs s (setLost x a0 a1 a2 a3) :=
  Logs.of_keeps (fun k hk => setLost_keeps (a0 := a0) (a1 := a1) (a2 := a2) (a3 := a3) hk (k.same_refl x)) (by decide) h

theorem modRx_logs {s x : State} {a0 a1 a2} (h : Logs s x) : Logs s (modRx x a0 a1 a2) :=
  Logs.of_keeps (fun k hk => modRx_keeps (a0 := a0) (a1 := a1) (a2 := a2) hk (k.same_refl x)) (by decide) h

theorem openPos_logs {s x : State} {a0} (h : Logs s x) : Logs s (openPos x a0) :=
  Logs.of_keeps (fun k hk => openPos_keeps (a0 := a0) hk (k.same_refl x)) (by decide) h

theorem modTx_logs {s x : State} {a0 a1 a2} (h : Logs s x) : Logs s (modTx x a0 a1 a2) :=
  Logs.of_keeps (fun k hk => modTx_keeps (a0 := a0) (a1 := a1) (a2 := a2) hk (k.same_refl x)) (by decide) h

theorem endTestJob_logs {s x : State} {a0 a1} (h : Logs s x) : Logs s (endTestJob x a0 a1) :=
  Logs.of_keeps (fun k hk => endTestJob_keeps (a0 := a0) (a1 := a1) hk (k.same_refl x)) (by decide) h

theorem endTests_logs {s x : State} {a0 a1} (h : Logs s x) :
    Logs s (endTests x a0 a1) := by
  unfold endTests
  repeat' first
    | with_reducible assumption
    | with_reducible refine logL_logs ?_
    | with_reducible refine endTestJob_logs ?_
    | with_reducible refine modMeas_logs ?_
    | with_reducible refine ite_logs ?_ ?_
    | with_reducible refine foldl_logs ?_ (fun t a h => ?_)
    | with_reducible rfl
    | dsimp -proj only
    | split

theorem closePos_logs {s x : State} {a0} (h : Logs s x) :
    Logs s (closePos x a0) := by
  unfold closePos
  try dsimp -zeta -proj only [upd_welt]
  repeat' first
    | with_reducible assumption
    | with_reducible refine modTx_logs ?_
    | with_reducible refine modMeas_logs ?_
    | with_reducible refine endTests_logs ?_
    | with_reducible refine putWelt_logs ?_
    | with_reducible refine ite_logs ?_ ?_
    | with_reducible refine foldl_logs ?_ (fun t a h => ?_)
    | with_reducible rfl
    | dsimp -proj only
    | split

theorem settlePos_logs {s x : State} {a0} (h : Logs s x) :
    Logs s (settlePos x a0) := by
  unfold settlePos
  repeat' first
    | with_reducible assumption
    | with_reducible refine openPos_logs ?_
    | with_reducible refine closePos_logs ?_
    | with_reducible refine ite_logs ?_ ?_
    | with_reducible refine foldl_logs ?_ (fun t a h => ?_)
    | with_reducible rfl
    | dsimp -proj only
    | split

theorem settleAll_logs {s x : State} (h : Logs s x) :
    Logs s (settleAll x) := by
  unfold settleAll
  repeat' first
    | with_reducible assumption
    | with_reducible refine settlePos_logs ?_
    | with_reducible refine ite_logs ?_ ?_
    | with_reducible refine foldl_logs ?_ (fun t a h => ?_)
    | with_reducible rfl
    | dsimp -proj only
    | split

theorem refreshSpare_logs {s x : State} {a0 a1 a2} (h : Logs s x) : Logs s (refreshSpare a0 x a1 a2) :=
  Logs.of_keeps (fun k hk => refreshSpare_keeps (a0 := a0) (a1 := a1) (a2 := a2) hk (k.same_refl x)) (by decide) h

theorem dropHolds_logs {s x : State} {a0 a1} (h : Logs s x) : Logs s (dropHolds x a0 a1) :=
  Logs.of_keeps (fun k hk => dropHolds_keeps (a0 := a0) (a1 := a1) hk (k.same_refl x)) (by decide) h

theorem stepEpoch_logs {s x : State} {a0} (h : Logs s x) : Logs s (stepEpoch x a0) :=
  Logs.of_keeps (fun k hk => stepEpoch_keeps (a0 := a0) hk (k.same_refl x)) (by decide) h

theorem moveHold_logs {s x : State} {a0 a1 a2} (h : Logs s x) : Logs s (moveHold a0 a1 a2 x) :=
  Logs.of_keeps (fun k hk => moveHold_keeps (a0 := a0) (a1 := a1) (a2 := a2) hk (k.same_refl x)) (by decide) h

theorem withMasters_logs {s x : State} {a0 a1} (hf : ∀ t, Logs s t → Logs s (a1 t)) (h : Logs s x) :
    Logs s (withMasters x a0 a1) := by
  unfold withMasters
  repeat' first
    | with_reducible assumption
    | with_reducible refine hf _ ?_
    | with_reducible refine moveHold_logs ?_
    | with_reducible refine modLink_logs ?_
    | with_reducible refine ite_logs ?_ ?_
    | with_reducible refine foldl_logs ?_ (fun t a h => ?_)
    | with_reducible rfl
    | dsimp -proj only
    | split

theorem relockPlls_logs {s x : State} {a0} (h : Logs s x) : Logs s (relockPlls x a0) :=
  Logs.of_keeps (fun k hk => relockPlls_keeps (a0 := a0) hk (k.same_refl x)) (by decide) h

theorem takeUp_logs {s x : State} {a0 a1} (h : Logs s x) :
    Logs s (takeUp x a0 a1) := by
  unfold takeUp
  try dsimp -zeta -proj only [upd_last]
  repeat' first
    | with_reducible assumption
    | with_reducible refine settleAll_logs ?_
    | with_reducible refine retarget_logs ?_
    | with_reducible refine refreshSpare_logs ?_
    | with_reducible refine dropHolds_logs ?_
    | with_reducible refine stepEpoch_logs ?_
    | with_reducible refine withMasters_logs (fun t h => ?_) ?_
    | with_reducible refine relockPlls_logs ?_
    | with_reducible refine putLast_logs ?_
    | with_reducible refine ite_logs ?_ ?_
    | with_reducible refine foldl_logs ?_ (fun t a h => ?_)
    | with_reducible rfl
    | dsimp -proj only
    | split

theorem switchLink_logs {s x : State} {a0} (h : Logs s x) :
    Logs s (switchLink x a0) := by
  unfold switchLink
  repeat' first
    | with_reducible assumption
    | with_reducible refine takeUp_logs ?_
    | with_reducible refine ite_logs ?_ ?_
    | with_reducible refine foldl_logs ?_ (fun t a h => ?_)
    | with_reducible rfl
    | dsimp -proj only
    | split

theorem markLost_logs {s x : State} {a0 a1 a2 a3} (h : Logs s x) :
    Logs s (markLost x a0 a1 a2 a3) := by
  unfold markLost
  repeat' first
    | with_reducible assumption
    | with_reducible refine setResult_logs ?_
    | with_reducible refine stopRecal_logs ?_
    | with_reducible refine noteLoss_logs ?_
    | with_reducible refine modLink_logs ?_
    | with_reducible refine setLost_logs ?_
    | with_reducible refine modRx_logs ?_
    | with_reducible refine switchLink_logs ?_
    | with_reducible refine ite_logs ?_ ?_
    | with_reducible refine foldl_logs ?_ (fun t a h => ?_)
    | with_reducible rfl
    | dsimp -proj only
    | split

theorem vacate_logs {s x : State} {a0 a1} (h : Logs s x) : Logs s (vacate x a0 a1) :=
  Logs.of_keeps (fun k hk => vacate_keeps (a0 := a0) (a1 := a1) hk (k.same_refl x)) (by decide) h

theorem turnSwap_logs {s x : State} {a0 a1 a2} (h : Logs s x) : Logs s (turnSwap x a0 a1 a2) :=
  Logs.of_keeps (fun k hk => turnSwap_keeps (a0 := a0) (a1 := a1) (a2 := a2) hk (k.same_refl x)) (by decide) h

theorem badMos_logs {s x : State} {a0} (h : Logs s x) : Logs s (badMos x a0) :=
  Logs.of_keeps (fun k hk => badMos_keeps (a0 := a0) hk (k.same_refl x)) (by decide) h

theorem switchNow_logs {s x : State} {a0} (h : Logs s x) :
    Logs s (switchNow x a0) := by
  unfold switchNow
  repeat' first
    | with_reducible assumption
    | with_reducible refine setResult_logs ?_
    | with_reducible refine switchLink_logs ?_
    | with_reducible refine ite_logs ?_ ?_
    | with_reducible refine foldl_logs ?_ (fun t a h => ?_)
    | with_reducible rfl
    | dsimp -proj only
    | split

theorem endPbl_logs {s x : State} {a0} (h : Logs s x) : Logs s (endPbl x a0) :=
  Logs.of_keeps (fun k hk => endPbl_keeps (a0 := a0) hk (k.same_refl x)) (by decide) h

theorem coolRx_logs {s x : State} {a0 a1 a2} (h : Logs s x) : Logs s (coolRx x a0 a1 a2) :=
  Logs.of_keeps (fun k hk => coolRx_keeps (a0 := a0) (a1 := a1) (a2 := a2) hk (k.same_refl x)) (by decide) h

theorem setSpare_logs {s x : State} {a0 a1 a2 a3} (h : Logs s x) : Logs s (setSpare x a0 a1 a2 a3) :=
  Logs.of_keeps (fun k hk => setSpare_keeps (a0 := a0) (a1 := a1) (a2 := a2) (a3 := a3) hk (k.same_refl x)) (by decide) h

theorem leaveSpare_logs {s x : State} {a0 a1} (h : Logs s x) :
    Logs s (leaveSpare x a0 a1) := by
  unfold leaveSpare
  try dsimp -zeta -proj only [upd_last]
  repeat' first
    | with_reducible assumption
    | with_reducible refine settleAll_logs ?_
    | with_reducible refine modLink_logs ?_
    | with_reducible refine retarget_logs ?_
    | with_reducible refine setSpare_logs ?_
    | with_reducible refine putLast_logs ?_
    | with_reducible refine ite_logs ?_ ?_
    | with_reducible refine foldl_logs ?_ (fun t a h => ?_)
    | with_reducible rfl
    | dsimp -proj only
    | split

theorem restSpare_logs {s x : State} {a0 a1 a2} (h : Logs s x) :
    Logs s (restSpare x a0 a1 a2) := by
  unfold restSpare
  repeat' first
    | with_reducible assumption
    | with_reducible refine coolRx_logs ?_
    | with_reducible refine leaveSpare_logs ?_
    | with_reducible refine setSpare_logs ?_
    | with_reducible refine ite_logs ?_ ?_
    | with_reducible refine foldl_logs ?_ (fun t a h => ?_)
    | with_reducible rfl
    | dsimp -proj only
    | split

theorem dropSwap_logs {s x : State} {a0 a1} (h : Logs s x) : Logs s (dropSwap x a0 a1) :=
  Logs.of_keeps (fun k hk => dropSwap_keeps (a0 := a0) (a1 := a1) hk (k.same_refl x)) (by decide) h

theorem endSwaps_logs {s x : State} {a0} (h : Logs s x) :
    Logs s (endSwaps x a0) := by
  unfold endSwaps
  repeat' first
    | with_reducible assumption
    | with_reducible refine restSpare_logs ?_
    | with_reducible refine modLink_logs ?_
    | with_reducible refine abortRecal_logs ?_
    | with_reducible refine dropSwap_logs ?_
    | with_reducible refine ite_logs ?_ ?_
    | with_reducible refine foldl_logs ?_ (fun t a h => ?_)
    | with_reducible rfl
    | dsimp -proj only
    | split

theorem endSearches_logs {s x : State} {a0} (h : Logs s x) : Logs s (endSearches x a0) :=
  Logs.of_keeps (fun k hk => endSearches_keeps (a0 := a0) hk (k.same_refl x)) (by decide) h

theorem dropMos_logs {s x : State} {a0 a1} (h : Logs s x) : Logs s (dropMos x a0 a1) :=
  Logs.of_keeps (fun k hk => dropMos_keeps (a0 := a0) (a1 := a1) hk (k.same_refl x)) (by decide) h

theorem allReset_logs {s x : State} {a0} (h : Logs s x) : Logs s (allReset x a0) :=
  Logs.of_keeps (fun k hk => allReset_keeps (a0 := a0) hk (k.same_refl x)) (by decide) h

theorem leaveDisabled_logs {s x : State} {a0} (h : Logs s x) :
    Logs s (leaveDisabled x a0) := by
  unfold leaveDisabled
  repeat' first
    | with_reducible assumption
    | with_reducible refine endTests_logs ?_
    | with_reducible refine ite_logs ?_ ?_
    | with_reducible refine foldl_logs ?_ (fun t a h => ?_)
    | with_reducible rfl
    | dsimp -proj only
    | split

theorem dropLink_logs {s x : State} {a0} (h : Logs s x) :
    Logs s (dropLink x a0) := by
  unfold dropLink
  repeat' first
    | with_reducible assumption
    | with_reducible refine modLink_logs ?_
    | with_reducible refine endPbl_logs ?_
    | with_reducible refine endSwaps_logs ?_
    | with_reducible refine endSearches_logs ?_
    | with_reducible refine dropMos_logs ?_
    | with_reducible refine allReset_logs ?_
    | with_reducible refine leaveDisabled_logs ?_
    | with_reducible refine withMasters_logs (fun t h => ?_) ?_
    | with_reducible refine ite_logs ?_ ?_
    | with_reducible refine foldl_logs ?_ (fun t a h => ?_)
    | with_reducible rfl
    | dsimp -proj only
    | split

theorem standAside_logs {s x : State} {a0} (h : Logs s x) :
    Logs s (standAside x a0) := by
  unfold standAside
  repeat' first
    | with_reducible assumption
    | with_reducible refine switchNow_logs ?_
    | with_reducible refine settleAll_logs ?_
    | with_reducible refine modLink_logs ?_
    | with_reducible refine dropLink_logs ?_
    | with_reducible refine ite_logs ?_ ?_
    | with_reducible refine foldl_logs ?_ (fun t a h => ?_)
    | with_reducible rfl
    | dsimp -proj only
    | split

theorem partAside_logs {s x : State} {a0 a1} (h : Logs s x) :
    Logs s (partAside x a0 a1) := by
  unfold partAside
  repeat' first
    | with_reducible assumption
    | with_reducible refine settleAll_logs ?_
    | with_reducible refine modLink_logs ?_
    | with_reducible refine logK_logs ?_
    | with_reducible refine standAside_logs ?_
    | with_reducible refine ite_logs ?_ ?_
    | with_reducible refine foldl_logs ?_ (fun t a h => ?_)
    | with_reducible rfl
    | dsimp -proj only
    | split

theorem abandonSwap_logs {s x : State} {a0} (h : Logs s x) :
    Logs s (abandonSwap x a0) := by
  unfold abandonSwap
  repeat' first
    | with_reducible assumption
    | with_reducible refine restSpare_logs ?_
    | with_reducible refine dropSwap_logs ?_
    | with_reducible refine setSpare_logs ?_
    | with_reducible refine ite_logs ?_ ?_
    | with_reducible refine foldl_logs ?_ (fun t a h => ?_)
    | with_reducible rfl
    | dsimp -proj only
    | split

theorem enterRetrain_logs {s x : State} {a0} (h : Logs s x) :
    Logs s (enterRetrain x a0) := by
  unfold enterRetrain
  repeat' first
    | with_reducible assumption
    | with_reducible refine setResult_logs ?_
    | with_reducible refine abandonSwap_logs ?_
    | with_reducible refine modLink_logs ?_
    | with_reducible refine endPbl_logs ?_
    | with_reducible refine dropMos_logs ?_
    | with_reducible refine switchLink_logs ?_
    | with_reducible refine ite_logs ?_ ?_
    | with_reducible refine foldl_logs ?_ (fun t a h => ?_)
    | with_reducible rfl
    | dsimp -proj only
    | split

theorem sendOwn_logs {s x : State} {a0 a1 a2 a3} (h : Logs s x) : Logs s (sendOwn x a0 a1 a2 a3) :=
  Logs.of_keeps (fun k hk => sendOwn_keeps (a0 := a0) (a1 := a1) (a2 := a2) (a3 := a3) hk (k.same_refl x)) (by decide) h

theorem requestRetrain_logs {s x : State} {a0} (h : Logs s x) :
    Logs s (requestRetrain x a0) := by
  unfold requestRetrain
  repeat' first
    | with_reducible assumption
    | with_reducible refine modLink_logs ?_
    | with_reducible refine enterRetrain_logs ?_
    | with_reducible refine sendOwn_logs ?_
    | with_reducible refine ite_logs ?_ ?_
    | with_reducible refine foldl_logs ?_ (fun t a h => ?_)
    | with_reducible rfl
    | dsimp -proj only
    | split

theorem setUnrecovered_logs {s x : State} {a0 a1} (h : Logs s x) :
    Logs s (setUnrecovered x a0 a1) := by
  unfold setUnrecovered
  repeat' first
    | with_reducible assumption
    | with_reducible refine modLink_logs ?_
    | with_reducible refine logK_logs ?_
    | with_reducible refine ite_logs ?_ ?_
    | with_reducible refine foldl_logs ?_ (fun t a h => ?_)
    | with_reducible rfl
    | dsimp -proj only
    | split

theorem abandonPlanned_logs {s x : State} {a0 a1} (h : Logs s x) :
    Logs s (abandonPlanned x a0 a1) := by
  unfold abandonPlanned
  repeat' first
    | with_reducible assumption
    | with_reducible refine restSpare_logs ?_
    | with_reducible refine dropSwap_logs ?_
    | with_reducible refine giveUp_logs ?_
    | with_reducible refine ite_logs ?_ ?_
    | with_reducible refine foldl_logs ?_ (fun t a h => ?_)
    | with_reducible rfl
    | dsimp -proj only
    | split

theorem lossDown_logs {s x : State} {a0} (h : Logs s x) :
    Logs s (lossDown x a0) := by
  unfold lossDown
  repeat' first
    | with_reducible assumption
    | with_reducible refine modLink_logs ?_
    | with_reducible refine logK_logs ?_
    | with_reducible refine partAside_logs ?_
    | with_reducible refine setUnrecovered_logs ?_
    | with_reducible refine ite_logs ?_ ?_
    | with_reducible refine foldl_logs ?_ (fun t a h => ?_)
    | with_reducible rfl
    | dsimp -proj only
    | split

theorem lossDegrade_logs {s x : State} {a0} (h : Logs s x) :
    Logs s (lossDegrade x a0) := by
  unfold lossDegrade
  repeat' first
    | with_reducible assumption
    | with_reducible refine modLink_logs ?_
    | with_reducible refine lossDown_logs ?_
    | with_reducible refine requestRetrain_logs ?_
    | with_reducible refine ite_logs ?_ ?_
    | with_reducible refine foldl_logs ?_ (fun t a h => ?_)
    | with_reducible rfl
    | dsimp -proj only
    | split

theorem spareFallback_logs {s x : State} {a0 a1 a2} (h : Logs s x) :
    Logs s (spareFallback x a0 a1 a2) := by
  unfold spareFallback
  repeat' first
    | with_reducible assumption
    | with_reducible refine lossDegrade_logs ?_
    | with_reducible refine logLane_logs ?_
    | with_reducible refine ite_logs ?_ ?_
    | with_reducible refine foldl_logs ?_ (fun t a h => ?_)
    | with_reducible rfl
    | dsimp -proj only
    | split

theorem setSwapResult_logs {s x : State} {a0 a1} (h : Logs s x) : Logs s (setSwapResult x a0 a1) :=
  Logs.of_keeps (fun k hk => setSwapResult_keeps (a0 := a0) (a1 := a1) hk (k.same_refl x)) (by decide) h

theorem beginSwap_logs {s x : State} {a0 a1 a2 a3 a4 a5} (h : Logs s x) : Logs s (beginSwap x a0 a1 a2 a3 a4 a5) :=
  Logs.of_keeps (fun k hk => beginSwap_keeps (a0 := a0) (a1 := a1) (a2 := a2) (a3 := a3) (a4 := a4) (a5 := a5) hk (k.same_refl x)) (by decide) h

theorem lossSpare_logs {s x : State} {a0 a1 a2} (h : Logs s x) :
    Logs s (lossSpare x a0 a1 a2) := by
  unfold lossSpare
  repeat' first
    | with_reducible assumption
    | with_reducible refine stopRecal_logs ?_
    | with_reducible refine spareFallback_logs ?_
    | with_reducible refine modLink_logs ?_
    | with_reducible refine setSwapResult_logs ?_
    | with_reducible refine beginSwap_logs ?_
    | with_reducible refine ite_logs ?_ ?_
    | with_reducible refine foldl_logs ?_ (fun t a h => ?_)
    | with_reducible rfl
    | dsimp -proj only
    | split

theorem policySpare_logs {s x : State} {a0 a1 a2} (h : Logs s x) :
    Logs s (policySpare x a0 a1 a2) := by
  unfold policySpare
  repeat' first
    | with_reducible assumption
    | with_reducible refine abandonPlanned_logs ?_
    | with_reducible refine modLink_logs ?_
    | with_reducible refine lossSpare_logs ?_
    | with_reducible refine ite_logs ?_ ?_
    | with_reducible refine foldl_logs ?_ (fun t a h => ?_)
    | with_reducible rfl
    | dsimp -proj only
    | split

theorem lossPolicy_logs {s x : State} {a0 a1 a2} (h : Logs s x) :
    Logs s (lossPolicy x a0 a1 a2) := by
  unfold lossPolicy
  repeat' first
    | with_reducible assumption
    | with_reducible refine policySpare_logs ?_
    | with_reducible refine lossDegrade_logs ?_
    | with_reducible refine lossDown_logs ?_
    | with_reducible refine ite_logs ?_ ?_
    | with_reducible refine foldl_logs ?_ (fun t a h => ?_)
    | with_reducible rfl
    | dsimp -proj only
    | split

theorem afterLoss_logs {s x : State} {a0 a1 a2} (h : Logs s x) :
    Logs s (afterLoss x a0 a1 a2) := by
  unfold afterLoss
  repeat' first
    | with_reducible assumption
    | with_reducible refine turnSwap_logs ?_
    | with_reducible refine lossPolicy_logs ?_
    | with_reducible refine enterRetrain_logs ?_
    | with_reducible refine requestRetrain_logs ?_
    | with_reducible refine ite_logs ?_ ?_
    | with_reducible refine foldl_logs ?_ (fun t a h => ?_)
    | with_reducible rfl
    | dsimp -proj only
    | split

theorem moveEditLane_logs {s x : State} {a0 a1} (h : Logs s x) :
    Logs s (moveEditLane x a0 a1) := by
  unfold moveEditLane
  repeat' first
    | with_reducible assumption
    | with_reducible refine modLink_logs ?_
    | with_reducible refine logLane_logs ?_
    | with_reducible refine ite_logs ?_ ?_
    | with_reducible refine foldl_logs ?_ (fun t a h => ?_)
    | with_reducible rfl
    | dsimp -proj only
    | split

theorem afterLosses_logs {s x : State} {a0 a1 a2} (h : Logs s x) :
    Logs s (afterLosses x a0 a1 a2) := by
  unfold afterLosses
  repeat' first
    | with_reducible assumption
    | with_reducible refine afterLoss_logs ?_
    | with_reducible refine moveEditLane_logs ?_
    | with_reducible refine ite_logs ?_ ?_
    | with_reducible refine foldl_logs ?_ (fun t a h => ?_)
    | with_reducible rfl
    | dsimp -proj only
    | split

theorem serveWaiting_logs {s x : State} {a0} (h : Logs s x) :
    Logs s (serveWaiting x a0) := by
  unfold serveWaiting
  repeat' first
    | with_reducible assumption
    | with_reducible refine modLink_logs ?_
    | with_reducible refine lossSpare_logs ?_
    | with_reducible refine ite_logs ?_ ?_
    | with_reducible refine foldl_logs ?_ (fun t a h => ?_)
    | with_reducible rfl
    | dsimp -proj only
    | split

theorem sendSpare_logs {s x : State} {a0 a1 a2 a3} (h : Logs s x) : Logs s (sendSpare x a0 a1 a2 a3) :=
  Logs.of_keeps (fun k hk => sendSpare_keeps (a0 := a0) (a1 := a1) (a2 := a2) (a3 := a3) hk (k.same_refl x)) (by decide) h

theorem logSwap_logs {s x : State} {a0 a1 a2 a3} (h : Logs s x) :
    Logs s (logSwap x a0 a1 a2 a3) := by
  unfold logSwap
  repeat' first
    | with_reducible assumption
    | with_reducible refine logLane_logs ?_
    | with_reducible refine ite_logs ?_ ?_
    | with_reducible refine foldl_logs ?_ (fun t a h => ?_)
    | with_reducible rfl
    | dsimp -proj only
    | split

theorem failSwap_logs {s x : State} {a0 a1 a2 a3} (h : Logs s x) :
    Logs s (failSwap x a0 a1 a2 a3) := by
  unfold failSwap
  try dsimp -zeta -proj only [upd_cal]
  repeat' first
    | with_reducible assumption
    | with_reducible refine restSpare_logs ?_
    | with_reducible refine spareFallback_logs ?_
    | with_reducible refine vacate_logs ?_
    | with_reducible refine modLink_logs ?_
    | with_reducible refine serveWaiting_logs ?_
    | with_reducible refine leaveSpare_logs ?_
    | with_reducible refine setSwapResult_logs ?_
    | with_reducible refine giveUp_logs ?_
    | with_reducible refine sendSpare_logs ?_
    | with_reducible refine logSwap_logs ?_
    | with_reducible refine setSpare_logs ?_
    | with_reducible refine putCal_logs ?_
    | with_reducible refine ite_logs ?_ ?_
    | with_reducible refine foldl_logs ?_ (fun t a h => ?_)
    | with_reducible rfl
    | dsimp -proj only
    | split

theorem loadPrograms_logs {s x : State} (h : Logs s x) : Logs s (loadPrograms x) :=
  Logs.of_keeps (fun k hk => loadPrograms_keeps hk (k.same_refl x)) (by decide) h

theorem startState_logs {s x : State} {a0} (h : Logs s x) : Logs s (startState x a0) :=
  Logs.of_keeps (fun k hk => startState_keeps (a0 := a0) hk (k.same_refl x)) (by decide) h

theorem forceLink_logs {s x : State} {a0} (h : Logs s x) :
    Logs s (forceLink x a0) := by
  unfold forceLink
  repeat' first
    | with_reducible assumption
    | with_reducible refine switchNow_logs ?_
    | with_reducible refine setResult_logs ?_
    | with_reducible refine modLink_logs ?_
    | with_reducible refine dropLink_logs ?_
    | with_reducible refine ite_logs ?_ ?_
    | with_reducible refine foldl_logs ?_ (fun t a h => ?_)
    | with_reducible rfl
    | dsimp -proj only
    | split

theorem restartLink_logs {s x : State} {a0} (h : Logs s x) : Logs s (restartLink x a0) :=
  Logs.of_keeps (fun k hk => restartLink_keeps (a0 := a0) hk (k.same_refl x)) (by decide) h

theorem settle_logs {s x : State} (h : Logs s x) :
    Logs s (settle x) := by
  unfold settle
  repeat' first
    | with_reducible assumption
    | with_reducible refine settleAll_logs ?_
    | with_reducible refine forceLink_logs ?_
    | with_reducible refine restartLink_logs ?_
    | with_reducible refine ite_logs ?_ ?_
    | with_reducible refine foldl_logs ?_ (fun t a h => ?_)
    | with_reducible rfl
    | dsimp -proj only
    | split

theorem writeAside_logs {s x : State} {a0 a1} (h : Logs s x) :
    Logs s (writeAside x a0 a1) := by
  unfold writeAside
  repeat' first
    | with_reducible assumption
    | with_reducible refine startState_logs ?_
    | with_reducible refine settle_logs ?_
    | with_reducible refine modLink_logs ?_
    | with_reducible refine standAside_logs ?_
    | with_reducible refine ite_logs ?_ ?_
    | with_reducible refine foldl_logs ?_ (fun t a h => ?_)
    | with_reducible rfl
    | dsimp -proj only
    | split

theorem forwardLost_logs {s x : State} {a0 a1 a2 a3} (h : Logs s x) :
    Logs s (forwardLost x a0 a1 a2 a3) := by
  unfold forwardLost
  repeat' first
    | with_reducible assumption
    | with_reducible refine noteLoss_logs ?_
    | with_reducible refine modRx_logs ?_
    | with_reducible refine setSpare_logs ?_
    | with_reducible refine ite_logs ?_ ?_
    | with_reducible refine foldl_logs ?_ (fun t a h => ?_)
    | with_reducible rfl
    | dsimp -proj only
    | split

theorem switchWaiting_logs {s x : State} {a0} (h : Logs s x) :
    Logs s (switchWaiting x a0) := by
  unfold switchWaiting
  repeat' first
    | with_reducible assumption
    | with_reducible refine switchNow_logs ?_
    | with_reducible refine ite_logs ?_ ?_
    | with_reducible refine foldl_logs ?_ (fun t a h => ?_)
    | with_reducible rfl
    | dsimp -proj only
    | split

theorem enterDisabled_logs {s x : State} {a0} (h : Logs s x) :
    Logs s (enterDisabled x a0) := by
  unfold enterDisabled
  repeat' first
    | with_reducible assumption
    | with_reducible refine switchWaiting_logs ?_
    | with_reducible refine modLink_logs ?_
    | with_reducible refine dropLink_logs ?_
    | with_reducible refine ite_logs ?_ ?_
    | with_reducible refine foldl_logs ?_ (fun t a h => ?_)
    | with_reducible rfl
    | dsimp -proj only
    | split

theorem enterDetect_logs {s x : State} {a0 a1} (h : Logs s x) :
    Logs s (enterDetect x a0 a1) := by
  unfold enterDetect
  repeat' first
    | with_reducible assumption
    | with_reducible refine enterDisabled_logs ?_
    | with_reducible refine switchWaiting_logs ?_
    | with_reducible refine modLink_logs ?_
    | with_reducible refine partAside_logs ?_
    | with_reducible refine dropLink_logs ?_
    | with_reducible refine ite_logs ?_ ?_
    | with_reducible refine foldl_logs ?_ (fun t a h => ?_)
    | with_reducible rfl
    | dsimp -proj only
    | split

theorem homeStandins_logs {s x : State} (h : Logs s x) : Logs s (homeStandins x) :=
  Logs.of_keeps (fun k hk => homeStandins_keeps hk (k.same_refl x)) (by decide) h

theorem checkRecovered_logs {s x : State} {a0} (h : Logs s x) : Logs s (checkRecovered x a0) :=
  Logs.of_keeps (fun k hk => checkRecovered_keeps (a0 := a0) hk (k.same_refl x)) (by decide) h

theorem enterActive_logs {s x : State} {a0} (h : Logs s x) :
    Logs s (enterActive x a0) := by
  unfold enterActive
  repeat' first
    | with_reducible assumption
    | with_reducible refine setResult_logs ?_
    | with_reducible refine modLink_logs ?_
    | with_reducible refine checkRecovered_logs ?_
    | with_reducible refine ite_logs ?_ ?_
    | with_reducible refine foldl_logs ?_ (fun t a h => ?_)
    | with_reducible rfl
    | dsimp -proj only
    | split

theorem declareLost_logs {s x : State} {a0 a1 a2 a3} (h : Logs s x) :
    Logs s (declareLost x a0 a1 a2 a3) := by
  unfold declareLost
  repeat' first
    | with_reducible assumption
    | with_reducible refine markLost_logs ?_
    | with_reducible refine afterLosses_logs ?_
    | with_reducible refine ite_logs ?_ ?_
    | with_reducible refine foldl_logs ?_ (fun t a h => ?_)
    | with_reducible rfl
    | dsimp -proj only
    | split

theorem followStandin_logs {s x : State} (h : Logs s x) : Logs s (followStandin x) :=
  Logs.of_keeps (fun k hk => followStandin_keeps hk (k.same_refl x)) (by decide) h

theorem clockLost_logs {s x : State} {a0 a1} (h : Logs s x) :
    Logs s (clockLost x a0 a1) := by
  unfold clockLost
  repeat' first
    | with_reducible assumption
    | with_reducible refine forwardLost_logs ?_
    | with_reducible refine markLost_logs ?_
    | with_reducible refine afterLosses_logs ?_
    | with_reducible refine ite_logs ?_ ?_
    | with_reducible refine foldl_logs ?_ (fun t a h => ?_)
    | with_reducible rfl
    | dsimp -proj only
    | split

theorem pllLost_logs {s x : State} {a0} (h : Logs s x) :
    Logs s (pllLost x a0) := by
  unfold pllLost
  repeat' first
    | with_reducible assumption
    | with_reducible refine clockLost_logs ?_
    | with_reducible refine ite_logs ?_ ?_
    | with_reducible refine foldl_logs ?_ (fun t a h => ?_)
    | with_reducible rfl
    | dsimp -proj only
    | split

theorem writeDisable_logs {s x : State} {a0 a1} (h : Logs s x) :
    Logs s (writeDisable x a0 a1) := by
  unfold writeDisable
  repeat' first
    | with_reducible assumption
    | with_reducible refine enterDisabled_logs ?_
    | with_reducible refine modLink_logs ?_
    | with_reducible refine enterDetect_logs ?_
    | with_reducible refine ite_logs ?_ ?_
    | with_reducible refine foldl_logs ?_ (fun t a h => ?_)
    | with_reducible rfl
    | dsimp -proj only
    | split

theorem startJoin_logs {s x : State} {a0} (h : Logs s x) :
    Logs s (startJoin x a0) := by
  unfold startJoin
  repeat' first
    | with_reducible assumption
    | with_reducible refine settle_logs ?_
    | with_reducible refine modLink_logs ?_
    | with_reducible refine ite_logs ?_ ?_
    | with_reducible refine foldl_logs ?_ (fun t a h => ?_)
    | with_reducible rfl
    | dsimp -proj only
    | split

end Sys2Proof.Machine
end

