-- ==== Sys2Proof/Laws/Ends.lean ====
section
/-! SUPPORT. How a command ends that has logged an event, and what settling the device leaves of a link that no cause of the
whole device concerns. -/

namespace Sys2Proof.Machine

/-- A command that ends with an event, from a state in which nothing else follows. -/
theorem event_done {x : State} (h : calm x) (code : BitVec 16) (c : Ctx) (data : List Byte) :
    ∃ t, done (logEvent x code c data) = .next t ∧ logged x t code c data ∧ sameBut byEvent x t ∧ linksButOut x t ∧
      Flags x t := by
  have k := fun k hk => logEvent_same (k := k) x code c data hk
  have hc : calm (logEvent x code c data) := calm_congr (k .heel (by decide)) (k .units (by decide)) h
  refine ⟨_, rfl, ?_, ?_, ?_, ?_⟩
  · have f1 : (fin (logEvent x code c data)).nvm = (logEvent x code c data).nvm := fin_same (k := .nvm) (by decide) hc
    have f2 : (fin (logEvent x code c data)).evt = (logEvent x code c data).evt := fin_same (k := .evt) (by decide) hc
    exact logged_congr (logEvent_logged x code c data) rfl rfl rfl rfl rfl f1 f2
  · intro j hj
    have h1 : j.same x (logEvent x code c data) := k j (not_mem_of_subset hj (by decide))
    have h2 : j.same (logEvent x code c data) (fin (logEvent x code c data)) := fin_same (not_mem_of_subset hj (by decide)) hc
    cases j <;> exact h2.trans h1
  · exact linksButOut_trans (linksButOut_of (k .links (by decide))) (fin_links _)
  · exact fin_flags (logEvent_flags (Flags.refl x))

/-- The NVM log's queue after an event and whatever follows it. -/
theorem logs_event {x t : State} {code : BitVec 16} {c : Ctx} {data : List Byte} (h : Logs (logEvent x code c data) t) :
    ∃ more, t.nvm.logWait = x.nvm.logWait ++ ⟨x.evt.seq, code, c, x.time.dtime, padTo 12 (data.take 12)⟩ :: more := by
  obtain ⟨m, e⟩ := logFuel_logWait (x.store.poison.length + 1) x code c data
  obtain ⟨n, f⟩ := h
  refine ⟨m ++ n, ?_⟩
  rw [f]
  show (logFuel _ _ _ _ _).nvm.logWait ++ n = _
  rw [e, List.append_assoc]
  rfl

theorem fold_restart_course (r : List LinkNo) (x : State) (l : LinkNo) (h : (getLink x l).join ≠ .forced) :
    (getLink (r.foldl (fun t j => if (getLink t j).join == .forced then restartLink t j else t) x) l).bare = (getLink x l).bare := by
  induction r generalizing x with
  | nil => rfl
  | cons j r ih =>
    rw [List.foldl_cons]
    by_cases f : (getLink x j).join == .forced
    · rw [if_pos f]
      have n : l ≠ j := by
        rintro rfl
        exact h (by simpa using f)
      have e := restartLink_but (But.refl j x) l n
      rw [ih _ (by rw [bare_join e]; exact h), e]
    · rw [if_neg f]
      exact ih x h

/-- Without a device-wide cause, settling leaves a link that is not FORCED on its course. -/
theorem settle_keeps_link {x : State} {l : LinkNo} (hd : devCause x = false) (h : (getLink x l).join ≠ .forced) :
    (getLink (settle x) l).bare = (getLink x l).bare := by
  unfold settle
  rw [if_neg (by rw [hd]; decide)]
  refine (settleAll_course (Course.refl _) l).trans ?_
  split
  · exact fold_restart_course _ x l h
  · rfl

theorem startState_self (x : State) (l : LinkNo) : (getLink (startState x l) l).join ≠ .forced := by
  have go : ∀ j : JoinState, j ≠ .forced →
      (getLink (modLink x l fun k => { k with join := j, joinSeen := false, st := .notTraining }) l).join ≠ .forced := by
    intro j h
    rw [getLink_modLink]
    exact h
  unfold startState
  dsimp only
  split
  · exact go _ (by decide)
  · split
    · exact go _ (by decide)
    · split
      · exact go _ (by decide)
      · split <;> exact go _ (by decide)
      · exact go _ (by decide)

theorem restartLink_self (x : State) (l : LinkNo) : (getLink (restartLink x l) l).join ≠ .forced := by
  unfold restartLink
  split
  · rw [getLink_modLink]
    exact JoinState.noConfusion
  · split
    · rw [getLink_modLink]
      exact JoinState.noConfusion
    · exact startState_self x l

/-- Once booted, without a device-wide cause no link is FORCED (R53). -/
theorem settle_unforced {x : State} (hd : devCause x = false) (hb : x.boot.done = true) (l : LinkNo) :
    (getLink (settle x) l).join ≠ .forced := by
  have keep : ∀ (r : List LinkNo) (y : State), (getLink y l).join ≠ .forced →
      (getLink (r.foldl (fun t j => if (getLink t j).join == .forced then restartLink t j else t) y) l).join ≠ .forced := by
    intro r y h
    rw [bare_join (fold_restart_course r y l h)]
    exact h
  have all : ∀ (r : List LinkNo) (y : State), l ∈ r →
      (getLink (r.foldl (fun t j => if (getLink t j).join == .forced then restartLink t j else t) y) l).join ≠ .forced := by
    intro r
    induction r with
    | nil => exact fun _ h => by cases h
    | cons j r ih =>
      intro y h
      rw [List.foldl_cons]
      rcases List.mem_cons.1 h with e | e
      · subst e
        refine keep r _ ?_
        split
        · exact restartLink_self y l
        · rename_i g
          simpa using g
      · exact ih _ e
  unfold settle
  rw [if_neg (by rw [hd]; decide), if_pos hb, bare_join (settleAll_course (Course.refl _) l)]
  exact all allLinks x (List.mem_finRange l)

end Sys2Proof.Machine
end

