-- ==== Sys2Proof/Laws/Time.lean ====
section
/-! SUPPORT. One cycle of the clock: what it adds to DTIME and its fraction (R453). The numbers are large: cite these, do
not let a record with them be compared field by field. -/

namespace Sys2Proof.Machine

theorem advance_trim (t : TimeSt) (n : Nat) : (advance t n).trim = t.trim := by
  unfold advance
  rfl

theorem advance_value (t : TimeSt) (n : Nat) :
    (advance t n).dtime.toNat * 4294967296 + (advance t n).frac.toNat =
      (t.dtime.toNat * 4294967296 + t.frac.toNat + n) % 79228162514264337593543950336 := by
  unfold advance
  simp only [BitVec.toNat_ofNat]
  omega

theorem tick_time {s : State} {a : TimeSt} (r : ¬ s.boot.inReset = true)
    (e : a = advance s.time (if freeRuns s then oscStep else cycleStep s.time.trim)) :
    (tick s).time.trim = a.trim ∧ (tick s).time.dtime = a.dtime ∧ (tick s).time.frac = a.frac := by
  unfold tick
  rw [if_neg r, ← e]
  exact ⟨rfl, rfl, rfl⟩

end Sys2Proof.Machine
end

