-- ==== Sys2Proof/Laws/Touch.lean ====
section
/-! SUPPORT. What a write of a register may touch, by the register. -/

namespace Sys2Proof.Machine

theorem writeReg_touches {k : Comp} {s x : State} {c : Ctx} {r : Reg} {v : Word} (hk : k ∉ regTouches r) (h : k.same s x) :
    k.same s (writeReg x c r v) := by
  cases r with
  | devctl => exact writeDevctl_keeps hk h
  | evtmask => exact writeEvtmask_keeps hk h
  | attnsrc => exact writeAttnsrc_keeps hk h
  | faultsrc => exact clearFaults_keeps hk h
  | awlcmd => exact awlCommand_keeps hk h
  | lastcmd => exact writeLastcmd_keeps hk h
  | calcmd => exact writeCalcmd_keeps hk h
  | calstat => exact writeCalstat_keeps hk h
  | syncctl => exact writeSyncctl_keeps hk h
  | dtrate => exact writeDtrate_keeps hk h
  | dtloadLo => exact writeDtload_keeps hk h
  | dtloadHi => exact writeDtload_keeps hk h
  | lnkctl l => exact writeLnkctl_keeps hk h
  | lnkspcmd l => exact writeLnkspcmd_keeps hk h
  | lnkloss l => exact writeLnkloss_keeps hk h
  | lnctl sd p => exact writeLnctl_keeps hk h
  | lnstat sd p => exact writeLnstat_keeps hk h
  | lnsnap sd p => exact writeLnsnap_keeps hk h
  | lneq sd p => exact writeLneq_keeps hk h
  | lntxdrv sd p => exact writeLntxdrv_keeps hk h
  | lnscan sd p => exact writeLnscan_keeps hk h
  | lnprbs sd p => exact writeLnprbs_keeps hk h
  | lnprbsusr sd p => exact (modMeas_keeps hk h : k.same s (modMeas x sd p fun m => { m with user := fld v 0 20 }))
  | lnloop sd p => exact writeLnloop_keeps hk h
  | lnsymcntHi sd p => exact writeLnsymcntHi_keeps hk h
  | lncal sd p => exact writeLncal_keeps hk h
  | wqctl q => exact writeWqctl_keeps hk h
  | wqstat q => exact writeWqstat_keeps hk h
  | wqdb q => exact doorbell_keeps hk h
  | wqhdr q => exact writeWqhdr_keeps hk h
  | cqctl m => exact writeCqctl_keeps hk h
  | cqstat m => exact writeCqstat_keeps hk h
  | cqhead m => exact writeCqhead_keeps hk h
  | cqbase m => exact writeCqbase_keeps hk h
  | ctxstat => exact writeCtxstat_keeps hk h
  | winctl w => exact writeWinctl_keeps hk h
  | winerr w => exact writeWinerr_keeps hk h
  | storestat => exact writeStorestat_keeps hk h
  | winentry t pg => exact writeEntry_keeps hk h
  | nvmctl => exact writeNvmctl_keeps hk h
  | nvmstat => exact writeNvmstat_keeps hk h
  | nvmwsel =>
    have h : k.same s { x with nvm := { x.nvm with wsel := fld v 0 8 } } := by
      cases k <;> first | exact h | exact absurd (by decide) hk
    exact h
  | tmseqctl n => exact writeTmseqctl_keeps hk h
  | tmstat => exact writeTmstat_keeps hk h
  | tmthresh k => exact writeTmthresh_keeps hk h
  | twbctl => exact writeTwbctl_keeps hk h
  | twbstat => exact writeTwbstat_keeps hk h
  | imcctl => exact writeImcctl_keeps hk h
  | devid => exact h
  | devstat => exact h
  | evtstat => exact h
  | evtcnt => exact h
  | evtseq => exact h
  | awlstat => exact h
  | laststat => exact h
  | lastdiff => exact h
  | lastlink => exact h
  | lastboot => exact h
  | awlout _ => exact h
  | dtimeLo => exact h
  | dtimeHi => exact h
  | dtsyncLo => exact h
  | dtsyncHi => exact h
  | lnkstat _ => exact h
  | lnktrn _ => exact h
  | lnkcap _ => exact h
  | lnkspare _ => exact h
  | lnkerr _ => exact h
  | lnkepoch _ => exact h
  | lnskpadd _ _ => exact h
  | lnskpdel _ _ => exact h
  | lndfe _ _ _ => exact h
  | lneye _ _ => exact h
  | lnscancnt _ _ => exact h
  | lnerrcnt _ _ => exact h
  | lnsymcntLo _ _ => exact h
  | lncalt _ _ => exact h
  | wqerr _ => exact h
  | wqheld _ _ => exact h
  | ctxslot _ => exact h
  | ctxflt _ _ => exact h
  | winerrva _ => exact h
  | storece => exact h
  | storeuea => exact h
  | storescrub => exact h
  | nvmaddr => exact h
  | nvmwear => exact h
  | nvmlog => exact h
  | tmmiss => exact h
  | tmch _ => exact h
  | imcstat => exact h
  | imccnt _ => exact h

theorem accessWrite_touches {k : Comp} {s x : State} {c : Ctx} {a v : Word}
    (hk : k ∉ targetTouches (decodeAddr a)) (hw : k ∉ [Comp.evt, .store, .nvm, .twb]) (h : k.same s x) :
    k.same s (accessWrite x c a v) := by
  unfold accessWrite
  split
  · unfold writeOpen
    dsimp only
    split
    · exact h
    split
    · exact logIslandOff_keeps (not_mem_of_subset hw (by decide)) h
    generalize decodeAddr a = t at hk ⊢
    cases t with
    | none => exact h
    | reserved => exact h
    | nvm => exact h
    | reg r b => exact writeReg_touches hk h
    | physical => exact storeWrite_keeps hk h
    | virtual_ => exact storeWriteVa_keeps hk h
  · exact logDenied_keeps (not_mem_of_subset hw (by decide)) h

theorem busWrite_touches {k : Comp} {s x : State} {c : Ctx} {a v : Word}
    (hk : k ∉ targetTouches (decodeAddr a)) (hw : k ∉ [Comp.evt, .store, .nvm, .twb]) (h : k.same s x) :
    k.same s (busWrite x c a v) := by
  unfold busWrite
  split
  · exact accessWrite_touches hk hw h
  · exact h

theorem writeTo_touches {k : Comp} {s x : State} {c : Ctx} {r : Reg} {v : Word} (hk : k ∉ byWrite r) (h : k.same s x) :
    k.same s (writeTo x c r v) := by
  refine busWrite_touches ?_ ?_ h
  · rw [decode_regAddr]
    exact fun m => hk (List.mem_append_left _ m)
  · intro m
    refine hk (List.mem_append_right _ ?_)
    revert m
    cases k <;> decide

end Sys2Proof.Machine
end

