-- ==== Sys2Proof/Tests/Slice0.lean ====
section
/-! SUPPORT. The model's own tests: ill-formed commands are refused, the values that the spec prints come out, and the
hypotheses of the statements of Certificates/Slice0/Obligations.lean are met together by small states
(`test_meets_<statement>`; the operands are those of the statement's clauses, in their order). -/

namespace Sys2Proof.Tests

open Sys2Proof Sys2Proof.Machine

-- One test after the other: each waits for the kernel to have checked what stands before it.
set_option Elab.async false

/-! ### States -/

/-- Powered, booted, no link in the Last. -/
def up : State := { State.reset with
  pins := ⟨true, true, false, false, 0, false, true, true⟩
  power := { State.reset.power with valid := Vector.replicate 8 true, pumpReady := true }
  boot := { Reset.boot with inReset := false, phase := 4, done := true, applied := true, calDone := true } }

/-- Booting, in a phase. -/
def bootAt (phase : BitVec 4) : State :=
  { up with boot := { Reset.boot with inReset := false, phase := phase } }

/-- Link 0 has two lanes, on positions 0 and 1, and spare 0 on position 4. -/
def record (m : Mode) : LinkRec :=
  { mode := m, first := 0, width := 2, rates := 1, loopTimed := false, pllA := 1, pllB := 1, spare0 := some 4, spare1 := none
    sparePol := .warmIdle, predict := true, recalUse := true, lossPol := .spare, safety := true, mgmtLane := some 0
    join := .host, decode := false, comma := true, markers := true, deskew := 7, master := 0 }

def image (r : LinkRec) : LastImg :=
  { LastImg.default with
    links := (Vector.replicate 8 none).set 0 (some r), pllfam := #v[.f10, .off, .f10, .off]
    mgmt := ⟨true, true, true, #v[0x3FFF, 0x3FFF, 0x3FFF], #v[0x3FFF, 0x3FFF, 0x3FFF]⟩ }

/-- The part with link 0 in a state of its own; every receiver has its locks, every transmitter is on. -/
def linked (r : LinkRec) (f : Link → Link) : State := { up with
  last := { up.last with working := image r, old := image r }
  welt := { up.welt with closed := Vector.replicate 18 false, cmdOpen := Vector.replicate 18 true }
  lanes := up.lanes.map fun n => { n with
    rx := { n.rx with sigDet := true, cdrLock := true, symLock := true }, tx := { n.tx with on := true } }
  links := vmod up.links 0 fun k => f { k with
    join := .joined, index := 1, capLink := 0x7F, mlaneOk := true, epochOk := true, width := 2, rate := 1, capAB := 8, capBA := 8
    detA := 3, detB := 3, detwA := 2, detwB := 2, spares := Vector.replicate 4 (spareAs .warm 0) } }

/-- The Participating link in a training state. -/
def inState (st : TrainState) : State := linked (record .participating) fun k => { k with st := st }
def active : State := inState .active
def transparent : State := linked (record .transparent) fun k => { k with st := .notTraining }

/-- A Job of work queue 1, of context 0, with an entry of given bytes. -/
def job (bytes : List Byte) : Job :=
  { wq := some 1, ctx := 0, urgent := false, entry := ⟨3, (bytes ++ List.replicate 64 0).take 64, true, 0, 0⟩, uid := 7, done := 0
    hold := none, prog := .plain, resumes := 0, sent := false, result := none }

/-- The first bytes of an entry: opcode, one slot, then words. -/
def entryOf (op : Byte) (words : List Nat) : List Byte := [op, 1, 5, 0] ++ words.flatMap (bytesLE 4)

def onMover (j : Job) : State := { up with
  store := { up.store with tags := List.range 8 }
  units := { up.units with movers := vput up.units.movers 2 (some j) } }

def onNvm (j : Job) : State := { up with
  store := { up.store with tags := List.range 8 }
  units := { up.units with nvm := some j } }

def onLane (j : Job) : State := { active with
  store := { up.store with tags := List.range 80 }
  units := { up.units with lane := vput up.units.lane 0 (some j) } }

/-- Work queue 1 has no owner, a ring at 0x40 of 16 slots whose first one holds given bytes, and four slots to read. -/
def queued (op : Byte) (f : Wq → Wq) : State := { up with
  store := { up.store with tags := List.range 8, cells := [(0x40, op), (0x41, 1), (0x42, 5)] }
  wqs := vmod up.wqs 1 fun w => f { w with code := .active, tail := 4, ringVa := 0x40, sizeLog2 := 4, hdr := 4 } }

/-- A register is open to a context, for writes. -/
def writable (s : State) (c : Ctx) (r : Reg) : Bool := served s c && mayWrite s c (regAddr r) && !islandOff s (regIsland r)
def readable (s : State) (c : Ctx) (r : Reg) : Bool := served s c && mayRead s c (regAddr r) && !islandOff s (regIsland r)

theorem opens_of_writable {s : State} {c : Ctx} {r : Reg} (h : writable s c r = true) : opens s c r := by
  simpa [writable, opens, and_assoc] using h

theorem shows_of_readable {s : State} {c : Ctx} {r : Reg} (h : readable s c r = true) : shows s c r := by
  simpa [readable, shows, and_assoc] using h

/-! ### Ill-formed commands -/

theorem test_illformed_refused :
    Instr.wellFormed (.eepromTransfer (.bytes [])) = false ∧
    Instr.wellFormed (.eepromTransfer (.bytes (List.replicate 257 0))) = false ∧
    Instr.wellFormed (.scanPointDone .A 0 67108865) = false ∧
    Instr.wellFormed (.eyeSweepEnd .A 0 ⟨0, List.replicate 32 0, []⟩ ⟨[], []⟩) = false ∧
    Instr.wellFormed (.eyeSweepEnd .A 0 ⟨1048577, [], []⟩ ⟨[], []⟩) = false ∧
    Instr.wellFormed (.trainingSweepEnd .A 0 ⟨257, [], []⟩ ⟨[], []⟩) = false ∧
    Instr.wellFormed (.trainingSweepEnd .A 0 ⟨0, [], []⟩ ⟨[], List.replicate 65 0⟩) = false ∧
    Instr.wellFormed (.eyescan .A 0 (List.replicate 65 0)) = false ∧
    Instr.wellFormed (.captureTrigger .A 4) = false ∧ Instr.wellFormed (.jtagBypass 0x06) = false := by decide +kernel

theorem test_wellformed_taken :
    Instr.wellFormed (.eepromTransfer (.bytes (List.replicate 256 0))) = true ∧ Instr.wellFormed (.eepromTransfer .nack) = true ∧
    Instr.wellFormed (.scanPointDone .A 0 67108864) = true ∧ Instr.wellFormed (.captureTrigger .A 0xFF) = true ∧
    Instr.wellFormed (.jtagBypass 0x07) = true ∧ Instr.wellFormed .lastSelection = true := by decide +kernel

/-! ### Values that the spec prints -/

/-- The table gives no row any bits. -/
theorem test_no_word_decodes : decodeTableWord 32 0xDEADBEEF = none ∧ State.reset.withFetchWord 32 0 = State.reset := ⟨rfl, rfl⟩

/-- DEVID (18 R476), and where the registers of Table 18-3 lie. -/
theorem test_devid : regValue State.reset 0 .devid = 0x1162056B := by decide +kernel

/-- Dx.y in the column of either running disparity: D0.0 is 100111 0100 or 011000 1011, K28.5 001111 1010 or 110000 0101. -/
theorem test_code_groups :
    encodeSym (dataSym 0x00) false = 0b0010111001 ∧ encodeSym (dataSym 0x00) true = 0b1101000110 ∧
    encodeSym symCom false = 0b0101111100 ∧ encodeSym symCom true = 0b1010000011 := by decide +kernel

/-! ### The hypotheses of the statements are met: boot, the Welt, power (O3 to O21) -/

theorem test_meets_IdleCycleCountsTime : up.pending = [] ∧ up.boot.inReset = false ∧ State.reset.boot.inReset = true := ⟨rfl, rfl, rfl⟩

theorem test_meets_StepKeepsTables : up.canon = true ∧ ∃ t, step up = .next t := ⟨by decide +kernel, _, rfl⟩

theorem test_meets_StepKeepsHeelPagesUnwritable : up.guarded = true := by decide +kernel

theorem test_meets_StepKeepsWeltSafe : weltSafe up := by
  refine ⟨fun p _ => ?_, fun p _ sd => ?_⟩
  · revert p; decide +kernel
  · cases sd <;> (revert p; decide +kernel)

theorem test_meets_RingOnlyCommandsSpareTheStore : ringOnlyCmd .skipRateWindow = true := rfl

theorem test_meets_ResetEntryClearsTheRegisters :
    up.nvm.logErase = none ∧ up.nvm.own = [] ∧ up.units.nvm = none ∧ up.units.held = none ∧ Rail.vio ≠ .vddsw := by decide +kernel

theorem test_meets_DeviceCauseClosesEverything :
    up.boot.inReset = false ∧ devCause { up with dev := { up.dev with aside := true } } = true := by decide +kernel

theorem test_meets_OpenConfirmedTurnsTransmittersOn :
    let joining := linked (record .participating) fun k => { k with st := .notTraining, join := .joining }
    let s := { joining with welt := { joining.welt with closed := vput joining.welt.closed 0 true } }
    up.settled = true ∧ up.welt.cmdOpen[(0 : Pos)] = false ∧ active.welt.cmdOpen[(0 : Pos)] = true ∧
    (∀ l ∈ linksAt active.last.working 0, (getLink active l).join ≠ .joining) ∧
    s.settled = true ∧ linksAt s.last.working 0 = [0] ∧ (getLink s 0).join = .joining ∧
    (∀ q ∈ linkPoss s.last.working 0, q ≠ 0 → s.welt.closed[q] = false) ∧ isPart s 0 = true ∧
    (getLink s 0).st = .notTraining := by decide +kernel

theorem test_meets_SupplyEventsAreNoted :
    up.settled = true ∧ State.reset.settled = true ∧ (!up.boot.inReset && !up.power.told[railIx .vio]) = true ∧
    (!State.reset.boot.inReset && !State.reset.power.told[railIx .vio]) = false := by decide +kernel

theorem test_meets_WatchdogTripRestartsTheHeel :
    (State.reset.boot.inReset || State.reset.dev.standby) = true ∧ up.boot.inReset = false ∧ up.dev.standby = false := by decide +kernel

theorem test_meets_WeltMismatchActs :
    up.settled = true ∧ up.boot.inReset = false ∧ up.welt.mismatch[(17 : Pos)] = false ∧ up.welt.cmdOpen[(17 : Pos)] ≠ true ∧
    active.welt.cmdOpen[(0 : Pos)] ≠ false ∧ linksAt active.last.working 0 = [0] ∧ linksAt up.last.working 17 = [] := by decide +kernel

theorem test_meets_PllLossIsReported :
    active.boot.inReset = false ∧ active.dev.standby = false ∧ active.power.unlock[(4 : PllNo)] = false ∧
    active.last.working.pllfam[(0 : SidePll)] ≠ .off ∧ active.power.unlock[(0 : SidePll).castSucc] = false ∧ pllDown active 0 = false ∧
    { active with power := { active.power with unlock := vput active.power.unlock 4 true } }.power.unlock[(4 : PllNo)] = true := by
  decide +kernel

theorem test_meets_ThermalSampleHoldsThresholds :
    State.reset.settled = true ∧ State.reset.boot.inReset = true ∧ up.boot.inReset = false ∧ up.settled = true := by decide +kernel

theorem test_meets_ReleaseAndEndOfBoot :
    let held := { up with boot := { up.boot with inReset := true } }
    held.boot.inReset = true ∧ railsValid held = true ∧ (State.reset.boot.inReset && railsValid State.reset) = false ∧
    booting (bootAt 3) = true ∧ (bootAt 3).boot.phase = 3 ∧ devCause (bootAt 3) = false := by decide +kernel

theorem test_meets_EepromReadGoesOn :
    let s := { bootAt 1 with boot := { (bootAt 1).boot with bootsel := true } }
    let going := { s with boot := { s.boot with eeprom := ⟨[1], none⟩ } }
    readsEeprom up = false ∧ s.settled = true ∧ readsEeprom s = true ∧ s.boot.eeprom.data = [] ∧
    allOnes16 ((([0xFF] : List Byte) ++ List.replicate 64 0xFF).take 64) = true ∧
    allOnes16 ((([0] : List Byte) ++ List.replicate 64 0xFF).take 64) = false ∧
    (checkHeader ((([0] : List Byte) ++ List.replicate 64 0xFF).take 64) 65536).isSome = true ∧
    readsEeprom going = true ∧ going.boot.eeprom.data ≠ [] := by decide +kernel

/-- The factory image with SEQ 3 or 4. -/
def lastImage (seq : Nat) : List Byte :=
  factoryImage.take 12 ++ bytesLE 4 seq ++ (factoryImage.drop 16).take 4 ++
    bytesLE 4 (if seq = 3 then 0xE2C43AAE else 0x27FB93CD) ++ factoryImage.drop 24

theorem crc_from {l : List Byte} {a : BitVec 32} (n : Nat) (b : Nat) (h : (l.take n).foldl crc32Byte a = BitVec.ofNat 32 b) :
    l.foldl crc32Byte a = (l.drop n).foldl crc32Byte (BitVec.ofNat 32 b) := by
  rw [← h, ← List.foldl_append, List.take_append_drop]

theorem lastImage_check (q : Nat) (h : q = 3 ∨ q = 4) : imageCheck ((lastImage q).take 172) = if q = 3 then 0xE2C43AAE else 0x27FB93CD := by
  rcases h with rfl | rfl <;> unfold imageCheck crc32
  · rw [crc_from 43 2350268373 (by decide +kernel), crc_from 43 231231448 (by decide +kernel), crc_from 43 4212315866 (by decide +kernel)]
    decide +kernel
  · rw [crc_from 43 2762057186 (by decide +kernel), crc_from 43 3568624538 (by decide +kernel), crc_from 43 96601244 (by decide +kernel)]
    decide +kernel

/-- Slots that hold such images. -/
def slots (l : List (Nat × Nat)) : State := { bootAt 0 with nvm := { up.nvm with
  cells := l.flatMap fun q => (List.range 11).map fun i => (q.1 * 4096 + i, .data (((lastImage q.2 ++ zeros 4).drop (16 * i)).take 16)) } }

theorem checkSlot_good {s : State} {k q : Nat} (h : q = 3 ∨ q = 4)
    (h1 : readUnits 1 s (k * 4096) = (some ((lastImage q).take 16), s))
    (h2 : readUnits 3 s (k * 4096 + 1) = (some (((lastImage q).drop 16).take 48), s))
    (h3 : readUnits 7 s (k * 4096 + 4) = (some ((lastImage q).drop 64 ++ zeros 4), s)) :
    ((checkSlot s k).1.2.map fun m => m.seq.toNat) = some q := by
  have e : (lastImage q).take 16 ++ ((lastImage q).drop 16).take 48 ++ ((lastImage q).drop 64 ++ zeros 4) = lastImage q ++ zeros 4 := by
    rcases h with rfl | rfl <;> decide +kernel
  have e1 : allOnes16 ((lastImage q).take 16) = false := by rcases h with rfl | rfl <;> decide +kernel
  have e2 : checkHeader ((lastImage q).take 16 ++ ((lastImage q).drop 16).take 48) 65536 = none := by
    rcases h with rfl | rfl <;> decide +kernel
  have e3 : (leAt ((lastImage q).take 16 ++ ((lastImage q).drop 16).take 48) 0x08 4 - 64 + 15) / 16 = 7 := by
    rcases h with rfl | rfl <;> decide +kernel
  have e4 : checkHeader (lastImage q ++ zeros 4) 65536 = none := by rcases h with rfl | rfl <;> decide +kernel
  have e5 : (lastImage q ++ zeros 4).take (leAt (lastImage q ++ zeros 4) 0x08 4) = (lastImage q).take 172 := by
    rcases h with rfl | rfl <;> decide +kernel
  have e6 : BitVec.ofNat 32 (leAt (lastImage q ++ zeros 4) 0x14 4) = if q = 3 then 0xE2C43AAE else 0x27FB93CD := by
    rcases h with rfl | rfl <;> decide +kernel
  unfold checkSlot checkBody checkImage
  simp only [h1, h2, h3, e, e1, e2, e3, e4, e5, e6, lastImage_check q h, Bool.false_eq_true, if_false, not_true_eq_false, ne_eq]
  rcases h with rfl | rfl <;> decide +kernel

theorem slots_noTorn (n : NvmSt) (h : n.cells.all (fun c => c.2 != .torn) = true) (u : Nat) : n.cell u ≠ .torn := by
  unfold NvmSt.cell
  generalize n.cells = l at h
  induction l with
  | nil => simp [tabGet]
  | cons c r ih =>
    simp only [List.all_cons, Bool.and_eq_true, bne_iff_ne, ne_eq] at h
    unfold tabGet
    split
    · exact h.1
    · exact ih h.2

/-- Slots 1 and 2 with either order of SEQ, with one SEQ, one alone, slot 0 alone, and none. -/
theorem test_meets_SelectionTakesOneLast_slots :
    let seq := fun (l : List (Nat × Nat)) (k : Nat) => (checkSlot (slots l) k).1.2.map fun m => m.seq.toNat
    (seq [(1, 3), (2, 4)] 1 = some 3 ∧ seq [(1, 3), (2, 4)] 2 = some 4) ∧ (seq [(1, 4), (2, 3)] 1 = some 4 ∧ seq [(1, 4), (2, 3)] 2 = some 3) ∧
    (seq [(1, 3), (2, 3)] 1 = some 3 ∧ seq [(1, 3), (2, 3)] 2 = some 3) ∧ (seq [(1, 3)] 1 = some 3 ∧ seq [(1, 3)] 2 = none) ∧
    (seq [(2, 4)] 1 = none ∧ seq [(2, 4)] 2 = some 4) ∧ (seq [(0, 3)] 0 = some 3 ∧ seq [(0, 3)] 1 = none ∧ seq [(0, 3)] 2 = none) ∧
    (seq [] 0 = none ∧ seq [] 1 = none ∧ seq [] 2 = none) ∧ ∀ u, (slots [(1, 3), (2, 4)]).nvm.cell u ≠ .torn := by
  have g := fun {l k q} h a b c => @checkSlot_good (slots l) k q h a b c
  refine ⟨⟨g (.inl rfl) rfl rfl rfl, g (.inr rfl) rfl rfl rfl⟩, ⟨g (.inr rfl) rfl rfl rfl, g (.inl rfl) rfl rfl rfl⟩,
    ⟨g (.inl rfl) rfl rfl rfl, g (.inl rfl) rfl rfl rfl⟩, ⟨g (.inl rfl) rfl rfl rfl, by decide +kernel⟩,
    ⟨by decide +kernel, g (.inr rfl) rfl rfl rfl⟩, ⟨g (.inl rfl) rfl rfl rfl, by decide +kernel, by decide +kernel⟩,
    ⟨by decide +kernel, by decide +kernel, by decide +kernel⟩, slots_noTorn _ (by decide +kernel)⟩

theorem test_meets_SelectionTakesOneLast :
    let due := fun s : State => booting s && s.boot.phase.toNat ≤ 1 && !chosen s && !readsEeprom s
    let read := { bootAt 0 with boot := { (bootAt 0).boot with bootsel := true, eeprom := ⟨[], some 0x03⟩ } }
    due up = false ∧ due (bootAt 0) = true ∧ (bootAt 0).boot.bootsel = false ∧ due read = true ∧ accepted 0x01 = true := by decide +kernel

theorem test_meets_BootAppliesAndCalibrates :
    let s := { bootAt 1 with last := { up.last with slot1 := 0x02 } }
    booting s = true ∧ s.boot.phase = 1 ∧ chosen s = true ∧ (booting up && up.boot.phase == 1 && chosen up) = false ∧
    (bootAt 2).settled = true ∧ booting (bootAt 2) = true ∧ (bootAt 2).boot.phase = 2 := by decide +kernel

theorem test_meets_CalrecWriteSwitchesCopies :
    let s := { up with cal := { up.cal with pending := true } }
    s.settled = true ∧ (recordDue up && engineIdle up) = false ∧ recordDue s = true ∧ engineIdle s = true := by decide +kernel

/-! ### Registers (O22 to O27, O54) -/

theorem test_meets_RegisterMapIsOneToOne : (0x101 : Word).toNat / 4 = (0x100 : Word).toNat / 4 ∧ 0x7FFFFC % 4 = 0 := by decide

theorem test_meets_AccessesAreCheckedInOrder :
    served State.reset 0 = false ∧ served up 0 = true ∧ mayWrite up 3 0x00000100 = false ∧ mayRead up 3 0x00000100 = false ∧
    mayWrite up 0 (regAddr (.lnctl .A 17)) = true ∧ decodeAddr (regAddr (.lnctl .A 17)) ≠ .none ∧
    islandOff up (decodeAddr (regAddr (.lnctl .A 17))).island = true ∧
    mayRead up 0 0xFFFFFFFC = true ∧ decodeAddr 0xFFFFFFFC = .none ∧ decodeAddr 0x040FFFFC = .nvm 0xFFFFC ∧ mayWrite up 0 0x040FFFFC = true ∧
    islandOff up .nvm = false := by decide +kernel

theorem test_meets_RegisterReadClearsOnlyItsCounts : up.settled = true ∧ shows up 0 .tmmiss ∧ shows up 0 (.imccnt .B) ∧ shows up 0 .devid :=
  ⟨by decide +kernel, shows_of_readable (by decide +kernel), shows_of_readable (by decide +kernel), shows_of_readable (by decide +kernel)⟩

theorem test_meets_DtimeHalvesAreReadTogether : shows up 0 .dtimeLo ∧ shows up 0 .dtimeHi ∧ Reg.devid ≠ .dtimeLo :=
  ⟨shows_of_readable (by decide +kernel), shows_of_readable (by decide +kernel), by decide⟩

theorem test_meets_PlainRegistersHoldWhatIsWritten : ∀ r ∈ [Reg.nvmwsel, .dtrate, .dtloadLo, .dtloadHi, .twbctl, .imcctl, .tmthresh 11,
    .lnprbsusr .A 0, .evtmask], opens active 0 r :=
  fun r h => opens_of_writable (by revert r; decide +kernel)

theorem test_meets_RefusedReadClearsNothing :
    served up 3 = true ∧ mayRead up 3 (regAddr .tmmiss) = false ∧
    islandOff up (decodeAddr (regAddr (.lnstat .B 17))).island = true := by decide +kernel

/-! ### Telemetry, time, calibration (O28 to O32) -/

theorem test_meets_SequencersTakeTheirTriggers :
    let timed := fun q : SeqrSt => { q with prog := { q.prog with on := true, trig := 0 } }
    let on := fun (f : SeqrSt → SeqrSt) =>
      ({ up with tm := { up.tm with seqrs := vmod up.tm.seqrs 1 (fun q => f (timed q)) } } : State)
    let fires := fun s : State => !(s.boot.inReset || s.dev.standby) && s.tm.seqrs[(1 : SeqNo)].prog.trig == 0 && s.tm.seqrs[(1 : SeqNo)].prog.on
    (on id).settled = true ∧ fires up = false ∧ fires (on id) = true ∧ fires (on fun q => { q with hold := true }) = true ∧
    fires (on fun q => { q with running := true }) = true ∧ writable up 0 (.tmseqctl 1) = true := by decide +kernel

theorem test_meets_DecimatorOutputsFillTheirChannel :
    let s := { up with tm := { up.tm with conv := some 0, outs := 2, seqrs := vmod up.tm.seqrs 0 fun q =>
      { q with cur := { q.cur with chan := Vector.replicate 16 11 } } } }
    (State.reset.dev.standby || State.reset.boot.inReset) = true ∧ up.tm.outs < 2 ∧ s.settled = true ∧ ¬ s.tm.outs < 2 ∧
    s.tm.conv = some 0 ∧ s.cal.adcCal = false ∧
    (s.tm.seqrs[(0 : SeqNo)].cur.chan.toList.getD s.tm.seqrs[(0 : SeqNo)].slot 0xFF).toNat = (11 : Fin 12).val ∧
    up.tm.conv = none := by decide +kernel

theorem test_meets_DtimeIsLoadedAndCaptured :
    writable up 0 .syncctl = true ∧ (State.reset.time.syncDis || State.reset.boot.inReset) = true ∧
    up.time.edgeAt ≠ some up.time.elapsed ∧
    writable { up with time := { up.time with edgeAt := some up.time.elapsed } } 0 .syncctl = true ∧
    (up.time.syncDis || up.boot.inReset) = false ∧ up.dev.standby = false ∧ up.cal.adcCal = false := by decide +kernel

theorem test_meets_CalcmdHoldsOneRequest :
    writable active 0 .calcmd = true ∧ evaluated active 0 = true ∧ evaluated active 17 = false ∧ (0 : Word).getLsbD 7 = false ∧
    (0 : Word).getLsbD 6 = false := by decide +kernel

theorem test_meets_RecalibrationRunsItsCourse :
    let trims : RecalSt := recalFor active 0 .AB 3 .trimming
    let running := fun (m : RecalSt) => ({ active with cal := { active.cal with busy := true, recal := some m } } : State)
    (!State.reset.boot.done || State.reset.dev.standby) = true ∧ (!active.boot.done || active.dev.standby) = false ∧
    active.cal.busy = false ∧ active.cal.recal = none ∧ (running trims).settled = true ∧ trims.stage = .trimming ∧ trims.mode = 3 ∧
    (running { trims with mode := 2 }).settled = true ∧ active.cal.dueList = [] := by decide +kernel

theorem test_meets_quiet : ∀ l n d, (getSpare active l n d).code ≠ .standin := by
  intro l n d
  cases d <;> (revert l n; decide +kernel)

/-! ### The Store, the Windows, the NVM (O33 to O37) -/

/-- Page 0 of C1 maps to page 0x7FF of the Store with every right, its last line written; page 1 may not be read. -/
def windowed : State := { up with
  store := { up.store with tags := [0x1FFFF] }
  win := { up.win with entries := Vector.replicate 3 [(0, 0x707FF), (1, 0x50000)] }
  last := { up.last with working := image (record .participating) } }

theorem test_meets_StoreIsReachedThroughWindows :
    let bad := fun e : Ecc => ({ windowed with store := { windowed.store with upsets := [(0xFFFFF, e)] } } : State)
    windowed.settled = true ∧ Memory.wf windowed.store = true ∧ served windowed 1 = true ∧ islandOff windowed .store = false ∧
    mayRead windowed 1 (virtualAt 0xFFC) = true ∧ mayWrite windowed 1 (virtualAt 0xFFC) = true ∧
    windowed.store.tagged (lineOf 0x7FFFFC) = true ∧
    windowed.store.tagged (lineOf 0x7FF000) = false ∧
    ({ windowed.store with poison := [0x1FFFF] } : StoreSt).poisoned (lineOf 0x7FFFFC) = true ∧
    tabGet .clean (0x7FFFFC / 8) windowed.store.upsets = .clean ∧ Memory.wf (bad .corrected).store = true ∧
    tabGet .clean (0x7FFFFC / 8) (bad .corrected).store.upsets = .corrected ∧
    tabGet .clean (0x7FFFFC / 8) (bad .uncorrectable).store.upsets = .uncorrectable := by decide +kernel

theorem test_meets_StoreIsReachedThroughWindows_pages : translate windowed 1 0xFFC false = .ok 0x7FFFFC ∧
    translate windowed 1 0x1000 false = .error causeNoRead ∧ translate windowed 1 0x2000 true = .error causeNotValid := ⟨rfl, rfl, rfl⟩

theorem test_meets_WindowEntriesAreStored :
    let locks := { windowed with win := { windowed.win with entries := Vector.replicate 3 [(0xFFF, 0xF0001)] } }
    windowed.win.wf = true ∧ locks.win.wf = true ∧ locks.settled = true ∧ writable windowed 1 (.winentry 0 (0xFFF : BitVec 12).toFin) = true ∧
    writable windowed 1 (.winctl 1) = true ∧ (winEntry locks 0 0xFFF).getLsbD 19 = true ∧
    (winEntry windowed 0 0).getLsbD 19 = false := by decide +kernel

theorem test_meets_ScrubbingAndCounts :
    let at' := fun (n : BitVec 17) (u : List (Nat × Ecc)) => { up with store := { up.store with scrubLine := n, tags := [0x100], upsets := u } }
    (State.reset.boot.inReset || State.reset.dev.standby) = true ∧ (up.boot.inReset || up.dev.standby) = false ∧
    up.store.tagged 0 = false ∧ (at' 0x1FFFF []).settled = true ∧ (at' 0x100 []).store.tagged 0x100 = true ∧
    (at' 0x100 []).store.poisoned 0x100 = false ∧ heelLine 0x100 = false ∧
    (∃ u ∈ (at' 0x100 [(0x807, .uncorrectable)]).store.upsets, (8 * 0x100 ≤ u.1 ∧ u.1 < 8 * 0x100 + 8) ∧ u.2 = .uncorrectable) ∧
    writable up 0 .storestat = true ∧ writable up 0 .nvmctl = true := by decide +kernel

theorem test_meets_NvmWindowAndLog :
    let waits := fun k : Nat => { up with nvm := { up.nvm with logWait := [⟨1, 0x0101, 0, 5, []⟩], tokens := k } }
    up.nvm.wf = true ∧ mayRead up 0 (0x04000000 + (0xFFFFC : BitVec 20).setWidth 32) = true ∧ islandOff up .nvm = false ∧
    up.nvm.cell 0xFFFF ≠ .torn ∧ tabGet .clean 0xFFFF up.nvm.upsets = .clean ∧
    { up.nvm with upsets := [(0xFFFF, .corrected)] }.wf = true ∧ { up.nvm with upsets := [(0xFFFF, .uncorrectable)] }.wf = true ∧
    (waits 0).settled = true ∧ logMayWrite (waits 0) = true ∧ (waits 0).nvm.logErase = none ∧ (waits 0).nvm.logSlot + 1 < 128 ∧
    (waits 0).nvm.eraseDue = false ∧ (waits 0).nvm.marks = [] ∧
    nextLog (waits 0).nvm (waits 0).nvm.logSector ≠ (waits 0).nvm.logSector ∧
    sectorErased (waits 0).nvm (nextLog (waits 0).nvm (waits 0).nvm.logSector) = true ∧
    (waits 0).nvm.tokens = 0 ∧ (waits 128).nvm.tokens ≠ 0 := by decide +kernel

/-- The log's last slot, with two dirty sectors. -/
theorem test_meets_NvmWindowAndLog_rotation :
    let full := { up with nvm := { up.nvm with logWait := [⟨1, 0x0101, 0, 5, []⟩], logSlot := 127, dirty := [52, 200] } }
    let busy := { full with
      units := { full.units with nvm := some { job (entryOf 0x42 [0x100FF]) with prog := .nvmErase true 1 } }
      nvm := { full.nvm with suspended := true } }
    full.settled = true ∧ full.nvm.wf = true ∧ logMayWrite full = true ∧ full.nvm.tokens ≠ 0 ∧ full.nvm.logSlot = 127 ∧
    nextErased full.nvm full.nvm.logSector = some 51 ∧ engineIdle full = true ∧ nextLog full.nvm 51 ≠ 51 ∧
    nextLog full.nvm 51 ≠ full.nvm.logSector ∧ full.nvm.dirty[1]? = some 200 ∧
    busy.settled = true ∧ logMayWrite busy = true ∧ engineIdle busy = false := by decide +kernel

/-- NVM_PROGRAM of 16 bytes from 0 to the last unit, NVM_ERASE of the last sector, NVM_READ of 16 bytes. -/
def programs : Job := job (entryOf 0x41 [0xFFFF0, 16, 0])
def erases : Job := job (entryOf 0x42 [0x100FF])
def reads : Job := job (entryOf 0x40 [0xFFFF0, 16, 0])

theorem test_meets_NvmJobsDoTheirUnits :
    let long : Job := job (entryOf 0x41 [0xFFE00, 512, 0])
    let last : Job := { long with prog := .nvmBuf (zeros 256) }
    let low : Job := job (entryOf 0x41 [0, 16, 0])
    let w := ownDone (onNvm programs)
    (∃ d, jobRead w programs.ctx (programs.entry.u32 0x0C + 0) (min 256 (programs.entry.u32 8 - 0)) programs.entry.uninit = (.ok d, w)) ∧
    (∃ d, jobRead (ownDone (onNvm last)) last.ctx (last.entry.u32 0x0C + 256) 256 last.entry.uninit = (.ok d, ownDone (onNvm last))) ∧
    (onNvm programs).settled = true ∧ (onNvm programs).nvm.wf = true ∧ ((onNvm programs).nvm.logErase.isNone || false) = true ∧
    runningJob (onNvm programs) .nvm opNvmProgram = some programs ∧ programs.prog = .plain ∧ programs.entry.u32 8 ≤ 16 ∧
    runningJob (onNvm long) .nvm opNvmProgram = some long ∧ 256 < long.entry.u32 8 ∧
    runningJob (onNvm last) .nvm opNvmProgram = some last ∧ (zeros 256).length < last.entry.u32 8 ∧
    runningJob (onNvm low) .nvm opNvmProgram = some low ∧ protectedSec (onNvm low) (low.entry.u32 4 / 4096) = true ∧
    protectedSec (onNvm programs) (programs.entry.u32 4 / 4096) = false ∧ (onNvm programs).nvm.dirty.contains 0xFF = false ∧
    ({ (onNvm programs).nvm with dirty := [0xFF] } : NvmSt).wf = true ∧
    (∀ i, i < programs.entry.u32 8 / 16 → (onNvm programs).nvm.cell (programs.entry.u32 4 / 16 + i) = .erased ∧
      tabGet .clean (programs.entry.u32 4 / 16 + i) (onNvm programs).nvm.upsets = .clean) ∧
    { (onNvm programs).nvm with upsets := [(0xFFFF, .uncorrectable)] }.wf = true := by
  refine ⟨⟨_, rfl⟩, ⟨_, rfl⟩, ?_⟩
  decide +kernel

theorem test_meets_NvmJobsDoTheirUnits_more :
    let data := fun b : Byte => onNvm { programs with prog := .nvmBuf (List.replicate 16 b) }
    let erasing : Job := { erases with prog := .nvmErase true 0 }
    let two : Job := { job (entryOf 0x42 [0x200FE]) with prog := .nvmErase true 0 }
    let low : Job := job (entryOf 0x42 [0x10000])
    let own := { up with nvm := { up.nvm with own := [.unit 3, .head 50] } }
    let cells := fun (c : NvmCell) => { reads with prog := .nvmRead 0 none 0 none [] } |> onNvm |> fun s =>
      ({ s with nvm := { s.nvm with cells := [(0xFFFF, c)] } } : State)
    runningJob (data 0) .nvm opNvmProgram = some { programs with prog := .nvmBuf (List.replicate 16 0) } ∧ (data 0).nvm.own = [] ∧
    cellOf (((List.replicate 16 (0 : Byte)).drop 0).take 16) ≠ .erased ∧ cellOf (((List.replicate 16 (0xFF : Byte)).drop 0).take 16) = .erased ∧
    own.settled = true ∧ own.nvm.wf = true ∧
    runningJob (onNvm erases) .nvm opNvmErase = some erases ∧ (onNvm erases).nvm.logErase = none ∧
    (∀ i, i < erases.entry.u16 6 → eraseBarred (onNvm erases) (erases.entry.u16 4 + i) = false) ∧
    runningJob (onNvm low) .nvm opNvmErase = some low ∧
    ((List.range (low.entry.u16 6)).map (low.entry.u16 4 + ·)).find? (eraseBarred (onNvm low)) = some 0 ∧
    runningJob (onNvm erasing) .nvm opNvmErase = some erasing ∧ (onNvm erasing).nvm.suspended = false ∧
    erasing.entry.u16 6 ≤ erasing.done + 1 ∧ runningJob (onNvm two) .nvm opNvmErase = some two ∧ two.done + 1 < two.entry.u16 6 ∧
    runningJob (cells .torn) .nvm opNvmRead = some { reads with prog := .nvmRead 0 none 0 none [] } ∧ (cells .torn).nvm.wf = true ∧
    (cells .torn).nvm.cell 0xFFFF = .torn ∧ (cells (.data (zeros 16))).nvm.cell 0xFFFF ≠ .torn ∧
    reads.entry.u8 0x10 % 2 = 0 ∧ reads.entry.u8 0x10 / 2 % 2 = 0 ∧ reads.entry.u32 8 ≤ 16 ∧
    (readUnit { cells .torn with nvm := { (cells (.data (zeros 16))).nvm with upsets := [(0xFFFF, .uncorrectable)] } } 0xFFFF).1 = .bad ∧
    (readUnit (ownDone (cells (.data (zeros 16)))) 0xFFFF).1 ≠ .bad ∧
    (jobWrite (readUnit (ownDone (cells (.data (zeros 16)))) 0xFFFF).2.2 0 (reads.entry.u32 0x0C) (zeros 16)).1 = none ∧
    (16 % 256 ≠ 0 ∧ 16 < (job (entryOf 0x40 [0xFFF00, 256, 0])).entry.u32 8) ∧ 256 < (job (entryOf 0x40 [0xFFE00, 512, 0])).entry.u32 8 := by
  decide +kernel

/-! ### JTAG, two wires, in-band (O38 to O41) -/

theorem test_meets_TapLoadsInstructions :
    (up.power.valid[5] && up.pins.trstN) = true ∧ (State.reset.power.valid[5] && State.reset.pins.trstN) = false ∧
    6 < (7 : BitVec 8).toNat := by decide +kernel

theorem test_meets_TwoWireFramesAndPointer :
    let s := { windowed with twb := { up.twb with reading := some false, loaded := true, bytes := 252 } }
    let rd := fun a : Word => ({ windowed with twb := { up.twb with reading := some true, ptr := a, stretchDis := true } } : State)
    let asleep := { windowed with dev := { up.dev with standby := true }, twb := { up.twb with awake := false } }
    served windowed 1 = true ∧ sdaOff windowed = false ∧ (windowed.dev.standby && !windowed.twb.awake) = false ∧
    (0x58#7 ||| up.boot.addr.setWidth 7) = 0x58 ∧ asleep.settled = true ∧ served asleep 1 = true ∧ sdaOff asleep = false ∧
    (asleep.dev.standby && !asleep.twb.awake) = true ∧ asleep.twb.reading = none ∧
    s.settled = true ∧ s.twb.reading = some false ∧ s.twb.loaded = true ∧ s.twb.bytes < 256 ∧
    (rd 0).settled = true ∧ (rd 0).twb.bytes < 256 ∧ readyAtOnce (rd 0) 0 = true ∧
    (rd 0x02000FFC).settled = true ∧ readyAtOnce (rd 0x02000FFC) 0x02000FFC = false := by decide +kernel

theorem test_meets_StuckLinesAreReported :
    (State.reset.boot.inReset || State.reset.twb.toutDis) = true ∧ up.boot.inReset = false ∧ up.twb.toutDis = false ∧
    readsEeprom up = false := by decide +kernel

/-- A MOS of node 0 to node 1, type 1 (RD), with its CRC. -/
def mos : Mos := let p : Vector Byte 11 := #v[0x11, 0, 0x50, 0, 0, 0, 0, 1, 0, 0, 0]; ⟨p, crc16 p.toList⟩

theorem test_meets_InbandChannelServes :
    active.settled = true ∧ (getLink active 0).join = .joined ∧ mgmtSym active 0 .A = true ∧ mgmtLost active 0 .A = false ∧
    consumes active 0 = true ∧ Mos.crcOk mos = true ∧ Mos.crcOk { mos with crc := mos.crc + 1 } = false ∧
    Mos.dst mos = (getLink active 0).index ∧ Mos.src mos = Side.A.node ∧ Mos.src mos ≠ Side.B.node ∧ imcFlag active .A = true ∧
    seqClass (seqOf (getLink active 0) .A) 0xFFF = .new ∧ (waitingResponses active 0 .A).length < 8 ∧
    mayRead active 2 (regAddr .devid) = true ∧ mayWrite active 2 (regAddr .dtrate) = true ∧ mayWrite active 2 0x01000000 = false ∧
    (seqOf (getLink (readOpen (modSeq (padInstead active 0 .A) 0 .A (seqAccept · 0xFFF)) 2 (regAddr .devid)).2 0) .A).valid = true ∧
    (seqOf (getLink (writeOpen (modSeq (padInstead active 0 .A) 0 .A (seqAccept · 0xFFF)) 2 (regAddr .dtrate) 1) 0) .A).valid = true := by
  decide +kernel

theorem test_meets_InbandChannelServes_again :
    let r : OutMos := ⟨mosPrio mosAck, 0, mosAck, 7, [], false⟩
    let s := modSeq active 0 .A fun _ => { Reset.seqSt with valid := true, last := 7, acc := 1, resps := [r] }
    let low := { active with
      evt := { active.evt with attn := 1 }
      imc := { active.imc with attnWas := true, notifyA := true, notifyMs := 10 } }
    s.settled = true ∧ seqClass (seqOf (getLink s 0) .A) 7 = .duplicate ∧
    (seqOf (getLink s 0) .A).resps.find? (fun r => r.seq == 7) = some r ∧
    low.settled = true ∧ attnLow low = true ∧ notifyOn low .A = true ∧ allLinks.find? (channelOn low .A) = some 0 := by decide +kernel

/-! ### Queues, units, Jobs (O42 to O49) -/

theorem test_meets_WorkQueueRegistersAct :
    let free := { windowed with wqs := vmod up.wqs 31 fun w => { w with cfg := { w.cfg with owner := some 0 } } }
    let owned := { up with
      store := { up.store with tags := [0], cells := [(1, 0x40), (4, 4)] }
      last := { up.last with working := image (record .participating) }
      wqs := vmod up.wqs 31 fun w => { w with cfg := { w.cfg with owner := some 0, cq := 0 } }
      cqs := vmod up.cqs 0 fun k => { k with code := .active } }
    let parked := { up with
      wqs := vmod up.wqs 31 fun w => { w with code := .active }
      slots := vmod up.slots 7 fun x => { x with code := .faulted, job := some { job [] with wq := some 31 } } }
    writable free 1 (.wqctl 31) = true ∧ writable free 1 (.wqdb 31) = true ∧ (getWq up 31).code = .disabled ∧ (getWq up 31).cfg.owner = none ∧
    owned.settled = true ∧ (getWq owned 31).cfg.owner ≠ none ∧ (getCq owned (getWq owned 31).cfg.cq).code = .active ∧
    (getCq up 0).code ≠ .active ∧ parked.settled = true ∧ (getWq parked 31).code = .active ∧
    (parked.slots[(7 : SlotNo)]).code = .faulted ∧ (up.slots[(7 : SlotNo)]).code ≠ .faulted ∧
    (let w := getWq (queued 1 id) 1; (4 - w.head).toNat ≤ 2 ^ w.sizeLog2 ∧ 2 ^ w.sizeLog2 < (17 - w.head : BitVec 16).toNat) := by
  decide +kernel

theorem test_meets_CompletionQueueRegistersAct :
    let owned := { windowed with cqs := vmod up.cqs 7 fun k => { k with owner := some 0 } }
    let runs := { up with cqs := vmod up.cqs 7 fun k => { k with owner := some 0, code := .active, tail := 3, head := 1 } }
    writable owned 1 (.cqctl 7) = true ∧ writable owned 1 (.cqhead 7) = true ∧ (getCq up 7).code = .disabled ∧ (getCq up 7).owner = none ∧
    owned.settled = true ∧ (getCq owned 7).owner ≠ none ∧ (getCq owned 7).base.toNat * 64 + 16 * 2 ^ 12 ≤ 0x1000000 ∧
    (∀ q, namesCq owned 7 q = true → (getWq owned q).held = none) ∧ runs.settled = true ∧ (getCq runs 7).due = [] ∧
    ((getCq runs 7).tail - 3).toNat ≤ ((getCq runs 7).tail - (getCq runs 7).head).toNat ∧
    ((getCq runs 7).tail - (getCq runs 7).head).toNat < ((getCq runs 7).tail - 0).toNat ∧
    ({ getCq up 7 with code := .error } : Cq).code = .error := by decide +kernel

/-- A NOP, or another entry, is at the front of queue 1; its batch has no batch end, and the header is due. -/
def waits (op : Byte) : State := queued op fun w => { w with
  waiting := [⟨0, entryOf op [], true, 0, 0⟩], batches := [⟨0, 1, 0, 0, none⟩], head := 1, hdrDue := true }

theorem test_meets_QueuesRun :
    let filler := queued 0xFF fun w => { w with head := 15 }
    let busy := { waits 2 with units := { up.units with inband := some (job []) } }
    let ends := { up with cqs := vmod up.cqs 0 fun k => { k with code := .active, sizeLog2 := 4, due := [⟨1, []⟩] } }
    let drains := queued 1 fun w => { w with code := .draining }
    let thenFence := fun d : Option (BitVec 16 × List Nat) => queued 1 fun w => { w with
      waiting := [⟨0, entryOf 1 [], true, 0, 0⟩, ⟨1, entryOf 2 [], true, 0, 1⟩], batches := [⟨0, 2, 0, 0, none⟩], head := 2, fenceDue := d }
    let cb : QEntry := ⟨1, entryOf 3 [], true, 0, 1⟩
    let closing := queued 1 fun w => { w with
      waiting := [⟨0, entryOf 1 [], true, 0, 0⟩], batches := [⟨0, 1, 0, 0, some cb⟩], head := 2, cfg := { w.cfg with cq := 0 } }
    let closes := { closing with
      cqs := vmod up.cqs 0 fun k => { k with code := .active, sizeLog2 := 4 } }
    (queued 1 id).settled = true ∧ (getWq (queued 1 id) 1).tail ≠ (getWq (queued 1 id) 1).head ∧ heldSlots (getWq (queued 1 id) 1) < 32 ∧
    reservedClear ([1, 1, 5] ++ zeros 13) = true ∧ (opLen 1).isSome = true ∧
    operandsOk up.last.working ⟨0, [1, 1, 5] ++ zeros 13, false, 0, 0⟩ = true ∧ filler.settled = true ∧
    2 ^ 4 - (getWq filler 1).head.toNat % 2 ^ 4 ≤ ((getWq filler 1).tail - (getWq filler 1).head).toNat ∧
    readyEntry (waits 1) 1 none = some ⟨0, entryOf 1 [], true, 0, 0⟩ ∧ (waits 1).settled = true ∧
    (readyEntry (waits 2) 1 none).map (·.opcode) = some opFence ∧ jobsOf (waits 2) 1 = [] ∧ jobsOf busy 1 ≠ [] ∧
    operandsOk up.last.working ⟨0, [2, 1, 5] ++ zeros 13, false, 0, 0⟩ = true ∧ reservedClear ([2, 1, 5] ++ zeros 13) = true ∧
    (opLen 2).isSome = true ∧ (waits 1).wqs[1].waiting[1]? = none ∧ (thenFence none).settled = true ∧
    readyEntry (thenFence none) 1 none = some ⟨0, entryOf 1 [], true, 0, 0⟩ ∧
    ((getWq (thenFence none) 1).waiting[1]?.map (·.opcode)) = some opFence ∧ (getWq (thenFence none) 1).fenceDue = none ∧
    closes.settled = true ∧ readyEntry closes 1 none = some ⟨0, entryOf 1 [], true, 0, 0⟩ ∧
    (getCq closes (getWq closes 1).cfg.cq).code = .active ∧
    ((getCq closes 0).tail - (getCq closes 0).head).toNat + (getCq closes 0).due.length < 2 ^ (getCq closes 0).sizeLog2.toNat ∧
    (entryOf 2 []).getD 4 0 = 0 ∧
    (getWq (waits 1) 1).hdrDue = true ∧ (getWq (waits 1) 1).hdrOff = false ∧
    ends.settled = true ∧ (getCq ends 0).code = .active ∧ drains.settled = true ∧ (getWq drains 1).code = .draining ∧
    jobsOf drains 1 = [] ∧ (getWq drains 1).fence = none ∧ (getWq drains 1).clearAtOff = false := by decide +kernel

theorem test_meets_QueuesRun_reach :
    jobRead (queued 1 id) (wqCtx (queued 1 id) 1) 0x40 16 false = (.ok ([1, 1, 5] ++ zeros 13), queued 1 id) ∧
    (∃ n s, jobWrite (waits 1) (wqCtx (waits 1) 1) ((getWq (waits 1) 1).hdr.toNat * 64 + 8) (zeros 8) = (none, n, s)) ∧
    translate up (cqCtx up 0) 0 true = .ok 0 := ⟨rfl, ⟨_, _, rfl⟩, rfl⟩

theorem test_meets_UnitsTakeAndReleaseJobs :
    let front := queued 0x10 fun w => { w with waiting := [⟨0, entryOf 0x10 [], true, 0, 0⟩], batches := [⟨0, 1, 0, 0, none⟩] }
    let ready := { up with slots := vmod up.slots 7 fun x => { x with code := .ready, job := some (job (entryOf 0x10 [])) } }
    let ended := onMover { job (entryOf 0x10 []) with result := some (stOk, 0) }
    front.settled = true ∧ freeMover front = some 0 ∧ ((urgentCandidate front .mover).or (normalCandidate front .mover false)).isSome = true ∧
    ready.settled = true ∧ slotFor ready .mover false = some 7 ∧
    let due := { up with nvm := { up.nvm with eraseDue := true } }
    due.settled = true ∧ due.units.nvm = none ∧ due.nvm.logErase = none ∧ nextLog due.nvm due.nvm.logSector ≠ due.nvm.logSector ∧
    ended.settled = true ∧ (getUnit ended (.mover 2)).isSome = true ∧ getUnit up .nvm = none := by decide +kernel

/-- All four Movers run, an URGENT queue waits, two Slots are free. -/
def crowded : State := { queued 0x10 (fun w => { w with
    cfg := { w.cfg with urgent := true }, waiting := [⟨0, entryOf 0x10 [], true, 0, 0⟩], batches := [⟨0, 1, 0, 0, none⟩] }) with
  units := { up.units with movers := Vector.replicate 4 (some { job (entryOf 0x10 [0x100, 0x140, 512, 0]) with wq := some 2 }) } }

theorem test_meets_UnitsTakeAndReleaseJobs_victim :
    crowded.settled = true ∧ freeMover crowded = none ∧ (urgentCandidate crowded .mover).isSome = true ∧ victim crowded = some 0 ∧
    freeSlots crowded = [0, 1, 2, 3, 4, 5, 6, 7] := by decide +kernel

/-- MOVE of 4 bytes from 0 to 64, a fill, a TELEMETRY snapshot, an IMC_SEND of a RETRAIN_REQ on link 0. -/
def moves (fill : Nat) : Job := job (entryOf 0x10 [0, 0x40, 4, fill])
def snaps (k : Nat) : Job := job (entryOf 0x60 [0x80, k])
def sends : Job := job (entryOf 0x70 [0x070300])

theorem test_meets_MoverAndInbandJobsRun :
    runningJob (onMover (moves 0)) (.mover 2) opMove = some (moves 0) ∧ (moves 0).entry.u8 0x10 % 2 = 0 ∧
    (jobWrite (onMover (moves 0)) 0 0x40 [0, 0, 0, 0]).1 = none ∧
    runningJob (onMover (moves 1)) (.mover 2) opMove = some (moves 1) ∧ (moves 1).entry.u8 0x10 % 2 = 1 ∧
    runningJob (onMover (snaps 0)) (.mover 2) opTelemetry = some (snaps 0) ∧ (snaps 0).entry.u8 8 = 0 ∧ (snaps 1).entry.u8 8 = 1 ∧
    up.tm.seqrs[(0 : SeqNo)].prog.trig ≠ 2 ∧ (onMover (moves 0)).settled = true ∧
    (let s := { active with units := { up.units with inband := some sends } }
     runningJob s .inband opImcSend = some sends ∧ imcOn (getLink s 0) = true ∧ imcOn (getLink up 0) = false ∧ sends.entry.u8 6 = 7 ∧
     s.settled = true ∧ (getLink s 0).capLink.getLsbD 1 = true ∧ (job (entryOf 0x70 [0x0A0300])).entry.u8 6 = 0x0A ∧
     ({ getLink s 0 with capLink := 0x11 } : Link).capLink.getLsbD 1 = false) := by decide +kernel

/-- A sequencer with TRIG Job and a Job that triggers it, or waits for it to end. -/
theorem test_meets_MoverAndInbandJobsRun_sequencer :
    let asked := fun q : SeqrSt => { q with prog := { q.prog with on := true, trig := 2 } }
    let s := fun (f : SeqrSt → SeqrSt) (j : Job) =>
      ({ onMover j with tm := { up.tm with seqrs := vmod up.tm.seqrs 0 (fun q => f (asked q)) } } : State)
    let waits := fun k : Nat => { snaps 1 with prog := .tele (some k) 12 }
    (s id (snaps 1)).settled = true ∧ runningJob (s id (snaps 1)) (.mover 2) opTelemetry = some (snaps 1) ∧
    (snaps 1).entry.u8 8 = (0 : SeqNo).val + 1 ∧ (s id (snaps 1)).tm.seqrs[(0 : SeqNo)].prog.trig = 2 ∧
    (s id (snaps 1)).tm.seqrs[(0 : SeqNo)].prog.on = true ∧ (s id (snaps 1)).tm.seqrs[(0 : SeqNo)].hold = false ∧
    (s id (snaps 1)).tm.seqrs[(0 : SeqNo)].running = false ∧
    (s (fun q => { q with prog := { q.prog with on := false } }) (snaps 1)).settled = true ∧
    (s (fun q => { q with hold := true }) (snaps 1)).settled = true ∧
    (s (fun q => { q with running := true, prog := { q.prog with policy := true } }) (snaps 1)).settled = true ∧
    (s (fun q => { q with running := true, pend := true }) (snaps 1)).settled = true ∧
    runningJob (s id (waits 1)) (.mover 2) opTelemetry = some (waits 1) ∧ runningJob (s id (waits 0)) (.mover 2) opTelemetry = some (waits 0) ∧
    (jobWrite (s id (waits 0)) 0 0x80 (zeros 64)).1 = none := by decide +kernel

/-- A CAPTURE of lane 0 of link 0 on side A into 1,024 bytes at 0x400: on lane 0's symbol with a TIMEOUT, or at once. -/
def captures (trig : Nat) (p : Prog) : Job := { job (entryOf 0x20 [0x400, 0x400, 0x100, 0, 0x640100 + trig]) with prog := p }

def onCap (j : Job) : State := { active with
  store := { up.store with tags := List.range 80 }
  units := { up.units with cap := vput up.units.cap 0 (some j) } }

theorem test_meets_CaptureAndLaneJobsRun_capture :
    let j := captures 0 .plain
    let armed := fun (k rows : Nat) (t : Option (Nat × Byte × BitVec 64)) (b : List Byte) =>
      captures k (.cap 0 0 rows (Vector.replicate 4 0x8000) t b)
    let waits := armed 1 3 none (zeros 6)
    let full := armed 0 5000 (some (0, 0xFF, 0)) (zeros 4)
    let lost := { waits with ctx := 1 }
    (onCap j).settled = true ∧ runningJob (onCap j) (capUnit .A) opCapture = some j ∧
    writeBlocked (onCap j) j.ctx (j.entry.u32 4) (0x40 + j.entry.u32 8) = none ∧
    (onCap waits).settled = true ∧ wordTrigger waits.entry (Vector.replicate 4 0) = some 0 ∧ waits.entry.u16 0x16 ≠ 0 ∧ (capFlush (onCap waits) waits).1 = none ∧
    writeBlocked (capFlush (onCap waits) waits).2.2 0 (waits.entry.u32 4) 64 = none ∧
    capFull full.entry 5000 (some (0, 0xFF, 0)) = true ∧ (capFlush (onCap full) full).1 = none ∧
    runningJob (onCap lost) (capUnit .A) opCapture = some lost ∧ (writeBlocked (onCap lost) lost.ctx 0x440 8).isSome = true := by
  decide +kernel

theorem test_meets_CaptureAndLaneJobsRun_link : captureLink (onCap (captures 0 .plain)) (captures 0 .plain).entry = .ok 0 := rfl

/-- An EYESCAN of lane A-0, 2 points by 2 rows; a PRBS of generator and checker of A-0 that injects, and the same on the spare on position 4. -/
def scans : Job := { job (entryOf 0x30 [0x02000000, 0x0200, 0x100]) with prog := .eye [] 0 [] 0 }
def prbsOf (p : Prog) : Job := { job (entryOf 0x31 [0x0300, 0, 0, 0x200, 5]) with prog := p }
def onSpare (j : Job) : State := { onLane j with units := { up.units with lane := vput up.units.lane 4 (some j) } }

theorem test_meets_CaptureAndLaneJobsRun_prbs :
    let j := prbsOf .plain
    let k := prbsOf (.prbs (0, 0) (some 0) false 0 0 none)
    (onLane j).settled = true ∧ runningJob (onLane j) (.lane .A 0) opPrbs = some j ∧ prbsJobRefusal (onLane j) .A 0 j.entry ≠ 0 ∧
    (onSpare j).settled = true ∧ runningJob (onSpare j) (.lane .A 4) opPrbs = some j ∧ prbsJobRefusal (onSpare j) .A 4 j.entry = 0 ∧
    (onSpare k).settled = true ∧ runningJob (onSpare k) (.lane .A 4) opPrbs = some k ∧ 0 < k.entry.u16 0x14 ∧ prbsGen k.entry = true ∧
    (∃ w y, jobWrite (coolIdle (prbsOff (setUnit (onSpare k) (.lane .A 4) (some { k with hold := some (0x200,
      prbsResult (onSpare k) .A 4 k.entry (0, 0) (some 0) false 0 0 false) })) .A 4 k.entry) 4) 0 0x200
      (prbsResult (onSpare k) .A 4 k.entry (0, 0) (some 0) false 0 0 false) = (none, w, y)) := by
  refine ⟨?_, ?_, ?_, ?_, ?_, ?_, ?_, ?_, ?_, ?_, _, _, rfl⟩ <;> decide +kernel

/-- A test that the part has ended, its result in hand: with a lock and without one. -/
theorem test_meets_CaptureAndLaneJobsRun_ended :
    let k := fun (locked : Option Nat) => { prbsOf (.prbs (0, 0) locked false 0 0 (some 7)) with hold := some (0x200, zeros 24) }
    (onSpare (k none)).settled = true ∧ runningJob (onSpare (k none)) (.lane .A 4) opPrbs = some (k none) ∧
    runningJob (onSpare (k (some 0))) (.lane .A 4) opPrbs = some (k (some 0)) ∧ prbsChk (k none).entry = true ∧
    (jobWrite (coolIdle (onSpare (k none)) 4) 0 0x200 (zeros 24)).1 = none := by decide +kernel

/-- A row of an EYESCAN that is not whole, the last row, and one whose lock does not come back. -/
theorem test_meets_CaptureAndLaneJobsRun_rows :
    let last := { scans with done := 2 }
    let k := scans.entry.u8 7
    let unlocked := modRx (onLane scans) .A 0 fun r => { r with cdrLock := false }
    ([3] : List Word).length < k ∧ ([3, 4] : List Word).length = k ∧ k * scans.entry.u8 9 = 4 ∧ scans.done + k < 4 ∧ 4 ≤ last.done + k ∧
    (onLane last).settled = true ∧ runningJob (onLane last) (.lane .A 0) opEyescan = some last ∧
    (jobWrite (onLane scans) 0 (scans.entry.u32 0x0C + 32) (zeros 4)).1 = none ∧
    (jobWrite (onLane last) 0 (last.entry.u32 0x0C) (zeros 32)).1 = none ∧
    runningJob unlocked (.lane .A 0) opEyescan = some scans ∧
    (jobWrite unlocked 0 (scans.entry.u32 0x0C + 32) (List.replicate 8 0xFF)).1 = none := by decide +kernel

theorem test_meets_CaptureAndLaneJobsRun :
    let unlocked := modRx (onLane scans) .A 0 fun r => { r with cdrLock := false }
    (onLane scans).settled = true ∧ runningJob (onLane scans) (.lane .A 0) opEyescan = some scans ∧
    (getLane (onLane scans) .A 0).rx.cdrLock = true ∧ isTap (onLane scans) 0 = false ∧ trainsSweep (onLane scans) .A 0 = false ∧
    unlocked.settled = true ∧ (getLane unlocked .A 0).rx.cdrLock = false := by decide +kernel

/-- A CAPTURE of TRIG 4 that is armed as a SYNC edge comes. -/
theorem test_meets_DtimeIsLoadedAndCaptured_capture :
    let j := captures 4 (.cap 0 0 0 (Vector.replicate 4 0x8000) none [])
    (onCap j).settled = true ∧ (onCap j).time.syncDis = false ∧ (onCap j).boot.inReset = false ∧ (onCap j).dev.standby = false ∧
    getUnit (onCap j) (.cap .A) = some j ∧ j.result = none ∧ j.entry.u8 0x14 = 4 := by decide +kernel

theorem test_meets_AwlEndsEveryNamedJob :
    let busy := { up with awl := { up.awl with busy := true, cmd := 9 } }
    let drains := { busy with wqs := vmod up.wqs 1 fun w => { w with code := .draining } }
    writable up 0 .awlcmd = true ∧ up.awl.busy = false ∧ busy.settled = true ∧ busy.awl.busy = true ∧
    laneOfByte 0x91 = some (.B, 17) ∧ laneOfByte 0x12 = none ∧ (fld drains.awl.cmd 3 5 : BitVec 5).toFin = (1 : WqNo) ∧
    (getWq drains 1).code = .draining ∧ inflight drains 1 = 0 := by decide +kernel

/-! ### Commits, joining, Standby, upsets (O51 to O55) -/

def lastStages : Job := job (entryOf 0x50 [0, 512])
def withLink (f : Link → Link) : State := { active with links := vmod active.links 0 f }

theorem test_meets_CommitsApplyLinkByLink :
    let staged := { active with
      links := active.links.map fun k => { k with join := if k.join == .joined then .joined else .waitHost }
      last := { active.last with shadow := .staged, staged := some active.last.working, stager := 0 } }
    let pending := fun x : PendKind => withLink fun k => { k with pend := x }
    (onMover lastStages).settled = true ∧ runningJob (onMover lastStages) (.mover 2) opLastStage = some lastStages ∧
    (checkStaged (zeros 512) 512).2 = none ∧ writable staged 0 .lastcmd = true ∧ writable active 1 .lastcmd = true ∧
    commitRefusal staged 0 1 = 0 ∧ commitRefusal active 0 1 ≠ 0 ∧ staged.settled = true ∧ staged.boot.done = true ∧ devCause staged = false ∧
    (∀ l, (getLink staged l).join ≠ .forced) ∧ (∀ l : LinkNo, staged.last.diff[l].toNat ≤ 1) ∧
    staged.last.shadow ≠ .empty ∧ staged.last.shadow ≠ .committing ∧ (0 : Ctx) = staged.last.stager ∧
    (pending .hitless).settled = true ∧ (getLink (pending .hitless) 0).pend = .hitless ∧ (getLink active 0).pend ≠ .switched ∧
    (pending .switched).settled = true ∧ (getLink (pending .switched) 0).pend = .switched := by decide +kernel

/-- A staged image in which link 0 alone differs, by a class. -/
def classed (c : BitVec 4) (s : State) : State := { s with
  links := s.links.map fun k => { k with join := if k.join == .joined then .joined else .waitHost }
  last := { s.last with shadow := .staged, staged := some s.last.working, stager := 0, diff := vput s.last.diff 0 c } }

/-- What the statement asks of a commit of such an image. -/
def commits (s : State) (c : BitVec 4) : Bool :=
  s.settled && writable s 0 .lastcmd && commitRefusal s 0 3 == 0 && s.last.staged.isSome && s.boot.done && !devCause s &&
    allLinks.all (fun l => (getLink s l).join != .forced && (l == 0 || s.last.diff[l] == 0)) && s.last.diff[(0 : LinkNo)] == c &&
    !noTraffic (getLink s 0)

theorem test_meets_CommitsApplyLinkByLink_classes :
    let asks := { withLink fun k => { k with pend := .retrain, retrainAsked := true } with
      last := { active.last with staged := some active.last.working } }
    let ends := withLink fun k => { k with
      st := .exchange, pend := .switched, trainA := { k.trainA with exchDone := true }, trainB := { k.trainB with active := true } }
    let down := withLink fun k => { k with st := .detect, pend := .switched }
    commits (classed 2 active) 2 = true ∧ commits (classed 3 active) 3 = true ∧ commits (classed 2 transparent) 2 = true ∧
    commits (classed 3 transparent) 3 = true ∧ isTrans active 0 = false ∧ isTrans transparent 0 = true ∧
    imcOn (getLink (classed 2 active) 0) = true ∧
    imcOn (getLink (classed 2 (withLink fun k => { k with mlaneOk := false })) 0) = false ∧
    noTraffic (getLink (classed 2 (inState .disabled)) 0) = true ∧ (classed 2 (inState .disabled)).settled = true ∧
    asks.settled = true ∧ (getLink asks 0).pend = .retrain ∧ asks.last.staged.isSome = true ∧
    ends.settled = true ∧ mgmtRx ends 0 .AB = some 0 ∧ symShown ends .A 0 = true ∧
    (sideTr (getLink ends 0) .A).exchDone = true ∧ (sideTr (getLink ends 0) .B).active = true ∧
    down.settled = true ∧ (getLink down 0).st = .detect := by decide +kernel

theorem test_meets_LinksJoinAndStandAside :
    let waits := fun j : JoinState => withLink fun k => { k with st := .notTraining, join := j }
    let aside := withLink fun k => { k with st := .notTraining, join := .aside, aside := true }
    let cause := { active with dev := { up.dev with aside := true } }
    isTrigger (waits .waitTrain) 0 (.trainingSet .AB) = true ∧ isTrigger (waits .waitTrain) 0 (.idle .AB) = false ∧
    (waits .waitTrain).settled = true ∧ (waits .waitHost).settled = true ∧ devCause (waits .waitTrain) = false ∧
    (getLink active 0).join ≠ .waitTrain ∧ writable (waits .waitHost) 0 (.lnkctl 0) = true ∧ writable active 0 (.lnkctl 0) = true ∧
    active.dev.standby = false ∧ (getLink active 0).disable = false ∧ (getLink active 0).aside = false ∧
    aside.settled = true ∧ writable aside 0 (.lnkctl 0) = true ∧ (linkRec aside 0).isSome = true ∧
    (∀ r, linkRec aside 0 = some r → r.mode ≠ .bypass ∧ r.join = .host) ∧
    writable cause 0 .devctl = true ∧ cause.settled = true ∧ cause.dev.waking = false ∧
    devCause { cause with dev := { cause.dev with aside := false } } = false ∧ cause.boot.done = true ∧
    active.power.valid[7] = true ∧ State.reset.power.valid[7] = false := by decide +kernel

theorem test_meets_StandbyIsEnteredAndLeft :
    let enters := { active with dev := { up.dev with entering := true } }
    let sleeps := { active with dev := { up.dev with standby := true } }
    let wakes := { sleeps with dev := { sleeps.dev with waking := true } }
    writable active 0 .devctl = true ∧ standbyBlocked active = false ∧ standbyBlocked (onMover (moves 0)) = true ∧
    active.dev.entering = false ∧ enters.settled = true ∧ enters.dev.entering = true ∧ sleeps.settled = true ∧
    writable sleeps 0 .devctl = true ∧ wakes.settled = true ∧ devCause { wakes with dev := { wakes.dev with standby := false } } = false := by
  decide +kernel

theorem test_meets_UpsetsComeFirst : up.canon = true ∧ ∀ w f, Upset.store w f ∈ [Upset.store 0 .corrected] → w.toNat ≠ 0xFFFFF := by
  refine ⟨by decide +kernel, fun w f h => ?_⟩
  simp only [List.mem_singleton, Upset.store.injEq] at h
  rw [h.1]
  decide

/-! ### Lanes, training, sleep and spares (O56 to O60) -/

def withRx (s : State) (f : LaneRx → LaneRx) : State := modRx s .A 0 f

theorem test_meets_ReceiversFollowWhatArrives :
    let cold := modRx active .A 4 fun r => { r with cdrLock := false }
    let seeks := withRx active fun r => { r with symLock := false, aligned := some 1, wordPhase := 3 }
    let fill := fun n : Nat => withRx transparent fun r => { r with buf := List.replicate n none }
    let detects := withLink fun k => { k with st := .detect, rate := 0 }
    let holds := withRx (linked { record .participating with loopTimed := true } fun k => { k with st := .active })
      fun r => { r with holdover := true }
    let loops := withLink fun k => { k with st := .loopback, lpbkSide := .A }
    let dis := withLink fun k => { k with disA := true }
    let disabled := withLink fun k => { k with st := .disabled, partnerDis := true }
    rxPowered active .A 0 = true ∧ rxPowered State.reset .A 0 = false ∧ whoRx detects .A 0 = some (.lane 0 0) ∧ isPart detects 0 = true ∧
    detects.settled = true ∧ (getLink detects 0).st = .detect ∧ (getLink detects 0).rate = 0 ∧ coldRx active .A 0 = false ∧
    cold.settled = true ∧ feeds active .A 0 = some (0, 0) ∧ (getLink active 0).waking = none ∧ feeds active .A 17 = none ∧
    (getLane active .A 0).rx.cdrLock = true ∧ (getLane State.reset .A 0).rx.cdrLock = false ∧
    commaOn seeks .A 0 = true ∧ seeks.settled = true ∧ (getLane seeks .A 0).rx.aligned = some 1 ∧ (getLane active .A 0).rx.aligned = none ∧
    symShown active .A 0 = true ∧ (getLane active .A 0).meas.chkEn = false ∧ (getLane active .A 0).meas.loopMode = 0 ∧
    isTap active 0 = false ∧ symShown State.reset .A 0 = false ∧
    (fill 18).settled = true ∧ symShown (fill 18) .A 0 = true ∧ feeds (fill 18) .A 0 = some (0, 0) ∧ isTrans (fill 18) 0 = true ∧
    isLoopTimed (fill 18) 0 = false ∧ (getLink (fill 18) 0).st = .notTraining ∧ isLost (fill 18) 0 Side.A.rxDir 0 = false ∧
    looped (fill 18) 0 Side.A.rxDir 0 = false ∧ (fill 14).settled = true ∧ (fill 16).settled = true ∧
    isLoopTimed holds 0 = true ∧ laneRx holds 0 .AB (loopMasterOf holds 0 .AB) = some 0 ∧ (getLane holds .A 0).rx.holdover = true ∧
    0 ∈ trainedLanes holds 0 ∧ laneCdr holds 0 .AB 0 = true ∧ holds.settled = true ∧
    sleepingRx active .A 0 = false ∧ sleepingRx (inState .sleepAB) .A 0 = true ∧
    detectsSignal active .A 0 = true ∧ detectsSignal State.reset .A 0 = false ∧
    loops.settled = true ∧ (getLink loops 0).pend = .none ∧ loops.last.working.welt[(0 : LinkNo)].asideFail = false ∧
    dis.settled = true ∧ disabledFrom (getLink dis 0) .A = true ∧ disabled.settled = true ∧ detectsSignal disabled .A 0 = true := by
  decide +kernel

/-- Clock lock lost in service under each policy, with and without spares; the last trained lane of a direction. -/
theorem test_meets_ReceiversFollowWhatArrives_loss :
    let under := fun (p : LossPol) (f : Link → Link) => linked { record .participating with lossPol := p } fun k => f { k with st := .active }
    let alone := under .hold fun k => { k with lostAB := 2 }
    (∀ p ∈ [LossPol.hold, .down, .degrade, .spare], let s := under p id
      s.settled = true ∧ feeds s .A 0 = some (0, 0) ∧ (getLane s .A 0).rx.cdrLock = true ∧ mayLose s 0 Side.A.rxDir 0 = true ∧
      (getLink s 0).pend = .none ∧ (getLink s 0).swap = none ∧ s.cal.recal = none ∧ s.last.working.welt[(0 : LinkNo)].asideFail = false ∧
      1 ∈ trainedLanes s 0 ∧ isLost s 0 .AB 1 = false ∧ laneSym s 0 .AB 1 = true ∧ laneRx s 0 .AB 1 ≠ some 0 ∧
      recIs s 0 (·.lossPol == p) = true ∧ isPart s 0 = true ∧ 1 < (getLink s 0).width) ∧
    (getLink (under .spare id) 0).capLink.getLsbD 0 = true ∧ spareIn (under .spare id) 0 .AB .warm = some 0 ∧
    (getLink (under .spare fun k => { k with capLink := 0x7E }) 0).capLink.getLsbD 0 = false ∧
    spareIn (under .spare fun k => { k with spares := Vector.replicate 4 (spareAs .cold 0) }) 0 .AB .warm = none ∧
    spareIn (under .spare fun k => { k with spares := Vector.replicate 4 (spareAs .cold 0) }) 0 .AB .standin = none ∧
    alone.settled = true ∧ mayLose alone 0 .AB 0 = true ∧ (∀ j ∈ trainedLanes alone 0, j ≠ 0 → isLost alone 0 .AB j = true) := by
  decide +kernel

/-- Code groups that come into the elastic buffer, and go out of it. -/
theorem test_meets_ReceiversFollowWhatArrives_buffer :
    let held := fun n : Nat => withRx transparent fun r => { r with buf := List.replicate n none }
    let s := held 16
    whoRx s .A 0 = some (.lane 0 0) ∧ feeds s .A 0 = some (0, 0) ∧ isTap s 0 = false ∧ (getLane s .A 0).meas.loopMode = 0 ∧
    (getLane s .A 0).rx.plan = [] ∧ (getLane s .A 0).rx.edit = none ∧ (getLane s .A 0).rx.recentre = none ∧
    (getLane s .A 0).rx.badRun < 63 ∧ (getLane s .A 0).rx.cdrLock = true ∧ rxPowered s .A 0 = true ∧
    (held 24).settled = true ∧ sharers (held 24) .A 0 = [0] ∧ (held 8).settled = true ∧ sharers (held 8) .A 0 = [0] ∧
    (held 7).settled = true ∧ (held 23).settled = true ∧
    (getLane s .A 0).rx.owed = 0 ∧ rxDests s .A 0 = [0] ∧ txUsable s .B 0 = true ∧ (getLane s .B 0).meas.loops = false ∧
    (getLane s .B 0).meas.genEn = false ∧ isLost s 0 Side.A.rxDir 0 = false ∧ mayForward s 0 0 .A 0 = true ∧
    (getLink s 0).st ≠ .exchange ∧ (getLink s 0).lpbkDue = none ∧ (sideTr (getLink s 0) .A).lpbkLeft = 0 := by decide +kernel

theorem test_meets_LaneSettingsMoveByTheirRules :
    let limited := modTx active .A 0 fun x => { x with swing := 20, swingNow := 20, swingAct := 12, limited := true }
    let full := modRx active .A 17 fun r => { r with buf := List.replicate 20 none }
    let held := modLane active .A 0 fun n => { n with snap := { n.snap with held := true, owner := 3 } }
    writable active 0 (.lnctl .A 0) = true ∧ writable active 0 (.lntxdrv .A 0) = true ∧ writable active 1 (.lnsnap .A 0) = true ∧
    commaOn active .A 0 = true ∧ feeds full .A 17 = none ∧ midSet (getLane full .A 17).rx = false ∧ full.settled = true ∧
    (getLane full .A 17).rx.recentre = none ∧ rampFrozen active .A 0 = false ∧ limited.settled = true ∧
    (getLane limited .A 0).tx.swingAct.toNat < (getLane limited .A 0).tx.swingNow.toNat ∧ rxPowered limited .A 0 = true ∧
    rxPowered State.reset .A 0 = false ∧ dfeAdapts active .A 0 = true ∧
    (getLane active .A 0).eq.dfe[(0 : Fin 12)].toInt.natAbs ≤ (eqAt active.last.working .A 0).dfeLimit ∧
    ctleAdapts active .A 0 = true ∧ (eqAt active.last.working .A 0).ctleMax ≤ 15 ∧
    (eqAt active.last.working .A 0).ctleMin ≤ (getLane active .A 0).eq.ctle.toNat ∧
    (getLane active .A 0).eq.ctle.toNat ≤ (eqAt active.last.working .A 0).ctleMax ∧ (getLane active .A 0).eq.ctleGoal = none ∧
    trimsMove active .A 0 true = false ∧ held.settled = true ∧ (getLane held .A 0).snap.owner ≠ 1 ∧
    (getLane active .A 0).snap.held = false := by decide +kernel

theorem test_meets_TestsMeasureAndLoop :
    let checks := modMeas active .A 4 fun m => { m with chkEn := true, matched := 300 }
    let locked := modMeas checks .A 4 fun m => { m with chkLock := true, winMiss := 64 }
    let parted := modMeas active .A 4 fun m => { m with partHeld := true }
    let scanning := modMeas active .A 0 fun m => { m with scanBusy := true }
    let trains := modLane (inState .eq1) .A 0 fun n => { n with search := { n.search with acked := true } }
    let trains' := modLane (inState .eq2) .A 0 fun n => { n with search := { n.search with acked := true } }
    let looped := fun b : Bool => modMeas active .A 4 fun m => { m with loopMode := 3, loopActive := true, loopPbl := b }
    writable active 0 (.lnprbs .A 4) = true ∧ writable active 0 (.lnsymcntHi .A 0) = true ∧ writable active 0 (.lnscan .A 0) = true ∧
    writable active 0 (.lnloop .A 4) = true ∧ genRefusal active .A 4 0x10 = 0 ∧ genRefusal active .A 0 0x10 ≠ 0 ∧
    chkRefusal active .A 4 0x20 = 0 ∧ (getLane active .A 4).meas.genEn = false ∧
    checks.settled = true ∧ checkerOn checks .A 4 = true ∧ rxPowered checks .A 4 = true ∧ (getLane checks .A 4).meas.expects.mayLock = true ∧ parted.settled = true ∧
    locked.settled = true ∧ scanning.settled = true ∧ (getLane active .A 0).rx.cdrLock = true ∧ isTap active 0 = false ∧
    scanJobHolds active .A 0 = false ∧ trainsSweep scanning .A 0 = false ∧ sweeps active .A 0 = true ∧ trainsSweep active .A 0 = false ∧
    trains.settled = true ∧ trains'.settled = true ∧
    ((trainsSweep trains .A 0 && sweeps trains .A 0) || (trainsSweep trains' .A 0 && sweeps trains' .A 0)) = true ∧
    (looped true).settled = true ∧ (looped false).settled = true ∧ posClass active .A 4 = .free ∧ posClass active .A 0 = .inService ∧
    (getLane active .A 4).meas.partHeld = false ∧ closedAt active 0 = false ∧ warmPrbs active .A 0 = false := by decide +kernel

theorem test_meets_TrainingFollowsItsTable :
    let detects := withLink fun k => { k with st := .detect, trainB := { k.trainB with seen := true } }
    let asks := withLink fun k => { k with retrainAsked := true }
    let idles := fun b : Bool => withLink fun k => { k with idleOut := true, idleDown := b }
    let marks := withLink fun k => { k with markAB := true, epoch := 7 }
    let waits := withLink fun k => { k with outAB := [⟨mosPrio mosAck, 3, mosAck, 7, [], false⟩] }
    let lost := withLink fun k => { k with lostAB := 1 }
    let searching := fun q : Search → Search => modLane (inState .eq1) .A 0 fun n =>
      { n with search := q { n.search with running := true, preset := 3 } }
    linkRec active 0 ≠ none ∧ linkRec active 7 = none ∧ (getLink detects 0).st = .detect ∧ detects.settled = true ∧
    (isPart detects 0 && (getLink detects 0).join == .joined && laneSym detects 0 Side.A.rxDir 0 && atLinkRate detects 0 .A 0) = true ∧
    (isPart active 7 && (getLink active 7).join == .joined && laneSym active 7 Side.A.rxDir 0 && atLinkRate active 7 .A 0) = false ∧
    (getLink detects 0).rate ≠ 0 ∧ (sideTr (getLink detects 0) Side.A.other).seen = true ∧ (getLink detects 0).detwA ≠ 0 ∧
    (inState .loopback).settled = true ∧ (inState .align).settled = true ∧
    laneSym (inState .align) 0 Side.A.rxDir 0 = true ∧ atLinkRate (inState .align) 0 .A 0 = true ∧
    active.settled = true ∧ 1 ∈ trainedLanes active 0 ∧ (getLink active 0).pend = .none ∧
    timeoutCause (inState .align) 0 ≠ none ∧ timeoutCause active 0 = none ∧ active.last.working.welt[(0 : LinkNo)].asideFail = false ∧
    (searching id).settled = true ∧ (searching fun q => { q with final := true }).settled = true ∧
    asks.settled = true ∧ (getLink active 0).retrainAsked = false ∧ writable active 0 (.lnkctl 0) = true ∧
    writable (inState .disabled) 0 (.lnkctl 0) = true ∧ (inState .disabled).settled = true ∧ imcOn (getLink active 0) = true ∧
    (idles false).settled = true ∧ (idles true).settled = true ∧ mgmtRx active 0 .AB = some 0 ∧ mgmtRx active 7 .AB = none ∧
    symShown active Dir.AB.rxSide 0 = true ∧ dirForwards active 0 .AB = true ∧ mgmtLost active 0 Dir.AB.rxSide = false ∧
    marks.settled = true ∧ markDue (getLink marks 0) .AB = true ∧ markersOn marks 0 = true ∧ outOf (getLink active 0) .AB = [] ∧
    waits.settled = true ∧ nextMos (outOf (getLink waits 0) .AB) = some ⟨mosPrio mosAck, 3, mosAck, 7, [], false⟩ ∧
    lost.settled = true ∧ isLost lost 0 .AB 0 = true ∧ isLost active 0 .AB 0 = false ∧ writable active 0 (.lnkloss 0) = true := by
  decide +kernel

theorem test_meets_SleepAndSparesFollow :
    let sleepy := withLink fun k => { k with grants := Vector.replicate 3 (some 0) }
    let half := withLink fun k => { k with st := .sleepAB, deepFirst := true }
    let wakes := withLink fun k => { k with waking := some .A }
    let spare := fun c : SpareCode => withLink fun k => { k with spares := Vector.replicate 4 (spareAs c 0) }
    let swaps := withLink fun k => { k with
      swap := some { dir := .AB, lane := 0, spare := 0, cause := 3, id := 1, seq := 5, step := .dup, asking := true, back := false, misses := 0, sends := 1
                     failed := none } }
    let deaf := modRx active .A 0 fun r => { r with symLock := false }
    let freed := withLink fun k => { k with release := some (⟨mosPrio mosSpare, 0, mosSpare, 9, [3, 0, 0, 0, 0, 1], false⟩, 1) }
    let asks := { active with last := { active.last with
      working := { active.last.working with power := vmod active.last.working.power 0 fun r => { r with deepIdle := 5 } } } }
    mayAsk asks 0 .deep = true ∧ mayAsk active 0 .sleepAB = false ∧ asks.settled = true ∧
    isPart active 0 = true ∧ isPart up 0 = false ∧ half.settled = true ∧ (getLink half 0).st = sleepState Dir.BA.other ∧
    wakesOn (getLink half 0) .A = true ∧ wakesOn (getLink active 0) .A = false ∧ wakes.settled = true ∧ (getLink wakes 0).waking ≠ none ∧
    (getLink half 0).capLink.getLsbD 1 = true ∧ (getLink half 0).deepFirst = true ∧ sleepy.settled = true ∧
    (spare .cold).settled = true ∧ restCode (spare .cold) 0 = .warm ∧
    spareLocked (spare .cold) 0 0 .AB = true ∧ spareHeld (spare .cold) 0 0 = false ∧ asleep (getLink active 0).st .AB = false ∧
    (getSpare active 0 0 .AB).code = .warm ∧ active.boot.done = true ∧ active.last.working.heel.predictEn = true ∧
    recIs active 0 (·.predict) = true ∧ laneRx active 0 .AB 1 = some 1 ∧ writable active 0 (.lnkspcmd 0) = true ∧
    ((getLink active 0).capLink.getLsbD 0 && (getLink active 0).capLink.getLsbD 6) = true ∧
    ((getLink active 0).st == .active && (getLink active 0).swap.isNone && !committing active && (trainedLanes active 0).contains 0) = true ∧
    (getLink swaps 0).swap.any (·.asking) = true ∧ swaps.settled = true ∧
    setsSeen active 0 .AB = true ∧ mosSeen active 0 = true ∧ mgmtSym active 0 .A = true ∧ mosSeen up 0 = false ∧ setsSeen deaf 0 .AB = false ∧
    deaf.settled = true ∧ freed.settled = true ∧ ((getLink freed 0).release.filter fun r => r.2 < 3).isSome = true ∧
    (getLink freed 0).release.any (answersRelease ·.1 .A ⟨3, 0, 0, 0, 0, 1⟩) = true ∧
    (getLink swaps 0).swap.any (answersSwap · .A ⟨1, 0, 0, 0, 0, 1⟩) = true ∧ consumes active 0 = true := by decide +kernel

end Sys2Proof.Tests
end

/-! PROOFS. What a command of the register path comes to at a register that it reaches (R484), what a refused read leaves
(R12), what plain registers show of the word written; and the promise of the Welt, step by step. -/

namespace Sys2Proof.Machine

/-! ### The promise of the Welt -/

/-- Settles O8: a step carries each of the two promises of Table 2-1. -/
theorem stepKeepsWeltSafe : Obligations.StepKeepsWeltSafe := by
  unfold Obligations.StepKeepsWeltSafe
  intro s t ⟨hclosed, hdark⟩ hstep
  obtain ⟨u, hu, hcaused⟩ := step_caused (Caused.refl s)
  obtain ⟨w, hw, hdarkens⟩ := step_dark (Dark.refl s)
  obtain rfl : u = t := Host.Outcome.next.inj (hu.symm.trans hstep)
  obtain rfl : w = u := Host.Outcome.next.inj (hw.symm.trans hstep)
  exact ⟨hcaused hclosed, hdarkens hdark⟩

/-! ### The register path to a register that is reached -/

theorem exec_regReadClear_shows {s : State} {c : Ctx} {r : Reg} (h : shows s c r) :
    exec (.regReadClear c (regAddr r) []) s = done (keepRead c (readReg s c r)) :=
  congrArg done (busRead_shows h)

theorem exec_regWrite_opens {s : State} {c : Ctx} {r : Reg} (v : Word) (h : opens s c r) :
    exec (.regWrite c (regAddr r) v []) s = done (writeReg s c r v) :=
  congrArg done (busWrite_opens v h)

/-- What a read of a register leaves of the contexts' accesses (R455). -/
def readAcc (s : State) (c : Ctx) (r : Reg) : AccSt :=
  { s.acc with
    rdata := vput s.acc.rdata c (regValue s c r)
    hiHeld := vput s.acc.hiHeld c (if r = .dtimeLo then some (s.time.dtime.extractLsb' 32 32) else none) }

theorem readEffect_same (s : State) (r : Reg) :
    (readEffect s r).acc = s.acc ∧ (readEffect s r).time = s.time := by
  unfold readEffect
  split <;> exact ⟨rfl, rfl⟩

/-- Only TMMISS and the two IMCCNT have RC fields (R11, R12). -/
theorem readEffect_plain {s : State} {r : Reg} (ht : r ≠ .tmmiss) (hi : ∀ sd, r ≠ .imccnt sd) :
    readEffect s r = s := by
  unfold readEffect
  split
  · exact absurd rfl ht
  · exact absurd rfl (hi _)
  · rfl

/-- A read leaves the register's own effect and what the context's access has returned. -/
theorem keepRead_readReg (s : State) (c : Ctx) (r : Reg) :
    keepRead c (readReg s c r) = { readEffect s r with acc := readAcc s c r } := by
  obtain ⟨ha, ht⟩ := readEffect_same s r
  unfold keepRead readReg latchTime readAcc
  simp only [ha, ht]

theorem imccntWord_clear_self (s : State) (sd : Side) : imccntWord (clearImccnt s sd) sd = 0 := by
  unfold imccntWord clearImccnt
  simp only [vput_self]
  decide

theorem sideIx_ne {sd sd' : Side} (h : sd' ≠ sd) : sideIx sd' ≠ sideIx sd := by
  cases sd <;> cases sd' <;> simp_all [sideIx]

theorem imccntWord_clear_other (s : State) {sd sd' : Side} (h : sd' ≠ sd) :
    imccntWord (clearImccnt s sd) sd' = imccntWord s sd' := by
  have hput : ∀ v : Vector Byte 2, (vput v (sideIx sd) 0)[sideIx sd'] = v[sideIx sd'] :=
    fun v => vput_other v _ _ _ (sideIx_ne h)
  unfold imccntWord clearImccnt
  simp only [hput]

theorem sameBut_clearImccnt (s : State) (sd : Side) (a : AccSt) :
    sameBut [.acc, .imc] s { clearImccnt s sd with acc := a } := fun k hk =>
  putAcc_keeps (not_mem_of_subset hk (by decide)) (clearImccnt_keeps (not_mem_of_subset hk (by decide)) (k.same_refl s))

/-- Of the in-band state being settled asks only for ATTN_N as last looked at. -/
theorem done_of_attnWas {s t : State} (h : s.settled = true) (hb : t.boot = s.boot) (hj : t.jtag = s.jtag)
    (he : t.evt = s.evt) (hc : t.cqs = s.cqs) (hh : t.heel = s.heel) (hu : t.units = s.units)
    (hi : t.imc.attnWas = s.imc.attnWas) : done t = .next t := by
  refine done_settled (Eq.trans ?_ h)
  unfold State.settled
  rw [hh, hu, hi, attnLow_congr hb hj he hc]

/-- Settles O26: by what the read does to the RC fields of the register, since a read leaves a settled part settled. -/
theorem registerReadClearsOnlyItsCounts : Obligations.RegisterReadClearsOnlyItsCounts := by
  unfold Obligations.RegisterReadClearsOnlyItsCounts
  intro s c r hs hr
  have hread : exec (.regReadClear c (regAddr r) []) s = done { readEffect s r with acc := readAcc s c r } := by
    rw [exec_regReadClear_shows hr, keepRead_readReg]
  rw [hread]
  refine ⟨fun ht hi => ?_, fun ht => ?_, fun sd hi => ?_⟩
  · rw [readEffect_plain ht hi]
    exact done_of_same hs rfl rfl rfl rfl rfl rfl rfl
  · subst ht
    exact done_of_same hs rfl rfl rfl rfl rfl rfl rfl
  · subst hi
    exact ⟨_, done_of_attnWas hs rfl rfl rfl rfl rfl rfl rfl, rfl, imccntWord_clear_self s sd,
      fun sd' h => imccntWord_clear_other s h, sameBut_clearImccnt s sd _⟩

/-! ### A read that is refused -/

/-- Errors of memory stand in the Store and in the NVM alone. -/
theorem upset_eq (s : State) (e : List Upset) : ∃ m n, upset s e = { s with store := m, nvm := n } := by
  induction e generalizing s with
  | nil => exact ⟨s.store, s.nvm, rfl⟩
  | cons u r ih =>
    obtain ⟨m, n, h⟩ := ih (upsetWord s u)
    refine ⟨m, n, h.trans ?_⟩
    cases u <;> rfl

/-- A denied read and a read of an island without power return all ones and leave an event, of the two-wire host's also
TWBSTAT.DENIED (R12, R274, R484). -/
theorem accessRead_refused {s : State} {c : Ctx} {r : Reg}
    (h : mayRead s c (regAddr r) = false ∨ islandOff s (decodeAddr (regAddr r)).island = true) :
    (accessRead s c (regAddr r)).1 = 0xFFFFFFFF ∧
      ∀ k ∉ [Comp.evt, .store, .twb, .nvm], k.same s (accessRead s c (regAddr r)).2 := by
  have denied : ∀ k ∉ [Comp.evt, .store, .twb, .nvm], k.same s (logDenied s c (regAddr r)) :=
    fun k hk => logDenied_keeps hk (k.same_refl s)
  have off : ∀ k ∉ [Comp.evt, .store, .twb, .nvm], k.same s (logIslandOff s c (regAddr r)) :=
    fun k hk => logIslandOff_keeps (not_mem_of_subset hk (by decide)) (k.same_refl s)
  unfold accessRead
  split
  next hm =>
    have hoff : islandOff s (decodeAddr (regAddr r)).island = true := h.resolve_left (by simp [hm])
    unfold readOpen
    dsimp only
    rw [if_neg (by rw [decode_regAddr]; exact Target.noConfusion), if_pos hoff]
    exact ⟨rfl, off⟩
  next => exact ⟨rfl, denied⟩

/-- The commands' common end leaves the in-band state but for ATTN_N as last looked at. -/
theorem fin_imc (s : State) : ∃ b, (fin s).imc = { s.imc with attnWas := b } := by
  have hw : ∀ x : State, ∃ b, (watchAttn x).imc = { x.imc with attnWas := b } := by
    intro x
    have hq : (queueNotify (queueNotify x .A) .B).imc = x.imc :=
      queueNotify_keeps (k := .imc) (by decide) (queueNotify_keeps (k := .imc) (by decide) rfl)
    refine ⟨attnLow x, ?_⟩
    unfold watchAttn
    dsimp only
    split
    · rw [hq]
    · rfl
  obtain ⟨b, hb⟩ := hw (unholdErase (if s.heel.restartDue then restartHeel s else s))
  refine ⟨b, hb.trans ?_⟩
  have hr : (unholdErase (if s.heel.restartDue then restartHeel s else s)).imc = s.imc :=
    unholdErase_keeps (k := .imc) (by decide)
      (ite_keeps (k := .imc) (restartHeel_keeps (k := .imc) (by decide) rfl) rfl)
  rw [hr]

theorem imccntWord_of_imc {s t : State} {b : Bool} (h : t.imc = { s.imc with attnWas := b }) (sd : Side) :
    imccntWord t sd = imccntWord s sd := by
  unfold imccntWord
  rw [h]

/-- Settles O54: a refused read leaves an event and the word it returned, and the commands' common end clears no count. -/
theorem refusedReadClearsNothing : Obligations.RefusedReadClearsNothing := by
  unfold Obligations.RefusedReadClearsNothing
  intro s c r e hs hr
  obtain ⟨m, n, hu⟩ := upset_eq s e
  obtain ⟨hones, hkeeps⟩ := accessRead_refused (s := { s with store := m, nvm := n }) (c := c) (r := r) hr
  have hbus : busRead (upset s e) c (regAddr r) = keepRead c (accessRead { s with store := m, nvm := n } c (regAddr r)) := by
    rw [hu]
    exact if_pos hs
  refine ⟨_, congrArg done hbus, ?_, fun x => ⟨?_, fun sd => ?_⟩⟩
  · have hacc : ∀ y : State, (fin y).acc = y.acc := fun y => fin_keeps (k := .acc) (by decide) rfl
    rw [hacc]
    exact (vput_self _ _ _).trans hones
  · have htm : ∀ y : State, (fin y).tm = y.tm := fun y => fin_keeps (k := .tm) (by decide) rfl
    have hlog := hkeeps .tm (by decide)
    show tmmissWord _ = tmmissWord _
    rw [htm]
    exact congrArg tmmissWord hlog
  · have hlog := hkeeps .imc (by decide)
    obtain ⟨b, hb⟩ := fin_imc (keepRead c (accessRead { s with store := m, nvm := n } c (regAddr r)))
    exact imccntWord_of_imc (hb.trans (congrArg (fun i : ImcSt => { i with attnWas := b }) hlog)) sd

/-! ### Fields in their places -/

/-- A field put back where it came from is the word under the field's mask. -/
theorem at_fld (v : Word) (lo n : Nat) : at_ (fld v lo n) lo = v &&& at_ (BitVec.allOnes n) lo := by
  refine BitVec.eq_of_getLsbD_eq fun i hi => ?_
  simp only [at_, BitVec.getLsbD_and, BitVec.getLsbD_shiftLeft, BitVec.getLsbD_setWidth, BitVec.getLsbD_extractLsb',
    BitVec.getLsbD_allOnes]
  by_cases h : i < lo
  · simp [h]
  · rw [show lo + (i - lo) = i by omega]
    grind

/-- A channel's thresholds show the whole word written. -/
theorem tmthreshWord_lim (ch : TmCh) (v : Word) : tmthreshWord { ch with lim := (fld v 0 16, fld v 16 16) } = v := by
  have hmask : at_ (BitVec.allOnes 16) 0 ||| at_ (BitVec.allOnes 16) 16 = BitVec.allOnes 32 := by decide
  simp only [tmthreshWord, wordOf, List.foldl, BitVec.ofNat_eq_ofNat, BitVec.zero_or, at_fld, ← BitVec.and_or_distrib_left,
    hmask, BitVec.and_allOnes]

/-- EVTMASK shows the word written under its mask, BOOT always 1. -/
theorem evtMask_writeEvtmask (s : State) (v : Word) : evtMask (writeEvtmask s v) = (v &&& 0x03FF0FFE) ||| 1 := by
  have hmask : at_ (BitVec.allOnes 11) 1 ||| (at_ (BitVec.allOnes 8) 16 ||| at_ (BitVec.allOnes 2) 24) = 0x03FF0FFE#32 := by
    decide
  simp only [evtMask, writeEvtmask, wordOf, List.foldl, BitVec.ofNat_eq_ofNat, BitVec.zero_or, at_fld, BitVec.or_assoc,
    ← BitVec.and_or_distrib_left, hmask]
  exact BitVec.or_comm _ _

/-! ### Plain registers written -/

/-- The components that being settled looks at. -/
abbrev settledBy : List Comp := [.boot, .jtag, .evt, .cqs, .heel, .units, .imc]

/-- Where a register touches nothing that being settled looks at, its write is all that the command does. -/
theorem regWrite_settled {s : State} {c : Ctx} {r : Reg} {v : Word} (hs : s.settled = true) (h : opens s c r)
    (hk : ∀ k ∈ settledBy, k ∉ regTouches r) :
    exec (.regWrite c (regAddr r) v []) s = .next (writeReg s c r v) := by
  have same : ∀ k ∈ settledBy, k.same s (writeReg s c r v) :=
    fun k m => writeReg_touches (hk k m) (k.same_refl s)
  rw [exec_regWrite_opens v h]
  exact done_of_same hs (same .boot (by decide)) (same .jtag (by decide)) (same .evt (by decide)) (same .cqs (by decide))
    (same .heel (by decide)) (same .units (by decide)) (same .imc (by decide))

theorem sameBut_writeReg {s : State} {c : Ctx} {r : Reg} {v : Word} {l : List Comp} (hl : regTouches r ⊆ l) :
    sameBut l s (writeReg s c r v) :=
  fun k hk => writeReg_touches (not_mem_of_subset hk hl) (k.same_refl s)

theorem regValue_tmthresh_written (s : State) (c : Ctx) (k : Fin 12) (v : Word) :
    regValue (writeReg s c (.tmthresh k) v) c (.tmthresh k) = v := by
  show tmthreshWord (vmod s.tm.ch k _)[k] = v
  rw [vmod_self]
  exact tmthreshWord_lim _ v

theorem regValue_lnprbsusr_written (s : State) (c : Ctx) (sd : Side) (p : Pos) (v : Word) :
    regValue (writeReg s c (.lnprbsusr sd p) v) c (.lnprbsusr sd p) = v &&& 0xFFFFF := by
  show at_ (getLane (modMeas s sd p _) sd p).meas.user 0 = _
  unfold modMeas
  rw [getLane_modLane]
  exact at_fld v 0 20

/-- A write of EVTMASK may assert ATTN_N, and a NOTIFY may follow (R299, R467). -/
theorem regWrite_evtmask {s : State} {c : Ctx} (v : Word) (hs : s.settled = true) (h : opens s c .evtmask) :
    ∃ t, exec (.regWrite c (regAddr .evtmask) v []) s = .next t ∧ t.evt = (writeEvtmask s v).evt ∧
      sameBut [.evt, .imc, .links, .free] s t := by
  have hc : calm (writeEvtmask s v) := calm_congr (s := s) rfl rfl (calm_of_settled hs)
  refine ⟨_, exec_regWrite_opens v h, fin_same (k := .evt) (by decide) hc, fun k hk => ?_⟩
  exact k.same_trans (writeEvtmask_keeps (not_mem_of_subset hk (by decide)) (k.same_refl s))
    (fin_same (not_mem_of_subset hk (by decide)) hc)

theorem evtMask_congr {s t : State} (h : t.evt = s.evt) : evtMask t = evtMask s := by
  unfold evtMask
  rw [h]

/-- Settles O28: each plain register's write, with nothing to follow from it but what EVTMASK lets through to ATTN_N. -/
theorem plainRegistersHoldWhatIsWritten : Obligations.PlainRegistersHoldWhatIsWritten := by
  unfold Obligations.PlainRegistersHoldWhatIsWritten
  intro s c r v hs ho
  refine ⟨?nvmwsel, ?dtrate, ?dtloadLo, ?dtloadHi, ?twbctl, ?imcctl, ?tmthresh, ?lnprbsusr, ?evtmask⟩
  case nvmwsel =>
    rintro rfl
    exact regWrite_settled hs ho (by decide)
  case dtrate =>
    rintro rfl
    exact ⟨regWrite_settled hs ho (by decide), rfl⟩
  case dtloadLo =>
    rintro rfl
    exact regWrite_settled hs ho (by decide)
  case dtloadHi =>
    rintro rfl
    exact regWrite_settled hs ho (by decide)
  case twbctl =>
    rintro rfl
    exact regWrite_settled hs ho (by decide)
  case imcctl =>
    rintro rfl
    exact (exec_regWrite_opens v ho).trans (done_of_attnWas hs rfl rfl rfl rfl rfl rfl rfl)
  case tmthresh =>
    rintro k rfl
    exact ⟨_, regWrite_settled hs ho (show ∀ x ∈ settledBy, x ∉ [Comp.tm] by decide), regValue_tmthresh_written s c k v,
      fun j hj => vmod_other _ _ _ _ hj, sameBut_writeReg (List.Subset.refl _)⟩
  case lnprbsusr =>
    rintro sd p rfl
    exact ⟨_, regWrite_settled hs ho (show ∀ x ∈ settledBy, x ∉ [Comp.lanes] by decide),
      regValue_lnprbsusr_written s c sd p v, fun x q hq => getLane_modLane_other _ _ _ _ _ _ hq, sameBut_writeReg (List.Subset.refl _)⟩
  case evtmask =>
    rintro rfl
    obtain ⟨t, ht, hevt, hframe⟩ := regWrite_evtmask v hs ho
    exact ⟨t, ht, (evtMask_congr hevt).trans (evtMask_writeEvtmask s v), hframe⟩

end Sys2Proof.Machine

/-! PROOFS. What the part notes of its rails and pins, how the device settles at reset release and at the end of boot, and
how the two-wire target frames what the bus brings. -/

namespace Sys2Proof.Machine

/-! ### Rails and pins as they are noted -/

/-- A rail that has left its range as the part tells of it: its bit, that it has been told, and FAULTSRC.SUPPLY (R469). -/
def toldOutside (s : State) (r : Rail) : State :=
  (s.putPower { s.power with
    outside := vput s.power.outside (railIx r) true, told := vput s.power.told (railIx r) true }).putEvt
      { s.evt with supply := true }

theorem railOutside_tells {s : State} {r : Rail} (h : (!s.boot.inReset && !s.power.told[railIx r]) = true) :
    railOutside s r = logEvent (toldOutside s r) 0x0C06 0 [railBits (toldOutside s r)] := by
  refine if_neg ?_
  show ¬(s.boot.inReset || s.power.told[railIx r]) = true
  rw [← Bool.not_or, Bool.not_eq_true'] at h
  rw [h]
  exact Bool.false_ne_true

/-- In reset, and where it has been told already, a rail out of its range is only noted (log entry 56). -/
theorem railOutside_quiet {s : State} {r : Rail} (h : (!s.boot.inReset && !s.power.told[railIx r]) = false) :
    railOutside s r = { s with power := { s.power with outside := vput s.power.outside (railIx r) true } } := by
  refine if_pos ?_
  show (s.boot.inReset || s.power.told[railIx r]) = true
  rwa [← Bool.not_or, Bool.not_eq_false'] at h

/-- The rail bits of FAULTSRC show the rails' levels, and whether the part is in reset. -/
theorem railBits_congr {s t : State} (hp : t.power = s.power) (hb : t.boot = s.boot) : railBits t = railBits s := by
  unfold railBits railOut
  rw [hp, hb]

/-- Settles O14: the level of each rail or pin alone, and for a rail told of the event that ends the command. -/
theorem supplyEventsAreNoted : Obligations.SupplyEventsAreNoted := by
  unfold Obligations.SupplyEventsAreNoted
  intro s r hs
  refine ⟨?back, ?vio, ?resetN, ?testEn, fun h => ?quiet, fun h => ?tells⟩
  case back | vio | resetN | testEn => exact done_of_same hs rfl rfl rfl rfl rfl rfl rfl
  case quiet => exact (congrArg done (railOutside_quiet h)).trans (done_of_same hs rfl rfl rfl rfl rfl rfl rfl)
  case tells =>
    have hcalm : calm (toldOutside s r) := calm_congr (s := s) rfl rfl (calm_of_settled hs)
    obtain ⟨t, ht, hlog, hsame, hlinks, hflags⟩ := event_done hcalm 0x0C06 0 [railBits (toldOutside s r)]
    have hpower : t.power = (toldOutside s r).power := hsame .power (by decide)
    have hbits : railBits t = railBits (toldOutside s r) := railBits_congr hpower (hsame .boot (by decide))
    have hsupply : t.evt.supply = true := congrArg EvtSt.supply hflags
    refine ⟨t, (congrArg done (railOutside_tells h)).trans ht, hpower, hsupply, hbits ▸ hlog, fun k hk => ?_, hlinks⟩
    have hkeep : k.same s (toldOutside s r) :=
      putEvt_keeps (not_mem_of_subset hk (by decide)) (putPower_keeps (not_mem_of_subset hk (by decide)) (k.same_refl s))
    exact k.same_trans hkeep (hsame k fun m => hk (List.mem_cons_of_mem _ m))

/-! ### The device settles: only VCO bands of the power state move -/

/-- Of the power state only VCO bands have moved. -/
def Banded (s t : State) : Prop := unbanded s t = s.power

theorem Banded.refl (s : State) : Banded s s := rfl

theorem Banded.of_power {s x y : State} (g : y.power = x.power) (h : Banded s x) : Banded s y := by
  unfold Banded unbanded
  rw [g]
  exact h

theorem foldl_banded {α : Type} {s x : State} {f : State → α → State} {l : List α} (h : Banded s x)
    (hf : ∀ t a, Banded s t → Banded s (f t a)) : Banded s (l.foldl f x) := by
  induction l generalizing x with
  | nil => exact h
  | cons a r ih => exact ih (hf x a h)

theorem relockPlls_banded {s x : State} {old : LastImg} (h : Banded s x) : Banded s (relockPlls x old) :=
  foldl_banded h fun _ _ g => g

/-- A link that takes up an image relocks the side PLLs of a changed family; nothing else of it is the power state's. -/
theorem takeUp_banded {s x : State} {l : LinkNo} {img : LastImg} (h : Banded s x) : Banded s (takeUp x l img) := by
  unfold takeUp
  dsimp only
  refine Banded.of_power (settleAll_keeps (k := .power) (by decide) (stepEpoch_keeps (k := .power) (by decide) rfl))
    (relockPlls_banded (Banded.of_power (retarget_keeps (k := .power) (by decide)
      (foldl_keeps (k := .power) (dropHolds_keeps (k := .power) (by decide)
        (withMasters_keeps (k := .power) (by decide) (fun _ g => g) rfl))
        fun _ _ g => refreshSpare_keeps (k := .power) (by decide) g)) h))

theorem switchLink_banded {s x : State} {l : LinkNo} (h : Banded s x) : Banded s (switchLink x l) := by
  unfold switchLink
  split
  · exact takeUp_banded h
  · exact h

theorem setResult_banded {s x : State} {l : LinkNo} {r : BitVec 4} (h : Banded s x) : Banded s (setResult x l r) :=
  Banded.of_power (setResult_keeps (k := .power) (by decide) rfl) h

theorem switchNow_banded {s x : State} {l : LinkNo} (h : Banded s x) : Banded s (switchNow x l) := by
  unfold switchNow
  dsimp only
  split
  · exact setResult_banded (switchLink_banded h)
  · exact h

/-- A link that is forced makes the switch that is pending on it (R121). -/
theorem forceLink_banded {s x : State} {l : LinkNo} (h : Banded s x) : Banded s (forceLink x l) := by
  unfold forceLink
  split
  · exact h
  · refine Banded.of_power (modLink_keeps (k := .power) (by decide) (dropLink_keeps (k := .power) (by decide) rfl)) ?_
    split
    · exact setResult_banded h
    · exact switchNow_banded h

theorem settle_banded {s x : State} (h : Banded s x) : Banded s (settle x) := by
  unfold settle
  refine Banded.of_power (settleAll_keeps (k := .power) (by decide) rfl) ?_
  split
  · exact foldl_banded h fun _ _ g => forceLink_banded g
  · refine Banded.of_power (ite_keeps (k := .power) (foldl_keeps (k := .power) rfl fun _ _ g => ?_) rfl) h
    exact ite_keeps (k := .power) (restartLink_keeps (k := .power) (by decide) g) g

/-! ### A command that settles the device -/

/-- What the settling of the device and the commands' common end may touch. -/
abbrev bySettle : List Comp :=
  [.power, .welt, .evt, .heel, .lanes, .links, .last, .store, .imc, .units, .nvm, .cal, .free]

theorem sameBut_trans {l m n : List Comp} {s t u : State} (h : sameBut l s t) (g : sameBut m t u) (hl : l ⊆ n) (hm : m ⊆ n) :
    sameBut n s u :=
  fun k hk => k.same_trans (h k (not_mem_of_subset hk hl)) (g k (not_mem_of_subset hk hm))

theorem sameBut_fin_settle (x : State) : sameBut bySettle x (fin (settle x)) := fun k hk =>
  fin_keeps (not_mem_of_subset hk (by decide)) (settle_keeps (not_mem_of_subset hk (by decide)) (k.same_refl x))

theorem unbanded_fin_settle {s x : State} (h : x.power.band = s.power.band) : unbanded s (fin (settle x)) = x.power := by
  have hx : Banded x (fin (settle x)) :=
    Banded.of_power (fin_keeps (k := .power) (by decide) rfl) (settle_banded (Banded.refl x))
  unfold unbanded
  rw [← h]
  exact hx

theorem Link.sameButOut_joinState {k j : Link} (h : k.sameButOut j) : j.join = k.join := by
  unfold Link.sameButOut at h
  rw [← h]

/-- Once booted, without a device-wide cause no link is FORCED at the end of a command that settles the device (R53). -/
theorem fin_settle_unforced {x : State} (hd : devCause x = false) (hb : x.boot.done = true) (l : LinkNo) :
    (getLink (fin (settle x)) l).join ≠ .forced := by
  rw [Link.sameButOut_joinState (fin_links (settle x) l)]
  exact settle_unforced hd hb l

/-! ### Reset release and the end of boot -/

/-- The part as reset release finds it, with the straps as sampled, before its NVM is looked at (R25). -/
def strapped (s : State) (st : Straps) : State :=
  ((s.putPins { s.pins with
    resetN := true, testEn := st.testEn, addr := st.addr, bootsel := st.bootsel, refclk := st.refclk }).putPower
      { s.power with unlock := vput (Vector.replicate 5 false) 4 (!st.refclk) }).putBoot
      { State.reset.boot with inReset := false, addr := st.addr, bootsel := st.bootsel, testMode := st.testEn }

theorem sameBut_strapped (s : State) (st : Straps) : sameBut [.pins, .power, .boot] s (strapped s st) :=
  fun _ hk => putBoot_keeps (not_mem_of_subset hk (by decide)) (putPower_keeps (not_mem_of_subset hk (by decide))
    (putPins_keeps (not_mem_of_subset hk (by decide)) (Comp.same_refl _ s)))

/-- What reset release does with the NVM leaves what the straps set (R431). -/
theorem sameBut_releaseReset (s : State) (st : Straps) :
    sameBut [.evt, .store, .nvm, .free] (strapped s st) (releaseReset s st) :=
  fun k hk => bootNvm_keeps hk (k.same_refl _)

/-- The part at the end of boot: phase 0x4 and BOOT_DONE (R49). -/
def bootEnded (s : State) : State := s.putBoot { s.boot with phase := 4, done := true }

theorem sameBut_bootEnded (s : State) : sameBut [.boot] s (bootEnded s) := fun k hk => putBoot_keeps hk (k.same_refl s)

/-- Of boot the device-wide causes look at reset and test mode alone (Table 2-1). -/
theorem devCause_bootEnded (s : State) : devCause (bootEnded s) = devCause s :=
  devCause_congr rfl rfl rfl rfl rfl rfl rfl rfl

/-- Settles O19: by what release and the end of boot set, and that settling the device moves of it only VCO bands. -/
theorem releaseAndEndOfBoot : Obligations.ReleaseAndEndOfBoot := by
  unfold Obligations.ReleaseAndEndOfBoot
  intro s
  refine ⟨fun st hs h => ?held, fun st hr hv => ?release, fun hs h => ?busy, fun hb hp => ?done⟩
  case held => exact (congrArg done (if_neg (by rw [h]; exact Bool.false_ne_true))).trans (done_settled hs)
  case busy => exact (congrArg done (if_neg (by rw [h]; exact Bool.false_ne_true))).trans (done_settled hs)
  case release =>
    have hexec : exec (.resetRelease st) s = done (settle (releaseReset s st)) :=
      congrArg done (if_pos (by rw [hr, hv]; rfl))
    have hnvm := sameBut_releaseReset s st
    have hend : sameBut bySettle (strapped s st) (fin (settle (releaseReset s st))) :=
      sameBut_trans hnvm (sameBut_fin_settle _) (by decide) (List.Subset.refl _)
    have hpower : (releaseReset s st).power = (strapped s st).power := hnvm .power (by decide)
    refine ⟨_, hexec, hend .boot (by decide), hend .pins (by decide),
      (unbanded_fin_settle (congrArg Power.band hpower)).trans hpower, fin_follows (settle_follows _), ?_⟩
    exact sameBut_trans (sameBut_strapped s st) hend (by decide) (by decide)
  case done =>
    have hexec : exec .bootDone s = done (settle (bootEnded s)) := congrArg done (if_pos (by rw [hb, hp]; rfl))
    have hend : sameBut bySettle (bootEnded s) (fin (settle (bootEnded s))) := sameBut_fin_settle _
    refine ⟨_, hexec, hend .boot (by decide), fin_follows (settle_follows _), fun hd => ?_, unbanded_fin_settle rfl, ?_⟩
    · exact fin_settle_unforced ((devCause_bootEnded s).trans hd) rfl
    · exact sameBut_trans (sameBut_bootEnded s) hend (by decide) (by decide)

/-! ### The two-wire target -/

/-- A command that changes the two-wire target alone leaves a settled part settled. -/
theorem done_modTwb {s : State} (hs : s.settled = true) (f : TwbSt → TwbSt) : done (modTwb s f) = .next (modTwb s f) :=
  done_of_same hs rfl rfl rfl rfl rfl rfl rfl

/-- An address byte that is not for the part, or that the part does not answer, is not acknowledged (R26, R275). -/
theorem addressByte_refused {s : State} {a : BitVec 7} (rd : Bool)
    (h : a ≠ ownTwb s ∨ served s 1 = false ∨ sdaOff s = true) :
    addressByte s a rd = modTwb s fun t => { linesMove (frameEnd 0 t) with ack := false } := by
  refine if_pos ?_
  show (a != ownTwb s || !served s 1 || sdaOff s) = true
  simpa [or_assoc] using h

/-- Of the part's own address, which it answers, the interface decides: awake it acknowledges, asleep it wakes (R282). -/
theorem addressByte_own {s : State} (rd : Bool) (hserved : served s 1 = true) (hsda : sdaOff s = false) :
    addressByte s (ownTwb s) rd =
      if twbAsleep s then modTwb s fun t => { linesMove (frameEnd 0 t) with ack := false, awake := true }
      else modTwb s fun t => { linesMove (frameEnd 0 t) with ack := true, reading := some rd } := by
  refine if_neg ?_
  show ¬(ownTwb s != ownTwb s || !served s 1 || sdaOff s) = true
  simp [hserved, hsda]

/-- Four bytes of a write that is going on (R276, R277). -/
theorem exec_twbWriteWord {s : State} (v : Word) (h : s.twb.reading = some false) :
    exec (.twbWriteWord v []) s =
      if !s.twb.loaded then
        done (modTwb s fun t => { linesMove t with ptr := v &&& 0xFFFFFFFC, loaded := true, ack := true })
      else if 256 ≤ s.twb.bytes then done (modTwb s fun t => { linesMove t with ack := false })
      else done (busWrite (modTwb s fun t => { linesMove t with ptr := t.ptr + 4, bytes := t.bytes + 4, ack := true }) 1
        s.twb.ptr v) := by
  refine if_neg ?_
  show ¬(s.twb.reading != some false) = true
  rw [h]
  decide

/-- What a read word moves: the lines, the pointer and the count of bytes (R278). -/
def pointerMoves (t : TwbSt) : TwbSt := { linesMove t with ptr := t.ptr + 4, bytes := t.bytes + 4 }

/-- A word of a read that is going on (R277, R278, R280). -/
theorem exec_twbReadWord {s : State} (h : s.twb.reading = some true) :
    exec (.twbReadWord []) s =
      if 256 ≤ s.twb.bytes then done (modTwb s fun t => { linesMove t with out := 0xFFFFFFFF, overrun := true })
      else if s.twb.stretchDis && !readyAtOnce s s.twb.ptr then done (modTwb s fun t => lateWord (linesMove t))
      else
        let x := busRead (modTwb s pointerMoves) 1 s.twb.ptr
        done (modTwb x fun t => { t with out := x.acc.rdata[(1 : Ctx)] }) := by
  refine if_neg ?_
  show ¬(s.twb.reading != some true) = true
  rw [h]
  decide

/-- A word of a read that is not ready in time (R280). -/
theorem exec_twbLate {s : State} (h : s.twb.reading = some true) (hb : s.twb.bytes < 256) :
    exec .twbLate s = done (modTwb s fun t => lateWord (linesMove t)) := by
  refine if_neg ?_
  show ¬(s.twb.reading != some true || decide (256 ≤ s.twb.bytes)) = true
  simp [h, hb]

/-- A read leaves of the two-wire target all but DENIED as it was (R274). -/
theorem accessRead_twb (s : State) (c : Ctx) (a : Word) : ∃ b, (accessRead s c a).2.twb = { s.twb with denied := b } := by
  have hlog : ∀ x : State, (logEvent x 0x0702 c (aData (alignedAddr a) 0 0)).twb = x.twb :=
    fun x => logEvent_same (k := .twb) x _ _ _ (by decide)
  unfold accessRead
  split
  · exact ⟨s.twb.denied, readOpen_keeps (k := .twb) (by decide) rfl⟩
  · unfold logDenied
    dsimp only
    rw [hlog]
    split
    · exact ⟨true, rfl⟩
    · exact ⟨s.twb.denied, rfl⟩

/-- A word read at the pointer is C1's read there, and the pointer has moved on (R277, R278). -/
theorem twbReadWord_reads {s : State} (hr : s.twb.reading = some true) (hb : s.twb.bytes < 256)
    (hst : (s.twb.stretchDis && !readyAtOnce s s.twb.ptr) = false) (hv : served s 1 = true) :
    ∃ t, exec (.twbReadWord []) s = .next t ∧
      t.acc.rdata[(1 : Ctx)] = (accessRead (modTwb s pointerMoves) 1 s.twb.ptr).1 ∧
      t.twb.out = (accessRead (modTwb s pointerMoves) 1 s.twb.ptr).1 ∧ t.twb.ptr = s.twb.ptr + 4 ∧
      t.twb.bytes = s.twb.bytes + 4 := by
  have hexec := exec_twbReadWord hr
  rw [if_neg (by omega), if_neg (by rw [hst]; exact Bool.false_ne_true)] at hexec
  have hbus : busRead (modTwb s pointerMoves) 1 s.twb.ptr = keepRead 1 (accessRead (modTwb s pointerMoves) 1 s.twb.ptr) :=
    if_pos hv
  rw [hbus] at hexec
  obtain ⟨b, htwb⟩ := accessRead_twb (modTwb s pointerMoves) 1 s.twb.ptr
  generalize accessRead (modTwb s pointerMoves) 1 s.twb.ptr = r at hexec htwb ⊢
  have hword : (keepRead 1 r).acc.rdata[(1 : Ctx)] = r.1 := vput_self _ _ _
  refine ⟨_, hexec, ?_⟩
  have hacc : ∀ y : State, (fin y).acc = y.acc := fun y => fin_keeps (k := .acc) (by decide) rfl
  have hfin : ∀ y : State, (fin y).twb = y.twb := fun y => fin_keeps (k := .twb) (by decide) rfl
  rw [hacc, hfin]
  exact ⟨hword, hword, congrArg TwbSt.ptr htwb, congrArg TwbSt.bytes htwb⟩

/-- Settles O41: each command of the bus by what the target is in the middle of. -/
theorem twoWireFramesAndPointer : Obligations.TwoWireFramesAndPointer := by
  unfold Obligations.TwoWireFramesAndPointer
  intro s hs
  dsimp only
  refine ⟨fun k x => ?edge, fun a rd h => ?refused, fun rd hv hd ha => ?taken, fun hv hd ha i hi => ?wakes, fun a ha => ?awake,
    fun hb hr => ?sleep, fun v hr => ⟨fun hl => ?pointer, fun hl hb => ?tooMany, fun hl hb => ?writes⟩,
    fun hr => ⟨fun hb => ?overrun, fun hb => ⟨?late, fun hst => ?stalls, fun hst hv => ?reads⟩⟩⟩
  case edge => exact done_modTwb hs _
  case refused => exact (congrArg done (addressByte_refused rd h)).trans (done_modTwb hs _)
  case taken =>
    have hbyte := addressByte_own rd hv hd
    rw [if_neg (by rw [show twbAsleep s = false from ha]; exact Bool.false_ne_true)] at hbyte
    exact (congrArg done hbyte).trans (done_modTwb hs _)
  case wakes =>
    have hbyte := fun rd => (addressByte_own rd hv hd).trans (if_pos ha)
    have hends := fun rd => (congrArg done (hbyte rd)).trans (done_modTwb hs _)
    simp only [List.mem_cons, List.not_mem_nil, or_false] at hi
    rcases hi with rfl | rfl | rfl
    · exact hends false
    · exact hends true
    · exact (congrArg done (if_pos ha)).trans (hends false)
  case awake =>
    refine (congrArg done (if_neg ?_)).trans (done_settled hs)
    rw [show twbAsleep s = false from ha]
    exact Bool.false_ne_true
  case sleep => exact (if_pos (by rw [hb, hr]; rfl)).trans (done_modTwb hs _)
  case pointer =>
    rw [exec_twbWriteWord v hr, if_pos (by rw [hl]; decide)]
    exact done_modTwb hs _
  case tooMany =>
    rw [exec_twbWriteWord v hr, if_neg (by rw [hl]; decide), if_pos hb]
    exact done_modTwb hs _
  case writes =>
    rw [exec_twbWriteWord v hr, if_neg (by rw [hl]; decide), if_neg (by omega)]
    exact ⟨_, rfl, rfl⟩
  case overrun =>
    rw [exec_twbReadWord hr, if_pos hb]
    exact done_modTwb hs _
  case late =>
    rw [exec_twbLate hr hb]
    exact done_modTwb hs _
  case stalls =>
    rw [exec_twbReadWord hr, if_neg (by omega), if_pos hst]
    exact done_modTwb hs _
  case reads =>
    obtain ⟨t, ht, hdata, hout, hptr, hbytes⟩ := twbReadWord_reads hr hb hst hv
    exact ⟨t, _, _, ht, rfl, hdata, hout, hptr, hbytes⟩

end Sys2Proof.Machine

/-! PROOFS. What leaves every link short of a turning point; a link that takes up an image, enters RETRAIN or leaves training;
a commit, link by link; training, state by state. -/

namespace Sys2Proof.Machine

/-! ### Short of a turning point -/

/-- A record but for the spares that it names. -/
def LinkRec.unspared (r : LinkRec) : LinkRec := { r with spare0 := none, spare1 := none }

/-- The record of a link in the working Last, but for its spares (R223). -/
def recBut (s : State) (l : LinkNo) : Option LinkRec := (linkRec s l).map LinkRec.unspared

/-- Of the Last a state holds what x does, but for the working image. -/
def worksOn (x : LastSt) (t : State) : Prop := ∃ w, t.last = { x with working := w }

/-- Of the Last a state holds what x does, but for the links' records. -/
def linksOn (x : LastSt) (t : State) : Prop := ∃ v, t.last = { x with working := { x.working with links := v } }

/-- No link has come to a turning point: no transmitter has come on, of the Last only the links' records have moved, of these
only the spares, and every commit's switch that was pending is. -/
structure Minor (s t : State) : Prop where
  dark : ∀ sd p, (getLane s sd p).tx.on = false → (getLane t sd p).tx.on = false
  last : linksOn s.last t
  recs : ∀ l, recBut t l = recBut s l
  pend : ∀ l, (getLink t l).pend = (getLink s l).pend

theorem Minor.refl (s : State) : Minor s s := ⟨fun _ _ h => h, ⟨_, rfl⟩, fun _ => rfl, fun _ => rfl⟩

theorem worksOn.trans {x : LastSt} {t u : State} (h : worksOn x t) (g : worksOn t.last u) : worksOn x u := by
  obtain ⟨v, hv⟩ := h
  obtain ⟨w, hw⟩ := g
  exact ⟨w, by rw [hw, hv]⟩

theorem linksOn.trans {x : LastSt} {t u : State} (h : linksOn x t) (g : linksOn t.last u) : linksOn x u := by
  obtain ⟨v, hv⟩ := h
  obtain ⟨w, hw⟩ := g
  exact ⟨w, by rw [hw, hv]⟩

theorem linksOn.worksOn {x : LastSt} {t : State} (h : linksOn x t) : worksOn x t := by
  obtain ⟨v, hv⟩ := h
  exact ⟨_, hv⟩

theorem Minor.trans {s t u : State} (h : Minor s t) (g : Minor t u) : Minor s u :=
  ⟨fun sd p k => g.dark sd p (h.dark sd p k), h.last.trans g.last, fun l => (g.recs l).trans (h.recs l),
    fun l => (g.pend l).trans (h.pend l)⟩

theorem recBut_of_last {s t : State} (h : t.last = s.last) (l : LinkNo) : recBut t l = recBut s l := by
  unfold recBut linkRec
  rw [h]

/-- What touches the lanes alone is minor where it turns no transmitter on. -/
theorem Minor.of_lanes {s t : State} (hk : t.links = s.links) (hl : t.last = s.last)
    (hd : ∀ sd p, (getLane s sd p).tx.on = false → (getLane t sd p).tx.on = false) : Minor s t :=
  ⟨hd, ⟨s.last.working.links, hl⟩, recBut_of_last hl, fun l => by unfold getLink; rw [hk]⟩

theorem Minor.of_same {s t : State} (hn : t.lanes = s.lanes) (hk : t.links = s.links) (hl : t.last = s.last) : Minor s t :=
  .of_lanes hk hl fun sd p h => by unfold getLane at h ⊢; rw [hn]; exact h

/-- What leaves lanes, links and the Last alone is minor. -/
theorem Minor.of_keeps {s t : State} {r : List Comp} (g : ∀ k : Comp, k ∉ r → k.same s t)
    (d : ∀ k ∈ [Comp.lanes, .links, .last], k ∉ r) : Minor s t :=
  .of_same (g .lanes (d _ (by decide))) (g .links (d _ (by decide))) (g .last (d _ (by decide)))

theorem foldl_minor {α : Type} {s x : State} {f : State → α → State} {r : List α} (hf : ∀ t a, Minor s t → Minor s (f t a))
    (h : Minor s x) : Minor s (r.foldl f x) := by
  induction r generalizing x with
  | nil => exact h
  | cons a r ih => exact ih (hf x a h)

theorem ite_minor {s a b : State} {c : Prop} {_ : Decidable c} (ha : Minor s a) (hb : Minor s b) :
    Minor s (if c then a else b) := by
  split
  · exact ha
  · exact hb

section
variable {s x : State} {sd : Side} {p : Pos} {l : LinkNo} {n : SpareNo} {d : Dir}

theorem modLane_minor {f : Lane → Lane} (hf : ∀ n : Lane, n.tx.on = false → (f n).tx.on = false) (h : Minor s x) :
    Minor s (modLane x sd p f) := by
  refine h.trans (.of_lanes rfl rfl fun sd' q g => ?_)
  by_cases e : (sd', q) = (sd, p)
  · cases e
    rw [getLane_modLane]
    exact hf _ g
  · rw [getLane_modLane_other _ _ _ _ _ _ e]
    exact g

theorem modRx_minor {f : LaneRx → LaneRx} (h : Minor s x) : Minor s (modRx x sd p f) := modLane_minor (fun _ g => g) h
theorem modMeas_minor {f : LaneMeas → LaneMeas} (h : Minor s x) : Minor s (modMeas x sd p f) := modLane_minor (fun _ g => g) h
theorem modCal_minor {f : LaneCal → LaneCal} (h : Minor s x) : Minor s (modCal x sd p f) := modLane_minor (fun _ g => g) h
theorem modTx_minor {f : LaneTx → LaneTx} (hf : ∀ n, n.on = false → (f n).on = false) (h : Minor s x) :
    Minor s (modTx x sd p f) := modLane_minor (fun n g => hf n.tx g) h

theorem modLink_minor {f : Link → Link} (hf : ∀ k, (f k).pend = k.pend) (h : Minor s x) : Minor s (modLink x l f) := by
  refine h.trans ⟨fun _ _ g => g, ⟨_, rfl⟩, fun _ => rfl, fun j => ?_⟩
  by_cases e : j = l
  · subst e
    rw [getLink_modLink, hf]
  · rw [getLink_modLink_other _ _ _ _ e]

theorem logEvent_minor {code : BitVec 16} {c : Ctx} {data : List Byte} (h : Minor s x) : Minor s (logEvent x code c data) :=
  h.trans (.of_keeps (fun k hk => logEvent_same (k := k) x code c data hk) (by decide))

theorem revertUnit_minor {r : RecalSt} {q : Bool} (h : Minor s x) : Minor s (revertUnit x r q) := by
  unfold revertUnit
  exact modCal_minor (modCal_minor h)

theorem endRecal_minor (h : Minor s x) : Minor s (endRecal x) := h.trans (.of_same rfl rfl rfl)

theorem stopRecal_minor {code : BitVec 16} {b : Bool} (h : Minor s x) : Minor s (stopRecal x code b) := by
  unfold stopRecal
  split
  · exact h
  · exact logEvent_minor (endRecal_minor (revertUnit_minor h))

theorem dropCdr_minor (h : Minor s x) : Minor s (dropCdr x sd p) := by
  have hscan : Minor x (scanLost x sd p) := .of_keeps (fun k hk => scanLost_keeps hk (k.same_refl x)) (by decide)
  exact modLane_minor (fun _ g => g) (ite_minor (h.trans hscan) h)

theorem coolRx_minor (h : Minor s x) : Minor s (coolRx x l n d) := by
  unfold coolRx
  split
  · exact ite_minor h (dropCdr_minor h)
  · exact h

/-! ### The Welt's common rule is minor -/

theorem prbsOff_minor {e : QEntry} (h : Minor s x) : Minor s (prbsOff x sd p e) := modMeas_minor h

theorem stopPrbs_minor {early : Bool} (h : Minor s x) : Minor s (stopPrbs x sd p early) := by
  unfold stopPrbs
  split
  · exact h
  · split
    · exact ite_minor h (prbsOff_minor (h.trans (.of_same rfl rfl rfl)))
    · exact h

theorem endTestJob_minor (h : Minor s x) : Minor s (endTestJob x sd p) := by
  unfold endTestJob
  split
  · exact ite_minor (stopPrbs_minor h) h
  · exact h

theorem endTests_minor (h : Minor s x) : Minor s (endTests x sd p) := by
  unfold endTests
  exact ite_minor (logEvent_minor (modMeas_minor (endTestJob_minor h))) (modMeas_minor (endTestJob_minor h))

theorem closePos_minor (h : Minor s x) : Minor s (closePos x p) := by
  unfold closePos
  refine foldl_minor (fun t sd g => modMeas_minor (endTests_minor g)) ?_
  exact (foldl_minor (fun t sd g => modTx_minor (fun _ _ => rfl) g) h).trans (.of_same rfl rfl rfl)

theorem settlePos_minor (h : Minor s x) : Minor s (settlePos x p) :=
  ite_minor (ite_minor (closePos_minor h) h) (ite_minor h (h.trans (.of_same rfl rfl rfl)))

theorem settleAll_minor (h : Minor s x) : Minor s (settleAll x) := foldl_minor (fun _ _ g => settlePos_minor g) h

theorem retarget_minor {old : LastImg} (h : Minor s x) : Minor s (retarget old x) := by
  unfold retarget
  refine foldl_minor (fun t q g => ite_minor g (ite_minor (modLane_minor (fun n e => ?_) g) (modLane_minor (fun n e => ?_) g))) h
  · exact (loadLane_on _ _ _ n).trans e
  · exact (aimLane_on _ _ _ _ n).trans e

/-! ### Spares, swaps and what else ends are minor -/

theorem setSpare_minor {c : SpareSt} (h : Minor s x) : Minor s (setSpare x l n d c) := modLink_minor (fun _ => rfl) h

/-- Of a record only the spares change. -/
theorem respare_minor {r r' : LinkRec} (hr : linkRec x l = some r) (hu : r'.unspared = r.unspared) (h : Minor s x) :
    Minor s { x with last := { x.last with working := { x.last.working with links := vput x.last.working.links l (some r') } } } := by
  refine h.trans ⟨fun _ _ g => g, ⟨_, rfl⟩, fun j => ?_, fun _ => rfl⟩
  show ((vput x.last.working.links l (some r'))[j]).map _ = _
  by_cases e : j = l
  · subst e
    rw [vput_self]
    show some r'.unspared = (linkRec x j).map _
    rw [hr, hu]
    rfl
  · rw [vput_other _ _ _ _ e]
    rfl

theorem leaveSpare_minor (h : Minor s x) : Minor s (leaveSpare x l n) := by
  unfold leaveSpare
  split
  · next next r _ hr =>
    refine ite_minor h (settleAll_minor (modLink_minor (fun _ => rfl) ?_))
    refine foldl_minor (fun t d g => setSpare_minor g) (retarget_minor (respare_minor hr ?_ h))
    split <;> rfl
  · exact h

theorem restSpare_minor (h : Minor s x) : Minor s (restSpare x l n d) := leaveSpare_minor (coolRx_minor (setSpare_minor h))

theorem dropSwap_minor {r : BitVec 4} (h : Minor s x) : Minor s (dropSwap x l r) :=
  modLink_minor (fun k => by split <;> rfl) h

theorem endSwaps_minor (h : Minor s x) : Minor s (endSwaps x l) := by
  unfold endSwaps
  dsimp only
  refine ite_minor (stopRecal_minor ?_) ?_ <;>
    exact foldl_minor (fun _ _ g => foldl_minor (fun _ _ g => ite_minor g (restSpare_minor g)) g)
      (modLink_minor (fun _ => rfl) (dropSwap_minor h))

theorem abandonSwap_minor (h : Minor s x) : Minor s (abandonSwap x l) := by
  unfold abandonSwap
  split
  · exact h
  · exact ite_minor (restSpare_minor (dropSwap_minor h)) (ite_minor (setSpare_minor (dropSwap_minor h)) (dropSwap_minor h))

theorem endPbl_minor (h : Minor s x) : Minor s (endPbl x l) :=
  foldl_minor (fun _ _ g => foldl_minor (fun _ _ g => ite_minor (modMeas_minor g) g) g) h

theorem leaveDisabled_minor (h : Minor s x) : Minor s (leaveDisabled x l) :=
  ite_minor (foldl_minor (fun _ _ g => foldl_minor (fun _ _ g => ite_minor (endTests_minor g) g) g) h) h

theorem endSearches_minor (h : Minor s x) : Minor s (endSearches x l) :=
  foldl_minor (fun _ _ g => foldl_minor (fun _ _ g => modLane_minor (fun _ e => e) g) g) h

theorem moveHold_minor {before : Option Pos} (h : Minor s x) : Minor s (moveHold before l d x) := by
  unfold moveHold
  split
  · refine ite_minor h ?_
    dsimp only
    split
    · exact modRx_minor (modRx_minor h)
    · exact modRx_minor h
  · exact h

/-- Masterships return, beside what f does. -/
theorem withMasters_minor {f : State → State}
    (h : Minor s (f (modLink x l fun k => { k with masterAB := none, masterBA := none }))) : Minor s (withMasters x l f) :=
  moveHold_minor (moveHold_minor h)

theorem dropMos_minor {r : List (BitVec 4)} (h : Minor s x) : Minor s (dropMos x l r) := modLink_minor (fun _ => rfl) h

theorem dropLink_minor (h : Minor s x) : Minor s (dropLink x l) := by
  unfold dropLink
  refine modLink_minor (fun _ => rfl) (modLink_minor (fun _ => rfl) (dropMos_minor (withMasters_minor ?_)))
  exact modLink_minor (fun _ => rfl) (endSwaps_minor (endSearches_minor (leaveDisabled_minor (endPbl_minor h))))

end

/-! ### A link takes up an image -/

section
variable {s x : State} {l : LinkNo} {old : LastImg}

theorem refreshSpare_minor {n : SpareNo} (h : Minor s x) : Minor s (refreshSpare old x l n) := by
  unfold refreshSpare
  dsimp only
  split
  · exact foldl_minor (fun _ _ g => setSpare_minor g) h
  · next r hr =>
    refine ite_minor (modLink_minor (fun _ => rfl) (respare_minor hr ?_ h)) (foldl_minor (fun t d g => ?_) h)
    · split <;> rfl
    · exact ite_minor (setSpare_minor g) (ite_minor (coolRx_minor (setSpare_minor g)) g)

theorem dropHolds_minor (h : Minor s x) : Minor s (dropHolds x l old) := by
  unfold dropHolds
  exact foldl_minor (fun _ _ g => foldl_minor (fun _ _ g => ite_minor g (modRx_minor g)) g) h

theorem relockPlls_minor (h : Minor s x) : Minor s (relockPlls x old) :=
  h.trans (.of_keeps (fun k hk => relockPlls_keeps hk (k.same_refl x)) (by decide))

theorem stepEpoch_minor (h : Minor s x) : Minor s (stepEpoch x l) := modLink_minor (fun _ => rfl) h

end

/-- A state with a link's settings taken from an image into the working Last (R110). -/
def merged (s : State) (l : LinkNo) (img : LastImg) : State :=
  s.putLast { s.last with working := mergeLink s.last.working img l }

/-- Beyond its settings a link that takes up an image changes nothing of weight. -/
theorem takeUp_minor (s : State) (l : LinkNo) (img : LastImg) : Minor (merged s l img) (takeUp s l img) := by
  unfold takeUp
  refine settleAll_minor (stepEpoch_minor (relockPlls_minor (retarget_minor ?_)))
  refine foldl_minor (fun _ _ g => refreshSpare_minor g) (dropHolds_minor (withMasters_minor ?_))
  exact modLink_minor (x := merged s l img) (l := l) (f := fun k => { k with masterAB := none, masterBA := none }) (fun _ => rfl)
    (.refl _)

theorem takeUp_last (s : State) (l : LinkNo) (img : LastImg) : worksOn s.last (takeUp s l img) :=
  worksOn.trans ⟨_, rfl⟩ (takeUp_minor s l img).last.worksOn

theorem takeUp_pend (s : State) (l j : LinkNo) (img : LastImg) : (getLink (takeUp s l img) j).pend = (getLink s j).pend :=
  (takeUp_minor s l img).pend j

theorem takeUp_stays_dark (s : State) (l : LinkNo) (img : LastImg) (sd : Side) (p : Pos) (h : (getLane s sd p).tx.on = false) :
    (getLane (takeUp s l img) sd p).tx.on = false := (takeUp_minor s l img).dark sd p h

/-- The link's record is the image's but for a spare that still serves (R223). -/
theorem recBut_takeUp (s : State) (l : LinkNo) (img : LastImg) :
    recBut (takeUp s l img) l = (img.links[l]).map LinkRec.unspared := by
  rw [(takeUp_minor s l img).recs l]
  show ((vput s.last.working.links l img.links[l])[l]).map _ = _
  rw [vput_self]

theorem recBut_takeUp_other (s : State) {l j : LinkNo} (img : LastImg) (h : j ≠ l) :
    recBut (takeUp s l img) j = recBut s j := by
  rw [(takeUp_minor s l img).recs j]
  show ((vput s.last.working.links l img.links[l])[j]).map _ = _
  rw [vput_other _ _ _ _ h]
  rfl

/-- A record is another one but for the spares that it names. -/
def namedAs (w o : Option LinkRec) : Prop :=
  match o with
  | none => w = none
  | some r => ∃ a b, w = some { r with spare0 := a, spare1 := b }

theorem namedAs_of_recBut {t : State} {l : LinkNo} {o : Option LinkRec} (h : recBut t l = o.map LinkRec.unspared) :
    namedAs t.last.working.links[l] o := by
  have h' : (t.last.working.links[l]).map LinkRec.unspared = o.map LinkRec.unspared := h
  generalize t.last.working.links[l] = w at h' ⊢
  cases o with
  | none => exact Option.map_eq_none_iff.1 h'
  | some r =>
    cases w with
    | none => simp at h'
    | some q =>
      have e : q.unspared = r.unspared := Option.some.inj h'
      refine ⟨q.spare0, q.spare1, congrArg some ?_⟩
      exact congrArg (fun x : LinkRec => { x with spare0 := q.spare0, spare1 := q.spare1 }) e

/-- What a property of records that looks at no spare asks of the record but for its spares. -/
theorem recIs_recBut (s : State) (l : LinkNo) (f : LinkRec → Bool) (hf : ∀ r, f r.unspared = f r) :
    recIs s l f = (recBut s l).any f := by
  unfold recIs recBut
  cases linkRec s l with
  | none => rfl
  | some r => exact (hf r).symm

theorem isTrans_recBut (s : State) (l : LinkNo) : isTrans s l = (recBut s l).any (·.mode == .transparent) :=
  recIs_recBut s l _ fun _ => rfl

/-! ### The end of a commit -/

/-- The Last as it is once no link's result is pending (R116). -/
def LastSt.ended (x : LastSt) : LastSt :=
  if x.shadow = .committing ∧ ∀ j : LinkNo, x.outcome[j] ≠ 1 then
    { x with shadow := .empty, staged := none, bank := [], done := true } else x

theorem checkDone_last (s : State) : (checkDone s).last = s.last.ended := by
  have hc : (committing s && allLinks.all fun l => s.last.outcome[l] != 1) = true ↔
      s.last.shadow = .committing ∧ ∀ j : LinkNo, s.last.outcome[j] ≠ 1 := by
    simp [committing, allLinks]
  unfold checkDone LastSt.ended
  by_cases h : s.last.shadow = .committing ∧ ∀ j : LinkNo, s.last.outcome[j] ≠ 1
  · rw [if_pos (hc.2 h), if_pos h]
    exact logEvent_same (k := .last) _ _ _ _ (by decide)
  · rw [if_neg fun g => h (hc.1 g), if_neg h]

theorem checkDone_links (s : State) : (checkDone s).links = s.links := checkDone_keeps (k := .links) (by decide) rfl

theorem LastSt.ended_over {x : LastSt} (h : x.shadow = .committing ∧ ∀ j : LinkNo, x.outcome[j] ≠ 1) :
    x.ended = { x with shadow := .empty, staged := none, bank := [], done := true } := if_pos h

theorem LastSt.ended_pending {x : LastSt} (h : ¬(x.shadow = .committing ∧ ∀ j : LinkNo, x.outcome[j] ≠ 1)) : x.ended = x := if_neg h

theorem LastSt.ended_on (x : LastSt) (w : LastImg) :
    ({ x with working := w } : LastSt).ended = { x.ended with working := w } := by
  by_cases h : x.shadow = .committing ∧ ∀ j : LinkNo, x.outcome[j] ≠ 1
  · rw [x.ended_over h, LastSt.ended_over (x := { x with working := w }) h]
  · rw [x.ended_pending h, LastSt.ended_pending (x := { x with working := w }) h]

/-- The end of a commit looks at the Last but not at the working image. -/
theorem checkDone_worksOn {x : LastSt} {t : State} (h : worksOn x t) : worksOn x.ended (checkDone t) := by
  obtain ⟨w, hw⟩ := h
  refine ⟨w, ?_⟩
  rw [checkDone_last, hw]
  exact x.ended_on w

theorem getLink_checkDone (s : State) (l : LinkNo) : getLink (checkDone s) l = getLink s l := by
  unfold getLink
  rw [checkDone_links]

/-- A link's result is noted, and nothing is pending on it any more. -/
theorem setResult_worksOn {x : LastSt} {t : State} (l : LinkNo) (r : BitVec 4) (h : worksOn x t) :
    worksOn (LastSt.ended { x with outcome := vput x.outcome l r }) (setResult t l r) := by
  obtain ⟨w, hw⟩ := h
  refine checkDone_worksOn ⟨w, ?_⟩
  show { t.last with outcome := vput t.last.outcome l r } = _
  rw [hw]

theorem getLink_setResult (s : State) (l : LinkNo) (r : BitVec 4) :
    getLink (setResult s l r) l = { getLink s l with pend := .none } := by
  unfold setResult
  rw [getLink_checkDone, getLink_modLink]
  rfl

/-! ### The commands' common end and one link -/

/-- What looks at no MOS that waits is as it was before the commands' common end. -/
theorem fin_field {α : Type} (f : Link → α) (hf : ∀ k a b, f { k with outAB := a, outBA := b } = f k) (s : State) (l : LinkNo) :
    f (getLink (fin s) l) = f (getLink s l) := (hf _ _ _).symm.trans (congrArg f (fin_links s l))

/-- Where no restart of the Heel is due the commands' common end leaves the lanes. -/
theorem fin_lanes {s : State} (h : s.heel.restartDue = false) : (fin s).lanes = s.lanes := by
  unfold fin
  rw [if_neg (by rw [h]; decide)]
  exact watchAttn_keeps (k := .lanes) (by decide) (unholdErase_keeps (k := .lanes) (by decide) rfl)

theorem restartDue_of_settled {s : State} (h : s.settled = true) : s.heel.restartDue = false := (calm_of_settled h).1

theorem modLink_congr (s : State) (l : LinkNo) {f g : Link → Link} (h : f (getLink s l) = g (getLink s l)) :
    modLink s l f = modLink s l g := by
  unfold modLink vmod
  exact congrArg (fun k => { s with links := vput s.links l k }) h

theorem vput_vput {α : Type} {n : Nat} (v : Vector α n) (i : Fin n) (x y : α) : vput (vput v i x) i y = vput v i y := by
  unfold vput
  exact Vector.set_set ..

theorem vput_same {α : Type} {n : Nat} (v : Vector α n) (i : Fin n) : vput v i v[i] = v := by
  unfold vput
  exact Vector.set_getElem_self _

theorem modLink_modLink (s : State) (l : LinkNo) (f g : Link → Link) : modLink (modLink s l f) l g = modLink s l fun k => g (f k) := by
  unfold modLink vmod
  dsimp only
  rw [vput_vput, vput_self]

theorem modLink_same {s : State} {l : LinkNo} {f : Link → Link} (h : f (getLink s l) = getLink s l) : modLink s l f = s := by
  rw [modLink_congr s l (g := fun k => k) h]
  unfold modLink vmod
  rw [vput_same]

theorem done_modLink {s : State} (hs : s.settled = true) (l : LinkNo) (f : Link → Link) :
    done (modLink s l f) = .next (modLink s l f) :=
  done_of_same hs rfl rfl rfl rfl rfl rfl rfl

theorem done_modLane {s : State} (hs : s.settled = true) (sd : Side) (p : Pos) (f : Lane → Lane) :
    done (modLane s sd p f) = .next (modLane s sd p f) :=
  done_of_same hs rfl rfl rfl rfl rfl rfl rfl

/-! ### A link enters RETRAIN -/

/-- A link as its entry to RETRAIN leaves it (R185). -/
def Link.retrained (k : Link) (b : Bool) : Link :=
  { k with
    trainA := k.trainA.fresh, trainB := k.trainB.fresh
    st := .retrain, retrains := satInc k.retrains, editAB := none, editBA := none, waitLoss := [], release := none
    grants := Vector.replicate 3 none, waking := none, deepWake := false, retrainAsked := false
    exitRetrain := false, rateBad := false, rateOld := b }

/-- What is dropped as a link enters RETRAIN. -/
def retrainDrops (s : State) (l : LinkNo) : State := dropMos (abandonSwap (endPbl s l) l) l [mosSpare, mosRetrainReq]

/-- The entry to RETRAIN up to the switch of a commit that waits for it. -/
def retrainBegun (s : State) (l : LinkNo) : State :=
  modLink (retrainDrops s l) l fun k => k.retrained !isLoopTimed (retrainDrops s l) l

theorem retrainBegun_minor (s : State) (l : LinkNo) : Minor s (retrainBegun s l) :=
  modLink_minor (fun _ => rfl) (dropMos_minor (abandonSwap_minor (endPbl_minor (.refl s))))

theorem retrainBegun_self (s : State) (l : LinkNo) :
    ∃ b, (getLink (retrainBegun s l) l).bare = ((getLink s l).retrained b).bare := by
  have hdrops : Course s (retrainDrops s l) := dropMos_course (abandonSwap_course (endPbl_course (Course.refl s)))
  exact ⟨_, modLink_self (fun _ => rfl) hdrops⟩

theorem retrainBegun_pend {s : State} {l : LinkNo} {x : PendKind} (h : (getLink s l).pend = x) :
    (getLink (retrainBegun s l) l).pend = x := ((retrainBegun_minor s l).pend l).trans h

/-- Where no switch is pending the entry ends there. -/
theorem enterRetrain_plain {s : State} {l : LinkNo} (h : (getLink s l).pend = .none) : enterRetrain s l = retrainBegun s l := by
  have hp := retrainBegun_pend h
  unfold enterRetrain
  dsimp only
  split
  · next e => exact absurd (hp.symm.trans e) nofun
  · next e => exact absurd (hp.symm.trans e) nofun
  · rfl

/-- A switch that waits for the entry to RETRAIN is made there (R112). -/
theorem enterRetrain_switches {s : State} {l : LinkNo} (h : (getLink s l).pend = .retrain) :
    enterRetrain s l = modLink (switchLink (retrainBegun s l) l) l fun k => { k with pend := .switched } := by
  have hp := retrainBegun_pend h
  unfold enterRetrain
  dsimp only
  split
  · next e => exact absurd (hp.symm.trans e) nofun
  · rfl
  · next hn => exact absurd hp hn

/-- Whatever is pending, the link is in RETRAIN, and counts it. -/
theorem enterRetrain_self (s : State) (l : LinkNo) :
    ∃ b, (getLink (enterRetrain s l) l).bare = ((getLink s l).retrained b).bare := by
  obtain ⟨b, hb⟩ := retrainBegun_self s l
  refine ⟨b, Eq.trans ?_ hb⟩
  have hswitch : Course (retrainBegun s l) (switchLink (retrainBegun s l) l) := switchLink_course (Course.refl _)
  unfold enterRetrain
  dsimp only
  split
  · exact setResult_course hswitch l
  · exact modLink_self (f := fun k => { k with pend := .switched }) (fun _ => rfl) hswitch
  · rfl

/-- A retrain request over the channel (R186). -/
theorem requestRetrain_asks {s : State} {l : LinkNo} (h : imcOn (getLink s l) = true) :
    requestRetrain s l =
      modLink (sendOwn (sendOwn s l 0 mosRetrainReq []) l 3 mosRetrainReq []) l fun k => { k with retrainAsked := true } :=
  if_pos h

/-- Without the channel the link enters RETRAIN at once (R186). -/
theorem requestRetrain_enters {s : State} {l : LinkNo} (h : imcOn (getLink s l) = false) :
    requestRetrain s l = modLink (enterRetrain s l) l fun k => { k with idleOut := true } :=
  if_neg (by rw [h]; decide)

/-! ### A link leaves training -/

/-- DETECT is entered from a training state that has not been completed: an attempt has failed (R177). -/
def Link.failing (k : Link) : Bool := k.st != .detect && k.st != .active && k.st != .notTraining

/-- A link in DETECT, of which a failed attempt is counted. -/
def Link.detected (k : Link) (failed : Bool) (c : BitVec 4) (r : BitVec 3) : Link :=
  { k with
    st := .detect, rate := r, lastFail := if failed then c else k.lastFail
    failRun := if failed then satInc k.failRun else k.failRun }

/-- A link enters DETECT and stays there where no switch is pending, nothing disables it and no limit of failures stands it
aside. -/
theorem enterDetect_eq {s : State} {l : LinkNo} (c : BitVec 4) (hp : (getLink s l).pend = .none)
    (hd : (getLink s l).disable = false) (ha : s.last.working.welt[l].asideFail = false) :
    ∃ r, enterDetect s l c = modLink (dropLink s l) l fun k => k.detected (getLink s l).failing c r := by
  have hwait : switchWaiting s l = s := if_neg (by rw [hp]; decide)
  have hwelt : (dropLink s l).last.working.welt = s.last.working.welt := by
    obtain ⟨v, hv⟩ := (dropLink_minor (l := l) (.refl s)).last
    rw [hv]
  have hdis : (getLink (dropLink s l) l).disable = false :=
    (bare_field Link.disable (fun _ => rfl) (dropLink_self l (Course.refl s))).trans hd
  unfold enterDetect
  dsimp only
  rw [hwait]
  generalize dropLink s l = y at hwelt hdis ⊢
  change ∃ r, (if ((getLink s l).failing && y.last.working.welt[l].asideFail && _) = true then _ else _) = _
  rw [hwelt, ha, Bool.and_false, Bool.false_and, if_neg Bool.false_ne_true, getLink_modLink]
  exact ⟨_, if_neg (by rw [hdis]; decide)⟩

theorem enterDetect_plain {s : State} {l : LinkNo} (c : BitVec 4) (hp : (getLink s l).pend = .none)
    (hd : (getLink s l).disable = false) (ha : s.last.working.welt[l].asideFail = false) :
    ∃ r, (getLink (enterDetect s l c) l).bare = ((getLink s l).dropped.detected (getLink s l).failing c r).bare := by
  obtain ⟨r, hr⟩ := enterDetect_eq c hp hd ha
  refine ⟨r, ?_⟩
  have hbare : ∀ k : Link, (k.detected (getLink s l).failing c r).bare = (k.bare.detected (getLink s l).failing c r).bare :=
    fun _ => rfl
  rw [hr, getLink_modLink, hbare, dropLink_self l (Course.refl s), ← hbare]

/-! ### Training sets -/

/-- What a training set tells of a link: the training that the part follows on its sides. -/
def Link.untold (k : Link) : Link :=
  { k with trainA := Reset.sideTrain, trainB := Reset.sideTrain, disA := false, disB := false, rateOld := false }

/-- A link has heard of nothing but training sets. -/
def Heard (l : LinkNo) (s t : State) : Prop := (getLink t l).untold = (getLink s l).untold

theorem Heard.of_links {l : LinkNo} {s t : State} (h : t.links = s.links) : Heard l s t := by
  unfold Heard getLink
  rw [h]

theorem Heard.trans {l : LinkNo} {s t u : State} (h : Heard l s t) (g : Heard l t u) : Heard l s u := Eq.trans g h

theorem Heard.field {α : Type} {l : LinkNo} {s t : State} (f : Link → α) (hf : ∀ k, f k = f k.untold) (h : Heard l s t) :
    f (getLink t l) = f (getLink s l) := by
  rw [hf, show (getLink t l).untold = _ from h, ← hf]

theorem modLink_heard (s : State) (l : LinkNo) {f : Link → Link} (hf : ∀ k, (f k).untold = k.untold) : Heard l s (modLink s l f) := by
  unfold Heard
  rw [getLink_modLink, hf]

theorem modTr_heard (s : State) (l : LinkNo) (sd : Side) (f : SideTrain → SideTrain) : Heard l s (modTr s l sd f) :=
  modLink_heard s l fun _ => by cases sd <;> rfl

theorem readTosA_heard (s : State) (l : LinkNo) (sd : Side) (k : LLane) (t : Tos) : Heard l s (readTosA s l sd k t) := by
  unfold readTosA
  dsimp only
  have hlane := modTr_heard s l sd fun x =>
    { x with
      laneOk := if tosAt t 3 == BitVec.ofNat 8 k.val then x.laneOk ||| bit16 k else x.laneOk &&& ~~~(bit16 k)
      width := tosAt t 4
      skewOk := decide (t.skew ≤ match linkRec s l with | some r => r.deskew | none => 0) }
  split
  · exact hlane
  · exact ((hlane.trans (modTr_heard _ l sd _)).trans (modTr_heard _ l sd _)).trans
      (modLink_heard _ l fun _ => by cases sd <;> rfl)

theorem sendTos_heard (s : State) (l : LinkNo) (sd : Side) (k : LLane) (t : Tos) : Heard l s (sendTos s l sd k t) := by
  unfold sendTos
  split
  · unfold putSet
    dsimp only
    split
    · exact (modTr_heard s l sd _).trans (.of_links (planSet_keeps (k := .links) (by decide) rfl))
    · exact modTr_heard s l sd _
  · exact .of_links rfl

theorem getLink_holdSet (s : State) (l : LinkNo) (sd : Side) (k : LLane) (j : LinkNo) : getLink (holdSet s l sd k) j = getLink s j := by
  unfold getLink
  rw [show (holdSet s l sd k).links = s.links from holdSet_keeps (k := .links) (by decide) rfl]

theorem holdSet_last (s : State) (l : LinkNo) (sd : Side) (k : LLane) : (holdSet s l sd k).last = s.last :=
  holdSet_keeps (k := .last) (by decide) rfl

/-- A set is taken: on a joined Participating link, on a lane with symbol lock at the link's rate (R168, R190). -/
def takesSet (s : State) (l : LinkNo) (sd : Side) (k : LLane) : Bool :=
  isPart s l && (getLink s l).join == .joined && laneSym s l sd.rxDir k && atLinkRate s l sd k

theorem trainingSet_refused {s : State} {l : LinkNo} {sd : Side} {k : LLane} (t : Tos) (h : takesSet s l sd k = false) :
    trainingSet s l sd k t = s := by
  have hnot : (!isPart s l || (getLink s l).join != .joined || !laneSym s l sd.rxDir k || !atLinkRate s l sd k) =
      !takesSet s l sd k := by
    simp only [takesSet, bne, Bool.not_and]
  exact if_pos (by rw [hnot, h]; rfl)

theorem isTosA_iff (t : Tos) : isTosA t = true ↔ t.pos[0] = 0x4A := by
  have : tosAt t 2 = t.pos[0] := by simp [tosAt]
  simp [isTosA, this]

theorem isTosB_iff (t : Tos) : isTosB t = true ↔ t.pos[0] = 0x4B := by
  have : tosAt t 2 = t.pos[0] := by simp [tosAt]
  simp [isTosB, this]

/-- A set of a known TYPE that is taken, by the link's state. -/
theorem trainingSet_taken {s : State} {l : LinkNo} {sd : Side} {k : LLane} {t : Tos} {st : TrainState}
    (h : takesSet s l sd k = true) (ht : isTosA t = true ∨ isTosB t = true) (hst : (getLink s l).st = st) :
    (st = .loopback ∨ st = .disabled ∨ st = .notTraining → trainingSet s l sd k t = holdSet s l sd k) ∧
    (st = .active → isTosA t = true → k ∈ trainedLanes s l →
      trainingSet s l sd k t = tosAIn (enterRetrain (holdSet s l sd k) l) l sd k t) ∧
    (st = .detect ∨ st = .align → trainingSet s l sd k t =
      if isTosA t then tosAIn (holdSet s l sd k) l sd k t else tosBIn (holdSet s l sd k) l sd k t) := by
  have hst' : (getLink (holdSet s l sd k) l).st = st := (congrArg Link.st (getLink_holdSet s l sd k l)).trans hst
  unfold takesSet at h
  simp only [Bool.and_eq_true, beq_iff_eq] at h
  obtain ⟨⟨⟨hp, hj⟩, hs⟩, hr⟩ := h
  have hlanes : trainedLanes (holdSet s l sd k) l = trainedLanes s l := by
    unfold trainedLanes linkRec
    rw [getLink_holdSet, holdSet_last]
  unfold trainingSet
  rw [if_neg (by simp [hp, hj, hs, hr])]
  dsimp only
  rw [if_neg (by rcases ht with e | e <;> simp [e]), hst']
  refine ⟨?_, ?_, ?_⟩
  · rintro (rfl | rfl | rfl) <;> rfl
  · rintro rfl ha hk
    exact if_pos (by rw [ha, hlanes]; simpa using hk)
  · rintro (rfl | rfl) <;> rfl

/-- In TRAIN.ALIGN a TOS-A that travels from A to B counts the part in (R172). -/
theorem takeHops_counts (s : State) (l : LinkNo) (hops : Byte) :
    (getLink (takeHops s l .AB hops) l).index = indexOf (hops.extractLsb' 0 2) := by
  have hput : ∀ x, (getLink (modLink s l fun k => { k with index := x }) l).index = x := fun x => by rw [getLink_modLink]
  unfold takeHops
  dsimp only
  split
  · exact hput _
  · unfold logK getLink
    rw [show (logEvent _ _ _ _).links = _ from logEvent_same (k := .links) _ _ _ _ (by decide)]
    exact hput _

theorem tosAIn_counts {s : State} {l : LinkNo} {k : LLane} {t : Tos} (h : (getLink s l).st = .align) :
    (getLink (tosAIn s l .A k t) l).index = indexOf ((tosAt t 6).extractLsb' 0 2) := by
  have hplain : (if (getLink s l).st == .detect || (getLink s l).st == .retrain then seenTos s l .A k else s) = s :=
    if_neg (by rw [h]; decide)
  unfold tosAIn
  dsimp only
  rw [hplain, if_pos (by rw [h]; decide)]
  exact (((readTosA_heard _ l .A k t).trans (sendTos_heard _ l .A k t)).field Link.index fun _ => rfl).trans
    (takeHops_counts s l _)

/-- A link at the start of TRAIN.ALIGN: no lane has shown ALIGNED yet, nobody asks to skip equalisation. -/
def Link.aligns (k : Link) : Prop := k.st = .align ∧ k.width = 0 ∧ k.trainA.eqSkip = false ∧ k.trainA.alignRun = 0

theorem enterAlign_aligns (s : State) (l : LinkNo) : (getLink (enterAlign s l) l).aligns := by
  unfold enterAlign
  dsimp only
  rw [getLink_modLink]
  exact ⟨rfl, rfl, rfl, rfl⟩

theorem enterAlign_retrains (s : State) (l : LinkNo) : (getLink (enterAlign s l) l).retrains = (getLink s l).retrains := by
  have hlinks : (bothSides.foldl (fun t sd => modRxs t sd (linkPoss t.last.working l) fun n => { n with driftRun := 0 }) s).links =
      s.links := foldl_keeps (k := .links) rfl fun _ _ h => modRxs_keeps (k := .links) (by decide) h
  unfold enterAlign
  dsimp only
  rw [getLink_modLink]
  exact congrArg (fun v : Vector Link 8 => v[l].retrains) hlinks

theorem modTr_aligns {s : State} {l : LinkNo} {sd : Side} {f : SideTrain → SideTrain} (h : (getLink s l).aligns)
    (hf : ∀ x, (f x).eqSkip = x.eqSkip ∧ (f x).alignRun = x.alignRun) : (getLink (modTr s l sd f) l).aligns := by
  obtain ⟨hst, hw, hskip, hrun⟩ := h
  unfold modTr
  rw [getLink_modLink]
  cases sd
  · exact ⟨hst, hw, (hf _).1.trans hskip, (hf _).2.trans hrun⟩
  · exact ⟨hst, hw, hskip, hrun⟩

theorem aligns_of_links {s t : State} {l : LinkNo} (e : t.links = s.links) (h : (getLink s l).aligns) : (getLink t l).aligns := by
  unfold getLink at h ⊢
  rw [e]
  exact h

theorem readTosB_aligns {s : State} {l : LinkNo} {sd : Side} {k : LLane} {t : Tos} (h : (getLink s l).aligns) :
    (getLink (readTosB s l sd k t) l).aligns := by
  have hphase := modTr_aligns (sd := sd)
    (f := fun x => { x with eqPhase := (tosAt t 4).extractLsb' 0 2, mlane := tosAt t 8 }) h fun _ => ⟨rfl, rfl⟩
  unfold readTosB
  dsimp only
  split
  · exact hphase
  · exact modTr_aligns hphase fun _ => ⟨rfl, rfl⟩

theorem sendTos_aligns {s : State} {l : LinkNo} {sd : Side} {k : LLane} {t : Tos} (h : (getLink s l).aligns) :
    (getLink (sendTos s l sd k t) l).aligns := by
  unfold sendTos
  split
  · have hsent : ∀ out, (getLink (modTr s l sd fun x => { x with sent := some out }) l).aligns :=
      fun out => modTr_aligns h fun _ => ⟨rfl, rfl⟩
    unfold putSet
    dsimp only
    split
    · exact aligns_of_links rfl (hsent _)
    · exact hsent _
  · exact h

/-- No set of TRAIN.ALIGN's first moves it on (Table 6-5). -/
theorem advance06_aligns {s : State} {l : LinkNo} (h : (getLink s l).aligns) : advance06 s l = s := by
  obtain ⟨hst, -, hskip, hrun⟩ := h
  unfold advance06
  dsimp only
  rw [hst]
  dsimp only
  rw [if_neg (by rw [hskip]; simp), if_neg (by rw [hrun]; simp)]

/-- A set on lane 0 with the other side seen and receivers on both sides takes DETECT to TRAIN.ALIGN. -/
theorem seenTos_aligns {s : State} {l : LinkNo} {sd : Side} (hrate : (getLink s l).rate ≠ 0)
    (hseen : (sideTr (getLink s l) sd.other).seen = true) (ha : (getLink s l).detwA ≠ 0) (hb : (getLink s l).detwB ≠ 0) :
    (getLink (seenTos s l sd 0) l).aligns := by
  have hpos : ∀ w : BitVec 5, w ≠ 0 → 1 ≤ w.toNat := fun w hw => by
    have : w.toNat ≠ 0 := fun e => hw (BitVec.eq_of_toNat_eq e)
    omega
  have hset : ¬(getLink s l).rate = 0#3 := hrate
  have hlink : getLink (modTr (modLink s l fun x => { x with rateOld := false }) l sd fun x => { x with seen := true }) l =
      match sd with
      | .A => { getLink s l with rateOld := false, trainA := { (getLink s l).trainA with seen := true } }
      | .B => { getLink s l with rateOld := false, trainB := { (getLink s l).trainB with seen := true } } := by
    unfold modTr
    rw [getLink_modLink, getLink_modLink]
    cases sd <;> rfl
  unfold seenTos
  rw [if_neg (by decide)]
  dsimp only
  rw [if_pos]
  · exact enterAlign_aligns _ l
  · unfold bothSeen
    rw [hlink]
    cases sd
    · have hseen : (getLink s l).trainB.seen = true := hseen
      simp [hset, hseen, hpos _ ha, hpos _ hb]
    · have hseen : (getLink s l).trainA.seen = true := hseen
      simp [hset, hseen, hpos _ ha, hpos _ hb]

theorem tosBIn_aligns {s : State} {l : LinkNo} {sd : Side} {t : Tos} (hst : (getLink s l).st = .detect)
    (hrate : (getLink s l).rate ≠ 0) (hseen : (sideTr (getLink s l) sd.other).seen = true) (ha : (getLink s l).detwA ≠ 0)
    (hb : (getLink s l).detwB ≠ 0) : (getLink (tosBIn s l sd 0 t) l).aligns := by
  have hread := readTosB_aligns (sd := sd) (k := 0) (t := t) (seenTos_aligns hrate hseen ha hb)
  have hsees : (if (getLink s l).st == .detect || (getLink s l).st == .retrain then seenTos s l sd 0 else s) = seenTos s l sd 0 :=
    if_pos (by rw [hst]; decide)
  unfold tosBIn
  dsimp only
  rw [hsees]
  generalize readTosB (seenTos s l sd 0) l sd 0 t = x at hread ⊢
  have hanswer : (getLink (takeAnswer (answerRequest x l sd 0 (tosAt t 5)) l sd 0 (tosAt t 6)) l).aligns :=
    aligns_of_links (takeAnswer_keeps (k := .links) (by decide) (answerRequest_keeps (k := .links) (by decide) rfl)) hread
  rw [if_neg (by rw [hanswer.1]; decide), advance06_aligns (sendTos_aligns hanswer)]
  exact sendTos_aligns hanswer

/-- A link that trains again: in RETRAIN or at TRAIN.ALIGN, with so many retrains counted. -/
def Link.trainsAgain (n : BitVec 16) (k : Link) : Prop := (k.st = .retrain ∨ k.st = .align) ∧ k.retrains = n

theorem Heard.trainsAgain {l : LinkNo} {n : BitVec 16} {s t : State} (h : Heard l s t) (g : (getLink s l).trainsAgain n) :
    (getLink t l).trainsAgain n := by
  unfold Link.trainsAgain
  rw [h.field Link.st fun _ => rfl, h.field Link.retrains fun _ => rfl]
  exact g

theorem seenTos_trainsAgain {s : State} {l : LinkNo} {sd : Side} {k : LLane} {n : BitVec 16} (h : (getLink s l).trainsAgain n) :
    (getLink (seenTos s l sd k) l).trainsAgain n := by
  have hseen : Heard l s (modTr (modLink s l fun x => { x with rateOld := false }) l sd fun x => { x with seen := true }) :=
    (modLink_heard s l (f := fun x => { x with rateOld := false }) fun _ => rfl).trans (modTr_heard _ l sd _)
  unfold seenTos
  split
  · exact h
  · dsimp only
    split
    · refine ⟨.inr (enterAlign_aligns _ l).1, ?_⟩
      rw [enterAlign_retrains]
      exact (hseen.trainsAgain h).2
    · exact hseen.trainsAgain h

theorem takeHops_trainsAgain {s : State} {l : LinkNo} {d : Dir} {hops : Byte} {n : BitVec 16} (h : (getLink s l).trainsAgain n) :
    (getLink (takeHops s l d hops) l).trainsAgain n := by
  have hput : ∀ f : Link → Link, (∀ k, (f k).st = k.st ∧ (f k).retrains = k.retrains) → (getLink (modLink s l f) l).trainsAgain n := by
    intro f hf
    rw [getLink_modLink]
    unfold Link.trainsAgain
    rw [(hf _).1, (hf _).2]
    exact h
  unfold takeHops
  cases d with
  | AB =>
    dsimp only
    split
    · exact hput _ fun _ => ⟨rfl, rfl⟩
    · refine (Heard.of_links (l := l) ?_).trainsAgain (hput (fun k => { k with index := indexOf (hops.extractLsb' 0 2) }) fun _ => ⟨rfl, rfl⟩)
      exact logK_keeps (k := .links) (by decide) rfl
  | BA => exact hput _ fun _ => ⟨rfl, rfl⟩

theorem tosAIn_trainsAgain {s : State} {l : LinkNo} {sd : Side} {k : LLane} {t : Tos} {n : BitVec 16}
    (h : (getLink s l).trainsAgain n) : (getLink (tosAIn s l sd k t) l).trainsAgain n := by
  have hends : ∀ x : State, (getLink x l).trainsAgain n → (getLink (sendTos (readTosA x l sd k t) l sd k t) l).trainsAgain n :=
    fun x hx => ((readTosA_heard x l sd k t).trans (sendTos_heard _ l sd k t)).trainsAgain hx
  have hseen : (getLink (if (getLink s l).st == .detect || (getLink s l).st == .retrain then seenTos s l sd k else s) l).trainsAgain n := by
    split
    · exact seenTos_trainsAgain h
    · exact h
  have hcounts : ∀ x : State, (getLink x l).trainsAgain n →
      (getLink (if (getLink x l).st == .align then takeHops x l sd.rxDir (tosAt t 6) else x) l).trainsAgain n := fun x hx => by
    split
    · exact takeHops_trainsAgain hx
    · exact hx
  exact hends _ (hcounts _ hseen)

theorem exec_trainingSet_idle {s : State} {l : LinkNo} {sd : Side} {k : LLane} {t : Tos} (hs : s.settled = true)
    (h : takesSet s l sd k = true) (ht : isTosA t = true ∨ isTosB t = true)
    (hst : (getLink s l).st = .loopback ∨ (getLink s l).st = .disabled ∨ (getLink s l).st = .notTraining) :
    ∃ u, exec (.trainingSetReceived l sd k t) s = .next u ∧ sameBut [.lanes] s u := by
  have hkeeps : sameBut [.lanes] s (holdSet s l sd k) := fun c hc => holdSet_keeps hc (c.same_refl s)
  refine ⟨_, (congrArg done ((trainingSet_taken h ht rfl).1 hst)).trans ?_, hkeeps⟩
  exact done_of_same hs (hkeeps .boot (by decide)) (hkeeps .jtag (by decide)) (hkeeps .evt (by decide))
    (hkeeps .cqs (by decide)) (hkeeps .heel (by decide)) (hkeeps .units (by decide)) (hkeeps .imc (by decide))

/-- In ACTIVE a TOS-A on a trained lane leads to RETRAIN or on, and counts it (R185). -/
theorem exec_trainingSet_active {s : State} {l : LinkNo} {sd : Side} {k : LLane} {t : Tos} (h : takesSet s l sd k = true)
    (hst : (getLink s l).st = .active) (hk : k ∈ trainedLanes s l) (ht : isTosA t = true) :
    ∃ u, exec (.trainingSetReceived l sd k t) s = .next u ∧ (getLink u l).st ≠ .active ∧
      (getLink u l).retrains = satInc (getLink s l).retrains := by
  obtain ⟨b, hself⟩ := enterRetrain_self (holdSet s l sd k) l
  have hretrains : (getLink (enterRetrain (holdSet s l sd k) l) l).retrains = satInc (getLink s l).retrains := by
    rw [← getLink_holdSet s l sd k l]
    exact bare_field Link.retrains (fun _ => rfl) hself
  obtain ⟨hgone, hcount⟩ := tosAIn_trainsAgain (sd := sd) (k := k) (t := t) ⟨.inl (bare_st hself), hretrains⟩
  refine ⟨_, congrArg done ((trainingSet_taken h (.inl ht) hst).2.1 rfl ht hk), ?_, ?_⟩
  · rw [fin_field Link.st fun _ _ _ => rfl]
    rcases hgone with e | e <;> rw [e] <;> decide
  · rw [fin_field Link.retrains fun _ _ _ => rfl]
    exact hcount

/-! ### Timeouts and searches -/

/-- A state that has a timeout is one from which DETECT is a failed attempt (R177). -/
theorem timeoutCause_fails {s : State} {l : LinkNo} {c : BitVec 4} (h : timeoutCause s l = some c) :
    (getLink s l).failing = true := by
  unfold timeoutCause at h
  unfold Link.failing
  dsimp only at h
  split at h
  case h_7 => cases h
  all_goals next e => rw [e]; decide

theorem exec_trainTimeout {s : State} {l : LinkNo} {c : BitVec 4} (h : timeoutCause s l = some c)
    (hp : (getLink s l).pend = .none) (hd : (getLink s l).disable = false) (ha : s.last.working.welt[l].asideFail = false) :
    ∃ t, exec (.trainTimeout l) s = .next t ∧ (getLink t l).st = .detect ∧ (getLink t l).lastFail = c ∧
      (getLink t l).failRun = satInc (getLink s l).failRun ∧ (getLink t l).width = 0 ∧ (getLink t l).lostAB = 0 ∧
      (getLink t l).lostBA = 0 := by
  obtain ⟨r, hself⟩ := enterDetect_plain c hp hd ha
  rw [timeoutCause_fails h] at hself
  have hexec : exec (.trainTimeout l) s = done (enterDetect s l c) := by
    show execTrainTimeout l s = _
    unfold execTrainTimeout
    rw [h]
  refine ⟨_, hexec, ?_, ?_, ?_, ?_, ?_, ?_⟩
  · rw [fin_field Link.st fun _ _ _ => rfl]
    exact bare_st hself
  · rw [fin_field Link.lastFail fun _ _ _ => rfl]
    exact bare_field Link.lastFail (fun _ => rfl) hself
  · rw [fin_field Link.failRun fun _ _ _ => rfl]
    exact bare_field Link.failRun (fun _ => rfl) hself
  · rw [fin_field Link.width fun _ _ _ => rfl]
    exact bare_field Link.width (fun _ => rfl) hself
  · rw [fin_field Link.lostAB fun _ _ _ => rfl]
    exact bare_field Link.lostAB (fun _ => rfl) hself
  · rw [fin_field Link.lostBA fun _ _ _ => rfl]
    exact bare_field Link.lostBA (fun _ => rfl) hself

/-- A running search goes on by an event, and nothing else changes. -/
theorem exec_presetSearchStep {s : State} {sd : Side} {p : Pos} {o : SearchEvent} {x : Search} (hs : s.settled = true)
    (hrun : (getLane s sd p).search.running = true)
    (hx : searchStep (getLane s sd p).search (eyeFigure (getLane s sd p).meas) o = x) :
    ∃ t, exec (.presetSearchStep sd p o) s = .next t ∧ getLane t sd p = { getLane s sd p with search := x } ∧
      otherLanes s t sd p ∧ sameBut [.lanes] s t := by
  refine ⟨_, (congrArg done (if_pos hrun)).trans (done_modLane hs sd p _), ?_, fun sd' q hq => ?_, fun k hk => ?_⟩
  · rw [getLane_modLane, hx]
  · exact getLane_modLane_other _ _ _ _ _ _ hq
  · exact modLane_keeps hk (k.same_refl s)

theorem modLane_same {s : State} {sd : Side} {p : Pos} {f : Lane → Lane} (h : f (getLane s sd p) = getLane s sd p) :
    modLane s sd p f = s := by
  unfold modLane vmod
  rw [show f s.lanes[laneIx sd p] = s.lanes[laneIx sd p] from h, vput_same]

/-- The end of a dwell that no ACK has begun moves no search (R181). -/
theorem exec_presetSearchStep_unacked {s : State} {sd : Side} {p : Pos} (hs : s.settled = true)
    (hack : (getLane s sd p).search.acked = false) : exec (.presetSearchStep sd p .dwellEnd) s = .next s := by
  have hstays : searchEvent s sd p .dwellEnd = s := by
    unfold searchEvent
    split
    · refine modLane_same ?_
      have hstep : searchStep (getLane s sd p).search (eyeFigure (getLane s sd p).meas) .dwellEnd = (getLane s sd p).search :=
        if_neg (by rw [hack]; decide)
      rw [hstep]
    · rfl
  exact (congrArg done hstays).trans (done_settled hs)

theorem searchNext_next {n : Search} (h : n.preset ≠ 15) : searchNext n = { n with preset := n.preset + 1, acked := false } :=
  if_pos (by simpa using h)

/-! ### LNKCTL -/

theorem getLsbD_setBit (v : Word) {i j : Nat} (b : Bool) (hi : i < 32) (hj : j < 32) :
    (setBit v i b).getLsbD j = if j = i then b else v.getLsbD j := by
  unfold setBit bitOn at_
  simp only [BitVec.getLsbD_or, BitVec.getLsbD_and, BitVec.getLsbD_not, BitVec.getLsbD_shiftLeft, BitVec.getLsbD_setWidth,
    BitVec.getLsbD_ofBool]
  rcases Nat.lt_trichotomy j i with h | h | h
  · simp [h, hj, Nat.ne_of_lt h]
  · subst h
    simp [hj]
  · have e : j - i ≠ 0 := by omega
    simp [hj, e, Nat.ne_of_gt h]

/-- LNKCTL's plain fields on a link that does not stand aside: EQ_FIXED, and the count of retrains where v clears it. -/
def ctlFields (s : State) (l : LinkNo) (v : Word) : State :=
  let x := fixSearches (modLink s l fun k => { k with eqFixed := bitAt v 2 }) l
  if bitAt v 3 then modLink x l fun k => { k with retrains := 0 } else x

/-- A link as LNKCTL's plain fields leave it. -/
theorem getLink_ctlFields (s : State) (l : LinkNo) (v : Word) : getLink (ctlFields s l v) l =
    { getLink s l with eqFixed := v.getLsbD 2, retrains := if v.getLsbD 3 then 0 else (getLink s l).retrains } := by
  have hfix : ∀ x : State, getLink (fixSearches x l) l = getLink x l := fun x => by
    unfold getLink
    rw [show (fixSearches x l).links = x.links from fixSearches_keeps (k := .links) (by decide) rfl]
  unfold ctlFields
  dsimp only
  cases h : v.getLsbD 3
  · rw [if_neg (Bool.eq_false_iff.1 h), hfix, getLink_modLink]
    rfl
  · rw [if_pos h, getLink_modLink, hfix, getLink_modLink]
    rfl

theorem ctlFields_last (s : State) (l : LinkNo) (v : Word) : (ctlFields s l v).last = s.last :=
  ite_keeps (k := .last) (fixSearches_keeps (k := .last) (by decide) rfl) (fixSearches_keeps (k := .last) (by decide) rfl)

/-- A write of LNKCTL without ASIDE and JOIN on a link that does not stand aside (R186, R188, R192). -/
theorem writeLnkctl_plain {s : State} {l : LinkNo} {v : Word} (hd : s.dev.standby = false) (ha : (getLink s l).aside = false)
    (hj : (getLink s l).join ≠ .aside) (h30 : v.getLsbD 30 = false) (h31 : v.getLsbD 31 = false) :
    writeLnkctl s l v =
      let x := writeDisable (ctlFields s l v) l (v.getLsbD 1)
      if v.getLsbD 0 && (getLink s l).st == .active && (getLink x l).st == .active then requestRetrain x l else x := by
  have haside : writeAside (ctlFields s l v) l (v.getLsbD 30) = ctlFields s l v := by
    have hlink := getLink_ctlFields s l v
    have hsame : modLink (ctlFields s l v) l (fun k => { k with aside := v.getLsbD 30 }) = ctlFields s l v :=
      modLink_same (by rw [h30, hlink, ← ha])
    unfold writeAside
    dsimp only
    rw [hsame, h30, if_neg (by simp), if_neg (by rw [hlink]; simpa using hj)]
  have hjoins : ∀ x : State, (if bitAt v 31 && ((getLink s l).join == .waitTrain || (getLink s l).join == .waitHost)
      then startJoin x l else x) = x := fun x => if_neg (by rw [show bitAt v 31 = false from h31, Bool.false_and]; decide)
  unfold writeLnkctl
  dsimp only
  rw [if_neg (by rw [hd]; decide), hjoins]
  exact congrArg (fun x => if v.getLsbD 0 && (getLink s l).st == .active && (getLink (writeDisable x l (v.getLsbD 1)) l).st == .active
    then requestRetrain (writeDisable x l (v.getLsbD 1)) l else writeDisable x l (v.getLsbD 1)) haside

theorem exec_lnkctlRetrain {s : State} {c : Ctx} {l : LinkNo} (v : Word) (h : opens s c (.lnkctl l)) :
    exec (.lnkctlRetrain c l v) s = done (writeLnkctl s l (setBit v 0 true)) := congrArg done (writeTo_opens _ h)
theorem exec_lnkctlDisable {s : State} {c : Ctx} {l : LinkNo} (v : Word) (h : opens s c (.lnkctl l)) :
    exec (.lnkctlDisable c l v) s = done (writeLnkctl s l v) := congrArg done (writeTo_opens _ h)
theorem exec_lnkctlClrRetrains {s : State} {c : Ctx} {l : LinkNo} (v : Word) (h : opens s c (.lnkctl l)) :
    exec (.lnkctlClrRetrains c l v) s = done (writeLnkctl s l (setBit v 3 true)) := congrArg done (writeTo_opens _ h)

/-- DISABLE written as it stands, on a link that is not DISABLED, does nothing more. -/
theorem writeDisable_same {s : State} {l : LinkNo} (hst : (getLink s l).st ≠ .disabled) (hd : (getLink s l).disable = false) :
    writeDisable s l false = s := by
  have hsame : modLink s l (fun k => { k with disable := false }) = s := modLink_same (by rw [← hd])
  unfold writeDisable
  dsimp only
  rw [hsame, if_neg (by simp), if_neg (by simpa using hst)]

/-- RETRAIN written in ACTIVE (R186). -/
theorem writeLnkctl_retrain {s : State} {l : LinkNo} {v : Word} (hd : s.dev.standby = false) (ha : (getLink s l).aside = false)
    (hj : (getLink s l).join ≠ .aside) (h30 : v.getLsbD 30 = false) (h31 : v.getLsbD 31 = false) (h0 : v.getLsbD 0 = true)
    (h1 : v.getLsbD 1 = false) (hdis : (getLink s l).disable = false) (hst : (getLink s l).st = .active) :
    writeLnkctl s l v = requestRetrain (ctlFields s l v) l := by
  have hlink := getLink_ctlFields s l v
  rw [writeLnkctl_plain hd ha hj h30 h31, h1,
    writeDisable_same (by rw [hlink]; dsimp only; rw [hst]; decide) (by rw [hlink]; exact hdis)]
  exact if_pos (by rw [h0, hlink]; dsimp only; rw [hst]; decide)

/-- A link as RETRAIN in LNKCTL leaves it: asked over the channel, or in RETRAIN behind 4 µs of idle (R186). -/
theorem exec_lnkctlRetrain_active {s : State} {c : Ctx} {l : LinkNo} {v : Word} (ho : opens s c (.lnkctl l))
    (hd : s.dev.standby = false) (ha : (getLink s l).aside = false) (hj : (getLink s l).join ≠ .aside)
    (h30 : v.getLsbD 30 = false) (h31 : v.getLsbD 31 = false) (h1 : v.getLsbD 1 = false) (h3 : v.getLsbD 3 = false)
    (hdis : (getLink s l).disable = false) (hst : (getLink s l).st = .active) :
    ∃ t, exec (.lnkctlRetrain c l v) s = .next t ∧ (getLink t l).eqFixed = v.getLsbD 2 ∧
      (imcOn (getLink s l) = true → (getLink t l).st = .active ∧ (getLink t l).retrainAsked = true) ∧
      (imcOn (getLink s l) = false → (getLink t l).st = .retrain ∧ (getLink t l).idleOut = true) := by
  have hbit : ∀ j, j < 32 → j ≠ 0 → (setBit v 0 true).getLsbD j = v.getLsbD j := fun j hj hne => by
    rw [getLsbD_setBit v true (by decide) hj, if_neg hne]
  have hwrite : writeLnkctl s l (setBit v 0 true) = requestRetrain (ctlFields s l (setBit v 0 true)) l :=
    writeLnkctl_retrain hd ha hj ((hbit 30 (by decide) (by decide)).trans h30) ((hbit 31 (by decide) (by decide)).trans h31)
      (getLsbD_setBit v true (by decide) (by decide)) ((hbit 1 (by decide) (by decide)).trans h1) hdis hst
  have hlink : getLink (ctlFields s l (setBit v 0 true)) l = { getLink s l with eqFixed := v.getLsbD 2 } := by
    rw [getLink_ctlFields, hbit 2 (by decide) (by decide), hbit 3 (by decide) (by decide), h3]
    rfl
  generalize ctlFields s l (setBit v 0 true) = x at hwrite hlink
  have himc : imcOn (getLink x l) = imcOn (getLink s l) := by rw [hlink]; rfl
  refine ⟨_, (exec_lnkctlRetrain v ho).trans (congrArg done hwrite), ?_⟩
  rw [fin_field Link.eqFixed fun _ _ _ => rfl, fin_field Link.st fun _ _ _ => rfl,
    fin_field Link.retrainAsked fun _ _ _ => rfl, fin_field Link.idleOut fun _ _ _ => rfl, ← himc]
  have hfixed : (getLink x l).eqFixed = v.getLsbD 2 := by rw [hlink]
  have hact : (getLink x l).st = .active := by rw [hlink]; exact hst
  cases hon : imcOn (getLink x l) with
  | true =>
    have hsent : Course x (sendOwn (sendOwn x l 0 mosRetrainReq []) l 3 mosRetrainReq []) :=
      sendOwn_course (sendOwn_course (Course.refl x))
    have hself := modLink_self (l := l) (f := fun k => { k with retrainAsked := true }) (fun _ => rfl) hsent
    rw [requestRetrain_asks hon]
    exact ⟨(bare_field Link.eqFixed (fun _ => rfl) hself).trans hfixed,
      fun _ => ⟨(bare_st hself).trans hact, bare_field Link.retrainAsked (fun _ => rfl) hself⟩, nofun⟩
  | false =>
    obtain ⟨b, hself⟩ := enterRetrain_self x l
    rw [requestRetrain_enters hon, getLink_modLink]
    exact ⟨(bare_field Link.eqFixed (fun _ => rfl) hself).trans hfixed, nofun, fun _ => ⟨bare_st hself, rfl⟩⟩

/-- DISABLE set in a training state (R188). -/
theorem exec_lnkctlDisable_sets {s : State} {c : Ctx} {l : LinkNo} {v : Word} (ho : opens s c (.lnkctl l))
    (hd : s.dev.standby = false) (ha : (getLink s l).aside = false) (hj : (getLink s l).join ≠ .aside)
    (h30 : v.getLsbD 30 = false) (h31 : v.getLsbD 31 = false) (h0 : v.getLsbD 0 = false) (h1 : v.getLsbD 1 = true)
    (hdis : (getLink s l).disable = false) (hnt : (getLink s l).st ≠ .notTraining) (hns : (getLink s l).st ≠ .disabled) :
    ∃ t, exec (.lnkctlDisable c l v) s = .next t ∧ (getLink t l).st = .disabled ∧ (getLink t l).width = 0 := by
  have hlink := getLink_ctlFields s l v
  have hst : (getLink (ctlFields s l v) l).st = (getLink s l).st := by rw [hlink]
  have hwas : (getLink (ctlFields s l v) l).disable = false := by rw [hlink]; exact hdis
  have hwrite : writeLnkctl s l v = enterDisabled (modLink (ctlFields s l v) l fun k => { k with disable := true }) l := by
    have hset : writeDisable (ctlFields s l v) l true =
        enterDisabled (modLink (ctlFields s l v) l fun k => { k with disable := true }) l := by
      refine if_pos ?_
      rw [hwas, getLink_modLink, hst]
      simp [hnt, hns]
    rw [writeLnkctl_plain hd ha hj h30 h31, h1, hset, h0]
    rfl
  have hself := enterDisabled_self l (Course.refl (modLink (ctlFields s l v) l fun k => { k with disable := true }))
  refine ⟨_, (exec_lnkctlDisable v ho).trans (congrArg done hwrite), ?_, ?_⟩
  · rw [fin_field Link.st fun _ _ _ => rfl]
    exact bare_st hself
  · rw [fin_field Link.width fun _ _ _ => rfl]
    exact bare_field Link.width (fun _ => rfl) hself

/-- DISABLE cleared in DISABLED (R188). -/
theorem exec_lnkctlDisable_clears {s : State} {c : Ctx} {l : LinkNo} {v : Word} (ho : opens s c (.lnkctl l))
    (hd : s.dev.standby = false) (ha : (getLink s l).aside = false) (hj : (getLink s l).join ≠ .aside)
    (h30 : v.getLsbD 30 = false) (h31 : v.getLsbD 31 = false) (h0 : v.getLsbD 0 = false) (h1 : v.getLsbD 1 = false)
    (hst : (getLink s l).st = .disabled) (hpart : (getLink s l).partnerDis = false) (hp : (getLink s l).pend = .none)
    (haf : s.last.working.welt[l].asideFail = false) :
    ∃ t, exec (.lnkctlDisable c l v) s = .next t ∧ (getLink t l).st = .detect := by
  have hlink := getLink_ctlFields s l v
  have hcleared : getLink (modLink (ctlFields s l v) l fun k => { k with disable := false }) l =
      { getLink s l with eqFixed := v.getLsbD 2, retrains := if v.getLsbD 3 then 0 else (getLink s l).retrains, disable := false } := by
    rw [getLink_modLink, hlink]
  have hwrite : writeLnkctl s l v = enterDetect (modLink (ctlFields s l v) l fun k => { k with disable := false }) l 0 := by
    have hclears : writeDisable (ctlFields s l v) l false =
        enterDetect (modLink (ctlFields s l v) l fun k => { k with disable := false }) l 0 := by
      unfold writeDisable
      dsimp only
      rw [if_neg (by simp), if_pos (by rw [hcleared]; simp [hst]), if_neg (by rw [hcleared]; simp [hpart])]
    rw [writeLnkctl_plain hd ha hj h30 h31, h1, hclears, h0]
    rfl
  obtain ⟨r, hself⟩ := enterDetect_plain (l := l) 0 (s := modLink (ctlFields s l v) l fun k => { k with disable := false })
    (by rw [hcleared]; exact hp) (by rw [hcleared])
    (by rw [show (modLink (ctlFields s l v) l fun k => { k with disable := false }).last = s.last from ctlFields_last s l v]; exact haf)
  refine ⟨_, (exec_lnkctlDisable v ho).trans (congrArg done hwrite), ?_⟩
  rw [fin_field Link.st fun _ _ _ => rfl]
  exact bare_st hself

/-- CLR_RETRAINS clears the count, and EQ_FIXED is as it is written (R192). -/
theorem exec_lnkctlClrRetrains_clears {s : State} {c : Ctx} {l : LinkNo} {v : Word} (hs : s.settled = true)
    (ho : opens s c (.lnkctl l)) (hd : s.dev.standby = false) (ha : (getLink s l).aside = false)
    (hj : (getLink s l).join ≠ .aside) (h30 : v.getLsbD 30 = false) (h31 : v.getLsbD 31 = false) (h0 : v.getLsbD 0 = false)
    (h1 : v.getLsbD 1 = (getLink s l).disable) (hst : (getLink s l).st ≠ .disabled) (hdis : (getLink s l).disable = false)
    (heq : equalises (getLink s l).st = false) :
    exec (.lnkctlClrRetrains c l v) s =
      .next (modLink s l fun x => { x with retrains := 0, eqFixed := v.getLsbD 2 }) := by
  have hbit : ∀ j, j < 32 → j ≠ 3 → (setBit v 3 true).getLsbD j = v.getLsbD j := fun j hj hne => by
    rw [getLsbD_setBit v true (by decide) hj, if_neg hne]
  have hfields : ctlFields s l (setBit v 3 true) = modLink s l fun x => { x with retrains := 0, eqFixed := v.getLsbD 2 } := by
    unfold ctlFields
    have hfix : fixSearches (modLink s l fun k => { k with eqFixed := bitAt (setBit v 3 true) 2 }) l =
        modLink s l fun k => { k with eqFixed := v.getLsbD 2 } := by
      rw [show bitAt (setBit v 3 true) 2 = v.getLsbD 2 from hbit 2 (by decide) (by decide)]
      refine if_neg ?_
      rw [getLink_modLink]
      simp [heq]
    rw [hfix]
    dsimp only
    rw [if_pos (show bitAt (setBit v 3 true) 3 = true from getLsbD_setBit v true (by decide) (by decide)), modLink_modLink]
  have hwrite : writeLnkctl s l (setBit v 3 true) = modLink s l fun x => { x with retrains := 0, eqFixed := v.getLsbD 2 } := by
    rw [writeLnkctl_plain hd ha hj ((hbit 30 (by decide) (by decide)).trans h30) ((hbit 31 (by decide) (by decide)).trans h31),
      hfields, hbit 1 (by decide) (by decide), h1, hdis, hbit 0 (by decide) (by decide), h0,
      writeDisable_same (by rw [getLink_modLink]; exact hst) (by rw [getLink_modLink]; exact hdis)]
    rfl
  rw [exec_lnkctlClrRetrains v ho, hwrite]
  exact done_modLink hs l _

/-! ### Idle periods -/

/-- After a DOWN action the end of the idle period leads to DETECT (R199). -/
theorem exec_idlePeriodEnd_down {s : State} {l : LinkNo} (hi : (getLink s l).idleOut = true) (hdown : (getLink s l).idleDown = true)
    (hpart : isPart s l = true) (hj : (getLink s l).join = .joined) (hp : (getLink s l).pend = .none)
    (hd : (getLink s l).disable = false) (ha : s.last.working.welt[l].asideFail = false) :
    ∃ t, exec (.idlePeriodEnd l) s = .next t ∧ (getLink t l).st = .detect ∧ (getLink t l).idleOut = false := by
  have hlink : getLink (modLink s l fun k => { k with idleOut := false, idleDown := false }) l =
      { getLink s l with idleOut := false, idleDown := false } := getLink_modLink _ _ _
  have hexec : exec (.idlePeriodEnd l) s = done (enterDetect (modLink s l fun k => { k with idleOut := false, idleDown := false }) l 0) := by
    refine (if_neg (by rw [hi]; decide)).trans (congrArg done (if_pos ?_))
    rw [show isPart (modLink s l fun k => { k with idleOut := false, idleDown := false }) l = true from hpart, hdown, hj]
    rfl
  obtain ⟨r, hself⟩ := enterDetect_plain (s := modLink s l fun k => { k with idleOut := false, idleDown := false }) (l := l) 0
    (by rw [hlink]; exact hp) (by rw [hlink]; exact hd) ha
  refine ⟨_, hexec, ?_, ?_⟩
  · rw [fin_field Link.st fun _ _ _ => rfl]
    exact bare_st hself
  · rw [fin_field Link.idleOut fun _ _ _ => rfl]
    exact bare_field Link.idleOut (fun _ => rfl) hself

/-! ### Pad sets -/

theorem orderedSet_length (id : Sym) (body : List Byte) : (orderedSet id body).length = 16 := by
  have hpad : (padTo 13 body).length = 13 := by
    simp only [padTo, zeros, List.length_append, List.length_take, List.length_replicate]
    omega
  simp [orderedSet, hpad]

/-- What was sent in the last pad-set place of a direction. -/
def sentOf (k : Link) (d : Dir) : Option SentSet := if d = .AB then k.sentAB else k.sentBA

theorem getLink_setSent (s : State) (l : LinkNo) (d : Dir) (x : SentSet) :
    sentOf (getLink (setSent s l d x) l) d = some x ∧ markDue (getLink (setSent s l d x) l) d = markDue (getLink s l) d ∧
      outOf (getLink (setSent s l d x) l) d = outOf (getLink s l) d := by
  unfold setSent
  rw [getLink_modLink]
  cases d <;> exact ⟨rfl, rfl, rfl⟩

theorem getLink_clearMark (s : State) (l : LinkNo) (d : Dir) : markDue (getLink (clearMark s l d) l) d = false := by
  unfold clearMark
  rw [getLink_modLink]
  cases d <;> rfl

theorem planOwn_plan (s : State) (sd : Side) (p : Pos) (id : Sym) (body : List Byte) :
    (getLane (planOwn s sd p (orderedSet id body)) sd p).rx.plan.length = 16 := by
  unfold planOwn planSet modRx
  rw [getLane_modLane]
  exact (List.length_map _).trans (orderedSet_length id body)

/-- In ACTIVE a pad set on a management lane that is locked, not lost and forwarded is filled (R297). -/
theorem exec_padSetPasses_active {s : State} {l : LinkNo} {d : Dir} {p : Pos} (hm : mgmtRx s l d = some p)
    (hp : isPart s l = true) (hsym : symShown s d.rxSide p = true) (hst : (getLink s l).st = .active)
    (hf : dirForwards s l d = true) (hl : mgmtLost s l d.rxSide = false) :
    exec (.padSetPasses l d) s = done (fillPad s l d p) := by
  have hsame : linkSymbol s l d.rxSide = s := if_pos (by rw [hst]; rfl)
  show execPadSetPasses l d s = _
  unfold execPadSetPasses
  rw [hm]
  dsimp only
  rw [if_neg (by rw [hp, hsym]; decide), hsame, if_pos (by rw [hf, hl]; rfl)]

theorem fillPad_marks {s : State} {l : LinkNo} {d : Dir} (p : Pos) (hd : markDue (getLink s l) d = true)
    (ho : markersOn s l = true) : fillPad s l d p =
      planOwn (setSent (clearMark s l d) l d (.marker (getLink s l).index (getLink s l).epoch l)) d.rxSide p
        (markerSet (getLink s l).index (getLink s l).epoch l) :=
  if_pos (by rw [hd, ho]; rfl)

/-- Where no marker goes, the MOS that goes next leaves its queue. -/
theorem fillPad_sends {s : State} {l : LinkNo} {d : Dir} {m : OutMos} (p : Pos)
    (hd : markDue (getLink s l) d = false ∨ markersOn s l = false) (hi : imcOn (getLink s l) = true)
    (hm : nextMos (outOf (getLink s l) d) = some m) :
    fillPad s l d p =
      let x := mosOf (getLink s l).index (atSending s m)
      planOwn (sendDone (noteNak (setSent (modLink s l fun k => setOut k d ((outOf k d).erase m)) l d (.mos x)) m) l m)
        d.rxSide p (mosSet x) := by
  have hnext : sendNext s l d =
      let x := mosOf (getLink s l).index (atSending s m)
      (some x, sendDone (noteNak (setSent (modLink s l fun k => setOut k d ((outOf k d).erase m)) l d (.mos x)) m) l m) := by
    unfold sendNext
    rw [if_pos hi, hm]
  unfold fillPad
  dsimp only
  rw [if_neg (by rcases hd with e | e <;> rw [e] <;> simp), hnext]

theorem nextMos_nil : nextMos [] = none := rfl

/-- With nothing to send a pad set goes as it came. -/
theorem fillPad_passes {s : State} {l : LinkNo} {d : Dir} (p : Pos)
    (hd : markDue (getLink s l) d = false ∨ markersOn s l = false) (hi : imcOn (getLink s l) = false ∨ outOf (getLink s l) d = []) :
    fillPad s l d p = setSent s l d .pad := by
  have hnext : sendNext s l d = (none, s) := by
    unfold sendNext
    rcases hi with e | e
    · rw [e]; rfl
    · rw [e, nextMos_nil, ite_self]
  unfold fillPad
  dsimp only
  rw [if_neg (by rcases hd with e | e <;> rw [e] <;> simp), hnext]

/-- Being settled looks at the NVM engine alone of the units, and at ATTN_N alone of the in-band state. -/
theorem done_of_engine {s t : State} (h : s.settled = true) (hb : t.boot = s.boot) (hj : t.jtag = s.jtag) (he : t.evt = s.evt)
    (hc : t.cqs = s.cqs) (hh : t.heel = s.heel) (hn : t.units.nvm = s.units.nvm) (hu : t.units.held = s.units.held)
    (hi : t.imc.attnWas = s.imc.attnWas) : done t = .next t := by
  refine done_settled (Eq.trans ?_ h)
  unfold State.settled
  rw [hh, hn, hu, hi, attnLow_congr hb hj he hc]

/-- The end of an IMC_SEND Job is the in-band unit's alone. -/
theorem sendDone_engine (s : State) (l : LinkNo) (m : OutMos) :
    (sendDone s l m).units.nvm = s.units.nvm ∧ (sendDone s l m).units.held = s.units.held := by
  unfold sendDone
  split
  · exact ⟨rfl, rfl⟩
  · dsimp only
    split <;> exact ⟨rfl, rfl⟩

theorem noteNak_attnWas (s : State) (m : OutMos) : (noteNak s m).imc.attnWas = s.imc.attnWas := by
  unfold noteNak
  split <;> rfl

/-- A MOS of the part's own is sent in a pad set's place: nothing follows from it. -/
theorem done_fillPad_sends {s : State} (hs : s.settled = true) (l : LinkNo) (d : Dir) (p : Pos) (m : OutMos) (x : Mos) :
    let t := planOwn (sendDone (noteNak (setSent (modLink s l fun k => setOut k d ((outOf k d).erase m)) l d (.mos x)) m) l m)
      d.rxSide p (mosSet x)
    done t = .next t ∧ sentOf (getLink t l) d = some (.mos x) ∧ outOf (getLink t l) d = (outOf (getLink s l) d).erase m ∧
      (getLane t d.rxSide p).rx.plan.length = 16 := by
  dsimp only
  obtain ⟨hsent, -, hout⟩ := getLink_setSent (modLink s l fun k => setOut k d ((outOf k d).erase m)) l d (.mos x)
  have hqueue : outOf (getLink (modLink s l fun k => setOut k d ((outOf k d).erase m)) l) d = (outOf (getLink s l) d).erase m := by
    rw [getLink_modLink]
    cases d <;> rfl
  rw [hqueue] at hout
  generalize hy : setSent (modLink s l fun k => setOut k d ((outOf k d).erase m)) l d (.mos x) = y at hsent hout
  have hsame : ∀ k ∉ [Comp.links], k.same s y := fun k hk => by
    rw [← hy]
    exact setSent_keeps hk (modLink_keeps hk (k.same_refl s))
  have hends : ∀ k ∉ [Comp.links, .imc, .units, .lanes], k.same s (planOwn (sendDone (noteNak y m) l m) d.rxSide p (mosSet x)) := fun k hk =>
    planOwn_keeps (not_mem_of_subset hk (by decide)) (sendDone_keeps (not_mem_of_subset hk (by decide))
      (noteNak_keeps (not_mem_of_subset hk (by decide)) (hsame k (not_mem_of_subset hk (by decide)))))
  have hlinks : (planOwn (sendDone (noteNak y m) l m) d.rxSide p (mosSet x)).links = y.links :=
    planOwn_keeps (k := .links) (by decide) (sendDone_keeps (k := .links) (by decide) (noteNak_keeps (k := .links) (by decide) rfl))
  have hnoteUnits : (noteNak y m).units = y.units := noteNak_keeps (k := .units) (by decide) rfl
  obtain ⟨hnvm, hheld⟩ := sendDone_engine (noteNak y m) l m
  have himc : (sendDone (noteNak y m) l m).imc = (noteNak y m).imc := sendDone_keeps (k := .imc) (by decide) rfl
  refine ⟨done_of_engine hs (hends .boot (by decide)) (hends .jtag (by decide)) (hends .evt (by decide)) (hends .cqs (by decide))
    (hends .heel (by decide)) ?_ ?_ ?_, ?_, ?_, planOwn_plan _ _ _ _ _⟩
  · exact hnvm.trans (congrArg Units.nvm (hnoteUnits.trans (hsame .units (by decide))))
  · exact hheld.trans (congrArg Units.held (hnoteUnits.trans (hsame .units (by decide))))
  · exact (congrArg ImcSt.attnWas himc).trans ((noteNak_attnWas y m).trans (congrArg ImcSt.attnWas (hsame .imc (by decide))))
  · unfold getLink at hsent ⊢
    rw [hlinks]
    exact hsent
  · unfold getLink at hout ⊢
    rw [hlinks]
    exact hout

/-! ### Markers unsent, lanes lost too long -/

theorem exec_epochUnsent_due {s : State} {l : LinkNo} {d : Dir} (hs : s.settled = true) (h : markDue (getLink s l) d = true) :
    ∃ t, exec (.epochUnsent l d) s = .next t ∧ markDue (getLink t l) d = false ∧
      ∃ r ∈ t.nvm.logWait, r.code = 0x0203 ∧ r.data = padTo 12 [BitVec.ofNat 8 l.val, if d = .AB then 0 else 1] := by
  have hcalm : calm (clearMark s l d) := calm_congr (s := s) rfl rfl (calm_of_settled hs)
  obtain ⟨t, ht, ⟨⟨more, hlog⟩, -⟩, -, hlinks, -⟩ := event_done hcalm 0x0203 0 (BitVec.ofNat 8 l.val :: [d.num])
  refine ⟨t, (congrArg done (if_pos h)).trans ht, ?_, ⟨_, by rw [hlog]; exact List.mem_append_right _ (List.mem_cons_self ..), rfl, ?_⟩⟩
  · have hout : { getLink t l with outAB := (getLink (clearMark s l d) l).outAB, outBA := (getLink (clearMark s l d) l).outBA } =
        getLink (clearMark s l d) l := hlinks l
    have hmark := getLink_clearMark s l d
    rw [← hout] at hmark
    cases d <;> exact hmark
  · cases d <;> rfl

theorem exec_unrecoveredTimeout_lost {s : State} {l : LinkNo} {d : Dir} {j : LLane} (hs : s.settled = true)
    (h : isLost s l d j = true) : ∃ t, exec (.unrecoveredTimeout l d j) s = .next t ∧ sameBut byEvent s t ∧
      (getLink t l).unrecovered = ((getLink s l).unrecovered || recIs s l (·.safety)) := by
  have hexec : exec (.unrecoveredTimeout l d j) s = done (setUnrecovered s l 1) := congrArg done (if_pos h)
  rw [hexec]
  by_cases hset : (recIs s l (·.safety) && !(getLink s l).unrecovered) = true
  · have hnew : setUnrecovered s l 1 = logK (modLink s l fun k => { k with unrecovered := true }) 0x0C02 l [1] := if_pos hset
    have hcalm : calm (modLink s l fun k => { k with unrecovered := true }) := calm_congr (s := s) rfl rfl (calm_of_settled hs)
    obtain ⟨t, ht, -, hsame, hlinks, -⟩ := event_done hcalm 0x0C02 0 (BitVec.ofNat 8 l.val :: [1])
    refine ⟨t, (congrArg done hnew).trans ht, fun k hk => ?_, ?_⟩
    · exact k.same_trans (modLink_keeps (not_mem_of_subset hk (by decide)) (k.same_refl s)) (hsame k hk)
    · rw [(Bool.and_eq_true_iff.1 hset).1, Bool.or_true]
      refine (congrArg Link.unrecovered (hlinks l)).trans ?_
      rw [getLink_modLink]
  · refine ⟨s, (congrArg done (if_neg hset)).trans (done_settled hs), fun k _ => k.same_refl s, ?_⟩
    cases hun : (getLink s l).unrecovered with
    | true => rfl
    | false => exact (Bool.eq_false_iff.2 fun e => hset (by rw [show recIs s l (·.safety) = true from e, hun]; rfl)).symm

/-! ### Training, command by command -/

section
variable {s : State} {l : LinkNo} {sd : Side} {d : Dir} {p : Pos}

theorem exec_receiverDetect_stays {mask : BitVec 16} (hs : s.settled = true) (h : linkRec s l = none ∨ (getLink s l).st ≠ .detect) :
    exec (.receiverDetect l sd mask) s = .next s := by
  refine Eq.trans (congrArg done ?_) (done_settled hs)
  split
  · rfl
  · next r hr =>
    have hst : (getLink s l).st ≠ .detect := h.resolve_left (by rw [hr]; nofun)
    exact if_pos (by simpa using hst)

theorem exec_receiverDetect_counts {mask : BitVec 16} {r : LinkRec} (hs : s.settled = true) (hr : linkRec s l = some r)
    (hst : (getLink s l).st = .detect) :
    let w := BitVec.ofNat 5 ((List.range r.width).takeWhile fun i => mask.getLsbD i).length
    exec (.receiverDetect l sd mask) s = .next (modLink s l fun x =>
      if sd = .A then { x with detA := mask, detwA := w } else { x with detB := mask, detwB := w }) := by
  refine Eq.trans ?_ (done_modLink hs l _)
  show execReceiverDetect l sd mask s = _
  unfold execReceiverDetect
  rw [hr]
  dsimp only
  rw [if_neg (by rw [hst]; decide)]
  cases sd <;> rfl

theorem tosAt_pos (t : Tos) : tosAt t 6 = t.pos[4] := by simp [tosAt]

/-- A TOS-B on lane 0 with the other side seen and receivers on both sides (Table 6-5). -/
theorem exec_trainingSet_aligns {t : Tos} (h : takesSet s l sd 0 = true) (ht : isTosB t = true) (hst : (getLink s l).st = .detect)
    (hrate : (getLink s l).rate ≠ 0) (hseen : (sideTr (getLink s l) sd.other).seen = true) (ha : (getLink s l).detwA ≠ 0)
    (hb : (getLink s l).detwB ≠ 0) :
    ∃ u, exec (.trainingSetReceived l sd 0 t) s = .next u ∧ (getLink u l).st = .align ∧ (getLink u l).width = 0 := by
  have hnotA : isTosA t ≠ true := fun e => by
    have := ((isTosA_iff t).1 e).symm.trans ((isTosB_iff t).1 ht)
    exact absurd this (by decide)
  have hset := ((trainingSet_taken h (.inr ht) hst).2.2 (.inl rfl)).trans (if_neg hnotA)
  have hlink := getLink_holdSet s l sd 0 l
  obtain ⟨hgoes, hwidth, -, -⟩ := tosBIn_aligns (t := t) (hlink ▸ hst) (hlink ▸ hrate) (hlink ▸ hseen) (hlink ▸ ha) (hlink ▸ hb)
  refine ⟨_, congrArg done hset, ?_, ?_⟩
  · rw [fin_field Link.st fun _ _ _ => rfl]
    exact hgoes
  · rw [fin_field Link.width fun _ _ _ => rfl]
    exact hwidth

/-- In TRAIN.ALIGN a TOS-A that travels from A to B gives the part its index (R172). -/
theorem exec_trainingSet_indexes {j : LLane} {t : Tos} (h : takesSet s l .A j = true) (ht : isTosA t = true)
    (hst : (getLink s l).st = .align) :
    ∃ u, exec (.trainingSetReceived l .A j t) s = .next u ∧ (getLink u l).index = indexOf ((t.pos[4]).extractLsb' 0 2) := by
  have hset := ((trainingSet_taken h (.inl ht) hst).2.2 (.inr rfl)).trans (if_pos ht)
  refine ⟨_, congrArg done hset, ?_⟩
  rw [fin_field Link.index fun _ _ _ => rfl, tosAIn_counts ((congrArg Link.st (getLink_holdSet s l .A j l)).trans hst), tosAt_pos]

theorem satInc_count (x : BitVec 16) : satInc x = if x = 0xFFFF then 0xFFFF else x + 1 := by
  show (if x = 0xFFFF then x else x + 1) = _
  split
  · next h => exact h
  · rfl

theorem exec_rateDiscard_stays (hs : s.settled = true)
    (h : (getLink s l).st ≠ .detect ∨ isLoopTimed s l = true ∨ (getLink s l).rate = 0) : exec (.rateDiscard l) s = .next s := by
  refine (if_pos ?_).trans (done_settled hs)
  rcases h with h | h | h <;> simp [h]

/-- The 24 ms discard the rate of DETECT, and the sides seen at it (R174). -/
theorem exec_rateDiscard_discards (hs : s.settled = true) (hst : (getLink s l).st = .detect) (hloop : isLoopTimed s l = false)
    (hrate : (getLink s l).rate ≠ 0) :
    ∃ t, exec (.rateDiscard l) s = .next t ∧ (getLink t l).rate = 0 ∧ (getLink t l).trainA.seen = false ∧
      (getLink t l).trainB.seen = false ∧ otherLinks s t l ∧ sameBut [.links] s t := by
  refine ⟨_, (if_neg (by simpa [hst, hloop] using hrate)).trans (done_modLink hs l _), ?_, ?_, ?_, fun j hj => ?_, fun c hc => ?_⟩
  · rw [getLink_modLink]
  · rw [getLink_modLink]
  · rw [getLink_modLink]
  · rw [getLink_modLink_other _ _ _ _ hj]
    rfl
  · exact modLink_keeps hc (c.same_refl s)

theorem exec_trainTimeout_stays (hs : s.settled = true) (h : timeoutCause s l = none) : exec (.trainTimeout l) s = .next s := by
  show execTrainTimeout l s = _
  unfold execTrainTimeout
  rw [h]
  exact done_settled hs

theorem exec_presetSearchStep_stays {o : SearchEvent} (hs : s.settled = true) (h : (getLane s sd p).search.running = false) :
    exec (.presetSearchStep sd p o) s = .next s :=
  (congrArg done (if_neg (by rw [h]; decide))).trans (done_settled hs)

/-- What an event makes of a search. -/
def searchGets (s : State) (sd : Side) (p : Pos) (o : SearchEvent) (x : Search) : Prop :=
  ∃ t, exec (.presetSearchStep sd p o) s = .next t ∧ getLane t sd p = { getLane s sd p with search := x } ∧
    otherLanes s t sd p ∧ sameBut [.lanes] s t

theorem searchGets_final (hs : s.settled = true) (hrun : (getLane s sd p).search.running = true)
    (hfin : (getLane s sd p).search.final = true) :
    searchGets s sd p .ack { (getLane s sd p).search with running := false, done := true, acked := true } ∧
      searchGets s sd p .reject (getLane s sd p).search ∧
      searchGets s sd p .timeout { (getLane s sd p).search with running := false, done := true } :=
  ⟨exec_presetSearchStep hs hrun (if_pos hfin), exec_presetSearchStep hs hrun (if_pos hfin),
    exec_presetSearchStep hs hrun (if_pos hfin)⟩

theorem searchGets_next (hs : s.settled = true) (hrun : (getLane s sd p).search.running = true)
    (hfin : (getLane s sd p).search.final = false) :
    searchGets s sd p .ack { (getLane s sd p).search with acked := true } ∧
      ((getLane s sd p).search.preset ≠ 15 →
        searchGets s sd p .reject { (getLane s sd p).search with preset := (getLane s sd p).search.preset + 1, acked := false } ∧
        searchGets s sd p .timeout { (getLane s sd p).search with preset := (getLane s sd p).search.preset + 1, acked := false }) := by
  have hnot : ¬(getLane s sd p).search.final = true := by rw [hfin]; decide
  exact ⟨exec_presetSearchStep hs hrun (if_neg hnot), fun hp =>
    ⟨exec_presetSearchStep hs hrun ((if_neg hnot).trans (searchNext_next hp)),
      exec_presetSearchStep hs hrun ((if_neg hnot).trans (searchNext_next hp))⟩⟩

theorem exec_forcedIdleRetrain_stays (hs : s.settled = true) (h : (getLink s l).retrainAsked = false) :
    exec (.forcedIdleRetrain l) s = .next s :=
  (congrArg done (if_neg (by rw [h]; decide))).trans (done_settled hs)

/-- Where a request stands the forced retrain enters RETRAIN behind idle (R186). -/
theorem exec_forcedIdleRetrain_enters (h : (getLink s l).retrainAsked = true) :
    ∃ t, exec (.forcedIdleRetrain l) s = .next t ∧ (getLink t l).st = .retrain ∧ (getLink t l).idleOut = true ∧
      (getLink t l).retrainAsked = false := by
  obtain ⟨b, hself⟩ := enterRetrain_self s l
  refine ⟨_, congrArg done (if_pos h), ?_, ?_, ?_⟩
  · rw [fin_field Link.st fun _ _ _ => rfl, getLink_modLink]
    exact bare_st hself
  · rw [fin_field Link.idleOut fun _ _ _ => rfl, getLink_modLink]
  · rw [fin_field Link.retrainAsked fun _ _ _ => rfl, getLink_modLink]
    exact bare_field Link.retrainAsked (fun _ => rfl) hself

theorem exec_idlePeriodEnd_stays (hs : s.settled = true) (h : (getLink s l).idleOut = false) : exec (.idlePeriodEnd l) s = .next s :=
  (if_pos (by rw [h]; decide)).trans (done_settled hs)

theorem exec_idlePeriodEnd_ends (hs : s.settled = true) (h : (getLink s l).idleOut = true) (hdown : (getLink s l).idleDown = false) :
    exec (.idlePeriodEnd l) s = .next (modLink s l fun x => { x with idleOut := false, idleDown := false }) := by
  refine (if_neg (by rw [h]; decide)).trans (Eq.trans (congrArg done (if_neg ?_)) (done_modLink hs l _))
  rw [hdown, Bool.false_and, Bool.false_and]
  decide

theorem exec_padSetPasses_stays (hs : s.settled = true) (h : mgmtRx s l d = none) : exec (.padSetPasses l d) s = .next s := by
  show execPadSetPasses l d s = _
  unfold execPadSetPasses
  rw [h]
  exact done_settled hs

/-- A pad set's place that carries the marker due (R120). -/
theorem done_fillPad_marks (hs : s.settled = true) (hd : markDue (getLink s l) d = true) (ho : markersOn s l = true) :
    ∃ t, done (fillPad s l d p) = .next t ∧ sentOf (getLink t l) d = some (.marker (getLink s l).index (getLink s l).epoch l) ∧
      markDue (getLink t l) d = false ∧ (getLane t d.rxSide p).rx.plan.length = 16 := by
  obtain ⟨hsent, hmark, -⟩ :=
    getLink_setSent (clearMark s l d) l d (.marker (getLink s l).index (getLink s l).epoch l)
  rw [fillPad_marks p hd ho]
  exact ⟨_, done_of_same hs rfl rfl rfl rfl rfl rfl rfl, hsent, hmark.trans (getLink_clearMark s l d), planOwn_plan _ _ _ _ _⟩

/-- A pad set that goes as it came. -/
theorem done_fillPad_passes (hs : s.settled = true) (hd : markDue (getLink s l) d = false ∨ markersOn s l = false)
    (hi : imcOn (getLink s l) = false ∨ outOf (getLink s l) d = []) :
    ∃ t, done (fillPad s l d p) = .next t ∧ sentOf (getLink t l) d = some .pad ∧ t.lanes = s.lanes := by
  rw [fillPad_passes p hd hi]
  exact ⟨_, done_of_same hs rfl rfl rfl rfl rfl rfl rfl, (getLink_setSent s l d .pad).1, rfl⟩

theorem exec_epochUnsent_stays (hs : s.settled = true) (h : markDue (getLink s l) d = false) : exec (.epochUnsent l d) s = .next s :=
  (congrArg done (if_neg (by rw [h]; decide))).trans (done_settled hs)

theorem exec_unrecoveredTimeout_stays {j : LLane} (hs : s.settled = true) (h : isLost s l d j = false) :
    exec (.unrecoveredTimeout l d j) s = .next s :=
  (congrArg done (if_neg (by rw [h]; decide))).trans (done_settled hs)

/-- UNCAP in LNKLOSS ends the cap of the loss policy (R203). -/
theorem exec_lnklossUncap_uncaps {c : Ctx} {v : Word} (hs : s.settled = true) (ho : opens s c (.lnkloss l)) :
    exec (.lnklossUncap c l v) s = .next (modLink s l fun x =>
      { x with cap := 0, lostSeen := x.lostSeen && !v.getLsbD 0, downTaken := x.downTaken && !v.getLsbD 3 }) := by
  have hbit : ∀ i, i < 32 → i ≠ 13 → bitAt (setBit v 13 true) i = v.getLsbD i := fun i hi hne =>
    (getLsbD_setBit v true (by decide) hi).trans (if_neg hne)
  have huncap : bitAt (setBit v 13 true) 13 = true := getLsbD_setBit v true (by decide) (by decide)
  refine Eq.trans (congrArg done ?_) (done_modLink hs l _)
  rw [writeTo_opens _ ho]
  refine modLink_congr s l ?_
  rw [hbit 0 (by decide) (by decide), hbit 3 (by decide) (by decide), if_pos huncap]

end

/-- Settles O59, command by command: a training state, a timeout, a search, an idle period, a pad set. -/
theorem trainingFollowsItsTable : Obligations.TrainingFollowsItsTable := by
  unfold Obligations.TrainingFollowsItsTable
  intro s l hs
  dsimp only
  refine ⟨fun sd mask => ⟨exec_receiverDetect_stays hs, fun r hr hst => exec_receiverDetect_counts hs hr hst⟩, fun sd j t => ?_,
    ⟨exec_rateDiscard_stays hs, exec_rateDiscard_discards hs⟩,
    ⟨exec_trainTimeout_stays hs, fun c hc ⟨hp, hd, ha⟩ => exec_trainTimeout hc hp hd ha⟩,
    fun sd p o => ⟨exec_presetSearchStep_stays hs, searchGets_final hs, searchGets_next hs,
      fun _ hack => exec_presetSearchStep_unacked hs hack⟩,
    ⟨exec_forcedIdleRetrain_stays hs, fun h _ => exec_forcedIdleRetrain_enters h⟩,
    fun c v ho hd ha hj h30 h31 => ⟨?_, ?_, ?_, ?_⟩,
    ⟨exec_idlePeriodEnd_stays hs, fun hi => ⟨exec_idlePeriodEnd_ends hs hi,
      fun hdown hpart hj ⟨hp, hd, ha⟩ => exec_idlePeriodEnd_down hi hdown hpart hj hp hd ha⟩⟩,
    fun d => ⟨exec_padSetPasses_stays hs, fun p hm hp hsym hst hf hl => ?_, exec_epochUnsent_stays hs, exec_epochUnsent_due hs,
      fun j => ⟨exec_unrecoveredTimeout_stays hs, exec_unrecoveredTimeout_lost hs⟩⟩,
    fun c v ho => exec_lnklossUncap_uncaps hs ho⟩
  · have known : t.pos[0] = 0x4A ∨ t.pos[0] = 0x4B → isTosA t = true ∨ isTosB t = true :=
      Or.imp (isTosA_iff t).2 (isTosB_iff t).2
    refine ⟨fun h => (congrArg done (trainingSet_refused t h)).trans (done_settled hs),
      fun h hk hst => exec_trainingSet_idle hs h (known hk) hst, ?_, ?_,
      fun h hst hj ht _ => satInc_count _ ▸ exec_trainingSet_active h hst hj ((isTosA_iff t).2 ht)⟩
    · rintro h rfl ht hst hrate hseen ha hb
      exact exec_trainingSet_aligns h ((isTosB_iff t).2 ht) hst hrate hseen ha hb
    · rintro h rfl ht hst
      exact exec_trainingSet_indexes h ((isTosA_iff t).2 ht) hst
  · exact fun h1 h3 hdis _ hst => exec_lnkctlRetrain_active ho hd ha hj h30 h31 h1 h3 hdis hst
  · exact fun h0 _ h1 hdis _ hnt hns => exec_lnkctlDisable_sets ho hd ha hj h30 h31 h0 h1 hdis hnt hns
  · exact fun h0 _ h1 hst hpart hp haf => exec_lnkctlDisable_clears ho hd ha hj h30 h31 h0 h1 hst hpart hp haf
  · exact fun h0 h1 hst hdis heq => exec_lnkctlClrRetrains_clears hs ho hd ha hj h30 h31 h0 h1 hst hdis heq
  · rw [exec_padSetPasses_active hm hp hsym hst hf hl]
    refine ⟨done_fillPad_marks hs, fun m hdue hi hm => ?_, done_fillPad_passes hs⟩
    rw [fillPad_sends p hdue hi hm]
    exact ⟨_, done_fillPad_sends hs l d p m _⟩

/-! ### What the end of a commit leaves of the lanes -/

/-- Receivers are as they were, and no tap has opened. -/
structure Rests (s t : State) : Prop where
  rx : ∀ sd p, (getLane t sd p).rx = (getLane s sd p).rx
  taps : ∀ p, isTap s p = true → isTap t p = true

theorem Rests.refl (s : State) : Rests s s := ⟨fun _ _ => rfl, fun _ h => h⟩

theorem Rests.trans {s t u : State} (h : Rests s t) (g : Rests t u) : Rests s u :=
  ⟨fun sd p => (g.rx sd p).trans (h.rx sd p), fun p k => g.taps p (h.taps p k)⟩

theorem Rests.of_same {s t : State} (hn : t.lanes = s.lanes) (hw : t.welt = s.welt) : Rests s t :=
  ⟨fun _ _ => by unfold getLane; rw [hn], fun _ h => by unfold isTap closedAt at h ⊢; rw [hw]; exact h⟩

theorem foldl_rests {α : Type} {s x : State} {f : State → α → State} {r : List α} (hf : ∀ t a, Rests s t → Rests s (f t a))
    (h : Rests s x) : Rests s (r.foldl f x) := by
  induction r generalizing x with
  | nil => exact h
  | cons a r ih => exact ih (hf x a h)

theorem ite_rests {s a b : State} {c : Prop} {_ : Decidable c} (ha : Rests s a) (hb : Rests s b) :
    Rests s (if c then a else b) := by
  split
  · exact ha
  · exact hb

section
variable {s x : State} {sd : Side} {p : Pos}

theorem modLane_rests {f : Lane → Lane} (hf : ∀ n, (f n).rx = n.rx) (h : Rests s x) : Rests s (modLane x sd p f) := by
  refine h.trans ⟨fun sd' q => ?_, fun _ g => g⟩
  by_cases e : (sd', q) = (sd, p)
  · cases e
    rw [getLane_modLane]
    exact hf _
  · rw [getLane_modLane_other _ _ _ _ _ _ e]

theorem modMeas_rests {f : LaneMeas → LaneMeas} (h : Rests s x) : Rests s (modMeas x sd p f) := modLane_rests (fun _ => rfl) h
theorem modTx_rests {f : LaneTx → LaneTx} (h : Rests s x) : Rests s (modTx x sd p f) := modLane_rests (fun _ => rfl) h

theorem logEvent_rests {code : BitVec 16} {c : Ctx} {data : List Byte} (h : Rests s x) : Rests s (logEvent x code c data) :=
  h.trans (.of_same (logEvent_same (k := .lanes) _ _ _ _ (by decide)) (logEvent_same (k := .welt) _ _ _ _ (by decide)))

theorem stopPrbs_rests {early : Bool} (h : Rests s x) : Rests s (stopPrbs x sd p early) := by
  unfold stopPrbs
  split
  · exact h
  · split
    · exact ite_rests h (modMeas_rests (h.trans (.of_same rfl rfl)))
    · exact h

theorem endTestJob_rests (h : Rests s x) : Rests s (endTestJob x sd p) := by
  unfold endTestJob
  split
  · exact ite_rests (stopPrbs_rests h) h
  · exact h

theorem endTests_rests (h : Rests s x) : Rests s (endTests x sd p) := by
  unfold endTests
  exact ite_rests (logEvent_rests (modMeas_rests (endTestJob_rests h))) (modMeas_rests (endTestJob_rests h))

theorem closePos_rests (h : Rests s x) : Rests s (closePos x p) := by
  unfold closePos
  refine foldl_rests (fun t sd g => modMeas_rests (endTests_rests g)) ?_
  refine Rests.trans (foldl_rests (fun t sd g => modTx_rests g) h) ⟨fun _ _ => rfl, fun q hq => ?_⟩
  show (vput _ p true)[q] = true
  by_cases e : q = p
  · subst e
    rw [vput_self]
  · rw [vput_other _ _ _ _ e]
    exact hq

theorem settlePos_rests (h : Rests s x) : Rests s (settlePos x p) :=
  ite_rests (ite_rests (closePos_rests h) h) (ite_rests h (h.trans ⟨fun _ _ => rfl, fun _ g => g⟩))

theorem settleAll_rests (h : Rests s x) : Rests s (settleAll x) := foldl_rests (fun _ _ g => settlePos_rests g) h

end

/-! ### A link's part of a commit (Table 4-4) -/

/-- The Last with a link's result. -/
def LastSt.put (x : LastSt) (l : LinkNo) (r : BitVec 4) : LastSt := { x with outcome := vput x.outcome l r }

section
variable {s : State} {l : LinkNo} {old img : LastImg}

/-- A link without a difference has the result 0. -/
theorem applyLink_same (h : s.last.diff[l] = 0) : applyLink s old img l = modLast s (·.put l 0) := by
  unfold applyLink
  rw [h]
  rfl

/-- Class H (R109). -/
theorem applyLink_hitless (h : s.last.diff[l] = 1) : applyLink s old img l =
    if noTraffic (getLink s l) || isTrans s l then modLast (takeUp s l img) (·.put l resApplied)
    else modLast (modLink s l fun k => { k with pend := .hitless }) (·.put l 1) := by
  unfold applyLink
  rw [h]
  rfl

/-- Class T (R112). -/
theorem applyLink_retrain (h : s.last.diff[l] = 2) : applyLink s old img l =
    if noTraffic (getLink s l) then
      modLast (modLink (takeUp s l img) l fun x => { x with exitRetrain := x.exitRetrain || x.st == .deep }) (·.put l resApplied)
    else if isTrans s l then
      modLast (modLink (laneRestart (takeUp s l img) l) l fun x => { x with pend := .switched }) (·.put l 1)
    else requestRetrain (modLast (modLink s l fun k => { k with pend := .retrain }) (·.put l 1)) l := by
  unfold applyLink
  rw [h]
  rfl

/-- Class D (R114). -/
theorem applyLink_restart (h : 3 ≤ s.last.diff[l].toNat) : applyLink s old img l =
    modLast (restartD s old img l) (·.put l (if noTraffic (getLink s l) then resApplied else resRestarted)) := by
  unfold applyLink
  generalize s.last.diff[l].toNat = n at h ⊢
  obtain ⟨m, rfl⟩ := Nat.exists_eq_add_of_le' h
  rfl

theorem restartD_but : But l s (restartD s old img l) := by
  have hidle : But l s (idleLink s old img l) :=
    Course.but (Course.of_links (idleLink_keeps (k := .links) (by decide) rfl) (Course.refl s)) (But.refl l s)
  have hup : But l s (takeUp (dropLink (idleLink s old img l) l) l img) := Course.but (takeUp_course (Course.refl _)) (dropLink_but hidle)
  unfold restartD
  dsimp only
  split
  · exact hup
  · exact restartLink_but hup

theorem laneRestart_but {x : State} (h : But l s x) : But l s (laneRestart x l) := by
  unfold laneRestart
  dsimp only
  refine checkRecovered_but (modLink_but (Course.but (Course.of_links ?_ (Course.refl x)) h))
  exact foldl_keeps (k := .links) rfl fun _ _ g => foldl_keeps (k := .links) g fun _ _ g =>
    ite_keeps (k := .links) g (modRx_keeps (k := .links) (by decide) (dropCdr_keeps (k := .links) (by decide) g))

theorem diff_cases (x : BitVec 4) : x = 0 ∨ x = 1 ∨ x = 2 ∨ 3 ≤ x.toNat := by
  revert x
  decide

/-- A link's part of a commit changes the course of no other link. -/
theorem applyLink_but : But l s (applyLink s old img l) := by
  have hup : But l s (takeUp s l img) := Course.but (takeUp_course (Course.refl s)) (But.refl l s)
  have hput : ∀ (x : State) (r : BitVec 4), But l s x → But l s (modLast x (·.put l r)) := fun _ _ h => h
  rcases diff_cases s.last.diff[l] with h | h | h | h
  · rw [applyLink_same h]
    exact hput _ _ (But.refl l s)
  · rw [applyLink_hitless h]
    split
    · exact hput _ _ hup
    · exact hput _ _ (modLink_but (But.refl l s))
  · rw [applyLink_retrain h]
    split
    · exact hput _ _ (modLink_but hup)
    · split
      · exact hput _ _ (modLink_but (laneRestart_but hup))
      · exact requestRetrain_but (hput _ _ (modLink_but (But.refl l s)))
  · rw [applyLink_restart h]
    exact hput _ _ restartD_but

/-! ### Steady: the device's causes, boot and the Heel -/

/-- What holds every link aside, boot and the Heel are as they were. -/
structure Steady (s t : State) : Prop where
  boot : t.boot = s.boot
  heel : t.heel = s.heel
  cause : devCause t = devCause s

theorem Steady.refl (s : State) : Steady s s := ⟨rfl, rfl, rfl⟩

theorem Steady.trans {s t u : State} (h : Steady s t) (g : Steady t u) : Steady s u :=
  ⟨g.boot.trans h.boot, g.heel.trans h.heel, g.cause.trans h.cause⟩

theorem Steady.of_banded {s t : State} {r : List Comp} (g : ∀ k : Comp, k ∉ r → k.same s t)
    (d : ∀ k ∈ [Comp.pins, .boot, .dev, .therm, .heel], k ∉ r) (h : Banded s t) : Steady s t := by
  have hpins : t.pins = s.pins := g .pins (d _ (by decide))
  have hboot : t.boot = s.boot := g .boot (d _ (by decide))
  have hdev : t.dev = s.dev := g .dev (d _ (by decide))
  have htherm : t.therm = s.therm := g .therm (d _ (by decide))
  have hpower : { t.power with band := s.power.band } = s.power := h
  have hvalid : t.power.valid = s.power.valid := (congrArg Power.valid hpower :)
  have hpump : t.power.pumpReady = s.power.pumpReady := (congrArg Power.pumpReady hpower :)
  exact ⟨hboot, g .heel (d _ (by decide)),
    devCause_congr hvalid hpump (by rw [hpins]) (by rw [hboot]) (by rw [hboot]) (by rw [hdev]) (by rw [hdev]) (by rw [htherm])⟩

theorem enterRetrain_banded {x : State} (h : Banded s x) : Banded s (enterRetrain x l) := by
  unfold enterRetrain
  dsimp only
  have hdrops : ∀ f, Banded s (modLink (dropMos (abandonSwap (endPbl x l) l) l [mosSpare, mosRetrainReq]) l f) := fun f =>
    Banded.of_power (modLink_keeps (k := .power) (by decide) (dropMos_keeps (k := .power) (by decide)
      (abandonSwap_keeps (k := .power) (by decide) (endPbl_keeps (k := .power) (by decide) rfl)))) h
  split
  · exact setResult_banded (switchLink_banded (hdrops _))
  · exact Banded.of_power rfl (switchLink_banded (hdrops _))
  · exact hdrops _

theorem requestRetrain_banded {x : State} (h : Banded s x) : Banded s (requestRetrain x l) := by
  unfold requestRetrain
  split
  · exact Banded.of_power (modLink_keeps (k := .power) (by decide) (sendOwn_keeps (k := .power) (by decide)
      (sendOwn_keeps (k := .power) (by decide) rfl))) h
  · exact Banded.of_power rfl (enterRetrain_banded h)

theorem restartD_banded {x : State} (h : Banded s x) : Banded s (restartD x old img l) := by
  have hup : Banded s (takeUp (dropLink (idleLink x old img l) l) l img) :=
    takeUp_banded (Banded.of_power (dropLink_keeps (k := .power) (by decide) (idleLink_keeps (k := .power) (by decide) rfl)) h)
  unfold restartD
  dsimp only
  split
  · exact hup
  · exact Banded.of_power (restartLink_keeps (k := .power) (by decide) rfl) hup

theorem applyLink_banded : Banded s (applyLink s old img l) := by
  have hup : Banded s (takeUp s l img) := takeUp_banded (Banded.refl s)
  have hput : ∀ (x : State) (r : BitVec 4), Banded s x → Banded s (modLast x (·.put l r)) := fun _ _ h => h
  rcases diff_cases s.last.diff[l] with h | h | h | h
  · rw [applyLink_same h]
    exact hput _ _ (Banded.refl s)
  · rw [applyLink_hitless h]
    split
    · exact hput _ _ hup
    · exact hput _ _ (Banded.of_power rfl (Banded.refl s))
  · rw [applyLink_retrain h]
    split
    · exact hput _ _ (Banded.of_power (modLink_keeps (k := .power) (by decide) rfl) hup)
    · split
      · exact hput _ _ (Banded.of_power (modLink_keeps (k := .power) (by decide)
          (laneRestart_keeps (k := .power) (by decide) rfl)) hup)
      · exact requestRetrain_banded (hput _ _ (Banded.of_power (modLink_keeps (k := .power) (by decide) rfl) (Banded.refl s)))
  · rw [applyLink_restart h]
    exact hput _ _ (restartD_banded (Banded.refl s))

theorem applyLink_steady : Steady s (applyLink s old img l) :=
  .of_banded (fun k hk => applyLink_keeps hk (k.same_refl s)) (by decide) applyLink_banded

end

/-! ### A commit that is accepted (R108) -/

/-- The Last as a commit that is accepted makes it before each link has its part. -/
def LastSt.begun (x : LastSt) (img : LastImg) : LastSt :=
  { x with
    shadow := .committing, done := false, mixed := false, refuse := 0, old := x.working, working := mergeGlobal x.working img }

/-- The global differences are taken up. -/
def begun (s : State) (img : LastImg) : State :=
  loadPrograms (relockPlls (retarget s.last.working (modLast s (·.begun img))) s.last.working)

/-- Each link of a list has its part. -/
def applied (s : State) (old img : LastImg) (r : List LinkNo) : State := r.foldl (fun t l => applyLink t old img l) s

theorem applied_steady (s : State) (old img : LastImg) (r : List LinkNo) : Steady s (applied s old img r) := by
  induction r generalizing s with
  | nil => exact .refl s
  | cons l r ih => exact applyLink_steady.trans (ih _)

theorem acceptCommit_eq (s : State) (img : LastImg) :
    acceptCommit s img = checkDone (settle (applied (begun s img) s.last.working img allLinks)) := rfl

theorem begun_keeps {k : Comp} {s x : State} {img : LastImg} (hk : k ∉ [.lanes, .power, .free, .tm])
    (h : k.same s (modLast x (·.begun img))) : k.same s (begun x img) :=
  loadPrograms_keeps (not_mem_of_subset hk (by decide)) (relockPlls_keeps (not_mem_of_subset hk (by decide))
    (retarget_keeps (not_mem_of_subset hk (by decide)) h))

theorem begun_last (s : State) (img : LastImg) : (begun s img).last = s.last.begun img :=
  begun_keeps (k := .last) (s := modLast s (·.begun img)) (by decide) rfl

theorem begun_links (s : State) (img : LastImg) : (begun s img).links = s.links := begun_keeps (k := .links) (by decide) rfl

theorem begun_steady (s : State) (img : LastImg) : Steady s (begun s img) := by
  have hlast : Steady s (modLast s (·.begun img)) := ⟨rfl, rfl, rfl⟩
  refine hlast.trans (.of_banded (fun k hk => begun_keeps hk (k.same_refl _)) (by decide) ?_)
  exact Banded.of_power (loadPrograms_keeps (k := .power) (by decide) rfl)
    (relockPlls_banded (Banded.of_power (retarget_keeps (k := .power) (by decide) rfl) (Banded.refl _)))

/-- Taking up the global differences leaves each link's record. -/
theorem linkRec_begun (s : State) (img : LastImg) (l : LinkNo) : linkRec (begun s img) l = linkRec s l := by
  unfold linkRec
  rw [begun_last]
  rfl

/-! ### The end of a commit -/

/-- Without a FORCED link and without a cause settling is the positions' alone. -/
theorem settle_eq_settleAll {s : State} (hd : devCause s = false) (hj : ∀ l, (getLink s l).join ≠ .forced) :
    settle s = settleAll s := by
  have hfold : ∀ r : List LinkNo, r.foldl (fun t l => if (getLink t l).join == .forced then restartLink t l else t) s = s := by
    intro r
    induction r with
    | nil => rfl
    | cons l r ih => rw [List.foldl_cons, if_neg (by simpa using hj l), ih]
  unfold settle
  rw [if_neg (by rw [hd]; decide), hfold, ite_self]

/-- What is left as a commit ends: the links but for the MOS that wait, the receivers, idle transmitters, taps that are none, the
working image. -/
structure Follows (w t : State) : Prop where
  links : ∀ l, (getLink w l).sameButOut (getLink t l)
  rx : ∀ sd p, (getLane t sd p).rx = (getLane w sd p).rx
  dark : ∀ sd p, (getLane w sd p).tx.on = false → (getLane t sd p).tx.on = false
  taps : ∀ p, isTap t p = false → isTap w p = false
  working : t.last.working = w.last.working

theorem Follows.field {α : Type} {w t : State} (g : Follows w t) (f : Link → α)
    (hf : ∀ k a b, f { k with outAB := a, outBA := b } = f k) (l : LinkNo) : f (getLink t l) = f (getLink w l) :=
  (hf _ _ _).symm.trans (congrArg f (g.links l))

theorem LastSt.ended_working (x : LastSt) : x.ended.working = x.working := by
  unfold LastSt.ended
  split <;> rfl

theorem LastSt.ended_outcome (x : LastSt) : x.ended.outcome = x.outcome := by
  unfold LastSt.ended
  split <;> rfl

theorem follows_fin {w : State} (hh : w.heel.restartDue = false) (hd : devCause w = false)
    (hj : ∀ l, (getLink w l).join ≠ .forced) :
    Follows w (fin (checkDone (settle w))) ∧ (fin (checkDone (settle w))).last = w.last.ended := by
  rw [settle_eq_settleAll hd hj]
  have hrests := settleAll_rests (Rests.refl w)
  have hminor := settleAll_minor (Minor.refl w)
  have hlast : (settleAll w).last = w.last := settleAll_keeps (k := .last) (by decide) rfl
  have hlinks : (settleAll w).links = w.links := settleAll_keeps (k := .links) (by decide) rfl
  have hheel : (checkDone (settleAll w)).heel = w.heel :=
    checkDone_keeps (k := .heel) (by decide) (settleAll_keeps (k := .heel) (by decide) rfl)
  have hlanes : (fin (checkDone (settleAll w))).lanes = (settleAll w).lanes :=
    (fin_lanes (by rw [hheel]; exact hh)).trans (checkDone_keeps (k := .lanes) (by decide) rfl)
  have hwelt : (fin (checkDone (settleAll w))).welt = (settleAll w).welt :=
    fin_keeps (k := .welt) (by decide) (checkDone_keeps (k := .welt) (by decide) rfl)
  have hlane : ∀ sd p, getLane (fin (checkDone (settleAll w))) sd p = getLane (settleAll w) sd p := fun sd p => by
    unfold getLane
    rw [hlanes]
  have hended : (fin (checkDone (settleAll w))).last = w.last.ended := by
    refine (fin_keeps (k := .last) (s := checkDone (settleAll w)) (by decide) rfl).trans ?_
    rw [checkDone_last, hlast]
  refine ⟨⟨fun l => ?_, fun sd p => ?_, fun sd p h => ?_, fun p h => ?_, ?_⟩, hended⟩
  · have hlink : getLink (checkDone (settleAll w)) l = getLink w l := by
      rw [getLink_checkDone]
      unfold getLink
      rw [hlinks]
    rw [← hlink]
    exact fin_links _ l
  · rw [hlane]
    exact hrests.rx sd p
  · rw [hlane]
    exact hminor.dark sd p h
  · have htap : isTap (settleAll w) p = false := by
      unfold isTap closedAt at h ⊢
      rw [← hwelt]
      exact h
    exact Bool.eq_false_iff.2 fun e => absurd (hrests.taps p e) (by rw [htap]; decide)
  · rw [hended, LastSt.ended_working]

/-- COMMIT that Table 4-3 does not refuse. -/
theorem exec_commit_accepts {s : State} {c : Ctx} {v : Word} {img : LastImg} (ho : opens s c .lastcmd)
    (hr : commitRefusal s c (setBit v 0 true) = 0) (hi : s.last.staged = some img) :
    exec (.commit c v) s = done (acceptCommit s img) := by
  have haccept : writeLastcmd s c (setBit v 0 true) = acceptCommit s img := ?_
  · exact (congrArg done (writeTo_opens _ ho)).trans (congrArg done haccept)
  unfold writeLastcmd
  dsimp only
  rw [if_pos (show bitAt (setBit v 0 true) 0 = true from getLsbD_setBit v true (by decide) (by decide)), hr, hi]
  exact if_neg (by decide)

/-- An accepted COMMIT ends as its links' parts leave it, where none of them is FORCED. -/
theorem exec_commit_follows {s : State} {c : Ctx} {v : Word} {img : LastImg} (hs : s.settled = true) (ho : opens s c .lastcmd)
    (hr : commitRefusal s c (setBit v 0 true) = 0) (hi : s.last.staged = some img) (hd : devCause s = false) {w : State}
    (hw : applied (begun s img) s.last.working img allLinks = w) (hj : ∀ l, (getLink w l).join ≠ .forced) :
    ∃ t, exec (.commit c v) s = .next t ∧ Follows w t ∧ t.last = w.last.ended := by
  have hsteady : Steady s w := hw ▸ (begun_steady s img).trans (applied_steady _ _ _ _)
  refine ⟨_, (exec_commit_accepts ho hr hi).trans (congrArg done ((acceptCommit_eq s img).trans (by rw [hw]))), ?_⟩
  exact follows_fin (by rw [hsteady.heel]; exact restartDue_of_settled hs) (hsteady.cause.trans hd) hj

/-! ### A commit in which one link alone differs -/

/-- The results of a list of links, each in its place. -/
def results (f : LinkNo → BitVec 4) (r : List LinkNo) (v : Vector (BitVec 4) 8) : Vector (BitVec 4) 8 :=
  r.foldl (fun v j => vput v j (f j)) v

theorem results_get (f : LinkNo → BitVec 4) (r : List LinkNo) (v : Vector (BitVec 4) 8) (j : LinkNo) :
    (results f r v)[j] = if j ∈ r then f j else v[j] := by
  induction r generalizing v with
  | nil => rfl
  | cons i r ih =>
    refine (ih (vput v i (f i))).trans ?_
    by_cases hr : j ∈ r
    · rw [if_pos hr, if_pos (List.mem_cons_of_mem _ hr)]
    · rw [if_neg hr]
      by_cases e : j = i
      · subst e
        rw [vput_self, if_pos (List.mem_cons_self ..)]
      · rw [vput_other _ _ _ _ e, if_neg (by simp [e, hr])]

/-- The results of links without a difference. -/
abbrev zeroed (r : List LinkNo) (v : Vector (BitVec 4) 8) : Vector (BitVec 4) 8 := results (fun _ => 0) r v

theorem applied_zeroed {s : State} {old img : LastImg} {r : List LinkNo} (h : ∀ j ∈ r, s.last.diff[j] = 0) :
    applied s old img r = modLast s fun x => { x with outcome := zeroed r x.outcome } := by
  induction r generalizing s with
  | nil => rfl
  | cons i r ih =>
    have hi : applyLink s old img i = modLast s (·.put i 0) := applyLink_same (h i (List.mem_cons_self ..))
    show applied (applyLink s old img i) old img r = _
    rw [hi]
    exact ih fun j hj => h j (List.mem_cons_of_mem _ hj)

theorem worksOn_put {x : LastSt} {t : State} (l : LinkNo) (r : BitVec 4) (h : worksOn x t) :
    worksOn (x.put l r) (modLast t (·.put l r)) := by
  obtain ⟨w, hw⟩ := h
  refine ⟨w, ?_⟩
  show t.last.put l r = _
  rw [hw]
  rfl

/-- A state in which a link has its part in a commit: the global differences are taken up, and other links have results. -/
structure Turn (s u : State) (img : LastImg) : Prop where
  last : ∃ v, u.last = { s.last.begun img with outcome := v }
  links : u.links = s.links

theorem Turn.getLink {s u : State} {img : LastImg} (h : Turn s u img) (l : LinkNo) : getLink u l = getLink s l := by
  unfold Machine.getLink
  rw [h.links]

theorem Turn.linkRec {s u : State} {img : LastImg} (h : Turn s u img) (l : LinkNo) : linkRec u l = linkRec s l := by
  obtain ⟨v, hv⟩ := h.last
  unfold Machine.linkRec
  rw [hv]
  rfl

theorem Turn.isTrans {s u : State} {img : LastImg} (h : Turn s u img) (l : LinkNo) : isTrans u l = isTrans s l := by
  unfold Machine.isTrans recIs
  rw [h.linkRec]

theorem Turn.diff {s u : State} {img : LastImg} (h : Turn s u img) : u.last.diff = s.last.diff := by
  obtain ⟨v, hv⟩ := h.last
  rw [hv]
  rfl

theorem Turn.shadow {s u : State} {img : LastImg} (h : Turn s u img) : u.last.shadow = .committing := by
  obtain ⟨v, hv⟩ := h.last
  rw [hv]
  rfl

theorem Turn.staged {s u : State} {img : LastImg} (h : Turn s u img) : u.last.staged = s.last.staged := by
  obtain ⟨v, hv⟩ := h.last
  rw [hv]
  rfl

/-- How a commit in which link l alone differs ends: with the link's result r, on what the link's part leaves. -/
structure Alone (l : LinkNo) (r : BitVec 4) (w t : State) : Prop where
  follows : Follows w t
  outcome : t.last.outcome[l] = r
  ends : r ≠ 1 → t.last.done = true ∧ t.last.shadow = .empty
  waits : r = 1 → t.last.shadow = .committing

theorem Alone.of_results {l : LinkNo} {r : BitVec 4} {w t : State} {o : Vector (BitVec 4) 8} (hf : Follows w t)
    (hc : w.last.shadow = .committing) (ht : t.last = LastSt.ended { w.last with outcome := o })
    (ho : ∀ j : LinkNo, o[j] = if j = l then r else 0) : Alone l r w t := by
  have hover : (∀ j : LinkNo, o[j] ≠ 1) ↔ r ≠ 1 := by
    refine ⟨fun h => by simpa [ho] using h l, fun h j => ?_⟩
    rw [ho]
    split
    · exact h
    · decide
  refine ⟨hf, ?_, fun h => ?_, fun h => ?_⟩
  · rw [ht, LastSt.ended_outcome]
    exact (ho l).trans (if_pos rfl)
  · rw [ht.trans (LastSt.ended_over ⟨hc, hover.2 h⟩)]
    exact ⟨rfl, rfl⟩
  · rw [ht.trans (LastSt.ended_pending fun g => absurd h (hover.1 g.2))]
    exact hc

theorem allLinks_split (l : LinkNo) : ∃ pre post, allLinks = pre ++ l :: post ∧ l ∉ pre ∧ l ∉ post := by
  obtain ⟨pre, post, hsplit⟩ := List.append_of_mem (List.mem_finRange l)
  have hnodup : (pre ++ l :: post).Nodup := hsplit ▸ List.nodup_finRange 8
  obtain ⟨-, hpost, hpre⟩ := List.nodup_append.1 hnodup
  exact ⟨pre, post, hsplit, fun h => hpre l h l (List.mem_cons_self ..) rfl, (List.nodup_cons.1 hpost).1⟩

/-- The links before the one that differs have the result 0. -/
theorem turn_of_zeroed {s : State} {img : LastImg} {pre : List LinkNo} (h : ∀ j ∈ pre, s.last.diff[j] = 0) :
    Turn s (applied (begun s img) s.last.working img pre) img ∧
      ∀ j ∈ pre, (applied (begun s img) s.last.working img pre).last.outcome[j] = 0 := by
  rw [applied_zeroed fun j hj => by rw [begun_last]; exact h j hj]
  exact ⟨⟨⟨_, congrArg (fun x : LastSt => { x with outcome := zeroed pre x.outcome }) (begun_last s img)⟩, begun_links s img⟩,
    fun j hj => (results_get _ pre _ j).trans (if_pos hj)⟩

theorem exec_commit_alone {s : State} {c : Ctx} {v : Word} {img : LastImg} {l : LinkNo} (hs : s.settled = true)
    (ho : opens s c .lastcmd) (hr : commitRefusal s c (setBit v 0 true) = 0) (hi : s.last.staged = some img)
    (hd : devCause s = false) (hj : ∀ j, (getLink s j).join ≠ .forced) (hdiff : ∀ j : LinkNo, j ≠ l → s.last.diff[j] = 0) :
    ∃ u, Turn s u img ∧ ∀ r w, applyLink u s.last.working img l = w → worksOn (u.last.put l r) w →
      (getLink w l).join ≠ .forced → ∃ t, exec (.commit c v) s = .next t ∧ Alone l r w t := by
  obtain ⟨pre, post, hsplit, hpre, hpost⟩ := allLinks_split l
  have hall : ∀ j : LinkNo, j ≠ l → j ∈ pre ∨ j ∈ post := fun j h => by
    have hmem : j ∈ pre ++ l :: post := hsplit ▸ List.mem_finRange j
    simpa [h] using hmem
  obtain ⟨hturn, hzero⟩ := turn_of_zeroed (img := img) fun j h => hdiff j fun e => hpre (e ▸ h)
  generalize hu : applied (begun s img) s.last.working img pre = u at hturn hzero
  refine ⟨u, hturn, fun r w hw hlast hjoin => ?_⟩
  obtain ⟨x, hx⟩ := hlast
  have hrest : applied w s.last.working img post = modLast w fun x => { x with outcome := zeroed post x.outcome } :=
    applied_zeroed fun j h => by
      rw [hx]
      exact (congrArg (fun d : Vector (BitVec 4) 8 => d[j]) hturn.diff).trans (hdiff j fun e => hpost (e ▸ h))
  have hW : applied (begun s img) s.last.working img allLinks = modLast w fun x => { x with outcome := zeroed post x.outcome } := by
    rw [← hrest, ← hw, ← hu, hsplit]
    exact List.foldl_append ..
  have hjoins : ∀ j, (getLink w j).join ≠ .forced := fun j => by
    by_cases e : j = l
    · subst e
      exact hjoin
    · rw [← hw, bare_join (applyLink_but j e), hturn.getLink]
      exact hj j
  have hres : ∀ j : LinkNo, (zeroed post w.last.outcome)[j] = if j = l then r else 0 := fun j => by
    rw [results_get, hx]
    show (if j ∈ post then 0 else (vput u.last.outcome l r)[j]) = _
    by_cases e : j = l
    · subst e
      rw [if_neg hpost, vput_self, if_pos rfl]
    · rw [vput_other _ _ _ _ e, if_neg e]
      rcases hall j e with h | h
      · rw [hzero j h, ite_self]
      · rw [if_pos h]
  have hshadow : w.last.shadow = .committing := by
    rw [hx]
    exact hturn.shadow
  obtain ⟨t, ht, hfollows, hend⟩ := exec_commit_follows hs ho hr hi hd hW hjoins
  exact ⟨t, ht, .of_results ⟨hfollows.links, hfollows.rx, hfollows.dark, hfollows.taps, hfollows.working⟩ hshadow hend hres⟩

/-! ### What a fold over lanes reaches -/

/-- What one step of a fold brings about, and no step takes away, holds after it. -/
theorem foldl_reaches {α : Type} {Q P : State → Prop} {f : State → α → State} {a : α} (hq : ∀ t b, Q t → Q (f t b))
    (hset : ∀ t, Q t → P (f t a)) (hkeep : ∀ t b, P t → P (f t b)) {r : List α} (ha : a ∈ r) {s : State} (h : Q s) :
    P (r.foldl f s) := by
  have hstays : ∀ (r : List α) (t : State), P t → P (r.foldl f t) := fun r => by
    induction r with
    | nil => exact fun _ g => g
    | cons b r ih => exact fun t g => ih _ (hkeep t b g)
  induction r generalizing s with
  | nil => cases ha
  | cons b r ih =>
    rcases List.mem_cons.1 ha with rfl | e
    · exact hstays r _ (hset s h)
    · exact ih e (hq s b h)

/-- The receiver at a position has no clock. -/
def unlocked (sd : Side) (p : Pos) (s : State) : Prop := (getLane s sd p).rx.cdrLock = false

section
variable {s : State} {l : LinkNo} {sd sd' : Side} {p q : Pos}

theorem modLane_unlocked {f : Lane → Lane} (hf : ∀ n, n.rx.cdrLock = false → (f n).rx.cdrLock = false) (h : unlocked sd p s) :
    unlocked sd p (modLane s sd' q f) := by
  unfold unlocked at h ⊢
  by_cases e : (sd, p) = (sd', q)
  · cases e
    rw [getLane_modLane]
    exact hf _ h
  · rw [getLane_modLane_other _ _ _ _ _ _ e]
    exact h

theorem dropCdr_unlocks : unlocked sd p (dropCdr s sd p) := by
  unfold unlocked dropCdr
  rw [getLane_modLane]
  rfl

theorem dropCdr_unlocked (h : unlocked sd p s) : unlocked sd p (dropCdr s sd' q) := by
  have hscan : unlocked sd p (scanLost s sd' q) := by
    unfold unlocked getLane
    rw [show (scanLost s sd' q).lanes = s.lanes from scanLost_keeps (k := .lanes) (by decide) rfl]
    exact h
  refine modLane_unlocked (fun _ _ => rfl) ?_
  split
  · exact hscan
  · exact h

/-- One receiver's part of a lane restart: it gains its lock afresh, unless it is a tap. -/
def relock (q : Pos) (s : State) (sd : Side) : State :=
  if isTap s q then s else modRx (dropCdr s sd q) sd q fun n => { n with rate := 0 }

theorem relock_keeps {k : Comp} (hk : k ∉ [.lanes, .units]) {x : State} (h : k.same s x) : k.same s (relock q x sd) :=
  ite_keeps h (modRx_keeps (not_mem_of_subset hk (by decide)) (dropCdr_keeps hk h))

theorem relock_unlocked (h : unlocked sd p s) : unlocked sd p (relock q s sd') := by
  unfold relock
  split
  · exact h
  · exact modLane_unlocked (fun _ g => g) (dropCdr_unlocked h)

theorem relock_unlocks (h : isTap s p = false) : unlocked sd p (relock p s sd) := by
  unfold relock
  rw [if_neg (by rw [h]; decide)]
  exact modLane_unlocked (fun _ g => g) dropCdr_unlocks

theorem relock_tap : isTap (relock q s sd) p = isTap s p := by
  unfold isTap closedAt
  rw [show (relock q s sd).welt = s.welt from relock_keeps (k := .welt) (by decide) rfl]

/-- Both receivers at a position in their turn. -/
def relockBoth (s : State) (q : Pos) : State := relock q (relock q s .A) .B

theorem relockBoth_tap : isTap (relockBoth s q) p = isTap s p := relock_tap.trans relock_tap

theorem relockBoth_unlocked (h : unlocked sd p s) : unlocked sd p (relockBoth s q) := relock_unlocked (relock_unlocked h)

theorem relockBoth_unlocks (h : isTap s p = false) : unlocked sd p (relockBoth s p) := by
  cases sd with
  | A => exact relock_unlocked (relock_unlocks h)
  | B => exact relock_unlocks (relock_tap.trans h)

/-! ### A lane restart (R112) -/

/-- The receivers of the link's positions, each in its turn. -/
def relocked (s : State) (l : LinkNo) : State := (linkPoss s.last.working l).foldl relockBoth s

theorem laneRestart_eq (s : State) (l : LinkNo) : laneRestart s l =
    checkRecovered (modLink (relocked s l) l fun k =>
      { k with idleOut := true, lostAB := 0, lostBA := 0, rate := singleRate (relocked s l) l }) l := rfl

theorem relocked_keeps {k : Comp} (hk : k ∉ [.lanes, .units]) {x : State} (h : k.same s x) : k.same s (relocked x l) :=
  foldl_keeps h fun _ _ g => relock_keeps hk (relock_keeps hk g)

theorem laneRestart_unlocks (hp : p ∈ linkPoss s.last.working l) (h : isTap s p = false) :
    unlocked sd p (laneRestart s l) := by
  have hfold : unlocked sd p (relocked s l) :=
    foldl_reaches (f := relockBoth) (Q := fun t => isTap t p = false) (P := unlocked sd p) (fun _ _ g => relockBoth_tap.trans g)
      (fun _ g => relockBoth_unlocks g) (fun _ _ g => relockBoth_unlocked g) hp h
  exact hfold

/-- A restarted link sends idle; its course and what is pending on it are as they were. -/
theorem getLink_laneRestart (s : State) (l : LinkNo) :
    let k := getLink (laneRestart s l) l
    k.idleOut = true ∧ k.join = (getLink s l).join ∧ k.st = (getLink s l).st ∧ k.pend = (getLink s l).pend := by
  have hlink : getLink (relocked s l) l = getLink s l := by
    unfold getLink
    rw [show (relocked s l).links = s.links from relocked_keeps (k := .links) (by decide) rfl]
  rw [laneRestart_eq]
  unfold checkRecovered
  rw [getLink_modLink, getLink_modLink, hlink]
  split <;> exact ⟨rfl, rfl, rfl, rfl⟩

theorem laneRestart_last (s : State) (l : LinkNo) : (laneRestart s l).last = s.last := laneRestart_keeps (k := .last) (by decide) rfl

/-! ### Idle transmitters (R114) -/

/-- The transmitter at a position is off. -/
def silent (sd : Side) (p : Pos) (s : State) : Prop := (getLane s sd p).tx.on = false

theorem modTx_silent {f : LaneTx → LaneTx} (hf : ∀ n, (f n).on = false) (h : silent sd p s) : silent sd p (modTx s sd' q f) := by
  unfold silent at h ⊢
  by_cases e : (sd, p) = (sd', q)
  · cases e
    exact (congrArg (fun n : Lane => n.tx.on) (getLane_modLane ..)).trans (hf _)
  · exact (congrArg (fun n : Lane => n.tx.on) (getLane_modLane_other _ _ _ _ _ _ e)).trans h

theorem modTx_silences {f : LaneTx → LaneTx} (hf : ∀ n, (f n).on = false) : silent sd p (modTx s sd p f) :=
  (congrArg (fun n : Lane => n.tx.on) (getLane_modLane ..)).trans (hf _)

/-- Both transmitters at a position go idle. -/
def hush (s : State) (q : Pos) : State :=
  modTx (modTx s .A q fun x => { x with on := false, last := none }) .B q fun x => { x with on := false, last := none }

theorem hush_silent (h : silent sd p s) : silent sd p (hush s q) := modTx_silent (fun _ => rfl) (modTx_silent (fun _ => rfl) h)

theorem hush_silences : silent sd p (hush s p) := by
  cases sd with
  | A => exact modTx_silent (fun _ => rfl) (modTx_silences fun _ => rfl)
  | B => exact modTx_silences fun _ => rfl

theorem idleLink_silences {old img : LastImg} (h : namesPos old l p = true ∨ namesPos img l p = true) :
    silent sd p (idleLink s old img l) := by
  have hp : p ∈ allPos.filter fun p => namesPos old l p || namesPos img l p :=
    List.mem_filter.2 ⟨List.mem_finRange p, by simpa using h⟩
  exact foldl_reaches (f := hush) (Q := fun _ => True) (P := silent sd p) (fun _ _ _ => trivial) (fun _ _ => hush_silences)
    (fun _ _ g => hush_silent g) hp trivial

end

theorem recBut_of_working {s t : State} (h : t.last.working = s.last.working) (l : LinkNo) : recBut t l = recBut s l := by
  unfold recBut linkRec
  rw [h]

theorem worksOn_modLink {x : LastSt} {t : State} {l : LinkNo} {f : Link → Link} (h : worksOn x t) : worksOn x (modLink t l f) := h

theorem recBut_modLink (s : State) (l j : LinkNo) (f : Link → Link) : recBut (modLink s l f) j = recBut s j := rfl

/-! ### The turn of a link in class T or D -/

section
variable {u : State} {l : LinkNo} {old img : LastImg}

/-- In class T a link without traffic takes up the image at once. -/
theorem turn_free (h : u.last.diff[l] = 2) (hf : noTraffic (getLink u l) = true) :
    let w := applyLink u old img l
    worksOn (u.last.put l resApplied) w ∧ (getLink w l).join = (getLink u l).join ∧
      recBut w l = (img.links[l]).map LinkRec.unspared := by
  dsimp only
  rw [applyLink_retrain h, if_pos hf]
  have hjoin : (getLink (takeUp u l img) l).join = (getLink u l).join := bare_join (takeUp_course (Course.refl u) l)
  have hlast := takeUp_last u l img
  have hrec := recBut_takeUp u l img
  generalize takeUp u l img = x at hjoin hlast hrec
  have hlink : ∀ f : Link → Link, getLink (modLast (modLink x l f) (·.put l resApplied)) l = f (getLink x l) :=
    fun _ => getLink_modLink _ _ _
  refine ⟨worksOn_put l _ hlast, ?_, hrec⟩
  rw [hlink]
  exact hjoin

/-- In class T a Transparent link takes up the image and restarts its lanes. -/
theorem turn_transparent (h : u.last.diff[l] = 2) (hf : noTraffic (getLink u l) = false) (ht : isTrans u l = true) :
    let w := applyLink u old img l
    worksOn (u.last.put l 1) w ∧ (getLink w l).join = (getLink u l).join ∧ recBut w l = (img.links[l]).map LinkRec.unspared ∧
      (getLink w l).pend = .switched ∧ (getLink w l).idleOut = true ∧
      ∀ p ∈ linkPoss w.last.working l, isTap w p = false → ∀ sd, unlocked sd p w := by
  obtain ⟨hidle, hjoin, -, -⟩ := getLink_laneRestart (takeUp u l img) l
  have hlast := laneRestart_last (takeUp u l img) l
  have htap : ∀ p, isTap (laneRestart (takeUp u l img) l) p = isTap (takeUp u l img) p := fun p => by
    unfold isTap closedAt
    rw [show (laneRestart (takeUp u l img) l).welt = _ from laneRestart_keeps (k := .welt) (by decide) rfl]
  dsimp only
  rw [applyLink_retrain h, if_neg (by rw [hf]; decide), if_pos ht]
  generalize hx : laneRestart (takeUp u l img) l = x at hidle hjoin hlast htap
  have hlink : getLink (modLast (modLink x l fun k => { k with pend := .switched }) (·.put l 1)) l =
      { getLink x l with pend := .switched } := getLink_modLink _ _ _
  refine ⟨worksOn_put l _ ?_, ?_, ?_, ?_, ?_, fun p hp hnt sd => ?_⟩
  · obtain ⟨w, hw⟩ := takeUp_last u l img
    exact ⟨w, hlast.trans hw⟩
  · rw [hlink]
    exact hjoin.trans (bare_join (takeUp_course (Course.refl u) l))
  · exact (recBut_of_last hlast l).trans (recBut_takeUp u l img)
  · rw [hlink]
  · rw [hlink]
    exact hidle
  · have hmem : p ∈ linkPoss (takeUp u l img).last.working l := hlast ▸ hp
    have hfree : isTap (takeUp u l img) p = false := (htap p).symm.trans hnt
    have hun : unlocked sd p x := hx ▸ laneRestart_unlocks hmem hfree
    exact hun

/-- In class T a Participating link with its channel asks for a retrain, and switches later. -/
theorem turn_asks (h : u.last.diff[l] = 2) (hf : noTraffic (getLink u l) = false) (ht : isTrans u l = false)
    (hc : imcOn (getLink u l) = true) :
    let w := applyLink u old img l
    worksOn (u.last.put l 1) w ∧ (getLink w l).join = (getLink u l).join ∧ w.last.working = u.last.working ∧
      (getLink w l).pend = .retrain ∧ (getLink w l).retrainAsked = true ∧ (getLink w l).st = (getLink u l).st := by
  dsimp only
  rw [applyLink_retrain h, if_neg (by rw [hf]; decide), if_neg (by rw [ht]; decide)]
  have hlink : getLink (modLast (modLink u l fun k => { k with pend := .retrain }) (·.put l 1)) l =
      { getLink u l with pend := .retrain } := getLink_modLink _ _ _
  generalize hx : modLast (modLink u l fun k => { k with pend := .retrain }) (·.put l 1) = x at hlink
  have hxlast : x.last = u.last.put l 1 := hx ▸ rfl
  have hc' : imcOn (getLink x l) = true := by
    rw [hlink]
    exact hc
  rw [requestRetrain_asks hc']
  have hsent : (getLink x l).sameButOut (getLink (sendOwn (sendOwn x l 0 mosRetrainReq []) l 3 mosRetrainReq []) l) :=
    sendOwn_sameButOut (sendOwn_sameButOut fun j => (getLink x j).sameButOut_refl) l
  have hlast : (sendOwn (sendOwn x l 0 mosRetrainReq []) l 3 mosRetrainReq []).last = x.last :=
    sendOwn_keeps (k := .last) (by decide) (sendOwn_keeps (k := .last) (by decide) rfl)
  generalize sendOwn (sendOwn x l 0 mosRetrainReq []) l 3 mosRetrainReq [] = y at hsent hlast
  have hfield : ∀ {α : Type} (f : Link → α), (∀ k a b, f { k with outAB := a, outBA := b } = f k) →
      f (getLink y l) = f { getLink u l with pend := .retrain } := fun f hf =>
    ((hf _ _ _).symm.trans (congrArg f hsent)).trans (congrArg f hlink)
  have hlast' : (modLink y l fun k => { k with retrainAsked := true }).last = u.last.put l 1 := hlast.trans hxlast
  rw [getLink_modLink]
  exact ⟨⟨u.last.working, hlast'⟩, hfield Link.join fun _ _ _ => rfl, (congrArg LastSt.working hlast' :),
    hfield Link.pend fun _ _ _ => rfl, rfl, hfield Link.st fun _ _ _ => rfl⟩

/-- A link on which a switch waits takes up the staged image as it enters RETRAIN. -/
theorem enterRetrain_takes {s : State} (hp : (getLink s l).pend = .retrain) (hi : s.last.staged = some img) :
    let w := enterRetrain s l
    worksOn s.last w ∧ recBut w l = (img.links[l]).map LinkRec.unspared ∧ (getLink w l).pend = .switched ∧
      (getLink w l).st = .retrain ∧ (getLink w l).join = (getLink s l).join := by
  obtain ⟨b, hself⟩ := enterRetrain_self s l
  have hbegun := (retrainBegun_minor s l).last.worksOn
  have hstaged : (retrainBegun s l).last.staged = some img := by
    obtain ⟨w, hw⟩ := hbegun
    rw [hw]
    exact hi
  have htake : switchLink (retrainBegun s l) l = takeUp (retrainBegun s l) l img := by
    unfold switchLink
    rw [hstaged]
  have heq := enterRetrain_switches hp
  rw [htake] at heq
  refine ⟨?_, ?_, ?_, bare_st hself, (bare_join hself :)⟩
  · rw [heq]
    exact worksOn_modLink (hbegun.trans (takeUp_last (retrainBegun s l) l img))
  · rw [heq, recBut_modLink]
    exact recBut_takeUp (retrainBegun s l) l img
  · rw [heq, getLink_modLink]

/-- In class T a Participating link without its channel enters RETRAIN, and switches there. -/
theorem turn_enters (h : u.last.diff[l] = 2) (hf : noTraffic (getLink u l) = false) (ht : isTrans u l = false)
    (hc : imcOn (getLink u l) = false) (hi : u.last.staged = some img) :
    let w := applyLink u old img l
    worksOn (u.last.put l 1) w ∧ (getLink w l).join = (getLink u l).join ∧ recBut w l = (img.links[l]).map LinkRec.unspared ∧
      (getLink w l).pend = .switched ∧ (getLink w l).st = .retrain ∧ (getLink w l).idleOut = true := by
  dsimp only
  rw [applyLink_retrain h, if_neg (by rw [hf]; decide), if_neg (by rw [ht]; decide)]
  have hlink : getLink (modLast (modLink u l fun k => { k with pend := .retrain }) (·.put l 1)) l =
      { getLink u l with pend := .retrain } := getLink_modLink _ _ _
  generalize hx : modLast (modLink u l fun k => { k with pend := .retrain }) (·.put l 1) = x at hlink
  have hxlast : x.last = u.last.put l 1 := hx ▸ rfl
  have hc' : imcOn (getLink x l) = false := by
    rw [hlink]
    exact hc
  obtain ⟨hlast, hrec, hpend, hst, hjoin⟩ := enterRetrain_takes (s := x) (l := l) (img := img) (by rw [hlink]) (by rw [hxlast]; exact hi)
  rw [requestRetrain_enters hc', getLink_modLink]
  exact ⟨hxlast ▸ hlast, hjoin.trans (by rw [hlink]), hrec, hpend, hst, rfl⟩

/-! ### Class D -/

/-- The state in which a link's record has it start (Table 2-5). -/
def startJoinOf (quiet aside : Bool) (o : Option LinkRec) : JoinState :=
  match o with
  | none => .cfgBypass
  | some r => if r.mode = .bypass then .cfgBypass else if aside then .aside else match r.join with
    | .immediate => .joining
    | .nextTrain => if quiet then .joining else .waitTrain
    | .host => .waitHost

theorem restartLink_eq (x : State) (l : LinkNo) : restartLink x l = modLink x l fun k =>
    { k with join := startJoinOf (noSignal x l) (getLink x l).aside (linkRec x l), joinSeen := false, st := .notTraining } := by
  unfold restartLink startState recIs startJoinOf
  dsimp only
  cases linkRec x l with
  | none => rfl
  | some r =>
    by_cases hm : r.mode = .bypass
    · simp [hm]
    · cases ha : (getLink x l).aside <;> cases hr : r.join <;> cases hn : noSignal x l <;> simp [hm, hr]

/-- A start state looks at no spare. -/
theorem startJoinOf_unspared (quiet aside : Bool) (o : Option LinkRec) :
    startJoinOf quiet aside (o.map LinkRec.unspared) = startJoinOf quiet aside o := by
  cases o <;> rfl

/-- In class D a link's transmitters go idle, it takes up the image and stands in the start state of its new record. -/
theorem turn_restarts (h : u.last.diff[l] = 3) (hj : (getLink u l).join ≠ .forced) :
    let w := applyLink u old img l
    worksOn (u.last.put l (if noTraffic (getLink u l) then resApplied else resRestarted)) w ∧
      recBut w l = (img.links[l]).map LinkRec.unspared ∧ (getLink w l).st = .notTraining ∧
      (∀ sd p, namesPos old l p = true ∨ namesPos img l p = true → silent sd p w) ∧
      (getLink w l).join = startJoinOf (noSignal w l) (getLink u l).aside img.links[l] := by
  have hidle : (idleLink u old img l).links = u.links := idleLink_keeps (k := .links) (by decide) rfl
  have hdropped := dropLink_self l (Course.of_links hidle (Course.refl u))
  have hself := (takeUp_course (a0 := l) (a1 := img) (Course.refl (dropLink (idleLink u old img l) l)) l).trans hdropped
  have hdrop := dropLink_minor (l := l) (Minor.refl (idleLink u old img l))
  have hidleLast : (idleLink u old img l).last = u.last := idleLink_keeps (k := .last) (by decide) rfl
  have hlast : worksOn u.last (takeUp (dropLink (idleLink u old img l) l) l img) :=
    hidleLast ▸ hdrop.last.worksOn.trans (takeUp_last _ l img)
  have hrec := recBut_takeUp (dropLink (idleLink u old img l) l) l img
  have hdark : ∀ sd p, namesPos old l p = true ∨ namesPos img l p = true →
      silent sd p (takeUp (dropLink (idleLink u old img l) l) l img) := fun sd p hn =>
    takeUp_stays_dark _ l img sd p (hdrop.dark sd p (idleLink_silences hn))
  have hw : applyLink u old img l = modLast (restartD u old img l)
      (·.put l (if noTraffic (getLink u l) then resApplied else resRestarted)) := applyLink_restart (by rw [h]; decide)
  unfold restartD at hw
  dsimp only at hw ⊢
  rw [hw]
  generalize takeUp (dropLink (idleLink u old img l) l) l img = x at hself hlast hrec hdark
  have hjoin : (getLink x l).join = (getLink u l).join := (bare_join hself :)
  have haside : (getLink x l).aside = (getLink u l).aside := (bare_field Link.aside (fun _ => rfl) hself :)
  have hstart : startJoinOf (noSignal x l) (getLink x l).aside (linkRec x l) =
      startJoinOf (noSignal x l) (getLink u l).aside img.links[l] := by
    have hrec' : (linkRec x l).map LinkRec.unspared = (img.links[l]).map LinkRec.unspared := hrec
    rw [haside, ← startJoinOf_unspared _ _ (linkRec x l), hrec', startJoinOf_unspared]
  have hgoes : (if (getLink x l).join == .forced then x else restartLink x l) = modLink x l fun k =>
      { k with join := startJoinOf (noSignal x l) (getLink u l).aside img.links[l], joinSeen := false, st := .notTraining } := by
    rw [if_neg (by rw [hjoin]; simpa using hj), restartLink_eq, hstart]
  rw [hgoes]
  have hlink : ∀ f : Link → Link, ∀ g : LastSt → LastSt, getLink (modLast (modLink x l f) g) l = f (getLink x l) :=
    fun _ _ => getLink_modLink _ _ _
  refine ⟨worksOn_put l _ hlast, hrec, ?_, hdark, ?_⟩
  · rw [hlink]
  · rw [hlink]
    rfl

end

/-! ### A commit that only needs hitless changes -/

/-- What acceptance makes at once of a link in class 0 or H (R109, Table 4-4). -/
def promptResult (s : State) (l : LinkNo) : BitVec 4 :=
  if s.last.diff[l] = 0 then 0 else if noTraffic (getLink s l) || isTrans s l then resApplied else 1

theorem promptResult_congr {s t : State} {l : LinkNo} (hd : t.last.diff = s.last.diff)
    (hb : (getLink t l).bare = (getLink s l).bare) (hr : recBut t l = recBut s l) : promptResult t l = promptResult s l := by
  unfold promptResult noTraffic
  rw [hd, bare_join hb, bare_st hb, isTrans_recBut, hr, ← isTrans_recBut]

/-- A link's part in class 0 or H. -/
theorem applyLink_prompt {s : State} {l : LinkNo} {old img : LastImg} (h : s.last.diff[l].toNat ≤ 1) :
    let w := applyLink s old img l
    worksOn (s.last.put l (promptResult s l)) w ∧ Course s w ∧ (∀ j, j ≠ l → recBut w j = recBut s j) ∧
      (∀ j, j ≠ l → (getLink w j).pend = (getLink s j).pend) ∧ (promptResult s l = 1 → (getLink w l).pend = .hitless) := by
  have hsame : worksOn s.last s := ⟨s.last.working, rfl⟩
  dsimp only
  rcases diff_cases s.last.diff[l] with e | e | e | e
  · have hr : promptResult s l = 0 := if_pos e
    rw [applyLink_same e, hr]
    exact ⟨worksOn_put l 0 hsame, Course.refl s, fun _ _ => rfl, fun _ _ => rfl, nofun⟩
  · have hne : s.last.diff[l] ≠ 0 := by rw [e]; decide
    rw [applyLink_hitless e]
    by_cases hf : (noTraffic (getLink s l) || isTrans s l) = true
    · have hr : promptResult s l = resApplied := (if_neg hne).trans (if_pos hf)
      rw [if_pos hf, hr]
      have hlast := takeUp_last s l img
      have hcourse : Course s (takeUp s l img) := takeUp_course (Course.refl s)
      have hrec := fun j (hj : j ≠ l) => recBut_takeUp_other s img hj
      have hpend := fun j => takeUp_pend s l j img
      generalize takeUp s l img = x at hlast hcourse hrec hpend
      exact ⟨worksOn_put l _ hlast, hcourse, hrec, fun j _ => hpend j, nofun⟩
    · have hr : promptResult s l = 1 := (if_neg hne).trans (if_neg hf)
      rw [if_neg hf, hr]
      refine ⟨worksOn_put l 1 hsame, modLink_course rfl (Course.refl s), fun _ _ => rfl, fun j hj => ?_, fun _ => ?_⟩
      · exact congrArg Link.pend (getLink_modLink_other _ _ _ _ hj)
      · exact congrArg Link.pend (getLink_modLink _ _ _)
  · rw [e] at h
    exact absurd h (by decide)
  · omega

/-- Each link of a list has its result, and where it waits for its switch instant its switch is pending. -/
theorem applied_prompt {s : State} {old img : LastImg} (h : ∀ l : LinkNo, s.last.diff[l].toNat ≤ 1) {r : List LinkNo}
    (hn : r.Nodup) {t : State} (hd : t.last.diff = s.last.diff) (hc : Course s t) (hr : ∀ l ∈ r, recBut t l = recBut s l) :
    let w := applied t old img r
    worksOn { t.last with outcome := results (promptResult s) r t.last.outcome } w ∧ Course s w ∧
      (∀ j, j ∉ r → (getLink w j).pend = (getLink t j).pend) ∧ ∀ j ∈ r, promptResult s j = 1 → (getLink w j).pend = .hitless := by
  induction r generalizing t with
  | nil => exact ⟨⟨t.last.working, rfl⟩, hc, fun _ _ => rfl, nofun⟩
  | cons l r ih =>
    obtain ⟨hl, hn⟩ := List.nodup_cons.1 hn
    obtain ⟨⟨w, hw⟩, hcourse, hrec, hpend, hwaits⟩ := applyLink_prompt (s := t) (old := old) (img := img) (hd ▸ h l)
    have hres : promptResult t l = promptResult s l := promptResult_congr hd (hc l) (hr l (List.mem_cons_self ..))
    rw [hres] at hw hwaits
    have hcourse' : Course s (applyLink t old img l) := fun j => (hcourse j).trans (hc j)
    obtain ⟨⟨w', hw'⟩, hc', hpend', hwaits'⟩ := ih hn (t := applyLink t old img l) (by rw [hw]; exact hd) hcourse' fun j hj =>
      (hrec j fun e => hl (e ▸ hj)).trans (hr j (List.mem_cons_of_mem _ hj))
    refine ⟨⟨w', ?_⟩, hc', fun j hj => ?_, fun j hj hone => ?_⟩
    · show (applied (applyLink t old img l) old img r).last = _
      rw [hw', hw]
      rfl
    · have hne : j ≠ l := fun e => hj (e ▸ List.mem_cons_self ..)
      exact (hpend' j fun g => hj (List.mem_cons_of_mem _ g)).trans (hpend j hne)
    · by_cases e : j = l
      · subst e
        exact (hpend' j hl).trans (hwaits hone)
      · exact hwaits' j ((List.mem_cons.1 hj).resolve_left e) hone

theorem results_allLinks (f : LinkNo → BitVec 4) (v : Vector (BitVec 4) 8) : results f allLinks v = Vector.ofFn f := by
  refine Vector.ext fun i hi => ?_
  have hget := results_get f allLinks v ⟨i, hi⟩
  rw [if_pos (show ⟨i, hi⟩ ∈ allLinks from List.mem_finRange _)] at hget
  rw [Vector.getElem_ofFn]
  exact hget

theorem exec_commit_prompt {s : State} {c : Ctx} {v : Word} {img : LastImg} (hs : s.settled = true) (ho : opens s c .lastcmd)
    (hr : commitRefusal s c (setBit v 0 true) = 0) (hi : s.last.staged = some img) (hd : devCause s = false)
    (hj : ∀ l, (getLink s l).join ≠ .forced) (hdiff : ∀ l : LinkNo, s.last.diff[l].toNat ≤ 1) :
    let x := { s.last with
      shadow := .committing, done := false, mixed := false, refuse := 0, old := s.last.working
      outcome := Vector.ofFn (promptResult s) }
    ∃ t, exec (.commit c v) s = .next t ∧ (∀ l : LinkNo, promptResult s l = 1 → (getLink t l).pend = .hitless) ∧
      worksOn x.ended t := by
  intro x
  have hnodup : allLinks.Nodup := List.nodup_finRange 8
  have hstart : Course s (begun s img) := Course.of_links (begun_links s img) (Course.refl s)
  obtain ⟨⟨w, hw⟩, hcourse, -, hwaits⟩ := applied_prompt (old := s.last.working) (img := img) hdiff hnodup
    (t := begun s img) (by rw [begun_last]; rfl) hstart fun l _ => by
      unfold recBut
      rw [linkRec_begun]
  obtain ⟨t, ht, hfollows, hlast⟩ := exec_commit_follows hs ho hr hi hd rfl fun l => by
    rw [bare_join (hcourse l)]
    exact hj l
  refine ⟨t, ht, fun l hl => ?_, ?_⟩
  · rw [hfollows.field Link.pend fun _ _ _ => rfl]
    exact hwaits l (List.mem_finRange l) hl
  · have hbegun : (applied (begun s img) s.last.working img allLinks).last = { x with working := w } := by
      refine hw.trans ?_
      rw [results_allLinks, begun_last]
      rfl
    refine ⟨w, hlast.trans ?_⟩
    rw [hbegun]
    exact x.ended_on w

/-! ### COMMIT refused, DISCARD, LAST_STAGE -/

theorem done_modLast {s : State} (hs : s.settled = true) (f : LastSt → LastSt) : done (modLast s f) = .next (modLast s f) :=
  done_of_same hs rfl rfl rfl rfl rfl rfl rfl

theorem exec_commit_refused {s : State} {c : Ctx} {v : Word} (hs : s.settled = true) (ho : opens s c .lastcmd)
    (hr : commitRefusal s c (setBit v 0 true) ≠ 0) :
    exec (.commit c v) s = .next { s with last := { s.last with refuse := commitRefusal s c (setBit v 0 true) } } := by
  have hwrite : writeLastcmd s c (setBit v 0 true) = modLast s fun x => { x with refuse := commitRefusal s c (setBit v 0 true) } := by
    unfold writeLastcmd
    dsimp only
    rw [if_pos (show bitAt (setBit v 0 true) 0 = true from getLsbD_setBit v true (by decide) (by decide))]
    exact if_pos (by simpa using hr)
  exact (congrArg done (writeTo_opens _ ho)).trans ((congrArg done hwrite).trans (done_modLast hs _))

/-- What DISCARD makes of the Last (R107). -/
def discarded (x : LastSt) (c : Ctx) : LastSt :=
  if x.shadow = .empty then { x with refuse := 1 }
  else if x.shadow = .staging ∨ x.shadow = .committing then { x with refuse := 3 }
  else if c ≠ x.stager then { x with refuse := 2 }
  else { x with shadow := .empty, staged := none, bank := [], refuse := 0 }

theorem exec_discard {s : State} {c : Ctx} {v : Word} (hs : s.settled = true) (ho : opens s c .lastcmd) (h0 : v.getLsbD 0 = false) :
    exec (.discard c v) s = .next { s with last := discarded s.last c } := by
  have hcommit : ¬bitAt (setBit v 2 true) 0 = true := by
    rw [show bitAt (setBit v 2 true) 0 = v.getLsbD 0 from
      (getLsbD_setBit v true (by decide) (by decide)).trans (if_neg (by decide)), h0]
    decide
  have hdiscard : bitAt (setBit v 2 true) 2 = true := getLsbD_setBit v true (by decide) (by decide)
  have hwrite : writeLastcmd s c (setBit v 2 true) = modLast s (discarded · c) := by
    unfold writeLastcmd modLast discarded
    dsimp only
    rw [if_neg hcommit, if_pos hdiscard]
    simp only [beq_iff_eq, bne_iff_ne, Bool.or_eq_true]
    split
    · rfl
    · split
      · rfl
      · split <;> rfl
  exact (congrArg done (writeTo_opens _ ho)).trans ((congrArg done hwrite).trans (done_modLast hs _))

/-- Where no restart of the Heel is due the commands' common end leaves the Movers' Jobs. -/
theorem fin_movers {s : State} (h : s.heel.restartDue = false) : (fin s).units.movers = s.units.movers := by
  have hunits : (fin s).units = (unholdErase s).units := by
    unfold fin
    rw [if_neg (by rw [h]; decide)]
    exact watchAttn_keeps (k := .units) (by decide) rfl
  rw [hunits]
  unfold unholdErase
  split <;> rfl

/-- A Mover's block that has run, at the command's end. -/
theorem done_setMover {x : State} (h : x.heel.restartDue = false) (m : MoverNo) (q : Job) :
    ∃ t, done (setUnit x (.mover m) (some q)) = .next t ∧ getUnit t (.mover m) = some q ∧ t.last = x.last := by
  refine ⟨_, rfl, ?_, fin_keeps (k := .last) (by decide) rfl⟩
  show (fin (setUnit x (.mover m) (some q))).units.movers[m] = _
  rw [fin_movers (s := setUnit x (.mover m) (some q)) h]
  exact vput_self _ _ _

theorem runningJob_opcode {s : State} {u : UnitId} {op : Nat} {j : Job} (h : runningJob s u op = some j) : j.entry.opcode = op := by
  unfold runningJob at h
  split at h
  · split at h
    · next hc =>
      obtain rfl := Option.some.inj h
      simp only [Bool.and_eq_true, beq_iff_eq] at hc
      exact hc.1.2
    · cases h
  · cases h

/-- What a Mover's block leaves: its Job goes on or has finished, or a fault parks it (R405). -/
def moverEnds (m : MoverNo) : BlockOut × State → State
  | (.ran q, z) => setUnit z (.mover m) (some q)
  | (.faulted q cause va write, z) => faultJob z (.mover m) q cause va write

theorem runBlock_running {s : State} {m : MoverNo} {op : Nat} {j : Job} (hj : runningJob s (.mover m) op = some j) :
    runBlock s m op = moverEnds m (moverBlock s j) := by
  unfold runBlock
  rw [hj]
  rfl

/-- A block of a LAST_STAGE that reads without a fault is added to the bank; the last one checks the image (R384). -/
theorem exec_lastStage {s x : State} {m : MoverNo} {j : Job} {b : List Byte} (hj : runningJob s (.mover m) opLastStage = some j)
    (hread : jobRead s j.ctx (j.entry.u32 4 + j.done) (blockBytes j (j.entry.u32 8)) j.entry.uninit = (.ok b, x)) :
    let y := modLast x fun z => { z with bank := z.bank ++ b }
    let k := { j with done := j.done + blockBytes j (j.entry.u32 8) }
    exec (.lastStage m []) s = done (moverEnds m (if j.entry.u32 8 ≤ k.done then stageEnd y k else (.ran k, y))) := by
  have hblock : moverBlock s j = stageBlock s j := if_neg (by rw [runningJob_opcode hj]; decide)
  refine congrArg done ((runBlock_running hj).trans (congrArg (moverEnds m) (hblock.trans ?_)))
  unfold stageBlock
  dsimp only
  rw [hread]

/-! ### A link's switch, its retrain and its way back -/

/-- A command after which nothing is pending on a link, and the Last is x. -/
def settlesTo (i : Instr) (s : State) (l : LinkNo) (x : LastSt) : Prop :=
  ∃ t, exec i s = .next t ∧ (getLink t l).pend = .none ∧ worksOn x t

theorem worksOn_fin {x : LastSt} {s : State} (h : worksOn x s) : worksOn x (fin s) := by
  obtain ⟨w, hw⟩ := h
  exact ⟨w, (fin_keeps (k := .last) (s := s) (by decide) rfl).trans hw⟩

theorem settlesTo_of {i : Instr} {s z : State} {l : LinkNo} {x : LastSt} (h : exec i s = done z) (hp : (getLink z l).pend = .none)
    (hl : worksOn x z) : settlesTo i s l x :=
  ⟨_, h, (fin_field Link.pend (fun _ _ _ => rfl) z l).trans hp, worksOn_fin hl⟩

theorem switchLink_last (s : State) (l : LinkNo) : worksOn s.last (switchLink s l) := by
  unfold switchLink
  split
  · exact takeUp_last s l _
  · exact ⟨s.last.working, rfl⟩

/-- A link that switches has its result. -/
theorem setResult_switchLink (s : State) (l : LinkNo) (r : BitVec 4) :
    (getLink (setResult (switchLink s l) l r) l).pend = .none ∧
      worksOn (LastSt.ended (s.last.put l r)) (setResult (switchLink s l) l r) :=
  ⟨congrArg Link.pend (getLink_setResult (switchLink s l) l r), setResult_worksOn l r (switchLink_last s l)⟩

section
variable {s : State} {l : LinkNo}

theorem exec_linkSwitchInstant_stays (hs : s.settled = true) (h : (getLink s l).pend ≠ .hitless) :
    exec (.linkSwitchInstant l) s = .next s :=
  (congrArg done (if_neg (by simpa using h))).trans (done_settled hs)

theorem exec_skipAbsent_stays (hs : s.settled = true) (h : (getLink s l).pend ≠ .hitless) : exec (.skipAbsent l) s = .next s :=
  (congrArg done (if_neg (by simpa using h))).trans (done_settled hs)

theorem exec_linkSwitchInstant_switches (h : (getLink s l).pend = .hitless) :
    settlesTo (.linkSwitchInstant l) s l (LastSt.ended (s.last.put l resApplied)) := by
  obtain ⟨hpend, hlast⟩ := setResult_switchLink s l resApplied
  exact settlesTo_of (congrArg done (if_pos (by simpa using h))) hpend hlast

theorem exec_skipAbsent_eq (h : (getLink s l).pend = .hitless) :
    exec (.skipAbsent l) s = done (setResult (switchLink (logK s 0x0202 l []) l) l resApplied) :=
  congrArg done (if_pos (by simpa using h))

theorem exec_skipAbsent_switches (h : (getLink s l).pend = .hitless) :
    settlesTo (.skipAbsent l) s l (LastSt.ended (s.last.put l resApplied)) := by
  obtain ⟨hpend, hlast⟩ := setResult_switchLink (logK s 0x0202 l []) l resApplied
  rw [show (logK s 0x0202 l []).last = s.last from logK_keeps (k := .last) (by decide) rfl] at hlast
  exact settlesTo_of (exec_skipAbsent_eq h) hpend hlast

/-- The absence of a skip set is logged (R109). -/
theorem exec_skipAbsent_logs (h : (getLink s l).pend = .hitless) {t : State} (ht : exec (.skipAbsent l) s = .next t) :
    ∃ r ∈ t.nvm.logWait, r.code = 0x0202 ∧ r.data = padTo 12 [BitVec.ofNat 8 l.val] := by
  obtain rfl := Host.Outcome.next.inj ((exec_skipAbsent_eq h).symm.trans ht)
  obtain ⟨more, hmore⟩ := logs_event (x := s) (code := 0x0202) (c := 0) (data := [BitVec.ofNat 8 l.val])
    (fin_logs (setResult_logs (a0 := l) (a1 := resApplied) (switchLink_logs (a0 := l) (Logs.refl _))))
  change (fin (setResult (switchLink (logK s 0x0202 l []) l) l resApplied)).nvm.logWait = _ at hmore
  exact ⟨_, by rw [hmore]; exact List.mem_append_right _ (List.mem_cons_self ..), rfl, rfl⟩

/-- A retrain request that stands where a switch waits for it (R112). -/
theorem exec_forcedIdleRetrain_switches {img : LastImg} (hp : (getLink s l).pend = .retrain) (ha : (getLink s l).retrainAsked = true)
    (hi : s.last.staged = some img) :
    ∃ t, exec (.forcedIdleRetrain l) s = .next t ∧ (getLink t l).st = .retrain ∧ (getLink t l).pend = .switched ∧
      t.last.outcome = s.last.outcome ∧ recBut t l = (img.links[l]).map LinkRec.unspared := by
  obtain ⟨hlast, hrec, hpend, hst, -⟩ := enterRetrain_takes hp hi
  have hexec : exec (.forcedIdleRetrain l) s = done (modLink (enterRetrain s l) l fun k => { k with idleOut := true }) :=
    congrArg done (if_pos ha)
  generalize enterRetrain s l = x at hlast hrec hpend hst hexec
  have hend : (fin (modLink x l fun k => { k with idleOut := true })).last = x.last := fin_keeps (k := .last) (by decide) rfl
  refine ⟨_, hexec, ?_, ?_, ?_, (recBut_of_last hend l).trans hrec⟩
  · rw [fin_field Link.st fun _ _ _ => rfl, getLink_modLink]
    exact hst
  · rw [fin_field Link.pend fun _ _ _ => rfl, getLink_modLink]
    exact hpend
  · rw [hend]
    obtain ⟨w, hw⟩ := hlast
    rw [hw]

/-! ### RETRAINED as the link comes to ACTIVE -/

theorem enterActive_retrained (h : (getLink s l).pend = .switched) :
    (getLink (enterActive s l) l).st = .active ∧ (getLink (enterActive s l) l).pend = .none ∧
      worksOn (LastSt.ended (s.last.put l resRetrained)) (enterActive s l) := by
  have hlink : ∀ (x : State), (getLink (checkRecovered x l) l).st = (getLink x l).st ∧
      (getLink (checkRecovered x l) l).pend = (getLink x l).pend := fun x => by
    unfold checkRecovered
    rw [getLink_modLink]
    split <;> exact ⟨rfl, rfl⟩
  unfold enterActive
  dsimp only
  generalize hx : modLink s l _ = x
  have hst : (getLink x l).st = .active := by rw [← hx, getLink_modLink]
  have hpend : (getLink x l).pend = .switched := by
    rw [← hx, getLink_modLink]
    exact h
  have hlast : worksOn s.last (checkRecovered x l) := ⟨s.last.working, by rw [← hx]; rfl⟩
  rw [if_pos (by rw [(hlink x).2, hpend]; rfl)]
  have hres := getLink_setResult (checkRecovered x l) l resRetrained
  refine ⟨?_, congrArg Link.pend hres, setResult_worksOn l _ hlast⟩
  exact (congrArg Link.st hres).trans ((hlink x).1.trans hst)

/-- The first symbol after EXCHANGE on the second side brings the link to ACTIVE. -/
theorem linkSymbol_retrained {sd : Side} (hst : (getLink s l).st = .exchange) (hx : (sideTr (getLink s l) sd).exchDone = true)
    (ha : (sideTr (getLink s l) sd.other).active = true) (hp : (getLink s l).pend = .switched) :
    (getLink (linkSymbol s l sd) l).st = .active ∧ (getLink (linkSymbol s l sd) l).pend = .none ∧
      worksOn (LastSt.ended (s.last.put l resRetrained)) (linkSymbol s l sd) := by
  have hlink : (getLink (modTr s l sd fun t => { t with active := true }) l).trainA.active = true ∧
      (getLink (modTr s l sd fun t => { t with active := true }) l).trainB.active = true ∧
      (getLink (modTr s l sd fun t => { t with active := true }) l).pend = .switched := by
    unfold modTr
    rw [getLink_modLink]
    cases sd
    · exact ⟨rfl, ha, hp⟩
    · exact ⟨ha, rfl, hp⟩
  obtain ⟨hA, hB, hpend⟩ := hlink
  have heq : linkSymbol s l sd = enterActive (modTr s l sd fun t => { t with active := true }) l := by
    unfold linkSymbol
    rw [if_neg (by rw [hst, hx]; decide)]
    exact if_pos (by rw [hA, hB]; rfl)
  rw [heq]
  exact enterActive_retrained hpend

theorem getLink_planOwn (x : State) (sd : Side) (p : Pos) (e : List Sym) : getLink (planOwn x sd p e) l = getLink x l := rfl

/-- What fills a pad set's place moves neither the link's state nor what is pending on it. -/
theorem fillPad_stands (s : State) (l : LinkNo) (d : Dir) (p : Pos) :
    (getLink (fillPad s l d p) l).st = (getLink s l).st ∧ (getLink (fillPad s l d p) l).pend = (getLink s l).pend := by
  have hsent : ∀ (x : State) (y : SentSet), (getLink (setSent x l d y) l).st = (getLink x l).st ∧
      (getLink (setSent x l d y) l).pend = (getLink x l).pend := fun x y => by
    unfold setSent
    rw [getLink_modLink]
    cases d <;> exact ⟨rfl, rfl⟩
  have hmark : (getLink (clearMark s l d) l).st = (getLink s l).st ∧ (getLink (clearMark s l d) l).pend = (getLink s l).pend := by
    unfold clearMark
    rw [getLink_modLink]
    cases d <;> exact ⟨rfl, rfl⟩
  have hqueue : ∀ q : Link → List OutMos, (getLink (modLink s l fun k => setOut k d (q k)) l).st = (getLink s l).st ∧
      (getLink (modLink s l fun k => setOut k d (q k)) l).pend = (getLink s l).pend := fun q => by
    rw [getLink_modLink]
    cases d <;> exact ⟨rfl, rfl⟩
  have hlinks : ∀ (x : State) (m : OutMos), getLink (sendDone (noteNak x m) l m) l = getLink x l := fun x m => by
    unfold getLink
    rw [show (sendDone (noteNak x m) l m).links = x.links from
      sendDone_keeps (k := .links) (by decide) (noteNak_keeps (k := .links) (by decide) rfl)]
  unfold fillPad
  dsimp only
  split
  · rw [getLink_planOwn]
    exact ⟨(hsent _ _).1.trans hmark.1, (hsent _ _).2.trans hmark.2⟩
  · unfold sendNext
    split
    · next hm =>
      split at hm
      · obtain ⟨-, rfl⟩ := Prod.mk.inj hm
        exact hsent _ _
      · exact absurd (congrArg Prod.fst hm) nofun
    · next hm =>
      split at hm
      · exact absurd (congrArg Prod.fst hm) nofun
      · obtain ⟨-, rfl⟩ := Prod.mk.inj hm
        rw [getLink_planOwn, hlinks]
        exact ⟨(hsent _ _).1.trans (hqueue _).1, (hsent _ _).2.trans (hqueue _).2⟩

theorem exec_padSetPasses_retrained {d : Dir} {p : Pos} (hm : mgmtRx s l d = some p) (hpart : isPart s l = true)
    (hsym : symShown s d.rxSide p = true) (hst : (getLink s l).st = .exchange)
    (hx : (sideTr (getLink s l) d.rxSide).exchDone = true) (ha : (sideTr (getLink s l) d.rxSide.other).active = true)
    (hp : (getLink s l).pend = .switched) :
    ∃ z, exec (.padSetPasses l d) s = done z ∧ (getLink z l).st = .active ∧ (getLink z l).pend = .none ∧
      worksOn (LastSt.ended (s.last.put l resRetrained)) z := by
  obtain ⟨hact, hpend, hlast⟩ := linkSymbol_retrained hst hx ha hp
  have hexec : exec (.padSetPasses l d) s = done (if dirForwards (linkSymbol s l d.rxSide) l d &&
      !mgmtLost (linkSymbol s l d.rxSide) l d.rxSide then fillPad (linkSymbol s l d.rxSide) l d p else linkSymbol s l d.rxSide) := by
    show execPadSetPasses l d s = _
    unfold execPadSetPasses
    rw [hm]
    exact if_neg (by rw [hpart, hsym]; decide)
  generalize linkSymbol s l d.rxSide = x at hact hpend hlast hexec
  refine ⟨_, hexec, ?_⟩
  split
  · obtain ⟨hst', hpend'⟩ := fillPad_stands x l d p
    have hlast' : (fillPad x l d p).last = x.last := fillPad_keeps (k := .last) (by decide) rfl
    obtain ⟨w, hw⟩ := hlast
    exact ⟨hst'.trans hact, hpend'.trans hpend, w, hlast'.trans hw⟩
  · exact ⟨hact, hpend, hlast⟩

/-! ### Rolled back (R113) -/

theorem exec_commitRollback_stays (hs : s.settled = true) (h : (getLink s l).pend ≠ .switched) :
    exec (.commitRollback l) s = .next s :=
  (congrArg done (if_pos (by simpa using h))).trans (done_settled hs)

theorem setResult_working (s : State) (l : LinkNo) (r : BitVec 4) : (setResult s l r).last.working = s.last.working := by
  unfold setResult
  rw [checkDone_last, LastSt.ended_working]
  rfl

/-- The link with the old image and its result, before it trains anew. -/
def rolledBack (s : State) (l : LinkNo) : State :=
  setResult (modLast (takeUp s l s.last.old) fun x => { x with mixed := true }) l resRolledBack

theorem rolledBack_last (s : State) (l : LinkNo) :
    worksOn (LastSt.ended { s.last.put l resRolledBack with mixed := true }) (rolledBack s l) := by
  obtain ⟨w, hw⟩ := takeUp_last s l s.last.old
  unfold rolledBack
  generalize takeUp s l s.last.old = x at hw ⊢
  have hmixed : worksOn { s.last with mixed := true } (modLast x fun y => { y with mixed := true }) :=
    ⟨w, congrArg (fun y : LastSt => { y with mixed := true }) hw⟩
  exact setResult_worksOn l resRolledBack hmixed

theorem getLink_rolledBack (s : State) (l : LinkNo) :
    (getLink (rolledBack s l) l).st = (getLink s l).st ∧ (getLink (rolledBack s l) l).pend = .none := by
  have hst : (getLink (takeUp s l s.last.old) l).st = (getLink s l).st := bare_st (takeUp_course (Course.refl s) l)
  unfold rolledBack
  generalize takeUp s l s.last.old = x at hst ⊢
  have hres := getLink_setResult (modLast x fun y => { y with mixed := true }) l resRolledBack
  exact ⟨(congrArg Link.st hres).trans hst, congrArg Link.pend hres⟩

theorem isTrans_rolledBack (s : State) (l : LinkNo) :
    isTrans (rolledBack s l) l = true ↔ ∃ r, s.last.old.links[l] = some r ∧ r.mode = .transparent := by
  have hworking : (rolledBack s l).last.working = (takeUp s l s.last.old).last.working := by
    unfold rolledBack
    generalize takeUp s l s.last.old = x
    exact setResult_working (modLast x fun y => { y with mixed := true }) l resRolledBack
  have hrec : recBut (rolledBack s l) l = (s.last.old.links[l]).map LinkRec.unspared :=
    (recBut_of_working hworking l).trans (recBut_takeUp s l s.last.old)
  rw [isTrans_recBut, hrec]
  cases s.last.old.links[l] with
  | none => simp
  | some r => simp [LinkRec.unspared]

/-- How a link that has been rolled back trains anew: z, from x. -/
structure Anew (l : LinkNo) (x z : State) : Prop where
  last : worksOn x.last z
  pend : (getLink z l).pend = .none
  idle : isTrans x l = true ∨ (getLink x l).st = .detect → (getLink z l).idleOut = true
  detect : isTrans x l = false → (getLink x l).st = .detect → (getLink z l).st = .retrain
  disabled : isTrans x l = false → (getLink x l).st = .disabled → (getLink z l).st = .disabled

/-- A retrain request where no switch is pending. -/
theorem requestRetrain_anew {x : State} (hp : (getLink x l).pend = .none) (ht : isTrans x l = false)
    (hd : (getLink x l).st ≠ .disabled) : Anew l x (requestRetrain x l) := by
  cases hc : imcOn (getLink x l) with
  | true =>
    have hnot : (getLink x l).st ≠ .detect := fun e => by
      unfold imcOn at hc
      rw [e] at hc
      exact absurd hc (by simp)
    have hsent : (getLink x l).sameButOut (getLink (sendOwn (sendOwn x l 0 mosRetrainReq []) l 3 mosRetrainReq []) l) :=
      sendOwn_sameButOut (sendOwn_sameButOut fun j => (getLink x j).sameButOut_refl) l
    have hlast : (sendOwn (sendOwn x l 0 mosRetrainReq []) l 3 mosRetrainReq []).last = x.last :=
      sendOwn_keeps (k := .last) (by decide) (sendOwn_keeps (k := .last) (by decide) rfl)
    rw [requestRetrain_asks hc]
    generalize sendOwn (sendOwn x l 0 mosRetrainReq []) l 3 mosRetrainReq [] = y at hsent hlast
    refine ⟨⟨x.last.working, hlast⟩, ?_, fun h => ?_, fun _ h => absurd h hnot, fun _ h => absurd h hd⟩
    · rw [getLink_modLink]
      exact (congrArg Link.pend hsent).trans hp
    · exact absurd (h.resolve_left (by rw [ht]; decide)) hnot
  | false =>
    obtain ⟨b, hself⟩ := enterRetrain_self x l
    have hlast : worksOn x.last (enterRetrain x l) := by
      rw [enterRetrain_plain hp]
      exact (retrainBegun_minor x l).last.worksOn
    have hpend : (getLink (enterRetrain x l) l).pend = .none := by
      rw [enterRetrain_plain hp]
      exact retrainBegun_pend hp
    rw [requestRetrain_enters hc]
    generalize enterRetrain x l = y at hself hlast hpend
    refine ⟨hlast, ?_, fun _ => ?_, fun _ _ => ?_, fun _ h => absurd h hd⟩
    · rw [getLink_modLink]
      exact hpend
    · rw [getLink_modLink]
    · rw [getLink_modLink]
      exact bare_st hself

theorem exec_commitRollback_anew (h : (getLink s l).pend = .switched) :
    ∃ z, exec (.commitRollback l) s = done z ∧ Anew l (rolledBack s l) z := by
  obtain ⟨-, hpend⟩ := getLink_rolledBack s l
  have hexec : exec (.commitRollback l) s = done (if isTrans (rolledBack s l) l then laneRestart (rolledBack s l) l
      else if (getLink (rolledBack s l) l).st == .disabled || (getLink (rolledBack s l) l).st == .notTraining then rolledBack s l
      else requestRetrain (rolledBack s l) l) := congrArg done (if_neg (by rw [h]; decide))
  generalize rolledBack s l = x at hpend hexec ⊢
  refine ⟨_, hexec, ?_⟩
  split
  · next ht =>
    obtain ⟨hidle, -, -, hstays⟩ := getLink_laneRestart x l
    exact ⟨⟨x.last.working, laneRestart_last x l⟩, hstays.trans hpend, fun _ => hidle,
      fun g => absurd ht (by rw [g]; decide), fun g => absurd ht (by rw [g]; decide)⟩
  · next ht =>
    have ht : isTrans x l = false := Bool.eq_false_iff.2 ht
    split
    · next hst =>
      have hnot : (getLink x l).st ≠ .detect := fun e => by
        rw [e] at hst
        exact absurd hst (by decide)
      exact ⟨⟨x.last.working, rfl⟩, hpend, fun g => absurd (g.resolve_left (by rw [ht]; decide)) hnot,
        fun _ g => absurd g hnot, fun _ g => g⟩
    · next hst =>
      have hnot : (getLink x l).st ≠ .disabled := fun e => hst (by rw [e]; rfl)
      exact requestRetrain_anew hpend ht hnot

end

/-! ### COMMIT where one link alone differs -/

theorem noSignal_congr {s t : State} (hw : t.last.working = s.last.working)
    (hrx : ∀ sd p, (getLane t sd p).rx = (getLane s sd p).rx) (l : LinkNo) : noSignal t l = noSignal s l := by
  unfold noSignal linkRec
  simp only [hw, hrx]

section
variable {s : State} {c : Ctx} {v : Word} {img : LastImg} {l : LinkNo} (hs : s.settled = true) (ho : opens s c .lastcmd)
  (hr : commitRefusal s c (setBit v 0 true) = 0) (hi : s.last.staged = some img) (hd : devCause s = false)
  (hj : ∀ j, (getLink s j).join ≠ .forced) (hdiff : ∀ j : LinkNo, j ≠ l → s.last.diff[j] = 0)

include hs ho hr hi hd hj hdiff

/-- Class T without traffic. -/
theorem exec_commit_free (h : s.last.diff[l] = 2) (hf : noTraffic (getLink s l) = true) :
    ∃ t, exec (.commit c v) s = .next t ∧ t.last.outcome[l] = resApplied ∧ t.last.done = true ∧ t.last.shadow = .empty ∧
      recBut t l = (img.links[l]).map LinkRec.unspared := by
  obtain ⟨u, hturn, hends⟩ := exec_commit_alone hs ho hr hi hd hj hdiff
  obtain ⟨hlast, hjoin, hrec⟩ := turn_free (old := s.last.working) (img := img) (hturn.diff ▸ h) ((hturn.getLink l).symm ▸ hf)
  obtain ⟨t, ht, hfollows, hout, hover, -⟩ := hends resApplied _ rfl hlast (by rw [hjoin, hturn.getLink]; exact hj l)
  obtain ⟨hdone, hempty⟩ := hover (by decide)
  exact ⟨t, ht, hout, hdone, hempty, (recBut_of_working hfollows.working l).trans hrec⟩

/-- Class T on a Transparent link. -/
theorem exec_commit_transparent (h : s.last.diff[l] = 2) (hf : noTraffic (getLink s l) = false) (htr : isTrans s l = true) :
    ∃ t, exec (.commit c v) s = .next t ∧ (t.last.outcome[l] = 1 ∧ t.last.shadow = .committing ∧ (getLink t l).pend = .switched) ∧
      recBut t l = (img.links[l]).map LinkRec.unspared ∧ (getLink t l).idleOut = true ∧
      ∀ p ∈ linkPoss t.last.working l, isTap t p = false → ∀ sd, (getLane t sd p).rx.cdrLock = false := by
  obtain ⟨u, hturn, hends⟩ := exec_commit_alone hs ho hr hi hd hj hdiff
  obtain ⟨hlast, hjoin, hrec, hpend, hidle, hunlocked⟩ := turn_transparent (old := s.last.working) (img := img) (hturn.diff ▸ h)
    ((hturn.getLink l).symm ▸ hf) ((hturn.isTrans l).trans htr)
  obtain ⟨t, ht, hfollows, hout, -, hwaits⟩ := hends 1 _ rfl hlast (by rw [hjoin, hturn.getLink]; exact hj l)
  refine ⟨t, ht, ⟨hout, hwaits rfl, (hfollows.field Link.pend (fun _ _ _ => rfl) l).trans hpend⟩,
    (recBut_of_working hfollows.working l).trans hrec, (hfollows.field Link.idleOut (fun _ _ _ => rfl) l).trans hidle,
    fun p hp hnt sd => ?_⟩
  rw [hfollows.rx]
  exact hunlocked p (hfollows.working ▸ hp) (hfollows.taps p hnt) sd

/-- Class T on a Participating link with its channel. -/
theorem exec_commit_asks (h : s.last.diff[l] = 2) (hf : noTraffic (getLink s l) = false) (htr : isTrans s l = false)
    (hc : imcOn (getLink s l) = true) :
    ∃ t, exec (.commit c v) s = .next t ∧ (t.last.outcome[l] = 1 ∧ t.last.shadow = .committing ∧ (getLink t l).pend = .retrain) ∧
      t.last.working.links[l] = s.last.working.links[l] ∧ (getLink t l).retrainAsked = true ∧ (getLink t l).st = (getLink s l).st := by
  obtain ⟨u, hturn, hends⟩ := exec_commit_alone hs ho hr hi hd hj hdiff
  obtain ⟨hlast, hjoin, hworking, hpend, hasked, hst⟩ := turn_asks (old := s.last.working) (img := img) (hturn.diff ▸ h)
    ((hturn.getLink l).symm ▸ hf) ((hturn.isTrans l).trans htr) ((hturn.getLink l).symm ▸ hc)
  obtain ⟨t, ht, hfollows, hout, -, hwaits⟩ := hends 1 _ rfl hlast (by rw [hjoin, hturn.getLink]; exact hj l)
  refine ⟨t, ht, ⟨hout, hwaits rfl, (hfollows.field Link.pend (fun _ _ _ => rfl) l).trans hpend⟩, ?_,
    (hfollows.field Link.retrainAsked (fun _ _ _ => rfl) l).trans hasked, ?_⟩
  · rw [hfollows.working, hworking]
    exact hturn.linkRec l
  · rw [hfollows.field Link.st fun _ _ _ => rfl, hst, hturn.getLink]

/-- Class T on a Participating link without its channel. -/
theorem exec_commit_enters (h : s.last.diff[l] = 2) (hf : noTraffic (getLink s l) = false) (htr : isTrans s l = false)
    (hc : imcOn (getLink s l) = false) :
    ∃ t, exec (.commit c v) s = .next t ∧ (t.last.outcome[l] = 1 ∧ t.last.shadow = .committing ∧ (getLink t l).pend = .switched) ∧
      recBut t l = (img.links[l]).map LinkRec.unspared ∧ (getLink t l).st = .retrain ∧ (getLink t l).idleOut = true := by
  obtain ⟨u, hturn, hends⟩ := exec_commit_alone hs ho hr hi hd hj hdiff
  obtain ⟨hlast, hjoin, hrec, hpend, hst, hidle⟩ := turn_enters (old := s.last.working) (hturn.diff ▸ h)
    ((hturn.getLink l).symm ▸ hf) ((hturn.isTrans l).trans htr) ((hturn.getLink l).symm ▸ hc) (hturn.staged.trans hi)
  obtain ⟨t, ht, hfollows, hout, -, hwaits⟩ := hends 1 _ rfl hlast (by rw [hjoin, hturn.getLink]; exact hj l)
  exact ⟨t, ht, ⟨hout, hwaits rfl, (hfollows.field Link.pend (fun _ _ _ => rfl) l).trans hpend⟩,
    (recBut_of_working hfollows.working l).trans hrec, (hfollows.field Link.st (fun _ _ _ => rfl) l).trans hst,
    (hfollows.field Link.idleOut (fun _ _ _ => rfl) l).trans hidle⟩

/-- Class D (R114). -/
theorem exec_commit_restarts (h : s.last.diff[l] = 3) :
    ∃ t, exec (.commit c v) s = .next t ∧ t.last.outcome[l] = (if noTraffic (getLink s l) then resApplied else resRestarted) ∧
      t.last.done = true ∧ t.last.shadow = .empty ∧ recBut t l = (img.links[l]).map LinkRec.unspared ∧
      (getLink t l).st = .notTraining ∧
      (∀ sd p, namesPos s.last.working l p = true ∨ namesPos img l p = true → (getLane t sd p).tx.on = false) ∧
      (getLink t l).join = startJoinOf (noSignal t l) (getLink s l).aside img.links[l] := by
  obtain ⟨u, hturn, hends⟩ := exec_commit_alone hs ho hr hi hd hj hdiff
  have hlink := hturn.getLink l
  obtain ⟨hlast, hrec, hst, hdark, hjoin⟩ := turn_restarts (old := s.last.working) (img := img) (hturn.diff ▸ h) (hlink.symm ▸ hj l)
  rw [hlink] at hlast hjoin
  have hforced : ∀ (q a : Bool) (o : Option LinkRec), startJoinOf q a o ≠ .forced := fun q a o => by
    unfold startJoinOf
    split
    · nofun
    · split
      · nofun
      · split
        · nofun
        · split
          · nofun
          · split <;> nofun
          · nofun
  obtain ⟨t, ht, hfollows, hout, hover, -⟩ := hends _ _ rfl hlast (by rw [hjoin]; exact hforced _ _ _)
  obtain ⟨hdone, hempty⟩ := hover (by split <;> decide)
  refine ⟨t, ht, hout, hdone, hempty, (recBut_of_working hfollows.working l).trans hrec,
    (hfollows.field Link.st (fun _ _ _ => rfl) l).trans hst, fun sd p hn => hfollows.dark sd p (hdark sd p hn), ?_⟩
  rw [hfollows.field Link.join fun _ _ _ => rfl, hjoin, noSignal_congr hfollows.working hfollows.rx]

end

/-! ### A block of a LAST_STAGE, and the image that the last one completes -/

theorem stageEnd_rejected {y : State} {k : Job} {code : Byte} (h : checkStaged y.last.bank (k.entry.u32 8) = (code, none)) :
    stageEnd y k = (.ran (k.finished 0x42 code.toNat),
      modLast y fun x => { x with shadow := .rejected, staged := none, result := code }) := by
  unfold stageEnd stageImage
  rw [h]
  rfl

/-- The Last with an image staged and compared. -/
def LastSt.stage (x : LastSt) (c : Ctx) (code : Byte) (m : LastImg) : LastSt :=
  { x with
    shadow := .staged, staged := some m, stager := c, result := stageResult x.working m code c
    diff := Vector.ofFn fun l => linkDiff x.working m l, bootDiff := bootDiffers x.working m
    globalDiff := globalDiffers x.working m }

theorem stageEnd_staged {y : State} {k : Job} {code : Byte} {m : LastImg}
    (h : checkStaged y.last.bank (k.entry.u32 8) = (code, some m)) :
    stageEnd y k = (.ran (k.finished stOk 0), modLast y (·.stage k.ctx code m)) := by
  unfold stageEnd stageImage
  rw [h]
  rfl

/-- What a LAST_STAGE's block makes of its Job and of the Last. -/
def stagesTo (s : State) (m : MoverNo) (q : Job) (y : LastSt) : Prop :=
  ∃ t, exec (.lastStage m []) s = .next t ∧ getUnit t (.mover m) = some q ∧ t.last = y

theorem stagesTo_of {s z : State} {m : MoverNo} {q : Job} {y : LastSt} (h : exec (.lastStage m []) s = done (setUnit z (.mover m) (some q)))
    (hh : z.heel.restartDue = false) (hl : z.last = y) : stagesTo s m q y := by
  obtain ⟨t, ht, hq, hlast⟩ := done_setMover hh m q
  exact ⟨t, h.trans ht, hq, hlast.trans hl⟩

section
variable {s x : State} {m : MoverNo} {j : Job} {b : List Byte} (hj : runningJob s (.mover m) opLastStage = some j)
  (hh : x.heel.restartDue = false)
  (hread : jobRead s j.ctx (j.entry.u32 4 + j.done) (blockBytes j (j.entry.u32 8)) j.entry.uninit = (.ok b, x))

include hj hh hread

theorem stagesTo_more (h : j.done + blockBytes j (j.entry.u32 8) < j.entry.u32 8) :
    stagesTo s m { j with done := j.done + blockBytes j (j.entry.u32 8) } { s.last with bank := s.last.bank ++ b } := by
  have hlast : x.last = s.last := jobRead_keeps_eq (k := .last) (by decide) rfl hread
  have hexec := exec_lastStage hj hread
  dsimp only at hexec
  rw [if_neg (by exact Nat.not_le.2 h)] at hexec
  exact stagesTo_of hexec hh (congrArg (fun z : LastSt => { z with bank := z.bank ++ b }) hlast)

theorem stagesTo_rejected {code : Byte} (h : j.entry.u32 8 ≤ j.done + blockBytes j (j.entry.u32 8))
    (hc : checkStaged (s.last.bank ++ b) (j.entry.u32 8) = (code, none)) :
    stagesTo s m (Job.finished { j with done := j.done + blockBytes j (j.entry.u32 8) } 0x42 code.toNat)
      { s.last with bank := s.last.bank ++ b, shadow := .rejected, staged := none, result := code } := by
  have hlast : x.last = s.last := jobRead_keeps_eq (k := .last) (by decide) rfl hread
  have hexec := exec_lastStage hj hread
  dsimp only at hexec
  rw [if_pos (by exact h), stageEnd_rejected (code := code) (by rw [← hlast] at hc; exact hc)] at hexec
  refine stagesTo_of hexec hh ?_
  exact congrArg (fun z : LastSt => { z with bank := z.bank ++ b, shadow := .rejected, staged := none, result := code }) hlast

theorem stagesTo_staged {code : Byte} {img : LastImg} (h : j.entry.u32 8 ≤ j.done + blockBytes j (j.entry.u32 8))
    (hc : checkStaged (s.last.bank ++ b) (j.entry.u32 8) = (code, some img)) :
    stagesTo s m (Job.finished { j with done := j.done + blockBytes j (j.entry.u32 8) } stOk 0)
      ({ s.last with bank := s.last.bank ++ b }.stage j.ctx code img) := by
  have hlast : x.last = s.last := jobRead_keeps_eq (k := .last) (by decide) rfl hread
  have hexec := exec_lastStage hj hread
  dsimp only at hexec
  rw [if_pos (by exact h), stageEnd_staged (code := code) (m := img) (by rw [← hlast] at hc; exact hc)] at hexec
  refine stagesTo_of hexec hh ?_
  exact congrArg (fun z : LastSt => ({ z with bank := z.bank ++ b } : LastSt).stage j.ctx code img) hlast

end

/-- Settles O51, clause by clause: a staged block, a commit at its acceptance, and each link's switch, retrain and way back. -/
theorem commitsApplyLinkByLink : Obligations.CommitsApplyLinkByLink := by
  unfold Obligations.CommitsApplyLinkByLink
  intro s hs
  dsimp only
  refine ⟨?stage, ?commit, ?alone, ?switches, ?active, ?result⟩
  case stage =>
    intro m j b x hj hh hread
    exact ⟨stagesTo_more hj hh hread, fun h => ⟨fun _ hc => stagesTo_rejected hj hh hread h hc,
      fun _ _ hc => stagesTo_staged hj hh hread h hc⟩⟩
  case commit =>
    intro c v ho
    refine ⟨exec_commit_refused hs ho, fun img hr hi _ hd hf hdiff => ?_, exec_discard hs ho⟩
    obtain ⟨t, ht, hpend, w, hw⟩ := exec_commit_prompt hs ho hr hi hd hf hdiff
    refine ⟨t, ht, fun l hl => hpend l ?_, w, hw.trans ?_⟩
    · rw [← hl]
      exact (Vector.getElem_ofFn _).symm
    · have hover : ∀ x : LastSt, x.shadow = .committing → x.ended = if ∀ j : LinkNo, x.outcome[j] ≠ 1 then
          { x with shadow := .empty, staged := none, bank := [], done := true } else x := fun x hx => by
        unfold LastSt.ended
        simp only [hx, true_and]
      rw [hover _ rfl]
      rfl
  case alone =>
    intro c v img l ho hr hi _ hd hf hdiff
    refine ⟨fun h => ⟨fun hn => ?_, fun hn ht => ?_, exec_commit_asks hs ho hr hi hd hf hdiff h, fun hn ht hc => ?_⟩, fun h => ?_⟩
    · obtain ⟨t, ht, hout, hdone, hshadow, hrec⟩ := exec_commit_free hs ho hr hi hd hf hdiff h hn
      exact ⟨t, ht, hout, hdone, hshadow, namedAs_of_recBut hrec⟩
    · obtain ⟨t, ht, hwaits, hrec, hrest⟩ := exec_commit_transparent hs ho hr hi hd hf hdiff h hn ht
      exact ⟨t, ht, hwaits, namedAs_of_recBut hrec, hrest⟩
    · obtain ⟨t, ht, hwaits, hrec, hrest⟩ := exec_commit_enters hs ho hr hi hd hf hdiff h hn ht hc
      exact ⟨t, ht, hwaits, namedAs_of_recBut hrec, hrest⟩
    · obtain ⟨t, ht, hout, hdone, hshadow, hrec, hrest⟩ := exec_commit_restarts hs ho hr hi hd hf hdiff h
      exact ⟨t, ht, hout, hdone, hshadow, namedAs_of_recBut hrec, hrest⟩
  case switches =>
    intro l img hp ha hi
    obtain ⟨t, ht, hst, hpend, hout, hrec⟩ := exec_forcedIdleRetrain_switches hp ha hi
    exact ⟨t, ht, hst, hpend, hout, namedAs_of_recBut hrec⟩
  case active =>
    intro l d p hm hpart hsym hst hx ha hp
    obtain ⟨z, hz, hact, hpend, hlast⟩ := exec_padSetPasses_retrained hm hpart hsym hst hx ha hp
    refine ⟨settlesTo_of hz hpend hlast, fun t ht => ?_⟩
    obtain rfl := Host.Outcome.next.inj (hz.symm.trans ht)
    exact (fin_field Link.st (fun _ _ _ => rfl) z l).trans hact
  case result =>
    intro l
    refine ⟨fun h => ⟨exec_linkSwitchInstant_stays hs h, exec_skipAbsent_stays hs h⟩,
      fun h => ⟨exec_linkSwitchInstant_switches h, exec_skipAbsent_switches h, fun t ht => exec_skipAbsent_logs h ht⟩,
      exec_commitRollback_stays hs, fun h => ?_⟩
    obtain ⟨z, hz, hanew⟩ := exec_commitRollback_anew h
    obtain ⟨hst, -⟩ := getLink_rolledBack s l
    have htrans := isTrans_rolledBack s l
    have hnot := fun g => Bool.eq_false_iff.2 (mt htrans.1 g)
    refine ⟨settlesTo_of hz hanew.pend ((rolledBack_last s l).trans hanew.last), fun t ht => ?_⟩
    obtain rfl := Host.Outcome.next.inj (hz.symm.trans ht)
    rw [fin_field Link.idleOut fun _ _ _ => rfl, fin_field Link.st fun _ _ _ => rfl]
    exact ⟨fun g => hanew.idle (g.imp htrans.2 hst.trans), fun g e => hanew.detect (hnot g) (hst.trans e),
      fun g e => hanew.disabled (hnot g) (hst.trans e)⟩

end Sys2Proof.Machine

/-! PROOFS. Links that go to sleep and wake; spares that become WARM or FAILED; swaps that a register begins, messages move on and
time ends; and the Heel's evaluation. -/

namespace Sys2Proof.Machine

/-! ### Links alone change -/

theorem getLink_of_links {s t : State} (h : t.links = s.links) (l : LinkNo) : getLink t l = getLink s l := by
  unfold getLink
  rw [h]

/-- Nothing follows from a change of what being settled does not look at. -/
theorem done_of_sameBut {s t : State} {r : List Comp} (hs : s.settled = true) (h : sameBut r s t)
    (hr : ∀ k ∈ settledBy, k ∉ r) : done t = .next t :=
  done_of_same hs (h .boot (hr _ (by decide))) (h .jtag (hr _ (by decide))) (h .evt (hr _ (by decide)))
    (h .cqs (hr _ (by decide))) (h .heel (hr _ (by decide))) (h .units (hr _ (by decide))) (h .imc (hr _ (by decide)))

theorem outOf_setOut (k : Link) (d : Dir) (q : List OutMos) : outOf (setOut k d q) d = q := by cases d <;> rfl

theorem setOut_field {α : Type} (f : Link → α) (hf : ∀ k a b, f { k with outAB := a, outBA := b } = f k) (k : Link)
    (d : Dir) (q : List OutMos) : f (setOut k d q) = f k := by
  cases d
  · exact hf k q k.outBA
  · exact hf k k.outAB q

theorem getLink_joinOut (s : State) (l : LinkNo) (m : OutMos) : getLink (joinOut s l m) l =
    setOut (getLink s l) (towardNode m.dst) (outOf (getLink s l) (towardNode m.dst) ++ [m]) := getLink_modLink _ _ _

/-- A MOS that joins those that wait is one of them. -/
theorem mem_outOf_joinOut (s : State) (l : LinkNo) (m : OutMos) : m ∈ outOf (getLink (joinOut s l m) l) (towardNode m.dst) := by
  rw [getLink_joinOut, outOf_setOut]
  exact List.mem_append_right _ (List.mem_singleton_self m)

/-- What looks at no MOS that waits is as it was. -/
theorem joinOut_field {α : Type} (f : Link → α) (hf : ∀ k a b, f { k with outAB := a, outBA := b } = f k) (s : State)
    (l : LinkNo) (m : OutMos) : f (getLink (joinOut s l m) l) = f (getLink s l) := by
  rw [getLink_joinOut, setOut_field f hf]

/-! ### Records that wait for the log -/

/-- An event's record waits for the log, and stays there whatever else is logged. -/
theorem record_waits {s t : State} {code : BitVec 16} {c : Ctx} {data : List Byte} (h : Logs (logEvent s code c data) t) :
    ∃ r ∈ t.nvm.logWait, r.code = code ∧ r.data = padTo 12 (data.take 12) := by
  obtain ⟨after, hevent⟩ := (logEvent_logged s code c data).1
  obtain ⟨more, hmore⟩ := h
  refine ⟨⟨s.evt.seq, code, c, s.time.dtime, padTo 12 (data.take 12)⟩, ?_, rfl, rfl⟩
  rw [hmore, hevent]
  exact List.mem_append_left _ (List.mem_append_right _ (List.mem_cons_self ..))

/-! ### Idle entry (R185, R221) -/

/-- The receivers of a direction of a link, and of its spares, have no clock lock (Table 7-6). -/
def dirSleeps (s : State) (l : LinkNo) (d : Dir) (t : State) : Prop :=
  ∀ r p, linkRec s l = some r → (∃ j ∈ lanesOf r, homeRx s.last.working r d j = some p) ∨
    (∃ n, spareRx s.last.working r d n = some p) → (getLane t d.rxSide p).rx.cdrLock = false

theorem mem_bothSpares (n : SpareNo) : n ∈ bothSpares := by
  revert n
  decide

section
variable {s : State} {l : LinkNo} {d : Dir}

theorem sleepDir_sleeps : dirSleeps s l d (sleepDir s l d) := by
  intro r p hr hp
  have hmem : p ∈ (lanesOf r).filterMap (homeRx s.last.working r d) ++ bothSpares.filterMap (spareRx s.last.working r d) :=
    List.mem_append.2 (hp.imp List.mem_filterMap.2 fun ⟨n, hn⟩ => List.mem_filterMap.2 ⟨n, mem_bothSpares n, hn⟩)
  unfold sleepDir
  rw [hr]
  exact foldl_reaches (Q := fun _ => True) (P := unlocked d.rxSide p) (f := fun t q => dropCdr t d.rxSide q) (fun _ _ _ => trivial)
    (fun _ _ => dropCdr_unlocks) (fun _ _ => dropCdr_unlocked) hmem trivial

/-- A direction goes to sleep as the link takes up a state. -/
theorem done_sleepDir (hs : s.settled = true) (f : Link → Link) :
    ∃ t, done (sleepDir (modLink s l f) l d) = .next t ∧ (getLink t l).st = (f (getLink s l)).st ∧
      (getLink t l).deepFirst = (f (getLink s l)).deepFirst ∧ dirSleeps s l d t := by
  have hlink : getLink (sleepDir (modLink s l f) l d) l = f (getLink s l) :=
    (getLink_of_links (sleepDir_keeps (k := .links) (by decide) rfl) l).trans (getLink_modLink s l f)
  have hheel : (sleepDir (modLink s l f) l d).heel = s.heel := sleepDir_keeps (k := .heel) (by decide) rfl
  have hlanes := fin_lanes ((congrArg HeelSt.restartDue hheel).trans (restartDue_of_settled hs))
  refine ⟨_, rfl, ?_, ?_, fun r p hr hp => ?_⟩
  · rw [fin_field Link.st fun _ _ _ => rfl, hlink]
  · rw [fin_field Link.deepFirst fun _ _ _ => rfl, hlink]
  · unfold getLane
    rw [hlanes]
    exact sleepDir_sleeps (s := modLink s l f) r p hr hp

theorem exec_idleEntry_stays (hs : s.settled = true) (h : isPart s l = false ∨ setsSeen s l d = false ∨
    ((getLink s l).st ≠ .active ∧ (getLink s l).st ≠ sleepState d.other)) : exec (.idleEntrySetReceived l d) s = .next s := by
  refine Eq.trans (congrArg done ?_) (done_settled hs)
  rcases h with h | h | ⟨hactive, hother⟩
  · exact if_neg (by simp [h])
  · exact if_neg (by simp [h])
  · have hnone : idleEntry s l d = s := by
      unfold idleEntry
      dsimp only
      rw [if_neg (by simpa using hactive), if_neg (by simpa using hother)]
    rw [hnone, ite_self]

section
variable (hpart : isPart s l = true) (hseen : setsSeen s l d = true)
include hpart hseen

theorem exec_idleEntry : exec (.idleEntrySetReceived l d) s = done (idleEntry s l d) :=
  congrArg done (if_pos (by rw [hpart, hseen]; rfl))

/-- In ACTIVE the sets put a direction to sleep where that was negotiated (R219, R221). -/
theorem exec_idleEntry_sleeps (hs : s.settled = true) (hst : (getLink s l).st = .active)
    (hn : negotiated s l .deep = true ∨ negotiated s l (sleepOf d) = true) :
    ∃ t, exec (.idleEntrySetReceived l d) s = .next t ∧ (getLink t l).st = sleepState d ∧ (getLink t l).deepFirst = true ∧
      dirSleeps s l d t := by
  have hentry : idleEntry s l d = sleepDir (modLink s l fun x => { x with st := sleepState d, deepFirst := true }) l d := by
    unfold idleEntry
    dsimp only
    rw [if_pos (by rw [hst]; rfl), if_pos (by simpa using hn)]
  obtain ⟨t, ht, hrest⟩ := done_sleepDir (l := l) (d := d) hs fun x => { x with st := sleepState d, deepFirst := true }
  exact ⟨t, by rw [exec_idleEntry hpart hseen, hentry, ht], hrest⟩

/-- The other direction's sets mean DEEP where that was negotiated (R221). -/
theorem exec_idleEntry_deepens (hs : s.settled = true) (hst : (getLink s l).st = sleepState d.other)
    (hn : negotiated s l .deep = true) (hfirst : (getLink s l).deepFirst = true) :
    ∃ t, exec (.idleEntrySetReceived l d) s = .next t ∧ (getLink t l).st = .deep ∧ dirSleeps s l d t := by
  have hactive : ((getLink s l).st == .active) = false := by rw [hst]; cases d <;> rfl
  have hentry : idleEntry s l d = sleepDir (modLink s l fun x => { x with st := .deep, deepFirst := false }) l d := by
    unfold idleEntry
    dsimp only
    rw [if_neg (by rw [hactive]; decide), if_pos (by rw [hst]; exact beq_self_eq_true _), if_pos (by rw [hn, hfirst]; rfl)]
  obtain ⟨t, ht, hdeep, -, hsleeps⟩ := done_sleepDir (l := l) (d := d) hs fun x => { x with st := .deep, deepFirst := false }
  exact ⟨t, by rw [exec_idleEntry hpart hseen, hentry, ht], hdeep, hsleeps⟩

/-- Without a negotiation they mean RETRAIN (R185). -/
theorem exec_idleEntry_retrains (hst : (getLink s l).st = .active) (hdeep : negotiated s l .deep = false)
    (hsleep : negotiated s l (sleepOf d) = false) :
    ∃ t, exec (.idleEntrySetReceived l d) s = .next t ∧ (getLink t l).st = .retrain := by
  have hentry : idleEntry s l d = if isLoopTimed (enterRetrain s l) l then enterRetrain s l
      else modLink (enterRetrain s l) l fun x => { x with rate := 0 } := by
    unfold idleEntry
    dsimp only
    rw [if_pos (by rw [hst]; rfl), if_neg (by rw [hdeep, hsleep]; decide)]
  obtain ⟨b, hself⟩ := enterRetrain_self s l
  refine ⟨_, by rw [exec_idleEntry hpart hseen, hentry]; rfl, ?_⟩
  rw [fin_field Link.st fun _ _ _ => rfl]
  split
  · exact bare_st hself
  · rw [getLink_modLink]
    exact bare_st hself

end

end

/-! ### Waking (R221) -/

section
variable {s : State} {l : LinkNo} {sd : Side}

theorem exec_sleepWake_stays (hs : s.settled = true) (h : wakesOn (getLink s l) sd = false) : exec (.sleepWake l sd) s = .next s :=
  (if_pos (by rw [h]; rfl)).trans (done_settled hs)

theorem exec_sleepWake_wakes (h : wakesOn (getLink s l) sd = true) :
    ∃ t, exec (.sleepWake l sd) s = .next t ∧ (getLink t l).waking = some sd ∧ (getLink t l).deepFirst = false ∧
      (getLink t l).deepWake = ((getLink s l).st == .deep) ∧ (getLink t l).st = (getLink s l).st := by
  have hwaking : ∀ (y : State) (b : Bool) (q : List SidePll), y.links = s.links →
      getLink (lockPlls (modLink y l fun k => { k with waking := some sd, deepWake := b, deepFirst := false }) q) l =
        { getLink s l with waking := some sd, deepWake := b, deepFirst := false } := fun y b q hy => by
    rw [getLink_of_links (lockPlls_keeps (k := .links) (by decide) rfl) l, getLink_modLink, getLink_of_links hy l]
  refine ⟨_, if_neg (by rw [h]; decide), ?_⟩
  rw [fin_field Link.waking fun _ _ _ => rfl, fin_field Link.deepFirst fun _ _ _ => rfl, fin_field Link.deepWake fun _ _ _ => rfl,
    fin_field Link.st fun _ _ _ => rfl, hwaking _ _ _ (by split <;> rfl)]
  exact ⟨rfl, rfl, rfl, rfl⟩

end

/-- A retrain request stands, or the link is in RETRAIN at once (R186). -/
theorem requestRetrain_asks_or_enters (s : State) (l : LinkNo) :
    (getLink (requestRetrain s l) l).retrainAsked = true ∨ (getLink (requestRetrain s l) l).st = .retrain := by
  cases h : imcOn (getLink s l) with
  | true => exact .inl (by rw [requestRetrain_asks h, getLink_modLink])
  | false =>
    obtain ⟨b, hself⟩ := enterRetrain_self s l
    exact .inr (by rw [requestRetrain_enters h, getLink_modLink]; exact bare_st hself)

theorem requestRetrain_deepFirst (s : State) (l : LinkNo) :
    (getLink (requestRetrain s l) l).deepFirst = (getLink s l).deepFirst := by
  cases h : imcOn (getLink s l) with
  | true =>
    have hsent : Course s (sendOwn (sendOwn s l 0 mosRetrainReq []) l 3 mosRetrainReq []) :=
      sendOwn_course (sendOwn_course (Course.refl s))
    have hsame := bare_field Link.deepFirst (fun _ => rfl) (hsent l)
    rw [requestRetrain_asks h, getLink_modLink]
    exact hsame
  | false =>
    obtain ⟨b, hself⟩ := enterRetrain_self s l
    have hsame := bare_field Link.deepFirst (fun _ => rfl) hself
    rw [requestRetrain_enters h, getLink_modLink]
    exact hsame

theorem fin_asks_or_enters {s : State} {l : LinkNo} (h : (getLink s l).retrainAsked = true ∨ (getLink s l).st = .retrain) :
    (getLink (fin s) l).retrainAsked = true ∨ (getLink (fin s) l).st = .retrain := by
  rw [fin_field Link.retrainAsked fun _ _ _ => rfl, fin_field Link.st fun _ _ _ => rfl]
  exact h

section
variable {s : State} {l : LinkNo}

theorem exec_wakeFail_stays (hs : s.settled = true) (h : (getLink s l).waking = none ∨ (getLink s l).retrainAsked = true) :
    exec (.wakeFail l) s = .next s := by
  refine (if_pos ?_).trans (done_settled hs)
  rcases h with h | h <;> simp [h]

/-- A wake that takes too long is logged and asks to be trained again. -/
theorem exec_wakeFail_asks (hw : (getLink s l).waking ≠ none) (ha : (getLink s l).retrainAsked = false) :
    ∃ t, exec (.wakeFail l) s = .next t ∧
      (∃ r ∈ t.nvm.logWait, r.code = 0x040C ∧ r.data = padTo 12 [BitVec.ofNat 8 l.val]) ∧
      ((getLink t l).retrainAsked = true ∨ (getLink t l).st = .retrain) := by
  have hexec : exec (.wakeFail l) s = done (requestRetrain (logK s 0x040C l []) l) :=
    if_neg (by simpa [ha] using hw)
  exact ⟨_, hexec, record_waits (fin_logs (requestRetrain_logs (Logs.refl (logK s 0x040C l [])))),
    fin_asks_or_enters (requestRetrain_asks_or_enters _ l)⟩

theorem exec_deepEntryTimeout_stays (hs : s.settled = true) (h : (getLink s l).deepFirst = false) :
    exec (.deepEntryTimeout l) s = .next s := (if_pos (by rw [h]; rfl)).trans (done_settled hs)

theorem exec_deepEntryTimeout (h : (getLink s l).deepFirst = true) : exec (.deepEntryTimeout l) s =
    done (if (getLink s l).capLink.getLsbD 1 then modLink s l fun x => { x with deepFirst := false }
      else requestRetrain (modLink s l fun x => { x with deepFirst := false }) l) := if_neg (by rw [h]; decide)

/-- The sleep that was negotiated goes on without the second idle entry. -/
theorem exec_deepEntryTimeout_sleeps (hs : s.settled = true) (h : (getLink s l).deepFirst = true)
    (hc : (getLink s l).capLink.getLsbD 1 = true) :
    exec (.deepEntryTimeout l) s = .next (modLink s l fun x => { x with deepFirst := false }) := by
  rw [exec_deepEntryTimeout h, if_pos hc]
  exact done_modLink hs l _

theorem exec_deepEntryTimeout_asks (h : (getLink s l).deepFirst = true) (hc : (getLink s l).capLink.getLsbD 1 = false) :
    ∃ t, exec (.deepEntryTimeout l) s = .next t ∧ (getLink t l).deepFirst = false ∧
      ((getLink t l).retrainAsked = true ∨ (getLink t l).st = .retrain) := by
  refine ⟨_, by rw [exec_deepEntryTimeout h, if_neg (by rw [hc]; decide)]; rfl, ?_,
    fin_asks_or_enters (requestRetrain_asks_or_enters _ l)⟩
  rw [fin_field Link.deepFirst fun _ _ _ => rfl, requestRetrain_deepFirst, getLink_modLink]

end

/-! ### Grants and requests of low power (R219, R220) -/

section
variable {s : State} {l : LinkNo} {x : LpState}

theorem exec_lpGrantSeen_stays (hs : s.settled = true) (h : isPart s l = false ∨ mosSeen s l = false) :
    exec (.lpGrantSeen l x) s = .next s := by
  refine Eq.trans (congrArg done ?_) (done_settled hs)
  rcases h with h | h
  · have hgrant : grantSeen s l x = s := if_neg (by rw [h]; decide)
    rw [hgrant, ite_self]
  · exact if_neg (by rw [h]; decide)

theorem exec_lpGrantSeen_notes (hs : s.settled = true) (hp : isPart s l = true) (hm : mosSeen s l = true) :
    exec (.lpGrantSeen l x) s = .next (modLink s l fun y => { y with grants := vput y.grants (lpIx x) (some s.time.elapsed) }) :=
  (congrArg done ((if_pos hm).trans (if_pos hp))).trans (done_modLink hs l _)

theorem exec_lpReqIdle_stays (hs : s.settled = true) (h : mayAsk s l x = false) : exec (.lpReqIdle l x) s = .next s :=
  (if_pos (by rw [h]; rfl)).trans (done_settled hs)

/-- A MOS of the part's own joins what waits already, under a SEQ that is a free value. -/
theorem getLink_sendOwn (s : State) (l : LinkNo) (dst : BitVec 2) (typ : BitVec 4) (b : List Byte) :
    getLink (sendOwn s l dst typ b) l = setOut (getLink s l) (towardNode dst)
      (outOf (getLink s l) (towardNode dst) ++ [⟨mosPrio typ, dst, typ, Config.mosSeq s.free, b, false⟩]) :=
  getLink_joinOut (freshSeq s).2 l _

/-- What was asked for is noted, and an LP_REQ for it is sent to each partner that it goes to. -/
def asked (s : State) (l : LinkNo) (x : LpState) : State :=
  (lpNodes x).foldl (fun t n => sendOwn t l n mosLpReq [lpByte x])
    (modLink s l fun k => { k with asked := vput k.asked (lpIx x) true })

theorem asked_sameBut : sameBut [.links, .free] s (asked s l x) := fun k hk =>
  foldl_keeps (modLink_keeps (not_mem_of_subset hk (by decide)) (k.same_refl s)) fun _ _ h => sendOwn_keeps hk h

theorem asked_once : mayAsk (asked s l x) l x = false := by
  have hnoted : (getLink (modLink s l fun k => { k with asked := vput k.asked (lpIx x) true }) l).asked[lpIx x] = true := by
    rw [getLink_modLink]
    exact vput_self _ _ _
  have hsent : (getLink (asked s l x) l).asked[lpIx x] = true :=
    List.foldlRecOn (lpNodes x) _ (motive := fun t => (getLink t l).asked[lpIx x] = true) hnoted fun t h n _ => by
      rw [getLink_sendOwn, setOut_field (fun k => k.asked[lpIx x]) fun _ _ _ => rfl]
      exact h
  unfold mayAsk
  dsimp only
  rw [hsent, Bool.not_true, Bool.and_false, Bool.false_and, Bool.false_and]

/-- The direction's transmitting partner is asked, for DEEP both are (R220). -/
theorem asked_asks : ((x = .sleepAB ∨ x = .deep) → ∃ m ∈ (getLink (asked s l x) l).outBA, m.typ = 0xA ∧ m.dst = 0) ∧
    ((x = .sleepBA ∨ x = .deep) → ∃ m ∈ (getLink (asked s l x) l).outAB, m.typ = 0xA ∧ m.dst = 3) := by
  have hlast : ∀ (q : List OutMos) (m : OutMos) (n : BitVec 2), m.typ = 0xA → m.dst = n →
      ∃ m' ∈ q ++ [m], m'.typ = 0xA ∧ m'.dst = n := fun q m n ht hn =>
    ⟨m, List.mem_append_right _ (List.mem_singleton_self m), ht, hn⟩
  cases x with
  | sleepAB =>
    refine ⟨fun _ => ?_, fun h => by simp at h⟩
    rw [show asked s l .sleepAB = sendOwn _ l 0 mosLpReq [1] from rfl, getLink_sendOwn]
    exact hlast _ _ _ rfl rfl
  | sleepBA =>
    refine ⟨fun h => by simp at h, fun _ => ?_⟩
    rw [show asked s l .sleepBA = sendOwn _ l 3 mosLpReq [2] from rfl, getLink_sendOwn]
    exact hlast _ _ _ rfl rfl
  | deep =>
    rw [show asked s l .deep = sendOwn (sendOwn _ l 0 mosLpReq [3]) l 3 mosLpReq [3] from rfl, getLink_sendOwn, getLink_sendOwn]
    exact ⟨fun _ => hlast _ _ _ rfl rfl, fun _ => hlast _ _ _ rfl rfl⟩

theorem exec_lpReqIdle_asks (hs : s.settled = true) (h : mayAsk s l x = true) : exec (.lpReqIdle l x) s = .next (asked s l x) :=
  (if_neg (by rw [h]; decide)).trans (done_of_sameBut hs asked_sameBut (by decide))

end

/-! ### Spares that hold or lose lock (R204, R222) -/

section
variable {s : State} {l : LinkNo} {n : SpareNo} {d : Dir}

theorem done_setSpare (hs : s.settled = true) (x : SpareSt) : done (setSpare s l n d x) = .next (setSpare s l n d x) :=
  done_modLink hs l _

theorem exec_spareLockTimer_warms (hs : s.settled = true)
    (hc : (getSpare s l n d).code = .cold ∨ (getSpare s l n d).code = .failed) (hr : restCode s l = .warm)
    (ha : asleep (getLink s l).st d = false) (hl : spareLocked s l n d = true) (hh : spareHeld s l n = false) :
    exec (.spareLockTimer l n d true) s = .next (setSpare s l n d (spareAs .warm 0)) := by
  refine Eq.trans (congrArg done ?_) (done_setSpare hs _)
  rw [if_neg (by rw [ha]; decide), if_pos rfl, if_pos ⟨hc, hr, hl, by rw [hh]; rfl⟩]

theorem exec_spareLockTimer_locked_stays (hs : s.settled = true)
    (h : ((getSpare s l n d).code ≠ .cold ∧ (getSpare s l n d).code ≠ .failed) ∨ restCode s l ≠ .warm ∨
      asleep (getLink s l).st d = true ∨ spareLocked s l n d = false ∨ spareHeld s l n = true) :
    exec (.spareLockTimer l n d true) s = .next s := by
  refine Eq.trans (congrArg done ?_) (done_settled hs)
  by_cases ha : asleep (getLink s l).st d = true
  · exact if_pos ha
  · rw [if_neg ha, if_pos rfl, if_neg]
    rintro ⟨hc, hr, hl, hh⟩
    rcases h with ⟨hcold, hfailed⟩ | h | h | h | h
    · exact hc.elim hcold hfailed
    · exact h hr
    · exact ha h
    · exact Bool.false_ne_true (h.symm.trans hl)
    · rw [h] at hh
      exact Bool.false_ne_true hh

theorem exec_spareLockTimer_fails (hs : s.settled = true) (hc : (getSpare s l n d).code = .warm)
    (ha : asleep (getLink s l).st d = false) (hl : spareLocked s l n d = false) :
    exec (.spareLockTimer l n d false) s = .next (setSpare s l n d (spareAs .failed 0)) := by
  refine Eq.trans (congrArg done ?_) (done_setSpare hs _)
  rw [if_neg (by rw [ha]; decide), if_neg Bool.false_ne_true, if_pos ⟨hc, by rw [hl]; rfl⟩]

theorem exec_spareLockTimer_unlocked_stays (hs : s.settled = true)
    (h : (getSpare s l n d).code ≠ .warm ∨ asleep (getLink s l).st d = true ∨ spareLocked s l n d = true) :
    exec (.spareLockTimer l n d false) s = .next s := by
  refine Eq.trans (congrArg done ?_) (done_settled hs)
  by_cases ha : asleep (getLink s l).st d = true
  · exact if_pos ha
  · rw [if_neg ha, if_neg Bool.false_ne_true, if_neg]
    rintro ⟨hc, hl⟩
    rcases h with h | h | h
    · exact h hc
    · exact ha h
    · rw [h] at hl
      exact Bool.false_ne_true hl

end

/-! ### SPARE of another node (R208, R243) -/

section
variable {s : State} {l : LinkNo} {r : SpareMsg} {n : SpareNo} {d : Dir} {j : LLane}

theorem exec_spareMosForwarded_unseen (hs : s.settled = true) (h : mosSeen s l = false) :
    exec (.spareMosForwarded l r) s = .next s :=
  (congrArg done (if_neg (by rw [h, Bool.and_false]; decide))).trans (done_settled hs)

theorem exec_spareMosForwarded (hc : consumes s l = true) (hm : mosSeen s l = true) :
    exec (.spareMosForwarded l r) s = done (passSpare s l r) := congrArg done (if_pos (by rw [hc, hm]; rfl))

section
variable (hp : SpareMsg.place r = some (n, d, j)) (hw : (getSpare s l n d).code = .warm)
include hp hw

theorem passSpare_forwards (ho : r.op = 1 ∨ r.op = 2) (hh : spareHeld s l n = false) :
    passSpare s l r = setSpare s l n d (spareAs .forward j) := by
  unfold passSpare
  rw [hp]
  dsimp only
  rw [if_pos ⟨ho, by rw [hh]; rfl, .inr (.inl hw)⟩]

/-- A spare that a test holds serves no swap. -/
theorem passSpare_held (hh : spareHeld s l n = true) : passSpare s l r = s := by
  unfold passSpare
  rw [hp]
  dsimp only
  rw [if_neg fun h => by simp [hh] at h, if_pos (by rw [hw]; decide)]

end

end

/-! ### No swap is in progress -/

/-- No swap of the link is in progress, no loss waits for one, and the last one ended with a result. -/
def Link.swapOver (r : BitVec 4) (k : Link) : Prop := k.swap = none ∧ k.waitLoss = [] ∧ k.lastResult = r

/-- A link's swap is over, and no recalibration runs that could begin one. -/
structure SwapOver (l : LinkNo) (r : BitVec 4) (s : State) : Prop where
  link : (getLink s l).swapOver r
  recal : s.cal.recal = none

section
variable {x y : State} {l j : LinkNo} {r : BitVec 4} {sd : Side} {p : Pos} {n : SpareNo} {d : Dir}

theorem SwapOver.of_same (hk : y.links = x.links) (hc : y.cal = x.cal) (h : SwapOver l r x) : SwapOver l r y :=
  ⟨by rw [getLink_of_links hk]; exact h.link, by rw [hc]; exact h.recal⟩

theorem SwapOver.of_keeps {c : List Comp} (g : ∀ k : Comp, k ∉ c → k.same x y) (h : SwapOver l r x)
    (d : ∀ k ∈ [Comp.links, .cal], k ∉ c := by decide) : SwapOver l r y :=
  h.of_same (g .links (d _ (by decide))) (g .cal (d _ (by decide)))

theorem ite_swapOver {c : Prop} {_ : Decidable c} (hx : SwapOver l r x) (hy : SwapOver l r y) :
    SwapOver l r (if c then x else y) := by
  split
  · exact hx
  · exact hy

theorem foldl_swapOver {α : Type} {f : State → α → State} {q : List α}
    (hf : ∀ t a, SwapOver l r t → SwapOver l r (f t a)) (h : SwapOver l r x) : SwapOver l r (q.foldl f x) :=
  List.foldlRecOn q f h fun t ht a _ => hf t a ht

theorem modLink_swapOver {f : Link → Link} (hf : ∀ k : Link, k.swapOver r → (f k).swapOver r) (h : SwapOver l r x) :
    SwapOver l r (modLink x j f) := by
  refine ⟨?_, h.recal⟩
  by_cases e : l = j
  · subst e
    rw [getLink_modLink]
    exact hf _ h.link
  · rw [getLink_modLink_other _ _ _ _ e]
    exact h.link

theorem setSwapResult_swapOver {r' : BitVec 4} (h : SwapOver l r x) : SwapOver l r' (setSwapResult x l r') := by
  refine ⟨?_, h.recal⟩
  unfold setSwapResult
  rw [getLink_modLink]
  exact ⟨h.link.1, h.link.2.1, rfl⟩

theorem logEvent_swapOver {code : BitVec 16} {c : Ctx} {data : List Byte} (h : SwapOver l r x) :
    SwapOver l r (logEvent x code c data) :=
  h.of_keeps fun _ hk => logEvent_same x code c data hk

theorem setSpare_swapOver {c : SpareSt} (h : SwapOver l r x) : SwapOver l r (setSpare x j n d c) :=
  modLink_swapOver (fun _ g => g) h

theorem settleAll_swapOver (h : SwapOver l r x) : SwapOver l r (settleAll x) :=
  h.of_keeps fun k hk => settleAll_keeps hk (k.same_refl x)

theorem retarget_swapOver {old : LastImg} (h : SwapOver l r x) : SwapOver l r (retarget old x) :=
  h.of_keeps fun k hk => retarget_keeps hk (k.same_refl x)

theorem coolRx_swapOver (h : SwapOver l r x) : SwapOver l r (coolRx x j n d) :=
  h.of_keeps fun k hk => coolRx_keeps hk (k.same_refl x)

theorem leaveSpare_swapOver (h : SwapOver l r x) : SwapOver l r (leaveSpare x j n) := by
  unfold leaveSpare
  split
  · refine ite_swapOver h (settleAll_swapOver (modLink_swapOver (fun _ g => g) ?_))
    exact foldl_swapOver (fun _ _ g => setSpare_swapOver g) (retarget_swapOver (.of_same (x := x) rfl rfl h))
  · exact h

theorem restSpare_swapOver (h : SwapOver l r x) : SwapOver l r (restSpare x j n d) :=
  leaveSpare_swapOver (coolRx_swapOver (setSpare_swapOver h))

/-- Where no swap is in progress none is dropped. -/
theorem dropSwap_swapOver {c : BitVec 4} (h : SwapOver l r x) : SwapOver l r (dropSwap x l c) :=
  modLink_swapOver (fun k g => by rw [if_neg (by rw [g.1]; decide)]; exact g) h

/-- Without a recalibration none is aborted. -/
theorem SwapOver.abortRecal_eq (h : SwapOver l r x) : abortRecal x = x := by
  unfold abortRecal stopRecal
  rw [h.recal]

theorem endSwaps_swapOver (h : SwapOver l r x) : SwapOver l r (endSwaps x l) := by
  have hrests : SwapOver l r (bothSpares.foldl (fun t n => bothDirs.foldl (fun u d =>
      if (getSpare u l n d).code == .none || (spareHeld u l n && !(getSpare u l n d).code.serves) then u else restSpare u l n d) t)
      (modLink (dropSwap x l 8) l fun k => { k with waitLoss := [] })) :=
    foldl_swapOver (fun _ _ g => foldl_swapOver (fun _ _ g => ite_swapOver g (restSpare_swapOver g)) g)
      (modLink_swapOver (fun _ g => ⟨g.1, rfl, g.2.2⟩) (dropSwap_swapOver h))
  unfold endSwaps
  dsimp only
  rw [hrests.abortRecal_eq, ite_self]
  exact hrests

/-- Where no swap is in progress none is abandoned. -/
theorem SwapOver.abandonSwap_eq (h : SwapOver l r x) : abandonSwap x l = x := by
  unfold abandonSwap
  rw [h.link.1]

theorem moveHold_swapOver {before : Option Pos} (h : SwapOver l r x) : SwapOver l r (moveHold before j d x) :=
  h.of_keeps fun k hk => moveHold_keeps hk (k.same_refl x)

theorem withMasters_swapOver {f : State → State} (hf : ∀ t, SwapOver l r t → SwapOver l r (f t)) (h : SwapOver l r x) :
    SwapOver l r (withMasters x j f) :=
  moveHold_swapOver (moveHold_swapOver (hf _ (modLink_swapOver (fun _ g => g) h)))

theorem dropMos_swapOver {c : List (BitVec 4)} (h : SwapOver l r x) : SwapOver l r (dropMos x j c) :=
  modLink_swapOver (fun _ g => g) h

theorem dropLink_swapOver (h : SwapOver l r x) : SwapOver l r (dropLink x l) := by
  have hends : SwapOver l r (endSearches (leaveDisabled (endPbl x l) l) l) :=
    h.of_same (endSearches_keeps (k := .links) (by decide) (leaveDisabled_keeps (k := .links) (by decide)
      (endPbl_keeps (k := .links) (by decide) rfl))) (endSearches_keeps (k := .cal) (by decide)
      (leaveDisabled_keeps (k := .cal) (by decide) (endPbl_keeps (k := .cal) (by decide) rfl)))
  unfold dropLink
  refine modLink_swapOver (fun _ g => g) (modLink_swapOver (fun _ g => g) (dropMos_swapOver ?_))
  exact withMasters_swapOver (fun _ g => g) (endSwaps_swapOver hends)

/-! ### A switch, an entry to RETRAIN and a DOWN action leave it so -/

theorem refreshSpare_swapOver {old : LastImg} (h : SwapOver l r x) : SwapOver l r (refreshSpare old x j n) := by
  unfold refreshSpare
  dsimp only
  split
  · exact foldl_swapOver (fun _ _ g => setSpare_swapOver g) h
  · refine ite_swapOver (modLink_swapOver (fun _ g => g) (.of_same (x := x) rfl rfl h)) (foldl_swapOver (fun _ _ g => ?_) h)
    exact ite_swapOver (setSpare_swapOver g) (ite_swapOver (coolRx_swapOver (setSpare_swapOver g)) g)

theorem takeUp_swapOver {img : LastImg} (h : SwapOver l r x) : SwapOver l r (takeUp x j img) := by
  have hswitched : SwapOver l r (withMasters x j fun t =>
      { t with last := { t.last with working := mergeLink x.last.working img j } }) :=
    withMasters_swapOver (fun t g => .of_same (x := t) rfl rfl g) h
  have hheld := hswitched.of_keeps fun k hk => dropHolds_keeps (a0 := j) (a1 := x.last.working) hk (k.same_refl _)
  have hspares := retarget_swapOver (old := x.last.working)
    (foldl_swapOver (f := fun t n => refreshSpare x.last.working t j n) (q := bothSpares)
      (fun _ _ g => refreshSpare_swapOver g) hheld)
  exact settleAll_swapOver (modLink_swapOver (fun _ g => g)
    (hspares.of_keeps fun k hk => relockPlls_keeps (a0 := x.last.working) hk (k.same_refl _)))

theorem switchLink_swapOver (h : SwapOver l r x) : SwapOver l r (switchLink x j) := by
  unfold switchLink
  split
  · exact takeUp_swapOver h
  · exact h

theorem setResult_swapOver {c : BitVec 4} (h : SwapOver l r x) : SwapOver l r (setResult x j c) := by
  have hnoted : SwapOver l r
      (modLink { x with last := { x.last with outcome := vput x.last.outcome j c } } j fun k => { k with pend := .none }) :=
    modLink_swapOver (fun _ g => g) (.of_same (x := x) rfl rfl h)
  exact hnoted.of_keeps fun k hk => checkDone_keeps hk (k.same_refl _)

theorem switchNow_swapOver (h : SwapOver l r x) : SwapOver l r (switchNow x j) :=
  ite_swapOver (setResult_swapOver (switchLink_swapOver h)) h

theorem enterRetrain_swapOver (h : SwapOver l r x) : SwapOver l r (enterRetrain x l) := by
  have hpbl : SwapOver l r (endPbl x l) := h.of_keeps fun k hk => endPbl_keeps hk (k.same_refl x)
  have hbegun : SwapOver l r (retrainBegun x l) := by
    unfold retrainBegun retrainDrops
    rw [hpbl.abandonSwap_eq]
    exact modLink_swapOver (fun _ g => ⟨g.1, rfl, g.2.2⟩) (dropMos_swapOver hpbl)
  unfold enterRetrain
  dsimp only
  split
  · exact setResult_swapOver (switchLink_swapOver hbegun)
  · exact modLink_swapOver (fun _ g => g) (switchLink_swapOver hbegun)
  · exact hbegun

theorem joinOut_swapOver {m : OutMos} (h : SwapOver l r x) : SwapOver l r (joinOut x j m) :=
  modLink_swapOver (fun k g => by
    unfold Link.swapOver
    rw [setOut_field Link.swap fun _ _ _ => rfl, setOut_field Link.waitLoss fun _ _ _ => rfl,
      setOut_field Link.lastResult fun _ _ _ => rfl]
    exact g) h

theorem sendOwn_swapOver {dst : BitVec 2} {typ : BitVec 4} {b : List Byte} (h : SwapOver l r x) :
    SwapOver l r (sendOwn x j dst typ b) := joinOut_swapOver (x := (freshSeq x).2) (.of_same (x := x) rfl rfl h)

theorem requestRetrain_swapOver (h : SwapOver l r x) : SwapOver l r (requestRetrain x l) :=
  ite_swapOver (modLink_swapOver (fun _ g => g) (sendOwn_swapOver (sendOwn_swapOver h)))
    (modLink_swapOver (fun _ g => g) (enterRetrain_swapOver h))

theorem standAside_swapOver (h : SwapOver l r x) : SwapOver l r (standAside x l) :=
  ite_swapOver h (settleAll_swapOver (modLink_swapOver (fun _ g => g) (dropLink_swapOver (switchNow_swapOver h))))

theorem partAside_swapOver {why : Byte} (h : SwapOver l r x) : SwapOver l r (partAside x l why) :=
  settleAll_swapOver (standAside_swapOver (logEvent_swapOver (modLink_swapOver (fun _ g => g) h)))

theorem lossDown_swapOver (h : SwapOver l r x) : SwapOver l r (lossDown x l) := by
  have hunrecovered : ∀ t, SwapOver l r t → SwapOver l r (setUnrecovered t l 2) := fun _ g =>
    ite_swapOver (logEvent_swapOver (modLink_swapOver (fun _ g => g) g)) g
  have hdown := hunrecovered _ (logEvent_swapOver (code := 0x0407) (c := 0) (data := [BitVec.ofNat 8 l.val])
    (modLink_swapOver (j := l) (f := fun k => { k with idleOut := true, idleDown := true, downTaken := true }) (fun _ g => g) h))
  exact ite_swapOver (partAside_swapOver hdown) hdown

theorem spareFallback_swapOver {k : LLane} (h : SwapOver l r x) : SwapOver l r (spareFallback x l d k) := by
  have hdegrade : ∀ t, SwapOver l r t → SwapOver l r (lossDegrade t l) := fun _ g =>
    ite_swapOver g (ite_swapOver (lossDown_swapOver g) (requestRetrain_swapOver (modLink_swapOver (fun _ g => g) g)))
  exact hdegrade _ (logEvent_swapOver h)

/-- No loss has waited that would be served. -/
theorem SwapOver.serveWaiting_eq (h : SwapOver l r x) : serveWaiting x l = x := by
  unfold serveWaiting
  rw [h.link.2.1]

/-- Without a recalibration no stand-in moves on. -/
theorem followStandin_idle (h : x.cal.recal = none) : followStandin x = x := by
  unfold followStandin
  rw [h]

end

/-! ### SPARE_RSP (R209, R210) -/

section
variable {s : State} {l : LinkNo} {sd : Side} {r : SpareMsg} {w : Swap}

/-- A SPARE_RSP that answers the swap in progress moves it on, or ends it. -/
theorem takeSpareRsp_answers (hw : (getLink s l).swap = some w) (ha : answersSwap w sd r = true) : takeSpareRsp s l sd r =
    some (followStandin (if r.arg = 0 then swapAck s l w else failSwap s l w 4 false)) := by
  unfold takeSpareRsp
  rw [hw, Option.filter_some, if_pos ha]

theorem takeSpareRsp_unasked (h : (getLink s l).swap.any (answersSwap · sd r) = false) : takeSpareRsp s l sd r =
    if (getLink s l).release.any (answersRelease ·.1 sd r) then some (modLink s l fun k => { k with release := none })
    else none := by
  have hnone : (getLink s l).swap.filter (fun w => answersSwap w sd r) = none := by
    cases hw : (getLink s l).swap with
    | none => rfl
    | some w =>
      rw [hw] at h
      rw [Option.filter_some]
      exact if_neg (Bool.eq_false_iff.1 h)
  unfold takeSpareRsp
  rw [hnone]

theorem exec_spareRsp_unheard (hs : s.settled = true) (hm : mgmtSym s l sd = false) :
    exec (.spareRspReceived l sd r) s = .next s := (congrArg done (if_pos (by rw [hm]; rfl))).trans (done_settled hs)

section
variable (hm : mgmtSym s l sd = true)
include hm

theorem exec_spareRsp_taken {t : State} (h : takeSpareRsp s l sd r = some t) : exec (.spareRspReceived l sd r) s = done t := by
  show execSpareRspReceived l sd r s = _
  unfold execSpareRspReceived
  rw [hm, h]
  rfl

theorem exec_spareRsp_untaken (h : takeSpareRsp s l sd r = none) :
    exec (.spareRspReceived l sd r) s = done (if consumes s l then badMos s sd else s) := by
  show execSpareRspReceived l sd r s = _
  unfold execSpareRspReceived
  rw [hm, h]
  rfl

/-- One that answers nothing counts as BAD (Table 10-5). -/
theorem exec_spareRsp_bad (hs : s.settled = true) (hn : (getLink s l).swap.any (answersSwap · sd r) = false)
    (hf : (getLink s l).release.any (answersRelease ·.1 sd r) = false) :
    exec (.spareRspReceived l sd r) s = .next (if consumes s l then badMos s sd else s) := by
  rw [exec_spareRsp_untaken hm ((takeSpareRsp_unasked hn).trans (if_neg (by rw [hf]; decide)))]
  split
  · exact done_of_attnWas hs rfl rfl rfl rfl rfl rfl rfl
  · exact done_settled hs

/-- One that answers the RELEASE of a swap given up ends its repeating (R298). -/
theorem exec_spareRsp_frees (hs : s.settled = true) (hn : (getLink s l).swap.any (answersSwap · sd r) = false)
    (hf : (getLink s l).release.any (answersRelease ·.1 sd r) = true) :
    exec (.spareRspReceived l sd r) s = .next (modLink s l fun k => { k with release := none }) := by
  rw [exec_spareRsp_taken hm ((takeSpareRsp_unasked hn).trans (if_pos hf))]
  exact done_modLink hs l _

theorem exec_spareRsp_acks (hw : (getLink s l).swap = some w) (ha : answersSwap w sd r = true) (hr : r.arg = 0) :
    exec (.spareRspReceived l sd r) s = done (followStandin (swapAck s l w)) := by
  rw [exec_spareRsp_taken hm (takeSpareRsp_answers hw ha), if_pos hr]

/-- The answer to DUP leads to the alignment of the spare (R209 step 2). -/
theorem exec_spareRsp_aligns (hs : s.settled = true) (hw : (getLink s l).swap = some w) (ha : answersSwap w sd r = true)
    (hr : r.arg = 0) (hstep : w.step = .dup) (hc : s.cal.recal = none) :
    ∃ t, exec (.spareRspReceived l sd r) s = .next t ∧
      (getLink t l).swap = some { w with step := .aligning, misses := 0, asking := false } := by
  have hack : swapAck s l w =
      modLink s l fun k => { k with swap := some { w with step := .aligning, misses := 0, asking := false } } := by
    unfold swapAck
    rw [hstep]
  have hidle := followStandin_idle (x := swapAck s l w) (by rw [hack]; exact hc)
  refine ⟨_, by rw [exec_spareRsp_acks hm hw ha hr, hidle, hack]; exact done_modLink hs l _, ?_⟩
  rw [getLink_modLink]

end

end

/-! ### The end of a swap (R209 step 5) -/

theorem spareIx_inj {m n : SpareNo} {e d : Dir} (h : spareIx m e = spareIx n d) : m = n ∧ e = d := by
  revert m n
  cases e <;> cases d <;> decide

theorem getSpare_setSpare (s : State) (l : LinkNo) (n : SpareNo) (d : Dir) (x : SpareSt) :
    getSpare (setSpare s l n d x) l n d = x := by
  unfold getSpare setSpare
  rw [getLink_modLink]
  exact vput_self _ _ _

theorem getSpare_setSpare_other (s : State) (l : LinkNo) {m n : SpareNo} {e d : Dir} (x : SpareSt) (h : (m, e) ≠ (n, d)) :
    getSpare (setSpare s l n d x) l m e = getSpare s l m e := by
  unfold getSpare setSpare
  rw [getLink_modLink]
  exact vput_other _ _ _ _ fun g => h (Prod.ext_iff.2 (spareIx_inj g))

theorem getSpare_of_links {s t : State} (h : t.links = s.links) (l : LinkNo) (n : SpareNo) (d : Dir) :
    getSpare t l n d = getSpare s l n d := by
  unfold getSpare
  rw [getLink_of_links h]

/-- Every spare of a link but one is as it was. -/
def OtherSpares (l : LinkNo) (n : SpareNo) (s t : State) : Prop := ∀ m d, m ≠ n → getSpare t l m d = getSpare s l m d

section
variable {s x y : State} {l : LinkNo} {n : SpareNo} {d : Dir}

theorem OtherSpares.of_links (hk : y.links = x.links) (h : OtherSpares l n s x) : OtherSpares l n s y :=
  fun m d hm => (getSpare_of_links hk l m d).trans (h m d hm)

theorem setSpare_otherSpares {c : SpareSt} (h : OtherSpares l n s x) : OtherSpares l n s (setSpare x l n d c) :=
  fun m d hm => (getSpare_setSpare_other x l c fun g => hm (Prod.ext_iff.1 g).1).trans (h m d hm)

theorem leaveSpare_otherSpares (h : OtherSpares l n s x) : OtherSpares l n s (leaveSpare x l n) := by
  have hput : ∀ t f, (∀ k : Link, (f k).spares = k.spares) → OtherSpares l n s t → OtherSpares l n s (modLink t l f) := by
    intro t f hf g m d hm
    refine Eq.trans ?_ (g m d hm)
    unfold getSpare
    rw [getLink_modLink, hf]
  unfold leaveSpare
  split
  · dsimp only
    split
    · exact h
    · refine OtherSpares.of_links (settleAll_keeps (k := .links) (by decide) rfl) (hput _ _ (fun _ => rfl) ?_)
      refine List.foldlRecOn bothDirs _ (motive := OtherSpares l n s) ?_ fun t g d _ => setSpare_otherSpares g
      exact h.of_links (retarget_keeps (k := .links) (by decide) rfl)
  · exact h

theorem restSpare_otherSpares (h : OtherSpares l n s x) : OtherSpares l n s (restSpare x l n d) :=
  leaveSpare_otherSpares ((setSpare_otherSpares h).of_links (coolRx_keeps (k := .links) (by decide) rfl))

end

section
variable {s : State} {l : LinkNo} {w : Swap} {r : BitVec 4}

/-- The spare that has taken the lane over stays as it is while another one that carried it rests. -/
theorem getSpare_restOthers (s : State) (l : LinkNo) (w : Swap) :
    getSpare (restOthers s l w) l w.spare w.dir = getSpare s l w.spare w.dir :=
  List.foldlRecOn bothSpares _ (motive := fun t => getSpare t l w.spare w.dir = getSpare s l w.spare w.dir) rfl fun t h n _ => by
    dsimp only
    split
    next hn => exact (restSpare_otherSpares (fun _ _ _ => rfl) w.spare w.dir fun e => hn.1 e.symm).trans h
    next => exact h

theorem restOthers_swapOver (h : SwapOver l r s) : SwapOver l r (restOthers s l w) :=
  foldl_swapOver (fun _ _ g => ite_swapOver (restSpare_swapOver g) g) h

/-- The end of a swap as it is told: its result, and its event. -/
def swapLogged (s : State) (l : LinkNo) (w : Swap) (code : BitVec 16) (c : BitVec 4) (more : List Byte) : State :=
  logSwap (setSwapResult s l c) code l w more

theorem getLink_swapLogged {code : BitVec 16} {c : BitVec 4} {more : List Byte} :
    getLink (swapLogged s l w code c more) l = { getLink s l with lastResult := c } :=
  (getLink_of_links (logSwap_keeps (k := .links) (by decide) rfl) l).trans (getLink_modLink _ _ _)

theorem swapLogged_over {code : BitVec 16} {c : BitVec 4} {more : List Byte} (h : SwapOver l r s) :
    SwapOver l c (swapLogged s l w code c more) := logEvent_swapOver (setSwapResult_swapOver h)

/-- A swap onto a spare that ends well: the spare carries the lane, or stands in for it. -/
theorem swapDone_carries (hback : w.back = false) (hfailed : w.failed = none) (hwait : (getLink s l).waitLoss = [])
    (hc : s.cal.recal = none) : SwapOver l 1 (swapDone s l w) ∧
      (getSpare (swapDone s l w) l w.spare w.dir).code = if w.cause = 2 then .standin else .carrying := by
  have hover : SwapOver l (getLink s l).lastResult (modLink s l fun k => { k with swap := none }) :=
    ⟨by rw [getLink_modLink]; exact ⟨rfl, hwait, rfl⟩, hc⟩
  have hrests : ∀ x : SpareSt, SwapOver l (getLink s l).lastResult
      (restOthers (setSpare (modLink s l fun k => { k with swap := none }) l w.spare w.dir x) l w) :=
    fun _ => restOthers_swapOver (setSpare_swapOver hover)
  have hspare : ∀ y : State, getSpare (swapLogged y l w 0x040A 1 []) l w.spare w.dir = getSpare y l w.spare w.dir := by
    intro y
    unfold getSpare
    rw [getLink_swapLogged]
  unfold swapDone
  dsimp only
  rw [hback, hfailed, if_neg Bool.false_ne_true, if_neg (by decide)]
  change SwapOver l 1 (serveWaiting (swapLogged _ l w 0x040A 1 []) l) ∧
    (getSpare (serveWaiting (swapLogged _ l w 0x040A 1 []) l) l w.spare w.dir).code = _
  rw [(swapLogged_over (hrests _)).serveWaiting_eq]
  refine ⟨swapLogged_over (hrests _), ?_⟩
  rw [hspare, getSpare_restOthers, getSpare_setSpare]

theorem exec_spareRsp_ends {sd : Side} {m : SpareMsg} (hm : mgmtSym s l sd = true) (hw : (getLink s l).swap = some w)
    (ha : answersSwap w sd m = true) (hr : m.arg = 0) (hstep : w.step = .release) (hback : w.back = false)
    (hfailed : w.failed = none) (hwait : (getLink s l).waitLoss = []) (hc : s.cal.recal = none) :
    ∃ t, exec (.spareRspReceived l sd m) s = .next t ∧ (getLink t l).swap = none ∧ (getLink t l).lastResult = 1 ∧
      (getSpare t l w.spare w.dir).code = if w.cause = 2 then .standin else .carrying := by
  obtain ⟨⟨⟨hswap, -, hresult⟩, hidle⟩, hcarries⟩ := swapDone_carries (w := w) hback hfailed hwait hc
  have hack : swapAck s l w = swapDone s l w := by
    unfold swapAck
    rw [hstep]
  refine ⟨_, by rw [exec_spareRsp_acks hm hw ha hr, hack, followStandin_idle hidle]; rfl, ?_, ?_, ?_⟩
  · rw [fin_field Link.swap fun _ _ _ => rfl]
    exact hswap
  · rw [fin_field Link.lastResult fun _ _ _ => rfl]
    exact hresult
  · unfold getSpare
    rw [fin_field Link.spares fun _ _ _ => rfl]
    exact hcarries

/-! ### Without an answer (R210, R298) -/

theorem exec_swapTimeout_stays (hs : s.settled = true) (h : (getLink s l).swap.all (fun w => !w.asking) = true) :
    exec (.swapTimeout l) s = .next s := by
  show execSwapTimeout l s = _
  unfold execSwapTimeout
  cases hw : (getLink s l).swap with
  | none => exact done_settled hs
  | some w =>
    rw [hw] at h
    exact (congrArg done (if_neg (by simpa using h))).trans (done_settled hs)

/-- A swap that has failed before its receive switch is given up, and its spare is freed. -/
def swapFreed (s : State) (l : LinkNo) (w : Swap) : State :=
  restSpare (modLink (giveUp s l w) l fun k => { k with swap := none }) l w.spare w.dir

theorem swapFreed_over (hwait : (getLink s l).waitLoss = []) (hc : s.cal.recal = none) :
    SwapOver l (getLink s l).lastResult (swapFreed s l w) := by
  have hcal : (giveUp s l w).cal = s.cal := giveUp_keeps (k := .cal) (by decide) rfl
  refine restSpare_swapOver ⟨?_, (congrArg CalSt.recal hcal).trans hc⟩
  unfold giveUp
  rw [getLink_modLink, getLink_modLink]
  exact ⟨rfl, (joinOut_field Link.waitLoss (fun _ _ _ => rfl) _ _ _).trans hwait,
    joinOut_field Link.lastResult (fun _ _ _ => rfl) _ _ _⟩

theorem swapFreed_logs : Logs s (swapFreed s l w) := restSpare_logs (modLink_logs (giveUp_logs (Logs.refl s)))

/-- Where the swap was for a lost lane, SPARE falls back to DEGRADE (R210). -/
def swapFallsBack (s : State) (l : LinkNo) (w : Swap) : State :=
  if w.cause == 1 && isLost s l w.dir w.lane then spareFallback s l w.dir w.lane else s

theorem swapFallsBack_over (h : SwapOver l r s) : SwapOver l r (swapFallsBack s l w) := ite_swapOver (spareFallback_swapOver h) h

theorem swapFallsBack_logs : Logs s (swapFallsBack s l w) := ite_logs (spareFallback_logs (Logs.refl s)) (Logs.refl s)

/-- A swap that fails at DUP, with nothing else in progress. -/
theorem failSwap_dup {c : BitVec 4} (hstep : w.step = .dup) (hfailed : w.failed = none) (hback : w.back = false)
    (hwait : (getLink s l).waitLoss = []) (hc : s.cal.recal = none) :
    SwapOver l c (failSwap s l w c false) ∧ Logs (swapLogged s l w 0x040B c [c.setWidth 8]) (failSwap s l w c false) := by
  have hfreed : SwapOver l c (swapFreed (swapLogged s l w 0x040B c [c.setWidth 8]) l w) := by
    have hlink : getLink (swapLogged s l w 0x040B c [c.setWidth 8]) l = _ := getLink_swapLogged
    have hcal : (swapLogged s l w 0x040B c [c.setWidth 8]).cal = s.cal := logSwap_keeps (k := .cal) (by decide) rfl
    have hfreed := swapFreed_over (w := w) ((congrArg Link.waitLoss hlink).trans hwait) ((congrArg CalSt.recal hcal).trans hc)
    rwa [hlink] at hfreed
  have hlogs : Logs (swapLogged s l w 0x040B c [c.setWidth 8])
      (swapFallsBack (swapFreed (swapLogged s l w 0x040B c [c.setWidth 8]) l w) l w) := swapFreed_logs.trans swapFallsBack_logs
  have hfail : failSwap s l w c false =
      serveWaiting (swapFallsBack (swapFreed (swapLogged s l w 0x040B c [c.setWidth 8]) l w) l w) l := by
    have hidle := hfreed.recal
    unfold swapFreed swapLogged at hidle
    unfold failSwap
    dsimp only
    rw [hfailed, hstep, hback, if_neg (by decide)]
    dsimp only
    rw [if_neg Bool.false_ne_true, if_neg Bool.false_ne_true, hidle]
    rfl
  rw [hfail, (swapFallsBack_over hfreed).serveWaiting_eq]
  exact ⟨swapFallsBack_over hfreed, hlogs⟩

theorem exec_swapTimeout_fails (hw : (getLink s l).swap = some w) (hask : w.asking = true) (hstep : w.step = .dup)
    (hfailed : w.failed = none) (hback : w.back = false) (hwait : (getLink s l).waitLoss = []) (hc : s.cal.recal = none) :
    ∃ t, exec (.swapTimeout l) s = .next t ∧ (getLink t l).lastResult = 5 ∧ ∃ r ∈ t.nvm.logWait, r.code = 0x040B := by
  obtain ⟨⟨⟨-, -, hresult⟩, hidle⟩, hlogs⟩ := failSwap_dup (c := 5) hstep hfailed hback hwait hc
  have hexec : exec (.swapTimeout l) s = done (failSwap s l w 5 false) := by
    show execSwapTimeout l s = _
    unfold execSwapTimeout
    rw [hw]
    dsimp only
    rw [if_pos hask, followStandin_idle hidle]
  obtain ⟨m, hm, hcode, -⟩ := record_waits (fin_logs hlogs)
  refine ⟨_, hexec, ?_, m, hm, hcode⟩
  rw [fin_field Link.lastResult fun _ _ _ => rfl]
  exact hresult

/-- While the RELEASE of a swap given up may be repeated it goes first (log entry 94). -/
theorem exec_spareRetry_releases (hs : s.settled = true) {m : OutMos} {i : Nat}
    (h : ((getLink s l).release.filter fun r => r.2 < 3) = some (m, i)) :
    ∃ t, exec (.spareRetry l) s = .next t ∧ (getLink t l).release = some (m, i + 1) ∧
      m ∈ outOf (getLink t l) (towardNode m.dst) ∧ (getLink t l).swap = (getLink s l).swap := by
  have hexec : exec (.spareRetry l) s = done (resendRelease s l m i) := by
    show execSpareRetry l s = _
    unfold execSpareRetry
    rw [h]
  refine ⟨_, hexec.trans (done_of_sameBut hs (fun k hk => resendRelease_keeps hk (k.same_refl s)) (by decide)), ?_,
    mem_outOf_joinOut _ _ _, ?_⟩
  · unfold resendRelease
    rw [joinOut_field Link.release fun _ _ _ => rfl, getLink_modLink]
  · unfold resendRelease dropSpare
    rw [joinOut_field Link.swap fun _ _ _ => rfl, getLink_modLink, getLink_modLink]

section
variable (hnone : ((getLink s l).release.filter fun r => r.2 < 3) = none)
include hnone

theorem exec_spareRetry_swap : exec (.spareRetry l) s = done (retrySwap s l) := by
  show execSpareRetry l s = _
  unfold execSpareRetry
  rw [hnone]

theorem exec_spareRetry_stays (hs : s.settled = true)
    (h : ∀ w, (getLink s l).swap = some w → w.asking = true → 3 ≤ w.sends) : exec (.spareRetry l) s = .next s := by
  have hstays : retrySwap s l = s := by
    unfold retrySwap
    split
    next w hw =>
      refine if_neg fun g => ?_
      obtain ⟨hask, hsends⟩ := Bool.and_eq_true_iff.1 g
      have := h w hw hask
      have := of_decide_eq_true hsends
      omega
    next => rfl
  rw [exec_spareRetry_swap hnone, hstays, done_settled hs]

theorem exec_spareRetry_resends (hs : s.settled = true) (hw : (getLink s l).swap = some w) (hask : w.asking = true)
    (hsends : w.sends < 3) : ∃ t, exec (.spareRetry l) s = .next t ∧
      (getLink t l).swap = some { w with sends := w.sends + 1 } ∧
      ∃ m ∈ outOf (getLink t l) (towardNode w.awaits.2), m.typ = 8 ∧ m.seq = w.seq := by
  have hresends : retrySwap s l = resendSpare s l w := by
    unfold retrySwap
    rw [hw]
    exact if_pos (by rw [hask, decide_eq_true hsends]; rfl)
  refine ⟨resendSpare s l w, ?_, ?_, _, mem_outOf_joinOut _ l _, ?_⟩
  · rw [exec_spareRetry_swap hnone, hresends]
    exact done_of_sameBut hs (fun k hk => resendSpare_keeps hk (k.same_refl s)) (by decide)
  · refine (joinOut_field Link.swap (fun _ _ _ => rfl) _ _ _).trans ?_
    rw [getLink_modLink]
  · exact ⟨rfl, rfl⟩

end

end

/-! ### A swap that the part begins (R209 step 1, R211) -/

section
variable {s : State} {l : LinkNo} {d : Dir} {k : LLane} {n : SpareNo}

theorem sendSpare_swap (s : State) (l : LinkNo) (w : Swap) (op : Byte) (dst : BitVec 2) :
    (getLink (sendSpare s l w op dst) l).swap =
      (getLink s l).swap.map fun x => { x with seq := Config.mosSeq s.free, sends := 1, asking := true } := by
  refine (joinOut_field Link.swap (fun _ _ _ => rfl) _ l _).trans ?_
  rw [getLink_modLink]
  rfl

theorem sendSpare_field {α : Type} (f : Link → α) (hf : ∀ k a b, f { k with outAB := a, outBA := b } = f k)
    (hswap : ∀ k w, f { k with swap := w } = f k) (s : State) (l : LinkNo) (w : Swap) (op : Byte) (dst : BitVec 2) :
    f (getLink (sendSpare s l w op dst) l) = f (getLink s l) := by
  refine (joinOut_field f hf _ l _).trans ?_
  rw [getLink_modLink, hswap]
  rfl

/-- A swap as it begins, before its first SPARE has a SEQ. -/
def swapBegun (s : State) (d : Dir) (k : LLane) (n : SpareNo) (cause : Byte) (back : Bool) : Swap :=
  { dir := d, lane := k, spare := n, cause := cause, id := Config.swapId s.free, seq := 0, step := .dup, asking := false
    back := back, misses := 0, sends := 0, failed := none }

/-- The spare of a swap that begins: it aligns, unless the lane goes home from it. -/
def spareAligns (s : State) (l : LinkNo) (d : Dir) (k : LLane) (n : SpareNo) (back : Bool) : State :=
  if back then (useFree s).2 else setSpare (useFree s).2 l n d (spareAs .aligning k)

theorem beginSwap_eq (s : State) (l : LinkNo) (d : Dir) (k : LLane) (n : SpareNo) (cause : Byte) (back : Bool) :
    beginSwap s l d k n cause back =
      sendSpare (modLink (spareAligns s l d k n back) l fun x => { x with swap := some (swapBegun s d k n cause back) }) l
        (swapBegun s d k n cause back) ((swapBegun s d k n cause back).op 1 4) d.upNode := rfl

theorem getLink_spareAligns (s : State) (l : LinkNo) (d : Dir) (k : LLane) (n : SpareNo) (back : Bool) :
    getLink (spareAligns s l d k n back) l = { getLink s l with
      spares := if back then (getLink s l).spares else vput (getLink s l).spares (spareIx n d) (spareAs .aligning k) } := by
  cases back
  · exact getLink_modLink _ _ _
  · rfl

/-- A swap that begins asks for DUP, and its spare aligns unless the lane goes home from it. -/
theorem beginSwap_begins (s : State) (l : LinkNo) (d : Dir) (k : LLane) (n : SpareNo) (cause : Byte) (back : Bool) :
    ∃ w : Swap, (w.dir = d ∧ w.lane = k ∧ w.spare = n ∧ w.cause = cause ∧ w.back = back ∧ w.step = .dup) ∧
      (getLink (beginSwap s l d k n cause back) l).swap = some w ∧
      (getLink (beginSwap s l d k n cause back) l).width = (getLink s l).width ∧
      (getLink (beginSwap s l d k n cause back) l).spares =
        if back then (getLink s l).spares else vput (getLink s l).spares (spareIx n d) (spareAs .aligning k) := by
  rw [beginSwap_eq, sendSpare_swap, sendSpare_field Link.width (fun _ _ _ => rfl) fun _ _ => rfl,
    sendSpare_field Link.spares (fun _ _ _ => rfl) fun _ _ => rfl, getLink_modLink, getLink_spareAligns]
  exact ⟨_, ⟨rfl, rfl, rfl, rfl, rfl, rfl⟩, rfl, rfl, rfl⟩

theorem beginSwap_otherLink {j : LinkNo} {cause : Byte} {back : Bool} (h : j ≠ l) :
    getLink (beginSwap s l d k n cause back) j = getLink s j := by
  have hspare : getLink (spareAligns s l d k n back) j = getLink s j := by
    cases back
    · exact getLink_modLink_other _ _ _ _ h
    · rfl
  rw [beginSwap_eq]
  refine (getLink_modLink_other _ _ _ _ h).trans ((getLink_modLink_other _ _ _ _ h).trans ?_)
  exact (getLink_modLink_other _ _ _ _ h).trans hspare

end

/-! ### Where lanes are received while the Heel evaluates them -/

/-- The spare carries a lane. -/
def SpareSt.carries (x : SpareSt) (k : LLane) : Bool :=
  (x.code == .carrying || x.code == .standin || (x.code == .forward && x.moved)) && x.lane == k

/-- Up to the receive switch of a swap the lane is received where it was. -/
theorem takenFrom_before {s : State} {l : LinkNo} {d : Dir} {k : LLane} (h : ∀ w, (getLink s l).swap = some w → w.step = .dup) :
    takenFrom s l d k = bothSpares.find? fun n => (getSpare s l n d).carries k := by
  unfold takenFrom
  dsimp only
  split
  next w hw =>
    refine if_neg ?_
    rw [h w hw]
    rintro ⟨-, -, e | e⟩ <;> cases e
  next => rfl

/-- The same lanes are trained, and each is received where it was. -/
structure Alike (s t : State) : Prop where
  last : t.last = s.last
  width : ∀ l, (getLink t l).width = (getLink s l).width
  taken : ∀ l d k, takenFrom t l d k = takenFrom s l d k

section
variable {s t u : State} {l : LinkNo} {d : Dir} {k : LLane} {n : SpareNo}

theorem Alike.refl (s : State) : Alike s s := ⟨rfl, fun _ => rfl, fun _ _ _ => rfl⟩

theorem Alike.trans (h : Alike s t) (g : Alike t u) : Alike s u :=
  ⟨g.last.trans h.last, fun l => (g.width l).trans (h.width l), fun l d k => (g.taken l d k).trans (h.taken l d k)⟩

theorem takenFrom_of_link (h : getLink t l = getLink s l) : takenFrom t l d k = takenFrom s l d k := by
  unfold takenFrom getSpare
  rw [h]

theorem modMeas_alike (s : State) (sd : Side) (p : Pos) (f : LaneMeas → LaneMeas) : Alike s (modMeas s sd p f) :=
  ⟨rfl, fun _ => rfl, fun _ _ _ => takenFrom_of_link rfl⟩

theorem Alike.linkRec (h : Alike s t) (l : LinkNo) : linkRec t l = linkRec s l := by
  unfold Machine.linkRec
  rw [h.last]

theorem Alike.recIs (h : Alike s t) (l : LinkNo) (f : LinkRec → Bool) : recIs t l f = recIs s l f := by
  unfold Machine.recIs
  rw [h.linkRec]

theorem Alike.trainedLanes (h : Alike s t) (l : LinkNo) : trainedLanes t l = trainedLanes s l := by
  unfold Machine.trainedLanes
  rw [h.linkRec, h.width]

theorem Alike.laneRx (h : Alike s t) (l : LinkNo) (d : Dir) (k : LLane) : laneRx t l d k = laneRx s l d k := by
  unfold Machine.laneRx
  rw [h.linkRec, h.taken, h.last]

/-- A swap onto a WARM spare moves no lane as it begins. -/
theorem beginSwap_alike {cause : Byte} (hswap : (getLink s l).swap = none) (hwarm : (getSpare s l n d).code = .warm) :
    Alike s (beginSwap s l d k n cause false) := by
  obtain ⟨w, ⟨-, -, -, -, -, hstep⟩, hw, hwidth, hspares⟩ := beginSwap_begins s l d k n cause false
  refine ⟨beginSwap_keeps (k := .last) (by decide) rfl, fun j => ?_, fun j e i => ?_⟩
  · by_cases hj : j = l
    · exact hj ▸ hwidth
    · rw [beginSwap_otherLink hj]
  · by_cases hj : j = l
    · subst hj
      have hcarries : ∀ m, (getSpare (beginSwap s j d k n cause false) j m e).carries i = (getSpare s j m e).carries i := by
        intro m
        unfold getSpare at hwarm ⊢
        rw [hspares, if_neg Bool.false_ne_true]
        by_cases hm : spareIx m e = spareIx n d
        · obtain ⟨rfl, rfl⟩ := spareIx_inj hm
          rw [vput_self]
          unfold SpareSt.carries
          rw [hwarm]
          rfl
        · rw [vput_other _ _ _ _ hm]
      rw [takenFrom_before fun w' h => by rw [Option.some.inj (h.symm.trans hw)]; exact hstep,
        takenFrom_before fun w' h => by rw [hswap] at h; cases h]
      exact congrArg (fun f => bothSpares.find? f) (funext hcarries)
    · exact takenFrom_of_link (beginSwap_otherLink hj)

theorem plannedOk_idle (h : plannedOk s l = true) : (getLink s l).swap = none := by
  unfold plannedOk at h
  simp only [Bool.and_eq_true, Option.isNone_iff_eq_none] at h
  exact h.1.2

theorem predictOne_alike (s : State) (l : LinkNo) (d : Dir) (k : LLane) : Alike s (predictOne s l d k) := by
  unfold predictOne
  split
  · exact .refl s
  · dsimp only
    split
    · exact (modMeas_alike ..).trans (modMeas_alike ..)
    · split
      · exact modMeas_alike ..
      next n hn =>
        obtain ⟨hok, hwarm⟩ := Option.ite_none_right_eq_some.1 hn
        simp only [Bool.and_eq_true] at hok
        refine (modMeas_alike ..).trans ((modMeas_alike ..).trans (beginSwap_alike (plannedOk_idle hok.1.1) ?_))
        exact beq_iff_eq.1 (List.find?_some (p := fun n => (getSpare s l n d).code == .warm) hwarm)

end

/-! ### The Heel's evaluation (R215) -/

/-- A receiver has no VALID figure. -/
def unmeasured (sd : Side) (p : Pos) (s : State) : Prop := (getLane s sd p).meas.conf ≠ 2

/-- A receiver has no VALID figure, and its run of low ones is to start anew. -/
def startsAnew (sd : Side) (p : Pos) (s : State) : Prop := unmeasured sd p s ∧ (getLane s sd p).meas.lowRun = 0

section
variable {s t : State} {l : LinkNo} {d : Dir} {k : LLane} {sd : Side} {p : Pos}

theorem nextWindow_conf (m : LaneMeas) : (nextWindow m).conf = m.conf ∧ (nextWindow m).lowRun = m.lowRun := by
  unfold nextWindow
  split <;> exact ⟨rfl, rfl⟩

/-- The evaluation of a lane without a VALID figure. -/
theorem predictOne_startsAnew (hp : laneRx s l d k = some p) (h : unmeasured d.rxSide p s) :
    startsAnew d.rxSide p (predictOne s l d k) := by
  have hlow : predictLane s.last.working.thresh (getLane s d.rxSide p).meas =
      (false, { (getLane s d.rxSide p).meas with lowRun := 0 }) := if_pos h
  have hone : predictOne s l d k =
      modMeas (modMeas s d.rxSide p fun _ => { (getLane s d.rxSide p).meas with lowRun := 0 }) d.rxSide p nextWindow := by
    unfold predictOne
    rw [hp]
    dsimp only
    rw [hlow]
    rfl
  obtain ⟨hconf, hrun⟩ := nextWindow_conf { (getLane s d.rxSide p).meas with lowRun := 0 }
  unfold unmeasured at h
  unfold startsAnew unmeasured
  rw [hone]
  unfold modMeas
  rw [getLane_modLane, getLane_modLane]
  exact ⟨fun e => h (hconf.symm.trans e), hrun⟩

/-- The evaluation of a lane leaves every other receiver alone. -/
theorem predictOne_otherLane (h : ∀ q, laneRx s l d k = some q → (sd, p) ≠ (d.rxSide, q)) :
    getLane (predictOne s l d k) sd p = getLane s sd p := by
  unfold predictOne
  split
  · rfl
  next q hq =>
    have hbegins : ∀ (t : State) n, getLane (beginSwap t l d k n 0 false) sd p = getLane t sd p := fun t n => by
      unfold getLane
      rw [show (beginSwap t l d k n 0 false).lanes = t.lanes from beginSwap_keeps (k := .lanes) (by decide) rfl]
    have hother : ∀ (t : State) f, getLane (modMeas t d.rxSide q f) sd p = getLane t sd p :=
      fun t f => getLane_modLane_other _ _ _ _ _ _ (h q hq)
    dsimp only
    split
    · rw [hother, hother]
    · split
      · rw [hother]
      · rw [hbegins, hother, hother]

theorem predictOne_cases (h : unmeasured sd p s) (l : LinkNo) (d : Dir) (k : LLane) :
    startsAnew sd p (predictOne s l d k) ∨ getLane (predictOne s l d k) sd p = getLane s sd p := by
  by_cases hat : laneRx s l d k = some p ∧ d.rxSide = sd
  · obtain ⟨hp, rfl⟩ := hat
    exact .inl (predictOne_startsAnew hp h)
  · refine .inr (predictOne_otherLane fun q hq e => hat ?_)
    cases e
    exact ⟨hq, rfl⟩

theorem predictOne_unmeasured (h : unmeasured sd p s) : unmeasured sd p (predictOne s l d k) := by
  rcases predictOne_cases h l d k with hanew | hsame
  · exact hanew.1
  · unfold unmeasured
    rw [hsame]
    exact h

theorem predictOne_stays (h : startsAnew sd p s) : startsAnew sd p (predictOne s l d k) := by
  rcases predictOne_cases h.1 l d k with hanew | hsame
  · exact hanew
  · unfold startsAnew unmeasured
    rw [hsame]
    exact h

/-- The evaluation of a link. -/
def predictLink (t : State) (l : LinkNo) : State :=
  if !(isPart t l && recIs t l (·.predict)) then t
  else bothDirs.foldl (fun u d => (trainedLanes u l).foldl (fun v k => predictOne v l d k) u) t

theorem exec_predictiveEvaluation (hb : s.boot.done = true) (hd : s.dev.standby = false)
    (hp : s.last.working.heel.predictEn = true) : exec .predictiveEvaluation s = done (allLinks.foldl predictLink s) :=
  if_neg (by rw [hb, hd, hp]; decide)

theorem exec_predictiveEvaluation_off (hs : s.settled = true)
    (h : s.boot.done = false ∨ s.dev.standby = true ∨ s.last.working.heel.predictEn = false) :
    exec .predictiveEvaluation s = .next s := by
  refine (if_pos ?_).trans (done_settled hs)
  rcases h with h | h | h <;> simp [h]

/-- What the evaluation of every lane keeps, that of a direction and that of a link keep. -/
theorem predictDir_holds {P : State → Prop} (hone : ∀ t l d k, P t → P (predictOne t l d k)) (h : P t)
    (l : LinkNo) (d : Dir) : P ((trainedLanes t l).foldl (fun v k => predictOne v l d k) t) :=
  List.foldlRecOn (trainedLanes t l) _ h fun v g k _ => hone v l d k g

theorem predictLink_holds {P : State → Prop} (hone : ∀ t l d k, P t → P (predictOne t l d k)) (h : P t) (l : LinkNo) :
    P (predictLink t l) := by
  unfold predictLink
  split
  · exact h
  · exact List.foldlRecOn bothDirs _ h fun u g d _ => predictDir_holds hone g l d

/-- Once every lane has been evaluated, the runs of those without a VALID figure start anew. -/
theorem predictLinks_startAnew (hpart : isPart s l = true) (hpredict : recIs s l (·.predict) = true) (hk : k ∈ trainedLanes s l)
    (hp : laneRx s l d k = some p) (h : unmeasured d.rxSide p s) : startsAnew d.rxSide p (allLinks.foldl predictLink s) := by
  have hq : ∀ t l' d' k', Alike s t ∧ unmeasured d.rxSide p t →
      Alike s (predictOne t l' d' k') ∧ unmeasured d.rxSide p (predictOne t l' d' k') :=
    fun t l' d' k' g => ⟨g.1.trans (predictOne_alike t l' d' k'), predictOne_unmeasured g.2⟩
  have hstays : ∀ t l' d' k', startsAnew d.rxSide p t → startsAnew d.rxSide p (predictOne t l' d' k') :=
    fun _ _ _ _ => predictOne_stays
  have hdir : ∀ t, Alike s t ∧ unmeasured d.rxSide p t →
      startsAnew d.rxSide p ((trainedLanes t l).foldl (fun v k => predictOne v l d k) t) := fun t g =>
    foldl_reaches (Q := fun t => Alike s t ∧ unmeasured d.rxSide p t) (fun t k' => hq t l d k')
      (fun u g => predictOne_startsAnew ((g.1.laneRx l d k).trans hp) g.2) (fun t k' => hstays t l d k')
      (by rw [g.1.trainedLanes]; exact hk) g
  have hlink : ∀ t, Alike s t ∧ unmeasured d.rxSide p t → startsAnew d.rxSide p (predictLink t l) := fun t g => by
    unfold predictLink
    rw [if_neg (by rw [show isPart t l = true from (g.1.recIs l _).trans hpart, g.1.recIs, hpredict]; decide)]
    exact foldl_reaches (Q := fun t => Alike s t ∧ unmeasured d.rxSide p t) (a := d) (fun t e g => predictDir_holds hq g l e)
      hdir (fun t e g => predictDir_holds hstays g l e) (by cases d <;> decide) g
  exact foldl_reaches (Q := fun t => Alike s t ∧ unmeasured d.rxSide p t) (fun t j g => predictLink_holds hq g j) hlink
    (fun t j g => predictLink_holds hstays g j) (List.mem_finRange l) ⟨.refl s, h⟩

theorem predictLinks_heel (s : State) (r : List LinkNo) : (r.foldl predictLink s).heel = s.heel :=
  foldl_keeps (k := .heel) (s := s) rfl fun _ l h =>
    predictLink_holds (P := Comp.same .heel s) (fun _ _ _ _ => predictOne_keeps (by decide)) h l

theorem exec_predictiveEvaluation_startsAnew (hs : s.settled = true) (hb : s.boot.done = true) (hd : s.dev.standby = false)
    (hen : s.last.working.heel.predictEn = true) (hpart : isPart s l = true) (hpredict : recIs s l (·.predict) = true) :
    ∃ t, exec .predictiveEvaluation s = .next t ∧ ∀ d, ∀ j ∈ trainedLanes s l, ∀ p, laneRx s l d j = some p →
      (getLane s d.rxSide p).meas.conf ≠ 2 → (getLane t d.rxSide p).meas.lowRun = 0 := by
  refine ⟨_, exec_predictiveEvaluation hb hd hen, fun d j hj p hp h => ?_⟩
  have hdue := (congrArg HeelSt.restartDue (predictLinks_heel s allLinks)).trans (restartDue_of_settled hs)
  obtain ⟨-, hrun⟩ := predictLinks_startAnew hpart hpredict hj hp h
  generalize allLinks.foldl predictLink s = x at hdue hrun ⊢
  unfold getLane at hrun ⊢
  rw [fin_lanes hdue]
  exact hrun

end

/-! ### LNKSPCMD (R218) -/

theorem getLsbD_setFld {n : Nat} (v : Word) (x : BitVec n) {j : Nat} (hj : j < 32) :
    (setFld v 0 x).getLsbD j = if j < n then x.getLsbD j else v.getLsbD j := by
  unfold setFld at_
  simp only [BitVec.getLsbD_or, BitVec.getLsbD_and, BitVec.getLsbD_not, BitVec.getLsbD_shiftLeft, BitVec.getLsbD_setWidth,
    BitVec.getLsbD_allOnes]
  by_cases h : j < n
  · simp [h, hj]
  · simp [h, hj, BitVec.getLsbD_of_ge x j (Nat.le_of_not_lt h)]

theorem fld_setFld_self {n : Nat} (v : Word) (x : BitVec n) (hn : n ≤ 32) : fld (setFld v 0 x) 0 n = x := by
  refine BitVec.eq_of_getLsbD_eq fun i hi => ?_
  unfold fld
  rw [BitVec.getLsbD_extractLsb', Nat.zero_add, getLsbD_setFld v x (by omega)]
  simp [hi]

theorem fld_setFld_above {n : Nat} (v : Word) (x : BitVec n) (lo m : Nat) (hlo : n ≤ lo) (hm : lo + m ≤ 32) :
    fld (setFld v 0 x) lo m = v.extractLsb' lo m := by
  refine BitVec.eq_of_getLsbD_eq fun i hi => ?_
  unfold fld
  rw [BitVec.getLsbD_extractLsb', BitVec.getLsbD_extractLsb', getLsbD_setFld v x (by omega), if_neg (by omega)]

section
variable {s : State} {l : LinkNo} {n : SpareNo} {d : Dir} {k : LLane} {back : Bool}

/-- Spares, and swaps of lanes that are not lost, are in force on the link. -/
def spareAble (k : Link) : Bool := k.capLink.getLsbD 0 && k.capLink.getLsbD 6

/-- The spare serves the command: it is WARM for SWAP, for BACK it carries the lane. -/
def spareReady (s : State) (l : LinkNo) (n : SpareNo) (d : Dir) (k : LLane) (back : Bool) : Bool :=
  if back then (getSpare s l n d).code == .carrying && (getSpare s l n d).lane == k else (getSpare s l n d).code == .warm

/-- The link allows a swap of the lane now. -/
def spareFree (s : State) (l : LinkNo) (k : LLane) : Bool :=
  (getLink s l).st == .active && (getLink s l).swap.isNone && !committing s && (trainedLanes s l).contains k

/-- SWAP and BACK of LNKSPCMD. -/
def spareCmd (s : State) (l : LinkNo) (n : SpareNo) (d : Dir) (k : LLane) (back : Bool) : State :=
  if spareAble (getLink s l) then
    if spareReady s l n d k back then if spareFree s l k then beginSwap s l d k n 3 back else setSwapResult s l 7
    else setSwapResult s l 2
  else setSwapResult s l 3

theorem plannedOk_eq (s : State) (l : LinkNo) : plannedOk s l =
    (spareAble (getLink s l) && ((getLink s l).st == .active && (getLink s l).swap.isNone && !committing s)) := by
  unfold plannedOk spareAble
  simp only [Bool.and_assoc]

theorem writeLnkspcmd_eq {v : Word} {x : BitVec 2} (hx : x = if back then 2 else 1) :
    writeLnkspcmd s l (setFld v 0 x) =
      spareCmd s l (if v.getLsbD 6 then 1 else 0) (if v.getLsbD 7 then .BA else .AB) (v.extractLsb' 2 4).toFin back := by
  have hbit : ∀ i, 2 ≤ i → i < 32 → bitAt (setFld v 0 x) i = v.getLsbD i := fun i h2 hi =>
    (getLsbD_setFld v x hi).trans (if_neg (by omega))
  unfold writeLnkspcmd
  rw [fld_setFld_self v x (by decide), fld_setFld_above v x 2 4 (by decide) (by decide), hbit 6 (by decide) (by decide),
    hbit 7 (by decide) (by decide)]
  generalize (if v.getLsbD 6 then 1 else 0 : SpareNo) = n
  generalize (if v.getLsbD 7 then Dir.BA else .AB) = d
  generalize (v.extractLsb' 2 4).toFin = k
  have hop : ¬(x.toNat = 0 ∨ x.toNat = 3) := by rw [hx]; cases back <;> decide
  have hready : (if x.toNat = 1 then (getSpare s l n d).code == .warm
      else (getSpare s l n d).code == .carrying && (getSpare s l n d).lane == k) = spareReady s l n d k back := by
    rw [hx]
    cases back <;> rfl
  have hback : decide (x.toNat = 2) = back := by rw [hx]; cases back <;> rfl
  dsimp only
  rw [if_neg hop, hready, hback, plannedOk_eq]
  unfold spareCmd
  cases hable : spareAble (getLink s l) with
  | false => exact if_pos (by rw [show (_ && _) = false from hable]; rfl)
  | true =>
    refine (if_neg (by rw [show (_ && _) = true from hable]; decide)).trans ?_
    cases spareReady s l n d k back with
    | false => rfl
    | true =>
      rw [Bool.true_and, ← Bool.not_and]
      show (if !spareFree s l k then _ else _) = _
      cases spareFree s l k <;> rfl

section
variable {c : Ctx} {v : Word} (ho : opens s c (.lnkspcmd l))
include ho

theorem exec_lnkspcmdSwap : exec (.lnkspcmdSwap c l v) s =
    done (spareCmd s l (if v.getLsbD 6 then 1 else 0) (if v.getLsbD 7 then .BA else .AB) (v.extractLsb' 2 4).toFin false) :=
  congrArg done ((writeTo_opens _ ho).trans (writeLnkspcmd_eq rfl))

theorem exec_lnkspcmdBack : exec (.lnkspcmdBack c l v) s =
    done (spareCmd s l (if v.getLsbD 6 then 1 else 0) (if v.getLsbD 7 then .BA else .AB) (v.extractLsb' 2 4).toFin true) :=
  congrArg done ((writeTo_opens _ ho).trans (writeLnkspcmd_eq rfl))

end

section
variable (hs : s.settled = true)
include hs

theorem done_spareCmd_unable (h : spareAble (getLink s l) = false) :
    done (spareCmd s l n d k back) = .next (modLink s l fun x => { x with lastResult := 3 }) := by
  unfold spareCmd
  rw [if_neg (by rw [h]; decide)]
  exact done_modLink hs l _

variable (hable : spareAble (getLink s l) = true)
include hable

theorem done_spareCmd_unready (h : spareReady s l n d k back = false) :
    done (spareCmd s l n d k back) = .next (modLink s l fun x => { x with lastResult := 2 }) := by
  unfold spareCmd
  rw [if_pos hable, if_neg (by rw [h]; decide)]
  exact done_modLink hs l _

theorem done_spareCmd_busy (h : spareReady s l n d k back = true) (hfree : spareFree s l k = false) :
    done (spareCmd s l n d k back) = .next (modLink s l fun x => { x with lastResult := 7 }) := by
  unfold spareCmd
  rw [if_pos hable, if_pos h, if_neg (by rw [hfree]; decide)]
  exact done_modLink hs l _

theorem done_spareCmd_begins (h : spareReady s l n d k back = true) (hfree : spareFree s l k = true) :
    ∃ t w, done (spareCmd s l n d k back) = .next t ∧ (getLink t l).swap = some w ∧ w.dir = d ∧ w.lane = k ∧
      w.spare = n ∧ w.cause = 3 ∧ w.back = back ∧ w.step = .dup := by
  obtain ⟨w, hbegun, hw, -⟩ := beginSwap_begins s l d k n 3 back
  refine ⟨_, w, ?_, hw, hbegun⟩
  unfold spareCmd
  rw [if_pos hable, if_pos h, if_pos hfree]
  exact done_of_sameBut hs (fun k hk => beginSwap_keeps hk (k.same_refl s)) (by decide)

end

theorem spareReady_swap : spareReady s l n d k false = true ↔ (getSpare s l n d).code = .warm := beq_iff_eq

theorem spareReady_back :
    spareReady s l n d k true = true ↔ (getSpare s l n d).code = .carrying ∧ (getSpare s l n d).lane = k := by
  unfold spareReady
  simp

end

/-- Settles O60, command by command: idle entry and waking, grants, spares, answers, retries, the Heel's evaluation, LNKSPCMD. -/
theorem sleepAndSparesFollow : Obligations.SleepAndSparesFollow := by
  unfold Obligations.SleepAndSparesFollow
  intro s l hs
  dsimp only
  refine ⟨fun d => ⟨exec_idleEntry_stays hs, fun hp hx hst hn => exec_idleEntry_sleeps hp hx hs hst hn,
      fun hp hx hst hn hf => exec_idleEntry_deepens hp hx hs hst hn hf,
      fun hp hx hst hdeep hsleep _ => exec_idleEntry_retrains hp hx hst hdeep hsleep⟩,
    fun sd => ⟨exec_sleepWake_stays hs, exec_sleepWake_wakes⟩,
    ⟨exec_wakeFail_stays hs, fun hw ha _ => exec_wakeFail_asks hw ha⟩,
    ⟨exec_deepEntryTimeout_stays hs, exec_deepEntryTimeout_sleeps hs, fun h hc _ => exec_deepEntryTimeout_asks h hc⟩,
    fun x => ⟨exec_lpGrantSeen_stays hs, exec_lpGrantSeen_notes hs, exec_lpReqIdle_stays hs,
      fun h => ⟨_, exec_lpReqIdle_asks hs h, asked_once, asked_sameBut, asked_asks⟩⟩,
    fun n d => ⟨exec_spareLockTimer_warms hs, exec_spareLockTimer_locked_stays hs, exec_spareLockTimer_fails hs,
      exec_spareLockTimer_unlocked_stays hs⟩,
    fun sd r => ⟨exec_spareRsp_unheard hs, fun hm => exec_spareRsp_bad hm hs, fun hm => exec_spareRsp_frees hm hs⟩,
    fun sd r w hm hw ha hr => ⟨exec_spareRsp_aligns hm hs hw ha hr,
      fun hstep hback hfailed hwait hc => exec_spareRsp_ends hm hw ha hr hstep hback hfailed hwait hc⟩,
    fun r => exec_spareMosForwarded_unseen hs,
    fun r n d j hc hm hp ho hw => ⟨fun hh => ?_, fun hh => ?_⟩,
    ?retry,
    exec_predictiveEvaluation_off hs,
    exec_predictiveEvaluation_startsAnew hs,
    fun c v ho => ?spcmd⟩
  · rw [exec_spareMosForwarded hc hm, passSpare_forwards hp hw ho hh, done_setSpare hs]
  · rw [exec_spareMosForwarded hc hm, passSpare_held hp hw hh, done_settled hs]
  case retry =>
    rintro again rfl
    refine ⟨fun h => ⟨exec_swapTimeout_stays hs h, fun hnone => exec_spareRetry_stays hnone hs fun w hw hask => ?_⟩,
      fun m i => exec_spareRetry_releases hs, fun w hw hask => ⟨?_, ?_, ?_⟩⟩
    · rw [hw] at h
      rw [Option.all_some, hask] at h
      cases h
    · exact exec_swapTimeout_fails hw hask
    · intro hnone hsends
      refine exec_spareRetry_stays hnone hs fun w' hw' _ => ?_
      obtain rfl := Option.some.inj (hw.symm.trans hw')
      exact hsends
    · exact fun hnone => exec_spareRetry_resends hnone hs hw hask
  case spcmd =>
    rw [exec_lnkspcmdSwap ho, exec_lnkspcmdBack ho]
    have unready : ∀ {b : Bool} {p : Prop}, (b = true ↔ p) → ¬p → b = false := fun h hn => Bool.eq_false_iff.2 (mt h.1 hn)
    exact ⟨fun h => ⟨done_spareCmd_unable hs h, done_spareCmd_unable hs h⟩, fun h =>
      ⟨fun hn => done_spareCmd_unready hs h (unready spareReady_swap hn),
        fun hn => done_spareCmd_unready hs h (unready spareReady_back hn),
        fun hfree => ⟨fun hw => done_spareCmd_busy hs h (spareReady_swap.2 hw) hfree,
          fun hh => done_spareCmd_busy hs h (spareReady_back.2 hh) hfree⟩,
        fun hfree => ⟨fun hw => done_spareCmd_begins hs h (spareReady_swap.2 hw) hfree,
          fun hh => done_spareCmd_begins hs h (spareReady_back.2 hh) hfree⟩⟩⟩

end Sys2Proof.Machine
